-- ==== Sys2Proof/Word.lean ====
section
/-!
DEFINITION. Word.lean: the plain word types of the model. A byte is what memory, messages and dictionary values are
made of; a 64-bit word is what a fibre or sequencer register holds (R102, R195). Little-endian packing and bit fields are
in Machine/Bytes.lean.
-/
namespace Sys2Proof

/-- A byte of memory, of a message or of a dictionary value. -/
abbrev Byte := BitVec 8

/-- A 64-bit register or memory unit. -/
abbrev Word := BitVec 64

/-- A byte string: a dictionary value, a payload, a record. -/
abbrev Bytes := List (BitVec 8)

/-- Fabric time, a count of 1 ns ticks (R8). -/
abbrev Tick := Nat

/-- A finite map with natural-number keys, as a list of pairs in rising key order. -/
abbrev Table (α : Type) := List (Nat × α)

end Sys2Proof
end

