-- ==== Sys2Proof/Machine/Types.lean ====
section
/-!
DEFINITION. Machine/Types.lean: the formats that commands, packets and the dictionary are made of: TTP messages (R78),
fabric packets (R236, Table 7.6), who issued an access (Table 9.2), error reports (R352), the outputs the part makes at its
boundary, and the shape of a dictionary entry (R53 to R70).
-/
namespace Sys2Proof.Machine

/-- R57: the value kinds of Table 3.2, as far as a length and a range rule tell them apart. -/
inductive OdKind where
  | flag | nat | int | str | octets | domain
  deriving DecidableEq, Repr

/-- R58: the dictionary access codes of Table 3.3. -/
inductive Access where
  | const | ro | rw | wo | rwe | rwd
  deriving DecidableEq, Repr

/-- R63: the names of a Roles column. Operator, Owner(p), Auditor, Service, and any (role none included). -/
inductive RoleName where
  | operator | owner | auditor | service | any
  deriving DecidableEq, Repr

/-- R70: ground, ground with tints allowed to overlay, or neither. -/
inductive Member where
  | ground | tinted | neither
  deriving DecidableEq, Repr

/-- One row of the dictionary tables: an index range, a subindex range, and what every entry in it has in common. -/
structure OdEntry where
  lo : Nat
  hi : Nat
  subLo : Nat
  subHi : Nat
  kind : OdKind
  minLen : Nat
  maxLen : Nat
  acc : Access
  readers : List RoleName := []
  writers : List RoleName := []
  /-- the default value, as a little-endian number -/
  dflt : Nat := 0
  member : Member := .neither
  /-- lowest value, highest value and step, where the entry's range is one interval (R7) -/
  range : Option (Nat × Nat × Nat) := none
  deriving DecidableEq, Repr

/-- Who asks: the transport endpoint (0 DN, 1 DS, 2 to 5 the mailboxes of P0 to P3), the transfer tag of Table 3.8
(client number and transfer number) and the session ID that the message names. -/
structure Req where
  ep : Fin 6
  tag : BitVec 17
  session : BitVec 8
  deriving DecidableEq, Repr

/-- A TTP message (R78, Table 3.6). `flags` is header bits [47:40]: VIEW, LAST, GROUND, then reserved. -/
structure TtpMsg where
  cs : BitVec 8
  session : BitVec 8 := 0
  index : BitVec 16 := 0
  sub : BitVec 8 := 0
  flags : BitVec 8 := 0
  len : BitVec 8 := 0
  seq : BitVec 8 := 0
  payload : Bytes := []
  deriving DecidableEq, Repr

/-- A fabric packet: the header of Table 7.6 field by field, its payload, and its tail's check value (R238): bits [79:16]
of the sideband, of which bit 63 here is the stomp bit of R323. -/
structure Packet where
  opcode : BitVec 8
  mclass : BitVec 3 := 0
  tc : BitVec 3 := 0
  rset : BitVec 2 := 0
  wpValid : Bool := false
  epoch : BitVec 2 := 0
  partition : BitVec 4 := 0
  poison : Bool := false
  check : BitVec 2 := 0
  ackNow : Bool := false
  opening : Bool := false
  dest : BitVec 12 := 0
  src : BitVec 12 := 0
  waypoint : BitVec 12 := 0
  stream : BitVec 6 := 0
  sgen : BitVec 10 := 0
  seq : BitVec 16 := 0
  length : BitVec 13 := 0
  tag : BitVec 16 := 0
  tagValid : Bool := false
  aux : BitVec 32 := 0
  addr : BitVec 48 := 0
  payload : Bytes := []
  checkValue : BitVec 64 := 0
  deriving DecidableEq, Repr

/-- The unit that issued an access, to which its success or failure is reported (Table 9.2). -/
inductive Initiator where
  /-- the fibre of this batch and linear index, in this slot, with its context tag if it carries one -/
  | fibre (vat slice slot batch index : Nat) (tag : Option Nat)
  | sequencer (vat : Nat)
  /-- the admission engine of a port, for the input write of a context in one delivery attempt -/
  | admission (port ctx attempt : Nat)
  /-- the admission engine's delivery entry and signal for a context in one attempt -/
  | delivery (port ctx attempt : Nat)
  | portFront (port : Nat)
  /-- a responder: READ_DATA, SYNC_RSP, REFUSAL and ENDPOINT_RSP packets of a tile -/
  | responder (tile : Nat)
  /-- a multicast root or a member agent -/
  | multicast (group : Nat)
  | trace (tile : Nat)
  /-- any other deckle endpoint, by die and unit code (Table 9.7) -/
  | endpoint (die unit : Nat)
  deriving DecidableEq, Repr

/-- A packet that waits at an injection port, with the initiator that issued it. -/
structure OutPacket where
  owner : Initiator
  pkt : Packet
  /-- its wait for a tracker has been counted (R258) -/
  counted : Bool := false
  /-- an escape packet's destination beyond the endpoint that relays it (R251) -/
  relay : Option Nat := none
  deriving DecidableEq, Repr

/-- The key of a receive entry, or of the stream an acknowledgement names. -/
structure StreamRef where
  node : Nat
  stream : Nat
  sgen : Nat
  deriving DecidableEq, Repr

/-- An error as its unit reports it (R352): the fields of Table 9.9 that the reporting unit knows. -/
structure Report where
  cause : Nat
  cls : Nat
  unit : Nat
  source : Nat := 0
  partition : Option Nat := none
  detail : Nat := 0
  addr : Option Nat := none
  tag : Option Nat := none
  peer : Option Nat := none
  stream : Option (Nat × Nat × Nat) := none
  /-- the EPOCH of the packet concerned, else none for the epoch in force -/
  epoch : Option Nat := none
  time : Nat := 0
  /-- reports lost at the die service endpoint before this one (R352) -/
  dropped : Nat := 0
  deriving DecidableEq, Repr

/-- What the part sends across its boundary. -/
inductive Output where
  /-- a CAN FD frame on a controller: identifier and data -/
  | canFrame (ctrl : Nat) (ident : Nat) (data : Bytes)
  /-- a PCIe memory write to the host -/
  | hostWrite (port addr : Nat) (data : Bytes)
  /-- a PCIe memory read request to the host -/
  | hostRead (port addr len : Nat)
  /-- an MSI-X message: table entry's address and data -/
  | msix (port vec addr data : Nat)
  /-- a PMBus transaction: address, PAGE, command, data -/
  | pmbus (addr page cmd : Nat) (data : Bytes)
  /-- an AER error reported by a port function: 0 ECRC Error, 1 Poisoned TLP Received -/
  | aer (port kind : Nat)
  /-- the answer to a host read of a register or memory window -/
  | hostReadData (port : Nat) (data : Bytes)
  /-- bits shifted out of the JTAG port -/
  | tdo (data : Bytes)
  deriving DecidableEq, Repr

/-- What the fabric does to a flit on one hop, as far as a model can be told: words corrected, an uncorrectable word in the
header sector, in 8-byte unit n of the payload, or in the control sideband (R322 to R326). -/
structure FlitErr where
  corrected : Nat := 0
  header : Bool := false
  payload : Option Nat := none
  ctrl : Bool := false
  deriving DecidableEq, Repr

/-- What a stored word decodes to when it is read (R322). -/
inductive EccErr where
  | good | corrected | uncorrectable
  deriving DecidableEq, Repr

/-- How a PCIe transaction ended (R321). -/
inductive TlpErr where
  | good | ecrc | poisoned | completion (status : BitVec 3) | timeout
  deriving DecidableEq, Repr

/-- Operand ranges of the commands: transport endpoint, partner port, BAR, vat die, slice, fibre slot, die, deckle, queue,
admission queue, context, sync cell, multicast and reduction group, partition, model slot, rail, ONFI channel or HBM stack, router input. -/
abbrev EpId := Fin 6
abbrev PortId := Fin 4
abbrev BarId := Fin 6
abbrev VatId := Fin 16
abbrev SliceId := Fin 64
abbrev SlotId := Fin 256
abbrev DieId := Fin 20
abbrev Deckle := Fin 4
abbrev QueueId := Fin 16
abbrev AqId := Fin 11
abbrev CtxId := Fin 256
abbrev CellId := Fin 5120
abbrev McGroupId := Fin 1024
abbrev RedGroupId := Fin 512
abbrev PartId := Fin 16
abbrev ModelSlot := Fin 4
abbrev RailId := Fin 24
abbrev ChanId := Fin 8
abbrev InPort := Fin 5
/-- A node ID {y[5:0], x[5:0]} (R21, Table 1.7). -/
abbrev NodeId := BitVec 12

end Sys2Proof.Machine
end

