-- ==== Sys2Proof/Syntax.lean ====
section
/-!
DEFINITION. Syntax.lean: the commands, one constructor per row of spec/opcode_table.json, each with what its sender supplies:
the unit it names, the packet or message it carries, and what only the part's surroundings can tell (data read from a host or a
device, measured values, random bytes drawn).
-/
namespace Sys2Proof
open Sys2Proof.Machine

/-- The commands of the block, in the order of the opcode table. -/
inductive Instr where
  /-- R79: A client's dictionary read request is checked in order and answered expedited or by opening a segmented read. -/
  | readReq (r : Req) (m : TtpMsg)
  /-- R74: A client's expedited write is checked and serialised at acceptance, and the entry takes effect by its access code. -/
  | writeExp (r : Req) (m : TtpMsg)
  /-- R85: A client opens a segmented write; checks 1-8 run, the part grants a block with SEG_ACK, or refuses with TRANSFER_BUSY when 16 transfers are open. -/
  | segWriteInit (r : Req) (m : TtpMsg)
  /-- R80: A data segment of a segmented write arrives; it is checked for sequence and block and answered with SEG_ACK after each complete block. -/
  | segment (r : Req) (m : TtpMsg)
  /-- R81: A client's block grant in a segmented read lets the part send up to the granted number of segments. -/
  | segAck (r : Req) (m : TtpMsg)
  /-- R82: The final frame of a segmented write is checked for length and CRC-32C and the write is serialised and applied or aborted. -/
  | segEnd (r : Req) (m : TtpMsg)
  /-- R84: An ABORT received from a client ends the named open transfer with no effect, or is discarded. -/
  | abort (r : Req) (m : TtpMsg)
  /-- R84: The segment timeout expires on an open transfer, which ends with TIMEOUT. -/
  | segTimeout (ep : EpId) (tag : BitVec 17)
  /-- R66: A session not named for the session timeout expires. -/
  | sessionTimeout (id : BitVec 6)
  /-- R67: A held session challenge passes its 10 s validity and can no longer open a session. -/
  | challengeExpiry (ep : EpId) (client : BitVec 7)
  /-- R580: A read of the challenge entry builds a fresh 32-byte challenge and holds it for the client. -/
  | sessionChallenge (r : Req)
  /-- R582: A session response is checked and consumes the challenge, opening a session or being refused. -/
  | sessionResponse (r : Req) (value : Bytes)
  /-- R636: A write of SESSION_CLOSE closes the named session. -/
  | sessionClose (r : Req) (id : BitVec 8)
  /-- R92: A CAN FD frame is received and a TTP request addressed to the part's node ID is queued. -/
  | canFrameReceive (ds : Bool) (fd : Bool) (ident : BitVec 29) (data : Bytes)
  /-- R95: The heartbeat period expires and each controller sends a heartbeat frame. -/
  | heartbeat (ds : Bool)
  /-- R89: Once the write response is sent and the transmit queue is empty, new bit-rate settings take effect and the controller reintegrates. -/
  | canBitRateApply (ds : Bool)
  /-- R98: The host writes the mailbox request tail, making slots visible, or the write is ignored as an overrun. -/
  | mbxReqTailWrite (port : PortId) (tail : BitVec 16)
  /-- R98: The host writes the response head, freeing response slots, or the write is ignored as an overrun. -/
  | mbxRspHeadWrite (port : PortId) (head : BitVec 16)
  /-- R100: The part reads a covered request slot once and advances MBX.REQ_HEAD. -/
  | mbxRequestTake (port : PortId)
  /-- R99: The part posts a response into a free slot, advances MBX.RSP_TAIL and sends the vector if enabled. -/
  | mbxResponsePost (port : PortId)
  /-- R9: A host write to a memory-mapped register field without its own row acts by the field's access code. BAR number 5, which no BAR has, stands for the MSI-X Message Control word (notes/assumptions/138.md). -/
  | registerWrite (port : PortId) (bar : BarId) (offset : BitVec 26) (data : Bytes)
  /-- R129: A cell performs a READ sync operation and returns its STATE. -/
  | syncRead (node : NodeId) (p : Packet)
  /-- R129: A cell performs an ADD by its mode and releases every waiter whose condition now holds. -/
  | syncAdd (node : NodeId) (p : Packet)
  /-- R129: A cell performs a SET in counter or event mode. -/
  | syncSet (node : NodeId) (p : Packet)
  /-- R130: A cell performs a WAIT, answering SATISFIED at once, holding a hardware waiter, or answering PARKED. -/
  | syncWait (node : NodeId) (p : Packet)
  /-- R129: A barrier cell performs an ADD and then a WAIT for the phase that held before it. -/
  | syncArriveWait (node : NodeId) (p : Packet)
  /-- R131: A cell performs a CONFIGURE, or answers MISUSE or BUSY. -/
  | syncConfigure (node : NodeId) (p : Packet)
  /-- R133: A vat receives a NOTIFY and releases every parked wait that the notified state satisfies and that parked earlier. -/
  | notify (node : NodeId) (p : Packet)
  /-- R132: A cell receives UNPARK and clears the die's mask bit only if its OPSEQ is not earlier than the last PARKED. -/
  | unpark (node : NodeId) (p : Packet)
  /-- R342: Every 100 µs a cell with a non-empty overflow mask re-sends a NOTIFY of its current state. -/
  | notifyRepeat (cell : CellId)
  /-- R134: A wait table entry frees and the vat re-sends a waiting fibre's or sequencer's WAIT as a plain WAIT. -/
  | waitResend (vat : VatId)
  /-- R136: A vat's wait limit expires on an unsatisfied wait, which is withdrawn with SYNC_TIMEOUT. -/
  | waitLimitExpiry (vat : VatId) (seq : Bool) (slice : SliceId) (slot : SlotId)
  /-- R124: A sync response reaches its initiator and completes or satisfies the waiting fibre or sequencer with acquire semantics. -/
  | syncRsp (node : NodeId) (p : Packet)
  /-- R438: The scheduler's decide evaluation admits at most one eligible head request by pass, strict order and deficit round robin. -/
  | admissionDecision (port : PortId)
  /-- R142: A LIVE context reaches its deadline tick, goes to KILLING with DEADLINE and sends KILL to its partition's vats. -/
  | contextDeadline (port : PortId) (ctx : CtxId)
  /-- R143: A vat receives KILL, stops every fibre of the tag, withdraws waits and queued deliveries, records the kill and answers KILL_DONE. -/
  | kill (node : NodeId) (p : Packet)
  /-- R143: The admission engine receives KILL_DONE and moves the context to FAULTED when every vat has answered. -/
  | killDone (node : NodeId) (p : Packet)
  /-- R342: Every 2 µs the admission engine re-sends KILL to each vat that has not answered. -/
  | killRepeat (port : PortId) (ctx : CtxId) (vat : VatId)
  /-- R347: A vat silent to KILL for 1,000 µs fails the partition and the context becomes FAULTED with DEADLINE. -/
  | killLost (port : PortId) (ctx : CtxId) (vat : VatId)
  /-- R219: A fibre slot frees and the next waiting fibre of the earliest batch becomes resident on that slice. -/
  | fibreResident (vat : VatId) (slice : SliceId) (slot : SlotId)
  /-- R104: The END op ends the fibre and frees its slot. -/
  | opEnd (vat : VatId) (slice : SliceId) (slot : SlotId)
  /-- R181: LOAD copies elements from any address to the home slice with conversion. -/
  | opLoad (vat : VatId) (slice : SliceId) (slot : SlotId)
  /-- R181: STORE copies elements from the home slice to any address with conversion. -/
  | opStore (vat : VatId) (slice : SliceId) (slot : SlotId)
  /-- R182: GATHER checks indices and copies indexed table rows into the home slice. -/
  | opGather (vat : VatId) (slice : SliceId) (slot : SlotId)
  /-- R182: SCATTER checks indices and writes home rows to indexed table rows. -/
  | opScatter (vat : VatId) (slice : SliceId) (slot : SlotId)
  /-- R183: MATMUL computes C = A x B in integer, chunked floating-point or EXACT mode. -/
  | opMatmul (vat : VatId) (slice : SliceId) (slot : SlotId)
  /-- R184: ELTWISE COPY converts A directly to FMT_OUT. -/
  | eltwiseCopy (vat : VatId) (slice : SliceId) (slot : SlotId)
  /-- R161: ELTWISE ADD computes A + B in FP32. -/
  | eltwiseAdd (vat : VatId) (slice : SliceId) (slot : SlotId)
  /-- R161: ELTWISE SUB computes A - B in FP32. -/
  | eltwiseSub (vat : VatId) (slice : SliceId) (slot : SlotId)
  /-- R161: ELTWISE MUL computes A x B in FP32. -/
  | eltwiseMul (vat : VatId) (slice : SliceId) (slot : SlotId)
  /-- R184: ELTWISE FMA computes A x B + C with one rounding. -/
  | eltwiseFma (vat : VatId) (slice : SliceId) (slot : SlotId)
  /-- R162: ELTWISE MIN returns the smaller operand or the canonical NaN. -/
  | eltwiseMin (vat : VatId) (slice : SliceId) (slot : SlotId)
  /-- R162: ELTWISE MAX returns the larger operand or the canonical NaN. -/
  | eltwiseMax (vat : VatId) (slice : SliceId) (slot : SlotId)
  /-- R162: ELTWISE ABS returns the magnitude exactly. -/
  | eltwiseAbs (vat : VatId) (slice : SliceId) (slot : SlotId)
  /-- R162: ELTWISE NEG negates exactly. -/
  | eltwiseNeg (vat : VatId) (slice : SliceId) (slot : SlotId)
  /-- R162: ELTWISE RELU returns +0 at or below zero and the input otherwise. -/
  | eltwiseRelu (vat : VatId) (slice : SliceId) (slot : SlotId)
  /-- R184: ELTWISE SCALE_BIAS computes an FMA of A with the two FP32 immediates. -/
  | eltwiseScaleBias (vat : VatId) (slice : SliceId) (slot : SlotId)
  /-- R166: ELTWISE REQUANT rescales integers exactly with shift, rounding and zero point. -/
  | eltwiseRequant (vat : VatId) (slice : SliceId) (slot : SlotId)
  /-- R193: ELTWISE EXP evaluates the table-driven exponential. -/
  | eltwiseExp (vat : VatId) (slice : SliceId) (slot : SlotId)
  /-- R193: ELTWISE LOG evaluates the table-driven natural logarithm. -/
  | eltwiseLog (vat : VatId) (slice : SliceId) (slot : SlotId)
  /-- R193: ELTWISE SIGMOID evaluates the table-driven sigmoid. -/
  | eltwiseSigmoid (vat : VatId) (slice : SliceId) (slot : SlotId)
  /-- R193: ELTWISE TANH evaluates the table-driven hyperbolic tangent. -/
  | eltwiseTanh (vat : VatId) (slice : SliceId) (slot : SlotId)
  /-- R193: ELTWISE RECIP evaluates the table-driven reciprocal. -/
  | eltwiseRecip (vat : VatId) (slice : SliceId) (slot : SlotId)
  /-- R193: ELTWISE RSQRT evaluates the table-driven reciprocal square root. -/
  | eltwiseRsqrt (vat : VatId) (slice : SliceId) (slot : SlotId)
  /-- R193: ELTWISE SQRT evaluates the table-driven square root. -/
  | eltwiseSqrt (vat : VatId) (slice : SliceId) (slot : SlotId)
  /-- R193: ELTWISE ERF evaluates the table-driven error function. -/
  | eltwiseErf (vat : VatId) (slice : SliceId) (slot : SlotId)
  /-- R165: ELTWISE ROW_SUM sums each row sequentially, or exactly under EXACT. -/
  | eltwiseRowSum (vat : VatId) (slice : SliceId) (slot : SlotId)
  /-- R184: ELTWISE ROW_MAX folds MAX across each row in ascending column order. -/
  | eltwiseRowMax (vat : VatId) (slice : SliceId) (slot : SlotId)
  /-- R185: TREE_EVAL walks AUX trees for each sample and sums the chosen leaves. -/
  | opTreeEval (vat : VatId) (slice : SliceId) (slot : SlotId)
  /-- R186: EMBED ROWS writes one output row per index, +0 for a missing index. -/
  | embedRows (vat : VatId) (slice : SliceId) (slot : SlotId)
  /-- R186: EMBED SUM writes the sum of the indexed rows. -/
  | embedSum (vat : VatId) (slice : SliceId) (slot : SlotId)
  /-- R186: EMBED MAX writes the elementwise MAX of the indexed rows. -/
  | embedMax (vat : VatId) (slice : SliceId) (slot : SlotId)
  /-- R187: CONTRIBUTE converts elements to Ream and sends them as the slice's contribution to the group's next wave. -/
  | opContribute (vat : VatId) (slice : SliceId) (slot : SlotId)
  /-- R188: The MCAST op sends elements unconverted to a multicast group. -/
  | opMcast (vat : VatId) (slice : SliceId) (slot : SlotId)
  /-- R188: RECV_MC waits until the vat's delivered-byte count for the group passes the target. -/
  | opRecvMc (vat : VatId) (slice : SliceId) (slot : SlotId)
  /-- R189: The fibre SYNC op sends a sync operation to a cell. -/
  | opSync (vat : VatId) (slice : SliceId) (slot : SlotId)
  /-- R126: FENCE finishes once every earlier write of the fibre is acknowledged as performed. -/
  | opFence (vat : VatId) (slice : SliceId) (slot : SlotId)
  /-- R566: WATCH feeds elements into a watchpoint instance as leaves and statistics. -/
  | opWatch (vat : VatId) (slice : SliceId) (slot : SlotId)
  /-- R570: DIGEST checks the leaves, writes the result record, reports it for a tagged fibre and closes the instance. -/
  | opDigest (vat : VatId) (slice : SliceId) (slot : SlotId)
  /-- R206: Sequencer ADD writes SA + SB to SD. -/
  | seqAdd (vat : VatId)
  /-- R206: Sequencer SUB writes SA - SB to SD. -/
  | seqSub (vat : VatId)
  /-- R206: Sequencer MUL writes the low 64 bits of SA x SB. -/
  | seqMul (vat : VatId)
  /-- R206: Sequencer AND writes the bitwise AND. -/
  | seqAnd (vat : VatId)
  /-- R206: Sequencer OR writes the bitwise OR. -/
  | seqOr (vat : VatId)
  /-- R206: Sequencer XOR writes the bitwise XOR. -/
  | seqXor (vat : VatId)
  /-- R206: Sequencer SHL shifts left by the low 6 bits of SB. -/
  | seqShl (vat : VatId)
  /-- R206: Sequencer SHR shifts right logically. -/
  | seqShr (vat : VatId)
  /-- R206: Sequencer SRA shifts right arithmetically. -/
  | seqSra (vat : VatId)
  /-- R206: Sequencer SLT writes 1 when SA is less than SB signed. -/
  | seqSlt (vat : VatId)
  /-- R206: Sequencer SLTU writes 1 when SA is less than SB unsigned. -/
  | seqSltu (vat : VatId)
  /-- R206: Sequencer MINU writes the unsigned minimum. -/
  | seqMinu (vat : VatId)
  /-- R206: Sequencer MAXU writes the unsigned maximum. -/
  | seqMaxu (vat : VatId)
  /-- R206: Sequencer ADDI adds the sign-extended immediate. -/
  | seqAddi (vat : VatId)
  /-- R206: Sequencer ANDI ANDs the zero-extended immediate. -/
  | seqAndi (vat : VatId)
  /-- R206: Sequencer ORI ORs the zero-extended immediate. -/
  | seqOri (vat : VatId)
  /-- R206: Sequencer XORI XORs the zero-extended immediate. -/
  | seqXori (vat : VatId)
  /-- R206: Sequencer SHLI shifts left by an immediate. -/
  | seqShli (vat : VatId)
  /-- R206: Sequencer SHRI shifts right logically by an immediate. -/
  | seqShri (vat : VatId)
  /-- R206: Sequencer SRAI shifts right arithmetically by an immediate. -/
  | seqSrai (vat : VatId)
  /-- R206: MOVK writes a 16-bit immediate into one halfword of SD. -/
  | seqMovk (vat : VatId)
  /-- R207: LD checks alignment and the map and issues an 8-byte read. -/
  | seqLd (vat : VatId)
  /-- R208: The data of an LD returns and the LD completes. -/
  | seqLdData (vat : VatId)
  /-- R207: ST checks alignment and the map and sends an 8-byte write, waiting if 32 are unacknowledged. -/
  | seqSt (vat : VatId)
  /-- R201: BEQ branches forward when SA equals SB. -/
  | seqBeq (vat : VatId)
  /-- R201: BNE branches forward when SA differs from SB. -/
  | seqBne (vat : VatId)
  /-- R201: BLT branches forward when SA is less than SB signed. -/
  | seqBlt (vat : VatId)
  /-- R201: BLTU branches forward when SA is less than SB unsigned. -/
  | seqBltu (vat : VatId)
  /-- R201: BGE branches forward when SA is at least SB signed. -/
  | seqBge (vat : VatId)
  /-- R201: BGEU branches forward when SA is at least SB unsigned. -/
  | seqBgeu (vat : VatId)
  /-- R202: LOOP starts a counted loop, skips an empty one, or traps with LOOP_RANGE. -/
  | seqLoop (vat : VatId)
  /-- R203: LEND counts an iteration and jumps back or exits the loop. -/
  | seqLend (vat : VatId)
  /-- R204: RESTART clears loop counters, returns to word 0 and counts a pass. -/
  | seqRestart (vat : VatId)
  /-- R204: HALT puts the sequencer in HALTED. -/
  | seqHalt (vat : VatId)
  /-- R196: NOP does nothing for one cycle. -/
  | seqNop (vat : VatId)
  /-- R195: MFL writes a loop counter's INDEX, or 0 if inactive, to SD. -/
  | seqMfl (vat : VatId)
  /-- R196: TIME writes the fabric time to SD. -/
  | seqTime (vat : VatId)
  /-- R232: MARK emits a trace marker with its immediate. -/
  | seqMark (vat : VatId)
  /-- R214: LAUNCH checks the launch block, tests staleness and generation, allocates a batch entry and launches a fibre batch. -/
  | seqLaunch (vat : VatId)
  /-- R221: A batch-table entry frees and a LAUNCH waiting on a full table proceeds. -/
  | launchResume (vat : VatId)
  /-- R223: BWAIT waits for a batch to complete, or returns its status at once with NOWAIT, freeing the entry when done. -/
  | seqBwait (vat : VatId)
  /-- R213: TAKE moves the oldest delivery entry into three registers, or zeros if empty. -/
  | seqTake (vat : VatId)
  /-- R224: The sequencer SYNC sends a sync operation and waits for its response. -/
  | seqSync (vat : VatId)
  /-- R226: The sequencer FENCE completes when every earlier ST and MCAST packet is acknowledged. -/
  | seqFence (vat : VatId)
  /-- R227: The sequencer MCAST sends bytes of one slice SRAM to a multicast group. -/
  | seqMcast (vat : VatId)
  /-- R228: MCWAIT waits until the delivered-byte count for a group passes a target. -/
  | seqMcwait (vat : VatId)
  /-- R198: SEQ_CONTROL START resets the sequencer's registers and PC and enters RUNNING after earlier packets settle. -/
  | seqStart (r : Req) (vat : VatId)
  /-- R199: SEQ_CONTROL STOP halts the sequencer at the next instruction boundary, withdrawing any wait. -/
  | seqStop (r : Req) (vat : VatId)
  /-- R234: A write of SEQ_PROGRAM is verified and replaces program memory, entering READY. -/
  | seqProgramLoad (r : Req) (vat : VatId) (prog : Bytes)
  /-- R222: A batch completes when all its fibres have ended or faulted and their writes have settled, releasing any BWAIT. -/
  | batchComplete (vat : VatId) (num : BitVec 16)
  /-- R210: A vat receives a delivery entry into its request queue, or refuses it when full. -/
  | queuePost (node : NodeId) (p : Packet)
  /-- R248: An initiator's packet is checked, stamped with its epoch, assigned a stream and route, and injected. -/
  | packetInject (node : NodeId) (p : Option OutPacket)
  /-- R269: A traffic-class bucket gains a token and a held packet of that class begins injection. -/
  | regulatorRelease (node : NodeId)
  /-- R246: A router forwards a packet's flits by its header, routing set and credits. -/
  | routerForward (node : NodeId) (port : InPort) (vc : BitVec 4) (err : FlitErr)
  /-- R333: A destination receives a WRITE, handles it by the receive table and window check, and performs or refuses it. -/
  | write (node : NodeId) (p : Packet)
  /-- R263: A target performs a READ and injects READ_DATA. -/
  | read (node : NodeId) (p : Packet)
  /-- R263: A deckle endpoint receives a message and injects its response. -/
  | endpointMsg (node : NodeId) (p : Packet)
  /-- R253: An initiator sinks READ_DATA into its reserved buffer. -/
  | readData (node : NodeId) (p : Packet)
  /-- R253: An initiator sinks an endpoint response. -/
  | endpointRsp (node : NodeId) (p : Packet)
  /-- R339: An injection port sinks a REFUSAL, records it and fails the issuing initiator's access. -/
  | refusal (node : NodeId) (p : Packet)
  /-- R263: A source receives an ACK entry, counts packets performed, breaks or continues the stream and releases waits on acknowledgement. -/
  | ack (node : NodeId) (p : Packet)
  /-- R264: A destination's acknowledgement delay expires or eight packets await, and an ACK is sent. -/
  | ackSend (node : NodeId)
  /-- R260: A source receives NACK RX_FULL for an OPEN and schedules its resend. -/
  | nackRxFull (node : NodeId) (p : Packet)
  /-- R260: One microsecond after RX_FULL the source sends the same OPEN packet again. -/
  | openRetry (node : NodeId) (tracker : BitVec 6)
  /-- R335: A source receives NACK NOT_OPEN and ends the stream generation at that packet. -/
  | nackNotOpen (node : NodeId) (p : Packet)
  /-- R335: The oldest unacknowledged packet of a stream reaches the acknowledgement timeout and the generation ends. -/
  | streamAckTimeout (node : NodeId) (tracker : BitVec 6)
  /-- R266: A stream idle for the idle time is closed with CLOSE and its tracker freed. -/
  | streamIdleClose (node : NodeId) (tracker : BitVec 6)
  /-- R266: A destination receives CLOSE and frees the entry only if its SGEN matches. -/
  | close (node : NodeId) (p : Packet)
  /-- R273: A die-to-die link trains, exchanges parameters, sets credits and becomes ACTIVE, DEGRADED or FAILED. -/
  | linkBringUp (node : NodeId) (port : InPort) (lanes : BitVec 8) (gt32 : Bool) (gt16 : Bool) (matched : Bool)
  /-- R274: A link fails a retrain or exceeds its retry limit, becomes FAILED and its crossing is fenced. -/
  | linkFailure (node : NodeId) (port : InPort)
  /-- R283: A root accepts an MC_SEND, assigns the next DSEQ and injects MC_DELIVER, or refuses it. -/
  | mcSend (node : NodeId) (p : Packet)
  /-- R286: A receiver tile writes an in-order MC_DELIVER, and its agent acknowledges it to the root and raises the delivered-byte count. -/
  | mcDeliver (node : NodeId) (p : Packet)
  /-- R308: A member that has not acknowledged within the timeout is pruned. -/
  | mcAckTimeout (group : McGroupId) (dseq : BitVec 32)
  /-- R310: A write of MC_REJOIN re-joins a pruned member under a new generation at the next DSEQ boundary. -/
  | mcRejoin (r : Req) (value : BitVec 16)
  /-- R307: A node sinks a reduction chunk, checks its residue, combines inputs and forwards the sum with a credit. -/
  | redChunk (node : NodeId) (p : Packet)
  /-- R297: A child receives a credit for its parent's context. -/
  | redCredit (node : NodeId) (p : Packet)
  /-- R311: A chunk input not arrived within the reduction timeout makes the chunk FAULTED. -/
  | redTimeout (node : NodeId) (group : RedGroupId) (wave : BitVec 32) (chunk : BitVec 16)
  /-- R313: The root receives a node's highest-wave report during RESYNC. -/
  | redReport (node : NodeId) (p : Packet)
  /-- R342: Each quiet time in RESYNC a node re-sends RED_REPORT until RED_RESYNC arrives. -/
  | redReportRepeat (node : NodeId) (group : RedGroupId)
  /-- R313: The resync quiet time passes and the root delivers pending waves FAULTED, resets credits and returns the group to RUN. -/
  | resyncQuiet (group : RedGroupId)
  /-- R313: A node receives RED_RESYNC and sets its next wave. -/
  | redResync (node : NodeId) (p : Packet)
  /-- R313: A write of RED_FORCE_RESYNC forces the resync step at once. -/
  | redForceResync (r : Req) (group : BitVec 16)
  /-- R353: The managing engine receives a report and creates or coalesces an error log record. -/
  | errorLogRecord
  /-- R557: Every 1 ms the managing engine reads held reports over the maintenance ring from dies without an escape path. -/
  | heldReportPoll (die : DieId) (answers : Bool)
  /-- R353: A write of LOG_CLEAR empties the error log ring. -/
  | logClear (r : Req) (value : BitVec 8)
  /-- R332: Within 100 µs the managing engine rewrites an uncorrectable configuration table entry. -/
  | tableEntryRewrite (node : NodeId) (table : BitVec 4) (entry : BitVec 16)
  /-- R329: SRAM scrubbing proceeds over each scrub period, correcting words and logging uncorrectable ones. -/
  | sramScrub (addr : BitVec 48) (err : EccErr)
  /-- R347: A vat die goes out of service without a fence and its partition fails. -/
  | vatDieLost (vat : VatId)
  /-- R347: A deckle die goes out of service and affected partitions are failed or logged. -/
  | deckleDieLost (die : Deckle)
  /-- R351: DN is lost with DS in service and management passes to DS. -/
  | mgmtFailover
  /-- R351: The last management-capable deckle die is lost and the part stops in FAULT. -/
  | mgmtLost
  /-- R350: Within 1,000 µs of a die loss or link failure the managing engine arms a repair switch. -/
  | repairSwitchArm
  /-- R321: A PCIe completion for a host-window READ arrives and is answered as READ_DATA, poisoned if bad. -/
  | hostCompletion (port : PortId) (id : BitVec 16) (err : TlpErr) (data : Bytes)
  /-- R372: A side sees its peer's alive level low and fences the boundary. -/
  | aliveFall (node : NodeId) (port : InPort)
  /-- R367: A command not acknowledged for 10 µs fences the boundary and is reported lost. -/
  | handshakeTimeout (node : NodeId) (port : InPort) (cmd : BitVec 32)
  /-- R377: With both alive levels high the initiator runs the re-alive handshake and both sides take the new CGEN. -/
  | realive (node : NodeId) (port : InPort)
  /-- R378: A write of CROSSING_CLEAR clears DISCONTINUITY and OVERRUN flags on a die. -/
  | crossingClear (r : Req) (die : BitVec 8)
  /-- R360: An island held below its target for 1 ms is logged. -/
  | freqLimited (node : NodeId)
  /-- R382: The master sees no reference edge for 200 ns and enters HOLDOVER. -/
  | refclkLost
  /-- R382: Reference edges return and the master follows them again by slewing. -/
  | refclkReturn
  /-- R384: Within 1,000 µs of a link change or master change the managing engine recomputes time parents. -/
  | timeTreeRecompute
  /-- R385: Each SYNC period a time unit sends a SYNC to each child. -/
  | timeSyncSend (node : NodeId)
  /-- R385: The delay period expires or a new parent is taken, and a child sends DELAY_REQ. -/
  | delayPeriod (node : NodeId)
  /-- R386: A time unit receives a SYNC from its parent and slews or steps its count and changes state. -/
  | timeSync (node : NodeId) (p : Packet) (arrival : BitVec 80)
  /-- R386: A parent receives DELAY_REQ and answers DELAY_RSP with its arrival time. -/
  | delayReq (node : NodeId) (p : Packet) (arrival : BitVec 80)
  /-- R386: A child receives DELAY_RSP and computes its link delay. -/
  | delayRsp (node : NodeId) (p : Packet) (arrival : BitVec 80)
  /-- R387: No SYNC for 4 periods moves a LOCKED unit to HOLDOVER. -/
  | syncSilence (node : NodeId)
  /-- R387: A unit in HOLDOVER reaches the holdover limit and becomes UNLOCKED. -/
  | holdoverExpired (node : NodeId)
  /-- R390: A write of WALL_SET steps the wall-time mapping. -/
  | wallSet (r : Req) (wall : BitVec 64) (ft : BitVec 64)
  /-- R390: A write of RATE re-bases the wall-time mapping without a step. -/
  | wallRate (r : Req) (rate : BitVec 32)
  /-- R391: A PPS_IN rising edge is timestamped and used to adjust RATE, or marked a mismatch. -/
  | ppsEdge (width : BitVec 16) (rate : BitVec 32)
  /-- R391: No PPS edge for 1.1 s sets PPS_STATE LOST. -/
  | ppsLost
  /-- R402: A write of PRT.SQ_DB latches a new submission queue tail or is ignored with DB_INVALID. -/
  | sqDoorbell (port : PortId) (q : QueueId) (tail : BitVec 16)
  /-- R407: A write of PRT.CQ_DB consumes completions or is ignored with ERR. -/
  | cqDoorbell (port : PortId) (q : QueueId) (head : BitVec 16)
  /-- R400: Setting PRT.SQ_CFG.EN enables the queue if allowed. -/
  | sqEnable (port : PortId) (q : QueueId)
  /-- R401: Clearing PRT.SQ_CFG.EN disables the queue and aborts its unadmitted requests. -/
  | sqDisable (port : PortId) (q : QueueId)
  /-- R406: Setting PRT.CQ_CFG.EN enables the CQ with TAIL 0 and PHASE 1. -/
  | cqEnable (port : PortId) (q : QueueId)
  /-- R407: Clearing PRT.CQ_CFG.EN disables the CQ, or is ignored while an enabled SQ names it. -/
  | cqDisable (port : PortId) (q : QueueId)
  /-- R403: The port reads a valid descriptor, advances HEAD and checks it. -/
  | descriptorFetch (port : PortId) (q : QueueId) (err : TlpErr) (desc : Bytes)
  /-- R319: A payload fetch completes and its CRC-32C is checked before classification. -/
  | payloadFetch (port : PortId) (req : Nat) (err : TlpErr) (data : Bytes)
  /-- R410: A SCORE descriptor is taken as a scoring request through admission. -/
  | score (port : PortId) (req : Nat)
  /-- R412: A SCORE_REPLAY looks up its journal record and is admitted and scored to give a replay verdict. -/
  | scoreReplay (port : PortId) (req : Nat)
  /-- R471: A LOAD_MODEL becomes the slot's pending update, superseding any earlier pending one. -/
  | loadModel (port : PortId) (req : Nat)
  /-- R476: MODEL_CANCEL ends a running update that has not flipped. -/
  | modelCancel (port : PortId) (req : Nat)
  /-- R504: JOURNAL_READ returns decrypted chained records of a permitted port. -/
  | journalRead (port : PortId) (req : Nat)
  /-- R510: ARCHIVE_WRITE writes pages into volume A and returns their PPAs. -/
  | archiveWrite (port : PortId) (req : Nat)
  /-- R512: ARCHIVE_READ returns decrypted data of listed PPAs. -/
  | archiveRead (port : PortId) (req : Nat)
  /-- R513: ARCHIVE_DISCARD lowers the valid count of each listed page's block. -/
  | archiveDiscard (port : PortId) (req : Nat)
  /-- R514: MAP_DUMP lists the partition's programmed volume A pages from a PPA. -/
  | mapDump (port : PortId) (req : Nat)
  /-- R396: A host write to the BAR2 staging window stores bytes in staging memory. -/
  | stagingWrite (port : PortId) (offset : BitVec 26) (data : Bytes)
  /-- R415: The port front accepts a DONE word for a LIVE context, copying its result and moving it to FINISHING, or discards it. -/
  | doneWord (port : PortId) (ctx : CtxId) (word : BitVec 64) (partition : PartId)
  /-- R572: The port front keeps a DIGEST_REPORT for its context's watch set or discards it as stale. -/
  | digestReport (node : NodeId) (p : Packet)
  /-- R406: When the CQ has space and the order allows, the port writes the result, then the completion, then the interrupt. -/
  | completionPost (port : PortId) (req : Nat)
  /-- R418: The coalescing time passes and the CQ's MSI-X vector is sent. -/
  | cqInterruptTimer (port : PortId) (q : QueueId)
  /-- R419: PERST_N assertion resets the port function, fences its PHY and discards unadmitted requests. -/
  | perstNAssert (port : PortId)
  /-- R419: A Function Level Reset resets the port function like PERST_N. -/
  | functionLevelReset (port : PortId)
  /-- R419: Loss of the port's data link resets the port function like PERST_N. -/
  | dlDown (port : PortId)
  /-- R421: The port's link trains when its die's management engine runs and the port serves when READY. -/
  | portLinkUp (port : PortId) (rate : BitVec 3) (width : BitVec 5)
  /-- R394: In D3hot the port fetches nothing and holds completions. -/
  | d3hotEntry (port : PortId)
  /-- R394: On return to D0 held completions are posted. -/
  | d0Return (port : PortId)
  /-- R436: At a window's open tick the queue's cursor is set and FIRST is raised. -/
  | gateWindowOpen (port : PortId) (aq : AqId)
  /-- R445: At tick s the new gate list takes effect and newly oversize queued requests are refused. -/
  | gateListSwitch (port : PortId)
  /-- R439: A head that has waited 1,000 µs for resources is logged HEAD_STARVED. -/
  | headStarved (port : PortId) (aq : AqId)
  /-- R458: A write of EPOCH_SWITCH starts arming: checks, table build and EPOCH_ARM to every die endpoint. -/
  | epochSwitch (r : Req) (goAt : BitVec 64)
  /-- R459: A die service endpoint receives EPOCH_ARM and answers ARMED once its tiles confirm their banks. -/
  | epochArm (die : DieId)
  /-- R459: Tiles receive EPOCH_ARM ABORT and discard the idle bank. -/
  | epochArmAbort (die : DieId)
  /-- R459: The managing engine receives an ARMED answer and enters ARMED when all are in. -/
  | epochArmed (die : DieId)
  /-- R459: Missing ARMED answers after the arm timeout abort the switch with UNIT_DOWN. -/
  | epochArmTimeout
  /-- R460: At GO_AT, or on ARMED if later, the managing engine sends EPOCH_GO. -/
  | epochGoAt
  /-- R461: A tile latches GO at its tick g and begins moving its streams and banks to the new epoch. -/
  | epochGo (node : NodeId)
  /-- R462: When port_done holds, a tile contributes 1 to the retirement wave of group 511. -/
  | portDone (node : NodeId)
  /-- R462: The drain timeout ends a tile's old-epoch streams and it contributes to retirement. -/
  | epochDrainTimeout (node : NodeId)
  /-- R463: Tiles receive RETIRE and free the old bank. -/
  | epochRetire (node : NodeId)
  /-- R463: The managing engine receives RETIRED answers and returns to IDLE. -/
  | epochRetired (die : DieId)
  /-- R464: Every 100 µs the engine re-sends EPOCH_ARM, EPOCH_GO or RETIRE to silent endpoints. -/
  | epochResend (die : DieId)
  /-- R466: EPOCH_CANCEL aborts an arming or armed switch. -/
  | epochCancel (r : Req) (value : BitVec 8)
  /-- R452: PARTITION_CONTROL DRAIN moves the partition to DRAINING. -/
  | partitionDrain (r : Req) (part : PartId)
  /-- R452: PARTITION_CONTROL RESUME returns the partition to ACTIVE. -/
  | partitionResume (r : Req) (part : PartId)
  /-- R452: When the drained condition comes to hold, the partition moves to DRAINED. -/
  | partitionDrained (part : PartId)
  /-- R456: Within 100 ms of a change the part recomputes its configuration digests and raises CONFIG_SEQ. -/
  | configDigestRecompute
  /-- R473: A pending update's MXI is staged and passed to the security engine for verification. -/
  | imageFetchDone (part : PartId) (slot : ModelSlot) (err : TlpErr) (data : Bytes)
  /-- R586: The security engine finishes verifying and decrypting an image, rejecting it or making the update RUNNING when possible. -/
  | imageVerified (part : PartId) (slot : ModelSlot)
  /-- R474: When loading banks bind no generation in use, the running update sends image sections over the sequenced group. -/
  | updateSectionsSend (part : PartId) (slot : ModelSlot)
  /-- R474: A vat reports its sections loaded with digests, and a mismatch or prune triggers a reload. -/
  | sectionLoaded (part : PartId) (slot : ModelSlot) (vat : VatId) (ahead : BitVec 32)
  /-- R474: At flip tick T the slot's generation rises for requests admitted from T. -/
  | modelFlip (part : PartId) (slot : ModelSlot)
  /-- R474: A vat frees its old weight bank once no request binds the old generation, completing the update. -/
  | oldBankFree (vat : VatId) (slot : ModelSlot)
  /-- R479: BIST completes and the fenced die becomes FENCED with PASS or is held in reset with FAIL. -/
  | bistDone (vat : VatId) (pass : Bool) (block : BitVec 16)
  /-- R499: The ledger engine builds and accepts a request's record when the context leaves LIVE and its number is in the window. -/
  | recordAccept (port : PortId) (ctx : CtxId)
  /-- R501: The security engine signs a seal and chaining resumes. -/
  | sealSigned (port : PortId)
  /-- R502: A partial page waiting TAIL_FLUSH is programmed as a J_TAIL page. -/
  | tailFlush (die : Deckle)
  /-- R518: A NAND program completes; a failure triggers rebuild from parity and block retirement. -/
  | nandProgramComplete (die : Deckle) (ppa : BitVec 32) (pass : Bool)
  /-- R520: A NAND erase completes; a failure retires the block. -/
  | nandEraseComplete (die : Deckle) (ppa : BitVec 32) (pass : Bool)
  /-- R487: A NAND page read completes, decoding with read retries or finding the page uncorrectable. -/
  | nandReadComplete (die : Deckle) (ppa : BitVec 32) (level : BitVec 4) (bits : BitVec 16) (good : Bool)
  /-- R505: A write of JOURNAL_RELEASE makes numbers below a written seal reclaimable. -/
  | journalRelease (r : Req) (port : PortId) (num : BitVec 64)
  /-- R494: LEDGER_FORMAT erases a die's good blocks and starts its journal with a format seal. -/
  | ledgerFormat (r : Req) (die : Deckle)
  /-- R495: LEDGER_CONTROL STOP writes held records and stops the engine. -/
  | ledgerStop (r : Req) (die : Deckle)
  /-- R495: LEDGER_CONTROL START restarts a stopped engine. -/
  | ledgerStart (r : Req) (die : Deckle)
  /-- R522: With free volume J blocks below GC_LOW the engine copies and erases the best-scoring block. -/
  | garbageCollect (die : Deckle) (ppa : BitVec 32)
  /-- R524: Patrol reads pages spread over its period and relocates blocks with high error counts. -/
  | patrolRead (die : Deckle) (ppa : BitVec 32) (level : BitVec 4) (bits : BitVec 16) (good : Bool)
  /-- R530: The volume J scan ends, the chain is verified, a RECOVERY seal is written and the engine becomes READY. -/
  | volumeJScanEnd (die : Deckle)
  /-- R531: The background volume A scan ends and archive requests are served. -/
  | volumeAScanEnd (die : Deckle)
  /-- R532: Each second the engine updates its health record. -/
  | healthUpdate (die : Deckle)
  /-- R533: Each minute the engine bins NAND and die temperatures into histograms. -/
  | temperatureMinute (die : Deckle) (dies : List Int) (nand : List Int)
  /-- R538: A write of COUNTER_CLEAR zeros a die's counters and sets SINCE. -/
  | counterClear (r : Req) (die : BitVec 8)
  /-- R545: A tile's stage holds 512 bytes or its oldest message is 5 µs old, and it sends TRACE_APPEND. -/
  | traceStageSend (node : NodeId)
  /-- R548: A buffer's first tile appends messages, filtering by owner and testing triggers. -/
  | traceAppend (node : NodeId) (p : Packet)
  /-- R550: BUFFER_CONTROL ARM empties the buffer and enters CAPTURING. -/
  | bufferArm (r : Req) (buf : QueueId)
  /-- R550: BUFFER_CONTROL STOP writes STOP and enters STOPPED. -/
  | bufferStop (r : Req) (buf : QueueId)
  /-- R552: BUFFER_CONTROL TRIGGER fires the trigger manually. -/
  | bufferTrigger (r : Req) (buf : QueueId)
  /-- R550: BUFFER_CONTROL DISARM returns the buffer to DISARMED. -/
  | bufferDisarm (r : Req) (buf : QueueId)
  /-- R559: A write of FREEZE_CMD sends a FREEZE with a capture tick to named dies. -/
  | freezeCmd (r : Req) (dies : BitVec 20) (overwrite : Bool) (tf : BitVec 64)
  /-- R559: A tile latches the FREEZE command and the die becomes PENDING. -/
  | freezeLatch (node : NodeId)
  /-- R560: At T_F each tile captures its record, stops its event rings and the die becomes HELD. -/
  | snapshotCapture (node : NodeId)
  /-- R560: SNAPSHOT_RELEASE empties the snapshot and restarts event rings. -/
  | snapshotRelease (r : Req) (dies : BitVec 20)
  /-- R562: SNAPSHOT_LEAD before a LIVE context's deadline the admission engine requests a FREEZE at the deadline. -/
  | deadlineSnapshotRequest (port : PortId) (ctx : CtxId)
  /-- R583: ROLE_ENROL unwraps and stores a role secret and closes other sessions of that role. -/
  | roleEnrol (r : Req) (value : Bytes)
  /-- R584: ROLE_REVOKE deletes a role secret and closes its sessions. -/
  | roleRevoke (r : Req) (value : BitVec 16)
  /-- R594: A write of ATTEST_NONCE holds a nonce for the client for 10 s. -/
  | attestNonce (r : Req) (nonce : Bytes)
  /-- R594: A held attestation nonce passes its 10 s validity. -/
  | attestNonceExpiry (ep : EpId) (client : BitVec 7)
  /-- R594: A read of ATTESTATION builds and signs an attestation record. -/
  | attestation (r : Req)
  /-- R595: A write of UNLOCK_TOKEN checks and installs a signed unlock and makes a new nonce. -/
  | unlockToken (r : Req) (token : Bytes)
  /-- R596: UNLOCK_REVOKE ends the unlock in force. -/
  | unlockRevoke (r : Req)
  /-- R596: An unlock's duration passes and its scopes lapse. -/
  | unlockExpiry
  /-- R599: DEBUG_SCAN_ENTER stops service and clears keys so the SCAN scope takes effect. -/
  | debugScanEnter (r : Req)
  /-- R592: ZEROISE burns fuses, destroys ledger keys and enters ZEROISED. -/
  | zeroise (r : Req) (serial : Bytes)
  /-- R590: FW_FLOOR_COMMIT raises the firmware floor to the booted version. -/
  | fwFloorCommit (r : Req)
  /-- R577: A noise-source health test fails and the engine generates nothing until reset. -/
  | entropyFault (die : Deckle)
  /-- R600: A Service write of BIST_OVERRIDE selects a BIST pattern under the BIST_OVERRIDE scope. -/
  | bistOverride (r : Req) (vat : VatId) (value : BitVec 32)
  /-- R597: JTAG EXTEST drives boundary-scan outputs. -/
  | extest (tdi : Bytes) (pins : Bytes)
  /-- R597: JTAG IDCODE selects the identification register. -/
  | idcode (tdi : Bytes)
  /-- R597: JTAG SAMPLE/PRELOAD samples and preloads the boundary register. -/
  | samplePreload (tdi : Bytes) (pins : Bytes)
  /-- R597: JTAG CLAMP holds outputs while selecting bypass. -/
  | clamp (tdi : Bytes)
  /-- R597: JTAG HIGHZ floats outputs. -/
  | highz (tdi : Bytes)
  /-- R597: JTAG BYPASS selects the bypass register. -/
  | bypass (tdi : Bytes)
  /-- R598: JTAG DBG_MAINT reaches the maintenance rings under MAINT_ACCESS. -/
  | dbgMaint (tdi : Bytes)
  /-- R598: JTAG DBG_MEM reaches the fabric address space as partition 0 under MEM_ACCESS. -/
  | dbgMem (tdi : Bytes)
  /-- R599: JTAG DBG_SCAN reaches scan chains under the SCAN scope. -/
  | dbgScan (tdi : Bytes)
  /-- R598: JTAG DBG_BIST reaches BIST controllers under BIST_OVERRIDE. -/
  | dbgBist (tdi : Bytes)
  /-- R620: POR_N assertion puts every output in its reset state and stops every unit. -/
  | porNAssert
  /-- R620: POR_N deassertion samples straps and starts boot. -/
  | porNDeassert (straps : BitVec 7) (selfTest : BitVec 4)
  /-- R626: The managing engine loads firmware into other dies and units, restores the configuration and arms the first epoch. -/
  | firmwareDistribute (die : DieId)
  /-- R627: Within 1 s of a retirement or RW ground write the engine writes the configuration store to both NORs. -/
  | configStoreWrite (fail : BitVec 2)
  /-- R630: PWRFAIL_N assertion stops admission, drops SVC_OK, starts the flush and sets FAULT. -/
  | pwrfailNAssert (ns : BitVec 16) (late : BitVec 16)
  /-- R608: Each millisecond die temperatures are sampled and throttling or thermal trip is applied. -/
  | temperatureSample (die : DieId) (temp : BitVec 16)
  /-- R609: Every 100 µs a hot die's limit falls or a cooled die's limit rises by 100 MHz. -/
  | throttleStep (die : DieId)
  /-- R611: THROTTLE_N assertion caps every die's frequency within 10 µs. -/
  | throttleNAssert
  /-- R611: The THROTTLE_N cap is lifted 10 µs after deassertion. -/
  | throttleNDeassert
  /-- R604: Each microsecond the power estimate is checked against the limits and clocks are lowered. -/
  | powerGovernor (mw : BitVec 32) (limits : List Nat)
  /-- R607: A voltage droop of 40 mV halves a die's island clocks within 4 ns. -/
  | droop (die : DieId)
  /-- R607: One microsecond after the last droop the die's frequency is restored. -/
  | droopRestore (die : DieId)
  /-- R606: A RAIL_SETPOINT write orders frequency and VOUT_COMMAND changes for the new voltage. -/
  | railSetpoint (r : Req) (rail : RailId) (mv : BitVec 16)
  /-- R606: READ_VOUT reaches the setpoint and frequency is raised, or after 2 ms RAIL_COMMAND_FAILED is logged. -/
  | railSettle (rail : RailId) (vout : BitVec 16)
  /-- R614: Each poll period the part reads every present rail's telemetry. -/
  | pmbusPoll (rail : RailId) (ok : Bool) (reading : Bytes)
  /-- R614: PMBUS_ALERT_N assertion reads every rail's STATUS_WORD and clears faults. -/
  | pmbusAlert (rail : RailId) (ok : Bool) (status : BitVec 16)
  /-- R621: WARM_RESET quiesces, writes the ledger and store, and resets all islands except time and retained memory. -/
  | warmReset (r : Req) (selfTest : BitVec 4)
  /-- R622: DIE_RESET asserts one die's reset for 20 µs. -/
  | dieReset (r : Req) (die : BitVec 8) (selfTest : Bool)
  /-- R623: ISLAND_RESET asserts one island's reset for 1 µs. -/
  | islandReset (r : Req) (island : BitVec 16)
  /-- R628: FW_UPDATE verifies an image and writes it into slot A of both NORs. -/
  | fwUpdate (r : Req) (image : Bytes) (fail : BitVec 2)
  /-- R628: FW_COMMIT_B copies the running slot A into slot B of both NORs. -/
  | fwCommitB (r : Req) (fail : BitVec 2)
  /-- R274: A die-to-die link enters UCIe RETRAINING with its flits held and returns to ACTIVE, or to FAILED if the retrain fails. -/
  | linkRetrain (node : NodeId) (port : InPort) (phase : BitVec 2)
  /-- R331: A UCIe CRC error on a die-to-die link is repaired by UCIe retry, delaying the fabric and counting in D2D_RETRIES. -/
  | linkCrcRetry (node : NodeId) (port : InPort)
  /-- R507: An ONFI channel goes out of service, and with no channel of its die left the ledger engine becomes DOWN and logs JOURNAL_DOWN. -/
  | channelFailed (chan : ChanId)
  /-- R507: An ONFI channel returns to service and a DOWN engine writes the records it held and leaves DOWN. -/
  | channelReturn (chan : ChanId)
  /-- R608: Every 32 ms each HBM3 stack's temperature is read, halving its bandwidth at 95 °C and tripping at 105 °C. -/
  | hbmTemperatureReadout (stack : ChanId) (temp : BitVec 16)
  /-- R88: A CAN FD bus error changes the controller's error counters and moves it between error active, error passive and bus-off, with automatic recovery. -/
  | canBusError (ds : Bool) (tx : Bool) (ok : Bool)
  deriving DecidableEq, Repr

end Sys2Proof
end

