-- ==== Sys2Proof/Decode.lean ====
section
/-!
DEFINITION. Decode.lean: the commands that words spell. The command table gives no row any bits: commands reach the part as TTP
messages, packets, PCIe transactions and pins, whose formats the meanings read.
-/
namespace Sys2Proof

/-- The command that a word spells by the table's bits: none, since no row has bits. -/
def decodeTableWord (_nbits _w : Nat) : Option Instr := none

end Sys2Proof
end

