-- ==== Sys2Proof/Machine/Bytes.lean ====
section
/-!
DEFINITION. Machine/Bytes.lean: bit fields, little-endian packing (R4, R5), slices of byte strings, and the CRC-32C of
R82, on plain natural numbers and byte lists. Every field of every format of the manual is read and built with these.
-/
namespace Sys2Proof.Machine

/-- Bits hi down to lo of a value (R4): both ends included, bit 0 least significant. -/
def bits (v hi lo : Nat) : Nat := (v >>> lo) % 2 ^ (hi + 1 - lo)

/-- One bit of a value, as a Bool. -/
def bitAt (v n : Nat) : Bool := (v >>> n) % 2 == 1

/-- 1 for true, 0 for false: a one-bit field. -/
def bitOf (b : Bool) : Nat := if b then 1 else 0

/-- The value with bits hi down to lo replaced by x. -/
def setBits (v hi lo x : Nat) : Nat :=
  (v >>> (hi + 1)) <<< (hi + 1) + (x % 2 ^ (hi + 1 - lo)) <<< lo + v % 2 ^ lo

/-- Little-endian bytes of a value, n of them: byte 0 holds bits 7..0 (R5). -/
def leBytes : Nat → Nat → Bytes
  | 0, _ => []
  | n + 1, v => BitVec.ofNat 8 v :: leBytes n (v / 256)

/-- The value of a little-endian byte string (R5). -/
def leNat : Bytes → Nat
  | [] => 0
  | b :: bs => b.toNat + 256 * leNat bs

/-- The value of a big-endian byte string: digests and signatures (R5) and CAN identifiers. -/
def beNat (b : Bytes) : Nat := leNat b.reverse

/-- Big-endian bytes of a value, n of them. -/
def beBytes (n v : Nat) : Bytes := (leBytes n v).reverse

/-- Bytes off to off + n − 1 of a string, short where the string ends. -/
def slice (b : Bytes) (off n : Nat) : Bytes := (b.drop off).take n

/-- The little-endian field of n bytes at offset off. -/
def field (b : Bytes) (off n : Nat) : Nat := leNat (slice b off n)

/-- n bytes, all 0. -/
def zeros (n : Nat) : Bytes := List.replicate n 0

/-- A string cut or padded with 0 to exactly n bytes. -/
def padTo (b : Bytes) (n : Nat) : Bytes := b.take n ++ zeros (n - b.length)

/-- Every byte of the string is 0. -/
def allZero (b : Bytes) : Bool := b.all (fun x => x == 0)

/-- Two's-complement reading of an n-bit value. -/
def sext (n v : Nat) : Int :=
  let m := v % 2 ^ n
  if m < 2 ^ (n - 1) then Int.ofNat m else Int.ofNat m - Int.ofNat (2 ^ n)

/-- The n-bit two's-complement pattern of an integer. -/
def ofInt (n : Nat) (i : Int) : Nat := (i % Int.ofNat (2 ^ n)).toNat

/-- a − b modulo 2^n, as a serial distance. -/
def subMod (n a b : Nat) : Nat := (a % 2 ^ n + 2 ^ n - b % 2 ^ n) % 2 ^ n

/-- a is earlier than b in serial order modulo 2^n (R132, R133). -/
def serialLt (n a b : Nat) : Bool :=
  let d := subMod n b a
  d != 0 && decide (d < 2 ^ (n - 1))

/-- One bit step of the reflected CRC-32C division. -/
def crcStep (c : Nat) : Nat := if c % 2 == 1 then (c / 2).xor 0x82F63B78 else c / 2

/-- One byte of the reflected CRC-32C. -/
def crcByte (c : Nat) (b : Byte) : Nat :=
  crcStep (crcStep (crcStep (crcStep (crcStep (crcStep (crcStep (crcStep (c.xor b.toNat))))))))

/-- R82: the CRC-32C with polynomial 0x1EDC_6F41, reflected, initial value and final XOR 0xFFFF_FFFF. -/
def crc32c (b : Bytes) : Nat := (b.foldl crcByte 0xFFFFFFFF).xor 0xFFFFFFFF

end Sys2Proof.Machine
end

