-- ==== Sys2Proof/Machine/Sha.lean ====
section
/-!
DEFINITION. Machine/Sha.lean: SHA-256, SHA-384 and HMAC as FIPS 180-4 and FIPS 198-1 give them. The manual chains journal
records (R500) and digests sheets (R569) with SHA-256, digests configurations, images and programs with SHA-384, and
keys sessions with HMAC (R575, R581). Words are plain natural numbers below 2^32 or 2^64.
-/
namespace Sys2Proof.Machine

/-- Rotate right within w bits. -/
def rotr (w n x : Nat) : Nat := (x >>> n).lor ((x <<< (w - n)) % 2 ^ w)

/-- Bitwise complement within w bits. -/
def notw (w x : Nat) : Nat := x.xor (2 ^ w - 1)

/-- The parameters that tell SHA-256 from SHA-384: word width, rotation amounts, round constants. -/
structure ShaSpec where
  w : Nat
  s0 : Nat × Nat × Nat
  s1 : Nat × Nat × Nat
  e0 : Nat × Nat × Nat
  e1 : Nat × Nat × Nat
  k : List Nat
  deriving DecidableEq, Repr

/-- The SHA-256 round constants. -/
def sha256K : List Nat :=
  [0x428a2f98, 0x71374491, 0xb5c0fbcf, 0xe9b5dba5, 0x3956c25b, 0x59f111f1, 0x923f82a4, 0xab1c5ed5] ++
  [0xd807aa98, 0x12835b01, 0x243185be, 0x550c7dc3, 0x72be5d74, 0x80deb1fe, 0x9bdc06a7, 0xc19bf174] ++
  [0xe49b69c1, 0xefbe4786, 0x0fc19dc6, 0x240ca1cc, 0x2de92c6f, 0x4a7484aa, 0x5cb0a9dc, 0x76f988da] ++
  [0x983e5152, 0xa831c66d, 0xb00327c8, 0xbf597fc7, 0xc6e00bf3, 0xd5a79147, 0x06ca6351, 0x14292967] ++
  [0x27b70a85, 0x2e1b2138, 0x4d2c6dfc, 0x53380d13, 0x650a7354, 0x766a0abb, 0x81c2c92e, 0x92722c85] ++
  [0xa2bfe8a1, 0xa81a664b, 0xc24b8b70, 0xc76c51a3, 0xd192e819, 0xd6990624, 0xf40e3585, 0x106aa070] ++
  [0x19a4c116, 0x1e376c08, 0x2748774c, 0x34b0bcb5, 0x391c0cb3, 0x4ed8aa4a, 0x5b9cca4f, 0x682e6ff3] ++
  [0x748f82ee, 0x78a5636f, 0x84c87814, 0x8cc70208, 0x90befffa, 0xa4506ceb, 0xbef9a3f7, 0xc67178f2]

/-- The SHA-512 round constants, which SHA-384 uses. -/
def sha512K : List Nat :=
  [0x428a2f98d728ae22, 0x7137449123ef65cd, 0xb5c0fbcfec4d3b2f, 0xe9b5dba58189dbbc] ++
  [0x3956c25bf348b538, 0x59f111f1b605d019, 0x923f82a4af194f9b, 0xab1c5ed5da6d8118] ++
  [0xd807aa98a3030242, 0x12835b0145706fbe, 0x243185be4ee4b28c, 0x550c7dc3d5ffb4e2] ++
  [0x72be5d74f27b896f, 0x80deb1fe3b1696b1, 0x9bdc06a725c71235, 0xc19bf174cf692694] ++
  [0xe49b69c19ef14ad2, 0xefbe4786384f25e3, 0x0fc19dc68b8cd5b5, 0x240ca1cc77ac9c65] ++
  [0x2de92c6f592b0275, 0x4a7484aa6ea6e483, 0x5cb0a9dcbd41fbd4, 0x76f988da831153b5] ++
  [0x983e5152ee66dfab, 0xa831c66d2db43210, 0xb00327c898fb213f, 0xbf597fc7beef0ee4] ++
  [0xc6e00bf33da88fc2, 0xd5a79147930aa725, 0x06ca6351e003826f, 0x142929670a0e6e70] ++
  [0x27b70a8546d22ffc, 0x2e1b21385c26c926, 0x4d2c6dfc5ac42aed, 0x53380d139d95b3df] ++
  [0x650a73548baf63de, 0x766a0abb3c77b2a8, 0x81c2c92e47edaee6, 0x92722c851482353b] ++
  [0xa2bfe8a14cf10364, 0xa81a664bbc423001, 0xc24b8b70d0f89791, 0xc76c51a30654be30] ++
  [0xd192e819d6ef5218, 0xd69906245565a910, 0xf40e35855771202a, 0x106aa07032bbd1b8] ++
  [0x19a4c116b8d2d0c8, 0x1e376c085141ab53, 0x2748774cdf8eeb99, 0x34b0bcb5e19b48a8] ++
  [0x391c0cb3c5c95a63, 0x4ed8aa4ae3418acb, 0x5b9cca4f7763e373, 0x682e6ff3d6b2b8a3] ++
  [0x748f82ee5defb2fc, 0x78a5636f43172f60, 0x84c87814a1f0ab72, 0x8cc702081a6439ec] ++
  [0x90befffa23631e28, 0xa4506cebde82bde9, 0xbef9a3f7b2c67915, 0xc67178f2e372532b] ++
  [0xca273eceea26619c, 0xd186b8c721c0c207, 0xeada7dd6cde0eb1e, 0xf57d4f7fee6ed178] ++
  [0x06f067aa72176fba, 0x0a637dc5a2c898a6, 0x113f9804bef90dae, 0x1b710b35131c471b] ++
  [0x28db77f523047d84, 0x32caab7b40c72493, 0x3c9ebe0a15c9bebc, 0x431d67c49c100d4c] ++
  [0x4cc5d4becb3e42b6, 0x597f299cfc657e2a, 0x5fcb6fab3ad6faec, 0x6c44198c4a475817]

/-- SHA-256's parameters. -/
def sha256Spec : ShaSpec :=
  { w := 32, s0 := (7, 18, 3), s1 := (17, 19, 10), e0 := (2, 13, 22), e1 := (6, 11, 25), k := sha256K }

/-- SHA-384's parameters. -/
def sha384Spec : ShaSpec :=
  { w := 64, s0 := (1, 8, 7), s1 := (19, 61, 6), e0 := (28, 34, 39), e1 := (14, 18, 41), k := sha512K }

/-- The small sigma functions: two rotations and a shift. -/
def shaSmall (w : Nat) (r : Nat × Nat × Nat) (x : Nat) : Nat :=
  ((rotr w r.1 x).xor (rotr w r.2.1 x)).xor (x >>> r.2.2)

/-- The big sigma functions: three rotations. -/
def shaBig (w : Nat) (r : Nat × Nat × Nat) (x : Nat) : Nat :=
  ((rotr w r.1 x).xor (rotr w r.2.1 x)).xor (rotr w r.2.2 x)

/-- The message schedule: n further words after the 16 of the block; the list is held newest first. -/
def shaSchedule (p : ShaSpec) : Nat → List Nat → List Nat
  | 0, ws => ws
  | n + 1, ws =>
    let x := (shaSmall p.w p.s1 (ws.getD 1 0) + ws.getD 6 0 + shaSmall p.w p.s0 (ws.getD 14 0) + ws.getD 15 0) % 2 ^ p.w
    shaSchedule p n (x :: ws)

/-- The eight working variables. -/
structure ShaState where
  a : Nat
  b : Nat
  c : Nat
  d : Nat
  e : Nat
  f : Nat
  g : Nat
  h : Nat
  deriving DecidableEq, Repr

/-- One round. -/
def shaRound (p : ShaSpec) (s : ShaState) (kw : Nat × Nat) : ShaState :=
  let ch := (s.e.land s.f).xor ((notw p.w s.e).land s.g)
  let t1 := s.h + shaBig p.w p.e1 s.e + ch + kw.1 + kw.2
  let maj := ((s.a.land s.b).xor (s.a.land s.c)).xor (s.b.land s.c)
  let t2 := shaBig p.w p.e0 s.a + maj
  { a := (t1 + t2) % 2 ^ p.w, b := s.a, c := s.b, d := s.c, e := (s.d + t1) % 2 ^ p.w, f := s.e, g := s.f, h := s.g }

/-- One block of 16 big-endian words. -/
def shaBlock (p : ShaSpec) (s : ShaState) (blk : List Nat) : ShaState :=
  let ws := (shaSchedule p (p.k.length - 16) blk.reverse).reverse
  let t := (p.k.zip ws).foldl (shaRound p) s
  let m := 2 ^ p.w
  { a := (s.a + t.a) % m, b := (s.b + t.b) % m, c := (s.c + t.c) % m, d := (s.d + t.d) % m,
    e := (s.e + t.e) % m, f := (s.f + t.f) % m, g := (s.g + t.g) % m, h := (s.h + t.h) % m }

/-- The words of n bytes each of a byte string, big-endian, with fuel for their number. -/
def shaWords (n : Nat) : Nat → Bytes → List Nat
  | 0, _ => []
  | fuel + 1, b => if b.isEmpty then [] else beNat (b.take n) :: shaWords n fuel (b.drop n)

/-- All blocks of a padded word list, with fuel for their number. -/
def shaBlocks (p : ShaSpec) : Nat → ShaState → List Nat → ShaState
  | 0, s, _ => s
  | fuel + 1, s, ws => if ws.isEmpty then s else shaBlocks p fuel (shaBlock p s (ws.take 16)) (ws.drop 16)

/-- The padding: a one bit, zeros, and the bit length in the block's last two words. -/
def shaPad (p : ShaSpec) (b : Bytes) : Bytes :=
  let blk := 2 * p.w
  let lenB := p.w / 4
  let used := (b.length + 1 + lenB) % blk
  let z := if used == 0 then 0 else blk - used
  b ++ [0x80] ++ zeros z ++ beBytes lenB (8 * b.length)

/-- The hash state as bytes. -/
def shaOut (p : ShaSpec) (s : ShaState) : Bytes :=
  [s.a, s.b, s.c, s.d, s.e, s.f, s.g, s.h].flatMap (beBytes (p.w / 8))

/-- The hash of a byte string from an initial state. -/
def shaRun (p : ShaSpec) (init : ShaState) (b : Bytes) : Bytes :=
  let padded := shaPad p b
  let ws := shaWords (p.w / 8) padded.length padded
  shaOut p (shaBlocks p ws.length init ws)

/-- SHA-256: 32 bytes. -/
def sha256 (b : Bytes) : Bytes :=
  shaRun sha256Spec
    { a := 0x6a09e667, b := 0xbb67ae85, c := 0x3c6ef372, d := 0xa54ff53a, e := 0x510e527f, f := 0x9b05688c, g := 0x1f83d9ab, h := 0x5be0cd19 } b

/-- SHA-384: 48 bytes. -/
def sha384 (b : Bytes) : Bytes :=
  (shaRun sha384Spec
    { a := 0xcbbb9d5dc1059ed8,
      b := 0x629a292a367cd507,
      c := 0x9159015a3070dd17,
      d := 0x152fecd8f70e5939,
      e := 0x67332667ffc00b31,
      f := 0x8eb44a8768581511,
      g := 0xdb0c2e0d64f98fa7,
      h := 0x47b5481dbefa4fa4 } b).take 48

/-- HMAC with block length blk over a hash. -/
def hmac (hash : Bytes → Bytes) (blk : Nat) (key msg : Bytes) : Bytes :=
  let k := padTo (if blk < key.length then hash key else key) blk
  let x := fun (c : Byte) => k.map (fun b => b ^^^ c)
  hash (x 0x5C ++ hash (x 0x36 ++ msg))

/-- HMAC-SHA-256 (R579, R581). -/
def hmac256 (key msg : Bytes) : Bytes := hmac sha256 64 key msg

/-- HMAC-SHA-384 (R575). -/
def hmac384 (key msg : Bytes) : Bytes := hmac sha384 128 key msg

end Sys2Proof.Machine
end

