-- ==== Sys2Proof/Config.lean ====
section
/-!
DEFINITION. Config.lean: what one part holds fixed and the manual does not state (fuses, keys, certificates, the constant function
tables), and the free values. Every constant is opaque: nothing can be proved of its value.
-/
namespace Sys2Proof.Config

/-- OD 0x1001.05: the part's serial number, byte 0 in bits [7:0]. -/
opaque serial : BitVec 128

/-- R574: ROOT, the 256-bit secret in the fuses, byte 0 in bits [7:0]. -/
opaque root : BitVec 256

/-- Table 16.1: trust anchors, SHA-384 of the firmware root key and of the service root key, byte 0 in bits [7:0]. -/
opaque firmwareAnchor : BitVec 384

opaque serviceAnchor : BitVec 384

/-- OD 0x8005: the service root public key. -/
opaque serviceRootKey : BitVec 776

/-- OD 0x8002: the device certificate. -/
opaque deviceCert : Bytes

/-- OD 0x1001.04: digits xx of the orderable code PQ-20-A1-Cxx, 0 to 99. -/
opaque orderDigits : Fin 100

/-- OD 0xF000: factory lot and test-flow identifier; OD 0xF001: factory test summaries by die. -/
opaque serviceId : Bytes

opaque dieTest : Nat → BitVec 512

/-- R486: the media profile that stands while OD 0x6001 is empty, 128 bytes with byte 0 in bits [7:0]. -/
opaque mediaProfile : BitVec 1024

/-- R192 to R194: the constant function tables, by function code and table index, as the stored 32-bit pattern. -/
opaque functionTable : Nat → Nat → BitVec 32

/-- R613: the LINEAR16 pattern of a voltage in mV under the exponent that a rail's regulator gives in VOUT_MODE. -/
opaque voutCode : Nat → Nat → BitVec 16

/-- OD 0x3F00.03: SHA-384 over the headers and tables of the constant functions, byte 0 in bits [7:0]. -/
opaque tableSetDigest : BitVec 384

/-- R292, OD 0x259F.04: the CONST record of reduction group 511, byte 0 in bits [7:0]. -/
opaque group511 : BitVec 256

/-- R17: a value the manual leaves undefined or open, 64 bits at a time, by the count of draws so far. -/
opaque free : Nat → BitVec 64

end Sys2Proof.Config
end

