-- ==== Sys2Proof/Machine/StCore.lean ====
section
/-!
DEFINITION. Machine/StCore.lean: the parts of the state that the dictionary and its transports (R53 to R100), the fabric
transport (R236 to R274), the integrity chapter (R316 to R356) and the epochs (R447 to R483) hold. Every field's default is
its value at reset.
-/
namespace Sys2Proof.Machine

/-- An open session (R62, R66). -/
structure Session where
  ep : Nat
  role : Nat
  partition : Nat
  client : Nat
  openedAt : Tick
  lastAt : Tick
  deriving DecidableEq, Repr

/-- An open segmented transfer (R80 to R85). For a write, data is what has arrived; for a read, the whole value. -/
structure Transfer where
  ep : Nat
  tag : Nat
  isRead : Bool
  session : Nat
  index : Nat
  sub : Nat
  total : Nat
  data : Bytes := []
  /-- segments received or sent so far -/
  segs : Nat := 0
  /-- segments of the granted block still to come (a write) or to send (a read) -/
  block : Nat := 0
  /-- the LAST segment has been received or sent -/
  last : Bool := false
  lastAt : Tick := 0
  deriving DecidableEq, Repr

/-- A session challenge held for a client (R67, R580). -/
structure Challenge where
  ep : Nat
  client : Nat
  bytes : Bytes
  at_ : Tick
  deriving DecidableEq, Repr

/-- A CAN FD controller (R87 to R95): fault confinement counters, receive queue, bit timing in force, counters. -/
structure CanCtrl where
  tec : Nat := 0
  rec_ : Nat := 0
  busOff : Bool := false
  /-- received requests not yet handled: transfer tag and message -/
  rxq : List (Nat × TtpMsg) := []
  nominal : Nat := 500000
  data : Nat := 2000000
  nominalSp : Nat := 80
  dataSp : Nat := 75
  /-- a bit-rate or sample-point write waits to be applied (R89) -/
  applyDue : Bool := false
  heartbeatAt : Tick := 0
  /-- OD 0x1016, 0x1017: requests, responses, aborts sent, aborts received, CRC mismatches, frames discarded -/
  stats : List Nat := [0, 0, 0, 0, 0, 0]
  deriving DecidableEq, Repr

/-- A BAR4 mailbox (R96 to R100, Table 3.11). -/
structure Mailbox where
  reqTail : BitVec 16 := 0
  reqHead : BitVec 16 := 0
  rspTail : BitVec 16 := 0
  rspHead : BitVec 16 := 0
  vec : Nat := 0
  irqEn : Bool := false
  resetSeen : Bool := true
  overrun : Bool := false
  /-- the request ring's bytes, by offset from 0x0800 -/
  reqRing : Table Byte := []
  /-- the response ring's 16 slots -/
  rspRing : Table Bytes := []
  /-- requests taken from slots and not yet handled -/
  inbox : List (Nat × TtpMsg) := []
  /-- responses that wait for a free response slot: tag and message -/
  outbox : List (Nat × TtpMsg) := []
  /-- OD 0x1018: requests seen -/
  requests : Nat := 0
  deriving DecidableEq, Repr

/-- The dictionary server's state. -/
structure DictState where
  /-- ground values of RW and RWD entries that differ from or restate the default, by 256 × index + subindex -/
  rw : Table Bytes := []
  /-- open sessions by ID, 1 to 63 -/
  sessions : Table Session := []
  transfers : List Transfer := []
  challenges : List Challenge := []
  /-- the challenge counter of R580 -/
  challengeCtr : BitVec 32 := 0
  canDn : CanCtrl := {}
  canDs : CanCtrl := {}
  mailboxes : Table Mailbox := []
  deriving DecidableEq, Repr

/-- A packet sent on a stream and not yet acknowledged, with the initiator that issued it. -/
structure Unacked where
  seq : Nat
  pkt : Packet
  owner : Initiator
  /-- a STATUS 2 entry has named it, and its REFUSAL has not yet come (R339) -/
  refused : Bool := false
  deriving DecidableEq, Repr

/-- A stream tracker of an injection port (R257 to R267). -/
structure Tracker where
  inUse : Bool := false
  sgen : Nat := 0
  dest : Nat := 0
  cls : Nat := 0
  epoch : Nat := 0
  nextSeq : Nat := 0
  /-- the OPEN packet is not yet acknowledged (R259) -/
  opening : Bool := false
  unacked : List Unacked := []
  /-- the later of the oldest unacknowledged packet's injection and the last advance (R337) -/
  advancedAt : Tick := 0
  idleSince : Tick := 0
  /-- tick of a NACK RX_FULL whose resend is due (R260) -/
  rxFullAt : Option Tick := none
  /-- R339: count of refusals and first refused address -/
  refusals : Nat := 0
  refusedAddr : Option Nat := none
  deriving DecidableEq, Repr

/-- A receive-table entry (R260, R333): keyed by source node and tracker index. -/
structure RxEntry where
  src : Nat
  stream : Nat
  sgen : Nat
  expected : Nat
  broken : Bool := false
  /-- SEQs accepted and not yet performed, in order -/
  pending : List Nat := []
  /-- the next SEQ that no entry has acknowledged -/
  acked : Nat := 0
  /-- a packet with ACK_NOW awaits acknowledgement -/
  ackNow : Bool := false
  deriving DecidableEq, Repr

/-- An acknowledgement entry that a tile holds as state until it is sent (R252, Table 7.8). -/
structure AckEntry where
  dest : Nat
  stream : Nat
  sgen : Nat
  seq : Nat
  status : Nat
  deriving DecidableEq, Repr

/-- A response buffer that an initiator reserved when it issued a READ, SYNC_OP or ENDPOINT_MSG (R253). -/
structure Expect where
  stream : Nat
  sgen : Nat
  seq : Nat
  opcode : Nat
  addr : Nat
  len : Nat
  owner : Initiator
  deriving DecidableEq, Repr

/-- A packet in a router's input buffer: node, input port (0 local, 1 N, 2 E, 3 S, 4 W) and virtual channel. -/
structure Flight where
  node : Nat
  port : Nat
  vc : Nat
  pkt : Packet
  /-- the destination that a die service endpoint injects an escape packet for again (R251) -/
  relay : Option Nat := none
  deriving DecidableEq, Repr

/-- A token bucket of an injection port (R268, R269), in 10⁻⁹ tokens, which may be negative. -/
structure Bucket where
  tokens : Int
  at_ : Tick
  deriving DecidableEq, Repr

/-- The fabric's state. Tables keyed by tile use the node ID; by tracker 64 × node + index; by link 8 × node + port. -/
structure Fabric where
  trackers : Table Tracker := []
  rx : Table (List RxEntry) := []
  waiting : Table (List OutPacket) := []
  net : List Flight := []
  arrived : Table (List Packet) := []
  acks : Table (List AckEntry) := []
  /-- response buffers reserved by the initiators of a tile -/
  expects : Table (List Expect) := []
  buckets : Table Bucket := []
  /-- Table 7.4 state of links by linkKey; an unlisted link has its reset state (linkReset) -/
  links : Table Nat := []
  /-- TC6 grants of an output in its current window: window number and flits (R244) -/
  tc6 : Table (Nat × Nat) := []
  /-- flits granted to TC2 to TC6 at an output while they competed, by 64 × node + 8 × output + TC -/
  deficits : Table Nat := []
  /-- OD 0x2240: UCIe retries by 4 × die + edge group -/
  retries : Table Nat := []
  /-- OD 0x2280: lanes repaired by 4 × die + edge group -/
  lanes : Table Nat := []
  /-- OD 0x2260, by 8 × die + counter -/
  streamStats : Table Nat := []
  deriving DecidableEq, Repr

/-- An error log record (Table 9.9). -/
structure LogRecord where
  seq : Nat
  rep : Report
  count : Nat := 1
  lastTime : Tick
  /-- tick at which the record was created (R354) -/
  at_ : Tick := 0
  dropped : Nat := 0
  deriving DecidableEq, Repr

/-- The integrity chapter's state. -/
structure Integrity where
  /-- the error log ring, in LOG_SEQ order (R353) -/
  log : List LogRecord := []
  nextSeq : BitVec 32 := 0
  overwritten : Nat := 0
  dropped : Nat := 0
  /-- the mirror on the other management-capable die: records and next LOG_SEQ -/
  mirror : List LogRecord := []
  mirrorNext : BitVec 32 := 0
  /-- reports on their way to the managing engine -/
  reports : List Report := []
  /-- reports held by the service endpoint of a die without an escape path, and its drop count, by die -/
  held : Table (List Report) := []
  dropCount : Table Nat := []
  /-- occurrences by class, by cause, and by 8 × partition + class (R356) -/
  classCounts : Table Nat := []
  causeCounts : Table Nat := []
  partClass : Table Nat := []
  /-- PARTITION_HEALTH: cause by failed partition (R347 to R349) -/
  failed : Table Nat := []
  /-- OD 0x2640 by 8 × die + counter, OD 0x2660 by 4 × die + counter, OD 0x2680 by 2 × stack + counter,
  OD 0x2690 by 8 × port + counter -/
  streamErrors : Table Nat := []
  ecc : Table Nat := []
  hbmEcc : Table Nat := []
  portIntegrity : Table Nat := []
  /-- 8-byte units of memory whose stored word is uncorrectable, by address (R328, R329) -/
  badWords : List Nat := []
  /-- unusable configuration table entries: tile, table kind, entry (R332) -/
  badTables : List (Nat × Nat × Nat) := []
  /-- dies whose maintenance ring has failed to answer (R557) -/
  ringFault : List Nat := []
  deriving DecidableEq, Repr

/-- One bank of configuration: the ground values of RWE entries, the dies out of service and the failed links it was built
for, and its epoch count (R457, Table 13.2). -/
structure Bank where
  cfg : Table Bytes := []
  oos : List Nat := []
  badLinks : List Nat := []
  count : Nat := 0
  deriving DecidableEq, Repr

/-- The epoch switch (R457 to R467, Table 13.6). -/
structure Epochs where
  /-- EPOCH_COUNT of the epoch in force -/
  count : Nat := 0
  /-- 0 IDLE, 1 ARMING, 2 ARMED, 3 DRAINING -/
  state : Nat := 0
  /-- 0 operator, 1 repair -/
  kind : Nat := 0
  goAt : Nat := 0
  goTick : Nat := 0
  retireTick : Nat := 0
  result : Nat := 0
  failIndex : Nat := 0
  failSub : Nat := 0
  timedOut : Nat := 0
  armedTint : Nat := 0
  cur : Bank := {}
  old : Option Bank := none
  armed : Option Bank := none
  /-- the pending bank's written values -/
  pend : Table Bytes := []
  armStart : Tick := 0
  resendAt : Tick := 0
  /-- die service endpoints that have received ARM, GO or RETIRE of the current phase -/
  reached : List Nat := []
  /-- die service endpoints that have answered in the current phase -/
  answered : List Nat := []
  /-- tiles that have latched GO, with their g -/
  latched : Table Tick := []
  /-- tiles that have contributed to the retirement wave -/
  portsDone : List Nat := []
  /-- tiles that have freed the old bank -/
  retired : List Nat := []
  /-- entries that the switch under way has rewritten -/
  rewritten : List Nat := []
  /-- RETIRE has been sent -/
  retiring : Bool := false
  /-- a repair switch is due when the draining switch retires (R350) -/
  repairDue : Bool := false
  /-- an initial switch from the configuration store has run (R627) -/
  booted : Bool := false
  deriving DecidableEq, Repr

/-- A model update (R471 to R476): the LOAD_MODEL request it serves and how far it has come. -/
structure Update where
  port : Nat
  /-- the request's number in its port -/
  num : Nat
  /-- image length -/
  len : Nat
  /-- 0 waiting unfetched, 1 fetching, 2 verifying, 3 verified and waiting to run -/
  phase : Nat := 0
  /-- staging area that receives the image: 0 A, 1 B -/
  area : Nat := 0
  digest : Bytes := []
  /-- what the verification that has started will find: the DETAIL of Table 16.7, or 0, and the image with its payload decrypted -/
  reject : Nat := 0
  plain : Bytes := []
  /-- vat dies that have reported their sections loaded -/
  loaded : List Nat := []
  sent : Bool := false
  retries : Table Nat := []
  /-- flip tick T, once chosen -/
  flipAt : Option Tick := none
  flipped : Bool := false
  /-- vat dies that have freed their old bank -/
  freed : List Nat := []
  deriving DecidableEq, Repr

/-- A model slot (R469 to R477). -/
structure Slot where
  generation : BitVec 32 := 0
  digest : Bytes := []
  area : Nat := 0
  flipTick : Tick := 0
  pending : Option Update := none
  running : Option Update := none
  deriving DecidableEq, Repr

/-- A vat die's fence and service state (Table 13.8) and the generations its weight banks hold, by 2 × slot + bank. -/
structure VatDie where
  state : Nat := 0
  bist : Nat := 0
  seqWasRunning : Bool := false
  banks : Table Nat := []
  deriving DecidableEq, Repr

/-- The partitions, tints and model slots. -/
structure PartState where
  /-- control state by partition: 0 ACTIVE, 1 DRAINING, 2 DRAINED -/
  control : Table Nat := []
  slots : Table Slot := []
  vats : Table VatDie := []
  /-- the last accepted sequencer program of each vat, as written (R234, R480) -/
  programs : Table Bytes := []
  /-- deckle dies out of service -/
  lostDeckles : List Nat := []
  groundDigest : Bytes := []
  tintDigest : Bytes := []
  configDigest : Bytes := []
  configSeq : BitVec 32 := 0
  digestDue : Bool := false
  deriving DecidableEq, Repr

end Sys2Proof.Machine
end

