-- ==== Sys2Proof/Machine/StVat.lean ====
section
/-!
DEFINITION. Machine/StVat.lean: the state of the vats: fibres (Table 4.4), sync cells (R127), wait tables (R133), the sequencer
(R195), batches (R221), multicast and reduction (R275 to R315), and the counters of their chapters. Every default is the value
at die reset.
-/
namespace Sys2Proof.Machine

/-- What a wait on a sync cell waits for (Table 4.2, WAIT column): the payload's VALUE, USE_THRESHOLD and PHASE. -/
structure WaitCond where
  value : Nat
  useThreshold : Bool
  phase : Nat
  deriving DecidableEq, Repr

/-- Who waits: a fibre slot of the vat, or the sequencer. -/
inductive Waiter where
  | fibre (slice slot : Nat)
  | sequencer
  deriving DecidableEq, Repr

/-- Bytes a fibre's op has asked for, and the data once it has arrived. -/
structure ReadBuf where
  addr : Nat
  len : Nat
  data : Option Bytes := none
  deriving DecidableEq, Repr

/-- What a WAITING fibre waits for. -/
inductive FibreWait where
  /-- the response of a sync operation to a cell; op is its OP code, cond what a WAIT
  waits for, ret the register that takes the STATE word (R189) -/
  | sync (cell op : Nat) (cond : WaitCond) (ret : Option Nat) (since : Tick)
  /-- a multicast byte count (R188) -/
  | mc (group target : Nat) (since : Tick)
  /-- data of reads in flight -/
  | reads
  /-- a free leaf context for a CONTRIBUTE (R298): its group, the wave it has begun to
  contribute to, if any, and its next chunk -/
  | leaf (group : Nat) (wave : Option Nat) (chunk : Nat) (since : Tick)
  /-- an open place for a WATCH in its watchpoint (R565) -/
  | watch (since : Tick)
  /-- the acknowledgement of a DIGEST_REPORT (R570) -/
  | report
  deriving DecidableEq, Repr

/-- A resident fibre (R102, Table 4.4). A slot without an entry is FREE. -/
structure Fibre where
  /-- 1 READY, 2 RUNNING, 3 WAITING -/
  state : Nat := 1
  regs : List Word := []
  opIndex : Nat := 0
  program : Nat := 0
  batch : Nat := 0
  index : Nat := 0
  tag : Option Nat := none
  /-- the weight bank that holds the generation bound at launch (R150, R216) -/
  bank : Option Nat := none
  wait : Option FibreWait := none
  reads : List ReadBuf := []
  /-- the descriptor of an op that has begun and not finished (R175) -/
  desc : Bytes := []
  deriving DecidableEq, Repr

/-- A waiter held in a cell (R127): the waiting operation's condition and where its response goes. -/
structure CellWaiter where
  cond : WaitCond
  src : Nat
  stream : Nat
  sgen : Nat
  seq : Nat
  partition : Nat
  tag : Option Nat
  deriving DecidableEq, Repr

/-- A sync cell (R127, R132). -/
structure Cell where
  count : Nat := 0
  threshold : Nat := 0
  /-- 0 counter, 1 barrier, 2 event -/
  mode : Nat := 0
  phase : Nat := 0
  waiters : List CellWaiter := []
  /-- overflow mask: dies with parked waits, each with the OPSEQ of the last PARKED sent there -/
  mask : Table Nat := []
  opseq : Nat := 0
  notifyAt : Tick := 0
  deriving DecidableEq, Repr

/-- A parked wait in a die's wait table (R133), or one refused an entry and awaiting its re-send (R134). -/
structure Parked where
  cell : Nat
  cond : WaitCond
  opseq : Nat
  who : Waiter
  deriving DecidableEq, Repr

/-- A batch (R214 to R222). -/
structure Batch where
  num : Nat
  detached : Bool
  total : Nat
  extX : Nat
  extY : Nat
  program : Nat
  slices : List Nat
  blocked : Bool
  args : List Word
  tag : Option Nat
  bank : Option Nat
  /-- the model generation and slot bound, for the weight banks' bookkeeping -/
  slot : Nat
  generation : Nat
  /-- next linear index to become resident -/
  next : Nat := 0
  ended : Nat := 0
  faulted : Nat := 0
  /-- indices of the fibres that were resident and count as faulted -/
  faultedIdx : List Nat := []
  /-- lowest faulted index and its code -/
  first : Option (Nat × Nat) := none
  done : Bool := false
  deriving DecidableEq, Repr

/-- A loop counter (R195). -/
structure LoopCtr where
  active : Bool := false
  count : Nat := 0
  index : Nat := 0
  deriving DecidableEq, Repr

/-- What a WAITING sequencer, or one whose instruction has not completed, waits for. -/
inductive SeqWait where
  /-- SYNC issued: cell, payload word, phase, destination register if RET, NOLIMIT, tick of issue -/
  | sync (cell : Nat) (payload phase : Nat) (ret : Option Nat) (noLimit : Bool) (since : Tick)
  | batch (handle sd : Nat) (noLimit : Bool) (since : Tick)
  | mc (group target : Nat) (noLimit : Bool) (since : Tick)
  | launch (since : Tick)
  /-- an MCAST whose packets are not all injected (R227) -/
  | mcast
  /-- an LD: its address and SD, and its data once they have returned -/
  | load (addr sd : Nat) (data : Option Bytes)
  deriving DecidableEq, Repr

/-- A vat's sequencer (R195 to R200). -/
structure Sequencer where
  /-- Table 6.1: 0 EMPTY, 1 READY, 2 RUNNING, 3 WAITING, 4 HALTED, 5 TRAPPED -/
  state : Nat := 0
  regs : List Word := []
  loops : List LoopCtr := []
  pc : Nat := 0
  prog : List (BitVec 32) := []
  version : Nat := 0
  digest : Bytes := []
  passes : Nat := 0
  trapCode : Nat := 0
  trapRecord : Bytes := []
  loadError : Nat := 0
  traps : Nat := 0
  /-- ticks of the automatic restarts still within 10^9 ticks (R230) -/
  restarts : List Tick := []
  wait : Option SeqWait := none
  /-- a posted failure not yet taken: trap code and address (R209) -/
  posted : Option (Nat × Nat) := none
  /-- an accepted START waits for earlier packets to settle (R198) -/
  starting : Bool := false
  /-- an accepted STOP waits for an LD in flight (R199) -/
  stopping : Bool := false
  /-- program words whose stored bits are uncorrectable (R235) -/
  badWords : List Nat := []
  deriving DecidableEq, Repr

/-- A vat: sequencer, fibres, batches, queues and counters. -/
structure Vat where
  seq : Sequencer := {}
  /-- resident fibres, by 256 × slice + slot -/
  fibres : Table Fibre := []
  /-- batch table, in launch order -/
  batches : List Batch := []
  nextBatch : Nat := 0
  launched : Nat := 0
  /-- request queue, oldest first: the three words of Table 6.6 -/
  queue : List (Nat × Nat × Nat) := []
  /-- kill records, by context number (R217) -/
  kills : Table Nat := []
  waitTable : List Parked := []
  /-- waits refused an entry, in the order they were refused (R134) -/
  resend : List Parked := []
  waitFull : Nat := 0
  /-- the last NOTIFY of each cell with a wait here: OPSEQ and state word -/
  notifies : Table (Nat × Nat) := []
  /-- the highest OPSEQ of any PARKED received for a cell (R132) -/
  parkedSeq : Table Nat := []
  fibreFaults : Nat := 0
  opsExecuted : Nat := 0
  encodingFaults : Nat := 0
  arithFaults : Nat := 0
  inexactOps : Nat := 0
  rangeOps : Nat := 0
  embedMissing : Nat := 0
  deriving DecidableEq, Repr

/-- An MC_DELIVER that not every unpruned member has acknowledged (R283), and whom to acknowledge. -/
structure McPending where
  dseq : Nat
  src : Nat
  stream : Nat
  sgen : Nat
  seq : Nat
  /-- set when the source is on the root tile and its packet entered the relay directly (R281) -/
  local_ : Option Initiator
  waiting : List Nat
  epoch : Nat
  at_ : Tick
  deriving DecidableEq, Repr

/-- A multicast group at its root (R283, R291, R308 to R310). -/
structure McGroup where
  generation : Nat := 0
  nextDseq : Nat := 0
  pruned : List Nat := []
  pending : List McPending := []
  deriving DecidableEq, Repr

/-- A member agent's state for a group, with its receiver tiles (R286 to R289). -/
structure McAgent where
  bytes : Nat := 0
  generation : Nat := 0
  /-- the next DSEQ that the agent acknowledges -/
  nextDseq : Nat := 0
  pruned : Bool := false
  /-- by slice: the generation and next DSEQ of a receiver tile that is ahead of the agent -/
  tiles : Table (Nat × Nat) := []
  /-- by DSEQ: the slices that have reported it, its LENGTH and its generation -/
  reports : Table (List Nat × Nat × Nat) := []
  deriving DecidableEq, Repr

/-- One wire element (Table 8.3), as its exact integer and its flags. -/
structure Wire where
  t : Int
  special : Nat := 0
  range : Bool := false
  inexact : Bool := false
  deriving DecidableEq, Repr

/-- A reduction context: one chunk being combined at a node (R296). -/
structure RedCtx where
  /-- inputs that have arrived: the child's node ID, or the node's own for a contribution of its slice -/
  arrived : List Nat := []
  elems : List Wire := []
  /-- sum of the input residues -/
  residue : Nat := 0
  /-- fault cause, once FAULTED -/
  fault : Option Nat := none
  firstAt : Tick := 0
  deriving DecidableEq, Repr

/-- A node of a reduction group. Chunks are numbered wave × (chunks per wave) + chunk; waves are counted without their modulus. -/
structure RedNode where
  /-- contexts in use, by chunk number -/
  ctxs : Table RedCtx := []
  /-- the next chunk that the node forwards; every lower one is forwarded or given up -/
  base : Nat := 0
  /-- contributions begun for the leaf's wave, and that wave -/
  contrib : Nat := 0
  nextWave : Nat := 0
  /-- the parent's contexts for which the node holds no credit -/
  spent : List Nat := []
  /-- waves begun: one more than the highest -/
  begun : Nat := 0
  /-- tick of the last RED_REPORT sent and not yet answered -/
  reportAt : Option Tick := none
  deriving DecidableEq, Repr

/-- A reduction group at its root. -/
structure RedGroup where
  /-- true in RESYNC -/
  resync : Bool := false
  /-- the next wave to deliver -/
  nextWave : Nat := 0
  faulted : Nat := 0
  /-- tick of the last contribution that reached a leaf -/
  lastContribution : Tick := 0
  /-- waves begun, as nodes have reported them, by node -/
  reports : Table Nat := []
  /-- chunks of the wave being delivered, by chunk number within it -/
  chunks : Table RedCtx := []
  deriving DecidableEq, Repr

/-- The vats, cells and groups. -/
structure VatState where
  vats : Table Vat := []
  /-- sync cells, by 256 × die + cell -/
  cells : Table Cell := []
  /-- NOTIFY messages sent, by die -/
  notifiesSent : Table Nat := []
  mc : Table McGroup := []
  /-- member agents, by 16 × group + vat -/
  agents : Table McAgent := []
  red : Table RedGroup := []
  /-- reduction nodes, by 4096 × group + node ID -/
  nodes : Table RedNode := []
  /-- OD 0x25C2: fork drops and the further counts of its chapter -/
  mcCounts : List Nat := [0, 0, 0, 0]
  /-- WINDOW_FAULTS by partition (R116) -/
  windowFaults : Table Nat := []
  deriving DecidableEq, Repr

end Sys2Proof.Machine
end

