-- ==== Sys2Proof/Machine/Float.lean ====
section
/-!
DEFINITION. Machine/Float.lean: the numeric formats and their conversions (R152 to R160), FP32 arithmetic (R161, R162), the Ream format and
the M61 residue (R299 to R307), and the table-driven functions (R192 to R194), on exact integers.
-/
namespace Sys2Proof.Machine

/-- The exact value of a number of any format: a NaN, an infinity, or (−1)^neg × m × 2^e. -/
inductive Num where
  | nan
  | inf (neg : Bool)
  | fin (neg : Bool) (m : Nat) (e : Int)
  deriving DecidableEq, Repr

/-- A floating-point format of Table 5.2. -/
structure FloatFmt where
  width : Nat
  mbits : Nat
  bias : Nat
  /-- encodings of the largest finite magnitude, of infinity where there is one, and of the canonical NaN -/
  largest : Nat
  infinity : Option Nat
  nan : Nat
  deriving DecidableEq, Repr

def fmtE4M3 : FloatFmt := { width := 8, mbits := 3, bias := 7, largest := 0x7E, infinity := none, nan := 0x7F }
def fmtE5M2 : FloatFmt := { width := 8, mbits := 2, bias := 15, largest := 0x7B, infinity := some 0x7C, nan := 0x7E }
def fmtFP16 : FloatFmt := { width := 16, mbits := 10, bias := 15, largest := 0x7BFF, infinity := some 0x7C00, nan := 0x7E00 }
def fmtBF16 : FloatFmt := { width := 16, mbits := 7, bias := 127, largest := 0x7F7F, infinity := some 0x7F80, nan := 0x7FC0 }
def fmtFP32 : FloatFmt :=
  { width := 32, mbits := 23, bias := 127, largest := 0x7F7FFFFF, infinity := some 0x7F800000, nan := 0x7FC00000 }

/-- Table 5.2: the floating-point format of a code. -/
def floatFmt (code : Nat) : Option FloatFmt :=
  if code = 4 then some fmtE4M3 else if code = 5 then some fmtE5M2 else if code = 6 then some fmtFP16
  else if code = 7 then some fmtBF16 else if code = 8 then some fmtFP32 else none

/-- Table 5.2: bits of an element. -/
def fmtBits (code : Nat) : Nat :=
  if code = 0 then 4 else if code = 1 then 8 else if code = 2 then 16 else if code = 3 then 32
  else if code = 4 || code = 5 then 8 else if code = 6 || code = 7 then 16 else if code = 8 then 32 else 256

def isIntFmt (code : Nat) : Bool := decide (code ≤ 3)

/-- R154, R155: the exact value of an encoding. -/
def FloatFmt.decode (f : FloatFmt) (v : Nat) : Num :=
  let neg := bitAt v (f.width - 1)
  let mag := v % 2 ^ (f.width - 1)
  if f.infinity = some mag then .inf neg
  else if f.largest < mag then .nan
  else
    let ef := mag / 2 ^ f.mbits
    let sig := mag % 2 ^ f.mbits
    if ef = 0 then .fin neg sig (1 - Int.ofNat f.bias - Int.ofNat f.mbits)
    else .fin neg (sig + 2 ^ f.mbits) (Int.ofNat ef - Int.ofNat f.bias - Int.ofNat f.mbits)

/-- m × 2^−d rounded to the nearest integer, ties to even. -/
def roundEven (m d : Nat) : Nat :=
  let q := m / 2 ^ d
  let r := 2 * (m % 2 ^ d)
  if 2 ^ d < r || (r = 2 ^ d && q % 2 = 1) then q + 1 else q

/-- m × 2^e rounded to the nearest integer, ties to even. -/
def roundScaled (m : Nat) (e : Int) : Nat := match e with | .ofNat k => m * 2 ^ k | .negSucc k => roundEven m (k + 1)

/-- R157: the magnitude's encoding with an unbounded exponent range above. -/
def FloatFmt.encodeMag (f : FloatFmt) (m : Nat) (e : Int) : Nat :=
  if m = 0 then 0
  else
    let top := max (Int.ofNat m.log2 + e) (1 - Int.ofNat f.bias)
    let sig := roundScaled m (e - (top - Int.ofNat f.mbits))
    ((top + Int.ofNat f.bias - 1).toNat) * 2 ^ f.mbits + sig

/-- R155, R157, R159: one rounding of an exact value into a floating-point format. -/
def FloatFmt.encode (f : FloatFmt) (sat : Bool) (x : Num) : Nat :=
  let sign := fun neg : Bool => bitOf neg * 2 ^ (f.width - 1)
  let big := fun neg : Bool =>
    if sat then sign neg + f.largest else match f.infinity with | some i => sign neg + i | none => f.nan
  match x with
  | .nan => f.nan
  | .inf neg => big neg
  | .fin neg m e =>
    let mag := f.encodeMag m e
    if f.largest < mag then big neg else sign neg + mag

/-- R158: the nearest integer, ties to even, saturated to n bits. -/
def encodeInt (n : Nat) (x : Num) : Int :=
  let hi : Int := 2 ^ (n - 1) - 1
  let lo : Int := -(2 ^ (n - 1))
  match x with
  | .nan => 0
  | .inf neg => if neg then lo else hi
  | .fin neg m e =>
    let r := Int.ofNat (roundScaled m e)
    max lo (min hi (if neg then -r else r))

/-- An exact integer. -/
def numOfInt (i : Int) : Num := .fin (decide (i < 0)) i.natAbs 0

/-- The exact value of an element of a format other than REAM. -/
def decodeElem (code v : Nat) : Num :=
  match floatFmt code with
  | some f => f.decode v
  | none => numOfInt (sext (fmtBits code) v)

/-- R156 to R159: an exact value in a format other than REAM. -/
def encodeElem (code : Nat) (sat : Bool) (x : Num) : Nat :=
  match floatFmt code with
  | some f => f.encode sat x
  | none => ofInt (fmtBits code) (encodeInt (fmtBits code) x)

/-- FP32 values as patterns. -/
def fp32 (v : Nat) : Num := fmtFP32.decode v
def round32 (x : Num) : Nat := fmtFP32.encode false x

/-! ### Exact sums and products -/

/-- m × 2^e as a signed pair. -/
def signed (neg : Bool) (m : Nat) : Int := if neg then -(Int.ofNat m) else Int.ofNat m

/-- The exact sum of dyadic numbers (i, e), each i × 2^e, at the least exponent. -/
def dyAdd (a b : Int × Int) : Int × Int :=
  let e := min a.2 b.2
  (a.1 * 2 ^ (a.2 - e).toNat + b.1 * 2 ^ (b.2 - e).toNat, e)

/-- IEEE 754 sum of two exact values, before rounding: an exact zero sum is −0 only where both are −0. -/
def numAdd (x y : Num) : Num :=
  match x, y with
  | .nan, _ => .nan
  | _, .nan => .nan
  | .inf a, .inf b => if a = b then .inf a else .nan
  | .inf a, _ => .inf a
  | _, .inf b => .inf b
  | .fin a m e, .fin b n f =>
    let s := dyAdd (signed a m, e) (signed b n, f)
    if s.1 = 0 then .fin (a && b && m == 0 && n == 0) 0 0 else .fin (decide (s.1 < 0)) s.1.natAbs s.2

/-- IEEE 754 product of two exact values, before rounding. -/
def numMul (x y : Num) : Num :=
  match x, y with
  | .nan, _ => .nan
  | _, .nan => .nan
  | .inf a, .inf b => .inf (a != b)
  | .inf a, .fin b n _ => if n = 0 then .nan else .inf (a != b)
  | .fin a m _, .inf b => if m = 0 then .nan else .inf (a != b)
  | .fin a m e, .fin b n f => .fin (a != b) (m * n) (e + f)

def numNeg : Num → Num
  | .nan => .nan
  | .inf a => .inf (!a)
  | .fin a m e => .fin (!a) m e

def numAbs : Num → Num
  | .nan => .nan
  | .inf _ => .inf false
  | .fin _ m e => .fin false m e

/-- x < y, with −0 below +0 (R162); false where either is a NaN. -/
def numBelow (x y : Num) : Bool :=
  match x, y with
  | .nan, _ => false
  | _, .nan => false
  | .inf a, .inf b => a && !b
  | .inf a, _ => a
  | _, .inf b => !b
  | .fin a m e, .fin b n f =>
    let d := dyAdd (signed a m, e) (signed (!b) n, f)
    decide (d.1 < 0) || (d.1 == 0 && m == 0 && a && !b)

/-- IEEE comparison x < y: zeros are equal. -/
def numLess (x y : Num) : Bool :=
  match x, y with
  | .fin _ 0 _, .fin _ 0 _ => false
  | _, _ => numBelow x y

/-- R161: FP32 arithmetic on patterns. -/
def fp32Add (a b : Nat) : Nat := round32 (numAdd (fp32 a) (fp32 b))
def fp32Sub (a b : Nat) : Nat := round32 (numAdd (fp32 a) (numNeg (fp32 b)))
def fp32Mul (a b : Nat) : Nat := round32 (numMul (fp32 a) (fp32 b))
def fp32Fma (a b c : Nat) : Nat := round32 (numAdd (numMul (fp32 a) (fp32 b)) (fp32 c))

/-- R162. -/
def fp32Min (a b : Nat) : Nat :=
  if fp32 a = .nan || fp32 b = .nan then fmtFP32.nan else if numBelow (fp32 b) (fp32 a) then b else a
def fp32Max (a b : Nat) : Nat :=
  if fp32 a = .nan || fp32 b = .nan then fmtFP32.nan else if numBelow (fp32 a) (fp32 b) then b else a
def fp32Abs (a : Nat) : Nat := round32 (numAbs (fp32 a))
def fp32Neg (a : Nat) : Nat := round32 (numNeg (fp32 a))
def fp32Relu (a : Nat) : Nat := if fp32 a = .nan then fmtFP32.nan else if numLess (.fin false 0 0) (fp32 a) then a else 0

/-- R164: the rounded sum of one chunk of a matrix product's terms. -/
def chunkSum (terms : List Num) : Nat :=
  let infs := terms.filterMap (fun t => match t with | .inf a => some a | _ => none)
  if terms.contains .nan || (infs.contains true && infs.contains false) then fmtFP32.nan
  else match infs with
    | a :: _ => round32 (.inf a)
    | [] =>
      let s := terms.foldl (fun acc t => match t with | .fin a m e => dyAdd acc (signed a m, e) | _ => acc) ((0 : Int), (0 : Int))
      if s.1 = 0 then
        round32 (.fin (terms.all (fun t => match t with | .fin a m _ => a && m == 0 | _ => false)) 0 0)
      else round32 (.fin (decide (s.1 < 0)) s.1.natAbs s.2)

/-! ### The Ream format -/

def m61 : Nat := 2 ^ 61 - 1

/-- R305: ρ(T). -/
def rho (t : Int) : Nat := (t % Int.ofNat m61).toNat

/-- R306: the packet residue of elements that start at index j of the wave vector. -/
def residueFrom (j : Nat) : List Wire → Nat
  | [] => 0
  | w :: l => (2 ^ (j % 61) * rho w.t + residueFrom (j + 1) l) % m61

def reamMax : Int := 2 ^ 191 - 1
def reamMin : Int := -(2 ^ 191)

/-- R301: T saturated to the memory range, with the flag. -/
def reamClamp (t : Int) (inexact : Bool) : Wire :=
  if reamMax < t then { t := reamMax, range := true, inexact := inexact }
  else if t < reamMin then { t := reamMin, range := true, inexact := inexact }
  else { t := t, inexact := inexact }

/-- R301: conversion at entry, at window w. -/
def toReam (w : Nat) (x : Num) : Wire :=
  match x with
  | .nan => { t := 0, special := 3 }
  | .inf neg => { t := 0, special := if neg then 2 else 1 }
  | .fin neg m e =>
    let i := signed neg m
    match e + 512 - Int.ofNat w with
    | .ofNat k => reamClamp (i * 2 ^ k) false
    | .negSucc k => reamClamp (i / 2 ^ (k + 1)) (i % 2 ^ (k + 1) != 0)

/-- R302: one element's combination. -/
def Wire.add (a b : Wire) : Wire :=
  { t := a.t + b.t, special := a.special.lor b.special, range := a.range || b.range, inexact := a.inexact || b.inexact }

/-- R303: the exact value that a final conversion rounds. -/
def Wire.num (w : Nat) (x : Wire) : Num :=
  if x.special = 3 then .nan
  else if x.special = 1 then .inf false
  else if x.special = 2 then .inf true
  else .fin (decide (x.t < 0)) x.t.natAbs (Int.ofNat w - 512)

/-- R304, Table 8.2: a Ream value as a memory element, and whether the output saturated. -/
def Wire.memory (x : Wire) : Nat × Bool :=
  let c := reamClamp x.t x.inexact
  (ofInt 192 c.t + rho c.t * 2 ^ 192 + x.special % 4 * 2 ^ 253 + bitOf (x.range || c.range) * 2 ^ 255, c.range)

/-- Table 8.2, R169: a memory element, none where its residue does not belong to its value. -/
def ofMemory (v : Nat) : Option Wire :=
  let t := sext 192 v
  if bits v 252 192 = rho t then some { t := t, special := bits v 254 253, range := bitAt v 255 } else none

/-- Table 8.3: a wire element, and its reading. -/
def Wire.pack (x : Wire) : Nat :=
  let value := ofInt 192 x.t
  let carry := (x.t - sext 192 value) / 2 ^ 192
  value + ofInt 16 carry * 2 ^ 192 + x.special % 4 * 2 ^ 208 + bitOf x.range * 2 ^ 210 + bitOf x.inexact * 2 ^ 211

def unpackWire (v : Nat) : Wire :=
  { t := sext 192 v + sext 16 (bits v 207 192) * 2 ^ 192, special := bits v 209 208, range := bitAt v 210, inexact := bitAt v 211 }

/-- The window is one of R299. -/
def windowOkReam (w : Nat) : Bool := decide (256 ≤ w) && decide (w ≤ 640)

/-! ### Table-driven functions -/

/-- 32-bit word k of a function's header (Table 5.8) and segment table. -/
def fnWord (fn k : Nat) : Nat := (Config.functionTable fn k).toNat

/-- Bits of the header. -/
def fnHeader (fn hi lo : Nat) : Nat := bits ((List.range 16).map (fun k => fnWord fn k * 2 ^ (32 * k))).sum hi lo

/-- R193's rule. -/
def fnRule (code k x : Nat) : Nat := if code = 0 then k else if code = 1 then x else fp32Mul x k

/-- R193, the last part: the entry of a segment at a position within it, with an exponent term ke added to v and k to the scale. -/
def fnSegment (fn seg u : Nat) (ke k : Int) : Nat :=
  let c := fun i : Nat => sext 32 (fnWord fn (16 + 4 * seg + i))
  let u := Int.ofNat u
  let t := (c 2 * u) / 65536
  let t := ((c 1 + t) * u) / 65536
  let v := c 0 + t + ke
  let e := sext 16 (fnWord fn (16 + 4 * seg + 3)) - 30 + k
  if v = 0 then 0 else round32 (.fin (decide (v < 0)) v.natAbs e)

/-- R193: a function's FP32 result for an FP32 input. -/
def fnEval (fn x : Nat) : Nat :=
  let h := fnHeader fn
  let neg := bitAt x 31
  let e := bits x 30 23
  let m := bits x 22 0
  let sb := h 79 72
  let w := 23 - sb
  let pos := fun mm : Nat => mm % 2 ^ w / 2 ^ (w - 16)
  match fp32 x with
  | .nan => fmtFP32.nan
  | .inf n => if n then h 479 448 else h 447 416
  | .fin n mag _ =>
    if mag = 0 then (if n then h 415 384 else h 383 352)
    else if h 71 64 = 0 then
      let emin := if neg then h 119 112 else h 103 96
      let emax := if neg then h 127 120 else h 111 104
      if e < emin then fnRule (if neg then h 151 144 else h 135 128) (if neg then h 287 256 else h 223 192) x
      else if emax < e then fnRule (if neg then h 159 152 else h 143 136) (if neg then h 319 288 else h 255 224) x
      else fnSegment fn ((if neg then h 191 176 else h 175 160) + (e - emin) * 2 ^ sb + m / 2 ^ w) (pos m) 0 0
    else if neg then h 511 480
    else
      let p := m.log2
      let ex : Int := if e = 0 then Int.ofNat p - 149 else Int.ofNat e - 127
      let mm := if e = 0 then (m - 2 ^ p) * 2 ^ (23 - p) else m
      let d := Int.ofNat (h 87 80)
      let q := ex / d
      let r := ex - q * d
      let seg := h 175 160 + r.toNat * 2 ^ sb + mm / 2 ^ w
      if h 71 64 = 1 then fnSegment fn seg (pos mm) (ex * sext 32 (h 351 320)) 0
      else fnSegment fn seg (pos mm) 0 (sext 8 (h 95 88) * q)

end Sys2Proof.Machine
end

