-- ==== Sys2Proof/Machine/Tab.lean ====
section
/-!
DEFINITION. Machine/Tab.lean: tables (key and value pairs in rising key order) and the canonical byte memory over the same shape.
-/
namespace Sys2Proof.Machine

/-- The entry at a key. -/
def tget {α : Type} : Table α → Nat → Option α
  | [], _ => none
  | (k, v) :: t, n => if k = n then some v else tget t n

/-- The entry at a key, or the value that stands for an unlisted one. -/
def tgetD {α : Type} (t : Table α) (n : Nat) (d : α) : α := (tget t n).getD d

/-- The table with an entry set. -/
def tput {α : Type} : Table α → Nat → α → Table α
  | [], n, x => [(n, x)]
  | (k, v) :: t, n, x => if n < k then (n, x) :: (k, v) :: t else if n = k then (n, x) :: t else (k, v) :: tput t n x

/-- The table without an entry. -/
def tdel {α : Type} (t : Table α) (n : Nat) : Table α := t.filter (fun e => e.1 != n)

/-- The entry at a key changed by f, from the default where it is not listed. -/
def tmod {α : Type} (t : Table α) (n : Nat) (d : α) (f : α → α) : Table α := tput t n (f (tgetD t n d))

/-- A counter table with the entry at a key raised. -/
def tinc (t : Table Nat) (n k : Nat) : Table Nat := tmod t n 0 (· + k)

/-- A list with element n changed; unchanged where it is shorter. -/
def lmod {α : Type} : List α → Nat → (α → α) → List α
  | [], _, _ => []
  | x :: l, 0, f => f x :: l
  | x :: l, n + 1, f => x :: lmod l n f

/-- A list without its first element that meets p. -/
def dropFirst {α : Type} (p : α → Bool) : List α → List α
  | [] => []
  | x :: l => if p x then l else x :: dropFirst p l

/-- One byte of a memory whose unlisted bytes read 0. -/
def memGet : List (Nat × Byte) → Nat → Byte
  | [], _ => 0
  | (k, v) :: t, a => if k = a then v else memGet t a

/-- A memory with one byte written, in canonical form: rising addresses, no entry equal to 0. -/
def memPut : List (Nat × Byte) → Nat → Byte → List (Nat × Byte)
  | [], a, b => if b = 0 then [] else [(a, b)]
  | (k, v) :: t, a, b =>
    if a < k then (if b = 0 then (k, v) :: t else (a, b) :: (k, v) :: t)
    else if a = k then (if b = 0 then t else (a, b) :: t)
    else (k, v) :: memPut t a b

/-- The n bytes from an address. -/
def memRead (m : List (Nat × Byte)) (a : Nat) : Nat → Bytes
  | 0 => []
  | n + 1 => memGet m a :: memRead m (a + 1) n

/-- A memory with a byte string written from an address. -/
def memWrite (m : List (Nat × Byte)) (a : Nat) : Bytes → List (Nat × Byte)
  | [] => m
  | b :: bs => memWrite (memPut m a b) (a + 1) bs

/-- The addresses of a memory all lie above a bound, rise strictly, and no entry is 0. -/
def memAbove : Nat → List (Nat × Byte) → Bool
  | _, [] => true
  | lo, (k, v) :: t => decide (lo ≤ k) && v != 0 && memAbove (k + 1) t

/-- A memory is in canonical form. -/
def Memory.wf (m : List (Nat × Byte)) : Bool := memAbove 0 m

end Sys2Proof.Machine
end

