-- ==== Sys2Proof/Machine/Map.lean ====
section
/-!
DEFINITION. Machine/Map.lean: the package map (R19 to R32) and the fabric address space (R107 to R112): node IDs, dies, links, which
endpoint sits on which tile, and the target tile of an address.
-/
namespace Sys2Proof.Machine

/-- Grid column and row of a node ID (Table 1.7). -/
def nodeX (n : Nat) : Nat := n % 64
def nodeY (n : Nat) : Nat := n / 64 % 64

/-- R21: the node ID of a coordinate. -/
def nodeOf (x y : Nat) : Nat := 64 * y + x

/-- R20 to R23: the die and local index of a coordinate, where it holds a tile. -/
def locate (x y : Nat) : Option (Nat × Nat) :=
  if x > 35 || y > 35 then none
  else if 2 ≤ x && x ≤ 33 && 2 ≤ y && y ≤ 33 then
    some (4 * ((y - 2) / 8) + (x - 2) / 8, 8 * ((y - 2) % 8) + (x - 2) % 8)
  else if y ≤ 1 && 2 ≤ x && x ≤ 33 then some (16, (x - 2) + 32 * bitOf (y == 0))
  else if x ≥ 34 && 2 ≤ y && y ≤ 33 then some (17, (y - 2) + 32 * bitOf (x == 35))
  else if y ≥ 34 && 2 ≤ x && x ≤ 33 then some (18, (x - 2) + 32 * bitOf (y == 35))
  else if x ≤ 1 && 2 ≤ y && y ≤ 33 then some (19, (y - 2) + 32 * bitOf (x == 0))
  else none

/-- The die and local index of a node ID. -/
def locateNode (n : Nat) : Option (Nat × Nat) := locate (nodeX n) (nodeY n)

/-- The die of a node ID; 20 where it names no tile. -/
def dieOf (n : Nat) : Nat := ((locateNode n).map (·.1)).getD 20

/-- The local index of a node ID. -/
def localOf (n : Nat) : Nat := ((locateNode n).map (·.2)).getD 0

/-- The node ID of a die's tile by local index (R22, R23). -/
def nodeAt (die l : Nat) : Nat :=
  let k := l % 32
  let inner := decide (l < 32)
  if die < 16 then nodeOf (2 + 8 * (die % 4) + l % 8) (2 + 8 * (die / 4) + l / 8 % 8)
  else if die = 16 then nodeOf (k + 2) (if inner then 1 else 0)
  else if die = 17 then nodeOf (if inner then 34 else 35) (k + 2)
  else if die = 18 then nodeOf (k + 2) (if inner then 34 else 35)
  else nodeOf (if inner then 1 else 0) (k + 2)

/-- The tiles of a die, by node ID in local order. -/
def tilesOf (die : Nat) : List Nat := (List.range 64).map (nodeAt die)

/-- Every tile of the package, by node ID in die and local order. -/
def allTiles : List Nat := (List.range 20).flatMap tilesOf

/-- Outer tile Ok and inner tile Ik of a deckle die (R23, R28). -/
def outerTile (die k : Nat) : Nat := nodeAt die (32 + k)
def innerTile (die k : Nat) : Nat := nodeAt die k

/-- R26: the tiles of a vat die's sequencer, fibre scheduler and die service endpoint; Table 1.3 for a deckle die's. -/
def seqTile (die : Nat) : Nat := nodeAt die 27
def schedTile (die : Nat) : Nat := nodeAt die 36
def serviceTile (die : Nat) : Nat := if die < 16 then nodeAt die 0 else outerTile die 0

/-- Table 1.3: admission engine, port front, management engine, multicast sequencer, ledger engine, security engine, time unit,
CAN controller tiles of a deckle die. -/
def admissionTile (port : Nat) : Nat := outerTile (16 + port) 13
def portFrontTile (port : Nat) : Nat := outerTile (16 + port) 14
def mgmtTile (die : Nat) : Nat := outerTile die 10
def mcSeqTile (die : Nat) : Nat := outerTile die 11
def ledgerTile (deckle : Nat) : Nat := outerTile (16 + deckle) 8
def securityTile (deckle : Nat) : Nat := outerTile (16 + deckle) 1
def timeTile (die : Nat) : Nat := outerTile die 18
def canTile (die : Nat) : Nat := outerTile die 19

/-- R24: the neighbour of a tile at mesh port 1 N, 2 E, 3 S, 4 W. -/
def neighbour (n port : Nat) : Option Nat :=
  let x := nodeX n
  let y := nodeY n
  let c : Option (Nat × Nat) :=
    if port = 1 then (if y = 0 then none else some (x, y - 1))
    else if port = 2 then some (x + 1, y)
    else if port = 3 then some (x, y + 1)
    else if port = 4 then (if x = 0 then none else some (x - 1, y))
    else none
  match c with
  | none => none
  | some (x', y') =>
    if (locate x y).isSome && (locate x' y').isSome then some (nodeOf x' y') else none

/-- The port that faces back: N and S, E and W. -/
def opposite (port : Nat) : Nat := if port = 1 then 3 else if port = 2 then 4 else if port = 3 then 1 else if port = 4 then 2 else 0

/-- R25: the link at a tile's port joins two dies. -/
def isDieLink (n port : Nat) : Bool :=
  match neighbour n port with
  | none => false
  | some m => dieOf n != dieOf m

/-- One key for both directions of a link: the smaller node ID's end. -/
def linkKey (n port : Nat) : Nat :=
  match neighbour n port with
  | none => 8 * n + port
  | some m => if n < m then 8 * n + port else 8 * m + opposite port

/-- Regions of the fabric address space (Table 4.1). -/
inductive Region where
  | vatSram (die slice off : Nat)
  | deckleSram (deckle k off : Nat)
  | syncCell (die cell off : Nat)
  | hbm (stack off : Nat)
  | hostWindow (port off : Nat)
  deriving DecidableEq, Repr

/-- R107 to R112: what a fabric address names; none where it is unmapped. -/
def decodeAddr (a : Nat) : Option Region :=
  if a < 0x80000000 then
    let off := bits a 20 0
    if off < 0x180000 then some (.vatSram (bits a 30 27) (bits a 26 21) off) else none
  else if 0x80000000 ≤ a && a < 0x90000000 then
    let off := bits a 20 0
    if off < 0x100000 then some (.deckleSram (bits a 27 26) (bits a 25 21) off) else none
  else if 0xA0000000 ≤ a && a < 0xA0140000 then
    some (.syncCell (bits (a - 0xA0000000) 20 16) (bits a 15 8) (bits a 7 0))
  else if 0x2000000000 ≤ a && a < 0x4000000000 then
    some (.hbm (bits (a - 0x2000000000) 36 34) (bits a 33 0))
  else if 0x100000000000 ≤ a && a < 0x140000000000 then
    some (.hostWindow (bits (a - 0x100000000000) 41 40) (bits a 39 0))
  else none

/-- R109: tiles I8 to I23 hold trace memory, which is unmapped to every fibre and partner request. -/
def Region.isTrace : Region → Bool
  | .deckleSram _ k _ => decide (8 ≤ k) && decide (k ≤ 23)
  | _ => false

/-- The target tile of a region (R108 to R112). -/
def Region.tile : Region → Nat
  | .vatSram d sl _ => nodeAt d sl
  | .deckleSram d k _ => innerTile (16 + d) k
  | .syncCell d c _ => nodeAt d (c / 4)
  | .hbm st off => outerTile (16 + st / 2) ((if st % 2 = 0 then 2 else 26) + bits off 9 8)
  | .hostWindow p _ => portFrontTile p

/-- The first address past the byte's target-tile span: end of a slice, deckle tile, sync cell, 256-byte HBM block (R115). -/
def spanEnd (a : Nat) : Nat :=
  match decodeAddr a with
  | some (.vatSram _ _ off) => a - off + 0x180000
  | some (.deckleSram _ _ off) => a - off + 0x100000
  | some (.syncCell _ _ off) => a - off + 256
  | some (.hbm _ _) => (a / 256 + 1) * 256
  | some (.hostWindow p _) => 0x100000000000 + (p + 1) * 0x10000000000
  | none => a + 1

/-- R107, R109, R114: an address that a fibre, sequencer or partner request may name. -/
def mapped (a : Nat) : Bool :=
  match decodeAddr a with
  | some r => !r.isTrace
  | none => false

/-- R114: every byte of a range is mapped. The fuel bounds the number of spans it may touch. -/
def rangeMapped : Nat → Nat → Nat → Bool
  | 0, _, n => n == 0
  | f + 1, a, n => n == 0 || (mapped a && rangeMapped f (spanEnd a) (n - (spanEnd a - a)))

/-- The end of the packet that starts at a: the next 4 KiB multiple or target-tile boundary (R115). HBM blocks that follow each
other on one controller do not occur, since consecutive blocks rotate. -/
def packetEnd (a : Nat) : Nat := Nat.min ((a / 4096 + 1) * 4096) (spanEnd a)

/-- R115: the cuts of an access of n bytes from a, as (address, length) pairs. -/
def cutAccess : Nat → Nat → Nat → List (Nat × Nat)
  | 0, _, _ => []
  | f + 1, a, n =>
    if n = 0 then [] else
      let k := Nat.min n (packetEnd a - a)
      (a, k) :: cutAccess f (a + k) (n - k)

/-- The cuts of a whole access. -/
def accessCuts (a n : Nat) : List (Nat × Nat) := cutAccess (n / 256 + 3) a n

end Sys2Proof.Machine
end

