-- ==== Sys2Proof/Machine/OdTable.lean ====
section
/-!
DEFINITION. Machine/OdTable.lean: the object dictionary's entries (R53 to R58, R63, R70), one row per row of the chapters'
"Dictionary entries" tables: index and subindex range, type and length, access code, roles, default, ground or tint membership,
and the range a numeric value must lie in where it is one interval with one step (R7). A value rule of any other shape is in
Machine/OdCheck.lean.
-/
namespace Sys2Proof.Machine

/-- Dictionary entries with index high byte 0x10, as the owning chapter's table lists them. -/
def odRows10a : List OdEntry :=
  [
    -- DEVICE_TYPE
    { lo := 0x1000, hi := 0x1000, subLo := 0, subHi := 0, kind := .nat, minLen := 4, maxLen := 4, acc := .const, readers := [.any], dflt := 0x5014 },
    -- VENDOR
    { lo := 0x1001, hi := 0x1001, subLo := 1, subHi := 1, kind := .str, minLen := 8, maxLen := 8, acc := .const, readers := [.any], dflt := 0x726168656d726542 },
    -- PART
    { lo := 0x1001, hi := 0x1001, subLo := 2, subHi := 2, kind := .str, minLen := 5, maxLen := 5, acc := .const, readers := [.any], dflt := 0x30322d5150 },
    -- STEPPING
    { lo := 0x1001, hi := 0x1001, subLo := 3, subHi := 3, kind := .nat, minLen := 1, maxLen := 1, acc := .const, readers := [.any], dflt := 17 },
    -- ORDER_CODE
    { lo := 0x1001, hi := 0x1001, subLo := 4, subHi := 4, kind := .str, minLen := 0, maxLen := 12, acc := .const, readers := [.any] },
    -- SERIAL
    { lo := 0x1001, hi := 0x1001, subLo := 5, subHi := 5, kind := .octets, minLen := 16, maxLen := 16, acc := .const, readers := [.any] },
    -- MANUAL_EDITION
    { lo := 0x1001, hi := 0x1001, subLo := 6, subHi := 6, kind := .str, minLen := 15, maxLen := 15, acc := .const, readers := [.any], dflt := 0x302e31204d522d303251502d484d42 },
    -- BOOT_IMAGE
    { lo := 0x1002, hi := 0x1002, subLo := 1, subHi := 1, kind := .nat, minLen := 1, maxLen := 1, acc := .ro, readers := [.any] },
    -- FW_VERSION
    { lo := 0x1002, hi := 0x1002, subLo := 2, subHi := 2, kind := .nat, minLen := 4, maxLen := 4, acc := .ro, readers := [.any] },
    -- NODE_ID
    { lo := 0x1003, hi := 0x1003, subLo := 0, subHi := 0, kind := .nat, minLen := 1, maxLen := 1, acc := .ro, readers := [.any] },
    -- DEVICE_STATE
    { lo := 0x1004, hi := 0x1004, subLo := 0, subHi := 0, kind := .nat, minLen := 1, maxLen := 1, acc := .ro, readers := [.any] },
    -- CAN_DN.ENABLE
    { lo := 0x1010, hi := 0x1010, subLo := 1, subHi := 1, kind := .flag, minLen := 1, maxLen := 1, acc := .rw, readers := [.operator, .auditor], writers := [.operator], dflt := 1, member := .ground, range := some (0, 1, 1) },
    -- CAN_DN.NOMINAL_RATE
    { lo := 0x1010, hi := 0x1010, subLo := 2, subHi := 2, kind := .nat, minLen := 4, maxLen := 4, acc := .rw, readers := [.operator, .auditor], writers := [.operator], dflt := 0x7a120, member := .ground },
    -- CAN_DN.DATA_RATE
    { lo := 0x1010, hi := 0x1010, subLo := 3, subHi := 3, kind := .nat, minLen := 4, maxLen := 4, acc := .rw, readers := [.operator, .auditor], writers := [.operator], dflt := 0x1e8480, member := .ground },
    -- CAN_DN.NOMINAL_SP
    { lo := 0x1010, hi := 0x1010, subLo := 4, subHi := 4, kind := .nat, minLen := 1, maxLen := 1, acc := .rw, readers := [.operator, .auditor], writers := [.operator], dflt := 80, member := .ground, range := some (60, 90, 1) },
    -- CAN_DN.DATA_SP
    { lo := 0x1010, hi := 0x1010, subLo := 5, subHi := 5, kind := .nat, minLen := 1, maxLen := 1, acc := .rw, readers := [.operator, .auditor], writers := [.operator], dflt := 75, member := .ground, range := some (60, 90, 1) },
    -- CAN_DN.BUS_STATE
    { lo := 0x1010, hi := 0x1010, subLo := 6, subHi := 6, kind := .nat, minLen := 1, maxLen := 1, acc := .ro, readers := [.operator, .auditor] },
    -- CAN_DN.TEC_REC
    { lo := 0x1010, hi := 0x1010, subLo := 7, subHi := 7, kind := .nat, minLen := 2, maxLen := 2, acc := .ro, readers := [.operator, .auditor] },
    -- CAN_DS.ENABLE
    { lo := 0x1011, hi := 0x1011, subLo := 1, subHi := 1, kind := .flag, minLen := 1, maxLen := 1, acc := .rw, readers := [.operator, .auditor], writers := [.operator], dflt := 1, member := .ground, range := some (0, 1, 1) },
    -- CAN_DS.NOMINAL_RATE
    { lo := 0x1011, hi := 0x1011, subLo := 2, subHi := 2, kind := .nat, minLen := 4, maxLen := 4, acc := .rw, readers := [.operator, .auditor], writers := [.operator], dflt := 0x7a120, member := .ground },
    -- CAN_DS.DATA_RATE
    { lo := 0x1011, hi := 0x1011, subLo := 3, subHi := 3, kind := .nat, minLen := 4, maxLen := 4, acc := .rw, readers := [.operator, .auditor], writers := [.operator], dflt := 0x1e8480, member := .ground },
    -- CAN_DS.NOMINAL_SP
    { lo := 0x1011, hi := 0x1011, subLo := 4, subHi := 4, kind := .nat, minLen := 1, maxLen := 1, acc := .rw, readers := [.operator, .auditor], writers := [.operator], dflt := 80, member := .ground, range := some (60, 90, 1) },
    -- CAN_DS.DATA_SP
    { lo := 0x1011, hi := 0x1011, subLo := 5, subHi := 5, kind := .nat, minLen := 1, maxLen := 1, acc := .rw, readers := [.operator, .auditor], writers := [.operator], dflt := 75, member := .ground, range := some (60, 90, 1) },
    -- CAN_DS.BUS_STATE
    { lo := 0x1011, hi := 0x1011, subLo := 6, subHi := 6, kind := .nat, minLen := 1, maxLen := 1, acc := .ro, readers := [.operator, .auditor] }
  ]

/-- Dictionary entries with index high byte 0x10, as the owning chapter's table lists them. -/
def odRows10b : List OdEntry :=
  [
    -- CAN_DS.TEC_REC
    { lo := 0x1011, hi := 0x1011, subLo := 7, subHi := 7, kind := .nat, minLen := 2, maxLen := 2, acc := .ro, readers := [.operator, .auditor] },
    -- HEARTBEAT_PERIOD
    { lo := 0x1013, hi := 0x1013, subLo := 0, subHi := 0, kind := .nat, minLen := 2, maxLen := 2, acc := .rw, readers := [.operator, .auditor], writers := [.operator], dflt := 1000, member := .tinted },
    -- SEG_TIMEOUT
    { lo := 0x1014, hi := 0x1014, subLo := 0, subHi := 0, kind := .nat, minLen := 2, maxLen := 2, acc := .rw, readers := [.operator, .auditor], writers := [.operator], dflt := 1000, member := .ground, range := some (10, 60000, 1) },
    -- BLOCK_SIZE
    { lo := 0x1015, hi := 0x1015, subLo := 0, subHi := 0, kind := .nat, minLen := 1, maxLen := 1, acc := .rw, readers := [.operator, .auditor], writers := [.operator], dflt := 16, member := .ground, range := some (1, 127, 1) },
    -- CAN_DN.STATS
    { lo := 0x1016, hi := 0x1016, subLo := 1, subHi := 6, kind := .nat, minLen := 8, maxLen := 8, acc := .ro, readers := [.operator, .auditor] },
    -- CAN_DS.STATS
    { lo := 0x1017, hi := 0x1017, subLo := 1, subHi := 6, kind := .nat, minLen := 8, maxLen := 8, acc := .ro, readers := [.operator, .auditor] },
    -- MBX_P0.STATS to MBX_P3.STATS
    { lo := 0x1018, hi := 0x1018, subLo := 1, subHi := 4, kind := .nat, minLen := 8, maxLen := 8, acc := .ro, readers := [.operator, .auditor] }
  ]

/-- Dictionary entries with index high byte 0x11, as the owning chapter's table lists them. -/
def odRows11a : List OdEntry :=
  [
    -- SESSION.CHALLENGE
    { lo := 0x1100, hi := 0x1100, subLo := 1, subHi := 1, kind := .octets, minLen := 32, maxLen := 32, acc := .ro, readers := [.any] },
    -- SESSION.RESPONSE
    { lo := 0x1100, hi := 0x1100, subLo := 2, subHi := 2, kind := .octets, minLen := 36, maxLen := 36, acc := .wo, writers := [.any] },
    -- SESSION_CLOSE
    { lo := 0x1101, hi := 0x1101, subLo := 0, subHi := 0, kind := .nat, minLen := 1, maxLen := 1, acc := .wo, writers := [.operator, .owner, .auditor, .service] },
    -- SESSION_TIMEOUT
    { lo := 0x1102, hi := 0x1102, subLo := 0, subHi := 0, kind := .nat, minLen := 4, maxLen := 4, acc := .rw, readers := [.operator, .auditor], writers := [.operator], dflt := 300, member := .ground, range := some (10, 86400, 1) },
    -- SESSION_TABLE
    { lo := 0x1103, hi := 0x1103, subLo := 1, subHi := 48, kind := .nat, minLen := 8, maxLen := 8, acc := .ro, readers := [.operator, .auditor] },
    -- MY_SESSION
    { lo := 0x1104, hi := 0x1104, subLo := 0, subHi := 0, kind := .nat, minLen := 2, maxLen := 2, acc := .ro, readers := [.any] }
  ]

/-- Dictionary entries with index high byte 0x20, as the owning chapter's table lists them. -/
def odRows20a : List OdEntry :=
  [
    -- FLIT_BYTES
    { lo := 0x2000, hi := 0x2000, subLo := 1, subHi := 1, kind := .nat, minLen := 2, maxLen := 2, acc := .const, readers := [.any], dflt := 128 },
    -- MAX_PAYLOAD
    { lo := 0x2000, hi := 0x2000, subLo := 2, subHi := 2, kind := .nat, minLen := 2, maxLen := 2, acc := .const, readers := [.any], dflt := 4096 },
    -- TRACKERS_PER_PORT
    { lo := 0x2000, hi := 0x2000, subLo := 3, subHi := 3, kind := .nat, minLen := 1, maxLen := 1, acc := .const, readers := [.any], dflt := 64 },
    -- RX_ENTRIES
    { lo := 0x2000, hi := 0x2000, subLo := 4, subHi := 4, kind := .nat, minLen := 2, maxLen := 2, acc := .const, readers := [.any], dflt := 1024 },
    -- STREAM_WINDOW
    { lo := 0x2000, hi := 0x2000, subLo := 5, subHi := 5, kind := .nat, minLen := 2, maxLen := 2, acc := .const, readers := [.any], dflt := 256 },
    -- VC_DEPTHS
    { lo := 0x2000, hi := 0x2000, subLo := 6, subHi := 6, kind := .nat, minLen := 4, maxLen := 4, acc := .const, readers := [.any], dflt := 0x21404 },
    -- ROUTE_POLICY
    { lo := 0x2001, hi := 0x2001, subLo := 0, subHi := 0, kind := .nat, minLen := 1, maxLen := 1, acc := .rwe, readers := [.operator, .auditor], writers := [.operator], dflt := 2, member := .tinted, range := some (0, 2, 1) },
    -- TC_WEIGHT
    { lo := 0x2002, hi := 0x2002, subLo := 1, subHi := 1, kind := .nat, minLen := 1, maxLen := 1, acc := .rw, readers := [.operator, .auditor], writers := [.operator], dflt := 4, member := .tinted, range := some (1, 16, 1) },
    -- TC_WEIGHT
    { lo := 0x2002, hi := 0x2002, subLo := 2, subHi := 2, kind := .nat, minLen := 1, maxLen := 1, acc := .rw, readers := [.operator, .auditor], writers := [.operator], dflt := 2, member := .tinted, range := some (1, 16, 1) },
    -- TC_WEIGHT
    { lo := 0x2002, hi := 0x2002, subLo := 3, subHi := 3, kind := .nat, minLen := 1, maxLen := 1, acc := .rw, readers := [.operator, .auditor], writers := [.operator], dflt := 2, member := .tinted, range := some (1, 16, 1) },
    -- TC_WEIGHT
    { lo := 0x2002, hi := 0x2002, subLo := 4, subHi := 4, kind := .nat, minLen := 1, maxLen := 1, acc := .rw, readers := [.operator, .auditor], writers := [.operator], dflt := 2, member := .tinted, range := some (1, 16, 1) },
    -- TC_WEIGHT
    { lo := 0x2002, hi := 0x2002, subLo := 5, subHi := 5, kind := .nat, minLen := 1, maxLen := 1, acc := .rw, readers := [.operator, .auditor], writers := [.operator], dflt := 1, member := .tinted, range := some (1, 16, 1) },
    -- TC6_LINK_CAP
    { lo := 0x2003, hi := 0x2003, subLo := 0, subHi := 0, kind := .nat, minLen := 1, maxLen := 1, acc := .rw, readers := [.operator, .auditor], writers := [.operator], dflt := 20, member := .tinted, range := some (1, 50, 1) },
    -- STREAM_IDLE
    { lo := 0x2004, hi := 0x2004, subLo := 0, subHi := 0, kind := .nat, minLen := 2, maxLen := 2, acc := .rw, readers := [.operator, .auditor], writers := [.operator], dflt := 10, member := .ground, range := some (1, 1000, 1) },
    -- D2D_ALLOW_16GT
    { lo := 0x2006, hi := 0x2006, subLo := 0, subHi := 0, kind := .flag, minLen := 1, maxLen := 1, acc := .rw, readers := [.operator, .auditor], writers := [.operator], dflt := 1, member := .ground, range := some (0, 1, 1) }
  ]

/-- Dictionary entries with index high byte 0x21, as the owning chapter's table lists them. -/
def odRows21a : List OdEntry :=
  [
    -- DECKLE_REG
    { lo := 0x2100, hi := 0x2100, subLo := 1, subHi := 8, kind := .nat, minLen := 4, maxLen := 4, acc := .rwe, readers := [.operator, .auditor], writers := [.operator], member := .tinted },
    -- PARTITION_REG
    { lo := 0x2110, hi := 0x211F, subLo := 1, subHi := 8, kind := .nat, minLen := 4, maxLen := 4, acc := .rwe, readers := [.operator, .owner, .auditor], writers := [.operator], member := .tinted }
  ]

/-- Dictionary entries with index high byte 0x22, as the owning chapter's table lists them. -/
def odRows22a : List OdEntry :=
  [
    -- ROUTE_TABLE
    { lo := 0x2200, hi := 0x2213, subLo := 0, subHi := 0, kind := .domain, minLen := 0, maxLen := 4294967295, acc := .ro, readers := [.operator, .auditor] },
    -- LINK_STATE
    { lo := 0x2220, hi := 0x2233, subLo := 1, subHi := 4, kind := .nat, minLen := 8, maxLen := 8, acc := .ro, readers := [.operator, .auditor] },
    -- D2D_RETRIES
    { lo := 0x2240, hi := 0x2253, subLo := 1, subHi := 4, kind := .nat, minLen := 8, maxLen := 8, acc := .ro, readers := [.operator, .auditor] },
    -- STREAM_STATS
    { lo := 0x2260, hi := 0x2273, subLo := 1, subHi := 6, kind := .nat, minLen := 8, maxLen := 8, acc := .ro, readers := [.operator, .owner, .auditor] },
    -- LANE_REPAIRS
    { lo := 0x2280, hi := 0x2293, subLo := 1, subHi := 4, kind := .nat, minLen := 1, maxLen := 1, acc := .ro, readers := [.operator, .auditor] }
  ]

/-- Dictionary entries with index high byte 0x24, as the owning chapter's table lists them. -/
def odRows24a : List OdEntry :=
  [
    -- MC_GROUP
    { lo := 0x2400, hi := 0x24FF, subLo := 1, subHi := 4, kind := .octets, minLen := 16, maxLen := 16, acc := .rwe, readers := [.operator, .owner, .auditor], writers := [.operator], member := .tinted }
  ]

/-- Dictionary entries with index high byte 0x25, as the owning chapter's table lists them. -/
def odRows25a : List OdEntry :=
  [
    -- MC_RECEIVERS
    { lo := 0x2500, hi := 0x250F, subLo := 0, subHi := 0, kind := .domain, minLen := 0, maxLen := 4096, acc := .rwe, readers := [.operator, .owner, .auditor], writers := [.operator], member := .tinted },
    -- MC_GROUPS
    { lo := 0x2510, hi := 0x2510, subLo := 1, subHi := 1, kind := .nat, minLen := 2, maxLen := 2, acc := .const, readers := [.any], dflt := 1024 },
    -- RED_GROUPS
    { lo := 0x2510, hi := 0x2510, subLo := 2, subHi := 2, kind := .nat, minLen := 2, maxLen := 2, acc := .const, readers := [.any], dflt := 512 },
    -- CONTEXTS_PER_TILE
    { lo := 0x2510, hi := 0x2510, subLo := 3, subHi := 3, kind := .nat, minLen := 1, maxLen := 1, acc := .const, readers := [.any], dflt := 32 },
    -- MASK_ENTRIES
    { lo := 0x2510, hi := 0x2510, subLo := 4, subHi := 4, kind := .nat, minLen := 1, maxLen := 1, acc := .const, readers := [.any], dflt := 128 },
    -- MC_ACK_TIMEOUT
    { lo := 0x2511, hi := 0x2511, subLo := 0, subHi := 0, kind := .nat, minLen := 4, maxLen := 4, acc := .rw, readers := [.operator, .auditor], writers := [.operator], dflt := 100, member := .tinted, range := some (10, 10000, 1) },
    -- RESYNC_QUIET
    { lo := 0x2512, hi := 0x2512, subLo := 0, subHi := 0, kind := .nat, minLen := 4, maxLen := 4, acc := .rw, readers := [.operator, .auditor], writers := [.operator], dflt := 50, member := .tinted, range := some (10, 10000, 1) },
    -- RED_TIMEOUT
    { lo := 0x2513, hi := 0x2513, subLo := 0, subHi := 0, kind := .nat, minLen := 4, maxLen := 4, acc := .rw, readers := [.operator, .auditor], writers := [.operator], dflt := 500, member := .tinted, range := some (10, 100000, 1) },
    -- MC_REJOIN
    { lo := 0x2514, hi := 0x2514, subLo := 0, subHi := 0, kind := .nat, minLen := 2, maxLen := 2, acc := .wo, writers := [.operator, .owner] },
    -- RED_FORCE_RESYNC
    { lo := 0x2515, hi := 0x2515, subLo := 0, subHi := 0, kind := .nat, minLen := 2, maxLen := 2, acc := .wo, writers := [.operator, .owner] },
    -- RED_GROUP
    { lo := 0x2520, hi := 0x259F, subLo := 1, subHi := 4, kind := .octets, minLen := 32, maxLen := 32, acc := .rwe, readers := [.operator, .owner, .auditor], writers := [.operator], member := .tinted },
    -- MC_STATUS
    { lo := 0x25C0, hi := 0x25C0, subLo := 0, subHi := 0, kind := .domain, minLen := 0, maxLen := 4294967295, acc := .ro, readers := [.operator, .owner, .auditor] },
    -- RED_STATUS
    { lo := 0x25C1, hi := 0x25C1, subLo := 0, subHi := 0, kind := .domain, minLen := 0, maxLen := 4294967295, acc := .ro, readers := [.operator, .owner, .auditor] },
    -- MC_RED_COUNTS
    { lo := 0x25C2, hi := 0x25C2, subLo := 1, subHi := 4, kind := .nat, minLen := 8, maxLen := 8, acc := .ro, readers := [.operator, .auditor] },
    -- MASK_TABLE
    { lo := 0x25C4, hi := 0x25D7, subLo := 0, subHi := 0, kind := .domain, minLen := 0, maxLen := 4294967295, acc := .ro, readers := [.operator, .auditor] }
  ]

/-- Dictionary entries with index high byte 0x26, as the owning chapter's table lists them. -/
def odRows26a : List OdEntry :=
  [
    -- LOG_ENTRIES
    { lo := 0x2600, hi := 0x2600, subLo := 1, subHi := 1, kind := .nat, minLen := 2, maxLen := 2, acc := .const, readers := [.any], dflt := 4096 },
    -- LOG_NEXT_SEQ
    { lo := 0x2600, hi := 0x2600, subLo := 2, subHi := 2, kind := .nat, minLen := 4, maxLen := 4, acc := .ro, readers := [.operator, .owner, .auditor] },
    -- LOG_OVERWRITTEN
    { lo := 0x2600, hi := 0x2600, subLo := 3, subHi := 3, kind := .nat, minLen := 8, maxLen := 8, acc := .ro, readers := [.operator, .auditor] },
    -- REPORTS_DROPPED
    { lo := 0x2600, hi := 0x2600, subLo := 4, subHi := 4, kind := .nat, minLen := 8, maxLen := 8, acc := .ro, readers := [.operator, .auditor] },
    -- ERROR_LOG
    { lo := 0x2601, hi := 0x2601, subLo := 0, subHi := 0, kind := .domain, minLen := 0, maxLen := 4294967295, acc := .ro, readers := [.operator, .owner, .auditor] },
    -- ERROR_LOG_RECENT
    { lo := 0x2602, hi := 0x2602, subLo := 0, subHi := 0, kind := .domain, minLen := 0, maxLen := 4294967295, acc := .ro, readers := [.operator, .owner, .auditor] },
    -- LOG_CLEAR
    { lo := 0x2603, hi := 0x2603, subLo := 0, subHi := 0, kind := .nat, minLen := 1, maxLen := 1, acc := .wo, writers := [.operator], range := some (1, 1, 1) },
    -- CLASS_COUNTS
    { lo := 0x2604, hi := 0x2604, subLo := 1, subHi := 4, kind := .nat, minLen := 8, maxLen := 8, acc := .ro, readers := [.operator, .auditor] },
    -- CAUSE_COUNTS
    { lo := 0x2605, hi := 0x2605, subLo := 0, subHi := 0, kind := .domain, minLen := 0, maxLen := 4294967295, acc := .ro, readers := [.operator, .auditor] },
    -- COALESCE_INTERVAL
    { lo := 0x2606, hi := 0x2606, subLo := 0, subHi := 0, kind := .nat, minLen := 4, maxLen := 4, acc := .rw, readers := [.operator, .auditor], writers := [.operator], dflt := 1000, member := .ground, range := some (0, 1000000, 1) },
    -- STREAM_ACK_TIMEOUT
    { lo := 0x2610, hi := 0x2610, subLo := 0, subHi := 0, kind := .nat, minLen := 4, maxLen := 4, acc := .rw, readers := [.operator, .auditor], writers := [.operator], dflt := 2000, member := .tinted, range := some (50, 100000, 1) },
    -- DELIVERY_RETRIES
    { lo := 0x2611, hi := 0x2611, subLo := 0, subHi := 0, kind := .nat, minLen := 1, maxLen := 1, acc := .rw, readers := [.operator, .auditor], writers := [.operator], dflt := 2, member := .tinted, range := some (0, 7, 1) },
    -- SRAM_SCRUB_PERIOD
    { lo := 0x2612, hi := 0x2612, subLo := 0, subHi := 0, kind := .nat, minLen := 4, maxLen := 4, acc := .rw, readers := [.operator, .auditor], writers := [.operator], dflt := 3600, member := .ground, range := some (60, 86400, 1) },
    -- REPAIR_SWITCH
    { lo := 0x2613, hi := 0x2613, subLo := 0, subHi := 0, kind := .flag, minLen := 1, maxLen := 1, acc := .rw, readers := [.operator, .auditor], writers := [.operator], dflt := 1, member := .ground, range := some (0, 1, 1) },
    -- PARTITION_CLASS_COUNTS
    { lo := 0x2620, hi := 0x262F, subLo := 1, subHi := 4, kind := .nat, minLen := 8, maxLen := 8, acc := .ro, readers := [.operator, .owner, .auditor] },
    -- PARTITION_HEALTH
    { lo := 0x2630, hi := 0x2630, subLo := 1, subHi := 16, kind := .nat, minLen := 2, maxLen := 2, acc := .ro, readers := [.operator, .owner, .auditor] },
    -- STREAM_ERRORS
    { lo := 0x2640, hi := 0x2653, subLo := 1, subHi := 7, kind := .nat, minLen := 8, maxLen := 8, acc := .ro, readers := [.operator, .auditor] },
    -- ECC_COUNTS
    { lo := 0x2660, hi := 0x2673, subLo := 1, subHi := 4, kind := .nat, minLen := 8, maxLen := 8, acc := .ro, readers := [.operator, .auditor] },
    -- HBM_ECC
    { lo := 0x2680, hi := 0x2687, subLo := 1, subHi := 2, kind := .nat, minLen := 8, maxLen := 8, acc := .ro, readers := [.operator, .auditor] },
    -- PORT_INTEGRITY
    { lo := 0x2690, hi := 0x2693, subLo := 1, subHi := 6, kind := .nat, minLen := 8, maxLen := 8, acc := .ro, readers := [.operator, .owner, .auditor] }
  ]

/-- Dictionary entries with index high byte 0x28, as the owning chapter's table lists them. -/
def odRows28a : List OdEntry :=
  [
    -- ISLANDS
    { lo := 0x2800, hi := 0x2800, subLo := 1, subHi := 1, kind := .nat, minLen := 2, maxLen := 2, acc := .const, readers := [.any], dflt := 1395 },
    -- FREQ_STEP
    { lo := 0x2800, hi := 0x2800, subLo := 2, subHi := 2, kind := .nat, minLen := 4, maxLen := 4, acc := .const, readers := [.any], dflt := 0x30d4 },
    -- TIME_BOUND
    { lo := 0x2800, hi := 0x2800, subLo := 3, subHi := 3, kind := .nat, minLen := 2, maxLen := 2, acc := .const, readers := [.any], dflt := 4000 },
    -- DIE_FREQ_TARGET
    { lo := 0x2801, hi := 0x2801, subLo := 1, subHi := 20, kind := .nat, minLen := 4, maxLen := 4, acc := .rw, readers := [.operator, .owner, .auditor], writers := [.operator], dflt := 0x186a00, member := .tinted },
    -- DIE_FREQ_ACTUAL
    { lo := 0x2802, hi := 0x2802, subLo := 1, subHi := 20, kind := .nat, minLen := 4, maxLen := 4, acc := .ro, readers := [.operator, .owner, .auditor] },
    -- FREQ_LIMITED_MS
    { lo := 0x2803, hi := 0x2803, subLo := 1, subHi := 20, kind := .nat, minLen := 8, maxLen := 8, acc := .ro, readers := [.operator, .owner, .auditor] },
    -- ISLAND_FREQ
    { lo := 0x2804, hi := 0x2817, subLo := 0, subHi := 0, kind := .domain, minLen := 0, maxLen := 4294967295, acc := .ro, readers := [.operator, .owner, .auditor] },
    -- BOUNDARIES
    { lo := 0x2820, hi := 0x2833, subLo := 0, subHi := 0, kind := .domain, minLen := 0, maxLen := 4294967295, acc := .ro, readers := [.operator, .owner, .auditor] },
    -- CROSSING_CLEAR
    { lo := 0x2834, hi := 0x2834, subLo := 0, subHi := 0, kind := .nat, minLen := 1, maxLen := 1, acc := .wo, writers := [.operator], range := some (0, 19, 1) },
    -- CROSSING_COUNTS
    { lo := 0x2835, hi := 0x2835, subLo := 1, subHi := 4, kind := .nat, minLen := 8, maxLen := 8, acc := .ro, readers := [.operator, .auditor] },
    -- FABRIC_TIME
    { lo := 0x2840, hi := 0x2840, subLo := 0, subHi := 0, kind := .nat, minLen := 8, maxLen := 8, acc := .ro, readers := [.any] },
    -- TIME_MASTER
    { lo := 0x2841, hi := 0x2841, subLo := 1, subHi := 1, kind := .nat, minLen := 1, maxLen := 1, acc := .ro, readers := [.operator, .auditor], dflt := 16 },
    -- MASTER_STATE
    { lo := 0x2841, hi := 0x2841, subLo := 2, subHi := 2, kind := .nat, minLen := 1, maxLen := 1, acc := .ro, readers := [.operator, .auditor] },
    -- SYNC_PERIOD
    { lo := 0x2842, hi := 0x2842, subLo := 0, subHi := 0, kind := .nat, minLen := 2, maxLen := 2, acc := .rw, readers := [.operator, .auditor], writers := [.operator], dflt := 8, member := .ground, range := some (1, 64, 1) },
    -- DELAY_PERIOD
    { lo := 0x2843, hi := 0x2843, subLo := 0, subHi := 0, kind := .nat, minLen := 2, maxLen := 2, acc := .rw, readers := [.operator, .auditor], writers := [.operator], dflt := 1, member := .ground, range := some (1, 1000, 1) },
    -- HOLDOVER_LIMIT
    { lo := 0x2844, hi := 0x2844, subLo := 0, subHi := 0, kind := .nat, minLen := 4, maxLen := 4, acc := .rw, readers := [.operator, .auditor], writers := [.operator], dflt := 2000, member := .ground, range := some (100, 100000, 1) },
    -- TIME_STATE
    { lo := 0x2845, hi := 0x2845, subLo := 1, subHi := 20, kind := .nat, minLen := 4, maxLen := 4, acc := .ro, readers := [.operator, .owner, .auditor] },
    -- TIME_UNITS
    { lo := 0x2846, hi := 0x2859, subLo := 0, subHi := 0, kind := .domain, minLen := 0, maxLen := 4294967295, acc := .ro, readers := [.operator, .owner, .auditor] },
    -- WALL_SET
    { lo := 0x2860, hi := 0x2860, subLo := 1, subHi := 1, kind := .octets, minLen := 16, maxLen := 16, acc := .wo, writers := [.operator] },
    -- WALL_MAPPING
    { lo := 0x2860, hi := 0x2860, subLo := 2, subHi := 2, kind := .octets, minLen := 24, maxLen := 24, acc := .ro, readers := [.any] },
    -- WALL_RATE
    { lo := 0x2860, hi := 0x2860, subLo := 3, subHi := 3, kind := .int, minLen := 4, maxLen := 4, acc := .rw, readers := [.operator, .auditor], writers := [.operator], member := .ground },
    -- PPS_ENABLE
    { lo := 0x2860, hi := 0x2860, subLo := 4, subHi := 4, kind := .flag, minLen := 1, maxLen := 1, acc := .rw, readers := [.operator, .auditor], writers := [.operator], member := .ground, range := some (0, 1, 1) },
    -- PPS_OFFSET
    { lo := 0x2860, hi := 0x2860, subLo := 5, subHi := 5, kind := .int, minLen := 4, maxLen := 4, acc := .rw, readers := [.operator, .auditor], writers := [.operator], member := .ground },
    -- PPS_STATE
    { lo := 0x2860, hi := 0x2860, subLo := 6, subHi := 6, kind := .nat, minLen := 1, maxLen := 1, acc := .ro, readers := [.operator, .auditor] }
  ]

/-- Dictionary entries with index high byte 0x28, as the owning chapter's table lists them. -/
def odRows28b : List OdEntry :=
  [
    -- WALL_NOW
    { lo := 0x2860, hi := 0x2860, subLo := 7, subHi := 7, kind := .nat, minLen := 8, maxLen := 8, acc := .ro, readers := [.any] },
    -- TIME_COUNTS
    { lo := 0x2861, hi := 0x2861, subLo := 1, subHi := 5, kind := .nat, minLen := 8, maxLen := 8, acc := .ro, readers := [.operator, .auditor] }
  ]

/-- Dictionary entries with index high byte 0x30, as the owning chapter's table lists them. -/
def odRows30a : List OdEntry :=
  [
    -- SLICES_PER_VAT
    { lo := 0x3000, hi := 0x3000, subLo := 1, subHi := 1, kind := .nat, minLen := 1, maxLen := 1, acc := .const, readers := [.any], dflt := 64 },
    -- MACS_PER_SLICE
    { lo := 0x3000, hi := 0x3000, subLo := 2, subHi := 2, kind := .nat, minLen := 2, maxLen := 2, acc := .const, readers := [.any], dflt := 2048 },
    -- SRAM_PER_SLICE
    { lo := 0x3000, hi := 0x3000, subLo := 3, subHi := 3, kind := .nat, minLen := 4, maxLen := 4, acc := .const, readers := [.any], dflt := 0x180000 },
    -- SRAM_BANKS
    { lo := 0x3000, hi := 0x3000, subLo := 4, subHi := 4, kind := .nat, minLen := 1, maxLen := 1, acc := .const, readers := [.any], dflt := 16 },
    -- FORMATS
    { lo := 0x3000, hi := 0x3000, subLo := 5, subHi := 5, kind := .nat, minLen := 2, maxLen := 2, acc := .const, readers := [.any], dflt := 1023 },
    -- WEIGHT_BANK_SIZE
    { lo := 0x3002, hi := 0x3002, subLo := 1, subHi := 16, kind := .nat, minLen := 4, maxLen := 4, acc := .rwd, readers := [.operator, .owner, .auditor], writers := [.operator], member := .ground, range := some (0, 786432, 4096) },
    -- OPS_EXECUTED
    { lo := 0x3003, hi := 0x3003, subLo := 1, subHi := 16, kind := .nat, minLen := 8, maxLen := 8, acc := .ro, readers := [.operator, .owner, .auditor] },
    -- OP_ENCODING_FAULTS
    { lo := 0x3004, hi := 0x3004, subLo := 1, subHi := 16, kind := .nat, minLen := 8, maxLen := 8, acc := .ro, readers := [.operator, .owner, .auditor] },
    -- ARITH_FAULTS
    { lo := 0x3005, hi := 0x3005, subLo := 1, subHi := 16, kind := .nat, minLen := 8, maxLen := 8, acc := .ro, readers := [.operator, .owner, .auditor] },
    -- EXACT_FLAGS
    { lo := 0x3006, hi := 0x3006, subLo := 1, subHi := 16, kind := .nat, minLen := 8, maxLen := 8, acc := .ro, readers := [.operator, .owner, .auditor] },
    -- EMBED_MISSING
    { lo := 0x3007, hi := 0x3007, subLo := 1, subHi := 16, kind := .nat, minLen := 8, maxLen := 8, acc := .ro, readers := [.operator, .owner, .auditor] }
  ]

/-- Dictionary entries with index high byte 0x31, as the owning chapter's table lists them. -/
def odRows31a : List OdEntry :=
  [
    -- SEQ_PROGRAM
    { lo := 0x3100, hi := 0x310F, subLo := 0, subHi := 0, kind := .domain, minLen := 0, maxLen := 262160, acc := .rwd, readers := [.operator, .owner, .auditor], writers := [.operator, .owner], member := .ground },
    -- SEQ_CONTROL
    { lo := 0x3110, hi := 0x3110, subLo := 1, subHi := 16, kind := .nat, minLen := 1, maxLen := 1, acc := .wo, writers := [.operator, .owner], range := some (1, 2, 1) },
    -- SEQ_STATUS
    { lo := 0x3111, hi := 0x3111, subLo := 1, subHi := 16, kind := .nat, minLen := 8, maxLen := 8, acc := .ro, readers := [.operator, .owner, .auditor] },
    -- SEQ_VERSION
    { lo := 0x3111, hi := 0x3111, subLo := 17, subHi := 32, kind := .nat, minLen := 4, maxLen := 4, acc := .ro, readers := [.operator, .owner, .auditor] },
    -- SEQ_LOAD_ERROR
    { lo := 0x3112, hi := 0x3112, subLo := 1, subHi := 16, kind := .nat, minLen := 4, maxLen := 4, acc := .ro, readers := [.operator, .owner, .auditor] },
    -- SEQ_LAST_TRAP
    { lo := 0x3113, hi := 0x3113, subLo := 1, subHi := 16, kind := .octets, minLen := 32, maxLen := 32, acc := .ro, readers := [.operator, .owner, .auditor] },
    -- SEQ_PROGRAM_DIGEST
    { lo := 0x3114, hi := 0x3114, subLo := 1, subHi := 16, kind := .octets, minLen := 48, maxLen := 48, acc := .ro, readers := [.operator, .owner, .auditor] },
    -- SEQ_TRAP_ACTION
    { lo := 0x3115, hi := 0x3115, subLo := 1, subHi := 16, kind := .nat, minLen := 1, maxLen := 1, acc := .rw, readers := [.operator, .owner, .auditor], writers := [.operator], member := .tinted, range := some (0, 1, 1) },
    -- SEQ_TRAPS
    { lo := 0x3116, hi := 0x3116, subLo := 1, subHi := 16, kind := .nat, minLen := 8, maxLen := 8, acc := .ro, readers := [.operator, .owner, .auditor] },
    -- BATCHES_LAUNCHED
    { lo := 0x3117, hi := 0x3117, subLo := 1, subHi := 16, kind := .nat, minLen := 8, maxLen := 8, acc := .ro, readers := [.operator, .owner, .auditor] },
    -- BATCH_TABLE_USED
    { lo := 0x3118, hi := 0x3118, subLo := 1, subHi := 16, kind := .nat, minLen := 1, maxLen := 1, acc := .ro, readers := [.operator, .owner, .auditor] },
    -- REQUEST_QUEUE_USED
    { lo := 0x3119, hi := 0x3119, subLo := 1, subHi := 16, kind := .nat, minLen := 2, maxLen := 2, acc := .ro, readers := [.operator, .owner, .auditor] },
    -- PROGRAM_WORDS
    { lo := 0x311A, hi := 0x311A, subLo := 1, subHi := 1, kind := .nat, minLen := 4, maxLen := 4, acc := .const, readers := [.any], dflt := 0x10000 },
    -- BATCH_TABLE_ENTRIES
    { lo := 0x311A, hi := 0x311A, subLo := 2, subHi := 2, kind := .nat, minLen := 1, maxLen := 1, acc := .const, readers := [.any], dflt := 64 },
    -- REQUEST_QUEUE_ENTRIES
    { lo := 0x311A, hi := 0x311A, subLo := 3, subHi := 3, kind := .nat, minLen := 2, maxLen := 2, acc := .const, readers := [.any], dflt := 1024 },
    -- MAX_BATCH
    { lo := 0x311A, hi := 0x311A, subLo := 4, subHi := 4, kind := .nat, minLen := 4, maxLen := 4, acc := .const, readers := [.any], dflt := 0xffffff }
  ]

/-- Dictionary entries with index high byte 0x34, as the owning chapter's table lists them. -/
def odRows34a : List OdEntry :=
  [
    -- FIBRES_PER_VAT
    { lo := 0x3400, hi := 0x3400, subLo := 1, subHi := 1, kind := .nat, minLen := 2, maxLen := 2, acc := .const, readers := [.any], dflt := 0x4000 },
    -- FIBRES_PER_SLICE
    { lo := 0x3400, hi := 0x3400, subLo := 2, subHi := 2, kind := .nat, minLen := 2, maxLen := 2, acc := .const, readers := [.any], dflt := 256 },
    -- OPS_PER_PROGRAM
    { lo := 0x3400, hi := 0x3400, subLo := 3, subHi := 3, kind := .nat, minLen := 2, maxLen := 2, acc := .const, readers := [.any], dflt := 256 },
    -- WAIT_TABLE_ENTRIES
    { lo := 0x3400, hi := 0x3400, subLo := 4, subHi := 4, kind := .nat, minLen := 2, maxLen := 2, acc := .const, readers := [.any], dflt := 4096 },
    -- FIBRES_RESIDENT
    { lo := 0x3401, hi := 0x3401, subLo := 1, subHi := 16, kind := .nat, minLen := 2, maxLen := 2, acc := .ro, readers := [.operator, .owner, .auditor] },
    -- WAIT_TABLE_USED
    { lo := 0x3402, hi := 0x3402, subLo := 1, subHi := 16, kind := .nat, minLen := 2, maxLen := 2, acc := .ro, readers := [.operator, .owner, .auditor] },
    -- WAIT_TABLE_FULL
    { lo := 0x3403, hi := 0x3403, subLo := 1, subHi := 16, kind := .nat, minLen := 8, maxLen := 8, acc := .ro, readers := [.operator, .owner, .auditor] },
    -- WAIT_LIMIT
    { lo := 0x3404, hi := 0x3404, subLo := 1, subHi := 16, kind := .nat, minLen := 4, maxLen := 4, acc := .rw, readers := [.operator, .owner, .auditor], writers := [.operator], member := .tinted },
    -- FIBRE_FAULTS
    { lo := 0x3405, hi := 0x3405, subLo := 1, subHi := 16, kind := .nat, minLen := 8, maxLen := 8, acc := .ro, readers := [.operator, .owner, .auditor] },
    -- SYNC_STATE
    { lo := 0x3420, hi := 0x3433, subLo := 0, subHi := 0, kind := .domain, minLen := 0, maxLen := 4096, acc := .ro, readers := [.operator, .owner, .auditor] },
    -- SYNC_NOTIFIES
    { lo := 0x3434, hi := 0x3434, subLo := 1, subHi := 20, kind := .nat, minLen := 8, maxLen := 8, acc := .ro, readers := [.operator, .auditor] },
    -- CONTEXTS
    { lo := 0x3440, hi := 0x3443, subLo := 0, subHi := 0, kind := .domain, minLen := 0, maxLen := 16384, acc := .ro, readers := [.operator, .owner, .auditor] },
    -- CONTEXTS_LIVE
    { lo := 0x3444, hi := 0x3444, subLo := 1, subHi := 4, kind := .nat, minLen := 2, maxLen := 2, acc := .ro, readers := [.operator, .owner, .auditor] },
    -- DEADLINE_FAULTS
    { lo := 0x3445, hi := 0x3445, subLo := 1, subHi := 4, kind := .nat, minLen := 8, maxLen := 8, acc := .ro, readers := [.operator, .owner, .auditor] },
    -- WINDOW
    { lo := 0x3450, hi := 0x345F, subLo := 1, subHi := 32, kind := .octets, minLen := 16, maxLen := 16, acc := .rwe, readers := [.operator, .owner, .auditor], writers := [.operator], member := .ground },
    -- DEADLINE
    { lo := 0x3460, hi := 0x3460, subLo := 1, subHi := 16, kind := .nat, minLen := 4, maxLen := 4, acc := .rw, readers := [.operator, .owner, .auditor], writers := [.operator], dflt := 5000, member := .tinted, range := some (10, 1000000, 1) },
    -- WINDOW_FAULTS
    { lo := 0x3470, hi := 0x3470, subLo := 1, subHi := 16, kind := .nat, minLen := 8, maxLen := 8, acc := .ro, readers := [.operator, .owner, .auditor] }
  ]

/-- Dictionary entries with index high byte 0x3F, as the owning chapter's table lists them. -/
def odRows3Fa : List OdEntry :=
  [
    -- FN_COUNT
    { lo := 0x3F00, hi := 0x3F00, subLo := 1, subHi := 1, kind := .nat, minLen := 1, maxLen := 1, acc := .const, readers := [.any], dflt := 8 },
    -- TABLE_SET_VERSION
    { lo := 0x3F00, hi := 0x3F00, subLo := 2, subHi := 2, kind := .nat, minLen := 4, maxLen := 4, acc := .const, readers := [.any], dflt := 0x10000 },
    -- TABLE_SET_DIGEST
    { lo := 0x3F00, hi := 0x3F00, subLo := 3, subHi := 3, kind := .octets, minLen := 48, maxLen := 48, acc := .const, readers := [.any] },
    -- FN_HEADER
    { lo := 0x3F01, hi := 0x3F08, subLo := 1, subHi := 1, kind := .octets, minLen := 64, maxLen := 64, acc := .const, readers := [.any] },
    -- FN_SEGMENTS
    { lo := 0x3F01, hi := 0x3F08, subLo := 2, subHi := 2, kind := .domain, minLen := 0, maxLen := 4294967295, acc := .const, readers := [.any] }
  ]

/-- Dictionary entries with index high byte 0x40, as the owning chapter's table lists them. -/
def odRows40a : List OdEntry :=
  [
    -- PCI_VENDOR_ID
    { lo := 0x4000, hi := 0x4000, subLo := 1, subHi := 1, kind := .nat, minLen := 2, maxLen := 2, acc := .const, readers := [.any], dflt := 8060 },
    -- PCI_DEVICE_ID
    { lo := 0x4000, hi := 0x4000, subLo := 2, subHi := 2, kind := .nat, minLen := 2, maxLen := 2, acc := .const, readers := [.any], dflt := 32 },
    -- QUEUES
    { lo := 0x4000, hi := 0x4000, subLo := 3, subHi := 3, kind := .nat, minLen := 1, maxLen := 1, acc := .const, readers := [.any], dflt := 16 },
    -- MAX_SCORE_INPUT
    { lo := 0x4000, hi := 0x4000, subLo := 4, subHi := 4, kind := .nat, minLen := 4, maxLen := 4, acc := .const, readers := [.any], dflt := 0x40000 },
    -- MAX_RESULT
    { lo := 0x4000, hi := 0x4000, subLo := 5, subHi := 5, kind := .nat, minLen := 2, maxLen := 2, acc := .const, readers := [.any], dflt := 4088 },
    -- STAGING_BYTES
    { lo := 0x4000, hi := 0x4000, subLo := 6, subHi := 6, kind := .nat, minLen := 4, maxLen := 4, acc := .const, readers := [.any], dflt := 0x4000000 },
    -- LINK_STATUS
    { lo := 0x4001, hi := 0x4001, subLo := 1, subHi := 4, kind := .nat, minLen := 4, maxLen := 4, acc := .ro, readers := [.operator, .owner, .auditor] },
    -- MAX_LINK_RATE
    { lo := 0x4002, hi := 0x4002, subLo := 1, subHi := 4, kind := .nat, minLen := 1, maxLen := 1, acc := .rw, readers := [.operator, .auditor], writers := [.operator], dflt := 5, member := .ground, range := some (3, 5, 1) },
    -- QUEUE_CONFIG
    { lo := 0x4010, hi := 0x4013, subLo := 1, subHi := 16, kind := .nat, minLen := 4, maxLen := 4, acc := .rwe, readers := [.operator, .owner, .auditor], writers := [.operator], member := .tinted },
    -- PORT_STATS
    { lo := 0x4020, hi := 0x4023, subLo := 1, subHi := 8, kind := .nat, minLen := 8, maxLen := 8, acc := .ro, readers := [.operator, .owner, .auditor] },
    -- STATUS_COUNTS
    { lo := 0x4030, hi := 0x4033, subLo := 0, subHi := 0, kind := .domain, minLen := 0, maxLen := 4294967295, acc := .ro, readers := [.operator, .owner, .auditor] },
    -- PORT_RESETS
    { lo := 0x4040, hi := 0x4040, subLo := 1, subHi := 4, kind := .nat, minLen := 4, maxLen := 4, acc := .ro, readers := [.operator, .owner, .auditor] },
    -- RESULT_AREA
    { lo := 0x4041, hi := 0x4041, subLo := 1, subHi := 4, kind := .nat, minLen := 8, maxLen := 8, acc := .const, readers := [.any] },
    -- HOST_WINDOW
    { lo := 0x4042, hi := 0x4042, subLo := 1, subHi := 4, kind := .octets, minLen := 16, maxLen := 16, acc := .ro, readers := [.operator, .owner, .auditor] }
  ]

/-- Dictionary entries with index high byte 0x44, as the owning chapter's table lists them. -/
def odRows44a : List OdEntry :=
  [
    -- ADMISSION_QUEUES
    { lo := 0x4400, hi := 0x4400, subLo := 1, subHi := 1, kind := .nat, minLen := 1, maxLen := 1, acc := .const, readers := [.any], dflt := 11 },
    -- METERS
    { lo := 0x4400, hi := 0x4400, subLo := 2, subHi := 2, kind := .nat, minLen := 1, maxLen := 1, acc := .const, readers := [.any], dflt := 64 },
    -- GCL_ENTRIES
    { lo := 0x4400, hi := 0x4400, subLo := 3, subHi := 3, kind := .nat, minLen := 1, maxLen := 1, acc := .const, readers := [.any], dflt := 32 },
    -- SERVICE_LIMIT
    { lo := 0x4400, hi := 0x4400, subLo := 4, subHi := 4, kind := .nat, minLen := 1, maxLen := 1, acc := .const, readers := [.any], dflt := 8 },
    -- LENGTH_MODE
    { lo := 0x4401, hi := 0x4401, subLo := 1, subHi := 4, kind := .nat, minLen := 1, maxLen := 1, acc := .rwe, readers := [.operator, .owner, .auditor], writers := [.operator], member := .tinted },
    -- OVERHEAD
    { lo := 0x4402, hi := 0x4402, subLo := 1, subHi := 4, kind := .nat, minLen := 4, maxLen := 4, acc := .rwe, readers := [.operator, .owner, .auditor], writers := [.operator], member := .tinted },
    -- GATE_RATE
    { lo := 0x4403, hi := 0x4403, subLo := 1, subHi := 4, kind := .nat, minLen := 4, maxLen := 4, acc := .rwe, readers := [.operator, .owner, .auditor], writers := [.operator], dflt := 0xf618, member := .tinted },
    -- COST_BYTES
    { lo := 0x4404, hi := 0x4404, subLo := 1, subHi := 4, kind := .nat, minLen := 4, maxLen := 4, acc := .rwe, readers := [.operator, .owner, .auditor], writers := [.operator], dflt := 4096, member := .tinted },
    -- SCORE_COST
    { lo := 0x4405, hi := 0x4414, subLo := 1, subHi := 16, kind := .nat, minLen := 4, maxLen := 4, acc := .rwe, readers := [.operator, .owner, .auditor], writers := [.operator], dflt := 1, member := .tinted, range := some (1, 4294967295, 1) },
    -- AQ_CONFIG
    { lo := 0x4420, hi := 0x4423, subLo := 1, subHi := 11, kind := .octets, minLen := 32, maxLen := 32, acc := .rwe, readers := [.operator, .owner, .auditor], writers := [.operator], dflt := 0xffff0000ffffe8d4a51000e8d4a510000010000000000000000000000001, member := .tinted },
    -- SQ_CLASS
    { lo := 0x4424, hi := 0x4427, subLo := 1, subHi := 16, kind := .nat, minLen := 4, maxLen := 4, acc := .rwe, readers := [.operator, .owner, .auditor], writers := [.operator], dflt := 0xffff03, member := .tinted },
    -- METER
    { lo := 0x4430, hi := 0x4433, subLo := 1, subHi := 64, kind := .octets, minLen := 24, maxLen := 24, acc := .rwe, readers := [.operator, .owner, .auditor], writers := [.operator], dflt := 0xe8d4a51000e8d4a51000000000000000ffffffffffffffff, member := .tinted },
    -- GATE_LIST
    { lo := 0x4440, hi := 0x4443, subLo := 0, subHi := 0, kind := .domain, minLen := 0, maxLen := 272, acc := .rwe, readers := [.operator, .owner, .auditor], writers := [.operator], dflt := 0xf4240000007ff00000001000f42400000000000000000, member := .tinted },
    -- DELIVERY
    { lo := 0x4450, hi := 0x4453, subLo := 1, subHi := 11, kind := .octets, minLen := 32, maxLen := 32, acc := .rwe, readers := [.operator, .owner, .auditor], writers := [.operator], member := .tinted },
    -- AQ_STATS
    { lo := 0x4460, hi := 0x4463, subLo := 0, subHi := 0, kind := .domain, minLen := 0, maxLen := 4294967295, acc := .ro, readers := [.operator, .owner, .auditor] },
    -- METER_STATS
    { lo := 0x4470, hi := 0x4473, subLo := 0, subHi := 0, kind := .domain, minLen := 0, maxLen := 4294967295, acc := .ro, readers := [.operator, .owner, .auditor] },
    -- AQ_STATE
    { lo := 0x4480, hi := 0x4483, subLo := 0, subHi := 0, kind := .domain, minLen := 0, maxLen := 4294967295, acc := .ro, readers := [.operator, .owner, .auditor] },
    -- GATE_POSITION
    { lo := 0x4484, hi := 0x4484, subLo := 1, subHi := 4, kind := .nat, minLen := 4, maxLen := 4, acc := .ro, readers := [.operator, .owner, .auditor] }
  ]

/-- Dictionary entries with index high byte 0x50, as the owning chapter's table lists them. -/
def odRows50a : List OdEntry :=
  [
    -- PARTITIONS
    { lo := 0x5000, hi := 0x5000, subLo := 1, subHi := 1, kind := .nat, minLen := 1, maxLen := 1, acc := .const, readers := [.any], dflt := 16 },
    -- TINTS
    { lo := 0x5000, hi := 0x5000, subLo := 2, subHi := 2, kind := .nat, minLen := 1, maxLen := 1, acc := .const, readers := [.any], dflt := 7 },
    -- SLOTS
    { lo := 0x5000, hi := 0x5000, subLo := 3, subHi := 3, kind := .nat, minLen := 1, maxLen := 1, acc := .const, readers := [.any], dflt := 4 },
    -- OVERLAY_BYTES
    { lo := 0x5000, hi := 0x5000, subLo := 4, subHi := 4, kind := .nat, minLen := 4, maxLen := 4, acc := .const, readers := [.any], dflt := 0x10000 },
    -- ACTIVE_TINT
    { lo := 0x5001, hi := 0x5001, subLo := 0, subHi := 0, kind := .nat, minLen := 1, maxLen := 1, acc := .rwe, readers := [.any], writers := [.operator], member := .ground, range := some (0, 7, 1) },
    -- VAT_FENCE
    { lo := 0x5002, hi := 0x5002, subLo := 0, subHi := 0, kind := .nat, minLen := 2, maxLen := 2, acc := .rwe, readers := [.operator, .owner, .auditor], writers := [.operator], member := .tinted },
    -- JOURNAL_REQUIRED
    { lo := 0x5003, hi := 0x5003, subLo := 0, subHi := 0, kind := .flag, minLen := 1, maxLen := 1, acc := .rw, readers := [.operator, .owner, .auditor], writers := [.operator], dflt := 1, member := .ground, range := some (0, 1, 1) },
    -- EPOCH_SWITCH
    { lo := 0x5010, hi := 0x5010, subLo := 0, subHi := 0, kind := .octets, minLen := 8, maxLen := 8, acc := .wo, writers := [.operator] },
    -- EPOCH_CANCEL
    { lo := 0x5011, hi := 0x5011, subLo := 0, subHi := 0, kind := .nat, minLen := 1, maxLen := 1, acc := .wo, writers := [.operator], range := some (1, 1, 1) },
    -- EPOCH_DRAIN_TIMEOUT
    { lo := 0x5012, hi := 0x5012, subLo := 0, subHi := 0, kind := .nat, minLen := 4, maxLen := 4, acc := .rw, readers := [.operator, .auditor], writers := [.operator], dflt := 0x2710, member := .ground, range := some (1000, 1000000, 1) },
    -- EPOCH_ARM_TIMEOUT
    { lo := 0x5013, hi := 0x5013, subLo := 0, subHi := 0, kind := .nat, minLen := 4, maxLen := 4, acc := .rw, readers := [.operator, .auditor], writers := [.operator], dflt := 5000, member := .ground, range := some (100, 100000, 1) },
    -- EPOCH_STATUS
    { lo := 0x5014, hi := 0x5014, subLo := 0, subHi := 0, kind := .octets, minLen := 32, maxLen := 32, acc := .ro, readers := [.operator, .owner, .auditor] },
    -- EPOCH_COUNT
    { lo := 0x5015, hi := 0x5015, subLo := 0, subHi := 0, kind := .nat, minLen := 8, maxLen := 8, acc := .ro, readers := [.any] },
    -- SERVICE_SET
    { lo := 0x5016, hi := 0x5016, subLo := 0, subHi := 0, kind := .nat, minLen := 1, maxLen := 1, acc := .ro, readers := [.operator, .owner, .auditor] },
    -- CONFIG_DIGEST
    { lo := 0x5019, hi := 0x5019, subLo := 1, subHi := 1, kind := .octets, minLen := 48, maxLen := 48, acc := .ro, readers := [.any] },
    -- GROUND_DIGEST
    { lo := 0x5019, hi := 0x5019, subLo := 2, subHi := 2, kind := .octets, minLen := 48, maxLen := 48, acc := .ro, readers := [.operator, .auditor] },
    -- TINT_DIGEST_ACTIVE
    { lo := 0x5019, hi := 0x5019, subLo := 3, subHi := 3, kind := .octets, minLen := 48, maxLen := 48, acc := .ro, readers := [.operator, .auditor] },
    -- CONFIG_SEQ
    { lo := 0x5019, hi := 0x5019, subLo := 4, subHi := 4, kind := .nat, minLen := 4, maxLen := 4, acc := .ro, readers := [.any] },
    -- PARTITION
    { lo := 0x5021, hi := 0x502F, subLo := 1, subHi := 1, kind := .octets, minLen := 16, maxLen := 16, acc := .rwe, readers := [.operator, .owner, .auditor], writers := [.operator], member := .ground },
    -- PARTITION_NAME
    { lo := 0x5021, hi := 0x502F, subLo := 2, subHi := 2, kind := .str, minLen := 0, maxLen := 32, acc := .rw, readers := [.operator, .owner, .auditor], writers := [.operator] },
    -- PARTITION_STATE
    { lo := 0x5021, hi := 0x502F, subLo := 3, subHi := 3, kind := .nat, minLen := 1, maxLen := 1, acc := .ro, readers := [.operator, .owner, .auditor] },
    -- PARTITION_CONTROL
    { lo := 0x5021, hi := 0x502F, subLo := 4, subHi := 4, kind := .nat, minLen := 1, maxLen := 1, acc := .wo, writers := [.operator, .owner], range := some (1, 2, 1) },
    -- SLOT
    { lo := 0x5041, hi := 0x504F, subLo := 1, subHi := 4, kind := .octets, minLen := 48, maxLen := 48, acc := .rwe, readers := [.operator, .owner, .auditor], writers := [.operator], member := .ground },
    -- SLOT_STATUS
    { lo := 0x5051, hi := 0x505F, subLo := 1, subHi := 4, kind := .octets, minLen := 64, maxLen := 64, acc := .ro, readers := [.operator, .owner, .auditor] }
  ]

/-- Dictionary entries with index high byte 0x50, as the owning chapter's table lists them. -/
def odRows50b : List OdEntry :=
  [
    -- VAT_STATE
    { lo := 0x5060, hi := 0x5060, subLo := 1, subHi := 16, kind := .nat, minLen := 1, maxLen := 1, acc := .ro, readers := [.operator, .owner, .auditor] },
    -- VAT_BIST
    { lo := 0x5061, hi := 0x5061, subLo := 1, subHi := 16, kind := .nat, minLen := 4, maxLen := 4, acc := .ro, readers := [.operator, .owner, .auditor] },
    -- MODEL_LOAD_RETRIES
    { lo := 0x5070, hi := 0x5070, subLo := 0, subHi := 0, kind := .nat, minLen := 1, maxLen := 1, acc := .rw, readers := [.operator, .auditor], writers := [.operator], dflt := 2, member := .tinted, range := some (0, 7, 1) }
  ]

/-- Dictionary entries with index high byte 0x60, as the owning chapter's table lists them. -/
def odRows60a : List OdEntry :=
  [
    -- RECORD_BYTES
    { lo := 0x6000, hi := 0x6000, subLo := 1, subHi := 1, kind := .nat, minLen := 2, maxLen := 2, acc := .const, readers := [.any], dflt := 256 },
    -- SEAL_INTERVAL
    { lo := 0x6000, hi := 0x6000, subLo := 2, subHi := 2, kind := .nat, minLen := 2, maxLen := 2, acc := .const, readers := [.any], dflt := 4096 },
    -- RECORD_WINDOW
    { lo := 0x6000, hi := 0x6000, subLo := 3, subHi := 3, kind := .nat, minLen := 2, maxLen := 2, acc := .const, readers := [.any], dflt := 1024 },
    -- ECC_BITS
    { lo := 0x6000, hi := 0x6000, subLo := 4, subHi := 4, kind := .nat, minLen := 2, maxLen := 2, acc := .const, readers := [.any], dflt := 120 },
    -- MEDIA_PROFILE
    { lo := 0x6001, hi := 0x6001, subLo := 0, subHi := 0, kind := .domain, minLen := 0, maxLen := 4096, acc := .rwd, readers := [.operator, .auditor], writers := [.operator], member := .ground },
    -- LEDGER_LAYOUT
    { lo := 0x6002, hi := 0x6002, subLo := 1, subHi := 4, kind := .octets, minLen := 16, maxLen := 16, acc := .rwd, readers := [.operator, .auditor], writers := [.operator], dflt := 0x2000100100, member := .ground },
    -- LEDGER_FORMAT
    { lo := 0x6003, hi := 0x6003, subLo := 1, subHi := 4, kind := .nat, minLen := 1, maxLen := 1, acc := .wo, writers := [.operator, .service], range := some (1, 1, 1) },
    -- LEDGER_STATE
    { lo := 0x6004, hi := 0x6004, subLo := 1, subHi := 4, kind := .nat, minLen := 1, maxLen := 1, acc := .ro, readers := [.any] },
    -- LEDGER_CONTROL
    { lo := 0x6005, hi := 0x6005, subLo := 1, subHi := 4, kind := .nat, minLen := 1, maxLen := 1, acc := .wo, writers := [.operator], range := some (1, 2, 1) },
    -- JOURNAL_RELEASE
    { lo := 0x6006, hi := 0x6006, subLo := 1, subHi := 4, kind := .nat, minLen := 8, maxLen := 8, acc := .wo, writers := [.auditor] },
    -- JOURNAL_READERS
    { lo := 0x6007, hi := 0x6007, subLo := 1, subHi := 4, kind := .nat, minLen := 1, maxLen := 1, acc := .rwe, readers := [.operator, .owner, .auditor], writers := [.operator], member := .tinted, range := some (0, 15, 1) },
    -- JOURNAL_WARN
    { lo := 0x6008, hi := 0x6008, subLo := 0, subHi := 0, kind := .nat, minLen := 1, maxLen := 1, acc := .rw, readers := [.operator, .auditor], writers := [.operator], dflt := 80, member := .ground, range := some (50, 99, 1) },
    -- TAIL_FLUSH
    { lo := 0x6009, hi := 0x6009, subLo := 0, subHi := 0, kind := .nat, minLen := 2, maxLen := 2, acc := .rw, readers := [.operator, .auditor], writers := [.operator], dflt := 100, member := .ground, range := some (1, 1000, 1) },
    -- PATROL_PERIOD
    { lo := 0x600A, hi := 0x600A, subLo := 0, subHi := 0, kind := .nat, minLen := 1, maxLen := 1, acc := .rw, readers := [.operator, .auditor], writers := [.operator], dflt := 7, member := .ground, range := some (1, 60, 1) },
    -- REFRESH_BITS
    { lo := 0x600B, hi := 0x600B, subLo := 0, subHi := 0, kind := .nat, minLen := 1, maxLen := 1, acc := .rw, readers := [.operator, .auditor], writers := [.operator], dflt := 72, member := .ground, range := some (1, 119, 1) },
    -- GC_LOW, GC_HIGH
    { lo := 0x600C, hi := 0x600C, subLo := 1, subHi := 1, kind := .nat, minLen := 2, maxLen := 2, acc := .rw, readers := [.operator, .auditor], writers := [.operator], dflt := 64, member := .ground },
    -- GC_LOW, GC_HIGH
    { lo := 0x600C, hi := 0x600C, subLo := 2, subHi := 2, kind := .nat, minLen := 2, maxLen := 2, acc := .rw, readers := [.operator, .auditor], writers := [.operator], dflt := 128, member := .ground },
    -- JOURNAL_STATE
    { lo := 0x600D, hi := 0x600D, subLo := 1, subHi := 4, kind := .octets, minLen := 64, maxLen := 64, acc := .ro, readers := [.operator, .owner, .auditor] },
    -- HEALTH
    { lo := 0x6010, hi := 0x6013, subLo := 0, subHi := 0, kind := .octets, minLen := 64, maxLen := 64, acc := .ro, readers := [.operator, .auditor] },
    -- TEMP_HISTORY
    { lo := 0x6020, hi := 0x6037, subLo := 0, subHi := 0, kind := .domain, minLen := 0, maxLen := 4294967295, acc := .ro, readers := [.operator, .auditor] },
    -- BLOCK_TABLE
    { lo := 0x6040, hi := 0x6043, subLo := 0, subHi := 0, kind := .domain, minLen := 0, maxLen := 4294967295, acc := .ro, readers := [.operator, .auditor] },
    -- LEDGER_COUNTS
    { lo := 0x6050, hi := 0x6053, subLo := 1, subHi := 8, kind := .nat, minLen := 8, maxLen := 8, acc := .ro, readers := [.operator, .auditor] }
  ]

/-- Dictionary entries with index high byte 0x70, as the owning chapter's table lists them. -/
def odRows70a : List OdEntry :=
  [
    -- WATCHPOINTS
    { lo := 0x7000, hi := 0x7000, subLo := 1, subHi := 1, kind := .nat, minLen := 1, maxLen := 1, acc := .const, readers := [.any], dflt := 64 },
    -- LEAF_SLOTS
    { lo := 0x7000, hi := 0x7000, subLo := 2, subHi := 2, kind := .nat, minLen := 2, maxLen := 2, acc := .const, readers := [.any], dflt := 0x4000 },
    -- BUFFERS
    { lo := 0x7000, hi := 0x7000, subLo := 3, subHi := 3, kind := .nat, minLen := 1, maxLen := 1, acc := .const, readers := [.any], dflt := 16 },
    -- SNAPSHOT_BYTES
    { lo := 0x7000, hi := 0x7000, subLo := 4, subHi := 4, kind := .nat, minLen := 4, maxLen := 4, acc := .const, readers := [.any], dflt := 0x100000 },
    -- RING_EVENTS
    { lo := 0x7000, hi := 0x7000, subLo := 5, subHi := 5, kind := .nat, minLen := 1, maxLen := 1, acc := .const, readers := [.any], dflt := 64 },
    -- COUNTER_CLEAR
    { lo := 0x7001, hi := 0x7001, subLo := 0, subHi := 0, kind := .nat, minLen := 1, maxLen := 1, acc := .wo, writers := [.operator], range := some (0, 19, 1) },
    -- ROUTER_COUNTERS
    { lo := 0x7010, hi := 0x7023, subLo := 0, subHi := 0, kind := .domain, minLen := 0, maxLen := 4294967295, acc := .ro, readers := [.operator, .owner, .auditor, .service] },
    -- INJECTION_COUNTERS
    { lo := 0x7030, hi := 0x7043, subLo := 0, subHi := 0, kind := .domain, minLen := 0, maxLen := 4294967295, acc := .ro, readers := [.operator, .owner, .auditor, .service] },
    -- VAT_UTILISATION
    { lo := 0x7050, hi := 0x705F, subLo := 0, subHi := 0, kind := .domain, minLen := 0, maxLen := 4294967295, acc := .ro, readers := [.operator, .owner, .auditor, .service] },
    -- BUFFER_CONFIG
    { lo := 0x7060, hi := 0x706F, subLo := 1, subHi := 1, kind := .octets, minLen := 16, maxLen := 16, acc := .rw, readers := [.operator, .owner, .auditor], writers := [.operator], member := .ground },
    -- BUFFER_CONTROL
    { lo := 0x7060, hi := 0x706F, subLo := 2, subHi := 2, kind := .nat, minLen := 1, maxLen := 1, acc := .wo, writers := [.operator, .owner], range := some (1, 4, 1) },
    -- BUFFER_STATUS
    { lo := 0x7060, hi := 0x706F, subLo := 3, subHi := 3, kind := .octets, minLen := 32, maxLen := 32, acc := .ro, readers := [.operator, .owner, .auditor] },
    -- READ_WINDOW
    { lo := 0x7060, hi := 0x706F, subLo := 4, subHi := 4, kind := .octets, minLen := 8, maxLen := 8, acc := .rw, readers := [.operator, .owner, .auditor], writers := [.operator, .owner, .auditor], dflt := 0x100000000000000 },
    -- TRACE_DATA
    { lo := 0x7060, hi := 0x706F, subLo := 5, subHi := 5, kind := .domain, minLen := 0, maxLen := 4294967295, acc := .ro, readers := [.operator, .owner, .auditor, .service] },
    -- TRACE_SOURCE
    { lo := 0x7070, hi := 0x7083, subLo := 0, subHi := 0, kind := .nat, minLen := 4, maxLen := 4, acc := .rw, readers := [.operator, .auditor], writers := [.operator], member := .tinted },
    -- FREEZE_CMD
    { lo := 0x7090, hi := 0x7090, subLo := 0, subHi := 0, kind := .octets, minLen := 16, maxLen := 16, acc := .wo, writers := [.operator, .service] },
    -- SNAPSHOT_STATE
    { lo := 0x7091, hi := 0x7091, subLo := 1, subHi := 20, kind := .nat, minLen := 4, maxLen := 4, acc := .ro, readers := [.operator, .owner, .auditor, .service] },
    -- SNAPSHOT_RELEASE
    { lo := 0x7092, hi := 0x7092, subLo := 0, subHi := 0, kind := .nat, minLen := 4, maxLen := 4, acc := .wo, writers := [.operator, .service] },
    -- SNAPSHOT
    { lo := 0x70A0, hi := 0x70B3, subLo := 0, subHi := 0, kind := .domain, minLen := 0, maxLen := 4294967295, acc := .ro, readers := [.operator, .auditor, .service] },
    -- EVENT_RINGS
    { lo := 0x70C0, hi := 0x70D3, subLo := 0, subHi := 0, kind := .domain, minLen := 0, maxLen := 4294967295, acc := .ro, readers := [.operator, .auditor, .service] },
    -- SNAPSHOT_ARM
    { lo := 0x70E0, hi := 0x70E0, subLo := 1, subHi := 15, kind := .flag, minLen := 1, maxLen := 1, acc := .rw, readers := [.operator, .owner, .auditor], writers := [.operator, .owner], range := some (0, 1, 1) },
    -- SNAPSHOT_LEAD
    { lo := 0x70E1, hi := 0x70E1, subLo := 0, subHi := 0, kind := .nat, minLen := 4, maxLen := 4, acc := .rw, readers := [.operator, .auditor], writers := [.operator], dflt := 50, member := .ground, range := some (20, 1000, 1) }
  ]

/-- Dictionary entries with index high byte 0x72, as the owning chapter's table lists them. -/
def odRows72a : List OdEntry :=
  [
    -- WATCH_CONFIG
    { lo := 0x7200, hi := 0x720F, subLo := 1, subHi := 64, kind := .nat, minLen := 4, maxLen := 4, acc := .rwd, readers := [.operator, .owner, .auditor], writers := [.operator, .owner], member := .ground },
    -- WATCH_SET
    { lo := 0x7210, hi := 0x721F, subLo := 1, subHi := 15, kind := .nat, minLen := 8, maxLen := 8, acc := .rwe, readers := [.operator, .owner, .auditor], writers := [.operator], member := .tinted },
    -- WATCH_USAGE
    { lo := 0x7220, hi := 0x722F, subLo := 1, subHi := 2, kind := .nat, minLen := 4, maxLen := 4, acc := .ro, readers := [.operator, .owner, .auditor] },
    -- DIGEST_COUNTS
    { lo := 0x7230, hi := 0x7233, subLo := 1, subHi := 3, kind := .nat, minLen := 8, maxLen := 8, acc := .ro, readers := [.operator, .owner, .auditor] }
  ]

/-- Dictionary entries with index high byte 0x80, as the owning chapter's table lists them. -/
def odRows80a : List OdEntry :=
  [
    -- OTP_STATE
    { lo := 0x8000, hi := 0x8000, subLo := 1, subHi := 1, kind := .nat, minLen := 4, maxLen := 4, acc := .ro, readers := [.operator, .auditor] },
    -- TRUST_ANCHORS
    { lo := 0x8000, hi := 0x8000, subLo := 2, subHi := 2, kind := .octets, minLen := 96, maxLen := 96, acc := .const, readers := [.any] },
    -- DEVICE_ID_PUBKEY
    { lo := 0x8001, hi := 0x8001, subLo := 0, subHi := 0, kind := .octets, minLen := 97, maxLen := 97, acc := .const, readers := [.any] },
    -- DEVICE_CERT
    { lo := 0x8002, hi := 0x8002, subLo := 0, subHi := 0, kind := .domain, minLen := 0, maxLen := 4294967295, acc := .const, readers := [.any] },
    -- ENROL_PUBKEY
    { lo := 0x8003, hi := 0x8003, subLo := 0, subHi := 0, kind := .octets, minLen := 97, maxLen := 97, acc := .const, readers := [.any] },
    -- MODEL_PUBKEY
    { lo := 0x8004, hi := 0x8004, subLo := 0, subHi := 0, kind := .octets, minLen := 97, maxLen := 97, acc := .const, readers := [.any] },
    -- SERVICE_ROOT_PUBKEY
    { lo := 0x8005, hi := 0x8005, subLo := 0, subHi := 0, kind := .octets, minLen := 97, maxLen := 97, acc := .const, readers := [.any] },
    -- ROLE_ENROL
    { lo := 0x8010, hi := 0x8010, subLo := 0, subHi := 0, kind := .octets, minLen := 144, maxLen := 144, acc := .wo, writers := [.operator] },
    -- ROLE_REVOKE
    { lo := 0x8011, hi := 0x8011, subLo := 0, subHi := 0, kind := .nat, minLen := 2, maxLen := 2, acc := .wo, writers := [.operator] },
    -- ROLE_STATUS
    { lo := 0x8012, hi := 0x8012, subLo := 0, subHi := 0, kind := .nat, minLen := 4, maxLen := 4, acc := .ro, readers := [.operator, .auditor] },
    -- AUTH_FAILURES
    { lo := 0x8013, hi := 0x8013, subLo := 0, subHi := 0, kind := .nat, minLen := 8, maxLen := 8, acc := .ro, readers := [.operator, .auditor] },
    -- MODEL_SIGNER
    { lo := 0x8020, hi := 0x802F, subLo := 1, subHi := 4, kind := .octets, minLen := 48, maxLen := 48, acc := .rwe, readers := [.operator, .owner, .auditor], writers := [.operator], member := .ground },
    -- ATTEST_NONCE
    { lo := 0x8030, hi := 0x8030, subLo := 1, subHi := 1, kind := .octets, minLen := 32, maxLen := 32, acc := .wo, writers := [.any] },
    -- ATTESTATION
    { lo := 0x8030, hi := 0x8030, subLo := 2, subHi := 2, kind := .octets, minLen := 336, maxLen := 336, acc := .ro, readers := [.any] },
    -- UNLOCK_NONCE
    { lo := 0x8040, hi := 0x8040, subLo := 1, subHi := 1, kind := .octets, minLen := 32, maxLen := 32, acc := .ro, readers := [.operator, .service] },
    -- UNLOCK_TOKEN
    { lo := 0x8040, hi := 0x8040, subLo := 2, subHi := 2, kind := .octets, minLen := 224, maxLen := 224, acc := .wo, writers := [.operator] },
    -- UNLOCK_STATUS
    { lo := 0x8040, hi := 0x8040, subLo := 3, subHi := 3, kind := .octets, minLen := 16, maxLen := 16, acc := .ro, readers := [.any] },
    -- UNLOCK_REVOKE
    { lo := 0x8040, hi := 0x8040, subLo := 4, subHi := 4, kind := .nat, minLen := 1, maxLen := 1, acc := .wo, writers := [.operator], range := some (1, 1, 1) },
    -- DEBUG_SCAN_ENTER
    { lo := 0x8041, hi := 0x8041, subLo := 0, subHi := 0, kind := .nat, minLen := 1, maxLen := 1, acc := .wo, writers := [.operator], range := some (1, 1, 1) },
    -- ZEROISE
    { lo := 0x8050, hi := 0x8050, subLo := 0, subHi := 0, kind := .octets, minLen := 16, maxLen := 16, acc := .wo, writers := [.operator] },
    -- FW_FLOOR_COMMIT
    { lo := 0x8051, hi := 0x8051, subLo := 0, subHi := 0, kind := .nat, minLen := 1, maxLen := 1, acc := .wo, writers := [.operator], range := some (1, 1, 1) },
    -- MODEL_MIN_VERSION
    { lo := 0x8060, hi := 0x806F, subLo := 1, subHi := 4, kind := .nat, minLen := 4, maxLen := 4, acc := .rwe, readers := [.operator, .owner, .auditor], writers := [.operator], member := .ground },
    -- SECURITY_COUNTS
    { lo := 0x8070, hi := 0x8070, subLo := 1, subHi := 4, kind := .nat, minLen := 8, maxLen := 8, acc := .ro, readers := [.operator, .auditor] }
  ]

/-- Dictionary entries with index high byte 0x90, as the owning chapter's table lists them. -/
def odRows90a : List OdEntry :=
  [
    -- POWER_SUSTAINED
    { lo := 0x9000, hi := 0x9000, subLo := 1, subHi := 1, kind := .nat, minLen := 2, maxLen := 2, acc := .const, readers := [.any], dflt := 850 },
    -- POWER_PEAK
    { lo := 0x9000, hi := 0x9000, subLo := 2, subHi := 2, kind := .nat, minLen := 2, maxLen := 2, acc := .const, readers := [.any], dflt := 1100 },
    -- POWER_LIMIT
    { lo := 0x9001, hi := 0x9001, subLo := 0, subHi := 0, kind := .nat, minLen := 2, maxLen := 2, acc := .rw, readers := [.operator, .auditor], writers := [.operator], dflt := 850, member := .tinted, range := some (300, 850, 1) },
    -- POWER_NOW
    { lo := 0x9002, hi := 0x9002, subLo := 0, subHi := 0, kind := .nat, minLen := 4, maxLen := 4, acc := .ro, readers := [.operator, .auditor] },
    -- POWER_STATS
    { lo := 0x9003, hi := 0x9003, subLo := 1, subHi := 4, kind := .nat, minLen := 8, maxLen := 8, acc := .ro, readers := [.operator, .auditor] },
    -- PMBUS_CLOCK
    { lo := 0x9004, hi := 0x9004, subLo := 0, subHi := 0, kind := .nat, minLen := 1, maxLen := 1, acc := .rw, readers := [.operator, .auditor], writers := [.operator], dflt := 1, member := .ground, range := some (0, 2, 1) },
    -- PMBUS_POLL
    { lo := 0x9005, hi := 0x9005, subLo := 0, subHi := 0, kind := .nat, minLen := 2, maxLen := 2, acc := .rw, readers := [.operator, .auditor], writers := [.operator], dflt := 10, member := .ground, range := some (1, 1000, 1) },
    -- RAIL_MAP
    { lo := 0x9010, hi := 0x9027, subLo := 0, subHi := 0, kind := .nat, minLen := 4, maxLen := 4, acc := .rw, readers := [.operator, .auditor], writers := [.operator], member := .ground },
    -- RAIL_TELEMETRY
    { lo := 0x9030, hi := 0x9047, subLo := 0, subHi := 0, kind := .octets, minLen := 32, maxLen := 32, acc := .ro, readers := [.operator, .auditor] },
    -- RAIL_SETPOINT
    { lo := 0x9050, hi := 0x9050, subLo := 1, subHi := 17, kind := .nat, minLen := 2, maxLen := 2, acc := .rw, readers := [.operator, .owner, .auditor], writers := [.operator], dflt := 800, member := .tinted },
    -- DIE_TEMP
    { lo := 0x9060, hi := 0x9060, subLo := 1, subHi := 20, kind := .int, minLen := 2, maxLen := 2, acc := .ro, readers := [.operator, .owner, .auditor] },
    -- HBM_TEMP
    { lo := 0x9061, hi := 0x9061, subLo := 1, subHi := 8, kind := .int, minLen := 2, maxLen := 2, acc := .ro, readers := [.operator, .auditor] },
    -- THROTTLE_TEMP
    { lo := 0x9062, hi := 0x9062, subLo := 0, subHi := 0, kind := .nat, minLen := 1, maxLen := 1, acc := .rw, readers := [.operator, .auditor], writers := [.operator], dflt := 95, member := .ground, range := some (70, 105, 1) },
    -- THROTTLE_FREQ
    { lo := 0x9063, hi := 0x9063, subLo := 0, subHi := 0, kind := .nat, minLen := 4, maxLen := 4, acc := .rw, readers := [.operator, .auditor], writers := [.operator], dflt := 0xc3500, member := .ground, range := some (400000, 1800000, 12500) },
    -- WARM_RESET
    { lo := 0x9070, hi := 0x9070, subLo := 0, subHi := 0, kind := .nat, minLen := 1, maxLen := 1, acc := .wo, writers := [.operator], range := some (1, 1, 1) },
    -- DIE_RESET
    { lo := 0x9071, hi := 0x9071, subLo := 0, subHi := 0, kind := .nat, minLen := 1, maxLen := 1, acc := .wo, writers := [.operator, .service], range := some (0, 19, 1) },
    -- ISLAND_RESET
    { lo := 0x9072, hi := 0x9072, subLo := 0, subHi := 0, kind := .nat, minLen := 2, maxLen := 2, acc := .wo, writers := [.operator, .service] },
    -- RESET_CAUSE
    { lo := 0x9073, hi := 0x9073, subLo := 0, subHi := 0, kind := .nat, minLen := 1, maxLen := 1, acc := .ro, readers := [.any] },
    -- BOOT_STATUS
    { lo := 0x9080, hi := 0x9080, subLo := 1, subHi := 2, kind := .nat, minLen := 4, maxLen := 4, acc := .ro, readers := [.any] },
    -- FW_UPDATE
    { lo := 0x9081, hi := 0x9081, subLo := 0, subHi := 0, kind := .domain, minLen := 0, maxLen := 12582912, acc := .wo, writers := [.operator] },
    -- FW_COMMIT_B
    { lo := 0x9082, hi := 0x9082, subLo := 0, subHi := 0, kind := .nat, minLen := 1, maxLen := 1, acc := .wo, writers := [.operator], range := some (1, 1, 1) },
    -- NOR_IMAGES
    { lo := 0x9083, hi := 0x9083, subLo := 1, subHi := 4, kind := .octets, minLen := 56, maxLen := 56, acc := .ro, readers := [.operator, .auditor] },
    -- PIN_STATE
    { lo := 0x9090, hi := 0x9090, subLo := 0, subHi := 0, kind := .nat, minLen := 4, maxLen := 4, acc := .ro, readers := [.operator, .auditor] }
  ]

/-- Dictionary entries with index high byte 0xC0, as the owning chapter's table lists them. -/
def odRowsC0a : List OdEntry :=
  [
    -- OVERLAY
    { lo := 0xC000, hi := 0xC6FF, subLo := 0, subHi := 0, kind := .domain, minLen := 0, maxLen := 65544, acc := .rwe, readers := [.operator, .auditor], writers := [.operator] }
  ]

/-- Dictionary entries with index high byte 0xC7, as the owning chapter's table lists them. -/
def odRowsC7a : List OdEntry :=
  [
    -- TINT_NAME
    { lo := 0xC700, hi := 0xC700, subLo := 1, subHi := 7, kind := .str, minLen := 0, maxLen := 32, acc := .rw, readers := [.operator, .auditor], writers := [.operator] },
    -- TINT_USAGE
    { lo := 0xC701, hi := 0xC701, subLo := 1, subHi := 7, kind := .nat, minLen := 4, maxLen := 4, acc := .ro, readers := [.operator, .auditor] },
    -- TINT_DIGEST
    { lo := 0xC702, hi := 0xC702, subLo := 1, subHi := 7, kind := .octets, minLen := 48, maxLen := 48, acc := .ro, readers := [.operator, .auditor] }
  ]

/-- Dictionary entries with index high byte 0xF0, as the owning chapter's table lists them. -/
def odRowsF0a : List OdEntry :=
  [
    -- SERVICE_ID
    { lo := 0xF000, hi := 0xF000, subLo := 0, subHi := 0, kind := .str, minLen := 0, maxLen := 64, acc := .ro, readers := [.service] },
    -- DIE_TEST_RECORD
    { lo := 0xF001, hi := 0xF001, subLo := 1, subHi := 20, kind := .octets, minLen := 64, maxLen := 64, acc := .ro, readers := [.service] },
    -- BIST_OVERRIDE
    { lo := 0xF002, hi := 0xF002, subLo := 1, subHi := 16, kind := .nat, minLen := 4, maxLen := 4, acc := .wo, writers := [.service] }
  ]

/-- R53: every defined entry. -/
def odTable : List OdEntry :=
  odRows10a ++
  odRows10b ++
  odRows11a ++
  odRows20a ++
  odRows21a ++
  odRows22a ++
  odRows24a ++
  odRows25a ++
  odRows26a ++
  odRows28a ++
  odRows28b ++
  odRows30a ++
  odRows31a ++
  odRows34a ++
  odRows3Fa ++
  odRows40a ++
  odRows44a ++
  odRows50a ++
  odRows50b ++
  odRows60a ++
  odRows70a ++
  odRows72a ++
  odRows80a ++
  odRows90a ++
  odRowsC0a ++
  odRowsC7a ++
  odRowsF0a

end Sys2Proof.Machine
end

