-- ==== Sys2Proof/Machine/StLedger.lean ====
section
/-!
DEFINITION. Machine/StLedger.lean: the state of the four ledger engines (R484 to R533): the fitted media, the NAND pages and
blocks, the journal chains, the work under way, and the health of each die's ledger. Every default is the value of an
unformatted engine whose NAND is erased.
-/
namespace Sys2Proof.Machine

/-- A NAND target as its READ ID and parameter page describe it (R485), with the blocks the manufacturer marked bad. -/
structure NandTarget where
  chan : Nat
  ce : Nat
  id : Bytes := []
  luns : Nat := 1
  planes : Nat := 1
  blocks : Nat := 4096
  pages : Nat := 2304
  dataBytes : Nat := 16384
  spareBytes : Nat := 2048
  /-- bad blocks, by 8,192 × LUN + block -/
  bad : List Nat := []
  deriving DecidableEq, Repr

/-- Page metadata (Table 14.7), without its CRC. -/
structure PageMeta where
  volume : Nat
  sectors : Nat := 0
  partition : Nat := 0
  flags : Nat := 0
  stripe : Nat := 0
  logical : Nat := 0
  seq : Nat := 0
  luns : Nat := 0
  erases : Nat := 0
  origin : Nat := 0
  deriving DecidableEq, Repr

/-- A programmed page: its metadata, its data as they read back decrypted, and whether it is torn or uncorrectable. -/
structure NandPage where
  md : PageMeta
  data : Bytes := []
  torn : Bool := false
  bad : Bool := false
  /-- most corrected bits of a codeword at the last read, and the read-retry level needed -/
  bits : Nat := 0
  level : Nat := 0
  deriving DecidableEq, Repr

/-- A block of the block table. Class as Table 14.3: 0 ERASED, 1 CLOSED, 2 OPEN, 3 OPEN_TORN, 4 ERASE_INCOMPLETE, 5 RETIRED. -/
structure Block where
  cls : Nat := 0
  next : Nat := 0
  valid : Nat := 0
  erases : Nat := 0
  closeSeq : Nat := 0
  /-- read back cleanly since it was closed (R517) -/
  checked : Bool := false
  /-- stripe it belongs to, while open or its parity is kept -/
  stripe : Option Nat := none
  parity : Bool := false
  log : Bool := false
  deriving DecidableEq, Repr

/-- An open or unreleased stripe (R516, R517): volume (0 J, 1 A), its blocks, its parity block, parity pages written. -/
structure Stripe where
  num : Nat
  vol : Nat
  blocks : List Nat := []
  parity : Nat
  deriving DecidableEq, Repr

/-- A page that the engine is to program, in the order it is to program them. -/
structure PageJob where
  volume : Nat
  sectors : Nat := 0
  partition : Nat := 0
  flags : Nat := 0
  logical : Nat := 0
  origin : Nat := 0
  data : Bytes := []
  /-- the archive request it belongs to: request number and page index -/
  req : Option (Nat × Nat) := none
  /-- the page of a block being relocated or rebuilt, by PPA -/
  src : Option Nat := none
  /-- a relocated volume A page keeps its page index (R515) -/
  page : Option Nat := none
  deriving DecidableEq, Repr

/-- Why a page is read. -/
inductive ReadFor where
  /-- the queue entry's list position of an ARCHIVE_READ -/
  | archive (req pos : Nat)
  | readBack
  | patrol
  | scan
  | journal (req : Nat)
  deriving DecidableEq, Repr

/-- A journal chain (R496 to R508). -/
structure Chain where
  /-- next number to assign -/
  next : Nat := 0
  /-- W: the lowest number not yet chained -/
  chained : Nat := 0
  /-- numbers below are durable -/
  durable : Nat := 0
  lastSeal : Nat := 0
  release : Nat := 0
  lastHash : Bytes := []
  /-- accepted records, not yet chained, by number -/
  accepted : Table Bytes := []
  /-- numbers assigned to seals and not yet chained, with their reasons -/
  seals : Table Nat := []
  /-- reasons of seals that fell due while the engine could assign no number (R497) -/
  due : List Nat := []
  /-- the seal built and awaiting its signature: number and record -/
  signing : Option (Nat × Bytes) := none
  /-- D of R508 while records are discarded, and the runs still to be chained: by first number, count and E -/
  runFrom : Option Nat := none
  runs : Table (Nat × Nat) := []
  /-- chained records by first number -/
  recs : Table Bytes := []
  requests : Nat := 0
  /-- chained records not yet on NAND: tick at which the oldest was chained -/
  tailSince : Option Tick := none
  /-- numbers in or above which records were lost (R509): first and count -/
  lost : List (Nat × Nat) := []
  deriving DecidableEq, Repr

/-- A ledger engine. -/
structure Ledger where
  /-- Table 14.2 -/
  state : Nat := 0
  formatted : Bool := false
  chain : Chain := {}
  seq : Nat := 1
  /-- programmed pages by PPA; blocks by PPA div 4,096 -/
  pages : Table NandPage := []
  blocks : Table Block := []
  jobs : List PageJob := []
  /-- erases under way: block, with its suspend count -/
  erasing : Table Nat := []
  /-- reads awaited: PPA, read-retry levels tried, and what for -/
  reads : List (Nat × Nat × ReadFor) := []
  stripes : List Stripe := []
  nextStripe : Nat := 0
  /-- remap of moved volume A blocks: original block → block now holding it -/
  remap : Table Nat := []
  retired : List Nat := []
  /-- ONFI channels of the die out of service: 0 first, 1 second -/
  down : List Nat := []
  /-- targets found unusable at POR_N (R485, R486), by 4 × channel-in-die + CE -/
  unused : List Nat := []
  /-- the volume A scan has not ended (R527) -/
  scanA : Bool := false
  /-- state that an engine DOWN returns to -/
  downFrom : Nat := 2
  /-- volume J garbage collection has begun and not reached GC_HIGH (R522) -/
  collecting : Bool := false
  /-- layout taken at the last format: J_BLOCKS, STRIPE_WIDTH, J_RESERVE -/
  layout : Nat × Nat × Nat := (256, 16, 32)
  goodJ : Nat := 0
  goodA : Nat := 0
  clean : Bool := false
  flushLate : Nat := 0
  warned : Option Nat := none
  spareLow : List Nat := []
  /-- the recovery or format seal, until it is on NAND (R494, R530) -/
  startSeal : Option Nat := none
  /-- LEDGER_FORMAT runs: its seal is not yet on NAND (R494) -/
  formatting : Bool := false
  /-- STOP or a flush is under way -/
  stopping : Bool := false
  /-- health: corrected bits, uncorrectable, program fails, erase fails, retired, erase incomplete, relocations, rebuilds, patrol done -/
  health : List Nat := [0, 0, 0, 0, 0, 0, 0, 0, 0]
  /-- the record of Table 14.13 as last updated -/
  report : Bytes := []
  /-- LEDGER_COUNTS (Table 14.20) -/
  counts : List Nat := [0, 0, 0, 0, 0, 0, 0, 0]
  patrolled : List Nat := []
  deriving DecidableEq, Repr

/-- A temperature history (R533): minutes per bin, maximum and its tick. -/
structure History where
  bins : Table Nat := []
  max : Int := 0
  maxAt : Tick := 0
  deriving DecidableEq, Repr

/-- The ledger engines by deckle, the fitted NAND, and the histories by source. -/
structure LedgerState where
  engines : Table Ledger := []
  fitted : List NandTarget := []
  history : Table History := []
  deriving DecidableEq, Repr

end Sys2Proof.Machine
end

