-- ==== Sys2Proof/Machine/StObs.lean ====
section
/-!
DEFINITION. Machine/StObs.lean: the state of observation (R534 to R573): counters, trace stages and capture buffers, event rings
and snapshots, watchpoint open sets. Every default is the value at die reset.
-/
namespace Sys2Proof.Machine

/-- A trace message (Table 15.4): time, source, unit, partition, type, payload, and the extension of a 32-byte message. -/
structure TraceMsg where
  time : Nat
  source : Nat
  unit : Nat
  partition : Nat
  type : Nat
  payload : Nat
  ext : Option Nat := none
  deriving DecidableEq, Repr

/-- A tile's trace stage (R545, R546) and, on a sequencer's tile, its pending branch outcomes, oldest first (R544). -/
structure Stage512 where
  msgs : List TraceMsg := []
  oldest : Tick := 0
  dropped : Nat := 0
  droppedAt : Tick := 0
  branches : List Bool := []
  deriving DecidableEq, Repr

/-- A capture buffer (R547 to R554). -/
structure Capture where
  /-- Table 15.9: 0 DISARMED, 1 CAPTURING, 2 POST, 3 STOPPED -/
  state : Nat := 0
  /-- the configuration taken at arming, and whether a capture can be read -/
  cfg : Nat := 0
  readable : Bool := false
  /-- messages of the ring and of the reserve, oldest first, as bytes each -/
  ring : List Bytes := []
  reserve : List Bytes := []
  /-- bytes appended to the current space since its start, for the BUFFER_TIME of each 64 KiB -/
  ringPos : Nat := 0
  resPos : Nat := 0
  droppedAfter : Nat := 0
  filtered : Nat := 0
  ignored : Nat := 0
  trigTick : Nat := 0
  deriving DecidableEq, Repr

/-- A FREEZE as it is sent to a die: T_F, reason (1 command, 2 deadline), snapshot sequence, context tag. -/
structure Freeze where
  tf : Nat
  reason : Nat
  seq : Nat
  tag : Nat
  deriving DecidableEq, Repr

/-- A die's snapshot (R559 to R563): 0 EMPTY, 1 PENDING, 2 HELD. -/
structure Snapshot where
  /-- a FREEZE on its way to the die's tiles -/
  sent : Option Freeze := none
  state : Nat := 0
  tf : Nat := 0
  reason : Nat := 0
  seq : Nat := 0
  tag : Nat := 0
  /-- tiles (local index) that have latched the FREEZE, with the tick -/
  latched : Table Tick := []
  /-- captured records by local index, up to the unit detail -/
  records : Table Bytes := []
  /-- by local index: the draw (Config.free) from which the unit detail of the record is taken -/
  detail : Table Nat := []
  late : Nat := 0
  /-- events not recorded while held -/
  missed : Nat := 0
  deriving DecidableEq, Repr

/-- A watchpoint's open set for one key (R565): leaves fed, with length and hash, and statistics (R568). -/
structure WatchOpen where
  wp : Nat
  tag : Option Nat
  fmt : Nat
  leaves : Table (Nat × Bytes) := []
  count : Nat := 0
  nans : Nat := 0
  infs : Nat := 0
  zeros : Nat := 0
  /-- MIN and MAX as FP32 patterns, once an element that is not NaN was fed -/
  min : Option Nat := none
  max : Option Nat := none
  sum : Wire := { t := 0 }
  lastUse : Tick := 0
  deriving DecidableEq, Repr

/-- Observation state. Counter tables: flits and stalls by ((node × 5 + input) × 16 + VC) × 3 + counter; partition flits by
16 × node + partition; injection by ((node × 4 + class) × 16 + partition) × 19 + counter; utilisation by (16-die × 64 + slice) × 8
+ counter. -/
structure ObsState where
  router : Table Nat := []
  partFlits : Table Nat := []
  inject : Table Nat := []
  util : Table Nat := []
  /-- by die: tick at which counting restarted; a die reset seen since the last read -/
  since : Table Tick := []
  resetSeen : List Nat := []
  /-- blocks flagged DISCONTINUITY, by die -/
  discont : List Nat := []
  stages : Table Stage512 := []
  buffers : Table Capture := []
  /-- event rings by 64 × node + unit, newest last -/
  rings : Table (List TraceMsg) := []
  snaps : Table Snapshot := []
  snapSeq : Nat := 0
  /-- watchpoint open sets by vat die -/
  watch : Table (List WatchOpen) := []
  /-- DIGEST_COUNTS, by 3 × port + index -/
  digestCounts : Table Nat := []
  /-- injection ticks of packets whose latency is measured (R536): by node, (stream, sgen, seq) and tick -/
  sentAt : Table (List (Nat × Nat × Nat × Tick)) := []
  deriving DecidableEq, Repr

end Sys2Proof.Machine
end

