-- ==== Sys2Proof/Machine/StPort.lean ====
section
/-!
DEFINITION. Machine/StPort.lean: the state of the partner ports (R392 to R424) and of their admission engines (R139 to R146,
R425 to R446): rings, registers, requests from fetch to completion, request contexts, queues, meters and gates. Every default
is the value after the port's reset or, for the admission engine, the package reset.
-/
namespace Sys2Proof.Machine

/-- A submission queue's registers (Table 11.6). -/
structure Sq where
  base : Nat := 0
  en : Bool := false
  cq : Nat := 0
  size : Nat := 0
  errCode : Nat := 0
  err : Bool := false
  head : Nat := 0
  /-- the latched tail of R402 -/
  tail : Nat := 0
  deriving DecidableEq, Repr

/-- A completion queue's registers (Table 11.6), the driver's head and the coalescing state of R418. -/
structure Cq where
  base : Nat := 0
  en : Bool := false
  irqEn : Bool := false
  vec : Nat := 0
  size : Nat := 0
  coalTime : Nat := 0
  coalCount : Nat := 0
  err : Bool := false
  phase : Bool := true
  tail : Nat := 0
  hostHead : Nat := 0
  /-- completions posted since the last message, and the tick of the first -/
  posted : Nat := 0
  firstAt : Tick := 0
  deriving DecidableEq, Repr

/-- How far a request has come. -/
inductive Stage where
  /-- the descriptor checks are done; the payload is awaited -/
  | fetched
  /-- metered and waiting in its admission queue -/
  | queued
  /-- a service request that its unit executes -/
  | executing
  /-- a scoring request with a context -/
  | admitted
  /-- its completion is ready and not yet posted -/
  | completing
  deriving DecidableEq, Repr

/-- What a completion carries beyond what its descriptor gives (Table 11.8). -/
structure Outcome where
  status : Nat := 0
  detail : Nat := 0
  result : Bytes := []
  resultLen : Nat := 0
  generation : Nat := 0
  journalSeq : Nat := 0
  admitTick : Nat := 0
  tag : Nat := 0
  inline : Bool := false
  unjournaled : Bool := false
  journaled : Bool := false
  admitted : Bool := false
  /-- bytes to write to OUTPUT_ADDR before the completion (R406) -/
  output : Bytes := []
  deriving DecidableEq, Repr

/-- A request that the port has fetched and whose completion is not yet posted or discarded. -/
structure Request where
  /-- submission order in the port -/
  num : Nat
  sq : Nat
  ordered : Bool
  partition : Nat
  desc : Bytes
  stage : Stage := .fetched
  payload : Bytes := []
  /-- CRC-32C kept with the staged payload (R319, R320) -/
  crc : Nat := 0
  aq : Nat := 0
  /-- INPUT_LEN, and L and D of R428 -/
  len : Nat := 0
  cost : Nat := 0
  dur : Nat := 0
  /-- causes of Table 12.9 already counted for this request, and the tick since which it waits as a head for resources -/
  counted : List Nat := []
  headSince : Option Tick := none
  starved : Bool := false
  ctx : Option Nat := none
  /-- the port has been reset since this request was fetched (R419) -/
  orphan : Bool := false
  /-- pages or records still to come of an executing service request, and what has come -/
  todo : Nat := 0
  got : Bytes := []
  out : Outcome := {}
  /-- its payload is staged and checked, or it needs none, so that it can be classified -/
  ready : Bool := false
  /-- the unit that executes this service request has begun -/
  started : Bool := false
  /-- tick at which its metering ended (R427) -/
  entered : Tick := 0
  /-- the record that a SCORE_REPLAY replays (R412) -/
  orig : Bytes := []
  deriving DecidableEq, Repr

/-- A request context (Table 4.9), with the kill and delivery bookkeeping of R143, R341 and R442. -/
structure Context where
  /-- Table 4.3: 0 FREE, 1 LIVE, 2 FINISHING, 3 KILLING, 4 FAULTED -/
  state : Nat := 0
  gen : Nat := 0
  deadline : Nat := 0
  admitTick : Nat := 0
  journalSeq : Nat := 0
  requestId : Nat := 0
  generation : Nat := 0
  fault : Nat := 0
  partition : Nat := 0
  slot : Nat := 0
  sq : Nat := 0
  epoch : Nat := 0
  tint : Nat := 0
  watchSet : Nat := 0
  /-- the watch set's record, copied at the admission tick (R571), and the image digest of the generation (R498) -/
  watchRec : Nat := 0
  image : Bytes := []
  /-- number of the request in its port, its admission queue and delivery buffer -/
  req : Nat := 0
  aq : Nat := 0
  buf : Nat := 0
  /-- the journal was required at the admission tick (R483) -/
  journal : Bool := true
  /-- the engine had no chain to number the request in -/
  unchained : Bool := false
  unlocked : Bool := false
  /-- vats that have not answered KILL_DONE, and the tick of the first KILL and of the last -/
  kills : List Nat := []
  killAt : Tick := 0
  killLast : Tick := 0
  /-- R442: 0 input write under way, 1 delivery entry posted, 2 abandoned, 3 signal sent, 4 signal performed -/
  delivery : Nat := 0
  retries : Nat := 0
  /-- packets of the input write not yet acknowledged -/
  inputLeft : Nat := 0
  endTick : Nat := 0
  /-- the completion is posted, and the context waits only for its kills (R146) -/
  posted : Bool := false
  /-- record accepted, or discarded without a record -/
  record : Bool := false
  norecord : Bool := false
  /-- digests kept, by watch-set element: 0 INPUT, 1 OUT0, 2 OUT1 (R572) -/
  digests : Table Bytes := []
  snapAsked : Bool := false
  deriving DecidableEq, Repr

/-- A token bucket (R430): tokens in 10⁻⁹ length units, which may be negative. -/
structure Tok where
  tok : Int
  last : Tick
  deriving DecidableEq, Repr

/-- An admission queue (R425, R432, R436, R438). A bucket that is not listed is full. -/
structure AdmQueue where
  items : List Nat := []
  c : Option Tok := none
  p : Option Tok := none
  deficit : Int := 0
  /-- open tick of the window that CUR and FIRST are for (R436) -/
  win : Option Tick := none
  cur : Nat := 0
  first : Bool := true
  deriving DecidableEq, Repr

/-- A port's admission engine. -/
structure Admission where
  queues : Table AdmQueue := []
  /-- meter buckets, by 2 × meter + (0 C, 1 P); unlisted ones are full -/
  meters : Table Tok := []
  ptr : Nat := 0
  started : Bool := false
  /-- admits nothing more until POR_N (R525) -/
  stopped : Bool := false
  /-- gate list still in force, and the tick s at which the installed one takes over (R445) -/
  oldList : Option Bytes := none
  switchAt : Option Tick := none
  /-- tick from which the gate list in force has been in force (R445) -/
  listFrom : Tick := 0
  lastAdmit : Option Tick := none
  /-- tick of the last evaluation that admitted a request (R438) -/
  decidedAt : Option Tick := none
  ctxs : Table Context := []
  /-- Table 12.9, by 12 × queue + index; green, yellow, red by 3 × meter + colour -/
  stats : Table Nat := []
  meterStats : Table Nat := []
  /-- DEADLINE_FAULTS (OD 0x3445) -/
  deadlineFaults : Nat := 0
  deriving DecidableEq, Repr

/-- A PCIe read that a port front has issued for a fabric READ of its host window. -/
structure HostPend where
  id : Nat
  pkt : Packet
  addr : Nat
  deriving DecidableEq, Repr

/-- A partner port (Tables 11.5 and 11.6, R393 to R421). -/
structure Port where
  evtIrqEn : Bool := false
  evtVec : Nat := 0
  event : Nat := 0
  hwinBase : Nat := 0
  hwinSize : Nat := 0
  timeHi : Nat := 0
  resetGen : Nat := 0
  /-- link: rate code 1 to 5, width, up; PERST_N asserted; D3hot; rate cap latched at the last training -/
  rate : Nat := 0
  width : Nat := 0
  up : Bool := false
  perst : Bool := false
  d3hot : Bool := false
  sqs : Table Sq := []
  cqs : Table Cq := []
  /-- MSI-X table: address, data, vector control by vector; pending bits; MSI-X enable and function mask -/
  msix : Table (Nat × Nat × Nat) := []
  pba : Nat := 0
  msixEn : Bool := false
  funcMask : Bool := false
  reqs : List Request := []
  nextReq : Nat := 0
  hostPend : List HostPend := []
  nextHost : Nat := 0
  /-- staging memory, canonical, unlisted bytes 0 -/
  staging : List (Nat × Byte) := []
  /-- PORT_STATS, by index 0 to 7; STATUS_COUNTS, by status code -/
  stats : Table Nat := []
  status : Table Nat := []
  deriving DecidableEq, Repr

/-- The four partner ports with their admission engines. -/
structure PortState where
  ports : Table Port := []
  adm : Table Admission := []
  /-- AER uncorrectable error status by port (R321): bit 12 Poisoned TLP Received, bit 19 ECRC Error (PRESUMED, notes/assumptions/10.md) -/
  aer : Table Nat := []
  deriving DecidableEq, Repr

end Sys2Proof.Machine
end

