-- ==== Sys2Proof/Machine/StTime.lean ====
section
/-!
DEFINITION. Machine/StTime.lean: the state of islands, crossings and fabric time (R357 to R391), and of power, reset and boot
(R602 to R631). Every default is the value the chapter gives for reset, or the one its assumption row names.
-/
namespace Sys2Proof.Machine

/-- A boundary side's record (Table 10.8): 0 ALIVE, 1 FENCED, 2 REALIVING. -/
structure Boundary where
  state : Nat := 1
  cgen : Nat := 0
  fences : Nat := 0
  overruns : Nat := 0
  discont : Bool := false
  overrun : Bool := false
  /-- the first re-alive after POR_N has completed -/
  realived : Bool := false
  deriving DecidableEq, Repr

/-- A tile's time unit (Table 10.6, Table 10.9). Errors and delays are in 2⁻¹⁶ ns. -/
structure TimeUnit where
  /-- 0 LOCKED, 1 HOLDOVER, 2 ACQUIRING, 3 UNLOCKED -/
  state : Nat := 2
  /-- local count minus the model's fabric time, in 2⁻¹⁶ ns -/
  offset : Int := 0
  /-- ACQUIRING was entered from reset or from UNLOCKED, so the unit may step (R387) -/
  mayStep : Bool := true
  error : Int := 0
  delay : Int := 0
  haveDelay : Bool := false
  depth : Nat := 0
  /-- 0 none, 1 N, 2 E, 3 S, 4 W -/
  parent : Nat := 0
  good : Nat := 0
  lastSync : Tick := 0
  holdSince : Tick := 0
  syncSeq : Nat := 0
  /-- t1 of a DELAY_REQ in flight, in 2⁻¹⁶ ns -/
  t1 : Option Nat := none
  deriving DecidableEq, Repr

/-- Islands, crossings and fabric time. -/
structure TimeState where
  /-- tile boundaries by 8 × node + port (1 N, 2 E, 3 S, 4 W); non-tile islands by 65,536 + 16 × die + record -/
  bounds : Table Boundary := []
  /-- CROSSING_COUNTS: fences, re-alives, overruns, handshake timeouts -/
  counts : List Nat := [0, 0, 0, 0]
  /-- dies held in reset -/
  dieReset : List Nat := []
  master : Nat := 16
  /-- 0 LOCKED, 1 HOLDOVER, 2 starting -/
  masterState : Nat := 2
  units : Table TimeUnit := []
  wallBase : Nat := 0
  ftBase : Nat := 0
  rate : Int := 0
  wallValid : Bool := false
  pps : Nat := 0
  ppsAt : Tick := 0
  ppsFirst : Tick := 0
  /-- TIME_COUNTS: reference losses, PPS losses, unlocks, holdover expiries, SYNCs ignored -/
  timeCounts : List Nat := [0, 0, 0, 0, 0]
  /-- ms spent below target, by die -/
  limitedMs : Table Nat := []
  deriving DecidableEq, Repr

/-- A rail (Tables 17.1, 17.6): setpoint in force, telemetry, and a settling VOUT_COMMAND. -/
structure Rail where
  setpoint : Nat := 800
  /-- VIN, VOUT, IOUT, POUT, temperature as 32-bit patterns, STATUS_WORD, SAMPLE -/
  vin : Nat := 0
  vout : Nat := 0
  iout : Nat := 0
  pout : Nat := 0
  temp : Nat := 0
  status : Nat := 0
  sample : Tick := 0
  /-- new setpoint waiting for READ_VOUT, and its deadline -/
  settle : Option (Nat × Tick) := none
  /-- limit in kHz that a failed command imposes -/
  cap : Option Nat := none
  deriving DecidableEq, Repr

/-- A firmware image in a boot NOR slot (Table 17.8). -/
structure NorImage where
  version : Nat := 0
  security : Nat := 0
  valid : Bool := false
  digest : Bytes := []
  /-- boot reason code its checks give: 0 good, 1 bad header, 2 bad length, 3 signature, 4 floor, 5 read error, 6 empty -/
  reason : Nat := 0
  deriving DecidableEq, Repr

/-- A copy of the configuration store (R627). -/
structure StoreCopy where
  seq : Nat
  valid : Bool := true
  rw : Table Bytes
  cfg : Table Bytes
  deriving DecidableEq, Repr

/-- A boot NOR device (Table 17.7). -/
structure Nor where
  slotA : NorImage := {}
  slotB : NorImage := {}
  stores : List StoreCopy := []
  zeroisePending : Bool := false
  deriving DecidableEq, Repr

/-- Power, reset and boot. -/
structure PowState where
  rails : Table Rail := []
  /-- by die: governor limit and thermal limit in kHz, droop response until this tick, temperature × 8 -/
  governor : Table Nat := []
  thermal : Table Nat := []
  droop : Table Tick := []
  temps : Table Int := []
  hbmTemps : Table Int := []
  hbmHalf : List Nat := []
  powerNow : Nat := 0
  /-- tick of the last estimate -/
  govAt : Tick := 0
  aboveUs : Nat := 0
  quietUntil : Tick := 0
  /-- POWER_STATS -/
  stats : List Nat := [0, 0, 0, 0]
  /-- levels at the pins: asserted flags -/
  por : Bool := false
  pwrfail : Bool := false
  throttle : Bool := false
  thermtrip : Bool := false
  nodeId : Nat := 0
  resetCause : Nat := 0
  /-- 0 BOOT: what the device state is before service is judged; see deviceState -/
  booting : Bool := true
  /-- BOOT_STATUS of DN and DS: slot (0 A, 1 B, 3 none), slot A reason, slot B reason -/
  bootDn : Nat × Nat × Nat := (3, 0, 0)
  bootDs : Nat × Nat × Nat := (3, 0, 0)
  nors : Table Nor := []
  /-- firmware version that each die runs, by die -/
  fw : Table Nat := []
  /-- what the running managing engine booted -/
  image : NorImage := {}
  storeDue : Option Tick := none
  /-- the configuration store has been read since the last reset (R627) -/
  loaded : Bool := false
  /-- a warm reset: 0 none, 1 LIVE contexts finish, 2 the ledgers stop -/
  warm : Nat := 0
  /-- engines whose self-tests will fail at the warm reset under way -/
  warmTest : Nat := 0
  /-- FAULT until POR_N: PWRFAIL, trip, SCAN, management lost, or service set absent -/
  fault : Bool := false
  /-- FAULT because the minimum service set is absent, until a switch finds it present (R482) -/
  absent : Bool := false
  zeroised : Bool := false
  /-- dies out of service without a fence -/
  lost : List Nat := []
  mgmt : Nat := 16
  mgmtLost : Bool := false
  jtagIr : Nat := 0xFF
  /-- boundary register: levels captured or preloaded, and whether the pins are driven from it or float -/
  boundary : Bytes := []
  pinsHeld : Nat := 0
  deriving DecidableEq, Repr

/-- Keys, roles and debug (R574 to R600). -/
structure SecState where
  /-- firmware floor fuse and ZEROISE_COUNT fuse by deckle -/
  floor : Nat := 0
  zeroCount : Table Nat := []
  /-- a ZEROISE has started and its fuses are not yet burnt -/
  zeroiseOpen : Bool := false
  /-- deckles whose fuse a ZEROISE has still to burn -/
  toBurn : List Nat := []
  /-- wrapped role secrets, by 16 × role + partition, held in clear here -/
  roles : Table Bytes := []
  authFailures : Nat := 0
  counts : List Nat := [0, 0, 0, 0]
  /-- attestation nonces by 128 × endpoint + client, with the tick -/
  nonces : Table (Bytes × Tick) := []
  unlockNonce : Bytes := []
  /-- scope and end tick -/
  unlock : Option (Nat × Tick) := none
  /-- DEBUG_SCAN_ENTER: 0 not entered, 1 LIVE contexts finish, 2 the ledgers stop, 3 entered -/
  scan : Nat := 0
  keysCleared : Bool := false
  entropyBad : List Nat := []
  testBad : List Nat := []
  /-- ledger data keys by deckle: the ZEROISE_COUNT each was wrapped under -/
  ledgerKey : Table Nat := []
  /-- BIST pattern selections by vat die -/
  bist : Table Nat := []
  deriving DecidableEq, Repr

end Sys2Proof.Machine
end

