-- ==== Sys2Proof/Machine/State.lean ====
section
/-!
DEFINITION. Machine/State.lean: the block's whole state (the chapters' parts joined), the commands that wait, the reasons a step
can stop, and the state right after reset.
-/
namespace Sys2Proof.Machine

/-- Fabric memory and staging memory: (address, byte) pairs, addresses strictly rising, no entry equal to 0, which every
unlisted byte reads as. -/
abbrev Memory := List Host.Cell

/-- The state of the part. -/
structure State where
  /-- commands that wait, oldest first -/
  pending : List Instr := []
  /-- fabric time at the master, in ticks of 1 ns (R379) -/
  now : Tick := 0
  /-- the model's own: free values drawn so far (Config.free) -/
  freeCount : Nat := 0
  /-- vat SRAM, deckle SRAM, trace memory and HBM, by fabric address (Table 4.1) -/
  mem : Memory := []
  /-- what the part has sent across its boundary, oldest first -/
  out : List Output := []
  dict : DictState := {}
  fab : Fabric := {}
  integ : Integrity := {}
  ep : Epochs := {}
  part : PartState := {}
  vs : VatState := {}
  port : PortState := {}
  led : LedgerState := {}
  obs : ObsState := {}
  time : TimeState := {}
  pow : PowState := {}
  sec : SecState := {}
  deriving DecidableEq, Repr

/-- The machine has no fault of its own: every error that the manual names is an effect on the state. Nobody raises this
constructor (safe). -/
inductive Fault where
  /-- never raised (safe) -/
  | none
  deriving DecidableEq, Repr

/-- Why a command has no next state. -/
inductive Refusal where
  /-- exec's arm of a command that has no meaning yet (safe) -/
  | notModelled (mnemonic : String)
  /-- raised by DBG_SCAN and DBG_BIST while their scope is unlocked: the layout of their data registers is left open,
  so what a scan does to the part is not stated (safe) -/
  | debugDataRegister
  deriving DecidableEq, Repr

/-- The NAND fitted at reset: one target on each of two chip enables of every channel, two LUNs each. The manual leaves the fitted
media to the integrator; this is the model's choice. -/
def fittedReset : List NandTarget :=
  (List.range 8).flatMap fun c => [{ chan := c, ce := 0, luns := 2 }, { chan := c, ce := 1, luns := 2 }]

/-- The firmware image both NOR devices hold in slot A at reset. The manual leaves the shipped image open; the model's choice. -/
def imageReset : NorImage := { version := 1, security := 0, valid := true, digest := [], reason := 0 }

/-- An empty slot (boot reason 6). -/
def imageEmpty : NorImage := { reason := 6 }

/-- The state right after POR_N deasserts and the boot ROMs of DN and DS have run slot A (Table 17.10 step 5): firmware runs on DN and
DS, DN manages, every other register at its reset value. -/
def State.reset : State :=
  { led := { fitted := fittedReset }
    part := { digestDue := true }
    time := { masterState := 0, units := [(20, { state := 0, mayStep := false })] }
    pow :=
      { nodeId := 1
        bootDn := (0, 0, 0)
        bootDs := (0, 0, 0)
        nors := [(0, { slotA := imageReset, slotB := imageEmpty }), (1, { slotA := imageReset, slotB := imageEmpty })]
        fw := [(16, 1), (18, 1)]
        image := imageReset } }

end Sys2Proof.Machine
end

