-- ==== Sys2Proof/Machine/Dict.lean ====
section
/-!
DEFINITION. Machine/Dict.lean: the dictionary's entries and the values in force (R53 to R61, R70, R71, R447 to R455): ground values by
bank, tint overlays, the bank that a unit uses, and the settings that the chapters read.
-/
namespace Sys2Proof.Machine

/-- The key of an entry's value: 256 × index + subindex. -/
def odKey (idx sub : Nat) : Nat := 256 * idx + sub

/-- The row of the dictionary that defines an index and subindex. -/
def odFind (idx sub : Nat) : Option OdEntry :=
  odTable.find? (fun e => decide (e.lo ≤ idx) && decide (idx ≤ e.hi) && decide (e.subLo ≤ sub) && decide (sub ≤ e.subHi))

/-- Some row defines the index. -/
def odIndexDefined (idx : Nat) : Bool := odTable.any (fun e => decide (e.lo ≤ idx) && decide (idx ≤ e.hi))

/-- R268's defaults (OD 0x2100, 0x2110 + p): rate and burst by traffic class. -/
def regDefault (tc : Nat) : Nat :=
  if tc = 0 then 100 + 64 * 65536
  else if tc = 1 then 250 + 64 * 65536
  else if tc = 6 then 20 + 64 * 65536
  else if tc = 7 then 50 + 16 * 65536
  else 1000 + 4096 * 65536

/-- Default value of an entry. A domain is empty by default, but for the gate lists (Table 12.7). -/
def odDefault (idx sub : Nat) : Bytes :=
  match odFind idx sub with
  | none => []
  | some e =>
    if 0x2100 = idx || (0x2110 ≤ idx && idx ≤ 0x211F) then leBytes 4 (regDefault (sub - 1))
    else match e.kind with
      | .domain => if 0x4440 ≤ idx && idx ≤ 0x4443 then leBytes 24 e.dflt else []
      | _ => leBytes e.minLen e.dflt

/-- Overlay entries of tint t lie at these keys: 0xC000 + 0x100 × (t − 1) + k, subindex 0 (R453). -/
def overlayIndex (t k : Nat) : Nat := 0xC000 + 0x100 * (t - 1) + k

/-- The tint's overlay entries that are not empty, in ascending k, as stored. -/
def overlays (cfg : Table Bytes) (t : Nat) : List Bytes :=
  (cfg.filter (fun e => decide (odKey (overlayIndex t 0) 0 ≤ e.1) && decide (e.1 ≤ odKey (overlayIndex t 255) 0)
    && decide (e.2 ≠ []))).map (·.2)

/-- An overlay entry's target and whether it is enabled (Table 13.4). -/
def overlayTarget (v : Bytes) : Nat := odKey (field v 0 2) (field v 2 1)
def overlayOn (v : Bytes) : Bool := bitAt (field v 3 1) 0

/-- The value that an enabled overlay entry of tint t gives a target. -/
def overlayValue (cfg : Table Bytes) (t key : Nat) : Option Bytes :=
  if t = 0 then none
  else ((overlays cfg t).find? (fun v => overlayOn v && overlayTarget v == key)).map (·.drop 8)

/-- ACTIVE_TINT of a bank (R455). -/
def bankTint (cfg : Table Bytes) : Nat := leNat (tgetD cfg (odKey 0x5001 0) [0])

/-- R455: an RWE entry's value in a bank: its active tint's overlay, else its ground value, else the default. -/
def bankValue (cfg : Table Bytes) (idx sub : Nat) : Bytes :=
  match overlayValue cfg (bankTint cfg) (odKey idx sub) with
  | some v => v
  | none => tgetD cfg (odKey idx sub) (odDefault idx sub)

/-- The bank in force at the managing engine. -/
def State.cfg (s : State) : Table Bytes := s.ep.cur.cfg

/-- The active tint (R455). -/
def State.tint (s : State) : Nat := bankTint s.cfg

/-- Ground value of any entry that has one (R71). -/
def groundValue (s : State) (idx sub : Nat) : Bytes :=
  match odFind idx sub with
  | some e => if e.acc = .rwe then tgetD s.cfg (odKey idx sub) (odDefault idx sub)
              else tgetD s.dict.rw (odKey idx sub) (odDefault idx sub)
  | none => []

/-- R71, R455: the value in force of any entry that has one. -/
def valueInForce (s : State) (idx sub : Nat) : Bytes :=
  match overlayValue s.cfg s.tint (odKey idx sub) with
  | some v => v
  | none => groundValue s idx sub

/-- A numeric setting in force. -/
def setting (s : State) (idx sub : Nat) : Nat := leNat (valueInForce s idx sub)


/-- The bank of a live epoch, by EPOCH field (count mod 4). -/
def bankOfEpoch (s : State) (e : Nat) : Option Bank :=
  if s.ep.cur.count % 4 = e % 4 then some s.ep.cur
  else match s.ep.old with
    | some b => if b.count % 4 = e % 4 then some b else none
    | none => none

/-- A numeric RWE setting in a bank. -/
def bankNat (b : Bank) (idx sub : Nat) : Nat := leNat (bankValue b.cfg idx sub)

/-- Partition record p of a bank (Table 13.3), as a number. -/
def partRecord (cfg : Table Bytes) (p : Nat) : Nat := leNat (bankValue cfg (0x5020 + p) 1)
def partEn (r : Nat) : Bool := bitAt r 0
def partFirst (r : Nat) : Nat := bits r 7 4
def partCount (r : Nat) : Nat := bits r 12 8
def partPorts (r : Nat) : Nat := bits r 19 16
def partSyncFirst (r : Nat) : Nat := bits r 44 32
def partSyncCount (r : Nat) : Nat := bits r 60 48
def partMcFirst (r : Nat) : Nat := bits r 73 64
def partMcCount (r : Nat) : Nat := bits r 90 80
def partRedFirst (r : Nat) : Nat := bits r 104 96
def partRedCount (r : Nat) : Nat := bits r 121 112

/-- R448: partition p of a bank owns vat die d. -/
def partOwnsVat (cfg : Table Bytes) (p d : Nat) : Bool :=
  let r := partRecord cfg p
  partEn r && decide (partFirst r ≤ d) && decide (d < partFirst r + partCount r)

/-- R448: partition p of a bank owns port n. -/
def partOwnsPort (cfg : Table Bytes) (p n : Nat) : Bool :=
  let r := partRecord cfg p
  partEn r && bitAt (partPorts r) n

/-- The partition that owns a vat die in a bank; 0 for none. -/
def vatOwner (cfg : Table Bytes) (d : Nat) : Nat :=
  ((List.range 16).find? (fun p => decide (1 ≤ p) && partOwnsVat cfg p d)).getD 0

/-- The vat dies of partition p in a bank. -/
def partVats (cfg : Table Bytes) (p : Nat) : List Nat := (List.range 16).filter (partOwnsVat cfg p)

/-- VAT_FENCE of a bank (R478). -/
def bankFenced (cfg : Table Bytes) (d : Nat) : Bool := bitAt (leNat (bankValue cfg 0x5002 0)) d

/-- R43, R478: dies out of service for routing in an epoch: lost dies, and the fenced vat dies of its bank. -/
def bankOut (b : Bank) : List Nat := b.oos ++ (List.range 16).filter (bankFenced b.cfg)

/-- EPOCH_COUNT of the epoch that a tile stamps: the old one until it has latched GO, and until the retirement where its die is fenced or
out of service in the new epoch (R461). -/
def tileEpoch (s : State) (node : Nat) : Nat :=
  if s.ep.state = 3 && ((tget s.ep.latched node).isNone || (bankOut s.ep.cur).contains (dieOf node)) then s.ep.count - 1 else s.ep.count

/-- The bank that a tile uses now. -/
def tileBank (s : State) (node : Nat) : Bank := (bankOfEpoch s (tileEpoch s node)).getD s.ep.cur

/-- A die is in service now: not lost, not held in reset, not fenced in the bank in force. -/
def dieUp (s : State) (d : Nat) : Bool :=
  decide (d < 20) && !s.pow.lost.contains d && !s.time.dieReset.contains d &&
    !(decide (d < 16) && bankFenced s.cfg d)

/-- Table 13.8: a vat die's state code. -/
def vatState (s : State) (d : Nat) : Nat := (tgetD s.part.vats d {}).state

/-- R31, R351: the die whose management engine runs the package. -/
def State.mgmtDie (s : State) : Nat := s.pow.mgmt

end Sys2Proof.Machine
end

