-- ==== Sys2Proof/Machine/Route.lean ====
section
/-!
DEFINITION. Machine/Route.lean: links and routes (R24, R246 to R251, R350, Table 7.4): the path a header takes, the source-table
entries that R249 computes, and which dies have an escape path to the managing engine.
-/
namespace Sys2Proof.Machine

/-- The state a link has after the reset of its dies: a link on one die is FENCED until its boundary is made alive, a die-to-die link
TRAINING; where there is no neighbour it is ABSENT. -/
def linkReset (n port : Nat) : Nat :=
  if (neighbour n port).isNone then 0 else if isDieLink n port then 1 else 6

/-- Table 7.4: the state of the link at a tile's mesh port. -/
def linkState (s : State) (n port : Nat) : Nat := tgetD s.fab.links (linkKey n port) (linkReset n port)

/-- ACTIVE or DEGRADED. -/
def linkUp (s : State) (n port : Nat) : Bool := linkState s n port == 2 || linkState s n port == 4

/-- The links now FAILED, by key. -/
def failedLinks (s : State) : List Nat := (s.fab.links.filter (fun e => e.2 == 5)).map (·.1)

/-- R246: the output port a packet takes at cur towards tgt; 0 is the local port. Set 1 moves in y first, sets 0 and 2 in x. -/
def stepPort (set cur tgt : Nat) : Nat :=
  let xp := if nodeX cur < nodeX tgt then 2 else if nodeX tgt < nodeX cur then 4 else 0
  let yp := if nodeY cur < nodeY tgt then 3 else if nodeY tgt < nodeY cur then 1 else 0
  if set = 1 then (if yp = 0 then xp else yp) else (if xp = 0 then yp else xp)

/-- The path in a set from cur to tgt exists, touches no die in F, and uses no link in bad (R249, R350). -/
def pathOk (F bad : List Nat) (set : Nat) : Nat → Nat → Nat → Bool
  | 0, _, _ => false
  | f + 1, cur, tgt =>
    !F.contains (dieOf cur) && (locateNode cur).isSome &&
      (cur == tgt ||
        (let p := stepPort set cur tgt
         !bad.contains (linkKey cur p) &&
           (match neighbour cur p with
            | some m => pathOk F bad set f m tgt
            | none => false)))

/-- A whole path; 72 hops span the grid. -/
def pathClear (F bad : List Nat) (set cur tgt : Nat) : Bool := pathOk F bad set 73 cur tgt

/-- The neighbour dies of D, in the order in which R249 takes them. -/
def dieNeighbours (D : Nat) : List Nat :=
  if D < 16 then
    let r := D / 4
    let c := D % 4
    [if r = 0 then 16 else D - 4, if c = 3 then 17 else D + 1, if r = 3 then 18 else D + 4, if c = 0 then 19 else D - 1]
  else if D = 16 then [0, 1, 2, 3]
  else if D = 17 then [3, 7, 11, 15]
  else if D = 18 then [12, 13, 14, 15]
  else [0, 4, 8, 12]

/-- West and north edges of a vat die on the grid. -/
def dieLeft (d : Nat) : Nat := 2 + 8 * (d % 4)
def dieTop (d : Nat) : Nat := 2 + 8 * (d / 4)

/-- R249's edge_tile(N, D). -/
def edgeTile (N D : Nat) : Nat :=
  if D = 16 then nodeOf (dieLeft N + 3) 1
  else if D = 17 then nodeOf 34 (dieTop N + 3)
  else if D = 18 then nodeOf (dieLeft N + 3) 34
  else if D = 19 then nodeOf 1 (dieTop N + 3)
  else
    let n := dieNeighbours D
    if n[0]? = some N then nodeOf (dieLeft D + 3) (dieTop D - 1)
    else if n[1]? = some N then nodeOf (dieLeft D + 8) (dieTop D + 3)
    else if n[2]? = some N then nodeOf (dieLeft D + 3) (dieTop D + 8)
    else nodeOf (dieLeft D - 1) (dieTop D + 3)

/-- A route entry (Table 7.10). -/
inductive Route where
  | direct (set : Nat)
  | both
  | waypoint (w set : Nat)
  | oos
  | noroute
  deriving DecidableEq, Repr

/-- R249's preference(policy, w): 0 XY, 1 YX, 2 BALANCED. -/
def routePref (policy w : Nat) : List Nat :=
  if policy = 0 then [0, 1] else if policy = 1 then [1, 0]
  else if (nodeX w + nodeY w) % 2 = 0 then [0, 1] else [1, 0]

/-- The waypoint candidates of R249 and R350, in order. -/
def routeWaypoints (s D : Nat) (F bad : List Nat) (policy : Nat) : List (Nat × Nat) :=
  ((dieNeighbours D).filter (fun N => !F.contains N)).flatMap fun N =>
    let w := edgeTile N D
    if bad.isEmpty || (tilesOf D).all (fun t => pathClear [] bad 2 w t) then
      ((routePref policy w).filter (fun set => pathClear F bad set s w)).map (fun set => (w, set))
    else []

/-- R249: the entry of source tile s for destination die D. -/
def routeEntry (s D : Nat) (F bad : List Nat) (policy : Nat) : Route :=
  if F.contains D then .oos
  else
    let ok0 := (tilesOf D).all (fun t => pathClear F bad 0 s t)
    let ok1 := (tilesOf D).all (fun t => pathClear F bad 1 s t)
    if ok0 && ok1 then .both
    else if ok0 then .direct 0
    else if ok1 then .direct 1
    else match (routeWaypoints s D F bad policy).head? with
      | some (w, set) => .waypoint w set
      | none => .noroute

/-- The entry that a bank's source table holds. -/
def bankRoute (b : Bank) (s D : Nat) : Route := routeEntry s D (bankOut b) b.badLinks (bankNat b 0x2001 0)

/-- Table 7.10: the stored form of an entry. -/
def Route.word : Route → Nat
  | .direct set => 32 * set
  | .both => 1
  | .waypoint w set => 2 + 32 * set + w * 2 ^ 20
  | .oos => 3
  | .noroute => 4

/-- R248: routing set and waypoint for a packet to dest, or none where the entry is OOS or NOROUTE. -/
def routeFor (b : Bank) (s dest : Nat) : Option (Nat × Option Nat) :=
  match bankRoute b s (dieOf dest) with
  | .direct set => some (set, none)
  | .both =>
    let policy := bankNat b 0x2001 0
    some (if policy = 0 then 0 else if policy = 1 then 1 else (nodeX dest + nodeY dest) % 2, none)
  | .waypoint w set => some (set, some w)
  | .oos => none
  | .noroute => none

/-- Dies that no escape packet reaches now. A die that a switch is fencing or returning is still, or already, reached (R463, R480). -/
def outNow (s : State) : List Nat :=
  (List.range 20).filter (fun d =>
    !dieUp s d && !(decide (d < 16) && (vatState s d == 1 || vatState s d == 4) && !s.pow.lost.contains d && !s.time.dieReset.contains d))

/-- R251: an XY path between two tiles that an escape packet may take. -/
def escapeDirect (s : State) (a b : Nat) : Bool := pathClear (outNow s) (failedLinks s) 0 a b

/-- One round of R251's relaying: dies whose service endpoint reaches a die already reached. -/
def escapeRound (s : State) (reached : List Nat) : List Nat :=
  (List.range 20).filter fun d =>
    reached.contains d || reached.any (fun e => escapeDirect s (serviceTile d) (serviceTile e))

/-- R251, R352: the die has an escape path to the managing engine, directly or through die service endpoints. -/
def escapePath (s : State) (die : Nat) : Bool :=
  let m := mgmtTile s.mgmtDie
  let near := (List.range 20).filter (fun d => escapeDirect s (serviceTile d) m)
  die == s.mgmtDie || near.contains die ||
    (escapeRound s (escapeRound s (escapeRound s (escapeRound s near)))).contains die

end Sys2Proof.Machine
end

