-- ==== Sys2Proof/Machine/Ops.lean ====
section
/-!
DEFINITION. Machine/Ops.lean: the operations that every chapter's meanings share: free values, outputs, error reports (R352), trace
events (R542, R546, R558), fabric memory, and putting a packet at an injection port.
-/
namespace Sys2Proof.Machine

/-- Answer a next state. -/
def done (s : State) : Host.Outcome State Fault Refusal := .next s

/-- R17: a 64-bit value that the manual leaves open, and the state that has drawn it. -/
def draw (s : State) : Nat × State := ((Config.free s.freeCount).toNat, { s with freeCount := s.freeCount + 1 })

/-- n draws that only their count names: what a value that stays open was drawn from. -/
def takeDraws (s : State) (n : Nat) : State := { s with freeCount := s.freeCount + n }

/-- n bytes that the manual leaves open, and the state that has drawn them. -/
def drawBytes : Nat → State → Bytes × State
  | 0, s => ([], s)
  | n + 1, s =>
    let (v, s) := draw s
    let (bs, s) := drawBytes n s
    (BitVec.ofNat 8 v :: bs, s)

/-- A part of the state changed by a function of it. -/
def modDict (s : State) (f : DictState → DictState) : State := { s with dict := f s.dict }
def modFab (s : State) (f : Fabric → Fabric) : State := { s with fab := f s.fab }
def modInteg (s : State) (f : Integrity → Integrity) : State := { s with integ := f s.integ }
def modEp (s : State) (f : Epochs → Epochs) : State := { s with ep := f s.ep }
def modPart (s : State) (f : PartState → PartState) : State := { s with part := f s.part }
def modVs (s : State) (f : VatState → VatState) : State := { s with vs := f s.vs }
def modPort (s : State) (f : PortState → PortState) : State := { s with port := f s.port }
def modLed (s : State) (f : LedgerState → LedgerState) : State := { s with led := f s.led }
def modObs (s : State) (f : ObsState → ObsState) : State := { s with obs := f s.obs }
def modTime (s : State) (f : TimeState → TimeState) : State := { s with time := f s.time }
def modPow (s : State) (f : PowState → PowState) : State := { s with pow := f s.pow }
def modSec (s : State) (f : SecState → SecState) : State := { s with sec := f s.sec }

/-- Something crosses the part's boundary. -/
def emitOut (s : State) (o : Output) : State := { s with out := s.out ++ [o] }

/-- The fabric time, never earlier than a tick at which something has happened. -/
def advanceTo (s : State) (t : Tick) : State := { s with now := Nat.max s.now t }

/-- A timer whose tick is t fires: time has reached t. -/
def timeReaches (s : State) (t : Tick) : State := advanceTo s t

/-- R31, R351: a managing engine runs. -/
def mgmtUp (s : State) : Bool := !s.pow.mgmtLost && dieUp s s.mgmtDie && (tget s.pow.fw s.mgmtDie).isSome

/-- The serial number as its 16 bytes. -/
def serialBytes : Bytes := leBytes 16 Config.serial.toNat

/-- R355: the partition of a report that names none: the owner of its die. -/
def ownerOfNode (s : State) (node : Nat) : Option Nat :=
  let p := vatOwner s.cfg (dieOf node)
  if dieOf node < 16 && p != 0 then some p else none

/-- Bytes a message takes. -/
def TraceMsg.size (m : TraceMsg) : Nat := if m.ext.isSome then 32 else 16

/-- Table 15.4: a message as bytes. -/
def TraceMsg.bytes (m : TraceMsg) : Bytes :=
  leBytes 16 (m.payload % 2 ^ 48 + m.type % 256 * 2 ^ 48 + m.partition % 16 * 2 ^ 56 + (if m.ext.isSome then 1 else 0) * 2 ^ 60
    + m.unit % 64 * 2 ^ 62 + m.source % 4096 * 2 ^ 68 + m.time % 2 ^ 48 * 2 ^ 80)
  ++ (match m.ext with | some e => leBytes 16 e | none => [])

/-- The messages of a TRACE_APPEND's payload, whole, each as its bytes: SIZE of the first 16 bytes says 16 or 32. -/
def traceSplit : Nat → Bytes → List Bytes
  | 0, _ => []
  | f + 1, b =>
    let n := if bits (field b 0 16) 61 60 = 1 then 32 else 16
    if b.length < n then [] else b.take n :: traceSplit f (b.drop n)

def traceMsgs (b : Bytes) : List Bytes := traceSplit (b.length / 16) b

/-- R558: entries an event ring keeps: the last 64, of which a 32-byte message takes two. -/
def ringTrim : Nat → List TraceMsg → List TraceMsg
  | 0, l => l
  | f + 1, l => if (l.map (fun m => m.size / 16)).sum ≤ 64 then l else ringTrim f (l.drop 1)

/-- R546: a message enters its tile's 2,048-byte stage, behind a LOSS message where messages were dropped; it is dropped where the stage
is full. -/
def stagePut (s : State) (node : Nat) (m : TraceMsg) : State :=
  let st := tgetD s.obs.stages node {}
  let used := (st.msgs.map TraceMsg.size).sum
  let loss : List TraceMsg :=
    if st.dropped = 0 then [] else
      [{ time := st.droppedAt, source := node, unit := m.unit, partition := 0, type := 0x30
         payload := Nat.min st.dropped (2 ^ 32 - 1) }]
  let need := (loss.map TraceMsg.size).sum + m.size
  let st' : Stage512 :=
    if used + need ≤ 2048 then
      { st with msgs := st.msgs ++ loss ++ [m], dropped := 0, oldest := if st.msgs.isEmpty then s.now else st.oldest }
    else { st with dropped := st.dropped + 1, droppedAt := if st.dropped = 0 then s.now else st.droppedAt }
  modObs s fun o => { o with stages := tput o.stages node st' }

/-- The tile has captured its record of a snapshot that its die holds, so its event rings stand still (R560). -/
def ringStopped (s : State) (node : Nat) : Bool :=
  let sn := tgetD s.obs.snaps (dieOf node) {}
  sn.state != 0 && (tget sn.records (localOf node)).isSome

/-- R558: an event enters its unit's ring, or is counted while the ring is stopped. -/
def ringPut (s : State) (node : Nat) (m : TraceMsg) : State :=
  if ringStopped s node then
    modObs s fun o => { o with snaps := tmod o.snaps (dieOf node) {} (fun x => { x with missed := x.missed + 1 }) }
  else
    let k := 64 * node + m.unit
    modObs s fun o => { o with rings := tput o.rings k (ringTrim 64 (tgetD o.rings k [] ++ [m])) }

/-- R542: TRACE_SOURCE of the die lets an event of this type out. -/
def traceOn (s : State) (node type : Nat) : Bool :=
  let w := setting s (0x7070 + dieOf node) 0
  if type < 0x20 then bitAt w 4 && bitAt w 5 else bitAt w 4 && bitAt w (16 + (type - 0x20))

/-- An event of Table 15.5 at a unit: into its event ring, and into the trace where its die's sources are enabled. -/
def event (s : State) (node unit type partition payload : Nat) (ext : Option Nat := none) : State :=
  let m : TraceMsg :=
    { time := s.now, source := node, unit := unit, partition := partition, type := type, payload := payload, ext := ext }
  let s := ringPut s node m
  if traceOn s node type then stagePut s node m else s

/-- R352: a unit reports an error to its die service endpoint, which forwards it where its die has an escape path, and holds it
otherwise; a report that finds 64 held is counted. The endpoint also emits the ERROR event of Table 15.5. -/
def report (s : State) (r : Report) : State :=
  let r := { r with
    partition := r.partition.orElse (fun _ => ownerOfNode s r.source)
    epoch := r.epoch.orElse (fun _ => some (s.ep.count % 4))
    time := s.now }
  let d := dieOf r.source
  let s := event s (serviceTile d) 0x17 0x27 (r.partition.getD 0) (r.source * 2 ^ 16 + r.cls * 2 ^ 8 + r.cause)
  if escapePath s d then modInteg s fun g => { g with reports := g.reports ++ [r] }
  else
    let q := tgetD s.integ.held d []
    if q.length < 64 then modInteg s fun g => { g with held := tput g.held d (q ++ [r]) }
    else modInteg s fun g => { g with dropCount := tinc g.dropCount d 1, dropped := g.dropped + 1 }

/-- A report that concerns a packet: its partition, peer, stream, tag and address (Table 9.9). -/
def reportPkt (s : State) (cause unit node : Nat) (p : Packet) (detail : Nat := 0) : State :=
  report s
    { cause := cause, cls := 2, unit := unit, source := node, detail := detail
      partition := some p.partition.toNat
      epoch := some p.epoch.toNat
      peer := some p.src.toNat
      stream := some (p.stream.toNat, p.sgen.toNat, p.seq.toNat)
      tag := if p.tagValid then some p.tag.toNat else none
      addr := some p.addr.toNat }

/-- Fabric memory. -/
def readMem (s : State) (a n : Nat) : Bytes := memRead s.mem a n
def writeMem (s : State) (a : Nat) (b : Bytes) : State := { s with mem := memWrite s.mem a b }

/-- R328, R329: an aligned 8-byte unit of the range is uncorrectable. -/
def badRange (s : State) (a n : Nat) : Bool :=
  s.integ.badWords.any (fun w => decide (w + 8 > a) && decide (w < a + n) && decide (0 < n))

/-- A write makes whole 8-byte units good again (R329). -/
def cleanRange (s : State) (a n : Nat) : State :=
  modInteg s fun g => { g with badWords := g.badWords.filter (fun w => !(decide (a ≤ w) && decide (w + 8 ≤ a + n))) }

/-- A packet waits at a tile's injection port. -/
def send (s : State) (node : Nat) (owner : Initiator) (p : Packet) : State :=
  modFab s fun f =>
    { f with waiting := tmod f.waiting node [] (· ++ [{ owner := owner, pkt := { p with src := BitVec.ofNat 12 node } }]) }

/-- Table 7.1: message class of an opcode; none where it is reserved (Table 8.1 leaves 0x62 to 0x67 and 0x74 to 0x77
reserved). -/
def opClass (op : Nat) : Option Nat :=
  if 1 ≤ op && op ≤ 6 then some 1
  else if 0x20 ≤ op && op ≤ 0x23 then some 2
  else if (0x40 ≤ op && op ≤ 0x47) || (0x50 ≤ op && op ≤ 0x53) then some 0
  else if op = 0x60 || op = 0x61 then some 3
  else if 0x70 ≤ op && op ≤ 0x73 then some 4
  else none

/-- Table 7.1: the traffic class that an opcode is sent in, tagged or not. Responses take that of their request. -/
def opTc (op : Nat) (tagged : Bool) : Nat :=
  if op = 1 || op = 2 || op = 6 then (if tagged then 2 else 3)
  else if op = 3 || op = 0x21 then 1
  else if op = 4 then 2
  else if op = 5 then 6
  else if 0x40 ≤ op && op ≤ 0x47 then 0
  else if 0x50 ≤ op && op ≤ 0x53 then 7
  else if 0x60 ≤ op && op ≤ 0x67 then 4
  else 5

/-- R316: CHECK of an opcode: 1 for REQ, RSP and MC packets, 2 for RED_CHUNK, 0 for the others. -/
def opCheck (op : Nat) : Nat :=
  match opClass op with
  | some 1 => 1
  | some 2 => 1
  | some 3 => 1
  | some 4 => if op = 0x70 then 2 else 0
  | _ => 0

/-- A new packet of an opcode, with the class, traffic class and CHECK of Table 7.1 and R316. -/
def mkPacket (op dest partition : Nat) (tag : Option Nat) (addr : Nat) (payload : Bytes) : Packet :=
  { opcode := BitVec.ofNat 8 op
    mclass := BitVec.ofNat 3 ((opClass op).getD 0)
    tc := BitVec.ofNat 3 (opTc op tag.isSome)
    partition := BitVec.ofNat 4 partition
    check := BitVec.ofNat 2 (opCheck op)
    dest := BitVec.ofNat 12 dest
    length := BitVec.ofNat 13 payload.length
    tag := BitVec.ofNat 16 (tag.getD 0)
    tagValid := tag.isSome
    addr := BitVec.ofNat 48 addr
    payload := payload }

/-- The context tag that a packet carries. -/
def Packet.tagOpt (p : Packet) : Option Nat := if p.tagValid then some p.tag.toNat else none

/-- R236: flits a packet occupies. -/
def Packet.flits (p : Packet) : Nat := 1 + (p.length.toNat - 96 + 127) / 128

/-- A counter in a list of counters raised. -/
def bump (l : List Nat) (i : Nat) (k : Nat := 1) : List Nat := lmod l i (· + k)

end Sys2Proof.Machine
end

