-- ==== Sys2Proof/Machine/Cores.lean ====
section
/-!
DEFINITION. Machine/Cores.lean: what every chapter does to the units of a vat and to a request context: reach a vat, fibre, cell or
context, withdraw a wait, fault a fibre (R105), move a context to KILLING (R143, R145), trap and restart a sequencer (R229,
R230), deliver a request's
input (R442, R341), and fail an access at its initiator (Table 9.2).
-/
namespace Sys2Proof.Machine

/-- The vat of die d. -/
def vatOf (s : State) (d : Nat) : Vat := tgetD s.vs.vats d {}

def modVat (s : State) (d : Nat) (f : Vat → Vat) : State := modVs s fun v => { v with vats := tmod v.vats d {} f }

/-- Fibres are keyed by 256 × slice + slot. -/
def fibreKey (slice slot : Nat) : Nat := 256 * slice + slot

def fibreAt (s : State) (d slice slot : Nat) : Option Fibre := tget (vatOf s d).fibres (fibreKey slice slot)

def putFibre (s : State) (d slice slot : Nat) (x : Fibre) : State :=
  modVat s d fun v => { v with fibres := tput v.fibres (fibreKey slice slot) x }

def dropFibre (s : State) (d slice slot : Nat) : State :=
  modVat s d fun v => { v with fibres := tdel v.fibres (fibreKey slice slot) }

/-- The initiator that a resident fibre is. -/
def fibreOwner (d slice slot : Nat) (x : Fibre) : Initiator := .fibre d slice slot x.batch x.index x.tag

def seqOf (s : State) (d : Nat) : Sequencer := (vatOf s d).seq

def modSeq (s : State) (d : Nat) (f : Sequencer → Sequencer) : State := modVat s d fun v => { v with seq := f v.seq }

def modBatch (s : State) (d num : Nat) (f : Batch → Batch) : State :=
  modVat s d fun v => { v with batches := v.batches.map (fun b => if b.num = num then f b else b) }

/-- Cells are keyed by 256 × die + cell. -/
def cellOf (s : State) (k : Nat) : Cell := tgetD s.vs.cells k {}

def modCell (s : State) (k : Nat) (f : Cell → Cell) : State := modVs s fun v => { v with cells := tmod v.cells k {} f }

/-- The fabric address of a cell's page (R110), and its tile (R27). -/
def cellAddr (k : Nat) : Nat := 0xA0000000 + (k / 256) * 0x10000 + (k % 256) * 0x100
def cellTile (k : Nat) : Nat := nodeAt (k / 256) (k % 256 / 4)

/-- The admission engine and the context records of a port. -/
def admOf (s : State) (p : Nat) : Admission := tgetD s.port.adm p {}

def modAdm (s : State) (p : Nat) (f : Admission → Admission) : State :=
  modPort s fun v => { v with adm := tmod v.adm p {} f }

def ctxOf (s : State) (p c : Nat) : Context := tgetD (admOf s p).ctxs c {}

def modCtx (s : State) (p c : Nat) (f : Context → Context) : State :=
  modAdm s p fun a => { a with ctxs := tmod a.ctxs c {} f }

/-- R139: the tag of context c of port p at generation g. -/
def ctxTag (p c g : Nat) : Nat := g % 64 * 1024 + p % 4 * 256 + c % 256

/-- The port and index of a tag. -/
def tagPort (t : Nat) : Nat := bits t 9 8
def tagCtx (t : Nat) : Nat := bits t 7 0
def tagGen (t : Nat) : Nat := bits t 15 10

/-- R146: the tag's generation is its context's current one. -/
def tagCurrent (s : State) (t : Nat) : Bool := (ctxOf s (tagPort t) (tagCtx t)).gen % 64 == tagGen t

/-- A packet that counts in "every earlier write": a WRITE or an MC_SEND. -/
def isWriteOp (op : Nat) : Bool := op == 1 || op == 0x60

/-- Some write of the initiators that p selects is not yet acknowledged as performed, sent or not (R113, R123, R284). -/
def writesOut (s : State) (p : Initiator → Bool) : Bool :=
  s.fab.trackers.any (fun t => t.2.unacked.any (fun u => isWriteOp u.pkt.opcode.toNat && p u.owner)) ||
  s.fab.waiting.any (fun w => w.2.any (fun o => isWriteOp o.pkt.opcode.toNat && p o.owner)) ||
  s.vs.mc.any (fun g => g.2.pending.any (fun m => match m.local_ with | some o => p o | none => false))

/-- The unacknowledged writes of one initiator, as a count (R208). -/
def writesCount (s : State) (o : Initiator) : Nat :=
  (s.fab.trackers.map (fun t => (t.2.unacked.filter (fun u => isWriteOp u.pkt.opcode.toNat && u.owner == o)).length)).sum +
  (s.fab.waiting.map (fun w => (w.2.filter (fun x => isWriteOp x.pkt.opcode.toNat && x.owner == o)).length)).sum

/-- Packets of an initiator that still wait at an injection port are not sent. -/
def purgeWaiting (s : State) (p : OutPacket → Bool) : State :=
  modFab s fun f => { f with waiting := f.waiting.map (fun w => (w.1, w.2.filter (fun o => !p o))) }

/-- Response buffers that an initiator reserved are given up: a response that comes later is consumed and ignored. -/
def dropExpects (s : State) (p : Expect → Bool) : State :=
  modFab s fun f => { f with expects := f.expects.map (fun e => (e.1, e.2.filter (fun x => !p x))) }

/-- The waiters of a cell that a tile's request (tracker, SGEN, SEQ) put there are withdrawn (R136). -/
def withdrawCell (s : State) (node stream sgen seq : Nat) : State :=
  modVs s fun v =>
    { v with cells := v.cells.map (fun c =>
        (c.1, { c.2 with waiters := c.2.waiters.filter (fun w =>
          !(w.src == node && w.stream == stream && w.sgen == sgen && w.seq == seq)) })) }

/-- R133: the vat sends UNPARK for a cell once it holds no parked wait on it and none awaits a re-send; the packet carries the highest
OPSEQ of any PARKED received (R132), and names the cell by its address (DESIGN CHOICE, notes/assumptions/20.md). -/
def unparkIfDone (s : State) (d k : Nat) : State :=
  let v := vatOf s d
  if v.waitTable.any (fun w => w.cell == k) || v.resend.any (fun w => w.cell == k) then s
  else match tget v.parkedSeq k with
    | none => s
    | some q =>
      let s := modVat s d fun v => { v with notifies := tdel v.notifies k }
      send s (schedTile d) (.endpoint d 6)
        (mkPacket 0x44 (cellTile k) (vatOwner s.cfg d) none (cellAddr k) (leBytes 16 (q % 2 ^ 32 * 2 ^ 8)))

/-- R136, R144, R199: a fibre's or sequencer's wait is withdrawn: from the cell, from the wait table, or before it was sent. -/
def withdrawWait (s : State) (d : Nat) (who : Waiter) (owner : Initiator) : State :=
  let node := match who with | .fibre sl _ => nodeAt d sl | .sequencer => seqTile d
  let mine := (tgetD s.fab.expects node []).filter (fun e => e.owner == owner && e.opcode == 3)
  let s := mine.foldl (fun s e => withdrawCell s node e.stream e.sgen e.seq) s
  let s := dropExpects s (fun e => e.owner == owner)
  let v := vatOf s d
  let cells := ((v.waitTable ++ v.resend).filter (fun w => w.who == who)).map (·.cell)
  let s := modVat s d fun v =>
    { v with
      waitTable := v.waitTable.filter (fun w => w.who != who)
      resend := v.resend.filter (fun w => w.who != who) }
  cells.foldl (fun s k => unparkIfDone s d k) s

/-- Table 15.5: a context's state change is an event of its admission engine. -/
def ctxEvent (s : State) (p c : Nat) : State :=
  let x := ctxOf s p c
  event s (admissionTile p) 0x12 0x21 x.partition (x.fault * 2 ^ 19 + x.state * 2 ^ 16 + ctxTag p c x.gen)

/-- R563: a context that leaves LIVE before its deadline tick cancels the FREEZE it asked for, on every die that has captured no tile. -/
def snapCancel (s : State) (tag : Nat) : State :=
  modObs s fun o =>
    { o with snaps := o.snaps.map (fun e =>
        let x := match e.2.sent with
          | some f => if f.reason = 2 && f.tag = tag then { e.2 with sent := none } else e.2
          | none => e.2
        (e.1, if x.state = 1 && x.reason = 2 && x.tag = tag && x.records.isEmpty then { x with state := 0, latched := [] } else x)) }

/-- What leaving LIVE does besides the state (R563). -/
def leaveLive (s : State) (p c : Nat) : State :=
  let x := ctxOf s p c
  if x.snapAsked && s.now < x.deadline then snapCancel s (ctxTag p c x.gen) else s

/-- KILL for a context to one vat, on TC0 (R143). -/
def sendKill (s : State) (p tag part d : Nat) : State :=
  send s (admissionTile p) (.endpoint (16 + p) 0x12) (mkPacket 0x45 (schedTile d) part (some tag) 0 [])

/-- R140: every vat has answered, so KILLING becomes FAULTED. -/
def killSettle (s : State) (p c : Nat) : State :=
  let x := ctxOf s p c
  if x.state = 3 && x.kills.isEmpty then ctxEvent (modCtx s p c fun x => { x with state := 4 }) p c else s

/-- R140, R143: a LIVE context enters KILLING with a fault; KILL goes to every vat of the partition that is in service. -/
def enterKilling (s : State) (p c fault : Nat) : State :=
  let x := ctxOf s p c
  if x.state = 1 then
    let s := leaveLive s p c
    let vats := (partVats s.cfg x.partition).filter (dieUp s)
    let s := modCtx s p c fun x =>
      { x with state := 3, fault := fault, kills := vats, killAt := s.now, killLast := s.now, endTick := s.now }
    let s := if fault = 0x10 then modAdm s p fun a => { a with deadlineFaults := a.deadlineFaults + 1 } else s
    let s := ctxEvent s p c
    let s := vats.foldl (fun s d => sendKill s p (ctxTag p c x.gen) x.partition d) s
    killSettle s p c
  else s

/-- R145: a tagged fibre's fault reaches the admission engine of its context; a stale tag's does not (R146). -/
def contextFault (s : State) (tag : Option Nat) (code : Nat) : State :=
  match tag with
  | none => s
  | some t => if tagCurrent s t then enterKilling s (tagPort t) (tagCtx t) code else s

/-- R222: one more fibre of a batch counts as faulted; the lowest index is the one that the status names. -/
def Batch.addFault (b : Batch) (index code : Nat) : Batch :=
  if b.faultedIdx.contains index then b else
    { b with
      faulted := b.faulted + 1
      faultedIdx := index :: b.faultedIdx
      first := match b.first with
        | none => some (index, code)
        | some (i, c) => if index < i then some (index, code) else some (i, c) }

/-- R104, R105: the fault of a fibre is counted, logged, shown as an event, reported to its batch and to its context. -/
def faultReport (s : State) (d slice batch index : Nat) (tag : Option Nat) (code : Nat) : State :=
  let s := modVat s d fun v =>
    { v with
      fibreFaults := v.fibreFaults + 1
      encodingFaults := if code = 8 then v.encodingFaults + 1 else v.encodingFaults
      arithFaults := if code = 9 then v.arithFaults + 1 else v.arithFaults }
  let s := modBatch s d batch fun b => b.addFault index code
  let part := vatOwner s.cfg d
  let s := event s (nodeAt d slice) 3 0x20 part
    ((match tag with | some t => 2 ^ 40 + t * 2 ^ 24 | none => 0) + batch % 2 ^ 16 * 2 ^ 8 + code)
  let s := report s { cause := 0x60, cls := 2, unit := 3, source := nodeAt d slice, detail := code, tag := tag }
  contextFault s tag code

/-- R105, R125: a resident fibre faults: it stops, its waits are withdrawn, its unsent sync operations and reads are never sent, its slot
is freed, and the fault is reported. -/
def fibreFault (s : State) (d slice slot code : Nat) : State :=
  match fibreAt s d slice slot with
  | none => s
  | some x =>
    let o := fibreOwner d slice slot x
    let s := withdrawWait s d (.fibre slice slot) o
    let s := purgeWaiting s (fun w => w.owner == o && (w.pkt.opcode == 3 || w.pkt.opcode == 2))
    let s := dropFibre s d slice slot
    let s := modBatch s d x.batch fun b => { b with ended := b.ended + 1 }
    faultReport s d slice x.batch x.index x.tag code

/-- R103, R104: a fibre's op has finished: the next op is due, unless its index would pass 255 (PROGRAM_END). -/
def finishOp (s : State) (d slice slot : Nat) : State :=
  match fibreAt s d slice slot with
  | none => s
  | some x =>
    let s := modVat s d fun v => { v with opsExecuted := v.opsExecuted + 1 }
    let s := modObs s fun o => { o with util := tinc o.util ((d * 64 + slice) * 8 + 7) 1 }
    if x.opIndex ≥ 255 then fibreFault s d slice slot 3
    else putFibre s d slice slot { x with opIndex := x.opIndex + 1, state := 1, wait := none, reads := [], desc := [] }

/-- Register n of a fibre or sequencer; a register that no one has written reads 0. -/
def regGet (l : List Word) (n : Nat) : Word := l.getD n 0

def regSet : List Word → Nat → Word → List Word
  | [], 0, w => [w]
  | [], n + 1, w => 0 :: regSet [] n w
  | _ :: l, 0, w => w :: l
  | x :: l, n + 1, w => x :: regSet l n w

/-- The sequencer of a vat emits a trace item of Table 6.2; its pending branch outcomes go first (R544). -/
def branchesMsg (l : List Bool) : Nat :=
  l.length * 2 ^ 42 + (l.zipIdx.map (fun e => bitOf e.1 * 2 ^ e.2)).sum

def flushBranches (s : State) (d : Nat) : State :=
  let n := seqTile d
  let st := tgetD s.obs.stages n {}
  if st.branches.isEmpty then s
  else
    let s := modObs s fun o => { o with stages := tmod o.stages n {} (fun x => { x with branches := [] }) }
    event s n 5 1 (vatOwner s.cfg d) (branchesMsg st.branches)

/-- A branch outcome is held; the fortieth sends them (R544). -/
def seqBranch (s : State) (d : Nat) (taken : Bool) : State :=
  let n := seqTile d
  let s := modObs s fun o => { o with stages := tmod o.stages n {} (fun x => { x with branches := x.branches ++ [taken] }) }
  if 40 ≤ (tgetD s.obs.stages n {}).branches.length then flushBranches s d else s

def seqEvent (s : State) (d type payload : Nat) (ext : Option Nat := none) : State :=
  event (flushBranches s d) (seqTile d) 5 type (vatOwner s.cfg d) payload ext

/-- The trace event of a wait's completion (Table 15.5, WAIT). -/
def waitEvent (s : State) (d kind result since what : Nat) : State :=
  seqEvent s d 8 (result % 256 * 2 ^ 8 + kind) (some (since % 2 ^ 48 * 2 ^ 80 + what % 2 ^ 48))

/-- R198, last part: every packet that the sequencer issued before the START has settled, so it runs from word 0. -/
def seqSettle (s : State) (d : Nat) : State :=
  let q := seqOf s d
  if q.starting && !writesOut s (· == .sequencer d) then
    modSeq s d fun q =>
      { q with
        state := 2, pc := 0, regs := [], loops := q.loops.map (fun c => { c with active := false }), starting := false
        posted := none, stopping := false, wait := none }
  else s

/-- R198: an accepted START. -/
def seqBegin (s : State) (d : Nat) : State :=
  let s := modVat s d fun v =>
    { v with batches := (v.batches.filter (fun b => !b.done)).map (fun b => { b with detached := true }) }
  let s := modSeq s d fun q => { q with starting := true, posted := none }
  seqSettle s d

/-- R199, R209: the sequencer's wait, if any, is withdrawn. -/
def seqCancelWait (s : State) (d : Nat) : State :=
  let s := withdrawWait s d .sequencer (.sequencer d)
  let s := purgeWaiting s (fun w => w.owner == .sequencer d && (w.pkt.opcode == 3 || w.pkt.opcode == 2))
  modSeq s d fun q => { q with wait := none, posted := none }

/-- Table 6.8: a trap record. -/
def trapRecord (time addr instr pc code detail : Nat) : Bytes :=
  leBytes 32 (detail % 2 ^ 32 + code % 256 * 2 ^ 72 + pc % 2 ^ 16 * 2 ^ 80 + instr % 2 ^ 32 * 2 ^ 96
    + addr % 2 ^ 48 * 2 ^ 128 + time % 2 ^ 64 * 2 ^ 192)

/-- R229, R230: a trap. Under RESTART it is followed by a START while fewer than 8 restarts lie within the last 10⁹ ticks. -/
def seqTrap (s : State) (d code : Nat) (addr : Nat := 0) (detail : Nat := 0) : State :=
  let s := seqCancelWait s d
  let q := seqOf s d
  let instr := (q.prog.getD q.pc 0).toNat
  let s := modSeq s d fun q =>
    { q with
      state := 5, stopping := false, trapCode := code, traps := q.traps + 1
      trapRecord := trapRecord s.now addr instr q.pc code detail }
  let s := report s { cause := 0x61, cls := 2, unit := 5, source := seqTile d, detail := code, addr := if addr = 0 then none else some addr }
  let s := seqEvent s d 4 (code * 2 ^ 16 + q.pc % 2 ^ 16)
  let recent := (seqOf s d).restarts.filter (fun t => s.now < t + 1000000000)
  if setting s 0x3115 (d + 1) = 1 && recent.length < 8 then
    seqBegin (modSeq s d fun q => { q with restarts := recent ++ [s.now] }) d
  else s

/-- An instruction of the sequencer has completed with the next pc: a posted failure traps there (R209), an accepted STOP takes effect
(R199). -/
def seqBoundary (s : State) (d : Nat) : State :=
  let q := seqOf s d
  if q.state != 2 then s
  else match q.posted with
    | some (code, addr) => seqTrap s d code addr
    | none => if q.stopping then modSeq s d fun q => { q with state := 4, stopping := false } else s

/-- An instruction has completed: the next word is due. -/
def seqNext (s : State) (d : Nat) (f : Sequencer → Sequencer := id) : State :=
  seqBoundary (modSeq s d fun q => f { q with pc := (q.pc + 1) % 65536, state := 2, wait := none }) d

/-- R227: an MCAST completes when its last packet is injected. -/
def mcastSettle (s : State) (d : Nat) : State :=
  if (seqOf s d).wait == some .mcast &&
      !(s.fab.waiting.any (fun w => w.2.any (fun o => o.owner == .sequencer d && o.pkt.opcode == 0x60))) then seqNext s d
  else s

/-- A register of a sequencer written; s0 is not (R195). -/
def seqSetReg (r : Nat) (w : Word) (q : Sequencer) : Sequencer :=
  if r = 0 then q else { q with regs := regSet q.regs r w }

/-- R209: a refused or failed ST or MCAST packet. While an LD or a SYNC that is not a wait is under way, the trap waits for its
completion. -/
def seqPosted (s : State) (d code addr : Nat) : State :=
  let q := seqOf s d
  if q.state = 3 then seqTrap s d code addr
  else if q.state = 2 then
    if q.wait.isSome then modSeq s d fun q => { q with posted := q.posted.orElse (fun _ => some (code, addr)) }
    else seqTrap s d code addr
  else s

/-- A cause that only a REFUSAL carries (Table 9.6). -/
def isRefusal (cause : Nat) : Bool := decide (0x40 ≤ cause) && decide (cause ≤ 0x43)

/-- Table 4.5: the fault of a fibre whose packet failed with a cause. A sync operation fails with SYNC_LOST (R137), unless a window check
refused it (R119). -/
def fibreFailCode (op cause : Nat) : Nat :=
  if op = 3 && (cause = 0x41 || !isRefusal cause) then 6 else if isRefusal cause then 2 else 7

/-- Table 6.4: the trap of a sequencer whose packet failed. -/
def seqFailCode (op cause : Nat) : Nat :=
  if op = 3 && (cause = 0x41 || !isRefusal cause) then 8 else if isRefusal cause then 4 else 5

/-- The request that a context serves. -/
def ctxRequest (s : State) (p : Nat) (x : Context) : Option Request :=
  (tgetD s.port.ports p {}).reqs.find? (fun r => r.num == x.req)

/-- IN_STAGED and INPUT_ADDR of a descriptor (Table 11.7). -/
def descStaged (d : Bytes) : Bool := bitAt (field d 0 8) 20
def descInput (d : Bytes) : Nat := field d 16 8

/-- R320, R396: the bytes that the port reads from staging to form packets: those of the staging window for IN_STAGED, else those it staged
at the fetch. -/
def requestBytes (s : State) (p : Nat) (r : Request) : Bytes :=
  if descStaged r.desc then memRead (tgetD s.port.ports p {}).staging (descInput r.desc) r.len else r.payload

/-- Table 12.8: the delivery record of a context's queue, in the bank of its epoch. -/
def deliveryRecord (s : State) (p : Nat) (x : Context) : Nat :=
  leNat (bankValue ((bankOfEpoch s x.epoch).getD s.ep.cur).cfg (0x4450 + p) (x.aq + 1))

/-- The fabric address of a context's delivery buffer (R442). -/
def deliveryAddr (s : State) (p : Nat) (x : Context) : Nat :=
  let r := deliveryRecord s p x
  bits r 207 160 + x.buf * bits r 159 128

/-- Table 6.6: the delivery entry of a context. -/
def deliveryEntry (s : State) (p c : Nat) (len : Nat) : Bytes :=
  let x := ctxOf s p c
  leBytes 8 (ctxTag p c x.gen + 2 ^ 16 + x.slot % 16 * 2 ^ 24 + x.generation % 2 ^ 32 * 2 ^ 32)
    ++ leBytes 8 (deliveryAddr s p x % 2 ^ 48) ++ leBytes 8 (len % 2 ^ 32)

/-- R442 step 2: the delivery entry goes to the delivery vat's sequencer tile. -/
def deliveryPost (s : State) (p c : Nat) : State :=
  let x := ctxOf s p c
  let len := match ctxRequest s p x with | some r => r.len | none => 0
  let s := modCtx s p c fun x => { x with delivery := 1 }
  send s (admissionTile p) (.delivery p c x.retries)
    (mkPacket 4 (seqTile (bits (deliveryRecord s p x) 119 116)) x.partition (some (ctxTag p c x.gen)) 0 (deliveryEntry s p c len))

/-- R442 step 3: ADD VALUE 1 with RELEASE to the delivery cell. -/
def deliverySignal (s : State) (p c : Nat) : State :=
  let x := ctxOf s p c
  let cell := bits (deliveryRecord s p x) 255 208
  let dest := match decodeAddr cell with | some r => r.tile | none => 0
  let s := modCtx s p c fun x => { x with delivery := 3 }
  send s (admissionTile p) (.delivery p c x.retries)
    (mkPacket 3 dest x.partition (some (ctxTag p c x.gen)) cell (leBytes 16 (1 + 2 ^ 7 + 1 * 2 ^ 32)))

/-- The stomp bit of a tail's check value (bit [79] of Table 7.7). -/
def stompBit : BitVec 64 := BitVec.ofNat 64 (2 ^ 63)

/-- R442 step 1, R341: the engine writes the staged input to the delivery buffer. Where its CRC-32C no longer matches the value kept at
the fetch, the last packet's tail is stomped and STAGING_CRC is logged (R320). -/
def deliverInput (s : State) (p c : Nat) : State :=
  let x := ctxOf s p c
  match ctxRequest s p x with
  | none => s
  | some r =>
    let data := requestBytes s p r
    let base := deliveryAddr s p x
    let cuts := accessCuts base data.length
    let bad := crc32c data != r.crc
    let s := modCtx s p c fun x => { x with delivery := 0, inputLeft := cuts.length }
    let s := if bad then
        report (modInteg s fun g => { g with portIntegrity := tinc g.portIntegrity (8 * p + 1) 1 })
          { cause := 0x16, cls := 2, unit := 0x11, source := portFrontTile p, partition := some x.partition
            tag := some (ctxTag p c x.gen) }
      else s
    let s := cuts.zipIdx.foldl (fun s e =>
      let (a, n) := e.1
      let dest := match decodeAddr a with | some r => r.tile | none => 0
      let pkt := mkPacket 1 dest x.partition (some (ctxTag p c x.gen)) a (slice data (a - base) n)
      let pkt := if bad && e.2 + 1 == cuts.length then { pkt with checkValue := stompBit } else pkt
      send s (admissionTile p) (.admission p c x.retries) pkt) s
    if cuts.isEmpty then deliveryPost s p c else s

/-- Table 9.2, R341, R442: an attempt to deliver a request's input, delivery entry or signal failed. The rest of the attempt is not sent; while
the context is LIVE and the retry limit (OD 0x2611) is not reached, the engine delivers again; else DELIVERY_ABANDONED is logged. -/
def deliveryFailed (s : State) (p c attempt : Nat) : State :=
  let x := ctxOf s p c
  if x.retries = attempt && x.delivery != 2 then
    let s := purgeWaiting s (fun w => w.owner == .admission p c attempt || w.owner == .delivery p c attempt)
    if x.state = 1 && x.retries < setting s 0x2611 0 then
      let s := modInteg s fun g => { g with portIntegrity := tinc g.portIntegrity (8 * p + 5) 1 }
      deliverInput (modCtx s p c fun x => { x with retries := x.retries + 1 }) p c
    else
      let s := modCtx s p c fun x => { x with delivery := 2 }
      report s
        { cause := 0x79, cls := 2, unit := 0x12, source := admissionTile p, partition := some x.partition
          tag := some (ctxTag p c x.gen), detail := ctxTag p c x.gen }
  else s

/-- R212, R442: a packet of the delivery has been acknowledged as performed. -/
def deliveryAcked (s : State) (p c attempt : Nat) (input : Bool) (op : Nat) : State :=
  let x := ctxOf s p c
  if x.retries = attempt && x.delivery != 2 then
    if input then
      let s := modCtx s p c fun x => { x with inputLeft := x.inputLeft - 1 }
      if x.inputLeft ≤ 1 && x.delivery = 0 then (if x.state = 1 then deliveryPost s p c else s) else s
    else if op = 4 && x.delivery = 1 then (if x.state = 1 then deliverySignal s p c else s)
    else if op = 3 && x.delivery = 3 then modCtx s p c fun x => { x with delivery := 4 }
    else s
  else s

/-- R336: an initiator that has failed and not yet taken its fault. -/
def isFenced (s : State) : Initiator → Bool
  | .sequencer d => (seqOf s d).posted.isSome
  | _ => false

/-- R335, R339, Table 9.2: a packet's failure reaches the initiator that issued it. -/
def failAccess (s : State) (owner : Initiator) (pkt : Packet) (cause : Nat) (addr : Nat := pkt.addr.toNat) : State :=
  match owner with
  | .fibre d slice slot batch index tag =>
    let code := fibreFailCode pkt.opcode.toNat cause
    let s := purgeWaiting s (fun w => w.owner == owner)
    match fibreAt s d slice slot with
    | some x =>
      if x.batch = batch && x.index = index then fibreFault s d slice slot code
      else if isWriteOp pkt.opcode.toNat then
        if ((vatOf s d).batches.any (fun b => b.num == batch && b.faultedIdx.contains index)) then s
        else faultReport s d slice batch index tag code
      else s
    | none =>
      if isWriteOp pkt.opcode.toNat then
        if ((vatOf s d).batches.any (fun b => b.num == batch && b.faultedIdx.contains index)) then s
        else faultReport s d slice batch index tag code
      else s
  | .sequencer d =>
    let code := seqFailCode pkt.opcode.toNat cause
    if isWriteOp pkt.opcode.toNat then seqPosted s d code addr
    else
      let q := seqOf s d
      if q.state = 2 || q.state = 3 then seqTrap s d code addr else s
  | .admission p c k => deliveryFailed s p c k
  | .delivery p c k => deliveryFailed s p c k
  | .trace n =>
    modObs s fun o =>
      { o with stages := tmod o.stages n {} (fun x =>
          { x with dropped := x.dropped + (traceMsgs pkt.payload).length
                   droppedAt := if x.dropped = 0 then s.now else x.droppedAt }) }
  | .portFront _ => s
  | .responder _ => s
  | .multicast _ => s
  | .endpoint _ _ => s

end Sys2Proof.Machine
end

