-- ==== Sys2Proof/Machine/Fabric.lean ====
section
/-!
DEFINITION. Machine/Fabric.lean: the fabric between an initiator and a target (R236 to R274, R316 to R326): injection, streams at their
source, regulators, routers, and links.
-/
namespace Sys2Proof.Machine

/-- Table 17.2: the frequency limit of a setpoint in mV. -/
def opLimit (mv : Nat) : Nat :=
  if 900 ≤ mv then 1800000 else if 850 ≤ mv then 1700000 else if 800 ≤ mv then 1600000 else if 750 ≤ mv then 1350000
  else if 700 ≤ mv then 1100000 else 800000

/-- The rail of a die (Table 17.1). -/
def railOfDie (d : Nat) : Nat := if d < 16 then d else 16

def railOf (s : State) (r : Nat) : Rail := tgetD s.pow.rails r {}

/-- R605, R606: the operating-point limit that a rail sets: while a new setpoint is awaited, and after a failed command, the lower of the two. -/
def railLimit (s : State) (r : Nat) : Nat :=
  let x := railOf s r
  let base := match x.settle with
    | some (mv, _) => Nat.min (opLimit x.setpoint) (opLimit mv)
    | none => opLimit x.setpoint
  match x.cap with
  | some c => Nat.min base c
  | none => base

/-- R359, R605, R607, R609, R611: a die's frequency in kHz without the droop response: the lowest of its limits. -/
def dieLimit (s : State) (d : Nat) : Nat :=
  let f := Nat.min (setting s 0x2801 (d + 1)) (railLimit s (railOfDie d))
  let f := Nat.min f (tgetD s.pow.governor d f)
  let f := Nat.min f (tgetD s.pow.thermal d f)
  if s.pow.throttle then Nat.min f (if d < 16 then setting s 0x9063 0 else 800000) else f

/-- Frequency in kHz of a die's router tiles (R359, R360, R607): half of it while the droop response lasts. -/
def dieKHz (s : State) (d : Nat) : Nat := if (tget s.pow.droop d).isSome then dieLimit s d / 2 else dieLimit s d

/-- Island cycles that a die's tiles have run since tick 0, at the frequency in force. -/
def dieCycles (s : State) (d : Nat) : Nat := s.now * dieKHz s d / 1000000

/-- Counters of a die, by 8 × die + index. -/
def streamStat (s : State) (node i : Nat) : State :=
  modFab s fun f => { f with streamStats := tinc f.streamStats (8 * dieOf node + i) 1 }

def streamError (s : State) (node i : Nat) : State :=
  modInteg s fun g => { g with streamErrors := tinc g.streamErrors (8 * dieOf node + i) 1 }

/-- R535: the initiator class of a packet on its tile. -/
def initClass (node : Nat) (o : Initiator) : Nat :=
  if dieOf node < 16 then
    match o with
    | .sequencer _ => 1
    | .endpoint _ _ => 2
    | .trace _ => 2
    | .multicast _ => 3
    | _ => 0
  else 0

/-- Table 15.2: the counter of an injection block. -/
def injectKey (node cls part i : Nat) : Nat := ((node * 4 + cls) * 16 + part) * 19 + i

def injectCount (s : State) (node : Nat) (o : Initiator) (part i k : Nat) : State :=
  modObs s fun b => { b with inject := tinc b.inject (injectKey node (initClass node o) part i) k }

/-- R536: the histogram bin of a latency. -/
def latencyBin (l : Nat) : Nat :=
  if l < 64 then 0 else if 1048576 ≤ l then 15 else
    ((List.range 15).find? (fun b => decide (l < 64 * 2 ^ b))).getD 14

/-- R536: a measured packet's second tick has come. -/
def latencyDone (s : State) (node : Nat) (o : Initiator) (part stream sgen seq : Nat) : State :=
  let l := tgetD s.obs.sentAt node []
  match l.find? (fun e => e.1 == stream && e.2.1 == sgen && e.2.2.1 == seq) with
  | none => s
  | some e =>
    let s := modObs s fun b =>
      { b with sentAt := tput b.sentAt node (l.filter (fun e => !(e.1 == stream && e.2.1 == sgen && e.2.2.1 == seq))) }
    injectCount s node o part (3 + latencyBin (s.now - e.2.2.2)) 1

/-- A packet that fails or is refused is not entered in a histogram (R536). -/
def latencyDrop (s : State) (node stream sgen seq : Nat) : State :=
  modObs s fun b =>
    { b with sentAt := tmod b.sentAt node [] (fun l => l.filter (fun e => !(e.1 == stream && e.2.1 == sgen && e.2.2.1 == seq))) }

/-- Table 8.4: group g's record in a bank, and its fields. -/
def mcRecord (b : Bank) (g : Nat) : Nat := leNat (bankValue b.cfg (0x2400 + g / 4) (g % 4 + 1))
def mcEn (r : Nat) : Bool := bitAt r 0
def mcSequenced (r : Nat) : Bool := bitAt r 1
def mcRoot (r : Nat) : Nat := bits r 107 96
def mcPart (r : Nat) : Nat := bits r 111 108
def mcMembers (r : Nat) : List Nat := (List.range 16).filter (fun d => bitAt r (112 + d))

/-- The keys of a range that a bank gives a value, in its ground or by an overlay of its active tint, in rising order. -/
def bankKeys (cfg : Table Bytes) (lo hi : Nat) : List Nat :=
  let ground := (cfg.map (·.1)).filter (fun k => decide (lo ≤ k) && decide (k ≤ hi))
  let tint := ((overlays cfg (bankTint cfg)).map overlayTarget).filter (fun k => decide (lo ≤ k) && decide (k ≤ hi) && !ground.contains k)
  (ground ++ tint).mergeSort (fun a b => decide (a ≤ b))

/-- The groups whose records a bank holds, in rising order: an entry of OD 0x2400 + g div 4, subindex g mod 4 + 1. -/
def mcListed (b : Bank) : List Nat :=
  (bankKeys b.cfg (odKey 0x2400 0) (odKey 0x24FF 255)).map (fun k => 4 * (k / 256 - 0x2400) + k % 256 - 1)

/-- The enabled groups that a tile roots (R277). -/
def mcRooted (b : Bank) (node : Nat) : List Nat :=
  (mcListed b).filter (fun g => let r := mcRecord b g; mcEn r && mcRoot r == node)

/-- R277, R287: the root's tracker of a group: its rooted groups hold the highest trackers, in rising group order (DESIGN CHOICE,
notes/assumptions/23.md). -/
def mcTracker (b : Bank) (node g : Nat) : Nat := 63 - (mcRooted b node).idxOf g

/-- The trackers that a tile's streams may use. -/
def streamSlots (s : State) (node : Nat) : Nat := 64 - Nat.min 8 (mcRooted (tileBank s node) node).length

/-- Trackers are keyed by 64 × node + index. -/
def trackerOf (s : State) (node i : Nat) : Tracker := tgetD s.fab.trackers (64 * node + i) {}

def putTracker (s : State) (node i : Nat) (t : Tracker) : State :=
  modFab s fun f => { f with trackers := tput f.trackers (64 * node + i) t }

/-- The open stream of a tile to a destination in a class. -/
def streamTo (s : State) (node dest cls : Nat) : Option Nat :=
  (List.range 64).find? (fun i => let t := trackerOf s node i; t.inUse && t.dest == dest && t.cls == cls)

/-- Packets sent and neither acknowledged nor reported refused. -/
def Tracker.live (t : Tracker) : List Unacked := t.unacked.filter (fun u => !u.refused)

/-- Where a new stream may open: a free tracker, else the lowest open one with nothing unacknowledged, which is closed first (R258; which one
is left open: DESIGN CHOICE, notes/assumptions/21.md). -/
def trackerFor (s : State) (node : Nat) : Option (Nat × Bool) :=
  match (List.range (streamSlots s node)).find? (fun i => !(trackerOf s node i).inUse) with
  | some i => some (i, false)
  | none => ((List.range (streamSlots s node)).find? (fun i => (trackerOf s node i).unacked.isEmpty)).map (fun i => (i, true))

/-- R268: the partition whose settings regulate a vat tile is the owner of its die; a deckle tile uses OD 0x2100. -/
def regSetting (s : State) (node tc : Nat) : Nat :=
  let b := tileBank s node
  let d := dieOf node
  if d < 16 then bankNat b (0x2110 + vatOwner b.cfg d) (tc + 1) else bankNat b 0x2100 (tc + 1)

/-- R269: the tokens of a bucket now, in 10⁻⁹ tokens: those held, gained evenly, at most the burst. -/
def bucketNow (s : State) (node tc : Nat) : Int :=
  let r := regSetting s node tc
  let burst : Int := Int.ofNat (bits r 31 16) * 1000000000
  match tget s.fab.buckets (8 * node + tc) with
  | none => burst
  | some b => min burst (b.tokens + Int.ofNat ((s.now - b.at_) * dieKHz s (dieOf node) * bits r 15 0))

/-- The class is regulated and its bucket holds less than 1 token. -/
def held (s : State) (node tc : Nat) : Bool :=
  decide (bits (regSetting s node tc) 15 0 < 1000) && decide (bucketNow s node tc < 1000000000)

/-- R269: all flits of a packet are debited. -/
def debit (s : State) (node tc flits : Nat) : State :=
  if bits (regSetting s node tc) 15 0 < 1000 then
    let b := bucketNow s node tc - Int.ofNat flits * 1000000000
    modFab s fun f => { f with buckets := tput f.buckets (8 * node + tc) { tokens := b, at_ := s.now } }
  else s

/-- The stamp, route and check value that a packet gets at injection (R248, R316). A check value already marked as stomped stays so. -/
def stamp (p : Packet) (epoch : Nat) (route : Nat × Option Nat) : Packet :=
  { p with
    epoch := BitVec.ofNat 2 epoch
    rset := BitVec.ofNat 2 route.1
    wpValid := route.2.isSome
    waypoint := BitVec.ofNat 12 (route.2.getD 0)
    checkValue := (p.checkValue &&& stompBit) |||
      (if p.check = 1 then BitVec.ofNat 64 (crc32c p.payload) else if p.check = 2 then p.checkValue else 0) }

/-- R243: the virtual channel of a packet. -/
def vcOf (p : Packet) : Nat :=
  if 0x50 ≤ p.opcode.toNat && p.opcode.toNat ≤ 0x53 then 15 else 3 * p.mclass.toNat + p.rset.toNat

/-- A packet enters the router of its own tile at the local input. -/
def enterNet (s : State) (node : Nat) (p : Packet) (relay : Option Nat := none) : State :=
  modFab s fun f => { f with net := f.net ++ [{ node := node, port := 0, vc := vcOf p, pkt := p, relay := relay }] }

/-- A packet has entered the fabric: it leaves the waiting list, pays its regulator, and is counted (R535). -/
def injected (s : State) (node : Nat) (o : OutPacket) (p : Packet) (relay : Option Nat := none) : State :=
  let s := if vcOf p = 15 then s else debit s node p.tc.toNat p.flits
  let s := injectCount s node o.owner p.partition.toNat 0 1
  let s := injectCount s node o.owner p.partition.toNat 1 p.payload.length
  enterNet s node p relay

/-- Table 7.1, R241, R242: the packet's message class and traffic class are a pairing of its opcode. A response takes the traffic class of
the request it answers; group 511 travels on TC7. -/
def pairingOk (p : Packet) : Bool :=
  let op := p.opcode.toNat
  match opClass op with
  | none => false
  | some c =>
    p.mclass.toNat == c &&
      (if c = 2 then (if op = 0x21 then p.tc == 1 else if op = 0x22 then decide (1 ≤ p.tc.toNat) && decide (p.tc.toNat ≤ 6)
        else p.tc == 2 || p.tc == 3)
       else if c = 4 then p.tc == 5 || (p.tc == 7 && bits p.aux.toNat 8 0 == 511)
       else p.tc.toNat == opTc op p.tagValid)

/-- A route is missing: OOS or NOROUTE (Table 7.10), as a cause. -/
def routeCause (b : Bank) (node dest : Nat) : Nat := match bankRoute b node (dieOf dest) with | .oos => 0x24 | _ => 0x25

/-- R324, R332: the entry of a configuration table is unusable: table kinds 0 source, 1 window, 2 mask, 3 receiver, 4 reduction context. -/
def tableBad (s : State) (node kind entry : Nat) : Bool := s.integ.badTables.contains (node, kind, entry)

/-- Table 8.5: the receiver entries of vat d in a bank, enabled ones only. -/
def receivers (b : Bank) (d : Nat) : List Nat :=
  let v := bankValue b.cfg (0x2500 + d) 0
  ((List.range (v.length / 16)).map (fun k => field v (16 * k) 16)).filter (fun e => bitAt e 21)

/-- R278: the tiles of vat d that receive group g, and all tiles of its members that do. -/
def mcTilesOf (b : Bank) (g d : Nat) : List Nat :=
  (((receivers b d).filter (fun e => bits e 63 54 == g)).map (fun e => nodeAt d (bits e 53 48))).eraseDups
def mcTiles (b : Bank) (g : Nat) : List Nat := (mcMembers (mcRecord b g)).flatMap (mcTilesOf b g)

/-- R280: the XY path from the root to a receiver tile touches a die out of service in the bank. -/
def mcNoTree (b : Bank) (g : Nat) : Bool :=
  !(mcTiles b g).all (fun t => pathClear (bankOut b) b.badLinks 0 (mcRoot (mcRecord b g)) t)

/-- A group's state at its root. -/
def mcOf (s : State) (g : Nat) : McGroup := tgetD s.vs.mc g {}
def modMc (s : State) (g : Nat) (f : McGroup → McGroup) : State := modVs s fun v => { v with mc := tmod v.mc g {} f }

/-- R282: why a root refuses a packet for a group: MC_PARTITION, or MC_GROUP_OFF for a group that is disabled, NOTREE or rooted elsewhere. -/
def mcRefusal (s : State) (node g part : Nat) : Option Nat :=
  let b := tileBank s node
  let r := mcRecord b g
  if !mcEn r || mcRoot r != node || mcNoTree b g then some 0x43 else if mcPart r != part then some 0x42 else none

/-- Table 9.7: the unit that relays at a root tile. -/
def rootUnit (node : Nat) : Nat := if dieOf node < 16 then 1 else 0x15

/-- R283: 256 deliveries of the group await acknowledgement. -/
def mcWindowFull (s : State) (g : Nat) : Bool := decide (256 ≤ (mcOf s g).pending.length)

/-- Table 8.7: ADDR of an MC_DELIVER. -/
def mcDeliverAddr (r dseq position : Nat) : Nat :=
  (if mcSequenced r then dseq / 65536 % 65536 * 2 ^ 32 else 0) + position % 2 ^ 32

/-- R283, R309: the root assigns the next DSEQ and injects one MC_DELIVER; it waits for every unpruned member. The source is local_, or the
packet's own. -/
def mcRelay (s : State) (node g : Nat) (p : Packet) (local_ : Option Initiator) : State :=
  let b := tileBank s node
  let r := mcRecord b g
  let grp := mcOf s g
  let dseq := grp.nextDseq
  let members := (mcMembers r).filter (fun d => !grp.pruned.contains d)
  let pkt :=
    { mkPacket 0x61 node (mcPart r) p.tagOpt (mcDeliverAddr r dseq (p.addr.toNat % 2 ^ 32)) p.payload with
      stream := BitVec.ofNat 6 (mcTracker b node g), sgen := BitVec.ofNat 10 grp.generation, seq := BitVec.ofNat 16 dseq
      aux := BitVec.ofNat 32 g, poison := p.poison }
  let e : McPending :=
    { dseq := dseq, src := p.src.toNat, stream := p.stream.toNat, sgen := p.sgen.toNat, seq := p.seq.toNat, local_ := local_
      waiting := members, epoch := tileEpoch s node, at_ := s.now }
  let s := modMc s g fun x =>
    { x with nextDseq := (dseq + 1) % 2 ^ 32, pending := if members.isEmpty then x.pending else x.pending ++ [e] }
  send s node (.multicast g) pkt

/-- What the injection port can do with a waiting packet now. -/
inductive InjectAct where
  | wait
  /-- it waits for a tracker, which R258 counts -/
  | waitTracker
  /-- its access fails: cause, logged here, counted as OOS or NOROUTE -/
  | fail (cause detail : Nat) (log : Bool)
  /-- dropped without a failure (a CTL packet without a route) -/
  | drop
  /-- outside the streams: epoch and route -/
  | plain (epoch : Nat) (route : Nat × Option Nat)
  /-- escape packet: final destination if it is relayed, and the tile it goes to -/
  | escape (dst : Nat) (relay : Option Nat)
  /-- on an open stream -/
  | stream (i epoch : Nat) (route : Nat × Option Nat)
  /-- a multicast packet of a source on the root tile enters the relay (R281) -/
  | relay
  /-- opens a stream on a tracker, which is closed first if it is in use -/
  | openOn (i : Nat) (close : Bool) (epoch : Nat) (route : Nat × Option Nat)
  deriving DecidableEq, Repr

/-- R258, R461: the decision for a stream packet that is otherwise in order. -/
def streamAct (s : State) (node : Nat) (p : Packet) : InjectAct :=
  let dest := p.dest.toNat
  let now := tileEpoch s node
  let go := fun (i : Option Nat) (epoch : Nat) =>
    let b := (bankOfEpoch s epoch).getD s.ep.cur
    if tableBad s node 0 (dieOf dest) then InjectAct.fail 0x35 0 true
    else match routeFor b node dest with
      | none => .fail (routeCause b node dest) (dieOf dest) true
      | some r =>
        if p.opcode = 0x60 && r.2.isSome then .fail 0x25 (dieOf dest) true
        else if held s node p.tc.toNat then .wait
        else match i with
          | some i => .stream i epoch r
          | none => match trackerFor s node with
            | none => .waitTracker
            | some (i, c) => .openOn i c epoch r
  match streamTo s node dest p.mclass.toNat with
  | some i =>
    let t := trackerOf s node i
    if t.epoch != now then (if t.unacked.isEmpty then go (some i) now else .wait)
    else if t.opening || decide (256 ≤ t.live.length) then .wait
    else go (some i) now
  | none => go none now

/-- R241, R42, R251, R336, R248: what happens to a waiting packet. A sync operation with RELEASE waits for its initiator's earlier writes
(R123). A fibre or sequencer of a vat that no partition owns injects nothing but CTL packets (R450). -/
def injectAct (s : State) (node : Nat) (o : OutPacket) : InjectAct :=
  let p := o.pkt
  let op := p.opcode.toNat
  let dest := p.dest.toNat
  if isFenced s o.owner then .fail 0x23 0 false
  else if !pairingOk p then .fail 0x27 op true
  else if (locateNode dest).isNone then .fail 0x26 dest true
  else if 0x50 ≤ op && op ≤ 0x53 then
    if escapeDirect s node dest then .escape dest none
    else match (List.range 20).find? (fun d =>
        escapeDirect s node (serviceTile d) && escapeDirect s (serviceTile d) dest && serviceTile d != node) with
      | some d => .escape (serviceTile d) (some dest)
      | none => .wait
  else if p.mclass = 0 then
    let e := tileEpoch s node
    let b := (bankOfEpoch s e).getD s.ep.cur
    match routeFor b node dest with
    | none => .drop
    | some r => if held s node p.tc.toNat then .wait else .plain e r
  else if op = 0x60 && dest == node then
    (if mcWindowFull s (bits p.aux.toNat 9 0) && (mcRefusal s node (bits p.aux.toNat 9 0) p.partition.toNat).isNone then .wait else .relay)
  else if op = 0x61 then (if held s node p.tc.toNat then .wait else .plain (tileEpoch s node) (2, none))
  else if p.mclass = 4 then (if held s node p.tc.toNat then .wait else .plain (tileEpoch s node) (0, none))
  else if op = 3 && bitAt (field p.payload 0 1) 7 && writesOut s (· == o.owner) then .wait
  else if dieOf node < 16 && op != 5 && vatOwner (tileBank s node).cfg (dieOf node) = 0 &&
      (match o.owner with | .fibre _ _ _ _ _ _ => true | .sequencer _ => true | _ => false) then .wait
  else streamAct s node p

/-- R265: an initiator on the tile waits for this packet's acknowledgement. -/
def wantsAckNow (s : State) (node : Nat) (o : OutPacket) : Bool :=
  let rest := tgetD s.fab.waiting node []
  rest.any (fun w => w.owner == o.owner && w.pkt.opcode == 3 && bitAt (field w.pkt.payload 0 1) 7) ||
    (match o.owner with
     | .admission _ _ _ => true
     | .fibre d slice slot _ _ _ => (fibreAt s d slice slot).isNone
     | .sequencer d => decide (31 ≤ writesCount s o.owner) || (seqOf s d).starting
     | _ => false)

/-- The CLOSE of a stream (R266): STREAM and SGEN of the header name it (Table 7.5). -/
def closePacket (t : Tracker) (i : Nat) : Packet :=
  { mkPacket 0x42 t.dest 0 none 0 [] with stream := BitVec.ofNat 6 i, sgen := BitVec.ofNat 10 t.sgen }

/-- R258, R266: the port closes a stream that has nothing unacknowledged. -/
def closeStream (s : State) (node i : Nat) : State :=
  let t := trackerOf s node i
  let s := send s node (.endpoint (dieOf node) 1) (closePacket t i)
  let s := putTracker s node i { t with inUse := false, refusals := 0, refusedAddr := none }
  streamStat s node 2

/-- The partition that a fibre's or sequencer's packet carries: the owner of its die in the epoch stamped (Table 13.1). -/
def stampPartition (s : State) (node : Nat) (o : Initiator) (epoch : Nat) (p : Packet) : Packet :=
  let own := BitVec.ofNat 4 (vatOwner ((bankOfEpoch s epoch).getD s.ep.cur).cfg (dieOf node))
  match o with
  | .fibre _ _ _ _ _ _ => { p with partition := own }
  | .sequencer _ => { p with partition := own }
  | _ => p

/-- R253: the response buffer of a request. -/
def expectOf (o : OutPacket) (p : Packet) : Option Expect :=
  let op := p.opcode.toNat
  if op = 2 || op = 3 || op = 6 then
    some
      { stream := p.stream.toNat, sgen := p.sgen.toNat, seq := p.seq.toNat, opcode := op, addr := p.addr.toNat
        len := if op = 2 then bits p.aux.toNat 12 0 else 16, owner := o.owner }
  else none

/-- A stream packet is sent on tracker i with its SEQ; the source keeps it until it is acknowledged. -/
def sendOn (s : State) (node i : Nat) (o : OutPacket) (epoch : Nat) (route : Nat × Option Nat) (opening : Bool) : State :=
  let t := trackerOf s node i
  let p := stampPartition s node o.owner epoch (stamp o.pkt epoch route)
  let p :=
    { p with
      src := BitVec.ofNat 12 node, stream := BitVec.ofNat 6 i, sgen := BitVec.ofNat 10 t.sgen
      seq := BitVec.ofNat 16 t.nextSeq, opening := opening, ackNow := wantsAckNow s node o }
  let t :=
    { t with
      epoch := epoch
      nextSeq := (t.nextSeq + 1) % 65536
      opening := opening
      advancedAt := if t.live.isEmpty then s.now else t.advancedAt
      unacked := t.unacked ++ [{ seq := p.seq.toNat, pkt := p, owner := o.owner }] }
  let s := putTracker s node i t
  let s := match expectOf o p with
    | none => s
    | some e => modFab s fun f => { f with expects := tmod f.expects node [] (· ++ [e]) }
  let s := if p.mclass = 1 then
      modObs s fun b => { b with sentAt := tmod b.sentAt node [] (· ++ [(i, t.sgen, p.seq.toNat, s.now)]) }
    else s
  injected s node o p

/-- R259: a tracker takes a new generation for a stream. -/
def openTracker (s : State) (node i dest cls epoch : Nat) : State :=
  let t := trackerOf s node i
  let s := streamStat s node 0
  putTracker s node i
    { inUse := true, sgen := (t.sgen + 1) % 1024, dest := dest, cls := cls, epoch := epoch, nextSeq := 0, opening := true
      unacked := [], advancedAt := s.now, idleSince := s.now }

/-- The packets of a waiting list that no earlier one of the same destination and class holds back (R267), in order. -/
def injectable (l : List OutPacket) : List (Nat × OutPacket) :=
  (l.zipIdx.filter (fun e =>
    !(l.take e.2).any (fun o => o.pkt.dest == e.1.pkt.dest && o.pkt.mclass == e.1.pkt.mclass && o.pkt.mclass != 0))).map
    (fun e => (e.2, e.1))

/-- What a decision does. -/
def doInject (s : State) (node idx : Nat) (o : OutPacket) (a : InjectAct) : State :=
  let take := fun s : State => modFab s fun f => { f with waiting := tmod f.waiting node [] (fun l => l.eraseIdx idx) }
  match a with
  | .wait => s
  | .waitTracker =>
    if o.counted then s
    else streamStat
      (modFab s fun f => { f with waiting := tmod f.waiting node [] (fun l => lmod l idx (fun o => { o with counted := true })) }) node 4
  | .fail cause detail log =>
    let s := take s
    let s := if cause = 0x24 || cause = 0x25 then streamStat s node 3 else s
    let s := streamError s node 5
    let s := if log then reportPkt s cause 1 node { o.pkt with src := BitVec.ofNat 12 node } detail else s
    failAccess s o.owner o.pkt cause
  | .drop => take s
  | .plain e r => injected (take s) node o { stamp o.pkt e r with src := BitVec.ofNat 12 node }
  | .escape dst relay =>
    injected (take s) node o
      { stamp o.pkt (tileEpoch s node) (0, none) with src := BitVec.ofNat 12 node, dest := BitVec.ofNat 12 dst } relay
  | .stream i e r => sendOn (take s) node i o e r false
  | .relay =>
    let s := take s
    let g := bits o.pkt.aux.toNat 9 0
    (match mcRefusal s node g o.pkt.partition.toNat with
     | some cause => failAccess (reportPkt s cause (rootUnit node) node { o.pkt with src := BitVec.ofNat 12 node } g) o.owner o.pkt cause
     | none => mcRelay s node g o.pkt (some o.owner))
  | .openOn i c e r =>
    let s := take s
    let s := if c then closeStream s node i else s
    sendOn (openTracker s node i o.pkt.dest.toNat o.pkt.mclass.toNat e) node i o e r true

/-- A sequencer whose MCAST or START waits on its packets goes on. -/
def settleSeq (s : State) (d : Nat) : State := seqSettle (mcastSettle s d) d

/-- The port acts on the first waiting packet that it can act on; a wait for a tracker is counted on the way. -/
def injectFirst (s : State) (node : Nat) : State :=
  let l := injectable (tgetD s.fab.waiting node [])
  match l.find? (fun e => injectAct s node e.2 != .wait && injectAct s node e.2 != .waitTracker) with
  | some e =>
    let s := doInject s node e.1 e.2 (injectAct s node e.2)
    if dieOf node < 16 then settleSeq s (dieOf node) else s
  | none =>
    match l.find? (fun e => injectAct s node e.2 == .waitTracker && !e.2.counted) with
    | some e => doInject s node e.1 e.2 .waitTracker
    | none => s

/-- R236 to R269 (PACKET_INJECT): an initiator's packet, if one is given, joins those that wait at the tile's injection port, and the port
injects the first that may enter. -/
def execPacketInject (node : NodeId) (p : Option OutPacket) (s : State) : Host.Outcome State Fault Refusal :=
  if (locateNode node.toNat).isNone then .next s
  else
    let s := match p with | some o => send s node.toNat o.owner o.pkt | none => s
    .next (injectFirst s node.toNat)

/-- The first tick at which a bucket of a tile holds 1 token. -/
def releaseTick (s : State) (node tc : Nat) : Nat :=
  let need := 1000000000 - bucketNow s node tc
  let gain := dieKHz s (dieOf node) * bits (regSetting s node tc) 15 0
  if need ≤ 0 || gain = 0 then s.now else s.now + (need.toNat + gain - 1) / gain

/-- R267 to R269 (REGULATOR_RELEASE): the bucket that holds back the first waiting packet has gained its token, and the port goes on. -/
def execRegulatorRelease (node : NodeId) (s : State) : Host.Outcome State Fault Refusal :=
  let n := node.toNat
  match (injectable (tgetD s.fab.waiting n [])).find? (fun e => held s n e.2.pkt.tc.toNat) with
  | none => .next s
  | some e => .next (injectFirst (timeReaches s (releaseTick s n e.2.pkt.tc.toNat)) n)

/-- R263: acknowledged packets leave a source's list; each one's initiator is told, and its latency measured. -/
def ackOne (s : State) (node i : Nat) (u : Unacked) : State :=
  let t := trackerOf s node i
  let s := if u.pkt.opcode = 1 || u.pkt.opcode = 4 || u.pkt.opcode = 5 || u.pkt.opcode = 0x60 then
      latencyDone s node u.owner u.pkt.partition.toNat i t.sgen u.seq
    else s
  match u.owner with
  | .admission p c k => deliveryAcked s p c k true u.pkt.opcode.toNat
  | .delivery p c k => deliveryAcked s p c k false u.pkt.opcode.toNat
  | .fibre d slice slot batch index _ =>
    match fibreAt s d slice slot with
    | some x =>
      if u.pkt.opcode = 6 && x.wait == some .report && x.batch = batch && x.index = index then finishOp s d slice slot else s
    | none => s
  | _ => s

/-- R335: the failure of one packet of a stream reaches its initiator. -/
def failOne (s : State) (node i : Nat) (u : Unacked) (cause : Nat) : State :=
  let s := streamError s node 5
  let s := latencyDrop s node i (trackerOf s node i).sgen u.seq
  let s := modFab s fun f =>
    { f with expects := tmod f.expects node [] (fun l =>
        l.filter (fun e => !(e.stream == i && e.sgen == u.pkt.sgen.toNat && e.seq == u.seq))) }
  failAccess s u.owner u.pkt cause

/-- R335: the source ends the stream's generation at the packet with this SEQ: those before it count as performed, it fails with the cause,
every later packet, sent or queued, with DISCARDED. The tracker is free for a new generation. -/
def endStream (s : State) (node i seq cause : Nat) : State :=
  let t := trackerOf s node i
  let before := t.unacked.takeWhile (fun u => u.seq != seq)
  let rest := t.unacked.drop before.length
  if rest.isEmpty then s
  else
    let s := putTracker s node i { t with inUse := false, unacked := [], opening := false, rxFullAt := none }
    let queued := (tgetD s.fab.waiting node []).filter
      (fun o => o.pkt.dest.toNat == t.dest && o.pkt.mclass.toNat == t.cls && o.pkt.mclass != 0)
    let s := purgeWaiting s (fun o => o.pkt.src.toNat == node && o.pkt.dest.toNat == t.dest && o.pkt.mclass.toNat == t.cls && o.pkt.mclass != 0)
    let s := before.foldl (fun s u => if u.refused then s else ackOne s node i u) s
    let s := match rest with
      | [] => s
      | u :: later =>
        let s := failOne s node i u cause
        later.foldl (fun s u => failOne s node i u 0x23) s
    queued.foldl (fun s o => failAccess (streamError s node 5) o.owner o.pkt 0x23) s

/-- R263, R339: one acknowledgement entry reaches a stream's source. -/
def ackEntry (s : State) (node : Nat) (e : Nat) : State :=
  let i := bits e 5 0
  let sgen := bits e 15 6
  let seq := bits e 31 16
  let status := bits e 33 32
  let t := trackerOf s node i
  if !t.inUse || t.sgen != sgen then s
  else if !(t.unacked.any (fun u => u.seq == seq)) then s
  else if status = 1 then endStream s node i seq 0x10
  else
    let upto := t.unacked.takeWhile (fun u => u.seq != seq)
    let done := if status = 0 then t.unacked.take (upto.length + 1) else upto
    let rest := t.unacked.drop done.length
    let rest := if status = 2 then rest.map (fun u => if u.seq = seq then { u with refused := true } else u) else rest
    let kept := done.filter (·.refused)
    let s := putTracker s node i
      { t with
        unacked := kept ++ rest, opening := false, rxFullAt := none, advancedAt := s.now
        idleSince := if (kept ++ rest).isEmpty then s.now else t.idleSince }
    (done.filter (fun u => !u.refused)).foldl (fun s u => ackOne s node i u) s

/-- Sequencers whose START waits on these acknowledgements go on (R198). -/
def settleAll (s : State) : State := (List.range 16).foldl settleSeq s

/-- A tile's copy of a packet that has reached its local port is taken. A packet that has come by the fabric is taken only behind the earlier
ones of its stream (R250). -/
def takeArrived (s : State) (node : Nat) (p : Packet) : Option State :=
  let l := tgetD s.fab.arrived node []
  if l.contains p then
    match l.find? (fun x => x.src == p.src && x.stream == p.stream && x.mclass == p.mclass) with
    | some x => if x == p then some (modFab s fun f => { f with arrived := tput f.arrived node (dropFirst (· == p) l) }) else none
    | none => some s
  else some s

/-- The tile can act: it is a tile of a die that is not in reset or out of service (R43). -/
def tileUp (s : State) (node : Nat) : Bool :=
  (locateNode node).isSome && !s.pow.lost.contains (dieOf node) && !s.time.dieReset.contains (dieOf node)

/-- A command that a packet's arrival is: at a tile that can act, for a packet of the expected opcode addressed to it. -/
def onArrival (node : NodeId) (p : Packet) (ops : List Nat) (s : State) (f : State → State) : Host.Outcome State Fault Refusal :=
  if tileUp s node.toNat && ops.contains p.opcode.toNat && p.dest == node then
    match takeArrived s node.toNat p with
    | some s => .next (f s)
    | none => .next s
  else .next s

/-- The 8-byte entries of an ACK packet. -/
def ackEntries (b : Bytes) : List Nat := (List.range (Nat.min 8 (b.length / 8))).map (fun k => field b (8 * k) 8)

/-! ### Links -/

/-- R372, R373: a side of a tile's boundary enters FENCED. -/
def fenceSide (s : State) (node port : Nat) : State :=
  let b := tgetD s.time.bounds (8 * node + port) {}
  if b.state = 1 then s
  else modTime s fun t =>
    { t with
      bounds := tput t.bounds (8 * node + port) { b with state := 1, fences := b.fences + 1 }
      counts := bump t.counts 0 }

/-- Both sides of the boundary at a tile's port. -/
def fenceBoth (s : State) (node port : Nat) : State :=
  match neighbour node port with
  | some m => fenceSide (fenceSide s node port) m (opposite port)
  | none => fenceSide s node port

/-- R274, R326, R331, R372: a link in service fails: its state is FAILED and its boundary FENCED, and the failure is logged. -/
def failLink (s : State) (node port cause : Nat) : State :=
  let s := fenceBoth (modFab s fun f => { f with links := tput f.links (linkKey node port) 5 }) node port
  let peer := (neighbour node port).getD 0
  let s := modEp s fun e => { e with repairDue := true }
  let s := event s node 1 0x29 0 (5 * 2 ^ 4 + port)
  report s { cause := cause, cls := 2, unit := 1, source := node, detail := port, peer := some peer }

/-- R255, Table 7.3: flits that the input buffer of a channel holds. -/
def bufferDepth (node port vc : Nat) : Nat := if vc = 15 then 2 else if port ≠ 0 && isDieLink node port then 20 else 4

/-- Flits queued in an input channel. -/
def bufferUse (s : State) (node port vc : Nat) : Nat :=
  ((s.fab.net.filter (fun x => x.node == node && x.port == port && x.vc == vc)).map (fun x => x.pkt.flits)).sum

/-- R245, R255: the next hop can take a packet's flits: its channel is empty, or they all fit (a packet moves whole in one command: DESIGN
CHOICE, notes/assumptions/22.md). -/
def hasCredit (s : State) (node port vc flits : Nat) : Bool :=
  let u := bufferUse s node port vc
  u == 0 || decide (u + flits ≤ bufferDepth node port vc)

/-- R246, R247: a packet as it stands at a router, its waypoint passed where this is it. -/
def atRouter (node : Nat) (p : Packet) : Packet :=
  if p.wpValid && p.waypoint.toNat = node then { p with wpValid := false, rset := 2 } else p

/-- R246: the output port of a packet at a router; 0 is local. -/
def outPort (node : Nat) (p : Packet) : Nat :=
  if p.wpValid then stepPort p.rset.toNat node p.waypoint.toNat
  else if p.dest.toNat = node then 0 else stepPort p.rset.toNat node p.dest.toNat

/-- R324: a router cannot route this header. An epoch for which it holds no bank counts as one (R464). -/
def headerBad (s : State) (p : Packet) : Bool :=
  p.rset == 3 || decide (4 < p.mclass.toNat) || opClass p.opcode.toNat != some p.mclass.toNat || (bankOfEpoch s p.epoch.toNat).isNone

/-- Priority of a packet at an output (R244): the escape channel, TC7, TC0, TC1, then TC2 to TC6. -/
def outPriority (vc : Nat) (p : Packet) : Nat :=
  if vc = 15 then 0 else if p.tc = 7 then 1 else if p.tc = 0 then 2 else if p.tc = 1 then 3 else 4

/-- The head packet of each other channel of a router that wants an output. -/
def rivals (s : State) (node port vc out : Nat) : List Flight :=
  let heads := s.fab.net.filter (fun x => x.node == node &&
    (s.fab.net.find? (fun y => y.node == node && y.port == x.port && y.vc == x.vc)) == some x)
  heads.filter (fun x => !(x.port == port && x.vc == vc) && outPort node (atRouter node x.pkt) == out)

/-- R244: TC6 has room in the output's window of 1,000 cycles. -/
def tc6Room (s : State) (node out flits : Nat) : Bool :=
  let w := dieCycles s (dieOf node) / 1000
  match tget s.fab.tc6 (8 * node + out) with
  | some (w', n) => w' != w || n == 0 || decide (n + flits ≤ setting s 0x2003 0)
  | none => true

/-- R244: the packet is granted its output: no rival of a stricter class, and within TC2 to TC6 none that is behind its weighted share. -/
def granted (s : State) (node out : Nat) (vc : Nat) (p : Packet) (riv : List Flight) : Bool :=
  let mine := outPriority vc p
  let share := fun tc : Nat => tgetD s.fab.deficits (64 * node + 8 * out + tc) 0
  let weight := fun tc : Nat => setting s 0x2002 (tc - 1)
  (p.tc != 6 || vc = 15 || tc6Room s node out p.flits) &&
    riv.all (fun x =>
      let other := outPriority x.vc x.pkt
      decide (mine < other) ||
        (decide (mine = other) &&
          (decide (mine < 4) || x.pkt.tc == p.tc || (x.pkt.tc == 6 && !tc6Room s node out x.pkt.flits) ||
            decide (share p.tc.toNat * weight x.pkt.tc.toNat ≤ share x.pkt.tc.toNat * weight p.tc.toNat))))

/-- The bookkeeping of a grant: the TC6 window, and the shares of TC2 to TC6 while they compete. -/
def noteGrant (s : State) (node out vc : Nat) (p : Packet) (riv : List Flight) : State :=
  let k := 64 * node + 8 * out
  let w := dieCycles s (dieOf node) / 1000
  let old := tgetD s.fab.tc6 (8 * node + out) (w, 0)
  let used := if old.1 = w then old.2 + p.flits else p.flits
  let s := if p.tc = 6 && vc ≠ 15 then modFab s fun f => { f with tc6 := tput f.tc6 (8 * node + out) (w, used) } else s
  if outPriority vc p = 4 then
    if riv.any (fun x => outPriority x.vc x.pkt == 4 && x.pkt.tc != p.tc) then
      modFab s fun f => { f with deficits := tinc f.deficits (k + p.tc.toNat) p.flits }
    else modFab s fun f => { f with deficits := f.deficits.filter (fun e => e.1 < k || k + 8 ≤ e.1) }
  else s

/-- R534: a router's counters of an input channel: 0 FLITS, 1 STALL_CREDIT, 2 STALL_GRANT. -/
def routerCount (s : State) (node port vc i k : Nat) : State :=
  modObs s fun b => { b with router := tinc b.router (((node * 5 + port) * 16 + vc) * 3 + i) k }

/-- The flits of a packet have been forwarded (R534). -/
def countForward (s : State) (node port vc : Nat) (p : Packet) : State :=
  let s := routerCount s node port vc 0 p.flits
  modObs s fun b => { b with partFlits := tinc b.partFlits (16 * node + p.partition.toNat) p.flits }

/-- A packet leaves a router's input channel. -/
def takeFlight (s : State) (x : Flight) : State := modFab s fun f => { f with net := dropFirst (· == x) f.net }

/-- R244, R246: a packet at its destination's local port, for the endpoint; an escape packet to be relayed is sunk and injected again
(R251). -/
def arrive (s : State) (node : Nat) (p : Packet) (relay : Option Nat) : State :=
  match relay with
  | some t => send s node (.endpoint (dieOf node) 0x17) { p with dest := BitVec.ofNat 12 t }
  | none => modFab s fun f => { f with arrived := tmod f.arrived node [] (· ++ [p]) }

/-- The output ports that the XY path from cur to tgt uses, with their tiles. -/
def xyHops : Nat → Nat → Nat → List (Nat × Nat)
  | 0, _, _ => []
  | f + 1, cur, tgt =>
    if cur = tgt then [(cur, 0)]
    else
      let p := stepPort 0 cur tgt
      match neighbour cur p with
      | some m => (cur, p) :: xyHops f m tgt
      | none => [(cur, p)]

/-- R279: the outputs that the tree of group g uses at a tile: Table 8.6's mask, as ports (0 local). -/
def mcOutputs (b : Bank) (g node : Nat) : List Nat :=
  let hops := (mcTiles b g).flatMap (fun t => xyHops 73 (mcRoot (mcRecord b g)) t)
  (List.range 5).filter (fun p => hops.contains (node, p))

/-- R285: an MC_DELIVER goes to every output of the group's mask that is up; a fork whose link is down drops it there alone. -/
def forkDeliver (s : State) (x : Flight) : State :=
  let g := bits x.pkt.aux.toNat 9 0
  match bankOfEpoch s x.pkt.epoch.toNat with
  | none => s
  | some b =>
    let outs := if tableBad s x.node 2 g then [] else mcOutputs b g x.node
    let ready := outs.all (fun o => o == 0 || !linkUp s x.node o ||
      (match neighbour x.node o with | some m => hasCredit s m (opposite o) x.vc x.pkt.flits | none => true))
    if tableBad s x.node 2 g then
      let s := takeFlight s x
      let s := modVs s fun v => { v with mcCounts := bump v.mcCounts 1 }
      reportPkt s 0x35 1 x.node x.pkt 2
    else if !ready then routerCount s x.node x.port x.vc 1 1
    else
      let s := countForward (takeFlight s x) x.node x.port x.vc x.pkt
      outs.foldl (fun s o =>
        if o = 0 then arrive s x.node x.pkt none
        else if linkUp s x.node o then
          match neighbour x.node o with
          | some m => modFab s fun f => { f with net := f.net ++ [{ node := m, port := opposite o, vc := x.vc, pkt := x.pkt }] }
          | none => s
        else modVs s fun v => { v with mcCounts := bump v.mcCounts 1 }) s

/-- R379: a time unit's count, in 2⁻¹⁶ ns. -/
def localTime (s : State) (node : Nat) : Nat :=
  (Int.ofNat (s.now * 65536) + (tgetD s.time.units node {}).offset).toNat % 2 ^ 80

/-- R385: the output port writes T_TX of a TIME_SYNC as it leaves; a DELAY_REQ's is the requester's t1. -/
def stampTime (s : State) (node : Nat) (p : Packet) : State × Packet :=
  if p.opcode = 0x47 && p.src.toNat = node then
    let t := localTime s node
    let p := { p with payload := p.payload.take 22 ++ leBytes 2 (t % 65536) ++ leBytes 8 (t / 65536) }
    (if field p.payload 0 1 % 16 = 2 then
       modTime s fun x => { x with units := tmod x.units node {} (fun u => { u with t1 := some t }) }
     else s, p)
  else (s, p)

/-- R244 to R247: the router forwards a packet to its output, if the link is up, the next hop has a credit and the output grants it. A packet for
a link that is FENCED, FAILED or ABSENT is discarded (R373); one for a link in training waits. -/
def forwardOut (s : State) (x : Flight) (p : Packet) : State :=
  let out := outPort x.node p
  let riv := rivals s x.node x.port x.vc out
  let nvc := vcOf p
  if out = 0 then
    if granted s x.node 0 x.vc p riv then
      arrive (noteGrant (countForward (takeFlight s x) x.node x.port x.vc p) x.node 0 x.vc p riv) x.node p x.relay
    else routerCount s x.node x.port x.vc 2 1
  else
    match neighbour x.node out with
    | none => takeFlight s x
    | some m =>
      let st := linkState s x.node out
      if st = 5 || st = 6 || st = 0 then takeFlight s x
      else if st = 1 || st = 3 then s
      else if !hasCredit s m (opposite out) nvc p.flits then routerCount s x.node x.port x.vc 1 1
      else if !granted s x.node out x.vc p riv then routerCount s x.node x.port x.vc 2 1
      else
        let s := noteGrant (countForward (takeFlight s x) x.node x.port x.vc p) x.node out x.vc p riv
        let (s, p) := stampTime s x.node p
        modFab s fun f =>
          { f with net := f.net ++ [{ node := m, port := opposite out, vc := nvc, pkt := p, relay := x.relay }] }

/-- R325: a one-flit packet that any uncorrectable word discards. -/
def oneFlitCtl (p : Packet) : Bool :=
  p.mclass == 0 || p.opcode == 0x71 || p.opcode == 0x72 || p.opcode == 0x73

/-- R246 to R255, R322 to R326, R534 (ROUTER_FORWARD): the router at a tile forwards the packet at the head of an input channel by one hop, with
what its input found in the packet's flits. -/
def execRouterForward (node : NodeId) (port : InPort) (vc : BitVec 4) (err : FlitErr) (s : State) : Host.Outcome State Fault Refusal :=
  let n := node.toNat
  match s.fab.net.find? (fun x => x.node == n && x.port == port.val && x.vc == vc.toNat) with
  | none => .next s
  | some x =>
    let s := if 0 < err.corrected then
        modInteg (report s { cause := 0x01, cls := 1, unit := 1, source := n, detail := port.val, peer := some x.pkt.src.toNat })
          fun g => { g with ecc := tinc g.ecc (4 * dieOf n) err.corrected }
      else s
    let ue := fun s : State => modInteg s fun g => { g with ecc := tinc g.ecc (4 * dieOf n + 1) 1 }
    if err.ctrl && port.val ≠ 0 then
      let s := failLink (ue s) n port.val 0x03
      let y := { x with pkt := { x.pkt with checkValue := x.pkt.checkValue ||| stompBit } }
      .next (modFab s fun f => { f with net := f.net.map (fun z => if z == x then y else z) })
    else if (err.header || err.payload.isSome || err.ctrl) && oneFlitCtl x.pkt then
      .next (takeFlight (reportPkt (ue s) 0x05 1 n x.pkt x.pkt.opcode.toNat) x)
    else if err.header || headerBad s x.pkt then
      .next (takeFlight (reportPkt (if err.header then ue s else s) 0x04 1 n x.pkt port.val) x)
    else
      let p := atRouter n x.pkt
      let (s, p) := match err.payload with
        | some k =>
          (reportPkt (ue s) 0x02 1 n p (port.val + (k / 16 % 256) * 2 ^ 8 + (k % 16) * 2 ^ 16),
            { p with checkValue := p.checkValue ||| stompBit })
        | none => (s, p)
      let y := { x with pkt := p }
      let s := modFab s fun f => { f with net := f.net.map (fun z => if z == x then y else z) }
      if p.opcode = 0x61 then .next (forkDeliver s y) else .next (forwardOut s y p)

end Sys2Proof.Machine
end

