-- ==== Sys2Proof/Machine/Receive.lean ====
section
/-!
DEFINITION. Machine/Receive.lean: the receiving side of the fabric (R116, R242, R260 to R264, R318, R333, R334, R339): receive entries,
window checks, refusals, responses, acknowledgements, and the memory accesses WRITE and READ.
-/
namespace Sys2Proof.Machine

/-- R318: why a packet has failed at its destination: TRUNCATED, STOMPED, POISONED, or a check value that does not match. -/
def packetFault (p : Packet) : Option Nat :=
  if p.payload.length < p.length.toNat then some 0x14
  else if bitAt p.checkValue.toNat 63 then some 0x13
  else if p.poison then some 0x12
  else if p.check = 1 && p.checkValue.toNat != crc32c p.payload then some 0x10
  else none

/-- The receive entries of a tile. -/
def rxOf (s : State) (node : Nat) : List RxEntry := tgetD s.fab.rx node []

def rxKey (p : Packet) (e : RxEntry) : Bool := e.src == p.src.toNat && e.stream == p.stream.toNat

def modRx (s : State) (node : Nat) (p : Packet) (f : RxEntry → RxEntry) : State :=
  modFab s fun x => { x with rx := tmod x.rx node [] (fun l => l.map (fun e => if rxKey p e then f e else e)) }

/-- An explicit acknowledgement entry waits at a tile (R252). -/
def pushAck (s : State) (node : Nat) (a : AckEntry) : State :=
  modFab s fun f => { f with acks := tmod f.acks node [] (· ++ [a]) }

/-- R260, Table 9.8: a NACK; its header names the stream and SEQ concerned. -/
def sendNack (s : State) (node : Nat) (p : Packet) (reason : Nat) : State :=
  send s node (.endpoint (dieOf node) 1)
    { mkPacket 0x41 p.src.toNat 0 none 0 (leBytes 8 reason) with stream := p.stream, sgen := p.sgen, seq := p.seq }

/-- R334: the entry is BROKEN at a SEQ; a STATUS 1 entry for it goes before any other of the stream. The break is counted, logged and shown. -/
def breakStream (s : State) (node : Nat) (p : Packet) (seq cause detail : Nat) : State :=
  let s := modRx s node p (fun e => { e with broken := true, pending := [], ackNow := false, acked := e.expected })
  let s := modFab s fun f =>
    { f with acks := tmod f.acks node [] (fun l =>
        { dest := p.src.toNat, stream := p.stream.toNat, sgen := p.sgen.toNat, seq := seq, status := 1 } ::
          l.filter (fun a => !(a.dest == p.src.toNat && a.stream == p.stream.toNat && a.sgen == p.sgen.toNat))) }
  let s := streamError s node 0
  let s := event s node 1 0x25 p.partition.toNat
    (cause * 2 ^ 28 + p.src.toNat * 2 ^ 16 + p.sgen.toNat * 2 ^ 6 + p.stream.toNat)
  reportPkt s cause 1 node p detail

/-- The entry takes a packet with the expected SEQ: performed at once, or accepted and performed later. -/
def rxAccept (s : State) (node : Nat) (p : Packet) (later : Bool) : State :=
  modRx s node p fun e =>
    { e with
      expected := (e.expected + 1) % 65536
      pending := if later then e.pending ++ [p.seq.toNat] else e.pending
      ackNow := e.ackNow || p.ackNow }

/-- A packet accepted earlier is now performed (R263, R284). -/
def rxPerformed (s : State) (node src stream sgen seq : Nat) : State :=
  modFab s fun x => { x with rx := tmod x.rx node [] (fun l => l.map (fun e =>
    if e.src = src && e.stream = stream && e.sgen = sgen then { e with pending := e.pending.filter (· != seq) } else e)) }

/-- R260: an OPEN takes the entry of its key, or a free one of 1,024. -/
def rxOpen (s : State) (node : Nat) (p : Packet) : Option State :=
  let e : RxEntry :=
    { src := p.src.toNat, stream := p.stream.toNat, sgen := p.sgen.toNat, expected := p.seq.toNat, acked := p.seq.toNat }
  if (rxOf s node).any (rxKey p) then some (modRx s node p (fun _ => e))
  else if (rxOf s node).length < 1024 then some (modFab s fun x => { x with rx := tmod x.rx node [] (· ++ [e]) })
  else none

/-- Table 9.1: how the entry handles an arriving packet. perform acts on an intact packet in sequence, failed on one that fails R318. -/
def rxHandle (s : State) (node : Nat) (p : Packet) (later : Bool) (perform failed : State → State) : State :=
  let opened := if p.opening then rxOpen s node p else some s
  match opened with
  | none => sendNack (streamStat s node 1) node p 1
  | some s =>
    match (rxOf s node).find? (rxKey p) with
    | none => sendNack (streamError s node 3) node p 2
    | some e =>
      if e.sgen != p.sgen.toNat then streamError s node 2
      else if e.broken then streamError s node 1
      else
        let ahead := subMod 16 p.seq.toNat e.expected
        if ahead = 0 then
          match packetFault p with
          | none => perform (rxAccept s node p later)
          | some cause => failed (breakStream s node p p.seq.toNat cause (if cause = 0x14 then p.payload.length else 0))
        else if ahead ≤ 32767 then breakStream s node p e.expected 0x20 p.seq.toNat
        else streamError s node 2

/-- Table 9.1 for a packet that is performed on acceptance. -/
def rxArrive (s : State) (node : Nat) (p : Packet) (perform : State → State) : State := rxHandle s node p false perform id

/-- R242: a response to a request: its opcode, AUX and payload; it takes the request's tag, partition and traffic class. AUX names the request
by tracker and SEQ (Table 7.5). -/
def response (s : State) (node : Nat) (req : Packet) (op : Nat) (payload : Bytes) (high : Nat := 0) (poison : Bool := false) : State :=
  let tc : BitVec 3 := if op = 0x21 then 1 else req.tc
  send s node (.responder node)
    { mkPacket op req.src.toNat req.partition.toNat req.tagOpt 0 payload with
      tc := tc, aux := BitVec.ofNat 32 (high * 2 ^ 24 + req.stream.toNat * 2 ^ 16 + req.seq.toNat), poison := poison }

/-- R242, R339: the target refuses a request it has accepted: REFUSAL with the cause, and a STATUS 2 entry at its SEQ. -/
def refuse (s : State) (node : Nat) (p : Packet) (cause addr unit : Nat) (detail : Nat := 0) : State :=
  let s := modRx s node p (fun e => { e with acked := (p.seq.toNat + 1) % 65536, pending := e.pending.filter (· != p.seq.toNat) })
  let s := pushAck s node { dest := p.src.toNat, stream := p.stream.toNat, sgen := p.sgen.toNat, seq := p.seq.toNat, status := 2 }
  let s := streamError s node 6
  let s := event s node unit 0x2A p.partition.toNat (p.src.toNat * 2 ^ 8 + cause)
  let s := reportPkt s cause unit node p detail
  response s node p 0x22 (leBytes 16 (addr % 2 ^ 48)) cause

/-- R332: a refusal for an unusable window table entry is logged as TABLE_UE. -/
def refuseTable (s : State) (node : Nat) (p : Packet) (addr : Nat) : State :=
  refuse (reportPkt s 0x35 1 node p 1) node p 0x40 addr 1

/-- Table 4.8: the enabled windows of a partition in a bank. -/
def windows (b : Bank) (part : Nat) : List Nat :=
  ((bankKeys b.cfg (odKey (0x3450 + part) 1) (odKey (0x3450 + part) 32)).map
    (fun k => leNat (bankValue b.cfg (k / 256) (k % 256)))).filter (fun w => bitAt w 3)

/-- R116: a whole byte range lies inside a window that grants kind 0 READ, 1 WRITE or 2 SYNC. -/
def windowGrants (w a n kind : Nat) : Bool :=
  bitAt w kind && decide (bits w 71 36 * 4096 ≤ a) && decide (a + n ≤ (bits w 111 76 + 1) * 4096)

/-- R116, R117, R450: a target's check of a packet's range, in the bank of the packet's epoch. -/
def windowOk (s : State) (p : Packet) (a n kind : Nat) : Bool :=
  if p.partition = 0 then rangeMapped (n / 256 + 3) a n
  else match bankOfEpoch s p.epoch.toNat with
    | none => false
    | some b => (windows b p.partition.toNat).any (fun w => windowGrants w a n kind)

/-- R116: a packet that fails the check is counted for its partition and refused. -/
def windowRefuse (s : State) (node : Nat) (p : Packet) (unit : Nat) : State :=
  let s := modVs s fun v => { v with windowFaults := tinc v.windowFaults p.partition.toNat 1 }
  refuse s node p 0x40 p.addr.toNat unit

/-- Table 9.7: the unit that performs accesses of a region at its tile. -/
def regionUnit : Region → Nat
  | .vatSram _ _ _ => 2
  | .deckleSram _ _ _ => 2
  | .syncCell _ _ _ => 7
  | .hbm _ _ => 0x10
  | .hostWindow _ _ => 0x11

/-- Table 9.6: what an uncorrectable word of a region is logged as, with DETAIL (the HBM channel, R111). -/
def regionUe : Region → Nat × Nat
  | .hbm _ off => (0x33, bits off 11 10)
  | _ => (0x31, 0)

/-- An uncorrectable word met at an address is counted and logged (R328, R330). -/
def ueReport (s : State) (r : Region) (addr : Nat) : State :=
  let (cause, detail) := regionUe r
  let s := match r with
    | .hbm st _ => modInteg s fun g => { g with hbmEcc := tinc g.hbmEcc (2 * st + 1) 1 }
    | _ => modInteg s fun g => { g with ecc := tinc g.ecc (4 * dieOf r.tile + 3) 1 }
  report s { cause := cause, cls := 2, unit := regionUnit r, source := r.tile, detail := detail, addr := some addr }

/-- Table 4.6: the STATE and CONFIG words of a cell. -/
def cellState (c : Cell) : Nat :=
  c.count % 2 ^ 32 + c.mode % 4 * 2 ^ 32 + bitOf (!c.mask.isEmpty) * 2 ^ 40 + c.phase % 2 ^ 16 * 2 ^ 48
def cellConfig (c : Cell) : Nat :=
  c.threshold % 2 ^ 32 + c.waiters.length % 128 * 2 ^ 32 + (c.mask.map (fun e => 2 ^ (40 + e.1))).sum

/-- R138: the bytes of a cell's page. -/
def cellPage (s : State) (k off n : Nat) : Bytes :=
  let c := cellOf s k
  slice (leBytes 8 (cellState c) ++ leBytes 8 (cellConfig c) ++ zeros 240) off n

/-- The port's host window: registers of a partner port. -/
def portOf (s : State) (p : Nat) : Port := tgetD s.port.ports p {}

def modPortOf (s : State) (p : Nat) (f : Port → Port) : State := modPort s fun v => { v with ports := tmod v.ports p {} f }

/-- R112, R397: the host address of a window offset, where the range ends within HWIN_SIZE pages. -/
def hostAddr (s : State) (p off n : Nat) : Option Nat :=
  let x := portOf s p
  if off + n ≤ 4096 * x.hwinSize then some (x.hwinBase + off) else none

/-- The port can issue PCIe requests: its link is up, out of D3hot and PERST_N. -/
def portUp (s : State) (p : Nat) : Bool :=
  let x := portOf s p
  x.up && !x.perst && !x.d3hot

/-- R113, R116, R318: a WRITE in sequence is checked and performed at its target tile. -/
def performWrite (s : State) (node : Nat) (p : Packet) : State :=
  let a := p.addr.toNat
  let n := p.payload.length
  match decodeAddr a with
  | none => windowRefuse s node p 1
  | some r =>
    if tableBad s node 1 p.partition.toNat && p.partition != 0 then refuseTable s node p a
    else if r.tile != node || r.isTrace || !windowOk s p a n 1 then windowRefuse s node p (regionUnit r)
    else match r with
      | .syncCell _ _ _ => windowRefuse s node p 7
      | .hostWindow port off =>
        match hostAddr s port off n with
        | none => windowRefuse s node p 0x11
        | some h => if portUp s port then emitOut s (.hostWrite port h p.payload) else refuse s node p 0x41 a 0x11
      | _ => cleanRange (writeMem s a p.payload) a n

/-- R113, R116, R138, R328: a READ in sequence is checked and answered. A host-window READ is answered when the host has (R321). -/
def performRead (s : State) (node : Nat) (p : Packet) : State :=
  let a := p.addr.toNat
  let n := bits p.aux.toNat 12 0
  let later := fun s => rxPerformed s node p.src.toNat p.stream.toNat p.sgen.toNat p.seq.toNat
  match decodeAddr a with
  | none => windowRefuse s node p 1
  | some r =>
    if tableBad s node 1 p.partition.toNat && p.partition != 0 then refuseTable s node p a
    else if r.tile != node || r.isTrace || !windowOk s p a n 0 then windowRefuse s node p (regionUnit r)
    else match r with
      | .syncCell d c off => response (later s) node p 0x20 (cellPage s (256 * d + c) off n)
      | .hostWindow port off =>
        match hostAddr s port off n with
        | none => windowRefuse s node p 0x11
        | some h =>
          if portUp s port then
            let id := (portOf s port).nextHost
            let s := modPortOf s port fun x =>
              { x with hostPend := x.hostPend ++ [{ id := id, pkt := p, addr := h }], nextHost := (id + 1) % 65536 }
            emitOut s (.hostRead port h n)
          else refuse s node p 0x41 a 0x11
      | _ =>
        if badRange s a n then response (later (ueReport s r a)) node p 0x20 (readMem s a n) 0 true
        else response (later s) node p 0x20 (readMem s a n)

/-- R318: a WRITE that has failed leaves undefined values in the memory bytes it may already have written. -/
def spoilWrite (s : State) (node : Nat) (p : Packet) : State :=
  let a := p.addr.toNat
  let n := p.payload.length
  match decodeAddr a with
  | some (.syncCell _ _ _) => s
  | some (.hostWindow _ _) => s
  | some r =>
    if r.tile = node && !r.isTrace && windowOk s p a n 1 then
      let (bs, s) := drawBytes n s
      writeMem s a bs
    else s
  | none => s

/-- WRITE (R333): a WRITE reaches its destination. -/
def execWrite (node : NodeId) (p : Packet) (s : State) : Host.Outcome State Fault Refusal :=
  onArrival node p [1] s fun s =>
    rxHandle s node.toNat p false (fun s => performWrite s node.toNat p) (fun s => spoilWrite s node.toNat p)

/-- READ (R333): a READ reaches its destination. -/
def execRead (node : NodeId) (p : Packet) (s : State) : Host.Outcome State Fault Refusal :=
  onArrival node p [2] s fun s => rxHandle s node.toNat p true (fun s => performRead s node.toNat p) id

/-- ENDPOINT_MSG (R263): a deckle endpoint takes a message and injects its response. No chapter but 15 gives a message a format (DIGEST_REPORT,
its own row), so the response carries none. -/
def execEndpointMsg (node : NodeId) (p : Packet) (s : State) : Host.Outcome State Fault Refusal :=
  if (List.range 4).any (fun n => portFrontTile n == node.toNat) then .next s
  else onArrival node p [6] s fun s => rxArrive s node.toNat p (fun s => response s node.toNat p 0x23 [])

/-- The receive entry's point of acknowledgement: every SEQ before it is performed. -/
def RxEntry.ackPoint (e : RxEntry) : Nat := e.pending.headD e.expected

/-- Performed packets that no entry has acknowledged. -/
def RxEntry.due (e : RxEntry) : Nat := subMod 16 e.ackPoint e.acked

/-- R339: a STATUS 2 entry goes once every packet before it is performed. -/
def ackReady (l : List RxEntry) (a : AckEntry) : Bool :=
  a.status != 2 || !(l.any (fun e => e.src == a.dest && e.stream == a.stream && e.sgen == a.sgen && !e.pending.isEmpty
    && serialLt 16 (e.pending.headD 0) a.seq))

/-- Table 7.8: an acknowledgement entry. -/
def ackWord (stream sgen seq status : Nat) : Nat := stream % 64 + sgen % 1024 * 2 ^ 6 + seq % 65536 * 2 ^ 16 + status % 4 * 2 ^ 32

/-- R252, R264 (ACK_SEND): a tile sends one ACK packet: up to 8 entries that go to one source, refusals and breaks first, then the streams with
performed packets that nothing has acknowledged. -/
def execAckSend (node : NodeId) (s : State) : Host.Outcome State Fault Refusal :=
  let n := node.toNat
  let rx := rxOf s n
  let explicit := (tgetD s.fab.acks n []).filter (ackReady rx)
  let streams := rx.filter (fun e => !e.broken && e.due != 0 &&
    !((tgetD s.fab.acks n []).any (fun a => a.dest == e.src && a.stream == e.stream && a.sgen == e.sgen && !explicit.contains a)))
  if !tileUp s n then .next s
  else match (explicit.map (·.dest) ++ streams.map (·.src)).head? with
  | none => .next s
  | some d =>
    let ex := (explicit.filter (fun a => a.dest == d)).take 8
    let st := (streams.filter (fun e => e.src == d)).take (8 - ex.length)
    let words := ex.map (fun a => ackWord a.stream a.sgen a.seq a.status) ++
      st.map (fun e => ackWord e.stream e.sgen ((e.ackPoint + 65535) % 65536) 0)
    let s := modFab s fun f =>
      { f with
        acks := tmod f.acks n [] (fun l => l.filter (fun a => !ex.contains a))
        rx := tmod f.rx n [] (fun l => l.map (fun e => if st.contains e then { e with acked := e.ackPoint, ackNow := false } else e)) }
    .next (send s n (.endpoint (dieOf n) 1) (mkPacket 0x40 d 0 none 0 (words.flatMap (leBytes 8))))

/-- The response buffer that a response's AUX names, taken from the tile. -/
def takeExpect (s : State) (node : Nat) (p : Packet) (op : Nat) : State × Option Expect :=
  let l := tgetD s.fab.expects node []
  let i := bits p.aux.toNat 21 16
  let q := bits p.aux.toNat 15 0
  let hit := fun e : Expect => e.stream == i && e.seq == q && e.opcode == op
  match l.find? hit with
  | none => (s, none)
  | some e => (modFab s fun f => { f with expects := tput f.expects node (dropFirst hit l) }, some e)

/-- R535, R536: a response's bytes are delivered to the initiator, and the request's latency is measured. -/
def delivered (s : State) (node : Nat) (p : Packet) (e : Expect) : State :=
  let s := injectCount s node e.owner p.partition.toNat 2 p.payload.length
  latencyDone s node e.owner p.partition.toNat e.stream e.sgen e.seq

/-- A READ's data reach the unit that asked: a fibre goes on once every read of its op has come; a sequencer keeps them for its LD. -/
def readReturned (s : State) (e : Expect) (data : Bytes) : State :=
  match e.owner with
  | .fibre d slice slot batch index _ =>
    match fibreAt s d slice slot with
    | none => s
    | some x =>
      if x.batch = batch && x.index = index then
        let reads := (x.reads.foldl (fun (acc : List ReadBuf × Bool) r =>
          if !acc.2 && r.data.isNone && r.addr == e.addr && r.len == e.len then (acc.1 ++ [{ r with data := some data }], true)
          else (acc.1 ++ [r], acc.2)) ([], false)).1
        let ready := reads.all (fun r => r.data.isSome)
        putFibre s d slice slot
          { x with reads := reads, state := if ready then 1 else x.state, wait := if ready then none else x.wait }
      else s
  | .sequencer d =>
    match (seqOf s d).wait with
    | some (.load a sd none) => if a = e.addr then modSeq s d fun q => { q with wait := some (.load a sd (some data)) } else s
    | _ => s
  | _ => s

/-- The access of a response that fails R318 fails at its initiator (Table 9.2, R321). -/
def responseFailed (s : State) (node : Nat) (p : Packet) (op : Nat) : State :=
  let (s, e) := takeExpect s node p op
  match e with
  | none => s
  | some e =>
    let s := latencyDrop s node e.stream e.sgen e.seq
    failAccess s e.owner (mkPacket op 0 0 none e.addr []) ((packetFault p).getD 0x10)

/-- READ_DATA (R253): read data reach the tile that asked for them. -/
def execReadData (node : NodeId) (p : Packet) (s : State) : Host.Outcome State Fault Refusal :=
  let n := node.toNat
  onArrival node p [0x20] s fun s =>
    rxHandle s n p false
      (fun s =>
        let (s, e) := takeExpect s n p 2
        match e with
        | none => s
        | some e => readReturned (delivered s n p e) e p.payload)
      (fun s => responseFailed s n p 2)

/-- ENDPOINT_RSP (R253): an endpoint's response reaches the tile that asked for it. -/
def execEndpointRsp (node : NodeId) (p : Packet) (s : State) : Host.Outcome State Fault Refusal :=
  let n := node.toNat
  onArrival node p [0x23] s fun s =>
    rxHandle s n p false
      (fun s =>
        let (s, e) := takeExpect s n p 6
        match e with
        | none => s
        | some e => delivered s n p e)
      (fun s => responseFailed s n p 6)

/-- R339: a refusal is recorded on its tracker, and the access it names fails at its initiator. -/
def takeRefusal (s : State) (node : Nat) (p : Packet) : State :=
  let i := bits p.aux.toNat 21 16
  let q := bits p.aux.toNat 15 0
  let cause := bits p.aux.toNat 31 24
  let addr := bits (field p.payload 0 6) 47 0
  let t := trackerOf s node i
  match t.unacked.find? (fun u => u.seq == q) with
  | none => s
  | some u =>
    let s := putTracker s node i
      { t with
        unacked := t.unacked.filter (fun u => u.seq != q)
        opening := if u.pkt.opening then false else t.opening
        refusals := t.refusals + 1
        refusedAddr := t.refusedAddr.orElse (fun _ => some addr) }
    let s := latencyDrop s node i t.sgen q
    let s := modFab s fun f =>
      { f with expects := tmod f.expects node [] (fun l => l.filter (fun e => !(e.stream == i && e.sgen == t.sgen && e.seq == q))) }
    settleAll (failAccess s u.owner u.pkt cause addr)

/-- REFUSAL (R339). -/
def execRefusal (node : NodeId) (p : Packet) (s : State) : Host.Outcome State Fault Refusal :=
  onArrival node p [0x22] s fun s => rxArrive s node.toNat p (fun s => takeRefusal s node.toNat p)

/-- NACK RX_FULL (R260): the source notes that its OPEN was not taken. -/
def execNackRxFull (node : NodeId) (p : Packet) (s : State) : Host.Outcome State Fault Refusal :=
  let n := node.toNat
  onArrival node p [0x41] s fun s =>
    let t := trackerOf s n p.stream.toNat
    if field p.payload 0 1 = 1 && t.inUse && t.sgen = p.sgen.toNat && t.opening then
      putTracker s n p.stream.toNat { t with rxFullAt := some s.now }
    else s

/-- OPEN_RETRY (R260): 1 µs after NACK RX_FULL the source sends the same OPEN packet again, and counts it. -/
def execOpenRetry (node : NodeId) (tracker : BitVec 6) (s : State) : Host.Outcome State Fault Refusal :=
  let n := node.toNat
  let i := tracker.toNat
  let t := trackerOf s n i
  match t.rxFullAt, t.unacked with
  | some at_, u :: _ =>
    let s := timeReaches s (at_ + 1000)
    let s := putTracker s n i { t with rxFullAt := none, advancedAt := s.now }
    .next (enterNet (streamStat s n 5) n u.pkt)
  | _, _ => .next s

/-- NACK NOT_OPEN (R335): the source ends the generation at the packet that the NACK names. -/
def execNackNotOpen (node : NodeId) (p : Packet) (s : State) : Host.Outcome State Fault Refusal :=
  let n := node.toNat
  onArrival node p [0x41] s fun s =>
    let t := trackerOf s n p.stream.toNat
    if field p.payload 0 1 = 2 && t.inUse && t.sgen = p.sgen.toNat then
      match t.unacked.find? (fun u => u.seq == p.seq.toNat) with
      | none => s
      | some u => settleAll (endStream (reportPkt s 0x21 1 n u.pkt) n p.stream.toNat p.seq.toNat 0x21)
    else s

/-- STREAM_ACK_TIMEOUT (R335, R337): the oldest unacknowledged packet of a stream has reached the acknowledgement timeout. -/
def execStreamAckTimeout (node : NodeId) (tracker : BitVec 6) (s : State) : Host.Outcome State Fault Refusal :=
  let n := node.toNat
  let i := tracker.toNat
  let t := trackerOf s n i
  match t.inUse, t.unacked with
  | true, u :: _ =>
    let s := timeReaches s (t.advancedAt + 1000 * setting s 0x2610 0)
    .next (settleAll (endStream (reportPkt (streamError s n 4) 0x22 1 n u.pkt) n i u.seq 0x22))
  | _, _ => .next s

/-- STREAM_IDLE_CLOSE (R266): a stream without unacknowledged packets for the idle time is closed. -/
def execStreamIdleClose (node : NodeId) (tracker : BitVec 6) (s : State) : Host.Outcome State Fault Refusal :=
  let n := node.toNat
  let t := trackerOf s n tracker.toNat
  if t.inUse && t.unacked.isEmpty then
    .next (closeStream (timeReaches s (t.idleSince + 1000 * setting s 0x2004 0)) n tracker.toNat)
  else .next s

/-- CLOSE (R266): the destination frees the entry whose SGEN the CLOSE names. -/
def execClose (node : NodeId) (p : Packet) (s : State) : Host.Outcome State Fault Refusal :=
  onArrival node p [0x42] s fun s =>
    modFab s fun x => { x with rx := tmod x.rx node.toNat [] (fun l => l.filter (fun e => !(rxKey p e && e.sgen == p.sgen.toNat))) }

end Sys2Proof.Machine
end

