-- ==== Sys2Proof/Machine/PortBase.lean ====
section
/-!
DEFINITION. Machine/PortBase.lean: what every chapter needs of the partner ports: the device state and the minimum service set (Table 3.5,
R482), the port's readiness (R393, R421), interrupts (R418), PRT.EVENT, and partition health (R347, R348).
-/
namespace Sys2Proof.Machine

/-- The ledger engine of deckle k (0 DN to 3 DW). -/
def ledOf (s : State) (k : Nat) : Ledger := tgetD s.led.engines k {}

def modLedger (s : State) (k : Nat) (f : Ledger → Ledger) : State := modLed s fun v => { v with engines := tmod v.engines k {} f }

/-- QUEUE_CONFIG of a port's submission queue in a bank (Table 11.15): fields. -/
def queueConfig (b : Bank) (n q : Nat) : Nat := bankNat b (0x4010 + n) (q + 1)
def qcAllowed (w : Nat) : Bool := bitAt w 0
def qcOrdered (w : Nat) : Bool := bitAt w 1
def qcPart (w : Nat) : Nat := bits w 5 2
/-- The opcode mask permits SCORE or SCORE_REPLAY. -/
def qcScores (w : Nat) : Bool := bitAt w 16 || bitAt w 17

/-- The bank of a port's admission engine and port front: that of tile O13. -/
def portBank (s : State) (n : Nat) : Bank := tileBank s (admissionTile n)

/-- R393, R394: the link runs at a rate and width that serve. -/
def linkOk (s : State) (n : Nat) : Bool :=
  let x := portOf s n
  x.up && decide (3 ≤ x.rate) && (x.width == 16 || x.width == 8 || x.width == 4 || x.width == 1)

/-- The vat dies next to a deckle die. -/
def adjacentVats (die : Nat) : List Nat := dieNeighbours die

/-- The die-to-die links between two dies, as the near tile and port on die a. -/
def edgeLinks (a b : Nat) : List (Nat × Nat) :=
  (tilesOf a).flatMap (fun n => ([1, 2, 3, 4].filter (fun p =>
    match neighbour n p with | some m => dieOf m == b | none => false)).map (fun p => (n, p)))

/-- ONFI channels of a deckle die that are in service (R482). -/
def channelsUp (s : State) (k : Nat) : Bool := decide ((ledOf s k).down.length < 2)

/-- R482: the minimum service set is present through deckle die 16 (DN) or 18 (DS). -/
def serviceVia (s : State) (die : Nat) : Bool :=
  let n := die - 16
  let b := s.ep.cur
  dieUp s die && (tget s.pow.fw die).isSome && linkOk s n &&
    (adjacentVats die).any (fun d =>
      let p := vatOwner b.cfg d
      dieUp s d && p != 0 && partOwnsPort b.cfg p n && (edgeLinks die d).all (fun l => linkUp s l.1 l.2) &&
        (List.range 16).any (fun q => let w := queueConfig b n q; qcAllowed w && qcScores w && qcPart w == p)) &&
    (setting s 0x5003 0 == 0 || channelsUp s n)

def serviceSet (s : State) : Bool := serviceVia s 16 || serviceVia s 18

/-- R495: some in-service ledger engine is SCANNING_J. -/
def scanning (s : State) : Bool := (List.range 4).any (fun k => dieUp s (16 + k) && (ledOf s k).state == 1)

/-- Table 3.5, R482: the device state. -/
def deviceState (s : State) : Nat :=
  if (tget s.pow.fw 16).isNone && (tget s.pow.fw 18).isNone then 0
  else if s.pow.zeroised then 5
  else if s.pow.fault || s.pow.mgmtLost then 4
  else if s.pow.booting then 0
  else if scanning s then 1
  else if s.pow.absent || !serviceSet s then 4
  else if (List.range 20).all (dieUp s) && (failedLinks s).isEmpty then 2
  else 3

/-- R421: PRT.STATUS.READY: the device state is SCANNING, IN_SERVICE or DEGRADED. -/
def portReady (s : State) : Bool := let d := deviceState s; decide (1 ≤ d) && decide (d ≤ 3)

/-- R418: an MSI-X message by the rules of PCIe 5.0: a masked vector becomes pending; nothing is sent while MSI-X is disabled or the port
cannot send. Table 11.15 counts the messages sent. -/
def msixSend (s : State) (n vec : Nat) : State :=
  let x := portOf s n
  if !x.msixEn then s
  else
    let e := tgetD x.msix vec (0, 0, 1)
    if x.funcMask || bitAt e.2.2 0 then modPortOf s n fun x => { x with pba := setBits x.pba vec vec 1 }
    else if portUp s n then
      emitOut (modPortOf s n fun x => { x with stats := tinc x.stats 7 1, pba := setBits x.pba vec vec 0 }) (.msix n vec e.1 e.2.1)
    else s

/-- A bit of PRT.EVENT becomes set (Table 11.5); EVT_VEC is sent where EVT_IRQ_EN is 1. -/
def portEvent (s : State) (n bit : Nat) : State :=
  let x := portOf s n
  if bitAt x.event bit then s
  else
    let s := modPortOf s n fun x => { x with event := x.event + 2 ^ bit }
    if x.evtIrqEn then msixSend s n x.evtVec else s

/-- PRT.EVENT.DEVICE on every port where the device state differs from an earlier state's; a service set found absent makes FAULT last until
a switch finds it present (R482). -/
def deviceNote (before s : State) : State :=
  let s := if !s.pow.booting && !scanning s && !serviceSet s then modPow s fun w => { w with absent := true } else s
  if deviceState before = deviceState s then s else (List.range 4).foldl (fun s n => portEvent s n 1) s

/-- An operation that may change the device state. -/
def withDevice (f : State → State) (s : State) : State := deviceNote s (f s)

/-- PRT.EVENT.PARTITION on the ports that have a queue of a partition. -/
def partitionNote (s : State) (part : Nat) : State :=
  (List.range 4).foldl (fun s n =>
    if (List.range 16).any (fun q => let w := queueConfig (portBank s n) n q; qcAllowed w && qcPart w == part) then portEvent s n 2 else s) s

/-- R347, R348: a partition fails with a cause; the first cause stays. -/
def failPartition (s : State) (part cause : Nat) : State :=
  if part = 0 || (tget s.integ.failed part).isSome then s
  else partitionNote (modInteg s fun g => { g with failed := tput g.failed part cause }) part

/-- OD 0x2690 + port: 0 host CRC mismatches, 1 staging mismatches, 2 ECRC failures, 3 poisoned TLPs, 4 host-window read failures,
5 delivery retries. -/
def portFault (s : State) (n i : Nat) : State := modInteg s fun g => { g with portIntegrity := tinc g.portIntegrity (8 * n + i) 1 }

/-- R321: an error is noted in the AER capability of the port and reported on PCIe. -/
def aerNote (s : State) (n bit k : Nat) : State :=
  emitOut (modPort s fun x => { x with aer := tput x.aer n (setBits (tgetD x.aer n 0) bit bit 1) }) (.aer n k)

/-- R321, Table 9.6: what the port does about a TLP that failed: its count, its AER error and its record. -/
def tlpFault (s : State) (n part : Nat) (err : TlpErr) (addr : Option Nat := none) : State :=
  let rep := fun (s : State) (cause detail : Nat) =>
    report s
      { cause := cause, cls := 2, unit := 0x11, source := portFrontTile n, partition := if part = 0 then none else some part
        detail := detail, addr := addr }
  match err with
  | .good => s
  | .ecrc => rep (aerNote (portFault s n 2) n 19 0) 0x17 0
  | .poisoned => rep (aerNote (portFault s n 3) n 12 1) 0x18 0
  | .completion st => rep s 0x19 st.toNat
  | .timeout => rep s 0x19 0xFF

end Sys2Proof.Machine
end

