-- ==== Sys2Proof/Machine/Sync.lean ====
section
/-!
DEFINITION. Machine/Sync.lean: sync cells (R127 to R138), the waits of fibres and sequencers, request-context kills (R139 to R146) and fibres
becoming resident (R101, R215, R219).
-/
namespace Sys2Proof.Machine

/-- R129, Table 4.2: a wait's condition in a state (mode, count, phase) of a cell with a threshold. -/
def condHolds (mode count phase threshold : Nat) (c : WaitCond) : Bool :=
  if mode = 1 then phase != c.phase
  else if mode = 2 then count != 0
  else decide (subMod 32 count (if c.useThreshold then threshold else c.value) < 2 ^ 31)

/-- A condition in a cell's own state. -/
def Cell.holds (c : Cell) (w : WaitCond) : Bool := condHolds c.mode c.count c.phase c.threshold w

/-- A condition in a STATE word (Table 4.6). THRESHOLD cannot change while a die's mask bit is set, since CONFIGURE answers BUSY (R131), so it
is the cell's own (DEDUCED, notes/assumptions/24.md). -/
def stateHolds (s : State) (k st : Nat) (w : WaitCond) : Bool :=
  condHolds (bits st 33 32) (bits st 31 0) (bits st 63 48) (cellOf s k).threshold w

/-- Table 4.7: the fields of a sync operation's payload. -/
def opCode (v : Nat) : Nat := bits v 3 0
def opMode (v : Nat) : Nat := bits v 9 8
def opUseT (v : Nat) : Bool := bitAt v 10
def opValue (v : Nat) : Nat := bits v 63 32
def opPhase (v : Nat) : Nat := bits v 79 64
def opRelease (v : Nat) : Bool := bitAt v 7

/-- Reserved fields of the payload are 0. -/
def opClean (v : Nat) : Bool := bits v 6 4 == 0 && bits v 31 11 == 0 && bits v 127 80 == 0

/-- What a wait payload waits for. -/
def opCond (v : Nat) : WaitCond := { value := opValue v, useThreshold := opUseT v, phase := opPhase v }

/-- Table 4.7: a response of 16 bytes. -/
def syncRsp (st opseq result : Nat) : Bytes := leBytes 16 (result % 256 + opseq % 2 ^ 32 * 2 ^ 8 + st % 2 ^ 64 * 2 ^ 64)

/-- What a cell answers an operation: at once, by queueing the waiter, or by parking it. -/
inductive CellAnswer where
  | now (result : Nat)
  | queue (cond : WaitCond)
  deriving DecidableEq, Repr

/-- Table 4.2, ADD in barrier mode. -/
def Cell.arrive (c : Cell) (v : Nat) : Option Cell :=
  if 1 ≤ v && v ≤ c.threshold then
    let n := c.count + v
    some (if c.threshold ≤ n then { c with count := n - c.threshold, phase := (c.phase + 1) % 65536 } else { c with count := n })
  else none

/-- R129, R131, Table 4.2: the effect of one operation and its answer: 0 OK, 1 SATISFIED, 0x10 MISUSE, 0x11 BUSY. -/
def Cell.perform (c : Cell) (off v : Nat) : Cell × CellAnswer :=
  let misuse := (c, CellAnswer.now 0x10)
  let wait := fun (c : Cell) (w : WaitCond) => if c.holds w then (c, CellAnswer.now 1) else (c, .queue w)
  if off ≠ 0 || !opClean v then misuse
  else if opCode v = 0 then (c, .now 0)
  else if opCode v = 1 then
    if c.mode = 0 then ({ c with count := (c.count + opValue v) % 2 ^ 32 }, .now 0)
    else if c.mode = 1 then
      match c.arrive (opValue v) with
      | some c => (c, .now 0)
      | none => misuse
    else misuse
  else if opCode v = 2 then (if c.mode = 1 then misuse else ({ c with count := opValue v }, .now 0))
  else if opCode v = 3 then wait c (opCond v)
  else if opCode v = 4 then
    if c.mode = 1 then
      match c.arrive (opValue v) with
      | some c' => wait c' { opCond v with phase := c.phase }
      | none => misuse
    else misuse
  else if opCode v = 5 then
    if opMode v = 3 || (opMode v = 1 && opValue v = 0) then misuse
    else if !c.waiters.isEmpty || !c.mask.isEmpty then (c, .now 0x11)
    else ({ c with mode := opMode v, threshold := opValue v, count := 0, phase := (c.phase + 1) % 65536 }, .now 0)
  else misuse

/-- A response to a waiter or an initiator (R242): SYNC_RSP, with the request's tracker and SEQ in AUX (DESIGN CHOICE,
notes/assumptions/25.md). -/
def sendSyncRsp (s : State) (node : Nat) (w : CellWaiter) (body : Bytes) : State :=
  send s node (.responder node)
    { mkPacket 0x21 w.src w.partition w.tag 0 body with aux := BitVec.ofNat 32 (w.stream * 2 ^ 16 + w.seq) }

/-- R130, R135: every waiter whose condition holds in the state that the operation leaves is released. -/
def releaseWaiters (s : State) (k : Nat) : State :=
  let c := cellOf s k
  let go := c.waiters.filter (fun w => c.holds w.cond)
  let s := modCell s k fun c => { c with waiters := c.waiters.filter (fun w => !c.holds w.cond) }
  go.foldl (fun s w => sendSyncRsp s (cellTile k) w (syncRsp (cellState (cellOf s k)) c.opseq 1)) s

/-- The tile of a die that takes its NOTIFYs: the fibre scheduler's on a vat die, the die service endpoint's on a deckle die. -/
def notifyTile (d : Nat) : Nat := if d < 16 then schedTile d else serviceTile d

/-- R132: a NOTIFY of the cell's state to each die in the mask. -/
def sendNotifies (s : State) (k : Nat) : State :=
  let c := cellOf s k
  if c.mask.isEmpty then s
  else
    let body := syncRsp (cellState c) c.opseq 0
    let s := c.mask.foldl (fun s e =>
      send s (cellTile k) (.endpoint (k / 256) 7) (mkPacket 0x43 (notifyTile e.1) 0 none (cellAddr k) body)) s
    let s := modCell s k fun c => { c with notifyAt := s.now }
    modVs s fun v => { v with notifiesSent := tinc v.notifiesSent (k / 256) c.mask.length }

/-- R128 to R132: a cell performs one operation, answers or queues its initiator, releases waiters and notifies. -/
def performSync (s : State) (k off : Nat) (p : Packet) : State :=
  let v := leNat p.payload
  let old := cellOf s k
  let seq := (old.opseq + 1) % 2 ^ 32
  let (c, ans) := ({ old with opseq := seq }).perform off v
  let who : CellWaiter :=
    { cond := opCond v, src := p.src.toNat, stream := p.stream.toNat, sgen := p.sgen.toNat, seq := p.seq.toNat
      partition := p.partition.toNat, tag := p.tagOpt }
  let die := dieOf p.src.toNat
  let s := modCell s k (fun _ => c)
  let s := match ans with
    | .now r => sendSyncRsp s (cellTile k) who (syncRsp (cellState c) seq r)
    | .queue w =>
      if c.waiters.length < 64 then modCell s k fun c => { c with waiters := c.waiters ++ [{ who with cond := w }] }
      else
        let s := sendSyncRsp s (cellTile k) who (syncRsp (cellState c) seq 2)
        let s := modCell s k fun c => { c with mask := tput c.mask die seq }
        event s (cellTile k) 7 0x22 p.partition.toNat (die * 2 ^ 8 + k % 256)
  let s := releaseWaiters s k
  if c.count ≠ old.count || c.phase ≠ old.phase || c.mode ≠ old.mode then sendNotifies s k else s

/-- R116, R129: a sync operation in sequence is checked and performed at its cell's tile. -/
def syncArrive (s : State) (node : Nat) (p : Packet) : State :=
  rxArrive s node p fun s =>
    match decodeAddr p.addr.toNat with
    | some (.syncCell d c off) =>
      if tableBad s node 1 p.partition.toNat && p.partition != 0 then refuseTable s node p p.addr.toNat
      else if cellTile (256 * d + c) != node || !windowOk s p p.addr.toNat 1 2 then windowRefuse s node p 7
      else performSync s (256 * d + c) off p
    | _ => windowRefuse s node p 7

/-- A sync operation with one of these OP codes reaches its cell. -/
def syncCommand (node : NodeId) (p : Packet) (ok : Nat → Bool) (s : State) : Host.Outcome State Fault Refusal :=
  if ok (opCode (leNat p.payload)) then onArrival node p [3] s fun s => syncArrive s node.toNat p else .next s

/-- SYNC_READ (R129): READ, and every reserved OP, which answers MISUSE. -/
def execSyncRead (node : NodeId) (p : Packet) (s : State) : Host.Outcome State Fault Refusal :=
  syncCommand node p (fun o => o == 0 || decide (6 ≤ o)) s
def execSyncAdd (node : NodeId) (p : Packet) (s : State) : Host.Outcome State Fault Refusal := syncCommand node p (· == 1) s
def execSyncSet (node : NodeId) (p : Packet) (s : State) : Host.Outcome State Fault Refusal := syncCommand node p (· == 2) s
def execSyncWait (node : NodeId) (p : Packet) (s : State) : Host.Outcome State Fault Refusal := syncCommand node p (· == 3) s
def execSyncArriveWait (node : NodeId) (p : Packet) (s : State) : Host.Outcome State Fault Refusal := syncCommand node p (· == 4) s
def execSyncConfigure (node : NodeId) (p : Packet) (s : State) : Host.Outcome State Fault Refusal := syncCommand node p (· == 5) s

/-- R124, R189, R224: a waiter's sync operation has completed with a STATE word: RET is written, and the op or instruction finishes. result is
for the trace event of a sequencer's wait. -/
def completeSync (s : State) (d : Nat) (who : Waiter) (st result : Nat) : State :=
  match who with
  | .fibre slice slot =>
    match fibreAt s d slice slot with
    | some x =>
      match x.wait with
      | some (.sync _ _ _ ret _) =>
        let regs := match ret with | some r => regSet x.regs r (BitVec.ofNat 64 st) | none => x.regs
        finishOp (putFibre s d slice slot { x with regs := regs }) d slice slot
      | _ => s
    | none => s
  | .sequencer =>
    match (seqOf s d).wait with
    | some (.sync k pay _ ret _ since) =>
      let s := waitEvent s d (opCode pay) result since (cellAddr k)
      seqNext s d (fun q => match ret with | some r => seqSetReg r (BitVec.ofNat 64 st) q | none => q)
    | _ => s

/-- The cell that a waiter's sync operation names. -/
def waiterCell (s : State) (d : Nat) : Waiter → Option (Nat × WaitCond)
  | .fibre slice slot =>
    match (fibreAt s d slice slot).bind (·.wait) with
    | some (.sync k op c _ _) => if op = 3 || op = 4 then some (k, c) else none
    | _ => none
  | .sequencer =>
    match (seqOf s d).wait with
    | some (.sync k pay ph _ _ _) =>
      if opCode pay = 3 || opCode pay = 4 then some (k, { opCond pay with phase := ph }) else none
    | _ => none

/-- The vat has a WAIT to the cell that awaits an answer, or holds a wait on it (R133). -/
def vatWaitsOn (s : State) (d k : Nat) : Bool :=
  let v := vatOf s d
  v.waitTable.any (fun w => w.cell == k) || v.resend.any (fun w => w.cell == k) ||
    v.fibres.any (fun e => match e.2.wait with | some (.sync k' _ _ _ _) => k' == k | _ => false) ||
    (match v.seq.wait with | some (.sync k' _ _ _ _ _) => k' == k | _ => false)

/-- R133, R134: a PARKED answer is tested against a later NOTIFY already received, entered in the wait table, or put off until an entry frees. -/
def parkedAnswer (s : State) (d k : Nat) (who : Waiter) (cond : WaitCond) (opseq : Nat) : State :=
  let s := modVat s d fun v =>
    { v with parkedSeq := tmod v.parkedSeq k opseq (fun q => if serialLt 32 q opseq then opseq else q) }
  let later := match tget (vatOf s d).notifies k with
    | some (q, st) => if serialLt 32 opseq q && stateHolds s k st cond then some st else none
    | none => none
  match later with
  | some st => unparkIfDone (completeSync s d who st 1) d k
  | none =>
    let e : Parked := { cell := k, cond := cond, opseq := opseq, who := who }
    if (vatOf s d).waitTable.length < 4096 then modVat s d fun v => { v with waitTable := v.waitTable ++ [e] }
    else modVat s d fun v => { v with resend := v.resend ++ [e], waitFull := v.waitFull + 1 }

/-- NOTIFY (R133): the vat releases each parked wait on the cell that the notified state satisfies and that parked before it. -/
def execNotify (node : NodeId) (p : Packet) (s : State) : Host.Outcome State Fault Refusal :=
  onArrival node p [0x43] s fun s =>
    let d := dieOf node.toNat
    let v := leNat p.payload
    let st := bits v 127 64
    let q := bits v 39 8
    match decodeAddr p.addr.toNat with
    | some (.syncCell cd c _) =>
      let k := 256 * cd + c
      let go := (vatOf s d).waitTable.filter (fun w => w.cell == k && serialLt 32 w.opseq q && stateHolds s k st w.cond)
      let s := modVat s d fun x => { x with waitTable := x.waitTable.filter (fun w => !go.contains w) }
      let s := go.foldl (fun s w => completeSync s d w.who st 1) s
      let s := if vatWaitsOn s d k then modVat s d fun x => { x with notifies := tput x.notifies k (q, st) } else s
      unparkIfDone s d k
    | _ => s

/-- UNPARK (R132): the cell clears the die's bit if the UNPARK's OPSEQ is not earlier than the last PARKED it sent to that die. -/
def execUnpark (node : NodeId) (p : Packet) (s : State) : Host.Outcome State Fault Refusal :=
  onArrival node p [0x44] s fun s =>
    let d := dieOf p.src.toNat
    let q := bits (leNat p.payload) 39 8
    match decodeAddr p.addr.toNat with
    | some (.syncCell cd c _) =>
      let k := 256 * cd + c
      match tget (cellOf s k).mask d with
      | some last => if serialLt 32 q last then s else modCell s k fun c => { c with mask := tdel c.mask d }
      | none => s
    | _ => s

/-- NOTIFY_REPEAT (R342): after 100 µs a cell with a non-empty mask notifies its current state again. -/
def execNotifyRepeat (cell : CellId) (s : State) : Host.Outcome State Fault Refusal :=
  let k := cell.val
  if (cellOf s k).mask.isEmpty then .next s
  else .next (sendNotifies (timeReaches s ((cellOf s k).notifyAt + 100000)) k)

/-- Table 4.7: the payload of a plain WAIT for a condition. -/
def waitPayload (c : WaitCond) : Nat := 3 + bitOf c.useThreshold * 2 ^ 10 + c.value % 2 ^ 32 * 2 ^ 32 + c.phase % 2 ^ 16 * 2 ^ 64

/-- A sync operation of a fibre or sequencer waits at its tile's injection port. -/
def sendSync (s : State) (d : Nat) (who : Waiter) (owner : Initiator) (tag : Option Nat) (addr pay : Nat) : State :=
  let node := match who with | .fibre sl _ => nodeAt d sl | .sequencer => seqTile d
  let dest := match decodeAddr addr with | some r => r.tile | none => 0
  send s node owner (mkPacket 3 dest (vatOwner s.cfg d) tag addr (leBytes 16 pay))

/-- WAIT_RESEND (R134): an entry of the wait table is free, and the wait that was refused one first goes again as a plain WAIT. -/
def execWaitResend (vat : VatId) (s : State) : Host.Outcome State Fault Refusal :=
  let d := vat.val
  let v := vatOf s d
  match v.resend with
  | [] => .next s
  | w :: rest =>
    if v.waitTable.length < 4096 then
      let s := modVat s d fun v => { v with resend := rest }
      let (owner, tag) := match w.who with
        | .fibre slice slot =>
          match fibreAt s d slice slot with
          | some x => (fibreOwner d slice slot x, x.tag)
          | none => (.sequencer d, none)
        | .sequencer => (.sequencer d, none)
      .next (sendSync s d w.who owner tag (cellAddr w.cell) (waitPayload w.cond))
    else .next s

/-- WAIT_LIMIT_EXPIRY (R136, R225): a wait of a fibre or of the sequencer is still unsatisfied at the vat's wait limit. -/
def execWaitLimitExpiry (vat : VatId) (seq : Bool) (slice : SliceId) (slot : SlotId) (s : State) : Host.Outcome State Fault Refusal :=
  let d := vat.val
  let limit := 1000 * setting s 0x3404 (d + 1)
  if limit = 0 then .next s
  else if seq then
    match (seqOf s d).wait with
    | some (.sync _ pay _ _ noLimit since) =>
      if !noLimit && (opCode pay = 3 || opCode pay = 4) then .next (seqTrap (timeReaches s (since + limit)) d 7) else .next s
    | some (.batch h _ noLimit since) =>
      if !noLimit then .next (seqTrap (timeReaches s (since + limit)) d 7 0 h) else .next s
    | some (.mc g _ noLimit since) =>
      if !noLimit then .next (seqTrap (timeReaches s (since + limit)) d 7 0 g) else .next s
    | _ => .next s
  else
    match (fibreAt s d slice.val slot.val).bind (·.wait) with
    | some (.sync _ op _ _ since) =>
      if op = 3 || op = 4 then .next (fibreFault (timeReaches s (since + limit)) d slice.val slot.val 5) else .next s
    | some (.mc _ _ since) => .next (fibreFault (timeReaches s (since + limit)) d slice.val slot.val 5)
    | some (.leaf _ _ _ since) => .next (fibreFault (timeReaches s (since + limit)) d slice.val slot.val 5)
    | some (.watch since) => .next (fibreFault (timeReaches s (since + limit)) d slice.val slot.val 5)
    | _ => .next s

/-- R124, R133, R189, R224: a sync response reaches the fibre or sequencer that waits for it. -/
def syncAnswer (s : State) (d : Nat) (who : Waiter) (v : Nat) : State :=
  let st := bits v 127 64
  let q := bits v 39 8
  let r := bits v 7 0
  if r = 0 || r = 1 then completeSync s d who st r
  else if r = 2 then
    match waiterCell s d who with
    | some (k, c) =>
      let op := match who with
        | .fibre slice slot =>
          match (fibreAt s d slice slot).bind (·.wait) with | some (.sync _ op _ _ _) => op | _ => 3
        | .sequencer => match (seqOf s d).wait with | some (.sync _ pay _ _ _ _) => opCode pay | _ => 3
      parkedAnswer s d k who (if op = 4 then { c with phase := bits st 63 48 } else c) q
    | none => s
  else
    match who with
    | .fibre slice slot => fibreFault s d slice slot 4
    | .sequencer =>
      match (seqOf s d).wait with
      | some (.sync k _ _ _ _ _) => seqTrap s d 6 (cellAddr k)
      | _ => s

/-- SYNC_RSP (R124): a sync response reaches its initiator. -/
def execSyncRsp (node : NodeId) (p : Packet) (s : State) : Host.Outcome State Fault Refusal :=
  let n := node.toNat
  onArrival node p [0x21] s fun s =>
    rxHandle s n p false
      (fun s =>
        let (s, e) := takeExpect s n p 3
        match e with
        | none => s
        | some e =>
          let s := delivered s n p e
          match e.owner with
          | .fibre d slice slot batch index _ =>
            match fibreAt s d slice slot with
            | some x => if x.batch = batch && x.index = index then syncAnswer s d (.fibre slice slot) (leNat p.payload) else s
            | none => s
          | .sequencer d => syncAnswer s d .sequencer (leNat p.payload)
          | _ => s)
      (fun s => responseFailed s n p 3)

/-! ### Request contexts -/

/-- CONTEXT_DEADLINE (R142): the deadline tick of a context still in LIVE. -/
def execContextDeadline (port : PortId) (ctx : CtxId) (s : State) : Host.Outcome State Fault Refusal :=
  let x := ctxOf s port.val ctx.val
  if x.state = 1 then .next (enterKilling (timeReaches s x.deadline) port.val ctx.val 0x10) else .next s

/-- R218: the fibres of a killed tag's batches that are not yet resident count as faulted with KILLED and never become resident. -/
def Batch.killRest (b : Batch) : Batch :=
  let n := b.total - b.next
  if n = 0 then b else
    { b with
      next := b.total
      ended := b.ended + n
      faulted := b.faulted + n
      first := match b.first with
        | none => some (b.next, 0x0A)
        | some (i, c) => if b.next < i then some (b.next, 0x0A) else some (i, c) }

/-- R143, R144, R211, R217, R218, R565: what a vat does on KILL. -/
def vatKill (s : State) (d tag : Nat) : State :=
  let mine := ((vatOf s d).fibres.filter (fun e => e.2.tag == some tag)).map (·.1)
  let s := mine.foldl (fun s k => fibreFault s d (k / 256) (k % 256) 0x0A) s
  let s := modVat s d fun v =>
    { v with
      batches := v.batches.map (fun b => if b.tag = some tag then b.killRest else b)
      kills := tput v.kills (tagPort tag * 256 + tagCtx tag) (tagGen tag)
      queue := v.queue.filter (fun e => !(bits e.1 15 0 == tag)) }
  modObs s fun o => { o with watch := tmod o.watch d [] (fun l => l.filter (fun w => w.tag != some tag)) }

/-- KILL (R143): a vat answers every KILL, and a repeat again, with KILL_DONE (R342). -/
def execKill (node : NodeId) (p : Packet) (s : State) : Host.Outcome State Fault Refusal :=
  let d := dieOf node.toNat
  if d ≥ 16 || !p.tagValid then .next s
  else onArrival node p [0x45] s fun s =>
    let tag := p.tag.toNat
    let s := vatKill s d tag
    send s (schedTile d) (.endpoint d 6) (mkPacket 0x46 (admissionTile (tagPort tag)) p.partition.toNat (some tag) 0 [])

/-- R139, R146: a context whose completion is posted, and whose fibres are killed, becomes FREE; its generation rises. -/
def freeContext (s : State) (p c : Nat) : State :=
  let x := ctxOf s p c
  let s := modCtx s p c fun x => { gen := (x.gen + 1) % 64 }
  event s (admissionTile p) 0x12 0x21 x.partition (x.fault * 2 ^ 19 + ctxTag p c x.gen)

/-- A vat has answered KILL, or counts as having done so. -/
def killAnswered (s : State) (p c d : Nat) : State :=
  let s := modCtx s p c fun x => { x with kills := x.kills.filter (· != d) }
  let x := ctxOf s p c
  if x.kills.isEmpty && x.posted then freeContext s p c else killSettle s p c

/-- KILL_DONE (R140, R143). -/
def execKillDone (node : NodeId) (p : Packet) (s : State) : Host.Outcome State Fault Refusal :=
  onArrival node p [0x46] s fun s =>
    let t := p.tag.toNat
    if p.tagValid && tagCurrent s t then killAnswered s (tagPort t) (tagCtx t) (dieOf p.src.toNat) else s

/-- KILL_REPEAT (R342): KILL goes again, 2 µs after the last, to a vat that has not answered. -/
def execKillRepeat (port : PortId) (ctx : CtxId) (vat : VatId) (s : State) : Host.Outcome State Fault Refusal :=
  let x := ctxOf s port.val ctx.val
  if x.kills.contains vat.val then
    let s := timeReaches s (x.killLast + 2000)
    let s := modCtx s port.val ctx.val fun x => { x with killLast := s.now }
    .next (sendKill s port.val (ctxTag port.val ctx.val x.gen) x.partition vat.val)
  else .next s

/-- KILL_LOST (R347, R348): a vat has not answered KILL within 1,000 µs: its partition fails, and the context goes on without it, with fault
DEADLINE. -/
def execKillLost (port : PortId) (ctx : CtxId) (vat : VatId) (s : State) : Host.Outcome State Fault Refusal :=
  let x := ctxOf s port.val ctx.val
  if x.kills.contains vat.val then
    let s := timeReaches s (x.killAt + 1000000)
    let s := failPartition s x.partition 0x62
    let s := report s
      { cause := 0x62, cls := 3, unit := 0x12, source := admissionTile port.val, partition := some x.partition, detail := vat.val
        tag := some (ctxTag port.val ctx.val x.gen) }
    let s := if x.state = 3 then modCtx s port.val ctx.val fun x => { x with fault := 0x10 } else s
    .next (killAnswered s port.val ctx.val vat.val)
  else .next s

/-! ### Fibres becoming resident -/

/-- R215: the home slice of fibre i. -/
def Batch.home (b : Batch) (i : Nat) : Nat :=
  let n := b.slices.length
  b.slices.getD (if b.blocked then i * n / b.total else i % n) 0

/-- R102: the registers of fibre i at launch. -/
def Batch.launchRegs (b : Batch) (i : Nat) : List Word :=
  let x := i % b.extX
  let y := i / b.extX % b.extY
  let z := i / (b.extX * b.extY)
  [BitVec.ofNat 64 i, BitVec.ofNat 64 (x + y * 2 ^ 21 + z * 2 ^ 42),
   BitVec.ofNat 64 ((match b.tag with | some t => t + 2 ^ 16 | none => 0) + b.num * 2 ^ 32)] ++ b.args

/-- FIBRE_RESIDENT (R101, R219): in a free slot of a slice, the next fibre of the earliest batch whose next fibre belongs there. -/
def execFibreResident (vat : VatId) (slice : SliceId) (slot : SlotId) (s : State) : Host.Outcome State Fault Refusal :=
  let d := vat.val
  if (fibreAt s d slice.val slot.val).isSome || !dieUp s d then .next s
  else match (vatOf s d).batches.find? (fun b => decide (b.next < b.total) && b.home b.next == slice.val) with
  | none => .next s
  | some b =>
    let x : Fibre :=
      { regs := b.launchRegs b.next, program := b.program, batch := b.num, index := b.next, tag := b.tag, bank := b.bank }
    let s := modBatch s d b.num fun b => { b with next := b.next + 1 }
    .next (putFibre s d slice.val slot.val x)

end Sys2Proof.Machine
end

