-- ==== Sys2Proof/Machine/Seq.lean ====
section
/-!
DEFINITION. Machine/Seq.lean: the vat sequencer's instructions (R195 to R228, Table 6.3), batches (R214 to R223), and the checks of a program
(R233, R234, Table 6.11). Each command executes the instruction word at the sequencer's PC when it is of the command's opcode.
-/
namespace Sys2Proof.Machine

/-- The fields of an instruction word (Table 6.3): [25:21], [20:16], [15:11] and [15:0]. -/
def fA (w : Nat) : Nat := bits w 25 21
def fB (w : Nat) : Nat := bits w 20 16
def fC (w : Nat) : Nat := bits w 15 11
def fImm (w : Nat) : Nat := bits w 15 0

/-- R195: a scalar register; s0 reads 0. -/
def sreg (s : State) (d r : Nat) : Word := if r = 0 then 0 else regGet (seqOf s d).regs r

/-- R196: the sequencer executes the word at PC when it is RUNNING and nothing it issued holds it, and the word is of the command's opcode. An
uncorrectable program word traps (R235). -/
def seqStep (d : Nat) (op : Nat) (f : State → Nat → State) (s : State) : Host.Outcome State Fault Refusal :=
  let q := seqOf s d
  let w := (q.prog.getD q.pc 0).toNat
  if q.state = 2 && q.wait.isNone && dieUp s d && bits w 31 26 = op then
    if q.badWords.contains q.pc then
      .next (seqTrap (report s { cause := 0x34, cls := 2, unit := 5, source := seqTile d, detail := q.pc }) d 1)
    else .next (f s w)
  else .next s

/-- R206: an instruction that only writes SD. -/
def seqWrite (d sd : Nat) (v : Word) (s : State) : State := seqNext s d (seqSetReg sd v)

/-- R format: SD = SA op SB. -/
def seqR (d op : Nat) (f : Word → Word → Word) (s : State) : Host.Outcome State Fault Refusal :=
  seqStep d op (fun s w => seqWrite d (fA w) (f (sreg s d (fB w)) (sreg s d (fC w))) s) s

/-- I format: SD = SA op IMM. -/
def seqI (d op : Nat) (f : Word → Nat → Word) (s : State) : Host.Outcome State Fault Refusal :=
  seqStep d op (fun s w => seqWrite d (fA w) (f (sreg s d (fB w)) (fImm w)) s) s

/-- Sign-extended and zero-extended immediates (R206). -/
def immS (i : Nat) : Word := BitVec.signExtend 64 (BitVec.ofNat 16 i)
def immZ (i : Nat) : Word := BitVec.ofNat 64 i

/-- Arithmetic right shift by the low 6 bits of an amount. -/
def sra (a : Word) (n : Nat) : Word := BitVec.sshiftRight a (n % 64)

def execSeqAdd (vat : VatId) (s : State) : Host.Outcome State Fault Refusal := seqR vat.val 0x01 (fun a b => a + b) s
def execSeqSub (vat : VatId) (s : State) : Host.Outcome State Fault Refusal := seqR vat.val 0x02 (fun a b => a - b) s
def execSeqMul (vat : VatId) (s : State) : Host.Outcome State Fault Refusal := seqR vat.val 0x03 (fun a b => a * b) s
def execSeqAnd (vat : VatId) (s : State) : Host.Outcome State Fault Refusal := seqR vat.val 0x04 (fun a b => a &&& b) s
def execSeqOr (vat : VatId) (s : State) : Host.Outcome State Fault Refusal := seqR vat.val 0x05 (fun a b => a ||| b) s
def execSeqXor (vat : VatId) (s : State) : Host.Outcome State Fault Refusal := seqR vat.val 0x06 (fun a b => a ^^^ b) s
def execSeqShl (vat : VatId) (s : State) : Host.Outcome State Fault Refusal :=
  seqR vat.val 0x07 (fun a b => a <<< (b.toNat % 64)) s
def execSeqShr (vat : VatId) (s : State) : Host.Outcome State Fault Refusal :=
  seqR vat.val 0x08 (fun a b => a >>> (b.toNat % 64)) s
def execSeqSra (vat : VatId) (s : State) : Host.Outcome State Fault Refusal := seqR vat.val 0x09 (fun a b => sra a b.toNat) s
def execSeqSlt (vat : VatId) (s : State) : Host.Outcome State Fault Refusal :=
  seqR vat.val 0x0A (fun a b => if a.slt b then 1 else 0) s
def execSeqSltu (vat : VatId) (s : State) : Host.Outcome State Fault Refusal :=
  seqR vat.val 0x0B (fun a b => if a.ult b then 1 else 0) s
def execSeqMinu (vat : VatId) (s : State) : Host.Outcome State Fault Refusal :=
  seqR vat.val 0x0C (fun a b => if a.ult b then a else b) s
def execSeqMaxu (vat : VatId) (s : State) : Host.Outcome State Fault Refusal :=
  seqR vat.val 0x0D (fun a b => if a.ult b then b else a) s

def execSeqAddi (vat : VatId) (s : State) : Host.Outcome State Fault Refusal := seqI vat.val 0x10 (fun a i => a + immS i) s
def execSeqAndi (vat : VatId) (s : State) : Host.Outcome State Fault Refusal := seqI vat.val 0x11 (fun a i => a &&& immZ i) s
def execSeqOri (vat : VatId) (s : State) : Host.Outcome State Fault Refusal := seqI vat.val 0x12 (fun a i => a ||| immZ i) s
def execSeqXori (vat : VatId) (s : State) : Host.Outcome State Fault Refusal := seqI vat.val 0x13 (fun a i => a ^^^ immZ i) s
def execSeqShli (vat : VatId) (s : State) : Host.Outcome State Fault Refusal := seqI vat.val 0x14 (fun a i => a <<< (i % 64)) s
def execSeqShri (vat : VatId) (s : State) : Host.Outcome State Fault Refusal := seqI vat.val 0x15 (fun a i => a >>> (i % 64)) s
def execSeqSrai (vat : VatId) (s : State) : Host.Outcome State Fault Refusal := seqI vat.val 0x16 (fun a i => sra a i) s

/-- MOVK (Table 6.3, K format): 16 bits of SD replaced. -/
def execSeqMovk (vat : VatId) (s : State) : Host.Outcome State Fault Refusal :=
  seqStep vat.val 0x17 (fun s w =>
    let hw := bits w 17 16
    seqWrite vat.val (fA w)
      (BitVec.ofNat 64 (setBits (sreg s vat.val (fA w)).toNat (16 * hw + 15) (16 * hw) (fImm w))) s) s

/-- R207: the address of an LD or ST. -/
def memAddr (s : State) (d w : Nat) : Nat := (sreg s d (fB w) + immS (fImm w) * 8).toNat % 2 ^ 48

/-- R207: the checks of an LD or ST before anything is sent: ALIGN, UNMAPPED. -/
def memTrap (a : Nat) : Option Nat := if a % 8 ≠ 0 then some 2 else if !rangeMapped 3 a 8 then some 3 else none

/-- SEQ_LD (R207): the 8-byte read is issued; the instruction completes when its data return. -/
def execSeqLd (vat : VatId) (s : State) : Host.Outcome State Fault Refusal :=
  let d := vat.val
  seqStep d 0x18 (fun s w =>
    let a := memAddr s d w
    match memTrap a with
    | some c => seqTrap s d c a
    | none =>
      let dest := match decodeAddr a with | some r => r.tile | none => 0
      let p := { mkPacket 2 dest (vatOwner s.cfg d) none a [] with aux := 8 }
      modSeq (send s (seqTile d) (.sequencer d) p) d fun q => { q with wait := some (.load a (fA w) none) }) s

/-- SEQ_LD_DATA (R208): the LD's data have returned. -/
def execSeqLdData (vat : VatId) (s : State) : Host.Outcome State Fault Refusal :=
  let d := vat.val
  match (seqOf s d).wait with
  | some (.load _ sd (some data)) => .next (seqWrite d sd (BitVec.ofNat 64 (leNat data)) s)
  | _ => .next s

/-- SEQ_ST (R207, R208): SD's 8 bytes are sent, unless 32 STs are unacknowledged. -/
def execSeqSt (vat : VatId) (s : State) : Host.Outcome State Fault Refusal :=
  let d := vat.val
  seqStep d 0x19 (fun s w =>
    let a := memAddr s d w
    match memTrap a with
    | some c => seqTrap s d c a
    | none =>
      match decodeAddr a with
      | some (.syncCell _ _ _) => seqTrap s d 6 a
      | some r =>
        if 32 ≤ writesCount s (.sequencer d) then s
        else seqNext (send s (seqTile d) (.sequencer d)
          (mkPacket 1 r.tile (vatOwner s.cfg d) none a (leBytes 8 (sreg s d (fA w)).toNat))) d
      | none => s) s

/-- R201: a conditional branch; its outcome is a trace bit (R544). -/
def seqBr (d op : Nat) (f : Word → Word → Bool) (s : State) : Host.Outcome State Fault Refusal :=
  seqStep d op (fun s w =>
    let taken := f (sreg s d (fA w)) (sreg s d (fB w))
    let s := seqBranch s d taken
    seqNext s d (fun q => if taken then { q with pc := ((seqOf s d).pc + fImm w) % 65536 } else q)) s

def execSeqBeq (vat : VatId) (s : State) : Host.Outcome State Fault Refusal := seqBr vat.val 0x1C (fun a b => a == b) s
def execSeqBne (vat : VatId) (s : State) : Host.Outcome State Fault Refusal := seqBr vat.val 0x1D (fun a b => a != b) s
def execSeqBlt (vat : VatId) (s : State) : Host.Outcome State Fault Refusal := seqBr vat.val 0x1E (fun a b => a.slt b) s
def execSeqBltu (vat : VatId) (s : State) : Host.Outcome State Fault Refusal := seqBr vat.val 0x1F (fun a b => a.ult b) s
def execSeqBge (vat : VatId) (s : State) : Host.Outcome State Fault Refusal := seqBr vat.val 0x20 (fun a b => !(a.slt b)) s
def execSeqBgeu (vat : VatId) (s : State) : Host.Outcome State Fault Refusal := seqBr vat.val 0x21 (fun a b => !(a.ult b)) s

/-- Loop counter L of a sequencer, and its update (R195). -/
def loopOf (q : Sequencer) (l : Nat) : LoopCtr := q.loops.getD l {}

def loopSet : List LoopCtr → Nat → LoopCtr → List LoopCtr
  | [], 0, x => [x]
  | [], n + 1, x => {} :: loopSet [] n x
  | _ :: t, 0, x => x :: t
  | y :: t, n + 1, x => y :: loopSet t n x

/-- SEQ_LOOP (R202). -/
def execSeqLoop (vat : VatId) (s : State) : Host.Outcome State Fault Refusal :=
  let d := vat.val
  seqStep d 0x24 (fun s w =>
    let n := (sreg s d (bits w 22 18)).toNat
    let l := bits w 25 23
    if 16777215 < n then seqTrap s d 9 0 (n % 2 ^ 32)
    else
      let pc := (seqOf s d).pc
      let s := seqEvent s d 2 (pc % 2 ^ 16 * 2 ^ 24 + n)
      if n = 0 then seqNext s d (fun q => { q with pc := (pc + fImm w + 1) % 65536 })
      else seqNext s d (fun q => { q with loops := loopSet q.loops l { active := true, count := n, index := 0 } })) s

/-- SEQ_LEND (R203). -/
def execSeqLend (vat : VatId) (s : State) : Host.Outcome State Fault Refusal :=
  let d := vat.val
  seqStep d 0x25 (fun s w =>
    let l := bits w 25 23
    let q := seqOf s d
    let c := loopOf q l
    let i := c.index + 1
    if i = c.count then seqNext s d (fun q => { q with loops := loopSet q.loops l { c with active := false, index := i } })
    else seqNext s d (fun q' =>
      { q' with loops := loopSet q'.loops l { c with index := i }, pc := (q.pc + 65537 - fImm w) % 65536 })) s

/-- SEQ_RESTART (R204). -/
def execSeqRestart (vat : VatId) (s : State) : Host.Outcome State Fault Refusal :=
  let d := vat.val
  seqStep d 0x26 (fun s _ =>
    let n := ((seqOf s d).passes + 1) % 2 ^ 32
    let s := seqEvent s d 3 n
    seqNext s d (fun q => { q with pc := 0, passes := n, loops := q.loops.map (fun c => { c with active := false }) })) s

/-- SEQ_HALT (R204): PC stays at the HALT. -/
def execSeqHalt (vat : VatId) (s : State) : Host.Outcome State Fault Refusal :=
  let d := vat.val
  seqStep d 0x27 (fun s _ =>
    let s := seqEvent s d 4 ((seqOf s d).pc % 2 ^ 16)
    modSeq s d fun q => { q with state := 4, stopping := false }) s

def execSeqNop (vat : VatId) (s : State) : Host.Outcome State Fault Refusal := seqStep vat.val 0x28 (fun s _ => seqNext s vat.val) s

/-- SEQ_MFL: INDEX of a loop counter, or 0 where it is not ACTIVE. -/
def execSeqMfl (vat : VatId) (s : State) : Host.Outcome State Fault Refusal :=
  let d := vat.val
  seqStep d 0x2C (fun s w =>
    let c := loopOf (seqOf s d) (bits w 20 18)
    seqWrite d (fA w) (BitVec.ofNat 64 (if c.active then c.index else 0)) s) s

def execSeqTime (vat : VatId) (s : State) : Host.Outcome State Fault Refusal :=
  seqStep vat.val 0x2D (fun s w => seqWrite vat.val (fA w) (BitVec.ofNat 64 s.now) s) s

def execSeqMark (vat : VatId) (s : State) : Host.Outcome State Fault Refusal :=
  seqStep vat.val 0x2E (fun s w => seqNext (seqEvent s vat.val 0x0A (fImm w)) vat.val) s

/-! ### Batches -/

/-- Table 6.5 and the fields of a LAUNCH word. -/
structure LaunchArgs where
  extX : Nat
  extY : Nat
  extZ : Nat
  program : Nat
  slices : List Nat
  context : Nat
  place : Nat
  sd : Nat
  detach : Bool
  args : List Word
  /-- reserved fields of the block are 0 -/
  clean : Bool
  deriving DecidableEq, Repr

def launchArgs (s : State) (d w : Nat) : LaunchArgs :=
  let sa := fA w
  let r0 := (sreg s d sa).toNat
  let r1 := (sreg s d (sa + 1)).toNat
  let mask := (sreg s d (sa + 2)).toNat
  let ctx := (sreg s d (sa + 3)).toNat
  { extX := bits r0 20 0 + 1, extY := bits r0 41 21 + 1, extZ := bits r0 62 42 + 1
    program := bits r1 20 0
    slices := (List.range 64).filter (fun i => bitAt mask i)
    context := ctx, place := bits w 11 10, sd := bits w 9 5, detach := bitAt w 4
    args := (List.range (bits w 15 12)).map (fun i => sreg s d (fB w + i))
    clean := bits r0 63 63 == 0 && bits r1 63 21 == 0 && bits ctx 31 28 == 0 && bits ctx 23 17 == 0 }

def LaunchArgs.total (a : LaunchArgs) : Nat := a.extX * a.extY * a.extZ

/-- R214: LAUNCH_INVALID. -/
def LaunchArgs.invalid (a : LaunchArgs) : Bool :=
  !a.clean || decide (16777215 < a.total) || a.program % 64 != 0 || decide (0x180000 ≤ a.program) || a.slices.isEmpty || decide (1 < a.place)

def LaunchArgs.tag (a : LaunchArgs) : Option Nat := if bitAt a.context 16 then some (bits a.context 15 0) else none

/-- The model slots of a partition are keyed by 4 × partition + slot. -/
def slotKey (part slot : Nat) : Nat := 4 * part + slot

/-- R216: the weight bank of a vat that holds a generation of a slot. -/
def bankHolding (s : State) (d slot gen : Nat) : Option Nat :=
  (List.range 2).find? (fun b => tget (tgetD s.part.vats d {}).banks (2 * slot + b) == some gen)

/-- The generation in force for a slot of the vat's partition, where it holds a model. -/
def slotInForce (s : State) (d slot : Nat) : Option Nat :=
  match tget s.part.slots (slotKey (vatOwner s.cfg d) slot) with
  | some x => if x.digest.isEmpty || 4 ≤ slot then none else some x.generation.toNat
  | none => none

/-- R217: the context's kill record makes the tag stale. -/
def staleTag (s : State) (d tag : Nat) : Bool :=
  match tget (vatOf s d).kills (tagPort tag * 256 + tagCtx tag) with
  | some g => decide (subMod 6 g (tagGen tag) < 32)
  | none => false

/-- R216, R217, R221: the LAUNCH is accepted: a batch entry, the handle in SD, the trace event. -/
def launchAccept (s : State) (d : Nat) (a : LaunchArgs) (stale : Bool) : State :=
  let v := vatOf s d
  let num := v.nextBatch
  let slot := bits a.context 27 24
  let gen := match a.tag with
    | some _ => some (bits a.context 63 32)
    | none => slotInForce s d slot
  let b : Batch :=
    { num := num, detached := a.detach, total := a.total, extX := a.extX, extY := a.extY, program := a.program, slices := a.slices
      blocked := a.place == 1, args := a.args, tag := a.tag, bank := gen.bind (bankHolding s d slot), slot := slot
      generation := gen.getD 0 }
  let b := if stale then { b.killRest with done := true } else b
  let s := modVat s d fun v =>
    { v with
      batches := if stale && a.detach then v.batches else v.batches ++ [b]
      nextBatch := (num + 1) % 65536, launched := v.launched + 1 }
  let s := seqEvent s d 6 (num * 2 ^ 32 + (a.tag.getD 0) * 2 ^ 16 + bitOf a.tag.isSome)
    (some (a.total * 2 ^ 104 + a.program * 2 ^ 64))
  seqNext s d (seqSetReg a.sd (BitVec.ofNat 64 num))

/-- R214 to R221: a LAUNCH, first tried or resumed. It begins only when every earlier write of the sequencer is performed (R220). -/
def launchTry (s : State) (d w : Nat) : State :=
  let a := launchArgs s d w
  if a.invalid then seqTrap s d 0x0A
  else
    let stale := match a.tag with | some t => staleTag s d t | none => false
    if a.tag.isSome && !stale && (bankHolding s d (bits a.context 27 24) (bits a.context 63 32)).isNone then seqTrap s d 0x0B
    else if writesOut s (· == .sequencer d) then s
    else if 64 ≤ (vatOf s d).batches.length then
      modSeq s d fun q => { q with state := 3, wait := q.wait.orElse (fun _ => some (.launch s.now)) }
    else launchAccept s d a stale

/-- SEQ_LAUNCH (R214). -/
def execSeqLaunch (vat : VatId) (s : State) : Host.Outcome State Fault Refusal :=
  seqStep vat.val 0x30 (fun s w => launchTry s vat.val w) s

/-- LAUNCH_RESUME (R221): a batch entry is free, and the LAUNCH that waits for one goes on. -/
def execLaunchResume (vat : VatId) (s : State) : Host.Outcome State Fault Refusal :=
  let d := vat.val
  let q := seqOf s d
  match q.wait with
  | some (.launch _) => if (vatOf s d).batches.length < 64 then .next (launchTry s d (q.prog.getD q.pc 0).toNat) else .next s
  | _ => .next s

/-- Table 6.7: a batch's status word. -/
def Batch.status (b : Batch) : Nat :=
  bitOf b.done + (match b.first with | some (i, c) => i % 2 ^ 24 * 2 ^ 8 + c % 256 * 2 ^ 32 | none => 0) + b.faulted % 2 ^ 24 * 2 ^ 40

/-- R223: BWAIT reads a completed status into SD and frees the entry. -/
def bwaitDone (s : State) (d : Nat) (b : Batch) (sd since : Nat) : State :=
  let s := modVat s d fun v => { v with batches := v.batches.filter (fun x => x.num != b.num) }
  let s := waitEvent s d 0x10 1 since b.num
  seqWrite d sd (BitVec.ofNat 64 b.status) s

/-- BATCH_COMPLETE (R222): every fibre has ended or faulted, and every write of theirs has settled. -/
def execBatchComplete (vat : VatId) (num : BitVec 16) (s : State) : Host.Outcome State Fault Refusal :=
  let d := vat.val
  match (vatOf s d).batches.find? (fun b => b.num == num.toNat && !b.done) with
  | none => .next s
  | some b =>
    if b.ended < b.total ||
        writesOut s (fun o => match o with | .fibre d' _ _ n _ _ => d' == d && n == b.num | _ => false) then .next s
    else
      let s := event s (schedTile d) 6 7 (vatOwner s.cfg d) (b.num * 2 ^ 32 + b.faulted % 2 ^ 24)
      let b := { b with done := true }
      let s := if b.detached then modVat s d fun v => { v with batches := v.batches.filter (fun x => x.num != b.num) }
        else modBatch s d b.num (fun _ => b)
      match (seqOf s d).wait with
      | some (.batch h sd _ since) => if h = b.num && !b.detached then .next (bwaitDone s d b sd since) else .next s
      | _ => .next s

/-- SEQ_BWAIT (R223). -/
def execSeqBwait (vat : VatId) (s : State) : Host.Outcome State Fault Refusal :=
  let d := vat.val
  seqStep d 0x31 (fun s w =>
    let h := (sreg s d (fB w)).toNat
    match (vatOf s d).batches.find? (fun b => b.num == h && !b.detached) with
    | none => seqTrap s d 0x0C 0 (h % 2 ^ 32)
    | some b =>
      if b.done then bwaitDone s d b (fA w) s.now
      else if bitAt w 15 then
        let s := waitEvent s d 0x10 0 s.now h
        seqWrite d (fA w) (BitVec.ofNat 64 b.status) s
      else modSeq s d fun q => { q with state := 3, wait := some (.batch h (fA w) (bitAt w 14) s.now) }) s

/-- SEQ_TAKE (R213). -/
def execSeqTake (vat : VatId) (s : State) : Host.Outcome State Fault Refusal :=
  let d := vat.val
  seqStep d 0x32 (fun s w =>
    let e := (vatOf s d).queue.headD (0, 0, 0)
    let s := modVat s d fun v => { v with queue := v.queue.drop 1 }
    let s := seqEvent s d 5 (bits e.1 16 0)
    seqNext s d (fun q =>
      seqSetReg (fA w + 2) (BitVec.ofNat 64 e.2.2)
        (seqSetReg (fA w + 1) (BitVec.ofNat 64 e.2.1) (seqSetReg (fA w) (BitVec.ofNat 64 e.1) q)))) s

/-- QUEUE_POST (R210, R211): a delivery entry joins the vat's request queue of 1,024; one that finds it full is refused with UNIT_DOWN. -/
def execQueuePost (node : NodeId) (p : Packet) (s : State) : Host.Outcome State Fault Refusal :=
  let n := node.toNat
  let d := dieOf n
  onArrival node p [4] s fun s =>
    rxArrive s n p fun s =>
      if d ≥ 16 || 1024 ≤ (vatOf s d).queue.length then refuse s n p 0x41 p.addr.toNat 5
      else modVat s d fun v => { v with queue := v.queue ++ [(field p.payload 0 8, field p.payload 8 8, field p.payload 16 8)] }

/-- SEQ_SYNC (R224). -/
def execSeqSync (vat : VatId) (s : State) : Host.Outcome State Fault Refusal :=
  let d := vat.val
  seqStep d 0x34 (fun s w =>
    let a := (sreg s d (fB w)).toNat % 2 ^ 48
    let pay := (sreg s d (fC w)).toNat
    let phase := (sreg s d (fC w + 1)).toNat % 2 ^ 16
    if !mapped a then seqTrap s d 3 a
    else match decodeAddr a with
      | some (.syncCell die c _) =>
        let s := sendSync s d .sequencer (.sequencer d) none a (pay + phase * 2 ^ 64)
        modSeq s d fun q =>
          { q with
            state := if opCode pay = 3 || opCode pay = 4 then 3 else 2
            wait := some (.sync (256 * die + c) pay phase (if bitAt w 10 then some (fA w) else none) (bitAt w 9) s.now) }
      | _ => seqTrap s d 6 a) s

/-- SEQ_FENCE (R226). -/
def execSeqFence (vat : VatId) (s : State) : Host.Outcome State Fault Refusal :=
  seqStep vat.val 0x35 (fun s _ => if writesOut s (· == .sequencer vat.val) then s else seqNext s vat.val) s

/-! ### Loading a program -/

/-- Opcodes of Table 6.3 by format. -/
def isR (o : Nat) : Bool := decide (1 ≤ o) && decide (o ≤ 0x0D)
def isI (o : Nat) : Bool := decide (0x10 ≤ o) && decide (o ≤ 0x16) || o == 0x18 || o == 0x19
def isBr (o : Nat) : Bool := decide (0x1C ≤ o) && decide (o ≤ 0x21)
def opKnown (o : Nat) : Bool :=
  isR o || isI o || isBr o || [0x17, 0x24, 0x25, 0x26, 0x27, 0x28, 0x2C, 0x2D, 0x2E, 0x30, 0x31, 0x32, 0x34, 0x35, 0x36, 0x37].contains o

/-- Reason 3: a reserved field is not 0, or IMM is out of range for a shift. -/
def wordReserved (w : Nat) : Bool :=
  let o := bits w 31 26
  if isR o then bits w 10 0 != 0
  else if 0x14 ≤ o && o ≤ 0x16 then bits w 15 6 != 0
  else if o = 0x17 then bits w 20 18 != 0
  else if o = 0x24 then bits w 17 16 != 0
  else if o = 0x25 then bits w 22 16 != 0
  else if o = 0x26 || o = 0x27 || o = 0x28 || o = 0x35 then bits w 25 0 != 0
  else if o = 0x2C then bits w 17 0 != 0
  else if o = 0x2D then bits w 20 0 != 0
  else if o = 0x2E then bits w 25 16 != 0
  else if o = 0x30 then bits w 3 0 != 0
  else if o = 0x31 then bits w 13 0 != 0
  else if o = 0x32 then bits w 20 0 != 0
  else if o = 0x34 then bits w 8 0 != 0
  else if o = 0x36 then bits w 15 11 != 0
  else if o = 0x37 then bits w 20 16 != 0 || bits w 14 10 != 0
  else false

/-- Reason 4: a register or count is out of range. -/
def wordRange (w : Nat) : Bool :=
  let o := bits w 31 26
  if o = 0x30 then
    let n := bits w 15 12
    !(decide (1 ≤ fA w) && decide (fA w ≤ 28) && decide (n ≤ 13) && decide (fB w + n ≤ 32))
  else if o = 0x32 then !(decide (1 ≤ fA w) && decide (fA w ≤ 29))
  else if o = 0x34 then decide (30 < fC w)
  else false

/-- The LOOP words of a program: position and OFF. -/
def loopsOf (ws : List Nat) : List (Nat × Nat × Nat) :=
  (ws.zipIdx.filter (fun e => bits e.1 31 26 == 0x24)).map (fun e => (e.2, fImm e.1, bits e.1 25 23))

/-- The innermost loop body that holds a word, by its LOOP's position. -/
def innermost (loops : List (Nat × Nat × Nat)) (i : Nat) : Option Nat :=
  ((loops.filter (fun l => decide (l.1 < i) && decide (i ≤ l.1 + l.2.1))).map (·.1)).foldl
    (fun m a => match m with | none => some a | some b => some (Nat.max a b)) none

/-- Table 6.11, checks 2 to 8 on word i. -/
def wordCheck (ws : List Nat) (loops : List (Nat × Nat × Nat)) (i w : Nat) : Nat :=
  let o := bits w 31 26
  let off := fImm w
  let n := ws.length
  if !opKnown o then 2
  else if wordReserved w then 3
  else if wordRange w then 4
  else if (isBr o && (off == 0 || decide (n ≤ i + off))) || (o == 0x24 && (off == 0 || decide (n ≤ i + off + 1))) || (o == 0x25 && off == 0) then 5
  else if isBr o && innermost loops i != innermost loops (i + off) then 6
  else if o = 0x24 &&
      (let e := ws.getD (i + off) 0
       bits e 31 26 != 0x25 || bits e 25 23 != bits w 25 23 || fImm e != off) then 7
  else if o = 0x25 &&
      (let e := ws.getD (i - off) 0
       decide (i < off) || bits e 31 26 != 0x24 || bits e 25 23 != bits w 25 23 || fImm e != off) then 7
  else if o = 0x24 &&
      loops.any (fun l => decide (l.1 < i) && decide (i ≤ l.1 + l.2.1) && (decide (l.1 + l.2.1 < i + off) || l.2.2 == bits w 25 23)) then 8
  else 0

/-- Table 6.11: the first failing word and its reason, or none. -/
def progCheck (v : Bytes) : Option (Nat × Nat) :=
  let words := field v 4 4
  if field v 0 4 != 0x5A455153 || field v 12 4 != 0 || words = 0 || 65536 < words then some (0, 1)
  else
    let ws := (List.range words).map (fun i => field v (16 + 4 * i) 4)
    let loops := loopsOf ws
    match (ws.zipIdx.find? (fun e => wordCheck ws loops e.2 e.1 != 0)) with
    | some e => some (e.2, wordCheck ws loops e.2 e.1)
    | none =>
      let last := bits (ws.getD (words - 1) 0) 31 26
      if last = 0x26 || last = 0x27 then none else some (words - 1, 9)

/-- R234: a value that passes the checks replaces the whole program memory; the sequencer enters READY. -/
def loadProgram (s : State) (d : Nat) (v : Bytes) : State :=
  let ws := (List.range (field v 4 4)).map (fun i => BitVec.ofNat 32 (field v (16 + 4 * i) 4))
  modSeq s d fun q =>
    { q with prog := ws, version := field v 8 4, digest := sha384 v, state := 1, badWords := [] }

end Sys2Proof.Machine
end

