-- ==== Sys2Proof/Machine/Mcast.lean ====
section
/-!
DEFINITION. Machine/Mcast.lean: multicast groups (R275 to R291, R308 to R310): sending, the root's relay and acknowledgements, the member agents,
pruning and re-joining, with the acknowledgement entries of R263 and the sequencer's MCAST and MCWAIT.
-/
namespace Sys2Proof.Machine

/-- Member agents are keyed by 16 × group + vat. -/
def agentOf (s : State) (g d : Nat) : McAgent := tgetD s.vs.agents (16 * g + d) {}

def modAgent (s : State) (g d : Nat) (f : McAgent → McAgent) : State :=
  modVs s fun v => { v with agents := tmod v.agents (16 * g + d) {} f }

/-- R188, R228: the serial test of R129 on a delivered-byte count. -/
def mcSatisfied (count target : Nat) : Bool := decide (subMod 32 count target < 2 ^ 31)

/-- R280, R308: waits of vat d on group g fault: it is pruned there, or the group is NOTREE. -/
def mcDown (s : State) (g d : Nat) : Bool :=
  (agentOf s g d).pruned ||
    (mcEn (mcRecord s.ep.cur g) && (mcMembers (mcRecord s.ep.cur g)).contains d && mcNoTree s.ep.cur g)

/-- R188, R228: a rising count satisfies the waits of a vat on the group. -/
def mcWake (s : State) (g d : Nat) : State :=
  let n := (agentOf s g d).bytes
  let go := (vatOf s d).fibres.filter (fun e => match e.2.wait with | some (.mc g' t _) => g' == g && mcSatisfied n t | _ => false)
  let s := go.foldl (fun s e => finishOp s d (e.1 / 256) (e.1 % 256)) s
  match (seqOf s d).wait with
  | some (.mc g' t _ since) => if g' = g && mcSatisfied n t then seqNext (waitEvent s d 0x11 1 since g) d else s
  | _ => s

/-- R308: the waits of a vat on a group that prunes it: RECV_MC faults with STREAM, MCWAIT traps with MC_FAULT. -/
def mcFailWaits (s : State) (g d : Nat) : State :=
  let go := (vatOf s d).fibres.filter (fun e => match e.2.wait with | some (.mc g' _ _) => g' == g | _ => false)
  let s := go.foldl (fun s e => fibreFault s d (e.1 / 256) (e.1 % 256) 7) s
  match (seqOf s d).wait with
  | some (.mc g' _ _ _) => if g' = g then seqTrap s d 0x0D 0 g else s
  | _ => s

/-- R284: deliveries that no unpruned member has still to acknowledge are performed, and their MC_SENDs acknowledged. -/
def mcSettle (s : State) (g : Nat) : State :=
  let root := mcRoot (mcRecord s.ep.cur g)
  let go := (mcOf s g).pending.filter (fun e => e.waiting.isEmpty)
  let s := modMc s g fun x => { x with pending := x.pending.filter (fun e => !e.waiting.isEmpty) }
  let s := go.foldl (fun s e => if e.local_.isSome then s else rxPerformed s root e.src e.stream e.sgen e.seq) s
  if go.isEmpty then s else settleAll s

/-- R308: the root prunes a member. -/
def mcPrune (s : State) (g d cause : Nat) : State :=
  if (mcOf s g).pruned.contains d then s
  else
    let r := mcRecord s.ep.cur g
    let root := mcRoot r
    let s := modMc s g fun x =>
      { x with pruned := x.pruned ++ [d], pending := x.pending.map (fun e => { e with waiting := e.waiting.filter (· != d) }) }
    let s := modAgent s g d fun a => { a with pruned := true, reports := [], tiles := [] }
    let s := modVs s fun v => { v with mcCounts := bump v.mcCounts 0 }
    let s := event s root (rootUnit root) 0x24 (mcPart r) (d * 2 ^ 10 + g)
    let s := report s
      { cause := cause, cls := 2, unit := rootUnit root, source := root, partition := some (mcPart r), detail := d * 2 ^ 10 + g }
    mcSettle (mcFailWaits s g d) g

/-- R287, R308: a member agent's acknowledgement entry at the root: STATUS 0 for this DSEQ and every earlier one, or a failure. -/
def mcAck (s : State) (g d seq status : Nat) : State :=
  match (mcOf s g).pending.find? (fun e => e.dseq % 65536 == seq && e.waiting.contains d) with
  | none => s
  | some hit =>
    if status ≠ 0 then mcPrune s g d 0x59
    else
      let upto := (mcOf s g).pending.takeWhile (fun e => e.dseq != hit.dseq)
      let s := modMc s g fun x =>
        { x with pending := x.pending.zipIdx.map (fun e =>
            if e.2 ≤ upto.length then { e.1 with waiting := e.1.waiting.filter (· != d) } else e.1) }
      mcSettle s g

/-- The group whose root tracker at a tile an entry names, in the bank in force or the old one. -/
def mcGroupOf (s : State) (node i seq d : Nat) : Option Nat :=
  let look := fun b : Bank => (mcRooted b node).find? (fun g => mcTracker b node g == i &&
    (mcOf s g).pending.any (fun e => e.dseq % 65536 == seq && e.waiting.contains d))
  (look s.ep.cur).orElse (fun _ => match s.ep.old with | some b => look b | none => none)

/-- One entry of an ACK packet from die d: of a stream, or of a multicast group that the tile roots. -/
def ackDispatch (s : State) (node d e : Nat) : State :=
  match mcGroupOf s node (bits e 5 0) (bits e 31 16) d with
  | some g => mcAck s g d (bits e 31 16) (bits e 33 32)
  | none => ackEntry s node e

/-- ACK (R263): acknowledgement entries reach a source. -/
def execAck (node : NodeId) (p : Packet) (s : State) : Host.Outcome State Fault Refusal :=
  onArrival node p [0x40] s fun s =>
    settleAll ((ackEntries p.payload).foldl (fun s e => ackDispatch s node.toNat (dieOf p.src.toNat) e) s)

/-- R150, R470: offset of a partition's weight bank in a slice. -/
def bankSize (s : State) (part : Nat) : Nat := setting s 0x3002 (part + 1)
def bankOffset (s : State) (part bank : Nat) : Nat := 0x180000 - (2 - bank) * bankSize s part

/-- R470: the loading bank of a vat for its partition's running update. -/
def loadingBank (s : State) (d : Nat) : Nat :=
  let p := vatOwner s.cfg d
  match (List.range 4).find? (fun k => match tget s.part.slots (slotKey p k) with | some x => x.running.isSome | none => false) with
  | none => 0
  | some k =>
    match slotInForce s d k with
    | none => 0
    | some gen => match bankHolding s d k gen with | some b => 1 - b | none => 0

/-! ### Receiving -/

/-- R286, R290: a receiver tile writes the bytes whose positions fall in its entries' ranges. -/
def mcWrite (s : State) (b : Bank) (g node position : Nat) (data : Bytes) : State :=
  let d := dieOf node
  let l := localOf node
  let es := (receivers b d).filter (fun e => bits e 63 54 == g && bits e 53 48 == l)
  es.foldl (fun s e =>
    let lo := bits e 95 64
    let hi := lo + bits e 127 96
    let base := bits e 20 0 + (if bitAt e 47 then bankOffset s (vatOwner b.cfg d) (loadingBank s d) else 0)
    let first := Nat.max position lo
    let last := Nat.min (position + data.length) hi
    if first < last then
      let a := d * 2 ^ 27 + l * 2 ^ 21 + base + (first - lo)
      cleanRange (writeMem s a (slice data (first - position) (last - first))) a (last - first)
    else s) s

/-- The agent's entry to the root (R287). -/
def agentAck (s : State) (b : Bank) (g d sgen seq status : Nat) : State :=
  let root := mcRoot (mcRecord b g)
  pushAck s (schedTile d) { dest := root, stream := mcTracker b root g, sgen := sgen, seq := seq, status := status }

/-- R286 to R288: the agent acknowledges, in DSEQ order, the packets that every receiver tile has reported, and counts their bytes. -/
def agentAdvance : Nat → State → Bank → Nat → Nat → State
  | 0, s, _, _, _ => s
  | f + 1, s, b, g, d =>
    let a := agentOf s g d
    match tget a.reports a.nextDseq with
    | none => s
    | some (slices, len, gen) =>
      if (mcTilesOf b g d).all (fun t => slices.contains (localOf t)) then
        let s := agentAck s b g d gen (a.nextDseq % 65536) 0
        let s := modAgent s g d fun a =>
          { a with
            bytes := (a.bytes + len) % 2 ^ 32, generation := gen, nextDseq := (a.nextDseq + 1) % 2 ^ 32
            reports := tdel a.reports a.nextDseq }
        agentAdvance f (mcWake s g d) b g d
      else s

/-- R289: the packet is in order for a tile that expects a DSEQ of a generation. -/
def mcInOrder (sequenced : Bool) (gen next : Nat) (p : Packet) : Bool :=
  p.seq.toNat == next % 65536 && (!sequenced || bits p.addr.toNat 47 32 == next / 65536) &&
    (p.sgen.toNat == gen || p.sgen.toNat == (gen + 1) % 1024)

/-- R286, R289: a receiver tile takes a packet of its group. -/
def mcReceive (s : State) (b : Bank) (node : Nat) (p : Packet) : State :=
  let g := bits p.aux.toNat 9 0
  let d := dieOf node
  let r := mcRecord b g
  let a := agentOf s g d
  if a.pruned || !(mcTilesOf b g d).contains node then s
  else
    let (gen, next) := tgetD a.tiles (localOf node) (a.generation, a.nextDseq)
    let fault := packetFault p
    if mcInOrder (mcSequenced r) gen next p && fault.isNone && p.partition.toNat = mcPart r && !tableBad s node 3 g then
      let s := mcWrite s b g node (bits p.addr.toNat 31 0) p.payload
      let s := modAgent s g d fun a =>
        { a with
          tiles := tput a.tiles (localOf node) (p.sgen.toNat, (next + 1) % 2 ^ 32)
          reports := tmod a.reports next ([], p.payload.length, p.sgen.toNat) (fun x => (localOf node :: x.1, x.2)) }
      agentAdvance 257 s b g d
    else
      let s := match fault with | some c => reportPkt s c 2 node p | none => s
      let s := if fault.isSome && mcInOrder (mcSequenced r) gen next p then
          let (bs, s) := drawBytes p.payload.length s
          mcWrite s b g node (bits p.addr.toNat 31 0) bs
        else s
      agentAck s b g d p.sgen.toNat p.seq.toNat 1

/-- MC_DELIVER (R286): a copy of a multicast packet reaches a receiver tile. -/
def execMcDeliver (node : NodeId) (p : Packet) (s : State) : Host.Outcome State Fault Refusal :=
  let n := node.toNat
  if tileUp s n && dieOf n < 16 && p.opcode = 0x61 then
    match takeArrived s n p, bankOfEpoch s p.epoch.toNat with
    | some s, some b => .next (mcReceive s b n p)
    | some s, none => .next s
    | none, _ => .next s
  else .next s

/-- MC_SEND (R283): the root relays a packet or refuses it; with 256 deliveries of the group unacknowledged the packet waits (R283). -/
def execMcSend (node : NodeId) (p : Packet) (s : State) : Host.Outcome State Fault Refusal :=
  let n := node.toNat
  let g := bits p.aux.toNat 9 0
  if mcWindowFull s g && (mcRefusal s n g p.partition.toNat).isNone then .next s
  else onArrival node p [0x60] s fun s =>
    rxHandle s n p true
      (fun s =>
        match mcRefusal s n g p.partition.toNat with
        | some cause => refuse s n p cause p.addr.toNat (rootUnit n) g
        | none =>
          let s := mcRelay s n g p none
          if (mcOf s g).pending.any (fun e => e.src == p.src.toNat && e.stream == p.stream.toNat && e.sgen == p.sgen.toNat
              && e.seq == p.seq.toNat && e.local_.isNone) then s
          else rxPerformed s n p.src.toNat p.stream.toNat p.sgen.toNat p.seq.toNat) id

/-- MC_ACK_TIMEOUT (R308): members that have not acknowledged a DSEQ within OD 0x2511 are pruned. -/
def execMcAckTimeout (group : McGroupId) (dseq : BitVec 32) (s : State) : Host.Outcome State Fault Refusal :=
  match (mcOf s group.val).pending.find? (fun e => e.dseq == dseq.toNat) with
  | none => .next s
  | some e =>
    let s := timeReaches s (e.at_ + 1000 * setting s 0x2511 0)
    .next (e.waiting.foldl (fun s d => mcPrune s group.val d 0x58) s)

/-- R310: a pruned member re-joins at the next DSEQ boundary, under the next generation. -/
def mcRejoin (s : State) (g d : Nat) : State :=
  let grp := mcOf s g
  let gen := (grp.generation + 1) % 1024
  let s := modMc s g fun x => { x with generation := gen, pruned := x.pruned.filter (· != d) }
  modAgent s g d fun _ => { generation := gen, nextDseq := grp.nextDseq }

/-! ### Sending -/

/-- The packets of a multicast: the bytes from a position, cut where the position passes a multiple of 4,096 (DESIGN CHOICE,
notes/assumptions/26.md). -/
def mcCuts : Nat → Nat → Bytes → List (Nat × Bytes)
  | 0, _, _ => []
  | f + 1, pos, data =>
    if data.isEmpty then [] else
      let k := 4096 - pos % 4096
      (pos, data.take k) :: mcCuts f (pos + k) (data.drop k)

/-- R281: a source's packets for a group wait at its injection port. -/
def sendMcast (s : State) (node : Nat) (owner : Initiator) (part : Nat) (tag : Option Nat) (g pos : Nat) (data : Bytes)
    (poison : Bool) : State :=
  let root := mcRoot (mcRecord (tileBank s node) g)
  (mcCuts (data.length / 4096 + 2) pos data).foldl (fun s e =>
    send s node owner
      { mkPacket 0x60 root part tag (e.1 % 2 ^ 32) e.2 with aux := BitVec.ofNat 32 g, poison := poison }) s

/-- SEQ_MCAST (R227): bytes of one slice's SRAM go to a group. -/
def execSeqMcast (vat : VatId) (s : State) : Host.Outcome State Fault Refusal :=
  let d := vat.val
  seqStep d 0x36 (fun s w =>
    let a := (sreg s d (fA w)).toNat % 2 ^ 48
    let b := (sreg s d (fB w)).toNat
    let n := bits b 31 0
    let g := bits w 9 0
    let inSlice := match decodeAddr a with
      | some (.vatSram die _ off) => die == d && decide (off + n ≤ 0x180000)
      | _ => false
    if n = 0 || 1572864 < n || !inSlice then seqTrap s d 0x0D a
    else if s.fab.trackers.any (fun t => t.2.unacked.any (fun u => u.pkt.opcode == 1 && u.owner == .sequencer d)) ||
        s.fab.waiting.any (fun x => x.2.any (fun o => o.pkt.opcode == 1 && o.owner == .sequencer d)) then s
    else if bitAt w 10 && writesOut s (· == .sequencer d) then s
    else
      let s := seqEvent s d 9 (g * 2 ^ 32 + n)
      let bad := badRange s a n
      let s := if bad then (match decodeAddr a with | some r => ueReport s r a | none => s) else s
      let s := sendMcast s (seqTile d) (.sequencer d) (vatOwner s.cfg d) none g (bits b 63 32) (readMem s a n) bad
      mcastSettle (modSeq s d fun q => { q with wait := some .mcast }) d) s

/-- SEQ_MCWAIT (R228). -/
def execSeqMcwait (vat : VatId) (s : State) : Host.Outcome State Fault Refusal :=
  let d := vat.val
  seqStep d 0x37 (fun s w =>
    let g := bits w 9 0
    let t := (sreg s d (fA w)).toNat % 2 ^ 32
    if mcDown s g d then seqTrap s d 0x0D 0 g
    else if mcSatisfied (agentOf s g d).bytes t then seqNext (waitEvent s d 0x11 1 s.now g) d
    else modSeq s d fun q => { q with state := 3, wait := some (.mc g t (bitAt w 15) s.now) }) s

end Sys2Proof.Machine
end

