-- ==== Sys2Proof/Machine/Reduce.lean ====
section
/-!
DEFINITION. Machine/Reduce.lean: reduction groups (R292 to R298, R302 to R307, R311 to R314): the in-tree of a group, the combining of chunks at
its nodes, credits, the delivery of a wave at the root, and RESYNC.
-/
namespace Sys2Proof.Machine

/-- Table 8.9: group g's record in a bank, and its fields. -/
def redRecord (b : Bank) (g : Nat) : Nat := leNat (bankValue b.cfg (0x2520 + g / 4) (g % 4 + 1))
def redEn (r : Nat) : Bool := bitAt r 0
def redSat (r : Nat) : Bool := bitAt r 25
def redFmt (r : Nat) : Nat := bits r 29 26
def redK (r : Nat) : Nat := bits r 31 30 + 1
def redPerTile (r : Nat) : Nat := bits r 38 32
def redElements (r : Nat) : Nat := bits r 53 39
def redResultBase (r : Nat) : Nat := bits r 74 54
def redStatusBase (r : Nat) : Nat := bits r 95 75
def redCell (r : Nat) : Nat := bits r 143 96
def redWindow (r : Nat) : Nat := bits r 159 144
def redPart (r : Nat) : Nat := bits r 163 160
def redRoot (r : Nat) : Nat := bits r 175 164
def redVats (r : Nat) : List Nat := (List.range 16).filter (fun d => bitAt r (176 + d))
def redSlices (r : Nat) : List Nat := (List.range 64).filter (fun k => bitAt r (192 + k))

/-- R294: chunks of a wave, and the elements of one. -/
def redChunks (r : Nat) : Nat := (redElements r + 127) / 128
def chunkElems (r c : Nat) : Nat := Nat.min 128 (redElements r - 128 * c)

/-- R293: the contributor tiles. -/
def redLeaves (r : Nat) : List Nat := (redVats r).flatMap (fun d => (redSlices r).map (nodeAt d))

/-- The tiles of an XY path towards a root that are not in a set yet, added to it. -/
def pathInto (root : Nat) : Nat → Table Unit → Nat → Table Unit
  | 0, t, _ => t
  | f + 1, t, cur =>
    if (tget t cur).isSome then t
    else
      let t := tput t cur ()
      if cur = root then t
      else match neighbour cur (stepPort 0 cur root) with
        | some m => pathInto root f t m
        | none => t

/-- R295: the tiles of a group's in-tree. -/
def redTiles (r : Nat) : Table Unit := (redLeaves r).foldl (fun t c => pathInto (redRoot r) 73 t c) [(redRoot r, ())]

/-- A group's in-tree, with what its nodes are found by. -/
structure RedTree where
  root : Nat
  tiles : Table Unit
  leaves : List Nat
  deriving DecidableEq, Repr

def redTree (r : Nat) : RedTree := { root := redRoot r, tiles := redTiles r, leaves := redLeaves r }

/-- The neighbours of a tile from which the tree enters it, with the mesh port. -/
def RedTree.inEdges (t : RedTree) (n : Nat) : List (Nat × Nat) :=
  [1, 2, 3, 4].filterMap (fun p =>
    match neighbour n p with
    | some m => if (tget t.tiles m).isSome && m != t.root && neighbour m (stepPort 0 m t.root) == some n then some (p, m) else none
    | none => none)

/-- R295: a node is a contributor, the root, or a tile where two or more paths meet. -/
def RedTree.isNode (t : RedTree) (n : Nat) : Bool :=
  (tget t.tiles n).isSome && (n == t.root || t.leaves.contains n || decide (2 ≤ (t.inEdges n).length))

def RedTree.nodes (t : RedTree) : List Nat := (t.tiles.map (·.1)).filter t.isNode

/-- The next node on the XY path. -/
def RedTree.up (t : RedTree) : Nat → Nat → Nat
  | 0, n => n
  | f + 1, n =>
    match neighbour n (stepPort 0 n t.root) with
    | some m => if t.isNode m then m else t.up f m
    | none => n

def RedTree.parent (t : RedTree) (n : Nat) : Nat := t.up 73 n

/-- The node behind an in-edge. -/
def RedTree.down (t : RedTree) : Nat → Nat → Nat
  | 0, n => n
  | f + 1, n => if t.isNode n then n else match t.inEdges n with | (_, m) :: _ => t.down f m | [] => n

/-- The children of a node, each with the mesh port by which its chunks arrive. -/
def RedTree.children (t : RedTree) (n : Nat) : List (Nat × Nat) := (t.inEdges n).map (fun e => (e.1, t.down 73 e.2))

/-- R295: a path of the tree touches a die out of service in the bank. -/
def redNoTree (b : Bank) (g : Nat) : Bool :=
  let r := redRecord b g
  !(redLeaves r).all (fun t => pathClear (bankOut b) b.badLinks 0 t (redRoot r))

/-- Nodes are keyed by 4096 × group + node ID. -/
def redNode (s : State) (g node : Nat) : RedNode := tgetD s.vs.nodes (4096 * g + node) {}

def modNode (s : State) (g node : Nat) (f : RedNode → RedNode) : State :=
  modVs s fun v => { v with nodes := tmod v.nodes (4096 * g + node) {} f }

def redOf (s : State) (g : Nat) : RedGroup := tgetD s.vs.red g {}

def modRed (s : State) (g : Nat) (f : RedGroup → RedGroup) : State := modVs s fun v => { v with red := tmod v.red g {} f }

/-- A wave counted modulo 2^32, as the count nearest to a known one. -/
def nearWave (known w : Nat) : Nat :=
  let d := subMod 32 w (known % 2 ^ 32)
  if d < 2 ^ 31 then known + d else known + d - 2 ^ 32

/-- R311: a chunk becomes FAULTED at a node, and the node logs the cause. -/
def redFault (s : State) (b : Bank) (g node n cause : Nat) : State :=
  let r := redRecord b g
  let nd := redNode s g node
  match tget nd.ctxs n with
  | none => s
  | some c =>
    if c.fault.isSome then s
    else
      let s := modNode s g node fun x => { x with ctxs := tput x.ctxs n { c with fault := some cause, elems := [] } }
      let s := if cause = 0x11 then modVs s fun v => { v with mcCounts := bump v.mcCounts 2 }
        else if cause = 0x50 then modVs s fun v => { v with mcCounts := bump v.mcCounts 3 } else s
      report s
        { cause := cause, cls := 2, unit := 1, source := node, partition := some (redPart r)
          detail := if cause = 0x11 then n % redChunks r else n / redChunks r % 2 ^ 32 }

/-- RED packets of a group: group 511 travels on TC7. -/
def redPacket (op dest part g aux addr : Nat) (payload : Bytes) : Packet :=
  let p := { mkPacket op dest part none addr payload with aux := BitVec.ofNat 32 (g + aux) }
  if g = 511 then { p with tc := 7 } else p

/-- R297: credits for a context go to the children whose chunks it held. -/
def redReturn (s : State) (b : Bank) (g node ctx : Nat) (dst : List Nat) : State :=
  dst.foldl (fun s m => if m = node then s
    else send s node (.endpoint (dieOf node) 1) (redPacket 0x71 m (redPart (redRecord b g)) g (ctx * 2 ^ 9) 0 [])) s

/-! ### Delivery at the root -/

/-- R303, R304: one element of a result in FMT_OUT, and whether a REAM output saturated. -/
def redOutput (r : Nat) (x : Wire) : Nat × Bool :=
  if redFmt r = 9 then x.memory else (encodeElem (redFmt r) (redSat r) (x.num (redWindow r)), false)

/-- Table 8.8: the flags of a good wave. -/
def waveFlags (r : Nat) (xs : List Wire) : Nat :=
  bitOf (xs.any (fun x => x.special == 1 || x.special == 2)) + bitOf (xs.any (fun x => x.special == 3)) * 2
    + bitOf (xs.any (·.inexact)) * 4 + bitOf (xs.any (fun x => x.range || (redOutput r x).2)) * 8

/-- The address of an offset in a tile's slice. -/
def sliceAddr (node off : Nat) : Nat := dieOf node * 2 ^ 27 + localOf node * 2 ^ 21 + off

def writeClean (s : State) (a : Nat) (b : Bytes) : State := cleanRange (writeMem s a b) a b.length

/-- R312, R314: wave w is delivered: its status record, its result elements where it is good, and ADD VALUE 1 with RELEASE to the cell. -/
def redDeliver (s : State) (b : Bank) (g w : Nat) (xs : List Wire) (fault : Option Nat) : State :=
  let r := redRecord b g
  let root := redRoot r
  let e := fmtBits (redFmt r) / 8
  let status := match fault with
    | some cause => s.now * 2 ^ 64 + w % 2 ^ 32 * 2 ^ 32 + 2 ^ 24 + cause % 256 * 2 ^ 16
    | none => s.now * 2 ^ 64 + w % 2 ^ 32 * 2 ^ 32 + waveFlags r xs
  let s := writeClean s (sliceAddr root (redStatusBase r + 32 * (w % 4))) (leBytes 32 status)
  let s := if fault.isSome then s
    else writeClean s (sliceAddr root (redResultBase r + w % 4 * redElements r * e)) (xs.flatMap (fun x => leBytes e (redOutput r x).1))
  let s := event s root 1 0x23 (redPart r) (w % 2 ^ 32 * 2 ^ 16 + bitOf fault.isSome * 2 ^ 9 + g)
  let dest := match decodeAddr (redCell r) with | some x => x.tile | none => 0
  let s := send s root (.endpoint (dieOf root) 1) (mkPacket 3 dest (redPart r) none (redCell r) (leBytes 16 (1 + 2 ^ 7 + 2 ^ 32)))
  modRed s g fun x => { x with nextWave := w + 1, faulted := x.faulted + bitOf fault.isSome, chunks := [] }

/-- R313: a RED_REPORT of a node. -/
def sendReport (s : State) (b : Bank) (g node : Nat) : State :=
  let r := redRecord b g
  let nd := redNode s g node
  let s := modNode s g node fun x => { x with reportAt := some s.now }
  send s node (.endpoint (dieOf node) 1) (redPacket 0x72 (redRoot r) (redPart r) g 0 0 (leBytes 8 ((nd.begun + 2 ^ 32 - 1) % 2 ^ 32)))

/-- R313: the group enters RESYNC: contributions that wait at a leaf fault, and every node reports. -/
def redEnter (s : State) (b : Bank) (g : Nat) : State :=
  let r := redRecord b g
  let s := modRed s g fun x => { x with resync := true, reports := [], chunks := [] }
  let s := (redVats r).foldl (fun s d =>
    ((vatOf s d).fibres.filter (fun e => match e.2.wait with | some (.leaf g' _ _ _) => g' == g | _ => false)).foldl
      (fun s e => fibreFault s d (e.1 / 256) (e.1 % 256) 9) s) s
  ((redTree r).nodes.filter (· != redRoot r)).foldl (fun s n => sendReport s b g n) s

/-! ### Combining -/

/-- R311: an input that has not arrived can no longer come: its link is FENCED or FAILED, or its contributor's vat is out of service. -/
def redInputDown (s : State) (t : RedTree) (node : Nat) (c : RedCtx) : Option Nat :=
  let missing := (t.children node).filter (fun e => !c.arrived.contains e.2)
  if missing.any (fun e => linkState s node e.1 == 5 || linkState s node e.1 == 6) then some 0x51
  else if missing.any (fun e => t.leaves.contains e.2 && !dieUp s (dieOf e.2)) then some 0x52
  else none

/-- Inputs that a node awaits for one chunk: its children's, and CONTRIB_PER_TILE of its own slice where it is a contributor. -/
def RedTree.expected (t : RedTree) (r node : Nat) : Nat :=
  (t.children node).length + (if t.leaves.contains node then redPerTile r else 0)

/-- R307, R311: what the chunk that a node must forward next has come to: none while inputs are awaited. -/
def redReady (s : State) (r : Nat) (t : RedTree) (node n : Nat) (c : RedCtx) : Option (Option Nat) :=
  match c.fault with
  | some cause => some (some cause)
  | none =>
    if c.arrived.length = t.expected r node then
      some (if residueFrom (128 * (n % redChunks r)) c.elems = c.residue % m61 then none else some 0x11)
    else (redInputDown s t node c).map some

/-- R296, R297, R312: chunks leave a node in order, each once its inputs are in and the parent's context is free; the root collects a wave. -/
def redAdvance : Nat → State → Bank → RedTree → Nat → Nat → State
  | 0, s, _, _, _, _ => s
  | f + 1, s, b, t, g, node =>
    let r := redRecord b g
    let nd := redNode s g node
    let n := nd.base
    match tget nd.ctxs n with
    | none => s
    | some c =>
      match redReady s r t node n c with
      | none => s
      | some fault =>
        let s := match fault with | some cause => redFault s b g node n cause | none => s
        let ctx := n % redK r
        let pop := fun s : State =>
          modNode (redReturn s b g node ctx c.arrived.eraseDups) g node fun x => { x with base := n + 1, ctxs := tdel x.ctxs n }
        if node = t.root then
          let s := pop s
          if (redOf s g).resync then redAdvance f s b t g node
          else
            let s := modRed s g fun x => { x with chunks := tput x.chunks (n % redChunks r) { c with fault := fault } }
            if n % redChunks r + 1 = redChunks r then
              let cs := (redOf s g).chunks
              let bad := (cs.filterMap (fun e => e.2.fault)).head?
              let s := redDeliver s b g (n / redChunks r) (cs.flatMap (fun e => e.2.elems)) bad
              redAdvance f (if bad.isSome then redEnter s b g else s) b t g node
            else redAdvance f s b t g node
        else if nd.spent.contains ctx then s
        else
          let s := modNode s g node fun x => { x with spent := x.spent ++ [ctx] }
          let elems := if fault.isSome then [] else c.elems
          let aux := (chunkElems r (n % redChunks r) - 1) * 2 ^ 9 + bitOf fault.isSome * 2 ^ 17 + fault.getD 0 * 2 ^ 18
          let p := redPacket 0x70 (t.parent node) (redPart r) g aux
            (n / redChunks r % 2 ^ 32 + n % redChunks r * 2 ^ 32) (elems.flatMap (fun x => leBytes 32 x.pack))
          let p := { p with checkValue := BitVec.ofNat 64 (residueFrom (128 * (n % redChunks r)) elems) }
          let s := send s node (.endpoint (dieOf node) 1) p
          redAdvance f (pop s) b t g node

/-- R302: two chunks' elements added. -/
def addElems (xs ys : List Wire) : List Wire := if xs.isEmpty then ys else List.zipWith Wire.add xs ys

/-- One input of a chunk enters its context. -/
def redInput (s : State) (g node n child : Nat) (chunks : Nat) (xs : List Wire) (residue : Nat) : State :=
  modNode s g node fun x =>
    let c := tgetD x.ctxs n { firstAt := s.now }
    let c := if c.fault.isSome then { c with arrived := c.arrived ++ [child] }
      else { c with arrived := c.arrived ++ [child], elems := addElems c.elems xs, residue := (c.residue + residue) % m61 }
    { x with ctxs := tput x.ctxs n c, begun := Nat.max x.begun (n / chunks + 1) }

/-- R187, R298: a contribution's chunk enters the leaf's context; none where the leaf has no context free for it. -/
def redContribute (s : State) (b : Bank) (g node wave chunk : Nat) (xs : List Wire) : Option State :=
  let r := redRecord b g
  let nd := redNode s g node
  let n := wave * redChunks r + chunk
  if n < nd.base then some s
  else if nd.base + redK r ≤ n then none
  else
    let s := redInput s g node n node (redChunks r) xs (residueFrom (128 * chunk) xs)
    let s := modRed s g fun x => { x with lastContribution := s.now }
    some (redAdvance (redK r + 1) s b (redTree r) g node)

/-- R307, R311: a chunk's fault as it arrives: the one it carries, a failed packet, an unusable context, or a residue that does not match. -/
def redArrivalFault (s : State) (node g chunk : Nat) (p : Packet) (xs : List Wire) : Option Nat :=
  if bitAt p.aux.toNat 17 then some (bits p.aux.toNat 25 18)
  else match packetFault p with
    | some c => some c
    | none =>
      if tableBad s node 4 g then some 0x35
      else if residueFrom (128 * chunk) xs = bits p.checkValue.toNat 60 0 then none else some 0x11

/-- A chunk is FAULTED by an input that says so: not logged again (R311). -/
def redCarry (s : State) (g node n cause : Nat) : State :=
  modNode s g node fun x => { x with ctxs := tmod x.ctxs n {} (fun c => { c with fault := c.fault.orElse (fun _ => some cause), elems := [] }) }

/-- R296, R297, R311: a node sinks a RED_CHUNK. -/
def redArrive (s : State) (b : Bank) (node : Nat) (p : Packet) : State :=
  let g := bits p.aux.toNat 8 0
  let r := redRecord b g
  let chunk := bits p.addr.toNat 47 32
  let nd := redNode s g node
  let n := nearWave (nd.base / redChunks r) (bits p.addr.toNat 31 0) * redChunks r + chunk
  let child := p.src.toNat
  if !redEn r || redChunks r = 0 then s
  else if n < nd.base then redReturn s b g node (n % redK r) [child]
  else if nd.base + redK r ≤ n || (tgetD nd.ctxs n {}).arrived.contains child then s
  else
    let xs := (List.range (p.payload.length / 32)).map (fun k => unpackWire (field p.payload (32 * k) 32))
    let s := match redArrivalFault s node g chunk p xs with
      | none => redInput s g node n child (redChunks r) xs (bits p.checkValue.toNat 60 0)
      | some cause =>
        let s := redInput s g node n child (redChunks r) [] 0
        if bitAt p.aux.toNat 17 then redCarry s g node n cause else redFault s b g node n cause
    redAdvance (redK r + 1) s b (redTree r) g node

/-- The bank whose trees a RED packet travels on. -/
def packetBank (s : State) (p : Packet) : Bank := (bankOfEpoch s p.epoch.toNat).getD s.ep.cur

/-- RED_CHUNK (R307). -/
def execRedChunk (node : NodeId) (p : Packet) (s : State) : Host.Outcome State Fault Refusal :=
  onArrival node p [0x70] s fun s => redArrive s (packetBank s p) node.toNat p

/-- RED_CREDIT (R297): a child receives a credit for its parent's context. -/
def execRedCredit (node : NodeId) (p : Packet) (s : State) : Host.Outcome State Fault Refusal :=
  onArrival node p [0x71] s fun s =>
    let b := packetBank s p
    let g := bits p.aux.toNat 8 0
    let s := modNode s g node.toNat fun x => { x with spent := x.spent.filter (· != bits p.aux.toNat 10 9) }
    redAdvance (redK (redRecord b g) + 1) s b (redTree (redRecord b g)) g node.toNat

/-- RED_TIMEOUT (R311): an input of a chunk has not arrived within OD 0x2513 of the chunk's first. -/
def execRedTimeout (node : NodeId) (group : RedGroupId) (wave : BitVec 32) (chunk : BitVec 16) (s : State) :
    Host.Outcome State Fault Refusal :=
  let b := tileBank s node.toNat
  let g := group.val
  let r := redRecord b g
  let nd := redNode s g node.toNat
  let n := nearWave (nd.base / redChunks r) wave.toNat * redChunks r + chunk.toNat
  match tget nd.ctxs n with
  | none => .next s
  | some c =>
    if c.fault.isSome || c.arrived.length = (redTree r).expected r node.toNat then .next s
    else
      let s := timeReaches s (c.firstAt + 1000 * setting s 0x2513 0)
      .next (redAdvance (redK r + 1) (redFault s b g node.toNat n 0x50) b (redTree r) g node.toNat)

/-! ### RESYNC -/

/-- RED_REPORT (R313): the root receives a node's report. -/
def execRedReport (node : NodeId) (p : Packet) (s : State) : Host.Outcome State Fault Refusal :=
  onArrival node p [0x72] s fun s =>
    let g := bits p.aux.toNat 8 0
    modRed s g fun x =>
      { x with reports := tput x.reports p.src.toNat (nearWave x.nextWave ((field p.payload 0 4 + 1) % 2 ^ 32)) }

/-- RED_REPORT_REPEAT (R342): a node that has not received RED_RESYNC reports again after the quiet time. -/
def execRedReportRepeat (node : NodeId) (group : RedGroupId) (s : State) : Host.Outcome State Fault Refusal :=
  match (redNode s group.val node.toNat).reportAt with
  | none => .next s
  | some t =>
    let s := timeReaches s (t + 1000 * setting s 0x2512 0)
    .next (sendReport s (tileBank s node.toNat) group.val node.toNat)

/-- A node's state at the start of RUN from wave w. -/
def RedNode.restart (r w : Nat) : RedNode := { base := w * redChunks r, nextWave := w, begun := w }

def sendResync (s : State) (b : Bank) (g node w : Nat) : State :=
  let r := redRecord b g
  send s (redRoot r) (.endpoint (dieOf (redRoot r)) 1) (redPacket 0x73 node (redPart r) g 0 0 (leBytes 8 (w % 2 ^ 32)))

/-- R313: every wave that a node has begun is delivered FAULTED, and every node starts at the next one. -/
def redResyncStep (s : State) (b : Bank) (g : Nat) : State :=
  let r := redRecord b g
  let x := redOf s g
  let top := (x.reports.map (·.2)).foldl Nat.max (Nat.max x.nextWave (redNode s g (redRoot r)).begun)
  let waves := (List.range (top - x.nextWave)).map (· + x.nextWave)
  let s := waves.foldl (fun s w => redDeliver s b g w [] (some 0x53)) s
  let s := report s
    { cause := 0x53, cls := 2, unit := 1, source := redRoot r, partition := some (redPart r), detail := (top + 2 ^ 32 - 1) % 2 ^ 32 }
  let s := ((redTree r).nodes.filter (· != redRoot r)).foldl (fun s n => sendResync s b g n top) s
  let s := modNode s g (redRoot r) fun _ => RedNode.restart r top
  modRed s g fun x => { x with resync := false, nextWave := top, reports := [], chunks := [] }

/-- R342: the root holds a report from every node. -/
def redAllReported (s : State) (b : Bank) (g : Nat) : Bool :=
  let r := redRecord b g
  ((redTree r).nodes.filter (· != redRoot r)).all (fun n => (tget (redOf s g).reports n).isSome)

/-- RESYNC_QUIET (R313, R342): the quiet time has passed: in RESYNC the root acts once every node has reported; in RUN it repeats RED_RESYNC to the
nodes that still report. A group that an epoch switch put into RESYNC waits for the old bank's retirement (R465). -/
def execResyncQuiet (group : RedGroupId) (s : State) : Host.Outcome State Fault Refusal :=
  let g := group.val
  let x := redOf s g
  let b := s.ep.cur
  if x.resync then
    if redAllReported s b g && s.ep.state ≠ 3 then
      .next (redResyncStep (timeReaches s (x.lastContribution + 1000 * setting s 0x2512 0)) b g)
    else .next s
  else
    let s := x.reports.foldl (fun s e => sendResync s b g e.1 x.nextWave) s
    .next (modRed s g fun x => { x with reports := [] })

/-- RED_RESYNC (R313): a node that still reports starts at the wave that the root names. -/
def execRedResync (node : NodeId) (p : Packet) (s : State) : Host.Outcome State Fault Refusal :=
  onArrival node p [0x73] s fun s =>
    let g := bits p.aux.toNat 8 0
    let nd := redNode s g node.toNat
    let r := redRecord (packetBank s p) g
    if nd.reportAt.isSome then
      modNode s g node.toNat fun _ => RedNode.restart r (nearWave nd.begun (field p.payload 0 4))
    else s

end Sys2Proof.Machine
end

