-- ==== Sys2Proof/Machine/Reset.lean ====
section
/-!
DEFINITION. Machine/Reset.lean: what the reset or the loss of a die does to its tiles (R127, R200, R371, R377, R538, R561, R622), and the
sides of a boundary (R372 to R378).
-/
namespace Sys2Proof.Machine

/-- A table without the entries whose keys p selects. -/
def tdrop {α : Type} (t : Table α) (p : Nat → Bool) : Table α := t.filter (fun e => !p e.1)

/-- A link key has an end on die d. -/
def linkOnDie (d k : Nat) : Bool :=
  dieOf (k / 8) == d || (match neighbour (k / 8) (k % 8) with | some m => dieOf m == d | none => false)

/-- The fabric state of a die's tiles: trackers, receive entries, queues, buckets, buffers and links as after reset. -/
def resetFabric (f : Fabric) (d : Nat) : Fabric :=
  let here := fun n : Nat => dieOf n == d
  { f with
    trackers := tdrop f.trackers (fun k => here (k / 64))
    rx := tdrop f.rx here
    waiting := tdrop f.waiting here
    net := f.net.filter (fun x => !here x.node)
    arrived := tdrop f.arrived here
    acks := tdrop f.acks here
    expects := tdrop f.expects here
    buckets := tdrop f.buckets (fun k => here (k / 8))
    links := tdrop f.links (linkOnDie d)
    tc6 := tdrop f.tc6 (fun k => here (k / 8))
    deficits := tdrop f.deficits (fun k => here (k / 64)) }

/-- A die's vat, cells, members, roots and nodes as after reset (R127, R200). -/
def resetVatState (v : VatState) (b : Bank) (d : Nat) : VatState :=
  { v with
    vats := tdel v.vats d
    cells := tdrop v.cells (fun k => k / 256 == d)
    mc := tdrop v.mc (fun g => dieOf (mcRoot (mcRecord b g)) == d)
    agents := tdrop v.agents (fun k => k % 16 == d)
    red := tdrop v.red (fun g => dieOf (redRoot (redRecord b g)) == d)
    nodes := tdrop v.nodes (fun k => dieOf (k % 4096) == d) }

/-- R538: a die's counters restart at 0, and SINCE is the tick of the restart. -/
def clearCounters (o : ObsState) (d now : Nat) : ObsState :=
  let here := fun n : Nat => dieOf n == d
  { o with
    router := tdrop o.router (fun k => here (k / 240))
    partFlits := tdrop o.partFlits (fun k => here (k / 16))
    inject := tdrop o.inject (fun k => here (k / 1216))
    util := tdrop o.util (fun k => k / 512 == d)
    digestCounts := tdrop o.digestCounts (fun k => 16 + k / 3 == d)
    since := tput o.since d now
    discont := o.discont.filter (· != d) }

/-- R538, R558, R561: a die's counters restart, and its stages, event rings, snapshot, capture buffers and watch sets are empty. -/
def resetObs (o : ObsState) (d now : Nat) : ObsState :=
  let here := fun n : Nat => dieOf n == d
  let o := clearCounters o d now
  { o with
    resetSeen := if o.resetSeen.contains d then o.resetSeen else o.resetSeen ++ [d]
    stages := tdrop o.stages here
    rings := tdrop o.rings (fun k => here (k / 64))
    buffers := tdrop o.buffers (fun b => 16 + b / 4 == d)
    snaps := tdel o.snaps d
    watch := tdel o.watch d
    sentAt := tdrop o.sentAt here }

/-- Table 10.8's reset of the records that a die holds: FENCED, generation 0. -/
def resetBounds (t : Table Boundary) (d : Nat) : Table Boundary :=
  t.map (fun e =>
    if (e.1 < 65536 && dieOf (e.1 / 8) == d) || (65536 ≤ e.1 && (e.1 - 65536) / 16 == d && (e.1 - 65536) % 16 != (if d < 16 then 4 else 6))
    then (e.1, { realived := e.2.realived }) else e)

/-- The reset of every tile of a die. SRAM and HBM keep their bytes (DESIGN CHOICE, notes/assumptions/28.md). -/
def resetTiles (s : State) (d : Nat) : State :=
  let s := modFab s fun f => resetFabric f d
  let s := modVs s fun v => resetVatState v s.ep.cur d
  let s := modObs s fun o => resetObs o d s.now
  let s := modTime s fun t => { t with bounds := resetBounds t.bounds d, units := tdrop t.units (fun n => dieOf n == d) }
  let s := modInteg s fun g =>
    { g with held := tdel g.held d, dropCount := tdel g.dropCount d, badTables := g.badTables.filter (fun e => dieOf e.1 != d) }
  modPart s fun p => if d < 16 then { p with vats := tmod p.vats d {} (fun v => { v with banks := [] }) } else p

/-- R311: a chunk that waits for an input that can no longer come is forwarded FAULTED, at every node. -/
def redSweep (s : State) : State :=
  s.vs.nodes.foldl (fun s e =>
    if e.2.ctxs.isEmpty then s
    else
      let g := e.1 / 4096
      let r := redRecord s.ep.cur g
      redAdvance (redK r + 1) s s.ep.cur (redTree r) g (e.1 % 4096)) s

/-- R280, R308: groups whose tree a loss has cut, and that vat d is a member of: the root prunes it. -/
def pruneVat (s : State) (d : Nat) : State :=
  (mcListed s.ep.cur).foldl (fun s g =>
    if mcEn (mcRecord s.ep.cur g) && (mcMembers (mcRecord s.ep.cur g)).contains d then mcPrune s g d 0x5A else s) s

end Sys2Proof.Machine
end

