-- ==== Sys2Proof/Machine/Integrity.lean ====
section
/-!
DEFINITION. Machine/Integrity.lean: the error log (R352 to R356), its emergency frames (R95), scrubbing and table repair (R329, R332), the loss
of dies and of management (R347, R351), and the host's answers to host-window READs (R321).
-/
namespace Sys2Proof.Machine

/-! ### CAN FD transmission -/

/-- Die of a CAN FD controller: 0 on DN, 1 on DS. -/
def canDie (c : Nat) : Nat := if c = 0 then 16 else 18
def canOf (s : State) (c : Nat) : CanCtrl := if c = 0 then s.dict.canDn else s.dict.canDs
def modCan (s : State) (c : Nat) (f : CanCtrl → CanCtrl) : State :=
  modDict s fun d => if c = 0 then { d with canDn := f d.canDn } else { d with canDs := f d.canDs }

/-- R88, R91, Table 17.5: the controller is on the bus and may transmit. -/
def canUp (s : State) (c : Nat) : Bool :=
  dieUp s (canDie c) && (tget s.pow.fw (canDie c)).isSome && setting s (0x1010 + c) 1 != 0 && s.pow.nodeId != 0 && !(canOf s c).busOff

/-- R93: the CAN FD data lengths. -/
def canLength (n : Nat) : Nat := if n ≤ 8 then n else ([12, 16, 20, 24, 32, 48].find? (fun k => decide (n ≤ k))).getD 64

/-- Table 3.8: a frame of a function with a transfer tag, padded (R93). -/
def canSend (s : State) (c fn tag : Nat) (data : Bytes) : State :=
  if canUp s c then
    emitOut s (.canFrame c (fn * 2 ^ 24 + s.pow.nodeId % 128 * 2 ^ 17 + tag % 2 ^ 17) (padTo data (canLength data.length)))
  else s

/-! ### The error log -/

/-- Table 9.9: a record as its 64 bytes. -/
def logBytes (r : LogRecord) : Bytes :=
  let p := r.rep
  let (stream, sgen, seq) := p.stream.getD (0, 0, 0)
  leBytes 64 (
    bitOf p.addr.isSome * 2 ^ 133 + bitOf p.peer.isSome * 2 ^ 134 + bitOf p.stream.isSome * 2 ^ 135 + bitOf p.tag.isSome * 2 ^ 136
    + bitOf p.partition.isSome * 2 ^ 137 + p.epoch.getD 0 % 4 * 2 ^ 138 + p.partition.getD 0 % 16 * 2 ^ 140 + p.unit % 256 * 2 ^ 144
    + p.cls % 256 * 2 ^ 152 + p.cause % 256 * 2 ^ 160 + Nat.min r.dropped 0xFFFF * 2 ^ 168 + r.count % 2 ^ 16 * 2 ^ 184
    + p.source % 4096 * 2 ^ 200 + p.peer.getD 0 % 4096 * 2 ^ 212 + p.tag.getD 0 % 2 ^ 16 * 2 ^ 224 + stream % 64 * 2 ^ 240
    + sgen % 1024 * 2 ^ 246 + seq % 2 ^ 16 * 2 ^ 256 + p.addr.getD 0 % 2 ^ 48 * 2 ^ 272 + p.detail % 2 ^ 32 * 2 ^ 320
    + r.seq % 2 ^ 32 * 2 ^ 352 + r.lastTime % 2 ^ 64 * 2 ^ 384 + p.time % 2 ^ 64 * 2 ^ 448)

/-- R354: a report coalesces into a record: one of the 64 newest, the same in CLASS, CAUSE, SOURCE and PARTITION, created less than OD 0x2606
ago. -/
def coalesces (s : State) (r : Report) (x : LogRecord) : Bool :=
  decide (r.cls < 3) && x.rep.cls == r.cls && x.rep.cause == r.cause && x.rep.source == r.source && x.rep.partition == r.partition &&
    decide (s.now < x.at_ + 1000 * setting s 0x2606 0)

/-- R356: the occurrence is counted. -/
def countReport (g : Integrity) (r : Report) : Integrity :=
  { g with
    classCounts := tinc g.classCounts r.cls 1
    causeCounts := tinc g.causeCounts r.cause 1
    partClass := match r.partition with | some p => tinc g.partClass (8 * p + r.cls) 1 | none => g.partClass }

/-- R353: a full ring gives up its oldest Correctable record, or else its oldest. -/
def logTrim (g : Integrity) : Integrity :=
  if g.log.length < 4096 then g
  else
    { g with
      overwritten := g.overwritten + 1
      log := if g.log.any (fun x => x.rep.cls == 1) then dropFirst (fun x => x.rep.cls == 1) g.log else g.log.drop 1 }

/-- The other management-capable die. -/
def otherMgmt (s : State) : Nat := if s.mgmtDie = 16 then 18 else 16

/-- R353: the log as it stands is mirrored where the other management-capable die is in service. -/
def mirrorLog (s : State) : State :=
  if dieUp s (otherMgmt s) then modInteg s fun g => { g with mirror := g.log, mirrorNext := g.nextSeq } else s

/-- Table 3.10: an emergency frame's payload. -/
def emergency (s : State) (r : LogRecord) : Bytes :=
  leBytes 16 (r.seq % 2 ^ 32 + r.rep.cls % 256 * 2 ^ 40 + r.rep.source % 4096 * 2 ^ 48 + s.now % 2 ^ 64 * 2 ^ 64)

/-- ERROR_LOG_RECORD (R353, R354, R95): the managing engine takes the next report: it coalesces, or becomes a record, for which an emergency frame
goes out above Correctable. -/
def execErrorLogRecord (s : State) : Host.Outcome State Fault Refusal :=
  match s.integ.reports with
  | [] => .next s
  | r :: rest =>
    if !mgmtUp s then .next s
    else
      let s := modInteg s fun g => countReport { g with reports := rest } r
      let l := s.integ.log
      let recent := l.drop (l.length - 64)
      match (recent.filter (coalesces s r)).getLast? with
      | some x =>
        .next (mirrorLog (modInteg s fun g =>
          { g with log := g.log.map (fun y => if y.seq = x.seq then
              { y with count := Nat.min (y.count + 1) 0xFFFF, lastTime := r.time, dropped := y.dropped + r.dropped } else y) }))
      | none =>
        let x : LogRecord := { seq := s.integ.nextSeq.toNat, rep := r, lastTime := r.time, dropped := r.dropped, at_ := s.now }
        let s := mirrorLog (modInteg s fun g => let g := logTrim g; { g with log := g.log ++ [x], nextSeq := g.nextSeq + 1 })
        if r.cls > 1 then .next ([0, 1].foldl (fun s c => canSend s c 1 x.seq (emergency s x)) s) else .next s

/-- HELD_REPORT_POLL (R557): the managing engine reads a die's held reports through its maintenance ring; one that does not answer is logged. -/
def execHeldReportPoll (die : DieId) (answers : Bool) (s : State) : Host.Outcome State Fault Refusal :=
  let d := die.val
  if !mgmtUp s then .next s
  else if answers then
    let n := tgetD s.integ.dropCount d 0
    .next (modInteg s fun g =>
      { g with
        ringFault := g.ringFault.filter (· != d)
        held := tdel g.held d
        dropCount := if (tgetD g.held d []).isEmpty then g.dropCount else tdel g.dropCount d
        reports := g.reports ++ (match tgetD g.held d [] with | [] => [] | r :: l => { r with dropped := n } :: l) })
  else
    let s := modInteg s fun g => { g with ringFault := if g.ringFault.contains d then g.ringFault else g.ringFault ++ [d] }
    .next (report s { cause := 0xD7, cls := 2, unit := 0x14, source := mgmtTile s.mgmtDie, detail := d })

/-! ### Scrubbing and repair -/

/-- TABLE_ENTRY_REWRITE (R332): the managing engine rewrites an unusable configuration table entry from the bank that it armed. -/
def execTableEntryRewrite (node : NodeId) (table : BitVec 4) (entry : BitVec 16) (s : State) : Host.Outcome State Fault Refusal :=
  .next (modInteg s fun g => { g with badTables := g.badTables.filter (fun e => e != (node.toNat, table.toNat, entry.toNat)) })

/-- A word of memory found corrected: counted and logged (R322, R329, R330). -/
def eccCorrected (s : State) (r : Region) (addr : Nat) : State :=
  match r with
  | .hbm st off =>
    report (modInteg s fun g => { g with hbmEcc := tinc g.hbmEcc (2 * st) 1 })
      { cause := 0x32, cls := 1, unit := 0x10, source := r.tile, detail := bits off 11 10, addr := some addr }
  | _ =>
    report (modInteg s fun g => { g with ecc := tinc g.ecc (4 * dieOf r.tile + 2) 1 })
      { cause := 0x30, cls := 1, unit := 2, source := r.tile, addr := some addr }

/-- SRAM_SCRUB (R329, R330): a scrub reads one 8-byte word. A corrected word is written back; an uncorrectable one is logged and stays so until
it is written. -/
def execSramScrub (addr : BitVec 48) (err : EccErr) (s : State) : Host.Outcome State Fault Refusal :=
  let a := addr.toNat / 8 * 8
  match decodeAddr a with
  | none => .next s
  | some (.syncCell _ _ _) => .next s
  | some (.hostWindow _ _) => .next s
  | some r =>
    match err with
    | .good => .next s
    | .corrected => if s.integ.badWords.contains a then .next s else .next (eccCorrected s r a)
    | .uncorrectable =>
      let s := modInteg s fun g => { g with badWords := if g.badWords.contains a then g.badWords else g.badWords ++ [a] }
      .next (ueReport s r a)

/-! ### Loss of dies and of management -/

/-- R137: sync operations and waits of every vat on a cell of die d fail. -/
def failWaitsOn (s : State) (d : Nat) : State :=
  (List.range 16).foldl (fun s v =>
    let go := (vatOf s v).fibres.filter (fun e => match e.2.wait with | some (.sync c _ _ _ _) => c / 256 == d | _ => false)
    let s := go.foldl (fun s e => fibreFault s v (e.1 / 256) (e.1 % 256) 6) s
    match (seqOf s v).wait with
    | some (.sync c _ _ _ _ _) => if c / 256 = d then seqTrap s v 8 (cellAddr c) else s
    | _ => s) s

/-- A die is out of service without a fence (R43, R350). -/
def loseDie (s : State) (d : Nat) : State :=
  let s := modEp (modPow s fun w => { w with lost := w.lost ++ [d] }) fun e => { e with repairDue := true }
  redSweep (failWaitsOn (resetTiles s d) d)

/-- VAT_DIE_LOST (R43, R137, R308, R311, R347, R481): a vat die goes out of service without being fenced. Its partition fails; the root of every
group prunes it; waits on its cells fail. -/
def execVatDieLost (vat : VatId) (s : State) : Host.Outcome State Fault Refusal :=
  let d := vat.val
  if !dieUp s d then .next s
  else
    let p := vatOwner s.cfg d
    .next (withDevice (fun s =>
      let s := loseDie s d
      let s := modPart s fun x => { x with vats := tmod x.vats d {} (fun v => { v with state := 5 }) }
      let s := report s
        { cause := 0x63, cls := if p = 0 then 2 else 3, unit := 0x14, source := mgmtTile s.mgmtDie, detail := d
          partition := if p = 0 then none else some p }
      failPartition (pruneVat s d) p 0x63) s)

/-- DECKLE_DIE_LOST (R43, R347, R424): a deckle die goes out of service, with its port. A partition without another port in service fails. -/
def execDeckleDieLost (die : Deckle) (s : State) : Host.Outcome State Fault Refusal :=
  let d := 16 + die.val
  if !dieUp s d then .next s
  else
    .next (withDevice (fun s =>
      let s := loseDie s d
      let s := modPart s fun x => { x with lostDeckles := x.lostDeckles ++ [d] }
      let s := modPortOf s die.val fun x => { x with up := false, rate := 0, width := 0 }
      let src := mgmtTile (if s.mgmtDie = d then otherMgmt s else s.mgmtDie)
      let owners := (List.range 16).filter (fun p => partOwnsPort s.cfg p die.val && p != 0)
      if owners.isEmpty then report s { cause := 0x64, cls := 2, unit := 0x14, source := src, detail := d }
      else owners.foldl (fun s p =>
        let alone := (List.range 4).all (fun n => !partOwnsPort s.cfg p n || !dieUp s (16 + n))
        let s := report s
          { cause := 0x64, cls := if alone then 3 else 2, unit := 0x14, source := src, detail := d, partition := some p }
        if alone then failPartition s p 0x64 else s) s) s)

/-- MGMT_FAILOVER (R351, R68, R353, R383): DN is out of service and DS's engine runs: DS manages. Sessions, challenges and transfers are lost,
the log continues from the mirror, and DS's time unit becomes the master, in HOLDOVER. -/
def execMgmtFailover (s : State) : Host.Outcome State Fault Refusal :=
  if s.mgmtDie = 16 && !dieUp s 16 && dieUp s 18 && (tget s.pow.fw 18).isSome then
    .next (withDevice (fun s =>
      let s := modPow s fun w => { w with mgmt := 18 }
      let s := modDict s fun d => { d with sessions := [], transfers := [], challenges := [] }
      let s := modInteg s fun g => { g with log := g.mirror, nextSeq := g.mirrorNext }
      let s := modTime s fun t => { t with master := 18, masterState := 1 }
      let s := report s { cause := 0x65, cls := 2, unit := 0x14, source := mgmtTile 18 }
      report s { cause := 0xE7, cls := 2, unit := 0x14, source := mgmtTile 18, detail := 18 }) s)
  else .next s

/-- MGMT_LOST (R351): no management-capable die is in service: the part is in FAULT until POR_N. No record is written. -/
def execMgmtLost (s : State) : Host.Outcome State Fault Refusal :=
  if !dieUp s 16 && !dieUp s 18 then .next (withDevice (fun s => modPow s fun w => { w with mgmtLost := true, fault := true }) s)
  else .next s

/-! ### Host windows -/

/-- HOST_COMPLETION (R321): the completion for a host-window READ arrives: READ_DATA, with POISON where it failed. -/
def execHostCompletion (port : PortId) (id : BitVec 16) (err : TlpErr) (data : Bytes) (s : State) : Host.Outcome State Fault Refusal :=
  let n := port.val
  match (portOf s n).hostPend.find? (fun h => h.id == id.toNat) with
  | none => .next s
  | some h =>
    let node := portFrontTile n
    let s := modPortOf s n fun x => { x with hostPend := x.hostPend.filter (fun y => y.id != id.toNat) }
    let s := rxPerformed s node h.pkt.src.toNat h.pkt.stream.toNat h.pkt.sgen.toNat h.pkt.seq.toNat
    let bytes := padTo data (bits h.pkt.aux.toNat 12 0)
    match err with
    | .good => .next (response s node h.pkt 0x20 bytes)
    | _ => .next (response (tlpFault (portFault s n 4) n h.pkt.partition.toNat err (some h.pkt.addr.toNat)) node h.pkt 0x20 bytes 0 true)

end Sys2Proof.Machine
end

