-- ==== Sys2Proof/Machine/Cross.lean ====
section
/-!
DEFINITION. Machine/Cross.lean: die-to-die links (R271 to R274, Table 7.13), boundaries between islands (R363 to R378), and the island clocks'
log (R360).
-/
namespace Sys2Proof.Machine

/-- R371: a die or a tile's island is held in reset, or its die is lost: its alive level is low. -/
def aliveLow (s : State) (node : Nat) : Bool :=
  let d := dieOf node
  s.pow.lost.contains d || s.time.dieReset.contains d

/-- Table 7.4: a link takes a state; the change is an event of its router (Table 15.5). -/
def setLink (s : State) (node port st : Nat) : State :=
  event (modFab s fun f => { f with links := tput f.links (linkKey node port) st }) node 1 0x29 0 (st * 2 ^ 4 + port)

/-- R377: the later of two crossing generations in serial order, 0 earlier than any, and the next one, skipping 0. -/
def laterGen (a b : Nat) : Nat := if a = 0 then b else if b = 0 then a else if serialLt 16 a b then b else a
def nextGen (c : Nat) : Nat := if c % 65536 = 65535 then 1 else c + 1

/-- R377, R378: one side becomes ALIVE under a generation; its count receivers show DISCONTINUITY but for the first time after POR_N. -/
def aliveSide (s : State) (key die g : Nat) : State :=
  let b := tgetD s.time.bounds key {}
  let s := modTime s fun t =>
    { t with bounds := tput t.bounds key { b with state := 0, cgen := g, discont := b.discont || b.realived, realived := true } }
  if b.realived then
    modObs s fun o => { o with discont := if o.discont.contains die then o.discont else o.discont ++ [die] }
  else s

/-- R376, R377: a re-alive of the boundary between two tiles. -/
def realiveTiles (s : State) (node port m : Nat) : State :=
  let ka := 8 * node + port
  let kb := 8 * m + opposite port
  let g := nextGen (laterGen (tgetD s.time.bounds ka {}).cgen (tgetD s.time.bounds kb {}).cgen)
  let s := aliveSide (aliveSide s ka (dieOf node) g) kb (dieOf m) g
  modTime s fun t => { t with counts := bump t.counts 1 }

/-- Table 15.1's edge groups: the subindex − 1 of LANE_REPAIRS and D2D_RETRIES for the link at a tile's port. -/
def edgeGroup (node port : Nat) : Nat := if dieOf node < 16 then port - 1 else localOf node % 32 / 8

/-- A die-to-die link fails: in service it calls for a repair switch (R350), in bring-up it does not. -/
def linkFails (s : State) (node port : Nat) (inService : Bool) : State :=
  let due := s.ep.repairDue
  let s := failLink s node port 0x06
  redSweep (if inService then s else modEp s fun e => { e with repairDue := due })

/-- LINK_BRING_UP (R273, R256, Table 7.13): a die-to-die link that is TRAINING or FENCED trains, at 32 GT/s or, where OD 0x2006 allows, 16 GT/s; the
routers' parameters match; its crossing is made alive; or it is FAILED. -/
def execLinkBringUp (node : NodeId) (port : InPort) (lanes : BitVec 8) (gt32 gt16 matched : Bool) (s : State) :
    Host.Outcome State Fault Refusal :=
  let n := node.toNat
  let st := linkState s n port.val
  match neighbour n port.val with
  | none => .next s
  | some m =>
    if !isDieLink n port.val || aliveLow s n || aliveLow s m || !(st == 1 || st == 6) then .next s
    else if matched && (gt32 || (gt16 && setting s 0x2006 0 != 0)) then
      let s := modFab s fun f =>
        { f with
          lanes := tmod (tmod f.lanes (4 * dieOf n + edgeGroup n port.val) 0 (fun k => Nat.min 255 (k + lanes.toNat)))
            (4 * dieOf m + edgeGroup m (opposite port.val)) 0 (fun k => Nat.min 255 (k + lanes.toNat)) }
      .next (setLink (realiveTiles s n port.val m) n port.val (if gt32 then 2 else 4))
    else .next (linkFails s n port.val false)

/-- LINK_FAILURE (R274, R311, R331): a die-to-die link in service fails a retrain or exceeds its retry limit. -/
def execLinkFailure (node : NodeId) (port : InPort) (s : State) : Host.Outcome State Fault Refusal :=
  let n := node.toNat
  let st := linkState s n port.val
  if isDieLink n port.val && (st == 2 || st == 3 || st == 4) then .next (withDevice (fun s => linkFails s n port.val true) s) else .next s

/-- LINK_RETRAIN (R274, Table 7.4): phase 0, a link in service enters RETRAINING, its flits held; 1, it returns to ACTIVE; 2, it returns at
16 GT/s, DEGRADED where OD 0x2006 allows; otherwise it is FAILED. -/
def execLinkRetrain (node : NodeId) (port : InPort) (phase : BitVec 2) (s : State) : Host.Outcome State Fault Refusal :=
  let n := node.toNat
  let st := linkState s n port.val
  if !isDieLink n port.val then .next s
  else if phase = 0 then (if st = 2 || st = 4 then .next (setLink s n port.val 3) else .next s)
  else if st ≠ 3 then .next s
  else if phase = 1 then .next (setLink s n port.val 2)
  else if phase = 2 && setting s 0x2006 0 != 0 then .next (setLink s n port.val 4)
  else .next (withDevice (fun s => linkFails s n port.val true) s)

/-- LINK_CRC_RETRY (R272, R331): a UCIe retry repairs a CRC error and is counted. -/
def execLinkCrcRetry (node : NodeId) (port : InPort) (s : State) : Host.Outcome State Fault Refusal :=
  let n := node.toNat
  if isDieLink n port.val && linkUp s n port.val then
    .next (modFab s fun f => { f with retries := tinc f.retries (4 * dieOf n + edgeGroup n port.val) 1 })
  else .next s

/-! ### Boundaries -/

/-- The non-tile island attached to a tile, as its record among the die's 16 (Table 1.5 order): a UCIe PHY is reached through a link instead. -/
def islandAt (node : Nat) : Option Nat :=
  let d := dieOf node
  let l := localOf node
  if d < 16 then (if l = 0 then some 4 else none)
  else if l < 32 then none
  else
    let k := l - 32
    let here := fun (dies : List Nat) (r : Nat) => if dies.contains d then some r else none
    if k = 0 then some 6 else if k = 2 then some 1 else if k = 26 then some 2 else if k = 14 then some 3
    else if k = 7 then some 4 else if k = 24 then some 5 else if k = 20 then here [16, 18] 7 else if k = 19 then here [16, 18] 8
    else if k = 18 then here [16] 9 else if k = 21 then (if d = 16 then some 10 else here [18] 9) else none

/-- Row of Table 10.1, counted from 1, of a die's island record: PEER_KIND. -/
def islandKind (d r : Nat) : Nat :=
  if d < 16 then (if r = 4 then 7 else 3)
  else if r = 0 then 3 else if r ≤ 2 then 4 else if r = 3 then 5 else if r ≤ 5 then 6 else if r = 6 then 7 else if r = 7 then 8
  else if r = 8 then 9 else if r = 10 then 11 else if d = 16 then 10 else 12

/-- Table 9.7: the unit behind an island. -/
def islandUnit (kind : Nat) : Nat :=
  if kind = 3 then 0x20 else if kind = 4 then 0x10 else if kind = 5 then 0x11 else if kind = 6 then 0x13 else if kind = 7 then 0x17 else 0x18

/-- The key of a non-tile island's record. -/
def islandKey (d r : Nat) : Nat := 65536 + 16 * d + r

/-- R373, R374: the boundary of a die's non-tile island is fenced and logged by its surviving side. -/
def fenceIsland (s : State) (node r : Nat) : State :=
  let d := dieOf node
  let b := tgetD s.time.bounds (islandKey d r) {}
  if b.state = 1 then s
  else
    let s := modTime s fun t =>
      { t with bounds := tput t.bounds (islandKey d r) { b with state := 1, fences := b.fences + 1 }, counts := bump t.counts 0 }
    report s
      { cause := 0xE0, cls := 2, unit := islandUnit (islandKind d r), source := node, detail := islandKind d r * 2 ^ 12 }

/-- R373 to R375: a side of the boundary between two tiles enters FENCED. The link's state is FENCED, the receiving router logs it, and in service it
counts as a link failure, unless the fence comes of the reset of a die that is fenced or out of service. -/
def fenceLink (s : State) (node port : Nat) : State :=
  let m := (neighbour node port).getD 0
  let st := linkState s node port
  let s := fenceSide s node port
  if st = 2 || st = 3 || st = 4 then
    let s := setLink s node port 6
    let s := report s { cause := 0x07, cls := 2, unit := 1, source := node, peer := some m }
    let s := if dieUp s (dieOf node) && dieUp s (dieOf m) then modEp s fun e => { e with repairDue := true } else s
    redSweep s
  else if st = 1 then setLink s node port 6
  else s

/-- ALIVE_FALL (R372 to R375, R311): a side sees its peer's alive level low and fences the boundary. Port 0 is the tile's own non-tile
island. -/
def execAliveFall (node : NodeId) (port : InPort) (s : State) : Host.Outcome State Fault Refusal :=
  let n := node.toNat
  if aliveLow s n then .next s
  else if port.val = 0 then
    match islandAt n with
    | some r => .next (fenceIsland s n r)
    | none => .next s
  else if (neighbour n port.val).isSome then .next (withDevice (fun s => fenceLink s n port.val) s)
  else .next s

/-- HANDSHAKE_TIMEOUT (R366, R367): a command not acknowledged for 10 µs fences the boundary; on a boundary that is not ALIVE it is LOST at
once. -/
def execHandshakeTimeout (node : NodeId) (port : InPort) (cmd : BitVec 32) (s : State) : Host.Outcome State Fault Refusal :=
  let n := node.toNat
  let log := fun (s : State) (cause : Nat) =>
    report s { cause := cause, cls := 2, unit := 1, source := n, detail := cmd.toNat }
  let go := fun (key : Nat) (fence : State → State) =>
    if (tgetD s.time.bounds key {}).state ≠ 0 then Host.Outcome.next (log s 0xE3)
    else .next (log (modTime (fence s) fun t => { t with counts := bump t.counts 3 }) 0xE1)
  if aliveLow s n then .next s
  else if port.val = 0 then
    match islandAt n with
    | some r => go (islandKey (dieOf n) r) (fun s => fenceIsland s n r)
    | none => .next s
  else if (neighbour n port.val).isSome then go (8 * n + port.val) (fun s => fenceLink s n port.val)
  else .next s

/-- REALIVE (R376 to R378): with both alive levels high, a FENCED boundary is made ALIVE under the next generation; an on-die link is then
ACTIVE. A die-to-die link trains first and is made alive by LINK_BRING_UP. -/
def execRealive (node : NodeId) (port : InPort) (s : State) : Host.Outcome State Fault Refusal :=
  let n := node.toNat
  if aliveLow s n then .next s
  else if port.val = 0 then
    match islandAt n with
    | none => .next s
    | some r =>
      let k := islandKey (dieOf n) r
      let b := tgetD s.time.bounds k {}
      if b.state ≠ 1 then .next s
      else
        let s := aliveSide s k (dieOf n) (nextGen b.cgen)
        .next (modTime s fun t => { t with counts := bump t.counts 1 })
  else
    match neighbour n port.val with
    | none => .next s
    | some m =>
      if isDieLink n port.val || aliveLow s m || linkState s n port.val != 6 then .next s
      else .next (withDevice (fun s => setLink (realiveTiles s n port.val m) n port.val 2) s)

/-- R378: CROSSING_CLEAR of a die clears DISCONTINUITY and OVERRUN in its records. -/
def crossingClear (s : State) (d : Nat) : State :=
  let s := modTime s fun t =>
    { t with bounds := t.bounds.map (fun e =>
        if (e.1 < 65536 && dieOf (e.1 / 8) == d) || (65536 ≤ e.1 && (e.1 - 65536) / 16 == d)
        then (e.1, { e.2 with discont := false, overrun := false }) else e) }
  modObs s fun o => { o with discont := o.discont.filter (· != d) }

/-- R368: two events of a boundary merge: the OVERRUN flag is set and the merge counted, in the record and in CROSSING_COUNTS. -/
def eventMerged (s : State) (key node : Nat) : State :=
  let s := modTime s fun t =>
    { t with
      bounds := tmod t.bounds key {} (fun b => { b with overrun := true, overruns := Nat.min 255 (b.overruns + 1) })
      counts := bump t.counts 2 }
  report s { cause := 0xE2, cls := 1, unit := 1, source := node, detail := 1 }

/-- FREQ_LIMITED (R360): a tile's island has run below its target for 1 ms. -/
def execFreqLimited (node : NodeId) (s : State) : Host.Outcome State Fault Refusal :=
  let d := dieOf node.toNat
  if dieUp s d && dieKHz s d < setting s 0x2801 (d + 1) then
    let s := modTime s fun t => { t with limitedMs := tinc t.limitedMs d 1 }
    .next (report s { cause := 0xEA, cls := 1, unit := 0x17, source := serviceTile d, detail := dieKHz s d / 1000 })
  else .next s

end Sys2Proof.Machine
end

