-- ==== Sys2Proof/Machine/Time.lean ====
section
/-!
DEFINITION. Machine/Time.lean: fabric time (R379 to R388): the master, the distribution tree, SYNC and DELAY messages, the time units' states;
and wall time (R389 to R391).
-/
namespace Sys2Proof.Machine

def unitAt (s : State) (node : Nat) : TimeUnit := tgetD s.time.units node {}

def modUnit (s : State) (node : Nat) (f : TimeUnit → TimeUnit) : State :=
  modTime s fun t => { t with units := tmod t.units node {} f }

/-- R380: the master's time unit. -/
def masterTile (s : State) : Nat := timeTile s.time.master

/-- A cause of Table 10.10 that a time unit logs. -/
def timeReport (s : State) (node cause detail : Nat) : State :=
  report s { cause := cause, cls := 2, unit := 0x18, source := node, detail := detail }

/-- REFCLK_LOST (R382): no reference edge for 200 ns: the master, which is DN's, holds over. -/
def execRefclkLost (s : State) : Host.Outcome State Fault Refusal :=
  if s.time.master = 16 && s.time.masterState != 1 && dieUp s 16 then
    .next (timeReport (modTime s fun t => { t with masterState := 1, timeCounts := bump t.timeCounts 0 }) (masterTile s) 0xE4 0)
  else .next s

/-- REFCLK_RETURN (R382): reference edges return and the master follows them by slewing, without a step. -/
def execRefclkReturn (s : State) : Host.Outcome State Fault Refusal :=
  if s.time.master = 16 && dieUp s 16 then .next (modTime s fun t => { t with masterState := 0 }) else .next s

/-! ### The tree -/

/-- Links in the order N, E, S, W that are ACTIVE or DEGRADED, as (port, neighbour). -/
def upLinks (s : State) (n : Nat) : List (Nat × Nat) :=
  [1, 2, 3, 4].filterMap (fun p => match neighbour n p with | some m => if linkUp s n p then some (p, m) else none | none => none)

/-- R384: breadth-first search: the depth of each tile reached, from a frontier at a depth. -/
def treeDepths (s : State) : Nat → Nat → List Nat → Table Nat → Table Nat
  | 0, _, _, t => t
  | f + 1, k, front, t =>
    let next := ((front.flatMap (fun n => (upLinks s n).map (·.2))).eraseDups).filter (fun m => (tget t m).isNone)
    if next.isEmpty then t else treeDepths s f (k + 1) next (next.foldl (fun t m => tput t m (k + 1)) t)

/-- R384: the parent of a tile: its neighbour of smallest depth, the first in the order N, E, S, W. -/
def treeParent (s : State) (t : Table Nat) (n : Nat) : Option (Nat × Nat) :=
  (((upLinks s n).filterMap (fun e => (tget t e.2).map (fun d => (e.1, d)))).mergeSort (fun a b => decide (a.2 ≤ b.2))).head?

/-- TIME_TREE_RECOMPUTE (R384): parents from the master over the links that are up. A unit that takes a new parent measures its delay before it
uses a SYNC (R385); a LOCKED one whose parent is lost holds over (Table 10.6). -/
def execTimeTreeRecompute (s : State) : Host.Outcome State Fault Refusal :=
  if !mgmtUp s then .next s
  else
    let m := masterTile s
    let t := treeDepths s 1280 0 [m] [(m, 0)]
    .next (allTiles.foldl (fun s n =>
      if n = m then modUnit s n fun u => { u with parent := 0, depth := 0, state := 0, mayStep := false, haveDelay := false }
      else
        let (p, d) := match treeParent s t n with | some (p, d) => (p, d + 1) | none => (0, 0)
        let u := unitAt s n
        if u.parent = p && u.depth = d then s
        else if u.parent = p then modUnit s n fun u => { u with depth := d }
        else modUnit s n fun u =>
          { u with
            parent := p, depth := d, haveDelay := false, t1 := none, good := 0
            state := if u.state = 0 then 1 else u.state, holdSince := if u.state = 0 then s.now else u.holdSince }) s)

/-! ### Messages -/

/-- Table 10.7, without T_TX, which the output port writes (R385). -/
def timePayload (s : State) (node kind echo : Nat) : Bytes :=
  let u := unitAt s node
  leBytes 32 (kind % 16 + u.state % 4 * 2 ^ 16 + u.depth % 256 * 2 ^ 24 + masterTile s % 4096 * 2 ^ 68 + u.syncSeq % 2 ^ 16 * 2 ^ 80
    + echo % 65536 * 2 ^ 96 + echo / 65536 % 2 ^ 64 * 2 ^ 112)

def sendTime (s : State) (node dest kind echo : Nat) : State :=
  send s node (.endpoint (dieOf node) 0x18) (mkPacket 0x47 dest 0 none 0 (timePayload s node kind echo))

/-- TIME_SYNC_SEND (R385): once per period a unit sends a SYNC to each of its children. -/
def execTimeSyncSend (node : NodeId) (s : State) : Host.Outcome State Fault Refusal :=
  let n := node.toNat
  if !tileUp s n then .next s
  else
    let kids := (upLinks s n).filter (fun e => (unitAt s e.2).parent == opposite e.1)
    let s := kids.foldl (fun s e => sendTime s n e.2 1 0) s
    .next (modUnit s n fun u => { u with syncSeq := (u.syncSeq + 1) % 65536 })

/-- DELAY_PERIOD (R385): a child sends DELAY_REQ to its parent. -/
def execDelayPeriod (node : NodeId) (s : State) : Host.Outcome State Fault Refusal :=
  let n := node.toNat
  let u := unitAt s n
  match neighbour n u.parent with
  | some m => if tileUp s n then .next (sendTime s n m 2 0) else .next s
  | none => .next s

/-- Fields of Table 10.7, times in 2⁻¹⁶ ns. -/
def timeKind (p : Packet) : Nat := field p.payload 0 1 % 16
def timeTx (p : Packet) : Nat := field p.payload 22 10
def timeEcho (p : Packet) : Nat := field p.payload 12 10

/-- The packet comes from the unit's parent. -/
def fromParent (s : State) (node : Nat) (p : Packet) : Bool :=
  neighbour node (unitAt s node).parent == some p.src.toNat

/-- R386: how far the servo, which the manual leaves open, moves the count after an error: any amount towards 0 that a rate between 0.99 and 1.01
allows since the last SYNC. -/
def slew (s : State) (e : Int) (since : Tick) : Int × State :=
  let (v, s) := draw s
  let most := Nat.min e.natAbs ((s.now - since) * 65536 / 100)
  let k := Int.ofNat (v % (most + 1))
  (if e < 0 then k else -k, s)

/-- R386, R387, Table 10.6: a unit acts on a SYNC of its parent with error e. -/
def takeSync (s : State) (node : Nat) (e : Int) (depth : Nat) : State :=
  let u := unitAt s node
  let ns : Nat := 65536
  let small := decide (e.natAbs ≤ ns)
  let u := { u with error := e, depth := depth }
  let acquiring := fun (u : TimeUnit) (step : Bool) => { u with state := 2, mayStep := step, good := 0 }
  let lost := u.state == 0 && decide (e.natAbs > 3 * ns)
  let u := if u.state = 3 then acquiring u true
    else if lost then acquiring u false
    else if u.state = 1 then (if small then { u with state := 0 } else acquiring u false)
    else u
  let steps := u.state == 2 && u.mayStep && decide (e.natAbs > 16 * ns)
  let (move, s) := if steps then (-e, s) else slew s e u.lastSync
  let good := if u.state = 2 then (if small then u.good + 1 else 0) else u.good
  let locks := u.state == 2 && decide (8 ≤ good)
  let s := modUnit s node fun _ =>
    { u with
      offset := u.offset + move, good := if locks then 0 else good, state := if locks then 0 else u.state
      mayStep := if locks then false else u.mayStep, lastSync := s.now }
  if lost then
    timeReport (modTime s fun t => { t with timeCounts := bump t.timeCounts 2 }) node 0xE5 (ofInt 32 (e / 256))
  else s

/-- TIME_SYNC (R385 to R387): a SYNC arrives. A SYNC that is not the parent's is counted; one from a parent whose delay is not yet measured is
not used. -/
def execTimeSync (node : NodeId) (p : Packet) (arrival : BitVec 80) (s : State) : Host.Outcome State Fault Refusal :=
  let n := node.toNat
  onArrival node p [0x47] s fun s =>
    if timeKind p ≠ 1 then s
    else if !fromParent s n p then modTime s fun t => { t with timeCounts := bump t.timeCounts 4 }
    else if !(unitAt s n).haveDelay then s
    else
      let e := Int.ofNat arrival.toNat - (Int.ofNat (timeTx p) + (unitAt s n).delay)
      takeSync s n e (field p.payload 3 1 + 1)

/-- DELAY_REQ (R386): the responder answers with its arrival time. -/
def execDelayReq (node : NodeId) (p : Packet) (arrival : BitVec 80) (s : State) : Host.Outcome State Fault Refusal :=
  onArrival node p [0x47] s fun s =>
    if timeKind p = 2 then sendTime s node.toNat p.src.toNat 3 arrival.toNat else s

/-- DELAY_RSP (R386): the requester has its link's delay. -/
def execDelayRsp (node : NodeId) (p : Packet) (arrival : BitVec 80) (s : State) : Host.Outcome State Fault Refusal :=
  let n := node.toNat
  onArrival node p [0x47] s fun s =>
    match (unitAt s n).t1 with
    | none => s
    | some t1 =>
      if timeKind p = 3 && fromParent s n p then
        let d := (Int.ofNat arrival.toNat - Int.ofNat t1 - (Int.ofNat (timeTx p) - Int.ofNat (timeEcho p))) / 2
        modUnit s n fun u => { u with delay := d, haveDelay := true, t1 := none }
      else s

/-- SYNC_SILENCE (Table 10.6): a LOCKED unit has seen no SYNC for 4 periods. -/
def execSyncSilence (node : NodeId) (s : State) : Host.Outcome State Fault Refusal :=
  let n := node.toNat
  let u := unitAt s n
  if u.state = 0 && n ≠ masterTile s && tileUp s n then
    let s := timeReaches s (u.lastSync + 4000 * setting s 0x2842 0)
    .next (modUnit s n fun u => { u with state := 1, holdSince := s.now })
  else .next s

/-- HOLDOVER_EXPIRED (Table 10.6): a unit in HOLDOVER reaches the holdover limit. -/
def execHoldoverExpired (node : NodeId) (s : State) : Host.Outcome State Fault Refusal :=
  let n := node.toNat
  let u := unitAt s n
  if u.state = 1 && n ≠ masterTile s && tileUp s n then
    let s := timeReaches s (u.holdSince + 1000 * setting s 0x2844 0)
    let s := modUnit s n fun u => { u with state := 3 }
    .next (timeReport (modTime s fun t => { t with timeCounts := bump t.timeCounts 3 }) n 0xE6 0)
  else .next s

/-! ### Wall time -/

/-- R389: wall time at a fabric time. -/
def wallAt (t : TimeState) (ft : Nat) : Nat :=
  ofInt 64 (Int.ofNat t.wallBase + (Int.ofNat ft - Int.ofNat t.ftBase) * (2 ^ 40 + t.rate) / 2 ^ 40)

/-- R390: a new RATE from now on, with the mapping re-based. -/
def setRate (s : State) (rate : Int) : State :=
  modTime s fun t => { t with wallBase := wallAt t s.now, ftBase := s.now, rate := rate }

/-- PPS_OFFSET (OD 0x2860.05). -/
def ppsOffset (s : State) : Int := sext 32 (setting s 0x2860 5)

/-- R391: the error of an edge now against the nearest whole wall second plus PPS_OFFSET, in ns. -/
def ppsError (s : State) : Int :=
  let w := Int.ofNat (wallAt s.time s.now) - ppsOffset s
  (w + 500000000) % 1000000000 - 500000000

/-- PPS_EDGE (R391, R618): a rising edge of at least 100 ns while PPS_ENABLE is true. An error of at most 1 ms adjusts RATE, by a servo that the
manual leaves open; a greater one is a mismatch until WALL_SET. -/
def execPpsEdge (width : BitVec 16) (rate : BitVec 32) (s : State) : Host.Outcome State Fault Refusal :=
  if width.toNat < 100 || setting s 0x2860 4 = 0 || s.time.master ≠ 16 || !dieUp s 16 || s.time.pps = 4 then .next s
  else
    let e := ppsError s
    if e.natAbs > 1000000 then
      let s := modTime s fun t => { t with pps := 4, ppsAt := s.now }
      .next (timeReport s (masterTile s) 0xE9 (Nat.min (e.natAbs / 1000) (2 ^ 32 - 1)))
    else
      let first := if s.time.pps = 1 || s.time.pps = 2 then s.time.ppsFirst else s.now
      let locked := decide (e.natAbs ≤ 100) && decide (first + 60000000000 ≤ s.now)
      let s := setRate s rate.toInt
      .next (modTime s fun t =>
        { t with ppsAt := s.now, ppsFirst := first, pps := if locked || t.pps = 2 then 2 else 1 })

/-- PPS_LOST (R391): no edge for 1.1 s. The mapping keeps its last RATE. -/
def execPpsLost (s : State) : Host.Outcome State Fault Refusal :=
  if s.time.pps = 1 || s.time.pps = 2 then
    let s := timeReaches s (s.time.ppsAt + 1100000000)
    .next (timeReport (modTime s fun t => { t with pps := 3, timeCounts := bump t.timeCounts 1 }) (masterTile s) 0xE8 0)
  else .next s

end Sys2Proof.Machine
end

