-- ==== Sys2Proof/Machine/LedBase.lean ====
section
/-!
DEFINITION. Machine/LedBase.lean: the journal chains (R496 to R508): numbers, records, seals, runs and chaining, and the pages of volume J that
chaining makes due (R502).
-/
namespace Sys2Proof.Machine

/-- The journal chain of port n, held by the ledger engine of its die. -/
def chainOf (s : State) (n : Nat) : Chain := (ledOf s n).chain
def modChain (s : State) (n : Nat) (f : Chain → Chain) : State := modLedger s n fun l => { l with chain := f l.chain }

/-- OD 0x5003: JOURNAL_REQUIRED (R483). -/
def journalRequired (s : State) : Bool := setting s 0x5003 0 == 1

/-- R495: volume J of port n's die accepts records. -/
def journalReady (s : State) (n : Nat) : Bool := dieUp s (16 + n) && (ledOf s n).state == 2

/-- Check 3 of Table 12.1, R439. -/
def journalBlocked (s : State) (n : Nat) : Bool := journalRequired s && !journalReady s n

/-- R497: the port's next number goes to a seal; while its engine scans or formats, the seal waits for the recovery or format seal. -/
def assignSeal (s : State) (n reason : Nat) : State :=
  let l := ledOf s n
  if l.state = 1 || l.formatting then modChain s n fun c => { c with due := c.due ++ [reason] }
  else if l.state = 0 || l.state = 6 || l.state = 7 then s
  else modChain s n fun c =>
    { c with seals := tput c.seals c.next (reason.lor (if c.next % 4096 = 4095 then 1 else 0)), next := c.next + 1 }

/-- R46, R47, R497: the number of an admitted request; a number 4,095 mod 4,096 is a seal's. A port whose engine has no chain yet gives a
number that the manual leaves open (DESIGN CHOICE, notes/assumptions/29.md). -/
def assignNumber (s : State) (n : Nat) : Nat × Bool × State :=
  let l := ledOf s n
  if l.state = 0 || l.state = 1 || l.state = 7 || l.formatting then
    let (v, s) := draw s
    (v, true, s)
  else
    let s := if l.chain.next % 4096 = 4095 then assignSeal s n 1 else s
    let q := (chainOf s n).next
    (q, false, modChain s n fun c => { c with next := c.next + 1 })

/-- Numbers that a record covers (R496). -/
def recordCount (r : Bytes) : Nat := if field r 0 1 = 3 then field r 16 8 else 1

/-- The chained record that covers a number. -/
def recordAt (c : Chain) (q : Nat) : Option (Nat × Bytes) :=
  c.recs.find? (fun e => decide (e.1 ≤ q) && decide (q < e.1 + recordCount e.2))

/-- A record with its PREV_HASH (R500). -/
def linked (r hash : Bytes) : Bytes := r.take 224 ++ padTo hash 32

/-- Time fields that records carry: TIME_UNLOCKED and WALL_VALID flags, and the wall time of a tick. -/
def timeFlags (s : State) (n : Nat) : Nat :=
  bitOf ((unitAt s (admissionTile n)).state != 0) * 64 + bitOf s.time.wallValid * 128
def wallField (s : State) (t : Tick) : Nat := if s.time.wallValid then wallAt s.time t else 0

/-- Table 14.9: a seal as built at its number, without a signature. -/
def sealRecord (s : State) (n q reason : Nat) (unsigned : Bool) : Bytes :=
  let c := chainOf s n
  let e := tileEpoch s (admissionTile n)
  let reason := reason.lor (if q % 4096 = 4095 then 1 else 0)
  linked
    (leBytes 1 2 ++ leBytes 1 n ++ leBytes 1 reason
      ++ leBytes 1 (e % 4 + bankTint (portBank s n).cfg % 8 * 4 + bitOf unsigned * 32 + timeFlags s n)
      ++ leBytes 4 s.part.configSeq.toNat ++ leBytes 8 q ++ leBytes 8 (if bitAt reason 3 then 0 else c.lastSeal)
      ++ leBytes 8 s.now ++ leBytes 8 (wallField s s.now) ++ leBytes 8 e ++ padTo s.part.configDigest 48
      ++ serialBytes ++ leBytes 4 s.integ.nextSeq.toNat ++ leBytes 4 c.requests ++ leBytes 8 c.release ++ zeros 96)
    c.lastHash

/-- R508: a RUN record. -/
def runRecord (n q count e : Nat) (hash : Bytes) : Bytes :=
  linked (leBytes 1 3 ++ leBytes 1 n ++ leBytes 1 1 ++ zeros 5 ++ leBytes 8 q ++ leBytes 8 count ++ leBytes 8 e ++ zeros 192) hash

/-- LEDGER_COUNTS (Table 14.20). -/
def ledCount (s : State) (n i k : Nat) : State := modLedger s n fun l => { l with counts := bump l.counts i k }

/-- A ledger cause (Table 14.15). -/
def ledReport (s : State) (n cause cls detail : Nat) : State :=
  report s { cause := cause, cls := cls, unit := 0x13, source := ledgerTile n, detail := detail % 2 ^ 32 }

/-- The 256-byte slot of a number in its page: the record that covers it, at the record's own number; slots of a run's further numbers, and
numbers that no record covers, are 0. -/
def pageSlots (c : Chain) (q : Nat) : Nat → Bytes
  | 0 => []
  | k + 1 => padTo ((tget c.recs q).getD []) 256 ++ pageSlots c (q + 1) k

/-- R502: the record chained at first, up to W, completes its page of 64 numbers, which is queued for programming as J_DATA. Pages that lie
wholly inside a run hold no record. -/
def queuePage (s : State) (n first w : Nat) : State :=
  let p := first / 64
  if p < w / 64 then
    modLedger s n fun l =>
      { l with
        jobs := l.jobs ++ [{ volume := 1, sectors := 15, logical := 4 * p, data := pageSlots l.chain (64 * p) 64 }]
        chain := { l.chain with tailSince := none } }
  else s

/-- Sectors of a page that hold a record, as a mask (Table 14.7). -/
def sectorMask (c : Chain) (p : Nat) : Nat :=
  ((List.range 4).map (fun k => if c.recs.any (fun e => e.1 / 16 == 4 * p + k) then 2 ^ k else 0)).sum

/-- R502: the page that chaining has not completed is queued as a J_TAIL page. -/
def queueTail (s : State) (n : Nat) : State :=
  let c := chainOf s n
  let p := c.chained / 64
  if sectorMask c p = 0 then s
  else modLedger s n fun l =>
    { l with
      jobs := l.jobs ++ [{ volume := 2, sectors := sectorMask c p, logical := 4 * p, data := pageSlots c (64 * p) 64 }]
      chain := { l.chain with tailSince := none } }

/-- A record is chained at W (R500). -/
def chainPut (s : State) (n : Nat) (r : Bytes) : State :=
  let c := chainOf s n
  let w := c.chained + recordCount r
  let t := field r 0 1
  let s := modChain s n fun c =>
    { c with
      recs := tput c.recs c.chained r
      chained := w
      lastHash := sha256 r
      lastSeal := if t = 2 then c.chained else c.lastSeal
      requests := if t = 1 then c.requests + 1 else if t = 2 then 0 else c.requests
      tailSince := c.tailSince.orElse (fun _ => some s.now) }
  let s := ledCount s n 0 1
  let s := if t = 2 then ledCount s n 1 1 else if t = 3 then ledCount s n 2 1 else s
  queuePage s n c.chained w

/-- R500, R501: the next number is chained, if its record is at hand. A seal is built and waits for its signature, unless a flush is under way
(R525). None: nothing to chain now. -/
def chainOne (s : State) (n : Nat) (flush : Bool) : Option State :=
  let c := chainOf s n
  if c.signing.isSome && !flush then none
  else match tget c.accepted c.chained with
  | some r =>
    some (chainPut (modChain s n fun c => { c with accepted := tdel c.accepted c.chained }) n (linked r c.lastHash))
  | none =>
    match tget c.seals c.chained with
    | some reason =>
      let r := match c.signing with
        | some (_, r) => r.take 3 ++ leBytes 1 ((field r 3 1).lor 32) ++ r.drop 4
        | none => sealRecord s n c.chained reason flush
      if flush then some (chainPut (modChain s n fun c => { c with seals := tdel c.seals c.chained, signing := none }) n r)
      else some (modChain s n fun c => { c with signing := some (c.chained, r) })
    | none =>
      match tget c.runs c.chained with
      | some (k, e) =>
        let s := modChain s n fun c => { c with runs := tdel c.runs c.chained }
        some (ledReport (chainPut s n (runRecord n c.chained k e c.lastHash)) n 0x8C 2 (Nat.min k (2 ^ 32 - 1)))
      | none => none

def chainLoop : Nat → State → Nat → Bool → State
  | 0, s, _, _ => s
  | f + 1, s, n, flush =>
    match chainOne s n flush with
    | none => s
    | some s => chainLoop f s n flush

/-- Everything that can be chained is (R500). A stopped, flushed, scanning or unformatted engine chains nothing. -/
def chainAdvance (s : State) (n : Nat) (flush : Bool := false) : State :=
  let l := ledOf s n
  if flush || l.state = 2 || l.state = 3 || l.state = 4 then
    chainLoop (l.chain.accepted.length + l.chain.seals.length + l.chain.runs.length + 2) s n flush
  else s

/-- Numbers of R508's run: from D to the highest number assigned, cut where a seal, an accepted record or the record of a request that requires
one stands (DEDUCED, notes/assumptions/30.md). -/
def runCuts (e : Nat) : Nat → List Nat → Nat → Table (Nat × Nat)
  | d, [], hi => if d < hi then [(d, (hi - d, e))] else []
  | d, x :: xs, hi => if d < x then (d, (x - d, e)) :: runCuts e (x + 1) xs hi else runCuts e (x + 1) xs hi

/-- R508: the engine is READY with the window open, so the discards end, and one RUN record covers what they left. -/
def runEnd (s : State) (n : Nat) : State :=
  let l := ledOf s n
  let c := l.chain
  match c.runFrom with
  | none => s
  | some d =>
    if l.state = 2 && decide (d < c.chained + 1024) then
      let needed := ((admOf s n).ctxs.filter (fun e => e.2.state != 0 && e.2.journal && !e.2.unchained && !e.2.record)).map (·.2.journalSeq)
      let cuts := ((c.seals.map (·.1) ++ c.accepted.map (·.1) ++ needed).filter (fun q => decide (d ≤ q) && decide (q < c.next))).mergeSort
        (fun a b => decide (a ≤ b))
      let runs := runCuts s.now d cuts.eraseDups c.next
      modChain s n fun c => { c with runFrom := none, runs := runs.foldl (fun t e => tput t e.1 e.2) c.runs }
    else s

/-- The chain goes on: discards end if they can, and what can be chained is. -/
def journalGo (s : State) (n : Nat) : State := chainAdvance (runEnd s n) n

end Sys2Proof.Machine
end

