-- ==== Sys2Proof/Machine/Admit.lean ====
section
/-!
DEFINITION. Machine/Admit.lean: the admission engines (R425 to R446, R44 to R51): classification, meters, shapers, gates, the decision and the
admission tick.
-/
namespace Sys2Proof.Machine

/-! ### Descriptors (Table 11.7) and the port's requests -/

def descOpcode (d : Bytes) : Nat := field d 0 1
def descPart (d : Bytes) : Nat := bits (field d 0 8) 11 8
def descSlot (d : Bytes) : Nat := bits (field d 0 8) 15 12
def descWatch (d : Bytes) : Nat := bits (field d 0 8) 19 16
def descCrcValid (d : Bytes) : Bool := bitAt (field d 0 8) 21
def descCrc (d : Bytes) : Nat := field d 4 4
def descReqId (d : Bytes) : Nat := field d 8 8
def descInLen (d : Bytes) : Nat := field d 24 4
def descOutLen (d : Bytes) : Nat := field d 28 4
def descOutput (d : Bytes) : Nat := field d 32 8
/-- ARG0 to ARG2. -/
def descArg (d : Bytes) (i : Nat) : Nat := field d (40 + 8 * i) 8

/-- R410: SCORE or SCORE_REPLAY. -/
def Request.scoring (r : Request) : Bool := descOpcode r.desc == 1 || descOpcode r.desc == 2
def Request.slot (r : Request) : Nat := descSlot r.desc

def reqOf (s : State) (n num : Nat) : Option Request := (portOf s n).reqs.find? (fun r => r.num == num)

def modReq (s : State) (n num : Nat) (f : Request → Request) : State :=
  modPortOf s n fun x => { x with reqs := x.reqs.map (fun r => if r.num = num then f r else r) }

/-- Table 11.15: PORT_STATS by index. -/
def portStat (s : State) (n i k : Nat) : State := modPortOf s n fun x => { x with stats := tinc x.stats i k }

/-- Table 12.9: a counter of an admission queue. -/
def aqCount (s : State) (n a i : Nat) : State := modAdm s n fun x => { x with stats := tinc x.stats (12 * a + i) 1 }

/-- R44, R45: a request's outcome is known, and its completion is due. -/
def finishReq (s : State) (n num : Nat) (out : Outcome) : State := modReq s n num fun r => { r with stage := .completing, out := out }

/-- R45: a refusal before admission: the request leaves its queue and completes with the refusing stage's status. -/
def refuseReq (s : State) (n num status detail : Nat) : State :=
  let s := modAdm s n fun x => { x with queues := x.queues.map (fun e => (e.1, { e.2 with items := e.2.items.filter (· != num) })) }
  finishReq (portStat s n 2 1) n num { status := status, detail := detail }

/-! ### Settings (Tables 12.3 to 12.8), in the bank that the engine uses -/

def aqConfig (s : State) (n a : Nat) : Nat := bankNat (portBank s n) (0x4420 + n) (a + 1)
def acAcceptYellow (r : Nat) : Bool := bitAt r 0
def acOversize (r : Nat) : Bool := bitAt r 1
def acShape (r : Nat) : Bool := bitAt r 2
def acPolicy (r : Nat) : Nat := bits r 7 6
def acQuantum (r : Nat) : Nat := bits r 111 88
def acCR (r : Nat) : Nat := bits r 151 112
def acPR (r : Nat) : Nat := bits r 191 152
def acCB (r : Nat) : Nat := bits r 223 192
def acPB (r : Nat) : Nat := bits r 255 224

def sqClass (s : State) (n q : Nat) : Nat := bankNat (portBank s n) (0x4424 + n) (q + 1)
def meterRecord (s : State) (n m : Nat) : Nat := bankNat (portBank s n) (0x4430 + n) (m + 1)
def deliveryOf (s : State) (n a : Nat) : Nat := bankNat (portBank s n) (0x4450 + n) (a + 1)
def drEn (r : Nat) : Bool := bitAt r 0
def drVat (r : Nat) : Nat := bits r 119 116
def drCount (r : Nat) : Nat := bits r 127 120 + 1
def drStride (r : Nat) : Nat := bits r 159 128

/-- R428: the length L of a request: its lengths in bytes plus OVERHEAD, or its cost plus OVERHEAD. -/
def lengthOf (s : State) (n : Nat) (r : Request) : Nat :=
  let b := portBank s n
  let overhead := bankNat b 0x4402 (n + 1)
  let bytes := descInLen r.desc + descOutLen r.desc
  if bankNat b 0x4401 (n + 1) = 0 then bytes + overhead
  else if r.scoring then bankNat b (0x4405 + r.partition) (r.slot + 1) + overhead
  else
    let unit := bankNat b 0x4404 (n + 1)
    (bytes + unit - 1) / unit + overhead

/-- R428: the gate duration D. -/
def durationOf (s : State) (n l : Nat) : Nat :=
  let rate := bankNat (portBank s n) 0x4403 (n + 1)
  (l * 1000 + rate - 1) / rate

/-! ### Token buckets (R430) -/

/-- R430: a bucket refilled to t; an unlisted bucket is full. -/
def refill (b : Option Tok) (rate burst t : Nat) : Tok :=
  let cap : Int := Int.ofNat (burst * 1000000000)
  match b with
  | none => { tok := cap, last := t }
  | some b => { tok := min cap (b.tok + Int.ofNat ((t - b.last) * rate)), last := t }

/-- R431: the meter marks a request: 0 green, 1 yellow, 2 red, with its buckets P and C as the marking leaves them. -/
def markMeter (s : State) (n m l : Nat) : Nat × Tok × Tok :=
  let r := meterRecord s n m
  let a := admOf s n
  let p := refill (tget a.meters (2 * m + 1)) (bits r 191 152) (bits r 63 32) s.now
  let c := refill (tget a.meters (2 * m)) (bits r 151 112) (bits r 31 0) s.now
  let k : Int := Int.ofNat (l * 1000000000)
  if p.tok < k then (2, p, c)
  else
    let p := { p with tok := p.tok - k }
    if c.tok < k then (1, p, c) else (0, p, { c with tok := c.tok - k })

/-- R429, R431: the colour of a request, and the state with the meter debited and counted. Without a meter it is green. -/
def meterReq (s : State) (n : Nat) (r : Request) (l : Nat) : Nat × State :=
  let w := sqClass s n r.sq
  let m := if r.scoring then bits w 15 8 else bits w 23 16
  if m ≥ 64 then (0, s)
  else
    let (colour, p, c) := markMeter s n m l
    (colour, modAdm s n fun x =>
      { x with meters := tput (tput x.meters (2 * m + 1) p) (2 * m) c, meterStats := tinc x.meterStats (3 * m + colour) 1 })

/-! ### Gates (R434 to R437) -/

/-- The entries of a gate list: duration and OPEN mask. -/
def gateEntries (l : Bytes) : List (Nat × Nat) :=
  (List.range (field l 12 1)).map (fun i => (field l (20 + 8 * i) 4, bits (field l (16 + 8 * i) 4) 10 0))

/-- The gate list in force at the engine: the old one until the tick of R445. -/
def gateList (s : State) (n : Nat) : Bytes :=
  let a := admOf s n
  let new := bankValue (portBank s n).cfg (0x4440 + n) 0
  match a.switchAt, a.oldList with
  | some t, some old => if s.now < t then old else new
  | _, _ => new

/-- R445: the tick from which the gate list in force has been in force. -/
def listStart (s : State) (n : Nat) : Tick :=
  let a := admOf s n
  match a.switchAt with
  | some t => if s.now < t then a.listFrom else t
  | none => a.listFrom

/-- Position in the list at a tick (R434). -/
def gatePos (l : Bytes) (t : Nat) : Nat :=
  ((Int.ofNat t - Int.ofNat (field l 0 8)) % Int.ofNat (Nat.max (field l 8 4) 1)).toNat

/-- The entry in force at a position: its index and where it starts. -/
def gateEntryAt : List (Nat × Nat) → Nat → Nat → Nat → Nat × Nat
  | [], i, start, _ => (i, start)
  | e :: es, i, start, pos => if pos < start + e.1 then (i, start) else gateEntryAt es (i + 1) (start + e.1) pos

/-- Durations of the entries that open a queue at the front of a list, up to the first that does not. -/
def openRun (a : Nat) (l : List (Nat × Nat)) : Nat := ((l.takeWhile (fun e => bitAt e.2 a)).map (·.1)).sum

def alwaysOpen (l : Bytes) (a : Nat) : Bool := (gateEntries l).all (fun e => bitAt e.2 a)
def neverOpen (l : Bytes) (a : Nat) : Bool := (gateEntries l).all (fun e => !bitAt e.2 a)

/-- R435: the longest window of a queue that is not always open: the longest run, the last entry and the first being consecutive. -/
def longestWindow (l : Bytes) (a : Nat) : Nat :=
  let e := gateEntries l
  ((List.range e.length).map (fun i => openRun a ((e ++ e).drop i))).foldl Nat.max 0

/-- R435, R445: the window of a queue that is open at a tick: its open tick and close tick; none spans the change of a list. -/
def windowAt (s : State) (n a : Nat) : Option (Nat × Nat) :=
  let l := gateList s n
  let e := gateEntries l
  let pos := gatePos l s.now
  let (i, start) := gateEntryAt e 0 0 pos
  if bitAt ((e.getD i (0, 0)).2) a then
    let back := openRun a ((e ++ e).take (e.length + i)).reverse
    let ahead := openRun a ((e ++ e).drop i)
    let close := s.now + ahead - (pos - start)
    let open_ := s.now - Nat.min s.now ((pos - start) + back)
    let x := admOf s n
    some (Nat.max open_ (listStart s n), match x.switchAt with | some t => if s.now < t then Nat.min close t else close | none => close)
  else none

/-- R436: a queue's cursor and FIRST flag in the window that opened at a tick. -/
def cursorIn (q : AdmQueue) (open_ : Nat) : Nat × Bool := if q.win = some open_ then (q.cur, q.first) else (open_, true)

def aqOf (s : State) (n a : Nat) : AdmQueue := tgetD (admOf s n).queues a {}
def modAq (s : State) (n a : Nat) (f : AdmQueue → AdmQueue) : State := modAdm s n fun x => { x with queues := tmod x.queues a {} f }

/-- R436: the gate passes a request of a queue now. -/
def gateOk (s : State) (n a : Nat) (r : Request) : Bool :=
  let l := gateList s n
  if alwaysOpen l a then true
  else match windowAt s n a with
    | none => false
    | some (open_, close) =>
      let (cur, first) := cursorIn (aqOf s n a) open_
      if r.dur > longestWindow l a then first else decide (cur ≤ s.now) && decide (s.now + r.dur ≤ close)

/-- R426 check 6, R437: no window of the list can admit a request of this duration. -/
def windowRefused (s : State) (n a dur : Nat) (l : Bytes) : Bool :=
  !alwaysOpen l a && (neverOpen l a || (decide (longestWindow l a < dur) && !acOversize (aqConfig s n a)))

/-- R436: the cursor after an admission. -/
def moveCursor (s : State) (n a : Nat) (r : Request) : State :=
  let l := gateList s n
  if alwaysOpen l a then s
  else match windowAt s n a with
    | none => s
    | some (open_, close) =>
      modAq s n a fun q => { q with win := some open_, cur := if r.dur > longestWindow l a then close else s.now + r.dur, first := false }

/-! ### Model slots at an admission tick -/

/-- R49, R411, R469: the generation and image digest that a slot of a partition gives at a tick, where it holds a model. -/
def slotAt (s : State) (part slot t : Nat) : Option (Nat × Bytes) :=
  if slot ≥ 4 then none
  else match tget s.part.slots (slotKey part slot) with
  | none => none
  | some x =>
    match x.running with
    | some u =>
      if !u.flipped && (match u.flipAt with | some f => decide (f ≤ t) | none => false) then some ((x.generation + 1).toNat, u.digest)
      else if x.digest.isEmpty then none else some (x.generation.toNat, x.digest)
    | none => if x.digest.isEmpty then none else some (x.generation.toNat, x.digest)

/-- Table 13.5: a slot's record in the bank that the engine uses. -/
def slotRecord (b : Bank) (part slot : Nat) : Bytes := bankValue b.cfg (0x5040 + part) (slot + 1)
def slotEn (v : Bytes) : Bool := bitAt (field v 38 1) 0

/-! ### Classification (R426, Table 12.1) and metering -/

/-- R412: the checks of a SCORE_REPLAY: a refusal status, or the record it replays. -/
def replayCheck (s : State) (n : Nat) (r : Request) : Nat ⊕ Bytes :=
  let b := portBank s n
  let p := bits (descArg r.desc 1) 1 0
  if !partOwnsPort b.cfg r.partition p && !bitAt (bankNat b 0x6007 (p + 1)) n then .inl 0x0122
  else if !dieUp s (16 + p) || !((ledOf s p).state == 2 || (ledOf s p).state == 3) then .inl 0x0123
  else match recordAt (chainOf s p) (descArg r.desc 0) with
    | none => .inl 0x0120
    | some (_, rec) =>
      if field rec 0 1 != 1 then .inl 0x0120
      else match slotAt s r.partition r.slot s.now with
        | some (_, dig) => if padTo dig 48 == slice rec 72 48 then .inr rec else .inl 0x0121
        | none => .inl 0x0121

/-- Table 12.1 checks 1 to 5: the status and DETAIL of the first that fails, or the record of a replay. -/
def classifyChecks (s : State) (n a : Nat) (r : Request) : (Nat × Nat) ⊕ Bytes :=
  if (tget s.integ.failed r.partition).isSome then .inl (0x0107, 0)
  else if !r.scoring then .inr []
  else if (slotAt s r.partition r.slot s.now).isNone then .inl (0x0106, 0)
  else if journalBlocked s n then .inl (0x0108, 0)
  else if drStride (deliveryOf s n a) < descInLen r.desc then .inl (0x0101, 1)
  else if descOpcode r.desc = 2 then
    match replayCheck s n r with
    | .inl st => .inl (st, 0)
    | .inr rec => .inr rec
  else .inr []

/-- R427: a request enters its admission queue behind those whose metering ended before, and at one tick behind those of lower submission
queues. -/
def enterQueue (s : State) (n a : Nat) (r : Request) : State :=
  let later := fun num : Nat => match reqOf s n num with | some x => x.entered == s.now && decide (r.sq < x.sq) | none => false
  let s := modAq s n a fun q =>
    let k := (q.items.reverse.takeWhile later).length
    { q with items := q.items.take (q.items.length - k) ++ [r.num] ++ q.items.drop (q.items.length - k) }
  modReq (aqCount s n a 0) n r.num fun x => { x with stage := .queued, entered := s.now }

/-- R426, R428, R431: a request is classified, measured and metered. -/
def classifyReq (s : State) (n : Nat) (r : Request) : State :=
  let a := bits (sqClass s n r.sq) 3 0
  let l := lengthOf s n r
  let d := durationOf s n l
  let s := modReq s n r.num fun x => { x with aq := a, len := descInLen r.desc, cost := l, dur := d }
  match classifyChecks s n a r with
  | .inl (st, detail) => refuseReq (aqCount s n a 6) n r.num st detail
  | .inr rec =>
    if windowRefused s n a d (gateList s n) then refuseReq (aqCount s n a 5) n r.num 0x0112 0
    else
      let (colour, s) := meterReq s n r l
      if colour = 2 then refuseReq (aqCount s n a 3) n r.num 0x0110 0
      else if colour = 1 && !acAcceptYellow (aqConfig s n a) then refuseReq (aqCount s n a 4) n r.num 0x0111 0
      else enterQueue (modReq s n r.num fun x => { x with orig := rec }) n a r

/-- R427: the earliest request of a submission queue that is not classified, if it can be. -/
def nextToClassify (s : State) (n q : Nat) : Option Request :=
  match (portOf s n).reqs.find? (fun r => r.sq == q && r.stage == .fetched) with
  | some r => if r.ready then some r else none
  | none => none

/-- R426, R427: every request of a submission queue that can be classified is, in submission order. -/
def classifyAll : Nat → State → Nat → Nat → State
  | 0, s, _, _ => s
  | f + 1, s, n, q =>
    match nextToClassify s n q with
    | none => s
    | some r => classifyAll f (classifyReq s n r) n q

/-- A request of a queue can be classified; the port has no more than 128 unadmitted ones (R403). -/
def classifyQueue (s : State) (n q : Nat) : State := classifyAll 129 s n q

/-! ### The decision (R438 to R440) -/

/-- R427: no earlier request of its submission queue awaits admission. -/
def sqFirst (s : State) (n : Nat) (r : Request) : Bool :=
  !((portOf s n).reqs.any (fun x => x.sq == r.sq && decide (x.num < r.num) && (x.stage == .fetched || x.stage == .queued)))

/-- R439, R478: a vat die is in service and not fenced, as the engine sees it. -/
def vatServes (s : State) (n d : Nat) : Bool :=
  !s.pow.lost.contains d && !s.time.dieReset.contains d && !bankFenced (portBank s n).cfg d

/-- A context of the port that is FREE (R48); the lowest is taken (DESIGN CHOICE, notes/assumptions/31.md). -/
def freeCtx (s : State) (n : Nat) : Option Nat := (List.range 256).find? (fun c => (ctxOf s n c).state == 0)

/-- R442: the lowest free delivery buffer of a queue. -/
def freeBuf (s : State) (n a : Nat) : Option Nat :=
  let used := ((admOf s n).ctxs.filter (fun e => e.2.state != 0 && e.2.aq == a)).map (·.2.buf)
  (List.range (drCount (deliveryOf s n a))).find? (fun b => !used.contains b)

/-- R410: service requests of the port that execute. -/
def executing (s : State) (n : Nat) : Nat := ((portOf s n).reqs.filter (fun r => r.stage == .executing)).length

/-- R439: what a head lacks, as the counter of Table 12.9 that its wait raises. -/
def lacks (s : State) (n a : Nat) (r : Request) : Option Nat :=
  if r.scoring then
    if (freeCtx s n).isNone then some 9
    else
      let d := deliveryOf s n a
      if !drEn d || !vatServes s n (drVat d) || (freeBuf s n a).isNone then some 10 else none
  else if 8 ≤ executing s n then some 11 else none

/-- The head of an admission queue. -/
def headOf (s : State) (n a : Nat) : Option Request := ((aqOf s n a).items.head?).bind (reqOf s n)

/-- R432: 0 committed-eligible, 1 excess-eligible; none: the shaper holds the head back. -/
def shaperPass (s : State) (n a l : Nat) : Option Nat :=
  let r := aqConfig s n a
  if !acShape r then some 0
  else
    let q := aqOf s n a
    let k := l * 1000000000
    let p := refill q.p (acPR r) (acPB r) s.now
    let c := refill q.c (acCR r) (acCB r) s.now
    if p.tok < Int.ofNat (Nat.min k (acPB r * 1000000000)) then none
    else if Int.ofNat (Nat.min k (acCB r * 1000000000)) ≤ c.tok then some 0 else some 1

/-- R438: eligible, for a pass. -/
def eligible (s : State) (n a pass : Nat) : Bool :=
  match headOf s n a with
  | none => false
  | some r => sqFirst s n r && (lacks s n a r).isNone && gateOk s n a r && shaperPass s n a r.cost == some pass

/-- R438: deficit round robin over W0 to W7 (queues 3 to 10). -/
def drr : Nat → State → Nat → Nat → Option Nat × State
  | 0, s, _, _ => (none, s)
  | f + 1, s, n, pass =>
    let x := admOf s n
    let a := 3 + x.ptr
    if eligible s n a pass then
      let s := if x.started then s
        else modAdm (modAq s n a fun q => { q with deficit := q.deficit + Int.ofNat (acQuantum (aqConfig s n a)) }) n
          fun y => { y with started := true }
      if Int.ofNat (((headOf s n a).map (·.cost)).getD 0) ≤ (aqOf s n a).deficit then (some a, s)
      else drr f (modAdm s n fun y => { y with ptr := (y.ptr + 1) % 8, started := false }) n pass
    else
      let s := if (headOf s n a).isNone then modAq s n a fun q => { q with deficit := 0 } else s
      drr f (modAdm s n fun y => { y with ptr := (y.ptr + 1) % 8, started := false }) n pass

/-- R438: the queue that an evaluation admits from, and the pass: committed, then excess; strict queues before weighted ones. -/
def decideNow (s : State) (n : Nat) : Option (Nat × Nat) × State :=
  match [0, 1, 2].find? (fun a => eligible s n a 0) with
  | some a => (some (a, 0), s)
  | none =>
    match drr 8 s n 0 with
    | (some a, s) => (some (a, 0), s)
    | (none, s) =>
      match [0, 1, 2].find? (fun a => eligible s n a 1) with
      | some a => (some (a, 1), s)
      | none =>
        match drr 8 s n 1 with
        | (some a, s) => (some (a, 1), s)
        | (none, s) => (none, s)

/-- R433, R436, R438: the head leaves its queue: deficit, buckets and cursor. -/
def dequeue (s : State) (n a pass : Nat) (r : Request) : State :=
  let s := moveCursor s n a r
  let cfg := aqConfig s n a
  let k : Int := Int.ofNat (r.cost * 1000000000)
  let debited := fun b : Tok => { b with tok := b.tok - k }
  let s := modAq s n a fun q =>
    let p := refill q.p (acPR cfg) (acPB cfg) s.now
    let c := refill q.c (acCR cfg) (acCB cfg) s.now
    { q with
      items := q.items.drop 1
      deficit := if 3 ≤ a then q.deficit - Int.ofNat r.cost else q.deficit
      p := if acShape cfg then some (debited p) else q.p
      c := if acShape cfg then some (if pass = 0 then debited c else c) else q.c }
  aqCount s n a (1 + pass)

/-- R46, R440 to R442, R571: the admission tick of a scoring request: its context, number, generation, epoch, tint, deadline and watch set; the
delivery of its input begins. Admission ticks of a port rise strictly. -/
def admitScoring (s : State) (n a : Nat) (r : Request) : State :=
  match freeCtx s n, freeBuf s n a with
  | some c, some b =>
    let t := match (admOf s n).lastAdmit with | some l => Nat.max s.now (l + 1) | none => s.now
    let s := advanceTo s t
    let (num, unchained, s) := assignNumber s n
    let bank := portBank s n
    let (gen, image) := (slotAt s r.partition r.slot t).getD (0, [])
    let w := if descWatch r.desc = 0 then field (slotRecord bank r.partition r.slot) 37 1 % 16 else descWatch r.desc
    let s := modCtx s n c fun x =>
      { x with
        state := 1, deadline := t + 1000 * setting s 0x3460 (r.partition + 1), admitTick := t, journalSeq := num
        requestId := descReqId r.desc, generation := gen, fault := 0, partition := r.partition, slot := r.slot, sq := r.sq
        epoch := tileEpoch s (admissionTile n) % 4, tint := bankTint bank.cfg, watchSet := w
        watchRec := if w = 0 then 0 else bankNat bank (0x7210 + r.partition) w
        image := image, req := r.num, aq := a, buf := b, journal := journalRequired s, unchained := unchained
        unlocked := (unitAt s (admissionTile n)).state != 0 }
    let s := modReq s n r.num fun x => { x with stage := .admitted, ctx := some c }
    let s := modAdm s n fun x => { x with lastAdmit := some t }
    deliverInput (ctxEvent s n c) n c
  | _, _ => s

/-- A wait of a head is counted once for each cause (R446). -/
def noteWait (s : State) (n a : Nat) (r : Request) (i : Nat) : State :=
  if r.counted.contains i then s
  else modReq (aqCount s n a i) n r.num fun x => { x with counted := x.counted ++ [i] }

/-- R446, R439: what the heads of the queues wait on after an evaluation. -/
def noteWaits (s : State) (n : Nat) : State :=
  (List.range 11).foldl (fun s a =>
    match headOf s n a with
    | none => s
    | some r =>
      if !sqFirst s n r then s
      else
        let s := match lacks s n a r with
          | some i => modReq (noteWait s n a r i) n r.num fun x => { x with headSince := x.headSince.orElse (fun _ => some s.now) }
          | none => modReq s n r.num fun x => { x with headSince := none, starved := false }
        let s := if gateOk s n a r then s else noteWait s n a r 7
        if (shaperPass s n a r.cost).isNone then noteWait s n a r 8 else s) s

/-- R348, R439: queued requests of a failed partition are refused, and scoring heads while the journal is required and takes no records. -/
def refuseQueued (s : State) (n : Nat) : State :=
  let down := (portOf s n).reqs.filter (fun r => r.stage == .queued && (tget s.integ.failed r.partition).isSome)
  let s := down.foldl (fun s r => refuseReq (aqCount s n r.aq 6) n r.num 0x0107 0) s
  if journalBlocked s n then
    (List.range 11).foldl (fun s a =>
      match headOf s n a with
      | some r => if r.scoring then refuseReq (aqCount s n a 6) n r.num 0x0108 0 else s
      | none => s) s
  else s

/-- R525, R592, R599, R621: the engine admits: no power failure, warm reset, ZEROISE or DEBUG_SCAN_ENTER has stopped it. -/
def admitting (s : State) (n : Nat) : Bool :=
  !(admOf s n).stopped && s.pow.warm == 0 && s.sec.scan == 0 && !s.sec.zeroiseOpen && !s.pow.zeroised

/-- R438: evaluations at one tick admit at most one request between them. -/
def decisionTick (s : State) (n : Nat) : State :=
  match (admOf s n).decidedAt with
  | some t => advanceTo s (t + 1)
  | none => s

/-- R440: the chosen request leaves its queue; a scoring one takes a context. -/
def admitChosen (s : State) (n a pass : Nat) : State :=
  match headOf s n a with
  | none => s
  | some r =>
    let s := dequeue s n a pass r
    let s := modAdm s n fun y => { y with decidedAt := some s.now }
    let s := if r.scoring then admitScoring s n a r else modReq s n r.num fun z => { z with stage := .executing }
    noteWaits s n

/-- One decision over the queues' heads. -/
def decideOn (s : State) (n : Nat) : State :=
  let d := decideNow s n
  match d.1 with
  | none => noteWaits d.2 n
  | some x => admitChosen d.2 n x.1 x.2

/-- ADMISSION_DECISION (R438 to R442, R46): one evaluation of decide at the engine's next tick without an admission. -/
def execAdmissionDecision (port : PortId) (s : State) : Host.Outcome State Fault Refusal :=
  let n := port.val
  if !admitting s n || !dieUp s (16 + n) then .next s
  else .next (decideOn (refuseQueued (decisionTick s n) n) n)

/-! ### Windows, lists and starvation -/

/-- The tick at which the next window of a queue opens, at or after now: searched over the starts of the entries of this cycle and the next. A
window that the list would open only when another list is in force does not open (R445). -/
def nextOpen (s : State) (n a : Nat) : Option Nat :=
  let l := gateList s n
  let e := gateEntries l
  let base := s.now - Nat.min s.now (gatePos l s.now)
  let starts := (List.range (2 * e.length)).map (fun i =>
    (base + (((e ++ e).take i).map (·.1)).sum, bitAt ((e ++ e).getD i (0, 0)).2 a && !bitAt ((e ++ e ++ e).getD (i + e.length - 1) (0, 0)).2 a))
  let past := fun t : Nat => match (admOf s n).switchAt with | some u => decide (s.now < u) && decide (u ≤ t) | none => false
  ((starts.find? (fun x => x.2 && decide (s.now ≤ x.1))).map (·.1)).bind (fun t => if past t then none else some t)

/-- GATE_WINDOW_OPEN (R436): at the open tick of a queue's next window its cursor is set and FIRST raised. -/
def execGateWindowOpen (port : PortId) (aq : AqId) (s : State) : Host.Outcome State Fault Refusal :=
  match nextOpen s port.val aq.val with
  | none => .next s
  | some t => .next (modAq (timeReaches s t) port.val aq.val fun q => { q with win := some t, cur := t, first := true })

/-- GATE_LIST_SWITCH (R437, R445): at tick s the new list takes effect, and the queued requests that no window of it can admit are refused, which
is logged once. -/
def execGateListSwitch (port : PortId) (s : State) : Host.Outcome State Fault Refusal :=
  let n := port.val
  match (admOf s n).switchAt with
  | none => .next s
  | some t =>
    let s := timeReaches s t
    let s := modAdm s n fun x => { x with oldList := none, switchAt := none, listFrom := t }
    let l := gateList s n
    let gone := (portOf s n).reqs.filter (fun r => r.stage == .queued && windowRefused s n r.aq r.dur l)
    let s := gone.foldl (fun s r => refuseReq (aqCount s n r.aq 5) n r.num 0x0112 0) s
    .next (if gone.isEmpty then s
      else report s { cause := 0x78, cls := 2, unit := 0x12, source := admissionTile n, detail := gone.length })

/-- HEAD_STARVED (R439, Table 12.10): a head has waited 1,000 µs for resources. -/
def execHeadStarved (port : PortId) (aq : AqId) (s : State) : Host.Outcome State Fault Refusal :=
  let n := port.val
  match headOf s n aq.val with
  | none => .next s
  | some r =>
    match r.headSince with
    | some t =>
      if r.starved then .next s
      else
        let s := timeReaches s (t + 1000000)
        let s := modReq s n r.num fun x => { x with starved := true }
        .next (report s { cause := 0x7A, cls := 1, unit := 0x12, source := admissionTile n, partition := some r.partition, detail := aq.val })
    | none => .next s

/-! ### A new bank (R443 to R445) -/

/-- R444: a shaper bucket at g: kept and clipped to the new cap, full, or empty. -/
def policyBucket (old : Option Tok) (policy oldRate oldBurst burst t : Nat) : Option Tok :=
  if policy = 1 then some { tok := Int.ofNat (burst * 1000000000), last := t }
  else if policy = 2 then some { tok := 0, last := t }
  else
    let b := refill old oldRate oldBurst t
    some { b with tok := min b.tok (Int.ofNat (burst * 1000000000)) }

/-- R445: the first cycle start of the new list at or after the end of the old list's cycle in progress. -/
def listSwitchTick (old new : Bytes) (t : Nat) : Nat :=
  let oldEnd := t + (field old 8 4 - gatePos old t)
  oldEnd + (field new 8 4 - gatePos new oldEnd) % Nat.max (field new 8 4) 1

/-- R443 to R445, R497: the engine installs its new bank at g; the buckets take what their policies give, the old gate list runs on until its
tick, and the port's next number goes to a seal with REASON EPOCH. old is the bank in use before g. -/
def installAdmission (s : State) (n : Nat) (old : Bank) : State :=
  let new := portBank s n
  let at_ := fun (b : Bank) (a : Nat) => bankNat b (0x4420 + n) (a + 1)
  let modeChanged := bankNat old 0x4401 (n + 1) != bankNat new 0x4401 (n + 1)
  let t := s.now
  let s := (List.range 11).foldl (fun s a =>
    let o := at_ old a
    let w := at_ new a
    modAq s n a fun q =>
      if modeChanged then { q with c := none, p := none, deficit := 0 }
      else
        { q with
          c := policyBucket q.c (acPolicy w) (acCR o) (acCB o) (acCB w) t
          p := policyBucket q.p (acPolicy w) (acPR o) (acPB o) (acPB w) t }) s
  let s := modAdm s n fun x =>
    { x with meters :=
        if modeChanged then [] else
          (List.range 128).foldl (fun t' k =>
            let o := bankNat old (0x4430 + n) (k / 2 + 1)
            let w := bankNat new (0x4430 + n) (k / 2 + 1)
            let part := fun r : Nat => if k % 2 = 1 then (bits r 191 152, bits r 63 32) else (bits r 151 112, bits r 31 0)
            if o = w then t'
            else
              let b := refill (tget t' k) (part o).1 (part o).2 t
              tput t' k { b with tok := min b.tok (Int.ofNat ((part w).2 * 1000000000)) }) x.meters }
  let newList := bankValue new.cfg (0x4440 + n) 0
  let oldList := bankValue old.cfg (0x4440 + n) 0
  let pending := match (admOf s n).switchAt with | some u => decide (t < u) | none => false
  let running : Bytes := if pending then ((admOf s n).oldList).getD oldList else oldList
  let s := modAdm s n fun x =>
    if running = newList then { x with oldList := none, switchAt := none, listFrom := listStart s n }
    else if pending && oldList == newList then x
    else { x with oldList := some running, switchAt := some (listSwitchTick running newList t), listFrom := listStart s n }
  journalGo (assignSeal s n 2) n

end Sys2Proof.Machine
end

