-- ==== Sys2Proof/Machine/Aes.lean ====
section
/-!
DEFINITION. Machine/Aes.lean: AES-256 (FIPS 197), AES key wrap (NIST SP 800-38F) and AES-GCM (NIST SP 800-38D), by which role secrets and content
keys are unwrapped and images decrypted (R583, R586, R587). Blocks are lists of 16 numbers below 256.
-/
namespace Sys2Proof.Machine

/-- FIPS 197: the substitution table, entry i in bits 8i to 8i + 7. -/
def aesSbox : Nat :=
  0x16BB54B00F2D99416842E6BF0D89A18CDF2855CEE9871E9B948ED9691198F8E19E1DC186B95735610EF6034866B53E708A8BBD4B1F74DDE8C6B4A61C2E2578BA * 2 ^ 1536 +
  0x08AE7A65EAF4566CA94ED58D6D37C8E779E4959162ACD3C25C2406490A3A32E0DB0B5EDE14B8EE4688902A22DC4F816073195D643D7EA7C41744975FEC130CCD * 2 ^ 1024 +
  0xD2F3FF1021DAB6BCF5389D928F40A351A89F3C507F02F94585334D43FBAAEFD0CF584C4A39BECB6A5BB1FC20ED00D153842FE329B3D63B52A05A6E1B1A2C8309 * 2 ^ 512 +
  0x75B227EBE28012079A059618C323C7041531D871F1E5A534CCF73F362693FDB7C072A49CAFA2D4ADF04759FA7DC982CA76ABD7FE2B670130C56F6BF27B777C63

/-- FIPS 197: the inverse substitution table. -/
def aesInvSbox : Nat :=
  0x7D0C2155631469E126D677BA7E042B17619953833CBBEBC8B0F52AAE4D3BE0A0EF9CC9939F7AE52D0D4AB519A97F51605FEC8027591012B131C7078833A8DD1F * 2 ^ 1536 +
  0xF45ACD78FEC0DB9A2079D2C64B3E56FC1BBE18AA0E62B76F89C5291D711AF1476EDF751CE837F9E28535ADE72274AC9673E6B4F0CECFF297EADC674F4111913A * 2 ^ 1024 +
  0x6B8A130103BDAFC1020F3FCA8F1E2CD00645B3B80558E4F70AD3BC8C00ABD890849D8DA75746155EDAB9EDFD5048706C92B6655DCC5CA4D41698688664F6F872 * 2 ^ 512 +
  0x25D18B6D49A25B76B224D92866A12E084EC3FA420B954CEE3D23C2A632947B54CBE9DEC444438E3487FF2F9B8239E37CFBD7F3819EA340BF38A53630D56A0952

def aesSub (x : Nat) : Nat := (aesSbox >>> (8 * x)) % 256
def aesInvSub (x : Nat) : Nat := (aesInvSbox >>> (8 * x)) % 256

/-- Multiplication by x in GF(2⁸). -/
def aesX (a : Nat) : Nat := if a < 128 then 2 * a else (2 * a - 256).xor 0x1B

/-- Multiplication in GF(2⁸) by a constant below 16. -/
def aesMul (c a : Nat) : Nat :=
  let a1 := aesX a
  let a2 := aesX a1
  let a3 := aesX a2
  ((if bitAt c 0 then a else 0).xor (if bitAt c 1 then a1 else 0)).xor ((if bitAt c 2 then a2 else 0).xor (if bitAt c 3 then a3 else 0))

def aesXor (a b : List Nat) : List Nat := List.zipWith Nat.xor a b

/-- Key expansion: words from word i on, the eight before it at hand, oldest first. -/
def aesExpand : Nat → Nat → List (List Nat) → Nat → List (List Nat)
  | 0, _, _, _ => []
  | f + 1, i, last, rcon =>
    let t := last.getLastD []
    let t := if i % 8 = 0 then
        aesXor ((t.drop 1 ++ t.take 1).map aesSub) [rcon, 0, 0, 0]
      else if i % 8 = 4 then t.map aesSub else t
    let w := aesXor (last.headD []) t
    w :: aesExpand f (i + 1) (last.drop 1 ++ [w]) (if i % 8 = 0 then aesX rcon else rcon)

/-- A list cut into pieces of n. -/
def chunksOf {α : Type} (n : Nat) : Nat → List α → List (List α)
  | 0, _ => []
  | f + 1, l => if l.isEmpty then [] else l.take n :: chunksOf n f (l.drop n)

/-- The 15 round keys of a 256-bit key. -/
def aesKeys (key : Bytes) : List (List Nat) :=
  let k := chunksOf 4 8 (key.map (·.toNat))
  (chunksOf 4 15 (k ++ aesExpand 52 8 k 1)).map (·.flatten)

/-- ShiftRows and its inverse: byte r + 4c comes from column c + r, or c − r. -/
def aesRows (inv : Bool) (b : List Nat) : List Nat :=
  (List.range 16).map (fun i => b.getD (i % 4 + 4 * ((i / 4 + (if inv then 4 - i % 4 else i % 4)) % 4)) 0)

/-- MixColumns with a row of coefficients. -/
def aesMix (m : List Nat) (b : List Nat) : List Nat :=
  (List.range 16).map (fun i =>
    (List.range 4).foldl (fun a k => a.xor (aesMul (m.getD ((k + 4 - i % 4) % 4) 0) (b.getD (4 * (i / 4) + k) 0))) 0)

/-- The AES-256 cipher on one block. -/
def aesEnc (key : Bytes) (b : List Nat) : List Nat :=
  match aesKeys key with
  | [] => b
  | k0 :: ks =>
    let b := (ks.take 13).foldl (fun b k => aesXor (aesMix [2, 3, 1, 1] (aesRows false (b.map aesSub))) k) (aesXor b k0)
    aesXor (aesRows false (b.map aesSub)) (ks.getLastD [])

/-- The inverse cipher. -/
def aesDec (key : Bytes) (b : List Nat) : List Nat :=
  match (aesKeys key).reverse with
  | [] => b
  | k0 :: ks =>
    let b := (ks.take 13).foldl (fun b k => aesMix [14, 11, 13, 9] (aesXor ((aesRows true b).map aesInvSub) k)) (aesXor b k0)
    aesXor ((aesRows true b).map aesInvSub) (ks.getLastD [])

/-- Big-endian number of a block, and a block of a number. -/
def blockNat (b : List Nat) : Nat := b.foldl (fun a x => 256 * a + x) 0
def natBlock (v : Nat) : List Nat := (beBytes 16 v).map (·.toNat)

/-! ### Key wrap -/

/-- One step of the unwrapping function W⁻¹ on semiblock i (1 the first), at step t. -/
def kwStep (key : Bytes) (t i : Nat) (a : Nat) (r : List Nat) : Nat × List Nat :=
  let b := blockNat (aesDec key (natBlock ((a.xor t) * 2 ^ 64 + r.getD (i - 1) 0)))
  (b / 2 ^ 64, r.set (i - 1) (b % 2 ^ 64))

/-- All steps from t down to 1. -/
def kwUnwrapLoop (key : Bytes) (n : Nat) : Nat → Nat → List Nat → Nat × List Nat
  | 0, a, r => (a, r)
  | t + 1, a, r =>
    let (a, r) := kwStep key (t + 1) (t % n + 1) a r
    kwUnwrapLoop key n t a r

/-- KW-AD: the plaintext of a wrapped key, none where its integrity check fails. -/
def kwUnwrap (key c : Bytes) : Option Bytes :=
  let semi := (chunksOf 8 (c.length / 8 + 1) c).map beNat
  match semi with
  | [] => none
  | a :: r =>
    if c.length % 8 ≠ 0 || r.length < 2 then none
    else
      let (a, r) := kwUnwrapLoop key r.length (6 * r.length) a r
      if a = 0xA6A6A6A6A6A6A6A6 then some (r.flatMap (beBytes 8)) else none

/-! ### GCM -/

/-- Multiplication in GF(2¹²⁸) as SP 800-38D orders its bits: bit 127 of the number is the coefficient of 1. -/
def gcmMulLoop : Nat → Nat → Nat → Nat → Nat
  | 0, _, _, z => z
  | f + 1, x, v, z =>
    gcmMulLoop f x (if v % 2 = 1 then (v / 2).xor (0xE1 * 2 ^ 120) else v / 2) (if bitAt x f then z.xor v else z)

def gcmMul (x y : Nat) : Nat := gcmMulLoop 128 x y 0

/-- GHASH of a string already padded to whole blocks. -/
def ghash (h : Nat) (b : Bytes) : Nat :=
  (chunksOf 16 (b.length / 16 + 1) b).foldl (fun y x => gcmMul (y.xor (beNat (padTo x 16))) h) 0

/-- GCTR from a counter block. -/
def gctr (key : Bytes) : Nat → Nat → Bytes → Bytes
  | 0, _, _ => []
  | f + 1, ctr, b =>
    if b.isEmpty then []
    else
      let k := (aesEnc key (natBlock ctr)).map (BitVec.ofNat 8)
      List.zipWith (· ^^^ ·) (b.take 16) k ++ gctr key f (ctr / 2 ^ 32 * 2 ^ 32 + (ctr + 1) % 2 ^ 32) (b.drop 16)

/-- A string padded with 0 to whole blocks. -/
def pad16 (b : Bytes) : Bytes := b ++ zeros ((16 - b.length % 16) % 16)

/-- GCM-AD with a 96-bit IV and a 128-bit tag. -/
def gcmOpen (key iv aad c tag : Bytes) : Option Bytes :=
  let h := blockNat (aesEnc key (natBlock 0))
  let j0 := beNat iv * 2 ^ 32 + 1
  let y := ghash h (pad16 aad ++ pad16 c ++ beBytes 8 (8 * aad.length) ++ beBytes 8 (8 * c.length))
  if gctr key 1 j0 (beBytes 16 y) = tag then some (gctr key (c.length / 16 + 1) (j0 + 1) c) else none

end Sys2Proof.Machine
end

