-- ==== Sys2Proof/Machine/P384.lean ====
section
/-!
DEFINITION. Machine/P384.lean: the P-384 curve, deterministic ECDSA with SHA-384 and ECDH (R576), and the keys derived from ROOT (R575). Points are in
Jacobian coordinates; Z = 0 is the point at infinity.
-/
namespace Sys2Proof.Machine

/-- FIPS 186-5: the field prime, the group order, and the curve's b. -/
def p384P : Nat := 2 ^ 384 - 2 ^ 128 - 2 ^ 96 + 2 ^ 32 - 1
def p384N : Nat := 0xFFFFFFFFFFFFFFFFFFFFFFFFFFFFFFFFFFFFFFFFFFFFFFFFC7634D81F4372DDF581A0DB248B0A77AECEC196ACCC52973
def p384B : Nat := 0xB3312FA7E23EE7E4988E056BE3F82D19181D9C6EFE8141120314088F5013875AC656398D8A2ED19D2A85C8EDD3EC2AEF

structure EcPoint where
  x : Nat
  y : Nat
  z : Nat
  deriving DecidableEq, Repr

def ecInf : EcPoint := { x := 1, y := 1, z := 0 }

/-- The base point. -/
def ecBase : EcPoint :=
  { x := 0xAA87CA22BE8B05378EB1C71EF320AD746E1D3B628BA79B9859F741E082542A385502F25DBF55296C3A545E3872760AB7
    y := 0x3617DE4A96262C6F5D9E98BF9292DC29F8F41DBD289A147CE9DA3113B5F0B8C00A60B1CE1D7E819D7A431D7C90EA0E5F
    z := 1 }

/-- a − b modulo m. -/
def subm (m a b : Nat) : Nat := (a % m + (m - b % m)) % m

/-- A power modulo m, by the low f bits of the exponent. -/
def powMod (m : Nat) : Nat → Nat → Nat → Nat → Nat
  | 0, _, _, acc => acc
  | f + 1, b, e, acc => powMod m f (b * b % m) (e / 2) (if e % 2 = 1 then acc * b % m else acc)

/-- The inverse modulo a prime below 2³⁸⁴. -/
def invMod (m a : Nat) : Nat := powMod m 384 (a % m) (m - 2) 1

/-- Doubling; the curve's a is −3. -/
def ecDouble (q : EcPoint) : EcPoint :=
  let m := p384P
  let zz := q.z * q.z % m
  let yy := q.y * q.y % m
  let s := 4 * q.x * yy % m
  let t := 3 * (subm m q.x zz) * (q.x + zz) % m
  let x := subm m (t * t) (2 * s)
  { x := x, y := subm m (t * subm m s x) (8 * yy * yy), z := 2 * q.y * q.z % m }

/-- Addition. -/
def ecAdd (a b : EcPoint) : EcPoint :=
  if a.z = 0 then b
  else if b.z = 0 then a
  else
    let m := p384P
    let az := a.z * a.z % m
    let bz := b.z * b.z % m
    let u1 := a.x * bz % m
    let u2 := b.x * az % m
    let s1 := a.y * b.z * bz % m
    let s2 := b.y * a.z * az % m
    if u1 = u2 then (if s1 = s2 then ecDouble a else ecInf)
    else
      let h := subm m u2 u1
      let r := subm m s2 s1
      let hh := h * h % m
      let hhh := h * hh % m
      let v := u1 * hh % m
      let x := subm m (r * r) (hhh + 2 * v)
      { x := x, y := subm m (r * subm m v x) (s1 * hhh), z := a.z * b.z * h % m }

/-- A multiple, by the low f bits of the scalar, high bit first. -/
def ecMulLoop (q : EcPoint) (k : Nat) : Nat → EcPoint → EcPoint
  | 0, acc => acc
  | f + 1, acc =>
    let acc := ecDouble acc
    ecMulLoop q k f (if bitAt k f then ecAdd acc q else acc)

def ecMul (k : Nat) (q : EcPoint) : EcPoint := ecMulLoop q k 384 ecInf

/-- Affine coordinates. -/
def ecAffine (q : EcPoint) : Nat × Nat :=
  let i := invMod p384P q.z
  let ii := i * i % p384P
  (q.x * ii % p384P, q.y * ii % p384P * i % p384P)

/-- R576: a public key as 97 bytes, and the point it names where it lies on the curve. -/
def ecEncode (q : EcPoint) : Bytes := let (x, y) := ecAffine q; 4 :: beBytes 48 x ++ beBytes 48 y

def ecDecode (b : Bytes) : Option EcPoint :=
  let x := beNat (slice b 1 48)
  let y := beNat (slice b 49 48)
  if b.length = 97 && b.headD 0 == 4 && decide (x < p384P) && decide (y < p384P) &&
      y * y % p384P == (x * x % p384P * x + p384B + (p384P - 3) * x) % p384P
  then some { x := x, y := y, z := 1 } else none

/-! ### Keys derived from ROOT -/

/-- Blocks of the SP 800-108 counter-mode KDF, from block i on. -/
def kdfBlocks (key fixed : Bytes) : Nat → Nat → Bytes
  | 0, _ => []
  | f + 1, i => hmac384 key (beBytes 4 i ++ fixed) ++ kdfBlocks key fixed f (i + 1)

/-- R575: the derived key of 8n bits under an ASCII label. -/
def deriveKey (root serial label : Bytes) (n : Nat) : Bytes :=
  (kdfBlocks root (label ++ [0] ++ serial ++ beBytes 4 (8 * n)) ((n + 47) / 48) 1).take n

/-- R575: a private scalar. -/
def derivePrivate (root serial label : Bytes) : Nat := beNat (deriveKey root serial label 56) % (p384N - 1) + 1

/-- The ASCII bytes of a label. -/
def ascii (s : String) : Bytes := s.toList.map (fun c => BitVec.ofNat 8 c.toNat)

/-! ### Deterministic ECDSA -/

/-- The candidates for k that the HMAC-DRBG of FIPS 186-5 gives, from a state (K, V): the first that makes a signature. -/
def ecdsaLoop (d e : Nat) : Nat → Bytes → Bytes → Bytes
  | 0, _, _ => []
  | f + 1, key, v =>
    let v := hmac384 key v
    let k := beNat v
    let r := if k = 0 || p384N ≤ k then 0 else (ecAffine (ecMul k ecBase)).1 % p384N
    let s := if r = 0 then 0 else invMod p384N k * (e + r * d) % p384N
    if r = 0 || s = 0 then
      let key := hmac384 key (v ++ [0])
      ecdsaLoop d e f key (hmac384 key v)
    else beBytes 48 r ++ beBytes 48 s

/-- R576: the signature over a 48-byte digest by private scalar d. -/
def ecdsaSign (d : Nat) (digest : Bytes) : Bytes :=
  let e := beNat digest
  let x := beBytes 48 d ++ beBytes 48 (e % p384N)
  let v := List.replicate 48 1
  let key := hmac384 (zeros 48) (v ++ [0] ++ x)
  let v := hmac384 key v
  let key := hmac384 key (v ++ [1] ++ x)
  ecdsaLoop d e 64 key (hmac384 key v)

/-- A signature verifies over a digest under a 97-byte public key. -/
def ecdsaVerify (pub digest sig : Bytes) : Bool :=
  match ecDecode pub with
  | none => false
  | some q =>
    let r := beNat (slice sig 0 48)
    let s := beNat (slice sig 48 48)
    if sig.length ≠ 96 || r = 0 || p384N ≤ r || s = 0 || p384N ≤ s then false
    else
      let w := invMod p384N s
      let pt := ecAdd (ecMul (beNat digest * w % p384N) ecBase) (ecMul (r * w % p384N) q)
      pt.z != 0 && (ecAffine pt).1 % p384N == r

/-- R576: the ECDH shared secret of a private scalar and a 97-byte public key; none where the key is not on the curve. -/
def ecdh (d : Nat) (pub : Bytes) : Option Bytes := (ecDecode pub).map (fun q => beBytes 48 (ecAffine (ecMul d q)).1)

end Sys2Proof.Machine
end

