-- ==== Sys2Proof/Machine/Keys.lean ====
section
/-!
DEFINITION. Machine/Keys.lean: the part's keys (Table 16.1, R575), role keys and session MACs (R579 to R582), key agreement (R583, R587), and
whether a security engine serves (R577, R578).
-/
namespace Sys2Proof.Machine

def rootBytes : Bytes := leBytes 32 Config.root.toNat

/-- Table 16.1: the private scalars. -/
def idKey : Nat := derivePrivate rootBytes serialBytes (ascii "PQ20-ID")
def enrolKey : Nat := derivePrivate rootBytes serialBytes (ascii "PQ20-ENROL")
def modelKey : Nat := derivePrivate rootBytes serialBytes (ascii "PQ20-MODEL")

/-- The public key of a private scalar (R576). -/
def publicKey (d : Nat) : Bytes := ecEncode (ecMul d ecBase)

/-- R501, R594: the device identity key's signature over a digest. -/
def deviceSign (digest : Bytes) : Bytes := ecdsaSign idKey digest

/-- R579: the role key of an enrolled secret. -/
def roleKey (secret : Bytes) (role part : Nat) : Bytes :=
  hmac256 secret (ascii "PQ20-ROLE" ++ serialBytes ++ leBytes 1 role ++ leBytes 1 part)

/-- R581: the response MAC. -/
def sessionMac (secret challenge : Bytes) (role part ep client : Nat) : Bytes :=
  hmac256 (roleKey secret role part)
    (challenge ++ leBytes 1 role ++ leBytes 1 part ++ leBytes 1 ep ++ leBytes 1 client ++ serialBytes)

/-- R583, R587: a key that a party has wrapped to one of the part's ECDH keys, with a label and what follows the serial in the KDF. -/
def agreedUnwrap (d : Nat) (ephemeral : Bytes) (label tail wrapped : Bytes) : Option Bytes :=
  match ecdh d ephemeral with
  | none => none
  | some z => kwUnwrap ((sha384 (z ++ label ++ serialBytes ++ tail)).take 32) wrapped

/-- R578: the security engine of deckle k is in service. -/
def engineUp (s : State) (k : Nat) : Bool := dieUp s (16 + k) && !s.sec.testBad.contains k && !s.sec.keysCleared

/-- R577: it can generate random values. -/
def engineRandom (s : State) (k : Nat) : Bool := engineUp s k && !s.sec.entropyBad.contains k

/-- A cause of Table 16.14, logged by the security engine of a deckle. -/
def secReport (s : State) (k cause cls detail : Nat) : State :=
  report s { cause := cause, cls := cls, unit := 0x16, source := securityTile k, detail := detail }

end Sys2Proof.Machine
end

