-- ==== Sys2Proof/Machine/Journal.lean ====
section
/-!
DEFINITION. Machine/Journal.lean: the record of an admitted request (R498, R499, R508, R573), the verdict of a replay (R412), and the signing of
seals (R501).
-/
namespace Sys2Proof.Machine

/-- The elements of a watch-set record: 0 INPUT, 1 OUT0, 2 OUT1 (Table 15.12). -/
def watchElem (w i : Nat) : Nat := bits w (16 * i + 15) (16 * i)
def elemEn (e : Nat) : Bool := bitAt e 15
def elemDie (e : Nat) : Nat := bits e 11 8
def elemPoint (e : Nat) : Nat := bits e 5 0

/-- R573: the digest that an enabled element supplies. -/
def ctxDigest (x : Context) (i : Nat) : Option Bytes := if elemEn (watchElem x.watchRec i) then tget x.digests i else none

/-- R416, R417: status, DETAIL and result of a context that has left LIVE: its DONE word's, or its fault's. -/
def ctxOutcome (x : Context) (r : Request) : Outcome :=
  if x.state = 2 then r.out
  else if x.fault = 0x10 then { status := 0x0201 }
  else { status := 0x0202, detail := x.fault }

/-- R412, R573: the verdict of a replay: 1 MATCH, 2 MISMATCH, 3 INPUT_DIFFERS. -/
def verdict (x : Context) (o : Outcome) (orig : Bytes) : Nat :=
  let n := bits (field orig 7 1) 1 0
  let outs := (List.range n).map (fun i => slice orig (152 + 32 * i) 32)
  let mine := (List.range n).map (fun i => ctxDigest x (i + 1))
  match ctxDigest x 0 with
  | none => 2
  | some d =>
    if allZero (slice orig 120 32) || outs.any allZero || mine.any (·.isNone) then 2
    else if d != slice orig 120 32 then 3
    else if mine == outs.map some && o.resultLen == field orig 54 2 && padTo (o.result.take 16) 16 == slice orig 56 16 then 1
    else 2

/-- The verdict of a context's request, 0 where it is no replay. -/
def ctxVerdict (x : Context) (r : Request) : Nat :=
  if descOpcode r.desc = 2 then verdict x (ctxOutcome x r) r.orig else 0

/-- Table 14.8: the REQUEST record of a context, without PREV_HASH. status overrides that of the outcome (INTERRUPTED, R525). -/
def requestRecord (s : State) (n c : Nat) (x : Context) (r : Request) (interrupted : Bool) : Bytes :=
  let o : Outcome := if interrupted then { status := 0xFFFF } else ctxOutcome x r
  let replay := descOpcode r.desc == 2
  let dig := fun i : Nat => if interrupted then zeros 32 else padTo ((ctxDigest x i).getD []) 32
  let outs := if interrupted then 0 else ([1, 2].filter (fun i => elemEn (watchElem x.watchRec i))).length
  let v := if interrupted then 0 else ctxVerdict x r
  leBytes 1 1 ++ leBytes 1 n ++ leBytes 1 (x.partition % 16 + x.slot % 16 * 16)
    ++ leBytes 1 (x.epoch % 4 + x.tint % 8 * 4 + bitOf replay * 32 + bitOf x.unlocked * 64 + bitOf s.time.wallValid * 128)
    ++ leBytes 2 o.status ++ leBytes 1 o.detail
    ++ leBytes 1 (outs + v * 4 + (if replay then bits (descArg r.desc 1) 1 0 * 16 else 0))
    ++ leBytes 8 x.journalSeq ++ leBytes 8 x.requestId ++ leBytes 8 x.admitTick ++ leBytes 8 (wallField s x.admitTick)
    ++ leBytes 8 (if interrupted && x.state = 1 then s.now else x.endTick)
    ++ leBytes 4 x.generation ++ leBytes 2 (ctxTag n c x.gen) ++ leBytes 2 o.resultLen ++ padTo (o.result.take 16) 16
    ++ padTo x.image 48 ++ dig 0 ++ dig 1 ++ dig 2
    ++ leBytes 8 (if replay then descArg r.desc 0 else 0) ++ zeros 32

/-- R573: the enabled elements without a kept report are logged and counted, when the record is made. -/
def missingDigests (s : State) (n c : Nat) : State :=
  let x := ctxOf s n c
  (List.range 3).foldl (fun s i =>
    if elemEn (watchElem x.watchRec i) && (ctxDigest x i).isNone then
      let tag := ctxTag n c x.gen
      let s := modObs s fun o => { o with digestCounts := tinc o.digestCounts (3 * n + 2) 1 }
      report s
        { cause := 0xD4, cls := 2, unit := 0x11, source := portFrontTile n, partition := some x.partition, tag := some tag
          detail := i * 2 ^ 16 + tag }
    else s) s

/-- A number that a chained record or a run still to be chained covers. -/
def numberCovered (c : Chain) (q : Nat) : Bool :=
  decide (q < c.chained) || c.runs.any (fun e => decide (e.1 ≤ q) && decide (q < e.1 + e.2.1))

/-- R499, R508: what the engine does with the record of a context that has left LIVE: accept it, discard it, or let it wait. -/
inductive RecordAct where
  | accept | discard | wait
  deriving DecidableEq, Repr

def recordAct (s : State) (n : Nat) (x : Context) : RecordAct :=
  let l := ledOf s n
  let c := l.chain
  if !(x.state == 2 || x.state == 4) || x.record || x.norecord || l.state == 6 || l.stopping then .wait
  else if x.unchained then .discard
  else if numberCovered c x.journalSeq then .discard
  else
    let open_ := decide (x.journalSeq < c.chained + 1024)
    let from_ := match c.runFrom with | some d => decide (d ≤ x.journalSeq) | none => false
    if !x.journal && (!(dieUp s (16 + n) && l.state == 2) || !open_ || from_) then .discard
    else if dieUp s (16 + n) && (l.state == 2 || l.state == 3) && open_ then .accept
    else .wait

/-- The record of a context is built and accepted, or discarded (R498, R499, R508). -/
def acceptRecord (s : State) (n c : Nat) : State :=
  let x := ctxOf s n c
  match recordAct s n x with
  | .wait => s
  | .discard =>
    let s := modCtx (missingDigests s n c) n c fun y => { y with norecord := true }
    if x.unchained || numberCovered (chainOf s n) x.journalSeq then s
    else journalGo (modChain s n fun ch =>
      { ch with runFrom := some (match ch.runFrom with | some d => Nat.min d x.journalSeq | none => x.journalSeq) }) n
  | .accept =>
    match ctxRequest s n x with
    | none => s
    | some r =>
      let s := missingDigests s n c
      let rc := requestRecord s n c x r false
      let s := modCtx s n c fun y => { y with record := true }
      journalGo (modChain s n fun ch => { ch with accepted := tput ch.accepted x.journalSeq rc }) n

/-- RECORD_ACCEPT (R498, R499, R508). -/
def execRecordAccept (port : PortId) (ctx : CtxId) (s : State) : Host.Outcome State Fault Refusal :=
  .next (acceptRecord s port.val ctx.val)

/-- SEAL_SIGNED (R501): the seal that waits is signed and chained, and chaining goes on. -/
def execSealSigned (port : PortId) (s : State) : Host.Outcome State Fault Refusal :=
  let n := port.val
  match (chainOf s n).signing with
  | none => .next s
  | some (q, r) =>
    if !engineUp s n then .next s else
    let sig := deviceSign (sha384 (r.take 128 ++ r.drop 224))
    let s := modChain s n fun c => { c with signing := none, seals := tdel c.seals q }
    let s := chainPut s n (r.take 128 ++ padTo sig 96 ++ r.drop 224)
    .next (if (ledOf s n).startSeal.isSome then queueTail s n else journalGo s n)

end Sys2Proof.Machine
end

