-- ==== Sys2Proof/Machine/Nand.lean ====
section
/-!
DEFINITION. Machine/Nand.lean: the NAND of a ledger engine (R484 to R493, R506, R515 to R522): geometry, blocks, free space, stripes, jobs for pages
to be programmed, relocation and retirement.
-/
namespace Sys2Proof.Machine

/-- R486: the media profile in force. -/
def mediaProfile (s : State) : Bytes :=
  let v := valueInForce s 0x6001 0
  if v.isEmpty then leBytes 128 Config.mediaProfile.toNat else v
def pslcPages (s : State) : Nat := field (mediaProfile s) 8 2
def retryLevels (s : State) : Nat := field (mediaProfile s) 26 1 % 16
def eraseSuspends (s : State) : Bool := bitAt (field (mediaProfile s) 27 1) 0

/-- Fields of a PPA (Table 14.6). -/
def ppaChan (p : Nat) : Nat := bits p 31 29
def ppaCe (p : Nat) : Nat := bits p 28 27
def ppaLun (p : Nat) : Nat := bits p 26 25
def ppaPage (p : Nat) : Nat := bits p 11 0
/-- A block's key: PPA div 4,096; its block number, and its LUN among the package's. -/
def ppaBlock (p : Nat) : Nat := p / 4096
def blockNum (k : Nat) : Nat := k % 8192
def blockLun (k : Nat) : Nat := k / 8192
/-- R490: a LUN's index within its die. -/
def lunIndex (k : Nat) : Nat := 16 * (ppaChan (k * 4096) % 2) + 4 * ppaCe (k * 4096) + ppaLun (k * 4096)

/-- R485: the target keeps the part's limits. -/
def targetFits (t : NandTarget) : Bool :=
  t.dataBytes == 16384 && decide (2048 ≤ t.spareBytes) && decide (768 ≤ t.pages) && decide (t.pages ≤ 3072) && decide (1 ≤ t.planes) &&
    decide (t.planes ≤ 4) && decide (t.blocks ≤ 8192) && decide (1 ≤ t.luns) && decide (t.luns ≤ 4)

/-- The target of a block that die k uses, if its channel is in service. -/
def targetOf (s : State) (k key : Nat) : Option NandTarget :=
  let p := key * 4096
  let l := ledOf s k
  if ppaChan p / 2 != k || l.down.contains (ppaChan p % 2) || l.unused.contains (4 * (ppaChan p % 2) + ppaCe p) then none
  else s.led.fitted.find? (fun t =>
    targetFits t && t.chan == ppaChan p && t.ce == ppaCe p && decide (ppaLun p < t.luns) && decide (blockNum key < t.blocks) &&
      !t.bad.contains (8192 * ppaLun p + blockNum key))

/-- R493: the block lies in volume J. -/
def isJ (l : Ledger) (key : Nat) : Bool := decide (blockNum key < l.layout.1)

/-- Pages of a block, in its volume's mode (R493). -/
def blockPages (s : State) (k key : Nat) : Nat :=
  if isJ (ledOf s k) key then pslcPages s else ((targetOf s k key).map (·.pages)).getD 0

def blockOf (l : Ledger) (key : Nat) : Block := tgetD l.blocks key {}
def modBlock (s : State) (k key : Nat) (f : Block → Block) : State := modLedger s k fun l => { l with blocks := tmod l.blocks key {} f }

/-- LUNs that die k uses, as block key div 8,192. -/
def lunsOf (s : State) (k : Nat) : List Nat :=
  s.led.fitted.flatMap (fun t =>
    if t.chan / 2 == k then
      ((List.range t.luns).map (fun u => t.chan * 16 + t.ce * 4 + u)).filter (fun u => (targetOf s k (u * 8192 + t.blocks - 1)).isSome ||
        (targetOf s k (u * 8192)).isSome)
    else [])

/-- Good blocks of a volume on die k (true: J). -/
def goodBlocks (s : State) (k : Nat) (j : Bool) : Nat :=
  let l := ledOf s k
  let total := (s.led.fitted.map (fun t =>
    if t.chan / 2 == k && targetFits t && !l.unused.contains (4 * (t.chan % 2) + t.ce) then
      let mine := if j then Nat.min t.blocks l.layout.1 else t.blocks - l.layout.1
      t.luns * mine - (t.bad.filter (fun b => decide (b / 8192 < t.luns) && decide (b % 8192 < t.blocks) && (decide (b % 8192 < l.layout.1) == j))).length
    else 0)).sum
  total - (l.retired.filter (fun key => isJ l key == j)).length

/-- A listed block that R506 does not count as free. -/
def blockHeld (l : Ledger) (key : Nat) (b : Block) : Bool :=
  !l.retired.contains key && (b.cls != 0 || b.stripe.isSome || b.log || b.parity || (tget l.erasing key).isSome)

/-- R506: free blocks of a volume. -/
def freeBlocks (s : State) (k : Nat) (j : Bool) : Nat :=
  let l := ledOf s k
  goodBlocks s k j - (l.blocks.filter (fun e => isJ l e.1 == j && blockHeld l e.1 e.2)).length

/-- R506: volume J's fill, in percent of its formatted capacity. -/
def fillJ (s : State) (k : Nat) : Nat :=
  let l := ledOf s k
  (l.chain.chained - l.chain.release) * 100 / Nat.max (l.goodJ * pslcPages s * 64) 1

/-- R506: READY or FULL by the free blocks, and the fill warnings. -/
def ledCapacity (s : State) (k : Nat) : State :=
  let l := ledOf s k
  if l.state != 2 && l.state != 3 then s
  else
    let free := freeBlocks s k true
    let s := if l.state = 2 && free < l.layout.2.2 then
        ledReport (modLedger s k fun l => { l with state := 3 }) k 0x88 2 k
      else if l.state = 3 && l.layout.2.2 + 8 ≤ free then
        journalGo (modLedger s k fun l => { l with state := 2 }) k
      else s
    let warn := setting s 0x6008 0
    let f := fillJ s k
    if f < warn then modLedger s k fun l => { l with warned := none }
    else
      let level := warn + (f - warn) / 5 * 5
      if (match l.warned with | none => true | some w => decide (w < level)) then
        ledReport (modLedger s k fun l => { l with warned := some level }) k 0x89 1 f
      else s

/-- Health counters (Table 14.13): 0 corrected bits, 1 uncorrectable, 2 program fails, 3 erase fails, 4 retired, 5 erase incomplete, 6 relocations,
7 rebuilds, 8 PATROL_DONE. -/
def ledHealth (s : State) (k i n : Nat) : State := modLedger s k fun l => { l with health := bump l.health i n }

/-- The engine writes an index sector (R531). -/
def queueIndex (s : State) (k : Nat) : State := modLedger s k fun l => { l with jobs := l.jobs ++ [{ volume := 3 }] }

/-- R520: a block is retired at once. -/
def retireBlock (s : State) (k key : Nat) : State :=
  let s := modLedger s k fun l =>
    { l with retired := if l.retired.contains key then l.retired else l.retired ++ [key], erasing := tdel l.erasing key }
  let s := modBlock s k key fun b => { b with cls := 5 }
  let s := ledReport (ledHealth s k 4 1) k 0x84 2 (key * 4096)
  queueIndex s k

/-- The page of volume J that holds a logical page now: the good one of the highest SEQ (R530). -/
def currentJ (l : Ledger) (logical : Nat) : Option (Nat × NandPage) :=
  (l.pages.filter (fun e => (e.2.md.volume == 1 || e.2.md.volume == 2) && e.2.md.logical == logical && !e.2.torn && !e.2.bad)).foldl
    (fun best e => match best with
      | some b => if b.2.md.seq < e.2.md.seq then some e else best
      | none => some e) none

/-- R522: sectors of a page that are valid: for volume J the current copy's, at or above the release point; for volume A all of a page that no later
write of its logical address supersedes (R531). -/
def validSectors (l : Ledger) (ppa : Nat) (g : NandPage) : Nat :=
  if g.torn then 0
  else if g.md.volume = 1 || g.md.volume = 2 then
    if (currentJ l g.md.logical).map (·.1) = some ppa then
      ((List.range 4).filter (fun i => bitAt g.md.sectors i && decide (l.chain.release < 16 * (g.md.logical + i + 1)))).length
    else 0
  else if g.md.volume = 3 then
    if l.pages.any (fun e => e.2.md.volume == 3 && decide (g.md.seq < e.2.md.seq)) then 0 else 4
  else if g.md.volume = 4 then
    if l.pages.any (fun e => e.2.md.volume == 4 && e.2.md.logical == g.md.logical && decide (g.md.seq < e.2.md.seq)) then 0 else 4
  else 0

/-- Programmed pages of a block, in page order. -/
def pagesIn (l : Ledger) (key : Nat) : List (Nat × NandPage) := l.pages.filter (fun e => ppaBlock e.1 == key)

/-- Valid sectors of a block. -/
def blockValid (l : Ledger) (key : Nat) : Nat := ((pagesIn l key).map (fun e => validSectors l e.1 e.2)).sum

/-- The original LUN and block of a page for ORIGIN (Table 14.7): a second move keeps the first. -/
def originOf (g : NandPage) (key : Nat) : Nat := if g.md.flags % 2 = 1 then g.md.origin else lunIndex key * 8192 + blockNum key

/-- R515, R517, R518, R522, R524: a block's valid pages are queued to be written elsewhere; volume A pages keep their page index. -/
def relocateJobs (l : Ledger) (key : Nat) (rebuilt all : Bool) : List PageJob :=
  ((pagesIn l key).filter (fun e => !e.2.torn && e.2.md.volume != 5 && (all || 0 < validSectors l e.1 e.2))).map (fun e =>
    let m := e.2.md
    let moved := m.volume == 4
    { volume := m.volume, sectors := m.sectors, partition := m.partition
      flags := (if moved then 1 else 0) + (if rebuilt then 2 else 0)
      logical := m.logical, origin := if moved then originOf e.2 key else 0, data := e.2.data, src := some e.1
      page := if moved then some (ppaPage e.1) else none })

/-- A block is relocated, unless it already is; it counts as one relocation and is logged (R517, R524). -/
def relocateBlock (s : State) (k key : Nat) : State :=
  let l := ledOf s k
  if l.jobs.any (fun j => match j.src with | some p => ppaBlock p == key | none => false) then s
  else
    let s := modLedger s k fun l => { l with jobs := l.jobs ++ relocateJobs l key false false }
    ledReport (ledHealth s k 6 1) k 0x87 1 (key * 4096)

/-- R509: an uncorrectable page of volume J loses the records it held. -/
def loseRecords (s : State) (k : Nat) (g : NandPage) : State :=
  let first := 16 * g.md.logical
  let s := modChain s k fun c => { c with lost := if c.lost.contains (first, 64) then c.lost else c.lost ++ [(first, 64)] }
  ledReport s k 0x8B 2 first

/-- A read finds a page uncorrectable after every retry (R487, R509). Another good copy of a journal page, or a page the chain still holds in SRAM,
loses nothing. -/
def pageUncorrectable (s : State) (k ppa : Nat) : State :=
  let s := ledReport (ledHealth s k 1 1) k 0x81 2 ppa
  match tget (ledOf s k).pages ppa with
  | none => s
  | some g =>
    let cur := (currentJ (ledOf s k) g.md.logical).map (·.1) = some ppa
    let s := modLedger s k fun l => { l with pages := tput l.pages ppa { g with bad := true } }
    if (g.md.volume = 1 || g.md.volume = 2) && cur && (currentJ (ledOf s k) g.md.logical).isNone then loseRecords s k g else s

/-! ### Stripes (R516, R517) -/

/-- LUNs that a stripe spans: STRIPE_WIDTH, or those the die has (DESIGN CHOICE, notes/assumptions/36.md). -/
def stripeWidth (s : State) (k : Nat) : Nat := Nat.min (ledOf s k).layout.2.1 (lunsOf s k).length

/-- The lowest free block of a volume on a LUN that p selects. -/
def freeOn (s : State) (k : Nat) (j : Bool) (p : Nat → Bool) : Option Nat :=
  let l := ledOf s k
  ((lunsOf s k).filter p).findSome? (fun u =>
    let base := if j then 0 else l.layout.1
    let n := if j then l.layout.1 else 8192 - l.layout.1
    -- more candidates than blocks that could be held on the LUN
    ((List.range n).map (fun i => u * 8192 + base + i)).find? (fun key =>
      (targetOf s k key).isSome && !l.retired.contains key && !blockHeld l key (blockOf l key) && (blockOf l key).next == 0))

/-- A data block that is opened joins an open stripe of its volume, or starts one whose parity block is the lowest free one on another LUN. -/
def joinStripe (s : State) (k key : Nat) : Option State :=
  let l := ledOf s k
  let j := isJ l key
  let vol := if j then 0 else 1
  let w := stripeWidth s k
  if w < 2 then none
  else match l.stripes.find? (fun t => t.vol == vol && decide (t.blocks.length + 1 < w) &&
      !(t.parity :: t.blocks).any (fun b => blockLun b == blockLun key)) with
  | some t =>
    let s := modBlock s k key fun b => { b with stripe := some t.num, cls := 2 }
    some (modLedger s k fun l =>
      { l with stripes := l.stripes.map (fun x => if x.num == t.num && x.vol == vol then { x with blocks := x.blocks ++ [key] } else x) })
  | none =>
    match freeOn s k j (fun u => u != blockLun key) with
    | none => none
    | some par =>
      let num := l.nextStripe
      let s := modBlock s k key fun b => { b with stripe := some num, cls := 2 }
      let s := modBlock s k par fun b => { b with stripe := some num, parity := true, cls := 2 }
      some (modLedger s k fun l =>
        { l with stripes := l.stripes ++ [{ num := num, vol := vol, blocks := [key], parity := par }], nextStripe := num + 1 })

/-- R516: once every data page p of a stripe is programmed, its parity page p is due. -/
def queueParity (s : State) (k num page : Nat) : State :=
  let l := ledOf s k
  match l.stripes.find? (fun t => t.num == num) with
  | none => s
  | some t =>
    if t.blocks.length + 1 = stripeWidth s k && t.blocks.all (fun b => decide (page < (blockOf l b).next)) then
      modLedger s k fun l => { l with jobs := l.jobs ++ [{ volume := 5, logical := 0, page := some page, origin := num }] }
    else s

/-- R517: a stripe whose data blocks are all closed and read back releases its parity block. -/
def releaseParity (s : State) (k num : Nat) : State :=
  let l := ledOf s k
  match l.stripes.find? (fun t => t.num == num) with
  | none => s
  | some t =>
    if t.blocks.length + 1 = stripeWidth s k && t.blocks.all (fun b => (blockOf l b).checked || l.retired.contains b) then
      let s := modBlock s k t.parity fun b => { b with stripe := none, parity := false, cls := 1, valid := 0 }
      let s := t.blocks.foldl (fun s b => modBlock s k b fun x => { x with stripe := none }) s
      modLedger s k fun l => { l with stripes := l.stripes.filter (fun x => x.num != num) }
    else s

/-! ### Programming (R502, R510, R516, R518) -/

/-- A page job may be programmed at a PPA: its volume, its page, and for a parity page its stripe's parity block. -/
def jobFits (s : State) (k ppa : Nat) (j : PageJob) : Bool :=
  let l := ledOf s k
  let key := ppaBlock ppa
  let b := blockOf l key
  (j.volume == 5 || isJ l key != (j.volume == 4)) &&
  (match j.page with | some p => p == ppaPage ppa | none => true) &&
  (if j.volume = 5 then l.stripes.any (fun t => t.num == j.origin && t.parity == key)
   else !b.parity && (if j.volume = 2 || j.volume = 3 then b.next == 0 || b.log else !b.log))

/-- The page can be programmed now: a used target, the block's next page, an erased or open block. -/
def canProgram (s : State) (k ppa : Nat) : Bool :=
  let l := ledOf s k
  let key := ppaBlock ppa
  let b := blockOf l key
  dieUp s (16 + k) && (l.state == 2 || l.state == 3 || l.startSeal.isSome) && l.state != 6 && (targetOf s k key).isSome &&
    !l.retired.contains key && (tget l.erasing key).isNone && (b.cls == 0 || b.cls == 2) && b.next == ppaPage ppa &&
    decide (ppaPage ppa < blockPages s k key)

/-- R493: a log block may be opened while fewer than eight are. -/
def openBlock (s : State) (k key : Nat) (j : PageJob) : Option State :=
  let l := ledOf s k
  if (blockOf l key).next ≠ 0 || j.volume = 5 then some s
  else if j.volume = 2 || j.volume = 3 then
    if (l.blocks.filter (fun e => e.2.log && e.2.cls == 2)).length < 8 then
      some (modBlock s k key fun b => { b with log := true, cls := 2 })
    else none
  else joinStripe s k key

end Sys2Proof.Machine
end

