-- ==== Sys2Proof/Machine/Ledger.lean ====
section
/-!
DEFINITION. Machine/Ledger.lean: what the ledger engine does (R484 to R533): pages programmed, erased and read, garbage collection and patrol, the
recovery scans, health, channels, format, STOP and START, and the journal and archive requests (R504, R510 to R514).
-/
namespace Sys2Proof.Machine

/-! ### Service requests' completions -/

/-- A service request completes: status, DETAIL, RESULT field and bytes for OUTPUT_ADDR. -/
def serviceDone (s : State) (n num status detail : Nat) (result : Bytes) (output : Bytes := []) : State :=
  finishReq s n num { status := status, detail := detail, result := result, output := output, resultLen := output.length }

/-- LEDGER_ERROR with a DETAIL of Table 14.14. -/
def ledgerError (s : State) (n num detail : Nat) (output : Bytes := []) : State := serviceDone s n num 0x0305 detail [] output

/-- The executing request of an opcode. -/
def serviceReq (s : State) (n num op : Nat) : Option Request :=
  match reqOf s n num with
  | some r => if r.stage == .executing && descOpcode r.desc == op then some r else none
  | none => none

/-- Table 14.2: what a volume A request meets at an engine: none where it is served; a status and DETAIL; a FLUSHED engine does nothing. -/
inductive ArchiveDoor where
  | served | never
  | refused (status detail : Nat)
  deriving DecidableEq, Repr

def archiveDoor (s : State) (k : Nat) : ArchiveDoor :=
  let l := ledOf s k
  if !dieUp s (16 + k) || l.state = 6 then .never
  else if l.state = 0 || l.state = 5 || l.state = 7 then .refused 0x0305 1
  else if l.state = 4 then .refused 0x0305 8
  else if l.state = 1 || l.scanA then .refused 0x0306 0
  else .served

/-! ### JOURNAL_READ (R504) -/

/-- The records that a JOURNAL_READ returns, with their first numbers: from the one that covers a number, at most count. -/
def recordsFrom (c : Chain) (q count : Nat) : List (Nat × Bytes) :=
  (c.recs.filter (fun e => decide (q < e.1 + recordCount e.2))).take count

/-- R509: a record was lost. -/
def recordLost (c : Chain) (q : Nat) : Bool := c.lost.any (fun e => decide (e.1 ≤ q) && decide (q < e.1 + e.2))

/-- R504: the end of a JOURNAL_READ whose pages have all been read. -/
def journalAnswer (s : State) (n : Nat) (r : Request) : State :=
  let c := chainOf s (bits (descArg r.desc 1) 1 0)
  let l := recordsFrom c (descArg r.desc 0) (descArg r.desc 2)
  if l.any (fun e => recordLost c e.1) then ledgerError s n r.num 6
  else serviceDone s n r.num 0 0 (leBytes 4 l.length) (l.flatMap (fun e => padTo e.2 256))

/-- The PPAs of the pages that hold the durable ones of a list of records. -/
def recordPages (l : Ledger) (recs : List (Nat × Bytes)) : List Nat :=
  (((recs.filter (fun e => decide (e.1 < l.chain.durable))).map (fun e => e.1 / 64)).eraseDups).filterMap
    (fun p => (currentJ l (4 * p)).map (·.1))

/-- JOURNAL_READ (R504, R424): the checks, and the reads of the pages that hold the records; at once where none lies on NAND. -/
def execJournalRead (port : PortId) (req : Nat) (s : State) : Host.Outcome State Fault Refusal :=
  let n := port.val
  match serviceReq s n req 0x20 with
  | none => .next s
  | some r =>
    let p := bits (descArg r.desc 1) 1 0
    let b := portBank s n
    let l := ledOf s p
    let c := l.chain
    let q := descArg r.desc 0
    if r.started then .next s
    else if !partOwnsPort b.cfg r.partition p && !bitAt (bankNat b 0x6007 (p + 1)) n then .next (ledgerError s n req 3)
    else if !dieUp s (16 + p) then .next (ledgerError s n req 9)
    else if l.state = 0 || l.state = 5 || l.state = 7 then .next (ledgerError s n req 1)
    else if l.state = 1 then .next (serviceDone s n req 0x0306 0 [])
    else if l.state = 4 then .next (ledgerError s n req 8)
    else if l.state = 6 then .next s
    else if q < c.release then .next (ledgerError s n req 2)
    else
      let recs := recordsFrom c q (descArg r.desc 2)
      let pages := recordPages l recs
      if recs.any (fun e => recordLost c e.1) || pages.isEmpty then .next (journalAnswer s n r)
      else
        let s := modReq s n req fun r => { r with started := true, todo := pages.length }
        .next (modLedger s p fun l => { l with reads := l.reads ++ pages.map (fun a => (a, 0, .journal (1000000 * n + req))) })

/-! ### Volume A requests (R510 to R514) -/

/-- A PPA names a page of volume A of die k within its geometry (R512). -/
def inVolumeA (s : State) (k ppa : Nat) : Bool :=
  let l := ledOf s k
  decide (ppa < 2 ^ 32) && ppaChan ppa / 2 == k && !isJ l (ppaBlock ppa) &&
    (s.led.fitted.any (fun t => targetFits t && t.chan == ppaChan ppa && t.ce == ppaCe ppa && decide (ppaLun ppa < t.luns) &&
      decide (blockNum (ppaBlock ppa) < t.blocks) && decide (ppaPage ppa < t.pages)))

/-- R515: the PPA that now holds what an original PPA names. -/
def remapped (l : Ledger) (ppa : Nat) : Nat :=
  match tget l.remap (ppaBlock ppa) with
  | some b => b * 4096 + ppaPage ppa
  | none => ppa

/-- The bytes of a page that holds no page of an archive: free values. -/
def freePage (s : State) : Bytes × State := drawBytes 16384 s

/-- R512: the next page of a read: true where its bytes are free values, else the read is answered or the array is asked. -/
def archivePage (s : State) (k n : Nat) (r : Request) : Bool × State :=
  let i := r.got.length / 16384
  let result := leBytes 8 0 ++ leBytes 4 i
  if descInLen r.desc / 8 ≤ i then (false, serviceDone s n r.num 0 0 result r.got)
  else
    let ppa := field (requestBytes s n r) (8 * i) 8
    if !inVolumeA s k ppa then (false, serviceDone s n r.num 0x0305 4 result r.got)
    else
      let at_ := remapped (ledOf s k) ppa
      match tget (ledOf s k).pages at_ with
      | none => (true, s)
      | some g =>
        if g.torn || g.md.volume != 4 then (true, s)
        else if g.md.partition != r.partition then (false, serviceDone s n r.num 0x0305 5 result r.got)
        else if g.bad then (false, serviceDone s n r.num 0x0305 6 result r.got)
        else
          let s := modReq s n r.num fun x => { x with got := r.got, started := true }
          (false, modLedger s k fun l => { l with reads := l.reads ++ [(at_, 0, .archive (1000000 * n + r.num) i)] })

/-- R512: an ARCHIVE_READ goes on from the entries it has done: pages that were never written or are torn give undefined bytes (R17), the next
programmed page is read. -/
def archiveReadOn : Nat → State → Nat → Nat → Request → State
  | 0, s, _, _, _ => s
  | f + 1, s, k, n, r =>
    let x := archivePage s k n r
    if x.1 then
      let y := freePage x.2
      archiveReadOn f y.2 k n { r with got := r.got ++ y.1 }
    else x.2

/-- ARCHIVE_READ (R512). -/
def execArchiveRead (port : PortId) (req : Nat) (s : State) : Host.Outcome State Fault Refusal :=
  let n := port.val
  match serviceReq s n req 0x22 with
  | none => .next s
  | some r =>
    if r.started then .next s
    else match archiveDoor s n with
    | .never => .next s
    | .refused st d => .next (serviceDone s n req st d [])
    | .served => .next (archiveReadOn 257 s n n r)

/-- ARCHIVE_WRITE (R510): the pages are queued for programming, or the request finds volume A full. -/
def execArchiveWrite (port : PortId) (req : Nat) (s : State) : Host.Outcome State Fault Refusal :=
  let n := port.val
  match serviceReq s n req 0x21 with
  | none => .next s
  | some r =>
    if r.started then .next s
    else match archiveDoor s n with
    | .never => .next s
    | .refused st d => .next (serviceDone s n req st d [])
    | .served =>
      let count := descInLen r.desc / 16384
      let per := ((s.led.fitted.filter (fun t => t.chan / 2 == n && targetFits t)).map (·.pages)).foldl Nat.max 0
      if (freeBlocks s n false - stripeWidth s n) * per < count then .next (ledgerError s n req 7)
      else
        let jobs := (List.range count).map (fun i =>
          ({ volume := 4, sectors := 15, partition := r.partition, logical := descArg r.desc 0 + i
             data := slice (requestBytes s n r) (16384 * i) 16384, req := some (1000000 * n + req, i) } : PageJob))
        let s := modReq s n req fun x => { x with started := true, todo := count, got := zeros (8 * count) }
        .next (modLedger s n fun l => { l with jobs := l.jobs ++ jobs })

/-- R515: a moved block whose target holds nothing valid returns to the free pool with it. -/
def settleRemap (s : State) (k key : Nat) : State :=
  let l := ledOf s k
  if (blockOf l key).valid = 0 then
    modLedger s k fun l => { l with remap := l.remap.filter (fun e => e.2 != key) }
  else s

/-- ARCHIVE_DISCARD (R513): the valid count of each listed page's block falls by 1. A PPA outside volume A ends the request (DEDUCED,
notes/assumptions/37.md). -/
def execArchiveDiscard (port : PortId) (req : Nat) (s : State) : Host.Outcome State Fault Refusal :=
  let n := port.val
  match serviceReq s n req 0x23 with
  | none => .next s
  | some r =>
    match archiveDoor s n with
    | .never => .next s
    | .refused st d => .next (serviceDone s n req st d [])
    | .served =>
      let count := descInLen r.desc / 8
      let list := (List.range count).map (fun i => field (requestBytes s n r) (8 * i) 8)
      let good := list.takeWhile (inVolumeA s n)
      let s := good.foldl (fun s ppa =>
        let key := ppaBlock (remapped (ledOf s n) ppa)
        settleRemap (modBlock s n key fun b => { b with valid := b.valid - 1 }) n key) s
      let result := leBytes 8 0 ++ leBytes 4 good.length
      if good.length < count then .next (serviceDone s n req 0x0305 4 result) else .next (serviceDone s n req 0 0 result)

/-- R515: the original PPA of a volume A page. -/
def originalPpa (ppa : Nat) (g : NandPage) : Nat :=
  if g.md.flags % 2 = 1 then
    let lun := bits g.md.origin 17 13
    (ppaChan ppa / 2 * 2 + lun / 16) * 2 ^ 29 + (lun / 4 % 4) * 2 ^ 27 + (lun % 4) * 2 ^ 25 + bits g.md.origin 12 0 * 4096 + ppaPage ppa
  else ppa

/-- R514: the pages of a partition on die k, by original PPA in rising order, from a PPA. A moved page's original is not listed again. -/
def mapEntries (s : State) (k part start : Nat) : List (Nat × NandPage) :=
  let l := ledOf s k
  let mine := (l.pages.filter (fun e =>
    e.2.md.volume == 4 && !e.2.torn && e.2.md.partition == part && (tget l.remap (ppaBlock e.1)).isNone)).map
      (fun e => (originalPpa e.1 e.2, e.2))
  (mine.filter (fun e => decide (start ≤ e.1))).mergeSort (fun a b => decide (a.1 ≤ b.1))

/-- Table 14.12. -/
def mapEntryBytes (e : Nat × NandPage) : Bytes :=
  leBytes 8 e.1 ++ leBytes 8 e.2.md.logical ++ leBytes 8 e.2.md.seq ++ leBytes 1 e.2.md.flags ++ zeros 7

/-- MAP_DUMP (R514): of the die that ARG0 names. -/
def execMapDump (port : PortId) (req : Nat) (s : State) : Host.Outcome State Fault Refusal :=
  let n := port.val
  match serviceReq s n req 0x24 with
  | none => .next s
  | some r =>
    let start := descArg r.desc 0
    let k := ppaChan start / 2
    match archiveDoor s k with
    | .never => if dieUp s (16 + k) then .next s else .next (ledgerError s n req 9)
    | .refused st d => .next (serviceDone s n req st d [])
    | .served =>
      let all := mapEntries s k r.partition start
      let l := all.take (descOutLen r.desc / 32)
      let next := match l.getLast? with | some e => e.1 + 1 | none => start
      .next (serviceDone s n req 0 0 (leBytes 8 next ++ leBytes 1 (bitOf (decide (l.length < all.length)))) (l.flatMap mapEntryBytes))

/-! ### Programming -/

/-- R593: the device leaves ZEROISED once every in-service ledger engine has been formatted with a new key. -/
def leaveZeroised (s : State) : State :=
  if s.pow.zeroised && (List.range 4).all (fun k => !dieUp s (16 + k) || ((ledOf s k).formatted && !(ledOf s k).formatting)) then
    modPow s fun w => { w with zeroised := false }
  else s

/-- R494, R530: the recovery or format seal is on NAND, so the engine is READY, and seals that fell due meanwhile take their numbers. -/
def ledgerReady (s : State) (k : Nat) : State :=
  let l := ledOf s k
  match l.startSeal with
  | some q =>
    if q < l.chain.durable then withDevice (fun s =>
      let due := l.chain.due
      let s := modLedger s k fun l =>
        { l with startSeal := none, formatting := false, formatted := true, state := 2, clean := true
                 chain := { l.chain with due := [] } }
      let s := due.foldl (fun s r => assignSeal s k r) s
      leaveZeroised (ledCapacity (journalGo s k) k)) s
    else s
  | none => s

/-- Table 14.20, R495: STOP has written every record that the engine held. -/
def ledgerStopped (s : State) (k : Nat) : State :=
  let l := ledOf s k
  if l.stopping && l.jobs.isEmpty && l.chain.signing.isNone && l.chain.accepted.isEmpty && l.state != 6 then
    modLedger s k fun l => { l with state := 5, stopping := false }
  else s

/-- R502: a page of the journal is on NAND: every record that starts in it is durable. -/
def journalDurable (s : State) (k logical : Nat) (data : Bytes) : State :=
  modChain s k fun c =>
    let last := (c.recs.filter (fun e =>
      e.1 / 64 == logical / 4 && slice data (256 * (e.1 % 64)) 256 == padTo e.2 256)).foldl (fun m e => Nat.max m (e.1 + recordCount e.2)) 0
    { c with durable := Nat.max c.durable last }

/-- R510: a page of an ARCHIVE_WRITE is programmed; the request completes with the last. -/
def archivePageDone (s : State) (num i ppa : Nat) : State :=
  let n := num / 1000000
  let q := num % 1000000
  let s := modReq s n q fun r =>
    { r with todo := r.todo - 1, got := r.got.take (8 * i) ++ leBytes 8 ppa ++ r.got.drop (8 * i + 8) }
  match serviceReq s n q 0x21 with
  | some r => if r.todo = 0 then serviceDone s n q 0 0 (leBytes 8 (field r.got 0 8) ++ leBytes 4 (r.got.length / 8)) r.got else s
  | none => s

/-- The page is programmed with a job's content. -/
def programPage (s : State) (k ppa : Nat) (j : PageJob) : State :=
  let key := ppaBlock ppa
  let l := ledOf s k
  let b := blockOf l key
  let md : PageMeta :=
    { volume := j.volume, sectors := j.sectors, partition := j.partition, flags := j.flags, stripe := b.stripe.getD 0, logical := j.logical
      seq := l.seq
      luns := match b.stripe.bind (fun m => l.stripes.find? (fun t => t.num == m)) with
        | some t => ((t.parity :: t.blocks).map (fun x => 2 ^ lunIndex x)).sum
        | none => 0
      erases := b.erases, origin := if j.volume = 5 then 0 else j.origin }
  let last := ppaPage ppa + 1 == blockPages s k key
  let s := modLedger s k fun l => { l with pages := tput l.pages ppa { md := md, data := j.data }, seq := l.seq + 1 }
  let s := modBlock s k key fun b =>
    { b with next := b.next + 1, valid := b.valid + (if j.volume = 4 then 1 else 0), cls := if last then 1 else 2
             closeSeq := md.seq, checked := false }
  let s := ledCount s k 3 1
  let s := if last && j.volume ≠ 5 then modLedger s k fun l => { l with reads := l.reads ++ [(key * 4096, 0, .readBack)] } else s
  let s := match b.stripe with
    | some num => if j.volume = 5 then s else queueParity s k num (ppaPage ppa)
    | none => s
  let s := if j.volume = 1 || j.volume = 2 then journalDurable s k j.logical j.data else s
  let s := match j.src with
    | some src =>
      if j.volume = 4 then
        modLedger (modBlock s k (ppaBlock src) fun b => { b with valid := b.valid - 1 }) k
          fun l => { l with remap := tput l.remap ((originalPpa ppa { md := md }) / 4096) key }
      else s
    | none => s
  let s := match j.req with
    | some (num, i) => archivePageDone s num i (originalPpa ppa { md := md })
    | none => s
  ledgerStopped (ledgerReady (ledCapacity s k) k) k

/-- R518: a program failed: the block's pages are rebuilt from parity elsewhere, the failed page goes to a new page, and the block is retired. -/
def programFailed (s : State) (k ppa : Nat) (j : PageJob) : State :=
  let key := ppaBlock ppa
  let moved := relocateJobs (ledOf s k) key true true
  let page := if j.volume = 4 then some (ppaPage ppa) else none
  let again := if moved.isEmpty || j.volume ≠ 4 then { j with page := j.page }
    else { j with page := page, flags := j.flags.lor 1, origin := originOf { md := { volume := 4, flags := j.flags, origin := j.origin } } key
                  src := j.src }
  let s := modLedger s k fun l => { l with jobs := moved ++ [again] ++ l.jobs, seq := l.seq + 1 }
  let s := ledReport (ledHealth s k 2 1) k 0x82 2 ppa
  let s := if moved.isEmpty then s else ledReport (ledHealth s k 7 moved.length) k 0x85 2 moved.length
  let s := modLedger s k fun l =>
    { l with stripes := l.stripes.map (fun t =>
        if t.blocks.contains key then { t with blocks := t.blocks.filter (· != key) } else t) }
  retireBlock s k key

/-- NAND_PROGRAM_COMPLETE (R502, R510, R515, R516, R518): the program of a page ends. The engine programs the first queued page that may go there
(which page it takes is left open, so the command names it). -/
def execNandProgramComplete (die : Deckle) (ppa : BitVec 32) (pass : Bool) (s : State) : Host.Outcome State Fault Refusal :=
  let k := die.val
  let a := ppa.toNat
  if !canProgram s k a then .next s
  else match (ledOf s k).jobs.findIdx? (jobFits s k a) with
  | none => .next s
  | some i =>
    match (ledOf s k).jobs[i]? with
    | none => .next s
    | some j =>
      match openBlock s k (ppaBlock a) j with
      | none => .next s
      | some s =>
        let s := modLedger s k fun l => { l with jobs := l.jobs.eraseIdx i }
        .next (if pass then programPage s k a j else programFailed s k a j)

/-- TAIL_FLUSH (R502): the first record of a partial page has waited OD 0x6009 ms. -/
def execTailFlush (die : Deckle) (s : State) : Host.Outcome State Fault Refusal :=
  let k := die.val
  let l := ledOf s k
  match l.chain.tailSince with
  | some t =>
    if l.state = 2 || l.state = 3 then .next (queueTail (timeReaches s (t + 1000000 * setting s 0x6009 0)) k) else .next s
  | none => .next s

/-! ### Erase and garbage collection -/

/-- NAND_ERASE_COMPLETE (R519 to R521): an erase ends; a failure retires the block. The index sectors are rewritten when the erase count crosses a
multiple of 16 (R531). -/
def execNandEraseComplete (die : Deckle) (ppa : BitVec 32) (pass : Bool) (s : State) : Host.Outcome State Fault Refusal :=
  let k := die.val
  let key := ppaBlock ppa.toNat
  let l := ledOf s k
  if (tget l.erasing key).isNone || l.state = 6 || !dieUp s (16 + k) then .next s
  else
    let s := modLedger s k fun l => { l with erasing := tdel l.erasing key }
    if pass then
      let e := (blockOf l key).erases + 1
      let s := modLedger s k fun l => { l with pages := l.pages.filter (fun x => ppaBlock x.1 != key) }
      let s := modBlock s k key fun _ => { erases := e }
      let s := ledCount s k 5 1
      let s := if e % 16 = 0 then queueIndex s k else s
      .next (ledCapacity s k)
    else .next (ledCapacity (retireBlock (ledReport (ledHealth s k 3 1) k 0x83 2 (key * 4096)) k key) k)

/-- R522: gc_score of a volume J block. -/
def gcScore (s : State) (k key : Nat) : Nat :=
  let l := ledOf s k
  let b := blockOf l key
  let c := 4 * pslcPages s
  let v := blockValid l key
  let age := Nat.min ((l.seq - b.closeSeq) / 1024) 65535
  let r := field (mediaProfile s) 16 4
  (c - v) * (age + 16) * (r + 1 - Nat.min b.erases r) / (v + 1)

/-- R522: a closed volume J block that is in no open stripe and not being emptied already. -/
def gcCandidate (l : Ledger) (key : Nat) (b : Block) : Bool :=
  isJ l key && b.cls == 1 && b.stripe.isNone && !b.parity && !l.retired.contains key && (tget l.erasing key).isNone

/-- R519: every copy of what the block held lies in a closed block that has been read back cleanly. -/
def copiesSafe (l : Ledger) (key : Nat) : Bool :=
  (pagesIn l key).all (fun e =>
    if e.2.md.volume == 1 || e.2.md.volume == 2 then
      decide (16 * (e.2.md.logical + 4) ≤ l.chain.release) ||
        (match currentJ l e.2.md.logical with
         | some c => ppaBlock c.1 != key && (blockOf l (ppaBlock c.1)).cls == 1 && (blockOf l (ppaBlock c.1)).checked
         | none => true)
    else true)

/-- An erase of a block begins. -/
def beginErase (s : State) (k key : Nat) : State := modLedger s k fun l => { l with erasing := tput l.erasing key 0 }

/-- GARBAGE_COLLECT (R515, R519, R521, R522): the engine takes a block: one that holds nothing valid is erased; in volume J, while its free blocks are
below GC_LOW and until GC_HIGH, the block of the highest score is copied first. -/
def execGarbageCollect (die : Deckle) (ppa : BitVec 32) (s : State) : Host.Outcome State Fault Refusal :=
  let k := die.val
  let key := ppaBlock ppa.toNat
  let l := ledOf s k
  let b := blockOf l key
  let free := freeBlocks s k true
  let on := decide (free < setting s 0x600C 1) || (l.collecting && decide (free < setting s 0x600C 2))
  if !(l.state == 2 || l.state == 3) || !dieUp s (16 + k) || (targetOf s k key).isNone || l.retired.contains key ||
      (tget l.erasing key).isSome then .next s
  else if b.cls = 4 then .next (beginErase s k key)
  else if !isJ l key then
    if b.cls = 1 && b.valid = 0 && !b.parity && b.stripe.isNone && (tget l.remap key).isNone then .next (beginErase s k key) else .next s
  else if !on then .next (modLedger s k fun l => { l with collecting := false })
  else
    let s := modLedger s k fun l => { l with collecting := true }
    if !gcCandidate l key b then .next s
    else if blockValid l key = 0 then (if copiesSafe l key then .next (beginErase s k key) else .next s)
    else
      let score := gcScore s k key
      let best := (l.blocks.filter (fun e => gcCandidate l e.1 e.2)).all (fun e =>
        let x := gcScore s k e.1
        decide (x < score) || (x == score && decide (key ≤ e.1)))
      if best && 0 < score && !l.jobs.any (fun j => match j.src with | some p => ppaBlock p == key | none => false) then
        .next (modLedger s k fun l => { l with jobs := l.jobs ++ relocateJobs l key false false })
      else .next s

/-! ### Reads and patrol -/

/-- Bits corrected by a read are counted and logged. -/
def noteCorrected (s : State) (k ppa bits : Nat) : State :=
  if bits = 0 then s else ledReport (ledHealth s k 0 bits) k 0x80 1 ppa

/-- R517: the read-back of a page of a closed block has ended: the next page is read, the block counts as checked, or it is relocated. -/
def readBack (s : State) (k ppa bits : Nat) (good : Bool) : State :=
  let key := ppaBlock ppa
  if !good || setting s 0x600B 0 < bits then relocateBlock s k key
  else if ppaPage ppa + 1 < (blockOf (ledOf s k) key).next then
    modLedger s k fun l => { l with reads := l.reads ++ [(ppa + 1, 0, .readBack)] }
  else
    let s := modBlock s k key fun b => { b with checked := true }
    match (blockOf (ledOf s k) key).stripe with
    | some num => releaseParity s k num
    | none => s

/-- A read that a request waits for has ended. -/
def readDone (s : State) (k ppa : Nat) (what : ReadFor) (bits : Nat) (good : Bool) : State :=
  match what with
  | .archive num pos =>
    let n := num / 1000000
    (match serviceReq s n (num % 1000000) 0x22 with
     | some r =>
       if r.got.length / 16384 = pos then
         if good then
           archiveReadOn 257 s k n { r with got := r.got ++ padTo (((tget (ledOf s k).pages ppa).map (·.data)).getD []) 16384 }
         else serviceDone s n r.num 0x0305 6 (leBytes 8 0 ++ leBytes 4 pos) r.got
       else s
     | none => s)
  | .journal num =>
    let n := num / 1000000
    let s := modReq s n (num % 1000000) fun r => { r with todo := r.todo - 1 }
    (match serviceReq s n (num % 1000000) 0x20 with
     | some r => if r.todo = 0 then journalAnswer s n r else s
     | none => s)
  | .readBack => readBack s k ppa bits good
  | .patrol => s
  | .scan => s

/-- R489: a read for a LUN whose erase is in progress suspends it, at most eight times; without erase suspend it waits. -/
def suspendErase (s : State) (k ppa : Nat) : Option State :=
  match (ledOf s k).erasing.find? (fun e => blockLun e.1 == blockLun (ppaBlock ppa)) with
  | none => some s
  | some (key, c) =>
    if eraseSuspends s && c < 8 then some (modLedger s k fun l => { l with erasing := tput l.erasing key (c + 1) }) else none

/-- NAND_READ_COMPLETE (R487, R489, R509, R512, R517): a page read that the engine awaits ends at a read-retry level; one that does not decode is
tried at the next level, and is uncorrectable after the last. -/
def execNandReadComplete (die : Deckle) (ppa : BitVec 32) (level : BitVec 4) (bits : BitVec 16) (good : Bool) (s : State) :
    Host.Outcome State Fault Refusal :=
  let k := die.val
  let a := ppa.toNat
  let l := ledOf s k
  if l.state = 6 || !dieUp s (16 + k) || l.down.contains (ppaChan a % 2) then .next s
  else match l.reads.find? (fun e => e.1 == a && e.2.1 == level.toNat) with
  | none => .next s
  | some e =>
    match suspendErase s k a with
    | none => .next s
    | some s =>
      let s := ledCount s k 4 1
      let rest := dropFirst (fun x => x == e) (ledOf s k).reads
      if good then
        let s := modLedger s k fun l => { l with reads := rest }
        let s := match tget (ledOf s k).pages a with
          | some g => modLedger s k fun l => { l with pages := tput l.pages a { g with bits := bits.toNat, level := level.toNat } }
          | none => s
        .next (readDone (noteCorrected s k a bits.toNat) k a e.2.2 bits.toNat true)
      else if level.toNat < retryLevels s then
        .next (modLedger s k fun l => { l with reads := rest ++ [(a, level.toNat + 1, e.2.2)] })
      else
        let s := modLedger s k fun l => { l with reads := rest }
        .next (readDone (pageUncorrectable s k a) k a e.2.2 0 false)

/-- PATROL_READ (R524): patrol reads a programmed page; a page that many bits or retry levels were needed for has its block relocated. -/
def execPatrolRead (die : Deckle) (ppa : BitVec 32) (level : BitVec 4) (bits : BitVec 16) (good : Bool) (s : State) :
    Host.Outcome State Fault Refusal :=
  let k := die.val
  let a := ppa.toNat
  let l := ledOf s k
  if !(l.state == 2 || l.state == 3) || !dieUp s (16 + k) || (tget l.pages a).isNone || l.retired.contains (ppaBlock a) ||
      l.down.contains (ppaChan a % 2) then .next s
  else
    let s := ledCount (ledCount s k 6 1) k 4 1
    let s := modLedger s k fun l => { l with patrolled := if l.patrolled.contains a then l.patrolled else l.patrolled ++ [a] }
    let s := if good then noteCorrected s k a bits.toNat else pageUncorrectable s k a
    let s := if good && (setting s 0x600B 0 < bits.toNat || 2 < level.toNat) then relocateBlock s k (ppaBlock a) else s
    let l := ledOf s k
    .next (if l.pages.all (fun e => l.patrolled.contains e.1) then
      modLedger s k fun l => { l with patrolled := [], health := lmod l.health 8 (fun _ => s.now) }
    else s)

/-! ### Scans (R526 to R531) -/

/-- R530: the chain as the scan finds it: records on NAND, up to the first from the last written seal onward that is missing or lost. -/
def scannedChain (c : Chain) : Chain :=
  let onNand := c.recs.filter (fun e => decide (e.1 < c.durable))
  let lastS := ((onNand.filter (fun e => field e.2 0 1 == 2 && !recordLost c e.1)).getLast?.map (·.1)).getD c.release
  let stop := ((c.lost.map (·.1)).filter (fun a => decide (lastS ≤ a))).foldl Nat.min c.durable
  let recs := onNand.filter (fun e => decide (e.1 < stop))
  let last := recs.getLast?
  { next := stop, chained := stop, durable := stop, release := c.release, recs := recs, lost := c.lost.filter (fun e => decide (e.1 < stop))
    lastSeal := ((recs.filter (fun e => field e.2 0 1 == 2)).getLast?.map (·.1)).getD 0
    lastHash := match last with | some e => sha256 e.2 | none => []
    requests := (recs.reverse.takeWhile (fun e => field e.2 0 1 != 2)).countP (fun e => field e.2 0 1 == 1)
    due := c.due }

/-- VOLUME_J_SCAN_END (R527, R530): the chain ends at its first number without a good record; a RECOVERY seal is built there, with UNCLEAN unless a
flush had completed. -/
def execVolumeJScanEnd (die : Deckle) (s : State) : Host.Outcome State Fault Refusal :=
  let k := die.val
  let l := ledOf s k
  if l.state ≠ 1 || l.startSeal.isSome || !dieUp s (16 + k) then .next s
  else
    let s := modLedger s k fun l => { l with chain := scannedChain l.chain }
    let q := (chainOf s k).chained
    let s := if l.clean then s else ledReport s k 0x8D 2 q
    let s := if 0 < l.flushLate then ledReport (modLedger s k fun l => { l with flushLate := 0 }) k 0x91 2 l.flushLate else s
    let r := sealRecord s k q (4 + (if l.clean then 0 else 16)) false
    .next (modLedger s k fun l =>
      { l with startSeal := some q, scanA := true, chain := { l.chain with signing := some (q, r), next := q + 1 } })

/-- R531: volume A's valid counts and remaps from metadata. -/
def scannedBlocks (l : Ledger) : Table Block :=
  l.blocks.map (fun e =>
    if isJ l e.1 || e.2.parity || l.retired.contains e.1 then e
    else (e.1, { e.2 with valid := ((pagesIn l e.1).filter (fun p => 0 < validSectors l p.1 p.2)).length }))

def scannedRemap (l : Ledger) : Table Nat :=
  l.pages.foldl (fun t e =>
    if e.2.md.volume == 4 && e.2.md.flags % 2 == 1 && !e.2.torn then tput t (originalPpa e.1 e.2 / 4096) (ppaBlock e.1) else t) []

/-- VOLUME_A_SCAN_END (R527, R531). -/
def execVolumeAScanEnd (die : Deckle) (s : State) : Host.Outcome State Fault Refusal :=
  let k := die.val
  let l := ledOf s k
  if l.scanA && (l.state == 2 || l.state == 3) && dieUp s (16 + k) then
    .next (modLedger s k fun l => { l with scanA := false, blocks := scannedBlocks l, remap := scannedRemap l })
  else .next s

/-- R521, R526, R527, R529: an engine after POR_N: records that were not on NAND are gone, blocks are classed, and a formatted engine scans. A warm
reset (clean) leaves no UNCLEAN (R621). -/
def ledgerPor (s : State) (k : Nat) (clean : Bool) : State :=
  let l := ledOf s k
  let formatted := l.formatted && !l.formatting
  let torn := l.erasing.map (·.1)
  let s := modLedger s k fun l =>
    { formatted := formatted, seq := l.seq, layout := l.layout, goodJ := l.goodJ, goodA := l.goodA, retired := l.retired, down := l.down
      pages := l.pages.filter (fun e => !torn.contains (ppaBlock e.1))
      blocks := l.blocks.map (fun e => if torn.contains e.1 then (e.1, { e.2 with cls := 4, next := 0 }) else e)
      stripes := l.stripes, nextStripe := l.nextStripe, remap := l.remap, flushLate := l.flushLate, health := l.health, report := l.report
      clean := clean || l.state == 5 || (l.state == 6 && l.clean) || (l.state == 1 && l.clean && clean)
      unused := l.unused
      chain :=
        { recs := l.chain.recs.filter (fun e => decide (e.1 < l.chain.durable)), durable := l.chain.durable, release := l.chain.release
          lost := l.chain.lost, chained := l.chain.durable, next := l.chain.durable }
      state := if l.state = 7 then 7 else if formatted then 1 else 0 }
  torn.foldl (fun s key => ledReport (ledHealth s k 5 1) k 0x86 1 (key * 4096)) s

/-- R485, R486: the targets that do not keep the part's limits, or that are not those of the profile in force, are found and logged. -/
def ledgerMedia (s : State) (k : Nat) : State :=
  let bad := (s.led.fitted.filter (fun t =>
    t.chan / 2 == k && (!targetFits t || (!(valueInForce s 0x6001 0).isEmpty && padTo t.id 8 != slice (mediaProfile s) 0 8)))).map
      (fun t => 4 * (t.chan % 2) + t.ce)
  let s := modLedger s k fun l => { l with unused := bad }
  ((ledOf s k).unused).foldl (fun s u => ledReport s k 0x8F 2 ((2 * k + u / 4) + u % 4 * 8)) s

/-! ### Health (R532, R533) -/

/-- R532: 100 × (good − F) div (good at format − F), 0 when negative. -/
def sparePct (good atFormat f : Nat) : Nat := if atFormat ≤ f then 0 else 100 * (good - f) / (atFormat - f)

/-- Wear of a volume's blocks in percent of its rated cycles: mean and maximum. -/
def wearOf (s : State) (k : Nat) (j : Bool) : Nat × Nat :=
  let l := ledOf s k
  let rated := Nat.max (field (mediaProfile s) (if j then 16 else 12) 4) 1
  let e := (l.blocks.filter (fun b => isJ l b.1 == j)).map (·.2.erases)
  (100 * e.sum / (Nat.max (goodBlocks s k j) 1 * rated), Nat.min 255 (100 * e.foldl Nat.max 0 / rated))

/-- Table 14.13. -/
def healthBytes (s : State) (k : Nat) : Bytes :=
  let l := ledOf s k
  let fj := l.layout.2.2 + 8 + 2 * l.layout.2.1
  let fa := 2 * l.layout.2.1 + 64
  let h := fun i : Nat => l.health.getD i 0
  leBytes 1 (sparePct (goodBlocks s k true) l.goodJ fj) ++ leBytes 1 (sparePct (goodBlocks s k false) l.goodA fa)
    ++ leBytes 1 (wearOf s k true).1 ++ leBytes 1 (wearOf s k true).2 ++ leBytes 1 (wearOf s k false).1 ++ leBytes 1 (wearOf s k false).2
    ++ leBytes 1 (fillJ s k) ++ leBytes 1 0 ++ leBytes 8 (h 0) ++ leBytes 8 (h 1) ++ leBytes 4 (h 2) ++ leBytes 4 (h 3) ++ leBytes 4 (h 4)
    ++ leBytes 4 (h 5) ++ leBytes 4 (h 6) ++ leBytes 4 (h 7) ++ leBytes 8 (h 8) ++ zeros 8

/-- HEALTH_UPDATE (R532): the health record is updated; SPARE_LOW is logged when a SPARE value first falls below 10. -/
def execHealthUpdate (die : Deckle) (s : State) : Host.Outcome State Fault Refusal :=
  let k := die.val
  let l := ledOf s k
  if !dieUp s (16 + k) || !l.formatted || l.state = 6 then .next s
  else
    let r := healthBytes s k
    let s := modLedger s k fun l => { l with report := r }
    .next ((List.range 2).foldl (fun s v =>
      if field r v 1 < 10 && !(ledOf s k).spareLow.contains v then
        ledReport (modLedger s k fun l => { l with spareLow := l.spareLow ++ [v] }) k 0x90 1 v
      else s) s)

/-- R533: one reading of a source in °C: its bin, and its maximum. -/
def addReading (s : State) (src : Nat) (c : Int) : State :=
  let bin := if c < -40 then 0 else Nat.min 32 ((c + 40) / 5).toNat
  modLed s fun v =>
    { v with history := tmod v.history src {} (fun h =>
        { h with
          bins := tinc h.bins bin 1
          max := if h.bins.isEmpty || h.max < c then c else h.max
          maxAt := if h.bins.isEmpty || h.max < c then s.now else h.maxAt }) }

/-- TEMPERATURE_MINUTE (R533): the readings of the dies that this engine's deckle reports (its own and, for DN, the vats), and of its NAND targets.
Histories are kept from the first format onward. -/
def execTemperatureMinute (die : Deckle) (dies nand : List Int) (s : State) : Host.Outcome State Fault Refusal :=
  let k := die.val
  if (!(ledOf s k).formatted && (tget s.led.history (16 + k)).isNone) || !dieUp s (16 + k) then .next s
  else
    let srcs := if k = 0 then List.range 17 else [16 + k]
    let s := (srcs.zip dies).foldl (fun s e => addReading s e.1 e.2) s
    .next (nand.foldl (fun s c => addReading s (20 + k) c) s)

/-! ### Channels, format, STOP and START, release -/

/-- CHANNEL_FAILED (R507): an ONFI channel goes out of service; with none left the engine is DOWN. -/
def execChannelFailed (chan : ChanId) (s : State) : Host.Outcome State Fault Refusal :=
  let k := chan.val / 2
  let l := ledOf s k
  if l.down.contains (chan.val % 2) || !dieUp s (16 + k) then .next s
  else .next (withDevice (fun s =>
    let s := modLedger s k fun l => { l with down := l.down ++ [chan.val % 2] }
    let s := ledReport s k 0x8E 2 chan.val
    if (ledOf s k).down.length = 2 && (l.state = 1 || l.state = 2 || l.state = 3) then
      ledReport (modLedger s k fun l => { l with downFrom := l.state, state := 4 }) k 0x8A 2 k
    else s) s)

/-- CHANNEL_RETURN (R507): the channel serves again, and a DOWN engine goes on. -/
def execChannelReturn (chan : ChanId) (s : State) : Host.Outcome State Fault Refusal :=
  let k := chan.val / 2
  let l := ledOf s k
  if !l.down.contains (chan.val % 2) || !dieUp s (16 + k) then .next s
  else .next (withDevice (fun s =>
    let s := modLedger s k fun l => { l with down := l.down.filter (· != chan.val % 2) }
    if l.state = 4 then
      let s := modLedger s k fun l => { l with state := l.downFrom }
      ledCapacity (journalGo s k) k
    else s) s)

/-- R494: the engine may be formatted: it is UNFORMATTED, ZEROISED or STOPPED, or a Service session asks. A FLUSHED or scanning engine, or one that is
formatting, is not. -/
def formatOk (s : State) (k : Nat) (service : Bool) : Bool :=
  let l := ledOf s k
  !l.formatting && l.state != 6 && l.state != 1 && (l.state == 0 || l.state == 7 || l.state == 5 || service)

/-- R591: the die holds a usable ledger data key: one wrapped under its present ZEROISE_COUNT. -/
def keyUsable (s : State) (k : Nat) : Bool := tget s.sec.ledgerKey k == some (tgetD s.sec.zeroCount k 0)

/-- R577, R591: a format that must make a new key needs the generator. -/
def formatKeyOk (s : State) (k : Nat) : Bool := engineUp s k && (keyUsable s k || engineRandom s k)

/-- R494: the die's blocks are erased, the layout in force is taken, and the chain starts with a FORMAT seal at number 0. The records that the old
chain still awaited are discarded with it. -/
def ledgerFormat (s : State) (k : Nat) : State :=
  let l := ledOf s k
  let v := padTo (valueInForce s 0x6002 (k + 1)) 16
  let layout := (field v 0 2, field v 2 1, field v 4 2)
  let s := modLedger s k fun _ =>
    { formatting := true, layout := layout, retired := l.retired, down := l.down, unused := l.unused, startSeal := some 0
      blocks := l.retired.map (fun key => (key, { cls := 5 })), health := [0, 0, 0, 0, 0, 0, 0, 0, 0], counts := l.counts, clean := true }
  let s := modSec s fun v => { v with ledgerKey := tput v.ledgerKey k (tgetD v.zeroCount k 0) }
  let s := modLedger s k fun x => { x with goodJ := goodBlocks s k true, goodA := goodBlocks s k false }
  let s := modAdm s k fun a =>
    { a with ctxs := a.ctxs.map (fun e => if e.2.state != 0 && !e.2.record then (e.1, { e.2 with unchained := true, journal := false }) else e) }
  let r := sealRecord s k 0 8 false
  modLedger s k fun x => { x with chain := { x.chain with signing := some (0, r), next := 1 } }

/-- R495: STOP: nothing new is accepted; what is held is chained and written. -/
def ledgerStop (s : State) (k : Nat) : State :=
  let s := modLedger s k fun l => { l with stopping := true }
  ledgerStopped (queueTail (chainAdvance s k) k) k

def stopOk (s : State) (k : Nat) : Bool := let l := ledOf s k; (l.state == 2 || l.state == 3 || l.state == 4) && !l.stopping

/-- R495: START of a STOPPED engine. -/
def ledgerStart (s : State) (k : Nat) : State := ledCapacity (journalGo (modLedger s k fun l => { l with state := 2 }) k) k

/-- R505: a value that JOURNAL_RELEASE takes: a seal of the chain, written to NAND, above the release point. -/
def releaseOk (s : State) (n q : Nat) : Bool :=
  let c := chainOf s n
  match tget c.recs q with
  | some r => field r 0 1 == 2 && decide (q < c.durable) && decide (c.release < q)
  | none => false

/-- R505: every number below the seal is reclaimable, and the seal is the first retained record. -/
def journalRelease (s : State) (n q : Nat) : State :=
  let s := modChain s n fun c =>
    { c with release := q, recs := c.recs.filter (fun e => decide (q ≤ e.1)), lost := c.lost.filter (fun e => decide (q ≤ e.1 + e.2)) }
  ledCapacity (queueIndex s n) n

end Sys2Proof.Machine
end

