-- ==== Sys2Proof/Machine/Mxi.lean ====
section
/-!
DEFINITION. Machine/Mxi.lean: Mirnex images (R585 to R589): layout, checks, decryption, and the bytes that each slice of a vat receives.
-/
namespace Sys2Proof.Machine

/-- Table 16.3: header fields. -/
def mxiWraps (m : Bytes) : Nat := field m 7 1
def mxiSections (m : Bytes) : Nat := field m 8 2
def mxiTotal (m : Bytes) : Nat := field m 16 8
def mxiPayload (m : Bytes) : Nat := field m 24 8
def mxiVersion (m : Bytes) : Nat := field m 36 4
def mxiNonce (m : Bytes) : Bytes := slice m 40 12
def mxiSigner (m : Bytes) : Bytes := slice m 52 97

/-- R585: where the ciphertext begins. -/
def mxiBody (m : Bytes) : Nat := 256 + 160 * mxiWraps m + 80 * mxiSections m

/-- Tables 16.4 and 16.6: wrap entry i and section entry i. -/
def mxiWrap (m : Bytes) (i : Nat) : Bytes := slice m (256 + 160 * i) 160
def mxiSection (m : Bytes) (i : Nat) : Bytes := slice m (256 + 160 * mxiWraps m + 80 * i) 80
def mxiWrapList (m : Bytes) : List Bytes := (List.range (mxiWraps m)).map (mxiWrap m)
def mxiSectionList (m : Bytes) : List Bytes := (List.range (mxiSections m)).map (mxiSection m)

/-- Table 16.6: section fields. -/
def secTarget (e : Bytes) : Nat := field e 0 1
def secOffset (e : Bytes) : Nat := field e 4 4
def secLength (e : Bytes) : Nat := field e 8 4
def secSlices (e : Bytes) : List Nat := (List.range 64).filter (fun k => bitAt (field e 16 8) k)
def secPayload (e : Bytes) : Nat := field e 24 8
def secDigest (e : Bytes) : Bytes := slice e 32 48

/-- R585: the image's digest. -/
def mxiDigest (m : Bytes) : Bytes := sha384 (m.take (mxiTotal m - 96))

/-- Table 16.7, 0x01: MAGIC, FORMAT, counts, lengths and reserved bytes. -/
def mxiFormed (m : Bytes) : Bool :=
  field m 0 4 == 0x3149584D && field m 4 2 == 1 && field m 6 1 == 0 && decide (1 ≤ mxiWraps m) && decide (mxiWraps m ≤ 16) &&
  decide (1 ≤ mxiSections m) && decide (mxiSections m ≤ 256) && allZero (slice m 10 6) && allZero (slice m 149 107) &&
  decide (1 ≤ mxiPayload m) && decide (mxiPayload m ≤ 2 ^ 36) && mxiTotal m == mxiBody m + mxiPayload m + 112 && m.length == mxiTotal m &&
  (mxiWrapList m).all (fun w => allZero (slice w 113 7)) &&
  (mxiSectionList m).all (fun e => allZero (slice e 1 3) && allZero (slice e 12 4))

/-- R587: the content key, from the wrap entry that carries this serial. -/
def mxiContentKey (w : Bytes) : Option Bytes := agreedUnwrap modelKey (slice w 16 97) (ascii "PQ20-MXI") [] (slice w 120 40)

/-- R586: the decrypted payload. -/
def mxiOpen (key m : Bytes) : Option Bytes :=
  gcmOpen key (mxiNonce m) (m.take (mxiBody m)) (slice m (mxiBody m) (mxiPayload m)) (slice m (mxiBody m + mxiPayload m) 16)

/-- R586, Table 16.7: the DETAIL of the first check that fails, or the image with its payload decrypted. room is the staging area's size. -/
def mxiVerify (m : Bytes) (room : Nat) (signers : List Bytes) (minVersion bank : Nat) : Nat ⊕ Bytes :=
  if !mxiFormed m then .inl 1
  else if room < m.length then .inl 8
  else if !(signers.any (fun k => k == sha384 (mxiSigner m) && !allZero k)) then .inl 2
  else if !ecdsaVerify (mxiSigner m) (mxiDigest m) (m.drop (mxiTotal m - 96)) then .inl 3
  else if mxiVersion m < minVersion then .inl 9
  else match (mxiWrapList m).find? (fun w => slice w 0 16 == serialBytes) with
    | none => .inl 4
    | some w => match mxiContentKey w with
      | none => .inl 5
      | some key => match mxiOpen key m with
        | none => .inl 6
        | some plain =>
          if (mxiSectionList m).any (fun e =>
            decide (mxiPayload m < secPayload e + (secSlices e).length * secLength e) || decide (bank < secOffset e + secLength e)) then .inl 7
          else .inr (m.take (mxiBody m) ++ plain ++ m.drop (mxiBody m + mxiPayload m))

/-- R589: the section loads into the vat of this ordinal in the partition's run. -/
def secFor (e : Bytes) (ordinal : Nat) : Bool := secTarget e == 0xFF || secTarget e == ordinal

/-- R589: what a vat's slices receive from a decrypted image: (slice, offset in the bank, bytes), section by section. -/
def mxiLoads (m : Bytes) (ordinal : Nat) : List (Nat × Nat × Bytes) :=
  ((mxiSectionList m).filter (fun e => secFor e ordinal)).flatMap fun e =>
    (secSlices e).zipIdx.map (fun k => (k.1, secOffset e, slice m (mxiBody m + secPayload e + k.2 * secLength e) (secLength e)))

/-- R589: a section's bytes as positions of the plaintext. -/
def secRange (e : Bytes) : Nat × Nat := (secPayload e, (secSlices e).length * secLength e)

end Sys2Proof.Machine
end

