-- ==== Sys2Proof/Machine/Model.lean ====
section
/-!
DEFINITION. Machine/Model.lean: model slots and their updates (R469 to R477): LOAD_MODEL from its request to its completion, MODEL_CANCEL, and the
weight banks of the vats.
-/
namespace Sys2Proof.Machine

/-! ### Staging areas -/

/-- Table 13.5: the two halves of a staging area, and the bytes of a half. -/
def areaFirst (rec : Bytes) (area : Nat) : Nat := field rec (16 * area) 8
def areaSecond (rec : Bytes) (area : Nat) : Nat := field rec (16 * area + 8) 8
def areaHalf (rec : Bytes) : Nat := field rec 32 4 * 4096

/-- R473: bytes that a staging area holds (DEDUCED for one half, notes/assumptions/38.md). -/
def areaRoom (rec : Bytes) (area : Nat) : Nat := if areaSecond rec area = 0 then areaHalf rec else 2 * areaHalf rec

/-- R473: an image written to a staging area. -/
def stageImage (s : State) (rec : Bytes) (area : Nat) (m : Bytes) : State :=
  let h := if areaSecond rec area = 0 then m.length else areaHalf rec
  let s := writeClean s (areaFirst rec area) (m.take h)
  if (m.drop h).isEmpty then s else writeClean s (areaSecond rec area) (m.drop h)

/-- An image of n bytes read back from a staging area. -/
def stagedImage (s : State) (rec : Bytes) (area n : Nat) : Bytes :=
  let h := if areaSecond rec area = 0 then n else areaHalf rec
  readMem s (areaFirst rec area) (Nat.min n h) ++ readMem s (areaSecond rec area) (n - h)

/-- The image that holds a slot's generation in force, decrypted in its staging area. -/
def imageInForce (s : State) (part slot : Nat) : Option Bytes :=
  match tget s.part.slots (slotKey part slot) with
  | some x =>
    if x.digest.isEmpty then none
    else
      let sr := slotRecord s.ep.cur part slot
      some (stagedImage s sr x.area (mxiTotal (stagedImage s sr x.area 256)))
  | none => none

/-! ### Slots and weight banks -/

def slotOf (s : State) (part slot : Nat) : Slot := tgetD s.part.slots (slotKey part slot) {}

def modSlot (s : State) (part slot : Nat) (f : Slot → Slot) : State :=
  modPart s fun p => { p with slots := tmod p.slots (slotKey part slot) {} f }

def modVatDie (s : State) (d : Nat) (f : VatDie → VatDie) : State := modPart s fun p => { p with vats := tmod p.vats d {} f }

/-- R474: the vats of a partition that take part in an update. -/
def updateVats (s : State) (part : Nat) : List Nat := (partVats s.cfg part).filter (dieUp s)

/-- R470: the bank of vat d that is not a slot's current one. -/
def otherBank (s : State) (d part slot : Nat) : Nat :=
  match bankHolding s d slot (slotOf s part slot).generation.toNat with
  | some b => 1 - b
  | none => 0

/-- A generation that a context of the partition or an incomplete batch of the vat binds. -/
def generationBound (s : State) (part slot gen d : Nat) : Bool :=
  (List.range 4).any (fun n => (admOf s n).ctxs.any (fun e =>
    e.2.state != 0 && e.2.partition == part && e.2.slot == slot && e.2.generation == gen)) ||
  (vatOf s d).batches.any (fun b => !b.done && b.slot == slot && b.generation == gen)

/-- Bytes of weights go to a vat's bank (R589). -/
def loadBank (s : State) (d part bank : Nat) (loads : List (Nat × Nat × Bytes)) : State :=
  loads.foldl (fun s e => writeClean s (d * 2 ^ 27 + e.1 * 2 ^ 21 + bankOffset s part bank + e.2.1) e.2.2) s

/-- R474, R589: the digests of the sections that vat d holds in a bank match the image's. -/
def sectionsMatch (s : State) (d part bank : Nat) (m : Bytes) : Bool :=
  ((mxiSectionList m).filter (fun e => secFor e (d - partFirst (partRecord s.cfg part)))).all fun e =>
    sha384 ((secSlices e).flatMap (fun k =>
      readMem s (d * 2 ^ 27 + k * 2 ^ 21 + bankOffset s part bank + secOffset e) (secLength e))) == secDigest e

/-! ### The course of an update -/

/-- The slots of a partition, lowest first. -/
def partSlots : List Nat := [0, 1, 2, 3]

def partUpdating (s : State) (part : Nat) : Bool := partSlots.any (fun k => (slotOf s part k).running.isSome)

/-- R473: a PENDING update of a slot without a RUNNING one begins its fetch, into the area that does not hold the generation in force. -/
def startFetch (s : State) (part slot : Nat) : State :=
  let x := slotOf s part slot
  match x.pending, x.running with
  | some u, none =>
    if u.phase = 0 then
      modSlot s part slot fun y => { y with pending := some { u with phase := 1, area := if x.digest.isEmpty then 0 else 1 - x.area } }
    else s
  | _, _ => s

/-- R473: a verified update becomes RUNNING where no other update of its partition is (the lowest slot first: DESIGN CHOICE,
notes/assumptions/39.md). -/
def startRunning (s : State) (part : Nat) : State :=
  if partUpdating s part then s
  else match partSlots.find? (fun k => match (slotOf s part k).pending with | some u => u.phase == 3 | none => false) with
    | none => s
    | some k => modSlot s part k fun y => { y with running := y.pending, pending := none }

/-- An update has ended: the next of the partition goes on. -/
def updatesGo (s : State) (part : Nat) : State := startRunning (partSlots.foldl (fun s k => startFetch s part k) s) part

/-- R471, R469, R475: the slot's PENDING update ends with a status. -/
def endPending (s : State) (part slot status detail : Nat) : State :=
  match (slotOf s part slot).pending with
  | none => s
  | some u => serviceDone (modSlot s part slot fun y => { y with pending := none }) u.port u.num status detail []

/-- R475, R476: the slot's RUNNING update ends unflipped: its loading banks are discarded, and the generation in force is unchanged. -/
def cancelRunning (s : State) (part slot detail : Nat) : State :=
  match (slotOf s part slot).running with
  | none => s
  | some u =>
    let s := (List.range 16).foldl (fun s d =>
      if u.loaded.contains d then
        modVatDie s d fun v => { v with banks := tdel v.banks (2 * slot + otherBank s d part slot) }
      else s) s
    let s := modSlot s part slot fun y => { y with running := none }
    updatesGo (serviceDone s u.port u.num 0x0302 detail []) part

/-- R472: a LOAD_MODEL or MODEL_CANCEL names a slot that exists. -/
def slotNamed (s : State) (r : Request) : Bool := decide (r.slot < 4) && slotEn (slotRecord s.ep.cur r.partition r.slot)

/-- LOAD_MODEL (R471 to R473): the request becomes its slot's PENDING update. -/
def execLoadModel (port : PortId) (req : Nat) (s : State) : Host.Outcome State Fault Refusal :=
  let n := port.val
  match serviceReq s n req 0x10 with
  | none => .next s
  | some r =>
    if r.started then .next s
    else if !slotNamed s r then .next (serviceDone s n req 0x0307 0 [])
    else
      let s := modReq s n req fun x => { x with started := true }
      let s := endPending s r.partition r.slot 0x0301 0
      let s := modSlot s r.partition r.slot fun y => { y with pending := some { port := n, num := req, len := descInLen r.desc } }
      .next (startFetch s r.partition r.slot)

/-- MODEL_CANCEL (R476). -/
def execModelCancel (port : PortId) (req : Nat) (s : State) : Host.Outcome State Fault Refusal :=
  let n := port.val
  match serviceReq s n req 0x11 with
  | none => .next s
  | some r =>
    if !slotNamed s r then .next (serviceDone s n req 0x0307 0 [])
    else match (slotOf s r.partition r.slot).running with
      | none => .next (serviceDone s n req 0x0304 0 [])
      | some u =>
        if u.flipped then .next (serviceDone s n req 0x0304 0 [])
        else .next (serviceDone (cancelRunning s r.partition r.slot 0) n req 0 0 [])

/-- R588: the signers that partition p trusts. -/
def modelSigners (s : State) (part : Nat) : List Bytes := (List.range 4).map (fun k => valueInForce s (0x8020 + part) (k + 1))

/-- IMAGE_FETCH_DONE (R473, R319, R321, R586, R588): the image of a PENDING update has come, from the host or from the port's staging window. It is
staged, and its verification starts under the values in force. -/
def execImageFetchDone (part : PartId) (slot : ModelSlot) (err : TlpErr) (data : Bytes) (s : State) : Host.Outcome State Fault Refusal :=
  let p := part.val
  let k := slot.val
  match (slotOf s p k).pending with
  | none => .next s
  | some u =>
    match reqOf s u.port u.num with
    | none => .next s
    | some r =>
      if u.phase ≠ 1 then .next s
      else if !descStaged r.desc && err ≠ .good then
        .next (endPending (tlpFault s u.port p err (some (descInput r.desc))) p k 0x0105 0)
      else
        let m := if descStaged r.desc then memRead (portOf s u.port).staging (descInput r.desc) u.len else data
        if m.length ≠ u.len then .next s
        else if descCrcValid r.desc && crc32c m ≠ descCrc r.desc then
          let s := report (portFault s u.port 0)
            { cause := 0x15, cls := 2, unit := 0x11, source := portFrontTile u.port, partition := some p }
          .next (endPending s p k 0x0104 0)
        else
          let sr := slotRecord s.ep.cur p k
          let room := areaRoom sr u.area
          let verdict := mxiVerify m room (modelSigners s p) (setting s (0x8060 + p) (k + 1)) (bankSize s p)
          let u := match verdict with
            | .inl d => { u with phase := 2, reject := d }
            | .inr plain => { u with phase := 2, reject := 0, plain := plain, digest := mxiDigest m }
          let s := if m.length ≤ room then stageImage s sr u.area m else s
          .next (modSlot s p k fun y => { y with pending := some u })

/-- IMAGE_VERIFIED (R473, R586): the security engine of the port's die ends its verification. -/
def execImageVerified (part : PartId) (slot : ModelSlot) (s : State) : Host.Outcome State Fault Refusal :=
  let p := part.val
  let k := slot.val
  match (slotOf s p k).pending with
  | none => .next s
  | some u =>
    if u.phase ≠ 2 || !engineUp s u.port then .next s
    else if u.reject ≠ 0 then
      let s := modSec s fun x => { x with counts := bump x.counts 1 }
      .next (endPending (secReport s u.port 0xC1 2 u.reject) p k 0x0303 u.reject)
    else
      let s := modSec s fun x => { x with counts := bump x.counts 0 }
      let s := stageImage s (slotRecord s.ep.cur p k) u.area u.plain
      let s := modSlot s p k fun y => { y with pending := some { u with phase := 3, plain := [] } }
      .next (startRunning s p)

/-- R474: the running image, decrypted in its staging area. -/
def runningImage (s : State) (part slot : Nat) (u : Update) : Bytes := stagedImage s (slotRecord s.ep.cur part slot) u.area u.len

/-- R449, R474, R589: section bytes go to the slot's group, each at its position in the plaintext (DEDUCED, notes/assumptions/40.md). -/
def sendSections (s : State) (part slot : Nat) (m : Bytes) (es : List Bytes) : State :=
  let g := field (slotRecord s.ep.cur part slot) 36 1 % 64
  es.foldl (fun s e =>
    let (off, n) := secRange e
    sendMcast s (mgmtTile s.mgmtDie) (.endpoint s.mgmtDie 0x14) part none g off (slice m (mxiBody m + off) n) false) s

/-- R474 step 3: the flip tick is chosen, at least 20 µs ahead. -/
def chooseFlip (s : State) (part slot ahead : Nat) : State :=
  modSlot s part slot fun y => { y with running := y.running.map (fun u => { u with flipAt := some (s.now + 20000 + ahead) }) }

/-- UPDATE_SECTIONS_SEND (R474 steps 1 and 2): no context or batch binds what the loading banks hold, so the sections are sent. -/
def execUpdateSectionsSend (part : PartId) (slot : ModelSlot) (s : State) : Host.Outcome State Fault Refusal :=
  let p := part.val
  let k := slot.val
  match (slotOf s p k).running with
  | none => .next s
  | some u =>
    let busy := (updateVats s p).any (fun d =>
      match tget (tgetD s.part.vats d {}).banks (2 * k + otherBank s d p k) with
      | some gen => generationBound s p k gen d
      | none => false)
    if u.sent || busy then .next s
    else
      let s := (updateVats s p).foldl (fun s d =>
        modVatDie s d fun v => { v with banks := tdel v.banks (2 * k + otherBank s d p k) }) s
      let s := modSlot s p k fun y => { y with running := some { u with sent := true } }
      let m := runningImage s p k u
      let s := sendSections s p k m (mxiSectionList m)
      .next (if (updateVats s p).isEmpty then chooseFlip s p k 0 else s)

/-- Section packets of the update that vat d has still to receive. -/
def sectionsUnderWay (s : State) (g d : Nat) : Bool :=
  let mine := fun (p : Packet) => p.opcode == 0x60 && bits p.aux.toNat 9 0 == g
  s.fab.waiting.any (fun w => w.2.any (fun o => mine o.pkt)) ||
  s.fab.trackers.any (fun t => t.2.unacked.any (fun u => mine u.pkt)) ||
  (mcOf s g).pending.any (fun e => e.waiting.contains d)

/-- SECTION_LOADED (R474 step 3, R475): a vat reports its sections with their digests. A vat that was pruned, or whose digests do not match, is
joined again and sent its sections again, up to the retry limit. The last report fixes the flip tick. -/
def execSectionLoaded (part : PartId) (slot : ModelSlot) (vat : VatId) (ahead : BitVec 32) (s : State) : Host.Outcome State Fault Refusal :=
  let p := part.val
  let k := slot.val
  let d := vat.val
  match (slotOf s p k).running with
  | none => .next s
  | some u =>
    let g := field (slotRecord s.ep.cur p k) 36 1 % 64
    if !u.sent || u.flipAt.isSome || u.loaded.contains d || !(updateVats s p).contains d || sectionsUnderWay s g d then .next s
    else
      let m := runningImage s p k u
      if !(mcOf s g).pruned.contains d && sectionsMatch s d p (otherBank s d p k) m then
        let gen := ((slotOf s p k).generation + 1).toNat
        let bank := otherBank s d p k
        let s := modVatDie s d fun v => { v with banks := tput v.banks (2 * k + bank) gen }
        let s := modSlot s p k fun y => { y with running := some { u with loaded := u.loaded ++ [d] } }
        .next (if (updateVats s p).all (fun v => v == d || u.loaded.contains v) then chooseFlip s p k ahead.toNat else s)
      else if tgetD u.retries d 0 < setting s 0x5070 0 then
        let s := modSlot s p k fun y => { y with running := some { u with retries := tinc u.retries d 1 } }
        let s := mcRejoin s g d
        .next (sendSections s p k m ((mxiSectionList m).filter (fun e => secFor e (d - partFirst (partRecord s.cfg p)))))
      else .next (cancelRunning s p k (0x10 + d))

/-- R474 step 4: every vat has freed its old bank, so the update completes with the new generation. -/
def updateSettle (s : State) (part slot : Nat) : State :=
  match (slotOf s part slot).running with
  | some u =>
    if u.flipped && (updateVats s part).all (fun d => u.freed.contains d) then
      let s := modSlot s part slot fun y => { y with running := none }
      updatesGo (serviceDone s u.port u.num 0 0 (leBytes 4 (slotOf s part slot).generation.toNat)) part
    else s
  | none => s

/-- MODEL_FLIP (R474 step 3, R49): at T the slot's generation rises. -/
def execModelFlip (part : PartId) (slot : ModelSlot) (s : State) : Host.Outcome State Fault Refusal :=
  let p := part.val
  let k := slot.val
  match (slotOf s p k).running with
  | none => .next s
  | some u =>
    match u.flipAt with
    | none => .next s
    | some t =>
      if u.flipped then .next s
      else
        let s := timeReaches s t
        let s := modSlot s p k fun y =>
          { y with generation := y.generation + 1, digest := u.digest, area := u.area, flipTick := t, running := some { u with flipped := true } }
        .next (updateSettle s p k)

/-- OLD_BANK_FREE (R470, R474 step 4): a vat frees its old bank once nothing binds the generation in it. Its bytes stay as they are (DESIGN CHOICE,
notes/assumptions/41.md). -/
def execOldBankFree (vat : VatId) (slot : ModelSlot) (s : State) : Host.Outcome State Fault Refusal :=
  let d := vat.val
  let k := slot.val
  let p := vatOwner s.cfg d
  match (slotOf s p k).running with
  | none => .next s
  | some u =>
    let key := 2 * k + otherBank s d p k
    let bound := match tget (tgetD s.part.vats d {}).banks key with
      | some gen => generationBound s p k gen d
      | none => false
    if !u.flipped || u.freed.contains d || !(updateVats s p).contains d || bound then .next s
    else
      let s := modVatDie s d fun v => { v with banks := tdel v.banks key }
      .next (updateSettle (modSlot s p k fun y => { y with running := some { u with freed := u.freed ++ [d] } }) p k)

end Sys2Proof.Machine
end

