-- ==== Sys2Proof/Machine/Ports.lean ====
section
/-!
DEFINITION. Machine/Ports.lean: the partner ports' registers, rings and resets, from the doorbell to classification (R392 to R403, R407 to R412,
R418 to R421), the DONE word (R413 to R417), digest reports (R572), and the mailbox registers (R96, R98).
-/
namespace Sys2Proof.Machine

/-! ### Queues -/

/-- R401: a completion of a request fetched from the queue is still to be posted. -/
def sqActive (s : State) (n q : Nat) : Bool := (portOf s n).reqs.any (fun r => r.sq == q && !r.orphan)

def sqOf (s : State) (n q : Nat) : Sq := tgetD (portOf s n).sqs q {}
def modSq (s : State) (n q : Nat) (f : Sq → Sq) : State := modPortOf s n fun x => { x with sqs := tmod x.sqs q {} f }
def cqOf (s : State) (n m : Nat) : Cq := tgetD (portOf s n).cqs m {}
def modCq (s : State) (n m : Nat) (f : Cq → Cq) : State := modPortOf s n fun x => { x with cqs := tmod x.cqs m {} f }

/-- An SQ's ERR becomes set, with its code (Table 11.6). -/
def sqError (s : State) (n q code : Nat) : State := portEvent (modSq s n q fun x => { x with err := true, errCode := code }) n 0

/-- A CQ's ERR becomes set. -/
def cqError (s : State) (n m : Nat) : State := portEvent (modCq s n m fun x => { x with err := true }) n 0

/-- R400, R401: EN written 1. -/
def sqEnable (s : State) (n q : Nat) : State :=
  if (sqOf s n q).en then s
  else if sqActive s n q then sqError s n q 2
  else if !qcAllowed (queueConfig (portBank s n) n q) then sqError s n q 3
  else modSq s n q fun x => { x with en := true, head := 0, tail := 0 }

/-- R401: a queue is disabled: what it has fetched and not admitted completes with ABORTED. -/
def sqDisable (s : State) (n q : Nat) : State :=
  let s := modSq s n q fun x => { x with en := false }
  ((portOf s n).reqs.filter (fun r => r.sq == q && !r.orphan && (r.stage == .fetched || r.stage == .queued))).foldl
    (fun s r => refuseReq s n r.num 0x0109 0) s

/-- Table 11.6: enabling a CQ. -/
def cqEnable (s : State) (n m : Nat) : State :=
  if (cqOf s n m).en then s
  else modCq s n m fun x => { x with en := true, tail := 0, phase := true, hostHead := 0, posted := 0 }

/-- R407: EN of a CQ written 0. -/
def cqDisable (s : State) (n m : Nat) : State :=
  if (cqOf s n m).en && (portOf s n).sqs.any (fun e => e.2.en && e.2.cq == m) then cqError s n m
  else modCq s n m fun x => { x with en := false }

/-- R402: a doorbell that is ignored. -/
def badDoorbell (s : State) (n q : Nat) (cq : Bool) : State :=
  report (portStat s n 4 1)
    { cause := 0x71, cls := 1, unit := 0x11, source := portFrontTile n, detail := q + (if cq then 16 else 0) }

/-- R402: PRT.SQ_DB written. -/
def sqDoorbell (s : State) (n q v : Nat) : State :=
  let x := sqOf s n q
  if !x.en || decide (x.size ≤ v) then sqError (badDoorbell s n q false) n q 1
  else modSq s n q fun x => { x with tail := v }

/-- R407: PRT.CQ_DB written. -/
def cqDoorbell (s : State) (n m v : Nat) : State :=
  if (cqOf s n m).size ≤ v then cqError (badDoorbell s n m true) n m
  else modCq s n m fun x => { x with hostHead := v }

/-- The host reaches the port's BARs: its die is in service, its link is up and its function is in D0. -/
def barsUp (s : State) (n : Nat) : Bool := dieUp s (16 + n) && portUp s n

/-- SQ_DOORBELL (R402). -/
def execSqDoorbell (port : PortId) (q : QueueId) (tail : BitVec 16) (s : State) : Host.Outcome State Fault Refusal :=
  .next (if barsUp s port.val then sqDoorbell s port.val q.val tail.toNat else s)

/-- CQ_DOORBELL (R405, R407). -/
def execCqDoorbell (port : PortId) (q : QueueId) (head : BitVec 16) (s : State) : Host.Outcome State Fault Refusal :=
  .next (if barsUp s port.val then cqDoorbell s port.val q.val head.toNat else s)

/-- SQ_ENABLE (R400, R401). -/
def execSqEnable (port : PortId) (q : QueueId) (s : State) : Host.Outcome State Fault Refusal :=
  .next (if barsUp s port.val then sqEnable s port.val q.val else s)

/-- SQ_DISABLE (R401). -/
def execSqDisable (port : PortId) (q : QueueId) (s : State) : Host.Outcome State Fault Refusal :=
  .next (if barsUp s port.val then sqDisable s port.val q.val else s)

/-- CQ_ENABLE (R406). -/
def execCqEnable (port : PortId) (q : QueueId) (s : State) : Host.Outcome State Fault Refusal :=
  .next (if barsUp s port.val then cqEnable s port.val q.val else s)

/-- CQ_DISABLE (R407). -/
def execCqDisable (port : PortId) (q : QueueId) (s : State) : Host.Outcome State Fault Refusal :=
  .next (if barsUp s port.val then cqDisable s port.val q.val else s)

/-! ### The mailbox registers (Table 3.11) -/

def mbxOf (s : State) (n : Nat) : Mailbox := tgetD s.dict.mailboxes n {}
def modMbx (s : State) (n : Nat) (f : Mailbox → Mailbox) : State := modDict s fun d => { d with mailboxes := tmod d.mailboxes n {} f }

/-- R98: MBX.REQ_TAIL written. -/
def mbxReqTail (s : State) (n : Nat) (v : BitVec 16) : State :=
  modMbx s n fun m => if 16 < (v - m.reqHead).toNat then { m with overrun := true } else { m with reqTail := v }

/-- R98: MBX.RSP_HEAD written. -/
def mbxRspHead (s : State) (n : Nat) (v : BitVec 16) : State :=
  modMbx s n fun m => if (m.rspTail - m.rspHead).toNat < (v - m.rspHead).toNat then { m with overrun := true } else { m with rspHead := v }

/-- MBX_REQ_TAIL_WRITE (R98). -/
def execMbxReqTailWrite (port : PortId) (tail : BitVec 16) (s : State) : Host.Outcome State Fault Refusal :=
  .next (if barsUp s port.val then mbxReqTail s port.val tail else s)

/-- MBX_RSP_HEAD_WRITE (R98). -/
def execMbxRspHeadWrite (port : PortId) (head : BitVec 16) (s : State) : Host.Outcome State Fault Refusal :=
  .next (if barsUp s port.val then mbxRspHead s port.val head else s)

/-- Table 3.11: a 4-byte write to the mailbox registers. -/
def mbxRegister (s : State) (n off v : Nat) : State :=
  if off = 0 then mbxReqTail s n (BitVec.ofNat 16 v)
  else if off = 0x0C then mbxRspHead s n (BitVec.ofNat 16 v)
  else if off = 0x10 then modMbx s n fun m => { m with vec := bits v 13 8, irqEn := bitAt v 0 }
  else if off = 0x14 then modMbx s n fun m => { m with resetSeen := m.resetSeen && !bitAt v 1, overrun := m.overrun && !bitAt v 0 }
  else s

/-- R96: bytes written to the request ring. -/
def mbxRing (s : State) (n off : Nat) (data : Bytes) : State :=
  modMbx s n fun m => { m with reqRing := data.zipIdx.foldl (fun t e => tput t (off - 0x800 + e.2) e.1) m.reqRing }

/-! ### Registers (Tables 11.5 and 11.6) -/

/-- R418: an MSI-X table entry's word written. Unmasking a pending vector sends it. -/
def msixWrite (s : State) (n vec w v : Nat) : State :=
  let s := modPortOf s n fun x =>
    let e := tgetD x.msix vec (0, 0, 1)
    let e' := if w = 0 then (setBits e.1 31 0 (v / 4 * 4), e.2) else if w = 1 then (setBits e.1 63 32 v, e.2)
      else if w = 2 then (e.1, v, e.2.2) else (e.1, e.2.1, v % 2)
    { x with msix := tput x.msix vec e' }
  let x := portOf s n
  if w = 3 && v % 2 = 0 && bitAt x.pba vec && !x.funcMask then msixSend s n vec else s

/-- R400, R401: PRT.SQ_CFG written. While EN is 1, CQ and SIZE stay, and a different value sets ERR (DEDUCED, notes/assumptions/33.md). A SIZE
outside 2 to 4,096 stays as it was. -/
def sqCfgWrite (s : State) (n q v : Nat) : State :=
  let x := sqOf s n q
  let size := if 2 ≤ bits v 12 0 && bits v 12 0 ≤ 4096 then bits v 12 0 else x.size
  if x.en then
    let s := if bits v 19 16 ≠ x.cq || size ≠ x.size then sqError s n q 2 else s
    if bitAt v 31 then s else sqDisable s n q
  else if bitAt v 31 && sqActive s n q then sqError s n q 2
  else
    let s := modSq s n q fun x => { x with cq := bits v 19 16, size := size }
    if bitAt v 31 then sqEnable s n q else s

/-- R407: PRT.CQ_CFG written. -/
def cqCfgWrite (s : State) (n m v : Nat) : State :=
  let x := cqOf s n m
  let named := (portOf s n).sqs.any (fun e => e.2.en && e.2.cq == m)
  if x.en && !bitAt v 31 && named then cqError s n m
  else
    let s := modCq s n m fun x =>
      { x with irqEn := bitAt v 24, vec := bits v 21 16, size := if 2 ≤ bits v 12 0 && bits v 12 0 ≤ 4096 then bits v 12 0 else x.size }
    if bitAt v 31 then cqEnable s n m else cqDisable s n m

/-- One half of a 64-bit ring base; bits [11:0] read 0. -/
def baseHalf (old w v : Nat) : Nat := if w = 0 then setBits old 31 0 (v / 4096 * 4096) else setBits old 63 32 v

/-- R9, R13, R14: a 4-byte write to BAR0. Read-only and unimplemented offsets ignore it. -/
def barWord (s : State) (n off v : Nat) : State :=
  if off = 0x08 then modPortOf s n fun x => { x with evtVec := bits v 13 8, evtIrqEn := bitAt v 16 }
  else if off = 0x0C then
    modPortOf s n fun x => { x with event := ((List.range 4).map (fun i => if bitAt x.event i && !bitAt v i then 2 ^ i else 0)).sum }
  else if off = 0x10 || off = 0x14 then modPortOf s n fun x => { x with hwinBase := baseHalf x.hwinBase ((off - 0x10) / 4) v }
  else if off = 0x18 then
    modPortOf s n fun x => if bits v 28 0 ≤ 2 ^ 28 then { x with hwinSize := bits v 28 0 } else x
  else if 0x1000 ≤ off && off < 0x1400 then
    let q := (off - 0x1000) / 64
    let r := off % 64
    if r = 0 || r = 4 then
      (if (sqOf s n q).en then sqError s n q 2 else modSq s n q fun x => { x with base := baseHalf x.base (r / 4) v })
    else if r = 8 then sqCfgWrite s n q v
    else if r = 12 && bitAt v 17 then modSq s n q fun x => { x with err := false }
    else s
  else if 0x1400 ≤ off && off < 0x1800 then
    let m := (off - 0x1400) / 64
    let r := off % 64
    if r = 0 || r = 4 then modCq s n m fun x => { x with base := baseHalf x.base (r / 4) v }
    else if r = 8 then cqCfgWrite s n m v
    else if r = 12 then modCq s n m fun x => { x with coalTime := bits v 31 16, coalCount := bits v 7 0 }
    else if r = 16 && bitAt v 18 then modCq s n m fun x => { x with err := false }
    else s
  else if 0x2000 ≤ off && off < 0x2080 then
    let q := (off - 0x2000) / 8
    if off % 8 = 0 then sqDoorbell s n q (v % 65536) else cqDoorbell s n q (v % 65536)
  else if 0xE000 ≤ off && off < 0xE400 then msixWrite s n ((off - 0xE000) / 16) (off % 16 / 4) v
  else s

/-- R395: offsets of the 64-bit registers that take 8-byte writes: HWIN_BASE, ring bases, and the MSI-X table's quadwords. -/
def wideRegister (off : Nat) : Bool :=
  off == 0x10 || ((decide (0x1000 ≤ off) && decide (off < 0x1800)) && off % 64 == 0) ||
    (decide (0xE000 ≤ off) && decide (off < 0xE400) && off % 8 == 0)

/-- R396: bytes written to the staging window. -/
def stagingWrite (s : State) (n off : Nat) (data : Bytes) : State :=
  modPortOf s n fun x => { x with staging := memWrite x.staging off (data.take (2 ^ 26 - off)) }

/-- R395, R9: a host write to a BAR of a port. -/
def barWrite (s : State) (n bar off : Nat) (data : Bytes) : State :=
  if bar = 0 then
    if data.length = 4 && off % 4 = 0 then barWord s n off (leNat data)
    else if data.length = 8 && off % 8 = 0 && wideRegister off then
      (if 0x1000 ≤ off && off < 0x1400 && (sqOf s n ((off - 0x1000) / 64)).en then sqError s n ((off - 0x1000) / 64) 2
       else barWord (barWord s n off (field data 0 4)) n (off + 4) (field data 4 4))
    else s
  else if bar = 2 then stagingWrite s n off data
  else if bar = 4 then
    if 0x800 ≤ off && off + data.length ≤ 0x1000 then mbxRing s n off data
    else if off < 0x18 && data.length = 4 && off % 4 = 0 then mbxRegister s n off (leNat data)
    else s
  else s

/-- R418, PCIe 5.0 (PRESUMED, notes/assumptions/10.md): the Message Control word of the MSI-X capability written: bit 15 enables MSI-X, bit 14
masks the function. Vectors that are pending and no longer masked are sent. -/
def msixControl (s : State) (n v : Nat) : State :=
  let s := modPortOf s n fun x => { x with msixEn := bitAt v 15, funcMask := bitAt v 14 }
  if bitAt v 15 && !bitAt v 14 then
    (List.range 64).foldl (fun s k =>
      if bitAt (portOf s n).pba k && !bitAt (tgetD (portOf s n).msix k (0, 0, 1)).2.2 0 then msixSend s n k else s) s
  else s

/-- The function answers configuration writes: its die is in service, its link is up and PERST_N is deasserted, in D0 and in D3hot (R394). -/
def configUp (s : State) (n : Nat) : Bool := dieUp s (16 + n) && (portOf s n).up && !(portOf s n).perst

/-- REGISTER_WRITE (R9, R395): a host write to a BAR. No BAR has the number 5, which stands for a write of the MSI-X Message Control word in configuration
space (DESIGN CHOICE, notes/assumptions/138.md). -/
def execRegisterWrite (port : PortId) (bar : BarId) (offset : BitVec 26) (data : Bytes) (s : State) : Host.Outcome State Fault Refusal :=
  .next
    (if bar.val = 5 then (if configUp s port.val && data.length == 2 then msixControl s port.val (leNat data) else s)
     else if barsUp s port.val then barWrite s port.val bar.val offset.toNat data else s)

/-- STAGING_WRITE (R396). -/
def execStagingWrite (port : PortId) (offset : BitVec 26) (data : Bytes) (s : State) : Host.Outcome State Fault Refusal :=
  .next (if barsUp s port.val then stagingWrite s port.val offset.toNat data else s)

/-! ### Descriptors and payloads -/

/-- Table 11.3: the bit of an opcode in QUEUE_CONFIG's mask; none where the opcode is reserved. -/
def opcodeBit (op : Nat) : Option Nat :=
  if op = 1 then some 16 else if op = 2 then some 17 else if op = 0x10 then some 18 else if op = 0x11 then some 19
  else if 0x20 ≤ op && op ≤ 0x24 then some (op - 0x20 + 20) else none

/-- Table 11.3: the opcode takes an input, or an output. -/
def usesInput (op : Nat) : Bool := op == 1 || op == 2 || op == 0x10 || op == 0x21 || op == 0x22 || op == 0x23
def usesOutput (op : Nat) : Bool := op == 1 || op == 2 || op == 0x20 || op == 0x21 || op == 0x22 || op == 0x24

/-- Table 11.3: fields that an opcode does not list are 0. -/
def fieldsClean (d : Bytes) : Bool :=
  let op := descOpcode d
  (usesInput op || (descInLen d == 0 && descInput d == 0 && descCrc d == 0 && !descCrcValid d && !descStaged d)) &&
  (usesOutput op || (descOutLen d == 0 && descOutput d == 0)) &&
  (op == 1 || descWatch d == 0) &&
  (decide (op ≤ 0x11) || descSlot d == 0) &&
  (op == 2 || op == 0x20 || op == 0x21 || op == 0x24 || descArg d 0 == 0) &&
  (if op = 2 || op = 0x20 then decide (descArg d 1 < 4) else descArg d 1 == 0) &&
  (op == 0x20 || descArg d 2 == 0)

/-- Table 11.3, R510: lengths in range and in whole units. -/
def lengthsOk (d : Bytes) : Bool :=
  let op := descOpcode d
  let i := descInLen d
  let o := descOutLen d
  if op = 1 || op = 2 then decide (1 ≤ i) && decide (i ≤ 262144) && decide (o ≤ 4088)
  else if op = 0x20 then decide (1 ≤ descArg d 2) && decide (descArg d 2 ≤ 4096) && decide (256 * descArg d 2 ≤ o)
  else if op = 0x21 then
    i % 16384 == 0 && decide (1 ≤ i / 16384) && decide (i / 16384 ≤ 256) && o == i / 16384 * 8 && decide (descArg d 0 + i / 16384 ≤ 2 ^ 40)
  else if op = 0x22 then i % 8 == 0 && decide (1 ≤ i / 8) && decide (i / 8 ≤ 256) && o == i / 8 * 16384
  else if op = 0x23 then i % 8 == 0 && decide (1 ≤ i / 8) && decide (i / 8 ≤ 256)
  else if op = 0x24 then decide (64 ≤ o)
  else true

/-- R409, R396: the descriptor is malformed. -/
def malformed (d : Bytes) : Bool :=
  let op := descOpcode d
  !allZero (slice d 64 64) || bits (field d 0 8) 31 22 != 0 || (opcodeBit op).isNone || !fieldsClean d || !lengthsOk d ||
    (usesInput op && (if descStaged d then decide (2 ^ 26 < descInput d + descInLen d) else descInput d % 4 != 0)) ||
    (usesOutput op && descOutput d % 4 != 0)

/-- R426: the port fetches a payload for the request: LOAD_MODEL's image is fetched by its unit (R473). -/
def fetchesPayload (d : Bytes) : Bool := usesInput (descOpcode d) && descOpcode d != 0x10

/-- R403: requests fetched and not yet admitted or refused. -/
def unadmitted (s : State) (n : Nat) (p : Request → Bool) : Nat :=
  ((portOf s n).reqs.filter (fun r => !r.orphan && (r.stage == .fetched || r.stage == .queued) && p r)).length

/-- R393, R394, R403, R421: the port fetches descriptors of a queue now. -/
def canFetch (s : State) (n q : Nat) : Bool :=
  let x := sqOf s n q
  barsUp s n && linkOk s n && portReady s && x.en && x.head != x.tail && decide (unadmitted s n (fun r => r.sq == q) < 32) &&
    decide (unadmitted s n (fun _ => true) < 128)

/-- DESCRIPTOR_FETCH (R403, R408, R409, R321): the port reads the descriptor at HEAD, checks it, and classifies a request that has no payload to
fetch. The checks go in the order of their status codes (DEDUCED, notes/assumptions/34.md). -/
def execDescriptorFetch (port : PortId) (q : QueueId) (err : TlpErr) (desc : Bytes) (s : State) : Host.Outcome State Fault Refusal :=
  let n := port.val
  if !canFetch s n q.val then .next s
  else
    let w := queueConfig (portBank s n) n q.val
    let num := (portOf s n).nextReq
    let d := if err = .good then padTo desc 128 else zeros 128
    let r : Request := { num := num, sq := q.val, ordered := qcOrdered w, partition := qcPart w, desc := d }
    let s := modSq (portStat s n 0 1) n q.val fun x => { x with head := (x.head + 1) % x.size }
    let s := modPortOf s n fun x => { x with reqs := x.reqs ++ [r], nextReq := num + 1 }
    if err ≠ .good then
      let s := tlpFault s n (qcPart w) err
      let s := report s
        { cause := 0x70, cls := 2, unit := 0x11, source := portFrontTile n, partition := some (qcPart w), detail := q.val }
      .next (refuseReq s n num 0x0101 0xFF)
    else if malformed d then .next (refuseReq s n num 0x0101 0)
    else if !bitAt w ((opcodeBit (descOpcode d)).getD 0) then .next (refuseReq s n num 0x0102 0)
    else if descPart d ≠ qcPart w then .next (refuseReq s n num 0x0103 0)
    else if fetchesPayload d then .next s
    else .next (classifyQueue (modReq s n num fun r => { r with ready := true }) n q.val)

/-- R319: the payload of a request has come; its CRC-32C is checked and kept, and the request can be classified. -/
def payloadArrived (s : State) (n : Nat) (r : Request) (data : Bytes) : State :=
  let c := crc32c data
  if descCrcValid r.desc && c ≠ descCrc r.desc then
    let s := report (portFault s n 0)
      { cause := 0x15, cls := 2, unit := 0x11, source := portFrontTile n, partition := some r.partition }
    classifyQueue (refuseReq s n r.num 0x0104 0) n r.sq
  else classifyQueue (modReq s n r.num fun x => { x with payload := data, crc := c, ready := true }) n r.sq

/-- The request awaits its payload. -/
def awaitsPayload (s : State) (n num : Nat) : Option Request :=
  match reqOf s n num with
  | some r => if r.stage == .fetched && !r.ready && fetchesPayload r.desc && !r.orphan then some r else none
  | none => none

/-- R396: the payload of an IN_STAGED request is read from the staging window. -/
def stagedPayload (s : State) (n : Nat) (r : Request) : State :=
  payloadArrived s n r (memRead (portOf s n).staging (descInput r.desc) (descInLen r.desc))

/-- PAYLOAD_FETCH (R319, R321, R426): a payload fetch ends, from host memory or from the staging window. -/
def execPayloadFetch (port : PortId) (req : Nat) (err : TlpErr) (data : Bytes) (s : State) : Host.Outcome State Fault Refusal :=
  let n := port.val
  match awaitsPayload s n req with
  | none => .next s
  | some r =>
    if descStaged r.desc then .next (stagedPayload s n r)
    else if err ≠ .good then
      .next (classifyQueue (refuseReq (tlpFault s n r.partition err (some (descInput r.desc))) n req 0x0105 0) n r.sq)
    else if data.length = descInLen r.desc then .next (payloadArrived s n r data)
    else .next s

/-- A staged scoring request of an opcode is taken through classification. -/
def takeScore (s : State) (n req op : Nat) : State :=
  match awaitsPayload s n req with
  | some r => if descOpcode r.desc = op && descStaged r.desc then stagedPayload s n r else s
  | none => s

/-- SCORE (R410): a SCORE whose payload is staged is checked, classified and metered. -/
def execScore (port : PortId) (req : Nat) (s : State) : Host.Outcome State Fault Refusal := .next (takeScore s port.val req 1)

/-- SCORE_REPLAY (R412): a SCORE_REPLAY whose payload is staged, the same, with its record looked up (Table 12.1 check 5). -/
def execScoreReplay (port : PortId) (req : Nat) (s : State) : Host.Outcome State Fault Refusal := .next (takeScore s port.val req 2)

/-! ### Results -/

/-- R413: a context's result slot. -/
def resultSlot (n c : Nat) : Nat := 0x80E00000 + n * 0x4000000 + 4096 * c

/-- R416: the outcome of an accepted DONE word. -/
def doneOutcome (s : State) (n c word : Nat) (r : Request) : Outcome :=
  let len := bits word 31 0
  let rs := if 4088 < len then 0xFF else bits word 47 40
  if rs ≠ 0 then { status := 0x0203, detail := rs, resultLen := if len ≤ 4088 then len else 0 }
  else
    let data := readMem s (resultSlot n c) len
    let out := descOutLen r.desc
    { status := if out < len && 16 < len then 0x0204 else 0
      result := data.take 16
      resultLen := len
      inline := decide (0 < len)
      output := data.take out }

/-- R415: a DONE word that is not accepted. -/
def staleDone (s : State) (n word part : Nat) : State :=
  let tag := bits word 63 48
  report (portStat s n 5 1)
    { cause := 0x72, cls := 1, unit := 0x11, source := portFrontTile n, partition := if part = 0 then none else some part
      tag := some tag, detail := tag }

/-- DONE_WORD (R414 to R416, R142): the port front accepts a DONE word for a LIVE context at or before its deadline tick, which goes to FINISHING;
any other is discarded. A context found LIVE after its deadline tick has already gone to KILLING. -/
def execDoneWord (port : PortId) (ctx : CtxId) (word : BitVec 64) (partition : PartId) (s : State) : Host.Outcome State Fault Refusal :=
  let n := port.val
  let c := ctx.val
  let w := word.toNat
  let x := ctxOf s n c
  if x.state = 1 && bits w 63 48 = ctxTag n c x.gen && partition.val = x.partition && bits w 39 32 = 0 then
    if x.deadline < s.now then .next (staleDone (enterKilling s n c 0x10) n w partition.val)
    else match ctxRequest s n x with
    | none => .next s
    | some r =>
      let o := doneOutcome s n c w r
      let s := modReq s n r.num fun r => { r with out := o }
      let s := if o.status = 0x0204 then
          report (portStat s n 6 1)
            { cause := 0x73, cls := 1, unit := 0x11, source := portFrontTile n, partition := some x.partition
              tag := some (ctxTag n c x.gen), detail := ctxTag n c x.gen }
        else s
      let s := leaveLive s n c
      .next (ctxEvent (modCtx s n c fun x => { x with state := 2, endTick := s.now }) n c)
  else .next (staleDone s n w partition.val)

/-- R572: a digest record at the port front is kept with its context, or discarded as stale. -/
def takeDigest (s : State) (n : Nat) (p : Packet) : State :=
  let tag := p.tag.toNat
  let c := tagCtx tag
  let x := ctxOf s n c
  let hits := (List.range 3).filter (fun i =>
    let e := watchElem x.watchRec i
    elemEn e && elemDie e == field p.payload 81 1 && elemPoint e == field p.payload 80 1)
  if p.tagValid && tagPort tag = n && x.state = 1 && tagCurrent s tag && p.partition.toNat = x.partition && !hits.isEmpty then
    let s := modObs s fun o => { o with digestCounts := tinc o.digestCounts (3 * n) 1 }
    modCtx s n c fun x => { x with digests := hits.foldl (fun t i => tput t i (slice p.payload 0 32)) x.digests }
  else
    let s := modObs s fun o => { o with digestCounts := tinc o.digestCounts (3 * n + 1) 1 }
    report s
      { cause := 0xD5, cls := 1, unit := 0x11, source := portFrontTile n, partition := some p.partition.toNat
        tag := p.tagOpt, detail := tag }

/-- DIGEST_REPORT (R570, R572): a DIGEST_REPORT reaches a port front, which answers it. -/
def execDigestReport (node : NodeId) (p : Packet) (s : State) : Host.Outcome State Fault Refusal :=
  match (List.range 4).find? (fun n => portFrontTile n == node.toNat) with
  | none => .next s
  | some n =>
    onArrival node p [6] s fun s =>
      rxArrive s node.toNat p (fun s => response (takeDigest s n p) node.toNat p 0x23 [])

/-! ### Resets and power states -/

/-- R69: sessions, transfers and challenges of an endpoint go. -/
def dropEndpoint (s : State) (ep : Nat) : State :=
  modDict s fun d =>
    { d with
      sessions := d.sessions.filter (fun e => e.2.ep != ep)
      transfers := d.transfers.filter (fun t => t.ep != ep)
      challenges := d.challenges.filter (fun c => c.ep != ep) }

/-- R419, R401: requests fetched and not admitted are discarded; the others run on as orphans. -/
def orphanRequests (s : State) (n : Nat) : State :=
  let gone := ((portOf s n).reqs.filter (fun r => r.stage == .fetched || r.stage == .queued)).map (·.num)
  let s := modPortOf s n fun x =>
    { x with reqs := (x.reqs.filter (fun r => !gone.contains r.num)).map (fun r => { r with orphan := true }) }
  modAdm s n fun a => { a with queues := a.queues.map (fun e => (e.1, { e.2 with items := e.2.items.filter (fun k => !gone.contains k) })) }

/-- R419: the reset of a port's function, by 0 PERST_N, 1 FLR or 2 DL_Down. -/
def resetPort (s : State) (n why : Nat) : State :=
  let s := orphanRequests s n
  let s := modPortOf s n fun x =>
    { rate := x.rate, width := x.width, up := x.up && why == 1, perst := x.perst || why == 0
      resetGen := x.resetGen + 1, reqs := x.reqs, nextReq := x.nextReq, hostPend := x.hostPend, nextHost := x.nextHost
      staging := x.staging, stats := x.stats, status := x.status }
  let s := dropEndpoint s (2 + n)
  let s := modMbx s n fun m => { requests := m.requests }
  let s := fenceIsland s (portFrontTile n) 3
  report s { cause := 0x75, cls := 2, unit := 0x11, source := portFrontTile n, detail := why }

/-- PERST_N_ASSERT (R419). -/
def execPerstNAssert (port : PortId) (s : State) : Host.Outcome State Fault Refusal :=
  if (portOf s port.val).perst || !dieUp s (16 + port.val) then .next s else .next (withDevice (fun s => resetPort s port.val 0) s)

/-- FUNCTION_LEVEL_RESET (R419). -/
def execFunctionLevelReset (port : PortId) (s : State) : Host.Outcome State Fault Refusal :=
  let x := portOf s port.val
  if !x.up || x.perst || !dieUp s (16 + port.val) then .next s else .next (withDevice (fun s => resetPort s port.val 1) s)

/-- DL_DOWN (R419). -/
def execDlDown (port : PortId) (s : State) : Host.Outcome State Fault Refusal :=
  if !(portOf s port.val).up || !dieUp s (16 + port.val) then .next s else .next (withDevice (fun s => resetPort s port.val 2) s)

/-- PORT_LINK_UP (R393, R421): PERST_N is deasserted and the link has trained, at no rate above the cap in force; the PHY's boundary is ALIVE. -/
def execPortLinkUp (port : PortId) (rate : BitVec 3) (width : BitVec 5) (s : State) : Host.Outcome State Fault Refusal :=
  let n := port.val
  let ok := dieUp s (16 + n) && (tget s.pow.fw (16 + n)).isSome && decide (1 ≤ rate.toNat) && decide (rate.toNat ≤ 5) &&
    (width == 1 || width == 2 || width == 4 || width == 8 || width == 16)
  if !ok then .next s
  else
    let cap := setting s 0x4002 (n + 1)
    .next (withDevice (fun s =>
      let k := islandKey (16 + n) 3
      let b := tgetD s.time.bounds k {}
      let s := if b.state = 1 then
          modTime (aliveSide s k (16 + n) (nextGen b.cgen)) fun t => { t with counts := bump t.counts 1 }
        else s
      modPortOf s n fun x => { x with up := true, perst := false, d3hot := false, rate := Nat.min rate.toNat cap, width := width.toNat }) s)

/-- D3HOT_ENTRY (R394). -/
def execD3hotEntry (port : PortId) (s : State) : Host.Outcome State Fault Refusal :=
  if (portOf s port.val).up then .next (modPortOf s port.val fun x => { x with d3hot := true }) else .next s

/-- D0_RETURN (R394). -/
def execD0Return (port : PortId) (s : State) : Host.Outcome State Fault Refusal :=
  .next (modPortOf s port.val fun x => { x with d3hot := false })

/-- CQ_INTERRUPT_TIMER (R418): COAL_TIME has passed since the first completion posted after the last message. -/
def execCqInterruptTimer (port : PortId) (q : QueueId) (s : State) : Host.Outcome State Fault Refusal :=
  let n := port.val
  let x := cqOf s n q.val
  if x.en && x.irqEn && 0 < x.posted && 0 < x.coalTime then
    let s := timeReaches s (x.firstAt + 100 * x.coalTime)
    .next (msixSend (modCq s n q.val fun x => { x with posted := 0 }) n x.vec)
  else .next s

end Sys2Proof.Machine
end

