-- ==== Sys2Proof/Machine/Rails.lean ====
section
/-!
DEFINITION. Machine/Rails.lean: the supply rails' setpoints (R605, R606, R613 to R615).
-/
namespace Sys2Proof.Machine

def modRail (s : State) (r : Nat) (f : Rail → Rail) : State := modPow s fun w => { w with rails := tmod w.rails r {} f }

/-- R615: DS's PMBus host is in service. -/
def pmbusUp (s : State) : Bool := dieUp s 18 && (tget s.pow.fw 18).isSome

/-- Table 17.6: fields of RAIL_MAP. -/
def railMap (s : State) (r : Nat) : Nat := setting s (0x9010 + r) 0
def railPresent (s : State) (r : Nat) : Bool := bitAt (railMap s r) 16
def railControl (s : State) (r : Nat) : Bool := bitAt (railMap s r) 17 && decide (r ≤ 16)

/-- R613: a transaction to a rail's regulator: its PAGE, then a command. -/
def pmbusSend (s : State) (r cmd : Nat) (data : Bytes) : State :=
  let m := railMap s r
  emitOut s (.pmbus (bits m 6 0) (bits m 15 8) cmd data)

/-- RAIL_SETPOINT in force (R455). -/
def railWanted (s : State) (r : Nat) : Nat := setting s 0x9050 (r + 1)

/-- R606: a new setpoint for a rail: VOUT_COMMAND goes out where the part may send it, and READ_VOUT is awaited for 2 ms. Meanwhile the lower limit
holds (R605), so a lower setpoint slows the die first and a higher one speeds it last. -/
def railStart (s : State) (r mv : Nat) : State :=
  if (railOf s r).setpoint = mv && (railOf s r).settle.isNone then s
  else
    let s := modRail s r fun x => { x with settle := some (mv, s.now + 2000000) }
    if railPresent s r && railControl s r then pmbusSend s r 0x21 (leBytes 2 (Config.voutCode r mv).toNat) else s

/-- R455, R606: every rail whose setpoint in force differs from an earlier state's starts towards it. Without DS's host a rail keeps its last
setpoint (R615). -/
def railsFollow (before s : State) : State :=
  if !pmbusUp s then s
  else (List.range 17).foldl (fun s r => if railWanted s r = railWanted before r then s else railStart s r (railWanted s r)) s

end Sys2Proof.Machine
end

