-- ==== Sys2Proof/Machine/Epoch.lean ====
section
/-!
DEFINITION. Machine/Epoch.lean: partitions' drained state (R451, R452), the configuration digests (R456), the epoch switch from its arming checks to
its retirement (R457 to R468), repair switches (R350, R467), and the fence and return of vat dies (R478 to R481).
-/
namespace Sys2Proof.Machine

/-! ### Abort codes (Table 3.4) -/

def aValueOutOfRange : Nat := 0x06010006
def aNotDrained : Nat := 0x08010004
def aEpochBusy : Nat := 0x08010005
def aStateConflict : Nat := 0x08010006
def aResource : Nat := 0x08010007
def aUnitDown : Nat := 0x08010008

/-! ### Drained partitions -/

/-- R451: partition p is drained. -/
def partDrained (s : State) (p : Nat) : Bool :=
  (List.range 4).all (fun n => (admOf s n).ctxs.all (fun e => e.2.state == 0 || e.2.partition != p)) &&
  (partVats s.cfg p).all (fun d => (vatOf s d).fibres.isEmpty && (vatOf s d).batches.all (·.done)) &&
  !partUpdating s p

/-- R451: a vat in no partition and a fenced vat count as drained. -/
def vatDrained (s : State) (d : Nat) : Bool :=
  let p := vatOwner s.cfg d
  p == 0 || bankFenced s.cfg d || partDrained s p

/-- R452: the control state of partition p. -/
def partControl (s : State) (p : Nat) : Nat := tgetD s.part.control p 0
def setControl (s : State) (p v : Nat) : State := modPart s fun x => { x with control := tput x.control p v }

/-- R452: DRAIN moves an ACTIVE partition to DRAINING. -/
def partitionDrain (s : State) (p : Nat) : State := if partControl s p = 0 then setControl s p 1 else s

/-- R452: RESUME returns it to ACTIVE. -/
def partitionResume (s : State) (p : Nat) : State := setControl s p 0

/-- PARTITION_DRAINED (R452): DRAINING becomes DRAINED when R451 comes to hold, and DRAINED becomes DRAINING when it stops holding. -/
def execPartitionDrained (part : PartId) (s : State) : Host.Outcome State Fault Refusal :=
  let p := part.val
  if partControl s p = 1 && partDrained s p then .next (setControl s p 2)
  else if partControl s p = 2 && !partDrained s p then .next (setControl s p 1)
  else .next s

/-! ### Digests -/

/-- The entries of the rows that p selects, in ascending index and subindex. -/
def entriesOf (p : OdEntry → Bool) : List (Nat × Nat) :=
  ((odTable.filter p).flatMap (fun e =>
    (List.range (e.hi + 1 - e.lo)).flatMap (fun i => (List.range (e.subHi + 1 - e.subLo)).map (fun k => (e.lo + i, e.subLo + k))))).mergeSort
    (fun a b => decide (odKey a.1 a.2 ≤ odKey b.1 b.2))

/-- R453, R456: the G and GT entries. -/
def groundEntries : List (Nat × Nat) := entriesOf (fun e => e.member != .neither)

/-- R456: GROUND_DIGEST's bytes. -/
def groundBytes (s : State) : Bytes :=
  groundEntries.flatMap (fun e =>
    let v := groundValue s e.1 e.2
    leBytes 2 e.1 ++ leBytes 1 e.2 ++ leBytes 4 v.length ++ v)

/-- R456: TINT_DIGEST of tint t in a bank. -/
def tintDigestOf (cfg : Table Bytes) (t : Nat) : Bytes := sha384 (overlays cfg t).flatten

/-- CONFIG_DIGEST_RECOMPUTE (R456). -/
def execConfigDigestRecompute (s : State) : Host.Outcome State Fault Refusal :=
  if !s.part.digestDue then .next s
  else
    let ground := sha384 (groundBytes s)
    let tint := if s.tint = 0 then zeros 48 else tintDigestOf s.cfg s.tint
    .next (modPart s fun x =>
      { x with
        groundDigest := ground, tintDigest := tint
        configDigest := sha384 (ground ++ tint ++ leBytes 1 s.tint ++ leBytes 8 s.ep.count)
        configSeq := x.configSeq + 1, digestDue := false })

/-! ### Arming -/

/-- R60, R350, R467: the configuration that a switch installs. -/
def nextConfig (s : State) (repair : Bool) : Table Bytes := if repair then s.cfg else s.ep.pend.foldl (fun t e => tput t e.1 e.2) s.cfg

/-- R457: the bank that a switch arms. -/
def nextBank (s : State) (repair : Bool) : Bank :=
  { cfg := nextConfig s repair, oos := s.pow.lost, badLinks := failedLinks s, count := s.ep.count + 1 }

/-- What a failed arming check names: abort code, index, subindex. -/
abbrev ArmFail := Nat × Nat × Nat

/-- The first of the failures of a list of checks. -/
def firstFail {α : Type} (l : List α) (f : α → Option ArmFail) : Option ArmFail := l.findSome? f

def overlap (a n b m : Nat) : Bool := decide (0 < n) && decide (0 < m) && decide (a < b + m) && decide (b < a + n)

/-- The partitions that a bank defines. -/
def bankParts (b : Bank) : List Nat := (List.range 16).filter (fun p => decide (1 ≤ p) && partEn (partRecord b.cfg p))

/-- Table 13.7, check 1: runs and ranges overlap, or a range holds group 511. -/
def checkRanges (b : Bank) : Option ArmFail :=
  firstFail (bankParts b) fun p =>
    let r := partRecord b.cfg p
    let clash := ((bankParts b).filter (· < p)).any (fun q =>
      let x := partRecord b.cfg q
      overlap (partFirst r) (partCount r) (partFirst x) (partCount x) ||
        overlap (partSyncFirst r) (partSyncCount r) (partSyncFirst x) (partSyncCount x) ||
        overlap (partMcFirst r) (partMcCount r) (partMcFirst x) (partMcCount x) ||
        overlap (partRedFirst r) (partRedCount r) (partRedFirst x) (partRedCount x))
    if clash || overlap (partRedFirst r) (partRedCount r) 511 1 then some (aValueOutOfRange, 0x5020 + p, 1) else none

/-- The reduction groups whose records a bank holds, 511 apart. -/
def redListed (b : Bank) : List Nat :=
  ((bankKeys b.cfg (odKey 0x2520 0) (odKey 0x259F 255)).map (fun k => 4 * (k / 256 - 0x2520) + k % 256 - 1)).filter (· < 511)

/-- A node is one of partition p's vat tiles. -/
def nodeOwned (b : Bank) (p node : Nat) : Bool := (locateNode node).isSome && partOwnsVat b.cfg p (dieOf node)

/-- Table 13.7, check 2: an enabled group lies outside its partition's range, or names a vat or root outside it. -/
def checkGroups (b : Bank) : Option ArmFail :=
  (firstFail (mcListed b) fun g =>
    let r := mcRecord b g
    let p := mcPart r
    let x := partRecord b.cfg p
    let root := nodeOwned b p (mcRoot r) || (List.range 4).any (fun k => mcRoot r == mcSeqTile (16 + k))
    if !mcEn r || (partEn x && decide (partMcFirst x ≤ g) && decide (g < partMcFirst x + partMcCount x) &&
        (mcMembers r).all (partOwnsVat b.cfg p) && root) then none
    else some (aValueOutOfRange, 0x2400 + g / 4, g % 4 + 1)).orElse fun _ =>
  firstFail (redListed b) fun g =>
    let r := redRecord b g
    let p := redPart r
    let x := partRecord b.cfg p
    if !redEn r || (partEn x && decide (partRedFirst x ≤ g) && decide (g < partRedFirst x + partRedCount x) &&
        (redVats r).all (partOwnsVat b.cfg p) && nodeOwned b p (redRoot r)) then none
    else some (aValueOutOfRange, 0x2520 + g / 4, g % 4 + 1)

/-- Table 13.7, check 3: a SYNC window covers a cell outside its partition's range. -/
def checkWindows (b : Bank) : Option ArmFail :=
  firstFail (bankKeys b.cfg (odKey 0x3450 1) (odKey 0x345F 255)) fun k =>
    let w := leNat (bankValue b.cfg (k / 256) (k % 256))
    let p := k / 256 - 0x3450
    let x := partRecord b.cfg p
    let lo := Nat.max (bits w 71 36 * 4096) 0xA0000000
    let hi := Nat.min ((bits w 111 76 + 1) * 4096) 0xA0140000
    let first := if partEn x then partSyncFirst x else 0
    let count := if partEn x then partSyncCount x else 0
    if bitAt w 3 && bitAt w 2 && decide (lo < hi) &&
        !(decide (first ≤ (lo - 0xA0000000) / 256) && decide ((hi - 0xA0000000) / 256 ≤ first + count))
    then some (aValueOutOfRange, k / 256, k % 256) else none

/-- The submission queues of all ports: port, queue, configuration. -/
def bankQueues (b : Bank) : List (Nat × Nat × Nat) :=
  (List.range 4).flatMap (fun n => (List.range 16).map (fun q => (n, q, queueConfig b n q)))

def bankClass (b : Bank) (n q : Nat) : Nat := bankNat b (0x4424 + n) (q + 1) % 16
def bankDelivery (b : Bank) (n a : Nat) : Nat := bankNat b (0x4450 + n) (a + 1)

/-- Table 13.7, check 4: a queue names a partition that does not own its port; R425; R441. -/
def checkQueues (b : Bank) : Option ArmFail :=
  firstFail (bankQueues b) fun (n, q, w) =>
    let p := qcPart w
    if (qcAllowed w || p != 0) && !partOwnsPort b.cfg p n then some (aValueOutOfRange, 0x4010 + n, q + 1)
    else if !qcAllowed w then none
    else
      let a := bankClass b n q
      let mixed := (List.range q).any (fun q' =>
        let w' := queueConfig b n q'
        qcAllowed w' && bankClass b n q' == a && qcPart w' != p)
      if mixed then some (aValueOutOfRange, 0x4424 + n, q + 1)
      else if qcScores w && (!drEn (bankDelivery b n a) || !partOwnsVat b.cfg p (drVat (bankDelivery b n a))) then
        some (aValueOutOfRange, 0x4450 + n, a + 1)
      else none

/-- Table 13.7, check 5: the delivery record of an enabled scoring queue names a fenced vat. -/
def checkFenced (b : Bank) : Option ArmFail :=
  firstFail (bankQueues b) fun (n, q, w) =>
    let a := bankClass b n q
    if qcAllowed w && qcScores w && bankFenced b.cfg (drVat (bankDelivery b n a)) then some (aValueOutOfRange, 0x4450 + n, a + 1) else none

/-- Partitions and their slots. -/
def allSlots : List (Nat × Nat) := (List.range 15).flatMap (fun p => partSlots.map (fun k => (p + 1, k)))

/-- Table 13.7, check 6: an enabled slot's MC_GROUP is no sequenced group rooted on a die that owns one of the partition's ports. -/
def checkSlots (b : Bank) : Option ArmFail :=
  firstFail allSlots fun (p, k) =>
    let v := slotRecord b p k
    let r := mcRecord b (field v 36 1 % 64)
    if slotEn v && !(mcEn r && mcSequenced r &&
        (List.range 4).any (fun n => dieOf (mcRoot r) == 16 + n && partOwnsPort b.cfg p n))
    then some (aValueOutOfRange, 0x5040 + p, k + 1) else none

/-- Table 13.7, check 7: a vat changes partition, or a record changes EN, while it is not drained. -/
def checkDrained (s : State) (b : Bank) : Option ArmFail :=
  (firstFail (List.range 16) fun d =>
    let old := vatOwner s.cfg d
    let new := vatOwner b.cfg d
    if old != new && !vatDrained s d then some (aNotDrained, 0x5020 + (if new = 0 then old else new), 1) else none).orElse fun _ =>
  firstFail (List.range 15) fun i =>
    let p := i + 1
    if partEn (partRecord s.cfg p) != partEn (partRecord b.cfg p) && !partDrained s p then some (aNotDrained, 0x5020 + p, 1) else none

/-- Table 13.7, check 8: a slot with a RUNNING update loses EN. -/
def checkRunning (s : State) (b : Bank) : Option ArmFail :=
  firstFail allSlots fun (p, k) =>
    if (slotOf s p k).running.isSome && !slotEn (slotRecord b p k) then some (aStateConflict, 0x5040 + p, k + 1) else none

/-- R480: the mesh links of a die. -/
def dieLinksUp (s : State) (d : Nat) : Bool :=
  (tilesOf d).all (fun n => [1, 2, 3, 4].all (fun p => (neighbour n p).isNone || linkUp s n p))

/-- The vat dies that a bank returns. -/
def returning (s : State) (b : Bank) : List Nat := (List.range 16).filter (fun d => bankFenced s.cfg d && !bankFenced b.cfg d)

/-- Table 13.7, check 9: a returning die is not ready (R480). -/
def checkReturning (s : State) (b : Bank) : Option ArmFail :=
  firstFail (returning s b) fun d =>
    if vatState s d == 3 && (tgetD s.part.vats d {}).bist % 4 == 1 && dieLinksUp s d then none else some (aUnitDown, 0x5002, 0)

/-- Counts of a list of nodes added to a table. -/
def addNodes (t : Table Nat) (l : List Nat) (k : Nat) : Table Nat := l.foldl (fun t n => tinc t n k) t

/-- R279: the routers of group g's tree. -/
def mcRouters (b : Bank) (g : Nat) : List Nat :=
  ((mcTiles b g).flatMap (fun t => (xyHops 73 (mcRoot (mcRecord b g)) t).map (·.1))).eraseDups

/-- Groups taken in order, each adding what it needs at its nodes; the first that passes a limit at some node. -/
def firstOver (limit : Nat) (need : Nat → List Nat × Nat) : List Nat → Table Nat → Option Nat
  | [], _ => none
  | g :: gs, t =>
    let (nodes, k) := need g
    let t := addNodes t nodes k
    if nodes.any (fun n => decide (limit < tgetD t n 0)) then some g else firstOver limit need gs t

/-- Table 13.7, check 10: trees exceed 128 mask entries of a router, or 31 reduction contexts of a tile (R279, R295). -/
def checkTrees (b : Bank) : Option ArmFail :=
  match firstOver 128 (fun g => (mcRouters b g, 1)) ((mcListed b).filter (fun g => mcEn (mcRecord b g) && !mcNoTree b g)) [] with
  | some g => some (aResource, 0x2400 + g / 4, g % 4 + 1)
  | none =>
    match firstOver 31 (fun g => ((redTree (redRecord b g)).nodes, redK (redRecord b g)))
        ((redListed b).filter (fun g => redEn (redRecord b g) && !redNoTree b g)) [] with
    | some g => some (aResource, 0x2520 + g / 4, g % 4 + 1)
    | none => none

/-- R459 step 1, Table 13.7: the first check that fails, in order. -/
def armChecks (s : State) (b : Bank) : Option ArmFail :=
  (checkRanges b).orElse fun _ => (checkGroups b).orElse fun _ => (checkWindows b).orElse fun _ => (checkQueues b).orElse fun _ =>
  (checkFenced b).orElse fun _ => (checkSlots b).orElse fun _ => (checkDrained s b).orElse fun _ => (checkRunning s b).orElse fun _ =>
  (checkReturning s b).orElse fun _ => checkTrees b

/-! ### Messages of a switch -/

/-- The die service endpoints that take part now: of dies that are up, or that a switch is fencing or returning. -/
def endpointUp (s : State) (d : Nat) : Bool := !(outNow s).contains d

/-- Table 13.9, R459, R460: the managing engine sends EPOCH_ARM (0x51) or EPOCH_GO (0x52) with a KIND to a die service endpoint. -/
def sendEpoch (s : State) (op kind count d : Nat) : State :=
  send s (mgmtTile s.mgmtDie) (.endpoint s.mgmtDie 0x14)
    (mkPacket op (serviceTile d) 0 none 0 (leBytes 16 (kind + count % 4 * 2 ^ 4 + count % 2 ^ 64 * 2 ^ 64)))

def sendEpochAll (s : State) (op kind count : Nat) : State :=
  ((List.range 20).filter (endpointUp s)).foldl (fun s d => sendEpoch s op kind count d)
    (modEp s fun e => { e with resendAt := s.now })

/-- A die service endpoint takes the message of a switch that has arrived for it, if one has. -/
def takeEpoch (s : State) (d op kind : Nat) : State :=
  let keep := dropFirst (fun p : Packet => p.opcode.toNat == op && bits (leNat p.payload) 3 0 == kind)
  modFab s fun f => { f with arrived := tmod f.arrived (serviceTile d) [] keep }

/-- R480 steps 1 and 2: a returning die takes its last accepted program, and each slot's generation in force into bank 0. -/
def prepareReturn (s : State) (b : Bank) (d : Nat) : State :=
  let p := vatOwner b.cfg d
  let s := modVatDie s d fun v => { v with state := 4 }
  let s := match tget s.part.programs d with
    | some v => loadProgram s d v
    | none => s
  if p = 0 then s
  else partSlots.foldl (fun s k =>
    match imageInForce s p k with
    | none => s
    | some m =>
      let s := loadBank s d p 0 (mxiLoads m (d - partFirst (partRecord b.cfg p)))
      modVatDie s d fun v => { v with banks := tput v.banks (2 * k) (slotOf s p k).generation.toNat }) s

/-- R458, R459, R467: a switch starts: the checks of Table 13.7 (an operator's), then arming. -/
def startSwitch (s : State) (repair : Bool) (goAt : Nat) : State :=
  let b := nextBank s repair
  let s := modEp s fun e =>
    { e with kind := bitOf repair, goAt := goAt, result := 0, failIndex := 0, failSub := 0, timedOut := 0, armedTint := bankTint b.cfg }
  match (if repair then none else armChecks s b) with
  | some (code, idx, sub) => modEp s fun e => { e with result := code, failIndex := idx, failSub := sub, state := 0 }
  | none =>
    let s := (returning s b).foldl (fun s d => prepareReturn s b d) s
    let s := modEp s fun e =>
      { e with state := 1, armed := some b, armStart := s.now, reached := [], answered := [] }
    sendEpochAll s 0x51 1 b.count

/-- R458: why EPOCH_SWITCH is refused. -/
def epochSwitchAbort (s : State) (goAt : Nat) : Option Nat :=
  if s.ep.state ≠ 0 then some aEpochBusy else if s.now + 10000000000 < goAt then some aValueOutOfRange else none

/-- REPAIR_SWITCH_ARM (R350, R467): a die loss or link failure in service arms a repair switch once no switch is under way. -/
def execRepairSwitchArm (s : State) : Host.Outcome State Fault Refusal :=
  if s.ep.repairDue && s.ep.state = 0 && setting s 0x2613 0 ≠ 0 && mgmtUp s && s.ep.booted then
    .next (startSwitch (modEp s fun e => { e with repairDue := false }) true 0)
  else .next s

/-- EPOCH_ARM (R459 step 4): a die service endpoint has its tiles confirm their banks, and answers ARMED. -/
def execEpochArm (die : DieId) (s : State) : Host.Outcome State Fault Refusal :=
  let d := die.val
  if s.ep.state = 1 && endpointUp s d then
    let s := takeEpoch s d 0x51 1
    .next (modEp s fun e => { e with reached := if e.reached.contains d then e.reached else e.reached ++ [d] })
  else .next s

/-- EPOCH_ARMED (R459): the managing engine receives a die's ARMED; with every answer in, the state is ARMED. -/
def execEpochArmed (die : DieId) (s : State) : Host.Outcome State Fault Refusal :=
  let d := die.val
  if s.ep.state = 1 && s.ep.reached.contains d then
    let all := if s.ep.answered.contains d then s.ep.answered else s.ep.answered ++ [d]
    let done := (List.range 20).all (fun x => !endpointUp s x || all.contains x)
    .next (modEp s fun e => { e with answered := all, state := if done then 2 else 1 })
  else .next s

/-- R459, R466: arming ends with an abort code; the pending bank is unchanged, and dies being returned are FENCED again. -/
def abortSwitch (s : State) (code : Nat) : State :=
  let count := s.ep.count + 1
  let s := sendEpochAll s 0x51 2 count
  let s := modPart s fun p => { p with vats := p.vats.map (fun e => if e.2.state = 4 then (e.1, { e.2 with state := 3, banks := [] }) else e) }
  modEp s fun e => { e with state := 0, armed := none, result := code, answered := [] }

/-- EPOCH_ARM_ABORT (R459): a die's tiles discard the idle bank. -/
def execEpochArmAbort (die : DieId) (s : State) : Host.Outcome State Fault Refusal :=
  let d := die.val
  if s.ep.state = 0 then
    .next (modEp (takeEpoch s d 0x51 2) fun e => { e with reached := e.reached.filter (· != d) })
  else .next s

/-- EPOCH_ARM_TIMEOUT (R459): answers are missing after EPOCH_ARM_TIMEOUT. -/
def execEpochArmTimeout (s : State) : Host.Outcome State Fault Refusal :=
  if s.ep.state = 1 then .next (abortSwitch (timeReaches s (s.ep.armStart + 1000 * setting s 0x5013 0)) aUnitDown) else .next s

/-- R466: EPOCH_CANCEL; outside ARMING and ARMED it is refused. -/
def epochCancelAbort (s : State) (value : Nat) : Option Nat :=
  if value ≠ 1 then some aValueOutOfRange
  else if s.ep.state = 3 then some aEpochBusy else if s.ep.state = 0 then some aStateConflict else none

def epochCancel (s : State) : State := abortSwitch s aStateConflict

/-! ### GO -/

/-- R468, R469, R475, R479: what GO does at once to the slots and vats that the new configuration changes. -/
def goSlots (s : State) (old new : Bank) : State :=
  allSlots.foldl (fun s (p, k) =>
    let was := slotRecord old p k
    let is := slotRecord new p k
    let x := slotOf s p k
    let moved := partVats old.cfg p != partVats new.cfg p || field was 36 1 != field is 36 1
    let s := if moved && (match x.running with | some u => u.flipAt.isNone | none => false) then cancelRunning s p k 1 else s
    if slotEn was && !slotEn is then
      let s := endPending s p k 0x0302 1
      modSlot s p k fun y => { y with generation := 0, digest := [] }
    else s) s

def goVats (s : State) (old new : Bank) : State :=
  (List.range 16).foldl (fun s d =>
    let s := if vatOwner old.cfg d != vatOwner new.cfg d then modVatDie s d fun v => { v with banks := [] } else s
    if bankFenced new.cfg d && !bankFenced old.cfg d then modVatDie s d fun v => { v with state := 1 } else s) s

/-- EPOCH_GO_AT (R460): at GO_AT, or at once where it has passed, the managing engine sends GO: the new epoch is in force. -/
def execEpochGoAt (s : State) : Host.Outcome State Fault Refusal :=
  match s.ep.armed with
  | none => .next s
  | some b =>
    if s.ep.state ≠ 2 || !mgmtUp s then .next s
    else
      let before := s
      .next (withDevice (fun s =>
        let s := timeReaches s s.ep.goAt
        let old := s.ep.cur
        let s := modEp s fun e =>
          { e with
            count := b.count, state := 3, goTick := s.now, cur := b, old := some old, armed := none
            rewritten := if e.kind = 0 then e.pend.map (·.1) else [], pend := if e.kind = 0 then [] else e.pend
            latched := [], portsDone := [], retired := [], reached := [], answered := [], retiring := false }
        let s := modPart (goVats (goSlots s old b) old b) fun p => { p with digestDue := true }
        let s := railsFollow before s
        sendEpochAll s 0x52 1 b.count) s)

/-- The old bank while a switch drains. -/
def oldBank (s : State) : Bank := s.ep.old.getD s.ep.cur

/-- The tile is in service in the epoch in force. -/
def tileIn (s : State) (node : Nat) : Bool := tileUp s node && !(bankOut s.ep.cur).contains (dieOf node)

/-- R270: buckets whose settings change keep their tokens, clipped to the new burst; from is the state before the tile latched GO. -/
def goBuckets (before s : State) (node : Nat) : State :=
  (List.range 8).foldl (fun s tc =>
    let r := regSetting s node tc
    if r = regSetting before node tc then s
    else
      let t := min (bucketNow before node tc) (Int.ofNat (bits r 31 16) * 1000000000)
      modFab s fun f => { f with buckets := tput f.buckets (8 * node + tc) { tokens := t, at_ := s.now } }) s

/-- R401: the queues of a port that the new configuration takes away or changes. -/
def goQueues (s : State) (n : Nat) (old : Bank) : State :=
  let new := s.ep.cur
  (List.range 16).foldl (fun s q =>
    let w := queueConfig old n q
    let v := queueConfig new n q
    if (sqOf s n q).en && (!qcAllowed v || qcPart v != qcPart w || qcOrdered v != qcOrdered w) then
      portEvent (sqError (sqDisable s n q) n q 4) n 3
    else s) s

/-- R465: a reduction group rooted at the tile whose record or in-tree differs enters RESYNC. -/
def goReductions (s : State) (node : Nat) (old : Bank) : State :=
  let new := s.ep.cur
  ((redListed old ++ redListed new).eraseDups).foldl (fun s g =>
    let r := redRecord new g
    if redEn r && redRoot r = node && (r != redRecord old g || redNoTree old g != redNoTree new g) then redEnter s new g else s) s

/-- R288, R289, R310, R465: the multicast groups that the tile roots and whose records the switch has rewritten: every delivered-byte count restarts,
and a member that is new or was pruned joins. -/
def goMulticast (s : State) (node : Nat) (old : Bank) : State :=
  let new := s.ep.cur
  (mcRooted new node).foldl (fun s g =>
    let was := mcRecord old g
    let is := mcRecord new g
    if was = is && !s.ep.rewritten.contains (odKey (0x2400 + g / 4) (g % 4 + 1)) then s
    else
      (mcMembers is).foldl (fun s d =>
        if !(mcMembers was).contains d || !mcEn was || (mcOf s g).pruned.contains d then mcRejoin s g d
        else modAgent s g d fun a => { a with bytes := 0 }) s) s

/-- R280: waits of vat d on a group that is NOTREE in the new epoch fault. -/
def goNoTree (s : State) (d : Nat) (old : Bank) : State :=
  let new := s.ep.cur
  (mcListed new).foldl (fun s g =>
    if mcEn (mcRecord new g) && (mcMembers (mcRecord new g)).contains d && mcNoTree new g && !mcNoTree old g then mcFailWaits s g d else s) s

/-- R480: at g a returning die is IN_SERVICE, and its sequencer is started if it was running when fenced. -/
def goReturn (s : State) (d : Nat) : State :=
  let v := tgetD s.part.vats d {}
  if v.state = 4 then
    let s := modVatDie s d fun x => { x with state := 0 }
    let q := (seqOf s d).state
    if v.seqWasRunning && (q = 1 || q = 4 || q = 5) && vatOwner s.cfg d ≠ 0 then seqBegin s d else s
  else s

/-- EPOCH_GO (R461, R443, R465, R270): a tile latches GO at its tick g. The admission engine's tile installs its bank. -/
def execEpochGo (node : NodeId) (s : State) : Host.Outcome State Fault Refusal :=
  let n := node.toNat
  let d := dieOf n
  if s.ep.state ≠ 3 || !tileIn s n || (tget s.ep.latched n).isSome then .next s
  else
    let old := oldBank s
    let before := s
    let s := takeEpoch s d 0x52 1
    let s := modEp s fun e => { e with latched := tput e.latched n s.now }
    let s := modInteg s fun g => { g with badTables := g.badTables.filter (fun x => x.1 != n) }
    let s := goBuckets before s n
    let s := goMulticast (goReductions s n old) n old
    let s := if d < 16 && n = schedTile d then goNoTree s d old else s
    let s := if d < 16 && n = seqTile d then goReturn s d else s
    .next (if 16 ≤ d && n = admissionTile (d - 16) then goQueues (installAdmission s (d - 16) old) (d - 16) old else s)

/-! ### Retirement -/

/-- R461: port_done. -/
def portDone (s : State) (node : Nat) : Bool :=
  (List.range 64).all (fun i =>
    let t := trackerOf s node i
    !t.inUse || t.unacked.isEmpty || t.epoch == s.ep.count) &&
  ((mcRooted (oldBank s) node) ++ mcRooted s.ep.cur node).all (fun g => (mcOf s g).pending.all (fun e => e.epoch == s.ep.count))

/-- R463: every tile in service in the new epoch has contributed, so the engine sends RETIRE. -/
def retireIfDone (s : State) : State :=
  if s.ep.state = 3 && !s.ep.retiring && allTiles.all (fun n => !tileIn s n || s.ep.portsDone.contains n) then
    sendEpochAll (modEp s fun e => { e with retiring := true, retireTick := s.now, answered := [] }) 0x52 2 s.ep.count
  else s

/-- R462: the tile contributes to the retirement wave. -/
def contribute (s : State) (node : Nat) : State :=
  retireIfDone (modEp s fun e => { e with portsDone := if e.portsDone.contains node then e.portsDone else e.portsDone ++ [node] })

/-- PORT_DONE (R462). -/
def execPortDone (node : NodeId) (s : State) : Host.Outcome State Fault Refusal :=
  let n := node.toNat
  if s.ep.state = 3 && tileIn s n && (tget s.ep.latched n).isSome && !s.ep.portsDone.contains n && portDone s n then .next (contribute s n)
  else .next s

/-- R338, R462: the tile's streams that hold old-epoch packets end at their oldest unacknowledged packet. -/
def endOldStreams (s : State) (node : Nat) : State :=
  (List.range 64).foldl (fun s i =>
    let t := trackerOf s node i
    match t.unacked with
    | u :: _ =>
      if t.inUse && t.epoch != s.ep.count then
        let s := modEp s fun e => { e with timedOut := Nat.min 65535 (e.timedOut + 1) }
        let s := report s
          { cause := 0x28, cls := 2, unit := 1, source := node, peer := some t.dest, stream := some (i, t.sgen, u.seq)
            partition := some u.pkt.partition.toNat, detail := t.epoch }
        endStream s node i u.seq 0x28
      else s
    | [] => s) s

/-- R461, R462: old-epoch deliveries of the groups rooted at the tile end with the members that have not acknowledged them. -/
def endOldGroups (s : State) (node : Nat) : State :=
  (mcRooted (oldBank s) node).foldl (fun s g =>
    (((mcOf s g).pending.filter (fun e => e.epoch != s.ep.count)).flatMap (·.waiting)).eraseDups.foldl (fun s d => mcPrune s g d 0x58) s) s

/-- EPOCH_DRAIN_TIMEOUT (R462, R338). -/
def execEpochDrainTimeout (node : NodeId) (s : State) : Host.Outcome State Fault Refusal :=
  let n := node.toNat
  match tget s.ep.latched n with
  | none => .next s
  | some g =>
    if s.ep.state ≠ 3 || !tileIn s n || s.ep.portsDone.contains n then .next s
    else
      let s := timeReaches s (g + 1000 * setting s 0x5012 0)
      .next (contribute (settleAll (endOldGroups (endOldStreams s n) n)) n)

/-- R479, R481: the fenced die is reset: its sequencer's state is remembered, and it is TESTING. -/
def fenceReset (s : State) (d : Nat) : State :=
  let v := tgetD s.part.vats d {}
  if d < 16 && v.state = 1 then
    let q := (seqOf s d).state
    let s := resetTiles s d
    let s := modVatDie s d fun x => { x with state := 2, seqWasRunning := q == 2 || q == 3, banks := [] }
    let s := modTime s fun t => { t with dieReset := if t.dieReset.contains d then t.dieReset else t.dieReset ++ [d] }
    modPow s fun w => { w with lost := w.lost.filter (· != d) }
  else s

/-- EPOCH_RETIRE (R463, R479): a tile receives RETIRE and frees the old bank; a die that the switch has fenced is then reset. -/
def execEpochRetire (node : NodeId) (s : State) : Host.Outcome State Fault Refusal :=
  let n := node.toNat
  if s.ep.state ≠ 3 || !s.ep.retiring then .next s
  else
    let s := takeEpoch s (dieOf n) 0x52 2
    if tileIn s n then .next (modEp s fun e => { e with retired := if e.retired.contains n then e.retired else e.retired ++ [n] })
    else .next (fenceReset s (dieOf n))

/-- R349: partitions whose cause no longer holds return to service. -/
def healPartitions (s : State) : State :=
  s.integ.failed.foldl (fun s e =>
    let p := e.1
    let vats := (partVats s.cfg p).all (fun d => dieUp s d || bankFenced s.cfg d)
    let port := (List.range 4).any (fun n => partOwnsPort s.cfg p n && dieUp s (16 + n))
    if vats && port then partitionNote (modInteg s fun g => { g with failed := tdel g.failed p }) p else s) s

/-- EPOCH_RETIRED (R463, R349, R482): a die answers RETIRED; with every answer in, the state is IDLE. -/
def execEpochRetired (die : DieId) (s : State) : Host.Outcome State Fault Refusal :=
  let d := die.val
  if s.ep.state ≠ 3 || !s.ep.retiring || !(tilesOf d).all (fun n => s.ep.retired.contains n) then .next s
  else
    let all := if s.ep.answered.contains d then s.ep.answered else s.ep.answered ++ [d]
    let done := (List.range 20).all (fun x => !dieUp s x || all.contains x) && (List.range 16).all (fun x => vatState s x != 1)
    let s := modEp s fun e => { e with answered := all }
    if done then
      .next (withDevice (fun s =>
        let s := modPow s fun w =>
          { w with
            booting := false
            storeDue := if s.ep.kind = 0 && s.ep.booted then w.storeDue.orElse (fun _ => some s.now) else w.storeDue }
        let s := modEp s fun e => { e with state := 0, old := none, latched := [], retiring := false, booted := true }
        let s := healPartitions s
        modPow s fun w => { w with absent := !serviceSet s && !scanning s }) s)
    else .next s

/-- EPOCH_RESEND (R464): 100 µs after the last sending the engine repeats EPOCH_ARM, GO or RETIRE to an endpoint that has not answered; it also asks
again whether every tile has finished (R463). -/
def execEpochResend (die : DieId) (s : State) : Host.Outcome State Fault Refusal :=
  let d := die.val
  if (s.ep.state = 1 || s.ep.state = 3) && endpointUp s d && !s.ep.answered.contains d then
    let s := timeReaches s (s.ep.resendAt + 100000)
    let s := modEp s fun e => { e with resendAt := s.now }
    if s.ep.state = 1 then .next (sendEpoch s 0x51 1 (s.ep.count + 1) d)
    else
      let s := retireIfDone s
      .next (sendEpoch s 0x52 (if s.ep.retiring then 2 else 1) s.ep.count d)
  else .next s

/-- BIST_DONE (R479): the result is written; a die that passes leaves reset, one that fails is held in it. Both are FENCED. -/
def execBistDone (vat : VatId) (pass : Bool) (block : BitVec 16) (s : State) : Host.Outcome State Fault Refusal :=
  let d := vat.val
  if vatState s d = 2 then
    let s := modVatDie s d fun x => { x with state := 3, bist := if pass then 1 else 2 + block.toNat * 2 ^ 16 }
    .next (if pass then modTime s fun t => { t with dieReset := t.dieReset.filter (· != d) } else s)
  else .next s

end Sys2Proof.Machine
end

