-- ==== Sys2Proof/Machine/Observe.lean ====
section
/-!
DEFINITION. Machine/Observe.lean: counters cleared (R538), trace sent and appended to the capture buffers (R545 to R554), FREEZE and snapshots
(R559 to R563).
-/
namespace Sys2Proof.Machine

/-- COUNTER_CLEAR (R538, R540). -/
def counterClear (s : State) (d : Nat) : State := modObs s fun o => clearCounters o d s.now

/-! ### Capture buffers -/

/-- A buffer's configuration (Table 15.7). -/
def bufConfig (s : State) (b : Nat) : Nat := setting s (0x7060 + b) 1
def bcEn (c : Nat) : Bool := bitAt c 0
def bcTriggered (c : Nat) : Bool := bits c 2 1 == 1
def bcFirst (c : Nat) : Nat := bits c 10 6
def bcTiles (c : Nat) : Nat := bits c 15 11
def bcOwner (c : Nat) : Nat := bits c 19 16
def bcReserve (c : Nat) : Nat := bits c 34 20 * 1024
def bcKind (c : Nat) : Nat := bits c 37 36

/-- S of R551, and the bytes of the ring. -/
def bcSize (c : Nat) : Nat := bcTiles c * 1048576
def bcRing (c : Nat) : Nat := if bcTriggered c then bcSize c - bcReserve c else bcSize c

/-- R547: a buffer's first tile. -/
def bufTile (b c : Nat) : Nat := innerTile (16 + b / 4) (8 + bcFirst c)

def bufOf (s : State) (b : Nat) : Capture := tgetD s.obs.buffers b {}
def modBuf (s : State) (b : Nat) (f : Capture → Capture) : State := modObs s fun o => { o with buffers := tmod o.buffers b {} f }

/-- A message that the buffer itself writes. Its unit is the tile's SRAM (DESIGN CHOICE, notes/assumptions/42.md). -/
def bufMsg (s : State) (b cfg type payload : Nat) (ext : Option Nat) : Bytes :=
  TraceMsg.bytes { time := s.now, source := bufTile b cfg, unit := 2, partition := 0, type := type, payload := payload, ext := ext }

/-- The oldest messages go until the rest fits. -/
def ringFit : Nat → Nat → List Bytes → List Bytes
  | 0, _, l => l
  | f + 1, n, l => if (l.map List.length).sum ≤ n then l else ringFit f n (l.drop 1)

/-- One message into the ring; it overwrites the oldest. -/
def ringAppend (size : Nat) (m : Bytes) (x : Capture) : Capture :=
  if size < m.length then x else
    { x with ring := ringFit 4 size (x.ring ++ [m]), ringPos := x.ringPos + m.length }

/-- R549: the message would start in another 64 KiB block of buffer space, or another pass of the ring, than the one before it. -/
def newBlock (size base pos last : Nat) : Bool :=
  size != 0 && (pos / size != last / size || (base + pos % size) / 65536 != (base + last % size) / 65536)

/-- The start of the last message of a list that ends at pos. -/
def lastStart (l : List Bytes) (pos : Nat) : Nat := pos - (match l.getLast? with | some m => m.length | none => 0)

/-- A message into the ring, behind a BUFFER_TIME where R549 asks for one. -/
def putRing (s : State) (b : Nat) (m : Bytes) : State :=
  modBuf s b fun x =>
    let n := bcRing x.cfg
    let x := if newBlock n 0 x.ringPos (lastStart x.ring x.ringPos) then ringAppend n (bufMsg s b x.cfg 0x31 0 (some (s.now % 2 ^ 64))) x else x
    ringAppend n m x

/-- A message into the reserve. -/
def resAppend (m : Bytes) (x : Capture) : Capture := { x with reserve := x.reserve ++ [m], resPos := x.resPos + m.length }

/-- R553: what a message of the reserve is written as. -/
def resParts (s : State) (b : Nat) (x : Capture) (m : Bytes) : List Bytes :=
  if newBlock (bcReserve x.cfg) (bcRing x.cfg) x.resPos (lastStart x.reserve x.resPos)
  then [bufMsg s b x.cfg 0x31 0 (some (s.now % 2 ^ 64)), m] else [m]

/-- A report of a buffer's first tile. -/
def bufReport (s : State) (b cause : Nat) : State :=
  report s { cause := cause, cls := 1, unit := 2, source := bufTile b (bufOf s b).cfg, detail := b }

/-- R552: the trigger fires: the ring is frozen; BUFFER_TIME and TRIGGER open the reserve. -/
def triggerFire (s : State) (b kind : Nat) (m : Bytes) : State :=
  let s := modBuf s b fun x =>
    let x := { x with state := 2, trigTick := s.now, resPos := 0, reserve := [] }
    resAppend (bufMsg s b x.cfg 0x32 kind (some (leNat (m.take 16)))) (resAppend (bufMsg s b x.cfg 0x31 0 (some (s.now % 2 ^ 64))) x)
  bufReport s b 0xD1

/-- R552, Table 15.7: a kept message meets the trigger condition. -/
def triggers (c : Nat) (m : Bytes) : Bool :=
  let w := field m 0 16
  let type := bits w 55 48
  let src := bits c 95 84
  bcTriggered c && (src == 0 || src == bits w 79 68) && (!bitAt c 48 || bits w 15 0 == bits c 79 64) &&
    (if bcKind c = 1 then type == bits c 47 40
     else if bcKind c = 2 then type == 0x21 && bits w 18 16 == 3 && bits w 26 19 == 0x10
     else if bcKind c = 3 then type == 0x27 && decide (bits c 83 80 ≤ bits w 15 8)
     else false)

/-- R548, R551 to R553: the buffer performs one message. -/
def bufAppend (b : Nat) (s : State) (m : Bytes) : State :=
  let x := bufOf s b
  let c := x.cfg
  if x.state = 3 then modBuf s b fun x => { x with droppedAfter := x.droppedAfter + 1 }
  else if x.state = 0 then s
  else if bcOwner c ≠ 0 && bits (field m 0 16) 59 56 ≠ bcOwner c then modBuf s b fun x => { x with filtered := x.filtered + 1 }
  else if x.state = 1 then
    let s := putRing s b m
    if triggers c m then triggerFire s b (bcKind c) m else s
  else
    let s := if triggers c m then modBuf s b fun x => { x with ignored := x.ignored + 1 } else s
    let parts := resParts s b x m
    if x.resPos + (parts.map List.length).sum + 32 ≤ bcReserve c then modBuf s b fun x => parts.foldl (fun x p => resAppend p x) x
    else
      let t := bits (field m 0 16) 127 80
      let s := modBuf s b fun x => { resAppend (bufMsg s b c 0x33 t none) x with state := 3, readable := true }
      bufReport s b 0xD0

/-- ARM (R550): the buffer is empty and CAPTURING, with BUFFER_TIME as its first message. -/
def bufferArm (s : State) (b : Nat) : State :=
  let c := bufConfig s b
  modBuf s b fun _ =>
    ringAppend (bcRing c) (bufMsg s b c 0x31 0 (some (s.now % 2 ^ 64))) { state := 1, cfg := c }

/-- STOP (R550) in CAPTURING or POST; elsewhere it has no effect. -/
def bufferStop (s : State) (b : Nat) : State :=
  let x := bufOf s b
  let m := bufMsg s b x.cfg 0x33 0 none
  if x.state = 1 then modBuf s b fun x => { (if bcRing x.cfg = 0 then resAppend m x else ringAppend (bcRing x.cfg) m x) with state := 3, readable := true }
  else if x.state = 2 then modBuf s b fun x => { resAppend m x with state := 3, readable := true }
  else s

/-- R552: why a TRIGGER command is refused, and its effect. -/
def bufferTriggerOk (s : State) (b : Nat) : Bool := (bufOf s b).state == 1 && bcTriggered (bufOf s b).cfg
def bufferTrigger (s : State) (b : Nat) : State := triggerFire s b 0 []

/-- DISARM (R550, R554): a capture stays readable only after a STOP. -/
def bufferDisarm (s : State) (b : Nat) : State :=
  modBuf s b fun x => { x with state := 0, readable := x.readable && x.state != 1 && x.state != 2 }

/-- Whether TRACE_DATA can be read (R554), and the bytes of the capture in capture order. -/
def captureReadable (s : State) (b : Nat) : Bool := (bufOf s b).readable
def captureBytes (s : State) (b : Nat) : Bytes := (bufOf s b).ring.flatten ++ (bufOf s b).reserve.flatten

/-- Table 15.8. -/
def bufStatus (s : State) (b : Nat) : Bytes :=
  let x := bufOf s b
  leBytes 8 x.state ++ leBytes 4 (captureBytes s b).length ++ leBytes 4 x.droppedAfter ++ leBytes 4 x.filtered ++ leBytes 4 x.ignored ++
    leBytes 8 x.trigTick

/-! ### Trace -/

/-- The messages that a TRACE_APPEND takes: whole ones, 512 bytes at most. -/
def stageTake : Nat → List TraceMsg → List TraceMsg × List TraceMsg
  | _, [] => ([], [])
  | room, m :: l =>
    if room < m.size then ([], m :: l)
    else
      let r := stageTake (room - m.size) l
      (m :: r.1, r.2)

/-- TRACE_STAGE_SEND (R545, R546): with 512 bytes held, or 5 µs after the oldest message was staged, the tile sends its messages to the first
tile of its die's buffer. A disabled buffer, or one whose tile is out of service, loses them. -/
def execTraceStageSend (node : NodeId) (s : State) : Host.Outcome State Fault Refusal :=
  let n := node.toNat
  let st := tgetD s.obs.stages n {}
  if st.msgs.isEmpty || !tileUp s n then .next s
  else
    let s := if (st.msgs.map TraceMsg.size).sum < 512 then timeReaches s (st.oldest + 5000) else s
    let (out, rest) := stageTake 512 st.msgs
    let b := setting s (0x7070 + dieOf n) 0 % 16
    let c := bufConfig s b
    let oldest := match rest with | m :: _ => m.time | [] => s.now
    let lost := !bcEn c || !tileUp s (bufTile b c)
    let s := modObs s fun o => { o with stages := tmod o.stages n {} (fun x =>
      let x := { x with msgs := rest, oldest := oldest }
      if lost then { x with dropped := x.dropped + out.length, droppedAt := if x.dropped = 0 then s.now else x.droppedAt } else x) }
    .next (if lost then s else send s n (.trace n) (mkPacket 5 (bufTile b c) 0 none 0 (out.flatMap TraceMsg.bytes)))

/-- The capture buffer whose first tile a node is. -/
def bufferAt (s : State) (n : Nat) : Option Nat :=
  (List.range 16).find? (fun b => bcEn (bufConfig s b) && bufTile b (bufConfig s b) == n)

/-- TRACE_APPEND (R450, R548): the buffer's first tile performs the messages of a packet; no other tile performs one. -/
def execTraceAppend (node : NodeId) (p : Packet) (s : State) : Host.Outcome State Fault Refusal :=
  let n := node.toNat
  onArrival node p [5] s fun s =>
    rxArrive s n p fun s =>
      match bufferAt s n with
      | none => refuse s n p 0x41 0 2
      | some b => (traceMsgs p.payload).foldl (bufAppend b) s

/-! ### FREEZE and snapshots -/

def snapOf (s : State) (d : Nat) : Snapshot := tgetD s.obs.snaps d {}
def modSnap (s : State) (d : Nat) (f : Snapshot → Snapshot) : State := modObs s fun o => { o with snaps := tmod o.snaps d {} f }

/-- R556: a die's maintenance ring works. -/
def ringUp (s : State) (d : Nat) : Bool :=
  decide (d < 20) && !s.integ.ringFault.contains d && !s.pow.lost.contains d && !s.time.dieReset.contains d

def maskDies (m : Nat) : List Nat := (List.range 20).filter (bitAt m)

/-- R559: a die that holds, awaits or has been sent a snapshot. -/
def snapBusy (s : State) (d : Nat) : Bool := (snapOf s d).state != 0 || (snapOf s d).sent.isSome

/-- R559: T_F of a request; 0 means 20 µs from now. -/
def freezeTick (s : State) (tf : Nat) : Nat := if tf = 0 then s.now + 20000 else tf

/-- R559: why a FREEZE_CMD is refused: VALUE_OUT_OF_RANGE, STATE_CONFLICT. -/
def freezeAbort (s : State) (dies : Nat) (overwrite : Bool) (tf : Nat) : Option Nat :=
  let t := freezeTick s tf
  if t < s.now || s.now + 10000000000 < t then some 0x06010006
  else if !overwrite && (maskDies dies).any (snapBusy s) then some 0x08010006
  else none

/-- R559: the managing engine sends a FREEZE to the die service endpoints whose rings answer. -/
def freezeSend (s : State) (dies : List Nat) (tf reason tag : Nat) : State :=
  let n := s.obs.snapSeq + 1
  let s := modObs s fun o => { o with snapSeq := n }
  (dies.filter (ringUp s)).foldl (fun s d => modSnap s d fun x => { x with sent := some { tf := tf, reason := reason, seq := n, tag := tag } }) s

/-- Table 7.6: a header as its 32 bytes. -/
def packetHeader (p : Packet) : Bytes :=
  leBytes 32 (p.opcode.toNat + p.mclass.toNat * 2 ^ 8 + p.tc.toNat * 2 ^ 11 + p.rset.toNat * 2 ^ 14 + bitOf p.wpValid * 2 ^ 16 +
    p.epoch.toNat * 2 ^ 17 + p.partition.toNat * 2 ^ 19 + bitOf p.poison * 2 ^ 23 + p.check.toNat * 2 ^ 24 + bitOf p.ackNow * 2 ^ 26 +
    bitOf p.opening * 2 ^ 27 + p.dest.toNat * 2 ^ 32 + p.src.toNat * 2 ^ 44 + p.waypoint.toNat * 2 ^ 56 + p.stream.toNat * 2 ^ 68 +
    p.sgen.toNat * 2 ^ 74 + p.seq.toNat * 2 ^ 84 + p.length.toNat * 2 ^ 100 + p.tag.toNat * 2 ^ 128 + bitOf p.tagValid * 2 ^ 144 +
    p.aux.toNat * 2 ^ 160 + p.addr.toNat * 2 ^ 192)

/-- The input channels of a tile, port by port. -/
def channels : List (Nat × Nat) := (List.range 5).flatMap (fun p => (List.range 16).map (fun v => (p, v)))

/-- Credits that an output port of a router holds for a channel. -/
def creditsHeld (s : State) (n port vc : Nat) : Nat :=
  if port = 0 then bufferDepth n 0 vc
  else match neighbour n port with
    | none => 0
    | some m => bufferDepth m (opposite port) vc - bufferUse s m (opposite port) vc

/-- Table 15.10, bytes 2,784 on: a tracker. -/
def snapTracker (t : Tracker) : Bytes :=
  leBytes 8 (t.dest % 2 ^ 12 + t.sgen % 2 ^ 10 * 2 ^ 12 + t.unacked.length % 2 ^ 9 * 2 ^ 22 + t.epoch % 4 * 2 ^ 31 + bitOf t.inUse * 2 ^ 33)

/-- Table 15.10, bytes 3,296 on: a fibre slot. -/
def snapFibre (x : Option Fibre) : Bytes :=
  match x with
  | none => zeros 16
  | some x =>
    let w : Nat × Nat := match x.wait with
      | some (.sync cell _ cond _ _) => (cellAddr cell, cond.value)
      | some (.mc g t _) => (g, t)
      | _ => (0, 0)
    leBytes 16 (x.state % 8 + x.opIndex % 256 * 2 ^ 8 + x.batch % 2 ^ 16 * 2 ^ 16 + (match x.tag with | some t => t % 2 ^ 16 + 2 ^ 16 | none => 0) * 2 ^ 32 +
      w.1 % 2 ^ 32 * 2 ^ 64 + w.2 % 2 ^ 32 * 2 ^ 96)

/-- Table 15.10, bytes 7,392 on: a sync cell. The code that names a waiter's kind is left open: a free value. -/
def snapCell (c : Cell) (draw : Nat) : Bytes :=
  leBytes 8 (cellState c) ++ leBytes 8 (cellConfig c) ++
    padTo (c.waiters.zipIdx.flatMap (fun e => leBytes 4 (e.1.src % 2 ^ 12 + (Config.free (draw + e.2)).toNat % 16 * 2 ^ 12))) 256 ++ zeros 16

/-- Table 15.10, bytes 8,544 on: the sequencer. -/
def snapSeqPart (q : Sequencer) : Bytes :=
  padTo (leBytes 32 (q.state % 256 + q.pc % 2 ^ 16 * 2 ^ 8) ++
    (List.range 32).flatMap (fun r => leBytes 8 (if r = 0 then 0 else (regGet q.regs r).toNat)) ++
    (List.range 8).flatMap (fun l =>
      let c := q.loops.getD l {}
      leBytes 8 (bitOf c.active + c.count % 2 ^ 24 * 2 ^ 1 + c.index % 2 ^ 24 * 2 ^ 25))) 384

/-- Table 15.10: a tile's record up to its unit detail. -/
def snapRecord (s : State) (n : Nat) (x : Snapshot) (late : Bool) (draw : Nat) : Bytes :=
  let d := dieOf n
  let l := localOf n
  let unlocked := (tgetD s.time.units n {}).state != 0
  padTo (leBytes 8 x.tf ++ leBytes 8 s.now ++ leBytes 2 n ++ leBytes 1 (bitOf late + bitOf unlocked * 2 + 4) ++ leBytes 1 x.reason ++
    leBytes 4 x.seq ++ leBytes 2 x.tag) 64 ++
  channels.flatMap (fun c =>
    match s.fab.net.find? (fun f => f.node == n && f.port == c.1 && f.vc == c.2) with | some f => packetHeader f.pkt | none => zeros 32) ++
  channels.flatMap (fun c => leBytes 1 (bufferUse s n c.1 c.2)) ++
  channels.flatMap (fun c => leBytes 1 (creditsHeld s n c.1 c.2)) ++
  (List.range 64).flatMap (fun i => snapTracker (trackerOf s n i)) ++
  (List.range 256).flatMap (fun i => snapFibre (if d < 16 then fibreAt s d l i else none)) ++
  (List.range 4).flatMap (fun k => snapCell (cellOf s (256 * d + 4 * l + k)) (draw + 932 + 64 * k)) ++
  (if d < 16 && n = seqTile d then snapSeqPart (seqOf s d) else zeros 384)

/-- R560: the tile captures its record; when it is the last of its die, the die is HELD and the snapshot is logged. -/
def snapCapture (s : State) (n : Nat) (late : Bool) : State :=
  let d := dieOf n
  let x := snapOf s d
  let base := s.freeCount
  let r := snapRecord s n x late base
  let s := takeDraws s 1188
  let s := modSnap s d fun x =>
    { x with records := tput x.records (localOf n) r, detail := tput x.detail (localOf n) base, late := x.late + bitOf late }
  if (snapOf s d).records.length = 64 then
    let s := modSnap s d fun x => { x with state := 2 }
    let s := report s { cause := 0xD2, cls := 1, unit := 0x17, source := serviceTile d, detail := 2 ^ d }
    let k := (snapOf s d).late
    if 0 < k then report s { cause := 0xD3, cls := 1, unit := 0x17, source := serviceTile d, detail := k } else s
  else s

/-- FREEZE_LATCH (R559, R560): a tile latches the FREEZE that its die has been sent; the die is PENDING. A tile that latches it after T_F captures at
once, LATE. -/
def execFreezeLatch (node : NodeId) (s : State) : Host.Outcome State Fault Refusal :=
  let n := node.toNat
  let d := dieOf n
  if !ringUp s d then .next s
  else
    let s := match (snapOf s d).sent with
      | none => s
      | some f => modSnap s d fun _ => { state := 1, tf := f.tf, reason := f.reason, seq := f.seq, tag := f.tag }
    let x := snapOf s d
    if x.state ≠ 1 || (tget x.latched (localOf n)).isSome then .next s
    else
      let s := modSnap s d fun x => { x with latched := tput x.latched (localOf n) s.now }
      .next (if x.tf < s.now then snapCapture s n true else s)

/-- SNAPSHOT_CAPTURE (R560): a tile that has latched the FREEZE captures at T_F. -/
def execSnapshotCapture (node : NodeId) (s : State) : Host.Outcome State Fault Refusal :=
  let n := node.toNat
  let d := dieOf n
  let x := snapOf s d
  if x.state ≠ 1 || (tget x.latched (localOf n)).isNone || (tget x.records (localOf n)).isSome || s.time.dieReset.contains d then .next s
  else .next (snapCapture (timeReaches s x.tf) n false)

/-- SNAPSHOT_RELEASE (R560): HELD dies' snapshots are empty, and their event rings record again. -/
def snapshotRelease (s : State) (dies : Nat) : State :=
  (maskDies dies).foldl (fun s d => if (snapOf s d).state = 2 then modSnap s d fun x => { sent := x.sent } else s) s

/-- SNAPSHOT_ARM of a partition (R562). -/
def snapArmed (s : State) (p : Nat) : Bool := setting s 0x70E0 p == 1

/-- DEADLINE_SNAPSHOT_REQUEST (R562): a context still LIVE when SNAPSHOT_LEAD before its deadline has come asks for a FREEZE at the deadline; the
managing engine accepts the first request and disarms the partition. -/
def execDeadlineSnapshotRequest (port : PortId) (ctx : CtxId) (s : State) : Host.Outcome State Fault Refusal :=
  let p := port.val
  let c := ctx.val
  let x := ctxOf s p c
  if x.state ≠ 1 || x.snapAsked || !snapArmed s x.partition || x.deadline < s.now || !dieUp s (16 + p) then .next s
  else
    let s := timeReaches s (Nat.max x.admitTick (x.deadline - 1000 * setting s 0x70E1 0))
    let s := modCtx s p c fun x => { x with snapAsked := true }
    let dies := partVats s.cfg x.partition ++ [16 + p]
    if dies.any (snapBusy s) || !mgmtUp s then .next s
    else
      let s := modDict s fun t => { t with rw := tput t.rw (odKey 0x70E0 x.partition) [0] }
      .next (freezeSend s dies x.deadline 2 (ctxTag p c x.gen))

end Sys2Proof.Machine
end

