-- ==== Sys2Proof/Machine/Sec.lean ====
section
/-!
DEFINITION. Machine/Sec.lean: sessions and role secrets (R62 to R69, R579 to R584, R636), zeroisation (R591 to R593), attestation (R594), unlock tokens
(R595, R596), entry to SCAN (R599), the firmware floor (R590), the random generators and self-tests (R577, R578).
-/
namespace Sys2Proof.Machine

/-! ### Who asks, and what a write answers -/

/-- A client with the role that its session gives it (R62): endpoint, client number, session ID, role and partition. -/
structure Caller where
  ep : Nat
  client : Nat
  session : Nat := 0
  role : Nat := 0
  part : Nat := 0
  deriving DecidableEq, Repr

/-- What a write ends in: an abort code, or an effect and a session ID (R86), each with the state it leaves. -/
inductive WriteOut where
  | refused (code : Nat) (s : State)
  | ok (effect session : Nat) (s : State)

/-- Effects of R86. -/
def applied (s : State) : WriteOut := .ok 0 0 s
def started (s : State) : WriteOut := .ok 3 0 s

/-- A command of one value: another value is out of range. -/
def onlyOne (v : Nat) (k : Nat) (w : WriteOut) (s : State) : WriteOut := if v = k then w else .refused aValueOutOfRange s

def aAccessDenied : Nat := 0x08010001
def aSessionInvalid : Nat := 0x08010002
def aAuthFailed : Nat := 0x08010003

/-- Index of the deckle of the managing die, whose security engine serves the dictionary. -/
def mgmtDeckle (s : State) : Nat := s.mgmtDie - 16

/-! ### Unlocks (R595, R596) -/

/-- Scopes in force. -/
def scopes (s : State) : Nat :=
  match s.sec.unlock with
  | some (sc, e) => if s.now < e then sc else 0
  | none => 0

/-- R596: every Service session closes unless the new scopes include SERVICE_SESSION. -/
def closeService (s : State) (scope : Nat) : State :=
  if bitAt scope 0 then s else modDict s fun d => { d with sessions := d.sessions.filter (fun e => e.2.role != 4) }

/-- R596: the unlock ends: 1 duration, 2 revoke. -/
def endUnlock (s : State) (why : Nat) : State :=
  match s.sec.unlock with
  | none => s
  | some _ => secReport (closeService (modSec s fun v => { v with unlock := none }) 0) (mgmtDeckle s) 0xC4 1 why

/-- UNLOCK_EXPIRY (R596): the unlock's duration has passed. -/
def execUnlockExpiry (s : State) : Host.Outcome State Fault Refusal :=
  match s.sec.unlock with
  | none => .next s
  | some (_, e) => .next (endUnlock (timeReaches s e) 1)

/-- Table 16.9: the format of a token. -/
def tokenFormat (t : Bytes) : Bool :=
  field t 0 4 == 0x4B4F5455 && field t 4 2 == 1 && field t 6 2 == 0 && allZero (slice t 80 48) && field t 56 4 != 0 &&
    decide (field t 56 4 < 32) && decide (60 ≤ field t 60 4) && decide (field t 60 4 ≤ 604800)

/-- The service root public key as its 97 bytes. -/
def serviceRootKey : Bytes := leBytes 97 Config.serviceRootKey.toNat
def serviceAnchor : Bytes := leBytes 48 Config.serviceAnchor.toNat
def firmwareAnchor : Bytes := leBytes 48 Config.firmwareAnchor.toNat

/-- The unlock nonce; before a generator has made one it reads 0 (DESIGN CHOICE, notes/assumptions/43.md). -/
def unlockNonce (s : State) : Bytes := if s.sec.unlockNonce.isEmpty then zeros 32 else s.sec.unlockNonce

/-- R595: the first check that a token fails: the abort and the DETAIL of UNLOCK_REFUSED. -/
def tokenCheck (s : State) (t : Bytes) : Option (Nat × Nat) :=
  if !tokenFormat t then some (aValueOutOfRange, 1)
  else if slice t 8 16 != serialBytes then some (aAuthFailed, 2)
  else if slice t 24 32 != unlockNonce s then some (aAuthFailed, 3)
  else if sha384 serviceRootKey != serviceAnchor || !ecdsaVerify serviceRootKey (sha384 (t.take 128)) (slice t 128 96) then
    some (aAuthFailed, 4)
  else none

/-- A new unlock nonce. -/
def newNonce (s : State) : State :=
  let (b, s) := drawBytes 32 s
  modSec s fun v => { v with unlockNonce := b }

/-- UNLOCK_TOKEN written (R595, R596). -/
def unlockToken (s : State) (t : Bytes) : WriteOut :=
  match tokenCheck s t with
  | some (code, d) =>
    .refused code (secReport (modSec s fun v => { v with counts := bump v.counts 3 }) (mgmtDeckle s) 0xC3 2 d)
  | none =>
    let scope := field t 56 4
    let s := if s.sec.unlock.isSome then secReport s (mgmtDeckle s) 0xC4 1 3 else s
    let s := modSec (closeService s scope) fun v =>
      { v with unlock := some (scope, s.now + field t 60 4 * 1000000000), counts := bump v.counts 2 }
    applied (newNonce (secReport s (mgmtDeckle s) 0xC2 1 scope))

/-! ### Sessions -/

/-- Open sessions of an endpoint. -/
def sessionsOf (s : State) (ep : Nat) : Nat := (s.dict.sessions.filter (fun e => e.2.ep == ep)).length

/-- R580: a fresh challenge for a client, held in place of an earlier one. -/
def newChallenge (s : State) (c : Caller) : Bytes × State :=
  let (r, s) := drawBytes 16 s
  let ctr := s.dict.challengeCtr + 1
  let b := r ++ leBytes 8 s.now ++ leBytes 1 c.ep ++ leBytes 1 c.client ++ zeros 2 ++ leBytes 4 ctr.toNat
  (b, modDict s fun d =>
    { d with
      challengeCtr := ctr
      challenges := d.challenges.filter (fun x => !(x.ep == c.ep && x.client == c.client)) ++
        [{ ep := c.ep, client := c.client, bytes := b, at_ := s.now }] })

def challengeOf (s : State) (ep client : Nat) : Option Challenge := s.dict.challenges.find? (fun x => x.ep == ep && x.client == client)

def dropChallenge (s : State) (ep client : Nat) : State :=
  modDict s fun d => { d with challenges := d.challenges.filter (fun x => !(x.ep == ep && x.client == client)) }

/-- CHALLENGE_EXPIRY (R67): a challenge is valid for 10 s. -/
def execChallengeExpiry (ep : EpId) (client : BitVec 7) (s : State) : Host.Outcome State Fault Refusal :=
  match challengeOf s ep.val client.toNat with
  | none => .next s
  | some x => .next (dropChallenge (timeReaches s (x.at_ + 10000000000)) ep.val client.toNat)

/-- R579, R582: the role and partition of a value are ones that a secret can have. -/
def roleValid (role part : Nat) : Bool :=
  if role = 2 then decide (1 ≤ part) && decide (part ≤ 15) else (role == 1 || role == 3 || role == 4) && part == 0

def roleSecret (s : State) (role part : Nat) : Option Bytes := tget s.sec.roles (16 * role + part)

/-- The lowest session ID that is free. -/
def freeSession (s : State) : Nat := ((List.range 63).map (· + 1)).find? (fun i => (tget s.dict.sessions i).isNone) |>.getD 0

/-- R67, R582: the response of a client is right: a challenge still valid, an enrolled secret, the MAC of R581, and for Service an unlock with
SERVICE_SESSION. -/
def responseRight (s : State) (c : Caller) (v : Bytes) : Bool :=
  let role := field v 0 1
  let part := field v 1 1
  match challengeOf s c.ep c.client, roleSecret s role part with
  | some x, some k =>
    decide (s.now < x.at_ + 10000000000) && slice v 4 32 == sessionMac k x.bytes role part c.ep c.client && (role != 4 || bitAt (scopes s) 0)
  | _, _ => false

/-- SESSION.RESPONSE written (R67, R582). -/
def sessionResponse (s : State) (c : Caller) (v : Bytes) : WriteOut :=
  let role := field v 0 1
  let part := field v 1 1
  if !roleValid role part || field v 2 2 != 0 then .refused aValueOutOfRange s
  else
    let right := responseRight s c v
    let s := dropChallenge s c.ep c.client
    if !right then
      .refused aAuthFailed (secReport (modSec s fun x => { x with authFailures := x.authFailures + 1 }) (mgmtDeckle s) 0xC0 1
        (c.ep + c.client * 256))
    else if 8 ≤ sessionsOf s c.ep || 48 ≤ s.dict.sessions.length then .refused aResource s
    else
      let id := freeSession s
      let x : Session := { ep := c.ep, role := role, partition := part, client := c.client, openedAt := s.now, lastAt := s.now }
      .ok 0 id (modDict s fun d => { d with sessions := tput d.sessions id x })

/-- R66: a session that nothing has named for the session timeout expires. -/
def execSessionTimeout (id : BitVec 6) (s : State) : Host.Outcome State Fault Refusal :=
  match tget s.dict.sessions id.toNat with
  | none => .next s
  | some x =>
    let s := timeReaches s (x.lastAt + 1000000000 * setting s 0x1102 0)
    .next (modDict s fun d => { d with sessions := tdel d.sessions id.toNat })

/-- R636: SESSION_CLOSE. -/
def sessionClose (s : State) (c : Caller) (id : Nat) : WriteOut :=
  if id = 0 || 63 < id then .refused aValueOutOfRange s
  else if c.role ≠ 1 && id ≠ c.session then .refused aAccessDenied s
  else applied (modDict s fun d => { d with sessions := tdel d.sessions id })

/-! ### Role secrets -/

/-- R583: sessions of a role and partition close, but for one. -/
def closeRole (s : State) (role part keep : Nat) : State :=
  modDict s fun d => { d with sessions := d.sessions.filter (fun e => !(e.2.role == role && e.2.partition == part) || e.1 == keep) }

/-- R584: an Operator secret is enrolled. -/
def operatorEnrolled (s : State) : Bool := (roleSecret s 1 0).isSome

/-- ROLE_ENROL written (R583, R584): an Operator's, or without a session the first Operator's. -/
def roleEnrol (s : State) (c : Caller) (v : Bytes) : WriteOut :=
  let role := field v 0 1
  let part := field v 1 1
  if c.role ≠ 1 && (role ≠ 1 || operatorEnrolled s) then .refused aAccessDenied s
  else if !roleValid role part || field v 2 2 != 0 || field v 101 3 != 0 then .refused aValueOutOfRange s
  else match agreedUnwrap enrolKey (slice v 4 97) (ascii "PQ20-ENROL") (leBytes 1 role ++ leBytes 1 part) (slice v 104 40) with
    | none => .refused aAuthFailed s
    | some k => applied (closeRole (modSec s fun x => { x with roles := tput x.roles (16 * role + part) k }) role part c.session)

/-- ROLE_REVOKE written (R584). -/
def roleRevoke (s : State) (v : Nat) : WriteOut :=
  let role := bits v 7 0
  let part := bits v 15 8
  if !roleValid role part then .refused aValueOutOfRange s
  else if role = 1 then .refused aStateConflict s
  else applied (closeRole (modSec s fun x => { x with roles := tdel x.roles (16 * role + part) }) role part 64)

/-- ROLE_STATUS. -/
def roleStatus (s : State) : Nat :=
  let on := fun r p : Nat => bitOf (roleSecret s r p).isSome
  on 1 0 + 2 * on 3 0 + 4 * on 4 0 + ((List.range 15).map (fun i => on 2 (i + 1) * 2 ^ (17 + i))).sum

/-! ### Attestation (R594) -/

def nonceKey (c : Caller) : Nat := 128 * c.ep + c.client

/-- ATTEST_NONCE written. -/
def attestNonce (s : State) (c : Caller) (v : Bytes) : State :=
  modSec s fun x => { x with nonces := tput x.nonces (nonceKey c) (v, s.now) }

/-- The nonce that the part holds for a client. -/
def heldNonce (s : State) (c : Caller) : Option Bytes :=
  match tget s.sec.nonces (nonceKey c) with
  | some (b, t) => if s.now < t + 10000000000 then some b else none
  | none => none

/-- ATTEST_NONCE_EXPIRY (R594): a nonce is held for 10 s. -/
def execAttestNonceExpiry (ep : EpId) (client : BitVec 7) (s : State) : Host.Outcome State Fault Refusal :=
  let k := 128 * ep.val + client.toNat
  match tget s.sec.nonces k with
  | none => .next s
  | some (_, t) => .next (modSec (timeReaches s (t + 10000000000)) fun x => { x with nonces := tdel x.nonces k })

/-- Lowest ZEROISE_COUNT across the deckle dies. -/
def lowestCount (s : State) : Nat := ((List.range 4).map (fun k => tgetD s.sec.zeroCount k 0)).foldl Nat.min 64

/-- The slot that the managing die booted (OD 0x1002.01). -/
def bootImage (s : State) : Nat := (if s.mgmtDie = 16 then s.pow.bootDn else s.pow.bootDs).1

/-- SHA-384 of the constant function tables (OD 0x3F00.03), which the part holds fixed. -/
def tableSetDigest : Bytes := leBytes 48 Config.tableSetDigest.toNat

/-- Table 16.8. -/
def attestation (s : State) (nonce : Bytes) : Bytes :=
  let b := leBytes 4 0x54415150 ++ leBytes 1 1 ++ leBytes 1 0x11 ++ leBytes 1 (bootImage s) ++ leBytes 1 (scopes s) ++ serialBytes
    ++ leBytes 8 s.now ++ padTo nonce 32 ++ padTo s.pow.image.digest 48 ++ tableSetDigest ++ padTo s.part.configDigest 48
    ++ leBytes 8 s.ep.count ++ leBytes 4 s.part.configSeq.toNat ++ leBytes 1 s.tint ++ leBytes 1 (deviceState s) ++ zeros 2
    ++ leBytes 4 s.pow.image.version ++ leBytes 4 s.integ.nextSeq.toNat ++ leBytes 1 (lowestCount s) ++ leBytes 1 s.sec.floor ++ zeros 6
  b ++ padTo (deviceSign (sha384 b)) 96

/-! ### Zeroisation (R591 to R593) -/

/-- R525, R592, R621: every admitted request has run to its end and is journalled. -/
def admittedDone (s : State) : Bool :=
  (List.range 4).all (fun n => !dieUp s (16 + n) || (admOf s n).ctxs.all (fun e =>
    e.2.state == 0 || ((e.2.state == 2 || e.2.state == 4) && (e.2.record || e.2.norecord))))

/-- R592 steps 3 to 5 on one deckle die: its fuse is burnt, its key copies are erased, and its ledger engine is ZEROISED. -/
def burnFuse (s : State) (k : Nat) : State :=
  let s := modSec s fun v =>
    { v with
      zeroCount := tinc v.zeroCount k 1, ledgerKey := tdel v.ledgerKey k, toBurn := v.toBurn.filter (· != k) }
  modLedger s k fun l =>
    { l with
      state := 7, formatted := false, formatting := false, startSeal := none, stopping := false, chain := {}, jobs := [], reads := []
      erasing := [], scanA := false }

/-- R592: the mark is cleared when every deckle die has burnt its fuse. -/
def clearMark (s : State) : State :=
  if s.sec.toBurn.isEmpty then modPow s fun w => { w with nors := w.nors.map (fun e => (e.1, { e.2 with zeroisePending := false })) } else s

/-- R592 steps 3 to 5, once LIVE contexts have finished: on every deckle die in service. -/
def zeroiseGo (s : State) : State :=
  if !s.sec.zeroiseOpen || !admittedDone s || s.pow.pwrfail then s
  else withDevice (fun s =>
    let s := (s.sec.toBurn.filter (fun k => dieUp s (16 + k))).foldl burnFuse s
    let s := modPow (modSec s fun v => { v with zeroiseOpen := false }) fun w => { w with zeroised := true }
    clearMark (secReport s (mgmtDeckle s) 0xC5 2 (lowestCount s))) s

/-- R593: a deckle die that a ZEROISE has missed burns its fuse when it comes into service. -/
def burnLate (s : State) (k : Nat) : State :=
  if s.sec.toBurn.contains k && !s.sec.zeroiseOpen then clearMark (burnFuse s k) else s

/-- ZEROISE written (R592, R593). -/
def zeroise (s : State) (v : Bytes) : WriteOut :=
  if v != serialBytes then .refused aValueOutOfRange s
  else if s.pow.pwrfail || s.sec.zeroiseOpen then .refused aStateConflict s
  else if (List.range 4).any (fun k => 64 ≤ tgetD s.sec.zeroCount k 0) then .refused aResource s
  else
    let s := modSec s fun x => { x with zeroiseOpen := true, toBurn := [0, 1, 2, 3] }
    started (zeroiseGo (modPow s fun w => { w with nors := w.nors.map (fun e => (e.1, { e.2 with zeroisePending := true })) }))

/-! ### SCAN (R599), the floor (R590), generators (R577) -/

/-- Every in-service ledger engine has stopped, or has nothing to stop. -/
def ledgersStopped (s : State) : Bool :=
  (List.range 4).all (fun k => !dieUp s (16 + k) || (let l := ledOf s k; !(l.state == 2 || l.state == 3 || l.state == 4)))

/-- Every ledger engine that runs is told to stop once its held records are written. -/
def stopLedgers (s : State) : State :=
  (List.range 4).foldl (fun s k => if dieUp s (16 + k) && stopOk s k then ledgerStop s k else s) s

/-- R599: the steps that follow DEBUG_SCAN_ENTER, as far as they can go now. -/
def scanGo (s : State) : State :=
  let s := if s.sec.scan = 1 && admittedDone s then stopLedgers (modSec s fun v => { v with scan := 2 }) else s
  if s.sec.scan = 2 && ledgersStopped s then
    withDevice (fun s => modPow (modSec s fun v => { v with scan := 3, keysCleared := true }) fun w => { w with fault := true }) s
  else s

/-- DEBUG_SCAN_ENTER written 1. -/
def scanEnter (s : State) : State := if s.sec.scan = 0 then scanGo (modSec s fun v => { v with scan := 1 }) else s

/-- FW_FLOOR_COMMIT written 1 (R590). -/
def floorCommit (s : State) : State := modSec s fun v => { v with floor := Nat.max v.floor s.pow.image.security }

/-- ENTROPY_FAULT (R577): the health test of a deckle's generator fails; it generates nothing until its die is reset. -/
def execEntropyFault (die : Deckle) (s : State) : Host.Outcome State Fault Refusal :=
  let k := die.val
  if !dieUp s (16 + k) || s.sec.entropyBad.contains k then .next s
  else .next (secReport (modSec s fun v => { v with entropyBad := v.entropyBad ++ [k] }) k 0xC6 2 (16 + k))

/-- R578: the known-answer tests of a deckle's engine at a reset of its die; the generator starts afresh (R577). -/
def selfTest (s : State) (k : Nat) (fails : Bool) : State :=
  let s := modSec s fun v =>
    { v with entropyBad := v.entropyBad.filter (· != k), testBad := v.testBad.filter (· != k) ++ (if fails then [k] else []) }
  if fails then secReport s k 0xC7 2 (16 + k) else s

end Sys2Proof.Machine
end

