-- ==== Sys2Proof/Machine/Power.lean ====
section
/-!
DEFINITION. Machine/Power.lean: power, temperature and rails (R602 to R615), the power-fail flush (R525, R630), the resets (R619 to R623), and boot
(R624 to R628).
-/
namespace Sys2Proof.Machine

/-- A cause of Table 17.11, logged by the managing die's service endpoint or by a die's own. -/
def powReport (s : State) (d cause cls detail : Nat) : State :=
  report s { cause := cause, cls := cls, unit := 0x17, source := serviceTile d, detail := detail }

/-! ### The flush (R525) -/

/-- R525: every number that a port has assigned and no record covers takes an INTERRUPTED record, built from its context; numbers whose records were
discarded are covered by RUN records (R508). -/
def flushRecords (s : State) (k : Nat) : State :=
  let ctxs := (admOf s k).ctxs.filter (fun e => e.2.state != 0 && !e.2.record && !e.2.norecord && !e.2.unchained)
  let s := ctxs.foldl (fun s e =>
    match ctxRequest s k e.2 with
    | none => s
    | some r =>
      if numberCovered (chainOf s k) e.2.journalSeq then s
      else
        let rc := requestRecord s k e.1 e.2 r true
        let s := modCtx s k e.1 fun x => { x with record := true }
        modChain s k fun c => { c with accepted := tput c.accepted e.2.journalSeq rc }) s
  let c := chainOf s k
  match c.runFrom with
  | none => s
  | some d =>
    let cuts := ((c.seals.map (·.1) ++ c.accepted.map (·.1)).filter (fun q => decide (d ≤ q) && decide (q < c.next))).mergeSort
      (fun a b => decide (a ≤ b))
    let runs := runCuts s.now d cuts.eraseDups c.next
    modChain s k fun c => { c with runFrom := none, runs := runs.foldl (fun t e => tput t e.1 e.2) c.runs }

/-- Pages that a queued page might be programmed at: the next page of each open block, then page 0 of the lowest free block of each volume on each
LUN. -/
def pageChoices (s : State) (k : Nat) : List Nat :=
  let l := ledOf s k
  (l.blocks.filter (fun e => e.2.cls == 2)).map (fun e => e.1 * 4096 + e.2.next) ++
    ((lunsOf s k).flatMap (fun u => [true, false].filterMap (fun j => (freeOn s k j (· == u)).map (· * 4096))))

/-- One queued page is programmed where it may go; one that fits nowhere stays unwritten. -/
def flushPage (s : State) (k : Nat) (j : PageJob) : State :=
  match (pageChoices s k).findSome? (fun a =>
    if canProgram s k a && jobFits s k a j then (openBlock s k (ppaBlock a) j).map (fun s => (a, s)) else none) with
  | some (a, s) => programPage s k a j
  | none => s

def flushPages : Nat → State → Nat → State
  | 0, s, _ => s
  | f + 1, s, k =>
    match (ledOf s k).jobs with
    | [] => s
    | j :: rest => flushPages f (flushPage (modLedger s k fun l => { l with jobs := rest }) k j) k

/-- R525: the parity rows that no full stripe has written yet. -/
def partialParity (l : Ledger) : List PageJob :=
  l.stripes.flatMap (fun t =>
    let most := (t.blocks.map (fun b => (blockOf l b).next)).foldl Nat.max 0
    let done_ := (blockOf l t.parity).next
    (List.range (most - done_)).map (fun i => ({ volume := 5, page := some (done_ + i), origin := t.num } : PageJob)))

/-- R525: engine k records, chains and programs what it holds, abandons its erases, and is FLUSHED, late by some µs beyond 1,500 (Table 14.15). -/
def flushEngine (s : State) (late k : Nat) : State :=
  if !dieUp s (16 + k) || (ledOf s k).state = 6 then s
  else
    let l := ledOf s k
    let run := l.state == 2 || l.state == 3
    let s := if run then queueTail (chainAdvance (flushRecords s k) k true) k else s
    let s := if run then
        let keep := (ledOf s k).jobs.filter (fun j => j.volume != 4 && j.volume != 5 && j.src.isNone)
        let s := modLedger s k fun l => { l with jobs := keep ++ [{ volume := 3 }] }
        let s := flushPages (keep.length + 1) s k
        let par := partialParity (ledOf s k)
        flushPages par.length (modLedger s k fun l => { l with jobs := par }) k
      else s
    modLedger s k fun l =>
      { l with
        state := if l.state = 7 then 7 else 6, jobs := [], reads := [], stopping := false, flushLate := late
        clean := if run || l.state == 5 then true else l.clean, counts := bump l.counts 7 }

/-- R525, R630, R610: the power fails: nothing more is admitted, every engine flushes, the device is in FAULT until POR_N. A warm reset is abandoned,
and a boot stops. -/
def powerFail (s : State) (late : Nat) : State :=
  withDevice (fun s =>
    let s := (List.range 4).foldl (fun s n => modAdm s n fun a => { a with stopped := true }) s
    let s := powReport s s.mgmtDie 0xA9 2 0
    let s := (List.range 4).foldl (fun s k => flushEngine s late k) s
    let s := if s.pow.booting then modEp s fun e => if e.state = 3 then e else { e with state := 0, armed := none } else s
    modPow s fun w => { w with fault := true, pwrfail := true, warm := 0 }) s

/-- PWRFAIL_N_ASSERT (R630): a pulse of ns. One shorter than 200 ns is ignored, one of 1 µs or more starts the flush, and between them either (a free
value). -/
def execPwrfailNAssert (ns late : BitVec 16) (s : State) : Host.Outcome State Fault Refusal :=
  if s.pow.por || s.pow.pwrfail || ns.toNat < 200 then .next s
  else if 1000 ≤ ns.toNat then .next (powerFail s late.toNat)
  else
    let (v, s) := draw s
    .next (if v % 2 = 1 then powerFail s late.toNat else s)

/-! ### Temperature (R608 to R611) -/

/-- R610: THERMTRIP_N asserts, and the part acts as at PWRFAIL_N. -/
def thermalTrip (s : State) (detail : Nat) : State :=
  if s.pow.thermtrip then s
  else
    let s := powReport s s.mgmtDie 0xA3 2 detail
    modPow (if s.pow.pwrfail then s else powerFail s 0) fun w => { w with thermtrip := true }

/-- POWER_STATS: 0 ms above the limit, 1 governor actions, 2 droops, 3 ms throttled. -/
def powStat (s : State) (i k : Nat) : State := modPow s fun w => { w with stats := bump w.stats i k }

/-- TEMPERATURE_SAMPLE (R608, R610): a die's hottest sensor, in °C × 8, each ms. -/
def execTemperatureSample (die : DieId) (temp : BitVec 16) (s : State) : Host.Outcome State Fault Refusal :=
  let d := die.val
  let t := temp.toInt
  if s.pow.por then .next s
  else
    let s := modPow s fun w => { w with temps := tput w.temps d t }
    let s := if (tget s.pow.thermal d).isSome then powStat s 3 1 else s
    .next (if 110 * 8 ≤ t then thermalTrip s d else s)

/-- R607: the lowest frequency that the governor and the thermal response leave a die. -/
def freqFloor (d : Nat) : Nat := if d < 16 then 400000 else 800000

/-- THROTTLE_STEP (R609): 100 µs have passed: the island limit of a die at or above THROTTLE_TEMP falls by 100 MHz; one below THROTTLE_TEMP − 3 °C rises
again. -/
def execThrottleStep (die : DieId) (s : State) : Host.Outcome State Fault Refusal :=
  let d := die.val
  let t := tgetD s.pow.temps d 0
  let top := Int.ofNat (setting s 0x9062 0)
  if s.pow.por then .next s
  else if top * 8 ≤ t then
    let first := (tget s.pow.thermal d).isNone
    let f := Nat.max (freqFloor d) (tgetD s.pow.thermal d (dieLimit s d) - 100000)
    let s := modPow s fun w => { w with thermal := tput w.thermal d f }
    .next (if first then powReport s d 0xA2 1 d else s)
  else match tget s.pow.thermal d with
    | none => .next s
    | some f =>
      if (top - 3) * 8 ≤ t then .next s
      else if setting s 0x2801 (d + 1) ≤ f + 100000 then .next (modPow s fun w => { w with thermal := tdel w.thermal d })
      else .next (modPow s fun w => { w with thermal := tput w.thermal d (f + 100000) })

/-- HBM_TEMPERATURE_READOUT (R608 to R610): a stack's temperature, in °C × 8, every 32 ms. From 95 °C its controllers carry at most half their
bandwidth; at 105 °C the part trips. -/
def execHbmTemperatureReadout (stack : ChanId) (temp : BitVec 16) (s : State) : Host.Outcome State Fault Refusal :=
  let k := stack.val
  let t := temp.toInt
  if s.pow.por then .next s
  else
    let hot := decide (95 * 8 ≤ t)
    let was := s.pow.hbmHalf.contains k
    let s := modPow s fun w =>
      { w with hbmTemps := tput w.hbmTemps k t, hbmHalf := w.hbmHalf.filter (· != k) ++ (if hot then [k] else []) }
    let s := if hot && !was then powReport s (16 + k / 2) 0xAE 1 k else s
    .next (if 105 * 8 ≤ t then thermalTrip s (0x20 + k) else s)

/-- THROTTLE_N_ASSERT (R611). -/
def execThrottleNAssert (s : State) : Host.Outcome State Fault Refusal :=
  if s.pow.throttle then .next s
  else
    let s := modPow s fun w => { w with throttle := true }
    .next (if s.pow.por then s else powReport s s.mgmtDie 0xAC 1 0)

/-- THROTTLE_N_DEASSERT (R611). -/
def execThrottleNDeassert (s : State) : Host.Outcome State Fault Refusal := .next (modPow s fun w => { w with throttle := false })

/-! ### The governor and droop (R604, R607) -/

/-- A governor limit as the part can set it: a 12.5 MHz step, not below the die's floor. -/
def governorStep (d f : Nat) : Nat := Nat.max (freqFloor d) (f / 12500 * 12500)

/-- R604: an estimate in mW that the part lets happen. -/
def powerAllowed (s : State) (mw : Nat) : Bool :=
  decide (mw ≤ 1100000) &&
    (decide (mw ≤ 1000 * setting s 0x9001 0) || (decide (s.pow.aboveUs < 5000) && decide (s.pow.quietUntil ≤ s.pow.govAt + 1000)))

/-- POWER_GOVERNOR (R604, R607): the estimate of the next µs, and the limit in kHz that the governor sets each die (0 for none): which dies it slows, and by
how much, is left open. -/
def execPowerGovernor (mw : BitVec 32) (limits : List Nat) (s : State) : Host.Outcome State Fault Refusal :=
  let m := mw.toNat
  if s.pow.por || !powerAllowed s m then .next s
  else
    let s := timeReaches s (s.pow.govAt + 1000)
    let table : Table Nat := (((limits.take 20).zipIdx).filter (fun e => e.1 != 0)).map (fun e => (e.2, governorStep e.2 e.1))
    let s := if table = s.pow.governor then s else powStat s 1 1
    let above := decide (1000 * setting s 0x9001 0 < m)
    let excess := s.pow.aboveUs
    let s := modPow s fun w =>
      { w with powerNow := m, governor := table, govAt := s.now, aboveUs := if above then w.aboveUs + 1 else 0
               quietUntil := if !above && 0 < excess then s.now + 20000000 else w.quietUntil }
    .next (if !above && 0 < excess then powReport (powStat s 0 (excess / 1000)) s.mgmtDie 0xA0 1 (excess / 1000) else s)

/-- DROOP (R607): a die's voltage falls more than 40 mV below its setpoint: its islands run at half their frequency. -/
def execDroop (die : DieId) (s : State) : Host.Outcome State Fault Refusal :=
  let d := die.val
  if !dieUp s d then .next s
  else
    let s := modPow s fun w => { w with droop := tput w.droop d (s.now + 1000) }
    .next (powReport (powStat s 2 1) d 0xA1 1 d)

/-- DROOP_RESTORE (R607): 1 µs after the last droop. -/
def execDroopRestore (die : DieId) (s : State) : Host.Outcome State Fault Refusal :=
  match tget s.pow.droop die.val with
  | none => .next s
  | some t => .next (modPow (timeReaches s t) fun w => { w with droop := tdel w.droop die.val })

/-! ### Rails (R606, R613, R614) -/

/-- R606: a setpoint has not been reached: the entry keeps its old value, and the lower limit stays. -/
def railFailed (s : State) (r mv : Nat) : State :=
  let x := railOf s r
  let k := odKey 0x9050 (r + 1)
  let s := modRail s r fun x => { x with settle := none, cap := some (Nat.min (opLimit x.setpoint) (opLimit mv)) }
  let s := if leNat (groundValue s 0x9050 (r + 1)) = mv then modDict s fun d => { d with rw := tput d.rw k (leBytes 2 x.setpoint) } else s
  powReport s 18 0xA4 2 r

/-- RAIL_SETTLE (R606): READ_VOUT, in mV, after a VOUT_COMMAND: within 10 mV the new setpoint holds; 2 ms after the command it has failed. -/
def execRailSettle (rail : RailId) (vout : BitVec 16) (s : State) : Host.Outcome State Fault Refusal :=
  let r := rail.val
  match (railOf s r).settle with
  | none => .next s
  | some (mv, t) =>
    let v := vout.toNat
    if !pmbusUp s then .next s
    else if railPresent s r && v ≤ mv + 10 && mv ≤ v + 10 && s.now ≤ t then
      .next (modRail (pmbusSend s r 0x8B []) r fun x => { x with setpoint := mv, settle := none, cap := none })
    else .next (railFailed (timeReaches s t) r mv)

/-- The bits of STATUS_WORD for VOUT, IOUT, INPUT, POWER_GOOD and TEMPERATURE (PMBus; PRESUMED, notes/assumptions/44.md). -/
def statusFault (w : Nat) : Bool := bitAt w 15 || bitAt w 14 || bitAt w 13 || bitAt w 11 || bitAt w 2

/-- R614: a STATUS_WORD that reports a fault is logged, and CLEAR_FAULTS is sent. -/
def takeStatus (s : State) (r w : Nat) : State :=
  let s := modRail s r fun x => { x with status := w }
  if statusFault w then pmbusSend (powReport s 18 0xA5 2 (r + w * 2 ^ 16)) r 0x03 [] else s

/-- The reads of a poll (R613, R614). -/
def pollCommands : List Nat := [0x88, 0x8B, 0x8C, 0x96, 0x8D, 0x79]

/-- PMBUS_POLL (R614): the readings of a present rail: VIN, VOUT, IOUT, POUT and temperature, 4 bytes each, and STATUS_WORD. A transaction that fails twice
is logged. -/
def execPmbusPoll (rail : RailId) (ok : Bool) (reading : Bytes) (s : State) : Host.Outcome State Fault Refusal :=
  let r := rail.val
  if !pmbusUp s || !railPresent s r then .next s
  else
    let s := pollCommands.foldl (fun s c => pmbusSend s r c []) s
    if !ok then .next (powReport s 18 0xA6 1 r)
    else
      let s := modRail s r fun x =>
        { x with
          vin := field reading 0 4, vout := field reading 4 4, iout := field reading 8 4, pout := field reading 12 4
          temp := field reading 16 4, sample := s.now }
      .next (takeStatus s r (field reading 20 2))

/-- PMBUS_ALERT (R614): PMBUS_ALERT_N asserts, and STATUS_WORD of a present rail is read. -/
def execPmbusAlert (rail : RailId) (ok : Bool) (status : BitVec 16) (s : State) : Host.Outcome State Fault Refusal :=
  let r := rail.val
  if !pmbusUp s || !railPresent s r then .next s
  else
    let s := pmbusSend s r 0x79 []
    .next (if ok then takeStatus s r status.toNat else powReport s 18 0xA6 1 r)

/-! ### Boot (R624 to R627) -/

/-- R625, R590: why a slot does not boot, as a reason code; 0 where it does. -/
def slotReason (floor : Nat) (m : NorImage) : Nat :=
  if m.reason ≠ 0 then m.reason else if !m.valid then 5 else if m.security < floor then 4 else 0

/-- R625: what a boot ROM makes of its device: slot, slot A reason, slot B reason. Without a sound security engine no signature verifies. -/
def bootSlots (s : State) (k : Nat) : Nat × Nat × Nat :=
  let n := tgetD s.pow.nors (k / 2) {}
  let why := fun m : NorImage => if engineUp s k then slotReason s.sec.floor m else 3
  let a := why n.slotA
  if a = 0 then (0, 0, 0)
  else
    let b := why n.slotB
    if b = 0 then (1, a, 0) else (3, a, b)

/-- The image that a slot code names. -/
def slotImage (n : Nor) (slot : Nat) : NorImage := if slot = 0 then n.slotA else n.slotB

/-- R590, R625: what the firmware logs of its own boot: images refused, and a fallback. -/
def bootReports (s : State) (k : Nat) (b : Nat × Nat × Nat) : State :=
  let refuse := fun (s : State) (why : Nat) =>
    if why = 3 then secReport s k 0xC8 2 1 else if why = 4 then secReport s k 0xC8 2 2 else s
  let s := refuse (refuse s b.2.1) b.2.2
  if b.1 = 1 then powReport s (16 + k) 0xA7 2 (bitOf (k == 2) + b.2.1 * 2 ^ 8) else s

/-- R625: a boot ROM's die runs its image. -/
def bootDie (s : State) (k : Nat) : State :=
  let b := bootSlots s k
  let v := (slotImage (tgetD s.pow.nors (k / 2) {}) b.1).version
  modPow s fun w =>
    { w with
      bootDn := if k = 0 then b else w.bootDn, bootDs := if k = 2 then b else w.bootDs
      fw := if b.1 = 3 then tdel w.fw (16 + k) else tput w.fw (16 + k) v }

/-- R578, R593, R625, R31: the self-tests, the fuses that a ZEROISE left to burn, the boots of DN and DS, who manages, and the ledger engines before their
scans. fails has bit k set where engine k fails a self-test. -/
def boot (s : State) (fails : Nat) (clean : Bool) : State :=
  let s := (List.range 4).foldl (fun s k => selfTest s k (bitAt fails k)) s
  let burnt := !s.sec.toBurn.isEmpty
  let s := s.sec.toBurn.foldl burnFuse s
  let s := bootDie (bootDie s 0) 2
  let dn := s.pow.bootDn.1 != 3
  let ds := s.pow.bootDs.1 != 3
  let m := if dn then 0 else 2
  let slot := if dn then s.pow.bootDn.1 else s.pow.bootDs.1
  let s := modPow s fun w =>
    { w with
      mgmt := 16 + m, mgmtLost := !dn && !ds, zeroised := w.zeroised || burnt
      image := if dn || ds then slotImage (tgetD w.nors (m / 2) {}) slot else {} }
  let s := clearMark (if burnt then secReport s m 0xC5 2 (lowestCount s) else s)
  let s := if dn then bootReports s 0 s.pow.bootDn else s
  let s := if ds then bootReports s 2 s.pow.bootDs else s
  (List.range 4).foldl (fun s k => ledgerPor s k clean) s

/-- R627: the store copy to use: of the managing die's NOR the valid one of the higher sequence number, or else of the other NOR. -/
def storeCopy (s : State) : Option StoreCopy :=
  let best := fun n : Nat =>
    ((tgetD s.pow.nors n {}).stores.filter (·.valid)).foldl (fun (b : Option StoreCopy) c =>
      match b with
      | some x => if x.seq < c.seq then some c else some x
      | none => some c) none
  let m := (mgmtDeckle s) / 2
  (best m).orElse fun _ => best (1 - m)

/-- R234: the ground value of SEQ_PROGRAM of a vat is loaded, where it is not empty. -/
def loadStored (s : State) (d : Nat) : State :=
  let v := groundValue s (0x3100 + d) 0
  if v.isEmpty then s else modPart (loadProgram s d v) fun p => { p with programs := tput p.programs d v }

/-- R627, R606: the stored configuration is restored, the units that follow its RW values take them, and the first epoch is armed from it; without a
valid copy, from the defaults. -/
def storeLoad (s : State) : State :=
  let before := s
  let s := modPow s fun w => { w with loaded := true }
  let s := match storeCopy s with
    | some c => modEp (modDict s fun d => { d with rw := c.rw }) fun e => { e with pend := c.cfg }
    | none => powReport s s.mgmtDie 0xAF 2 0
  let s := railsFollow before ((List.range 16).foldl loadStored s)
  let s := [0, 1].foldl (fun s c => modCan s c fun x => { x with applyDue := true }) (setRate s (sext 32 (setting s 0x2860 3)))
  let s := modTime s fun t => { t with pps := if setting s 0x2860 4 = 0 then 0 else if t.pps = 0 then 1 else t.pps }
  let s := (List.range 4).foldl ledgerMedia (modPart s fun p => { p with digestDue := true })
  startSwitch s false 0

/-- R626: every die in service runs firmware, but for a deckle whose engine cannot verify it. -/
def firmwareEverywhere (s : State) : Bool :=
  (List.range 20).all (fun d => !dieUp s d || (tget s.pow.fw d).isSome || (decide (16 ≤ d) && !engineUp s (d - 16)))

/-- FIRMWARE_DISTRIBUTE (R626, R627): the managing engine loads its own image into a die. With every die loaded after a reset, the store is read and the
first epoch armed. -/
def execFirmwareDistribute (die : DieId) (s : State) : Host.Outcome State Fault Refusal :=
  let d := die.val
  let v := s.pow.image.version
  if s.pow.por || !mgmtUp s || !dieUp s d || (s.pow.pwrfail && s.pow.booting) || (16 ≤ d && !engineUp s (d - 16)) then .next s
  else
    .next (withDevice (fun s =>
      let s := match tget s.pow.fw d with
        | some w => if w = v then s else powReport s d 0xA8 1 d
        | none => s
      let s := modPow s fun w => { w with fw := tput w.fw d v }
      if s.pow.booting && !s.pow.loaded && s.ep.state = 0 && firmwareEverywhere s then storeLoad s else s) s)

/-! ### The configuration store (R627) -/

/-- R453: an entry of 256 × index + subindex that the store holds: G and GT entries and overlay entries. -/
def storeHolds (k : Nat) : Bool :=
  decide (0xC000 ≤ k / 256) && decide (k / 256 < 0xC700) ||
    (match odFind (k / 256) (k % 256) with | some e => e.member != .neither | none => false)

/-- A copy with the next sequence number, in place of the older of a device's two copies. -/
def putCopy (n : Nor) (c : StoreCopy) : Nor :=
  let newest := n.stores.foldl (fun (b : Option StoreCopy) x =>
    match b with
    | some y => if y.seq < x.seq then some x else some y
    | none => some x) none
  { n with stores := (match newest with | some x => [x] | none => []) ++ [c] }

/-- R627: the configuration in force is written to both devices; a device whose program or erase fails holds an invalid copy, which is logged. -/
def storeWrite (s : State) (fail : Nat) : State :=
  let seq := (s.pow.nors.flatMap (fun e => e.2.stores.map (·.seq))).foldl Nat.max 0 + 1
  let c : StoreCopy := { seq := seq, rw := s.dict.rw.filter (fun e => storeHolds e.1), cfg := s.cfg.filter (fun e => storeHolds e.1) }
  let s := modPow s fun w =>
    { w with storeDue := none
             nors := w.nors.map (fun e => (e.1, putCopy e.2 { c with valid := !bitAt fail e.1 })) }
  ([0, 1].filter (bitAt fail)).foldl (fun s n => powReport s s.mgmtDie 0xAD 2 (n + (0x20000 / 256) * 2 ^ 8)) s

/-- CONFIG_STORE_WRITE (R627): the store that is due is written. -/
def execConfigStoreWrite (fail : BitVec 2) (s : State) : Host.Outcome State Fault Refusal :=
  if s.pow.storeDue.isNone || !mgmtUp s then .next s else .next (storeWrite s fail.toNat)

/-! ### Firmware updates (R628, R590) -/

/-- Table 17.8, R625: why an image is not good: a reason code, or 0. -/
def imageReason (floor : Nat) (m : Bytes) : Nat :=
  let n := field m 16 2
  let len := field m 12 4
  let comps := (List.range n).map (fun i => slice m (256 + 16 * i) 16)
  if field m 0 4 != 0x57465150 || field m 4 2 != 1 || 64 < field m 6 1 || field m 7 1 != 0 || n = 0 || 32 < n ||
      !allZero (slice m 18 14) || !allZero (slice m 129 127) || comps.any (fun c => !allZero (slice c 1 3) || !allZero (slice c 12 4)) then 1
  else if len != m.length || len < 4096 || 12582912 < len || comps.any (fun c => decide (len < field c 4 4 + field c 8 4)) then 2
  else if sha384 (slice m 32 97) != firmwareAnchor ||
      !ecdsaVerify (slice m 32 97) (sha384 (m.take (len - 96))) (m.drop (len - 96)) then 3
  else if field m 6 1 < floor then 4
  else 0

/-- The image that a NOR slot then holds. -/
def imageOf (m : Bytes) : NorImage :=
  { version := field m 8 4, security := field m 6 1, valid := true, digest := sha384 m, reason := 0 }

/-- A slot after a write that may have failed (R628). -/
def slotWritten (m : NorImage) (failed : Bool) : NorImage := if failed then { m with valid := false, reason := 5 } else m

/-- R628: a write of both devices' slot A (or B); fail has bit 0 set for DN, bit 1 for DS. -/
def norWrite (s : State) (slotB : Bool) (m : Nor → NorImage) (fail : Nat) : State :=
  let s := modPow s fun w =>
    { w with nors := w.nors.map (fun e =>
        let x := slotWritten (m e.2) (bitAt fail e.1)
        (e.1, if slotB then { e.2 with slotB := x } else { e.2 with slotA := x })) }
  ([0, 1].filter (bitAt fail)).foldl (fun s n =>
    powReport s s.mgmtDie 0xAD 2 (n + ((if slotB then 0xD00000 else 0x100000) / 256) * 2 ^ 8)) s

/-- FW_UPDATE written (R628, R590). -/
def fwUpdate (s : State) (m : Bytes) (fail : Nat) : WriteOut :=
  let why := imageReason s.sec.floor m
  if why ≠ 0 then
    let s := if why = 3 then secReport s (mgmtDeckle s) 0xC8 2 1 else if why = 4 then secReport s (mgmtDeckle s) 0xC8 2 2 else s
    .refused aValueOutOfRange s
  else started (norWrite s false (fun _ => imageOf m) fail)

/-- FW_COMMIT_B written 1 (R628). -/
def fwCommitB (s : State) (fail : Nat) : WriteOut :=
  if bootImage s ≠ 0 then .refused aStateConflict s
  else
    let m := (tgetD s.pow.nors (mgmtDeckle s / 2) {}).slotA
    started (norWrite s true (fun _ => m) fail)

/-! ### Resets (R619 to R623) -/

/-- What survives a reset of the whole package in every unit: the fuses, the NOR and NAND devices, and the pins. SRAM and HBM keep their bytes (DESIGN
CHOICE, notes/assumptions/28.md). -/
def packageReset (s : State) : State :=
  { pending := s.pending, now := s.now, freeCount := s.freeCount, mem := s.mem, out := s.out
    part := { digestDue := true }
    port := { ports := s.port.ports.map (fun e => (e.1, { perst := e.2.perst })) }
    led := s.led
    pow :=
      { por := s.pow.por, throttle := s.pow.throttle, nodeId := s.pow.nodeId, resetCause := s.pow.resetCause, nors := s.pow.nors
        zeroised := s.pow.zeroised }
    sec :=
      { floor := s.sec.floor, zeroCount := s.sec.zeroCount, toBurn := s.sec.toBurn, roles := s.sec.roles, ledgerKey := s.sec.ledgerKey
        unlockNonce := s.sec.unlockNonce } }

/-- POR_N_ASSERT (R619, R620): every island is held in reset with no flush; outputs take their reset state. -/
def execPorNAssert (s : State) : Host.Outcome State Fault Refusal :=
  if s.pow.por then .next s
  else
    let cause := if s.pow.thermtrip then 3 else if s.pow.pwrfail then 2 else 0
    let s := packageReset s
    let s := modTime s fun t => { t with dieReset := List.range 20 }
    .next (modPow s fun w => { w with por := true, resetCause := cause })

/-- POR_N_DEASSERT (R620, R380, R625, R527, R595): the straps are sampled, the master locks at fabric time 0, and the boot ROMs run. selfTest has bit k
set where the security engine of deckle k fails. -/
def execPorNDeassert (straps : BitVec 7) (selfTest : BitVec 4) (s : State) : Host.Outcome State Fault Refusal :=
  if !s.pow.por then .next s
  else
    let s := modTime { s with now := 0 } fun _ => { masterState := 0, units := [(timeTile 16, { state := 0, mayStep := false })] }
    let s := modPow s fun w => { w with por := false, nodeId := straps.toNat }
    .next (newNonce (boot s selfTest.toNat false))

/-- R621: the package is reset but for the time units, the log with its counters, EPOCH_COUNT and PRT.RESET_GEN, and boots. -/
def warmReset (s : State) : State :=
  let fails := s.pow.warmTest
  let gens := s.port.ports.map (fun e => (e.1, e.2.resetGen + bitOf e.2.up))
  let g := s.integ
  let n := packageReset s
  let n := { n with
    integ :=
      { log := g.log, nextSeq := g.nextSeq, overwritten := g.overwritten, dropped := g.dropped, mirror := g.mirror, mirrorNext := g.mirrorNext
        reports := g.reports, classCounts := g.classCounts, causeCounts := g.causeCounts, partClass := g.partClass }
    ep := { count := s.ep.count, cur := { count := s.ep.count } }
    time :=
      { s.time with
        bounds := s.time.bounds.map (fun e => (e.1, { realived := e.2.realived })), counts := [0, 0, 0, 0], timeCounts := [0, 0, 0, 0, 0]
        limitedMs := [], dieReset := [] } }
  let n := gens.foldl (fun n e => modPortOf n e.1 fun x => { x with resetGen := e.2 }) n
  boot (modPow n fun w => { w with resetCause := 1 }) fails true

/-- Table 17.12: the steps of a warm reset as far as they can go now. -/
def warmGo (s : State) : State :=
  let s := if s.pow.warm = 1 && admittedDone s then stopLedgers (modPow s fun w => { w with warm := 2 }) else s
  if s.pow.warm = 2 && ledgersStopped s then deviceNote s (warmReset (storeWrite s 0)) else s

/-- WARM_RESET written 1 (R621): it is answered first, and goes on when nothing waits. -/
def warmStart (s : State) (fails : Nat) : WriteOut :=
  if s.pow.warm ≠ 0 || s.pow.pwrfail then .refused aStateConflict s
  else
    let s := powReport s s.mgmtDie 0xAA 1 0
    started (modPow s fun w => { w with warm := 1, warmTest := fails })

/-- R622: a die's reset: its edges fence, its tiles are reset, and a deckle die reboots. A LOST vat die stays LOST until a switch fences it (R481), and one
that failed its BIST stays held in reset (R479). -/
def dieResetGo (s : State) (d : Nat) (fails : Bool) : State :=
  let edges := (tilesOf d).flatMap (fun n => ([1, 2, 3, 4].filter (isDieLink n)).map (fun p => ((neighbour n p).getD 0, opposite p)))
  let s := edges.foldl (fun s e => fenceLink s e.1 e.2) s
  let s := resetTiles s d
  let s := powReport s s.mgmtDie 0xAB 1 d
  let s := modPow s fun w => { w with fw := tdel w.fw d }
  if d < 16 then s
  else
    let k := d - 16
    let s := modPow s fun w => { w with lost := w.lost.filter (· != d) }
    let s := modPart s fun p => { p with lostDeckles := p.lostDeckles.filter (· != d) }
    let s := resetPort (modPort s fun p => { p with adm := tdel p.adm k }) k 2
    let s := if k = 0 then modDict s fun v => { v with canDn := {} } else if k = 2 then modDict s fun v => { v with canDs := {} } else s
    let s := selfTest s k fails
    let s := if k = 0 || k = 2 then bootReports (bootDie s k) k (bootSlots s k) else s
    ledgerMedia (ledgerPor (burnLate s k) k false) k

/-- R619, R622: whether a die may be reset for a caller. -/
def dieResetAbort (s : State) (role d : Nat) : Option Nat :=
  let st := vatState s d
  if 20 ≤ d then some aValueOutOfRange
  else if s.pow.warm ≠ 0 then some aStateConflict
  else if d < 16 then
    if st = 3 || (role = 4 && st = 5) then none else some aStateConflict
  else if role = 4 && d ≠ s.mgmtDie && d ≠ s.time.master then none else some aStateConflict

/-- R623: the island that a value names: 0 the tile, or the record of another island at it; 16 + port for a UCIe PHY. None where there is none. -/
def islandNamed (node row : Nat) : Option Nat :=
  if (locateNode node).isNone then none
  else if row = 0 then some 32
  else if row = 3 then ([1, 2, 3, 4].find? (isDieLink node)).map (· + 16)
  else match islandAt node with
    | some r => if islandKind (dieOf node) r = row then some r else none
    | none => none

/-- R619, R623: whether an island may be reset for a caller. -/
def islandResetAbort (s : State) (role v : Nat) : Option Nat :=
  let node := bits v 11 0
  let row := bits v 15 12
  let fenced := role == 1 && decide (dieOf node < 16) && vatState s (dieOf node) == 3
  if (islandNamed node row).isNone then some aValueOutOfRange
  else if !fenced && (row == 7 || (row == 0 && (node == mgmtTile s.mgmtDie || node == masterTile s))) then some aValueOutOfRange
  else if s.pow.warm ≠ 0 then some aStateConflict
  else if fenced || role = 4 then none else some aStateConflict

/-- The fabric state of one tile as after reset. -/
def resetTileFabric (f : Fabric) (n : Nat) : Fabric :=
  { f with
    trackers := tdrop f.trackers (fun k => k / 64 == n), rx := tdel f.rx n, waiting := tdel f.waiting n
    net := f.net.filter (fun x => x.node != n), arrived := tdel f.arrived n, acks := tdel f.acks n, expects := tdel f.expects n
    buckets := tdrop f.buckets (fun k => k / 8 == n), tc6 := tdrop f.tc6 (fun k => k / 8 == n), deficits := tdrop f.deficits (fun k => k / 64 == n) }

/-- R623: the reset of one tile: its boundaries fence, and every unit on it starts afresh. -/
def resetTile (s : State) (n : Nat) : State :=
  let d := dieOf n
  let l := localOf n
  let s := ([1, 2, 3, 4].filter (fun p => (neighbour n p).isSome)).foldl (fun s p => fenceLink s ((neighbour n p).getD 0) (opposite p)) s
  let s := modFab s fun f => resetTileFabric f n
  let s := modObs s fun o => { o with stages := tdel o.stages n, rings := tdrop o.rings (fun k => k / 64 == n), sentAt := tdel o.sentAt n }
  let s := modTime s fun t => { t with units := tdel t.units n }
  let s := modInteg s fun g => { g with badTables := g.badTables.filter (fun e => e.1 != n) }
  let s := modVs s fun v =>
    { v with
      nodes := tdrop v.nodes (fun k => k % 4096 == n)
      mc := tdrop v.mc (fun g => mcRoot (mcRecord s.ep.cur g) == n), red := tdrop v.red (fun g => redRoot (redRecord s.ep.cur g) == n) }
  if d < 16 then
    let s := modVs s fun v => { v with cells := tdrop v.cells (fun k => k / 256 == d && k % 256 / 4 == l) }
    let s := modVat s d fun v => { v with fibres := tdrop v.fibres (fun k => k / 256 == l) }
    let s := if n = seqTile d then modSeq s d fun _ => {} else s
    if n = schedTile d then modVat s d fun v => { v with batches := [], kills := [], waitTable := [], resend := [], notifies := [] } else s
  else
    let k := d - 16
    let s := if n = admissionTile k then modPort s fun p => { p with adm := tdel p.adm k } else s
    let s := if n = portFrontTile k then resetPort s k 2 else s
    let s := if n = ledgerTile k then ledgerPor s k false else s
    let s := if n = mgmtTile d then modPow s fun w => { w with fw := tdel w.fw d } else s
    let s := if n = canTile 16 then modDict s fun v => { v with canDn := {} } else if n = canTile 18 then modDict s fun v => { v with canDs := {} } else s
    if n = serviceTile d then modInteg s fun g => { g with held := tdel g.held d, dropCount := tdel g.dropCount d } else s

/-- ISLAND_RESET written (R623). -/
def islandResetGo (s : State) (v : Nat) : State :=
  let n := bits v 11 0
  match islandNamed n (bits v 15 12) with
  | none => s
  | some 32 => withDevice (fun s => resetTile s n) s
  | some r =>
    if 16 ≤ r then
      withDevice (fun s => setLink (fenceLink (fenceLink s n (r - 16)) ((neighbour n (r - 16)).getD 0) (opposite (r - 16))) n (r - 16) 1) s
    else fenceIsland s n r

/-- What goes on without a command: a ZEROISE, an entry to SCAN or a warm reset that had to wait for admitted requests or the ledger. -/
def background (s : State) : State := warmGo (scanGo (zeroiseGo s))

end Sys2Proof.Machine
end

