-- ==== Sys2Proof/Machine/OdCheck.lean ====
section
/-!
DEFINITION. Machine/OdCheck.lean: which entry an address names (R53, R54), what an Owner's session reaches (R64), which die's units hold an entry,
and the rules that a written value must meet (R57 and the owning chapters), in the order of R635.
-/
namespace Sys2Proof.Machine

/-! ### Abort codes of the transports (Table 3.4) -/

def aTimeout : Nat := 0x05010001
def aBadCommand : Nat := 0x05010002
def aSequenceError : Nat := 0x05010003
def aCrcMismatch : Nat := 0x05010004
def aMalformed : Nat := 0x05010005
def aTransferBusy : Nat := 0x05010006
def aNoEntry : Nat := 0x06010001
def aNoSubindex : Nat := 0x06010002
def aReadOnly : Nat := 0x06010003
def aWriteOnly : Nat := 0x06010004
def aTypeLength : Nat := 0x06010005

/-! ### Which entry -/

/-- R54: the index is a RECORD: no row defines its subindex 0. -/
def isRecord (idx : Nat) : Bool := odIndexDefined idx && (odFind idx 0).isNone

/-- R54: the highest subindex that a RECORD defines. -/
def highestSub (idx : Nat) : Nat :=
  (odTable.filter (fun e => decide (e.lo ≤ idx) && decide (idx ≤ e.hi))).foldl (fun m e => Nat.max m e.subHi) 0

/-- R54: subindex 0 of a RECORD. -/
def recordHead (idx : Nat) : OdEntry :=
  { lo := idx, hi := idx, subLo := 0, subHi := 0, kind := .nat, minLen := 1, maxLen := 1, acc := .const, readers := [.any], dflt := highestSub idx }

/-- R53: the entry, or the abort that says which part of its address is undefined. The record of reduction group 511 is CONST (R292). -/
def odLookup (idx sub : Nat) : Nat ⊕ OdEntry :=
  match odFind idx sub with
  | some e => .inr (if idx = 0x259F && sub = 4 then { e with acc := .const, writers := [], member := .neither } else e)
  | none => if sub = 0 && isRecord idx then .inr (recordHead idx) else .inl (if odIndexDefined idx then aNoSubindex else aNoEntry)

/-! ### Whose part of the package an entry describes -/

/-- What an entry describes a part of. -/
inductive EntryScope where
  /-- the package: no part of it belongs to a partition -/
  | whole
  | die (d : Nat)
  | port (n : Nat)
  | part (p : Nat)
  | queue (n q : Nat)
  | admQueue (n a : Nat)
  | mcGroup (g : Nat)
  | redGroup (g : Nat)
  | buffer (b : Nat)
  deriving DecidableEq, Repr

/-- Index lies in lo..hi. -/
def inRange (idx lo hi : Nat) : Bool := decide (lo ≤ idx) && decide (idx ≤ hi)

/-- The dictionary's index and subindex conventions: what each entry that an Owner may reach describes. -/
def entryScope (idx sub : Nat) : EntryScope :=
  if sub = 0 && isRecord idx then .whole
  else if inRange idx 0x3401 0x3405 || inRange idx 0x3003 0x3007 || inRange idx 0x3110 0x3110 || inRange idx 0x3112 0x3119 || inRange idx 0x2801 0x2803 ||
      idx = 0x2845 || idx = 0x5060 || idx = 0x5061 || idx = 0x7091 || idx = 0x9050 ||
      idx = 0x9060 then .die (sub - 1)
  else if idx = 0x3111 then .die ((sub - 1) % 16)
  else if inRange idx 0x3420 0x3433 then .die (idx - 0x3420)
  else if inRange idx 0x3100 0x310F then .die (idx - 0x3100)
  else if inRange idx 0x2260 0x2273 then .die (idx - 0x2260)
  else if inRange idx 0x2500 0x250F then .die (idx - 0x2500)
  else if inRange idx 0x2804 0x2817 then .die (idx - 0x2804)
  else if inRange idx 0x2820 0x2833 then .die (idx - 0x2820)
  else if inRange idx 0x2846 0x2859 then .die (idx - 0x2846)
  else if inRange idx 0x7200 0x720F then .die (idx - 0x7200)
  else if inRange idx 0x7220 0x722F then .die (idx - 0x7220)
  else if inRange idx 0x3440 0x3443 then .port (idx - 0x3440)
  else if idx = 0x3444 || idx = 0x3445 || idx = 0x4001 || idx = 0x4040 || idx = 0x4042 || inRange idx 0x4401 0x4404 || idx = 0x4484 || idx = 0x6007 ||
      idx = 0x600D then .port (sub - 1)
  else if inRange idx 0x2690 0x2693 then .port (idx - 0x2690)
  else if inRange idx 0x4020 0x4023 then .port (idx - 0x4020)
  else if inRange idx 0x4030 0x4033 then .port (idx - 0x4030)
  else if inRange idx 0x4424 0x4427 then .port (idx - 0x4424)
  else if inRange idx 0x4430 0x4433 then .port (idx - 0x4430)
  else if inRange idx 0x4440 0x4443 then .port (idx - 0x4440)
  else if inRange idx 0x4460 0x4463 then .port (idx - 0x4460)
  else if inRange idx 0x4470 0x4473 then .port (idx - 0x4470)
  else if inRange idx 0x4480 0x4483 then .port (idx - 0x4480)
  else if inRange idx 0x7230 0x7233 then .port (idx - 0x7230)
  else if inRange idx 0x4010 0x4013 then .queue (idx - 0x4010) (sub - 1)
  else if inRange idx 0x4420 0x4423 then .admQueue (idx - 0x4420) (sub - 1)
  else if inRange idx 0x4450 0x4453 then .admQueue (idx - 0x4450) (sub - 1)
  else if inRange idx 0x2400 0x24FF then .mcGroup (4 * (idx - 0x2400) + sub - 1)
  else if inRange idx 0x2520 0x259F then .redGroup (4 * (idx - 0x2520) + sub - 1)
  else if inRange idx 0x7060 0x706F then .buffer (idx - 0x7060)
  else if inRange idx 0x3450 0x345F then .part (idx - 0x3450)
  else if idx = 0x3460 || idx = 0x3470 || idx = 0x3002 || idx = 0x2630 then .part (sub - 1)
  else if inRange idx 0x2110 0x211F then .part (idx - 0x2110)
  else if inRange idx 0x2620 0x262F then .part (idx - 0x2620)
  else if inRange idx 0x4405 0x4414 then .part (idx - 0x4405)
  else if inRange idx 0x5021 0x502F then .part (idx - 0x5020)
  else if inRange idx 0x5041 0x504F then .part (idx - 0x5040)
  else if inRange idx 0x5051 0x505F then .part (idx - 0x5050)
  else if idx = 0x70E0 then .part sub
  else if inRange idx 0x7210 0x721F then .part (idx - 0x7210)
  else if inRange idx 0x8020 0x802F then .part (idx - 0x8020)
  else if inRange idx 0x8060 0x806F then .part (idx - 0x8060)
  else .whole

/-- A submission queue of partition p feeds admission queue a of port n. -/
def feeds (s : State) (p n a : Nat) : Bool :=
  (List.range 16).any (fun q => qcAllowed (queueConfig s.ep.cur n q) && qcPart (queueConfig s.ep.cur n q) == p && bankClass s.ep.cur n q == a)

/-- R64: an entry, or its part, belongs to partition p. -/
def ownedBy (s : State) (p : Nat) : EntryScope → Bool
  | .whole => true
  | .die d => decide (d < 16) && partOwnsVat s.cfg p d
  | .port n => partOwnsPort s.cfg p n
  | .part q => q == p
  | .queue n q => qcPart (queueConfig s.ep.cur n q) == p
  | .admQueue n a => partOwnsPort s.cfg p n && feeds s p n a
  | .mcGroup g => mcPart (mcRecord s.ep.cur g) == p
  | .redGroup g => redPart (redRecord s.ep.cur g) == p
  | .buffer b => bcOwner (bufConfig s b) == p

/-- R63: a role code is one of a Roles column's names. -/
def roleListed (role : Nat) (l : List RoleName) : Bool :=
  l.contains .any || (role == 1 && l.contains .operator) || (role == 2 && l.contains .owner) || (role == 3 && l.contains .auditor) ||
    (role == 4 && l.contains .service)

/-- R63: a Service session also reads what an Operator reads. -/
def mayRead (role : Nat) (e : OdEntry) : Bool := roleListed role e.readers || (role == 4 && e.readers.contains .operator)

/-- Step 6 of R635 for a read. -/
def readAllowed (s : State) (c : Caller) (e : OdEntry) (idx sub : Nat) : Bool :=
  mayRead c.role e && (c.role != 2 || e.readers.contains .any || ownedBy s c.part (entryScope idx sub))

/-- R584: the first Operator is enrolled without a session. -/
def firstEnrolment (s : State) (c : Caller) (idx : Nat) : Bool := idx == 0x8010 && c.session == 0 && !operatorEnrolled s

/-- Step 6 of R635 for a write. MC_REJOIN belongs to the partition of the group it names, which its value gives (step 9). -/
def writeAllowed (s : State) (c : Caller) (e : OdEntry) (idx sub : Nat) : Bool :=
  (roleListed c.role e.writers && (c.role != 2 || e.writers.contains .any || ownedBy s c.part (entryScope idx sub))) || firstEnrolment s c idx

/-! ### The unit that holds an entry (step 7 of R635) -/

/-- The die whose units hold an entry; none where the managing engine holds it itself. -/
def holderOf (idx sub : Nat) : Option Nat :=
  if sub = 0 && isRecord idx then none
  else if inRange idx 0x3003 0x3007 || inRange idx 0x3401 0x3403 || idx = 0x3405 || idx = 0x3434 || idx = 0x3110 || inRange idx 0x3112 0x3114 ||
      inRange idx 0x3116 0x3119 then some (sub - 1)
  else if idx = 0x3111 then some ((sub - 1) % 16)
  else if inRange idx 0x3100 0x310F then some (idx - 0x3100)
  else if inRange idx 0x3420 0x3433 then some (idx - 0x3420)
  else if inRange idx 0x2260 0x2273 then some (idx - 0x2260)
  else if inRange idx 0x2640 0x2653 then some (idx - 0x2640)
  else if inRange idx 0x2660 0x2673 then some (idx - 0x2660)
  else if inRange idx 0x7010 0x7023 then some (idx - 0x7010)
  else if inRange idx 0x7030 0x7043 then some (idx - 0x7030)
  else if inRange idx 0x7050 0x705F then some (idx - 0x7050)
  else if inRange idx 0x7200 0x720F then some (idx - 0x7200)
  else if inRange idx 0x7220 0x722F then some (idx - 0x7220)
  else if inRange idx 0x7060 0x706F && sub ≠ 1 && sub ≠ 4 then some (16 + (idx - 0x7060) / 4)
  else if inRange idx 0x3440 0x3443 then some (16 + idx - 0x3440)
  else if idx = 0x3444 || idx = 0x3445 || idx = 0x4484 || idx = 0x6003 || idx = 0x6005 || idx = 0x6006 || idx = 0x600D then some (15 + sub)
  else if inRange idx 0x4020 0x4023 then some (16 + idx - 0x4020)
  else if inRange idx 0x4030 0x4033 then some (16 + idx - 0x4030)
  else if inRange idx 0x4460 0x4463 then some (16 + idx - 0x4460)
  else if inRange idx 0x4470 0x4473 then some (16 + idx - 0x4470)
  else if inRange idx 0x4480 0x4483 then some (16 + idx - 0x4480)
  else if inRange idx 0x6010 0x6013 then some (16 + idx - 0x6010)
  else if inRange idx 0x6040 0x6043 then some (16 + idx - 0x6040)
  else if inRange idx 0x6050 0x6053 then some (16 + idx - 0x6050)
  else if inRange idx 0x7230 0x7233 then some (16 + idx - 0x7230)
  else none

/-- R557: the die whose maintenance ring an entry is read through. -/
def ringOf (idx sub : Nat) : Option Nat :=
  if idx = 0x7091 && sub ≠ 0 then some (sub - 1)
  else if inRange idx 0x70A0 0x70B3 then some (idx - 0x70A0)
  else if inRange idx 0x70C0 0x70D3 then some (idx - 0x70C0)
  else none

/-- R577, R578: the entry needs the managing deckle's security engine, and whether it needs its generator. -/
def securityNeed (idx sub : Nat) : Option Bool :=
  if idx = 0x1100 && sub = 1 || idx = 0x8040 && sub = 1 then some true
  else if idx = 0x1100 && sub = 2 || idx = 0x8010 || idx = 0x8030 && sub = 2 || idx = 0x8040 && sub = 2 || idx = 0x9081 then some false
  else none

/-- Step 7 of R635: the unit that holds the entry is out of service. A format needs its deckle's key or generator (R577); a write of a setpoint needs DS's
PMBus host (R606). -/
def unitDown (s : State) (write : Bool) (idx sub : Nat) : Bool :=
  (match holderOf idx sub with | some d => !dieUp s d | none => false) ||
    (match ringOf idx sub with | some d => !ringUp s d || s.integ.ringFault.contains d | none => false) ||
    (match securityNeed idx sub with
      | some true => !engineRandom s (mgmtDeckle s)
      | some false => !engineUp s (mgmtDeckle s)
      | none => false) ||
    (idx == 0x6003 && sub != 0 && !formatKeyOk s (sub - 1)) || (write && idx == 0x9050 && !pmbusUp s)

/-! ### Lengths (step 8 of R635) -/

/-- A length suits an entry. -/
def lengthOk (e : OdEntry) (n : Nat) : Bool :=
  decide (e.minLen ≤ n) && decide (n ≤ e.maxLen) &&
    (if e.lo = 0x6001 then n == 0 || n == 128 else if e.lo = 0x2500 then n % 16 == 0 else if e.lo = 0x4440 then decide (24 ≤ n) && n % 8 == 0 else true)

/-! ### Values (step 9 of R635) -/

/-- A check of a value: the abort it gives where it fails. -/
def need (ok : Bool) : Option Nat := if ok then none else some aValueOutOfRange

/-- R57, Table 3.2: the kind and the interval of an entry. -/
def kindOk (e : OdEntry) (v : Bytes) : Bool :=
  match e.kind with
  | .flag => leNat v == 0 || leNat v == 1
  | .str => v.all (fun b => decide (0x20 ≤ b.toNat) && decide (b.toNat ≤ 0x7E))
  | .nat => (match e.range with
    | some (lo, hi, step) => decide (lo ≤ leNat v) && decide (leNat v ≤ hi) && (leNat v - lo) % step == 0
    | none => true)
  | _ => true

/-- R118: a window of partition p, against a configuration. -/
def windowValid (cfg : Table Bytes) (p : Nat) (v : Nat) : Bool :=
  let lo := bits v 71 36 * 4096
  let hi := (bits v 111 76 + 1) * 4096
  let inside := fun a b : Nat => decide (a ≤ lo) && decide (hi ≤ b)
  let touches := fun a b : Nat => decide (lo < b) && decide (a < hi)
  let sync := inside 0xA0000000 0xA0140000
  bits v 127 112 == 0 && bits v 75 72 == 0 && bits v 35 4 == 0 && decide (lo < hi) &&
    (inside 0 0x80000000 || inside 0x80000000 0x90000000 || sync || inside 0x2000000000 0x4000000000 || inside 0x100000000000 0x140000000000) &&
    !((List.range 4).any (fun d => touches (0x81000000 + d * 0x4000000) (0x83000000 + d * 0x4000000))) &&
    (sync || !bitAt v 2) && !(sync && bitAt v 1) &&
    !((List.range 4).any (fun n =>
      touches (0x100000000000 + n * 0x10000000000) (0x100000000000 + (n + 1) * 0x10000000000) && !partOwnsPort cfg p n))

/-- R276, R277, R30: a multicast group record, against the bank that would be installed. -/
def mcRecordCheck (b : Bank) (g v : Nat) : Option Nat :=
  if bits v 95 2 != 0 || (mcSequenced v && (decide (63 < g) || mcRoot v != mcSeqTile (16 + g / 16))) then some aValueOutOfRange
  else
    let others := (mcListed b).filter (fun x => x != g && mcEn (mcRecord b x) && mcRoot (mcRecord b x) == mcRoot v)
    if mcEn v && 8 ≤ others.length then some aResource else none

/-- R278, Table 8.5: the receiver entries of vat die d. -/
def receiversValid (bankBytes : Nat) (v : Bytes) : Bool :=
  let es := (List.range (v.length / 16)).map (fun i => field v (16 * i) 16)
  let used := es.filter (fun e => bitAt e 21)
  es.all (fun e => bits e 46 22 == 0) && decide ((used.map (fun e => bits e 63 54)).eraseDups.length ≤ 64) &&
    used.all (fun e =>
      let span := bits e 127 96
      decide (1 ≤ span) && decide (span ≤ 1572864) &&
        decide (bits e 20 0 + span ≤ (if bitAt e 47 then bankBytes else 0x180000)))

/-- R293, Table 8.9: a reduction group record. -/
def redRecordValid (b : Bank) (v : Nat) : Bool :=
  let leaves := (redVats v).length * (redSlices v).length
  let bytes := fmtBits (redFmt v) / 8
  bits v 24 1 == 0 &&
    (!redEn v ||
      ((redVats v).all (partOwnsVat b.cfg (redPart v)) && nodeOwned b (redPart v) (redRoot v) &&
        decide (leaves * redPerTile v ≤ 32767) && decide (1 ≤ redPerTile v) && decide (redPerTile v ≤ 64) &&
        decide (1 ≤ redElements v) && decide (redElements v ≤ 16384) &&
        (redFmt v == 3 || (decide (4 ≤ redFmt v) && decide (redFmt v ≤ 9))) &&
        decide (256 ≤ redWindow v) && decide (redWindow v ≤ 640) &&
        decide (redStatusBase v + 128 ≤ 0x180000) && decide (redResultBase v + 4 * redElements v * bytes ≤ 0x180000) &&
        (match decodeAddr (redCell v) with | some (.syncCell _ _ _) => true | _ => false)))

/-- Table 12.5. -/
def aqRecordValid (v : Nat) : Bool :=
  bits v 87 8 == 0 && bits v 5 3 == 0 && acPolicy v != 3 && decide (1 ≤ acQuantum v) && decide (1 ≤ acCR v) && decide (acCR v ≤ acPR v) &&
    decide (acPR v ≤ 10 ^ 12) && decide (1 ≤ acCB v) && decide (1 ≤ acPB v)

/-- Table 12.4. -/
def sqClassValid (v : Nat) : Bool :=
  let meter := fun m : Nat => decide (m < 64) || m == 0xFF
  bits v 31 24 == 0 && bits v 7 4 == 0 && decide (bits v 3 0 ≤ 10) && meter (bits v 23 16) && meter (bits v 15 8)

/-- Table 12.6. -/
def meterValid (v : Nat) : Bool :=
  bits v 111 64 == 0 && decide (1 ≤ bits v 151 112) && decide (bits v 151 112 ≤ bits v 191 152) && decide (bits v 191 152 ≤ 10 ^ 12) &&
    decide (1 ≤ bits v 31 0) && decide (bits v 31 0 ≤ bits v 63 32)

/-- R434, Table 12.7: a gate list; its length must be that of its COUNT. -/
def gateListCheck (v : Bytes) : Option Nat :=
  let count := field v 12 1
  let cycle := field v 8 4
  let es := (List.range count).map (fun i => field v (16 + 8 * i) 8)
  if v.length ≠ 16 + 8 * count then some aTypeLength
  else need (decide (1 ≤ count) && decide (count ≤ 32) && field v 13 3 == 0 && decide (100000 ≤ cycle) && decide (cycle ≤ 10000000) && cycle % 1000 == 0 &&
    es.all (fun e => bits e 31 11 == 0 && decide (1000 ≤ bits e 63 32)) && (es.map (fun e => bits e 63 32)).sum == cycle)

/-- R441: a delivery record. -/
def deliveryValid (v : Nat) : Bool :=
  let base := bits v 207 160
  bits v 115 1 == 0 &&
    (!drEn v ||
      (drStride v % 64 == 0 && decide (64 ≤ drStride v) && decide (drStride v ≤ 262144) &&
        (match decodeAddr base with
          | some (.vatSram d _ off) => d == drVat v && decide (off + drCount v * drStride v ≤ 0x180000)
          | _ => false) &&
        (match decodeAddr (bits v 255 208) with | some (.syncCell _ _ _) => true | _ => false)))

/-- R39, R448, Table 13.3: a partition record. -/
def partRecordValid (v : Nat) : Bool :=
  bits v 127 122 == 0 && bits v 111 105 == 0 && bits v 95 91 == 0 && bits v 79 74 == 0 && bits v 63 61 == 0 && bits v 47 45 == 0 &&
    bits v 31 20 == 0 && bits v 15 13 == 0 && bits v 3 1 == 0 &&
    decide (partCount v ≤ 16) && decide (partFirst v + partCount v ≤ 16) && decide (partSyncFirst v + partSyncCount v ≤ 5120) &&
    decide (partMcFirst v + partMcCount v ≤ 1024) && decide (partRedCount v ≤ 511) && decide (partRedFirst v + partRedCount v ≤ 512)

/-- Table 13.5: an HBM address of a staging half, and the half inside one stack. -/
def halfValid (a pages : Nat) (mayBeNone : Bool) : Bool :=
  (mayBeNone && a == 0) ||
    (a % 4096 == 0 &&
      (match decodeAddr a with | some (.hbm _ off) => decide (a < 2 ^ 48) && decide (off + pages * 4096 ≤ 2 ^ 34) | _ => false))

/-- R469, Table 13.5: a slot record. -/
def slotRecordValid (v : Bytes) : Bool :=
  let pages := field v 32 4
  [0, 8, 16, 24].all (fun k => field v (k + 6) 2 == 0) && field v 36 1 / 64 == 0 && field v 37 1 / 16 == 0 && field v 38 1 / 2 == 0 && field v 39 9 == 0 &&
    (!slotEn v ||
      (decide (1 ≤ pages) && decide (pages ≤ 1048576) && halfValid (field v 0 8) pages false && halfValid (field v 8 8) pages true &&
        halfValid (field v 16 8) pages false && halfValid (field v 24 8) pages true))

/-- R486, Table 14.10: a media profile. PSLC_PAGES is at most the native pages of every fitted target. -/
def profileValid (s : State) (v : Bytes) : Bool :=
  let count := fun off : Nat => decide (field v off 1 ≤ 7)
  v.isEmpty ||
    (field v 10 2 == 0 && decide (field v 20 2 ≤ 400) && decide (field v 22 2 ≤ 25) && decide (256 ≤ field v 8 2) &&
      s.led.fitted.all (fun t => decide (field v 8 2 ≤ t.pages)) && decide (field v 26 1 ≤ 15) && field v 27 1 / 4 == 0 &&
      count 28 && count 52 && count 60 && field v 70 6 == 0 && field v 76 52 == 0)

/-- Table 14.11. -/
def layoutValid (v : Bytes) : Bool :=
  decide (16 ≤ field v 0 2) && decide (field v 0 2 ≤ 4096) && decide (2 ≤ field v 2 1) && decide (field v 2 1 ≤ 16) && field v 3 1 == 0 &&
    decide (8 ≤ field v 4 2) && decide (field v 4 2 ≤ 1024) && field v 6 10 == 0

/-- R547, Table 15.7: a capture buffer's configuration. -/
def bufferValid (s : State) (b v : Nat) : Bool :=
  let first := fun k : Nat => bcFirst (bufConfig s k)
  let tiles := fun k : Nat => bcTiles (bufConfig s k)
  bits v 127 96 == 0 && bits v 63 49 == 0 && bits v 39 38 == 0 && bits v 35 35 == 0 && bits v 5 3 == 0 &&
    (!bcEn v ||
      (decide (bits v 2 1 ≤ 1) && decide (1 ≤ bcTiles v) && decide (bcTiles v ≤ 16) && decide (bcFirst v + bcTiles v ≤ 16) &&
        decide (1 ≤ bits v 34 20) && decide (bits v 34 20 ≤ 1024 * bcTiles v) && (bcKind v != 3 || (decide (1 ≤ bits v 83 80) && decide (bits v 83 80 ≤ 4))) &&
        !((List.range 16).any (fun k => k != b && k / 4 == b / 4 && bcEn (bufConfig s k) && overlap (bcFirst v) (bcTiles v) (first k) (tiles k)))))

/-- R571, Table 15.12: a watch set of partition p. -/
def watchSetValid (cfg : Table Bytes) (p v : Nat) : Bool :=
  let es := [watchElem v 0, watchElem v 1, watchElem v 2]
  bits v 63 48 == 0 && es.all (fun e => bits e 14 12 == 0 && bits e 7 6 == 0 && (!elemEn e || partOwnsVat cfg p (elemDie e))) &&
    (!elemEn (watchElem v 2) || elemEn (watchElem v 1))

/-- OD 0x7200: a watchpoint's window and enable. -/
def watchValid (v : Nat) : Bool :=
  bits v 31 17 == 0 && (bits v 15 0 == 0 || (decide (256 ≤ bits v 15 0) && decide (bits v 15 0 ≤ 640)))

/-- R233, R234: a sequencer program: its length, then the checks of Table 6.11. -/
def programCheck (v : Bytes) : Option Nat :=
  if v.length < 16 || v.length ≠ 16 + 4 * field v 4 4 then some aTypeLength else need (progCheck v).isNone

/-- The value in a list. -/
def oneOf (v : Nat) (l : List Nat) : Option Nat := need (l.contains v)

/-- What the owning chapter requires of an entry's value beyond its kind and interval. Records with EN clear keep their reserved bits 0. -/
def ownRules (s : State) (idx sub : Nat) (v : Bytes) : Option Nat :=
  let x := leNat v
  let b := nextBank s false
  if idx = 0x1010 || idx = 0x1011 then
    if sub = 2 then oneOf x [500000, 1000000] else if sub = 3 then oneOf x [2000000, 4000000, 5000000, 8000000] else none
  else if idx = 0x1013 then need (x == 0 || (decide (100 ≤ x) && decide (x ≤ 10000)))
  else if inRange idx 0x2100 0x211F then
    need (decide (1 ≤ bits x 15 0) && decide (bits x 15 0 ≤ 1000) && decide (1 ≤ bits x 31 16) && decide (bits x 31 16 ≤ 4096))
  else if inRange idx 0x2400 0x24FF then mcRecordCheck b (4 * (idx - 0x2400) + sub - 1) x
  else if inRange idx 0x2500 0x250F then need (receiversValid (bankSize s (vatOwner b.cfg (idx - 0x2500))) v)
  else if inRange idx 0x2520 0x259F then need (redRecordValid b x)
  else if idx = 0x2801 then need (decide (freqFloor (sub - 1) ≤ x) && decide (x ≤ 1800000) && x % 12500 == 0)
  else if idx = 0x2860 && sub = 5 then need (decide ((sext 32 x).natAbs ≤ 1000000))
  else if inRange idx 0x3100 0x310F then programCheck v
  else if idx = 0x3404 then need (decide (x ≤ 1000000))
  else if inRange idx 0x3450 0x345F then need (windowValid b.cfg (idx - 0x3450) x)
  else if inRange idx 0x4010 0x4013 then
    need (bits x 15 6 == 0 && bits x 31 25 == 0 && ((!qcAllowed x && qcPart x == 0) || partOwnsPort b.cfg (qcPart x) (idx - 0x4010)))
  else if idx = 0x4401 then need (decide (x ≤ 1))
  else if idx = 0x4402 then need (decide (x ≤ 65535))
  else if idx = 0x4403 then need (decide (1 ≤ x) && decide (x ≤ 1048575))
  else if idx = 0x4404 then need (decide (1 ≤ x) && decide (x ≤ 1048576))
  else if inRange idx 0x4420 0x4423 then need (aqRecordValid x)
  else if inRange idx 0x4424 0x4427 then need (sqClassValid x)
  else if inRange idx 0x4430 0x4433 then need (meterValid x)
  else if inRange idx 0x4440 0x4443 then gateListCheck v
  else if inRange idx 0x4450 0x4453 then need (deliveryValid x)
  else if inRange idx 0x5021 0x502F && sub = 1 then need (partRecordValid x)
  else if inRange idx 0x5041 0x504F then need (slotRecordValid v)
  else if idx = 0x6001 then need (profileValid s v)
  else if idx = 0x6002 then need (layoutValid v)
  else if idx = 0x6007 then need (decide (x < 16))
  else if idx = 0x600C then
    need (decide (16 ≤ x) && decide (x ≤ 4096) && (if sub = 1 then decide (x < setting s 0x600C 2) else decide (setting s 0x600C 1 < x)))
  else if inRange idx 0x7060 0x706F && sub = 1 then need (bufferValid s (idx - 0x7060) x)
  else if inRange idx 0x7070 0x7083 then need (bits x 31 27 == 0 && bits x 15 6 == 0 && (decide (idx - 0x7070 < 16) || !bitAt x 5))
  else if inRange idx 0x7200 0x720F then need (watchValid x)
  else if inRange idx 0x7210 0x721F then need (watchSetValid b.cfg (idx - 0x7210) x)
  else if inRange idx 0x9010 0x9027 then need (bits x 31 18 == 0 && bits x 7 7 == 0 && (decide (idx - 0x9010 ≤ 16) || !bitAt x 17))
  else if idx = 0x9050 then need (decide ((if sub = 17 then 750 else 650) ≤ x) && decide (x ≤ 900) && x % 5 == 0)
  else none

/-- R57 and the chapter's rules, for an entry that no overlay table holds. -/
def valueCheck (s : State) (e : OdEntry) (idx sub : Nat) (v : Bytes) : Option Nat :=
  if !kindOk e v then some aValueOutOfRange else ownRules s idx sub v

/-- R454: an overlay entry of tint t, against the pending bank. -/
def overlayCheck (s : State) (idx : Nat) (v : Bytes) : Option Nat :=
  if v.isEmpty then none
  else
    let t := (idx - 0xC000) / 0x100 + 1
    let target := overlayTarget v
    let n := field v 4 4
    let cfg := nextConfig s false
    if v.length < 8 || v.length ≠ 8 + n then some aTypeLength
    else if field v 3 1 / 2 ≠ 0 then some aValueOutOfRange
    else match odLookup (target / 256) (target % 256) with
      | .inl _ => some aValueOutOfRange
      | .inr e =>
        let others := overlays (tdel cfg (odKey idx 0)) t
        if e.member ≠ .tinted then some aValueOutOfRange
        else if !lengthOk e n then some aTypeLength
        else match valueCheck s e (target / 256) (target % 256) (v.drop 8) with
          | some a => some a
          | none =>
            if others.any (fun o => overlayTarget o == target) then some aValueOutOfRange
            else need ((others.map (fun o => o.length - 8)).sum + n ≤ 65536) |>.map (fun _ => aResource)

/-- Step 9 of R635 for an entry that holds a value. -/
def storedCheck (s : State) (e : OdEntry) (idx sub : Nat) (v : Bytes) : Option Nat :=
  if inRange idx 0xC000 0xC6FF then overlayCheck s idx v else valueCheck s e idx sub v

/-! ### States (step 10 of R635) -/

/-- R61: the partition or unit that governs an RWD entry is drained. -/
def rwdDrained (s : State) (idx sub : Nat) : Bool :=
  let unit := fun k : Nat => let l := ledOf s k; l.state == 0 || l.state == 5 || l.state == 7
  if idx = 0x3002 then partDrained s (sub - 1)
  else if inRange idx 0x3100 0x310F then vatDrained s (idx - 0x3100)
  else if inRange idx 0x7200 0x720F then vatDrained s (idx - 0x7200)
  else if idx = 0x6001 then (List.range 4).all unit
  else if idx = 0x6002 then unit (sub - 1)
  else true

/-- Step 10 of R635 for an entry that holds a value. -/
def stateCheck (s : State) (e : OdEntry) (idx sub : Nat) : Option Nat :=
  if e.acc = .rwe && s.ep.state ≠ 0 then some aEpochBusy
  else if e.acc = .rwd && !rwdDrained s idx sub then some aNotDrained
  else if inRange idx 0x3100 0x310F then
    let q := seqOf s (idx - 0x3100)
    if q.state = 2 || q.state = 3 then some aStateConflict else none
  else if inRange idx 0x7060 0x706F && sub = 1 then
    let st := (bufOf s (idx - 0x7060)).state
    if st = 1 || st = 2 then some aStateConflict else none
  else none

end Sys2Proof.Machine
end

