-- ==== Sys2Proof/Machine/Post.lean ====
section
/-!
DEFINITION. Machine/Post.lean: posting a completion (R50, R343, R404 to R406, R418, R419) and freeing its context (R139, R146).
-/
namespace Sys2Proof.Machine

/-- Table 11.4 in table order, for STATUS_COUNTS. -/
def statusCodes : List Nat :=
  [0, 0x0101, 0x0102, 0x0103, 0x0104, 0x0105, 0x0106, 0x0107, 0x0108, 0x0109, 0x0110, 0x0111, 0x0112, 0x0120, 0x0121, 0x0122, 0x0123,
   0x0201, 0x0202, 0x0203, 0x0204, 0x0301, 0x0302, 0x0303, 0x0304, 0x0305, 0x0306, 0x0307]

/-- Table 11.8: a completion entry. -/
def completionBytes (o : Outcome) (reqId sq head : Nat) (phase : Bool) : Bytes :=
  leBytes 8 (bitOf phase + bitOf o.admitted * 2 + bitOf o.journaled * 4 + bitOf o.unjournaled * 8 + bitOf o.inline * 16 + o.tag % 65536 * 2 ^ 48)
    ++ leBytes 8 (o.detail % 256 * 2 ^ 8 + o.status % 65536 * 2 ^ 16 + sq % 16 * 2 ^ 44 + head % 65536 * 2 ^ 48)
    ++ leBytes 4 o.resultLen ++ leBytes 4 o.generation ++ leBytes 8 reqId ++ padTo o.result 16 ++ leBytes 8 o.journalSeq
    ++ leBytes 8 o.admitTick

/-- R51, R412, R416, R417: what the completion of an admitted request carries. -/
def admittedOutcome (n c : Nat) (x : Context) (r : Request) : Outcome :=
  let o := ctxOutcome x r
  let v := ctxVerdict x r
  { o with
    result := if descOpcode r.desc = 2 then leBytes 8 v ++ padTo (o.result.take 8) 8 else o.result
    generation := x.generation
    journalSeq := x.journalSeq
    admitTick := x.admitTick
    tag := ctxTag n c x.gen
    admitted := true
    journaled := x.record
    unjournaled := x.norecord }

/-- R50: the request's completion is due, and what it carries: its outcome is known and, for an admitted request, its record is accepted, or
discarded while the journal is not required. -/
def dueOutcome (s : State) (n : Nat) (r : Request) : Option Outcome :=
  match r.stage with
  | .completing => some r.out
  | .admitted =>
    match r.ctx with
    | none => none
    | some c =>
      let x := ctxOf s n c
      if (x.state == 2 || x.state == 4) && !x.posted && (x.record || x.norecord) then some (admittedOutcome n c x r) else none
  | _ => none

/-- R343: on an ORDERED queue no earlier request's completion is still to be posted. -/
def orderOk (s : State) (n : Nat) (r : Request) : Bool :=
  !r.ordered || !((portOf s n).reqs.any (fun x => x.sq == r.sq && decide (x.num < r.num) && !x.orphan))

/-- R405: a completion queue has a free slot. -/
def cqFree (x : Cq) : Bool := x.en && decide (2 ≤ x.size) && decide ((x.tail + x.size - x.hostHead) % x.size < x.size - 1)

/-- R139, R146: the context of a completed request is freed: at once from FAULTED, and from FINISHING once the vats have killed what still
carries its tag. -/
def releaseContext (s : State) (n c : Nat) : State :=
  let x := ctxOf s n c
  if x.state = 2 then
    let vats := (partVats s.cfg x.partition).filter (dieUp s)
    let s := modCtx s n c fun x => { x with posted := true, kills := vats, killAt := s.now, killLast := s.now }
    let s := vats.foldl (fun s d => sendKill s n (ctxTag n c x.gen) x.partition d) s
    if vats.isEmpty then freeContext s n c else s
  else freeContext s n c

/-- R418: a completion counts towards its queue's message. -/
def coalesce (s : State) (n m : Nat) : State :=
  let x := cqOf s n m
  if !x.irqEn then s
  else if x.coalCount ≤ x.posted + 1 then msixSend (modCq s n m fun x => { x with posted := 0 }) n x.vec
  else modCq s n m fun x => { x with posted := x.posted + 1, firstAt := if x.posted = 0 then s.now else x.firstAt }

/-- A request leaves the port, and the context it held is freed. -/
def dropRequest (s : State) (n : Nat) (r : Request) : State :=
  let s := match r.stage, r.ctx with
    | .admitted, some c => releaseContext s n c
    | _, _ => s
  modPortOf s n fun x => { x with reqs := x.reqs.filter (fun y => y.num != r.num) }

/-- R406: the result, the completion and the interrupt are written. -/
def writeCompletion (s : State) (n : Nat) (r : Request) (o : Outcome) : State :=
  let m := (sqOf s n r.sq).cq
  let x := cqOf s n m
  let s := if o.output.isEmpty then s else emitOut s (.hostWrite n (descOutput r.desc) o.output)
  let s := emitOut s (.hostWrite n (x.base + 64 * x.tail) (completionBytes o (descReqId r.desc) r.sq (sqOf s n r.sq).head x.phase))
  let tail := (x.tail + 1) % x.size
  let s := modCq s n m fun y => { y with tail := tail, phase := if tail = 0 then !y.phase else y.phase }
  let s := modPortOf (portStat s n 1 1) n fun y => { y with status := tinc y.status (statusCodes.idxOf o.status) 1 }
  dropRequest (coalesce s n m) n r

/-- COMPLETION_POST (R50, R343, R404 to R406, R419): a completion that is due is posted, or discarded where the port has been reset since its
request was fetched. -/
def execCompletionPost (port : PortId) (req : Nat) (s : State) : Host.Outcome State Fault Refusal :=
  let n := port.val
  match reqOf s n req with
  | none => .next s
  | some r =>
    let s := match r.stage, r.ctx with
      | .admitted, some c => if (ctxOf s n c).journal then s else acceptRecord s n c
      | _, _ => s
    match dueOutcome s n r with
    | none => .next s
    | some o =>
      if r.orphan then
        let s := report (portStat s n 3 1) { cause := 0x74, cls := 2, unit := 0x11, source := portFrontTile n, detail := 1 }
        .next (dropRequest s n r)
      else if dieUp s (16 + n) && portUp s n && linkOk s n && orderOk s n r && cqFree (cqOf s n (sqOf s n r.sq).cq) then
        .next (writeCompletion s n r o)
      else .next s

end Sys2Proof.Machine
end

