-- ==== Sys2Proof/Machine/VatOp.lean ====
section
/-!
DEFINITION. Machine/VatOp.lean: the op descriptor (Tables 5.3, 5.5 and 5.6), its checks (R114, R176 to R179), and the operands of ops as rows of
elements.
-/
namespace Sys2Proof.Machine

/-- An op descriptor (Table 5.5). -/
structure Desc where
  raw : Nat
  deriving DecidableEq, Repr

def Desc.opcode (d : Desc) : Nat := bits d.raw 7 0
def Desc.fmtA (d : Desc) : Nat := bits d.raw 11 8
def Desc.fmtB (d : Desc) : Nat := bits d.raw 15 12
def Desc.fmtOut (d : Desc) : Nat := bits d.raw 19 16
def Desc.exact (d : Desc) : Bool := bitAt d.raw 21
def Desc.sat (d : Desc) : Bool := bitAt d.raw 22
def Desc.acc (d : Desc) : Bool := bitAt d.raw 23
def Desc.release (d : Desc) : Bool := bitAt d.raw 24
def Desc.transB (d : Desc) : Bool := bitAt d.raw 25
def Desc.faultRange (d : Desc) : Bool := bitAt d.raw 26
def Desc.window (d : Desc) : Nat := bits d.raw 47 32
def Desc.func (d : Desc) : Nat := bits d.raw 55 48
def Desc.addrA (d : Desc) : Nat := bits d.raw 127 64
def Desc.addrB (d : Desc) : Nat := bits d.raw 191 128
def Desc.addrOut (d : Desc) : Nat := bits d.raw 255 192
def Desc.aux (d : Desc) : Nat := bits d.raw 287 256
def Desc.dim0 (d : Desc) : Nat := bits d.raw 319 304
def Desc.dim1 (d : Desc) : Nat := bits d.raw 335 320
def Desc.dim2 (d : Desc) : Nat := bits d.raw 351 336
def Desc.strideA (d : Desc) : Nat := bits d.raw 383 352
def Desc.strideB (d : Desc) : Nat := bits d.raw 415 384
def Desc.strideOut (d : Desc) : Nat := bits d.raw 447 416
def Desc.imm (d : Desc) : Nat := bits d.raw 511 448

/-- Reserved fields of the descriptor and of its address fields are 0. -/
def Desc.clean (d : Desc) : Bool :=
  !bitAt d.raw 20 && bits d.raw 31 27 == 0 && bits d.raw 63 56 == 0 && bits d.raw 303 288 == 0 &&
    bits d.addrA 63 54 == 0 && bits d.addrB 63 54 == 0 && bits d.addrOut 63 54 == 0

/-- The fields that an op uses (Table 5.3 and the rules of its section): each bit mask covers the bits of the field that may be set. -/
structure Uses where
  fmtA : Bool := false
  fmtB : Bool := false
  fmtOut : Bool := false
  addrA : Bool := false
  addrB : Bool := false
  addrOut : Bool := false
  rows : Bool := false
  dim2 : Bool := false
  strideA : Bool := false
  strideB : Bool := false
  strideOut : Bool := false
  sat : Bool := false
  acc : Bool := false
  exact : Bool := false
  release : Bool := false
  transB : Bool := false
  func : Nat := 0
  aux : Nat := 0
  imm : Nat := 0
  deriving DecidableEq, Repr

def isBinary (fn : Nat) : Bool := [1, 2, 3, 4, 5, 6].contains fn

/-- Table 5.3, Table 5.4, Table 5.5. -/
def Desc.uses (d : Desc) : Uses :=
  let c := d.opcode
  let fn := d.func
  if c = 1 || c = 2 then
    { fmtA := true, fmtOut := true, addrA := true, addrOut := true, rows := true, strideA := true, strideOut := true, sat := true }
  else if c = 3 || c = 4 then
    { fmtA := true, fmtOut := true, addrA := true, addrB := true, addrOut := true, rows := true, strideA := true, strideOut := true
      aux := 2 ^ 32 - 1 }
  else if c = 5 then
    { fmtA := true, fmtB := true, fmtOut := true, addrA := true, addrB := true, addrOut := true, rows := true, dim2 := true
      strideA := true, strideB := true, strideOut := true, sat := true, acc := true, exact := true, transB := true }
  else if c = 6 then
    { fmtA := true, fmtB := isBinary fn, fmtOut := true, addrA := true, addrB := isBinary fn, addrOut := true, rows := true
      strideA := true, strideB := isBinary fn, strideOut := true, sat := true, acc := fn == 4 || fn == 0x20, exact := fn == 0x20
      func := 0xFF
      imm := if fn = 0x0A then 2 ^ 64 - 1 else if fn = 0x0B then 2 ^ 64 - 2 ^ 48 + 2 ^ 38 - 1 else 0 }
  else if c = 7 then
    { fmtA := true, fmtOut := true, addrA := true, addrB := true, addrOut := true, rows := true, dim2 := true
      strideA := true, strideB := true, strideOut := true, sat := true, acc := true, exact := true, aux := 2 ^ 32 - 1 }
  else if c = 8 then
    { fmtA := true, fmtOut := true, addrA := true, addrB := true, addrOut := true, rows := true, strideA := true, strideOut := true
      sat := true, acc := fn == 1, exact := fn == 1, func := 0xFF, aux := 2 ^ 32 - 1 }
  else if c = 9 then { fmtA := true, addrA := true, rows := true, strideA := true, release := true, aux := 0x1FF }
  else if c = 0x0A then { aux := 0x3FF, imm := 2 ^ 32 - 1 }
  else if c = 0x0B then { addrA := true, func := 0x1F, aux := 0xFFFF, imm := 2 ^ 64 - 1 }
  else if c = 0x0D then { fmtA := true, addrA := true, rows := true, strideA := true, aux := 0x3F, imm := 2 ^ 48 - 1 }
  else if c = 0x0E then { addrOut := true, aux := 0x3F, imm := 2 ^ 48 - 1 }
  else if c = 0x0F then { fmtA := true, addrA := true, addrOut := true, rows := true, strideA := true, release := true, aux := 0x3FF }
  else {}

/-- Every set bit of a value lies in a mask. -/
def within (v mask : Nat) : Bool := v.land mask == v

/-- R177: the fields that an op does not use are 0, and those it uses are in range. -/
def Desc.fieldsOk (d : Desc) : Bool :=
  let u := d.uses
  let zero := fun (used : Bool) (v : Nat) => used || v == 0
  d.clean && decide (d.opcode < 16) &&
    zero u.fmtA d.fmtA && zero u.fmtB d.fmtB && zero u.fmtOut d.fmtOut && zero u.addrA d.addrA && zero u.addrB d.addrB &&
    zero u.addrOut d.addrOut && zero u.rows d.dim0 && zero u.rows d.dim1 && zero u.dim2 d.dim2 && zero u.strideA d.strideA &&
    zero u.strideB d.strideB && zero u.strideOut d.strideOut && (u.sat || !d.sat) && (u.acc || !d.acc) && (u.exact || !d.exact) &&
    (u.release || !d.release) && (u.transB || !d.transB) && within d.func u.func && within d.aux u.aux && within d.imm u.imm &&
    (!u.rows || (d.dim0 != 0 && d.dim1 != 0)) && (!u.dim2 || d.dim2 != 0) && (d.opcode != 7 || decide (d.dim2 ≤ 12)) &&
    (if d.exact then windowOkReam d.window else d.window == 0 && !d.faultRange) &&
    decide (d.fmtA ≤ 9) && decide (d.fmtB ≤ 9) && decide (d.fmtOut ≤ 9) &&
    (d.opcode != 6 || decide (d.func ≤ 0x0B) || (decide (0x10 ≤ d.func) && decide (d.func ≤ 0x17)) || d.func == 0x20 || d.func == 0x21) &&
    (d.opcode != 8 || decide (d.func ≤ 2)) && (d.opcode != 6 || d.func != 0x0B || decide (bits d.imm 37 32 ≤ 62))

def isFloatFmt (c : Nat) : Bool := decide (4 ≤ c) && decide (c ≤ 8)

/-- R303: an output of a sum: REAM and the formats of the final conversion under EXACT, any format but REAM otherwise. -/
def Desc.sumOut (d : Desc) : Bool := if d.exact then decide (3 ≤ d.fmtOut) else d.fmtOut != 9

/-- R160, R168, R181 to R187, R301: the formats and combinations that each op allows. -/
def Desc.formatsOk (d : Desc) : Bool :=
  let a := d.fmtA
  let o := d.fmtOut
  let c := d.opcode
  if c = 1 || c = 2 || (c = 6 && d.func = 0) then (a == 9) == (o == 9)
  else if c = 3 || c = 4 then a == o && a != 9
  else if c = 5 then
    if a ≤ 2 then !d.exact && d.fmtB == a && o == 3
    else ((a == 4 || a == 5) && (d.fmtB == 4 || d.fmtB == 5) || (a == 6 || a == 7) && d.fmtB == a) &&
      (o == 6 || o == 7 || o == 8 || (d.exact && o == 9))
  else if c = 6 then
    if d.func = 0x0B then isIntFmt a && isIntFmt o
    else a != 9 && d.fmtB != 9 && (!d.exact || isFloatFmt a) && d.sumOut
  else if c = 7 then (a == 8 || a == 7 || a == 6) && d.sumOut
  else if c = 8 then (isFloatFmt a || (a == 1 && !d.exact)) && d.sumOut
  else if c = 9 then decide (3 ≤ a)
  else true

/-- Bytes of a row of n elements. -/
def rowBytes (fmt n : Nat) : Nat := if fmt = 0 then n / 2 else n * (fmtBits fmt / 8)

/-- Alignment of an element: INT4 counts as 1 byte. -/
def fmtAlign (fmt : Nat) : Nat := if fmt = 0 then 1 else fmtBits fmt / 8

/-- An operand as the checks see it: its address, rows, pitch, row bytes, alignment, its format and elements per row, and where it must lie. -/
structure Operand where
  addr : Nat
  wrel : Bool
  rows : Nat
  stride : Nat
  rb : Nat
  align : Nat
  fmt : Nat
  elems : Nat
  home : Bool
  out : Bool
  pitched : Bool := true
  deriving DecidableEq, Repr

/-- The first address past an operand's span. -/
def Operand.stop (x : Operand) : Nat := if x.rows = 0 then x.addr else x.addr + (x.rows - 1) * x.stride + x.rb

/-- Table 5.6, R176: the address that a field resolves to, and whether it is weight-relative. -/
def resolveAddr (s : State) (d slice : Nat) (x : Fibre) (f : Nat) : Nat :=
  let reg := if bitAt f 52 then (regGet x.regs (bits f 51 48)).toNat else 0
  let bank := if bitAt f 53 then d * 2 ^ 27 + slice * 2 ^ 21 + bankOffset s (vatOwner s.cfg d) (x.bank.getD 0) else 0
  (reg + bank + bits f 47 0) % 2 ^ 48

/-- R185: size of a tree of depth k. -/
def treeBytes (k : Nat) : Nat := 8 * (2 ^ k - 1) + 4 * 2 ^ k

/-- An op with its descriptor and its resolved addresses. -/
structure OpCtx where
  d : Nat
  slice : Nat
  slot : Nat
  x : Fibre
  desc : Desc
  a : Nat
  b : Nat
  o : Nat
  deriving DecidableEq, Repr

def OpCtx.home (c : OpCtx) : Nat := c.d * 2 ^ 27 + c.slice * 2 ^ 21
def OpCtx.owner (c : OpCtx) : Initiator := fibreOwner c.d c.slice c.slot c.x
def OpCtx.node (c : OpCtx) : Nat := nodeAt c.d c.slice

/-- The operands of an op that the checks of R177 cover. -/
def OpCtx.operands (c : OpCtx) : List Operand :=
  let e := c.desc
  let el := fun (addr f rows stride fmt n : Nat) (home out : Bool) =>
    ({ addr := addr, wrel := bitAt f 53, rows := rows, stride := stride, rb := rowBytes fmt n, align := fmtAlign fmt, fmt := fmt, elems := n
       home := home, out := out } : Operand)
  let idx : Operand := el c.b e.addrB 1 0 3 e.dim0 true false
  if e.opcode = 1 then
    [el c.a e.addrA e.dim0 e.strideA e.fmtA e.dim1 false false, el c.o e.addrOut e.dim0 e.strideOut e.fmtOut e.dim1 true true]
  else if e.opcode = 2 then
    [el c.a e.addrA e.dim0 e.strideA e.fmtA e.dim1 true false, el c.o e.addrOut e.dim0 e.strideOut e.fmtOut e.dim1 false true]
  else if e.opcode = 3 then
    [el c.a e.addrA e.aux e.strideA e.fmtA e.dim1 false false, idx, el c.o e.addrOut e.dim0 e.strideOut e.fmtOut e.dim1 true true]
  else if e.opcode = 4 then
    [el c.a e.addrA e.dim0 e.strideA e.fmtA e.dim1 true false, idx, el c.o e.addrOut e.aux e.strideOut e.fmtOut e.dim1 false true]
  else if e.opcode = 5 then
    [el c.a e.addrA e.dim0 e.strideA e.fmtA e.dim2 true false,
     (if e.transB then el c.b e.addrB e.dim1 e.strideB e.fmtB e.dim2 true false else el c.b e.addrB e.dim2 e.strideB e.fmtB e.dim1 true false),
     el c.o e.addrOut e.dim0 e.strideOut e.fmtOut e.dim1 true true]
  else if e.opcode = 6 then
    [el c.a e.addrA e.dim0 e.strideA e.fmtA e.dim1 true false] ++
      (if isBinary e.func then [el c.b e.addrB (if e.strideB = 0 then 1 else e.dim0) e.strideB e.fmtB e.dim1 true false] else []) ++
      [el c.o e.addrOut e.dim0 e.strideOut e.fmtOut (if 0x20 ≤ e.func then 1 else e.dim1) true true]
  else if e.opcode = 7 then
    [el c.a e.addrA e.dim0 e.strideA e.fmtA e.dim1 true false,
     { addr := c.b, wrel := bitAt e.addrB 53, rows := e.aux, stride := e.strideB, rb := treeBytes e.dim2, align := 8, fmt := 8, elems := 0
       home := true, out := false },
     el c.o e.addrOut e.dim0 e.strideOut e.fmtOut 1 true true]
  else if e.opcode = 8 then
    [el c.a e.addrA e.aux e.strideA e.fmtA e.dim1 false false, idx,
     el c.o e.addrOut (if e.func = 0 then e.dim0 else 1) e.strideOut e.fmtOut e.dim1 true true]
  else if e.opcode = 9 || e.opcode = 0x0D || e.opcode = 0x0F then [el c.a e.addrA e.dim0 e.strideA e.fmtA e.dim1 true false]
  else if e.opcode = 0x0E then
    [{ addr := c.o, wrel := bitAt e.addrOut 53, rows := 1, stride := 0, rb := 128, align := 32, fmt := 8, elems := 0, home := true, out := true
       pitched := false }]
  else []

/-- R150, R177: an operand is well placed: aligned, in its bank, in the home slice, its output pitch no less than its row. -/
def OpCtx.placed (c : OpCtx) (s : State) (x : Operand) : Bool :=
  let part := vatOwner s.cfg c.d
  let bank := c.home + bankOffset s part (c.x.bank.getD 0)
  x.addr % x.align == 0 && (x.fmt != 0 || x.elems % 2 == 0) && (!x.out || !x.pitched || decide (x.rb ≤ x.stride)) &&
    (!x.wrel || (x.home && c.x.bank.isSome && (x.rows == 0 || (decide (bank ≤ x.addr) && decide (x.stop ≤ bank + bankSize s part))))) &&
    (!x.home || x.rows == 0 || (decide (c.home ≤ x.addr) && decide (x.stop ≤ c.home + 0x180000)))

/-- R179: an output may overlap an input only where an ELTWISE output coincides with it exactly. -/
def OpCtx.overlapOk (c : OpCtx) : Bool :=
  let ops := c.operands.filter (fun x => x.rows != 0)
  !([3, 5, 6, 7, 8, 1].contains c.desc.opcode) ||
    (ops.filter (·.out)).all (fun o => (ops.filter (fun x => !x.out)).all (fun i =>
      decide (o.stop ≤ i.addr) || decide (i.stop ≤ o.addr) ||
        (c.desc.opcode == 6 && o.addr == i.addr && o.stop == i.stop && o.fmt == i.fmt && o.stride == i.stride)))

/-- R566: what a WATCH's and R570: what a DIGEST's length must be; R564: its watchpoint is enabled. -/
def OpCtx.watchOk (c : OpCtx) (s : State) : Bool :=
  let e := c.desc
  let on := bitAt (setting s (0x7200 + c.d) (e.aux + 1)) 16
  if e.opcode = 0x0D then on && e.imm % 4096 == 0 && decide (e.imm + e.dim0 * rowBytes e.fmtA e.dim1 ≤ 2 ^ 26)
  else if e.opcode = 0x0E then on && decide (1 ≤ e.imm) && decide (e.imm ≤ 2 ^ 26)
  else true

/-- The byte ranges of an operand's rows: one range where the rows follow each other. -/
def rowRanges (addr rows stride rb : Nat) : List (Nat × Nat) :=
  if rows = 0 || rb = 0 then []
  else if rows = 1 || stride = rb then [(addr, rows * rb)]
  else (List.range rows).map (fun r => (addr + r * stride, rb))

/-- R181: a range touches a sync cell. -/
def touchesCell (r : Nat × Nat) : Bool := decide (r.1 < 0xA0140000) && decide (0xA0000000 < r.1 + r.2)

/-- R114. -/
def rangesMapped (l : List (Nat × Nat)) : Bool := l.all (fun r => rangeMapped (r.2 / 256 + 3) r.1 r.2)

/-- R185: tree pitch of a TREE_EVAL. -/
def OpCtx.treeOk (c : OpCtx) : Bool :=
  c.desc.opcode != 7 || (decide (treeBytes c.desc.dim2 ≤ c.desc.strideB) && c.desc.strideB % 8 == 0)

/-- The remote ranges of a LOAD or STORE. -/
def OpCtx.moveRanges (c : OpCtx) : List (Nat × Nat) :=
  (c.operands.filter (fun x => !x.home && (c.desc.opcode == 1 || c.desc.opcode == 2))).flatMap
    (fun x => rowRanges x.addr x.rows x.stride x.rb)

/-- Weight-relative addressing stands only on operands (Table 5.6). -/
def OpCtx.wrelOk (c : OpCtx) : Bool :=
  !(bitAt c.desc.addrA 53 && c.desc.opcode == 0x0B) && !(bitAt c.desc.addrOut 53 && c.desc.opcode == 0x0F)

/-- R177, R179, R114: the fault of a descriptor before its op has any effect. -/
def OpCtx.check (c : OpCtx) (s : State) : Option Nat :=
  if !(c.desc.fieldsOk && c.desc.formatsOk && c.treeOk && c.wrelOk && c.operands.all (c.placed s) && c.overlapOk && c.watchOk s) then some 8
  else if c.moveRanges.any touchesCell then some 8
  else if !rangesMapped c.moveRanges then some 1
  else none

/-- An op begins: a fibre that is READY, or one whose op waits for a leaf context, a watchpoint or its data, executes the descriptor at its op index,
if the descriptor is one that the command names (R103, R175). -/
def runOp (vat slice slot : Nat) (mine : Desc → Bool) (f : State → OpCtx → State) (s : State) : Host.Outcome State Fault Refusal :=
  match fibreAt s vat slice slot with
  | none => .next s
  | some x =>
    let ready := x.state = 1 || (match x.wait with | some (.leaf _ _ _ _) => true | some (.watch _) => true | _ => false)
    let off := x.program + 64 * x.opIndex
    let base := vat * 2 ^ 27 + slice * 2 ^ 21
    if !ready || !dieUp s vat then .next s
    else if 0x180000 < off + 64 then .next (fibreFault s vat slice slot 1)
    else if x.desc.isEmpty && badRange s (base + off) 64 then
      .next (fibreFault (ueReport s (.vatSram vat slice off) (base + off)) vat slice slot 7)
    else
      let raw := if x.desc.isEmpty then readMem s (base + off) 64 else x.desc
      let e : Desc := { raw := leNat raw }
      if !mine e then .next s
      else
        let x := { x with desc := raw }
        let c : OpCtx :=
          { d := vat, slice := slice, slot := slot, x := x, desc := e, a := resolveAddr s vat slice x e.addrA
            b := resolveAddr s vat slice x e.addrB, o := resolveAddr s vat slice x e.addrOut }
        match c.check s with
        | some code => .next (fibreFault s vat slice slot code)
        | none => .next (f (putFibre s vat slice slot x) c)

def OpCtx.fault (c : OpCtx) (s : State) (code : Nat) : State := fibreFault s c.d c.slice c.slot code
def OpCtx.finish (c : OpCtx) (s : State) : State := finishOp s c.d c.slice c.slot
def OpCtx.park (c : OpCtx) (s : State) (w : FibreWait) : State := putFibre s c.d c.slice c.slot { c.x with state := 3, wait := some w }

/-! ### Elements -/

/-- The elements of a row's bytes, as patterns. -/
def rowElems (fmt n : Nat) (b : Bytes) : List Nat :=
  if fmt = 0 then (List.range n).map (fun i => bits (field b (i / 2) 1) (4 * (i % 2) + 3) (4 * (i % 2)))
  else (List.range n).map (fun i => field b (fmtBits fmt / 8 * i) (fmtBits fmt / 8))

/-- INT4 patterns two to a byte (R153). -/
def packNibbles : List Nat → Bytes
  | a :: b :: l => BitVec.ofNat 8 (a % 16 + b % 16 * 16) :: packNibbles l
  | [a] => [BitVec.ofNat 8 (a % 16)]
  | [] => []

def packElems (fmt : Nat) (l : List Nat) : Bytes := if fmt = 0 then packNibbles l else l.flatMap (leBytes (fmtBits fmt / 8))

/-- The rows of an operand in memory. -/
def readRows (s : State) (addr rows stride rb : Nat) : List Bytes := (List.range rows).map (fun r => readMem s (addr + r * stride) rb)

/-- A row of the home slice written element by element: those that the op does not write keep their value. -/
def writeElems (s : State) (addr fmt : Nat) (l : List (Option Nat)) : State :=
  if l.all (·.isSome) then writeClean s addr (packElems fmt (l.map (·.getD 0)))
  else l.zipIdx.foldl (fun s e =>
    match e.1 with
    | some v => writeClean s (addr + e.2 * (fmtBits fmt / 8)) (packElems fmt [v])
    | none => s) s

/-- R180: after a late fault, which of the other elements are written is left open: each is, or is not, by a free value. -/
def dropSome (s : State) : List (Option Nat) → State × List (Option Nat)
  | [] => (s, [])
  | v :: l =>
    let (k, s) := draw s
    let (s, l) := dropSome s l
    (s, (if k % 2 = 1 then v else none) :: l)

/-- The results of an op, element by element, none where the element's computation faults with ARITH: they are written, and the fibre goes on or
faults (R180). -/
def OpCtx.store (c : OpCtx) (s : State) (rows : List (List (Option Nat))) : State :=
  let e := c.desc
  let bad := rows.any (fun r => r.any (·.isNone))
  let s := rows.zipIdx.foldl (fun s r =>
    let (s, l) := if bad then dropSome s r.1 else (s, r.1)
    writeElems s (c.o + r.2 * e.strideOut) e.fmtOut l) s
  if bad then c.fault s 9 else c.finish s

/-- R328: a compute op's read of the home slice is uncorrectable. -/
def OpCtx.badInput (c : OpCtx) (s : State) : Option Nat :=
  let ins := c.operands.filter (fun x => x.home && (!x.out || c.desc.acc))
  ((ins.flatMap (fun x => rowRanges x.addr x.rows x.stride x.rb)).find? (fun r => badRange s r.1 r.2)).map (·.1)

/-- A compute op: its inputs are read, and its results written. -/
def OpCtx.compute (c : OpCtx) (s : State) (f : State → State × List (List (Option Nat))) : State :=
  match c.badInput s with
  | some a => c.fault (match decodeAddr a with | some r => ueReport s r a | none => s) 7
  | none =>
    let (s, rows) := f s
    c.store s rows

end Sys2Proof.Machine
end

