-- ==== Sys2Proof/Machine/VatMath.lean ====
section
/-!
DEFINITION. Machine/VatMath.lean: the ops that compute on the home slice (R161 to R170, R183 to R186): MATMUL, ELTWISE and its functions,
TREE_EVAL, and the row work of EMBED.
-/
namespace Sys2Proof.Machine

/-- An element widened to FP32 (R156, R159), as a pattern. -/
def widen (fmt v : Nat) : Nat := round32 (decodeElem fmt v)

/-- An FP32 pattern converted to a format other than REAM. -/
def narrow (fmt : Nat) (sat : Bool) (v : Nat) : Nat := encodeElem fmt sat (fp32 v)

/-- R169, R304: a REAM element rewritten with its own residue; none where its residue is wrong. -/
def reamCopy (v : Nat) : Option Nat := (ofMemory v).map (fun w => w.memory.1)

/-- R156, R169: one element converted from a format to another, REAM only to REAM. -/
def convertElem (fa fo : Nat) (sat : Bool) (v : Nat) : Option Nat :=
  if fa = 9 then reamCopy v else some (encodeElem fo sat (decodeElem fa v))

/-! ### EXACT sums -/

/-- The flags that an EXACT op raises: INEXACT and RANGE_FAULT. -/
structure ReamFlags where
  inexact : Bool := false
  range : Bool := false
  deriving DecidableEq, Repr

def ReamFlags.or (a b : ReamFlags) : ReamFlags := { inexact := a.inexact || b.inexact, range := a.range || b.range }

/-- The prior output of an EXACT op as a Ream value at its window (R167). -/
def Desc.priorReam (e : Desc) (v : Nat) : Option (Wire × ReamFlags) :=
  if e.fmtOut = 9 then (ofMemory v).map (fun w => (w, {}))
  else
    let w := toReam e.window (decodeElem e.fmtOut v)
    some (w, { inexact := w.inexact, range := w.range })

/-- R167: the sum of terms, converted at entry, with the prior output where ACC is set; the output element, none for ARITH (R169, R170). -/
def Desc.exactSum (e : Desc) (terms : List Num) (prior : Nat) : Option Nat × ReamFlags :=
  let ws := terms.map (toReam e.window)
  let start : Option (Wire × ReamFlags) := if e.acc then e.priorReam prior else some ({ t := 0 }, {})
  match start with
  | none => (none, {})
  | some (w0, f0) =>
    let sum := ws.foldl Wire.add w0
    let flags := f0.or { inexact := ws.any (·.inexact), range := ws.any (·.range) }
    let (out, sat) := if e.fmtOut = 9 then sum.memory else (encodeElem e.fmtOut e.sat (sum.num e.window), false)
    let flags := flags.or { range := sat }
    (if e.faultRange && flags.range then none else some out, flags)

/-- R170, R304: flags raised are counted once per op; RANGE_FAULT of a REAM output travels in the value. -/
def OpCtx.countFlags (c : OpCtx) (s : State) (l : List ReamFlags) : State :=
  modVat s c.d fun v =>
    { v with
      inexactOps := Nat.min (2 ^ 32 - 1) (v.inexactOps + bitOf (l.any (·.inexact)))
      rangeOps := Nat.min (2 ^ 32 - 1) (v.rangeOps + bitOf (c.desc.fmtOut != 9 && l.any (·.range))) }

/-- The results of an op whose elements carry flags. -/
def OpCtx.flagged (c : OpCtx) (s : State) (rows : List (List (Option Nat × ReamFlags))) : State × List (List (Option Nat)) :=
  (c.countFlags s (rows.flatMap (fun r => r.map (·.2))), rows.map (fun r => r.map (·.1)))

/-- Results without flags. -/
def plain (rows : List (List (Option Nat))) : List (List (Option Nat × ReamFlags)) := rows.map (fun r => r.map (fun v => (v, {})))

/-- R165: a sequential FP32 sum from +0 or the prior output. -/
def seqSum (start : Nat) (l : List Nat) : Nat := l.foldl fp32Add start

/-- The rows of an operand as patterns. -/
def OpCtx.rowsOf (s : State) (addr rows stride fmt n : Nat) : List (List Nat) :=
  (readRows s addr rows stride (rowBytes fmt n)).map (rowElems fmt n)

/-- The prior output, n elements a row. -/
def OpCtx.prior (c : OpCtx) (s : State) (rows n : Nat) : List (List Nat) :=
  OpCtx.rowsOf s c.o rows c.desc.strideOut c.desc.fmtOut n

/-! ### MATMUL -/

/-- Terms taken 32 at a time (R164). -/
def chunks32 {α : Type} : Nat → List α → List (List α)
  | 0, _ => []
  | f + 1, l => if l.isEmpty then [] else l.take 32 :: chunks32 f (l.drop 32)

/-- R163, R164, R167: one output element from its row of A, its column of B and its prior value. -/
def Desc.matmulElem (e : Desc) (a b : List Nat) (prior : Nat) : Option Nat × ReamFlags :=
  if isIntFmt e.fmtA then
    let sum := (List.zipWith (fun x y => sext (fmtBits e.fmtA) x * sext (fmtBits e.fmtB) y) a b).foldl (· + ·) 0
    (some (ofInt 32 (sum + if e.acc then sext 32 prior else 0)), {})
  else
    let terms := List.zipWith (fun x y => numMul (decodeElem e.fmtA x) (decodeElem e.fmtB y)) a b
    if e.exact then e.exactSum terms prior
    else
      let start := if e.acc then widen e.fmtOut prior else 0
      let acc := (chunks32 (terms.length + 1) terms).foldl (fun acc t => fp32Add acc (chunkSum t)) start
      (some (narrow e.fmtOut e.sat acc), {})

/-- R183: C = A × B. -/
def OpCtx.matmul (c : OpCtx) (s : State) : State × List (List (Option Nat)) :=
  let e := c.desc
  let a := OpCtx.rowsOf s c.a e.dim0 e.strideA e.fmtA e.dim2
  let cols : List (List Nat) :=
    if e.transB then OpCtx.rowsOf s c.b e.dim1 e.strideB e.fmtB e.dim2
    else
      let b := OpCtx.rowsOf s c.b e.dim2 e.strideB e.fmtB e.dim1
      (List.range e.dim1).map (fun j => b.map (fun r => r.getD j 0))
  let p := c.prior s e.dim0 e.dim1
  c.flagged s ((a.zip p).map (fun r => cols.zipIdx.map (fun k => e.matmulElem r.1 k.1 (r.2.getD k.2 0))))

/-- OP_MATMUL (R183). -/
def execOpMatmul (vat : VatId) (slice : SliceId) (slot : SlotId) (s : State) : Host.Outcome State Fault Refusal :=
  runOp vat.val slice.val slot.val (fun e => e.opcode == 5) (fun s c => c.compute s c.matmul) s

/-! ### ELTWISE -/

/-- An ELTWISE whose result is a function of its elements widened to FP32 (R184): A's, B's and the prior output's. -/
def OpCtx.elementwise (c : OpCtx) (f : Desc → Nat → Nat → Nat → Nat) (s : State) : State × List (List (Option Nat)) :=
  let e := c.desc
  let a := OpCtx.rowsOf s c.a e.dim0 e.strideA e.fmtA e.dim1
  let b := if isBinary e.func then OpCtx.rowsOf s c.b e.dim0 e.strideB e.fmtB e.dim1 else a
  let p := c.prior s e.dim0 e.dim1
  let fb := if isBinary e.func then e.fmtB else e.fmtA
  (s, (a.zip (b.zip p)).map (fun r => (r.1.zip (r.2.1.zip r.2.2)).map (fun v =>
    some (narrow e.fmtOut e.sat (f e (widen e.fmtA v.1) (widen fb v.2.1) (widen e.fmtOut v.2.2))))))

/-- The command of an elementwise FUNC. -/
def eltwise (vat slice slot fn : Nat) (f : Desc → Nat → Nat → Nat → Nat) (s : State) : Host.Outcome State Fault Refusal :=
  runOp vat slice slot (fun e => e.opcode == 6 && e.func == fn) (fun s c => c.compute s (c.elementwise f)) s

/-- A FUNC code that Table 5.4 reserves. -/
def eltReserved (fn : Nat) : Bool := !(decide (fn ≤ 0x0B) || (decide (0x10 ≤ fn) && decide (fn ≤ 0x17)) || fn == 0x20 || fn == 0x21)

/-- ELTWISE_COPY (R184): A converted directly. A reserved FUNC, which is malformed, is found here too (DESIGN CHOICE,
notes/assumptions/27.md). -/
def execEltwiseCopy (vat : VatId) (slice : SliceId) (slot : SlotId) (s : State) : Host.Outcome State Fault Refusal :=
  runOp vat.val slice.val slot.val (fun e => e.opcode == 6 && (e.func == 0 || eltReserved e.func))
    (fun s c => c.compute s fun s =>
      let e := c.desc
      (s, (OpCtx.rowsOf s c.a e.dim0 e.strideA e.fmtA e.dim1).map (fun r => r.map (convertElem e.fmtA e.fmtOut e.sat)))) s

def execEltwiseAdd (vat : VatId) (slice : SliceId) (slot : SlotId) (s : State) : Host.Outcome State Fault Refusal :=
  eltwise vat.val slice.val slot.val 0x01 (fun _ a b _ => fp32Add a b) s
def execEltwiseSub (vat : VatId) (slice : SliceId) (slot : SlotId) (s : State) : Host.Outcome State Fault Refusal :=
  eltwise vat.val slice.val slot.val 0x02 (fun _ a b _ => fp32Sub a b) s
def execEltwiseMul (vat : VatId) (slice : SliceId) (slot : SlotId) (s : State) : Host.Outcome State Fault Refusal :=
  eltwise vat.val slice.val slot.val 0x03 (fun _ a b _ => fp32Mul a b) s
/-- ELTWISE_FMA (Table 5.4): C is the prior output with ACC, +0 without. -/
def execEltwiseFma (vat : VatId) (slice : SliceId) (slot : SlotId) (s : State) : Host.Outcome State Fault Refusal :=
  eltwise vat.val slice.val slot.val 0x04 (fun e a b p => fp32Fma a b (if e.acc then p else 0)) s
def execEltwiseMin (vat : VatId) (slice : SliceId) (slot : SlotId) (s : State) : Host.Outcome State Fault Refusal :=
  eltwise vat.val slice.val slot.val 0x05 (fun _ a b _ => fp32Min a b) s
def execEltwiseMax (vat : VatId) (slice : SliceId) (slot : SlotId) (s : State) : Host.Outcome State Fault Refusal :=
  eltwise vat.val slice.val slot.val 0x06 (fun _ a b _ => fp32Max a b) s
def execEltwiseAbs (vat : VatId) (slice : SliceId) (slot : SlotId) (s : State) : Host.Outcome State Fault Refusal :=
  eltwise vat.val slice.val slot.val 0x07 (fun _ a _ _ => fp32Abs a) s
def execEltwiseNeg (vat : VatId) (slice : SliceId) (slot : SlotId) (s : State) : Host.Outcome State Fault Refusal :=
  eltwise vat.val slice.val slot.val 0x08 (fun _ a _ _ => fp32Neg a) s
def execEltwiseRelu (vat : VatId) (slice : SliceId) (slot : SlotId) (s : State) : Host.Outcome State Fault Refusal :=
  eltwise vat.val slice.val slot.val 0x09 (fun _ a _ _ => fp32Relu a) s
def execEltwiseScaleBias (vat : VatId) (slice : SliceId) (slot : SlotId) (s : State) : Host.Outcome State Fault Refusal :=
  eltwise vat.val slice.val slot.val 0x0A (fun e a _ _ => fp32Fma a (bits e.imm 31 0) (bits e.imm 63 32)) s

/-- R166: one element requantised. -/
def requant (imm fa fo v : Nat) : Nat :=
  let x := sext (fmtBits fa) v
  let sh := bits imm 37 32
  let h : Int := if sh = 0 then 0 else 2 ^ (sh - 1)
  ofInt (fmtBits fo) (encodeInt (fmtBits fo) (numOfInt ((x * sext 32 imm + h) / 2 ^ sh + sext 16 (bits imm 63 48))))

/-- ELTWISE_REQUANT (R166). -/
def execEltwiseRequant (vat : VatId) (slice : SliceId) (slot : SlotId) (s : State) : Host.Outcome State Fault Refusal :=
  runOp vat.val slice.val slot.val (fun e => e.opcode == 6 && e.func == 0x0B)
    (fun s c => c.compute s fun s =>
      let e := c.desc
      (s, (OpCtx.rowsOf s c.a e.dim0 e.strideA e.fmtA e.dim1).map (fun r => r.map (fun v => some (requant e.imm e.fmtA e.fmtOut v))))) s

/-- A table-driven function (R192 to R194). -/
def eltFn (vat slice slot fn : Nat) (s : State) : Host.Outcome State Fault Refusal :=
  eltwise vat slice slot fn (fun _ a _ _ => fnEval fn a) s

def execEltwiseExp (vat : VatId) (slice : SliceId) (slot : SlotId) (s : State) : Host.Outcome State Fault Refusal :=
  eltFn vat.val slice.val slot.val 0x10 s
def execEltwiseLog (vat : VatId) (slice : SliceId) (slot : SlotId) (s : State) : Host.Outcome State Fault Refusal :=
  eltFn vat.val slice.val slot.val 0x11 s
def execEltwiseSigmoid (vat : VatId) (slice : SliceId) (slot : SlotId) (s : State) : Host.Outcome State Fault Refusal :=
  eltFn vat.val slice.val slot.val 0x12 s
def execEltwiseTanh (vat : VatId) (slice : SliceId) (slot : SlotId) (s : State) : Host.Outcome State Fault Refusal :=
  eltFn vat.val slice.val slot.val 0x13 s
def execEltwiseRecip (vat : VatId) (slice : SliceId) (slot : SlotId) (s : State) : Host.Outcome State Fault Refusal :=
  eltFn vat.val slice.val slot.val 0x14 s
def execEltwiseRsqrt (vat : VatId) (slice : SliceId) (slot : SlotId) (s : State) : Host.Outcome State Fault Refusal :=
  eltFn vat.val slice.val slot.val 0x15 s
def execEltwiseSqrt (vat : VatId) (slice : SliceId) (slot : SlotId) (s : State) : Host.Outcome State Fault Refusal :=
  eltFn vat.val slice.val slot.val 0x16 s
def execEltwiseErf (vat : VatId) (slice : SliceId) (slot : SlotId) (s : State) : Host.Outcome State Fault Refusal :=
  eltFn vat.val slice.val slot.val 0x17 s

/-- R165, R167: a row's sum. -/
def Desc.rowSum (e : Desc) (r : List Nat) (prior : Nat) : Option Nat × ReamFlags :=
  if e.exact then e.exactSum (r.map (decodeElem e.fmtA)) prior
  else (some (narrow e.fmtOut e.sat (seqSum (if e.acc then widen e.fmtOut prior else 0) (r.map (widen e.fmtA)))), {})

/-- ELTWISE_ROW_SUM: one element a row. -/
def execEltwiseRowSum (vat : VatId) (slice : SliceId) (slot : SlotId) (s : State) : Host.Outcome State Fault Refusal :=
  runOp vat.val slice.val slot.val (fun e => e.opcode == 6 && e.func == 0x20)
    (fun s c => c.compute s fun s =>
      let e := c.desc
      let a := OpCtx.rowsOf s c.a e.dim0 e.strideA e.fmtA e.dim1
      c.flagged s ((a.zip (c.prior s e.dim0 1)).map (fun r => [e.rowSum r.1 (r.2.getD 0 0)]))) s

/-- ELTWISE_ROW_MAX: MAX folded in ascending column order from the first element. -/
def execEltwiseRowMax (vat : VatId) (slice : SliceId) (slot : SlotId) (s : State) : Host.Outcome State Fault Refusal :=
  runOp vat.val slice.val slot.val (fun e => e.opcode == 6 && e.func == 0x21)
    (fun s c => c.compute s fun s =>
      let e := c.desc
      let a := OpCtx.rowsOf s c.a e.dim0 e.strideA e.fmtA e.dim1
      (s, a.map (fun r =>
        let w := r.map (widen e.fmtA)
        [some (narrow e.fmtOut e.sat ((w.drop 1).foldl fp32Max (w.headD 0)))]))) s

/-! ### TREE_EVAL -/

/-- R185: one step of a walk from node i: the next node, none for ARITH. -/
def treeStep (e : Desc) (tree : Bytes) (sample : List Nat) (i : Nat) : Option Nat :=
  let v := field tree (8 * i) 8
  let feature := bits v 31 16
  let x := fp32 (widen e.fmtA (sample.getD feature 0))
  if bits v 15 1 ≠ 0 then none
  else if feature = 0xFFFF then some (2 * i + 1)
  else if e.dim1 ≤ feature then none
  else
    let left := if x = .nan then bitAt v 0 else numLess x (fp32 (bits v 63 32))
    some (if left then 2 * i + 1 else 2 * i + 2)

/-- D steps from node 0, and the leaf's pattern. -/
def treeWalk (e : Desc) (tree : Bytes) (sample : List Nat) : Nat → Nat → Option Nat
  | 0, i => some (field tree (8 * (2 ^ e.dim2 - 1) + 4 * (i - (2 ^ e.dim2 - 1))) 4)
  | f + 1, i =>
    match treeStep e tree sample i with
    | none => none
    | some j => treeWalk e tree sample f j

/-- R165, R167: the leaves of a sample summed. -/
def Desc.treeSum (e : Desc) (trees : List Bytes) (sample : List Nat) (prior : Nat) : Option Nat × ReamFlags :=
  let leaves := trees.map (fun t => treeWalk e t sample e.dim2 0)
  if leaves.any (·.isNone) then (none, {})
  else
    let l := leaves.map (·.getD 0)
    if e.exact then e.exactSum (l.map fp32) prior
    else (some (narrow e.fmtOut e.sat (seqSum (if e.acc then widen e.fmtOut prior else 0) l)), {})

/-- OP_TREE_EVAL (R185). -/
def execOpTreeEval (vat : VatId) (slice : SliceId) (slot : SlotId) (s : State) : Host.Outcome State Fault Refusal :=
  runOp vat.val slice.val slot.val (fun e => e.opcode == 7)
    (fun s c => c.compute s fun s =>
      let e := c.desc
      let a := OpCtx.rowsOf s c.a e.dim0 e.strideA e.fmtA e.dim1
      let trees := readRows s c.b e.aux e.strideB (treeBytes e.dim2)
      c.flagged s ((a.zip (c.prior s e.dim0 1)).map (fun r => [e.treeSum trees r.1 (r.2.getD 0 0)]))) s

/-! ### EMBED -/

/-- R186: the output rows of an EMBED from its looked-up rows (none for index −1) and its prior row. -/
def Desc.embed (e : Desc) (rows : List (Option (List Nat))) (prior : List Nat) : List (List (Option Nat × ReamFlags)) :=
  let n := e.dim1
  let found := rows.filterMap id
  if e.func = 0 then
    plain (rows.map (fun r => match r with
      | some l => l.map (fun v => some (narrow e.fmtOut e.sat (widen e.fmtA v)))
      | none => (List.range n).map (fun _ => some (narrow e.fmtOut e.sat 0))))
  else if e.func = 1 then
    [(List.range n).map (fun j => e.rowSum (found.map (fun r => r.getD j 0)) (prior.getD j 0))]
  else
    plain [(List.range n).map (fun j =>
      let w := found.map (fun r => widen e.fmtA (r.getD j 0))
      some (narrow e.fmtOut e.sat (match w with | [] => 0 | a :: l => l.foldl fp32Max a)))]

end Sys2Proof.Machine
end

