-- ==== Sys2Proof/Machine/VatMove.lean ====
section
/-!
DEFINITION. Machine/VatMove.lean: the ops that move data, synchronise and observe (R181, R182, R186 to R191, R564 to R570).
-/
namespace Sys2Proof.Machine

/-- OP_END (R104, R191): the fibre ends and its slot is free. A reserved opcode, which is malformed, is found here too (DESIGN CHOICE,
notes/assumptions/27.md). -/
def execOpEnd (vat : VatId) (slice : SliceId) (slot : SlotId) (s : State) : Host.Outcome State Fault Refusal :=
  runOp vat.val slice.val slot.val (fun e => e.opcode == 0 || decide (0x10 ≤ e.opcode))
    (fun s c =>
      let s := modVat s c.d fun v => { v with opsExecuted := v.opsExecuted + 1 }
      let s := modObs s fun o => { o with util := tinc o.util ((c.d * 64 + c.slice) * 8 + 7) 1 }
      let s := modBatch s c.d c.x.batch fun b => { b with ended := b.ended + 1 }
      dropFibre s c.d c.slice c.slot) s

/-! ### Moving data -/

/-- A range lies in the op's home slice. -/
def OpCtx.isHome (c : OpCtx) (a : Nat) : Bool := decide (c.home ≤ a) && decide (a < c.home + 0x180000)

/-- The packets of an access: its home part is not sent. -/
def OpCtx.cuts (c : OpCtx) (r : Nat × Nat) : List (Nat × Nat) := if c.isHome r.1 then [r] else accessCuts r.1 r.2

/-- R115: a READ of the fibre. -/
def OpCtx.sendRead (c : OpCtx) (s : State) (r : Nat × Nat) : State :=
  let dest := match decodeAddr r.1 with | some x => x.tile | none => 0
  send s c.node c.owner { mkPacket 2 dest (vatOwner s.cfg c.d) c.x.tag r.1 [] with aux := BitVec.ofNat 32 r.2 }

/-- What reading ranges comes to. -/
inductive Fetch where
  /-- the data of each range -/
  | ready (data : List Bytes)
  /-- reads are in flight -/
  | wait (s : State)
  /-- a home word is uncorrectable -/
  | bad (s : State)
  deriving DecidableEq, Repr

/-- R103, R115: the bytes of ranges: home bytes directly, others by READ packets, whose data the fibre awaits. -/
def OpCtx.fetch (c : OpCtx) (s : State) (l : List (Nat × Nat)) : Fetch :=
  match l.find? (fun r => c.isHome r.1 && badRange s r.1 r.2) with
  | some r => .bad (match decodeAddr r.1 with | some x => ueReport s x r.1 | none => s)
  | none =>
    let need := ((l.filter (fun r => !c.isHome r.1)).flatMap c.cuts).eraseDups
    let missing := need.filter (fun r => !c.x.reads.any (fun b => b.addr == r.1 && b.len == r.2))
    if missing.isEmpty then
      .ready (l.map (fun r =>
        if c.isHome r.1 then readMem s r.1 r.2
        else (c.cuts r).flatMap (fun k =>
          ((c.x.reads.find? (fun b => b.addr == k.1 && b.len == k.2)).bind (·.data)).getD (zeros k.2))))
    else
      let s := missing.foldl (fun s r => c.sendRead s r) s
      .wait (putFibre s c.d c.slice c.slot
        { c.x with state := 3, wait := some .reads, reads := c.x.reads ++ missing.map (fun r => { addr := r.1, len := r.2 }) })

/-- R113, R115: bytes written to a range: in the home slice at once, elsewhere by WRITE packets, poisoned where the source is uncorrectable
(R328). -/
def OpCtx.post (c : OpCtx) (s : State) (a : Nat) (data : Bytes) (poison : Bool) : State :=
  if c.isHome a then writeClean s a data
  else (accessCuts a data.length).foldl (fun s k =>
    let dest := match decodeAddr k.1 with | some x => x.tile | none => 0
    send s c.node c.owner
      { mkPacket 1 dest (vatOwner s.cfg c.d) c.x.tag k.1 (Machine.slice data (k.1 - a) k.2) with poison := poison }) s

/-- Rows of bytes from the data of an operand's ranges. -/
def splitRows (rows rb : Nat) (data : List Bytes) : List Bytes :=
  let all := data.flatten
  (List.range rows).map (fun r => slice all (r * rb) rb)

/-- OP_LOAD (R181). -/
def execOpLoad (vat : VatId) (slice : SliceId) (slot : SlotId) (s : State) : Host.Outcome State Fault Refusal :=
  runOp vat.val slice.val slot.val (fun e => e.opcode == 1)
    (fun s c =>
      let e := c.desc
      let rb := rowBytes e.fmtA e.dim1
      match c.fetch s (rowRanges c.a e.dim0 e.strideA rb) with
      | .wait s => s
      | .bad s => c.fault s 7
      | .ready data =>
        c.store s ((splitRows e.dim0 rb data).map (fun r => (rowElems e.fmtA e.dim1 r).map (convertElem e.fmtA e.fmtOut e.sat)))) s

/-- A row that a STORE or SCATTER sends is uncorrectable (R328): it is logged, and its packets are poisoned. -/
def OpCtx.rowBad (_ : OpCtx) (s : State) (a n : Nat) : State × Bool :=
  if badRange s a n then (match decodeAddr a with | some r => ueReport s r a | none => s, true) else (s, false)

/-- OP_STORE (R181): a wrong residue faults before anything is sent. -/
def execOpStore (vat : VatId) (slice : SliceId) (slot : SlotId) (s : State) : Host.Outcome State Fault Refusal :=
  runOp vat.val slice.val slot.val (fun e => e.opcode == 2)
    (fun s c =>
      let e := c.desc
      let rb := rowBytes e.fmtA e.dim1
      let ro := rowBytes e.fmtOut e.dim1
      let rows := (readRows s c.a e.dim0 e.strideA rb).map (fun r => (rowElems e.fmtA e.dim1 r).map (convertElem e.fmtA e.fmtOut e.sat))
      if rows.any (fun r => r.any (·.isNone)) then c.fault s 9
      else
        let (s, bad) := (rowRanges c.a e.dim0 e.strideA rb).foldl (fun (acc : State × Bool) r =>
          let (s, b) := c.rowBad acc.1 r.1 r.2
          (s, acc.2 || b)) (s, false)
        let out := rows.map (fun r => packElems e.fmtOut (r.map (·.getD 0)))
        let s :=
          if e.dim0 = 1 || e.strideOut = ro then c.post s c.o out.flatten bad
          else out.zipIdx.foldl (fun s r => c.post s (c.o + r.2 * e.strideOut) r.1 bad) s
        c.finish s) s

/-- R182, R186: the indices of GATHER, SCATTER and EMBED, as integers. -/
def OpCtx.indices (c : OpCtx) (s : State) : List Int := (rowElems 3 c.desc.dim0 (readMem s c.b (4 * c.desc.dim0))).map (sext 32)

/-- The index list is uncorrectable. -/
def OpCtx.indicesBad (c : OpCtx) (s : State) : Bool := badRange s c.b (4 * c.desc.dim0)

/-- The table ranges that indices name; an index of −1 names none. -/
def OpCtx.tableRanges (table pitch rb : Nat) (idx : List Int) : List (Nat × Nat) :=
  (idx.filter (fun i => 0 ≤ i)).map (fun i => (table + i.toNat * pitch, rb))

/-- R182: every index is checked, then the address map over the rows named: the fault, if any. -/
def OpCtx.indexFault (c : OpCtx) (table pitch rb : Nat) (idx : List Int) (missing : Bool) : Option Nat :=
  if idx.any (fun i => !(0 ≤ i && i < Int.ofNat c.desc.aux) && !(missing && i == -1)) then some 9
  else if !rangesMapped (OpCtx.tableRanges table pitch rb idx) then some 1
  else none

/-- OP_GATHER (R182). -/
def execOpGather (vat : VatId) (slice : SliceId) (slot : SlotId) (s : State) : Host.Outcome State Fault Refusal :=
  runOp vat.val slice.val slot.val (fun e => e.opcode == 3)
    (fun s c =>
      let e := c.desc
      let rb := rowBytes e.fmtA e.dim1
      let idx := c.indices s
      if c.indicesBad s then c.fault (ueReport s (.vatSram c.d c.slice (c.b - c.home)) c.b) 7
      else match c.indexFault c.a e.strideA rb idx false with
      | some code => c.fault s code
      | none =>
        match c.fetch s (OpCtx.tableRanges c.a e.strideA rb idx) with
        | .wait s => s
        | .bad s => c.fault s 7
        | .ready data => c.finish (data.zipIdx.foldl (fun s r => writeClean s (c.o + r.2 * e.strideOut) r.1) s)) s

/-- OP_SCATTER (R182): rows go out in list order, so that of two writes of one row the later stays. -/
def execOpScatter (vat : VatId) (slice : SliceId) (slot : SlotId) (s : State) : Host.Outcome State Fault Refusal :=
  runOp vat.val slice.val slot.val (fun e => e.opcode == 4)
    (fun s c =>
      let e := c.desc
      let rb := rowBytes e.fmtA e.dim1
      let idx := c.indices s
      if c.indicesBad s then c.fault (ueReport s (.vatSram c.d c.slice (c.b - c.home)) c.b) 7
      else match c.indexFault c.o e.strideOut rb idx false with
      | some code => c.fault s code
      | none =>
        let rows := (readRows s c.a e.dim0 e.strideA rb).zip idx
        c.finish (rows.zipIdx.foldl (fun s r =>
          let (s, bad) := c.rowBad s (c.a + r.2 * e.strideA) rb
          c.post s (c.o + r.1.2.toNat * e.strideOut) r.1.1 bad) s)) s

/-- The command of an EMBED FUNC (R186). -/
def embedOp (vat slice slot : Nat) (mine : Nat → Bool) (s : State) : Host.Outcome State Fault Refusal :=
  runOp vat slice slot (fun e => e.opcode == 8 && mine e.func)
    (fun s c =>
      let e := c.desc
      let rb := rowBytes e.fmtA e.dim1
      let idx := c.indices s
      match c.badInput s with
      | some a => c.fault (match decodeAddr a with | some r => ueReport s r a | none => s) 7
      | none =>
      match c.indexFault c.a e.strideA rb idx true with
      | some code => c.fault s code
      | none =>
        match c.fetch s (OpCtx.tableRanges c.a e.strideA rb idx) with
        | .wait s => s
        | .bad s => c.fault s 7
        | .ready data =>
          let looked := (idx.foldl (fun (acc : List (Option (List Nat)) × List Bytes) i =>
            if i < 0 then (acc.1 ++ [none], acc.2)
            else (acc.1 ++ [some (rowElems e.fmtA e.dim1 (acc.2.headD []))], acc.2.drop 1)) ([], data)).1
          let s := modVat s c.d fun v => { v with embedMissing := v.embedMissing + (looked.filter (·.isNone)).length }
          let prior := ((c.prior s 1 e.dim1).headD [])
          let (s, rows) := c.flagged s (e.embed looked prior)
          c.store s rows) s

/-- EMBED_ROWS: one row an index. A reserved FUNC, which is malformed, is found here too (DESIGN CHOICE, notes/assumptions/27.md). -/
def execEmbedRows (vat : VatId) (slice : SliceId) (slot : SlotId) (s : State) : Host.Outcome State Fault Refusal :=
  embedOp vat.val slice.val slot.val (fun f => f == 0 || decide (3 ≤ f)) s
def execEmbedSum (vat : VatId) (slice : SliceId) (slot : SlotId) (s : State) : Host.Outcome State Fault Refusal :=
  embedOp vat.val slice.val slot.val (fun f => f == 1) s
def execEmbedMax (vat : VatId) (slice : SliceId) (slot : SlotId) (s : State) : Host.Outcome State Fault Refusal :=
  embedOp vat.val slice.val slot.val (fun f => f == 2) s

/-! ### Contributions and multicast -/

/-- The elements of a home operand packed without stride. -/
def OpCtx.packed (c : OpCtx) (s : State) : Bytes :=
  let e := c.desc
  (readRows s c.a e.dim0 e.strideA (rowBytes e.fmtA e.dim1)).flatten

def OpCtx.packedBad (c : OpCtx) (s : State) : Bool :=
  let e := c.desc
  (rowRanges c.a e.dim0 e.strideA (rowBytes e.fmtA e.dim1)).any (fun r => badRange s r.1 r.2)

/-- R187, R301: the wire elements of a contribution, none for a REAM element with a wrong residue. -/
def OpCtx.wires (c : OpCtx) (s : State) (window : Nat) : List (Option Wire) :=
  let e := c.desc
  (rowElems e.fmtA (e.dim0 * e.dim1) (c.packed s)).map (fun v => if e.fmtA = 9 then ofMemory v else some (toReam window (decodeElem e.fmtA v)))

/-- R295, R298, R313: a CONTRIBUTE to the group faults with ARITH: the group is off, another partition's, NOTREE or in RESYNC, the slice does not
contribute to it, or the count is not ELEMENTS. -/
def OpCtx.contributeBad (c : OpCtx) (s : State) (b : Bank) (g : Nat) : Bool :=
  let r := redRecord b g
  !redEn r || redPart r != vatOwner b.cfg c.d || !(redLeaves r).contains c.node || redNoTree b g || (redOf s g).resync ||
    c.desc.dim0 * c.desc.dim1 != redElements r

/-- The chunks of a contribution from one on enter the leaf, as far as it has contexts; the state, and the chunk it stopped at. -/
def contributeFrom : Nat → State → Bank → Nat → Nat → Nat → Nat → List Wire → State × Nat
  | 0, s, _, _, _, _, chunk, _ => (s, chunk)
  | f + 1, s, b, g, node, wave, chunk, xs =>
    if xs.isEmpty then (s, chunk)
    else match redContribute s b g node wave chunk (xs.take 128) with
      | none => (s, chunk)
      | some s => contributeFrom f s b g node wave (chunk + 1) (xs.drop 128)

/-- The next chunk of a leaf's next wave has a context. -/
def leafFree (s : State) (r g node : Nat) : Bool :=
  let nd := redNode s g node
  decide (nd.nextWave * redChunks r < nd.base + redK r)

/-- OP_CONTRIBUTE (R187, R298): the contribution begins once the leaf has a context for its wave, and goes on as contexts free. -/
def execOpContribute (vat : VatId) (slice : SliceId) (slot : SlotId) (s : State) : Host.Outcome State Fault Refusal :=
  runOp vat.val slice.val slot.val (fun e => e.opcode == 9)
    (fun s c =>
      let e := c.desc
      let g := e.aux
      let b := tileBank s c.node
      let r := redRecord b g
      let ws := c.wires s (redWindow r)
      let begun := match c.x.wait with | some (.leaf _ (some w) k _) => some (w, k) | _ => none
      let since := match c.x.wait with | some (.leaf _ _ _ t) => t | _ => s.now
      if begun.isNone && c.contributeBad s b g then c.fault s 9
      else if c.packedBad s then c.fault (ueReport s (.vatSram c.d c.slice (c.a - c.home)) c.a) 7
      else if ws.any (·.isNone) then c.fault s 9
      else if e.release && writesOut s (· == c.owner) then s
      else if begun.isNone && !leafFree s r g c.node then c.park s (.leaf g none 0 since)
      else
        let nd := redNode s g c.node
        let (wave, k) := begun.getD (nd.nextWave, 0)
        let s := if begun.isSome then s
          else modNode s g c.node fun x =>
            if x.contrib + 1 = redPerTile r then { x with contrib := 0, nextWave := x.nextWave + 1, begun := Nat.max x.begun (x.nextWave + 1) }
            else { x with contrib := x.contrib + 1, begun := Nat.max x.begun (x.nextWave + 1) }
        let s := putFibre s c.d c.slice c.slot { c.x with state := 2, wait := none }
        let (s, k') := contributeFrom (redChunks r + 1) s b g c.node wave k ((ws.map (·.getD { t := 0 })).drop (128 * k))
        if k' = redChunks r then c.finish s else c.park s (.leaf g (some wave) k' since)) s

/-- OP_MCAST (R188): elements go out unconverted; the position is ADDR_OUT's. -/
def execOpMcast (vat : VatId) (slice : SliceId) (slot : SlotId) (s : State) : Host.Outcome State Fault Refusal :=
  runOp vat.val slice.val slot.val (fun e => e.opcode == 0x0F)
    (fun s c =>
      if c.desc.release && writesOut s (· == c.owner) then s
      else
        let bad := c.packedBad s
        let s := if bad then ueReport s (.vatSram c.d c.slice (c.a - c.home)) c.a else s
        c.finish (sendMcast s c.node c.owner (vatOwner s.cfg c.d) c.x.tag c.desc.aux (c.o % 2 ^ 32) (c.packed s) bad)) s

/-- OP_RECV_MC (R188). -/
def execOpRecvMc (vat : VatId) (slice : SliceId) (slot : SlotId) (s : State) : Host.Outcome State Fault Refusal :=
  runOp vat.val slice.val slot.val (fun e => e.opcode == 0x0A)
    (fun s c =>
      let g := c.desc.aux
      if mcDown s g c.d then c.fault s 7
      else if mcSatisfied (agentOf s g c.d).bytes c.desc.imm then c.finish s
      else c.park s (.mc g c.desc.imm s.now)) s

/-! ### Synchronisation -/

/-- OP_SYNC (R189): the operation is sent, and the fibre waits for its response. -/
def execOpSync (vat : VatId) (slice : SliceId) (slot : SlotId) (s : State) : Host.Outcome State Fault Refusal :=
  runOp vat.val slice.val slot.val (fun e => e.opcode == 0x0B)
    (fun s c =>
      let e := c.desc
      if !mapped c.a then c.fault s 1
      else match decodeAddr c.a with
        | some (.syncCell die cell _) =>
          let pay := e.imm + e.aux * 2 ^ 64
          let s := sendSync s c.d (.fibre c.slice c.slot) c.owner c.x.tag c.a pay
          c.park s (.sync (256 * die + cell) (opCode pay) (opCond pay) (if bitAt e.func 4 then some (bits e.func 3 0) else none) s.now)
        | _ => c.fault s 4) s

/-- OP_FENCE (R126). -/
def execOpFence (vat : VatId) (slice : SliceId) (slot : SlotId) (s : State) : Host.Outcome State Fault Refusal :=
  runOp vat.val slice.val slot.val (fun e => e.opcode == 0x0C)
    (fun s c => if writesOut s (· == c.owner) then s else c.finish s) s

/-! ### Tensor watch -/

/-- The open sets of a vat die. -/
def watchOf (s : State) (d : Nat) : List WatchOpen := tgetD s.obs.watch d []
def modWatch (s : State) (d : Nat) (f : List WatchOpen → List WatchOpen) : State :=
  modObs s fun o => { o with watch := tmod o.watch d [] f }

/-- R565: a tag discards what is open for its context index under another generation. -/
def watchPurge (s : State) (d : Nat) (tag : Option Nat) : State :=
  match tag with
  | none => s
  | some t => modWatch s d (fun l => l.filter (fun w => match w.tag with | some u => !(u % 1024 == t % 1024 && u != t) | none => true))

/-- R568: one element entered into the statistics; none where a REAM element's residue is wrong (R169). -/
def WatchOpen.feed (w : WatchOpen) (window fmt v : Nat) : Option WatchOpen :=
  if fmt = 9 then
    (ofMemory v).map fun x =>
      { w with
        count := w.count + 1, nans := w.nans + bitOf (x.special == 3), infs := w.infs + bitOf (x.special == 1 || x.special == 2)
        sum := if window = 0 then w.sum else w.sum.add x }
  else
    let x := decodeElem fmt v
    let p := round32 x
    let isZero := match x with | .fin _ m _ => m == 0 | _ => false
    let isInf := match x with | .inf _ => true | _ => false
    let isNan := x == .nan
    some
      { w with
        count := w.count + 1, nans := w.nans + bitOf isNan, infs := w.infs + bitOf isInf, zeros := w.zeros + bitOf isZero
        min := if isNan then w.min else some (match w.min with | none => p | some m => fp32Min m p)
        max := if isNan then w.max else some (match w.max with | none => p | some m => fp32Max m p)
        sum := if window = 0 then w.sum else w.sum.add (toReam window x) }

def WatchOpen.feedAll (window fmt : Nat) : List Nat → WatchOpen → Option WatchOpen
  | [], w => some w
  | v :: l, w => match w.feed window fmt v with | some w => WatchOpen.feedAll window fmt l w | none => none

/-- R566, R569: the leaves of a byte string from leaf k on: length and hash. -/
def leavesFrom : Nat → Nat → Bytes → List (Nat × Nat × Bytes)
  | 0, _, _ => []
  | f + 1, k, b => if b.isEmpty then [] else
      (k, (b.take 4096).length, sha256 (0x00 :: b.take 4096)) :: leavesFrom f (k + 1) (b.drop 4096)

/-- R565: the open set that a WATCH of a full watchpoint takes the place of: the one idle longest, once idle for more than 1,000 µs. -/
def watchVictim (s : State) (l : List WatchOpen) (wp : Nat) : Option WatchOpen :=
  let old := (l.filter (fun w => w.wp == wp && decide (w.lastUse + 1000000 < s.now)))
  old.foldl (fun m w => match m with | none => some w | some x => some (if w.lastUse < x.lastUse then w else x)) none

/-- R567, R568: a WATCH's leaves and statistics are merged into its open set, unless a leaf was fed before or no slot is free. -/
def OpCtx.watchMerge (c : OpCtx) (s : State) (w : WatchOpen) : State :=
  let e := c.desc
  let data := c.packed s
  let leaves := leavesFrom (data.length / 4096 + 2) (e.imm / 4096) data
  let used := ((watchOf s c.d).map (fun x => x.leaves.length)).sum
  if leaves.any (fun k => (tget w.leaves k.1).isSome) || 16384 < used + leaves.length then c.fault s 9
  else
    let window := bits (setting s (0x7200 + c.d) (e.aux + 1)) 15 0
    match WatchOpen.feedAll window e.fmtA (rowElems e.fmtA (e.dim0 * e.dim1) data) w with
    | none => c.fault s 9
    | some w' =>
      let w' := { w' with leaves := leaves.foldl (fun t k => tput t k.1 k.2) w'.leaves, lastUse := s.now }
      c.finish (modWatch s c.d (fun l => l.filter (fun x => !(x.wp == w.wp && x.tag == w.tag)) ++ [w']))

/-- OP_WATCH (R190, R565 to R568). -/
def execOpWatch (vat : VatId) (slice : SliceId) (slot : SlotId) (s : State) : Host.Outcome State Fault Refusal :=
  runOp vat.val slice.val slot.val (fun e => e.opcode == 0x0D)
    (fun s c =>
      let wp := c.desc.aux
      let tag := c.x.tag
      let fresh : WatchOpen := { wp := wp, tag := tag, fmt := c.desc.fmtA, lastUse := s.now }
      if c.packedBad s then c.fault (ueReport s (.vatSram c.d c.slice (c.a - c.home)) c.a) 7
      else
        let s := watchPurge s c.d tag
        let l := watchOf s c.d
        match l.find? (fun w => w.wp == wp && w.tag == tag) with
        | some w => c.watchMerge s w
        | none =>
          if (l.filter (fun w => w.wp == wp)).length < 8 then c.watchMerge s fresh
          else match watchVictim s l wp with
            | some v =>
              let s := modWatch s c.d (fun l => dropFirst (· == v) l)
              let s := report s
                { cause := 0xD6, cls := 1, unit := 6, source := schedTile c.d, detail := v.tag.getD 0 * 2 ^ 6 + wp, tag := v.tag }
              c.watchMerge s fresh
            | none => c.park s (.watch (match c.x.wait with | some (.watch t) => t | _ => s.now))) s

/-- R569: the nodes of a tree of hashes joined until one is left. -/
def hashPairs : List Bytes → List Bytes
  | a :: b :: l => sha256 (0x01 :: (a ++ b)) :: hashPairs l
  | l => l

def hashRoot : Nat → List Bytes → Bytes
  | 0, l => l.headD []
  | f + 1, l => if l.length ≤ 1 then l.headD [] else hashRoot f (hashPairs l)

/-- R569, from the leaf hashes. -/
def sheetDigest (n : Nat) (leaves : List Bytes) : Bytes := sha256 (0x02 :: (leBytes 8 n ++ hashRoot 30 leaves))

/-- R570: leaves 0 to L − 1 have each been fed, whole but the last, and none beyond. -/
def leavesComplete (n : Nat) (leaves : Table (Nat × Bytes)) : Bool :=
  let L := (n + 4095) / 4096
  leaves.length == L && leaves.zipIdx.all (fun e =>
    e.1.1 == e.2 && e.1.2.1 == (if e.2 + 1 = L then n - 4096 * (L - 1) else 4096))

/-- Table 15.11: the result record. -/
def watchRecord (s : State) (d n : Nat) (w : WatchOpen) : Bytes :=
  let window := bits (setting s (0x7200 + d) (w.wp + 1)) 15 0
  let mem := w.sum.memory
  let flags := bitOf w.tag.isSome + bitOf w.sum.inexact * 2 + bitOf (w.sum.range || mem.2) * 4 + bitOf (window != 0) * 8
  sheetDigest n (w.leaves.map (fun e => e.2.2)) ++ leBytes 8 n ++ leBytes 8 w.count ++ leBytes 8 w.nans ++ leBytes 8 w.infs
    ++ leBytes 8 w.zeros ++ leBytes 4 (w.min.getD fmtFP32.nan) ++ leBytes 4 (w.max.getD fmtFP32.nan) ++ leBytes 1 w.wp ++ leBytes 1 d
    ++ leBytes 2 (w.tag.getD 0) ++ leBytes 1 flags ++ leBytes 1 w.fmt ++ leBytes 2 window ++ zeros 8
    ++ leBytes 32 (if window = 0 then 0 else mem.1)

/-- OP_DIGEST (R190, R570): the watchpoint is closed for a tensor of IMM bytes. A tagged fibre waits until its report is performed. -/
def execOpDigest (vat : VatId) (slice : SliceId) (slot : SlotId) (s : State) : Host.Outcome State Fault Refusal :=
  runOp vat.val slice.val slot.val (fun e => e.opcode == 0x0E)
    (fun s c =>
      let wp := c.desc.aux
      let tag := c.x.tag
      let s := watchPurge s c.d tag
      match (watchOf s c.d).find? (fun w => w.wp == wp && w.tag == tag) with
      | none => c.fault s 9
      | some w =>
        let s := modWatch s c.d (fun l => dropFirst (· == w) l)
        if !leavesComplete c.desc.imm w.leaves then c.fault s 9
        else
          let rec_ := watchRecord s c.d c.desc.imm w
          let s := writeClean s c.o rec_
          let part := vatOwner s.cfg c.d
          let s := event s (schedTile c.d) 6 0x28 part (bitOf tag.isSome * 2 ^ 22 + tag.getD 0 * 2 ^ 6 + wp)
          match tag with
          | none => c.finish s
          | some t =>
            c.park (send s c.node c.owner (mkPacket 6 (portFrontTile (tagPort t)) part (some t) 0 rec_)) .report) s

end Sys2Proof.Machine
end

