-- ==== Sys2Proof/Machine/OdValue.lean ====
section
/-!
DEFINITION. Machine/OdValue.lean: what a read of each dictionary entry returns (R58 to R60, R71, and the owning chapters' formats), with the parts that
an Owner's session does not reach read as 0 (R64, R355, R541).
-/
namespace Sys2Proof.Machine

def u8 (n : Nat) : Bytes := leBytes 1 n
def u16 (n : Nat) : Bytes := leBytes 2 n
def u32 (n : Nat) : Bytes := leBytes 4 n
def u64 (n : Nat) : Bytes := leBytes 8 n

/-- The caller reaches what belongs to partition p. -/
def reaches (c : Caller) (owned : Nat → Bool) : Bool := c.role != 2 || owned c.part

/-- Element i − 1 of a counter list, for subindex i. -/
def nth (l : List Nat) (sub : Nat) : Nat := l.getD (sub - 1) 0

/-! ### Chapter 3 -/

/-- R88, OD 0x1010.06: a controller's bus state. -/
def canBusState (s : State) (k : Nat) : Nat :=
  let x := canOf s k
  if s.pow.nodeId = 0 then 3 else if x.busOff then 2 else if 128 ≤ x.tec || 128 ≤ x.rec_ then 1 else 0

/-- OD 0x1103: an open session's slot. -/
def sessionSlot (s : State) (i : Nat) : Nat :=
  match s.dict.sessions[i]? with
  | none => 0
  | some (id, x) =>
    id % 64 + x.role % 8 * 2 ^ 8 + x.partition % 16 * 2 ^ 12 + x.ep % 8 * 2 ^ 16 + x.client % 128 * 2 ^ 19
      + (s.now - x.openedAt) / 1000000000 % 2 ^ 32 * 2 ^ 32

/-! ### Chapters 4 to 6 -/

/-- Table 4.9. -/
def contextRecord (s : State) (n k : Nat) : Bytes :=
  let x := ctxOf s n k
  leBytes 64 (x.watchSet % 16 * 2 ^ 176 + x.state % 8 * 2 ^ 180 + x.tint % 8 * 2 ^ 183 + x.epoch % 4 * 2 ^ 186 + x.sq % 16 * 2 ^ 188
    + x.slot % 16 * 2 ^ 192 + x.partition % 16 * 2 ^ 196 + x.fault % 256 * 2 ^ 200 + ctxTag n k x.gen % 2 ^ 16 * 2 ^ 208
    + x.generation % 2 ^ 32 * 2 ^ 224 + x.requestId % 2 ^ 64 * 2 ^ 256 + x.journalSeq % 2 ^ 64 * 2 ^ 320 + x.admitTick % 2 ^ 64 * 2 ^ 384
    + x.deadline % 2 ^ 64 * 2 ^ 448)

/-- OD 0x3440: the context records of a port; an Owner reads its own partition's. -/
def contextsOf (s : State) (c : Caller) (n : Nat) : Bytes :=
  (List.range 256).flatMap (fun k => if reaches c (fun p => (ctxOf s n k).partition == p) then contextRecord s n k else zeros 64)

/-- A sync cell lies in partition p's range (R448). -/
def cellOwned (s : State) (k p : Nat) : Bool :=
  let r := partRecord s.cfg p
  partEn r && decide (partSyncFirst r ≤ k) && decide (k < partSyncFirst r + partSyncCount r)

/-- OD 0x3420: the STATE and CONFIG words of a die's cells. -/
def syncStateOf (s : State) (c : Caller) (d : Nat) : Bytes :=
  (List.range 256).flatMap (fun i =>
    let k := 256 * d + i
    if reaches c (cellOwned s k) then u64 (cellState (cellOf s k)) ++ u64 (cellConfig (cellOf s k)) else zeros 16)

/-- OD 0x3111: a sequencer's status. -/
def seqStatus (s : State) (d : Nat) : Nat :=
  let q := seqOf s d
  q.state % 8 + q.pc % 2 ^ 16 * 2 ^ 8 + q.trapCode % 256 * 2 ^ 24 + q.passes % 2 ^ 32 * 2 ^ 32

/-- Words a to a + n − 1 of a constant function's tables. -/
def fnBytes (fn a n : Nat) : Bytes := (List.range n).flatMap (fun k => u32 (fnWord fn (a + k)))

/-! ### Chapters 7 and 8 -/

/-- A tile and port of link k of an edge of a die (OD 0x2220). -/
def edgeLink (d edge k : Nat) : Nat × Nat :=
  if d < 16 then
    let l := if edge = 0 then k else if edge = 1 then 8 * k + 7 else if edge = 2 then 56 + k else 8 * k
    (nodeAt d l, edge + 1)
  else (innerTile d (8 * edge + k), if d = 16 then 3 else if d = 17 then 4 else if d = 18 then 1 else 2)

def linkStates (s : State) (d edge : Nat) : Bytes :=
  (List.range 8).flatMap (fun k => let e := edgeLink d edge k; u8 (linkState s e.1 e.2))

/-- The bank that a read shows: with VIEW the one that is armed, or would be (R60). -/
def viewBank (s : State) (view : Bool) : Bank := if view then s.ep.armed.getD (nextBank s false) else s.ep.cur

/-- OD 0x2200: a die's source tables (Table 7.10). -/
def routeTable (b : Bank) (d : Nat) : Bytes := (tilesOf d).flatMap (fun n => (List.range 20).flatMap (fun t => u32 (bankRoute b n t).word))

/-- OD 0x25C4: the mask entries (Table 8.6) of a die's routers, 128 each, groups in ascending order. -/
def maskTable (b : Bank) (d : Nat) : Bytes :=
  let groups := (mcListed b).filter (fun g => mcEn (mcRecord b g) && !mcNoTree b g)
  (tilesOf d).flatMap (fun n =>
    let rows := groups.filterMap (fun g =>
      let outs := mcOutputs b g n
      if outs.isEmpty then none
      else some (bitOf (outs.contains 4) + bitOf (outs.contains 3) * 2 + bitOf (outs.contains 2) * 4 + bitOf (outs.contains 1) * 8
        + bitOf (outs.contains 0) * 16 + 32 + g * 64))
    padTo (rows.flatMap u16) 256)

/-- OD 0x25C0. -/
def mcStatus (s : State) (c : Caller) : Bytes :=
  (List.range 1024).flatMap (fun g =>
    let r := mcRecord s.ep.cur g
    let x := mcOf s g
    if !reaches c (fun p => mcPart r == p) then zeros 16
    else leBytes 16 ((if !mcEn r then 0 else if mcNoTree s.ep.cur g then 2 else 1) + x.generation % 1024 * 8 + x.nextDseq % 2 ^ 32 * 2 ^ 32
      + (x.pruned.map (2 ^ ·)).sum % 2 ^ 16 * 2 ^ 64))

/-- OD 0x25C1. -/
def redStatus (s : State) (c : Caller) : Bytes :=
  (List.range 512).flatMap (fun g =>
    let r := redRecord s.ep.cur g
    let x := tgetD s.vs.red g {}
    if !reaches c (fun p => redPart r == p) then zeros 16
    else leBytes 16 ((if !redEn r then 0 else if redNoTree s.ep.cur g then 3 else if x.resync then 2 else 1) + x.nextWave % 2 ^ 32 * 2 ^ 32
      + x.faulted % 2 ^ 64 * 2 ^ 64))

/-! ### Chapter 9 -/

/-- R355: a record as a caller reads it. -/
def logFor (c : Caller) (r : LogRecord) : Bytes := if reaches c (fun p => r.rep.partition == some p) then logBytes r else zeros 64

/-! ### Chapter 10 -/

/-- Table 10.8. -/
def boundaryRecord (b : Boundary) (kind peer : Nat) : Bytes :=
  leBytes 8 (peer % 2 ^ 12 + kind % 16 * 2 ^ 12 + b.state % 8 * 2 ^ 16 + bitOf b.overrun * 2 ^ 19 + bitOf b.discont * 2 ^ 20
    + Nat.min b.overruns 255 * 2 ^ 24 + Nat.min b.fences 65535 * 2 ^ 32 + b.cgen % 2 ^ 16 * 2 ^ 48)

/-- Non-tile islands of a die (Table 1.5). -/
def islandCount (d : Nat) : Nat := if d < 16 then 5 else if d = 16 then 11 else if d = 18 then 10 else 7

/-- OD 0x2820. -/
def boundariesOf (s : State) (d : Nat) : Bytes :=
  (tilesOf d).flatMap (fun n => [1, 2, 3, 4].flatMap (fun p =>
    match neighbour n p with
    | some m => boundaryRecord (tgetD s.time.bounds (8 * n + p) {}) 0 m
    | none => zeros 8)) ++
  (List.range 16).flatMap (fun r =>
    if r < islandCount d then boundaryRecord (tgetD s.time.bounds (islandKey d r) {}) (islandKind d r) 0 else zeros 8)

/-- Table 10.9. -/
def timeRecord (u : TimeUnit) : Bytes :=
  leBytes 8 (u.state % 4 * 2 ^ 19 + u.parent % 8 * 2 ^ 21 + u.depth % 256 * 2 ^ 24 + ofInt 16 (u.delay / 256) * 2 ^ 32
    + ofInt 16 (u.error / 256) * 2 ^ 48)

/-- OD 0x2845. -/
def timeState (s : State) (d : Nat) : Nat :=
  let us := (tilesOf d).map (unitAt s)
  (us.map (·.state)).foldl Nat.max 0 + (us.map (·.depth)).foldl Nat.max 0 % 256 * 2 ^ 8 + (us.filter (fun u => u.state != 0)).length * 2 ^ 16

/-! ### Chapters 11 and 12 -/

def linkStatus (s : State) (n : Nat) : Nat :=
  let x := portOf s n
  x.rate % 16 + x.width % 32 * 2 ^ 4 + bitOf x.up * 2 ^ 9 + bitOf x.perst * 2 ^ 10 + bitOf x.d3hot * 2 ^ 11

/-- Tokens of a bucket now, in length units. -/
def tokensNow (b : Option Tok) (rate burst now : Nat) : Nat := ofInt 64 ((refill b rate burst now).tok / 1000000000)

/-- OD 0x4480: an admission queue's state. -/
def aqState (s : State) (n a : Nat) : Bytes :=
  let q := aqOf s n a
  let r := aqConfig s n a
  let w := windowAt s n a
  let cur := match w with | some (o, _) => (cursorIn q o).1 - o | none => 0
  u16 q.items.length ++ u16 (bitOf w.isSome) ++ u32 cur ++ u64 (ofInt 64 q.deficit) ++ u64 (tokensNow q.c (acCR r) (acCB r) s.now)
    ++ u64 (tokensNow q.p (acPR r) (acPB r) s.now)

/-- OD 0x4484. -/
def gatePosition (s : State) (n : Nat) : Nat :=
  let l := gateList s n
  let pos := gatePos l s.now
  (gateEntryAt (gateEntries l) 0 0 pos).1 % 256 + Nat.min pos (2 ^ 24 - 1) * 2 ^ 8

/-- Per-queue records of a port, those that a caller's partition does not feed reading as 0. -/
def perQueue (s : State) (c : Caller) (n size : Nat) (f : Nat → Bytes) : Bytes :=
  (List.range 11).flatMap (fun a => if reaches c (fun p => feeds s p n a) then f a else zeros size)

/-! ### Chapter 13 -/

/-- Table 13.6. -/
def epochStatus (e : Epochs) : Bytes :=
  leBytes 32 (e.state % 4 + e.kind % 4 * 2 ^ 8 + e.armedTint % 256 * 2 ^ 48 + Nat.min e.timedOut 65535 * 2 ^ 56 + e.failSub % 256 * 2 ^ 72
    + e.failIndex % 2 ^ 16 * 2 ^ 80 + e.result % 2 ^ 32 * 2 ^ 96 + e.retireTick % 2 ^ 64 * 2 ^ 128 + e.goTick % 2 ^ 64 * 2 ^ 192)

/-- OD 0x5051: a slot's status. -/
def slotStatus (s : State) (p k : Nat) : Bytes :=
  let x := slotOf s p k
  let update := match x.running with
    | some u => if u.flipped then 3 else 2
    | none => if x.pending.isSome then 1 else 0
  leBytes 8 (x.generation.toNat + update * 2 ^ 32 + bitOf (x.running.isSome && x.pending.isSome) * 2 ^ 35) ++ u64 x.flipTick ++ padTo x.digest 48

def tintUsage (cfg : Table Bytes) (t : Nat) : Nat :=
  let l := overlays cfg t
  l.length % 256 + (l.map (fun v => v.length - 8)).sum % 2 ^ 24 * 2 ^ 8

/-! ### Chapter 14 -/

/-- OD 0x600D. -/
def journalState (s : State) (n : Nat) : Bytes :=
  let c := chainOf s n
  u64 c.release ++ u64 (c.chained - 1) ++ u64 (c.durable - 1) ++ u64 c.lastSeal ++ padTo c.lastHash 32

/-- OD 0x6020. -/
def historyOf (s : State) (i : Nat) : Bytes :=
  let h := tgetD s.led.history i {}
  (List.range 33).flatMap (fun b => u32 (tgetD h.bins b 0)) ++ u16 (ofInt 16 h.max) ++ u64 h.maxAt

/-- OD 0x6040: the block table of a die. -/
def blockTable (s : State) (k : Nat) : Bytes :=
  let l := ledOf s k
  (lunsOf s k).flatMap (fun u =>
    let n := ((s.led.fitted.find? (fun t => t.chan == u / 16 && t.ce == u / 4 % 4)).map (·.blocks)).getD 0
    (List.range n).flatMap (fun i =>
      let key := 8192 * u + i
      let b := blockOf l key
      leBytes 8 (b.cls % 8 + bitOf (!isJ l key) * 8 + b.valid % 2 ^ 16 * 2 ^ 4 + b.erases % 2 ^ 32 * 2 ^ 20)))

/-! ### Chapter 15 -/

/-- R541: the outer tiles O13 to O16 of a port's deckle die. -/
def portTiles (d : Nat) : List Nat := (List.range 4).map (fun i => outerTile d (13 + i))

/-- R541: what an Owner of p reads of a tile's block: all of it. -/
def blockWhole (s : State) (c : Caller) (n : Nat) : Bool :=
  reaches c (fun p =>
    let d := dieOf n
    if d < 16 then partOwnsVat s.cfg p d
    else (portTiles d).contains n && partOwnsPort s.cfg p (d - 16) &&
      (List.range 16).all (fun q => q == p || !partOwnsPort s.cfg q (d - 16)))

/-- Table 15.1. -/
def blockHeader (s : State) (n : Nat) : Bytes :=
  let d := dieOf n
  u64 (tgetD s.obs.since d 0) ++ u64 s.now ++ u16 n ++ u8 (bitOf (s.obs.discont.contains d) + 2 * bitOf (s.obs.resetSeen.contains d)) ++ zeros 13

/-- A router block (R534, R541). -/
def routerBlock (s : State) (c : Caller) (n : Nat) : Bytes :=
  let whole := blockWhole s c n
  (if whole then blockHeader s n ++ (List.range 240).flatMap (fun i => u64 (tgetD s.obs.router (240 * n + i) 0)) else zeros 1952) ++
    (List.range 16).flatMap (fun p => u64 (if whole || p == c.part then tgetD s.obs.partFlits (16 * n + p) 0 else 0))

/-- An injection block (R535, R541). -/
def injectBlock (s : State) (c : Caller) (n : Nat) : Bytes :=
  let whole := blockWhole s c n
  (if whole then blockHeader s n else zeros 32) ++
    (List.range 4).flatMap (fun k => (List.range 16).flatMap (fun p => (List.range 19).flatMap (fun i =>
      u64 (if whole || p == c.part then tgetD s.obs.inject (injectKey n k p i) 0 else 0))))

/-- A vat's utilisation block (R537). The counts of cycles are left open: free values, from a draw on. -/
def utilBlock (s : State) (c : Caller) (d draw : Nat) : Bytes :=
  if !reaches c (fun p => partOwnsVat s.cfg p d) then zeros 4128
  else blockHeader s (nodeAt d 0) ++ (List.range 64).flatMap (fun k => (List.range 8).flatMap (fun i =>
    u64 (if i < 7 then (Config.free (draw + 7 * k + i)).toNat else tgetD s.obs.util ((d * 64 + k) * 8 + 7) 0)))

/-- OD 0x70A0: a die's snapshot (R561); a tile without a record reads as 0, and the unit detail of a record is a free value. -/
def snapshotBytes (s : State) (d : Nat) : Bytes :=
  let x := snapOf s d
  (List.range 64).flatMap (fun l =>
    match tget x.records l with
    | none => zeros 16384
    | some r => r ++ (List.range 932).flatMap (fun i => u64 (Config.free (tgetD x.detail l 0 + i)).toNat))

/-- OD 0x70C0: the event rings of a die: for each tile those of its units that hold events, in the order of their codes, four at most. -/
def eventRings (s : State) (d : Nat) : Bytes :=
  (tilesOf d).flatMap (fun n =>
    padTo ((((s.obs.rings.filter (fun e => e.1 / 64 == n)).take 4).flatMap (fun e => padTo (e.2.flatMap TraceMsg.bytes) 1024))) 4096)

/-- R554: the window of a capture that READ_WINDOW selects. -/
def traceData (s : State) (b : Nat) : Bytes :=
  let w := valueInForce s (0x7060 + b) 4
  slice (captureBytes s b) (field w 0 4) (field w 4 4)

/-! ### Chapters 16 and 17 -/

/-- OD 0x8000.01. -/
def otpState (s : State) : Nat :=
  lowestCount s % 256 + s.sec.floor % 256 * 2 ^ 8 + bitOf (s.pow.nors.any (·.2.zeroisePending)) * 2 ^ 16

/-- OD 0x8040.03. -/
def unlockStatus (s : State) : Bytes :=
  match s.sec.unlock with
  | some (sc, e) => if s.now < e then u32 sc ++ zeros 4 ++ u64 e else zeros 16
  | none => zeros 16

/-- OD 0x9030. -/
def telemetry (x : Rail) : Bytes :=
  u32 x.vin ++ u32 x.vout ++ u32 x.iout ++ u32 x.pout ++ u32 x.temp ++ u16 x.status ++ zeros 2 ++ u64 x.sample

def bootStatus (x : Nat × Nat × Nat) : Nat := x.1 % 4 + x.2.1 % 256 * 2 ^ 8 + x.2.2 % 256 * 2 ^ 16

/-- OD 0x9083: DN A, DN B, DS A, DS B. -/
def norImage (s : State) (i : Nat) : Bytes :=
  let n := tgetD s.pow.nors (i / 2) {}
  let m := if i % 2 = 0 then n.slotA else n.slotB
  u32 m.version ++ u8 m.security ++ u8 (bitOf m.valid) ++ zeros 2 ++ padTo m.digest 48

/-- OD 0x9090; SVC_OK (Table 17.1) is high in IN_SERVICE and DEGRADED. -/
def pinState (s : State) : Nat :=
  let d := deviceState s
  bitOf ((d == 2 || d == 3) && !s.pow.pwrfail && !s.pow.thermtrip && !s.pow.por && s.pow.warm == 0) + bitOf (!s.pow.pwrfail) * 2
    + bitOf (!s.pow.throttle) * 4 + bitOf (!s.pow.thermtrip) * 8
    + ((List.range 4).map (fun n => bitOf (!(portOf s n).perst) * 2 ^ (4 + n))).sum + s.pow.nodeId % 128 * 2 ^ 8

/-! ### The entries -/

/-- The value of a CONST entry. -/
def constValue (e : OdEntry) (idx sub : Nat) : Bytes :=
  if idx = 0x1001 && sub = 4 then
    ascii "PQ-20-A1-C" ++ [BitVec.ofNat 8 (0x30 + Config.orderDigits.val / 10), BitVec.ofNat 8 (0x30 + Config.orderDigits.val % 10)]
  else if idx = 0x1001 && sub = 5 then serialBytes
  else if idx = 0x3F00 && sub = 3 then tableSetDigest
  else if inRange idx 0x3F01 0x3F08 && sub = 1 then fnBytes (0x10 + (idx - 0x3F01)) 0 16
  else if inRange idx 0x3F01 0x3F08 && sub = 2 then fnBytes (0x10 + (idx - 0x3F01)) 16 (4 * fnHeader (0x10 + (idx - 0x3F01)) 63 48)
  else if idx = 0x4041 && sub ≠ 0 then u64 (resultSlot (sub - 1) 0)
  else if idx = 0x259F && sub = 4 then leBytes 32 Config.group511.toNat
  else if idx = 0x8000 && sub = 2 then firmwareAnchor ++ serviceAnchor
  else if idx = 0x8001 then publicKey idKey
  else if idx = 0x8002 then Config.deviceCert
  else if idx = 0x8003 then publicKey enrolKey
  else if idx = 0x8004 then publicKey modelKey
  else if idx = 0x8005 then serviceRootKey
  else leBytes e.minLen e.dflt

/-- The value of an RO entry of chapters 3 to 6, for subindices from 1 as their rows give them. -/
def roLow (s : State) (c : Caller) (idx sub : Nat) : Bytes :=
  let d := sub - 1
  if idx = 0x1002 then (if sub = 1 then u8 (bootImage s) else u32 s.pow.image.version)
  else if idx = 0x1003 then u8 s.pow.nodeId
  else if idx = 0x1004 then u8 (deviceState s)
  else if idx = 0x1010 || idx = 0x1011 then
    let k := idx - 0x1010
    if sub = 6 then u8 (canBusState s k) else u16 (Nat.min (canOf s k).tec 255 + Nat.min (canOf s k).rec_ 255 * 256)
  else if idx = 0x1016 || idx = 0x1017 then u64 (nth (canOf s (idx - 0x1016)).stats sub)
  else if idx = 0x1018 then u64 (mbxOf s d).requests
  else if idx = 0x1103 then u64 (sessionSlot s d)
  else if idx = 0x1104 then u16 (c.role % 8 + c.part % 16 * 2 ^ 4 + c.session % 64 * 2 ^ 8)
  else if idx = 0x3401 then u16 (vatOf s d).fibres.length
  else if idx = 0x3402 then u16 (vatOf s d).waitTable.length
  else if idx = 0x3403 then u64 (vatOf s d).waitFull
  else if idx = 0x3405 then u64 (vatOf s d).fibreFaults
  else if inRange idx 0x3420 0x3433 then syncStateOf s c (idx - 0x3420)
  else if idx = 0x3434 then u64 (tgetD s.vs.notifiesSent d 0)
  else if inRange idx 0x3440 0x3443 then contextsOf s c (idx - 0x3440)
  else if idx = 0x3444 then u16 ((admOf s d).ctxs.filter (fun e => e.2.state != 0)).length
  else if idx = 0x3445 then u64 (admOf s d).deadlineFaults
  else if idx = 0x3470 then u64 (tgetD s.vs.windowFaults d 0)
  else if idx = 0x3003 then u64 (vatOf s d).opsExecuted
  else if idx = 0x3004 then u64 (vatOf s d).encodingFaults
  else if idx = 0x3005 then u64 (vatOf s d).arithFaults
  else if idx = 0x3006 then u64 (Nat.min (vatOf s d).rangeOps (2 ^ 32 - 1) + Nat.min (vatOf s d).inexactOps (2 ^ 32 - 1) * 2 ^ 32)
  else if idx = 0x3007 then u64 (vatOf s d).embedMissing
  else if idx = 0x3111 then (if sub ≤ 16 then u64 (seqStatus s d) else u32 (seqOf s (sub - 17)).version)
  else if idx = 0x3112 then u32 (seqOf s d).loadError
  else if idx = 0x3113 then padTo (seqOf s d).trapRecord 32
  else if idx = 0x3114 then padTo (seqOf s d).digest 48
  else if idx = 0x3116 then u64 (seqOf s d).traps
  else if idx = 0x3117 then u64 (vatOf s d).launched
  else if idx = 0x3118 then u8 (vatOf s d).batches.length
  else if idx = 0x3119 then u16 (vatOf s d).queue.length
  else []

/-- The same of chapters 7 to 10. -/
def roMid (s : State) (c : Caller) (view : Bool) (idx sub : Nat) : Bytes :=
  let d := sub - 1
  if inRange idx 0x2200 0x2213 then routeTable (viewBank s view) (idx - 0x2200)
  else if inRange idx 0x2220 0x2233 then linkStates s (idx - 0x2220) d
  else if inRange idx 0x2240 0x2253 then u64 (tgetD s.fab.retries (4 * (idx - 0x2240) + d) 0)
  else if inRange idx 0x2260 0x2273 then u64 (tgetD s.fab.streamStats (8 * (idx - 0x2260) + d) 0)
  else if inRange idx 0x2280 0x2293 then u8 (tgetD s.fab.lanes (4 * (idx - 0x2280) + d) 0)
  else if idx = 0x25C0 then mcStatus s c
  else if idx = 0x25C1 then redStatus s c
  else if idx = 0x25C2 then u64 (nth s.vs.mcCounts sub)
  else if inRange idx 0x25C4 0x25D7 then maskTable (viewBank s view) (idx - 0x25C4)
  else if idx = 0x2600 then
    if sub = 2 then u32 s.integ.nextSeq.toNat else if sub = 3 then u64 s.integ.overwritten else u64 s.integ.dropped
  else if idx = 0x2601 then padTo (s.integ.log.flatMap (logFor c)) 262144
  else if idx = 0x2602 then padTo ((s.integ.log.reverse.take 64).flatMap (logFor c)) 4096
  else if idx = 0x2604 then u64 (tgetD s.integ.classCounts sub 0)
  else if idx = 0x2605 then (List.range 256).flatMap (fun k => u64 (tgetD s.integ.causeCounts k 0))
  else if inRange idx 0x2620 0x262F then u64 (tgetD s.integ.partClass (8 * (idx - 0x2620) + sub) 0)
  else if idx = 0x2630 then u16 (match tget s.integ.failed d with | some cause => 1 + cause % 256 * 256 | none => 0)
  else if inRange idx 0x2640 0x2653 then u64 (tgetD s.integ.streamErrors (8 * (idx - 0x2640) + d) 0)
  else if inRange idx 0x2660 0x2673 then u64 (tgetD s.integ.ecc (4 * (idx - 0x2660) + d) 0)
  else if inRange idx 0x2680 0x2687 then u64 (tgetD s.integ.hbmEcc (2 * (idx - 0x2680) + d) 0)
  else if inRange idx 0x2690 0x2693 then u64 (tgetD s.integ.portIntegrity (8 * (idx - 0x2690) + d) 0)
  else if idx = 0x2802 then u32 (dieKHz s d)
  else if idx = 0x2803 then u64 (tgetD s.time.limitedMs d 0)
  else if inRange idx 0x2804 0x2817 then (List.range 64).flatMap (fun _ => u32 (dieKHz s (idx - 0x2804)))
  else if inRange idx 0x2820 0x2833 then boundariesOf s (idx - 0x2820)
  else if idx = 0x2835 then u64 (nth s.time.counts sub)
  else if idx = 0x2840 then u64 s.now
  else if idx = 0x2841 then (if sub = 1 then u8 s.time.master else u8 s.time.masterState)
  else if idx = 0x2845 then u32 (timeState s d)
  else if inRange idx 0x2846 0x2859 then (tilesOf (idx - 0x2846)).flatMap (fun n => timeRecord (unitAt s n))
  else if idx = 0x2860 then
    if sub = 2 then u64 s.time.wallBase ++ u64 s.time.ftBase ++ u32 (ofInt 32 s.time.rate) ++ zeros 4
    else if sub = 6 then u8 s.time.pps else u64 (wallAt s.time s.now)
  else if idx = 0x2861 then u64 (nth s.time.timeCounts sub)
  else []

/-- The same of chapters 11 to 14. -/
def roHigh (s : State) (c : Caller) (view : Bool) (idx sub : Nat) : Bytes :=
  let d := sub - 1
  if idx = 0x4001 then u32 (linkStatus s d)
  else if inRange idx 0x4020 0x4023 then u64 (tgetD (portOf s (idx - 0x4020)).stats d 0)
  else if inRange idx 0x4030 0x4033 then
    (List.range statusCodes.length).flatMap (fun k => u64 (tgetD (portOf s (idx - 0x4030)).status k 0))
  else if idx = 0x4040 then u32 (portOf s d).resetGen
  else if idx = 0x4042 then u64 (portOf s d).hwinBase ++ u64 (portOf s d).hwinSize
  else if inRange idx 0x4460 0x4463 then
    let n := idx - 0x4460
    perQueue s c n 96 (fun a => (List.range 12).flatMap (fun i => u64 (tgetD (admOf s n).stats (12 * a + i) 0)))
  else if inRange idx 0x4470 0x4473 then (List.range 192).flatMap (fun k => u64 (tgetD (admOf s (idx - 0x4470)).meterStats k 0))
  else if inRange idx 0x4480 0x4483 then perQueue s c (idx - 0x4480) 32 (aqState s (idx - 0x4480))
  else if idx = 0x4484 then u32 (gatePosition s d)
  else if idx = 0x5014 then epochStatus s.ep
  else if idx = 0x5015 then u64 s.ep.count
  else if idx = 0x5016 then u8 (bitOf (serviceVia s 16) + 2 * bitOf (serviceVia s 18))
  else if idx = 0x5019 then
    if sub = 1 then padTo s.part.configDigest 48 else if sub = 2 then padTo s.part.groundDigest 48
    else if sub = 3 then padTo s.part.tintDigest 48 else u32 s.part.configSeq.toNat
  else if inRange idx 0x5021 0x502F then u8 (partControl s (idx - 0x5020))
  else if inRange idx 0x5051 0x505F then slotStatus s (idx - 0x5050) d
  else if idx = 0x5060 then u8 (vatState s d)
  else if idx = 0x5061 then u32 (tgetD s.part.vats d {}).bist
  else if idx = 0xC701 then u32 (tintUsage s.cfg sub)
  else if idx = 0xC702 then tintDigestOf (if view then nextConfig s false else s.cfg) sub
  else if idx = 0x6004 then u8 (ledOf s d).state
  else if idx = 0x600D then journalState s d
  else if inRange idx 0x6010 0x6013 then padTo (ledOf s (idx - 0x6010)).report 64
  else if inRange idx 0x6020 0x6037 then historyOf s (idx - 0x6020)
  else if inRange idx 0x6040 0x6043 then blockTable s (idx - 0x6040)
  else if inRange idx 0x6050 0x6053 then u64 (nth (ledOf s (idx - 0x6050)).counts sub)
  else []

/-- The same of chapters 15 to 17. -/
def roTop (s : State) (c : Caller) (idx sub : Nat) : Bytes :=
  let d := sub - 1
  if inRange idx 0x7010 0x7023 then (tilesOf (idx - 0x7010)).flatMap (routerBlock s c)
  else if inRange idx 0x7030 0x7043 then (tilesOf (idx - 0x7030)).flatMap (injectBlock s c)
  else if inRange idx 0x7050 0x705F then utilBlock s c (idx - 0x7050) s.freeCount
  else if inRange idx 0x7060 0x706F then (if sub = 3 then bufStatus s (idx - 0x7060) else traceData s (idx - 0x7060))
  else if idx = 0x7091 then u32 ((snapOf s d).state % 4 + Nat.min (snapOf s d).missed (2 ^ 24 - 1) * 2 ^ 8)
  else if inRange idx 0x70A0 0x70B3 then snapshotBytes s (idx - 0x70A0)
  else if inRange idx 0x70C0 0x70D3 then eventRings s (idx - 0x70C0)
  else if inRange idx 0x7220 0x722F then
    let l := watchOf s (idx - 0x7220)
    if sub = 1 then u32 l.length else u32 ((l.map (fun x => x.leaves.length)).sum)
  else if inRange idx 0x7230 0x7233 then u64 (tgetD s.obs.digestCounts (3 * (idx - 0x7230) + d) 0)
  else if idx = 0x8000 then u32 (otpState s)
  else if idx = 0x8012 then u32 (roleStatus s)
  else if idx = 0x8013 then u64 s.sec.authFailures
  else if idx = 0x8030 then attestation s ((heldNonce s c).getD [])
  else if idx = 0x8040 then (if sub = 1 then unlockNonce s else unlockStatus s)
  else if idx = 0x8070 then u64 (nth s.sec.counts sub)
  else if idx = 0xF000 then Config.serviceId.take 64
  else if idx = 0xF001 then leBytes 64 (Config.dieTest d).toNat
  else if idx = 0x9002 then u32 s.pow.powerNow
  else if idx = 0x9003 then u64 (nth s.pow.stats sub)
  else if inRange idx 0x9030 0x9047 then telemetry (railOf s (idx - 0x9030))
  else if idx = 0x9060 then u16 (ofInt 16 (tgetD s.pow.temps d 0))
  else if idx = 0x9061 then u16 (ofInt 16 (tgetD s.pow.hbmTemps d 0))
  else if idx = 0x9073 then u8 s.pow.resetCause
  else if idx = 0x9080 then u32 (bootStatus (if sub = 1 then s.pow.bootDn else s.pow.bootDs))
  else if idx = 0x9083 then norImage s d
  else if idx = 0x9090 then u32 (pinState s)
  else []

def roValue (s : State) (c : Caller) (view : Bool) (idx sub : Nat) : Bytes :=
  if idx < 0x2000 || inRange idx 0x3000 0x3FFF then roLow s c idx sub
  else if idx < 0x3000 then roMid s c view idx sub
  else if idx < 0x7000 || 0xC000 ≤ idx && idx < 0xF000 then roHigh s c view idx sub
  else roTop s c idx sub

/-- R60, R71: the value of an RW, RWD or RWE entry: with VIEW that of the pending bank, with GROUND the ground value. WALL_RATE is RATE in force (R390). -/
def storedValue (s : State) (e : OdEntry) (idx sub : Nat) (view ground : Bool) : Bytes :=
  let next := nextConfig s false
  if e.acc = .rwe && view then
    if ground then tgetD next (odKey idx sub) (odDefault idx sub) else bankValue next idx sub
  else if ground then groundValue s idx sub
  else if idx = 0x2860 && sub = 3 then u32 (ofInt 32 s.time.rate)
  else valueInForce s idx sub

/-- R554, R594: the states in which a read is refused (step 10 of R635). -/
def readState (s : State) (c : Caller) (idx sub : Nat) : Option Nat :=
  if inRange idx 0x7060 0x706F && sub = 5 && !captureReadable s (idx - 0x7060) then some aStateConflict
  else if idx = 0x8030 && sub = 2 && (heldNonce s c).isNone then some aStateConflict
  else none

/-- What reading leaves behind: a counter read clears RESET_SEEN of the die (Table 15.1), and a utilisation read has drawn its open counts. -/
def afterRead (s : State) (idx : Nat) : State :=
  let seen := fun (s : State) (d : Nat) => modObs s fun o => { o with resetSeen := o.resetSeen.filter (· != d) }
  if inRange idx 0x7010 0x7023 then seen s (idx - 0x7010)
  else if inRange idx 0x7030 0x7043 then seen s (idx - 0x7030)
  else if inRange idx 0x7050 0x705F then takeDraws (seen s (idx - 0x7050)) 448
  else s

/-- A read of an entry (R53 to R71, R635): an abort code, or the value; and the state it leaves. -/
def odRead (s : State) (c : Caller) (idx sub : Nat) (view ground : Bool) : (Nat ⊕ Bytes) × State :=
  if 0xF000 ≤ idx && c.role ≠ 4 then (.inl aAccessDenied, s)
  else match odLookup idx sub with
    | .inl a => (.inl a, s)
    | .inr e =>
      if e.acc = .wo then (.inl aWriteOnly, s)
      else if !readAllowed s c e idx sub then (.inl aAccessDenied, s)
      else if unitDown s false idx sub then (.inl aUnitDown, s)
      else match readState s c idx sub with
        | some a => (.inl a, s)
        | none =>
          if idx = 0x1100 && sub = 1 then
            let (b, s) := newChallenge s c
            (.inr b, s)
          else
            let v := match e.acc with
              | .const => constValue e idx sub
              | .ro => roValue s c view idx sub
              | _ => storedValue s e idx sub view ground
            (.inr v, afterRead s idx)

end Sys2Proof.Machine
end

