-- ==== Sys2Proof/Machine/OdWrite.lean ====
section
/-!
DEFINITION. Machine/OdWrite.lean: what a write of each dictionary entry does (R58 to R61, R72 to R74, R86), after the checks of R635 in their order.
-/
namespace Sys2Proof.Machine

/-- A write refused where a check fails, and else the effect. -/
def refuseIf (a : Option Nat) (s : State) (w : WriteOut) : WriteOut :=
  match a with
  | some code => .refused code s
  | none => w

/-! ### Commands -/

/-- R198: START of a vat's sequencer. -/
def seqStart (s : State) (d : Nat) : WriteOut :=
  let q := seqOf s d
  if q.state = 0 || q.state = 2 || q.state = 3 || vatOwner s.cfg d = 0 then .refused aStateConflict s else applied (seqBegin s d)

/-- R199: STOP of a vat's sequencer: an instruction under way that is not a wait ends first. -/
def seqStop (s : State) (d : Nat) : WriteOut :=
  let q := seqOf s d
  if q.state = 3 then applied (modSeq (seqCancelWait s d) d fun q => { q with state := 4, stopping := false })
  else if q.state ≠ 2 then .refused aStateConflict s
  else if q.wait.isSome then applied (modSeq s d fun q => { q with stopping := true })
  else applied (modSeq s d fun q => { q with state := 4, stopping := false })

/-- SEQ_CONTROL written: 1 START, 2 STOP. -/
def seqControl (s : State) (d v : Nat) : WriteOut :=
  if v = 1 then seqStart s d else if v = 2 then seqStop s d else .refused aValueOutOfRange s

/-- An Owner reaches only the groups of its partition (R64). -/
def groupDenied (c : Caller) (p : Nat) : Bool := c.role == 2 && p != c.part

/-- MC_REJOIN written (R310). -/
def mcRejoinWrite (s : State) (c : Caller) (v : Nat) : WriteOut :=
  let g := bits v 9 0
  let d := bits v 13 10
  if groupDenied c (mcPart (mcRecord s.ep.cur g)) then .refused aAccessDenied s
  else if bits v 15 14 ≠ 0 then .refused aValueOutOfRange s
  else if !(mcOf s g).pruned.contains d then .refused aStateConflict s
  else applied (mcRejoin s g d)

/-- RED_FORCE_RESYNC written (R313). -/
def redForce (s : State) (c : Caller) (v : Nat) : WriteOut :=
  let g := bits v 8 0
  if groupDenied c (redPart (redRecord s.ep.cur g)) then .refused aAccessDenied s
  else if bits v 15 9 ≠ 0 then .refused aValueOutOfRange s
  else if !(redOf s g).resync then .refused aStateConflict s
  else applied (redResyncStep s s.ep.cur g)

/-- LOG_CLEAR written 1: the ring is empty and LOG_SEQ continues. -/
def logClear (s : State) : State := mirrorLog (modInteg s fun g => { g with log := [] })

/-- A command that names a die. -/
def dieCommand (s : State) (d : Nat) (f : State → State) : WriteOut := if d < 20 then applied (f s) else .refused aValueOutOfRange s

/-- WALL_SET written (R390, R391). -/
def wallSet (s : State) (wall ft : Nat) : WriteOut :=
  if ft + 1000000000 < s.now || s.now + 1000000000 < ft then .refused aValueOutOfRange s
  else applied (modTime s fun t => { t with wallBase := wall, ftBase := ft, wallValid := true, pps := if t.pps = 4 then 1 else t.pps })

/-- PARTITION_CONTROL written: 1 DRAIN, 2 RESUME (R452). -/
def partitionControl (s : State) (p v : Nat) : WriteOut :=
  if v = 1 then applied (partitionDrain s p) else if v = 2 then applied (partitionResume s p) else .refused aValueOutOfRange s

/-- LEDGER_FORMAT written (R494). -/
def formatWrite (s : State) (c : Caller) (k v : Nat) : WriteOut :=
  if v ≠ 1 then .refused aValueOutOfRange s
  else if !formatOk s k (c.role == 4) then .refused aStateConflict s
  else started (ledgerFormat s k)

/-- LEDGER_CONTROL written: 1 STOP, 2 START (R495). -/
def ledgerControl (s : State) (k v : Nat) : WriteOut :=
  if v = 1 then (if stopOk s k then started (ledgerStop s k) else .refused aStateConflict s)
  else if v = 2 then (if (ledOf s k).state = 5 then applied (ledgerStart s k) else .refused aStateConflict s)
  else .refused aValueOutOfRange s

/-- BUFFER_CONTROL written: 1 ARM, 2 STOP, 3 TRIGGER, 4 DISARM (R550, R552). -/
def bufferControl (s : State) (b v : Nat) : WriteOut :=
  if v = 1 then applied (bufferArm s b)
  else if v = 2 then applied (bufferStop s b)
  else if v = 3 then (if bufferTriggerOk s b then applied (bufferTrigger s b) else .refused aStateConflict s)
  else if v = 4 then applied (bufferDisarm s b)
  else .refused aValueOutOfRange s

/-- FREEZE_CMD written (R559). -/
def freezeWrite (s : State) (v : Nat) : WriteOut :=
  let dies := bits v 19 0
  let tf := bits v 127 64
  if bits v 30 20 ≠ 0 || bits v 63 32 ≠ 0 then .refused aValueOutOfRange s
  else refuseIf (freezeAbort s dies (bitAt v 31) tf) s (applied (freezeSend s (maskDies dies) (freezeTick s tf) 1 0))

/-- WO entries of chapters 3 to 13. -/
def commandLow (s : State) (c : Caller) (idx sub : Nat) (v : Bytes) : WriteOut :=
  let x := leNat v
  if idx = 0x1100 then sessionResponse s c v
  else if idx = 0x1101 then sessionClose s c x
  else if idx = 0x2514 then mcRejoinWrite s c x
  else if idx = 0x2515 then redForce s c x
  else if idx = 0x2603 then onlyOne x 1 (applied (logClear s)) s
  else if idx = 0x2834 then dieCommand s x (crossingClear · x)
  else if idx = 0x2860 then wallSet s (field v 0 8) (field v 8 8)
  else if idx = 0x3110 then seqControl s (sub - 1) x
  else if idx = 0x5010 then refuseIf (epochSwitchAbort s x) s (started (startSwitch s false x))
  else if idx = 0x5011 then refuseIf (epochCancelAbort s x) s (applied (epochCancel s))
  else partitionControl s (idx - 0x5020) x

/-- WO entries of chapters 14 to 17. `hw` says which NOR devices or self-tests fail. -/
def commandHigh (s : State) (c : Caller) (idx sub : Nat) (v : Bytes) (hw : Nat) : WriteOut :=
  let x := leNat v
  if idx = 0x6003 then formatWrite s c (sub - 1) x
  else if idx = 0x6005 then ledgerControl s (sub - 1) x
  else if idx = 0x6006 then (if releaseOk s (sub - 1) x then applied (journalRelease s (sub - 1) x) else .refused aValueOutOfRange s)
  else if idx = 0x7001 then dieCommand s x (counterClear · x)
  else if inRange idx 0x7060 0x706F then bufferControl s (idx - 0x7060) x
  else if idx = 0x7090 then freezeWrite s x
  else if idx = 0x7092 then (if x < 2 ^ 20 then applied (snapshotRelease s x) else .refused aValueOutOfRange s)
  else if idx = 0x8010 then roleEnrol s c v
  else if idx = 0x8011 then roleRevoke s x
  else if idx = 0x8030 then applied (attestNonce s c v)
  else if idx = 0x8040 then (if sub = 2 then unlockToken s v else onlyOne x 1 (applied (endUnlock s 2)) s)
  else if idx = 0x8041 then onlyOne x 1 (started (scanEnter s)) s
  else if idx = 0x8050 then zeroise s v
  else if idx = 0x8051 then onlyOne x 1 (applied (floorCommit s)) s
  else if idx = 0xF002 then applied (modSec s fun k => { k with bist := tput k.bist (sub - 1) x })
  else if idx = 0x9070 then onlyOne x 1 (warmStart s hw) s
  else if idx = 0x9071 then refuseIf (dieResetAbort s c.role x) s (applied (withDevice (fun s => dieResetGo s x (hw != 0)) s))
  else if idx = 0x9072 then refuseIf (islandResetAbort s c.role x) s (applied (islandResetGo s x))
  else if idx = 0x9081 then fwUpdate s v hw
  else onlyOne x 1 (fwCommitB s hw) s

def commandWrite (s : State) (c : Caller) (idx sub : Nat) (v : Bytes) (hw : Nat) : WriteOut :=
  if idx < 0x6000 then commandLow s c idx sub v else commandHigh s c idx sub v hw

/-! ### Entries that hold a value -/

/-- R59, R60, R72: a write of an RWE entry goes to the pending bank. -/
def pendingWrite (s : State) (idx sub : Nat) (v : Bytes) : WriteOut :=
  let s := modEp s fun e => { e with pend := tput e.pend (odKey idx sub) v }
  let next := nextConfig s false
  .ok (if (overlayValue next (bankTint next) (odKey idx sub)).isSome then 2 else 1) 0 s

/-- What some entries do beside holding their value, where no tint masks it: WALL_RATE (R390), PPS_ENABLE (R391), a CAN controller's bit timing
(R89), a sequencer's program (R234). -/
def alsoDoes (s : State) (idx sub : Nat) (v : Bytes) : State :=
  if idx = 0x2860 && sub = 3 then setRate s (sext 32 (leNat v))
  else if idx = 0x2860 && sub = 4 then
    modTime s fun t => { t with pps := if leNat v = 0 then 0 else if t.pps = 0 then 1 else t.pps }
  else if (idx = 0x1010 || idx = 0x1011) && 2 ≤ sub then modCan s (idx - 0x1010) fun x => { x with applyDue := true }
  else if inRange idx 0x3100 0x310F then
    let d := idx - 0x3100
    if v.isEmpty then s else modPart (loadProgram s d v) fun p => { p with programs := tput p.programs d v }
  else s

/-- R58, R72, R627: a write of an RW or RWD entry: the ground value, in force at once except where the active tint masks it. -/
def groundWrite (s : State) (e : OdEntry) (idx sub : Nat) (v : Bytes) : WriteOut :=
  let masked := (overlayValue s.cfg s.tint (odKey idx sub)).isSome
  let before := s
  let s := modDict s fun d => { d with rw := tput d.rw (odKey idx sub) v }
  let s :=
    if e.member = .neither then s
    else modPart (modPow s fun w => { w with storeDue := w.storeDue.orElse fun _ => some s.now }) fun p => { p with digestDue := true }
  let s := if masked then s else alsoDoes s idx sub v
  let s := if idx = 0x9050 then railsFollow before s else s
  .ok (if masked then 2 else 0) 0 (deviceNote before s)

/-- R234: a program that fails a check of Table 6.11 leaves the first failing word and the reason in OD 0x3112. -/
def noteLoadError (s : State) (idx : Nat) (v : Bytes) (code : Nat) : State :=
  if inRange idx 0x3100 0x310F && code = aValueOutOfRange then
    match progCheck v with
    | some (word, reason) => modSeq s (idx - 0x3100) fun q => { q with loadError := word % 2 ^ 16 + reason * 2 ^ 16 }
    | none => s
  else s

/-- Steps 9 and 10 of R635 and the effect, for an entry that holds a value. -/
def valueWrite (s : State) (e : OdEntry) (idx sub : Nat) (v : Bytes) : WriteOut :=
  let go : Unit → WriteOut := fun _ => if e.acc = .rwe then pendingWrite s idx sub v else groundWrite s e idx sub v
  match storedCheck s e idx sub v with
  | none => refuseIf (stateCheck s e idx sub) s (go ())
  | some code =>
    if code = aResource then .refused ((stateCheck s e idx sub).getD aResource) s
    else .refused code (noteLoadError s idx v code)

/-- R595, Table 16.11: BIST_OVERRIDE needs its unlock scope. -/
def scopeAllows (s : State) (idx : Nat) : Bool := idx != 0xF002 || bitAt (scopes s) 4

/-- Steps 3 to 8 of R635 for a write of n bytes: the entry, or the abort of the first check that fails. -/
def writeEntry (s : State) (c : Caller) (idx sub n : Nat) : Nat ⊕ OdEntry :=
  if 0xF000 ≤ idx && c.role ≠ 4 then .inl aAccessDenied
  else match odLookup idx sub with
    | .inl a => .inl a
    | .inr e =>
      if e.acc = .const || e.acc = .ro then .inl aReadOnly
      else if !writeAllowed s c e idx sub || !scopeAllows s idx then .inl aAccessDenied
      else if unitDown s true idx sub then .inl aUnitDown
      else if !lengthOk e n then .inl aTypeLength
      else .inr e

/-- Steps 9 and 10 of R635 and the effect of a write that has passed the steps before. `hw` is the hardware's part of a command's outcome, 0 where
nothing fails. -/
def writeValue (s : State) (c : Caller) (idx sub : Nat) (v : Bytes) (hw : Nat) : WriteOut :=
  match odLookup idx sub with
  | .inl a => .refused a s
  | .inr e => if e.acc = .wo then commandWrite s c idx sub v hw else valueWrite s e idx sub v

/-- A write of an entry (R53 to R73, R635). -/
def odWrite (s : State) (c : Caller) (idx sub : Nat) (v : Bytes) (hw : Nat) : WriteOut :=
  match writeEntry s c idx sub v.length with
  | .inl a => .refused a s
  | .inr _ => writeValue s c idx sub v hw

end Sys2Proof.Machine
end

