-- ==== Sys2Proof/Machine/Ttp.lean ====
section
/-!
DEFINITION. Machine/Ttp.lean: the Tchido Transfer Protocol (R74 to R86): the checks of a message, sessions that messages name, expedited and segmented
transfers, and the answers on the endpoint that asked. Endpoints are 0 DN, 1 DS, and 2 + n for the mailbox of Pn.
-/
namespace Sys2Proof.Machine

/-! ### Messages -/

/-- Table 3.6: a message as its bytes. -/
def msgBytes (m : TtpMsg) : Bytes :=
  leBytes 8 (m.cs.toNat + m.session.toNat * 2 ^ 8 + m.index.toNat * 2 ^ 16 + m.sub.toNat * 2 ^ 32 + m.flags.toNat * 2 ^ 40 + m.len.toNat * 2 ^ 48
    + m.seq.toNat * 2 ^ 56) ++ m.payload

/-- The message that bytes hold (Table 3.6). `clean` is false where something beside the message that must be 0 is not, or the message is cut short;
it is then malformed, which its highest reserved flag stands for. -/
def msgOf (b : Bytes) (clean : Bool) : TtpMsg :=
  let n := field b 6 1
  { cs := BitVec.ofNat 8 (field b 0 1), session := BitVec.ofNat 8 (field b 1 1), index := BitVec.ofNat 16 (field b 2 2)
    sub := BitVec.ofNat 8 (field b 4 1), len := BitVec.ofNat 8 n, seq := BitVec.ofNat 8 (field b 7 1)
    flags := BitVec.ofNat 8 (if clean && decide (8 + n ≤ b.length) then field b 5 1 else field b 5 1 % 128 + 128)
    payload := slice b 8 n }

/-- R78: a CS that a client may send. -/
def clientCs (cs : BitVec 8) : Bool := [0x01, 0x02, 0x10, 0x12, 0x13, 0x14, 0x1F].contains cs.toNat

/-- Table 3.7: LEN suits the CS, and a grant is from 1 to 127. -/
def lenAllowed (m : TtpMsg) : Bool :=
  let n := m.len.toNat
  decide (n ≤ 56) && m.payload.length == n &&
    (if m.cs = 0x01 then n == 0
     else if m.cs = 0x10 || m.cs = 0x14 then n == 4
     else if m.cs = 0x13 then n == 1 && decide (1 ≤ leNat m.payload) && decide (leNat m.payload ≤ 127)
     else true)

def viewFlag (m : TtpMsg) : Bool := bitAt m.flags.toNat 0
def lastFlag (m : TtpMsg) : Bool := bitAt m.flags.toNat 1
def groundFlag (m : TtpMsg) : Bool := bitAt m.flags.toNat 2

/-- The client number of a transfer tag (Table 3.8). -/
def clientOf (tag : Nat) : Nat := bits tag 16 10

/-- R78, R97, Table 3.6: the message is malformed. -/
def msgMalformed (tag : Nat) (m : TtpMsg) : Bool :=
  clientOf tag == 0 || decide (8 ≤ m.flags.toNat) || decide (64 ≤ m.session.toNat) || !lenAllowed m ||
    ((viewFlag m || groundFlag m) && m.cs != 0x01) || (lastFlag m && m.cs != 0x12) || (m.seq != 0 && m.cs != 0x12 && m.cs != 0x13)

/-! ### Answers -/

def modCanStat (s : State) (ep i : Nat) : State := modCan s ep fun x => { x with stats := bump x.stats i }

/-- R92, R99: a message to the client of a tag: a CAN FD frame with function 0x02, or a response that waits for a slot. -/
def reply (s : State) (ep tag : Nat) (m : TtpMsg) : State :=
  if ep < 2 then
    let b := msgBytes m
    let s := emitOut s (.canFrame ep (2 * 2 ^ 24 + s.pow.nodeId % 128 * 2 ^ 17 + tag % 2 ^ 17) (padTo b (canLength b.length)))
    modCanStat s ep (if m.cs = 0x1F then 2 else 1)
  else modMbx s (ep - 2) fun x => { x with outbox := x.outbox ++ [(tag, m)] }

/-- A message of the part: it echoes index, subindex and session. -/
def partMsg (cs : Nat) (session index sub : Nat) (payload : Bytes) (seq : Nat := 0) (last : Bool := false) : TtpMsg :=
  { cs := BitVec.ofNat 8 cs, session := BitVec.ofNat 8 session, index := BitVec.ofNat 16 index, sub := BitVec.ofNat 8 sub
    flags := if last then 2 else 0, len := BitVec.ofNat 8 payload.length, seq := BitVec.ofNat 8 seq, payload := payload }

/-- The answer to a message. -/
def answer (s : State) (ep tag : Nat) (m : TtpMsg) (cs : Nat) (payload : Bytes) (seq : Nat := 0) : State :=
  reply s ep tag (partMsg cs m.session.toNat m.index.toNat m.sub.toNat payload seq)

/-- ABORT in answer to a message. -/
def abortTo (s : State) (ep tag : Nat) (m : TtpMsg) (code : Nat) : State := answer s ep tag m 0x1F (u32 code)

/-! ### Sessions and transfers -/

/-- The managing engine serves an endpoint: the controller or the port is up. -/
def ttpUp (s : State) (ep : Nat) : Bool := mgmtUp s && (if ep < 2 then canUp s ep else barsUp s (ep - 2))

/-- R66: sessions that nothing has named for the session timeout have expired. -/
def expireSessions (s : State) : State :=
  let limit := 1000000000 * setting s 0x1102 0
  modDict s fun d => { d with sessions := d.sessions.filter (fun e => decide (s.now < e.2.lastAt + limit)) }

/-- R62, R65: who a message's sender is; none where its session is not one of the endpoint's. -/
def callerOf (s : State) (ep tag session : Nat) : Option Caller :=
  if session = 0 then some { ep := ep, client := clientOf tag }
  else match tget s.dict.sessions session with
    | some x => if x.ep = ep then some { ep := ep, client := clientOf tag, session := session, role := x.role, part := x.partition } else none
    | none => none

/-- R66: a message has named its session. -/
def nameSession (s : State) (ep session : Nat) : State :=
  modDict s fun d => { d with sessions := d.sessions.map (fun e => if e.1 = session && e.2.ep = ep then (e.1, { e.2 with lastAt := s.now }) else e) }

def transferOf (s : State) (ep tag : Nat) : Option Transfer := s.dict.transfers.find? (fun t => t.ep == ep && t.tag == tag)

/-- A transfer ends with no effect (R84). -/
def dropTransfer (s : State) (ep tag : Nat) : State :=
  modDict s fun d => { d with transfers := d.transfers.filter (fun t => !(t.ep == ep && t.tag == tag)) }

def putTransfer (s : State) (t : Transfer) : State := modDict (dropTransfer s t.ep t.tag) fun d => { d with transfers := d.transfers ++ [t] }

/-- R83, R84: a transfer ends with an ABORT. -/
def failTransfer (s : State) (t : Transfer) (code : Nat) : State :=
  reply (dropTransfer s t.ep t.tag) t.ep t.tag (partMsg 0x1F t.session t.index t.sub (u32 code))

/-- R85: an open transfer whose tag is used again ends with SEQUENCE_ERROR. -/
def endReused (s : State) (ep tag : Nat) : State :=
  match transferOf s ep tag with
  | some t => failTransfer s t aSequenceError
  | none => s

/-- R85: the endpoint has 16 transfers open. -/
def transfersFull (s : State) (ep : Nat) : Bool := decide (16 ≤ (s.dict.transfers.filter (fun t => t.ep == ep)).length)

/-- R84: how long the part waits for a transfer's next message. -/
def segLimit (s : State) : Nat := 1000000 * setting s 0x1014 0

/-- R84: the endpoint's transfers that have waited longer than the segment timeout end. -/
def expireTransfers (s : State) (ep : Nat) : State :=
  (s.dict.transfers.filter (fun t => t.ep == ep && decide (t.lastAt + segLimit s < s.now))).foldl (fun s t => failTransfer s t aTimeout) s

/-- R81: the block that the part grants. -/
def grant (s : State) : Nat := setting s 0x1015 0

/-! ### Requests -/

/-- READ_REQ (R79, R75, R85). -/
def answerRead (s : State) (c : Caller) (tag : Nat) (m : TtpMsg) : State :=
  let r := odRead s c m.index.toNat m.sub.toNat (viewFlag m) (groundFlag m)
  match r.1 with
  | .inl a => abortTo r.2 c.ep tag m a
  | .inr v =>
    if v.length ≤ 56 then answer r.2 c.ep tag m 0x03 v
    else if transfersFull s c.ep then abortTo s c.ep tag m aTransferBusy
    else
      let t : Transfer :=
        { ep := c.ep, tag := tag, isRead := true, session := m.session.toNat, index := m.index.toNat, sub := m.sub.toNat, total := v.length, data := v
          lastAt := s.now }
      answer (putTransfer r.2 t) c.ep tag m 0x11 (u32 v.length)

/-- What a write ends in, answered (R86). -/
def answerWrite (c : Caller) (tag : Nat) (m : TtpMsg) : WriteOut → State
  | .refused code s => abortTo s c.ep tag m code
  | .ok effect session s => answer s c.ep tag m 0x04 (u8 effect ++ u8 session)

/-- SEG_WRITE_INIT (R635 steps 3 to 8, R81, R85). -/
def openWrite (s : State) (c : Caller) (tag : Nat) (m : TtpMsg) : State :=
  match writeEntry s c m.index.toNat m.sub.toNat (leNat m.payload) with
  | .inl a => abortTo s c.ep tag m a
  | .inr _ =>
    if transfersFull s c.ep then abortTo s c.ep tag m aTransferBusy
    else
      let t : Transfer :=
        { ep := c.ep, tag := tag, isRead := false, session := m.session.toNat, index := m.index.toNat, sub := m.sub.toNat
          total := leNat m.payload, block := grant s, lastAt := s.now }
      answer (putTransfer s t) c.ep tag m 0x13 (u8 (grant s)) 0xFF

/-- SEGMENT of a write (R80, R81, R83). -/
def takeSegment (s : State) (t : Transfer) (m : TtpMsg) : State :=
  let n := m.payload.length
  let shape := if lastFlag m then decide (1 ≤ n) || t.total == 0 else n == 56
  if t.isRead || t.last || t.block = 0 || m.seq.toNat ≠ t.segs % 256 || !shape then failTransfer s t aSequenceError
  else
    let t := { t with data := t.data ++ m.payload, segs := t.segs + 1, block := t.block - 1, last := lastFlag m, lastAt := s.now }
    if t.block = 0 && !t.last then answer (putTransfer s { t with block := grant s }) t.ep t.tag m 0x13 (u8 (grant s)) m.seq.toNat
    else putTransfer s t

/-- SEG_END of a write (R82, R83, R635 steps 9 and 10). -/
def endWrite (s : State) (c : Caller) (t : Transfer) (m : TtpMsg) (hw : Nat) : State :=
  if t.isRead || !t.last || t.data.length ≠ t.total then failTransfer s t aSequenceError
  else if crc32c t.data ≠ leNat m.payload then
    failTransfer (if t.ep < 2 then modCanStat s t.ep 4 else s) t aCrcMismatch
  else
    let echo : TtpMsg := partMsg 0 t.session t.index t.sub []
    answerWrite c t.tag echo (writeValue (dropTransfer s t.ep t.tag) c t.index t.sub t.data hw)

/-- R80, R81: segments k to stop − 1 of a read. -/
def sendSegments (s : State) (t : Transfer) : Nat → Nat → State
  | _, 0 => s
  | k, n + 1 =>
    let last := decide (t.total ≤ 56 * (k + 1))
    sendSegments (reply s t.ep t.tag (partMsg 0x12 t.session t.index t.sub (slice t.data (56 * k) 56) (k % 256) last)) t (k + 1) n

/-- SEG_ACK of a read: the granted block goes out, and SEG_END behind the last segment (R81, R82). -/
def grantRead (s : State) (t : Transfer) (m : TtpMsg) : State :=
  let expected := if t.segs = 0 then 0xFF else (t.segs - 1) % 256
  if !t.isRead || m.seq.toNat ≠ expected then failTransfer s t aSequenceError
  else
    let count := (t.total + 55) / 56
    let n := Nat.min (leNat m.payload) (count - t.segs)
    let s := sendSegments s t t.segs n
    if t.segs + n = count then reply (dropTransfer s t.ep t.tag) t.ep t.tag (partMsg 0x14 t.session t.index t.sub (u32 (crc32c t.data)))
    else putTransfer s { t with segs := t.segs + n, lastAt := s.now }

/-- SEGMENT, SEG_ACK or SEG_END under a tag (R83). -/
def continueTransfer (s : State) (c : Caller) (tag : Nat) (m : TtpMsg) (hw : Nat) : State :=
  match transferOf s c.ep tag with
  | none => abortTo s c.ep tag m aSequenceError
  | some t =>
    if t.session ≠ m.session.toNat then failTransfer s t aSequenceError
    else if m.cs = 0x12 then takeSegment s t m
    else if m.cs = 0x13 then grantRead s t m
    else endWrite s c t m hw

/-- R635 from step 3 on, by the message's CS. -/
def serve (s : State) (c : Caller) (tag : Nat) (m : TtpMsg) (hw : Nat) : State :=
  if m.cs = 0x01 then answerRead (endReused s c.ep tag) c tag m
  else if m.cs = 0x02 then
    answerWrite c tag m (odWrite (endReused s c.ep tag) c m.index.toNat m.sub.toNat m.payload hw)
  else if m.cs = 0x10 then openWrite (endReused s c.ep tag) c tag m
  else continueTransfer s c tag m hw

/-- A message handled at the managing engine (R76 to R86, R635). -/
def handle (s : State) (ep tag : Nat) (m : TtpMsg) (hw : Nat) : State :=
  let s := expireTransfers (expireSessions s) ep
  if m.cs = 0x1F then
    nameSession (dropTransfer (if ep < 2 then modCanStat s ep 3 else s) ep tag) ep m.session.toNat
  else if !clientCs m.cs then abortTo s ep tag m aBadCommand
  else if msgMalformed tag m then abortTo s ep tag m aMalformed
  else match callerOf s ep tag m.session.toNat with
    | none => abortTo (dropTransfer s ep tag) ep tag m aSessionInvalid
    | some c => serve (nameSession s ep m.session.toNat) c tag m hw

/-! ### Messages that wait -/

/-- Requests of an endpoint that have been received and not yet handled, oldest first (R76). -/
def inboxOf (s : State) (ep : Nat) : List (Nat × TtpMsg) := if ep < 2 then (canOf s ep).rxq else (mbxOf s (ep - 2)).inbox

def popInbox (s : State) (ep : Nat) : State :=
  if ep < 2 then modCan s ep fun x => { x with rxq := x.rxq.drop 1 } else modMbx s (ep - 2) fun x => { x with inbox := x.inbox.drop 1 }

/-- OD 0x1016 to 0x1018: a request counted. -/
def countRequest (s : State) (ep : Nat) : State :=
  if ep < 2 then modCanStat s ep 0 else modMbx s (ep - 2) fun x => { x with requests := x.requests + 1 }

/-- A client's message. Where messages of its endpoint wait, only the one that came first is handled (R76); where none waits, it arrives and is handled
at once. -/
def clientMessage (s : State) (ep tag : Nat) (m : TtpMsg) (hw : Nat) : State :=
  if !ttpUp s ep then s
  else match inboxOf s ep with
    | [] => handle (countRequest s ep) ep tag m hw
    | x :: _ => if x = (tag, m) then handle (popInbox s ep) ep tag m hw else s

/-- A message of one CS; a message whose CS no client may send is answered whichever command carries it. -/
def messageOf (cs : BitVec 8) (r : Req) (m : TtpMsg) (s : State) : State :=
  if m.cs = cs || !clientCs m.cs then clientMessage s r.ep.val r.tag.toNat m 0 else s

/-- A whole segmented write (R79 to R85) at its SEG_END, its segments having come in order: the checks of its first message, then those of its last. -/
def wholeWrite (s : State) (ep tag : Nat) (m : TtpMsg) (v : Bytes) (hw : Nat) : State :=
  let s := expireTransfers (expireSessions s) ep
  if msgMalformed tag m then abortTo s ep tag m aMalformed
  else match callerOf s ep tag m.session.toNat with
    | none => abortTo (dropTransfer s ep tag) ep tag m aSessionInvalid
    | some c =>
      let s := endReused (nameSession s ep m.session.toNat) ep tag
      match writeEntry s c m.index.toNat m.sub.toNat v.length with
      | .inl a => abortTo s ep tag m a
      | .inr _ =>
        if transfersFull s ep then abortTo s ep tag m aTransferBusy
        else answerWrite c tag m (writeValue s c m.index.toNat m.sub.toNat v hw)

/-- A client writes a value: in one WRITE_EXP where it fits (R79), else by a segmented write. -/
def clientWrite (s : State) (r : Req) (idx sub : Nat) (v : Bytes) (hw : Nat := 0) : State :=
  let m := fun cs (p : Bytes) => partMsg cs r.session.toNat idx sub p
  let ep := r.ep.val
  let tag := r.tag.toNat
  if v.length ≤ 56 then clientMessage s ep tag (m 0x02 v) hw
  else if !ttpUp s ep || !(inboxOf s ep).isEmpty then s
  else wholeWrite (countRequest s ep) ep tag (m 0x10 (u32 v.length)) v hw

/-- A client reads an entry. -/
def clientRead (s : State) (r : Req) (idx sub : Nat) : State :=
  clientMessage s r.ep.val r.tag.toNat (partMsg 0x01 r.session.toNat idx sub []) 0

/-! ### The messages' commands -/

/-- READ_REQ (R79). -/
def execReadReq (r : Req) (m : TtpMsg) (s : State) : Host.Outcome State Fault Refusal := .next (messageOf 0x01 r m s)

/-- WRITE_EXP (R74). -/
def execWriteExp (r : Req) (m : TtpMsg) (s : State) : Host.Outcome State Fault Refusal := .next (messageOf 0x02 r m s)

/-- SEG_WRITE_INIT (R85). -/
def execSegWriteInit (r : Req) (m : TtpMsg) (s : State) : Host.Outcome State Fault Refusal := .next (messageOf 0x10 r m s)

/-- SEGMENT (R80). -/
def execSegment (r : Req) (m : TtpMsg) (s : State) : Host.Outcome State Fault Refusal := .next (messageOf 0x12 r m s)

/-- SEG_ACK (R81). -/
def execSegAck (r : Req) (m : TtpMsg) (s : State) : Host.Outcome State Fault Refusal := .next (messageOf 0x13 r m s)

/-- SEG_END (R82). -/
def execSegEnd (r : Req) (m : TtpMsg) (s : State) : Host.Outcome State Fault Refusal := .next (messageOf 0x14 r m s)

/-- ABORT (R84). -/
def execAbort (r : Req) (m : TtpMsg) (s : State) : Host.Outcome State Fault Refusal := .next (messageOf 0x1F r m s)

/-- SEG_TIMEOUT (R84): the segment timeout of an open transfer passes. -/
def execSegTimeout (ep : EpId) (tag : BitVec 17) (s : State) : Host.Outcome State Fault Refusal :=
  match transferOf s ep.val tag.toNat with
  | none => .next s
  | some t =>
    let s := timeReaches s (t.lastAt + segLimit s)
    .next (if ttpUp s ep.val then failTransfer s t aTimeout else dropTransfer s ep.val tag.toNat)

/-! ### CAN FD (R87 to R95) -/

/-- CAN_FRAME_RECEIVE (R92, R94): a request for this node is queued, or discarded and counted where 32 wait; every other frame is ignored. -/
def execCanFrameReceive (ds fd : Bool) (ident : BitVec 29) (data : Bytes) (s : State) : Host.Outcome State Fault Refusal :=
  let c := bitOf ds
  let id := ident.toNat
  if !canUp s c || !fd || bits id 28 24 ≠ 3 || bits id 23 17 ≠ s.pow.nodeId % 128 then .next s
  else if 32 ≤ (canOf s c).rxq.length then .next (modCanStat s c 5)
  else .next (modCan (modCanStat s c 0) c fun x => { x with rxq := x.rxq ++ [(bits id 16 0, msgOf data true)] })

/-- R495: the heartbeat's JOURNAL_READY. -/
def allJournalsReady (s : State) : Bool := (List.range 4).all (fun n => !dieUp s (16 + n) || journalReady s n)

/-- Table 3.9. -/
def heartbeatBytes (s : State) : Bytes :=
  leBytes 16 (deviceState s % 256 + s.tint % 256 * 2 ^ 8 + s.ep.count % 4 * 2 ^ 16 + bitOf (allJournalsReady s) * 2 ^ 24
    + bitOf (s.mgmtDie == 18) * 2 ^ 25 + s.now % 2 ^ 64 * 2 ^ 64)

/-- HEARTBEAT (R95): a controller's heartbeat period passes. -/
def execHeartbeat (ds : Bool) (s : State) : Host.Outcome State Fault Refusal :=
  let c := bitOf ds
  if !canUp s c || setting s 0x1013 0 = 0 then .next s
  else
    let s := timeReaches s ((canOf s c).heartbeatAt + 1000000 * setting s 0x1013 0)
    .next (canSend (modCan s c fun x => { x with heartbeatAt := s.now }) c 4 0 (heartbeatBytes s))

/-- CAN_BIT_RATE_APPLY (R89): the settings written for a controller come into force. -/
def execCanBitRateApply (ds : Bool) (s : State) : Host.Outcome State Fault Refusal :=
  let c := bitOf ds
  let e := 0x1010 + c
  if !(canOf s c).applyDue then .next s
  else
    .next (modCan s c fun x =>
      { x with
        nominal := setting s e 2, data := setting s e 3, nominalSp := setting s e 4, dataSp := setting s e 5, applyDue := false })

/-- R88, ISO 11898-1 (PRESUMED, notes/assumptions/45.md): the error counters after a frame sent or received, well or not; from bus-off, `ok` is the end
of the recovery. -/
def busCounters (tx ok : Bool) (x : CanCtrl) : CanCtrl :=
  if x.busOff then (if ok then { x with busOff := false, tec := 0, rec_ := 0 } else x)
  else if tx then
    let n := if ok then x.tec - 1 else x.tec + 8
    { x with tec := n, busOff := decide (256 ≤ n) }
  else { x with rec_ := if ok then (if 127 < x.rec_ then 127 else x.rec_ - 1) else x.rec_ + 1 }

/-- CAN_BUS_ERROR (R88). -/
def execCanBusError (ds tx ok : Bool) (s : State) : Host.Outcome State Fault Refusal :=
  let c := bitOf ds
  if !dieUp s (canDie c) || setting s (0x1010 + c) 1 = 0 || s.pow.nodeId = 0 then .next s
  else .next (modCan s c (busCounters tx ok))

/-! ### The mailboxes (R96 to R100) -/

/-- The bytes of request slot i. -/
def requestSlot (x : Mailbox) (i : Nat) : Bytes := (List.range 128).map (fun k => tgetD x.reqRing (128 * i + k) 0)

/-- Table 3.12: what must be 0 in a slot. -/
def slotClean (b : Bytes) : Bool :=
  field b 0 4 / 2 ^ 17 == 0 && allZero (slice b 4 4) && allZero ((slice b 8 64).drop (8 + field b 14 1)) && allZero (slice b 72 56)

/-- Response slots that the host has not freed. -/
def responsesHeld (x : Mailbox) : Nat := (x.rspTail - x.rspHead).toNat

/-- MBX_REQUEST_TAKE (R99, R100): the part reads the slot at the request head, unless the response ring is full. -/
def execMbxRequestTake (port : PortId) (s : State) : Host.Outcome State Fault Refusal :=
  let n := port.val
  let x := mbxOf s n
  if !ttpUp s (2 + n) || x.reqHead = x.reqTail || 16 ≤ responsesHeld x then .next s
  else
    let b := requestSlot x (x.reqHead.toNat % 16)
    .next (modMbx s n fun x =>
      { x with
        reqHead := x.reqHead + 1, requests := x.requests + 1
        inbox := x.inbox ++ [(field b 0 4 % 2 ^ 17, msgOf (slice b 8 64) (slotClean b))] })

/-- MBX_RESPONSE_POST (R99): the oldest response goes into a free slot, and the vector is sent if enabled. -/
def execMbxResponsePost (port : PortId) (s : State) : Host.Outcome State Fault Refusal :=
  let n := port.val
  let x := mbxOf s n
  match x.outbox with
  | [] => .next s
  | (tag, m) :: rest =>
    if !barsUp s n || 16 ≤ responsesHeld x then .next s
    else
      let b := padTo (leBytes 8 (tag % 2 ^ 17) ++ msgBytes m) 128
      let s := modMbx s n fun x =>
        { x with outbox := rest, rspRing := tput x.rspRing (x.rspTail.toNat % 16) b, rspTail := x.rspTail + 1 }
      .next (if x.irqEn then msixSend s n x.vec else s)

end Sys2Proof.Machine
end

