-- ==== Sys2Proof/Machine/Client.lean ====
section
/-!
DEFINITION. Machine/Client.lean: the commands that a client gives by writing or reading one entry of the dictionary: each goes through every check of R635
and is answered on the endpoint it came from.
-/
namespace Sys2Proof.Machine

/-- SESSION_CHALLENGE (R67, R580). -/
def execSessionChallenge (r : Req) (s : State) : Host.Outcome State Fault Refusal := .next (clientRead s r 0x1100 1)

/-- SESSION_RESPONSE (R67, R582). -/
def execSessionResponse (r : Req) (value : Bytes) (s : State) : Host.Outcome State Fault Refusal := .next (clientWrite s r 0x1100 2 value)

/-- SESSION_CLOSE (R636). -/
def execSessionClose (r : Req) (id : BitVec 8) (s : State) : Host.Outcome State Fault Refusal := .next (clientWrite s r 0x1101 0 (u8 id.toNat))

/-- SEQ_START (R198). -/
def execSeqStart (r : Req) (vat : VatId) (s : State) : Host.Outcome State Fault Refusal := .next (clientWrite s r 0x3110 (vat.val + 1) (u8 1))

/-- SEQ_STOP (R199). -/
def execSeqStop (r : Req) (vat : VatId) (s : State) : Host.Outcome State Fault Refusal := .next (clientWrite s r 0x3110 (vat.val + 1) (u8 2))

/-- SEQ_PROGRAM_LOAD (R233, R234). -/
def execSeqProgramLoad (r : Req) (vat : VatId) (prog : Bytes) (s : State) : Host.Outcome State Fault Refusal :=
  .next (clientWrite s r (0x3100 + vat.val) 0 prog)

/-- MC_REJOIN (R310). -/
def execMcRejoin (r : Req) (value : BitVec 16) (s : State) : Host.Outcome State Fault Refusal := .next (clientWrite s r 0x2514 0 (u16 value.toNat))

/-- RED_FORCE_RESYNC (R313). -/
def execRedForceResync (r : Req) (group : BitVec 16) (s : State) : Host.Outcome State Fault Refusal :=
  .next (clientWrite s r 0x2515 0 (u16 group.toNat))

/-- LOG_CLEAR (R353, OD 0x2603). -/
def execLogClear (r : Req) (value : BitVec 8) (s : State) : Host.Outcome State Fault Refusal := .next (clientWrite s r 0x2603 0 (u8 value.toNat))

/-- CROSSING_CLEAR (R378). -/
def execCrossingClear (r : Req) (die : BitVec 8) (s : State) : Host.Outcome State Fault Refusal := .next (clientWrite s r 0x2834 0 (u8 die.toNat))

/-- WALL_SET (R390). -/
def execWallSet (r : Req) (wall : BitVec 64) (ft : BitVec 64) (s : State) : Host.Outcome State Fault Refusal :=
  .next (clientWrite s r 0x2860 1 (u64 wall.toNat ++ u64 ft.toNat))

/-- WALL_RATE (R390). -/
def execWallRate (r : Req) (rate : BitVec 32) (s : State) : Host.Outcome State Fault Refusal := .next (clientWrite s r 0x2860 3 (u32 rate.toNat))

/-- EPOCH_SWITCH (R458). -/
def execEpochSwitch (r : Req) (goAt : BitVec 64) (s : State) : Host.Outcome State Fault Refusal := .next (clientWrite s r 0x5010 0 (u64 goAt.toNat))

/-- EPOCH_CANCEL (R466). -/
def execEpochCancel (r : Req) (value : BitVec 8) (s : State) : Host.Outcome State Fault Refusal := .next (clientWrite s r 0x5011 0 (u8 value.toNat))

/-- PARTITION_DRAIN (R452). -/
def execPartitionDrain (r : Req) (part : PartId) (s : State) : Host.Outcome State Fault Refusal :=
  .next (clientWrite s r (0x5020 + part.val) 4 (u8 1))

/-- PARTITION_RESUME (R452). -/
def execPartitionResume (r : Req) (part : PartId) (s : State) : Host.Outcome State Fault Refusal :=
  .next (clientWrite s r (0x5020 + part.val) 4 (u8 2))

/-- JOURNAL_RELEASE (R505). -/
def execJournalRelease (r : Req) (port : PortId) (num : BitVec 64) (s : State) : Host.Outcome State Fault Refusal :=
  .next (clientWrite s r 0x6006 (port.val + 1) (u64 num.toNat))

/-- LEDGER_FORMAT (R494). -/
def execLedgerFormat (r : Req) (die : Deckle) (s : State) : Host.Outcome State Fault Refusal := .next (clientWrite s r 0x6003 (die.val + 1) (u8 1))

/-- LEDGER_STOP (R495). -/
def execLedgerStop (r : Req) (die : Deckle) (s : State) : Host.Outcome State Fault Refusal := .next (clientWrite s r 0x6005 (die.val + 1) (u8 1))

/-- LEDGER_START (R495). -/
def execLedgerStart (r : Req) (die : Deckle) (s : State) : Host.Outcome State Fault Refusal := .next (clientWrite s r 0x6005 (die.val + 1) (u8 2))

/-- COUNTER_CLEAR (R538). -/
def execCounterClear (r : Req) (die : BitVec 8) (s : State) : Host.Outcome State Fault Refusal := .next (clientWrite s r 0x7001 0 (u8 die.toNat))

/-- BUFFER_ARM (R550). -/
def execBufferArm (r : Req) (buf : QueueId) (s : State) : Host.Outcome State Fault Refusal := .next (clientWrite s r (0x7060 + buf.val) 2 (u8 1))

/-- BUFFER_STOP (R550). -/
def execBufferStop (r : Req) (buf : QueueId) (s : State) : Host.Outcome State Fault Refusal := .next (clientWrite s r (0x7060 + buf.val) 2 (u8 2))

/-- BUFFER_TRIGGER (R552). -/
def execBufferTrigger (r : Req) (buf : QueueId) (s : State) : Host.Outcome State Fault Refusal := .next (clientWrite s r (0x7060 + buf.val) 2 (u8 3))

/-- BUFFER_DISARM (R550). -/
def execBufferDisarm (r : Req) (buf : QueueId) (s : State) : Host.Outcome State Fault Refusal := .next (clientWrite s r (0x7060 + buf.val) 2 (u8 4))

/-- FREEZE_CMD (R559). -/
def execFreezeCmd (r : Req) (dies : BitVec 20) (overwrite : Bool) (tf : BitVec 64) (s : State) : Host.Outcome State Fault Refusal :=
  .next (clientWrite s r 0x7090 0 (u64 (dies.toNat + bitOf overwrite * 2 ^ 31) ++ u64 tf.toNat))

/-- SNAPSHOT_RELEASE (R560). -/
def execSnapshotRelease (r : Req) (dies : BitVec 20) (s : State) : Host.Outcome State Fault Refusal :=
  .next (clientWrite s r 0x7092 0 (u32 dies.toNat))

/-- ROLE_ENROL (R583, R584). -/
def execRoleEnrol (r : Req) (value : Bytes) (s : State) : Host.Outcome State Fault Refusal := .next (clientWrite s r 0x8010 0 value)

/-- ROLE_REVOKE (R584). -/
def execRoleRevoke (r : Req) (value : BitVec 16) (s : State) : Host.Outcome State Fault Refusal := .next (clientWrite s r 0x8011 0 (u16 value.toNat))

/-- ATTEST_NONCE (R594). -/
def execAttestNonce (r : Req) (nonce : Bytes) (s : State) : Host.Outcome State Fault Refusal := .next (clientWrite s r 0x8030 1 nonce)

/-- ATTESTATION (R594). -/
def execAttestation (r : Req) (s : State) : Host.Outcome State Fault Refusal := .next (clientRead s r 0x8030 2)

/-- UNLOCK_TOKEN (R595). -/
def execUnlockToken (r : Req) (token : Bytes) (s : State) : Host.Outcome State Fault Refusal := .next (clientWrite s r 0x8040 2 token)

/-- UNLOCK_REVOKE (R596). -/
def execUnlockRevoke (r : Req) (s : State) : Host.Outcome State Fault Refusal := .next (clientWrite s r 0x8040 4 (u8 1))

/-- DEBUG_SCAN_ENTER (R599). -/
def execDebugScanEnter (r : Req) (s : State) : Host.Outcome State Fault Refusal := .next (clientWrite s r 0x8041 0 (u8 1))

/-- ZEROISE (R592). -/
def execZeroise (r : Req) (serial : Bytes) (s : State) : Host.Outcome State Fault Refusal := .next (clientWrite s r 0x8050 0 serial)

/-- FW_FLOOR_COMMIT (R590). -/
def execFwFloorCommit (r : Req) (s : State) : Host.Outcome State Fault Refusal := .next (clientWrite s r 0x8051 0 (u8 1))

/-- BIST_OVERRIDE (OD 0xF002, Table 16.11). -/
def execBistOverride (r : Req) (vat : VatId) (value : BitVec 32) (s : State) : Host.Outcome State Fault Refusal :=
  .next (clientWrite s r 0xF002 (vat.val + 1) (u32 value.toNat))

/-- RAIL_SETPOINT (R606). -/
def execRailSetpoint (r : Req) (rail : RailId) (mv : BitVec 16) (s : State) : Host.Outcome State Fault Refusal :=
  .next (clientWrite s r 0x9050 (rail.val + 1) (u16 mv.toNat))

/-- WARM_RESET (R621). -/
def execWarmReset (r : Req) (selfTest : BitVec 4) (s : State) : Host.Outcome State Fault Refusal :=
  .next (clientWrite s r 0x9070 0 (u8 1) selfTest.toNat)

/-- DIE_RESET (R622). -/
def execDieReset (r : Req) (die : BitVec 8) (selfTest : Bool) (s : State) : Host.Outcome State Fault Refusal :=
  .next (clientWrite s r 0x9071 0 (u8 die.toNat) (bitOf selfTest))

/-- ISLAND_RESET (R623). -/
def execIslandReset (r : Req) (island : BitVec 16) (s : State) : Host.Outcome State Fault Refusal :=
  .next (clientWrite s r 0x9072 0 (u16 island.toNat))

/-- FW_UPDATE (R628). -/
def execFwUpdate (r : Req) (image : Bytes) (fail : BitVec 2) (s : State) : Host.Outcome State Fault Refusal :=
  .next (clientWrite s r 0x9081 0 image fail.toNat)

/-- FW_COMMIT_B (R628). -/
def execFwCommitB (r : Req) (fail : BitVec 2) (s : State) : Host.Outcome State Fault Refusal := .next (clientWrite s r 0x9082 0 (u8 1) fail.toNat)

end Sys2Proof.Machine
end

