-- ==== Sys2Proof/Machine/Jtag.lean ====
section
/-!
DEFINITION. Machine/Jtag.lean: the JTAG port on DN O21 (R597 to R599, Table 16.10): boundary scan, IDCODE, bypass, and the debug instructions. A command is
one selection of an instruction with one data scan; bits go in and out least significant first.
-/
namespace Sys2Proof.Machine

/-- R597, R634: cells of the boundary register: every land but power and ground. -/
def boundaryCells : Nat := 1440 - 488 - 387

/-- R597: IDCODE. -/
def idcode : Nat := 0x1502076B

/-- A data register of len bits that holds v, with the bits of tdi shifted through it: what comes out, and what it holds then. -/
def shiftThrough (len v : Nat) (tdi : Bytes) : Bytes × Nat :=
  let n := 8 * tdi.length
  let all := v % 2 ^ len + leNat tdi * 2 ^ len
  (leBytes tdi.length (all % 2 ^ n), all / 2 ^ n % 2 ^ len)

/-- Bytes that hold the boundary register. -/
def boundaryBytes (v : Nat) : Bytes := leBytes 71 v

/-- One instruction: nothing happens while POR_N holds TDO (Table 17.5); else the instruction register, the pins and TDO take their values. -/
def jtag (s : State) (ir held : Nat) (out : Bytes) : State :=
  if s.pow.por then s else emitOut (modPow s fun w => { w with jtagIr := ir, pinsHeld := held }) (.tdo out)

/-- The bypass register: one cell, 0 at capture. -/
def bypassOut (tdi : Bytes) : Bytes := (shiftThrough 1 0 tdi).1

/-- A scan of the boundary register: the levels at the pins are captured, and what is shifted in is latched. -/
def boundaryScan (s : State) (ir held : Nat) (tdi pins : Bytes) : State :=
  let (out, v) := shiftThrough boundaryCells (leNat pins) tdi
  if s.pow.por then s else modPow (jtag s ir held out) fun w => { w with boundary := boundaryBytes v }

/-- EXTEST: the pins are driven from the boundary register. -/
def execExtest (tdi pins : Bytes) (s : State) : Host.Outcome State Fault Refusal := .next (boundaryScan s 0x00 1 tdi pins)

/-- SAMPLE/PRELOAD: the part goes on driving its pins. -/
def execSamplePreload (tdi pins : Bytes) (s : State) : Host.Outcome State Fault Refusal := .next (boundaryScan s 0x02 0 tdi pins)

/-- IDCODE. -/
def execIdcode (tdi : Bytes) (s : State) : Host.Outcome State Fault Refusal := .next (jtag s 0x01 0 (shiftThrough 32 idcode tdi).1)

/-- CLAMP: the pins are driven from the boundary register, and the bypass register is scanned. -/
def execClamp (tdi : Bytes) (s : State) : Host.Outcome State Fault Refusal := .next (jtag s 0x04 1 (bypassOut tdi))

/-- HIGHZ: the pins float, and the bypass register is scanned. -/
def execHighz (tdi : Bytes) (s : State) : Host.Outcome State Fault Refusal := .next (jtag s 0x05 2 (bypassOut tdi))

/-- BYPASS, and every code that Table 16.10 does not give. -/
def execBypass (tdi : Bytes) (s : State) : Host.Outcome State Fault Refusal := .next (jtag s 0xFF 0 (bypassOut tdi))

/-- R596, R597: a debug instruction whose scope is not in force behaves as BYPASS. With its scope in force its data register's layout is
left open, and so is what the scan does to the part. -/
def debugScan (s : State) (ir scope : Nat) (ready : Bool) (tdi : Bytes) : Host.Outcome State Fault Refusal :=
  if s.pow.por then .next s
  else if bitAt (scopes s) scope && ready then .refused .debugDataRegister
  else .next (jtag s ir 0 (bypassOut tdi))

/-- DBG_MAINT: reads of the maintenance rings. With MAINT_ACCESS in force the bits read come in a layout that is left open (free values). -/
def execDbgMaint (tdi : Bytes) (s : State) : Host.Outcome State Fault Refusal :=
  if bitAt (scopes s) 1 && !s.pow.por then
    let (b, s) := drawBytes tdi.length s
    .next (jtag s 0x20 0 b)
  else .next (jtag s 0x20 0 (bypassOut tdi))

/-- R598: k bytes that MEM_ACCESS writes as partition 0, each at an address and with a value that the open layout leaves free; an address that R107 and
R109 leave unmapped, and one that holds no memory, takes none. -/
def memScan : Nat → State → State
  | 0, s => s
  | k + 1, s =>
    let (a, s) := draw s
    let (v, s) := draw s
    let holds := mapped a && (match decodeAddr a with
      | some (.vatSram _ _ _) => true
      | some (.deckleSram _ _ _) => true
      | some (.hbm _ _) => true
      | _ => false)
    memScan k (if holds then writeMem s a (leBytes 1 v) else s)

/-- DBG_MEM: with MEM_ACCESS in force, reads and writes of the fabric address space (R598): no more bytes are written than are shifted in; the layout
is left open, so how many, where and what are free values, and so are the bits that come out. -/
def execDbgMem (tdi : Bytes) (s : State) : Host.Outcome State Fault Refusal :=
  if bitAt (scopes s) 2 && !s.pow.por then
    let (b, s) := drawBytes tdi.length s
    let (k, s) := draw s
    .next (memScan (k % (tdi.length + 1)) (jtag s 0x21 0 b))
  else .next (jtag s 0x21 0 (bypassOut tdi))

/-- DBG_SCAN: needs SCAN, which takes effect only after DEBUG_SCAN_ENTER (R599). -/
def execDbgScan (tdi : Bytes) (s : State) : Host.Outcome State Fault Refusal := debugScan s 0x22 3 (s.sec.scan == 3) tdi

/-- DBG_BIST: needs BIST_OVERRIDE. -/
def execDbgBist (tdi : Bytes) (s : State) : Host.Outcome State Fault Refusal := debugScan s 0x23 4 true tdi

end Sys2Proof.Machine
end

