-- ==== Sys2Proof/Machine/Dispatch.lean ====
section
/-! DEFINITION. Machine/Dispatch.lean: one arm per command, each a call of its meaning. -/
namespace Sys2Proof.Machine
open Sys2Proof

def exec (i : Instr) (s : State) : Host.Outcome State Fault Refusal :=
  match i with
  | .readReq r m => Sys2Proof.Machine.execReadReq r m s
  | .writeExp r m => Sys2Proof.Machine.execWriteExp r m s
  | .segWriteInit r m => Sys2Proof.Machine.execSegWriteInit r m s
  | .segment r m => Sys2Proof.Machine.execSegment r m s
  | .segAck r m => Sys2Proof.Machine.execSegAck r m s
  | .segEnd r m => Sys2Proof.Machine.execSegEnd r m s
  | .abort r m => Sys2Proof.Machine.execAbort r m s
  | .segTimeout ep tag => Sys2Proof.Machine.execSegTimeout ep tag s
  | .sessionTimeout id => Sys2Proof.Machine.execSessionTimeout id s
  | .challengeExpiry ep client => Sys2Proof.Machine.execChallengeExpiry ep client s
  | .sessionChallenge r => Sys2Proof.Machine.execSessionChallenge r s
  | .sessionResponse r value => Sys2Proof.Machine.execSessionResponse r value s
  | .sessionClose r id => Sys2Proof.Machine.execSessionClose r id s
  | .canFrameReceive ds fd ident data => Sys2Proof.Machine.execCanFrameReceive ds fd ident data s
  | .heartbeat ds => Sys2Proof.Machine.execHeartbeat ds s
  | .canBitRateApply ds => Sys2Proof.Machine.execCanBitRateApply ds s
  | .mbxReqTailWrite port tail => Sys2Proof.Machine.execMbxReqTailWrite port tail s
  | .mbxRspHeadWrite port head => Sys2Proof.Machine.execMbxRspHeadWrite port head s
  | .mbxRequestTake port => Sys2Proof.Machine.execMbxRequestTake port s
  | .mbxResponsePost port => Sys2Proof.Machine.execMbxResponsePost port s
  | .registerWrite port bar offset data => Sys2Proof.Machine.execRegisterWrite port bar offset data s
  | .syncRead node p => Sys2Proof.Machine.execSyncRead node p s
  | .syncAdd node p => Sys2Proof.Machine.execSyncAdd node p s
  | .syncSet node p => Sys2Proof.Machine.execSyncSet node p s
  | .syncWait node p => Sys2Proof.Machine.execSyncWait node p s
  | .syncArriveWait node p => Sys2Proof.Machine.execSyncArriveWait node p s
  | .syncConfigure node p => Sys2Proof.Machine.execSyncConfigure node p s
  | .notify node p => Sys2Proof.Machine.execNotify node p s
  | .unpark node p => Sys2Proof.Machine.execUnpark node p s
  | .notifyRepeat cell => Sys2Proof.Machine.execNotifyRepeat cell s
  | .waitResend vat => Sys2Proof.Machine.execWaitResend vat s
  | .waitLimitExpiry vat seq slice slot => Sys2Proof.Machine.execWaitLimitExpiry vat seq slice slot s
  | .syncRsp node p => Sys2Proof.Machine.execSyncRsp node p s
  | .admissionDecision port => Sys2Proof.Machine.execAdmissionDecision port s
  | .contextDeadline port ctx => Sys2Proof.Machine.execContextDeadline port ctx s
  | .kill node p => Sys2Proof.Machine.execKill node p s
  | .killDone node p => Sys2Proof.Machine.execKillDone node p s
  | .killRepeat port ctx vat => Sys2Proof.Machine.execKillRepeat port ctx vat s
  | .killLost port ctx vat => Sys2Proof.Machine.execKillLost port ctx vat s
  | .fibreResident vat slice slot => Sys2Proof.Machine.execFibreResident vat slice slot s
  | .opEnd vat slice slot => Sys2Proof.Machine.execOpEnd vat slice slot s
  | .opLoad vat slice slot => Sys2Proof.Machine.execOpLoad vat slice slot s
  | .opStore vat slice slot => Sys2Proof.Machine.execOpStore vat slice slot s
  | .opGather vat slice slot => Sys2Proof.Machine.execOpGather vat slice slot s
  | .opScatter vat slice slot => Sys2Proof.Machine.execOpScatter vat slice slot s
  | .opMatmul vat slice slot => Sys2Proof.Machine.execOpMatmul vat slice slot s
  | .eltwiseCopy vat slice slot => Sys2Proof.Machine.execEltwiseCopy vat slice slot s
  | .eltwiseAdd vat slice slot => Sys2Proof.Machine.execEltwiseAdd vat slice slot s
  | .eltwiseSub vat slice slot => Sys2Proof.Machine.execEltwiseSub vat slice slot s
  | .eltwiseMul vat slice slot => Sys2Proof.Machine.execEltwiseMul vat slice slot s
  | .eltwiseFma vat slice slot => Sys2Proof.Machine.execEltwiseFma vat slice slot s
  | .eltwiseMin vat slice slot => Sys2Proof.Machine.execEltwiseMin vat slice slot s
  | .eltwiseMax vat slice slot => Sys2Proof.Machine.execEltwiseMax vat slice slot s
  | .eltwiseAbs vat slice slot => Sys2Proof.Machine.execEltwiseAbs vat slice slot s
  | .eltwiseNeg vat slice slot => Sys2Proof.Machine.execEltwiseNeg vat slice slot s
  | .eltwiseRelu vat slice slot => Sys2Proof.Machine.execEltwiseRelu vat slice slot s
  | .eltwiseScaleBias vat slice slot => Sys2Proof.Machine.execEltwiseScaleBias vat slice slot s
  | .eltwiseRequant vat slice slot => Sys2Proof.Machine.execEltwiseRequant vat slice slot s
  | .eltwiseExp vat slice slot => Sys2Proof.Machine.execEltwiseExp vat slice slot s
  | .eltwiseLog vat slice slot => Sys2Proof.Machine.execEltwiseLog vat slice slot s
  | .eltwiseSigmoid vat slice slot => Sys2Proof.Machine.execEltwiseSigmoid vat slice slot s
  | .eltwiseTanh vat slice slot => Sys2Proof.Machine.execEltwiseTanh vat slice slot s
  | .eltwiseRecip vat slice slot => Sys2Proof.Machine.execEltwiseRecip vat slice slot s
  | .eltwiseRsqrt vat slice slot => Sys2Proof.Machine.execEltwiseRsqrt vat slice slot s
  | .eltwiseSqrt vat slice slot => Sys2Proof.Machine.execEltwiseSqrt vat slice slot s
  | .eltwiseErf vat slice slot => Sys2Proof.Machine.execEltwiseErf vat slice slot s
  | .eltwiseRowSum vat slice slot => Sys2Proof.Machine.execEltwiseRowSum vat slice slot s
  | .eltwiseRowMax vat slice slot => Sys2Proof.Machine.execEltwiseRowMax vat slice slot s
  | .opTreeEval vat slice slot => Sys2Proof.Machine.execOpTreeEval vat slice slot s
  | .embedRows vat slice slot => Sys2Proof.Machine.execEmbedRows vat slice slot s
  | .embedSum vat slice slot => Sys2Proof.Machine.execEmbedSum vat slice slot s
  | .embedMax vat slice slot => Sys2Proof.Machine.execEmbedMax vat slice slot s
  | .opContribute vat slice slot => Sys2Proof.Machine.execOpContribute vat slice slot s
  | .opMcast vat slice slot => Sys2Proof.Machine.execOpMcast vat slice slot s
  | .opRecvMc vat slice slot => Sys2Proof.Machine.execOpRecvMc vat slice slot s
  | .opSync vat slice slot => Sys2Proof.Machine.execOpSync vat slice slot s
  | .opFence vat slice slot => Sys2Proof.Machine.execOpFence vat slice slot s
  | .opWatch vat slice slot => Sys2Proof.Machine.execOpWatch vat slice slot s
  | .opDigest vat slice slot => Sys2Proof.Machine.execOpDigest vat slice slot s
  | .seqAdd vat => Sys2Proof.Machine.execSeqAdd vat s
  | .seqSub vat => Sys2Proof.Machine.execSeqSub vat s
  | .seqMul vat => Sys2Proof.Machine.execSeqMul vat s
  | .seqAnd vat => Sys2Proof.Machine.execSeqAnd vat s
  | .seqOr vat => Sys2Proof.Machine.execSeqOr vat s
  | .seqXor vat => Sys2Proof.Machine.execSeqXor vat s
  | .seqShl vat => Sys2Proof.Machine.execSeqShl vat s
  | .seqShr vat => Sys2Proof.Machine.execSeqShr vat s
  | .seqSra vat => Sys2Proof.Machine.execSeqSra vat s
  | .seqSlt vat => Sys2Proof.Machine.execSeqSlt vat s
  | .seqSltu vat => Sys2Proof.Machine.execSeqSltu vat s
  | .seqMinu vat => Sys2Proof.Machine.execSeqMinu vat s
  | .seqMaxu vat => Sys2Proof.Machine.execSeqMaxu vat s
  | .seqAddi vat => Sys2Proof.Machine.execSeqAddi vat s
  | .seqAndi vat => Sys2Proof.Machine.execSeqAndi vat s
  | .seqOri vat => Sys2Proof.Machine.execSeqOri vat s
  | .seqXori vat => Sys2Proof.Machine.execSeqXori vat s
  | .seqShli vat => Sys2Proof.Machine.execSeqShli vat s
  | .seqShri vat => Sys2Proof.Machine.execSeqShri vat s
  | .seqSrai vat => Sys2Proof.Machine.execSeqSrai vat s
  | .seqMovk vat => Sys2Proof.Machine.execSeqMovk vat s
  | .seqLd vat => Sys2Proof.Machine.execSeqLd vat s
  | .seqLdData vat => Sys2Proof.Machine.execSeqLdData vat s
  | .seqSt vat => Sys2Proof.Machine.execSeqSt vat s
  | .seqBeq vat => Sys2Proof.Machine.execSeqBeq vat s
  | .seqBne vat => Sys2Proof.Machine.execSeqBne vat s
  | .seqBlt vat => Sys2Proof.Machine.execSeqBlt vat s
  | .seqBltu vat => Sys2Proof.Machine.execSeqBltu vat s
  | .seqBge vat => Sys2Proof.Machine.execSeqBge vat s
  | .seqBgeu vat => Sys2Proof.Machine.execSeqBgeu vat s
  | .seqLoop vat => Sys2Proof.Machine.execSeqLoop vat s
  | .seqLend vat => Sys2Proof.Machine.execSeqLend vat s
  | .seqRestart vat => Sys2Proof.Machine.execSeqRestart vat s
  | .seqHalt vat => Sys2Proof.Machine.execSeqHalt vat s
  | .seqNop vat => Sys2Proof.Machine.execSeqNop vat s
  | .seqMfl vat => Sys2Proof.Machine.execSeqMfl vat s
  | .seqTime vat => Sys2Proof.Machine.execSeqTime vat s
  | .seqMark vat => Sys2Proof.Machine.execSeqMark vat s
  | .seqLaunch vat => Sys2Proof.Machine.execSeqLaunch vat s
  | .launchResume vat => Sys2Proof.Machine.execLaunchResume vat s
  | .seqBwait vat => Sys2Proof.Machine.execSeqBwait vat s
  | .seqTake vat => Sys2Proof.Machine.execSeqTake vat s
  | .seqSync vat => Sys2Proof.Machine.execSeqSync vat s
  | .seqFence vat => Sys2Proof.Machine.execSeqFence vat s
  | .seqMcast vat => Sys2Proof.Machine.execSeqMcast vat s
  | .seqMcwait vat => Sys2Proof.Machine.execSeqMcwait vat s
  | .seqStart r vat => Sys2Proof.Machine.execSeqStart r vat s
  | .seqStop r vat => Sys2Proof.Machine.execSeqStop r vat s
  | .seqProgramLoad r vat prog => Sys2Proof.Machine.execSeqProgramLoad r vat prog s
  | .batchComplete vat num => Sys2Proof.Machine.execBatchComplete vat num s
  | .queuePost node p => Sys2Proof.Machine.execQueuePost node p s
  | .packetInject node p => Sys2Proof.Machine.execPacketInject node p s
  | .regulatorRelease node => Sys2Proof.Machine.execRegulatorRelease node s
  | .routerForward node port vc err => Sys2Proof.Machine.execRouterForward node port vc err s
  | .write node p => Sys2Proof.Machine.execWrite node p s
  | .read node p => Sys2Proof.Machine.execRead node p s
  | .endpointMsg node p => Sys2Proof.Machine.execEndpointMsg node p s
  | .readData node p => Sys2Proof.Machine.execReadData node p s
  | .endpointRsp node p => Sys2Proof.Machine.execEndpointRsp node p s
  | .refusal node p => Sys2Proof.Machine.execRefusal node p s
  | .ack node p => Sys2Proof.Machine.execAck node p s
  | .ackSend node => Sys2Proof.Machine.execAckSend node s
  | .nackRxFull node p => Sys2Proof.Machine.execNackRxFull node p s
  | .openRetry node tracker => Sys2Proof.Machine.execOpenRetry node tracker s
  | .nackNotOpen node p => Sys2Proof.Machine.execNackNotOpen node p s
  | .streamAckTimeout node tracker => Sys2Proof.Machine.execStreamAckTimeout node tracker s
  | .streamIdleClose node tracker => Sys2Proof.Machine.execStreamIdleClose node tracker s
  | .close node p => Sys2Proof.Machine.execClose node p s
  | .linkBringUp node port lanes gt32 gt16 matched => Sys2Proof.Machine.execLinkBringUp node port lanes gt32 gt16 matched s
  | .linkFailure node port => Sys2Proof.Machine.execLinkFailure node port s
  | .mcSend node p => Sys2Proof.Machine.execMcSend node p s
  | .mcDeliver node p => Sys2Proof.Machine.execMcDeliver node p s
  | .mcAckTimeout group dseq => Sys2Proof.Machine.execMcAckTimeout group dseq s
  | .mcRejoin r value => Sys2Proof.Machine.execMcRejoin r value s
  | .redChunk node p => Sys2Proof.Machine.execRedChunk node p s
  | .redCredit node p => Sys2Proof.Machine.execRedCredit node p s
  | .redTimeout node group wave chunk => Sys2Proof.Machine.execRedTimeout node group wave chunk s
  | .redReport node p => Sys2Proof.Machine.execRedReport node p s
  | .redReportRepeat node group => Sys2Proof.Machine.execRedReportRepeat node group s
  | .resyncQuiet group => Sys2Proof.Machine.execResyncQuiet group s
  | .redResync node p => Sys2Proof.Machine.execRedResync node p s
  | .redForceResync r group => Sys2Proof.Machine.execRedForceResync r group s
  | .errorLogRecord => Sys2Proof.Machine.execErrorLogRecord s
  | .heldReportPoll die answers => Sys2Proof.Machine.execHeldReportPoll die answers s
  | .logClear r value => Sys2Proof.Machine.execLogClear r value s
  | .tableEntryRewrite node table entry => Sys2Proof.Machine.execTableEntryRewrite node table entry s
  | .sramScrub addr err => Sys2Proof.Machine.execSramScrub addr err s
  | .vatDieLost vat => Sys2Proof.Machine.execVatDieLost vat s
  | .deckleDieLost die => Sys2Proof.Machine.execDeckleDieLost die s
  | .mgmtFailover => Sys2Proof.Machine.execMgmtFailover s
  | .mgmtLost => Sys2Proof.Machine.execMgmtLost s
  | .repairSwitchArm => Sys2Proof.Machine.execRepairSwitchArm s
  | .hostCompletion port id err data => Sys2Proof.Machine.execHostCompletion port id err data s
  | .aliveFall node port => Sys2Proof.Machine.execAliveFall node port s
  | .handshakeTimeout node port cmd => Sys2Proof.Machine.execHandshakeTimeout node port cmd s
  | .realive node port => Sys2Proof.Machine.execRealive node port s
  | .crossingClear r die => Sys2Proof.Machine.execCrossingClear r die s
  | .freqLimited node => Sys2Proof.Machine.execFreqLimited node s
  | .refclkLost => Sys2Proof.Machine.execRefclkLost s
  | .refclkReturn => Sys2Proof.Machine.execRefclkReturn s
  | .timeTreeRecompute => Sys2Proof.Machine.execTimeTreeRecompute s
  | .timeSyncSend node => Sys2Proof.Machine.execTimeSyncSend node s
  | .delayPeriod node => Sys2Proof.Machine.execDelayPeriod node s
  | .timeSync node p arrival => Sys2Proof.Machine.execTimeSync node p arrival s
  | .delayReq node p arrival => Sys2Proof.Machine.execDelayReq node p arrival s
  | .delayRsp node p arrival => Sys2Proof.Machine.execDelayRsp node p arrival s
  | .syncSilence node => Sys2Proof.Machine.execSyncSilence node s
  | .holdoverExpired node => Sys2Proof.Machine.execHoldoverExpired node s
  | .wallSet r wall ft => Sys2Proof.Machine.execWallSet r wall ft s
  | .wallRate r rate => Sys2Proof.Machine.execWallRate r rate s
  | .ppsEdge width rate => Sys2Proof.Machine.execPpsEdge width rate s
  | .ppsLost => Sys2Proof.Machine.execPpsLost s
  | .sqDoorbell port q tail => Sys2Proof.Machine.execSqDoorbell port q tail s
  | .cqDoorbell port q head => Sys2Proof.Machine.execCqDoorbell port q head s
  | .sqEnable port q => Sys2Proof.Machine.execSqEnable port q s
  | .sqDisable port q => Sys2Proof.Machine.execSqDisable port q s
  | .cqEnable port q => Sys2Proof.Machine.execCqEnable port q s
  | .cqDisable port q => Sys2Proof.Machine.execCqDisable port q s
  | .descriptorFetch port q err desc => Sys2Proof.Machine.execDescriptorFetch port q err desc s
  | .payloadFetch port req err data => Sys2Proof.Machine.execPayloadFetch port req err data s
  | .score port req => Sys2Proof.Machine.execScore port req s
  | .scoreReplay port req => Sys2Proof.Machine.execScoreReplay port req s
  | .loadModel port req => Sys2Proof.Machine.execLoadModel port req s
  | .modelCancel port req => Sys2Proof.Machine.execModelCancel port req s
  | .journalRead port req => Sys2Proof.Machine.execJournalRead port req s
  | .archiveWrite port req => Sys2Proof.Machine.execArchiveWrite port req s
  | .archiveRead port req => Sys2Proof.Machine.execArchiveRead port req s
  | .archiveDiscard port req => Sys2Proof.Machine.execArchiveDiscard port req s
  | .mapDump port req => Sys2Proof.Machine.execMapDump port req s
  | .stagingWrite port offset data => Sys2Proof.Machine.execStagingWrite port offset data s
  | .doneWord port ctx word partition => Sys2Proof.Machine.execDoneWord port ctx word partition s
  | .digestReport node p => Sys2Proof.Machine.execDigestReport node p s
  | .completionPost port req => Sys2Proof.Machine.execCompletionPost port req s
  | .cqInterruptTimer port q => Sys2Proof.Machine.execCqInterruptTimer port q s
  | .perstNAssert port => Sys2Proof.Machine.execPerstNAssert port s
  | .functionLevelReset port => Sys2Proof.Machine.execFunctionLevelReset port s
  | .dlDown port => Sys2Proof.Machine.execDlDown port s
  | .portLinkUp port rate width => Sys2Proof.Machine.execPortLinkUp port rate width s
  | .d3hotEntry port => Sys2Proof.Machine.execD3hotEntry port s
  | .d0Return port => Sys2Proof.Machine.execD0Return port s
  | .gateWindowOpen port aq => Sys2Proof.Machine.execGateWindowOpen port aq s
  | .gateListSwitch port => Sys2Proof.Machine.execGateListSwitch port s
  | .headStarved port aq => Sys2Proof.Machine.execHeadStarved port aq s
  | .epochSwitch r goAt => Sys2Proof.Machine.execEpochSwitch r goAt s
  | .epochArm die => Sys2Proof.Machine.execEpochArm die s
  | .epochArmAbort die => Sys2Proof.Machine.execEpochArmAbort die s
  | .epochArmed die => Sys2Proof.Machine.execEpochArmed die s
  | .epochArmTimeout => Sys2Proof.Machine.execEpochArmTimeout s
  | .epochGoAt => Sys2Proof.Machine.execEpochGoAt s
  | .epochGo node => Sys2Proof.Machine.execEpochGo node s
  | .portDone node => Sys2Proof.Machine.execPortDone node s
  | .epochDrainTimeout node => Sys2Proof.Machine.execEpochDrainTimeout node s
  | .epochRetire node => Sys2Proof.Machine.execEpochRetire node s
  | .epochRetired die => Sys2Proof.Machine.execEpochRetired die s
  | .epochResend die => Sys2Proof.Machine.execEpochResend die s
  | .epochCancel r value => Sys2Proof.Machine.execEpochCancel r value s
  | .partitionDrain r part => Sys2Proof.Machine.execPartitionDrain r part s
  | .partitionResume r part => Sys2Proof.Machine.execPartitionResume r part s
  | .partitionDrained part => Sys2Proof.Machine.execPartitionDrained part s
  | .configDigestRecompute => Sys2Proof.Machine.execConfigDigestRecompute s
  | .imageFetchDone part slot err data => Sys2Proof.Machine.execImageFetchDone part slot err data s
  | .imageVerified part slot => Sys2Proof.Machine.execImageVerified part slot s
  | .updateSectionsSend part slot => Sys2Proof.Machine.execUpdateSectionsSend part slot s
  | .sectionLoaded part slot vat ahead => Sys2Proof.Machine.execSectionLoaded part slot vat ahead s
  | .modelFlip part slot => Sys2Proof.Machine.execModelFlip part slot s
  | .oldBankFree vat slot => Sys2Proof.Machine.execOldBankFree vat slot s
  | .bistDone vat pass block => Sys2Proof.Machine.execBistDone vat pass block s
  | .recordAccept port ctx => Sys2Proof.Machine.execRecordAccept port ctx s
  | .sealSigned port => Sys2Proof.Machine.execSealSigned port s
  | .tailFlush die => Sys2Proof.Machine.execTailFlush die s
  | .nandProgramComplete die ppa pass => Sys2Proof.Machine.execNandProgramComplete die ppa pass s
  | .nandEraseComplete die ppa pass => Sys2Proof.Machine.execNandEraseComplete die ppa pass s
  | .nandReadComplete die ppa level bits good => Sys2Proof.Machine.execNandReadComplete die ppa level bits good s
  | .journalRelease r port num => Sys2Proof.Machine.execJournalRelease r port num s
  | .ledgerFormat r die => Sys2Proof.Machine.execLedgerFormat r die s
  | .ledgerStop r die => Sys2Proof.Machine.execLedgerStop r die s
  | .ledgerStart r die => Sys2Proof.Machine.execLedgerStart r die s
  | .garbageCollect die ppa => Sys2Proof.Machine.execGarbageCollect die ppa s
  | .patrolRead die ppa level bits good => Sys2Proof.Machine.execPatrolRead die ppa level bits good s
  | .volumeJScanEnd die => Sys2Proof.Machine.execVolumeJScanEnd die s
  | .volumeAScanEnd die => Sys2Proof.Machine.execVolumeAScanEnd die s
  | .healthUpdate die => Sys2Proof.Machine.execHealthUpdate die s
  | .temperatureMinute die dies nand => Sys2Proof.Machine.execTemperatureMinute die dies nand s
  | .counterClear r die => Sys2Proof.Machine.execCounterClear r die s
  | .traceStageSend node => Sys2Proof.Machine.execTraceStageSend node s
  | .traceAppend node p => Sys2Proof.Machine.execTraceAppend node p s
  | .bufferArm r buf => Sys2Proof.Machine.execBufferArm r buf s
  | .bufferStop r buf => Sys2Proof.Machine.execBufferStop r buf s
  | .bufferTrigger r buf => Sys2Proof.Machine.execBufferTrigger r buf s
  | .bufferDisarm r buf => Sys2Proof.Machine.execBufferDisarm r buf s
  | .freezeCmd r dies overwrite tf => Sys2Proof.Machine.execFreezeCmd r dies overwrite tf s
  | .freezeLatch node => Sys2Proof.Machine.execFreezeLatch node s
  | .snapshotCapture node => Sys2Proof.Machine.execSnapshotCapture node s
  | .snapshotRelease r dies => Sys2Proof.Machine.execSnapshotRelease r dies s
  | .deadlineSnapshotRequest port ctx => Sys2Proof.Machine.execDeadlineSnapshotRequest port ctx s
  | .roleEnrol r value => Sys2Proof.Machine.execRoleEnrol r value s
  | .roleRevoke r value => Sys2Proof.Machine.execRoleRevoke r value s
  | .attestNonce r nonce => Sys2Proof.Machine.execAttestNonce r nonce s
  | .attestNonceExpiry ep client => Sys2Proof.Machine.execAttestNonceExpiry ep client s
  | .attestation r => Sys2Proof.Machine.execAttestation r s
  | .unlockToken r token => Sys2Proof.Machine.execUnlockToken r token s
  | .unlockRevoke r => Sys2Proof.Machine.execUnlockRevoke r s
  | .unlockExpiry => Sys2Proof.Machine.execUnlockExpiry s
  | .debugScanEnter r => Sys2Proof.Machine.execDebugScanEnter r s
  | .zeroise r serial => Sys2Proof.Machine.execZeroise r serial s
  | .fwFloorCommit r => Sys2Proof.Machine.execFwFloorCommit r s
  | .entropyFault die => Sys2Proof.Machine.execEntropyFault die s
  | .bistOverride r vat value => Sys2Proof.Machine.execBistOverride r vat value s
  | .extest tdi pins => Sys2Proof.Machine.execExtest tdi pins s
  | .idcode tdi => Sys2Proof.Machine.execIdcode tdi s
  | .samplePreload tdi pins => Sys2Proof.Machine.execSamplePreload tdi pins s
  | .clamp tdi => Sys2Proof.Machine.execClamp tdi s
  | .highz tdi => Sys2Proof.Machine.execHighz tdi s
  | .bypass tdi => Sys2Proof.Machine.execBypass tdi s
  | .dbgMaint tdi => Sys2Proof.Machine.execDbgMaint tdi s
  | .dbgMem tdi => Sys2Proof.Machine.execDbgMem tdi s
  | .dbgScan tdi => Sys2Proof.Machine.execDbgScan tdi s
  | .dbgBist tdi => Sys2Proof.Machine.execDbgBist tdi s
  | .porNAssert => Sys2Proof.Machine.execPorNAssert s
  | .porNDeassert straps selfTest => Sys2Proof.Machine.execPorNDeassert straps selfTest s
  | .firmwareDistribute die => Sys2Proof.Machine.execFirmwareDistribute die s
  | .configStoreWrite fail => Sys2Proof.Machine.execConfigStoreWrite fail s
  | .pwrfailNAssert ns late => Sys2Proof.Machine.execPwrfailNAssert ns late s
  | .temperatureSample die temp => Sys2Proof.Machine.execTemperatureSample die temp s
  | .throttleStep die => Sys2Proof.Machine.execThrottleStep die s
  | .throttleNAssert => Sys2Proof.Machine.execThrottleNAssert s
  | .throttleNDeassert => Sys2Proof.Machine.execThrottleNDeassert s
  | .powerGovernor mw limits => Sys2Proof.Machine.execPowerGovernor mw limits s
  | .droop die => Sys2Proof.Machine.execDroop die s
  | .droopRestore die => Sys2Proof.Machine.execDroopRestore die s
  | .railSetpoint r rail mv => Sys2Proof.Machine.execRailSetpoint r rail mv s
  | .railSettle rail vout => Sys2Proof.Machine.execRailSettle rail vout s
  | .pmbusPoll rail ok reading => Sys2Proof.Machine.execPmbusPoll rail ok reading s
  | .pmbusAlert rail ok status => Sys2Proof.Machine.execPmbusAlert rail ok status s
  | .warmReset r selfTest => Sys2Proof.Machine.execWarmReset r selfTest s
  | .dieReset r die selfTest => Sys2Proof.Machine.execDieReset r die selfTest s
  | .islandReset r island => Sys2Proof.Machine.execIslandReset r island s
  | .fwUpdate r image fail => Sys2Proof.Machine.execFwUpdate r image fail s
  | .fwCommitB r fail => Sys2Proof.Machine.execFwCommitB r fail s
  | .linkRetrain node port phase => Sys2Proof.Machine.execLinkRetrain node port phase s
  | .linkCrcRetry node port => Sys2Proof.Machine.execLinkCrcRetry node port s
  | .channelFailed chan => Sys2Proof.Machine.execChannelFailed chan s
  | .channelReturn chan => Sys2Proof.Machine.execChannelReturn chan s
  | .hbmTemperatureReadout stack temp => Sys2Proof.Machine.execHbmTemperatureReadout stack temp s
  | .canBusError ds tx ok => Sys2Proof.Machine.execCanBusError ds tx ok s

end Sys2Proof.Machine
end

