-- ==== Sys2Proof/Machine/Step.lean ====
section
/-!
DEFINITION. Machine/Step.lean: one step takes the command at the front of the queue; on an empty queue fabric time passes one tick.
-/
namespace Sys2Proof.Machine
open Sys2Proof

/-- The block takes the command that has waited longest and answers what its meaning answers. With nothing waiting, one
tick of 1 ns passes (R379; DESIGN CHOICE, notes/assumptions/1.md), and a ZEROISE, a warm reset or an entry to SCAN that has waited goes on where
it can.  -/
def step (s : State) : Host.Outcome State Fault Refusal :=
  match s.pending with
  | [] => .next (background { s with now := s.now + 1 })
  | c :: rest => exec c { s with pending := rest }

/-- No row of the command table gives bits, so no word spells a command and the state is unchanged. -/
def State.withFetchWord (s : State) (nbits w : Nat) : State :=
  match decodeTableWord nbits w with
  | some c => { s with pending := c :: s.pending }
  | none => s

end Sys2Proof.Machine
end

