-- ==== Sys2Proof/Safety.lean ====
section
/-!
DEFINITION. Safety.lean: what every claim calls a safe state (memories in canonical form), and the words claims use for what a command leaves
unchanged.
-/
namespace Sys2Proof.Machine

/-- The memories of the state are canonical: fabric memory and the four staging memories. -/
def State.memoriesWf (s : State) : Bool :=
  Memory.wf s.mem && s.port.ports.all (fun p => Memory.wf p.2.staging)

/-- The parts of the state, for what a command leaves unchanged. -/
inductive Part where
  /-- fabric memory -/
  | mem
  /-- fabric time -/
  | now
  /-- the model's own count of free values drawn -/
  | free
  /-- what has crossed the boundary -/
  | out
  /-- sessions, transfers, CAN, mailboxes, the dictionary values -/
  | dict
  /-- fabric transport, cells, groups -/
  | fab
  /-- error log, reports, fences, repair -/
  | integ
  /-- epochs and records -/
  | ep
  /-- partitions and model slots -/
  | part
  /-- vats, fibres, sequencers -/
  | vs
  /-- partner ports and admission -/
  | port
  /-- ledger engines and NAND -/
  | led
  /-- trace, counters, capture, watch -/
  | obs
  /-- clock islands, crossings, walls -/
  | time
  /-- power, reset, boot, package pins -/
  | pow
  /-- keys, roles, debug, fuses -/
  | sec
  deriving DecidableEq, Repr

/-- A part of t is as it is in s. -/
def Part.same (s t : State) : Part → Prop
  | .mem => t.mem = s.mem
  | .now => t.now = s.now
  | .free => t.freeCount = s.freeCount
  | .out => t.out = s.out
  | .dict => t.dict = s.dict
  | .fab => t.fab = s.fab
  | .integ => t.integ = s.integ
  | .ep => t.ep = s.ep
  | .part => t.part = s.part
  | .vs => t.vs = s.vs
  | .port => t.port = s.port
  | .led => t.led = s.led
  | .obs => t.obs = s.obs
  | .time => t.time = s.time
  | .pow => t.pow = s.pow
  | .sec => t.sec = s.sec

/-- The tile can act, the packet is addressed to it and comes next on its stream; u is the state in which it has left the
arrivals. -/
def Takes (s : State) (node : NodeId) (p : Packet) (u : State) : Prop :=
  tileUp s node.toNat = true ∧ p.dest = node ∧ takeArrived s node.toNat p = some u

/-- The packet is in sequence at the tile and intact (Table 9.1, R318): the entry e of its stream, found or just opened in u, expects it. -/
def InSequence (s : State) (node : Nat) (p : Packet) (u : State) : Prop :=
  (if p.opening then rxOpen s node p else some s) = some u ∧ packetFault p = none ∧
    ∃ e, (rxOf u node).find? (rxKey p) = some e ∧ e.sgen = p.sgen.toNat ∧ e.broken = false ∧ e.expected = p.seq.toNat

/-- A packet that a tile takes from its arrivals and handles in sequence; u is the state in which its receive entry has accepted it. -/
def Accepts (s : State) (node : NodeId) (p : Packet) (later : Bool) (u : State) : Prop :=
  ∃ a b, Takes s node p a ∧ InSequence a node.toNat p b ∧ u = rxAccept b node.toNat p later

/-- A port's request has its outcome: its completion is due with this status (R45). -/
def Answered (t : State) (port num status : Nat) : Prop :=
  ∃ r, reqOf t port num = some r ∧ r.stage = .completing ∧ r.out.status = status

/-- Between s and t one error of this cause and class was reported (R352): forwarded, held at its die's endpoint, or counted where 64 are held. -/
def Reported (s t : State) (cause cls : Nat) : Prop :=
  ∃ r : Report, r.cause = cause ∧ r.cls = cls ∧
    (t.integ.reports = s.integ.reports ++ [r] ∨ (∃ d, t.integ.held = tput s.integ.held d (tgetD s.integ.held d [] ++ [r])) ∨
      t.integ.dropped = s.integ.dropped + 1)

/-- Every part of the state outside the list is as it was. -/
def OnlyParts (l : List Part) (s t : State) : Prop := ∀ p, l.contains p = false → p.same s t

/-- A message that its endpoint hears at once, from the caller c: the endpoint serves, none of its messages waits, none of its transfers is overdue
(R84), the tag names a client (R97), and the message's session is 0 or an open, unexpired one of the endpoint (R62, R65, R66). -/
def Heard (s : State) (r : Req) (c : Caller) : Prop :=
  ttpUp s r.ep.val = true ∧ inboxOf s r.ep.val = [] ∧
  s.dict.transfers.all (fun x => x.ep != r.ep.val || decide (s.now ≤ x.lastAt + segLimit s)) = true ∧ clientOf r.tag.toNat ≠ 0 ∧
  c.ep = r.ep.val ∧ c.client = clientOf r.tag.toNat ∧ c.session = r.session.toNat ∧
  ((c.session = 0 ∧ c.role = 0 ∧ c.part = 0) ∨
    (0 < c.session ∧ c.session < 64 ∧ ∃ x, tget s.dict.sessions c.session = some x ∧ x.ep = c.ep ∧ x.role = c.role ∧ x.partition = c.part ∧
      s.now < x.lastAt + 1000000000 * setting s 0x1102 0))

/-- A client that is heard, under a tag with no transfer open, at an endpoint that can open one. -/
def Speaks (s : State) (r : Req) (c : Caller) : Prop :=
  Heard s r c ∧ transferOf s r.ep.val r.tag.toNat = none ∧ transfersFull s r.ep.val = false

/-- The state in which a heard message is served: the message counted, expired sessions closed, its own session named (R66). -/
def served (s : State) (r : Req) : State := nameSession (expireSessions (countRequest s r.ep.val)) r.ep.val r.session.toNat

/-- Steps 3 to 8 of R635 pass for a write of n bytes. -/
def Permitted (s : State) (c : Caller) (idx sub n : Nat) : Prop := ∃ e, writeEntry s c idx sub n = .inr e

/-- The last thing that the endpoint has sent is this message to the tag: a CAN FD frame, or a response that waits for its mailbox slot (R92, R99). -/
def Told (t : State) (r : Req) (m : TtpMsg) : Prop :=
  if r.ep.val < 2 then
    t.out.getLast? = some (.canFrame r.ep.val (2 * 2 ^ 24 + t.pow.nodeId % 128 * 2 ^ 17 + r.tag.toNat) (padTo (msgBytes m) (canLength (msgBytes m).length)))
  else (mbxOf t (r.ep.val - 2)).outbox.getLast? = some (r.tag.toNat, m)

/-- The client is told that its write has taken effect (R86): the effect and a session ID. -/
def Written (t : State) (r : Req) (idx sub effect session : Nat) : Prop :=
  Told t r (partMsg 0x04 r.session.toNat idx sub (u8 effect ++ u8 session))

/-- The client is told the abort code. -/
def Aborted (t : State) (r : Req) (idx sub code : Nat) : Prop := Told t r (partMsg 0x1F r.session.toNat idx sub (u32 code))

/-- A packet of this opcode and payload waits to leave the tile for the destination (R238, R267). -/
def Sent (t : State) (node op dest : Nat) (payload : Bytes) : Prop :=
  ∃ o ∈ tgetD t.fab.waiting node [], o.pkt.opcode = BitVec.ofNat 8 op ∧ o.pkt.dest = BitVec.ofNat 12 dest ∧ o.pkt.src = BitVec.ofNat 12 node ∧
    o.pkt.payload = payload

/-- A sync operation in sequence at the tile of cell k, which its partition's windows allow (R116, R129); u is the state in which it is performed. -/
def SyncAt (s : State) (node : NodeId) (p : Packet) (k : Nat) (u : State) : Prop :=
  Accepts s node p false u ∧ p.opcode = 3 ∧ opClean (leNat p.payload) = true ∧ cellTile k = node.toNat ∧ windowOk u p p.addr.toNat 1 2 = true ∧
    (tableBad u node.toNat 1 p.partition.toNat = false ∨ p.partition = 0) ∧ ∃ d c, decodeAddr p.addr.toNat = some (.syncCell d c 0) ∧ k = 256 * d + c

/-- What every operation on cell k leaves behind it (R128 to R132): its OPSEQ one higher, the waiters that its state satisfies released with
SATISFIED and the others held, NOTIFY to the dies of its mask where its state has changed, and every other cell as it was. -/
def CellSettled (s t : State) (k : Nat) : Prop :=
  (cellOf t k).opseq = ((cellOf s k).opseq + 1) % 2 ^ 32 ∧
  (∀ w ∈ (cellOf s k).waiters, if (cellOf t k).holds w.cond then
      Sent t (cellTile k) 0x21 w.src (syncRsp (cellState (cellOf t k)) (cellOf t k).opseq 1) else w ∈ (cellOf t k).waiters) ∧
  (∀ w ∈ (cellOf t k).waiters, (cellOf t k).holds w.cond = false) ∧
  ((cellOf t k).count ≠ (cellOf s k).count ∨ (cellOf t k).phase ≠ (cellOf s k).phase ∨ (cellOf t k).mode ≠ (cellOf s k).mode → ∀ e ∈ (cellOf t k).mask,
      Sent t (cellTile k) 0x43 (notifyTile e.1) (syncRsp (cellState (cellOf t k)) (cellOf t k).opseq 0)) ∧
  (∀ j, j ≠ k → cellOf t j = cellOf s j) ∧ OnlyParts [.fab, .obs, .vs] s t

/-- A sync operation on cell k has left these values of COUNT, THRESHOLD, MODE and PHASE, and its initiator is answered with this RESULT (Table 4.2,
Table 4.7). -/
def Performed (s t : State) (p : Packet) (k count threshold mode phase result : Nat) : Prop :=
  (cellOf t k).count = count ∧ (cellOf t k).threshold = threshold ∧ (cellOf t k).mode = mode ∧ (cellOf t k).phase = phase ∧
    Sent t (cellTile k) 0x21 p.src.toNat (syncRsp (cellState (cellOf t k)) (cellOf t k).opseq result) ∧ CellSettled s t k

/-- A sync operation on cell k has left these values and its initiator waits in the cell (R130). -/
def Queued (s t : State) (p : Packet) (k count phase : Nat) (c : WaitCond) : Prop :=
  (cellOf t k).count = count ∧ (cellOf t k).threshold = (cellOf s k).threshold ∧ (cellOf t k).mode = (cellOf s k).mode ∧ (cellOf t k).phase = phase ∧
    (∃ w ∈ (cellOf t k).waiters, w.cond = c ∧ w.src = p.src.toNat ∧ w.stream = p.stream.toNat ∧ w.sgen = p.sgen.toNat ∧ w.seq = p.seq.toNat ∧
      w.partition = p.partition.toNat ∧ w.tag = p.tagOpt) ∧ CellSettled s t k

/-- The fibre's op has finished, and its registers are these (R103, R189). -/
def Resumed (t : State) (d slice slot : Nat) (x : Fibre) (regs : List Word) : Prop :=
  fibreAt t d slice slot = some { x with regs := regs, opIndex := x.opIndex + 1, state := 1, wait := none, reads := [], desc := [] }

/-- A fibre may go on with the op of this context (R103, R175, R176): it is READY, or its op waits for a leaf context or an open set; its descriptor lies
in its home slice in good words, or has been read before; the address fields are resolved. -/
def Begins (s : State) (x : Fibre) (c : OpCtx) : Prop :=
  fibreAt s c.d c.slice c.slot = some x ∧
  (x.state = 1 ∨ (∃ g w k a, x.wait = some (.leaf g w k a)) ∨ ∃ a, x.wait = some (.watch a)) ∧ dieUp s c.d = true ∧ x.opIndex < 255 ∧
  x.program + 64 * x.opIndex + 64 ≤ 0x180000 ∧
  (x.desc = [] ∧ badRange s (c.home + (x.program + 64 * x.opIndex)) 64 = false ∧
      c.x = { x with desc := readMem s (c.home + (x.program + 64 * x.opIndex)) 64 } ∨ x.desc ≠ [] ∧ c.x = x) ∧
  c.desc.raw = leNat c.x.desc ∧ c.a = resolveAddr s c.d c.slice c.x c.desc.addrA ∧ c.b = resolveAddr s c.d c.slice c.x c.desc.addrB ∧
  c.o = resolveAddr s c.d c.slice c.x c.desc.addrOut

/-- Row i of an operand, as patterns (R152, R153). -/
def operandRow (s : State) (addr stride fmt n i : Nat) : List Nat := rowElems fmt n (readMem s (addr + i * stride) (rowBytes fmt n))

/-- Element j of row i. -/
def elementAt (s : State) (addr stride fmt n i j : Nat) : Nat := (operandRow s addr stride fmt n i).getD j 0

/-- Rows of bytes have been stored from an address at a pitch, and every other byte is as it was. -/
def RowsStored (s t : State) (o stride : Nat) (rows : List Bytes) : Prop :=
  t.mem = rows.zipIdx.foldl (fun m r => memWrite m (o + r.2 * stride) r.1) s.mem ∧
  ∀ a, (∀ i r, rows[i]? = some r → a < o + i * stride ∨ o + i * stride + r.length ≤ a) → memGet t.mem a = memGet s.mem a

/-- The op has written these rows to its output, and its fibre goes on with the next op (R103, R180). -/
def Computed (s t : State) (x : Fibre) (c : OpCtx) (rows : List (List Nat)) : Prop :=
  RowsStored s t c.o c.desc.strideOut (rows.map (packElems c.desc.fmtOut)) ∧ Resumed t c.d c.slice c.slot x x.regs ∧
    OnlyParts [.integ, .mem, .obs, .vs] s t

/-- The rows of an elementwise function of A, B and the prior output, each widened to FP32 (R184). -/
def elementRows (s : State) (c : OpCtx) (f : Nat → Nat → Nat → Nat) : List (List Nat) :=
  let e := c.desc
  (List.range e.dim0).map fun i => (List.range e.dim1).map fun j =>
    let a := widen e.fmtA (elementAt s c.a e.strideA e.fmtA e.dim1 i j)
    let b := if isBinary e.func then widen e.fmtB (elementAt s c.b e.strideB e.fmtB e.dim1 i j) else a
    narrow e.fmtOut e.sat (f a b (widen e.fmtOut (elementAt s c.o e.strideOut e.fmtOut e.dim1 i j)))

/-- The fibre is gone from its slot, with one fault more counted (R105). -/
def Faulted (s t : State) (c : OpCtx) : Prop :=
  fibreAt t c.d c.slice c.slot = none ∧ (vatOf t c.d).fibreFaults = (vatOf s c.d).fibreFaults + 1

/-- The sequencer of vat d may execute the word w at its PC, which is of this opcode (R196). -/
def Executes (s : State) (d op w : Nat) : Prop :=
  (seqOf s d).state = 2 ∧ (seqOf s d).wait = none ∧ dieUp s d = true ∧ (seqOf s d).badWords.contains (seqOf s d).pc = false ∧
    w = ((seqOf s d).prog.getD (seqOf s d).pc 0).toNat ∧ bits w 31 26 = op ∧ (seqOf s d).posted = none ∧ (seqOf s d).stopping = false

/-- The instruction has completed and the sequencer goes on at this PC (R196): its program, its passes and the rest of every vat are as they were. -/
def GoesOn (s t : State) (d pc : Nat) : Prop :=
  (seqOf t d).pc = pc ∧ (seqOf t d).state = 2 ∧ (seqOf t d).wait = none ∧ (seqOf t d).prog = (seqOf s d).prog ∧
    (vatOf t d).fibres = (vatOf s d).fibres ∧ (∀ j, j ≠ d → vatOf t j = vatOf s j) ∧ t.vs.cells = s.vs.cells

/-- The instruction has written SD and nothing else (R195, R206): s0 reads 0 whatever is written. -/
def WroteSD (s t : State) (d sd : Nat) (v : Word) : Prop :=
  (∀ r, sreg t d r = if r = 0 then 0 else if r = sd then v else sreg s d r) ∧ (seqOf t d).loops = (seqOf s d).loops ∧
    (seqOf t d).passes = (seqOf s d).passes ∧ (vatOf t d).batches = (vatOf s d).batches ∧ (vatOf t d).queue = (vatOf s d).queue ∧
    GoesOn s t d (((seqOf s d).pc + 1) % 65536)

/-- No register of the sequencer has changed. -/
def KeptRegs (s t : State) (d : Nat) : Prop := (seqOf t d).regs = (seqOf s d).regs

/-- The sequencer has trapped with this code (R229). -/
def Trapped (s t : State) (d code : Nat) : Prop :=
  (seqOf t d).state = 5 ∧ (seqOf t d).trapCode = code ∧ (seqOf t d).pc = (seqOf s d).pc ∧ (seqOf t d).traps = (seqOf s d).traps + 1 ∧ t.mem = s.mem

/-- What a dictionary command may change: an entry's effect can reach every part but fabric time. -/
def reachOfEntries : List Part := [.mem, .free, .out, .dict, .fab, .integ, .ep, .part, .vs, .port, .led, .obs, .time, .pow, .sec]

/-- The parts of the state that a command may change; it leaves every other part as it is. -/
def reach : Instr → List Part
  | .readReq .. => reachOfEntries
  | .writeExp .. => reachOfEntries
  | .segWriteInit .. => reachOfEntries
  | .segment .. => reachOfEntries
  | .segAck .. => reachOfEntries
  | .segEnd .. => reachOfEntries
  | .abort .. => reachOfEntries
  | .segTimeout .. => [.now, .out, .dict]
  | .sessionTimeout .. => [.now, .dict]
  | .challengeExpiry .. => [.now, .dict]
  | .sessionChallenge .. => reachOfEntries
  | .sessionResponse .. => reachOfEntries
  | .sessionClose .. => reachOfEntries
  | .canFrameReceive .. => [.dict]
  | .heartbeat .. => [.now, .out, .dict]
  | .canBitRateApply .. => [.dict]
  | .mbxReqTailWrite .. => [.dict]
  | .mbxRspHeadWrite .. => [.dict]
  | .mbxRequestTake .. => [.dict]
  | .mbxResponsePost .. => [.out, .dict, .port]
  | .registerWrite .. => [.out, .dict, .integ, .port, .obs]
  | .syncRead .. => [.fab, .integ, .vs, .obs]
  | .syncAdd .. => [.fab, .integ, .vs, .obs]
  | .syncSet .. => [.fab, .integ, .vs, .obs]
  | .syncWait .. => [.fab, .integ, .vs, .obs]
  | .syncArriveWait .. => [.fab, .integ, .vs, .obs]
  | .syncConfigure .. => [.fab, .integ, .vs, .obs]
  | .notify .. => [.fab, .integ, .vs, .port, .obs]
  | .unpark .. => [.fab, .vs]
  | .notifyRepeat .. => [.now, .fab, .vs]
  | .waitResend .. => [.fab, .vs]
  | .waitLimitExpiry .. => [.now, .fab, .integ, .vs, .port, .obs]
  | .syncRsp .. => [.fab, .integ, .vs, .port, .obs]
  | .admissionDecision .. => [.now, .free, .fab, .integ, .port, .led, .obs]
  | .contextDeadline .. => [.now, .fab, .port, .obs]
  | .kill .. => [.fab, .integ, .vs, .port, .obs]
  | .killDone .. => [.fab, .port, .obs]
  | .killRepeat .. => [.now, .fab, .port]
  | .killLost .. => [.now, .out, .integ, .port, .obs]
  | .fibreResident .. => [.vs]
  | .opEnd .. => [.fab, .integ, .vs, .port, .obs]
  | .opLoad .. => [.mem, .free, .fab, .integ, .vs, .port, .obs]
  | .opStore .. => [.mem, .fab, .integ, .vs, .port, .obs]
  | .opGather .. => [.mem, .fab, .integ, .vs, .port, .obs]
  | .opScatter .. => [.mem, .fab, .integ, .vs, .port, .obs]
  | .opMatmul .. => [.mem, .free, .fab, .integ, .vs, .port, .obs]
  | .eltwiseCopy .. => [.mem, .free, .fab, .integ, .vs, .port, .obs]
  | .eltwiseAdd .. => [.mem, .free, .fab, .integ, .vs, .port, .obs]
  | .eltwiseSub .. => [.mem, .free, .fab, .integ, .vs, .port, .obs]
  | .eltwiseMul .. => [.mem, .free, .fab, .integ, .vs, .port, .obs]
  | .eltwiseFma .. => [.mem, .free, .fab, .integ, .vs, .port, .obs]
  | .eltwiseMin .. => [.mem, .free, .fab, .integ, .vs, .port, .obs]
  | .eltwiseMax .. => [.mem, .free, .fab, .integ, .vs, .port, .obs]
  | .eltwiseAbs .. => [.mem, .free, .fab, .integ, .vs, .port, .obs]
  | .eltwiseNeg .. => [.mem, .free, .fab, .integ, .vs, .port, .obs]
  | .eltwiseRelu .. => [.mem, .free, .fab, .integ, .vs, .port, .obs]
  | .eltwiseScaleBias .. => [.mem, .free, .fab, .integ, .vs, .port, .obs]
  | .eltwiseRequant .. => [.mem, .free, .fab, .integ, .vs, .port, .obs]
  | .eltwiseExp .. => [.mem, .free, .fab, .integ, .vs, .port, .obs]
  | .eltwiseLog .. => [.mem, .free, .fab, .integ, .vs, .port, .obs]
  | .eltwiseSigmoid .. => [.mem, .free, .fab, .integ, .vs, .port, .obs]
  | .eltwiseTanh .. => [.mem, .free, .fab, .integ, .vs, .port, .obs]
  | .eltwiseRecip .. => [.mem, .free, .fab, .integ, .vs, .port, .obs]
  | .eltwiseRsqrt .. => [.mem, .free, .fab, .integ, .vs, .port, .obs]
  | .eltwiseSqrt .. => [.mem, .free, .fab, .integ, .vs, .port, .obs]
  | .eltwiseErf .. => [.mem, .free, .fab, .integ, .vs, .port, .obs]
  | .eltwiseRowSum .. => [.mem, .free, .fab, .integ, .vs, .port, .obs]
  | .eltwiseRowMax .. => [.mem, .free, .fab, .integ, .vs, .port, .obs]
  | .opTreeEval .. => [.mem, .free, .fab, .integ, .vs, .port, .obs]
  | .embedRows .. => [.mem, .free, .fab, .integ, .vs, .port, .obs]
  | .embedSum .. => [.mem, .free, .fab, .integ, .vs, .port, .obs]
  | .embedMax .. => [.mem, .free, .fab, .integ, .vs, .port, .obs]
  | .opContribute .. => [.mem, .fab, .integ, .vs, .port, .obs]
  | .opMcast .. => [.fab, .integ, .vs, .port, .obs]
  | .opRecvMc .. => [.fab, .integ, .vs, .port, .obs]
  | .opSync .. => [.fab, .integ, .vs, .port, .obs]
  | .opFence .. => [.fab, .integ, .vs, .port, .obs]
  | .opWatch .. => [.fab, .integ, .vs, .port, .obs]
  | .opDigest .. => [.mem, .fab, .integ, .vs, .port, .obs]
  | .seqAdd .. => [.fab, .integ, .vs, .obs]
  | .seqSub .. => [.fab, .integ, .vs, .obs]
  | .seqMul .. => [.fab, .integ, .vs, .obs]
  | .seqAnd .. => [.fab, .integ, .vs, .obs]
  | .seqOr .. => [.fab, .integ, .vs, .obs]
  | .seqXor .. => [.fab, .integ, .vs, .obs]
  | .seqShl .. => [.fab, .integ, .vs, .obs]
  | .seqShr .. => [.fab, .integ, .vs, .obs]
  | .seqSra .. => [.fab, .integ, .vs, .obs]
  | .seqSlt .. => [.fab, .integ, .vs, .obs]
  | .seqSltu .. => [.fab, .integ, .vs, .obs]
  | .seqMinu .. => [.fab, .integ, .vs, .obs]
  | .seqMaxu .. => [.fab, .integ, .vs, .obs]
  | .seqAddi .. => [.fab, .integ, .vs, .obs]
  | .seqAndi .. => [.fab, .integ, .vs, .obs]
  | .seqOri .. => [.fab, .integ, .vs, .obs]
  | .seqXori .. => [.fab, .integ, .vs, .obs]
  | .seqShli .. => [.fab, .integ, .vs, .obs]
  | .seqShri .. => [.fab, .integ, .vs, .obs]
  | .seqSrai .. => [.fab, .integ, .vs, .obs]
  | .seqMovk .. => [.fab, .integ, .vs, .obs]
  | .seqLd .. => [.fab, .integ, .vs, .obs]
  | .seqLdData .. => [.fab, .integ, .vs, .obs]
  | .seqSt .. => [.fab, .integ, .vs, .obs]
  | .seqBeq .. => [.fab, .integ, .vs, .obs]
  | .seqBne .. => [.fab, .integ, .vs, .obs]
  | .seqBlt .. => [.fab, .integ, .vs, .obs]
  | .seqBltu .. => [.fab, .integ, .vs, .obs]
  | .seqBge .. => [.fab, .integ, .vs, .obs]
  | .seqBgeu .. => [.fab, .integ, .vs, .obs]
  | .seqLoop .. => [.fab, .integ, .vs, .obs]
  | .seqLend .. => [.fab, .integ, .vs, .obs]
  | .seqRestart .. => [.fab, .integ, .vs, .obs]
  | .seqHalt .. => [.fab, .integ, .vs, .obs]
  | .seqNop .. => [.fab, .integ, .vs, .obs]
  | .seqMfl .. => [.fab, .integ, .vs, .obs]
  | .seqTime .. => [.fab, .integ, .vs, .obs]
  | .seqMark .. => [.fab, .integ, .vs, .obs]
  | .seqLaunch .. => [.fab, .integ, .vs, .obs]
  | .launchResume .. => [.fab, .integ, .vs, .obs]
  | .seqBwait .. => [.fab, .integ, .vs, .obs]
  | .seqTake .. => [.fab, .integ, .vs, .obs]
  | .seqSync .. => [.fab, .integ, .vs, .obs]
  | .seqFence .. => [.fab, .integ, .vs, .obs]
  | .seqMcast .. => [.fab, .integ, .vs, .obs]
  | .seqMcwait .. => [.fab, .integ, .vs, .obs]
  | .seqStart .. => reachOfEntries
  | .seqStop .. => reachOfEntries
  | .seqProgramLoad .. => reachOfEntries
  | .batchComplete .. => [.fab, .integ, .vs, .obs]
  | .queuePost .. => [.fab, .integ, .vs, .obs]
  | .packetInject .. => [.fab, .integ, .vs, .port, .obs]
  | .regulatorRelease .. => [.now, .fab, .integ, .vs, .port, .obs]
  | .routerForward .. => [.fab, .integ, .ep, .vs, .obs, .time]
  | .write .. => [.mem, .free, .out, .fab, .integ, .vs, .obs]
  | .read .. => [.out, .fab, .integ, .vs, .port, .obs]
  | .endpointMsg .. => [.fab, .integ, .obs]
  | .readData .. => [.fab, .integ, .vs, .port, .obs]
  | .endpointRsp .. => [.fab, .integ, .vs, .port, .obs]
  | .refusal .. => [.fab, .integ, .vs, .port, .obs]
  | .ack .. => [.fab, .integ, .vs, .port, .obs]
  | .ackSend .. => [.fab]
  | .nackRxFull .. => [.fab]
  | .openRetry .. => [.now, .fab]
  | .nackNotOpen .. => [.fab, .integ, .vs, .port, .obs]
  | .streamAckTimeout .. => [.now, .fab, .integ, .vs, .port, .obs]
  | .streamIdleClose .. => [.now, .fab]
  | .close .. => [.fab]
  | .linkBringUp .. => [.mem, .fab, .integ, .ep, .vs, .port, .obs, .time]
  | .linkFailure .. => [.mem, .out, .fab, .integ, .ep, .vs, .port, .obs, .time, .pow]
  | .mcSend .. => [.fab, .integ, .vs, .obs]
  | .mcDeliver .. => [.mem, .free, .fab, .integ, .vs, .port, .obs]
  | .mcAckTimeout .. => [.now, .fab, .integ, .vs, .port, .obs]
  | .mcRejoin .. => reachOfEntries
  | .redChunk .. => [.mem, .fab, .integ, .vs, .port, .obs]
  | .redCredit .. => [.mem, .fab, .integ, .vs, .port, .obs]
  | .redTimeout .. => [.mem, .now, .fab, .integ, .vs, .port, .obs]
  | .redReport .. => [.fab, .vs]
  | .redReportRepeat .. => [.now, .fab, .vs]
  | .resyncQuiet .. => [.mem, .now, .fab, .integ, .vs, .obs]
  | .redResync .. => [.fab, .vs]
  | .redForceResync .. => reachOfEntries
  | .errorLogRecord .. => [.out, .integ]
  | .heldReportPoll .. => [.integ, .obs]
  | .logClear .. => reachOfEntries
  | .tableEntryRewrite .. => [.integ]
  | .sramScrub .. => [.integ, .obs]
  | .vatDieLost .. => [.mem, .out, .fab, .integ, .ep, .part, .vs, .port, .obs, .time, .pow]
  | .deckleDieLost .. => [.mem, .out, .fab, .integ, .ep, .part, .vs, .port, .obs, .time, .pow]
  | .mgmtFailover .. => [.out, .dict, .integ, .port, .obs, .time, .pow]
  | .mgmtLost .. => [.out, .port, .pow]
  | .repairSwitchArm .. => [.mem, .fab, .integ, .ep, .part, .vs]
  | .hostCompletion .. => [.out, .fab, .integ, .port, .obs]
  | .aliveFall .. => [.mem, .out, .fab, .integ, .ep, .vs, .port, .obs, .time, .pow]
  | .handshakeTimeout .. => [.mem, .fab, .integ, .ep, .vs, .port, .obs, .time]
  | .realive .. => [.out, .fab, .port, .obs, .time, .pow]
  | .crossingClear .. => reachOfEntries
  | .freqLimited .. => [.integ, .obs, .time]
  | .refclkLost .. => [.integ, .obs, .time]
  | .refclkReturn .. => [.time]
  | .timeTreeRecompute .. => [.time]
  | .timeSyncSend .. => [.fab, .time]
  | .delayPeriod .. => [.fab]
  | .timeSync .. => [.free, .fab, .integ, .obs, .time]
  | .delayReq .. => [.fab]
  | .delayRsp .. => [.fab, .time]
  | .syncSilence .. => [.now, .time]
  | .holdoverExpired .. => [.now, .integ, .obs, .time]
  | .wallSet .. => reachOfEntries
  | .wallRate .. => reachOfEntries
  | .ppsEdge .. => [.integ, .obs, .time]
  | .ppsLost .. => [.now, .integ, .obs, .time]
  | .sqDoorbell .. => [.out, .integ, .port, .obs]
  | .cqDoorbell .. => [.out, .integ, .port, .obs]
  | .sqEnable .. => [.out, .port]
  | .sqDisable .. => [.port]
  | .cqEnable .. => [.port]
  | .cqDisable .. => [.out, .port]
  | .descriptorFetch .. => [.out, .integ, .port, .obs]
  | .payloadFetch .. => [.out, .integ, .port, .obs]
  | .score .. => [.integ, .port, .obs]
  | .scoreReplay .. => [.integ, .port, .obs]
  | .loadModel .. => [.part, .port]
  | .modelCancel .. => [.part, .port]
  | .journalRead .. => [.port, .led]
  | .archiveWrite .. => [.port, .led]
  | .archiveRead .. => [.free, .port, .led]
  | .archiveDiscard .. => [.port, .led]
  | .mapDump .. => [.port]
  | .stagingWrite .. => [.port]
  | .doneWord .. => [.fab, .integ, .port, .obs]
  | .digestReport .. => [.fab, .integ, .port, .obs]
  | .completionPost .. => [.out, .fab, .integ, .port, .led, .obs]
  | .cqInterruptTimer .. => [.now, .out, .port]
  | .perstNAssert .. => [.out, .dict, .integ, .port, .obs, .time, .pow]
  | .functionLevelReset .. => [.out, .dict, .integ, .port, .obs, .time, .pow]
  | .dlDown .. => [.out, .dict, .integ, .port, .obs, .time, .pow]
  | .portLinkUp .. => [.out, .port, .obs, .time, .pow]
  | .d3hotEntry .. => [.port]
  | .d0Return .. => [.port]
  | .gateWindowOpen .. => [.now, .port]
  | .gateListSwitch .. => [.now, .integ, .port, .obs]
  | .headStarved .. => [.now, .integ, .port, .obs]
  | .epochSwitch .. => reachOfEntries
  | .epochArm .. => [.fab, .ep]
  | .epochArmAbort .. => [.fab, .ep]
  | .epochArmed .. => [.ep]
  | .epochArmTimeout .. => [.now, .fab, .ep, .part]
  | .epochGoAt .. => [.now, .out, .fab, .ep, .part, .port, .pow]
  | .epochGo .. => [.out, .fab, .integ, .ep, .part, .vs, .port, .led, .obs]
  | .portDone .. => [.fab, .ep]
  | .epochDrainTimeout .. => [.now, .fab, .integ, .ep, .vs, .port, .obs]
  | .epochRetire .. => [.fab, .integ, .ep, .part, .vs, .obs, .time, .pow]
  | .epochRetired .. => [.out, .integ, .ep, .port, .pow]
  | .epochResend .. => [.now, .fab, .ep]
  | .epochCancel .. => reachOfEntries
  | .partitionDrain .. => reachOfEntries
  | .partitionResume .. => reachOfEntries
  | .partitionDrained .. => [.part]
  | .configDigestRecompute .. => [.part]
  | .imageFetchDone .. => [.mem, .out, .integ, .part, .port, .obs]
  | .imageVerified .. => [.mem, .integ, .part, .port, .obs, .sec]
  | .updateSectionsSend .. => [.fab, .part]
  | .sectionLoaded .. => [.fab, .part, .vs, .port]
  | .modelFlip .. => [.now, .part, .port]
  | .oldBankFree .. => [.part, .port]
  | .bistDone .. => [.part, .time]
  | .recordAccept .. => [.integ, .port, .led, .obs]
  | .sealSigned .. => [.integ, .led, .obs]
  | .tailFlush .. => [.now, .led]
  | .nandProgramComplete .. => [.out, .integ, .port, .led, .obs, .pow]
  | .nandEraseComplete .. => [.integ, .led, .obs]
  | .nandReadComplete .. => [.free, .integ, .port, .led, .obs]
  | .journalRelease .. => reachOfEntries
  | .ledgerFormat .. => reachOfEntries
  | .ledgerStop .. => reachOfEntries
  | .ledgerStart .. => reachOfEntries
  | .garbageCollect .. => [.led]
  | .patrolRead .. => [.integ, .led, .obs]
  | .volumeJScanEnd .. => [.integ, .led, .obs]
  | .volumeAScanEnd .. => [.led]
  | .healthUpdate .. => [.integ, .led, .obs]
  | .temperatureMinute .. => [.led]
  | .counterClear .. => reachOfEntries
  | .traceStageSend .. => [.now, .fab, .obs]
  | .traceAppend .. => [.fab, .integ, .obs]
  | .bufferArm .. => reachOfEntries
  | .bufferStop .. => reachOfEntries
  | .bufferTrigger .. => reachOfEntries
  | .bufferDisarm .. => reachOfEntries
  | .freezeCmd .. => reachOfEntries
  | .freezeLatch .. => [.free, .integ, .obs]
  | .snapshotCapture .. => [.now, .free, .integ, .obs]
  | .snapshotRelease .. => reachOfEntries
  | .deadlineSnapshotRequest .. => [.now, .dict, .port, .obs]
  | .roleEnrol .. => reachOfEntries
  | .roleRevoke .. => reachOfEntries
  | .attestNonce .. => reachOfEntries
  | .attestNonceExpiry .. => [.now, .sec]
  | .attestation .. => reachOfEntries
  | .unlockToken .. => reachOfEntries
  | .unlockRevoke .. => reachOfEntries
  | .unlockExpiry .. => [.now, .dict, .integ, .obs, .sec]
  | .debugScanEnter .. => reachOfEntries
  | .zeroise .. => reachOfEntries
  | .fwFloorCommit .. => reachOfEntries
  | .entropyFault .. => [.integ, .obs, .sec]
  | .bistOverride .. => reachOfEntries
  | .extest .. => [.out, .pow]
  | .idcode .. => [.out, .pow]
  | .samplePreload .. => [.out, .pow]
  | .clamp .. => [.out, .pow]
  | .highz .. => [.out, .pow]
  | .bypass .. => [.out, .pow]
  | .dbgMaint .. => [.free, .out, .pow]
  | .dbgMem .. => [.mem, .free, .out, .pow]
  | .dbgScan .. => [.out, .pow]
  | .dbgBist .. => [.out, .pow]
  | .porNAssert .. => [.mem, .now, .free, .out, .dict, .fab, .integ, .ep, .part, .vs, .port, .led, .obs, .time, .pow, .sec]
  | .porNDeassert .. => [.now, .free, .integ, .led, .obs, .time, .pow, .sec]
  | .firmwareDistribute .. => [.mem, .out, .dict, .fab, .integ, .ep, .part, .vs, .port, .led, .obs, .time, .pow]
  | .configStoreWrite .. => [.integ, .obs, .pow]
  | .pwrfailNAssert .. => [.free, .out, .integ, .ep, .port, .led, .obs, .pow]
  | .temperatureSample .. => [.out, .integ, .ep, .port, .led, .obs, .pow]
  | .throttleStep .. => [.integ, .obs, .pow]
  | .throttleNAssert .. => [.integ, .obs, .pow]
  | .throttleNDeassert .. => [.pow]
  | .powerGovernor .. => [.now, .integ, .obs, .pow]
  | .droop .. => [.integ, .obs, .pow]
  | .droopRestore .. => [.now, .pow]
  | .railSetpoint .. => reachOfEntries
  | .railSettle .. => [.now, .out, .dict, .integ, .obs, .pow]
  | .pmbusPoll .. => [.out, .integ, .obs, .pow]
  | .pmbusAlert .. => [.out, .integ, .obs, .pow]
  | .warmReset .. => reachOfEntries
  | .dieReset .. => reachOfEntries
  | .islandReset .. => reachOfEntries
  | .fwUpdate .. => reachOfEntries
  | .fwCommitB .. => reachOfEntries
  | .linkRetrain .. => [.mem, .out, .fab, .integ, .ep, .vs, .port, .obs, .time, .pow]
  | .linkCrcRetry .. => [.fab]
  | .channelFailed .. => [.out, .integ, .port, .led, .obs, .pow]
  | .channelReturn .. => [.out, .integ, .port, .led, .obs, .pow]
  | .hbmTemperatureReadout .. => [.out, .integ, .ep, .port, .led, .obs, .pow]
  | .canBusError .. => [.dict]

end Sys2Proof.Machine
end

