-- ==== Sys2Proof/WellFormed.lean ====
section
/-!
DEFINITION. WellFormed.lean: the commands that a sender can form.
-/
namespace Sys2Proof
open Sys2Proof.Machine (Req TtpMsg Packet NodeId locateNode)

/-- R78: a message's length is that of its payload, at most 56 bytes. -/
def Machine.TtpMsg.wf (m : TtpMsg) : Bool := decide (m.payload.length ≤ 56) && m.len.toNat == m.payload.length

/-- R236: a packet's LENGTH is that of its payload, at most 4,096 bytes. -/
def Machine.Packet.wf (p : Packet) : Bool := decide (p.payload.length ≤ 4096) && p.length.toNat == p.payload.length

/-- A node ID that names a tile (R20 to R23). -/
def nodeWf (n : NodeId) : Bool := (locateNode n.toNat).isSome

/-- The session that a message names is the one its sender speaks in (R78). -/
def msgWf (r : Req) (m : TtpMsg) : Bool := m.wf && r.session == m.session

/-- A sender can form the command: its message or packet is whole, and the tile that it names is there. -/
def Instr.wf : Instr → Bool
  | .readReq r m => msgWf r m
  | .writeExp r m => msgWf r m
  | .segWriteInit r m => msgWf r m
  | .segment r m => msgWf r m
  | .segAck r m => msgWf r m
  | .segEnd r m => msgWf r m
  | .abort r m => msgWf r m
  | .syncRead n p => nodeWf n && p.wf
  | .syncAdd n p => nodeWf n && p.wf
  | .syncSet n p => nodeWf n && p.wf
  | .syncWait n p => nodeWf n && p.wf
  | .syncArriveWait n p => nodeWf n && p.wf
  | .syncConfigure n p => nodeWf n && p.wf
  | .notify n p => nodeWf n && p.wf
  | .unpark n p => nodeWf n && p.wf
  | .syncRsp n p => nodeWf n && p.wf
  | .kill n p => nodeWf n && p.wf
  | .killDone n p => nodeWf n && p.wf
  | .queuePost n p => nodeWf n && p.wf
  | .packetInject n o => nodeWf n && o.all (·.pkt.wf)
  | .regulatorRelease n => nodeWf n
  | .routerForward n _ _ _ => nodeWf n
  | .write n p => nodeWf n && p.wf
  | .read n p => nodeWf n && p.wf
  | .endpointMsg n p => nodeWf n && p.wf
  | .readData n p => nodeWf n && p.wf
  | .endpointRsp n p => nodeWf n && p.wf
  | .refusal n p => nodeWf n && p.wf
  | .ack n p => nodeWf n && p.wf
  | .ackSend n => nodeWf n
  | .nackRxFull n p => nodeWf n && p.wf
  | .openRetry n _ => nodeWf n
  | .nackNotOpen n p => nodeWf n && p.wf
  | .streamAckTimeout n _ => nodeWf n
  | .streamIdleClose n _ => nodeWf n
  | .close n p => nodeWf n && p.wf
  | .linkBringUp n _ _ _ _ _ => nodeWf n
  | .linkFailure n _ => nodeWf n
  | .mcSend n p => nodeWf n && p.wf
  | .mcDeliver n p => nodeWf n && p.wf
  | .redChunk n p => nodeWf n && p.wf
  | .redCredit n p => nodeWf n && p.wf
  | .redTimeout n _ _ _ => nodeWf n
  | .redReport n p => nodeWf n && p.wf
  | .redReportRepeat n _ => nodeWf n
  | .redResync n p => nodeWf n && p.wf
  | .tableEntryRewrite n _ _ => nodeWf n
  | .aliveFall n _ => nodeWf n
  | .handshakeTimeout n _ _ => nodeWf n
  | .realive n _ => nodeWf n
  | .freqLimited n => nodeWf n
  | .timeSyncSend n => nodeWf n
  | .delayPeriod n => nodeWf n
  | .timeSync n p _ => nodeWf n && p.wf
  | .delayReq n p _ => nodeWf n && p.wf
  | .delayRsp n p _ => nodeWf n && p.wf
  | .syncSilence n => nodeWf n
  | .holdoverExpired n => nodeWf n
  | .digestReport n p => nodeWf n && p.wf
  | .epochGo n => nodeWf n
  | .portDone n => nodeWf n
  | .epochDrainTimeout n => nodeWf n
  | .epochRetire n => nodeWf n
  | .traceStageSend n => nodeWf n
  | .traceAppend n p => nodeWf n && p.wf
  | .freezeLatch n => nodeWf n
  | .snapshotCapture n => nodeWf n
  | .linkRetrain n _ _ => nodeWf n
  | .linkCrcRetry n _ => nodeWf n
  | _ => true

end Sys2Proof
end

