-- ==== Sys2Proof/Certificates/Slice0/Obligations.lean ====
section
/-!
DEFINITION. Certificates/Slice0/Obligations.lean: the statements for the provers. A completion statement says, for each command it names, under which
conditions on the state and the operands exec answers a next state with the command's own effect, and what that state holds.
-/
open Sys2Proof Sys2Proof.Machine

/-- Table 16.10, R597: with POR_N deasserted the boundary-scan instructions select their register and drive the pins as the table says; one scan moves
the captured levels out and the shifted bits in; IDCODE gives 0x1502076B; nothing else in the part changes.
It rests on choices and readings of the model: log entries 11 and 14. -/
def Obligations.BoundaryScanCompletes : Prop :=
  ∀ (s : State) (tdi pins : Bytes), s.pow.por = false →
    (exec (.extest tdi pins) s = .next { s with
      pow := { s.pow with
        jtagIr := 0x00, pinsHeld := 1, boundary := leBytes 71 ((leNat pins % 2 ^ 565 + leNat tdi * 2 ^ 565) / 2 ^ (8 * tdi.length) % 2 ^ 565) }
      out := s.out ++ [.tdo (leBytes tdi.length ((leNat pins % 2 ^ 565 + leNat tdi * 2 ^ 565) % 2 ^ (8 * tdi.length)))] }) ∧
    (exec (.samplePreload tdi pins) s = .next { s with
      pow := { s.pow with
        jtagIr := 0x02, pinsHeld := 0, boundary := leBytes 71 ((leNat pins % 2 ^ 565 + leNat tdi * 2 ^ 565) / 2 ^ (8 * tdi.length) % 2 ^ 565) }
      out := s.out ++ [.tdo (leBytes tdi.length ((leNat pins % 2 ^ 565 + leNat tdi * 2 ^ 565) % 2 ^ (8 * tdi.length)))] }) ∧
    (exec (.clamp tdi) s = .next { s with
      pow := { s.pow with jtagIr := 0x04, pinsHeld := 1 }, out := s.out ++ [.tdo (leBytes tdi.length (2 * leNat tdi % 2 ^ (8 * tdi.length)))] }) ∧
    (exec (.highz tdi) s = .next { s with
      pow := { s.pow with jtagIr := 0x05, pinsHeld := 2 }, out := s.out ++ [.tdo (leBytes tdi.length (2 * leNat tdi % 2 ^ (8 * tdi.length)))] }) ∧
    (exec (.bypass tdi) s = .next { s with
      pow := { s.pow with jtagIr := 0xFF, pinsHeld := 0 }, out := s.out ++ [.tdo (leBytes tdi.length (2 * leNat tdi % 2 ^ (8 * tdi.length)))] }) ∧
    (tdi.length = 4 → exec (.idcode tdi) s = .next { s with
      pow := { s.pow with jtagIr := 0x01, pinsHeld := 0 }, out := s.out ++ [.tdo [0x6B, 0x07, 0x02, 0x15]] })

/-- R596 to R599: while POR_N is deasserted a debug instruction whose scope is not unlocked (DBG_SCAN also before SCAN is entered) passes one bit
through like BYPASS and changes nothing but the instruction register and TDO; with MAINT_ACCESS, and with MEM_ACCESS, in force DBG_MAINT and DBG_MEM
complete (what they read, and where DBG_MEM writes, is left open: free values); with their scope in force DBG_SCAN and DBG_BIST stop, since the layout
of their data registers is not stated.
It rests on choices and readings of the model: log entries 4, 11, 14, 19 and 128. -/
def Obligations.DebugInstructionsAnswer : Prop :=
  ∀ (s : State) (tdi : Bytes), s.pow.por = false →
    (bitAt (scopes s) 1 = false → exec (.dbgMaint tdi) s = .next { s with
      pow := { s.pow with jtagIr := 0x20, pinsHeld := 0 }, out := s.out ++ [.tdo (leBytes tdi.length (2 * leNat tdi % 2 ^ (8 * tdi.length)))] }) ∧
    (bitAt (scopes s) 2 = false → exec (.dbgMem tdi) s = .next { s with
      pow := { s.pow with jtagIr := 0x21, pinsHeld := 0 }, out := s.out ++ [.tdo (leBytes tdi.length (2 * leNat tdi % 2 ^ (8 * tdi.length)))] }) ∧
    ((bitAt (scopes s) 3 && s.sec.scan == 3) = false → exec (.dbgScan tdi) s = .next { s with
      pow := { s.pow with jtagIr := 0x22, pinsHeld := 0 }, out := s.out ++ [.tdo (leBytes tdi.length (2 * leNat tdi % 2 ^ (8 * tdi.length)))] }) ∧
    (bitAt (scopes s) 4 = false → exec (.dbgBist tdi) s = .next { s with
      pow := { s.pow with jtagIr := 0x23, pinsHeld := 0 }, out := s.out ++ [.tdo (leBytes tdi.length (2 * leNat tdi % 2 ^ (8 * tdi.length)))] }) ∧
    (bitAt (scopes s) 1 = true → ∃ t b, exec (.dbgMaint tdi) s = .next t ∧ t.out = s.out ++ [.tdo b] ∧ b.length = tdi.length ∧
      t.pow = { s.pow with jtagIr := 0x20, pinsHeld := 0 } ∧ t.mem = s.mem) ∧
    (bitAt (scopes s) 2 = true → ∃ t b, exec (.dbgMem tdi) s = .next t ∧ t.out = s.out ++ [.tdo b] ∧ b.length = tdi.length ∧
      t.pow = { s.pow with jtagIr := 0x21, pinsHeld := 0 }) ∧
    (bitAt (scopes s) 3 = true → s.sec.scan = 3 → exec (.dbgScan tdi) s = .refused .debugDataRegister) ∧
    (bitAt (scopes s) 4 = true → exec (.dbgBist tdi) s = .refused .debugDataRegister)

/-- R604, R607, R611: the power governor, the droop response and the THROTTLE_N pin.
It rests on choices and readings of the model: log entries 13, 81 and 94. -/
def Obligations.PowerResponsesComplete : Prop :=
  ∀ (s : State),
    (s.pow.throttle = false → s.pow.por = false → ∃ t, exec .throttleNAssert s = .next t ∧
      t.pow = { s.pow with throttle := true } ∧ Reported s t 0xAC 1) ∧
    (exec .throttleNDeassert s = .next { s with pow := { s.pow with throttle := false } }) ∧
    (∀ d : DieId, dieUp s d.val = true → ∃ t, exec (.droop d) s = .next t ∧
      tget t.pow.droop d.val = some (s.now + 1000) ∧ t.pow.stats = bump s.pow.stats 2 ∧ Reported s t 0xA1 1) ∧
    (∀ (d : DieId) (x : Tick), tget s.pow.droop d.val = some x → ∃ t, exec (.droopRestore d) s = .next t ∧
      tget t.pow.droop d.val = none ∧ t.now = Nat.max s.now x ∧ t.mem = s.mem ∧ t.vs = s.vs) ∧
    (∀ (mw : BitVec 32) (limits : List Nat), s.pow.por = false → mw.toNat ≤ 1000 * setting s 0x9001 0 → mw.toNat ≤ 1100000 →
      ∃ t, exec (.powerGovernor mw limits) s = .next t ∧ t.pow.powerNow = mw.toNat ∧ t.pow.aboveUs = 0 ∧
        t.pow.govAt = Nat.max s.now (s.pow.govAt + 1000) ∧ t.now = Nat.max s.now (s.pow.govAt + 1000))

/-- R608 to R610, R630: temperatures, thermal throttling, the thermal trip, and PWRFAIL_N: a pulse of 1 µs or more starts the flush and puts the device
into FAULT, one below 200 ns does nothing.
It rests on choices and readings of the model: log entries 86, 93, 95 and 119. -/
def Obligations.ThermalAndPowerFailComplete : Prop :=
  ∀ (s : State), s.pow.por = false →
    (∀ (d : DieId) (x : BitVec 16), x.toInt < 110 * 8 → ∃ t, exec (.temperatureSample d x) s = .next t ∧
      tget t.pow.temps d.val = some x.toInt ∧ t.pow.thermtrip = s.pow.thermtrip ∧ t.integ = s.integ) ∧
    (∀ (d : DieId) (x : BitVec 16), 110 * 8 ≤ x.toInt → ∃ t, exec (.temperatureSample d x) s = .next t ∧ t.pow.thermtrip = true ∧
      (s.pow.thermtrip = false → s.pow.pwrfail = false → t.pow.pwrfail = true ∧ t.pow.fault = true)) ∧
    (∀ (k : ChanId) (x : BitVec 16), x.toInt < 105 * 8 → ∃ t, exec (.hbmTemperatureReadout k x) s = .next t ∧
      tget t.pow.hbmTemps k.val = some x.toInt ∧ (t.pow.hbmHalf.contains k.val = true ↔ 95 * 8 ≤ x.toInt)) ∧
    (∀ d : DieId, Int.ofNat (setting s 0x9062 0) * 8 ≤ tgetD s.pow.temps d.val 0 → ∃ t, exec (.throttleStep d) s = .next t ∧
      tget t.pow.thermal d.val = some (Nat.max (freqFloor d.val) (tgetD s.pow.thermal d.val (dieLimit s d.val) - 100000)) ∧
      (tget s.pow.thermal d.val = none → Reported s t 0xA2 1)) ∧
    (∀ (ns late : BitVec 16), s.pow.pwrfail = false → 1000 ≤ ns.toNat → ∃ t, exec (.pwrfailNAssert ns late) s = .next t ∧
      t.pow.pwrfail = true ∧ t.pow.fault = true ∧ t.pow.warm = 0) ∧
    (∀ (ns late : BitVec 16), ns.toNat < 200 → exec (.pwrfailNAssert ns late) s = .next s)

/-- R606, R613, R614: rails. READ_VOUT within 10 mV of the setpoint makes it the rail's; a failed one is logged and the rail keeps the lower limit;
polls and alerts of a present rail read it over PMBus, and a transaction that fails twice is logged.
It rests on choices and readings of the model: log entries 14, 44, 83 and 84. -/
def Obligations.RailCommandsComplete : Prop :=
  ∀ (s : State) (r : RailId), pmbusUp s = true →
    (∀ (mv x : Nat) (v : BitVec 16), (railOf s r.val).settle = some (mv, x) → railPresent s r.val = true → v.toNat ≤ mv + 10 → mv ≤ v.toNat + 10 →
      s.now ≤ x → ∃ t, exec (.railSettle r v) s = .next t ∧ railOf t r.val = { railOf s r.val with setpoint := mv, settle := none, cap := none } ∧
        t.out = s.out ++ [.pmbus (bits (railMap s r.val) 6 0) (bits (railMap s r.val) 15 8) 0x8B []] ∧ t.integ = s.integ) ∧
    (∀ (mv x : Nat) (v : BitVec 16), (railOf s r.val).settle = some (mv, x) → (v.toNat + 10 < mv ∨ mv + 10 < v.toNat) →
      ∃ t, exec (.railSettle r v) s = .next t ∧ (railOf t r.val).settle = none ∧ (railOf t r.val).setpoint = (railOf s r.val).setpoint ∧
        Reported s t 0xA4 2) ∧
    (railPresent s r.val = true → ∀ (reading : Bytes), ∃ t, exec (.pmbusPoll r true reading) s = .next t ∧
      railOf t r.val = { railOf s r.val with
        vin := field reading 0 4, vout := field reading 4 4, iout := field reading 8 4, pout := field reading 12 4, temp := field reading 16 4
        status := field reading 20 2, sample := s.now } ∧
      (statusFault (field reading 20 2) = true → Reported s t 0xA5 2)) ∧
    (railPresent s r.val = true → ∀ (reading : Bytes), ∃ t, exec (.pmbusPoll r false reading) s = .next t ∧ Reported s t 0xA6 1 ∧ t.pow = s.pow) ∧
    (railPresent s r.val = true → ∀ (st : BitVec 16), ∃ t, exec (.pmbusAlert r true st) s = .next t ∧
      railOf t r.val = { railOf s r.val with status := st.toNat } ∧ (statusFault st.toNat = true → Reported s t 0xA5 2))

/-- R619, R620, R625 to R627: POR_N holds the whole part in reset, with fuses, NOR, NAND and (the model's choice, log entry 28) SRAM and HBM bytes
kept; its release samples the straps and starts fabric time at 0; the managing engine then loads firmware, and writes the configuration store.
It rests on choices and readings of the model: log entries 7, 49, 86, 91 and 110. -/
def Obligations.PackageResetCompletes : Prop :=
  ∀ (s : State),
    (s.pow.por = false → ∃ t, exec .porNAssert s = .next t ∧ t.pow.por = true ∧ t.mem = s.mem ∧ t.out = s.out ∧ t.led = s.led ∧ t.dict = {} ∧
      t.fab = {} ∧ t.vs = {} ∧ t.integ = {} ∧ t.ep = {} ∧ t.obs = {} ∧ t.port.adm = [] ∧ t.pow.nors = s.pow.nors ∧ t.sec.floor = s.sec.floor ∧
      t.sec.zeroCount = s.sec.zeroCount ∧ t.sec.unlock = none ∧
      t.pow.resetCause = if s.pow.thermtrip then 3 else if s.pow.pwrfail then 2 else 0) ∧
    (∀ (straps : BitVec 7) (test : BitVec 4), s.pow.por = true → ∃ t, exec (.porNDeassert straps test) s = .next t ∧ t.pow.por = false ∧
      t.pow.nodeId = straps.toNat ∧ t.now = 0 ∧ t.time.masterState = 0 ∧ t.mem = s.mem ∧ t.out = s.out) ∧
    (∀ d : DieId, s.pow.por = false → s.pow.booting = false → mgmtUp s = true → dieUp s d.val = true → (16 ≤ d.val → engineUp s (d.val - 16) = true) →
      ∃ t, exec (.firmwareDistribute d) s = .next t ∧ tget t.pow.fw d.val = some s.pow.image.version ∧ t.mem = s.mem ∧ t.dict = s.dict ∧
        (∀ w, tget s.pow.fw d.val = some w → w ≠ s.pow.image.version → Reported s t 0xA8 1)) ∧
    (s.pow.storeDue.isSome = true → mgmtUp s = true → ∃ t, exec (.configStoreWrite 0) s = .next t ∧ t.pow.storeDue = none ∧
      t.dict = s.dict ∧ t.ep = s.ep ∧ t.integ = s.integ ∧
      (∀ (n : Nat) (x : Nor), (n, x) ∈ t.pow.nors → ∃ c ∈ x.stores, c.valid = true ∧ c.cfg = s.cfg.filter (fun e => storeHolds e.1) ∧
        c.rw = s.dict.rw.filter (fun e => storeHolds e.1))) ∧
    (∀ fail : BitVec 2, s.pow.storeDue.isSome = true → mgmtUp s = true → ∃ t, exec (.configStoreWrite fail) s = .next t ∧ t.pow.storeDue = none)

/-- R380 to R387: the fabric-time units. The master holds over without a reference; a SYNC from the parent gives the error and at 1 ns or less keeps or
regains LOCKED; a delay measurement takes half the round trip; silence and the holdover limit change the state and are counted and logged.
It rests on choices and readings of the model: log entries 13 and 129. -/
def Obligations.FabricTimeCommandsComplete : Prop :=
  ∀ (s : State),
    (s.time.master = 16 → s.time.masterState ≠ 1 → dieUp s 16 = true → ∃ t, exec .refclkLost s = .next t ∧ t.time.masterState = 1 ∧
      t.time.timeCounts = bump s.time.timeCounts 0 ∧ Reported s t 0xE4 2) ∧
    (s.time.master = 16 → dieUp s 16 = true → exec .refclkReturn s = .next { s with time := { s.time with masterState := 0 } }) ∧
    (∀ (n : NodeId) (u : TimeUnit), unitAt s n.toNat = u → u.state = 0 → n.toNat ≠ masterTile s → tileUp s n.toNat = true →
      ∃ t, exec (.syncSilence n) s = .next t ∧ t.now = Nat.max s.now (u.lastSync + 4000 * setting s 0x2842 0) ∧
        unitAt t n.toNat = { u with state := 1, holdSince := t.now }) ∧
    (∀ (n : NodeId) (u : TimeUnit), unitAt s n.toNat = u → u.state = 1 → n.toNat ≠ masterTile s → tileUp s n.toNat = true →
      ∃ t, exec (.holdoverExpired n) s = .next t ∧ unitAt t n.toNat = { u with state := 3 } ∧ t.time.timeCounts = bump s.time.timeCounts 3 ∧
        Reported s t 0xE6 2) ∧
    (∀ n : NodeId, tileUp s n.toNat = true → ∃ t, exec (.timeSyncSend n) s = .next t ∧
      unitAt t n.toNat = { unitAt s n.toNat with syncSeq := ((unitAt s n.toNat).syncSeq + 1) % 65536 }) ∧
    (∀ (n : NodeId) (m : Nat), tileUp s n.toNat = true → neighbour n.toNat (unitAt s n.toNat).parent = some m →
      ∃ (t : State) (x : OutPacket), exec (.delayPeriod n) s = .next t ∧ tgetD t.fab.waiting n.toNat [] = tgetD s.fab.waiting n.toNat [] ++ [x] ∧
        x.pkt.opcode = 0x47 ∧ x.pkt.dest = BitVec.ofNat 12 m ∧ field x.pkt.payload 0 1 % 16 = 2 ∧ t.time = s.time) ∧
    (∀ (n : NodeId) (p : Packet) (a : BitVec 80) (u : State), Takes s n p u → p.opcode = 0x47 → timeKind p = 2 →
      ∃ (t : State) (x : OutPacket), exec (.delayReq n p a) s = .next t ∧
        tgetD t.fab.waiting n.toNat [] = tgetD s.fab.waiting n.toNat [] ++ [x] ∧ x.pkt.opcode = 0x47 ∧ x.pkt.dest = p.src ∧
        field x.pkt.payload 0 1 % 16 = 3 ∧ field x.pkt.payload 12 10 = a.toNat ∧ t.time = s.time) ∧
    (∀ (n : NodeId) (p : Packet) (a : BitVec 80) (u : State) (t1 : Nat), Takes s n p u → p.opcode = 0x47 → timeKind p = 3 →
      fromParent s n.toNat p = true → (unitAt s n.toNat).t1 = some t1 → ∃ t, exec (.delayRsp n p a) s = .next t ∧
        unitAt t n.toNat = { unitAt s n.toNat with
          delay := (Int.ofNat a.toNat - Int.ofNat t1 - (Int.ofNat (timeTx p) - Int.ofNat (timeEcho p))) / 2, haveDelay := true, t1 := none }) ∧
    (∀ (n : NodeId) (p : Packet) (a : BitVec 80) (u : State) (e : Int), Takes s n p u → p.opcode = 0x47 → timeKind p = 1 →
      fromParent s n.toNat p = true → (unitAt s n.toNat).haveDelay = true →
      e = Int.ofNat a.toNat - (Int.ofNat (timeTx p) + (unitAt s n.toNat).delay) → (unitAt s n.toNat).state ≤ 1 → e.natAbs ≤ 65536 →
      ∃ t, exec (.timeSync n p a) s = .next t ∧ (unitAt t n.toNat).error = e ∧ (unitAt t n.toNat).state = 0 ∧
        (unitAt t n.toNat).depth = field p.payload 3 1 + 1 ∧ (unitAt t n.toNat).lastSync = s.now ∧
        ((unitAt t n.toNat).offset - (unitAt s n.toNat).offset).natAbs ≤ e.natAbs) ∧
    (mgmtUp s = true → (s.time.master = 16 ∨ s.time.master = 18) → ∃ t, exec .timeTreeRecompute s = .next t ∧
      (unitAt t (masterTile s)).parent = 0 ∧ (unitAt t (masterTile s)).depth = 0 ∧ (unitAt t (masterTile s)).state = 0)

/-- R360, R389 to R391: wall time. An edge more than 1 ms off is a mismatch until WALL_SET; one within it re-bases the mapping at the servo's RATE without
a step; 1.1 s without an edge loses the reference; a frequency below target for 1 ms is counted and logged.
It rests on choices and readings of the model: log entries 13, 81 and 129. -/
def Obligations.WallTimeCommandsComplete : Prop :=
  ∀ (s : State),
    (∀ (w : BitVec 16) (rate : BitVec 32), 100 ≤ w.toNat → setting s 0x2860 4 ≠ 0 → s.time.master = 16 → dieUp s 16 = true → s.time.pps ≠ 4 →
      1000000 < (ppsError s).natAbs → ∃ t, exec (.ppsEdge w rate) s = .next t ∧ t.time = { s.time with pps := 4, ppsAt := s.now } ∧
        Reported s t 0xE9 2) ∧
    (∀ (w : BitVec 16) (rate : BitVec 32), 100 ≤ w.toNat → setting s 0x2860 4 ≠ 0 → s.time.master = 16 → dieUp s 16 = true → s.time.pps ≠ 4 →
      (ppsError s).natAbs ≤ 1000000 → ∃ t, exec (.ppsEdge w rate) s = .next t ∧ t.time.rate = rate.toInt ∧ t.time.ftBase = s.now ∧
        t.time.wallBase = wallAt s.time s.now ∧ t.time.ppsAt = s.now ∧ (t.time.pps = 1 ∨ t.time.pps = 2) ∧ wallAt t.time t.now = wallAt s.time s.now) ∧
    ((s.time.pps = 1 ∨ s.time.pps = 2) → ∃ t, exec .ppsLost s = .next t ∧ t.time.pps = 3 ∧ t.time.rate = s.time.rate ∧
      t.now = Nat.max s.now (s.time.ppsAt + 1100000000) ∧ t.time.timeCounts = bump s.time.timeCounts 1 ∧ Reported s t 0xE8 2) ∧
    (∀ n : NodeId, dieUp s (dieOf n.toNat) = true → dieKHz s (dieOf n.toNat) < setting s 0x2801 (dieOf n.toNat + 1) →
      ∃ t, exec (.freqLimited n) s = .next t ∧ tgetD t.time.limitedMs (dieOf n.toNat) 0 = tgetD s.time.limitedMs (dieOf n.toNat) 0 + 1 ∧
        Reported s t 0xEA 1)

/-- R271 to R274, R366, R371 to R378: die-to-die links and boundaries. Bring-up makes the crossing ALIVE under the next generation and the link ACTIVE
or DEGRADED, or FAILED; retraining holds and returns it; a peer's low alive level fences the boundary; a handshake not answered in 10 µs fences it and is
logged.
It rests on choices and readings of the model: log entries 13, 129 and 135. -/
def Obligations.LinkAndBoundaryCommandsComplete : Prop :=
  ∀ (s : State) (n : NodeId) (port : InPort) (m : Nat), neighbour n.toNat port.val = some m →
    (∀ (lanes : BitVec 8) (gt32 : Bool), isDieLink n.toNat port.val = true → aliveLow s n.toNat = false → aliveLow s m = false →
      (linkState s n.toNat port.val = 1 ∨ linkState s n.toNat port.val = 6) → (gt32 = false → setting s 0x2006 0 ≠ 0) →
      ∃ t, exec (.linkBringUp n port lanes gt32 true true) s = .next t ∧ linkState t n.toNat port.val = (if gt32 then 2 else 4) ∧
        (tgetD t.time.bounds (8 * n.toNat + port.val) {}).state = 0 ∧ (tgetD t.time.bounds (8 * m + opposite port.val) {}).state = 0 ∧
        (tgetD t.time.bounds (8 * n.toNat + port.val) {}).cgen = (tgetD t.time.bounds (8 * m + opposite port.val) {}).cgen) ∧
    (isDieLink n.toNat port.val = true → (linkState s n.toNat port.val = 2 ∨ linkState s n.toNat port.val = 4) →
      ∃ t, exec (.linkRetrain n port 0) s = .next t ∧ linkState t n.toNat port.val = 3 ∧ t.time = s.time) ∧
    (isDieLink n.toNat port.val = true → linkState s n.toNat port.val = 3 →
      ∃ t, exec (.linkRetrain n port 1) s = .next t ∧ linkState t n.toNat port.val = 2) ∧
    (isDieLink n.toNat port.val = true → linkState s n.toNat port.val = 3 → setting s 0x2006 0 ≠ 0 →
      ∃ t, exec (.linkRetrain n port 2) s = .next t ∧ linkState t n.toNat port.val = 4) ∧
    (isDieLink n.toNat port.val = true → linkUp s n.toNat port.val = true → exec (.linkCrcRetry n port) s = .next { s with
      fab := { s.fab with retries := tinc s.fab.retries (4 * dieOf n.toNat + edgeGroup n.toNat port.val) 1 } }) ∧
    (isDieLink n.toNat port.val = true → (linkState s n.toNat port.val = 2 ∨ linkState s n.toNat port.val = 3 ∨ linkState s n.toNat port.val = 4) →
      ∃ t, exec (.linkFailure n port) s = .next t ∧ (tgetD t.time.bounds (8 * n.toNat + port.val) {}).state = 1 ∧ t.dict = s.dict ∧ t.led = s.led ∧ t.sec = s.sec) ∧
    (aliveLow s n.toNat = false → ∃ t, exec (.aliveFall n port) s = .next t ∧
      (tgetD t.time.bounds (8 * n.toNat + port.val) {}).state = 1) ∧
    (aliveLow s n.toNat = false → (tgetD s.time.bounds (8 * n.toNat + port.val) {}).state = 0 → ∀ cmd : BitVec 32,
      ∃ t, exec (.handshakeTimeout n port cmd) s = .next t ∧ (tgetD t.time.bounds (8 * n.toNat + port.val) {}).state = 1) ∧
    (aliveLow s n.toNat = false → aliveLow s m = false → isDieLink n.toNat port.val = false → linkState s n.toNat port.val = 6 →
      ∃ t, exec (.realive n port) s = .next t ∧ linkState t n.toNat port.val = 2 ∧ (tgetD t.time.bounds (8 * n.toNat + port.val) {}).state = 0 ∧
        (tgetD t.time.bounds (8 * m + opposite port.val) {}).state = 0)

/-- R352 to R356, R95: the error log. The next report coalesces into a recent record like it or becomes a record with the next LOG_SEQ, for which an
emergency frame goes out above Correctable; a poll forwards the reports that a die holds, and a ring that does not answer is logged.
It rests on choices and readings of the model: log entries 14, 127 and 134. -/
def Obligations.ErrorLogCommandsComplete : Prop :=
  ∀ (s : State), mgmtUp s = true →
    (∀ (r : Report) (rest : List Report), s.integ.reports = r :: rest → s.integ.log = [] → r.cls ≤ 1 → ∃ t, exec .errorLogRecord s = .next t ∧
      t.integ.reports = rest ∧ t.integ.nextSeq = s.integ.nextSeq + 1 ∧ t.out = s.out ∧
      t.integ.log = [{ seq := s.integ.nextSeq.toNat, rep := r, lastTime := r.time, dropped := r.dropped, at_ := s.now }] ∧
      tgetD t.integ.classCounts r.cls 0 = tgetD s.integ.classCounts r.cls 0 + 1 ∧
      tgetD t.integ.causeCounts r.cause 0 = tgetD s.integ.causeCounts r.cause 0 + 1) ∧
    (∀ (r : Report) (rest : List Report), s.integ.reports = r :: rest → 3 ≤ r.cls → s.integ.log.length < 4096 →
      ∃ (t : State) (x : LogRecord), exec .errorLogRecord s = .next t ∧ t.integ.log = s.integ.log ++ [x] ∧ x.seq = s.integ.nextSeq.toNat ∧
        x.rep = r ∧ t.integ.overwritten = s.integ.overwritten ∧ t.integ.nextSeq = s.integ.nextSeq + 1 ∧
        (canUp s 0 = true → canUp s 1 = false → ∃ d, t.out = s.out ++ [.canFrame 0 (2 ^ 24 + s.pow.nodeId % 128 * 2 ^ 17) d])) ∧
    (∀ (r x : _) (rest : List Report), s.integ.reports = r :: rest → s.integ.log = [x] → coalesces s r x = true → ∃ t, exec .errorLogRecord s = .next t ∧
      t.integ.log = [{ x with count := Nat.min (x.count + 1) 0xFFFF, lastTime := r.time, dropped := x.dropped + r.dropped }] ∧
      t.integ.nextSeq = s.integ.nextSeq ∧ t.out = s.out) ∧
    (∀ (d : DieId) (r : Report) (l : List Report), tgetD s.integ.held d.val [] = r :: l → ∃ t, exec (.heldReportPoll d true) s = .next t ∧
      t.integ.reports = s.integ.reports ++ { r with dropped := tgetD s.integ.dropCount d.val 0 } :: l ∧ tget t.integ.held d.val = none ∧
      tget t.integ.dropCount d.val = none) ∧
    (∀ d : DieId, ∃ t, exec (.heldReportPoll d false) s = .next t ∧ t.integ.ringFault.contains d.val = true ∧ Reported s t 0xD7 2)

/-- R321, R329, R330, R332: memory scrubbing, repair of configuration tables, and completions of host-window READs. A corrected word is counted and
logged, an uncorrectable one stays bad until it is written; a table entry that is rewritten is usable again; READ_DATA carries the host's bytes, or
POISON where the completion failed.
It rests on choices and readings of the model: log entries 5 and 127. -/
def Obligations.MemoryRepairCommandsComplete : Prop :=
  ∀ (s : State),
    (∀ (addr : BitVec 48) (e : EccErr) (d l o : Nat), decodeAddr (addr.toNat / 8 * 8) = some (.vatSram d l o) →
      (e = .good → exec (.sramScrub addr e) s = .next s) ∧
      (e = .corrected → s.integ.badWords.contains (addr.toNat / 8 * 8) = false → ∃ t, exec (.sramScrub addr e) s = .next t ∧ t.mem = s.mem ∧
        t.integ.badWords = s.integ.badWords ∧ tgetD t.integ.ecc (4 * dieOf (Region.vatSram d l o).tile + 2) 0 =
          tgetD s.integ.ecc (4 * dieOf (Region.vatSram d l o).tile + 2) 0 + 1) ∧
      (e = .uncorrectable → ∃ t, exec (.sramScrub addr e) s = .next t ∧ t.integ.badWords.contains (addr.toNat / 8 * 8) = true ∧ t.mem = s.mem ∧
        badRange t (addr.toNat / 8 * 8) 8 = true)) ∧
    (∀ (n : NodeId) (table : BitVec 4) (entry : BitVec 16), exec (.tableEntryRewrite n table entry) s = .next { s with
      integ := { s.integ with badTables := s.integ.badTables.filter (fun e => e != (n.toNat, table.toNat, entry.toNat)) } }) ∧
    (∀ (port : PortId) (id : BitVec 16) (err : TlpErr) (data : Bytes) (h : HostPend), (portOf s port.val).hostPend.find? (fun h => h.id == id.toNat) = some h →
      ∃ (t : State) (x : OutPacket), exec (.hostCompletion port id err data) s = .next t ∧ (portOf t port.val).hostPend.any (fun y => y.id == id.toNat) = false ∧
        x ∈ tgetD t.fab.waiting (portFrontTile port.val) [] ∧ x.pkt.opcode = 0x20 ∧ (err = .good ∨ x.pkt.poison = true) ∧
        (err = .good → x.pkt.payload = padTo data (bits h.pkt.aux.toNat 12 0)))

/-- R43, R347, R351, R68, R383: a die lost without a fence, and management passing from DN to DS or lost.
It rests on choices and readings of the model: log entry 127. -/
def Obligations.LossOfDieAndManagementCompletes : Prop :=
  ∀ (s : State),
    (∀ v : VatId, dieUp s v.val = true → ∃ t, exec (.vatDieLost v) s = .next t ∧ t.pow.lost = s.pow.lost ++ [v.val] ∧ dieUp t v.val = false ∧
      (tgetD t.part.vats v.val {}).state = 5 ∧ t.ep.repairDue = true ∧
      (vatOwner s.cfg v.val ≠ 0 → (tget t.integ.failed (vatOwner s.cfg v.val)).isSome = true)) ∧
    (∀ d : Deckle, dieUp s (16 + d.val) = true → ∃ t, exec (.deckleDieLost d) s = .next t ∧ t.pow.lost = s.pow.lost ++ [16 + d.val] ∧
      t.part.lostDeckles.contains (16 + d.val) = true ∧ t.ep.repairDue = true) ∧
    (s.mgmtDie = 16 → dieUp s 16 = false → dieUp s 18 = true → (tget s.pow.fw 18).isSome = true → ∃ t, exec .mgmtFailover s = .next t ∧
      t.mgmtDie = 18 ∧ t.dict.sessions = [] ∧ t.dict.transfers = [] ∧ t.dict.challenges = [] ∧ t.integ.log = s.integ.mirror ∧
      t.integ.nextSeq = s.integ.mirrorNext ∧ t.time.master = 18 ∧ t.time.masterState = 1 ∧ t.dict.rw = s.dict.rw ∧ t.mem = s.mem) ∧
    (dieUp s 16 = false → dieUp s 18 = false → ∃ t, exec .mgmtLost s = .next t ∧ t.pow.mgmtLost = true ∧ t.pow.fault = true ∧
      t.integ = s.integ ∧ t.mem = s.mem)

/-- R457 to R468: an epoch switch from arming to its end. The managing engine arms, gathers ARMED, gives GO at GO_AT or at once, and retires the old
epoch; an abort leaves the pending bank as it is.
It rests on choices and readings of the model: log entries 13 and 107. -/
def Obligations.EpochSwitchCommandsComplete : Prop :=
  ∀ (s : State),
    (s.ep.repairDue = true → s.ep.state = 0 → setting s 0x2613 0 ≠ 0 → mgmtUp s = true → s.ep.booted = true → ∃ t, exec .repairSwitchArm s = .next t ∧
      t.ep.state = 1 ∧ t.ep.repairDue = false ∧ t.ep.kind = 1 ∧ t.ep.pend = s.ep.pend ∧ t.ep.count = s.ep.count ∧
      (∃ b, t.ep.armed = some b ∧ b.cfg = s.cfg ∧ b.count = s.ep.count + 1)) ∧
    (∀ d : DieId, s.ep.state = 1 → endpointUp s d.val = true → ∃ t, exec (.epochArm d) s = .next t ∧ t.ep.reached.contains d.val = true ∧
      t.ep.armed = s.ep.armed ∧ t.ep.state = 1 ∧ t.part = s.part) ∧
    (∀ d : DieId, s.ep.state = 1 → s.ep.reached.contains d.val = true → ∃ t, exec (.epochArmed d) s = .next t ∧ t.ep.answered.contains d.val = true ∧
      (t.ep.state = 2 ↔ ∀ x : DieId, endpointUp s x.val = true → t.ep.answered.contains x.val = true)) ∧
    (∀ d : DieId, s.ep.state = 0 → ∃ t, exec (.epochArmAbort d) s = .next t ∧ t.ep.reached.contains d.val = false ∧ t.ep.cur = s.ep.cur) ∧
    (s.ep.state = 1 → ∃ t, exec .epochArmTimeout s = .next t ∧ t.ep.state = 0 ∧ t.ep.armed = none ∧ t.ep.result = aUnitDown ∧
      t.ep.pend = s.ep.pend ∧ t.ep.count = s.ep.count ∧ t.ep.cur = s.ep.cur ∧ t.now = Nat.max s.now (s.ep.armStart + 1000 * setting s 0x5013 0)) ∧
    (∀ b : Bank, s.ep.armed = some b → s.ep.state = 2 → mgmtUp s = true → ∃ t, exec .epochGoAt s = .next t ∧ t.ep.state = 3 ∧ t.ep.count = b.count ∧
      t.ep.cur = b ∧ t.ep.old = some s.ep.cur ∧ t.ep.armed = none ∧ t.now = Nat.max s.now s.ep.goAt ∧ t.part.digestDue = true ∧
      (s.ep.kind = 0 → t.ep.pend = []) ∧ (s.ep.kind ≠ 0 → t.ep.pend = s.ep.pend)) ∧
    (∀ d : DieId, s.ep.state = 1 → endpointUp s d.val = true → s.ep.answered.contains d.val = false → ∃ t x, exec (.epochResend d) s = .next t ∧
      tgetD t.fab.waiting (mgmtTile s.mgmtDie) [] = tgetD s.fab.waiting (mgmtTile s.mgmtDie) [] ++ [x] ∧ x.pkt.opcode = 0x51 ∧
      x.pkt.dest = BitVec.ofNat 12 (serviceTile d.val) ∧ t.now = Nat.max s.now (s.ep.resendAt + 100000) ∧ t.ep.state = 1)

/-- R461 to R463, R338, R479: a tile latches GO, contributes to the retirement wave when nothing of the old epoch is left or the drain time is over, and
frees the old bank at RETIRE; the switch ends when every die has answered; the BIST of a fenced die ends.
It rests on choices and readings of the model: log entries 13, 108, 109, 110, 134 and 135. -/
def Obligations.EpochRetirementCommandsComplete : Prop :=
  ∀ (s : State),
    (∀ n : NodeId, s.ep.state = 3 → tileIn s n.toNat = true → tget s.ep.latched n.toNat = none → ∃ t, exec (.epochGo n) s = .next t ∧
      tget t.ep.latched n.toNat = some s.now ∧ t.ep.count = s.ep.count ∧ t.ep.cur = s.ep.cur) ∧
    (∀ n : NodeId, s.ep.state = 3 → tileIn s n.toNat = true → (tget s.ep.latched n.toNat).isSome = true → s.ep.portsDone.contains n.toNat = false →
      portDone s n.toNat = true → ∃ t, exec (.portDone n) s = .next t ∧ t.ep.portsDone = s.ep.portsDone ++ [n.toNat] ∧ t.vs = s.vs) ∧
    (∀ (n : NodeId) (g : Tick), s.ep.state = 3 → tget s.ep.latched n.toNat = some g → tileIn s n.toNat = true →
      s.ep.portsDone.contains n.toNat = false → ∃ t, exec (.epochDrainTimeout n) s = .next t ∧ t.ep.portsDone.contains n.toNat = true ∧
        t.now = Nat.max s.now (g + 1000 * setting s 0x5012 0)) ∧
    (∀ n : NodeId, s.ep.state = 3 → s.ep.retiring = true → tileIn s n.toNat = true → ∃ t, exec (.epochRetire n) s = .next t ∧
      t.ep.retired.contains n.toNat = true ∧ t.part = s.part ∧ t.vs = s.vs) ∧
    (∀ d : DieId, s.ep.state = 3 → s.ep.retiring = true → (∀ n ∈ tilesOf d.val, s.ep.retired.contains n = true) →
      (∀ x : DieId, x ≠ d → dieUp s x.val = true → s.ep.answered.contains x.val = true) → (∀ x : VatId, vatState s x.val ≠ 1) →
      ∃ t, exec (.epochRetired d) s = .next t ∧ t.ep.state = 0 ∧ t.ep.old = none ∧ t.ep.booted = true ∧ t.pow.booting = false ∧ t.ep.cur = s.ep.cur) ∧
    (∀ (v : VatId) (block : BitVec 16), vatState s v.val = 2 → ∃ t, exec (.bistDone v true block) s = .next t ∧ vatState t v.val = 3 ∧
      (tgetD t.part.vats v.val {}).bist = 1 ∧ t.time.dieReset.contains v.val = false) ∧
    (∀ (v : VatId) (block : BitVec 16), vatState s v.val = 2 → ∃ t, exec (.bistDone v false block) s = .next t ∧ vatState t v.val = 3 ∧
      (tgetD t.part.vats v.val {}).bist = 2 + block.toNat * 2 ^ 16 ∧ t.time = s.time) ∧
    (∀ p : PartId, partControl s p.val = 1 → partDrained s p.val = true → exec (.partitionDrained p) s = .next { s with
      part := { s.part with control := tput s.part.control p.val 2 } }) ∧
    (∀ p : PartId, partControl s p.val = 2 → partDrained s p.val = false → exec (.partitionDrained p) s = .next { s with
      part := { s.part with control := tput s.part.control p.val 1 } }) ∧
    (s.part.digestDue = true → ∃ t, exec .configDigestRecompute s = .next t ∧ t.part.digestDue = false ∧ t.part.configSeq = s.part.configSeq + 1 ∧
      t.part.groundDigest = sha384 (groundBytes s) ∧ t.part.tintDigest = (if s.tint = 0 then zeros 48 else sha384 (overlays s.cfg s.tint).flatten) ∧
      t.part.configDigest = sha384 (t.part.groundDigest ++ t.part.tintDigest ++ leBytes 1 s.tint ++ leBytes 8 s.ep.count))

/-- R470 to R476: model updates. LOAD_MODEL makes the slot's PENDING update, a verified one runs, its sections go to the vats, the flip raises the
generation at T, old banks are freed, and MODEL_CANCEL ends an unflipped one with the generation in force unchanged.
It rests on choices and readings of the model: log entries 5, 41, 104 and 135. -/
def Obligations.ModelUpdateCommandsComplete : Prop :=
  ∀ (s : State),
    (∀ (n : PortId) (num : Nat) (r : Request), serviceReq s n.val num 0x10 = some r → r.started = false → slotNamed s r = true →
      ∃ t u, exec (.loadModel n num) s = .next t ∧ (slotOf t r.partition r.slot).pending = some u ∧ u.port = n.val ∧ u.num = num ∧
        u.len = descInLen r.desc ∧ ((slotOf s r.partition r.slot).running = none → u.phase = 1)) ∧
    (∀ (n : PortId) (num : Nat) (r : Request) (u : Update), serviceReq s n.val num 0x11 = some r → slotNamed s r = true →
      (slotOf s r.partition r.slot).running = some u → u.flipped = false → ∃ t, exec (.modelCancel n num) s = .next t ∧
        Answered t n.val num 0 ∧ (slotOf t r.partition r.slot).generation = (slotOf s r.partition r.slot).generation) ∧
    (∀ (p : PartId) (k : ModelSlot) (data : Bytes) (u : Update) (r : Request), (slotOf s p.val k.val).pending = some u → reqOf s u.port u.num = some r →
      u.phase = 1 → descStaged r.desc = false → descCrcValid r.desc = false → data.length = u.len → ∃ t u', exec (.imageFetchDone p k .good data) s = .next t ∧
        (slotOf t p.val k.val).pending = some u' ∧ u'.phase = 2 ∧ u'.port = u.port ∧ u'.num = u.num) ∧
    (∀ (p : PartId) (k : ModelSlot) (u : Update), (slotOf s p.val k.val).pending = some u → u.phase = 2 → engineUp s u.port = true → u.reject = 0 →
      partUpdating s p.val = false → (∀ j, j < k.val → (slotOf s p.val j).pending = none) → ∃ t, exec (.imageVerified p k) s = .next t ∧
        (slotOf t p.val k.val).running = some { u with phase := 3, plain := [] } ∧ t.sec.counts = bump s.sec.counts 0) ∧
    (∀ (p : PartId) (k : ModelSlot) (u : Update), (slotOf s p.val k.val).pending = some u → u.phase = 2 → engineUp s u.port = true → u.reject ≠ 0 →
      ∃ t, exec (.imageVerified p k) s = .next t ∧ (slotOf t p.val k.val).pending = none ∧ t.sec.counts = bump s.sec.counts 1 ∧
        Reported s t 0xC1 2 ∧ (∀ r, reqOf s u.port u.num = some r → Answered t u.port u.num 0x0303)) ∧
    (∀ (p : PartId) (k : ModelSlot) (u : Update), (slotOf s p.val k.val).running = some u → u.sent = false → (updateVats s p.val).all (fun d =>
      match tget (tgetD s.part.vats d {}).banks (2 * k.val + otherBank s d p.val k.val) with
      | some gen => !generationBound s p.val k.val gen d
      | none => true) = true →
      ∃ t u', exec (.updateSectionsSend p k) s = .next t ∧ (slotOf t p.val k.val).running = some u' ∧ u'.sent = true ∧ u'.flipped = u.flipped) ∧
    (∀ (p : PartId) (k : ModelSlot) (v : VatId) (a : BitVec 32) (u : Update), (slotOf s p.val k.val).running = some u → u.sent = true → u.flipAt = none →
      u.loaded.contains v.val = false → (updateVats s p.val).contains v.val = true →
      sectionsUnderWay s (field (slotRecord s.ep.cur p.val k.val) 36 1 % 64) v.val = false →
      (mcOf s (field (slotRecord s.ep.cur p.val k.val) 36 1 % 64)).pruned.contains v.val = false →
      sectionsMatch s v.val p.val (otherBank s v.val p.val k.val) (runningImage s p.val k.val u) = true → ∃ t u', exec (.sectionLoaded p k v a) s = .next t ∧
        (slotOf t p.val k.val).running = some u' ∧ u'.loaded = u.loaded ++ [v.val] ∧ t.mem = s.mem ∧
        tget (tgetD t.part.vats v.val {}).banks (2 * k.val + otherBank s v.val p.val k.val) = some ((slotOf s p.val k.val).generation + 1).toNat) ∧
    (∀ (p : PartId) (k : ModelSlot) (u : Update) (x : Tick), (slotOf s p.val k.val).running = some u → u.flipAt = some x → u.flipped = false →
      ∃ t, exec (.modelFlip p k) s = .next t ∧ (slotOf t p.val k.val).generation = (slotOf s p.val k.val).generation + 1 ∧
        (slotOf t p.val k.val).digest = u.digest ∧ (slotOf t p.val k.val).flipTick = x ∧ t.now = Nat.max s.now x) ∧
    (∀ (v : VatId) (k : ModelSlot) (u : Update) (p : Nat), vatOwner s.cfg v.val = p → (slotOf s p k.val).running = some u → u.flipped = true →
      u.freed.contains v.val = false → (updateVats s p).contains v.val = true →
      (∀ gen, tget (tgetD s.part.vats v.val {}).banks (2 * k.val + otherBank s v.val p k.val) = some gen → generationBound s p k.val gen v.val = false) →
      ∃ t, exec (.oldBankFree v k) s = .next t ∧ t.mem = s.mem ∧
        tget (tgetD t.part.vats v.val {}).banks (2 * k.val + otherBank s v.val p k.val) = none ∧
        ((∃ d ∈ updateVats s p, d ≠ v.val ∧ u.freed.contains d = false) → (slotOf t p k.val).running = some { u with freed := u.freed ++ [v.val] }) ∧
        ((∀ d ∈ updateVats s p, d = v.val ∨ u.freed.contains d = true) → (reqOf s u.port u.num).isSome = true → Answered t u.port u.num 0))

/-- R66, R67, R594, R596, R577: what ends by its time or fails. A challenge is valid for 10 s, a session until nothing has named it for the session
timeout, an attestation nonce for 10 s, an unlock for its duration (its end closes Service sessions); a generator whose health test fails is marked.
It rests on choices and readings of the model: log entries 13 and 43. -/
def Obligations.ValidityEndsComplete : Prop :=
  ∀ (s : State),
    (∀ (e : EpId) (c : BitVec 7) (x : Challenge), challengeOf s e.val c.toNat = some x → ∃ t, exec (.challengeExpiry e c) s = .next t ∧
      x.at_ + 10 ^ 10 ≤ t.now ∧ challengeOf t e.val c.toNat = none ∧ t.dict.sessions = s.dict.sessions ∧ t.dict.transfers = s.dict.transfers) ∧
    (∀ (id : BitVec 6) (x : Session), tget s.dict.sessions id.toNat = some x → ∃ t, exec (.sessionTimeout id) s = .next t ∧
      x.lastAt + 10 ^ 9 * setting s 0x1102 0 ≤ t.now ∧ tget t.dict.sessions id.toNat = none ∧
      (∀ i, i ≠ id.toNat → tget t.dict.sessions i = tget s.dict.sessions i) ∧ t.dict.challenges = s.dict.challenges) ∧
    (∀ (e : EpId) (c : BitVec 7) (b : Bytes) (at_ : Tick), tget s.sec.nonces (128 * e.val + c.toNat) = some (b, at_) →
      ∃ t, exec (.attestNonceExpiry e c) s = .next t ∧ at_ + 10 ^ 10 ≤ t.now ∧ tget t.sec.nonces (128 * e.val + c.toNat) = none ∧
        t.sec.roles = s.sec.roles ∧ t.sec.unlock = s.sec.unlock) ∧
    (∀ (scope e : Nat), s.sec.unlock = some (scope, e) → ∃ t, exec .unlockExpiry s = .next t ∧ e ≤ t.now ∧ t.sec.unlock = none ∧
      Reported s t 0xC4 1 ∧ (∀ y ∈ t.dict.sessions, y.2.role ≠ 4) ∧ t.sec.unlockNonce = s.sec.unlockNonce) ∧
    (∀ d : Deckle, dieUp s (16 + d.val) = true → s.sec.entropyBad.contains d.val = false → ∃ t, exec (.entropyFault d) s = .next t ∧
      t.sec.entropyBad = s.sec.entropyBad ++ [d.val] ∧ Reported s t 0xC6 2)

/-- R88, R89, R92, R94, R95: the CAN FD controllers. A request frame that carries this node's ID is queued, or counted as discarded where 32 wait; a
heartbeat frame carries Table 3.9; new bit-rate settings come into force; the fault counters follow frames sent and received (the counters' rule is the
model's, log entry 45).
It rests on choices and readings of the model: log entries 14 and 66. -/
def Obligations.CanCommandsComplete : Prop :=
  ∀ (s : State) (ds : Bool),
    (∀ (tag : BitVec 17) (data : Bytes) (ident : BitVec 29), canUp s (bitOf ds) = true →
      ident.toNat = 3 * 2 ^ 24 + s.pow.nodeId % 128 * 2 ^ 17 + tag.toNat → ∃ t, exec (.canFrameReceive ds true ident data) s = .next t ∧
        ((canOf s (bitOf ds)).rxq.length < 32 → (canOf t (bitOf ds)).rxq = (canOf s (bitOf ds)).rxq ++ [(tag.toNat, msgOf data true)]) ∧
        (32 ≤ (canOf s (bitOf ds)).rxq.length → (canOf t (bitOf ds)).rxq = (canOf s (bitOf ds)).rxq ∧
          (canOf t (bitOf ds)).stats = bump (canOf s (bitOf ds)).stats 5) ∧
        canOf t (1 - bitOf ds) = canOf s (1 - bitOf ds) ∧ t.dict.mailboxes = s.dict.mailboxes) ∧
    (canUp s (bitOf ds) = true → setting s 0x1013 0 ≠ 0 → ∃ (t : State) (d : Bytes), exec (.heartbeat ds) s = .next t ∧
      t.out = s.out ++ [.canFrame (bitOf ds) (4 * 2 ^ 24 + s.pow.nodeId % 128 * 2 ^ 17) d] ∧ d.length = 16 ∧
      (canOf t (bitOf ds)).heartbeatAt = t.now ∧ (canOf s (bitOf ds)).heartbeatAt + 10 ^ 6 * setting s 0x1013 0 ≤ t.now) ∧
    ((canOf s (bitOf ds)).applyDue = true → ∃ t, exec (.canBitRateApply ds) s = .next t ∧ (canOf t (bitOf ds)).applyDue = false ∧
      (canOf t (bitOf ds)).nominal = setting s (0x1010 + bitOf ds) 2 ∧ (canOf t (bitOf ds)).data = setting s (0x1010 + bitOf ds) 3 ∧
      (canOf t (bitOf ds)).nominalSp = setting s (0x1010 + bitOf ds) 4 ∧ (canOf t (bitOf ds)).dataSp = setting s (0x1010 + bitOf ds) 5 ∧
      (canOf t (bitOf ds)).rxq = (canOf s (bitOf ds)).rxq ∧ canOf t (1 - bitOf ds) = canOf s (1 - bitOf ds)) ∧
    (∀ ok : Bool, dieUp s (canDie (bitOf ds)) = true → setting s (0x1010 + bitOf ds) 1 ≠ 0 → s.pow.nodeId ≠ 0 →
      (canOf s (bitOf ds)).busOff = false → ∃ t, exec (.canBusError ds true ok) s = .next t ∧
        (canOf t (bitOf ds)).tec = (if ok then (canOf s (bitOf ds)).tec - 1 else (canOf s (bitOf ds)).tec + 8) ∧
        ((canOf t (bitOf ds)).busOff = true ↔ 256 ≤ (canOf t (bitOf ds)).tec) ∧ (canOf t (bitOf ds)).rxq = (canOf s (bitOf ds)).rxq)

/-- R9, R96, R98 to R100: the BAR4 mailbox and the host's register writes. REQ_TAIL and RSP_HEAD move inside the ring and otherwise set OVERRUN; a
covered request slot is read once; a response goes into the next free slot; a register without its own row takes its written bits.
It rests on choices and readings of the model: log entries 14 and 138. -/
def Obligations.MailboxAndRegisterWritesComplete : Prop :=
  ∀ (s : State) (p : PortId), barsUp s p.val = true →
    (∀ v : BitVec 16, ∃ t, exec (.mbxReqTailWrite p v) s = .next t ∧
      mbxOf t p.val = (if 16 < (v - (mbxOf s p.val).reqHead).toNat then { mbxOf s p.val with overrun := true } else { mbxOf s p.val with reqTail := v }) ∧
      t.dict.sessions = s.dict.sessions ∧ (∀ q, q ≠ p.val → mbxOf t q = mbxOf s q)) ∧
    (∀ v : BitVec 16, ∃ t, exec (.mbxRspHeadWrite p v) s = .next t ∧
      mbxOf t p.val = (if ((mbxOf s p.val).rspTail - (mbxOf s p.val).rspHead).toNat < (v - (mbxOf s p.val).rspHead).toNat then
        { mbxOf s p.val with overrun := true } else { mbxOf s p.val with rspHead := v }) ∧
      t.dict.sessions = s.dict.sessions ∧ (∀ q, q ≠ p.val → mbxOf t q = mbxOf s q)) ∧
    (mgmtUp s = true → (mbxOf s p.val).reqHead ≠ (mbxOf s p.val).reqTail → responsesHeld (mbxOf s p.val) < 16 →
      ∃ (t : State) (m : Nat × TtpMsg), exec (.mbxRequestTake p) s = .next t ∧ (mbxOf t p.val).reqHead = (mbxOf s p.val).reqHead + 1 ∧
        (mbxOf t p.val).inbox = (mbxOf s p.val).inbox ++ [m] ∧ (mbxOf t p.val).requests = (mbxOf s p.val).requests + 1 ∧
        (mbxOf t p.val).reqTail = (mbxOf s p.val).reqTail ∧
        m.1 = field (requestSlot (mbxOf s p.val) ((mbxOf s p.val).reqHead.toNat % 16)) 0 4 % 2 ^ 17) ∧
    (∀ (x : Nat × TtpMsg) (rest : List (Nat × TtpMsg)), (mbxOf s p.val).outbox = x :: rest → responsesHeld (mbxOf s p.val) < 16 →
      ∃ t, exec (.mbxResponsePost p) s = .next t ∧ (mbxOf t p.val).outbox = rest ∧ (mbxOf t p.val).rspTail = (mbxOf s p.val).rspTail + 1 ∧
        tget (mbxOf t p.val).rspRing ((mbxOf s p.val).rspTail.toNat % 16) = some (padTo (leBytes 8 (x.1 % 2 ^ 17) ++ msgBytes x.2) 128) ∧
        ((mbxOf s p.val).irqEn = false → t.out = s.out ∧ t.port = s.port)) ∧
    (∀ (data : Bytes), data.length = 4 → ∃ t, exec (.registerWrite p 0 8 data) s = .next t ∧ (portOf t p.val).evtVec = bits (leNat data) 13 8 ∧
      (portOf t p.val).evtIrqEn = bitAt (leNat data) 16 ∧ (portOf t p.val).event = (portOf s p.val).event ∧ t.out = s.out ∧ t.dict = s.dict) ∧
    (∀ (off : BitVec 26) (data : Bytes), 0x800 ≤ off.toNat → off.toNat + data.length ≤ 0x1000 → ∃ t, exec (.registerWrite p 4 off data) s = .next t ∧
      (∀ (i : Nat) (b : Byte), data[i]? = some b → tget (mbxOf t p.val).reqRing (off.toNat - 0x800 + i) = some b) ∧ t.port = s.port)
/-- R74 to R86, R635: the transfer protocol's requests. A read is answered with the entry's value, expedited up to 56 bytes and by a segmented transfer
above; an expedited write that passes its checks takes effect by its access code and is answered with EFFECT.
It rests on choices and readings of the model: log entries 14, 56, 59 and 65. -/
def Obligations.ExpeditedRequestsComplete : Prop :=
  ∀ (s : State) (r : Req) (c : Caller) (m : TtpMsg), Speaks s r c → msgMalformed r.tag.toNat m = false → m.session = r.session →
    (m.cs = 0x01 → ∀ v, (odRead (served s r) c m.index.toNat m.sub.toNat (viewFlag m) (groundFlag m)).1 = .inr v → ∃ t, exec (.readReq r m) s = .next t ∧
      (v.length ≤ 56 → Told t r (partMsg 0x03 r.session.toNat m.index.toNat m.sub.toNat v)) ∧
      (56 < v.length → Told t r (partMsg 0x11 r.session.toNat m.index.toNat m.sub.toNat (u32 v.length)) ∧
        ∃ x, transferOf t r.ep.val r.tag.toNat = some x ∧ x.isRead = true ∧ x.data = v ∧ x.total = v.length ∧ x.segs = 0) ∧
      t.dict.rw = s.dict.rw ∧ t.ep.cur = s.ep.cur ∧ t.ep.pend = s.ep.pend) ∧
    (m.cs = 0x01 → m.index = 0x1000 → m.sub = 0 → ∃ t, exec (.readReq r m) s = .next t ∧
      Told t r (partMsg 0x03 r.session.toNat 0x1000 0 [0x14, 0x50, 0x00, 0x00]) ∧ OnlyParts [.dict, .out] s t) ∧
    (∀ e, m.cs = 0x02 → odLookup m.index.toNat m.sub.toNat = .inr e → e.acc = .rw ∨ e.acc = .rwd →
      Permitted s c m.index.toNat m.sub.toNat m.payload.length → storedCheck (served s r) e m.index.toNat m.sub.toNat m.payload = none →
      stateCheck (served s r) e m.index.toNat m.sub.toNat = none → ∃ (t : State) (effect : Nat), exec (.writeExp r m) s = .next t ∧
        Written t r m.index.toNat m.sub.toNat effect 0 ∧ tget t.dict.rw (odKey m.index.toNat m.sub.toNat) = some m.payload ∧
        (effect = 2 ∧ (overlayValue s.cfg s.tint (odKey m.index.toNat m.sub.toNat)).isSome = true ∨
          effect = 0 ∧ overlayValue s.cfg s.tint (odKey m.index.toNat m.sub.toNat) = none)) ∧
    (∀ e, m.cs = 0x02 → odLookup m.index.toNat m.sub.toNat = .inr e → e.acc = .rwe →
      Permitted s c m.index.toNat m.sub.toNat m.payload.length → storedCheck (served s r) e m.index.toNat m.sub.toNat m.payload = none →
      s.ep.state = 0 → stateCheck (served s r) e m.index.toNat m.sub.toNat = none → ∃ (t : State) (effect : Nat), exec (.writeExp r m) s = .next t ∧
        Written t r m.index.toNat m.sub.toNat effect 0 ∧ (effect = 1 ∨ effect = 2) ∧
        tget t.ep.pend (odKey m.index.toNat m.sub.toNat) = some m.payload ∧ t.ep.cur = s.ep.cur ∧ OnlyParts [.dict, .out, .ep] s t)

/-- R80 to R85: segmented transfers. A write opens with a granted block; each segment joins the value and the last of a block is acknowledged; SEG_END
carries out the write or, with a wrong CRC-32C, ends it without effect; a read sends a granted block and then SEG_END; ABORT and the segment timeout end
a transfer with no effect.
It rests on choices and readings of the model: log entries 13, 14, 52, 53, 56, 59, 63 and 65. -/
def Obligations.SegmentedTransfersComplete : Prop :=
  ∀ (s : State) (r : Req) (c : Caller) (m : TtpMsg), Heard s r c → msgMalformed r.tag.toNat m = false → m.session = r.session →
    (m.cs = 0x10 → transferOf s r.ep.val r.tag.toNat = none → transfersFull s r.ep.val = false →
      Permitted s c m.index.toNat m.sub.toNat (leNat m.payload) → ∃ (t : State) (x : Transfer), exec (.segWriteInit r m) s = .next t ∧
        transferOf t r.ep.val r.tag.toNat = some x ∧ x.isRead = false ∧ x.total = leNat m.payload ∧ x.data = [] ∧ x.segs = 0 ∧ x.block = setting s 0x1015 0 ∧
        Told t r (partMsg 0x13 r.session.toNat m.index.toNat m.sub.toNat (u8 (setting s 0x1015 0)) 0xFF) ∧ OnlyParts [.dict, .out] s t) ∧
    (∀ x, m.cs = 0x12 → transferOf s r.ep.val r.tag.toNat = some x → x.isRead = false → x.session = r.session.toNat → x.last = false → 1 ≤ x.block →
      m.seq.toNat = x.segs % 256 → (if lastFlag m then 1 ≤ m.payload.length else m.payload.length = 56) →
      ∃ (t : State) (y : Transfer), exec (.segment r m) s = .next t ∧ transferOf t r.ep.val r.tag.toNat = some y ∧ y.data = x.data ++ m.payload ∧
        y.segs = x.segs + 1 ∧ y.last = lastFlag m ∧ y.total = x.total ∧ OnlyParts [.dict, .out] s t ∧
        (lastFlag m = false → x.block = 1 → y.block = setting s 0x1015 0 ∧
          Told t r (partMsg 0x13 r.session.toNat m.index.toNat m.sub.toNat (u8 (setting s 0x1015 0)) m.seq.toNat))) ∧
    (∀ (x : Transfer) (effect session : Nat) (w : State), m.cs = 0x14 → transferOf s r.ep.val r.tag.toNat = some x → x.isRead = false →
      x.session = r.session.toNat → x.last = true → x.data.length = x.total → crc32c x.data = leNat m.payload →
      writeValue (dropTransfer (served s r) r.ep.val r.tag.toNat) c x.index x.sub x.data 0 = .ok effect session w →
      ∃ t, exec (.segEnd r m) s = .next t ∧ Told t r (partMsg 0x04 x.session x.index x.sub (u8 effect ++ u8 session)) ∧ OnlyParts [.dict, .out] w t) ∧
    (∀ x, m.cs = 0x14 → transferOf s r.ep.val r.tag.toNat = some x → x.isRead = false → x.session = r.session.toNat → x.last = true →
      x.data.length = x.total → crc32c x.data ≠ leNat m.payload → ∃ t, exec (.segEnd r m) s = .next t ∧
        Told t r (partMsg 0x1F x.session x.index x.sub (u32 aCrcMismatch)) ∧ transferOf t r.ep.val r.tag.toNat = none ∧ OnlyParts [.dict, .out] s t) ∧
    (∀ x, m.cs = 0x13 → transferOf s r.ep.val r.tag.toNat = some x → x.isRead = true → x.session = r.session.toNat →
      m.seq.toNat = (if x.segs = 0 then 0xFF else (x.segs - 1) % 256) → x.segs < (x.total + 55) / 56 → ∃ t, exec (.segAck r m) s = .next t ∧
        OnlyParts [.dict, .out] s t ∧
        (x.segs + leNat m.payload < (x.total + 55) / 56 → ∃ y, transferOf t r.ep.val r.tag.toNat = some y ∧ y.segs = x.segs + leNat m.payload ∧
          y.data = x.data) ∧
        ((x.total + 55) / 56 ≤ x.segs + leNat m.payload → transferOf t r.ep.val r.tag.toNat = none ∧
          Told t r (partMsg 0x14 x.session x.index x.sub (u32 (crc32c x.data))))) ∧
    (m.cs = 0x1F → ∃ t, exec (.abort r m) s = .next t ∧ transferOf t r.ep.val r.tag.toNat = none ∧ OnlyParts [.dict] s t) ∧
    (∀ x, transferOf s r.ep.val r.tag.toNat = some x → ∃ t, exec (.segTimeout r.ep r.tag) s = .next t ∧ transferOf t r.ep.val r.tag.toNat = none ∧
      x.lastAt + segLimit s ≤ t.now ∧ Told t r (partMsg 0x1F x.session x.index x.sub (u32 aTimeout)) ∧ OnlyParts [.now, .dict, .out] s t)
/-- R62, R66, R67, R580 to R582, R636: a session's life. A read of the challenge entry builds and holds 32 fresh bytes of which the last 16 carry the time,
the client and the counter; a right response opens a session and a wrong one is counted, logged and refused, each consuming the challenge;
SESSION_CLOSE closes.
It rests on choices and readings of the model: log entries 4, 14, 97 and 128. -/
def Obligations.SessionCommandsComplete : Prop :=
  ∀ (s : State) (r : Req) (c : Caller), Speaks s r c →
    (engineRandom s (mgmtDeckle s) = true → ∃ (t : State) (b : Bytes), exec (.sessionChallenge r) s = .next t ∧ b.length = 32 ∧
      b.drop 16 = leBytes 8 s.now ++ leBytes 1 c.ep ++ leBytes 1 c.client ++ zeros 2 ++ leBytes 4 (s.dict.challengeCtr + 1).toNat ∧
      (∃ x, challengeOf t c.ep c.client = some x ∧ x.bytes = b ∧ x.at_ = s.now) ∧ t.dict.challengeCtr = s.dict.challengeCtr + 1 ∧
      Told t r (partMsg 0x03 r.session.toNat 0x1100 1 b) ∧ OnlyParts [.dict, .free, .out] s t) ∧
    (∀ v : Bytes, v.length = 36 → Permitted s c 0x1100 2 36 → roleValid (field v 0 1) (field v 1 1) = true → field v 2 2 = 0 →
      sessionsOf s c.ep < 8 → s.dict.sessions.length < 48 → ∃ t, exec (.sessionResponse r v) s = .next t ∧ challengeOf t c.ep c.client = none ∧
        (responseRight s c v = true → OnlyParts [.dict, .out] s t ∧ ∃ id x, 1 ≤ id ∧ id ≤ 63 ∧ Written t r 0x1100 2 0 id ∧
          tget t.dict.sessions id = some x ∧ x.ep = c.ep ∧ x.client = c.client ∧ x.role = field v 0 1 ∧ x.partition = field v 1 1 ∧ x.openedAt = s.now) ∧
        (responseRight s c v = false → t.sec.authFailures = s.sec.authFailures + 1 ∧ Reported s t 0xC0 1 ∧ Aborted t r 0x1100 2 0x08010003 ∧
          OnlyParts [.dict, .integ, .obs, .out, .sec] s t)) ∧
    (∀ id : BitVec 8, Permitted s c 0x1101 0 1 → id ≠ 0 → id.toNat ≤ 63 → c.role = 1 ∨ id.toNat = c.session →
      ∃ t, exec (.sessionClose r id) s = .next t ∧ tget t.dict.sessions id.toNat = none ∧ Written t r 0x1101 0 0 0 ∧ OnlyParts [.dict, .out] s t)

/-- R583, R584, R594, R596, R590, Table 16.11: role secrets, attestation, the end of an unlock, the firmware floor and BIST_OVERRIDE.
It rests on choices and readings of the model: log entry 14. -/
def Obligations.RoleAndAttestationCommandsComplete : Prop :=
  ∀ (s : State) (r : Req) (c : Caller), Speaks s r c →
    (∀ v : Bytes, Permitted s c 0x8010 0 v.length → c.role = 1 ∨ (field v 0 1 = 1 ∧ operatorEnrolled s = false) → v.length = 144 →
      roleValid (field v 0 1) (field v 1 1) = true → field v 2 2 = 0 → field v 101 3 = 0 → ∃ t, exec (.roleEnrol r v) s = .next t ∧
        match agreedUnwrap enrolKey (slice v 4 97) (ascii "PQ20-ENROL") (leBytes 1 (field v 0 1) ++ leBytes 1 (field v 1 1)) (slice v 104 40) with
        | some k => roleSecret t (field v 0 1) (field v 1 1) = some k ∧ Written t r 0x8010 0 0 0 ∧ OnlyParts [.dict, .out, .sec] s t ∧
            (∀ x ∈ t.dict.sessions, x.2.role = field v 0 1 → x.2.partition = field v 1 1 → x.1 = c.session)
        | none => Aborted t r 0x8010 0 aAuthFailed ∧ OnlyParts [.dict, .out] s t) ∧
    (∀ v : BitVec 16, Permitted s c 0x8011 0 2 → roleValid (bits v.toNat 7 0) (bits v.toNat 15 8) = true → bits v.toNat 7 0 ≠ 1 →
      ∃ t, exec (.roleRevoke r v) s = .next t ∧ roleSecret t (bits v.toNat 7 0) (bits v.toNat 15 8) = none ∧ Written t r 0x8011 0 0 0 ∧
        (∀ x ∈ t.dict.sessions, x.2.role = bits v.toNat 7 0 → x.2.partition = bits v.toNat 15 8 → 63 < x.1) ∧ OnlyParts [.dict, .out, .sec] s t) ∧
    (∀ n : Bytes, n.length = 32 → Permitted s c 0x8030 1 32 → ∃ t, exec (.attestNonce r n) s = .next t ∧ heldNonce t c = some n ∧
      Written t r 0x8030 1 0 0 ∧ t.sec.roles = s.sec.roles ∧ OnlyParts [.dict, .out, .sec] s t) ∧
    (∀ n : Bytes, heldNonce s c = some n → engineUp s (mgmtDeckle s) = true → ∃ (t : State) (x : Transfer), exec (.attestation r) s = .next t ∧
      transferOf t r.ep.val r.tag.toNat = some x ∧ x.isRead = true ∧ x.data = attestation s n ∧
      Told t r (partMsg 0x11 r.session.toNat 0x8030 2 (u32 (attestation s n).length)) ∧ OnlyParts [.dict, .out] s t) ∧
    (∀ u : Nat × Nat, Permitted s c 0x8040 4 1 → s.sec.unlock = some u → ∃ t, exec (.unlockRevoke r) s = .next t ∧ t.sec.unlock = none ∧
      Reported s t 0xC4 1 ∧ (∀ x ∈ t.dict.sessions, x.2.role ≠ 4) ∧ Written t r 0x8040 4 0 0 ∧ OnlyParts [.dict, .integ, .obs, .out, .sec] s t) ∧
    (Permitted s c 0x8051 0 1 → ∃ t, exec (.fwFloorCommit r) s = .next t ∧ t.sec.floor = Nat.max s.sec.floor s.pow.image.security ∧
      Written t r 0x8051 0 0 0 ∧ t.sec.zeroCount = s.sec.zeroCount ∧ OnlyParts [.dict, .out, .sec] s t) ∧
    (∀ (d : VatId) (v : BitVec 32), Permitted s c 0xF002 (d.val + 1) 4 → ∃ t, exec (.bistOverride r d v) s = .next t ∧
      tget t.sec.bist d.val = some v.toNat ∧ Written t r 0xF002 (d.val + 1) 0 0 ∧ OnlyParts [.dict, .out, .sec] s t)

/-- R591 to R593, R595, R599: an unlock token, entry to SCAN and ZEROISE. A token that passes its checks opens its scopes for its duration, and one that
fails is counted and logged; SCAN waits for admitted requests and stopped ledgers, then ends service with the keys cleared; ZEROISE burns every
in-service deckle's fuse once admitted requests are done.
It rests on choices and readings of the model: log entries 4, 14, 43, 88 and 128. -/
def Obligations.UnlockScanZeroiseComplete : Prop :=
  ∀ (s : State) (r : Req) (c : Caller), Speaks s r c →
    (∀ v : Bytes, Permitted s c 0x8040 2 v.length → v.length < 2 ^ 32 → ∃ t, exec (.unlockToken r v) s = .next t ∧
      match tokenCheck s v with
      | none => t.sec.unlock = some (field v 56 4, s.now + field v 60 4 * 10 ^ 9) ∧ t.sec.unlockNonce.length = 32 ∧ Written t r 0x8040 2 0 0 ∧
          (s.sec.unlock = none → Reported s t 0xC2 1) ∧ OnlyParts [.dict, .free, .integ, .obs, .out, .sec] s t
      | some (code, _) => t.sec.unlock = s.sec.unlock ∧ t.sec.unlockNonce = s.sec.unlockNonce ∧ Reported s t 0xC3 2 ∧ Aborted t r 0x8040 2 code ∧
          OnlyParts [.dict, .integ, .obs, .out, .sec] s t) ∧
    (Permitted s c 0x8041 0 1 → s.sec.scan = 0 → ∃ t, exec (.debugScanEnter r) s = .next t ∧ Written t r 0x8041 0 3 0 ∧
      (admittedDone s = false → t.sec.scan = 1 ∧ OnlyParts [.dict, .out, .sec] s t) ∧
      (admittedDone s = true → ledgersStopped s = true → t.sec.scan = 3 ∧ t.sec.keysCleared = true ∧ t.pow.fault = true)) ∧
    (Permitted s c 0x8050 0 serialBytes.length → s.pow.pwrfail = false → s.sec.zeroiseOpen = false → (∀ k < 4, tgetD s.sec.zeroCount k 0 < 64) →
      ∃ t, exec (.zeroise r serialBytes) s = .next t ∧ Written t r 0x8050 0 3 0 ∧ t.mem = s.mem ∧
        (admittedDone s = false → t.sec.zeroiseOpen = true ∧ t.sec.toBurn = [0, 1, 2, 3] ∧ t.sec.zeroCount = s.sec.zeroCount) ∧
        (admittedDone s = true → t.pow.zeroised = true ∧ t.sec.zeroiseOpen = false ∧ Reported s t 0xC5 2 ∧
          ∀ k < 4, dieUp s (16 + k) = true → tgetD t.sec.zeroCount k 0 = tgetD s.sec.zeroCount k 0 + 1 ∧ tget t.sec.ledgerKey k = none ∧
            (ledOf t k).state = 7))

/-- R198, R199, R233, R234, R310, R313: a sequencer's START, STOP and program, a pruned multicast member's re-join, and a forced resync.
It rests on choices and readings of the model: log entries 14, 46, 67, 73, 111 and 140. -/
def Obligations.SequencerAndGroupWritesComplete : Prop :=
  ∀ (s : State) (r : Req) (c : Caller), Speaks s r c →
    (∀ d : VatId, Permitted s c 0x3110 (d.val + 1) 1 → (seqOf s d.val).state ≠ 0 → (seqOf s d.val).state ≠ 2 →
        (seqOf s d.val).state ≠ 3 → vatOwner s.cfg d.val ≠ 0 → ∃ t, exec (.seqStart r d) s = .next t ∧ Written t r 0x3110 (d.val + 1) 0 0 ∧
      (writesOut s (· == .sequencer d.val) = false → (seqOf t d.val).state = 2 ∧ (seqOf t d.val).pc = 0 ∧ (seqOf t d.val).regs = [] ∧
        (seqOf t d.val).prog = (seqOf s d.val).prog) ∧
      (writesOut s (· == .sequencer d.val) = true → (seqOf t d.val).starting = true ∧ (seqOf t d.val).state = (seqOf s d.val).state) ∧
      (∀ e, e ≠ d.val → seqOf t e = seqOf s e) ∧ OnlyParts [.dict, .out, .vs] s t) ∧
    (∀ d : VatId, Permitted s c 0x3110 (d.val + 1) 1 → ∃ t, exec (.seqStop r d) s = .next t ∧
      ((seqOf s d.val).state = 3 → (seqOf t d.val).state = 4 ∧ (seqOf t d.val).wait = none ∧ Written t r 0x3110 (d.val + 1) 0 0) ∧
      ((seqOf s d.val).state = 2 → (seqOf s d.val).wait = none → (seqOf t d.val).state = 4 ∧ (seqOf t d.val).pc = (seqOf s d.val).pc ∧
        Written t r 0x3110 (d.val + 1) 0 0) ∧
      ((seqOf s d.val).state = 2 → (seqOf s d.val).wait ≠ none → (seqOf t d.val).stopping = true ∧ Written t r 0x3110 (d.val + 1) 0 0) ∧
      ((seqOf s d.val).state ≠ 2 → (seqOf s d.val).state ≠ 3 → seqOf t d.val = seqOf s d.val ∧ Aborted t r 0x3110 (d.val + 1) aStateConflict) ∧
      OnlyParts [.dict, .fab, .out, .vs] s t) ∧
    (∀ (d : VatId) (v : Bytes), Permitted s c (0x3100 + d.val) 0 v.length → programCheck v = none → vatDrained s d.val = true →
      (seqOf s d.val).state ≠ 2 → (seqOf s d.val).state ≠ 3 → overlayValue s.cfg s.tint (odKey (0x3100 + d.val) 0) = none →
      ∃ t, exec (.seqProgramLoad r d v) s = .next t ∧ (seqOf t d.val).state = 1 ∧ (seqOf t d.val).digest = sha384 v ∧
        (seqOf t d.val).prog.length = field v 4 4 ∧
        (∀ i < field v 4 4, (seqOf t d.val).prog[i]? = some (BitVec.ofNat 32 (field v (16 + 4 * i) 4))) ∧ tget t.part.programs d.val = some v ∧
        Written t r (0x3100 + d.val) 0 0 0 ∧ t.mem = s.mem) ∧
    (∀ (g : McGroupId) (d : VatId) (v : BitVec 16), v.toNat = g.toNat + d.val * 2 ^ 10 → Permitted s c 0x2514 0 2 → (mcOf s g.toNat).pruned.contains d.val = true →
      groupDenied c (mcPart (mcRecord s.ep.cur g.toNat)) = false → ∃ t, exec (.mcRejoin r v) s = .next t ∧
        (mcOf t g.toNat).generation = ((mcOf s g.toNat).generation + 1) % 1024 ∧ (mcOf t g.toNat).pruned.contains d.val = false ∧
        Written t r 0x2514 0 0 0 ∧ OnlyParts [.dict, .out, .vs] s t) ∧
    (∀ v : BitVec 16, v.toNat < 512 → Permitted s c 0x2515 0 2 → (redOf s v.toNat).resync = true →
      groupDenied c (redPart (redRecord s.ep.cur v.toNat)) = false → ∃ t, exec (.redForceResync r v) s = .next t ∧
        (redOf t v.toNat).resync = false ∧ (redOf t v.toNat).reports = [] ∧ (redOf t v.toNat).chunks = [] ∧ Written t r 0x2515 0 0 0 ∧
        OnlyParts [.dict, .fab, .integ, .mem, .obs, .out, .vs] s t)

/-- R353, R378, R390, R391: LOG_CLEAR, CROSSING_CLEAR and the writes of wall time. WALL_SET steps the mapping; RATE re-bases it without a step.
It rests on choices and readings of the model: log entries 14 and 69. -/
def Obligations.LogCrossingAndWallWritesComplete : Prop :=
  ∀ (s : State) (r : Req) (c : Caller), Speaks s r c →
    (Permitted s c 0x2603 0 1 → ∃ t, exec (.logClear r 1) s = .next t ∧ t.integ.log = [] ∧ t.integ.nextSeq = s.integ.nextSeq ∧
      t.integ.classCounts = s.integ.classCounts ∧ Written t r 0x2603 0 0 0 ∧ OnlyParts [.dict, .integ, .out] s t) ∧
    (∀ d : BitVec 8, Permitted s c 0x2834 0 1 → d.toNat < 20 → ∃ t, exec (.crossingClear r d) s = .next t ∧
      (∀ k b, (k, b) ∈ t.time.bounds → k < 65536 → dieOf (k / 8) = d.toNat → b.discont = false ∧ b.overrun = false) ∧
      t.obs.discont.contains d.toNat = false ∧ Written t r 0x2834 0 0 0 ∧ OnlyParts [.dict, .obs, .out, .time] s t) ∧
    (∀ wall ft : BitVec 64, Permitted s c 0x2860 1 16 → s.now ≤ ft.toNat + 10 ^ 9 → ft.toNat ≤ s.now + 10 ^ 9 → ∃ t, exec (.wallSet r wall ft) s = .next t ∧
      t.time.wallBase = wall.toNat ∧ t.time.ftBase = ft.toNat ∧ t.time.wallValid = true ∧ t.time.rate = s.time.rate ∧ t.now = s.now ∧
      Written t r 0x2860 1 0 0 ∧ OnlyParts [.dict, .out, .time] s t) ∧
    (∀ rate : BitVec 32, Permitted s c 0x2860 3 4 → overlayValue s.cfg s.tint (odKey 0x2860 3) = none →
      ∃ t, exec (.wallRate r rate) s = .next t ∧ t.time.rate = rate.toInt ∧ t.time.wallBase = wallAt s.time s.now ∧ t.time.ftBase = s.now ∧
        tget t.dict.rw (odKey 0x2860 3) = some (u32 rate.toNat) ∧ Written t r 0x2860 3 0 0 ∧ t.mem = s.mem ∧ t.integ = s.integ)

/-- R452, R458, R466: EPOCH_SWITCH and EPOCH_CANCEL, PARTITION_DRAIN and PARTITION_RESUME. A switch that passes the checks of Table 13.7 arms the pending
bank; one that fails a check records its code and stays IDLE.
It rests on choices and readings of the model: log entries 14, 106 and 107. -/
def Obligations.EpochAndPartitionWritesComplete : Prop :=
  ∀ (s : State) (r : Req) (c : Caller), Speaks s r c →
    (∀ goAt : BitVec 64, Permitted s c 0x5010 0 8 → s.ep.state = 0 → goAt.toNat ≤ s.now + 10 ^ 10 → ∃ t, exec (.epochSwitch r goAt) s = .next t ∧
      Written t r 0x5010 0 3 0 ∧ t.ep.cur = s.ep.cur ∧ t.ep.pend = s.ep.pend ∧
      (∀ code idx sub, armChecks s (nextBank s false) = some (code, idx, sub) → t.ep.state = 0 ∧ t.ep.result = code ∧ t.ep.failIndex = idx ∧
        t.ep.failSub = sub) ∧
      (armChecks s (nextBank s false) = none → t.ep.state = 1 ∧ t.ep.armed = some (nextBank s false) ∧ t.ep.goAt = goAt.toNat ∧
        t.ep.result = 0)) ∧
    (Permitted s c 0x5011 0 1 → s.ep.state = 1 ∨ s.ep.state = 2 → ∃ t, exec (.epochCancel r 1) s = .next t ∧ t.ep.state = 0 ∧ t.ep.armed = none ∧
      t.ep.result = aStateConflict ∧ t.ep.cur = s.ep.cur ∧ t.ep.pend = s.ep.pend ∧ Written t r 0x5011 0 0 0 ∧ OnlyParts [.dict, .ep, .fab, .out, .part] s t) ∧
    (∀ p : PartId, Permitted s c (0x5020 + p.val) 4 1 → p.val ≠ 0 → ∃ t, exec (.partitionDrain r p) s = .next t ∧
      partControl t p.val = (if partControl s p.val = 0 then 1 else partControl s p.val) ∧ (∀ q, q ≠ p.val → partControl t q = partControl s q) ∧
      Written t r (0x5020 + p.val) 4 0 0 ∧ OnlyParts [.dict, .out, .part] s t) ∧
    (∀ p : PartId, Permitted s c (0x5020 + p.val) 4 1 → p.val ≠ 0 → ∃ t, exec (.partitionResume r p) s = .next t ∧ partControl t p.val = 0 ∧
      (∀ q, q ≠ p.val → partControl t q = partControl s q) ∧ Written t r (0x5020 + p.val) 4 0 0 ∧ OnlyParts [.dict, .out, .part] s t)

/-- R494, R495, R505: the ledger's commands. FORMAT erases the media and starts a chain with a FORMAT seal at number 0; STOP takes nothing more; START
returns a STOPPED engine to READY; a release makes every number below a seal reclaimable.
It rests on choices and readings of the model: log entries 14 and 116. -/
def Obligations.LedgerWritesComplete : Prop :=
  ∀ (s : State) (r : Req) (c : Caller), Speaks s r c →
    (∀ (p : PortId) (n : BitVec 64), Permitted s c 0x6006 (p.val + 1) 8 → releaseOk s p.val n.toNat = true → ∃ t, exec (.journalRelease r p n) s = .next t ∧
      ((ledOf s p.val).state ≠ 3 → (chainOf t p.val).release = n.toNat ∧ ∀ q x, (q, x) ∈ (chainOf t p.val).recs → n.toNat ≤ q) ∧ Written t r 0x6006 (p.val + 1) 0 0 ∧
      OnlyParts [.dict, .integ, .led, .obs, .out] s t) ∧
    (∀ d : Deckle, Permitted s c 0x6003 (d.val + 1) 1 → formatOk s d.val (c.role == 4) = true → ∃ t, exec (.ledgerFormat r d) s = .next t ∧
      (ledOf t d.val).formatting = true ∧ (chainOf t d.val).next = 1 ∧ (∃ x, (chainOf t d.val).signing = some (0, x)) ∧
      tget t.sec.ledgerKey d.val = some (tgetD s.sec.zeroCount d.val 0) ∧ (∀ k, k ≠ d.val → ledOf t k = ledOf s k) ∧
      Written t r 0x6003 (d.val + 1) 3 0 ∧ OnlyParts [.dict, .led, .out, .port, .sec] s t) ∧
    (∀ d : Deckle, Permitted s c 0x6005 (d.val + 1) 1 → stopOk s d.val = true → ∃ t, exec (.ledgerStop r d) s = .next t ∧
      ((ledOf t d.val).stopping = true ∨ (ledOf t d.val).state = 5) ∧ Written t r 0x6005 (d.val + 1) 3 0 ∧
      OnlyParts [.dict, .integ, .led, .obs, .out] s t) ∧
    (∀ d : Deckle, Permitted s c 0x6005 (d.val + 1) 1 → (ledOf s d.val).state = 5 → ∃ t, exec (.ledgerStart r d) s = .next t ∧
      ((ledOf t d.val).state = 2 ∨ (ledOf t d.val).state = 3) ∧ Written t r 0x6005 (d.val + 1) 0 0 ∧ OnlyParts [.dict, .integ, .led, .obs, .out] s t)

/-- R538, R550, R552, R554, R559, R560: counters, capture buffers and snapshots.
It rests on choices and readings of the model: log entries 14, 48, 75 and 101. -/
def Obligations.ObservationWritesComplete : Prop :=
  ∀ (s : State) (r : Req) (c : Caller), Speaks s r c →
    (∀ d : BitVec 8, Permitted s c 0x7001 0 1 → d.toNat < 20 → ∃ t, exec (.counterClear r d) s = .next t ∧ tget t.obs.since d.toNat = some s.now ∧
      (∀ k x, (k, x) ∈ t.obs.router → dieOf (k / 240) ≠ d.toNat) ∧ t.obs.rings = s.obs.rings ∧ t.obs.buffers = s.obs.buffers ∧ Written t r 0x7001 0 0 0 ∧
      OnlyParts [.dict, .obs, .out] s t) ∧
    (∀ b : QueueId, Permitted s c (0x7060 + b.val) 2 1 →
      (∃ t, exec (.bufferArm r b) s = .next t ∧ (bufOf t b.val).state = 1 ∧ (bufOf t b.val).cfg = bufConfig s b.val ∧ (bufOf t b.val).reserve = [] ∧
        (∀ k, k ≠ b.val → bufOf t k = bufOf s k) ∧ Written t r (0x7060 + b.val) 2 0 0 ∧ OnlyParts [.dict, .obs, .out] s t) ∧
      (∃ t, exec (.bufferStop r b) s = .next t ∧ ((bufOf s b.val).state = 1 ∨ (bufOf s b.val).state = 2 → (bufOf t b.val).state = 3 ∧
          (bufOf t b.val).readable = true) ∧ ((bufOf s b.val).state = 0 ∨ (bufOf s b.val).state = 3 → bufOf t b.val = bufOf s b.val) ∧
        (∀ k, k ≠ b.val → bufOf t k = bufOf s k) ∧ Written t r (0x7060 + b.val) 2 0 0 ∧ OnlyParts [.dict, .obs, .out] s t) ∧
      (bufferTriggerOk s b.val = true → ∃ t, exec (.bufferTrigger r b) s = .next t ∧ (bufOf t b.val).state = 2 ∧ (bufOf t b.val).trigTick = s.now ∧
        (bufOf t b.val).cfg = (bufOf s b.val).cfg ∧ Reported s t 0xD1 1 ∧ Written t r (0x7060 + b.val) 2 0 0 ∧
        OnlyParts [.dict, .integ, .obs, .out] s t) ∧
      (∃ t, exec (.bufferDisarm r b) s = .next t ∧ (bufOf t b.val).state = 0 ∧ ((bufOf t b.val).readable = true → (bufOf s b.val).state ≠ 1) ∧
        (∀ k, k ≠ b.val → bufOf t k = bufOf s k) ∧ Written t r (0x7060 + b.val) 2 0 0 ∧ OnlyParts [.dict, .obs, .out] s t)) ∧
    (∀ (dies : BitVec 20) (ow : Bool) (tf : BitVec 64), Permitted s c 0x7090 0 16 → freezeAbort s dies.toNat ow tf.toNat = none →
      ∃ t, exec (.freezeCmd r dies ow tf) s = .next t ∧ t.obs.snapSeq = s.obs.snapSeq + 1 ∧
        (∀ d : Nat, bitAt dies.toNat d = true → d < 20 → ringUp s d = true → ∃ x, (snapOf t d).sent = some x ∧
          x.tf = (if tf = 0 then s.now + 20000 else tf.toNat) ∧ x.reason = 1 ∧ x.seq = s.obs.snapSeq + 1) ∧
        Written t r 0x7090 0 0 0 ∧ OnlyParts [.dict, .obs, .out] s t) ∧
    (∀ dies : BitVec 20, Permitted s c 0x7092 0 4 → ∃ t, exec (.snapshotRelease r dies) s = .next t ∧
      (∀ d : Nat, bitAt dies.toNat d = true → d < 20 → (snapOf s d).state = 2 → (snapOf t d).state = 0 ∧ (snapOf t d).records = []) ∧
      (∀ d : Nat, bitAt dies.toNat d = false ∨ (snapOf s d).state ≠ 2 → snapOf t d = snapOf s d) ∧ Written t r 0x7092 0 0 0 ∧
      OnlyParts [.dict, .obs, .out] s t)

/-- R606, R621 to R623, R628: rail setpoints, resets by command and firmware images.
It rests on choices and readings of the model: log entries 14, 47 and 86. -/
def Obligations.ResetAndFirmwareWritesComplete : Prop :=
  ∀ (s : State) (r : Req) (c : Caller), Speaks s r c →
    (∀ (k : RailId) (mv : BitVec 16), k.val < 17 → Permitted s c 0x9050 (k.val + 1) 2 → (if k.val = 16 then 750 else 650) ≤ mv.toNat → mv.toNat ≤ 900 →
      mv.toNat % 5 = 0 → ∃ (t : State) (effect : Nat), exec (.railSetpoint r k mv) s = .next t ∧ Written t r 0x9050 (k.val + 1) effect 0 ∧
        tget t.dict.rw (odKey 0x9050 (k.val + 1)) = some (u16 mv.toNat) ∧ t.mem = s.mem ∧ t.integ = s.integ ∧
        (effect = 0 → pmbusUp s = true → railWanted s k.val ≠ mv.toNat → (railOf s k.val).setpoint ≠ mv.toNat →
          (railOf t k.val).settle = some (mv.toNat, s.now + 2000000))) ∧
    (∀ f : BitVec 4, Permitted s c 0x9070 0 1 → s.pow.warm = 0 → s.pow.pwrfail = false → ∃ t, exec (.warmReset r f) s = .next t ∧ t.pow.warm = 1 ∧
      Reported s t 0xAA 1 ∧ Written t r 0x9070 0 3 0 ∧ OnlyParts [.dict, .integ, .obs, .out, .pow] s t) ∧
    (∀ (d : BitVec 8) (f : Bool), Permitted s c 0x9071 0 1 → dieResetAbort s c.role d.toNat = none → ∃ t, exec (.dieReset r d f) s = .next t ∧
      Written t r 0x9071 0 0 0 ∧ (d.toNat < 16 → tget t.pow.fw d.toNat = none ∧ t.led = s.led) ∧
      (16 ≤ d.toNat → t.pow.lost.contains d.toNat = false) ∧ t.sec.roles = s.sec.roles ∧ t.sec.floor = s.sec.floor) ∧
    (∀ v : BitVec 16, Permitted s c 0x9072 0 2 → islandResetAbort s c.role v.toNat = none → ∃ t, exec (.islandReset r v) s = .next t ∧
      Written t r 0x9072 0 0 0 ∧ OnlyParts [.dict, .ep, .fab, .integ, .led, .mem, .obs, .out, .port, .pow, .time, .vs] s t) ∧
    (∀ (image : Bytes) (f : BitVec 2), Permitted s c 0x9081 0 image.length → ∃ t, exec (.fwUpdate r image f) s = .next t ∧ t.pow.image = s.pow.image ∧
      (imageReason s.sec.floor image = 0 → Written t r 0x9081 0 3 0 ∧ (f = 0 → ∀ n x, (n, x) ∈ t.pow.nors → x.slotA = slotWritten (imageOf image) false) ∧
        OnlyParts [.dict, .integ, .obs, .out, .pow] s t) ∧
      (imageReason s.sec.floor image ≠ 0 → Aborted t r 0x9081 0 aValueOutOfRange ∧ t.pow = s.pow ∧ OnlyParts [.dict, .integ, .obs, .out, .sec] s t)) ∧
    (∀ f : BitVec 2, Permitted s c 0x9082 0 1 → bootImage s = 0 → ∃ t, exec (.fwCommitB r f) s = .next t ∧ Written t r 0x9082 0 3 0 ∧
      (f = 0 → ∀ n x, (n, x) ∈ t.pow.nors → x.slotB = slotWritten (tgetD s.pow.nors (mgmtDeckle s / 2) {}).slotA false) ∧
      OnlyParts [.dict, .integ, .obs, .out, .pow] s t)
/-- R396, R400 to R402, R405 to R407, R9: the host's queue registers and the staging window. A doorbell inside its queue latches a pointer and one
outside it is ignored, counted and logged; enabling and disabling follow QUEUE_CONFIG and the requests in flight; staging bytes read back.
It rests on choices and readings of the model: log entries 6 and 72. -/
def Obligations.PortQueueCommandsComplete : Prop :=
  ∀ (s : State) (p : PortId) (q : QueueId), barsUp s p.val = true →
    (∀ v : BitVec 16, (sqOf s p.val q.val).en = true → v.toNat < (sqOf s p.val q.val).size → ∃ t, exec (.sqDoorbell p q v) s = .next t ∧
      sqOf t p.val q.val = { sqOf s p.val q.val with tail := v.toNat } ∧ (∀ k, k ≠ q.val → sqOf t p.val k = sqOf s p.val k) ∧ OnlyParts [.port] s t) ∧
    (∀ v : BitVec 16, (sqOf s p.val q.val).en = false ∨ (sqOf s p.val q.val).size ≤ v.toNat → ∃ t, exec (.sqDoorbell p q v) s = .next t ∧
      (sqOf t p.val q.val).err = true ∧ (sqOf t p.val q.val).errCode = 1 ∧ (sqOf t p.val q.val).tail = (sqOf s p.val q.val).tail ∧ Reported s t 0x71 1) ∧
    (∀ v : BitVec 16, v.toNat < (cqOf s p.val q.val).size → ∃ t, exec (.cqDoorbell p q v) s = .next t ∧
      cqOf t p.val q.val = { cqOf s p.val q.val with hostHead := v.toNat } ∧ (∀ k, k ≠ q.val → cqOf t p.val k = cqOf s p.val k) ∧ OnlyParts [.port] s t) ∧
    (∀ v : BitVec 16, (cqOf s p.val q.val).size ≤ v.toNat → ∃ t, exec (.cqDoorbell p q v) s = .next t ∧ (cqOf t p.val q.val).err = true ∧
      (cqOf t p.val q.val).hostHead = (cqOf s p.val q.val).hostHead ∧ Reported s t 0x71 1) ∧
    ((sqOf s p.val q.val).en = false → sqActive s p.val q.val = false → qcAllowed (queueConfig (portBank s p.val) p.val q.val) = true →
      ∃ t, exec (.sqEnable p q) s = .next t ∧ sqOf t p.val q.val = { sqOf s p.val q.val with en := true, head := 0, tail := 0 } ∧
        (∀ k, k ≠ q.val → sqOf t p.val k = sqOf s p.val k) ∧ OnlyParts [.port] s t) ∧
    ((sqOf s p.val q.val).en = false → sqActive s p.val q.val = false → qcAllowed (queueConfig (portBank s p.val) p.val q.val) = false →
      ∃ t, exec (.sqEnable p q) s = .next t ∧ (sqOf t p.val q.val).en = false ∧ (sqOf t p.val q.val).err = true ∧ (sqOf t p.val q.val).errCode = 3) ∧
    (∃ t, exec (.sqDisable p q) s = .next t ∧ (sqOf t p.val q.val).en = false ∧ (sqOf t p.val q.val).head = (sqOf s p.val q.val).head ∧
      (∀ r ∈ (portOf s p.val).reqs, r.sq = q.val → r.orphan = false → r.stage = .fetched ∨ r.stage = .queued → Answered t p.val r.num 0x0109) ∧
      OnlyParts [.port] s t) ∧
    ((cqOf s p.val q.val).en = false → ∃ t, exec (.cqEnable p q) s = .next t ∧ (cqOf t p.val q.val).en = true ∧ (cqOf t p.val q.val).tail = 0 ∧
      (cqOf t p.val q.val).phase = true ∧ (cqOf t p.val q.val).hostHead = 0 ∧ (∀ k, k ≠ q.val → cqOf t p.val k = cqOf s p.val k) ∧ OnlyParts [.port] s t) ∧
    ((portOf s p.val).sqs.all (fun e => !(e.2.en && e.2.cq == q.val)) = true → ∃ t, exec (.cqDisable p q) s = .next t ∧
      cqOf t p.val q.val = { cqOf s p.val q.val with en := false } ∧ OnlyParts [.port] s t) ∧
    (∀ (off : BitVec 26) (data : Bytes), off.toNat + data.length ≤ 2 ^ 26 → Memory.wf (portOf s p.val).staging = true →
      ∃ t, exec (.stagingWrite p off data) s = .next t ∧ memRead (portOf t p.val).staging off.toNat data.length = data ∧
        (∀ a, a < off.toNat ∨ off.toNat + data.length ≤ a → memGet (portOf t p.val).staging a = memGet (portOf s p.val).staging a) ∧
        (portOf t p.val).sqs = (portOf s p.val).sqs ∧ OnlyParts [.port] s t)

/-- R319, R403, R408 to R412, R426: fetching a descriptor and a payload. HEAD advances with the fetch; a malformed, forbidden or misdirected request
is answered with its status; a payload whose CRC-32C differs from the descriptor's is refused; a good one is kept for classification, from host memory
or from the staging window.
It rests on choices and readings of the model: log entries 5, 32, 34, 72 and 134. -/
def Obligations.PortRequestCommandsComplete : Prop :=
  ∀ (s : State) (p : PortId),
    (∀ (q : QueueId) (err : TlpErr) (desc : Bytes), canFetch s p.val q.val = true → desc.length = 128 → ∃ t, exec (.descriptorFetch p q err desc) s = .next t ∧
      (sqOf t p.val q.val).head = ((sqOf s p.val q.val).head + 1) % (sqOf s p.val q.val).size ∧ (portOf t p.val).nextReq = (portOf s p.val).nextReq + 1 ∧
      t.mem = s.mem ∧ (err ≠ .good → Answered t p.val (portOf s p.val).nextReq 0x0101) ∧
      (err = .good → malformed desc = true → Answered t p.val (portOf s p.val).nextReq 0x0101 ∧ OnlyParts [.port] s t) ∧
      (err = .good → malformed desc = false → bitAt (queueConfig (portBank s p.val) p.val q.val) ((opcodeBit (descOpcode desc)).getD 0) = false →
        Answered t p.val (portOf s p.val).nextReq 0x0102) ∧
      (err = .good → malformed desc = false → bitAt (queueConfig (portBank s p.val) p.val q.val) ((opcodeBit (descOpcode desc)).getD 0) = true →
        descPart desc ≠ qcPart (queueConfig (portBank s p.val) p.val q.val) → Answered t p.val (portOf s p.val).nextReq 0x0103) ∧
      (err = .good → malformed desc = false → bitAt (queueConfig (portBank s p.val) p.val q.val) ((opcodeBit (descOpcode desc)).getD 0) = true →
        descPart desc = qcPart (queueConfig (portBank s p.val) p.val q.val) → fetchesPayload desc = true →
        ∃ r ∈ (portOf t p.val).reqs, r.num = (portOf s p.val).nextReq ∧ r.sq = q.val ∧ r.stage = .fetched ∧ r.desc = desc ∧ r.ready = false)) ∧
    (∀ (num : Nat) (r : Request) (data : Bytes), awaitsPayload s p.val num = some r → descStaged r.desc = false → data.length = descInLen r.desc →
      ∃ t, exec (.payloadFetch p num .good data) s = .next t ∧ t.mem = s.mem ∧
        (descCrcValid r.desc = true → crc32c data ≠ descCrc r.desc → Answered t p.val num 0x0104) ∧
        (descCrcValid r.desc = false ∨ crc32c data = descCrc r.desc →
          ∃ x ∈ (portOf t p.val).reqs, x.num = num ∧ x.ready = true ∧ x.payload = data ∧ x.crc = crc32c data)) ∧
    (∀ (num : Nat) (r : Request) (err : TlpErr) (data : Bytes), awaitsPayload s p.val num = some r → descStaged r.desc = false → err ≠ .good →
      ∃ t, exec (.payloadFetch p num err data) s = .next t ∧ Answered t p.val num 0x0105 ∧ t.mem = s.mem) ∧
    (∀ (num : Nat) (r : Request), awaitsPayload s p.val num = some r → descStaged r.desc = true →
      descCrcValid r.desc = false ∨ crc32c (memRead (portOf s p.val).staging (descInput r.desc) (descInLen r.desc)) = descCrc r.desc →
      (descOpcode r.desc = 1 → ∃ t, exec (.score p num) s = .next t ∧ OnlyParts [.port] s t ∧
        ∃ x ∈ (portOf t p.val).reqs, x.num = num ∧ x.ready = true ∧ x.payload = memRead (portOf s p.val).staging (descInput r.desc) (descInLen r.desc)) ∧
      (descOpcode r.desc = 2 → ∃ t, exec (.scoreReplay p num) s = .next t ∧ OnlyParts [.port] s t ∧
        ∃ x ∈ (portOf t p.val).reqs, x.num = num ∧ x.ready = true ∧ x.payload = memRead (portOf s p.val).staging (descInput r.desc) (descInLen r.desc)))

/-- R413 to R416, R570, R572: results. A DONE word for a LIVE context at or before its deadline makes it FINISHING with the outcome of R416; one after the
deadline finds it killed; any other is stale. A digest report of a watched point is kept with its context, and answered.
It rests on choices and readings of the model: log entries 14, 29 and 118. -/
def Obligations.ResultCommandsComplete : Prop :=
  ∀ (s : State) (p : PortId),
    (∀ (c : CtxId) (w : BitVec 64) (part : PartId) (r : Request), (ctxOf s p.val c.val).state = 1 →
      bits w.toNat 63 48 = ctxTag p.val c.val (ctxOf s p.val c.val).gen → part.val = (ctxOf s p.val c.val).partition → bits w.toNat 39 32 = 0 →
      ctxRequest s p.val (ctxOf s p.val c.val) = some r →
      (s.now ≤ (ctxOf s p.val c.val).deadline → ∃ t, exec (.doneWord p c w part) s = .next t ∧ (ctxOf t p.val c.val).state = 2 ∧
        (ctxOf t p.val c.val).endTick = s.now ∧ (∃ y, reqOf t p.val r.num = some y ∧ y.out = doneOutcome s p.val c.val w.toNat r) ∧ t.mem = s.mem ∧
        ((doneOutcome s p.val c.val w.toNat r).status = 0 → t.integ = s.integ)) ∧
      ((ctxOf s p.val c.val).deadline < s.now → ∃ t, exec (.doneWord p c w part) s = .next t ∧
        ((ctxOf t p.val c.val).state = 3 ∨ (ctxOf t p.val c.val).state = 4) ∧ (ctxOf t p.val c.val).fault = 0x10 ∧ Reported s t 0x72 1)) ∧
    (∀ (c : CtxId) (w : BitVec 64) (part : PartId), (ctxOf s p.val c.val).state ≠ 1 → ∃ t, exec (.doneWord p c w part) s = .next t ∧ Reported s t 0x72 1 ∧
      ctxOf t p.val c.val = ctxOf s p.val c.val ∧ OnlyParts [.integ, .obs, .port] s t) ∧
    (∀ (node : NodeId) (k : Packet) (u : State) (i : Nat), node.toNat = portFrontTile p.val → k.opcode = 6 → Accepts s node k false u → k.tagValid = true →
      tagPort k.tag.toNat = p.val → (ctxOf s p.val (tagCtx k.tag.toNat)).state = 1 → tagCurrent s k.tag.toNat = true →
      k.partition.toNat = (ctxOf s p.val (tagCtx k.tag.toNat)).partition → i < 3 →
      elemEn (watchElem (ctxOf s p.val (tagCtx k.tag.toNat)).watchRec i) = true →
      elemDie (watchElem (ctxOf s p.val (tagCtx k.tag.toNat)).watchRec i) = field k.payload 81 1 →
      elemPoint (watchElem (ctxOf s p.val (tagCtx k.tag.toNat)).watchRec i) = field k.payload 80 1 → ∃ (t : State) (x : OutPacket),
        exec (.digestReport node k) s = .next t ∧ tget (ctxOf t p.val (tagCtx k.tag.toNat)).digests i = some (slice k.payload 0 32) ∧
        x ∈ tgetD t.fab.waiting node.toNat [] ∧ x.pkt.opcode = 0x23 ∧ x.pkt.dest = k.src ∧ OnlyParts [.fab, .obs, .port] s t)

/-- R50, R343, R404 to R406, R418: a due completion is written into the next slot of its queue behind its result, and its request is gone; a completion of
a request that a reset has orphaned is discarded and logged; the coalescing timer sends what its count did not.
It rests on choices and readings of the model: log entries 13, 14, 35 and 118. -/
def Obligations.CompletionCommandsComplete : Prop :=
  ∀ (s : State) (p : PortId),
    (∀ (num : Nat) (r : Request), reqOf s p.val num = some r → r.stage = .completing → r.orphan = false → dieUp s (16 + p.val) = true → portUp s p.val = true →
      linkOk s p.val = true → orderOk s p.val r = true → cqFree (cqOf s p.val (sqOf s p.val r.sq).cq) = true →
      ∃ (t : State) (l : List Output), exec (.completionPost p num) s = .next t ∧ t.out = s.out ++ l ∧
        .hostWrite p.val ((cqOf s p.val (sqOf s p.val r.sq).cq).base + 64 * (cqOf s p.val (sqOf s p.val r.sq).cq).tail)
          (completionBytes r.out (descReqId r.desc) r.sq (sqOf s p.val r.sq).head (cqOf s p.val (sqOf s p.val r.sq).cq).phase) ∈ l ∧
        (r.out.output ≠ [] → .hostWrite p.val (descOutput r.desc) r.out.output ∈ l) ∧
        (cqOf t p.val (sqOf s p.val r.sq).cq).tail =
          ((cqOf s p.val (sqOf s p.val r.sq).cq).tail + 1) % (cqOf s p.val (sqOf s p.val r.sq).cq).size ∧ reqOf t p.val num = none ∧
        OnlyParts [.fab, .obs, .out, .port] s t) ∧
    (∀ (num : Nat) (r : Request), reqOf s p.val num = some r → r.stage = .completing → r.orphan = true → ∃ t, exec (.completionPost p num) s = .next t ∧
      reqOf t p.val num = none ∧ Reported s t 0x74 2 ∧ t.out = s.out ∧ OnlyParts [.integ, .obs, .port] s t) ∧
    (∀ q : QueueId, (cqOf s p.val q.val).en = true → (cqOf s p.val q.val).irqEn = true → 0 < (cqOf s p.val q.val).posted → 0 < (cqOf s p.val q.val).coalTime →
      ∃ t, exec (.cqInterruptTimer p q) s = .next t ∧ (cqOf t p.val q.val).posted = 0 ∧
        (cqOf s p.val q.val).firstAt + 100 * (cqOf s p.val q.val).coalTime ≤ t.now ∧ OnlyParts [.now, .out, .port] s t ∧
        ((portOf s p.val).msixEn = true → (portOf s p.val).funcMask = false → portUp s p.val = true →
          bitAt (tgetD (portOf s p.val).msix (cqOf s p.val q.val).vec (0, 0, 1)).2.2 0 = false →
          t.out = s.out ++ [.msix p.val (cqOf s p.val q.val).vec (tgetD (portOf s p.val).msix (cqOf s p.val q.val).vec (0, 0, 1)).1
            (tgetD (portOf s p.val).msix (cqOf s p.val q.val).vec (0, 0, 1)).2.1]))

/-- R393, R394, R419, R421: the port's resets, link and power states. Each reset clears the queues, counts a generation and closes the endpoint's
sessions, and keeps the staging window; FLR alone keeps the link.
It rests on choices and readings of the model: log entries 5 and 6. -/
def Obligations.PortResetAndLinkComplete : Prop :=
  ∀ (s : State) (p : PortId), dieUp s (16 + p.val) = true →
    ((portOf s p.val).perst = false → ∃ t, exec (.perstNAssert p) s = .next t ∧ (portOf t p.val).perst = true ∧ (portOf t p.val).up = false ∧
      (portOf t p.val).sqs = [] ∧ (portOf t p.val).cqs = [] ∧ (portOf t p.val).resetGen = (portOf s p.val).resetGen + 1 ∧
      (portOf t p.val).staging = (portOf s p.val).staging ∧ (∀ e ∈ t.dict.sessions, e.2.ep ≠ 2 + p.val) ∧ t.mem = s.mem) ∧
    ((portOf s p.val).up = true → (portOf s p.val).perst = false → ∃ t, exec (.functionLevelReset p) s = .next t ∧ (portOf t p.val).perst = false ∧
      (portOf t p.val).up = true ∧ (portOf t p.val).sqs = [] ∧ (portOf t p.val).cqs = [] ∧ (portOf t p.val).resetGen = (portOf s p.val).resetGen + 1 ∧
      (portOf t p.val).staging = (portOf s p.val).staging ∧ (∀ r ∈ (portOf t p.val).reqs, r.orphan = true ∧ r.stage ≠ .fetched ∧ r.stage ≠ .queued) ∧
      t.mem = s.mem) ∧
    ((portOf s p.val).up = true → ∃ t, exec (.dlDown p) s = .next t ∧ (portOf t p.val).up = false ∧ (portOf t p.val).perst = (portOf s p.val).perst ∧
      (portOf t p.val).sqs = [] ∧ (portOf t p.val).cqs = [] ∧ (portOf t p.val).resetGen = (portOf s p.val).resetGen + 1 ∧ t.mem = s.mem) ∧
    (∀ (rate : BitVec 3) (width : BitVec 5), (tget s.pow.fw (16 + p.val)).isSome = true → 1 ≤ rate.toNat → rate.toNat ≤ 5 →
      width = 1 ∨ width = 2 ∨ width = 4 ∨ width = 8 ∨ width = 16 → ∃ t, exec (.portLinkUp p rate width) s = .next t ∧ (portOf t p.val).up = true ∧
        (portOf t p.val).perst = false ∧ (portOf t p.val).d3hot = false ∧ (portOf t p.val).rate = Nat.min rate.toNat (setting s 0x4002 (p.val + 1)) ∧
        (portOf t p.val).width = width.toNat ∧ (portOf t p.val).sqs = (portOf s p.val).sqs ∧ t.mem = s.mem) ∧
    ((portOf s p.val).up = true → exec (.d3hotEntry p) s = .next (modPortOf s p.val fun x => { x with d3hot := true })) ∧
    exec (.d0Return p) s = .next (modPortOf s p.val fun x => { x with d3hot := false })
/-- R46, R48, R142, R143, R342, R347, R436 to R442, R445: the admission engine's timers and decisions. The head that decide chooses leaves its queue: a
service request executes, a scoring one takes a free context with its deadline; a context at its deadline is killed on every vat; windows, lists and
starved heads follow their ticks.
It rests on choices and readings of the model: log entries 13, 31, 113, 122 and 142. -/
def Obligations.AdmissionCommandsComplete : Prop :=
  ∀ (s : State) (p : PortId),
    (∀ (a pass : Nat) (u d : State) (r : Request), admitting s p.val = true → dieUp s (16 + p.val) = true → u = refuseQueued (decisionTick s p.val) p.val →
      (decideNow u p.val).1 = some (a, pass) → (decideNow u p.val).2 = d → headOf d p.val a = some r → ∃ t, exec (.admissionDecision p) s = .next t ∧
        t.mem = s.mem ∧ (r.scoring = false → ∃ x ∈ (portOf t p.val).reqs, x.num = r.num ∧ x.stage = .executing) ∧
        (∀ c b, r.scoring = true → freeCtx d p.val = some c → freeBuf d p.val a = some b → (ctxOf t p.val c).state = 1 ∧ (ctxOf t p.val c).req = r.num ∧
          (ctxOf t p.val c).partition = r.partition ∧ (ctxOf t p.val c).slot = r.slot ∧ (ctxOf t p.val c).requestId = descReqId r.desc ∧
          (ctxOf t p.val c).buf = b ∧
          (ctxOf t p.val c).deadline = (ctxOf t p.val c).admitTick + 1000 * setting s 0x3460 (r.partition + 1))) ∧
    (∀ c : CtxId, (ctxOf s p.val c.val).state = 1 → ∃ t, exec (.contextDeadline p c) s = .next t ∧ (ctxOf s p.val c.val).deadline ≤ t.now ∧
      ((ctxOf t p.val c.val).state = 3 ∨ (ctxOf t p.val c.val).state = 4) ∧ (ctxOf t p.val c.val).fault = 0x10 ∧
      (admOf t p.val).deadlineFaults = (admOf s p.val).deadlineFaults + 1 ∧
      (∀ d ∈ partVats s.cfg (ctxOf s p.val c.val).partition, dieUp s d = true → ∃ o ∈ tgetD t.fab.waiting (admissionTile p.val) [],
        o.pkt.opcode = 0x45 ∧ o.pkt.dest = BitVec.ofNat 12 (schedTile d) ∧ o.pkt.tagValid = true ∧
        o.pkt.tag.toNat = ctxTag p.val c.val (ctxOf s p.val c.val).gen)) ∧
    (∀ (c : CtxId) (v : VatId), (ctxOf s p.val c.val).kills.contains v.val = true →
      (∃ (t : State) (o : OutPacket), exec (.killRepeat p c v) s = .next t ∧ (ctxOf s p.val c.val).killLast + 2000 ≤ t.now ∧
        (ctxOf t p.val c.val).killLast = t.now ∧ o ∈ tgetD t.fab.waiting (admissionTile p.val) [] ∧ o.pkt.opcode = 0x45 ∧
        o.pkt.dest = BitVec.ofNat 12 (schedTile v.val) ∧ OnlyParts [.fab, .now, .port] s t) ∧
      (∃ t, exec (.killLost p c v) s = .next t ∧ (ctxOf s p.val c.val).killAt + 10 ^ 6 ≤ t.now ∧ (ctxOf t p.val c.val).kills.contains v.val = false ∧
        ((ctxOf s p.val c.val).partition ≠ 0 → (tget t.integ.failed (ctxOf s p.val c.val).partition).isSome = true) ∧ Reported s t 0x62 3)) ∧
    (∀ (a : AqId) (w : Nat), nextOpen s p.val a.val = some w → ∃ t, exec (.gateWindowOpen p a) s = .next t ∧ w ≤ t.now ∧
      (aqOf t p.val a.val).cur = w ∧ (aqOf t p.val a.val).first = true ∧ (aqOf t p.val a.val).items = (aqOf s p.val a.val).items ∧
      OnlyParts [.now, .port] s t) ∧
    (∀ w, (admOf s p.val).switchAt = some w → ∃ t, exec (.gateListSwitch p) s = .next t ∧ w ≤ t.now ∧ (admOf t p.val).switchAt = none ∧
      (admOf t p.val).oldList = none ∧ (admOf t p.val).listFrom = w ∧
      (∀ r ∈ (portOf s p.val).reqs, r.stage = .queued → windowRefused t p.val r.aq r.dur (gateList t p.val) = true → Answered t p.val r.num 0x0112) ∧
      OnlyParts [.integ, .now, .obs, .port] s t) ∧
    (∀ (a : AqId) (r : Request) (w : Tick), headOf s p.val a.val = some r → r.headSince = some w → r.starved = false → ∃ t, exec (.headStarved p a) s = .next t ∧
      w + 10 ^ 6 ≤ t.now ∧ (∃ x ∈ (portOf t p.val).reqs, x.num = r.num ∧ x.starved = true) ∧ Reported s t 0x7A 1 ∧ OnlyParts [.integ, .now, .obs, .port] s t)

/-- R498 to R502, R508: records, seals and the tail page. The record of a context that has left LIVE is accepted or discarded; a signed seal is chained
at the next number; the tail flush queues the page that chaining has not completed.
It rests on choices and readings of the model: log entries 29, 112, 114 and 135. -/
def Obligations.JournalCommandsComplete : Prop :=
  ∀ (s : State) (p : PortId),
    (∀ (c : CtxId) (r : Request), recordAct s p.val (ctxOf s p.val c.val) = .accept → ctxRequest s p.val (ctxOf s p.val c.val) = some r →
      ∃ t, exec (.recordAccept p c) s = .next t ∧ (ctxOf t p.val c.val).record = true ∧ (ctxOf t p.val c.val).state = (ctxOf s p.val c.val).state ∧
        OnlyParts [.integ, .led, .obs, .port] s t) ∧
    (∀ c : CtxId, recordAct s p.val (ctxOf s p.val c.val) = .discard → ∃ t, exec (.recordAccept p c) s = .next t ∧ (ctxOf t p.val c.val).norecord = true ∧
      (ctxOf t p.val c.val).record = (ctxOf s p.val c.val).record ∧ OnlyParts [.integ, .led, .obs, .port] s t) ∧
    (∀ (q : Nat) (r : Bytes), (chainOf s p.val).signing = some (q, r) → engineUp s p.val = true → field r 0 1 = 2 → r.length = 256 →
      ∃ (t : State) (x : Bytes), exec (.sealSigned p) s = .next t ∧ tget (chainOf t p.val).recs (chainOf s p.val).chained = some x ∧
        x.take 128 = r.take 128 ∧ x.drop 224 = r.drop 224 ∧ (chainOf s p.val).chained < (chainOf t p.val).chained ∧
        OnlyParts [.integ, .led, .obs] s t) ∧
    (∀ (d : Deckle) (w : Tick), (chainOf s d.val).tailSince = some w → (ledOf s d.val).state = 2 ∨ (ledOf s d.val).state = 3 →
      sectorMask (chainOf s d.val) ((chainOf s d.val).chained / 64) ≠ 0 → ∃ (t : State) (j : PageJob), exec (.tailFlush d) s = .next t ∧
        w + 10 ^ 6 * setting s 0x6009 0 ≤ t.now ∧ (ledOf t d.val).jobs = (ledOf s d.val).jobs ++ [j] ∧ j.volume = 2 ∧
        j.logical = 4 * ((chainOf s d.val).chained / 64) ∧ (chainOf t d.val).tailSince = none ∧ OnlyParts [.led, .now] s t)

/-- R504, R510 to R514, Table 14.2, Table 14.14: the journal's and the archive's service requests. One that its engine serves is answered at once where
no page lies on NAND, and otherwise starts the reads or programs it needs; one that it does not serve is answered with its status.
It rests on choices and readings of the model: log entries 36 and 37. -/
def Obligations.LedgerServiceRequestsComplete : Prop :=
  ∀ (s : State) (p : PortId) (num : Nat) (r : Request), r.started = false →
    (∀ q, serviceReq s p.val num 0x20 = some r → q = bits (descArg r.desc 1) 1 0 →
      (partOwnsPort (portBank s p.val).cfg r.partition q = false → bitAt (bankNat (portBank s p.val) 0x6007 (q + 1)) p.val = false →
        ∃ t, exec (.journalRead p num) s = .next t ∧ Answered t p.val num 0x0305 ∧ OnlyParts [.port] s t) ∧
      (partOwnsPort (portBank s p.val).cfg r.partition q = true ∨ bitAt (bankNat (portBank s p.val) 0x6007 (q + 1)) p.val = true → dieUp s (16 + q) = true → (ledOf s q).state = 2 ∨ (ledOf s q).state = 3 →
        (chainOf s q).release ≤ descArg r.desc 0 → (chainOf s q).lost = [] →
        (recordPages (ledOf s q) (recordsFrom (chainOf s q) (descArg r.desc 0) (descArg r.desc 2)) = [] →
          ∃ (t : State) (x : Request), exec (.journalRead p num) s = .next t ∧ Answered t p.val num 0 ∧ reqOf t p.val num = some x ∧
            x.out.output = (recordsFrom (chainOf s q) (descArg r.desc 0) (descArg r.desc 2)).flatMap (fun e => padTo e.2 256) ∧ OnlyParts [.port] s t) ∧
        (recordPages (ledOf s q) (recordsFrom (chainOf s q) (descArg r.desc 0) (descArg r.desc 2)) ≠ [] →
          ∃ t, exec (.journalRead p num) s = .next t ∧ OnlyParts [.led, .port] s t ∧
            (ledOf t q).reads.length = (ledOf s q).reads.length +
              (recordPages (ledOf s q) (recordsFrom (chainOf s q) (descArg r.desc 0) (descArg r.desc 2))).length))) ∧
    (∀ st x, archiveDoor s p.val = .refused st x →
      (serviceReq s p.val num 0x21 = some r → ∃ t, exec (.archiveWrite p num) s = .next t ∧ Answered t p.val num st ∧ OnlyParts [.port] s t) ∧
      (serviceReq s p.val num 0x22 = some r → ∃ t, exec (.archiveRead p num) s = .next t ∧ Answered t p.val num st ∧ OnlyParts [.port] s t) ∧
      (serviceReq s p.val num 0x23 = some r → ∃ t, exec (.archiveDiscard p num) s = .next t ∧ Answered t p.val num st ∧ OnlyParts [.port] s t)) ∧
    (serviceReq s p.val num 0x21 = some r → archiveDoor s p.val = .served →
      descInLen r.desc / 16384 ≤ (freeBlocks s p.val false - stripeWidth s p.val) *
        ((s.led.fitted.filter (fun t => t.chan / 2 == p.val && targetFits t)).map (·.pages)).foldl Nat.max 0 →
      ∃ (t : State) (l : List PageJob), exec (.archiveWrite p num) s = .next t ∧ (ledOf t p.val).jobs = (ledOf s p.val).jobs ++ l ∧
        l.length = descInLen r.desc / 16384 ∧ (∀ j ∈ l, j.volume = 4 ∧ j.partition = r.partition) ∧ OnlyParts [.led, .port] s t) ∧
    (serviceReq s p.val num 0x22 = some r → archiveDoor s p.val = .served → r.got = [] → 8 ≤ descInLen r.desc → descInLen r.desc ≤ 2048 →
      (inVolumeA s p.val (field (requestBytes s p.val r) 0 8) = false → ∃ t, exec (.archiveRead p num) s = .next t ∧ Answered t p.val num 0x0305 ∧
        OnlyParts [.port] s t) ∧
      (∀ g, inVolumeA s p.val (field (requestBytes s p.val r) 0 8) = true →
        tget (ledOf s p.val).pages (remapped (ledOf s p.val) (field (requestBytes s p.val r) 0 8)) = some g → g.torn = false → g.md.volume = 4 →
        g.bad = false → g.md.partition = r.partition → ∃ t, exec (.archiveRead p num) s = .next t ∧ (ledOf t p.val).reads =
          (ledOf s p.val).reads ++ [(remapped (ledOf s p.val) (field (requestBytes s p.val r) 0 8), 0, .archive (1000000 * p.val + num) 0)] ∧
        OnlyParts [.led, .port] s t)) ∧
    (serviceReq s p.val num 0x23 = some r → archiveDoor s p.val = .served → descInLen r.desc = 8 →
      inVolumeA s p.val (field (requestBytes s p.val r) 0 8) = true → ∃ t, exec (.archiveDiscard p num) s = .next t ∧ Answered t p.val num 0 ∧
        (blockOf (ledOf t p.val) (ppaBlock (remapped (ledOf s p.val) (field (requestBytes s p.val r) 0 8)))).valid =
          (blockOf (ledOf s p.val) (ppaBlock (remapped (ledOf s p.val) (field (requestBytes s p.val r) 0 8)))).valid - 1 ∧
        OnlyParts [.led, .port] s t) ∧
    (serviceReq s p.val num 0x24 = some r → archiveDoor s (ppaChan (descArg r.desc 0) / 2) = .served → ∃ (t : State) (x : Request),
      exec (.mapDump p num) s = .next t ∧ Answered t p.val num 0 ∧ reqOf t p.val num = some x ∧
        x.out.output = ((mapEntries s (ppaChan (descArg r.desc 0) / 2) r.partition (descArg r.desc 0)).take (descOutLen r.desc / 32)).flatMap mapEntryBytes ∧
        OnlyParts [.port] s t)

/-- R487, R489, R502, R510, R516 to R522, R524: what the NAND reports. A programmed page holds its job's data and volume, and a failed program or erase
retires the block; an erased block holds no page; a read records its level and bits, is retried, or marks its page; patrol and garbage collection take
the block they are told.
It rests on choices and readings of the model: log entries 5, 115 and 117. -/
def Obligations.NandCommandsComplete : Prop :=
  ∀ (s : State) (d : Deckle) (ppa : BitVec 32),
    (∀ (i : Nat) (j : PageJob) (u : State), canProgram s d.val ppa.toNat = true → (ledOf s d.val).jobs.findIdx? (jobFits s d.val ppa.toNat) = some i →
      (ledOf s d.val).jobs[i]? = some j → openBlock s d.val (ppaBlock ppa.toNat) j = some u →
      (∃ (t : State) (g : NandPage), exec (.nandProgramComplete d ppa true) s = .next t ∧ tget (ledOf t d.val).pages ppa.toNat = some g ∧ g.data = j.data ∧
        g.md.volume = j.volume ∧ g.md.logical = j.logical ∧ g.torn = false ∧ g.bad = false ∧ t.mem = s.mem) ∧
      (∃ t, exec (.nandProgramComplete d ppa false) s = .next t ∧ (ledOf t d.val).retired.contains (ppaBlock ppa.toNat) = true ∧ t.mem = s.mem)) ∧
    ((tget (ledOf s d.val).erasing (ppaBlock ppa.toNat)).isSome = true → (ledOf s d.val).state ≠ 6 → dieUp s (16 + d.val) = true →
      (∃ t, exec (.nandEraseComplete d ppa true) s = .next t ∧ tget (ledOf t d.val).erasing (ppaBlock ppa.toNat) = none ∧
        (∀ e ∈ (ledOf t d.val).pages, ppaBlock e.1 ≠ ppaBlock ppa.toNat) ∧
        (blockOf (ledOf t d.val) (ppaBlock ppa.toNat)).erases = (blockOf (ledOf s d.val) (ppaBlock ppa.toNat)).erases + 1 ∧
        (blockOf (ledOf t d.val) (ppaBlock ppa.toNat)).cls = 0 ∧ OnlyParts [.integ, .led, .obs] s t) ∧
      (∃ t, exec (.nandEraseComplete d ppa false) s = .next t ∧ (ledOf t d.val).retired.contains (ppaBlock ppa.toNat) = true ∧
        tget (ledOf t d.val).erasing (ppaBlock ppa.toNat) = none ∧ (ledOf t d.val).pages = (ledOf s d.val).pages ∧ OnlyParts [.integ, .led, .obs] s t)) ∧
    (∀ (level : BitVec 4) (bits : BitVec 16) (what : ReadFor) (u : State) (g : NandPage), (ledOf s d.val).state ≠ 6 → dieUp s (16 + d.val) = true →
      (ledOf s d.val).down.contains (ppaChan ppa.toNat % 2) = false →
      (ledOf s d.val).reads.find? (fun e => e.1 == ppa.toNat && e.2.1 == level.toNat) = some (ppa.toNat, level.toNat, what) →
      suspendErase s d.val ppa.toNat = some u → tget (ledOf s d.val).pages ppa.toNat = some g →
      (∃ (t : State) (h : NandPage), exec (.nandReadComplete d ppa level bits true) s = .next t ∧ tget (ledOf t d.val).pages ppa.toNat = some h ∧
        h.bits = bits.toNat ∧ h.level = level.toNat ∧ h.data = g.data ∧ h.md = g.md ∧ t.mem = s.mem) ∧
      (∃ t, exec (.nandReadComplete d ppa level bits false) s = .next t ∧ t.mem = s.mem ∧
        (level.toNat < retryLevels s → (ppa.toNat, level.toNat + 1, what) ∈ (ledOf t d.val).reads ∧ (ledOf t d.val).pages = (ledOf s d.val).pages) ∧
        (retryLevels s ≤ level.toNat → ∃ h, tget (ledOf t d.val).pages ppa.toNat = some h ∧ h.bad = true ∧ h.data = g.data))) ∧
    (∀ (level : BitVec 4) (bits : BitVec 16) (good : Bool) (g : NandPage), (ledOf s d.val).state = 2 ∨ (ledOf s d.val).state = 3 →
      dieUp s (16 + d.val) = true → tget (ledOf s d.val).pages ppa.toNat = some g → (ledOf s d.val).retired.contains (ppaBlock ppa.toNat) = false →
      (ledOf s d.val).down.contains (ppaChan ppa.toNat % 2) = false → ∃ t, exec (.patrolRead d ppa level bits good) s = .next t ∧
        ((ledOf t d.val).patrolled.contains ppa.toNat = true ∨ (ledOf t d.val).patrolled = []) ∧
        (good = false → ∃ h, tget (ledOf t d.val).pages ppa.toNat = some h ∧ h.bad = true) ∧
        (good = true → (ledOf t d.val).pages = (ledOf s d.val).pages) ∧ OnlyParts [.integ, .led, .obs] s t) ∧
    ((ledOf s d.val).state = 2 ∨ (ledOf s d.val).state = 3 → dieUp s (16 + d.val) = true → (targetOf s d.val (ppaBlock ppa.toNat)).isSome = true →
      (ledOf s d.val).retired.contains (ppaBlock ppa.toNat) = false → tget (ledOf s d.val).erasing (ppaBlock ppa.toNat) = none →
      (blockOf (ledOf s d.val) (ppaBlock ppa.toNat)).cls = 4 ∨ (isJ (ledOf s d.val) (ppaBlock ppa.toNat) = false ∧
        (blockOf (ledOf s d.val) (ppaBlock ppa.toNat)).cls = 1 ∧ (blockOf (ledOf s d.val) (ppaBlock ppa.toNat)).valid = 0 ∧
        (blockOf (ledOf s d.val) (ppaBlock ppa.toNat)).parity = false ∧ (blockOf (ledOf s d.val) (ppaBlock ppa.toNat)).stripe = none ∧
        tget (ledOf s d.val).remap (ppaBlock ppa.toNat) = none) →
      ∃ t, exec (.garbageCollect d ppa) s = .next t ∧ tget (ledOf t d.val).erasing (ppaBlock ppa.toNat) = some 0 ∧
        (ledOf t d.val).pages = (ledOf s d.val).pages ∧ OnlyParts [.led] s t) ∧
    ((ledOf s d.val).state = 2 ∨ (ledOf s d.val).state = 3 → dieUp s (16 + d.val) = true → (targetOf s d.val (ppaBlock ppa.toNat)).isSome = true →
      gcCandidate (ledOf s d.val) (ppaBlock ppa.toNat) (blockOf (ledOf s d.val) (ppaBlock ppa.toNat)) = true →
      ∃ t, exec (.garbageCollect d ppa) s = .next t ∧ (ledOf t d.val).pages = (ledOf s d.val).pages ∧ OnlyParts [.led] s t ∧
        (setting s 0x600C 1 ≤ freeBlocks s d.val true → setting s 0x600C 2 ≤ freeBlocks s d.val true → (ledOf t d.val).collecting = false ∧
          (ledOf t d.val).jobs = (ledOf s d.val).jobs) ∧
        (freeBlocks s d.val true < setting s 0x600C 1 → (ledOf t d.val).collecting = true ∧
          (blockValid (ledOf s d.val) (ppaBlock ppa.toNat) = 0 → copiesSafe (ledOf s d.val) (ppaBlock ppa.toNat) = true →
            tget (ledOf t d.val).erasing (ppaBlock ppa.toNat) = some 0)))

/-- R507, R526 to R533: scans, health, temperatures and channels. The volume J scan builds the RECOVERY seal at the chain's end; the volume A scan takes
remaps from metadata; the health record and the temperature histories are updated; a failed channel is logged, and the second leaves the engine DOWN.
It rests on choices and readings of the model: log entries 5, 13, 119 and 136. -/
def Obligations.LedgerUpkeepComplete : Prop :=
  ∀ (s : State) (d : Deckle), dieUp s (16 + d.val) = true →
    ((ledOf s d.val).state = 1 → (ledOf s d.val).startSeal = none → ∃ (t : State) (x : Bytes), exec (.volumeJScanEnd d) s = .next t ∧
      (ledOf t d.val).startSeal = some (scannedChain (chainOf s d.val)).chained ∧ (ledOf t d.val).scanA = true ∧
      (chainOf t d.val).signing = some ((scannedChain (chainOf s d.val)).chained, x) ∧
      (chainOf t d.val).next = (scannedChain (chainOf s d.val)).chained + 1 ∧ (chainOf t d.val).recs = (scannedChain (chainOf s d.val)).recs ∧
      ((ledOf s d.val).clean = false → (ledOf s d.val).flushLate = 0 → Reported s t 0x8D 2) ∧ OnlyParts [.integ, .led, .obs] s t) ∧
    ((ledOf s d.val).scanA = true → (ledOf s d.val).state = 2 ∨ (ledOf s d.val).state = 3 → ∃ t, exec (.volumeAScanEnd d) s = .next t ∧
      (ledOf t d.val).scanA = false ∧ (ledOf t d.val).remap = scannedRemap (ledOf s d.val) ∧ (ledOf t d.val).pages = (ledOf s d.val).pages ∧
      (ledOf t d.val).chain = (ledOf s d.val).chain ∧ OnlyParts [.led] s t) ∧
    ((ledOf s d.val).formatted = true → (ledOf s d.val).state ≠ 6 → ∃ t, exec (.healthUpdate d) s = .next t ∧
      (ledOf t d.val).report = healthBytes s d.val ∧ (ledOf t d.val).chain = (ledOf s d.val).chain ∧
      (10 ≤ field (healthBytes s d.val) 0 1 → 10 ≤ field (healthBytes s d.val) 1 1 → OnlyParts [.led] s t)) ∧
    (∀ x : Int, d ≠ 0 → (ledOf s d.val).formatted = true → -40 ≤ x → x < 120 → ∃ t, exec (.temperatureMinute d [x] []) s = .next t ∧
      tgetD (tgetD t.led.history (16 + d.val) {}).bins (((x + 40) / 5).toNat) 0 =
        tgetD (tgetD s.led.history (16 + d.val) {}).bins (((x + 40) / 5).toNat) 0 + 1 ∧ t.led.engines = s.led.engines ∧ OnlyParts [.led] s t) ∧
    (∀ c : ChanId, c.val / 2 = d.val → (ledOf s d.val).down.contains (c.val % 2) = false → ∃ t, exec (.channelFailed c) s = .next t ∧
      (ledOf t d.val).down = (ledOf s d.val).down ++ [c.val % 2] ∧ ((ledOf s d.val).down = [] → (ledOf t d.val).state = (ledOf s d.val).state ∧
        Reported s t 0x8E 2) ∧
      ((ledOf s d.val).down = [1 - c.val % 2] → (ledOf s d.val).state = 2 → (ledOf t d.val).state = 4 ∧ (ledOf t d.val).downFrom = 2)) ∧
    (∀ c : ChanId, c.val / 2 = d.val → (ledOf s d.val).down.contains (c.val % 2) = true → ∃ t, exec (.channelReturn c) s = .next t ∧
      (ledOf t d.val).down.contains (c.val % 2) = false ∧ ((ledOf s d.val).state = 4 → (ledOf s d.val).downFrom = 2 → (ledOf t d.val).state = 2 ∨
        (ledOf t d.val).state = 3) ∧ ((ledOf s d.val).state ≠ 4 → (ledOf t d.val).state = (ledOf s d.val).state))

/-- R128 to R132, Table 4.2: a sync operation that its windows allow reaches its cell. READ, ADD, SET, WAIT, ARRIVE_WAIT and CONFIGURE have the effect
and the RESULT that the cell's mode gives them; a reserved OP answers MISUSE; a waiter that finds 64 before it is parked.
It rests on choices and readings of the model: log entries 24, 25 and 120. -/
def Obligations.SyncOperationsComplete : Prop :=
  ∀ (s u : State) (node : NodeId) (p : Packet) (k v : Nat) (x : Cell), SyncAt s node p k u → v = leNat p.payload → x = cellOf s k →
    (opCode v = 0 → ∃ t, exec (.syncRead node p) s = .next t ∧ Performed s t p k x.count x.threshold x.mode x.phase 0) ∧
    (6 ≤ opCode v → ∃ t, exec (.syncRead node p) s = .next t ∧ Performed s t p k x.count x.threshold x.mode x.phase 0x10) ∧
    (opCode v = 1 → x.mode = 0 → ∃ t, exec (.syncAdd node p) s = .next t ∧
      Performed s t p k ((x.count + opValue v) % 2 ^ 32) x.threshold x.mode x.phase 0) ∧
    (opCode v = 1 → x.mode = 1 → 1 ≤ opValue v → opValue v ≤ x.threshold →
      (x.count + opValue v < x.threshold → ∃ t, exec (.syncAdd node p) s = .next t ∧
        Performed s t p k (x.count + opValue v) x.threshold x.mode x.phase 0) ∧
      (x.threshold ≤ x.count + opValue v → ∃ t, exec (.syncAdd node p) s = .next t ∧
        Performed s t p k (x.count + opValue v - x.threshold) x.threshold x.mode ((x.phase + 1) % 65536) 0)) ∧
    (opCode v = 1 → 2 ≤ x.mode ∨ x.mode = 1 ∧ (opValue v = 0 ∨ x.threshold < opValue v) → ∃ t, exec (.syncAdd node p) s = .next t ∧
      Performed s t p k x.count x.threshold x.mode x.phase 0x10) ∧
    (opCode v = 2 → x.mode ≠ 1 → ∃ t, exec (.syncSet node p) s = .next t ∧ Performed s t p k (opValue v) x.threshold x.mode x.phase 0) ∧
    (opCode v = 2 → x.mode = 1 → ∃ t, exec (.syncSet node p) s = .next t ∧ Performed s t p k x.count x.threshold x.mode x.phase 0x10) ∧
    (opCode v = 3 → x.holds (opCond v) = true → ∃ t, exec (.syncWait node p) s = .next t ∧
      Performed s t p k x.count x.threshold x.mode x.phase 1) ∧
    (opCode v = 3 → x.holds (opCond v) = false → x.waiters.length < 64 → ∃ t, exec (.syncWait node p) s = .next t ∧
      Queued s t p k x.count x.phase (opCond v)) ∧
    (opCode v = 3 → x.holds (opCond v) = false → 64 ≤ x.waiters.length → ∃ t, exec (.syncWait node p) s = .next t ∧
      Sent t (cellTile k) 0x21 p.src.toNat (syncRsp (cellState x) (cellOf t k).opseq 2) ∧
      tget (cellOf t k).mask (dieOf p.src.toNat) = some (cellOf t k).opseq ∧ CellSettled s t k) ∧
    (opCode v = 4 → x.mode = 1 → 1 ≤ opValue v → opValue v ≤ x.threshold →
      (x.threshold ≤ x.count + opValue v → ∃ t, exec (.syncArriveWait node p) s = .next t ∧
        Performed s t p k (x.count + opValue v - x.threshold) x.threshold x.mode ((x.phase + 1) % 65536) 1) ∧
      (x.count + opValue v < x.threshold → x.waiters.length < 64 → ∃ t, exec (.syncArriveWait node p) s = .next t ∧
        Queued s t p k (x.count + opValue v) x.phase { opCond v with phase := x.phase })) ∧
    (opCode v = 4 → x.mode ≠ 1 ∨ opValue v = 0 ∨ x.threshold < opValue v → ∃ t, exec (.syncArriveWait node p) s = .next t ∧
      Performed s t p k x.count x.threshold x.mode x.phase 0x10) ∧
    (opCode v = 5 → opMode v = 3 ∨ opMode v = 1 ∧ opValue v = 0 → ∃ t, exec (.syncConfigure node p) s = .next t ∧
      Performed s t p k x.count x.threshold x.mode x.phase 0x10) ∧
    (opCode v = 5 → opMode v ≠ 3 → (opMode v = 1 → opValue v ≠ 0) → x.waiters ≠ [] ∨ x.mask ≠ [] → ∃ t, exec (.syncConfigure node p) s = .next t ∧
      Performed s t p k x.count x.threshold x.mode x.phase 0x11) ∧
    (opCode v = 5 → opMode v ≠ 3 → (opMode v = 1 → opValue v ≠ 0) → x.waiters = [] → x.mask = [] → ∃ t, exec (.syncConfigure node p) s = .next t ∧
      Performed s t p k 0 (opValue v) (opMode v) ((x.phase + 1) % 65536) 0)

/-- R124, R132 to R137, R140, R143, R144, R217, R224, R225: what waits see of their cells, and KILL. A response or a NOTIFY ends the wait of the fibre or sequencer that it answers; UNPARK
clears a die's mask bit; a cell with a mask notifies again; a refused wait goes again; a wait at its limit faults or traps. A vat
that takes a KILL holds no fibre and no request-queue entry of its tag, keeps the kill record and answers KILL_DONE, which its admission engine counts.
It rests on choices and readings of the model: log entries 13, 20, 25, 122 and 141. -/
def Obligations.SyncWaitsAndKillsComplete : Prop :=
  ∀ (s u : State) (node : NodeId) (p : Packet) (v : Nat), v = leNat p.payload →
    (∀ (cd c off d slice slot k op since : Nat) (cnd : WaitCond) (ret : Option Nat) (w : Parked) (x : Fibre), Takes s node p u → p.opcode = 0x43 →
      d = dieOf node.toNat → decodeAddr p.addr.toNat = some (.syncCell cd c off) →
      (vatOf s d).waitTable.filter (fun e => e.cell == 256 * cd + c && serialLt 32 e.opseq (bits v 39 8) &&
        stateHolds s (256 * cd + c) (bits v 127 64) e.cond) = [w] → w.who = .fibre slice slot → fibreAt s d slice slot = some x →
      x.wait = some (.sync k op cnd ret since) → x.opIndex < 255 → ∃ t, exec (.notify node p) s = .next t ∧ ¬ w ∈ (vatOf t d).waitTable ∧
        Resumed t d slice slot x (match ret with | some r => regSet x.regs r (BitVec.ofNat 64 (bits v 127 64)) | none => x.regs) ∧
        OnlyParts [.fab, .obs, .vs] s t) ∧
    (∀ cd c off d : Nat, Takes s node p u → p.opcode = 0x43 → d = dieOf node.toNat → decodeAddr p.addr.toNat = some (.syncCell cd c off) →
      (vatOf s d).waitTable.filter (fun e => e.cell == 256 * cd + c && serialLt 32 e.opseq (bits v 39 8) &&
        stateHolds s (256 * cd + c) (bits v 127 64) e.cond) = [] → ∃ t, exec (.notify node p) s = .next t ∧ (vatOf t d).fibres = (vatOf s d).fibres ∧
        (vatOf t d).waitTable = (vatOf s d).waitTable ∧ (vatOf t d).seq = (vatOf s d).seq ∧ OnlyParts [.fab, .vs] s t ∧
        (vatWaitsOn s d (256 * cd + c) = true → tget (vatOf t d).notifies (256 * cd + c) = some (bits v 39 8, bits v 127 64) ∨
          (tget (vatOf t d).parkedSeq (256 * cd + c)).isSome = true)) ∧
    (∀ cd c off last : Nat, Takes s node p u → p.opcode = 0x44 → decodeAddr p.addr.toNat = some (.syncCell cd c off) →
      tget (cellOf s (256 * cd + c)).mask (dieOf p.src.toNat) = some last → ∃ t, exec (.unpark node p) s = .next t ∧ OnlyParts [.fab, .vs] s t ∧
        (serialLt 32 (bits v 39 8) last = false → tget (cellOf t (256 * cd + c)).mask (dieOf p.src.toNat) = none) ∧
        (serialLt 32 (bits v 39 8) last = true → t.vs = s.vs)) ∧
    (∀ c : CellId, (cellOf s c.val).mask ≠ [] → ∃ t, exec (.notifyRepeat c) s = .next t ∧
      t.now = Nat.max s.now ((cellOf s c.val).notifyAt + 100000) ∧ (cellOf t c.val).notifyAt = t.now ∧ (cellOf t c.val).count = (cellOf s c.val).count ∧
      (∀ e ∈ (cellOf s c.val).mask, Sent t (cellTile c.val) 0x43 (notifyTile e.1) (syncRsp (cellState (cellOf s c.val)) (cellOf s c.val).opseq 0)) ∧
      OnlyParts [.fab, .now, .vs] s t) ∧
    (∀ (d : VatId) (w : Parked) (l : List Parked) (r : Region), (vatOf s d.val).resend = w :: l → (vatOf s d.val).waitTable.length < 4096 →
      decodeAddr (cellAddr w.cell) = some r → ∃ t, exec (.waitResend d) s = .next t ∧ (vatOf t d.val).resend = l ∧
        (vatOf t d.val).waitTable = (vatOf s d.val).waitTable ∧
        Sent t (match w.who with | .fibre sl _ => nodeAt d.val sl | .sequencer => seqTile d.val) 3 r.tile (leBytes 16 (waitPayload w.cond)) ∧
        OnlyParts [.fab, .vs] s t) ∧
    (∀ (d : VatId) (sl : SliceId) (st : SlotId) (x : Fibre) (k op since : Nat) (cnd : WaitCond) (ret : Option Nat), setting s 0x3404 (d.val + 1) ≠ 0 →
      fibreAt s d.val sl.val st.val = some x → x.wait = some (.sync k op cnd ret since) → op = 3 ∨ op = 4 →
      ∃ t, exec (.waitLimitExpiry d false sl st) s = .next t ∧ t.now = Nat.max s.now (since + 1000 * setting s 0x3404 (d.val + 1)) ∧
        fibreAt t d.val sl.val st.val = none ∧ (vatOf t d.val).fibreFaults = (vatOf s d.val).fibreFaults + 1 ∧ t.mem = s.mem) ∧
    (∀ (d : VatId) (sl : SliceId) (st : SlotId) (k pay ph since : Nat) (ret : Option Nat), setting s 0x3404 (d.val + 1) ≠ 0 →
      (seqOf s d.val).wait = some (.sync k pay ph ret false since) → opCode pay = 3 ∨ opCode pay = 4 → setting s 0x3115 (d.val + 1) ≠ 1 →
      ∃ t, exec (.waitLimitExpiry d true sl st) s = .next t ∧ t.now = Nat.max s.now (since + 1000 * setting s 0x3404 (d.val + 1)) ∧
        (seqOf t d.val).state = 5 ∧ (seqOf t d.val).trapCode = 7 ∧ (seqOf t d.val).wait = none ∧ (seqOf t d.val).pc = (seqOf s d.val).pc ∧
        t.mem = s.mem) ∧
    (∀ (d slice slot batch index k op since : Nat) (tg : Option Nat) (cnd : WaitCond) (ret : Option Nat) (e : Expect) (x : Fibre),
      Accepts s node p false u → p.opcode = 0x21 → (takeExpect u node.toNat p 3).2 = some e → e.owner = .fibre d slice slot batch index tg →
      fibreAt s d slice slot = some x → x.batch = batch → x.index = index → x.wait = some (.sync k op cnd ret since) →
      (bits v 7 0 ≤ 1 → x.opIndex < 255 → ∃ t, exec (.syncRsp node p) s = .next t ∧
        Resumed t d slice slot x (match ret with | some r => regSet x.regs r (BitVec.ofNat 64 (bits v 127 64)) | none => x.regs) ∧
        OnlyParts [.fab, .obs, .vs] s t) ∧
      (bits v 7 0 = 2 → op = 3 → (vatOf s d).waitTable.length < 4096 → tget (vatOf s d).notifies k = none → ∃ t, exec (.syncRsp node p) s = .next t ∧
        (vatOf t d).waitTable = (vatOf s d).waitTable ++ [{ cell := k, cond := cnd, opseq := bits v 39 8, who := .fibre slice slot }] ∧
        fibreAt t d slice slot = some x ∧ OnlyParts [.fab, .obs, .vs] s t) ∧
      (3 ≤ bits v 7 0 → ∃ t, exec (.syncRsp node p) s = .next t ∧ fibreAt t d slice slot = none ∧
        (vatOf t d).fibreFaults = (vatOf s d).fibreFaults + 1 ∧ t.mem = s.mem)) ∧
    (∀ (d k pay ph since : Nat) (ret : Option Nat) (nl : Bool) (e : Expect), Accepts s node p false u → p.opcode = 0x21 →
      (takeExpect u node.toNat p 3).2 = some e → e.owner = .sequencer d → (seqOf s d).wait = some (.sync k pay ph ret nl since) →
      bits v 7 0 ≤ 1 → (seqOf s d).posted = none → (seqOf s d).stopping = false → ∃ t, exec (.syncRsp node p) s = .next t ∧
        (seqOf t d).state = 2 ∧ (seqOf t d).wait = none ∧ (seqOf t d).pc = ((seqOf s d).pc + 1) % 65536 ∧
        (∀ r, ret = some r → r ≠ 0 → regGet (seqOf t d).regs r = BitVec.ofNat 64 (bits v 127 64)) ∧ OnlyParts [.fab, .obs, .vs] s t) ∧
    (∀ d, Takes s node p u → p.tagValid = true → d = dieOf node.toNat → d < 16 → p.opcode = 0x45 → ∃ t, exec (.kill node p) s = .next t ∧
      (∀ e ∈ (vatOf t d).fibres, e.2.tag ≠ some p.tag.toNat) ∧ (∀ e ∈ (vatOf t d).queue, bits e.1 15 0 ≠ p.tag.toNat) ∧
      (∀ k x, tget (vatOf s d).fibres k = some x → (∀ e ∈ (vatOf s d).fibres, e.1 = k → e.2.tag ≠ some p.tag.toNat) →
        tget (vatOf t d).fibres k = some x) ∧
      tget (vatOf t d).kills (tagPort p.tag.toNat * 256 + tagCtx p.tag.toNat) = some (tagGen p.tag.toNat) ∧
      Sent t (schedTile d) 0x46 (admissionTile (tagPort p.tag.toNat)) [] ∧ t.mem = s.mem) ∧
    (∀ c d : Nat, ∀ x : Context, Takes s node p u → p.tagValid = true → p.opcode = 0x46 → tagCurrent s p.tag.toNat = true → d = dieOf p.src.toNat → c = tagCtx p.tag.toNat →
      x = ctxOf s (tagPort p.tag.toNat) c → ∃ t, exec (.killDone node p) s = .next t ∧
        (ctxOf t (tagPort p.tag.toNat) c).kills.contains d = false ∧
        (x.state = 3 → x.posted = false → (∀ e ∈ x.kills, e = d) → (ctxOf t (tagPort p.tag.toNat) c).state = 4) ∧
        (x.state = 3 → (∃ e ∈ x.kills, e ≠ d) → (ctxOf t (tagPort p.tag.toNat) c).state = 3) ∧
        (x.posted = true → (∀ e ∈ x.kills, e = d) → (ctxOf t (tagPort p.tag.toNat) c).state = 0 ∧
          (ctxOf t (tagPort p.tag.toNat) c).gen = (x.gen + 1) % 64) ∧ OnlyParts [.fab, .obs, .port] s t)

/-- R236 to R269, R281, R335, R450: the injection port at a tile where only the given packet waits. It enters the fabric as its decision says: on its
stream with the next SEQ, as the OPEN of a new generation, outside the streams, or at the escape channel; or it fails, or waits. A bucket that has
gained its token lets its packet go on.
It rests on choices and readings of the model: log entries 13 and 134. -/
def Obligations.InjectionCommandsComplete : Prop :=
  ∀ (s : State) (node : NodeId), (locateNode node.toNat).isSome = true →
    (tgetD s.fab.waiting node.toNat [] = [] → exec (.packetInject node none) s = .next s) ∧
    (∀ (o w : OutPacket) (u : State), tgetD s.fab.waiting node.toNat [] = [] → u = send s node.toNat o.owner o.pkt →
      w = { owner := o.owner, pkt := { o.pkt with src := node } } →
      (∀ e r, injectAct u node.toNat w = .plain e r → ∃ t q, exec (.packetInject node (some o)) s = .next t ∧
        q = { stamp w.pkt e r with src := node } ∧ t.fab.net = s.fab.net ++ [{ node := node.toNat, port := 0, vc := vcOf q, pkt := q }] ∧
        t.fab.trackers = s.fab.trackers ∧ t.mem = s.mem) ∧
      (∀ dst rel, injectAct u node.toNat w = .escape dst rel → ∃ t q, exec (.packetInject node (some o)) s = .next t ∧
        q.opcode = o.pkt.opcode ∧ q.payload = o.pkt.payload ∧ q.dest = BitVec.ofNat 12 dst ∧ q.src = node ∧
        t.fab.net = s.fab.net ++ [{ node := node.toNat, port := 0, vc := vcOf q, pkt := q, relay := rel }] ∧ t.mem = s.mem) ∧
      (∀ i e r, injectAct u node.toNat w = .stream i e r → ∃ (t : State) (q : Packet) (a : Unacked), exec (.packetInject node (some o)) s = .next t ∧
        q.opcode = o.pkt.opcode ∧ q.payload = o.pkt.payload ∧ q.dest = o.pkt.dest ∧ q.src = node ∧ q.stream = BitVec.ofNat 6 i ∧
        q.sgen = BitVec.ofNat 10 (trackerOf s node.toNat i).sgen ∧ q.seq = BitVec.ofNat 16 (trackerOf s node.toNat i).nextSeq ∧ q.opening = false ∧
        q.epoch = BitVec.ofNat 2 e ∧ t.fab.net = s.fab.net ++ [{ node := node.toNat, port := 0, vc := vcOf q, pkt := q }] ∧ a.pkt = q ∧
        a.owner = o.owner ∧ (trackerOf t node.toNat i).unacked = (trackerOf s node.toNat i).unacked ++ [a] ∧
        (trackerOf t node.toNat i).nextSeq = ((trackerOf s node.toNat i).nextSeq + 1) % 65536 ∧ t.mem = s.mem) ∧
      (∀ i c e r, injectAct u node.toNat w = .openOn i c e r → ∃ (t : State) (q : Packet) (a : Unacked), exec (.packetInject node (some o)) s = .next t ∧
        q.opcode = o.pkt.opcode ∧ q.payload = o.pkt.payload ∧ q.dest = o.pkt.dest ∧ q.src = node ∧ q.stream = BitVec.ofNat 6 i ∧
        q.sgen = BitVec.ofNat 10 (((trackerOf s node.toNat i).sgen + 1) % 1024) ∧ q.seq = 0 ∧ q.opening = true ∧
        t.fab.net = s.fab.net ++ [{ node := node.toNat, port := 0, vc := vcOf q, pkt := q }] ∧ a.pkt = q ∧ a.owner = o.owner ∧
        (trackerOf t node.toNat i).unacked = [a] ∧ (trackerOf t node.toNat i).nextSeq = 1 ∧ (trackerOf t node.toNat i).inUse = true ∧
        (trackerOf t node.toNat i).dest = o.pkt.dest.toNat ∧ (trackerOf t node.toNat i).epoch = e ∧
        (c = true → Sent t node.toNat 0x42 (trackerOf s node.toNat i).dest []) ∧ t.mem = s.mem) ∧
      (∀ g, injectAct u node.toNat w = .relay → g = bits o.pkt.aux.toNat 9 0 → mcRefusal u node.toNat g o.pkt.partition.toNat = none →
        ∃ t, exec (.packetInject node (some o)) s = .next t ∧ t.fab.net = s.fab.net ∧
          (mcOf t g).nextDseq = ((mcOf s g).nextDseq + 1) % 2 ^ 32 ∧ Sent t node.toNat 0x61 node.toNat o.pkt.payload ∧ t.mem = s.mem) ∧
      (injectAct u node.toNat w = .wait → exec (.packetInject node (some o)) s = .next u) ∧
      (injectAct u node.toNat w = .waitTracker → ∃ t, exec (.packetInject node (some o)) s = .next t ∧ t.fab.net = s.fab.net ∧
        tgetD t.fab.waiting node.toNat [] = [{ w with counted := true }] ∧
        tgetD t.fab.streamStats (8 * dieOf node.toNat + 4) 0 = tgetD s.fab.streamStats (8 * dieOf node.toNat + 4) 0 + 1 ∧ OnlyParts [.fab] s t) ∧
      (∀ cause detail log, injectAct u node.toNat w = .fail cause detail log → ∃ t, exec (.packetInject node (some o)) s = .next t ∧
        t.fab.net = s.fab.net ∧ t.mem = s.mem ∧
        tgetD t.integ.streamErrors (8 * dieOf node.toNat + 5) 0 = tgetD s.integ.streamErrors (8 * dieOf node.toNat + 5) 0 + 1 ∧
        (log = true → (∃ d c, o.owner = .endpoint d c) → 16 ≤ dieOf node.toNat → Reported s t cause 2))) ∧
    (∀ (w : OutPacket) (u : State) (e : Nat) (r : Nat × Option Nat), tgetD s.fab.waiting node.toNat [] = [w] → held s node.toNat w.pkt.tc.toNat = true →
      u = timeReaches s (releaseTick s node.toNat w.pkt.tc.toNat) → injectAct u node.toNat w = .plain e r →
      ∃ t q, exec (.regulatorRelease node) s = .next t ∧ t.now = Nat.max s.now (releaseTick s node.toNat w.pkt.tc.toNat) ∧
        q = { stamp w.pkt e r with src := node } ∧ t.fab.net = s.fab.net ++ [{ node := node.toNat, port := 0, vc := vcOf q, pkt := q }] ∧ t.mem = s.mem)

/-- R244 to R247, R274, R285, R322 to R326, R373, R534: a router and the packet at the head of a channel. An intact one goes to the local port or to the
next hop where the link is up, the hop has a credit and the output grants it; a copy goes to every output of a multicast tree; a packet for a link that
is down is discarded; a header that cannot be routed is dropped and logged, an uncorrectable payload is stomped, and an uncorrectable control word
fails the link.
It rests on choices and readings of the model: log entries 5 and 22. -/
def Obligations.RouterForwardCompletes : Prop :=
  ∀ (s u : State) (node : NodeId) (port : InPort) (vc : BitVec 4) (err : FlitErr) (x y : Flight),
    s.fab.net.find? (fun z => z.node == node.toNat && z.port == port.val && z.vc == vc.toNat) = some x → y = { x with pkt := atRouter node.toNat x.pkt } →
    u = modFab s (fun f => { f with net := f.net.map (fun z => if z == x then y else z) }) →
    (0 < err.corrected → ∃ t, exec (.routerForward node port vc err) s = .next t ∧
      tgetD t.integ.ecc (4 * dieOf node.toNat) 0 = tgetD s.integ.ecc (4 * dieOf node.toNat) 0 + err.corrected ∧ t.mem = s.mem) ∧
    (err = {} → headerBad s x.pkt = false → y.pkt.opcode ≠ 0x61 →
      (outPort node.toNat y.pkt = 0 → x.relay = none → granted u node.toNat 0 x.vc y.pkt (rivals u node.toNat x.port x.vc 0) = true →
        ∃ t, exec (.routerForward node port vc err) s = .next t ∧
          tgetD t.fab.arrived node.toNat [] = tgetD s.fab.arrived node.toNat [] ++ [y.pkt] ∧ t.fab.net.length + 1 = s.fab.net.length ∧
          OnlyParts [.fab, .obs] s t) ∧
      (∀ (out m : Nat), out = outPort node.toNat y.pkt → out ≠ 0 → neighbour node.toNat out = some m → linkUp s node.toNat out = true →
        hasCredit u m (opposite out) (vcOf y.pkt) y.pkt.flits = true →
        granted u node.toNat out x.vc y.pkt (rivals u node.toNat x.port x.vc out) = true → ∃ (t : State) (q : Packet),
          exec (.routerForward node port vc err) s = .next t ∧ (y.pkt.opcode ≠ 0x47 → q = y.pkt) ∧ q.dest = y.pkt.dest ∧
          t.fab.net.getLast? = some { node := m, port := opposite out, vc := vcOf y.pkt, pkt := q, relay := x.relay } ∧
          t.fab.net.length = s.fab.net.length ∧ OnlyParts [.fab, .obs, .time] s t) ∧
      (∀ (out m : Nat), out = outPort node.toNat y.pkt → out ≠ 0 → neighbour node.toNat out = some m →
        linkState s node.toNat out = 5 ∨ linkState s node.toNat out = 6 ∨ linkState s node.toNat out = 0 → ∃ t,
          exec (.routerForward node port vc err) s = .next t ∧ t.fab.net.length + 1 = s.fab.net.length ∧ t.fab.arrived = s.fab.arrived ∧
          OnlyParts [.fab] s t) ∧
      (∀ (out m : Nat), out = outPort node.toNat y.pkt → out ≠ 0 → neighbour node.toNat out = some m → linkUp s node.toNat out = true →
        hasCredit u m (opposite out) (vcOf y.pkt) y.pkt.flits = false → ∃ t, exec (.routerForward node port vc err) s = .next t ∧
          t.fab = u.fab ∧ OnlyParts [.fab, .obs] s t)) ∧
    (∀ (b : Bank) (g : Nat), err = {} → headerBad s x.pkt = false → y.pkt.opcode = 0x61 → bankOfEpoch s y.pkt.epoch.toNat = some b →
      g = bits y.pkt.aux.toNat 9 0 → tableBad s node.toNat 2 g = false →
      (∀ o ∈ mcOutputs b g node.toNat, o ≠ 0 → linkUp s node.toNat o = true → ∀ m, neighbour node.toNat o = some m →
        hasCredit u m (opposite o) x.vc y.pkt.flits = true) → ∃ t, exec (.routerForward node port vc err) s = .next t ∧
        (∀ o ∈ mcOutputs b g node.toNat, (o = 0 → y.pkt ∈ tgetD t.fab.arrived node.toNat []) ∧
          (o ≠ 0 → linkUp s node.toNat o = true → ∀ m, neighbour node.toNat o = some m →
            ({ node := m, port := opposite o, vc := x.vc, pkt := y.pkt } : Flight) ∈ t.fab.net)) ∧ OnlyParts [.fab, .obs, .vs] s t) ∧
    (err.corrected = 0 → err.header = true → err.ctrl = false → oneFlitCtl x.pkt = false → ∃ t, exec (.routerForward node port vc err) s = .next t ∧
      t.fab.net.length + 1 = s.fab.net.length ∧ Reported s t 0x04 2 ∧ OnlyParts [.fab, .integ, .obs] s t) ∧
    (err.corrected = 0 → err.header = true ∨ err.payload.isSome = true → err.ctrl = false → oneFlitCtl x.pkt = true →
      ∃ t, exec (.routerForward node port vc err) s = .next t ∧ t.fab.net.length + 1 = s.fab.net.length ∧ Reported s t 0x05 2 ∧
        OnlyParts [.fab, .integ, .obs] s t) ∧
    (err.corrected = 0 → err.header = false → err.ctrl = false → err.payload.isSome = true → oneFlitCtl x.pkt = false → headerBad s x.pkt = false →
      x.pkt.opcode ≠ 0x61 → ∃ t, exec (.routerForward node port vc err) s = .next t ∧ Reported s t 0x02 2 ∧ t.mem = s.mem) ∧
    (err.corrected = 0 → err.ctrl = true → port.val ≠ 0 → ∃ t, exec (.routerForward node port vc err) s = .next t ∧
      linkState t node.toNat port.val = 5 ∧ Reported s t 0x03 2 ∧ t.ep.repairDue = true ∧ t.fab.net.length = s.fab.net.length ∧
      ({ x with pkt := { x.pkt with checkValue := x.pkt.checkValue ||| stompBit } } : Flight) ∈ t.fab.net ∧ t.mem = s.mem)

/-- R113, R116, R138, R253, R263, R318, R321, R328, R333, R339: a WRITE that its windows allow stores its payload and nothing else; a READ answers with
the bytes of its range; what the windows do not allow is refused; responses and refusals end what their requester waits for.
It rests on choices and readings of the model: log entries 6, 14, 25, 118 and 123. -/
def Obligations.MemoryAccessesComplete : Prop :=
  ∀ (s u : State) (node : NodeId) (p : Packet),
    (∀ r : Region, Accepts s node p false u → p.opcode = 1 → decodeAddr p.addr.toNat = some r → (tableBad u node.toNat 1 p.partition.toNat = false ∨ p.partition = 0) →
      (r.tile = node.toNat → r.isTrace = false → windowOk u p p.addr.toNat p.payload.length 1 = true →
        (∀ port off h, r = .hostWindow port off → hostAddr s port off p.payload.length = some h → portUp s port = true →
          ∃ t, exec (.write node p) s = .next t ∧ t.out = s.out ++ [.hostWrite port h p.payload] ∧ OnlyParts [.fab, .out] s t) ∧
        ((∀ port off, r ≠ .hostWindow port off) → (∀ d c off, r ≠ .syncCell d c off) → ∃ t, exec (.write node p) s = .next t ∧
          (Memory.wf s.mem = true → readMem t p.addr.toNat p.payload.length = p.payload) ∧
          (∀ a, a < p.addr.toNat ∨ p.addr.toNat + p.payload.length ≤ a → memGet t.mem a = memGet s.mem a) ∧ OnlyParts [.fab, .integ, .mem] s t)) ∧
      (r.tile ≠ node.toNat ∨ r.isTrace = true ∨ windowOk u p p.addr.toNat p.payload.length 1 = false → ∃ t, exec (.write node p) s = .next t ∧
        Sent t node.toNat 0x22 p.src.toNat (leBytes 16 p.addr.toNat) ∧ Reported s t 0x40 2 ∧
        tgetD t.vs.windowFaults p.partition.toNat 0 = tgetD s.vs.windowFaults p.partition.toNat 0 + 1 ∧ OnlyParts [.fab, .integ, .obs, .vs] s t)) ∧
    (∀ (r : Region) (n : Nat), Accepts s node p true u → p.opcode = 2 → decodeAddr p.addr.toNat = some r → n = bits p.aux.toNat 12 0 →
      (tableBad u node.toNat 1 p.partition.toNat = false ∨ p.partition = 0) →
      (r.tile = node.toNat → r.isTrace = false → windowOk u p p.addr.toNat n 0 = true →
        (∀ d c off, r = .syncCell d c off → ∃ t, exec (.read node p) s = .next t ∧
          Sent t node.toNat 0x20 p.src.toNat (cellPage s (256 * d + c) off n) ∧ OnlyParts [.fab] s t) ∧
        (∀ port off h, r = .hostWindow port off → hostAddr s port off n = some h → portUp s port = true → ∃ t, exec (.read node p) s = .next t ∧
          t.out = s.out ++ [.hostRead port h n] ∧ OnlyParts [.fab, .out, .port] s t) ∧
        ((∀ port off, r ≠ .hostWindow port off) → (∀ d c off, r ≠ .syncCell d c off) → ∃ t, exec (.read node p) s = .next t ∧
          Sent t node.toNat 0x20 p.src.toNat (readMem s p.addr.toNat n) ∧ (badRange s p.addr.toNat n = false → OnlyParts [.fab] s t) ∧
          (badRange s p.addr.toNat n = true → Reported s t (regionUe r).1 2 ∧ OnlyParts [.fab, .integ, .obs] s t))) ∧
      (r.tile ≠ node.toNat ∨ r.isTrace = true ∨ windowOk u p p.addr.toNat n 0 = false → ∃ t, exec (.read node p) s = .next t ∧
        Sent t node.toNat 0x22 p.src.toNat (leBytes 16 p.addr.toNat) ∧ Reported s t 0x40 2 ∧ OnlyParts [.fab, .integ, .obs, .vs] s t)) ∧
    (∀ (e : Expect) (d slice slot batch index : Nat) (tg : Option Nat) (x : Fibre), Accepts s node p false u → p.opcode = 0x20 →
      (takeExpect u node.toNat p 2).2 = some e → e.owner = .fibre d slice slot batch index tg → fibreAt s d slice slot = some x → x.batch = batch →
      x.index = index → x.reads = [{ addr := e.addr, len := e.len }] → ∃ t, exec (.readData node p) s = .next t ∧ fibreAt t d slice slot =
        some { x with reads := [{ addr := e.addr, len := e.len, data := some p.payload }], state := 1, wait := none } ∧ OnlyParts [.fab, .obs, .vs] s t) ∧
    (∀ (e : Expect) (d sd : Nat), Accepts s node p false u → p.opcode = 0x20 → (takeExpect u node.toNat p 2).2 = some e → e.owner = .sequencer d →
      (seqOf s d).wait = some (.load e.addr sd none) → ∃ t, exec (.readData node p) s = .next t ∧
        (seqOf t d).wait = some (.load e.addr sd (some p.payload)) ∧ (seqOf t d).pc = (seqOf s d).pc ∧ OnlyParts [.fab, .obs, .vs] s t) ∧
    (Accepts s node p false u → p.opcode = 6 → (∀ n < 4, portFrontTile n ≠ node.toNat) → ∃ t, exec (.endpointMsg node p) s = .next t ∧
      Sent t node.toNat 0x23 p.src.toNat [] ∧ OnlyParts [.fab] s t) ∧
    (∀ e : Expect, Accepts s node p false u → p.opcode = 0x23 → (takeExpect u node.toNat p 6).2 = some e → ∃ t, exec (.endpointRsp node p) s = .next t ∧
      (tgetD t.fab.expects node.toNat []).length + 1 = (tgetD s.fab.expects node.toNat []).length ∧ OnlyParts [.fab, .obs] s t) ∧
    (∀ (i q : Nat) (x : Unacked), Accepts s node p false u → p.opcode = 0x22 → i = bits p.aux.toNat 21 16 → q = bits p.aux.toNat 15 0 →
      (trackerOf s node.toNat i).unacked.find? (fun a => a.seq == q) = some x → ∃ t, exec (.refusal node p) s = .next t ∧
        (∀ a ∈ (trackerOf t node.toNat i).unacked, a.seq ≠ q) ∧ (trackerOf t node.toNat i).refusals = (trackerOf s node.toNat i).refusals + 1 ∧
        ((trackerOf s node.toNat i).refusedAddr = none → (trackerOf t node.toNat i).refusedAddr = some (field p.payload 0 6)) ∧ t.mem = s.mem)

/-- R210, R211, R252, R258 to R267, R284, R335, R337, R339, R342: streams. Acknowledgements free the packets they cover or end a broken generation; a
NACK or the acknowledgement timeout ends it too; an OPEN that found no entry goes again; an idle stream is closed at both ends; a delivery entry joins
the request queue, or is refused where it is full.
It rests on choices and readings of the model: log entries 13, 123 and 134. -/
def Obligations.StreamCommandsComplete : Prop :=
  ∀ (s u : State) (node : NodeId) (p : Packet) (i : BitVec 6),
    (∀ (g : BitVec 10) (q : BitVec 16) (a b : List Unacked) (x : Unacked), Takes s node p u → p.opcode = 0x40 →
      mcGroupOf u node.toNat i.toNat q.toNat (dieOf p.src.toNat) = none → (trackerOf s node.toNat i.toNat).inUse = true →
      (trackerOf s node.toNat i.toNat).sgen = g.toNat → (trackerOf s node.toNat i.toNat).unacked = a ++ x :: b → (∀ y ∈ a, y.seq ≠ q.toNat) →
      x.seq = q.toNat →
      (p.payload = leBytes 8 (ackWord i.toNat g.toNat q.toNat 0) → ∃ t, exec (.ack node p) s = .next t ∧
        (trackerOf t node.toNat i.toNat).unacked = (a ++ [x]).filter (·.refused) ++ b ∧ (trackerOf t node.toNat i.toNat).opening = false ∧
        (trackerOf t node.toNat i.toNat).inUse = true ∧ t.mem = s.mem) ∧
      (p.payload = leBytes 8 (ackWord i.toNat g.toNat q.toNat 1) → ∃ t, exec (.ack node p) s = .next t ∧
        (trackerOf t node.toNat i.toNat).unacked = [] ∧ (trackerOf t node.toNat i.toNat).inUse = false ∧ t.mem = s.mem)) ∧
    (∀ (g : Nat) (q : BitVec 16) (d sg : Nat) (e : McPending), Takes s node p u → p.opcode = 0x40 → d = dieOf p.src.toNat →
      p.payload = leBytes 8 (ackWord i.toNat sg q.toNat 0) → mcGroupOf u node.toNat i.toNat q.toNat d = some g → (mcOf s g).pending = [e] →
      e.dseq % 65536 = q.toNat → e.waiting = [d] → ∃ t, exec (.ack node p) s = .next t ∧ (mcOf t g).pending = [] ∧ t.mem = s.mem) ∧
    (∀ e : RxEntry, tileUp s node.toNat = true → rxOf s node.toNat = [e] → tgetD s.fab.acks node.toNat [] = [] → e.broken = false → e.due ≠ 0 →
      ∃ t, exec (.ackSend node) s = .next t ∧ rxOf t node.toNat = [{ e with acked := e.ackPoint, ackNow := false }] ∧
        Sent t node.toNat 0x40 e.src (leBytes 8 (ackWord e.stream e.sgen ((e.ackPoint + 65535) % 65536) 0)) ∧ OnlyParts [.fab] s t) ∧
    (∀ a : AckEntry, tileUp s node.toNat = true → rxOf s node.toNat = [] → tgetD s.fab.acks node.toNat [] = [a] → ∃ t, exec (.ackSend node) s = .next t ∧
      tgetD t.fab.acks node.toNat [] = [] ∧ Sent t node.toNat 0x40 a.dest (leBytes 8 (ackWord a.stream a.sgen a.seq a.status)) ∧
      OnlyParts [.fab] s t) ∧
    (Takes s node p u → p.opcode = 0x41 → p.stream = i → field p.payload 0 1 = 1 → (trackerOf s node.toNat i.toNat).inUse = true →
      (trackerOf s node.toNat i.toNat).sgen = p.sgen.toNat → (trackerOf s node.toNat i.toNat).opening = true → ∃ t, exec (.nackRxFull node p) s = .next t ∧
        trackerOf t node.toNat i.toNat = { trackerOf s node.toNat i.toNat with rxFullAt := some s.now } ∧ OnlyParts [.fab] s t) ∧
    (∀ (a : Tick) (x : Unacked) (l : List Unacked), (trackerOf s node.toNat i.toNat).rxFullAt = some a →
      (trackerOf s node.toNat i.toNat).unacked = x :: l → ∃ t, exec (.openRetry node i) s = .next t ∧ t.now = Nat.max s.now (a + 1000) ∧
        t.fab.net = s.fab.net ++ [{ node := node.toNat, port := 0, vc := vcOf x.pkt, pkt := x.pkt }] ∧
        (trackerOf t node.toNat i.toNat).rxFullAt = none ∧ (trackerOf t node.toNat i.toNat).unacked = x :: l ∧
        tgetD t.fab.streamStats (8 * dieOf node.toNat + 5) 0 = tgetD s.fab.streamStats (8 * dieOf node.toNat + 5) 0 + 1 ∧ OnlyParts [.fab, .now] s t) ∧
    (∀ x : Unacked, Takes s node p u → p.opcode = 0x41 → p.stream = i → field p.payload 0 1 = 2 → (trackerOf s node.toNat i.toNat).inUse = true →
      (trackerOf s node.toNat i.toNat).sgen = p.sgen.toNat → (trackerOf s node.toNat i.toNat).unacked.find? (fun a => a.seq == p.seq.toNat) = some x →
      ∃ t, exec (.nackNotOpen node p) s = .next t ∧ (trackerOf t node.toNat i.toNat).inUse = false ∧
        (trackerOf t node.toNat i.toNat).unacked = [] ∧ t.mem = s.mem) ∧
    (∀ (x : Unacked) (l : List Unacked), (trackerOf s node.toNat i.toNat).inUse = true → (trackerOf s node.toNat i.toNat).unacked = x :: l →
      ∃ t, exec (.streamAckTimeout node i) s = .next t ∧ (trackerOf t node.toNat i.toNat).inUse = false ∧
        (trackerOf t node.toNat i.toNat).unacked = [] ∧
        t.now = Nat.max s.now ((trackerOf s node.toNat i.toNat).advancedAt + 1000 * setting s 0x2610 0) ∧
        tgetD t.integ.streamErrors (8 * dieOf node.toNat + 4) 0 = tgetD s.integ.streamErrors (8 * dieOf node.toNat + 4) 0 + 1 ∧ t.mem = s.mem) ∧
    ((trackerOf s node.toNat i.toNat).inUse = true → (trackerOf s node.toNat i.toNat).unacked = [] → ∃ t, exec (.streamIdleClose node i) s = .next t ∧
      t.now = Nat.max s.now ((trackerOf s node.toNat i.toNat).idleSince + 1000 * setting s 0x2004 0) ∧
      (trackerOf t node.toNat i.toNat).inUse = false ∧ Sent t node.toNat 0x42 (trackerOf s node.toNat i.toNat).dest [] ∧ OnlyParts [.fab, .now] s t) ∧
    (Takes s node p u → p.opcode = 0x42 → ∃ t, exec (.close node p) s = .next t ∧
      rxOf t node.toNat = (rxOf s node.toNat).filter (fun e => !(rxKey p e && e.sgen == p.sgen.toNat)) ∧ OnlyParts [.fab] s t) ∧
    (∀ d, d = dieOf node.toNat → Accepts s node p false u → p.opcode = 4 → d < 16 →
      ((vatOf s d).queue.length < 1024 → ∃ t, exec (.queuePost node p) s = .next t ∧ (vatOf t d).queue =
        (vatOf s d).queue ++ [(field p.payload 0 8, field p.payload 8 8, field p.payload 16 8)] ∧ OnlyParts [.fab, .vs] s t) ∧
      (1024 ≤ (vatOf s d).queue.length → ∃ t, exec (.queuePost node p) s = .next t ∧ t.vs = s.vs ∧
        Sent t node.toNat 0x22 p.src.toNat (leBytes 16 p.addr.toNat) ∧ Reported s t 0x41 2 ∧ OnlyParts [.fab, .integ, .obs] s t))

/-- R281 to R290, R308: multicast. The root relays a packet it accepts under the next DSEQ and waits for its members, or refuses it; a receiver tile
stores the bytes of its entry's range, its agent counts them and acknowledges; a packet out of order is answered with a failure; a member that has not
acknowledged in time is pruned.
It rests on choices and readings of the model: log entries 6, 122 and 126. -/
def Obligations.MulticastCommandsComplete : Prop :=
  ∀ (s u : State) (node : NodeId) (p : Packet) (g : Nat), g = bits p.aux.toNat 9 0 →
    (Accepts s node p true u → p.opcode = 0x60 → mcWindowFull s g = false → mcRefusal u node.toNat g p.partition.toNat = none →
      ∃ t, exec (.mcSend node p) s = .next t ∧ (mcOf t g).nextDseq = ((mcOf s g).nextDseq + 1) % 2 ^ 32 ∧ Sent t node.toNat 0x61 node.toNat p.payload ∧
        (∀ m, m = (mcMembers (mcRecord (tileBank s node.toNat) g)).filter (fun d => !(mcOf s g).pruned.contains d) → m ≠ [] → ∃ e : McPending,
          (mcOf t g).pending = (mcOf s g).pending ++ [e] ∧ e.dseq = (mcOf s g).nextDseq ∧ e.waiting = m ∧ e.seq = p.seq.toNat ∧ e.src = p.src.toNat) ∧
        OnlyParts [.fab, .vs] s t) ∧
    (∀ cause, Accepts s node p true u → p.opcode = 0x60 → mcRefusal u node.toNat g p.partition.toNat = some cause →
      ∃ t, exec (.mcSend node p) s = .next t ∧ Sent t node.toNat 0x22 p.src.toNat (leBytes 16 p.addr.toNat) ∧ Reported s t cause 2 ∧
        t.vs = s.vs ∧ OnlyParts [.fab, .integ, .obs] s t) ∧
    (∀ (d l e lo base : Nat) (b : Bank), tileUp s node.toNat = true → d = dieOf node.toNat → d < 16 → p.opcode = 0x61 →
      takeArrived s node.toNat p = some u → bankOfEpoch s p.epoch.toNat = some b → (agentOf s g d).pruned = false → l = localOf node.toNat →
      mcTilesOf b g d = [node.toNat] → tget (agentOf s g d).tiles l = none → (agentOf s g d).reports = [] →
      mcInOrder (mcSequenced (mcRecord b g)) (agentOf s g d).generation (agentOf s g d).nextDseq p = true → packetFault p = none →
      p.partition.toNat = mcPart (mcRecord b g) → tableBad s node.toNat 3 g = false →
      (receivers b d).filter (fun x => bits x 63 54 == g && bits x 53 48 == l) = [e] → bitAt e 47 = false → lo = bits e 95 64 → base = bits e 20 0 →
      lo ≤ bits p.addr.toNat 31 0 → bits p.addr.toNat 31 0 + p.payload.length ≤ lo + bits e 127 96 → p.payload ≠ [] → ∃ t, exec (.mcDeliver node p) s = .next t ∧
        (Memory.wf s.mem = true →
          readMem t (d * 2 ^ 27 + l * 2 ^ 21 + base + (bits p.addr.toNat 31 0 - lo)) p.payload.length = p.payload) ∧
        (∀ a, a < d * 2 ^ 27 + l * 2 ^ 21 + base + (bits p.addr.toNat 31 0 - lo) ∨
          d * 2 ^ 27 + l * 2 ^ 21 + base + (bits p.addr.toNat 31 0 - lo) + p.payload.length ≤ a → memGet t.mem a = memGet s.mem a) ∧
        (agentOf t g d).bytes = ((agentOf s g d).bytes + p.payload.length) % 2 ^ 32 ∧
        (agentOf t g d).nextDseq = ((agentOf s g d).nextDseq + 1) % 2 ^ 32 ∧
        (∃ a ∈ tgetD t.fab.acks (schedTile d) [], a.dest = mcRoot (mcRecord b g) ∧ a.seq = (agentOf s g d).nextDseq % 65536 ∧ a.status = 0)) ∧
    (∀ (d : Nat) (b : Bank), tileUp s node.toNat = true → d = dieOf node.toNat → d < 16 → p.opcode = 0x61 →
      takeArrived s node.toNat p = some u → bankOfEpoch s p.epoch.toNat = some b → (agentOf s g d).pruned = false → (mcTilesOf b g d).contains node.toNat = true →
      tget (agentOf s g d).tiles (localOf node.toNat) = none →
      mcInOrder (mcSequenced (mcRecord b g)) (agentOf s g d).generation (agentOf s g d).nextDseq p = false → packetFault p = none →
      ∃ t, exec (.mcDeliver node p) s = .next t ∧ t.vs = s.vs ∧ t.mem = s.mem ∧
        (∃ a ∈ tgetD t.fab.acks (schedTile d) [], a.dest = mcRoot (mcRecord b g) ∧ a.seq = p.seq.toNat ∧ a.sgen = p.sgen.toNat ∧ a.status = 1) ∧
        OnlyParts [.fab] s t) ∧
    (∀ (h : McGroupId) (q : BitVec 32) (e : McPending) (d : Nat), (mcOf s h.val).pending.find? (fun e => e.dseq == q.toNat) = some e → e.waiting = [d] →
      (mcOf s h.val).pruned.contains d = false → ∃ t, exec (.mcAckTimeout h q) s = .next t ∧ t.now = Nat.max s.now (e.at_ + 1000 * setting s 0x2511 0) ∧
        (mcOf t h.val).pruned = (mcOf s h.val).pruned ++ [d] ∧ (∀ x ∈ (mcOf t h.val).pending, ¬ d ∈ x.waiting) ∧ (agentOf t h.val d).pruned = true ∧
        t.mem = s.mem)

/-- R296, R297, R307, R311 to R314, R342: chunks, credits, their timeout and RESYNC. A chunk that is not the last of its inputs enters its node's context; the last input of
the next chunk of a node that is not the root sends the sum to the parent; a chunk below the node's base returns its credit; a credit frees the
parent's context; a chunk whose input has not come in time is FAULTED. In RESYNC the root keeps each node's report, gives up every wave begun
once all have come, and tells every node the next wave; a node that awaits it reports again, and starts there when told.
It rests on choices and readings of the model: log entries 13, 126 and 133. -/
def Obligations.ReductionCommandsComplete : Prop :=
  ∀ (s u : State) (node : NodeId) (p : Packet) (h : RedGroupId),
    (∀ (b : Bank) (g r : Nat) (nd : RedNode) (n : Nat) (xs : List Wire) (c : RedCtx), Takes s node p u → b = packetBank s p → g = bits p.aux.toNat 8 0 →
      r = redRecord b g → nd = redNode s g node.toNat → p.opcode = 0x70 → redEn r = true → redChunks r ≠ 0 → bits p.addr.toNat 47 32 < redChunks r →
      n = nearWave (nd.base / redChunks r) (bits p.addr.toNat 31 0) * redChunks r + bits p.addr.toNat 47 32 →
      (n < nd.base → p.src ≠ node → ∃ t, exec (.redChunk node p) s = .next t ∧ Sent t node.toNat 0x71 p.src.toNat [] ∧ t.vs = s.vs ∧
        OnlyParts [.fab] s t) ∧
      (n = nd.base → c = tgetD nd.ctxs n { firstAt := s.now } → c.fault = none → c.arrived.contains p.src.toNat = false →
        xs = (List.range (p.payload.length / 32)).map (fun k => unpackWire (field p.payload (32 * k) 32)) →
        redArrivalFault s node.toNat g (bits p.addr.toNat 47 32) p xs = none →
        (c.arrived.length + 1 ≠ (redTree r).expected r node.toNat →
          redInputDown s (redTree r) node.toNat { c with arrived := c.arrived ++ [p.src.toNat] } = none → ∃ t, exec (.redChunk node p) s = .next t ∧
          tget (redNode t g node.toNat).ctxs n = some
            { c with
              arrived := c.arrived ++ [p.src.toNat], elems := addElems c.elems xs, residue := (c.residue + bits p.checkValue.toNat 60 0) % m61 } ∧
          (redNode t g node.toNat).base = nd.base ∧ OnlyParts [.fab, .vs] s t) ∧
        (c.arrived.length + 1 = (redTree r).expected r node.toNat → node.toNat ≠ redRoot r → nd.spent.contains (n % redK r) = false →
          tget nd.ctxs (n + 1) = none →
          residueFrom (128 * (n % redChunks r)) (addElems c.elems xs) = (c.residue + bits p.checkValue.toNat 60 0) % m61 →
          ∃ t, exec (.redChunk node p) s = .next t ∧
            Sent t node.toNat 0x70 ((redTree r).parent node.toNat) ((addElems c.elems xs).flatMap (fun x => leBytes 32 x.pack)) ∧
            (redNode t g node.toNat).base = n + 1 ∧ tget (redNode t g node.toNat).ctxs n = none ∧
            (redNode t g node.toNat).spent = nd.spent ++ [n % redK r] ∧ OnlyParts [.fab, .vs] s t) ∧
        (c.arrived.length + 1 = (redTree r).expected r node.toNat → node.toNat = redRoot r → (redOf s g).resync = false → (redOf s g).chunks = [] →
          redChunks r = 1 → tget nd.ctxs (n + 1) = none →
          residueFrom (128 * (n % redChunks r)) (addElems c.elems xs) = (c.residue + bits p.checkValue.toNat 60 0) % m61 →
          ∃ (t : State) (dest : Nat), exec (.redChunk node p) s = .next t ∧ (redOf t g).nextWave = n + 1 ∧ (redOf t g).faulted = (redOf s g).faulted ∧
            (redOf t g).resync = false ∧ (redNode t g node.toNat).base = n + 1 ∧
            Sent t node.toNat 3 dest (leBytes 16 (1 + 2 ^ 7 + 2 ^ 32))))) ∧
    (∀ (g : Nat) (nd : RedNode), Takes s node p u → g = bits p.aux.toNat 8 0 → nd = redNode s g node.toNat → p.opcode = 0x71 →
      tget nd.ctxs nd.base = none → ∃ t, exec (.redCredit node p) s = .next t ∧
      redNode t g node.toNat = { nd with spent := nd.spent.filter (· != bits p.aux.toNat 10 9) } ∧ OnlyParts [.fab, .vs] s t) ∧
    (∀ (w : BitVec 32) (k : BitVec 16) (b : Bank) (r n : Nat) (c : RedCtx), b = tileBank s node.toNat → r = redRecord b h.val →
      n = nearWave ((redNode s h.val node.toNat).base / redChunks r) w.toNat * redChunks r + k.toNat →
      tget (redNode s h.val node.toNat).ctxs n = some c → c.fault = none → c.arrived.length ≠ (redTree r).expected r node.toNat →
      ∃ t, exec (.redTimeout node h w k) s = .next t ∧ t.now = Nat.max s.now (c.firstAt + 1000 * setting s 0x2513 0) ∧
        (∀ x, tget (redNode t h.val node.toNat).ctxs n = some x → x.fault = some 0x50)) ∧
    (∀ g, Takes s node p u → p.opcode = 0x72 → g = bits p.aux.toNat 8 0 → ∃ t, exec (.redReport node p) s = .next t ∧
      tget (redOf t g).reports p.src.toNat = some (nearWave (redOf s g).nextWave ((field p.payload 0 4 + 1) % 2 ^ 32)) ∧
      (redOf t g).nextWave = (redOf s g).nextWave ∧ (redOf t g).resync = (redOf s g).resync ∧ OnlyParts [.fab, .vs] s t) ∧
    (∀ a, (redNode s h.val node.toNat).reportAt = some a → ∃ t, exec (.redReportRepeat node h) s = .next t ∧
      t.now = Nat.max s.now (a + 1000 * setting s 0x2512 0) ∧ (redNode t h.val node.toNat).reportAt = some t.now ∧
      Sent t node.toNat 0x72 (redRoot (redRecord (tileBank s node.toNat) h.val))
        (leBytes 8 (((redNode s h.val node.toNat).begun + 2 ^ 32 - 1) % 2 ^ 32)) ∧ OnlyParts [.fab, .now, .vs] s t) ∧
    (∀ (r top : Nat), r = redRecord s.ep.cur h.val → (redOf s h.val).resync = true → redAllReported s s.ep.cur h.val = true → s.ep.state ≠ 3 →
      top = ((redOf s h.val).reports.map (·.2)).foldl Nat.max (Nat.max (redOf s h.val).nextWave (redNode s h.val (redRoot r)).begun) →
      ∃ t, exec (.resyncQuiet h) s = .next t ∧ (redOf t h.val).resync = false ∧ (redOf t h.val).nextWave = top ∧ (redOf t h.val).reports = [] ∧
        redNode t h.val (redRoot r) = RedNode.restart r top ∧ Reported s t 0x53 2 ∧
        (∀ n ∈ (redTree r).nodes, n ≠ redRoot r → Sent t (redRoot r) 0x73 n (leBytes 8 (top % 2 ^ 32)))) ∧
    ((redOf s h.val).resync = false → ∃ t, exec (.resyncQuiet h) s = .next t ∧ (redOf t h.val).reports = [] ∧
      (redOf t h.val).nextWave = (redOf s h.val).nextWave ∧
      (∀ e ∈ (redOf s h.val).reports, Sent t (redRoot (redRecord s.ep.cur h.val)) 0x73 e.1 (leBytes 8 ((redOf s h.val).nextWave % 2 ^ 32))) ∧
      OnlyParts [.fab, .vs] s t) ∧
    (∀ g, Takes s node p u → p.opcode = 0x73 → g = bits p.aux.toNat 8 0 → (redNode s g node.toNat).reportAt.isSome = true →
      ∃ t, exec (.redResync node p) s = .next t ∧ redNode t g node.toNat =
        RedNode.restart (redRecord (packetBank s p) g) (nearWave (redNode s g node.toNat).begun (field p.payload 0 4)) ∧ OnlyParts [.fab, .vs] s t)

/-- R101, R104, R124, R126, R188, R189, R215, R219, R564 to R570: fibres. One becomes resident in a free slot with its launch registers; END frees its
slot; SYNC sends its operation and waits; FENCE, MCAST and RECV_MC go on when the spec lets them; WATCH feeds a tensor's leaves and DIGEST closes it.
It rests on choices and readings of the model: log entries 26, 27, 125 and 134. -/
def Obligations.FibreCommandsComplete : Prop :=
  ∀ (s : State) (v : VatId) (sl : SliceId) (st : SlotId),
    (∀ b : Batch, fibreAt s v.val sl.val st.val = none → dieUp s v.val = true →
      (vatOf s v.val).batches.find? (fun b => decide (b.next < b.total) && b.home b.next == sl.val) = some b →
      ∃ (t : State) (y : Fibre), exec (.fibreResident v sl st) s = .next t ∧ fibreAt t v.val sl.val st.val = some y ∧ y.state = 1 ∧ y.opIndex = 0 ∧
        y.regs = b.launchRegs b.next ∧ y.program = b.program ∧ y.batch = b.num ∧ y.index = b.next ∧ y.tag = b.tag ∧ y.bank = b.bank ∧ y.wait = none ∧
        (∃ z ∈ (vatOf t v.val).batches, z.num = b.num ∧ z.next = b.next + 1) ∧ OnlyParts [.vs] s t) ∧
    (∀ (x : Fibre) (c : OpCtx), Begins s x c → c.d = v.val → c.slice = sl.val → c.slot = st.val → c.check s = none →
      (c.desc.opcode = 0 → ∃ t, exec (.opEnd v sl st) s = .next t ∧ fibreAt t v.val sl.val st.val = none ∧
        (vatOf t v.val).opsExecuted = (vatOf s v.val).opsExecuted + 1 ∧
        (∀ b ∈ (vatOf s v.val).batches, b.num = x.batch → ({ b with ended := b.ended + 1 } : Batch) ∈ (vatOf t v.val).batches) ∧ OnlyParts [.obs, .vs] s t) ∧
      (∀ die k off, c.desc.opcode = 0x0B → mapped c.a = true → decodeAddr c.a = some (.syncCell die k off) → ∃ (t : State) (y : Fibre) (ret : Option Nat),
        exec (.opSync v sl st) s = .next t ∧ fibreAt t v.val sl.val st.val = some y ∧ y.state = 3 ∧ y.regs = x.regs ∧ y.opIndex = x.opIndex ∧
        y.wait = some (.sync (256 * die + k) (opCode (c.desc.imm + c.desc.aux * 2 ^ 64)) (opCond (c.desc.imm + c.desc.aux * 2 ^ 64)) ret s.now) ∧
        ret = (if bitAt c.desc.func 4 then some (bits c.desc.func 3 0) else none) ∧
        Sent t c.node 3 (Region.syncCell die k off).tile (leBytes 16 (c.desc.imm + c.desc.aux * 2 ^ 64)) ∧ OnlyParts [.fab, .vs] s t) ∧
      (c.desc.opcode = 0x0C → writesOut s (· == c.owner) = false → ∃ t, exec (.opFence v sl st) s = .next t ∧
        Resumed t v.val sl.val st.val x x.regs ∧ OnlyParts [.obs, .vs] s t) ∧
      (c.desc.opcode = 0x0C → writesOut s (· == c.owner) = true → ∃ t, exec (.opFence v sl st) s = .next t ∧
        fibreAt t v.val sl.val st.val = some c.x ∧ OnlyParts [.vs] s t) ∧
      (c.desc.opcode = 0x0F → (c.desc.release = true → writesOut s (· == c.owner) = false) → c.packedBad s = false → ∃ t,
        exec (.opMcast v sl st) s = .next t ∧ Resumed t v.val sl.val st.val x x.regs ∧
        (∀ e ∈ mcCuts ((c.packed s).length / 4096 + 2) (c.o % 2 ^ 32) (c.packed s),
          Sent t c.node 0x60 (mcRoot (mcRecord (tileBank s c.node) c.desc.aux)) e.2) ∧ OnlyParts [.fab, .obs, .vs] s t) ∧
      (c.desc.opcode = 0x0A → mcDown s c.desc.aux v.val = false → mcSatisfied (agentOf s c.desc.aux v.val).bytes c.desc.imm = true →
        ∃ t, exec (.opRecvMc v sl st) s = .next t ∧ Resumed t v.val sl.val st.val x x.regs ∧ OnlyParts [.obs, .vs] s t) ∧
      (c.desc.opcode = 0x0A → mcDown s c.desc.aux v.val = false → mcSatisfied (agentOf s c.desc.aux v.val).bytes c.desc.imm = false →
        ∃ t, exec (.opRecvMc v sl st) s = .next t ∧ fibreAt t v.val sl.val st.val =
          some { c.x with state := 3, wait := some (.mc c.desc.aux c.desc.imm s.now) } ∧ OnlyParts [.vs] s t) ∧
      (c.desc.opcode = 0x0A → mcDown s c.desc.aux v.val = true → ∃ t, exec (.opRecvMc v sl st) s = .next t ∧ Faulted s t c) ∧
      (c.desc.opcode = 0x0D → x.tag = none → c.packedBad s = false →
        (c.desc.fmtA = 9 → ∀ y ∈ rowElems 9 (c.desc.dim0 * c.desc.dim1) (c.packed s), (ofMemory y).isSome = true) →
        (watchOf s v.val).find? (fun w => w.wp == c.desc.aux && w.tag == none) = none →
        ((watchOf s v.val).filter (fun w => w.wp == c.desc.aux)).length < 8 →
        ((watchOf s v.val).map (fun y => y.leaves.length)).sum +
          (leavesFrom ((c.packed s).length / 4096 + 2) (c.desc.imm / 4096) (c.packed s)).length ≤ 16384 →
        ∃ (t : State) (w : WatchOpen), exec (.opWatch v sl st) s = .next t ∧ Resumed t v.val sl.val st.val x x.regs ∧ w ∈ watchOf t v.val ∧
          w.wp = c.desc.aux ∧ w.tag = none ∧ w.count = c.desc.dim0 * c.desc.dim1 ∧ w.lastUse = s.now ∧
          (∀ k ∈ leavesFrom ((c.packed s).length / 4096 + 2) (c.desc.imm / 4096) (c.packed s), tget w.leaves k.1 = some k.2) ∧
          OnlyParts [.obs, .vs] s t) ∧
      (∀ w : WatchOpen, c.desc.opcode = 0x0E → (watchOf s v.val).find? (fun w => w.wp == c.desc.aux && w.tag == x.tag) = some w →
        leavesComplete c.desc.imm w.leaves = true →
        (x.tag = none → ∃ t, exec (.opDigest v sl st) s = .next t ∧ RowsStored s t c.o 0 [watchRecord s v.val c.desc.imm w] ∧
          Resumed t v.val sl.val st.val x x.regs ∧ watchOf t v.val = dropFirst (· == w) (watchOf s v.val) ∧ OnlyParts [.integ, .mem, .obs, .vs] s t) ∧
        (∀ g, x.tag = some g → ∃ (t : State) (y : Fibre), exec (.opDigest v sl st) s = .next t ∧
          RowsStored s t c.o 0 [watchRecord s v.val c.desc.imm w] ∧ fibreAt t v.val sl.val st.val = some y ∧ y.state = 3 ∧ y.wait = some .report ∧
          Sent t c.node 6 (portFrontTile (tagPort g)) (watchRecord s v.val c.desc.imm w) ∧ OnlyParts [.fab, .integ, .mem, .obs, .vs] s t)))

/-- R113, R115, R156, R181, R182, R187, R298: data ops. LOAD and GATHER write what their rows hold once it is here, and ask for what is not; STORE and
SCATTER send their rows; a CONTRIBUTE enters its wave, or waits for a context; a descriptor that fails its checks faults the fibre.
It rests on choices and readings of the model: log entries 6, 124, 125 and 126. -/
def Obligations.DataOpsComplete : Prop :=
  ∀ (s : State) (v : VatId) (sl : SliceId) (st : SlotId) (x : Fibre) (c : OpCtx), Begins s x c → c.d = v.val → c.slice = sl.val → c.slot = st.val →
    (∀ code, c.check s = some code → c.desc.opcode = 1 → ∃ t, exec (.opLoad v sl st) s = .next t ∧ Faulted s t c ∧ t.mem = s.mem) ∧
    (∀ (data : List Bytes) (r : List (List (Option Nat))), c.check s = none → c.desc.opcode = 1 →
      c.fetch s (rowRanges c.a c.desc.dim0 c.desc.strideA (rowBytes c.desc.fmtA c.desc.dim1)) = .ready data →
      r = ((splitRows c.desc.dim0 (rowBytes c.desc.fmtA c.desc.dim1) data).map fun r => (rowElems c.desc.fmtA c.desc.dim1 r).map fun e =>
        (if c.desc.fmtA = 9 then reamCopy e else some (encodeElem c.desc.fmtOut c.desc.sat (decodeElem c.desc.fmtA e)))) →
      (r.all fun l => l.all (·.isSome)) = true →
      ∃ t, exec (.opLoad v sl st) s = .next t ∧ Computed s t x c (r.map fun l => l.map (·.getD 0))) ∧
    (∀ (a n : Nat) (r : Region), c.check s = none → c.desc.opcode = 1 →
      rowRanges c.a c.desc.dim0 c.desc.strideA (rowBytes c.desc.fmtA c.desc.dim1) = [(a, n)] → c.isHome a = false → accessCuts a n = [(a, n)] →
      c.x.reads = [] → decodeAddr a = some r → ∃ t, exec (.opLoad v sl st) s = .next t ∧ Sent t c.node 2 r.tile [] ∧
        fibreAt t v.val sl.val st.val = some { c.x with state := 3, wait := some .reads, reads := [{ addr := a, len := n }] } ∧ OnlyParts [.fab, .vs] s t) ∧
    (∀ (data : Bytes) (rows : List (List (Option Nat))), c.check s = none → c.desc.opcode = 2 →
      (∀ r ∈ rowRanges c.a c.desc.dim0 c.desc.strideA (rowBytes c.desc.fmtA c.desc.dim1), badRange s r.1 r.2 = false) →
      rows = ((List.range c.desc.dim0).map fun i => (operandRow s c.a c.desc.strideA c.desc.fmtA c.desc.dim1 i).map fun e =>
        (if c.desc.fmtA = 9 then reamCopy e else some (encodeElem c.desc.fmtOut c.desc.sat (decodeElem c.desc.fmtA e)))) →
      (rows.all fun l => l.all (·.isSome)) = true → data = (rows.map fun l => packElems c.desc.fmtOut (l.map (·.getD 0))).flatten →
      c.desc.dim0 = 1 ∨ c.desc.strideOut = rowBytes c.desc.fmtOut c.desc.dim1 → ∃ t, exec (.opStore v sl st) s = .next t ∧
        Resumed t v.val sl.val st.val x x.regs ∧
        (c.isHome c.o = true → RowsStored s t c.o 0 [data]) ∧
        (c.isHome c.o = false → t.mem = s.mem ∧ ∀ k ∈ accessCuts c.o data.length, ∀ r, decodeAddr k.1 = some r →
          Sent t c.node 1 r.tile (slice data (k.1 - c.o) k.2))) ∧
    (∀ rows : List (List (Option Nat)), c.check s = none → c.desc.opcode = 2 →
      (∀ r ∈ rowRanges c.a c.desc.dim0 c.desc.strideA (rowBytes c.desc.fmtA c.desc.dim1), badRange s r.1 r.2 = false) →
      rows = ((List.range c.desc.dim0).map fun i => (operandRow s c.a c.desc.strideA c.desc.fmtA c.desc.dim1 i).map fun e =>
        (if c.desc.fmtA = 9 then reamCopy e else some (encodeElem c.desc.fmtOut c.desc.sat (decodeElem c.desc.fmtA e)))) →
      (rows.all fun l => l.all (·.isSome)) = true → c.desc.dim0 ≠ 1 → c.desc.strideOut ≠ rowBytes c.desc.fmtOut c.desc.dim1 →
      ∃ t, exec (.opStore v sl st) s = .next t ∧ Resumed t v.val sl.val st.val x x.regs ∧
        ((∀ i < c.desc.dim0, c.isHome (c.o + i * c.desc.strideOut) = true) →
          RowsStored s t c.o c.desc.strideOut (rows.map fun l => packElems c.desc.fmtOut (l.map (·.getD 0)))) ∧
        ((∀ i < c.desc.dim0, c.isHome (c.o + i * c.desc.strideOut) = false) → t.mem = s.mem ∧
          ∀ (i : Nat) (l : List (Option Nat)) (k : Nat × Nat) (r : Region), rows[i]? = some l →
            k ∈ accessCuts (c.o + i * c.desc.strideOut) (rowBytes c.desc.fmtOut c.desc.dim1) → decodeAddr k.1 = some r →
            Sent t c.node 1 r.tile (slice (packElems c.desc.fmtOut (l.map (·.getD 0))) (k.1 - (c.o + i * c.desc.strideOut)) k.2))) ∧
    (∀ data : List Bytes, c.check s = none → c.desc.opcode = 3 → c.indicesBad s = false →
      c.indexFault c.a c.desc.strideA (rowBytes c.desc.fmtA c.desc.dim1) (c.indices s) false = none →
      c.fetch s (OpCtx.tableRanges c.a c.desc.strideA (rowBytes c.desc.fmtA c.desc.dim1) (c.indices s)) = .ready data →
      ∃ t, exec (.opGather v sl st) s = .next t ∧ RowsStored s t c.o c.desc.strideOut data ∧ Resumed t v.val sl.val st.val x x.regs ∧
        OnlyParts [.integ, .mem, .obs, .vs] s t) ∧
    (c.check s = none → c.desc.opcode = 4 → c.indicesBad s = false →
      c.indexFault c.o c.desc.strideOut (rowBytes c.desc.fmtA c.desc.dim1) (c.indices s) false = none →
      (∀ i < c.desc.dim0, badRange s (c.a + i * c.desc.strideA) (rowBytes c.desc.fmtA c.desc.dim1) = false) →
      (∀ i ∈ c.indices s, c.isHome (c.o + i.toNat * c.desc.strideOut) = false) → ∃ t, exec (.opScatter v sl st) s = .next t ∧
        Resumed t v.val sl.val st.val x x.regs ∧ OnlyParts [.fab, .obs, .vs] s t ∧
        ∀ (i : Nat) (n : Int) (k : Nat × Nat) (r : Region), (c.indices s)[i]? = some n → i < c.desc.dim0 →
          k ∈ accessCuts (c.o + n.toNat * c.desc.strideOut) (rowBytes c.desc.fmtA c.desc.dim1) → decodeAddr k.1 = some r → Sent t c.node 1 r.tile
            (slice (readMem s (c.a + i * c.desc.strideA) (rowBytes c.desc.fmtA c.desc.dim1)) (k.1 - (c.o + n.toNat * c.desc.strideOut)) k.2)) ∧
    (∀ (g r : Nat) (nd : RedNode), c.check s = none → c.desc.opcode = 9 → g = c.desc.aux → r = redRecord (tileBank s c.node) g → nd = redNode s g c.node →
      x.state = 1 → x.wait = none → c.contributeBad s (tileBank s c.node) g = false → c.packedBad s = false →
      (c.wires s (redWindow r)).all (·.isSome) = true → (c.desc.release = true → writesOut s (· == c.owner) = false) →
      (leafFree s r g c.node = true → ∃ t, exec (.opContribute v sl st) s = .next t ∧
        (nd.nextWave * redChunks r + redChunks r ≤ nd.base + redK r → Resumed t v.val sl.val st.val x x.regs) ∧
        (Resumed t v.val sl.val st.val x x.regs ∨ ∃ k < redChunks r,
          fibreAt t v.val sl.val st.val = some { c.x with state := 3, wait := some (.leaf g (some nd.nextWave) k s.now) }) ∧
        (nd.contrib + 1 = redPerTile r → (redNode t g c.node).contrib = 0 ∧ (redNode t g c.node).nextWave = nd.nextWave + 1) ∧
        (nd.contrib + 1 ≠ redPerTile r → (redNode t g c.node).contrib = nd.contrib + 1 ∧ (redNode t g c.node).nextWave = nd.nextWave)) ∧
      (leafFree s r g c.node = false → ∃ t, exec (.opContribute v sl st) s = .next t ∧ fibreAt t v.val sl.val st.val =
        some { c.x with state := 3, wait := some (.leaf g none 0 s.now) } ∧ OnlyParts [.vs] s t))

/-- R156 to R160, R166, R169, R184, R192 to R194: ELTWISE, element by element: each output element is the function of the elements at its place, widened
to FP32 and narrowed to FMT_OUT; COPY converts; REQUANT scales integers.
It rests on choices and readings of the model: log entry 27. -/
def Obligations.ElementwiseOpsComplete : Prop :=
  ∀ (s : State) (v : VatId) (sl : SliceId) (st : SlotId) (x : Fibre) (c : OpCtx), Begins s x c → c.d = v.val → c.slice = sl.val → c.slot = st.val →
    c.check s = none → c.desc.opcode = 6 → c.badInput s = none →
    (∀ r : List (List (Option Nat)), c.desc.func = 0x00 → r = ((List.range c.desc.dim0).map fun i =>
        (operandRow s c.a c.desc.strideA c.desc.fmtA c.desc.dim1 i).map fun e =>
          (if c.desc.fmtA = 9 then reamCopy e else some (encodeElem c.desc.fmtOut c.desc.sat (decodeElem c.desc.fmtA e)))) →
      (r.all fun l => l.all (·.isSome)) = true →
      ∃ t, exec (.eltwiseCopy v sl st) s = .next t ∧ Computed s t x c (r.map fun l => l.map (·.getD 0))) ∧
    (c.desc.func = 0x01 → ∃ t, exec (.eltwiseAdd v sl st) s = .next t ∧ Computed s t x c (elementRows s c fun a b _ => fp32Add a b)) ∧
    (c.desc.func = 0x02 → ∃ t, exec (.eltwiseSub v sl st) s = .next t ∧ Computed s t x c (elementRows s c fun a b _ => fp32Sub a b)) ∧
    (c.desc.func = 0x03 → ∃ t, exec (.eltwiseMul v sl st) s = .next t ∧ Computed s t x c (elementRows s c fun a b _ => fp32Mul a b)) ∧
    (c.desc.func = 0x04 → ∃ t, exec (.eltwiseFma v sl st) s = .next t ∧
      Computed s t x c (elementRows s c fun a b p => fp32Fma a b (if c.desc.acc then p else 0))) ∧
    (c.desc.func = 0x05 → ∃ t, exec (.eltwiseMin v sl st) s = .next t ∧ Computed s t x c (elementRows s c fun a b _ => fp32Min a b)) ∧
    (c.desc.func = 0x06 → ∃ t, exec (.eltwiseMax v sl st) s = .next t ∧ Computed s t x c (elementRows s c fun a b _ => fp32Max a b)) ∧
    (c.desc.func = 0x07 → ∃ t, exec (.eltwiseAbs v sl st) s = .next t ∧ Computed s t x c (elementRows s c fun a _ _ => fp32Abs a)) ∧
    (c.desc.func = 0x08 → ∃ t, exec (.eltwiseNeg v sl st) s = .next t ∧ Computed s t x c (elementRows s c fun a _ _ => fp32Neg a)) ∧
    (c.desc.func = 0x09 → ∃ t, exec (.eltwiseRelu v sl st) s = .next t ∧ Computed s t x c (elementRows s c fun a _ _ => fp32Relu a)) ∧
    (c.desc.func = 0x0A → ∃ t, exec (.eltwiseScaleBias v sl st) s = .next t ∧
      Computed s t x c (elementRows s c fun a _ _ => fp32Fma a (bits c.desc.imm 31 0) (bits c.desc.imm 63 32))) ∧
    (c.desc.func = 0x0B → ∃ t, exec (.eltwiseRequant v sl st) s = .next t ∧ Computed s t x c ((List.range c.desc.dim0).map fun i =>
      (operandRow s c.a c.desc.strideA c.desc.fmtA c.desc.dim1 i).map fun e => requant c.desc.imm c.desc.fmtA c.desc.fmtOut e)) ∧
    (c.desc.func = 0x10 → ∃ t, exec (.eltwiseExp v sl st) s = .next t ∧ Computed s t x c (elementRows s c fun a _ _ => fnEval 0x10 a)) ∧
    (c.desc.func = 0x11 → ∃ t, exec (.eltwiseLog v sl st) s = .next t ∧ Computed s t x c (elementRows s c fun a _ _ => fnEval 0x11 a)) ∧
    (c.desc.func = 0x12 → ∃ t, exec (.eltwiseSigmoid v sl st) s = .next t ∧ Computed s t x c (elementRows s c fun a _ _ => fnEval 0x12 a)) ∧
    (c.desc.func = 0x13 → ∃ t, exec (.eltwiseTanh v sl st) s = .next t ∧ Computed s t x c (elementRows s c fun a _ _ => fnEval 0x13 a)) ∧
    (c.desc.func = 0x14 → ∃ t, exec (.eltwiseRecip v sl st) s = .next t ∧ Computed s t x c (elementRows s c fun a _ _ => fnEval 0x14 a)) ∧
    (c.desc.func = 0x15 → ∃ t, exec (.eltwiseRsqrt v sl st) s = .next t ∧ Computed s t x c (elementRows s c fun a _ _ => fnEval 0x15 a)) ∧
    (c.desc.func = 0x16 → ∃ t, exec (.eltwiseSqrt v sl st) s = .next t ∧ Computed s t x c (elementRows s c fun a _ _ => fnEval 0x16 a)) ∧
    (c.desc.func = 0x17 → ∃ t, exec (.eltwiseErf v sl st) s = .next t ∧ Computed s t x c (elementRows s c fun a _ _ => fnEval 0x17 a))

/-- R163 to R165, R167, R183 to R186: the ops that combine elements. MATMUL, row sums and maxima, TREE_EVAL and EMBED write, for each output element, what
their rule makes of its row, column, trees or looked-up rows; the result stands where no element faults.
It rests on choices and readings of the model: log entry 27. -/
def Obligations.CombiningOpsComplete : Prop :=
  ∀ (s : State) (v : VatId) (sl : SliceId) (st : SlotId) (x : Fibre) (c : OpCtx) (e : Desc), Begins s x c → c.d = v.val → c.slice = sl.val →
    c.slot = st.val → c.check s = none → e = c.desc →
    (∀ r : List (List (Option Nat)), e.opcode = 5 → c.badInput s = none → r = ((List.range e.dim0).map fun i => (List.range e.dim1).map fun j =>
        (e.matmulElem (operandRow s c.a e.strideA e.fmtA e.dim2 i)
          (if e.transB then operandRow s c.b e.strideB e.fmtB e.dim2 j
            else (List.range e.dim2).map fun k => elementAt s c.b e.strideB e.fmtB e.dim1 k j)
          (elementAt s c.o e.strideOut e.fmtOut e.dim1 i j)).1) → (r.all fun l => l.all (·.isSome)) = true →
      ∃ t, exec (.opMatmul v sl st) s = .next t ∧ Computed s t x c (r.map fun l => l.map (·.getD 0))) ∧
    (e.opcode = 6 → e.func = 0x20 → e.exact = false → c.badInput s = none → ∃ t, exec (.eltwiseRowSum v sl st) s = .next t ∧
      Computed s t x c ((List.range e.dim0).map fun i => [narrow e.fmtOut e.sat (seqSum
        (if e.acc then widen e.fmtOut (elementAt s c.o e.strideOut e.fmtOut 1 i 0) else 0)
        ((operandRow s c.a e.strideA e.fmtA e.dim1 i).map (widen e.fmtA)))])) ∧
    (∀ r : List (Option Nat), e.opcode = 6 → e.func = 0x20 → e.exact = true → c.badInput s = none → r = ((List.range e.dim0).map fun i =>
        (e.exactSum ((operandRow s c.a e.strideA e.fmtA e.dim1 i).map (decodeElem e.fmtA)) (elementAt s c.o e.strideOut e.fmtOut 1 i 0)).1) →
      r.all (·.isSome) = true → ∃ t, exec (.eltwiseRowSum v sl st) s = .next t ∧ Computed s t x c (r.map fun y => [y.getD 0])) ∧
    (e.opcode = 6 → e.func = 0x21 → c.badInput s = none → ∃ t, exec (.eltwiseRowMax v sl st) s = .next t ∧
      Computed s t x c ((List.range e.dim0).map fun i => [narrow e.fmtOut e.sat
        ((((operandRow s c.a e.strideA e.fmtA e.dim1 i).map (widen e.fmtA)).drop 1).foldl fp32Max
          (((operandRow s c.a e.strideA e.fmtA e.dim1 i).map (widen e.fmtA)).headD 0))])) ∧
    (∀ r : List (Option Nat), e.opcode = 7 → c.badInput s = none → r = ((List.range e.dim0).map fun i =>
        (e.treeSum ((List.range e.aux).map fun k => readMem s (c.b + k * e.strideB) (treeBytes e.dim2))
          (operandRow s c.a e.strideA e.fmtA e.dim1 i) (elementAt s c.o e.strideOut e.fmtOut 1 i 0)).1) → r.all (·.isSome) = true →
      ∃ t, exec (.opTreeEval v sl st) s = .next t ∧ Computed s t x c (r.map fun y => [y.getD 0])) ∧
    (∀ (idx : List Int) (rows : List (Option (List Nat))), e.opcode = 8 → idx = c.indices s → c.badInput s = none →
      c.indexFault c.a e.strideA (rowBytes e.fmtA e.dim1) idx true = none →
      (∀ r ∈ OpCtx.tableRanges c.a e.strideA (rowBytes e.fmtA e.dim1) idx, c.isHome r.1 = true ∧ badRange s r.1 r.2 = false) →
      rows = idx.map (fun i => if i < 0 then none else some (operandRow s c.a e.strideA e.fmtA e.dim1 i.toNat)) →
      (e.func = 0 → ∃ t, exec (.embedRows v sl st) s = .next t ∧ Computed s t x c (rows.map fun r =>
        (match r with
         | some l => l.map fun y => narrow e.fmtOut e.sat (widen e.fmtA y)
         | none => (List.range e.dim1).map fun _ => narrow e.fmtOut e.sat 0))) ∧
      (e.func = 1 → e.exact = false → ∃ t, exec (.embedSum v sl st) s = .next t ∧ Computed s t x c
        [(List.range e.dim1).map fun j => narrow e.fmtOut e.sat (seqSum
          (if e.acc then widen e.fmtOut (elementAt s c.o e.strideOut e.fmtOut e.dim1 0 j) else 0)
          ((rows.filterMap id).map fun r => widen e.fmtA (r.getD j 0)))]) ∧
      (∀ r : List (Option Nat), e.func = 1 → e.exact = true → r = ((List.range e.dim1).map fun j =>
          (e.exactSum ((rows.filterMap id).map fun l => decodeElem e.fmtA (l.getD j 0)) (elementAt s c.o e.strideOut e.fmtOut e.dim1 0 j)).1) →
        r.all (·.isSome) = true → ∃ t, exec (.embedSum v sl st) s = .next t ∧ Computed s t x c [r.map (·.getD 0)]) ∧
      (e.func = 2 → ∃ t, exec (.embedMax v sl st) s = .next t ∧ Computed s t x c
        [(List.range e.dim1).map fun j => narrow e.fmtOut e.sat
          (match (rows.filterMap id).map (fun r => widen e.fmtA (r.getD j 0)) with
           | [] => 0
           | a :: l => l.foldl fp32Max a)]))

/-- R195, R196, R199, R201, R202, R204, R206: the sequencer's arithmetic, branches and loops. An instruction that writes a register writes that one alone and goes on at the
next word; a branch goes to PC + OFF where its condition holds; LOOP starts its counter; RESTART goes to word 0; HALT stays; an accepted STOP takes effect at
the next boundary.
It rests on choices and readings of the model: log entry 121. -/
def Obligations.SequencerArithmeticAndFlowComplete : Prop :=
  ∀ (s : State) (v : VatId) (w : Nat) (a b i j : Word) (sh q : Nat), a = sreg s v.val (fB w) → b = sreg s v.val (fC w) → i = immS (fImm w) →
    j = BitVec.ofNat 64 (fImm w) → sh = fImm w % 64 → q = (seqOf s v.val).pc →
    (Executes s v.val 0x01 w → ∃ t, exec (.seqAdd v) s = .next t ∧ WroteSD s t v.val (fA w) (a + b) ∧ OnlyParts [.vs] s t) ∧
    (Executes s v.val 0x02 w → ∃ t, exec (.seqSub v) s = .next t ∧ WroteSD s t v.val (fA w) (a - b) ∧ OnlyParts [.vs] s t) ∧
    (Executes s v.val 0x03 w → ∃ t, exec (.seqMul v) s = .next t ∧ WroteSD s t v.val (fA w) (a * b) ∧ OnlyParts [.vs] s t) ∧
    (Executes s v.val 0x04 w → ∃ t, exec (.seqAnd v) s = .next t ∧ WroteSD s t v.val (fA w) (a &&& b) ∧ OnlyParts [.vs] s t) ∧
    (Executes s v.val 0x05 w → ∃ t, exec (.seqOr v) s = .next t ∧ WroteSD s t v.val (fA w) (a ||| b) ∧ OnlyParts [.vs] s t) ∧
    (Executes s v.val 0x06 w → ∃ t, exec (.seqXor v) s = .next t ∧ WroteSD s t v.val (fA w) (a ^^^ b) ∧ OnlyParts [.vs] s t) ∧
    (Executes s v.val 0x07 w → ∃ t, exec (.seqShl v) s = .next t ∧ WroteSD s t v.val (fA w) (a <<< (b.toNat % 64)) ∧ OnlyParts [.vs] s t) ∧
    (Executes s v.val 0x08 w → ∃ t, exec (.seqShr v) s = .next t ∧ WroteSD s t v.val (fA w) (a >>> (b.toNat % 64)) ∧ OnlyParts [.vs] s t) ∧
    (Executes s v.val 0x09 w → ∃ t, exec (.seqSra v) s = .next t ∧ WroteSD s t v.val (fA w) (a.sshiftRight (b.toNat % 64)) ∧ OnlyParts [.vs] s t) ∧
    (Executes s v.val 0x0A w → ∃ t, exec (.seqSlt v) s = .next t ∧ WroteSD s t v.val (fA w) (if a.toInt < b.toInt then 1 else 0) ∧
      OnlyParts [.vs] s t) ∧
    (Executes s v.val 0x0B w → ∃ t, exec (.seqSltu v) s = .next t ∧ WroteSD s t v.val (fA w) (if a.toNat < b.toNat then 1 else 0) ∧
      OnlyParts [.vs] s t) ∧
    (Executes s v.val 0x0C w → ∃ t, exec (.seqMinu v) s = .next t ∧ WroteSD s t v.val (fA w) (if a.toNat < b.toNat then a else b) ∧
      OnlyParts [.vs] s t) ∧
    (Executes s v.val 0x0D w → ∃ t, exec (.seqMaxu v) s = .next t ∧ WroteSD s t v.val (fA w) (if a.toNat < b.toNat then b else a) ∧
      OnlyParts [.vs] s t) ∧
    (Executes s v.val 0x10 w → ∃ t, exec (.seqAddi v) s = .next t ∧ WroteSD s t v.val (fA w) (a + i) ∧ OnlyParts [.vs] s t) ∧
    (Executes s v.val 0x11 w → ∃ t, exec (.seqAndi v) s = .next t ∧ WroteSD s t v.val (fA w) (a &&& j) ∧ OnlyParts [.vs] s t) ∧
    (Executes s v.val 0x12 w → ∃ t, exec (.seqOri v) s = .next t ∧ WroteSD s t v.val (fA w) (a ||| j) ∧ OnlyParts [.vs] s t) ∧
    (Executes s v.val 0x13 w → ∃ t, exec (.seqXori v) s = .next t ∧ WroteSD s t v.val (fA w) (a ^^^ j) ∧ OnlyParts [.vs] s t) ∧
    (Executes s v.val 0x14 w → ∃ t, exec (.seqShli v) s = .next t ∧ WroteSD s t v.val (fA w) (a <<< sh) ∧ OnlyParts [.vs] s t) ∧
    (Executes s v.val 0x15 w → ∃ t, exec (.seqShri v) s = .next t ∧ WroteSD s t v.val (fA w) (a >>> sh) ∧ OnlyParts [.vs] s t) ∧
    (Executes s v.val 0x16 w → ∃ t, exec (.seqSrai v) s = .next t ∧ WroteSD s t v.val (fA w) (a.sshiftRight sh) ∧ OnlyParts [.vs] s t) ∧
    (Executes s v.val 0x17 w → ∃ t, exec (.seqMovk v) s = .next t ∧ WroteSD s t v.val (fA w)
      (BitVec.ofNat 64 (setBits (sreg s v.val (fA w)).toNat (16 * bits w 17 16 + 15) (16 * bits w 17 16) (fImm w))) ∧ OnlyParts [.vs] s t) ∧
    (Executes s v.val 0x2C w → ∃ t, exec (.seqMfl v) s = .next t ∧ WroteSD s t v.val (fA w)
      (BitVec.ofNat 64 (if (loopOf (seqOf s v.val) (bits w 20 18)).active then (loopOf (seqOf s v.val) (bits w 20 18)).index else 0)) ∧
      OnlyParts [.vs] s t) ∧
    (Executes s v.val 0x2D w → ∃ t, exec (.seqTime v) s = .next t ∧ WroteSD s t v.val (fA w) (BitVec.ofNat 64 s.now) ∧ OnlyParts [.vs] s t) ∧
    (Executes s v.val 0x28 w → ∃ t, exec (.seqNop v) s = .next t ∧ WroteSD s t v.val 0 0 ∧ OnlyParts [.vs] s t) ∧
    (Executes s v.val 0x2E w → ∃ t, exec (.seqMark v) s = .next t ∧ WroteSD s t v.val 0 0 ∧ OnlyParts [.obs, .vs] s t) ∧
    (∀ c : Word, c = sreg s v.val (fA w) →
      (Executes s v.val 0x1C w → ∃ t, exec (.seqBeq v) s = .next t ∧ KeptRegs s t v.val ∧ OnlyParts [.obs, .vs] s t ∧
        GoesOn s t v.val (if c = a then (q + fImm w) % 65536 else (q + 1) % 65536)) ∧
      (Executes s v.val 0x1D w → ∃ t, exec (.seqBne v) s = .next t ∧ KeptRegs s t v.val ∧ OnlyParts [.obs, .vs] s t ∧
        GoesOn s t v.val (if c ≠ a then (q + fImm w) % 65536 else (q + 1) % 65536)) ∧
      (Executes s v.val 0x1E w → ∃ t, exec (.seqBlt v) s = .next t ∧ KeptRegs s t v.val ∧ OnlyParts [.obs, .vs] s t ∧
        GoesOn s t v.val (if c.toInt < a.toInt then (q + fImm w) % 65536 else (q + 1) % 65536)) ∧
      (Executes s v.val 0x1F w → ∃ t, exec (.seqBltu v) s = .next t ∧ KeptRegs s t v.val ∧ OnlyParts [.obs, .vs] s t ∧
        GoesOn s t v.val (if c.toNat < a.toNat then (q + fImm w) % 65536 else (q + 1) % 65536)) ∧
      (Executes s v.val 0x20 w → ∃ t, exec (.seqBge v) s = .next t ∧ KeptRegs s t v.val ∧ OnlyParts [.obs, .vs] s t ∧
        GoesOn s t v.val (if a.toInt ≤ c.toInt then (q + fImm w) % 65536 else (q + 1) % 65536)) ∧
      (Executes s v.val 0x21 w → ∃ t, exec (.seqBgeu v) s = .next t ∧ KeptRegs s t v.val ∧ OnlyParts [.obs, .vs] s t ∧
        GoesOn s t v.val (if a.toNat ≤ c.toNat then (q + fImm w) % 65536 else (q + 1) % 65536))) ∧
    (∀ n : Nat, Executes s v.val 0x24 w → n = (sreg s v.val (bits w 22 18)).toNat →
      (n = 0 → ∃ t, exec (.seqLoop v) s = .next t ∧ KeptRegs s t v.val ∧ (seqOf t v.val).loops = (seqOf s v.val).loops ∧
        GoesOn s t v.val ((q + fImm w + 1) % 65536) ∧ OnlyParts [.obs, .vs] s t) ∧
      (1 ≤ n → n ≤ 16777215 → ∃ t, exec (.seqLoop v) s = .next t ∧ KeptRegs s t v.val ∧
        loopOf (seqOf t v.val) (bits w 25 23) = { active := true, count := n, index := 0 } ∧ GoesOn s t v.val ((q + 1) % 65536) ∧
        OnlyParts [.obs, .vs] s t) ∧
      (16777215 < n → setting s 0x3115 (v.val + 1) ≠ 1 → ∃ t, exec (.seqLoop v) s = .next t ∧ Trapped s t v.val 9)) ∧
    (Executes s v.val 0x26 w → ∃ t, exec (.seqRestart v) s = .next t ∧ KeptRegs s t v.val ∧ GoesOn s t v.val 0 ∧
      (seqOf t v.val).passes = ((seqOf s v.val).passes + 1) % 2 ^ 32 ∧ (∀ c ∈ (seqOf t v.val).loops, c.active = false) ∧ OnlyParts [.obs, .vs] s t) ∧
    (Executes s v.val 0x27 w → ∃ t, exec (.seqHalt v) s = .next t ∧ KeptRegs s t v.val ∧ (seqOf t v.val).state = 4 ∧ (seqOf t v.val).pc = q ∧
      OnlyParts [.obs, .vs] s t) ∧
    ((seqOf s v.val).state = 2 → (seqOf s v.val).wait = none → dieUp s v.val = true → (seqOf s v.val).badWords.contains q = false →
      bits ((seqOf s v.val).prog.getD q 0).toNat 31 26 = 0x28 → (seqOf s v.val).posted = none → (seqOf s v.val).stopping = true →
      ∃ t, exec (.seqNop v) s = .next t ∧ (seqOf t v.val).state = 4 ∧ (seqOf t v.val).pc = (q + 1) % 65536 ∧ OnlyParts [.vs] s t)

/-- R207, R208, R214 to R228: the sequencer's accesses, batches and waits. LD asks for 8 bytes and completes with them; ST, SYNC, MCAST send; FENCE and
LAUNCH wait for earlier writes; LAUNCH enters a batch; BWAIT takes a completed one's status; MCWAIT waits for a count.
It rests on choices and readings of the model: log entries 26 and 121. -/
def Obligations.SequencerAccessesComplete : Prop :=
  ∀ (s : State) (v : VatId) (w : Nat),
    (∀ (a : Nat) (r : Region), a = memAddr s v.val w → memTrap a = none → decodeAddr a = some r →
      (Executes s v.val 0x18 w → ∃ t, exec (.seqLd v) s = .next t ∧ Sent t (seqTile v.val) 2 r.tile [] ∧
        (seqOf t v.val).wait = some (.load a (fA w) none) ∧ (seqOf t v.val).pc = (seqOf s v.val).pc ∧ KeptRegs s t v.val ∧ OnlyParts [.fab, .vs] s t) ∧
      (Executes s v.val 0x19 w → (∀ d c o, r ≠ .syncCell d c o) → writesCount s (.sequencer v.val) < 32 → ∃ t, exec (.seqSt v) s = .next t ∧
        Sent t (seqTile v.val) 1 r.tile (leBytes 8 (sreg s v.val (fA w)).toNat) ∧ KeptRegs s t v.val ∧
        GoesOn s t v.val (((seqOf s v.val).pc + 1) % 65536) ∧ OnlyParts [.fab, .vs] s t) ∧
      (Executes s v.val 0x19 w → (∃ d c o, r = .syncCell d c o) → setting s 0x3115 (v.val + 1) ≠ 1 → ∃ t, exec (.seqSt v) s = .next t ∧
        Trapped s t v.val 6)) ∧
    (∀ c : Nat, memTrap (memAddr s v.val w) = some c → setting s 0x3115 (v.val + 1) ≠ 1 →
      (Executes s v.val 0x18 w → ∃ t, exec (.seqLd v) s = .next t ∧ Trapped s t v.val c) ∧
      (Executes s v.val 0x19 w → ∃ t, exec (.seqSt v) s = .next t ∧ Trapped s t v.val c)) ∧
    (∀ (a sd : Nat) (data : Bytes), (seqOf s v.val).wait = some (.load a sd (some data)) → (seqOf s v.val).posted = none →
      (seqOf s v.val).stopping = false → ∃ t, exec (.seqLdData v) s = .next t ∧ WroteSD s t v.val sd (BitVec.ofNat 64 (leNat data)) ∧
        OnlyParts [.vs] s t) ∧
    (∀ (a pay ph die c off : Nat), Executes s v.val 0x34 w → a = (sreg s v.val (fB w)).toNat % 2 ^ 48 → pay = (sreg s v.val (fC w)).toNat →
      ph = (sreg s v.val (fC w + 1)).toNat % 2 ^ 16 → mapped a = true → decodeAddr a = some (.syncCell die c off) →
      ∃ (t : State) (ret : Option Nat), exec (.seqSync v) s = .next t ∧ ret = (if bitAt w 10 then some (fA w) else none) ∧
        (seqOf t v.val).wait = some (.sync (256 * die + c) pay ph ret (bitAt w 9) s.now) ∧
        (seqOf t v.val).state = (if opCode pay = 3 ∨ opCode pay = 4 then 3 else 2) ∧ (seqOf t v.val).pc = (seqOf s v.val).pc ∧ KeptRegs s t v.val ∧
        Sent t (seqTile v.val) 3 (Region.syncCell die c off).tile (leBytes 16 (pay + ph * 2 ^ 64)) ∧ OnlyParts [.fab, .vs] s t) ∧
    (Executes s v.val 0x35 w → (writesOut s (· == .sequencer v.val) = false → ∃ t, exec (.seqFence v) s = .next t ∧ KeptRegs s t v.val ∧
        GoesOn s t v.val (((seqOf s v.val).pc + 1) % 65536) ∧ OnlyParts [.vs] s t) ∧
      (writesOut s (· == .sequencer v.val) = true → exec (.seqFence v) s = .next s)) ∧
    (∀ (a n g : Nat) (off slice : Nat), Executes s v.val 0x36 w → a = (sreg s v.val (fA w)).toNat % 2 ^ 48 → n = bits (sreg s v.val (fB w)).toNat 31 0 →
      g = bits w 9 0 → decodeAddr a = some (.vatSram v.val slice off) → off + n ≤ 0x180000 → 1 ≤ n → n ≤ 1572864 → badRange s a n = false →
      writesOut s (· == .sequencer v.val) = false → ∃ t, exec (.seqMcast v) s = .next t ∧
        (∀ e ∈ mcCuts (n / 4096 + 2) (bits (sreg s v.val (fB w)).toNat 63 32) (readMem s a n),
          Sent t (seqTile v.val) 0x60 (mcRoot (mcRecord (tileBank s (seqTile v.val)) g)) e.2) ∧ (seqOf t v.val).wait = some .mcast ∧
        (seqOf t v.val).pc = (seqOf s v.val).pc ∧ KeptRegs s t v.val ∧ OnlyParts [.fab, .obs, .vs] s t) ∧
    (∀ g c : Nat, Executes s v.val 0x37 w → g = bits w 9 0 → c = (sreg s v.val (fA w)).toNat % 2 ^ 32 → mcDown s g v.val = false →
      (mcSatisfied (agentOf s g v.val).bytes c = true → ∃ t, exec (.seqMcwait v) s = .next t ∧ KeptRegs s t v.val ∧
        GoesOn s t v.val (((seqOf s v.val).pc + 1) % 65536) ∧ OnlyParts [.obs, .vs] s t) ∧
      (mcSatisfied (agentOf s g v.val).bytes c = false → ∃ t, exec (.seqMcwait v) s = .next t ∧ (seqOf t v.val).state = 3 ∧
        (seqOf t v.val).wait = some (.mc g c (bitAt w 15) s.now) ∧ (seqOf t v.val).pc = (seqOf s v.val).pc ∧ OnlyParts [.vs] s t)) ∧
    (∀ a : LaunchArgs, a = launchArgs s v.val w → a.invalid = false →
      (∀ g, a.tag = some g → staleTag s v.val g = false ∧ (bankHolding s v.val (bits a.context 27 24) (bits a.context 63 32)).isSome = true) →
      writesOut s (· == .sequencer v.val) = false →
      (Executes s v.val 0x30 w → (vatOf s v.val).batches.length < 64 → ∃ (t : State) (b : Batch), exec (.seqLaunch v) s = .next t ∧
        (vatOf t v.val).batches = (vatOf s v.val).batches ++ [b] ∧ b.num = (vatOf s v.val).nextBatch ∧ b.total = a.total ∧ b.args = a.args ∧
        b.program = a.program ∧ b.slices = a.slices ∧ b.tag = a.tag ∧ b.detached = a.detach ∧ b.next = 0 ∧ b.done = false ∧
        (vatOf t v.val).nextBatch = ((vatOf s v.val).nextBatch + 1) % 65536 ∧
        (a.sd ≠ 0 → sreg t v.val a.sd = BitVec.ofNat 64 (vatOf s v.val).nextBatch) ∧ GoesOn s t v.val (((seqOf s v.val).pc + 1) % 65536) ∧
        OnlyParts [.obs, .vs] s t) ∧
      (Executes s v.val 0x30 w → 64 ≤ (vatOf s v.val).batches.length → ∃ t, exec (.seqLaunch v) s = .next t ∧ (seqOf t v.val).state = 3 ∧
        (seqOf t v.val).wait = some (.launch s.now) ∧ (vatOf t v.val).batches = (vatOf s v.val).batches ∧ OnlyParts [.vs] s t) ∧
      (∀ since, (seqOf s v.val).wait = some (.launch since) → w = ((seqOf s v.val).prog.getD (seqOf s v.val).pc 0).toNat →
        (seqOf s v.val).posted = none → (seqOf s v.val).stopping = false → (vatOf s v.val).batches.length < 64 → ∃ (t : State) (b : Batch),
          exec (.launchResume v) s = .next t ∧ (vatOf t v.val).batches = (vatOf s v.val).batches ++ [b] ∧ b.total = a.total ∧ b.tag = a.tag ∧
          GoesOn s t v.val (((seqOf s v.val).pc + 1) % 65536) ∧ OnlyParts [.obs, .vs] s t)) ∧
    (∀ b : Batch, Executes s v.val 0x31 w →
      (vatOf s v.val).batches.find? (fun b => b.num == (sreg s v.val (fB w)).toNat && !b.detached) = some b →
      (b.done = true → ∃ t, exec (.seqBwait v) s = .next t ∧ (fA w ≠ 0 → sreg t v.val (fA w) = BitVec.ofNat 64 b.status) ∧
        (vatOf t v.val).batches = (vatOf s v.val).batches.filter (fun y => y.num != b.num) ∧ GoesOn s t v.val (((seqOf s v.val).pc + 1) % 65536) ∧
        OnlyParts [.obs, .vs] s t) ∧
      (b.done = false → bitAt w 15 = true → ∃ t, exec (.seqBwait v) s = .next t ∧ (fA w ≠ 0 → sreg t v.val (fA w) = BitVec.ofNat 64 b.status) ∧
        (vatOf t v.val).batches = (vatOf s v.val).batches ∧ GoesOn s t v.val (((seqOf s v.val).pc + 1) % 65536) ∧ OnlyParts [.obs, .vs] s t) ∧
      (b.done = false → bitAt w 15 = false → ∃ t, exec (.seqBwait v) s = .next t ∧ (seqOf t v.val).state = 3 ∧
        (seqOf t v.val).wait = some (.batch (sreg s v.val (fB w)).toNat (fA w) (bitAt w 14) s.now) ∧ OnlyParts [.vs] s t)) ∧
    (∀ (n : BitVec 16) (b : Batch), (vatOf s v.val).batches.find? (fun b => b.num == n.toNat && !b.done) = some b → b.total ≤ b.ended →
      writesOut s (fun o => match o with | .fibre d _ _ k _ _ => d == v.val && k == b.num | _ => false) = false →
      (b.detached = true → ∃ t, exec (.batchComplete v n) s = .next t ∧
        (vatOf t v.val).batches = (vatOf s v.val).batches.filter (fun y => y.num != b.num) ∧ OnlyParts [.obs, .vs] s t) ∧
      (b.detached = false → (∀ h sd nl a, (seqOf s v.val).wait ≠ some (.batch h sd nl a)) → ∃ t, exec (.batchComplete v n) s = .next t ∧
        ({ b with done := true } : Batch) ∈ (vatOf t v.val).batches ∧ (seqOf t v.val) = (seqOf s v.val) ∧ OnlyParts [.obs, .vs] s t) ∧
      (∀ sd nl a, b.detached = false → (seqOf s v.val).wait = some (.batch b.num sd nl a) → (seqOf s v.val).posted = none →
        (seqOf s v.val).stopping = false → ∃ t, exec (.batchComplete v n) s = .next t ∧
          (sd ≠ 0 → sreg t v.val sd = BitVec.ofNat 64 ({ b with done := true } : Batch).status) ∧
          GoesOn s t v.val (((seqOf s v.val).pc + 1) % 65536) ∧ OnlyParts [.obs, .vs] s t))

/-- R203: "LEND at word b, with counter L, adds 1 to INDEX. When INDEX then equals COUNT, it clears ACTIVE and PC goes to b + 1. Otherwise PC goes to
b − OFF + 1, which is the first word of the body." PC is 16 bits wide (R195). -/
def Obligations.LendCountsItsLoop : Prop :=
  ∀ (s : State) (v : VatId) (w b off : Nat) (c : LoopCtr), Executes s v.val 0x25 w → b = (seqOf s v.val).pc → off = fImm w →
    c = loopOf (seqOf s v.val) (bits w 25 23) → ∃ t, exec (.seqLend v) s = .next t ∧ KeptRegs s t v.val ∧
      (loopOf (seqOf t v.val) (bits w 25 23)).index = c.index + 1 ∧ (loopOf (seqOf t v.val) (bits w 25 23)).count = c.count ∧
      (c.index + 1 = c.count → (loopOf (seqOf t v.val) (bits w 25 23)).active = false ∧ GoesOn s t v.val ((b + 1) % 65536)) ∧
      (c.index + 1 ≠ c.count → (loopOf (seqOf t v.val) (bits w 25 23)).active = c.active ∧ GoesOn s t v.val ((b + 65536 - off + 1) % 65536)) ∧
      (∀ l, l ≠ bits w 25 23 → loopOf (seqOf t v.val) l = loopOf (seqOf s v.val) l) ∧ OnlyParts [.vs] s t

/-- R213: "TAKE with SD moves the oldest entry into SD, SD + 1 and SD + 2, which are the context word, the input address and the length word. With the
queue empty, it writes 0 to all three, so VALID reads 0. TAKE never waits." SD is 1 to 29 (Table 6.11). -/
def Obligations.TakeMovesTheOldestEntry : Prop :=
  ∀ (s : State) (v : VatId) (w sd : Nat), Executes s v.val 0x32 w → sd = fA w → 1 ≤ sd → sd ≤ 29 → ∃ t, exec (.seqTake v) s = .next t ∧
    GoesOn s t v.val (((seqOf s v.val).pc + 1) % 65536) ∧ (∀ r, r < sd ∨ sd + 2 < r → sreg t v.val r = sreg s v.val r) ∧ OnlyParts [.obs, .vs] s t ∧
    (∀ (x y z : Nat) (l : List (Nat × Nat × Nat)), (vatOf s v.val).queue = (x, y, z) :: l → (vatOf t v.val).queue = l ∧
      sreg t v.val sd = BitVec.ofNat 64 x ∧ sreg t v.val (sd + 1) = BitVec.ofNat 64 y ∧ sreg t v.val (sd + 2) = BitVec.ofNat 64 z) ∧
    ((vatOf s v.val).queue = [] → (vatOf t v.val).queue = [] ∧ sreg t v.val sd = 0 ∧ sreg t v.val (sd + 1) = 0 ∧ sreg t v.val (sd + 2) = 0 ∧
      bitAt (sreg t v.val sd).toNat 16 = false)

/-- R545 to R548, R559, R560, R562: a stage sends its messages to its die's buffer, and loses them where it is off; the buffer performs them; a FREEZE is
latched and its tile captures at its tick; the last tile of a die makes it HELD; a context near its deadline asks for a FREEZE.
It rests on choices and readings of the model: log entries 4, 14, 48, 75, 99, 100, 101 and 128. -/
def Obligations.ObservationCommandsComplete : Prop :=
  ∀ (s u : State) (node : NodeId),
    (∀ (b c : Nat) (out rest : List TraceMsg), tileUp s node.toNat = true → (tgetD s.obs.stages node.toNat {}).msgs ≠ [] →
      stageTake 512 (tgetD s.obs.stages node.toNat {}).msgs = (out, rest) → b = setting s (0x7070 + dieOf node.toNat) 0 % 16 → c = bufConfig s b →
      (bcEn c = true → tileUp s (bufTile b c) = true → ∃ t, exec (.traceStageSend node) s = .next t ∧
        (tgetD t.obs.stages node.toNat {}).msgs = rest ∧ Sent t node.toNat 5 (bufTile b c) (out.flatMap TraceMsg.bytes) ∧
        (tgetD t.obs.stages node.toNat {}).dropped = (tgetD s.obs.stages node.toNat {}).dropped ∧ OnlyParts [.fab, .now, .obs] s t) ∧
      (bcEn c = false ∨ tileUp s (bufTile b c) = false → ∃ t, exec (.traceStageSend node) s = .next t ∧
        (tgetD t.obs.stages node.toNat {}).msgs = rest ∧
        (tgetD t.obs.stages node.toNat {}).dropped = (tgetD s.obs.stages node.toNat {}).dropped + out.length ∧ OnlyParts [.now, .obs] s t)) ∧
    (∀ (p : Packet) (b : Nat) (m : Bytes) (x : Capture), Accepts s node p false u → p.opcode = 5 → bufferAt s node.toNat = some b →
      traceMsgs p.payload = [m] → x = bufOf s b →
      (x.state = 0 → ∃ t, exec (.traceAppend node p) s = .next t ∧ OnlyParts [.fab] s t) ∧
      (x.state = 3 → ∃ t, exec (.traceAppend node p) s = .next t ∧ bufOf t b = { x with droppedAfter := x.droppedAfter + 1 } ∧
        OnlyParts [.fab, .obs] s t) ∧
      (x.state = 1 → bcOwner x.cfg = 0 → triggers x.cfg m = false → m.length ≤ bcRing x.cfg → ∃ (t : State) (l : List Bytes),
        exec (.traceAppend node p) s = .next t ∧ (bufOf t b).ring = l ++ [m] ∧ (bufOf t b).state = 1 ∧ (bufOf t b).reserve = x.reserve ∧
        OnlyParts [.fab, .obs] s t) ∧
      (x.state = 1 → bcOwner x.cfg = 0 → triggers x.cfg m = true → m.length ≤ bcRing x.cfg → ∃ t, exec (.traceAppend node p) s = .next t ∧
        (bufOf t b).state = 2 ∧ (bufOf t b).trigTick = s.now ∧ Reported s t 0xD1 1 ∧ OnlyParts [.fab, .integ, .obs] s t)) ∧
    (∀ p : Packet, Accepts s node p false u → p.opcode = 5 → bufferAt s node.toNat = none → ∃ t, exec (.traceAppend node p) s = .next t ∧
      Sent t node.toNat 0x22 p.src.toNat (leBytes 16 0) ∧ Reported s t 0x41 2 ∧ t.obs.buffers = s.obs.buffers ∧ OnlyParts [.fab, .integ, .obs] s t) ∧
    (∀ (d : Nat) (f : Freeze), d = dieOf node.toNat → ringUp s d = true → (snapOf s d).sent = some f →
      (s.now ≤ f.tf → ∃ t, exec (.freezeLatch node) s = .next t ∧ (snapOf t d).state = 1 ∧ (snapOf t d).tf = f.tf ∧ (snapOf t d).reason = f.reason ∧
        (snapOf t d).seq = f.seq ∧ tget (snapOf t d).latched (localOf node.toNat) = some s.now ∧ (snapOf t d).records = [] ∧
        (snapOf t d).sent = none ∧ OnlyParts [.obs] s t) ∧
      (f.tf < s.now → ∃ t, exec (.freezeLatch node) s = .next t ∧ (snapOf t d).state = 1 ∧ (snapOf t d).late = 1 ∧
        (tget (snapOf t d).records (localOf node.toNat)).isSome = true ∧ OnlyParts [.free, .obs] s t)) ∧
    (∀ (d : Nat) (x : Snapshot), d = dieOf node.toNat → x = snapOf s d → x.state = 1 → (tget x.latched (localOf node.toNat)).isSome = true →
      tget x.records (localOf node.toNat) = none → s.time.dieReset.contains d = false → ∃ t, exec (.snapshotCapture node) s = .next t ∧
        t.now = Nat.max s.now x.tf ∧ (tget (snapOf t d).records (localOf node.toNat)).isSome = true ∧
        (x.records.length = 63 → (snapOf t d).state = 2 ∧ (x.late = 0 → Reported s t 0xD2 1)) ∧
        (x.records.length < 63 → (snapOf t d).state = 1 ∧ OnlyParts [.free, .now, .obs] s t)) ∧
    (∀ (p : PortId) (c : CtxId) (x : Context) (dies : List Nat), x = ctxOf s p.val c.val → x.state = 1 → x.snapAsked = false →
      snapArmed s x.partition = true → s.now ≤ x.deadline → dieUp s (16 + p.val) = true → dies = partVats s.cfg x.partition ++ [16 + p.val] →
      ∃ t, exec (.deadlineSnapshotRequest p c) s = .next t ∧ (ctxOf t p.val c.val).snapAsked = true ∧ (ctxOf t p.val c.val).state = 1 ∧
        t.now = Nat.max s.now (Nat.max x.admitTick (x.deadline - 1000 * setting s 0x70E1 0)) ∧
        (dies.any (snapBusy s) = true ∨ mgmtUp s = false → OnlyParts [.now, .port] s t) ∧
        (dies.any (snapBusy s) = false → mgmtUp s = true → tget t.dict.rw (odKey 0x70E0 x.partition) = some [0] ∧
          (∀ d ∈ dies, ringUp s d = true → (snapOf t d).sent =
            some { tf := x.deadline, reason := 2, seq := s.obs.snapSeq + 1, tag := ctxTag p.val c.val x.gen }) ∧ OnlyParts [.dict, .now, .obs, .port] s t))

/-- A step takes the command at the front of the queue and answers what its meaning answers with the rest of the queue; with nothing waiting it answers a
next state in which nothing waits, and one tick passes where no ZEROISE, SCAN or warm reset is under way (the model's own choice of what happens with
nothing to do: notes/assumptions/1.md). -/
def Obligations.StepRunsTheFrontCommand : Prop :=
  (∀ (s : State) (c : Instr) (l : List Instr), s.pending = c :: l → step s = exec c { s with pending := l }) ∧
  (∀ s : State, s.pending = [] → ∃ t, step s = .next t ∧ t.pending = []) ∧
  (∀ s : State, s.pending = [] → s.sec.zeroiseOpen = false → s.sec.scan = 0 ∨ s.sec.scan = 3 → s.pow.warm = 0 → step s = .next { s with now := s.now + 1 })

/-- The machine after POR_N (R2, R200, R556, R627): nothing waits, the memories are canonical and list nothing, no session, no context, no fibre; every sequencer is EMPTY, no partition has failed, the device state is BOOT.
It rests on choices and readings of the model: log entries 6, 7, 9, 12 and 14. -/
def Obligations.ResetIsCanonical : Prop :=
  State.reset.pending = [] ∧ State.reset.memoriesWf = true ∧ State.reset.mem = [] ∧ State.reset.out = [] ∧ State.reset.dict.sessions = [] ∧
    State.reset.dict.transfers = [] ∧ State.reset.integ.failed = [] ∧ State.reset.ep.state = 0 ∧ State.reset.ep.count = 0 ∧
    State.reset.fab.net = [] ∧ deviceState State.reset = 0 ∧
    (∀ d : VatId, (seqOf State.reset d.val).state = 0 ∧ (vatOf State.reset d.val).fibres = []) ∧
    (∀ (p : PortId) (c : CtxId), (ctxOf State.reset p.val c.val).state = 0) ∧ (∀ k : CellId, (cellOf State.reset k.val).count = 0)

/-- From every state whose memories are canonical, a step gives a state whose memories are canonical: fabric memory and the four staging memories hold
rising addresses and no entry that an unlisted byte reads as.
It rests on choices and readings of the model: log entries 1, 6 and 12. -/
def Obligations.StepsKeepMemoriesCanonical : Prop :=
  ∀ s t : State, s.memoriesWf = true → step s = .next t → t.memoriesWf = true

/-- A command leaves every part of the state outside its reach as it was, leaves the queue alone, takes back no output and no free value drawn, and
lowers neither the firmware floor nor a ZEROISE_COUNT, which are fuses.
It rests on choices and readings of the model: log entries 4, 12 and 14. -/
def Obligations.CommandsKeepWhatTheyDoNotReach : Prop :=
  ∀ (c : Instr) (s t : State), exec c s = .next t → OnlyParts (reach c) s t ∧ t.pending = s.pending ∧ s.out <+: t.out ∧ s.freeCount ≤ t.freeCount ∧
    s.sec.floor ≤ t.sec.floor ∧ ∀ k, tgetD s.sec.zeroCount k 0 ≤ tgetD t.sec.zeroCount k 0
end

