-- ==== Sys2Proof/Laws/State.lean ====
section
/-!
SUPPORT. Laws/State.lean: what each update of one part of the state leaves in every field, so that no proof unfolds a record update.
-/
namespace Sys2Proof.Machine
variable (s : State)

@[simp] theorem modDict_pending (f) : (modDict s f).pending = s.pending := rfl
@[simp] theorem modDict_now (f) : (modDict s f).now = s.now := rfl
@[simp] theorem modDict_freeCount (f) : (modDict s f).freeCount = s.freeCount := rfl
@[simp] theorem modDict_mem (f) : (modDict s f).mem = s.mem := rfl
@[simp] theorem modDict_out (f) : (modDict s f).out = s.out := rfl
@[simp] theorem modDict_dict (f) : (modDict s f).dict = f s.dict := rfl
@[simp] theorem modDict_fab (f) : (modDict s f).fab = s.fab := rfl
@[simp] theorem modDict_integ (f) : (modDict s f).integ = s.integ := rfl
@[simp] theorem modDict_ep (f) : (modDict s f).ep = s.ep := rfl
@[simp] theorem modDict_part (f) : (modDict s f).part = s.part := rfl
@[simp] theorem modDict_vs (f) : (modDict s f).vs = s.vs := rfl
@[simp] theorem modDict_port (f) : (modDict s f).port = s.port := rfl
@[simp] theorem modDict_led (f) : (modDict s f).led = s.led := rfl
@[simp] theorem modDict_obs (f) : (modDict s f).obs = s.obs := rfl
@[simp] theorem modDict_time (f) : (modDict s f).time = s.time := rfl
@[simp] theorem modDict_pow (f) : (modDict s f).pow = s.pow := rfl
@[simp] theorem modDict_sec (f) : (modDict s f).sec = s.sec := rfl

@[simp] theorem modFab_pending (f) : (modFab s f).pending = s.pending := rfl
@[simp] theorem modFab_now (f) : (modFab s f).now = s.now := rfl
@[simp] theorem modFab_freeCount (f) : (modFab s f).freeCount = s.freeCount := rfl
@[simp] theorem modFab_mem (f) : (modFab s f).mem = s.mem := rfl
@[simp] theorem modFab_out (f) : (modFab s f).out = s.out := rfl
@[simp] theorem modFab_dict (f) : (modFab s f).dict = s.dict := rfl
@[simp] theorem modFab_fab (f) : (modFab s f).fab = f s.fab := rfl
@[simp] theorem modFab_integ (f) : (modFab s f).integ = s.integ := rfl
@[simp] theorem modFab_ep (f) : (modFab s f).ep = s.ep := rfl
@[simp] theorem modFab_part (f) : (modFab s f).part = s.part := rfl
@[simp] theorem modFab_vs (f) : (modFab s f).vs = s.vs := rfl
@[simp] theorem modFab_port (f) : (modFab s f).port = s.port := rfl
@[simp] theorem modFab_led (f) : (modFab s f).led = s.led := rfl
@[simp] theorem modFab_obs (f) : (modFab s f).obs = s.obs := rfl
@[simp] theorem modFab_time (f) : (modFab s f).time = s.time := rfl
@[simp] theorem modFab_pow (f) : (modFab s f).pow = s.pow := rfl
@[simp] theorem modFab_sec (f) : (modFab s f).sec = s.sec := rfl

@[simp] theorem modInteg_pending (f) : (modInteg s f).pending = s.pending := rfl
@[simp] theorem modInteg_now (f) : (modInteg s f).now = s.now := rfl
@[simp] theorem modInteg_freeCount (f) : (modInteg s f).freeCount = s.freeCount := rfl
@[simp] theorem modInteg_mem (f) : (modInteg s f).mem = s.mem := rfl
@[simp] theorem modInteg_out (f) : (modInteg s f).out = s.out := rfl
@[simp] theorem modInteg_dict (f) : (modInteg s f).dict = s.dict := rfl
@[simp] theorem modInteg_fab (f) : (modInteg s f).fab = s.fab := rfl
@[simp] theorem modInteg_integ (f) : (modInteg s f).integ = f s.integ := rfl
@[simp] theorem modInteg_ep (f) : (modInteg s f).ep = s.ep := rfl
@[simp] theorem modInteg_part (f) : (modInteg s f).part = s.part := rfl
@[simp] theorem modInteg_vs (f) : (modInteg s f).vs = s.vs := rfl
@[simp] theorem modInteg_port (f) : (modInteg s f).port = s.port := rfl
@[simp] theorem modInteg_led (f) : (modInteg s f).led = s.led := rfl
@[simp] theorem modInteg_obs (f) : (modInteg s f).obs = s.obs := rfl
@[simp] theorem modInteg_time (f) : (modInteg s f).time = s.time := rfl
@[simp] theorem modInteg_pow (f) : (modInteg s f).pow = s.pow := rfl
@[simp] theorem modInteg_sec (f) : (modInteg s f).sec = s.sec := rfl

@[simp] theorem modEp_pending (f) : (modEp s f).pending = s.pending := rfl
@[simp] theorem modEp_now (f) : (modEp s f).now = s.now := rfl
@[simp] theorem modEp_freeCount (f) : (modEp s f).freeCount = s.freeCount := rfl
@[simp] theorem modEp_mem (f) : (modEp s f).mem = s.mem := rfl
@[simp] theorem modEp_out (f) : (modEp s f).out = s.out := rfl
@[simp] theorem modEp_dict (f) : (modEp s f).dict = s.dict := rfl
@[simp] theorem modEp_fab (f) : (modEp s f).fab = s.fab := rfl
@[simp] theorem modEp_integ (f) : (modEp s f).integ = s.integ := rfl
@[simp] theorem modEp_ep (f) : (modEp s f).ep = f s.ep := rfl
@[simp] theorem modEp_part (f) : (modEp s f).part = s.part := rfl
@[simp] theorem modEp_vs (f) : (modEp s f).vs = s.vs := rfl
@[simp] theorem modEp_port (f) : (modEp s f).port = s.port := rfl
@[simp] theorem modEp_led (f) : (modEp s f).led = s.led := rfl
@[simp] theorem modEp_obs (f) : (modEp s f).obs = s.obs := rfl
@[simp] theorem modEp_time (f) : (modEp s f).time = s.time := rfl
@[simp] theorem modEp_pow (f) : (modEp s f).pow = s.pow := rfl
@[simp] theorem modEp_sec (f) : (modEp s f).sec = s.sec := rfl

@[simp] theorem modPart_pending (f) : (modPart s f).pending = s.pending := rfl
@[simp] theorem modPart_now (f) : (modPart s f).now = s.now := rfl
@[simp] theorem modPart_freeCount (f) : (modPart s f).freeCount = s.freeCount := rfl
@[simp] theorem modPart_mem (f) : (modPart s f).mem = s.mem := rfl
@[simp] theorem modPart_out (f) : (modPart s f).out = s.out := rfl
@[simp] theorem modPart_dict (f) : (modPart s f).dict = s.dict := rfl
@[simp] theorem modPart_fab (f) : (modPart s f).fab = s.fab := rfl
@[simp] theorem modPart_integ (f) : (modPart s f).integ = s.integ := rfl
@[simp] theorem modPart_ep (f) : (modPart s f).ep = s.ep := rfl
@[simp] theorem modPart_part (f) : (modPart s f).part = f s.part := rfl
@[simp] theorem modPart_vs (f) : (modPart s f).vs = s.vs := rfl
@[simp] theorem modPart_port (f) : (modPart s f).port = s.port := rfl
@[simp] theorem modPart_led (f) : (modPart s f).led = s.led := rfl
@[simp] theorem modPart_obs (f) : (modPart s f).obs = s.obs := rfl
@[simp] theorem modPart_time (f) : (modPart s f).time = s.time := rfl
@[simp] theorem modPart_pow (f) : (modPart s f).pow = s.pow := rfl
@[simp] theorem modPart_sec (f) : (modPart s f).sec = s.sec := rfl

@[simp] theorem modVs_pending (f) : (modVs s f).pending = s.pending := rfl
@[simp] theorem modVs_now (f) : (modVs s f).now = s.now := rfl
@[simp] theorem modVs_freeCount (f) : (modVs s f).freeCount = s.freeCount := rfl
@[simp] theorem modVs_mem (f) : (modVs s f).mem = s.mem := rfl
@[simp] theorem modVs_out (f) : (modVs s f).out = s.out := rfl
@[simp] theorem modVs_dict (f) : (modVs s f).dict = s.dict := rfl
@[simp] theorem modVs_fab (f) : (modVs s f).fab = s.fab := rfl
@[simp] theorem modVs_integ (f) : (modVs s f).integ = s.integ := rfl
@[simp] theorem modVs_ep (f) : (modVs s f).ep = s.ep := rfl
@[simp] theorem modVs_part (f) : (modVs s f).part = s.part := rfl
@[simp] theorem modVs_vs (f) : (modVs s f).vs = f s.vs := rfl
@[simp] theorem modVs_port (f) : (modVs s f).port = s.port := rfl
@[simp] theorem modVs_led (f) : (modVs s f).led = s.led := rfl
@[simp] theorem modVs_obs (f) : (modVs s f).obs = s.obs := rfl
@[simp] theorem modVs_time (f) : (modVs s f).time = s.time := rfl
@[simp] theorem modVs_pow (f) : (modVs s f).pow = s.pow := rfl
@[simp] theorem modVs_sec (f) : (modVs s f).sec = s.sec := rfl

@[simp] theorem modPort_pending (f) : (modPort s f).pending = s.pending := rfl
@[simp] theorem modPort_now (f) : (modPort s f).now = s.now := rfl
@[simp] theorem modPort_freeCount (f) : (modPort s f).freeCount = s.freeCount := rfl
@[simp] theorem modPort_mem (f) : (modPort s f).mem = s.mem := rfl
@[simp] theorem modPort_out (f) : (modPort s f).out = s.out := rfl
@[simp] theorem modPort_dict (f) : (modPort s f).dict = s.dict := rfl
@[simp] theorem modPort_fab (f) : (modPort s f).fab = s.fab := rfl
@[simp] theorem modPort_integ (f) : (modPort s f).integ = s.integ := rfl
@[simp] theorem modPort_ep (f) : (modPort s f).ep = s.ep := rfl
@[simp] theorem modPort_part (f) : (modPort s f).part = s.part := rfl
@[simp] theorem modPort_vs (f) : (modPort s f).vs = s.vs := rfl
@[simp] theorem modPort_port (f) : (modPort s f).port = f s.port := rfl
@[simp] theorem modPort_led (f) : (modPort s f).led = s.led := rfl
@[simp] theorem modPort_obs (f) : (modPort s f).obs = s.obs := rfl
@[simp] theorem modPort_time (f) : (modPort s f).time = s.time := rfl
@[simp] theorem modPort_pow (f) : (modPort s f).pow = s.pow := rfl
@[simp] theorem modPort_sec (f) : (modPort s f).sec = s.sec := rfl

@[simp] theorem modLed_pending (f) : (modLed s f).pending = s.pending := rfl
@[simp] theorem modLed_now (f) : (modLed s f).now = s.now := rfl
@[simp] theorem modLed_freeCount (f) : (modLed s f).freeCount = s.freeCount := rfl
@[simp] theorem modLed_mem (f) : (modLed s f).mem = s.mem := rfl
@[simp] theorem modLed_out (f) : (modLed s f).out = s.out := rfl
@[simp] theorem modLed_dict (f) : (modLed s f).dict = s.dict := rfl
@[simp] theorem modLed_fab (f) : (modLed s f).fab = s.fab := rfl
@[simp] theorem modLed_integ (f) : (modLed s f).integ = s.integ := rfl
@[simp] theorem modLed_ep (f) : (modLed s f).ep = s.ep := rfl
@[simp] theorem modLed_part (f) : (modLed s f).part = s.part := rfl
@[simp] theorem modLed_vs (f) : (modLed s f).vs = s.vs := rfl
@[simp] theorem modLed_port (f) : (modLed s f).port = s.port := rfl
@[simp] theorem modLed_led (f) : (modLed s f).led = f s.led := rfl
@[simp] theorem modLed_obs (f) : (modLed s f).obs = s.obs := rfl
@[simp] theorem modLed_time (f) : (modLed s f).time = s.time := rfl
@[simp] theorem modLed_pow (f) : (modLed s f).pow = s.pow := rfl
@[simp] theorem modLed_sec (f) : (modLed s f).sec = s.sec := rfl

@[simp] theorem modObs_pending (f) : (modObs s f).pending = s.pending := rfl
@[simp] theorem modObs_now (f) : (modObs s f).now = s.now := rfl
@[simp] theorem modObs_freeCount (f) : (modObs s f).freeCount = s.freeCount := rfl
@[simp] theorem modObs_mem (f) : (modObs s f).mem = s.mem := rfl
@[simp] theorem modObs_out (f) : (modObs s f).out = s.out := rfl
@[simp] theorem modObs_dict (f) : (modObs s f).dict = s.dict := rfl
@[simp] theorem modObs_fab (f) : (modObs s f).fab = s.fab := rfl
@[simp] theorem modObs_integ (f) : (modObs s f).integ = s.integ := rfl
@[simp] theorem modObs_ep (f) : (modObs s f).ep = s.ep := rfl
@[simp] theorem modObs_part (f) : (modObs s f).part = s.part := rfl
@[simp] theorem modObs_vs (f) : (modObs s f).vs = s.vs := rfl
@[simp] theorem modObs_port (f) : (modObs s f).port = s.port := rfl
@[simp] theorem modObs_led (f) : (modObs s f).led = s.led := rfl
@[simp] theorem modObs_obs (f) : (modObs s f).obs = f s.obs := rfl
@[simp] theorem modObs_time (f) : (modObs s f).time = s.time := rfl
@[simp] theorem modObs_pow (f) : (modObs s f).pow = s.pow := rfl
@[simp] theorem modObs_sec (f) : (modObs s f).sec = s.sec := rfl

@[simp] theorem modTime_pending (f) : (modTime s f).pending = s.pending := rfl
@[simp] theorem modTime_now (f) : (modTime s f).now = s.now := rfl
@[simp] theorem modTime_freeCount (f) : (modTime s f).freeCount = s.freeCount := rfl
@[simp] theorem modTime_mem (f) : (modTime s f).mem = s.mem := rfl
@[simp] theorem modTime_out (f) : (modTime s f).out = s.out := rfl
@[simp] theorem modTime_dict (f) : (modTime s f).dict = s.dict := rfl
@[simp] theorem modTime_fab (f) : (modTime s f).fab = s.fab := rfl
@[simp] theorem modTime_integ (f) : (modTime s f).integ = s.integ := rfl
@[simp] theorem modTime_ep (f) : (modTime s f).ep = s.ep := rfl
@[simp] theorem modTime_part (f) : (modTime s f).part = s.part := rfl
@[simp] theorem modTime_vs (f) : (modTime s f).vs = s.vs := rfl
@[simp] theorem modTime_port (f) : (modTime s f).port = s.port := rfl
@[simp] theorem modTime_led (f) : (modTime s f).led = s.led := rfl
@[simp] theorem modTime_obs (f) : (modTime s f).obs = s.obs := rfl
@[simp] theorem modTime_time (f) : (modTime s f).time = f s.time := rfl
@[simp] theorem modTime_pow (f) : (modTime s f).pow = s.pow := rfl
@[simp] theorem modTime_sec (f) : (modTime s f).sec = s.sec := rfl

@[simp] theorem modPow_pending (f) : (modPow s f).pending = s.pending := rfl
@[simp] theorem modPow_now (f) : (modPow s f).now = s.now := rfl
@[simp] theorem modPow_freeCount (f) : (modPow s f).freeCount = s.freeCount := rfl
@[simp] theorem modPow_mem (f) : (modPow s f).mem = s.mem := rfl
@[simp] theorem modPow_out (f) : (modPow s f).out = s.out := rfl
@[simp] theorem modPow_dict (f) : (modPow s f).dict = s.dict := rfl
@[simp] theorem modPow_fab (f) : (modPow s f).fab = s.fab := rfl
@[simp] theorem modPow_integ (f) : (modPow s f).integ = s.integ := rfl
@[simp] theorem modPow_ep (f) : (modPow s f).ep = s.ep := rfl
@[simp] theorem modPow_part (f) : (modPow s f).part = s.part := rfl
@[simp] theorem modPow_vs (f) : (modPow s f).vs = s.vs := rfl
@[simp] theorem modPow_port (f) : (modPow s f).port = s.port := rfl
@[simp] theorem modPow_led (f) : (modPow s f).led = s.led := rfl
@[simp] theorem modPow_obs (f) : (modPow s f).obs = s.obs := rfl
@[simp] theorem modPow_time (f) : (modPow s f).time = s.time := rfl
@[simp] theorem modPow_pow (f) : (modPow s f).pow = f s.pow := rfl
@[simp] theorem modPow_sec (f) : (modPow s f).sec = s.sec := rfl

@[simp] theorem modSec_pending (f) : (modSec s f).pending = s.pending := rfl
@[simp] theorem modSec_now (f) : (modSec s f).now = s.now := rfl
@[simp] theorem modSec_freeCount (f) : (modSec s f).freeCount = s.freeCount := rfl
@[simp] theorem modSec_mem (f) : (modSec s f).mem = s.mem := rfl
@[simp] theorem modSec_out (f) : (modSec s f).out = s.out := rfl
@[simp] theorem modSec_dict (f) : (modSec s f).dict = s.dict := rfl
@[simp] theorem modSec_fab (f) : (modSec s f).fab = s.fab := rfl
@[simp] theorem modSec_integ (f) : (modSec s f).integ = s.integ := rfl
@[simp] theorem modSec_ep (f) : (modSec s f).ep = s.ep := rfl
@[simp] theorem modSec_part (f) : (modSec s f).part = s.part := rfl
@[simp] theorem modSec_vs (f) : (modSec s f).vs = s.vs := rfl
@[simp] theorem modSec_port (f) : (modSec s f).port = s.port := rfl
@[simp] theorem modSec_led (f) : (modSec s f).led = s.led := rfl
@[simp] theorem modSec_obs (f) : (modSec s f).obs = s.obs := rfl
@[simp] theorem modSec_time (f) : (modSec s f).time = s.time := rfl
@[simp] theorem modSec_pow (f) : (modSec s f).pow = s.pow := rfl
@[simp] theorem modSec_sec (f) : (modSec s f).sec = f s.sec := rfl

@[simp] theorem emitOut_pending (o) : (emitOut s o).pending = s.pending := rfl
@[simp] theorem emitOut_now (o) : (emitOut s o).now = s.now := rfl
@[simp] theorem emitOut_freeCount (o) : (emitOut s o).freeCount = s.freeCount := rfl
@[simp] theorem emitOut_mem (o) : (emitOut s o).mem = s.mem := rfl
@[simp] theorem emitOut_out (o) : (emitOut s o).out = s.out ++ [o] := rfl
@[simp] theorem emitOut_dict (o) : (emitOut s o).dict = s.dict := rfl
@[simp] theorem emitOut_fab (o) : (emitOut s o).fab = s.fab := rfl
@[simp] theorem emitOut_integ (o) : (emitOut s o).integ = s.integ := rfl
@[simp] theorem emitOut_ep (o) : (emitOut s o).ep = s.ep := rfl
@[simp] theorem emitOut_part (o) : (emitOut s o).part = s.part := rfl
@[simp] theorem emitOut_vs (o) : (emitOut s o).vs = s.vs := rfl
@[simp] theorem emitOut_port (o) : (emitOut s o).port = s.port := rfl
@[simp] theorem emitOut_led (o) : (emitOut s o).led = s.led := rfl
@[simp] theorem emitOut_obs (o) : (emitOut s o).obs = s.obs := rfl
@[simp] theorem emitOut_time (o) : (emitOut s o).time = s.time := rfl
@[simp] theorem emitOut_pow (o) : (emitOut s o).pow = s.pow := rfl
@[simp] theorem emitOut_sec (o) : (emitOut s o).sec = s.sec := rfl

@[simp] theorem advanceTo_pending (t) : (advanceTo s t).pending = s.pending := rfl
@[simp] theorem advanceTo_now (t) : (advanceTo s t).now = Nat.max s.now t := rfl
@[simp] theorem advanceTo_freeCount (t) : (advanceTo s t).freeCount = s.freeCount := rfl
@[simp] theorem advanceTo_mem (t) : (advanceTo s t).mem = s.mem := rfl
@[simp] theorem advanceTo_out (t) : (advanceTo s t).out = s.out := rfl
@[simp] theorem advanceTo_dict (t) : (advanceTo s t).dict = s.dict := rfl
@[simp] theorem advanceTo_fab (t) : (advanceTo s t).fab = s.fab := rfl
@[simp] theorem advanceTo_integ (t) : (advanceTo s t).integ = s.integ := rfl
@[simp] theorem advanceTo_ep (t) : (advanceTo s t).ep = s.ep := rfl
@[simp] theorem advanceTo_part (t) : (advanceTo s t).part = s.part := rfl
@[simp] theorem advanceTo_vs (t) : (advanceTo s t).vs = s.vs := rfl
@[simp] theorem advanceTo_port (t) : (advanceTo s t).port = s.port := rfl
@[simp] theorem advanceTo_led (t) : (advanceTo s t).led = s.led := rfl
@[simp] theorem advanceTo_obs (t) : (advanceTo s t).obs = s.obs := rfl
@[simp] theorem advanceTo_time (t) : (advanceTo s t).time = s.time := rfl
@[simp] theorem advanceTo_pow (t) : (advanceTo s t).pow = s.pow := rfl
@[simp] theorem advanceTo_sec (t) : (advanceTo s t).sec = s.sec := rfl

@[simp] theorem timeReaches_pending (t) : (timeReaches s t).pending = s.pending := rfl
@[simp] theorem timeReaches_now (t) : (timeReaches s t).now = Nat.max s.now t := rfl
@[simp] theorem timeReaches_freeCount (t) : (timeReaches s t).freeCount = s.freeCount := rfl
@[simp] theorem timeReaches_mem (t) : (timeReaches s t).mem = s.mem := rfl
@[simp] theorem timeReaches_out (t) : (timeReaches s t).out = s.out := rfl
@[simp] theorem timeReaches_dict (t) : (timeReaches s t).dict = s.dict := rfl
@[simp] theorem timeReaches_fab (t) : (timeReaches s t).fab = s.fab := rfl
@[simp] theorem timeReaches_integ (t) : (timeReaches s t).integ = s.integ := rfl
@[simp] theorem timeReaches_ep (t) : (timeReaches s t).ep = s.ep := rfl
@[simp] theorem timeReaches_part (t) : (timeReaches s t).part = s.part := rfl
@[simp] theorem timeReaches_vs (t) : (timeReaches s t).vs = s.vs := rfl
@[simp] theorem timeReaches_port (t) : (timeReaches s t).port = s.port := rfl
@[simp] theorem timeReaches_led (t) : (timeReaches s t).led = s.led := rfl
@[simp] theorem timeReaches_obs (t) : (timeReaches s t).obs = s.obs := rfl
@[simp] theorem timeReaches_time (t) : (timeReaches s t).time = s.time := rfl
@[simp] theorem timeReaches_pow (t) : (timeReaches s t).pow = s.pow := rfl
@[simp] theorem timeReaches_sec (t) : (timeReaches s t).sec = s.sec := rfl

@[simp] theorem writeMem_pending (a b) : (writeMem s a b).pending = s.pending := rfl
@[simp] theorem writeMem_now (a b) : (writeMem s a b).now = s.now := rfl
@[simp] theorem writeMem_freeCount (a b) : (writeMem s a b).freeCount = s.freeCount := rfl
@[simp] theorem writeMem_mem (a b) : (writeMem s a b).mem = memWrite s.mem a b := rfl
@[simp] theorem writeMem_out (a b) : (writeMem s a b).out = s.out := rfl
@[simp] theorem writeMem_dict (a b) : (writeMem s a b).dict = s.dict := rfl
@[simp] theorem writeMem_fab (a b) : (writeMem s a b).fab = s.fab := rfl
@[simp] theorem writeMem_integ (a b) : (writeMem s a b).integ = s.integ := rfl
@[simp] theorem writeMem_ep (a b) : (writeMem s a b).ep = s.ep := rfl
@[simp] theorem writeMem_part (a b) : (writeMem s a b).part = s.part := rfl
@[simp] theorem writeMem_vs (a b) : (writeMem s a b).vs = s.vs := rfl
@[simp] theorem writeMem_port (a b) : (writeMem s a b).port = s.port := rfl
@[simp] theorem writeMem_led (a b) : (writeMem s a b).led = s.led := rfl
@[simp] theorem writeMem_obs (a b) : (writeMem s a b).obs = s.obs := rfl
@[simp] theorem writeMem_time (a b) : (writeMem s a b).time = s.time := rfl
@[simp] theorem writeMem_pow (a b) : (writeMem s a b).pow = s.pow := rfl
@[simp] theorem writeMem_sec (a b) : (writeMem s a b).sec = s.sec := rfl

@[simp] theorem takeDraws_pending (n) : (takeDraws s n).pending = s.pending := rfl
@[simp] theorem takeDraws_now (n) : (takeDraws s n).now = s.now := rfl
@[simp] theorem takeDraws_freeCount (n) : (takeDraws s n).freeCount = s.freeCount + n := rfl
@[simp] theorem takeDraws_mem (n) : (takeDraws s n).mem = s.mem := rfl
@[simp] theorem takeDraws_out (n) : (takeDraws s n).out = s.out := rfl
@[simp] theorem takeDraws_dict (n) : (takeDraws s n).dict = s.dict := rfl
@[simp] theorem takeDraws_fab (n) : (takeDraws s n).fab = s.fab := rfl
@[simp] theorem takeDraws_integ (n) : (takeDraws s n).integ = s.integ := rfl
@[simp] theorem takeDraws_ep (n) : (takeDraws s n).ep = s.ep := rfl
@[simp] theorem takeDraws_part (n) : (takeDraws s n).part = s.part := rfl
@[simp] theorem takeDraws_vs (n) : (takeDraws s n).vs = s.vs := rfl
@[simp] theorem takeDraws_port (n) : (takeDraws s n).port = s.port := rfl
@[simp] theorem takeDraws_led (n) : (takeDraws s n).led = s.led := rfl
@[simp] theorem takeDraws_obs (n) : (takeDraws s n).obs = s.obs := rfl
@[simp] theorem takeDraws_time (n) : (takeDraws s n).time = s.time := rfl
@[simp] theorem takeDraws_pow (n) : (takeDraws s n).pow = s.pow := rfl
@[simp] theorem takeDraws_sec (n) : (takeDraws s n).sec = s.sec := rfl

@[simp] theorem draw_pending : (draw s).2.pending = s.pending := rfl
@[simp] theorem draw_now : (draw s).2.now = s.now := rfl
@[simp] theorem draw_freeCount : (draw s).2.freeCount = s.freeCount + 1 := rfl
@[simp] theorem draw_mem : (draw s).2.mem = s.mem := rfl
@[simp] theorem draw_out : (draw s).2.out = s.out := rfl
@[simp] theorem draw_dict : (draw s).2.dict = s.dict := rfl
@[simp] theorem draw_fab : (draw s).2.fab = s.fab := rfl
@[simp] theorem draw_integ : (draw s).2.integ = s.integ := rfl
@[simp] theorem draw_ep : (draw s).2.ep = s.ep := rfl
@[simp] theorem draw_part : (draw s).2.part = s.part := rfl
@[simp] theorem draw_vs : (draw s).2.vs = s.vs := rfl
@[simp] theorem draw_port : (draw s).2.port = s.port := rfl
@[simp] theorem draw_led : (draw s).2.led = s.led := rfl
@[simp] theorem draw_obs : (draw s).2.obs = s.obs := rfl
@[simp] theorem draw_time : (draw s).2.time = s.time := rfl
@[simp] theorem draw_pow : (draw s).2.pow = s.pow := rfl
@[simp] theorem draw_sec : (draw s).2.sec = s.sec := rfl

end Sys2Proof.Machine
end

