-- ==== Sys2Proof/Laws/Arrive.lean ====
section
/-!
SUPPORT. Laws/Arrive.lean: what a packet's arrival comes to where the tile can act.
-/
namespace Sys2Proof.Machine

/-- Only the arrivals of the tile change when a packet is taken. -/
theorem takeArrived_fab {s u : State} {n : Nat} {p : Packet} (h : takeArrived s n p = some u) : ∃ l, u = modFab s fun f => { f with arrived := l } := by
  unfold takeArrived at h
  dsimp only at h
  split at h
  · split at h
    · split at h
      · cases h; exact ⟨_, rfl⟩
      · cases h
    · cases h; exact ⟨s.fab.arrived, rfl⟩
  · cases h; exact ⟨s.fab.arrived, rfl⟩

/-- The command of a packet that comes next performs its effect on what is then left. -/
theorem onArrival_next {s u : State} {node : NodeId} {p : Packet} {ops : List Nat} {f : State → State} (h : Takes s node p u)
    (ho : ops.contains p.opcode.toNat = true) : onArrival node p ops s f = .next (f u) := by
  obtain ⟨h1, h2, h3⟩ := h
  simp [onArrival, h1, h2, h3] at ho ⊢
  intro h; exact absurd ho h

end Sys2Proof.Machine
end

