-- ==== Sys2Proof/Laws/Tab.lean ====
section
/-!
SUPPORT. Laws/Tab.lean: what reading a table or a byte memory gives after a write, and that every memory operation keeps the canonical form.
-/
namespace Sys2Proof.Machine

/-! ### Tables -/

@[simp] theorem tget_tput_self {α : Type} (t : Table α) (n : Nat) (x : α) : tget (tput t n x) n = some x := by
  induction t with
  | nil => simp [tput, tget]
  | cons e t ih =>
    obtain ⟨k, v⟩ := e
    unfold tput
    split
    · simp [tget]
    · split
      · simp [tget]
      · rename_i h1 h2
        have : k ≠ n := fun h => h2 h.symm
        simp [tget, this, ih]

theorem tget_tput_ne {α : Type} (t : Table α) {n m : Nat} (x : α) (h : m ≠ n) : tget (tput t n x) m = tget t m := by
  induction t with
  | nil => simp [tput, tget, h.symm]
  | cons e t ih =>
    obtain ⟨k, v⟩ := e
    unfold tput
    split
    · simp [tget, h.symm]
    · split
      · rename_i _ hk
        subst hk
        simp [tget, h.symm]
      · simp only [tget, ih]

@[simp] theorem tgetD_tput_self {α : Type} (t : Table α) (n : Nat) (x d : α) : tgetD (tput t n x) n d = x := by simp [tgetD]

theorem tgetD_tput_ne {α : Type} (t : Table α) {n m : Nat} (x d : α) (h : m ≠ n) : tgetD (tput t n x) m d = tgetD t m d := by
  simp [tgetD, tget_tput_ne t x h]

@[simp] theorem tgetD_tmod_self {α : Type} (t : Table α) (n : Nat) (d : α) (f : α → α) : tgetD (tmod t n d f) n d = f (tgetD t n d) :=
  tgetD_tput_self t n _ d

theorem tgetD_tmod_ne {α : Type} (t : Table α) {n m : Nat} (d e : α) (f : α → α) (h : m ≠ n) : tgetD (tmod t n d f) m e = tgetD t m e :=
  tgetD_tput_ne t _ e h

/-- A counter that rises takes nothing from any counter of its table. -/
theorem tinc_grows (t : Table Nat) (n j k : Nat) : tgetD t k 0 ≤ tgetD (tinc t n j) k 0 := by
  by_cases h : k = n
  · subst h
    rw [tinc, tgetD_tmod_self]
    exact Nat.le_add_right _ _
  · exact Nat.le_of_eq (by rw [tinc, tgetD_tmod_ne t 0 0 _ h])

theorem tput_mem {α : Type} (t : Table α) (n : Nat) (x : α) : ∀ e ∈ tput t n x, e ∈ t ∨ e = (n, x) := by
  induction t with
  | nil => intro e he; simp [tput] at he; exact .inr he
  | cons a t ih =>
    intro e he
    obtain ⟨k, v⟩ := a
    unfold tput at he
    split at he
    · rcases List.mem_cons.1 he with h | h
      · exact .inr h
      · exact .inl h
    · split at he
      · rcases List.mem_cons.1 he with h | h
        · exact .inr h
        · exact .inl (List.mem_cons_of_mem _ h)
      · rcases List.mem_cons.1 he with h | h
        · exact .inl (h ▸ List.mem_cons_self)
        · rcases ih e h with h | h
          · exact .inl (List.mem_cons_of_mem _ h)
          · exact .inr h

theorem tget_mem {α : Type} (t : Table α) (n : Nat) (x : α) (h : tget t n = some x) : (n, x) ∈ t := by
  induction t with
  | nil => simp [tget] at h
  | cons a t ih =>
    obtain ⟨k, v⟩ := a
    unfold tget at h
    split at h
    · simp_all
    · exact List.mem_cons_of_mem _ (ih h)

@[simp] theorem tget_tdel_self {α : Type} (t : Table α) (n : Nat) : tget (tdel t n) n = none := by
  induction t with
  | nil => rfl
  | cons e t ih =>
    obtain ⟨k, v⟩ := e
    by_cases h : k = n
    · simpa [tdel, h] using ih
    · simpa [tdel, h, tget] using ih

theorem tget_tdel_ne {α : Type} (t : Table α) {n m : Nat} (h : m ≠ n) : tget (tdel t n) m = tget t m := by
  induction t with
  | nil => rfl
  | cons e t ih =>
    obtain ⟨k, v⟩ := e
    by_cases h' : k = n
    · have : k ≠ m := fun e => h (e ▸ h')
      simpa [tdel, h', tget, this, h.symm] using ih
    · simp only [tdel] at ih
      simp [tdel, h', tget, ih]

/-! ### Canonical form -/

theorem memAbove_mono {a b : Nat} (hab : a ≤ b) : ∀ m, memAbove b m = true → memAbove a m = true
  | [], h => h
  | (k, v) :: t, h => by
    simp only [memAbove, Bool.and_eq_true, decide_eq_true_eq] at h ⊢
    exact ⟨⟨Nat.le_trans hab h.1.1, h.1.2⟩, h.2⟩

theorem memPut_above (a : Nat) (b : Byte) : ∀ (lo : Nat) (m : List (Nat × Byte)), lo ≤ a → memAbove lo m = true → memAbove lo (memPut m a b) = true
  | lo, [], hl, _ => by
    unfold memPut; split
    · rfl
    · simp_all [memAbove]
  | lo, (k, v) :: t, hl, h => by
    simp only [memAbove, Bool.and_eq_true, decide_eq_true_eq] at h
    unfold memPut
    split
    · split
      · simp only [memAbove, Bool.and_eq_true, decide_eq_true_eq]
        exact h
      · rename_i hk hb
        simp only [memAbove, Bool.and_eq_true, decide_eq_true_eq]
        exact ⟨⟨hl, by simpa using hb⟩, ⟨⟨by omega, h.1.2⟩, h.2⟩⟩
    · split
      · split
        · exact memAbove_mono (by omega) t h.2
        · rename_i hk he hb
          simp only [memAbove, Bool.and_eq_true, decide_eq_true_eq]
          exact ⟨⟨hl, by simpa using hb⟩, by rw [he]; exact h.2⟩
      · simp only [memAbove, Bool.and_eq_true, decide_eq_true_eq]
        exact ⟨h.1, memPut_above a b (k + 1) t (by omega) h.2⟩

/-- A byte written keeps a memory canonical. -/
theorem memPut_wf (m : List (Nat × Byte)) (a : Nat) (b : Byte) (h : Memory.wf m = true) : Memory.wf (memPut m a b) = true :=
  memPut_above a b 0 m (Nat.zero_le _) h

/-- A byte string written keeps a memory canonical. -/
theorem memWrite_wf : ∀ (bs : Bytes) (m : List (Nat × Byte)) (a : Nat), Memory.wf m = true → Memory.wf (memWrite m a bs) = true
  | [], _, _, h => h
  | b :: bs, m, a, h => memWrite_wf bs (memPut m a b) (a + 1) (memPut_wf m a b h)

/-! ### A read after a write -/

theorem memGet_of_above {a b : Nat} (hab : a < b) : ∀ m, memAbove b m = true → memGet m a = 0
  | [], _ => rfl
  | (k, v) :: t, h => by
    simp only [memAbove, Bool.and_eq_true, decide_eq_true_eq] at h
    have hk : k ≠ a := by omega
    simp only [memGet, hk, ↓reduceIte]
    exact memGet_of_above (Nat.lt_of_lt_of_le hab (Nat.le_succ_of_le h.1.1)) t h.2

theorem memGet_memPut_above (a : Nat) (b : Byte) : ∀ (lo : Nat) (m : List (Nat × Byte)), memAbove lo m = true → memGet (memPut m a b) a = b
  | _, [], _ => by
    unfold memPut; split
    · simp_all [memGet]
    · simp [memGet]
  | lo, (k, v) :: t, h => by
    have hm := h
    simp only [memAbove, Bool.and_eq_true, decide_eq_true_eq] at h
    unfold memPut
    split
    · rename_i hk
      split
      · rename_i hb
        rw [hb]
        have hk' : k ≠ a := by omega
        simp only [memGet, hk', ↓reduceIte]
        exact memGet_of_above (by omega) t h.2
      · simp [memGet]
    · split
      · rename_i he
        split
        · rename_i hb
          rw [hb, he]
          exact memGet_of_above (Nat.lt_succ_self k) t h.2
        · simp [memGet]
      · rename_i _ he
        have hk' : k ≠ a := fun h => he h.symm
        simp only [memGet, hk', ↓reduceIte]
        exact memGet_memPut_above a b _ t h.2

/-- The byte written is the byte read. -/
theorem memGet_memPut_self {m : List (Nat × Byte)} (a : Nat) (b : Byte) (h : Memory.wf m = true) : memGet (memPut m a b) a = b :=
  memGet_memPut_above a b 0 m h

/-- No other byte changes. -/
theorem memGet_memPut_ne (m : List (Nat × Byte)) {a c : Nat} (b : Byte) (h : c ≠ a) : memGet (memPut m a b) c = memGet m c := by
  induction m with
  | nil => unfold memPut; split <;> simp [memGet, h.symm]
  | cons e t ih =>
    obtain ⟨k, v⟩ := e
    unfold memPut
    split
    · split
      · rfl
      · simp [memGet, h.symm]
    · split
      · rename_i _ he
        subst he
        split <;> simp [memGet, h.symm]
      · simp only [memGet, ih]

/-- A byte outside the bytes written reads as before. -/
theorem memGet_memWrite_out (c : Nat) : ∀ (bs : Bytes) (m : List (Nat × Byte)) (a : Nat), c < a ∨ a + bs.length ≤ c → memGet (memWrite m a bs) c = memGet m c
  | [], _, _, _ => rfl
  | b :: bs, m, a, h => by
    simp only [List.length_cons] at h
    rw [memWrite, memGet_memWrite_out c bs (memPut m a b) (a + 1) (by omega), memGet_memPut_ne m b (by omega)]

/-- What was written reads back. -/
theorem memRead_memWrite : ∀ (bs : Bytes) (m : List (Nat × Byte)) (a : Nat), Memory.wf m = true → memRead (memWrite m a bs) a bs.length = bs
  | [], _, _, _ => rfl
  | b :: bs, m, a, h => by
    have hw := memPut_wf m a b h
    simp only [List.length_cons, memRead, memWrite]
    rw [memGet_memWrite_out a bs (memPut m a b) (a + 1) (by omega), memGet_memPut_self a b h, memRead_memWrite bs (memPut m a b) (a + 1) hw]

/-- A range that no byte written falls into reads as before. -/
theorem memRead_memWrite_out (bs : Bytes) (m : List (Nat × Byte)) (a : Nat) : ∀ (n c : Nat), c + n ≤ a ∨ a + bs.length ≤ c →
    memRead (memWrite m a bs) c n = memRead m c n
  | 0, _, _ => rfl
  | n + 1, c, h => by
    simp only [memRead]
    rw [memGet_memWrite_out c bs m a (by omega), memRead_memWrite_out bs m a n (c + 1) (by omega)]

end Sys2Proof.Machine
end

