-- ==== Sys2Proof/Laws/Keep.lean ====
section
/-!
SUPPORT. Laws/Keep.lean: what no operation undoes, said once: the queue is untouched, memories stay canonical, the fuses and the count of draws never
fall, and what has crossed the boundary stays sent. `Keeps r s` says that s may come after r; each operation carries it on.
-/
namespace Sys2Proof.Machine

/-- Every port's staging memory is canonical. -/
def StagingWf (p : PortState) : Prop := ∀ e ∈ p.ports, Memory.wf e.2.staging = true

/-- Fuses only burn. -/
def FusesGrow (a b : SecState) : Prop := a.floor ≤ b.floor ∧ ∀ k, tgetD a.zeroCount k 0 ≤ tgetD b.zeroCount k 0

/-- Where a run of operations starts, and the parts that it may change. -/
structure Base where
  k : Part → Bool
  s : State

/-- The part may change. -/
abbrev Lets (r : Base) (p : Part) : Prop := r.k p = true

/-- s may come after r. -/
structure Keeps (r : Base) (s : State) : Prop where
  pending : s.pending = r.s.pending
  mem : Memory.wf r.s.mem = true → Memory.wf s.mem = true
  staging : StagingWf r.s.port → StagingWf s.port
  fuses : FusesGrow r.s.sec s.sec
  free : r.s.freeCount ≤ s.freeCount
  out : r.s.out <+: s.out
  within : ∀ p, r.k p = false → p.same r.s s

theorem Keeps.refl (k : Part → Bool) (s : State) : Keeps ⟨k, s⟩ s :=
  ⟨rfl, id, id, ⟨Nat.le_refl _, fun _ => Nat.le_refl _⟩, Nat.le_refl _, List.prefix_rfl, fun p _ => by cases p <;> rfl⟩

/-- A part that may change does not bind what comes after. -/
theorem lets_within {r : Base} {p : Part} {q : Prop} (k : Lets r p) (h : r.k p = false) : q := by rw [Lets, h] at k; cases k

/-! ### What an answer keeps -/

def KeepsO (r : Base) : Host.Outcome State Fault Refusal → Prop
  | .next t => Keeps r t
  | _ => True

def KeepsM (r : Base) : Option State → Prop
  | some t => Keeps r t
  | none => True

def KeepsW (r : Base) : WriteOut → Prop
  | .refused _ t => Keeps r t
  | .ok _ _ t => Keeps r t

def KeepsF (r : Base) : Fetch → Prop
  | .wait t => Keeps r t
  | .bad t => Keeps r t
  | .ready _ => True

theorem keeps_fwait {r : Base} {t : State} (h : Keeps r t) : KeepsF r (.wait t) := h
theorem keeps_fbad {r : Base} {t : State} (h : Keeps r t) : KeepsF r (.bad t) := h
theorem keeps_fready {r : Base} {d : List Bytes} : KeepsF r (.ready d) := trivial
theorem keeps_of_fwait {r : Base} {t : State} {w : Fetch} (e : w = .wait t) (h : KeepsF r w) : Keeps r t := by subst e; exact h
theorem keeps_of_fbad {r : Base} {t : State} {w : Fetch} (e : w = .bad t) (h : KeepsF r w) : Keeps r t := by subst e; exact h
theorem keeps_id {r : Base} {t : State} (h : Keeps r t) : Keeps r (id t) := h
theorem keeps_next {r : Base} {t : State} (h : Keeps r t) : KeepsO r (.next t) := h
theorem keeps_refused {r : Base} {q : Refusal} : KeepsO r (.refused q) := trivial
theorem keeps_some {r : Base} {t : State} (h : Keeps r t) : KeepsM r (some t) := h
theorem keeps_none {r : Base} : KeepsM r none := trivial
theorem keeps_wref {r : Base} {t : State} {c : Nat} (h : Keeps r t) : KeepsW r (.refused c t) := h
theorem keeps_wok {r : Base} {t : State} {a b : Nat} (h : Keeps r t) : KeepsW r (.ok a b t) := h
theorem keeps_of_some {r : Base} {t : State} {o : Option State} (e : o = some t) (h : KeepsM r o) : Keeps r t := by subst e; exact h
theorem keeps_of_wref {r : Base} {t : State} {w : WriteOut} {c : Nat} (e : w = .refused c t) (h : KeepsW r w) : Keeps r t := by subst e; exact h
theorem keeps_of_wok {r : Base} {t : State} {w : WriteOut} {a b : Nat} (e : w = .ok a b t) (h : KeepsW r w) : Keeps r t := by subst e; exact h
theorem keeps_of_snd {r : Base} {t : State} {α : Type} {p : α × State} {a : α} (e : p = (a, t)) (h : Keeps r p.2) : Keeps r t := by subst e; exact h
theorem keeps_of_fst {r : Base} {t : State} {α : Type} {p : State × α} {a : α} (e : p = (t, a)) (h : Keeps r p.1) : Keeps r t := by subst e; exact h
theorem keeps_of_trd {r : Base} {t : State} {α β : Type} {p : α × β × State} {a : α} {b : β} (e : p = (a, b, t)) (h : Keeps r p.2.2) : Keeps r t := by
  subst e; exact h

/-! ### Branches and loops -/

theorem keeps_ite {r : Base} {s t : State} {c : Prop} [Decidable c] (h : Keeps r s) (h' : Keeps r t) : Keeps r (if c then s else t) := by split <;> assumption
theorem keepsO_ite {r : Base} {s t : Host.Outcome State Fault Refusal} {c : Prop} [Decidable c] (h : KeepsO r s) (h' : KeepsO r t) :
    KeepsO r (if c then s else t) := by split <;> assumption
theorem keepsF_ite {r : Base} {s t : Fetch} {c : Prop} [Decidable c] (h : KeepsF r s) (h' : KeepsF r t) : KeepsF r (if c then s else t) := by
  split <;> assumption
theorem keepsW_ite {r : Base} {s t : WriteOut} {c : Prop} [Decidable c] (h : KeepsW r s) (h' : KeepsW r t) : KeepsW r (if c then s else t) := by
  split <;> assumption
theorem keepsM_ite {r : Base} {s t : Option State} {c : Prop} [Decidable c] (h : KeepsM r s) (h' : KeepsM r t) : KeepsM r (if c then s else t) := by
  split <;> assumption
theorem keepsP_ite {r : Base} {α : Type} {s t : α × State} {c : Prop} [Decidable c] (h : Keeps r s.2) (h' : Keeps r t.2) :
    Keeps r (if c then s else t).2 := by split <;> assumption
theorem keepsQ_ite {r : Base} {α : Type} {s t : State × α} {c : Prop} [Decidable c] (h : Keeps r s.1) (h' : Keeps r t.1) :
    Keeps r (if c then s else t).1 := by split <;> assumption

theorem keeps_foldl {r : Base} {α : Type} {g : State → α → State} (hg : ∀ s x, Keeps r s → Keeps r (g s x)) :
    ∀ (l : List α) {s : State}, Keeps r s → Keeps r (l.foldl g s)
  | [], _, h => h
  | x :: l, _, h => keeps_foldl hg l (hg _ x h)

theorem keeps_foldlP {r : Base} {α β : Type} {g : β × State → α → β × State} (hg : ∀ s x, Keeps r s.2 → Keeps r (g s x).2) :
    ∀ (l : List α) {s : β × State}, Keeps r s.2 → Keeps r (l.foldl g s).2
  | [], _, h => h
  | x :: l, _, h => keeps_foldlP hg l (hg _ x h)

theorem keeps_foldlQ {r : Base} {α β : Type} {g : State × β → α → State × β} (hg : ∀ s x, Keeps r s.1 → Keeps r (g s x).1) :
    ∀ (l : List α) {s : State × β}, Keeps r s.1 → Keeps r (l.foldl g s).1
  | [], _, h => h
  | x :: l, _, h => keeps_foldlQ hg l (hg _ x h)

/-! ### Updates of the parts of the state -/

variable {r : Base} {s : State}

theorem modDict_keeps {f} (h : Keeps r s) (k : Lets r .dict := by trivial) : Keeps r (modDict s f) :=
  ⟨h.pending, h.mem, h.staging, h.fuses, h.free, h.out, fun p hp => by cases p <;> first | exact lets_within k hp | exact h.within _ hp⟩
theorem modFab_keeps {f} (h : Keeps r s) (k : Lets r .fab := by trivial) : Keeps r (modFab s f) :=
  ⟨h.pending, h.mem, h.staging, h.fuses, h.free, h.out, fun p hp => by cases p <;> first | exact lets_within k hp | exact h.within _ hp⟩
theorem modInteg_keeps {f} (h : Keeps r s) (k : Lets r .integ := by trivial) : Keeps r (modInteg s f) :=
  ⟨h.pending, h.mem, h.staging, h.fuses, h.free, h.out, fun p hp => by cases p <;> first | exact lets_within k hp | exact h.within _ hp⟩
theorem modEp_keeps {f} (h : Keeps r s) (k : Lets r .ep := by trivial) : Keeps r (modEp s f) :=
  ⟨h.pending, h.mem, h.staging, h.fuses, h.free, h.out, fun p hp => by cases p <;> first | exact lets_within k hp | exact h.within _ hp⟩
theorem modPart_keeps {f} (h : Keeps r s) (k : Lets r .part := by trivial) : Keeps r (modPart s f) :=
  ⟨h.pending, h.mem, h.staging, h.fuses, h.free, h.out, fun p hp => by cases p <;> first | exact lets_within k hp | exact h.within _ hp⟩
theorem modVs_keeps {f} (h : Keeps r s) (k : Lets r .vs := by trivial) : Keeps r (modVs s f) :=
  ⟨h.pending, h.mem, h.staging, h.fuses, h.free, h.out, fun p hp => by cases p <;> first | exact lets_within k hp | exact h.within _ hp⟩
theorem modLed_keeps {f} (h : Keeps r s) (k : Lets r .led := by trivial) : Keeps r (modLed s f) :=
  ⟨h.pending, h.mem, h.staging, h.fuses, h.free, h.out, fun p hp => by cases p <;> first | exact lets_within k hp | exact h.within _ hp⟩
theorem modObs_keeps {f} (h : Keeps r s) (k : Lets r .obs := by trivial) : Keeps r (modObs s f) :=
  ⟨h.pending, h.mem, h.staging, h.fuses, h.free, h.out, fun p hp => by cases p <;> first | exact lets_within k hp | exact h.within _ hp⟩
theorem modTime_keeps {f} (h : Keeps r s) (k : Lets r .time := by trivial) : Keeps r (modTime s f) :=
  ⟨h.pending, h.mem, h.staging, h.fuses, h.free, h.out, fun p hp => by cases p <;> first | exact lets_within k hp | exact h.within _ hp⟩
theorem modPow_keeps {f} (h : Keeps r s) (k : Lets r .pow := by trivial) : Keeps r (modPow s f) :=
  ⟨h.pending, h.mem, h.staging, h.fuses, h.free, h.out, fun p hp => by cases p <;> first | exact lets_within k hp | exact h.within _ hp⟩

theorem modPort_keeps {f} (h : Keeps r s) (hf : ∀ p, StagingWf p → StagingWf (f p)) (k : Lets r .port := by trivial) : Keeps r (modPort s f) :=
  ⟨h.pending, h.mem, fun w => hf _ (h.staging w), h.fuses, h.free, h.out, fun p hp => by cases p <;> first | exact lets_within k hp | exact h.within _ hp⟩

theorem modSec_keeps {f} (h : Keeps r s) (hf : ∀ v, FusesGrow v (f v)) (k : Lets r .sec := by trivial) : Keeps r (modSec s f) :=
  ⟨h.pending, h.mem, h.staging, ⟨Nat.le_trans h.fuses.1 (hf _).1, fun n => Nat.le_trans (h.fuses.2 n) ((hf _).2 n)⟩, h.free, h.out, fun p hp => by cases p <;> first | exact lets_within k hp | exact h.within _ hp⟩

theorem fuses_same {a b : SecState} (h1 : b.floor = a.floor) (h2 : b.zeroCount = a.zeroCount) : FusesGrow a b :=
  ⟨h1 ▸ Nat.le_refl _, fun _ => h2 ▸ Nat.le_refl _⟩

theorem emitOut_keeps {o} (h : Keeps r s) (k : Lets r .out := by trivial) : Keeps r (emitOut s o) :=
  ⟨h.pending, h.mem, h.staging, h.fuses, h.free, h.out.trans (List.prefix_append _ _), fun p hp => by cases p <;> first | exact lets_within k hp | exact h.within _ hp⟩

theorem advanceTo_keeps {t} (h : Keeps r s) (k : Lets r .now := by trivial) : Keeps r (advanceTo s t) :=
  ⟨h.pending, h.mem, h.staging, h.fuses, h.free, h.out, fun p hp => by cases p <;> first | exact lets_within k hp | exact h.within _ hp⟩

/-- Time starts again. -/
theorem now_keeps {t} (h : Keeps r s) (k : Lets r .now := by trivial) : Keeps r { s with now := t } :=
  ⟨h.pending, h.mem, h.staging, h.fuses, h.free, h.out, fun p hp => by cases p <;> first | exact lets_within k hp | exact h.within _ hp⟩

theorem timeReaches_keeps {t} (h : Keeps r s) (k : Lets r .now := by trivial) : Keeps r (timeReaches s t) := advanceTo_keeps h

theorem writeMem_keeps {a b} (h : Keeps r s) (k : Lets r .mem := by trivial) : Keeps r (writeMem s a b) :=
  ⟨h.pending, fun w => memWrite_wf _ _ _ (h.mem w), h.staging, h.fuses, h.free, h.out, fun p hp => by cases p <;> first | exact lets_within k hp | exact h.within _ hp⟩

theorem draw_keeps (h : Keeps r s) (k : Lets r .free := by trivial) : Keeps r (draw s).2 :=
  ⟨h.pending, h.mem, h.staging, h.fuses, Nat.le_succ_of_le h.free, h.out, fun p hp => by cases p <;> first | exact lets_within k hp | exact h.within _ hp⟩

theorem takeDraws_keeps {n} (h : Keeps r s) (k : Lets r .free := by trivial) : Keeps r (takeDraws s n) :=
  ⟨h.pending, h.mem, h.staging, h.fuses, Nat.le_trans h.free (Nat.le_add_right _ _), h.out, fun p hp => by cases p <;> first | exact lets_within k hp | exact h.within _ hp⟩

theorem drawBytes_keeps : ∀ (n : Nat) {s : State}, Keeps r s → (k : Lets r .free := by trivial) → Keeps r (drawBytes n s).2
  | 0, _, h, _ => h
  | n + 1, s, h, _ => drawBytes_keeps n (s := (draw s).2) (draw_keeps h)

/-! ### Tables -/

theorem stagingOf_wf {p : PortState} (h : StagingWf p) (n : Nat) : Memory.wf (tgetD p.ports n {}).staging = true := by
  unfold tgetD
  cases e : tget p.ports n with
  | none => rfl
  | some x => exact h _ (tget_mem _ _ _ e)

/-- A change of one port that keeps its staging memory canonical. -/
theorem ports_tmod_wf {p : PortState} {n : Nat} {f : Port → Port} (h : StagingWf p)
    (hf : ∀ x : Port, Memory.wf x.staging = true → Memory.wf (f x).staging = true) :
    ∀ e ∈ tmod p.ports n {} f, Memory.wf e.2.staging = true := by
  intro e he
  rcases tput_mem _ _ _ e he with h' | h'
  · exact h e h'
  · subst h'; exact hf _ (stagingOf_wf h n)

theorem modPortOf_keeps {n f} (h : Keeps r s) (hf : ∀ x : Port, Memory.wf x.staging = true → Memory.wf (f x).staging = true) (k : Lets r .port := by trivial) : Keeps r (modPortOf s n f) :=
  modPort_keeps h fun _ hp => ports_tmod_wf hp hf

end Sys2Proof.Machine
end

