-- ==== Sys2Proof/Laws/KeepOps.lean ====
section
/-!
SUPPORT. Laws/KeepOps.lean: what the operations of Machine/Ops.lean keep (Laws/Keep.lean).
-/
namespace Sys2Proof.Machine

theorem done_keeps {r a0} (h0 : Keeps r a0)  : KeepsO r (done a0) := by
  unfold done; try dsimp only
  repeat' first | with_reducible assumption | with_reducible apply keeps_next

theorem stagePut_keeps {r a0 a1 a2} (h0 : Keeps r a0) (kobs : Lets r .obs := by trivial) : Keeps r (stagePut a0 a1 a2) := by
  unfold stagePut; try dsimp only
  repeat' first | with_reducible assumption | with_reducible apply modObs_keeps

theorem ringPut_keeps {r a0 a1 a2} (h0 : Keeps r a0) (kobs : Lets r .obs := by trivial) : Keeps r (ringPut a0 a1 a2) := by
  unfold ringPut; try dsimp only
  repeat' first | with_reducible assumption | with_reducible apply modObs_keeps | with_reducible apply keeps_ite

theorem event_keeps {r a0 a1 a2 a3 a4 a5 a6} (h0 : Keeps r a0) (kobs : Lets r .obs := by trivial) : Keeps r (event a0 a1 a2 a3 a4 a5 a6) := by
  unfold event; try dsimp only
  repeat' first | with_reducible assumption | with_reducible apply ringPut_keeps | with_reducible apply stagePut_keeps | with_reducible apply keeps_ite

theorem report_keeps {r a0 a1} (h0 : Keeps r a0) (kinteg : Lets r .integ := by trivial) (kobs : Lets r .obs := by trivial) : Keeps r (report a0 a1) := by
  unfold report; try dsimp only
  repeat' first | with_reducible assumption | with_reducible apply event_keeps | with_reducible apply modInteg_keeps | with_reducible apply keeps_ite

theorem reportPkt_keeps {r a0 a1 a2 a3 a4 a5} (h0 : Keeps r a0) (kinteg : Lets r .integ := by trivial) (kobs : Lets r .obs := by trivial) : Keeps r (reportPkt a0 a1 a2 a3 a4 a5) := by
  unfold reportPkt; try dsimp only
  repeat' first | with_reducible assumption | with_reducible apply report_keeps

theorem cleanRange_keeps {r a0 a1 a2} (h0 : Keeps r a0) (kinteg : Lets r .integ := by trivial) : Keeps r (cleanRange a0 a1 a2) := by
  unfold cleanRange; try dsimp only
  repeat' first | with_reducible assumption | with_reducible apply modInteg_keeps

theorem send_keeps {r a0 a1 a2 a3} (h0 : Keeps r a0) (kfab : Lets r .fab := by trivial) : Keeps r (send a0 a1 a2 a3) := by
  unfold send; try dsimp only
  repeat' first | with_reducible assumption | with_reducible apply modFab_keeps

end Sys2Proof.Machine
end

