-- ==== Sys2Proof/Laws/KeepCores.lean ====
section
/-!
SUPPORT. Laws/KeepCores.lean: what the operations of Machine/Cores.lean keep (Laws/Keep.lean).
-/
namespace Sys2Proof.Machine

theorem modVat_keeps {r a0 a1 a2} (h0 : Keeps r a0) (kvs : Lets r .vs := by trivial) : Keeps r (modVat a0 a1 a2) := by
  unfold modVat; try dsimp only
  repeat' first | with_reducible assumption | with_reducible apply modVs_keeps

theorem putFibre_keeps {r a0 a1 a2 a3 a4} (h0 : Keeps r a0) (kvs : Lets r .vs := by trivial) : Keeps r (putFibre a0 a1 a2 a3 a4) := by
  unfold putFibre; try dsimp only
  repeat' first | with_reducible assumption | with_reducible apply modVat_keeps

theorem dropFibre_keeps {r a0 a1 a2 a3} (h0 : Keeps r a0) (kvs : Lets r .vs := by trivial) : Keeps r (dropFibre a0 a1 a2 a3) := by
  unfold dropFibre; try dsimp only
  repeat' first | with_reducible assumption | with_reducible apply modVat_keeps

theorem modSeq_keeps {r a0 a1 a2} (h0 : Keeps r a0) (kvs : Lets r .vs := by trivial) : Keeps r (modSeq a0 a1 a2) := by
  unfold modSeq; try dsimp only
  repeat' first | with_reducible assumption | with_reducible apply modVat_keeps

theorem modBatch_keeps {r a0 a1 a2 a3} (h0 : Keeps r a0) (kvs : Lets r .vs := by trivial) : Keeps r (modBatch a0 a1 a2 a3) := by
  unfold modBatch; try dsimp only
  repeat' first | with_reducible assumption | with_reducible apply modVat_keeps

theorem modCell_keeps {r a0 a1 a2} (h0 : Keeps r a0) (kvs : Lets r .vs := by trivial) : Keeps r (modCell a0 a1 a2) := by
  unfold modCell; try dsimp only
  repeat' first | with_reducible assumption | with_reducible apply modVs_keeps

theorem modAdm_keeps {r a0 a1 a2} (h0 : Keeps r a0) (kport : Lets r .port := by trivial) : Keeps r (modAdm a0 a1 a2) := by
  unfold modAdm; try dsimp only
  repeat' first | with_reducible assumption | exact fun (_ : PortState) hp => hp | with_reducible apply modPort_keeps

theorem modCtx_keeps {r a0 a1 a2 a3} (h0 : Keeps r a0) (kport : Lets r .port := by trivial) : Keeps r (modCtx a0 a1 a2 a3) := by
  unfold modCtx; try dsimp only
  repeat' first | with_reducible assumption | with_reducible apply modAdm_keeps

theorem purgeWaiting_keeps {r a0 a1} (h0 : Keeps r a0) (kfab : Lets r .fab := by trivial) : Keeps r (purgeWaiting a0 a1) := by
  unfold purgeWaiting; try dsimp only
  repeat' first | with_reducible assumption | with_reducible apply modFab_keeps

theorem dropExpects_keeps {r a0 a1} (h0 : Keeps r a0) (kfab : Lets r .fab := by trivial) : Keeps r (dropExpects a0 a1) := by
  unfold dropExpects; try dsimp only
  repeat' first | with_reducible assumption | with_reducible apply modFab_keeps

theorem withdrawCell_keeps {r a0 a1 a2 a3 a4} (h0 : Keeps r a0) (kvs : Lets r .vs := by trivial) : Keeps r (withdrawCell a0 a1 a2 a3 a4) := by
  unfold withdrawCell; try dsimp only
  repeat' first | with_reducible assumption | with_reducible apply modVs_keeps

theorem unparkIfDone_keeps {r a0 a1 a2} (h0 : Keeps r a0) (kfab : Lets r .fab := by trivial) (kvs : Lets r .vs := by trivial) : Keeps r (unparkIfDone a0 a1 a2) := by
  unfold unparkIfDone; try dsimp only
  repeat' first | with_reducible assumption | with_reducible apply modVat_keeps | with_reducible apply send_keeps | with_reducible apply keeps_ite | split

theorem withdrawWait_keeps {r a0 a1 a2 a3} (h0 : Keeps r a0) (kfab : Lets r .fab := by trivial) (kvs : Lets r .vs := by trivial) : Keeps r (withdrawWait a0 a1 a2 a3) := by
  unfold withdrawWait; try dsimp only
  repeat' first | with_reducible assumption | (intro _) | with_reducible apply withdrawCell_keeps | with_reducible apply dropExpects_keeps | with_reducible apply modVat_keeps | with_reducible apply unparkIfDone_keeps | with_reducible apply keeps_foldl

theorem ctxEvent_keeps {r a0 a1 a2} (h0 : Keeps r a0) (kobs : Lets r .obs := by trivial) : Keeps r (ctxEvent a0 a1 a2) := by
  unfold ctxEvent; try dsimp only
  repeat' first | with_reducible assumption | with_reducible apply event_keeps

theorem snapCancel_keeps {r a0 a1} (h0 : Keeps r a0) (kobs : Lets r .obs := by trivial) : Keeps r (snapCancel a0 a1) := by
  unfold snapCancel; try dsimp only
  repeat' first | with_reducible assumption | with_reducible apply modObs_keeps

theorem leaveLive_keeps {r a0 a1 a2} (h0 : Keeps r a0) (kobs : Lets r .obs := by trivial) : Keeps r (leaveLive a0 a1 a2) := by
  unfold leaveLive; try dsimp only
  repeat' first | with_reducible assumption | with_reducible apply snapCancel_keeps | with_reducible apply keeps_ite

theorem sendKill_keeps {r a0 a1 a2 a3 a4} (h0 : Keeps r a0) (kfab : Lets r .fab := by trivial) : Keeps r (sendKill a0 a1 a2 a3 a4) := by
  unfold sendKill; try dsimp only
  repeat' first | with_reducible assumption | with_reducible apply send_keeps

theorem killSettle_keeps {r a0 a1 a2} (h0 : Keeps r a0) (kobs : Lets r .obs := by trivial) (kport : Lets r .port := by trivial) : Keeps r (killSettle a0 a1 a2) := by
  unfold killSettle; try dsimp only
  repeat' first | with_reducible assumption | with_reducible apply ctxEvent_keeps | with_reducible apply modCtx_keeps | with_reducible apply keeps_ite

theorem enterKilling_keeps {r a0 a1 a2 a3} (h0 : Keeps r a0) (kfab : Lets r .fab := by trivial) (kobs : Lets r .obs := by trivial) (kport : Lets r .port := by trivial) : Keeps r (enterKilling a0 a1 a2 a3) := by
  unfold enterKilling; try dsimp only
  repeat' first | with_reducible assumption | (intro _) | with_reducible apply leaveLive_keeps | with_reducible apply modCtx_keeps | with_reducible apply modAdm_keeps | with_reducible apply ctxEvent_keeps | with_reducible apply sendKill_keeps | with_reducible apply killSettle_keeps | with_reducible apply keeps_ite | with_reducible apply keeps_foldl

theorem contextFault_keeps {r a0 a1 a2} (h0 : Keeps r a0) (kfab : Lets r .fab := by trivial) (kobs : Lets r .obs := by trivial) (kport : Lets r .port := by trivial) : Keeps r (contextFault a0 a1 a2) := by
  unfold contextFault; try dsimp only
  repeat' first | with_reducible assumption | with_reducible apply enterKilling_keeps | with_reducible apply keeps_ite | split

theorem faultReport_keeps {r a0 a1 a2 a3 a4 a5 a6} (h0 : Keeps r a0) (kfab : Lets r .fab := by trivial) (kinteg : Lets r .integ := by trivial) (kobs : Lets r .obs := by trivial) (kport : Lets r .port := by trivial) (kvs : Lets r .vs := by trivial) : Keeps r (faultReport a0 a1 a2 a3 a4 a5 a6) := by
  unfold faultReport; try dsimp only
  repeat' first | with_reducible assumption | with_reducible apply modVat_keeps | with_reducible apply modBatch_keeps | with_reducible apply event_keeps | with_reducible apply report_keeps | with_reducible apply contextFault_keeps

theorem fibreFault_keeps {r a0 a1 a2 a3 a4} (h0 : Keeps r a0) (kfab : Lets r .fab := by trivial) (kinteg : Lets r .integ := by trivial) (kobs : Lets r .obs := by trivial) (kport : Lets r .port := by trivial) (kvs : Lets r .vs := by trivial) : Keeps r (fibreFault a0 a1 a2 a3 a4) := by
  unfold fibreFault; try dsimp only
  repeat' first | with_reducible assumption | with_reducible apply withdrawWait_keeps | with_reducible apply purgeWaiting_keeps | with_reducible apply dropFibre_keeps | with_reducible apply modBatch_keeps | with_reducible apply faultReport_keeps | split

theorem finishOp_keeps {r a0 a1 a2 a3} (h0 : Keeps r a0) (kfab : Lets r .fab := by trivial) (kinteg : Lets r .integ := by trivial) (kobs : Lets r .obs := by trivial) (kport : Lets r .port := by trivial) (kvs : Lets r .vs := by trivial) : Keeps r (finishOp a0 a1 a2 a3) := by
  unfold finishOp; try dsimp only
  repeat' first | with_reducible assumption | with_reducible apply modVat_keeps | with_reducible apply modObs_keeps | with_reducible apply fibreFault_keeps | with_reducible apply putFibre_keeps | with_reducible apply keeps_ite | split

theorem flushBranches_keeps {r a0 a1} (h0 : Keeps r a0) (kobs : Lets r .obs := by trivial) : Keeps r (flushBranches a0 a1) := by
  unfold flushBranches; try dsimp only
  repeat' first | with_reducible assumption | with_reducible apply modObs_keeps | with_reducible apply event_keeps | with_reducible apply keeps_ite

theorem seqBranch_keeps {r a0 a1 a2} (h0 : Keeps r a0) (kobs : Lets r .obs := by trivial) : Keeps r (seqBranch a0 a1 a2) := by
  unfold seqBranch; try dsimp only
  repeat' first | with_reducible assumption | with_reducible apply modObs_keeps | with_reducible apply flushBranches_keeps | with_reducible apply keeps_ite

theorem seqEvent_keeps {r a0 a1 a2 a3 a4} (h0 : Keeps r a0) (kobs : Lets r .obs := by trivial) : Keeps r (seqEvent a0 a1 a2 a3 a4) := by
  unfold seqEvent; try dsimp only
  repeat' first | with_reducible assumption | with_reducible apply event_keeps | with_reducible apply flushBranches_keeps

theorem waitEvent_keeps {r a0 a1 a2 a3 a4 a5} (h0 : Keeps r a0) (kobs : Lets r .obs := by trivial) : Keeps r (waitEvent a0 a1 a2 a3 a4 a5) := by
  unfold waitEvent; try dsimp only
  repeat' first | with_reducible assumption | with_reducible apply seqEvent_keeps

theorem seqSettle_keeps {r a0 a1} (h0 : Keeps r a0) (kvs : Lets r .vs := by trivial) : Keeps r (seqSettle a0 a1) := by
  unfold seqSettle; try dsimp only
  repeat' first | with_reducible assumption | exact fun (_ : Port) hp => hp | exact fun (_ : PortState) hp => hp | exact fun (_ : SecState) => fuses_same rfl rfl | (intro _) | with_reducible apply modSeq_keeps | with_reducible apply keeps_id | with_reducible apply keeps_some | with_reducible exact keeps_none | with_reducible apply keeps_ite | with_reducible apply keepsM_ite | with_reducible apply keepsP_ite | with_reducible apply keepsQ_ite | with_reducible apply keeps_foldl | with_reducible apply keeps_foldlP | with_reducible apply keeps_foldlQ | exact fun _ hp => hp | exact fun _ => fuses_same rfl rfl | with_reducible exact fuses_same rfl rfl | split | with_reducible exact keeps_of_snd ‹_› ‹_› | with_reducible exact keeps_of_fst ‹_› ‹_› | with_reducible refine keeps_of_snd ‹_› ?_ | with_reducible refine keeps_of_fst ‹_› ?_ | with_reducible refine keeps_of_trd ‹_› ?_ | with_reducible refine keeps_of_some ‹_› ?_ | with_reducible refine keeps_of_wref ‹_› ?_ | with_reducible refine keeps_of_wok ‹_› ?_ | with_reducible refine keeps_of_fwait ‹_› ?_ | with_reducible refine keeps_of_fbad ‹_› ?_

theorem seqBegin_keeps {r a0 a1} (h0 : Keeps r a0) (kvs : Lets r .vs := by trivial) : Keeps r (seqBegin a0 a1) := by
  unfold seqBegin; try dsimp only
  repeat' first | with_reducible assumption | with_reducible apply modVat_keeps | with_reducible apply modSeq_keeps | with_reducible apply seqSettle_keeps

theorem seqCancelWait_keeps {r a0 a1} (h0 : Keeps r a0) (kfab : Lets r .fab := by trivial) (kvs : Lets r .vs := by trivial) : Keeps r (seqCancelWait a0 a1) := by
  unfold seqCancelWait; try dsimp only
  repeat' first | with_reducible assumption | with_reducible apply withdrawWait_keeps | with_reducible apply purgeWaiting_keeps | with_reducible apply modSeq_keeps

theorem seqTrap_keeps {r a0 a1 a2 a3 a4} (h0 : Keeps r a0) (kfab : Lets r .fab := by trivial) (kinteg : Lets r .integ := by trivial) (kobs : Lets r .obs := by trivial) (kvs : Lets r .vs := by trivial) : Keeps r (seqTrap a0 a1 a2 a3 a4) := by
  unfold seqTrap; try dsimp only
  repeat' first | with_reducible assumption | with_reducible apply seqCancelWait_keeps | with_reducible apply modSeq_keeps | with_reducible apply report_keeps | with_reducible apply seqEvent_keeps | with_reducible apply seqBegin_keeps | with_reducible apply keeps_ite

theorem seqBoundary_keeps {r a0 a1} (h0 : Keeps r a0) (kfab : Lets r .fab := by trivial) (kinteg : Lets r .integ := by trivial) (kobs : Lets r .obs := by trivial) (kvs : Lets r .vs := by trivial) : Keeps r (seqBoundary a0 a1) := by
  unfold seqBoundary; try dsimp only
  repeat' first | with_reducible assumption | with_reducible apply seqTrap_keeps | with_reducible apply modSeq_keeps | with_reducible apply keeps_ite | split

theorem seqNext_keeps {r a0 a1 a2} (h0 : Keeps r a0) (kfab : Lets r .fab := by trivial) (kinteg : Lets r .integ := by trivial) (kobs : Lets r .obs := by trivial) (kvs : Lets r .vs := by trivial) : Keeps r (seqNext a0 a1 a2) := by
  unfold seqNext; try dsimp only
  repeat' first | with_reducible assumption | with_reducible apply seqBoundary_keeps | with_reducible apply modSeq_keeps

theorem mcastSettle_keeps {r a0 a1} (h0 : Keeps r a0) (kfab : Lets r .fab := by trivial) (kinteg : Lets r .integ := by trivial) (kobs : Lets r .obs := by trivial) (kvs : Lets r .vs := by trivial) : Keeps r (mcastSettle a0 a1) := by
  unfold mcastSettle; try dsimp only
  repeat' first | with_reducible assumption | with_reducible apply seqNext_keeps | with_reducible apply keeps_ite

theorem seqPosted_keeps {r a0 a1 a2 a3} (h0 : Keeps r a0) (kfab : Lets r .fab := by trivial) (kinteg : Lets r .integ := by trivial) (kobs : Lets r .obs := by trivial) (kvs : Lets r .vs := by trivial) : Keeps r (seqPosted a0 a1 a2 a3) := by
  unfold seqPosted; try dsimp only
  repeat' first | with_reducible assumption | with_reducible apply seqTrap_keeps | with_reducible apply modSeq_keeps | with_reducible apply keeps_ite

theorem deliveryPost_keeps {r a0 a1 a2} (h0 : Keeps r a0) (kfab : Lets r .fab := by trivial) (kport : Lets r .port := by trivial) : Keeps r (deliveryPost a0 a1 a2) := by
  unfold deliveryPost; try dsimp only
  repeat' first | with_reducible assumption | with_reducible apply modCtx_keeps | with_reducible apply send_keeps

theorem deliverySignal_keeps {r a0 a1 a2} (h0 : Keeps r a0) (kfab : Lets r .fab := by trivial) (kport : Lets r .port := by trivial) : Keeps r (deliverySignal a0 a1 a2) := by
  unfold deliverySignal; try dsimp only
  repeat' first | with_reducible assumption | with_reducible apply modCtx_keeps | with_reducible apply send_keeps

theorem deliverInput_keeps {r a0 a1 a2} (h0 : Keeps r a0) (kfab : Lets r .fab := by trivial) (kinteg : Lets r .integ := by trivial) (kobs : Lets r .obs := by trivial) (kport : Lets r .port := by trivial) : Keeps r (deliverInput a0 a1 a2) := by
  unfold deliverInput; try dsimp only
  repeat' first | with_reducible assumption | (intro _) | with_reducible apply modCtx_keeps | with_reducible apply report_keeps | with_reducible apply modInteg_keeps | with_reducible apply send_keeps | with_reducible apply deliveryPost_keeps | with_reducible apply keeps_ite | with_reducible apply keeps_foldl | split

theorem deliveryFailed_keeps {r a0 a1 a2 a3} (h0 : Keeps r a0) (kfab : Lets r .fab := by trivial) (kinteg : Lets r .integ := by trivial) (kobs : Lets r .obs := by trivial) (kport : Lets r .port := by trivial) : Keeps r (deliveryFailed a0 a1 a2 a3) := by
  unfold deliveryFailed; try dsimp only
  repeat' first | with_reducible assumption | with_reducible apply purgeWaiting_keeps | with_reducible apply modInteg_keeps | with_reducible apply deliverInput_keeps | with_reducible apply modCtx_keeps | with_reducible apply report_keeps | with_reducible apply keeps_ite

theorem deliveryAcked_keeps {r a0 a1 a2 a3 a4 a5} (h0 : Keeps r a0) (kfab : Lets r .fab := by trivial) (kport : Lets r .port := by trivial) : Keeps r (deliveryAcked a0 a1 a2 a3 a4 a5) := by
  unfold deliveryAcked; try dsimp only
  repeat' first | with_reducible assumption | with_reducible apply modCtx_keeps | with_reducible apply deliveryPost_keeps | with_reducible apply deliverySignal_keeps | with_reducible apply keeps_ite

theorem failAccess_keeps {r a0 a1 a2 a3 a4} (h0 : Keeps r a0) (kfab : Lets r .fab := by trivial) (kinteg : Lets r .integ := by trivial) (kobs : Lets r .obs := by trivial) (kport : Lets r .port := by trivial) (kvs : Lets r .vs := by trivial) : Keeps r (failAccess a0 a1 a2 a3 a4) := by
  unfold failAccess; try dsimp only
  repeat' first | with_reducible assumption | with_reducible apply purgeWaiting_keeps | with_reducible apply fibreFault_keeps | with_reducible apply faultReport_keeps | with_reducible apply seqPosted_keeps | with_reducible apply seqTrap_keeps | with_reducible apply deliveryFailed_keeps | with_reducible apply modObs_keeps | with_reducible apply keeps_ite | split

end Sys2Proof.Machine
end

