-- ==== Sys2Proof/Laws/KeepFabric.lean ====
section
/-!
SUPPORT. Laws/KeepFabric.lean: what the operations of Machine/Fabric.lean keep (Laws/Keep.lean).
-/
namespace Sys2Proof.Machine

theorem streamStat_keeps {r a0 a1 a2} (h0 : Keeps r a0) (kfab : Lets r .fab := by trivial) : Keeps r (streamStat a0 a1 a2) := by
  unfold streamStat; try dsimp only
  repeat' first | with_reducible assumption | with_reducible apply modFab_keeps

theorem streamError_keeps {r a0 a1 a2} (h0 : Keeps r a0) (kinteg : Lets r .integ := by trivial) : Keeps r (streamError a0 a1 a2) := by
  unfold streamError; try dsimp only
  repeat' first | with_reducible assumption | with_reducible apply modInteg_keeps

theorem injectCount_keeps {r a0 a1 a2 a3 a4 a5} (h0 : Keeps r a0) (kobs : Lets r .obs := by trivial) : Keeps r (injectCount a0 a1 a2 a3 a4 a5) := by
  unfold injectCount; try dsimp only
  repeat' first | with_reducible assumption | with_reducible apply modObs_keeps

theorem latencyDone_keeps {r a0 a1 a2 a3 a4 a5 a6} (h0 : Keeps r a0) (kobs : Lets r .obs := by trivial) : Keeps r (latencyDone a0 a1 a2 a3 a4 a5 a6) := by
  unfold latencyDone; try dsimp only
  repeat' first | with_reducible assumption | with_reducible apply modObs_keeps | with_reducible apply injectCount_keeps | split

theorem latencyDrop_keeps {r a0 a1 a2 a3 a4} (h0 : Keeps r a0) (kobs : Lets r .obs := by trivial) : Keeps r (latencyDrop a0 a1 a2 a3 a4) := by
  unfold latencyDrop; try dsimp only
  repeat' first | with_reducible assumption | with_reducible apply modObs_keeps

theorem putTracker_keeps {r a0 a1 a2 a3} (h0 : Keeps r a0) (kfab : Lets r .fab := by trivial) : Keeps r (putTracker a0 a1 a2 a3) := by
  unfold putTracker; try dsimp only
  repeat' first | with_reducible assumption | with_reducible apply modFab_keeps

theorem debit_keeps {r a0 a1 a2 a3} (h0 : Keeps r a0) (kfab : Lets r .fab := by trivial) : Keeps r (debit a0 a1 a2 a3) := by
  unfold debit; try dsimp only
  repeat' first | with_reducible assumption | with_reducible apply modFab_keeps | with_reducible apply keeps_ite

theorem enterNet_keeps {r a0 a1 a2 a3} (h0 : Keeps r a0) (kfab : Lets r .fab := by trivial) : Keeps r (enterNet a0 a1 a2 a3) := by
  unfold enterNet; try dsimp only
  repeat' first | with_reducible assumption | with_reducible apply modFab_keeps

theorem injected_keeps {r a0 a1 a2 a3 a4} (h0 : Keeps r a0) (kfab : Lets r .fab := by trivial) (kobs : Lets r .obs := by trivial) : Keeps r (injected a0 a1 a2 a3 a4) := by
  unfold injected; try dsimp only
  repeat' first | with_reducible assumption | with_reducible apply debit_keeps | with_reducible apply injectCount_keeps | with_reducible apply enterNet_keeps | with_reducible apply keeps_ite

theorem modMc_keeps {r a0 a1 a2} (h0 : Keeps r a0) (kvs : Lets r .vs := by trivial) : Keeps r (modMc a0 a1 a2) := by
  unfold modMc; try dsimp only
  repeat' first | with_reducible assumption | with_reducible apply modVs_keeps

theorem mcRelay_keeps {r a0 a1 a2 a3 a4} (h0 : Keeps r a0) (kfab : Lets r .fab := by trivial) (kvs : Lets r .vs := by trivial) : Keeps r (mcRelay a0 a1 a2 a3 a4) := by
  unfold mcRelay; try dsimp only
  repeat' first | with_reducible assumption | with_reducible apply modMc_keeps | with_reducible apply send_keeps

theorem closeStream_keeps {r a0 a1 a2} (h0 : Keeps r a0) (kfab : Lets r .fab := by trivial) : Keeps r (closeStream a0 a1 a2) := by
  unfold closeStream; try dsimp only
  repeat' first | with_reducible assumption | with_reducible apply send_keeps | with_reducible apply putTracker_keeps | with_reducible apply streamStat_keeps

theorem sendOn_keeps {r a0 a1 a2 a3 a4 a5 a6} (h0 : Keeps r a0) (kfab : Lets r .fab := by trivial) (kobs : Lets r .obs := by trivial) : Keeps r (sendOn a0 a1 a2 a3 a4 a5 a6) := by
  unfold sendOn; try dsimp only
  repeat' first | with_reducible assumption | with_reducible apply putTracker_keeps | with_reducible apply modFab_keeps | with_reducible apply modObs_keeps | with_reducible apply injected_keeps | with_reducible apply keeps_ite | split

theorem openTracker_keeps {r a0 a1 a2 a3 a4 a5} (h0 : Keeps r a0) (kfab : Lets r .fab := by trivial) : Keeps r (openTracker a0 a1 a2 a3 a4 a5) := by
  unfold openTracker; try dsimp only
  repeat' first | with_reducible assumption | with_reducible apply streamStat_keeps | with_reducible apply putTracker_keeps

theorem doInject_keeps {r a0 a1 a2 a3 a4} (h0 : Keeps r a0) (kfab : Lets r .fab := by trivial) (kinteg : Lets r .integ := by trivial) (kobs : Lets r .obs := by trivial) (kport : Lets r .port := by trivial) (kvs : Lets r .vs := by trivial) : Keeps r (doInject a0 a1 a2 a3 a4) := by
  unfold doInject; try dsimp only
  repeat' first | with_reducible assumption | with_reducible apply modFab_keeps | with_reducible apply streamStat_keeps | with_reducible apply streamError_keeps | with_reducible apply reportPkt_keeps | with_reducible apply failAccess_keeps | with_reducible apply injected_keeps | with_reducible apply sendOn_keeps | with_reducible apply mcRelay_keeps | with_reducible apply closeStream_keeps | with_reducible apply openTracker_keeps | with_reducible apply keeps_ite | split

theorem settleSeq_keeps {r a0 a1} (h0 : Keeps r a0) (kfab : Lets r .fab := by trivial) (kinteg : Lets r .integ := by trivial) (kobs : Lets r .obs := by trivial) (kvs : Lets r .vs := by trivial) : Keeps r (settleSeq a0 a1) := by
  unfold settleSeq; try dsimp only
  repeat' first | with_reducible assumption | with_reducible apply seqSettle_keeps | with_reducible apply mcastSettle_keeps

theorem injectFirst_keeps {r a0 a1} (h0 : Keeps r a0) (kfab : Lets r .fab := by trivial) (kinteg : Lets r .integ := by trivial) (kobs : Lets r .obs := by trivial) (kport : Lets r .port := by trivial) (kvs : Lets r .vs := by trivial) : Keeps r (injectFirst a0 a1) := by
  unfold injectFirst; try dsimp only
  repeat' first | with_reducible assumption | with_reducible apply doInject_keeps | with_reducible apply settleSeq_keeps | with_reducible apply keeps_ite | split

theorem execPacketInject_keeps {r a0 a1 a2} (h2 : Keeps r a2) (kfab : Lets r .fab := by trivial) (kinteg : Lets r .integ := by trivial) (kobs : Lets r .obs := by trivial) (kport : Lets r .port := by trivial) (kvs : Lets r .vs := by trivial) : KeepsO r (execPacketInject a0 a1 a2) := by
  unfold execPacketInject; try dsimp only
  repeat' first | with_reducible assumption | with_reducible apply send_keeps | with_reducible apply injectFirst_keeps | with_reducible apply keeps_next | with_reducible apply keepsO_ite | split

theorem execRegulatorRelease_keeps {r a0 a1} (h1 : Keeps r a1) (kfab : Lets r .fab := by trivial) (kinteg : Lets r .integ := by trivial) (know : Lets r .now := by trivial) (kobs : Lets r .obs := by trivial) (kport : Lets r .port := by trivial) (kvs : Lets r .vs := by trivial) : KeepsO r (execRegulatorRelease a0 a1) := by
  unfold execRegulatorRelease; try dsimp only
  repeat' first | with_reducible assumption | with_reducible apply injectFirst_keeps | with_reducible apply timeReaches_keeps | with_reducible apply keeps_next | split

theorem ackOne_keeps {r a0 a1 a2 a3} (h0 : Keeps r a0) (kfab : Lets r .fab := by trivial) (kinteg : Lets r .integ := by trivial) (kobs : Lets r .obs := by trivial) (kport : Lets r .port := by trivial) (kvs : Lets r .vs := by trivial) : Keeps r (ackOne a0 a1 a2 a3) := by
  unfold ackOne; try dsimp only
  repeat' first | with_reducible assumption | with_reducible apply latencyDone_keeps | with_reducible apply deliveryAcked_keeps | with_reducible apply finishOp_keeps | with_reducible apply keeps_ite | split

theorem failOne_keeps {r a0 a1 a2 a3 a4} (h0 : Keeps r a0) (kfab : Lets r .fab := by trivial) (kinteg : Lets r .integ := by trivial) (kobs : Lets r .obs := by trivial) (kport : Lets r .port := by trivial) (kvs : Lets r .vs := by trivial) : Keeps r (failOne a0 a1 a2 a3 a4) := by
  unfold failOne; try dsimp only
  repeat' first | with_reducible assumption | with_reducible apply streamError_keeps | with_reducible apply latencyDrop_keeps | with_reducible apply modFab_keeps | with_reducible apply failAccess_keeps

theorem endStream_keeps {r a0 a1 a2 a3 a4} (h0 : Keeps r a0) (kfab : Lets r .fab := by trivial) (kinteg : Lets r .integ := by trivial) (kobs : Lets r .obs := by trivial) (kport : Lets r .port := by trivial) (kvs : Lets r .vs := by trivial) : Keeps r (endStream a0 a1 a2 a3 a4) := by
  unfold endStream; try dsimp only
  repeat' first | with_reducible assumption | (intro _) | with_reducible apply putTracker_keeps | with_reducible apply purgeWaiting_keeps | with_reducible apply ackOne_keeps | with_reducible apply failOne_keeps | with_reducible apply failAccess_keeps | with_reducible apply streamError_keeps | with_reducible apply keeps_ite | with_reducible apply keeps_foldl | split

theorem ackEntry_keeps {r a0 a1 a2} (h0 : Keeps r a0) (kfab : Lets r .fab := by trivial) (kinteg : Lets r .integ := by trivial) (kobs : Lets r .obs := by trivial) (kport : Lets r .port := by trivial) (kvs : Lets r .vs := by trivial) : Keeps r (ackEntry a0 a1 a2) := by
  unfold ackEntry; try dsimp only
  repeat' first | with_reducible assumption | (intro _) | with_reducible apply endStream_keeps | with_reducible apply putTracker_keeps | with_reducible apply ackOne_keeps | with_reducible apply keeps_ite | with_reducible apply keeps_foldl

theorem settleAll_keeps {r a0} (h0 : Keeps r a0) (kfab : Lets r .fab := by trivial) (kinteg : Lets r .integ := by trivial) (kobs : Lets r .obs := by trivial) (kvs : Lets r .vs := by trivial) : Keeps r (settleAll a0) := by
  unfold settleAll; try dsimp only
  repeat' first | with_reducible assumption | (intro _) | with_reducible apply settleSeq_keeps | with_reducible apply keeps_foldl

theorem takeArrived_keeps {r a0 a1 a2} (h0 : Keeps r a0) (kfab : Lets r .fab := by trivial) : KeepsM r (takeArrived a0 a1 a2) := by
  unfold takeArrived; try dsimp only
  repeat' first | with_reducible assumption | with_reducible apply modFab_keeps | with_reducible apply keeps_some | with_reducible exact keeps_none | with_reducible apply keepsM_ite | split

theorem onArrival_keeps {r a0 a1 a2 a3} {a4 : State → State} (h3 : Keeps r a3) (h4 : ∀ y0, Keeps r y0 → Keeps r (a4 y0)) (kfab : Lets r .fab := by trivial) : KeepsO r (onArrival a0 a1 a2 a3 a4) := by
  unfold onArrival; try dsimp only
  repeat' first | with_reducible assumption | with_reducible apply h4 | with_reducible apply takeArrived_keeps | with_reducible apply keeps_next | with_reducible apply keepsO_ite | split | with_reducible refine keeps_of_some ‹_› ?_

theorem fenceSide_keeps {r a0 a1 a2} (h0 : Keeps r a0) (ktime : Lets r .time := by trivial) : Keeps r (fenceSide a0 a1 a2) := by
  unfold fenceSide; try dsimp only
  repeat' first | with_reducible assumption | with_reducible apply modTime_keeps | with_reducible apply keeps_ite

theorem fenceBoth_keeps {r a0 a1 a2} (h0 : Keeps r a0) (ktime : Lets r .time := by trivial) : Keeps r (fenceBoth a0 a1 a2) := by
  unfold fenceBoth; try dsimp only
  repeat' first | with_reducible assumption | with_reducible apply fenceSide_keeps | split

theorem failLink_keeps {r a0 a1 a2 a3} (h0 : Keeps r a0) (kep : Lets r .ep := by trivial) (kfab : Lets r .fab := by trivial) (kinteg : Lets r .integ := by trivial) (kobs : Lets r .obs := by trivial) (ktime : Lets r .time := by trivial) : Keeps r (failLink a0 a1 a2 a3) := by
  unfold failLink; try dsimp only
  repeat' first | with_reducible assumption | with_reducible apply fenceBoth_keeps | with_reducible apply modFab_keeps | with_reducible apply modEp_keeps | with_reducible apply event_keeps | with_reducible apply report_keeps

theorem noteGrant_keeps {r a0 a1 a2 a3 a4 a5} (h0 : Keeps r a0) (kfab : Lets r .fab := by trivial) : Keeps r (noteGrant a0 a1 a2 a3 a4 a5) := by
  unfold noteGrant; try dsimp only
  repeat' first | with_reducible assumption | with_reducible apply modFab_keeps | with_reducible apply keeps_ite

theorem routerCount_keeps {r a0 a1 a2 a3 a4 a5} (h0 : Keeps r a0) (kobs : Lets r .obs := by trivial) : Keeps r (routerCount a0 a1 a2 a3 a4 a5) := by
  unfold routerCount; try dsimp only
  repeat' first | with_reducible assumption | with_reducible apply modObs_keeps

theorem countForward_keeps {r a0 a1 a2 a3 a4} (h0 : Keeps r a0) (kobs : Lets r .obs := by trivial) : Keeps r (countForward a0 a1 a2 a3 a4) := by
  unfold countForward; try dsimp only
  repeat' first | with_reducible assumption | with_reducible apply routerCount_keeps | with_reducible apply modObs_keeps

theorem takeFlight_keeps {r a0 a1} (h0 : Keeps r a0) (kfab : Lets r .fab := by trivial) : Keeps r (takeFlight a0 a1) := by
  unfold takeFlight; try dsimp only
  repeat' first | with_reducible assumption | with_reducible apply modFab_keeps

theorem arrive_keeps {r a0 a1 a2 a3} (h0 : Keeps r a0) (kfab : Lets r .fab := by trivial) : Keeps r (arrive a0 a1 a2 a3) := by
  unfold arrive; try dsimp only
  repeat' first | with_reducible assumption | with_reducible apply send_keeps | with_reducible apply modFab_keeps | split

theorem forkDeliver_keeps {r a0 a1} (h0 : Keeps r a0) (kfab : Lets r .fab := by trivial) (kinteg : Lets r .integ := by trivial) (kobs : Lets r .obs := by trivial) (kvs : Lets r .vs := by trivial) : Keeps r (forkDeliver a0 a1) := by
  unfold forkDeliver; try dsimp only
  repeat' first | with_reducible assumption | (intro _) | with_reducible apply takeFlight_keeps | with_reducible apply modVs_keeps | with_reducible apply reportPkt_keeps | with_reducible apply routerCount_keeps | with_reducible apply countForward_keeps | with_reducible apply arrive_keeps | with_reducible apply modFab_keeps | with_reducible apply keeps_ite | with_reducible apply keeps_foldl | split

theorem stampTime_keeps {r a0 a1 a2} (h0 : Keeps r a0) (ktime : Lets r .time := by trivial) : Keeps r (stampTime a0 a1 a2).1 := by
  unfold stampTime; try dsimp only
  repeat' first | with_reducible assumption | with_reducible apply modTime_keeps | with_reducible apply keepsQ_ite | with_reducible apply keeps_ite

theorem forwardOut_keeps {r a0 a1 a2} (h0 : Keeps r a0) (kfab : Lets r .fab := by trivial) (kobs : Lets r .obs := by trivial) (ktime : Lets r .time := by trivial) : Keeps r (forwardOut a0 a1 a2) := by
  unfold forwardOut; try dsimp only
  repeat' first | with_reducible assumption | with_reducible apply arrive_keeps | with_reducible apply noteGrant_keeps | with_reducible apply countForward_keeps | with_reducible apply takeFlight_keeps | with_reducible apply routerCount_keeps | with_reducible apply stampTime_keeps | with_reducible apply modFab_keeps | with_reducible apply keeps_ite | split

theorem execRouterForward_keeps {r a0 a1 a2 a3 a4} (h4 : Keeps r a4) (kep : Lets r .ep := by trivial) (kfab : Lets r .fab := by trivial) (kinteg : Lets r .integ := by trivial) (kobs : Lets r .obs := by trivial) (ktime : Lets r .time := by trivial) (kvs : Lets r .vs := by trivial) : KeepsO r (execRouterForward a0 a1 a2 a3 a4) := by
  unfold execRouterForward; try dsimp only
  repeat' first | with_reducible assumption | exact fun (_ : Port) hp => hp | exact fun (_ : PortState) hp => hp | exact fun (_ : SecState) => fuses_same rfl rfl | (intro _) | with_reducible apply modInteg_keeps | with_reducible apply report_keeps | with_reducible apply failLink_keeps | with_reducible apply modFab_keeps | with_reducible apply takeFlight_keeps | with_reducible apply reportPkt_keeps | with_reducible apply forkDeliver_keeps | with_reducible apply forwardOut_keeps | with_reducible apply keeps_next | with_reducible exact keeps_refused | with_reducible apply keeps_id | with_reducible apply keeps_some | with_reducible exact keeps_none | with_reducible apply keepsO_ite | with_reducible apply keeps_ite | with_reducible apply keepsM_ite | with_reducible apply keepsP_ite | with_reducible apply keepsQ_ite | with_reducible apply keeps_foldl | with_reducible apply keeps_foldlP | with_reducible apply keeps_foldlQ | exact fun _ hp => hp | exact fun _ => fuses_same rfl rfl | with_reducible exact fuses_same rfl rfl | split | with_reducible exact keeps_of_snd ‹_› ‹_› | with_reducible exact keeps_of_fst ‹_› ‹_› | with_reducible refine keeps_of_snd ‹_› ?_ | with_reducible refine keeps_of_fst ‹_› ?_ | with_reducible refine keeps_of_trd ‹_› ?_ | with_reducible refine keeps_of_some ‹_› ?_ | with_reducible refine keeps_of_wref ‹_› ?_ | with_reducible refine keeps_of_wok ‹_› ?_ | with_reducible refine keeps_of_fwait ‹_› ?_ | with_reducible refine keeps_of_fbad ‹_› ?_

end Sys2Proof.Machine
end

