-- ==== Sys2Proof/Laws/KeepReceive.lean ====
section
/-!
SUPPORT. Laws/KeepReceive.lean: what the operations of Machine/Receive.lean keep (Laws/Keep.lean).
-/
namespace Sys2Proof.Machine

theorem modRx_keeps {r a0 a1 a2 a3} (h0 : Keeps r a0) (kfab : Lets r .fab := by trivial) : Keeps r (modRx a0 a1 a2 a3) := by
  unfold modRx; try dsimp only
  repeat' first | with_reducible assumption | with_reducible apply modFab_keeps

theorem pushAck_keeps {r a0 a1 a2} (h0 : Keeps r a0) (kfab : Lets r .fab := by trivial) : Keeps r (pushAck a0 a1 a2) := by
  unfold pushAck; try dsimp only
  repeat' first | with_reducible assumption | with_reducible apply modFab_keeps

theorem sendNack_keeps {r a0 a1 a2 a3} (h0 : Keeps r a0) (kfab : Lets r .fab := by trivial) : Keeps r (sendNack a0 a1 a2 a3) := by
  unfold sendNack; try dsimp only
  repeat' first | with_reducible assumption | with_reducible apply send_keeps

theorem breakStream_keeps {r a0 a1 a2 a3 a4 a5} (h0 : Keeps r a0) (kfab : Lets r .fab := by trivial) (kinteg : Lets r .integ := by trivial) (kobs : Lets r .obs := by trivial) : Keeps r (breakStream a0 a1 a2 a3 a4 a5) := by
  unfold breakStream; try dsimp only
  repeat' first | with_reducible assumption | with_reducible apply modRx_keeps | with_reducible apply modFab_keeps | with_reducible apply streamError_keeps | with_reducible apply event_keeps | with_reducible apply reportPkt_keeps

theorem rxAccept_keeps {r a0 a1 a2 a3} (h0 : Keeps r a0) (kfab : Lets r .fab := by trivial) : Keeps r (rxAccept a0 a1 a2 a3) := by
  unfold rxAccept; try dsimp only
  repeat' first | with_reducible assumption | with_reducible apply modRx_keeps

theorem rxPerformed_keeps {r a0 a1 a2 a3 a4 a5} (h0 : Keeps r a0) (kfab : Lets r .fab := by trivial) : Keeps r (rxPerformed a0 a1 a2 a3 a4 a5) := by
  unfold rxPerformed; try dsimp only
  repeat' first | with_reducible assumption | with_reducible apply modFab_keeps

theorem rxOpen_keeps {r a0 a1 a2} (h0 : Keeps r a0) (kfab : Lets r .fab := by trivial) : KeepsM r (rxOpen a0 a1 a2) := by
  unfold rxOpen; try dsimp only
  repeat' first | with_reducible assumption | with_reducible apply modRx_keeps | with_reducible apply modFab_keeps | with_reducible apply keeps_some | with_reducible exact keeps_none | with_reducible apply keepsM_ite

theorem rxHandle_keeps {r a0 a1 a2 a3} {a4 : State → State} {a5 : State → State} (h0 : Keeps r a0) (h4 : ∀ y0, Keeps r y0 → Keeps r (a4 y0)) (h5 : ∀ y0, Keeps r y0 → Keeps r (a5 y0)) (kfab : Lets r .fab := by trivial) (kinteg : Lets r .integ := by trivial) (kobs : Lets r .obs := by trivial) : Keeps r (rxHandle a0 a1 a2 a3 a4 a5) := by
  unfold rxHandle; try dsimp only
  repeat' first | with_reducible assumption | with_reducible apply h4 | with_reducible apply h5 | with_reducible apply rxOpen_keeps | with_reducible apply sendNack_keeps | with_reducible apply streamStat_keeps | with_reducible apply streamError_keeps | with_reducible apply rxAccept_keeps | with_reducible apply breakStream_keeps | with_reducible apply keeps_some | with_reducible apply keeps_ite | with_reducible apply keepsM_ite | split | with_reducible refine keeps_of_some ‹_› ?_

theorem rxArrive_keeps {r a0 a1 a2} {a3 : State → State} (h0 : Keeps r a0) (h3 : ∀ y0, Keeps r y0 → Keeps r (a3 y0)) (kfab : Lets r .fab := by trivial) (kinteg : Lets r .integ := by trivial) (kobs : Lets r .obs := by trivial) : Keeps r (rxArrive a0 a1 a2 a3) := by
  unfold rxArrive; try dsimp only
  repeat' first | with_reducible assumption | (intro _) | with_reducible apply rxHandle_keeps | with_reducible apply keeps_id

theorem response_keeps {r a0 a1 a2 a3 a4 a5 a6} (h0 : Keeps r a0) (kfab : Lets r .fab := by trivial) : Keeps r (response a0 a1 a2 a3 a4 a5 a6) := by
  unfold response; try dsimp only
  repeat' first | with_reducible assumption | with_reducible apply send_keeps

theorem refuse_keeps {r a0 a1 a2 a3 a4 a5 a6} (h0 : Keeps r a0) (kfab : Lets r .fab := by trivial) (kinteg : Lets r .integ := by trivial) (kobs : Lets r .obs := by trivial) : Keeps r (refuse a0 a1 a2 a3 a4 a5 a6) := by
  unfold refuse; try dsimp only
  repeat' first | with_reducible assumption | with_reducible apply modRx_keeps | with_reducible apply pushAck_keeps | with_reducible apply streamError_keeps | with_reducible apply event_keeps | with_reducible apply reportPkt_keeps | with_reducible apply response_keeps

theorem refuseTable_keeps {r a0 a1 a2 a3} (h0 : Keeps r a0) (kfab : Lets r .fab := by trivial) (kinteg : Lets r .integ := by trivial) (kobs : Lets r .obs := by trivial) : Keeps r (refuseTable a0 a1 a2 a3) := by
  unfold refuseTable; try dsimp only
  repeat' first | with_reducible assumption | with_reducible apply refuse_keeps | with_reducible apply reportPkt_keeps

theorem windowRefuse_keeps {r a0 a1 a2 a3} (h0 : Keeps r a0) (kfab : Lets r .fab := by trivial) (kinteg : Lets r .integ := by trivial) (kobs : Lets r .obs := by trivial) (kvs : Lets r .vs := by trivial) : Keeps r (windowRefuse a0 a1 a2 a3) := by
  unfold windowRefuse; try dsimp only
  repeat' first | with_reducible assumption | with_reducible apply modVs_keeps | with_reducible apply refuse_keeps

theorem ueReport_keeps {r a0 a1 a2} (h0 : Keeps r a0) (kinteg : Lets r .integ := by trivial) (kobs : Lets r .obs := by trivial) : Keeps r (ueReport a0 a1 a2) := by
  unfold ueReport; try dsimp only
  repeat' first | with_reducible assumption | with_reducible apply modInteg_keeps | with_reducible apply report_keeps | split

theorem performWrite_keeps {r a0 a1 a2} (h0 : Keeps r a0) (kfab : Lets r .fab := by trivial) (kinteg : Lets r .integ := by trivial) (kmem : Lets r .mem := by trivial) (kobs : Lets r .obs := by trivial) (kout : Lets r .out := by trivial) (kvs : Lets r .vs := by trivial) : Keeps r (performWrite a0 a1 a2) := by
  unfold performWrite; try dsimp only
  repeat' first | with_reducible assumption | with_reducible apply windowRefuse_keeps | with_reducible apply refuseTable_keeps | with_reducible apply emitOut_keeps | with_reducible apply refuse_keeps | with_reducible apply cleanRange_keeps | with_reducible apply writeMem_keeps | with_reducible apply keeps_ite | split

theorem performRead_keeps {r a0 a1 a2} (h0 : Keeps r a0) (kfab : Lets r .fab := by trivial) (kinteg : Lets r .integ := by trivial) (kobs : Lets r .obs := by trivial) (kout : Lets r .out := by trivial) (kport : Lets r .port := by trivial) (kvs : Lets r .vs := by trivial) : Keeps r (performRead a0 a1 a2) := by
  unfold performRead; try dsimp only
  repeat' first | with_reducible assumption | exact fun (_ : Port) hp => hp | with_reducible apply rxPerformed_keeps | with_reducible apply windowRefuse_keeps | with_reducible apply refuseTable_keeps | with_reducible apply response_keeps | with_reducible apply modPortOf_keeps | with_reducible apply emitOut_keeps | with_reducible apply refuse_keeps | with_reducible apply ueReport_keeps | with_reducible apply keeps_ite | split

theorem spoilWrite_keeps {r a0 a1 a2} (h0 : Keeps r a0) (kfree : Lets r .free := by trivial) (kmem : Lets r .mem := by trivial) : Keeps r (spoilWrite a0 a1 a2) := by
  unfold spoilWrite; try dsimp only
  repeat' first | with_reducible assumption | with_reducible apply drawBytes_keeps | with_reducible apply writeMem_keeps | with_reducible apply keeps_ite | split

theorem execWrite_keeps {r a0 a1 a2} (h2 : Keeps r a2) (kfab : Lets r .fab := by trivial) (kfree : Lets r .free := by trivial) (kinteg : Lets r .integ := by trivial) (kmem : Lets r .mem := by trivial) (kobs : Lets r .obs := by trivial) (kout : Lets r .out := by trivial) (kvs : Lets r .vs := by trivial) : KeepsO r (execWrite a0 a1 a2) := by
  unfold execWrite; try dsimp only
  repeat' first | with_reducible assumption | (intro _) | with_reducible apply onArrival_keeps | with_reducible apply rxHandle_keeps | with_reducible apply performWrite_keeps | with_reducible apply spoilWrite_keeps

theorem execRead_keeps {r a0 a1 a2} (h2 : Keeps r a2) (kfab : Lets r .fab := by trivial) (kinteg : Lets r .integ := by trivial) (kobs : Lets r .obs := by trivial) (kout : Lets r .out := by trivial) (kport : Lets r .port := by trivial) (kvs : Lets r .vs := by trivial) : KeepsO r (execRead a0 a1 a2) := by
  unfold execRead; try dsimp only
  repeat' first | with_reducible assumption | (intro _) | with_reducible apply onArrival_keeps | with_reducible apply rxHandle_keeps | with_reducible apply performRead_keeps | with_reducible apply keeps_id

theorem execEndpointMsg_keeps {r a0 a1 a2} (h2 : Keeps r a2) (kfab : Lets r .fab := by trivial) (kinteg : Lets r .integ := by trivial) (kobs : Lets r .obs := by trivial) : KeepsO r (execEndpointMsg a0 a1 a2) := by
  unfold execEndpointMsg; try dsimp only
  repeat' first | with_reducible assumption | (intro _) | with_reducible apply onArrival_keeps | with_reducible apply rxArrive_keeps | with_reducible apply response_keeps | with_reducible apply keeps_next | with_reducible apply keepsO_ite

theorem execAckSend_keeps {r a0 a1} (h1 : Keeps r a1) (kfab : Lets r .fab := by trivial) : KeepsO r (execAckSend a0 a1) := by
  unfold execAckSend; try dsimp only
  repeat' first | with_reducible assumption | with_reducible apply modFab_keeps | with_reducible apply send_keeps | with_reducible apply keeps_next | with_reducible apply keepsO_ite | split

theorem takeExpect_keeps {r a0 a1 a2 a3} (h0 : Keeps r a0) (kfab : Lets r .fab := by trivial) : Keeps r (takeExpect a0 a1 a2 a3).1 := by
  unfold takeExpect; try dsimp only
  repeat' first | with_reducible assumption | with_reducible apply modFab_keeps | split

theorem delivered_keeps {r a0 a1 a2 a3} (h0 : Keeps r a0) (kobs : Lets r .obs := by trivial) : Keeps r (delivered a0 a1 a2 a3) := by
  unfold delivered; try dsimp only
  repeat' first | with_reducible assumption | with_reducible apply injectCount_keeps | with_reducible apply latencyDone_keeps

theorem readReturned_keeps {r a0 a1 a2} (h0 : Keeps r a0) (kvs : Lets r .vs := by trivial) : Keeps r (readReturned a0 a1 a2) := by
  unfold readReturned; try dsimp only
  repeat' first | with_reducible assumption | with_reducible apply putFibre_keeps | with_reducible apply modSeq_keeps | with_reducible apply keeps_ite | split

theorem responseFailed_keeps {r a0 a1 a2 a3} (h0 : Keeps r a0) (kfab : Lets r .fab := by trivial) (kinteg : Lets r .integ := by trivial) (kobs : Lets r .obs := by trivial) (kport : Lets r .port := by trivial) (kvs : Lets r .vs := by trivial) : Keeps r (responseFailed a0 a1 a2 a3) := by
  unfold responseFailed; try dsimp only
  repeat' first | with_reducible assumption | with_reducible apply takeExpect_keeps | with_reducible apply latencyDrop_keeps | with_reducible apply failAccess_keeps | split

theorem execReadData_keeps {r a0 a1 a2} (h2 : Keeps r a2) (kfab : Lets r .fab := by trivial) (kinteg : Lets r .integ := by trivial) (kobs : Lets r .obs := by trivial) (kport : Lets r .port := by trivial) (kvs : Lets r .vs := by trivial) : KeepsO r (execReadData a0 a1 a2) := by
  unfold execReadData; try dsimp only
  repeat' first | with_reducible assumption | (intro _) | with_reducible apply onArrival_keeps | with_reducible apply rxHandle_keeps | with_reducible apply takeExpect_keeps | with_reducible apply readReturned_keeps | with_reducible apply delivered_keeps | with_reducible apply responseFailed_keeps | split

theorem execEndpointRsp_keeps {r a0 a1 a2} (h2 : Keeps r a2) (kfab : Lets r .fab := by trivial) (kinteg : Lets r .integ := by trivial) (kobs : Lets r .obs := by trivial) (kport : Lets r .port := by trivial) (kvs : Lets r .vs := by trivial) : KeepsO r (execEndpointRsp a0 a1 a2) := by
  unfold execEndpointRsp; try dsimp only
  repeat' first | with_reducible assumption | (intro _) | with_reducible apply onArrival_keeps | with_reducible apply rxHandle_keeps | with_reducible apply takeExpect_keeps | with_reducible apply delivered_keeps | with_reducible apply responseFailed_keeps | split

theorem takeRefusal_keeps {r a0 a1 a2} (h0 : Keeps r a0) (kfab : Lets r .fab := by trivial) (kinteg : Lets r .integ := by trivial) (kobs : Lets r .obs := by trivial) (kport : Lets r .port := by trivial) (kvs : Lets r .vs := by trivial) : Keeps r (takeRefusal a0 a1 a2) := by
  unfold takeRefusal; try dsimp only
  repeat' first | with_reducible assumption | with_reducible apply putTracker_keeps | with_reducible apply latencyDrop_keeps | with_reducible apply modFab_keeps | with_reducible apply settleAll_keeps | with_reducible apply failAccess_keeps | split

theorem execRefusal_keeps {r a0 a1 a2} (h2 : Keeps r a2) (kfab : Lets r .fab := by trivial) (kinteg : Lets r .integ := by trivial) (kobs : Lets r .obs := by trivial) (kport : Lets r .port := by trivial) (kvs : Lets r .vs := by trivial) : KeepsO r (execRefusal a0 a1 a2) := by
  unfold execRefusal; try dsimp only
  repeat' first | with_reducible assumption | (intro _) | with_reducible apply onArrival_keeps | with_reducible apply rxArrive_keeps | with_reducible apply takeRefusal_keeps

theorem execNackRxFull_keeps {r a0 a1 a2} (h2 : Keeps r a2) (kfab : Lets r .fab := by trivial) : KeepsO r (execNackRxFull a0 a1 a2) := by
  unfold execNackRxFull; try dsimp only
  repeat' first | with_reducible assumption | (intro _) | with_reducible apply onArrival_keeps | with_reducible apply putTracker_keeps | with_reducible apply keeps_ite

theorem execOpenRetry_keeps {r a0 a1 a2} (h2 : Keeps r a2) (kfab : Lets r .fab := by trivial) (know : Lets r .now := by trivial) : KeepsO r (execOpenRetry a0 a1 a2) := by
  unfold execOpenRetry; try dsimp only
  repeat' first | with_reducible assumption | with_reducible apply timeReaches_keeps | with_reducible apply putTracker_keeps | with_reducible apply enterNet_keeps | with_reducible apply streamStat_keeps | with_reducible apply keeps_next | split

theorem execNackNotOpen_keeps {r a0 a1 a2} (h2 : Keeps r a2) (kfab : Lets r .fab := by trivial) (kinteg : Lets r .integ := by trivial) (kobs : Lets r .obs := by trivial) (kport : Lets r .port := by trivial) (kvs : Lets r .vs := by trivial) : KeepsO r (execNackNotOpen a0 a1 a2) := by
  unfold execNackNotOpen; try dsimp only
  repeat' first | with_reducible assumption | (intro _) | with_reducible apply onArrival_keeps | with_reducible apply settleAll_keeps | with_reducible apply endStream_keeps | with_reducible apply reportPkt_keeps | with_reducible apply keeps_ite | split

theorem execStreamAckTimeout_keeps {r a0 a1 a2} (h2 : Keeps r a2) (kfab : Lets r .fab := by trivial) (kinteg : Lets r .integ := by trivial) (know : Lets r .now := by trivial) (kobs : Lets r .obs := by trivial) (kport : Lets r .port := by trivial) (kvs : Lets r .vs := by trivial) : KeepsO r (execStreamAckTimeout a0 a1 a2) := by
  unfold execStreamAckTimeout; try dsimp only
  repeat' first | with_reducible assumption | with_reducible apply timeReaches_keeps | with_reducible apply settleAll_keeps | with_reducible apply endStream_keeps | with_reducible apply reportPkt_keeps | with_reducible apply streamError_keeps | with_reducible apply keeps_next | split

theorem execStreamIdleClose_keeps {r a0 a1 a2} (h2 : Keeps r a2) (kfab : Lets r .fab := by trivial) (know : Lets r .now := by trivial) : KeepsO r (execStreamIdleClose a0 a1 a2) := by
  unfold execStreamIdleClose; try dsimp only
  repeat' first | with_reducible assumption | with_reducible apply closeStream_keeps | with_reducible apply timeReaches_keeps | with_reducible apply keeps_next | with_reducible apply keepsO_ite

theorem execClose_keeps {r a0 a1 a2} (h2 : Keeps r a2) (kfab : Lets r .fab := by trivial) : KeepsO r (execClose a0 a1 a2) := by
  unfold execClose; try dsimp only
  repeat' first | with_reducible assumption | (intro _) | with_reducible apply onArrival_keeps | with_reducible apply modFab_keeps

end Sys2Proof.Machine
end

