-- ==== Sys2Proof/Laws/KeepPortBase.lean ====
section
/-!
SUPPORT. Laws/KeepPortBase.lean: what the operations of Machine/PortBase.lean keep (Laws/Keep.lean).
-/
namespace Sys2Proof.Machine

theorem modLedger_keeps {r a0 a1 a2} (h0 : Keeps r a0) (kled : Lets r .led := by trivial) : Keeps r (modLedger a0 a1 a2) := by
  unfold modLedger; try dsimp only
  repeat' first | with_reducible assumption | with_reducible apply modLed_keeps

theorem msixSend_keeps {r a0 a1 a2} (h0 : Keeps r a0) (kout : Lets r .out := by trivial) (kport : Lets r .port := by trivial) : Keeps r (msixSend a0 a1 a2) := by
  unfold msixSend; try dsimp only
  repeat' first | with_reducible assumption | exact fun (_ : Port) hp => hp | with_reducible apply modPortOf_keeps | with_reducible apply emitOut_keeps | with_reducible apply keeps_ite

theorem portEvent_keeps {r a0 a1 a2} (h0 : Keeps r a0) (kout : Lets r .out := by trivial) (kport : Lets r .port := by trivial) : Keeps r (portEvent a0 a1 a2) := by
  unfold portEvent; try dsimp only
  repeat' first | with_reducible assumption | exact fun (_ : Port) hp => hp | with_reducible apply modPortOf_keeps | with_reducible apply msixSend_keeps | with_reducible apply keeps_ite

theorem deviceNote_keeps {r a0 a1} (h0 : Keeps r a0) (h1 : Keeps r a1) (kout : Lets r .out := by trivial) (kport : Lets r .port := by trivial) (kpow : Lets r .pow := by trivial) : Keeps r (deviceNote a0 a1) := by
  unfold deviceNote; try dsimp only
  repeat' first | with_reducible assumption | (intro _) | with_reducible apply modPow_keeps | with_reducible apply portEvent_keeps | with_reducible apply keeps_ite | with_reducible apply keeps_foldl

theorem withDevice_keeps {r a1} {a0 : State → State} (h0 : ∀ y0, Keeps r y0 → Keeps r (a0 y0)) (h1 : Keeps r a1) (kout : Lets r .out := by trivial) (kport : Lets r .port := by trivial) (kpow : Lets r .pow := by trivial) : Keeps r (withDevice a0 a1) := by
  unfold withDevice; try dsimp only
  repeat' first | with_reducible assumption | with_reducible apply h0 | with_reducible apply deviceNote_keeps

theorem partitionNote_keeps {r a0 a1} (h0 : Keeps r a0) (kout : Lets r .out := by trivial) (kport : Lets r .port := by trivial) : Keeps r (partitionNote a0 a1) := by
  unfold partitionNote; try dsimp only
  repeat' first | with_reducible assumption | (intro _) | with_reducible apply portEvent_keeps | with_reducible apply keeps_ite | with_reducible apply keeps_foldl

theorem failPartition_keeps {r a0 a1 a2} (h0 : Keeps r a0) (kinteg : Lets r .integ := by trivial) (kout : Lets r .out := by trivial) (kport : Lets r .port := by trivial) : Keeps r (failPartition a0 a1 a2) := by
  unfold failPartition; try dsimp only
  repeat' first | with_reducible assumption | with_reducible apply partitionNote_keeps | with_reducible apply modInteg_keeps | with_reducible apply keeps_ite

theorem portFault_keeps {r a0 a1 a2} (h0 : Keeps r a0) (kinteg : Lets r .integ := by trivial) : Keeps r (portFault a0 a1 a2) := by
  unfold portFault; try dsimp only
  repeat' first | with_reducible assumption | with_reducible apply modInteg_keeps

theorem aerNote_keeps {r a0 a1 a2 a3} (h0 : Keeps r a0) (kout : Lets r .out := by trivial) (kport : Lets r .port := by trivial) : Keeps r (aerNote a0 a1 a2 a3) := by
  unfold aerNote; try dsimp only
  repeat' first | with_reducible assumption | exact fun (_ : Port) hp => hp | exact fun (_ : PortState) hp => hp | exact fun (_ : SecState) => fuses_same rfl rfl | (intro _) | with_reducible apply emitOut_keeps | with_reducible apply modPort_keeps | with_reducible apply keeps_id | with_reducible apply keeps_some | with_reducible exact keeps_none | with_reducible apply keeps_ite | with_reducible apply keepsM_ite | with_reducible apply keepsP_ite | with_reducible apply keepsQ_ite | with_reducible apply keeps_foldl | with_reducible apply keeps_foldlP | with_reducible apply keeps_foldlQ | exact fun _ hp => hp | exact fun _ => fuses_same rfl rfl | with_reducible exact fuses_same rfl rfl | split | with_reducible exact keeps_of_snd ‹_› ‹_› | with_reducible exact keeps_of_fst ‹_› ‹_› | with_reducible refine keeps_of_snd ‹_› ?_ | with_reducible refine keeps_of_fst ‹_› ?_ | with_reducible refine keeps_of_trd ‹_› ?_ | with_reducible refine keeps_of_some ‹_› ?_ | with_reducible refine keeps_of_wref ‹_› ?_ | with_reducible refine keeps_of_wok ‹_› ?_ | with_reducible refine keeps_of_fwait ‹_› ?_ | with_reducible refine keeps_of_fbad ‹_› ?_

theorem tlpFault_keeps {r a0 a1 a2 a3 a4} (h0 : Keeps r a0) (kinteg : Lets r .integ := by trivial) (kobs : Lets r .obs := by trivial) (kout : Lets r .out := by trivial) (kport : Lets r .port := by trivial) : Keeps r (tlpFault a0 a1 a2 a3 a4) := by
  unfold tlpFault; try dsimp only
  repeat' first | with_reducible assumption | exact fun (_ : Port) hp => hp | exact fun (_ : PortState) hp => hp | exact fun (_ : SecState) => fuses_same rfl rfl | (intro _) | with_reducible apply report_keeps | with_reducible apply aerNote_keeps | with_reducible apply portFault_keeps | with_reducible apply keeps_id | with_reducible apply keeps_some | with_reducible exact keeps_none | with_reducible apply keeps_ite | with_reducible apply keepsM_ite | with_reducible apply keepsP_ite | with_reducible apply keepsQ_ite | with_reducible apply keeps_foldl | with_reducible apply keeps_foldlP | with_reducible apply keeps_foldlQ | exact fun _ hp => hp | exact fun _ => fuses_same rfl rfl | with_reducible exact fuses_same rfl rfl | split | with_reducible exact keeps_of_snd ‹_› ‹_› | with_reducible exact keeps_of_fst ‹_› ‹_› | with_reducible refine keeps_of_snd ‹_› ?_ | with_reducible refine keeps_of_fst ‹_› ?_ | with_reducible refine keeps_of_trd ‹_› ?_ | with_reducible refine keeps_of_some ‹_› ?_ | with_reducible refine keeps_of_wref ‹_› ?_ | with_reducible refine keeps_of_wok ‹_› ?_ | with_reducible refine keeps_of_fwait ‹_› ?_ | with_reducible refine keeps_of_fbad ‹_› ?_

end Sys2Proof.Machine
end

