-- ==== Sys2Proof/Laws/KeepSync.lean ====
section
/-!
SUPPORT. Laws/KeepSync.lean: what the operations of Machine/Sync.lean keep (Laws/Keep.lean).
-/
namespace Sys2Proof.Machine

theorem sendSyncRsp_keeps {r a0 a1 a2 a3} (h0 : Keeps r a0) (kfab : Lets r .fab := by trivial) : Keeps r (sendSyncRsp a0 a1 a2 a3) := by
  unfold sendSyncRsp; try dsimp only
  repeat' first | with_reducible assumption | with_reducible apply send_keeps

theorem releaseWaiters_keeps {r a0 a1} (h0 : Keeps r a0) (kfab : Lets r .fab := by trivial) (kvs : Lets r .vs := by trivial) : Keeps r (releaseWaiters a0 a1) := by
  unfold releaseWaiters; try dsimp only
  repeat' first | with_reducible assumption | (intro _) | with_reducible apply modCell_keeps | with_reducible apply sendSyncRsp_keeps | with_reducible apply keeps_foldl

theorem sendNotifies_keeps {r a0 a1} (h0 : Keeps r a0) (kfab : Lets r .fab := by trivial) (kvs : Lets r .vs := by trivial) : Keeps r (sendNotifies a0 a1) := by
  unfold sendNotifies; try dsimp only
  repeat' first | with_reducible assumption | (intro _) | with_reducible apply send_keeps | with_reducible apply modCell_keeps | with_reducible apply modVs_keeps | with_reducible apply keeps_ite | with_reducible apply keeps_foldl

theorem performSync_keeps {r a0 a1 a2 a3} (h0 : Keeps r a0) (kfab : Lets r .fab := by trivial) (kobs : Lets r .obs := by trivial) (kvs : Lets r .vs := by trivial) : Keeps r (performSync a0 a1 a2 a3) := by
  unfold performSync; try dsimp only
  repeat' first | with_reducible assumption | with_reducible apply modCell_keeps | with_reducible apply sendSyncRsp_keeps | with_reducible apply event_keeps | with_reducible apply releaseWaiters_keeps | with_reducible apply sendNotifies_keeps | with_reducible apply keeps_ite | split

theorem syncArrive_keeps {r a0 a1 a2} (h0 : Keeps r a0) (kfab : Lets r .fab := by trivial) (kinteg : Lets r .integ := by trivial) (kobs : Lets r .obs := by trivial) (kvs : Lets r .vs := by trivial) : Keeps r (syncArrive a0 a1 a2) := by
  unfold syncArrive; try dsimp only
  repeat' first | with_reducible assumption | (intro _) | with_reducible apply rxArrive_keeps | with_reducible apply refuseTable_keeps | with_reducible apply windowRefuse_keeps | with_reducible apply performSync_keeps | with_reducible apply keeps_ite | split

theorem syncCommand_keeps {r a0 a1 a2 a3} (h3 : Keeps r a3) (kfab : Lets r .fab := by trivial) (kinteg : Lets r .integ := by trivial) (kobs : Lets r .obs := by trivial) (kvs : Lets r .vs := by trivial) : KeepsO r (syncCommand a0 a1 a2 a3) := by
  unfold syncCommand; try dsimp only
  repeat' first | with_reducible assumption | (intro _) | with_reducible apply onArrival_keeps | with_reducible apply syncArrive_keeps | with_reducible apply keeps_next | with_reducible apply keepsO_ite

theorem execSyncRead_keeps {r a0 a1 a2} (h2 : Keeps r a2) (kfab : Lets r .fab := by trivial) (kinteg : Lets r .integ := by trivial) (kobs : Lets r .obs := by trivial) (kvs : Lets r .vs := by trivial) : KeepsO r (execSyncRead a0 a1 a2) := by
  unfold execSyncRead; try dsimp only
  repeat' first | with_reducible assumption | with_reducible apply syncCommand_keeps

theorem execSyncAdd_keeps {r a0 a1 a2} (h2 : Keeps r a2) (kfab : Lets r .fab := by trivial) (kinteg : Lets r .integ := by trivial) (kobs : Lets r .obs := by trivial) (kvs : Lets r .vs := by trivial) : KeepsO r (execSyncAdd a0 a1 a2) := by
  unfold execSyncAdd; try dsimp only
  repeat' first | with_reducible assumption | with_reducible apply syncCommand_keeps

theorem execSyncSet_keeps {r a0 a1 a2} (h2 : Keeps r a2) (kfab : Lets r .fab := by trivial) (kinteg : Lets r .integ := by trivial) (kobs : Lets r .obs := by trivial) (kvs : Lets r .vs := by trivial) : KeepsO r (execSyncSet a0 a1 a2) := by
  unfold execSyncSet; try dsimp only
  repeat' first | with_reducible assumption | with_reducible apply syncCommand_keeps

theorem execSyncWait_keeps {r a0 a1 a2} (h2 : Keeps r a2) (kfab : Lets r .fab := by trivial) (kinteg : Lets r .integ := by trivial) (kobs : Lets r .obs := by trivial) (kvs : Lets r .vs := by trivial) : KeepsO r (execSyncWait a0 a1 a2) := by
  unfold execSyncWait; try dsimp only
  repeat' first | with_reducible assumption | with_reducible apply syncCommand_keeps

theorem execSyncArriveWait_keeps {r a0 a1 a2} (h2 : Keeps r a2) (kfab : Lets r .fab := by trivial) (kinteg : Lets r .integ := by trivial) (kobs : Lets r .obs := by trivial) (kvs : Lets r .vs := by trivial) : KeepsO r (execSyncArriveWait a0 a1 a2) := by
  unfold execSyncArriveWait; try dsimp only
  repeat' first | with_reducible assumption | with_reducible apply syncCommand_keeps

theorem execSyncConfigure_keeps {r a0 a1 a2} (h2 : Keeps r a2) (kfab : Lets r .fab := by trivial) (kinteg : Lets r .integ := by trivial) (kobs : Lets r .obs := by trivial) (kvs : Lets r .vs := by trivial) : KeepsO r (execSyncConfigure a0 a1 a2) := by
  unfold execSyncConfigure; try dsimp only
  repeat' first | with_reducible assumption | with_reducible apply syncCommand_keeps

theorem completeSync_keeps {r a0 a1 a2 a3 a4} (h0 : Keeps r a0) (kfab : Lets r .fab := by trivial) (kinteg : Lets r .integ := by trivial) (kobs : Lets r .obs := by trivial) (kport : Lets r .port := by trivial) (kvs : Lets r .vs := by trivial) : Keeps r (completeSync a0 a1 a2 a3 a4) := by
  unfold completeSync; try dsimp only
  repeat' first | with_reducible assumption | with_reducible apply finishOp_keeps | with_reducible apply putFibre_keeps | with_reducible apply waitEvent_keeps | with_reducible apply seqNext_keeps | split

theorem parkedAnswer_keeps {r a0 a1 a2 a3 a4 a5} (h0 : Keeps r a0) (kfab : Lets r .fab := by trivial) (kinteg : Lets r .integ := by trivial) (kobs : Lets r .obs := by trivial) (kport : Lets r .port := by trivial) (kvs : Lets r .vs := by trivial) : Keeps r (parkedAnswer a0 a1 a2 a3 a4 a5) := by
  unfold parkedAnswer; try dsimp only
  repeat' first | with_reducible assumption | with_reducible apply modVat_keeps | with_reducible apply unparkIfDone_keeps | with_reducible apply completeSync_keeps | with_reducible apply keeps_ite | split

theorem execNotify_keeps {r a0 a1 a2} (h2 : Keeps r a2) (kfab : Lets r .fab := by trivial) (kinteg : Lets r .integ := by trivial) (kobs : Lets r .obs := by trivial) (kport : Lets r .port := by trivial) (kvs : Lets r .vs := by trivial) : KeepsO r (execNotify a0 a1 a2) := by
  unfold execNotify; try dsimp only
  repeat' first | with_reducible assumption | (intro _) | with_reducible apply onArrival_keeps | with_reducible apply modVat_keeps | with_reducible apply completeSync_keeps | with_reducible apply unparkIfDone_keeps | with_reducible apply keeps_ite | with_reducible apply keeps_foldl | split

theorem execUnpark_keeps {r a0 a1 a2} (h2 : Keeps r a2) (kfab : Lets r .fab := by trivial) (kvs : Lets r .vs := by trivial) : KeepsO r (execUnpark a0 a1 a2) := by
  unfold execUnpark; try dsimp only
  repeat' first | with_reducible assumption | (intro _) | with_reducible apply onArrival_keeps | with_reducible apply modCell_keeps | with_reducible apply keeps_ite | split

theorem execNotifyRepeat_keeps {r a0 a1} (h1 : Keeps r a1) (kfab : Lets r .fab := by trivial) (know : Lets r .now := by trivial) (kvs : Lets r .vs := by trivial) : KeepsO r (execNotifyRepeat a0 a1) := by
  unfold execNotifyRepeat; try dsimp only
  repeat' first | with_reducible assumption | with_reducible apply sendNotifies_keeps | with_reducible apply timeReaches_keeps | with_reducible apply keeps_next | with_reducible apply keepsO_ite

theorem sendSync_keeps {r a0 a1 a2 a3 a4 a5 a6} (h0 : Keeps r a0) (kfab : Lets r .fab := by trivial) : Keeps r (sendSync a0 a1 a2 a3 a4 a5 a6) := by
  unfold sendSync; try dsimp only
  repeat' first | with_reducible assumption | with_reducible apply send_keeps

theorem execWaitResend_keeps {r a0 a1} (h1 : Keeps r a1) (kfab : Lets r .fab := by trivial) (kvs : Lets r .vs := by trivial) : KeepsO r (execWaitResend a0 a1) := by
  unfold execWaitResend; try dsimp only
  repeat' first | with_reducible assumption | with_reducible apply modVat_keeps | with_reducible apply sendSync_keeps | with_reducible apply keeps_next | with_reducible apply keepsO_ite | split

theorem execWaitLimitExpiry_keeps {r a0 a1 a2 a3 a4} (h4 : Keeps r a4) (kfab : Lets r .fab := by trivial) (kinteg : Lets r .integ := by trivial) (know : Lets r .now := by trivial) (kobs : Lets r .obs := by trivial) (kport : Lets r .port := by trivial) (kvs : Lets r .vs := by trivial) : KeepsO r (execWaitLimitExpiry a0 a1 a2 a3 a4) := by
  unfold execWaitLimitExpiry; try dsimp only
  repeat' first | with_reducible assumption | with_reducible apply seqTrap_keeps | with_reducible apply timeReaches_keeps | with_reducible apply fibreFault_keeps | with_reducible apply keeps_next | with_reducible apply keepsO_ite | split

theorem syncAnswer_keeps {r a0 a1 a2 a3} (h0 : Keeps r a0) (kfab : Lets r .fab := by trivial) (kinteg : Lets r .integ := by trivial) (kobs : Lets r .obs := by trivial) (kport : Lets r .port := by trivial) (kvs : Lets r .vs := by trivial) : Keeps r (syncAnswer a0 a1 a2 a3) := by
  unfold syncAnswer; try dsimp only
  repeat' first | with_reducible assumption | with_reducible apply completeSync_keeps | with_reducible apply parkedAnswer_keeps | with_reducible apply fibreFault_keeps | with_reducible apply seqTrap_keeps | with_reducible apply keeps_ite | split

theorem execSyncRsp_keeps {r a0 a1 a2} (h2 : Keeps r a2) (kfab : Lets r .fab := by trivial) (kinteg : Lets r .integ := by trivial) (kobs : Lets r .obs := by trivial) (kport : Lets r .port := by trivial) (kvs : Lets r .vs := by trivial) : KeepsO r (execSyncRsp a0 a1 a2) := by
  unfold execSyncRsp; try dsimp only
  repeat' first | with_reducible assumption | (intro _) | with_reducible apply onArrival_keeps | with_reducible apply rxHandle_keeps | with_reducible apply takeExpect_keeps | with_reducible apply delivered_keeps | with_reducible apply syncAnswer_keeps | with_reducible apply responseFailed_keeps | with_reducible apply keeps_ite | split

theorem execContextDeadline_keeps {r a0 a1 a2} (h2 : Keeps r a2) (kfab : Lets r .fab := by trivial) (know : Lets r .now := by trivial) (kobs : Lets r .obs := by trivial) (kport : Lets r .port := by trivial) : KeepsO r (execContextDeadline a0 a1 a2) := by
  unfold execContextDeadline; try dsimp only
  repeat' first | with_reducible assumption | with_reducible apply enterKilling_keeps | with_reducible apply timeReaches_keeps | with_reducible apply keeps_next | with_reducible apply keepsO_ite

theorem vatKill_keeps {r a0 a1 a2} (h0 : Keeps r a0) (kfab : Lets r .fab := by trivial) (kinteg : Lets r .integ := by trivial) (kobs : Lets r .obs := by trivial) (kport : Lets r .port := by trivial) (kvs : Lets r .vs := by trivial) : Keeps r (vatKill a0 a1 a2) := by
  unfold vatKill; try dsimp only
  repeat' first | with_reducible assumption | (intro _) | with_reducible apply fibreFault_keeps | with_reducible apply modVat_keeps | with_reducible apply modObs_keeps | with_reducible apply keeps_foldl

theorem execKill_keeps {r a0 a1 a2} (h2 : Keeps r a2) (kfab : Lets r .fab := by trivial) (kinteg : Lets r .integ := by trivial) (kobs : Lets r .obs := by trivial) (kport : Lets r .port := by trivial) (kvs : Lets r .vs := by trivial) : KeepsO r (execKill a0 a1 a2) := by
  unfold execKill; try dsimp only
  repeat' first | with_reducible assumption | (intro _) | with_reducible apply onArrival_keeps | with_reducible apply vatKill_keeps | with_reducible apply send_keeps | with_reducible apply keeps_next | with_reducible apply keepsO_ite

theorem freeContext_keeps {r a0 a1 a2} (h0 : Keeps r a0) (kobs : Lets r .obs := by trivial) (kport : Lets r .port := by trivial) : Keeps r (freeContext a0 a1 a2) := by
  unfold freeContext; try dsimp only
  repeat' first | with_reducible assumption | with_reducible apply modCtx_keeps | with_reducible apply event_keeps

theorem killAnswered_keeps {r a0 a1 a2 a3} (h0 : Keeps r a0) (kobs : Lets r .obs := by trivial) (kport : Lets r .port := by trivial) : Keeps r (killAnswered a0 a1 a2 a3) := by
  unfold killAnswered; try dsimp only
  repeat' first | with_reducible assumption | with_reducible apply modCtx_keeps | with_reducible apply freeContext_keeps | with_reducible apply killSettle_keeps | with_reducible apply keeps_ite

theorem execKillDone_keeps {r a0 a1 a2} (h2 : Keeps r a2) (kfab : Lets r .fab := by trivial) (kobs : Lets r .obs := by trivial) (kport : Lets r .port := by trivial) : KeepsO r (execKillDone a0 a1 a2) := by
  unfold execKillDone; try dsimp only
  repeat' first | with_reducible assumption | (intro _) | with_reducible apply onArrival_keeps | with_reducible apply killAnswered_keeps | with_reducible apply keeps_ite

theorem execKillRepeat_keeps {r a0 a1 a2 a3} (h3 : Keeps r a3) (kfab : Lets r .fab := by trivial) (know : Lets r .now := by trivial) (kport : Lets r .port := by trivial) : KeepsO r (execKillRepeat a0 a1 a2 a3) := by
  unfold execKillRepeat; try dsimp only
  repeat' first | with_reducible assumption | with_reducible apply timeReaches_keeps | with_reducible apply modCtx_keeps | with_reducible apply sendKill_keeps | with_reducible apply keeps_next | with_reducible apply keepsO_ite

theorem execKillLost_keeps {r a0 a1 a2 a3} (h3 : Keeps r a3) (kinteg : Lets r .integ := by trivial) (know : Lets r .now := by trivial) (kobs : Lets r .obs := by trivial) (kout : Lets r .out := by trivial) (kport : Lets r .port := by trivial) : KeepsO r (execKillLost a0 a1 a2 a3) := by
  unfold execKillLost; try dsimp only
  repeat' first | with_reducible assumption | with_reducible apply timeReaches_keeps | with_reducible apply failPartition_keeps | with_reducible apply report_keeps | with_reducible apply modCtx_keeps | with_reducible apply killAnswered_keeps | with_reducible apply keeps_next | with_reducible apply keepsO_ite | with_reducible apply keeps_ite

theorem execFibreResident_keeps {r a0 a1 a2 a3} (h3 : Keeps r a3) (kvs : Lets r .vs := by trivial) : KeepsO r (execFibreResident a0 a1 a2 a3) := by
  unfold execFibreResident; try dsimp only
  repeat' first | with_reducible assumption | with_reducible apply modBatch_keeps | with_reducible apply putFibre_keeps | with_reducible apply keeps_next | with_reducible apply keepsO_ite | split

end Sys2Proof.Machine
end

