-- ==== Sys2Proof/Laws/KeepSeq.lean ====
section
/-!
SUPPORT. Laws/KeepSeq.lean: what the operations of Machine/Seq.lean keep (Laws/Keep.lean).
-/
namespace Sys2Proof.Machine

theorem seqStep_keeps {r a0 a1 a3} {a2 : State → _ → State} (h2 : ∀ y0 y1, Keeps r y0 → Keeps r (a2 y0 y1)) (h3 : Keeps r a3) (kfab : Lets r .fab := by trivial) (kinteg : Lets r .integ := by trivial) (kobs : Lets r .obs := by trivial) (kvs : Lets r .vs := by trivial) : KeepsO r (seqStep a0 a1 a2 a3) := by
  unfold seqStep; try dsimp only
  repeat' first | with_reducible assumption | with_reducible apply h2 | with_reducible apply seqTrap_keeps | with_reducible apply report_keeps | with_reducible apply keeps_next | with_reducible apply keepsO_ite

theorem seqWrite_keeps {r a0 a1 a2 a3} (h3 : Keeps r a3) (kfab : Lets r .fab := by trivial) (kinteg : Lets r .integ := by trivial) (kobs : Lets r .obs := by trivial) (kvs : Lets r .vs := by trivial) : Keeps r (seqWrite a0 a1 a2 a3) := by
  unfold seqWrite; try dsimp only
  repeat' first | with_reducible assumption | with_reducible apply seqNext_keeps

theorem seqR_keeps {r a0 a1 a2 a3} (h3 : Keeps r a3) (kfab : Lets r .fab := by trivial) (kinteg : Lets r .integ := by trivial) (kobs : Lets r .obs := by trivial) (kvs : Lets r .vs := by trivial) : KeepsO r (seqR a0 a1 a2 a3) := by
  unfold seqR; try dsimp only
  repeat' first | with_reducible assumption | (intro _) | with_reducible apply seqStep_keeps | with_reducible apply seqWrite_keeps

theorem seqI_keeps {r a0 a1 a2 a3} (h3 : Keeps r a3) (kfab : Lets r .fab := by trivial) (kinteg : Lets r .integ := by trivial) (kobs : Lets r .obs := by trivial) (kvs : Lets r .vs := by trivial) : KeepsO r (seqI a0 a1 a2 a3) := by
  unfold seqI; try dsimp only
  repeat' first | with_reducible assumption | (intro _) | with_reducible apply seqStep_keeps | with_reducible apply seqWrite_keeps

theorem execSeqAdd_keeps {r a0 a1} (h1 : Keeps r a1) (kfab : Lets r .fab := by trivial) (kinteg : Lets r .integ := by trivial) (kobs : Lets r .obs := by trivial) (kvs : Lets r .vs := by trivial) : KeepsO r (execSeqAdd a0 a1) := by
  unfold execSeqAdd; try dsimp only
  repeat' first | with_reducible assumption | with_reducible apply seqR_keeps

theorem execSeqSub_keeps {r a0 a1} (h1 : Keeps r a1) (kfab : Lets r .fab := by trivial) (kinteg : Lets r .integ := by trivial) (kobs : Lets r .obs := by trivial) (kvs : Lets r .vs := by trivial) : KeepsO r (execSeqSub a0 a1) := by
  unfold execSeqSub; try dsimp only
  repeat' first | with_reducible assumption | with_reducible apply seqR_keeps

theorem execSeqMul_keeps {r a0 a1} (h1 : Keeps r a1) (kfab : Lets r .fab := by trivial) (kinteg : Lets r .integ := by trivial) (kobs : Lets r .obs := by trivial) (kvs : Lets r .vs := by trivial) : KeepsO r (execSeqMul a0 a1) := by
  unfold execSeqMul; try dsimp only
  repeat' first | with_reducible assumption | with_reducible apply seqR_keeps

theorem execSeqAnd_keeps {r a0 a1} (h1 : Keeps r a1) (kfab : Lets r .fab := by trivial) (kinteg : Lets r .integ := by trivial) (kobs : Lets r .obs := by trivial) (kvs : Lets r .vs := by trivial) : KeepsO r (execSeqAnd a0 a1) := by
  unfold execSeqAnd; try dsimp only
  repeat' first | with_reducible assumption | with_reducible apply seqR_keeps

theorem execSeqOr_keeps {r a0 a1} (h1 : Keeps r a1) (kfab : Lets r .fab := by trivial) (kinteg : Lets r .integ := by trivial) (kobs : Lets r .obs := by trivial) (kvs : Lets r .vs := by trivial) : KeepsO r (execSeqOr a0 a1) := by
  unfold execSeqOr; try dsimp only
  repeat' first | with_reducible assumption | with_reducible apply seqR_keeps

theorem execSeqXor_keeps {r a0 a1} (h1 : Keeps r a1) (kfab : Lets r .fab := by trivial) (kinteg : Lets r .integ := by trivial) (kobs : Lets r .obs := by trivial) (kvs : Lets r .vs := by trivial) : KeepsO r (execSeqXor a0 a1) := by
  unfold execSeqXor; try dsimp only
  repeat' first | with_reducible assumption | with_reducible apply seqR_keeps

theorem execSeqShl_keeps {r a0 a1} (h1 : Keeps r a1) (kfab : Lets r .fab := by trivial) (kinteg : Lets r .integ := by trivial) (kobs : Lets r .obs := by trivial) (kvs : Lets r .vs := by trivial) : KeepsO r (execSeqShl a0 a1) := by
  unfold execSeqShl; try dsimp only
  repeat' first | with_reducible assumption | with_reducible apply seqR_keeps

theorem execSeqShr_keeps {r a0 a1} (h1 : Keeps r a1) (kfab : Lets r .fab := by trivial) (kinteg : Lets r .integ := by trivial) (kobs : Lets r .obs := by trivial) (kvs : Lets r .vs := by trivial) : KeepsO r (execSeqShr a0 a1) := by
  unfold execSeqShr; try dsimp only
  repeat' first | with_reducible assumption | with_reducible apply seqR_keeps

theorem execSeqSra_keeps {r a0 a1} (h1 : Keeps r a1) (kfab : Lets r .fab := by trivial) (kinteg : Lets r .integ := by trivial) (kobs : Lets r .obs := by trivial) (kvs : Lets r .vs := by trivial) : KeepsO r (execSeqSra a0 a1) := by
  unfold execSeqSra; try dsimp only
  repeat' first | with_reducible assumption | with_reducible apply seqR_keeps

theorem execSeqSlt_keeps {r a0 a1} (h1 : Keeps r a1) (kfab : Lets r .fab := by trivial) (kinteg : Lets r .integ := by trivial) (kobs : Lets r .obs := by trivial) (kvs : Lets r .vs := by trivial) : KeepsO r (execSeqSlt a0 a1) := by
  unfold execSeqSlt; try dsimp only
  repeat' first | with_reducible assumption | with_reducible apply seqR_keeps

theorem execSeqSltu_keeps {r a0 a1} (h1 : Keeps r a1) (kfab : Lets r .fab := by trivial) (kinteg : Lets r .integ := by trivial) (kobs : Lets r .obs := by trivial) (kvs : Lets r .vs := by trivial) : KeepsO r (execSeqSltu a0 a1) := by
  unfold execSeqSltu; try dsimp only
  repeat' first | with_reducible assumption | with_reducible apply seqR_keeps

theorem execSeqMinu_keeps {r a0 a1} (h1 : Keeps r a1) (kfab : Lets r .fab := by trivial) (kinteg : Lets r .integ := by trivial) (kobs : Lets r .obs := by trivial) (kvs : Lets r .vs := by trivial) : KeepsO r (execSeqMinu a0 a1) := by
  unfold execSeqMinu; try dsimp only
  repeat' first | with_reducible assumption | with_reducible apply seqR_keeps

theorem execSeqMaxu_keeps {r a0 a1} (h1 : Keeps r a1) (kfab : Lets r .fab := by trivial) (kinteg : Lets r .integ := by trivial) (kobs : Lets r .obs := by trivial) (kvs : Lets r .vs := by trivial) : KeepsO r (execSeqMaxu a0 a1) := by
  unfold execSeqMaxu; try dsimp only
  repeat' first | with_reducible assumption | with_reducible apply seqR_keeps

theorem execSeqAddi_keeps {r a0 a1} (h1 : Keeps r a1) (kfab : Lets r .fab := by trivial) (kinteg : Lets r .integ := by trivial) (kobs : Lets r .obs := by trivial) (kvs : Lets r .vs := by trivial) : KeepsO r (execSeqAddi a0 a1) := by
  unfold execSeqAddi; try dsimp only
  repeat' first | with_reducible assumption | with_reducible apply seqI_keeps

theorem execSeqAndi_keeps {r a0 a1} (h1 : Keeps r a1) (kfab : Lets r .fab := by trivial) (kinteg : Lets r .integ := by trivial) (kobs : Lets r .obs := by trivial) (kvs : Lets r .vs := by trivial) : KeepsO r (execSeqAndi a0 a1) := by
  unfold execSeqAndi; try dsimp only
  repeat' first | with_reducible assumption | with_reducible apply seqI_keeps

theorem execSeqOri_keeps {r a0 a1} (h1 : Keeps r a1) (kfab : Lets r .fab := by trivial) (kinteg : Lets r .integ := by trivial) (kobs : Lets r .obs := by trivial) (kvs : Lets r .vs := by trivial) : KeepsO r (execSeqOri a0 a1) := by
  unfold execSeqOri; try dsimp only
  repeat' first | with_reducible assumption | with_reducible apply seqI_keeps

theorem execSeqXori_keeps {r a0 a1} (h1 : Keeps r a1) (kfab : Lets r .fab := by trivial) (kinteg : Lets r .integ := by trivial) (kobs : Lets r .obs := by trivial) (kvs : Lets r .vs := by trivial) : KeepsO r (execSeqXori a0 a1) := by
  unfold execSeqXori; try dsimp only
  repeat' first | with_reducible assumption | with_reducible apply seqI_keeps

theorem execSeqShli_keeps {r a0 a1} (h1 : Keeps r a1) (kfab : Lets r .fab := by trivial) (kinteg : Lets r .integ := by trivial) (kobs : Lets r .obs := by trivial) (kvs : Lets r .vs := by trivial) : KeepsO r (execSeqShli a0 a1) := by
  unfold execSeqShli; try dsimp only
  repeat' first | with_reducible assumption | with_reducible apply seqI_keeps

theorem execSeqShri_keeps {r a0 a1} (h1 : Keeps r a1) (kfab : Lets r .fab := by trivial) (kinteg : Lets r .integ := by trivial) (kobs : Lets r .obs := by trivial) (kvs : Lets r .vs := by trivial) : KeepsO r (execSeqShri a0 a1) := by
  unfold execSeqShri; try dsimp only
  repeat' first | with_reducible assumption | with_reducible apply seqI_keeps

theorem execSeqSrai_keeps {r a0 a1} (h1 : Keeps r a1) (kfab : Lets r .fab := by trivial) (kinteg : Lets r .integ := by trivial) (kobs : Lets r .obs := by trivial) (kvs : Lets r .vs := by trivial) : KeepsO r (execSeqSrai a0 a1) := by
  unfold execSeqSrai; try dsimp only
  repeat' first | with_reducible assumption | with_reducible apply seqI_keeps

theorem execSeqMovk_keeps {r a0 a1} (h1 : Keeps r a1) (kfab : Lets r .fab := by trivial) (kinteg : Lets r .integ := by trivial) (kobs : Lets r .obs := by trivial) (kvs : Lets r .vs := by trivial) : KeepsO r (execSeqMovk a0 a1) := by
  unfold execSeqMovk; try dsimp only
  repeat' first | with_reducible assumption | (intro _) | with_reducible apply seqStep_keeps | with_reducible apply seqWrite_keeps

theorem execSeqLd_keeps {r a0 a1} (h1 : Keeps r a1) (kfab : Lets r .fab := by trivial) (kinteg : Lets r .integ := by trivial) (kobs : Lets r .obs := by trivial) (kvs : Lets r .vs := by trivial) : KeepsO r (execSeqLd a0 a1) := by
  unfold execSeqLd; try dsimp only
  repeat' first | with_reducible assumption | (intro _) | with_reducible apply seqStep_keeps | with_reducible apply seqTrap_keeps | with_reducible apply modSeq_keeps | with_reducible apply send_keeps | split

theorem execSeqLdData_keeps {r a0 a1} (h1 : Keeps r a1) (kfab : Lets r .fab := by trivial) (kinteg : Lets r .integ := by trivial) (kobs : Lets r .obs := by trivial) (kvs : Lets r .vs := by trivial) : KeepsO r (execSeqLdData a0 a1) := by
  unfold execSeqLdData; try dsimp only
  repeat' first | with_reducible assumption | with_reducible apply seqWrite_keeps | with_reducible apply keeps_next | split

theorem execSeqSt_keeps {r a0 a1} (h1 : Keeps r a1) (kfab : Lets r .fab := by trivial) (kinteg : Lets r .integ := by trivial) (kobs : Lets r .obs := by trivial) (kvs : Lets r .vs := by trivial) : KeepsO r (execSeqSt a0 a1) := by
  unfold execSeqSt; try dsimp only
  repeat' first | with_reducible assumption | (intro _) | with_reducible apply seqStep_keeps | with_reducible apply seqTrap_keeps | with_reducible apply seqNext_keeps | with_reducible apply send_keeps | with_reducible apply keeps_ite | split

theorem seqBr_keeps {r a0 a1 a2 a3} (h3 : Keeps r a3) (kfab : Lets r .fab := by trivial) (kinteg : Lets r .integ := by trivial) (kobs : Lets r .obs := by trivial) (kvs : Lets r .vs := by trivial) : KeepsO r (seqBr a0 a1 a2 a3) := by
  unfold seqBr; try dsimp only
  repeat' first | with_reducible assumption | (intro _) | with_reducible apply seqStep_keeps | with_reducible apply seqBranch_keeps | with_reducible apply seqNext_keeps

theorem execSeqBeq_keeps {r a0 a1} (h1 : Keeps r a1) (kfab : Lets r .fab := by trivial) (kinteg : Lets r .integ := by trivial) (kobs : Lets r .obs := by trivial) (kvs : Lets r .vs := by trivial) : KeepsO r (execSeqBeq a0 a1) := by
  unfold execSeqBeq; try dsimp only
  repeat' first | with_reducible assumption | with_reducible apply seqBr_keeps

theorem execSeqBne_keeps {r a0 a1} (h1 : Keeps r a1) (kfab : Lets r .fab := by trivial) (kinteg : Lets r .integ := by trivial) (kobs : Lets r .obs := by trivial) (kvs : Lets r .vs := by trivial) : KeepsO r (execSeqBne a0 a1) := by
  unfold execSeqBne; try dsimp only
  repeat' first | with_reducible assumption | with_reducible apply seqBr_keeps

theorem execSeqBlt_keeps {r a0 a1} (h1 : Keeps r a1) (kfab : Lets r .fab := by trivial) (kinteg : Lets r .integ := by trivial) (kobs : Lets r .obs := by trivial) (kvs : Lets r .vs := by trivial) : KeepsO r (execSeqBlt a0 a1) := by
  unfold execSeqBlt; try dsimp only
  repeat' first | with_reducible assumption | with_reducible apply seqBr_keeps

theorem execSeqBltu_keeps {r a0 a1} (h1 : Keeps r a1) (kfab : Lets r .fab := by trivial) (kinteg : Lets r .integ := by trivial) (kobs : Lets r .obs := by trivial) (kvs : Lets r .vs := by trivial) : KeepsO r (execSeqBltu a0 a1) := by
  unfold execSeqBltu; try dsimp only
  repeat' first | with_reducible assumption | with_reducible apply seqBr_keeps

theorem execSeqBge_keeps {r a0 a1} (h1 : Keeps r a1) (kfab : Lets r .fab := by trivial) (kinteg : Lets r .integ := by trivial) (kobs : Lets r .obs := by trivial) (kvs : Lets r .vs := by trivial) : KeepsO r (execSeqBge a0 a1) := by
  unfold execSeqBge; try dsimp only
  repeat' first | with_reducible assumption | with_reducible apply seqBr_keeps

theorem execSeqBgeu_keeps {r a0 a1} (h1 : Keeps r a1) (kfab : Lets r .fab := by trivial) (kinteg : Lets r .integ := by trivial) (kobs : Lets r .obs := by trivial) (kvs : Lets r .vs := by trivial) : KeepsO r (execSeqBgeu a0 a1) := by
  unfold execSeqBgeu; try dsimp only
  repeat' first | with_reducible assumption | with_reducible apply seqBr_keeps

theorem execSeqLoop_keeps {r a0 a1} (h1 : Keeps r a1) (kfab : Lets r .fab := by trivial) (kinteg : Lets r .integ := by trivial) (kobs : Lets r .obs := by trivial) (kvs : Lets r .vs := by trivial) : KeepsO r (execSeqLoop a0 a1) := by
  unfold execSeqLoop; try dsimp only
  repeat' first | with_reducible assumption | (intro _) | with_reducible apply seqStep_keeps | with_reducible apply seqTrap_keeps | with_reducible apply seqEvent_keeps | with_reducible apply seqNext_keeps | with_reducible apply keeps_ite

theorem execSeqLend_keeps {r a0 a1} (h1 : Keeps r a1) (kfab : Lets r .fab := by trivial) (kinteg : Lets r .integ := by trivial) (kobs : Lets r .obs := by trivial) (kvs : Lets r .vs := by trivial) : KeepsO r (execSeqLend a0 a1) := by
  unfold execSeqLend; try dsimp only
  repeat' first | with_reducible assumption | (intro _) | with_reducible apply seqStep_keeps | with_reducible apply seqNext_keeps | with_reducible apply keeps_ite

theorem execSeqRestart_keeps {r a0 a1} (h1 : Keeps r a1) (kfab : Lets r .fab := by trivial) (kinteg : Lets r .integ := by trivial) (kobs : Lets r .obs := by trivial) (kvs : Lets r .vs := by trivial) : KeepsO r (execSeqRestart a0 a1) := by
  unfold execSeqRestart; try dsimp only
  repeat' first | with_reducible assumption | (intro _) | with_reducible apply seqStep_keeps | with_reducible apply seqEvent_keeps | with_reducible apply seqNext_keeps

theorem execSeqHalt_keeps {r a0 a1} (h1 : Keeps r a1) (kfab : Lets r .fab := by trivial) (kinteg : Lets r .integ := by trivial) (kobs : Lets r .obs := by trivial) (kvs : Lets r .vs := by trivial) : KeepsO r (execSeqHalt a0 a1) := by
  unfold execSeqHalt; try dsimp only
  repeat' first | with_reducible assumption | (intro _) | with_reducible apply seqStep_keeps | with_reducible apply seqEvent_keeps | with_reducible apply modSeq_keeps

theorem execSeqNop_keeps {r a0 a1} (h1 : Keeps r a1) (kfab : Lets r .fab := by trivial) (kinteg : Lets r .integ := by trivial) (kobs : Lets r .obs := by trivial) (kvs : Lets r .vs := by trivial) : KeepsO r (execSeqNop a0 a1) := by
  unfold execSeqNop; try dsimp only
  repeat' first | with_reducible assumption | (intro _) | with_reducible apply seqStep_keeps | with_reducible apply seqNext_keeps

theorem execSeqMfl_keeps {r a0 a1} (h1 : Keeps r a1) (kfab : Lets r .fab := by trivial) (kinteg : Lets r .integ := by trivial) (kobs : Lets r .obs := by trivial) (kvs : Lets r .vs := by trivial) : KeepsO r (execSeqMfl a0 a1) := by
  unfold execSeqMfl; try dsimp only
  repeat' first | with_reducible assumption | (intro _) | with_reducible apply seqStep_keeps | with_reducible apply seqWrite_keeps

theorem execSeqTime_keeps {r a0 a1} (h1 : Keeps r a1) (kfab : Lets r .fab := by trivial) (kinteg : Lets r .integ := by trivial) (kobs : Lets r .obs := by trivial) (kvs : Lets r .vs := by trivial) : KeepsO r (execSeqTime a0 a1) := by
  unfold execSeqTime; try dsimp only
  repeat' first | with_reducible assumption | (intro _) | with_reducible apply seqStep_keeps | with_reducible apply seqWrite_keeps

theorem execSeqMark_keeps {r a0 a1} (h1 : Keeps r a1) (kfab : Lets r .fab := by trivial) (kinteg : Lets r .integ := by trivial) (kobs : Lets r .obs := by trivial) (kvs : Lets r .vs := by trivial) : KeepsO r (execSeqMark a0 a1) := by
  unfold execSeqMark; try dsimp only
  repeat' first | with_reducible assumption | (intro _) | with_reducible apply seqStep_keeps | with_reducible apply seqNext_keeps | with_reducible apply seqEvent_keeps

theorem launchAccept_keeps {r a0 a1 a2 a3} (h0 : Keeps r a0) (kfab : Lets r .fab := by trivial) (kinteg : Lets r .integ := by trivial) (kobs : Lets r .obs := by trivial) (kvs : Lets r .vs := by trivial) : Keeps r (launchAccept a0 a1 a2 a3) := by
  unfold launchAccept; try dsimp only
  repeat' first | with_reducible assumption | with_reducible apply modVat_keeps | with_reducible apply seqEvent_keeps | with_reducible apply seqNext_keeps

theorem launchTry_keeps {r a0 a1 a2} (h0 : Keeps r a0) (kfab : Lets r .fab := by trivial) (kinteg : Lets r .integ := by trivial) (kobs : Lets r .obs := by trivial) (kvs : Lets r .vs := by trivial) : Keeps r (launchTry a0 a1 a2) := by
  unfold launchTry; try dsimp only
  repeat' first | with_reducible assumption | with_reducible apply seqTrap_keeps | with_reducible apply modSeq_keeps | with_reducible apply launchAccept_keeps | with_reducible apply keeps_ite

theorem execSeqLaunch_keeps {r a0 a1} (h1 : Keeps r a1) (kfab : Lets r .fab := by trivial) (kinteg : Lets r .integ := by trivial) (kobs : Lets r .obs := by trivial) (kvs : Lets r .vs := by trivial) : KeepsO r (execSeqLaunch a0 a1) := by
  unfold execSeqLaunch; try dsimp only
  repeat' first | with_reducible assumption | (intro _) | with_reducible apply seqStep_keeps | with_reducible apply launchTry_keeps

theorem execLaunchResume_keeps {r a0 a1} (h1 : Keeps r a1) (kfab : Lets r .fab := by trivial) (kinteg : Lets r .integ := by trivial) (kobs : Lets r .obs := by trivial) (kvs : Lets r .vs := by trivial) : KeepsO r (execLaunchResume a0 a1) := by
  unfold execLaunchResume; try dsimp only
  repeat' first | with_reducible assumption | with_reducible apply launchTry_keeps | with_reducible apply keeps_next | with_reducible apply keepsO_ite | split

theorem bwaitDone_keeps {r a0 a1 a2 a3 a4} (h0 : Keeps r a0) (kfab : Lets r .fab := by trivial) (kinteg : Lets r .integ := by trivial) (kobs : Lets r .obs := by trivial) (kvs : Lets r .vs := by trivial) : Keeps r (bwaitDone a0 a1 a2 a3 a4) := by
  unfold bwaitDone; try dsimp only
  repeat' first | with_reducible assumption | with_reducible apply modVat_keeps | with_reducible apply waitEvent_keeps | with_reducible apply seqWrite_keeps

theorem execBatchComplete_keeps {r a0 a1 a2} (h2 : Keeps r a2) (kfab : Lets r .fab := by trivial) (kinteg : Lets r .integ := by trivial) (kobs : Lets r .obs := by trivial) (kvs : Lets r .vs := by trivial) : KeepsO r (execBatchComplete a0 a1 a2) := by
  unfold execBatchComplete; try dsimp only
  repeat' first | with_reducible assumption | with_reducible apply event_keeps | with_reducible apply modVat_keeps | with_reducible apply modBatch_keeps | with_reducible apply bwaitDone_keeps | with_reducible apply keeps_next | with_reducible apply keepsO_ite | with_reducible apply keeps_ite | split

theorem execSeqBwait_keeps {r a0 a1} (h1 : Keeps r a1) (kfab : Lets r .fab := by trivial) (kinteg : Lets r .integ := by trivial) (kobs : Lets r .obs := by trivial) (kvs : Lets r .vs := by trivial) : KeepsO r (execSeqBwait a0 a1) := by
  unfold execSeqBwait; try dsimp only
  repeat' first | with_reducible assumption | (intro _) | with_reducible apply seqStep_keeps | with_reducible apply seqTrap_keeps | with_reducible apply bwaitDone_keeps | with_reducible apply waitEvent_keeps | with_reducible apply seqWrite_keeps | with_reducible apply modSeq_keeps | with_reducible apply keeps_ite | split

theorem execSeqTake_keeps {r a0 a1} (h1 : Keeps r a1) (kfab : Lets r .fab := by trivial) (kinteg : Lets r .integ := by trivial) (kobs : Lets r .obs := by trivial) (kvs : Lets r .vs := by trivial) : KeepsO r (execSeqTake a0 a1) := by
  unfold execSeqTake; try dsimp only
  repeat' first | with_reducible assumption | (intro _) | with_reducible apply seqStep_keeps | with_reducible apply modVat_keeps | with_reducible apply seqEvent_keeps | with_reducible apply seqNext_keeps

theorem execQueuePost_keeps {r a0 a1 a2} (h2 : Keeps r a2) (kfab : Lets r .fab := by trivial) (kinteg : Lets r .integ := by trivial) (kobs : Lets r .obs := by trivial) (kvs : Lets r .vs := by trivial) : KeepsO r (execQueuePost a0 a1 a2) := by
  unfold execQueuePost; try dsimp only
  repeat' first | with_reducible assumption | (intro _) | with_reducible apply onArrival_keeps | with_reducible apply rxArrive_keeps | with_reducible apply refuse_keeps | with_reducible apply modVat_keeps | with_reducible apply keeps_ite

theorem execSeqSync_keeps {r a0 a1} (h1 : Keeps r a1) (kfab : Lets r .fab := by trivial) (kinteg : Lets r .integ := by trivial) (kobs : Lets r .obs := by trivial) (kvs : Lets r .vs := by trivial) : KeepsO r (execSeqSync a0 a1) := by
  unfold execSeqSync; try dsimp only
  repeat' first | with_reducible assumption | (intro _) | with_reducible apply seqStep_keeps | with_reducible apply seqTrap_keeps | with_reducible apply sendSync_keeps | with_reducible apply modSeq_keeps | with_reducible apply keeps_ite | split

theorem execSeqFence_keeps {r a0 a1} (h1 : Keeps r a1) (kfab : Lets r .fab := by trivial) (kinteg : Lets r .integ := by trivial) (kobs : Lets r .obs := by trivial) (kvs : Lets r .vs := by trivial) : KeepsO r (execSeqFence a0 a1) := by
  unfold execSeqFence; try dsimp only
  repeat' first | with_reducible assumption | (intro _) | with_reducible apply seqStep_keeps | with_reducible apply seqNext_keeps | with_reducible apply keeps_ite

theorem loadProgram_keeps {r a0 a1 a2} (h0 : Keeps r a0) (kvs : Lets r .vs := by trivial) : Keeps r (loadProgram a0 a1 a2) := by
  unfold loadProgram; try dsimp only
  repeat' first | with_reducible assumption | with_reducible apply modSeq_keeps

end Sys2Proof.Machine
end

