-- ==== Sys2Proof/Laws/KeepMcast.lean ====
section
/-!
SUPPORT. Laws/KeepMcast.lean: what the operations of Machine/Mcast.lean keep (Laws/Keep.lean).
-/
namespace Sys2Proof.Machine

theorem modAgent_keeps {r a0 a1 a2 a3} (h0 : Keeps r a0) (kvs : Lets r .vs := by trivial) : Keeps r (modAgent a0 a1 a2 a3) := by
  unfold modAgent; try dsimp only
  repeat' first | with_reducible assumption | with_reducible apply modVs_keeps

theorem mcWake_keeps {r a0 a1 a2} (h0 : Keeps r a0) (kfab : Lets r .fab := by trivial) (kinteg : Lets r .integ := by trivial) (kobs : Lets r .obs := by trivial) (kport : Lets r .port := by trivial) (kvs : Lets r .vs := by trivial) : Keeps r (mcWake a0 a1 a2) := by
  unfold mcWake; try dsimp only
  repeat' first | with_reducible assumption | (intro _) | with_reducible apply finishOp_keeps | with_reducible apply seqNext_keeps | with_reducible apply waitEvent_keeps | with_reducible apply keeps_ite | with_reducible apply keeps_foldl | split

theorem mcFailWaits_keeps {r a0 a1 a2} (h0 : Keeps r a0) (kfab : Lets r .fab := by trivial) (kinteg : Lets r .integ := by trivial) (kobs : Lets r .obs := by trivial) (kport : Lets r .port := by trivial) (kvs : Lets r .vs := by trivial) : Keeps r (mcFailWaits a0 a1 a2) := by
  unfold mcFailWaits; try dsimp only
  repeat' first | with_reducible assumption | (intro _) | with_reducible apply fibreFault_keeps | with_reducible apply seqTrap_keeps | with_reducible apply keeps_ite | with_reducible apply keeps_foldl | split

theorem mcSettle_keeps {r a0 a1} (h0 : Keeps r a0) (kfab : Lets r .fab := by trivial) (kinteg : Lets r .integ := by trivial) (kobs : Lets r .obs := by trivial) (kvs : Lets r .vs := by trivial) : Keeps r (mcSettle a0 a1) := by
  unfold mcSettle; try dsimp only
  repeat' first | with_reducible assumption | (intro _) | with_reducible apply modMc_keeps | with_reducible apply rxPerformed_keeps | with_reducible apply settleAll_keeps | with_reducible apply keeps_ite | with_reducible apply keeps_foldl

theorem mcPrune_keeps {r a0 a1 a2 a3} (h0 : Keeps r a0) (kfab : Lets r .fab := by trivial) (kinteg : Lets r .integ := by trivial) (kobs : Lets r .obs := by trivial) (kport : Lets r .port := by trivial) (kvs : Lets r .vs := by trivial) : Keeps r (mcPrune a0 a1 a2 a3) := by
  unfold mcPrune; try dsimp only
  repeat' first | with_reducible assumption | with_reducible apply modMc_keeps | with_reducible apply modAgent_keeps | with_reducible apply modVs_keeps | with_reducible apply event_keeps | with_reducible apply report_keeps | with_reducible apply mcSettle_keeps | with_reducible apply mcFailWaits_keeps | with_reducible apply keeps_ite

theorem mcAck_keeps {r a0 a1 a2 a3 a4} (h0 : Keeps r a0) (kfab : Lets r .fab := by trivial) (kinteg : Lets r .integ := by trivial) (kobs : Lets r .obs := by trivial) (kport : Lets r .port := by trivial) (kvs : Lets r .vs := by trivial) : Keeps r (mcAck a0 a1 a2 a3 a4) := by
  unfold mcAck; try dsimp only
  repeat' first | with_reducible assumption | with_reducible apply mcPrune_keeps | with_reducible apply modMc_keeps | with_reducible apply mcSettle_keeps | with_reducible apply keeps_ite | split

theorem ackDispatch_keeps {r a0 a1 a2 a3} (h0 : Keeps r a0) (kfab : Lets r .fab := by trivial) (kinteg : Lets r .integ := by trivial) (kobs : Lets r .obs := by trivial) (kport : Lets r .port := by trivial) (kvs : Lets r .vs := by trivial) : Keeps r (ackDispatch a0 a1 a2 a3) := by
  unfold ackDispatch; try dsimp only
  repeat' first | with_reducible assumption | with_reducible apply mcAck_keeps | with_reducible apply ackEntry_keeps | split

theorem execAck_keeps {r a0 a1 a2} (h2 : Keeps r a2) (kfab : Lets r .fab := by trivial) (kinteg : Lets r .integ := by trivial) (kobs : Lets r .obs := by trivial) (kport : Lets r .port := by trivial) (kvs : Lets r .vs := by trivial) : KeepsO r (execAck a0 a1 a2) := by
  exact onArrival_keeps h2 fun s hs => settleAll_keeps (keeps_foldl (fun _ _ h => ackDispatch_keeps h) _ hs)

theorem mcWrite_keeps {r a0 a1 a2 a3 a4 a5} (h0 : Keeps r a0) (kinteg : Lets r .integ := by trivial) (kmem : Lets r .mem := by trivial) : Keeps r (mcWrite a0 a1 a2 a3 a4 a5) := by
  unfold mcWrite; try dsimp only
  repeat' first | with_reducible assumption | (intro _) | with_reducible apply cleanRange_keeps | with_reducible apply writeMem_keeps | with_reducible apply keeps_ite | with_reducible apply keeps_foldl

theorem agentAck_keeps {r a0 a1 a2 a3 a4 a5 a6} (h0 : Keeps r a0) (kfab : Lets r .fab := by trivial) : Keeps r (agentAck a0 a1 a2 a3 a4 a5 a6) := by
  unfold agentAck; try dsimp only
  repeat' first | with_reducible assumption | with_reducible apply pushAck_keeps

theorem agentAdvance_keeps {r a0 a1 a2 a3 a4} (h1 : Keeps r a1) (kfab : Lets r .fab := by trivial) (kinteg : Lets r .integ := by trivial) (kobs : Lets r .obs := by trivial) (kport : Lets r .port := by trivial) (kvs : Lets r .vs := by trivial) : Keeps r (agentAdvance a0 a1 a2 a3 a4) := by
  induction a0 generalizing a1 a2 a3 a4 h1 with
  | zero =>
    unfold agentAdvance; try dsimp only
    repeat' first | with_reducible assumption | with_reducible apply agentAck_keeps | with_reducible apply mcWake_keeps | with_reducible apply modAgent_keeps | with_reducible apply keeps_ite | split
  | succ n ih =>
    unfold agentAdvance; try dsimp only
    repeat' first | apply ih | with_reducible assumption | with_reducible apply agentAck_keeps | with_reducible apply mcWake_keeps | with_reducible apply modAgent_keeps | with_reducible apply keeps_ite | split

theorem mcReceive_keeps {r a0 a1 a2 a3} (h0 : Keeps r a0) (kfab : Lets r .fab := by trivial) (kfree : Lets r .free := by trivial) (kinteg : Lets r .integ := by trivial) (kmem : Lets r .mem := by trivial) (kobs : Lets r .obs := by trivial) (kport : Lets r .port := by trivial) (kvs : Lets r .vs := by trivial) : Keeps r (mcReceive a0 a1 a2 a3) := by
  unfold mcReceive; try dsimp only
  repeat' first | with_reducible assumption | with_reducible apply mcWrite_keeps | with_reducible apply modAgent_keeps | with_reducible apply agentAdvance_keeps | with_reducible apply reportPkt_keeps | with_reducible apply drawBytes_keeps | with_reducible apply agentAck_keeps | with_reducible apply keeps_ite | split

theorem execMcDeliver_keeps {r a0 a1 a2} (h2 : Keeps r a2) (kfab : Lets r .fab := by trivial) (kfree : Lets r .free := by trivial) (kinteg : Lets r .integ := by trivial) (kmem : Lets r .mem := by trivial) (kobs : Lets r .obs := by trivial) (kport : Lets r .port := by trivial) (kvs : Lets r .vs := by trivial) : KeepsO r (execMcDeliver a0 a1 a2) := by
  unfold execMcDeliver; try dsimp only
  repeat' first | with_reducible assumption | with_reducible apply takeArrived_keeps | with_reducible apply mcReceive_keeps | with_reducible apply keeps_next | with_reducible apply keepsO_ite | split | with_reducible refine keeps_of_some ‹_› ?_

theorem execMcSend_keeps {r a0 a1 a2} (h2 : Keeps r a2) (kfab : Lets r .fab := by trivial) (kinteg : Lets r .integ := by trivial) (kobs : Lets r .obs := by trivial) (kvs : Lets r .vs := by trivial) : KeepsO r (execMcSend a0 a1 a2) := by
  unfold execMcSend; try dsimp only
  repeat' first | with_reducible assumption | (intro _) | with_reducible apply onArrival_keeps | with_reducible apply rxHandle_keeps | with_reducible apply refuse_keeps | with_reducible apply mcRelay_keeps | with_reducible apply rxPerformed_keeps | with_reducible apply keeps_next | with_reducible apply keeps_id | with_reducible apply keepsO_ite | with_reducible apply keeps_ite | split

theorem execMcAckTimeout_keeps {r a0 a1 a2} (h2 : Keeps r a2) (kfab : Lets r .fab := by trivial) (kinteg : Lets r .integ := by trivial) (know : Lets r .now := by trivial) (kobs : Lets r .obs := by trivial) (kport : Lets r .port := by trivial) (kvs : Lets r .vs := by trivial) : KeepsO r (execMcAckTimeout a0 a1 a2) := by
  unfold execMcAckTimeout; try dsimp only
  repeat' first | with_reducible assumption | (intro _) | with_reducible apply timeReaches_keeps | with_reducible apply mcPrune_keeps | with_reducible apply keeps_next | with_reducible apply keeps_foldl | split

theorem mcRejoin_keeps {r a0 a1 a2} (h0 : Keeps r a0) (kvs : Lets r .vs := by trivial) : Keeps r (mcRejoin a0 a1 a2) := by
  unfold mcRejoin; try dsimp only
  repeat' first | with_reducible assumption | with_reducible apply modMc_keeps | with_reducible apply modAgent_keeps

theorem sendMcast_keeps {r a0 a1 a2 a3 a4 a5 a6 a7 a8} (h0 : Keeps r a0) (kfab : Lets r .fab := by trivial) : Keeps r (sendMcast a0 a1 a2 a3 a4 a5 a6 a7 a8) := by
  unfold sendMcast; try dsimp only
  repeat' first | with_reducible assumption | (intro _) | with_reducible apply send_keeps | with_reducible apply keeps_foldl

theorem execSeqMcast_keeps {r a0 a1} (h1 : Keeps r a1) (kfab : Lets r .fab := by trivial) (kinteg : Lets r .integ := by trivial) (kobs : Lets r .obs := by trivial) (kvs : Lets r .vs := by trivial) : KeepsO r (execSeqMcast a0 a1) := by
  unfold execSeqMcast; try dsimp only
  repeat' first | with_reducible assumption | (intro _) | with_reducible apply seqStep_keeps | with_reducible apply seqTrap_keeps | with_reducible apply seqEvent_keeps | with_reducible apply ueReport_keeps | with_reducible apply sendMcast_keeps | with_reducible apply mcastSettle_keeps | with_reducible apply modSeq_keeps | with_reducible apply keeps_ite | split

theorem execSeqMcwait_keeps {r a0 a1} (h1 : Keeps r a1) (kfab : Lets r .fab := by trivial) (kinteg : Lets r .integ := by trivial) (kobs : Lets r .obs := by trivial) (kvs : Lets r .vs := by trivial) : KeepsO r (execSeqMcwait a0 a1) := by
  unfold execSeqMcwait; try dsimp only
  repeat' first | with_reducible assumption | (intro _) | with_reducible apply seqStep_keeps | with_reducible apply seqTrap_keeps | with_reducible apply seqNext_keeps | with_reducible apply waitEvent_keeps | with_reducible apply modSeq_keeps | with_reducible apply keeps_ite

end Sys2Proof.Machine
end

