-- ==== Sys2Proof/Laws/KeepReduce.lean ====
section
/-!
SUPPORT. Laws/KeepReduce.lean: what the operations of Machine/Reduce.lean keep (Laws/Keep.lean).
-/
namespace Sys2Proof.Machine

theorem modNode_keeps {r a0 a1 a2 a3} (h0 : Keeps r a0) (kvs : Lets r .vs := by trivial) : Keeps r (modNode a0 a1 a2 a3) := by
  unfold modNode; try dsimp only
  repeat' first | with_reducible assumption | with_reducible apply modVs_keeps

theorem modRed_keeps {r a0 a1 a2} (h0 : Keeps r a0) (kvs : Lets r .vs := by trivial) : Keeps r (modRed a0 a1 a2) := by
  unfold modRed; try dsimp only
  repeat' first | with_reducible assumption | with_reducible apply modVs_keeps

theorem redFault_keeps {r a0 a1 a2 a3 a4 a5} (h0 : Keeps r a0) (kinteg : Lets r .integ := by trivial) (kobs : Lets r .obs := by trivial) (kvs : Lets r .vs := by trivial) : Keeps r (redFault a0 a1 a2 a3 a4 a5) := by
  unfold redFault; try dsimp only
  repeat' first | with_reducible assumption | with_reducible apply modNode_keeps | with_reducible apply modVs_keeps | with_reducible apply report_keeps | with_reducible apply keeps_ite | split

theorem redReturn_keeps {r a0 a1 a2 a3 a4 a5} (h0 : Keeps r a0) (kfab : Lets r .fab := by trivial) : Keeps r (redReturn a0 a1 a2 a3 a4 a5) := by
  unfold redReturn; try dsimp only
  repeat' first | with_reducible assumption | (intro _) | with_reducible apply send_keeps | with_reducible apply keeps_ite | with_reducible apply keeps_foldl

theorem writeClean_keeps {r a0 a1 a2} (h0 : Keeps r a0) (kinteg : Lets r .integ := by trivial) (kmem : Lets r .mem := by trivial) : Keeps r (writeClean a0 a1 a2) := by
  unfold writeClean; try dsimp only
  repeat' first | with_reducible assumption | with_reducible apply cleanRange_keeps | with_reducible apply writeMem_keeps

theorem redDeliver_keeps {r a0 a1 a2 a3 a4 a5} (h0 : Keeps r a0) (kfab : Lets r .fab := by trivial) (kinteg : Lets r .integ := by trivial) (kmem : Lets r .mem := by trivial) (kobs : Lets r .obs := by trivial) (kvs : Lets r .vs := by trivial) : Keeps r (redDeliver a0 a1 a2 a3 a4 a5) := by
  unfold redDeliver; try dsimp only
  repeat' first | with_reducible assumption | with_reducible apply writeClean_keeps | with_reducible apply event_keeps | with_reducible apply send_keeps | with_reducible apply modRed_keeps | with_reducible apply keeps_ite

theorem sendReport_keeps {r a0 a1 a2 a3} (h0 : Keeps r a0) (kfab : Lets r .fab := by trivial) (kvs : Lets r .vs := by trivial) : Keeps r (sendReport a0 a1 a2 a3) := by
  unfold sendReport; try dsimp only
  repeat' first | with_reducible assumption | with_reducible apply modNode_keeps | with_reducible apply send_keeps

theorem redEnter_keeps {r a0 a1 a2} (h0 : Keeps r a0) (kfab : Lets r .fab := by trivial) (kinteg : Lets r .integ := by trivial) (kobs : Lets r .obs := by trivial) (kport : Lets r .port := by trivial) (kvs : Lets r .vs := by trivial) : Keeps r (redEnter a0 a1 a2) := by
  unfold redEnter; try dsimp only
  repeat' first | with_reducible assumption | (intro _) | with_reducible apply modRed_keeps | with_reducible apply fibreFault_keeps | with_reducible apply sendReport_keeps | with_reducible apply keeps_foldl

theorem redAdvance_keeps {r a0 a1 a2 a3 a4 a5} (h1 : Keeps r a1) (kfab : Lets r .fab := by trivial) (kinteg : Lets r .integ := by trivial) (kmem : Lets r .mem := by trivial) (kobs : Lets r .obs := by trivial) (kport : Lets r .port := by trivial) (kvs : Lets r .vs := by trivial) : Keeps r (redAdvance a0 a1 a2 a3 a4 a5) := by
  induction a0 generalizing a1 a2 a3 a4 a5 h1 with
  | zero =>
    unfold redAdvance; try dsimp only
    repeat' first | with_reducible assumption | with_reducible apply modNode_keeps | with_reducible apply modRed_keeps | with_reducible apply redDeliver_keeps | with_reducible apply redEnter_keeps | with_reducible apply redFault_keeps | with_reducible apply redReturn_keeps | with_reducible apply send_keeps | with_reducible apply keeps_ite | split
  | succ n ih =>
    unfold redAdvance; try dsimp only
    repeat' first | apply ih | with_reducible assumption | with_reducible apply modNode_keeps | with_reducible apply modRed_keeps | with_reducible apply redDeliver_keeps | with_reducible apply redEnter_keeps | with_reducible apply redFault_keeps | with_reducible apply redReturn_keeps | with_reducible apply send_keeps | with_reducible apply keeps_ite | split

theorem redInput_keeps {r a0 a1 a2 a3 a4 a5 a6 a7} (h0 : Keeps r a0) (kvs : Lets r .vs := by trivial) : Keeps r (redInput a0 a1 a2 a3 a4 a5 a6 a7) := by
  unfold redInput; try dsimp only
  repeat' first | with_reducible assumption | with_reducible apply modNode_keeps

theorem redContribute_keeps {r a0 a1 a2 a3 a4 a5 a6} (h0 : Keeps r a0) (kfab : Lets r .fab := by trivial) (kinteg : Lets r .integ := by trivial) (kmem : Lets r .mem := by trivial) (kobs : Lets r .obs := by trivial) (kport : Lets r .port := by trivial) (kvs : Lets r .vs := by trivial) : KeepsM r (redContribute a0 a1 a2 a3 a4 a5 a6) := by
  unfold redContribute; try dsimp only
  repeat' first | with_reducible assumption | with_reducible apply redInput_keeps | with_reducible apply modRed_keeps | with_reducible apply redAdvance_keeps | with_reducible apply keeps_some | with_reducible exact keeps_none | with_reducible apply keepsM_ite

theorem redCarry_keeps {r a0 a1 a2 a3 a4} (h0 : Keeps r a0) (kvs : Lets r .vs := by trivial) : Keeps r (redCarry a0 a1 a2 a3 a4) := by
  unfold redCarry; try dsimp only
  repeat' first | with_reducible assumption | with_reducible apply modNode_keeps

theorem redArrive_keeps {r a0 a1 a2 a3} (h0 : Keeps r a0) (kfab : Lets r .fab := by trivial) (kinteg : Lets r .integ := by trivial) (kmem : Lets r .mem := by trivial) (kobs : Lets r .obs := by trivial) (kport : Lets r .port := by trivial) (kvs : Lets r .vs := by trivial) : Keeps r (redArrive a0 a1 a2 a3) := by
  unfold redArrive; try dsimp only
  repeat' first | with_reducible assumption | with_reducible apply redReturn_keeps | with_reducible apply redInput_keeps | with_reducible apply redCarry_keeps | with_reducible apply redFault_keeps | with_reducible apply redAdvance_keeps | with_reducible apply keeps_ite | split

theorem execRedChunk_keeps {r a0 a1 a2} (h2 : Keeps r a2) (kfab : Lets r .fab := by trivial) (kinteg : Lets r .integ := by trivial) (kmem : Lets r .mem := by trivial) (kobs : Lets r .obs := by trivial) (kport : Lets r .port := by trivial) (kvs : Lets r .vs := by trivial) : KeepsO r (execRedChunk a0 a1 a2) := by
  unfold execRedChunk; try dsimp only
  repeat' first | with_reducible assumption | (intro _) | with_reducible apply onArrival_keeps | with_reducible apply redArrive_keeps

theorem execRedCredit_keeps {r a0 a1 a2} (h2 : Keeps r a2) (kfab : Lets r .fab := by trivial) (kinteg : Lets r .integ := by trivial) (kmem : Lets r .mem := by trivial) (kobs : Lets r .obs := by trivial) (kport : Lets r .port := by trivial) (kvs : Lets r .vs := by trivial) : KeepsO r (execRedCredit a0 a1 a2) := by
  unfold execRedCredit; try dsimp only
  repeat' first | with_reducible assumption | (intro _) | with_reducible apply onArrival_keeps | with_reducible apply modNode_keeps | with_reducible apply redAdvance_keeps

theorem execRedTimeout_keeps {r a0 a1 a2 a3 a4} (h4 : Keeps r a4) (kfab : Lets r .fab := by trivial) (kinteg : Lets r .integ := by trivial) (kmem : Lets r .mem := by trivial) (know : Lets r .now := by trivial) (kobs : Lets r .obs := by trivial) (kport : Lets r .port := by trivial) (kvs : Lets r .vs := by trivial) : KeepsO r (execRedTimeout a0 a1 a2 a3 a4) := by
  unfold execRedTimeout; try dsimp only
  repeat' first | with_reducible assumption | with_reducible apply timeReaches_keeps | with_reducible apply redAdvance_keeps | with_reducible apply redFault_keeps | with_reducible apply keeps_next | with_reducible apply keepsO_ite | split

theorem execRedReport_keeps {r a0 a1 a2} (h2 : Keeps r a2) (kfab : Lets r .fab := by trivial) (kvs : Lets r .vs := by trivial) : KeepsO r (execRedReport a0 a1 a2) := by
  unfold execRedReport; try dsimp only
  repeat' first | with_reducible assumption | (intro _) | with_reducible apply onArrival_keeps | with_reducible apply modRed_keeps

theorem execRedReportRepeat_keeps {r a0 a1 a2} (h2 : Keeps r a2) (kfab : Lets r .fab := by trivial) (know : Lets r .now := by trivial) (kvs : Lets r .vs := by trivial) : KeepsO r (execRedReportRepeat a0 a1 a2) := by
  unfold execRedReportRepeat; try dsimp only
  repeat' first | with_reducible assumption | with_reducible apply timeReaches_keeps | with_reducible apply sendReport_keeps | with_reducible apply keeps_next | split

theorem sendResync_keeps {r a0 a1 a2 a3 a4} (h0 : Keeps r a0) (kfab : Lets r .fab := by trivial) : Keeps r (sendResync a0 a1 a2 a3 a4) := by
  unfold sendResync; try dsimp only
  repeat' first | with_reducible assumption | with_reducible apply send_keeps

theorem redResyncStep_keeps {r a0 a1 a2} (h0 : Keeps r a0) (kfab : Lets r .fab := by trivial) (kinteg : Lets r .integ := by trivial) (kmem : Lets r .mem := by trivial) (kobs : Lets r .obs := by trivial) (kvs : Lets r .vs := by trivial) : Keeps r (redResyncStep a0 a1 a2) := by
  unfold redResyncStep; try dsimp only
  repeat' first | with_reducible assumption | (intro _) | with_reducible apply redDeliver_keeps | with_reducible apply report_keeps | with_reducible apply sendResync_keeps | with_reducible apply modNode_keeps | with_reducible apply modRed_keeps | with_reducible apply keeps_foldl

theorem execResyncQuiet_keeps {r a0 a1} (h1 : Keeps r a1) (kfab : Lets r .fab := by trivial) (kinteg : Lets r .integ := by trivial) (kmem : Lets r .mem := by trivial) (know : Lets r .now := by trivial) (kobs : Lets r .obs := by trivial) (kvs : Lets r .vs := by trivial) : KeepsO r (execResyncQuiet a0 a1) := by
  unfold execResyncQuiet; try dsimp only
  repeat' first | with_reducible assumption | (intro _) | with_reducible apply redResyncStep_keeps | with_reducible apply timeReaches_keeps | with_reducible apply sendResync_keeps | with_reducible apply modRed_keeps | with_reducible apply keeps_next | with_reducible apply keepsO_ite | with_reducible apply keeps_foldl

theorem execRedResync_keeps {r a0 a1 a2} (h2 : Keeps r a2) (kfab : Lets r .fab := by trivial) (kvs : Lets r .vs := by trivial) : KeepsO r (execRedResync a0 a1 a2) := by
  unfold execRedResync; try dsimp only
  repeat' first | with_reducible assumption | (intro _) | with_reducible apply onArrival_keeps | with_reducible apply modNode_keeps | with_reducible apply keeps_ite

end Sys2Proof.Machine
end

