-- ==== Sys2Proof/Laws/KeepReset.lean ====
section
/-!
SUPPORT. Laws/KeepReset.lean: what the operations of Machine/Reset.lean keep (Laws/Keep.lean).
-/
namespace Sys2Proof.Machine

theorem resetTiles_keeps {r a0 a1} (h0 : Keeps r a0) (kfab : Lets r .fab := by trivial) (kinteg : Lets r .integ := by trivial) (kobs : Lets r .obs := by trivial) (kpart : Lets r .part := by trivial) (ktime : Lets r .time := by trivial) (kvs : Lets r .vs := by trivial) : Keeps r (resetTiles a0 a1) := by
  unfold resetTiles; try dsimp only
  repeat' first | with_reducible assumption | with_reducible apply modFab_keeps | with_reducible apply modVs_keeps | with_reducible apply modObs_keeps | with_reducible apply modTime_keeps | with_reducible apply modInteg_keeps | with_reducible apply modPart_keeps

theorem redSweep_keeps {r a0} (h0 : Keeps r a0) (kfab : Lets r .fab := by trivial) (kinteg : Lets r .integ := by trivial) (kmem : Lets r .mem := by trivial) (kobs : Lets r .obs := by trivial) (kport : Lets r .port := by trivial) (kvs : Lets r .vs := by trivial) : Keeps r (redSweep a0) := by
  unfold redSweep; try dsimp only
  repeat' first | with_reducible assumption | (intro _) | with_reducible apply redAdvance_keeps | with_reducible apply keeps_ite | with_reducible apply keeps_foldl

theorem pruneVat_keeps {r a0 a1} (h0 : Keeps r a0) (kfab : Lets r .fab := by trivial) (kinteg : Lets r .integ := by trivial) (kobs : Lets r .obs := by trivial) (kport : Lets r .port := by trivial) (kvs : Lets r .vs := by trivial) : Keeps r (pruneVat a0 a1) := by
  unfold pruneVat; try dsimp only
  repeat' first | with_reducible assumption | (intro _) | with_reducible apply mcPrune_keeps | with_reducible apply keeps_ite | with_reducible apply keeps_foldl

end Sys2Proof.Machine
end

