-- ==== Sys2Proof/Laws/KeepIntegrity.lean ====
section
/-!
SUPPORT. Laws/KeepIntegrity.lean: what the operations of Machine/Integrity.lean keep (Laws/Keep.lean).
-/
namespace Sys2Proof.Machine

theorem modCan_keeps {r a0 a1 a2} (h0 : Keeps r a0) (kdict : Lets r .dict := by trivial) : Keeps r (modCan a0 a1 a2) := by
  unfold modCan; try dsimp only
  repeat' first | with_reducible assumption | with_reducible apply modDict_keeps

theorem canSend_keeps {r a0 a1 a2 a3 a4} (h0 : Keeps r a0) (kout : Lets r .out := by trivial) : Keeps r (canSend a0 a1 a2 a3 a4) := by
  unfold canSend; try dsimp only
  repeat' first | with_reducible assumption | with_reducible apply emitOut_keeps | with_reducible apply keeps_ite

theorem mirrorLog_keeps {r a0} (h0 : Keeps r a0) (kinteg : Lets r .integ := by trivial) : Keeps r (mirrorLog a0) := by
  unfold mirrorLog; try dsimp only
  repeat' first | with_reducible assumption | with_reducible apply modInteg_keeps | with_reducible apply keeps_ite

theorem execErrorLogRecord_keeps {r a0} (h0 : Keeps r a0) (kinteg : Lets r .integ := by trivial) (kout : Lets r .out := by trivial) : KeepsO r (execErrorLogRecord a0) := by
  unfold execErrorLogRecord; try dsimp only
  repeat' first | with_reducible assumption | (intro _) | with_reducible apply modInteg_keeps | with_reducible apply mirrorLog_keeps | with_reducible apply canSend_keeps | with_reducible apply keeps_next | with_reducible apply keepsO_ite | with_reducible apply keeps_foldl | split

theorem execHeldReportPoll_keeps {r a0 a1 a2} (h2 : Keeps r a2) (kinteg : Lets r .integ := by trivial) (kobs : Lets r .obs := by trivial) : KeepsO r (execHeldReportPoll a0 a1 a2) := by
  unfold execHeldReportPoll; try dsimp only
  repeat' first | with_reducible assumption | with_reducible apply modInteg_keeps | with_reducible apply report_keeps | with_reducible apply keeps_next | with_reducible apply keepsO_ite

theorem execTableEntryRewrite_keeps {r a0 a1 a2 a3} (h3 : Keeps r a3) (kinteg : Lets r .integ := by trivial) : KeepsO r (execTableEntryRewrite a0 a1 a2 a3) := by
  unfold execTableEntryRewrite; try dsimp only
  repeat' first | with_reducible assumption | with_reducible apply modInteg_keeps | with_reducible apply keeps_next

theorem eccCorrected_keeps {r a0 a1 a2} (h0 : Keeps r a0) (kinteg : Lets r .integ := by trivial) (kobs : Lets r .obs := by trivial) : Keeps r (eccCorrected a0 a1 a2) := by
  unfold eccCorrected; try dsimp only
  repeat' first | with_reducible assumption | with_reducible apply report_keeps | with_reducible apply modInteg_keeps | split

theorem execSramScrub_keeps {r a0 a1 a2} (h2 : Keeps r a2) (kinteg : Lets r .integ := by trivial) (kobs : Lets r .obs := by trivial) : KeepsO r (execSramScrub a0 a1 a2) := by
  unfold execSramScrub; try dsimp only
  repeat' first | with_reducible assumption | with_reducible apply eccCorrected_keeps | with_reducible apply modInteg_keeps | with_reducible apply ueReport_keeps | with_reducible apply keeps_next | with_reducible apply keepsO_ite | split

theorem failWaitsOn_keeps {r a0 a1} (h0 : Keeps r a0) (kfab : Lets r .fab := by trivial) (kinteg : Lets r .integ := by trivial) (kobs : Lets r .obs := by trivial) (kport : Lets r .port := by trivial) (kvs : Lets r .vs := by trivial) : Keeps r (failWaitsOn a0 a1) := by
  unfold failWaitsOn; try dsimp only
  repeat' first | with_reducible assumption | (intro _) | with_reducible apply fibreFault_keeps | with_reducible apply seqTrap_keeps | with_reducible apply keeps_ite | with_reducible apply keeps_foldl | split

theorem loseDie_keeps {r a0 a1} (h0 : Keeps r a0) (kep : Lets r .ep := by trivial) (kfab : Lets r .fab := by trivial) (kinteg : Lets r .integ := by trivial) (kmem : Lets r .mem := by trivial) (kobs : Lets r .obs := by trivial) (kpart : Lets r .part := by trivial) (kport : Lets r .port := by trivial) (kpow : Lets r .pow := by trivial) (ktime : Lets r .time := by trivial) (kvs : Lets r .vs := by trivial) : Keeps r (loseDie a0 a1) := by
  unfold loseDie; try dsimp only
  repeat' first | with_reducible assumption | with_reducible apply modEp_keeps | with_reducible apply modPow_keeps | with_reducible apply redSweep_keeps | with_reducible apply failWaitsOn_keeps | with_reducible apply resetTiles_keeps

theorem execVatDieLost_keeps {r a0 a1} (h1 : Keeps r a1) (kep : Lets r .ep := by trivial) (kfab : Lets r .fab := by trivial) (kinteg : Lets r .integ := by trivial) (kmem : Lets r .mem := by trivial) (kobs : Lets r .obs := by trivial) (kout : Lets r .out := by trivial) (kpart : Lets r .part := by trivial) (kport : Lets r .port := by trivial) (kpow : Lets r .pow := by trivial) (ktime : Lets r .time := by trivial) (kvs : Lets r .vs := by trivial) : KeepsO r (execVatDieLost a0 a1) := by
  unfold execVatDieLost; try dsimp only
  repeat' first | with_reducible assumption | (intro _) | with_reducible apply withDevice_keeps | with_reducible apply loseDie_keeps | with_reducible apply modPart_keeps | with_reducible apply report_keeps | with_reducible apply failPartition_keeps | with_reducible apply pruneVat_keeps | with_reducible apply keeps_next | with_reducible apply keepsO_ite

theorem execDeckleDieLost_keeps {r a0 a1} (h1 : Keeps r a1) (kep : Lets r .ep := by trivial) (kfab : Lets r .fab := by trivial) (kinteg : Lets r .integ := by trivial) (kmem : Lets r .mem := by trivial) (kobs : Lets r .obs := by trivial) (kout : Lets r .out := by trivial) (kpart : Lets r .part := by trivial) (kport : Lets r .port := by trivial) (kpow : Lets r .pow := by trivial) (ktime : Lets r .time := by trivial) (kvs : Lets r .vs := by trivial) : KeepsO r (execDeckleDieLost a0 a1) := by
  unfold execDeckleDieLost
  dsimp only
  split
  · exact h1
  refine withDevice_keeps (fun s hs => ?_) h1
  refine keeps_ite (report_keeps ?_) (keeps_foldl (fun s p hs => ?_) _ ?_)
  · exact modPortOf_keeps (modPart_keeps (loseDie_keeps hs)) fun _ hp => hp
  · exact keeps_ite (failPartition_keeps (report_keeps hs)) (report_keeps hs)
  · exact modPortOf_keeps (modPart_keeps (loseDie_keeps hs)) fun _ hp => hp

theorem execMgmtFailover_keeps {r a0} (h0 : Keeps r a0) (kdict : Lets r .dict := by trivial) (kinteg : Lets r .integ := by trivial) (kobs : Lets r .obs := by trivial) (kout : Lets r .out := by trivial) (kport : Lets r .port := by trivial) (kpow : Lets r .pow := by trivial) (ktime : Lets r .time := by trivial) : KeepsO r (execMgmtFailover a0) := by
  unfold execMgmtFailover; try dsimp only
  repeat' first | with_reducible assumption | (intro _) | with_reducible apply withDevice_keeps | with_reducible apply modPow_keeps | with_reducible apply modDict_keeps | with_reducible apply modInteg_keeps | with_reducible apply modTime_keeps | with_reducible apply report_keeps | with_reducible apply keeps_next | with_reducible apply keepsO_ite

theorem execMgmtLost_keeps {r a0} (h0 : Keeps r a0) (kout : Lets r .out := by trivial) (kport : Lets r .port := by trivial) (kpow : Lets r .pow := by trivial) : KeepsO r (execMgmtLost a0) := by
  unfold execMgmtLost; try dsimp only
  repeat' first | with_reducible assumption | (intro _) | with_reducible apply withDevice_keeps | with_reducible apply modPow_keeps | with_reducible apply keeps_next | with_reducible apply keepsO_ite

theorem execHostCompletion_keeps {r a0 a1 a2 a3 a4} (h4 : Keeps r a4) (kfab : Lets r .fab := by trivial) (kinteg : Lets r .integ := by trivial) (kobs : Lets r .obs := by trivial) (kout : Lets r .out := by trivial) (kport : Lets r .port := by trivial) : KeepsO r (execHostCompletion a0 a1 a2 a3 a4) := by
  unfold execHostCompletion; try dsimp only
  repeat' first | with_reducible assumption | exact fun (_ : Port) hp => hp | with_reducible apply modPortOf_keeps | with_reducible apply rxPerformed_keeps | with_reducible apply response_keeps | with_reducible apply tlpFault_keeps | with_reducible apply portFault_keeps | with_reducible apply keeps_next | split

end Sys2Proof.Machine
end

