-- ==== Sys2Proof/Laws/KeepCross.lean ====
section
/-!
SUPPORT. Laws/KeepCross.lean: what the operations of Machine/Cross.lean keep (Laws/Keep.lean).
-/
namespace Sys2Proof.Machine

theorem setLink_keeps {r a0 a1 a2 a3} (h0 : Keeps r a0) (kfab : Lets r .fab := by trivial) (kobs : Lets r .obs := by trivial) : Keeps r (setLink a0 a1 a2 a3) := by
  unfold setLink; try dsimp only
  repeat' first | with_reducible assumption | with_reducible apply event_keeps | with_reducible apply modFab_keeps

theorem aliveSide_keeps {r a0 a1 a2 a3} (h0 : Keeps r a0) (kobs : Lets r .obs := by trivial) (ktime : Lets r .time := by trivial) : Keeps r (aliveSide a0 a1 a2 a3) := by
  unfold aliveSide; try dsimp only
  repeat' first | with_reducible assumption | with_reducible apply modTime_keeps | with_reducible apply modObs_keeps | with_reducible apply keeps_ite

theorem realiveTiles_keeps {r a0 a1 a2 a3} (h0 : Keeps r a0) (kobs : Lets r .obs := by trivial) (ktime : Lets r .time := by trivial) : Keeps r (realiveTiles a0 a1 a2 a3) := by
  unfold realiveTiles; try dsimp only
  repeat' first | with_reducible assumption | with_reducible apply aliveSide_keeps | with_reducible apply modTime_keeps

theorem linkFails_keeps {r a0 a1 a2 a3} (h0 : Keeps r a0) (kep : Lets r .ep := by trivial) (kfab : Lets r .fab := by trivial) (kinteg : Lets r .integ := by trivial) (kmem : Lets r .mem := by trivial) (kobs : Lets r .obs := by trivial) (kport : Lets r .port := by trivial) (ktime : Lets r .time := by trivial) (kvs : Lets r .vs := by trivial) : Keeps r (linkFails a0 a1 a2 a3) := by
  unfold linkFails; try dsimp only
  repeat' first | with_reducible assumption | with_reducible apply failLink_keeps | with_reducible apply redSweep_keeps | with_reducible apply modEp_keeps | with_reducible apply keeps_ite

theorem execLinkBringUp_keeps {r a0 a1 a2 a3 a4 a5 a6} (h6 : Keeps r a6) (kep : Lets r .ep := by trivial) (kfab : Lets r .fab := by trivial) (kinteg : Lets r .integ := by trivial) (kmem : Lets r .mem := by trivial) (kobs : Lets r .obs := by trivial) (kport : Lets r .port := by trivial) (ktime : Lets r .time := by trivial) (kvs : Lets r .vs := by trivial) : KeepsO r (execLinkBringUp a0 a1 a2 a3 a4 a5 a6) := by
  unfold execLinkBringUp; try dsimp only
  repeat' first | with_reducible assumption | with_reducible apply modFab_keeps | with_reducible apply setLink_keeps | with_reducible apply realiveTiles_keeps | with_reducible apply linkFails_keeps | with_reducible apply keeps_next | with_reducible apply keepsO_ite | split

theorem execLinkFailure_keeps {r a0 a1 a2} (h2 : Keeps r a2) (kep : Lets r .ep := by trivial) (kfab : Lets r .fab := by trivial) (kinteg : Lets r .integ := by trivial) (kmem : Lets r .mem := by trivial) (kobs : Lets r .obs := by trivial) (kout : Lets r .out := by trivial) (kport : Lets r .port := by trivial) (kpow : Lets r .pow := by trivial) (ktime : Lets r .time := by trivial) (kvs : Lets r .vs := by trivial) : KeepsO r (execLinkFailure a0 a1 a2) := by
  unfold execLinkFailure; try dsimp only
  repeat' first | with_reducible assumption | (intro _) | with_reducible apply withDevice_keeps | with_reducible apply linkFails_keeps | with_reducible apply keeps_next | with_reducible apply keepsO_ite

theorem execLinkRetrain_keeps {r a0 a1 a2 a3} (h3 : Keeps r a3) (kep : Lets r .ep := by trivial) (kfab : Lets r .fab := by trivial) (kinteg : Lets r .integ := by trivial) (kmem : Lets r .mem := by trivial) (kobs : Lets r .obs := by trivial) (kout : Lets r .out := by trivial) (kport : Lets r .port := by trivial) (kpow : Lets r .pow := by trivial) (ktime : Lets r .time := by trivial) (kvs : Lets r .vs := by trivial) : KeepsO r (execLinkRetrain a0 a1 a2 a3) := by
  unfold execLinkRetrain; try dsimp only
  repeat' first | with_reducible assumption | (intro _) | with_reducible apply setLink_keeps | with_reducible apply withDevice_keeps | with_reducible apply linkFails_keeps | with_reducible apply keeps_next | with_reducible apply keepsO_ite

theorem execLinkCrcRetry_keeps {r a0 a1 a2} (h2 : Keeps r a2) (kfab : Lets r .fab := by trivial) : KeepsO r (execLinkCrcRetry a0 a1 a2) := by
  unfold execLinkCrcRetry; try dsimp only
  repeat' first | with_reducible assumption | with_reducible apply modFab_keeps | with_reducible apply keeps_next | with_reducible apply keepsO_ite

theorem fenceIsland_keeps {r a0 a1 a2} (h0 : Keeps r a0) (kinteg : Lets r .integ := by trivial) (kobs : Lets r .obs := by trivial) (ktime : Lets r .time := by trivial) : Keeps r (fenceIsland a0 a1 a2) := by
  unfold fenceIsland; try dsimp only
  repeat' first | with_reducible assumption | with_reducible apply modTime_keeps | with_reducible apply report_keeps | with_reducible apply keeps_ite

theorem fenceLink_keeps {r a0 a1 a2} (h0 : Keeps r a0) (kep : Lets r .ep := by trivial) (kfab : Lets r .fab := by trivial) (kinteg : Lets r .integ := by trivial) (kmem : Lets r .mem := by trivial) (kobs : Lets r .obs := by trivial) (kport : Lets r .port := by trivial) (ktime : Lets r .time := by trivial) (kvs : Lets r .vs := by trivial) : Keeps r (fenceLink a0 a1 a2) := by
  unfold fenceLink; try dsimp only
  repeat' first | with_reducible assumption | with_reducible apply fenceSide_keeps | with_reducible apply setLink_keeps | with_reducible apply report_keeps | with_reducible apply modEp_keeps | with_reducible apply redSweep_keeps | with_reducible apply keeps_ite

theorem execAliveFall_keeps {r a0 a1 a2} (h2 : Keeps r a2) (kep : Lets r .ep := by trivial) (kfab : Lets r .fab := by trivial) (kinteg : Lets r .integ := by trivial) (kmem : Lets r .mem := by trivial) (kobs : Lets r .obs := by trivial) (kout : Lets r .out := by trivial) (kport : Lets r .port := by trivial) (kpow : Lets r .pow := by trivial) (ktime : Lets r .time := by trivial) (kvs : Lets r .vs := by trivial) : KeepsO r (execAliveFall a0 a1 a2) := by
  unfold execAliveFall; try dsimp only
  repeat' first | with_reducible assumption | (intro _) | with_reducible apply fenceIsland_keeps | with_reducible apply withDevice_keeps | with_reducible apply fenceLink_keeps | with_reducible apply keeps_next | with_reducible apply keepsO_ite | split

theorem execHandshakeTimeout_keeps {r a0 a1 a2 a3} (h3 : Keeps r a3) (kep : Lets r .ep := by trivial) (kfab : Lets r .fab := by trivial) (kinteg : Lets r .integ := by trivial) (kmem : Lets r .mem := by trivial) (kobs : Lets r .obs := by trivial) (kport : Lets r .port := by trivial) (ktime : Lets r .time := by trivial) (kvs : Lets r .vs := by trivial) : KeepsO r (execHandshakeTimeout a0 a1 a2 a3) := by
  unfold execHandshakeTimeout; try dsimp only
  repeat' first | with_reducible assumption | with_reducible apply report_keeps | with_reducible apply modTime_keeps | with_reducible apply fenceIsland_keeps | with_reducible apply fenceLink_keeps | with_reducible apply keeps_next | with_reducible apply keepsO_ite | split

theorem execRealive_keeps {r a0 a1 a2} (h2 : Keeps r a2) (kfab : Lets r .fab := by trivial) (kobs : Lets r .obs := by trivial) (kout : Lets r .out := by trivial) (kport : Lets r .port := by trivial) (kpow : Lets r .pow := by trivial) (ktime : Lets r .time := by trivial) : KeepsO r (execRealive a0 a1 a2) := by
  unfold execRealive; try dsimp only
  repeat' first | with_reducible assumption | (intro _) | with_reducible apply aliveSide_keeps | with_reducible apply modTime_keeps | with_reducible apply withDevice_keeps | with_reducible apply setLink_keeps | with_reducible apply realiveTiles_keeps | with_reducible apply keeps_next | with_reducible apply keepsO_ite | split

theorem crossingClear_keeps {r a0 a1} (h0 : Keeps r a0) (kobs : Lets r .obs := by trivial) (ktime : Lets r .time := by trivial) : Keeps r (crossingClear a0 a1) := by
  unfold crossingClear; try dsimp only
  repeat' first | with_reducible assumption | with_reducible apply modTime_keeps | with_reducible apply modObs_keeps

theorem eventMerged_keeps {r a0 a1 a2} (h0 : Keeps r a0) (kinteg : Lets r .integ := by trivial) (kobs : Lets r .obs := by trivial) (ktime : Lets r .time := by trivial) : Keeps r (eventMerged a0 a1 a2) := by
  unfold eventMerged; try dsimp only
  repeat' first | with_reducible assumption | with_reducible apply modTime_keeps | with_reducible apply report_keeps

theorem execFreqLimited_keeps {r a0 a1} (h1 : Keeps r a1) (kinteg : Lets r .integ := by trivial) (kobs : Lets r .obs := by trivial) (ktime : Lets r .time := by trivial) : KeepsO r (execFreqLimited a0 a1) := by
  unfold execFreqLimited; try dsimp only
  repeat' first | with_reducible assumption | with_reducible apply modTime_keeps | with_reducible apply report_keeps | with_reducible apply keeps_next | with_reducible apply keepsO_ite

end Sys2Proof.Machine
end

