-- ==== Sys2Proof/Laws/KeepTime.lean ====
section
/-!
SUPPORT. Laws/KeepTime.lean: what the operations of Machine/Time.lean keep (Laws/Keep.lean).
-/
namespace Sys2Proof.Machine

theorem modUnit_keeps {r a0 a1 a2} (h0 : Keeps r a0) (ktime : Lets r .time := by trivial) : Keeps r (modUnit a0 a1 a2) := by
  unfold modUnit; try dsimp only
  repeat' first | with_reducible assumption | with_reducible apply modTime_keeps

theorem timeReport_keeps {r a0 a1 a2 a3} (h0 : Keeps r a0) (kinteg : Lets r .integ := by trivial) (kobs : Lets r .obs := by trivial) : Keeps r (timeReport a0 a1 a2 a3) := by
  unfold timeReport; try dsimp only
  repeat' first | with_reducible assumption | with_reducible apply report_keeps

theorem execRefclkLost_keeps {r a0} (h0 : Keeps r a0) (kinteg : Lets r .integ := by trivial) (kobs : Lets r .obs := by trivial) (ktime : Lets r .time := by trivial) : KeepsO r (execRefclkLost a0) := by
  unfold execRefclkLost; try dsimp only
  repeat' first | with_reducible assumption | with_reducible apply timeReport_keeps | with_reducible apply modTime_keeps | with_reducible apply keeps_next | with_reducible apply keepsO_ite

theorem execRefclkReturn_keeps {r a0} (h0 : Keeps r a0) (ktime : Lets r .time := by trivial) : KeepsO r (execRefclkReturn a0) := by
  unfold execRefclkReturn; try dsimp only
  repeat' first | with_reducible assumption | with_reducible apply modTime_keeps | with_reducible apply keeps_next | with_reducible apply keepsO_ite

theorem execTimeTreeRecompute_keeps {r a0} (h0 : Keeps r a0) (ktime : Lets r .time := by trivial) : KeepsO r (execTimeTreeRecompute a0) := by
  unfold execTimeTreeRecompute; try dsimp only
  repeat' first | with_reducible assumption | (intro _) | with_reducible apply modUnit_keeps | with_reducible apply keeps_next | with_reducible apply keepsO_ite | with_reducible apply keeps_ite | with_reducible apply keeps_foldl

theorem sendTime_keeps {r a0 a1 a2 a3 a4} (h0 : Keeps r a0) (kfab : Lets r .fab := by trivial) : Keeps r (sendTime a0 a1 a2 a3 a4) := by
  unfold sendTime; try dsimp only
  repeat' first | with_reducible assumption | with_reducible apply send_keeps

theorem execTimeSyncSend_keeps {r a0 a1} (h1 : Keeps r a1) (kfab : Lets r .fab := by trivial) (ktime : Lets r .time := by trivial) : KeepsO r (execTimeSyncSend a0 a1) := by
  unfold execTimeSyncSend; try dsimp only
  repeat' first | with_reducible assumption | (intro _) | with_reducible apply sendTime_keeps | with_reducible apply modUnit_keeps | with_reducible apply keeps_next | with_reducible apply keepsO_ite | with_reducible apply keeps_foldl

theorem execDelayPeriod_keeps {r a0 a1} (h1 : Keeps r a1) (kfab : Lets r .fab := by trivial) : KeepsO r (execDelayPeriod a0 a1) := by
  unfold execDelayPeriod; try dsimp only
  repeat' first | with_reducible assumption | with_reducible apply sendTime_keeps | with_reducible apply keeps_next | with_reducible apply keepsO_ite | split

theorem slew_keeps {r a0 a1 a2} (h0 : Keeps r a0) (kfree : Lets r .free := by trivial) : Keeps r (slew a0 a1 a2).2 := by
  unfold slew; try dsimp only
  repeat' first | with_reducible assumption | with_reducible apply draw_keeps

theorem takeSync_keeps {r a0 a1 a2 a3} (h0 : Keeps r a0) (kfree : Lets r .free := by trivial) (kinteg : Lets r .integ := by trivial) (kobs : Lets r .obs := by trivial) (ktime : Lets r .time := by trivial) : Keeps r (takeSync a0 a1 a2 a3) := by
  unfold takeSync; try dsimp only
  repeat' first | with_reducible assumption | with_reducible apply slew_keeps | with_reducible apply modUnit_keeps | with_reducible apply timeReport_keeps | with_reducible apply modTime_keeps | with_reducible apply keeps_ite | with_reducible apply keepsP_ite

theorem execTimeSync_keeps {r a0 a1 a2 a3} (h3 : Keeps r a3) (kfab : Lets r .fab := by trivial) (kfree : Lets r .free := by trivial) (kinteg : Lets r .integ := by trivial) (kobs : Lets r .obs := by trivial) (ktime : Lets r .time := by trivial) : KeepsO r (execTimeSync a0 a1 a2 a3) := by
  unfold execTimeSync; try dsimp only
  repeat' first | with_reducible assumption | (intro _) | with_reducible apply onArrival_keeps | with_reducible apply modTime_keeps | with_reducible apply takeSync_keeps | with_reducible apply keeps_ite

theorem execDelayReq_keeps {r a0 a1 a2 a3} (h3 : Keeps r a3) (kfab : Lets r .fab := by trivial) : KeepsO r (execDelayReq a0 a1 a2 a3) := by
  unfold execDelayReq; try dsimp only
  repeat' first | with_reducible assumption | (intro _) | with_reducible apply onArrival_keeps | with_reducible apply sendTime_keeps | with_reducible apply keeps_ite

theorem execDelayRsp_keeps {r a0 a1 a2 a3} (h3 : Keeps r a3) (kfab : Lets r .fab := by trivial) (ktime : Lets r .time := by trivial) : KeepsO r (execDelayRsp a0 a1 a2 a3) := by
  unfold execDelayRsp; try dsimp only
  repeat' first | with_reducible assumption | (intro _) | with_reducible apply onArrival_keeps | with_reducible apply modUnit_keeps | with_reducible apply keeps_ite | split

theorem execSyncSilence_keeps {r a0 a1} (h1 : Keeps r a1) (know : Lets r .now := by trivial) (ktime : Lets r .time := by trivial) : KeepsO r (execSyncSilence a0 a1) := by
  unfold execSyncSilence; try dsimp only
  repeat' first | with_reducible assumption | with_reducible apply timeReaches_keeps | with_reducible apply modUnit_keeps | with_reducible apply keeps_next | with_reducible apply keepsO_ite

theorem execHoldoverExpired_keeps {r a0 a1} (h1 : Keeps r a1) (kinteg : Lets r .integ := by trivial) (know : Lets r .now := by trivial) (kobs : Lets r .obs := by trivial) (ktime : Lets r .time := by trivial) : KeepsO r (execHoldoverExpired a0 a1) := by
  unfold execHoldoverExpired; try dsimp only
  repeat' first | with_reducible assumption | with_reducible apply timeReaches_keeps | with_reducible apply modUnit_keeps | with_reducible apply timeReport_keeps | with_reducible apply modTime_keeps | with_reducible apply keeps_next | with_reducible apply keepsO_ite

theorem setRate_keeps {r a0 a1} (h0 : Keeps r a0) (ktime : Lets r .time := by trivial) : Keeps r (setRate a0 a1) := by
  unfold setRate; try dsimp only
  repeat' first | with_reducible assumption | with_reducible apply modTime_keeps

theorem execPpsEdge_keeps {r a0 a1 a2} (h2 : Keeps r a2) (kinteg : Lets r .integ := by trivial) (kobs : Lets r .obs := by trivial) (ktime : Lets r .time := by trivial) : KeepsO r (execPpsEdge a0 a1 a2) := by
  unfold execPpsEdge; try dsimp only
  repeat' first | with_reducible assumption | with_reducible apply modTime_keeps | with_reducible apply timeReport_keeps | with_reducible apply setRate_keeps | with_reducible apply keeps_next | with_reducible apply keepsO_ite

theorem execPpsLost_keeps {r a0} (h0 : Keeps r a0) (kinteg : Lets r .integ := by trivial) (know : Lets r .now := by trivial) (kobs : Lets r .obs := by trivial) (ktime : Lets r .time := by trivial) : KeepsO r (execPpsLost a0) := by
  unfold execPpsLost; try dsimp only
  repeat' first | with_reducible assumption | with_reducible apply timeReaches_keeps | with_reducible apply timeReport_keeps | with_reducible apply modTime_keeps | with_reducible apply keeps_next | with_reducible apply keepsO_ite

end Sys2Proof.Machine
end

