-- ==== Sys2Proof/Laws/KeepLedBase.lean ====
section
/-!
SUPPORT. Laws/KeepLedBase.lean: what the operations of Machine/LedBase.lean keep (Laws/Keep.lean).
-/
namespace Sys2Proof.Machine

theorem modChain_keeps {r a0 a1 a2} (h0 : Keeps r a0) (kled : Lets r .led := by trivial) : Keeps r (modChain a0 a1 a2) := by
  unfold modChain; try dsimp only
  repeat' first | with_reducible assumption | with_reducible apply modLedger_keeps

theorem assignSeal_keeps {r a0 a1 a2} (h0 : Keeps r a0) (kled : Lets r .led := by trivial) : Keeps r (assignSeal a0 a1 a2) := by
  unfold assignSeal; try dsimp only
  repeat' first | with_reducible assumption | with_reducible apply modChain_keeps | with_reducible apply keeps_ite

theorem assignNumber_keeps {r a0 a1} (h0 : Keeps r a0) (kfree : Lets r .free := by trivial) (kled : Lets r .led := by trivial) : Keeps r (assignNumber a0 a1).2.2 := by
  unfold assignNumber; try dsimp only
  repeat' first | with_reducible assumption | with_reducible apply draw_keeps | with_reducible apply assignSeal_keeps | with_reducible apply modChain_keeps | with_reducible apply keeps_ite | split

theorem ledCount_keeps {r a0 a1 a2 a3} (h0 : Keeps r a0) (kled : Lets r .led := by trivial) : Keeps r (ledCount a0 a1 a2 a3) := by
  unfold ledCount; try dsimp only
  repeat' first | with_reducible assumption | with_reducible apply modLedger_keeps

theorem ledReport_keeps {r a0 a1 a2 a3 a4} (h0 : Keeps r a0) (kinteg : Lets r .integ := by trivial) (kobs : Lets r .obs := by trivial) : Keeps r (ledReport a0 a1 a2 a3 a4) := by
  unfold ledReport; try dsimp only
  repeat' first | with_reducible assumption | with_reducible apply report_keeps

theorem queuePage_keeps {r a0 a1 a2 a3} (h0 : Keeps r a0) (kled : Lets r .led := by trivial) : Keeps r (queuePage a0 a1 a2 a3) := by
  unfold queuePage; try dsimp only
  repeat' first | with_reducible assumption | with_reducible apply modLedger_keeps | with_reducible apply keeps_ite

theorem queueTail_keeps {r a0 a1} (h0 : Keeps r a0) (kled : Lets r .led := by trivial) : Keeps r (queueTail a0 a1) := by
  unfold queueTail; try dsimp only
  repeat' first | with_reducible assumption | with_reducible apply modLedger_keeps | with_reducible apply keeps_ite

theorem chainPut_keeps {r a0 a1 a2} (h0 : Keeps r a0) (kled : Lets r .led := by trivial) : Keeps r (chainPut a0 a1 a2) := by
  unfold chainPut; try dsimp only
  repeat' first | with_reducible assumption | with_reducible apply modChain_keeps | with_reducible apply ledCount_keeps | with_reducible apply queuePage_keeps | with_reducible apply keeps_ite

theorem chainOne_keeps {r a0 a1 a2} (h0 : Keeps r a0) (kinteg : Lets r .integ := by trivial) (kled : Lets r .led := by trivial) (kobs : Lets r .obs := by trivial) : KeepsM r (chainOne a0 a1 a2) := by
  unfold chainOne; try dsimp only
  repeat' first | with_reducible assumption | with_reducible apply chainPut_keeps | with_reducible apply modChain_keeps | with_reducible apply ledReport_keeps | with_reducible apply keeps_some | with_reducible exact keeps_none | with_reducible apply keepsM_ite | split

theorem chainLoop_keeps {r a0 a1 a2 a3} (h1 : Keeps r a1) (kinteg : Lets r .integ := by trivial) (kled : Lets r .led := by trivial) (kobs : Lets r .obs := by trivial) : Keeps r (chainLoop a0 a1 a2 a3) := by
  induction a0 generalizing a1 a2 a3 h1 with
  | zero =>
    unfold chainLoop; try dsimp only
    repeat' first | with_reducible assumption | with_reducible apply chainOne_keeps | split | with_reducible refine keeps_of_some ‹_› ?_
  | succ n ih =>
    unfold chainLoop; try dsimp only
    repeat' first | apply ih | with_reducible assumption | with_reducible apply chainOne_keeps | split | with_reducible refine keeps_of_some ‹_› ?_

theorem chainAdvance_keeps {r a0 a1 a2} (h0 : Keeps r a0) (kinteg : Lets r .integ := by trivial) (kled : Lets r .led := by trivial) (kobs : Lets r .obs := by trivial) : Keeps r (chainAdvance a0 a1 a2) := by
  unfold chainAdvance; try dsimp only
  repeat' first | with_reducible assumption | with_reducible apply chainLoop_keeps | with_reducible apply keeps_ite

theorem runEnd_keeps {r a0 a1} (h0 : Keeps r a0) (kled : Lets r .led := by trivial) : Keeps r (runEnd a0 a1) := by
  unfold runEnd; try dsimp only
  repeat' first | with_reducible assumption | with_reducible apply modChain_keeps | with_reducible apply keeps_ite | split

theorem journalGo_keeps {r a0 a1} (h0 : Keeps r a0) (kinteg : Lets r .integ := by trivial) (kled : Lets r .led := by trivial) (kobs : Lets r .obs := by trivial) : Keeps r (journalGo a0 a1) := by
  unfold journalGo; try dsimp only
  repeat' first | with_reducible assumption | with_reducible apply chainAdvance_keeps | with_reducible apply runEnd_keeps

end Sys2Proof.Machine
end

