-- ==== Sys2Proof/Laws/KeepAdmit.lean ====
section
/-!
SUPPORT. Laws/KeepAdmit.lean: what the operations of Machine/Admit.lean keep (Laws/Keep.lean).
-/
namespace Sys2Proof.Machine

theorem modReq_keeps {r a0 a1 a2 a3} (h0 : Keeps r a0) (kport : Lets r .port := by trivial) : Keeps r (modReq a0 a1 a2 a3) := by
  unfold modReq; try dsimp only
  repeat' first | with_reducible assumption | exact fun (_ : Port) hp => hp | with_reducible apply modPortOf_keeps

theorem portStat_keeps {r a0 a1 a2 a3} (h0 : Keeps r a0) (kport : Lets r .port := by trivial) : Keeps r (portStat a0 a1 a2 a3) := by
  unfold portStat; try dsimp only
  repeat' first | with_reducible assumption | exact fun (_ : Port) hp => hp | with_reducible apply modPortOf_keeps

theorem aqCount_keeps {r a0 a1 a2 a3} (h0 : Keeps r a0) (kport : Lets r .port := by trivial) : Keeps r (aqCount a0 a1 a2 a3) := by
  unfold aqCount; try dsimp only
  repeat' first | with_reducible assumption | with_reducible apply modAdm_keeps

theorem finishReq_keeps {r a0 a1 a2 a3} (h0 : Keeps r a0) (kport : Lets r .port := by trivial) : Keeps r (finishReq a0 a1 a2 a3) := by
  unfold finishReq; try dsimp only
  repeat' first | with_reducible assumption | with_reducible apply modReq_keeps

theorem refuseReq_keeps {r a0 a1 a2 a3 a4} (h0 : Keeps r a0) (kport : Lets r .port := by trivial) : Keeps r (refuseReq a0 a1 a2 a3 a4) := by
  unfold refuseReq; try dsimp only
  repeat' first | with_reducible assumption | with_reducible apply modAdm_keeps | with_reducible apply finishReq_keeps | with_reducible apply portStat_keeps

theorem meterReq_keeps {r a0 a1 a2 a3} (h0 : Keeps r a0) (kport : Lets r .port := by trivial) : Keeps r (meterReq a0 a1 a2 a3).2 := by
  unfold meterReq; try dsimp only
  repeat' first | with_reducible assumption | with_reducible apply modAdm_keeps | with_reducible apply keepsP_ite

theorem modAq_keeps {r a0 a1 a2 a3} (h0 : Keeps r a0) (kport : Lets r .port := by trivial) : Keeps r (modAq a0 a1 a2 a3) := by
  unfold modAq; try dsimp only
  repeat' first | with_reducible assumption | with_reducible apply modAdm_keeps

theorem moveCursor_keeps {r a0 a1 a2 a3} (h0 : Keeps r a0) (kport : Lets r .port := by trivial) : Keeps r (moveCursor a0 a1 a2 a3) := by
  unfold moveCursor; try dsimp only
  repeat' first | with_reducible assumption | exact fun (_ : Port) hp => hp | exact fun (_ : PortState) hp => hp | exact fun (_ : SecState) => fuses_same rfl rfl | (intro _) | with_reducible apply modAq_keeps | with_reducible apply keeps_id | with_reducible apply keeps_some | with_reducible exact keeps_none | with_reducible apply keeps_ite | with_reducible apply keepsM_ite | with_reducible apply keepsP_ite | with_reducible apply keepsQ_ite | with_reducible apply keeps_foldl | with_reducible apply keeps_foldlP | with_reducible apply keeps_foldlQ | exact fun _ hp => hp | exact fun _ => fuses_same rfl rfl | with_reducible exact fuses_same rfl rfl | split | with_reducible exact keeps_of_snd ‹_› ‹_› | with_reducible exact keeps_of_fst ‹_› ‹_› | with_reducible refine keeps_of_snd ‹_› ?_ | with_reducible refine keeps_of_fst ‹_› ?_ | with_reducible refine keeps_of_trd ‹_› ?_ | with_reducible refine keeps_of_some ‹_› ?_ | with_reducible refine keeps_of_wref ‹_› ?_ | with_reducible refine keeps_of_wok ‹_› ?_ | with_reducible refine keeps_of_fwait ‹_› ?_ | with_reducible refine keeps_of_fbad ‹_› ?_

theorem enterQueue_keeps {r a0 a1 a2 a3} (h0 : Keeps r a0) (kport : Lets r .port := by trivial) : Keeps r (enterQueue a0 a1 a2 a3) := by
  unfold enterQueue; try dsimp only
  repeat' first | with_reducible assumption | with_reducible apply modAq_keeps | with_reducible apply modReq_keeps | with_reducible apply aqCount_keeps

theorem classifyReq_keeps {r a0 a1 a2} (h0 : Keeps r a0) (kport : Lets r .port := by trivial) : Keeps r (classifyReq a0 a1 a2) := by
  unfold classifyReq; try dsimp only
  repeat' first | with_reducible assumption | with_reducible apply modReq_keeps | with_reducible apply refuseReq_keeps | with_reducible apply aqCount_keeps | with_reducible apply meterReq_keeps | with_reducible apply enterQueue_keeps | with_reducible apply keeps_ite | split

theorem classifyAll_keeps {r a0 a1 a2 a3} (h1 : Keeps r a1) (kport : Lets r .port := by trivial) : Keeps r (classifyAll a0 a1 a2 a3) := by
  induction a0 generalizing a1 a2 a3 h1 with
  | zero =>
    unfold classifyAll; try dsimp only
    repeat' first | with_reducible assumption | with_reducible apply classifyReq_keeps | split
  | succ n ih =>
    unfold classifyAll; try dsimp only
    repeat' first | apply ih | with_reducible assumption | with_reducible apply classifyReq_keeps | split

theorem classifyQueue_keeps {r a0 a1 a2} (h0 : Keeps r a0) (kport : Lets r .port := by trivial) : Keeps r (classifyQueue a0 a1 a2) := by
  unfold classifyQueue; try dsimp only
  repeat' first | with_reducible assumption | with_reducible apply classifyAll_keeps

theorem drr_keeps {r a0 a1 a2 a3} (h1 : Keeps r a1) (kport : Lets r .port := by trivial) : Keeps r (drr a0 a1 a2 a3).2 := by
  induction a0 generalizing a1 a2 a3 h1 with
  | zero =>
    unfold drr; try dsimp only
    repeat' first | with_reducible assumption | with_reducible apply modAdm_keeps | with_reducible apply modAq_keeps | with_reducible apply keepsP_ite | with_reducible apply keeps_ite
  | succ n ih =>
    unfold drr; try dsimp only
    repeat' first | apply ih | with_reducible assumption | with_reducible apply modAdm_keeps | with_reducible apply modAq_keeps | with_reducible apply keepsP_ite | with_reducible apply keeps_ite

theorem decideNow_keeps {r a0 a1} (h0 : Keeps r a0) (kport : Lets r .port := by trivial) : Keeps r (decideNow a0 a1).2 := by
  unfold decideNow; try dsimp only
  repeat' first | with_reducible assumption | with_reducible apply drr_keeps | split | with_reducible refine keeps_of_snd ‹_› ?_

theorem dequeue_keeps {r a0 a1 a2 a3 a4} (h0 : Keeps r a0) (kport : Lets r .port := by trivial) : Keeps r (dequeue a0 a1 a2 a3 a4) := by
  unfold dequeue; try dsimp only
  repeat' first | with_reducible assumption | with_reducible apply moveCursor_keeps | with_reducible apply modAq_keeps | with_reducible apply aqCount_keeps

theorem admitScoring_keeps {r a0 a1 a2 a3} (h0 : Keeps r a0) (kfab : Lets r .fab := by trivial) (kfree : Lets r .free := by trivial) (kinteg : Lets r .integ := by trivial) (kled : Lets r .led := by trivial) (know : Lets r .now := by trivial) (kobs : Lets r .obs := by trivial) (kport : Lets r .port := by trivial) : Keeps r (admitScoring a0 a1 a2 a3) := by
  unfold admitScoring; try dsimp only
  repeat' first | with_reducible assumption | with_reducible apply advanceTo_keeps | with_reducible apply assignNumber_keeps | with_reducible apply modCtx_keeps | with_reducible apply modReq_keeps | with_reducible apply modAdm_keeps | with_reducible apply deliverInput_keeps | with_reducible apply ctxEvent_keeps | split

theorem noteWait_keeps {r a0 a1 a2 a3 a4} (h0 : Keeps r a0) (kport : Lets r .port := by trivial) : Keeps r (noteWait a0 a1 a2 a3 a4) := by
  unfold noteWait; try dsimp only
  repeat' first | with_reducible assumption | with_reducible apply modReq_keeps | with_reducible apply aqCount_keeps | with_reducible apply keeps_ite

theorem noteWaits_keeps {r a0 a1} (h0 : Keeps r a0) (kport : Lets r .port := by trivial) : Keeps r (noteWaits a0 a1) := by
  unfold noteWaits; try dsimp only
  repeat' first | with_reducible assumption | (intro _) | with_reducible apply modReq_keeps | with_reducible apply noteWait_keeps | with_reducible apply keeps_ite | with_reducible apply keeps_foldl | split

theorem refuseQueued_keeps {r a0 a1} (h0 : Keeps r a0) (kport : Lets r .port := by trivial) : Keeps r (refuseQueued a0 a1) := by
  unfold refuseQueued; try dsimp only
  repeat' first | with_reducible assumption | (intro _) | with_reducible apply refuseReq_keeps | with_reducible apply aqCount_keeps | with_reducible apply keeps_ite | with_reducible apply keeps_foldl | split

theorem decisionTick_keeps {r a0 a1} (h0 : Keeps r a0) (know : Lets r .now := by trivial) : Keeps r (decisionTick a0 a1) := by
  unfold decisionTick
  split
  · exact advanceTo_keeps h0
  · exact h0

theorem admitChosen_keeps {r a0 a1 a2 a3} (h0 : Keeps r a0) (kfab : Lets r .fab := by trivial) (kfree : Lets r .free := by trivial) (kinteg : Lets r .integ := by trivial) (kled : Lets r .led := by trivial) (know : Lets r .now := by trivial) (kobs : Lets r .obs := by trivial) (kport : Lets r .port := by trivial) : Keeps r (admitChosen a0 a1 a2 a3) := by
  unfold admitChosen; try dsimp only
  repeat' first | with_reducible assumption | with_reducible apply dequeue_keeps | with_reducible apply modAdm_keeps | with_reducible apply admitScoring_keeps | with_reducible apply modReq_keeps | with_reducible apply noteWaits_keeps | with_reducible apply keeps_ite | split

theorem decideOn_keeps {r a0 a1} (h0 : Keeps r a0) (kfab : Lets r .fab := by trivial) (kfree : Lets r .free := by trivial) (kinteg : Lets r .integ := by trivial) (kled : Lets r .led := by trivial) (know : Lets r .now := by trivial) (kobs : Lets r .obs := by trivial) (kport : Lets r .port := by trivial) : Keeps r (decideOn a0 a1) := by
  unfold decideOn
  dsimp only
  split
  · exact noteWaits_keeps (decideNow_keeps h0)
  · exact admitChosen_keeps (decideNow_keeps h0)

theorem execAdmissionDecision_keeps {r a0 a1} (h1 : Keeps r a1) (kfab : Lets r .fab := by trivial) (kfree : Lets r .free := by trivial) (kinteg : Lets r .integ := by trivial) (kled : Lets r .led := by trivial) (know : Lets r .now := by trivial) (kobs : Lets r .obs := by trivial) (kport : Lets r .port := by trivial) : KeepsO r (execAdmissionDecision a0 a1) := by
  unfold execAdmissionDecision; try dsimp only
  repeat' first | with_reducible assumption | with_reducible apply decideOn_keeps | with_reducible apply refuseQueued_keeps | with_reducible apply decisionTick_keeps | with_reducible apply keeps_next | with_reducible apply keepsO_ite

theorem execGateWindowOpen_keeps {r a0 a1 a2} (h2 : Keeps r a2) (know : Lets r .now := by trivial) (kport : Lets r .port := by trivial) : KeepsO r (execGateWindowOpen a0 a1 a2) := by
  unfold execGateWindowOpen; try dsimp only
  repeat' first | with_reducible assumption | exact fun (_ : Port) hp => hp | exact fun (_ : PortState) hp => hp | exact fun (_ : SecState) => fuses_same rfl rfl | (intro _) | with_reducible apply modAq_keeps | with_reducible apply timeReaches_keeps | with_reducible apply keeps_next | with_reducible exact keeps_refused | with_reducible apply keeps_id | with_reducible apply keeps_some | with_reducible exact keeps_none | with_reducible apply keepsO_ite | with_reducible apply keeps_ite | with_reducible apply keepsM_ite | with_reducible apply keepsP_ite | with_reducible apply keepsQ_ite | with_reducible apply keeps_foldl | with_reducible apply keeps_foldlP | with_reducible apply keeps_foldlQ | exact fun _ hp => hp | exact fun _ => fuses_same rfl rfl | with_reducible exact fuses_same rfl rfl | split | with_reducible exact keeps_of_snd ‹_› ‹_› | with_reducible exact keeps_of_fst ‹_› ‹_› | with_reducible refine keeps_of_snd ‹_› ?_ | with_reducible refine keeps_of_fst ‹_› ?_ | with_reducible refine keeps_of_trd ‹_› ?_ | with_reducible refine keeps_of_some ‹_› ?_ | with_reducible refine keeps_of_wref ‹_› ?_ | with_reducible refine keeps_of_wok ‹_› ?_ | with_reducible refine keeps_of_fwait ‹_› ?_ | with_reducible refine keeps_of_fbad ‹_› ?_

theorem execGateListSwitch_keeps {r a0 a1} (h1 : Keeps r a1) (kinteg : Lets r .integ := by trivial) (know : Lets r .now := by trivial) (kobs : Lets r .obs := by trivial) (kport : Lets r .port := by trivial) : KeepsO r (execGateListSwitch a0 a1) := by
  unfold execGateListSwitch; try dsimp only
  repeat' first | with_reducible assumption | (intro _) | with_reducible apply timeReaches_keeps | with_reducible apply modAdm_keeps | with_reducible apply refuseReq_keeps | with_reducible apply aqCount_keeps | with_reducible apply report_keeps | with_reducible apply keeps_next | with_reducible apply keeps_ite | with_reducible apply keeps_foldl | split

theorem execHeadStarved_keeps {r a0 a1 a2} (h2 : Keeps r a2) (kinteg : Lets r .integ := by trivial) (know : Lets r .now := by trivial) (kobs : Lets r .obs := by trivial) (kport : Lets r .port := by trivial) : KeepsO r (execHeadStarved a0 a1 a2) := by
  unfold execHeadStarved; try dsimp only
  repeat' first | with_reducible assumption | with_reducible apply timeReaches_keeps | with_reducible apply modReq_keeps | with_reducible apply report_keeps | with_reducible apply keeps_next | with_reducible apply keepsO_ite | split

theorem installAdmission_keeps {r a0 a1 a2} (h0 : Keeps r a0) (kinteg : Lets r .integ := by trivial) (kled : Lets r .led := by trivial) (kobs : Lets r .obs := by trivial) (kport : Lets r .port := by trivial) : Keeps r (installAdmission a0 a1 a2) := by
  unfold installAdmission; try dsimp only
  repeat' first | with_reducible assumption | exact fun (_ : Port) hp => hp | exact fun (_ : PortState) hp => hp | exact fun (_ : SecState) => fuses_same rfl rfl | (intro _) | with_reducible apply modAq_keeps | with_reducible apply modAdm_keeps | with_reducible apply journalGo_keeps | with_reducible apply assignSeal_keeps | with_reducible apply keeps_id | with_reducible apply keeps_some | with_reducible exact keeps_none | with_reducible apply keeps_ite | with_reducible apply keepsM_ite | with_reducible apply keepsP_ite | with_reducible apply keepsQ_ite | with_reducible apply keeps_foldl | with_reducible apply keeps_foldlP | with_reducible apply keeps_foldlQ | exact fun _ hp => hp | exact fun _ => fuses_same rfl rfl | with_reducible exact fuses_same rfl rfl | split | with_reducible exact keeps_of_snd ‹_› ‹_› | with_reducible exact keeps_of_fst ‹_› ‹_› | with_reducible refine keeps_of_snd ‹_› ?_ | with_reducible refine keeps_of_fst ‹_› ?_ | with_reducible refine keeps_of_trd ‹_› ?_ | with_reducible refine keeps_of_some ‹_› ?_ | with_reducible refine keeps_of_wref ‹_› ?_ | with_reducible refine keeps_of_wok ‹_› ?_ | with_reducible refine keeps_of_fwait ‹_› ?_ | with_reducible refine keeps_of_fbad ‹_› ?_

end Sys2Proof.Machine
end

