-- ==== Sys2Proof/Laws/KeepKeys.lean ====
section
/-!
SUPPORT. Laws/KeepKeys.lean: what the operations of Machine/Keys.lean keep (Laws/Keep.lean).
-/
namespace Sys2Proof.Machine

theorem secReport_keeps {r a0 a1 a2 a3 a4} (h0 : Keeps r a0) (kinteg : Lets r .integ := by trivial) (kobs : Lets r .obs := by trivial) : Keeps r (secReport a0 a1 a2 a3 a4) := by
  unfold secReport; try dsimp only
  repeat' first | with_reducible assumption | with_reducible apply report_keeps

end Sys2Proof.Machine
end

