-- ==== Sys2Proof/Laws/KeepJournal.lean ====
section
/-!
SUPPORT. Laws/KeepJournal.lean: what the operations of Machine/Journal.lean keep (Laws/Keep.lean).
-/
namespace Sys2Proof.Machine

theorem missingDigests_keeps {r a0 a1 a2} (h0 : Keeps r a0) (kinteg : Lets r .integ := by trivial) (kobs : Lets r .obs := by trivial) : Keeps r (missingDigests a0 a1 a2) := by
  unfold missingDigests; try dsimp only
  repeat' first | with_reducible assumption | (intro _) | with_reducible apply modObs_keeps | with_reducible apply report_keeps | with_reducible apply keeps_ite | with_reducible apply keeps_foldl

theorem acceptRecord_keeps {r a0 a1 a2} (h0 : Keeps r a0) (kinteg : Lets r .integ := by trivial) (kled : Lets r .led := by trivial) (kobs : Lets r .obs := by trivial) (kport : Lets r .port := by trivial) : Keeps r (acceptRecord a0 a1 a2) := by
  unfold acceptRecord; try dsimp only
  repeat' first | with_reducible assumption | with_reducible apply modCtx_keeps | with_reducible apply missingDigests_keeps | with_reducible apply journalGo_keeps | with_reducible apply modChain_keeps | with_reducible apply keeps_ite | split

theorem execRecordAccept_keeps {r a0 a1 a2} (h2 : Keeps r a2) (kinteg : Lets r .integ := by trivial) (kled : Lets r .led := by trivial) (kobs : Lets r .obs := by trivial) (kport : Lets r .port := by trivial) : KeepsO r (execRecordAccept a0 a1 a2) := by
  unfold execRecordAccept; try dsimp only
  repeat' first | with_reducible assumption | with_reducible apply acceptRecord_keeps | with_reducible apply keeps_next

theorem execSealSigned_keeps {r a0 a1} (h1 : Keeps r a1) (kinteg : Lets r .integ := by trivial) (kled : Lets r .led := by trivial) (kobs : Lets r .obs := by trivial) : KeepsO r (execSealSigned a0 a1) := by
  unfold execSealSigned; try dsimp only
  repeat' first | with_reducible assumption | with_reducible apply modChain_keeps | with_reducible apply chainPut_keeps | with_reducible apply queueTail_keeps | with_reducible apply journalGo_keeps | with_reducible apply keeps_next | with_reducible apply keepsO_ite | with_reducible apply keeps_ite | split

end Sys2Proof.Machine
end

