-- ==== Sys2Proof/Laws/KeepNand.lean ====
section
/-!
SUPPORT. Laws/KeepNand.lean: what the operations of Machine/Nand.lean keep (Laws/Keep.lean).
-/
namespace Sys2Proof.Machine

theorem modBlock_keeps {r a0 a1 a2 a3} (h0 : Keeps r a0) (kled : Lets r .led := by trivial) : Keeps r (modBlock a0 a1 a2 a3) := by
  unfold modBlock; try dsimp only
  repeat' first | with_reducible assumption | with_reducible apply modLedger_keeps

theorem ledCapacity_keeps {r a0 a1} (h0 : Keeps r a0) (kinteg : Lets r .integ := by trivial) (kled : Lets r .led := by trivial) (kobs : Lets r .obs := by trivial) : Keeps r (ledCapacity a0 a1) := by
  unfold ledCapacity; try dsimp only
  repeat' first | with_reducible assumption | with_reducible apply ledReport_keeps | with_reducible apply modLedger_keeps | with_reducible apply journalGo_keeps | with_reducible apply keeps_ite

theorem ledHealth_keeps {r a0 a1 a2 a3} (h0 : Keeps r a0) (kled : Lets r .led := by trivial) : Keeps r (ledHealth a0 a1 a2 a3) := by
  unfold ledHealth; try dsimp only
  repeat' first | with_reducible assumption | with_reducible apply modLedger_keeps

theorem queueIndex_keeps {r a0 a1} (h0 : Keeps r a0) (kled : Lets r .led := by trivial) : Keeps r (queueIndex a0 a1) := by
  unfold queueIndex; try dsimp only
  repeat' first | with_reducible assumption | with_reducible apply modLedger_keeps

theorem retireBlock_keeps {r a0 a1 a2} (h0 : Keeps r a0) (kinteg : Lets r .integ := by trivial) (kled : Lets r .led := by trivial) (kobs : Lets r .obs := by trivial) : Keeps r (retireBlock a0 a1 a2) := by
  unfold retireBlock; try dsimp only
  repeat' first | with_reducible assumption | with_reducible apply modLedger_keeps | with_reducible apply modBlock_keeps | with_reducible apply ledReport_keeps | with_reducible apply ledHealth_keeps | with_reducible apply queueIndex_keeps

theorem relocateBlock_keeps {r a0 a1 a2} (h0 : Keeps r a0) (kinteg : Lets r .integ := by trivial) (kled : Lets r .led := by trivial) (kobs : Lets r .obs := by trivial) : Keeps r (relocateBlock a0 a1 a2) := by
  unfold relocateBlock; try dsimp only
  repeat' first | with_reducible assumption | with_reducible apply modLedger_keeps | with_reducible apply ledReport_keeps | with_reducible apply ledHealth_keeps | with_reducible apply keeps_ite

theorem loseRecords_keeps {r a0 a1 a2} (h0 : Keeps r a0) (kinteg : Lets r .integ := by trivial) (kled : Lets r .led := by trivial) (kobs : Lets r .obs := by trivial) : Keeps r (loseRecords a0 a1 a2) := by
  unfold loseRecords; try dsimp only
  repeat' first | with_reducible assumption | with_reducible apply modChain_keeps | with_reducible apply ledReport_keeps

theorem pageUncorrectable_keeps {r a0 a1 a2} (h0 : Keeps r a0) (kinteg : Lets r .integ := by trivial) (kled : Lets r .led := by trivial) (kobs : Lets r .obs := by trivial) : Keeps r (pageUncorrectable a0 a1 a2) := by
  unfold pageUncorrectable; try dsimp only
  repeat' first | with_reducible assumption | with_reducible apply ledReport_keeps | with_reducible apply ledHealth_keeps | with_reducible apply modLedger_keeps | with_reducible apply loseRecords_keeps | with_reducible apply keeps_ite | split

theorem joinStripe_keeps {r a0 a1 a2} (h0 : Keeps r a0) (kled : Lets r .led := by trivial) : KeepsM r (joinStripe a0 a1 a2) := by
  unfold joinStripe; try dsimp only
  repeat' first | with_reducible assumption | with_reducible apply modBlock_keeps | with_reducible apply modLedger_keeps | with_reducible apply keeps_some | with_reducible exact keeps_none | with_reducible apply keepsM_ite | split

theorem queueParity_keeps {r a0 a1 a2 a3} (h0 : Keeps r a0) (kled : Lets r .led := by trivial) : Keeps r (queueParity a0 a1 a2 a3) := by
  unfold queueParity; try dsimp only
  repeat' first | with_reducible assumption | with_reducible apply modLedger_keeps | with_reducible apply keeps_ite | split

theorem releaseParity_keeps {r a0 a1 a2} (h0 : Keeps r a0) (kled : Lets r .led := by trivial) : Keeps r (releaseParity a0 a1 a2) := by
  unfold releaseParity; try dsimp only
  repeat' first | with_reducible assumption | (intro _) | with_reducible apply modBlock_keeps | with_reducible apply modLedger_keeps | with_reducible apply keeps_ite | with_reducible apply keeps_foldl | split

theorem openBlock_keeps {r a0 a1 a2 a3} (h0 : Keeps r a0) (kled : Lets r .led := by trivial) : KeepsM r (openBlock a0 a1 a2 a3) := by
  unfold openBlock; try dsimp only
  repeat' first | with_reducible assumption | with_reducible apply modBlock_keeps | with_reducible apply joinStripe_keeps | with_reducible apply keeps_some | with_reducible exact keeps_none | with_reducible apply keepsM_ite

end Sys2Proof.Machine
end

