-- ==== Sys2Proof/Laws/KeepLedger.lean ====
section
/-!
SUPPORT. Laws/KeepLedger.lean: what the operations of Machine/Ledger.lean keep (Laws/Keep.lean).
-/
namespace Sys2Proof.Machine

theorem serviceDone_keeps {r a0 a1 a2 a3 a4 a5 a6} (h0 : Keeps r a0) (kport : Lets r .port := by trivial) : Keeps r (serviceDone a0 a1 a2 a3 a4 a5 a6) := by
  unfold serviceDone; try dsimp only
  repeat' first | with_reducible assumption | with_reducible apply finishReq_keeps

theorem ledgerError_keeps {r a0 a1 a2 a3 a4} (h0 : Keeps r a0) (kport : Lets r .port := by trivial) : Keeps r (ledgerError a0 a1 a2 a3 a4) := by
  unfold ledgerError; try dsimp only
  repeat' first | with_reducible assumption | with_reducible apply serviceDone_keeps

theorem journalAnswer_keeps {r a0 a1 a2} (h0 : Keeps r a0) (kport : Lets r .port := by trivial) : Keeps r (journalAnswer a0 a1 a2) := by
  unfold journalAnswer; try dsimp only
  repeat' first | with_reducible assumption | with_reducible apply ledgerError_keeps | with_reducible apply serviceDone_keeps | with_reducible apply keeps_ite

theorem execJournalRead_keeps {r a0 a1 a2} (h2 : Keeps r a2) (kled : Lets r .led := by trivial) (kport : Lets r .port := by trivial) : KeepsO r (execJournalRead a0 a1 a2) := by
  unfold execJournalRead; try dsimp only
  repeat' first | with_reducible assumption | with_reducible apply ledgerError_keeps | with_reducible apply serviceDone_keeps | with_reducible apply journalAnswer_keeps | with_reducible apply modReq_keeps | with_reducible apply modLedger_keeps | with_reducible apply keeps_next | with_reducible apply keepsO_ite | split

theorem freePage_keeps {r a0} (h0 : Keeps r a0) (kfree : Lets r .free := by trivial) : Keeps r (freePage a0).2 := by
  unfold freePage; try dsimp only
  repeat' first | with_reducible assumption | with_reducible apply drawBytes_keeps

theorem archivePage_keeps {r a0 a1 a2 a3} (h0 : Keeps r a0) (kled : Lets r .led := by trivial) (kport : Lets r .port := by trivial) : Keeps r (archivePage a0 a1 a2 a3).2 := by
  unfold archivePage; try dsimp only
  repeat' first | with_reducible assumption | with_reducible apply serviceDone_keeps | with_reducible apply modReq_keeps | with_reducible apply modLedger_keeps | with_reducible apply keepsP_ite | split

theorem archiveReadOn_keeps {r a0 a1 a2 a3 a4} (h1 : Keeps r a1) (kfree : Lets r .free := by trivial) (kled : Lets r .led := by trivial) (kport : Lets r .port := by trivial) : Keeps r (archiveReadOn a0 a1 a2 a3 a4) := by
  induction a0 generalizing a1 a4 with
  | zero => exact h1
  | succ f ih =>
    unfold archiveReadOn
    dsimp only
    split
    · exact ih (freePage_keeps (archivePage_keeps h1))
    · exact archivePage_keeps h1

theorem execArchiveRead_keeps {r a0 a1 a2} (h2 : Keeps r a2) (kfree : Lets r .free := by trivial) (kled : Lets r .led := by trivial) (kport : Lets r .port := by trivial) : KeepsO r (execArchiveRead a0 a1 a2) := by
  unfold execArchiveRead; try dsimp only
  repeat' first | with_reducible assumption | with_reducible apply serviceDone_keeps | with_reducible apply archiveReadOn_keeps | with_reducible apply keeps_next | with_reducible apply keepsO_ite | split

theorem execArchiveWrite_keeps {r a0 a1 a2} (h2 : Keeps r a2) (kled : Lets r .led := by trivial) (kport : Lets r .port := by trivial) : KeepsO r (execArchiveWrite a0 a1 a2) := by
  unfold execArchiveWrite; try dsimp only
  repeat' first | with_reducible assumption | with_reducible apply serviceDone_keeps | with_reducible apply ledgerError_keeps | with_reducible apply modReq_keeps | with_reducible apply modLedger_keeps | with_reducible apply keeps_next | with_reducible apply keepsO_ite | split

theorem settleRemap_keeps {r a0 a1 a2} (h0 : Keeps r a0) (kled : Lets r .led := by trivial) : Keeps r (settleRemap a0 a1 a2) := by
  unfold settleRemap; try dsimp only
  repeat' first | with_reducible assumption | with_reducible apply modLedger_keeps | with_reducible apply keeps_ite

theorem execArchiveDiscard_keeps {r a0 a1 a2} (h2 : Keeps r a2) (kled : Lets r .led := by trivial) (kport : Lets r .port := by trivial) : KeepsO r (execArchiveDiscard a0 a1 a2) := by
  unfold execArchiveDiscard; try dsimp only
  repeat' first | with_reducible assumption | (intro _) | with_reducible apply serviceDone_keeps | with_reducible apply settleRemap_keeps | with_reducible apply modBlock_keeps | with_reducible apply keeps_next | with_reducible apply keepsO_ite | with_reducible apply keeps_foldl | split

theorem execMapDump_keeps {r a0 a1 a2} (h2 : Keeps r a2) (kport : Lets r .port := by trivial) : KeepsO r (execMapDump a0 a1 a2) := by
  unfold execMapDump; try dsimp only
  repeat' first | with_reducible assumption | with_reducible apply ledgerError_keeps | with_reducible apply serviceDone_keeps | with_reducible apply keeps_next | with_reducible apply keepsO_ite | split

theorem leaveZeroised_keeps {r a0} (h0 : Keeps r a0) (kpow : Lets r .pow := by trivial) : Keeps r (leaveZeroised a0) := by
  unfold leaveZeroised; try dsimp only
  repeat' first | with_reducible assumption | with_reducible apply modPow_keeps | with_reducible apply keeps_ite

theorem ledgerReady_keeps {r a0 a1} (h0 : Keeps r a0) (kinteg : Lets r .integ := by trivial) (kled : Lets r .led := by trivial) (kobs : Lets r .obs := by trivial) (kout : Lets r .out := by trivial) (kport : Lets r .port := by trivial) (kpow : Lets r .pow := by trivial) : Keeps r (ledgerReady a0 a1) := by
  unfold ledgerReady; try dsimp only
  repeat' first | with_reducible assumption | (intro _) | with_reducible apply withDevice_keeps | with_reducible apply modLedger_keeps | with_reducible apply assignSeal_keeps | with_reducible apply leaveZeroised_keeps | with_reducible apply ledCapacity_keeps | with_reducible apply journalGo_keeps | with_reducible apply keeps_ite | with_reducible apply keeps_foldl | split

theorem ledgerStopped_keeps {r a0 a1} (h0 : Keeps r a0) (kled : Lets r .led := by trivial) : Keeps r (ledgerStopped a0 a1) := by
  unfold ledgerStopped; try dsimp only
  repeat' first | with_reducible assumption | with_reducible apply modLedger_keeps | with_reducible apply keeps_ite

theorem journalDurable_keeps {r a0 a1 a2 a3} (h0 : Keeps r a0) (kled : Lets r .led := by trivial) : Keeps r (journalDurable a0 a1 a2 a3) := by
  unfold journalDurable; try dsimp only
  repeat' first | with_reducible assumption | with_reducible apply modChain_keeps

theorem archivePageDone_keeps {r a0 a1 a2 a3} (h0 : Keeps r a0) (kport : Lets r .port := by trivial) : Keeps r (archivePageDone a0 a1 a2 a3) := by
  unfold archivePageDone; try dsimp only
  repeat' first | with_reducible assumption | with_reducible apply modReq_keeps | with_reducible apply serviceDone_keeps | with_reducible apply keeps_ite | split

theorem programPage_keeps {r a0 a1 a2 a3} (h0 : Keeps r a0) (kinteg : Lets r .integ := by trivial) (kled : Lets r .led := by trivial) (kobs : Lets r .obs := by trivial) (kout : Lets r .out := by trivial) (kport : Lets r .port := by trivial) (kpow : Lets r .pow := by trivial) : Keeps r (programPage a0 a1 a2 a3) := by
  unfold programPage; try dsimp only
  repeat' first | with_reducible assumption | with_reducible apply modLedger_keeps | with_reducible apply modBlock_keeps | with_reducible apply ledCount_keeps | with_reducible apply queueParity_keeps | with_reducible apply journalDurable_keeps | with_reducible apply archivePageDone_keeps | with_reducible apply ledgerStopped_keeps | with_reducible apply ledgerReady_keeps | with_reducible apply ledCapacity_keeps | with_reducible apply keeps_ite | split

theorem programFailed_keeps {r a0 a1 a2 a3} (h0 : Keeps r a0) (kinteg : Lets r .integ := by trivial) (kled : Lets r .led := by trivial) (kobs : Lets r .obs := by trivial) : Keeps r (programFailed a0 a1 a2 a3) := by
  unfold programFailed; try dsimp only
  repeat' first | with_reducible assumption | with_reducible apply modLedger_keeps | with_reducible apply ledReport_keeps | with_reducible apply ledHealth_keeps | with_reducible apply retireBlock_keeps | with_reducible apply keeps_ite

theorem execNandProgramComplete_keeps {r a0 a1 a2 a3} (h3 : Keeps r a3) (kinteg : Lets r .integ := by trivial) (kled : Lets r .led := by trivial) (kobs : Lets r .obs := by trivial) (kout : Lets r .out := by trivial) (kport : Lets r .port := by trivial) (kpow : Lets r .pow := by trivial) : KeepsO r (execNandProgramComplete a0 a1 a2 a3) := by
  unfold execNandProgramComplete; try dsimp only
  repeat' first | with_reducible assumption | with_reducible apply openBlock_keeps | with_reducible apply modLedger_keeps | with_reducible apply programPage_keeps | with_reducible apply programFailed_keeps | with_reducible apply keeps_next | with_reducible apply keepsO_ite | with_reducible apply keeps_ite | split | with_reducible refine keeps_of_some ‹_› ?_

theorem execTailFlush_keeps {r a0 a1} (h1 : Keeps r a1) (kled : Lets r .led := by trivial) (know : Lets r .now := by trivial) : KeepsO r (execTailFlush a0 a1) := by
  unfold execTailFlush; try dsimp only
  repeat' first | with_reducible assumption | with_reducible apply queueTail_keeps | with_reducible apply timeReaches_keeps | with_reducible apply keeps_next | with_reducible apply keepsO_ite | split

theorem execNandEraseComplete_keeps {r a0 a1 a2 a3} (h3 : Keeps r a3) (kinteg : Lets r .integ := by trivial) (kled : Lets r .led := by trivial) (kobs : Lets r .obs := by trivial) : KeepsO r (execNandEraseComplete a0 a1 a2 a3) := by
  unfold execNandEraseComplete; try dsimp only
  repeat' first | with_reducible assumption | with_reducible apply modLedger_keeps | with_reducible apply modBlock_keeps | with_reducible apply ledCount_keeps | with_reducible apply queueIndex_keeps | with_reducible apply ledCapacity_keeps | with_reducible apply retireBlock_keeps | with_reducible apply ledReport_keeps | with_reducible apply ledHealth_keeps | with_reducible apply keeps_next | with_reducible apply keepsO_ite | with_reducible apply keeps_ite

theorem beginErase_keeps {r a0 a1 a2} (h0 : Keeps r a0) (kled : Lets r .led := by trivial) : Keeps r (beginErase a0 a1 a2) := by
  unfold beginErase; try dsimp only
  repeat' first | with_reducible assumption | with_reducible apply modLedger_keeps

theorem execGarbageCollect_keeps {r a0 a1 a2} (h2 : Keeps r a2) (kled : Lets r .led := by trivial) : KeepsO r (execGarbageCollect a0 a1 a2) := by
  unfold execGarbageCollect; try dsimp only
  repeat' first | with_reducible assumption | with_reducible apply beginErase_keeps | with_reducible apply modLedger_keeps | with_reducible apply keeps_next | with_reducible apply keepsO_ite

theorem noteCorrected_keeps {r a0 a1 a2 a3} (h0 : Keeps r a0) (kinteg : Lets r .integ := by trivial) (kled : Lets r .led := by trivial) (kobs : Lets r .obs := by trivial) : Keeps r (noteCorrected a0 a1 a2 a3) := by
  unfold noteCorrected; try dsimp only
  repeat' first | with_reducible assumption | with_reducible apply ledReport_keeps | with_reducible apply ledHealth_keeps | with_reducible apply keeps_ite

theorem readBack_keeps {r a0 a1 a2 a3 a4} (h0 : Keeps r a0) (kinteg : Lets r .integ := by trivial) (kled : Lets r .led := by trivial) (kobs : Lets r .obs := by trivial) : Keeps r (readBack a0 a1 a2 a3 a4) := by
  unfold readBack; try dsimp only
  repeat' first | with_reducible assumption | with_reducible apply relocateBlock_keeps | with_reducible apply modLedger_keeps | with_reducible apply modBlock_keeps | with_reducible apply releaseParity_keeps | with_reducible apply keeps_ite | split

theorem readDone_keeps {r a0 a1 a2 a3 a4 a5} (h0 : Keeps r a0) (kfree : Lets r .free := by trivial) (kinteg : Lets r .integ := by trivial) (kled : Lets r .led := by trivial) (kobs : Lets r .obs := by trivial) (kport : Lets r .port := by trivial) : Keeps r (readDone a0 a1 a2 a3 a4 a5) := by
  unfold readDone; try dsimp only
  repeat' first | with_reducible assumption | with_reducible apply archiveReadOn_keeps | with_reducible apply serviceDone_keeps | with_reducible apply modReq_keeps | with_reducible apply journalAnswer_keeps | with_reducible apply readBack_keeps | with_reducible apply keeps_ite | split

theorem suspendErase_keeps {r a0 a1 a2} (h0 : Keeps r a0) (kled : Lets r .led := by trivial) : KeepsM r (suspendErase a0 a1 a2) := by
  unfold suspendErase; try dsimp only
  repeat' first | with_reducible assumption | with_reducible apply modLedger_keeps | with_reducible apply keeps_some | with_reducible exact keeps_none | with_reducible apply keepsM_ite | split

theorem execNandReadComplete_keeps {r a0 a1 a2 a3 a4 a5} (h5 : Keeps r a5) (kfree : Lets r .free := by trivial) (kinteg : Lets r .integ := by trivial) (kled : Lets r .led := by trivial) (kobs : Lets r .obs := by trivial) (kport : Lets r .port := by trivial) : KeepsO r (execNandReadComplete a0 a1 a2 a3 a4 a5) := by
  unfold execNandReadComplete; try dsimp only
  repeat' first | with_reducible assumption | with_reducible apply suspendErase_keeps | with_reducible apply ledCount_keeps | with_reducible apply modLedger_keeps | with_reducible apply readDone_keeps | with_reducible apply noteCorrected_keeps | with_reducible apply pageUncorrectable_keeps | with_reducible apply keeps_next | with_reducible apply keepsO_ite | split | with_reducible refine keeps_of_some ‹_› ?_

theorem execPatrolRead_keeps {r a0 a1 a2 a3 a4 a5} (h5 : Keeps r a5) (kinteg : Lets r .integ := by trivial) (kled : Lets r .led := by trivial) (kobs : Lets r .obs := by trivial) : KeepsO r (execPatrolRead a0 a1 a2 a3 a4 a5) := by
  unfold execPatrolRead; try dsimp only
  repeat' first | with_reducible assumption | with_reducible apply ledCount_keeps | with_reducible apply modLedger_keeps | with_reducible apply noteCorrected_keeps | with_reducible apply pageUncorrectable_keeps | with_reducible apply relocateBlock_keeps | with_reducible apply keeps_next | with_reducible apply keepsO_ite | with_reducible apply keeps_ite

theorem execVolumeJScanEnd_keeps {r a0 a1} (h1 : Keeps r a1) (kinteg : Lets r .integ := by trivial) (kled : Lets r .led := by trivial) (kobs : Lets r .obs := by trivial) : KeepsO r (execVolumeJScanEnd a0 a1) := by
  unfold execVolumeJScanEnd; try dsimp only
  repeat' first | with_reducible assumption | with_reducible apply modLedger_keeps | with_reducible apply ledReport_keeps | with_reducible apply keeps_next | with_reducible apply keepsO_ite | with_reducible apply keeps_ite

theorem execVolumeAScanEnd_keeps {r a0 a1} (h1 : Keeps r a1) (kled : Lets r .led := by trivial) : KeepsO r (execVolumeAScanEnd a0 a1) := by
  unfold execVolumeAScanEnd; try dsimp only
  repeat' first | with_reducible assumption | with_reducible apply modLedger_keeps | with_reducible apply keeps_next | with_reducible apply keepsO_ite

theorem ledgerPor_keeps {r a0 a1 a2} (h0 : Keeps r a0) (kinteg : Lets r .integ := by trivial) (kled : Lets r .led := by trivial) (kobs : Lets r .obs := by trivial) : Keeps r (ledgerPor a0 a1 a2) := by
  unfold ledgerPor; try dsimp only
  repeat' first | with_reducible assumption | (intro _) | with_reducible apply modLedger_keeps | with_reducible apply ledReport_keeps | with_reducible apply ledHealth_keeps | with_reducible apply keeps_foldl

theorem ledgerMedia_keeps {r a0 a1} (h0 : Keeps r a0) (kinteg : Lets r .integ := by trivial) (kled : Lets r .led := by trivial) (kobs : Lets r .obs := by trivial) : Keeps r (ledgerMedia a0 a1) := by
  unfold ledgerMedia; try dsimp only
  repeat' first | with_reducible assumption | (intro _) | with_reducible apply modLedger_keeps | with_reducible apply ledReport_keeps | with_reducible apply keeps_foldl

theorem execHealthUpdate_keeps {r a0 a1} (h1 : Keeps r a1) (kinteg : Lets r .integ := by trivial) (kled : Lets r .led := by trivial) (kobs : Lets r .obs := by trivial) : KeepsO r (execHealthUpdate a0 a1) := by
  unfold execHealthUpdate; try dsimp only
  repeat' first | with_reducible assumption | (intro _) | with_reducible apply modLedger_keeps | with_reducible apply ledReport_keeps | with_reducible apply keeps_next | with_reducible apply keepsO_ite | with_reducible apply keeps_ite | with_reducible apply keeps_foldl

theorem addReading_keeps {r a0 a1 a2} (h0 : Keeps r a0) (kled : Lets r .led := by trivial) : Keeps r (addReading a0 a1 a2) := by
  unfold addReading; try dsimp only
  repeat' first | with_reducible assumption | with_reducible apply modLed_keeps

theorem execTemperatureMinute_keeps {r a0 a1 a2 a3} (h3 : Keeps r a3) (kled : Lets r .led := by trivial) : KeepsO r (execTemperatureMinute a0 a1 a2 a3) := by
  unfold execTemperatureMinute; try dsimp only
  repeat' first | with_reducible assumption | (intro _) | with_reducible apply addReading_keeps | with_reducible apply keeps_next | with_reducible apply keepsO_ite | with_reducible apply keeps_foldl

theorem execChannelFailed_keeps {r a0 a1} (h1 : Keeps r a1) (kinteg : Lets r .integ := by trivial) (kled : Lets r .led := by trivial) (kobs : Lets r .obs := by trivial) (kout : Lets r .out := by trivial) (kport : Lets r .port := by trivial) (kpow : Lets r .pow := by trivial) : KeepsO r (execChannelFailed a0 a1) := by
  unfold execChannelFailed; try dsimp only
  repeat' first | with_reducible assumption | (intro _) | with_reducible apply withDevice_keeps | with_reducible apply modLedger_keeps | with_reducible apply ledReport_keeps | with_reducible apply keeps_next | with_reducible apply keepsO_ite | with_reducible apply keeps_ite

theorem execChannelReturn_keeps {r a0 a1} (h1 : Keeps r a1) (kinteg : Lets r .integ := by trivial) (kled : Lets r .led := by trivial) (kobs : Lets r .obs := by trivial) (kout : Lets r .out := by trivial) (kport : Lets r .port := by trivial) (kpow : Lets r .pow := by trivial) : KeepsO r (execChannelReturn a0 a1) := by
  unfold execChannelReturn; try dsimp only
  repeat' first | with_reducible assumption | (intro _) | with_reducible apply withDevice_keeps | with_reducible apply modLedger_keeps | with_reducible apply ledCapacity_keeps | with_reducible apply journalGo_keeps | with_reducible apply keeps_next | with_reducible apply keepsO_ite | with_reducible apply keeps_ite

theorem ledgerFormat_keeps {r a0 a1} (h0 : Keeps r a0) (kled : Lets r .led := by trivial) (kport : Lets r .port := by trivial) (ksec : Lets r .sec := by trivial) : Keeps r (ledgerFormat a0 a1) := by
  unfold ledgerFormat; try dsimp only
  repeat' first | with_reducible assumption | exact fun (_ : SecState) => fuses_same rfl rfl | with_reducible apply modLedger_keeps | with_reducible apply modSec_keeps | with_reducible apply modAdm_keeps

theorem ledgerStop_keeps {r a0 a1} (h0 : Keeps r a0) (kinteg : Lets r .integ := by trivial) (kled : Lets r .led := by trivial) (kobs : Lets r .obs := by trivial) : Keeps r (ledgerStop a0 a1) := by
  unfold ledgerStop; try dsimp only
  repeat' first | with_reducible assumption | with_reducible apply modLedger_keeps | with_reducible apply ledgerStopped_keeps | with_reducible apply queueTail_keeps | with_reducible apply chainAdvance_keeps

theorem ledgerStart_keeps {r a0 a1} (h0 : Keeps r a0) (kinteg : Lets r .integ := by trivial) (kled : Lets r .led := by trivial) (kobs : Lets r .obs := by trivial) : Keeps r (ledgerStart a0 a1) := by
  unfold ledgerStart; try dsimp only
  repeat' first | with_reducible assumption | with_reducible apply ledCapacity_keeps | with_reducible apply journalGo_keeps | with_reducible apply modLedger_keeps

theorem journalRelease_keeps {r a0 a1 a2} (h0 : Keeps r a0) (kinteg : Lets r .integ := by trivial) (kled : Lets r .led := by trivial) (kobs : Lets r .obs := by trivial) : Keeps r (journalRelease a0 a1 a2) := by
  unfold journalRelease; try dsimp only
  repeat' first | with_reducible assumption | with_reducible apply modChain_keeps | with_reducible apply ledCapacity_keeps | with_reducible apply queueIndex_keeps

end Sys2Proof.Machine
end

