-- ==== Sys2Proof/Laws/KeepModel.lean ====
section
/-!
SUPPORT. Laws/KeepModel.lean: what the operations of Machine/Model.lean keep (Laws/Keep.lean).
-/
namespace Sys2Proof.Machine

theorem stageImage_keeps {r a0 a1 a2 a3} (h0 : Keeps r a0) (kinteg : Lets r .integ := by trivial) (kmem : Lets r .mem := by trivial) : Keeps r (stageImage a0 a1 a2 a3) := by
  unfold stageImage; try dsimp only
  repeat' first | with_reducible assumption | with_reducible apply writeClean_keeps | with_reducible apply keeps_ite

theorem modSlot_keeps {r a0 a1 a2 a3} (h0 : Keeps r a0) (kpart : Lets r .part := by trivial) : Keeps r (modSlot a0 a1 a2 a3) := by
  unfold modSlot; try dsimp only
  repeat' first | with_reducible assumption | with_reducible apply modPart_keeps

theorem modVatDie_keeps {r a0 a1 a2} (h0 : Keeps r a0) (kpart : Lets r .part := by trivial) : Keeps r (modVatDie a0 a1 a2) := by
  unfold modVatDie; try dsimp only
  repeat' first | with_reducible assumption | with_reducible apply modPart_keeps

theorem loadBank_keeps {r a0 a1 a2 a3 a4} (h0 : Keeps r a0) (kinteg : Lets r .integ := by trivial) (kmem : Lets r .mem := by trivial) : Keeps r (loadBank a0 a1 a2 a3 a4) := by
  unfold loadBank; try dsimp only
  repeat' first | with_reducible assumption | (intro _) | with_reducible apply writeClean_keeps | with_reducible apply keeps_foldl

theorem startFetch_keeps {r a0 a1 a2} (h0 : Keeps r a0) (kpart : Lets r .part := by trivial) : Keeps r (startFetch a0 a1 a2) := by
  unfold startFetch; try dsimp only
  repeat' first | with_reducible assumption | with_reducible apply modSlot_keeps | with_reducible apply keeps_ite | split

theorem startRunning_keeps {r a0 a1} (h0 : Keeps r a0) (kpart : Lets r .part := by trivial) : Keeps r (startRunning a0 a1) := by
  unfold startRunning; try dsimp only
  repeat' first | with_reducible assumption | with_reducible apply modSlot_keeps | with_reducible apply keeps_ite | split

theorem updatesGo_keeps {r a0 a1} (h0 : Keeps r a0) (kpart : Lets r .part := by trivial) : Keeps r (updatesGo a0 a1) := by
  unfold updatesGo; try dsimp only
  repeat' first | with_reducible assumption | (intro _) | with_reducible apply startRunning_keeps | with_reducible apply startFetch_keeps | with_reducible apply keeps_foldl

theorem endPending_keeps {r a0 a1 a2 a3 a4} (h0 : Keeps r a0) (kpart : Lets r .part := by trivial) (kport : Lets r .port := by trivial) : Keeps r (endPending a0 a1 a2 a3 a4) := by
  unfold endPending; try dsimp only
  repeat' first | with_reducible assumption | with_reducible apply serviceDone_keeps | with_reducible apply modSlot_keeps | split

theorem cancelRunning_keeps {r a0 a1 a2 a3} (h0 : Keeps r a0) (kpart : Lets r .part := by trivial) (kport : Lets r .port := by trivial) : Keeps r (cancelRunning a0 a1 a2 a3) := by
  unfold cancelRunning; try dsimp only
  repeat' first | with_reducible assumption | (intro _) | with_reducible apply modVatDie_keeps | with_reducible apply modSlot_keeps | with_reducible apply updatesGo_keeps | with_reducible apply serviceDone_keeps | with_reducible apply keeps_ite | with_reducible apply keeps_foldl | split

theorem execLoadModel_keeps {r a0 a1 a2} (h2 : Keeps r a2) (kpart : Lets r .part := by trivial) (kport : Lets r .port := by trivial) : KeepsO r (execLoadModel a0 a1 a2) := by
  unfold execLoadModel; try dsimp only
  repeat' first | with_reducible assumption | with_reducible apply serviceDone_keeps | with_reducible apply modReq_keeps | with_reducible apply endPending_keeps | with_reducible apply modSlot_keeps | with_reducible apply startFetch_keeps | with_reducible apply keeps_next | with_reducible apply keepsO_ite | split

theorem execModelCancel_keeps {r a0 a1 a2} (h2 : Keeps r a2) (kpart : Lets r .part := by trivial) (kport : Lets r .port := by trivial) : KeepsO r (execModelCancel a0 a1 a2) := by
  unfold execModelCancel; try dsimp only
  repeat' first | with_reducible assumption | with_reducible apply serviceDone_keeps | with_reducible apply cancelRunning_keeps | with_reducible apply keeps_next | with_reducible apply keepsO_ite | split

theorem execImageFetchDone_keeps {r a0 a1 a2 a3 a4} (h4 : Keeps r a4) (kinteg : Lets r .integ := by trivial) (kmem : Lets r .mem := by trivial) (kobs : Lets r .obs := by trivial) (kout : Lets r .out := by trivial) (kpart : Lets r .part := by trivial) (kport : Lets r .port := by trivial) : KeepsO r (execImageFetchDone a0 a1 a2 a3 a4) := by
  unfold execImageFetchDone; try dsimp only
  repeat' first | with_reducible assumption | with_reducible apply endPending_keeps | with_reducible apply tlpFault_keeps | with_reducible apply report_keeps | with_reducible apply portFault_keeps | with_reducible apply stageImage_keeps | with_reducible apply modSlot_keeps | with_reducible apply keeps_next | with_reducible apply keepsO_ite | with_reducible apply keeps_ite | split

theorem execImageVerified_keeps {r a0 a1 a2} (h2 : Keeps r a2) (kinteg : Lets r .integ := by trivial) (kmem : Lets r .mem := by trivial) (kobs : Lets r .obs := by trivial) (kpart : Lets r .part := by trivial) (kport : Lets r .port := by trivial) (ksec : Lets r .sec := by trivial) : KeepsO r (execImageVerified a0 a1 a2) := by
  unfold execImageVerified; try dsimp only
  repeat' first | with_reducible assumption | exact fun (_ : SecState) => fuses_same rfl rfl | with_reducible apply modSec_keeps | with_reducible apply endPending_keeps | with_reducible apply secReport_keeps | with_reducible apply stageImage_keeps | with_reducible apply modSlot_keeps | with_reducible apply startRunning_keeps | with_reducible apply keeps_next | with_reducible apply keepsO_ite | split

theorem sendSections_keeps {r a0 a1 a2 a3 a4} (h0 : Keeps r a0) (kfab : Lets r .fab := by trivial) : Keeps r (sendSections a0 a1 a2 a3 a4) := by
  unfold sendSections; try dsimp only
  repeat' first | with_reducible assumption | (intro _) | with_reducible apply sendMcast_keeps | with_reducible apply keeps_foldl

theorem chooseFlip_keeps {r a0 a1 a2 a3} (h0 : Keeps r a0) (kpart : Lets r .part := by trivial) : Keeps r (chooseFlip a0 a1 a2 a3) := by
  unfold chooseFlip; try dsimp only
  repeat' first | with_reducible assumption | with_reducible apply modSlot_keeps

theorem execUpdateSectionsSend_keeps {r a0 a1 a2} (h2 : Keeps r a2) (kfab : Lets r .fab := by trivial) (kpart : Lets r .part := by trivial) : KeepsO r (execUpdateSectionsSend a0 a1 a2) := by
  unfold execUpdateSectionsSend; try dsimp only
  repeat' first | with_reducible assumption | (intro _) | with_reducible apply modVatDie_keeps | with_reducible apply modSlot_keeps | with_reducible apply sendSections_keeps | with_reducible apply chooseFlip_keeps | with_reducible apply keeps_next | with_reducible apply keepsO_ite | with_reducible apply keeps_ite | with_reducible apply keeps_foldl | split

theorem execSectionLoaded_keeps {r a0 a1 a2 a3 a4} (h4 : Keeps r a4) (kfab : Lets r .fab := by trivial) (kpart : Lets r .part := by trivial) (kport : Lets r .port := by trivial) (kvs : Lets r .vs := by trivial) : KeepsO r (execSectionLoaded a0 a1 a2 a3 a4) := by
  unfold execSectionLoaded; try dsimp only
  repeat' first | with_reducible assumption | with_reducible apply modVatDie_keeps | with_reducible apply modSlot_keeps | with_reducible apply chooseFlip_keeps | with_reducible apply mcRejoin_keeps | with_reducible apply sendSections_keeps | with_reducible apply cancelRunning_keeps | with_reducible apply keeps_next | with_reducible apply keepsO_ite | with_reducible apply keeps_ite | split

theorem updateSettle_keeps {r a0 a1 a2} (h0 : Keeps r a0) (kpart : Lets r .part := by trivial) (kport : Lets r .port := by trivial) : Keeps r (updateSettle a0 a1 a2) := by
  unfold updateSettle; try dsimp only
  repeat' first | with_reducible assumption | with_reducible apply modSlot_keeps | with_reducible apply updatesGo_keeps | with_reducible apply serviceDone_keeps | with_reducible apply keeps_ite | split

theorem execModelFlip_keeps {r a0 a1 a2} (h2 : Keeps r a2) (know : Lets r .now := by trivial) (kpart : Lets r .part := by trivial) (kport : Lets r .port := by trivial) : KeepsO r (execModelFlip a0 a1 a2) := by
  unfold execModelFlip; try dsimp only
  repeat' first | with_reducible assumption | with_reducible apply timeReaches_keeps | with_reducible apply modSlot_keeps | with_reducible apply updateSettle_keeps | with_reducible apply keeps_next | with_reducible apply keepsO_ite | split

theorem execOldBankFree_keeps {r a0 a1 a2} (h2 : Keeps r a2) (kpart : Lets r .part := by trivial) (kport : Lets r .port := by trivial) : KeepsO r (execOldBankFree a0 a1 a2) := by
  unfold execOldBankFree; try dsimp only
  repeat' first | with_reducible assumption | with_reducible apply modVatDie_keeps | with_reducible apply updateSettle_keeps | with_reducible apply modSlot_keeps | with_reducible apply keeps_next | with_reducible apply keepsO_ite | split

end Sys2Proof.Machine
end

