-- ==== Sys2Proof/Laws/KeepPorts.lean ====
section
/-!
SUPPORT. Laws/KeepPorts.lean: what the operations of Machine/Ports.lean keep (Laws/Keep.lean).
-/
namespace Sys2Proof.Machine

theorem modSq_keeps {r a0 a1 a2 a3} (h0 : Keeps r a0) (kport : Lets r .port := by trivial) : Keeps r (modSq a0 a1 a2 a3) := by
  unfold modSq; try dsimp only
  repeat' first | with_reducible assumption | exact fun (_ : Port) hp => hp | with_reducible apply modPortOf_keeps

theorem modCq_keeps {r a0 a1 a2 a3} (h0 : Keeps r a0) (kport : Lets r .port := by trivial) : Keeps r (modCq a0 a1 a2 a3) := by
  unfold modCq; try dsimp only
  repeat' first | with_reducible assumption | exact fun (_ : Port) hp => hp | with_reducible apply modPortOf_keeps

theorem sqError_keeps {r a0 a1 a2 a3} (h0 : Keeps r a0) (kout : Lets r .out := by trivial) (kport : Lets r .port := by trivial) : Keeps r (sqError a0 a1 a2 a3) := by
  unfold sqError; try dsimp only
  repeat' first | with_reducible assumption | with_reducible apply portEvent_keeps | with_reducible apply modSq_keeps

theorem cqError_keeps {r a0 a1 a2} (h0 : Keeps r a0) (kout : Lets r .out := by trivial) (kport : Lets r .port := by trivial) : Keeps r (cqError a0 a1 a2) := by
  unfold cqError; try dsimp only
  repeat' first | with_reducible assumption | with_reducible apply portEvent_keeps | with_reducible apply modCq_keeps

theorem sqEnable_keeps {r a0 a1 a2} (h0 : Keeps r a0) (kout : Lets r .out := by trivial) (kport : Lets r .port := by trivial) : Keeps r (sqEnable a0 a1 a2) := by
  unfold sqEnable; try dsimp only
  repeat' first | with_reducible assumption | with_reducible apply sqError_keeps | with_reducible apply modSq_keeps | with_reducible apply keeps_ite

theorem sqDisable_keeps {r a0 a1 a2} (h0 : Keeps r a0) (kport : Lets r .port := by trivial) : Keeps r (sqDisable a0 a1 a2) := by
  unfold sqDisable; try dsimp only
  repeat' first | with_reducible assumption | (intro _) | with_reducible apply modSq_keeps | with_reducible apply refuseReq_keeps | with_reducible apply keeps_foldl

theorem cqEnable_keeps {r a0 a1 a2} (h0 : Keeps r a0) (kport : Lets r .port := by trivial) : Keeps r (cqEnable a0 a1 a2) := by
  unfold cqEnable; try dsimp only
  repeat' first | with_reducible assumption | with_reducible apply modCq_keeps | with_reducible apply keeps_ite

theorem cqDisable_keeps {r a0 a1 a2} (h0 : Keeps r a0) (kout : Lets r .out := by trivial) (kport : Lets r .port := by trivial) : Keeps r (cqDisable a0 a1 a2) := by
  unfold cqDisable; try dsimp only
  repeat' first | with_reducible assumption | with_reducible apply cqError_keeps | with_reducible apply modCq_keeps | with_reducible apply keeps_ite

theorem badDoorbell_keeps {r a0 a1 a2 a3} (h0 : Keeps r a0) (kinteg : Lets r .integ := by trivial) (kobs : Lets r .obs := by trivial) (kport : Lets r .port := by trivial) : Keeps r (badDoorbell a0 a1 a2 a3) := by
  unfold badDoorbell; try dsimp only
  repeat' first | with_reducible assumption | with_reducible apply report_keeps | with_reducible apply portStat_keeps

theorem sqDoorbell_keeps {r a0 a1 a2 a3} (h0 : Keeps r a0) (kinteg : Lets r .integ := by trivial) (kobs : Lets r .obs := by trivial) (kout : Lets r .out := by trivial) (kport : Lets r .port := by trivial) : Keeps r (sqDoorbell a0 a1 a2 a3) := by
  unfold sqDoorbell; try dsimp only
  repeat' first | with_reducible assumption | with_reducible apply sqError_keeps | with_reducible apply badDoorbell_keeps | with_reducible apply modSq_keeps | with_reducible apply keeps_ite

theorem cqDoorbell_keeps {r a0 a1 a2 a3} (h0 : Keeps r a0) (kinteg : Lets r .integ := by trivial) (kobs : Lets r .obs := by trivial) (kout : Lets r .out := by trivial) (kport : Lets r .port := by trivial) : Keeps r (cqDoorbell a0 a1 a2 a3) := by
  unfold cqDoorbell; try dsimp only
  repeat' first | with_reducible assumption | with_reducible apply cqError_keeps | with_reducible apply badDoorbell_keeps | with_reducible apply modCq_keeps | with_reducible apply keeps_ite

theorem execSqDoorbell_keeps {r a0 a1 a2 a3} (h3 : Keeps r a3) (kinteg : Lets r .integ := by trivial) (kobs : Lets r .obs := by trivial) (kout : Lets r .out := by trivial) (kport : Lets r .port := by trivial) : KeepsO r (execSqDoorbell a0 a1 a2 a3) := by
  unfold execSqDoorbell; try dsimp only
  repeat' first | with_reducible assumption | with_reducible apply sqDoorbell_keeps | with_reducible apply keeps_next | with_reducible apply keeps_ite

theorem execCqDoorbell_keeps {r a0 a1 a2 a3} (h3 : Keeps r a3) (kinteg : Lets r .integ := by trivial) (kobs : Lets r .obs := by trivial) (kout : Lets r .out := by trivial) (kport : Lets r .port := by trivial) : KeepsO r (execCqDoorbell a0 a1 a2 a3) := by
  unfold execCqDoorbell; try dsimp only
  repeat' first | with_reducible assumption | with_reducible apply cqDoorbell_keeps | with_reducible apply keeps_next | with_reducible apply keeps_ite

theorem execSqEnable_keeps {r a0 a1 a2} (h2 : Keeps r a2) (kout : Lets r .out := by trivial) (kport : Lets r .port := by trivial) : KeepsO r (execSqEnable a0 a1 a2) := by
  unfold execSqEnable; try dsimp only
  repeat' first | with_reducible assumption | with_reducible apply sqEnable_keeps | with_reducible apply keeps_next | with_reducible apply keeps_ite

theorem execSqDisable_keeps {r a0 a1 a2} (h2 : Keeps r a2) (kport : Lets r .port := by trivial) : KeepsO r (execSqDisable a0 a1 a2) := by
  unfold execSqDisable; try dsimp only
  repeat' first | with_reducible assumption | with_reducible apply sqDisable_keeps | with_reducible apply keeps_next | with_reducible apply keeps_ite

theorem execCqEnable_keeps {r a0 a1 a2} (h2 : Keeps r a2) (kport : Lets r .port := by trivial) : KeepsO r (execCqEnable a0 a1 a2) := by
  unfold execCqEnable; try dsimp only
  repeat' first | with_reducible assumption | with_reducible apply cqEnable_keeps | with_reducible apply keeps_next | with_reducible apply keeps_ite

theorem execCqDisable_keeps {r a0 a1 a2} (h2 : Keeps r a2) (kout : Lets r .out := by trivial) (kport : Lets r .port := by trivial) : KeepsO r (execCqDisable a0 a1 a2) := by
  unfold execCqDisable; try dsimp only
  repeat' first | with_reducible assumption | with_reducible apply cqDisable_keeps | with_reducible apply keeps_next | with_reducible apply keeps_ite

theorem modMbx_keeps {r a0 a1 a2} (h0 : Keeps r a0) (kdict : Lets r .dict := by trivial) : Keeps r (modMbx a0 a1 a2) := by
  unfold modMbx; try dsimp only
  repeat' first | with_reducible assumption | with_reducible apply modDict_keeps

theorem mbxReqTail_keeps {r a0 a1 a2} (h0 : Keeps r a0) (kdict : Lets r .dict := by trivial) : Keeps r (mbxReqTail a0 a1 a2) := by
  unfold mbxReqTail; try dsimp only
  repeat' first | with_reducible assumption | with_reducible apply modMbx_keeps

theorem mbxRspHead_keeps {r a0 a1 a2} (h0 : Keeps r a0) (kdict : Lets r .dict := by trivial) : Keeps r (mbxRspHead a0 a1 a2) := by
  unfold mbxRspHead; try dsimp only
  repeat' first | with_reducible assumption | with_reducible apply modMbx_keeps

theorem execMbxReqTailWrite_keeps {r a0 a1 a2} (h2 : Keeps r a2) (kdict : Lets r .dict := by trivial) : KeepsO r (execMbxReqTailWrite a0 a1 a2) := by
  unfold execMbxReqTailWrite; try dsimp only
  repeat' first | with_reducible assumption | with_reducible apply mbxReqTail_keeps | with_reducible apply keeps_next | with_reducible apply keeps_ite

theorem execMbxRspHeadWrite_keeps {r a0 a1 a2} (h2 : Keeps r a2) (kdict : Lets r .dict := by trivial) : KeepsO r (execMbxRspHeadWrite a0 a1 a2) := by
  unfold execMbxRspHeadWrite; try dsimp only
  repeat' first | with_reducible assumption | with_reducible apply mbxRspHead_keeps | with_reducible apply keeps_next | with_reducible apply keeps_ite

theorem mbxRegister_keeps {r a0 a1 a2 a3} (h0 : Keeps r a0) (kdict : Lets r .dict := by trivial) : Keeps r (mbxRegister a0 a1 a2 a3) := by
  unfold mbxRegister; try dsimp only
  repeat' first | with_reducible assumption | with_reducible apply mbxReqTail_keeps | with_reducible apply mbxRspHead_keeps | with_reducible apply modMbx_keeps | with_reducible apply keeps_ite

theorem mbxRing_keeps {r a0 a1 a2 a3} (h0 : Keeps r a0) (kdict : Lets r .dict := by trivial) : Keeps r (mbxRing a0 a1 a2 a3) := by
  unfold mbxRing; try dsimp only
  repeat' first | with_reducible assumption | with_reducible apply modMbx_keeps

theorem msixWrite_keeps {r a0 a1 a2 a3 a4} (h0 : Keeps r a0) (kout : Lets r .out := by trivial) (kport : Lets r .port := by trivial) : Keeps r (msixWrite a0 a1 a2 a3 a4) := by
  unfold msixWrite; try dsimp only
  repeat' first | with_reducible assumption | exact fun (_ : Port) hp => hp | with_reducible apply modPortOf_keeps | with_reducible apply msixSend_keeps | with_reducible apply keeps_ite

theorem sqCfgWrite_keeps {r a0 a1 a2 a3} (h0 : Keeps r a0) (kout : Lets r .out := by trivial) (kport : Lets r .port := by trivial) : Keeps r (sqCfgWrite a0 a1 a2 a3) := by
  unfold sqCfgWrite; try dsimp only
  repeat' first | with_reducible assumption | with_reducible apply sqError_keeps | with_reducible apply sqDisable_keeps | with_reducible apply modSq_keeps | with_reducible apply sqEnable_keeps | with_reducible apply keeps_ite

theorem cqCfgWrite_keeps {r a0 a1 a2 a3} (h0 : Keeps r a0) (kout : Lets r .out := by trivial) (kport : Lets r .port := by trivial) : Keeps r (cqCfgWrite a0 a1 a2 a3) := by
  unfold cqCfgWrite; try dsimp only
  repeat' first | with_reducible assumption | with_reducible apply cqError_keeps | with_reducible apply modCq_keeps | with_reducible apply cqEnable_keeps | with_reducible apply cqDisable_keeps | with_reducible apply keeps_ite

theorem barWord_keeps {r a0 a1 a2 a3} (h0 : Keeps r a0) (kinteg : Lets r .integ := by trivial) (kobs : Lets r .obs := by trivial) (kout : Lets r .out := by trivial) (kport : Lets r .port := by trivial) : Keeps r (barWord a0 a1 a2 a3) := by
  unfold barWord; try dsimp only
  repeat' first | with_reducible assumption | exact fun (_ : Port) hp => hp | (intro _) | with_reducible apply modPortOf_keeps | with_reducible apply sqError_keeps | with_reducible apply modSq_keeps | with_reducible apply sqCfgWrite_keeps | with_reducible apply modCq_keeps | with_reducible apply cqCfgWrite_keeps | with_reducible apply sqDoorbell_keeps | with_reducible apply cqDoorbell_keeps | with_reducible apply msixWrite_keeps | with_reducible apply keeps_ite | split

theorem stagingWrite_keeps {r a0 a1 a2 a3} (h0 : Keeps r a0) (kport : Lets r .port := by trivial) : Keeps r (stagingWrite a0 a1 a2 a3) := by
  exact modPortOf_keeps h0 fun x hx => memWrite_wf _ _ _ hx

theorem barWrite_keeps {r a0 a1 a2 a3 a4} (h0 : Keeps r a0) (kdict : Lets r .dict := by trivial) (kinteg : Lets r .integ := by trivial) (kobs : Lets r .obs := by trivial) (kout : Lets r .out := by trivial) (kport : Lets r .port := by trivial) : Keeps r (barWrite a0 a1 a2 a3 a4) := by
  unfold barWrite; try dsimp only
  repeat' first | with_reducible assumption | with_reducible apply barWord_keeps | with_reducible apply sqError_keeps | with_reducible apply stagingWrite_keeps | with_reducible apply mbxRing_keeps | with_reducible apply mbxRegister_keeps | with_reducible apply keeps_ite

theorem msixControl_keeps {r a0 a1 a2} (h0 : Keeps r a0) (kout : Lets r .out := by trivial) (kport : Lets r .port := by trivial) : Keeps r (msixControl a0 a1 a2) := by
  unfold msixControl; try dsimp only
  repeat' first | with_reducible assumption | exact fun (_ : Port) hp => hp | exact fun (_ : PortState) hp => hp | exact fun (_ : SecState) => fuses_same rfl rfl | (intro _) | with_reducible apply modPortOf_keeps | with_reducible apply msixSend_keeps | with_reducible apply keeps_id | with_reducible apply keeps_some | with_reducible exact keeps_none | with_reducible apply keeps_ite | with_reducible apply keepsM_ite | with_reducible apply keepsP_ite | with_reducible apply keepsQ_ite | with_reducible apply keeps_foldl | with_reducible apply keeps_foldlP | with_reducible apply keeps_foldlQ | exact fun _ hp => hp | exact fun _ => fuses_same rfl rfl | with_reducible exact fuses_same rfl rfl | split | with_reducible exact keeps_of_snd ‹_› ‹_› | with_reducible exact keeps_of_fst ‹_› ‹_› | with_reducible refine keeps_of_snd ‹_› ?_ | with_reducible refine keeps_of_fst ‹_› ?_ | with_reducible refine keeps_of_trd ‹_› ?_ | with_reducible refine keeps_of_some ‹_› ?_ | with_reducible refine keeps_of_wref ‹_› ?_ | with_reducible refine keeps_of_wok ‹_› ?_ | with_reducible refine keeps_of_fwait ‹_› ?_ | with_reducible refine keeps_of_fbad ‹_› ?_

theorem execRegisterWrite_keeps {r a0 a1 a2 a3 a4} (h4 : Keeps r a4) (kdict : Lets r .dict := by trivial) (kinteg : Lets r .integ := by trivial) (kobs : Lets r .obs := by trivial) (kout : Lets r .out := by trivial) (kport : Lets r .port := by trivial) : KeepsO r (execRegisterWrite a0 a1 a2 a3 a4) := by
  unfold execRegisterWrite; try dsimp only
  repeat' first | with_reducible assumption | exact fun (_ : Port) hp => hp | exact fun (_ : PortState) hp => hp | exact fun (_ : SecState) => fuses_same rfl rfl | (intro _) | with_reducible apply msixControl_keeps | with_reducible apply barWrite_keeps | with_reducible apply keeps_next | with_reducible exact keeps_refused | with_reducible apply keeps_id | with_reducible apply keeps_some | with_reducible exact keeps_none | with_reducible apply keepsO_ite | with_reducible apply keeps_ite | with_reducible apply keepsM_ite | with_reducible apply keepsP_ite | with_reducible apply keepsQ_ite | with_reducible apply keeps_foldl | with_reducible apply keeps_foldlP | with_reducible apply keeps_foldlQ | exact fun _ hp => hp | exact fun _ => fuses_same rfl rfl | with_reducible exact fuses_same rfl rfl | split | with_reducible exact keeps_of_snd ‹_› ‹_› | with_reducible exact keeps_of_fst ‹_› ‹_› | with_reducible refine keeps_of_snd ‹_› ?_ | with_reducible refine keeps_of_fst ‹_› ?_ | with_reducible refine keeps_of_trd ‹_› ?_ | with_reducible refine keeps_of_some ‹_› ?_ | with_reducible refine keeps_of_wref ‹_› ?_ | with_reducible refine keeps_of_wok ‹_› ?_ | with_reducible refine keeps_of_fwait ‹_› ?_ | with_reducible refine keeps_of_fbad ‹_› ?_

theorem execStagingWrite_keeps {r a0 a1 a2 a3} (h3 : Keeps r a3) (kport : Lets r .port := by trivial) : KeepsO r (execStagingWrite a0 a1 a2 a3) := by
  unfold execStagingWrite; try dsimp only
  repeat' first | with_reducible assumption | with_reducible apply stagingWrite_keeps | with_reducible apply keeps_next | with_reducible apply keeps_ite

theorem execDescriptorFetch_keeps {r a0 a1 a2 a3 a4} (h4 : Keeps r a4) (kinteg : Lets r .integ := by trivial) (kobs : Lets r .obs := by trivial) (kout : Lets r .out := by trivial) (kport : Lets r .port := by trivial) : KeepsO r (execDescriptorFetch a0 a1 a2 a3 a4) := by
  unfold execDescriptorFetch; try dsimp only
  repeat' first | with_reducible assumption | exact fun (_ : Port) hp => hp | with_reducible apply modSq_keeps | with_reducible apply portStat_keeps | with_reducible apply modPortOf_keeps | with_reducible apply tlpFault_keeps | with_reducible apply report_keeps | with_reducible apply refuseReq_keeps | with_reducible apply classifyQueue_keeps | with_reducible apply modReq_keeps | with_reducible apply keeps_next | with_reducible apply keepsO_ite

theorem payloadArrived_keeps {r a0 a1 a2 a3} (h0 : Keeps r a0) (kinteg : Lets r .integ := by trivial) (kobs : Lets r .obs := by trivial) (kport : Lets r .port := by trivial) : Keeps r (payloadArrived a0 a1 a2 a3) := by
  unfold payloadArrived; try dsimp only
  repeat' first | with_reducible assumption | with_reducible apply report_keeps | with_reducible apply portFault_keeps | with_reducible apply classifyQueue_keeps | with_reducible apply refuseReq_keeps | with_reducible apply modReq_keeps | with_reducible apply keeps_ite

theorem stagedPayload_keeps {r a0 a1 a2} (h0 : Keeps r a0) (kinteg : Lets r .integ := by trivial) (kobs : Lets r .obs := by trivial) (kport : Lets r .port := by trivial) : Keeps r (stagedPayload a0 a1 a2) := by
  unfold stagedPayload; try dsimp only
  repeat' first | with_reducible assumption | with_reducible apply payloadArrived_keeps

theorem execPayloadFetch_keeps {r a0 a1 a2 a3 a4} (h4 : Keeps r a4) (kinteg : Lets r .integ := by trivial) (kobs : Lets r .obs := by trivial) (kout : Lets r .out := by trivial) (kport : Lets r .port := by trivial) : KeepsO r (execPayloadFetch a0 a1 a2 a3 a4) := by
  unfold execPayloadFetch; try dsimp only
  repeat' first | with_reducible assumption | with_reducible apply stagedPayload_keeps | with_reducible apply classifyQueue_keeps | with_reducible apply refuseReq_keeps | with_reducible apply tlpFault_keeps | with_reducible apply payloadArrived_keeps | with_reducible apply keeps_next | with_reducible apply keepsO_ite | split

theorem takeScore_keeps {r a0 a1 a2 a3} (h0 : Keeps r a0) (kinteg : Lets r .integ := by trivial) (kobs : Lets r .obs := by trivial) (kport : Lets r .port := by trivial) : Keeps r (takeScore a0 a1 a2 a3) := by
  unfold takeScore; try dsimp only
  repeat' first | with_reducible assumption | with_reducible apply stagedPayload_keeps | with_reducible apply keeps_ite | split

theorem execScore_keeps {r a0 a1 a2} (h2 : Keeps r a2) (kinteg : Lets r .integ := by trivial) (kobs : Lets r .obs := by trivial) (kport : Lets r .port := by trivial) : KeepsO r (execScore a0 a1 a2) := by
  unfold execScore; try dsimp only
  repeat' first | with_reducible assumption | with_reducible apply takeScore_keeps | with_reducible apply keeps_next

theorem execScoreReplay_keeps {r a0 a1 a2} (h2 : Keeps r a2) (kinteg : Lets r .integ := by trivial) (kobs : Lets r .obs := by trivial) (kport : Lets r .port := by trivial) : KeepsO r (execScoreReplay a0 a1 a2) := by
  unfold execScoreReplay; try dsimp only
  repeat' first | with_reducible assumption | with_reducible apply takeScore_keeps | with_reducible apply keeps_next

theorem staleDone_keeps {r a0 a1 a2 a3} (h0 : Keeps r a0) (kinteg : Lets r .integ := by trivial) (kobs : Lets r .obs := by trivial) (kport : Lets r .port := by trivial) : Keeps r (staleDone a0 a1 a2 a3) := by
  unfold staleDone; try dsimp only
  repeat' first | with_reducible assumption | with_reducible apply report_keeps | with_reducible apply portStat_keeps

theorem execDoneWord_keeps {r a0 a1 a2 a3 a4} (h4 : Keeps r a4) (kfab : Lets r .fab := by trivial) (kinteg : Lets r .integ := by trivial) (kobs : Lets r .obs := by trivial) (kport : Lets r .port := by trivial) : KeepsO r (execDoneWord a0 a1 a2 a3 a4) := by
  unfold execDoneWord; try dsimp only
  repeat' first | with_reducible assumption | with_reducible apply staleDone_keeps | with_reducible apply enterKilling_keeps | with_reducible apply modReq_keeps | with_reducible apply report_keeps | with_reducible apply portStat_keeps | with_reducible apply leaveLive_keeps | with_reducible apply ctxEvent_keeps | with_reducible apply modCtx_keeps | with_reducible apply keeps_next | with_reducible apply keepsO_ite | with_reducible apply keeps_ite | split

theorem takeDigest_keeps {r a0 a1 a2} (h0 : Keeps r a0) (kinteg : Lets r .integ := by trivial) (kobs : Lets r .obs := by trivial) (kport : Lets r .port := by trivial) : Keeps r (takeDigest a0 a1 a2) := by
  unfold takeDigest; try dsimp only
  repeat' first | with_reducible assumption | with_reducible apply modObs_keeps | with_reducible apply modCtx_keeps | with_reducible apply report_keeps | with_reducible apply keeps_ite

theorem execDigestReport_keeps {r a0 a1 a2} (h2 : Keeps r a2) (kfab : Lets r .fab := by trivial) (kinteg : Lets r .integ := by trivial) (kobs : Lets r .obs := by trivial) (kport : Lets r .port := by trivial) : KeepsO r (execDigestReport a0 a1 a2) := by
  unfold execDigestReport; try dsimp only
  repeat' first | with_reducible assumption | (intro _) | with_reducible apply onArrival_keeps | with_reducible apply rxArrive_keeps | with_reducible apply response_keeps | with_reducible apply takeDigest_keeps | with_reducible apply keeps_next | split

theorem dropEndpoint_keeps {r a0 a1} (h0 : Keeps r a0) (kdict : Lets r .dict := by trivial) : Keeps r (dropEndpoint a0 a1) := by
  unfold dropEndpoint; try dsimp only
  repeat' first | with_reducible assumption | with_reducible apply modDict_keeps

theorem orphanRequests_keeps {r a0 a1} (h0 : Keeps r a0) (kport : Lets r .port := by trivial) : Keeps r (orphanRequests a0 a1) := by
  unfold orphanRequests; try dsimp only
  repeat' first | with_reducible assumption | exact fun (_ : Port) hp => hp | with_reducible apply modPortOf_keeps | with_reducible apply modAdm_keeps

theorem resetPort_keeps {r a0 a1 a2} (h0 : Keeps r a0) (kdict : Lets r .dict := by trivial) (kinteg : Lets r .integ := by trivial) (kobs : Lets r .obs := by trivial) (kport : Lets r .port := by trivial) (ktime : Lets r .time := by trivial) : Keeps r (resetPort a0 a1 a2) := by
  unfold resetPort; try dsimp only
  repeat' first | with_reducible assumption | exact fun (_ : Port) hp => hp | with_reducible apply orphanRequests_keeps | with_reducible apply modPortOf_keeps | with_reducible apply dropEndpoint_keeps | with_reducible apply modMbx_keeps | with_reducible apply fenceIsland_keeps | with_reducible apply report_keeps

theorem execPerstNAssert_keeps {r a0 a1} (h1 : Keeps r a1) (kdict : Lets r .dict := by trivial) (kinteg : Lets r .integ := by trivial) (kobs : Lets r .obs := by trivial) (kout : Lets r .out := by trivial) (kport : Lets r .port := by trivial) (kpow : Lets r .pow := by trivial) (ktime : Lets r .time := by trivial) : KeepsO r (execPerstNAssert a0 a1) := by
  unfold execPerstNAssert; try dsimp only
  repeat' first | with_reducible assumption | (intro _) | with_reducible apply withDevice_keeps | with_reducible apply resetPort_keeps | with_reducible apply keeps_next | with_reducible apply keepsO_ite

theorem execFunctionLevelReset_keeps {r a0 a1} (h1 : Keeps r a1) (kdict : Lets r .dict := by trivial) (kinteg : Lets r .integ := by trivial) (kobs : Lets r .obs := by trivial) (kout : Lets r .out := by trivial) (kport : Lets r .port := by trivial) (kpow : Lets r .pow := by trivial) (ktime : Lets r .time := by trivial) : KeepsO r (execFunctionLevelReset a0 a1) := by
  unfold execFunctionLevelReset; try dsimp only
  repeat' first | with_reducible assumption | (intro _) | with_reducible apply withDevice_keeps | with_reducible apply resetPort_keeps | with_reducible apply keeps_next | with_reducible apply keepsO_ite

theorem execDlDown_keeps {r a0 a1} (h1 : Keeps r a1) (kdict : Lets r .dict := by trivial) (kinteg : Lets r .integ := by trivial) (kobs : Lets r .obs := by trivial) (kout : Lets r .out := by trivial) (kport : Lets r .port := by trivial) (kpow : Lets r .pow := by trivial) (ktime : Lets r .time := by trivial) : KeepsO r (execDlDown a0 a1) := by
  unfold execDlDown; try dsimp only
  repeat' first | with_reducible assumption | (intro _) | with_reducible apply withDevice_keeps | with_reducible apply resetPort_keeps | with_reducible apply keeps_next | with_reducible apply keepsO_ite

theorem execPortLinkUp_keeps {r a0 a1 a2 a3} (h3 : Keeps r a3) (kobs : Lets r .obs := by trivial) (kout : Lets r .out := by trivial) (kport : Lets r .port := by trivial) (kpow : Lets r .pow := by trivial) (ktime : Lets r .time := by trivial) : KeepsO r (execPortLinkUp a0 a1 a2 a3) := by
  unfold execPortLinkUp; try dsimp only
  repeat' first | with_reducible assumption | exact fun (_ : Port) hp => hp | (intro _) | with_reducible apply withDevice_keeps | with_reducible apply modTime_keeps | with_reducible apply aliveSide_keeps | with_reducible apply modPortOf_keeps | with_reducible apply keeps_next | with_reducible apply keepsO_ite | with_reducible apply keeps_ite

theorem execD3hotEntry_keeps {r a0 a1} (h1 : Keeps r a1) (kport : Lets r .port := by trivial) : KeepsO r (execD3hotEntry a0 a1) := by
  unfold execD3hotEntry; try dsimp only
  repeat' first | with_reducible assumption | exact fun (_ : Port) hp => hp | with_reducible apply modPortOf_keeps | with_reducible apply keeps_next | with_reducible apply keepsO_ite

theorem execD0Return_keeps {r a0 a1} (h1 : Keeps r a1) (kport : Lets r .port := by trivial) : KeepsO r (execD0Return a0 a1) := by
  unfold execD0Return; try dsimp only
  repeat' first | with_reducible assumption | exact fun (_ : Port) hp => hp | with_reducible apply modPortOf_keeps | with_reducible apply keeps_next

theorem execCqInterruptTimer_keeps {r a0 a1 a2} (h2 : Keeps r a2) (know : Lets r .now := by trivial) (kout : Lets r .out := by trivial) (kport : Lets r .port := by trivial) : KeepsO r (execCqInterruptTimer a0 a1 a2) := by
  unfold execCqInterruptTimer; try dsimp only
  repeat' first | with_reducible assumption | with_reducible apply timeReaches_keeps | with_reducible apply msixSend_keeps | with_reducible apply modCq_keeps | with_reducible apply keeps_next | with_reducible apply keepsO_ite

end Sys2Proof.Machine
end

