-- ==== Sys2Proof/Laws/KeepRails.lean ====
section
/-!
SUPPORT. Laws/KeepRails.lean: what the operations of Machine/Rails.lean keep (Laws/Keep.lean).
-/
namespace Sys2Proof.Machine

theorem modRail_keeps {r a0 a1 a2} (h0 : Keeps r a0) (kpow : Lets r .pow := by trivial) : Keeps r (modRail a0 a1 a2) := by
  unfold modRail; try dsimp only
  repeat' first | with_reducible assumption | with_reducible apply modPow_keeps

theorem pmbusSend_keeps {r a0 a1 a2 a3} (h0 : Keeps r a0) (kout : Lets r .out := by trivial) : Keeps r (pmbusSend a0 a1 a2 a3) := by
  unfold pmbusSend; try dsimp only
  repeat' first | with_reducible assumption | with_reducible apply emitOut_keeps

theorem railStart_keeps {r a0 a1 a2} (h0 : Keeps r a0) (kout : Lets r .out := by trivial) (kpow : Lets r .pow := by trivial) : Keeps r (railStart a0 a1 a2) := by
  unfold railStart; try dsimp only
  repeat' first | with_reducible assumption | with_reducible apply modRail_keeps | with_reducible apply pmbusSend_keeps | with_reducible apply keeps_ite

theorem railsFollow_keeps {r a0 a1} (h0 : Keeps r a0) (h1 : Keeps r a1) (kout : Lets r .out := by trivial) (kpow : Lets r .pow := by trivial) : Keeps r (railsFollow a0 a1) := by
  unfold railsFollow; try dsimp only
  repeat' first | with_reducible assumption | (intro _) | with_reducible apply railStart_keeps | with_reducible apply keeps_ite | with_reducible apply keeps_foldl

end Sys2Proof.Machine
end

