-- ==== Sys2Proof/Laws/KeepEpoch.lean ====
section
/-!
SUPPORT. Laws/KeepEpoch.lean: what the operations of Machine/Epoch.lean keep (Laws/Keep.lean).
-/
namespace Sys2Proof.Machine

theorem setControl_keeps {r a0 a1 a2} (h0 : Keeps r a0) (kpart : Lets r .part := by trivial) : Keeps r (setControl a0 a1 a2) := by
  unfold setControl; try dsimp only
  repeat' first | with_reducible assumption | with_reducible apply modPart_keeps

theorem partitionDrain_keeps {r a0 a1} (h0 : Keeps r a0) (kpart : Lets r .part := by trivial) : Keeps r (partitionDrain a0 a1) := by
  unfold partitionDrain; try dsimp only
  repeat' first | with_reducible assumption | with_reducible apply setControl_keeps | with_reducible apply keeps_ite

theorem partitionResume_keeps {r a0 a1} (h0 : Keeps r a0) (kpart : Lets r .part := by trivial) : Keeps r (partitionResume a0 a1) := by
  unfold partitionResume; try dsimp only
  repeat' first | with_reducible assumption | with_reducible apply setControl_keeps

theorem execPartitionDrained_keeps {r a0 a1} (h1 : Keeps r a1) (kpart : Lets r .part := by trivial) : KeepsO r (execPartitionDrained a0 a1) := by
  unfold execPartitionDrained; try dsimp only
  repeat' first | with_reducible assumption | with_reducible apply setControl_keeps | with_reducible apply keeps_next | with_reducible apply keepsO_ite

theorem execConfigDigestRecompute_keeps {r a0} (h0 : Keeps r a0) (kpart : Lets r .part := by trivial) : KeepsO r (execConfigDigestRecompute a0) := by
  unfold execConfigDigestRecompute; try dsimp only
  repeat' first | with_reducible assumption | with_reducible apply modPart_keeps | with_reducible apply keeps_next | with_reducible apply keepsO_ite

theorem sendEpoch_keeps {r a0 a1 a2 a3 a4} (h0 : Keeps r a0) (kfab : Lets r .fab := by trivial) : Keeps r (sendEpoch a0 a1 a2 a3 a4) := by
  unfold sendEpoch; try dsimp only
  repeat' first | with_reducible assumption | with_reducible apply send_keeps

theorem sendEpochAll_keeps {r a0 a1 a2 a3} (h0 : Keeps r a0) (kep : Lets r .ep := by trivial) (kfab : Lets r .fab := by trivial) : Keeps r (sendEpochAll a0 a1 a2 a3) := by
  unfold sendEpochAll; try dsimp only
  repeat' first | with_reducible assumption | (intro _) | with_reducible apply sendEpoch_keeps | with_reducible apply modEp_keeps | with_reducible apply keeps_foldl

theorem takeEpoch_keeps {r a0 a1 a2 a3} (h0 : Keeps r a0) (kfab : Lets r .fab := by trivial) : Keeps r (takeEpoch a0 a1 a2 a3) := by
  unfold takeEpoch; try dsimp only
  repeat' first | with_reducible assumption | with_reducible apply modFab_keeps

theorem prepareReturn_keeps {r a0 a1 a2} (h0 : Keeps r a0) (kinteg : Lets r .integ := by trivial) (kmem : Lets r .mem := by trivial) (kpart : Lets r .part := by trivial) (kvs : Lets r .vs := by trivial) : Keeps r (prepareReturn a0 a1 a2) := by
  unfold prepareReturn; try dsimp only
  repeat' first | with_reducible assumption | (intro _) | with_reducible apply modVatDie_keeps | with_reducible apply loadProgram_keeps | with_reducible apply loadBank_keeps | with_reducible apply keeps_ite | with_reducible apply keeps_foldl | split

theorem startSwitch_keeps {r a0 a1 a2} (h0 : Keeps r a0) (kep : Lets r .ep := by trivial) (kfab : Lets r .fab := by trivial) (kinteg : Lets r .integ := by trivial) (kmem : Lets r .mem := by trivial) (kpart : Lets r .part := by trivial) (kvs : Lets r .vs := by trivial) : Keeps r (startSwitch a0 a1 a2) := by
  unfold startSwitch; try dsimp only
  repeat' first | with_reducible assumption | (intro _) | with_reducible apply modEp_keeps | with_reducible apply prepareReturn_keeps | with_reducible apply sendEpochAll_keeps | with_reducible apply keeps_foldl | split

theorem execRepairSwitchArm_keeps {r a0} (h0 : Keeps r a0) (kep : Lets r .ep := by trivial) (kfab : Lets r .fab := by trivial) (kinteg : Lets r .integ := by trivial) (kmem : Lets r .mem := by trivial) (kpart : Lets r .part := by trivial) (kvs : Lets r .vs := by trivial) : KeepsO r (execRepairSwitchArm a0) := by
  unfold execRepairSwitchArm; try dsimp only
  repeat' first | with_reducible assumption | with_reducible apply startSwitch_keeps | with_reducible apply modEp_keeps | with_reducible apply keeps_next | with_reducible apply keepsO_ite

theorem execEpochArm_keeps {r a0 a1} (h1 : Keeps r a1) (kep : Lets r .ep := by trivial) (kfab : Lets r .fab := by trivial) : KeepsO r (execEpochArm a0 a1) := by
  unfold execEpochArm; try dsimp only
  repeat' first | with_reducible assumption | with_reducible apply takeEpoch_keeps | with_reducible apply modEp_keeps | with_reducible apply keeps_next | with_reducible apply keepsO_ite

theorem execEpochArmed_keeps {r a0 a1} (h1 : Keeps r a1) (kep : Lets r .ep := by trivial) : KeepsO r (execEpochArmed a0 a1) := by
  unfold execEpochArmed; try dsimp only
  repeat' first | with_reducible assumption | with_reducible apply modEp_keeps | with_reducible apply keeps_next | with_reducible apply keepsO_ite

theorem abortSwitch_keeps {r a0 a1} (h0 : Keeps r a0) (kep : Lets r .ep := by trivial) (kfab : Lets r .fab := by trivial) (kpart : Lets r .part := by trivial) : Keeps r (abortSwitch a0 a1) := by
  unfold abortSwitch; try dsimp only
  repeat' first | with_reducible assumption | with_reducible apply sendEpochAll_keeps | with_reducible apply modPart_keeps | with_reducible apply modEp_keeps

theorem execEpochArmAbort_keeps {r a0 a1} (h1 : Keeps r a1) (kep : Lets r .ep := by trivial) (kfab : Lets r .fab := by trivial) : KeepsO r (execEpochArmAbort a0 a1) := by
  unfold execEpochArmAbort; try dsimp only
  repeat' first | with_reducible assumption | with_reducible apply modEp_keeps | with_reducible apply takeEpoch_keeps | with_reducible apply keeps_next | with_reducible apply keepsO_ite

theorem execEpochArmTimeout_keeps {r a0} (h0 : Keeps r a0) (kep : Lets r .ep := by trivial) (kfab : Lets r .fab := by trivial) (know : Lets r .now := by trivial) (kpart : Lets r .part := by trivial) : KeepsO r (execEpochArmTimeout a0) := by
  unfold execEpochArmTimeout; try dsimp only
  repeat' first | with_reducible assumption | with_reducible apply abortSwitch_keeps | with_reducible apply timeReaches_keeps | with_reducible apply keeps_next | with_reducible apply keepsO_ite

theorem epochCancel_keeps {r a0} (h0 : Keeps r a0) (kep : Lets r .ep := by trivial) (kfab : Lets r .fab := by trivial) (kpart : Lets r .part := by trivial) : Keeps r (epochCancel a0) := by
  unfold epochCancel; try dsimp only
  repeat' first | with_reducible assumption | with_reducible apply abortSwitch_keeps

theorem goSlots_keeps {r a0 a1 a2} (h0 : Keeps r a0) (kpart : Lets r .part := by trivial) (kport : Lets r .port := by trivial) : Keeps r (goSlots a0 a1 a2) := by
  unfold goSlots; try dsimp only
  repeat' first | with_reducible assumption | (intro _) | with_reducible apply cancelRunning_keeps | with_reducible apply endPending_keeps | with_reducible apply modSlot_keeps | with_reducible apply keeps_ite | with_reducible apply keeps_foldl

theorem goVats_keeps {r a0 a1 a2} (h0 : Keeps r a0) (kpart : Lets r .part := by trivial) : Keeps r (goVats a0 a1 a2) := by
  unfold goVats; try dsimp only
  repeat' first | with_reducible assumption | (intro _) | with_reducible apply modVatDie_keeps | with_reducible apply keeps_ite | with_reducible apply keeps_foldl

theorem execEpochGoAt_keeps {r a0} (h0 : Keeps r a0) (kep : Lets r .ep := by trivial) (kfab : Lets r .fab := by trivial) (know : Lets r .now := by trivial) (kout : Lets r .out := by trivial) (kpart : Lets r .part := by trivial) (kport : Lets r .port := by trivial) (kpow : Lets r .pow := by trivial) : KeepsO r (execEpochGoAt a0) := by
  unfold execEpochGoAt; try dsimp only
  repeat' first | with_reducible assumption | (intro _) | with_reducible apply withDevice_keeps | with_reducible apply timeReaches_keeps | with_reducible apply modEp_keeps | with_reducible apply modPart_keeps | with_reducible apply goVats_keeps | with_reducible apply goSlots_keeps | with_reducible apply railsFollow_keeps | with_reducible apply sendEpochAll_keeps | with_reducible apply keeps_next | with_reducible apply keepsO_ite | split

theorem goBuckets_keeps {r a0 a1 a2} (h0 : Keeps r a0) (h1 : Keeps r a1) (kfab : Lets r .fab := by trivial) : Keeps r (goBuckets a0 a1 a2) := by
  unfold goBuckets; try dsimp only
  repeat' first | with_reducible assumption | (intro _) | with_reducible apply modFab_keeps | with_reducible apply keeps_ite | with_reducible apply keeps_foldl

theorem goQueues_keeps {r a0 a1 a2} (h0 : Keeps r a0) (kout : Lets r .out := by trivial) (kport : Lets r .port := by trivial) : Keeps r (goQueues a0 a1 a2) := by
  unfold goQueues; try dsimp only
  repeat' first | with_reducible assumption | (intro _) | with_reducible apply portEvent_keeps | with_reducible apply sqError_keeps | with_reducible apply sqDisable_keeps | with_reducible apply keeps_ite | with_reducible apply keeps_foldl

theorem goReductions_keeps {r a0 a1 a2} (h0 : Keeps r a0) (kfab : Lets r .fab := by trivial) (kinteg : Lets r .integ := by trivial) (kobs : Lets r .obs := by trivial) (kport : Lets r .port := by trivial) (kvs : Lets r .vs := by trivial) : Keeps r (goReductions a0 a1 a2) := by
  unfold goReductions; try dsimp only
  repeat' first | with_reducible assumption | (intro _) | with_reducible apply redEnter_keeps | with_reducible apply keeps_ite | with_reducible apply keeps_foldl

theorem goMulticast_keeps {r a0 a1 a2} (h0 : Keeps r a0) (kvs : Lets r .vs := by trivial) : Keeps r (goMulticast a0 a1 a2) := by
  unfold goMulticast; try dsimp only
  repeat' first | with_reducible assumption | (intro _) | with_reducible apply mcRejoin_keeps | with_reducible apply modAgent_keeps | with_reducible apply keeps_ite | with_reducible apply keeps_foldl

theorem goNoTree_keeps {r a0 a1 a2} (h0 : Keeps r a0) (kfab : Lets r .fab := by trivial) (kinteg : Lets r .integ := by trivial) (kobs : Lets r .obs := by trivial) (kport : Lets r .port := by trivial) (kvs : Lets r .vs := by trivial) : Keeps r (goNoTree a0 a1 a2) := by
  unfold goNoTree; try dsimp only
  repeat' first | with_reducible assumption | (intro _) | with_reducible apply mcFailWaits_keeps | with_reducible apply keeps_ite | with_reducible apply keeps_foldl

theorem goReturn_keeps {r a0 a1} (h0 : Keeps r a0) (kpart : Lets r .part := by trivial) (kvs : Lets r .vs := by trivial) : Keeps r (goReturn a0 a1) := by
  unfold goReturn; try dsimp only
  repeat' first | with_reducible assumption | with_reducible apply modVatDie_keeps | with_reducible apply seqBegin_keeps | with_reducible apply keeps_ite

theorem execEpochGo_keeps {r a0 a1} (h1 : Keeps r a1) (kep : Lets r .ep := by trivial) (kfab : Lets r .fab := by trivial) (kinteg : Lets r .integ := by trivial) (kled : Lets r .led := by trivial) (kobs : Lets r .obs := by trivial) (kout : Lets r .out := by trivial) (kpart : Lets r .part := by trivial) (kport : Lets r .port := by trivial) (kvs : Lets r .vs := by trivial) : KeepsO r (execEpochGo a0 a1) := by
  unfold execEpochGo; try dsimp only
  repeat' first | with_reducible assumption | with_reducible apply takeEpoch_keeps | with_reducible apply modEp_keeps | with_reducible apply modInteg_keeps | with_reducible apply goBuckets_keeps | with_reducible apply goMulticast_keeps | with_reducible apply goReductions_keeps | with_reducible apply goNoTree_keeps | with_reducible apply goReturn_keeps | with_reducible apply goQueues_keeps | with_reducible apply installAdmission_keeps | with_reducible apply keeps_next | with_reducible apply keepsO_ite | with_reducible apply keeps_ite

theorem retireIfDone_keeps {r a0} (h0 : Keeps r a0) (kep : Lets r .ep := by trivial) (kfab : Lets r .fab := by trivial) : Keeps r (retireIfDone a0) := by
  unfold retireIfDone; try dsimp only
  repeat' first | with_reducible assumption | with_reducible apply sendEpochAll_keeps | with_reducible apply modEp_keeps | with_reducible apply keeps_ite

theorem contribute_keeps {r a0 a1} (h0 : Keeps r a0) (kep : Lets r .ep := by trivial) (kfab : Lets r .fab := by trivial) : Keeps r (contribute a0 a1) := by
  unfold contribute; try dsimp only
  repeat' first | with_reducible assumption | with_reducible apply retireIfDone_keeps | with_reducible apply modEp_keeps

theorem execPortDone_keeps {r a0 a1} (h1 : Keeps r a1) (kep : Lets r .ep := by trivial) (kfab : Lets r .fab := by trivial) : KeepsO r (execPortDone a0 a1) := by
  unfold execPortDone; try dsimp only
  repeat' first | with_reducible assumption | with_reducible apply contribute_keeps | with_reducible apply keeps_next | with_reducible apply keepsO_ite

theorem endOldStreams_keeps {r a0 a1} (h0 : Keeps r a0) (kep : Lets r .ep := by trivial) (kfab : Lets r .fab := by trivial) (kinteg : Lets r .integ := by trivial) (kobs : Lets r .obs := by trivial) (kport : Lets r .port := by trivial) (kvs : Lets r .vs := by trivial) : Keeps r (endOldStreams a0 a1) := by
  unfold endOldStreams; try dsimp only
  repeat' first | with_reducible assumption | (intro _) | with_reducible apply modEp_keeps | with_reducible apply report_keeps | with_reducible apply endStream_keeps | with_reducible apply keeps_ite | with_reducible apply keeps_foldl | split

theorem endOldGroups_keeps {r a0 a1} (h0 : Keeps r a0) (kfab : Lets r .fab := by trivial) (kinteg : Lets r .integ := by trivial) (kobs : Lets r .obs := by trivial) (kport : Lets r .port := by trivial) (kvs : Lets r .vs := by trivial) : Keeps r (endOldGroups a0 a1) := by
  unfold endOldGroups; try dsimp only
  repeat' first | with_reducible assumption | (intro _) | with_reducible apply mcPrune_keeps | with_reducible apply keeps_foldl

theorem execEpochDrainTimeout_keeps {r a0 a1} (h1 : Keeps r a1) (kep : Lets r .ep := by trivial) (kfab : Lets r .fab := by trivial) (kinteg : Lets r .integ := by trivial) (know : Lets r .now := by trivial) (kobs : Lets r .obs := by trivial) (kport : Lets r .port := by trivial) (kvs : Lets r .vs := by trivial) : KeepsO r (execEpochDrainTimeout a0 a1) := by
  unfold execEpochDrainTimeout; try dsimp only
  repeat' first | with_reducible assumption | with_reducible apply timeReaches_keeps | with_reducible apply contribute_keeps | with_reducible apply settleAll_keeps | with_reducible apply endOldGroups_keeps | with_reducible apply endOldStreams_keeps | with_reducible apply keeps_next | with_reducible apply keepsO_ite | split

theorem fenceReset_keeps {r a0 a1} (h0 : Keeps r a0) (kfab : Lets r .fab := by trivial) (kinteg : Lets r .integ := by trivial) (kobs : Lets r .obs := by trivial) (kpart : Lets r .part := by trivial) (kpow : Lets r .pow := by trivial) (ktime : Lets r .time := by trivial) (kvs : Lets r .vs := by trivial) : Keeps r (fenceReset a0 a1) := by
  unfold fenceReset; try dsimp only
  repeat' first | with_reducible assumption | with_reducible apply resetTiles_keeps | with_reducible apply modVatDie_keeps | with_reducible apply modTime_keeps | with_reducible apply modPow_keeps | with_reducible apply keeps_ite

theorem execEpochRetire_keeps {r a0 a1} (h1 : Keeps r a1) (kep : Lets r .ep := by trivial) (kfab : Lets r .fab := by trivial) (kinteg : Lets r .integ := by trivial) (kobs : Lets r .obs := by trivial) (kpart : Lets r .part := by trivial) (kpow : Lets r .pow := by trivial) (ktime : Lets r .time := by trivial) (kvs : Lets r .vs := by trivial) : KeepsO r (execEpochRetire a0 a1) := by
  unfold execEpochRetire; try dsimp only
  repeat' first | with_reducible assumption | with_reducible apply takeEpoch_keeps | with_reducible apply modEp_keeps | with_reducible apply fenceReset_keeps | with_reducible apply keeps_next | with_reducible apply keepsO_ite

theorem healPartitions_keeps {r a0} (h0 : Keeps r a0) (kinteg : Lets r .integ := by trivial) (kout : Lets r .out := by trivial) (kport : Lets r .port := by trivial) : Keeps r (healPartitions a0) := by
  unfold healPartitions; try dsimp only
  repeat' first | with_reducible assumption | (intro _) | with_reducible apply partitionNote_keeps | with_reducible apply modInteg_keeps | with_reducible apply keeps_ite | with_reducible apply keeps_foldl

theorem execEpochRetired_keeps {r a0 a1} (h1 : Keeps r a1) (kep : Lets r .ep := by trivial) (kinteg : Lets r .integ := by trivial) (kout : Lets r .out := by trivial) (kport : Lets r .port := by trivial) (kpow : Lets r .pow := by trivial) : KeepsO r (execEpochRetired a0 a1) := by
  unfold execEpochRetired; try dsimp only
  repeat' first | with_reducible assumption | (intro _) | with_reducible apply modEp_keeps | with_reducible apply withDevice_keeps | with_reducible apply modPow_keeps | with_reducible apply healPartitions_keeps | with_reducible apply keeps_next | with_reducible apply keepsO_ite

theorem execEpochResend_keeps {r a0 a1} (h1 : Keeps r a1) (kep : Lets r .ep := by trivial) (kfab : Lets r .fab := by trivial) (know : Lets r .now := by trivial) : KeepsO r (execEpochResend a0 a1) := by
  unfold execEpochResend; try dsimp only
  repeat' first | with_reducible assumption | with_reducible apply timeReaches_keeps | with_reducible apply modEp_keeps | with_reducible apply sendEpoch_keeps | with_reducible apply retireIfDone_keeps | with_reducible apply keeps_next | with_reducible apply keepsO_ite

theorem execBistDone_keeps {r a0 a1 a2 a3} (h3 : Keeps r a3) (kpart : Lets r .part := by trivial) (ktime : Lets r .time := by trivial) : KeepsO r (execBistDone a0 a1 a2 a3) := by
  unfold execBistDone; try dsimp only
  repeat' first | with_reducible assumption | with_reducible apply modVatDie_keeps | with_reducible apply modTime_keeps | with_reducible apply keeps_next | with_reducible apply keepsO_ite | with_reducible apply keeps_ite

end Sys2Proof.Machine
end

