-- ==== Sys2Proof/Laws/KeepObserve.lean ====
section
/-!
SUPPORT. Laws/KeepObserve.lean: what the operations of Machine/Observe.lean keep (Laws/Keep.lean).
-/
namespace Sys2Proof.Machine

theorem counterClear_keeps {r a0 a1} (h0 : Keeps r a0) (kobs : Lets r .obs := by trivial) : Keeps r (counterClear a0 a1) := by
  unfold counterClear; try dsimp only
  repeat' first | with_reducible assumption | with_reducible apply modObs_keeps

theorem modBuf_keeps {r a0 a1 a2} (h0 : Keeps r a0) (kobs : Lets r .obs := by trivial) : Keeps r (modBuf a0 a1 a2) := by
  unfold modBuf; try dsimp only
  repeat' first | with_reducible assumption | with_reducible apply modObs_keeps

theorem putRing_keeps {r a0 a1 a2} (h0 : Keeps r a0) (kobs : Lets r .obs := by trivial) : Keeps r (putRing a0 a1 a2) := by
  unfold putRing; try dsimp only
  repeat' first | with_reducible assumption | with_reducible apply modBuf_keeps

theorem bufReport_keeps {r a0 a1 a2} (h0 : Keeps r a0) (kinteg : Lets r .integ := by trivial) (kobs : Lets r .obs := by trivial) : Keeps r (bufReport a0 a1 a2) := by
  unfold bufReport; try dsimp only
  repeat' first | with_reducible assumption | with_reducible apply report_keeps

theorem triggerFire_keeps {r a0 a1 a2 a3} (h0 : Keeps r a0) (kinteg : Lets r .integ := by trivial) (kobs : Lets r .obs := by trivial) : Keeps r (triggerFire a0 a1 a2 a3) := by
  unfold triggerFire; try dsimp only
  repeat' first | with_reducible assumption | with_reducible apply modBuf_keeps | with_reducible apply bufReport_keeps

theorem bufAppend_keeps {r a0 a1 a2} (h1 : Keeps r a1) (kinteg : Lets r .integ := by trivial) (kobs : Lets r .obs := by trivial) : Keeps r (bufAppend a0 a1 a2) := by
  unfold bufAppend; try dsimp only
  repeat' first | with_reducible assumption | with_reducible apply modBuf_keeps | with_reducible apply putRing_keeps | with_reducible apply triggerFire_keeps | with_reducible apply bufReport_keeps | with_reducible apply keeps_ite

theorem bufferArm_keeps {r a0 a1} (h0 : Keeps r a0) (kobs : Lets r .obs := by trivial) : Keeps r (bufferArm a0 a1) := by
  unfold bufferArm; try dsimp only
  repeat' first | with_reducible assumption | with_reducible apply modBuf_keeps

theorem bufferStop_keeps {r a0 a1} (h0 : Keeps r a0) (kobs : Lets r .obs := by trivial) : Keeps r (bufferStop a0 a1) := by
  unfold bufferStop; try dsimp only
  repeat' first | with_reducible assumption | with_reducible apply modBuf_keeps | with_reducible apply keeps_ite

theorem bufferTrigger_keeps {r a0 a1} (h0 : Keeps r a0) (kinteg : Lets r .integ := by trivial) (kobs : Lets r .obs := by trivial) : Keeps r (bufferTrigger a0 a1) := by
  unfold bufferTrigger; try dsimp only
  repeat' first | with_reducible assumption | with_reducible apply triggerFire_keeps

theorem bufferDisarm_keeps {r a0 a1} (h0 : Keeps r a0) (kobs : Lets r .obs := by trivial) : Keeps r (bufferDisarm a0 a1) := by
  unfold bufferDisarm; try dsimp only
  repeat' first | with_reducible assumption | with_reducible apply modBuf_keeps

theorem execTraceStageSend_keeps {r a0 a1} (h1 : Keeps r a1) (kfab : Lets r .fab := by trivial) (know : Lets r .now := by trivial) (kobs : Lets r .obs := by trivial) : KeepsO r (execTraceStageSend a0 a1) := by
  unfold execTraceStageSend; try dsimp only
  repeat' first | with_reducible assumption | with_reducible apply timeReaches_keeps | with_reducible apply modObs_keeps | with_reducible apply send_keeps | with_reducible apply keeps_next | with_reducible apply keepsO_ite | with_reducible apply keeps_ite

theorem execTraceAppend_keeps {r a0 a1 a2} (h2 : Keeps r a2) (kfab : Lets r .fab := by trivial) (kinteg : Lets r .integ := by trivial) (kobs : Lets r .obs := by trivial) : KeepsO r (execTraceAppend a0 a1 a2) := by
  unfold execTraceAppend; try dsimp only
  repeat' first | with_reducible assumption | (intro _) | with_reducible apply onArrival_keeps | with_reducible apply rxArrive_keeps | with_reducible apply refuse_keeps | with_reducible apply bufAppend_keeps | with_reducible apply keeps_foldl | split

theorem modSnap_keeps {r a0 a1 a2} (h0 : Keeps r a0) (kobs : Lets r .obs := by trivial) : Keeps r (modSnap a0 a1 a2) := by
  unfold modSnap; try dsimp only
  repeat' first | with_reducible assumption | with_reducible apply modObs_keeps

theorem freezeSend_keeps {r a0 a1 a2 a3 a4} (h0 : Keeps r a0) (kobs : Lets r .obs := by trivial) : Keeps r (freezeSend a0 a1 a2 a3 a4) := by
  unfold freezeSend; try dsimp only
  repeat' first | with_reducible assumption | (intro _) | with_reducible apply modObs_keeps | with_reducible apply modSnap_keeps | with_reducible apply keeps_foldl

theorem snapCapture_keeps {r a0 a1 a2} (h0 : Keeps r a0) (kfree : Lets r .free := by trivial) (kinteg : Lets r .integ := by trivial) (kobs : Lets r .obs := by trivial) : Keeps r (snapCapture a0 a1 a2) := by
  unfold snapCapture; try dsimp only
  repeat' first | with_reducible assumption | with_reducible apply takeDraws_keeps | with_reducible apply modSnap_keeps | with_reducible apply report_keeps | with_reducible apply keeps_ite

theorem execFreezeLatch_keeps {r a0 a1} (h1 : Keeps r a1) (kfree : Lets r .free := by trivial) (kinteg : Lets r .integ := by trivial) (kobs : Lets r .obs := by trivial) : KeepsO r (execFreezeLatch a0 a1) := by
  unfold execFreezeLatch; try dsimp only
  repeat' first | with_reducible assumption | with_reducible apply modSnap_keeps | with_reducible apply snapCapture_keeps | with_reducible apply keeps_next | with_reducible apply keepsO_ite | with_reducible apply keeps_ite | split

theorem execSnapshotCapture_keeps {r a0 a1} (h1 : Keeps r a1) (kfree : Lets r .free := by trivial) (kinteg : Lets r .integ := by trivial) (know : Lets r .now := by trivial) (kobs : Lets r .obs := by trivial) : KeepsO r (execSnapshotCapture a0 a1) := by
  unfold execSnapshotCapture; try dsimp only
  repeat' first | with_reducible assumption | with_reducible apply snapCapture_keeps | with_reducible apply timeReaches_keeps | with_reducible apply keeps_next | with_reducible apply keepsO_ite

theorem snapshotRelease_keeps {r a0 a1} (h0 : Keeps r a0) (kobs : Lets r .obs := by trivial) : Keeps r (snapshotRelease a0 a1) := by
  unfold snapshotRelease; try dsimp only
  repeat' first | with_reducible assumption | (intro _) | with_reducible apply modSnap_keeps | with_reducible apply keeps_ite | with_reducible apply keeps_foldl

theorem execDeadlineSnapshotRequest_keeps {r a0 a1 a2} (h2 : Keeps r a2) (kdict : Lets r .dict := by trivial) (know : Lets r .now := by trivial) (kobs : Lets r .obs := by trivial) (kport : Lets r .port := by trivial) : KeepsO r (execDeadlineSnapshotRequest a0 a1 a2) := by
  unfold execDeadlineSnapshotRequest; try dsimp only
  repeat' first | with_reducible assumption | with_reducible apply timeReaches_keeps | with_reducible apply modCtx_keeps | with_reducible apply modDict_keeps | with_reducible apply freezeSend_keeps | with_reducible apply keeps_next | with_reducible apply keepsO_ite

end Sys2Proof.Machine
end

