-- ==== Sys2Proof/Laws/KeepSec.lean ====
section
/-!
SUPPORT. Laws/KeepSec.lean: what the operations of Machine/Sec.lean keep (Laws/Keep.lean).
-/
namespace Sys2Proof.Machine

theorem applied_keeps {r a0} (h0 : Keeps r a0)  : KeepsW r (applied a0) := by
  unfold applied; try dsimp only
  repeat' first | with_reducible assumption | with_reducible apply keeps_wok

theorem started_keeps {r a0} (h0 : Keeps r a0)  : KeepsW r (started a0) := by
  unfold started; try dsimp only
  repeat' first | with_reducible assumption | with_reducible apply keeps_wok

theorem onlyOne_keeps {r a0 a1 a2 a3} (h2 : KeepsW r a2) (h3 : Keeps r a3)  : KeepsW r (onlyOne a0 a1 a2 a3) := by
  unfold onlyOne; try dsimp only
  repeat' first | with_reducible assumption | with_reducible apply keeps_wref | with_reducible apply keepsW_ite

theorem closeService_keeps {r a0 a1} (h0 : Keeps r a0) (kdict : Lets r .dict := by trivial) : Keeps r (closeService a0 a1) := by
  unfold closeService; try dsimp only
  repeat' first | with_reducible assumption | with_reducible apply modDict_keeps | with_reducible apply keeps_ite

theorem endUnlock_keeps {r a0 a1} (h0 : Keeps r a0) (kdict : Lets r .dict := by trivial) (kinteg : Lets r .integ := by trivial) (kobs : Lets r .obs := by trivial) (ksec : Lets r .sec := by trivial) : Keeps r (endUnlock a0 a1) := by
  unfold endUnlock; try dsimp only
  repeat' first | with_reducible assumption | exact fun (_ : SecState) => fuses_same rfl rfl | with_reducible apply secReport_keeps | with_reducible apply closeService_keeps | with_reducible apply modSec_keeps | split

theorem execUnlockExpiry_keeps {r a0} (h0 : Keeps r a0) (kdict : Lets r .dict := by trivial) (kinteg : Lets r .integ := by trivial) (know : Lets r .now := by trivial) (kobs : Lets r .obs := by trivial) (ksec : Lets r .sec := by trivial) : KeepsO r (execUnlockExpiry a0) := by
  unfold execUnlockExpiry; try dsimp only
  repeat' first | with_reducible assumption | with_reducible apply endUnlock_keeps | with_reducible apply timeReaches_keeps | with_reducible apply keeps_next | split

theorem newNonce_keeps {r a0} (h0 : Keeps r a0) (kfree : Lets r .free := by trivial) (ksec : Lets r .sec := by trivial) : Keeps r (newNonce a0) := by
  unfold newNonce; try dsimp only
  repeat' first | with_reducible assumption | exact fun (_ : SecState) => fuses_same rfl rfl | with_reducible apply drawBytes_keeps | with_reducible apply modSec_keeps

theorem unlockToken_keeps {r a0 a1} (h0 : Keeps r a0) (kdict : Lets r .dict := by trivial) (kfree : Lets r .free := by trivial) (kinteg : Lets r .integ := by trivial) (kobs : Lets r .obs := by trivial) (ksec : Lets r .sec := by trivial) : KeepsW r (unlockToken a0 a1) := by
  unfold unlockToken; try dsimp only
  repeat' first | with_reducible assumption | exact fun (_ : SecState) => fuses_same rfl rfl | with_reducible apply secReport_keeps | with_reducible apply modSec_keeps | with_reducible apply closeService_keeps | with_reducible apply applied_keeps | with_reducible apply newNonce_keeps | with_reducible apply keeps_wref | with_reducible apply keeps_ite | split

theorem newChallenge_keeps {r a0 a1} (h0 : Keeps r a0) (kdict : Lets r .dict := by trivial) (kfree : Lets r .free := by trivial) : Keeps r (newChallenge a0 a1).2 := by
  unfold newChallenge; try dsimp only
  repeat' first | with_reducible assumption | with_reducible apply drawBytes_keeps | with_reducible apply modDict_keeps

theorem dropChallenge_keeps {r a0 a1 a2} (h0 : Keeps r a0) (kdict : Lets r .dict := by trivial) : Keeps r (dropChallenge a0 a1 a2) := by
  unfold dropChallenge; try dsimp only
  repeat' first | with_reducible assumption | with_reducible apply modDict_keeps

theorem execChallengeExpiry_keeps {r a0 a1 a2} (h2 : Keeps r a2) (kdict : Lets r .dict := by trivial) (know : Lets r .now := by trivial) : KeepsO r (execChallengeExpiry a0 a1 a2) := by
  unfold execChallengeExpiry; try dsimp only
  repeat' first | with_reducible assumption | with_reducible apply dropChallenge_keeps | with_reducible apply timeReaches_keeps | with_reducible apply keeps_next | split

theorem sessionResponse_keeps {r a0 a1 a2} (h0 : Keeps r a0) (kdict : Lets r .dict := by trivial) (kinteg : Lets r .integ := by trivial) (kobs : Lets r .obs := by trivial) (ksec : Lets r .sec := by trivial) : KeepsW r (sessionResponse a0 a1 a2) := by
  unfold sessionResponse; try dsimp only
  repeat' first | with_reducible assumption | exact fun (_ : SecState) => fuses_same rfl rfl | with_reducible apply dropChallenge_keeps | with_reducible apply secReport_keeps | with_reducible apply modSec_keeps | with_reducible apply modDict_keeps | with_reducible apply keeps_wref | with_reducible apply keeps_wok | with_reducible apply keepsW_ite

theorem execSessionTimeout_keeps {r a0 a1} (h1 : Keeps r a1) (kdict : Lets r .dict := by trivial) (know : Lets r .now := by trivial) : KeepsO r (execSessionTimeout a0 a1) := by
  unfold execSessionTimeout; try dsimp only
  repeat' first | with_reducible assumption | with_reducible apply timeReaches_keeps | with_reducible apply modDict_keeps | with_reducible apply keeps_next | split

theorem sessionClose_keeps {r a0 a1 a2} (h0 : Keeps r a0) (kdict : Lets r .dict := by trivial) : KeepsW r (sessionClose a0 a1 a2) := by
  unfold sessionClose; try dsimp only
  repeat' first | with_reducible assumption | with_reducible apply applied_keeps | with_reducible apply modDict_keeps | with_reducible apply keeps_wref | with_reducible apply keepsW_ite

theorem closeRole_keeps {r a0 a1 a2 a3} (h0 : Keeps r a0) (kdict : Lets r .dict := by trivial) : Keeps r (closeRole a0 a1 a2 a3) := by
  unfold closeRole; try dsimp only
  repeat' first | with_reducible assumption | with_reducible apply modDict_keeps

theorem roleEnrol_keeps {r a0 a1 a2} (h0 : Keeps r a0) (kdict : Lets r .dict := by trivial) (ksec : Lets r .sec := by trivial) : KeepsW r (roleEnrol a0 a1 a2) := by
  unfold roleEnrol; try dsimp only
  repeat' first | with_reducible assumption | exact fun (_ : SecState) => fuses_same rfl rfl | with_reducible apply applied_keeps | with_reducible apply closeRole_keeps | with_reducible apply modSec_keeps | with_reducible apply keeps_wref | with_reducible apply keepsW_ite | split

theorem roleRevoke_keeps {r a0 a1} (h0 : Keeps r a0) (kdict : Lets r .dict := by trivial) (ksec : Lets r .sec := by trivial) : KeepsW r (roleRevoke a0 a1) := by
  unfold roleRevoke; try dsimp only
  repeat' first | with_reducible assumption | exact fun (_ : SecState) => fuses_same rfl rfl | with_reducible apply applied_keeps | with_reducible apply closeRole_keeps | with_reducible apply modSec_keeps | with_reducible apply keeps_wref | with_reducible apply keepsW_ite

theorem attestNonce_keeps {r a0 a1 a2} (h0 : Keeps r a0) (ksec : Lets r .sec := by trivial) : Keeps r (attestNonce a0 a1 a2) := by
  unfold attestNonce; try dsimp only
  repeat' first | with_reducible assumption | exact fun (_ : SecState) => fuses_same rfl rfl | with_reducible apply modSec_keeps

theorem execAttestNonceExpiry_keeps {r a0 a1 a2} (h2 : Keeps r a2) (know : Lets r .now := by trivial) (ksec : Lets r .sec := by trivial) : KeepsO r (execAttestNonceExpiry a0 a1 a2) := by
  unfold execAttestNonceExpiry; try dsimp only
  repeat' first | with_reducible assumption | exact fun (_ : SecState) => fuses_same rfl rfl | with_reducible apply modSec_keeps | with_reducible apply timeReaches_keeps | with_reducible apply keeps_next | split

theorem burnFuse_keeps {r a0 a1} (h0 : Keeps r a0) (kled : Lets r .led := by trivial) (ksec : Lets r .sec := by trivial) : Keeps r (burnFuse a0 a1) := by
  exact modLedger_keeps (modSec_keeps h0 fun v => ⟨Nat.le_refl _, fun k => tinc_grows _ _ _ k⟩)

theorem clearMark_keeps {r a0} (h0 : Keeps r a0) (kpow : Lets r .pow := by trivial) : Keeps r (clearMark a0) := by
  unfold clearMark; try dsimp only
  repeat' first | with_reducible assumption | with_reducible apply modPow_keeps | with_reducible apply keeps_ite

theorem zeroiseGo_keeps {r a0} (h0 : Keeps r a0) (kinteg : Lets r .integ := by trivial) (kled : Lets r .led := by trivial) (kobs : Lets r .obs := by trivial) (kout : Lets r .out := by trivial) (kport : Lets r .port := by trivial) (kpow : Lets r .pow := by trivial) (ksec : Lets r .sec := by trivial) : Keeps r (zeroiseGo a0) := by
  unfold zeroiseGo; try dsimp only
  repeat' first | with_reducible assumption | exact fun (_ : SecState) => fuses_same rfl rfl | (intro _) | with_reducible apply withDevice_keeps | with_reducible apply burnFuse_keeps | with_reducible apply modPow_keeps | with_reducible apply modSec_keeps | with_reducible apply clearMark_keeps | with_reducible apply secReport_keeps | with_reducible apply keeps_ite | with_reducible apply keeps_foldl

theorem burnLate_keeps {r a0 a1} (h0 : Keeps r a0) (kled : Lets r .led := by trivial) (kpow : Lets r .pow := by trivial) (ksec : Lets r .sec := by trivial) : Keeps r (burnLate a0 a1) := by
  unfold burnLate; try dsimp only
  repeat' first | with_reducible assumption | with_reducible apply clearMark_keeps | with_reducible apply burnFuse_keeps | with_reducible apply keeps_ite

theorem zeroise_keeps {r a0 a1} (h0 : Keeps r a0) (kinteg : Lets r .integ := by trivial) (kled : Lets r .led := by trivial) (kobs : Lets r .obs := by trivial) (kout : Lets r .out := by trivial) (kport : Lets r .port := by trivial) (kpow : Lets r .pow := by trivial) (ksec : Lets r .sec := by trivial) : KeepsW r (zeroise a0 a1) := by
  unfold zeroise; try dsimp only
  repeat' first | with_reducible assumption | exact fun (_ : SecState) => fuses_same rfl rfl | with_reducible apply modSec_keeps | with_reducible apply started_keeps | with_reducible apply zeroiseGo_keeps | with_reducible apply modPow_keeps | with_reducible apply keeps_wref | with_reducible apply keepsW_ite

theorem stopLedgers_keeps {r a0} (h0 : Keeps r a0) (kinteg : Lets r .integ := by trivial) (kled : Lets r .led := by trivial) (kobs : Lets r .obs := by trivial) : Keeps r (stopLedgers a0) := by
  unfold stopLedgers; try dsimp only
  repeat' first | with_reducible assumption | (intro _) | with_reducible apply ledgerStop_keeps | with_reducible apply keeps_ite | with_reducible apply keeps_foldl

theorem scanGo_keeps {r a0} (h0 : Keeps r a0) (kinteg : Lets r .integ := by trivial) (kled : Lets r .led := by trivial) (kobs : Lets r .obs := by trivial) (kout : Lets r .out := by trivial) (kport : Lets r .port := by trivial) (kpow : Lets r .pow := by trivial) (ksec : Lets r .sec := by trivial) : Keeps r (scanGo a0) := by
  unfold scanGo; try dsimp only
  repeat' first | with_reducible assumption | exact fun (_ : SecState) => fuses_same rfl rfl | (intro _) | with_reducible apply stopLedgers_keeps | with_reducible apply modSec_keeps | with_reducible apply withDevice_keeps | with_reducible apply modPow_keeps | with_reducible apply keeps_ite

theorem scanEnter_keeps {r a0} (h0 : Keeps r a0) (kinteg : Lets r .integ := by trivial) (kled : Lets r .led := by trivial) (kobs : Lets r .obs := by trivial) (kout : Lets r .out := by trivial) (kport : Lets r .port := by trivial) (kpow : Lets r .pow := by trivial) (ksec : Lets r .sec := by trivial) : Keeps r (scanEnter a0) := by
  unfold scanEnter; try dsimp only
  repeat' first | with_reducible assumption | exact fun (_ : SecState) => fuses_same rfl rfl | with_reducible apply scanGo_keeps | with_reducible apply modSec_keeps | with_reducible apply keeps_ite

theorem floorCommit_keeps {r a0} (h0 : Keeps r a0) (ksec : Lets r .sec := by trivial) : Keeps r (floorCommit a0) := by
  exact modSec_keeps h0 fun v => ⟨Nat.le_max_left _ _, fun _ => Nat.le_refl _⟩

theorem execEntropyFault_keeps {r a0 a1} (h1 : Keeps r a1) (kinteg : Lets r .integ := by trivial) (kobs : Lets r .obs := by trivial) (ksec : Lets r .sec := by trivial) : KeepsO r (execEntropyFault a0 a1) := by
  unfold execEntropyFault; try dsimp only
  repeat' first | with_reducible assumption | exact fun (_ : SecState) => fuses_same rfl rfl | with_reducible apply secReport_keeps | with_reducible apply modSec_keeps | with_reducible apply keeps_next | with_reducible apply keepsO_ite

theorem selfTest_keeps {r a0 a1 a2} (h0 : Keeps r a0) (kinteg : Lets r .integ := by trivial) (kobs : Lets r .obs := by trivial) (ksec : Lets r .sec := by trivial) : Keeps r (selfTest a0 a1 a2) := by
  unfold selfTest; try dsimp only
  repeat' first | with_reducible assumption | exact fun (_ : SecState) => fuses_same rfl rfl | with_reducible apply modSec_keeps | with_reducible apply secReport_keeps | with_reducible apply keeps_ite

end Sys2Proof.Machine
end

