-- ==== Sys2Proof/Laws/KeepPower.lean ====
section
/-!
SUPPORT. Laws/KeepPower.lean: what the operations of Machine/Power.lean keep (Laws/Keep.lean).
-/
namespace Sys2Proof.Machine

theorem powReport_keeps {r a0 a1 a2 a3 a4} (h0 : Keeps r a0) (kinteg : Lets r .integ := by trivial) (kobs : Lets r .obs := by trivial) : Keeps r (powReport a0 a1 a2 a3 a4) := by
  unfold powReport; try dsimp only
  repeat' first | with_reducible assumption | with_reducible apply report_keeps

theorem flushRecords_keeps {r a0 a1} (h0 : Keeps r a0) (kled : Lets r .led := by trivial) (kport : Lets r .port := by trivial) : Keeps r (flushRecords a0 a1) := by
  unfold flushRecords; try dsimp only
  repeat' first | with_reducible assumption | (intro _) | with_reducible apply modCtx_keeps | with_reducible apply modChain_keeps | with_reducible apply keeps_ite | with_reducible apply keeps_foldl | split

theorem flushPage_keeps {r a0 a1 a2} (h0 : Keeps r a0) (kinteg : Lets r .integ := by trivial) (kled : Lets r .led := by trivial) (kobs : Lets r .obs := by trivial) (kout : Lets r .out := by trivial) (kport : Lets r .port := by trivial) (kpow : Lets r .pow := by trivial) : Keeps r (flushPage a0 a1 a2) := by
  unfold flushPage
  split
  · rename_i a t h
    obtain ⟨x, _, hx⟩ := List.exists_of_findSome?_eq_some h
    refine programPage_keeps ?_
    split at hx
    · cases e : openBlock a0 a1 (ppaBlock x) a2 with
      | none => rw [e] at hx; cases hx
      | some u =>
        rw [e] at hx
        cases hx
        exact keeps_of_some e (openBlock_keeps h0)
    · cases hx
  · exact h0

theorem flushPages_keeps {r a0 a1 a2} (h1 : Keeps r a1) (kinteg : Lets r .integ := by trivial) (kled : Lets r .led := by trivial) (kobs : Lets r .obs := by trivial) (kout : Lets r .out := by trivial) (kport : Lets r .port := by trivial) (kpow : Lets r .pow := by trivial) : Keeps r (flushPages a0 a1 a2) := by
  induction a0 generalizing a1 a2 h1 with
  | zero =>
    unfold flushPages; try dsimp only
    repeat' first | with_reducible assumption | with_reducible apply flushPage_keeps | with_reducible apply modLedger_keeps | split
  | succ n ih =>
    unfold flushPages; try dsimp only
    repeat' first | apply ih | with_reducible assumption | with_reducible apply flushPage_keeps | with_reducible apply modLedger_keeps | split

theorem flushEngine_keeps {r a0 a1 a2} (h0 : Keeps r a0) (kinteg : Lets r .integ := by trivial) (kled : Lets r .led := by trivial) (kobs : Lets r .obs := by trivial) (kout : Lets r .out := by trivial) (kport : Lets r .port := by trivial) (kpow : Lets r .pow := by trivial) : Keeps r (flushEngine a0 a1 a2) := by
  unfold flushEngine; try dsimp only
  repeat' first | with_reducible assumption | with_reducible apply queueTail_keeps | with_reducible apply chainAdvance_keeps | with_reducible apply flushRecords_keeps | with_reducible apply modLedger_keeps | with_reducible apply flushPages_keeps | with_reducible apply keeps_ite

theorem powerFail_keeps {r a0 a1} (h0 : Keeps r a0) (kep : Lets r .ep := by trivial) (kinteg : Lets r .integ := by trivial) (kled : Lets r .led := by trivial) (kobs : Lets r .obs := by trivial) (kout : Lets r .out := by trivial) (kport : Lets r .port := by trivial) (kpow : Lets r .pow := by trivial) : Keeps r (powerFail a0 a1) := by
  unfold powerFail
  refine withDevice_keeps (fun s hs => ?_) h0
  have h3 : Keeps r ((List.range 4).foldl (fun s k => flushEngine s a1 k)
      (powReport ((List.range 4).foldl (fun s n => modAdm s n fun a => { a with stopped := true }) s)
        ((List.range 4).foldl (fun s n => modAdm s n fun a => { a with stopped := true }) s).mgmtDie 0xA9 2 0)) :=
    keeps_foldl (fun _ _ h => flushEngine_keeps h) _ (powReport_keeps (keeps_foldl (fun _ _ h => modAdm_keeps h) _ hs))
  exact modPow_keeps (keeps_ite (modEp_keeps h3) h3)

theorem execPwrfailNAssert_keeps {r a0 a1 a2} (h2 : Keeps r a2) (kep : Lets r .ep := by trivial) (kfree : Lets r .free := by trivial) (kinteg : Lets r .integ := by trivial) (kled : Lets r .led := by trivial) (kobs : Lets r .obs := by trivial) (kout : Lets r .out := by trivial) (kport : Lets r .port := by trivial) (kpow : Lets r .pow := by trivial) : KeepsO r (execPwrfailNAssert a0 a1 a2) := by
  unfold execPwrfailNAssert; try dsimp only
  repeat' first | with_reducible assumption | with_reducible apply powerFail_keeps | with_reducible apply draw_keeps | with_reducible apply keeps_next | with_reducible apply keepsO_ite | with_reducible apply keeps_ite

theorem thermalTrip_keeps {r a0 a1} (h0 : Keeps r a0) (kep : Lets r .ep := by trivial) (kinteg : Lets r .integ := by trivial) (kled : Lets r .led := by trivial) (kobs : Lets r .obs := by trivial) (kout : Lets r .out := by trivial) (kport : Lets r .port := by trivial) (kpow : Lets r .pow := by trivial) : Keeps r (thermalTrip a0 a1) := by
  unfold thermalTrip; try dsimp only
  repeat' first | with_reducible assumption | with_reducible apply powReport_keeps | with_reducible apply modPow_keeps | with_reducible apply powerFail_keeps | with_reducible apply keeps_ite

theorem powStat_keeps {r a0 a1 a2} (h0 : Keeps r a0) (kpow : Lets r .pow := by trivial) : Keeps r (powStat a0 a1 a2) := by
  unfold powStat; try dsimp only
  repeat' first | with_reducible assumption | with_reducible apply modPow_keeps

theorem execTemperatureSample_keeps {r a0 a1 a2} (h2 : Keeps r a2) (kep : Lets r .ep := by trivial) (kinteg : Lets r .integ := by trivial) (kled : Lets r .led := by trivial) (kobs : Lets r .obs := by trivial) (kout : Lets r .out := by trivial) (kport : Lets r .port := by trivial) (kpow : Lets r .pow := by trivial) : KeepsO r (execTemperatureSample a0 a1 a2) := by
  unfold execTemperatureSample; try dsimp only
  repeat' first | with_reducible assumption | with_reducible apply modPow_keeps | with_reducible apply powStat_keeps | with_reducible apply thermalTrip_keeps | with_reducible apply keeps_next | with_reducible apply keepsO_ite | with_reducible apply keeps_ite

theorem execThrottleStep_keeps {r a0 a1} (h1 : Keeps r a1) (kinteg : Lets r .integ := by trivial) (kobs : Lets r .obs := by trivial) (kpow : Lets r .pow := by trivial) : KeepsO r (execThrottleStep a0 a1) := by
  unfold execThrottleStep; try dsimp only
  repeat' first | with_reducible assumption | with_reducible apply modPow_keeps | with_reducible apply powReport_keeps | with_reducible apply keeps_next | with_reducible apply keepsO_ite | with_reducible apply keeps_ite | split

theorem execHbmTemperatureReadout_keeps {r a0 a1 a2} (h2 : Keeps r a2) (kep : Lets r .ep := by trivial) (kinteg : Lets r .integ := by trivial) (kled : Lets r .led := by trivial) (kobs : Lets r .obs := by trivial) (kout : Lets r .out := by trivial) (kport : Lets r .port := by trivial) (kpow : Lets r .pow := by trivial) : KeepsO r (execHbmTemperatureReadout a0 a1 a2) := by
  unfold execHbmTemperatureReadout; try dsimp only
  repeat' first | with_reducible assumption | with_reducible apply modPow_keeps | with_reducible apply powReport_keeps | with_reducible apply thermalTrip_keeps | with_reducible apply keeps_next | with_reducible apply keepsO_ite | with_reducible apply keeps_ite

theorem execThrottleNAssert_keeps {r a0} (h0 : Keeps r a0) (kinteg : Lets r .integ := by trivial) (kobs : Lets r .obs := by trivial) (kpow : Lets r .pow := by trivial) : KeepsO r (execThrottleNAssert a0) := by
  unfold execThrottleNAssert; try dsimp only
  repeat' first | with_reducible assumption | with_reducible apply modPow_keeps | with_reducible apply powReport_keeps | with_reducible apply keeps_next | with_reducible apply keepsO_ite | with_reducible apply keeps_ite

theorem execThrottleNDeassert_keeps {r a0} (h0 : Keeps r a0) (kpow : Lets r .pow := by trivial) : KeepsO r (execThrottleNDeassert a0) := by
  unfold execThrottleNDeassert; try dsimp only
  repeat' first | with_reducible assumption | with_reducible apply modPow_keeps | with_reducible apply keeps_next

theorem execPowerGovernor_keeps {r a0 a1 a2} (h2 : Keeps r a2) (kinteg : Lets r .integ := by trivial) (know : Lets r .now := by trivial) (kobs : Lets r .obs := by trivial) (kpow : Lets r .pow := by trivial) : KeepsO r (execPowerGovernor a0 a1 a2) := by
  unfold execPowerGovernor; try dsimp only
  repeat' first | with_reducible assumption | with_reducible apply timeReaches_keeps | with_reducible apply powStat_keeps | with_reducible apply modPow_keeps | with_reducible apply powReport_keeps | with_reducible apply keeps_next | with_reducible apply keepsO_ite | with_reducible apply keeps_ite

theorem execDroop_keeps {r a0 a1} (h1 : Keeps r a1) (kinteg : Lets r .integ := by trivial) (kobs : Lets r .obs := by trivial) (kpow : Lets r .pow := by trivial) : KeepsO r (execDroop a0 a1) := by
  unfold execDroop; try dsimp only
  repeat' first | with_reducible assumption | with_reducible apply modPow_keeps | with_reducible apply powReport_keeps | with_reducible apply powStat_keeps | with_reducible apply keeps_next | with_reducible apply keepsO_ite

theorem execDroopRestore_keeps {r a0 a1} (h1 : Keeps r a1) (know : Lets r .now := by trivial) (kpow : Lets r .pow := by trivial) : KeepsO r (execDroopRestore a0 a1) := by
  unfold execDroopRestore; try dsimp only
  repeat' first | with_reducible assumption | with_reducible apply modPow_keeps | with_reducible apply timeReaches_keeps | with_reducible apply keeps_next | split

theorem railFailed_keeps {r a0 a1 a2} (h0 : Keeps r a0) (kdict : Lets r .dict := by trivial) (kinteg : Lets r .integ := by trivial) (kobs : Lets r .obs := by trivial) (kpow : Lets r .pow := by trivial) : Keeps r (railFailed a0 a1 a2) := by
  unfold railFailed; try dsimp only
  repeat' first | with_reducible assumption | with_reducible apply modRail_keeps | with_reducible apply modDict_keeps | with_reducible apply powReport_keeps | with_reducible apply keeps_ite

theorem execRailSettle_keeps {r a0 a1 a2} (h2 : Keeps r a2) (kdict : Lets r .dict := by trivial) (kinteg : Lets r .integ := by trivial) (know : Lets r .now := by trivial) (kobs : Lets r .obs := by trivial) (kout : Lets r .out := by trivial) (kpow : Lets r .pow := by trivial) : KeepsO r (execRailSettle a0 a1 a2) := by
  unfold execRailSettle; try dsimp only
  repeat' first | with_reducible assumption | with_reducible apply modRail_keeps | with_reducible apply pmbusSend_keeps | with_reducible apply railFailed_keeps | with_reducible apply timeReaches_keeps | with_reducible apply keeps_next | with_reducible apply keepsO_ite | split

theorem takeStatus_keeps {r a0 a1 a2} (h0 : Keeps r a0) (kinteg : Lets r .integ := by trivial) (kobs : Lets r .obs := by trivial) (kout : Lets r .out := by trivial) (kpow : Lets r .pow := by trivial) : Keeps r (takeStatus a0 a1 a2) := by
  unfold takeStatus; try dsimp only
  repeat' first | with_reducible assumption | with_reducible apply modRail_keeps | with_reducible apply pmbusSend_keeps | with_reducible apply powReport_keeps | with_reducible apply keeps_ite

theorem execPmbusPoll_keeps {r a0 a1 a2 a3} (h3 : Keeps r a3) (kinteg : Lets r .integ := by trivial) (kobs : Lets r .obs := by trivial) (kout : Lets r .out := by trivial) (kpow : Lets r .pow := by trivial) : KeepsO r (execPmbusPoll a0 a1 a2 a3) := by
  unfold execPmbusPoll; try dsimp only
  repeat' first | with_reducible assumption | (intro _) | with_reducible apply pmbusSend_keeps | with_reducible apply powReport_keeps | with_reducible apply modRail_keeps | with_reducible apply takeStatus_keeps | with_reducible apply keeps_next | with_reducible apply keepsO_ite | with_reducible apply keeps_foldl

theorem execPmbusAlert_keeps {r a0 a1 a2 a3} (h3 : Keeps r a3) (kinteg : Lets r .integ := by trivial) (kobs : Lets r .obs := by trivial) (kout : Lets r .out := by trivial) (kpow : Lets r .pow := by trivial) : KeepsO r (execPmbusAlert a0 a1 a2 a3) := by
  unfold execPmbusAlert; try dsimp only
  repeat' first | with_reducible assumption | with_reducible apply pmbusSend_keeps | with_reducible apply takeStatus_keeps | with_reducible apply powReport_keeps | with_reducible apply keeps_next | with_reducible apply keepsO_ite | with_reducible apply keeps_ite

theorem bootReports_keeps {r a0 a1 a2} (h0 : Keeps r a0) (kinteg : Lets r .integ := by trivial) (kobs : Lets r .obs := by trivial) : Keeps r (bootReports a0 a1 a2) := by
  unfold bootReports; try dsimp only
  repeat' first | with_reducible assumption | with_reducible apply secReport_keeps | with_reducible apply powReport_keeps | with_reducible apply keeps_ite

theorem bootDie_keeps {r a0 a1} (h0 : Keeps r a0) (kpow : Lets r .pow := by trivial) : Keeps r (bootDie a0 a1) := by
  unfold bootDie; try dsimp only
  repeat' first | with_reducible assumption | with_reducible apply modPow_keeps

theorem boot_keeps {r a0 a1 a2} (h0 : Keeps r a0) (kinteg : Lets r .integ := by trivial) (kled : Lets r .led := by trivial) (kobs : Lets r .obs := by trivial) (kpow : Lets r .pow := by trivial) (ksec : Lets r .sec := by trivial) : Keeps r (boot a0 a1 a2) := by
  unfold boot; try dsimp only
  repeat' first | with_reducible assumption | (intro _) | with_reducible apply selfTest_keeps | with_reducible apply burnFuse_keeps | with_reducible apply bootDie_keeps | with_reducible apply modPow_keeps | with_reducible apply clearMark_keeps | with_reducible apply secReport_keeps | with_reducible apply bootReports_keeps | with_reducible apply ledgerPor_keeps | with_reducible apply keeps_ite | with_reducible apply keeps_foldl

theorem loadStored_keeps {r a0 a1} (h0 : Keeps r a0) (kpart : Lets r .part := by trivial) (kvs : Lets r .vs := by trivial) : Keeps r (loadStored a0 a1) := by
  unfold loadStored; try dsimp only
  repeat' first | with_reducible assumption | with_reducible apply modPart_keeps | with_reducible apply loadProgram_keeps | with_reducible apply keeps_ite

theorem storeLoad_keeps {r a0} (h0 : Keeps r a0) (kdict : Lets r .dict := by trivial) (kep : Lets r .ep := by trivial) (kfab : Lets r .fab := by trivial) (kinteg : Lets r .integ := by trivial) (kled : Lets r .led := by trivial) (kmem : Lets r .mem := by trivial) (kobs : Lets r .obs := by trivial) (kout : Lets r .out := by trivial) (kpart : Lets r .part := by trivial) (kpow : Lets r .pow := by trivial) (ktime : Lets r .time := by trivial) (kvs : Lets r .vs := by trivial) : Keeps r (storeLoad a0) := by
  unfold storeLoad; try dsimp only
  repeat' first | with_reducible assumption | (intro _) | with_reducible apply modPow_keeps | with_reducible apply modEp_keeps | with_reducible apply modDict_keeps | with_reducible apply powReport_keeps | with_reducible apply railsFollow_keeps | with_reducible apply loadStored_keeps | with_reducible apply modCan_keeps | with_reducible apply setRate_keeps | with_reducible apply modTime_keeps | with_reducible apply ledgerMedia_keeps | with_reducible apply modPart_keeps | with_reducible apply startSwitch_keeps | with_reducible apply keeps_foldl | split

theorem execFirmwareDistribute_keeps {r a0 a1} (h1 : Keeps r a1) (kdict : Lets r .dict := by trivial) (kep : Lets r .ep := by trivial) (kfab : Lets r .fab := by trivial) (kinteg : Lets r .integ := by trivial) (kled : Lets r .led := by trivial) (kmem : Lets r .mem := by trivial) (kobs : Lets r .obs := by trivial) (kout : Lets r .out := by trivial) (kpart : Lets r .part := by trivial) (kport : Lets r .port := by trivial) (kpow : Lets r .pow := by trivial) (ktime : Lets r .time := by trivial) (kvs : Lets r .vs := by trivial) : KeepsO r (execFirmwareDistribute a0 a1) := by
  unfold execFirmwareDistribute; try dsimp only
  repeat' first | with_reducible assumption | (intro _) | with_reducible apply withDevice_keeps | with_reducible apply powReport_keeps | with_reducible apply modPow_keeps | with_reducible apply storeLoad_keeps | with_reducible apply keeps_next | with_reducible apply keepsO_ite | with_reducible apply keeps_ite | split

theorem storeWrite_keeps {r a0 a1} (h0 : Keeps r a0) (kinteg : Lets r .integ := by trivial) (kobs : Lets r .obs := by trivial) (kpow : Lets r .pow := by trivial) : Keeps r (storeWrite a0 a1) := by
  unfold storeWrite; try dsimp only
  repeat' first | with_reducible assumption | (intro _) | with_reducible apply modPow_keeps | with_reducible apply powReport_keeps | with_reducible apply keeps_foldl

theorem execConfigStoreWrite_keeps {r a0 a1} (h1 : Keeps r a1) (kinteg : Lets r .integ := by trivial) (kobs : Lets r .obs := by trivial) (kpow : Lets r .pow := by trivial) : KeepsO r (execConfigStoreWrite a0 a1) := by
  unfold execConfigStoreWrite; try dsimp only
  repeat' first | with_reducible assumption | with_reducible apply storeWrite_keeps | with_reducible apply keeps_next | with_reducible apply keepsO_ite

theorem norWrite_keeps {r a0 a1 a2 a3} (h0 : Keeps r a0) (kinteg : Lets r .integ := by trivial) (kobs : Lets r .obs := by trivial) (kpow : Lets r .pow := by trivial) : Keeps r (norWrite a0 a1 a2 a3) := by
  unfold norWrite; try dsimp only
  repeat' first | with_reducible assumption | (intro _) | with_reducible apply modPow_keeps | with_reducible apply powReport_keeps | with_reducible apply keeps_foldl

theorem fwUpdate_keeps {r a0 a1 a2} (h0 : Keeps r a0) (kinteg : Lets r .integ := by trivial) (kobs : Lets r .obs := by trivial) (kpow : Lets r .pow := by trivial) : KeepsW r (fwUpdate a0 a1 a2) := by
  unfold fwUpdate; try dsimp only
  repeat' first | with_reducible assumption | with_reducible apply secReport_keeps | with_reducible apply started_keeps | with_reducible apply norWrite_keeps | with_reducible apply keeps_wref | with_reducible apply keepsW_ite | with_reducible apply keeps_ite

theorem fwCommitB_keeps {r a0 a1} (h0 : Keeps r a0) (kinteg : Lets r .integ := by trivial) (kobs : Lets r .obs := by trivial) (kpow : Lets r .pow := by trivial) : KeepsW r (fwCommitB a0 a1) := by
  unfold fwCommitB; try dsimp only
  repeat' first | with_reducible assumption | with_reducible apply started_keeps | with_reducible apply norWrite_keeps | with_reducible apply keeps_wref | with_reducible apply keepsW_ite

theorem packageReset_keeps {r a0} (h0 : Keeps r a0) (kdict : Lets r .dict := by trivial) (kep : Lets r .ep := by trivial) (kfab : Lets r .fab := by trivial) (kfree : Lets r .free := by trivial) (kinteg : Lets r .integ := by trivial) (kled : Lets r .led := by trivial) (kmem : Lets r .mem := by trivial) (know : Lets r .now := by trivial) (kobs : Lets r .obs := by trivial) (kout : Lets r .out := by trivial) (kpart : Lets r .part := by trivial) (kport : Lets r .port := by trivial) (kpow : Lets r .pow := by trivial) (ksec : Lets r .sec := by trivial) (ktime : Lets r .time := by trivial) (kvs : Lets r .vs := by trivial) : Keeps r (packageReset a0) := by
  refine ⟨h0.pending, h0.mem, fun _ e he => ?_, h0.fuses, h0.free, h0.out, fun p hp => by cases p <;> exact lets_within ‹_› hp⟩
  obtain ⟨x, _, rfl⟩ := List.mem_map.1 he
  rfl

theorem execPorNAssert_keeps {r a0} (h0 : Keeps r a0) (kdict : Lets r .dict := by trivial) (kep : Lets r .ep := by trivial) (kfab : Lets r .fab := by trivial) (kfree : Lets r .free := by trivial) (kinteg : Lets r .integ := by trivial) (kled : Lets r .led := by trivial) (kmem : Lets r .mem := by trivial) (know : Lets r .now := by trivial) (kobs : Lets r .obs := by trivial) (kout : Lets r .out := by trivial) (kpart : Lets r .part := by trivial) (kport : Lets r .port := by trivial) (kpow : Lets r .pow := by trivial) (ksec : Lets r .sec := by trivial) (ktime : Lets r .time := by trivial) (kvs : Lets r .vs := by trivial) : KeepsO r (execPorNAssert a0) := by
  unfold execPorNAssert; try dsimp only
  repeat' first | with_reducible assumption | with_reducible apply packageReset_keeps | with_reducible apply modTime_keeps | with_reducible apply modPow_keeps | with_reducible apply keeps_next | with_reducible apply keepsO_ite

theorem execPorNDeassert_keeps {r a0 a1 a2} (h2 : Keeps r a2) (kfree : Lets r .free := by trivial) (kinteg : Lets r .integ := by trivial) (kled : Lets r .led := by trivial) (know : Lets r .now := by trivial) (kobs : Lets r .obs := by trivial) (kpow : Lets r .pow := by trivial) (ksec : Lets r .sec := by trivial) (ktime : Lets r .time := by trivial) : KeepsO r (execPorNDeassert a0 a1 a2) := by
  unfold execPorNDeassert
  dsimp only
  split
  · exact h2
  · exact newNonce_keeps (boot_keeps (modPow_keeps (modTime_keeps (now_keeps h2))))

theorem warmReset_keeps {r a0} (h0 : Keeps r a0) (kdict : Lets r .dict := by trivial) (kep : Lets r .ep := by trivial) (kfab : Lets r .fab := by trivial) (kfree : Lets r .free := by trivial) (kinteg : Lets r .integ := by trivial) (kled : Lets r .led := by trivial) (kmem : Lets r .mem := by trivial) (know : Lets r .now := by trivial) (kobs : Lets r .obs := by trivial) (kout : Lets r .out := by trivial) (kpart : Lets r .part := by trivial) (kport : Lets r .port := by trivial) (kpow : Lets r .pow := by trivial) (ksec : Lets r .sec := by trivial) (ktime : Lets r .time := by trivial) (kvs : Lets r .vs := by trivial) : Keeps r (warmReset a0) := by
  unfold warmReset
  refine boot_keeps (modPow_keeps (keeps_foldl (fun n e h => ?_) _ ?_))
  · exact modPortOf_keeps h fun _ hp => hp
  · have h := packageReset_keeps h0
    exact ⟨h.pending, h.mem, h.staging, h.fuses, h.free, h.out, fun p hp => by cases p <;> exact lets_within ‹_› hp⟩

theorem warmGo_keeps {r a0} (h0 : Keeps r a0) (kdict : Lets r .dict := by trivial) (kep : Lets r .ep := by trivial) (kfab : Lets r .fab := by trivial) (kfree : Lets r .free := by trivial) (kinteg : Lets r .integ := by trivial) (kled : Lets r .led := by trivial) (kmem : Lets r .mem := by trivial) (know : Lets r .now := by trivial) (kobs : Lets r .obs := by trivial) (kout : Lets r .out := by trivial) (kpart : Lets r .part := by trivial) (kport : Lets r .port := by trivial) (kpow : Lets r .pow := by trivial) (ksec : Lets r .sec := by trivial) (ktime : Lets r .time := by trivial) (kvs : Lets r .vs := by trivial) : Keeps r (warmGo a0) := by
  unfold warmGo; try dsimp only
  repeat' first | with_reducible assumption | with_reducible apply stopLedgers_keeps | with_reducible apply modPow_keeps | with_reducible apply deviceNote_keeps | with_reducible apply warmReset_keeps | with_reducible apply storeWrite_keeps | with_reducible apply keeps_ite

theorem warmStart_keeps {r a0 a1} (h0 : Keeps r a0) (kinteg : Lets r .integ := by trivial) (kobs : Lets r .obs := by trivial) (kpow : Lets r .pow := by trivial) : KeepsW r (warmStart a0 a1) := by
  unfold warmStart; try dsimp only
  repeat' first | with_reducible assumption | with_reducible apply powReport_keeps | with_reducible apply started_keeps | with_reducible apply modPow_keeps | with_reducible apply keeps_wref | with_reducible apply keepsW_ite

theorem dieResetGo_keeps {r a0 a1 a2} (h0 : Keeps r a0) (kdict : Lets r .dict := by trivial) (kep : Lets r .ep := by trivial) (kfab : Lets r .fab := by trivial) (kinteg : Lets r .integ := by trivial) (kled : Lets r .led := by trivial) (kmem : Lets r .mem := by trivial) (kobs : Lets r .obs := by trivial) (kpart : Lets r .part := by trivial) (kport : Lets r .port := by trivial) (kpow : Lets r .pow := by trivial) (ksec : Lets r .sec := by trivial) (ktime : Lets r .time := by trivial) (kvs : Lets r .vs := by trivial) : Keeps r (dieResetGo a0 a1 a2) := by
  unfold dieResetGo; try dsimp only
  repeat' first | with_reducible assumption | exact fun (_ : PortState) hp => hp | (intro _) | with_reducible apply fenceLink_keeps | with_reducible apply resetTiles_keeps | with_reducible apply powReport_keeps | with_reducible apply modPow_keeps | with_reducible apply modPart_keeps | with_reducible apply resetPort_keeps | with_reducible apply modPort_keeps | with_reducible apply modDict_keeps | with_reducible apply selfTest_keeps | with_reducible apply bootReports_keeps | with_reducible apply bootDie_keeps | with_reducible apply ledgerMedia_keeps | with_reducible apply ledgerPor_keeps | with_reducible apply burnLate_keeps | with_reducible apply keeps_ite | with_reducible apply keeps_foldl

theorem resetTile_keeps {r a0 a1} (h0 : Keeps r a0) (kdict : Lets r .dict := by trivial) (kep : Lets r .ep := by trivial) (kfab : Lets r .fab := by trivial) (kinteg : Lets r .integ := by trivial) (kled : Lets r .led := by trivial) (kmem : Lets r .mem := by trivial) (kobs : Lets r .obs := by trivial) (kport : Lets r .port := by trivial) (kpow : Lets r .pow := by trivial) (ktime : Lets r .time := by trivial) (kvs : Lets r .vs := by trivial) : Keeps r (resetTile a0 a1) := by
  unfold resetTile; try dsimp only
  repeat' first | with_reducible assumption | exact fun (_ : PortState) hp => hp | (intro _) | with_reducible apply fenceLink_keeps | with_reducible apply modFab_keeps | with_reducible apply modObs_keeps | with_reducible apply modTime_keeps | with_reducible apply modInteg_keeps | with_reducible apply modVs_keeps | with_reducible apply modVat_keeps | with_reducible apply modSeq_keeps | with_reducible apply modPort_keeps | with_reducible apply resetPort_keeps | with_reducible apply ledgerPor_keeps | with_reducible apply modPow_keeps | with_reducible apply modDict_keeps | with_reducible apply keeps_ite | with_reducible apply keeps_foldl

theorem islandResetGo_keeps {r a0 a1} (h0 : Keeps r a0) (kdict : Lets r .dict := by trivial) (kep : Lets r .ep := by trivial) (kfab : Lets r .fab := by trivial) (kinteg : Lets r .integ := by trivial) (kled : Lets r .led := by trivial) (kmem : Lets r .mem := by trivial) (kobs : Lets r .obs := by trivial) (kout : Lets r .out := by trivial) (kport : Lets r .port := by trivial) (kpow : Lets r .pow := by trivial) (ktime : Lets r .time := by trivial) (kvs : Lets r .vs := by trivial) : Keeps r (islandResetGo a0 a1) := by
  unfold islandResetGo; try dsimp only
  repeat' first | with_reducible assumption | (intro _) | with_reducible apply withDevice_keeps | with_reducible apply resetTile_keeps | with_reducible apply setLink_keeps | with_reducible apply fenceLink_keeps | with_reducible apply fenceIsland_keeps | with_reducible apply keeps_ite | split

theorem background_keeps {r a0} (h0 : Keeps r a0) (kdict : Lets r .dict := by trivial) (kep : Lets r .ep := by trivial) (kfab : Lets r .fab := by trivial) (kfree : Lets r .free := by trivial) (kinteg : Lets r .integ := by trivial) (kled : Lets r .led := by trivial) (kmem : Lets r .mem := by trivial) (know : Lets r .now := by trivial) (kobs : Lets r .obs := by trivial) (kout : Lets r .out := by trivial) (kpart : Lets r .part := by trivial) (kport : Lets r .port := by trivial) (kpow : Lets r .pow := by trivial) (ksec : Lets r .sec := by trivial) (ktime : Lets r .time := by trivial) (kvs : Lets r .vs := by trivial) : Keeps r (background a0) := by
  unfold background; try dsimp only
  repeat' first | with_reducible assumption | with_reducible apply warmGo_keeps | with_reducible apply scanGo_keeps | with_reducible apply zeroiseGo_keeps

end Sys2Proof.Machine
end

