-- ==== Sys2Proof/Laws/KeepPost.lean ====
section
/-!
SUPPORT. Laws/KeepPost.lean: what the operations of Machine/Post.lean keep (Laws/Keep.lean).
-/
namespace Sys2Proof.Machine

theorem releaseContext_keeps {r a0 a1 a2} (h0 : Keeps r a0) (kfab : Lets r .fab := by trivial) (kobs : Lets r .obs := by trivial) (kport : Lets r .port := by trivial) : Keeps r (releaseContext a0 a1 a2) := by
  unfold releaseContext; try dsimp only
  repeat' first | with_reducible assumption | (intro _) | with_reducible apply modCtx_keeps | with_reducible apply sendKill_keeps | with_reducible apply freeContext_keeps | with_reducible apply keeps_ite | with_reducible apply keeps_foldl

theorem coalesce_keeps {r a0 a1 a2} (h0 : Keeps r a0) (kout : Lets r .out := by trivial) (kport : Lets r .port := by trivial) : Keeps r (coalesce a0 a1 a2) := by
  unfold coalesce; try dsimp only
  repeat' first | with_reducible assumption | with_reducible apply msixSend_keeps | with_reducible apply modCq_keeps | with_reducible apply keeps_ite

theorem dropRequest_keeps {r a0 a1 a2} (h0 : Keeps r a0) (kfab : Lets r .fab := by trivial) (kobs : Lets r .obs := by trivial) (kport : Lets r .port := by trivial) : Keeps r (dropRequest a0 a1 a2) := by
  unfold dropRequest; try dsimp only
  repeat' first | with_reducible assumption | exact fun (_ : Port) hp => hp | with_reducible apply releaseContext_keeps | with_reducible apply modPortOf_keeps | split

theorem writeCompletion_keeps {r a0 a1 a2 a3} (h0 : Keeps r a0) (kfab : Lets r .fab := by trivial) (kobs : Lets r .obs := by trivial) (kout : Lets r .out := by trivial) (kport : Lets r .port := by trivial) : Keeps r (writeCompletion a0 a1 a2 a3) := by
  unfold writeCompletion; try dsimp only
  repeat' first | with_reducible assumption | exact fun (_ : Port) hp => hp | with_reducible apply emitOut_keeps | with_reducible apply modCq_keeps | with_reducible apply modPortOf_keeps | with_reducible apply portStat_keeps | with_reducible apply dropRequest_keeps | with_reducible apply coalesce_keeps | with_reducible apply keeps_ite

theorem execCompletionPost_keeps {r a0 a1 a2} (h2 : Keeps r a2) (kfab : Lets r .fab := by trivial) (kinteg : Lets r .integ := by trivial) (kled : Lets r .led := by trivial) (kobs : Lets r .obs := by trivial) (kout : Lets r .out := by trivial) (kport : Lets r .port := by trivial) : KeepsO r (execCompletionPost a0 a1 a2) := by
  unfold execCompletionPost; try dsimp only
  repeat' first | with_reducible assumption | with_reducible apply acceptRecord_keeps | with_reducible apply report_keeps | with_reducible apply portStat_keeps | with_reducible apply dropRequest_keeps | with_reducible apply writeCompletion_keeps | with_reducible apply keeps_next | with_reducible apply keepsO_ite | with_reducible apply keeps_ite | split

end Sys2Proof.Machine
end

