-- ==== Sys2Proof/Laws/KeepVatOp.lean ====
section
/-!
SUPPORT. Laws/KeepVatOp.lean: what the operations of Machine/VatOp.lean keep (Laws/Keep.lean).
-/
namespace Sys2Proof.Machine

theorem runOp_keeps {r a0 a1 a2 a3 a5} {a4 : State → _ → State} (h4 : ∀ y0 y1, Keeps r y0 → Keeps r (a4 y0 y1)) (h5 : Keeps r a5) (kfab : Lets r .fab := by trivial) (kinteg : Lets r .integ := by trivial) (kobs : Lets r .obs := by trivial) (kport : Lets r .port := by trivial) (kvs : Lets r .vs := by trivial) : KeepsO r (runOp a0 a1 a2 a3 a4 a5) := by
  unfold runOp; try dsimp only
  repeat' first | with_reducible assumption | with_reducible apply h4 | with_reducible apply fibreFault_keeps | with_reducible apply ueReport_keeps | with_reducible apply putFibre_keeps | with_reducible apply keeps_next | with_reducible apply keepsO_ite | split

theorem OpCtx.fault_keeps {r a0 a1 a2} (h1 : Keeps r a1) (kfab : Lets r .fab := by trivial) (kinteg : Lets r .integ := by trivial) (kobs : Lets r .obs := by trivial) (kport : Lets r .port := by trivial) (kvs : Lets r .vs := by trivial) : Keeps r (OpCtx.fault a0 a1 a2) := by
  unfold OpCtx.fault; try dsimp only
  repeat' first | with_reducible assumption | with_reducible apply fibreFault_keeps

theorem OpCtx.finish_keeps {r a0 a1} (h1 : Keeps r a1) (kfab : Lets r .fab := by trivial) (kinteg : Lets r .integ := by trivial) (kobs : Lets r .obs := by trivial) (kport : Lets r .port := by trivial) (kvs : Lets r .vs := by trivial) : Keeps r (OpCtx.finish a0 a1) := by
  unfold OpCtx.finish; try dsimp only
  repeat' first | with_reducible assumption | with_reducible apply finishOp_keeps

theorem OpCtx.park_keeps {r a0 a1 a2} (h1 : Keeps r a1) (kvs : Lets r .vs := by trivial) : Keeps r (OpCtx.park a0 a1 a2) := by
  unfold OpCtx.park; try dsimp only
  repeat' first | with_reducible assumption | with_reducible apply putFibre_keeps

theorem writeElems_keeps {r a0 a1 a2 a3} (h0 : Keeps r a0) (kinteg : Lets r .integ := by trivial) (kmem : Lets r .mem := by trivial) : Keeps r (writeElems a0 a1 a2 a3) := by
  unfold writeElems; try dsimp only
  repeat' first | with_reducible assumption | (intro _) | with_reducible apply writeClean_keeps | with_reducible apply keeps_ite | with_reducible apply keeps_foldl | split

theorem dropSome_keeps {r a0 a1} (h0 : Keeps r a0) (kfree : Lets r .free := by trivial) : Keeps r (dropSome a0 a1).1 := by
  induction a1 generalizing a0 h0 with
  | nil =>
    unfold dropSome; try dsimp only
    repeat' first | with_reducible assumption | with_reducible apply draw_keeps
  | cons y l ih =>
    unfold dropSome; try dsimp only
    repeat' first | apply ih | with_reducible assumption | with_reducible apply draw_keeps

theorem OpCtx.store_keeps {r a0 a1 a2} (h1 : Keeps r a1) (kfab : Lets r .fab := by trivial) (kfree : Lets r .free := by trivial) (kinteg : Lets r .integ := by trivial) (kmem : Lets r .mem := by trivial) (kobs : Lets r .obs := by trivial) (kport : Lets r .port := by trivial) (kvs : Lets r .vs := by trivial) : Keeps r (OpCtx.store a0 a1 a2) := by
  unfold OpCtx.store; try dsimp only
  repeat' first | with_reducible assumption | (intro _) | with_reducible apply dropSome_keeps | with_reducible apply writeElems_keeps | with_reducible apply OpCtx.fault_keeps | with_reducible apply OpCtx.finish_keeps | with_reducible apply keeps_ite | with_reducible apply keepsQ_ite | with_reducible apply keeps_foldl

theorem OpCtx.compute_keeps {r a0 a1} {a2 : State → State × _} (h1 : Keeps r a1) (h2 : ∀ y0, Keeps r y0 → Keeps r (a2 y0).1) (kfab : Lets r .fab := by trivial) (kfree : Lets r .free := by trivial) (kinteg : Lets r .integ := by trivial) (kmem : Lets r .mem := by trivial) (kobs : Lets r .obs := by trivial) (kport : Lets r .port := by trivial) (kvs : Lets r .vs := by trivial) : Keeps r (OpCtx.compute a0 a1 a2) := by
  unfold OpCtx.compute; try dsimp only
  repeat' first | with_reducible assumption | with_reducible apply h2 | with_reducible apply OpCtx.fault_keeps | with_reducible apply ueReport_keeps | with_reducible apply OpCtx.store_keeps | split

end Sys2Proof.Machine
end

