-- ==== Sys2Proof/Laws/KeepVatMath.lean ====
section
/-!
SUPPORT. Laws/KeepVatMath.lean: what the operations of Machine/VatMath.lean keep (Laws/Keep.lean).
-/
namespace Sys2Proof.Machine

theorem OpCtx.countFlags_keeps {r a0 a1 a2} (h1 : Keeps r a1) (kvs : Lets r .vs := by trivial) : Keeps r (OpCtx.countFlags a0 a1 a2) := by
  unfold OpCtx.countFlags; try dsimp only
  repeat' first | with_reducible assumption | with_reducible apply modVat_keeps

theorem OpCtx.flagged_keeps {r a0 a1 a2} (h1 : Keeps r a1) (kvs : Lets r .vs := by trivial) : Keeps r (OpCtx.flagged a0 a1 a2).1 := by
  unfold OpCtx.flagged; try dsimp only
  repeat' first | with_reducible assumption | with_reducible apply OpCtx.countFlags_keeps

theorem OpCtx.matmul_keeps {r a0 a1} (h1 : Keeps r a1) (kvs : Lets r .vs := by trivial) : Keeps r (OpCtx.matmul a0 a1).1 := by
  unfold OpCtx.matmul; try dsimp only
  repeat' first | with_reducible assumption | with_reducible apply OpCtx.flagged_keeps

theorem execOpMatmul_keeps {r a0 a1 a2 a3} (h3 : Keeps r a3) (kfab : Lets r .fab := by trivial) (kfree : Lets r .free := by trivial) (kinteg : Lets r .integ := by trivial) (kmem : Lets r .mem := by trivial) (kobs : Lets r .obs := by trivial) (kport : Lets r .port := by trivial) (kvs : Lets r .vs := by trivial) : KeepsO r (execOpMatmul a0 a1 a2 a3) := by
  unfold execOpMatmul; try dsimp only
  repeat' first | with_reducible assumption | (intro _) | with_reducible apply runOp_keeps | with_reducible apply OpCtx.compute_keeps | with_reducible apply OpCtx.matmul_keeps

theorem OpCtx.elementwise_keeps {r a0 a1 a2} (h2 : Keeps r a2)  : Keeps r (OpCtx.elementwise a0 a1 a2).1 := by
  unfold OpCtx.elementwise; try dsimp only
  repeat' first | with_reducible assumption

theorem eltwise_keeps {r a0 a1 a2 a3 a4 a5} (h5 : Keeps r a5) (kfab : Lets r .fab := by trivial) (kfree : Lets r .free := by trivial) (kinteg : Lets r .integ := by trivial) (kmem : Lets r .mem := by trivial) (kobs : Lets r .obs := by trivial) (kport : Lets r .port := by trivial) (kvs : Lets r .vs := by trivial) : KeepsO r (eltwise a0 a1 a2 a3 a4 a5) := by
  unfold eltwise; try dsimp only
  repeat' first | with_reducible assumption | (intro _) | with_reducible apply runOp_keeps | with_reducible apply OpCtx.compute_keeps | with_reducible apply OpCtx.elementwise_keeps

theorem execEltwiseCopy_keeps {r a0 a1 a2 a3} (h3 : Keeps r a3) (kfab : Lets r .fab := by trivial) (kfree : Lets r .free := by trivial) (kinteg : Lets r .integ := by trivial) (kmem : Lets r .mem := by trivial) (kobs : Lets r .obs := by trivial) (kport : Lets r .port := by trivial) (kvs : Lets r .vs := by trivial) : KeepsO r (execEltwiseCopy a0 a1 a2 a3) := by
  unfold execEltwiseCopy; try dsimp only
  repeat' first | with_reducible assumption | (intro _) | with_reducible apply runOp_keeps | with_reducible apply OpCtx.compute_keeps

theorem execEltwiseAdd_keeps {r a0 a1 a2 a3} (h3 : Keeps r a3) (kfab : Lets r .fab := by trivial) (kfree : Lets r .free := by trivial) (kinteg : Lets r .integ := by trivial) (kmem : Lets r .mem := by trivial) (kobs : Lets r .obs := by trivial) (kport : Lets r .port := by trivial) (kvs : Lets r .vs := by trivial) : KeepsO r (execEltwiseAdd a0 a1 a2 a3) := by
  unfold execEltwiseAdd; try dsimp only
  repeat' first | with_reducible assumption | with_reducible apply eltwise_keeps

theorem execEltwiseSub_keeps {r a0 a1 a2 a3} (h3 : Keeps r a3) (kfab : Lets r .fab := by trivial) (kfree : Lets r .free := by trivial) (kinteg : Lets r .integ := by trivial) (kmem : Lets r .mem := by trivial) (kobs : Lets r .obs := by trivial) (kport : Lets r .port := by trivial) (kvs : Lets r .vs := by trivial) : KeepsO r (execEltwiseSub a0 a1 a2 a3) := by
  unfold execEltwiseSub; try dsimp only
  repeat' first | with_reducible assumption | with_reducible apply eltwise_keeps

theorem execEltwiseMul_keeps {r a0 a1 a2 a3} (h3 : Keeps r a3) (kfab : Lets r .fab := by trivial) (kfree : Lets r .free := by trivial) (kinteg : Lets r .integ := by trivial) (kmem : Lets r .mem := by trivial) (kobs : Lets r .obs := by trivial) (kport : Lets r .port := by trivial) (kvs : Lets r .vs := by trivial) : KeepsO r (execEltwiseMul a0 a1 a2 a3) := by
  unfold execEltwiseMul; try dsimp only
  repeat' first | with_reducible assumption | with_reducible apply eltwise_keeps

theorem execEltwiseFma_keeps {r a0 a1 a2 a3} (h3 : Keeps r a3) (kfab : Lets r .fab := by trivial) (kfree : Lets r .free := by trivial) (kinteg : Lets r .integ := by trivial) (kmem : Lets r .mem := by trivial) (kobs : Lets r .obs := by trivial) (kport : Lets r .port := by trivial) (kvs : Lets r .vs := by trivial) : KeepsO r (execEltwiseFma a0 a1 a2 a3) := by
  unfold execEltwiseFma; try dsimp only
  repeat' first | with_reducible assumption | with_reducible apply eltwise_keeps

theorem execEltwiseMin_keeps {r a0 a1 a2 a3} (h3 : Keeps r a3) (kfab : Lets r .fab := by trivial) (kfree : Lets r .free := by trivial) (kinteg : Lets r .integ := by trivial) (kmem : Lets r .mem := by trivial) (kobs : Lets r .obs := by trivial) (kport : Lets r .port := by trivial) (kvs : Lets r .vs := by trivial) : KeepsO r (execEltwiseMin a0 a1 a2 a3) := by
  unfold execEltwiseMin; try dsimp only
  repeat' first | with_reducible assumption | with_reducible apply eltwise_keeps

theorem execEltwiseMax_keeps {r a0 a1 a2 a3} (h3 : Keeps r a3) (kfab : Lets r .fab := by trivial) (kfree : Lets r .free := by trivial) (kinteg : Lets r .integ := by trivial) (kmem : Lets r .mem := by trivial) (kobs : Lets r .obs := by trivial) (kport : Lets r .port := by trivial) (kvs : Lets r .vs := by trivial) : KeepsO r (execEltwiseMax a0 a1 a2 a3) := by
  unfold execEltwiseMax; try dsimp only
  repeat' first | with_reducible assumption | with_reducible apply eltwise_keeps

theorem execEltwiseAbs_keeps {r a0 a1 a2 a3} (h3 : Keeps r a3) (kfab : Lets r .fab := by trivial) (kfree : Lets r .free := by trivial) (kinteg : Lets r .integ := by trivial) (kmem : Lets r .mem := by trivial) (kobs : Lets r .obs := by trivial) (kport : Lets r .port := by trivial) (kvs : Lets r .vs := by trivial) : KeepsO r (execEltwiseAbs a0 a1 a2 a3) := by
  unfold execEltwiseAbs; try dsimp only
  repeat' first | with_reducible assumption | with_reducible apply eltwise_keeps

theorem execEltwiseNeg_keeps {r a0 a1 a2 a3} (h3 : Keeps r a3) (kfab : Lets r .fab := by trivial) (kfree : Lets r .free := by trivial) (kinteg : Lets r .integ := by trivial) (kmem : Lets r .mem := by trivial) (kobs : Lets r .obs := by trivial) (kport : Lets r .port := by trivial) (kvs : Lets r .vs := by trivial) : KeepsO r (execEltwiseNeg a0 a1 a2 a3) := by
  unfold execEltwiseNeg; try dsimp only
  repeat' first | with_reducible assumption | with_reducible apply eltwise_keeps

theorem execEltwiseRelu_keeps {r a0 a1 a2 a3} (h3 : Keeps r a3) (kfab : Lets r .fab := by trivial) (kfree : Lets r .free := by trivial) (kinteg : Lets r .integ := by trivial) (kmem : Lets r .mem := by trivial) (kobs : Lets r .obs := by trivial) (kport : Lets r .port := by trivial) (kvs : Lets r .vs := by trivial) : KeepsO r (execEltwiseRelu a0 a1 a2 a3) := by
  unfold execEltwiseRelu; try dsimp only
  repeat' first | with_reducible assumption | with_reducible apply eltwise_keeps

theorem execEltwiseScaleBias_keeps {r a0 a1 a2 a3} (h3 : Keeps r a3) (kfab : Lets r .fab := by trivial) (kfree : Lets r .free := by trivial) (kinteg : Lets r .integ := by trivial) (kmem : Lets r .mem := by trivial) (kobs : Lets r .obs := by trivial) (kport : Lets r .port := by trivial) (kvs : Lets r .vs := by trivial) : KeepsO r (execEltwiseScaleBias a0 a1 a2 a3) := by
  unfold execEltwiseScaleBias; try dsimp only
  repeat' first | with_reducible assumption | with_reducible apply eltwise_keeps

theorem execEltwiseRequant_keeps {r a0 a1 a2 a3} (h3 : Keeps r a3) (kfab : Lets r .fab := by trivial) (kfree : Lets r .free := by trivial) (kinteg : Lets r .integ := by trivial) (kmem : Lets r .mem := by trivial) (kobs : Lets r .obs := by trivial) (kport : Lets r .port := by trivial) (kvs : Lets r .vs := by trivial) : KeepsO r (execEltwiseRequant a0 a1 a2 a3) := by
  unfold execEltwiseRequant; try dsimp only
  repeat' first | with_reducible assumption | (intro _) | with_reducible apply runOp_keeps | with_reducible apply OpCtx.compute_keeps

theorem eltFn_keeps {r a0 a1 a2 a3 a4} (h4 : Keeps r a4) (kfab : Lets r .fab := by trivial) (kfree : Lets r .free := by trivial) (kinteg : Lets r .integ := by trivial) (kmem : Lets r .mem := by trivial) (kobs : Lets r .obs := by trivial) (kport : Lets r .port := by trivial) (kvs : Lets r .vs := by trivial) : KeepsO r (eltFn a0 a1 a2 a3 a4) := by
  unfold eltFn; try dsimp only
  repeat' first | with_reducible assumption | with_reducible apply eltwise_keeps

theorem execEltwiseExp_keeps {r a0 a1 a2 a3} (h3 : Keeps r a3) (kfab : Lets r .fab := by trivial) (kfree : Lets r .free := by trivial) (kinteg : Lets r .integ := by trivial) (kmem : Lets r .mem := by trivial) (kobs : Lets r .obs := by trivial) (kport : Lets r .port := by trivial) (kvs : Lets r .vs := by trivial) : KeepsO r (execEltwiseExp a0 a1 a2 a3) := by
  unfold execEltwiseExp; try dsimp only
  repeat' first | with_reducible assumption | with_reducible apply eltFn_keeps

theorem execEltwiseLog_keeps {r a0 a1 a2 a3} (h3 : Keeps r a3) (kfab : Lets r .fab := by trivial) (kfree : Lets r .free := by trivial) (kinteg : Lets r .integ := by trivial) (kmem : Lets r .mem := by trivial) (kobs : Lets r .obs := by trivial) (kport : Lets r .port := by trivial) (kvs : Lets r .vs := by trivial) : KeepsO r (execEltwiseLog a0 a1 a2 a3) := by
  unfold execEltwiseLog; try dsimp only
  repeat' first | with_reducible assumption | with_reducible apply eltFn_keeps

theorem execEltwiseSigmoid_keeps {r a0 a1 a2 a3} (h3 : Keeps r a3) (kfab : Lets r .fab := by trivial) (kfree : Lets r .free := by trivial) (kinteg : Lets r .integ := by trivial) (kmem : Lets r .mem := by trivial) (kobs : Lets r .obs := by trivial) (kport : Lets r .port := by trivial) (kvs : Lets r .vs := by trivial) : KeepsO r (execEltwiseSigmoid a0 a1 a2 a3) := by
  unfold execEltwiseSigmoid; try dsimp only
  repeat' first | with_reducible assumption | with_reducible apply eltFn_keeps

theorem execEltwiseTanh_keeps {r a0 a1 a2 a3} (h3 : Keeps r a3) (kfab : Lets r .fab := by trivial) (kfree : Lets r .free := by trivial) (kinteg : Lets r .integ := by trivial) (kmem : Lets r .mem := by trivial) (kobs : Lets r .obs := by trivial) (kport : Lets r .port := by trivial) (kvs : Lets r .vs := by trivial) : KeepsO r (execEltwiseTanh a0 a1 a2 a3) := by
  unfold execEltwiseTanh; try dsimp only
  repeat' first | with_reducible assumption | with_reducible apply eltFn_keeps

theorem execEltwiseRecip_keeps {r a0 a1 a2 a3} (h3 : Keeps r a3) (kfab : Lets r .fab := by trivial) (kfree : Lets r .free := by trivial) (kinteg : Lets r .integ := by trivial) (kmem : Lets r .mem := by trivial) (kobs : Lets r .obs := by trivial) (kport : Lets r .port := by trivial) (kvs : Lets r .vs := by trivial) : KeepsO r (execEltwiseRecip a0 a1 a2 a3) := by
  unfold execEltwiseRecip; try dsimp only
  repeat' first | with_reducible assumption | with_reducible apply eltFn_keeps

theorem execEltwiseRsqrt_keeps {r a0 a1 a2 a3} (h3 : Keeps r a3) (kfab : Lets r .fab := by trivial) (kfree : Lets r .free := by trivial) (kinteg : Lets r .integ := by trivial) (kmem : Lets r .mem := by trivial) (kobs : Lets r .obs := by trivial) (kport : Lets r .port := by trivial) (kvs : Lets r .vs := by trivial) : KeepsO r (execEltwiseRsqrt a0 a1 a2 a3) := by
  unfold execEltwiseRsqrt; try dsimp only
  repeat' first | with_reducible assumption | with_reducible apply eltFn_keeps

theorem execEltwiseSqrt_keeps {r a0 a1 a2 a3} (h3 : Keeps r a3) (kfab : Lets r .fab := by trivial) (kfree : Lets r .free := by trivial) (kinteg : Lets r .integ := by trivial) (kmem : Lets r .mem := by trivial) (kobs : Lets r .obs := by trivial) (kport : Lets r .port := by trivial) (kvs : Lets r .vs := by trivial) : KeepsO r (execEltwiseSqrt a0 a1 a2 a3) := by
  unfold execEltwiseSqrt; try dsimp only
  repeat' first | with_reducible assumption | with_reducible apply eltFn_keeps

theorem execEltwiseErf_keeps {r a0 a1 a2 a3} (h3 : Keeps r a3) (kfab : Lets r .fab := by trivial) (kfree : Lets r .free := by trivial) (kinteg : Lets r .integ := by trivial) (kmem : Lets r .mem := by trivial) (kobs : Lets r .obs := by trivial) (kport : Lets r .port := by trivial) (kvs : Lets r .vs := by trivial) : KeepsO r (execEltwiseErf a0 a1 a2 a3) := by
  unfold execEltwiseErf; try dsimp only
  repeat' first | with_reducible assumption | with_reducible apply eltFn_keeps

theorem execEltwiseRowSum_keeps {r a0 a1 a2 a3} (h3 : Keeps r a3) (kfab : Lets r .fab := by trivial) (kfree : Lets r .free := by trivial) (kinteg : Lets r .integ := by trivial) (kmem : Lets r .mem := by trivial) (kobs : Lets r .obs := by trivial) (kport : Lets r .port := by trivial) (kvs : Lets r .vs := by trivial) : KeepsO r (execEltwiseRowSum a0 a1 a2 a3) := by
  unfold execEltwiseRowSum; try dsimp only
  repeat' first | with_reducible assumption | (intro _) | with_reducible apply runOp_keeps | with_reducible apply OpCtx.compute_keeps | with_reducible apply OpCtx.flagged_keeps

theorem execEltwiseRowMax_keeps {r a0 a1 a2 a3} (h3 : Keeps r a3) (kfab : Lets r .fab := by trivial) (kfree : Lets r .free := by trivial) (kinteg : Lets r .integ := by trivial) (kmem : Lets r .mem := by trivial) (kobs : Lets r .obs := by trivial) (kport : Lets r .port := by trivial) (kvs : Lets r .vs := by trivial) : KeepsO r (execEltwiseRowMax a0 a1 a2 a3) := by
  unfold execEltwiseRowMax; try dsimp only
  repeat' first | with_reducible assumption | (intro _) | with_reducible apply runOp_keeps | with_reducible apply OpCtx.compute_keeps

theorem execOpTreeEval_keeps {r a0 a1 a2 a3} (h3 : Keeps r a3) (kfab : Lets r .fab := by trivial) (kfree : Lets r .free := by trivial) (kinteg : Lets r .integ := by trivial) (kmem : Lets r .mem := by trivial) (kobs : Lets r .obs := by trivial) (kport : Lets r .port := by trivial) (kvs : Lets r .vs := by trivial) : KeepsO r (execOpTreeEval a0 a1 a2 a3) := by
  unfold execOpTreeEval; try dsimp only
  repeat' first | with_reducible assumption | (intro _) | with_reducible apply runOp_keeps | with_reducible apply OpCtx.compute_keeps | with_reducible apply OpCtx.flagged_keeps

end Sys2Proof.Machine
end

