-- ==== Sys2Proof/Laws/KeepVatMove.lean ====
section
/-!
SUPPORT. Laws/KeepVatMove.lean: what the operations of Machine/VatMove.lean keep (Laws/Keep.lean).
-/
namespace Sys2Proof.Machine

theorem execOpEnd_keeps {r a0 a1 a2 a3} (h3 : Keeps r a3) (kfab : Lets r .fab := by trivial) (kinteg : Lets r .integ := by trivial) (kobs : Lets r .obs := by trivial) (kport : Lets r .port := by trivial) (kvs : Lets r .vs := by trivial) : KeepsO r (execOpEnd a0 a1 a2 a3) := by
  unfold execOpEnd; try dsimp only
  repeat' first | with_reducible assumption | (intro _) | with_reducible apply runOp_keeps | with_reducible apply modVat_keeps | with_reducible apply modObs_keeps | with_reducible apply modBatch_keeps | with_reducible apply dropFibre_keeps

theorem OpCtx.sendRead_keeps {r a0 a1 a2} (h1 : Keeps r a1) (kfab : Lets r .fab := by trivial) : Keeps r (OpCtx.sendRead a0 a1 a2) := by
  unfold OpCtx.sendRead; try dsimp only
  repeat' first | with_reducible assumption | with_reducible apply send_keeps

theorem OpCtx.fetch_keeps {r a0 a1 a2} (h1 : Keeps r a1) (kfab : Lets r .fab := by trivial) (kinteg : Lets r .integ := by trivial) (kobs : Lets r .obs := by trivial) (kvs : Lets r .vs := by trivial) : KeepsF r (OpCtx.fetch a0 a1 a2) := by
  unfold OpCtx.fetch; try dsimp only
  repeat' first | with_reducible assumption | (intro _) | with_reducible apply ueReport_keeps | with_reducible apply OpCtx.sendRead_keeps | with_reducible apply putFibre_keeps | with_reducible apply keeps_fwait | with_reducible apply keeps_fbad | with_reducible exact keeps_fready | with_reducible apply keepsF_ite | with_reducible apply keeps_foldl | split

theorem OpCtx.post_keeps {r a0 a1 a2 a3 a4} (h1 : Keeps r a1) (kfab : Lets r .fab := by trivial) (kinteg : Lets r .integ := by trivial) (kmem : Lets r .mem := by trivial) : Keeps r (OpCtx.post a0 a1 a2 a3 a4) := by
  unfold OpCtx.post; try dsimp only
  repeat' first | with_reducible assumption | (intro _) | with_reducible apply writeClean_keeps | with_reducible apply send_keeps | with_reducible apply keeps_ite | with_reducible apply keeps_foldl

theorem execOpLoad_keeps {r a0 a1 a2 a3} (h3 : Keeps r a3) (kfab : Lets r .fab := by trivial) (kfree : Lets r .free := by trivial) (kinteg : Lets r .integ := by trivial) (kmem : Lets r .mem := by trivial) (kobs : Lets r .obs := by trivial) (kport : Lets r .port := by trivial) (kvs : Lets r .vs := by trivial) : KeepsO r (execOpLoad a0 a1 a2 a3) := by
  unfold execOpLoad; try dsimp only
  repeat' first | with_reducible assumption | (intro _) | with_reducible apply runOp_keeps | with_reducible apply OpCtx.fetch_keeps | with_reducible apply OpCtx.fault_keeps | with_reducible apply OpCtx.store_keeps | split | with_reducible refine keeps_of_fwait ‹_› ?_ | with_reducible refine keeps_of_fbad ‹_› ?_

theorem OpCtx.rowBad_keeps {r a0 a1 a2 a3} (h1 : Keeps r a1) (kinteg : Lets r .integ := by trivial) (kobs : Lets r .obs := by trivial) : Keeps r (OpCtx.rowBad a0 a1 a2 a3).1 := by
  unfold OpCtx.rowBad; try dsimp only
  repeat' first | with_reducible assumption | with_reducible apply ueReport_keeps | with_reducible apply keepsQ_ite | split

theorem execOpStore_keeps {r a0 a1 a2 a3} (h3 : Keeps r a3) (kfab : Lets r .fab := by trivial) (kinteg : Lets r .integ := by trivial) (kmem : Lets r .mem := by trivial) (kobs : Lets r .obs := by trivial) (kport : Lets r .port := by trivial) (kvs : Lets r .vs := by trivial) : KeepsO r (execOpStore a0 a1 a2 a3) := by
  unfold execOpStore; try dsimp only
  repeat' first | with_reducible assumption | (intro _) | with_reducible apply runOp_keeps | with_reducible apply OpCtx.fault_keeps | with_reducible apply OpCtx.rowBad_keeps | with_reducible apply OpCtx.post_keeps | with_reducible apply OpCtx.finish_keeps | with_reducible apply keeps_ite | with_reducible apply keeps_foldl | with_reducible apply keeps_foldlQ

theorem execOpGather_keeps {r a0 a1 a2 a3} (h3 : Keeps r a3) (kfab : Lets r .fab := by trivial) (kinteg : Lets r .integ := by trivial) (kmem : Lets r .mem := by trivial) (kobs : Lets r .obs := by trivial) (kport : Lets r .port := by trivial) (kvs : Lets r .vs := by trivial) : KeepsO r (execOpGather a0 a1 a2 a3) := by
  unfold execOpGather; try dsimp only
  repeat' first | with_reducible assumption | (intro _) | with_reducible apply runOp_keeps | with_reducible apply OpCtx.fault_keeps | with_reducible apply ueReport_keeps | with_reducible apply OpCtx.fetch_keeps | with_reducible apply OpCtx.finish_keeps | with_reducible apply writeClean_keeps | with_reducible apply keeps_ite | with_reducible apply keeps_foldl | split | with_reducible refine keeps_of_fwait ‹_› ?_ | with_reducible refine keeps_of_fbad ‹_› ?_

theorem execOpScatter_keeps {r a0 a1 a2 a3} (h3 : Keeps r a3) (kfab : Lets r .fab := by trivial) (kinteg : Lets r .integ := by trivial) (kmem : Lets r .mem := by trivial) (kobs : Lets r .obs := by trivial) (kport : Lets r .port := by trivial) (kvs : Lets r .vs := by trivial) : KeepsO r (execOpScatter a0 a1 a2 a3) := by
  unfold execOpScatter; try dsimp only
  repeat' first | with_reducible assumption | (intro _) | with_reducible apply runOp_keeps | with_reducible apply OpCtx.fault_keeps | with_reducible apply ueReport_keeps | with_reducible apply OpCtx.finish_keeps | with_reducible apply OpCtx.rowBad_keeps | with_reducible apply OpCtx.post_keeps | with_reducible apply keeps_ite | with_reducible apply keeps_foldl | split

theorem embedOp_keeps {r a0 a1 a2 a3 a4} (h4 : Keeps r a4) (kfab : Lets r .fab := by trivial) (kfree : Lets r .free := by trivial) (kinteg : Lets r .integ := by trivial) (kmem : Lets r .mem := by trivial) (kobs : Lets r .obs := by trivial) (kport : Lets r .port := by trivial) (kvs : Lets r .vs := by trivial) : KeepsO r (embedOp a0 a1 a2 a3 a4) := by
  unfold embedOp; try dsimp only
  repeat' first | with_reducible assumption | exact fun (_ : Port) hp => hp | exact fun (_ : PortState) hp => hp | exact fun (_ : SecState) => fuses_same rfl rfl | (intro _) | with_reducible apply runOp_keeps | with_reducible apply OpCtx.fault_keeps | with_reducible apply ueReport_keeps | with_reducible apply OpCtx.fetch_keeps | with_reducible apply modVat_keeps | with_reducible apply OpCtx.flagged_keeps | with_reducible apply OpCtx.store_keeps | with_reducible apply keeps_next | with_reducible exact keeps_refused | with_reducible apply keeps_id | with_reducible apply keeps_some | with_reducible exact keeps_none | with_reducible apply keepsO_ite | with_reducible apply keeps_ite | with_reducible apply keepsM_ite | with_reducible apply keepsP_ite | with_reducible apply keepsQ_ite | with_reducible apply keeps_foldl | with_reducible apply keeps_foldlP | with_reducible apply keeps_foldlQ | exact fun _ hp => hp | exact fun _ => fuses_same rfl rfl | with_reducible exact fuses_same rfl rfl | split | with_reducible exact keeps_of_snd ‹_› ‹_› | with_reducible exact keeps_of_fst ‹_› ‹_› | with_reducible refine keeps_of_snd ‹_› ?_ | with_reducible refine keeps_of_fst ‹_› ?_ | with_reducible refine keeps_of_trd ‹_› ?_ | with_reducible refine keeps_of_some ‹_› ?_ | with_reducible refine keeps_of_wref ‹_› ?_ | with_reducible refine keeps_of_wok ‹_› ?_ | with_reducible refine keeps_of_fwait ‹_› ?_ | with_reducible refine keeps_of_fbad ‹_› ?_

theorem execEmbedRows_keeps {r a0 a1 a2 a3} (h3 : Keeps r a3) (kfab : Lets r .fab := by trivial) (kfree : Lets r .free := by trivial) (kinteg : Lets r .integ := by trivial) (kmem : Lets r .mem := by trivial) (kobs : Lets r .obs := by trivial) (kport : Lets r .port := by trivial) (kvs : Lets r .vs := by trivial) : KeepsO r (execEmbedRows a0 a1 a2 a3) := by
  unfold execEmbedRows; try dsimp only
  repeat' first | with_reducible assumption | exact fun (_ : Port) hp => hp | exact fun (_ : PortState) hp => hp | exact fun (_ : SecState) => fuses_same rfl rfl | (intro _) | with_reducible apply embedOp_keeps | with_reducible apply keeps_next | with_reducible exact keeps_refused | with_reducible apply keeps_id | with_reducible apply keeps_some | with_reducible exact keeps_none | with_reducible apply keepsO_ite | with_reducible apply keeps_ite | with_reducible apply keepsM_ite | with_reducible apply keepsP_ite | with_reducible apply keepsQ_ite | with_reducible apply keeps_foldl | with_reducible apply keeps_foldlP | with_reducible apply keeps_foldlQ | exact fun _ hp => hp | exact fun _ => fuses_same rfl rfl | with_reducible exact fuses_same rfl rfl | split | with_reducible exact keeps_of_snd ‹_› ‹_› | with_reducible exact keeps_of_fst ‹_› ‹_› | with_reducible refine keeps_of_snd ‹_› ?_ | with_reducible refine keeps_of_fst ‹_› ?_ | with_reducible refine keeps_of_trd ‹_› ?_ | with_reducible refine keeps_of_some ‹_› ?_ | with_reducible refine keeps_of_wref ‹_› ?_ | with_reducible refine keeps_of_wok ‹_› ?_ | with_reducible refine keeps_of_fwait ‹_› ?_ | with_reducible refine keeps_of_fbad ‹_› ?_

theorem execEmbedSum_keeps {r a0 a1 a2 a3} (h3 : Keeps r a3) (kfab : Lets r .fab := by trivial) (kfree : Lets r .free := by trivial) (kinteg : Lets r .integ := by trivial) (kmem : Lets r .mem := by trivial) (kobs : Lets r .obs := by trivial) (kport : Lets r .port := by trivial) (kvs : Lets r .vs := by trivial) : KeepsO r (execEmbedSum a0 a1 a2 a3) := by
  unfold execEmbedSum; try dsimp only
  repeat' first | with_reducible assumption | exact fun (_ : Port) hp => hp | exact fun (_ : PortState) hp => hp | exact fun (_ : SecState) => fuses_same rfl rfl | (intro _) | with_reducible apply embedOp_keeps | with_reducible apply keeps_next | with_reducible exact keeps_refused | with_reducible apply keeps_id | with_reducible apply keeps_some | with_reducible exact keeps_none | with_reducible apply keepsO_ite | with_reducible apply keeps_ite | with_reducible apply keepsM_ite | with_reducible apply keepsP_ite | with_reducible apply keepsQ_ite | with_reducible apply keeps_foldl | with_reducible apply keeps_foldlP | with_reducible apply keeps_foldlQ | exact fun _ hp => hp | exact fun _ => fuses_same rfl rfl | with_reducible exact fuses_same rfl rfl | split | with_reducible exact keeps_of_snd ‹_› ‹_› | with_reducible exact keeps_of_fst ‹_› ‹_› | with_reducible refine keeps_of_snd ‹_› ?_ | with_reducible refine keeps_of_fst ‹_› ?_ | with_reducible refine keeps_of_trd ‹_› ?_ | with_reducible refine keeps_of_some ‹_› ?_ | with_reducible refine keeps_of_wref ‹_› ?_ | with_reducible refine keeps_of_wok ‹_› ?_ | with_reducible refine keeps_of_fwait ‹_› ?_ | with_reducible refine keeps_of_fbad ‹_› ?_

theorem execEmbedMax_keeps {r a0 a1 a2 a3} (h3 : Keeps r a3) (kfab : Lets r .fab := by trivial) (kfree : Lets r .free := by trivial) (kinteg : Lets r .integ := by trivial) (kmem : Lets r .mem := by trivial) (kobs : Lets r .obs := by trivial) (kport : Lets r .port := by trivial) (kvs : Lets r .vs := by trivial) : KeepsO r (execEmbedMax a0 a1 a2 a3) := by
  unfold execEmbedMax; try dsimp only
  repeat' first | with_reducible assumption | exact fun (_ : Port) hp => hp | exact fun (_ : PortState) hp => hp | exact fun (_ : SecState) => fuses_same rfl rfl | (intro _) | with_reducible apply embedOp_keeps | with_reducible apply keeps_next | with_reducible exact keeps_refused | with_reducible apply keeps_id | with_reducible apply keeps_some | with_reducible exact keeps_none | with_reducible apply keepsO_ite | with_reducible apply keeps_ite | with_reducible apply keepsM_ite | with_reducible apply keepsP_ite | with_reducible apply keepsQ_ite | with_reducible apply keeps_foldl | with_reducible apply keeps_foldlP | with_reducible apply keeps_foldlQ | exact fun _ hp => hp | exact fun _ => fuses_same rfl rfl | with_reducible exact fuses_same rfl rfl | split | with_reducible exact keeps_of_snd ‹_› ‹_› | with_reducible exact keeps_of_fst ‹_› ‹_› | with_reducible refine keeps_of_snd ‹_› ?_ | with_reducible refine keeps_of_fst ‹_› ?_ | with_reducible refine keeps_of_trd ‹_› ?_ | with_reducible refine keeps_of_some ‹_› ?_ | with_reducible refine keeps_of_wref ‹_› ?_ | with_reducible refine keeps_of_wok ‹_› ?_ | with_reducible refine keeps_of_fwait ‹_› ?_ | with_reducible refine keeps_of_fbad ‹_› ?_

theorem contributeFrom_keeps {r a0 a1 a2 a3 a4 a5 a6 a7} (h1 : Keeps r a1) (kfab : Lets r .fab := by trivial) (kinteg : Lets r .integ := by trivial) (kmem : Lets r .mem := by trivial) (kobs : Lets r .obs := by trivial) (kport : Lets r .port := by trivial) (kvs : Lets r .vs := by trivial) : Keeps r (contributeFrom a0 a1 a2 a3 a4 a5 a6 a7).1 := by
  induction a0 generalizing a1 a2 a3 a4 a5 a6 a7 h1 with
  | zero =>
    unfold contributeFrom; try dsimp only
    repeat' first | with_reducible assumption | with_reducible apply redContribute_keeps | with_reducible apply keepsQ_ite | split | with_reducible refine keeps_of_some ‹_› ?_
  | succ n ih =>
    unfold contributeFrom; try dsimp only
    repeat' first | apply ih | with_reducible assumption | with_reducible apply redContribute_keeps | with_reducible apply keepsQ_ite | split | with_reducible refine keeps_of_some ‹_› ?_

theorem execOpContribute_keeps {r a0 a1 a2 a3} (h3 : Keeps r a3) (kfab : Lets r .fab := by trivial) (kinteg : Lets r .integ := by trivial) (kmem : Lets r .mem := by trivial) (kobs : Lets r .obs := by trivial) (kport : Lets r .port := by trivial) (kvs : Lets r .vs := by trivial) : KeepsO r (execOpContribute a0 a1 a2 a3) := by
  unfold execOpContribute; try dsimp only
  repeat' first | with_reducible assumption | (intro _) | with_reducible apply runOp_keeps | with_reducible apply OpCtx.fault_keeps | with_reducible apply ueReport_keeps | with_reducible apply OpCtx.park_keeps | with_reducible apply modNode_keeps | with_reducible apply putFibre_keeps | with_reducible apply contributeFrom_keeps | with_reducible apply OpCtx.finish_keeps | with_reducible apply keeps_ite

theorem execOpMcast_keeps {r a0 a1 a2 a3} (h3 : Keeps r a3) (kfab : Lets r .fab := by trivial) (kinteg : Lets r .integ := by trivial) (kobs : Lets r .obs := by trivial) (kport : Lets r .port := by trivial) (kvs : Lets r .vs := by trivial) : KeepsO r (execOpMcast a0 a1 a2 a3) := by
  unfold execOpMcast; try dsimp only
  repeat' first | with_reducible assumption | (intro _) | with_reducible apply runOp_keeps | with_reducible apply ueReport_keeps | with_reducible apply OpCtx.finish_keeps | with_reducible apply sendMcast_keeps | with_reducible apply keeps_ite

theorem execOpRecvMc_keeps {r a0 a1 a2 a3} (h3 : Keeps r a3) (kfab : Lets r .fab := by trivial) (kinteg : Lets r .integ := by trivial) (kobs : Lets r .obs := by trivial) (kport : Lets r .port := by trivial) (kvs : Lets r .vs := by trivial) : KeepsO r (execOpRecvMc a0 a1 a2 a3) := by
  unfold execOpRecvMc; try dsimp only
  repeat' first | with_reducible assumption | (intro _) | with_reducible apply runOp_keeps | with_reducible apply OpCtx.fault_keeps | with_reducible apply OpCtx.finish_keeps | with_reducible apply OpCtx.park_keeps | with_reducible apply keeps_ite

theorem execOpSync_keeps {r a0 a1 a2 a3} (h3 : Keeps r a3) (kfab : Lets r .fab := by trivial) (kinteg : Lets r .integ := by trivial) (kobs : Lets r .obs := by trivial) (kport : Lets r .port := by trivial) (kvs : Lets r .vs := by trivial) : KeepsO r (execOpSync a0 a1 a2 a3) := by
  unfold execOpSync; try dsimp only
  repeat' first | with_reducible assumption | (intro _) | with_reducible apply runOp_keeps | with_reducible apply OpCtx.fault_keeps | with_reducible apply sendSync_keeps | with_reducible apply OpCtx.park_keeps | with_reducible apply keeps_ite | split

theorem execOpFence_keeps {r a0 a1 a2 a3} (h3 : Keeps r a3) (kfab : Lets r .fab := by trivial) (kinteg : Lets r .integ := by trivial) (kobs : Lets r .obs := by trivial) (kport : Lets r .port := by trivial) (kvs : Lets r .vs := by trivial) : KeepsO r (execOpFence a0 a1 a2 a3) := by
  unfold execOpFence; try dsimp only
  repeat' first | with_reducible assumption | (intro _) | with_reducible apply runOp_keeps | with_reducible apply OpCtx.finish_keeps | with_reducible apply keeps_ite

theorem modWatch_keeps {r a0 a1 a2} (h0 : Keeps r a0) (kobs : Lets r .obs := by trivial) : Keeps r (modWatch a0 a1 a2) := by
  unfold modWatch; try dsimp only
  repeat' first | with_reducible assumption | with_reducible apply modObs_keeps

theorem watchPurge_keeps {r a0 a1 a2} (h0 : Keeps r a0) (kobs : Lets r .obs := by trivial) : Keeps r (watchPurge a0 a1 a2) := by
  unfold watchPurge; try dsimp only
  repeat' first | with_reducible assumption | with_reducible apply modWatch_keeps | split

theorem OpCtx.watchMerge_keeps {r a0 a1 a2} (h1 : Keeps r a1) (kfab : Lets r .fab := by trivial) (kinteg : Lets r .integ := by trivial) (kobs : Lets r .obs := by trivial) (kport : Lets r .port := by trivial) (kvs : Lets r .vs := by trivial) : Keeps r (OpCtx.watchMerge a0 a1 a2) := by
  unfold OpCtx.watchMerge; try dsimp only
  repeat' first | with_reducible assumption | with_reducible apply OpCtx.fault_keeps | with_reducible apply OpCtx.finish_keeps | with_reducible apply modWatch_keeps | with_reducible apply keeps_ite | split

theorem execOpWatch_keeps {r a0 a1 a2 a3} (h3 : Keeps r a3) (kfab : Lets r .fab := by trivial) (kinteg : Lets r .integ := by trivial) (kobs : Lets r .obs := by trivial) (kport : Lets r .port := by trivial) (kvs : Lets r .vs := by trivial) : KeepsO r (execOpWatch a0 a1 a2 a3) := by
  unfold execOpWatch; try dsimp only
  repeat' first | with_reducible assumption | (intro _) | with_reducible apply runOp_keeps | with_reducible apply OpCtx.fault_keeps | with_reducible apply ueReport_keeps | with_reducible apply watchPurge_keeps | with_reducible apply OpCtx.watchMerge_keeps | with_reducible apply modWatch_keeps | with_reducible apply report_keeps | with_reducible apply OpCtx.park_keeps | with_reducible apply keeps_ite | split

theorem execOpDigest_keeps {r a0 a1 a2 a3} (h3 : Keeps r a3) (kfab : Lets r .fab := by trivial) (kinteg : Lets r .integ := by trivial) (kmem : Lets r .mem := by trivial) (kobs : Lets r .obs := by trivial) (kport : Lets r .port := by trivial) (kvs : Lets r .vs := by trivial) : KeepsO r (execOpDigest a0 a1 a2 a3) := by
  unfold execOpDigest; try dsimp only
  repeat' first | with_reducible assumption | (intro _) | with_reducible apply runOp_keeps | with_reducible apply watchPurge_keeps | with_reducible apply OpCtx.fault_keeps | with_reducible apply modWatch_keeps | with_reducible apply writeClean_keeps | with_reducible apply event_keeps | with_reducible apply OpCtx.finish_keeps | with_reducible apply OpCtx.park_keeps | with_reducible apply send_keeps | with_reducible apply keeps_ite | split

end Sys2Proof.Machine
end

