-- ==== Sys2Proof/Laws/KeepOdValue.lean ====
section
/-!
SUPPORT. Laws/KeepOdValue.lean: what the operations of Machine/OdValue.lean keep (Laws/Keep.lean).
-/
namespace Sys2Proof.Machine

theorem afterRead_keeps {r a0 a1} (h0 : Keeps r a0) (kfree : Lets r .free := by trivial) (kobs : Lets r .obs := by trivial) : Keeps r (afterRead a0 a1) := by
  unfold afterRead; try dsimp only
  repeat' first | with_reducible assumption | with_reducible apply modObs_keeps | with_reducible apply takeDraws_keeps | with_reducible apply keeps_ite

theorem odRead_keeps {r a0 a1 a2 a3 a4 a5} (h0 : Keeps r a0) (kdict : Lets r .dict := by trivial) (kfree : Lets r .free := by trivial) (kobs : Lets r .obs := by trivial) : Keeps r (odRead a0 a1 a2 a3 a4 a5).2 := by
  unfold odRead; try dsimp only
  repeat' first | with_reducible assumption | with_reducible apply newChallenge_keeps | with_reducible apply afterRead_keeps | with_reducible apply keepsP_ite | split

end Sys2Proof.Machine
end

