-- ==== Sys2Proof/Laws/KeepOdWrite.lean ====
section
/-!
SUPPORT. Laws/KeepOdWrite.lean: what the operations of Machine/OdWrite.lean keep (Laws/Keep.lean).
-/
namespace Sys2Proof.Machine

theorem refuseIf_keeps {r a0 a1 a2} (h1 : Keeps r a1) (h2 : KeepsW r a2)  : KeepsW r (refuseIf a0 a1 a2) := by
  unfold refuseIf; try dsimp only
  repeat' first | with_reducible assumption | with_reducible apply keeps_wref | split

theorem seqStart_keeps {r a0 a1} (h0 : Keeps r a0) (kvs : Lets r .vs := by trivial) : KeepsW r (seqStart a0 a1) := by
  unfold seqStart; try dsimp only
  repeat' first | with_reducible assumption | with_reducible apply applied_keeps | with_reducible apply seqBegin_keeps | with_reducible apply keeps_wref | with_reducible apply keepsW_ite

theorem seqStop_keeps {r a0 a1} (h0 : Keeps r a0) (kfab : Lets r .fab := by trivial) (kvs : Lets r .vs := by trivial) : KeepsW r (seqStop a0 a1) := by
  unfold seqStop; try dsimp only
  repeat' first | with_reducible assumption | with_reducible apply applied_keeps | with_reducible apply modSeq_keeps | with_reducible apply seqCancelWait_keeps | with_reducible apply keeps_wref | with_reducible apply keepsW_ite

theorem seqControl_keeps {r a0 a1 a2} (h0 : Keeps r a0) (kfab : Lets r .fab := by trivial) (kvs : Lets r .vs := by trivial) : KeepsW r (seqControl a0 a1 a2) := by
  unfold seqControl; try dsimp only
  repeat' first | with_reducible assumption | with_reducible apply seqStart_keeps | with_reducible apply seqStop_keeps | with_reducible apply keeps_wref | with_reducible apply keepsW_ite

theorem mcRejoinWrite_keeps {r a0 a1 a2} (h0 : Keeps r a0) (kvs : Lets r .vs := by trivial) : KeepsW r (mcRejoinWrite a0 a1 a2) := by
  unfold mcRejoinWrite; try dsimp only
  repeat' first | with_reducible assumption | with_reducible apply applied_keeps | with_reducible apply mcRejoin_keeps | with_reducible apply keeps_wref | with_reducible apply keepsW_ite

theorem redForce_keeps {r a0 a1 a2} (h0 : Keeps r a0) (kfab : Lets r .fab := by trivial) (kinteg : Lets r .integ := by trivial) (kmem : Lets r .mem := by trivial) (kobs : Lets r .obs := by trivial) (kvs : Lets r .vs := by trivial) : KeepsW r (redForce a0 a1 a2) := by
  unfold redForce; try dsimp only
  repeat' first | with_reducible assumption | with_reducible apply applied_keeps | with_reducible apply redResyncStep_keeps | with_reducible apply keeps_wref | with_reducible apply keepsW_ite

theorem logClear_keeps {r a0} (h0 : Keeps r a0) (kinteg : Lets r .integ := by trivial) : Keeps r (logClear a0) := by
  unfold logClear; try dsimp only
  repeat' first | with_reducible assumption | with_reducible apply mirrorLog_keeps | with_reducible apply modInteg_keeps

theorem dieCommand_keeps {r a0 a1} {a2 : State → State} (h0 : Keeps r a0) (h2 : ∀ y0, Keeps r y0 → Keeps r (a2 y0))  : KeepsW r (dieCommand a0 a1 a2) := by
  unfold dieCommand; try dsimp only
  repeat' first | with_reducible assumption | with_reducible apply h2 | with_reducible apply applied_keeps | with_reducible apply keeps_wref | with_reducible apply keepsW_ite

theorem wallSet_keeps {r a0 a1 a2} (h0 : Keeps r a0) (ktime : Lets r .time := by trivial) : KeepsW r (wallSet a0 a1 a2) := by
  unfold wallSet; try dsimp only
  repeat' first | with_reducible assumption | with_reducible apply applied_keeps | with_reducible apply modTime_keeps | with_reducible apply keeps_wref | with_reducible apply keepsW_ite

theorem partitionControl_keeps {r a0 a1 a2} (h0 : Keeps r a0) (kpart : Lets r .part := by trivial) : KeepsW r (partitionControl a0 a1 a2) := by
  unfold partitionControl; try dsimp only
  repeat' first | with_reducible assumption | with_reducible apply applied_keeps | with_reducible apply partitionDrain_keeps | with_reducible apply partitionResume_keeps | with_reducible apply keeps_wref | with_reducible apply keepsW_ite

theorem formatWrite_keeps {r a0 a1 a2 a3} (h0 : Keeps r a0) (kled : Lets r .led := by trivial) (kport : Lets r .port := by trivial) (ksec : Lets r .sec := by trivial) : KeepsW r (formatWrite a0 a1 a2 a3) := by
  unfold formatWrite; try dsimp only
  repeat' first | with_reducible assumption | with_reducible apply started_keeps | with_reducible apply ledgerFormat_keeps | with_reducible apply keeps_wref | with_reducible apply keepsW_ite

theorem ledgerControl_keeps {r a0 a1 a2} (h0 : Keeps r a0) (kinteg : Lets r .integ := by trivial) (kled : Lets r .led := by trivial) (kobs : Lets r .obs := by trivial) : KeepsW r (ledgerControl a0 a1 a2) := by
  unfold ledgerControl; try dsimp only
  repeat' first | with_reducible assumption | with_reducible apply started_keeps | with_reducible apply ledgerStop_keeps | with_reducible apply applied_keeps | with_reducible apply ledgerStart_keeps | with_reducible apply keeps_wref | with_reducible apply keepsW_ite

theorem bufferControl_keeps {r a0 a1 a2} (h0 : Keeps r a0) (kinteg : Lets r .integ := by trivial) (kobs : Lets r .obs := by trivial) : KeepsW r (bufferControl a0 a1 a2) := by
  unfold bufferControl; try dsimp only
  repeat' first | with_reducible assumption | with_reducible apply applied_keeps | with_reducible apply bufferArm_keeps | with_reducible apply bufferStop_keeps | with_reducible apply bufferTrigger_keeps | with_reducible apply bufferDisarm_keeps | with_reducible apply keeps_wref | with_reducible apply keepsW_ite

theorem freezeWrite_keeps {r a0 a1} (h0 : Keeps r a0) (kobs : Lets r .obs := by trivial) : KeepsW r (freezeWrite a0 a1) := by
  unfold freezeWrite; try dsimp only
  repeat' first | with_reducible assumption | with_reducible apply refuseIf_keeps | with_reducible apply applied_keeps | with_reducible apply freezeSend_keeps | with_reducible apply keeps_wref | with_reducible apply keepsW_ite

theorem commandLow_keeps {r a0 a1 a2 a3 a4} (h0 : Keeps r a0) (kdict : Lets r .dict := by trivial) (kep : Lets r .ep := by trivial) (kfab : Lets r .fab := by trivial) (kinteg : Lets r .integ := by trivial) (kmem : Lets r .mem := by trivial) (kobs : Lets r .obs := by trivial) (kpart : Lets r .part := by trivial) (ksec : Lets r .sec := by trivial) (ktime : Lets r .time := by trivial) (kvs : Lets r .vs := by trivial) : KeepsW r (commandLow a0 a1 a2 a3 a4) := by
  unfold commandLow; try dsimp only
  repeat' first | with_reducible assumption | (intro _) | with_reducible apply sessionResponse_keeps | with_reducible apply sessionClose_keeps | with_reducible apply mcRejoinWrite_keeps | with_reducible apply redForce_keeps | with_reducible apply onlyOne_keeps | with_reducible apply applied_keeps | with_reducible apply logClear_keeps | with_reducible apply dieCommand_keeps | with_reducible apply crossingClear_keeps | with_reducible apply wallSet_keeps | with_reducible apply seqControl_keeps | with_reducible apply refuseIf_keeps | with_reducible apply started_keeps | with_reducible apply startSwitch_keeps | with_reducible apply epochCancel_keeps | with_reducible apply partitionControl_keeps | with_reducible apply keepsW_ite

theorem commandHigh_keeps {r a0 a1 a2 a3 a4 a5} (h0 : Keeps r a0) (kdict : Lets r .dict := by trivial) (kep : Lets r .ep := by trivial) (kfab : Lets r .fab := by trivial) (kfree : Lets r .free := by trivial) (kinteg : Lets r .integ := by trivial) (kled : Lets r .led := by trivial) (kmem : Lets r .mem := by trivial) (kobs : Lets r .obs := by trivial) (kout : Lets r .out := by trivial) (kpart : Lets r .part := by trivial) (kport : Lets r .port := by trivial) (kpow : Lets r .pow := by trivial) (ksec : Lets r .sec := by trivial) (ktime : Lets r .time := by trivial) (kvs : Lets r .vs := by trivial) : KeepsW r (commandHigh a0 a1 a2 a3 a4 a5) := by
  unfold commandHigh; try dsimp only
  repeat' first | with_reducible assumption | exact fun (_ : SecState) => fuses_same rfl rfl | (intro _) | with_reducible apply formatWrite_keeps | with_reducible apply ledgerControl_keeps | with_reducible apply applied_keeps | with_reducible apply journalRelease_keeps | with_reducible apply dieCommand_keeps | with_reducible apply counterClear_keeps | with_reducible apply bufferControl_keeps | with_reducible apply freezeWrite_keeps | with_reducible apply snapshotRelease_keeps | with_reducible apply roleEnrol_keeps | with_reducible apply roleRevoke_keeps | with_reducible apply attestNonce_keeps | with_reducible apply unlockToken_keeps | with_reducible apply onlyOne_keeps | with_reducible apply endUnlock_keeps | with_reducible apply started_keeps | with_reducible apply scanEnter_keeps | with_reducible apply zeroise_keeps | with_reducible apply floorCommit_keeps | with_reducible apply modSec_keeps | with_reducible apply warmStart_keeps | with_reducible apply refuseIf_keeps | with_reducible apply withDevice_keeps | with_reducible apply dieResetGo_keeps | with_reducible apply islandResetGo_keeps | with_reducible apply fwUpdate_keeps | with_reducible apply fwCommitB_keeps | with_reducible apply keeps_wref | with_reducible apply keepsW_ite

theorem commandWrite_keeps {r a0 a1 a2 a3 a4 a5} (h0 : Keeps r a0) (kdict : Lets r .dict := by trivial) (kep : Lets r .ep := by trivial) (kfab : Lets r .fab := by trivial) (kfree : Lets r .free := by trivial) (kinteg : Lets r .integ := by trivial) (kled : Lets r .led := by trivial) (kmem : Lets r .mem := by trivial) (kobs : Lets r .obs := by trivial) (kout : Lets r .out := by trivial) (kpart : Lets r .part := by trivial) (kport : Lets r .port := by trivial) (kpow : Lets r .pow := by trivial) (ksec : Lets r .sec := by trivial) (ktime : Lets r .time := by trivial) (kvs : Lets r .vs := by trivial) : KeepsW r (commandWrite a0 a1 a2 a3 a4 a5) := by
  unfold commandWrite; try dsimp only
  repeat' first | with_reducible assumption | with_reducible apply commandLow_keeps | with_reducible apply commandHigh_keeps | with_reducible apply keepsW_ite

theorem pendingWrite_keeps {r a0 a1 a2 a3} (h0 : Keeps r a0) (kep : Lets r .ep := by trivial) : KeepsW r (pendingWrite a0 a1 a2 a3) := by
  unfold pendingWrite; try dsimp only
  repeat' first | with_reducible assumption | with_reducible apply modEp_keeps | with_reducible apply keeps_wok

theorem alsoDoes_keeps {r a0 a1 a2 a3} (h0 : Keeps r a0) (kdict : Lets r .dict := by trivial) (kpart : Lets r .part := by trivial) (ktime : Lets r .time := by trivial) (kvs : Lets r .vs := by trivial) : Keeps r (alsoDoes a0 a1 a2 a3) := by
  unfold alsoDoes; try dsimp only
  repeat' first | with_reducible assumption | with_reducible apply setRate_keeps | with_reducible apply modTime_keeps | with_reducible apply modCan_keeps | with_reducible apply modPart_keeps | with_reducible apply loadProgram_keeps | with_reducible apply keeps_ite

theorem groundWrite_keeps {r a0 a1 a2 a3 a4} (h0 : Keeps r a0) (kdict : Lets r .dict := by trivial) (kout : Lets r .out := by trivial) (kpart : Lets r .part := by trivial) (kport : Lets r .port := by trivial) (kpow : Lets r .pow := by trivial) (ktime : Lets r .time := by trivial) (kvs : Lets r .vs := by trivial) : KeepsW r (groundWrite a0 a1 a2 a3 a4) := by
  unfold groundWrite; try dsimp only
  repeat' first | with_reducible assumption | with_reducible apply modDict_keeps | with_reducible apply modPart_keeps | with_reducible apply modPow_keeps | with_reducible apply alsoDoes_keeps | with_reducible apply railsFollow_keeps | with_reducible apply deviceNote_keeps | with_reducible apply keeps_wok | with_reducible apply keeps_ite

theorem noteLoadError_keeps {r a0 a1 a2 a3} (h0 : Keeps r a0) (kvs : Lets r .vs := by trivial) : Keeps r (noteLoadError a0 a1 a2 a3) := by
  unfold noteLoadError; try dsimp only
  repeat' first | with_reducible assumption | with_reducible apply modSeq_keeps | with_reducible apply keeps_ite | split

theorem valueWrite_keeps {r a0 a1 a2 a3 a4} (h0 : Keeps r a0) (kdict : Lets r .dict := by trivial) (kep : Lets r .ep := by trivial) (kout : Lets r .out := by trivial) (kpart : Lets r .part := by trivial) (kport : Lets r .port := by trivial) (kpow : Lets r .pow := by trivial) (ktime : Lets r .time := by trivial) (kvs : Lets r .vs := by trivial) : KeepsW r (valueWrite a0 a1 a2 a3 a4) := by
  unfold valueWrite; try dsimp only
  repeat' first | with_reducible assumption | with_reducible apply pendingWrite_keeps | with_reducible apply groundWrite_keeps | with_reducible apply refuseIf_keeps | with_reducible apply noteLoadError_keeps | with_reducible apply keeps_wref | with_reducible apply keepsW_ite | split

theorem writeValue_keeps {r a0 a1 a2 a3 a4 a5} (h0 : Keeps r a0) (kdict : Lets r .dict := by trivial) (kep : Lets r .ep := by trivial) (kfab : Lets r .fab := by trivial) (kfree : Lets r .free := by trivial) (kinteg : Lets r .integ := by trivial) (kled : Lets r .led := by trivial) (kmem : Lets r .mem := by trivial) (kobs : Lets r .obs := by trivial) (kout : Lets r .out := by trivial) (kpart : Lets r .part := by trivial) (kport : Lets r .port := by trivial) (kpow : Lets r .pow := by trivial) (ksec : Lets r .sec := by trivial) (ktime : Lets r .time := by trivial) (kvs : Lets r .vs := by trivial) : KeepsW r (writeValue a0 a1 a2 a3 a4 a5) := by
  unfold writeValue; try dsimp only
  repeat' first | with_reducible assumption | with_reducible apply commandWrite_keeps | with_reducible apply valueWrite_keeps | with_reducible apply keeps_wref | with_reducible apply keepsW_ite | split

theorem odWrite_keeps {r a0 a1 a2 a3 a4 a5} (h0 : Keeps r a0) (kdict : Lets r .dict := by trivial) (kep : Lets r .ep := by trivial) (kfab : Lets r .fab := by trivial) (kfree : Lets r .free := by trivial) (kinteg : Lets r .integ := by trivial) (kled : Lets r .led := by trivial) (kmem : Lets r .mem := by trivial) (kobs : Lets r .obs := by trivial) (kout : Lets r .out := by trivial) (kpart : Lets r .part := by trivial) (kport : Lets r .port := by trivial) (kpow : Lets r .pow := by trivial) (ksec : Lets r .sec := by trivial) (ktime : Lets r .time := by trivial) (kvs : Lets r .vs := by trivial) : KeepsW r (odWrite a0 a1 a2 a3 a4 a5) := by
  unfold odWrite; try dsimp only
  repeat' first | with_reducible assumption | with_reducible apply writeValue_keeps | with_reducible apply keeps_wref | split

end Sys2Proof.Machine
end

