-- ==== Sys2Proof/Laws/KeepTtp.lean ====
section
/-!
SUPPORT. Laws/KeepTtp.lean: what the operations of Machine/Ttp.lean keep (Laws/Keep.lean).
-/
namespace Sys2Proof.Machine

theorem modCanStat_keeps {r a0 a1 a2} (h0 : Keeps r a0) (kdict : Lets r .dict := by trivial) : Keeps r (modCanStat a0 a1 a2) := by
  unfold modCanStat; try dsimp only
  repeat' first | with_reducible assumption | with_reducible apply modCan_keeps

theorem reply_keeps {r a0 a1 a2 a3} (h0 : Keeps r a0) (kdict : Lets r .dict := by trivial) (kout : Lets r .out := by trivial) : Keeps r (reply a0 a1 a2 a3) := by
  unfold reply; try dsimp only
  repeat' first | with_reducible assumption | with_reducible apply emitOut_keeps | with_reducible apply modCanStat_keeps | with_reducible apply modMbx_keeps | with_reducible apply keeps_ite

theorem answer_keeps {r a0 a1 a2 a3 a4 a5 a6} (h0 : Keeps r a0) (kdict : Lets r .dict := by trivial) (kout : Lets r .out := by trivial) : Keeps r (answer a0 a1 a2 a3 a4 a5 a6) := by
  unfold answer; try dsimp only
  repeat' first | with_reducible assumption | with_reducible apply reply_keeps

theorem abortTo_keeps {r a0 a1 a2 a3 a4} (h0 : Keeps r a0) (kdict : Lets r .dict := by trivial) (kout : Lets r .out := by trivial) : Keeps r (abortTo a0 a1 a2 a3 a4) := by
  unfold abortTo; try dsimp only
  repeat' first | with_reducible assumption | with_reducible apply answer_keeps

theorem expireSessions_keeps {r a0} (h0 : Keeps r a0) (kdict : Lets r .dict := by trivial) : Keeps r (expireSessions a0) := by
  unfold expireSessions; try dsimp only
  repeat' first | with_reducible assumption | with_reducible apply modDict_keeps

theorem nameSession_keeps {r a0 a1 a2} (h0 : Keeps r a0) (kdict : Lets r .dict := by trivial) : Keeps r (nameSession a0 a1 a2) := by
  unfold nameSession; try dsimp only
  repeat' first | with_reducible assumption | exact fun (_ : Port) hp => hp | exact fun (_ : PortState) hp => hp | exact fun (_ : SecState) => fuses_same rfl rfl | (intro _) | with_reducible apply modDict_keeps | with_reducible apply keeps_id | with_reducible apply keeps_some | with_reducible exact keeps_none | with_reducible apply keeps_ite | with_reducible apply keepsM_ite | with_reducible apply keepsP_ite | with_reducible apply keepsQ_ite | with_reducible apply keeps_foldl | with_reducible apply keeps_foldlP | with_reducible apply keeps_foldlQ | exact fun _ hp => hp | exact fun _ => fuses_same rfl rfl | with_reducible exact fuses_same rfl rfl | split | with_reducible exact keeps_of_snd ‹_› ‹_› | with_reducible exact keeps_of_fst ‹_› ‹_› | with_reducible refine keeps_of_snd ‹_› ?_ | with_reducible refine keeps_of_fst ‹_› ?_ | with_reducible refine keeps_of_trd ‹_› ?_ | with_reducible refine keeps_of_some ‹_› ?_ | with_reducible refine keeps_of_wref ‹_› ?_ | with_reducible refine keeps_of_wok ‹_› ?_ | with_reducible refine keeps_of_fwait ‹_› ?_ | with_reducible refine keeps_of_fbad ‹_› ?_

theorem dropTransfer_keeps {r a0 a1 a2} (h0 : Keeps r a0) (kdict : Lets r .dict := by trivial) : Keeps r (dropTransfer a0 a1 a2) := by
  unfold dropTransfer; try dsimp only
  repeat' first | with_reducible assumption | with_reducible apply modDict_keeps

theorem putTransfer_keeps {r a0 a1} (h0 : Keeps r a0) (kdict : Lets r .dict := by trivial) : Keeps r (putTransfer a0 a1) := by
  unfold putTransfer; try dsimp only
  repeat' first | with_reducible assumption | with_reducible apply modDict_keeps | with_reducible apply dropTransfer_keeps

theorem failTransfer_keeps {r a0 a1 a2} (h0 : Keeps r a0) (kdict : Lets r .dict := by trivial) (kout : Lets r .out := by trivial) : Keeps r (failTransfer a0 a1 a2) := by
  unfold failTransfer; try dsimp only
  repeat' first | with_reducible assumption | with_reducible apply reply_keeps | with_reducible apply dropTransfer_keeps

theorem endReused_keeps {r a0 a1 a2} (h0 : Keeps r a0) (kdict : Lets r .dict := by trivial) (kout : Lets r .out := by trivial) : Keeps r (endReused a0 a1 a2) := by
  unfold endReused; try dsimp only
  repeat' first | with_reducible assumption | with_reducible apply failTransfer_keeps | split

theorem expireTransfers_keeps {r a0 a1} (h0 : Keeps r a0) (kdict : Lets r .dict := by trivial) (kout : Lets r .out := by trivial) : Keeps r (expireTransfers a0 a1) := by
  unfold expireTransfers; try dsimp only
  repeat' first | with_reducible assumption | (intro _) | with_reducible apply failTransfer_keeps | with_reducible apply keeps_foldl

theorem answerRead_keeps {r a0 a1 a2 a3} (h0 : Keeps r a0) (kdict : Lets r .dict := by trivial) (kfree : Lets r .free := by trivial) (kobs : Lets r .obs := by trivial) (kout : Lets r .out := by trivial) : Keeps r (answerRead a0 a1 a2 a3) := by
  unfold answerRead; try dsimp only
  repeat' first | with_reducible assumption | with_reducible apply odRead_keeps | with_reducible apply abortTo_keeps | with_reducible apply answer_keeps | with_reducible apply putTransfer_keeps | with_reducible apply keeps_ite | split

theorem answerWrite_keeps {r a0 a1 a2 a3} (h3 : KeepsW r a3) (kdict : Lets r .dict := by trivial) (kout : Lets r .out := by trivial) : Keeps r (answerWrite a0 a1 a2 a3) := by
  cases a3 with
  | refused c s => exact abortTo_keeps h3
  | ok e n s => exact answer_keeps h3

theorem openWrite_keeps {r a0 a1 a2 a3} (h0 : Keeps r a0) (kdict : Lets r .dict := by trivial) (kout : Lets r .out := by trivial) : Keeps r (openWrite a0 a1 a2 a3) := by
  unfold openWrite; try dsimp only
  repeat' first | with_reducible assumption | with_reducible apply abortTo_keeps | with_reducible apply answer_keeps | with_reducible apply putTransfer_keeps | with_reducible apply keeps_ite | split

theorem takeSegment_keeps {r a0 a1 a2} (h0 : Keeps r a0) (kdict : Lets r .dict := by trivial) (kout : Lets r .out := by trivial) : Keeps r (takeSegment a0 a1 a2) := by
  unfold takeSegment; try dsimp only
  repeat' first | with_reducible assumption | with_reducible apply failTransfer_keeps | with_reducible apply answer_keeps | with_reducible apply putTransfer_keeps | with_reducible apply keeps_ite

theorem endWrite_keeps {r a0 a1 a2 a3 a4} (h0 : Keeps r a0) (kdict : Lets r .dict := by trivial) (kep : Lets r .ep := by trivial) (kfab : Lets r .fab := by trivial) (kfree : Lets r .free := by trivial) (kinteg : Lets r .integ := by trivial) (kled : Lets r .led := by trivial) (kmem : Lets r .mem := by trivial) (kobs : Lets r .obs := by trivial) (kout : Lets r .out := by trivial) (kpart : Lets r .part := by trivial) (kport : Lets r .port := by trivial) (kpow : Lets r .pow := by trivial) (ksec : Lets r .sec := by trivial) (ktime : Lets r .time := by trivial) (kvs : Lets r .vs := by trivial) : Keeps r (endWrite a0 a1 a2 a3 a4) := by
  unfold endWrite; try dsimp only
  repeat' first | with_reducible assumption | with_reducible apply failTransfer_keeps | with_reducible apply modCanStat_keeps | with_reducible apply answerWrite_keeps | with_reducible apply writeValue_keeps | with_reducible apply dropTransfer_keeps | with_reducible apply keeps_ite

theorem sendSegments_keeps {r a0 a1 a2 a3} (h0 : Keeps r a0) (kdict : Lets r .dict := by trivial) (kout : Lets r .out := by trivial) : Keeps r (sendSegments a0 a1 a2 a3) := by
  induction a3 generalizing a0 a1 a2 h0 with
  | zero =>
    unfold sendSegments; try dsimp only
    repeat' first | with_reducible assumption | with_reducible apply reply_keeps
  | succ n ih =>
    unfold sendSegments; try dsimp only
    repeat' first | apply ih | with_reducible assumption | with_reducible apply reply_keeps

theorem grantRead_keeps {r a0 a1 a2} (h0 : Keeps r a0) (kdict : Lets r .dict := by trivial) (kout : Lets r .out := by trivial) : Keeps r (grantRead a0 a1 a2) := by
  unfold grantRead; try dsimp only
  repeat' first | with_reducible assumption | with_reducible apply failTransfer_keeps | with_reducible apply sendSegments_keeps | with_reducible apply reply_keeps | with_reducible apply dropTransfer_keeps | with_reducible apply putTransfer_keeps | with_reducible apply keeps_ite

theorem continueTransfer_keeps {r a0 a1 a2 a3 a4} (h0 : Keeps r a0) (kdict : Lets r .dict := by trivial) (kep : Lets r .ep := by trivial) (kfab : Lets r .fab := by trivial) (kfree : Lets r .free := by trivial) (kinteg : Lets r .integ := by trivial) (kled : Lets r .led := by trivial) (kmem : Lets r .mem := by trivial) (kobs : Lets r .obs := by trivial) (kout : Lets r .out := by trivial) (kpart : Lets r .part := by trivial) (kport : Lets r .port := by trivial) (kpow : Lets r .pow := by trivial) (ksec : Lets r .sec := by trivial) (ktime : Lets r .time := by trivial) (kvs : Lets r .vs := by trivial) : Keeps r (continueTransfer a0 a1 a2 a3 a4) := by
  unfold continueTransfer; try dsimp only
  repeat' first | with_reducible assumption | with_reducible apply abortTo_keeps | with_reducible apply failTransfer_keeps | with_reducible apply takeSegment_keeps | with_reducible apply grantRead_keeps | with_reducible apply endWrite_keeps | with_reducible apply keeps_ite | split

theorem serve_keeps {r a0 a1 a2 a3 a4} (h0 : Keeps r a0) (kdict : Lets r .dict := by trivial) (kep : Lets r .ep := by trivial) (kfab : Lets r .fab := by trivial) (kfree : Lets r .free := by trivial) (kinteg : Lets r .integ := by trivial) (kled : Lets r .led := by trivial) (kmem : Lets r .mem := by trivial) (kobs : Lets r .obs := by trivial) (kout : Lets r .out := by trivial) (kpart : Lets r .part := by trivial) (kport : Lets r .port := by trivial) (kpow : Lets r .pow := by trivial) (ksec : Lets r .sec := by trivial) (ktime : Lets r .time := by trivial) (kvs : Lets r .vs := by trivial) : Keeps r (serve a0 a1 a2 a3 a4) := by
  unfold serve; try dsimp only
  repeat' first | with_reducible assumption | with_reducible apply answerRead_keeps | with_reducible apply endReused_keeps | with_reducible apply answerWrite_keeps | with_reducible apply odWrite_keeps | with_reducible apply openWrite_keeps | with_reducible apply continueTransfer_keeps | with_reducible apply keeps_ite

theorem handle_keeps {r a0 a1 a2 a3 a4} (h0 : Keeps r a0) (kdict : Lets r .dict := by trivial) (kep : Lets r .ep := by trivial) (kfab : Lets r .fab := by trivial) (kfree : Lets r .free := by trivial) (kinteg : Lets r .integ := by trivial) (kled : Lets r .led := by trivial) (kmem : Lets r .mem := by trivial) (kobs : Lets r .obs := by trivial) (kout : Lets r .out := by trivial) (kpart : Lets r .part := by trivial) (kport : Lets r .port := by trivial) (kpow : Lets r .pow := by trivial) (ksec : Lets r .sec := by trivial) (ktime : Lets r .time := by trivial) (kvs : Lets r .vs := by trivial) : Keeps r (handle a0 a1 a2 a3 a4) := by
  unfold handle; try dsimp only
  repeat' first | with_reducible assumption | with_reducible apply expireTransfers_keeps | with_reducible apply expireSessions_keeps | with_reducible apply nameSession_keeps | with_reducible apply dropTransfer_keeps | with_reducible apply modCanStat_keeps | with_reducible apply abortTo_keeps | with_reducible apply serve_keeps | with_reducible apply keeps_ite | split

theorem popInbox_keeps {r a0 a1} (h0 : Keeps r a0) (kdict : Lets r .dict := by trivial) : Keeps r (popInbox a0 a1) := by
  unfold popInbox; try dsimp only
  repeat' first | with_reducible assumption | with_reducible apply modCan_keeps | with_reducible apply modMbx_keeps | with_reducible apply keeps_ite

theorem countRequest_keeps {r a0 a1} (h0 : Keeps r a0) (kdict : Lets r .dict := by trivial) : Keeps r (countRequest a0 a1) := by
  unfold countRequest; try dsimp only
  repeat' first | with_reducible assumption | with_reducible apply modCanStat_keeps | with_reducible apply modMbx_keeps | with_reducible apply keeps_ite

theorem clientMessage_keeps {r a0 a1 a2 a3 a4} (h0 : Keeps r a0) (kdict : Lets r .dict := by trivial) (kep : Lets r .ep := by trivial) (kfab : Lets r .fab := by trivial) (kfree : Lets r .free := by trivial) (kinteg : Lets r .integ := by trivial) (kled : Lets r .led := by trivial) (kmem : Lets r .mem := by trivial) (kobs : Lets r .obs := by trivial) (kout : Lets r .out := by trivial) (kpart : Lets r .part := by trivial) (kport : Lets r .port := by trivial) (kpow : Lets r .pow := by trivial) (ksec : Lets r .sec := by trivial) (ktime : Lets r .time := by trivial) (kvs : Lets r .vs := by trivial) : Keeps r (clientMessage a0 a1 a2 a3 a4) := by
  unfold clientMessage; try dsimp only
  repeat' first | with_reducible assumption | with_reducible apply handle_keeps | with_reducible apply countRequest_keeps | with_reducible apply popInbox_keeps | with_reducible apply keeps_ite | split

theorem messageOf_keeps {r a0 a1 a2 a3} (h3 : Keeps r a3) (kdict : Lets r .dict := by trivial) (kep : Lets r .ep := by trivial) (kfab : Lets r .fab := by trivial) (kfree : Lets r .free := by trivial) (kinteg : Lets r .integ := by trivial) (kled : Lets r .led := by trivial) (kmem : Lets r .mem := by trivial) (kobs : Lets r .obs := by trivial) (kout : Lets r .out := by trivial) (kpart : Lets r .part := by trivial) (kport : Lets r .port := by trivial) (kpow : Lets r .pow := by trivial) (ksec : Lets r .sec := by trivial) (ktime : Lets r .time := by trivial) (kvs : Lets r .vs := by trivial) : Keeps r (messageOf a0 a1 a2 a3) := by
  unfold messageOf; try dsimp only
  repeat' first | with_reducible assumption | with_reducible apply clientMessage_keeps | with_reducible apply keeps_ite

theorem wholeWrite_keeps {r a0 a1 a2 a3 a4 a5} (h0 : Keeps r a0) (kdict : Lets r .dict := by trivial) (kep : Lets r .ep := by trivial) (kfab : Lets r .fab := by trivial) (kfree : Lets r .free := by trivial) (kinteg : Lets r .integ := by trivial) (kled : Lets r .led := by trivial) (kmem : Lets r .mem := by trivial) (kobs : Lets r .obs := by trivial) (kout : Lets r .out := by trivial) (kpart : Lets r .part := by trivial) (kport : Lets r .port := by trivial) (kpow : Lets r .pow := by trivial) (ksec : Lets r .sec := by trivial) (ktime : Lets r .time := by trivial) (kvs : Lets r .vs := by trivial) : Keeps r (wholeWrite a0 a1 a2 a3 a4 a5) := by
  unfold wholeWrite; try dsimp only
  repeat' first | with_reducible assumption | with_reducible apply expireTransfers_keeps | with_reducible apply expireSessions_keeps | with_reducible apply abortTo_keeps | with_reducible apply dropTransfer_keeps | with_reducible apply endReused_keeps | with_reducible apply nameSession_keeps | with_reducible apply answerWrite_keeps | with_reducible apply writeValue_keeps | with_reducible apply keeps_ite | split

theorem clientWrite_keeps {r a0 a1 a2 a3 a4 a5} (h0 : Keeps r a0) (kdict : Lets r .dict := by trivial) (kep : Lets r .ep := by trivial) (kfab : Lets r .fab := by trivial) (kfree : Lets r .free := by trivial) (kinteg : Lets r .integ := by trivial) (kled : Lets r .led := by trivial) (kmem : Lets r .mem := by trivial) (kobs : Lets r .obs := by trivial) (kout : Lets r .out := by trivial) (kpart : Lets r .part := by trivial) (kport : Lets r .port := by trivial) (kpow : Lets r .pow := by trivial) (ksec : Lets r .sec := by trivial) (ktime : Lets r .time := by trivial) (kvs : Lets r .vs := by trivial) : Keeps r (clientWrite a0 a1 a2 a3 a4 a5) := by
  unfold clientWrite; try dsimp only
  repeat' first | with_reducible assumption | with_reducible apply clientMessage_keeps | with_reducible apply wholeWrite_keeps | with_reducible apply countRequest_keeps | with_reducible apply keeps_ite

theorem clientRead_keeps {r a0 a1 a2 a3} (h0 : Keeps r a0) (kdict : Lets r .dict := by trivial) (kep : Lets r .ep := by trivial) (kfab : Lets r .fab := by trivial) (kfree : Lets r .free := by trivial) (kinteg : Lets r .integ := by trivial) (kled : Lets r .led := by trivial) (kmem : Lets r .mem := by trivial) (kobs : Lets r .obs := by trivial) (kout : Lets r .out := by trivial) (kpart : Lets r .part := by trivial) (kport : Lets r .port := by trivial) (kpow : Lets r .pow := by trivial) (ksec : Lets r .sec := by trivial) (ktime : Lets r .time := by trivial) (kvs : Lets r .vs := by trivial) : Keeps r (clientRead a0 a1 a2 a3) := by
  unfold clientRead; try dsimp only
  repeat' first | with_reducible assumption | with_reducible apply clientMessage_keeps

theorem execReadReq_keeps {r a0 a1 a2} (h2 : Keeps r a2) (kdict : Lets r .dict := by trivial) (kep : Lets r .ep := by trivial) (kfab : Lets r .fab := by trivial) (kfree : Lets r .free := by trivial) (kinteg : Lets r .integ := by trivial) (kled : Lets r .led := by trivial) (kmem : Lets r .mem := by trivial) (kobs : Lets r .obs := by trivial) (kout : Lets r .out := by trivial) (kpart : Lets r .part := by trivial) (kport : Lets r .port := by trivial) (kpow : Lets r .pow := by trivial) (ksec : Lets r .sec := by trivial) (ktime : Lets r .time := by trivial) (kvs : Lets r .vs := by trivial) : KeepsO r (execReadReq a0 a1 a2) := by
  unfold execReadReq; try dsimp only
  repeat' first | with_reducible assumption | with_reducible apply messageOf_keeps | with_reducible apply keeps_next

theorem execWriteExp_keeps {r a0 a1 a2} (h2 : Keeps r a2) (kdict : Lets r .dict := by trivial) (kep : Lets r .ep := by trivial) (kfab : Lets r .fab := by trivial) (kfree : Lets r .free := by trivial) (kinteg : Lets r .integ := by trivial) (kled : Lets r .led := by trivial) (kmem : Lets r .mem := by trivial) (kobs : Lets r .obs := by trivial) (kout : Lets r .out := by trivial) (kpart : Lets r .part := by trivial) (kport : Lets r .port := by trivial) (kpow : Lets r .pow := by trivial) (ksec : Lets r .sec := by trivial) (ktime : Lets r .time := by trivial) (kvs : Lets r .vs := by trivial) : KeepsO r (execWriteExp a0 a1 a2) := by
  unfold execWriteExp; try dsimp only
  repeat' first | with_reducible assumption | with_reducible apply messageOf_keeps | with_reducible apply keeps_next

theorem execSegWriteInit_keeps {r a0 a1 a2} (h2 : Keeps r a2) (kdict : Lets r .dict := by trivial) (kep : Lets r .ep := by trivial) (kfab : Lets r .fab := by trivial) (kfree : Lets r .free := by trivial) (kinteg : Lets r .integ := by trivial) (kled : Lets r .led := by trivial) (kmem : Lets r .mem := by trivial) (kobs : Lets r .obs := by trivial) (kout : Lets r .out := by trivial) (kpart : Lets r .part := by trivial) (kport : Lets r .port := by trivial) (kpow : Lets r .pow := by trivial) (ksec : Lets r .sec := by trivial) (ktime : Lets r .time := by trivial) (kvs : Lets r .vs := by trivial) : KeepsO r (execSegWriteInit a0 a1 a2) := by
  unfold execSegWriteInit; try dsimp only
  repeat' first | with_reducible assumption | with_reducible apply messageOf_keeps | with_reducible apply keeps_next

theorem execSegment_keeps {r a0 a1 a2} (h2 : Keeps r a2) (kdict : Lets r .dict := by trivial) (kep : Lets r .ep := by trivial) (kfab : Lets r .fab := by trivial) (kfree : Lets r .free := by trivial) (kinteg : Lets r .integ := by trivial) (kled : Lets r .led := by trivial) (kmem : Lets r .mem := by trivial) (kobs : Lets r .obs := by trivial) (kout : Lets r .out := by trivial) (kpart : Lets r .part := by trivial) (kport : Lets r .port := by trivial) (kpow : Lets r .pow := by trivial) (ksec : Lets r .sec := by trivial) (ktime : Lets r .time := by trivial) (kvs : Lets r .vs := by trivial) : KeepsO r (execSegment a0 a1 a2) := by
  unfold execSegment; try dsimp only
  repeat' first | with_reducible assumption | with_reducible apply messageOf_keeps | with_reducible apply keeps_next

theorem execSegAck_keeps {r a0 a1 a2} (h2 : Keeps r a2) (kdict : Lets r .dict := by trivial) (kep : Lets r .ep := by trivial) (kfab : Lets r .fab := by trivial) (kfree : Lets r .free := by trivial) (kinteg : Lets r .integ := by trivial) (kled : Lets r .led := by trivial) (kmem : Lets r .mem := by trivial) (kobs : Lets r .obs := by trivial) (kout : Lets r .out := by trivial) (kpart : Lets r .part := by trivial) (kport : Lets r .port := by trivial) (kpow : Lets r .pow := by trivial) (ksec : Lets r .sec := by trivial) (ktime : Lets r .time := by trivial) (kvs : Lets r .vs := by trivial) : KeepsO r (execSegAck a0 a1 a2) := by
  unfold execSegAck; try dsimp only
  repeat' first | with_reducible assumption | with_reducible apply messageOf_keeps | with_reducible apply keeps_next

theorem execSegEnd_keeps {r a0 a1 a2} (h2 : Keeps r a2) (kdict : Lets r .dict := by trivial) (kep : Lets r .ep := by trivial) (kfab : Lets r .fab := by trivial) (kfree : Lets r .free := by trivial) (kinteg : Lets r .integ := by trivial) (kled : Lets r .led := by trivial) (kmem : Lets r .mem := by trivial) (kobs : Lets r .obs := by trivial) (kout : Lets r .out := by trivial) (kpart : Lets r .part := by trivial) (kport : Lets r .port := by trivial) (kpow : Lets r .pow := by trivial) (ksec : Lets r .sec := by trivial) (ktime : Lets r .time := by trivial) (kvs : Lets r .vs := by trivial) : KeepsO r (execSegEnd a0 a1 a2) := by
  unfold execSegEnd; try dsimp only
  repeat' first | with_reducible assumption | with_reducible apply messageOf_keeps | with_reducible apply keeps_next

theorem execAbort_keeps {r a0 a1 a2} (h2 : Keeps r a2) (kdict : Lets r .dict := by trivial) (kep : Lets r .ep := by trivial) (kfab : Lets r .fab := by trivial) (kfree : Lets r .free := by trivial) (kinteg : Lets r .integ := by trivial) (kled : Lets r .led := by trivial) (kmem : Lets r .mem := by trivial) (kobs : Lets r .obs := by trivial) (kout : Lets r .out := by trivial) (kpart : Lets r .part := by trivial) (kport : Lets r .port := by trivial) (kpow : Lets r .pow := by trivial) (ksec : Lets r .sec := by trivial) (ktime : Lets r .time := by trivial) (kvs : Lets r .vs := by trivial) : KeepsO r (execAbort a0 a1 a2) := by
  unfold execAbort; try dsimp only
  repeat' first | with_reducible assumption | with_reducible apply messageOf_keeps | with_reducible apply keeps_next

theorem execSegTimeout_keeps {r a0 a1 a2} (h2 : Keeps r a2) (kdict : Lets r .dict := by trivial) (know : Lets r .now := by trivial) (kout : Lets r .out := by trivial) : KeepsO r (execSegTimeout a0 a1 a2) := by
  unfold execSegTimeout; try dsimp only
  repeat' first | with_reducible assumption | with_reducible apply timeReaches_keeps | with_reducible apply failTransfer_keeps | with_reducible apply dropTransfer_keeps | with_reducible apply keeps_next | with_reducible apply keeps_ite | split

theorem execCanFrameReceive_keeps {r a0 a1 a2 a3 a4} (h4 : Keeps r a4) (kdict : Lets r .dict := by trivial) : KeepsO r (execCanFrameReceive a0 a1 a2 a3 a4) := by
  unfold execCanFrameReceive; try dsimp only
  repeat' first | with_reducible assumption | with_reducible apply modCanStat_keeps | with_reducible apply modCan_keeps | with_reducible apply keeps_next | with_reducible apply keepsO_ite

theorem execHeartbeat_keeps {r a0 a1} (h1 : Keeps r a1) (kdict : Lets r .dict := by trivial) (know : Lets r .now := by trivial) (kout : Lets r .out := by trivial) : KeepsO r (execHeartbeat a0 a1) := by
  unfold execHeartbeat; try dsimp only
  repeat' first | with_reducible assumption | with_reducible apply timeReaches_keeps | with_reducible apply canSend_keeps | with_reducible apply modCan_keeps | with_reducible apply keeps_next | with_reducible apply keepsO_ite

theorem execCanBitRateApply_keeps {r a0 a1} (h1 : Keeps r a1) (kdict : Lets r .dict := by trivial) : KeepsO r (execCanBitRateApply a0 a1) := by
  unfold execCanBitRateApply; try dsimp only
  repeat' first | with_reducible assumption | with_reducible apply modCan_keeps | with_reducible apply keeps_next | with_reducible apply keepsO_ite

theorem execCanBusError_keeps {r a0 a1 a2 a3} (h3 : Keeps r a3) (kdict : Lets r .dict := by trivial) : KeepsO r (execCanBusError a0 a1 a2 a3) := by
  unfold execCanBusError; try dsimp only
  repeat' first | with_reducible assumption | with_reducible apply modCan_keeps | with_reducible apply keeps_next | with_reducible apply keepsO_ite

theorem execMbxRequestTake_keeps {r a0 a1} (h1 : Keeps r a1) (kdict : Lets r .dict := by trivial) : KeepsO r (execMbxRequestTake a0 a1) := by
  unfold execMbxRequestTake; try dsimp only
  repeat' first | with_reducible assumption | with_reducible apply modMbx_keeps | with_reducible apply keeps_next | with_reducible apply keepsO_ite

theorem execMbxResponsePost_keeps {r a0 a1} (h1 : Keeps r a1) (kdict : Lets r .dict := by trivial) (kout : Lets r .out := by trivial) (kport : Lets r .port := by trivial) : KeepsO r (execMbxResponsePost a0 a1) := by
  unfold execMbxResponsePost; try dsimp only
  repeat' first | with_reducible assumption | with_reducible apply modMbx_keeps | with_reducible apply msixSend_keeps | with_reducible apply keeps_next | with_reducible apply keepsO_ite | with_reducible apply keeps_ite | split

end Sys2Proof.Machine
end

