-- ==== Sys2Proof/Laws/Client.lean ====
section
/-!
SUPPORT. Laws/Client.lean: what a client's write or read of an entry does once it is heard (Speaks): the value's own effect, on a state that differs in the
dictionary's bookkeeping only, and then the answer.
-/
namespace Sys2Proof.Machine

/-- The dictionary as a heard message finds it: the message counted, expired sessions closed, its own session named. -/
structure HeardAs (s : State) (c : Caller) (d : DictState) : Prop where
  rw_ : d.rw = s.dict.rw
  transfers : d.transfers = s.dict.transfers
  challenges : d.challenges = s.dict.challenges
  ctr : d.challengeCtr = s.dict.challengeCtr
  sessions : d.sessions = (s.dict.sessions.filter (fun e => decide (s.now < e.2.lastAt + 1000000000 * setting s 0x1102 0))).map
    (fun e => if e.1 = c.session && e.2.ep = c.ep then (e.1, { e.2 with lastAt := s.now }) else e)

/-- Counting a request and forgetting nothing else: the dictionary that results. -/
theorem countRequest_dict (s : State) (ep : Nat) : ∃ d, countRequest s ep = { s with dict := d } ∧ d.rw = s.dict.rw ∧ d.transfers = s.dict.transfers ∧
    d.challenges = s.dict.challenges ∧ d.challengeCtr = s.dict.challengeCtr ∧ d.sessions = s.dict.sessions := by
  unfold countRequest modCanStat modCan modMbx modDict
  split
  · refine ⟨_, rfl, ?_, ?_, ?_, ?_, ?_⟩ <;> dsimp only <;> split <;> rfl
  · exact ⟨_, rfl, rfl, rfl, rfl, rfl, rfl⟩

/-- No transfer of the endpoint is overdue, so none ends. -/
theorem expireTransfers_none (s : State) (ep : Nat) (h : s.dict.transfers.all (fun x => x.ep != ep || decide (s.now ≤ x.lastAt + segLimit s)) = true) :
    expireTransfers s ep = s := by
  unfold expireTransfers
  have : s.dict.transfers.filter (fun t => t.ep == ep && decide (t.lastAt + segLimit s < s.now)) = [] := by
    rw [List.filter_eq_nil_iff]
    intro a ha
    have := List.all_eq_true.1 h a ha
    simp only [Bool.or_eq_true, bne_iff_ne, ne_eq, decide_eq_true_eq] at this
    simp only [Bool.and_eq_true, beq_iff_eq, decide_eq_true_eq, not_and]
    rcases this with h1 | h1
    · intro h2; exact absurd h2 h1
    · intro _; exact Nat.not_lt.2 h1
  rw [this]; rfl

theorem endReused_none (s : State) (ep tag : Nat) (h : transferOf s ep tag = none) : endReused s ep tag = s := by
  unfold endReused; rw [h]

/-- An unexpired session of a table is still there after the expired ones have gone. -/
theorem tget_filter {α : Type} (p : Nat × α → Bool) (n : Nat) (x : α) (hp : p (n, x) = true) : ∀ t : Table α, tget t n = some x → tget (t.filter p) n = some x
  | [], h => by simp [tget] at h
  | (k, v) :: t, h => by
    unfold tget at h
    split at h
    · rename_i hk
      cases h; subst hk
      rw [List.filter_cons_of_pos hp]; simp [tget]
    · rename_i hk
      have ih := tget_filter p n x hp t h
      by_cases hq : p (k, v) = true
      · rw [List.filter_cons_of_pos hq]; simp [tget, hk, ih]
      · rw [List.filter_cons_of_neg hq]; exact ih

/-- Values in force read nothing of the dictionary but the entries' ground values. -/
theorem groundValue_dict (s : State) (d : DictState) (h : d.rw = s.dict.rw) (idx sub : Nat) :
    groundValue { s with dict := d } idx sub = groundValue s idx sub := by
  simp only [groundValue, h]
  rfl

theorem setting_dict (s : State) (d : DictState) (h : d.rw = s.dict.rw) (idx sub : Nat) : setting { s with dict := d } idx sub = setting s idx sub := by
  simp only [setting, valueInForce, groundValue_dict s d h]
  rfl

/-- The checks before step 9 of R635 read nothing of the dictionary but the entries' values. -/
theorem writeEntry_dict (s : State) (d : DictState) (h : d.rw = s.dict.rw) (c : Caller) (idx sub n : Nat) :
    writeEntry { s with dict := d } c idx sub n = writeEntry s c idx sub n := by
  have hb : ∀ b, bufConfig { s with dict := d } b = bufConfig s b := fun b => by simp only [bufConfig, setting_dict s d h]
  have ho : ∀ p e, ownedBy { s with dict := d } p e = ownedBy s p e := by
    intro p e
    cases e <;> simp only [ownedBy, hb] <;> rfl
  have hw : ∀ e, writeAllowed { s with dict := d } c e idx sub = writeAllowed s c e idx sub := by
    intro e; simp only [writeAllowed, ho]; rfl
  have hu : unitDown { s with dict := d } true idx sub = unitDown s true idx sub := rfl
  have hs : scopeAllows { s with dict := d } idx = scopeAllows s idx := rfl
  simp only [writeEntry, hw, hu, hs]

/-- What a heard message finds: its caller, and a state that differs in the dictionary's bookkeeping only. -/
theorem heard {s : State} {r : Req} {c : Caller} (h : Heard s r c) : ∃ d, HeardAs s c d ∧
    callerOf (expireTransfers (expireSessions (countRequest s r.ep.val)) r.ep.val) r.ep.val r.tag.toNat r.session.toNat = some c ∧
    nameSession (expireTransfers (expireSessions (countRequest s r.ep.val)) r.ep.val) r.ep.val r.session.toNat = { s with dict := d } ∧
    served s r = { s with dict := d } := by
  obtain ⟨h1, h2, h3, h4, he, hc, hs, hr⟩ := h
  unfold served
  obtain ⟨d, hd, hrw, htr, hch, hct, hse⟩ := countRequest_dict s r.ep.val
  rw [hd]
  have hset := setting_dict s d hrw 0x1102 0
  have hx : expireSessions { s with dict := d } = { s with dict := { d with
      sessions := s.dict.sessions.filter (fun e => decide (s.now < e.2.lastAt + 1000000000 * setting s 0x1102 0)) } } := by
    simp only [expireSessions, modDict, hset, hse]
  have hlim : segLimit { s with dict := { d with
      sessions := s.dict.sessions.filter (fun e => decide (s.now < e.2.lastAt + 1000000000 * setting s 0x1102 0)) } } = segLimit s := by
    unfold segLimit
    rw [setting_dict]
    exact hrw
  rw [hx, expireTransfers_none _ _ (by rw [hlim]; simpa [htr] using h3)]
  let l := (s.dict.sessions.filter (fun e => decide (s.now < e.2.lastAt + 1000000000 * setting s 0x1102 0))).map
    (fun e => if e.1 = r.session.toNat && e.2.ep = r.ep.val then (e.1, { e.2 with lastAt := s.now }) else e)
  refine ⟨{ d with sessions := l }, ⟨?_, ?_, ?_, ?_, ?_⟩, ?_, rfl, rfl⟩
  · exact hrw
  · exact htr
  · exact hch
  · exact hct
  · simp only [hs, he]; rfl
  · unfold callerOf
    rw [← hs]
    rcases hr with ⟨h0, hr0, hp0⟩ | ⟨hp, hl, x, hx1, hx2, hx3, hx4, hx5⟩
    · rw [if_pos h0]
      cases c; simp_all
    · rw [if_neg (by omega)]
      have : tget (s.dict.sessions.filter (fun e => decide (s.now < e.2.lastAt + 1000000000 * setting s 0x1102 0))) c.session = some x :=
        tget_filter _ _ _ (by simpa using hx5) _ hx1
      simp only [this]
      cases c; simp_all

/-- The session that a heard message names is one that the message's byte can hold. -/
theorem heard_session {s : State} {r : Req} {c : Caller} (h : Heard s r c) : r.session.toNat < 64 := by
  obtain ⟨_, _, _, _, _, _, hs, hr⟩ := h
  rcases hr with ⟨h0, _⟩ | ⟨_, hl, _⟩ <;> omega

/-- A well-formed message of a client that is heard goes to the entry or transfer that it names. -/
theorem message_heard {s : State} {r : Req} {c : Caller} (h : Heard s r c) {m : TtpMsg} (hm : msgMalformed r.tag.toNat m = false)
    (hc : clientCs m.cs = true) (h1F : m.cs ≠ 0x1F) (hsess : m.session = r.session) (hw : Nat) :
    ∃ d, HeardAs s c d ∧ served s r = { s with dict := d } ∧
      clientMessage s r.ep.val r.tag.toNat m hw = serve { s with dict := d } c r.tag.toNat m hw := by
  obtain ⟨d, hd, hcl, hn, hsv⟩ := heard h
  obtain ⟨h1, h2, _⟩ := h
  refine ⟨d, hd, hsv, ?_⟩
  simp only [clientMessage, h1, h2, handle, h1F, hc, hm, if_false, Bool.not_true, hsess, hcl, hn]
  rfl

theorem HeardAs.transferOf_none {s : State} {c : Caller} {d : DictState} (h : HeardAs s c d) {ep tag : Nat} (ht : transferOf s ep tag = none) :
    transferOf { s with dict := d } ep tag = none := by
  simpa only [transferOf, h.transfers] using ht

theorem HeardAs.transfersFull {s : State} {c : Caller} {d : DictState} (h : HeardAs s c d) {ep : Nat} (ht : transfersFull s ep = false) :
    Machine.transfersFull { s with dict := d } ep = false := by
  simpa only [Machine.transfersFull, h.transfers] using ht

/-- A message of the part's own making is well-formed. -/
theorem partMsg_write {r : Req} (h : r.session.toNat < 64) (h4 : clientOf r.tag.toNat ≠ 0) (idx sub : Nat) (v : Bytes) (hl : v.length ≤ 56) :
    msgMalformed r.tag.toNat (partMsg 0x02 r.session.toNat idx sub v) = false := by
  have hv8 : v.length % 256 = v.length := by omega
  simp [msgMalformed, partMsg, viewFlag, groundFlag, lastFlag, lenAllowed, hv8, hl, h4, bitAt]
  omega

/-- A write that steps 3 to 8 of R635 let through: the value's own effect, and then the answer. -/
theorem clientWrite_heard {s : State} {r : Req} {c : Caller} (h : Speaks s r c) {idx sub hw : Nat} {v : Bytes} (hp : Permitted s c idx sub v.length)
    (hi : idx < 65536) (hb : sub < 256) : ∃ (d : DictState) (m : TtpMsg), HeardAs s c d ∧ m.session = r.session ∧
      m.index.toNat = idx ∧ m.sub.toNat = sub ∧ served s r = { s with dict := d } ∧
      clientWrite s r idx sub v hw = answerWrite c r.tag.toNat m (writeValue { s with dict := d } c idx sub v hw) := by
  obtain ⟨hh, htn, hfull⟩ := h
  obtain ⟨e, hp⟩ := hp
  have hs64 := heard_session hh
  by_cases hl : v.length ≤ 56
  · have hmal := partMsg_write hs64 hh.2.2.2.1 idx sub v hl
    have hcs : clientCs (partMsg 0x02 r.session.toNat idx sub v).cs = true := by simp [clientCs, partMsg]
    obtain ⟨d, hd, hsv, hmsg⟩ := message_heard (hw := hw) hh hmal hcs (by simp [partMsg]) (by simp [partMsg])
    refine ⟨d, partMsg 0x02 r.session.toNat idx sub v, hd, by simp [partMsg], by simp [partMsg]; omega, by simp [partMsg]; omega, hsv, ?_⟩
    simp only [clientWrite, hl, if_true]
    rw [hmsg]
    have hne : ¬ (partMsg 0x02 r.session.toNat idx sub v).cs = 0x01 := by simp [partMsg]
    have hi' : (partMsg 0x02 r.session.toNat idx sub v).index.toNat = idx := by simp [partMsg]; omega
    have hb' : (partMsg 0x02 r.session.toNat idx sub v).sub.toNat = sub := by simp [partMsg]; omega
    have hpl : (partMsg 0x02 r.session.toNat idx sub v).payload = v := rfl
    have h02 : (partMsg 0x02 r.session.toNat idx sub v).cs = 0x02 := by simp [partMsg]
    simp only [serve, h02, if_true, hh.2.2.2.2.1, hi', hb', hpl]
    rw [endReused_none _ _ _ (hd.transferOf_none htn)]
    simp only [odWrite, writeEntry_dict s d hd.rw_, hp]
    rfl
  · obtain ⟨d, hd, hcl, hn, hsv⟩ := heard hh
    obtain ⟨h1, h2, h3, h4, he, hc, hs, hr⟩ := hh
    refine ⟨d, partMsg 0x10 r.session.toNat idx sub (u32 v.length), hd, by simp [partMsg], by simp [partMsg]; omega, by simp [partMsg]; omega, hsv, ?_⟩
    have hmal : msgMalformed r.tag.toNat (partMsg 0x10 r.session.toNat idx sub (u32 v.length)) = false := by
      simp [msgMalformed, partMsg, viewFlag, groundFlag, lastFlag, lenAllowed, h4, bitAt, u32, leBytes]
      omega
    have hss : (partMsg 0x10 r.session.toNat idx sub (u32 v.length)).session.toNat = r.session.toNat := by simp [partMsg]
    have hi' : (partMsg 0x10 r.session.toNat idx sub (u32 v.length)).index.toNat = idx := by simp [partMsg]; omega
    have hb' : (partMsg 0x10 r.session.toNat idx sub (u32 v.length)).sub.toNat = sub := by simp [partMsg]; omega
    simp only [clientWrite, hl, if_false, h1, h2, wholeWrite, hmal, hss, hcl, hn, hi', hb']
    rw [endReused_none _ _ _ (hd.transferOf_none htn)]
    simp [writeEntry_dict s d hd.rw_, hp, hd.transfersFull hfull]

/-- The answer to a message is the last thing that the endpoint sends. -/
theorem answer_told (s : State) (r : Req) (m : TtpMsg) (cs : Nat) (p : Bytes) {ep idx sub : Nat} (he : ep = r.ep.val) (h1 : m.session = r.session)
    (h2 : m.index.toNat = idx) (h3 : m.sub.toNat = sub) : Told (answer s ep r.tag.toNat m cs p) r (partMsg cs r.session.toNat idx sub p) := by
  subst he; subst h2; subst h3
  have ht : r.tag.toNat % 2 ^ 17 = r.tag.toNat := Nat.mod_eq_of_lt r.tag.isLt
  unfold Told answer reply
  rw [h1]
  by_cases hep : r.ep.val < 2
  · simp only [hep, if_true, ht, modCanStat, modCan, modDict_out, modDict_pow, emitOut_out, emitOut_pow]
    rw [List.getLast?_concat]
  · simp only [hep, if_false, modMbx, mbxOf, modDict_dict, tgetD_tmod_self]
    rw [List.getLast?_concat]

/-- An answer changes what its endpoint holds and sends, and nothing else. -/
theorem answer_only (s : State) (ep tag : Nat) (m : TtpMsg) (cs : Nat) (p : Bytes) : OnlyParts [.dict, .out] s (answer s ep tag m cs p) := by
  intro q hq
  exact (answer_keeps (r := ⟨fun p => [Part.dict, .out].contains p, s⟩) (Keeps.refl _ s)).within q hq

/-- A read that a client makes: what the entry answers, on a state that differs in the dictionary's bookkeeping only. -/
theorem clientRead_heard {s : State} {r : Req} {c : Caller} (h : Speaks s r c) {idx sub : Nat} (hi : idx < 65536) (hb : sub < 256) :
    ∃ (d : DictState) (m : TtpMsg), HeardAs s c d ∧ m.session = r.session ∧ m.index.toNat = idx ∧ m.sub.toNat = sub ∧ m.flags = 0 ∧
      served s r = { s with dict := d } ∧ clientRead s r idx sub = answerRead { s with dict := d } c r.tag.toNat m := by
  obtain ⟨hh, htn, hfull⟩ := h
  have hs64 := heard_session hh
  have hmal : msgMalformed r.tag.toNat (partMsg 0x01 r.session.toNat idx sub []) = false := by
    simp [msgMalformed, partMsg, viewFlag, groundFlag, lastFlag, lenAllowed, hh.2.2.2.1, bitAt]
    omega
  have hcs : clientCs (partMsg 0x01 r.session.toNat idx sub []).cs = true := by simp [clientCs, partMsg]
  obtain ⟨d, hd, hsv, hmsg⟩ := message_heard (hw := 0) hh hmal hcs (by simp [partMsg]) (by simp [partMsg])
  refine ⟨d, partMsg 0x01 r.session.toNat idx sub [], hd, by simp [partMsg], by simp [partMsg]; omega, by simp [partMsg]; omega, rfl, hsv, ?_⟩
  have h01 : (partMsg 0x01 r.session.toNat idx sub []).cs = 0x01 := by simp [partMsg]
  simp only [clientRead]
  rw [hmsg]
  simp only [serve, h01, if_true, hh.2.2.2.2.1]
  rw [endReused_none _ _ _ (hd.transferOf_none htn)]

/-- A command entry's write that steps 3 to 8 of R635 let through and the command takes: its effect, then the answer. -/
theorem command_heard {s : State} {r : Req} {c : Caller} (h : Speaks s r c) {idx sub hw : Nat} {v : Bytes} (hp : Permitted s c idx sub v.length)
    (hi : idx < 65536) (hb : sub < 256) {e : OdEntry} (ho : odLookup idx sub = .inr e) (ha : e.acc = .wo)
    {f : DictState → State} {k n : Nat} (hf : ∀ d, HeardAs s c d → commandWrite { s with dict := d } c idx sub v hw = .ok k n (f d)) :
    ∃ d, HeardAs s c d ∧ served s r = { s with dict := d } ∧ Written (clientWrite s r idx sub v hw) r idx sub k n ∧
      OnlyParts [.dict, .out] (f d) (clientWrite s r idx sub v hw) := by
  obtain ⟨d, m, hd, h1, h2, h3, hsv, he⟩ := clientWrite_heard (hw := hw) h hp hi hb
  have hw' : writeValue { s with dict := d } c idx sub v hw = .ok k n (f d) := by
    simp only [writeValue, ho, ha, if_true]; exact hf d hd
  refine ⟨d, hd, hsv, ?_⟩
  rw [he, hw']
  exact ⟨answer_told _ r m 4 _ h.1.2.2.2.2.1 h1 h2 h3, answer_only _ _ _ _ _ _⟩

/-- A command entry's write that the command refuses: the state the refusal leaves, then the abort. -/
theorem command_refused {s : State} {r : Req} {c : Caller} (h : Speaks s r c) {idx sub hw : Nat} {v : Bytes} (hp : Permitted s c idx sub v.length)
    (hi : idx < 65536) (hb : sub < 256) {e : OdEntry} (ho : odLookup idx sub = .inr e) (ha : e.acc = .wo)
    {f : DictState → State} {code : Nat} (hf : ∀ d, HeardAs s c d → commandWrite { s with dict := d } c idx sub v hw = .refused code (f d)) :
    ∃ d, HeardAs s c d ∧ served s r = { s with dict := d } ∧ Aborted (clientWrite s r idx sub v hw) r idx sub code ∧
      OnlyParts [.dict, .out] (f d) (clientWrite s r idx sub v hw) := by
  obtain ⟨d, m, hd, h1, h2, h3, hsv, he⟩ := clientWrite_heard (hw := hw) h hp hi hb
  have hw' : writeValue { s with dict := d } c idx sub v hw = .refused code (f d) := by
    simp only [writeValue, ho, ha, if_true]; exact hf d hd
  refine ⟨d, hd, hsv, ?_⟩
  rw [he, hw']
  exact ⟨answer_told _ r m 0x1F _ h.1.2.2.2.2.1 h1 h2 h3, answer_only _ _ _ _ _ _⟩

/-- What two operations leave, their sequence leaves. -/
theorem OnlyParts.trans {l m : List Part} {s u t : State} (h1 : OnlyParts l s u) (h2 : OnlyParts m u t) (hm : ∀ p, l.contains p = false → m.contains p = false) :
    OnlyParts l s t := by
  intro p hp
  have a := h1 p hp
  have b := h2 p (hm p hp)
  revert a b
  cases p <;> simp only [Part.same] <;> intro a b <;> rw [b, a]

end Sys2Proof.Machine
end

