-- ==== Sys2Proof/Laws/KeepClient.lean ====
section
/-!
SUPPORT. Laws/KeepClient.lean: what the operations of Machine/Client.lean keep (Laws/Keep.lean).
-/
namespace Sys2Proof.Machine

theorem execSessionChallenge_keeps {r a0 a1} (h1 : Keeps r a1) (kdict : Lets r .dict := by trivial) (kep : Lets r .ep := by trivial) (kfab : Lets r .fab := by trivial) (kfree : Lets r .free := by trivial) (kinteg : Lets r .integ := by trivial) (kled : Lets r .led := by trivial) (kmem : Lets r .mem := by trivial) (kobs : Lets r .obs := by trivial) (kout : Lets r .out := by trivial) (kpart : Lets r .part := by trivial) (kport : Lets r .port := by trivial) (kpow : Lets r .pow := by trivial) (ksec : Lets r .sec := by trivial) (ktime : Lets r .time := by trivial) (kvs : Lets r .vs := by trivial) : KeepsO r (execSessionChallenge a0 a1) := by
  unfold execSessionChallenge; try dsimp only
  repeat' first | with_reducible assumption | with_reducible apply clientRead_keeps | with_reducible apply keeps_next

theorem execSessionResponse_keeps {r a0 a1 a2} (h2 : Keeps r a2) (kdict : Lets r .dict := by trivial) (kep : Lets r .ep := by trivial) (kfab : Lets r .fab := by trivial) (kfree : Lets r .free := by trivial) (kinteg : Lets r .integ := by trivial) (kled : Lets r .led := by trivial) (kmem : Lets r .mem := by trivial) (kobs : Lets r .obs := by trivial) (kout : Lets r .out := by trivial) (kpart : Lets r .part := by trivial) (kport : Lets r .port := by trivial) (kpow : Lets r .pow := by trivial) (ksec : Lets r .sec := by trivial) (ktime : Lets r .time := by trivial) (kvs : Lets r .vs := by trivial) : KeepsO r (execSessionResponse a0 a1 a2) := by
  unfold execSessionResponse; try dsimp only
  repeat' first | with_reducible assumption | with_reducible apply clientWrite_keeps | with_reducible apply keeps_next

theorem execSessionClose_keeps {r a0 a1 a2} (h2 : Keeps r a2) (kdict : Lets r .dict := by trivial) (kep : Lets r .ep := by trivial) (kfab : Lets r .fab := by trivial) (kfree : Lets r .free := by trivial) (kinteg : Lets r .integ := by trivial) (kled : Lets r .led := by trivial) (kmem : Lets r .mem := by trivial) (kobs : Lets r .obs := by trivial) (kout : Lets r .out := by trivial) (kpart : Lets r .part := by trivial) (kport : Lets r .port := by trivial) (kpow : Lets r .pow := by trivial) (ksec : Lets r .sec := by trivial) (ktime : Lets r .time := by trivial) (kvs : Lets r .vs := by trivial) : KeepsO r (execSessionClose a0 a1 a2) := by
  unfold execSessionClose; try dsimp only
  repeat' first | with_reducible assumption | with_reducible apply clientWrite_keeps | with_reducible apply keeps_next

theorem execSeqStart_keeps {r a0 a1 a2} (h2 : Keeps r a2) (kdict : Lets r .dict := by trivial) (kep : Lets r .ep := by trivial) (kfab : Lets r .fab := by trivial) (kfree : Lets r .free := by trivial) (kinteg : Lets r .integ := by trivial) (kled : Lets r .led := by trivial) (kmem : Lets r .mem := by trivial) (kobs : Lets r .obs := by trivial) (kout : Lets r .out := by trivial) (kpart : Lets r .part := by trivial) (kport : Lets r .port := by trivial) (kpow : Lets r .pow := by trivial) (ksec : Lets r .sec := by trivial) (ktime : Lets r .time := by trivial) (kvs : Lets r .vs := by trivial) : KeepsO r (execSeqStart a0 a1 a2) := by
  unfold execSeqStart; try dsimp only
  repeat' first | with_reducible assumption | with_reducible apply clientWrite_keeps | with_reducible apply keeps_next

theorem execSeqStop_keeps {r a0 a1 a2} (h2 : Keeps r a2) (kdict : Lets r .dict := by trivial) (kep : Lets r .ep := by trivial) (kfab : Lets r .fab := by trivial) (kfree : Lets r .free := by trivial) (kinteg : Lets r .integ := by trivial) (kled : Lets r .led := by trivial) (kmem : Lets r .mem := by trivial) (kobs : Lets r .obs := by trivial) (kout : Lets r .out := by trivial) (kpart : Lets r .part := by trivial) (kport : Lets r .port := by trivial) (kpow : Lets r .pow := by trivial) (ksec : Lets r .sec := by trivial) (ktime : Lets r .time := by trivial) (kvs : Lets r .vs := by trivial) : KeepsO r (execSeqStop a0 a1 a2) := by
  unfold execSeqStop; try dsimp only
  repeat' first | with_reducible assumption | with_reducible apply clientWrite_keeps | with_reducible apply keeps_next

theorem execSeqProgramLoad_keeps {r a0 a1 a2 a3} (h3 : Keeps r a3) (kdict : Lets r .dict := by trivial) (kep : Lets r .ep := by trivial) (kfab : Lets r .fab := by trivial) (kfree : Lets r .free := by trivial) (kinteg : Lets r .integ := by trivial) (kled : Lets r .led := by trivial) (kmem : Lets r .mem := by trivial) (kobs : Lets r .obs := by trivial) (kout : Lets r .out := by trivial) (kpart : Lets r .part := by trivial) (kport : Lets r .port := by trivial) (kpow : Lets r .pow := by trivial) (ksec : Lets r .sec := by trivial) (ktime : Lets r .time := by trivial) (kvs : Lets r .vs := by trivial) : KeepsO r (execSeqProgramLoad a0 a1 a2 a3) := by
  unfold execSeqProgramLoad; try dsimp only
  repeat' first | with_reducible assumption | with_reducible apply clientWrite_keeps | with_reducible apply keeps_next

theorem execMcRejoin_keeps {r a0 a1 a2} (h2 : Keeps r a2) (kdict : Lets r .dict := by trivial) (kep : Lets r .ep := by trivial) (kfab : Lets r .fab := by trivial) (kfree : Lets r .free := by trivial) (kinteg : Lets r .integ := by trivial) (kled : Lets r .led := by trivial) (kmem : Lets r .mem := by trivial) (kobs : Lets r .obs := by trivial) (kout : Lets r .out := by trivial) (kpart : Lets r .part := by trivial) (kport : Lets r .port := by trivial) (kpow : Lets r .pow := by trivial) (ksec : Lets r .sec := by trivial) (ktime : Lets r .time := by trivial) (kvs : Lets r .vs := by trivial) : KeepsO r (execMcRejoin a0 a1 a2) := by
  unfold execMcRejoin; try dsimp only
  repeat' first | with_reducible assumption | with_reducible apply clientWrite_keeps | with_reducible apply keeps_next

theorem execRedForceResync_keeps {r a0 a1 a2} (h2 : Keeps r a2) (kdict : Lets r .dict := by trivial) (kep : Lets r .ep := by trivial) (kfab : Lets r .fab := by trivial) (kfree : Lets r .free := by trivial) (kinteg : Lets r .integ := by trivial) (kled : Lets r .led := by trivial) (kmem : Lets r .mem := by trivial) (kobs : Lets r .obs := by trivial) (kout : Lets r .out := by trivial) (kpart : Lets r .part := by trivial) (kport : Lets r .port := by trivial) (kpow : Lets r .pow := by trivial) (ksec : Lets r .sec := by trivial) (ktime : Lets r .time := by trivial) (kvs : Lets r .vs := by trivial) : KeepsO r (execRedForceResync a0 a1 a2) := by
  unfold execRedForceResync; try dsimp only
  repeat' first | with_reducible assumption | with_reducible apply clientWrite_keeps | with_reducible apply keeps_next

theorem execLogClear_keeps {r a0 a1 a2} (h2 : Keeps r a2) (kdict : Lets r .dict := by trivial) (kep : Lets r .ep := by trivial) (kfab : Lets r .fab := by trivial) (kfree : Lets r .free := by trivial) (kinteg : Lets r .integ := by trivial) (kled : Lets r .led := by trivial) (kmem : Lets r .mem := by trivial) (kobs : Lets r .obs := by trivial) (kout : Lets r .out := by trivial) (kpart : Lets r .part := by trivial) (kport : Lets r .port := by trivial) (kpow : Lets r .pow := by trivial) (ksec : Lets r .sec := by trivial) (ktime : Lets r .time := by trivial) (kvs : Lets r .vs := by trivial) : KeepsO r (execLogClear a0 a1 a2) := by
  unfold execLogClear; try dsimp only
  repeat' first | with_reducible assumption | with_reducible apply clientWrite_keeps | with_reducible apply keeps_next

theorem execCrossingClear_keeps {r a0 a1 a2} (h2 : Keeps r a2) (kdict : Lets r .dict := by trivial) (kep : Lets r .ep := by trivial) (kfab : Lets r .fab := by trivial) (kfree : Lets r .free := by trivial) (kinteg : Lets r .integ := by trivial) (kled : Lets r .led := by trivial) (kmem : Lets r .mem := by trivial) (kobs : Lets r .obs := by trivial) (kout : Lets r .out := by trivial) (kpart : Lets r .part := by trivial) (kport : Lets r .port := by trivial) (kpow : Lets r .pow := by trivial) (ksec : Lets r .sec := by trivial) (ktime : Lets r .time := by trivial) (kvs : Lets r .vs := by trivial) : KeepsO r (execCrossingClear a0 a1 a2) := by
  unfold execCrossingClear; try dsimp only
  repeat' first | with_reducible assumption | with_reducible apply clientWrite_keeps | with_reducible apply keeps_next

theorem execWallSet_keeps {r a0 a1 a2 a3} (h3 : Keeps r a3) (kdict : Lets r .dict := by trivial) (kep : Lets r .ep := by trivial) (kfab : Lets r .fab := by trivial) (kfree : Lets r .free := by trivial) (kinteg : Lets r .integ := by trivial) (kled : Lets r .led := by trivial) (kmem : Lets r .mem := by trivial) (kobs : Lets r .obs := by trivial) (kout : Lets r .out := by trivial) (kpart : Lets r .part := by trivial) (kport : Lets r .port := by trivial) (kpow : Lets r .pow := by trivial) (ksec : Lets r .sec := by trivial) (ktime : Lets r .time := by trivial) (kvs : Lets r .vs := by trivial) : KeepsO r (execWallSet a0 a1 a2 a3) := by
  unfold execWallSet; try dsimp only
  repeat' first | with_reducible assumption | with_reducible apply clientWrite_keeps | with_reducible apply keeps_next

theorem execWallRate_keeps {r a0 a1 a2} (h2 : Keeps r a2) (kdict : Lets r .dict := by trivial) (kep : Lets r .ep := by trivial) (kfab : Lets r .fab := by trivial) (kfree : Lets r .free := by trivial) (kinteg : Lets r .integ := by trivial) (kled : Lets r .led := by trivial) (kmem : Lets r .mem := by trivial) (kobs : Lets r .obs := by trivial) (kout : Lets r .out := by trivial) (kpart : Lets r .part := by trivial) (kport : Lets r .port := by trivial) (kpow : Lets r .pow := by trivial) (ksec : Lets r .sec := by trivial) (ktime : Lets r .time := by trivial) (kvs : Lets r .vs := by trivial) : KeepsO r (execWallRate a0 a1 a2) := by
  unfold execWallRate; try dsimp only
  repeat' first | with_reducible assumption | with_reducible apply clientWrite_keeps | with_reducible apply keeps_next

theorem execEpochSwitch_keeps {r a0 a1 a2} (h2 : Keeps r a2) (kdict : Lets r .dict := by trivial) (kep : Lets r .ep := by trivial) (kfab : Lets r .fab := by trivial) (kfree : Lets r .free := by trivial) (kinteg : Lets r .integ := by trivial) (kled : Lets r .led := by trivial) (kmem : Lets r .mem := by trivial) (kobs : Lets r .obs := by trivial) (kout : Lets r .out := by trivial) (kpart : Lets r .part := by trivial) (kport : Lets r .port := by trivial) (kpow : Lets r .pow := by trivial) (ksec : Lets r .sec := by trivial) (ktime : Lets r .time := by trivial) (kvs : Lets r .vs := by trivial) : KeepsO r (execEpochSwitch a0 a1 a2) := by
  unfold execEpochSwitch; try dsimp only
  repeat' first | with_reducible assumption | with_reducible apply clientWrite_keeps | with_reducible apply keeps_next

theorem execEpochCancel_keeps {r a0 a1 a2} (h2 : Keeps r a2) (kdict : Lets r .dict := by trivial) (kep : Lets r .ep := by trivial) (kfab : Lets r .fab := by trivial) (kfree : Lets r .free := by trivial) (kinteg : Lets r .integ := by trivial) (kled : Lets r .led := by trivial) (kmem : Lets r .mem := by trivial) (kobs : Lets r .obs := by trivial) (kout : Lets r .out := by trivial) (kpart : Lets r .part := by trivial) (kport : Lets r .port := by trivial) (kpow : Lets r .pow := by trivial) (ksec : Lets r .sec := by trivial) (ktime : Lets r .time := by trivial) (kvs : Lets r .vs := by trivial) : KeepsO r (execEpochCancel a0 a1 a2) := by
  unfold execEpochCancel; try dsimp only
  repeat' first | with_reducible assumption | with_reducible apply clientWrite_keeps | with_reducible apply keeps_next

theorem execPartitionDrain_keeps {r a0 a1 a2} (h2 : Keeps r a2) (kdict : Lets r .dict := by trivial) (kep : Lets r .ep := by trivial) (kfab : Lets r .fab := by trivial) (kfree : Lets r .free := by trivial) (kinteg : Lets r .integ := by trivial) (kled : Lets r .led := by trivial) (kmem : Lets r .mem := by trivial) (kobs : Lets r .obs := by trivial) (kout : Lets r .out := by trivial) (kpart : Lets r .part := by trivial) (kport : Lets r .port := by trivial) (kpow : Lets r .pow := by trivial) (ksec : Lets r .sec := by trivial) (ktime : Lets r .time := by trivial) (kvs : Lets r .vs := by trivial) : KeepsO r (execPartitionDrain a0 a1 a2) := by
  unfold execPartitionDrain; try dsimp only
  repeat' first | with_reducible assumption | with_reducible apply clientWrite_keeps | with_reducible apply keeps_next

theorem execPartitionResume_keeps {r a0 a1 a2} (h2 : Keeps r a2) (kdict : Lets r .dict := by trivial) (kep : Lets r .ep := by trivial) (kfab : Lets r .fab := by trivial) (kfree : Lets r .free := by trivial) (kinteg : Lets r .integ := by trivial) (kled : Lets r .led := by trivial) (kmem : Lets r .mem := by trivial) (kobs : Lets r .obs := by trivial) (kout : Lets r .out := by trivial) (kpart : Lets r .part := by trivial) (kport : Lets r .port := by trivial) (kpow : Lets r .pow := by trivial) (ksec : Lets r .sec := by trivial) (ktime : Lets r .time := by trivial) (kvs : Lets r .vs := by trivial) : KeepsO r (execPartitionResume a0 a1 a2) := by
  unfold execPartitionResume; try dsimp only
  repeat' first | with_reducible assumption | with_reducible apply clientWrite_keeps | with_reducible apply keeps_next

theorem execJournalRelease_keeps {r a0 a1 a2 a3} (h3 : Keeps r a3) (kdict : Lets r .dict := by trivial) (kep : Lets r .ep := by trivial) (kfab : Lets r .fab := by trivial) (kfree : Lets r .free := by trivial) (kinteg : Lets r .integ := by trivial) (kled : Lets r .led := by trivial) (kmem : Lets r .mem := by trivial) (kobs : Lets r .obs := by trivial) (kout : Lets r .out := by trivial) (kpart : Lets r .part := by trivial) (kport : Lets r .port := by trivial) (kpow : Lets r .pow := by trivial) (ksec : Lets r .sec := by trivial) (ktime : Lets r .time := by trivial) (kvs : Lets r .vs := by trivial) : KeepsO r (execJournalRelease a0 a1 a2 a3) := by
  unfold execJournalRelease; try dsimp only
  repeat' first | with_reducible assumption | with_reducible apply clientWrite_keeps | with_reducible apply keeps_next

theorem execLedgerFormat_keeps {r a0 a1 a2} (h2 : Keeps r a2) (kdict : Lets r .dict := by trivial) (kep : Lets r .ep := by trivial) (kfab : Lets r .fab := by trivial) (kfree : Lets r .free := by trivial) (kinteg : Lets r .integ := by trivial) (kled : Lets r .led := by trivial) (kmem : Lets r .mem := by trivial) (kobs : Lets r .obs := by trivial) (kout : Lets r .out := by trivial) (kpart : Lets r .part := by trivial) (kport : Lets r .port := by trivial) (kpow : Lets r .pow := by trivial) (ksec : Lets r .sec := by trivial) (ktime : Lets r .time := by trivial) (kvs : Lets r .vs := by trivial) : KeepsO r (execLedgerFormat a0 a1 a2) := by
  unfold execLedgerFormat; try dsimp only
  repeat' first | with_reducible assumption | with_reducible apply clientWrite_keeps | with_reducible apply keeps_next

theorem execLedgerStop_keeps {r a0 a1 a2} (h2 : Keeps r a2) (kdict : Lets r .dict := by trivial) (kep : Lets r .ep := by trivial) (kfab : Lets r .fab := by trivial) (kfree : Lets r .free := by trivial) (kinteg : Lets r .integ := by trivial) (kled : Lets r .led := by trivial) (kmem : Lets r .mem := by trivial) (kobs : Lets r .obs := by trivial) (kout : Lets r .out := by trivial) (kpart : Lets r .part := by trivial) (kport : Lets r .port := by trivial) (kpow : Lets r .pow := by trivial) (ksec : Lets r .sec := by trivial) (ktime : Lets r .time := by trivial) (kvs : Lets r .vs := by trivial) : KeepsO r (execLedgerStop a0 a1 a2) := by
  unfold execLedgerStop; try dsimp only
  repeat' first | with_reducible assumption | with_reducible apply clientWrite_keeps | with_reducible apply keeps_next

theorem execLedgerStart_keeps {r a0 a1 a2} (h2 : Keeps r a2) (kdict : Lets r .dict := by trivial) (kep : Lets r .ep := by trivial) (kfab : Lets r .fab := by trivial) (kfree : Lets r .free := by trivial) (kinteg : Lets r .integ := by trivial) (kled : Lets r .led := by trivial) (kmem : Lets r .mem := by trivial) (kobs : Lets r .obs := by trivial) (kout : Lets r .out := by trivial) (kpart : Lets r .part := by trivial) (kport : Lets r .port := by trivial) (kpow : Lets r .pow := by trivial) (ksec : Lets r .sec := by trivial) (ktime : Lets r .time := by trivial) (kvs : Lets r .vs := by trivial) : KeepsO r (execLedgerStart a0 a1 a2) := by
  unfold execLedgerStart; try dsimp only
  repeat' first | with_reducible assumption | with_reducible apply clientWrite_keeps | with_reducible apply keeps_next

theorem execCounterClear_keeps {r a0 a1 a2} (h2 : Keeps r a2) (kdict : Lets r .dict := by trivial) (kep : Lets r .ep := by trivial) (kfab : Lets r .fab := by trivial) (kfree : Lets r .free := by trivial) (kinteg : Lets r .integ := by trivial) (kled : Lets r .led := by trivial) (kmem : Lets r .mem := by trivial) (kobs : Lets r .obs := by trivial) (kout : Lets r .out := by trivial) (kpart : Lets r .part := by trivial) (kport : Lets r .port := by trivial) (kpow : Lets r .pow := by trivial) (ksec : Lets r .sec := by trivial) (ktime : Lets r .time := by trivial) (kvs : Lets r .vs := by trivial) : KeepsO r (execCounterClear a0 a1 a2) := by
  unfold execCounterClear; try dsimp only
  repeat' first | with_reducible assumption | with_reducible apply clientWrite_keeps | with_reducible apply keeps_next

theorem execBufferArm_keeps {r a0 a1 a2} (h2 : Keeps r a2) (kdict : Lets r .dict := by trivial) (kep : Lets r .ep := by trivial) (kfab : Lets r .fab := by trivial) (kfree : Lets r .free := by trivial) (kinteg : Lets r .integ := by trivial) (kled : Lets r .led := by trivial) (kmem : Lets r .mem := by trivial) (kobs : Lets r .obs := by trivial) (kout : Lets r .out := by trivial) (kpart : Lets r .part := by trivial) (kport : Lets r .port := by trivial) (kpow : Lets r .pow := by trivial) (ksec : Lets r .sec := by trivial) (ktime : Lets r .time := by trivial) (kvs : Lets r .vs := by trivial) : KeepsO r (execBufferArm a0 a1 a2) := by
  unfold execBufferArm; try dsimp only
  repeat' first | with_reducible assumption | with_reducible apply clientWrite_keeps | with_reducible apply keeps_next

theorem execBufferStop_keeps {r a0 a1 a2} (h2 : Keeps r a2) (kdict : Lets r .dict := by trivial) (kep : Lets r .ep := by trivial) (kfab : Lets r .fab := by trivial) (kfree : Lets r .free := by trivial) (kinteg : Lets r .integ := by trivial) (kled : Lets r .led := by trivial) (kmem : Lets r .mem := by trivial) (kobs : Lets r .obs := by trivial) (kout : Lets r .out := by trivial) (kpart : Lets r .part := by trivial) (kport : Lets r .port := by trivial) (kpow : Lets r .pow := by trivial) (ksec : Lets r .sec := by trivial) (ktime : Lets r .time := by trivial) (kvs : Lets r .vs := by trivial) : KeepsO r (execBufferStop a0 a1 a2) := by
  unfold execBufferStop; try dsimp only
  repeat' first | with_reducible assumption | with_reducible apply clientWrite_keeps | with_reducible apply keeps_next

theorem execBufferTrigger_keeps {r a0 a1 a2} (h2 : Keeps r a2) (kdict : Lets r .dict := by trivial) (kep : Lets r .ep := by trivial) (kfab : Lets r .fab := by trivial) (kfree : Lets r .free := by trivial) (kinteg : Lets r .integ := by trivial) (kled : Lets r .led := by trivial) (kmem : Lets r .mem := by trivial) (kobs : Lets r .obs := by trivial) (kout : Lets r .out := by trivial) (kpart : Lets r .part := by trivial) (kport : Lets r .port := by trivial) (kpow : Lets r .pow := by trivial) (ksec : Lets r .sec := by trivial) (ktime : Lets r .time := by trivial) (kvs : Lets r .vs := by trivial) : KeepsO r (execBufferTrigger a0 a1 a2) := by
  unfold execBufferTrigger; try dsimp only
  repeat' first | with_reducible assumption | with_reducible apply clientWrite_keeps | with_reducible apply keeps_next

theorem execBufferDisarm_keeps {r a0 a1 a2} (h2 : Keeps r a2) (kdict : Lets r .dict := by trivial) (kep : Lets r .ep := by trivial) (kfab : Lets r .fab := by trivial) (kfree : Lets r .free := by trivial) (kinteg : Lets r .integ := by trivial) (kled : Lets r .led := by trivial) (kmem : Lets r .mem := by trivial) (kobs : Lets r .obs := by trivial) (kout : Lets r .out := by trivial) (kpart : Lets r .part := by trivial) (kport : Lets r .port := by trivial) (kpow : Lets r .pow := by trivial) (ksec : Lets r .sec := by trivial) (ktime : Lets r .time := by trivial) (kvs : Lets r .vs := by trivial) : KeepsO r (execBufferDisarm a0 a1 a2) := by
  unfold execBufferDisarm; try dsimp only
  repeat' first | with_reducible assumption | with_reducible apply clientWrite_keeps | with_reducible apply keeps_next

theorem execFreezeCmd_keeps {r a0 a1 a2 a3 a4} (h4 : Keeps r a4) (kdict : Lets r .dict := by trivial) (kep : Lets r .ep := by trivial) (kfab : Lets r .fab := by trivial) (kfree : Lets r .free := by trivial) (kinteg : Lets r .integ := by trivial) (kled : Lets r .led := by trivial) (kmem : Lets r .mem := by trivial) (kobs : Lets r .obs := by trivial) (kout : Lets r .out := by trivial) (kpart : Lets r .part := by trivial) (kport : Lets r .port := by trivial) (kpow : Lets r .pow := by trivial) (ksec : Lets r .sec := by trivial) (ktime : Lets r .time := by trivial) (kvs : Lets r .vs := by trivial) : KeepsO r (execFreezeCmd a0 a1 a2 a3 a4) := by
  unfold execFreezeCmd; try dsimp only
  repeat' first | with_reducible assumption | with_reducible apply clientWrite_keeps | with_reducible apply keeps_next

theorem execSnapshotRelease_keeps {r a0 a1 a2} (h2 : Keeps r a2) (kdict : Lets r .dict := by trivial) (kep : Lets r .ep := by trivial) (kfab : Lets r .fab := by trivial) (kfree : Lets r .free := by trivial) (kinteg : Lets r .integ := by trivial) (kled : Lets r .led := by trivial) (kmem : Lets r .mem := by trivial) (kobs : Lets r .obs := by trivial) (kout : Lets r .out := by trivial) (kpart : Lets r .part := by trivial) (kport : Lets r .port := by trivial) (kpow : Lets r .pow := by trivial) (ksec : Lets r .sec := by trivial) (ktime : Lets r .time := by trivial) (kvs : Lets r .vs := by trivial) : KeepsO r (execSnapshotRelease a0 a1 a2) := by
  unfold execSnapshotRelease; try dsimp only
  repeat' first | with_reducible assumption | with_reducible apply clientWrite_keeps | with_reducible apply keeps_next

theorem execRoleEnrol_keeps {r a0 a1 a2} (h2 : Keeps r a2) (kdict : Lets r .dict := by trivial) (kep : Lets r .ep := by trivial) (kfab : Lets r .fab := by trivial) (kfree : Lets r .free := by trivial) (kinteg : Lets r .integ := by trivial) (kled : Lets r .led := by trivial) (kmem : Lets r .mem := by trivial) (kobs : Lets r .obs := by trivial) (kout : Lets r .out := by trivial) (kpart : Lets r .part := by trivial) (kport : Lets r .port := by trivial) (kpow : Lets r .pow := by trivial) (ksec : Lets r .sec := by trivial) (ktime : Lets r .time := by trivial) (kvs : Lets r .vs := by trivial) : KeepsO r (execRoleEnrol a0 a1 a2) := by
  unfold execRoleEnrol; try dsimp only
  repeat' first | with_reducible assumption | with_reducible apply clientWrite_keeps | with_reducible apply keeps_next

theorem execRoleRevoke_keeps {r a0 a1 a2} (h2 : Keeps r a2) (kdict : Lets r .dict := by trivial) (kep : Lets r .ep := by trivial) (kfab : Lets r .fab := by trivial) (kfree : Lets r .free := by trivial) (kinteg : Lets r .integ := by trivial) (kled : Lets r .led := by trivial) (kmem : Lets r .mem := by trivial) (kobs : Lets r .obs := by trivial) (kout : Lets r .out := by trivial) (kpart : Lets r .part := by trivial) (kport : Lets r .port := by trivial) (kpow : Lets r .pow := by trivial) (ksec : Lets r .sec := by trivial) (ktime : Lets r .time := by trivial) (kvs : Lets r .vs := by trivial) : KeepsO r (execRoleRevoke a0 a1 a2) := by
  unfold execRoleRevoke; try dsimp only
  repeat' first | with_reducible assumption | with_reducible apply clientWrite_keeps | with_reducible apply keeps_next

theorem execAttestNonce_keeps {r a0 a1 a2} (h2 : Keeps r a2) (kdict : Lets r .dict := by trivial) (kep : Lets r .ep := by trivial) (kfab : Lets r .fab := by trivial) (kfree : Lets r .free := by trivial) (kinteg : Lets r .integ := by trivial) (kled : Lets r .led := by trivial) (kmem : Lets r .mem := by trivial) (kobs : Lets r .obs := by trivial) (kout : Lets r .out := by trivial) (kpart : Lets r .part := by trivial) (kport : Lets r .port := by trivial) (kpow : Lets r .pow := by trivial) (ksec : Lets r .sec := by trivial) (ktime : Lets r .time := by trivial) (kvs : Lets r .vs := by trivial) : KeepsO r (execAttestNonce a0 a1 a2) := by
  unfold execAttestNonce; try dsimp only
  repeat' first | with_reducible assumption | with_reducible apply clientWrite_keeps | with_reducible apply keeps_next

theorem execAttestation_keeps {r a0 a1} (h1 : Keeps r a1) (kdict : Lets r .dict := by trivial) (kep : Lets r .ep := by trivial) (kfab : Lets r .fab := by trivial) (kfree : Lets r .free := by trivial) (kinteg : Lets r .integ := by trivial) (kled : Lets r .led := by trivial) (kmem : Lets r .mem := by trivial) (kobs : Lets r .obs := by trivial) (kout : Lets r .out := by trivial) (kpart : Lets r .part := by trivial) (kport : Lets r .port := by trivial) (kpow : Lets r .pow := by trivial) (ksec : Lets r .sec := by trivial) (ktime : Lets r .time := by trivial) (kvs : Lets r .vs := by trivial) : KeepsO r (execAttestation a0 a1) := by
  unfold execAttestation; try dsimp only
  repeat' first | with_reducible assumption | with_reducible apply clientRead_keeps | with_reducible apply keeps_next

theorem execUnlockToken_keeps {r a0 a1 a2} (h2 : Keeps r a2) (kdict : Lets r .dict := by trivial) (kep : Lets r .ep := by trivial) (kfab : Lets r .fab := by trivial) (kfree : Lets r .free := by trivial) (kinteg : Lets r .integ := by trivial) (kled : Lets r .led := by trivial) (kmem : Lets r .mem := by trivial) (kobs : Lets r .obs := by trivial) (kout : Lets r .out := by trivial) (kpart : Lets r .part := by trivial) (kport : Lets r .port := by trivial) (kpow : Lets r .pow := by trivial) (ksec : Lets r .sec := by trivial) (ktime : Lets r .time := by trivial) (kvs : Lets r .vs := by trivial) : KeepsO r (execUnlockToken a0 a1 a2) := by
  unfold execUnlockToken; try dsimp only
  repeat' first | with_reducible assumption | with_reducible apply clientWrite_keeps | with_reducible apply keeps_next

theorem execUnlockRevoke_keeps {r a0 a1} (h1 : Keeps r a1) (kdict : Lets r .dict := by trivial) (kep : Lets r .ep := by trivial) (kfab : Lets r .fab := by trivial) (kfree : Lets r .free := by trivial) (kinteg : Lets r .integ := by trivial) (kled : Lets r .led := by trivial) (kmem : Lets r .mem := by trivial) (kobs : Lets r .obs := by trivial) (kout : Lets r .out := by trivial) (kpart : Lets r .part := by trivial) (kport : Lets r .port := by trivial) (kpow : Lets r .pow := by trivial) (ksec : Lets r .sec := by trivial) (ktime : Lets r .time := by trivial) (kvs : Lets r .vs := by trivial) : KeepsO r (execUnlockRevoke a0 a1) := by
  unfold execUnlockRevoke; try dsimp only
  repeat' first | with_reducible assumption | with_reducible apply clientWrite_keeps | with_reducible apply keeps_next

theorem execDebugScanEnter_keeps {r a0 a1} (h1 : Keeps r a1) (kdict : Lets r .dict := by trivial) (kep : Lets r .ep := by trivial) (kfab : Lets r .fab := by trivial) (kfree : Lets r .free := by trivial) (kinteg : Lets r .integ := by trivial) (kled : Lets r .led := by trivial) (kmem : Lets r .mem := by trivial) (kobs : Lets r .obs := by trivial) (kout : Lets r .out := by trivial) (kpart : Lets r .part := by trivial) (kport : Lets r .port := by trivial) (kpow : Lets r .pow := by trivial) (ksec : Lets r .sec := by trivial) (ktime : Lets r .time := by trivial) (kvs : Lets r .vs := by trivial) : KeepsO r (execDebugScanEnter a0 a1) := by
  unfold execDebugScanEnter; try dsimp only
  repeat' first | with_reducible assumption | with_reducible apply clientWrite_keeps | with_reducible apply keeps_next

theorem execZeroise_keeps {r a0 a1 a2} (h2 : Keeps r a2) (kdict : Lets r .dict := by trivial) (kep : Lets r .ep := by trivial) (kfab : Lets r .fab := by trivial) (kfree : Lets r .free := by trivial) (kinteg : Lets r .integ := by trivial) (kled : Lets r .led := by trivial) (kmem : Lets r .mem := by trivial) (kobs : Lets r .obs := by trivial) (kout : Lets r .out := by trivial) (kpart : Lets r .part := by trivial) (kport : Lets r .port := by trivial) (kpow : Lets r .pow := by trivial) (ksec : Lets r .sec := by trivial) (ktime : Lets r .time := by trivial) (kvs : Lets r .vs := by trivial) : KeepsO r (execZeroise a0 a1 a2) := by
  unfold execZeroise; try dsimp only
  repeat' first | with_reducible assumption | with_reducible apply clientWrite_keeps | with_reducible apply keeps_next

theorem execFwFloorCommit_keeps {r a0 a1} (h1 : Keeps r a1) (kdict : Lets r .dict := by trivial) (kep : Lets r .ep := by trivial) (kfab : Lets r .fab := by trivial) (kfree : Lets r .free := by trivial) (kinteg : Lets r .integ := by trivial) (kled : Lets r .led := by trivial) (kmem : Lets r .mem := by trivial) (kobs : Lets r .obs := by trivial) (kout : Lets r .out := by trivial) (kpart : Lets r .part := by trivial) (kport : Lets r .port := by trivial) (kpow : Lets r .pow := by trivial) (ksec : Lets r .sec := by trivial) (ktime : Lets r .time := by trivial) (kvs : Lets r .vs := by trivial) : KeepsO r (execFwFloorCommit a0 a1) := by
  unfold execFwFloorCommit; try dsimp only
  repeat' first | with_reducible assumption | with_reducible apply clientWrite_keeps | with_reducible apply keeps_next

theorem execBistOverride_keeps {r a0 a1 a2 a3} (h3 : Keeps r a3) (kdict : Lets r .dict := by trivial) (kep : Lets r .ep := by trivial) (kfab : Lets r .fab := by trivial) (kfree : Lets r .free := by trivial) (kinteg : Lets r .integ := by trivial) (kled : Lets r .led := by trivial) (kmem : Lets r .mem := by trivial) (kobs : Lets r .obs := by trivial) (kout : Lets r .out := by trivial) (kpart : Lets r .part := by trivial) (kport : Lets r .port := by trivial) (kpow : Lets r .pow := by trivial) (ksec : Lets r .sec := by trivial) (ktime : Lets r .time := by trivial) (kvs : Lets r .vs := by trivial) : KeepsO r (execBistOverride a0 a1 a2 a3) := by
  unfold execBistOverride; try dsimp only
  repeat' first | with_reducible assumption | with_reducible apply clientWrite_keeps | with_reducible apply keeps_next

theorem execRailSetpoint_keeps {r a0 a1 a2 a3} (h3 : Keeps r a3) (kdict : Lets r .dict := by trivial) (kep : Lets r .ep := by trivial) (kfab : Lets r .fab := by trivial) (kfree : Lets r .free := by trivial) (kinteg : Lets r .integ := by trivial) (kled : Lets r .led := by trivial) (kmem : Lets r .mem := by trivial) (kobs : Lets r .obs := by trivial) (kout : Lets r .out := by trivial) (kpart : Lets r .part := by trivial) (kport : Lets r .port := by trivial) (kpow : Lets r .pow := by trivial) (ksec : Lets r .sec := by trivial) (ktime : Lets r .time := by trivial) (kvs : Lets r .vs := by trivial) : KeepsO r (execRailSetpoint a0 a1 a2 a3) := by
  unfold execRailSetpoint; try dsimp only
  repeat' first | with_reducible assumption | with_reducible apply clientWrite_keeps | with_reducible apply keeps_next

theorem execWarmReset_keeps {r a0 a1 a2} (h2 : Keeps r a2) (kdict : Lets r .dict := by trivial) (kep : Lets r .ep := by trivial) (kfab : Lets r .fab := by trivial) (kfree : Lets r .free := by trivial) (kinteg : Lets r .integ := by trivial) (kled : Lets r .led := by trivial) (kmem : Lets r .mem := by trivial) (kobs : Lets r .obs := by trivial) (kout : Lets r .out := by trivial) (kpart : Lets r .part := by trivial) (kport : Lets r .port := by trivial) (kpow : Lets r .pow := by trivial) (ksec : Lets r .sec := by trivial) (ktime : Lets r .time := by trivial) (kvs : Lets r .vs := by trivial) : KeepsO r (execWarmReset a0 a1 a2) := by
  unfold execWarmReset; try dsimp only
  repeat' first | with_reducible assumption | with_reducible apply clientWrite_keeps | with_reducible apply keeps_next

theorem execDieReset_keeps {r a0 a1 a2 a3} (h3 : Keeps r a3) (kdict : Lets r .dict := by trivial) (kep : Lets r .ep := by trivial) (kfab : Lets r .fab := by trivial) (kfree : Lets r .free := by trivial) (kinteg : Lets r .integ := by trivial) (kled : Lets r .led := by trivial) (kmem : Lets r .mem := by trivial) (kobs : Lets r .obs := by trivial) (kout : Lets r .out := by trivial) (kpart : Lets r .part := by trivial) (kport : Lets r .port := by trivial) (kpow : Lets r .pow := by trivial) (ksec : Lets r .sec := by trivial) (ktime : Lets r .time := by trivial) (kvs : Lets r .vs := by trivial) : KeepsO r (execDieReset a0 a1 a2 a3) := by
  unfold execDieReset; try dsimp only
  repeat' first | with_reducible assumption | with_reducible apply clientWrite_keeps | with_reducible apply keeps_next

theorem execIslandReset_keeps {r a0 a1 a2} (h2 : Keeps r a2) (kdict : Lets r .dict := by trivial) (kep : Lets r .ep := by trivial) (kfab : Lets r .fab := by trivial) (kfree : Lets r .free := by trivial) (kinteg : Lets r .integ := by trivial) (kled : Lets r .led := by trivial) (kmem : Lets r .mem := by trivial) (kobs : Lets r .obs := by trivial) (kout : Lets r .out := by trivial) (kpart : Lets r .part := by trivial) (kport : Lets r .port := by trivial) (kpow : Lets r .pow := by trivial) (ksec : Lets r .sec := by trivial) (ktime : Lets r .time := by trivial) (kvs : Lets r .vs := by trivial) : KeepsO r (execIslandReset a0 a1 a2) := by
  unfold execIslandReset; try dsimp only
  repeat' first | with_reducible assumption | with_reducible apply clientWrite_keeps | with_reducible apply keeps_next

theorem execFwUpdate_keeps {r a0 a1 a2 a3} (h3 : Keeps r a3) (kdict : Lets r .dict := by trivial) (kep : Lets r .ep := by trivial) (kfab : Lets r .fab := by trivial) (kfree : Lets r .free := by trivial) (kinteg : Lets r .integ := by trivial) (kled : Lets r .led := by trivial) (kmem : Lets r .mem := by trivial) (kobs : Lets r .obs := by trivial) (kout : Lets r .out := by trivial) (kpart : Lets r .part := by trivial) (kport : Lets r .port := by trivial) (kpow : Lets r .pow := by trivial) (ksec : Lets r .sec := by trivial) (ktime : Lets r .time := by trivial) (kvs : Lets r .vs := by trivial) : KeepsO r (execFwUpdate a0 a1 a2 a3) := by
  unfold execFwUpdate; try dsimp only
  repeat' first | with_reducible assumption | with_reducible apply clientWrite_keeps | with_reducible apply keeps_next

theorem execFwCommitB_keeps {r a0 a1 a2} (h2 : Keeps r a2) (kdict : Lets r .dict := by trivial) (kep : Lets r .ep := by trivial) (kfab : Lets r .fab := by trivial) (kfree : Lets r .free := by trivial) (kinteg : Lets r .integ := by trivial) (kled : Lets r .led := by trivial) (kmem : Lets r .mem := by trivial) (kobs : Lets r .obs := by trivial) (kout : Lets r .out := by trivial) (kpart : Lets r .part := by trivial) (kport : Lets r .port := by trivial) (kpow : Lets r .pow := by trivial) (ksec : Lets r .sec := by trivial) (ktime : Lets r .time := by trivial) (kvs : Lets r .vs := by trivial) : KeepsO r (execFwCommitB a0 a1 a2) := by
  unfold execFwCommitB; try dsimp only
  repeat' first | with_reducible assumption | with_reducible apply clientWrite_keeps | with_reducible apply keeps_next

end Sys2Proof.Machine
end

