-- ==== Sys2Proof/Laws/KeepJtag.lean ====
section
/-!
SUPPORT. Laws/KeepJtag.lean: what the operations of Machine/Jtag.lean keep (Laws/Keep.lean).
-/
namespace Sys2Proof.Machine

theorem jtag_keeps {r a0 a1 a2 a3} (h0 : Keeps r a0) (kout : Lets r .out := by trivial) (kpow : Lets r .pow := by trivial) : Keeps r (jtag a0 a1 a2 a3) := by
  unfold jtag; try dsimp only
  repeat' first | with_reducible assumption | with_reducible apply emitOut_keeps | with_reducible apply modPow_keeps | with_reducible apply keeps_ite

theorem boundaryScan_keeps {r a0 a1 a2 a3 a4} (h0 : Keeps r a0) (kout : Lets r .out := by trivial) (kpow : Lets r .pow := by trivial) : Keeps r (boundaryScan a0 a1 a2 a3 a4) := by
  unfold boundaryScan; try dsimp only
  repeat' first | with_reducible assumption | with_reducible apply modPow_keeps | with_reducible apply jtag_keeps | with_reducible apply keeps_ite

theorem execExtest_keeps {r a0 a1 a2} (h2 : Keeps r a2) (kout : Lets r .out := by trivial) (kpow : Lets r .pow := by trivial) : KeepsO r (execExtest a0 a1 a2) := by
  unfold execExtest; try dsimp only
  repeat' first | with_reducible assumption | with_reducible apply boundaryScan_keeps | with_reducible apply keeps_next

theorem execSamplePreload_keeps {r a0 a1 a2} (h2 : Keeps r a2) (kout : Lets r .out := by trivial) (kpow : Lets r .pow := by trivial) : KeepsO r (execSamplePreload a0 a1 a2) := by
  unfold execSamplePreload; try dsimp only
  repeat' first | with_reducible assumption | with_reducible apply boundaryScan_keeps | with_reducible apply keeps_next

theorem execIdcode_keeps {r a0 a1} (h1 : Keeps r a1) (kout : Lets r .out := by trivial) (kpow : Lets r .pow := by trivial) : KeepsO r (execIdcode a0 a1) := by
  unfold execIdcode; try dsimp only
  repeat' first | with_reducible assumption | with_reducible apply jtag_keeps | with_reducible apply keeps_next

theorem execClamp_keeps {r a0 a1} (h1 : Keeps r a1) (kout : Lets r .out := by trivial) (kpow : Lets r .pow := by trivial) : KeepsO r (execClamp a0 a1) := by
  unfold execClamp; try dsimp only
  repeat' first | with_reducible assumption | with_reducible apply jtag_keeps | with_reducible apply keeps_next

theorem execHighz_keeps {r a0 a1} (h1 : Keeps r a1) (kout : Lets r .out := by trivial) (kpow : Lets r .pow := by trivial) : KeepsO r (execHighz a0 a1) := by
  unfold execHighz; try dsimp only
  repeat' first | with_reducible assumption | with_reducible apply jtag_keeps | with_reducible apply keeps_next

theorem execBypass_keeps {r a0 a1} (h1 : Keeps r a1) (kout : Lets r .out := by trivial) (kpow : Lets r .pow := by trivial) : KeepsO r (execBypass a0 a1) := by
  unfold execBypass; try dsimp only
  repeat' first | with_reducible assumption | with_reducible apply jtag_keeps | with_reducible apply keeps_next

theorem debugScan_keeps {r a0 a1 a2 a3 a4} (h0 : Keeps r a0) (kout : Lets r .out := by trivial) (kpow : Lets r .pow := by trivial) : KeepsO r (debugScan a0 a1 a2 a3 a4) := by
  unfold debugScan; try dsimp only
  repeat' first | with_reducible assumption | with_reducible apply jtag_keeps | with_reducible apply keeps_next | with_reducible exact keeps_refused | with_reducible apply keepsO_ite

theorem execDbgMaint_keeps {r a0 a1} (h1 : Keeps r a1) (kfree : Lets r .free := by trivial) (kout : Lets r .out := by trivial) (kpow : Lets r .pow := by trivial) : KeepsO r (execDbgMaint a0 a1) := by
  unfold execDbgMaint; try dsimp only
  repeat' first | with_reducible assumption | with_reducible apply drawBytes_keeps | with_reducible apply jtag_keeps | with_reducible apply keeps_next | with_reducible apply keepsO_ite

theorem memScan_keeps {r a0 a1} (h1 : Keeps r a1) (kfree : Lets r .free := by trivial) (kmem : Lets r .mem := by trivial) : Keeps r (memScan a0 a1) := by
  induction a0 generalizing a1 h1 with
  | zero =>
    unfold memScan; try dsimp only
    repeat' first | with_reducible assumption | with_reducible apply draw_keeps | with_reducible apply writeMem_keeps | with_reducible apply keeps_ite
  | succ n ih =>
    unfold memScan; try dsimp only
    repeat' first | apply ih | with_reducible assumption | with_reducible apply draw_keeps | with_reducible apply writeMem_keeps | with_reducible apply keeps_ite

theorem execDbgMem_keeps {r a0 a1} (h1 : Keeps r a1) (kfree : Lets r .free := by trivial) (kmem : Lets r .mem := by trivial) (kout : Lets r .out := by trivial) (kpow : Lets r .pow := by trivial) : KeepsO r (execDbgMem a0 a1) := by
  unfold execDbgMem; try dsimp only
  repeat' first | with_reducible assumption | with_reducible apply drawBytes_keeps | with_reducible apply draw_keeps | with_reducible apply memScan_keeps | with_reducible apply jtag_keeps | with_reducible apply keeps_next | with_reducible apply keepsO_ite

theorem execDbgScan_keeps {r a0 a1} (h1 : Keeps r a1) (kout : Lets r .out := by trivial) (kpow : Lets r .pow := by trivial) : KeepsO r (execDbgScan a0 a1) := by
  unfold execDbgScan; try dsimp only
  repeat' first | with_reducible assumption | with_reducible apply debugScan_keeps

theorem execDbgBist_keeps {r a0 a1} (h1 : Keeps r a1) (kout : Lets r .out := by trivial) (kpow : Lets r .pow := by trivial) : KeepsO r (execDbgBist a0 a1) := by
  unfold execDbgBist; try dsimp only
  repeat' first | with_reducible assumption | with_reducible apply debugScan_keeps

end Sys2Proof.Machine
end

