-- ==== Sys2Proof/Laws/Exec.lean ====
section
/-!
SUPPORT. Laws/Exec.lean: what a command and a step leave as it was (Laws/Keep.lean), from the meanings one by one.
-/
namespace Sys2Proof.Machine

/-- A command changes only the parts in its reach, leaves the queue alone, keeps the memories canonical, and takes back no fuse, no draw and no
output. -/
theorem exec_keeps {r : Base} {s : State} (i : Instr) (h : Keeps r s) (k : ∀ p, (reach i).contains p = true → Lets r p) : KeepsO r (exec i s) := by
  cases i with
  | readReq _ _ => exact execReadReq_keeps h (k .dict rfl) (k .ep rfl) (k .fab rfl) (k .free rfl) (k .integ rfl) (k .led rfl) (k .mem rfl) (k .obs rfl) (k .out rfl) (k .part rfl) (k .port rfl) (k .pow rfl) (k .sec rfl) (k .time rfl) (k .vs rfl)
  | writeExp _ _ => exact execWriteExp_keeps h (k .dict rfl) (k .ep rfl) (k .fab rfl) (k .free rfl) (k .integ rfl) (k .led rfl) (k .mem rfl) (k .obs rfl) (k .out rfl) (k .part rfl) (k .port rfl) (k .pow rfl) (k .sec rfl) (k .time rfl) (k .vs rfl)
  | segWriteInit _ _ => exact execSegWriteInit_keeps h (k .dict rfl) (k .ep rfl) (k .fab rfl) (k .free rfl) (k .integ rfl) (k .led rfl) (k .mem rfl) (k .obs rfl) (k .out rfl) (k .part rfl) (k .port rfl) (k .pow rfl) (k .sec rfl) (k .time rfl) (k .vs rfl)
  | segment _ _ => exact execSegment_keeps h (k .dict rfl) (k .ep rfl) (k .fab rfl) (k .free rfl) (k .integ rfl) (k .led rfl) (k .mem rfl) (k .obs rfl) (k .out rfl) (k .part rfl) (k .port rfl) (k .pow rfl) (k .sec rfl) (k .time rfl) (k .vs rfl)
  | segAck _ _ => exact execSegAck_keeps h (k .dict rfl) (k .ep rfl) (k .fab rfl) (k .free rfl) (k .integ rfl) (k .led rfl) (k .mem rfl) (k .obs rfl) (k .out rfl) (k .part rfl) (k .port rfl) (k .pow rfl) (k .sec rfl) (k .time rfl) (k .vs rfl)
  | segEnd _ _ => exact execSegEnd_keeps h (k .dict rfl) (k .ep rfl) (k .fab rfl) (k .free rfl) (k .integ rfl) (k .led rfl) (k .mem rfl) (k .obs rfl) (k .out rfl) (k .part rfl) (k .port rfl) (k .pow rfl) (k .sec rfl) (k .time rfl) (k .vs rfl)
  | abort _ _ => exact execAbort_keeps h (k .dict rfl) (k .ep rfl) (k .fab rfl) (k .free rfl) (k .integ rfl) (k .led rfl) (k .mem rfl) (k .obs rfl) (k .out rfl) (k .part rfl) (k .port rfl) (k .pow rfl) (k .sec rfl) (k .time rfl) (k .vs rfl)
  | segTimeout _ _ => exact execSegTimeout_keeps h (k .dict rfl) (k .now rfl) (k .out rfl)
  | sessionTimeout _ => exact execSessionTimeout_keeps h (k .dict rfl) (k .now rfl)
  | challengeExpiry _ _ => exact execChallengeExpiry_keeps h (k .dict rfl) (k .now rfl)
  | sessionChallenge _ => exact execSessionChallenge_keeps h (k .dict rfl) (k .ep rfl) (k .fab rfl) (k .free rfl) (k .integ rfl) (k .led rfl) (k .mem rfl) (k .obs rfl) (k .out rfl) (k .part rfl) (k .port rfl) (k .pow rfl) (k .sec rfl) (k .time rfl) (k .vs rfl)
  | sessionResponse _ _ => exact execSessionResponse_keeps h (k .dict rfl) (k .ep rfl) (k .fab rfl) (k .free rfl) (k .integ rfl) (k .led rfl) (k .mem rfl) (k .obs rfl) (k .out rfl) (k .part rfl) (k .port rfl) (k .pow rfl) (k .sec rfl) (k .time rfl) (k .vs rfl)
  | sessionClose _ _ => exact execSessionClose_keeps h (k .dict rfl) (k .ep rfl) (k .fab rfl) (k .free rfl) (k .integ rfl) (k .led rfl) (k .mem rfl) (k .obs rfl) (k .out rfl) (k .part rfl) (k .port rfl) (k .pow rfl) (k .sec rfl) (k .time rfl) (k .vs rfl)
  | canFrameReceive _ _ _ _ => exact execCanFrameReceive_keeps h (k .dict rfl)
  | heartbeat _ => exact execHeartbeat_keeps h (k .dict rfl) (k .now rfl) (k .out rfl)
  | canBitRateApply _ => exact execCanBitRateApply_keeps h (k .dict rfl)
  | mbxReqTailWrite _ _ => exact execMbxReqTailWrite_keeps h (k .dict rfl)
  | mbxRspHeadWrite _ _ => exact execMbxRspHeadWrite_keeps h (k .dict rfl)
  | mbxRequestTake _ => exact execMbxRequestTake_keeps h (k .dict rfl)
  | mbxResponsePost _ => exact execMbxResponsePost_keeps h (k .dict rfl) (k .out rfl) (k .port rfl)
  | registerWrite _ _ _ _ => exact execRegisterWrite_keeps h (k .dict rfl) (k .integ rfl) (k .obs rfl) (k .out rfl) (k .port rfl)
  | syncRead _ _ => exact execSyncRead_keeps h (k .fab rfl) (k .integ rfl) (k .obs rfl) (k .vs rfl)
  | syncAdd _ _ => exact execSyncAdd_keeps h (k .fab rfl) (k .integ rfl) (k .obs rfl) (k .vs rfl)
  | syncSet _ _ => exact execSyncSet_keeps h (k .fab rfl) (k .integ rfl) (k .obs rfl) (k .vs rfl)
  | syncWait _ _ => exact execSyncWait_keeps h (k .fab rfl) (k .integ rfl) (k .obs rfl) (k .vs rfl)
  | syncArriveWait _ _ => exact execSyncArriveWait_keeps h (k .fab rfl) (k .integ rfl) (k .obs rfl) (k .vs rfl)
  | syncConfigure _ _ => exact execSyncConfigure_keeps h (k .fab rfl) (k .integ rfl) (k .obs rfl) (k .vs rfl)
  | notify _ _ => exact execNotify_keeps h (k .fab rfl) (k .integ rfl) (k .obs rfl) (k .port rfl) (k .vs rfl)
  | unpark _ _ => exact execUnpark_keeps h (k .fab rfl) (k .vs rfl)
  | notifyRepeat _ => exact execNotifyRepeat_keeps h (k .fab rfl) (k .now rfl) (k .vs rfl)
  | waitResend _ => exact execWaitResend_keeps h (k .fab rfl) (k .vs rfl)
  | waitLimitExpiry _ _ _ _ => exact execWaitLimitExpiry_keeps h (k .fab rfl) (k .integ rfl) (k .now rfl) (k .obs rfl) (k .port rfl) (k .vs rfl)
  | syncRsp _ _ => exact execSyncRsp_keeps h (k .fab rfl) (k .integ rfl) (k .obs rfl) (k .port rfl) (k .vs rfl)
  | admissionDecision _ => exact execAdmissionDecision_keeps h (k .fab rfl) (k .free rfl) (k .integ rfl) (k .led rfl) (k .now rfl) (k .obs rfl) (k .port rfl)
  | contextDeadline _ _ => exact execContextDeadline_keeps h (k .fab rfl) (k .now rfl) (k .obs rfl) (k .port rfl)
  | kill _ _ => exact execKill_keeps h (k .fab rfl) (k .integ rfl) (k .obs rfl) (k .port rfl) (k .vs rfl)
  | killDone _ _ => exact execKillDone_keeps h (k .fab rfl) (k .obs rfl) (k .port rfl)
  | killRepeat _ _ _ => exact execKillRepeat_keeps h (k .fab rfl) (k .now rfl) (k .port rfl)
  | killLost _ _ _ => exact execKillLost_keeps h (k .integ rfl) (k .now rfl) (k .obs rfl) (k .out rfl) (k .port rfl)
  | fibreResident _ _ _ => exact execFibreResident_keeps h (k .vs rfl)
  | opEnd _ _ _ => exact execOpEnd_keeps h (k .fab rfl) (k .integ rfl) (k .obs rfl) (k .port rfl) (k .vs rfl)
  | opLoad _ _ _ => exact execOpLoad_keeps h (k .fab rfl) (k .free rfl) (k .integ rfl) (k .mem rfl) (k .obs rfl) (k .port rfl) (k .vs rfl)
  | opStore _ _ _ => exact execOpStore_keeps h (k .fab rfl) (k .integ rfl) (k .mem rfl) (k .obs rfl) (k .port rfl) (k .vs rfl)
  | opGather _ _ _ => exact execOpGather_keeps h (k .fab rfl) (k .integ rfl) (k .mem rfl) (k .obs rfl) (k .port rfl) (k .vs rfl)
  | opScatter _ _ _ => exact execOpScatter_keeps h (k .fab rfl) (k .integ rfl) (k .mem rfl) (k .obs rfl) (k .port rfl) (k .vs rfl)
  | opMatmul _ _ _ => exact execOpMatmul_keeps h (k .fab rfl) (k .free rfl) (k .integ rfl) (k .mem rfl) (k .obs rfl) (k .port rfl) (k .vs rfl)
  | eltwiseCopy _ _ _ => exact execEltwiseCopy_keeps h (k .fab rfl) (k .free rfl) (k .integ rfl) (k .mem rfl) (k .obs rfl) (k .port rfl) (k .vs rfl)
  | eltwiseAdd _ _ _ => exact execEltwiseAdd_keeps h (k .fab rfl) (k .free rfl) (k .integ rfl) (k .mem rfl) (k .obs rfl) (k .port rfl) (k .vs rfl)
  | eltwiseSub _ _ _ => exact execEltwiseSub_keeps h (k .fab rfl) (k .free rfl) (k .integ rfl) (k .mem rfl) (k .obs rfl) (k .port rfl) (k .vs rfl)
  | eltwiseMul _ _ _ => exact execEltwiseMul_keeps h (k .fab rfl) (k .free rfl) (k .integ rfl) (k .mem rfl) (k .obs rfl) (k .port rfl) (k .vs rfl)
  | eltwiseFma _ _ _ => exact execEltwiseFma_keeps h (k .fab rfl) (k .free rfl) (k .integ rfl) (k .mem rfl) (k .obs rfl) (k .port rfl) (k .vs rfl)
  | eltwiseMin _ _ _ => exact execEltwiseMin_keeps h (k .fab rfl) (k .free rfl) (k .integ rfl) (k .mem rfl) (k .obs rfl) (k .port rfl) (k .vs rfl)
  | eltwiseMax _ _ _ => exact execEltwiseMax_keeps h (k .fab rfl) (k .free rfl) (k .integ rfl) (k .mem rfl) (k .obs rfl) (k .port rfl) (k .vs rfl)
  | eltwiseAbs _ _ _ => exact execEltwiseAbs_keeps h (k .fab rfl) (k .free rfl) (k .integ rfl) (k .mem rfl) (k .obs rfl) (k .port rfl) (k .vs rfl)
  | eltwiseNeg _ _ _ => exact execEltwiseNeg_keeps h (k .fab rfl) (k .free rfl) (k .integ rfl) (k .mem rfl) (k .obs rfl) (k .port rfl) (k .vs rfl)
  | eltwiseRelu _ _ _ => exact execEltwiseRelu_keeps h (k .fab rfl) (k .free rfl) (k .integ rfl) (k .mem rfl) (k .obs rfl) (k .port rfl) (k .vs rfl)
  | eltwiseScaleBias _ _ _ => exact execEltwiseScaleBias_keeps h (k .fab rfl) (k .free rfl) (k .integ rfl) (k .mem rfl) (k .obs rfl) (k .port rfl) (k .vs rfl)
  | eltwiseRequant _ _ _ => exact execEltwiseRequant_keeps h (k .fab rfl) (k .free rfl) (k .integ rfl) (k .mem rfl) (k .obs rfl) (k .port rfl) (k .vs rfl)
  | eltwiseExp _ _ _ => exact execEltwiseExp_keeps h (k .fab rfl) (k .free rfl) (k .integ rfl) (k .mem rfl) (k .obs rfl) (k .port rfl) (k .vs rfl)
  | eltwiseLog _ _ _ => exact execEltwiseLog_keeps h (k .fab rfl) (k .free rfl) (k .integ rfl) (k .mem rfl) (k .obs rfl) (k .port rfl) (k .vs rfl)
  | eltwiseSigmoid _ _ _ => exact execEltwiseSigmoid_keeps h (k .fab rfl) (k .free rfl) (k .integ rfl) (k .mem rfl) (k .obs rfl) (k .port rfl) (k .vs rfl)
  | eltwiseTanh _ _ _ => exact execEltwiseTanh_keeps h (k .fab rfl) (k .free rfl) (k .integ rfl) (k .mem rfl) (k .obs rfl) (k .port rfl) (k .vs rfl)
  | eltwiseRecip _ _ _ => exact execEltwiseRecip_keeps h (k .fab rfl) (k .free rfl) (k .integ rfl) (k .mem rfl) (k .obs rfl) (k .port rfl) (k .vs rfl)
  | eltwiseRsqrt _ _ _ => exact execEltwiseRsqrt_keeps h (k .fab rfl) (k .free rfl) (k .integ rfl) (k .mem rfl) (k .obs rfl) (k .port rfl) (k .vs rfl)
  | eltwiseSqrt _ _ _ => exact execEltwiseSqrt_keeps h (k .fab rfl) (k .free rfl) (k .integ rfl) (k .mem rfl) (k .obs rfl) (k .port rfl) (k .vs rfl)
  | eltwiseErf _ _ _ => exact execEltwiseErf_keeps h (k .fab rfl) (k .free rfl) (k .integ rfl) (k .mem rfl) (k .obs rfl) (k .port rfl) (k .vs rfl)
  | eltwiseRowSum _ _ _ => exact execEltwiseRowSum_keeps h (k .fab rfl) (k .free rfl) (k .integ rfl) (k .mem rfl) (k .obs rfl) (k .port rfl) (k .vs rfl)
  | eltwiseRowMax _ _ _ => exact execEltwiseRowMax_keeps h (k .fab rfl) (k .free rfl) (k .integ rfl) (k .mem rfl) (k .obs rfl) (k .port rfl) (k .vs rfl)
  | opTreeEval _ _ _ => exact execOpTreeEval_keeps h (k .fab rfl) (k .free rfl) (k .integ rfl) (k .mem rfl) (k .obs rfl) (k .port rfl) (k .vs rfl)
  | embedRows _ _ _ => exact execEmbedRows_keeps h (k .fab rfl) (k .free rfl) (k .integ rfl) (k .mem rfl) (k .obs rfl) (k .port rfl) (k .vs rfl)
  | embedSum _ _ _ => exact execEmbedSum_keeps h (k .fab rfl) (k .free rfl) (k .integ rfl) (k .mem rfl) (k .obs rfl) (k .port rfl) (k .vs rfl)
  | embedMax _ _ _ => exact execEmbedMax_keeps h (k .fab rfl) (k .free rfl) (k .integ rfl) (k .mem rfl) (k .obs rfl) (k .port rfl) (k .vs rfl)
  | opContribute _ _ _ => exact execOpContribute_keeps h (k .fab rfl) (k .integ rfl) (k .mem rfl) (k .obs rfl) (k .port rfl) (k .vs rfl)
  | opMcast _ _ _ => exact execOpMcast_keeps h (k .fab rfl) (k .integ rfl) (k .obs rfl) (k .port rfl) (k .vs rfl)
  | opRecvMc _ _ _ => exact execOpRecvMc_keeps h (k .fab rfl) (k .integ rfl) (k .obs rfl) (k .port rfl) (k .vs rfl)
  | opSync _ _ _ => exact execOpSync_keeps h (k .fab rfl) (k .integ rfl) (k .obs rfl) (k .port rfl) (k .vs rfl)
  | opFence _ _ _ => exact execOpFence_keeps h (k .fab rfl) (k .integ rfl) (k .obs rfl) (k .port rfl) (k .vs rfl)
  | opWatch _ _ _ => exact execOpWatch_keeps h (k .fab rfl) (k .integ rfl) (k .obs rfl) (k .port rfl) (k .vs rfl)
  | opDigest _ _ _ => exact execOpDigest_keeps h (k .fab rfl) (k .integ rfl) (k .mem rfl) (k .obs rfl) (k .port rfl) (k .vs rfl)
  | seqAdd _ => exact execSeqAdd_keeps h (k .fab rfl) (k .integ rfl) (k .obs rfl) (k .vs rfl)
  | seqSub _ => exact execSeqSub_keeps h (k .fab rfl) (k .integ rfl) (k .obs rfl) (k .vs rfl)
  | seqMul _ => exact execSeqMul_keeps h (k .fab rfl) (k .integ rfl) (k .obs rfl) (k .vs rfl)
  | seqAnd _ => exact execSeqAnd_keeps h (k .fab rfl) (k .integ rfl) (k .obs rfl) (k .vs rfl)
  | seqOr _ => exact execSeqOr_keeps h (k .fab rfl) (k .integ rfl) (k .obs rfl) (k .vs rfl)
  | seqXor _ => exact execSeqXor_keeps h (k .fab rfl) (k .integ rfl) (k .obs rfl) (k .vs rfl)
  | seqShl _ => exact execSeqShl_keeps h (k .fab rfl) (k .integ rfl) (k .obs rfl) (k .vs rfl)
  | seqShr _ => exact execSeqShr_keeps h (k .fab rfl) (k .integ rfl) (k .obs rfl) (k .vs rfl)
  | seqSra _ => exact execSeqSra_keeps h (k .fab rfl) (k .integ rfl) (k .obs rfl) (k .vs rfl)
  | seqSlt _ => exact execSeqSlt_keeps h (k .fab rfl) (k .integ rfl) (k .obs rfl) (k .vs rfl)
  | seqSltu _ => exact execSeqSltu_keeps h (k .fab rfl) (k .integ rfl) (k .obs rfl) (k .vs rfl)
  | seqMinu _ => exact execSeqMinu_keeps h (k .fab rfl) (k .integ rfl) (k .obs rfl) (k .vs rfl)
  | seqMaxu _ => exact execSeqMaxu_keeps h (k .fab rfl) (k .integ rfl) (k .obs rfl) (k .vs rfl)
  | seqAddi _ => exact execSeqAddi_keeps h (k .fab rfl) (k .integ rfl) (k .obs rfl) (k .vs rfl)
  | seqAndi _ => exact execSeqAndi_keeps h (k .fab rfl) (k .integ rfl) (k .obs rfl) (k .vs rfl)
  | seqOri _ => exact execSeqOri_keeps h (k .fab rfl) (k .integ rfl) (k .obs rfl) (k .vs rfl)
  | seqXori _ => exact execSeqXori_keeps h (k .fab rfl) (k .integ rfl) (k .obs rfl) (k .vs rfl)
  | seqShli _ => exact execSeqShli_keeps h (k .fab rfl) (k .integ rfl) (k .obs rfl) (k .vs rfl)
  | seqShri _ => exact execSeqShri_keeps h (k .fab rfl) (k .integ rfl) (k .obs rfl) (k .vs rfl)
  | seqSrai _ => exact execSeqSrai_keeps h (k .fab rfl) (k .integ rfl) (k .obs rfl) (k .vs rfl)
  | seqMovk _ => exact execSeqMovk_keeps h (k .fab rfl) (k .integ rfl) (k .obs rfl) (k .vs rfl)
  | seqLd _ => exact execSeqLd_keeps h (k .fab rfl) (k .integ rfl) (k .obs rfl) (k .vs rfl)
  | seqLdData _ => exact execSeqLdData_keeps h (k .fab rfl) (k .integ rfl) (k .obs rfl) (k .vs rfl)
  | seqSt _ => exact execSeqSt_keeps h (k .fab rfl) (k .integ rfl) (k .obs rfl) (k .vs rfl)
  | seqBeq _ => exact execSeqBeq_keeps h (k .fab rfl) (k .integ rfl) (k .obs rfl) (k .vs rfl)
  | seqBne _ => exact execSeqBne_keeps h (k .fab rfl) (k .integ rfl) (k .obs rfl) (k .vs rfl)
  | seqBlt _ => exact execSeqBlt_keeps h (k .fab rfl) (k .integ rfl) (k .obs rfl) (k .vs rfl)
  | seqBltu _ => exact execSeqBltu_keeps h (k .fab rfl) (k .integ rfl) (k .obs rfl) (k .vs rfl)
  | seqBge _ => exact execSeqBge_keeps h (k .fab rfl) (k .integ rfl) (k .obs rfl) (k .vs rfl)
  | seqBgeu _ => exact execSeqBgeu_keeps h (k .fab rfl) (k .integ rfl) (k .obs rfl) (k .vs rfl)
  | seqLoop _ => exact execSeqLoop_keeps h (k .fab rfl) (k .integ rfl) (k .obs rfl) (k .vs rfl)
  | seqLend _ => exact execSeqLend_keeps h (k .fab rfl) (k .integ rfl) (k .obs rfl) (k .vs rfl)
  | seqRestart _ => exact execSeqRestart_keeps h (k .fab rfl) (k .integ rfl) (k .obs rfl) (k .vs rfl)
  | seqHalt _ => exact execSeqHalt_keeps h (k .fab rfl) (k .integ rfl) (k .obs rfl) (k .vs rfl)
  | seqNop _ => exact execSeqNop_keeps h (k .fab rfl) (k .integ rfl) (k .obs rfl) (k .vs rfl)
  | seqMfl _ => exact execSeqMfl_keeps h (k .fab rfl) (k .integ rfl) (k .obs rfl) (k .vs rfl)
  | seqTime _ => exact execSeqTime_keeps h (k .fab rfl) (k .integ rfl) (k .obs rfl) (k .vs rfl)
  | seqMark _ => exact execSeqMark_keeps h (k .fab rfl) (k .integ rfl) (k .obs rfl) (k .vs rfl)
  | seqLaunch _ => exact execSeqLaunch_keeps h (k .fab rfl) (k .integ rfl) (k .obs rfl) (k .vs rfl)
  | launchResume _ => exact execLaunchResume_keeps h (k .fab rfl) (k .integ rfl) (k .obs rfl) (k .vs rfl)
  | seqBwait _ => exact execSeqBwait_keeps h (k .fab rfl) (k .integ rfl) (k .obs rfl) (k .vs rfl)
  | seqTake _ => exact execSeqTake_keeps h (k .fab rfl) (k .integ rfl) (k .obs rfl) (k .vs rfl)
  | seqSync _ => exact execSeqSync_keeps h (k .fab rfl) (k .integ rfl) (k .obs rfl) (k .vs rfl)
  | seqFence _ => exact execSeqFence_keeps h (k .fab rfl) (k .integ rfl) (k .obs rfl) (k .vs rfl)
  | seqMcast _ => exact execSeqMcast_keeps h (k .fab rfl) (k .integ rfl) (k .obs rfl) (k .vs rfl)
  | seqMcwait _ => exact execSeqMcwait_keeps h (k .fab rfl) (k .integ rfl) (k .obs rfl) (k .vs rfl)
  | seqStart _ _ => exact execSeqStart_keeps h (k .dict rfl) (k .ep rfl) (k .fab rfl) (k .free rfl) (k .integ rfl) (k .led rfl) (k .mem rfl) (k .obs rfl) (k .out rfl) (k .part rfl) (k .port rfl) (k .pow rfl) (k .sec rfl) (k .time rfl) (k .vs rfl)
  | seqStop _ _ => exact execSeqStop_keeps h (k .dict rfl) (k .ep rfl) (k .fab rfl) (k .free rfl) (k .integ rfl) (k .led rfl) (k .mem rfl) (k .obs rfl) (k .out rfl) (k .part rfl) (k .port rfl) (k .pow rfl) (k .sec rfl) (k .time rfl) (k .vs rfl)
  | seqProgramLoad _ _ _ => exact execSeqProgramLoad_keeps h (k .dict rfl) (k .ep rfl) (k .fab rfl) (k .free rfl) (k .integ rfl) (k .led rfl) (k .mem rfl) (k .obs rfl) (k .out rfl) (k .part rfl) (k .port rfl) (k .pow rfl) (k .sec rfl) (k .time rfl) (k .vs rfl)
  | batchComplete _ _ => exact execBatchComplete_keeps h (k .fab rfl) (k .integ rfl) (k .obs rfl) (k .vs rfl)
  | queuePost _ _ => exact execQueuePost_keeps h (k .fab rfl) (k .integ rfl) (k .obs rfl) (k .vs rfl)
  | packetInject _ _ => exact execPacketInject_keeps h (k .fab rfl) (k .integ rfl) (k .obs rfl) (k .port rfl) (k .vs rfl)
  | regulatorRelease _ => exact execRegulatorRelease_keeps h (k .fab rfl) (k .integ rfl) (k .now rfl) (k .obs rfl) (k .port rfl) (k .vs rfl)
  | routerForward _ _ _ _ => exact execRouterForward_keeps h (k .ep rfl) (k .fab rfl) (k .integ rfl) (k .obs rfl) (k .time rfl) (k .vs rfl)
  | write _ _ => exact execWrite_keeps h (k .fab rfl) (k .free rfl) (k .integ rfl) (k .mem rfl) (k .obs rfl) (k .out rfl) (k .vs rfl)
  | read _ _ => exact execRead_keeps h (k .fab rfl) (k .integ rfl) (k .obs rfl) (k .out rfl) (k .port rfl) (k .vs rfl)
  | endpointMsg _ _ => exact execEndpointMsg_keeps h (k .fab rfl) (k .integ rfl) (k .obs rfl)
  | readData _ _ => exact execReadData_keeps h (k .fab rfl) (k .integ rfl) (k .obs rfl) (k .port rfl) (k .vs rfl)
  | endpointRsp _ _ => exact execEndpointRsp_keeps h (k .fab rfl) (k .integ rfl) (k .obs rfl) (k .port rfl) (k .vs rfl)
  | refusal _ _ => exact execRefusal_keeps h (k .fab rfl) (k .integ rfl) (k .obs rfl) (k .port rfl) (k .vs rfl)
  | ack _ _ => exact execAck_keeps h (k .fab rfl) (k .integ rfl) (k .obs rfl) (k .port rfl) (k .vs rfl)
  | ackSend _ => exact execAckSend_keeps h (k .fab rfl)
  | nackRxFull _ _ => exact execNackRxFull_keeps h (k .fab rfl)
  | openRetry _ _ => exact execOpenRetry_keeps h (k .fab rfl) (k .now rfl)
  | nackNotOpen _ _ => exact execNackNotOpen_keeps h (k .fab rfl) (k .integ rfl) (k .obs rfl) (k .port rfl) (k .vs rfl)
  | streamAckTimeout _ _ => exact execStreamAckTimeout_keeps h (k .fab rfl) (k .integ rfl) (k .now rfl) (k .obs rfl) (k .port rfl) (k .vs rfl)
  | streamIdleClose _ _ => exact execStreamIdleClose_keeps h (k .fab rfl) (k .now rfl)
  | close _ _ => exact execClose_keeps h (k .fab rfl)
  | linkBringUp _ _ _ _ _ _ => exact execLinkBringUp_keeps h (k .ep rfl) (k .fab rfl) (k .integ rfl) (k .mem rfl) (k .obs rfl) (k .port rfl) (k .time rfl) (k .vs rfl)
  | linkFailure _ _ => exact execLinkFailure_keeps h (k .ep rfl) (k .fab rfl) (k .integ rfl) (k .mem rfl) (k .obs rfl) (k .out rfl) (k .port rfl) (k .pow rfl) (k .time rfl) (k .vs rfl)
  | mcSend _ _ => exact execMcSend_keeps h (k .fab rfl) (k .integ rfl) (k .obs rfl) (k .vs rfl)
  | mcDeliver _ _ => exact execMcDeliver_keeps h (k .fab rfl) (k .free rfl) (k .integ rfl) (k .mem rfl) (k .obs rfl) (k .port rfl) (k .vs rfl)
  | mcAckTimeout _ _ => exact execMcAckTimeout_keeps h (k .fab rfl) (k .integ rfl) (k .now rfl) (k .obs rfl) (k .port rfl) (k .vs rfl)
  | mcRejoin _ _ => exact execMcRejoin_keeps h (k .dict rfl) (k .ep rfl) (k .fab rfl) (k .free rfl) (k .integ rfl) (k .led rfl) (k .mem rfl) (k .obs rfl) (k .out rfl) (k .part rfl) (k .port rfl) (k .pow rfl) (k .sec rfl) (k .time rfl) (k .vs rfl)
  | redChunk _ _ => exact execRedChunk_keeps h (k .fab rfl) (k .integ rfl) (k .mem rfl) (k .obs rfl) (k .port rfl) (k .vs rfl)
  | redCredit _ _ => exact execRedCredit_keeps h (k .fab rfl) (k .integ rfl) (k .mem rfl) (k .obs rfl) (k .port rfl) (k .vs rfl)
  | redTimeout _ _ _ _ => exact execRedTimeout_keeps h (k .fab rfl) (k .integ rfl) (k .mem rfl) (k .now rfl) (k .obs rfl) (k .port rfl) (k .vs rfl)
  | redReport _ _ => exact execRedReport_keeps h (k .fab rfl) (k .vs rfl)
  | redReportRepeat _ _ => exact execRedReportRepeat_keeps h (k .fab rfl) (k .now rfl) (k .vs rfl)
  | resyncQuiet _ => exact execResyncQuiet_keeps h (k .fab rfl) (k .integ rfl) (k .mem rfl) (k .now rfl) (k .obs rfl) (k .vs rfl)
  | redResync _ _ => exact execRedResync_keeps h (k .fab rfl) (k .vs rfl)
  | redForceResync _ _ => exact execRedForceResync_keeps h (k .dict rfl) (k .ep rfl) (k .fab rfl) (k .free rfl) (k .integ rfl) (k .led rfl) (k .mem rfl) (k .obs rfl) (k .out rfl) (k .part rfl) (k .port rfl) (k .pow rfl) (k .sec rfl) (k .time rfl) (k .vs rfl)
  | errorLogRecord => exact execErrorLogRecord_keeps h (k .integ rfl) (k .out rfl)
  | heldReportPoll _ _ => exact execHeldReportPoll_keeps h (k .integ rfl) (k .obs rfl)
  | logClear _ _ => exact execLogClear_keeps h (k .dict rfl) (k .ep rfl) (k .fab rfl) (k .free rfl) (k .integ rfl) (k .led rfl) (k .mem rfl) (k .obs rfl) (k .out rfl) (k .part rfl) (k .port rfl) (k .pow rfl) (k .sec rfl) (k .time rfl) (k .vs rfl)
  | tableEntryRewrite _ _ _ => exact execTableEntryRewrite_keeps h (k .integ rfl)
  | sramScrub _ _ => exact execSramScrub_keeps h (k .integ rfl) (k .obs rfl)
  | vatDieLost _ => exact execVatDieLost_keeps h (k .ep rfl) (k .fab rfl) (k .integ rfl) (k .mem rfl) (k .obs rfl) (k .out rfl) (k .part rfl) (k .port rfl) (k .pow rfl) (k .time rfl) (k .vs rfl)
  | deckleDieLost _ => exact execDeckleDieLost_keeps h (k .ep rfl) (k .fab rfl) (k .integ rfl) (k .mem rfl) (k .obs rfl) (k .out rfl) (k .part rfl) (k .port rfl) (k .pow rfl) (k .time rfl) (k .vs rfl)
  | mgmtFailover => exact execMgmtFailover_keeps h (k .dict rfl) (k .integ rfl) (k .obs rfl) (k .out rfl) (k .port rfl) (k .pow rfl) (k .time rfl)
  | mgmtLost => exact execMgmtLost_keeps h (k .out rfl) (k .port rfl) (k .pow rfl)
  | repairSwitchArm => exact execRepairSwitchArm_keeps h (k .ep rfl) (k .fab rfl) (k .integ rfl) (k .mem rfl) (k .part rfl) (k .vs rfl)
  | hostCompletion _ _ _ _ => exact execHostCompletion_keeps h (k .fab rfl) (k .integ rfl) (k .obs rfl) (k .out rfl) (k .port rfl)
  | aliveFall _ _ => exact execAliveFall_keeps h (k .ep rfl) (k .fab rfl) (k .integ rfl) (k .mem rfl) (k .obs rfl) (k .out rfl) (k .port rfl) (k .pow rfl) (k .time rfl) (k .vs rfl)
  | handshakeTimeout _ _ _ => exact execHandshakeTimeout_keeps h (k .ep rfl) (k .fab rfl) (k .integ rfl) (k .mem rfl) (k .obs rfl) (k .port rfl) (k .time rfl) (k .vs rfl)
  | realive _ _ => exact execRealive_keeps h (k .fab rfl) (k .obs rfl) (k .out rfl) (k .port rfl) (k .pow rfl) (k .time rfl)
  | crossingClear _ _ => exact execCrossingClear_keeps h (k .dict rfl) (k .ep rfl) (k .fab rfl) (k .free rfl) (k .integ rfl) (k .led rfl) (k .mem rfl) (k .obs rfl) (k .out rfl) (k .part rfl) (k .port rfl) (k .pow rfl) (k .sec rfl) (k .time rfl) (k .vs rfl)
  | freqLimited _ => exact execFreqLimited_keeps h (k .integ rfl) (k .obs rfl) (k .time rfl)
  | refclkLost => exact execRefclkLost_keeps h (k .integ rfl) (k .obs rfl) (k .time rfl)
  | refclkReturn => exact execRefclkReturn_keeps h (k .time rfl)
  | timeTreeRecompute => exact execTimeTreeRecompute_keeps h (k .time rfl)
  | timeSyncSend _ => exact execTimeSyncSend_keeps h (k .fab rfl) (k .time rfl)
  | delayPeriod _ => exact execDelayPeriod_keeps h (k .fab rfl)
  | timeSync _ _ _ => exact execTimeSync_keeps h (k .fab rfl) (k .free rfl) (k .integ rfl) (k .obs rfl) (k .time rfl)
  | delayReq _ _ _ => exact execDelayReq_keeps h (k .fab rfl)
  | delayRsp _ _ _ => exact execDelayRsp_keeps h (k .fab rfl) (k .time rfl)
  | syncSilence _ => exact execSyncSilence_keeps h (k .now rfl) (k .time rfl)
  | holdoverExpired _ => exact execHoldoverExpired_keeps h (k .integ rfl) (k .now rfl) (k .obs rfl) (k .time rfl)
  | wallSet _ _ _ => exact execWallSet_keeps h (k .dict rfl) (k .ep rfl) (k .fab rfl) (k .free rfl) (k .integ rfl) (k .led rfl) (k .mem rfl) (k .obs rfl) (k .out rfl) (k .part rfl) (k .port rfl) (k .pow rfl) (k .sec rfl) (k .time rfl) (k .vs rfl)
  | wallRate _ _ => exact execWallRate_keeps h (k .dict rfl) (k .ep rfl) (k .fab rfl) (k .free rfl) (k .integ rfl) (k .led rfl) (k .mem rfl) (k .obs rfl) (k .out rfl) (k .part rfl) (k .port rfl) (k .pow rfl) (k .sec rfl) (k .time rfl) (k .vs rfl)
  | ppsEdge _ _ => exact execPpsEdge_keeps h (k .integ rfl) (k .obs rfl) (k .time rfl)
  | ppsLost => exact execPpsLost_keeps h (k .integ rfl) (k .now rfl) (k .obs rfl) (k .time rfl)
  | sqDoorbell _ _ _ => exact execSqDoorbell_keeps h (k .integ rfl) (k .obs rfl) (k .out rfl) (k .port rfl)
  | cqDoorbell _ _ _ => exact execCqDoorbell_keeps h (k .integ rfl) (k .obs rfl) (k .out rfl) (k .port rfl)
  | sqEnable _ _ => exact execSqEnable_keeps h (k .out rfl) (k .port rfl)
  | sqDisable _ _ => exact execSqDisable_keeps h (k .port rfl)
  | cqEnable _ _ => exact execCqEnable_keeps h (k .port rfl)
  | cqDisable _ _ => exact execCqDisable_keeps h (k .out rfl) (k .port rfl)
  | descriptorFetch _ _ _ _ => exact execDescriptorFetch_keeps h (k .integ rfl) (k .obs rfl) (k .out rfl) (k .port rfl)
  | payloadFetch _ _ _ _ => exact execPayloadFetch_keeps h (k .integ rfl) (k .obs rfl) (k .out rfl) (k .port rfl)
  | score _ _ => exact execScore_keeps h (k .integ rfl) (k .obs rfl) (k .port rfl)
  | scoreReplay _ _ => exact execScoreReplay_keeps h (k .integ rfl) (k .obs rfl) (k .port rfl)
  | loadModel _ _ => exact execLoadModel_keeps h (k .part rfl) (k .port rfl)
  | modelCancel _ _ => exact execModelCancel_keeps h (k .part rfl) (k .port rfl)
  | journalRead _ _ => exact execJournalRead_keeps h (k .led rfl) (k .port rfl)
  | archiveWrite _ _ => exact execArchiveWrite_keeps h (k .led rfl) (k .port rfl)
  | archiveRead _ _ => exact execArchiveRead_keeps h (k .free rfl) (k .led rfl) (k .port rfl)
  | archiveDiscard _ _ => exact execArchiveDiscard_keeps h (k .led rfl) (k .port rfl)
  | mapDump _ _ => exact execMapDump_keeps h (k .port rfl)
  | stagingWrite _ _ _ => exact execStagingWrite_keeps h (k .port rfl)
  | doneWord _ _ _ _ => exact execDoneWord_keeps h (k .fab rfl) (k .integ rfl) (k .obs rfl) (k .port rfl)
  | digestReport _ _ => exact execDigestReport_keeps h (k .fab rfl) (k .integ rfl) (k .obs rfl) (k .port rfl)
  | completionPost _ _ => exact execCompletionPost_keeps h (k .fab rfl) (k .integ rfl) (k .led rfl) (k .obs rfl) (k .out rfl) (k .port rfl)
  | cqInterruptTimer _ _ => exact execCqInterruptTimer_keeps h (k .now rfl) (k .out rfl) (k .port rfl)
  | perstNAssert _ => exact execPerstNAssert_keeps h (k .dict rfl) (k .integ rfl) (k .obs rfl) (k .out rfl) (k .port rfl) (k .pow rfl) (k .time rfl)
  | functionLevelReset _ => exact execFunctionLevelReset_keeps h (k .dict rfl) (k .integ rfl) (k .obs rfl) (k .out rfl) (k .port rfl) (k .pow rfl) (k .time rfl)
  | dlDown _ => exact execDlDown_keeps h (k .dict rfl) (k .integ rfl) (k .obs rfl) (k .out rfl) (k .port rfl) (k .pow rfl) (k .time rfl)
  | portLinkUp _ _ _ => exact execPortLinkUp_keeps h (k .obs rfl) (k .out rfl) (k .port rfl) (k .pow rfl) (k .time rfl)
  | d3hotEntry _ => exact execD3hotEntry_keeps h (k .port rfl)
  | d0Return _ => exact execD0Return_keeps h (k .port rfl)
  | gateWindowOpen _ _ => exact execGateWindowOpen_keeps h (k .now rfl) (k .port rfl)
  | gateListSwitch _ => exact execGateListSwitch_keeps h (k .integ rfl) (k .now rfl) (k .obs rfl) (k .port rfl)
  | headStarved _ _ => exact execHeadStarved_keeps h (k .integ rfl) (k .now rfl) (k .obs rfl) (k .port rfl)
  | epochSwitch _ _ => exact execEpochSwitch_keeps h (k .dict rfl) (k .ep rfl) (k .fab rfl) (k .free rfl) (k .integ rfl) (k .led rfl) (k .mem rfl) (k .obs rfl) (k .out rfl) (k .part rfl) (k .port rfl) (k .pow rfl) (k .sec rfl) (k .time rfl) (k .vs rfl)
  | epochArm _ => exact execEpochArm_keeps h (k .ep rfl) (k .fab rfl)
  | epochArmAbort _ => exact execEpochArmAbort_keeps h (k .ep rfl) (k .fab rfl)
  | epochArmed _ => exact execEpochArmed_keeps h (k .ep rfl)
  | epochArmTimeout => exact execEpochArmTimeout_keeps h (k .ep rfl) (k .fab rfl) (k .now rfl) (k .part rfl)
  | epochGoAt => exact execEpochGoAt_keeps h (k .ep rfl) (k .fab rfl) (k .now rfl) (k .out rfl) (k .part rfl) (k .port rfl) (k .pow rfl)
  | epochGo _ => exact execEpochGo_keeps h (k .ep rfl) (k .fab rfl) (k .integ rfl) (k .led rfl) (k .obs rfl) (k .out rfl) (k .part rfl) (k .port rfl) (k .vs rfl)
  | portDone _ => exact execPortDone_keeps h (k .ep rfl) (k .fab rfl)
  | epochDrainTimeout _ => exact execEpochDrainTimeout_keeps h (k .ep rfl) (k .fab rfl) (k .integ rfl) (k .now rfl) (k .obs rfl) (k .port rfl) (k .vs rfl)
  | epochRetire _ => exact execEpochRetire_keeps h (k .ep rfl) (k .fab rfl) (k .integ rfl) (k .obs rfl) (k .part rfl) (k .pow rfl) (k .time rfl) (k .vs rfl)
  | epochRetired _ => exact execEpochRetired_keeps h (k .ep rfl) (k .integ rfl) (k .out rfl) (k .port rfl) (k .pow rfl)
  | epochResend _ => exact execEpochResend_keeps h (k .ep rfl) (k .fab rfl) (k .now rfl)
  | epochCancel _ _ => exact execEpochCancel_keeps h (k .dict rfl) (k .ep rfl) (k .fab rfl) (k .free rfl) (k .integ rfl) (k .led rfl) (k .mem rfl) (k .obs rfl) (k .out rfl) (k .part rfl) (k .port rfl) (k .pow rfl) (k .sec rfl) (k .time rfl) (k .vs rfl)
  | partitionDrain _ _ => exact execPartitionDrain_keeps h (k .dict rfl) (k .ep rfl) (k .fab rfl) (k .free rfl) (k .integ rfl) (k .led rfl) (k .mem rfl) (k .obs rfl) (k .out rfl) (k .part rfl) (k .port rfl) (k .pow rfl) (k .sec rfl) (k .time rfl) (k .vs rfl)
  | partitionResume _ _ => exact execPartitionResume_keeps h (k .dict rfl) (k .ep rfl) (k .fab rfl) (k .free rfl) (k .integ rfl) (k .led rfl) (k .mem rfl) (k .obs rfl) (k .out rfl) (k .part rfl) (k .port rfl) (k .pow rfl) (k .sec rfl) (k .time rfl) (k .vs rfl)
  | partitionDrained _ => exact execPartitionDrained_keeps h (k .part rfl)
  | configDigestRecompute => exact execConfigDigestRecompute_keeps h (k .part rfl)
  | imageFetchDone _ _ _ _ => exact execImageFetchDone_keeps h (k .integ rfl) (k .mem rfl) (k .obs rfl) (k .out rfl) (k .part rfl) (k .port rfl)
  | imageVerified _ _ => exact execImageVerified_keeps h (k .integ rfl) (k .mem rfl) (k .obs rfl) (k .part rfl) (k .port rfl) (k .sec rfl)
  | updateSectionsSend _ _ => exact execUpdateSectionsSend_keeps h (k .fab rfl) (k .part rfl)
  | sectionLoaded _ _ _ _ => exact execSectionLoaded_keeps h (k .fab rfl) (k .part rfl) (k .port rfl) (k .vs rfl)
  | modelFlip _ _ => exact execModelFlip_keeps h (k .now rfl) (k .part rfl) (k .port rfl)
  | oldBankFree _ _ => exact execOldBankFree_keeps h (k .part rfl) (k .port rfl)
  | bistDone _ _ _ => exact execBistDone_keeps h (k .part rfl) (k .time rfl)
  | recordAccept _ _ => exact execRecordAccept_keeps h (k .integ rfl) (k .led rfl) (k .obs rfl) (k .port rfl)
  | sealSigned _ => exact execSealSigned_keeps h (k .integ rfl) (k .led rfl) (k .obs rfl)
  | tailFlush _ => exact execTailFlush_keeps h (k .led rfl) (k .now rfl)
  | nandProgramComplete _ _ _ => exact execNandProgramComplete_keeps h (k .integ rfl) (k .led rfl) (k .obs rfl) (k .out rfl) (k .port rfl) (k .pow rfl)
  | nandEraseComplete _ _ _ => exact execNandEraseComplete_keeps h (k .integ rfl) (k .led rfl) (k .obs rfl)
  | nandReadComplete _ _ _ _ _ => exact execNandReadComplete_keeps h (k .free rfl) (k .integ rfl) (k .led rfl) (k .obs rfl) (k .port rfl)
  | journalRelease _ _ _ => exact execJournalRelease_keeps h (k .dict rfl) (k .ep rfl) (k .fab rfl) (k .free rfl) (k .integ rfl) (k .led rfl) (k .mem rfl) (k .obs rfl) (k .out rfl) (k .part rfl) (k .port rfl) (k .pow rfl) (k .sec rfl) (k .time rfl) (k .vs rfl)
  | ledgerFormat _ _ => exact execLedgerFormat_keeps h (k .dict rfl) (k .ep rfl) (k .fab rfl) (k .free rfl) (k .integ rfl) (k .led rfl) (k .mem rfl) (k .obs rfl) (k .out rfl) (k .part rfl) (k .port rfl) (k .pow rfl) (k .sec rfl) (k .time rfl) (k .vs rfl)
  | ledgerStop _ _ => exact execLedgerStop_keeps h (k .dict rfl) (k .ep rfl) (k .fab rfl) (k .free rfl) (k .integ rfl) (k .led rfl) (k .mem rfl) (k .obs rfl) (k .out rfl) (k .part rfl) (k .port rfl) (k .pow rfl) (k .sec rfl) (k .time rfl) (k .vs rfl)
  | ledgerStart _ _ => exact execLedgerStart_keeps h (k .dict rfl) (k .ep rfl) (k .fab rfl) (k .free rfl) (k .integ rfl) (k .led rfl) (k .mem rfl) (k .obs rfl) (k .out rfl) (k .part rfl) (k .port rfl) (k .pow rfl) (k .sec rfl) (k .time rfl) (k .vs rfl)
  | garbageCollect _ _ => exact execGarbageCollect_keeps h (k .led rfl)
  | patrolRead _ _ _ _ _ => exact execPatrolRead_keeps h (k .integ rfl) (k .led rfl) (k .obs rfl)
  | volumeJScanEnd _ => exact execVolumeJScanEnd_keeps h (k .integ rfl) (k .led rfl) (k .obs rfl)
  | volumeAScanEnd _ => exact execVolumeAScanEnd_keeps h (k .led rfl)
  | healthUpdate _ => exact execHealthUpdate_keeps h (k .integ rfl) (k .led rfl) (k .obs rfl)
  | temperatureMinute _ _ _ => exact execTemperatureMinute_keeps h (k .led rfl)
  | counterClear _ _ => exact execCounterClear_keeps h (k .dict rfl) (k .ep rfl) (k .fab rfl) (k .free rfl) (k .integ rfl) (k .led rfl) (k .mem rfl) (k .obs rfl) (k .out rfl) (k .part rfl) (k .port rfl) (k .pow rfl) (k .sec rfl) (k .time rfl) (k .vs rfl)
  | traceStageSend _ => exact execTraceStageSend_keeps h (k .fab rfl) (k .now rfl) (k .obs rfl)
  | traceAppend _ _ => exact execTraceAppend_keeps h (k .fab rfl) (k .integ rfl) (k .obs rfl)
  | bufferArm _ _ => exact execBufferArm_keeps h (k .dict rfl) (k .ep rfl) (k .fab rfl) (k .free rfl) (k .integ rfl) (k .led rfl) (k .mem rfl) (k .obs rfl) (k .out rfl) (k .part rfl) (k .port rfl) (k .pow rfl) (k .sec rfl) (k .time rfl) (k .vs rfl)
  | bufferStop _ _ => exact execBufferStop_keeps h (k .dict rfl) (k .ep rfl) (k .fab rfl) (k .free rfl) (k .integ rfl) (k .led rfl) (k .mem rfl) (k .obs rfl) (k .out rfl) (k .part rfl) (k .port rfl) (k .pow rfl) (k .sec rfl) (k .time rfl) (k .vs rfl)
  | bufferTrigger _ _ => exact execBufferTrigger_keeps h (k .dict rfl) (k .ep rfl) (k .fab rfl) (k .free rfl) (k .integ rfl) (k .led rfl) (k .mem rfl) (k .obs rfl) (k .out rfl) (k .part rfl) (k .port rfl) (k .pow rfl) (k .sec rfl) (k .time rfl) (k .vs rfl)
  | bufferDisarm _ _ => exact execBufferDisarm_keeps h (k .dict rfl) (k .ep rfl) (k .fab rfl) (k .free rfl) (k .integ rfl) (k .led rfl) (k .mem rfl) (k .obs rfl) (k .out rfl) (k .part rfl) (k .port rfl) (k .pow rfl) (k .sec rfl) (k .time rfl) (k .vs rfl)
  | freezeCmd _ _ _ _ => exact execFreezeCmd_keeps h (k .dict rfl) (k .ep rfl) (k .fab rfl) (k .free rfl) (k .integ rfl) (k .led rfl) (k .mem rfl) (k .obs rfl) (k .out rfl) (k .part rfl) (k .port rfl) (k .pow rfl) (k .sec rfl) (k .time rfl) (k .vs rfl)
  | freezeLatch _ => exact execFreezeLatch_keeps h (k .free rfl) (k .integ rfl) (k .obs rfl)
  | snapshotCapture _ => exact execSnapshotCapture_keeps h (k .free rfl) (k .integ rfl) (k .now rfl) (k .obs rfl)
  | snapshotRelease _ _ => exact execSnapshotRelease_keeps h (k .dict rfl) (k .ep rfl) (k .fab rfl) (k .free rfl) (k .integ rfl) (k .led rfl) (k .mem rfl) (k .obs rfl) (k .out rfl) (k .part rfl) (k .port rfl) (k .pow rfl) (k .sec rfl) (k .time rfl) (k .vs rfl)
  | deadlineSnapshotRequest _ _ => exact execDeadlineSnapshotRequest_keeps h (k .dict rfl) (k .now rfl) (k .obs rfl) (k .port rfl)
  | roleEnrol _ _ => exact execRoleEnrol_keeps h (k .dict rfl) (k .ep rfl) (k .fab rfl) (k .free rfl) (k .integ rfl) (k .led rfl) (k .mem rfl) (k .obs rfl) (k .out rfl) (k .part rfl) (k .port rfl) (k .pow rfl) (k .sec rfl) (k .time rfl) (k .vs rfl)
  | roleRevoke _ _ => exact execRoleRevoke_keeps h (k .dict rfl) (k .ep rfl) (k .fab rfl) (k .free rfl) (k .integ rfl) (k .led rfl) (k .mem rfl) (k .obs rfl) (k .out rfl) (k .part rfl) (k .port rfl) (k .pow rfl) (k .sec rfl) (k .time rfl) (k .vs rfl)
  | attestNonce _ _ => exact execAttestNonce_keeps h (k .dict rfl) (k .ep rfl) (k .fab rfl) (k .free rfl) (k .integ rfl) (k .led rfl) (k .mem rfl) (k .obs rfl) (k .out rfl) (k .part rfl) (k .port rfl) (k .pow rfl) (k .sec rfl) (k .time rfl) (k .vs rfl)
  | attestNonceExpiry _ _ => exact execAttestNonceExpiry_keeps h (k .now rfl) (k .sec rfl)
  | attestation _ => exact execAttestation_keeps h (k .dict rfl) (k .ep rfl) (k .fab rfl) (k .free rfl) (k .integ rfl) (k .led rfl) (k .mem rfl) (k .obs rfl) (k .out rfl) (k .part rfl) (k .port rfl) (k .pow rfl) (k .sec rfl) (k .time rfl) (k .vs rfl)
  | unlockToken _ _ => exact execUnlockToken_keeps h (k .dict rfl) (k .ep rfl) (k .fab rfl) (k .free rfl) (k .integ rfl) (k .led rfl) (k .mem rfl) (k .obs rfl) (k .out rfl) (k .part rfl) (k .port rfl) (k .pow rfl) (k .sec rfl) (k .time rfl) (k .vs rfl)
  | unlockRevoke _ => exact execUnlockRevoke_keeps h (k .dict rfl) (k .ep rfl) (k .fab rfl) (k .free rfl) (k .integ rfl) (k .led rfl) (k .mem rfl) (k .obs rfl) (k .out rfl) (k .part rfl) (k .port rfl) (k .pow rfl) (k .sec rfl) (k .time rfl) (k .vs rfl)
  | unlockExpiry => exact execUnlockExpiry_keeps h (k .dict rfl) (k .integ rfl) (k .now rfl) (k .obs rfl) (k .sec rfl)
  | debugScanEnter _ => exact execDebugScanEnter_keeps h (k .dict rfl) (k .ep rfl) (k .fab rfl) (k .free rfl) (k .integ rfl) (k .led rfl) (k .mem rfl) (k .obs rfl) (k .out rfl) (k .part rfl) (k .port rfl) (k .pow rfl) (k .sec rfl) (k .time rfl) (k .vs rfl)
  | zeroise _ _ => exact execZeroise_keeps h (k .dict rfl) (k .ep rfl) (k .fab rfl) (k .free rfl) (k .integ rfl) (k .led rfl) (k .mem rfl) (k .obs rfl) (k .out rfl) (k .part rfl) (k .port rfl) (k .pow rfl) (k .sec rfl) (k .time rfl) (k .vs rfl)
  | fwFloorCommit _ => exact execFwFloorCommit_keeps h (k .dict rfl) (k .ep rfl) (k .fab rfl) (k .free rfl) (k .integ rfl) (k .led rfl) (k .mem rfl) (k .obs rfl) (k .out rfl) (k .part rfl) (k .port rfl) (k .pow rfl) (k .sec rfl) (k .time rfl) (k .vs rfl)
  | entropyFault _ => exact execEntropyFault_keeps h (k .integ rfl) (k .obs rfl) (k .sec rfl)
  | bistOverride _ _ _ => exact execBistOverride_keeps h (k .dict rfl) (k .ep rfl) (k .fab rfl) (k .free rfl) (k .integ rfl) (k .led rfl) (k .mem rfl) (k .obs rfl) (k .out rfl) (k .part rfl) (k .port rfl) (k .pow rfl) (k .sec rfl) (k .time rfl) (k .vs rfl)
  | extest _ _ => exact execExtest_keeps h (k .out rfl) (k .pow rfl)
  | idcode _ => exact execIdcode_keeps h (k .out rfl) (k .pow rfl)
  | samplePreload _ _ => exact execSamplePreload_keeps h (k .out rfl) (k .pow rfl)
  | clamp _ => exact execClamp_keeps h (k .out rfl) (k .pow rfl)
  | highz _ => exact execHighz_keeps h (k .out rfl) (k .pow rfl)
  | bypass _ => exact execBypass_keeps h (k .out rfl) (k .pow rfl)
  | dbgMaint _ => exact execDbgMaint_keeps h (k .free rfl) (k .out rfl) (k .pow rfl)
  | dbgMem _ => exact execDbgMem_keeps h (k .free rfl) (k .mem rfl) (k .out rfl) (k .pow rfl)
  | dbgScan _ => exact execDbgScan_keeps h (k .out rfl) (k .pow rfl)
  | dbgBist _ => exact execDbgBist_keeps h (k .out rfl) (k .pow rfl)
  | porNAssert => exact execPorNAssert_keeps h (k .dict rfl) (k .ep rfl) (k .fab rfl) (k .free rfl) (k .integ rfl) (k .led rfl) (k .mem rfl) (k .now rfl) (k .obs rfl) (k .out rfl) (k .part rfl) (k .port rfl) (k .pow rfl) (k .sec rfl) (k .time rfl) (k .vs rfl)
  | porNDeassert _ _ => exact execPorNDeassert_keeps h (k .free rfl) (k .integ rfl) (k .led rfl) (k .now rfl) (k .obs rfl) (k .pow rfl) (k .sec rfl) (k .time rfl)
  | firmwareDistribute _ => exact execFirmwareDistribute_keeps h (k .dict rfl) (k .ep rfl) (k .fab rfl) (k .integ rfl) (k .led rfl) (k .mem rfl) (k .obs rfl) (k .out rfl) (k .part rfl) (k .port rfl) (k .pow rfl) (k .time rfl) (k .vs rfl)
  | configStoreWrite _ => exact execConfigStoreWrite_keeps h (k .integ rfl) (k .obs rfl) (k .pow rfl)
  | pwrfailNAssert _ _ => exact execPwrfailNAssert_keeps h (k .ep rfl) (k .free rfl) (k .integ rfl) (k .led rfl) (k .obs rfl) (k .out rfl) (k .port rfl) (k .pow rfl)
  | temperatureSample _ _ => exact execTemperatureSample_keeps h (k .ep rfl) (k .integ rfl) (k .led rfl) (k .obs rfl) (k .out rfl) (k .port rfl) (k .pow rfl)
  | throttleStep _ => exact execThrottleStep_keeps h (k .integ rfl) (k .obs rfl) (k .pow rfl)
  | throttleNAssert => exact execThrottleNAssert_keeps h (k .integ rfl) (k .obs rfl) (k .pow rfl)
  | throttleNDeassert => exact execThrottleNDeassert_keeps h (k .pow rfl)
  | powerGovernor _ _ => exact execPowerGovernor_keeps h (k .integ rfl) (k .now rfl) (k .obs rfl) (k .pow rfl)
  | droop _ => exact execDroop_keeps h (k .integ rfl) (k .obs rfl) (k .pow rfl)
  | droopRestore _ => exact execDroopRestore_keeps h (k .now rfl) (k .pow rfl)
  | railSetpoint _ _ _ => exact execRailSetpoint_keeps h (k .dict rfl) (k .ep rfl) (k .fab rfl) (k .free rfl) (k .integ rfl) (k .led rfl) (k .mem rfl) (k .obs rfl) (k .out rfl) (k .part rfl) (k .port rfl) (k .pow rfl) (k .sec rfl) (k .time rfl) (k .vs rfl)
  | railSettle _ _ => exact execRailSettle_keeps h (k .dict rfl) (k .integ rfl) (k .now rfl) (k .obs rfl) (k .out rfl) (k .pow rfl)
  | pmbusPoll _ _ _ => exact execPmbusPoll_keeps h (k .integ rfl) (k .obs rfl) (k .out rfl) (k .pow rfl)
  | pmbusAlert _ _ _ => exact execPmbusAlert_keeps h (k .integ rfl) (k .obs rfl) (k .out rfl) (k .pow rfl)
  | warmReset _ _ => exact execWarmReset_keeps h (k .dict rfl) (k .ep rfl) (k .fab rfl) (k .free rfl) (k .integ rfl) (k .led rfl) (k .mem rfl) (k .obs rfl) (k .out rfl) (k .part rfl) (k .port rfl) (k .pow rfl) (k .sec rfl) (k .time rfl) (k .vs rfl)
  | dieReset _ _ _ => exact execDieReset_keeps h (k .dict rfl) (k .ep rfl) (k .fab rfl) (k .free rfl) (k .integ rfl) (k .led rfl) (k .mem rfl) (k .obs rfl) (k .out rfl) (k .part rfl) (k .port rfl) (k .pow rfl) (k .sec rfl) (k .time rfl) (k .vs rfl)
  | islandReset _ _ => exact execIslandReset_keeps h (k .dict rfl) (k .ep rfl) (k .fab rfl) (k .free rfl) (k .integ rfl) (k .led rfl) (k .mem rfl) (k .obs rfl) (k .out rfl) (k .part rfl) (k .port rfl) (k .pow rfl) (k .sec rfl) (k .time rfl) (k .vs rfl)
  | fwUpdate _ _ _ => exact execFwUpdate_keeps h (k .dict rfl) (k .ep rfl) (k .fab rfl) (k .free rfl) (k .integ rfl) (k .led rfl) (k .mem rfl) (k .obs rfl) (k .out rfl) (k .part rfl) (k .port rfl) (k .pow rfl) (k .sec rfl) (k .time rfl) (k .vs rfl)
  | fwCommitB _ _ => exact execFwCommitB_keeps h (k .dict rfl) (k .ep rfl) (k .fab rfl) (k .free rfl) (k .integ rfl) (k .led rfl) (k .mem rfl) (k .obs rfl) (k .out rfl) (k .part rfl) (k .port rfl) (k .pow rfl) (k .sec rfl) (k .time rfl) (k .vs rfl)
  | linkRetrain _ _ _ => exact execLinkRetrain_keeps h (k .ep rfl) (k .fab rfl) (k .integ rfl) (k .mem rfl) (k .obs rfl) (k .out rfl) (k .port rfl) (k .pow rfl) (k .time rfl) (k .vs rfl)
  | linkCrcRetry _ _ => exact execLinkCrcRetry_keeps h (k .fab rfl)
  | channelFailed _ => exact execChannelFailed_keeps h (k .integ rfl) (k .led rfl) (k .obs rfl) (k .out rfl) (k .port rfl) (k .pow rfl)
  | channelReturn _ => exact execChannelReturn_keeps h (k .integ rfl) (k .led rfl) (k .obs rfl) (k .out rfl) (k .port rfl) (k .pow rfl)
  | hbmTemperatureReadout _ _ => exact execHbmTemperatureReadout_keeps h (k .ep rfl) (k .integ rfl) (k .led rfl) (k .obs rfl) (k .out rfl) (k .port rfl) (k .pow rfl)
  | canBusError _ _ _ => exact execCanBusError_keeps h (k .dict rfl)

/-- What a step starts from: the command at the front has left the queue. -/
def popped (s : State) : State :=
  match s.pending with
  | [] => s
  | _ :: rest => { s with pending := rest }

/-- The same of a step, which may change every part. -/
theorem step_keeps (s : State) : KeepsO ⟨fun _ => true, popped s⟩ (step s) := by
  cases h : s.pending with
  | nil =>
    simp only [step, popped, h]
    refine background_keeps ?_ rfl rfl rfl rfl rfl rfl rfl rfl rfl rfl rfl rfl rfl rfl rfl rfl
    exact ⟨h.symm, id, id, ⟨Nat.le_refl _, fun _ => Nat.le_refl _⟩, Nat.le_refl _, List.prefix_rfl, fun p hp => by cases hp⟩
  | cons c rest =>
    simp only [step, popped, h]
    exact exec_keeps _ (Keeps.refl _ _) fun _ _ => rfl

end Sys2Proof.Machine
end

