-- ==== Sys2Proof/Laws/Report.lean ====
section
/-!
SUPPORT. Laws/Report.lean: what a report does (R352), and what operations leave unchanged that a walk's reach tells (Laws/Keep.lean).
-/
namespace Sys2Proof.Machine

/-- Every part may change but one. -/
def allBut (q : Part) : Part → Bool := fun p => decide (p ≠ q)

/-- An operation that keeps everything outside one part leaves that part. -/
theorem Keeps.rest {q : Part} {s t : State} (h : Keeps ⟨allBut q, s⟩ t) : q.same s t := h.within q (by simp [allBut])

/-- A report reaches the log's input, its die's holding list, or the count of dropped ones. -/
theorem report_reported (s : State) (r : Report) : Reported s (report s r) r.cause r.cls := by
  have he : ∀ n u ty p l e, (event s n u ty p l e).integ = s.integ := fun n u ty p l e => (event_keeps (Keeps.refl (allBut .integ) s)).rest

  unfold report
  dsimp only
  refine ⟨{ r with
    partition := r.partition.orElse fun _ => ownerOfNode s r.source, epoch := r.epoch.orElse fun _ => some (s.ep.count % 4), time := s.now },
    rfl, rfl, ?_⟩
  split
  · left
    simp only [modInteg_integ, he]
  · right
    split
    · left
      exact ⟨dieOf r.source, by simp only [modInteg_integ, he]⟩
    · right
      simp only [modInteg_integ, he]

end Sys2Proof.Machine
end

