-- ==== Sys2Proof/Tests/Slice0.lean ====
section
/-!
SUPPORT. Tests/Slice0.lean: ill-formed commands refused, one-step tests whose expected results stand in the spec, and for each statement with hypotheses
a theorem that gives, for each of its clauses, a concrete state and operands that meet them together.
-/
namespace Sys2Proof.Tests
open Sys2Proof Sys2Proof.Machine
set_option Elab.async false

/-- The next state of an outcome. -/
def outState (o : Host.Outcome State Fault Refusal) (s : State) : State := match o with | .next t => t | _ => s

/-! ### What the hypotheses of the statements unfold to, as tests that can be evaluated -/

/-- Takes, tested. -/
def takenState (s : State) (node : NodeId) (p : Packet) : Option State :=
  if tileUp s node.toNat && p.dest == node then takeArrived s node.toNat p else none

theorem takes_of {s u : State} {node : NodeId} {p : Packet} (h : takenState s node p = some u) : Takes s node p u := by
  unfold takenState at h
  split at h
  · rename_i c; rw [Bool.and_eq_true] at c; exact ⟨c.1, by simpa using c.2, h⟩
  · cases h

/-- Accepts, tested. -/
def accState (s : State) (node : NodeId) (p : Packet) (later : Bool) : Option State :=
  match takenState s node p with
  | none => none
  | some a =>
    match (if p.opening then rxOpen a node.toNat p else some a) with
    | none => none
    | some b =>
      match (rxOf b node.toNat).find? (rxKey p) with
      | some e =>
        if packetFault p = none ∧ e.sgen = p.sgen.toNat ∧ e.broken = false ∧ e.expected = p.seq.toNat then some (rxAccept b node.toNat p later) else none
      | none => none

theorem accepts_of' {s u : State} {node : NodeId} {p : Packet} {l : Bool} (h : accState s node p l = some u) : Accepts s node p l u := by
  unfold accState at h
  split at h
  · cases h
  · rename_i a ha
    split at h
    · cases h
    · rename_i b hb
      split at h
      · rename_i e he
        split at h
        · rename_i c
          injection h with h
          exact ⟨a, b, takes_of ha, ⟨hb, c.1, e, he, c.2⟩, h.symm⟩
        · cases h
      · cases h

/-- Firmware runs on every die. -/
def ready : State :=
  { State.reset with pow := { State.reset.pow with booting := false, fw := (List.range 20).map fun d => (d, 1) } }
/-- Ground values in force: entries of the epoch in force, by 256 × index + subindex. -/
def withCfg (s : State) (l : Table Bytes) : State :=
  { s with ep := { s.ep with cur := { s.ep.cur with cfg := l.foldl (fun t e => tput t e.1 e.2) s.ep.cur.cfg } } }
/-- RW values written, by the same keys. -/
def withRw (s : State) (l : Table Bytes) : State :=
  { s with dict := { s.dict with rw := l.foldl (fun t e => tput t e.1 e.2) s.dict.rw } }
/-- A change to the power state. -/
def withPow (s : State) (f : PowState → PowState) : State := { s with pow := f s.pow }
/-- A packet that opens a stream. -/
def pkt (op dest src : Nat) (payload : Bytes) (addr : Nat := 0) : Packet :=
  { opcode := BitVec.ofNat 8 op, dest := BitVec.ofNat 12 dest, src := BitVec.ofNat 12 src, opening := true, payload := payload
    length := BitVec.ofNat 13 payload.length, addr := BitVec.ofNat 48 addr }
/-- The state in which the packet has left the arrivals. -/
def taken (s : State) (n : Nat) (p : Packet) : State := (takeArrived s n p).getD s
/-- A tile's time unit. -/
def unit (s : State) (n : Nat) (u : TimeUnit) : State := { s with time := { s.time with units := tput s.time.units n u } }
/-- Partition 1: vats 0 and 1, port 0, sync cells, multicast groups and reduction groups 0 to 7. -/
def part1 : Nat := 1 + 2 * 2 ^ 8 + 2 ^ 16 + 8 * 2 ^ 48 + 8 * 2 ^ 80 + 8 * 2 ^ 112
/-- A model slot record of partition 1. -/
def slotRec : Bytes := leBytes 8 0x200000000000 ++ zeros 8 ++ leBytes 8 0x200000100000 ++ zeros 8 ++ leBytes 4 1 ++ [0, 0, 1] ++ zeros 9
/-- Firmware runs, and the epoch in force holds partition 1 and its slot 0. -/
def owned : State := withCfg ready [(0x5021 * 256 + 1, leBytes 16 part1), (0x5041 * 256 + 1, slotRec)]
/-- A change to the epochs. -/
def epS (s : State) (f : Epochs → Epochs) : State := { s with ep := f s.ep }
/-- A change to the partitions. -/
def partS (s : State) (f : PartState → PartState) : State := { s with part := f s.part }
/-- A change to the time state. -/
def tm (s : State) (f : TimeState → TimeState) : State := { s with time := f s.time }
/-- A change to the integrity state. -/
def integS (s : State) (f : Integrity → Integrity) : State := { s with integ := f s.integ }
/-- A port set. -/
def portSt (s : State) (n : Nat) (p : Port) : State := { s with port := { s.port with ports := tput s.port.ports n p } }
/-- A descriptor of 64 bytes. -/
def descOf (op part slot : Nat) (l : Table Bytes := []) : Bytes :=
  let d := leBytes 128 (op + part * 2 ^ 8 + slot * 2 ^ 12)
  l.foldl (fun d e => d.take e.1 ++ e.2 ++ d.drop (e.1 + e.2.length)) d
/-- A port that holds one request. -/
def reqSt (s : State) (n : Nat) (r : Request) : State :=
  portSt s n { portOf s n with reqs := [r], nextReq := r.num + 1, up := true }
/-- A model slot set. -/
def slotSt (s : State) (p k : Nat) (x : Slot) : State := partS s fun t => { t with slots := tput t.slots (4 * p + k) x }
/-- A change to the dictionary state. -/
def dictS (s : State) (f : DictState → DictState) : State := { s with dict := f s.dict }
/-- A change to the security state. -/
def secS (s : State) (f : SecState → SecState) : State := { s with sec := f s.sec }
/-- A client at port 0's mailbox with an open session of a role. -/
def client (s : State) (role : Nat) : State :=
  dictS (portSt s 0 { portOf s 0 with up := true }) fun d =>
    { d with sessions := [(7, { ep := 2, role := role, partition := 0, client := 5, openedAt := 0, lastAt := 0 })] }
/-- A message to port 0's mailbox under a client's tag and session. -/
def req : Req := { ep := 2, tag := 5 * 1024 + 3, session := 7 }
/-- Its caller in a role. -/
def me (role : Nat) : Caller := { ep := 2, client := 5, session := 7, role := role }
/-- A ledger engine set. -/
def ledS (s : State) (k : Nat) (l : Ledger) : State := { s with led := { s.led with engines := tput s.led.engines k l } }
/-- An admission engine set. -/
def admS (s : State) (n : Nat) (a : Admission) : State := { s with port := { s.port with adm := tput s.port.adm n a } }
/-- A vat set. -/
def vatS (s : State) (d : Nat) (v : Vat) : State := { s with vs := { s.vs with vats := tput s.vs.vats d v } }
/-- The state in which the packet is accepted. -/
def accU (s : State) (n : NodeId) (p : Packet) (l : Bool) : State := (accState s n p l).getD s

theorem accepts_of {s : State} {node : NodeId} {p : Packet} {l : Bool} (h : (accState s node p l).isSome = true) : Accepts s node p l (accU s node p l) := by
  obtain ⟨u, hu⟩ := Option.isSome_iff_exists.mp h
  have : accU s node p l = u := by simp [accU, hu]
  rw [this]; exact accepts_of' hu

theorem taken_of {s : State} {node : NodeId} {p : Packet}
    (h : (tileUp s node.toNat && p.dest == node && (takeArrived s node.toNat p).isSome) = true) : Takes s node p (taken s node.toNat p) := by
  rw [Bool.and_eq_true, Bool.and_eq_true] at h
  obtain ⟨u, hu⟩ := Option.isSome_iff_exists.mp h.2
  exact ⟨h.1.1, by simpa using h.1.2, by simp [taken, hu]⟩

theorem permitted_of {s : State} {c : Caller} {i u n : Nat} (h : (match writeEntry s c i u n with | .inr _ => true | _ => false) = true) :
    Permitted s c i u n := by
  revert h
  cases hw : writeEntry s c i u n with
  | inl => intro h; cases h
  | inr e => intro _; exact ⟨e, hw⟩

/-- Heard, tested. -/
def heard (s : State) (r : Req) (c : Caller) : Bool :=
  ttpUp s r.ep.val && (inboxOf s r.ep.val).isEmpty &&
    s.dict.transfers.all (fun x => x.ep != r.ep.val || decide (s.now ≤ x.lastAt + segLimit s)) && decide (clientOf r.tag.toNat ≠ 0) &&
    decide (c.ep = r.ep.val ∧ c.client = clientOf r.tag.toNat ∧ c.session = r.session.toNat) &&
    (decide (c.session = 0 ∧ c.role = 0 ∧ c.part = 0) ||
      (decide (0 < c.session ∧ c.session < 64) && (match tget s.dict.sessions c.session with
        | some x => decide (x.ep = c.ep ∧ x.role = c.role ∧ x.partition = c.part ∧ s.now < x.lastAt + 1000000000 * setting s 0x1102 0)
        | none => false)))

theorem heard_of {s : State} {r : Req} {c : Caller} (h : heard s r c = true) : Heard s r c := by
  unfold heard at h
  simp only [Bool.and_eq_true, Bool.or_eq_true, decide_eq_true_eq, List.isEmpty_iff] at h
  obtain ⟨⟨⟨⟨⟨h1, h2⟩, h3⟩, h4⟩, h5⟩, h6⟩ := h
  refine ⟨h1, h2, h3, h4, h5.1, h5.2.1, h5.2.2, ?_⟩
  rcases h6 with h6 | ⟨h6, h7⟩
  · exact Or.inl h6
  · refine Or.inr ⟨h6.1, h6.2, ?_⟩
    split at h7
    · rename_i x hx
      exact ⟨x, hx, of_decide_eq_true h7⟩
    · cases h7

theorem speaks_of {s : State} {r : Req} {c : Caller}
    (h : (heard s r c && decide (transferOf s r.ep.val r.tag.toNat = none) && !transfersFull s r.ep.val) = true) : Speaks s r c := by
  simp only [Bool.and_eq_true, decide_eq_true_eq, Bool.not_eq_true'] at h
  exact ⟨heard_of h.1.1, h.1.2, h.2⟩

theorem sync_at_of {s : State} {node : NodeId} {p : Packet} {k d c : Nat}
    (h : ((accState s node p false).isSome && decide (p.opcode = 3) && opClean (leNat p.payload) && decide (cellTile k = node.toNat) &&
      windowOk (accU s node p false) p p.addr.toNat 1 2 && !tableBad (accU s node p false) node.toNat 1 p.partition.toNat &&
      decide (decodeAddr p.addr.toNat = some (.syncCell d c 0) ∧ k = 256 * d + c)) = true) : SyncAt s node p k (accU s node p false) := by
  simp only [Bool.and_eq_true, decide_eq_true_eq, Bool.not_eq_true'] at h
  obtain ⟨⟨⟨⟨⟨⟨h1, h2⟩, h3⟩, h4⟩, h5⟩, h6⟩, h7⟩ := h
  exact ⟨accepts_of h1, h2, h3, h4, h5, Or.inl h6, d, c, h7⟩

/-- Begins, tested. -/
def begins (s : State) (x : Fibre) (c : OpCtx) : Bool :=
  decide (fibreAt s c.d c.slice c.slot = some x) && decide (x.state = 1) && dieUp s c.d && decide (x.opIndex < 255) &&
    decide (x.program + 64 * x.opIndex + 64 ≤ 0x180000) && decide (x.desc ≠ []) && decide (c.x = x) &&
    decide (c.desc.raw = leNat c.x.desc ∧ c.a = resolveAddr s c.d c.slice c.x c.desc.addrA ∧ c.b = resolveAddr s c.d c.slice c.x c.desc.addrB ∧
      c.o = resolveAddr s c.d c.slice c.x c.desc.addrOut)

theorem begins_of {s : State} {x : Fibre} {c : OpCtx} (h : begins s x c = true) : Begins s x c := by
  unfold begins at h
  simp only [Bool.and_eq_true, decide_eq_true_eq] at h
  obtain ⟨⟨⟨⟨⟨⟨⟨h1, h2⟩, h3⟩, h4⟩, h5⟩, h6⟩, h7⟩, h8⟩ := h
  exact ⟨h1, Or.inl h2, h3, h4, h5, Or.inr ⟨h6, h7⟩, h8⟩

theorem executes_of {s : State} {d op w : Nat}
    (h : decide ((seqOf s d).state = 2 ∧ (seqOf s d).wait = none ∧ dieUp s d = true ∧ (seqOf s d).badWords.contains (seqOf s d).pc = false ∧
      w = ((seqOf s d).prog.getD (seqOf s d).pc 0).toNat ∧ bits w 31 26 = op ∧ (seqOf s d).posted = none ∧ (seqOf s d).stopping = false) = true) :
    Executes s d op w := by
  unfold Executes
  exact of_decide_eq_true h

namespace Board

def unl (s : Machine.State) (scan : Nat) : Machine.State := { s with sec := { s.sec with unlock := some (30, 1000), scan := scan } }
def railS : Machine.State := withPow (withRw ready [(0x9010 * 256, leBytes 4 0x10102)]) (fun p => { p with rails := [(0, { settle := some (750, 100) })] })
def sd : Machine.State := withPow ready (fun p => { p with storeDue := some 5 })

theorem witness_boundary_scan_completes :
    (∃ (s : Machine.State),
      (s.pow.por = false)) ∧
    (∃ (s : Machine.State),
      (s.pow.por = false)) ∧
    (∃ (s : Machine.State),
      (s.pow.por = false)) ∧
    (∃ (s : Machine.State),
      (s.pow.por = false)) ∧
    (∃ (s : Machine.State),
      (s.pow.por = false)) ∧
    (∃ (s : Machine.State) (tdi : Bytes),
      (s.pow.por = false) ∧ (List.length tdi = 4)) :=
  ⟨⟨ready, by decide +kernel⟩,
    ⟨ready, by decide +kernel⟩,
    ⟨ready, by decide +kernel⟩,
    ⟨ready, by decide +kernel⟩,
    ⟨ready, by decide +kernel⟩,
    ⟨ready, [1,2,3,4], by decide +kernel⟩⟩

theorem witness_debug_instructions_answer :
    (∃ (s : Machine.State),
      (s.pow.por = false) ∧ (bitAt (scopes s) 1 = false)) ∧
    (∃ (s : Machine.State),
      (s.pow.por = false) ∧ (bitAt (scopes s) 2 = false)) ∧
    (∃ (s : Machine.State),
      (s.pow.por = false) ∧ ((bitAt (scopes s) 3 && s.sec.scan == 3) = false)) ∧
    (∃ (s : Machine.State),
      (s.pow.por = false) ∧ (bitAt (scopes s) 4 = false)) ∧
    (∃ (s : Machine.State),
      (s.pow.por = false) ∧ (bitAt (scopes s) 1 = true)) ∧
    (∃ (s : Machine.State),
      (s.pow.por = false) ∧ (bitAt (scopes s) 2 = true)) ∧
    (∃ (s : Machine.State),
      (s.pow.por = false) ∧ (bitAt (scopes s) 3 = true) ∧ (s.sec.scan = 3)) ∧
    (∃ (s : Machine.State),
      (s.pow.por = false) ∧ (bitAt (scopes s) 4 = true)) :=
  ⟨⟨ready, by decide +kernel⟩,
    ⟨ready, by decide +kernel⟩,
    ⟨ready, by decide +kernel⟩,
    ⟨ready, by decide +kernel⟩,
    ⟨unl ready 0, by decide +kernel⟩,
    ⟨unl ready 0, by decide +kernel⟩,
    ⟨unl ready 3, by decide +kernel⟩,
    ⟨unl ready 0, by decide +kernel⟩⟩

theorem witness_power_responses_complete :
    (∃ (s : Machine.State),
      (s.pow.throttle = false) ∧ (s.pow.por = false)) ∧
    (∃ (s : Machine.State) (d : DieId),
      (dieUp s d.val = true)) ∧
    (∃ (s : Machine.State) (d : DieId) (x : Tick),
      (tget s.pow.droop d.val = some x)) ∧
    (∃ (s : Machine.State) (mw : BitVec 32),
      (s.pow.por = false) ∧ (mw.toNat ≤ 1000 * setting s 36865 0) ∧ (mw.toNat ≤ 1100000)) :=
  ⟨⟨ready, by decide +kernel⟩,
    ⟨ready, (3 : DieId), by decide +kernel⟩,
    ⟨withPow ready (fun p => { p with droop := [(3, 1000)] }), (3 : DieId), 1000, by decide +kernel⟩,
    ⟨ready, 500000#32, by decide +kernel⟩⟩

theorem witness_thermal_and_power_fail_complete :
    (∃ (s : Machine.State) (x : BitVec 16),
      (s.pow.por = false) ∧ (x.toInt < 110 * 8)) ∧
    (∃ (s : Machine.State) (x : BitVec 16),
      (s.pow.por = false) ∧ (110 * 8 ≤ x.toInt)) ∧
    (∃ (s : Machine.State) (x : BitVec 16),
      (s.pow.por = false) ∧ (x.toInt < 105 * 8)) ∧
    (∃ (s : Machine.State) (d : DieId),
      (s.pow.por = false) ∧ (Int.ofNat (setting s 36962 0) * 8 ≤ tgetD s.pow.temps (d.val) 0)) ∧
    (∃ (s : Machine.State) (ns : BitVec 16),
      (s.pow.por = false) ∧ (s.pow.pwrfail = false) ∧ (1000 ≤ ns.toNat)) ∧
    (∃ (s : Machine.State) (ns : BitVec 16),
      (s.pow.por = false) ∧ (ns.toNat < 200)) :=
  ⟨⟨ready, 800#16, by decide +kernel⟩,
    ⟨ready, 880#16, by decide +kernel⟩,
    ⟨ready, 760#16, by decide +kernel⟩,
    ⟨withPow ready (fun p => { p with temps := [(3, 800)] }), (3 : DieId), by decide +kernel⟩,
    ⟨ready, 1000#16, by decide +kernel⟩,
    ⟨ready, 199#16, by decide +kernel⟩⟩

theorem witness_rail_commands_complete :
    (∃ (s : Machine.State) (r : RailId) (mv : Nat) (x : Nat) (v : BitVec 16),
      (pmbusUp s = true) ∧ ((railOf s r.val).settle = some (mv, x)) ∧ (railPresent s r.val = true) ∧ (v.toNat ≤ mv + 10) ∧ (mv ≤ v.toNat + 10) ∧ (s.now ≤ x)) ∧
    (∃ (s : Machine.State) (r : RailId) (mv : Nat) (x : Nat) (v : BitVec 16),
      (pmbusUp s = true) ∧ ((railOf s r.val).settle = some (mv, x)) ∧ (v.toNat + 10 < mv ∨ mv + 10 < v.toNat)) ∧
    (∃ (s : Machine.State) (r : RailId),
      (pmbusUp s = true) ∧ (railPresent s r.val = true)) ∧
    (∃ (s : Machine.State) (r : RailId),
      (pmbusUp s = true) ∧ (railPresent s r.val = true)) ∧
    (∃ (s : Machine.State) (r : RailId),
      (pmbusUp s = true) ∧ (railPresent s r.val = true)) :=
  ⟨⟨railS, (0 : RailId), 750, 100, 755#16, by decide +kernel⟩,
    ⟨railS, (0 : RailId), 750, 100, 770#16, by decide +kernel⟩,
    ⟨railS, (0 : RailId), by decide +kernel⟩,
    ⟨railS, (0 : RailId), by decide +kernel⟩,
    ⟨railS, (0 : RailId), by decide +kernel⟩⟩

theorem witness_package_reset_completes :
    (∃ (s : Machine.State),
      (s.pow.por = false)) ∧
    (∃ (s : Machine.State),
      (s.pow.por = true)) ∧
    (∃ (s : Machine.State) (d : DieId),
      (s.pow.por = false) ∧ (s.pow.booting = false) ∧ (mgmtUp s = true) ∧ (dieUp s d.val = true) ∧ (16 ≤ d.val → engineUp s (d.val - 16) = true)) ∧
    (∃ (s : Machine.State),
      (s.pow.storeDue.isSome = true) ∧ (mgmtUp s = true)) ∧
    (∃ (s : Machine.State),
      (s.pow.storeDue.isSome = true) ∧ (mgmtUp s = true)) :=
  ⟨⟨ready, by decide +kernel⟩,
    ⟨outState (Sys2Proof.Machine.execPorNAssert ready) ready, by decide +kernel⟩,
    ⟨ready, (3 : DieId), by decide +kernel⟩,
    ⟨sd, by decide +kernel⟩,
    ⟨sd, by decide +kernel⟩⟩

end Board

namespace Time

def dr : Packet := pkt 0x47 130 131 (2 :: List.replicate 31 0)
def dp : Packet := pkt 0x47 130 131 (3 :: List.replicate 11 0 ++ leBytes 10 (2000*65536) ++ leBytes 10 (2100*65536))
def tsp : Packet := pkt 0x47 130 131 (1 :: 0 :: 0 :: 4 :: List.replicate 18 0 ++ leBytes 10 (2100*65536))
def tsS : Machine.State := unit ready 130 { parent := 2, haveDelay := true, delay := 655360, state := 1 }
def pw : Machine.State := withRw ready [(0x2860*256+4, [1])]
def lk (st : Nat) : Machine.State := { withRw ready [(0x2006*256, [1])] with fab := { ready.fab with links := [(linkKey 137 2, st)] } }
def bd (s : Machine.State) (n : Nat) : Machine.State := tm s fun t => { t with bounds := [(n, { state := 0 })] }

theorem witness_fabric_time_commands_complete_1 :
    (∃ (s : Machine.State),
      (s.time.master = 16) ∧ (s.time.masterState ≠ 1) ∧ (dieUp s 16 = true)) ∧
    (∃ (s : Machine.State),
      (s.time.master = 16) ∧ (dieUp s 16 = true)) ∧
    (∃ (s : Machine.State) (n : NodeId) (u : TimeUnit),
      (unitAt s (BitVec.toNat n) = u) ∧ (u.state = 0) ∧ (BitVec.toNat n ≠ masterTile s) ∧ (tileUp s (BitVec.toNat n) = true)) ∧
    (∃ (s : Machine.State) (n : NodeId) (u : TimeUnit),
      (unitAt s (BitVec.toNat n) = u) ∧ (u.state = 1) ∧ (BitVec.toNat n ≠ masterTile s) ∧ (tileUp s (BitVec.toNat n) = true)) ∧
    (∃ (s : Machine.State) (n : NodeId),
      (tileUp s (BitVec.toNat n) = true)) ∧
    (∃ (s : Machine.State) (n : NodeId) (m : Nat),
      (tileUp s (BitVec.toNat n) = true) ∧ (neighbour (BitVec.toNat n) (unitAt s (BitVec.toNat n)).parent = some m)) ∧
    (∃ (s : Machine.State) (n : NodeId) (p : Packet) (u : Machine.State),
      (Takes s n p u) ∧ (p.opcode = 71) ∧ (timeKind p = 2)) ∧
    (∃ (s : Machine.State) (n : NodeId) (p : Packet) (u : Machine.State) (t1 : Nat),
      (Takes s n p u) ∧ (p.opcode = 71) ∧ (timeKind p = 3) ∧ (fromParent s (BitVec.toNat n) p = true) ∧ ((unitAt s (BitVec.toNat n)).t1 = some t1)) :=
  ⟨⟨ready, by decide +kernel⟩,
    ⟨ready, by decide +kernel⟩,
    ⟨unit ready 130 { state := 0 }, 130#12, { state := 0 }, by decide +kernel⟩,
    ⟨unit ready 130 { state := 1 }, 130#12, { state := 1 }, by decide +kernel⟩,
    ⟨ready, 130#12, by decide +kernel⟩,
    ⟨unit ready 130 { parent := 2 }, 130#12, 131, by decide +kernel⟩,
    ⟨ready, 130#12, dr, taken ready 130 dr, takes_of (by decide +kernel), by decide +kernel⟩,
    ⟨unit ready 130 { parent := 2, t1 := some (1000*65536) }, 130#12, dp, taken ( unit ready 130 { parent := 2, t1 := some (1000*65536) }) 130 dp, 1000*65536, takes_of (by decide +kernel), by decide +kernel⟩⟩

theorem witness_fabric_time_commands_complete_2 :
    (∃ (s : Machine.State) (n : NodeId) (p : Packet) (a : BitVec 80) (u : Machine.State) (e : Int),
      (Takes s n p u) ∧ (p.opcode = 71) ∧ (timeKind p = 1) ∧ (fromParent s (BitVec.toNat n) p = true) ∧ ((unitAt s (BitVec.toNat n)).haveDelay = true) ∧ (e = Int.ofNat a.toNat - (Int.ofNat (timeTx p) + (unitAt s (BitVec.toNat n)).delay)) ∧ ((unitAt s (BitVec.toNat n)).state ≤ 1) ∧ (e.natAbs ≤ 65536)) ∧
    (∃ (s : Machine.State),
      (mgmtUp s = true) ∧ (s.time.master = 16 ∨ s.time.master = 18)) :=
  ⟨⟨tsS, 130#12, tsp, 138285060#80, taken tsS 130 tsp, (138285060 - (2100*65536+655360) : Int), takes_of (by decide +kernel), by decide +kernel⟩,
    ⟨ready, by decide +kernel⟩⟩

theorem witness_wall_time_commands_complete :
    (∃ (s : Machine.State) (w : BitVec 16),
      (100 ≤ w.toNat) ∧ (setting s 10336 4 ≠ 0) ∧ (s.time.master = 16) ∧ (dieUp s 16 = true) ∧ (s.time.pps ≠ 4) ∧ (1000000 < (ppsError s).natAbs)) ∧
    (∃ (s : Machine.State) (w : BitVec 16),
      (100 ≤ w.toNat) ∧ (setting s 10336 4 ≠ 0) ∧ (s.time.master = 16) ∧ (dieUp s 16 = true) ∧ (s.time.pps ≠ 4) ∧ ((ppsError s).natAbs ≤ 1000000)) ∧
    (∃ (s : Machine.State),
      (s.time.pps = 1 ∨ s.time.pps = 2)) ∧
    (∃ (s : Machine.State) (n : NodeId),
      (dieUp s (dieOf (BitVec.toNat n)) = true) ∧ (dieKHz s (dieOf (BitVec.toNat n)) < setting s 10241 (dieOf (BitVec.toNat n) + 1))) :=
  ⟨⟨tm pw (fun t => { t with wallBase := 5000000}), 100#16, by decide +kernel⟩,
    ⟨tm pw (fun t => { t with wallBase := 500000}), 100#16, by decide +kernel⟩,
    ⟨tm ready (fun t => { t with pps := 1}), by decide +kernel⟩,
    ⟨withPow ready (fun p => { p with droop := [(0, 1000)] }), 130#12, by decide +kernel⟩⟩

theorem witness_link_and_boundary_commands_complete_1 :
    (∃ (s : Machine.State) (n : NodeId) (port : InPort) (m : Nat) (gt32 : Bool),
      (neighbour (BitVec.toNat n) port.val = some m) ∧ (isDieLink (BitVec.toNat n) port.val = true) ∧ (aliveLow s (BitVec.toNat n) = false) ∧ (aliveLow s m = false) ∧ (linkState s (BitVec.toNat n) port.val = 1 ∨ linkState s (BitVec.toNat n) port.val = 6) ∧ (gt32 = false → setting s 8198 0 ≠ 0)) ∧
    (∃ (s : Machine.State) (n : NodeId) (port : InPort) (m : Nat),
      (neighbour (BitVec.toNat n) port.val = some m) ∧ (isDieLink (BitVec.toNat n) port.val = true) ∧ (linkState s (BitVec.toNat n) port.val = 2 ∨ linkState s (BitVec.toNat n) port.val = 4)) ∧
    (∃ (s : Machine.State) (n : NodeId) (port : InPort) (m : Nat),
      (neighbour (BitVec.toNat n) port.val = some m) ∧ (isDieLink (BitVec.toNat n) port.val = true) ∧ (linkState s (BitVec.toNat n) port.val = 3)) ∧
    (∃ (s : Machine.State) (n : NodeId) (port : InPort) (m : Nat),
      (neighbour (BitVec.toNat n) port.val = some m) ∧ (isDieLink (BitVec.toNat n) port.val = true) ∧ (linkState s (BitVec.toNat n) port.val = 3) ∧ (setting s 8198 0 ≠ 0)) ∧
    (∃ (s : Machine.State) (n : NodeId) (port : InPort) (m : Nat),
      (neighbour (BitVec.toNat n) port.val = some m) ∧ (isDieLink (BitVec.toNat n) port.val = true) ∧ (linkUp s (BitVec.toNat n) port.val = true)) ∧
    (∃ (s : Machine.State) (n : NodeId) (port : InPort) (m : Nat),
      (neighbour (BitVec.toNat n) port.val = some m) ∧ (isDieLink (BitVec.toNat n) port.val = true) ∧ (linkState s (BitVec.toNat n) port.val = 2 ∨ linkState s (BitVec.toNat n) port.val = 3 ∨ linkState s (BitVec.toNat n) port.val = 4)) ∧
    (∃ (s : Machine.State) (n : NodeId) (port : InPort) (m : Nat),
      (neighbour (BitVec.toNat n) port.val = some m) ∧ (aliveLow s (BitVec.toNat n) = false)) ∧
    (∃ (s : Machine.State) (n : NodeId) (port : InPort) (m : Nat),
      (neighbour (BitVec.toNat n) port.val = some m) ∧ (aliveLow s (BitVec.toNat n) = false) ∧ ((tgetD s.time.bounds (8 * BitVec.toNat n + port.val) { }).state = 0)) :=
  ⟨⟨ready, 137#12, (2 : InPort), 138, true, by decide +kernel⟩,
    ⟨lk 2, 137#12, (2 : InPort), 138, by decide +kernel⟩,
    ⟨lk 3, 137#12, (2 : InPort), 138, by decide +kernel⟩,
    ⟨lk 3, 137#12, (2 : InPort), 138, by decide +kernel⟩,
    ⟨lk 4, 137#12, (2 : InPort), 138, by decide +kernel⟩,
    ⟨lk 3, 137#12, (2 : InPort), 138, by decide +kernel⟩,
    ⟨lk 3, 137#12, (2 : InPort), 138, by decide +kernel⟩,
    ⟨bd (lk 3) (137*8+2), 137#12, (2 : InPort), 138, by decide +kernel⟩⟩

theorem witness_link_and_boundary_commands_complete_2 :
    (∃ (s : Machine.State) (n : NodeId) (port : InPort) (m : Nat),
      (neighbour (BitVec.toNat n) port.val = some m) ∧ (aliveLow s (BitVec.toNat n) = false) ∧ (aliveLow s m = false) ∧ (isDieLink (BitVec.toNat n) port.val = false) ∧ (linkState s (BitVec.toNat n) port.val = 6)) :=
    ⟨ready, 130#12, (2 : InPort), 131, by decide +kernel⟩

end Time

namespace Integrity

def rp (cls : Nat) : Report := { cause := 0x51, cls := cls, unit := 3, time := 7, dropped := 1 }
def lg (s : Machine.State) (r : Report) : Machine.State := integS s fun g => { g with reports := [r, rp 0] }
def canon : Machine.State := withRw ready [(0x1010*256+1, [1])]
def lr : LogRecord := { seq := 0, rep := rp 1, lastTime := 3 }
def hl : Machine.State := integS ready fun g => { g with held := [(3, [rp 1])], dropCount := [(3, 4)] }
def hp : HostPend := { id := 5, pkt := { pkt 1 (portFrontTile 0) 130 [] with aux := 16#32 }, addr := 64 }
def hps : Machine.State := portSt ready 0 { hostPend := [hp] }
def arming (l : List Nat) : Machine.State := epS owned fun e => { e with state := 1, reached := List.range 20, answered := l, armed := some { e.cur with count := 1 } }
def draining : Machine.State := epS owned fun e => { e with state := 3, count := 1, cur := { e.cur with count := 1 }, old := some e.cur }
def vst (st : Nat) : Machine.State := partS owned fun p => { p with vats := [(3, { state := st })] }
def undr : Machine.State := partS { owned with vs := { owned.vs with vats := [(0, { fibres := [(0, {})] })] } } fun p => { p with control := [(1, 2)] }

theorem witness_error_log_commands_complete :
    (∃ (s : Machine.State) (r : Report) (rest : List Report),
      (mgmtUp s = true) ∧ (s.integ.reports = r :: rest) ∧ (s.integ.log = []) ∧ (r.cls ≤ 1)) ∧
    (∃ (s : Machine.State) (r : Report) (rest : List Report),
      (mgmtUp s = true) ∧ (s.integ.reports = r :: rest) ∧ (3 ≤ r.cls) ∧ (s.integ.log.length < 4096)) ∧
    (∃ (s : Machine.State) (r : Report) (x : LogRecord) (rest : List Report),
      (mgmtUp s = true) ∧ (s.integ.reports = r :: rest) ∧ (s.integ.log = [x]) ∧ (coalesces s r x = true)) ∧
    (∃ (s : Machine.State) (d : DieId) (r : Report) (l : List Report),
      (mgmtUp s = true) ∧ (tgetD s.integ.held d.val [] = r :: l)) ∧
    (∃ (s : Machine.State),
      (mgmtUp s = true)) :=
  ⟨⟨lg ready (rp 1), rp 1, [rp 0], by decide +kernel⟩,
    ⟨lg canon (rp 3), rp 3, [rp 0], by decide +kernel⟩,
    ⟨integS (lg ready (rp 1)) fun g => { g with log := [lr] }, rp 1, lr, [rp 0], by decide +kernel⟩,
    ⟨hl, (3 : DieId), rp 1, [], by decide +kernel⟩,
    ⟨hl, by decide +kernel⟩⟩

theorem witness_memory_repair_commands_complete :
    (∃ (addr : BitVec 48) (e : EccErr) (d : Nat) (l : Nat) (o : Nat),
      (decodeAddr (addr.toNat / 8 * 8) = some (Region.vatSram d l o)) ∧ (e = EccErr.good)) ∧
    (∃ (s : Machine.State) (addr : BitVec 48) (e : EccErr) (d : Nat) (l : Nat) (o : Nat),
      (decodeAddr (addr.toNat / 8 * 8) = some (Region.vatSram d l o)) ∧ (e = EccErr.corrected) ∧ (s.integ.badWords.contains (addr.toNat / 8 * 8) = false)) ∧
    (∃ (addr : BitVec 48) (e : EccErr) (d : Nat) (l : Nat) (o : Nat),
      (decodeAddr (addr.toNat / 8 * 8) = some (Region.vatSram d l o)) ∧ (e = EccErr.uncorrectable)) ∧
    (∃ (s : Machine.State) (port : PortId) (id : BitVec 16) (h : HostPend),
      (List.find? (fun h => h.id == id.toNat) (portOf s port.val).hostPend = some h)) :=
  ⟨⟨0x1000#48, EccErr.good, 0, 0, 0x1000, by decide +kernel⟩,
    ⟨ready, 0x1000#48, EccErr.corrected, 0, 0, 0x1000, by decide +kernel⟩,
    ⟨0x1000#48, EccErr.uncorrectable, 0, 0, 0x1000, by decide +kernel⟩,
    ⟨hps, (0 : PortId), 5#16, hp, by decide +kernel⟩⟩

theorem witness_loss_of_die_and_management_completes :
    (∃ (s : Machine.State) (v : VatId),
      (dieUp s v.val = true)) ∧
    (∃ (s : Machine.State) (d : Deckle),
      (dieUp s (16 + d.val) = true)) ∧
    (∃ (s : Machine.State),
      (s.mgmtDie = 16) ∧ (dieUp s 16 = false) ∧ (dieUp s 18 = true) ∧ ((tget s.pow.fw 18).isSome = true)) ∧
    (∃ (s : Machine.State),
      (dieUp s 16 = false) ∧ (dieUp s 18 = false)) :=
  ⟨⟨owned, (1 : VatId), by decide +kernel⟩,
    ⟨owned, (1 : Deckle), by decide +kernel⟩,
    ⟨withPow ready fun p => { p with lost := [16] }, by decide +kernel⟩,
    ⟨withPow ready fun p => { p with lost := [16,18] }, by decide +kernel⟩⟩

theorem witness_epoch_switch_commands_complete :
    (∃ (s : Machine.State),
      (s.ep.repairDue = true) ∧ (s.ep.state = 0) ∧ (setting s 9747 0 ≠ 0) ∧ (mgmtUp s = true) ∧ (s.ep.booted = true)) ∧
    (∃ (s : Machine.State) (d : DieId),
      (s.ep.state = 1) ∧ (endpointUp s d.val = true)) ∧
    (∃ (s : Machine.State) (d : DieId),
      (s.ep.state = 1) ∧ (s.ep.reached.contains d.val = true)) ∧
    (∃ (s : Machine.State),
      (s.ep.state = 0)) ∧
    (∃ (s : Machine.State),
      (s.ep.state = 1)) ∧
    (∃ (s : Machine.State) (b : Bank),
      (s.ep.armed = some b) ∧ (s.ep.state = 2) ∧ (mgmtUp s = true)) ∧
    (∃ (s : Machine.State) (d : DieId),
      (s.ep.state = 1) ∧ (endpointUp s d.val = true) ∧ (s.ep.answered.contains d.val = false)) :=
  ⟨⟨epS (withRw owned [(0x2613*256, [1])]) fun e => { e with repairDue := true, booted := true }, by decide +kernel⟩,
    ⟨epS owned fun e => { e with state := 1, armed := some { e.cur with count := 1 } }, (3 : DieId), by decide +kernel⟩,
    ⟨arming [], (3 : DieId), by decide +kernel⟩,
    ⟨owned, by decide +kernel⟩,
    ⟨arming [], by decide +kernel⟩,
    ⟨epS (arming []) fun e => { e with state := 2 }, { (arming []).ep.cur with count := 1 }, by decide +kernel⟩,
    ⟨arming [], (3 : DieId), by decide +kernel⟩⟩

theorem witness_epoch_retirement_commands_complete_1 :
    (∃ (s : Machine.State) (n : NodeId),
      (s.ep.state = 3) ∧ (tileIn s (BitVec.toNat n) = true) ∧ (tget s.ep.latched (BitVec.toNat n) = none)) ∧
    (∃ (s : Machine.State) (n : NodeId),
      (s.ep.state = 3) ∧ (tileIn s (BitVec.toNat n) = true) ∧ ((tget s.ep.latched (BitVec.toNat n)).isSome = true) ∧ (s.ep.portsDone.contains (BitVec.toNat n) = false) ∧ (portDone s (BitVec.toNat n) = true)) ∧
    (∃ (s : Machine.State) (n : NodeId) (g : Tick),
      (s.ep.state = 3) ∧ (tget s.ep.latched (BitVec.toNat n) = some g) ∧ (tileIn s (BitVec.toNat n) = true) ∧ (s.ep.portsDone.contains (BitVec.toNat n) = false)) ∧
    (∃ (s : Machine.State) (n : NodeId),
      (s.ep.state = 3) ∧ (s.ep.retiring = true) ∧ (tileIn s (BitVec.toNat n) = true)) ∧
    (∃ (s : Machine.State) (d : DieId),
      (s.ep.state = 3) ∧ (s.ep.retiring = true) ∧ (∀ (n : Nat), n ∈ tilesOf d.val → s.ep.retired.contains n = true) ∧ (∀ (x : DieId), x ≠ d → dieUp s x.val = true → s.ep.answered.contains x.val = true) ∧ (∀ (x : VatId), vatState s x.val ≠ 1)) ∧
    (∃ (s : Machine.State) (v : VatId),
      (vatState s v.val = 2)) ∧
    (∃ (s : Machine.State) (v : VatId),
      (vatState s v.val = 2)) ∧
    (∃ (s : Machine.State) (p : PartId),
      (partControl s p.val = 1) ∧ (partDrained s p.val = true)) :=
  ⟨⟨draining, 130#12, by decide +kernel⟩,
    ⟨epS draining fun e => { e with latched := [(130, 5)] }, 130#12, by decide +kernel⟩,
    ⟨epS draining fun e => { e with latched := [(130, 5)] }, 130#12, 5, by decide +kernel⟩,
    ⟨epS draining fun e => { e with latched := [(130, 5)], retiring := true }, 130#12, by decide +kernel⟩,
    ⟨epS draining fun e => { e with retiring := true, retired := tilesOf 3, answered := (List.range 20).erase 3 }, (3 : DieId), by decide +kernel⟩,
    ⟨vst 2, (3 : VatId), by decide +kernel⟩,
    ⟨vst 2, (3 : VatId), by decide +kernel⟩,
    ⟨partS owned fun p => { p with control := [(1, 1)] }, (1 : PartId), by decide +kernel⟩⟩

theorem witness_epoch_retirement_commands_complete_2 :
    (∃ (s : Machine.State) (p : PartId),
      (partControl s p.val = 2) ∧ (partDrained s p.val = false)) ∧
    (∃ (s : Machine.State),
      (s.part.digestDue = true)) :=
  ⟨⟨undr, (1 : PartId), by decide +kernel⟩,
    ⟨owned, by decide +kernel⟩⟩

end Integrity

namespace Model

def rq (op : Nat) (l : Table Bytes := []) : Request := { num := 1, sq := 0, ordered := false, partition := 1, desc := descOf op 1 0 l, stage := .executing, aq := 0 }
def ms (op : Nat) (l : Table Bytes := []) : Machine.State := reqSt owned 0 (rq op l)
def up (ph : Nat) : Update := { port := 0, num := 1, len := 0, phase := ph }
def ch : Challenge := { ep := 2, client := 5, bytes := zeros 32, at_ := 3 }
def se : Session := { ep := 2, role := 4, partition := 0, client := 5, openedAt := 0, lastAt := 3 }
def can1 : Machine.State := withRw ready [(0x1010*256+1, [1]), (0x1013*256, [5,0])]
def fr : BitVec 29 := 0x3020000#29 + 0x155
def canf (n : Nat) : Machine.State := dictS can1 fun d => { d with canDn := { d.canDn with rxq := List.replicate n (0, { cs := 0 }), applyDue := true } }
def pu : Machine.State := portSt ready 0 { up := true }
def mbS (m : Mailbox) : Machine.State := dictS pu fun d => { d with mailboxes := [(0, m)] }

theorem witness_model_update_commands_complete_1 :
    (∃ (s : Machine.State) (n : PortId) (num : Nat) (r : Request),
      (serviceReq s (n.val) num 16 = some r) ∧ (r.started = false) ∧ (slotNamed s r = true)) ∧
    (∃ (s : Machine.State) (n : PortId) (num : Nat) (r : Request) (u : Update),
      (serviceReq s (n.val) num 17 = some r) ∧ (slotNamed s r = true) ∧ ((slotOf s r.partition r.slot).running = some u) ∧ (u.flipped = false)) ∧
    (∃ (s : Machine.State) (p : PartId) (k : ModelSlot) (data : Bytes) (u : Update) (r : Request),
      ((slotOf s p.val k.val).pending = some u) ∧ (reqOf s u.port u.num = some r) ∧ (u.phase = 1) ∧ (descStaged r.desc = false) ∧ (descCrcValid r.desc = false) ∧ (List.length data = u.len)) ∧
    (∃ (s : Machine.State) (p : PartId) (k : ModelSlot) (u : Update),
      ((slotOf s p.val k.val).pending = some u) ∧ (u.phase = 2) ∧ (engineUp s u.port = true) ∧ (u.reject = 0) ∧ (partUpdating s p.val = false) ∧ (∀ (j : Nat), j < k.val → (slotOf s (p.val) j).pending = none)) ∧
    (∃ (s : Machine.State) (p : PartId) (k : ModelSlot) (u : Update),
      ((slotOf s p.val k.val).pending = some u) ∧ (u.phase = 2) ∧ (engineUp s u.port = true) ∧ (u.reject ≠ 0)) ∧
    (∃ (s : Machine.State) (p : PartId) (k : ModelSlot) (u : Update),
      ((slotOf s p.val k.val).running = some u) ∧ (u.sent = false) ∧ (((updateVats s p.val).all fun d => match tget (tgetD s.part.vats d { }).banks (2 * k.val + otherBank s d p.val k.val) with | some gen => !generationBound s (p.val) (k.val) gen d | none => true) = true)) ∧
    (∃ (s : Machine.State) (p : PartId) (k : ModelSlot) (v : VatId) (u : Update),
      ((slotOf s p.val k.val).running = some u) ∧ (u.sent = true) ∧ (u.flipAt = none) ∧ (u.loaded.contains v.val = false) ∧ ((updateVats s p.val).contains v.val = true) ∧ (sectionsUnderWay s (field (slotRecord s.ep.cur p.val k.val) 36 1 % 64) v.val = false) ∧ ((mcOf s (field (slotRecord s.ep.cur p.val k.val) 36 1 % 64)).pruned.contains v.val = false) ∧ (sectionsMatch s (v.val) (p.val) (otherBank s v.val p.val k.val) (runningImage s (p.val) (k.val) u) = true)) ∧
    (∃ (s : Machine.State) (p : PartId) (k : ModelSlot) (u : Update) (x : Tick),
      ((slotOf s p.val k.val).running = some u) ∧ (u.flipAt = some x) ∧ (u.flipped = false)) :=
  ⟨⟨ms 0x10, (0 : PortId), 1, rq 0x10, by decide +kernel⟩,
    ⟨slotSt (ms 0x11) 1 0 { running := some (up 3) }, (0 : PortId), 1, rq 0x11, up 3, by decide +kernel⟩,
    ⟨slotSt (ms 0x10) 1 0 { pending := some (up 1) }, (1 : PartId), (0 : ModelSlot), [], up 1, rq 0x10, by decide +kernel⟩,
    ⟨slotSt (ms 0x10) 1 0 { pending := some (up 2) }, (1 : PartId), (0 : ModelSlot), up 2, by decide +kernel⟩,
    ⟨slotSt (ms 0x10) 1 0 { pending := some { up 2 with reject := 3 } }, (1 : PartId), (0 : ModelSlot), { up 2 with reject := 3 }, by decide +kernel⟩,
    ⟨slotSt (ms 0x10) 1 0 { running := some (up 3) }, (1 : PartId), (0 : ModelSlot), up 3, by decide +kernel⟩,
    ⟨slotSt (ms 0x10) 1 0 { running := some { up 3 with sent := true } }, (1 : PartId), (0 : ModelSlot), (1 : VatId), { up 3 with sent := true }, by decide +kernel⟩,
    ⟨slotSt (ms 0x10) 1 0 { running := some { up 3 with sent := true, flipAt := some 10 } }, (1 : PartId), (0 : ModelSlot), { up 3 with sent := true, flipAt := some 10 }, 10, by decide +kernel⟩⟩

theorem witness_model_update_commands_complete_2 :
    (∃ (s : Machine.State) (v : VatId) (k : ModelSlot) (u : Update) (p : Nat),
      (vatOwner s.cfg v.val = p) ∧ ((slotOf s p k.val).running = some u) ∧ (u.flipped = true) ∧ (u.freed.contains v.val = false) ∧ ((updateVats s p).contains v.val = true) ∧ (∀ (gen : Nat), tget (tgetD s.part.vats v.val { }).banks (2 * k.val + otherBank s (v.val) p k.val) = some gen → generationBound s p (k.val) gen v.val = false)) :=
    ⟨slotSt (ms 0x10) 1 0 { running := some { up 3 with flipped := true } }, (1 : VatId), (0 : ModelSlot), { up 3 with flipped := true }, 1, by decide +kernel⟩

theorem witness_validity_ends_complete :
    (∃ (s : Machine.State) (e : EpId) (c : BitVec 7) (x : Challenge),
      (challengeOf s (e.val) c.toNat = some x)) ∧
    (∃ (s : Machine.State) (id : BitVec 6) (x : Session),
      (tget s.dict.sessions id.toNat = some x)) ∧
    (∃ (s : Machine.State) (e : EpId) (c : BitVec 7) (b : Bytes) (at_ : Tick),
      (tget s.sec.nonces (128 * e.val + c.toNat) = some (b, at_))) ∧
    (∃ (s : Machine.State) (scope : Nat) (e : Nat),
      (s.sec.unlock = some (scope, e))) ∧
    (∃ (s : Machine.State) (d : Deckle),
      (dieUp s (16 + d.val) = true) ∧ (s.sec.entropyBad.contains d.val = false)) :=
  ⟨⟨dictS ready fun d => { d with challenges := [ch] }, (2 : EpId), 5#7, ch, by decide +kernel⟩,
    ⟨dictS ready fun d => { d with sessions := [(7, se)] }, 7#6, se, by decide +kernel⟩,
    ⟨secS ready fun d => { d with nonces := [(128*2+5, (zeros 4, 7))] }, (2 : EpId), 5#7, zeros 4, 7, by decide +kernel⟩,
    ⟨dictS (secS ready fun d => { d with unlock := some (3, 100) }) fun d => { d with sessions := [(7, se)] }, 3, 100, by decide +kernel⟩,
    ⟨ready, (2 : Deckle), by decide +kernel⟩⟩

theorem witness_can_commands_complete :
    (∃ (s : Machine.State) (ds : Bool) (tag : BitVec 17) (ident : BitVec 29),
      (canUp s (bitOf ds) = true) ∧ (ident.toNat = 3 * 2 ^ 24 + s.pow.nodeId % 128 * 2 ^ 17 + tag.toNat)) ∧
    (∃ (s : Machine.State) (ds : Bool),
      (canUp s (bitOf ds) = true) ∧ (setting s 4115 0 ≠ 0)) ∧
    (∃ (s : Machine.State) (ds : Bool),
      ((canOf s (bitOf ds)).applyDue = true)) ∧
    (∃ (s : Machine.State) (ds : Bool),
      (dieUp s (canDie (bitOf ds)) = true) ∧ (setting s (4112 + bitOf ds) 1 ≠ 0) ∧ (s.pow.nodeId ≠ 0) ∧ ((canOf s (bitOf ds)).busOff = false)) :=
  ⟨⟨can1, false, 0x155#17, fr, by decide +kernel⟩,
    ⟨can1, false, by decide +kernel⟩,
    ⟨canf 1, false, by decide +kernel⟩,
    ⟨can1, false, by decide +kernel⟩⟩

theorem witness_mailbox_and_register_writes_complete :
    (∃ (s : Machine.State) (p : PortId),
      (barsUp s p.val = true)) ∧
    (∃ (s : Machine.State) (p : PortId),
      (barsUp s p.val = true)) ∧
    (∃ (s : Machine.State) (p : PortId),
      (barsUp s p.val = true) ∧ (mgmtUp s = true) ∧ ((mbxOf s p.val).reqHead ≠ (mbxOf s p.val).reqTail) ∧ (responsesHeld (mbxOf s p.val) < 16)) ∧
    (∃ (s : Machine.State) (p : PortId) (x : Nat × TtpMsg) (rest : List (Nat × TtpMsg)),
      (barsUp s p.val = true) ∧ ((mbxOf s p.val).outbox = x :: rest) ∧ (responsesHeld (mbxOf s p.val) < 16)) ∧
    (∃ (s : Machine.State) (p : PortId) (data : Bytes),
      (barsUp s p.val = true) ∧ (List.length data = 4)) ∧
    (∃ (s : Machine.State) (p : PortId) (off : BitVec 26) (data : Bytes),
      (barsUp s p.val = true) ∧ (2048 ≤ off.toNat) ∧ (off.toNat + List.length data ≤ 4096)) :=
  ⟨⟨pu, (0 : PortId), by decide +kernel⟩,
    ⟨pu, (0 : PortId), by decide +kernel⟩,
    ⟨mbS { reqTail := 3 }, (0 : PortId), by decide +kernel⟩,
    ⟨mbS { outbox := [(5, { cs := 3 }), (6, { cs := 4 })] }, (0 : PortId), (5, ({ cs := 3 } : TtpMsg)), [(6, ({ cs := 4 } : TtpMsg))], by decide +kernel⟩,
    ⟨pu, (0 : PortId), leBytes 4 0x10500, by decide +kernel⟩,
    ⟨pu, (0 : PortId), 0x804#26, [1,2,3,4], by decide +kernel⟩⟩

end Model

namespace Client

def opS : Machine.State := client owned 1
def rd (idx : BitVec 16) (sub : BitVec 8) : TtpMsg := { cs := 1, session := 7, index := idx, sub := sub }
def rv (idx : BitVec 16) (sub : BitVec 8) : Bytes := match (odRead (served opS req) (me 1) idx.toNat sub.toNat false false).1 with | .inr v => v | _ => [99]
def wr (idx : BitVec 16) (sub : BitVec 8) (v : Bytes) : TtpMsg := { cs := 2, session := 7, index := idx, sub := sub, len := BitVec.ofNat 8 v.length, payload := v }
def ent (idx sub : Nat) : OdEntry := match odLookup idx sub with | .inr e => e | _ => { lo := 0, hi := 0, subLo := 0, subHi := 0, kind := .nat, minLen := 0, maxLen := 0, acc := .ro }
def swi : TtpMsg := { cs := 0x10, session := 7, index := 0x8040, sub := 2, len := 4, payload := leBytes 4 224 }
def xf : Transfer := { ep := 2, tag := req.tag.toNat, isRead := false, session := 7, index := 0x8040, sub := 2, total := 60, block := 1 }
def xs (x : Transfer) : Machine.State := dictS opS fun d => { d with transfers := [x] }
def seg (last : Bool) (n : Nat) : TtpMsg := { cs := 0x12, session := 7, index := 0x8040, sub := 2, flags := if last then 2 else 0, len := BitVec.ofNat 8 n, payload := List.replicate n 3 }
def xe : Transfer := { xf with index := 0x1013, sub := 0, total := 2, data := [100, 0], last := true }
def wo : Nat × Nat × Machine.State := match writeValue (dropTransfer (served (xs xe) req) 2 req.tag.toNat) (me 1) 0x1013 0 [100,0] 0 with | .ok e i w => (e, i, w) | .refused c w => (c, 99, w)
def sen (c : Nat) : TtpMsg := { cs := 0x14, session := 7, index := 0x1013, sub := 0, len := 4, payload := leBytes 4 c }
def xr : Transfer := { xf with isRead := true, total := 100, data := List.replicate 100 1 }
def ackM (n : Nat) (q : BitVec 8) : TtpMsg := { cs := 0x13, session := 7, index := 0x8040, sub := 2, len := 1, payload := leBytes 1 n, seq := q }

theorem witness_expedited_requests_complete :
    (∃ (s : Machine.State) (r : Req) (c : Caller) (m : TtpMsg) (v : Bytes),
      (Speaks s r c) ∧ (msgMalformed r.tag.toNat m = false) ∧ (m.session = r.session) ∧ (m.cs = 1) ∧ ((odRead (served s r) c m.index.toNat m.sub.toNat (viewFlag m) (groundFlag m)).fst = Sum.inr v)) ∧
    (∃ (s : Machine.State) (r : Req) (c : Caller) (m : TtpMsg),
      (Speaks s r c) ∧ (msgMalformed r.tag.toNat m = false) ∧ (m.session = r.session) ∧ (m.cs = 1) ∧ (m.index = 4096) ∧ (m.sub = 0)) ∧
    (∃ (s : Machine.State) (r : Req) (c : Caller) (m : TtpMsg) (e : OdEntry),
      (Speaks s r c) ∧ (msgMalformed r.tag.toNat m = false) ∧ (m.session = r.session) ∧ (m.cs = 2) ∧ (odLookup m.index.toNat m.sub.toNat = Sum.inr e) ∧ (e.acc = Access.rw ∨ e.acc = Access.rwd) ∧ (Permitted s c m.index.toNat m.sub.toNat (List.length m.payload)) ∧ (storedCheck (served s r) e m.index.toNat m.sub.toNat m.payload = none) ∧ (stateCheck (served s r) e m.index.toNat m.sub.toNat = none)) ∧
    (∃ (s : Machine.State) (r : Req) (c : Caller) (m : TtpMsg) (e : OdEntry),
      (Speaks s r c) ∧ (msgMalformed r.tag.toNat m = false) ∧ (m.session = r.session) ∧ (m.cs = 2) ∧ (odLookup m.index.toNat m.sub.toNat = Sum.inr e) ∧ (e.acc = Access.rwe) ∧ (Permitted s c m.index.toNat m.sub.toNat (List.length m.payload)) ∧ (storedCheck (served s r) e m.index.toNat m.sub.toNat m.payload = none) ∧ (s.ep.state = 0) ∧ (stateCheck (served s r) e m.index.toNat m.sub.toNat = none)) :=
  ⟨⟨opS, req, me 1, rd 0x1000 0, rv 0x1000 0, speaks_of (by decide +kernel), by decide +kernel⟩,
    ⟨opS, req, me 1, rd 0x1000 0, speaks_of (by decide +kernel), by decide +kernel⟩,
    ⟨opS, req, me 1, wr 0x1013 0 [100, 0], ent 0x1013 0, speaks_of (by decide +kernel), by decide +kernel, by decide +kernel, by decide +kernel, by decide +kernel, by decide +kernel, permitted_of (by decide +kernel), by decide +kernel⟩,
    ⟨opS, req, me 1, wr 0x5002 0 [0, 1], ent 0x5002 0, speaks_of (by decide +kernel), by decide +kernel, by decide +kernel, by decide +kernel, by decide +kernel, by decide +kernel, permitted_of (by decide +kernel), by decide +kernel⟩⟩

theorem witness_segmented_transfers_complete :
    (∃ (s : Machine.State) (r : Req) (c : Caller) (m : TtpMsg),
      (Heard s r c) ∧ (msgMalformed r.tag.toNat m = false) ∧ (m.session = r.session) ∧ (m.cs = 16) ∧ (transferOf s (r.ep.val) r.tag.toNat = none) ∧ (transfersFull s r.ep.val = false) ∧ (Permitted s c m.index.toNat m.sub.toNat (leNat m.payload))) ∧
    (∃ (s : Machine.State) (r : Req) (c : Caller) (m : TtpMsg) (x : Transfer),
      (Heard s r c) ∧ (msgMalformed r.tag.toNat m = false) ∧ (m.session = r.session) ∧ (m.cs = 18) ∧ (transferOf s (r.ep.val) r.tag.toNat = some x) ∧ (x.isRead = false) ∧ (x.session = r.session.toNat) ∧ (x.last = false) ∧ (1 ≤ x.block) ∧ (m.seq.toNat = x.segs % 256) ∧ (if lastFlag m = true then 1 ≤ List.length m.payload else List.length m.payload = 56)) ∧
    (∃ (s : Machine.State) (r : Req) (c : Caller) (m : TtpMsg) (x : Transfer) (effect : Nat) (session : Nat) (w : Machine.State),
      (Heard s r c) ∧ (msgMalformed r.tag.toNat m = false) ∧ (m.session = r.session) ∧ (m.cs = 20) ∧ (transferOf s (r.ep.val) r.tag.toNat = some x) ∧ (x.isRead = false) ∧ (x.session = r.session.toNat) ∧ (x.last = true) ∧ (List.length x.data = x.total) ∧ (crc32c x.data = leNat m.payload) ∧ (writeValue (dropTransfer (served s r) (r.ep.val) r.tag.toNat) c x.index x.sub x.data 0 = WriteOut.ok effect session w)) ∧
    (∃ (s : Machine.State) (r : Req) (c : Caller) (m : TtpMsg) (x : Transfer),
      (Heard s r c) ∧ (msgMalformed r.tag.toNat m = false) ∧ (m.session = r.session) ∧ (m.cs = 20) ∧ (transferOf s (r.ep.val) r.tag.toNat = some x) ∧ (x.isRead = false) ∧ (x.session = r.session.toNat) ∧ (x.last = true) ∧ (List.length x.data = x.total) ∧ (crc32c x.data ≠ leNat m.payload)) ∧
    (∃ (s : Machine.State) (r : Req) (c : Caller) (m : TtpMsg) (x : Transfer),
      (Heard s r c) ∧ (msgMalformed r.tag.toNat m = false) ∧ (m.session = r.session) ∧ (m.cs = 19) ∧ (transferOf s (r.ep.val) r.tag.toNat = some x) ∧ (x.isRead = true) ∧ (x.session = r.session.toNat) ∧ (m.seq.toNat = if x.segs = 0 then 255 else (x.segs - 1) % 256) ∧ (x.segs < (x.total + 55) / 56)) ∧
    (∃ (s : Machine.State) (r : Req) (c : Caller) (m : TtpMsg),
      (Heard s r c) ∧ (msgMalformed r.tag.toNat m = false) ∧ (m.session = r.session) ∧ (m.cs = 31)) ∧
    (∃ (s : Machine.State) (r : Req) (c : Caller) (m : TtpMsg) (x : Transfer),
      (Heard s r c) ∧ (msgMalformed r.tag.toNat m = false) ∧ (m.session = r.session) ∧ (transferOf s (r.ep.val) r.tag.toNat = some x)) :=
  ⟨⟨opS, req, me 1, swi, heard_of (by decide +kernel), by decide +kernel, by decide +kernel, by decide +kernel, by decide +kernel, by decide +kernel, permitted_of (by decide +kernel)⟩,
    ⟨xs xf, req, me 1, seg false 56, xf, heard_of (by decide +kernel), by decide +kernel⟩,
    ⟨xs xe, req, me 1, sen (crc32c [100,0]), xe, wo.1, wo.2.1, wo.2.2, heard_of (by decide +kernel), by decide +kernel, by decide +kernel, by decide +kernel, by decide +kernel, by decide +kernel, by decide +kernel, by decide +kernel, by decide +kernel, by decide +kernel, by rfl⟩,
    ⟨xs xe, req, me 1, sen 0, xe, heard_of (by decide +kernel), by decide +kernel⟩,
    ⟨xs xr, req, me 1, ackM 1 0xFF, xr, heard_of (by decide +kernel), by decide +kernel⟩,
    ⟨xs xr, req, me 1, { cs := 0x1F, session := 7, index := 0x8040, sub := 2, len := 4, payload := leBytes 4 5 }, heard_of (by decide +kernel), by decide +kernel⟩,
    ⟨xs xr, req, me 1, { cs := 0x1F, session := 7, index := 0x8040, sub := 2, len := 4, payload := leBytes 4 5 }, xr, heard_of (by decide +kernel), by decide +kernel⟩⟩

end Client

namespace Write

def opS : Machine.State := client owned 1
def at_ : Machine.State := secS opS fun s => { s with nonces := [(128*2+5, (List.replicate 32 1, 0))] }
def v36 : Bytes := [1,0,0,0] ++ zeros 32
def svS : Machine.State := secS (client owned 4) fun s => { s with unlock := some (31, 1000) }
def sq (q : Sequencer) : Machine.State := { opS with vs := { opS.vs with vats := [(1, { seq := q })] } }
def mcS : Machine.State := { opS with vs := { opS.vs with mc := [(2, { pruned := [3] })] } }
def rdS : Machine.State := { opS with vs := { opS.vs with red := [(2, { resync := true })] } }

theorem witness_session_commands_complete :
    (∃ (s : Machine.State) (r : Req) (c : Caller),
      (Speaks s r c) ∧ (engineRandom s (mgmtDeckle s) = true)) ∧
    (∃ (s : Machine.State) (r : Req) (c : Caller) (v : Bytes),
      (Speaks s r c) ∧ (List.length v = 36) ∧ (Permitted s c 4352 2 36) ∧ (roleValid (field v 0 1) (field v 1 1) = true) ∧ (field v 2 2 = 0) ∧ (sessionsOf s c.ep < 8) ∧ (List.length s.dict.sessions < 48)) ∧
    (∃ (s : Machine.State) (r : Req) (c : Caller) (id : BitVec 8),
      (Speaks s r c) ∧ (Permitted s c 4353 0 1) ∧ (id ≠ 0) ∧ (id.toNat ≤ 63) ∧ (c.role = 1 ∨ id.toNat = c.session)) :=
  ⟨⟨opS, req, me 1, speaks_of (by decide +kernel), by decide +kernel⟩,
    ⟨opS, req, me 1, v36, speaks_of (by decide +kernel), by decide +kernel, permitted_of (by decide +kernel), by decide +kernel⟩,
    ⟨opS, req, me 1, 7#8, speaks_of (by decide +kernel), permitted_of (by decide +kernel), by decide +kernel⟩⟩

theorem witness_role_and_attestation_commands_complete :
    (∃ (s : Machine.State) (r : Req) (c : Caller) (v : Bytes),
      (Speaks s r c) ∧ (Permitted s c 32784 0 (List.length v)) ∧ (c.role = 1 ∨ field v 0 1 = 1 ∧ operatorEnrolled s = false) ∧ (List.length v = 144) ∧ (roleValid (field v 0 1) (field v 1 1) = true) ∧ (field v 2 2 = 0) ∧ (field v 101 3 = 0)) ∧
    (∃ (s : Machine.State) (r : Req) (c : Caller) (v : BitVec 16),
      (Speaks s r c) ∧ (Permitted s c 32785 0 2) ∧ (roleValid (bits v.toNat 7 0) (bits v.toNat 15 8) = true) ∧ (bits v.toNat 7 0 ≠ 1)) ∧
    (∃ (s : Machine.State) (r : Req) (c : Caller) (n : Bytes),
      (Speaks s r c) ∧ (List.length n = 32) ∧ (Permitted s c 32816 1 32)) ∧
    (∃ (s : Machine.State) (r : Req) (c : Caller) (n : Bytes),
      (Speaks s r c) ∧ (heldNonce s c = some n) ∧ (engineUp s (mgmtDeckle s) = true)) ∧
    (∃ (s : Machine.State) (r : Req) (c : Caller) (u : Nat × Nat),
      (Speaks s r c) ∧ (Permitted s c 32832 4 1) ∧ (s.sec.unlock = some u)) ∧
    (∃ (s : Machine.State) (r : Req) (c : Caller),
      (Speaks s r c) ∧ (Permitted s c 32849 0 1)) ∧
    (∃ (s : Machine.State) (r : Req) (c : Caller) (d : VatId),
      (Speaks s r c) ∧ (Permitted s c 61442 (d.val + 1) 4)) :=
  ⟨⟨opS, req, me 1, [1,0,0,0] ++ zeros 140, speaks_of (by decide +kernel), permitted_of (by decide +kernel), by decide +kernel⟩,
    ⟨opS, req, me 1, 3#16, speaks_of (by decide +kernel), permitted_of (by decide +kernel), by decide +kernel⟩,
    ⟨opS, req, me 1, List.replicate 32 4, speaks_of (by decide +kernel), by decide +kernel, permitted_of (by decide +kernel)⟩,
    ⟨at_, req, me 1, List.replicate 32 1, speaks_of (by decide +kernel), by decide +kernel⟩,
    ⟨secS opS fun s => { s with unlock := some (30, 1000) }, req, me 1, (30, 1000), speaks_of (by decide +kernel), permitted_of (by decide +kernel), by decide +kernel⟩,
    ⟨opS, req, me 1, speaks_of (by decide +kernel), permitted_of (by decide +kernel)⟩,
    ⟨svS, req, me 4, (3 : VatId), speaks_of (by decide +kernel), permitted_of (by decide +kernel)⟩⟩

theorem witness_unlock_scan_zeroise_complete :
    (∃ (s : Machine.State) (r : Req) (c : Caller) (v : Bytes),
      (Speaks s r c) ∧ (Permitted s c 32832 2 (List.length v)) ∧ (List.length v < 2 ^ 32)) ∧
    (∃ (s : Machine.State) (r : Req) (c : Caller),
      (Speaks s r c) ∧ (Permitted s c 32848 0 (List.length serialBytes)) ∧ (s.pow.pwrfail = false) ∧ (s.sec.zeroiseOpen = false) ∧ (∀ (k : Nat), k < 4 → tgetD s.sec.zeroCount k 0 < 64)) :=
  ⟨⟨opS, req, me 1, zeros 224, speaks_of (by decide +kernel), permitted_of (by decide +kernel), by decide +kernel⟩,
    ⟨opS, req, me 1, speaks_of (by decide +kernel), permitted_of (by decide +kernel), by decide +kernel⟩⟩

theorem witness_sequencer_and_group_writes_complete :
    (∃ (s : Machine.State) (r : Req) (c : Caller) (d : VatId),
      (Speaks s r c) ∧ (Permitted s c 12560 (d.val + 1) 1) ∧ ((seqOf s d.val).state ≠ 0) ∧ ((seqOf s d.val).state ≠ 2) ∧ ((seqOf s d.val).state ≠ 3) ∧ (vatOwner s.cfg d.val ≠ 0)) ∧
    (∃ (s : Machine.State) (r : Req) (c : Caller) (d : VatId),
      (Speaks s r c) ∧ (Permitted s c 12560 (d.val + 1) 1)) ∧
    (∃ (s : Machine.State) (r : Req) (c : Caller) (g : McGroupId) (d : VatId) (v : BitVec 16),
      (Speaks s r c) ∧ (v.toNat = Fin.toNat g + d.val * 2 ^ 10) ∧ (Permitted s c 9492 0 2) ∧ ((mcOf s (Fin.toNat g)).pruned.contains d.val = true) ∧ (groupDenied c (mcPart (mcRecord s.ep.cur (Fin.toNat g))) = false)) ∧
    (∃ (s : Machine.State) (r : Req) (c : Caller) (v : BitVec 16),
      (Speaks s r c) ∧ (v.toNat < 512) ∧ (Permitted s c 9493 0 2) ∧ ((redOf s v.toNat).resync = true) ∧ (groupDenied c (redPart (redRecord s.ep.cur v.toNat)) = false)) :=
  ⟨⟨sq { state := 1 }, req, me 1, (1 : VatId), speaks_of (by decide +kernel), permitted_of (by decide +kernel), by decide +kernel⟩,
    ⟨sq { state := 3 }, req, me 1, (1 : VatId), speaks_of (by decide +kernel), permitted_of (by decide +kernel)⟩,
    ⟨mcS, req, me 1, (2 : McGroupId), (3 : VatId), BitVec.ofNat 16 (2 + 3 * 1024), speaks_of (by decide +kernel), by decide +kernel, permitted_of (by decide +kernel), by decide +kernel⟩,
    ⟨rdS, req, me 1, 2#16, speaks_of (by decide +kernel), by decide +kernel, permitted_of (by decide +kernel), by decide +kernel⟩⟩

theorem witness_log_crossing_and_wall_writes_complete :
    (∃ (s : Machine.State) (r : Req) (c : Caller),
      (Speaks s r c) ∧ (Permitted s c 9731 0 1)) ∧
    (∃ (s : Machine.State) (r : Req) (c : Caller) (d : BitVec 8),
      (Speaks s r c) ∧ (Permitted s c 10292 0 1) ∧ (d.toNat < 20)) ∧
    (∃ (s : Machine.State) (r : Req) (c : Caller) (ft : BitVec 64),
      (Speaks s r c) ∧ (Permitted s c 10336 1 16) ∧ (s.now ≤ ft.toNat + 10 ^ 9) ∧ (ft.toNat ≤ s.now + 10 ^ 9)) ∧
    (∃ (s : Machine.State) (r : Req) (c : Caller),
      (Speaks s r c) ∧ (Permitted s c 10336 3 4) ∧ (overlayValue s.cfg s.tint (odKey 10336 3) = none)) :=
  ⟨⟨opS, req, me 1, speaks_of (by decide +kernel), permitted_of (by decide +kernel)⟩,
    ⟨opS, req, me 1, 3#8, speaks_of (by decide +kernel), permitted_of (by decide +kernel), by decide +kernel⟩,
    ⟨opS, req, me 1, 77#64, speaks_of (by decide +kernel), permitted_of (by decide +kernel), by decide +kernel⟩,
    ⟨opS, req, me 1, speaks_of (by decide +kernel), permitted_of (by decide +kernel), by decide +kernel⟩⟩

theorem witness_epoch_and_partition_writes_complete :
    (∃ (s : Machine.State) (r : Req) (c : Caller) (goAt : BitVec 64),
      (Speaks s r c) ∧ (Permitted s c 20496 0 8) ∧ (s.ep.state = 0) ∧ (goAt.toNat ≤ s.now + 10 ^ 10)) ∧
    (∃ (s : Machine.State) (r : Req) (c : Caller),
      (Speaks s r c) ∧ (Permitted s c 20497 0 1) ∧ (s.ep.state = 1 ∨ s.ep.state = 2)) ∧
    (∃ (s : Machine.State) (r : Req) (c : Caller) (p : PartId),
      (Speaks s r c) ∧ (Permitted s c (20512 + p.val) 4 1) ∧ (p.val ≠ 0)) ∧
    (∃ (s : Machine.State) (r : Req) (c : Caller) (p : PartId),
      (Speaks s r c) ∧ (Permitted s c (20512 + p.val) 4 1) ∧ (p.val ≠ 0)) :=
  ⟨⟨opS, req, me 1, 5000#64, speaks_of (by decide +kernel), permitted_of (by decide +kernel), by decide +kernel⟩,
    ⟨epS opS fun e => { e with state := 1 }, req, me 1, speaks_of (by decide +kernel), permitted_of (by decide +kernel), by decide +kernel⟩,
    ⟨opS, req, me 1, (1 : PartId), speaks_of (by decide +kernel), permitted_of (by decide +kernel), by decide +kernel⟩,
    ⟨partS opS fun p => { p with control := [(1, 2)] }, req, me 1, (1 : PartId), speaks_of (by decide +kernel), permitted_of (by decide +kernel), by decide +kernel⟩⟩

end Write

namespace Command

def opS : Machine.State := client owned 1
def progOf (ws : List Nat) : Bytes := [0x53,0x51,0x45,0x5A] ++ leBytes 4 ws.length ++ zeros 8 ++ ws.flatMap (leBytes 4)

theorem witness_unlock_scan_zeroise_complete_more :
    (∃ (s : Machine.State) (r : Req) (c : Caller),
      (Speaks s r c) ∧ (Permitted s c 32833 0 1) ∧ (s.sec.scan = 0)) :=
    ⟨opS, req, me 1, speaks_of (by decide +kernel), permitted_of (by decide +kernel), by decide +kernel⟩

theorem witness_sequencer_and_group_writes_complete_more :
    (∃ (s : Machine.State) (r : Req) (c : Caller) (d : VatId) (v : Bytes),
      (Speaks s r c) ∧ (Permitted s c (12544 + d.val) 0 (List.length v)) ∧ (programCheck v = none) ∧ (vatDrained s d.val = true) ∧ ((seqOf s d.val).state ≠ 2) ∧ ((seqOf s d.val).state ≠ 3) ∧ (overlayValue s.cfg s.tint (odKey (12544 + d.val) 0) = none)) :=
    ⟨opS, req, me 1, (1 : VatId), progOf [0x26*2^26], speaks_of (by decide +kernel), permitted_of (by decide +kernel), by decide +kernel⟩

theorem witness_ledger_writes_complete :
    (∃ (s : Machine.State) (r : Req) (c : Caller) (d : Deckle),
      (Speaks s r c) ∧ (Permitted s c 24579 (d.val + 1) 1) ∧ (formatOk s (d.val) (c.role == 4) = true)) ∧
    (∃ (s : Machine.State) (r : Req) (c : Caller) (d : Deckle),
      (Speaks s r c) ∧ (Permitted s c 24581 (d.val + 1) 1) ∧ (stopOk s d.val = true)) ∧
    (∃ (s : Machine.State) (r : Req) (c : Caller) (d : Deckle),
      (Speaks s r c) ∧ (Permitted s c 24581 (d.val + 1) 1) ∧ ((ledOf s d.val).state = 5)) :=
  ⟨⟨opS, req, me 1, (0 : Deckle), speaks_of (by decide +kernel), permitted_of (by decide +kernel), by decide +kernel⟩,
    ⟨ledS opS 0 { state := 2 }, req, me 1, (0 : Deckle), speaks_of (by decide +kernel), permitted_of (by decide +kernel), by decide +kernel⟩,
    ⟨ledS opS 0 { state := 5 }, req, me 1, (0 : Deckle), speaks_of (by decide +kernel), permitted_of (by decide +kernel), by decide +kernel⟩⟩

theorem witness_observation_writes_complete :
    (∃ (s : Machine.State) (r : Req) (c : Caller) (d : BitVec 8),
      (Speaks s r c) ∧ (Permitted s c 28673 0 1) ∧ (d.toNat < 20)) ∧
    (∃ (s : Machine.State) (r : Req) (c : Caller) (b : QueueId),
      (Speaks s r c) ∧ (Permitted s c (28768 + b.val) 2 1)) ∧
    (∃ (s : Machine.State) (r : Req) (c : Caller) (b : QueueId),
      (Speaks s r c) ∧ (Permitted s c (28768 + b.val) 2 1)) ∧
    (∃ (s : Machine.State) (r : Req) (c : Caller) (b : QueueId),
      (Speaks s r c) ∧ (Permitted s c (28768 + b.val) 2 1)) ∧
    (∃ (s : Machine.State) (r : Req) (c : Caller) (dies : BitVec 20) (ow : Bool) (tf : BitVec 64),
      (Speaks s r c) ∧ (Permitted s c 28816 0 16) ∧ (freezeAbort s dies.toNat ow tf.toNat = none)) ∧
    (∃ (s : Machine.State) (r : Req) (c : Caller),
      (Speaks s r c) ∧ (Permitted s c 28818 0 4)) :=
  ⟨⟨opS, req, me 1, 3#8, speaks_of (by decide +kernel), permitted_of (by decide +kernel), by decide +kernel⟩,
    ⟨opS, req, me 1, (3 : QueueId), speaks_of (by decide +kernel), permitted_of (by decide +kernel)⟩,
    ⟨opS, req, me 1, (3 : QueueId), speaks_of (by decide +kernel), permitted_of (by decide +kernel)⟩,
    ⟨opS, req, me 1, (3 : QueueId), speaks_of (by decide +kernel), permitted_of (by decide +kernel)⟩,
    ⟨opS, req, me 1, 5#20, false, 0#64, speaks_of (by decide +kernel), permitted_of (by decide +kernel), by decide +kernel⟩,
    ⟨{ opS with obs := { opS.obs with snaps := [(0, { state := 2, records := [(1, [2])] })] } }, req, me 1, speaks_of (by decide +kernel), permitted_of (by decide +kernel)⟩⟩

theorem witness_reset_and_firmware_writes_complete :
    (∃ (s : Machine.State) (r : Req) (c : Caller) (k : RailId) (mv : BitVec 16),
      (Speaks s r c) ∧ (k.val < 17) ∧ (Permitted s c 36944 (k.val + 1) 2) ∧ ((if k.val = 16 then 750 else 650) ≤ mv.toNat) ∧ (mv.toNat ≤ 900) ∧ (mv.toNat % 5 = 0)) ∧
    (∃ (s : Machine.State) (r : Req) (c : Caller),
      (Speaks s r c) ∧ (Permitted s c 36976 0 1) ∧ (s.pow.warm = 0) ∧ (s.pow.pwrfail = false)) ∧
    (∃ (s : Machine.State) (r : Req) (c : Caller) (d : BitVec 8),
      (Speaks s r c) ∧ (Permitted s c 36977 0 1) ∧ (dieResetAbort s c.role d.toNat = none)) ∧
    (∃ (s : Machine.State) (r : Req) (c : Caller) (v : BitVec 16),
      (Speaks s r c) ∧ (Permitted s c 36978 0 2) ∧ (islandResetAbort s c.role v.toNat = none)) ∧
    (∃ (s : Machine.State) (r : Req) (c : Caller) (image : Bytes),
      (Speaks s r c) ∧ (Permitted s c 36993 0 (List.length image))) ∧
    (∃ (s : Machine.State) (r : Req) (c : Caller),
      (Speaks s r c) ∧ (Permitted s c 36994 0 1) ∧ (bootImage s = 0)) :=
  ⟨⟨withRw opS [(0x9010 * 256, leBytes 4 0x30102)], req, me 1, (0 : RailId), 755#16, speaks_of (by decide +kernel), by decide +kernel, permitted_of (by decide +kernel), by decide +kernel⟩,
    ⟨opS, req, me 1, speaks_of (by decide +kernel), permitted_of (by decide +kernel), by decide +kernel⟩,
    ⟨partS opS fun p => { p with vats := [(3, { state := 3 })] }, req, me 1, 3#8, speaks_of (by decide +kernel), permitted_of (by decide +kernel), by decide +kernel⟩,
    ⟨partS opS fun p => { p with vats := [(0, { state := 3 })] }, req, me 1, 130#16, speaks_of (by decide +kernel), permitted_of (by decide +kernel), by decide +kernel⟩,
    ⟨opS, req, me 1, zeros 4096, speaks_of (by decide +kernel), permitted_of (by decide +kernel)⟩,
    ⟨opS, req, me 1, speaks_of (by decide +kernel), permitted_of (by decide +kernel), by decide +kernel⟩⟩

end Command

namespace Request

def pS (p : Port) : Machine.State := portSt owned 0 { p with up := true, rate := 5, width := 16 }
def q1 (s : Machine.State) (w : Nat) : Machine.State := withCfg s [(0x4010*256+2, leBytes 4 w)]
def dsc (op : Nat) (l : Table Bytes) : Bytes := descOf op 1 0 ((24, leBytes 4 4) :: l)
def rr (d : Bytes) : Request := { num := 1, sq := 1, ordered := false, partition := 1, desc := d, stage := .fetched }
def rs (d : Bytes) : Machine.State := pS { sqs := [(1, { en := true, size := 8, tail := 3 })], reqs := [rr d] }
def crcd (n : Nat) : Bytes := descOf 1 1 0 [(2, [0x20]), (4, leBytes 4 n), (24, leBytes 4 4)]
def stg (op : Nat) : Bytes := descOf op 1 0 [(2, [0x10]), (24, leBytes 4 4)]

theorem witness_port_queue_commands_complete_1 :
    (∃ (s : Machine.State) (p : PortId) (q : QueueId) (v : BitVec 16),
      (barsUp s p.val = true) ∧ ((sqOf s p.val q.val).en = true) ∧ (v.toNat < (sqOf s p.val q.val).size)) ∧
    (∃ (s : Machine.State) (p : PortId) (q : QueueId) (v : BitVec 16),
      (barsUp s p.val = true) ∧ ((sqOf s p.val q.val).en = false ∨ (sqOf s p.val q.val).size ≤ v.toNat)) ∧
    (∃ (s : Machine.State) (p : PortId) (q : QueueId) (v : BitVec 16),
      (barsUp s p.val = true) ∧ (v.toNat < (cqOf s p.val q.val).size)) ∧
    (∃ (s : Machine.State) (p : PortId) (q : QueueId) (v : BitVec 16),
      (barsUp s p.val = true) ∧ ((cqOf s p.val q.val).size ≤ v.toNat)) ∧
    (∃ (s : Machine.State) (p : PortId) (q : QueueId),
      (barsUp s p.val = true) ∧ ((sqOf s p.val q.val).en = false) ∧ (sqActive s p.val q.val = false) ∧ (qcAllowed (queueConfig (portBank s p.val) p.val q.val) = true)) ∧
    (∃ (s : Machine.State) (p : PortId) (q : QueueId),
      (barsUp s p.val = true) ∧ ((sqOf s p.val q.val).en = false) ∧ (sqActive s p.val q.val = false) ∧ (qcAllowed (queueConfig (portBank s p.val) p.val q.val) = false)) ∧
    (∃ (s : Machine.State) (p : PortId),
      (barsUp s p.val = true)) ∧
    (∃ (s : Machine.State) (p : PortId) (q : QueueId),
      (barsUp s p.val = true) ∧ ((cqOf s p.val q.val).en = false)) :=
  ⟨⟨pS { sqs := [(1, { en := true, size := 8 })] }, (0 : PortId), (1 : QueueId), 7#16, by decide +kernel⟩,
    ⟨pS { sqs := [(1, { en := true, size := 8 })] }, (0 : PortId), (1 : QueueId), 8#16, by decide +kernel⟩,
    ⟨pS { cqs := [(1, { en := true, size := 8 })] }, (0 : PortId), (1 : QueueId), 7#16, by decide +kernel⟩,
    ⟨pS { cqs := [(1, { en := true, size := 8 })] }, (0 : PortId), (1 : QueueId), 8#16, by decide +kernel⟩,
    ⟨q1 (pS { sqs := [(1, { size := 8, tail := 3 })] }) 1, (0 : PortId), (1 : QueueId), by decide +kernel⟩,
    ⟨pS { sqs := [(1, { size := 8, tail := 3 })] }, (0 : PortId), (1 : QueueId), by decide +kernel⟩,
    ⟨pS { sqs := [(1, { en := true, size := 8, tail := 3 })], reqs := [{ num := 1, sq := 1, ordered := false, partition := 1, desc := [] }] }, (0 : PortId), by decide +kernel⟩,
    ⟨pS { cqs := [(1, { size := 8, tail := 3 })] }, (0 : PortId), (1 : QueueId), by decide +kernel⟩⟩

theorem witness_port_queue_commands_complete_2 :
    (∃ (s : Machine.State) (p : PortId) (q : QueueId),
      (barsUp s p.val = true) ∧ ((List.all (portOf s p.val).sqs fun e => !(e.snd.en && e.snd.cq == q.val)) = true)) ∧
    (∃ (s : Machine.State) (p : PortId) (off : BitVec 26) (data : Bytes),
      (barsUp s p.val = true) ∧ (off.toNat + List.length data ≤ 2 ^ 26) ∧ (Memory.wf (portOf s p.val).staging = true)) :=
  ⟨⟨pS { cqs := [(1, { en := true, size := 8, tail := 3 })] }, (0 : PortId), (1 : QueueId), by decide +kernel⟩,
    ⟨pS {}, (0 : PortId), 5#26, [1,0,3], by decide +kernel⟩⟩

theorem witness_port_request_commands_complete :
    (∃ (s : Machine.State) (p : PortId) (num : Nat) (r : Request) (data : Bytes),
      (awaitsPayload s (p.val) num = some r) ∧ (descStaged r.desc = false) ∧ (List.length data = descInLen r.desc)) ∧
    (∃ (s : Machine.State) (p : PortId) (num : Nat) (r : Request) (err : TlpErr),
      (awaitsPayload s (p.val) num = some r) ∧ (descStaged r.desc = false) ∧ (err ≠ TlpErr.good)) ∧
    (∃ (s : Machine.State) (p : PortId) (num : Nat) (r : Request),
      (awaitsPayload s (p.val) num = some r) ∧ (descStaged r.desc = true) ∧ (descCrcValid r.desc = false ∨ crc32c (memRead (portOf s p.val).staging (descInput r.desc) (descInLen r.desc)) = descCrc r.desc) ∧ (descOpcode r.desc = 1)) ∧
    (∃ (s : Machine.State) (p : PortId) (num : Nat) (r : Request),
      (awaitsPayload s (p.val) num = some r) ∧ (descStaged r.desc = true) ∧ (descCrcValid r.desc = false ∨ crc32c (memRead (portOf s p.val).staging (descInput r.desc) (descInLen r.desc)) = descCrc r.desc) ∧ (descOpcode r.desc = 2)) :=
  ⟨⟨rs (dsc 1 []), (0 : PortId), 1, rr (dsc 1 []), [1,2,3,4], by decide +kernel⟩,
    ⟨rs (crcd 1), (0 : PortId), 1, rr (crcd 1), TlpErr.timeout, by decide +kernel⟩,
    ⟨rs (stg 1), (0 : PortId), 1, rr (stg 1), by decide +kernel⟩,
    ⟨rs (stg 2), (0 : PortId), 1, rr (stg 2), by decide +kernel⟩⟩

end Request

namespace Port

def opS : Machine.State := client owned 1
def sealR : Bytes := 2 :: zeros 255
def pS (p : Port) : Machine.State := portSt owned 0 { p with up := true, rate := 5, width := 16 }
def q1 (s : Machine.State) (w : Nat) : Machine.State := withCfg s [(0x4010*256+2, leBytes 4 w)]
def dsc (op : Nat) (l : Table Bytes) : Bytes := descOf op 1 0 ((24, leBytes 4 4) :: l)
def qf : Machine.State := ledS (q1 (pS { sqs := [(1, { en := true, size := 8, tail := 3 })] }) (1 + 1*4 + 2^16)) 1 { state := 1 }
def bufT : Machine.State := { opS with obs := { opS.obs with buffers := [(3, { state := 1, cfg := 3 })] } }
def cx (r : Request) (c : Machine.Context) : Machine.State := admS (reqSt owned 0 r) 0 { ctxs := [(3, c)] }
def sr : Request := { num := 1, sq := 1, ordered := false, partition := 1, desc := dsc 1 [(28, leBytes 4 64)], stage := .admitted, ctx := some 3 }
def c1 : Machine.Context := { state := 1, gen := 5, req := 1, partition := 1, deadline := 100 }
def dw : BitVec 64 := BitVec.ofNat 64 (ctxTag 0 3 5 * 2^48 + 32)
def pf : Nat := portFrontTile 0
def dgp : Packet := { pkt 6 pf 130 (zeros 32 ++ zeros 48 ++ [5, 0] ++ zeros 14) with tag := BitVec.ofNat 16 (ctxTag 0 3 5), tagValid := true, partition := 1 }
def dgS : Machine.State := cx sr { c1 with watchRec := 0x8005 }
def cr : Request := { sr with stage := .completing, ctx := none, out := { status := 0, output := [1,2] } }
def cS (r : Request) : Machine.State := pS { reqs := [r], sqs := [(1, { en := true, size := 8, cq := 2 })], cqs := [(2, { en := true, size := 8, irqEn := true, coalCount := 5, coalTime := 3 })], msixEn := true, msix := [(0, (1,2,0))] }
def ciS : Machine.State := pS { cqs := [(2, { en := true, size := 8, irqEn := true, posted := 2, coalCount := 5, coalTime := 3 })], msixEn := true, msix := [(0, (1,2,0))] }

theorem witness_ledger_writes_complete_more :
    (∃ (s : Machine.State) (r : Req) (c : Caller) (p : PortId) (n : BitVec 64),
      (Speaks s r c) ∧ (Permitted s c 24582 (p.val + 1) 8) ∧ (releaseOk s (p.val) n.toNat = true)) :=
    ⟨ledS (client owned 3) 0 { state := 2, chain := { recs := [(4, sealR), (5, sealR)], durable := 6, next := 7, chained := 6 } }, req, me 3, (0 : PortId), 5#64, speaks_of (by decide +kernel), permitted_of (by decide +kernel), by decide +kernel⟩

theorem witness_port_request_commands_complete_more :
    (∃ (s : Machine.State) (p : PortId) (q : QueueId) (desc : Bytes),
      (canFetch s p.val q.val = true) ∧ (List.length desc = 128)) :=
    ⟨qf, (0 : PortId), (1 : QueueId), dsc 1 [], by decide +kernel⟩

theorem witness_observation_writes_complete_more :
    (∃ (s : Machine.State) (r : Req) (c : Caller) (b : QueueId),
      (Speaks s r c) ∧ (Permitted s c (28768 + b.val) 2 1) ∧ (bufferTriggerOk s b.val = true)) :=
    ⟨bufT, req, me 1, (3 : QueueId), speaks_of (by decide +kernel), permitted_of (by decide +kernel), by decide +kernel⟩

theorem witness_result_commands_complete :
    (∃ (s : Machine.State) (p : PortId) (c : CtxId) (w : BitVec 64) (part : PartId) (r : Request),
      ((ctxOf s p.val c.val).state = 1) ∧ (bits w.toNat 63 48 = ctxTag (p.val) (c.val) (ctxOf s p.val c.val).gen) ∧ (part.val = (ctxOf s p.val c.val).partition) ∧ (bits w.toNat 39 32 = 0) ∧ (ctxRequest s (p.val) (ctxOf s p.val c.val) = some r) ∧ (s.now ≤ (ctxOf s p.val c.val).deadline)) ∧
    (∃ (s : Machine.State) (p : PortId) (c : CtxId) (w : BitVec 64) (part : PartId) (r : Request),
      ((ctxOf s p.val c.val).state = 1) ∧ (bits w.toNat 63 48 = ctxTag (p.val) (c.val) (ctxOf s p.val c.val).gen) ∧ (part.val = (ctxOf s p.val c.val).partition) ∧ (bits w.toNat 39 32 = 0) ∧ (ctxRequest s (p.val) (ctxOf s p.val c.val) = some r) ∧ ((ctxOf s p.val c.val).deadline < s.now)) ∧
    (∃ (s : Machine.State) (p : PortId) (c : CtxId),
      ((ctxOf s p.val c.val).state ≠ 1)) ∧
    (∃ (s : Machine.State) (p : PortId) (node : NodeId) (k : Packet) (u : Machine.State) (i : Nat),
      (BitVec.toNat node = portFrontTile p.val) ∧ (k.opcode = 6) ∧ (Accepts s node k false u) ∧ (k.tagValid = true) ∧ (tagPort k.tag.toNat = p.val) ∧ ((ctxOf s (p.val) (tagCtx k.tag.toNat)).state = 1) ∧ (tagCurrent s k.tag.toNat = true) ∧ (k.partition.toNat = (ctxOf s (p.val) (tagCtx k.tag.toNat)).partition) ∧ (i < 3) ∧ (elemEn (watchElem (ctxOf s (p.val) (tagCtx k.tag.toNat)).watchRec i) = true) ∧ (elemDie (watchElem (ctxOf s (p.val) (tagCtx k.tag.toNat)).watchRec i) = field k.payload 81 1) ∧ (elemPoint (watchElem (ctxOf s (p.val) (tagCtx k.tag.toNat)).watchRec i) = field k.payload 80 1)) :=
  ⟨⟨cx sr c1, (0 : PortId), (3 : CtxId), dw, (1 : PartId), sr, by decide +kernel⟩,
    ⟨{ cx sr c1 with now := 101 }, (0 : PortId), (3 : CtxId), dw, (1 : PartId), sr, by decide +kernel⟩,
    ⟨cx sr { c1 with state := 2 }, (0 : PortId), (3 : CtxId), by decide +kernel⟩,
    ⟨dgS, (0 : PortId), BitVec.ofNat 12 pf, dgp, accU dgS (BitVec.ofNat 12 pf) dgp false, 0, by decide +kernel, by decide +kernel, accepts_of (by decide +kernel), by decide +kernel⟩⟩

theorem witness_completion_commands_complete :
    (∃ (s : Machine.State) (p : PortId) (num : Nat) (r : Request),
      (reqOf s (p.val) num = some r) ∧ (r.stage = Stage.completing) ∧ (r.orphan = false) ∧ (dieUp s (16 + p.val) = true) ∧ (portUp s p.val = true) ∧ (linkOk s p.val = true) ∧ (orderOk s (p.val) r = true) ∧ (cqFree (cqOf s (p.val) (sqOf s (p.val) r.sq).cq) = true)) ∧
    (∃ (s : Machine.State) (p : PortId) (num : Nat) (r : Request),
      (reqOf s (p.val) num = some r) ∧ (r.stage = Stage.completing) ∧ (r.orphan = true)) ∧
    (∃ (s : Machine.State) (p : PortId) (q : QueueId),
      ((cqOf s p.val q.val).en = true) ∧ ((cqOf s p.val q.val).irqEn = true) ∧ (0 < (cqOf s p.val q.val).posted) ∧ (0 < (cqOf s p.val q.val).coalTime)) :=
  ⟨⟨cS cr, (0 : PortId), 1, cr, by decide +kernel⟩,
    ⟨cS { cr with orphan := true }, (0 : PortId), 1, { cr with orphan := true }, by decide +kernel⟩,
    ⟨ciS, (0 : PortId), (2 : QueueId), by decide +kernel⟩⟩

theorem witness_port_reset_and_link_complete :
    (∃ (s : Machine.State) (p : PortId),
      (dieUp s (16 + p.val) = true) ∧ ((portOf s p.val).perst = false)) ∧
    (∃ (s : Machine.State) (p : PortId),
      (dieUp s (16 + p.val) = true) ∧ ((portOf s p.val).up = true) ∧ ((portOf s p.val).perst = false)) ∧
    (∃ (s : Machine.State) (p : PortId),
      (dieUp s (16 + p.val) = true) ∧ ((portOf s p.val).up = true)) ∧
    (∃ (s : Machine.State) (p : PortId) (rate : BitVec 3) (width : BitVec 5),
      (dieUp s (16 + p.val) = true) ∧ ((tget s.pow.fw (16 + p.val)).isSome = true) ∧ (1 ≤ rate.toNat) ∧ (rate.toNat ≤ 5) ∧ (width = 1 ∨ width = 2 ∨ width = 4 ∨ width = 8 ∨ width = 16)) ∧
    (∃ (s : Machine.State) (p : PortId),
      (dieUp s (16 + p.val) = true) ∧ ((portOf s p.val).up = true)) ∧
    (∃ (s : Machine.State) (p : PortId),
      (dieUp s (16 + p.val) = true)) :=
  ⟨⟨cS cr, (0 : PortId), by decide +kernel⟩,
    ⟨cS { cr with stage := .fetched }, (0 : PortId), by decide +kernel⟩,
    ⟨cS cr, (0 : PortId), by decide +kernel⟩,
    ⟨owned, (0 : PortId), 5#3, 16#5, by decide +kernel⟩,
    ⟨cS cr, (0 : PortId), by decide +kernel⟩,
    ⟨cS cr, (0 : PortId), by decide +kernel⟩⟩

end Port

namespace Admit

def aR (op : Nat) : Request := { num := 1, sq := 1, ordered := false, partition := 1, desc := descOf op 1 0 [(24, leBytes 4 4)], stage := .queued, aq := 2, ready := true, payload := [1,2,3,4], len := 4, cost := 4, dur := 5 }
def aS (op : Nat) : Machine.State := withRw (withCfg (admS (reqSt owned 0 (aR op)) 0 { queues := [(2, { items := [1] })] }) [(0x4450*256+3, leBytes 32 1)]) [(0x5003*256,[0])]
def aU (op : Nat) : Machine.State := refuseQueued (decisionTick (aS op) 0) 0
def kx (c : Machine.Context) : Machine.State := admS (reqSt owned 0 { aR 1 with stage := .admitted, ctx := some 3 }) 0 { ctxs := [(3, c)] }
def c1 : Machine.Context := { state := 1, gen := 5, req := 1, partition := 1, deadline := 100 }
def gl (x y : Nat) : Bytes := leBytes 8 0 ++ leBytes 4 2000 ++ [2,0,0,0] ++ leBytes 4 x ++ leBytes 4 1000 ++ leBytes 4 y ++ leBytes 4 1000
def gS : Machine.State := withCfg (aS 1) [(0x4440*256, gl 0 4)]
def gS2 : Machine.State := admS gS 0 { queues := [(2, { items := [1] })], switchAt := some 500, oldList := some (gl 4 4) }
def hs : Machine.State := admS (reqSt owned 0 { aR 1 with headSince := some 7 }) 0 { queues := [(2, { items := [1] })] }
def jx (c : Machine.Context) (l : Ledger) : Machine.State := ledS (kx c) 0 l
def c2 : Machine.Context := { c1 with state := 2 }
def aRa : Request := { aR 1 with stage := .admitted, ctx := some 3 }
def sg : Bytes := 2 :: zeros 255
def recR (n : Nat) : Bytes := 1 :: zeros 127

theorem witness_admission_commands_complete :
    (∃ (s : Machine.State) (p : PortId) (a : Nat) (pass : Nat) (u : Machine.State) (d : Machine.State) (r : Request),
      (admitting s p.val = true) ∧ (dieUp s (16 + p.val) = true) ∧ (u = refuseQueued (decisionTick s p.val) p.val) ∧ ((decideNow u p.val).fst = some (a, pass)) ∧ ((decideNow u p.val).snd = d) ∧ (headOf d (p.val) a = some r)) ∧
    (∃ (s : Machine.State) (p : PortId) (c : CtxId),
      ((ctxOf s p.val c.val).state = 1)) ∧
    (∃ (s : Machine.State) (p : PortId) (c : CtxId) (v : VatId),
      ((ctxOf s p.val c.val).kills.contains v.val = true)) ∧
    (∃ (s : Machine.State) (p : PortId) (c : CtxId) (v : VatId),
      ((ctxOf s p.val c.val).kills.contains v.val = true)) ∧
    (∃ (s : Machine.State) (p : PortId) (a : AqId) (w : Nat),
      (nextOpen s p.val a.val = some w)) ∧
    (∃ (s : Machine.State) (p : PortId) (w : Tick),
      ((admOf s p.val).switchAt = some w)) ∧
    (∃ (s : Machine.State) (p : PortId) (a : AqId) (r : Request) (w : Tick),
      (headOf s p.val a.val = some r) ∧ (r.headSince = some w) ∧ (r.starved = false)) :=
  ⟨⟨aS 0x20, (0 : PortId), 2, 0, aU 0x20, (decideNow (aU 0x20) 0).2, aR 0x20, by decide +kernel⟩,
    ⟨kx c1, (0 : PortId), (3 : CtxId), by decide +kernel⟩,
    ⟨kx { c1 with state := 3, kills := [0, 1] }, (0 : PortId), (3 : CtxId), (1 : VatId), by decide +kernel⟩,
    ⟨kx { c1 with state := 3, kills := [0, 1] }, (0 : PortId), (3 : CtxId), (1 : VatId), by decide +kernel⟩,
    ⟨gS, (0 : PortId), (2 : AqId), (nextOpen gS 0 2).getD 0, by decide +kernel⟩,
    ⟨gS2, (0 : PortId), 500, by decide +kernel⟩,
    ⟨hs, (0 : PortId), (2 : AqId), { aR 1 with headSince := some 7 }, 7, by decide +kernel⟩⟩

theorem witness_journal_commands_complete :
    (∃ (s : Machine.State) (p : PortId) (c : CtxId) (r : Request),
      (recordAct s (p.val) (ctxOf s p.val c.val) = RecordAct.accept) ∧ (ctxRequest s (p.val) (ctxOf s p.val c.val) = some r)) ∧
    (∃ (s : Machine.State) (p : PortId) (c : CtxId),
      (recordAct s (p.val) (ctxOf s p.val c.val) = RecordAct.discard)) ∧
    (∃ (s : Machine.State) (p : PortId) (q : Nat) (r : Bytes),
      ((chainOf s p.val).signing = some (q, r)) ∧ (engineUp s p.val = true) ∧ (field r 0 1 = 2) ∧ (List.length r = 256)) ∧
    (∃ (s : Machine.State) (d : Deckle) (w : Tick),
      ((chainOf s d.val).tailSince = some w) ∧ ((ledOf s d.val).state = 2 ∨ (ledOf s d.val).state = 3) ∧ (sectorMask (chainOf s d.val) ((chainOf s d.val).chained / 64) ≠ 0)) :=
  ⟨⟨jx c2 { state := 2, chain := { next := 1 } }, (0 : PortId), (3 : CtxId), aRa, by decide +kernel⟩,
    ⟨jx { c2 with unchained := true } { state := 2 }, (0 : PortId), (3 : CtxId), by decide +kernel⟩,
    ⟨ledS owned 0 { state := 2, chain := { next := 1, signing := some (0, sg), seals := [(0,1)] } }, (0 : PortId), 0, sg, by decide +kernel⟩,
    ⟨ledS owned 0 { state := 2, chain := { next := 3, chained := 3, recs := [(0, recR 0), (1, recR 1), (2, recR 2)], tailSince := some 5 } }, (0 : Deckle), 5, by decide +kernel⟩⟩

end Admit

namespace Store

def sv (op : Nat) (l : Table Bytes) : Request := { num := 1, sq := 1, ordered := false, partition := 1, desc := descOf op 1 0 l, stage := .executing, aq := 2, ready := true, len := leNat ((descOf op 1 0 l).drop 24 |>.take 4) }
def sS (r : Request) (l : Ledger) : Machine.State := ledS (reqSt owned 0 r) 0 l
def jr (q n p : Nat) : Request := sv 0x20 [(28, leBytes 4 (256*n)), (40, leBytes 8 q), (48, leBytes 8 p), (56, leBytes 8 n)]
def recR (n : Nat) : Bytes := BitVec.ofNat 8 (n+1) :: zeros 255
def lj : Ledger := { state := 2, chain := { next := 3, chained := 3, recs := [(0, recR 0), (1, recR 1), (2, recR 2)], tailSince := some 5 } }
def pg (v : Nat) (d : Bytes) : NandPage := { md := { volume := v, logical := 0, sectors := 15, partition := 1 }, data := d }
def ljn : Ledger := { lj with pages := [(0, pg 1 [])], chain := { lj.chain with durable := 3 } }
def aw : Request := sv 0x21 [(24, leBytes 4 16384), (28, leBytes 4 8), (40, leBytes 8 5)]
def aw2 : Request := { aw with payload := List.replicate 16384 7 }
def ar : Request := { sv 0x22 [(24, leBytes 4 8), (28, leBytes 4 16384)] with payload := leBytes 8 (300*4096) }
def ad : Request := { sv 0x23 [(24, leBytes 4 8)] with payload := leBytes 8 (300*4096) }
def lja : Ledger := { state := 2, goodA := 100, layout := (256, 4, 32) }
def ljp : Ledger := { lja with pages := [(300*4096, pg 4 [1])] , blocks := [(300, { cls := 1, valid := 3 })] }
def arB : Request := { ar with payload := leBytes 8 (3*4096) }
def md : Request := sv 0x24 [(28, leBytes 4 64)]
def nS (l : Ledger) : Machine.State := ledS owned 0 l
def pj : Ledger := { lja with jobs := [{ volume := 4, data := [9], logical := 7, partition := 1 }] }
def P (b p : Nat) : BitVec 32 := BitVec.ofNat 32 (b * 4096 + p)
def pj0 : PageJob := { volume := 4, data := [9], logical := 7, partition := 1 }
def ljr : Ledger := { ljp with reads := [(300*4096, 0, .patrol)] }

theorem witness_ledger_service_requests_complete_1 :
    (∃ (s : Machine.State) (p : PortId) (num : Nat) (r : Request) (q : Nat),
      (r.started = false) ∧ (serviceReq s (p.val) num 32 = some r) ∧ (q = bits (descArg r.desc 1) 1 0) ∧ (partOwnsPort (portBank s p.val).cfg r.partition q = false) ∧ (bitAt (bankNat (portBank s p.val) 24583 (q + 1)) p.val = false)) ∧
    (∃ (s : Machine.State) (p : PortId) (num : Nat) (r : Request) (q : Nat),
      (r.started = false) ∧ (serviceReq s (p.val) num 32 = some r) ∧ (q = bits (descArg r.desc 1) 1 0) ∧ (partOwnsPort (portBank s p.val).cfg r.partition q = true ∨ bitAt (bankNat (portBank s p.val) 24583 (q + 1)) p.val = true) ∧ (dieUp s (16 + q) = true) ∧ ((ledOf s q).state = 2 ∨ (ledOf s q).state = 3) ∧ ((chainOf s q).release ≤ descArg r.desc 0) ∧ ((chainOf s q).lost = []) ∧ (recordPages (ledOf s q) (recordsFrom (chainOf s q) (descArg r.desc 0) (descArg r.desc 2)) = [])) ∧
    (∃ (s : Machine.State) (p : PortId) (num : Nat) (r : Request) (q : Nat),
      (r.started = false) ∧ (serviceReq s (p.val) num 32 = some r) ∧ (q = bits (descArg r.desc 1) 1 0) ∧ (partOwnsPort (portBank s p.val).cfg r.partition q = true ∨ bitAt (bankNat (portBank s p.val) 24583 (q + 1)) p.val = true) ∧ (dieUp s (16 + q) = true) ∧ ((ledOf s q).state = 2 ∨ (ledOf s q).state = 3) ∧ ((chainOf s q).release ≤ descArg r.desc 0) ∧ ((chainOf s q).lost = []) ∧ (recordPages (ledOf s q) (recordsFrom (chainOf s q) (descArg r.desc 0) (descArg r.desc 2)) ≠ [])) ∧
    (∃ (s : Machine.State) (p : PortId) (num : Nat) (r : Request) (st : Nat) (x : Nat),
      (r.started = false) ∧ (archiveDoor s p.val = ArchiveDoor.refused st x) ∧ (serviceReq s (p.val) num 33 = some r)) ∧
    (∃ (s : Machine.State) (p : PortId) (num : Nat) (r : Request) (st : Nat) (x : Nat),
      (r.started = false) ∧ (archiveDoor s p.val = ArchiveDoor.refused st x) ∧ (serviceReq s (p.val) num 34 = some r)) ∧
    (∃ (s : Machine.State) (p : PortId) (num : Nat) (r : Request) (st : Nat) (x : Nat),
      (r.started = false) ∧ (archiveDoor s p.val = ArchiveDoor.refused st x) ∧ (serviceReq s (p.val) num 35 = some r)) ∧
    (∃ (s : Machine.State) (p : PortId) (num : Nat) (r : Request),
      (r.started = false) ∧ (serviceReq s (p.val) num 33 = some r) ∧ (archiveDoor s p.val = ArchiveDoor.served) ∧ (descInLen r.desc / 16384 ≤ (freeBlocks s (p.val) false - stripeWidth s p.val) * List.foldl Nat.max 0 (List.map (fun x => x.pages) (List.filter (fun t => t.chan / 2 == p.val && targetFits t) s.led.fitted)))) ∧
    (∃ (s : Machine.State) (p : PortId) (num : Nat) (r : Request),
      (r.started = false) ∧ (serviceReq s (p.val) num 34 = some r) ∧ (archiveDoor s p.val = ArchiveDoor.served) ∧ (r.got = []) ∧ (8 ≤ descInLen r.desc) ∧ (descInLen r.desc ≤ 2048) ∧ (inVolumeA s (p.val) (field (requestBytes s (p.val) r) 0 8) = false)) :=
  ⟨⟨sS (jr 0 2 2) lj, (0 : PortId), 1, jr 0 2 2, 2, by decide +kernel⟩,
    ⟨sS (jr 0 2 0) lj, (0 : PortId), 1, jr 0 2 0, 0, by decide +kernel⟩,
    ⟨sS (jr 0 2 0) ljn, (0 : PortId), 1, jr 0 2 0, 0, by decide +kernel⟩,
    ⟨sS aw { state := 4 }, (0 : PortId), 1, aw, 0x0305, 8, by decide +kernel⟩,
    ⟨sS ar { state := 1 }, (0 : PortId), 1, ar, 0x0306, 0, by decide +kernel⟩,
    ⟨sS ad { state := 0 }, (0 : PortId), 1, ad, 0x0305, 1, by decide +kernel⟩,
    ⟨sS aw2 lja, (0 : PortId), 1, aw2, by decide +kernel, by rfl, by decide +kernel⟩,
    ⟨sS arB ljp, (0 : PortId), 1, arB, by decide +kernel⟩⟩

theorem witness_ledger_service_requests_complete_2 :
    (∃ (s : Machine.State) (p : PortId) (num : Nat) (r : Request),
      (r.started = false) ∧ (serviceReq s (p.val) num 34 = some r) ∧ (archiveDoor s p.val = ArchiveDoor.served) ∧ (r.got = []) ∧ (8 ≤ descInLen r.desc) ∧ (descInLen r.desc ≤ 2048)) ∧
    (∃ (s : Machine.State) (p : PortId) (num : Nat) (r : Request),
      (r.started = false) ∧ (serviceReq s (p.val) num 35 = some r) ∧ (archiveDoor s p.val = ArchiveDoor.served) ∧ (descInLen r.desc = 8) ∧ (inVolumeA s (p.val) (field (requestBytes s (p.val) r) 0 8) = true)) ∧
    (∃ (s : Machine.State) (p : PortId) (num : Nat) (r : Request),
      (r.started = false) ∧ (serviceReq s (p.val) num 36 = some r) ∧ (archiveDoor s (ppaChan (descArg r.desc 0) / 2) = ArchiveDoor.served)) :=
  ⟨⟨sS ar lja, (0 : PortId), 1, ar, by decide +kernel⟩,
    ⟨sS ad ljp, (0 : PortId), 1, ad, by decide +kernel⟩,
    ⟨sS md ljp, (0 : PortId), 1, md, by decide +kernel⟩⟩

theorem witness_nand_commands_complete_1 :
    (∃ (s : Machine.State) (d : Deckle) (ppa : BitVec 32) (i : Nat) (j : PageJob) (u : Machine.State),
      (canProgram s (d.val) ppa.toNat = true) ∧ (List.findIdx? (jobFits s (d.val) ppa.toNat) (ledOf s d.val).jobs = some i) ∧ ((ledOf s d.val).jobs[i]? = some j) ∧ (openBlock s (d.val) (ppaBlock ppa.toNat) j = some u)) ∧
    (∃ (s : Machine.State) (d : Deckle) (ppa : BitVec 32) (i : Nat) (j : PageJob) (u : Machine.State),
      (canProgram s (d.val) ppa.toNat = true) ∧ (List.findIdx? (jobFits s (d.val) ppa.toNat) (ledOf s d.val).jobs = some i) ∧ ((ledOf s d.val).jobs[i]? = some j) ∧ (openBlock s (d.val) (ppaBlock ppa.toNat) j = some u)) ∧
    (∃ (s : Machine.State) (d : Deckle) (ppa : BitVec 32),
      ((tget (ledOf s d.val).erasing (ppaBlock ppa.toNat)).isSome = true) ∧ ((ledOf s d.val).state ≠ 6) ∧ (dieUp s (16 + d.val) = true)) ∧
    (∃ (s : Machine.State) (d : Deckle) (ppa : BitVec 32),
      ((tget (ledOf s d.val).erasing (ppaBlock ppa.toNat)).isSome = true) ∧ ((ledOf s d.val).state ≠ 6) ∧ (dieUp s (16 + d.val) = true)) ∧
    (∃ (s : Machine.State) (d : Deckle) (ppa : BitVec 32) (level : BitVec 4) (what : ReadFor) (u : Machine.State) (g : NandPage),
      ((ledOf s d.val).state ≠ 6) ∧ (dieUp s (16 + d.val) = true) ∧ ((ledOf s d.val).down.contains (ppaChan ppa.toNat % 2) = false) ∧ (List.find? (fun e => e.fst == ppa.toNat && e.snd.fst == level.toNat) (ledOf s d.val).reads = some (ppa.toNat, level.toNat, what)) ∧ (suspendErase s (d.val) ppa.toNat = some u) ∧ (tget (ledOf s d.val).pages ppa.toNat = some g)) ∧
    (∃ (s : Machine.State) (d : Deckle) (ppa : BitVec 32) (level : BitVec 4) (what : ReadFor) (u : Machine.State) (g : NandPage),
      ((ledOf s d.val).state ≠ 6) ∧ (dieUp s (16 + d.val) = true) ∧ ((ledOf s d.val).down.contains (ppaChan ppa.toNat % 2) = false) ∧ (List.find? (fun e => e.fst == ppa.toNat && e.snd.fst == level.toNat) (ledOf s d.val).reads = some (ppa.toNat, level.toNat, what)) ∧ (suspendErase s (d.val) ppa.toNat = some u) ∧ (tget (ledOf s d.val).pages ppa.toNat = some g)) ∧
    (∃ (s : Machine.State) (d : Deckle) (ppa : BitVec 32) (g : NandPage),
      ((ledOf s d.val).state = 2 ∨ (ledOf s d.val).state = 3) ∧ (dieUp s (16 + d.val) = true) ∧ (tget (ledOf s d.val).pages ppa.toNat = some g) ∧ ((ledOf s d.val).retired.contains (ppaBlock ppa.toNat) = false) ∧ ((ledOf s d.val).down.contains (ppaChan ppa.toNat % 2) = false)) ∧
    (∃ (s : Machine.State) (d : Deckle) (ppa : BitVec 32),
      ((ledOf s d.val).state = 2 ∨ (ledOf s d.val).state = 3) ∧ (dieUp s (16 + d.val) = true) ∧ ((targetOf s (d.val) (ppaBlock ppa.toNat)).isSome = true) ∧ ((ledOf s d.val).retired.contains (ppaBlock ppa.toNat) = false) ∧ (tget (ledOf s d.val).erasing (ppaBlock ppa.toNat) = none) ∧ ((blockOf (ledOf s d.val) (ppaBlock ppa.toNat)).cls = 4 ∨ isJ (ledOf s d.val) (ppaBlock ppa.toNat) = false ∧ (blockOf (ledOf s d.val) (ppaBlock ppa.toNat)).cls = 1 ∧ (blockOf (ledOf s d.val) (ppaBlock ppa.toNat)).valid = 0 ∧ (blockOf (ledOf s d.val) (ppaBlock ppa.toNat)).parity = false ∧ (blockOf (ledOf s d.val) (ppaBlock ppa.toNat)).stripe = none ∧ tget (ledOf s d.val).remap (ppaBlock ppa.toNat) = none)) :=
  ⟨⟨nS pj, (0 : Deckle), P 300 0, 0, pj0, (openBlock (nS pj) 0 300 pj0).getD owned, by decide +kernel⟩,
    ⟨nS pj, (0 : Deckle), P 300 0, 0, pj0, (openBlock (nS pj) 0 300 pj0).getD owned, by decide +kernel⟩,
    ⟨nS { ljp with erasing := [(300, 0)] }, (0 : Deckle), P 300 0, by decide +kernel⟩,
    ⟨nS { ljp with erasing := [(300, 0)] }, (0 : Deckle), P 300 0, by decide +kernel⟩,
    ⟨nS ljr, (0 : Deckle), P 300 0, 0#4, ReadFor.patrol, nS ljr, pg 4 [1], by decide +kernel⟩,
    ⟨nS ljr, (0 : Deckle), P 300 0, 0#4, ReadFor.patrol, nS ljr, pg 4 [1], by decide +kernel⟩,
    ⟨nS ljp, (0 : Deckle), P 300 0, pg 4 [1], by decide +kernel⟩,
    ⟨nS { ljp with blocks := [(300, { cls := 1, valid := 0 })] }, (0 : Deckle), P 300 0, by decide +kernel⟩⟩

theorem witness_nand_commands_complete_2 :
    (∃ (s : Machine.State) (d : Deckle) (ppa : BitVec 32),
      ((ledOf s d.val).state = 2 ∨ (ledOf s d.val).state = 3) ∧ (dieUp s (16 + d.val) = true) ∧ ((targetOf s (d.val) (ppaBlock ppa.toNat)).isSome = true) ∧ (gcCandidate (ledOf s d.val) (ppaBlock ppa.toNat) (blockOf (ledOf s d.val) (ppaBlock ppa.toNat)) = true)) :=
    ⟨nS { ljp with blocks := [(30, { cls := 1, valid := 0 })] }, (0 : Deckle), P 30 0, by decide +kernel⟩

theorem witness_ledger_upkeep_complete :
    (∃ (s : Machine.State) (d : Deckle),
      (dieUp s (16 + d.val) = true) ∧ ((ledOf s d.val).state = 1) ∧ ((ledOf s d.val).startSeal = none)) ∧
    (∃ (s : Machine.State) (d : Deckle),
      (dieUp s (16 + d.val) = true) ∧ ((ledOf s d.val).scanA = true) ∧ ((ledOf s d.val).state = 2 ∨ (ledOf s d.val).state = 3)) ∧
    (∃ (s : Machine.State) (d : Deckle),
      (dieUp s (16 + d.val) = true) ∧ ((ledOf s d.val).formatted = true) ∧ ((ledOf s d.val).state ≠ 6)) ∧
    (∃ (s : Machine.State) (d : Deckle) (x : Int),
      (dieUp s (16 + d.val) = true) ∧ (d ≠ 0) ∧ ((ledOf s d.val).formatted = true) ∧ (-40 ≤ x) ∧ (x < 120)) ∧
    (∃ (s : Machine.State) (d : Deckle) (c : ChanId),
      (dieUp s (16 + d.val) = true) ∧ (c.val / 2 = d.val) ∧ ((ledOf s d.val).down.contains (c.val % 2) = false)) ∧
    (∃ (s : Machine.State) (d : Deckle) (c : ChanId),
      (dieUp s (16 + d.val) = true) ∧ (c.val / 2 = d.val) ∧ ((ledOf s d.val).down.contains (c.val % 2) = true)) :=
  ⟨⟨nS { lj with state := 1, clean := false }, (0 : Deckle), by decide +kernel⟩,
    ⟨nS { ljp with scanA := true }, (0 : Deckle), by decide +kernel⟩,
    ⟨nS { ljp with formatted := true }, (0 : Deckle), by decide +kernel⟩,
    ⟨ledS owned 1 { ljp with formatted := true }, (1 : Deckle), (37 : Int), by decide +kernel⟩,
    ⟨nS { ljp with formatted := true }, (0 : Deckle), (1 : ChanId), by decide +kernel⟩,
    ⟨nS { ljp with formatted := true, down := [1,0], state := 4 }, (0 : Deckle), (1 : ChanId), by decide +kernel⟩⟩

end Store

namespace Cell

def pay (op val mode ph : Nat) (ut : Nat := 0) : Bytes := leBytes 16 (op + mode * 2^8 + ut * 2^10 + val * 2^32 + ph * 2^64)
def syp (op val mode ph : Nat) : Packet := pkt 3 130 131 (pay op val mode ph) 0xA0000300
def cellS (c : Cell) : Machine.State := { owned with vs := { owned.vs with cells := [(3, c)] } }
def go (c : Cell) (p : Packet) : Machine.State := accU (cellS c) 130 p false
def pv (p : Packet) : Nat := leNat p.payload
def cwt : CellWaiter := { cond := { value := 9, useThreshold := false, phase := 0 }, src := 140, stream := 1, sgen := 2, seq := 3, partition := 1, tag := none }
def w5 : Cell := { count := 4, waiters := [cwt], mask := [(4, 1)] }
def b5 : Cell := { w5 with mode := 1, threshold := 7 }
def e5 : Cell := { w5 with mode := 2 }
def f5 : Cell := { w5 with waiters := List.replicate 64 cwt }
def n5 : Cell := { count := 4, phase := 9 }

theorem witness_sync_operations_complete_1 :
    (∃ (s : Machine.State) (u : Machine.State) (node : NodeId) (p : Packet) (k : Nat) (v : Nat) (x : Cell),
      (SyncAt s node p k u) ∧ (v = leNat p.payload) ∧ (x = cellOf s k) ∧ (opCode v = 0)) ∧
    (∃ (s : Machine.State) (u : Machine.State) (node : NodeId) (p : Packet) (k : Nat) (v : Nat) (x : Cell),
      (SyncAt s node p k u) ∧ (v = leNat p.payload) ∧ (x = cellOf s k) ∧ (6 ≤ opCode v)) ∧
    (∃ (s : Machine.State) (u : Machine.State) (node : NodeId) (p : Packet) (k : Nat) (v : Nat) (x : Cell),
      (SyncAt s node p k u) ∧ (v = leNat p.payload) ∧ (x = cellOf s k) ∧ (opCode v = 1) ∧ (x.mode = 0)) ∧
    (∃ (s : Machine.State) (u : Machine.State) (node : NodeId) (p : Packet) (k : Nat) (v : Nat) (x : Cell),
      (SyncAt s node p k u) ∧ (v = leNat p.payload) ∧ (x = cellOf s k) ∧ (opCode v = 1) ∧ (x.mode = 1) ∧ (1 ≤ opValue v) ∧ (opValue v ≤ x.threshold) ∧ (x.count + opValue v < x.threshold)) ∧
    (∃ (s : Machine.State) (u : Machine.State) (node : NodeId) (p : Packet) (k : Nat) (v : Nat) (x : Cell),
      (SyncAt s node p k u) ∧ (v = leNat p.payload) ∧ (x = cellOf s k) ∧ (opCode v = 1) ∧ (x.mode = 1) ∧ (1 ≤ opValue v) ∧ (opValue v ≤ x.threshold) ∧ (x.threshold ≤ x.count + opValue v)) ∧
    (∃ (s : Machine.State) (u : Machine.State) (node : NodeId) (p : Packet) (k : Nat) (v : Nat) (x : Cell),
      (SyncAt s node p k u) ∧ (v = leNat p.payload) ∧ (x = cellOf s k) ∧ (opCode v = 1) ∧ (2 ≤ x.mode ∨ x.mode = 1 ∧ (opValue v = 0 ∨ x.threshold < opValue v))) ∧
    (∃ (s : Machine.State) (u : Machine.State) (node : NodeId) (p : Packet) (k : Nat) (v : Nat) (x : Cell),
      (SyncAt s node p k u) ∧ (v = leNat p.payload) ∧ (x = cellOf s k) ∧ (opCode v = 2) ∧ (x.mode ≠ 1)) ∧
    (∃ (s : Machine.State) (u : Machine.State) (node : NodeId) (p : Packet) (k : Nat) (v : Nat) (x : Cell),
      (SyncAt s node p k u) ∧ (v = leNat p.payload) ∧ (x = cellOf s k) ∧ (opCode v = 2) ∧ (x.mode = 1)) :=
  ⟨⟨cellS {}, go {} (syp 0 0 0 0), 130#12, syp 0 0 0 0, 3, pv (syp 0 0 0 0), {}, sync_at_of (d := 0) (c := 3) (by decide +kernel), by decide +kernel⟩,
    ⟨cellS {}, go {} (syp 9 0 0 0), 130#12, syp 9 0 0 0, 3, pv (syp 9 0 0 0), {}, sync_at_of (d := 0) (c := 3) (by decide +kernel), by decide +kernel⟩,
    ⟨cellS w5, go w5 (syp 1 5 0 0), 130#12, syp 1 5 0 0, 3, pv (syp 1 5 0 0), w5, sync_at_of (d := 0) (c := 3) (by decide +kernel), by decide +kernel⟩,
    ⟨cellS b5, go b5 (syp 1 2 0 0), 130#12, syp 1 2 0 0, 3, pv (syp 1 2 0 0), b5, sync_at_of (d := 0) (c := 3) (by decide +kernel), by decide +kernel⟩,
    ⟨cellS b5, go b5 (syp 1 3 0 0), 130#12, syp 1 3 0 0, 3, pv (syp 1 3 0 0), b5, sync_at_of (d := 0) (c := 3) (by decide +kernel), by decide +kernel⟩,
    ⟨cellS b5, go b5 (syp 1 8 0 0), 130#12, syp 1 8 0 0, 3, pv (syp 1 8 0 0), b5, sync_at_of (d := 0) (c := 3) (by decide +kernel), by decide +kernel⟩,
    ⟨cellS e5, go e5 (syp 2 9 0 0), 130#12, syp 2 9 0 0, 3, pv (syp 2 9 0 0), e5, sync_at_of (d := 0) (c := 3) (by decide +kernel), by decide +kernel⟩,
    ⟨cellS b5, go b5 (syp 2 9 0 0), 130#12, syp 2 9 0 0, 3, pv (syp 2 9 0 0), b5, sync_at_of (d := 0) (c := 3) (by decide +kernel), by decide +kernel⟩⟩

theorem witness_sync_operations_complete_2 :
    (∃ (s : Machine.State) (u : Machine.State) (node : NodeId) (p : Packet) (k : Nat) (v : Nat) (x : Cell),
      (SyncAt s node p k u) ∧ (v = leNat p.payload) ∧ (x = cellOf s k) ∧ (opCode v = 3) ∧ (x.holds (opCond v) = true)) ∧
    (∃ (s : Machine.State) (u : Machine.State) (node : NodeId) (p : Packet) (k : Nat) (v : Nat) (x : Cell),
      (SyncAt s node p k u) ∧ (v = leNat p.payload) ∧ (x = cellOf s k) ∧ (opCode v = 3) ∧ (x.holds (opCond v) = false) ∧ (x.waiters.length < 64)) ∧
    (∃ (s : Machine.State) (u : Machine.State) (node : NodeId) (p : Packet) (k : Nat) (v : Nat) (x : Cell),
      (SyncAt s node p k u) ∧ (v = leNat p.payload) ∧ (x = cellOf s k) ∧ (opCode v = 3) ∧ (x.holds (opCond v) = false) ∧ (64 ≤ x.waiters.length)) ∧
    (∃ (s : Machine.State) (u : Machine.State) (node : NodeId) (p : Packet) (k : Nat) (v : Nat) (x : Cell),
      (SyncAt s node p k u) ∧ (v = leNat p.payload) ∧ (x = cellOf s k) ∧ (opCode v = 4) ∧ (x.mode = 1) ∧ (1 ≤ opValue v) ∧ (opValue v ≤ x.threshold) ∧ (x.threshold ≤ x.count + opValue v)) ∧
    (∃ (s : Machine.State) (u : Machine.State) (node : NodeId) (p : Packet) (k : Nat) (v : Nat) (x : Cell),
      (SyncAt s node p k u) ∧ (v = leNat p.payload) ∧ (x = cellOf s k) ∧ (opCode v = 4) ∧ (x.mode = 1) ∧ (1 ≤ opValue v) ∧ (opValue v ≤ x.threshold) ∧ (x.count + opValue v < x.threshold) ∧ (x.waiters.length < 64)) ∧
    (∃ (s : Machine.State) (u : Machine.State) (node : NodeId) (p : Packet) (k : Nat) (v : Nat) (x : Cell),
      (SyncAt s node p k u) ∧ (v = leNat p.payload) ∧ (x = cellOf s k) ∧ (opCode v = 4) ∧ (x.mode ≠ 1 ∨ opValue v = 0 ∨ x.threshold < opValue v)) ∧
    (∃ (s : Machine.State) (u : Machine.State) (node : NodeId) (p : Packet) (k : Nat) (v : Nat) (x : Cell),
      (SyncAt s node p k u) ∧ (v = leNat p.payload) ∧ (x = cellOf s k) ∧ (opCode v = 5) ∧ (opMode v = 3 ∨ opMode v = 1 ∧ opValue v = 0)) ∧
    (∃ (s : Machine.State) (u : Machine.State) (node : NodeId) (p : Packet) (k : Nat) (v : Nat) (x : Cell),
      (SyncAt s node p k u) ∧ (v = leNat p.payload) ∧ (x = cellOf s k) ∧ (opCode v = 5) ∧ (opMode v ≠ 3) ∧ (opMode v = 1 → opValue v ≠ 0) ∧ (x.waiters ≠ [] ∨ x.mask ≠ [])) :=
  ⟨⟨cellS w5, go w5 (syp 3 4 0 0), 130#12, syp 3 4 0 0, 3, pv (syp 3 4 0 0), w5, sync_at_of (d := 0) (c := 3) (by decide +kernel), by decide +kernel⟩,
    ⟨cellS w5, go w5 (syp 3 5 0 0), 130#12, syp 3 5 0 0, 3, pv (syp 3 5 0 0), w5, sync_at_of (d := 0) (c := 3) (by decide +kernel), by decide +kernel⟩,
    ⟨cellS f5, go f5 (syp 3 5 0 0), 130#12, syp 3 5 0 0, 3, pv (syp 3 5 0 0), f5, sync_at_of (d := 0) (c := 3) (by decide +kernel), by decide +kernel⟩,
    ⟨cellS b5, go b5 (syp 4 3 0 0), 130#12, syp 4 3 0 0, 3, pv (syp 4 3 0 0), b5, sync_at_of (d := 0) (c := 3) (by decide +kernel), by decide +kernel⟩,
    ⟨cellS b5, go b5 (syp 4 2 0 0), 130#12, syp 4 2 0 0, 3, pv (syp 4 2 0 0), b5, sync_at_of (d := 0) (c := 3) (by decide +kernel), by decide +kernel⟩,
    ⟨cellS w5, go w5 (syp 4 3 0 0), 130#12, syp 4 3 0 0, 3, pv (syp 4 3 0 0), w5, sync_at_of (d := 0) (c := 3) (by decide +kernel), by decide +kernel⟩,
    ⟨cellS w5, go w5 (syp 5 3 3 0), 130#12, syp 5 3 3 0, 3, pv (syp 5 3 3 0), w5, sync_at_of (d := 0) (c := 3) (by decide +kernel), by decide +kernel⟩,
    ⟨cellS w5, go w5 (syp 5 3 1 0), 130#12, syp 5 3 1 0, 3, pv (syp 5 3 1 0), w5, sync_at_of (d := 0) (c := 3) (by decide +kernel), by decide +kernel⟩⟩

theorem witness_sync_operations_complete_3 :
    (∃ (s : Machine.State) (u : Machine.State) (node : NodeId) (p : Packet) (k : Nat) (v : Nat) (x : Cell),
      (SyncAt s node p k u) ∧ (v = leNat p.payload) ∧ (x = cellOf s k) ∧ (opCode v = 5) ∧ (opMode v ≠ 3) ∧ (opMode v = 1 → opValue v ≠ 0) ∧ (x.waiters = []) ∧ (x.mask = [])) :=
    ⟨cellS n5, go n5 (syp 5 3 1 0), 130#12, syp 5 3 1 0, 3, pv (syp 5 3 1 0), n5, sync_at_of (d := 0) (c := 3) (by decide +kernel), by decide +kernel⟩

end Cell

namespace Wait

def ntf (opseq st : Nat) (k : Nat := 3) : Packet := pkt 0x43 (schedTile 0) 131 (leBytes 16 (opseq * 2^8 + st * 2^64)) (cellAddr k)
def nt : NodeId := BitVec.ofNat 12 (schedTile 0)
def cnd : WaitCond := { value := 9, useThreshold := false, phase := 0 }
def fx : Fibre := { state := 3, batch := 4, index := 5, wait := some (.sync 3 3 cnd (some 6) 7) }
def pk : Parked := { cell := 3, cond := cnd, opseq := 2, who := .fibre 0 1 }
def wS (v : Vat) : Machine.State := vatS owned 0 v
def wv : Vat := { fibres := [(1, fx)], waitTable := [pk] }
def upk (opseq : Nat) : Packet := pkt 0x44 130 (schedTile 0) (leBytes 16 (opseq * 2^8)) (cellAddr 3)
def mk (l : Nat) : Machine.State := { owned with vs := { owned.vs with cells := [(3, { mask := [(0, l)], count := 4 })] } }
def lim (v : Vat) : Machine.State := withRw (wS v) [(0x3404*256+1, leBytes 4 50)]
def sqw : Sequencer := { state := 3, wait := some (.sync 3 (3 + 9*2^32) 0 (some 6) false 7), pc := 5 }
def rsp (res opseq st : Nat) : Packet := { pkt 0x21 130 140 (syncRsp st opseq res) with aux := BitVec.ofNat 32 (2*65536 + 77) }
def ex1 (o : Initiator) : Expect := { stream := 2, sgen := 0, seq := 77, opcode := 3, addr := cellAddr 3, len := 16, owner := o }
def rS (v : Vat) (o : Initiator) : Machine.State := { wS v with fab := { owned.fab with expects := [(130, [ex1 o])] } }
def of : Initiator := .fibre 0 0 1 4 5 none
def rU (v : Vat) (o : Initiator) (p : Packet) : Machine.State := accU (rS v o) 130 p false
def fv : Vat := { fibres := [(1, fx)] }
def kp : Packet := { pkt 0x45 (schedTile 0) 5 [] with tag := BitVec.ofNat 16 (ctxTag 0 3 5), tagValid := true }
def kv : Vat := { fibres := [(1, { fx with tag := some (ctxTag 0 3 5) }), (2, fx)], queue := [(ctxTag 0 3 5, 0, 0), (5, 0, 0)] }
def kd : Packet := { pkt 0x46 (admissionTile 0) (schedTile 0) [] with tag := BitVec.ofNat 16 (ctxTag 0 3 5), tagValid := true }
def kc : Machine.Context := { state := 3, gen := 5, req := 1, partition := 1, kills := [0] }
def kS (c : Machine.Context) : Machine.State := admS (reqSt owned 0 { num := 1, sq := 1, ordered := false, partition := 1, desc := descOf 1 1 0, stage := .admitted, ctx := some 3 }) 0 { ctxs := [(3, c)] }
def kn : NodeId := BitVec.ofNat 12 (admissionTile 0)

theorem witness_sync_waits_and_kills_complete_1 :
    (∃ (s : Machine.State) (u : Machine.State) (node : NodeId) (p : Packet) (v : Nat) (cd : Nat) (c : Nat) (off : Nat) (d : Nat) (slice : Nat) (slot : Nat) (k : Nat) (op : Nat) (since : Nat) (cnd : WaitCond) (ret : Option Nat) (w : Parked) (x : Fibre),
      (v = leNat p.payload) ∧ (Takes s node p u) ∧ (p.opcode = 67) ∧ (d = dieOf (BitVec.toNat node)) ∧ (decodeAddr p.addr.toNat = some (Region.syncCell cd c off)) ∧ (List.filter (fun e => e.cell == 256 * cd + c && serialLt 32 e.opseq (bits v 39 8) && stateHolds s (256 * cd + c) (bits v 127 64) e.cond) (vatOf s d).waitTable = [w]) ∧ (w.who = Waiter.fibre slice slot) ∧ (fibreAt s d slice slot = some x) ∧ (x.wait = some (FibreWait.sync k op cnd ret since)) ∧ (x.opIndex < 255)) ∧
    (∃ (s : Machine.State) (u : Machine.State) (node : NodeId) (p : Packet) (v : Nat) (cd : Nat) (c : Nat) (off : Nat) (d : Nat),
      (v = leNat p.payload) ∧ (Takes s node p u) ∧ (p.opcode = 67) ∧ (d = dieOf (BitVec.toNat node)) ∧ (decodeAddr p.addr.toNat = some (Region.syncCell cd c off)) ∧ (List.filter (fun e => e.cell == 256 * cd + c && serialLt 32 e.opseq (bits v 39 8) && stateHolds s (256 * cd + c) (bits v 127 64) e.cond) (vatOf s d).waitTable = [])) ∧
    (∃ (s : Machine.State) (u : Machine.State) (node : NodeId) (p : Packet) (v : Nat) (cd : Nat) (c : Nat) (off : Nat) (last : Nat),
      (v = leNat p.payload) ∧ (Takes s node p u) ∧ (p.opcode = 68) ∧ (decodeAddr p.addr.toNat = some (Region.syncCell cd c off)) ∧ (tget (cellOf s (256 * cd + c)).mask (dieOf p.src.toNat) = some last)) ∧
    (∃ (s : Machine.State) (p : Packet) (v : Nat) (c : CellId),
      (v = leNat p.payload) ∧ ((cellOf s c.val).mask ≠ [])) ∧
    (∃ (s : Machine.State) (p : Packet) (v : Nat) (d : VatId) (w : Parked) (l : List Parked) (r : Region),
      (v = leNat p.payload) ∧ ((vatOf s d.val).resend = w :: l) ∧ ((vatOf s d.val).waitTable.length < 4096) ∧ (decodeAddr (cellAddr w.cell) = some r)) ∧
    (∃ (s : Machine.State) (p : Packet) (v : Nat) (d : VatId) (sl : SliceId) (st : SlotId) (x : Fibre) (k : Nat) (op : Nat) (since : Nat) (cnd : WaitCond) (ret : Option Nat),
      (v = leNat p.payload) ∧ (setting s 13316 (d.val + 1) ≠ 0) ∧ (fibreAt s d.val sl.val st.val = some x) ∧ (x.wait = some (FibreWait.sync k op cnd ret since)) ∧ (op = 3 ∨ op = 4)) ∧
    (∃ (s : Machine.State) (p : Packet) (v : Nat) (d : VatId) (k : Nat) (pay : Nat) (ph : Nat) (since : Nat) (ret : Option Nat),
      (v = leNat p.payload) ∧ (setting s 13316 (d.val + 1) ≠ 0) ∧ ((seqOf s d.val).wait = some (SeqWait.sync k pay ph ret false since)) ∧ (opCode pay = 3 ∨ opCode pay = 4) ∧ (setting s 12565 (d.val + 1) ≠ 1)) ∧
    (∃ (s : Machine.State) (u : Machine.State) (node : NodeId) (p : Packet) (v : Nat) (d : Nat) (slice : Nat) (slot : Nat) (batch : Nat) (index : Nat) (k : Nat) (op : Nat) (since : Nat) (tg : Option Nat) (cnd : WaitCond) (ret : Option Nat) (e : Expect) (x : Fibre),
      (v = leNat p.payload) ∧ (Accepts s node p false u) ∧ (p.opcode = 33) ∧ ((takeExpect u (BitVec.toNat node) p 3).snd = some e) ∧ (e.owner = Initiator.fibre d slice slot batch index tg) ∧ (fibreAt s d slice slot = some x) ∧ (x.batch = batch) ∧ (x.index = index) ∧ (x.wait = some (FibreWait.sync k op cnd ret since)) ∧ (bits v 7 0 ≤ 1) ∧ (x.opIndex < 255)) :=
  ⟨⟨wS wv, taken (wS wv) (schedTile 0) (ntf 5 10), nt, ntf 5 10, leNat (ntf 5 10).payload, 0, 3, 0, 0, 0, 1, 3, 3, 7, cnd, some 6, pk, fx, by decide +kernel, takes_of (by decide +kernel), by decide +kernel⟩,
    ⟨wS wv, taken (wS wv) (schedTile 0) (ntf 5 8), nt, ntf 5 8, leNat (ntf 5 8).payload, 0, 3, 0, 0, by decide +kernel, takes_of (by decide +kernel), by decide +kernel⟩,
    ⟨mk 5, taken (mk 5) 130 (upk 5), 130#12, upk 5, leNat (upk 5).payload, 0, 3, 0, 5, by decide +kernel, takes_of (by decide +kernel), by decide +kernel⟩,
    ⟨mk 5, upk 4, leNat (upk 4).payload, (3 : CellId), by decide +kernel⟩,
    ⟨wS { wv with resend := [pk] }, upk 4, leNat (upk 4).payload, (0 : VatId), pk, [], (decodeAddr (cellAddr 3)).getD (.syncCell 0 0 0), by decide +kernel⟩,
    ⟨lim wv, upk 4, leNat (upk 4).payload, (0 : VatId), (0 : SliceId), (1 : SlotId), fx, 3, 3, 7, cnd, some 6, by decide +kernel⟩,
    ⟨lim { seq := sqw }, upk 4, leNat (upk 4).payload, (0 : VatId), 3, 3 + 9*2^32, 0, 7, some 6, by decide +kernel⟩,
    ⟨rS fv of, rU fv of (rsp 1 3 10), 130#12, rsp 1 3 10, leNat (rsp 1 3 10).payload, 0, 0, 1, 4, 5, 3, 3, 7, none, cnd, some 6, ex1 of, fx, by decide +kernel, accepts_of (by decide +kernel), by decide +kernel⟩⟩

theorem witness_sync_waits_and_kills_complete_2 :
    (∃ (s : Machine.State) (u : Machine.State) (node : NodeId) (p : Packet) (v : Nat) (d : Nat) (slice : Nat) (slot : Nat) (batch : Nat) (index : Nat) (k : Nat) (op : Nat) (since : Nat) (tg : Option Nat) (cnd : WaitCond) (ret : Option Nat) (e : Expect) (x : Fibre),
      (v = leNat p.payload) ∧ (Accepts s node p false u) ∧ (p.opcode = 33) ∧ ((takeExpect u (BitVec.toNat node) p 3).snd = some e) ∧ (e.owner = Initiator.fibre d slice slot batch index tg) ∧ (fibreAt s d slice slot = some x) ∧ (x.batch = batch) ∧ (x.index = index) ∧ (x.wait = some (FibreWait.sync k op cnd ret since)) ∧ (bits v 7 0 = 2) ∧ (op = 3) ∧ ((vatOf s d).waitTable.length < 4096) ∧ (tget (vatOf s d).notifies k = none)) ∧
    (∃ (s : Machine.State) (u : Machine.State) (node : NodeId) (p : Packet) (v : Nat) (d : Nat) (slice : Nat) (slot : Nat) (batch : Nat) (index : Nat) (k : Nat) (op : Nat) (since : Nat) (tg : Option Nat) (cnd : WaitCond) (ret : Option Nat) (e : Expect) (x : Fibre),
      (v = leNat p.payload) ∧ (Accepts s node p false u) ∧ (p.opcode = 33) ∧ ((takeExpect u (BitVec.toNat node) p 3).snd = some e) ∧ (e.owner = Initiator.fibre d slice slot batch index tg) ∧ (fibreAt s d slice slot = some x) ∧ (x.batch = batch) ∧ (x.index = index) ∧ (x.wait = some (FibreWait.sync k op cnd ret since)) ∧ (3 ≤ bits v 7 0)) ∧
    (∃ (s : Machine.State) (u : Machine.State) (node : NodeId) (p : Packet) (v : Nat) (d : Nat) (k : Nat) (pay : Nat) (ph : Nat) (since : Nat) (ret : Option Nat) (nl : Bool) (e : Expect),
      (v = leNat p.payload) ∧ (Accepts s node p false u) ∧ (p.opcode = 33) ∧ ((takeExpect u (BitVec.toNat node) p 3).snd = some e) ∧ (e.owner = Initiator.sequencer d) ∧ ((seqOf s d).wait = some (SeqWait.sync k pay ph ret nl since)) ∧ (bits v 7 0 ≤ 1) ∧ ((seqOf s d).posted = none) ∧ ((seqOf s d).stopping = false)) ∧
    (∃ (s : Machine.State) (u : Machine.State) (node : NodeId) (p : Packet) (v : Nat) (d : Nat),
      (v = leNat p.payload) ∧ (Takes s node p u) ∧ (p.tagValid = true) ∧ (d = dieOf (BitVec.toNat node)) ∧ (d < 16) ∧ (p.opcode = 69)) ∧
    (∃ (s : Machine.State) (u : Machine.State) (node : NodeId) (p : Packet) (v : Nat) (c : Nat) (d : Nat) (x : Machine.Context),
      (v = leNat p.payload) ∧ (Takes s node p u) ∧ (p.tagValid = true) ∧ (p.opcode = 70) ∧ (tagCurrent s p.tag.toNat = true) ∧ (d = dieOf p.src.toNat) ∧ (c = tagCtx p.tag.toNat) ∧ (x = ctxOf s (tagPort p.tag.toNat) c)) :=
  ⟨⟨rS fv of, rU fv of (rsp 2 3 10), 130#12, rsp 2 3 10, leNat (rsp 2 3 10).payload, 0, 0, 1, 4, 5, 3, 3, 7, none, cnd, some 6, ex1 of, fx, by decide +kernel, accepts_of (by decide +kernel), by decide +kernel⟩,
    ⟨rS fv of, rU fv of (rsp 16 3 10), 130#12, rsp 16 3 10, leNat (rsp 16 3 10).payload, 0, 0, 1, 4, 5, 3, 3, 7, none, cnd, some 6, ex1 of, fx, by decide +kernel, accepts_of (by decide +kernel), by decide +kernel⟩,
    ⟨rS { seq := sqw } (.sequencer 0), rU { seq := sqw } (.sequencer 0) (rsp 1 3 10), 130#12, rsp 1 3 10, leNat (rsp 1 3 10).payload, 0, 3, 3 + 9*2^32, 0, 7, some 6, false, ex1 (.sequencer 0), by decide +kernel, accepts_of (by decide +kernel), by decide +kernel⟩,
    ⟨wS kv, taken (wS kv) (schedTile 0) kp, nt, kp, 0, 0, by decide +kernel, takes_of (by decide +kernel), by decide +kernel⟩,
    ⟨kS kc, taken (kS kc) (admissionTile 0) kd, kn, kd, 0, 3, 0, kc, by decide +kernel, takes_of (by decide +kernel), by decide +kernel⟩⟩

end Wait

namespace Route

def op (o : Nat) (d : Nat) : OutPacket := { owner := .endpoint 0 3, pkt := { pkt o d 0 (zeros 16) with opening := false, mclass := BitVec.ofNat 3 ((opClass o).getD 7), tc := BitVec.ofNat 3 (opTc o false) } }
def iwn (n : Nat) (o : OutPacket) : OutPacket := { owner := o.owner, pkt := { o.pkt with src := BitVec.ofNat 12 n } }
def iw (o : OutPacket) : OutPacket := iwn 130 o
def iu (s : Machine.State) (o : OutPacket) : Machine.State := send s 130 o.owner o.pkt
def ln (s : Machine.State) (t : Tracker) : Machine.State := { s with fab := { s.fab with trackers := [(64*130+5, t)] } }
def tk : Tracker := { inUse := true, sgen := 4, dest := 131, cls := 1, nextSeq := 9 }
def lf : OutPacket := { owner := .sequencer 0, pkt := pkt 0 0 0 [] }
def lua (t : Machine.State) (i : Nat) : Unacked := (trackerOf t 130 i).unacked.getLastD { seq := 0, pkt := lf.pkt, owner := .sequencer 0 }
def es : Nat := serviceTile 3
def allC : Machine.State := { ready with fab := { ready.fab with trackers := (List.range 64).map fun i => (64*130+i, { inUse := true, sgen := 7, dest := 140 + i, cls := 1, nextSeq := 9, unacked := [lua ready 0], idleSince := i }) } }
def mgr : Nat := 1 + 130 * 2^96 + 1 * 2^108 + 2^112
def mgS : Machine.State := withCfg owned [(0x2400*256+3, leBytes 64 mgr)]
def mo : OutPacket := { op 0x60 130 with pkt := { (op 0x60 130).pkt with aux := 2, partition := 1 } }
def rgS : Machine.State := { withRw ready [(0x2100*256+ (opTc 0x43 false), leBytes 4 (100 + 5*65536))] with fab := { ready.fab with waiting := [(130, [iw (op 0x43 131)])], buckets := [(8*130 + opTc 0x43 false, { tokens := 0, at_ := 0 })] } }
def rw : OutPacket := iw (op 0x43 131)
def hd (d : Nat) : Packet := { pkt 0x43 d 131 (zeros 16) with opening := false, rset := 1, mclass := 0, tc := 0 }
def fl (p : Packet) (port : Nat) : Flight := { node := 130, port := port, vc := vcOf p, pkt := p }
def rt (l : List Flight) (ls : Table Nat) : Machine.State := { ready with fab := { ready.fab with net := l, links := ls } }
def l2 (st : Nat) : Table Nat := [(linkKey 130 2, st)]
def vc1 : BitVec 4 := BitVec.ofNat 4 (vcOf (hd 130))
def moved (s : Machine.State) (x : Flight) : Machine.State := modFab s (fun f => { f with net := f.net.map (fun z => if z == x then { x with pkt := atRouter 130 x.pkt } else z) })
def F (p : Packet) : Flight := fl p 2
def R (p : Packet) (ls : Table Nat) : Machine.State := rt [F p] ls
def M (p : Packet) (ls : Table Nat) : Machine.State := moved (R p ls) (F p)
def full : List Flight := List.replicate 40 { node := 131, port := 4, vc := vcOf (hd 131), pkt := hd 131 }
def bS : Machine.State := rt (F (hd 131) :: full) (l2 2)
def bg : Packet := { pkt 1 130 131 (zeros 16) with opening := false, rset := 1, mclass := 1, tc := 3 }
def vb : BitVec 4 := BitVec.ofNat 4 (vcOf bg)

theorem witness_injection_commands_complete_1 :
    (∃ (s : Machine.State) (node : NodeId),
      ((locateNode (BitVec.toNat node)).isSome = true) ∧ (tgetD s.fab.waiting (BitVec.toNat node) [] = [])) ∧
    (∃ (s : Machine.State) (node : NodeId) (o : OutPacket) (w : OutPacket) (u : Machine.State) (e : Nat) (r : Nat × Option Nat),
      ((locateNode (BitVec.toNat node)).isSome = true) ∧ (tgetD s.fab.waiting (BitVec.toNat node) [] = []) ∧ (u = send s (BitVec.toNat node) o.owner o.pkt) ∧ (w = { owner := o.owner, pkt := have __src := o.pkt; { opcode := __src.opcode, mclass := __src.mclass, tc := __src.tc, rset := __src.rset, wpValid := __src.wpValid, epoch := __src.epoch, partition := __src.partition, poison := __src.poison, check := __src.check, ackNow := __src.ackNow, opening := __src.opening, dest := __src.dest, src := node, waypoint := __src.waypoint, stream := __src.stream, sgen := __src.sgen, seq := __src.seq, length := __src.length, tag := __src.tag, tagValid := __src.tagValid, aux := __src.aux, addr := __src.addr, payload := __src.payload, checkValue := __src.checkValue } }) ∧ (injectAct u (BitVec.toNat node) w = InjectAct.plain e r)) ∧
    (∃ (s : Machine.State) (node : NodeId) (o : OutPacket) (w : OutPacket) (u : Machine.State) (dst : Nat) (rel : Option Nat),
      ((locateNode (BitVec.toNat node)).isSome = true) ∧ (tgetD s.fab.waiting (BitVec.toNat node) [] = []) ∧ (u = send s (BitVec.toNat node) o.owner o.pkt) ∧ (w = { owner := o.owner, pkt := have __src := o.pkt; { opcode := __src.opcode, mclass := __src.mclass, tc := __src.tc, rset := __src.rset, wpValid := __src.wpValid, epoch := __src.epoch, partition := __src.partition, poison := __src.poison, check := __src.check, ackNow := __src.ackNow, opening := __src.opening, dest := __src.dest, src := node, waypoint := __src.waypoint, stream := __src.stream, sgen := __src.sgen, seq := __src.seq, length := __src.length, tag := __src.tag, tagValid := __src.tagValid, aux := __src.aux, addr := __src.addr, payload := __src.payload, checkValue := __src.checkValue } }) ∧ (injectAct u (BitVec.toNat node) w = InjectAct.escape dst rel)) ∧
    (∃ (s : Machine.State) (node : NodeId) (o : OutPacket) (w : OutPacket) (u : Machine.State) (i : Nat) (e : Nat) (r : Nat × Option Nat),
      ((locateNode (BitVec.toNat node)).isSome = true) ∧ (tgetD s.fab.waiting (BitVec.toNat node) [] = []) ∧ (u = send s (BitVec.toNat node) o.owner o.pkt) ∧ (w = { owner := o.owner, pkt := have __src := o.pkt; { opcode := __src.opcode, mclass := __src.mclass, tc := __src.tc, rset := __src.rset, wpValid := __src.wpValid, epoch := __src.epoch, partition := __src.partition, poison := __src.poison, check := __src.check, ackNow := __src.ackNow, opening := __src.opening, dest := __src.dest, src := node, waypoint := __src.waypoint, stream := __src.stream, sgen := __src.sgen, seq := __src.seq, length := __src.length, tag := __src.tag, tagValid := __src.tagValid, aux := __src.aux, addr := __src.addr, payload := __src.payload, checkValue := __src.checkValue } }) ∧ (injectAct u (BitVec.toNat node) w = InjectAct.stream i e r)) ∧
    (∃ (s : Machine.State) (node : NodeId) (o : OutPacket) (w : OutPacket) (u : Machine.State) (i : Nat) (c : Bool) (e : Nat) (r : Nat × Option Nat),
      ((locateNode (BitVec.toNat node)).isSome = true) ∧ (tgetD s.fab.waiting (BitVec.toNat node) [] = []) ∧ (u = send s (BitVec.toNat node) o.owner o.pkt) ∧ (w = { owner := o.owner, pkt := have __src := o.pkt; { opcode := __src.opcode, mclass := __src.mclass, tc := __src.tc, rset := __src.rset, wpValid := __src.wpValid, epoch := __src.epoch, partition := __src.partition, poison := __src.poison, check := __src.check, ackNow := __src.ackNow, opening := __src.opening, dest := __src.dest, src := node, waypoint := __src.waypoint, stream := __src.stream, sgen := __src.sgen, seq := __src.seq, length := __src.length, tag := __src.tag, tagValid := __src.tagValid, aux := __src.aux, addr := __src.addr, payload := __src.payload, checkValue := __src.checkValue } }) ∧ (injectAct u (BitVec.toNat node) w = InjectAct.openOn i c e r)) ∧
    (∃ (s : Machine.State) (node : NodeId) (o : OutPacket) (w : OutPacket) (u : Machine.State) (g : Nat),
      ((locateNode (BitVec.toNat node)).isSome = true) ∧ (tgetD s.fab.waiting (BitVec.toNat node) [] = []) ∧ (u = send s (BitVec.toNat node) o.owner o.pkt) ∧ (w = { owner := o.owner, pkt := have __src := o.pkt; { opcode := __src.opcode, mclass := __src.mclass, tc := __src.tc, rset := __src.rset, wpValid := __src.wpValid, epoch := __src.epoch, partition := __src.partition, poison := __src.poison, check := __src.check, ackNow := __src.ackNow, opening := __src.opening, dest := __src.dest, src := node, waypoint := __src.waypoint, stream := __src.stream, sgen := __src.sgen, seq := __src.seq, length := __src.length, tag := __src.tag, tagValid := __src.tagValid, aux := __src.aux, addr := __src.addr, payload := __src.payload, checkValue := __src.checkValue } }) ∧ (injectAct u (BitVec.toNat node) w = InjectAct.relay) ∧ (g = bits o.pkt.aux.toNat 9 0) ∧ (mcRefusal u (BitVec.toNat node) g o.pkt.partition.toNat = none)) ∧
    (∃ (s : Machine.State) (node : NodeId) (o : OutPacket) (w : OutPacket) (u : Machine.State),
      ((locateNode (BitVec.toNat node)).isSome = true) ∧ (tgetD s.fab.waiting (BitVec.toNat node) [] = []) ∧ (u = send s (BitVec.toNat node) o.owner o.pkt) ∧ (w = { owner := o.owner, pkt := have __src := o.pkt; { opcode := __src.opcode, mclass := __src.mclass, tc := __src.tc, rset := __src.rset, wpValid := __src.wpValid, epoch := __src.epoch, partition := __src.partition, poison := __src.poison, check := __src.check, ackNow := __src.ackNow, opening := __src.opening, dest := __src.dest, src := node, waypoint := __src.waypoint, stream := __src.stream, sgen := __src.sgen, seq := __src.seq, length := __src.length, tag := __src.tag, tagValid := __src.tagValid, aux := __src.aux, addr := __src.addr, payload := __src.payload, checkValue := __src.checkValue } }) ∧ (injectAct u (BitVec.toNat node) w = InjectAct.wait)) ∧
    (∃ (s : Machine.State) (node : NodeId) (o : OutPacket) (w : OutPacket) (u : Machine.State),
      ((locateNode (BitVec.toNat node)).isSome = true) ∧ (tgetD s.fab.waiting (BitVec.toNat node) [] = []) ∧ (u = send s (BitVec.toNat node) o.owner o.pkt) ∧ (w = { owner := o.owner, pkt := have __src := o.pkt; { opcode := __src.opcode, mclass := __src.mclass, tc := __src.tc, rset := __src.rset, wpValid := __src.wpValid, epoch := __src.epoch, partition := __src.partition, poison := __src.poison, check := __src.check, ackNow := __src.ackNow, opening := __src.opening, dest := __src.dest, src := node, waypoint := __src.waypoint, stream := __src.stream, sgen := __src.sgen, seq := __src.seq, length := __src.length, tag := __src.tag, tagValid := __src.tagValid, aux := __src.aux, addr := __src.addr, payload := __src.payload, checkValue := __src.checkValue } }) ∧ (injectAct u (BitVec.toNat node) w = InjectAct.waitTracker)) :=
  ⟨⟨ready, 130#12, by decide +kernel⟩,
    ⟨ready, 130#12, op 0x43 131, iw (op 0x43 131), iu ready (op 0x43 131), 0, (1, none), by decide +kernel⟩,
    ⟨ready, 130#12, op 0x53 es, iw (op 0x53 es), iu ready (op 0x53 es), es, none, by decide +kernel⟩,
    ⟨ln ready tk, 130#12, op 1 131, iw (op 1 131), iu (ln ready tk) (op 1 131), 5, 0, (1, none), by decide +kernel⟩,
    ⟨ready, 130#12, op 1 131, iw (op 1 131), iu ready (op 1 131), 0, false, 0, (1, none), by decide +kernel⟩,
    ⟨mgS, 130#12, mo, iw mo, iu mgS mo, 2, by decide +kernel⟩,
    ⟨ln ready { tk with opening := true }, 130#12, op 1 131, iw (op 1 131), iu (ln ready { tk with opening := true }) (op 1 131), by decide +kernel⟩,
    ⟨allC, 130#12, op 1 131, iw (op 1 131), iu allC (op 1 131), by decide +kernel⟩⟩

theorem witness_injection_commands_complete_2 :
    (∃ (s : Machine.State) (node : NodeId) (o : OutPacket) (w : OutPacket) (u : Machine.State) (cause : Nat) (detail : Nat) (log : Bool),
      ((locateNode (BitVec.toNat node)).isSome = true) ∧ (tgetD s.fab.waiting (BitVec.toNat node) [] = []) ∧ (u = send s (BitVec.toNat node) o.owner o.pkt) ∧ (w = { owner := o.owner, pkt := have __src := o.pkt; { opcode := __src.opcode, mclass := __src.mclass, tc := __src.tc, rset := __src.rset, wpValid := __src.wpValid, epoch := __src.epoch, partition := __src.partition, poison := __src.poison, check := __src.check, ackNow := __src.ackNow, opening := __src.opening, dest := __src.dest, src := node, waypoint := __src.waypoint, stream := __src.stream, sgen := __src.sgen, seq := __src.seq, length := __src.length, tag := __src.tag, tagValid := __src.tagValid, aux := __src.aux, addr := __src.addr, payload := __src.payload, checkValue := __src.checkValue } }) ∧ (injectAct u (BitVec.toNat node) w = InjectAct.fail cause detail log)) ∧
    (∃ (s : Machine.State) (node : NodeId) (w : OutPacket) (u : Machine.State) (e : Nat) (r : Nat × Option Nat),
      ((locateNode (BitVec.toNat node)).isSome = true) ∧ (tgetD s.fab.waiting (BitVec.toNat node) [] = [w]) ∧ (held s (BitVec.toNat node) w.pkt.tc.toNat = true) ∧ (u = timeReaches s (releaseTick s (BitVec.toNat node) w.pkt.tc.toNat)) ∧ (injectAct u (BitVec.toNat node) w = InjectAct.plain e r)) :=
  ⟨⟨ready, 130#12, op 1 4000, iw (op 1 4000), iu ready (op 1 4000), 0x26, 4000, true, by decide +kernel⟩,
    ⟨rgS, 130#12, rw, timeReaches rgS (releaseTick rgS 130 0), 0, (1, none), by decide +kernel⟩⟩

theorem witness_router_forward_completes_1 :
    (∃ (s : Machine.State) (u : Machine.State) (node : NodeId) (port : InPort) (vc : BitVec 4) (err : FlitErr) (x : Flight) (y : Flight),
      (List.find? (fun z => z.node == BitVec.toNat node && z.port == port.val && z.vc == vc.toNat) s.fab.net = some x) ∧ (y = { node := x.node, port := x.port, vc := x.vc, pkt := atRouter (BitVec.toNat node) x.pkt, relay := x.relay }) ∧ (u = modFab s fun f => { trackers := f.trackers, rx := f.rx, waiting := f.waiting, net := List.map (fun z => if (z == x) = true then y else z) f.net, arrived := f.arrived, acks := f.acks, expects := f.expects, buckets := f.buckets, links := f.links, tc6 := f.tc6, deficits := f.deficits, retries := f.retries, lanes := f.lanes, streamStats := f.streamStats }) ∧ (0 < err.corrected)) ∧
    (∃ (s : Machine.State) (u : Machine.State) (node : NodeId) (port : InPort) (vc : BitVec 4) (err : FlitErr) (x : Flight) (y : Flight),
      (List.find? (fun z => z.node == BitVec.toNat node && z.port == port.val && z.vc == vc.toNat) s.fab.net = some x) ∧ (y = { node := x.node, port := x.port, vc := x.vc, pkt := atRouter (BitVec.toNat node) x.pkt, relay := x.relay }) ∧ (u = modFab s fun f => { trackers := f.trackers, rx := f.rx, waiting := f.waiting, net := List.map (fun z => if (z == x) = true then y else z) f.net, arrived := f.arrived, acks := f.acks, expects := f.expects, buckets := f.buckets, links := f.links, tc6 := f.tc6, deficits := f.deficits, retries := f.retries, lanes := f.lanes, streamStats := f.streamStats }) ∧ (err = { }) ∧ (headerBad s x.pkt = false) ∧ (y.pkt.opcode ≠ 97) ∧ (outPort (BitVec.toNat node) y.pkt = 0) ∧ (x.relay = none) ∧ (granted u (BitVec.toNat node) 0 x.vc y.pkt (rivals u (BitVec.toNat node) x.port x.vc 0) = true)) ∧
    (∃ (s : Machine.State) (u : Machine.State) (node : NodeId) (port : InPort) (vc : BitVec 4) (err : FlitErr) (x : Flight) (y : Flight) (out : Nat) (m : Nat),
      (List.find? (fun z => z.node == BitVec.toNat node && z.port == port.val && z.vc == vc.toNat) s.fab.net = some x) ∧ (y = { node := x.node, port := x.port, vc := x.vc, pkt := atRouter (BitVec.toNat node) x.pkt, relay := x.relay }) ∧ (u = modFab s fun f => { trackers := f.trackers, rx := f.rx, waiting := f.waiting, net := List.map (fun z => if (z == x) = true then y else z) f.net, arrived := f.arrived, acks := f.acks, expects := f.expects, buckets := f.buckets, links := f.links, tc6 := f.tc6, deficits := f.deficits, retries := f.retries, lanes := f.lanes, streamStats := f.streamStats }) ∧ (err = { }) ∧ (headerBad s x.pkt = false) ∧ (y.pkt.opcode ≠ 97) ∧ (out = outPort (BitVec.toNat node) y.pkt) ∧ (out ≠ 0) ∧ (neighbour (BitVec.toNat node) out = some m) ∧ (linkUp s (BitVec.toNat node) out = true) ∧ (hasCredit u m (opposite out) (vcOf y.pkt) y.pkt.flits = true) ∧ (granted u (BitVec.toNat node) out x.vc y.pkt (rivals u (BitVec.toNat node) x.port x.vc out) = true)) ∧
    (∃ (s : Machine.State) (u : Machine.State) (node : NodeId) (port : InPort) (vc : BitVec 4) (err : FlitErr) (x : Flight) (y : Flight) (out : Nat) (m : Nat),
      (List.find? (fun z => z.node == BitVec.toNat node && z.port == port.val && z.vc == vc.toNat) s.fab.net = some x) ∧ (y = { node := x.node, port := x.port, vc := x.vc, pkt := atRouter (BitVec.toNat node) x.pkt, relay := x.relay }) ∧ (u = modFab s fun f => { trackers := f.trackers, rx := f.rx, waiting := f.waiting, net := List.map (fun z => if (z == x) = true then y else z) f.net, arrived := f.arrived, acks := f.acks, expects := f.expects, buckets := f.buckets, links := f.links, tc6 := f.tc6, deficits := f.deficits, retries := f.retries, lanes := f.lanes, streamStats := f.streamStats }) ∧ (err = { }) ∧ (headerBad s x.pkt = false) ∧ (y.pkt.opcode ≠ 97) ∧ (out = outPort (BitVec.toNat node) y.pkt) ∧ (out ≠ 0) ∧ (neighbour (BitVec.toNat node) out = some m) ∧ (linkState s (BitVec.toNat node) out = 5 ∨ linkState s (BitVec.toNat node) out = 6 ∨ linkState s (BitVec.toNat node) out = 0)) ∧
    (∃ (s : Machine.State) (u : Machine.State) (node : NodeId) (port : InPort) (vc : BitVec 4) (err : FlitErr) (x : Flight) (y : Flight) (out : Nat) (m : Nat),
      (List.find? (fun z => z.node == BitVec.toNat node && z.port == port.val && z.vc == vc.toNat) s.fab.net = some x) ∧ (y = { node := x.node, port := x.port, vc := x.vc, pkt := atRouter (BitVec.toNat node) x.pkt, relay := x.relay }) ∧ (u = modFab s fun f => { trackers := f.trackers, rx := f.rx, waiting := f.waiting, net := List.map (fun z => if (z == x) = true then y else z) f.net, arrived := f.arrived, acks := f.acks, expects := f.expects, buckets := f.buckets, links := f.links, tc6 := f.tc6, deficits := f.deficits, retries := f.retries, lanes := f.lanes, streamStats := f.streamStats }) ∧ (err = { }) ∧ (headerBad s x.pkt = false) ∧ (y.pkt.opcode ≠ 97) ∧ (out = outPort (BitVec.toNat node) y.pkt) ∧ (out ≠ 0) ∧ (neighbour (BitVec.toNat node) out = some m) ∧ (linkUp s (BitVec.toNat node) out = true) ∧ (hasCredit u m (opposite out) (vcOf y.pkt) y.pkt.flits = false)) ∧
    (∃ (s : Machine.State) (u : Machine.State) (node : NodeId) (port : InPort) (vc : BitVec 4) (err : FlitErr) (x : Flight) (y : Flight),
      (List.find? (fun z => z.node == BitVec.toNat node && z.port == port.val && z.vc == vc.toNat) s.fab.net = some x) ∧ (y = { node := x.node, port := x.port, vc := x.vc, pkt := atRouter (BitVec.toNat node) x.pkt, relay := x.relay }) ∧ (u = modFab s fun f => { trackers := f.trackers, rx := f.rx, waiting := f.waiting, net := List.map (fun z => if (z == x) = true then y else z) f.net, arrived := f.arrived, acks := f.acks, expects := f.expects, buckets := f.buckets, links := f.links, tc6 := f.tc6, deficits := f.deficits, retries := f.retries, lanes := f.lanes, streamStats := f.streamStats }) ∧ (err.corrected = 0) ∧ (err.header = true) ∧ (err.ctrl = false) ∧ (oneFlitCtl x.pkt = false)) ∧
    (∃ (s : Machine.State) (u : Machine.State) (node : NodeId) (port : InPort) (vc : BitVec 4) (err : FlitErr) (x : Flight) (y : Flight),
      (List.find? (fun z => z.node == BitVec.toNat node && z.port == port.val && z.vc == vc.toNat) s.fab.net = some x) ∧ (y = { node := x.node, port := x.port, vc := x.vc, pkt := atRouter (BitVec.toNat node) x.pkt, relay := x.relay }) ∧ (u = modFab s fun f => { trackers := f.trackers, rx := f.rx, waiting := f.waiting, net := List.map (fun z => if (z == x) = true then y else z) f.net, arrived := f.arrived, acks := f.acks, expects := f.expects, buckets := f.buckets, links := f.links, tc6 := f.tc6, deficits := f.deficits, retries := f.retries, lanes := f.lanes, streamStats := f.streamStats }) ∧ (err.corrected = 0) ∧ (err.header = true ∨ err.payload.isSome = true) ∧ (err.ctrl = false) ∧ (oneFlitCtl x.pkt = true)) ∧
    (∃ (s : Machine.State) (u : Machine.State) (node : NodeId) (port : InPort) (vc : BitVec 4) (err : FlitErr) (x : Flight) (y : Flight),
      (List.find? (fun z => z.node == BitVec.toNat node && z.port == port.val && z.vc == vc.toNat) s.fab.net = some x) ∧ (y = { node := x.node, port := x.port, vc := x.vc, pkt := atRouter (BitVec.toNat node) x.pkt, relay := x.relay }) ∧ (u = modFab s fun f => { trackers := f.trackers, rx := f.rx, waiting := f.waiting, net := List.map (fun z => if (z == x) = true then y else z) f.net, arrived := f.arrived, acks := f.acks, expects := f.expects, buckets := f.buckets, links := f.links, tc6 := f.tc6, deficits := f.deficits, retries := f.retries, lanes := f.lanes, streamStats := f.streamStats }) ∧ (err.corrected = 0) ∧ (err.header = false) ∧ (err.ctrl = false) ∧ (err.payload.isSome = true) ∧ (oneFlitCtl x.pkt = false) ∧ (headerBad s x.pkt = false) ∧ (x.pkt.opcode ≠ 97)) :=
  ⟨⟨R (hd 130) [], M (hd 130) [], 130#12, (2 : InPort), vc1, { corrected := 3 }, F (hd 130), F (hd 130), by decide +kernel⟩,
    ⟨R (hd 130) [], M (hd 130) [], 130#12, (2 : InPort), vc1, {}, F (hd 130), F (hd 130), by decide +kernel⟩,
    ⟨R (hd 131) (l2 2), M (hd 131) (l2 2), 130#12, (2 : InPort), vc1, {}, F (hd 131), F (hd 131), 2, 131, by decide +kernel⟩,
    ⟨R (hd 131) (l2 5), M (hd 131) (l2 5), 130#12, (2 : InPort), vc1, {}, F (hd 131), F (hd 131), 2, 131, by decide +kernel⟩,
    ⟨bS, moved bS (F (hd 131)), 130#12, (2 : InPort), vc1, {}, F (hd 131), F (hd 131), 2, 131, by decide +kernel⟩,
    ⟨R bg [], M bg [], 130#12, (2 : InPort), vb, { header := true }, F bg, F bg, by decide +kernel⟩,
    ⟨R (hd 130) [], M (hd 130) [], 130#12, (2 : InPort), vc1, { header := true }, F (hd 130), F (hd 130), by decide +kernel⟩,
    ⟨R bg [], M bg [], 130#12, (2 : InPort), vb, { payload := some 1 }, F bg, F bg, by decide +kernel⟩⟩

theorem witness_router_forward_completes_2 :
    (∃ (s : Machine.State) (u : Machine.State) (node : NodeId) (port : InPort) (vc : BitVec 4) (err : FlitErr) (x : Flight) (y : Flight),
      (List.find? (fun z => z.node == BitVec.toNat node && z.port == port.val && z.vc == vc.toNat) s.fab.net = some x) ∧ (y = { node := x.node, port := x.port, vc := x.vc, pkt := atRouter (BitVec.toNat node) x.pkt, relay := x.relay }) ∧ (u = modFab s fun f => { trackers := f.trackers, rx := f.rx, waiting := f.waiting, net := List.map (fun z => if (z == x) = true then y else z) f.net, arrived := f.arrived, acks := f.acks, expects := f.expects, buckets := f.buckets, links := f.links, tc6 := f.tc6, deficits := f.deficits, retries := f.retries, lanes := f.lanes, streamStats := f.streamStats }) ∧ (err.corrected = 0) ∧ (err.ctrl = true) ∧ (port.val ≠ 0)) :=
    ⟨R bg [], M bg [], 130#12, (2 : InPort), vb, { ctrl := true }, F bg, F bg, by decide +kernel⟩

end Route

namespace Mem

def hw : Machine.State := portSt owned 0 { up := true, hwinSize := 4, hwinBase := 0x100000 }
def rg (a : Nat) : Region := (decodeAddr a).getD (.vatSram 0 0 0)
def ha : Nat := 0x100000000000
def wp (a : Nat) (n : Nat := 130) (part : Nat := 0) : Packet := { pkt 1 n 131 [1,2,3,4] a with partition := BitVec.ofNat 4 part }
def hn : Nat := (rg ha).tile
def rp (a : Nat) (n : Nat := 130) (part : Nat := 0) : Packet := { pkt 2 n 131 [] a with partition := BitVec.ofNat 4 part, aux := 8 }
def dp (l : Nat) (op : Nat := 0x20) : Packet := { pkt op 130 140 (List.replicate l 7) with aux := BitVec.ofNat 32 (2*65536 + 77) }
def ex2 (o : Initiator) (op : Nat := 2) : Expect := { stream := 2, sgen := 0, seq := 77, opcode := op, addr := 0x1000, len := 8, owner := o }
def rS (v : Vat) (o : Initiator) (op : Nat := 2) : Machine.State := { vatS owned 0 v with fab := { owned.fab with expects := [(130, [ex2 o op])] } }
def rU (v : Vat) (o : Initiator) (p : Packet) (op : Nat := 2) : Machine.State := accU (rS v o op) 130 p false
def of : Initiator := .fibre 0 0 1 4 5 none
def fx : Fibre := { state := 3, batch := 4, index := 5, wait := some .reads, reads := [{ addr := 0x1000, len := 8 }] }
def sq : Vat := { seq := { state := 2, wait := some (.load 0x1000 3 none) } }
def ua (q : Nat) (op : Nat := 1) : Unacked := { seq := q, pkt := { pkt op 131 130 [1,2,3,4] with seq := BitVec.ofNat 16 q, stream := 5 }, owner := .endpoint 0 3 }
def trS (t : Tracker) : Machine.State := { owned with fab := { owned.fab with trackers := [(64*130+5, t)] } }
def t1 : Tracker := { inUse := true, sgen := 4, dest := 131, cls := 1, nextSeq := 9, unacked := [ua 6, ua 7, ua 8] }
def rfp : Packet := { pkt 0x22 130 140 (leBytes 16 0x1000) with aux := BitVec.ofNat 32 (5*65536 + 7) }
def ap (g q st : Nat) : Packet := pkt 0x40 130 131 (leBytes 8 (ackWord 5 g q st))
def rxS (l : List RxEntry) (a : List AckEntry) : Machine.State := { owned with fab := { owned.fab with rx := [(130, l)], acks := [(130, a)] } }
def re : RxEntry := { src := 140, stream := 3, sgen := 4, expected := 20, acked := 4, ackNow := true }
def ae : AckEntry := { dest := 140, stream := 3, sgen := 4, seq := 7, status := 2 }
def nk (k : Nat) (q : Nat) : Packet := { pkt 0x41 130 131 [BitVec.ofNat 8 k,0,0,0,0,0,0,0] with stream := 5, sgen := 4, seq := BitVec.ofNat 16 q }
def trO : Tracker := { t1 with opening := true, unacked := [ua 0] }
def cp : Packet := { pkt 0x42 130 140 [] with stream := 3, sgen := 4 }
def qp : Packet := pkt 4 (schedTile 0) 140 (leBytes 8 3 ++ leBytes 8 4 ++ leBytes 8 5)
def qn : NodeId := BitVec.ofNat 12 (schedTile 0)
def qfull : Machine.State := vatS owned 0 { queue := List.replicate 1024 (0,0,0) }

theorem witness_memory_accesses_complete_1 :
    (∃ (s : Machine.State) (u : Machine.State) (node : NodeId) (p : Packet) (r : Region) (port : Nat) (off : Nat) (h : Nat),
      (Accepts s node p false u) ∧ (p.opcode = 1) ∧ (decodeAddr p.addr.toNat = some r) ∧ (tableBad u (BitVec.toNat node) 1 p.partition.toNat = false ∨ p.partition = 0) ∧ (r.tile = BitVec.toNat node) ∧ (r.isTrace = false) ∧ (windowOk u p p.addr.toNat (List.length p.payload) 1 = true) ∧ (r = Region.hostWindow port off) ∧ (hostAddr s port off (List.length p.payload) = some h) ∧ (portUp s port = true)) ∧
    (∃ (s : Machine.State) (u : Machine.State) (node : NodeId) (p : Packet) (r : Region),
      (Accepts s node p false u) ∧ (p.opcode = 1) ∧ (decodeAddr p.addr.toNat = some r) ∧ (tableBad u (BitVec.toNat node) 1 p.partition.toNat = false ∨ p.partition = 0) ∧ (r.tile = BitVec.toNat node) ∧ (r.isTrace = false) ∧ (windowOk u p p.addr.toNat (List.length p.payload) 1 = true) ∧ (∀ (port off : Nat), r ≠ Region.hostWindow port off) ∧ (∀ (d c off : Nat), r ≠ Region.syncCell d c off)) ∧
    (∃ (s : Machine.State) (u : Machine.State) (node : NodeId) (p : Packet) (r : Region),
      (Accepts s node p false u) ∧ (p.opcode = 1) ∧ (decodeAddr p.addr.toNat = some r) ∧ (tableBad u (BitVec.toNat node) 1 p.partition.toNat = false ∨ p.partition = 0) ∧ (r.tile ≠ BitVec.toNat node ∨ r.isTrace = true ∨ windowOk u p p.addr.toNat (List.length p.payload) 1 = false)) ∧
    (∃ (s : Machine.State) (u : Machine.State) (node : NodeId) (p : Packet) (r : Region) (n : Nat) (d : Nat) (c : Nat) (off : Nat),
      (Accepts s node p true u) ∧ (p.opcode = 2) ∧ (decodeAddr p.addr.toNat = some r) ∧ (n = bits p.aux.toNat 12 0) ∧ (tableBad u (BitVec.toNat node) 1 p.partition.toNat = false ∨ p.partition = 0) ∧ (r.tile = BitVec.toNat node) ∧ (r.isTrace = false) ∧ (windowOk u p p.addr.toNat n 0 = true) ∧ (r = Region.syncCell d c off)) ∧
    (∃ (s : Machine.State) (u : Machine.State) (node : NodeId) (p : Packet) (r : Region) (n : Nat) (port : Nat) (off : Nat) (h : Nat),
      (Accepts s node p true u) ∧ (p.opcode = 2) ∧ (decodeAddr p.addr.toNat = some r) ∧ (n = bits p.aux.toNat 12 0) ∧ (tableBad u (BitVec.toNat node) 1 p.partition.toNat = false ∨ p.partition = 0) ∧ (r.tile = BitVec.toNat node) ∧ (r.isTrace = false) ∧ (windowOk u p p.addr.toNat n 0 = true) ∧ (r = Region.hostWindow port off) ∧ (hostAddr s port off n = some h) ∧ (portUp s port = true)) ∧
    (∃ (s : Machine.State) (u : Machine.State) (node : NodeId) (p : Packet) (r : Region) (n : Nat),
      (Accepts s node p true u) ∧ (p.opcode = 2) ∧ (decodeAddr p.addr.toNat = some r) ∧ (n = bits p.aux.toNat 12 0) ∧ (tableBad u (BitVec.toNat node) 1 p.partition.toNat = false ∨ p.partition = 0) ∧ (r.tile = BitVec.toNat node) ∧ (r.isTrace = false) ∧ (windowOk u p p.addr.toNat n 0 = true) ∧ (∀ (port off : Nat), r ≠ Region.hostWindow port off) ∧ (∀ (d c off : Nat), r ≠ Region.syncCell d c off)) ∧
    (∃ (s : Machine.State) (u : Machine.State) (node : NodeId) (p : Packet) (r : Region) (n : Nat),
      (Accepts s node p true u) ∧ (p.opcode = 2) ∧ (decodeAddr p.addr.toNat = some r) ∧ (n = bits p.aux.toNat 12 0) ∧ (tableBad u (BitVec.toNat node) 1 p.partition.toNat = false ∨ p.partition = 0) ∧ (r.tile ≠ BitVec.toNat node ∨ r.isTrace = true ∨ windowOk u p p.addr.toNat n 0 = false)) ∧
    (∃ (s : Machine.State) (u : Machine.State) (node : NodeId) (p : Packet) (e : Expect) (d : Nat) (slice : Nat) (slot : Nat) (batch : Nat) (index : Nat) (tg : Option Nat) (x : Fibre),
      (Accepts s node p false u) ∧ (p.opcode = 32) ∧ ((takeExpect u (BitVec.toNat node) p 2).snd = some e) ∧ (e.owner = Initiator.fibre d slice slot batch index tg) ∧ (fibreAt s d slice slot = some x) ∧ (x.batch = batch) ∧ (x.index = index) ∧ (x.reads = [{ addr := e.addr, len := e.len }])) :=
  ⟨⟨hw, accU hw (BitVec.ofNat 12 hn) (wp ha hn) false, BitVec.ofNat 12 hn, wp ha hn, rg ha, 0, 0, 0x100000, accepts_of (by decide +kernel), by decide +kernel⟩,
    ⟨hw, accU hw 130 (wp 0x1000) false, 130#12, wp 0x1000, rg 0x1000, accepts_of (by decide +kernel), by decide +kernel, by decide +kernel, by decide +kernel, by decide +kernel, by decide +kernel, by decide +kernel, by rw [show rg 0x1000 = Region.vatSram 0 0 0x1000 by decide +kernel]; nofun, by rw [show rg 0x1000 = Region.vatSram 0 0 0x1000 by decide +kernel]; nofun⟩,
    ⟨hw, accU hw 130 (wp 0x1000 130 3) false, 130#12, wp 0x1000 130 3, rg 0x1000, accepts_of (by decide +kernel), by decide +kernel⟩,
    ⟨owned, accU owned 130 (rp 0xA0000300) true, 130#12, rp 0xA0000300, rg 0xA0000300, 8, 0, 3, 0, accepts_of (by decide +kernel), by decide +kernel⟩,
    ⟨hw, accU hw (BitVec.ofNat 12 hn) (rp ha hn) true, BitVec.ofNat 12 hn, rp ha hn, rg ha, 8, 0, 0, 0x100000, accepts_of (by decide +kernel), by decide +kernel⟩,
    ⟨hw, accU hw 130 (rp 0x1000) true, 130#12, rp 0x1000, rg 0x1000, 8, accepts_of (by decide +kernel), by decide +kernel, by decide +kernel, by decide +kernel, by decide +kernel, by decide +kernel, by decide +kernel, by decide +kernel, by rw [show rg 0x1000 = Region.vatSram 0 0 0x1000 by decide +kernel]; nofun, by rw [show rg 0x1000 = Region.vatSram 0 0 0x1000 by decide +kernel]; nofun⟩,
    ⟨hw, accU hw 130 (rp 0x1000 130 3) true, 130#12, rp 0x1000 130 3, rg 0x1000, 8, accepts_of (by decide +kernel), by decide +kernel⟩,
    ⟨rS { fibres := [(1, fx)] } of, rU { fibres := [(1, fx)] } of (dp 8), 130#12, dp 8, ex2 of, 0, 0, 1, 4, 5, none, fx, accepts_of (by decide +kernel), by decide +kernel⟩⟩

theorem witness_memory_accesses_complete_2 :
    (∃ (s : Machine.State) (u : Machine.State) (node : NodeId) (p : Packet) (e : Expect) (d : Nat) (sd : Nat),
      (Accepts s node p false u) ∧ (p.opcode = 32) ∧ ((takeExpect u (BitVec.toNat node) p 2).snd = some e) ∧ (e.owner = Initiator.sequencer d) ∧ ((seqOf s d).wait = some (SeqWait.load e.addr sd none))) ∧
    (∃ (s : Machine.State) (u : Machine.State) (node : NodeId) (p : Packet),
      (Accepts s node p false u) ∧ (p.opcode = 6) ∧ (∀ (n : Nat), n < 4 → portFrontTile n ≠ BitVec.toNat node)) ∧
    (∃ (s : Machine.State) (u : Machine.State) (node : NodeId) (p : Packet) (e : Expect),
      (Accepts s node p false u) ∧ (p.opcode = 35) ∧ ((takeExpect u (BitVec.toNat node) p 6).snd = some e)) ∧
    (∃ (s : Machine.State) (u : Machine.State) (node : NodeId) (p : Packet) (i : Nat) (q : Nat) (x : Unacked),
      (Accepts s node p false u) ∧ (p.opcode = 34) ∧ (i = bits p.aux.toNat 21 16) ∧ (q = bits p.aux.toNat 15 0) ∧ (List.find? (fun a => a.seq == q) (trackerOf s (BitVec.toNat node) i).unacked = some x)) :=
  ⟨⟨rS sq (.sequencer 0), rU sq (.sequencer 0) (dp 8), 130#12, dp 8, ex2 (.sequencer 0), 0, 3, accepts_of (by decide +kernel), by decide +kernel⟩,
    ⟨owned, accU owned 130 (pkt 6 130 131 (zeros 96)) false, 130#12, pkt 6 130 131 (zeros 96), accepts_of (by decide +kernel), by decide +kernel⟩,
    ⟨rS {} (.endpoint 0 3) 6, rU {} (.endpoint 0 3) (dp 0 0x23) 6, 130#12, dp 0 0x23, ex2 (.endpoint 0 3) 6, accepts_of (by decide +kernel), by decide +kernel⟩,
    ⟨trS t1, accU (trS t1) 130 rfp false, 130#12, rfp, 5, 7, ua 7, accepts_of (by decide +kernel), by decide +kernel⟩⟩

theorem witness_stream_commands_complete_1 :
    (∃ (s : Machine.State) (u : Machine.State) (node : NodeId) (p : Packet) (i : BitVec 6) (g : BitVec 10) (q : BitVec 16) (a : List Unacked) (b : List Unacked) (x : Unacked),
      (Takes s node p u) ∧ (p.opcode = 64) ∧ (mcGroupOf u (BitVec.toNat node) i.toNat q.toNat (dieOf p.src.toNat) = none) ∧ ((trackerOf s (BitVec.toNat node) i.toNat).inUse = true) ∧ ((trackerOf s (BitVec.toNat node) i.toNat).sgen = g.toNat) ∧ ((trackerOf s (BitVec.toNat node) i.toNat).unacked = a ++ x :: b) ∧ (∀ (y : Unacked), y ∈ a → y.seq ≠ q.toNat) ∧ (x.seq = q.toNat) ∧ (p.payload = leBytes 8 (ackWord i.toNat g.toNat q.toNat 0))) ∧
    (∃ (s : Machine.State) (u : Machine.State) (node : NodeId) (p : Packet) (i : BitVec 6) (g : BitVec 10) (q : BitVec 16) (a : List Unacked) (b : List Unacked) (x : Unacked),
      (Takes s node p u) ∧ (p.opcode = 64) ∧ (mcGroupOf u (BitVec.toNat node) i.toNat q.toNat (dieOf p.src.toNat) = none) ∧ ((trackerOf s (BitVec.toNat node) i.toNat).inUse = true) ∧ ((trackerOf s (BitVec.toNat node) i.toNat).sgen = g.toNat) ∧ ((trackerOf s (BitVec.toNat node) i.toNat).unacked = a ++ x :: b) ∧ (∀ (y : Unacked), y ∈ a → y.seq ≠ q.toNat) ∧ (x.seq = q.toNat) ∧ (p.payload = leBytes 8 (ackWord i.toNat g.toNat q.toNat 1))) ∧
    (∃ (s : Machine.State) (node : NodeId) (e : RxEntry),
      (tileUp s (BitVec.toNat node) = true) ∧ (rxOf s (BitVec.toNat node) = [e]) ∧ (tgetD s.fab.acks (BitVec.toNat node) [] = []) ∧ (e.broken = false) ∧ (e.due ≠ 0)) ∧
    (∃ (s : Machine.State) (node : NodeId) (a : AckEntry),
      (tileUp s (BitVec.toNat node) = true) ∧ (rxOf s (BitVec.toNat node) = []) ∧ (tgetD s.fab.acks (BitVec.toNat node) [] = [a])) ∧
    (∃ (s : Machine.State) (u : Machine.State) (node : NodeId) (p : Packet) (i : BitVec 6),
      (Takes s node p u) ∧ (p.opcode = 65) ∧ (p.stream = i) ∧ (field p.payload 0 1 = 1) ∧ ((trackerOf s (BitVec.toNat node) i.toNat).inUse = true) ∧ ((trackerOf s (BitVec.toNat node) i.toNat).sgen = p.sgen.toNat) ∧ ((trackerOf s (BitVec.toNat node) i.toNat).opening = true)) ∧
    (∃ (s : Machine.State) (node : NodeId) (i : BitVec 6) (a : Tick) (x : Unacked) (l : List Unacked),
      ((trackerOf s (BitVec.toNat node) i.toNat).rxFullAt = some a) ∧ ((trackerOf s (BitVec.toNat node) i.toNat).unacked = x :: l)) ∧
    (∃ (s : Machine.State) (u : Machine.State) (node : NodeId) (p : Packet) (i : BitVec 6) (x : Unacked),
      (Takes s node p u) ∧ (p.opcode = 65) ∧ (p.stream = i) ∧ (field p.payload 0 1 = 2) ∧ ((trackerOf s (BitVec.toNat node) i.toNat).inUse = true) ∧ ((trackerOf s (BitVec.toNat node) i.toNat).sgen = p.sgen.toNat) ∧ (List.find? (fun a => a.seq == p.seq.toNat) (trackerOf s (BitVec.toNat node) i.toNat).unacked = some x)) ∧
    (∃ (s : Machine.State) (node : NodeId) (i : BitVec 6) (x : Unacked) (l : List Unacked),
      ((trackerOf s (BitVec.toNat node) i.toNat).inUse = true) ∧ ((trackerOf s (BitVec.toNat node) i.toNat).unacked = x :: l)) :=
  ⟨⟨trS t1, taken (trS t1) 130 (ap 4 7 0), 130#12, ap 4 7 0, 5#6, 4#10, 7#16, [ua 6], [ua 8], ua 7, takes_of (by decide +kernel), by decide +kernel⟩,
    ⟨trS t1, taken (trS t1) 130 (ap 4 7 1), 130#12, ap 4 7 1, 5#6, 4#10, 7#16, [ua 6], [ua 8], ua 7, takes_of (by decide +kernel), by decide +kernel⟩,
    ⟨rxS [re] [], 130#12, re, by decide +kernel⟩,
    ⟨rxS [] [ae], 130#12, ae, by decide +kernel⟩,
    ⟨trS trO, taken (trS trO) 130 (nk 1 0), 130#12, nk 1 0, 5#6, takes_of (by decide +kernel), by decide +kernel⟩,
    ⟨trS { trO with rxFullAt := some 7 }, 130#12, 5#6, 7, ua 0, [], by decide +kernel⟩,
    ⟨trS t1, taken (trS t1) 130 (nk 2 7), 130#12, nk 2 7, 5#6, ua 7, takes_of (by decide +kernel), by decide +kernel⟩,
    ⟨trS t1, 130#12, 5#6, ua 6, [ua 7, ua 8], by decide +kernel⟩⟩

theorem witness_stream_commands_complete_2 :
    (∃ (s : Machine.State) (node : NodeId) (i : BitVec 6),
      ((trackerOf s (BitVec.toNat node) i.toNat).inUse = true) ∧ ((trackerOf s (BitVec.toNat node) i.toNat).unacked = [])) ∧
    (∃ (s : Machine.State) (u : Machine.State) (node : NodeId) (p : Packet),
      (Takes s node p u) ∧ (p.opcode = 66)) ∧
    (∃ (s : Machine.State) (u : Machine.State) (node : NodeId) (p : Packet) (d : Nat),
      (d = dieOf (BitVec.toNat node)) ∧ (Accepts s node p false u) ∧ (p.opcode = 4) ∧ (d < 16) ∧ ((vatOf s d).queue.length < 1024)) ∧
    (∃ (s : Machine.State) (u : Machine.State) (node : NodeId) (p : Packet) (d : Nat),
      (d = dieOf (BitVec.toNat node)) ∧ (Accepts s node p false u) ∧ (p.opcode = 4) ∧ (d < 16) ∧ (1024 ≤ (vatOf s d).queue.length)) :=
  ⟨⟨trS { t1 with unacked := [] }, 130#12, 5#6, by decide +kernel⟩,
    ⟨rxS [re] [], taken (rxS [re] []) 130 cp, 130#12, cp, takes_of (by decide +kernel), by decide +kernel⟩,
    ⟨owned, accU owned qn qp false, qn, qp, 0, by decide +kernel, accepts_of (by decide +kernel), by decide +kernel⟩,
    ⟨qfull, accU qfull qn qp false, qn, qp, 0, by decide +kernel, accepts_of (by decide +kernel), by decide +kernel⟩⟩

end Mem

namespace Group

def mgr : Nat := 1 + 130 * 2^96 + 1 * 2^108 + 2^112
def rce : Bytes := leBytes 16 (2 * 2^54 + 1 * 2^48 + 2^21 + 0x4000 + 0 * 2^64 + 64 * 2^96)
def mgS : Machine.State := withCfg owned [(0x2400*256+3, leBytes 64 mgr), (0x2500*256, rce)]
def ms : Packet := { pkt 0x60 130 140 (zeros 16) with aux := 2, partition := 1 }
def md (q : Nat) : Packet := { pkt 0x61 131 130 [9,8,7,6] 8 with opening := false, aux := 2, partition := 1, seq := BitVec.ofNat 16 q }
def mp : McPending := { dseq := 4, src := 140, stream := 1, sgen := 1, seq := 1, local_ := none, waiting := [0], epoch := 0, at_ := 5 }
def mpS : Machine.State := { mgS with vs := { mgS.vs with mc := [(2, { pending := [mp] })] } }
def mtr : Nat := mcTracker mgS.ep.cur 130 2
def mack : Packet := pkt 0x40 130 (schedTile 0) (leBytes 8 (ackWord mtr 9 4 0))
def rdr : Nat := 1 + 2^32 + 392 * 2^144 + 3 * 2^30 + 4 * 2^39 + 0xA0000300 * 2^96 + 1 * 2^160 + 130 * 2^164 + 1 * 2^176 + 7 * 2^192
def rS : Machine.State := withCfg owned [(0x2520*256+3, leBytes 64 rdr)]
def W : List Wire := [{ t := 5 }, { t := 7 }, {t := 0}, {t := 1}]
def rp (d s_ : Nat) (w : Nat := 0) : Packet := { pkt 0x70 d s_ (W.flatMap fun x => leBytes 32 x.pack) w with opening := false, aux := 2, partition := 1, checkValue := BitVec.ofNat 64 (residueFrom 0 W) }
def ndS (l : Table RedNode) (g : RedGroup := {}) : Machine.State := { rS with vs := { rS.vs with nodes := l, red := [(2, g)] } }
def B : Bank := rS.ep.cur
def nk (n : Nat) : Nat := 4096 * 2 + n
def N (s : Machine.State) (n : Nat) : RedNode := redNode s 2 n
def fC : RedCtx := { firstAt := 0 }
def s0 : Machine.State := ndS [(nk 131, { base := 3, nextWave := 3, begun := 3 })]
def c1 : RedCtx := { arrived := [131], elems := W, residue := residueFrom 0 W }
def s1 : Machine.State := ndS [(nk 131, { base := 3, nextWave := 3, begun := 3, ctxs := [(3, c1)] })]
def s2 : Machine.State := ndS [(nk 130, { base := 3, nextWave := 3, begun := 3, ctxs := [(3, { c1 with arrived := [130] })] })] { nextWave := 3 }
def cr : Packet := { pkt 0x71 131 130 [] with opening := false, aux := BitVec.ofNat 32 (2 + 1 * 512), partition := 1 }
def s3 : Machine.State := ndS [(nk 131, { base := 3, nextWave := 3, begun := 3, spent := [0, 1] })]
def rrp : Packet := { pkt 0x72 130 131 (leBytes 8 4) with opening := false, aux := 2, partition := 1 }
def s4 : Machine.State := ndS [(nk 131, { base := 3, nextWave := 3, begun := 3, reportAt := some 7 })]
def s5 : Machine.State := ndS [(nk 130, { base := 3, nextWave := 3, begun := 3 })] { nextWave := 3, resync := true, reports := [(131, 5), (132, 4)] }
def s6 : Machine.State := ndS [] { nextWave := 3, reports := [(131, 5), (132, 4)] }
def rsp : Packet := { pkt 0x73 131 130 (leBytes 8 6) with opening := false, aux := 2, partition := 1 }

theorem witness_multicast_commands_complete :
    (∃ (s : Machine.State) (u : Machine.State) (node : NodeId) (p : Packet) (g : Nat),
      (g = bits p.aux.toNat 9 0) ∧ (Accepts s node p true u) ∧ (p.opcode = 96) ∧ (mcWindowFull s g = false) ∧ (mcRefusal u (BitVec.toNat node) g p.partition.toNat = none)) ∧
    (∃ (s : Machine.State) (u : Machine.State) (node : NodeId) (p : Packet) (g : Nat) (cause : Nat),
      (g = bits p.aux.toNat 9 0) ∧ (Accepts s node p true u) ∧ (p.opcode = 96) ∧ (mcRefusal u (BitVec.toNat node) g p.partition.toNat = some cause)) ∧
    (∃ (s : Machine.State) (u : Machine.State) (node : NodeId) (p : Packet) (g : Nat) (d : Nat) (l : Nat) (e : Nat) (lo : Nat) (base : Nat) (b : Bank),
      (g = bits p.aux.toNat 9 0) ∧ (tileUp s (BitVec.toNat node) = true) ∧ (d = dieOf (BitVec.toNat node)) ∧ (d < 16) ∧ (p.opcode = 97) ∧ (takeArrived s (BitVec.toNat node) p = some u) ∧ (bankOfEpoch s p.epoch.toNat = some b) ∧ ((agentOf s g d).pruned = false) ∧ (l = localOf (BitVec.toNat node)) ∧ (mcTilesOf b g d = [BitVec.toNat node]) ∧ (tget (agentOf s g d).tiles l = none) ∧ ((agentOf s g d).reports = []) ∧ (mcInOrder (mcSequenced (mcRecord b g)) (agentOf s g d).generation (agentOf s g d).nextDseq p = true) ∧ (packetFault p = none) ∧ (p.partition.toNat = mcPart (mcRecord b g)) ∧ (tableBad s (BitVec.toNat node) 3 g = false) ∧ (List.filter (fun x => bits x 63 54 == g && bits x 53 48 == l) (receivers b d) = [e]) ∧ (bitAt e 47 = false) ∧ (lo = bits e 95 64) ∧ (base = bits e 20 0) ∧ (lo ≤ bits p.addr.toNat 31 0) ∧ (bits p.addr.toNat 31 0 + List.length p.payload ≤ lo + bits e 127 96) ∧ (p.payload ≠ [])) ∧
    (∃ (s : Machine.State) (u : Machine.State) (node : NodeId) (p : Packet) (g : Nat) (d : Nat) (b : Bank),
      (g = bits p.aux.toNat 9 0) ∧ (tileUp s (BitVec.toNat node) = true) ∧ (d = dieOf (BitVec.toNat node)) ∧ (d < 16) ∧ (p.opcode = 97) ∧ (takeArrived s (BitVec.toNat node) p = some u) ∧ (bankOfEpoch s p.epoch.toNat = some b) ∧ ((agentOf s g d).pruned = false) ∧ ((mcTilesOf b g d).contains (BitVec.toNat node) = true) ∧ (tget (agentOf s g d).tiles (localOf (BitVec.toNat node)) = none) ∧ (mcInOrder (mcSequenced (mcRecord b g)) (agentOf s g d).generation (agentOf s g d).nextDseq p = false) ∧ (packetFault p = none)) ∧
    (∃ (s : Machine.State) (p : Packet) (g : Nat) (h : McGroupId) (q : BitVec 32) (e : McPending) (d : Nat),
      (g = bits p.aux.toNat 9 0) ∧ (List.find? (fun e => e.dseq == q.toNat) (mcOf s h.val).pending = some e) ∧ (e.waiting = [d]) ∧ ((mcOf s h.val).pruned.contains d = false)) :=
  ⟨⟨mgS, accU mgS 130 ms true, 130#12, ms, 2, by decide +kernel, accepts_of (by decide +kernel), by decide +kernel⟩,
    ⟨mgS, accU mgS 130 { ms with partition := 3 } true, 130#12, { ms with partition := 3 }, 2, 0x42, by decide +kernel, accepts_of (by decide +kernel), by decide +kernel⟩,
    ⟨mgS, taken mgS 131 (md 0), 131#12, md 0, 2, 0, 1, leNat rce, 0, 0x4000, mgS.ep.cur, by decide +kernel⟩,
    ⟨mgS, taken mgS 131 (md 3), 131#12, md 3, 2, 0, mgS.ep.cur, by decide +kernel⟩,
    ⟨mpS, md 3, 2, (2 : McGroupId), 4#32, mp, 0, by decide +kernel⟩⟩

theorem witness_stream_commands_complete_more :
    (∃ (s : Machine.State) (u : Machine.State) (node : NodeId) (p : Packet) (i : BitVec 6) (g : Nat) (q : BitVec 16) (d : Nat) (sg : Nat) (e : McPending),
      (Takes s node p u) ∧ (p.opcode = 64) ∧ (d = dieOf p.src.toNat) ∧ (p.payload = leBytes 8 (ackWord i.toNat sg q.toNat 0)) ∧ (mcGroupOf u (BitVec.toNat node) i.toNat q.toNat d = some g) ∧ ((mcOf s g).pending = [e]) ∧ (e.dseq % 65536 = q.toNat) ∧ (e.waiting = [d])) :=
    ⟨mpS, taken mpS 130 mack, 130#12, mack, BitVec.ofNat 6 mtr, 2, 4#16, 0, 9, mp, takes_of (by decide +kernel), by decide +kernel⟩

theorem witness_reduction_commands_complete_1 :
    (∃ (s : Machine.State) (u : Machine.State) (node : NodeId) (p : Packet) (b : Bank) (g : Nat) (r : Nat) (nd : RedNode) (n : Nat),
      (Takes s node p u) ∧ (b = packetBank s p) ∧ (g = bits p.aux.toNat 8 0) ∧ (r = redRecord b g) ∧ (nd = redNode s g (BitVec.toNat node)) ∧ (p.opcode = 112) ∧ (redEn r = true) ∧ (redChunks r ≠ 0) ∧ (bits p.addr.toNat 47 32 < redChunks r) ∧ (n = nearWave (nd.base / redChunks r) (bits p.addr.toNat 31 0) * redChunks r + bits p.addr.toNat 47 32) ∧ (n < nd.base) ∧ (p.src ≠ node)) ∧
    (∃ (s : Machine.State) (u : Machine.State) (node : NodeId) (p : Packet) (b : Bank) (g : Nat) (r : Nat) (nd : RedNode) (n : Nat) (xs : List Wire) (c : RedCtx),
      (Takes s node p u) ∧ (b = packetBank s p) ∧ (g = bits p.aux.toNat 8 0) ∧ (r = redRecord b g) ∧ (nd = redNode s g (BitVec.toNat node)) ∧ (p.opcode = 112) ∧ (redEn r = true) ∧ (redChunks r ≠ 0) ∧ (bits p.addr.toNat 47 32 < redChunks r) ∧ (n = nearWave (nd.base / redChunks r) (bits p.addr.toNat 31 0) * redChunks r + bits p.addr.toNat 47 32) ∧ (n = nd.base) ∧ (c = tgetD nd.ctxs n { firstAt := s.now }) ∧ (c.fault = none) ∧ (c.arrived.contains p.src.toNat = false) ∧ (xs = List.map (fun k => unpackWire (field p.payload (32 * k) 32)) (List.range (List.length p.payload / 32))) ∧ (redArrivalFault s (BitVec.toNat node) g (bits p.addr.toNat 47 32) p xs = none) ∧ (c.arrived.length + 1 ≠ (redTree r).expected r (BitVec.toNat node)) ∧ (redInputDown s (redTree r) (BitVec.toNat node) { arrived := c.arrived ++ [p.src.toNat], elems := c.elems, residue := c.residue, fault := c.fault, firstAt := c.firstAt } = none)) ∧
    (∃ (s : Machine.State) (u : Machine.State) (node : NodeId) (p : Packet) (b : Bank) (g : Nat) (r : Nat) (nd : RedNode) (n : Nat) (xs : List Wire) (c : RedCtx),
      (Takes s node p u) ∧ (b = packetBank s p) ∧ (g = bits p.aux.toNat 8 0) ∧ (r = redRecord b g) ∧ (nd = redNode s g (BitVec.toNat node)) ∧ (p.opcode = 112) ∧ (redEn r = true) ∧ (redChunks r ≠ 0) ∧ (bits p.addr.toNat 47 32 < redChunks r) ∧ (n = nearWave (nd.base / redChunks r) (bits p.addr.toNat 31 0) * redChunks r + bits p.addr.toNat 47 32) ∧ (n = nd.base) ∧ (c = tgetD nd.ctxs n { firstAt := s.now }) ∧ (c.fault = none) ∧ (c.arrived.contains p.src.toNat = false) ∧ (xs = List.map (fun k => unpackWire (field p.payload (32 * k) 32)) (List.range (List.length p.payload / 32))) ∧ (redArrivalFault s (BitVec.toNat node) g (bits p.addr.toNat 47 32) p xs = none) ∧ (c.arrived.length + 1 = (redTree r).expected r (BitVec.toNat node)) ∧ (BitVec.toNat node ≠ redRoot r) ∧ (nd.spent.contains (n % redK r) = false) ∧ (tget nd.ctxs (n + 1) = none) ∧ (residueFrom (128 * (n % redChunks r)) (addElems c.elems xs) = (c.residue + bits p.checkValue.toNat 60 0) % m61)) ∧
    (∃ (s : Machine.State) (u : Machine.State) (node : NodeId) (p : Packet) (b : Bank) (g : Nat) (r : Nat) (nd : RedNode) (n : Nat) (xs : List Wire) (c : RedCtx),
      (Takes s node p u) ∧ (b = packetBank s p) ∧ (g = bits p.aux.toNat 8 0) ∧ (r = redRecord b g) ∧ (nd = redNode s g (BitVec.toNat node)) ∧ (p.opcode = 112) ∧ (redEn r = true) ∧ (redChunks r ≠ 0) ∧ (bits p.addr.toNat 47 32 < redChunks r) ∧ (n = nearWave (nd.base / redChunks r) (bits p.addr.toNat 31 0) * redChunks r + bits p.addr.toNat 47 32) ∧ (n = nd.base) ∧ (c = tgetD nd.ctxs n { firstAt := s.now }) ∧ (c.fault = none) ∧ (c.arrived.contains p.src.toNat = false) ∧ (xs = List.map (fun k => unpackWire (field p.payload (32 * k) 32)) (List.range (List.length p.payload / 32))) ∧ (redArrivalFault s (BitVec.toNat node) g (bits p.addr.toNat 47 32) p xs = none) ∧ (c.arrived.length + 1 = (redTree r).expected r (BitVec.toNat node)) ∧ (BitVec.toNat node = redRoot r) ∧ ((redOf s g).resync = false) ∧ ((redOf s g).chunks = []) ∧ (redChunks r = 1) ∧ (tget nd.ctxs (n + 1) = none) ∧ (residueFrom (128 * (n % redChunks r)) (addElems c.elems xs) = (c.residue + bits p.checkValue.toNat 60 0) % m61)) ∧
    (∃ (s : Machine.State) (u : Machine.State) (node : NodeId) (p : Packet) (g : Nat) (nd : RedNode),
      (Takes s node p u) ∧ (g = bits p.aux.toNat 8 0) ∧ (nd = redNode s g (BitVec.toNat node)) ∧ (p.opcode = 113) ∧ (tget nd.ctxs nd.base = none)) ∧
    (∃ (s : Machine.State) (node : NodeId) (h : RedGroupId) (w : BitVec 32) (k : BitVec 16) (b : Bank) (r : Nat) (n : Nat) (c : RedCtx),
      (b = tileBank s (BitVec.toNat node)) ∧ (r = redRecord b h.val) ∧ (n = nearWave ((redNode s (h.val) (BitVec.toNat node)).base / redChunks r) w.toNat * redChunks r + k.toNat) ∧ (tget (redNode s (h.val) (BitVec.toNat node)).ctxs n = some c) ∧ (c.fault = none) ∧ (c.arrived.length ≠ (redTree r).expected r (BitVec.toNat node))) ∧
    (∃ (s : Machine.State) (u : Machine.State) (node : NodeId) (p : Packet) (g : Nat),
      (Takes s node p u) ∧ (p.opcode = 114) ∧ (g = bits p.aux.toNat 8 0)) ∧
    (∃ (s : Machine.State) (node : NodeId) (h : RedGroupId) (a : Tick),
      ((redNode s (h.val) (BitVec.toNat node)).reportAt = some a)) :=
  ⟨⟨s0, taken s0 131 (rp 131 132 1), 131#12, rp 131 132 1, B, 2, redRecord B 2, N s0 131, 1, takes_of (by decide +kernel), by decide +kernel⟩,
    ⟨s0, taken s0 131 (rp 131 132 3), 131#12, rp 131 132 3, B, 2, redRecord B 2, N s0 131, 3, W, fC, takes_of (by decide +kernel), by decide +kernel⟩,
    ⟨s1, taken s1 131 (rp 131 132 3), 131#12, rp 131 132 3, B, 2, redRecord B 2, N s1 131, 3, W, c1, takes_of (by decide +kernel), by decide +kernel⟩,
    ⟨s2, taken s2 130 (rp 130 131 3), 130#12, rp 130 131 3, B, 2, redRecord B 2, N s2 130, 3, W, { c1 with arrived := [130] }, takes_of (by decide +kernel), by decide +kernel⟩,
    ⟨s3, taken s3 131 cr, 131#12, cr, 2, N s3 131, takes_of (by decide +kernel), by decide +kernel⟩,
    ⟨s1, 131#12, (2 : RedGroupId), 3#32, 0#16, B, redRecord B 2, 3, c1, by decide +kernel⟩,
    ⟨s2, taken s2 130 rrp, 130#12, rrp, 2, takes_of (by decide +kernel), by decide +kernel⟩,
    ⟨s4, 131#12, (2 : RedGroupId), 7, by decide +kernel⟩⟩

theorem witness_reduction_commands_complete_2 :
    (∃ (s : Machine.State) (h : RedGroupId) (r : Nat) (top : Nat),
      (r = redRecord s.ep.cur h.val) ∧ ((redOf s h.val).resync = true) ∧ (redAllReported s s.ep.cur h.val = true) ∧ (s.ep.state ≠ 3) ∧ (top = List.foldl Nat.max ((redOf s h.val).nextWave.max (redNode s (h.val) (redRoot r)).begun) (List.map (fun x => x.snd) (redOf s h.val).reports))) ∧
    (∃ (s : Machine.State) (h : RedGroupId),
      ((redOf s h.val).resync = false)) ∧
    (∃ (s : Machine.State) (u : Machine.State) (node : NodeId) (p : Packet) (g : Nat),
      (Takes s node p u) ∧ (p.opcode = 115) ∧ (g = bits p.aux.toNat 8 0) ∧ ((redNode s g (BitVec.toNat node)).reportAt.isSome = true)) :=
  ⟨⟨s5, (2 : RedGroupId), redRecord B 2, 5, by decide +kernel⟩,
    ⟨s6, (2 : RedGroupId), by decide +kernel⟩,
    ⟨s4, taken s4 131 rsp, 131#12, rsp, 2, takes_of (by decide +kernel), by decide +kernel⟩⟩

end Group

namespace Element

def rawD (l : List (Nat × Nat)) : Nat := l.foldl (fun r e => r + e.1 * 2 ^ e.2) 0
def H : Nat := 5 * 2 ^ 21
def D (op fa fb fo : Nat) (a b o : Nat) (d0 d1 d2 : Nat) (sa sb so : Nat) (l : List (Nat × Nat) := []) : Nat :=
  rawD ([(op, 0), (fa, 8), (fb, 12), (fo, 16), (a, 64), (b, 128), (o, 192), (d0, 304), (d1, 320), (d2, 336), (sa, 352), (sb, 384), (so, 416)] ++ l)
def fibS (base : Machine.State) (f : Fibre) (mem : List (Nat × Bytes)) : Machine.State :=
  { base with vs := { base.vs with vats := [(0, { ({} : Vat) with fibres := [(fibreKey 5 0, f)] })] }
              mem := mem.foldl (fun m e => memWrite m e.1 e.2) base.mem }
def fib (r : Nat) : Fibre := { desc := leBytes 64 r }
def S (r : Nat) (mem : List (Nat × Bytes) := []) (base : Machine.State := owned) : Machine.State := fibS base (fib r) mem
def C (s : Machine.State) (r : Nat) : OpCtx :=
  let x := fib r
  let e : Desc := { raw := r }
  { d := 0, slice := 5, slot := 0, x := x, desc := e, a := resolveAddr s 0 5 x e.addrA, b := resolveAddr s 0 5 x e.addrB, o := resolveAddr s 0 5 x e.addrOut }
def ew (fn : Nat) (l : List (Nat × Nat) := []) (fb := 8) : Nat := D 6 8 fb 8 (H+0x1000) (if fb = 0 then 0 else H+0x2000) (H+0x3000) 2 2 0 8 (if fb = 0 then 0 else 8) 8 ((fn, 48) :: l)
def mm : List (Nat × Bytes) := [(H+0x1000, leBytes 4 0x3F800000 ++ leBytes 4 0x40000000 ++ leBytes 4 0x3F000000 ++ leBytes 4 0x7F800000),
  (H+0x2000, leBytes 4 0x3F800000 ++ leBytes 4 0xC0000000 ++ leBytes 4 0x40400000 ++ leBytes 4 0x40800000), (H+0x3000, leBytes 4 0x3F800000)]
def ew10 : Nat := ew 10 [(0x3F80000040000000, 448)] 0
def ew11 : Nat := D 6 3 0 1 (H+0x1000) 0 (H+0x3000) 2 2 0 8 0 2 [(11, 48), (0x0007000200000003, 448)]

theorem witness_elementwise_ops_complete_1 :
    (∃ (s : Machine.State) (v : VatId) (sl : SliceId) (st : SlotId) (x : Fibre) (c : OpCtx),
      (Begins s x c) ∧ (c.d = v.val) ∧ (c.slice = sl.val) ∧ (c.slot = st.val) ∧ (c.check s = none) ∧ (c.desc.opcode = 6) ∧ (c.badInput s = none)) ∧
    (∃ (s : Machine.State) (v : VatId) (sl : SliceId) (st : SlotId) (x : Fibre) (c : OpCtx),
      (Begins s x c) ∧ (c.d = v.val) ∧ (c.slice = sl.val) ∧ (c.slot = st.val) ∧ (c.check s = none) ∧ (c.desc.opcode = 6) ∧ (c.badInput s = none) ∧ (c.desc.func = 1)) ∧
    (∃ (s : Machine.State) (v : VatId) (sl : SliceId) (st : SlotId) (x : Fibre) (c : OpCtx),
      (Begins s x c) ∧ (c.d = v.val) ∧ (c.slice = sl.val) ∧ (c.slot = st.val) ∧ (c.check s = none) ∧ (c.desc.opcode = 6) ∧ (c.badInput s = none) ∧ (c.desc.func = 2)) ∧
    (∃ (s : Machine.State) (v : VatId) (sl : SliceId) (st : SlotId) (x : Fibre) (c : OpCtx),
      (Begins s x c) ∧ (c.d = v.val) ∧ (c.slice = sl.val) ∧ (c.slot = st.val) ∧ (c.check s = none) ∧ (c.desc.opcode = 6) ∧ (c.badInput s = none) ∧ (c.desc.func = 3)) ∧
    (∃ (s : Machine.State) (v : VatId) (sl : SliceId) (st : SlotId) (x : Fibre) (c : OpCtx),
      (Begins s x c) ∧ (c.d = v.val) ∧ (c.slice = sl.val) ∧ (c.slot = st.val) ∧ (c.check s = none) ∧ (c.desc.opcode = 6) ∧ (c.badInput s = none) ∧ (c.desc.func = 4)) ∧
    (∃ (s : Machine.State) (v : VatId) (sl : SliceId) (st : SlotId) (x : Fibre) (c : OpCtx),
      (Begins s x c) ∧ (c.d = v.val) ∧ (c.slice = sl.val) ∧ (c.slot = st.val) ∧ (c.check s = none) ∧ (c.desc.opcode = 6) ∧ (c.badInput s = none) ∧ (c.desc.func = 5)) ∧
    (∃ (s : Machine.State) (v : VatId) (sl : SliceId) (st : SlotId) (x : Fibre) (c : OpCtx),
      (Begins s x c) ∧ (c.d = v.val) ∧ (c.slice = sl.val) ∧ (c.slot = st.val) ∧ (c.check s = none) ∧ (c.desc.opcode = 6) ∧ (c.badInput s = none) ∧ (c.desc.func = 6)) ∧
    (∃ (s : Machine.State) (v : VatId) (sl : SliceId) (st : SlotId) (x : Fibre) (c : OpCtx),
      (Begins s x c) ∧ (c.d = v.val) ∧ (c.slice = sl.val) ∧ (c.slot = st.val) ∧ (c.check s = none) ∧ (c.desc.opcode = 6) ∧ (c.badInput s = none) ∧ (c.desc.func = 7)) :=
  ⟨⟨S (ew 0 [] 0) mm, (0:VatId), (5:SliceId), (0:SlotId), fib (ew 0 [] 0), C (S (ew 0 [] 0) mm) (ew 0 [] 0), begins_of (by decide +kernel), by decide +kernel⟩,
    ⟨S (ew 1) mm, (0:VatId), (5:SliceId), (0:SlotId), fib (ew 1), C (S (ew 1) mm) (ew 1), begins_of (by decide +kernel), by decide +kernel⟩,
    ⟨S (ew 2) mm, (0:VatId), (5:SliceId), (0:SlotId), fib (ew 2), C (S (ew 2) mm) (ew 2), begins_of (by decide +kernel), by decide +kernel⟩,
    ⟨S (ew 3) mm, (0:VatId), (5:SliceId), (0:SlotId), fib (ew 3), C (S (ew 3) mm) (ew 3), begins_of (by decide +kernel), by decide +kernel⟩,
    ⟨S (ew 4) mm, (0:VatId), (5:SliceId), (0:SlotId), fib (ew 4), C (S (ew 4) mm) (ew 4), begins_of (by decide +kernel), by decide +kernel⟩,
    ⟨S (ew 5) mm, (0:VatId), (5:SliceId), (0:SlotId), fib (ew 5), C (S (ew 5) mm) (ew 5), begins_of (by decide +kernel), by decide +kernel⟩,
    ⟨S (ew 6) mm, (0:VatId), (5:SliceId), (0:SlotId), fib (ew 6), C (S (ew 6) mm) (ew 6), begins_of (by decide +kernel), by decide +kernel⟩,
    ⟨S (ew 7 [] 0) mm, (0:VatId), (5:SliceId), (0:SlotId), fib (ew 7 [] 0), C (S (ew 7 [] 0) mm) (ew 7 [] 0), begins_of (by decide +kernel), by decide +kernel⟩⟩

theorem witness_elementwise_ops_complete_2 :
    (∃ (s : Machine.State) (v : VatId) (sl : SliceId) (st : SlotId) (x : Fibre) (c : OpCtx),
      (Begins s x c) ∧ (c.d = v.val) ∧ (c.slice = sl.val) ∧ (c.slot = st.val) ∧ (c.check s = none) ∧ (c.desc.opcode = 6) ∧ (c.badInput s = none) ∧ (c.desc.func = 8)) ∧
    (∃ (s : Machine.State) (v : VatId) (sl : SliceId) (st : SlotId) (x : Fibre) (c : OpCtx),
      (Begins s x c) ∧ (c.d = v.val) ∧ (c.slice = sl.val) ∧ (c.slot = st.val) ∧ (c.check s = none) ∧ (c.desc.opcode = 6) ∧ (c.badInput s = none) ∧ (c.desc.func = 9)) ∧
    (∃ (s : Machine.State) (v : VatId) (sl : SliceId) (st : SlotId) (x : Fibre) (c : OpCtx),
      (Begins s x c) ∧ (c.d = v.val) ∧ (c.slice = sl.val) ∧ (c.slot = st.val) ∧ (c.check s = none) ∧ (c.desc.opcode = 6) ∧ (c.badInput s = none) ∧ (c.desc.func = 10)) ∧
    (∃ (s : Machine.State) (v : VatId) (sl : SliceId) (st : SlotId) (x : Fibre) (c : OpCtx),
      (Begins s x c) ∧ (c.d = v.val) ∧ (c.slice = sl.val) ∧ (c.slot = st.val) ∧ (c.check s = none) ∧ (c.desc.opcode = 6) ∧ (c.badInput s = none) ∧ (c.desc.func = 11)) ∧
    (∃ (s : Machine.State) (v : VatId) (sl : SliceId) (st : SlotId) (x : Fibre) (c : OpCtx),
      (Begins s x c) ∧ (c.d = v.val) ∧ (c.slice = sl.val) ∧ (c.slot = st.val) ∧ (c.check s = none) ∧ (c.desc.opcode = 6) ∧ (c.badInput s = none) ∧ (c.desc.func = 16)) ∧
    (∃ (s : Machine.State) (v : VatId) (sl : SliceId) (st : SlotId) (x : Fibre) (c : OpCtx),
      (Begins s x c) ∧ (c.d = v.val) ∧ (c.slice = sl.val) ∧ (c.slot = st.val) ∧ (c.check s = none) ∧ (c.desc.opcode = 6) ∧ (c.badInput s = none) ∧ (c.desc.func = 17)) ∧
    (∃ (s : Machine.State) (v : VatId) (sl : SliceId) (st : SlotId) (x : Fibre) (c : OpCtx),
      (Begins s x c) ∧ (c.d = v.val) ∧ (c.slice = sl.val) ∧ (c.slot = st.val) ∧ (c.check s = none) ∧ (c.desc.opcode = 6) ∧ (c.badInput s = none) ∧ (c.desc.func = 18)) ∧
    (∃ (s : Machine.State) (v : VatId) (sl : SliceId) (st : SlotId) (x : Fibre) (c : OpCtx),
      (Begins s x c) ∧ (c.d = v.val) ∧ (c.slice = sl.val) ∧ (c.slot = st.val) ∧ (c.check s = none) ∧ (c.desc.opcode = 6) ∧ (c.badInput s = none) ∧ (c.desc.func = 19)) :=
  ⟨⟨S (ew 8 [] 0) mm, (0:VatId), (5:SliceId), (0:SlotId), fib (ew 8 [] 0), C (S (ew 8 [] 0) mm) (ew 8 [] 0), begins_of (by decide +kernel), by decide +kernel⟩,
    ⟨S (ew 9 [] 0) mm, (0:VatId), (5:SliceId), (0:SlotId), fib (ew 9 [] 0), C (S (ew 9 [] 0) mm) (ew 9 [] 0), begins_of (by decide +kernel), by decide +kernel⟩,
    ⟨S ew10 mm, (0:VatId), (5:SliceId), (0:SlotId), fib ew10, C (S ew10 mm) ew10, begins_of (by decide +kernel), by decide +kernel⟩,
    ⟨S ew11 mm, (0:VatId), (5:SliceId), (0:SlotId), fib ew11, C (S ew11 mm) ew11, begins_of (by decide +kernel), by decide +kernel⟩,
    ⟨S (ew 0x10 [] 0) mm, (0:VatId), (5:SliceId), (0:SlotId), fib (ew 0x10 [] 0), C (S (ew 0x10 [] 0) mm) (ew 0x10 [] 0), begins_of (by decide +kernel), by decide +kernel⟩,
    ⟨S (ew 0x11 [] 0) mm, (0:VatId), (5:SliceId), (0:SlotId), fib (ew 0x11 [] 0), C (S (ew 0x11 [] 0) mm) (ew 0x11 [] 0), begins_of (by decide +kernel), by decide +kernel⟩,
    ⟨S (ew 0x12 [] 0) mm, (0:VatId), (5:SliceId), (0:SlotId), fib (ew 0x12 [] 0), C (S (ew 0x12 [] 0) mm) (ew 0x12 [] 0), begins_of (by decide +kernel), by decide +kernel⟩,
    ⟨S (ew 0x13 [] 0) mm, (0:VatId), (5:SliceId), (0:SlotId), fib (ew 0x13 [] 0), C (S (ew 0x13 [] 0) mm) (ew 0x13 [] 0), begins_of (by decide +kernel), by decide +kernel⟩⟩

theorem witness_elementwise_ops_complete_3 :
    (∃ (s : Machine.State) (v : VatId) (sl : SliceId) (st : SlotId) (x : Fibre) (c : OpCtx),
      (Begins s x c) ∧ (c.d = v.val) ∧ (c.slice = sl.val) ∧ (c.slot = st.val) ∧ (c.check s = none) ∧ (c.desc.opcode = 6) ∧ (c.badInput s = none) ∧ (c.desc.func = 20)) ∧
    (∃ (s : Machine.State) (v : VatId) (sl : SliceId) (st : SlotId) (x : Fibre) (c : OpCtx),
      (Begins s x c) ∧ (c.d = v.val) ∧ (c.slice = sl.val) ∧ (c.slot = st.val) ∧ (c.check s = none) ∧ (c.desc.opcode = 6) ∧ (c.badInput s = none) ∧ (c.desc.func = 21)) ∧
    (∃ (s : Machine.State) (v : VatId) (sl : SliceId) (st : SlotId) (x : Fibre) (c : OpCtx),
      (Begins s x c) ∧ (c.d = v.val) ∧ (c.slice = sl.val) ∧ (c.slot = st.val) ∧ (c.check s = none) ∧ (c.desc.opcode = 6) ∧ (c.badInput s = none) ∧ (c.desc.func = 22)) ∧
    (∃ (s : Machine.State) (v : VatId) (sl : SliceId) (st : SlotId) (x : Fibre) (c : OpCtx),
      (Begins s x c) ∧ (c.d = v.val) ∧ (c.slice = sl.val) ∧ (c.slot = st.val) ∧ (c.check s = none) ∧ (c.desc.opcode = 6) ∧ (c.badInput s = none) ∧ (c.desc.func = 23)) :=
  ⟨⟨S (ew 0x14 [] 0) mm, (0:VatId), (5:SliceId), (0:SlotId), fib (ew 0x14 [] 0), C (S (ew 0x14 [] 0) mm) (ew 0x14 [] 0), begins_of (by decide +kernel), by decide +kernel⟩,
    ⟨S (ew 0x15 [] 0) mm, (0:VatId), (5:SliceId), (0:SlotId), fib (ew 0x15 [] 0), C (S (ew 0x15 [] 0) mm) (ew 0x15 [] 0), begins_of (by decide +kernel), by decide +kernel⟩,
    ⟨S (ew 0x16 [] 0) mm, (0:VatId), (5:SliceId), (0:SlotId), fib (ew 0x16 [] 0), C (S (ew 0x16 [] 0) mm) (ew 0x16 [] 0), begins_of (by decide +kernel), by decide +kernel⟩,
    ⟨S (ew 0x17 [] 0) mm, (0:VatId), (5:SliceId), (0:SlotId), fib (ew 0x17 [] 0), C (S (ew 0x17 [] 0) mm) (ew 0x17 [] 0), begins_of (by decide +kernel), by decide +kernel⟩⟩

end Element

namespace Combine

def rawD (l : List (Nat × Nat)) : Nat := l.foldl (fun r e => r + e.1 * 2 ^ e.2) 0
def H : Nat := 5 * 2 ^ 21
def D (op fa fb fo : Nat) (a b o : Nat) (d0 d1 d2 : Nat) (sa sb so : Nat) (l : List (Nat × Nat) := []) : Nat :=
  rawD ([(op, 0), (fa, 8), (fb, 12), (fo, 16), (a, 64), (b, 128), (o, 192), (d0, 304), (d1, 320), (d2, 336), (sa, 352), (sb, 384), (so, 416)] ++ l)
def fibS (base : Machine.State) (f : Fibre) (mem : List (Nat × Bytes)) : Machine.State :=
  { base with vs := { base.vs with vats := [(0, { ({} : Vat) with fibres := [(fibreKey 5 0, f)] })] }
              mem := mem.foldl (fun m e => memWrite m e.1 e.2) base.mem }
def fib (r : Nat) : Fibre := { desc := leBytes 64 r }
def S (r : Nat) (mem : List (Nat × Bytes) := []) (base : Machine.State := owned) : Machine.State := fibS base (fib r) mem
def C (s : Machine.State) (r : Nat) : OpCtx :=
  let x := fib r
  let e : Desc := { raw := r }
  { d := 0, slice := 5, slot := 0, x := x, desc := e, a := resolveAddr s 0 5 x e.addrA, b := resolveAddr s 0 5 x e.addrB, o := resolveAddr s 0 5 x e.addrOut }
def bf (l : List Nat) : Bytes := l.flatMap (leBytes 2)
def m1 : Nat := D 5 7 7 8 (H+0x1000) (H+0x2000) (H+0x3000) 2 2 2 4 4 8
def mb : List (Nat × Bytes) := [(H+0x1000, bf [0x3F80, 0x4000, 0x4040, 0x4080]), (H+0x2000, bf [0x3F80, 0xBF80, 0x3F00, 0x4000]), (H+0x3000, leBytes 4 0x3F800000)]
def mr (s : Machine.State) (r : Nat) : List (List (Option Nat)) :=
  let c := C s r
  let e := c.desc
  ((List.range e.dim0).map fun i => (List.range e.dim1).map fun j =>
        (e.matmulElem (operandRow s c.a e.strideA e.fmtA e.dim2 i)
          (if e.transB then operandRow s c.b e.strideB e.fmtB e.dim2 j
            else (List.range e.dim2).map fun k => elementAt s c.b e.strideB e.fmtB e.dim1 k j)
          (elementAt s c.o e.strideOut e.fmtOut e.dim1 i j)).1)
def rs1 : Nat := D 6 8 0 8 (H+0x1000) 0 (H+0x3000) 2 2 0 8 0 4 [(0x20, 48)]
def fm : List (Nat × Bytes) := [(H+0x1000, leBytes 4 0x3F800000 ++ leBytes 4 0x40000000 ++ leBytes 4 0x3F000000 ++ leBytes 4 0xBF800000), (H+0x3000, leBytes 4 0x3F800000)]
def rx (s : Machine.State) (r : Nat) : List (Option Nat) :=
  let c := C s r
  let e := c.desc
  ((List.range e.dim0).map fun i =>
        (e.exactSum ((operandRow s c.a e.strideA e.fmtA e.dim1 i).map (decodeElem e.fmtA)) (elementAt s c.o e.strideOut e.fmtOut 1 i 0)).1)
def rs3 : Nat := rs1 + 2^21 + 0x1E0*2^32
def rm : Nat := D 6 8 0 8 (H+0x1000) 0 (H+0x3000) 2 2 0 8 0 4 [(0x21, 48)]
def te : Nat := D 7 8 0 8 (H+0x1000) (H+0x2000) (H+0x3000) 2 2 1 8 16 4 [(2, 256)]
def tree1 : Bytes := leBytes 8 (0x3F000000 * 2^32) ++ leBytes 4 0x3F800000 ++ leBytes 4 0x40000000
def tmm : List (Nat × Bytes) := fm ++ [(H+0x2000, tree1 ++ tree1)]
def tr (s : Machine.State) (r : Nat) : List (Option Nat) :=
  let c := C s r
  let e := c.desc
  ((List.range e.dim0).map fun i =>
        (e.treeSum ((List.range e.aux).map fun k => readMem s (c.b + k * e.strideB) (treeBytes e.dim2))
          (operandRow s c.a e.strideA e.fmtA e.dim1 i) (elementAt s c.o e.strideOut e.fmtOut 1 i 0)).1)
def em (fn : Nat) : Nat := D 8 8 0 8 (H+0x1000) (H+0x2000) (H+0x3000) 3 2 0 8 0 8 [(fn, 48), (5, 256)]
def emm : List (Nat × Bytes) := fm ++ [(H+0x2000, leBytes 4 1 ++ leBytes 4 0xFFFFFFFF ++ leBytes 4 0)]
def er (s : Machine.State) (r : Nat) : List (Option (List Nat)) :=
  let c := C s r
  let e := c.desc
  (c.indices s).map (fun i => if i < 0 then none else some (operandRow s c.a e.strideA e.fmtA e.dim1 i.toNat))
def ex1 : Nat := em 1 + 2^21 + 0x1E0*2^32
def exr (s : Machine.State) : List (Option Nat) :=
  let c := C s ex1
  let e := c.desc
  (List.range e.dim1).map fun j => (e.exactSum (((er s ex1).filterMap id).map fun l => decodeElem e.fmtA (l.getD j 0)) (elementAt s c.o e.strideOut e.fmtOut e.dim1 0 j)).1

theorem witness_combining_ops_complete_1 :
    (∃ (s : Machine.State) (v : VatId) (sl : SliceId) (st : SlotId) (x : Fibre) (c : OpCtx) (e : Desc) (r : List (List (Option Nat))),
      (Begins s x c) ∧ (c.d = v.val) ∧ (c.slice = sl.val) ∧ (c.slot = st.val) ∧ (c.check s = none) ∧ (e = c.desc) ∧ (e.opcode = 5) ∧ (c.badInput s = none) ∧ (r = List.map (fun i => List.map (fun j => (e.matmulElem (operandRow s c.a e.strideA e.fmtA e.dim2 i) (if e.transB = true then operandRow s c.b e.strideB e.fmtB e.dim2 j else List.map (fun k => elementAt s c.b e.strideB e.fmtB e.dim1 k j) (List.range e.dim2)) (elementAt s c.o e.strideOut e.fmtOut e.dim1 i j)).fst) (List.range e.dim1)) (List.range e.dim0)) ∧ ((r.all fun l => l.all fun x => x.isSome) = true)) ∧
    (∃ (s : Machine.State) (v : VatId) (sl : SliceId) (st : SlotId) (x : Fibre) (c : OpCtx) (e : Desc),
      (Begins s x c) ∧ (c.d = v.val) ∧ (c.slice = sl.val) ∧ (c.slot = st.val) ∧ (c.check s = none) ∧ (e = c.desc) ∧ (e.opcode = 6) ∧ (e.func = 32) ∧ (e.exact = false) ∧ (c.badInput s = none)) ∧
    (∃ (s : Machine.State) (v : VatId) (sl : SliceId) (st : SlotId) (x : Fibre) (c : OpCtx) (e : Desc) (r : List (Option Nat)),
      (Begins s x c) ∧ (c.d = v.val) ∧ (c.slice = sl.val) ∧ (c.slot = st.val) ∧ (c.check s = none) ∧ (e = c.desc) ∧ (e.opcode = 6) ∧ (e.func = 32) ∧ (e.exact = true) ∧ (c.badInput s = none) ∧ (r = List.map (fun i => (e.exactSum (List.map (decodeElem e.fmtA) (operandRow s c.a e.strideA e.fmtA e.dim1 i)) (elementAt s c.o e.strideOut e.fmtOut 1 i 0)).fst) (List.range e.dim0)) ∧ ((r.all fun x => x.isSome) = true)) ∧
    (∃ (s : Machine.State) (v : VatId) (sl : SliceId) (st : SlotId) (x : Fibre) (c : OpCtx) (e : Desc),
      (Begins s x c) ∧ (c.d = v.val) ∧ (c.slice = sl.val) ∧ (c.slot = st.val) ∧ (c.check s = none) ∧ (e = c.desc) ∧ (e.opcode = 6) ∧ (e.func = 33) ∧ (c.badInput s = none)) ∧
    (∃ (s : Machine.State) (v : VatId) (sl : SliceId) (st : SlotId) (x : Fibre) (c : OpCtx) (e : Desc) (r : List (Option Nat)),
      (Begins s x c) ∧ (c.d = v.val) ∧ (c.slice = sl.val) ∧ (c.slot = st.val) ∧ (c.check s = none) ∧ (e = c.desc) ∧ (e.opcode = 7) ∧ (c.badInput s = none) ∧ (r = List.map (fun i => (e.treeSum (List.map (fun k => readMem s (c.b + k * e.strideB) (treeBytes e.dim2)) (List.range e.aux)) (operandRow s c.a e.strideA e.fmtA e.dim1 i) (elementAt s c.o e.strideOut e.fmtOut 1 i 0)).fst) (List.range e.dim0)) ∧ ((r.all fun x => x.isSome) = true)) ∧
    (∃ (s : Machine.State) (v : VatId) (sl : SliceId) (st : SlotId) (x : Fibre) (c : OpCtx) (e : Desc) (idx : List Int) (rows : List (Option (List Nat))),
      (Begins s x c) ∧ (c.d = v.val) ∧ (c.slice = sl.val) ∧ (c.slot = st.val) ∧ (c.check s = none) ∧ (e = c.desc) ∧ (e.opcode = 8) ∧ (idx = c.indices s) ∧ (c.badInput s = none) ∧ (c.indexFault c.a e.strideA (rowBytes e.fmtA e.dim1) idx true = none) ∧ (∀ (r : Nat × Nat), r ∈ OpCtx.tableRanges c.a e.strideA (rowBytes e.fmtA e.dim1) idx → c.isHome r.fst = true ∧ badRange s r.fst r.snd = false) ∧ (rows = List.map (fun i => if i < 0 then none else some (operandRow s c.a e.strideA e.fmtA e.dim1 i.toNat)) idx) ∧ (e.func = 0)) ∧
    (∃ (s : Machine.State) (v : VatId) (sl : SliceId) (st : SlotId) (x : Fibre) (c : OpCtx) (e : Desc) (idx : List Int) (rows : List (Option (List Nat))),
      (Begins s x c) ∧ (c.d = v.val) ∧ (c.slice = sl.val) ∧ (c.slot = st.val) ∧ (c.check s = none) ∧ (e = c.desc) ∧ (e.opcode = 8) ∧ (idx = c.indices s) ∧ (c.badInput s = none) ∧ (c.indexFault c.a e.strideA (rowBytes e.fmtA e.dim1) idx true = none) ∧ (∀ (r : Nat × Nat), r ∈ OpCtx.tableRanges c.a e.strideA (rowBytes e.fmtA e.dim1) idx → c.isHome r.fst = true ∧ badRange s r.fst r.snd = false) ∧ (rows = List.map (fun i => if i < 0 then none else some (operandRow s c.a e.strideA e.fmtA e.dim1 i.toNat)) idx) ∧ (e.func = 1) ∧ (e.exact = false)) ∧
    (∃ (s : Machine.State) (v : VatId) (sl : SliceId) (st : SlotId) (x : Fibre) (c : OpCtx) (e : Desc) (idx : List Int) (rows : List (Option (List Nat))) (r : List (Option Nat)),
      (Begins s x c) ∧ (c.d = v.val) ∧ (c.slice = sl.val) ∧ (c.slot = st.val) ∧ (c.check s = none) ∧ (e = c.desc) ∧ (e.opcode = 8) ∧ (idx = c.indices s) ∧ (c.badInput s = none) ∧ (c.indexFault c.a e.strideA (rowBytes e.fmtA e.dim1) idx true = none) ∧ (∀ (r : Nat × Nat), r ∈ OpCtx.tableRanges c.a e.strideA (rowBytes e.fmtA e.dim1) idx → c.isHome r.fst = true ∧ badRange s r.fst r.snd = false) ∧ (rows = List.map (fun i => if i < 0 then none else some (operandRow s c.a e.strideA e.fmtA e.dim1 i.toNat)) idx) ∧ (e.func = 1) ∧ (e.exact = true) ∧ (r = List.map (fun j => (e.exactSum (List.map (fun l => decodeElem e.fmtA (l.getD j 0)) (List.filterMap id rows)) (elementAt s c.o e.strideOut e.fmtOut e.dim1 0 j)).fst) (List.range e.dim1)) ∧ ((r.all fun x => x.isSome) = true)) :=
  ⟨⟨S m1 mb, (0:VatId), (5:SliceId), (0:SlotId), fib m1, C (S m1 mb) m1, { raw := m1 }, mr (S m1 mb) m1, begins_of (by decide +kernel), by decide +kernel⟩,
    ⟨S rs1 fm, (0:VatId), (5:SliceId), (0:SlotId), fib rs1, C (S rs1 fm) rs1, { raw := rs1 }, begins_of (by decide +kernel), by decide +kernel⟩,
    ⟨S rs3 fm, (0:VatId), (5:SliceId), (0:SlotId), fib rs3, C (S rs3 fm) rs3, { raw := rs3 }, rx (S rs3 fm) rs3, begins_of (by decide +kernel), by decide +kernel⟩,
    ⟨S rm fm, (0:VatId), (5:SliceId), (0:SlotId), fib rm, C (S rm fm) rm, { raw := rm }, begins_of (by decide +kernel), by decide +kernel⟩,
    ⟨S te tmm, (0:VatId), (5:SliceId), (0:SlotId), fib te, C (S te tmm) te, { raw := te }, tr (S te tmm) te, begins_of (by decide +kernel), by decide +kernel⟩,
    ⟨S (em 0) emm, (0:VatId), (5:SliceId), (0:SlotId), fib (em 0), C (S (em 0) emm) (em 0), { raw := em 0 }, (C (S (em 0) emm) (em 0)).indices (S (em 0) emm), er (S (em 0) emm) (em 0), begins_of (by decide +kernel), by decide +kernel⟩,
    ⟨S (em 1) emm, (0:VatId), (5:SliceId), (0:SlotId), fib (em 1), C (S (em 1) emm) (em 1), { raw := em 1 }, (C (S (em 1) emm) (em 1)).indices (S (em 1) emm), er (S (em 1) emm) (em 1), begins_of (by decide +kernel), by decide +kernel⟩,
    ⟨S ex1 emm, (0:VatId), (5:SliceId), (0:SlotId), fib ex1, C (S ex1 emm) ex1, { raw := ex1 }, (C (S ex1 emm) ex1).indices (S ex1 emm), er (S ex1 emm) ex1, exr (S ex1 emm), begins_of (by decide +kernel), by decide +kernel⟩⟩

theorem witness_combining_ops_complete_2 :
    (∃ (s : Machine.State) (v : VatId) (sl : SliceId) (st : SlotId) (x : Fibre) (c : OpCtx) (e : Desc) (idx : List Int) (rows : List (Option (List Nat))),
      (Begins s x c) ∧ (c.d = v.val) ∧ (c.slice = sl.val) ∧ (c.slot = st.val) ∧ (c.check s = none) ∧ (e = c.desc) ∧ (e.opcode = 8) ∧ (idx = c.indices s) ∧ (c.badInput s = none) ∧ (c.indexFault c.a e.strideA (rowBytes e.fmtA e.dim1) idx true = none) ∧ (∀ (r : Nat × Nat), r ∈ OpCtx.tableRanges c.a e.strideA (rowBytes e.fmtA e.dim1) idx → c.isHome r.fst = true ∧ badRange s r.fst r.snd = false) ∧ (rows = List.map (fun i => if i < 0 then none else some (operandRow s c.a e.strideA e.fmtA e.dim1 i.toNat)) idx) ∧ (e.func = 2)) :=
    ⟨S (em 2) emm, (0:VatId), (5:SliceId), (0:SlotId), fib (em 2), C (S (em 2) emm) (em 2), { raw := em 2 }, (C (S (em 2) emm) (em 2)).indices (S (em 2) emm), er (S (em 2) emm) (em 2), begins_of (by decide +kernel), by decide +kernel⟩

end Combine

namespace Data

def rawD (l : List (Nat × Nat)) : Nat := l.foldl (fun r e => r + e.1 * 2 ^ e.2) 0
def H : Nat := 5 * 2 ^ 21
def D (op fa fb fo : Nat) (a b o : Nat) (d0 d1 d2 : Nat) (sa sb so : Nat) (l : List (Nat × Nat) := []) : Nat :=
  rawD ([(op, 0), (fa, 8), (fb, 12), (fo, 16), (a, 64), (b, 128), (o, 192), (d0, 304), (d1, 320), (d2, 336), (sa, 352), (sb, 384), (so, 416)] ++ l)
def fibS (base : Machine.State) (f : Fibre) (mem : List (Nat × Bytes)) : Machine.State :=
  { base with vs := { base.vs with vats := [(0, { ({} : Vat) with fibres := [(fibreKey 5 0, f)] })] }
              mem := mem.foldl (fun m e => memWrite m e.1 e.2) base.mem }
def fib (r : Nat) : Fibre := { desc := leBytes 64 r }
def S (r : Nat) (mem : List (Nat × Bytes) := []) (base : Machine.State := owned) : Machine.State := fibS base (fib r) mem
def C (s : Machine.State) (r : Nat) : OpCtx :=
  let x := fib r
  let e : Desc := { raw := r }
  { d := 0, slice := 5, slot := 0, x := x, desc := e, a := resolveAddr s 0 5 x e.addrA, b := resolveAddr s 0 5 x e.addrB, o := resolveAddr s 0 5 x e.addrOut }
def rdr : Nat := 1 + 2^32 + 392 * 2^144 + 3 * 2^30 + 4 * 2^39 + 0xA0000300 * 2^96 + 1 * 2^160 + 130 * 2^164 + 1 * 2^176 + 7 * 2^192
def rS : Machine.State := withCfg owned [(0x2520*256+3, leBytes 64 rdr)]
def ndS (l : Table RedNode) (g : RedGroup := {}) : Machine.State := { rS with vs := { rS.vs with nodes := l, red := [(2, g)] } }
def B : Bank := rS.ep.cur
def nk (n : Nat) : Nat := 4096 * 2 + n
def ld : Nat := D 1 8 0 7 (H+0x1000) 0 (H+0x3000) 2 2 0 8 0 4
def dat (s : Machine.State) (c : OpCtx) (l : List (Nat × Nat)) : List Bytes := match c.fetch s l with | .ready d => d | _ => []
def ldd (s : Machine.State) (c : OpCtx) : List Bytes := dat s c (rowRanges c.a c.desc.dim0 c.desc.strideA (rowBytes c.desc.fmtA c.desc.dim1))
def cvt (c : OpCtx) (e : Nat) : Option Nat := (if c.desc.fmtA = 9 then reamCopy e else some (encodeElem c.desc.fmtOut c.desc.sat (decodeElem c.desc.fmtA e)))
def ldr (s : Machine.State) (c : OpCtx) : List (List (Option Nat)) :=
  ((splitRows c.desc.dim0 (rowBytes c.desc.fmtA c.desc.dim1) (ldd s c)).map fun r => (rowElems c.desc.fmtA c.desc.dim1 r).map (cvt c))
def fm : List (Nat × Bytes) := [(H+0x1000, leBytes 4 0x3F800000 ++ leBytes 4 0x40000000 ++ leBytes 4 0x3F000000 ++ leBytes 4 0xBF800000), (H+0x3000, leBytes 4 0x3F800000)]
def ldR : Nat := D 1 8 0 8 (7*2^21+0x1000) 0 (H+0x3000) 1 2 0 8 0 8
def stH : Nat := D 2 8 0 7 (H+0x1000) 0 (H+0x3000) 2 2 0 8 0 4
def str (s : Machine.State) (c : OpCtx) : List (List (Option Nat)) :=
  ((List.range c.desc.dim0).map fun i => (operandRow s c.a c.desc.strideA c.desc.fmtA c.desc.dim1 i).map (cvt c))
def std (s : Machine.State) (c : OpCtx) : Bytes := ((str s c).map fun l => packElems c.desc.fmtOut (l.map (·.getD 0))).flatten
def stS : Nat := D 2 8 0 7 (H+0x1000) 0 (H+0x3000) 2 2 0 8 0 16
def ga : Nat := D 3 8 0 8 (H+0x1000) (H+0x2000) (H+0x3000) 2 2 0 8 0 16 [(5, 256)]
def gm : List (Nat × Bytes) := fm ++ [(H+0x2000, leBytes 4 1 ++ leBytes 4 0)]
def gdat (s : Machine.State) (c : OpCtx) : List Bytes := dat s c (OpCtx.tableRanges c.a c.desc.strideA (rowBytes c.desc.fmtA c.desc.dim1) (c.indices s))
def sc : Nat := D 4 8 0 8 (H+0x1000) (H+0x2000) (7*2^21+0x3000) 2 2 0 8 0 16 [(5, 256)]
def H1 : Nat := 2^21
def S1 (base : Machine.State) (r : Nat) (mem : List (Nat × Bytes)) : Machine.State :=
  { base with vs := { base.vs with vats := [(0, { ({} : Vat) with fibres := [(fibreKey 1 0, fib r)] })] }
              mem := mem.foldl (fun m e => memWrite m e.1 e.2) base.mem }
def C1 (s : Machine.State) (r : Nat) : OpCtx := { C s r with slice := 1 }
def co : Nat := D 9 8 0 0 (H1+0x1000) 0 0 1 4 0 16 0 0 [(2, 256)]
def cm : List (Nat × Bytes) := [(H1+0x1000, (fm[0]!).2)]
def cS : Machine.State := S1 rS co cm
def cS2 : Machine.State := S1 (ndS [(nk 131, { base := 3, nextWave := 7, begun := 7 })]) co cm

theorem witness_data_ops_complete_1 :
    (∃ (s : Machine.State) (v : VatId) (sl : SliceId) (st : SlotId) (x : Fibre) (c : OpCtx) (code : Nat),
      (Begins s x c) ∧ (c.d = v.val) ∧ (c.slice = sl.val) ∧ (c.slot = st.val) ∧ (c.check s = some code) ∧ (c.desc.opcode = 1)) ∧
    (∃ (s : Machine.State) (v : VatId) (sl : SliceId) (st : SlotId) (x : Fibre) (c : OpCtx) (data : List Bytes) (r : List (List (Option Nat))),
      (Begins s x c) ∧ (c.d = v.val) ∧ (c.slice = sl.val) ∧ (c.slot = st.val) ∧ (c.check s = none) ∧ (c.desc.opcode = 1) ∧ (c.fetch s (rowRanges c.a c.desc.dim0 c.desc.strideA (rowBytes c.desc.fmtA c.desc.dim1)) = Fetch.ready data) ∧ (r = List.map (fun r => List.map (fun e => if c.desc.fmtA = 9 then reamCopy e else some (encodeElem c.desc.fmtOut c.desc.sat (decodeElem c.desc.fmtA e))) (rowElems c.desc.fmtA c.desc.dim1 r)) (splitRows c.desc.dim0 (rowBytes c.desc.fmtA c.desc.dim1) data)) ∧ ((r.all fun l => l.all fun x => x.isSome) = true)) ∧
    (∃ (s : Machine.State) (v : VatId) (sl : SliceId) (st : SlotId) (x : Fibre) (c : OpCtx) (a : Nat) (n : Nat) (r : Region),
      (Begins s x c) ∧ (c.d = v.val) ∧ (c.slice = sl.val) ∧ (c.slot = st.val) ∧ (c.check s = none) ∧ (c.desc.opcode = 1) ∧ (rowRanges c.a c.desc.dim0 c.desc.strideA (rowBytes c.desc.fmtA c.desc.dim1) = [(a, n)]) ∧ (c.isHome a = false) ∧ (accessCuts a n = [(a, n)]) ∧ (c.x.reads = []) ∧ (decodeAddr a = some r)) ∧
    (∃ (s : Machine.State) (v : VatId) (sl : SliceId) (st : SlotId) (x : Fibre) (c : OpCtx) (data : Bytes) (rows : List (List (Option Nat))),
      (Begins s x c) ∧ (c.d = v.val) ∧ (c.slice = sl.val) ∧ (c.slot = st.val) ∧ (c.check s = none) ∧ (c.desc.opcode = 2) ∧ (∀ (r : Nat × Nat), r ∈ rowRanges c.a c.desc.dim0 c.desc.strideA (rowBytes c.desc.fmtA c.desc.dim1) → badRange s r.fst r.snd = false) ∧ (rows = List.map (fun i => List.map (fun e => if c.desc.fmtA = 9 then reamCopy e else some (encodeElem c.desc.fmtOut c.desc.sat (decodeElem c.desc.fmtA e))) (operandRow s c.a c.desc.strideA c.desc.fmtA c.desc.dim1 i)) (List.range c.desc.dim0)) ∧ ((rows.all fun l => l.all fun x => x.isSome) = true) ∧ (data = (List.map (fun l => packElems c.desc.fmtOut (List.map (fun x => x.getD 0) l)) rows).flatten) ∧ (c.desc.dim0 = 1 ∨ c.desc.strideOut = rowBytes c.desc.fmtOut c.desc.dim1)) ∧
    (∃ (s : Machine.State) (v : VatId) (sl : SliceId) (st : SlotId) (x : Fibre) (c : OpCtx) (rows : List (List (Option Nat))),
      (Begins s x c) ∧ (c.d = v.val) ∧ (c.slice = sl.val) ∧ (c.slot = st.val) ∧ (c.check s = none) ∧ (c.desc.opcode = 2) ∧ (∀ (r : Nat × Nat), r ∈ rowRanges c.a c.desc.dim0 c.desc.strideA (rowBytes c.desc.fmtA c.desc.dim1) → badRange s r.fst r.snd = false) ∧ (rows = List.map (fun i => List.map (fun e => if c.desc.fmtA = 9 then reamCopy e else some (encodeElem c.desc.fmtOut c.desc.sat (decodeElem c.desc.fmtA e))) (operandRow s c.a c.desc.strideA c.desc.fmtA c.desc.dim1 i)) (List.range c.desc.dim0)) ∧ ((rows.all fun l => l.all fun x => x.isSome) = true) ∧ (c.desc.dim0 ≠ 1) ∧ (c.desc.strideOut ≠ rowBytes c.desc.fmtOut c.desc.dim1)) ∧
    (∃ (s : Machine.State) (v : VatId) (sl : SliceId) (st : SlotId) (x : Fibre) (c : OpCtx) (data : List Bytes),
      (Begins s x c) ∧ (c.d = v.val) ∧ (c.slice = sl.val) ∧ (c.slot = st.val) ∧ (c.check s = none) ∧ (c.desc.opcode = 3) ∧ (c.indicesBad s = false) ∧ (c.indexFault c.a c.desc.strideA (rowBytes c.desc.fmtA c.desc.dim1) (c.indices s) false = none) ∧ (c.fetch s (OpCtx.tableRanges c.a c.desc.strideA (rowBytes c.desc.fmtA c.desc.dim1) (c.indices s)) = Fetch.ready data)) ∧
    (∃ (s : Machine.State) (v : VatId) (sl : SliceId) (st : SlotId) (x : Fibre) (c : OpCtx),
      (Begins s x c) ∧ (c.d = v.val) ∧ (c.slice = sl.val) ∧ (c.slot = st.val) ∧ (c.check s = none) ∧ (c.desc.opcode = 4) ∧ (c.indicesBad s = false) ∧ (c.indexFault c.o c.desc.strideOut (rowBytes c.desc.fmtA c.desc.dim1) (c.indices s) false = none) ∧ (∀ (i : Nat), i < c.desc.dim0 → badRange s (c.a + i * c.desc.strideA) (rowBytes c.desc.fmtA c.desc.dim1) = false) ∧ (∀ (i : Int), i ∈ c.indices s → c.isHome (c.o + i.toNat * c.desc.strideOut) = false)) ∧
    (∃ (s : Machine.State) (v : VatId) (sl : SliceId) (st : SlotId) (x : Fibre) (c : OpCtx) (g : Nat) (r : Nat) (nd : RedNode),
      (Begins s x c) ∧ (c.d = v.val) ∧ (c.slice = sl.val) ∧ (c.slot = st.val) ∧ (c.check s = none) ∧ (c.desc.opcode = 9) ∧ (g = c.desc.aux) ∧ (r = redRecord (tileBank s c.node) g) ∧ (nd = redNode s g c.node) ∧ (x.state = 1) ∧ (x.wait = none) ∧ (c.contributeBad s (tileBank s c.node) g = false) ∧ (c.packedBad s = false) ∧ (((c.wires s (redWindow r)).all fun x => x.isSome) = true) ∧ (c.desc.release = true → (writesOut s fun x => x == c.owner) = false) ∧ (leafFree s r g c.node = true)) :=
  ⟨⟨S (ld+2^20) fm, (0:VatId), (5:SliceId), (0:SlotId), fib (ld+2^20), C (S (ld+2^20) fm) (ld+2^20), 8, begins_of (by decide +kernel), by decide +kernel⟩,
    ⟨S ld fm, (0:VatId), (5:SliceId), (0:SlotId), fib ld, C (S ld fm) ld, ldd (S ld fm) (C (S ld fm) ld), ldr (S ld fm) (C (S ld fm) ld), begins_of (by decide +kernel), by decide +kernel⟩,
    ⟨S ldR fm, (0:VatId), (5:SliceId), (0:SlotId), fib ldR, C (S ldR fm) ldR, 7*2^21+0x1000, 8, (decodeAddr (7*2^21+0x1000)).getD (.vatSram 0 0 0), begins_of (by decide +kernel), by decide +kernel⟩,
    ⟨S stH fm, (0:VatId), (5:SliceId), (0:SlotId), fib stH, C (S stH fm) stH, std (S stH fm) (C (S stH fm) stH), str (S stH fm) (C (S stH fm) stH), begins_of (by decide +kernel), by decide +kernel⟩,
    ⟨S stS fm, (0:VatId), (5:SliceId), (0:SlotId), fib stS, C (S stS fm) stS, str (S stS fm) (C (S stS fm) stS), begins_of (by decide +kernel), by decide +kernel⟩,
    ⟨S ga gm, (0:VatId), (5:SliceId), (0:SlotId), fib ga, C (S ga gm) ga, gdat (S ga gm) (C (S ga gm) ga), begins_of (by decide +kernel), by decide +kernel⟩,
    ⟨S sc gm, (0:VatId), (5:SliceId), (0:SlotId), fib sc, C (S sc gm) sc, begins_of (by decide +kernel), by decide +kernel⟩,
    ⟨cS, (0:VatId), (1:SliceId), (0:SlotId), fib co, C1 cS co, 2, redRecord B 2, redNode cS 2 131, begins_of (by decide +kernel), by decide +kernel⟩⟩

theorem witness_data_ops_complete_2 :
    (∃ (s : Machine.State) (v : VatId) (sl : SliceId) (st : SlotId) (x : Fibre) (c : OpCtx) (g : Nat) (r : Nat) (nd : RedNode),
      (Begins s x c) ∧ (c.d = v.val) ∧ (c.slice = sl.val) ∧ (c.slot = st.val) ∧ (c.check s = none) ∧ (c.desc.opcode = 9) ∧ (g = c.desc.aux) ∧ (r = redRecord (tileBank s c.node) g) ∧ (nd = redNode s g c.node) ∧ (x.state = 1) ∧ (x.wait = none) ∧ (c.contributeBad s (tileBank s c.node) g = false) ∧ (c.packedBad s = false) ∧ (((c.wires s (redWindow r)).all fun x => x.isSome) = true) ∧ (c.desc.release = true → (writesOut s fun x => x == c.owner) = false) ∧ (leafFree s r g c.node = false)) :=
    ⟨cS2, (0:VatId), (1:SliceId), (0:SlotId), fib co, C1 cS2 co, 2, redRecord B 2, redNode cS2 2 131, begins_of (by decide +kernel), by decide +kernel⟩

end Data

namespace Fibre

def rawD (l : List (Nat × Nat)) : Nat := l.foldl (fun r e => r + e.1 * 2 ^ e.2) 0
def H : Nat := 5 * 2 ^ 21
def D (op fa fb fo : Nat) (a b o : Nat) (d0 d1 d2 : Nat) (sa sb so : Nat) (l : List (Nat × Nat) := []) : Nat :=
  rawD ([(op, 0), (fa, 8), (fb, 12), (fo, 16), (a, 64), (b, 128), (o, 192), (d0, 304), (d1, 320), (d2, 336), (sa, 352), (sb, 384), (so, 416)] ++ l)
def fibS (base : Machine.State) (f : Fibre) (mem : List (Nat × Bytes)) : Machine.State :=
  { base with vs := { base.vs with vats := [(0, { ({} : Vat) with fibres := [(fibreKey 5 0, f)] })] }
              mem := mem.foldl (fun m e => memWrite m e.1 e.2) base.mem }
def fib (r : Nat) : Fibre := { desc := leBytes 64 r }
def S (r : Nat) (mem : List (Nat × Bytes) := []) (base : Machine.State := owned) : Machine.State := fibS base (fib r) mem
def C (s : Machine.State) (r : Nat) : OpCtx :=
  let x := fib r
  let e : Desc := { raw := r }
  { d := 0, slice := 5, slot := 0, x := x, desc := e, a := resolveAddr s 0 5 x e.addrA, b := resolveAddr s 0 5 x e.addrB, o := resolveAddr s 0 5 x e.addrOut }
def mgr : Nat := 1 + 130 * 2^96 + 1 * 2^108 + 2^112
def rce : Bytes := leBytes 16 (2 * 2^54 + 1 * 2^48 + 2^21 + 0x4000 + 0 * 2^64 + 64 * 2^96)
def mgS : Machine.State := withCfg owned [(0x2400*256+3, leBytes 64 mgr), (0x2500*256, rce)]
def bt : Batch := { num := 3, detached := false, total := 4, extX := 2, extY := 2, program := 0x1000, slices := [5], blocked := false, args := [7], tag := none, bank := some 1, slot := 0, generation := 1, next := 2 }
def bs : Machine.State := vatS owned 0 { ({} : Vat) with batches := [bt] }
def fbS (x : Fibre) (base : Machine.State := owned) : Machine.State := vatS base 0 { ({} : Vat) with fibres := [(fibreKey 5 0, x)], batches := [{ bt with num := 0 }] }
def sy : Nat := rawD [(0x0B, 0), (0x12, 48), (0xA0000300, 64), (1 + 2^7 + 5 * 2^32, 448), (9, 256)]
def busy (s : Machine.State) : Machine.State := { s with fab := { s.fab with waiting := [(135, [{ owner := fibreOwner 0 5 0 (fib 0x0C), pkt := pkt 1 130 135 [1] }])] } }
def mcd : Nat := D 0x0F 8 0 0 (H+0x1000) 0 0x4000 1 4 0 16 0 0 [(2, 256)]
def rmc (n : Nat) : Nat := rawD [(0x0A, 0), (2, 256), (n, 448)]
def agS (b : Machine.State) (p : Bool) : Machine.State := { b with vs := { b.vs with agents := [(16 * 2, { bytes := 100, pruned := p })] } }
def wcf : Machine.State := withRw owned [(0x7200*256+4, leBytes 8 (2^16))]
def wat (t : Option Nat) (f : Nat := 8) : Nat := D 0x0D f 0 0 (H+0x1000) 0 0 1 4 0 (if f = 9 then 128 else 16) 0 0 [(3, 256), (0, 448)]
def fm : List (Nat × Bytes) := [(H+0x1000, leBytes 4 0x3F800000 ++ leBytes 4 0x40000000 ++ leBytes 4 0x3F000000 ++ leBytes 4 0xBF800000)]
def wS : Machine.State := S (wat none) fm wcf
def dg : Nat := rawD [(0x0E, 0), (H+0x3000, 192), (3, 256), (16, 448)]
def wo (t : Option Nat) : WatchOpen := { wp := 3, tag := t, fmt := 8, leaves := [(0, 16, sha256 [1])], count := 4 }
def dS (t : Option Nat) : Machine.State := { fibS wcf { fib dg with tag := t } [] with obs := { wcf.obs with watch := [(0, [wo none, wo (some 5)])] } }
def CT : OpCtx := { C (dS (some 5)) dg with x := { fib dg with tag := some 5 } }

theorem witness_fibre_commands_complete_1 :
    (∃ (s : Machine.State) (v : VatId) (sl : SliceId) (st : SlotId) (b : Batch),
      (fibreAt s v.val sl.val st.val = none) ∧ (dieUp s v.val = true) ∧ (List.find? (fun b => decide (b.next < b.total) && b.home b.next == sl.val) (vatOf s v.val).batches = some b)) ∧
    (∃ (s : Machine.State) (v : VatId) (sl : SliceId) (st : SlotId) (x : Fibre) (c : OpCtx),
      (Begins s x c) ∧ (c.d = v.val) ∧ (c.slice = sl.val) ∧ (c.slot = st.val) ∧ (c.check s = none) ∧ (c.desc.opcode = 0)) ∧
    (∃ (s : Machine.State) (v : VatId) (sl : SliceId) (st : SlotId) (x : Fibre) (c : OpCtx) (die : Nat) (k : Nat) (off : Nat),
      (Begins s x c) ∧ (c.d = v.val) ∧ (c.slice = sl.val) ∧ (c.slot = st.val) ∧ (c.check s = none) ∧ (c.desc.opcode = 11) ∧ (mapped c.a = true) ∧ (decodeAddr c.a = some (Region.syncCell die k off))) ∧
    (∃ (s : Machine.State) (v : VatId) (sl : SliceId) (st : SlotId) (x : Fibre) (c : OpCtx),
      (Begins s x c) ∧ (c.d = v.val) ∧ (c.slice = sl.val) ∧ (c.slot = st.val) ∧ (c.check s = none) ∧ (c.desc.opcode = 12) ∧ ((writesOut s fun x => x == c.owner) = false)) ∧
    (∃ (s : Machine.State) (v : VatId) (sl : SliceId) (st : SlotId) (x : Fibre) (c : OpCtx),
      (Begins s x c) ∧ (c.d = v.val) ∧ (c.slice = sl.val) ∧ (c.slot = st.val) ∧ (c.check s = none) ∧ (c.desc.opcode = 12) ∧ ((writesOut s fun x => x == c.owner) = true)) ∧
    (∃ (s : Machine.State) (v : VatId) (sl : SliceId) (st : SlotId) (x : Fibre) (c : OpCtx),
      (Begins s x c) ∧ (c.d = v.val) ∧ (c.slice = sl.val) ∧ (c.slot = st.val) ∧ (c.check s = none) ∧ (c.desc.opcode = 15) ∧ (c.desc.release = true → (writesOut s fun x => x == c.owner) = false) ∧ (c.packedBad s = false)) ∧
    (∃ (s : Machine.State) (v : VatId) (sl : SliceId) (st : SlotId) (x : Fibre) (c : OpCtx),
      (Begins s x c) ∧ (c.d = v.val) ∧ (c.slice = sl.val) ∧ (c.slot = st.val) ∧ (c.check s = none) ∧ (c.desc.opcode = 10) ∧ (mcDown s c.desc.aux v.val = false) ∧ (mcSatisfied (agentOf s c.desc.aux v.val).bytes c.desc.imm = true)) ∧
    (∃ (s : Machine.State) (v : VatId) (sl : SliceId) (st : SlotId) (x : Fibre) (c : OpCtx),
      (Begins s x c) ∧ (c.d = v.val) ∧ (c.slice = sl.val) ∧ (c.slot = st.val) ∧ (c.check s = none) ∧ (c.desc.opcode = 10) ∧ (mcDown s c.desc.aux v.val = false) ∧ (mcSatisfied (agentOf s c.desc.aux v.val).bytes c.desc.imm = false)) :=
  ⟨⟨bs, (0:VatId), (5:SliceId), (0:SlotId), bt, by decide +kernel⟩,
    ⟨fbS (fib 0), (0:VatId), (5:SliceId), (0:SlotId), fib 0, C (fbS (fib 0)) 0, begins_of (by decide +kernel), by decide +kernel⟩,
    ⟨fbS (fib sy), (0:VatId), (5:SliceId), (0:SlotId), fib sy, C (fbS (fib sy)) sy, 0, 3, 0, begins_of (by decide +kernel), by decide +kernel⟩,
    ⟨fbS (fib 0x0C), (0:VatId), (5:SliceId), (0:SlotId), fib 0x0C, C (fbS (fib 0x0C)) 0x0C, begins_of (by decide +kernel), by decide +kernel⟩,
    ⟨busy (fbS (fib 0x0C)), (0:VatId), (5:SliceId), (0:SlotId), fib 0x0C, C (busy (fbS (fib 0x0C))) 0x0C, begins_of (by decide +kernel), by decide +kernel⟩,
    ⟨fbS (fib mcd) mgS, (0:VatId), (5:SliceId), (0:SlotId), fib mcd, C (fbS (fib mcd) mgS) mcd, begins_of (by decide +kernel), by decide +kernel⟩,
    ⟨fbS (fib (rmc 64)) (agS mgS false), (0:VatId), (5:SliceId), (0:SlotId), fib (rmc 64), C (fbS (fib (rmc 64)) (agS mgS false)) (rmc 64), begins_of (by decide +kernel), by decide +kernel⟩,
    ⟨fbS (fib (rmc 640)) (agS mgS false), (0:VatId), (5:SliceId), (0:SlotId), fib (rmc 640), C (fbS (fib (rmc 640)) (agS mgS false)) (rmc 640), begins_of (by decide +kernel), by decide +kernel⟩⟩

theorem witness_fibre_commands_complete_2 :
    (∃ (s : Machine.State) (v : VatId) (sl : SliceId) (st : SlotId) (x : Fibre) (c : OpCtx),
      (Begins s x c) ∧ (c.d = v.val) ∧ (c.slice = sl.val) ∧ (c.slot = st.val) ∧ (c.check s = none) ∧ (c.desc.opcode = 10) ∧ (mcDown s c.desc.aux v.val = true)) ∧
    (∃ (s : Machine.State) (v : VatId) (sl : SliceId) (st : SlotId) (x : Fibre) (c : OpCtx),
      (Begins s x c) ∧ (c.d = v.val) ∧ (c.slice = sl.val) ∧ (c.slot = st.val) ∧ (c.check s = none) ∧ (c.desc.opcode = 13) ∧ (x.tag = none) ∧ (c.packedBad s = false) ∧ (c.desc.fmtA = 9 → ∀ (y : Nat), y ∈ rowElems 9 (c.desc.dim0 * c.desc.dim1) (c.packed s) → (ofMemory y).isSome = true) ∧ (List.find? (fun w => w.wp == c.desc.aux && w.tag == none) (watchOf s v.val) = none) ∧ ((List.filter (fun w => w.wp == c.desc.aux) (watchOf s v.val)).length < 8) ∧ ((List.map (fun y => List.length y.leaves) (watchOf s v.val)).sum + (leavesFrom (List.length (c.packed s) / 4096 + 2) (c.desc.imm / 4096) (c.packed s)).length ≤ 16384)) ∧
    (∃ (s : Machine.State) (v : VatId) (sl : SliceId) (st : SlotId) (x : Fibre) (c : OpCtx) (w : WatchOpen),
      (Begins s x c) ∧ (c.d = v.val) ∧ (c.slice = sl.val) ∧ (c.slot = st.val) ∧ (c.check s = none) ∧ (c.desc.opcode = 14) ∧ (List.find? (fun w => w.wp == c.desc.aux && w.tag == x.tag) (watchOf s v.val) = some w) ∧ (leavesComplete c.desc.imm w.leaves = true) ∧ (x.tag = none)) ∧
    (∃ (s : Machine.State) (v : VatId) (sl : SliceId) (st : SlotId) (x : Fibre) (c : OpCtx) (w : WatchOpen) (g : Nat),
      (Begins s x c) ∧ (c.d = v.val) ∧ (c.slice = sl.val) ∧ (c.slot = st.val) ∧ (c.check s = none) ∧ (c.desc.opcode = 14) ∧ (List.find? (fun w => w.wp == c.desc.aux && w.tag == x.tag) (watchOf s v.val) = some w) ∧ (leavesComplete c.desc.imm w.leaves = true) ∧ (x.tag = some g)) :=
  ⟨⟨fbS (fib (rmc 640)) (agS mgS true), (0:VatId), (5:SliceId), (0:SlotId), fib (rmc 640), C (fbS (fib (rmc 640)) (agS mgS true)) (rmc 640), begins_of (by decide +kernel), by decide +kernel⟩,
    ⟨wS, (0:VatId), (5:SliceId), (0:SlotId), fib (wat none), C wS (wat none), begins_of (by decide +kernel), by decide +kernel⟩,
    ⟨dS none, (0:VatId), (5:SliceId), (0:SlotId), fib dg, C (dS none) dg, wo none, begins_of (by decide +kernel), by decide +kernel⟩,
    ⟨dS (some 5), (0:VatId), (5:SliceId), (0:SlotId), { fib dg with tag := some 5 }, CT, wo (some 5), 5, begins_of (by decide +kernel), by decide +kernel⟩⟩

end Fibre

namespace Flow

def rg : List Word := [0, 5, 3, 0xFFFFFFFFFFFFFFF0, 77, 0x20001000, 16777216, 2, 0xA0000300]
def sq (w : Nat) (f : Sequencer → Sequencer := id) (pc : Nat := 3) (base : Machine.State := owned) : Machine.State :=
  vatS base 0 { ({} : Vat) with seq := f { ({} : Sequencer) with state := 2, prog := List.replicate pc 0 ++ [BitVec.ofNat 32 w], regs := rg, pc := pc } }
def rf (op a b c : Nat) (x : Nat := 0) : Nat := op * 2^26 + a * 2^21 + b * 2^16 + c * 2^11 + x

theorem witness_sequencer_arithmetic_and_flow_complete_1 :
    (∃ (s : Machine.State) (v : VatId) (w : Nat) (a : Word) (b : Word) (i : Word) (j : Word) (sh : Nat) (q : Nat),
      (a = sreg s (v.val) (fB w)) ∧ (b = sreg s (v.val) (fC w)) ∧ (i = immS (fImm w)) ∧ (j = BitVec.ofNat 64 (fImm w)) ∧ (sh = fImm w % 64) ∧ (q = (seqOf s v.val).pc) ∧ (Executes s (v.val) 1 w)) ∧
    (∃ (s : Machine.State) (v : VatId) (w : Nat) (a : Word) (b : Word) (i : Word) (j : Word) (sh : Nat) (q : Nat),
      (a = sreg s (v.val) (fB w)) ∧ (b = sreg s (v.val) (fC w)) ∧ (i = immS (fImm w)) ∧ (j = BitVec.ofNat 64 (fImm w)) ∧ (sh = fImm w % 64) ∧ (q = (seqOf s v.val).pc) ∧ (Executes s (v.val) 2 w)) ∧
    (∃ (s : Machine.State) (v : VatId) (w : Nat) (a : Word) (b : Word) (i : Word) (j : Word) (sh : Nat) (q : Nat),
      (a = sreg s (v.val) (fB w)) ∧ (b = sreg s (v.val) (fC w)) ∧ (i = immS (fImm w)) ∧ (j = BitVec.ofNat 64 (fImm w)) ∧ (sh = fImm w % 64) ∧ (q = (seqOf s v.val).pc) ∧ (Executes s (v.val) 3 w)) ∧
    (∃ (s : Machine.State) (v : VatId) (w : Nat) (a : Word) (b : Word) (i : Word) (j : Word) (sh : Nat) (q : Nat),
      (a = sreg s (v.val) (fB w)) ∧ (b = sreg s (v.val) (fC w)) ∧ (i = immS (fImm w)) ∧ (j = BitVec.ofNat 64 (fImm w)) ∧ (sh = fImm w % 64) ∧ (q = (seqOf s v.val).pc) ∧ (Executes s (v.val) 4 w)) ∧
    (∃ (s : Machine.State) (v : VatId) (w : Nat) (a : Word) (b : Word) (i : Word) (j : Word) (sh : Nat) (q : Nat),
      (a = sreg s (v.val) (fB w)) ∧ (b = sreg s (v.val) (fC w)) ∧ (i = immS (fImm w)) ∧ (j = BitVec.ofNat 64 (fImm w)) ∧ (sh = fImm w % 64) ∧ (q = (seqOf s v.val).pc) ∧ (Executes s (v.val) 5 w)) ∧
    (∃ (s : Machine.State) (v : VatId) (w : Nat) (a : Word) (b : Word) (i : Word) (j : Word) (sh : Nat) (q : Nat),
      (a = sreg s (v.val) (fB w)) ∧ (b = sreg s (v.val) (fC w)) ∧ (i = immS (fImm w)) ∧ (j = BitVec.ofNat 64 (fImm w)) ∧ (sh = fImm w % 64) ∧ (q = (seqOf s v.val).pc) ∧ (Executes s (v.val) 6 w)) ∧
    (∃ (s : Machine.State) (v : VatId) (w : Nat) (a : Word) (b : Word) (i : Word) (j : Word) (sh : Nat) (q : Nat),
      (a = sreg s (v.val) (fB w)) ∧ (b = sreg s (v.val) (fC w)) ∧ (i = immS (fImm w)) ∧ (j = BitVec.ofNat 64 (fImm w)) ∧ (sh = fImm w % 64) ∧ (q = (seqOf s v.val).pc) ∧ (Executes s (v.val) 7 w)) ∧
    (∃ (s : Machine.State) (v : VatId) (w : Nat) (a : Word) (b : Word) (i : Word) (j : Word) (sh : Nat) (q : Nat),
      (a = sreg s (v.val) (fB w)) ∧ (b = sreg s (v.val) (fC w)) ∧ (i = immS (fImm w)) ∧ (j = BitVec.ofNat 64 (fImm w)) ∧ (sh = fImm w % 64) ∧ (q = (seqOf s v.val).pc) ∧ (Executes s (v.val) 8 w)) :=
  ⟨⟨sq (rf 1 4 1 2) (id), (0:VatId), rf 1 4 1 2, sreg (sq (rf 1 4 1 2) (id)) 0 (fB (rf 1 4 1 2)), sreg (sq (rf 1 4 1 2) (id)) 0 (fC (rf 1 4 1 2)), immS (fImm (rf 1 4 1 2)), BitVec.ofNat 64 (fImm (rf 1 4 1 2)), fImm (rf 1 4 1 2) % 64, 3, by decide +kernel, by decide +kernel, by decide +kernel, by decide +kernel, by decide +kernel, by decide +kernel, executes_of (by decide +kernel)⟩,
    ⟨sq (rf 2 4 1 2) (id), (0:VatId), rf 2 4 1 2, sreg (sq (rf 2 4 1 2) (id)) 0 (fB (rf 2 4 1 2)), sreg (sq (rf 2 4 1 2) (id)) 0 (fC (rf 2 4 1 2)), immS (fImm (rf 2 4 1 2)), BitVec.ofNat 64 (fImm (rf 2 4 1 2)), fImm (rf 2 4 1 2) % 64, 3, by decide +kernel, by decide +kernel, by decide +kernel, by decide +kernel, by decide +kernel, by decide +kernel, executes_of (by decide +kernel)⟩,
    ⟨sq (rf 3 4 1 2) (id), (0:VatId), rf 3 4 1 2, sreg (sq (rf 3 4 1 2) (id)) 0 (fB (rf 3 4 1 2)), sreg (sq (rf 3 4 1 2) (id)) 0 (fC (rf 3 4 1 2)), immS (fImm (rf 3 4 1 2)), BitVec.ofNat 64 (fImm (rf 3 4 1 2)), fImm (rf 3 4 1 2) % 64, 3, by decide +kernel, by decide +kernel, by decide +kernel, by decide +kernel, by decide +kernel, by decide +kernel, executes_of (by decide +kernel)⟩,
    ⟨sq (rf 4 4 1 2) (id), (0:VatId), rf 4 4 1 2, sreg (sq (rf 4 4 1 2) (id)) 0 (fB (rf 4 4 1 2)), sreg (sq (rf 4 4 1 2) (id)) 0 (fC (rf 4 4 1 2)), immS (fImm (rf 4 4 1 2)), BitVec.ofNat 64 (fImm (rf 4 4 1 2)), fImm (rf 4 4 1 2) % 64, 3, by decide +kernel, by decide +kernel, by decide +kernel, by decide +kernel, by decide +kernel, by decide +kernel, executes_of (by decide +kernel)⟩,
    ⟨sq (rf 5 4 1 2) (id), (0:VatId), rf 5 4 1 2, sreg (sq (rf 5 4 1 2) (id)) 0 (fB (rf 5 4 1 2)), sreg (sq (rf 5 4 1 2) (id)) 0 (fC (rf 5 4 1 2)), immS (fImm (rf 5 4 1 2)), BitVec.ofNat 64 (fImm (rf 5 4 1 2)), fImm (rf 5 4 1 2) % 64, 3, by decide +kernel, by decide +kernel, by decide +kernel, by decide +kernel, by decide +kernel, by decide +kernel, executes_of (by decide +kernel)⟩,
    ⟨sq (rf 6 4 1 2) (id), (0:VatId), rf 6 4 1 2, sreg (sq (rf 6 4 1 2) (id)) 0 (fB (rf 6 4 1 2)), sreg (sq (rf 6 4 1 2) (id)) 0 (fC (rf 6 4 1 2)), immS (fImm (rf 6 4 1 2)), BitVec.ofNat 64 (fImm (rf 6 4 1 2)), fImm (rf 6 4 1 2) % 64, 3, by decide +kernel, by decide +kernel, by decide +kernel, by decide +kernel, by decide +kernel, by decide +kernel, executes_of (by decide +kernel)⟩,
    ⟨sq (rf 7 4 1 2) (id), (0:VatId), rf 7 4 1 2, sreg (sq (rf 7 4 1 2) (id)) 0 (fB (rf 7 4 1 2)), sreg (sq (rf 7 4 1 2) (id)) 0 (fC (rf 7 4 1 2)), immS (fImm (rf 7 4 1 2)), BitVec.ofNat 64 (fImm (rf 7 4 1 2)), fImm (rf 7 4 1 2) % 64, 3, by decide +kernel, by decide +kernel, by decide +kernel, by decide +kernel, by decide +kernel, by decide +kernel, executes_of (by decide +kernel)⟩,
    ⟨sq (rf 8 4 1 2) (id), (0:VatId), rf 8 4 1 2, sreg (sq (rf 8 4 1 2) (id)) 0 (fB (rf 8 4 1 2)), sreg (sq (rf 8 4 1 2) (id)) 0 (fC (rf 8 4 1 2)), immS (fImm (rf 8 4 1 2)), BitVec.ofNat 64 (fImm (rf 8 4 1 2)), fImm (rf 8 4 1 2) % 64, 3, by decide +kernel, by decide +kernel, by decide +kernel, by decide +kernel, by decide +kernel, by decide +kernel, executes_of (by decide +kernel)⟩⟩

theorem witness_sequencer_arithmetic_and_flow_complete_2 :
    (∃ (s : Machine.State) (v : VatId) (w : Nat) (a : Word) (b : Word) (i : Word) (j : Word) (sh : Nat) (q : Nat),
      (a = sreg s (v.val) (fB w)) ∧ (b = sreg s (v.val) (fC w)) ∧ (i = immS (fImm w)) ∧ (j = BitVec.ofNat 64 (fImm w)) ∧ (sh = fImm w % 64) ∧ (q = (seqOf s v.val).pc) ∧ (Executes s (v.val) 9 w)) ∧
    (∃ (s : Machine.State) (v : VatId) (w : Nat) (a : Word) (b : Word) (i : Word) (j : Word) (sh : Nat) (q : Nat),
      (a = sreg s (v.val) (fB w)) ∧ (b = sreg s (v.val) (fC w)) ∧ (i = immS (fImm w)) ∧ (j = BitVec.ofNat 64 (fImm w)) ∧ (sh = fImm w % 64) ∧ (q = (seqOf s v.val).pc) ∧ (Executes s (v.val) 10 w)) ∧
    (∃ (s : Machine.State) (v : VatId) (w : Nat) (a : Word) (b : Word) (i : Word) (j : Word) (sh : Nat) (q : Nat),
      (a = sreg s (v.val) (fB w)) ∧ (b = sreg s (v.val) (fC w)) ∧ (i = immS (fImm w)) ∧ (j = BitVec.ofNat 64 (fImm w)) ∧ (sh = fImm w % 64) ∧ (q = (seqOf s v.val).pc) ∧ (Executes s (v.val) 11 w)) ∧
    (∃ (s : Machine.State) (v : VatId) (w : Nat) (a : Word) (b : Word) (i : Word) (j : Word) (sh : Nat) (q : Nat),
      (a = sreg s (v.val) (fB w)) ∧ (b = sreg s (v.val) (fC w)) ∧ (i = immS (fImm w)) ∧ (j = BitVec.ofNat 64 (fImm w)) ∧ (sh = fImm w % 64) ∧ (q = (seqOf s v.val).pc) ∧ (Executes s (v.val) 12 w)) ∧
    (∃ (s : Machine.State) (v : VatId) (w : Nat) (a : Word) (b : Word) (i : Word) (j : Word) (sh : Nat) (q : Nat),
      (a = sreg s (v.val) (fB w)) ∧ (b = sreg s (v.val) (fC w)) ∧ (i = immS (fImm w)) ∧ (j = BitVec.ofNat 64 (fImm w)) ∧ (sh = fImm w % 64) ∧ (q = (seqOf s v.val).pc) ∧ (Executes s (v.val) 13 w)) ∧
    (∃ (s : Machine.State) (v : VatId) (w : Nat) (a : Word) (b : Word) (i : Word) (j : Word) (sh : Nat) (q : Nat),
      (a = sreg s (v.val) (fB w)) ∧ (b = sreg s (v.val) (fC w)) ∧ (i = immS (fImm w)) ∧ (j = BitVec.ofNat 64 (fImm w)) ∧ (sh = fImm w % 64) ∧ (q = (seqOf s v.val).pc) ∧ (Executes s (v.val) 16 w)) ∧
    (∃ (s : Machine.State) (v : VatId) (w : Nat) (a : Word) (b : Word) (i : Word) (j : Word) (sh : Nat) (q : Nat),
      (a = sreg s (v.val) (fB w)) ∧ (b = sreg s (v.val) (fC w)) ∧ (i = immS (fImm w)) ∧ (j = BitVec.ofNat 64 (fImm w)) ∧ (sh = fImm w % 64) ∧ (q = (seqOf s v.val).pc) ∧ (Executes s (v.val) 17 w)) ∧
    (∃ (s : Machine.State) (v : VatId) (w : Nat) (a : Word) (b : Word) (i : Word) (j : Word) (sh : Nat) (q : Nat),
      (a = sreg s (v.val) (fB w)) ∧ (b = sreg s (v.val) (fC w)) ∧ (i = immS (fImm w)) ∧ (j = BitVec.ofNat 64 (fImm w)) ∧ (sh = fImm w % 64) ∧ (q = (seqOf s v.val).pc) ∧ (Executes s (v.val) 18 w)) :=
  ⟨⟨sq (rf 9 4 1 2) (id), (0:VatId), rf 9 4 1 2, sreg (sq (rf 9 4 1 2) (id)) 0 (fB (rf 9 4 1 2)), sreg (sq (rf 9 4 1 2) (id)) 0 (fC (rf 9 4 1 2)), immS (fImm (rf 9 4 1 2)), BitVec.ofNat 64 (fImm (rf 9 4 1 2)), fImm (rf 9 4 1 2) % 64, 3, by decide +kernel, by decide +kernel, by decide +kernel, by decide +kernel, by decide +kernel, by decide +kernel, executes_of (by decide +kernel)⟩,
    ⟨sq (rf 10 4 1 2) (id), (0:VatId), rf 10 4 1 2, sreg (sq (rf 10 4 1 2) (id)) 0 (fB (rf 10 4 1 2)), sreg (sq (rf 10 4 1 2) (id)) 0 (fC (rf 10 4 1 2)), immS (fImm (rf 10 4 1 2)), BitVec.ofNat 64 (fImm (rf 10 4 1 2)), fImm (rf 10 4 1 2) % 64, 3, by decide +kernel, by decide +kernel, by decide +kernel, by decide +kernel, by decide +kernel, by decide +kernel, executes_of (by decide +kernel)⟩,
    ⟨sq (rf 11 4 1 2) (id), (0:VatId), rf 11 4 1 2, sreg (sq (rf 11 4 1 2) (id)) 0 (fB (rf 11 4 1 2)), sreg (sq (rf 11 4 1 2) (id)) 0 (fC (rf 11 4 1 2)), immS (fImm (rf 11 4 1 2)), BitVec.ofNat 64 (fImm (rf 11 4 1 2)), fImm (rf 11 4 1 2) % 64, 3, by decide +kernel, by decide +kernel, by decide +kernel, by decide +kernel, by decide +kernel, by decide +kernel, executes_of (by decide +kernel)⟩,
    ⟨sq (rf 12 4 1 2) (id), (0:VatId), rf 12 4 1 2, sreg (sq (rf 12 4 1 2) (id)) 0 (fB (rf 12 4 1 2)), sreg (sq (rf 12 4 1 2) (id)) 0 (fC (rf 12 4 1 2)), immS (fImm (rf 12 4 1 2)), BitVec.ofNat 64 (fImm (rf 12 4 1 2)), fImm (rf 12 4 1 2) % 64, 3, by decide +kernel, by decide +kernel, by decide +kernel, by decide +kernel, by decide +kernel, by decide +kernel, executes_of (by decide +kernel)⟩,
    ⟨sq (rf 13 4 1 2) (id), (0:VatId), rf 13 4 1 2, sreg (sq (rf 13 4 1 2) (id)) 0 (fB (rf 13 4 1 2)), sreg (sq (rf 13 4 1 2) (id)) 0 (fC (rf 13 4 1 2)), immS (fImm (rf 13 4 1 2)), BitVec.ofNat 64 (fImm (rf 13 4 1 2)), fImm (rf 13 4 1 2) % 64, 3, by decide +kernel, by decide +kernel, by decide +kernel, by decide +kernel, by decide +kernel, by decide +kernel, executes_of (by decide +kernel)⟩,
    ⟨sq (rf 16 4 1 0 7) (id), (0:VatId), rf 16 4 1 0 7, sreg (sq (rf 16 4 1 0 7) (id)) 0 (fB (rf 16 4 1 0 7)), sreg (sq (rf 16 4 1 0 7) (id)) 0 (fC (rf 16 4 1 0 7)), immS (fImm (rf 16 4 1 0 7)), BitVec.ofNat 64 (fImm (rf 16 4 1 0 7)), fImm (rf 16 4 1 0 7) % 64, 3, by decide +kernel, by decide +kernel, by decide +kernel, by decide +kernel, by decide +kernel, by decide +kernel, executes_of (by decide +kernel)⟩,
    ⟨sq (rf 17 4 1 0 7) (id), (0:VatId), rf 17 4 1 0 7, sreg (sq (rf 17 4 1 0 7) (id)) 0 (fB (rf 17 4 1 0 7)), sreg (sq (rf 17 4 1 0 7) (id)) 0 (fC (rf 17 4 1 0 7)), immS (fImm (rf 17 4 1 0 7)), BitVec.ofNat 64 (fImm (rf 17 4 1 0 7)), fImm (rf 17 4 1 0 7) % 64, 3, by decide +kernel, by decide +kernel, by decide +kernel, by decide +kernel, by decide +kernel, by decide +kernel, executes_of (by decide +kernel)⟩,
    ⟨sq (rf 18 4 1 0 7) (id), (0:VatId), rf 18 4 1 0 7, sreg (sq (rf 18 4 1 0 7) (id)) 0 (fB (rf 18 4 1 0 7)), sreg (sq (rf 18 4 1 0 7) (id)) 0 (fC (rf 18 4 1 0 7)), immS (fImm (rf 18 4 1 0 7)), BitVec.ofNat 64 (fImm (rf 18 4 1 0 7)), fImm (rf 18 4 1 0 7) % 64, 3, by decide +kernel, by decide +kernel, by decide +kernel, by decide +kernel, by decide +kernel, by decide +kernel, executes_of (by decide +kernel)⟩⟩

theorem witness_sequencer_arithmetic_and_flow_complete_3 :
    (∃ (s : Machine.State) (v : VatId) (w : Nat) (a : Word) (b : Word) (i : Word) (j : Word) (sh : Nat) (q : Nat),
      (a = sreg s (v.val) (fB w)) ∧ (b = sreg s (v.val) (fC w)) ∧ (i = immS (fImm w)) ∧ (j = BitVec.ofNat 64 (fImm w)) ∧ (sh = fImm w % 64) ∧ (q = (seqOf s v.val).pc) ∧ (Executes s (v.val) 19 w)) ∧
    (∃ (s : Machine.State) (v : VatId) (w : Nat) (a : Word) (b : Word) (i : Word) (j : Word) (sh : Nat) (q : Nat),
      (a = sreg s (v.val) (fB w)) ∧ (b = sreg s (v.val) (fC w)) ∧ (i = immS (fImm w)) ∧ (j = BitVec.ofNat 64 (fImm w)) ∧ (sh = fImm w % 64) ∧ (q = (seqOf s v.val).pc) ∧ (Executes s (v.val) 20 w)) ∧
    (∃ (s : Machine.State) (v : VatId) (w : Nat) (a : Word) (b : Word) (i : Word) (j : Word) (sh : Nat) (q : Nat),
      (a = sreg s (v.val) (fB w)) ∧ (b = sreg s (v.val) (fC w)) ∧ (i = immS (fImm w)) ∧ (j = BitVec.ofNat 64 (fImm w)) ∧ (sh = fImm w % 64) ∧ (q = (seqOf s v.val).pc) ∧ (Executes s (v.val) 21 w)) ∧
    (∃ (s : Machine.State) (v : VatId) (w : Nat) (a : Word) (b : Word) (i : Word) (j : Word) (sh : Nat) (q : Nat),
      (a = sreg s (v.val) (fB w)) ∧ (b = sreg s (v.val) (fC w)) ∧ (i = immS (fImm w)) ∧ (j = BitVec.ofNat 64 (fImm w)) ∧ (sh = fImm w % 64) ∧ (q = (seqOf s v.val).pc) ∧ (Executes s (v.val) 22 w)) ∧
    (∃ (s : Machine.State) (v : VatId) (w : Nat) (a : Word) (b : Word) (i : Word) (j : Word) (sh : Nat) (q : Nat),
      (a = sreg s (v.val) (fB w)) ∧ (b = sreg s (v.val) (fC w)) ∧ (i = immS (fImm w)) ∧ (j = BitVec.ofNat 64 (fImm w)) ∧ (sh = fImm w % 64) ∧ (q = (seqOf s v.val).pc) ∧ (Executes s (v.val) 23 w)) ∧
    (∃ (s : Machine.State) (v : VatId) (w : Nat) (a : Word) (b : Word) (i : Word) (j : Word) (sh : Nat) (q : Nat),
      (a = sreg s (v.val) (fB w)) ∧ (b = sreg s (v.val) (fC w)) ∧ (i = immS (fImm w)) ∧ (j = BitVec.ofNat 64 (fImm w)) ∧ (sh = fImm w % 64) ∧ (q = (seqOf s v.val).pc) ∧ (Executes s (v.val) 44 w)) ∧
    (∃ (s : Machine.State) (v : VatId) (w : Nat) (a : Word) (b : Word) (i : Word) (j : Word) (sh : Nat) (q : Nat),
      (a = sreg s (v.val) (fB w)) ∧ (b = sreg s (v.val) (fC w)) ∧ (i = immS (fImm w)) ∧ (j = BitVec.ofNat 64 (fImm w)) ∧ (sh = fImm w % 64) ∧ (q = (seqOf s v.val).pc) ∧ (Executes s (v.val) 45 w)) ∧
    (∃ (s : Machine.State) (v : VatId) (w : Nat) (a : Word) (b : Word) (i : Word) (j : Word) (sh : Nat) (q : Nat),
      (a = sreg s (v.val) (fB w)) ∧ (b = sreg s (v.val) (fC w)) ∧ (i = immS (fImm w)) ∧ (j = BitVec.ofNat 64 (fImm w)) ∧ (sh = fImm w % 64) ∧ (q = (seqOf s v.val).pc) ∧ (Executes s (v.val) 40 w)) :=
  ⟨⟨sq (rf 19 4 1 0 7) (id), (0:VatId), rf 19 4 1 0 7, sreg (sq (rf 19 4 1 0 7) (id)) 0 (fB (rf 19 4 1 0 7)), sreg (sq (rf 19 4 1 0 7) (id)) 0 (fC (rf 19 4 1 0 7)), immS (fImm (rf 19 4 1 0 7)), BitVec.ofNat 64 (fImm (rf 19 4 1 0 7)), fImm (rf 19 4 1 0 7) % 64, 3, by decide +kernel, by decide +kernel, by decide +kernel, by decide +kernel, by decide +kernel, by decide +kernel, executes_of (by decide +kernel)⟩,
    ⟨sq (rf 20 4 1 0 7) (id), (0:VatId), rf 20 4 1 0 7, sreg (sq (rf 20 4 1 0 7) (id)) 0 (fB (rf 20 4 1 0 7)), sreg (sq (rf 20 4 1 0 7) (id)) 0 (fC (rf 20 4 1 0 7)), immS (fImm (rf 20 4 1 0 7)), BitVec.ofNat 64 (fImm (rf 20 4 1 0 7)), fImm (rf 20 4 1 0 7) % 64, 3, by decide +kernel, by decide +kernel, by decide +kernel, by decide +kernel, by decide +kernel, by decide +kernel, executes_of (by decide +kernel)⟩,
    ⟨sq (rf 21 4 1 0 7) (id), (0:VatId), rf 21 4 1 0 7, sreg (sq (rf 21 4 1 0 7) (id)) 0 (fB (rf 21 4 1 0 7)), sreg (sq (rf 21 4 1 0 7) (id)) 0 (fC (rf 21 4 1 0 7)), immS (fImm (rf 21 4 1 0 7)), BitVec.ofNat 64 (fImm (rf 21 4 1 0 7)), fImm (rf 21 4 1 0 7) % 64, 3, by decide +kernel, by decide +kernel, by decide +kernel, by decide +kernel, by decide +kernel, by decide +kernel, executes_of (by decide +kernel)⟩,
    ⟨sq (rf 22 4 1 0 7) (id), (0:VatId), rf 22 4 1 0 7, sreg (sq (rf 22 4 1 0 7) (id)) 0 (fB (rf 22 4 1 0 7)), sreg (sq (rf 22 4 1 0 7) (id)) 0 (fC (rf 22 4 1 0 7)), immS (fImm (rf 22 4 1 0 7)), BitVec.ofNat 64 (fImm (rf 22 4 1 0 7)), fImm (rf 22 4 1 0 7) % 64, 3, by decide +kernel, by decide +kernel, by decide +kernel, by decide +kernel, by decide +kernel, by decide +kernel, executes_of (by decide +kernel)⟩,
    ⟨sq (rf 0x17 3 0 0 0xABCD) (id), (0:VatId), rf 0x17 3 0 0 0xABCD, sreg (sq (rf 0x17 3 0 0 0xABCD) (id)) 0 (fB (rf 0x17 3 0 0 0xABCD)), sreg (sq (rf 0x17 3 0 0 0xABCD) (id)) 0 (fC (rf 0x17 3 0 0 0xABCD)), immS (fImm (rf 0x17 3 0 0 0xABCD)), BitVec.ofNat 64 (fImm (rf 0x17 3 0 0 0xABCD)), fImm (rf 0x17 3 0 0 0xABCD) % 64, 3, by decide +kernel, by decide +kernel, by decide +kernel, by decide +kernel, by decide +kernel, by decide +kernel, executes_of (by decide +kernel)⟩,
    ⟨sq (rf 0x2C 4 0 0 + 2^18) (fun q => { q with loops := [{}, { active := true, count := 5, index := 2 }] }), (0:VatId), rf 0x2C 4 0 0 + 2^18, sreg (sq (rf 0x2C 4 0 0 + 2^18) (fun q => { q with loops := [{}, { active := true, count := 5, index := 2 }] })) 0 (fB (rf 0x2C 4 0 0 + 2^18)), sreg (sq (rf 0x2C 4 0 0 + 2^18) (fun q => { q with loops := [{}, { active := true, count := 5, index := 2 }] })) 0 (fC (rf 0x2C 4 0 0 + 2^18)), immS (fImm (rf 0x2C 4 0 0 + 2^18)), BitVec.ofNat 64 (fImm (rf 0x2C 4 0 0 + 2^18)), fImm (rf 0x2C 4 0 0 + 2^18) % 64, 3, by decide +kernel, by decide +kernel, by decide +kernel, by decide +kernel, by decide +kernel, by decide +kernel, executes_of (by decide +kernel)⟩,
    ⟨sq (rf 0x2D 4 0 0) (id), (0:VatId), rf 0x2D 4 0 0, sreg (sq (rf 0x2D 4 0 0) (id)) 0 (fB (rf 0x2D 4 0 0)), sreg (sq (rf 0x2D 4 0 0) (id)) 0 (fC (rf 0x2D 4 0 0)), immS (fImm (rf 0x2D 4 0 0)), BitVec.ofNat 64 (fImm (rf 0x2D 4 0 0)), fImm (rf 0x2D 4 0 0) % 64, 3, by decide +kernel, by decide +kernel, by decide +kernel, by decide +kernel, by decide +kernel, by decide +kernel, executes_of (by decide +kernel)⟩,
    ⟨sq (rf 0x28 0 0 0) (id), (0:VatId), rf 0x28 0 0 0, sreg (sq (rf 0x28 0 0 0) (id)) 0 (fB (rf 0x28 0 0 0)), sreg (sq (rf 0x28 0 0 0) (id)) 0 (fC (rf 0x28 0 0 0)), immS (fImm (rf 0x28 0 0 0)), BitVec.ofNat 64 (fImm (rf 0x28 0 0 0)), fImm (rf 0x28 0 0 0) % 64, 3, by decide +kernel, by decide +kernel, by decide +kernel, by decide +kernel, by decide +kernel, by decide +kernel, executes_of (by decide +kernel)⟩⟩

theorem witness_sequencer_arithmetic_and_flow_complete_4 :
    (∃ (s : Machine.State) (v : VatId) (w : Nat) (a : Word) (b : Word) (i : Word) (j : Word) (sh : Nat) (q : Nat),
      (a = sreg s (v.val) (fB w)) ∧ (b = sreg s (v.val) (fC w)) ∧ (i = immS (fImm w)) ∧ (j = BitVec.ofNat 64 (fImm w)) ∧ (sh = fImm w % 64) ∧ (q = (seqOf s v.val).pc) ∧ (Executes s (v.val) 46 w)) ∧
    (∃ (s : Machine.State) (v : VatId) (w : Nat) (a : Word) (b : Word) (i : Word) (j : Word) (sh : Nat) (q : Nat) (c : Word),
      (a = sreg s (v.val) (fB w)) ∧ (b = sreg s (v.val) (fC w)) ∧ (i = immS (fImm w)) ∧ (j = BitVec.ofNat 64 (fImm w)) ∧ (sh = fImm w % 64) ∧ (q = (seqOf s v.val).pc) ∧ (c = sreg s (v.val) (fA w)) ∧ (Executes s (v.val) 28 w)) ∧
    (∃ (s : Machine.State) (v : VatId) (w : Nat) (a : Word) (b : Word) (i : Word) (j : Word) (sh : Nat) (q : Nat) (c : Word),
      (a = sreg s (v.val) (fB w)) ∧ (b = sreg s (v.val) (fC w)) ∧ (i = immS (fImm w)) ∧ (j = BitVec.ofNat 64 (fImm w)) ∧ (sh = fImm w % 64) ∧ (q = (seqOf s v.val).pc) ∧ (c = sreg s (v.val) (fA w)) ∧ (Executes s (v.val) 29 w)) ∧
    (∃ (s : Machine.State) (v : VatId) (w : Nat) (a : Word) (b : Word) (i : Word) (j : Word) (sh : Nat) (q : Nat) (c : Word),
      (a = sreg s (v.val) (fB w)) ∧ (b = sreg s (v.val) (fC w)) ∧ (i = immS (fImm w)) ∧ (j = BitVec.ofNat 64 (fImm w)) ∧ (sh = fImm w % 64) ∧ (q = (seqOf s v.val).pc) ∧ (c = sreg s (v.val) (fA w)) ∧ (Executes s (v.val) 30 w)) ∧
    (∃ (s : Machine.State) (v : VatId) (w : Nat) (a : Word) (b : Word) (i : Word) (j : Word) (sh : Nat) (q : Nat) (c : Word),
      (a = sreg s (v.val) (fB w)) ∧ (b = sreg s (v.val) (fC w)) ∧ (i = immS (fImm w)) ∧ (j = BitVec.ofNat 64 (fImm w)) ∧ (sh = fImm w % 64) ∧ (q = (seqOf s v.val).pc) ∧ (c = sreg s (v.val) (fA w)) ∧ (Executes s (v.val) 31 w)) ∧
    (∃ (s : Machine.State) (v : VatId) (w : Nat) (a : Word) (b : Word) (i : Word) (j : Word) (sh : Nat) (q : Nat) (c : Word),
      (a = sreg s (v.val) (fB w)) ∧ (b = sreg s (v.val) (fC w)) ∧ (i = immS (fImm w)) ∧ (j = BitVec.ofNat 64 (fImm w)) ∧ (sh = fImm w % 64) ∧ (q = (seqOf s v.val).pc) ∧ (c = sreg s (v.val) (fA w)) ∧ (Executes s (v.val) 32 w)) ∧
    (∃ (s : Machine.State) (v : VatId) (w : Nat) (a : Word) (b : Word) (i : Word) (j : Word) (sh : Nat) (q : Nat) (c : Word),
      (a = sreg s (v.val) (fB w)) ∧ (b = sreg s (v.val) (fC w)) ∧ (i = immS (fImm w)) ∧ (j = BitVec.ofNat 64 (fImm w)) ∧ (sh = fImm w % 64) ∧ (q = (seqOf s v.val).pc) ∧ (c = sreg s (v.val) (fA w)) ∧ (Executes s (v.val) 33 w)) ∧
    (∃ (s : Machine.State) (v : VatId) (w : Nat) (a : Word) (b : Word) (i : Word) (j : Word) (sh : Nat) (q : Nat) (n : Nat),
      (a = sreg s (v.val) (fB w)) ∧ (b = sreg s (v.val) (fC w)) ∧ (i = immS (fImm w)) ∧ (j = BitVec.ofNat 64 (fImm w)) ∧ (sh = fImm w % 64) ∧ (q = (seqOf s v.val).pc) ∧ (Executes s (v.val) 36 w) ∧ (n = BitVec.toNat (sreg s (v.val) (bits w 22 18))) ∧ (n = 0)) :=
  ⟨⟨sq (rf 0x2E 0 0 0 99) (id), (0:VatId), rf 0x2E 0 0 0 99, sreg (sq (rf 0x2E 0 0 0 99) (id)) 0 (fB (rf 0x2E 0 0 0 99)), sreg (sq (rf 0x2E 0 0 0 99) (id)) 0 (fC (rf 0x2E 0 0 0 99)), immS (fImm (rf 0x2E 0 0 0 99)), BitVec.ofNat 64 (fImm (rf 0x2E 0 0 0 99)), fImm (rf 0x2E 0 0 0 99) % 64, 3, by decide +kernel, by decide +kernel, by decide +kernel, by decide +kernel, by decide +kernel, by decide +kernel, executes_of (by decide +kernel)⟩,
    ⟨sq (rf 28 1 2 0 5) (id), (0:VatId), rf 28 1 2 0 5, sreg (sq (rf 28 1 2 0 5) (id)) 0 (fB (rf 28 1 2 0 5)), sreg (sq (rf 28 1 2 0 5) (id)) 0 (fC (rf 28 1 2 0 5)), immS (fImm (rf 28 1 2 0 5)), BitVec.ofNat 64 (fImm (rf 28 1 2 0 5)), fImm (rf 28 1 2 0 5) % 64, 3, sreg (sq (rf 28 1 2 0 5)) 0 (fA (rf 28 1 2 0 5)), by decide +kernel, by decide +kernel, by decide +kernel, by decide +kernel, by decide +kernel, by decide +kernel, by decide +kernel, executes_of (by decide +kernel)⟩,
    ⟨sq (rf 29 1 2 0 5) (id), (0:VatId), rf 29 1 2 0 5, sreg (sq (rf 29 1 2 0 5) (id)) 0 (fB (rf 29 1 2 0 5)), sreg (sq (rf 29 1 2 0 5) (id)) 0 (fC (rf 29 1 2 0 5)), immS (fImm (rf 29 1 2 0 5)), BitVec.ofNat 64 (fImm (rf 29 1 2 0 5)), fImm (rf 29 1 2 0 5) % 64, 3, sreg (sq (rf 29 1 2 0 5)) 0 (fA (rf 29 1 2 0 5)), by decide +kernel, by decide +kernel, by decide +kernel, by decide +kernel, by decide +kernel, by decide +kernel, by decide +kernel, executes_of (by decide +kernel)⟩,
    ⟨sq (rf 30 1 2 0 5) (id), (0:VatId), rf 30 1 2 0 5, sreg (sq (rf 30 1 2 0 5) (id)) 0 (fB (rf 30 1 2 0 5)), sreg (sq (rf 30 1 2 0 5) (id)) 0 (fC (rf 30 1 2 0 5)), immS (fImm (rf 30 1 2 0 5)), BitVec.ofNat 64 (fImm (rf 30 1 2 0 5)), fImm (rf 30 1 2 0 5) % 64, 3, sreg (sq (rf 30 1 2 0 5)) 0 (fA (rf 30 1 2 0 5)), by decide +kernel, by decide +kernel, by decide +kernel, by decide +kernel, by decide +kernel, by decide +kernel, by decide +kernel, executes_of (by decide +kernel)⟩,
    ⟨sq (rf 31 1 2 0 5) (id), (0:VatId), rf 31 1 2 0 5, sreg (sq (rf 31 1 2 0 5) (id)) 0 (fB (rf 31 1 2 0 5)), sreg (sq (rf 31 1 2 0 5) (id)) 0 (fC (rf 31 1 2 0 5)), immS (fImm (rf 31 1 2 0 5)), BitVec.ofNat 64 (fImm (rf 31 1 2 0 5)), fImm (rf 31 1 2 0 5) % 64, 3, sreg (sq (rf 31 1 2 0 5)) 0 (fA (rf 31 1 2 0 5)), by decide +kernel, by decide +kernel, by decide +kernel, by decide +kernel, by decide +kernel, by decide +kernel, by decide +kernel, executes_of (by decide +kernel)⟩,
    ⟨sq (rf 32 1 2 0 5) (id), (0:VatId), rf 32 1 2 0 5, sreg (sq (rf 32 1 2 0 5) (id)) 0 (fB (rf 32 1 2 0 5)), sreg (sq (rf 32 1 2 0 5) (id)) 0 (fC (rf 32 1 2 0 5)), immS (fImm (rf 32 1 2 0 5)), BitVec.ofNat 64 (fImm (rf 32 1 2 0 5)), fImm (rf 32 1 2 0 5) % 64, 3, sreg (sq (rf 32 1 2 0 5)) 0 (fA (rf 32 1 2 0 5)), by decide +kernel, by decide +kernel, by decide +kernel, by decide +kernel, by decide +kernel, by decide +kernel, by decide +kernel, executes_of (by decide +kernel)⟩,
    ⟨sq (rf 33 1 2 0 5) (id), (0:VatId), rf 33 1 2 0 5, sreg (sq (rf 33 1 2 0 5) (id)) 0 (fB (rf 33 1 2 0 5)), sreg (sq (rf 33 1 2 0 5) (id)) 0 (fC (rf 33 1 2 0 5)), immS (fImm (rf 33 1 2 0 5)), BitVec.ofNat 64 (fImm (rf 33 1 2 0 5)), fImm (rf 33 1 2 0 5) % 64, 3, sreg (sq (rf 33 1 2 0 5)) 0 (fA (rf 33 1 2 0 5)), by decide +kernel, by decide +kernel, by decide +kernel, by decide +kernel, by decide +kernel, by decide +kernel, by decide +kernel, executes_of (by decide +kernel)⟩,
    ⟨sq (0x24 * 2^26 + 1 * 2^23 + 0 * 2^18 + 9) (id), (0:VatId), 0x24 * 2^26 + 1 * 2^23 + 0 * 2^18 + 9, sreg (sq (0x24 * 2^26 + 1 * 2^23 + 0 * 2^18 + 9) (id)) 0 (fB (0x24 * 2^26 + 1 * 2^23 + 0 * 2^18 + 9)), sreg (sq (0x24 * 2^26 + 1 * 2^23 + 0 * 2^18 + 9) (id)) 0 (fC (0x24 * 2^26 + 1 * 2^23 + 0 * 2^18 + 9)), immS (fImm (0x24 * 2^26 + 1 * 2^23 + 0 * 2^18 + 9)), BitVec.ofNat 64 (fImm (0x24 * 2^26 + 1 * 2^23 + 0 * 2^18 + 9)), fImm (0x24 * 2^26 + 1 * 2^23 + 0 * 2^18 + 9) % 64, 3, (sreg (sq (0x24 * 2^26 + 1 * 2^23 + 0 * 2^18 + 9)) 0 (bits (0x24 * 2^26 + 1 * 2^23 + 0 * 2^18 + 9) 22 18)).toNat, by decide +kernel, by decide +kernel, by decide +kernel, by decide +kernel, by decide +kernel, by decide +kernel, executes_of (by decide +kernel), by decide +kernel⟩⟩

theorem witness_sequencer_arithmetic_and_flow_complete_5 :
    (∃ (s : Machine.State) (v : VatId) (w : Nat) (a : Word) (b : Word) (i : Word) (j : Word) (sh : Nat) (q : Nat) (n : Nat),
      (a = sreg s (v.val) (fB w)) ∧ (b = sreg s (v.val) (fC w)) ∧ (i = immS (fImm w)) ∧ (j = BitVec.ofNat 64 (fImm w)) ∧ (sh = fImm w % 64) ∧ (q = (seqOf s v.val).pc) ∧ (Executes s (v.val) 36 w) ∧ (n = BitVec.toNat (sreg s (v.val) (bits w 22 18))) ∧ (1 ≤ n) ∧ (n ≤ 16777215)) ∧
    (∃ (s : Machine.State) (v : VatId) (w : Nat) (a : Word) (b : Word) (i : Word) (j : Word) (sh : Nat) (q : Nat) (n : Nat),
      (a = sreg s (v.val) (fB w)) ∧ (b = sreg s (v.val) (fC w)) ∧ (i = immS (fImm w)) ∧ (j = BitVec.ofNat 64 (fImm w)) ∧ (sh = fImm w % 64) ∧ (q = (seqOf s v.val).pc) ∧ (Executes s (v.val) 36 w) ∧ (n = BitVec.toNat (sreg s (v.val) (bits w 22 18))) ∧ (16777215 < n) ∧ (setting s 12565 (v.val + 1) ≠ 1)) ∧
    (∃ (s : Machine.State) (v : VatId) (w : Nat) (a : Word) (b : Word) (i : Word) (j : Word) (sh : Nat) (q : Nat),
      (a = sreg s (v.val) (fB w)) ∧ (b = sreg s (v.val) (fC w)) ∧ (i = immS (fImm w)) ∧ (j = BitVec.ofNat 64 (fImm w)) ∧ (sh = fImm w % 64) ∧ (q = (seqOf s v.val).pc) ∧ (Executes s (v.val) 38 w)) ∧
    (∃ (s : Machine.State) (v : VatId) (w : Nat) (a : Word) (b : Word) (i : Word) (j : Word) (sh : Nat) (q : Nat),
      (a = sreg s (v.val) (fB w)) ∧ (b = sreg s (v.val) (fC w)) ∧ (i = immS (fImm w)) ∧ (j = BitVec.ofNat 64 (fImm w)) ∧ (sh = fImm w % 64) ∧ (q = (seqOf s v.val).pc) ∧ (Executes s (v.val) 39 w)) ∧
    (∃ (s : Machine.State) (v : VatId) (w : Nat) (a : Word) (b : Word) (i : Word) (j : Word) (sh : Nat) (q : Nat),
      (a = sreg s (v.val) (fB w)) ∧ (b = sreg s (v.val) (fC w)) ∧ (i = immS (fImm w)) ∧ (j = BitVec.ofNat 64 (fImm w)) ∧ (sh = fImm w % 64) ∧ (q = (seqOf s v.val).pc) ∧ ((seqOf s v.val).state = 2) ∧ ((seqOf s v.val).wait = none) ∧ (dieUp s v.val = true) ∧ ((seqOf s v.val).badWords.contains q = false) ∧ (bits ((seqOf s v.val).prog.getD q 0).toNat 31 26 = 40) ∧ ((seqOf s v.val).posted = none) ∧ ((seqOf s v.val).stopping = true)) :=
  ⟨⟨sq (0x24 * 2^26 + 2 * 2^23 + 1 * 2^18 + 9) (id), (0:VatId), 0x24 * 2^26 + 2 * 2^23 + 1 * 2^18 + 9, sreg (sq (0x24 * 2^26 + 2 * 2^23 + 1 * 2^18 + 9) (id)) 0 (fB (0x24 * 2^26 + 2 * 2^23 + 1 * 2^18 + 9)), sreg (sq (0x24 * 2^26 + 2 * 2^23 + 1 * 2^18 + 9) (id)) 0 (fC (0x24 * 2^26 + 2 * 2^23 + 1 * 2^18 + 9)), immS (fImm (0x24 * 2^26 + 2 * 2^23 + 1 * 2^18 + 9)), BitVec.ofNat 64 (fImm (0x24 * 2^26 + 2 * 2^23 + 1 * 2^18 + 9)), fImm (0x24 * 2^26 + 2 * 2^23 + 1 * 2^18 + 9) % 64, 3, (sreg (sq (0x24 * 2^26 + 2 * 2^23 + 1 * 2^18 + 9)) 0 (bits (0x24 * 2^26 + 2 * 2^23 + 1 * 2^18 + 9) 22 18)).toNat, by decide +kernel, by decide +kernel, by decide +kernel, by decide +kernel, by decide +kernel, by decide +kernel, executes_of (by decide +kernel), by decide +kernel⟩,
    ⟨sq (0x24 * 2^26 + 1 * 2^23 + 6 * 2^18 + 9) (id), (0:VatId), 0x24 * 2^26 + 1 * 2^23 + 6 * 2^18 + 9, sreg (sq (0x24 * 2^26 + 1 * 2^23 + 6 * 2^18 + 9) (id)) 0 (fB (0x24 * 2^26 + 1 * 2^23 + 6 * 2^18 + 9)), sreg (sq (0x24 * 2^26 + 1 * 2^23 + 6 * 2^18 + 9) (id)) 0 (fC (0x24 * 2^26 + 1 * 2^23 + 6 * 2^18 + 9)), immS (fImm (0x24 * 2^26 + 1 * 2^23 + 6 * 2^18 + 9)), BitVec.ofNat 64 (fImm (0x24 * 2^26 + 1 * 2^23 + 6 * 2^18 + 9)), fImm (0x24 * 2^26 + 1 * 2^23 + 6 * 2^18 + 9) % 64, 3, (sreg (sq (0x24 * 2^26 + 1 * 2^23 + 6 * 2^18 + 9)) 0 (bits (0x24 * 2^26 + 1 * 2^23 + 6 * 2^18 + 9) 22 18)).toNat, by decide +kernel, by decide +kernel, by decide +kernel, by decide +kernel, by decide +kernel, by decide +kernel, executes_of (by decide +kernel), by decide +kernel⟩,
    ⟨sq (0x26 * 2^26) (fun q => { q with loops := [{ active := true, count := 5, index := 4 }, { active := true, count := 5, index := 2 }] }), (0:VatId), 0x26 * 2^26, sreg (sq (0x26 * 2^26) (fun q => { q with loops := [{ active := true, count := 5, index := 4 }, { active := true, count := 5, index := 2 }] })) 0 (fB (0x26 * 2^26)), sreg (sq (0x26 * 2^26) (fun q => { q with loops := [{ active := true, count := 5, index := 4 }, { active := true, count := 5, index := 2 }] })) 0 (fC (0x26 * 2^26)), immS (fImm (0x26 * 2^26)), BitVec.ofNat 64 (fImm (0x26 * 2^26)), fImm (0x26 * 2^26) % 64, 3, by decide +kernel, by decide +kernel, by decide +kernel, by decide +kernel, by decide +kernel, by decide +kernel, executes_of (by decide +kernel)⟩,
    ⟨sq (0x27 * 2^26) (fun q => { q with loops := [{ active := true, count := 5, index := 4 }, { active := true, count := 5, index := 2 }] }), (0:VatId), 0x27 * 2^26, sreg (sq (0x27 * 2^26) (fun q => { q with loops := [{ active := true, count := 5, index := 4 }, { active := true, count := 5, index := 2 }] })) 0 (fB (0x27 * 2^26)), sreg (sq (0x27 * 2^26) (fun q => { q with loops := [{ active := true, count := 5, index := 4 }, { active := true, count := 5, index := 2 }] })) 0 (fC (0x27 * 2^26)), immS (fImm (0x27 * 2^26)), BitVec.ofNat 64 (fImm (0x27 * 2^26)), fImm (0x27 * 2^26) % 64, 3, by decide +kernel, by decide +kernel, by decide +kernel, by decide +kernel, by decide +kernel, by decide +kernel, executes_of (by decide +kernel)⟩,
    ⟨sq (0x28 * 2^26) (fun q => { q with stopping := true }), (0:VatId), 0x28 * 2^26, sreg (sq (0x28 * 2^26) (fun q => { q with stopping := true })) 0 (fB (0x28 * 2^26)), sreg (sq (0x28 * 2^26) (fun q => { q with stopping := true })) 0 (fC (0x28 * 2^26)), immS (fImm (0x28 * 2^26)), BitVec.ofNat 64 (fImm (0x28 * 2^26)), fImm (0x28 * 2^26) % 64, 3, by decide +kernel⟩⟩

theorem witness_lend_counts_its_loop :
    (∃ (s : Machine.State) (v : VatId) (w : Nat) (b : Nat) (off : Nat) (c : LoopCtr),
      (Executes s (v.val) 37 w) ∧ (b = (seqOf s v.val).pc) ∧ (off = fImm w) ∧ (c = loopOf (seqOf s v.val) (bits w 25 23))) :=
    ⟨sq (0x25 * 2^26 + 0 * 2^23 + 2) (fun q => { q with loops := [{ active := true, count := 5, index := 4 }, { active := true, count := 5, index := 2 }] }), (0:VatId), 0x25 * 2^26 + 0 * 2^23 + 2, 3, 2, loopOf (seqOf (sq (0x25 * 2^26 + 0 * 2^23 + 2) (fun q => { q with loops := [{ active := true, count := 5, index := 4 }, { active := true, count := 5, index := 2 }] })) 0) 0, executes_of (by decide +kernel), by decide +kernel⟩

theorem witness_take_moves_the_oldest_entry :
    (∃ (s : Machine.State) (v : VatId) (w : Nat) (sd : Nat),
      (Executes s (v.val) 50 w) ∧ (sd = fA w) ∧ (1 ≤ sd) ∧ (sd ≤ 29)) :=
    ⟨sq (0x32 * 2^26 + 4 * 2^21), (0:VatId), 0x32 * 2^26 + 4 * 2^21, 4, executes_of (by decide +kernel), by decide +kernel⟩

end Flow

namespace Access

def rg : List Word := [0, 5, 3, 0xFFFFFFFFFFFFFFF0, 77, 0x20001000, 16777216, 2, 0xA0000300]
def sq (w : Nat) (f : Sequencer → Sequencer := id) (pc : Nat := 3) (base : Machine.State := owned) : Machine.State :=
  vatS base 0 { ({} : Vat) with seq := f { ({} : Sequencer) with state := 2, prog := List.replicate pc 0 ++ [BitVec.ofNat 32 w], regs := rg, pc := pc } }
def mgr : Nat := 1 + 130 * 2^96 + 1 * 2^108 + 2^112
def rce : Bytes := leBytes 16 (2 * 2^54 + 1 * 2^48 + 2^21 + 0x4000 + 0 * 2^64 + 64 * 2^96)
def mgS : Machine.State := withCfg owned [(0x2400*256+3, leBytes 64 mgr), (0x2500*256, rce)]
def am (w : Nat) : Nat := memAddr (sq w) 0 w
def rgn (a : Nat) : Region := (decodeAddr a).getD (.vatSram 0 0 0)
def ld : Nat := 0x18*2^26 + 4*2^21 + 5*2^16 + 2
def st : Nat := 0x19*2^26 + 1*2^21 + 0*2^16 + 0x1000
def stc : Nat := 0x19*2^26 + 1*2^21 + 8*2^16
def ldb : Nat := 0x18*2^26 + 4*2^21 + 1*2^16 + 2
def stb : Nat := 0x19*2^26 + 4*2^21 + 1*2^16 + 2
def ldw : Machine.State := sq ld fun q => { q with wait := some (.load 8 4 (some [1,2,3,4,5,6,7,8])) }
def sy (op : Nat) : Machine.State := sq (0x34*2^26 + 4*2^21 + 8*2^16 + 9*2^11 + 2^10) fun q => { q with regs := q.regs ++ [BitVec.ofNat 64 (op + 5 * 2^32), 9] }
def syw : Nat := 0x34*2^26 + 4*2^21 + 8*2^16 + 9*2^11 + 2^10
def fe : Nat := 0x35*2^26
def busy : Machine.State := { sq fe with fab := { (sq fe).fab with waiting := [(157, [{ owner := .sequencer 0, pkt := pkt 1 130 157 [1] }])] } }
def mc : Nat := 0x36*2^26 + 9*2^21 + 10*2^16 + 2
def mcS : Machine.State := sq mc (fun q => { q with regs := q.regs ++ [0xA01000, BitVec.ofNat 64 (20 + 0x4000*2^32)] }) 3 mgS
def mw : Nat := 0x37*2^26 + 1*2^21 + 2
def mwS (n : Nat) : Machine.State := let s := sq mw id 3 mgS; { s with vs := { s.vs with agents := [(16*2, { bytes := n })] } }
def lau : Nat := 0x30*2^26 + 9*2^21 + 1*2^16 + 2*2^12 + 7*2^5
def lblk (tag : Nat) : List Word := [BitVec.ofNat 64 (1 + 2*2^21), 0x1000, 0x21, BitVec.ofNat 64 tag]
def lS (tag : Nat) (bs : List Batch := []) (w : Option SeqWait := none) : Machine.State :=
  let s := modVat (sq lau fun q => { q with regs := q.regs ++ lblk tag, wait := w, state := if w.isSome then 3 else 2 }) 0 fun v => { v with batches := bs, nextBatch := 65535 }
  { s with part := { s.part with vats := [(0, { ({} : VatDie) with banks := [(0, 7)] })] } }
def bt : Batch := { num := 5, detached := false, total := 4, extX := 2, extY := 2, program := 0x1000, slices := [5], blocked := false, args := [7], tag := none, bank := some 1, slot := 0, generation := 1, next := 2 }
def bw (x : Nat := 0) : Nat := 0x31*2^26 + 4*2^21 + 1*2^16 + x
def bS (w : Nat) (b : Batch) (wt : Option SeqWait := none) : Machine.State := modVat (sq w fun q => { q with wait := wt, state := if wt.isSome then 3 else 2 }) 0 fun v => { v with batches := [{ bt with num := 9 }, b] }
def bd : Batch := { bt with done := true, ended := 4, first := some (2, 9), faulted := 1 }
def be : Batch := { bt with ended := 4, next := 4 }

theorem witness_sequencer_accesses_complete_1 :
    (∃ (s : Machine.State) (v : VatId) (w : Nat) (a : Nat) (r : Region),
      (a = memAddr s (v.val) w) ∧ (memTrap a = none) ∧ (decodeAddr a = some r) ∧ (Executes s (v.val) 24 w)) ∧
    (∃ (s : Machine.State) (v : VatId) (w : Nat) (a : Nat) (r : Region),
      (a = memAddr s (v.val) w) ∧ (memTrap a = none) ∧ (decodeAddr a = some r) ∧ (Executes s (v.val) 25 w) ∧ (∀ (d c o : Nat), r ≠ Region.syncCell d c o) ∧ (writesCount s (Initiator.sequencer v.val) < 32)) ∧
    (∃ (s : Machine.State) (v : VatId) (w : Nat) (a : Nat) (r : Region),
      (a = memAddr s (v.val) w) ∧ (memTrap a = none) ∧ (decodeAddr a = some r) ∧ (Executes s (v.val) 25 w) ∧ (∃ d c o, r = Region.syncCell d c o) ∧ (setting s 12565 (v.val + 1) ≠ 1)) ∧
    (∃ (s : Machine.State) (v : VatId) (w : Nat) (c : Nat),
      (memTrap (memAddr s (v.val) w) = some c) ∧ (setting s 12565 (v.val + 1) ≠ 1) ∧ (Executes s (v.val) 24 w)) ∧
    (∃ (s : Machine.State) (v : VatId) (w : Nat) (c : Nat),
      (memTrap (memAddr s (v.val) w) = some c) ∧ (setting s 12565 (v.val + 1) ≠ 1) ∧ (Executes s (v.val) 25 w)) ∧
    (∃ (s : Machine.State) (v : VatId) (a : Nat) (sd : Nat) (data : Bytes),
      ((seqOf s v.val).wait = some (SeqWait.load a sd (some data))) ∧ ((seqOf s v.val).posted = none) ∧ ((seqOf s v.val).stopping = false)) ∧
    (∃ (s : Machine.State) (v : VatId) (w : Nat) (a : Nat) (pay : Nat) (ph : Nat) (die : Nat) (c : Nat) (off : Nat),
      (Executes s (v.val) 52 w) ∧ (a = BitVec.toNat (sreg s (v.val) (fB w)) % 2 ^ 48) ∧ (pay = BitVec.toNat (sreg s (v.val) (fC w))) ∧ (ph = BitVec.toNat (sreg s (v.val) (fC w + 1)) % 2 ^ 16) ∧ (mapped a = true) ∧ (decodeAddr a = some (Region.syncCell die c off))) ∧
    (∃ (s : Machine.State) (v : VatId) (w : Nat),
      (Executes s (v.val) 53 w) ∧ ((writesOut s fun x => x == Initiator.sequencer v.val) = false)) :=
  ⟨⟨sq ld, (0:VatId), ld, am ld, rgn (am ld), by decide +kernel, by decide +kernel, by decide +kernel, executes_of (by decide +kernel)⟩,
    ⟨sq st, (0:VatId), st, am st, rgn (am st), by decide +kernel, by decide +kernel, by decide +kernel, executes_of (by decide +kernel), by rw [show rgn (am st) = Region.vatSram 0 0 0x8000 by decide +kernel]; nofun, by decide +kernel⟩,
    ⟨sq stc, (0:VatId), stc, am stc, rgn (am stc), by decide +kernel, by decide +kernel, by decide +kernel, executes_of (by decide +kernel), ⟨0, 3, 0, by decide +kernel⟩, by decide +kernel⟩,
    ⟨sq ldb, (0:VatId), ldb, 2, by decide +kernel, by decide +kernel, executes_of (by decide +kernel)⟩,
    ⟨sq stb, (0:VatId), stb, 2, by decide +kernel, by decide +kernel, executes_of (by decide +kernel)⟩,
    ⟨ldw, (0:VatId), 8, 4, [1,2,3,4,5,6,7,8], by decide +kernel⟩,
    ⟨sy 1, (0:VatId), syw, 0xA0000300, (1 + 5*2^32), 9, 0, 3, 0, executes_of (by decide +kernel), by decide +kernel⟩,
    ⟨sq fe, (0:VatId), fe, executes_of (by decide +kernel), by decide +kernel⟩⟩

theorem witness_sequencer_accesses_complete_2 :
    (∃ (s : Machine.State) (v : VatId) (w : Nat),
      (Executes s (v.val) 53 w) ∧ ((writesOut s fun x => x == Initiator.sequencer v.val) = true)) ∧
    (∃ (s : Machine.State) (v : VatId) (w : Nat) (a : Nat) (n : Nat) (g : Nat) (off : Nat) (slice : Nat),
      (Executes s (v.val) 54 w) ∧ (a = BitVec.toNat (sreg s (v.val) (fA w)) % 2 ^ 48) ∧ (n = bits (BitVec.toNat (sreg s (v.val) (fB w))) 31 0) ∧ (g = bits w 9 0) ∧ (decodeAddr a = some (Region.vatSram (v.val) slice off)) ∧ (off + n ≤ 1572864) ∧ (1 ≤ n) ∧ (n ≤ 1572864) ∧ (badRange s a n = false) ∧ ((writesOut s fun x => x == Initiator.sequencer v.val) = false)) ∧
    (∃ (s : Machine.State) (v : VatId) (w : Nat) (g : Nat) (c : Nat),
      (Executes s (v.val) 55 w) ∧ (g = bits w 9 0) ∧ (c = BitVec.toNat (sreg s (v.val) (fA w)) % 2 ^ 32) ∧ (mcDown s g v.val = false) ∧ (mcSatisfied (agentOf s g v.val).bytes c = true)) ∧
    (∃ (s : Machine.State) (v : VatId) (w : Nat) (g : Nat) (c : Nat),
      (Executes s (v.val) 55 w) ∧ (g = bits w 9 0) ∧ (c = BitVec.toNat (sreg s (v.val) (fA w)) % 2 ^ 32) ∧ (mcDown s g v.val = false) ∧ (mcSatisfied (agentOf s g v.val).bytes c = false)) ∧
    (∃ (s : Machine.State) (v : VatId) (w : Nat) (a : LaunchArgs),
      (a = launchArgs s (v.val) w) ∧ (a.invalid = false) ∧ (∀ (g : Nat), a.tag = some g → staleTag s (v.val) g = false ∧ (bankHolding s (v.val) (bits a.context 27 24) (bits a.context 63 32)).isSome = true) ∧ ((writesOut s fun x => x == Initiator.sequencer v.val) = false) ∧ (Executes s (v.val) 48 w) ∧ ((vatOf s v.val).batches.length < 64)) ∧
    (∃ (s : Machine.State) (v : VatId) (w : Nat) (a : LaunchArgs),
      (a = launchArgs s (v.val) w) ∧ (a.invalid = false) ∧ (∀ (g : Nat), a.tag = some g → staleTag s (v.val) g = false ∧ (bankHolding s (v.val) (bits a.context 27 24) (bits a.context 63 32)).isSome = true) ∧ ((writesOut s fun x => x == Initiator.sequencer v.val) = false) ∧ (Executes s (v.val) 48 w) ∧ (64 ≤ (vatOf s v.val).batches.length)) ∧
    (∃ (s : Machine.State) (v : VatId) (w : Nat) (a : LaunchArgs) (since : Tick),
      (a = launchArgs s (v.val) w) ∧ (a.invalid = false) ∧ (∀ (g : Nat), a.tag = some g → staleTag s (v.val) g = false ∧ (bankHolding s (v.val) (bits a.context 27 24) (bits a.context 63 32)).isSome = true) ∧ ((writesOut s fun x => x == Initiator.sequencer v.val) = false) ∧ ((seqOf s v.val).wait = some (SeqWait.launch since)) ∧ (w = ((seqOf s v.val).prog.getD (seqOf s v.val).pc 0).toNat) ∧ ((seqOf s v.val).posted = none) ∧ ((seqOf s v.val).stopping = false) ∧ ((vatOf s v.val).batches.length < 64)) ∧
    (∃ (s : Machine.State) (v : VatId) (w : Nat) (b : Batch),
      (Executes s (v.val) 49 w) ∧ (List.find? (fun b => b.num == BitVec.toNat (sreg s (v.val) (fB w)) && !b.detached) (vatOf s v.val).batches = some b) ∧ (b.done = true)) :=
  ⟨⟨busy, (0:VatId), fe, executes_of (by decide +kernel), by decide +kernel⟩,
    ⟨mcS, (0:VatId), mc, 0xA01000, 20, 2, 0x1000, 5, executes_of (by decide +kernel), by decide +kernel⟩,
    ⟨mwS 8, (0:VatId), mw, 2, 5, executes_of (by decide +kernel), by decide +kernel⟩,
    ⟨mwS 3, (0:VatId), mw, 2, 5, executes_of (by decide +kernel), by decide +kernel⟩,
    ⟨lS 0, (0:VatId), lau, launchArgs (lS 0) 0 lau, by decide +kernel, by decide +kernel, by decide +kernel, by decide +kernel, executes_of (by decide +kernel), by decide +kernel⟩,
    ⟨lS 0 (List.replicate 64 bt), (0:VatId), lau, launchArgs (lS 0) 0 lau, by decide +kernel, by decide +kernel, by decide +kernel, by decide +kernel, executes_of (by decide +kernel), by decide +kernel⟩,
    ⟨lS 0 [] (some (.launch 4)), (0:VatId), lau, launchArgs (lS 0) 0 lau, 4, by decide +kernel⟩,
    ⟨bS (bw) bd, (0:VatId), bw, bd, executes_of (by decide +kernel), by decide +kernel⟩⟩

theorem witness_sequencer_accesses_complete_3 :
    (∃ (s : Machine.State) (v : VatId) (w : Nat) (b : Batch),
      (Executes s (v.val) 49 w) ∧ (List.find? (fun b => b.num == BitVec.toNat (sreg s (v.val) (fB w)) && !b.detached) (vatOf s v.val).batches = some b) ∧ (b.done = false) ∧ (bitAt w 15 = true)) ∧
    (∃ (s : Machine.State) (v : VatId) (w : Nat) (b : Batch),
      (Executes s (v.val) 49 w) ∧ (List.find? (fun b => b.num == BitVec.toNat (sreg s (v.val) (fB w)) && !b.detached) (vatOf s v.val).batches = some b) ∧ (b.done = false) ∧ (bitAt w 15 = false)) ∧
    (∃ (s : Machine.State) (v : VatId) (n : BitVec 16) (b : Batch),
      (List.find? (fun b => b.num == n.toNat && !b.done) (vatOf s v.val).batches = some b) ∧ (b.total ≤ b.ended) ∧ ((writesOut s fun o => match o with | Initiator.fibre d slice slot k index tag => d == v.val && k == b.num | x => false) = false) ∧ (b.detached = true)) ∧
    (∃ (s : Machine.State) (v : VatId) (n : BitVec 16) (b : Batch),
      (List.find? (fun b => b.num == n.toNat && !b.done) (vatOf s v.val).batches = some b) ∧ (b.total ≤ b.ended) ∧ ((writesOut s fun o => match o with | Initiator.fibre d slice slot k index tag => d == v.val && k == b.num | x => false) = false) ∧ (b.detached = false) ∧ (∀ (h sd : Nat) (nl : Bool) (a : Tick), (seqOf s v.val).wait ≠ some (SeqWait.batch h sd nl a))) ∧
    (∃ (s : Machine.State) (v : VatId) (n : BitVec 16) (b : Batch) (sd : Nat) (nl : Bool) (a : Tick),
      (List.find? (fun b => b.num == n.toNat && !b.done) (vatOf s v.val).batches = some b) ∧ (b.total ≤ b.ended) ∧ ((writesOut s fun o => match o with | Initiator.fibre d slice slot k index tag => d == v.val && k == b.num | x => false) = false) ∧ (b.detached = false) ∧ ((seqOf s v.val).wait = some (SeqWait.batch b.num sd nl a)) ∧ ((seqOf s v.val).posted = none) ∧ ((seqOf s v.val).stopping = false)) :=
  ⟨⟨bS (bw (2^15)) bt, (0:VatId), bw (2^15), bt, executes_of (by decide +kernel), by decide +kernel⟩,
    ⟨bS bw bt, (0:VatId), bw, bt, executes_of (by decide +kernel), by decide +kernel⟩,
    ⟨bS bw { be with detached := true }, (0:VatId), 5, { be with detached := true }, by decide +kernel⟩,
    ⟨bS bw be, (0:VatId), 5, be, by decide +kernel, by decide +kernel, by decide +kernel, by decide +kernel, by rw [show (seqOf (bS bw be) (0 : VatId).val).wait = none by decide +kernel]; nofun⟩,
    ⟨bS bw be (some (.batch 5 4 false 0)), (0:VatId), 5, be, 4, false, 0, by decide +kernel⟩⟩

end Access

namespace Watch

def bcfg : Nat := 1 + 2 + 20 * 2^6 + 1 * 2^11 + 1 * 2^20 + 1*2^36 + 0x21*2^40
def oS (f : ObsState → ObsState) (en : Nat := 1) : Machine.State :=
  let s := withRw owned [(0x7063*256+1, leBytes 16 (bcfg - (1 - en))), (0x7070*256, [3])]
  { s with obs := f s.obs }
def bn : Nat := bufTile 3 bcfg
def tmsg (y : Nat) : TraceMsg := { time := 5, source := 130, unit := 1, partition := 1, type := y, payload := 77 }
def stS (en : Nat) : Machine.State := oS (fun o => { o with stages := [(130, { msgs := [tmsg 0x21, tmsg 0x22], oldest := 0 })] }) en
def stT : List TraceMsg × List TraceMsg := stageTake 512 [tmsg 0x21, tmsg 0x22]
def tp (y : Nat) : Packet := { pkt 5 bn 130 ((tmsg y).bytes) with partition := 1 }
def cap (k : Nat) : Machine.State := oS fun o => { o with buffers := [(3, { state := k, cfg := bcfg })] }
def nb : NodeId := BitVec.ofNat 12 bn
def tq : Packet := { tp 0x21 with dest := 130 }
def fz (tf : Nat) : Freeze := { tf := tf, reason := 2, seq := 4, tag := 9 }
def frS (tf : Nat) (now : Nat := 50) : Machine.State := { oS (fun o => { o with snaps := [(0, { sent := some (fz tf) })] }) with now := now }
def sn (n : Nat) : Snapshot := { state := 1, tf := 100, reason := 2, seq := 4, tag := 9, latched := [(2, 20)], records := (List.range n).map fun i => (if i < 2 then i else i + 1, []) }
def snS (n : Nat) : Machine.State := oS fun o => { o with snaps := [(0, sn n)] }
def cxx : Machine.Context := { state := 1, gen := 3, partition := 1, deadline := 5000000, admitTick := 10 }
def dlS (busy : Bool) : Machine.State :=
  let s := admS (withRw owned [(0x70E0*256+1, [1]), (0x70E1*256, leBytes 4 100)]) 0 { ({} : Admission) with ctxs := [(2, cxx)] }
  { s with obs := { s.obs with snaps := if busy then [(0, { state := 2 })] else [] } }

theorem witness_observation_commands_complete_1 :
    (∃ (s : Machine.State) (node : NodeId) (b : Nat) (c : Nat) (out : List TraceMsg) (rest : List TraceMsg),
      (tileUp s (BitVec.toNat node) = true) ∧ ((tgetD s.obs.stages (BitVec.toNat node) { }).msgs ≠ []) ∧ (stageTake 512 (tgetD s.obs.stages (BitVec.toNat node) { }).msgs = (out, rest)) ∧ (b = setting s (28784 + dieOf (BitVec.toNat node)) 0 % 16) ∧ (c = bufConfig s b) ∧ (bcEn c = true) ∧ (tileUp s (bufTile b c) = true)) ∧
    (∃ (s : Machine.State) (node : NodeId) (b : Nat) (c : Nat) (out : List TraceMsg) (rest : List TraceMsg),
      (tileUp s (BitVec.toNat node) = true) ∧ ((tgetD s.obs.stages (BitVec.toNat node) { }).msgs ≠ []) ∧ (stageTake 512 (tgetD s.obs.stages (BitVec.toNat node) { }).msgs = (out, rest)) ∧ (b = setting s (28784 + dieOf (BitVec.toNat node)) 0 % 16) ∧ (c = bufConfig s b) ∧ (bcEn c = false ∨ tileUp s (bufTile b c) = false)) ∧
    (∃ (s : Machine.State) (u : Machine.State) (node : NodeId) (p : Packet) (b : Nat) (m : Bytes) (x : Capture),
      (Accepts s node p false u) ∧ (p.opcode = 5) ∧ (bufferAt s (BitVec.toNat node) = some b) ∧ (traceMsgs p.payload = [m]) ∧ (x = bufOf s b) ∧ (x.state = 0)) ∧
    (∃ (s : Machine.State) (u : Machine.State) (node : NodeId) (p : Packet) (b : Nat) (m : Bytes) (x : Capture),
      (Accepts s node p false u) ∧ (p.opcode = 5) ∧ (bufferAt s (BitVec.toNat node) = some b) ∧ (traceMsgs p.payload = [m]) ∧ (x = bufOf s b) ∧ (x.state = 3)) ∧
    (∃ (s : Machine.State) (u : Machine.State) (node : NodeId) (p : Packet) (b : Nat) (m : Bytes) (x : Capture),
      (Accepts s node p false u) ∧ (p.opcode = 5) ∧ (bufferAt s (BitVec.toNat node) = some b) ∧ (traceMsgs p.payload = [m]) ∧ (x = bufOf s b) ∧ (x.state = 1) ∧ (bcOwner x.cfg = 0) ∧ (triggers x.cfg m = false) ∧ (List.length m ≤ bcRing x.cfg)) ∧
    (∃ (s : Machine.State) (u : Machine.State) (node : NodeId) (p : Packet) (b : Nat) (m : Bytes) (x : Capture),
      (Accepts s node p false u) ∧ (p.opcode = 5) ∧ (bufferAt s (BitVec.toNat node) = some b) ∧ (traceMsgs p.payload = [m]) ∧ (x = bufOf s b) ∧ (x.state = 1) ∧ (bcOwner x.cfg = 0) ∧ (triggers x.cfg m = true) ∧ (List.length m ≤ bcRing x.cfg)) ∧
    (∃ (s : Machine.State) (u : Machine.State) (node : NodeId) (p : Packet),
      (Accepts s node p false u) ∧ (p.opcode = 5) ∧ (bufferAt s (BitVec.toNat node) = none)) ∧
    (∃ (s : Machine.State) (node : NodeId) (d : Nat) (f : Freeze),
      (d = dieOf (BitVec.toNat node)) ∧ (ringUp s d = true) ∧ ((snapOf s d).sent = some f) ∧ (s.now ≤ f.tf)) :=
  ⟨⟨stS 1, 130#12, 3, bcfg, stT.1, stT.2, by decide +kernel⟩,
    ⟨stS 0, 130#12, 3, bcfg - 1, stT.1, stT.2, by decide +kernel⟩,
    ⟨cap 0, accU (cap 0) nb (tp 0x21) false, nb, tp 0x21, 3, (tmsg 0x21).bytes, bufOf (cap 0) 3, accepts_of (by decide +kernel), by decide +kernel⟩,
    ⟨cap 3, accU (cap 3) nb (tp 0x21) false, nb, tp 0x21, 3, (tmsg 0x21).bytes, bufOf (cap 3) 3, accepts_of (by decide +kernel), by decide +kernel⟩,
    ⟨cap 1, accU (cap 1) nb (tp 0x22) false, nb, tp 0x22, 3, (tmsg 0x22).bytes, bufOf (cap 1) 3, accepts_of (by decide +kernel), by decide +kernel⟩,
    ⟨cap 1, accU (cap 1) nb (tp 0x21) false, nb, tp 0x21, 3, (tmsg 0x21).bytes, bufOf (cap 1) 3, accepts_of (by decide +kernel), by decide +kernel⟩,
    ⟨cap 1, accU (cap 1) 130 tq false, 130#12, tq, accepts_of (by decide +kernel), by decide +kernel⟩,
    ⟨frS 100, 130#12, 0, fz 100, by decide +kernel⟩⟩

theorem witness_observation_commands_complete_2 :
    (∃ (s : Machine.State) (node : NodeId) (d : Nat) (f : Freeze),
      (d = dieOf (BitVec.toNat node)) ∧ (ringUp s d = true) ∧ ((snapOf s d).sent = some f) ∧ (f.tf < s.now)) ∧
    (∃ (s : Machine.State) (node : NodeId) (d : Nat) (x : Snapshot),
      (d = dieOf (BitVec.toNat node)) ∧ (x = snapOf s d) ∧ (x.state = 1) ∧ ((tget x.latched (localOf (BitVec.toNat node))).isSome = true) ∧ (tget x.records (localOf (BitVec.toNat node)) = none) ∧ (s.time.dieReset.contains d = false)) ∧
    (∃ (s : Machine.State) (p : PortId) (c : CtxId) (x : Machine.Context) (dies : List Nat),
      (x = ctxOf s p.val c.val) ∧ (x.state = 1) ∧ (x.snapAsked = false) ∧ (snapArmed s x.partition = true) ∧ (s.now ≤ x.deadline) ∧ (dieUp s (16 + p.val) = true) ∧ (dies = partVats s.cfg x.partition ++ [16 + p.val])) :=
  ⟨⟨frS 20, 130#12, 0, fz 20, by decide +kernel⟩,
    ⟨snS 4, 132#12, 0, sn 4, by decide +kernel⟩,
    ⟨dlS false, (0 : PortId), (2 : CtxId), ctxOf (dlS false) 0 2, [0, 1, 16], by decide +kernel⟩⟩

end Watch

namespace Copy

def mgr : Nat := 1 + 130 * 2^96 + 1 * 2^108 + 2^112
def fl (p : Packet) (port : Nat) : Flight := { node := 130, port := port, vc := vcOf p, pkt := p }
def l2 (st : Nat) : Table Nat := [(linkKey 130 2, st)]
def moved (s : Machine.State) (x : Flight) : Machine.State := modFab s (fun f => { f with net := f.net.map (fun z => if z == x then { x with pkt := atRouter 130 x.pkt } else z) })
def F (p : Packet) : Flight := fl p 2
def rce : Bytes := leBytes 16 (2 * 2^54 + 1 * 2^48 + 2^21 + 0x4000 + 0 * 2^64 + 64 * 2^96)
def mcp : Packet := { pkt 0x61 130 130 (zeros 16) with opening := false, rset := 2, mclass := BitVec.ofNat 3 ((opClass 0x61).getD 0), tc := BitVec.ofNat 3 (opTc 0x61 false), aux := 2, partition := 1 }
def mS0 : Machine.State := withCfg owned [(0x2400*256+3, leBytes 64 mgr), (0x2500*256, rce)]
def mS : Machine.State := { mS0 with fab := { mS0.fab with net := [F mcp], links := l2 2 } }

theorem witness_router_forward_completes_more :
    (∃ (s : Machine.State) (u : Machine.State) (node : NodeId) (port : InPort) (vc : BitVec 4) (err : FlitErr) (x : Flight) (y : Flight) (b : Bank) (g : Nat),
      (List.find? (fun z => z.node == BitVec.toNat node && z.port == port.val && z.vc == vc.toNat) s.fab.net = some x) ∧ (y = { node := x.node, port := x.port, vc := x.vc, pkt := atRouter (BitVec.toNat node) x.pkt, relay := x.relay }) ∧ (u = modFab s fun f => { trackers := f.trackers, rx := f.rx, waiting := f.waiting, net := List.map (fun z => if (z == x) = true then y else z) f.net, arrived := f.arrived, acks := f.acks, expects := f.expects, buckets := f.buckets, links := f.links, tc6 := f.tc6, deficits := f.deficits, retries := f.retries, lanes := f.lanes, streamStats := f.streamStats }) ∧ (err = { }) ∧ (headerBad s x.pkt = false) ∧ (y.pkt.opcode = 97) ∧ (bankOfEpoch s y.pkt.epoch.toNat = some b) ∧ (g = bits y.pkt.aux.toNat 9 0) ∧ (tableBad s (BitVec.toNat node) 2 g = false) ∧ (∀ (o : Nat), o ∈ mcOutputs b g (BitVec.toNat node) → o ≠ 0 → linkUp s (BitVec.toNat node) o = true → ∀ (m : Nat), neighbour (BitVec.toNat node) o = some m → hasCredit u m (opposite o) x.vc y.pkt.flits = true)) :=
    ⟨mS, moved mS (F mcp), 130#12, (2 : InPort), BitVec.ofNat 4 (vcOf mcp), {}, F mcp, F mcp, mS.ep.cur, 2, by decide +kernel⟩

end Copy

/-! ### Ill-formed commands are refused: one for each check of WellFormed -/

/-- A whole message: a read of OD 0x1001.02 in session 7. -/
def whole : TtpMsg := { cs := 1, session := 7, index := 0x1001, sub := 2 }

theorem test_wf_whole : Instr.wf (.readReq req whole) = true := by decide
theorem test_wf_long_message : Instr.wf (.readReq req { whole with payload := zeros 57, len := 57 }) = false := by decide
theorem test_wf_message_length : Instr.wf (.writeExp req { whole with payload := [1], len := 2 }) = false := by decide
theorem test_wf_message_session : Instr.wf (.segEnd req { whole with session := 6 }) = false := by decide
theorem test_wf_tile : Instr.wf (.ackSend 0) = false := by decide
theorem test_wf_packet_length : Instr.wf (.write 130 { pkt 1 130 131 [1] with length := 2 }) = false := by decide
theorem test_wf_long_packet : Instr.wf (.write 130 (pkt 1 130 131 (zeros 4097))) = false := by decide +kernel

/-! ### The worked examples and edge cases of the spec -/

/-- Chapter 1: V12's sequencer tile is node 853; P0's port front is node 0x010. -/
theorem test_node_ids : seqTile 6 = 853 ∧ portFrontTile 0 = 0x010 := by decide

/-- Chapter 4: the delivery address in V01 slice 6 lies on tile (16, 2); sync cell 24 of V01 is at 0xA0011800 on the same tile; the staged image starts
HBM stack 1. -/
theorem test_addresses : decodeAddr 0x08C00000 = some (.vatSram 1 6 0) ∧ (Region.vatSram 1 6 0).tile = 0x090 ∧ cellAddr (256 + 24) = 0xA0011800 ∧
    cellTile (256 + 24) = 0x090 ∧ decodeAddr 0xA0011800 = some (.syncCell 1 24 0) ∧ decodeAddr 0x002400000000 = some (.hbm 1 0) := by decide +kernel

/-- Chapter 7: context 37 of P0 at context generation 5 has tag 0x1425. -/
theorem test_context_tag : ctxTag 0 37 5 = 0x1425 ∧ tagPort 0x1425 = 0 ∧ tagCtx 0x1425 = 37 ∧ tagGen 0x1425 = 5 := by decide

/-- Chapter 14: the PPA 0xC8834011 is channel 6, CE 1, LUN 0, block 2,100, page 17. -/
theorem test_ppa : ppaChan 0xC8834011 = 6 ∧ ppaCe 0xC8834011 = 1 ∧ ppaLun 0xC8834011 = 0 ∧ blockNum (ppaBlock 0xC8834011) = 2100 ∧
    ppaPage 0xC8834011 = 17 := by decide

/-- Table 5.11: conversions. 1e6 (0x49742400) to E4M3 without and with SAT; −1e−10 to FP16; 2^−130 and 2^−140 to BF16; a NaN to INT8; a NaN through ADD. -/
theorem test_conversions : encodeElem 4 false (fp32 0x49742400) = 0x7F ∧ encodeElem 4 true (fp32 0x49742400) = 0x7E ∧
    encodeElem 6 false (fp32 0xAEDBE6FF) = 0x8000 ∧ encodeElem 7 false (fp32 0x00080000) = 0x0008 ∧ encodeElem 7 false (fp32 0x00000200) = 0 ∧
    encodeElem 1 false (fp32 0x7FC00000) = 0 ∧ fp32Add 0xFFC01234 0x3F800000 = 0x7FC00000 := by decide +kernel

/-- Chapter 8: 0.375 and 2^−130, −0.125 and −2^−130 at window 392: each term, the residues of the two contributions, and the results. -/
theorem test_ream_wave :
    (toReam 392 (fp32 0x3EC00000)).t = 3 * 2 ^ 117 ∧ (toReam 392 (fp32 0x00080000)).t = 0 ∧ (toReam 392 (fp32 0x00080000)).inexact = true ∧
    (toReam 392 (fp32 0x80080000)).t = -1 ∧ residueFrom 0 [toReam 392 (fp32 0x3EC00000), toReam 392 (fp32 0x00080000)] = 3 * 2 ^ 56 ∧
    residueFrom 0 [toReam 392 (fp32 0xBE000000), toReam 392 (fp32 0x80080000)] = m61 - 2 ^ 56 - 2 ∧
    encodeElem 8 false (((toReam 392 (fp32 0x3EC00000)).add (toReam 392 (fp32 0xBE000000))).num 392) = 0x3E800000 ∧
    encodeElem 8 false (((toReam 392 (fp32 0x00080000)).add (toReam 392 (fp32 0x80080000))).num 392) = 0x83800000 := by decide +kernel

/-- FIPS 180-4's example: SHA-256 of "abc". -/
theorem test_sha256 : sha256 [0x61, 0x62, 0x63] = beBytes 32 0xBA7816BF8F01CFEA414140DE5DAE2223B00361A396177A9CB410FF61F20015AD := by decide +kernel

/-- CRC-32C of "123456789" is 0xE3069283, its catalogued check value. -/
theorem test_crc32c : crc32c [0x31, 0x32, 0x33, 0x34, 0x35, 0x36, 0x37, 0x38, 0x39] = 0xE3069283 := by decide +kernel

/-- Chapter 3: node ID 20, client 5, transfer 0x012, session 5 at D0: the read of OD 0x1001.02 is answered in identifier 0x02281412 with CS 0x03, LEN 5
and "PQ-20", padded to 16 bytes. -/
def console : State :=
  dictS (withPow ready fun p => { p with nodeId := 20 }) fun d =>
    { d with sessions := [(5, { ep := 0, role := 3, partition := 0, client := 5, openedAt := 0, lastAt := 0 })] }

theorem test_can_read :
    (outState (exec (.readReq { ep := 0, tag := 5 * 1024 + 0x12, session := 5 } { cs := 1, session := 5, index := 0x1001, sub := 2 }) console) console).out
      = [.canFrame 0 0x02281412 [3, 5, 1, 0x10, 2, 0, 5, 0, 0x50, 0x51, 0x2D, 0x32, 0x30, 0, 0, 0]] := by decide +kernel

/-- Table 6.3, R195, a program of one word: ADDI s4, s1, −2 with s1 = 5 (Table 6.3), and a write to s0 that is lost (R195). -/
def addi (sd : Nat) : State :=
  modSeq ready 0 fun q => { q with state := 2, prog := [BitVec.ofNat 32 (0x10 * 2 ^ 26 + sd * 2 ^ 21 + 1 * 2 ^ 16 + 0xFFFE)], regs := [0, 5] }

theorem test_addi : sreg (outState (exec (.seqAddi 0) (addi 4)) (addi 4)) 0 4 = 3 ∧ sreg (outState (exec (.seqAddi 0) (addi 0)) (addi 0)) 0 0 = 0 := by
  decide +kernel

/-- With nothing waiting a step lets one tick pass; a command at the front runs and leaves the queue. -/
theorem test_step : (outState (step ready) ready).now = 1 ∧
    (outState (step { addi 4 with pending := [.seqAddi 0, .seqNop 0] }) ready).pending = [.seqNop 0] := by decide +kernel

end Sys2Proof.Tests
end

/-!
PROOFS. The vat sequencer: what reading a vat, a loop counter or a register gives after a write, what an instruction that completes leaves behind, and
LEND and TAKE (R203, R213).
-/
namespace Sys2Proof.Machine

/-! ### Reading a vat after a write -/

@[simp] theorem vatOf_modVat_self (s : State) (d : Nat) (f : Vat → Vat) : vatOf (modVat s d f) d = f (vatOf s d) :=
  tgetD_tmod_self s.vs.vats d {} f

theorem vatOf_modVat_ne (s : State) {d j : Nat} (f : Vat → Vat) (h : j ≠ d) : vatOf (modVat s d f) j = vatOf s j :=
  tgetD_tmod_ne s.vs.vats {} {} f h

@[simp] theorem modVat_cells (s : State) (d : Nat) (f : Vat → Vat) : (modVat s d f).vs.cells = s.vs.cells := rfl

@[simp] theorem vatOf_modSeq_self (s : State) (d : Nat) (f : Sequencer → Sequencer) :
    vatOf (modSeq s d f) d = { vatOf s d with seq := f (seqOf s d) } :=
  vatOf_modVat_self s d _

theorem vatOf_modSeq_ne (s : State) {d j : Nat} (f : Sequencer → Sequencer) (h : j ≠ d) : vatOf (modSeq s d f) j = vatOf s j :=
  vatOf_modVat_ne s _ h

@[simp] theorem modSeq_cells (s : State) (d : Nat) (f : Sequencer → Sequencer) : (modSeq s d f).vs.cells = s.vs.cells := rfl

@[simp] theorem seqOf_modSeq_self (s : State) (d : Nat) (f : Sequencer → Sequencer) : seqOf (modSeq s d f) d = f (seqOf s d) :=
  congrArg Vat.seq (vatOf_modSeq_self s d f)

/-- What `Keeps` carries along for the parts of a list is what the statements call `OnlyParts`. -/
theorem onlyParts_of_keeps {l : List Part} {s t : State} (h : Keeps ⟨l.contains, s⟩ t) : OnlyParts l s t := h.within

/-- A trace event touches no vat. -/
@[simp] theorem seqEvent_vs (s : State) (d type payload : Nat) : (seqEvent s d type payload).vs = s.vs :=
  onlyParts_of_keeps (l := [.obs]) (seqEvent_keeps (Keeps.refl _ s) rfl) .vs rfl

/-! ### Reading a loop counter or a register after a write -/

theorem getD_loopSet (l : List LoopCtr) (n k : Nat) (c : LoopCtr) : (loopSet l n c).getD k {} = if k = n then c else l.getD k {} := by
  induction l, n, c using loopSet.induct generalizing k with
  | case1 c => cases k <;> simp [loopSet]
  | case2 n c ih => cases k <;> simp_all [loopSet]
  | case3 x t c => cases k <;> simp [loopSet]
  | case4 x t n c ih => cases k <;> simp_all [loopSet]

theorem regGet_regSet (l : List Word) (n k : Nat) (w : Word) : regGet (regSet l n w) k = if k = n then w else regGet l k := by
  unfold regGet
  induction l, n, w using regSet.induct generalizing k with
  | case1 w => cases k <;> simp [regSet]
  | case2 n w ih => cases k <;> simp_all [regSet]
  | case3 x l w => cases k <;> simp [regSet]
  | case4 x l n w ih => cases k <;> simp_all [regSet]

/-- Any register but s0 takes the write; the rest of the sequencer is as it was (R195). -/
theorem seqSetReg_of_ne_zero {r : Nat} (h : r ≠ 0) (w : Word) (q : Sequencer) : seqSetReg r w q = { q with regs := regSet q.regs r w } :=
  if_neg h

/-! ### An instruction that executes and completes -/

/-- R196: the word at PC is performed where the sequencer may execute it. -/
theorem seqStep_of_executes {s : State} {d op w : Nat} (h : Executes s d op w) (f : State → Nat → State) : seqStep d op f s = .next (f s w) := by
  obtain ⟨hstate, hwait, hup, hgood, hw, hop, -, -⟩ := h
  simp only [seqStep, hstate, hwait, hup, hgood, ← hw, hop]
  rfl

/-- Neither a posted failure nor an accepted STOP ends the run at the instruction. -/
theorem executes_not_ending {s : State} {d op w : Nat} (h : Executes s d op w) : (seqOf s d).posted = none ∧ (seqOf s d).stopping = false := by
  obtain ⟨-, -, -, -, -, -, hposted, hstop⟩ := h
  exact ⟨hposted, hstop⟩

/-- With no posted failure and no accepted STOP, an instruction that completes leaves its sequencer as its own update makes it (R199, R209). -/
theorem seqNext_eq_modSeq {s : State} {d : Nat} {f : Sequencer → Sequencer} {q : Sequencer}
    (hq : f { seqOf s d with pc := ((seqOf s d).pc + 1) % 65536, state := 2, wait := none } = q)
    (hstate : q.state = 2) (hposted : q.posted = none) (hstop : q.stopping = false) : seqNext s d f = modSeq s d fun _ => q := by
  have hset : seqNext s d f = seqBoundary (modSeq s d fun _ => q) d := by subst hq; rfl
  rw [hset]
  simp [seqBoundary, hstate, hposted, hstop]

/-- The sequencer goes on in a state whose other vats, fibres and cells are those of s. -/
theorem goesOn_modSeq {s u : State} {d : Nat} {q : Sequencer} (hstate : q.state = 2) (hwait : q.wait = none) (hprog : q.prog = (seqOf s d).prog)
    (hfibres : (vatOf u d).fibres = (vatOf s d).fibres) (hvats : ∀ j, j ≠ d → vatOf u j = vatOf s j) (hcells : u.vs.cells = s.vs.cells) :
    GoesOn s (modSeq u d fun _ => q) d q.pc :=
  ⟨by simp, by simp [hstate], by simp [hwait], by simp [hprog], by simp [hfibres],
    fun j hj => (vatOf_modSeq_ne u _ hj).trans (hvats j hj), hcells⟩

/-! ### LEND -/

/-- The loop counter after LEND. -/
def LoopCtr.lend (c : LoopCtr) : LoopCtr := { c with active := if c.index + 1 = c.count then false else c.active, index := c.index + 1 }

/-- The sequencer after LEND of the word w. -/
def lendSeq (w : Nat) (q : Sequencer) : Sequencer :=
  let c := loopOf q (bits w 25 23)
  { q with
    pc := if c.index + 1 = c.count then (q.pc + 1) % 65536 else (q.pc + 65537 - fImm w) % 65536
    state := 2, wait := none, loops := loopSet q.loops (bits w 25 23) c.lend }

theorem exec_seqLend {s : State} {v : VatId} {w : Nat} (h : Executes s v.val 0x25 w) :
    exec (.seqLend v) s = .next (modSeq s v.val fun _ => lendSeq w (seqOf s v.val)) := by
  obtain ⟨hposted, hstop⟩ := executes_not_ending h
  show execSeqLend v s = _
  rw [execSeqLend, seqStep_of_executes h]
  dsimp only
  congr 1
  split
  · next hlast => exact seqNext_eq_modSeq (by simp [lendSeq, LoopCtr.lend, hlast]) rfl hposted hstop
  · next hmore => exact seqNext_eq_modSeq (by simp [lendSeq, LoopCtr.lend, hmore]) rfl hposted hstop

theorem loopOf_lendSeq (w l : Nat) (q : Sequencer) :
    loopOf (lendSeq w q) l = if l = bits w 25 23 then (loopOf q l).lend else loopOf q l := by
  show (loopSet _ _ _).getD l {} = _
  rw [getD_loopSet]
  split
  · next h => rw [h]
  · rfl

/-- Settles O54: the counter and PC are those of `lendSeq`, by whether INDEX has reached COUNT. -/
theorem lendCountsItsLoop : Obligations.LendCountsItsLoop := by
  rintro s v w b off c h rfl rfl rfl
  have hgo : GoesOn s (modSeq s v.val fun _ => lendSeq w (seqOf s v.val)) v.val (lendSeq w (seqOf s v.val)).pc :=
    goesOn_modSeq rfl rfl rfl rfl (fun _ _ => rfl) rfl
  refine ⟨_, exec_seqLend h, by simp [KeptRegs, lendSeq], ?_, ?_, fun hlast => ⟨?_, ?_⟩, fun hmore => ⟨?_, ?_⟩, fun l hl => ?_, ?_⟩
  · simp [loopOf_lendSeq, LoopCtr.lend]
  · simp [loopOf_lendSeq, LoopCtr.lend]
  · simp [loopOf_lendSeq, LoopCtr.lend, hlast]
  · simpa [lendSeq, hlast] using hgo
  · simp [loopOf_lendSeq, LoopCtr.lend, hmore]
  · have hoff : fImm w < 65536 := Nat.mod_lt _ (by decide)
    have hpc : (seqOf s v.val).pc + 65536 - fImm w + 1 = (seqOf s v.val).pc + 65537 - fImm w := by omega
    simpa [lendSeq, hmore, hpc] using hgo
  · simp [loopOf_lendSeq, hl]
  · exact onlyParts_of_keeps (modSeq_keeps (Keeps.refl _ s) rfl)

/-! ### TAKE -/

/-- The oldest entry of the request queue of vat d; zeros where there is none. -/
def oldestEntry (s : State) (d : Nat) : Nat × Nat × Nat := (vatOf s d).queue.headD (0, 0, 0)

/-- The state in which the oldest entry has left the request queue, with TAKE's trace event. -/
def dequeued (s : State) (d : Nat) : State :=
  seqEvent (modVat s d fun v => { v with queue := v.queue.drop 1 }) d 5 (bits (oldestEntry s d).1 16 0)

/-- The sequencer after TAKE of the entry e into SD, SD + 1 and SD + 2. -/
def takeSeq (sd : Nat) (e : Nat × Nat × Nat) (q : Sequencer) : Sequencer :=
  { q with
    pc := (q.pc + 1) % 65536, state := 2, wait := none
    regs := regSet (regSet (regSet q.regs sd (BitVec.ofNat 64 e.1)) (sd + 1) (BitVec.ofNat 64 e.2.1)) (sd + 2) (BitVec.ofNat 64 e.2.2) }

theorem vatOf_dequeued_self (s : State) (d : Nat) : vatOf (dequeued s d) d = { vatOf s d with queue := (vatOf s d).queue.drop 1 } := by
  rw [dequeued, vatOf, seqEvent_vs]
  exact vatOf_modVat_self s d _

theorem vatOf_dequeued_ne (s : State) {d j : Nat} (h : j ≠ d) : vatOf (dequeued s d) j = vatOf s j := by
  rw [dequeued, vatOf, seqEvent_vs]
  exact vatOf_modVat_ne s _ h

theorem seqOf_dequeued (s : State) (d : Nat) : seqOf (dequeued s d) d = seqOf s d := by rw [seqOf, vatOf_dequeued_self, seqOf]

theorem dequeued_cells (s : State) (d : Nat) : (dequeued s d).vs.cells = s.vs.cells := by simp [dequeued]

theorem exec_seqTake {s : State} {v : VatId} {w : Nat} (h : Executes s v.val 0x32 w) (hsd : fA w ≠ 0) :
    exec (.seqTake v) s = .next (modSeq (dequeued s v.val) v.val fun _ => takeSeq (fA w) (oldestEntry s v.val) (seqOf s v.val)) := by
  obtain ⟨hposted, hstop⟩ := executes_not_ending h
  show execSeqTake v s = _
  rw [execSeqTake, seqStep_of_executes h]
  refine congrArg _ (seqNext_eq_modSeq (s := dequeued s v.val) ?_ rfl hposted hstop)
  simp [seqSetReg_of_ne_zero, hsd, seqOf_dequeued, takeSeq, oldestEntry]

/-- The registers after TAKE: the entry's three words in SD, SD + 1 and SD + 2, the others as they were. -/
theorem sreg_takeSeq {s u : State} {d sd : Nat} (hsd : sd ≠ 0) (e : Nat × Nat × Nat) (r : Nat) :
    sreg (modSeq u d fun _ => takeSeq sd e (seqOf s d)) d r =
      if r = sd + 2 then BitVec.ofNat 64 e.2.2 else if r = sd + 1 then BitVec.ofNat 64 e.2.1 else if r = sd then BitVec.ofNat 64 e.1
      else sreg s d r := by
  have hregs : regGet (takeSeq sd e (seqOf s d)).regs r = if r = sd + 2 then BitVec.ofNat 64 e.2.2 else if r = sd + 1 then BitVec.ofNat 64 e.2.1
      else if r = sd then BitVec.ofNat 64 e.1 else regGet (seqOf s d).regs r := by simp [takeSeq, regGet_regSet]
  rw [sreg, sreg, seqOf_modSeq_self, hregs]
  by_cases hr : r = 0
  · simp [hr, hsd.symm]
  · simp [hr]

/-- Settles O55: the entry taken is the oldest, or zeros from an empty queue, and its three words are in the three registers. -/
theorem takeMovesTheOldestEntry : Obligations.TakeMovesTheOldestEntry := by
  rintro s v w _ h rfl hlo -
  have hsd : fA w ≠ 0 := by omega
  refine ⟨_, exec_seqTake h hsd, ?_, fun r hr => ?_, ?_, fun x y z l hq => ?_, fun hq => ?_⟩
  · exact goesOn_modSeq (q := takeSeq (fA w) _ (seqOf s v.val)) rfl rfl rfl (by rw [vatOf_dequeued_self]) (fun _ => vatOf_dequeued_ne s)
      (dequeued_cells s v.val)
  · rw [sreg_takeSeq hsd, if_neg (by omega), if_neg (by omega), if_neg (by omega)]
  · exact onlyParts_of_keeps (modSeq_keeps (seqEvent_keeps (modVat_keeps (Keeps.refl _ s) rfl) rfl) rfl)
  · simp [sreg_takeSeq hsd, vatOf_dequeued_self, oldestEntry, hq]
  · simp [sreg_takeSeq hsd, vatOf_dequeued_self, oldestEntry, hq, bitAt]

end Sys2Proof.Machine

/-!
PROOFS. Steps: what a step does with the command at the front, what it keeps, and what a command leaves outside its reach; the state after reset.
-/
namespace Sys2Proof.Machine

set_option Elab.async false

/-! ### What an answer keeps, read off the next state -/

theorem keeps_of_next {r : Base} {t : State} {o : Host.Outcome State Fault Refusal} (e : o = .next t) (h : KeepsO r o) : Keeps r t := by
  subst e; exact h

/-- A command's next state may come after its start, within the command's reach. -/
theorem exec_next_keeps {c : Instr} {s t : State} (h : exec c s = .next t) : Keeps ⟨(reach c).contains, s⟩ t :=
  keeps_of_next h (exec_keeps c (Keeps.refl _ s) fun _ hp => hp)

/-- A part outside a command's reach is as it was. -/
theorem exec_same {c : Instr} {s t : State} (h : exec c s = .next t) (p : Part) (hp : (reach c).contains p = false := by rfl) : p.same s t :=
  (exec_next_keeps h).within p hp

/-- Settles O60: every meaning of a command keeps what `Keeps` names, within its reach. -/
theorem commandsKeepWhatTheyDoNotReach : Obligations.CommandsKeepWhatTheyDoNotReach := by
  intro c s t h
  obtain ⟨hpending, -, -, ⟨hfloor, hcount⟩, hfree, hout, hwithin⟩ := exec_next_keeps h
  exact ⟨hwithin, hpending, hout, hfree, hfloor, hcount⟩

/-! ### Steps -/

theorem memoriesWf_iff (s : State) : s.memoriesWf = true ↔ Memory.wf s.mem = true ∧ StagingWf s.port := by
  simp [State.memoriesWf, StagingWf]

/-- Leaving the queue moves no memory. -/
theorem memoriesWf_popped (s : State) : (popped s).memoriesWf = s.memoriesWf := by
  unfold popped
  split <;> rfl

/-- Settles O59: a step keeps both kinds of memory canonical. -/
theorem stepsKeepMemoriesCanonical : Obligations.StepsKeepMemoriesCanonical := by
  intro s t hs h
  have k : Keeps ⟨fun _ => true, popped s⟩ t := keeps_of_next h (step_keeps s)
  obtain ⟨hmem, hstaging⟩ := (memoriesWf_iff _).1 ((memoriesWf_popped s).trans hs)
  exact (memoriesWf_iff t).2 ⟨k.mem hmem, k.staging hstaging⟩

/-! ### With nothing waiting -/

theorem zeroiseGo_of_closed {s : State} (h : s.sec.zeroiseOpen = false) : zeroiseGo s = s := by simp [zeroiseGo, h]

theorem scanGo_of_idle {s : State} (h : s.sec.scan = 0 ∨ s.sec.scan = 3) : scanGo s = s := by
  rcases h with h | h <;> simp [scanGo, h]

theorem warmGo_of_idle {s : State} (h : s.pow.warm = 0) : warmGo s = s := by simp [warmGo, h]

/-- Settles O57: by the two branches of `step`; an idle tick's three operations in progress are all at rest. -/
theorem stepRunsTheFrontCommand : Obligations.StepRunsTheFrontCommand := by
  refine ⟨fun s c l h => by simp only [step, h], fun s h => ?_, fun s h hz hscan hwarm => ?_⟩
  · have hstep : step s = .next (background { s with now := s.now + 1 }) := by simp only [step, h]
    have k := keeps_of_next hstep (step_keeps s)
    exact ⟨_, hstep, k.pending.trans (by simp only [popped, h])⟩
  · simp only [step, h, background]
    rw [zeroiseGo_of_closed (by exact hz), scanGo_of_idle (by exact hscan), warmGo_of_idle (by exact hwarm)]

/-! ### Reset -/

/-- Settles O58: the fields of the reset state; a vat, context or cell that no table lists reads as its default. -/
theorem resetIsCanonical : Obligations.ResetIsCanonical := by
  refine ⟨rfl, rfl, rfl, rfl, rfl, rfl, rfl, rfl, rfl, rfl, ?_, fun d => ⟨rfl, rfl⟩, fun p c => rfl, fun k => rfl⟩
  decide

end Sys2Proof.Machine

/-!
PROOFS. The JTAG port: byte strings, the boundary-scan instructions (R597) and the debug instructions (R596 to R599).
-/
namespace Sys2Proof.Machine

set_option Elab.async false

/-! ### Little-endian bytes -/

@[simp] theorem length_leBytes (n v : Nat) : (leBytes n v).length = n := by
  induction n generalizing v with
  | zero => rfl
  | succ n ih => simp [leBytes, ih]

theorem leNat_lt (b : Bytes) : leNat b < 2 ^ (8 * b.length) := by
  induction b with
  | nil => simp [leNat]
  | cons x b ih =>
    have hx : x.toNat < 256 := x.isLt
    have hp : 2 ^ (8 * (x :: b).length) = 256 * 2 ^ (8 * b.length) := by rw [List.length_cons, Nat.mul_add, Nat.pow_add]; omega
    rw [leNat, hp]
    omega

theorem leNat_leBytes (n v : Nat) : leNat (leBytes n v) = v % 2 ^ (8 * n) := by
  induction n generalizing v with
  | zero => simp [leBytes, leNat, Nat.mod_one]
  | succ n ih =>
    have hp : 2 ^ (8 * (n + 1)) = 256 * 2 ^ (8 * n) := by rw [Nat.mul_add, Nat.pow_add]; omega
    rw [leBytes, leNat, ih, hp, Nat.mod_mul]
    simp

theorem drop_leBytes (k n v : Nat) : (leBytes (k + n) v).drop k = leBytes n (v / 2 ^ (8 * k)) := by
  induction k generalizing v with
  | zero => simp
  | succ k ih =>
    have hp : 2 ^ (8 * (k + 1)) = 256 * 2 ^ (8 * k) := by rw [Nat.mul_add, Nat.pow_add]; omega
    rw [Nat.add_right_comm, leBytes, List.drop_succ_cons, ih, hp, Nat.div_div_eq_div_mul]

theorem take_leBytes (k n v : Nat) : (leBytes (k + n) v).take k = leBytes k v := by
  induction k generalizing v with
  | zero => rfl
  | succ k ih => rw [Nat.add_right_comm, leBytes, leBytes, List.take_succ_cons, ih]

/-- The field of k bytes at an offset inside the bytes of a value. -/
theorem field_leBytes {n off k : Nat} (v : Nat) (h : off + k ≤ n) : field (leBytes n v) off k = v / 2 ^ (8 * off) % 2 ^ (8 * k) := by
  obtain ⟨r, rfl⟩ := Nat.exists_eq_add_of_le h
  rw [field, slice, Nat.add_assoc, drop_leBytes, take_leBytes, leNat_leBytes]

theorem length_drawBytes (n : Nat) (s : State) : (drawBytes n s).1.length = n := by
  induction n generalizing s with
  | zero => rfl
  | succ n ih => simp [drawBytes, ih]

/-! ### One instruction -/

theorem jtag_of_up {s : State} (h : s.pow.por = false) (ir held : Nat) (out : Bytes) :
    jtag s ir held out = { s with pow := { s.pow with jtagIr := ir, pinsHeld := held }, out := s.out ++ [.tdo out] } := by
  simp [jtag, h, emitOut, modPow]

/-- The bypass register is one cell that captures 0. -/
theorem bypassOut_eq (tdi : Bytes) : bypassOut tdi = leBytes tdi.length (2 * leNat tdi % 2 ^ (8 * tdi.length)) := by
  simp [bypassOut, shiftThrough, Nat.mul_comm]

theorem jtag_bypass {s : State} (h : s.pow.por = false) (ir held : Nat) (tdi : Bytes) :
    jtag s ir held (bypassOut tdi) = { s with
      pow := { s.pow with jtagIr := ir, pinsHeld := held }, out := s.out ++ [.tdo (leBytes tdi.length (2 * leNat tdi % 2 ^ (8 * tdi.length)))] } := by
  rw [jtag_of_up h, bypassOut_eq]

theorem boundaryScan_of_up {s : State} (h : s.pow.por = false) (ir held : Nat) (tdi pins : Bytes) :
    boundaryScan s ir held tdi pins = { s with
      pow := { s.pow with
        jtagIr := ir, pinsHeld := held, boundary := leBytes 71 ((leNat pins % 2 ^ 565 + leNat tdi * 2 ^ 565) / 2 ^ (8 * tdi.length) % 2 ^ 565) }
      out := s.out ++ [.tdo (leBytes tdi.length ((leNat pins % 2 ^ 565 + leNat tdi * 2 ^ 565) % 2 ^ (8 * tdi.length)))] } := by
  have hcells : boundaryCells = 565 := rfl
  simp only [boundaryScan, shiftThrough, hcells, h, jtag_of_up h, boundaryBytes]
  rfl

/-- A 32-bit scan of the IDCODE register gives its value, whatever is shifted in. -/
theorem idcode_scan {tdi : Bytes} (h : tdi.length = 4) : (shiftThrough 32 idcode tdi).1 = [0x6B, 0x07, 0x02, 0x15] := by
  have hout : (idcode % 2 ^ 32 + leNat tdi * 2 ^ 32) % 2 ^ 32 = 0x1502076B := by rw [Nat.add_mul_mod_self_right]; rfl
  simp only [shiftThrough, h, hout]
  decide

/-- Settles O1: each instruction's registers and its scan, by the value that the scan leaves. -/
theorem boundaryScanCompletes : Obligations.BoundaryScanCompletes := by
  intro s tdi pins hup
  refine ⟨congrArg _ (boundaryScan_of_up hup _ _ _ _), congrArg _ (boundaryScan_of_up hup _ _ _ _), congrArg _ (jtag_bypass hup _ _ _),
    congrArg _ (jtag_bypass hup _ _ _), congrArg _ (jtag_bypass hup _ _ _), fun hlen => ?_⟩
  show Host.Outcome.next (jtag s 0x01 0 (shiftThrough 32 idcode tdi).1) = _
  rw [jtag_of_up hup, idcode_scan hlen]

/-! ### The debug instructions -/

theorem debugScan_locked {s : State} (h : s.pow.por = false) {scope : Nat} {ready : Bool} (hl : (bitAt (scopes s) scope && ready) = false)
    (ir : Nat) (tdi : Bytes) : debugScan s ir scope ready tdi = .next (jtag s ir 0 (bypassOut tdi)) := by
  simp only [debugScan, h, hl, Bool.false_eq_true, if_false]

theorem debugScan_unlocked {s : State} (h : s.pow.por = false) {scope : Nat} {ready : Bool} (hs : bitAt (scopes s) scope = true) (hr : ready = true)
    (ir : Nat) (tdi : Bytes) : debugScan s ir scope ready tdi = .refused .debugDataRegister := by
  simp [debugScan, h, hs, hr]

/-- What a run of memory writes by DBG_MEM may change. -/
theorem memScan_only (k : Nat) (s : State) : OnlyParts [.free, .mem] s (memScan k s) := onlyParts_of_keeps (memScan_keeps (Keeps.refl _ s) rfl rfl)

theorem drawBytes_only (n : Nat) (s : State) : OnlyParts [.free] s (drawBytes n s).2 := onlyParts_of_keeps (drawBytes_keeps n (Keeps.refl _ s) rfl)

/-- Settles O2: outside its scope each instruction is a bypass; inside, DBG_MAINT and DBG_MEM answer with as many bytes as are shifted in. -/
theorem debugInstructionsAnswer : Obligations.DebugInstructionsAnswer := by
  intro s tdi hup
  have hbypass : ∀ ir, jtag s ir 0 (bypassOut tdi) = _ := fun ir => jtag_bypass hup ir 0 tdi
  refine ⟨fun h => ?_, fun h => ?_, fun h => ?_, fun h => ?_, fun h => ?_, fun h => ?_, fun h hscan => ?_, fun h => ?_⟩
  · exact (show execDbgMaint tdi s = .next (jtag s 0x20 0 (bypassOut tdi)) by simp [execDbgMaint, h]).trans (congrArg _ (hbypass _))
  · exact (show execDbgMem tdi s = .next (jtag s 0x21 0 (bypassOut tdi)) by simp [execDbgMem, h]).trans (congrArg _ (hbypass _))
  · exact (debugScan_locked hup h _ _).trans (congrArg _ (hbypass _))
  · exact (debugScan_locked hup (by rw [h]; rfl) _ _).trans (congrArg _ (hbypass _))
  · have hd := drawBytes_only tdi.length s
    have hpor : (drawBytes tdi.length s).2.pow.por = false := (congrArg PowState.por (hd .pow rfl)).trans hup
    refine ⟨_, (drawBytes tdi.length s).1, show execDbgMaint tdi s = .next (jtag (drawBytes tdi.length s).2 0x20 0 (drawBytes tdi.length s).1) by
      simp [execDbgMaint, h, hup], ?_, length_drawBytes _ _, ?_, ?_⟩
    · rw [jtag_of_up hpor, hd .out rfl]
    · rw [jtag_of_up hpor, hd .pow rfl]
    · rw [jtag_of_up hpor, hd .mem rfl]
  · have hd := drawBytes_only tdi.length s
    have hpor : (draw (drawBytes tdi.length s).2).2.pow.por = false := (congrArg PowState.por (hd .pow rfl)).trans hup
    have hm := memScan_only ((draw (drawBytes tdi.length s).2).1 % (tdi.length + 1))
      (jtag (draw (drawBytes tdi.length s).2).2 0x21 0 (drawBytes tdi.length s).1)
    refine ⟨_, (drawBytes tdi.length s).1, show execDbgMem tdi s = .next (memScan _ (jtag (draw (drawBytes tdi.length s).2).2 0x21 0 _)) by
      simp only [execDbgMem, h, hup]; rfl, ?_, length_drawBytes _ _, ?_⟩
    · rw [hm .out rfl, jtag_of_up hpor, draw_out, hd .out rfl]
    · rw [hm .pow rfl, jtag_of_up hpor, draw_pow, hd .pow rfl]
  · exact debugScan_unlocked hup h (by simp [hscan]) _ _
  · exact debugScan_unlocked hup h rfl _ _

end Sys2Proof.Machine

/-!
PROOFS. What the shared operations leave as it was, field by field, and how a report, a record in a table and a list of counters read afterwards.
-/
namespace Sys2Proof.Machine

set_option Elab.async false
section
variable (s : State)

@[simp] theorem event_mem (n u ty p l e) : (event s n u ty p l e).mem = s.mem := (event_keeps (Keeps.refl (allBut .mem) s) rfl).rest
@[simp] theorem event_now (n u ty p l e) : (event s n u ty p l e).now = s.now := (event_keeps (Keeps.refl (allBut .now) s) rfl).rest
@[simp] theorem event_freeCount (n u ty p l e) : (event s n u ty p l e).freeCount = s.freeCount := (event_keeps (Keeps.refl (allBut .free) s) rfl).rest
@[simp] theorem event_out (n u ty p l e) : (event s n u ty p l e).out = s.out := (event_keeps (Keeps.refl (allBut .out) s) rfl).rest
@[simp] theorem event_dict (n u ty p l e) : (event s n u ty p l e).dict = s.dict := (event_keeps (Keeps.refl (allBut .dict) s) rfl).rest
@[simp] theorem event_fab (n u ty p l e) : (event s n u ty p l e).fab = s.fab := (event_keeps (Keeps.refl (allBut .fab) s) rfl).rest
@[simp] theorem event_integ (n u ty p l e) : (event s n u ty p l e).integ = s.integ := (event_keeps (Keeps.refl (allBut .integ) s) rfl).rest
@[simp] theorem event_ep (n u ty p l e) : (event s n u ty p l e).ep = s.ep := (event_keeps (Keeps.refl (allBut .ep) s) rfl).rest
@[simp] theorem event_part (n u ty p l e) : (event s n u ty p l e).part = s.part := (event_keeps (Keeps.refl (allBut .part) s) rfl).rest
@[simp] theorem event_vs (n u ty p l e) : (event s n u ty p l e).vs = s.vs := (event_keeps (Keeps.refl (allBut .vs) s) rfl).rest
@[simp] theorem event_port (n u ty p l e) : (event s n u ty p l e).port = s.port := (event_keeps (Keeps.refl (allBut .port) s) rfl).rest
@[simp] theorem event_led (n u ty p l e) : (event s n u ty p l e).led = s.led := (event_keeps (Keeps.refl (allBut .led) s) rfl).rest
@[simp] theorem event_time (n u ty p l e) : (event s n u ty p l e).time = s.time := (event_keeps (Keeps.refl (allBut .time) s) rfl).rest
@[simp] theorem event_pow (n u ty p l e) : (event s n u ty p l e).pow = s.pow := (event_keeps (Keeps.refl (allBut .pow) s) rfl).rest
@[simp] theorem event_sec (n u ty p l e) : (event s n u ty p l e).sec = s.sec := (event_keeps (Keeps.refl (allBut .sec) s) rfl).rest

@[simp] theorem report_mem (r) : (report s r).mem = s.mem := (report_keeps (Keeps.refl (allBut .mem) s) rfl rfl).rest
@[simp] theorem report_now (r) : (report s r).now = s.now := (report_keeps (Keeps.refl (allBut .now) s) rfl rfl).rest
@[simp] theorem report_freeCount (r) : (report s r).freeCount = s.freeCount := (report_keeps (Keeps.refl (allBut .free) s) rfl rfl).rest
@[simp] theorem report_out (r) : (report s r).out = s.out := (report_keeps (Keeps.refl (allBut .out) s) rfl rfl).rest
@[simp] theorem report_dict (r) : (report s r).dict = s.dict := (report_keeps (Keeps.refl (allBut .dict) s) rfl rfl).rest
@[simp] theorem report_fab (r) : (report s r).fab = s.fab := (report_keeps (Keeps.refl (allBut .fab) s) rfl rfl).rest
@[simp] theorem report_ep (r) : (report s r).ep = s.ep := (report_keeps (Keeps.refl (allBut .ep) s) rfl rfl).rest
@[simp] theorem report_part (r) : (report s r).part = s.part := (report_keeps (Keeps.refl (allBut .part) s) rfl rfl).rest
@[simp] theorem report_vs (r) : (report s r).vs = s.vs := (report_keeps (Keeps.refl (allBut .vs) s) rfl rfl).rest
@[simp] theorem report_port (r) : (report s r).port = s.port := (report_keeps (Keeps.refl (allBut .port) s) rfl rfl).rest
@[simp] theorem report_led (r) : (report s r).led = s.led := (report_keeps (Keeps.refl (allBut .led) s) rfl rfl).rest
@[simp] theorem report_time (r) : (report s r).time = s.time := (report_keeps (Keeps.refl (allBut .time) s) rfl rfl).rest
@[simp] theorem report_pow (r) : (report s r).pow = s.pow := (report_keeps (Keeps.refl (allBut .pow) s) rfl rfl).rest
@[simp] theorem report_sec (r) : (report s r).sec = s.sec := (report_keeps (Keeps.refl (allBut .sec) s) rfl rfl).rest

@[simp] theorem reportPkt_mem (c u n p d) : (reportPkt s c u n p d).mem = s.mem := (reportPkt_keeps (Keeps.refl (allBut .mem) s) rfl rfl).rest
@[simp] theorem reportPkt_now (c u n p d) : (reportPkt s c u n p d).now = s.now := (reportPkt_keeps (Keeps.refl (allBut .now) s) rfl rfl).rest
@[simp] theorem reportPkt_freeCount (c u n p d) : (reportPkt s c u n p d).freeCount = s.freeCount := (reportPkt_keeps (Keeps.refl (allBut .free) s) rfl rfl).rest
@[simp] theorem reportPkt_out (c u n p d) : (reportPkt s c u n p d).out = s.out := (reportPkt_keeps (Keeps.refl (allBut .out) s) rfl rfl).rest
@[simp] theorem reportPkt_dict (c u n p d) : (reportPkt s c u n p d).dict = s.dict := (reportPkt_keeps (Keeps.refl (allBut .dict) s) rfl rfl).rest
@[simp] theorem reportPkt_fab (c u n p d) : (reportPkt s c u n p d).fab = s.fab := (reportPkt_keeps (Keeps.refl (allBut .fab) s) rfl rfl).rest
@[simp] theorem reportPkt_ep (c u n p d) : (reportPkt s c u n p d).ep = s.ep := (reportPkt_keeps (Keeps.refl (allBut .ep) s) rfl rfl).rest
@[simp] theorem reportPkt_part (c u n p d) : (reportPkt s c u n p d).part = s.part := (reportPkt_keeps (Keeps.refl (allBut .part) s) rfl rfl).rest
@[simp] theorem reportPkt_vs (c u n p d) : (reportPkt s c u n p d).vs = s.vs := (reportPkt_keeps (Keeps.refl (allBut .vs) s) rfl rfl).rest
@[simp] theorem reportPkt_port (c u n p d) : (reportPkt s c u n p d).port = s.port := (reportPkt_keeps (Keeps.refl (allBut .port) s) rfl rfl).rest
@[simp] theorem reportPkt_led (c u n p d) : (reportPkt s c u n p d).led = s.led := (reportPkt_keeps (Keeps.refl (allBut .led) s) rfl rfl).rest
@[simp] theorem reportPkt_time (c u n p d) : (reportPkt s c u n p d).time = s.time := (reportPkt_keeps (Keeps.refl (allBut .time) s) rfl rfl).rest
@[simp] theorem reportPkt_pow (c u n p d) : (reportPkt s c u n p d).pow = s.pow := (reportPkt_keeps (Keeps.refl (allBut .pow) s) rfl rfl).rest
@[simp] theorem reportPkt_sec (c u n p d) : (reportPkt s c u n p d).sec = s.sec := (reportPkt_keeps (Keeps.refl (allBut .sec) s) rfl rfl).rest

@[simp] theorem powReport_mem (d c k x) : (powReport s d c k x).mem = s.mem := (powReport_keeps (Keeps.refl (allBut .mem) s) rfl rfl).rest
@[simp] theorem powReport_now (d c k x) : (powReport s d c k x).now = s.now := (powReport_keeps (Keeps.refl (allBut .now) s) rfl rfl).rest
@[simp] theorem powReport_freeCount (d c k x) : (powReport s d c k x).freeCount = s.freeCount := (powReport_keeps (Keeps.refl (allBut .free) s) rfl rfl).rest
@[simp] theorem powReport_out (d c k x) : (powReport s d c k x).out = s.out := (powReport_keeps (Keeps.refl (allBut .out) s) rfl rfl).rest
@[simp] theorem powReport_dict (d c k x) : (powReport s d c k x).dict = s.dict := (powReport_keeps (Keeps.refl (allBut .dict) s) rfl rfl).rest
@[simp] theorem powReport_fab (d c k x) : (powReport s d c k x).fab = s.fab := (powReport_keeps (Keeps.refl (allBut .fab) s) rfl rfl).rest
@[simp] theorem powReport_ep (d c k x) : (powReport s d c k x).ep = s.ep := (powReport_keeps (Keeps.refl (allBut .ep) s) rfl rfl).rest
@[simp] theorem powReport_part (d c k x) : (powReport s d c k x).part = s.part := (powReport_keeps (Keeps.refl (allBut .part) s) rfl rfl).rest
@[simp] theorem powReport_vs (d c k x) : (powReport s d c k x).vs = s.vs := (powReport_keeps (Keeps.refl (allBut .vs) s) rfl rfl).rest
@[simp] theorem powReport_port (d c k x) : (powReport s d c k x).port = s.port := (powReport_keeps (Keeps.refl (allBut .port) s) rfl rfl).rest
@[simp] theorem powReport_led (d c k x) : (powReport s d c k x).led = s.led := (powReport_keeps (Keeps.refl (allBut .led) s) rfl rfl).rest
@[simp] theorem powReport_time (d c k x) : (powReport s d c k x).time = s.time := (powReport_keeps (Keeps.refl (allBut .time) s) rfl rfl).rest
@[simp] theorem powReport_pow (d c k x) : (powReport s d c k x).pow = s.pow := (powReport_keeps (Keeps.refl (allBut .pow) s) rfl rfl).rest
@[simp] theorem powReport_sec (d c k x) : (powReport s d c k x).sec = s.sec := (powReport_keeps (Keeps.refl (allBut .sec) s) rfl rfl).rest

@[simp] theorem secReport_mem (d c k x) : (secReport s d c k x).mem = s.mem := (secReport_keeps (Keeps.refl (allBut .mem) s) rfl rfl).rest
@[simp] theorem secReport_now (d c k x) : (secReport s d c k x).now = s.now := (secReport_keeps (Keeps.refl (allBut .now) s) rfl rfl).rest
@[simp] theorem secReport_freeCount (d c k x) : (secReport s d c k x).freeCount = s.freeCount := (secReport_keeps (Keeps.refl (allBut .free) s) rfl rfl).rest
@[simp] theorem secReport_out (d c k x) : (secReport s d c k x).out = s.out := (secReport_keeps (Keeps.refl (allBut .out) s) rfl rfl).rest
@[simp] theorem secReport_dict (d c k x) : (secReport s d c k x).dict = s.dict := (secReport_keeps (Keeps.refl (allBut .dict) s) rfl rfl).rest
@[simp] theorem secReport_fab (d c k x) : (secReport s d c k x).fab = s.fab := (secReport_keeps (Keeps.refl (allBut .fab) s) rfl rfl).rest
@[simp] theorem secReport_ep (d c k x) : (secReport s d c k x).ep = s.ep := (secReport_keeps (Keeps.refl (allBut .ep) s) rfl rfl).rest
@[simp] theorem secReport_part (d c k x) : (secReport s d c k x).part = s.part := (secReport_keeps (Keeps.refl (allBut .part) s) rfl rfl).rest
@[simp] theorem secReport_vs (d c k x) : (secReport s d c k x).vs = s.vs := (secReport_keeps (Keeps.refl (allBut .vs) s) rfl rfl).rest
@[simp] theorem secReport_port (d c k x) : (secReport s d c k x).port = s.port := (secReport_keeps (Keeps.refl (allBut .port) s) rfl rfl).rest
@[simp] theorem secReport_led (d c k x) : (secReport s d c k x).led = s.led := (secReport_keeps (Keeps.refl (allBut .led) s) rfl rfl).rest
@[simp] theorem secReport_time (d c k x) : (secReport s d c k x).time = s.time := (secReport_keeps (Keeps.refl (allBut .time) s) rfl rfl).rest
@[simp] theorem secReport_pow (d c k x) : (secReport s d c k x).pow = s.pow := (secReport_keeps (Keeps.refl (allBut .pow) s) rfl rfl).rest
@[simp] theorem secReport_sec (d c k x) : (secReport s d c k x).sec = s.sec := (secReport_keeps (Keeps.refl (allBut .sec) s) rfl rfl).rest

@[simp] theorem send_mem (n o p) : (send s n o p).mem = s.mem := (send_keeps (Keeps.refl (allBut .mem) s) rfl).rest
@[simp] theorem send_now (n o p) : (send s n o p).now = s.now := (send_keeps (Keeps.refl (allBut .now) s) rfl).rest
@[simp] theorem send_freeCount (n o p) : (send s n o p).freeCount = s.freeCount := (send_keeps (Keeps.refl (allBut .free) s) rfl).rest
@[simp] theorem send_out (n o p) : (send s n o p).out = s.out := (send_keeps (Keeps.refl (allBut .out) s) rfl).rest
@[simp] theorem send_dict (n o p) : (send s n o p).dict = s.dict := (send_keeps (Keeps.refl (allBut .dict) s) rfl).rest
@[simp] theorem send_integ (n o p) : (send s n o p).integ = s.integ := (send_keeps (Keeps.refl (allBut .integ) s) rfl).rest
@[simp] theorem send_ep (n o p) : (send s n o p).ep = s.ep := (send_keeps (Keeps.refl (allBut .ep) s) rfl).rest
@[simp] theorem send_part (n o p) : (send s n o p).part = s.part := (send_keeps (Keeps.refl (allBut .part) s) rfl).rest
@[simp] theorem send_vs (n o p) : (send s n o p).vs = s.vs := (send_keeps (Keeps.refl (allBut .vs) s) rfl).rest
@[simp] theorem send_port (n o p) : (send s n o p).port = s.port := (send_keeps (Keeps.refl (allBut .port) s) rfl).rest
@[simp] theorem send_led (n o p) : (send s n o p).led = s.led := (send_keeps (Keeps.refl (allBut .led) s) rfl).rest
@[simp] theorem send_obs (n o p) : (send s n o p).obs = s.obs := (send_keeps (Keeps.refl (allBut .obs) s) rfl).rest
@[simp] theorem send_time (n o p) : (send s n o p).time = s.time := (send_keeps (Keeps.refl (allBut .time) s) rfl).rest
@[simp] theorem send_pow (n o p) : (send s n o p).pow = s.pow := (send_keeps (Keeps.refl (allBut .pow) s) rfl).rest
@[simp] theorem send_sec (n o p) : (send s n o p).sec = s.sec := (send_keeps (Keeps.refl (allBut .sec) s) rfl).rest

@[simp] theorem portEvent_mem (n b) : (portEvent s n b).mem = s.mem := (portEvent_keeps (Keeps.refl (allBut .mem) s) rfl rfl).rest
@[simp] theorem portEvent_now (n b) : (portEvent s n b).now = s.now := (portEvent_keeps (Keeps.refl (allBut .now) s) rfl rfl).rest
@[simp] theorem portEvent_freeCount (n b) : (portEvent s n b).freeCount = s.freeCount := (portEvent_keeps (Keeps.refl (allBut .free) s) rfl rfl).rest
@[simp] theorem portEvent_dict (n b) : (portEvent s n b).dict = s.dict := (portEvent_keeps (Keeps.refl (allBut .dict) s) rfl rfl).rest
@[simp] theorem portEvent_fab (n b) : (portEvent s n b).fab = s.fab := (portEvent_keeps (Keeps.refl (allBut .fab) s) rfl rfl).rest
@[simp] theorem portEvent_integ (n b) : (portEvent s n b).integ = s.integ := (portEvent_keeps (Keeps.refl (allBut .integ) s) rfl rfl).rest
@[simp] theorem portEvent_ep (n b) : (portEvent s n b).ep = s.ep := (portEvent_keeps (Keeps.refl (allBut .ep) s) rfl rfl).rest
@[simp] theorem portEvent_part (n b) : (portEvent s n b).part = s.part := (portEvent_keeps (Keeps.refl (allBut .part) s) rfl rfl).rest
@[simp] theorem portEvent_vs (n b) : (portEvent s n b).vs = s.vs := (portEvent_keeps (Keeps.refl (allBut .vs) s) rfl rfl).rest
@[simp] theorem portEvent_led (n b) : (portEvent s n b).led = s.led := (portEvent_keeps (Keeps.refl (allBut .led) s) rfl rfl).rest
@[simp] theorem portEvent_obs (n b) : (portEvent s n b).obs = s.obs := (portEvent_keeps (Keeps.refl (allBut .obs) s) rfl rfl).rest
@[simp] theorem portEvent_time (n b) : (portEvent s n b).time = s.time := (portEvent_keeps (Keeps.refl (allBut .time) s) rfl rfl).rest
@[simp] theorem portEvent_pow (n b) : (portEvent s n b).pow = s.pow := (portEvent_keeps (Keeps.refl (allBut .pow) s) rfl rfl).rest
@[simp] theorem portEvent_sec (n b) : (portEvent s n b).sec = s.sec := (portEvent_keeps (Keeps.refl (allBut .sec) s) rfl rfl).rest

end

/-! ### Reports -/

/-- Whether an error was reported is read off the two integrity states alone. -/
theorem Reported.congr {s s' t t' : State} {c k : Nat} (h : Reported s t c k) (hs : s'.integ = s.integ) (ht : t'.integ = t.integ) :
    Reported s' t' c k := by
  simpa only [Reported, hs, ht] using h

/-- A report made in a state with the integrity state of s is one report more than s has. -/
theorem reported_of_integ {s u t : State} {c k : Nat} {r : Report} (ht : t.integ = (report u r).integ) (hs : u.integ = s.integ)
    (hc : r.cause = c := by rfl) (hk : r.cls = k := by rfl) : Reported s t c k := by
  subst hc hk
  exact (report_reported u r).congr hs.symm ht

/-! ### Loops -/

/-- What every pass of a loop leaves as it was, the loop does. -/
theorem foldl_same {α β : Type} (π : State → β) {g : State → α → State} (hg : ∀ s x, π (g s x) = π s) (l : List α) (s : State) :
    π (l.foldl g s) = π s := by
  induction l generalizing s with
  | nil => rfl
  | cons x l ih => exact (ih _).trans (hg s x)

/-- What one pass of a loop brings about and every pass keeps, holds after the loop. -/
theorem foldl_reaches {α : Type} {P : State → Prop} {g : State → α → State} {m : α} (hm : ∀ s, P (g s m)) (hk : ∀ s x, P s → P (g s x)) {l : List α}
    (hl : m ∈ l) (s : State) : P (l.foldl g s) := by
  have hkeep : ∀ (l : List α) (s : State), P s → P (l.foldl g s) := by
    intro l
    induction l with
    | nil => exact fun _ h => h
    | cons x l ih => exact fun s h => ih _ (hk s x h)
  induction l generalizing s with
  | nil => cases hl
  | cons x l ih =>
    rcases List.mem_cons.1 hl with rfl | hl
    · exact hkeep l _ (hm s)
    · exact ih hl _

/-! ### Packets that wait at an injection port -/

/-- The packet that `send` puts at a tile's injection port. -/
theorem waiting_send (s : State) (n : Nat) (o : Initiator) (p : Packet) :
    tgetD (send s n o p).fab.waiting n [] = tgetD s.fab.waiting n [] ++ [{ owner := o, pkt := { p with src := BitVec.ofNat 12 n } }] :=
  tgetD_tmod_self s.fab.waiting n [] (· ++ _)

/-! ### The device state -/

/-- Noting a change of the device state can set the mark that the service set is absent; power is otherwise as it was. -/
theorem deviceNote_pow (b s : State) : ∃ a, (deviceNote b s).pow = { s.pow with absent := a } := by
  have hite : ∀ u : State, (if deviceState b = deviceState u then u else (List.range 4).foldl (fun s n => portEvent s n 1) u).pow = u.pow := by
    intro u
    split
    · rfl
    · exact foldl_same State.pow (fun u n => portEvent_pow u n 1) _ u
  unfold deviceNote
  dsimp only
  rw [hite]
  split
  · exact ⟨true, rfl⟩
  · exact ⟨s.pow.absent, rfl⟩

/-- A change of the device state is told to the ports and to the board; the rest of the part does not see it. -/
theorem deviceNote_only (b s : State) : OnlyParts [.out, .port, .pow] s (deviceNote b s) := by
  have k : Keeps ⟨[Part.out, .port, .pow].contains, s⟩ (deviceNote b s) := by
    have h := Keeps.refl [Part.out, .port, .pow].contains s
    have hev : ∀ (l : List Nat) {u : State}, Keeps ⟨[Part.out, .port, .pow].contains, s⟩ u →
        Keeps ⟨[Part.out, .port, .pow].contains, s⟩ (l.foldl (fun s n => portEvent s n 1) u) :=
      keeps_foldl fun _ _ hu => portEvent_keeps hu rfl rfl
    have hmark := keeps_ite (c := (!s.pow.booting && !scanning s && !serviceSet s) = true) (modPow_keeps (f := fun w => { w with absent := true }) h rfl) h
    exact keeps_ite hmark (hev _ hmark)
  exact onlyParts_of_keeps k

end Sys2Proof.Machine

/-!
PROOFS. Power, temperature, rails and the package reset (R602 to R630).
-/
namespace Sys2Proof.Machine

set_option Elab.async false

/-! ### The governor, droop and THROTTLE_N -/

theorem execThrottleNAssert_of_up {s : State} (h : s.pow.throttle = false) (hup : s.pow.por = false) :
    execThrottleNAssert s = .next (powReport (modPow s fun w => { w with throttle := true }) s.mgmtDie 0xAC 1 0) := by
  simp [execThrottleNAssert, h, hup, State.mgmtDie]

@[simp] theorem powStat_pow (s : State) (i k : Nat) : (powStat s i k).pow = { s.pow with stats := bump s.pow.stats i k } := rfl
@[simp] theorem powStat_now (s : State) (i k : Nat) : (powStat s i k).now = s.now := rfl

/-- R604: an estimate within the budget, with the limits that the governor then sets. -/
theorem execPowerGovernor_within {s : State} {mw : BitVec 32} (hup : s.pow.por = false) (hlim : mw.toNat ≤ 1000 * setting s 0x9001 0)
    (hmax : mw.toNat ≤ 1100000) (limits : List Nat) : ∃ t, execPowerGovernor mw limits s = .next t ∧ t.pow.powerNow = mw.toNat ∧
      t.pow.aboveUs = 0 ∧ t.pow.govAt = Nat.max s.now (s.pow.govAt + 1000) ∧ t.now = Nat.max s.now (s.pow.govAt + 1000) := by
  have hallowed : powerAllowed s mw.toNat = true := by simp [powerAllowed, hlim, hmax]
  have hbudget : ∀ u : State, setting u 0x9001 0 = setting s 0x9001 0 → ¬ 1000 * setting u 0x9001 0 < mw.toNat := fun u hu => by omega
  simp only [execPowerGovernor, hup, hallowed, Bool.not_true, Bool.or_false, Bool.false_eq_true, if_false, Host.Outcome.next.injEq, exists_eq_left']
  split
  · have hb := hbudget (timeReaches s (s.pow.govAt + 1000)) rfl
    split <;> simp [hb]
  · have hb := hbudget (powStat (timeReaches s (s.pow.govAt + 1000)) 1 1) rfl
    split <;> simp [hb]

/-- Settles O3: each command's next state, with its one report. -/
theorem powerResponsesComplete : Obligations.PowerResponsesComplete := by
  intro s
  refine ⟨fun h hup => ⟨_, execThrottleNAssert_of_up h hup, by simp, ?_⟩, rfl, fun d hd => ?_, fun d x hx => ?_, fun mw limits hup hlim hmax => ?_⟩
  · exact reported_of_integ rfl rfl
  · have hexec : exec (.droop d) s =
        .next (powReport (powStat (modPow s fun w => { w with droop := tput w.droop d.val (s.now + 1000) }) 2 1) d.val 0xA1 1 d.val) := by
      show execDroop d s = _
      simp [execDroop, hd]
    exact ⟨_, hexec, by simp, by simp, reported_of_integ rfl rfl⟩
  · have hexec : exec (.droopRestore d) s = .next (modPow (timeReaches s x) fun w => { w with droop := tdel w.droop d.val }) := by
      show execDroopRestore d s = _
      simp [execDroopRestore, hx]
    exact ⟨_, hexec, by simp, rfl, rfl, rfl⟩
  · exact execPowerGovernor_within hup hlim hmax limits

/-! ### Temperatures, the thermal trip and PWRFAIL_N -/

/-- The power as PWRFAIL_N leaves it (R630). -/
theorem powerFail_pow (s : State) (late : Nat) : (powerFail s late).pow.pwrfail = true ∧ (powerFail s late).pow.fault = true ∧
    (powerFail s late).pow.warm = 0 := by
  unfold powerFail withDevice
  dsimp only
  obtain ⟨a, ha⟩ := deviceNote_pow s (modPow _ _)
  rw [ha]
  exact ⟨rfl, rfl, rfl⟩

/-- The thermal trip asserts THERMTRIP_N; the first one acts as PWRFAIL_N does (R610). -/
theorem thermalTrip_pow (s : State) (detail : Nat) : (thermalTrip s detail).pow.thermtrip = true ∧
    (s.pow.thermtrip = false → s.pow.pwrfail = false → (thermalTrip s detail).pow.pwrfail = true ∧ (thermalTrip s detail).pow.fault = true) := by
  unfold thermalTrip
  split
  · next h => exact ⟨h, fun h' => absurd (h.symm.trans h') (by decide)⟩
  · refine ⟨rfl, fun _ hp => ?_⟩
    simp only [powReport_pow, hp, Bool.false_eq_true, if_false, modPow_pow]
    obtain ⟨hfail, hfault, -⟩ := powerFail_pow (powReport s s.mgmtDie 0xA3 2 detail) 0
    exact ⟨hfail, hfault⟩

/-- The die's temperature is kept, and a ms of throttling is counted (R608, R609). -/
def sampled (s : State) (d : Nat) (t : Int) : State :=
  let s := modPow s fun w => { w with temps := tput w.temps d t }
  if (tget s.pow.thermal d).isSome then powStat s 3 1 else s

theorem sampled_pow (s : State) (d : Nat) (t : Int) : ∃ st, (sampled s d t).pow = { s.pow with temps := tput s.pow.temps d t, stats := st } := by
  unfold sampled
  dsimp only
  split
  · exact ⟨_, rfl⟩
  · exact ⟨s.pow.stats, rfl⟩

theorem sampled_integ (s : State) (d : Nat) (t : Int) : (sampled s d t).integ = s.integ := by
  unfold sampled
  dsimp only
  split <;> rfl

theorem execTemperatureSample_of_up {s : State} (hup : s.pow.por = false) (d : DieId) (x : BitVec 16) : execTemperatureSample d x s =
    .next (if 110 * 8 ≤ x.toInt then thermalTrip (sampled s d.val x.toInt) d.val else sampled s d.val x.toInt) := by
  simp only [execTemperatureSample, hup, Bool.false_eq_true, if_false]
  rfl

/-- Settles O4: the temperature samples by whether the part trips; the throttle step; the power-fail pin by the pulse's length. -/
theorem thermalAndPowerFailComplete : Obligations.ThermalAndPowerFailComplete := by
  intro s hup
  refine ⟨fun d x hx => ?_, fun d x hx => ?_, fun k x hx => ?_, fun d hd => ?_, fun ns late hp hns => ?_, fun ns late hns => ?_⟩
  · obtain ⟨st, hst⟩ := sampled_pow s d.val x.toInt
    refine ⟨_, (execTemperatureSample_of_up hup d x).trans (by rw [if_neg (by omega)]), ?_, ?_, sampled_integ _ _ _⟩
    · simp [hst]
    · rw [hst]
  · obtain ⟨st, hst⟩ := sampled_pow s d.val x.toInt
    obtain ⟨htrip, hfirst⟩ := thermalTrip_pow (sampled s d.val x.toInt) d.val
    refine ⟨_, (execTemperatureSample_of_up hup d x).trans (by rw [if_pos hx]), htrip, fun h1 h2 => hfirst ?_ ?_⟩
    · rw [hst]; exact h1
    · rw [hst]; exact h2
  · refine ⟨_, show execHbmTemperatureReadout k x s = _ by
      simp only [execHbmTemperatureReadout, hup, Bool.false_eq_true, if_false, if_neg (show ¬ (105 * 8 : Int) ≤ x.toInt by omega)]; rfl, ?_, ?_⟩
    · split <;> simp
    · split <;> simp
  · refine ⟨_, show execThrottleStep d s = _ by simp only [execThrottleStep, hup, Bool.false_eq_true, if_false, if_pos hd]; rfl, ?_, fun hnone => ?_⟩
    · split <;> simp
    · rw [hnone]
      exact reported_of_integ rfl rfl
  · have hexec : exec (.pwrfailNAssert ns late) s = .next (powerFail s late.toNat) := by
      show execPwrfailNAssert ns late s = _
      simp [execPwrfailNAssert, hup, hp, hns, show ¬ ns.toNat < 200 by omega]
    exact ⟨_, hexec, powerFail_pow s late.toNat⟩
  · show execPwrfailNAssert ns late s = _
    simp [execPwrfailNAssert, hns]

/-! ### Rails -/

@[simp] theorem railOf_modRail_self (s : State) (r : Nat) (f : Rail → Rail) : railOf (modRail s r f) r = f (railOf s r) :=
  tgetD_tmod_self s.pow.rails r {} f

theorem railOf_of_pow {s t : State} (h : t.pow = s.pow) (r : Nat) : railOf t r = railOf s r := by simp only [railOf, h]

/-- What a STATUS_WORD does to its rail: it is kept (R614). -/
theorem takeStatus_pow (s : State) (r w : Nat) : (takeStatus s r w).pow = (modRail s r fun x => { x with status := w }).pow := by
  unfold takeStatus
  dsimp only
  split
  · exact powReport_pow ..
  · rfl

theorem takeStatus_reported {s t : State} (r : Nat) {w : Nat} (h : statusFault w = true) (hs : s.integ = t.integ) :
    Reported t (takeStatus s r w) 0xA5 2 := by
  have ht : takeStatus s r w = pmbusSend (powReport (modRail s r fun x => { x with status := w }) 18 0xA5 2 (r + w * 2 ^ 16)) r 0x03 [] := by
    simp [takeStatus, h]
  rw [ht]
  exact reported_of_integ (u := modRail s r fun x => { x with status := w }) rfl hs

/-- The reads of a poll go out and change nothing else. -/
theorem pollCommands_only (s : State) (r : Nat) : OnlyParts [.out] s (pollCommands.foldl (fun s c => pmbusSend s r c []) s) :=
  onlyParts_of_keeps (keeps_foldl (fun _ _ h => pmbusSend_keeps h rfl) _ (Keeps.refl _ s))

/-- A setpoint that is not reached keeps the rail's own (R606). -/
theorem railFailed_rail (s : State) (r mv : Nat) : (railOf (railFailed s r mv) r).settle = none ∧
    (railOf (railFailed s r mv) r).setpoint = (railOf s r).setpoint := by
  unfold railFailed
  dsimp only
  rw [railOf_of_pow (powReport_pow ..)]
  split <;> simp [railOf_of_pow (modDict_pow _ _)]

theorem railFailed_reported {s t : State} (r mv : Nat) (h : s.integ = t.integ) : Reported t (railFailed s r mv) 0xA4 2 := by
  unfold railFailed
  dsimp only
  split
  · exact reported_of_integ rfl h
  · exact reported_of_integ rfl h

/-- Settles O5: the two ends of a settling rail; polls and alerts of a present one. -/
theorem railCommandsComplete : Obligations.RailCommandsComplete := by
  intro s r hup
  refine ⟨fun mv x v hset hpres hhi hlo hnow => ?_, fun mv x v hset hoff => ?_, fun hpres reading => ?_, fun hpres reading => ?_, fun hpres st => ?_⟩
  · have hexec : exec (.railSettle r v) s =
        .next (modRail (pmbusSend s r.val 0x8B []) r.val fun x => { x with setpoint := mv, settle := none, cap := none }) := by
      show execRailSettle r v s = _
      simp [execRailSettle, hset, hup, hpres, hhi, hlo, hnow]
    exact ⟨_, hexec, railOf_modRail_self .., rfl, rfl⟩
  · have hexec : exec (.railSettle r v) s = .next (railFailed (timeReaches s x) r.val mv) := by
      show execRailSettle r v s = _
      have hnot : (railPresent s r.val && decide (v.toNat ≤ mv + 10) && decide (mv ≤ v.toNat + 10) && decide (s.now ≤ x)) = false := by
        rcases hoff with h | h
        · simp [show ¬ mv ≤ v.toNat + 10 by omega]
        · simp [show ¬ v.toNat ≤ mv + 10 by omega]
      simp [execRailSettle, hset, hup, hnot]
    obtain ⟨hsettle, hsetpoint⟩ := railFailed_rail (timeReaches s x) r.val mv
    exact ⟨_, hexec, hsettle, hsetpoint, railFailed_reported _ _ rfl⟩
  · have hpoll := pollCommands_only s r.val
    refine ⟨_, show execPmbusPoll r true reading s = _ by simp only [execPmbusPoll, hup, hpres]; rfl, ?_, fun hf => takeStatus_reported _ hf ?_⟩
    · rw [railOf_of_pow (takeStatus_pow ..), railOf_modRail_self, railOf_modRail_self, railOf_of_pow (hpoll .pow rfl), hpoll .now rfl]
    · exact hpoll .integ rfl
  · have hpoll := pollCommands_only s r.val
    refine ⟨_, show execPmbusPoll r false reading s = _ by simp only [execPmbusPoll, hup, hpres]; rfl, ?_, ?_⟩
    · exact reported_of_integ rfl (hpoll .integ rfl)
    · exact (powReport_pow ..).trans (hpoll .pow rfl)
  · have hexec : exec (.pmbusAlert r true st) s = .next (takeStatus (pmbusSend s r.val 0x79 []) r.val st.toNat) := by
      show execPmbusAlert r true st s = _
      simp [execPmbusAlert, hup, hpres]
    refine ⟨_, hexec, ?_, fun hf => takeStatus_reported _ hf rfl⟩
    exact (railOf_of_pow (takeStatus_pow ..) _).trans (railOf_modRail_self ..)

end Sys2Proof.Machine

/-!
PROOFS. The reset of the whole package and boot (R619, R620, R625 to R627).
-/
namespace Sys2Proof.Machine

set_option Elab.async false

/-! ### Boot -/

/-- The pins of the power state that a boot leaves alone. -/
def bootPins (s : State) : Bool × Nat := (s.pow.por, s.pow.nodeId)

theorem bootPins_of_pow {s t : State} (h : t.pow = s.pow) : bootPins t = bootPins s := by simp only [bootPins, h]

@[simp] theorem selfTest_pow (s : State) (k : Nat) (b : Bool) : (selfTest s k b).pow = s.pow :=
  (selfTest_keeps (Keeps.refl (allBut .pow) s) rfl rfl rfl).rest

@[simp] theorem burnFuse_pow (s : State) (k : Nat) : (burnFuse s k).pow = s.pow := (burnFuse_keeps (Keeps.refl (allBut .pow) s) rfl rfl).rest

@[simp] theorem bootReports_pow (s : State) (k : Nat) (b : Nat × Nat × Nat) : (bootReports s k b).pow = s.pow :=
  (bootReports_keeps (Keeps.refl (allBut .pow) s) rfl rfl).rest

@[simp] theorem ledgerPor_pow (s : State) (k : Nat) (c : Bool) : (ledgerPor s k c).pow = s.pow := (ledgerPor_keeps (Keeps.refl (allBut .pow) s) rfl rfl rfl).rest

theorem bootPins_clearMark (s : State) : bootPins (clearMark s) = bootPins s := by
  unfold clearMark
  split <;> rfl

theorem bootPins_modPow {f : PowState → PowState} (hpor : ∀ w, (f w).por = w.por) (hnode : ∀ w, (f w).nodeId = w.nodeId) (s : State) :
    bootPins (modPow s f) = bootPins s := by simp [bootPins, hpor, hnode]

theorem bootPins_bootDie (s : State) (k : Nat) : bootPins (bootDie s k) = bootPins s := bootPins_modPow (fun _ => rfl) (fun _ => rfl) s

/-- An operation that leaves the power part, done or not. -/
theorem ite_pow {c : Prop} [Decidable c] {f : State → State} (hf : ∀ u, (f u).pow = u.pow) (u : State) : (if c then f u else u).pow = u.pow := by
  split
  · exact hf u
  · rfl

theorem bootPins_boot (s : State) (fails : Nat) (clean : Bool) : bootPins (boot s fails clean) = bootPins s := by
  unfold boot
  extract_lets tested burnt fused booted dn ds m slot named cleared logged logged'
  have htested : tested.pow = s.pow := foldl_same State.pow (fun _ _ => selfTest_pow ..) _ _
  have hfused : fused.pow = tested.pow := foldl_same State.pow burnFuse_pow _ _
  have hcleared : bootPins cleared = bootPins named :=
    (bootPins_clearMark _).trans (bootPins_of_pow (ite_pow (c := burnt = true) (f := fun u => secReport u m 0xC5 2 (lowestCount u)) (fun _ => secReport_pow ..) named))
  have hlogged : logged.pow = cleared.pow := ite_pow (c := dn = true) (f := fun u => bootReports u 0 u.pow.bootDn) (fun _ => bootReports_pow ..) cleared
  have hlogged' : logged'.pow = logged.pow := ite_pow (c := ds = true) (f := fun u => bootReports u 2 u.pow.bootDs) (fun _ => bootReports_pow ..) logged
  have hnamed : bootPins named = bootPins booted := bootPins_modPow (fun _ => rfl) (fun _ => rfl) booted
  have hbooted : bootPins booted = bootPins fused := (bootPins_bootDie _ 2).trans (bootPins_bootDie fused 0)
  clear_value logged' logged cleared named booted
  calc bootPins ((List.range 4).foldl (fun s k => ledgerPor s k clean) logged')
      = bootPins cleared := bootPins_of_pow ((foldl_same State.pow (fun _ _ => ledgerPor_pow ..) _ _).trans (hlogged'.trans hlogged))
    _ = bootPins fused := hcleared.trans (hnamed.trans hbooted)
    _ = bootPins s := bootPins_of_pow (hfused.trans htested)

/-- The state that a release of POR_N boots from: fabric time starts at 0 and the straps are sampled (R620, R380). -/
def porReleased (s : State) (straps : BitVec 7) : State :=
  modPow (modTime { s with now := 0 } fun _ => { masterState := 0, units := [(timeTile 16, { state := 0, mayStep := false })] })
    fun w => { w with por := false, nodeId := straps.toNat }

theorem execPorNDeassert_of_held {s : State} (h : s.pow.por = true) (straps : BitVec 7) (test : BitVec 4) :
    execPorNDeassert straps test s = .next (newNonce (boot (porReleased s straps) test.toNat false)) := by
  simp only [execPorNDeassert, h, Bool.not_true, Bool.false_eq_true, if_false]
  rfl

/-! ### Firmware and the configuration store -/

/-- The report of a die whose firmware is another version, and the version it then has (R626). -/
def firmwareLoaded (s : State) (d : Nat) : State :=
  let u := match tget s.pow.fw d with
    | some w => if w = s.pow.image.version then s else powReport s d 0xA8 1 d
    | none => s
  modPow u fun w => { w with fw := tput w.fw d s.pow.image.version }

theorem firmwareLoaded_only (s : State) (d : Nat) : OnlyParts [.integ, .obs, .pow] s (firmwareLoaded s d) := by
  have hrefl : Keeps ⟨[Part.integ, .obs, .pow].contains, s⟩ s := Keeps.refl _ s
  unfold firmwareLoaded
  refine onlyParts_of_keeps (modPow_keeps ?_ rfl)
  split
  · exact keeps_ite hrefl (powReport_keeps hrefl rfl rfl)
  · exact hrefl

theorem firmwareLoaded_pow (s : State) (d : Nat) : (firmwareLoaded s d).pow = { s.pow with fw := tput s.pow.fw d s.pow.image.version } := by
  unfold firmwareLoaded
  dsimp only
  split
  · split <;> simp
  · rfl

theorem firmwareLoaded_reported {s : State} {d w : Nat} (h : tget s.pow.fw d = some w) (hne : w ≠ s.pow.image.version) :
    Reported s (firmwareLoaded s d) 0xA8 1 := by
  have heq : (firmwareLoaded s d).integ = (powReport s d 0xA8 1 d).integ := by simp [firmwareLoaded, h, hne]
  exact reported_of_integ heq rfl

/-- With no boot going on a die takes the firmware and nothing else starts. -/
theorem execFirmwareDistribute_of_booted {s : State} {d : DieId} (hup : s.pow.por = false) (hbooted : s.pow.booting = false)
    (hmgmt : mgmtUp s = true) (hdie : dieUp s d.val = true) (hengine : 16 ≤ d.val → engineUp s (d.val - 16) = true) :
    execFirmwareDistribute d s = .next (deviceNote s (firmwareLoaded s d.val)) := by
  have hdeckle : (decide (16 ≤ d.val) && !engineUp s (d.val - 16)) = false := by
    by_cases h : 16 ≤ d.val
    · simp [hengine h]
    · simp [h]
  have hnotBooting : (firmwareLoaded s d.val).pow.booting = false := by rw [firmwareLoaded_pow]; exact hbooted
  simp only [execFirmwareDistribute, hup, hmgmt, hdie, hbooted, hdeckle, withDevice, Bool.and_false, Bool.or_false, Bool.not_true,
    Bool.false_eq_true, if_false]
  show Host.Outcome.next (deviceNote s (if (firmwareLoaded s d.val).pow.booting && _ && _ && _ then _ else firmwareLoaded s d.val)) = _
  simp only [hnotBooting, Bool.false_and, Bool.false_eq_true, if_false]

/-- A copy that is put on a device is one of its copies. -/
theorem mem_putCopy (n : Nor) (c : StoreCopy) : c ∈ (putCopy n c).stores := by simp [putCopy]

theorem storeWrite_storeDue (s : State) (fail : Nat) : (storeWrite s fail).pow.storeDue = none := by
  unfold storeWrite
  dsimp only
  rw [foldl_same State.pow (fun _ _ => powReport_pow ..)]
  rfl

/-- A store write that fails on no device is one change of the power part. -/
theorem storeWrite_zero (s : State) : ∃ seq, storeWrite s 0 = modPow s fun w =>
    { w with
      storeDue := none
      nors := w.nors.map (fun e => (e.1, putCopy e.2
        { seq := seq, rw := s.dict.rw.filter (fun e => storeHolds e.1), cfg := s.cfg.filter (fun e => storeHolds e.1), valid := true })) } := by
  have hok : ∀ n, bitAt 0 n = false := fun n => by simp [bitAt]
  exact ⟨(s.pow.nors.flatMap (fun e => e.2.stores.map (·.seq))).foldl Nat.max 0 + 1, by simp [storeWrite, hok]⟩

theorem execConfigStoreWrite_due {s : State} (hdue : s.pow.storeDue.isSome = true) (hmgmt : mgmtUp s = true) (fail : BitVec 2) :
    execConfigStoreWrite fail s = .next (storeWrite s fail.toNat) := by
  obtain ⟨x, hx⟩ := Option.isSome_iff_exists.1 hdue
  simp [execConfigStoreWrite, hx, hmgmt]

/-- Settles O6: assertion replaces the state by that of a package reset; deassertion boots it; firmware and store writes by their one change each. -/
theorem packageResetCompletes : Obligations.PackageResetCompletes := by
  intro s
  refine ⟨fun hup => ?_, fun straps test hpor => ?_, fun d hup hbooted hmgmt hdie hengine => ?_, fun hdue hmgmt => ?_, fun fail hdue hmgmt => ?_⟩
  · refine ⟨_, show execPorNAssert s = _ by simp only [execPorNAssert, hup, Bool.false_eq_true, if_false]; rfl, ?_⟩
    refine ⟨rfl, rfl, rfl, rfl, rfl, rfl, rfl, rfl, rfl, rfl, rfl, rfl, rfl, rfl, rfl, rfl⟩
  · have honly : OnlyParts [.free, .integ, .led, .obs, .pow, .sec] (porReleased s straps) (newNonce (boot (porReleased s straps) test.toNat false)) :=
      onlyParts_of_keeps (newNonce_keeps (boot_keeps (Keeps.refl _ _) rfl rfl rfl rfl rfl) rfl rfl)
    have hpins : bootPins (newNonce (boot (porReleased s straps) test.toNat false)) = (false, straps.toNat) :=
      (bootPins_of_pow (newNonce_keeps (Keeps.refl (allBut .pow) _) rfl rfl).rest).trans (bootPins_boot ..)
    obtain ⟨hup, hnode⟩ := Prod.mk.inj hpins
    exact ⟨_, execPorNDeassert_of_held hpor straps test, hup, hnode, honly .now rfl, congrArg TimeState.masterState (honly .time rfl),
      honly .mem rfl, honly .out rfl⟩
  · have hnote := deviceNote_only s (firmwareLoaded s d.val)
    have honly := firmwareLoaded_only s d.val
    obtain ⟨a, hpow⟩ := deviceNote_pow s (firmwareLoaded s d.val)
    refine ⟨_, execFirmwareDistribute_of_booted hup hbooted hmgmt hdie hengine, ?_, (hnote .mem rfl).trans (honly .mem rfl),
      (hnote .dict rfl).trans (honly .dict rfl), fun w hw hne => (firmwareLoaded_reported hw hne).congr rfl (hnote .integ rfl)⟩
    rw [hpow, firmwareLoaded_pow]
    simp
  · obtain ⟨seq, hwrite⟩ := storeWrite_zero s
    refine ⟨_, (execConfigStoreWrite_due hdue hmgmt 0).trans (congrArg _ hwrite), rfl, rfl, rfl, rfl, fun n x hx => ?_⟩
    obtain ⟨e, -, he⟩ := List.mem_map.1 hx
    obtain ⟨rfl, rfl⟩ := Prod.mk.inj he
    exact ⟨_, mem_putCopy _ _, rfl, rfl, rfl⟩
  · exact ⟨_, execConfigStoreWrite_due hdue hmgmt fail, storeWrite_storeDue s fail.toNat⟩

end Sys2Proof.Machine

/-!
PROOFS. Fabric time: the master, the units, their messages and the tree (R380 to R387).
-/
namespace Sys2Proof.Machine

set_option Elab.async false

/-! ### Time units -/

@[simp] theorem unitAt_modUnit_self (s : State) (n : Nat) (f : TimeUnit → TimeUnit) : unitAt (modUnit s n f) n = f (unitAt s n) :=
  tgetD_tmod_self s.time.units n {} f

theorem unitAt_modUnit_ne (s : State) {n j : Nat} (f : TimeUnit → TimeUnit) (h : j ≠ n) : unitAt (modUnit s n f) j = unitAt s j :=
  tgetD_tmod_ne s.time.units {} {} f h

theorem unitAt_of_time {s t : State} (h : t.time = s.time) (n : Nat) : unitAt t n = unitAt s n := by simp only [unitAt, h]

@[simp] theorem timeReport_time (s : State) (n c d : Nat) : (timeReport s n c d).time = s.time := report_time ..
@[simp] theorem timeReport_now (s : State) (n c d : Nat) : (timeReport s n c d).now = s.now := report_now ..
@[simp] theorem sendTime_time (s : State) (n d k e : Nat) : (sendTime s n d k e).time = s.time := send_time ..

/-- A packet that its tile takes leaves everything but the arrivals. -/
theorem takes_only {s u : State} {n : NodeId} {p : Packet} (h : Takes s n p u) : OnlyParts [.fab] s u := by
  obtain ⟨l, rfl⟩ := takeArrived_fab h.2.2
  exact onlyParts_of_keeps (modFab_keeps (Keeps.refl _ s) rfl)

theorem takes_waiting {s u : State} {n : NodeId} {p : Packet} (h : Takes s n p u) : u.fab.waiting = s.fab.waiting := by
  obtain ⟨l, rfl⟩ := takeArrived_fab h.2.2
  rfl

theorem takes_unit {s u : State} {n : NodeId} {p : Packet} (h : Takes s n p u) (k : Nat) : unitAt u k = unitAt s k :=
  unitAt_of_time (takes_only h .time rfl) k

/-! ### Table 10.7 -/

theorem timePayload_kind (s : State) (n k e : Nat) : field (timePayload s n k e) 0 1 % 16 = k % 16 := by
  rw [timePayload, field_leBytes _ (by decide)]
  omega

theorem timePayload_echo (s : State) (n k : Nat) {e : Nat} (he : e < 2 ^ 80) : field (timePayload s n k e) 12 10 = e := by
  rw [timePayload, field_leBytes _ (by decide)]
  omega

/-- A time message waits at its tile's injection port. -/
theorem waiting_sendTime (s : State) (n d k e : Nat) : ∃ x : OutPacket, tgetD (sendTime s n d k e).fab.waiting n [] = tgetD s.fab.waiting n [] ++ [x] ∧
    x.pkt.opcode = 0x47 ∧ x.pkt.dest = BitVec.ofNat 12 d ∧ x.pkt.payload = timePayload s n k e :=
  ⟨_, waiting_send .., rfl, rfl, rfl⟩

/-! ### A SYNC with a small error -/

/-- The servo moves a unit's count by no more than the error (R386). -/
theorem slew_natAbs (s : State) (e : Int) (since : Tick) : (slew s e since).1.natAbs ≤ e.natAbs := by
  have hmod : (draw s).1 % (Nat.min e.natAbs ((s.now - since) * 65536 / 100) + 1) ≤ e.natAbs :=
    Nat.le_trans (Nat.lt_succ_iff.1 (Nat.mod_lt _ (Nat.succ_pos _))) (Nat.min_le_left _ _)
  show (if e < 0 then Int.ofNat _ else -Int.ofNat _).natAbs ≤ _
  split
  · exact hmod
  · rw [Int.natAbs_neg]
    exact hmod

/-- R386, R387: a unit that is LOCKED or in HOLDOVER takes a SYNC with an error of at most 1 ns. -/
theorem takeSync_small {s : State} {n : Nat} {e : Int} (hstate : (unitAt s n).state ≤ 1) (he : e.natAbs ≤ 65536) (depth : Nat) :
    (unitAt (takeSync s n e depth) n).error = e ∧ (unitAt (takeSync s n e depth) n).state = 0 ∧ (unitAt (takeSync s n e depth) n).depth = depth ∧
      (unitAt (takeSync s n e depth) n).lastSync = s.now ∧
      ((unitAt (takeSync s n e depth) n).offset - (unitAt s n).offset).natAbs ≤ e.natAbs := by
  have hslew := slew_natAbs s e (unitAt s n).lastSync
  have hnow : (slew s e (unitAt s n).lastSync).2.now = s.now := (slew_keeps (Keeps.refl (allBut .now) s) rfl).rest
  have hbig : ¬ 3 * 65536 < e.natAbs := by omega
  have hsub (a b : Int) : a + b - a = b := by omega
  rcases Nat.le_one_iff_eq_zero_or_eq_one.1 hstate with h | h
  · simpa [takeSync, h, hbig, hnow, hsub] using hslew
  · simpa [takeSync, h, he, hnow, hsub] using hslew

/-! ### The tree -/

theorem masterTile_mem {s : State} (h : s.time.master = 16 ∨ s.time.master = 18) : masterTile s ∈ allTiles := by
  rcases h with h | h <;> rw [masterTile, h] <;> decide +kernel

/-- A unit as the tree leaves the master's (R384). -/
def AtRoot (u : TimeUnit) : Prop := u.parent = 0 ∧ u.depth = 0 ∧ u.state = 0

/-- The tree is computed tile by tile: each pass keeps every other tile's unit, and that of the master's tile puts its unit at the
root. -/
theorem execTimeTreeRecompute_passes {s : State} (h : mgmtUp s = true) : ∃ g : State → Nat → State,
    execTimeTreeRecompute s = .next (allTiles.foldl g s) ∧ (∀ u, AtRoot (unitAt (g u (masterTile s)) (masterTile s))) ∧
      (∀ u n, n ≠ masterTile s → unitAt (g u n) (masterTile s) = unitAt u (masterTile s)) := by
  refine ⟨_, by simp only [execTimeTreeRecompute, h]; rfl, fun u => ?_, fun u n hn => ?_⟩
  · rw [if_pos rfl, unitAt_modUnit_self]
    exact ⟨rfl, rfl, rfl⟩
  · rw [if_neg hn]
    split
    all_goals
      split
      · rfl
      · split <;> exact unitAt_modUnit_ne u _ (Ne.symm hn)

/-- Settles O7: each command's own change of the unit or of the master; the messages by their payload; the tree by the pass that takes the master's tile. -/
theorem fabricTimeCommandsComplete : Obligations.FabricTimeCommandsComplete := by
  intro s
  refine ⟨fun hm hs hup => ?_, fun hm hup => ?_, fun n u hu h0 hne hup => ?_, fun n u hu h1 hne hup => ?_, fun n hup => ?_, fun n m hup hm => ?_,
    fun n p a u ht hop hk => ?_, fun n p a u t1 ht hop hk hparent ht1 => ?_, fun n p a u e ht hop hk hparent hdelay he hstate hsmall => ?_,
    fun hup hm => ?_⟩
  · have hexec : exec .refclkLost s = .next (timeReport (modTime s fun t => { t with masterState := 1, timeCounts := bump t.timeCounts 0 })
        (masterTile s) 0xE4 0) := by
      show execRefclkLost s = _
      simp [execRefclkLost, hm, hs, hup]
    exact ⟨_, hexec, by simp, by simp, reported_of_integ rfl rfl⟩
  · show execRefclkReturn s = _
    simp [execRefclkReturn, hm, hup, modTime]
  · subst hu
    have hexec : exec (.syncSilence n) s = .next (modUnit (timeReaches s ((unitAt s n.toNat).lastSync + 4000 * setting s 0x2842 0)) n.toNat
        fun u => { u with state := 1, holdSince := Nat.max s.now ((unitAt s n.toNat).lastSync + 4000 * setting s 0x2842 0) }) := by
      show execSyncSilence n s = _
      simp [execSyncSilence, h0, hne, hup]
    refine ⟨_, hexec, rfl, ?_⟩
    rw [unitAt_modUnit_self]
    rfl
  · subst hu
    have hexec : exec (.holdoverExpired n) s = .next (timeReport (modTime (modUnit (timeReaches s ((unitAt s n.toNat).holdSince + 1000 * setting s 0x2844 0))
        n.toNat fun u => { u with state := 3 }) fun t => { t with timeCounts := bump t.timeCounts 3 }) n.toNat 0xE6 0) := by
      show execHoldoverExpired n s = _
      simp [execHoldoverExpired, h1, hne, hup]
    refine ⟨_, hexec, ?_, by simp [modUnit], reported_of_integ rfl rfl⟩
    rw [unitAt_of_time (timeReport_time ..)]
    exact unitAt_modUnit_self (timeReaches s _) n.toNat fun u => { u with state := 3 }
  · refine ⟨_, show execTimeSyncSend n s = _ by simp only [execTimeSyncSend, hup]; rfl, ?_⟩
    rw [unitAt_modUnit_self, unitAt_of_time (foldl_same State.time (fun _ _ => sendTime_time ..) _ s)]
  · obtain ⟨x, hwait, hop, hdest, hpay⟩ := waiting_sendTime s n.toNat m 2 0
    have hexec : exec (.delayPeriod n) s = .next (sendTime s n.toNat m 2 0) := by
      show execDelayPeriod n s = _
      simp [execDelayPeriod, hm, hup]
    exact ⟨_, x, hexec, hwait, hop, hdest, by rw [hpay, timePayload_kind], sendTime_time ..⟩
  · have hnext : exec (.delayReq n p a) s = _ := onArrival_next ht (by simp [hop])
    rw [if_pos hk] at hnext
    obtain ⟨x, hwait, hxop, hdest, hpay⟩ := waiting_sendTime u n.toNat p.src.toNat 3 a.toNat
    refine ⟨_, x, hnext, hwait.trans (by rw [takes_waiting ht]), hxop, by simpa using hdest, by rw [hpay, timePayload_kind], ?_, ?_⟩
    · rw [hpay, timePayload_echo _ _ _ a.isLt]
    · exact (sendTime_time ..).trans (takes_only ht .time rfl)
  · have hunit := takes_unit ht n.toNat
    have hexec : exec (.delayRsp n p a) s = .next (modUnit u n.toNat fun v => { v with
        delay := (Int.ofNat a.toNat - Int.ofNat t1 - (Int.ofNat (timeTx p) - Int.ofNat (timeEcho p))) / 2, haveDelay := true, t1 := none }) := by
      refine (onArrival_next (f := _) ht (by simp [hop])).trans ?_
      have hparent' : fromParent u n.toNat p = true := by simpa only [fromParent, hunit] using hparent
      simp only [hunit, ht1, hk, hparent']
      rfl
    exact ⟨_, hexec, by rw [unitAt_modUnit_self, hunit]⟩
  · have hunit := takes_unit ht n.toNat
    have hexec : exec (.timeSync n p a) s = .next (takeSync u n.toNat e (field p.payload 3 1 + 1)) := by
      refine (onArrival_next (f := _) ht (by simp [hop])).trans ?_
      have hparent' : fromParent u n.toNat p = true := by simpa only [fromParent, hunit] using hparent
      simp [hunit, hk, hparent', hdelay, he]
    obtain ⟨herr, hst, hdep, hlast, hoff⟩ := takeSync_small (s := u) (n := n.toNat) (by rw [hunit]; exact hstate) hsmall (field p.payload 3 1 + 1)
    exact ⟨_, hexec, herr, hst, hdep, hlast.trans (takes_only ht .now rfl), by rwa [hunit] at hoff⟩
  · obtain ⟨g, hexec, hroot, hother⟩ := execTimeTreeRecompute_passes hup
    refine ⟨_, hexec, ?_⟩
    refine foldl_reaches (P := fun u => AtRoot (unitAt u (masterTile s))) hroot (fun u n hu => ?_) (masterTile_mem hm) s
    by_cases hn : n = masterTile s
    · rw [hn]
      exact hroot u
    · rw [hother u n hn]
      exact hu

end Sys2Proof.Machine

/-!
PROOFS. Wall time (R360, R389 to R391), die-to-die links and the boundaries between islands (R271 to R274, R366, R371 to R378).
-/
namespace Sys2Proof.Machine

set_option Elab.async false

/-! ### Wall time -/

theorem ofInt_ofNat_of_lt {n v : Nat} (h : v < 2 ^ n) : ofInt n (Int.ofNat v) = v := by
  have hmod : (Int.ofNat v) % Int.ofNat (2 ^ n) = Int.ofNat (v % 2 ^ n) := rfl
  rw [ofInt, hmod, Nat.mod_eq_of_lt h]
  rfl

theorem wallAt_lt (t : TimeState) (ft : Nat) : wallAt t ft < 2 ^ 64 := by
  have hpos : (0 : Int) < Int.ofNat (2 ^ 64) := by decide
  have hlt := Int.emod_lt_of_pos (Int.ofNat t.wallBase + (Int.ofNat ft - Int.ofNat t.ftBase) * (2 ^ 40 + t.rate) / 2 ^ 40) hpos
  have hge := Int.emod_nonneg (Int.ofNat t.wallBase + (Int.ofNat ft - Int.ofNat t.ftBase) * (2 ^ 40 + t.rate) / 2 ^ 40) (Int.ne_of_gt hpos)
  have hcast : Int.ofNat (2 ^ 64) = 18446744073709551616 := rfl
  unfold wallAt ofInt
  omega

/-- At its base a mapping gives its base (R389). -/
theorem wallAt_base {t : TimeState} (h : t.wallBase < 2 ^ 64) : wallAt t t.ftBase = t.wallBase := by
  simp only [wallAt, Int.sub_self, Int.zero_mul, Int.zero_ediv, Int.add_zero]
  exact ofInt_ofNat_of_lt h

/-- An edge that the part takes: wide enough, enabled, at a master that is up, with no mismatch outstanding (R391). -/
theorem execPpsEdge_taken {s : State} {w : BitVec 16} (hw : 100 ≤ w.toNat) (hen : setting s 0x2860 4 ≠ 0) (hm : s.time.master = 16)
    (hup : dieUp s 16 = true) (hpps : s.time.pps ≠ 4) (rate : BitVec 32) :
    (1000000 < (ppsError s).natAbs → ∃ d, execPpsEdge w rate s =
      .next (timeReport (modTime s fun t => { t with pps := 4, ppsAt := s.now }) (masterTile s) 0xE9 d)) ∧
    ((ppsError s).natAbs ≤ 1000000 → ∃ first pps, (pps = 1 ∨ pps = 2) ∧ execPpsEdge w rate s =
      .next (modTime (setRate s rate.toInt) fun t => { t with ppsAt := s.now, ppsFirst := first, pps := pps })) := by
  have hgo : ¬ (decide (w.toNat < 100) || decide (setting s 0x2860 4 = 0) || decide (s.time.master ≠ 16) || !dieUp s 16 || decide (s.time.pps = 4)) = true := by
    simp [hw, hen, hm, hup, hpps]
  constructor
  · intro he
    exact ⟨_, by rw [execPpsEdge, if_neg hgo]; exact if_pos he⟩
  · intro he
    have hval : ∀ c : Bool, (if c then 2 else 1) = 1 ∨ (if c then 2 else 1) = 2 := by decide
    exact ⟨_, _, hval _, by rw [execPpsEdge, if_neg hgo]; exact if_neg (by omega)⟩

/-- Settles O8: an edge by its error, the loss of the edges, and the limited frequency. -/
theorem wallTimeCommandsComplete : Obligations.WallTimeCommandsComplete := by
  intro s
  refine ⟨fun w rate hw hen hm hup hpps he => ?_, fun w rate hw hen hm hup hpps he => ?_, fun hpps => ?_, fun n hup hlow => ?_⟩
  · obtain ⟨d, hexec⟩ := (execPpsEdge_taken hw hen hm hup hpps rate).1 he
    exact ⟨_, hexec, timeReport_time .., reported_of_integ rfl rfl⟩
  · obtain ⟨first, pps, hval, hexec⟩ := (execPpsEdge_taken hw hen hm hup hpps rate).2 he
    exact ⟨_, hexec, rfl, rfl, rfl, rfl, hval, wallAt_base (t := { s.time with
      wallBase := wallAt s.time s.now, ftBase := s.now, rate := rate.toInt, ppsAt := s.now, ppsFirst := first, pps := pps }) (wallAt_lt _ _)⟩
  · have hexec : exec .ppsLost s = .next (timeReport (modTime (timeReaches s (s.time.ppsAt + 1100000000)) fun t =>
        { t with pps := 3, timeCounts := bump t.timeCounts 1 }) (masterTile s) 0xE8 0) := by
      have hgo : (decide (s.time.pps = 1) || decide (s.time.pps = 2)) = true := by simpa using hpps
      show execPpsLost s = _
      rw [execPpsLost, if_pos hgo]
      rfl
    exact ⟨_, hexec, by simp, by simp, by simp, by simp, reported_of_integ rfl rfl⟩
  · have hgo : (dieUp s (dieOf n.toNat) && decide (dieKHz s (dieOf n.toNat) < setting s 0x2801 (dieOf n.toNat + 1))) = true := by simp [hup, hlow]
    obtain ⟨x, hexec⟩ : ∃ x, exec (.freqLimited n) s = .next (report (modTime s fun t => { t with limitedMs := tinc t.limitedMs (dieOf n.toNat) 1 })
        { cause := 0xEA, cls := 1, unit := 0x17, source := serviceTile (dieOf n.toNat), detail := x }) := ⟨_, if_pos hgo⟩
    refine ⟨_, hexec, ?_, reported_of_integ rfl rfl⟩
    rw [report_time]
    exact tgetD_tmod_self s.time.limitedMs (dieOf n.toNat) 0 (· + 1)

/-! ### Links -/

theorem linkState_of_fab {s t : State} (h : t.fab = s.fab) (n p : Nat) : linkState t n p = linkState s n p := by simp only [linkState, h]

@[simp] theorem linkState_setLink_self (s : State) (n p st : Nat) : linkState (setLink s n p st) n p = st := by
  rw [setLink, linkState_of_fab (event_fab ..)]
  exact tgetD_tput_self ..

@[simp] theorem setLink_time (s : State) (n p st : Nat) : (setLink s n p st).time = s.time := (setLink_keeps (Keeps.refl (allBut .time) s) rfl rfl).rest

/-- A mesh port with a neighbour is not the local port. -/
theorem port_ne_zero_of_neighbour {n p m : Nat} (h : neighbour n p = some m) : p ≠ 0 := by
  rintro rfl
  simp [neighbour] at h

/-! ### Boundaries -/

/-- The record of a boundary's side. -/
def boundAt (s : State) (key : Nat) : Boundary := tgetD s.time.bounds key {}

theorem boundAt_of_time {s t : State} (h : t.time = s.time) (k : Nat) : boundAt t k = boundAt s k := by simp only [boundAt, h]

theorem boundAt_aliveSide_self (s : State) (k d g : Nat) : (boundAt (aliveSide s k d g) k).state = 0 ∧ (boundAt (aliveSide s k d g) k).cgen = g := by
  have h : ∀ x : Boundary, tgetD (tput s.time.bounds k x) k {} = x := fun x => tgetD_tput_self ..
  unfold aliveSide boundAt
  dsimp only
  split <;> simp

theorem boundAt_aliveSide_ne (s : State) {k j : Nat} (d g : Nat) (h : j ≠ k) : boundAt (aliveSide s k d g) j = boundAt s j := by
  unfold aliveSide boundAt
  dsimp only
  split <;> exact tgetD_tput_ne _ _ _ h

/-- Both sides of a boundary made alive are ALIVE under one generation (R376, R377). -/
theorem realiveTiles_bounds (s : State) (n p m : Nat) : (boundAt (realiveTiles s n p m) (8 * n + p)).state = 0 ∧
    (boundAt (realiveTiles s n p m) (8 * m + opposite p)).state = 0 ∧
    (boundAt (realiveTiles s n p m) (8 * n + p)).cgen = (boundAt (realiveTiles s n p m) (8 * m + opposite p)).cgen := by
  unfold realiveTiles
  extract_lets ka kb g u
  have hb := boundAt_aliveSide_self (aliveSide s ka (dieOf n) g) kb (dieOf m) g
  have ha := boundAt_aliveSide_self s ka (dieOf n) g
  have hab : (boundAt u ka).state = 0 ∧ (boundAt u ka).cgen = g := by
    by_cases h : ka = kb
    · rw [h]
      exact hb
    · rw [boundAt_aliveSide_ne _ _ _ h]
      exact ha
  exact ⟨hab.1, hb.1, hab.2.trans hb.2.symm⟩

theorem boundAt_fenceSide_self (s : State) (n p : Nat) : (boundAt (fenceSide s n p) (8 * n + p)).state = 1 := by
  unfold fenceSide
  dsimp only
  split
  · next h => exact h
  · simp [boundAt]

theorem boundAt_fenceSide_ne (s : State) {n p k : Nat} (h : k ≠ 8 * n + p) : boundAt (fenceSide s n p) k = boundAt s k := by
  unfold fenceSide
  dsimp only
  split
  · rfl
  · exact tgetD_tput_ne _ _ _ h

/-- Fencing both sides fences the near one. -/
theorem boundAt_fenceBoth_near (s : State) (n p : Nat) : (boundAt (fenceBoth s n p) (8 * n + p)).state = 1 := by
  unfold fenceBoth
  split
  · next m _ =>
    by_cases h : 8 * n + p = 8 * m + opposite p
    · rw [h]
      exact boundAt_fenceSide_self ..
    · rw [boundAt_fenceSide_ne _ h]
      exact boundAt_fenceSide_self ..
  · exact boundAt_fenceSide_self ..

@[simp] theorem redSweep_time (s : State) : (redSweep s).time = s.time := (redSweep_keeps (Keeps.refl (allBut .time) s) rfl rfl rfl rfl rfl rfl).rest

/-- What a fence does to time is its record of the side (R373). -/
theorem fenceLink_time (s : State) (n p : Nat) : (fenceLink s n p).time = (fenceSide s n p).time := by
  unfold fenceLink
  dsimp only
  split
  · rw [redSweep_time]
    split <;> simp
  · split <;> simp

theorem boundAt_fenceLink (s : State) (n p : Nat) : (boundAt (fenceLink s n p) (8 * n + p)).state = 1 := by
  rw [boundAt_of_time (fenceLink_time s n p)]
  exact boundAt_fenceSide_self ..

theorem boundAt_linkFails (s : State) (n p : Nat) (b : Bool) : (boundAt (linkFails s n p b) (8 * n + p)).state = 1 := by
  have hfail : (boundAt (failLink s n p 0x06) (8 * n + p)).state = 1 := by
    unfold failLink
    dsimp only
    rw [boundAt_of_time (report_time ..), boundAt_of_time (event_time ..)]
    exact boundAt_fenceBoth_near ..
  unfold linkFails
  dsimp only
  rw [boundAt_of_time (redSweep_time _)]
  split <;> exact hfail

/-- Settles O9: a link's states by `setLink`, a boundary's by the side's record that fences and re-alives write. -/
theorem linkAndBoundaryCommandsComplete : Obligations.LinkAndBoundaryCommandsComplete := by
  intro s n port m hm
  have hport : port.val ≠ 0 := port_ne_zero_of_neighbour hm
  refine ⟨fun lanes gt32 hdie ha hb hst hrate => ?_, fun hdie hst => ?_, fun hdie hst => ?_, fun hdie hst hdeg => ?_, fun hdie hup => ?_,
    fun hdie hst => ?_, fun ha => ?_, fun ha halive cmd => ?_, fun ha hb hdie hst => ?_⟩
  · have hst' : (linkState s n.toNat port.val == 1 || linkState s n.toNat port.val == 6) = true := by simpa using hst
    have hrate' : (gt32 || (true && setting s 0x2006 0 != 0)) = true := by
      cases gt32
      · simpa using hrate rfl
      · rfl
    refine ⟨_, show execLinkBringUp n port lanes gt32 true true s = _ by
      simp only [execLinkBringUp, hm, hdie, ha, hb, hst', hrate']; rfl, linkState_setLink_self .., ?_⟩
    simp only [setLink_time]
    exact realiveTiles_bounds _ n.toNat port.val m
  · refine ⟨_, show execLinkRetrain n port 0 s = .next (setLink s n.toNat port.val 3) by
      simp [execLinkRetrain, hdie, hst], linkState_setLink_self .., setLink_time ..⟩
  · refine ⟨_, show execLinkRetrain n port 1 s = .next (setLink s n.toNat port.val 2) by
      simp [execLinkRetrain, hdie, hst], linkState_setLink_self ..⟩
  · refine ⟨_, show execLinkRetrain n port 2 s = .next (setLink s n.toNat port.val 4) by
      simp [execLinkRetrain, hdie, hst, hdeg], linkState_setLink_self ..⟩
  · show execLinkCrcRetry n port s = _
    simp [execLinkCrcRetry, hdie, hup, modFab]
  · have hexec : exec (.linkFailure n port) s = .next (deviceNote s (linkFails s n.toNat port.val true)) := by
      have hst' : (isDieLink n.toNat port.val && (linkState s n.toNat port.val == 2 || linkState s n.toNat port.val == 3 ||
          linkState s n.toNat port.val == 4)) = true := by simpa [hdie, or_assoc] using hst
      show execLinkFailure n port s = _
      rw [execLinkFailure, if_pos hst']
      rfl
    refine ⟨_, hexec, ?_, exec_same hexec .dict, exec_same hexec .led, exec_same hexec .sec⟩
    rw [(deviceNote_only s _) .time rfl]
    exact boundAt_linkFails ..
  · have hexec : exec (.aliveFall n port) s = .next (deviceNote s (fenceLink s n.toNat port.val)) := by
      show execAliveFall n port s = _
      simp [execAliveFall, ha, hport, hm, withDevice]
    refine ⟨_, hexec, ?_⟩
    rw [(deviceNote_only s _) .time rfl]
    exact boundAt_fenceLink ..
  · refine ⟨_, show execHandshakeTimeout n port cmd s = _ by simp only [execHandshakeTimeout, ha, hport, hm, halive]; rfl, ?_⟩
    rw [report_time]
    exact boundAt_fenceLink ..
  · have hexec : exec (.realive n port) s = .next (deviceNote s (setLink (realiveTiles s n.toNat port.val m) n.toNat port.val 2)) := by
      show execRealive n port s = _
      simp [execRealive, ha, hport, hm, hdie, hb, hst, withDevice]
    have hnote := deviceNote_only s (setLink (realiveTiles s n.toNat port.val m) n.toNat port.val 2)
    obtain ⟨hnear, hfar, -⟩ := realiveTiles_bounds s n.toNat port.val m
    refine ⟨_, hexec, ?_, ?_, ?_⟩
    · rw [linkState_of_fab (hnote .fab rfl), linkState_setLink_self]
    · rw [hnote .time rfl, setLink_time]
      exact hnear
    · rw [hnote .time rfl, setLink_time]
      exact hfar

end Sys2Proof.Machine

/-!
PROOFS. Scrubbing, table repair, host completions (R321, R329, R330, R332), and the loss of dies and of management (R43, R347, R351).
-/
namespace Sys2Proof.Machine

set_option Elab.async false

/-! ### What reports leave of the integrity state -/

/-- A report adds to the reports, the held reports or their counts. -/
theorem report_integ (s : State) (r : Report) : ∃ rs h dc dn,
    (report s r).integ = { s.integ with reports := rs, held := h, dropCount := dc, dropped := dn } := by
  unfold report
  extract_lets r' d u q
  have hu : u.integ = s.integ := event_integ ..
  clear_value u
  split
  · exact ⟨_, s.integ.held, s.integ.dropCount, s.integ.dropped, by rw [modInteg_integ, hu]⟩
  · split
    · exact ⟨s.integ.reports, _, s.integ.dropCount, s.integ.dropped, by rw [modInteg_integ, hu]⟩
    · exact ⟨s.integ.reports, s.integ.held, _, _, by rw [modInteg_integ, hu]⟩

@[simp] theorem report_badWords (s : State) (r : Report) : (report s r).integ.badWords = s.integ.badWords := by
  obtain ⟨rs, h, dc, dn, heq⟩ := report_integ s r
  rw [heq]

@[simp] theorem report_ecc (s : State) (r : Report) : (report s r).integ.ecc = s.integ.ecc := by
  obtain ⟨rs, h, dc, dn, heq⟩ := report_integ s r
  rw [heq]

@[simp] theorem report_log (s : State) (r : Report) : (report s r).integ.log = s.integ.log := by
  obtain ⟨rs, h, dc, dn, heq⟩ := report_integ s r
  rw [heq]

@[simp] theorem report_nextSeq (s : State) (r : Report) : (report s r).integ.nextSeq = s.integ.nextSeq := by
  obtain ⟨rs, h, dc, dn, heq⟩ := report_integ s r
  rw [heq]

/-! ### Scrubbing -/

theorem execSramScrub_vat {s : State} {addr : BitVec 48} {d l o : Nat} (h : decodeAddr (addr.toNat / 8 * 8) = some (.vatSram d l o)) (e : EccErr) :
    execSramScrub addr e s = match e with
      | .good => .next s
      | .corrected => if s.integ.badWords.contains (addr.toNat / 8 * 8) then .next s else
          .next (eccCorrected s (.vatSram d l o) (addr.toNat / 8 * 8))
      | .uncorrectable => .next (ueReport (modInteg s fun g => { g with
          badWords := if g.badWords.contains (addr.toNat / 8 * 8) then g.badWords else g.badWords ++ [addr.toNat / 8 * 8] })
          (.vatSram d l o) (addr.toNat / 8 * 8)) := by
  cases e <;> simp only [execSramScrub, h]

theorem ueReport_badWords (s : State) (d l o a : Nat) : (ueReport s (.vatSram d l o) a).integ.badWords = s.integ.badWords := report_badWords ..

theorem mem_add_word (l : List Nat) (a : Nat) : a ∈ (if l.contains a then l else l ++ [a]) := by
  by_cases h : l.contains a = true
  · rw [if_pos h]
    simpa using h
  · rw [if_neg h]
    simp

/-- A listed word makes its own 8 bytes uncorrectable (R328). -/
theorem badRange_of_mem {s : State} {a : Nat} (h : a ∈ s.integ.badWords) : badRange s a 8 = true :=
  List.any_eq_true.2 ⟨a, h, by simp⟩

/-! ### Host completions -/

theorem tlpFault_ports (s : State) (n p : Nat) (e : TlpErr) (a : Option Nat) : (tlpFault s n p e a).port.ports = s.port.ports := by
  cases e <;> simp [tlpFault, aerNote, portFault]

theorem portOf_of_ports {s t : State} (h : t.port.ports = s.port.ports) (n : Nat) : portOf t n = portOf s n := by simp only [portOf, h]

@[simp] theorem portOf_modPortOf_self (s : State) (n : Nat) (f : Port → Port) : portOf (modPortOf s n f) n = f (portOf s n) :=
  tgetD_tmod_self s.port.ports n {} f

/-- The request that a completion answers, taken from those outstanding and acknowledged (R321). -/
def completionTaken (s : State) (n id : Nat) (h : HostPend) : State :=
  rxPerformed (modPortOf s n fun x => { x with hostPend := x.hostPend.filter (fun y => y.id != id) }) (portFrontTile n) h.pkt.src.toNat
    h.pkt.stream.toNat h.pkt.sgen.toNat h.pkt.seq.toNat

theorem portOf_completionTaken (s : State) (n id : Nat) (h : HostPend) :
    portOf (completionTaken s n id h) n = { portOf s n with hostPend := (portOf s n).hostPend.filter (fun y => y.id != id) } :=
  portOf_modPortOf_self s n fun x => { x with hostPend := x.hostPend.filter (fun y => y.id != id) }

/-- The response that a tile makes to a request waits at its injection port. -/
theorem waiting_response (s : State) (n : Nat) (req : Packet) (op : Nat) (b : Bytes) (high : Nat) (poison : Bool) : ∃ x : OutPacket,
    tgetD (response s n req op b high poison).fab.waiting n [] = tgetD s.fab.waiting n [] ++ [x] ∧ x.pkt.opcode = BitVec.ofNat 8 op ∧
      x.pkt.dest = BitVec.ofNat 12 req.src.toNat ∧ x.pkt.src = BitVec.ofNat 12 n ∧ x.pkt.payload = b ∧ x.pkt.poison = poison :=
  ⟨_, waiting_send .., rfl, rfl, rfl, rfl, rfl⟩

@[simp] theorem response_port (s : State) (n : Nat) (req : Packet) (op : Nat) (b : Bytes) (high : Nat) (poison : Bool) :
    (response s n req op b high poison).port = s.port := send_port ..

theorem execHostCompletion_found {s : State} {port : PortId} {id : BitVec 16} {h : HostPend}
    (hf : (portOf s port.val).hostPend.find? (fun h => h.id == id.toNat) = some h) (err : TlpErr) (data : Bytes) :
    ∃ u poison, execHostCompletion port id err data s =
        .next (response u (portFrontTile port.val) h.pkt 0x20 (padTo data (bits h.pkt.aux.toNat 12 0)) 0 poison) ∧
      u.port.ports = (completionTaken s port.val id.toNat h).port.ports ∧ (err = .good ∨ poison = true) := by
  by_cases he : err = .good
  · subst he
    exact ⟨completionTaken s port.val id.toNat h, false, by simp only [execHostCompletion, hf]; rfl, rfl, .inl rfl⟩
  · refine ⟨tlpFault (portFault (completionTaken s port.val id.toNat h) port.val 4) port.val h.pkt.partition.toNat err (some h.pkt.addr.toNat), true, ?_,
      tlpFault_ports .., .inr rfl⟩
    cases err with
    | good => exact absurd rfl he
    | _ =>
      simp only [execHostCompletion, hf]
      rfl

/-- Settles O11: a scrub by what it finds; a host completion takes its request and answers it. -/
theorem memoryRepairCommandsComplete : Obligations.MemoryRepairCommandsComplete := by
  intro s
  refine ⟨fun addr e d l o hd => ⟨fun he => ?_, fun he hgood => ?_, fun he => ?_⟩, fun n table entry => rfl, fun port id err data h hf => ?_⟩
  · subst he
    exact execSramScrub_vat hd .good
  · subst he
    have hexec : exec (.sramScrub addr .corrected) s = .next (eccCorrected s (.vatSram d l o) (addr.toNat / 8 * 8)) :=
      (execSramScrub_vat hd .corrected).trans (if_neg (by rw [hgood]; exact Bool.false_ne_true))
    refine ⟨_, hexec, exec_same hexec .mem, report_badWords .., ?_⟩
    rw [show (eccCorrected s (.vatSram d l o) (addr.toNat / 8 * 8)).integ.ecc = _ from report_ecc ..]
    exact tgetD_tmod_self s.integ.ecc _ 0 (· + 1)
  · subst he
    have hexec := execSramScrub_vat (s := s) hd .uncorrectable
    refine ⟨_, hexec, ?_, exec_same (c := .sramScrub addr .uncorrectable) hexec .mem, badRange_of_mem ?_⟩
    · rw [ueReport_badWords]
      simpa using mem_add_word s.integ.badWords (addr.toNat / 8 * 8)
    · rw [ueReport_badWords]
      exact mem_add_word s.integ.badWords (addr.toNat / 8 * 8)
  · obtain ⟨u, poison, hexec, hports, herr⟩ := execHostCompletion_found hf err data
    obtain ⟨x, hwait, hop, -, -, hpay, hpoison⟩ := waiting_response u (portFrontTile port.val) h.pkt 0x20 (padTo data (bits h.pkt.aux.toNat 12 0)) 0 poison
    refine ⟨_, x, hexec, ?_, ?_, hop, ?_, fun _ => hpay⟩
    · rw [portOf_of_ports (s := completionTaken s port.val id.toNat h) ((congrArg PortState.ports (response_port ..)).trans hports),
        portOf_completionTaken]
      simp
    · rw [hwait]
      simp
    · rw [hpoison]
      exact herr

/-! ### Loss of dies and of management -/

/-- What the loss of a die does to its tiles leaves the power part, the epochs and the partitions' control alone. -/
theorem loseDie_pow (s : State) (d : Nat) : (loseDie s d).pow = { s.pow with lost := s.pow.lost ++ [d] } := by
  unfold loseDie
  have hk : ∀ u : State, (redSweep (failWaitsOn (resetTiles u d) d)).pow = u.pow := fun u =>
    (redSweep_keeps (failWaitsOn_keeps (resetTiles_keeps (Keeps.refl (allBut .pow) u) rfl rfl rfl rfl rfl rfl) rfl rfl rfl rfl rfl)
      rfl rfl rfl rfl rfl rfl).rest
  exact hk _

theorem loseDie_ep (s : State) (d : Nat) : (loseDie s d).ep = { s.ep with repairDue := true } := by
  unfold loseDie
  have hk : ∀ u : State, (redSweep (failWaitsOn (resetTiles u d) d)).ep = u.ep := fun u =>
    (redSweep_keeps (failWaitsOn_keeps (resetTiles_keeps (Keeps.refl (allBut .ep) u) rfl rfl rfl rfl rfl rfl) rfl rfl rfl rfl rfl)
      rfl rfl rfl rfl rfl rfl).rest
  exact hk _

/-- A partition that exists has failed after `failPartition`, now or before (R348). -/
theorem failPartition_failed (s : State) {p : Nat} (h : p ≠ 0) (c : Nat) : (tget (failPartition s p c).integ.failed p).isSome = true := by
  unfold failPartition
  split
  · next hf => simpa [h] using hf
  · rw [show (partitionNote (modInteg s fun g => { g with failed := tput g.failed p c }) p).integ = _ from
      (partitionNote_keeps (Keeps.refl (allBut .integ) _) rfl rfl).rest]
    simp

/-- The state in which a lost vat die's partition has failed. -/
def vatLost (s : State) (d p : Nat) : State :=
  let u := modPart (loseDie s d) fun x => { x with vats := tmod x.vats d {} (fun v => { v with state := 5 }) }
  failPartition (pruneVat (report u
    { cause := 0x63, cls := if p = 0 then 2 else 3, unit := 0x14, source := mgmtTile u.mgmtDie, detail := d
      partition := if p = 0 then none else some p }) d) p 0x63

theorem execVatDieLost_up {s : State} {v : VatId} (h : dieUp s v.val = true) : execVatDieLost v s = .next (deviceNote s (vatLost s v.val (vatOwner s.cfg v.val))) :=
  if_neg (by simp [h])

/-- What is told of a loss leaves these parts. -/
theorem lossTold_only (s : State) (r : Report) (d p c : Nat) :
    OnlyParts [.fab, .integ, .obs, .out, .port, .vs] s (failPartition (pruneVat (report s r) d) p c) :=
  onlyParts_of_keeps (failPartition_keeps (pruneVat_keeps (report_keeps (Keeps.refl _ s) rfl rfl) rfl rfl rfl rfl rfl) rfl rfl rfl)

theorem vatLost_parts (s : State) (d p : Nat) : (vatLost s d p).pow = (loseDie s d).pow ∧ (vatLost s d p).ep = (loseDie s d).ep ∧
    (vatLost s d p).part = { (loseDie s d).part with vats := tmod (loseDie s d).part.vats d {} (fun v => { v with state := 5 }) } := by
  have h := fun r => lossTold_only (modPart (loseDie s d) fun x => { x with vats := tmod x.vats d {} (fun v => { v with state := 5 }) }) r d p 0x63
  exact ⟨(h _ .pow rfl).trans (modPart_pow ..), (h _ .ep rfl).trans (modPart_ep ..), (h _ .part rfl).trans (modPart_part ..)⟩

/-- A die on the list of lost ones is not up (R43). -/
theorem dieUp_of_lost {s : State} {d : Nat} (h : d ∈ s.pow.lost) : dieUp s d = false := by simp [dieUp, h]

/-- The state in which a deckle die and its port are lost. -/
def deckleLost (s : State) (k : Nat) : State :=
  modPortOf (modPart (loseDie s (16 + k)) fun x => { x with lostDeckles := x.lostDeckles ++ [16 + k] }) k fun x => { x with up := false, rate := 0, width := 0 }

theorem deckleLost_pow (s : State) (k : Nat) : (deckleLost s k).pow = (loseDie s (16 + k)).pow := by simp [deckleLost, modPortOf]

theorem deckleLost_ep (s : State) (k : Nat) : (deckleLost s k).ep = (loseDie s (16 + k)).ep := by simp [deckleLost, modPortOf]

theorem execDeckleDieLost_up {s : State} {d : Deckle} (h : dieUp s (16 + d.val) = true) : ∃ u,
    execDeckleDieLost d s = .next (deviceNote s u) ∧ OnlyParts [.integ, .obs, .out, .port] (deckleLost s d.val) u := by
  refine ⟨_, if_neg (by simp [h]), onlyParts_of_keeps ?_⟩
  have hrefl : Keeps ⟨[Part.integ, .obs, .out, .port].contains, deckleLost s d.val⟩ (deckleLost s d.val) := Keeps.refl _ _
  refine keeps_ite (report_keeps hrefl rfl rfl) (keeps_foldl (fun w p hw => ?_) _ hrefl)
  exact keeps_ite (failPartition_keeps (report_keeps hw rfl rfl) rfl rfl rfl) (report_keeps hw rfl rfl)

/-- The state in which DS manages (R351, R68, R353, R383). -/
def failedOver (s : State) : State :=
  modTime (modInteg (modDict (modPow s fun w => { w with mgmt := 18 }) fun d => { d with sessions := [], transfers := [], challenges := [] })
    fun g => { g with log := g.mirror, nextSeq := g.mirrorNext }) fun t => { t with master := 18, masterState := 1 }

theorem execMgmtFailover_due {s : State} (hm : s.mgmtDie = 16) (hdn : dieUp s 16 = false) (hds : dieUp s 18 = true) (hfw : (tget s.pow.fw 18).isSome = true) :
    ∃ u, execMgmtFailover s = .next (deviceNote s u) ∧ OnlyParts [.integ, .obs] (failedOver s) u ∧ u.integ.log = s.integ.mirror ∧
      u.integ.nextSeq = s.integ.mirrorNext := by
  refine ⟨_, by simp only [execMgmtFailover, hm, hdn, hds, hfw]; rfl,
    onlyParts_of_keeps (report_keeps (report_keeps (Keeps.refl _ (failedOver s)) rfl rfl) rfl rfl), ?_, ?_⟩
  · rw [report_log, report_log]
    rfl
  · rw [report_nextSeq, report_nextSeq]
    rfl

/-- Settles O12: a lost die's marks outlive the reports and failures that follow; management passes by one change of each part. -/
theorem lossOfDieAndManagementCompletes : Obligations.LossOfDieAndManagementCompletes := by
  intro s
  refine ⟨fun v hup => ?_, fun d hup => ?_, fun hm hdn hds hfw => ?_, fun hdn hds => ?_⟩
  · obtain ⟨hpow, hep, hpart⟩ := vatLost_parts s v.val (vatOwner s.cfg v.val)
    obtain ⟨a, hnote⟩ := deviceNote_pow s (vatLost s v.val (vatOwner s.cfg v.val))
    have honly := deviceNote_only s (vatLost s v.val (vatOwner s.cfg v.val))
    have hlost : (deviceNote s (vatLost s v.val (vatOwner s.cfg v.val))).pow.lost = s.pow.lost ++ [v.val] := by rw [hnote, hpow, loseDie_pow]
    refine ⟨_, execVatDieLost_up hup, hlost, dieUp_of_lost (by rw [hlost]; simp), ?_, ?_, fun hp => ?_⟩
    · rw [honly .part rfl, hpart, tgetD_tmod_self]
    · rw [honly .ep rfl, hep, loseDie_ep]
    · rw [honly .integ rfl]
      exact failPartition_failed _ hp 0x63
  · obtain ⟨u, hexec, hu⟩ := execDeckleDieLost_up hup
    obtain ⟨a, hnote⟩ := deviceNote_pow s u
    have honly := deviceNote_only s u
    refine ⟨_, hexec, ?_, ?_, ?_⟩
    · rw [hnote, hu .pow rfl]
      rw [deckleLost_pow, loseDie_pow]
    · rw [honly .part rfl, hu .part rfl]
      simp [deckleLost, modPortOf]
    · rw [honly .ep rfl, hu .ep rfl]
      rw [deckleLost_ep, loseDie_ep]
  · obtain ⟨u, hexec, hu, hlog, hseq⟩ := execMgmtFailover_due hm hdn hds hfw
    obtain ⟨a, hnote⟩ := deviceNote_pow s u
    have honly := deviceNote_only s u
    have hdict : (deviceNote s u).dict = (failedOver s).dict := (honly .dict rfl).trans (hu .dict rfl)
    have htime : (deviceNote s u).time = (failedOver s).time := (honly .time rfl).trans (hu .time rfl)
    refine ⟨_, hexec, ?_, congrArg DictState.sessions hdict, congrArg DictState.transfers hdict, congrArg DictState.challenges hdict, ?_, ?_,
      congrArg TimeState.master htime, congrArg TimeState.masterState htime, (congrArg DictState.rw hdict).trans rfl,
      exec_same (c := .mgmtFailover) hexec .mem⟩
    · rw [State.mgmtDie, hnote, hu .pow rfl]
      rfl
    · rw [honly .integ rfl, hlog]
    · rw [honly .integ rfl, hseq]
  · have hexec : exec .mgmtLost s = .next (deviceNote s (modPow s fun w => { w with mgmtLost := true, fault := true })) := by
      show execMgmtLost s = _
      simp only [execMgmtLost, hdn, hds]
      rfl
    obtain ⟨a, hnote⟩ := deviceNote_pow s (modPow s fun w => { w with mgmtLost := true, fault := true })
    exact ⟨_, hexec, by rw [hnote]; rfl, by rw [hnote]; rfl, exec_same hexec .integ, exec_same hexec .mem⟩

end Sys2Proof.Machine

/-!
PROOFS. Epoch switches (R457 to R468, R479): what arming, GO and retirement leave of `Epochs`.
-/
namespace Sys2Proof.Machine

set_option Elab.async false

/-! ### Messages of a switch -/

@[simp] theorem sendEpoch_ep (s : State) (op k c d : Nat) : (sendEpoch s op k c d).ep = s.ep := send_ep ..

theorem sendEpochAll_only (s : State) (op k c : Nat) : OnlyParts [.ep, .fab] s (sendEpochAll s op k c) :=
  onlyParts_of_keeps (sendEpochAll_keeps (Keeps.refl _ s) rfl rfl)

@[simp] theorem sendEpochAll_ep (s : State) (op k c : Nat) : (sendEpochAll s op k c).ep = { s.ep with resendAt := s.now } :=
  foldl_same State.ep (fun u d => sendEpoch_ep u op k c d) _ _

/-! ### Arming -/

theorem startSwitch_repair_ep (s : State) (g : Nat) : (startSwitch s true g).ep =
    { s.ep with kind := 1, goAt := g, result := 0, failIndex := 0, failSub := 0, timedOut := 0, armedTint := bankTint (nextBank s true).cfg,
                state := 1, armed := some (nextBank s true), armStart := (startSwitch s true g).ep.armStart, reached := [], answered := [],
                resendAt := (startSwitch s true g).ep.resendAt } := by
  have hk (u : State) (l : List Nat) (b : Bank) : (l.foldl (fun s d => prepareReturn s b d) u).ep = u.ep :=
    foldl_same State.ep (fun u d => (prepareReturn_keeps (Keeps.refl (allBut .ep) u) rfl rfl rfl rfl).rest) _ _
  simp only [startSwitch, if_true, sendEpochAll_ep, modEp_ep, hk]
  rfl

/-- What an aborted arming leaves of the epochs (R459, R466). -/
theorem abortSwitch_ep (s : State) (code : Nat) :
    (abortSwitch s code).ep = { s.ep with resendAt := s.now, state := 0, armed := none, result := code, answered := [] } := by
  simp [abortSwitch]

theorem abortSwitch_now (s : State) (code : Nat) : (abortSwitch s code).now = s.now :=
  (abortSwitch_keeps (Keeps.refl (allBut .now) s) rfl rfl rfl).rest

/-! ### GO -/

/-- The epochs once GO has been given for the armed bank at a tick (R460). -/
def epochsGone (e : Epochs) (b : Bank) (now : Tick) : Epochs :=
  { e with
    count := b.count, state := 3, goTick := now, cur := b, old := some e.cur, armed := none
    rewritten := if e.kind = 0 then e.pend.map (·.1) else [], pend := if e.kind = 0 then [] else e.pend
    latched := [], portsDone := [], retired := [], reached := [], answered := [], retiring := false }

/-- The state in which GO has been given, with the slots, vats and rails that follow it. -/
def goGiven (s : State) (b : Bank) : State :=
  let u := timeReaches s s.ep.goAt
  let v := modEp u fun e => epochsGone e b u.now
  let w := modPart (goVats (goSlots v u.ep.cur b) u.ep.cur b) fun p => { p with digestDue := true }
  sendEpochAll (railsFollow s w) 0x52 1 b.count

theorem execEpochGoAt_armed {s : State} {b : Bank} (ha : s.ep.armed = some b) (h2 : s.ep.state = 2) (hup : mgmtUp s = true) :
    execEpochGoAt s = .next (deviceNote s (goGiven s b)) := by
  rw [execEpochGoAt, ha]
  exact if_neg (by simp [h2, hup])

theorem railsFollow_only (b s : State) : OnlyParts [.out, .pow] s (railsFollow b s) :=
  onlyParts_of_keeps (keeps_ite (Keeps.refl _ s) (keeps_foldl (fun _ _ hu => keeps_ite hu (railStart_keeps hu rfl rfl)) _ (Keeps.refl _ s)))

theorem goSlotsVats_only (s : State) (o n : Bank) : OnlyParts [.part, .port] s (goVats (goSlots s o n) o n) :=
  onlyParts_of_keeps (goVats_keeps (goSlots_keeps (Keeps.refl _ s) rfl rfl) rfl)

theorem goGiven_parts (s : State) (b : Bank) : (goGiven s b).now = Nat.max s.now s.ep.goAt ∧ (goGiven s b).part.digestDue = true ∧
    (goGiven s b).ep = { epochsGone s.ep b (Nat.max s.now s.ep.goAt) with resendAt := (goGiven s b).ep.resendAt } := by
  unfold goGiven
  extract_lets u v w
  have hsend := sendEpochAll_only (railsFollow s w) 0x52 1 b.count
  have hrail := railsFollow_only s w
  have hgo := goSlotsVats_only v u.ep.cur b
  have hep : w.ep = epochsGone s.ep b (Nat.max s.now s.ep.goAt) := (modPart_ep ..).trans ((hgo .ep rfl).trans rfl)
  refine ⟨?_, ?_, ?_⟩
  · exact (hsend .now rfl).trans ((hrail .now rfl).trans ((modPart_now ..).trans (hgo .now rfl)))
  · rw [hsend .part rfl, hrail .part rfl]
    exact congrArg (·.digestDue) (modPart_part ..)
  · rw [sendEpochAll_ep, hrail .ep rfl, hep]

/-- The managing engine's count over the die numbers is a statement about every die. -/
theorem all_dies_iff (f g : Nat → Bool) : (List.range 20).all (fun x => !f x || g x) = true ↔ ∀ x : DieId, f x.val = true → g x.val = true := by
  rw [List.all_eq_true]
  refine ⟨fun h x hx => ?_, fun h x hx => ?_⟩
  · have hor := h x.val (List.mem_range.mpr x.isLt)
    rwa [hx, Bool.not_true, Bool.false_or] at hor
  · cases hf : f x with
    | false => rfl
    | true => exact h ⟨x, List.mem_range.mp hx⟩ hf

theorem armed_state_iff (done : Bool) : (if done then 2 else 1) = 2 ↔ done = true := by cases done <;> simp

/-- Settles O13: arming, ARMED, abort, timeout, GO and resending, each by what it leaves of the epochs. -/
theorem epochSwitchCommandsComplete : Obligations.EpochSwitchCommandsComplete := by
  intro s
  refine ⟨fun hdue hst hset hup hboot => ?_, fun d hst hup => ?_, fun d hst hreach => ?_, fun d hst => ?_, fun hst => ?_,
    fun b ha hst hup => ?_, fun d hst hup hans => ?_⟩
  · have hexec : exec .repairSwitchArm s = .next (startSwitch (modEp s fun e => { e with repairDue := false }) true 0) :=
      if_pos (by simp [hdue, hst, hset, hup, hboot])
    have hep := startSwitch_repair_ep (modEp s fun e => { e with repairDue := false }) 0
    exact ⟨_, hexec, congrArg Epochs.state hep, congrArg Epochs.repairDue hep, congrArg Epochs.kind hep, (congrArg Epochs.pend hep).trans rfl,
      (congrArg Epochs.count hep).trans rfl, _, congrArg Epochs.armed hep, rfl, rfl⟩
  · refine ⟨_, if_pos (by simp [hst, hup]), ?_, rfl, hst, rfl⟩
    show (if _ then _ else _ : List Nat).contains _ = true
    split
    · next h => exact h
    · simp
  · refine ⟨_, if_pos (by rw [hst, hreach]; rfl), ?_, ?_⟩
    · show (if _ then _ else _ : List Nat).contains _ = true
      split
      · next h => exact h
      · simp
    · exact (armed_state_iff _).trans (all_dies_iff ..)
  · refine ⟨_, if_pos hst, ?_, rfl⟩
    simp [takeEpoch]
  · have hexec : exec .epochArmTimeout s = _ := if_pos hst
    have hep := abortSwitch_ep (timeReaches s (s.ep.armStart + 1000 * setting s 0x5013 0)) aUnitDown
    exact ⟨_, hexec, by rw [hep], by rw [hep], by rw [hep], by rw [hep]; rfl, by rw [hep]; rfl, by rw [hep]; rfl, abortSwitch_now ..⟩
  · obtain ⟨hnow, hdig, hep⟩ := goGiven_parts s b
    have honly := deviceNote_only s (goGiven s b)
    have he : (deviceNote s (goGiven s b)).ep = _ := (honly .ep rfl).trans hep
    refine ⟨_, execEpochGoAt_armed ha hst hup, by rw [he]; rfl, by rw [he]; rfl, by rw [he]; rfl, by rw [he]; rfl, by rw [he]; rfl, (honly .now rfl).trans hnow,
      (congrArg (·.digestDue) (honly .part rfl)).trans hdig, fun hk => ?_, fun hk => ?_⟩
    · rw [he]
      exact if_pos hk
    · rw [he]
      exact if_neg hk
  · refine ⟨_, _, (if_pos (by rw [hst, hup, hans]; rfl)).trans (if_pos hst), waiting_send .., rfl, rfl, rfl, hst⟩

/-! ### GO at a tile, and retirement -/

theorem goBuckets_only (b s : State) (n : Nat) : OnlyParts [.fab] s (goBuckets b s n) :=
  onlyParts_of_keeps (keeps_foldl (fun _ _ hu => keeps_ite hu (modFab_keeps hu rfl)) _ (Keeps.refl _ s))

/-- A tile that takes GO latches it at the tick; what follows leaves the epochs (R461). -/
theorem execEpochGo_latches {s : State} {n : NodeId} (h3 : s.ep.state = 3) (hin : tileIn s n.toNat = true) (hl : tget s.ep.latched n.toNat = none) :
    ∃ t, execEpochGo n s = .next t ∧ t.ep = { s.ep with latched := tput s.ep.latched n.toNat s.now } := by
  unfold execEpochGo
  extract_lets m d old b u v w x y z q
  rw [if_neg (show ¬_ by rw [h3, hin, hl]; decide)]
  refine ⟨_, rfl, ?_⟩
  have hx : x.ep = v.ep := goBuckets_only s w n.toNat .ep rfl
  have hy : y.ep = x.ep := (goMulticast_keeps (goReductions_keeps (Keeps.refl (allBut .ep) x) rfl rfl rfl rfl rfl) rfl).rest
  have hz : z.ep = y.ep := (keeps_ite (goNoTree_keeps (Keeps.refl (allBut .ep) y) rfl rfl rfl rfl rfl) (Keeps.refl _ y)).rest
  have hq : q.ep = z.ep := (keeps_ite (goReturn_keeps (Keeps.refl (allBut .ep) z) rfl rfl) (Keeps.refl _ z)).rest
  calc _ = q.ep := (keeps_ite (goQueues_keeps (installAdmission_keeps (Keeps.refl (allBut .ep) q) rfl rfl rfl) rfl rfl) (Keeps.refl _ q)).rest
    _ = v.ep := hq.trans (hz.trans (hy.trans hx))
    _ = _ := rfl

theorem retireIfDone_portsDone (s : State) : (retireIfDone s).ep.portsDone = s.ep.portsDone := by
  unfold retireIfDone
  split
  · rw [sendEpochAll_ep]
    rfl
  · rfl

theorem contribute_portsDone (s : State) (n : Nat) :
    (contribute s n).ep.portsDone = if s.ep.portsDone.contains n then s.ep.portsDone else s.ep.portsDone ++ [n] :=
  retireIfDone_portsDone _

theorem contribute_only (s : State) (n : Nat) : OnlyParts [.ep, .fab] s (contribute s n) :=
  onlyParts_of_keeps (contribute_keeps (Keeps.refl _ s) rfl rfl)

/-- A list that takes a value it does not hold holds it. -/
theorem contains_added (l : List Nat) (n : Nat) : (if l.contains n then l else l ++ [n]).contains n = true := by
  split
  · next h => exact h
  · simp

/-- The drain time of a tile ends its part in the switch, whatever is left of the old epoch (R462). -/
theorem execEpochDrainTimeout_contributes {s : State} {n : NodeId} {g : Tick} (h3 : s.ep.state = 3) (hl : tget s.ep.latched n.toNat = some g)
    (hin : tileIn s n.toNat = true) (hp : s.ep.portsDone.contains n.toNat = false) : ∃ u,
    execEpochDrainTimeout n s = .next (contribute u n.toNat) ∧ u.now = Nat.max s.now (g + 1000 * setting s 0x5012 0) := by
  refine ⟨settleAll (endOldGroups (endOldStreams (timeReaches s (g + 1000 * setting s 0x5012 0)) n.toNat) n.toNat), ?_, ?_⟩
  · rw [execEpochDrainTimeout, hl]
    exact if_neg (by rw [h3, hin, hp]; decide)
  · exact (settleAll_keeps (endOldGroups_keeps (endOldStreams_keeps (Keeps.refl (allBut .now) (timeReaches s _)) rfl rfl rfl rfl rfl rfl) rfl rfl rfl rfl rfl)
      rfl rfl rfl rfl).rest

/-- A die's RETIRED has been received. -/
def switchAnswered (s : State) (d : Nat) : State :=
  modEp s fun e => { e with answered := if s.ep.answered.contains d then s.ep.answered else s.ep.answered ++ [d] }

/-- The state in which a switch has retired (R463). -/
def switchRetired (s : State) : State :=
  let v := modPow s fun w =>
    { w with
      booting := false
      storeDue := if s.ep.kind = 0 && s.ep.booted then w.storeDue.orElse (fun _ => some s.now) else w.storeDue }
  let x := healPartitions (modEp v fun e => { e with state := 0, old := none, latched := [], retiring := false, booted := true })
  modPow x fun w => { w with absent := !serviceSet x && !scanning x }

theorem healPartitions_only (s : State) : OnlyParts [.integ, .out, .port] s (healPartitions s) :=
  onlyParts_of_keeps (healPartitions_keeps (Keeps.refl _ s) rfl rfl rfl)

theorem switchRetired_parts (s : State) : (switchRetired s).pow.booting = false ∧ (switchRetired s).ep.state = 0 ∧
    (switchRetired s).ep.old = none ∧ (switchRetired s).ep.booted = true ∧ (switchRetired s).ep.cur = s.ep.cur := by
  unfold switchRetired
  extract_lets v x
  have h := healPartitions_only (modEp v fun e => { e with state := 0, old := none, latched := [], retiring := false, booted := true })
  have hep : x.ep = _ := h .ep rfl
  have hpow : x.pow = v.pow := h .pow rfl
  refine ⟨congrArg PowState.booting hpow, ?_⟩
  rw [modPow_ep, hep]
  exact ⟨rfl, rfl, rfl, rfl⟩

theorem execEpochRetired_last {s : State} {d : DieId} (h3 : s.ep.state = 3) (hret : s.ep.retiring = true)
    (htiles : ∀ n ∈ tilesOf d.val, s.ep.retired.contains n = true)
    (hdies : ∀ x : DieId, x ≠ d → dieUp s x.val = true → s.ep.answered.contains x.val = true) (hvats : ∀ x : VatId, vatState s x.val ≠ 1) :
    execEpochRetired d s = .next (deviceNote (switchAnswered s d.val) (switchRetired (switchAnswered s d.val))) := by
  have hall : (List.range 20).all (fun x => !dieUp s x || (switchAnswered s d.val).ep.answered.contains x) = true := by
    refine (all_dies_iff ..).mpr fun x hx => ?_
    by_cases hxd : x = d
    · rw [hxd]
      exact contains_added ..
    · have := hdies x hxd hx
      show (if _ then _ else _ : List Nat).contains _ = true
      split <;> simp_all
  have hbelow : (List.range 16).all (fun x => vatState s x != 1) = true := by
    simpa using fun x hx => hvats ⟨x, hx⟩
  refine (if_neg ?_).trans (if_pos (show (_ && _) = true from ?_))
  · rw [h3, hret, List.all_eq_true.mpr htiles]
    decide
  · rw [Bool.and_eq_true]
    exact ⟨hall, hbelow⟩

theorem vats_modVatDie_self {s : State} {d : Nat} {f : VatDie → VatDie} : tgetD (modVatDie s d f).part.vats d {} = f (tgetD s.part.vats d {}) :=
  tgetD_tmod_self ..

/-- Settles O14: a tile's latch, contribution and retirement, the last answer, the end of a BIST, drained partitions and the digests. -/
theorem epochRetirementCommandsComplete : Obligations.EpochRetirementCommandsComplete := by
  intro s
  refine ⟨fun n h3 hin hl => ?_, fun n h3 hin hl hp hdone => ?_, fun n g h3 hl hin hp => ?_, fun n h3 hret hin => ?_, fun d h3 hret htiles hdies hvats => ?_,
    fun v block hv => ?_, fun v block hv => ?_, fun p h1 hd => ?_, fun p h2 hd => ?_, fun hdue => ?_⟩
  · obtain ⟨t, hexec, hep⟩ := execEpochGo_latches h3 hin hl
    exact ⟨t, hexec, by rw [hep]; exact tget_tput_self .., (congrArg Epochs.count hep).trans rfl, (congrArg Epochs.cur hep).trans rfl⟩
  · refine ⟨_, if_pos (by rw [h3, hin, hl, hp, hdone]; rfl), ?_, contribute_only s n.toNat .vs rfl⟩
    rw [contribute_portsDone, hp]
    rfl
  · obtain ⟨u, hexec, hnow⟩ := execEpochDrainTimeout_contributes h3 hl hin hp
    refine ⟨_, hexec, ?_, (contribute_only u n.toNat .now rfl).trans hnow⟩
    rw [contribute_portsDone]
    exact contains_added ..
  · exact ⟨_, (if_neg (by rw [h3, hret]; decide)).trans (if_pos hin), contains_added .., rfl, rfl⟩
  · obtain ⟨hboot, hst, hold, hbooted, hcur⟩ := switchRetired_parts (switchAnswered s d.val)
    have honly := deviceNote_only (switchAnswered s d.val) (switchRetired (switchAnswered s d.val))
    obtain ⟨a, hnote⟩ := deviceNote_pow (switchAnswered s d.val) (switchRetired (switchAnswered s d.val))
    refine ⟨_, execEpochRetired_last h3 hret htiles hdies hvats, ?_, ?_, ?_, by rw [hnote]; exact hboot, ?_⟩
    · rw [honly .ep rfl, hst]
    · rw [honly .ep rfl, hold]
    · rw [honly .ep rfl, hbooted]
    · rw [honly .ep rfl, hcur]
      rfl
  · refine ⟨_, if_pos hv, ?_, ?_, ?_⟩
    · exact congrArg VatDie.state vats_modVatDie_self
    · exact congrArg VatDie.bist vats_modVatDie_self
    · simp
  · exact ⟨_, if_pos hv, congrArg VatDie.state vats_modVatDie_self, congrArg VatDie.bist vats_modVatDie_self, rfl⟩
  · exact if_pos (by rw [h1, hd]; rfl)
  · exact (if_neg (by rw [h2]; simp)).trans (if_pos (by rw [h2, hd]; rfl))
  · exact ⟨_, if_neg (by rw [hdue]; decide), rfl, rfl, rfl, rfl, rfl⟩

end Sys2Proof.Machine

/-!
PROOFS. Requests and model updates (R45, R469 to R476): what the operations on a port's requests and on a partition's slots leave.
-/
namespace Sys2Proof.Machine

set_option Elab.async false

/-! ### A port's requests -/

theorem reqOf_modReq (s : State) (n num m : Nat) {f : Request → Request} (hf : ∀ r, (f r).num = r.num) :
    reqOf (modReq s n num f) n m = (reqOf s n m).map fun r => if r.num = num then f r else r := by
  have hp : (fun r : Request => r.num == m) ∘ (fun r => if r.num = num then f r else r) = fun r => r.num == m := by
    funext r
    simp only [Function.comp_apply]
    split
    · rw [hf]
    · rfl
  rw [reqOf, modReq, portOf_modPortOf_self, List.find?_map, hp]
  rfl

theorem portOf_modPortOf_ne (s : State) {n m : Nat} (h : m ≠ n) (f : Port → Port) : portOf (modPortOf s n f) m = portOf s m :=
  tgetD_tmod_ne _ _ _ _ h

theorem reqOf_modReq_ne (s : State) {n m : Nat} (h : m ≠ n) (num i : Nat) (f : Request → Request) : reqOf (modReq s n num f) m i = reqOf s m i := by
  rw [reqOf, modReq, portOf_modPortOf_ne s h]
  rfl

theorem reqOf_of_port {s t : State} (h : t.port = s.port) (n num : Nat) : reqOf t n num = reqOf s n num := by
  unfold reqOf portOf
  rw [h]

theorem num_of_reqOf {s : State} {n num : Nat} {r : Request} (h : reqOf s n num = some r) : r.num = num := by
  simpa using List.find?_some h

theorem reqOf_finishReq (s : State) (n num m : Nat) (o : Outcome) :
    reqOf (finishReq s n num o) n m = (reqOf s n m).map fun r => if r.num = num then { r with stage := .completing, out := o } else r :=
  reqOf_modReq s n num m (f := fun r => { r with stage := .completing, out := o }) fun _ => rfl

/-- A request that is there still is after another's outcome is known. -/
theorem reqOf_finishReq_isSome (s : State) (n m num i : Nat) (o : Outcome) : (reqOf (finishReq s n num o) m i).isSome = (reqOf s m i).isSome := by
  by_cases h : m = n
  · rw [h, reqOf_finishReq, Option.isSome_map]
  · rw [finishReq, reqOf_modReq_ne s h]

/-- A request whose outcome is known is answered with it (R44, R45). -/
theorem answered_finishReq {s : State} {n num : Nat} (h : (reqOf s n num).isSome = true) (o : Outcome) : Answered (finishReq s n num o) n num o.status := by
  obtain ⟨r, hr⟩ := Option.isSome_iff_exists.mp h
  refine ⟨{ r with stage := .completing, out := o }, ?_, rfl, rfl⟩
  rw [reqOf_finishReq, hr, Option.map_some, if_pos (num_of_reqOf hr)]

theorem answered_serviceDone {s : State} {n num : Nat} (h : (reqOf s n num).isSome = true) (status detail : Nat) (result output : Bytes) :
    Answered (serviceDone s n num status detail result output) n num status := answered_finishReq h _

theorem Answered.of_port {s t : State} {n num status : Nat} (h : Answered s n num status) (hp : t.port = s.port) : Answered t n num status := by
  obtain ⟨r, hr, h⟩ := h
  exact ⟨r, (reqOf_of_port hp n num).trans hr, h⟩

theorem reqOf_of_serviceReq {s : State} {n num op : Nat} {r : Request} (h : serviceReq s n num op = some r) : reqOf s n num = some r := by
  unfold serviceReq at h
  split at h
  · next r' hr =>
    split at h
    · exact hr.trans h
    · cases h
  · cases h

theorem finishReq_part (s : State) (n num : Nat) (o : Outcome) : (finishReq s n num o).part = s.part := rfl

/-! ### Slots of a partition -/

theorem slotOf_of_part {s t : State} (h : t.part = s.part) (p k : Nat) : slotOf t p k = slotOf s p k := by
  unfold slotOf
  rw [h]

@[simp] theorem slotOf_modSlot_self (s : State) (p k : Nat) (f : Slot → Slot) : slotOf (modSlot s p k f) p k = f (slotOf s p k) := tgetD_tmod_self ..

theorem slotOf_modSlot_ne (s : State) (p : Nat) {k j : Nat} (h : j ≠ k) (f : Slot → Slot) : slotOf (modSlot s p k f) p j = slotOf s p j :=
  tgetD_tmod_ne _ _ _ _ (by unfold slotKey; omega)

/-- What a slot has in force: the generation, its digest and area, and the tick of its flip. -/
def Slot.inForce (x : Slot) : BitVec 32 × Bytes × Nat × Tick := (x.generation, x.digest, x.area, x.flipTick)

theorem modSlot_inForce (s : State) (p k q j : Nat) {f : Slot → Slot} (hf : ∀ x, (f x).inForce = x.inForce) :
    (slotOf (modSlot s p k f) q j).inForce = (slotOf s q j).inForce := by
  by_cases h : slotKey q j = slotKey p k
  · simp only [slotOf, h]
    rw [show tgetD (modSlot s p k f).part.slots (slotKey p k) {} = f (tgetD s.part.slots (slotKey p k) {}) from tgetD_tmod_self .., hf]
  · exact congrArg Slot.inForce (tgetD_tmod_ne _ _ _ _ h)

/-- The slots keep what they have in force and the vats their banks. -/
def ForceKept (s t : State) : Prop := (∀ p k, (slotOf t p k).inForce = (slotOf s p k).inForce) ∧ t.part.vats = s.part.vats

theorem ForceKept.refl (s : State) : ForceKept s s := ⟨fun _ _ => rfl, rfl⟩

theorem ForceKept.trans {s t u : State} (h : ForceKept s t) (h' : ForceKept t u) : ForceKept s u :=
  ⟨fun p k => (h'.1 p k).trans (h.1 p k), h'.2.trans h.2⟩

theorem modSlot_forceKept (s : State) (p k : Nat) {f : Slot → Slot} (hf : ∀ x, (f x).inForce = x.inForce) : ForceKept s (modSlot s p k f) :=
  ⟨fun q j => modSlot_inForce s p k q j hf, rfl⟩

theorem startFetch_forceKept (s : State) (p k : Nat) : ForceKept s (startFetch s p k) := by
  unfold startFetch
  dsimp only
  split
  · split
    · exact modSlot_forceKept s p k fun _ => rfl
    · exact .refl s
  · exact .refl s

theorem startRunning_forceKept (s : State) (p : Nat) : ForceKept s (startRunning s p) := by
  unfold startRunning
  split
  · exact .refl s
  · split
    · exact .refl s
    · exact modSlot_forceKept s p _ fun _ => rfl

theorem updatesGo_forceKept (s : State) (p : Nat) : ForceKept s (updatesGo s p) := by
  have hfold : ∀ (l : List Nat) (u : State), ForceKept u (l.foldl (fun s k => startFetch s p k) u) := by
    intro l
    induction l with
    | nil => exact .refl
    | cons k l ih => exact fun u => (startFetch_forceKept u p k).trans (ih _)
  exact (hfold _ s).trans (startRunning_forceKept _ p)

theorem updatesGo_port (s : State) (p : Nat) : (updatesGo s p).port = s.port := (updatesGo_keeps (Keeps.refl (allBut .port) s) rfl).rest

theorem serviceDone_forceKept (s : State) (n num st d : Nat) (r o : Bytes) : ForceKept s (serviceDone s n num st d r o) := ⟨fun _ _ => rfl, rfl⟩

theorem slotOf_endPending (s : State) (p k st d : Nat) : slotOf (endPending s p k st d) p k = { slotOf s p k with pending := none } := by
  unfold endPending
  split
  · next h => rw [← h]
  · exact slotOf_modSlot_self ..

theorem endPending_answers {s : State} {p k : Nat} {u : Update} (hp : (slotOf s p k).pending = some u) (hr : (reqOf s u.port u.num).isSome = true)
    (st d : Nat) : Answered (endPending s p k st d) u.port u.num st := by
  rw [endPending, hp]
  exact answered_serviceDone (s := modSlot s p k fun y => { y with pending := none }) hr ..

theorem startFetch_pending {s : State} {p k : Nat} {u : Update} (h : (slotOf s p k).pending = some u) : ∃ v,
    (slotOf (startFetch s p k) p k).pending = some v ∧ v.port = u.port ∧ v.num = u.num ∧ v.len = u.len ∧
      ((slotOf s p k).running = none → u.phase = 0 → v.phase = 1) := by
  unfold startFetch
  extract_lets x
  split
  · next v hv hr =>
    cases hv.symm.trans h
    split
    · exact ⟨_, congrArg Slot.pending (slotOf_modSlot_self ..), rfl, rfl, rfl, fun _ _ => rfl⟩
    · next h0 => exact ⟨_, h, rfl, rfl, rfl, fun _ h0' => absurd h0' h0⟩
  · next hr => exact ⟨_, h, rfl, rfl, rfl, fun hn => (hr u h hn).elim⟩

/-! ### The course of an update -/

/-- An update that ends unflipped leaves every slot what it has in force, and every request where it was (R475, R476). -/
theorem cancelRunning_inForce (s : State) (p k d q j : Nat) : (slotOf (cancelRunning s p k d) q j).inForce = (slotOf s q j).inForce := by
  unfold cancelRunning
  split
  · rfl
  · next u _ =>
    extract_lets v w
    have hv : v.part.slots = s.part.slots := foldl_same (fun x => x.part.slots) (fun x i => by split <;> rfl) _ s
    have hw : (slotOf w q j).inForce = (slotOf v q j).inForce := modSlot_inForce v p k q j fun _ => rfl
    rw [(updatesGo_forceKept _ p).1, (serviceDone_forceKept w u.port u.num 0x0302 d [] []).1, hw, slotOf, hv]
    rfl

theorem reqOf_cancelRunning_isSome (s : State) (p k d n num : Nat) : (reqOf (cancelRunning s p k d) n num).isSome = (reqOf s n num).isSome := by
  unfold cancelRunning
  split
  · rfl
  · next u _ =>
    extract_lets v w
    have hv : v.port = s.port := foldl_same State.port (fun x i => by split <;> rfl) _ s
    rw [reqOf_of_port (updatesGo_port _ p), serviceDone, reqOf_finishReq_isSome, reqOf_of_port (show w.port = s.port from hv)]

theorem updateSettle_waits {s : State} {p k : Nat} {u : Update} (hr : (slotOf s p k).running = some u)
    (hd : ∃ d ∈ updateVats s p, u.freed.contains d = false) : updateSettle s p k = s := by
  rw [updateSettle, hr]
  refine if_neg fun h => ?_
  obtain ⟨d, hd, hf⟩ := hd
  have := List.all_eq_true.mp (Bool.and_eq_true_iff.mp h).2 d hd
  rw [hf] at this
  cases this

theorem updateSettle_answers {s : State} {p k : Nat} {u : Update} (hr : (slotOf s p k).running = some u) (hf : u.flipped = true)
    (hall : ∀ d ∈ updateVats s p, u.freed.contains d = true) (hreq : (reqOf s u.port u.num).isSome = true) :
    Answered (updateSettle s p k) u.port u.num 0 := by
  rw [updateSettle, hr]
  dsimp only
  rw [if_pos (Bool.and_eq_true_iff.mpr ⟨hf, List.all_eq_true.mpr hall⟩)]
  exact (answered_serviceDone (s := modSlot s p k fun y => { y with running := none }) hreq ..).of_port (updatesGo_port ..)

theorem updateSettle_forceKept (s : State) (p k : Nat) : ForceKept s (updateSettle s p k) := by
  unfold updateSettle
  split
  · split
    · extract_lets v
      have hv : ForceKept s v := modSlot_forceKept s p k fun _ => rfl
      exact (hv.trans (serviceDone_forceKept ..)).trans (updatesGo_forceKept _ p)
    · exact .refl s
  · exact .refl s

theorem sendSections_part (s : State) (p k : Nat) (m : Bytes) (es : List Bytes) : (sendSections s p k m es).part = s.part :=
  (sendSections_keeps (Keeps.refl (allBut .part) s) rfl).rest

/-- A chosen flip tick leaves the rest of the running update (R474 step 3). -/
theorem chooseFlip_running {s : State} {p k : Nat} {u : Update} (h : (slotOf s p k).running = some u) (a : Nat) :
    (slotOf (chooseFlip s p k a) p k).running = some { u with flipAt := some (s.now + 20000 + a) } := by
  rw [chooseFlip, slotOf_modSlot_self, h]
  rfl

theorem partSlots_find {f : Nat → Bool} {k : ModelSlot} (hk : f k.val = true) (hlow : ∀ j, j < k.val → f j = false) : partSlots.find? f = some k.val := by
  show (List.range 4).find? f = some k.val
  exact List.find?_range_eq_some.mpr ⟨hk, List.mem_range.mpr k.isLt, fun j hj => by rw [hlow j hj, Bool.not_false]⟩

/-- The lowest slot of a partition without a running update whose pending one is verified runs it. -/
theorem startRunning_lowest {s : State} {p : Nat} {k : ModelSlot} {u : Update} (hidle : partUpdating s p = false) (hu : (slotOf s p k.val).pending = some u)
    (h3 : u.phase = 3) (hlow : ∀ j, j < k.val → (slotOf s p j).pending = none) : (slotOf (startRunning s p) p k.val).running = some u := by
  unfold startRunning
  rw [if_neg (by rw [hidle]; decide)]
  split
  · next hf => cases (partSlots_find (k := k) (by simp [hu, h3]) fun j hj => by simp [hlow j hj]).symm.trans hf
  · next i hf =>
    cases (partSlots_find (k := k) (by simp [hu, h3]) fun j hj => by simp [hlow j hj]).symm.trans hf
    exact (congrArg Slot.running (slotOf_modSlot_self ..)).trans hu

theorem partUpdating_congr {s t : State} {p : Nat} (h : ∀ j, (slotOf t p j).running = (slotOf s p j).running) : partUpdating t p = partUpdating s p := by
  simp only [partUpdating, h]

theorem stageImage_only (s : State) (r : Bytes) (a : Nat) (m : Bytes) : OnlyParts [.integ, .mem] s (stageImage s r a m) :=
  onlyParts_of_keeps (stageImage_keeps (Keeps.refl _ s) rfl rfl)

/-- The state in which a slot's verified image lies decrypted in its staging area. -/
def imageReady (s : State) (p k : Nat) (u : Update) : State :=
  modSlot (stageImage (modSec s fun x => { x with counts := bump x.counts 0 }) (slotRecord s.ep.cur p k) u.area u.plain) p k
    fun y => { y with pending := some { u with phase := 3, plain := [] } }

theorem imageReady_slot (s : State) (p k : Nat) (u : Update) (j : Nat) : (slotOf (imageReady s p k u) p j).running = (slotOf s p j).running ∧
    (slotOf (imageReady s p k u) p j).pending = if j = k then some { u with phase := 3, plain := [] } else (slotOf s p j).pending := by
  have hstage := slotOf_of_part (stageImage_only (modSec s fun x => { x with counts := bump x.counts 0 }) (slotRecord s.ep.cur p k) u.area u.plain .part rfl) p
  unfold imageReady
  by_cases h : j = k
  · rw [h, slotOf_modSlot_self, hstage, if_pos rfl]
    exact ⟨rfl, rfl⟩
  · rw [slotOf_modSlot_ne _ _ h, hstage, if_neg h]
    exact ⟨rfl, rfl⟩

/-- The state in which vat d has reported its sections of an update. -/
def sectionReported (s : State) (p k : Nat) (u : Update) (d : Nat) : State :=
  modSlot (modVatDie s d fun v => { v with banks := tput v.banks (2 * k + otherBank s d p k) ((slotOf s p k).generation + 1).toNat }) p k
    fun y => { y with running := some { u with loaded := u.loaded ++ [d] } }

/-- The state in which vat d has freed its old bank of a slot. -/
def bankFreed (s : State) (p k : Nat) (u : Update) (d : Nat) : State :=
  modSlot (modVatDie s d fun v => { v with banks := tdel v.banks (2 * k + otherBank s d p k) }) p k
    fun y => { y with running := some { u with freed := u.freed ++ [d] } }

/-- The state in which a LOAD_MODEL request is its slot's PENDING update (R471 to R473). -/
def updateTaken (s : State) (n num : Nat) (r : Request) : State :=
  modSlot (endPending (modReq s n num fun x => { x with started := true }) r.partition r.slot 0x0301 0) r.partition r.slot
    fun y => { y with pending := some { port := n, num := num, len := descInLen r.desc } }

theorem execLoadModel_next {s : State} {n : PortId} {num : Nat} {r : Request} (hr : serviceReq s n.val num 0x10 = some r) (hst : r.started = false)
    (hnamed : slotNamed s r = true) : execLoadModel n num s = .next (startFetch (updateTaken s n.val num r) r.partition r.slot) := by
  rw [execLoadModel, hr]
  exact (if_neg (by rw [hst]; decide)).trans (if_neg (by rw [hnamed]; decide))

theorem execModelCancel_unflipped {s : State} {n : PortId} {num : Nat} {r : Request} {u : Update} (hr : serviceReq s n.val num 0x11 = some r)
    (hnamed : slotNamed s r = true) (hrun : (slotOf s r.partition r.slot).running = some u) (hfl : u.flipped = false) :
    execModelCancel n num s = .next (serviceDone (cancelRunning s r.partition r.slot 0) n.val num 0 0 []) := by
  rw [execModelCancel, hr]
  refine (if_neg (by rw [hnamed]; decide)).trans ?_
  rw [hrun]
  exact if_neg (by rw [hfl]; decide)

theorem execImageFetchDone_good {s : State} {p : PartId} {k : ModelSlot} {data : Bytes} {u : Update} {r : Request}
    (hp : (slotOf s p.val k.val).pending = some u) (hreq : reqOf s u.port u.num = some r) (h1 : u.phase = 1) (hstaged : descStaged r.desc = false)
    (hcrc : descCrcValid r.desc = false) (hlen : data.length = u.len) : ∃ v w,
    execImageFetchDone p k .good data s = .next (modSlot v p.val k.val fun y => { y with pending := some w }) ∧
      w.phase = 2 ∧ w.port = u.port ∧ w.num = u.num := by
  unfold execImageFetchDone
  simp only [hp, hreq, hstaged, hcrc, Bool.false_eq_true, if_false, Bool.false_and]
  rw [if_neg (fun h => h h1), if_neg (by decide), if_neg (fun h => h hlen)]
  refine ⟨_, _, rfl, ?_⟩
  split <;> exact ⟨rfl, rfl, rfl⟩

theorem execImageVerified_good {s : State} {p : PartId} {k : ModelSlot} {u : Update} (hp : (slotOf s p.val k.val).pending = some u) (h2 : u.phase = 2)
    (hup : engineUp s u.port = true) (hrej : u.reject = 0) :
    execImageVerified p k s = .next (startRunning (imageReady s p.val k.val u) p.val) := by
  rw [execImageVerified, hp]
  exact (if_neg (by rw [h2, hup]; decide)).trans (if_neg (fun h => h hrej))

/-- The state in which a failed verification is counted and logged (R586). -/
def imageRejected (s : State) (u : Update) : State := secReport (modSec s fun x => { x with counts := bump x.counts 1 }) u.port 0xC1 2 u.reject

theorem secReport_reported (s : State) (d c k x : Nat) : Reported s (secReport s d c k x) c k := report_reported ..

theorem imageRejected_reported (s : State) (u : Update) : Reported s (imageRejected s u) 0xC1 2 :=
  (secReport_reported (modSec s fun x => { x with counts := bump x.counts 1 }) u.port 0xC1 2 u.reject).congr rfl rfl

theorem imageRejected_part (s : State) (u : Update) : (imageRejected s u).part = s.part := secReport_part (modSec s _) ..

theorem imageRejected_port (s : State) (u : Update) : (imageRejected s u).port = s.port := secReport_port (modSec s _) ..

theorem execImageVerified_bad {s : State} {p : PartId} {k : ModelSlot} {u : Update} (hp : (slotOf s p.val k.val).pending = some u) (h2 : u.phase = 2)
    (hup : engineUp s u.port = true) (hrej : u.reject ≠ 0) :
    execImageVerified p k s = .next (endPending (imageRejected s u) p.val k.val 0x0303 u.reject) := by
  rw [execImageVerified, hp]
  exact (if_neg (by rw [h2, hup]; decide)).trans (if_pos hrej)

/-- The state in which the sections of an update have gone out (R474). -/
def sectionsSent (s : State) (p k : Nat) (u : Update) : State :=
  let v := (updateVats s p).foldl (fun s d => modVatDie s d fun v => { v with banks := tdel v.banks (2 * k + otherBank s d p k) }) s
  let v := modSlot v p k fun y => { y with running := some { u with sent := true } }
  let m := runningImage v p k u
  sendSections v p k m (mxiSectionList m)

theorem execUpdateSectionsSend_free {s : State} {p : PartId} {k : ModelSlot} {u : Update} (hrun : (slotOf s p.val k.val).running = some u)
    (hsent : u.sent = false) (hfree : (updateVats s p.val).all (fun d =>
      match tget (tgetD s.part.vats d {}).banks (2 * k.val + otherBank s d p.val k.val) with
      | some gen => !generationBound s p.val k.val gen d
      | none => true) = true) : ∃ e : Bool,
    execUpdateSectionsSend p k s = .next (if e then chooseFlip (sectionsSent s p.val k.val u) p.val k.val 0 else sectionsSent s p.val k.val u) := by
  have hbusy : (updateVats s p.val).any (fun d =>
      match tget (tgetD s.part.vats d {}).banks (2 * k.val + otherBank s d p.val k.val) with
      | some gen => generationBound s p.val k.val gen d
      | none => false) = false := by
    rw [← Bool.not_eq_true, List.any_eq_true]
    rintro ⟨d, hd, hb⟩
    have hd := List.all_eq_true.mp hfree d hd
    split at hb <;> simp_all
  rw [execUpdateSectionsSend, hrun]
  exact ⟨_, if_neg (by rw [hsent, Bool.false_or]; exact fun h => absurd (hbusy.symm.trans h) (by decide))⟩

theorem execSectionLoaded_matches {s : State} {p : PartId} {k : ModelSlot} {v : VatId} {u : Update} (a : BitVec 32)
    (hrun : (slotOf s p.val k.val).running = some u) (hsent : u.sent = true) (hflip : u.flipAt = none) (hload : u.loaded.contains v.val = false)
    (hvat : (updateVats s p.val).contains v.val = true)
    (hway : sectionsUnderWay s (field (slotRecord s.ep.cur p.val k.val) 36 1 % 64) v.val = false)
    (hpruned : (mcOf s (field (slotRecord s.ep.cur p.val k.val) 36 1 % 64)).pruned.contains v.val = false)
    (hmatch : sectionsMatch s v.val p.val (otherBank s v.val p.val k.val) (runningImage s p.val k.val u) = true) : ∃ e : Bool,
    execSectionLoaded p k v a s = .next (if e then chooseFlip (sectionReported s p.val k.val u v.val) p.val k.val a.toNat
      else sectionReported s p.val k.val u v.val) := by
  rw [execSectionLoaded, hrun]
  refine ⟨_, (if_neg ?_).trans (if_pos ?_)⟩
  · rw [hsent, hflip, hload, hvat, hway]
    decide
  · rw [hpruned, hmatch]
    rfl

/-- The state in which a slot's running update has flipped at tick x (R474 step 3). -/
def flipped (s : State) (p k : Nat) (u : Update) (x : Tick) : State :=
  modSlot (timeReaches s x) p k fun y =>
    { y with generation := y.generation + 1, digest := u.digest, area := u.area, flipTick := x, running := some { u with flipped := true } }

theorem execModelFlip_due {s : State} {p : PartId} {k : ModelSlot} {u : Update} {x : Tick} (hrun : (slotOf s p.val k.val).running = some u)
    (hflip : u.flipAt = some x) (hfl : u.flipped = false) :
    execModelFlip p k s = .next (updateSettle (flipped s p.val k.val u x) p.val k.val) := by
  rw [execModelFlip, hrun]
  dsimp only
  split
  · next h => cases h.symm.trans hflip
  · next t h =>
    cases h.symm.trans hflip
    exact if_neg (by rw [hfl]; decide)

theorem execOldBankFree_free {s : State} {v : VatId} {k : ModelSlot} {u : Update} (hrun : (slotOf s (vatOwner s.cfg v.val) k.val).running = some u)
    (hfl : u.flipped = true) (hfreed : u.freed.contains v.val = false) (hvat : (updateVats s (vatOwner s.cfg v.val)).contains v.val = true)
    (hbound : ∀ gen, tget (tgetD s.part.vats v.val {}).banks (2 * k.val + otherBank s v.val (vatOwner s.cfg v.val) k.val) = some gen →
      generationBound s (vatOwner s.cfg v.val) k.val gen v.val = false) :
    execOldBankFree v k s = .next (updateSettle (bankFreed s (vatOwner s.cfg v.val) k.val u v.val) (vatOwner s.cfg v.val) k.val) := by
  rw [execOldBankFree, hrun]
  refine if_neg ?_
  rw [hfl, hfreed, hvat]
  split
  · next gen hg =>
    rw [hbound gen hg]
    decide
  · decide

/-- Settles O15: each stage of an update by what it leaves of its slot, its vats' banks and its request. -/
theorem modelUpdateCommandsComplete : Obligations.ModelUpdateCommandsComplete := by
  intro s
  refine ⟨fun n num r hr hst hnamed => ?_, fun n num r u hr hnamed hrun hfl => ?_, fun p k data u r hp hreq h1 hstaged hcrc hlen => ?_,
    fun p k u hp h2 hup hrej hidle hlow => ?_, fun p k u hp h2 hup hrej => ?_, fun p k u hrun hsent hfree => ?_,
    fun p k v a u hrun hsent hflip hload hvat hway hpruned hmatch => ?_, fun p k u x hrun hflip hfl => ?_, fun v k u p howner hrun hfl hfreed hvat hbound => ?_⟩
  · have hrun : (slotOf (endPending (modReq s n.val num fun x => { x with started := true }) r.partition r.slot 0x0301 0) r.partition r.slot).running =
        (slotOf s r.partition r.slot).running := (congrArg Slot.running (slotOf_endPending ..)).trans rfl
    obtain ⟨v, hpend, hport, hnum, hlen, hphase⟩ := startFetch_pending (s := updateTaken s n.val num r) (p := r.partition) (k := r.slot)
      (congrArg Slot.pending (slotOf_modSlot_self ..))
    refine ⟨_, v, execLoadModel_next hr hst hnamed, hpend, hport, hnum, hlen, fun h => hphase ?_ rfl⟩
    exact (congrArg Slot.running (slotOf_modSlot_self ..)).trans (hrun.trans h)
  · refine ⟨_, execModelCancel_unflipped hr hnamed hrun hfl, answered_serviceDone ?_ .., ?_⟩
    · rw [reqOf_cancelRunning_isSome, reqOf_of_serviceReq hr]
      rfl
    · exact congrArg Prod.fst (cancelRunning_inForce ..)
  · obtain ⟨v, w, hexec, hphase, hport, hnum⟩ := execImageFetchDone_good hp hreq h1 hstaged hcrc hlen
    exact ⟨_, w, hexec, congrArg Slot.pending (slotOf_modSlot_self ..), hphase, hport, hnum⟩
  · have hready := imageReady_slot s p.val k.val u
    refine ⟨_, execImageVerified_good hp h2 hup hrej, startRunning_lowest ?_ ?_ rfl fun j hj => ?_, ?_⟩
    · rw [partUpdating_congr fun j => (hready j).1, hidle]
    · rw [(hready _).2, if_pos rfl]
    · rw [(hready _).2, if_neg (Nat.ne_of_lt hj), hlow j hj]
    · rw [show (startRunning _ p.val).sec = _ from (startRunning_keeps (Keeps.refl (allBut .sec) _) rfl).rest]
      exact congrArg SecState.counts (stageImage_only _ _ _ _ .sec rfl)
  · have hexec := execImageVerified_bad hp h2 hup hrej
    refine ⟨_, hexec, congrArg Slot.pending (slotOf_endPending ..), ?_, ?_, fun r hr => ?_⟩
    · rw [show (endPending _ p.val k.val 0x0303 u.reject).sec = _ from (endPending_keeps (Keeps.refl (allBut .sec) _) rfl rfl).rest]
      exact congrArg SecState.counts (secReport_sec ..)
    · have hinteg : (endPending (imageRejected s u) p.val k.val 0x0303 u.reject).integ = (imageRejected s u).integ :=
        (endPending_keeps (Keeps.refl (allBut .integ) _) rfl rfl).rest
      exact (imageRejected_reported s u).congr rfl hinteg
    · exact endPending_answers (s := imageRejected s u) (by rw [slotOf_of_part (imageRejected_part s u), hp])
        (by rw [reqOf_of_port (imageRejected_port s u), hr]; rfl) ..
  · obtain ⟨e, hexec⟩ := execUpdateSectionsSend_free hrun hsent hfree
    have hslot : (slotOf (sectionsSent s p.val k.val u) p.val k.val).running = some { u with sent := true } := by
      rw [sectionsSent, slotOf_of_part (sendSections_part ..), slotOf_modSlot_self]
    cases e
    · exact ⟨_, _, hexec, hslot, rfl, rfl⟩
    · exact ⟨_, _, hexec, chooseFlip_running hslot 0, rfl, rfl⟩
  · obtain ⟨e, hexec⟩ := execSectionLoaded_matches a hrun hsent hflip hload hvat hway hpruned hmatch
    have hslot : (slotOf (sectionReported s p.val k.val u v.val) p.val k.val).running = some { u with loaded := u.loaded ++ [v.val] } :=
      congrArg Slot.running (slotOf_modSlot_self ..)
    have hbank : tget (tgetD (sectionReported s p.val k.val u v.val).part.vats v.val {}).banks (2 * k.val + otherBank s v.val p.val k.val) =
        some ((slotOf s p.val k.val).generation + 1).toNat := by
      simp only [sectionReported, modSlot, modVatDie, modPart_part, tgetD_tmod_self, tget_tput_self]
    cases e
    · exact ⟨_, _, hexec, hslot, rfl, exec_same (c := .sectionLoaded p k v a) hexec .mem, hbank⟩
    · exact ⟨_, _, hexec, chooseFlip_running hslot a.toNat, rfl, exec_same (c := .sectionLoaded p k v a) hexec .mem, hbank⟩
  · have hforce := (updateSettle_forceKept (flipped s p.val k.val u x) p.val k.val).1 p.val k.val
    have hslot : (slotOf (flipped s p.val k.val u x) p.val k.val).inForce = ((slotOf s p.val k.val).generation + 1, u.digest, u.area, x) :=
      congrArg Slot.inForce (slotOf_modSlot_self ..)
    have hforce := hforce.trans hslot
    refine ⟨_, execModelFlip_due hrun hflip hfl, congrArg (·.1) hforce, congrArg (·.2.1) hforce, congrArg (·.2.2.2) hforce, ?_⟩
    exact (updateSettle_keeps (Keeps.refl (allBut .now) _) rfl rfl).rest
  · subst howner
    have hexec := execOldBankFree_free hrun hfl hfreed hvat hbound
    have hslot : (slotOf (bankFreed s (vatOwner s.cfg v.val) k.val u v.val) (vatOwner s.cfg v.val) k.val).running = some { u with freed := u.freed ++ [v.val] } :=
      congrArg Slot.running (slotOf_modSlot_self ..)
    refine ⟨_, hexec, exec_same (c := .oldBankFree v k) hexec .mem, ?_, fun ⟨d, hd, hne, hf⟩ => ?_, fun hall hreq => ?_⟩
    · rw [(updateSettle_forceKept ..).2]
      simp only [bankFreed, modSlot, modVatDie, modPart_part, tgetD_tmod_self, tget_tdel_self]
    · rw [updateSettle_waits hslot ⟨d, hd, by simp_all⟩]
      exact hslot
    · refine updateSettle_answers (u := { u with freed := u.freed ++ [v.val] }) hslot hfl (fun d hd => ?_) hreq
      rcases hall d hd with h | h
      · simp [h]
      · simpa using Or.inl (List.contains_iff_mem.mp h)

end Sys2Proof.Machine

/-!
PROOFS. What ends by its time (R66, R67, R594, R596), CAN FD frames (R88 to R95) and the mailbox (R96 to R100).
-/
namespace Sys2Proof.Machine

set_option Elab.async false

/-! ### Challenges, sessions, nonces and unlocks -/

theorem challengeOf_dropChallenge (s : State) (e c : Nat) : challengeOf (dropChallenge s e c) e c = none := by
  refine List.find?_eq_none.mpr fun x hx => ?_
  simpa [Decidable.imp_iff_not_or] using (List.mem_filter.mp hx).2

/-- An unlock's end closes every Service session and is logged (R596). -/
theorem endUnlock_unlocked {s : State} {x : Nat × Nat} (h : s.sec.unlock = some x) (why : Nat) :
    endUnlock s why = secReport (closeService (modSec s fun v => { v with unlock := none }) 0) (mgmtDeckle s) 0xC4 1 why := by
  rw [endUnlock, h]

theorem closeService_zero_dict (s : State) : (closeService s 0).dict.sessions = s.dict.sessions.filter (fun e => e.2.role != 4) := rfl

/-- Settles O16: each end by the timer's tick and what it takes away. -/
theorem validityEndsComplete : Obligations.ValidityEndsComplete := by
  intro s
  refine ⟨fun e c x hx => ?_, fun id x hx => ?_, fun e c b a hn => ?_, fun scope e hu => ?_, fun d hup hbad => ?_⟩
  · have hexec : exec (.challengeExpiry e c) s = .next (dropChallenge (timeReaches s (x.at_ + 10000000000)) e.val c.toNat) := by
      show execChallengeExpiry e c s = _
      rw [execChallengeExpiry, hx]
    exact ⟨_, hexec, Nat.le_max_right .., challengeOf_dropChallenge .., rfl, rfl⟩
  · have hexec : exec (.sessionTimeout id) s = .next (modDict (timeReaches s (x.lastAt + 1000000000 * setting s 0x1102 0))
        fun d => { d with sessions := tdel d.sessions id.toNat }) := by
      show execSessionTimeout id s = _
      rw [execSessionTimeout, hx]
    exact ⟨_, hexec, Nat.le_max_right .., tget_tdel_self .., fun i hi => tget_tdel_ne _ hi, rfl⟩
  · have hexec : exec (.attestNonceExpiry e c) s = .next (modSec (timeReaches s (a + 10000000000))
        fun x => { x with nonces := tdel x.nonces (128 * e.val + c.toNat) }) := by
      show execAttestNonceExpiry e c s = _
      simp only [execAttestNonceExpiry, hn]
    exact ⟨_, hexec, Nat.le_max_right .., tget_tdel_self .., rfl, rfl⟩
  · have hexec : exec .unlockExpiry s = .next (endUnlock (timeReaches s e) 1) := by
      show execUnlockExpiry s = _
      rw [execUnlockExpiry, hu]
    have hend := endUnlock_unlocked (s := timeReaches s e) hu 1
    refine ⟨_, hexec, ?_, ?_, ?_, ?_, ?_⟩
    · rw [hend, secReport_now]
      exact Nat.le_max_right ..
    · rw [hend, secReport_sec]
      rfl
    · rw [hend]
      exact (secReport_reported (closeService (modSec (timeReaches s e) fun v => { v with unlock := none }) 0) _ 0xC4 1 1).congr rfl rfl
    · rw [hend, secReport_dict, closeService_zero_dict]
      intro y hy
      simpa using (List.mem_filter.mp hy).2
    · rw [hend, secReport_sec]
      rfl
  · have hexec : exec (.entropyFault d) s = .next (secReport (modSec s fun v => { v with entropyBad := v.entropyBad ++ [d.val] }) d.val 0xC6 2 (16 + d.val)) :=
      if_neg (by rw [hup, hbad]; decide)
    exact ⟨_, hexec, by rw [secReport_sec]; rfl,
      (secReport_reported (modSec s fun v => { v with entropyBad := v.entropyBad ++ [d.val] }) d.val 0xC6 2 _).congr rfl rfl⟩

/-! ### CAN FD frames -/

theorem canOf_modCan_self (s : State) (ds : Bool) (f : CanCtrl → CanCtrl) : canOf (modCan s (bitOf ds) f) (bitOf ds) = f (canOf s (bitOf ds)) := by
  cases ds <;> rfl

theorem canOf_modCan_other (s : State) (ds : Bool) (f : CanCtrl → CanCtrl) : canOf (modCan s (bitOf ds) f) (1 - bitOf ds) = canOf s (1 - bitOf ds) := by
  cases ds <;> rfl

theorem modCan_dict_rest (s : State) (c : Nat) (f : CanCtrl → CanCtrl) : (modCan s c f).dict.mailboxes = s.dict.mailboxes ∧
    (modCan s c f).dict.rw = s.dict.rw := by
  simp only [modCan, modDict_dict]
  split <;> exact ⟨rfl, rfl⟩

/-- The fields of the identifier of a request for this node (Table 3.8). -/
theorem ident_fields {i t n : Nat} (ht : t < 2 ^ 17) (h : i = 3 * 2 ^ 24 + n % 128 * 2 ^ 17 + t) :
    bits i 28 24 = 3 ∧ bits i 23 17 = n % 128 ∧ bits i 16 0 = t := by
  subst h
  simp only [bits]
  omega

/-- The settings in force read the bank in force and the ground values. -/
theorem setting_congr {s t : State} (hep : t.ep.cur = s.ep.cur) (hrw : t.dict.rw = s.dict.rw) (idx sub : Nat) : setting t idx sub = setting s idx sub := by
  have hg : groundValue t idx sub = groundValue s idx sub := by simp only [groundValue, State.cfg, hep, hrw]
  simp only [setting, valueInForce, hg, State.tint, State.cfg, hep]

theorem dieUp_congr {s t : State} (hpow : t.pow.lost = s.pow.lost) (htime : t.time.dieReset = s.time.dieReset) (hep : t.ep.cur = s.ep.cur) (d : Nat) :
    dieUp t d = dieUp s d := by
  simp only [dieUp, State.cfg, hpow, htime, hep]

theorem canUp_congr {s t : State} {c : Nat} (hpow : t.pow = s.pow) (htime : t.time = s.time) (hep : t.ep = s.ep) (hrw : t.dict.rw = s.dict.rw)
    (hoff : (canOf t c).busOff = (canOf s c).busOff) : canUp t c = canUp s c := by
  have hdie := dieUp_congr (s := s) (t := t) (by rw [hpow]) (by rw [htime]) (by rw [hep])
  have hset := setting_congr (s := s) (t := t) (by rw [hep]) hrw
  simp only [canUp, hdie, hset, hoff, hpow]

theorem length_padTo (b : Bytes) (n : Nat) : (padTo b n).length = n := by
  simp [padTo, zeros]
  omega

theorem execCanFrameReceive_mine {s : State} {ds : Bool} {tag : BitVec 17} {ident : BitVec 29} (data : Bytes) (hup : canUp s (bitOf ds) = true)
    (hid : ident.toNat = 3 * 2 ^ 24 + s.pow.nodeId % 128 * 2 ^ 17 + tag.toNat) : execCanFrameReceive ds true ident data s =
      if 32 ≤ (canOf s (bitOf ds)).rxq.length then .next (modCanStat s (bitOf ds) 5)
      else .next (modCan (modCanStat s (bitOf ds) 0) (bitOf ds) fun x => { x with rxq := x.rxq ++ [(tag.toNat, msgOf data true)] }) := by
  obtain ⟨h28, h23, h16⟩ := ident_fields tag.isLt hid
  rw [execCanFrameReceive, h28, h23, h16]
  exact if_neg (by simp [hup])

/-- The state in which a heartbeat is due (R95). -/
def heartbeatDue (s : State) (c : Nat) : State :=
  let u := timeReaches s ((canOf s c).heartbeatAt + 1000000 * setting s 0x1013 0)
  modCan u c fun x => { x with heartbeatAt := u.now }

theorem heartbeatDue_at (s : State) (ds : Bool) : (canOf (heartbeatDue s (bitOf ds)) (bitOf ds)).heartbeatAt = (heartbeatDue s (bitOf ds)).now := by
  rw [heartbeatDue, canOf_modCan_self]
  rfl

theorem heartbeatDue_up (s : State) (ds : Bool) : canUp (heartbeatDue s (bitOf ds)) (bitOf ds) = canUp s (bitOf ds) := by
  refine canUp_congr rfl rfl rfl (modCan_dict_rest ..).2 ?_
  rw [heartbeatDue, canOf_modCan_self]
  cases ds <;> rfl

theorem canSend_up {s : State} {c : Nat} (h : canUp s c = true) (fn tag : Nat) (data : Bytes) : canSend s c fn tag data =
    emitOut s (.canFrame c (fn * 2 ^ 24 + s.pow.nodeId % 128 * 2 ^ 17 + tag % 2 ^ 17) (padTo data (canLength data.length))) := if_pos h

/-- Settles O17: a request frame, a heartbeat, new bit-rate settings and the fault counters, each by the controller it changes. -/
theorem canCommandsComplete : Obligations.CanCommandsComplete := by
  intro s ds
  refine ⟨fun tag data ident hup hid => ?_, fun hup hset => ?_, fun hdue => ?_, fun ok hdie hset hnode hoff => ?_⟩
  · have hexec := execCanFrameReceive_mine data hup hid
    by_cases h32 : 32 ≤ (canOf s (bitOf ds)).rxq.length
    · refine ⟨_, hexec.trans (if_pos h32), fun h => absurd h32 (Nat.not_le.mpr h), fun _ => ?_, canOf_modCan_other .., (modCan_dict_rest ..).1⟩
      rw [modCanStat, canOf_modCan_self]
      exact ⟨rfl, rfl⟩
    · refine ⟨_, hexec.trans (if_neg h32), fun _ => ?_, fun h => absurd h h32, ?_, ?_⟩
      · rw [canOf_modCan_self, modCanStat, canOf_modCan_self]
      · rw [canOf_modCan_other, modCanStat, canOf_modCan_other]
      · rw [(modCan_dict_rest ..).1, modCanStat, (modCan_dict_rest ..).1]
  · have hexec : exec (.heartbeat ds) s = .next (canSend (heartbeatDue s (bitOf ds)) (bitOf ds) 4 0
        (heartbeatBytes (timeReaches s ((canOf s (bitOf ds)).heartbeatAt + 1000000 * setting s 0x1013 0)))) :=
      if_neg (by simp [hup, hset])
    rw [canSend_up ((heartbeatDue_up s ds).trans hup), Nat.zero_mod, Nat.add_zero] at hexec
    refine ⟨_, _, hexec, rfl, ?_, ?_, Nat.le_max_right ..⟩
    · rw [length_padTo, heartbeatBytes, length_leBytes]
      rfl
    · exact heartbeatDue_at s ds
  · refine ⟨_, if_neg (by rw [hdue]; decide), ?_⟩
    rw [canOf_modCan_self, canOf_modCan_other]
    exact ⟨rfl, rfl, rfl, rfl, rfl, rfl, rfl⟩
  · refine ⟨_, if_neg (by simp [hdie, hset, hnode]), ?_⟩
    rw [canOf_modCan_self, busCounters, hoff]
    exact ⟨rfl, decide_eq_true_iff, rfl⟩

/-! ### The mailbox and the registers -/

/-- A command whose condition holds does what it says. -/
theorem next_if_pos {c : Prop} [Decidable c] (h : c) (a b : State) :
    (.next (if c then a else b) : Host.Outcome State Fault Refusal) = .next a := congrArg _ (if_pos h)

theorem next_if_neg {c : Prop} [Decidable c] (h : ¬c) (a b : State) :
    (.next (if c then a else b) : Host.Outcome State Fault Refusal) = .next b := congrArg _ (if_neg h)

@[simp] theorem mbxOf_modMbx_self (s : State) (n : Nat) (f : Mailbox → Mailbox) : mbxOf (modMbx s n f) n = f (mbxOf s n) := tgetD_tmod_self ..

theorem mbxOf_modMbx_ne (s : State) {n m : Nat} (h : m ≠ n) (f : Mailbox → Mailbox) : mbxOf (modMbx s n f) m = mbxOf s m := tgetD_tmod_ne _ _ _ _ h

/-- Bytes written one after another stand at their places; places before the first keep what they held. -/
theorem tget_foldl_tput_zipIdx {α : Type} (base : Nat) (l : List α) (k : Nat) (t : Table α) :
    (∀ n, n < base + k → tget ((l.zipIdx k).foldl (fun t e => tput t (base + e.2) e.1) t) n = tget t n) ∧
      ∀ i b, l[i]? = some b → tget ((l.zipIdx k).foldl (fun t e => tput t (base + e.2) e.1) t) (base + (k + i)) = some b := by
  induction l generalizing k t with
  | nil => exact ⟨fun _ _ => rfl, fun i b h => by simp at h⟩
  | cons x l ih =>
    obtain ⟨hlow, hat⟩ := ih (k + 1) (tput t (base + k) x)
    refine ⟨fun n hn => ?_, fun i b h => ?_⟩
    · exact (hlow n (by omega)).trans (tget_tput_ne _ _ (by omega))
    · cases i with
      | zero =>
        cases h
        exact (hlow _ (by omega)).trans (tget_tput_self ..)
      | succ i =>
        rw [show base + (k + (i + 1)) = base + (k + 1 + i) by omega]
        exact hat i b h

/-- The message in the slot at the request head, with its tag (R99). -/
def requestAt (x : Mailbox) : Nat × TtpMsg :=
  let b := requestSlot x (x.reqHead.toNat % 16)
  (field b 0 4 % 2 ^ 17, msgOf (slice b 8 64) (slotClean b))

/-- The state in which the oldest response stands in the next slot (R99). -/
def responsePosted (s : State) (n : Nat) (x : Nat × TtpMsg) (rest : List (Nat × TtpMsg)) : State :=
  modMbx s n fun y =>
    { y with outbox := rest, rspRing := tput y.rspRing (y.rspTail.toNat % 16) (padTo (leBytes 8 (x.1 % 2 ^ 17) ++ msgBytes x.2) 128)
             rspTail := y.rspTail + 1 }

theorem execMbxResponsePost_free {s : State} {p : PortId} {x : Nat × TtpMsg} {rest : List (Nat × TtpMsg)} (hup : barsUp s p.val = true)
    (hout : (mbxOf s p.val).outbox = x :: rest) (hheld : responsesHeld (mbxOf s p.val) < 16) : execMbxResponsePost p s =
      .next (if (mbxOf s p.val).irqEn then msixSend (responsePosted s p.val x rest) p.val (mbxOf s p.val).vec else responsePosted s p.val x rest) := by
  rw [execMbxResponsePost, hout]
  exact if_neg (by simp [hup, hheld])

theorem mbxOf_msixSend (s : State) (n vec m : Nat) : mbxOf (msixSend s n vec) m = mbxOf s m :=
  congrArg (fun d : DictState => tgetD d.mailboxes m {}) (msixSend_keeps (Keeps.refl (allBut .dict) s) rfl rfl).rest

/-- Settles O18: the two pointers, a request slot, a response slot, and the register and ring writes. -/
theorem mailboxAndRegisterWritesComplete : Obligations.MailboxAndRegisterWritesComplete := by
  intro s p hup
  refine ⟨fun v => ?_, fun v => ?_, fun hm hne hheld => ?_, fun x rest hout hheld => ?_, fun data hlen => ?_, fun off data hlow hhigh => ?_⟩
  · exact ⟨_, next_if_pos hup .., mbxOf_modMbx_self .., rfl, fun q hq => mbxOf_modMbx_ne s hq _⟩
  · exact ⟨_, next_if_pos hup .., mbxOf_modMbx_self .., rfl, fun q hq => mbxOf_modMbx_ne s hq _⟩
  · have http : ttpUp s (2 + p.val) = true := by
      rw [ttpUp, hm, if_neg (by omega), Nat.add_sub_cancel_left, hup]
      rfl
    refine ⟨_, requestAt (mbxOf s p.val), if_neg (by simp [http, hne, hheld]), ?_⟩
    rw [mbxOf_modMbx_self]
    exact ⟨rfl, rfl, rfl, rfl, rfl⟩
  · have hexec := execMbxResponsePost_free hup hout hheld
    by_cases hirq : (mbxOf s p.val).irqEn = true
    · rw [if_pos hirq] at hexec
      refine ⟨_, hexec, ?_⟩
      rw [mbxOf_msixSend, responsePosted, mbxOf_modMbx_self]
      exact ⟨rfl, rfl, tget_tput_self .., fun h => absurd hirq (by rw [h]; decide)⟩
    · rw [if_neg hirq] at hexec
      refine ⟨_, hexec, ?_⟩
      rw [responsePosted, mbxOf_modMbx_self]
      exact ⟨rfl, rfl, tget_tput_self .., fun _ => ⟨rfl, rfl⟩⟩
  · have hexec : exec (.registerWrite p 0 8 data) s =
        .next (modPortOf s p.val fun x => { x with evtVec := bits (leNat data) 13 8, evtIrqEn := bitAt (leNat data) 16 }) := by
      show execRegisterWrite p 0 8 data s = _
      simp [execRegisterWrite, hup, barWrite, hlen, barWord]
    refine ⟨_, hexec, ?_⟩
    rw [portOf_modPortOf_self]
    exact ⟨rfl, rfl, rfl, rfl, rfl⟩
  · have hexec : exec (.registerWrite p 4 off data) s = .next (mbxRing s p.val off.toNat data) := by
      show execRegisterWrite p 4 off data s = _
      simp [execRegisterWrite, hup, barWrite, hlow, hhigh, show ((4 : BarId).val) = 4 from rfl]
    refine ⟨_, hexec, fun i b hb => ?_, rfl⟩
    rw [mbxRing, mbxOf_modMbx_self]
    simpa using (tget_foldl_tput_zipIdx (off.toNat - 0x800) data 0 (mbxOf s p.val).reqRing).2 i b hb

end Sys2Proof.Machine

/-!
PROOFS. The transfer protocol (R74 to R86, R635): reads, expedited writes and segmented transfers of a client that is heard.
-/
namespace Sys2Proof.Machine

set_option Elab.async false

/-! ### What an answer leaves of the dictionary -/

theorem reply_rw (s : State) (ep tag : Nat) (m : TtpMsg) : (reply s ep tag m).dict.rw = s.dict.rw := by
  unfold reply
  split
  · exact (modCan_dict_rest ..).2
  · rfl

theorem modCan_transfers (s : State) (c : Nat) (f : CanCtrl → CanCtrl) : (modCan s c f).dict.transfers = s.dict.transfers := by
  simp only [modCan, modDict_dict]
  split <;> rfl

@[simp] theorem transferOf_reply (s : State) (ep tag : Nat) (m : TtpMsg) (e t : Nat) : transferOf (reply s ep tag m) e t = transferOf s e t := by
  have : (reply s ep tag m).dict.transfers = s.dict.transfers := by
    unfold reply
    split
    · exact modCan_transfers ..
    · rfl
  rw [transferOf, this, transferOf]

theorem transferOf_dropTransfer (s : State) (e t : Nat) : transferOf (dropTransfer s e t) e t = none := by
  refine List.find?_eq_none.mpr fun x hx => ?_
  simpa [Decidable.imp_iff_not_or] using (List.mem_filter.mp hx).2

@[simp] theorem transferOf_putTransfer (s : State) (x : Transfer) : transferOf (putTransfer s x) x.ep x.tag = some x := by
  have hdrop : (dropTransfer s x.ep x.tag).dict.transfers.find? (fun t => t.ep == x.ep && t.tag == x.tag) = none := transferOf_dropTransfer ..
  show ((dropTransfer s x.ep x.tag).dict.transfers ++ [x]).find? _ = _
  rw [List.find?_append, hdrop]
  simp

theorem reply_only (s : State) (ep tag : Nat) (m : TtpMsg) : OnlyParts [.dict, .out] s (reply s ep tag m) :=
  onlyParts_of_keeps (reply_keeps (Keeps.refl _ s) rfl rfl)

/-- The last thing an endpoint has sent is its reply. -/
theorem reply_told (s : State) (r : Req) (m : TtpMsg) : Told (reply s r.ep.val r.tag.toNat m) r m := by
  have ht : r.tag.toNat % 2 ^ 17 = r.tag.toNat := Nat.mod_eq_of_lt r.tag.isLt
  unfold Told reply
  by_cases hep : r.ep.val < 2
  · simp only [hep, if_true, ht, modCanStat, modCan, modDict_out, modDict_pow, emitOut_out, emitOut_pow]
    rw [List.getLast?_concat]
  · simp only [hep, if_false, modMbx, mbxOf, modDict_dict, tgetD_tmod_self]
    rw [List.getLast?_concat]

theorem OnlyParts.widen {l n : List Part} {s t : State} (h : OnlyParts l s t) (hl : l ⊆ n) : OnlyParts n s t := fun p hp => h p (by
  rw [← Bool.not_eq_true, List.contains_iff_mem] at hp ⊢
  exact fun hm => hp (hl hm))

/-- What two operations change, their sequence changes at most. -/
theorem OnlyParts.andThen {l m n : List Part} {s u t : State} (h1 : OnlyParts l s u) (h2 : OnlyParts m u t) (hl : l ⊆ n) (hm : m ⊆ n) : OnlyParts n s t :=
  (h1.widen hl).trans (h2.widen hm) fun _ h => h

/-! ### A message that is heard -/

theorem served_only {s : State} {r : Req} {c : Caller} (h : Heard s r c) : OnlyParts [.dict] s (served s r) := by
  obtain ⟨d, -, -, -, hs⟩ := heard h
  rw [hs]
  intro p hp
  cases p <;> simp_all [Part.same]

theorem served_rw {s : State} {r : Req} {c : Caller} (h : Heard s r c) : (served s r).dict.rw = s.dict.rw := by
  obtain ⟨d, hd, -, -, hs⟩ := heard h
  rw [hs]
  exact hd.rw_

theorem transferOf_served {s : State} {r : Req} {c : Caller} (h : Heard s r c) (e t : Nat) : transferOf (served s r) e t = transferOf s e t := by
  obtain ⟨d, hd, -, -, hs⟩ := heard h
  rw [hs]
  exact congrArg (List.find? _) hd.transfers

theorem transfersFull_served {s : State} {r : Req} {c : Caller} (h : Heard s r c) (e : Nat) : transfersFull (served s r) e = transfersFull s e := by
  obtain ⟨d, hd, -, -, hs⟩ := heard h
  rw [hs]
  simp only [transfersFull, hd.transfers]

theorem writeEntry_served {s : State} {r : Req} {c : Caller} (h : Heard s r c) (idx sub n : Nat) :
    writeEntry (served s r) c idx sub n = writeEntry s c idx sub n := by
  obtain ⟨d, hd, -, -, hs⟩ := heard h
  rw [hs]
  exact writeEntry_dict s d hd.rw_ c idx sub n

theorem setting_served {s : State} {r : Req} {c : Caller} (h : Heard s r c) (idx sub : Nat) : setting (served s r) idx sub = setting s idx sub := by
  obtain ⟨d, hd, -, -, hs⟩ := heard h
  rw [hs]
  exact setting_dict s d hd.rw_ idx sub

/-- A well-formed message of a client that is heard, carried by the command of its CS, is served. -/
theorem messageOf_served {s : State} {r : Req} {c : Caller} (h : Heard s r c) {m : TtpMsg} (hm : msgMalformed r.tag.toNat m = false)
    (hs : m.session = r.session) {cs : BitVec 8} (hcs : m.cs = cs) (hc : clientCs cs = true) (h1F : cs ≠ 0x1F) :
    messageOf cs r m s = serve (served s r) c r.tag.toNat m 0 := by
  obtain ⟨d, -, hsv, hmsg⟩ := message_heard (hw := 0) h hm (by rw [hcs]; exact hc) (by rw [hcs]; exact h1F) hs
  rw [messageOf, hcs, if_pos (by simp), hmsg, hsv]

/-! ### Reads -/

theorem odRead_only (s : State) (c : Caller) (idx sub : Nat) (v g : Bool) : OnlyParts [.dict, .free, .obs] s (odRead s c idx sub v g).2 :=
  onlyParts_of_keeps (odRead_keeps (Keeps.refl _ s) rfl rfl rfl)

/-- A read leaves the state as it is, with a fresh challenge, or with what it has seen noted. -/
theorem odRead_state (s : State) (c : Caller) (idx sub : Nat) (v g : Bool) :
    (odRead s c idx sub v g).2 = s ∨ (odRead s c idx sub v g).2 = (newChallenge s c).2 ∨ (odRead s c idx sub v g).2 = afterRead s idx := by
  unfold odRead
  split
  · exact .inl rfl
  split
  · exact .inl rfl
  split
  · exact .inl rfl
  split
  · exact .inl rfl
  split
  · exact .inl rfl
  split
  · exact .inl rfl
  split
  · exact .inr (.inl rfl)
  · exact .inr (.inr rfl)

theorem afterRead_only (s : State) (idx : Nat) : OnlyParts [.free, .obs] s (afterRead s idx) :=
  onlyParts_of_keeps (afterRead_keeps (Keeps.refl _ s) rfl rfl)

theorem drawBytes_dict (n : Nat) (s : State) : (drawBytes n s).2.dict = s.dict := by
  induction n generalizing s with
  | zero => rfl
  | succ n ih => exact ih (draw s).2

/-- A read leaves the entries' values and the transfers. -/
theorem odRead_dict (s : State) (c : Caller) (idx sub : Nat) (v g : Bool) : (odRead s c idx sub v g).2.dict.rw = s.dict.rw := by
  rcases odRead_state s c idx sub v g with h | h | h
  · rw [h]
  · rw [h]
    exact (congrArg DictState.rw (drawBytes_dict 16 s) :)
  · rw [h, afterRead_only s idx .dict rfl]

/-- The transfer that a read of more than 56 bytes opens. -/
def readTransfer (s : State) (c : Caller) (tag : Nat) (m : TtpMsg) (v : Bytes) : Transfer :=
  { ep := c.ep, tag := tag, isRead := true, session := m.session.toNat, index := m.index.toNat, sub := m.sub.toNat, total := v.length, data := v
    lastAt := s.now }

theorem answerRead_value {s : State} {c : Caller} {tag : Nat} {m : TtpMsg} {v : Bytes}
    (hv : (odRead s c m.index.toNat m.sub.toNat (viewFlag m) (groundFlag m)).1 = .inr v) (hfull : transfersFull s c.ep = false) :
    answerRead s c tag m =
      if v.length ≤ 56 then answer (odRead s c m.index.toNat m.sub.toNat (viewFlag m) (groundFlag m)).2 c.ep tag m 0x03 v
      else answer (putTransfer (odRead s c m.index.toNat m.sub.toNat (viewFlag m) (groundFlag m)).2 (readTransfer s c tag m v)) c.ep tag m 0x11
        (u32 v.length) := by
  simp only [answerRead, hv, hfull]
  rfl

theorem putTransfer_only (s : State) (x : Transfer) : OnlyParts [.dict] s (putTransfer s x) :=
  onlyParts_of_keeps (putTransfer_keeps (Keeps.refl _ s) rfl)

/-- The first row of the dictionary is the identity entry (OD 0x1000): every role reads it, and no unit holds it. -/
theorem odRead_identity (s : State) (c : Caller) (v g : Bool) : odRead s c 0x1000 0 v g = (.inr [0x14, 0x50, 0x00, 0x00], s) := by
  obtain ⟨e, hlook, hreaders, hacc, hval⟩ : ∃ e, odLookup 0x1000 0 = .inr e ∧ e.readers = [.any] ∧ e.acc = .const ∧
      constValue e 0x1000 0 = [0x14, 0x50, 0x00, 0x00] := ⟨_, rfl, rfl, rfl, rfl⟩
  have hallow : readAllowed s c e 0x1000 0 = true := by simp [readAllowed, mayRead, roleListed, hreaders]
  have hdown : unitDown s false 0x1000 0 = false := by
    rw [unitDown, show holderOf 0x1000 0 = none from rfl, show ringOf 0x1000 0 = none from rfl, show securityNeed 0x1000 0 = none from rfl]
    rfl
  have hstate : readState s c 0x1000 0 = none := rfl
  rw [odRead, if_neg (by simp), hlook]
  simp only [hacc, hallow, hdown, hstate, hval]
  rfl

/-! ### Writes -/

/-- A write that passes the checks of R635 and takes effect. -/
theorem serve_write {s : State} {c : Caller} {tag : Nat} {m : TtpMsg} (hcs : m.cs = 0x02) (hreused : endReused s c.ep tag = s)
    (hperm : Permitted s c m.index.toNat m.sub.toNat m.payload.length) :
    serve s c tag m 0 = answerWrite c tag m (writeValue s c m.index.toNat m.sub.toNat m.payload 0) := by
  obtain ⟨e, hperm⟩ := hperm
  rw [serve, if_neg (by rw [hcs]; decide), if_pos hcs, hreused, odWrite, hperm]

/-- The state that a ground value's write leaves. -/
def groundWritten (s : State) (e : OdEntry) (idx sub : Nat) (v : Bytes) : State :=
  let u := modDict s fun d => { d with rw := tput d.rw (odKey idx sub) v }
  let u := if e.member = .neither then u
    else modPart (modPow u fun w => { w with storeDue := w.storeDue.orElse fun _ => some u.now }) fun p => { p with digestDue := true }
  let u := if (overlayValue s.cfg s.tint (odKey idx sub)).isSome then u else alsoDoes u idx sub v
  let u := if idx = 0x9050 then railsFollow s u else u
  deviceNote s u

theorem alsoDoes_rw (s : State) (idx sub : Nat) (v : Bytes) : (alsoDoes s idx sub v).dict.rw = s.dict.rw := by
  unfold alsoDoes
  split
  · rfl
  split
  · rfl
  split
  · exact (modCan_dict_rest ..).2
  split
  · dsimp only
    split
    · rfl
    · rw [modPart_dict, show (loadProgram s _ v).dict = _ from (loadProgram_keeps (Keeps.refl (allBut .dict) s) rfl).rest]
  · rfl

theorem groundWritten_rw (s : State) (e : OdEntry) (idx sub : Nat) (v : Bytes) : (groundWritten s e idx sub v).dict.rw = tput s.dict.rw (odKey idx sub) v := by
  unfold groundWritten
  extract_lets u v w x
  have hv : v.dict.rw = u.dict.rw := by
    unfold v
    split <;> rfl
  have hw : w.dict.rw = v.dict.rw := by
    unfold w
    split
    · rfl
    · exact alsoDoes_rw ..
  have hx : x.dict.rw = w.dict.rw := by
    unfold x
    split
    · rw [railsFollow_only s w .dict rfl]
    · rfl
  rw [deviceNote_only s x .dict rfl, hx, hw, hv]
  rfl

theorem valueWrite_ground {s : State} {e : OdEntry} {idx sub : Nat} {v : Bytes} (hacc : e.acc ≠ .rwe) (hstored : storedCheck s e idx sub v = none)
    (hstate : stateCheck s e idx sub = none) : valueWrite s e idx sub v =
      .ok (if (overlayValue s.cfg s.tint (odKey idx sub)).isSome then 2 else 0) 0 (groundWritten s e idx sub v) := by
  rw [valueWrite, hstored, hstate]
  exact if_neg hacc

theorem valueWrite_pending {s : State} {e : OdEntry} {idx sub : Nat} {v : Bytes} (hacc : e.acc = .rwe) (hstored : storedCheck s e idx sub v = none)
    (hstate : stateCheck s e idx sub = none) : ∃ k, valueWrite s e idx sub v =
      .ok k 0 (modEp s fun e => { e with pend := tput e.pend (odKey idx sub) v }) ∧ (k = 1 ∨ k = 2) := by
  rw [valueWrite, hstored, hstate]
  refine ⟨_, if_pos hacc, ?_⟩
  split
  · exact .inr rfl
  · exact .inl rfl

/-- Settles O19: a read by the length of its value, a write by its entry's access code. -/
theorem expeditedRequestsComplete : Obligations.ExpeditedRequestsComplete := by
  intro s r c m hsp hmal hsess
  obtain ⟨hh, hnone, hfull⟩ := hsp
  have hep : c.ep = r.ep.val := hh.2.2.2.2.1
  have hreused : endReused (served s r) c.ep r.tag.toNat = served s r := endReused_none _ _ _ (by rw [transferOf_served hh, hep, hnone])
  have hread (hcs : m.cs = 0x01) : exec (.readReq r m) s = .next (answerRead (served s r) c r.tag.toNat m) := by
    show Host.Outcome.next (messageOf 0x01 r m s) = _
    rw [messageOf_served hh hmal hsess hcs rfl (by decide), serve, if_pos hcs, hreused]
  have hwrite (hcs : m.cs = 0x02) (hperm : Permitted s c m.index.toNat m.sub.toNat m.payload.length) : exec (.writeExp r m) s =
      .next (answerWrite c r.tag.toNat m (writeValue (served s r) c m.index.toNat m.sub.toNat m.payload 0)) := by
    show Host.Outcome.next (messageOf 0x02 r m s) = _
    obtain ⟨e, hperm⟩ := hperm
    rw [messageOf_served hh hmal hsess hcs rfl (by decide), serve_write hcs hreused ⟨e, (writeEntry_served hh ..).trans hperm⟩]
  refine ⟨fun hcs v hv => ?_, fun hcs hidx hsub => ?_, fun e hcs hlook hacc hperm hstored hstate => ?_, fun e hcs hlook hacc hperm hstored hst hstate => ?_⟩
  · have hexec := hread hcs
    rw [answerRead_value hv (by rw [transfersFull_served hh, hep, hfull])] at hexec
    have hrd := odRead_only (served s r) c m.index.toNat m.sub.toNat (viewFlag m) (groundFlag m)
    have hrw := (odRead_dict (served s r) c m.index.toNat m.sub.toNat (viewFlag m) (groundFlag m)).trans (served_rw hh)
    have hepoch := (hrd .ep rfl).trans (served_only hh .ep rfl)
    by_cases hlen : v.length ≤ 56
    · rw [if_pos hlen] at hexec
      have hans := (answer_only (odRead (served s r) c m.index.toNat m.sub.toNat (viewFlag m) (groundFlag m)).2 c.ep r.tag.toNat m 0x03 v .ep rfl).trans hepoch
      exact ⟨_, hexec, fun _ => answer_told _ r m 0x03 v hep hsess rfl rfl, fun h => absurd hlen (Nat.not_le.mpr h), (reply_rw ..).trans hrw,
        congrArg Epochs.cur hans, congrArg Epochs.pend hans⟩
    · rw [if_neg hlen] at hexec
      have hput := putTransfer_only (odRead (served s r) c m.index.toNat m.sub.toNat (viewFlag m) (groundFlag m)).2 (readTransfer (served s r) c r.tag.toNat m v)
      have hans := (answer_only (putTransfer (odRead (served s r) c m.index.toNat m.sub.toNat (viewFlag m) (groundFlag m)).2
        (readTransfer (served s r) c r.tag.toNat m v)) c.ep r.tag.toNat m 0x11 (u32 v.length) .ep rfl).trans ((hput .ep rfl).trans hepoch)
      refine ⟨_, hexec, fun h => absurd h hlen, fun _ => ⟨answer_told _ r m 0x11 _ hep hsess rfl rfl,
        readTransfer (served s r) c r.tag.toNat m v, ?_, rfl, rfl, rfl, rfl⟩, (reply_rw ..).trans hrw, congrArg Epochs.cur hans, congrArg Epochs.pend hans⟩
      rw [answer, transferOf_reply, ← hep]
      exact transferOf_putTransfer ..
  · have hexec := hread hcs
    rw [answerRead, hidx, hsub, show ((0x1000 : BitVec 16).toNat) = 0x1000 from rfl, show ((0 : BitVec 8).toNat) = 0 from rfl, odRead_identity] at hexec
    exact ⟨_, hexec, answer_told _ r m 0x03 _ hep hsess (by rw [hidx]; rfl) (by rw [hsub]; rfl),
      (served_only hh).andThen (answer_only _ _ _ _ _ _) (by decide) (by decide)⟩
  · have hne : e.acc ≠ .wo ∧ e.acc ≠ .rwe := by rcases hacc with h | h <;> rw [h] <;> decide
    have hexec := hwrite hcs hperm
    rw [writeValue, hlook] at hexec
    simp only [if_neg hne.1, valueWrite_ground hne.2 hstored hstate] at hexec
    refine ⟨_, _, hexec, answer_told _ r m 0x04 _ hep hsess rfl rfl, ?_, ?_⟩
    · rw [answerWrite, answer, reply_rw, groundWritten_rw]
      exact tget_tput_self ..
    · rw [show (served s r).cfg = s.cfg from congrArg (fun e : Epochs => e.cur.cfg) (served_only hh .ep rfl),
        show (served s r).tint = s.tint from congrArg (fun e : Epochs => bankTint e.cur.cfg) (served_only hh .ep rfl)]
      by_cases hmask : (overlayValue s.cfg s.tint (odKey m.index.toNat m.sub.toNat)).isSome = true
      · exact .inl ⟨if_pos hmask, hmask⟩
      · exact .inr ⟨if_neg hmask, by simpa using hmask⟩
  · have hexec := hwrite hcs hperm
    obtain ⟨k, hval, hk⟩ := valueWrite_pending hacc hstored hstate
    rw [writeValue, hlook] at hexec
    simp only [if_neg (show e.acc ≠ .wo by rw [hacc]; decide), hval] at hexec
    refine ⟨_, k, hexec, answer_told _ r m 0x04 _ hep hsess rfl rfl, hk, ?_, ?_, ?_⟩
    · rw [answerWrite, answer_only _ _ _ _ _ _ .ep rfl]
      exact tget_tput_self ..
    · rw [answerWrite, answer_only _ _ _ _ _ _ .ep rfl]
      exact (congrArg Epochs.cur (served_only hh .ep rfl) :)
    · refine (served_only hh).andThen (m := [.dict, .out, .ep]) ?_ (by decide) (fun _ h => h)
      exact (onlyParts_of_keeps (l := [.ep]) (modEp_keeps (Keeps.refl _ _) rfl)).andThen (answer_only _ _ _ _ _ _) (by decide) (by decide)

/-! ### Segmented transfers -/

theorem transfer_named {s : State} {e t : Nat} {x : Transfer} (h : transferOf s e t = some x) : x.ep = e ∧ x.tag = t := by
  simpa using List.find?_some h

theorem dropTransfer_only (s : State) (e t : Nat) : OnlyParts [.dict] s (dropTransfer s e t) :=
  onlyParts_of_keeps (dropTransfer_keeps (Keeps.refl _ s) rfl)

theorem failTransfer_only (s : State) (x : Transfer) (code : Nat) : OnlyParts [.dict, .out] s (failTransfer s x code) :=
  onlyParts_of_keeps (failTransfer_keeps (Keeps.refl _ s) rfl rfl)

theorem transferOf_failTransfer (s : State) (x : Transfer) (code : Nat) : transferOf (failTransfer s x code) x.ep x.tag = none := by
  rw [failTransfer, transferOf_reply, transferOf_dropTransfer]

theorem failTransfer_told (s : State) {r : Req} {x : Transfer} (hep : x.ep = r.ep.val) (htag : x.tag = r.tag.toNat) (code : Nat) :
    Told (failTransfer s x code) r (partMsg 0x1F x.session x.index x.sub (u32 code)) := by
  rw [failTransfer, hep, htag]
  exact reply_told ..

/-- The transfer that a segmented write opens (R81). -/
def writeTransfer (s : State) (c : Caller) (tag : Nat) (m : TtpMsg) : Transfer :=
  { ep := c.ep, tag := tag, isRead := false, session := m.session.toNat, index := m.index.toNat, sub := m.sub.toNat
    total := leNat m.payload, block := grant s, lastAt := s.now }

theorem openWrite_permitted {s : State} {c : Caller} {tag : Nat} {m : TtpMsg} (hperm : Permitted s c m.index.toNat m.sub.toNat (leNat m.payload))
    (hfull : transfersFull s c.ep = false) :
    openWrite s c tag m = answer (putTransfer s (writeTransfer s c tag m)) c.ep tag m 0x13 (u8 (grant s)) 0xFF := by
  obtain ⟨e, hperm⟩ := hperm
  rw [openWrite, hperm]
  exact if_neg (by rw [hfull]; decide)

/-- A transfer with a segment more (R80). -/
def Transfer.withSegment (x : Transfer) (m : TtpMsg) (now : Tick) : Transfer :=
  { x with data := x.data ++ m.payload, segs := x.segs + 1, block := x.block - 1, last := lastFlag m, lastAt := now }

theorem takeSegment_next {s : State} {x : Transfer} {m : TtpMsg} (hread : x.isRead = false) (hlast : x.last = false) (hblock : 1 ≤ x.block)
    (hseq : m.seq.toNat = x.segs % 256) (hshape : if lastFlag m then 1 ≤ m.payload.length else m.payload.length = 56) :
    takeSegment s x m = if x.block = 1 ∧ lastFlag m = false then
        answer (putTransfer s { x.withSegment m s.now with block := grant s }) x.ep x.tag m 0x13 (u8 (grant s)) m.seq.toNat
      else putTransfer s (x.withSegment m s.now) := by
  have hshape' : (if lastFlag m then decide (1 ≤ m.payload.length) || x.total == 0 else m.payload.length == 56) = true := by
    split at hshape <;> simp_all
  rw [takeSegment]
  refine (if_neg ?_).trans ?_
  · simp only [hshape', hread, hlast, hseq]
    simp
    omega
  · have hiff : (decide (x.block - 1 = 0) && !lastFlag m) = true ↔ x.block = 1 ∧ lastFlag m = false := by
      simp
      omega
    exact ite_congr (propext hiff) (fun _ => rfl) fun _ => rfl

/-- The last answer to a part's own echo names the transfer's entry. -/
theorem partMsg_echo (cs session idx sub : Nat) (p q : Bytes) (seq : Nat) :
    partMsg cs (partMsg 0 session idx sub q).session.toNat (partMsg 0 session idx sub q).index.toNat (partMsg 0 session idx sub q).sub.toNat p seq =
      partMsg cs session idx sub p seq := by
  simp only [partMsg, BitVec.ofNat_toNat, BitVec.setWidth_eq]

theorem endWrite_right {s : State} {c : Caller} {x : Transfer} {m : TtpMsg} (hread : x.isRead = false) (hlast : x.last = true)
    (hlen : x.data.length = x.total) (hcrc : crc32c x.data = leNat m.payload) : endWrite s c x m 0 =
      answerWrite c x.tag (partMsg 0 x.session x.index x.sub []) (writeValue (dropTransfer s x.ep x.tag) c x.index x.sub x.data 0) := by
  rw [endWrite, if_neg (by simp [hread, hlast, hlen]), if_neg (fun h => h hcrc)]

theorem endWrite_wrong {s : State} {c : Caller} {x : Transfer} {m : TtpMsg} (hread : x.isRead = false) (hlast : x.last = true)
    (hlen : x.data.length = x.total) (hcrc : crc32c x.data ≠ leNat m.payload) : endWrite s c x m 0 =
      failTransfer (if x.ep < 2 then modCanStat s x.ep 4 else s) x aCrcMismatch := by
  rw [endWrite, if_neg (by simp [hread, hlast, hlen]), if_pos hcrc]

theorem transferOf_sendSegments (s : State) (x : Transfer) (k n e t : Nat) : transferOf (sendSegments s x k n) e t = transferOf s e t := by
  induction n generalizing s k with
  | zero => rfl
  | succ n ih => exact (ih ..).trans (transferOf_reply ..)

theorem sendSegments_only (s : State) (x : Transfer) (k n : Nat) : OnlyParts [.dict, .out] s (sendSegments s x k n) :=
  onlyParts_of_keeps (sendSegments_keeps (Keeps.refl _ s) rfl rfl)

theorem grantRead_expected {s : State} {x : Transfer} {m : TtpMsg} (hread : x.isRead = true)
    (hseq : m.seq.toNat = if x.segs = 0 then 0xFF else (x.segs - 1) % 256) :
    grantRead s x m =
      if x.segs + Nat.min (leNat m.payload) ((x.total + 55) / 56 - x.segs) = (x.total + 55) / 56 then
        reply (dropTransfer (sendSegments s x x.segs (Nat.min (leNat m.payload) ((x.total + 55) / 56 - x.segs))) x.ep x.tag) x.ep x.tag
          (partMsg 0x14 x.session x.index x.sub (u32 (crc32c x.data)))
      else
        let u := sendSegments s x x.segs (Nat.min (leNat m.payload) ((x.total + 55) / 56 - x.segs))
        putTransfer u { x with segs := x.segs + Nat.min (leNat m.payload) ((x.total + 55) / 56 - x.segs), lastAt := u.now } :=
  if_neg (by simp [hread, hseq])

/-- A heard client's endpoint has no transfer overdue, so an ABORT finds the state with the dictionary's bookkeeping alone changed. -/
theorem expired_only {s : State} {r : Req} {c : Caller} (h : Heard s r c) :
    OnlyParts [.dict] s (expireTransfers (expireSessions (countRequest s r.ep.val)) r.ep.val) := by
  obtain ⟨d, -, -, hn, -⟩ := heard h
  generalize expireTransfers (expireSessions (countRequest s r.ep.val)) r.ep.val = u at hn ⊢
  have hdict : modDict s (fun _ => u.dict) = u := by
    have : modDict (nameSession u r.ep.val r.session.toNat) (fun _ => u.dict) = u := rfl
    rwa [hn] at this
  have honly : OnlyParts [.dict] s (modDict s fun _ => u.dict) := onlyParts_of_keeps (modDict_keeps (Keeps.refl _ s) rfl)
  rwa [hdict] at honly

/-- SEGMENT, SEG_ACK or SEG_END under the tag of an open transfer of the session that the message names (R83). -/
theorem continue_heard {s : State} {r : Req} {c : Caller} (h : Heard s r c) {m : TtpMsg} {x : Transfer} (hx : transferOf s r.ep.val r.tag.toNat = some x)
    (hxs : x.session = r.session.toNat) (hsess : m.session = r.session) (h1 : m.cs ≠ 0x01) (h2 : m.cs ≠ 0x02) (h10 : m.cs ≠ 0x10) :
    serve (served s r) c r.tag.toNat m 0 = if m.cs = 0x12 then takeSegment (served s r) x m
      else if m.cs = 0x13 then grantRead (served s r) x m else endWrite (served s r) c x m 0 := by
  have hep : c.ep = r.ep.val := h.2.2.2.2.1
  rw [serve, if_neg h1, if_neg h2, if_neg h10, continueTransfer, hep, transferOf_served h, hx]
  exact if_neg (by rw [hxs, hsess]; exact fun h => h rfl)

theorem execSegEnd_heard {s : State} {r : Req} {c : Caller} (h : Heard s r c) {m : TtpMsg} (hmal : msgMalformed r.tag.toNat m = false)
    (hsess : m.session = r.session) (hcs : m.cs = 0x14) {x : Transfer} (hx : transferOf s r.ep.val r.tag.toNat = some x)
    (hxs : x.session = r.session.toNat) : exec (.segEnd r m) s = .next (endWrite (served s r) c x m 0) := by
  show Host.Outcome.next (messageOf 0x14 r m s) = _
  rw [messageOf_served h hmal hsess hcs rfl (by decide),
    continue_heard h hx hxs hsess (by rw [hcs]; decide) (by rw [hcs]; decide) (by rw [hcs]; decide), if_neg (by rw [hcs]; decide),
    if_neg (by rw [hcs]; decide)]

theorem execAbort_heard {s : State} {r : Req} {c : Caller} (h : Heard s r c) {m : TtpMsg} (hcs : m.cs = 0x1F) : execAbort r m s =
    .next (nameSession (dropTransfer (if r.ep.val < 2 then modCanStat (expireTransfers (expireSessions (countRequest s r.ep.val)) r.ep.val) r.ep.val 3
      else expireTransfers (expireSessions (countRequest s r.ep.val)) r.ep.val) r.ep.val r.tag.toNat) r.ep.val m.session.toNat) := by
  obtain ⟨hup, hin, -⟩ := h
  rw [execAbort, messageOf, if_pos (by simp [hcs]), clientMessage, if_neg (by rw [hup]; decide), hin]
  exact congrArg _ (if_pos hcs)

/-- Settles O20: each message of a transfer by the transfer it leaves and what it tells. -/
theorem segmentedTransfersComplete : Obligations.SegmentedTransfersComplete := by
  intro s r c m hh hmal hsess
  have hep : c.ep = r.ep.val := hh.2.2.2.2.1
  refine ⟨fun hcs hnone hfull hperm => ?_, fun x hcs hx hread hxs hlast hblock hseq hshape => ?_, fun x effect session w hcs hx hread hxs hlast hlen hcrc hw => ?_,
    fun x hcs hx hread hxs hlast hlen hcrc => ?_, fun x hcs hx hread hxs hseq hlt => ?_, fun hcs => ?_, fun x hx => ?_⟩
  · have hexec : exec (.segWriteInit r m) s = .next (openWrite (served s r) c r.tag.toNat m) := by
      show Host.Outcome.next (messageOf 0x10 r m s) = _
      rw [messageOf_served hh hmal hsess hcs rfl (by decide), serve, if_neg (by rw [hcs]; decide), if_neg (by rw [hcs]; decide), if_pos hcs,
        endReused_none _ _ _ (by rw [transferOf_served hh, hep, hnone])]
    rw [openWrite_permitted (by simpa only [Permitted, writeEntry_served hh] using hperm) (by rw [transfersFull_served hh, hep, hfull])] at hexec
    refine ⟨_, writeTransfer (served s r) c r.tag.toNat m, hexec, ?_, rfl, rfl, rfl, rfl, setting_served hh .., ?_, ?_⟩
    · rw [answer, transferOf_reply, ← hep]
      exact transferOf_putTransfer ..
    · rw [answer, hep, hsess, show grant (served s r) = setting s 0x1015 0 from setting_served hh ..]
      exact reply_told ..
    · exact ((served_only hh).andThen (putTransfer_only _ _) (n := [.dict]) (by decide) (by decide)).andThen (reply_only _ _ _ _) (by decide) (by decide)
  · obtain ⟨hxe, hxt⟩ := transfer_named hx
    have hexec : exec (.segment r m) s = .next (takeSegment (served s r) x m) := by
      show Host.Outcome.next (messageOf 0x12 r m s) = _
      rw [messageOf_served hh hmal hsess hcs rfl (by decide),
        continue_heard hh hx hxs hsess (by rw [hcs]; decide) (by rw [hcs]; decide) (by rw [hcs]; decide), if_pos hcs]
    rw [takeSegment_next hread hlast hblock hseq hshape] at hexec
    have hput (y : Transfer) := (served_only hh).andThen (putTransfer_only (served s r) y) (n := [.dict]) (by decide) (by decide)
    by_cases hend : x.block = 1 ∧ lastFlag m = false
    · rw [if_pos hend] at hexec
      refine ⟨_, { x.withSegment m (served s r).now with block := grant (served s r) }, hexec, ?_, rfl, rfl, rfl, rfl, ?_, fun _ _ => ⟨setting_served hh .., ?_⟩⟩
      · rw [answer, transferOf_reply, ← hxe, ← hxt]
        exact transferOf_putTransfer (served s r) { x.withSegment m (served s r).now with block := grant (served s r) }
      · exact (hput _).andThen (reply_only _ _ _ _) (by decide) (by decide)
      · rw [answer, hxe, hxt, hsess, show grant (served s r) = setting s 0x1015 0 from setting_served hh ..]
        exact reply_told ..
    · rw [if_neg hend] at hexec
      refine ⟨_, x.withSegment m (served s r).now, hexec, ?_, rfl, rfl, rfl, rfl, ?_, fun hl hb => absurd ⟨hb, hl⟩ hend⟩
      · rw [← hxe, ← hxt]
        exact transferOf_putTransfer (served s r) (x.withSegment m (served s r).now)
      · exact (hput _).widen (by decide)
  · obtain ⟨hxe, hxt⟩ := transfer_named hx
    have hexec := execSegEnd_heard hh hmal hsess hcs hx hxs
    rw [endWrite_right hread hlast hlen hcrc, hxe, hxt, hw, answerWrite, answer, partMsg_echo, hep] at hexec
    exact ⟨_, hexec, reply_told .., reply_only _ _ _ _⟩
  · obtain ⟨hxe, hxt⟩ := transfer_named hx
    have hexec := execSegEnd_heard hh hmal hsess hcs hx hxs
    rw [endWrite_wrong hread hlast hlen hcrc] at hexec
    have hcount : OnlyParts [.dict] (served s r) (if x.ep < 2 then modCanStat (served s r) x.ep 4 else served s r) :=
      onlyParts_of_keeps (keeps_ite (modCanStat_keeps (Keeps.refl _ _) rfl) (Keeps.refl _ _))
    refine ⟨_, hexec, failTransfer_told _ hxe hxt _, ?_, ?_⟩
    · rw [← hxe, ← hxt]
      exact transferOf_failTransfer ..
    · exact ((served_only hh).andThen hcount (n := [.dict]) (by decide) (by decide)).andThen (failTransfer_only _ _ _) (by decide) (by decide)
  · obtain ⟨hxe, hxt⟩ := transfer_named hx
    have hexec : exec (.segAck r m) s = .next (grantRead (served s r) x m) := by
      show Host.Outcome.next (messageOf 0x13 r m s) = _
      rw [messageOf_served hh hmal hsess hcs rfl (by decide),
        continue_heard hh hx hxs hsess (by rw [hcs]; decide) (by rw [hcs]; decide) (by rw [hcs]; decide), if_neg (by rw [hcs]; decide), if_pos hcs]
    rw [grantRead_expected hread hseq] at hexec
    have hsent := (served_only hh).andThen (sendSegments_only (served s r) x x.segs (Nat.min (leNat m.payload) ((x.total + 55) / 56 - x.segs)))
      (n := [.dict, .out]) (by decide) (by decide)
    by_cases hfew : x.segs + leNat m.payload < (x.total + 55) / 56
    · have hmin : Nat.min (leNat m.payload) ((x.total + 55) / 56 - x.segs) = leNat m.payload := Nat.min_eq_left (by omega)
      rw [hmin] at hexec hsent
      rw [if_neg (by omega)] at hexec
      refine ⟨_, hexec, hsent.andThen (putTransfer_only _ _) (by decide) (by decide), fun _ => ?_, fun h => absurd hfew (Nat.not_lt.mpr h)⟩
      rw [← hxe, ← hxt]
      exact ⟨_, transferOf_putTransfer _ { x with segs := x.segs + leNat m.payload, lastAt := (sendSegments (served s r) x x.segs (leNat m.payload)).now }, rfl, rfl⟩
    · have hmin : x.segs + Nat.min (leNat m.payload) ((x.total + 55) / 56 - x.segs) = (x.total + 55) / 56 := by
        rw [show Nat.min (leNat m.payload) ((x.total + 55) / 56 - x.segs) = (x.total + 55) / 56 - x.segs from Nat.min_eq_right (by omega)]
        omega
      rw [if_pos hmin] at hexec
      refine ⟨_, hexec, ?_, fun h => absurd h hfew, fun _ => ⟨?_, ?_⟩⟩
      · exact (hsent.andThen (dropTransfer_only _ _ _) (n := [.dict, .out]) (by decide) (by decide)).andThen (reply_only _ _ _ _) (by decide) (by decide)
      · rw [transferOf_reply, ← hxe, ← hxt, transferOf_dropTransfer]
      · rw [hxe, hxt]
        exact reply_told ..
  · refine ⟨_, execAbort_heard hh hcs, transferOf_dropTransfer .., ?_⟩
    exact (expired_only hh).andThen (m := [.dict]) (onlyParts_of_keeps (nameSession_keeps (dropTransfer_keeps (keeps_ite
      (modCanStat_keeps (Keeps.refl _ _) rfl) (Keeps.refl _ _)) rfl) rfl)) (by decide) (by decide)
  · obtain ⟨hxe, hxt⟩ := transfer_named hx
    have hup : ttpUp (timeReaches s (x.lastAt + segLimit s)) r.ep.val = true := hh.1
    have hexec : exec (.segTimeout r.ep r.tag) s = .next (failTransfer (timeReaches s (x.lastAt + segLimit s)) x aTimeout) := by
      show execSegTimeout r.ep r.tag s = _
      rw [execSegTimeout, hx]
      exact next_if_pos hup ..
    refine ⟨_, hexec, ?_, ?_, failTransfer_told _ hxe hxt _, ?_⟩
    · rw [← hxe, ← hxt]
      exact transferOf_failTransfer ..
    · rw [failTransfer_only _ _ _ .now rfl]
      exact Nat.le_max_right ..
    · exact (onlyParts_of_keeps (l := [.now]) (timeReaches_keeps (Keeps.refl _ s) rfl)).andThen (failTransfer_only _ _ _) (by decide) (by decide)

end Sys2Proof.Machine

/-!
PROOFS. Commands that a client gives by writing an entry of the dictionary (R58, R635): the command's own effect, then the answer. Sessions (R62 to R67,
R580 to R582, R636), role secrets and attestation (R583, R584, R594).
-/
namespace Sys2Proof.Machine

set_option Elab.async false

/-! ### What a reply leaves -/

section
variable (s : State) (ep tag : Nat) (m : TtpMsg)

@[simp] theorem reply_mem : (reply s ep tag m).mem = s.mem := reply_only s ep tag m .mem rfl
@[simp] theorem reply_now : (reply s ep tag m).now = s.now := reply_only s ep tag m .now rfl
@[simp] theorem reply_integ : (reply s ep tag m).integ = s.integ := reply_only s ep tag m .integ rfl
@[simp] theorem reply_ep : (reply s ep tag m).ep = s.ep := reply_only s ep tag m .ep rfl
@[simp] theorem reply_part : (reply s ep tag m).part = s.part := reply_only s ep tag m .part rfl
@[simp] theorem reply_vs : (reply s ep tag m).vs = s.vs := reply_only s ep tag m .vs rfl
@[simp] theorem reply_fab : (reply s ep tag m).fab = s.fab := reply_only s ep tag m .fab rfl
@[simp] theorem reply_port : (reply s ep tag m).port = s.port := reply_only s ep tag m .port rfl
@[simp] theorem reply_led : (reply s ep tag m).led = s.led := reply_only s ep tag m .led rfl
@[simp] theorem reply_obs : (reply s ep tag m).obs = s.obs := reply_only s ep tag m .obs rfl
@[simp] theorem reply_time : (reply s ep tag m).time = s.time := reply_only s ep tag m .time rfl
@[simp] theorem reply_pow : (reply s ep tag m).pow = s.pow := reply_only s ep tag m .pow rfl
@[simp] theorem reply_sec : (reply s ep tag m).sec = s.sec := reply_only s ep tag m .sec rfl

/-- A reply counts itself and waits in its mailbox; the rest of the dictionary stays. -/
theorem reply_dict : (reply s ep tag m).dict.sessions = s.dict.sessions ∧ (reply s ep tag m).dict.challenges = s.dict.challenges ∧
    (reply s ep tag m).dict.challengeCtr = s.dict.challengeCtr := by
  unfold reply
  split
  · simp only [modCanStat, modCan, modDict_dict]
    split <;> exact ⟨rfl, rfl, rfl⟩
  · exact ⟨rfl, rfl, rfl⟩

@[simp] theorem reply_sessions : (reply s ep tag m).dict.sessions = s.dict.sessions := (reply_dict s ep tag m).1

@[simp] theorem challengeOf_reply (e c : Nat) : challengeOf (reply s ep tag m) e c = challengeOf s e c :=
  congrArg (List.find? _) (reply_dict s ep tag m).2.1

end

/-! ### A write that is heard -/

theorem leNat_u8 (v : BitVec 8) : leNat (u8 v.toNat) = v.toNat := by
  rw [u8, leNat_leBytes]
  exact Nat.mod_eq_of_lt v.isLt

theorem leNat_u16 (v : BitVec 16) : leNat (u16 v.toNat) = v.toNat := by
  rw [u16, leNat_leBytes]
  exact Nat.mod_eq_of_lt v.isLt

theorem leNat_u32 (v : BitVec 32) : leNat (u32 v.toNat) = v.toNat := by
  rw [u32, leNat_leBytes]
  exact Nat.mod_eq_of_lt v.isLt

theorem leNat_u64 (v : BitVec 64) : leNat (u64 v.toNat) = v.toNat := by
  rw [u64, leNat_leBytes]
  exact Nat.mod_eq_of_lt v.isLt

/-- A write that the value's own effect answers: the effect, on a state that differs in the dictionary's bookkeeping only, and then the reply. -/
theorem write_ok {s : State} {r : Req} {c : Caller} (h : Speaks s r c) {idx sub hw : Nat} {v : Bytes} (hp : Permitted s c idx sub v.length)
    (hi : idx < 65536) (hb : sub < 256) {k n : DictState → Nat} {w : DictState → State}
    (hf : ∀ d, HeardAs s c d → writeValue { s with dict := d } c idx sub v hw = .ok (k d) (n d) (w d)) : ∃ d m, HeardAs s c d ∧
      clientWrite s r idx sub v hw = reply (w d) r.ep.val r.tag.toNat m ∧ Written (reply (w d) r.ep.val r.tag.toNat m) r idx sub (k d) (n d) := by
  obtain ⟨d, m, hd, h1, rfl, rfl, -, he⟩ := clientWrite_heard (hw := hw) h hp hi hb
  rw [hf d hd, answerWrite, answer, h.1.2.2.2.2.1, h1] at he
  exact ⟨d, _, hd, he, reply_told ..⟩

/-- A write that is refused after its checks: the state the refusal leaves, and then the abort. -/
theorem write_refused {s : State} {r : Req} {c : Caller} (h : Speaks s r c) {idx sub hw : Nat} {v : Bytes} (hp : Permitted s c idx sub v.length)
    (hi : idx < 65536) (hb : sub < 256) {code : Nat} {w : DictState → State}
    (hf : ∀ d, HeardAs s c d → writeValue { s with dict := d } c idx sub v hw = .refused code (w d)) : ∃ d m, HeardAs s c d ∧
      clientWrite s r idx sub v hw = reply (w d) r.ep.val r.tag.toNat m ∧ Aborted (reply (w d) r.ep.val r.tag.toNat m) r idx sub code := by
  obtain ⟨d, m, hd, h1, rfl, rfl, -, he⟩ := clientWrite_heard (hw := hw) h hp hi hb
  rw [hf d hd, answerWrite, abortTo, answer, h.1.2.2.2.2.1, h1] at he
  exact ⟨d, _, hd, he, reply_told ..⟩

/-- Where the dictionary has such an entry, it is a command. -/
def commandIfAny (idx sub : Nat) : Bool :=
  match odLookup idx sub with
  | .inr e => decide (e.acc = .wo)
  | .inl _ => true

/-- A permitted write names an entry. -/
theorem permitted_lookup {s : State} {c : Caller} {idx sub n : Nat} (h : Permitted s c idx sub n) : ∃ e, odLookup idx sub = .inr e := by
  obtain ⟨e, h⟩ := h
  unfold writeEntry at h
  split at h
  · cases h
  · split at h
    · cases h
    · next e' he => exact ⟨e', he⟩

theorem writeValue_command {s : State} {c : Caller} {idx sub n : Nat} (h : Permitted s c idx sub n) (hc : commandIfAny idx sub = true)
    (u : State) (v : Bytes) (hw : Nat) : writeValue u c idx sub v hw = commandWrite u c idx sub v hw := by
  obtain ⟨e, he⟩ := permitted_lookup h
  rw [commandIfAny, he] at hc
  rw [writeValue, he]
  exact if_pos (of_decide_eq_true hc)

theorem command_ok {s : State} {r : Req} {c : Caller} (h : Speaks s r c) {idx sub hw : Nat} {v : Bytes} (hp : Permitted s c idx sub v.length)
    (hc : commandIfAny idx sub = true) (hi : idx < 65536) (hb : sub < 256) {k n : DictState → Nat} {w : DictState → State}
    (hf : ∀ d, HeardAs s c d → commandWrite { s with dict := d } c idx sub v hw = .ok (k d) (n d) (w d)) : ∃ d m, HeardAs s c d ∧
      clientWrite s r idx sub v hw = reply (w d) r.ep.val r.tag.toNat m ∧ Written (reply (w d) r.ep.val r.tag.toNat m) r idx sub (k d) (n d) :=
  write_ok h hp hi hb fun d hd => (writeValue_command hp hc ..).trans (hf d hd)

theorem command_aborted {s : State} {r : Req} {c : Caller} (h : Speaks s r c) {idx sub hw : Nat} {v : Bytes} (hp : Permitted s c idx sub v.length)
    (hc : commandIfAny idx sub = true) (hi : idx < 65536) (hb : sub < 256) {code : Nat} {w : DictState → State}
    (hf : ∀ d, HeardAs s c d → commandWrite { s with dict := d } c idx sub v hw = .refused code (w d)) : ∃ d m, HeardAs s c d ∧
      clientWrite s r idx sub v hw = reply (w d) r.ep.val r.tag.toNat m ∧ Aborted (reply (w d) r.ep.val r.tag.toNat m) r idx sub code :=
  write_refused h hp hi hb fun d hd => (writeValue_command hp hc ..).trans (hf d hd)

/-- What a heard write changes: the dictionary's bookkeeping, the value's own effect, and the reply. -/
theorem replied_only {s : State} {d : DictState} {w : State} {l n : List Part} (h : OnlyParts l { s with dict := d } w) (hl : l ⊆ n) (hd : [.dict, .out] ⊆ n)
    (ep tag : Nat) (m : TtpMsg) : OnlyParts n s (reply w ep tag m) := by
  have h0 : OnlyParts [.dict] s (modDict s fun _ => d) := onlyParts_of_keeps (modDict_keeps (Keeps.refl _ s) rfl)
  have h1 : OnlyParts n s w := h0.andThen (u := { s with dict := d }) h (fun p hp => hd (by simp_all)) hl
  exact h1.andThen (reply_only w ep tag m) (fun _ h => h) hd

/-! ### Sessions -/

theorem drawBytes_state (n : Nat) (s : State) : (drawBytes n s).2 = { s with freeCount := s.freeCount + n } := by
  induction n generalizing s with
  | zero => rfl
  | succ n ih =>
    show (drawBytes n (draw s).2).2 = _
    rw [ih]
    simp only [draw]
    congr 1
    omega

/-- A fresh challenge is 32 bytes: 16 drawn, then the time, the client and the counter (R580). -/
theorem newChallenge_bytes (s : State) (c : Caller) : (newChallenge s c).1.length = 32 ∧
    (newChallenge s c).1.drop 16 = leBytes 8 s.now ++ leBytes 1 c.ep ++ leBytes 1 c.client ++ zeros 2 ++ leBytes 4 (s.dict.challengeCtr + 1).toNat := by
  have hb : (newChallenge s c).1 = (drawBytes 16 s).1 ++ leBytes 8 s.now ++ leBytes 1 c.ep ++ leBytes 1 c.client ++ zeros 2 ++
      leBytes 4 (s.dict.challengeCtr + 1).toNat := by
    simp only [newChallenge, drawBytes_state]
  rw [hb]
  refine ⟨by simp [length_drawBytes, length_leBytes, zeros], ?_⟩
  simp only [List.append_assoc]
  exact List.drop_left' (length_drawBytes 16 s)

theorem challengeOf_newChallenge (s : State) (c : Caller) : ∃ x, challengeOf (newChallenge s c).2 c.ep c.client = some x ∧
    x.bytes = (newChallenge s c).1 ∧ x.at_ = s.now := by
  refine ⟨{ ep := c.ep, client := c.client, bytes := (newChallenge s c).1, at_ := s.now }, ?_, rfl, rfl⟩
  have hnone : (s.dict.challenges.filter (fun x => !(x.ep == c.ep && x.client == c.client))).find? (fun x => x.ep == c.ep && x.client == c.client) = none :=
    challengeOf_dropChallenge s c.ep c.client
  simp only [challengeOf, newChallenge, drawBytes_state, modDict_dict]
  rw [List.find?_append, hnone]
  simp

theorem newChallenge_only (s : State) (c : Caller) : OnlyParts [.dict, .free] s (newChallenge s c).2 :=
  onlyParts_of_keeps (newChallenge_keeps (Keeps.refl _ s) rfl rfl)

theorem odRead_challenge {s : State} {c : Caller} (h : engineRandom s (mgmtDeckle s) = true) (v g : Bool) : odRead s c 0x1100 1 v g =
    (.inr (newChallenge s c).1, (newChallenge s c).2) := by
  obtain ⟨e, hlook, hreaders, hacc⟩ : ∃ e, odLookup 0x1100 1 = .inr e ∧ e.readers = [.any] ∧ e.acc = .ro := ⟨_, rfl, rfl, rfl⟩
  have hallow : readAllowed s c e 0x1100 1 = true := by simp [readAllowed, mayRead, roleListed, hreaders]
  have hdown : unitDown s false 0x1100 1 = false := by
    rw [unitDown, show holderOf 0x1100 1 = none from rfl, show ringOf 0x1100 1 = none from rfl, show securityNeed 0x1100 1 = some true from rfl]
    simp [h]
  have hstate : readState s c 0x1100 1 = none := rfl
  rw [odRead, if_neg (by simp), hlook]
  simp only [hacc, hallow, hdown, hstate]
  rfl

/-- With fewer than 63 sessions open some session ID is free. -/
theorem freeSession_range {s : State} (h : s.dict.sessions.length < 63) : 1 ≤ freeSession s ∧ freeSession s ≤ 63 := by
  unfold freeSession
  cases hf : ((List.range 63).map (· + 1)).find? (fun i => (tget s.dict.sessions i).isNone) with
  | some i =>
    have hmem := List.mem_of_find?_eq_some hf
    simp at hmem
    obtain ⟨j, hj, rfl⟩ := hmem
    exact ⟨Nat.le_add_left .., hj⟩
  | none =>
    have hall : (List.range 63).map (· + 1) ⊆ s.dict.sessions.map (·.1) := by
      intro i hi
      have hsome := List.find?_eq_none.mp hf i hi
      obtain ⟨x, hx⟩ := Option.isSome_iff_exists.mp (by simpa [Option.isSome_iff_ne_none] using hsome)
      exact List.mem_map.mpr ⟨_, tget_mem _ _ _ hx, rfl⟩
    have hnodup : ((List.range 63).map (· + 1)).Nodup := List.Pairwise.map _ (fun _ _ hne h => hne (Nat.succ.inj h)) List.nodup_range
    have hlen := hnodup.length_le_of_subset hall
    simp at hlen
    omega

/-- Which sessions are there is the same for a heard message, but for those that have expired. -/
theorem HeardAs.sessions_le {s : State} {c : Caller} {d : DictState} (h : HeardAs s c d) : d.sessions.length ≤ s.dict.sessions.length ∧
    ∀ ep, (d.sessions.filter (fun e => e.2.ep == ep)).length ≤ sessionsOf s ep := by
  refine ⟨?_, fun ep => ?_⟩
  · rw [h.sessions, List.length_map]
    exact List.length_filter_le ..
  · have hp : (fun e : Nat × Session => e.2.ep == ep) ∘ (fun e => if e.1 = c.session && e.2.ep = c.ep then (e.1, { e.2 with lastAt := s.now }) else e) =
        fun e => e.2.ep == ep := by
      funext e
      simp only [Function.comp_apply]
      split <;> rfl
    rw [h.sessions, List.filter_map, List.length_map, hp, List.filter_filter, sessionsOf]
    rw [← List.countP_eq_length_filter, ← List.countP_eq_length_filter]
    exact List.countP_mono_left fun e _ he => by simp_all

theorem responseRight_heard {s : State} {c : Caller} {d : DictState} (h : HeardAs s c d) (v : Bytes) :
    responseRight { s with dict := d } c v = responseRight s c v := by
  simp only [responseRight, challengeOf, h.challenges]
  rfl

/-- The state in which a wrong response is counted and logged (R582). -/
def responseWrong (s : State) (c : Caller) : State :=
  secReport (modSec (dropChallenge s c.ep c.client) fun x => { x with authFailures := x.authFailures + 1 }) (mgmtDeckle s) 0xC0 1 (c.ep + c.client * 256)

theorem responseWrong_reported (s : State) (c : Caller) : Reported s (responseWrong s c) 0xC0 1 :=
  (secReport_reported (modSec (dropChallenge s c.ep c.client) fun x => { x with authFailures := x.authFailures + 1 }) (mgmtDeckle s) 0xC0 1 _).congr rfl rfl

theorem responseWrong_only (s : State) (c : Caller) : OnlyParts [.dict, .integ, .obs, .sec] s (responseWrong s c) :=
  onlyParts_of_keeps (secReport_keeps (modSec_keeps (dropChallenge_keeps (Keeps.refl _ s) rfl) (fun _ => fuses_same rfl rfl) rfl) rfl rfl)

/-- The session that a right response opens (R582). -/
def openedSession (s : State) (c : Caller) (v : Bytes) : Session :=
  { ep := c.ep, role := field v 0 1, partition := field v 1 1, client := c.client, openedAt := s.now, lastAt := s.now }

theorem sessionResponse_wrong {s : State} {c : Caller} {v : Bytes} (hrole : roleValid (field v 0 1) (field v 1 1) = true) (hres : field v 2 2 = 0)
    (hright : responseRight s c v = false) : sessionResponse s c v = .refused aAuthFailed (responseWrong s c) := by
  rw [sessionResponse, hrole, hres]
  refine (if_neg (by decide)).trans ?_
  rw [hright]
  rfl

theorem sessionResponse_right {s : State} {c : Caller} {v : Bytes} (hrole : roleValid (field v 0 1) (field v 1 1) = true) (hres : field v 2 2 = 0)
    (hright : responseRight s c v = true) (hfew : sessionsOf s c.ep < 8) (htotal : s.dict.sessions.length < 48) : sessionResponse s c v =
      .ok 0 (freeSession s) (modDict (dropChallenge s c.ep c.client) fun d => { d with sessions := tput d.sessions (freeSession s) (openedSession s c v) }) := by
  rw [sessionResponse, hrole, hres]
  refine (if_neg (by decide)).trans ?_
  rw [hright]
  exact (if_neg (by decide)).trans (if_neg (by
    simp only [Bool.or_eq_true, decide_eq_true_eq, not_or, Nat.not_le]
    exact ⟨hfew, htotal⟩))

/-- Settles O21: the challenge, the response in its two cases, and the close. -/
theorem sessionCommandsComplete : Obligations.SessionCommandsComplete := by
  intro s r c h
  have hep : c.ep = r.ep.val := h.1.2.2.2.2.1
  refine ⟨fun hrand => ?_, fun v hlen hp hrole hres hfew htotal => ?_, fun id hp hne hle hmine => ?_⟩
  · obtain ⟨d, m, hd, hs, hi, hsub, hflags, -, he⟩ := clientRead_heard h (idx := 0x1100) (sub := 1) (by decide) (by decide)
    have hrand' : engineRandom { s with dict := d } (mgmtDeckle { s with dict := d }) = true := hrand
    obtain ⟨hlen, hdrop⟩ := newChallenge_bytes { s with dict := d } c
    obtain ⟨x, hx, hxb, hxa⟩ := challengeOf_newChallenge { s with dict := d } c
    rw [answerRead, hi, hsub, odRead_challenge hrand'] at he
    simp only [hlen] at he
    rw [if_pos (by decide), answer, hep, hs, hi, hsub] at he
    refine ⟨_, _, congrArg Host.Outcome.next he, hlen, ?_, ⟨x, ?_, hxb, hxa⟩, ?_, reply_told .., ?_⟩
    · rw [hdrop, hd.ctr]
    · rw [challengeOf_reply, hx]
    · rw [(reply_dict ..).2.2, ← hd.ctr]
      rfl
    · exact replied_only (newChallenge_only _ c) (by decide) (by decide) _ _ _
  · have hright' (d : DictState) (hd : HeardAs s c d) := responseRight_heard hd v
    have hp' : Permitted s c 0x1100 2 v.length := by rw [hlen]; exact hp
    cases hright : responseRight s c v
    · obtain ⟨d, m, hd, he, hw⟩ := command_aborted (hw := 0) h hp' rfl (by decide) (by decide) (w := fun d => responseWrong { s with dict := d } c)
        fun d hd => sessionResponse_wrong hrole hres ((hright' d hd).trans hright)
      refine ⟨_, congrArg Host.Outcome.next he, ?_, fun hf => (nomatch hf), fun _ => ⟨?_, ?_, hw, ?_⟩⟩
      · rw [challengeOf_reply]
        exact (congrArg (fun d : DictState => d.challenges.find? _) (secReport_dict ..)).trans (challengeOf_dropChallenge { s with dict := d } c.ep c.client)
      · rw [reply_sec]
        exact congrArg SecState.authFailures (secReport_sec ..)
      · exact (responseWrong_reported { s with dict := d } c).congr rfl (reply_integ ..)
      · exact replied_only (responseWrong_only _ c) (by decide) (by decide) _ _ _
    · obtain ⟨d, m, hd, he, hw⟩ := command_ok (hw := 0) h hp' rfl (by decide) (by decide) (k := fun _ => 0) (n := fun d => freeSession { s with dict := d })
        (w := fun d => _)
        fun d hd => sessionResponse_right hrole hres ((hright' d hd).trans hright) (Nat.lt_of_le_of_lt (hd.sessions_le.2 _) hfew)
          (Nat.lt_of_le_of_lt hd.sessions_le.1 htotal)
      have hfree := freeSession_range (s := { s with dict := d }) (Nat.lt_of_le_of_lt hd.sessions_le.1 (by omega))
      refine ⟨_, congrArg Host.Outcome.next he, ?_, fun _ => ⟨?_, _, openedSession s c v, hfree.1, hfree.2, hw, ?_, rfl, rfl, rfl, rfl, rfl⟩, fun hf => (nomatch hf)⟩
      · rw [challengeOf_reply]
        exact challengeOf_dropChallenge ..
      · exact replied_only (l := [.dict]) (onlyParts_of_keeps (modDict_keeps (dropChallenge_keeps (Keeps.refl _ _) rfl) rfl)) (by decide) (by decide) _ _ _
      · rw [reply_sessions]
        exact tget_tput_self ..
  · have h0 : id.toNat ≠ 0 := fun h0 => hne (BitVec.eq_of_toNat_eq h0)
    have hf : ∀ d, HeardAs s c d → commandWrite { s with dict := d } c 0x1101 0 (u8 id.toNat) 0 =
        .ok 0 0 (modDict { s with dict := d } fun d => { d with sessions := tdel d.sessions id.toNat }) := by
      intro d hd
      show sessionClose _ c (leNat (u8 id.toNat)) = _
      rw [leNat_u8, sessionClose, if_neg (by simp only [Bool.or_eq_true, decide_eq_true_eq]; omega), if_neg (by simpa [Decidable.imp_iff_not_or, or_comm] using hmine)]
      rfl
    obtain ⟨d, m, hd, he, hw⟩ := command_ok (hw := 0) h (v := u8 id.toNat) hp rfl (by decide) (by decide) hf
    refine ⟨_, congrArg Host.Outcome.next he, ?_, hw, ?_⟩
    · rw [reply_sessions]
      exact tget_tdel_self ..
    · exact replied_only (l := [.dict]) (onlyParts_of_keeps (modDict_keeps (Keeps.refl _ _) rfl)) (by decide) (by decide) _ _ _

/-! ### Role secrets and attestation -/

theorem closeRole_only (s : State) (role part keep : Nat) : OnlyParts [.dict] s (closeRole s role part keep) :=
  onlyParts_of_keeps (closeRole_keeps (Keeps.refl _ s) rfl)

/-- What stays of a role and partition is the session kept (R583). -/
theorem closeRole_sessions (s : State) {role part keep : Nat} : ∀ x ∈ (closeRole s role part keep).dict.sessions,
    x.2.role = role → x.2.partition = part → x.1 = keep := by
  intro x hx hr hp
  simpa [hr, hp] using (List.mem_filter.mp hx).2

theorem modSec_only (s : State) (f : SecState → SecState) : OnlyParts [.sec] s (modSec s f) := by
  intro p hp
  cases p <;> simp_all [Part.same]

/-- The state in which a role's secret is enrolled and its other sessions are closed (R583). -/
def roleEnrolled (s : State) (c : Caller) (role part : Nat) (k : Bytes) : State :=
  closeRole (modSec s fun x => { x with roles := tput x.roles (16 * role + part) k }) role part c.session

theorem roleEnrolled_only (s : State) (c : Caller) (role part : Nat) (k : Bytes) : OnlyParts [.dict, .sec] s (roleEnrolled s c role part k) :=
  (modSec_only s _).andThen (closeRole_only _ role part c.session) (by decide) (by decide)

theorem roleEnrol_checked {s : State} {c : Caller} {v : Bytes} (hrole : c.role = 1 ∨ (field v 0 1 = 1 ∧ operatorEnrolled s = false))
    (hvalid : roleValid (field v 0 1) (field v 1 1) = true) (h2 : field v 2 2 = 0) (h101 : field v 101 3 = 0) : roleEnrol s c v =
      match agreedUnwrap enrolKey (slice v 4 97) (ascii "PQ20-ENROL") (leBytes 1 (field v 0 1) ++ leBytes 1 (field v 1 1)) (slice v 104 40) with
      | none => .refused aAuthFailed s
      | some k => applied (roleEnrolled s c (field v 0 1) (field v 1 1) k) := by
  rw [roleEnrol]
  refine (if_neg ?_).trans (if_neg ?_)
  · rcases hrole with h | ⟨h, ho⟩
    · simp [h]
    · simp [h, ho]
  · rw [hvalid, h2, h101]
    decide

theorem roleRevoke_valid {s : State} {v : Nat} (hvalid : roleValid (bits v 7 0) (bits v 15 8) = true) (hrole : bits v 7 0 ≠ 1) : roleRevoke s v =
    applied (closeRole (modSec s fun x => { x with roles := tdel x.roles (16 * bits v 7 0 + bits v 15 8) }) (bits v 7 0) (bits v 15 8) 64) := by
  rw [roleRevoke, hvalid]
  exact (if_neg (by decide)).trans (if_neg hrole)

theorem deviceState_dict (s : State) (d : DictState) (h : d.rw = s.dict.rw) : deviceState { s with dict := d } = deviceState s := by
  have hvia : ∀ die, serviceVia { s with dict := d } die = serviceVia s die := fun die => by
    simp only [serviceVia, setting_dict s d h]
    rfl
  have hset : serviceSet { s with dict := d } = serviceSet s := by simp only [serviceSet, hvia]
  simp only [deviceState, hset]
  rfl

/-- Table 16.8 as a function of what it reads: the image, scopes, tick, configuration, epoch, device state, log and fuses. -/
def attestationOf (boot scope now : Nat) (image config : Bytes) (count seq tint device version log lowest floor : Nat) (nonce : Bytes) : Bytes :=
  let b := leBytes 4 0x54415150 ++ leBytes 1 1 ++ leBytes 1 0x11 ++ leBytes 1 boot ++ leBytes 1 scope ++ serialBytes
    ++ leBytes 8 now ++ padTo nonce 32 ++ padTo image 48 ++ tableSetDigest ++ padTo config 48
    ++ leBytes 8 count ++ leBytes 4 seq ++ leBytes 1 tint ++ leBytes 1 device ++ zeros 2
    ++ leBytes 4 version ++ leBytes 4 log ++ leBytes 1 lowest ++ leBytes 1 floor ++ zeros 6
  b ++ padTo (deviceSign (sha384 b)) 96

theorem attestation_eq (s : State) (n : Bytes) : attestation s n =
    attestationOf (bootImage s) (scopes s) s.now s.pow.image.digest s.part.configDigest s.ep.count s.part.configSeq.toNat s.tint (deviceState s)
      s.pow.image.version s.integ.nextSeq.toNat (lowestCount s) s.sec.floor n := rfl

theorem attestation_dict (s : State) (d : DictState) (h : d.rw = s.dict.rw) (n : Bytes) : attestation { s with dict := d } n = attestation s n := by
  rw [attestation_eq, attestation_eq, deviceState_dict s d h]
  rfl

theorem attestation_long (s : State) (n : Bytes) : ¬(attestation s n).length ≤ 56 := by
  obtain ⟨b, sig, h⟩ : ∃ b sig, attestation s n = b ++ padTo sig 96 := ⟨_, _, rfl⟩
  rw [h, List.length_append, length_padTo]
  omega

theorem odRead_attestation {s : State} {c : Caller} {n : Bytes} (hn : heldNonce s c = some n) (hup : engineUp s (mgmtDeckle s) = true) (v g : Bool) :
    odRead s c 0x8030 2 v g = (.inr (attestation s n), s) := by
  obtain ⟨e, hlook, hreaders, hacc⟩ : ∃ e, odLookup 0x8030 2 = .inr e ∧ e.readers = [.any] ∧ e.acc = .ro := ⟨_, rfl, rfl, rfl⟩
  have hallow : readAllowed s c e 0x8030 2 = true := by simp [readAllowed, mayRead, roleListed, hreaders]
  have hdown : unitDown s false 0x8030 2 = false := by
    rw [unitDown, show holderOf 0x8030 2 = none from rfl, show ringOf 0x8030 2 = none from rfl, show securityNeed 0x8030 2 = some false from rfl]
    simp [hup]
  have hstate : readState s c 0x8030 2 = none := by
    rw [readState, hn]
    rfl
  have hval : roValue s c v 0x8030 2 = attestation s ((heldNonce s c).getD []) := rfl
  rw [odRead, if_neg (by simp), hlook]
  simp only [hacc, hallow, hdown, hstate, hval, hn]
  rfl

/-- The state in which the unlock has ended by its revocation: its Service sessions closed and the end reported (R596). -/
def unlockEnded (s : State) : State := secReport (closeService (modSec s fun v => { v with unlock := none }) 0) (mgmtDeckle s) 0xC4 1 2

theorem closeService_only (s : State) (keep : Nat) : OnlyParts [.dict] s (closeService s keep) := by
  rw [closeService]
  split
  · exact fun p _ => by cases p <;> rfl
  · intro p hp
    cases p <;> simp_all [Part.same]

theorem secReport_only (s : State) (d k x y : Nat) : OnlyParts [.integ, .obs] s (secReport s d k x y) := by
  intro p hp
  cases p <;> simp_all [Part.same]

theorem unlockEnded_only (s : State) : OnlyParts [.dict, .integ, .obs, .sec] s (unlockEnded s) :=
  ((modSec_only s _).andThen (closeService_only _ 0) (n := [.dict, .sec]) (by decide) (by decide)).andThen (secReport_only _ _ _ _ _)
    (by decide) (by decide)

/-- Settles O22: each command by the state its effect leaves and the answer behind it. -/
theorem roleAndAttestationCommandsComplete : Obligations.RoleAndAttestationCommandsComplete := by
  intro s r c h
  have hep : c.ep = r.ep.val := h.1.2.2.2.2.1
  refine ⟨fun v hp hrole hlen hvalid h2 h101 => ?_, fun v hp hvalid hrole => ?_, fun n hlen hp => ?_, fun n hn hup => ?_, fun u hp hu => ?_, fun hp => ?_,
    fun d v hp => ?_⟩
  · cases hk : agreedUnwrap enrolKey (slice v 4 97) (ascii "PQ20-ENROL") (leBytes 1 (field v 0 1) ++ leBytes 1 (field v 1 1)) (slice v 104 40) with
    | none =>
      obtain ⟨d, m, hd, he, hw⟩ := command_aborted (hw := 0) h hp rfl (by decide) (by decide) (code := aAuthFailed) (w := fun d => { s with dict := d })
        fun d hd => (roleEnrol_checked (s := { s with dict := d }) hrole hvalid h2 h101).trans (by rw [hk])
      exact ⟨_, congrArg Host.Outcome.next he, hw, replied_only (l := []) (fun p _ => by cases p <;> rfl) (by decide) (by decide) _ _ _⟩
    | some k =>
      obtain ⟨d, m, hd, he, hw⟩ := command_ok (hw := 0) h hp rfl (by decide) (by decide) (k := fun _ => 0) (n := fun _ => 0)
        (w := fun d => roleEnrolled { s with dict := d } c (field v 0 1) (field v 1 1) k)
        fun d hd => (roleEnrol_checked (s := { s with dict := d }) hrole hvalid h2 h101).trans (by rw [hk]; rfl)
      refine ⟨_, congrArg Host.Outcome.next he, ?_, hw, replied_only (roleEnrolled_only _ c _ _ k) (by decide) (by decide) _ _ _, ?_⟩
      · rw [roleSecret, reply_sec]
        exact tget_tput_self ..
      · rw [reply_sessions]
        exact closeRole_sessions _
  · obtain ⟨d, m, hd, he, hw⟩ := command_ok (hw := 0) h (v := u16 v.toNat) hp rfl (by decide) (by decide) (k := fun _ => 0) (n := fun _ => 0)
      (w := fun d => closeRole (modSec { s with dict := d } fun x => { x with roles := tdel x.roles (16 * bits v.toNat 7 0 + bits v.toNat 15 8) })
        (bits v.toNat 7 0) (bits v.toNat 15 8) 64)
      fun d hd => by
        show roleRevoke { s with dict := d } (leNat (u16 v.toNat)) = _
        rw [leNat_u16]
        exact roleRevoke_valid hvalid hrole
    refine ⟨_, congrArg Host.Outcome.next he, ?_, hw, fun x hx hr hpart => ?_, ?_⟩
    · rw [roleSecret, reply_sec]
      exact tget_tdel_self ..
    · rw [reply_sessions] at hx
      rw [closeRole_sessions _ x hx hr hpart]
      decide
    · exact replied_only ((modSec_only _ _).andThen (closeRole_only _ _ _ _) (n := [.dict, .sec]) (by decide) (by decide)) (by decide) (by decide) _ _ _
  · have hp' : Permitted s c 0x8030 1 n.length := by rw [hlen]; exact hp
    obtain ⟨d, m, hd, he, hw⟩ := command_ok (hw := 0) h hp' rfl (by decide) (by decide) (k := fun _ => 0) (n := fun _ => 0)
      (w := fun d => attestNonce { s with dict := d } c n) fun d hd => rfl
    refine ⟨_, congrArg Host.Outcome.next he, ?_, hw, ?_, replied_only (modSec_only _ _) (by decide) (by decide) _ _ _⟩
    · rw [heldNonce, reply_sec, reply_now]
      simp [attestNonce]
    · rw [reply_sec]
      rfl
  · obtain ⟨d, m, hd, hs, hi, hsub, hflags, -, he⟩ := clientRead_heard h (idx := 0x8030) (sub := 2) (by decide) (by decide)
    have hrd : odRead { s with dict := d } c m.index.toNat m.sub.toNat (viewFlag m) (groundFlag m) = (.inr (attestation s n), { s with dict := d }) := by
      rw [hi, hsub, odRead_attestation (s := { s with dict := d }) hn hup, attestation_dict s d hd.rw_]
    rw [answerRead_value (by rw [hrd]) (by rw [hep]; exact hd.transfersFull h.2.2), if_neg (attestation_long s n), hrd] at he
    refine ⟨_, readTransfer { s with dict := d } c r.tag.toNat m (attestation s n), congrArg Host.Outcome.next he, ?_, rfl, rfl,
      answer_told _ r m 0x11 _ hep hs hi hsub, replied_only (putTransfer_only _ _) (by decide) (by decide) _ _ _⟩
    rw [answer, transferOf_reply, ← hep]
    exact transferOf_putTransfer ..
  · obtain ⟨d, m, hd, he, hw⟩ := command_ok (hw := 0) h (v := u8 1) hp rfl (by decide) (by decide) (k := fun _ => 0) (n := fun _ => 0)
      (w := fun d => unlockEnded { s with dict := d }) fun d hd =>
        congrArg applied (endUnlock_unlocked (s := { s with dict := d }) hu 2)
    refine ⟨_, congrArg Host.Outcome.next he, ?_, ?_, ?_, hw, ?_⟩
    · rw [reply_sec, unlockEnded, secReport_sec]
      rfl
    · exact (secReport_reported (closeService (modSec { s with dict := d } fun v => { v with unlock := none }) 0) (mgmtDeckle s) 0xC4 1 2).congr rfl
        (reply_integ ..)
    · rw [reply_sessions, unlockEnded, secReport_dict, closeService_zero_dict]
      intro y hy
      simpa using (List.mem_filter.mp hy).2
    · exact replied_only (unlockEnded_only _) (by decide) (by decide) _ _ _
  · obtain ⟨d, m, hd, he, hw⟩ := command_ok (hw := 0) h (v := u8 1) hp rfl (by decide) (by decide) (k := fun _ => 0) (n := fun _ => 0)
      (w := fun d => floorCommit { s with dict := d }) fun d hd => rfl
    refine ⟨_, congrArg Host.Outcome.next he, ?_, hw, ?_, replied_only (modSec_only _ _) (by decide) (by decide) _ _ _⟩
    · rw [reply_sec]
      rfl
    · rw [reply_sec]
      rfl
  · obtain ⟨d', m, hd, he, hw⟩ := command_ok (hw := 0) h (v := u32 v.toNat) hp ((by decide : ∀ d : VatId, commandIfAny 0xF002 (d.val + 1) = true) d)
      (by decide) (by omega) (k := fun _ => 0) (n := fun _ => 0)
      (w := fun d' => modSec { s with dict := d' } fun k => { k with bist := tput k.bist d.val v.toNat }) fun d' hd => by
        show applied (modSec _ fun k => { k with bist := tput k.bist (d.val + 1 - 1) (leNat (u32 v.toNat)) }) = _
        rw [leNat_u32, Nat.add_sub_cancel]
        rfl
    refine ⟨_, congrArg Host.Outcome.next he, ?_, hw, replied_only (modSec_only _ _) (by decide) (by decide) _ _ _⟩
    rw [reply_sec]
    exact tget_tput_self ..

end Sys2Proof.Machine

/-!
PROOFS. Commands written into the dictionary: unlock tokens, SCAN and ZEROISE (R591 to R593, R595, R599), sequencers and groups (R198, R199, R310,
R313), the log, crossings and wall time (R353, R378, R390).
-/
namespace Sys2Proof.Machine

set_option Elab.async false

/-! ### Unlock tokens -/

/-- The state in which a token is refused: the refusal counted and logged (R595). -/
def tokenRefused (s : State) (detail : Nat) : State :=
  secReport (modSec s fun v => { v with counts := bump v.counts 3 }) (mgmtDeckle s) 0xC3 2 detail

/-- An unlock in force ends as another one is opened (R596). -/
def unlockReplaced (s : State) : State := if s.sec.unlock.isSome then secReport s (mgmtDeckle s) 0xC4 1 3 else s

/-- The state in which a token's scopes are open, before the nonce is drawn afresh (R596). -/
def scopesOpened (s : State) (t : Bytes) : State :=
  secReport (modSec (closeService (unlockReplaced s) (field t 56 4)) fun v =>
    { v with unlock := some (field t 56 4, (unlockReplaced s).now + field t 60 4 * 1000000000), counts := bump v.counts 2 })
    (mgmtDeckle (unlockReplaced s)) 0xC2 1 (field t 56 4)

theorem unlockToken_refused {s : State} {v : Bytes} {code d : Nat} (h : tokenCheck s v = some (code, d)) :
    unlockToken s v = .refused code (tokenRefused s d) := by
  rw [unlockToken, h]
  rfl

theorem unlockReplaced_now (s : State) : (unlockReplaced s).now = s.now := by
  rw [unlockReplaced]
  split
  · exact secReport_only _ _ _ _ _ .now rfl
  · rfl

theorem unlockToken_taken {s : State} {v : Bytes} (h : tokenCheck s v = none) : unlockToken s v = applied (newNonce (scopesOpened s v)) := by
  have hm : mgmtDeckle (unlockReplaced s) = mgmtDeckle (modSec (closeService (unlockReplaced s) (field v 56 4)) fun x =>
      { x with unlock := some (field v 56 4, (unlockReplaced s).now + field v 60 4 * 1000000000), counts := bump x.counts 2 }) := by
    have hp : (closeService (unlockReplaced s) (field v 56 4)).pow = (unlockReplaced s).pow := closeService_only _ _ .pow rfl
    exact (congrArg (fun p : PowState => p.mgmt - 16) hp).symm
  rw [unlockToken, h, scopesOpened, hm]
  rfl

theorem scopesOpened_unlock (s : State) (v : Bytes) : (scopesOpened s v).sec.unlock = some (field v 56 4, s.now + field v 60 4 * 10 ^ 9) := by
  rw [scopesOpened, secReport_sec, unlockReplaced_now]
  rfl

theorem scopesOpened_only (s : State) (v : Bytes) : OnlyParts [.dict, .integ, .obs, .sec] s (scopesOpened s v) := by
  have hr : OnlyParts [.integ, .obs] s (unlockReplaced s) := by
    rw [unlockReplaced]
    split
    · exact secReport_only _ _ _ _ _
    · exact fun p _ => by cases p <;> rfl
  exact ((hr.andThen (closeService_only _ _) (n := [.dict, .integ, .obs, .sec]) (by decide) (by decide)).andThen (modSec_only _ _) (fun _ h => h)
    (by decide)).andThen (secReport_only _ _ _ _ _) (fun _ h => h) (by decide)

theorem scopesOpened_reported {s : State} (v : Bytes) (h : s.sec.unlock = none) : Reported s (scopesOpened s v) 0xC2 1 := by
  have hr : unlockReplaced s = s := if_neg (by simp [h])
  rw [scopesOpened, hr]
  refine (secReport_reported (modSec (closeService s (field v 56 4)) fun x =>
    { x with unlock := some (field v 56 4, s.now + field v 60 4 * 1000000000), counts := bump x.counts 2 }) (mgmtDeckle s) 0xC2 1 _).congr ?_ rfl
  exact (closeService_only s _ .integ rfl).symm

/-! ### SCAN -/

/-- With every ledger engine stopped there is none to stop. -/
theorem stopLedgers_stopped {s : State} (h : ledgersStopped s = true) : stopLedgers s = s := by
  have hk : ∀ k ∈ List.range 4, (dieUp s (16 + k) && stopOk s k) = false := by
    intro k hk
    have := List.all_eq_true.mp h k hk
    simp only [stopOk]
    revert this
    cases dieUp s (16 + k)
    · simp
    · simp
      omega
  rw [stopLedgers]
  generalize List.range 4 = l at hk
  induction l with
  | nil => rfl
  | cons k l ih =>
    rw [List.foldl_cons, if_neg (by simp [hk k (by simp)])]
    exact ih fun k h => hk k (by simp [h])

theorem scanEnter_waiting {s : State} (h0 : s.sec.scan = 0) (h : admittedDone s = false) : scanEnter s = modSec s fun v => { v with scan := 1 } := by
  have ha : admittedDone (modSec s fun v => { v with scan := 1 }) = false := h
  rw [scanEnter, if_pos h0, scanGo]
  refine (congrArg (fun u : State => if u.sec.scan = 2 && ledgersStopped u then _ else u) (if_neg (by simp [ha]))).trans (if_neg (by simp))

/-- SCAN is entered: no key is held and the device is in FAULT (R599). -/
def scanEntered (s : State) : State :=
  withDevice (fun u => modPow (modSec u fun v => { v with scan := 3, keysCleared := true }) fun w => { w with fault := true })
    (modSec s fun v => { v with scan := 2 })

theorem scanEnter_done {s : State} (h0 : s.sec.scan = 0) (h : admittedDone s = true) (hl : ledgersStopped s = true) : scanEnter s = scanEntered s := by
  have ha : admittedDone (modSec s fun v => { v with scan := 1 }) = true := h
  have hl2 : ledgersStopped (modSec s fun v => { v with scan := 2 }) = true := hl
  have hs : stopLedgers (modSec s fun v => { v with scan := 2 }) = modSec s fun v => { v with scan := 2 } := stopLedgers_stopped hl2
  rw [scanEnter, if_pos h0, scanGo]
  refine (congrArg (fun u : State => if u.sec.scan = 2 && ledgersStopped u then _ else u) ((if_pos (by simp [ha])).trans hs)).trans (if_pos ?_)
  simp [hl2]

/-! ### ZEROISE -/

@[simp] theorem ledOf_modLedger_self (s : State) (k : Nat) (f : Ledger → Ledger) : ledOf (modLedger s k f) k = f (ledOf s k) := tgetD_tmod_self ..

theorem ledOf_modLedger_ne (s : State) {j k : Nat} (h : j ≠ k) (f : Ledger → Ledger) : ledOf (modLedger s k f) j = ledOf s j :=
  tgetD_tmod_ne _ _ _ _ h

theorem burnFuse_ne (s : State) {j k : Nat} (h : k ≠ j) : tgetD (burnFuse s j).sec.zeroCount k 0 = tgetD s.sec.zeroCount k 0 ∧
    tget (burnFuse s j).sec.ledgerKey k = tget s.sec.ledgerKey k ∧ ledOf (burnFuse s j) k = ledOf s k :=
  ⟨tgetD_tmod_ne _ _ _ _ h, tget_tdel_ne _ h, ledOf_modLedger_ne _ h _⟩

theorem burnFuse_self (s : State) (k : Nat) : tgetD (burnFuse s k).sec.zeroCount k 0 = tgetD s.sec.zeroCount k 0 + 1 ∧
    tget (burnFuse s k).sec.ledgerKey k = none ∧ (ledOf (burnFuse s k) k).state = 7 :=
  ⟨tgetD_tmod_self .., tget_tdel_self .., congrArg Ledger.state (ledOf_modLedger_self ..)⟩

theorem burnFuses_ne {k : Nat} (l : List Nat) (h : k ∉ l) (s : State) : tgetD (l.foldl burnFuse s).sec.zeroCount k 0 = tgetD s.sec.zeroCount k 0 ∧
    tget (l.foldl burnFuse s).sec.ledgerKey k = tget s.sec.ledgerKey k ∧ ledOf (l.foldl burnFuse s) k = ledOf s k := by
  induction l generalizing s with
  | nil => exact ⟨rfl, rfl, rfl⟩
  | cons j l ih =>
    rw [List.mem_cons, not_or] at h
    obtain ⟨hj, hl⟩ := h
    obtain ⟨h1, h2, h3⟩ := burnFuse_ne s hj
    obtain ⟨i1, i2, i3⟩ := ih hl (burnFuse s j)
    exact ⟨i1.trans h1, i2.trans h2, i3.trans h3⟩

theorem burnFuses_mem {k : Nat} (l : List Nat) (hn : l.Nodup) (h : k ∈ l) (s : State) :
    tgetD (l.foldl burnFuse s).sec.zeroCount k 0 = tgetD s.sec.zeroCount k 0 + 1 ∧ tget (l.foldl burnFuse s).sec.ledgerKey k = none ∧
      (ledOf (l.foldl burnFuse s) k).state = 7 := by
  induction l generalizing s with
  | nil => cases h
  | cons j l ih =>
    obtain ⟨hj, hl⟩ := List.nodup_cons.mp hn
    rw [List.foldl_cons]
    rcases List.mem_cons.mp h with rfl | h
    · obtain ⟨h1, h2, h3⟩ := burnFuses_ne l hj (burnFuse s k)
      obtain ⟨b1, b2, b3⟩ := burnFuse_self s k
      exact ⟨h1.trans b1, h2.trans b2, (congrArg Ledger.state h3).trans b3⟩
    · obtain ⟨h1, h2, h3⟩ := ih hl h (burnFuse s j)
      exact ⟨h1.trans (congrArg (· + 1) (burnFuse_ne s (fun e : k = j => hj (e ▸ h))).1), h2, h3⟩

theorem burnFuses_only (l : List Nat) (s : State) : OnlyParts [.led, .sec] s (l.foldl burnFuse s) := by
  induction l generalizing s with
  | nil => exact fun p _ => by cases p <;> rfl
  | cons j l ih =>
    refine OnlyParts.andThen ?_ (ih (burnFuse s j)) (fun _ h => h) (fun _ h => h)
    exact onlyParts_of_keeps (burnFuse_keeps (Keeps.refl _ s) rfl rfl)

/-- A ZEROISE is open and every deckle die marked (R592 step 1). -/
def zeroiseMarked (s : State) : State :=
  modPow (modSec s fun x => { x with zeroiseOpen := true, toBurn := [0, 1, 2, 3] }) fun w =>
    { w with nors := w.nors.map (fun e => (e.1, { e.2 with zeroisePending := true })) }

/-- Every deckle die in service has burnt its fuse. -/
def fusesBurnt (s : State) : State := (([0, 1, 2, 3] : List Nat).filter (fun k => dieUp s (16 + k))).foldl burnFuse (zeroiseMarked s)

/-- The part is zeroised and the log says so (R592 step 5). -/
def zeroiseLogged (s : State) : State :=
  let u := modPow (modSec (fusesBurnt s) fun v => { v with zeroiseOpen := false }) fun w => { w with zeroised := true }
  secReport u (mgmtDeckle u) 0xC5 2 (lowestCount u)

theorem zeroiseGo_waiting {s : State} (h : admittedDone s = false) : zeroiseGo (zeroiseMarked s) = zeroiseMarked s := by
  have ha : admittedDone (zeroiseMarked s) = false := h
  rw [zeroiseGo, ha]
  exact if_pos (by simp)

theorem zeroiseGo_done {s : State} (h : admittedDone s = true) (hp : s.pow.pwrfail = false) :
    zeroiseGo (zeroiseMarked s) = deviceNote (zeroiseMarked s) (clearMark (zeroiseLogged s)) := by
  have ha : admittedDone (zeroiseMarked s) = true := h
  have hp' : (zeroiseMarked s).pow.pwrfail = false := hp
  rw [zeroiseGo, ha, hp']
  rfl

theorem zeroiseLogged_reported (s : State) : Reported s (zeroiseLogged s) 0xC5 2 := by
  unfold zeroiseLogged
  extract_lets u
  exact (secReport_reported u (mgmtDeckle u) 0xC5 2 (lowestCount u)).congr (burnFuses_only _ (zeroiseMarked s) .integ rfl).symm rfl

theorem clearMark_only (s : State) : OnlyParts [.pow] s (clearMark s) := onlyParts_of_keeps (clearMark_keeps (Keeps.refl _ s) rfl)

theorem clearMark_zeroised (s : State) : (clearMark s).pow.zeroised = s.pow.zeroised := by
  rw [clearMark]
  split <;> rfl

theorem zeroised_only (s : State) : OnlyParts [.out, .port, .pow] (zeroiseLogged s) (deviceNote (zeroiseMarked s) (clearMark (zeroiseLogged s))) :=
  (clearMark_only _).andThen (deviceNote_only _ _) (by decide) (by decide)

theorem zeroise_permitted {s : State} (hp : s.pow.pwrfail = false) (ho : s.sec.zeroiseOpen = false) (hk : ∀ k < 4, tgetD s.sec.zeroCount k 0 < 64) :
    zeroise s serialBytes = started (zeroiseGo (zeroiseMarked s)) := by
  rw [zeroise, if_neg (by simp), hp, ho]
  refine (if_neg (by decide)).trans (if_neg ?_)
  simp only [List.any_eq_true, decide_eq_true_eq, not_exists, not_and, List.mem_range]
  exact fun k h => Nat.not_le.mpr (hk k h)

/-- Settles O23: a token by its check; SCAN and ZEROISE by whether the admitted requests have ended. -/
theorem unlockScanZeroiseComplete : Obligations.UnlockScanZeroiseComplete := by
  intro s r c h
  refine ⟨fun v hp _ => ?_, fun hp h0 => ?_, fun hp hpow hopen hk => ?_⟩
  · cases hv : tokenCheck s v with
    | none =>
      obtain ⟨d, m, hd, he, hw⟩ := command_ok (hw := 0) h hp rfl (by decide) (by decide) (k := fun _ => 0) (n := fun _ => 0)
        (w := fun d => newNonce (scopesOpened { s with dict := d } v)) fun d _ => unlockToken_taken (s := { s with dict := d }) hv
      refine ⟨_, congrArg Host.Outcome.next he, ?_, ?_, hw, fun hu => ?_, ?_⟩
      · rw [reply_sec]
        simp only [newNonce, drawBytes_state]
        exact scopesOpened_unlock { s with dict := d } v
      · rw [reply_sec]
        exact length_drawBytes 32 _
      · refine (scopesOpened_reported (s := { s with dict := d }) v hu).congr rfl ?_
        rw [reply_integ]
        simp only [newNonce, drawBytes_state]
        rfl
      · exact replied_only ((scopesOpened_only _ v).andThen (onlyParts_of_keeps (l := [.free, .sec]) (newNonce_keeps (Keeps.refl _ _) rfl rfl))
          (n := [.dict, .free, .integ, .obs, .sec]) (by decide) (by decide)) (by decide) (by decide) _ _ _
    | some x =>
      obtain ⟨code, x⟩ := x
      obtain ⟨d, m, hd, he, hw⟩ := command_aborted (hw := 0) h hp rfl (by decide) (by decide) (w := fun d => tokenRefused { s with dict := d } x)
        fun d _ => unlockToken_refused (s := { s with dict := d }) hv
      refine ⟨_, congrArg Host.Outcome.next he, ?_, ?_, ?_, hw, ?_⟩
      · rw [reply_sec, tokenRefused, secReport_sec]
        rfl
      · rw [reply_sec, tokenRefused, secReport_sec]
        rfl
      · exact (secReport_reported (modSec { s with dict := d } fun v => { v with counts := bump v.counts 3 }) (mgmtDeckle s) 0xC3 2 x).congr rfl
          (reply_integ ..)
      · exact replied_only ((modSec_only _ _).andThen (secReport_only _ _ _ _ _) (n := [.integ, .obs, .sec]) (by decide) (by decide)) (by decide)
          (by decide) _ _ _
  · obtain ⟨d, m, hd, he, hw⟩ := command_ok (hw := 0) h (v := u8 1) hp rfl (by decide) (by decide) (k := fun _ => 3) (n := fun _ => 0)
      (w := fun d => scanEnter { s with dict := d }) fun d _ => rfl
    refine ⟨_, congrArg Host.Outcome.next he, hw, fun ha => ?_, fun ha hl => ?_⟩
    · rw [scanEnter_waiting (s := { s with dict := d }) h0 ha]
      exact ⟨by rw [reply_sec]; rfl, replied_only (modSec_only _ _) (by decide) (by decide) _ _ _⟩
    · rw [scanEnter_done (s := { s with dict := d }) h0 ha hl, reply_sec, reply_pow]
      have hsec := deviceNote_only (modSec { s with dict := d } fun v => { v with scan := 2 }) (modPow (modSec (modSec { s with dict := d } fun v =>
        { v with scan := 2 }) fun v => { v with scan := 3, keysCleared := true }) fun w => { w with fault := true }) .sec rfl
      obtain ⟨a, hpow⟩ := deviceNote_pow (modSec { s with dict := d } fun v => { v with scan := 2 }) (modPow (modSec (modSec { s with dict := d } fun v =>
        { v with scan := 2 }) fun v => { v with scan := 3, keysCleared := true }) fun w => { w with fault := true })
      exact ⟨congrArg SecState.scan hsec, congrArg SecState.keysCleared hsec, congrArg PowState.fault hpow⟩
  · obtain ⟨d, m, hd, he, hw⟩ := command_ok (hw := 0) h hp rfl (by decide) (by decide) (k := fun _ => 3) (n := fun _ => 0)
      (w := fun d => zeroiseGo (zeroiseMarked { s with dict := d })) fun d _ => zeroise_permitted (s := { s with dict := d }) hpow hopen hk
    have hburn := burnFuses_only (([0, 1, 2, 3] : List Nat).filter (fun k => dieUp { s with dict := d } (16 + k))) (zeroiseMarked { s with dict := d })
    cases ha : admittedDone s with
    | false =>
      rw [zeroiseGo_waiting (s := { s with dict := d }) ha] at hw he
      exact ⟨_, congrArg Host.Outcome.next he, hw, reply_mem .., fun _ => ⟨by rw [reply_sec]; rfl, by rw [reply_sec]; rfl, by rw [reply_sec]; rfl⟩,
        fun hf => (nomatch hf)⟩
    | true =>
      rw [zeroiseGo_done (s := { s with dict := d }) ha hpow] at hw he
      have hz := zeroised_only { s with dict := d }
      obtain ⟨a, hpw⟩ := deviceNote_pow (zeroiseMarked { s with dict := d }) (clearMark (zeroiseLogged { s with dict := d }))
      refine ⟨_, congrArg Host.Outcome.next he, hw, ?_, fun hf => (nomatch hf), fun _ => ⟨?_, ?_, ?_, fun k hk4 hup => ?_⟩⟩
      · rw [reply_mem, hz .mem rfl, zeroiseLogged, secReport_mem]
        exact hburn .mem rfl
      · rw [reply_pow, hpw]
        refine (clearMark_zeroised _).trans ?_
        rw [zeroiseLogged, secReport_pow]
        rfl
      · rw [reply_sec, hz .sec rfl, zeroiseLogged, secReport_sec]
        rfl
      · exact (zeroiseLogged_reported { s with dict := d }).congr rfl ((reply_integ ..).trans (hz .integ rfl))
      · obtain ⟨h1, h2, h3⟩ := burnFuses_mem (k := k) (([0, 1, 2, 3] : List Nat).filter (fun k => dieUp { s with dict := d } (16 + k)))
          (List.Pairwise.filter _ (by decide)) (List.mem_filter.mpr ⟨by simp; omega, hup⟩) (zeroiseMarked { s with dict := d })
        have hsec : (zeroiseLogged { s with dict := d }).sec = { (fusesBurnt { s with dict := d }).sec with zeroiseOpen := false } := by
          rw [zeroiseLogged, secReport_sec]
          rfl
        have hled : (zeroiseLogged { s with dict := d }).led = (fusesBurnt { s with dict := d }).led := by
          rw [zeroiseLogged, secReport_led]
          rfl
        rw [reply_sec, hz .sec rfl, hsec, ledOf, reply_led, hz .led rfl, hled]
        exact ⟨h1, h2, h3⟩

/-! ### Sequencers -/

theorem seqOf_modSeq_ne (s : State) {d j : Nat} (f : Sequencer → Sequencer) (h : j ≠ d) : seqOf (modSeq s d f) j = seqOf s j :=
  congrArg Vat.seq (vatOf_modSeq_ne s f h)

/-- The state in which a START is accepted, before the packets of the run before it have settled (R198). -/
def seqStarting (s : State) (d : Nat) : State :=
  modSeq (modVat s d fun v => { v with batches := (v.batches.filter (fun b => !b.done)).map (fun b => { b with detached := true }) }) d fun q =>
    { q with starting := true, posted := none }

theorem seqOf_seqStarting (s : State) (d : Nat) : seqOf (seqStarting s d) d = { seqOf s d with starting := true, posted := none } := by
  rw [seqStarting, seqOf_modSeq_self, seqOf, vatOf_modVat_self]
  rfl

theorem seqOf_seqStarting_ne (s : State) {d j : Nat} (h : j ≠ d) : seqOf (seqStarting s d) j = seqOf s j := by
  rw [seqStarting, seqOf_modSeq_ne _ _ h, seqOf, vatOf_modVat_ne _ _ h, seqOf]

theorem seqBegin_waits {s : State} {d : Nat} (h : writesOut s (· == .sequencer d) = true) : seqBegin s d = seqStarting s d := by
  have hw : writesOut (seqStarting s d) (· == .sequencer d) = true := h
  show seqSettle (seqStarting s d) d = _
  rw [seqSettle, hw]
  exact if_neg (by simp)

theorem seqBegin_runs {s : State} {d : Nat} (h : writesOut s (· == .sequencer d) = false) : seqBegin s d = modSeq (seqStarting s d) d fun q =>
    { q with
      state := 2, pc := 0, regs := [], loops := q.loops.map (fun c => { c with active := false }), starting := false
      posted := none, stopping := false, wait := none } := by
  have hw : writesOut (seqStarting s d) (· == .sequencer d) = false := h
  show seqSettle (seqStarting s d) d = _
  rw [seqSettle, hw, seqOf_seqStarting]
  exact if_pos (by simp)

theorem seqStart_accepted {s : State} {d : Nat} (h0 : (seqOf s d).state ≠ 0) (h2 : (seqOf s d).state ≠ 2) (h3 : (seqOf s d).state ≠ 3)
    (ho : vatOwner s.cfg d ≠ 0) : seqStart s d = applied (seqBegin s d) := by
  rw [seqStart]
  exact if_neg (by simp [h0, h2, h3, ho])

/-- A STOP lets the sequencer's wait end first (R199). -/
theorem seqStop_waiting {s : State} {d : Nat} (h2 : (seqOf s d).state = 2) (hw : (seqOf s d).wait ≠ none) :
    seqStop s d = applied (modSeq s d fun q => { q with stopping := true }) := by
  rw [seqStop, h2]
  exact (if_neg (by decide)).trans ((if_neg (by simp)).trans (if_pos (Option.isSome_iff_ne_none.mpr hw)))

theorem seqStop_running {s : State} {d : Nat} (h2 : (seqOf s d).state = 2) (hw : (seqOf s d).wait = none) :
    seqStop s d = applied (modSeq s d fun q => { q with state := 4, stopping := false }) := by
  rw [seqStop, h2, hw]
  rfl

theorem seqStop_parked {s : State} {d : Nat} (h3 : (seqOf s d).state = 3) :
    seqStop s d = applied (modSeq (seqCancelWait s d) d fun q => { q with state := 4, stopping := false }) := by
  rw [seqStop, h3]
  rfl

theorem seqStop_idle {s : State} {d : Nat} (h2 : (seqOf s d).state ≠ 2) (h3 : (seqOf s d).state ≠ 3) : seqStop s d = .refused aStateConflict s := by
  rw [seqStop]
  exact (if_neg h3).trans (if_pos h2)

theorem seqCancelWait_only (s : State) (d : Nat) : OnlyParts [.fab, .vs] s (seqCancelWait s d) :=
  onlyParts_of_keeps (seqCancelWait_keeps (Keeps.refl _ s) rfl rfl)

theorem seqCancelWait_wait (s : State) (d : Nat) : (seqOf (seqCancelWait s d) d).wait = none := by
  rw [seqCancelWait, seqOf_modSeq_self]

theorem seqBegin_only (s : State) (d : Nat) : OnlyParts [.vs] s (seqBegin s d) := onlyParts_of_keeps (seqBegin_keeps (Keeps.refl _ s) rfl)

theorem modSeq_only (s : State) (d : Nat) (f : Sequencer → Sequencer) : OnlyParts [.vs] s (modSeq s d f) := onlyParts_of_keeps (modSeq_keeps (Keeps.refl _ s) rfl)

/-- What is looked up is an entry of this kind. -/
def entryIs (p : OdEntry → Bool) : Nat ⊕ OdEntry → Bool
  | .inl _ => false
  | .inr e => p e

theorem entryIs_iff {p : OdEntry → Bool} {x : Nat ⊕ OdEntry} : entryIs p x = true ↔ ∃ e, x = .inr e ∧ p e = true := by
  cases x with
  | inl k => exact ⟨nofun, fun ⟨_, h, _⟩ => nomatch h⟩
  | inr e => exact ⟨fun h => ⟨e, rfl, h⟩, fun ⟨_, h, hp⟩ => Sum.inr.inj h ▸ hp⟩

/-- The entry that holds a vat's program. -/
theorem odLookup_program (d : VatId) : ∃ e, odLookup (0x3100 + d.val) 0 = .inr e ∧ e.acc = .rwd ∧ e.kind = .domain := by
  have hall : ∀ d : VatId, entryIs (fun e => decide (e.acc = .rwd) && decide (e.kind = .domain)) (odLookup (0x3100 + d.val) 0) = true := by decide +kernel
  obtain ⟨e, he, hp⟩ := entryIs_iff.mp (hall d)
  rw [Bool.and_eq_true, decide_eq_true_eq, decide_eq_true_eq] at hp
  exact ⟨e, he, hp⟩

theorem ownRules_program (s : State) (d : VatId) (v : Bytes) : ownRules s (0x3100 + d.val) 0 v = programCheck v := by
  have hd : d.val < 16 := d.isLt
  simp only [ownRules, inRange, Bool.or_eq_true, Bool.and_eq_true, decide_eq_true_eq]
  rw [if_neg (by omega), if_neg (by omega), if_neg (by omega), if_neg (by omega), if_neg (by omega), if_neg (by omega), if_neg (by omega),
    if_neg (by omega), if_pos (by omega)]

/-- A value that a tint does not mask and that no rail follows takes its effect on the entry stored (R58, R72). -/
def groundStored (s : State) (e : OdEntry) (idx sub : Nat) (v : Bytes) : State :=
  let u := modDict s fun d => { d with rw := tput d.rw (odKey idx sub) v }
  if e.member = .neither then u
  else modPart (modPow u fun w => { w with storeDue := w.storeDue.orElse fun _ => some u.now }) fun p => { p with digestDue := true }

theorem groundStored_only (s : State) (e : OdEntry) (idx sub : Nat) (v : Bytes) : OnlyParts [.dict, .part, .pow] s (groundStored s e idx sub v) := by
  rw [groundStored]
  split
  · intro p hp
    cases p <;> simp_all [Part.same]
  · intro p hp
    cases p <;> simp_all [Part.same]

theorem groundStored_rw (s : State) (e : OdEntry) (idx sub : Nat) (v : Bytes) : (groundStored s e idx sub v).dict.rw = tput s.dict.rw (odKey idx sub) v := by
  rw [groundStored]
  split <;> rfl

theorem groundWritten_unmasked {s : State} {e : OdEntry} {idx sub : Nat} {v : Bytes} (hmask : overlayValue s.cfg s.tint (odKey idx sub) = none)
    (hidx : idx ≠ 0x9050) : groundWritten s e idx sub v = deviceNote s (alsoDoes (groundStored s e idx sub v) idx sub v) := by
  rw [groundWritten, hmask]
  exact congrArg (deviceNote s) (if_neg hidx)

/-- The state in which a program is loaded (R234). -/
def programLoaded (s : State) (d : Nat) (v : Bytes) : State := modPart (loadProgram s d v) fun p => { p with programs := tput p.programs d v }

theorem alsoDoes_program (s : State) (d : VatId) {v : Bytes} (hv : v ≠ []) : alsoDoes s (0x3100 + d.val) 0 v = programLoaded s d.val v := by
  have hd := d.isLt
  have he : v.isEmpty = false := by simpa using hv
  rw [alsoDoes, if_neg (by simp), if_neg (by simp), if_neg (by simp), if_pos (by simp [inRange]; omega), Nat.add_sub_cancel_left, he]
  rfl

theorem programCheck_length {v : Bytes} (h : programCheck v = none) : 16 ≤ v.length := by
  unfold programCheck at h
  split at h
  · cases h
  · next hn =>
    simp only [Bool.or_eq_true, decide_eq_true_eq, not_or, Nat.not_lt] at hn
    exact hn.1

theorem valueWrite_program {s : State} {d : VatId} {v : Bytes} (hv : programCheck v = none) (hdr : vatDrained s d.val = true)
    (h2 : (seqOf s d.val).state ≠ 2) (h3 : (seqOf s d.val).state ≠ 3) (hmask : overlayValue s.cfg s.tint (odKey (0x3100 + d.val) 0) = none)
    (c : Caller) : ∃ e, odLookup (0x3100 + d.val) 0 = .inr e ∧ writeValue s c (0x3100 + d.val) 0 v 0 = .ok 0 0 (deviceNote s (programLoaded (groundStored s e (0x3100 + d.val) 0 v) d.val v)) := by
  obtain ⟨e, hlook, hacc, hkind⟩ := odLookup_program d
  have hd := d.isLt
  have hin : inRange (0x3100 + d.val) 0x3100 0x310F = true := by simp [inRange]; omega
  have hstored : storedCheck s e (0x3100 + d.val) 0 v = none := by
    rw [storedCheck, if_neg (by simp [inRange]; omega), valueCheck, kindOk, hkind, ownRules_program, hv]
    rfl
  have hdrained : rwdDrained s (0x3100 + d.val) 0 = true := by
    rw [rwdDrained, if_neg (by omega), if_pos hin, Nat.add_sub_cancel_left, hdr]
  have hstate : stateCheck s e (0x3100 + d.val) 0 = none := by
    rw [stateCheck, hacc, hdrained, if_neg (by simp), if_neg (by simp), if_pos hin, Nat.add_sub_cancel_left]
    exact if_neg (by simp [h2, h3])
  have hne : v ≠ [] := fun h => by simp [h] at hv; exact absurd hv (by decide)
  refine ⟨e, hlook, ?_⟩
  rw [writeValue, hlook]
  refine (if_neg (by rw [hacc]; decide)).trans ?_
  rw [valueWrite_ground (by rw [hacc]; decide) hstored hstate, groundWritten_unmasked hmask (by omega), alsoDoes_program _ _ hne, hmask]
  rfl

/-! ### Groups -/

@[simp] theorem mcOf_modMc_self (s : State) (g : Nat) (f : McGroup → McGroup) : mcOf (modMc s g f) g = f (mcOf s g) := tgetD_tmod_self ..

@[simp] theorem redOf_modRed_self (s : State) (g : Nat) (f : RedGroup → RedGroup) : redOf (modRed s g f) g = f (redOf s g) := tgetD_tmod_self ..

theorem mcRejoin_group (s : State) (g d : Nat) : mcOf (mcRejoin s g d) g =
    { mcOf s g with generation := ((mcOf s g).generation + 1) % 1024, pruned := (mcOf s g).pruned.filter (· != d) } :=
  mcOf_modMc_self s g fun x => { x with generation := ((mcOf s g).generation + 1) % 1024, pruned := x.pruned.filter (· != d) }

theorem mcRejoin_only (s : State) (g d : Nat) : OnlyParts [.vs] s (mcRejoin s g d) := onlyParts_of_keeps (mcRejoin_keeps (Keeps.refl _ s) rfl)

theorem redResyncStep_group (s : State) (b : Bank) (g : Nat) : (redOf (redResyncStep s b g) g).resync = false ∧
    (redOf (redResyncStep s b g) g).reports = [] ∧ (redOf (redResyncStep s b g) g).chunks = [] := by
  unfold redResyncStep
  extract_lets r x top waves s1 s2 s3 s4
  rw [redOf_modRed_self]
  exact ⟨rfl, rfl, rfl⟩

theorem mcRejoinWrite_pruned {s : State} {c : Caller} {v g d : Nat} (hg : bits v 9 0 = g) (hd : bits v 13 10 = d) (hz : bits v 15 14 = 0)
    (hden : groupDenied c (mcPart (mcRecord s.ep.cur g)) = false) (hp : (mcOf s g).pruned.contains d = true) :
    mcRejoinWrite s c v = applied (mcRejoin s g d) := by
  rw [mcRejoinWrite, hg, hd, hz, hden, hp]
  rfl

theorem redForce_stopped {s : State} {c : Caller} {v : Nat} (hg : bits v 8 0 = v) (hz : bits v 15 9 = 0)
    (hden : groupDenied c (redPart (redRecord s.ep.cur v)) = false) (hr : (redOf s v).resync = true) :
    redForce s c v = applied (redResyncStep s s.ep.cur v) := by
  rw [redForce, hg, hz, hden, hr]
  rfl

theorem redResyncStep_only (s : State) (b : Bank) (g : Nat) : OnlyParts [.fab, .integ, .mem, .obs, .vs] s (redResyncStep s b g) :=
  onlyParts_of_keeps (redResyncStep_keeps (Keeps.refl _ s) rfl rfl rfl rfl rfl)

/-- Settles O24: START and STOP by the sequencer's state, the program through its entry, and the two group commands. -/
theorem sequencerAndGroupWritesComplete : Obligations.SequencerAndGroupWritesComplete := by
  intro s r c h
  have hcontrol (d : VatId) : commandIfAny 0x3110 (d.val + 1) = true := by revert d; decide
  refine ⟨fun d hp h0 h2 h3 ho => ?_, fun d hp => ?_, fun d v hp hv hdr h2 h3 hmask => ?_, fun g d v hv hp hpr hden => ?_, fun v hv hp hres hden => ?_⟩
  · obtain ⟨dd, m, hd, he, hw⟩ := command_ok (hw := 0) h (v := u8 1) hp (hcontrol d) (by decide) (by omega) (k := fun _ => 0) (n := fun _ => 0)
      (w := fun dd => seqBegin { s with dict := dd } d.val) fun dd _ => seqStart_accepted (s := { s with dict := dd }) h0 h2 h3 ho
    refine ⟨_, congrArg Host.Outcome.next he, hw, fun hs => ?_, fun hs => ?_, fun e hne => ?_, replied_only (seqBegin_only _ _) (by decide) (by decide) _ _ _⟩
    · rw [seqOf, vatOf, reply_vs, seqBegin_runs (s := { s with dict := dd }) hs, ← vatOf, ← seqOf, seqOf_modSeq_self, seqOf_seqStarting]
      exact ⟨rfl, rfl, rfl, rfl⟩
    · rw [seqOf, vatOf, reply_vs, seqBegin_waits (s := { s with dict := dd }) hs, ← vatOf, ← seqOf, seqOf_seqStarting]
      exact ⟨rfl, rfl⟩
    · rw [seqOf, vatOf, reply_vs, ← vatOf, ← seqOf]
      cases hs : writesOut s (· == .sequencer d.val)
      · rw [seqBegin_runs (s := { s with dict := dd }) hs, seqOf_modSeq_ne _ _ hne, seqOf_seqStarting_ne _ hne]
        rfl
      · rw [seqBegin_waits (s := { s with dict := dd }) hs, seqOf_seqStarting_ne _ hne]
        rfl
  · have hseq : ∀ {w : State} {ep tag : Nat} {m : TtpMsg}, seqOf (reply w ep tag m) d.val = seqOf w d.val := fun {w ep tag m} => by
      rw [seqOf, vatOf, reply_vs]
      rfl
    have hok {w : DictState → State} (hf : ∀ dd, seqStop { s with dict := dd } d.val = applied (w dd)) :=
      command_ok (hw := 0) h (v := u8 2) hp (hcontrol d) (by decide) (by omega) (k := fun _ => 0) (n := fun _ => 0) (w := w) fun dd _ => hf dd
    by_cases h3 : (seqOf s d.val).state = 3
    · obtain ⟨dd, m, hd, he, hw⟩ := hok fun dd => seqStop_parked (s := { s with dict := dd }) h3
      refine ⟨_, congrArg Host.Outcome.next he, fun _ => ⟨?_, ?_, hw⟩, fun h2 => absurd (h3.symm.trans h2) (by decide),
        fun h2 => absurd (h3.symm.trans h2) (by decide), fun _ hn => absurd h3 hn, ?_⟩
      · rw [hseq, seqOf_modSeq_self]
      · rw [hseq, seqOf_modSeq_self, seqCancelWait_wait]
      · exact replied_only ((seqCancelWait_only _ _).andThen (modSeq_only _ _ _) (n := [.fab, .vs]) (by decide) (by decide)) (by decide) (by decide) _ _ _
    by_cases h2 : (seqOf s d.val).state = 2
    · by_cases hwait : (seqOf s d.val).wait = none
      · obtain ⟨dd, m, hd, he, hw⟩ := hok fun dd => seqStop_running (s := { s with dict := dd }) h2 hwait
        refine ⟨_, congrArg Host.Outcome.next he, fun h => absurd h h3, fun _ _ => ⟨?_, ?_, hw⟩, fun _ h => absurd hwait h, fun h _ => absurd h2 h,
          replied_only (modSeq_only _ _ _) (by decide) (by decide) _ _ _⟩
        · rw [hseq, seqOf_modSeq_self]
        · rw [hseq, seqOf_modSeq_self]
          rfl
      · obtain ⟨dd, m, hd, he, hw⟩ := hok fun dd => seqStop_waiting (s := { s with dict := dd }) h2 hwait
        refine ⟨_, congrArg Host.Outcome.next he, fun h => absurd h h3, fun _ h => absurd h hwait, fun _ _ => ⟨?_, hw⟩, fun h _ => absurd h2 h,
          replied_only (modSeq_only _ _ _) (by decide) (by decide) _ _ _⟩
        rw [hseq, seqOf_modSeq_self]
    · obtain ⟨dd, m, hd, he, hw⟩ := command_aborted (hw := 0) h (v := u8 2) hp (hcontrol d) (by decide) (by omega) (w := fun dd => { s with dict := dd })
        fun dd _ => seqStop_idle (s := { s with dict := dd }) h2 h3
      exact ⟨_, congrArg Host.Outcome.next he, fun h => absurd h h3, fun h _ => absurd h h2, fun h _ => absurd h h2, fun _ _ => ⟨hseq, hw⟩,
        replied_only (l := []) (fun p _ => by cases p <;> rfl) (by decide) (by decide) _ _ _⟩
  · have hlen := programCheck_length hv
    obtain ⟨e, hval⟩ : ∃ e, ∀ dd, HeardAs s c dd → writeValue { s with dict := dd } c (0x3100 + d.val) 0 v 0 =
        .ok 0 0 (deviceNote { s with dict := dd } (programLoaded (groundStored { s with dict := dd } e (0x3100 + d.val) 0 v) d.val v)) := by
      obtain ⟨e, hlook, -⟩ := odLookup_program d
      refine ⟨e, fun dd _ => ?_⟩
      obtain ⟨e', hlook', he'⟩ := valueWrite_program (s := { s with dict := dd }) (c := c) hv hdr h2 h3 hmask
      rwa [Sum.inr.inj (hlook.symm.trans hlook')]
    obtain ⟨dd, m, hd, he, hw⟩ := write_ok (hw := 0) h hp (by omega) (by decide) (k := fun _ => 0) (n := fun _ => 0) hval
    have hn := deviceNote_only { s with dict := dd } (programLoaded (groundStored { s with dict := dd } e (0x3100 + d.val) 0 v) d.val v)
    have hg := groundStored_only { s with dict := dd } e (0x3100 + d.val) 0 v
    have hseq : seqOf (reply (deviceNote { s with dict := dd } (programLoaded (groundStored { s with dict := dd } e (0x3100 + d.val) 0 v) d.val v))
        r.ep.val r.tag.toNat m) d.val = seqOf (loadProgram (groundStored { s with dict := dd } e (0x3100 + d.val) 0 v) d.val v) d.val := by
      rw [seqOf, vatOf, reply_vs, hn .vs rfl]
      rfl
    refine ⟨_, congrArg Host.Outcome.next he, ?_, ?_, ?_, fun i hi => ?_, ?_, hw, ?_⟩
    · rw [hseq, loadProgram, seqOf_modSeq_self]
    · rw [hseq, loadProgram, seqOf_modSeq_self]
    · rw [hseq, loadProgram, seqOf_modSeq_self]
      simp
    · rw [hseq, loadProgram, seqOf_modSeq_self]
      simp [hi]
    · rw [reply_part, hn .part rfl]
      exact tget_tput_self ..
    · rw [reply_mem, hn .mem rfl]
      exact hg .mem rfl
  · have hg := g.isLt
    have hd16 := d.isLt
    have hv : v.toNat = g.val + d.val * 2 ^ 10 := hv
    have hgv : bits v.toNat 9 0 = g.val := by
      rw [hv, bits, Nat.shiftRight_eq_div_pow]
      omega
    have hdv : bits v.toNat 13 10 = d.val := by
      rw [hv, bits, Nat.shiftRight_eq_div_pow]
      omega
    have hz : bits v.toNat 15 14 = 0 := by
      rw [hv, bits, Nat.shiftRight_eq_div_pow]
      omega
    obtain ⟨dd, m, hd, he, hw⟩ := command_ok (hw := 0) h (v := u16 v.toNat) hp rfl (by decide) (by decide) (k := fun _ => 0) (n := fun _ => 0)
      (w := fun dd => mcRejoin { s with dict := dd } g.val d.val) fun dd _ => by
        show mcRejoinWrite _ c (leNat (u16 v.toNat)) = _
        rw [leNat_u16]
        exact mcRejoinWrite_pruned (s := { s with dict := dd }) hgv hdv hz hden hpr
    refine ⟨_, congrArg Host.Outcome.next he, ?_, ?_, hw, replied_only (mcRejoin_only _ _ _) (by decide) (by decide) _ _ _⟩
    · rw [mcOf, reply_vs, ← mcOf]
      exact congrArg McGroup.generation (mcRejoin_group ..)
    · rw [mcOf, reply_vs, ← mcOf]
      refine (congrArg (fun x : McGroup => x.pruned.contains d.val) (mcRejoin_group ..)).trans ?_
      simp
  · have hz : bits v.toNat 15 9 = 0 := by
      rw [bits, Nat.shiftRight_eq_div_pow]
      omega
    have hgv : bits v.toNat 8 0 = v.toNat := by
      rw [bits, Nat.shiftRight_eq_div_pow]
      omega
    obtain ⟨dd, m, hd, he, hw⟩ := command_ok (hw := 0) h (v := u16 v.toNat) hp rfl (by decide) (by decide) (k := fun _ => 0) (n := fun _ => 0)
      (w := fun dd => redResyncStep { s with dict := dd } s.ep.cur v.toNat) fun dd _ => by
        show redForce _ c (leNat (u16 v.toNat)) = _
        rw [leNat_u16]
        exact redForce_stopped (s := { s with dict := dd }) hgv hz hden hres
    obtain ⟨h1, h2, h3⟩ := redResyncStep_group { s with dict := dd } s.ep.cur v.toNat
    refine ⟨_, congrArg Host.Outcome.next he, ?_, ?_, ?_, hw, replied_only (redResyncStep_only _ _ _) (by decide) (by decide) _ _ _⟩
    · rw [redOf, reply_vs]
      exact h1
    · rw [redOf, reply_vs]
      exact h2
    · rw [redOf, reply_vs]
      exact h3

/-! ### The log, crossings and wall time -/

theorem logClear_only (s : State) : OnlyParts [.integ] s (logClear s) := onlyParts_of_keeps (logClear_keeps (Keeps.refl _ s) rfl)

theorem logClear_log (s : State) : (logClear s).integ.log = [] ∧ (logClear s).integ.nextSeq = s.integ.nextSeq ∧
    (logClear s).integ.classCounts = s.integ.classCounts := by
  rw [logClear, mirrorLog]
  split <;> exact ⟨rfl, rfl, rfl⟩

theorem crossingClear_only (s : State) (d : Nat) : OnlyParts [.obs, .time] s (crossingClear s d) :=
  onlyParts_of_keeps (crossingClear_keeps (Keeps.refl _ s) rfl rfl)

theorem crossingClear_bounds (s : State) (d : Nat) {k : Nat} {b : Boundary} (h : (k, b) ∈ (crossingClear s d).time.bounds) (hk : k < 65536)
    (hd : dieOf (k / 8) = d) : b.discont = false ∧ b.overrun = false := by
  obtain ⟨e, -, he⟩ := List.mem_map.mp h
  split at he
  · obtain ⟨-, rfl⟩ := Prod.mk.inj he
    exact ⟨rfl, rfl⟩
  · next hn =>
    rw [he] at hn
    simp [hk, hd] at hn

theorem setRate_only (s : State) (rate : Int) : OnlyParts [.time] s (setRate s rate) := onlyParts_of_keeps (setRate_keeps (Keeps.refl _ s) rfl)

theorem sext_toNat (v : BitVec 32) : sext 32 v.toNat = v.toInt := by
  rw [sext, BitVec.toInt_eq_toNat_cond, Nat.mod_eq_of_lt v.isLt]
  split
  · rw [if_pos (by omega)]
    rfl
  · rw [if_neg (by omega)]
    rfl

theorem alsoDoes_rate (s : State) (rate : BitVec 32) : alsoDoes s 0x2860 3 (u32 rate.toNat) = setRate s rate.toInt := by
  rw [alsoDoes, if_pos (by decide), leNat_u32, sext_toNat]

theorem setRate_time (s : State) (rate : Int) :
    (setRate s rate).time = { s.time with wallBase := wallAt s.time s.now, ftBase := s.now, rate := rate } := rfl

/-- A field of the first of two concatenated values. -/
theorem field_append_left (a b : Bytes) {off n : Nat} (h : off + n ≤ a.length) : field (a ++ b) off n = field a off n := by
  rw [field, field, slice, slice, List.drop_append_of_le_length (by omega), List.take_append_of_le_length (by rw [List.length_drop]; omega)]

/-- A field of the second of two concatenated values. -/
theorem field_append_right (a b : Bytes) (off n : Nat) : field (a ++ b) (a.length + off) n = field b off n := by
  rw [field, field, slice, slice, List.drop_append, List.drop_eq_nil_of_le (by omega), List.nil_append, Nat.add_sub_cancel_left]

theorem field_u64 (v : BitVec 64) : field (u64 v.toNat) 0 8 = v.toNat := by
  rw [u64, field_leBytes _ (by decide), Nat.mul_zero, Nat.pow_zero, Nat.div_one]
  exact Nat.mod_eq_of_lt v.isLt

theorem wallSet_near {s : State} {wall ft : Nat} (hlo : s.now ≤ ft + 10 ^ 9) (hhi : ft ≤ s.now + 10 ^ 9) : wallSet s wall ft =
    applied (modTime s fun t => { t with wallBase := wall, ftBase := ft, wallValid := true, pps := if t.pps = 4 then 1 else t.pps }) := by
  rw [show (10 ^ 9 : Tick) = (1000000000 : Nat) from rfl] at hlo
  have hlo : ¬ Nat.lt (ft + 1000000000) s.now := Nat.not_lt.mpr hlo
  rw [show (10 ^ 9 : Nat) = 1000000000 from rfl] at hhi
  rw [wallSet]
  exact if_neg (by simp only [Bool.or_eq_true, decide_eq_true_eq, not_or]; exact ⟨hlo, Nat.not_lt.mpr hhi⟩)

theorem commandWrite_wall (s : State) (c : Caller) (v : Bytes) : commandWrite s c 0x2860 1 v 0 = wallSet s (field v 0 8) (field v 8 8) := by
  simp [commandWrite, commandLow]

theorem valueWrite_rate {s : State} (c : Caller) (rate : BitVec 32) (hmask : overlayValue s.cfg s.tint (odKey 0x2860 3) = none) :
    ∃ e, odLookup 0x2860 3 = .inr e ∧ writeValue s c 0x2860 3 (u32 rate.toNat) 0 =
      .ok 0 0 (deviceNote s (setRate (groundStored s e 0x2860 3 (u32 rate.toNat)) rate.toInt)) := by
  obtain ⟨e, hlook, hacc, hkind⟩ : ∃ e, odLookup 0x2860 3 = .inr e ∧ e.acc = .rw ∧ e.kind = .int := ⟨_, rfl, rfl, rfl⟩
  have hstored : storedCheck s e 0x2860 3 (u32 rate.toNat) = none := by
    rw [storedCheck, if_neg (by decide), valueCheck, kindOk, hkind]
    rfl
  have hstate : stateCheck s e 0x2860 3 = none := by
    rw [stateCheck, hacc]
    rfl
  refine ⟨e, hlook, ?_⟩
  rw [writeValue, hlook]
  refine (if_neg (by rw [hacc]; decide)).trans ?_
  rw [valueWrite_ground (by rw [hacc]; decide) hstored hstate, groundWritten_unmasked hmask (by decide),
    alsoDoes_rate, hmask]
  rfl

/-- Settles O25: each write by the state its effect leaves. -/
theorem logCrossingAndWallWritesComplete : Obligations.LogCrossingAndWallWritesComplete := by
  intro s r c h
  refine ⟨fun hp => ?_, fun d hp hd20 => ?_, fun wall ft hp hlo hhi => ?_, fun rate hp hmask => ?_⟩
  · obtain ⟨d, m, hd, he, hw⟩ := command_ok (hw := 0) h (v := u8 1) hp rfl (by decide) (by decide) (k := fun _ => 0) (n := fun _ => 0)
      (w := fun d => logClear { s with dict := d }) fun d _ => rfl
    obtain ⟨h1, h2, h3⟩ := logClear_log { s with dict := d }
    refine ⟨_, congrArg Host.Outcome.next he, ?_, ?_, ?_, hw, replied_only (logClear_only _) (by decide) (by decide) _ _ _⟩
    · rw [reply_integ, h1]
    · rw [reply_integ, h2]
    · rw [reply_integ, h3]
  · obtain ⟨dd, m, hd, he, hw⟩ := command_ok (hw := 0) h (v := u8 d.toNat) hp rfl (by decide) (by decide) (k := fun _ => 0) (n := fun _ => 0)
      (w := fun dd => crossingClear { s with dict := dd } d.toNat) fun dd _ => by
        show dieCommand _ (leNat (u8 d.toNat)) (crossingClear · (leNat (u8 d.toNat))) = _
        rw [leNat_u8]
        exact if_pos hd20
    refine ⟨_, congrArg Host.Outcome.next he, fun k b hb hk hdk => ?_, ?_, hw, replied_only (crossingClear_only _ _) (by decide) (by decide) _ _ _⟩
    · rw [reply_time] at hb
      exact crossingClear_bounds _ _ hb hk hdk
    · rw [reply_obs]
      simp [crossingClear]
  · have hw8 : (u64 wall.toNat).length = 8 := by simp [u64, length_leBytes]
    have hf1 : field (u64 wall.toNat ++ u64 ft.toNat) 0 8 = wall.toNat := (field_append_left _ _ (by omega)).trans (field_u64 wall)
    have hf2 : field (u64 wall.toNat ++ u64 ft.toNat) 8 8 = ft.toNat := by
      have h8 := field_append_right (u64 wall.toNat) (u64 ft.toNat) 0 8
      rw [hw8] at h8
      exact h8.trans (field_u64 ft)
    have hlen : (u64 wall.toNat ++ u64 ft.toNat).length = 16 := by simp [u64, length_leBytes]
    obtain ⟨d, m, hd, he, hw⟩ := command_ok (hw := 0) h (v := u64 wall.toNat ++ u64 ft.toNat) (by rw [hlen]; exact hp) rfl (by decide) (by decide)
      (k := fun _ => 0) (n := fun _ => 0) (w := fun d => modTime { s with dict := d } fun t =>
        { t with wallBase := wall.toNat, ftBase := ft.toNat, wallValid := true, pps := if t.pps = 4 then 1 else t.pps }) fun d _ => by
        rw [commandWrite_wall, hf1, hf2]
        exact wallSet_near (s := { s with dict := d }) hlo hhi
    exact ⟨_, congrArg Host.Outcome.next he, by rw [reply_time]; rfl, by rw [reply_time]; rfl, by rw [reply_time]; rfl, by rw [reply_time]; rfl,
      by rw [reply_now]; rfl, hw, replied_only (l := [.time]) (onlyParts_of_keeps (modTime_keeps (Keeps.refl _ _) rfl)) (by decide) (by decide) _ _ _⟩
  · obtain ⟨e, hval⟩ : ∃ e, ∀ d, HeardAs s c d → writeValue { s with dict := d } c 0x2860 3 (u32 rate.toNat) 0 =
        .ok 0 0 (deviceNote { s with dict := d } (setRate (groundStored { s with dict := d } e 0x2860 3 (u32 rate.toNat)) rate.toInt)) := by
      obtain ⟨e, hlook⟩ : ∃ e, odLookup 0x2860 3 = .inr e := ⟨_, rfl⟩
      refine ⟨e, fun d _ => ?_⟩
      obtain ⟨e', hlook', he'⟩ := valueWrite_rate (s := { s with dict := d }) c rate hmask
      rwa [Sum.inr.inj (hlook.symm.trans hlook')]
    obtain ⟨d, m, hd, he, hw⟩ := write_ok (hw := 0) h hp (by decide) (by decide) (k := fun _ => 0) (n := fun _ => 0) hval
    have hn := deviceNote_only { s with dict := d } (setRate (groundStored { s with dict := d } e 0x2860 3 (u32 rate.toNat)) rate.toInt)
    have hr := setRate_only (groundStored { s with dict := d } e 0x2860 3 (u32 rate.toNat)) rate.toInt
    have hg := groundStored_only { s with dict := d } e 0x2860 3 (u32 rate.toNat)
    have htime : (groundStored { s with dict := d } e 0x2860 3 (u32 rate.toNat)).time = s.time := hg .time rfl
    have hnow : (groundStored { s with dict := d } e 0x2860 3 (u32 rate.toNat)).now = s.now := hg .now rfl
    refine ⟨_, congrArg Host.Outcome.next he, ?_, ?_, ?_, ?_, hw, ?_, ?_⟩
    · rw [reply_time, hn .time rfl, setRate_time]
    · rw [reply_time, hn .time rfl, setRate_time, htime, hnow]
    · rw [reply_time, hn .time rfl, setRate_time, hnow]
    · rw [reply_rw, hn .dict rfl, hr .dict rfl, groundStored_rw]
      exact tget_tput_self ..
    · rw [reply_mem, hn .mem rfl, hr .mem rfl]
      exact hg .mem rfl
    · rw [reply_integ, hn .integ rfl, hr .integ rfl]
      exact hg .integ rfl

end Sys2Proof.Machine

/-!
PROOFS. Commands written into the dictionary: epoch switches and partitions (R452, R458, R466), the ledger (R494, R495, R505).
-/
namespace Sys2Proof.Machine

set_option Elab.async false

/-! ### Epoch switches and partitions -/

/-- The state in which a switch has been asked for, before its checks (R458). -/
def switchAsked (s : State) (b : Bank) (goAt : Nat) : State := modEp s fun e =>
  { e with kind := 0, goAt := goAt, result := 0, failIndex := 0, failSub := 0, timedOut := 0, armedTint := bankTint b.cfg }

theorem armChecks_asked (s : State) (d : DictState) (b x : Bank) (goAt : Nat) :
    armChecks (switchAsked { s with dict := d } b goAt) x = armChecks s x := rfl

theorem startSwitch_refused {s : State} {d : DictState} {goAt code idx sub : Nat} (h : armChecks s (nextBank s false) = some (code, idx, sub)) :
    startSwitch { s with dict := d } false goAt = modEp (switchAsked { s with dict := d } (nextBank s false) goAt) fun e =>
      { e with result := code, failIndex := idx, failSub := sub, state := 0 } := by
  unfold startSwitch
  extract_lets b u
  have ha : (if false = true then none else armChecks u b) = some (code, idx, sub) := (armChecks_asked ..).trans h
  rw [ha]
  rfl

theorem startSwitch_arms {s : State} {d : DictState} {goAt : Nat} (h : armChecks s (nextBank s false) = none) :
    (startSwitch { s with dict := d } false goAt).ep.cur = s.ep.cur ∧ (startSwitch { s with dict := d } false goAt).ep.pend = s.ep.pend ∧
      (startSwitch { s with dict := d } false goAt).ep.state = 1 ∧
      (startSwitch { s with dict := d } false goAt).ep.armed = some (nextBank s false) ∧
      (startSwitch { s with dict := d } false goAt).ep.goAt = goAt ∧ (startSwitch { s with dict := d } false goAt).ep.result = 0 := by
  have hk (u : State) (l : List Nat) (b : Bank) : (l.foldl (fun s d => prepareReturn s b d) u).ep = u.ep :=
    foldl_same State.ep (fun u d => (prepareReturn_keeps (Keeps.refl (allBut .ep) u) rfl rfl rfl rfl).rest) _ _
  unfold startSwitch
  extract_lets b u
  have ha : (if false = true then none else armChecks u b) = none := (armChecks_asked ..).trans h
  rw [ha]
  simp +zetaDelta [hk]
  rfl

theorem partitionDrain_only (s : State) (p : Nat) : OnlyParts [.part] s (partitionDrain s p) :=
  onlyParts_of_keeps (partitionDrain_keeps (Keeps.refl _ s) rfl)

theorem abortSwitch_only (s : State) (code : Nat) : OnlyParts [.ep, .fab, .part] s (abortSwitch s code) :=
  onlyParts_of_keeps (abortSwitch_keeps (Keeps.refl _ s) rfl rfl rfl)

theorem partControl_setControl_self (s : State) (p v : Nat) : partControl (setControl s p v) p = v := tgetD_tput_self ..

theorem partControl_setControl_ne (s : State) {p q : Nat} (v : Nat) (h : q ≠ p) : partControl (setControl s p v) q = partControl s q :=
  tgetD_tput_ne _ _ _ h

theorem partControl_drain (s : State) (p : Nat) :
    partControl (partitionDrain s p) p = (if partControl s p = 0 then 1 else partControl s p) ∧
      ∀ q, q ≠ p → partControl (partitionDrain s p) q = partControl s q := by
  unfold partitionDrain
  split
  · exact ⟨partControl_setControl_self .., fun q h => partControl_setControl_ne s 1 h⟩
  · exact ⟨rfl, fun q _ => rfl⟩

theorem commandWrite_switch {s : State} (c : Caller) {goAt : BitVec 64} (h0 : s.ep.state = 0) (hgo : goAt.toNat ≤ s.now + 10 ^ 10) :
    commandWrite s c 0x5010 0 (u64 goAt.toNat) 0 = started (startSwitch s false goAt.toNat) := by
  have ha : epochSwitchAbort s goAt.toNat = none := by
    rw [show (10 ^ 10 : Nat) = 10000000000 from rfl] at hgo
    rw [epochSwitchAbort, if_neg (by simp [h0]), if_neg (Nat.not_lt.mpr hgo)]
  have hc : commandWrite s c 0x5010 0 (u64 goAt.toNat) 0 = refuseIf (epochSwitchAbort s (leNat (u64 goAt.toNat))) s
      (started (startSwitch s false (leNat (u64 goAt.toNat)))) := by
    simp [commandWrite, commandLow]
  rw [hc, leNat_u64, ha]
  rfl

theorem commandWrite_partition (s : State) (c : Caller) {p : PartId} (h : p.val ≠ 0) (v : BitVec 8) :
    commandWrite s c (0x5020 + p.val) 4 (u8 v.toNat) 0 = partitionControl s p.val v.toNat := by
  have hlt := p.isLt
  rw [commandWrite, if_pos (by omega), commandLow]
  simp only [leNat_u8]
  rw [if_neg (by omega), if_neg (by omega), if_neg (by omega), if_neg (by omega), if_neg (by omega), if_neg (by omega), if_neg (by omega),
    if_neg (by omega), if_neg (by omega), if_neg (by omega), Nat.add_sub_cancel_left]

/-- Settles O26: a switch by its checks; the other three by the state their effect leaves. -/
theorem epochAndPartitionWritesComplete : Obligations.EpochAndPartitionWritesComplete := by
  intro s r c h
  have hcontrol (p : PartId) (h0 : p.val ≠ 0) : commandIfAny (0x5020 + p.val) 4 = true := by revert p; decide
  refine ⟨fun goAt hp h0 hgo => ?_, fun hp hst => ?_, fun p hp hp0 => ?_, fun p hp hp0 => ?_⟩
  · obtain ⟨d, m, hd, he, hw⟩ := command_ok (hw := 0) h (v := u64 goAt.toNat) hp rfl (by decide) (by decide) (k := fun _ => 3) (n := fun _ => 0)
      (w := fun d => startSwitch { s with dict := d } false goAt.toNat) fun d _ => commandWrite_switch (s := { s with dict := d }) c h0 hgo
    refine ⟨_, congrArg Host.Outcome.next he, hw, ?_⟩
    rw [reply_ep]
    cases hc : armChecks s (nextBank s false) with
    | none =>
      obtain ⟨hcur, hpend, hstate, harmed, hgoAt, hresult⟩ := startSwitch_arms (d := d) (goAt := goAt.toNat) hc
      exact ⟨hcur, hpend, fun _ _ _ h => (nomatch h), fun _ => ⟨hstate, harmed, hgoAt, hresult⟩⟩
    | some x =>
      obtain ⟨code, idx, sub⟩ := x
      rw [startSwitch_refused (d := d) (goAt := goAt.toNat) hc]
      refine ⟨rfl, rfl, fun code' idx' sub' h => ?_, fun h => (nomatch h)⟩
      cases h
      exact ⟨rfl, rfl, rfl, rfl⟩
  · obtain ⟨d, m, hd, he, hw⟩ := command_ok (hw := 0) h (v := u8 1) hp rfl (by decide) (by decide) (k := fun _ => 0) (n := fun _ => 0)
      (w := fun d => abortSwitch { s with dict := d } aStateConflict) fun d _ => by
        have ha : epochCancelAbort { s with dict := d } 1 = none := by
          rw [epochCancelAbort]
          rcases hst with h | h <;> simp [h]
        show refuseIf (epochCancelAbort { s with dict := d } 1) _ _ = _
        rw [ha]
        rfl
    have hep := abortSwitch_ep { s with dict := d } aStateConflict
    refine ⟨_, congrArg Host.Outcome.next he, ?_, ?_, ?_, ?_, ?_, hw, replied_only (abortSwitch_only _ _) (by decide) (by decide) _ _ _⟩
    · rw [reply_ep, hep]
    · rw [reply_ep, hep]
    · rw [reply_ep, hep]
    · rw [reply_ep, hep]
    · rw [reply_ep, hep]
  · obtain ⟨d, m, hd, he, hw⟩ := command_ok (hw := 0) h (v := u8 1) hp (hcontrol p hp0) (by omega) (by decide) (k := fun _ => 0) (n := fun _ => 0)
      (w := fun d => partitionDrain { s with dict := d } p.val) fun d _ => commandWrite_partition _ c hp0 1
    obtain ⟨h1, h2⟩ := partControl_drain { s with dict := d } p.val
    refine ⟨_, congrArg Host.Outcome.next he, ?_, fun q hq => ?_, hw, replied_only (partitionDrain_only _ _) (by decide) (by decide) _ _ _⟩
    · rw [partControl, reply_part]
      exact h1
    · rw [partControl, reply_part]
      exact h2 q hq
  · obtain ⟨d, m, hd, he, hw⟩ := command_ok (hw := 0) h (v := u8 2) hp (hcontrol p hp0) (by omega) (by decide) (k := fun _ => 0) (n := fun _ => 0)
      (w := fun d => partitionResume { s with dict := d } p.val) fun d _ => commandWrite_partition _ c hp0 2
    refine ⟨_, congrArg Host.Outcome.next he, ?_, fun q hq => ?_, hw,
      replied_only (l := [.part]) (onlyParts_of_keeps (partitionResume_keeps (Keeps.refl _ _) rfl)) (by decide) (by decide) _ _ _⟩
    · rw [partControl, reply_part]
      exact partControl_setControl_self ..
    · rw [partControl, reply_part]
      exact partControl_setControl_ne _ 0 hq

/-! ### The ledger -/

/-- The engine of deckle k is in the same state, under the same stop. -/
def EngineKept (s t : State) (k : Nat) : Prop := (ledOf t k).state = (ledOf s k).state ∧ (ledOf t k).stopping = (ledOf s k).stopping

theorem EngineKept.refl (s : State) (k : Nat) : EngineKept s s k := ⟨rfl, rfl⟩

theorem EngineKept.trans {s t u : State} {k : Nat} (h1 : EngineKept s t k) (h2 : EngineKept t u k) : EngineKept s u k :=
  ⟨h2.1.trans h1.1, h2.2.trans h1.2⟩

theorem EngineKept.of_led {s t : State} (h : t.led = s.led) (k : Nat) : EngineKept s t k := by
  rw [EngineKept, ledOf, ledOf, h]
  exact ⟨rfl, rfl⟩

theorem engineKept_modLedger (s : State) (k : Nat) {f : Ledger → Ledger} (hf : ∀ l, (f l).state = l.state ∧ (f l).stopping = l.stopping) :
    EngineKept s (modLedger s k f) k := by
  rw [EngineKept, ledOf_modLedger_self]
  exact hf _

theorem engineKept_modChain (s : State) (k : Nat) (f : Chain → Chain) : EngineKept s (modChain s k f) k :=
  engineKept_modLedger s k fun _ => ⟨rfl, rfl⟩

theorem engineKept_ledReport (s : State) (n c k d : Nat) : EngineKept s (ledReport s n c k d) n := EngineKept.of_led (report_led ..) n

theorem engineKept_queuePage (s : State) (k a w : Nat) : EngineKept s (queuePage s k a w) k := by
  unfold queuePage
  extract_lets p
  split
  · exact engineKept_modLedger s k fun _ => ⟨rfl, rfl⟩
  · exact .refl ..

theorem engineKept_queueTail (s : State) (k : Nat) : EngineKept s (queueTail s k) k := by
  unfold queueTail
  extract_lets c p
  split
  · exact .refl ..
  · exact engineKept_modLedger s k fun _ => ⟨rfl, rfl⟩

theorem engineKept_ledCount (s : State) (k i n : Nat) : EngineKept s (ledCount s k i n) k := engineKept_modLedger s k fun _ => ⟨rfl, rfl⟩

theorem engineKept_chainPut (s : State) (k : Nat) (r : Bytes) : EngineKept s (chainPut s k r) k := by
  unfold chainPut
  extract_lets c w t u v x
  have hx : EngineKept v x k := by
    unfold x
    split
    · exact engineKept_ledCount ..
    split
    · exact engineKept_ledCount ..
    · exact .refl ..
  exact (((engineKept_modChain s k _).trans (engineKept_ledCount u k 0 1)).trans hx).trans (engineKept_queuePage ..)

theorem engineKept_chainOne {s t : State} {k : Nat} {flush : Bool} (h : chainOne s k flush = some t) : EngineKept s t k := by
  unfold chainOne at h
  extract_lets c at h
  split at h
  · cases h
  split at h
  · cases h
    exact (engineKept_modChain ..).trans (engineKept_chainPut ..)
  split at h
  · extract_lets r at h
    split at h
    · cases h
      exact (engineKept_modChain ..).trans (engineKept_chainPut ..)
    · cases h
      exact engineKept_modChain ..
  split at h
  · cases h
    exact ((engineKept_modChain ..).trans (engineKept_chainPut ..)).trans (engineKept_ledReport ..)
  · cases h

theorem engineKept_chainLoop (f : Nat) (s : State) (k : Nat) (flush : Bool) : EngineKept s (chainLoop f s k flush) k := by
  induction f generalizing s with
  | zero => exact .refl ..
  | succ f ih =>
    unfold chainLoop
    split
    · exact .refl ..
    · next h => exact (engineKept_chainOne h).trans (ih _)

theorem engineKept_chainAdvance (s : State) (k : Nat) (flush : Bool) : EngineKept s (chainAdvance s k flush) k := by
  unfold chainAdvance
  extract_lets l
  split
  · exact engineKept_chainLoop ..
  · exact .refl ..

theorem engineKept_runEnd (s : State) (k : Nat) : EngineKept s (runEnd s k) k := by
  unfold runEnd
  extract_lets l c
  split
  · exact .refl ..
  split
  · exact engineKept_modChain ..
  · exact .refl ..

theorem engineKept_journalGo (s : State) (k : Nat) : EngineKept s (journalGo s k) k := (engineKept_runEnd s k).trans (engineKept_chainAdvance ..)

/-- An engine told to stop is stopped, or still has what it must write first (R495). -/
theorem ledgerStop_stops (s : State) (k : Nat) : (ledOf (ledgerStop s k) k).stopping = true ∨ (ledOf (ledgerStop s k) k).state = 5 := by
  have hk := (engineKept_chainAdvance (modLedger s k fun l => { l with stopping := true }) k false).trans (engineKept_queueTail _ k)
  have hs : (ledOf (queueTail (chainAdvance (modLedger s k fun l => { l with stopping := true }) k) k) k).stopping = true := by
    rw [hk.2, ledOf_modLedger_self]
  unfold ledgerStop ledgerStopped
  extract_lets u l
  split
  · exact .inr (congrArg Ledger.state (ledOf_modLedger_self ..))
  · exact .inl hs

/-- The window's warning of an engine, which leaves all else of it (R496). -/
theorem ledCapacity_or (s : State) (k : Nat) : ∃ u : State, (u = s ∨ u = ledReport (modLedger s k fun l => { l with state := 3 }) k 0x88 2 k ∨
      ((ledOf s k).state = 3 ∧ u = journalGo (modLedger s k fun l => { l with state := 2 }) k)) ∧
    chainOf (ledCapacity s k) k = chainOf u k ∧ (ledOf (ledCapacity s k) k).state = (ledOf u k).state := by
  unfold ledCapacity
  extract_lets l free u warn f level
  split
  · exact ⟨s, .inl rfl, rfl, rfl⟩
  refine ⟨u, ?_, ?_⟩
  · unfold u
    split
    · exact .inr (.inl rfl)
    split
    · next h => exact .inr (.inr ⟨of_decide_eq_true (Bool.and_eq_true_iff.mp h).1, rfl⟩)
    · exact .inl rfl
  · have hw (g : Ledger → Ledger) (hg : ∀ l, (g l).chain = l.chain ∧ (g l).state = l.state) :
        chainOf (modLedger u k g) k = chainOf u k ∧ (ledOf (modLedger u k g) k).state = (ledOf u k).state := by
      rw [chainOf, ledOf_modLedger_self]
      exact hg _
    have hr : chainOf (ledReport (modLedger u k fun l => { l with warned := some level }) k 0x89 1 f) k = chainOf u k ∧
        (ledOf (ledReport (modLedger u k fun l => { l with warned := some level }) k 0x89 1 f) k).state = (ledOf u k).state := by
      have hled : (ledReport (modLedger u k fun l => { l with warned := some level }) k 0x89 1 f).led =
        (modLedger u k fun l => { l with warned := some level }).led := report_led ..
      rw [chainOf, ledOf, hled]
      exact hw _ fun _ => ⟨rfl, rfl⟩
    split
    · exact hw _ fun _ => ⟨rfl, rfl⟩
    split
    · exact hr
    split
    · exact hr
    · exact ⟨rfl, rfl⟩

/-- The capacity check leaves an engine READY or JOURNAL_FULL, and its chain as it was unless the engine was full (R495, R505). -/
theorem ledCapacity_state {s : State} {k : Nat} (h : (ledOf s k).state = 2 ∨ (ledOf s k).state = 3) :
    (ledOf (ledCapacity s k) k).state = 2 ∨ (ledOf (ledCapacity s k) k).state = 3 := by
  obtain ⟨u, hu, -, hst⟩ := ledCapacity_or s k
  rw [hst]
  rcases hu with rfl | rfl | ⟨-, rfl⟩
  · exact h
  · refine .inr ((engineKept_ledReport ..).1.trans ?_)
    rw [ledOf_modLedger_self]
  · refine .inl ((engineKept_journalGo ..).1.trans ?_)
    rw [ledOf_modLedger_self]

theorem ledCapacity_chain {s : State} {k : Nat} (h : (ledOf s k).state ≠ 3) : chainOf (ledCapacity s k) k = chainOf s k := by
  obtain ⟨u, hu, hc, -⟩ := ledCapacity_or s k
  rw [hc]
  rcases hu with rfl | rfl | ⟨h3, -⟩
  · rfl
  · have hled : (ledReport (modLedger s k fun l => { l with state := 3 }) k 0x88 2 k).led = (modLedger s k fun l => { l with state := 3 }).led := report_led ..
    rw [chainOf, ledOf, hled, ← ledOf, ledOf_modLedger_self]
    rfl
  · exact absurd h3 h

theorem ledgerStart_state (s : State) (k : Nat) : (ledOf (ledgerStart s k) k).state = 2 ∨ (ledOf (ledgerStart s k) k).state = 3 := by
  refine ledCapacity_state (.inl ((engineKept_journalGo ..).1.trans ?_))
  rw [ledOf_modLedger_self]

/-- A release makes every number below the seal reclaimable (R505). -/
theorem journalRelease_chain {s : State} {n : Nat} (q : Nat) (h : (ledOf s n).state ≠ 3) : (chainOf (journalRelease s n q) n).release = q ∧
    ∀ p x, (p, x) ∈ (chainOf (journalRelease s n q) n).recs → q ≤ p := by
  have hc : chainOf (journalRelease s n q) n = { chainOf s n with
      release := q, recs := (chainOf s n).recs.filter (fun e => decide (q ≤ e.1)), lost := (chainOf s n).lost.filter (fun e => decide (q ≤ e.1 + e.2)) } := by
    unfold journalRelease
    rw [ledCapacity_chain, chainOf, queueIndex, ledOf_modLedger_self, modChain, ledOf_modLedger_self]
    · rfl
    · rw [queueIndex, ledOf_modLedger_self, modChain, ledOf_modLedger_self]
      exact h
  rw [hc]
  exact ⟨rfl, fun p x hp => by simpa using (List.mem_filter.mp hp).2⟩

theorem ledgerFormat_starts (s : State) (k : Nat) : (ledOf (ledgerFormat s k) k).formatting = true ∧ (chainOf (ledgerFormat s k) k).next = 1 ∧
    (∃ x, (chainOf (ledgerFormat s k) k).signing = some (0, x)) ∧
    tget (ledgerFormat s k).sec.ledgerKey k = some (tgetD s.sec.zeroCount k 0) ∧ ∀ j, j ≠ k → ledOf (ledgerFormat s k) j = ledOf s j := by
  unfold ledgerFormat
  extract_lets l v layout s1 s2 s3 s4 r
  have h4 : ∀ j, ledOf s4 j = ledOf s3 j := fun j => rfl
  refine ⟨?_, ?_, ⟨r, ?_⟩, ?_, fun j hj => ?_⟩
  · rw [ledOf_modLedger_self, h4, ledOf_modLedger_self]
    exact congrArg Ledger.formatting (ledOf_modLedger_self s k _)
  · rw [chainOf, ledOf_modLedger_self]
  · rw [chainOf, ledOf_modLedger_self]
  · exact tget_tput_self ..
  · rw [ledOf_modLedger_ne _ hj, h4, ledOf_modLedger_ne _ hj]
    exact ledOf_modLedger_ne s hj _

/-- Settles O27: each command by what it leaves of its engine. -/
theorem ledgerWritesComplete : Obligations.LedgerWritesComplete := by
  intro s r c h
  have hcommand (d : Deckle) : commandIfAny 0x6003 (d.val + 1) = true ∧ commandIfAny 0x6005 (d.val + 1) = true ∧ commandIfAny 0x6006 (d.val + 1) = true := by
    revert d
    decide
  refine ⟨fun p n hp hrel => ?_, fun d hp hok => ?_, fun d hp hok => ?_, fun d hp hst => ?_⟩
  · obtain ⟨dd, m, hd, he, hw⟩ := command_ok (hw := 0) h (v := u64 n.toNat) hp (hcommand p).2.2 (by decide) (by omega) (k := fun _ => 0) (n := fun _ => 0)
      (w := fun dd => journalRelease { s with dict := dd } p.val n.toNat) fun dd _ => by
        show (if releaseOk { s with dict := dd } (p.val + 1 - 1) (leNat (u64 n.toNat)) then _ else _) = _
        rw [leNat_u64, Nat.add_sub_cancel]
        exact if_pos hrel
    refine ⟨_, congrArg Host.Outcome.next he, fun h3 => ?_, hw, replied_only (l := [.integ, .led, .obs])
      (onlyParts_of_keeps (journalRelease_keeps (Keeps.refl _ _) rfl rfl rfl)) (by decide) (by decide) _ _ _⟩
    rw [chainOf, ledOf, reply_led]
    exact journalRelease_chain (s := { s with dict := dd }) n.toNat h3
  · obtain ⟨dd, m, hd, he, hw⟩ := command_ok (hw := 0) h (v := u8 1) hp (hcommand d).1 (by decide) (by omega) (k := fun _ => 3) (n := fun _ => 0)
      (w := fun dd => ledgerFormat { s with dict := dd } d.val) fun dd _ => by
        show formatWrite { s with dict := dd } c (d.val + 1 - 1) 1 = _
        rw [Nat.add_sub_cancel]
        exact (if_neg (by decide)).trans (if_neg (by rw [show formatOk { s with dict := dd } d.val (c.role == 4) = true from hok]; decide))
    obtain ⟨h1, h2, h3, h4, h5⟩ := ledgerFormat_starts { s with dict := dd } d.val
    refine ⟨_, congrArg Host.Outcome.next he, ?_, ?_, ?_, ?_, fun k hk => ?_, hw, replied_only (l := [.led, .port, .sec])
      (onlyParts_of_keeps (ledgerFormat_keeps (Keeps.refl _ _) rfl rfl rfl)) (by decide) (by decide) _ _ _⟩
    · rw [ledOf, reply_led]
      exact h1
    · rw [chainOf, ledOf, reply_led]
      exact h2
    · rw [chainOf, ledOf, reply_led]
      exact h3
    · rw [reply_sec]
      exact h4
    · rw [ledOf, reply_led]
      exact h5 k hk
  · obtain ⟨dd, m, hd, he, hw⟩ := command_ok (hw := 0) h (v := u8 1) hp (hcommand d).2.1 (by decide) (by omega) (k := fun _ => 3) (n := fun _ => 0)
      (w := fun dd => ledgerStop { s with dict := dd } d.val) fun dd _ => by
        show ledgerControl { s with dict := dd } (d.val + 1 - 1) 1 = _
        rw [Nat.add_sub_cancel]
        exact (if_pos rfl).trans (if_pos hok)
    refine ⟨_, congrArg Host.Outcome.next he, ?_, hw, replied_only (l := [.integ, .led, .obs])
      (onlyParts_of_keeps (ledgerStop_keeps (Keeps.refl _ _) rfl rfl rfl)) (by decide) (by decide) _ _ _⟩
    rw [ledOf, reply_led]
    exact ledgerStop_stops ..
  · obtain ⟨dd, m, hd, he, hw⟩ := command_ok (hw := 0) h (v := u8 2) hp (hcommand d).2.1 (by decide) (by omega) (k := fun _ => 0) (n := fun _ => 0)
      (w := fun dd => ledgerStart { s with dict := dd } d.val) fun dd _ => by
        show ledgerControl { s with dict := dd } (d.val + 1 - 1) 2 = _
        rw [Nat.add_sub_cancel]
        exact (if_neg (by decide)).trans ((if_pos rfl).trans (if_pos hst))
    refine ⟨_, congrArg Host.Outcome.next he, ?_, hw, replied_only (l := [.integ, .led, .obs])
      (onlyParts_of_keeps (ledgerStart_keeps (Keeps.refl _ _) rfl rfl rfl)) (by decide) (by decide) _ _ _⟩
    rw [ledOf, reply_led]
    exact ledgerStart_state ..

end Sys2Proof.Machine

/-!
PROOFS. Commands written into the dictionary: counters, capture buffers and snapshots (R538, R550, R552, R554, R559, R560), rails, resets and firmware
images (R606, R621 to R623, R628).
-/
namespace Sys2Proof.Machine

set_option Elab.async false

/-! ### Counters and capture buffers -/

/-- A trace message goes into rings and stages, or is counted as missed by a snapshot (R543, R545). -/
theorem event_obs (s : State) (n u ty p l : Nat) (e : Option Nat) : ∃ rings stages snaps,
    (event s n u ty p l e).obs = { s.obs with rings := rings, stages := stages, snaps := snaps } := by
  unfold event
  extract_lets m t
  have ht : ∃ rings snaps, t.obs = { s.obs with rings := rings, snaps := snaps } := by
    unfold t ringPut
    split
    · exact ⟨_, _, rfl⟩
    · exact ⟨_, _, rfl⟩
  obtain ⟨rings, snaps, ht⟩ := ht
  split
  · have hs : (stagePut t n m).obs = { t.obs with stages := (stagePut t n m).obs.stages } := rfl
    exact ⟨rings, (stagePut t n m).obs.stages, snaps, hs.trans (by rw [ht])⟩
  · exact ⟨rings, s.obs.stages, snaps, ht⟩

@[simp] theorem event_buffers (s : State) (n u ty p l : Nat) (e : Option Nat) : (event s n u ty p l e).obs.buffers = s.obs.buffers := by
  obtain ⟨_, _, _, h⟩ := event_obs s n u ty p l e
  rw [h]

@[simp] theorem report_buffers (s : State) (r : Report) : (report s r).obs.buffers = s.obs.buffers := by
  unfold report
  extract_lets r' d t q
  have ht : t.obs.buffers = s.obs.buffers := event_buffers ..
  split
  · exact ht
  split
  · exact ht
  · exact ht

@[simp] theorem bufOf_modBuf_self (s : State) (b : Nat) (f : Capture → Capture) : bufOf (modBuf s b f) b = f (bufOf s b) := tgetD_tmod_self ..

theorem bufOf_modBuf_ne (s : State) {b k : Nat} (h : k ≠ b) (f : Capture → Capture) : bufOf (modBuf s b f) k = bufOf s k := tgetD_tmod_ne _ _ _ _ h

theorem modBuf_only (s : State) (b : Nat) (f : Capture → Capture) : OnlyParts [.obs] s (modBuf s b f) := onlyParts_of_keeps (modBuf_keeps (Keeps.refl _ s) rfl)

theorem ringAppend_rest (n : Nat) (m : Bytes) (x : Capture) : (ringAppend n m x).state = x.state ∧ (ringAppend n m x).cfg = x.cfg ∧
    (ringAppend n m x).reserve = x.reserve := by
  unfold ringAppend
  split <;> exact ⟨rfl, rfl, rfl⟩

theorem bufConfig_dict (s : State) (d : DictState) (h : d.rw = s.dict.rw) (b : Nat) : bufConfig { s with dict := d } b = bufConfig s b := by
  rw [bufConfig, setting_dict s d h, bufConfig]

theorem bufOf_bufferArm (s : State) (b : Nat) : (bufOf (bufferArm s b) b).state = 1 ∧ (bufOf (bufferArm s b) b).cfg = bufConfig s b ∧
    (bufOf (bufferArm s b) b).reserve = [] := by
  rw [bufferArm, bufOf_modBuf_self]
  exact ringAppend_rest ..

theorem bufferStop_running {s : State} {b : Nat} (h : (bufOf s b).state = 1 ∨ (bufOf s b).state = 2) : (bufOf (bufferStop s b) b).state = 3 ∧
    (bufOf (bufferStop s b) b).readable = true := by
  unfold bufferStop
  extract_lets x m
  split
  · rw [bufOf_modBuf_self]
    exact ⟨rfl, rfl⟩
  · next h1 =>
    rw [if_pos (h.resolve_left h1), bufOf_modBuf_self]
    exact ⟨rfl, rfl⟩

theorem bufferStop_idle {s : State} {b : Nat} (h : (bufOf s b).state = 0 ∨ (bufOf s b).state = 3) : bufferStop s b = s := by
  unfold bufferStop
  extract_lets x m
  have hx : x.state = (bufOf s b).state := rfl
  rw [if_neg (by omega), if_neg (by omega)]

theorem bufOf_bufferStop_ne (s : State) {b k : Nat} (h : k ≠ b) : bufOf (bufferStop s b) k = bufOf s k := by
  unfold bufferStop
  extract_lets x m
  split
  · exact bufOf_modBuf_ne s h _
  split
  · exact bufOf_modBuf_ne s h _
  · rfl

theorem bufOf_triggerFire (s : State) (b kind : Nat) (m : Bytes) : (bufOf (triggerFire s b kind m) b).state = 2 ∧
    (bufOf (triggerFire s b kind m) b).trigTick = s.now ∧ (bufOf (triggerFire s b kind m) b).cfg = (bufOf s b).cfg := by
  unfold triggerFire bufReport
  extract_lets u
  have hb (r : Report) : bufOf (report u r) b = bufOf u b := congrArg (fun t : Table Capture => tgetD t b {}) (report_buffers u r)
  rw [hb]
  unfold u
  rw [bufOf_modBuf_self]
  exact ⟨rfl, rfl, rfl⟩

theorem triggerFire_reported (s : State) (b kind : Nat) (m : Bytes) : Reported s (triggerFire s b kind m) 0xD1 1 := by
  unfold triggerFire bufReport
  extract_lets u
  exact (report_reported u { cause := 0xD1, cls := 1, unit := 2, source := bufTile b (bufOf u b).cfg, detail := b }).congr rfl rfl

theorem bufferControl_state {s : State} {c : Caller} {b : QueueId} {v : BitVec 8} :
    commandWrite s c (0x7060 + b.val) 2 (u8 v.toNat) 0 = bufferControl s b.val v.toNat := by
  have hlt := b.isLt
  rw [commandWrite, if_neg (by omega), commandHigh]
  simp only [leNat_u8]
  rw [if_neg (by omega), if_neg (by omega), if_neg (by omega), if_neg (by omega), if_pos (by simp [inRange]; omega), Nat.add_sub_cancel_left]

/-! ### Snapshots -/

@[simp] theorem snapOf_modSnap_self (s : State) (d : Nat) (f : Snapshot → Snapshot) : snapOf (modSnap s d f) d = f (snapOf s d) := tgetD_tmod_self ..

theorem snapOf_modSnap_ne (s : State) {d k : Nat} (h : k ≠ d) (f : Snapshot → Snapshot) : snapOf (modSnap s d f) k = snapOf s k :=
  tgetD_tmod_ne _ _ _ _ h

/-- A FREEZE sent to the dies of a list is on its way to each of them. -/
theorem sent_foldl {x : Freeze} {d : Nat} (l : List Nat) (s : State) (h : d ∈ l ∨ (snapOf s d).sent = some x) :
    (snapOf (l.foldl (fun s d => modSnap s d fun y => { y with sent := some x }) s) d).sent = some x := by
  induction l generalizing s with
  | nil => exact h.resolve_left (by simp)
  | cons k l ih =>
    refine ih _ ?_
    by_cases hk : d = k
    · subst hk
      exact .inr (by rw [snapOf_modSnap_self])
    · rw [snapOf_modSnap_ne s hk]
      exact h.imp_left fun hm => (List.mem_cons.mp hm).resolve_left hk

/-- One die's snapshot is released (R560). -/
def releaseStep (s : State) (d : Nat) : State := if (snapOf s d).state = 2 then modSnap s d fun x => { sent := x.sent } else s

theorem snapOf_releaseStep_ne (s : State) {d k : Nat} (h : k ≠ d) : snapOf (releaseStep s d) k = snapOf s k := by
  rw [releaseStep]
  split
  · exact snapOf_modSnap_ne s h _
  · rfl

theorem snapOf_releaseStep_idle {s : State} {d : Nat} (h : (snapOf s d).state ≠ 2) (k : Nat) : snapOf (releaseStep s k) d = snapOf s d := by
  by_cases hk : d = k
  · subst hk
    rw [releaseStep, if_neg h]
  · exact snapOf_releaseStep_ne s hk

theorem release_keeps {d : Nat} (l : List Nat) (s : State) (h : d ∉ l ∨ (snapOf s d).state ≠ 2) : snapOf (l.foldl releaseStep s) d = snapOf s d := by
  induction l generalizing s with
  | nil => rfl
  | cons k l ih =>
    have hk : snapOf (releaseStep s k) d = snapOf s d := by
      rcases h with h | h
      · exact snapOf_releaseStep_ne s fun e => h (e ▸ List.mem_cons_self)
      · exact snapOf_releaseStep_idle h k
    rw [List.foldl_cons, ih (releaseStep s k) (by rw [hk]; exact h.imp_left fun hn hm => hn (List.mem_cons_of_mem _ hm)), hk]

theorem release_frees {d : Nat} (l : List Nat) (s : State) (hd : d ∈ l) (h : (snapOf s d).state = 2) :
    (snapOf (l.foldl releaseStep s) d).state = 0 ∧ (snapOf (l.foldl releaseStep s) d).records = [] := by
  induction l generalizing s with
  | nil => cases hd
  | cons k l ih =>
    rw [List.foldl_cons]
    by_cases hk : d = k
    · subst hk
      have hs : snapOf (releaseStep s d) d = { sent := (snapOf s d).sent } := by rw [releaseStep, if_pos h, snapOf_modSnap_self]
      rw [release_keeps l (releaseStep s d) (.inr (by rw [hs]; exact (by decide : (0 : Nat) ≠ 2))), hs]
      exact ⟨rfl, rfl⟩
    · exact ih _ ((List.mem_cons.mp hd).resolve_left hk) (by rw [snapOf_releaseStep_ne s hk]; exact h)

theorem mem_maskDies {m d : Nat} : d ∈ maskDies m ↔ d < 20 ∧ bitAt m d = true := by rw [maskDies, List.mem_filter, List.mem_range]

theorem leNat_append (a b : Bytes) : leNat (a ++ b) = leNat a + 2 ^ (8 * a.length) * leNat b := by
  induction a with
  | nil => simp [leNat]
  | cons x a ih =>
    rw [List.cons_append, leNat, ih, leNat, List.length_cons, show 8 * (a.length + 1) = 8 * a.length + 8 by omega, Nat.pow_add]
    grind

/-- The fields of a FREEZE_CMD (R559). -/
theorem freezeWrite_fields {s : State} {dies : BitVec 20} {ow : Bool} {tf : BitVec 64} (h : freezeAbort s dies.toNat ow tf.toNat = none) :
    freezeWrite s (leNat (u64 (dies.toNat + bitOf ow * 2 ^ 31) ++ u64 tf.toNat)) =
      applied (freezeSend s (maskDies dies.toNat) (freezeTick s tf.toNat) 1 0) := by
  have hd := dies.isLt
  have ht := tf.isLt
  have hb : bitOf ow ≤ 1 := by cases ow <;> decide
  have hv : leNat (u64 (dies.toNat + bitOf ow * 2 ^ 31) ++ u64 tf.toNat) = dies.toNat + bitOf ow * 2 ^ 31 + 2 ^ 64 * tf.toNat := by
    rw [leNat_append, leNat_u64, u64, leNat_leBytes, length_leBytes, Nat.mod_eq_of_lt (by omega)]
  have h1 : bits (dies.toNat + bitOf ow * 2 ^ 31 + 2 ^ 64 * tf.toNat) 19 0 = dies.toNat := by
    rw [bits, Nat.shiftRight_eq_div_pow]
    omega
  have h2 : bits (dies.toNat + bitOf ow * 2 ^ 31 + 2 ^ 64 * tf.toNat) 127 64 = tf.toNat := by
    rw [bits, Nat.shiftRight_eq_div_pow]
    omega
  have h3 : bits (dies.toNat + bitOf ow * 2 ^ 31 + 2 ^ 64 * tf.toNat) 30 20 = 0 := by
    rw [bits, Nat.shiftRight_eq_div_pow]
    omega
  have h4 : bits (dies.toNat + bitOf ow * 2 ^ 31 + 2 ^ 64 * tf.toNat) 63 32 = 0 := by
    rw [bits, Nat.shiftRight_eq_div_pow]
    omega
  have h5 : bitAt (dies.toNat + bitOf ow * 2 ^ 31 + 2 ^ 64 * tf.toNat) 31 = ow := by
    rw [bitAt, Nat.shiftRight_eq_div_pow]
    cases ow
    · simp [bitOf]
      omega
    · simp [bitOf]
      omega
  rw [hv, freezeWrite, h1, h2, h3, h4, h5, h]
  rfl

theorem commandWrite_freeze (s : State) (c : Caller) (v : Bytes) : commandWrite s c 0x7090 0 v 0 = freezeWrite s (leNat v) := by
  simp [commandWrite, commandHigh, inRange]

theorem freezeSend_seq (s : State) (dies : List Nat) (tf reason tag : Nat) : (freezeSend s dies tf reason tag).obs.snapSeq = s.obs.snapSeq + 1 := by
  unfold freezeSend
  extract_lets n u
  have hstep (t : State) (d : Nat) : (modSnap t d fun x => { x with sent := some { tf := tf, reason := reason, seq := n, tag := tag } }).obs.snapSeq =
      t.obs.snapSeq := rfl
  exact foldl_same (fun t : State => t.obs.snapSeq) hstep _ u

/-- Settles O28: each command by what it leaves of the counters, the buffers or the snapshots. -/
theorem observationWritesComplete : Obligations.ObservationWritesComplete := by
  intro s r c h
  have hcommand (b : QueueId) : commandIfAny (0x7060 + b.val) 2 = true := by revert b; decide
  have hbuf (w : State) (ep tag : Nat) (m : TtpMsg) (k : Nat) : bufOf (reply w ep tag m) k = bufOf w k :=
    congrArg (fun o : ObsState => tgetD o.buffers k {}) (reply_obs ..)
  refine ⟨fun d hp hd20 => ?_, fun b hp => ⟨?_, ?_, fun hok => ?_, ?_⟩, fun dies ow tf hp hfr => ?_, fun dies hp => ?_⟩
  · obtain ⟨dd, m, hd, he, hw⟩ := command_ok (hw := 0) h (v := u8 d.toNat) hp rfl (by decide) (by decide) (k := fun _ => 0) (n := fun _ => 0)
      (w := fun dd => counterClear { s with dict := dd } d.toNat) fun dd _ => by
        show dieCommand _ (leNat (u8 d.toNat)) (counterClear · (leNat (u8 d.toNat))) = _
        rw [leNat_u8]
        exact if_pos hd20
    refine ⟨_, congrArg Host.Outcome.next he, ?_, fun k x hx => ?_, ?_, ?_, hw, replied_only (l := [.obs])
      (onlyParts_of_keeps (counterClear_keeps (Keeps.refl _ _) rfl)) (by decide) (by decide) _ _ _⟩
    · rw [reply_obs]
      exact tget_tput_self ..
    · rw [reply_obs] at hx
      simpa [tdrop] using (List.mem_filter.mp hx).2
    · rw [reply_obs]
      rfl
    · rw [reply_obs]
      rfl
  · obtain ⟨dd, m, hd, he, hw⟩ := command_ok (hw := 0) h (v := u8 1) hp (hcommand b) (by omega) (by decide) (k := fun _ => 0) (n := fun _ => 0)
      (w := fun dd => bufferArm { s with dict := dd } b.val) fun dd _ => bufferControl_state (v := 1)
    obtain ⟨h1, h2, h3⟩ := bufOf_bufferArm { s with dict := dd } b.val
    refine ⟨_, congrArg Host.Outcome.next he, (hbuf ..).symm ▸ h1, ?_, (hbuf ..).symm ▸ h3, fun k hk => ?_, hw,
      replied_only (modBuf_only _ _ _) (by decide) (by decide) _ _ _⟩
    · rw [hbuf, h2, bufConfig_dict s dd hd.rw_]
    · rw [hbuf]
      exact bufOf_modBuf_ne _ hk _
  · obtain ⟨dd, m, hd, he, hw⟩ := command_ok (hw := 0) h (v := u8 2) hp (hcommand b) (by omega) (by decide) (k := fun _ => 0) (n := fun _ => 0)
      (w := fun dd => bufferStop { s with dict := dd } b.val) fun dd _ => bufferControl_state (v := 2)
    refine ⟨_, congrArg Host.Outcome.next he, fun hst => ?_, fun hst => ?_, fun k hk => ?_, hw,
      replied_only (l := [.obs]) (onlyParts_of_keeps (bufferStop_keeps (Keeps.refl _ _) rfl)) (by decide) (by decide) _ _ _⟩
    · rw [hbuf]
      exact bufferStop_running (s := { s with dict := dd }) hst
    · rw [hbuf, bufferStop_idle (s := { s with dict := dd }) hst]
      rfl
    · rw [hbuf]
      exact bufOf_bufferStop_ne _ hk
  · obtain ⟨dd, m, hd, he, hw⟩ := command_ok (hw := 0) h (v := u8 3) hp (hcommand b) (by omega) (by decide) (k := fun _ => 0) (n := fun _ => 0)
      (w := fun dd => triggerFire { s with dict := dd } b.val 0 []) fun dd _ => by
        have hc : bufferControl { s with dict := dd } b.val 3 = if bufferTriggerOk { s with dict := dd } b.val then applied (bufferTrigger { s with dict := dd } b.val)
          else .refused aStateConflict { s with dict := dd } := rfl
        exact (bufferControl_state (v := 3)).trans (hc.trans (if_pos hok))
    obtain ⟨h1, h2, h3⟩ := bufOf_triggerFire { s with dict := dd } b.val 0 []
    refine ⟨_, congrArg Host.Outcome.next he, (hbuf ..).symm ▸ h1, (hbuf ..).symm ▸ h2, (hbuf ..).symm ▸ h3,
      (triggerFire_reported { s with dict := dd } b.val 0 []).congr rfl (reply_integ ..), hw,
      replied_only (l := [.integ, .obs]) (onlyParts_of_keeps (bufferTrigger_keeps (Keeps.refl _ _) rfl rfl)) (by decide) (by decide) _ _ _⟩
  · obtain ⟨dd, m, hd, he, hw⟩ := command_ok (hw := 0) h (v := u8 4) hp (hcommand b) (by omega) (by decide) (k := fun _ => 0) (n := fun _ => 0)
      (w := fun dd => bufferDisarm { s with dict := dd } b.val) fun dd _ => bufferControl_state (v := 4)
    have hself : bufOf (bufferDisarm { s with dict := dd } b.val) b.val = { bufOf s b.val with
        state := 0, readable := (bufOf s b.val).readable && (bufOf s b.val).state != 1 && (bufOf s b.val).state != 2 } := bufOf_modBuf_self ..
    refine ⟨_, congrArg Host.Outcome.next he, ?_, fun hr => ?_, fun k hk => ?_, hw, replied_only (modBuf_only _ _ _) (by decide) (by decide) _ _ _⟩
    · rw [hbuf, hself]
    · rw [hbuf, hself] at hr
      simp only [Bool.and_eq_true, bne_iff_ne] at hr
      exact hr.1.2
    · rw [hbuf]
      exact bufOf_modBuf_ne _ hk _
  · have hlen : (u64 (dies.toNat + bitOf ow * 2 ^ 31) ++ u64 tf.toNat).length = 16 := by simp [u64, length_leBytes]
    obtain ⟨dd, m, hd, he, hw⟩ := command_ok (hw := 0) h (v := u64 (dies.toNat + bitOf ow * 2 ^ 31) ++ u64 tf.toNat) (by rw [hlen]; exact hp) rfl
      (by decide) (by decide) (k := fun _ => 0) (n := fun _ => 0)
      (w := fun dd => freezeSend { s with dict := dd } (maskDies dies.toNat) (freezeTick { s with dict := dd } tf.toNat) 1 0) fun dd _ =>
        (commandWrite_freeze ..).trans (freezeWrite_fields (s := { s with dict := dd }) hfr)
    refine ⟨_, congrArg Host.Outcome.next he, ?_, fun d hbit hd20 hup => ?_, hw,
      replied_only (l := [.obs]) (onlyParts_of_keeps (freezeSend_keeps (Keeps.refl _ _) rfl)) (by decide) (by decide) _ _ _⟩
    · rw [reply_obs]
      exact freezeSend_seq ..
    · refine ⟨{ tf := freezeTick s tf.toNat, reason := 1, seq := s.obs.snapSeq + 1, tag := 0 }, ?_, ?_, rfl, rfl⟩
      · rw [snapOf, reply_obs, ← snapOf]
        exact sent_foldl _ _ (.inl (List.mem_filter.mpr ⟨mem_maskDies.mpr ⟨hd20, hbit⟩, hup⟩))
      · have htf : tf.toNat = 0 ↔ tf = 0 := ⟨fun h => BitVec.eq_of_toNat_eq h, fun h => h ▸ rfl⟩
        exact ite_congr (propext htf) (fun _ => rfl) fun _ => rfl
  · have hlt : dies.toNat < 2 ^ 20 := dies.isLt
    have hval : leNat (u32 dies.toNat) = dies.toNat := by
      rw [u32, leNat_leBytes, Nat.mod_eq_of_lt (by omega)]
    obtain ⟨dd, m, hd, he, hw⟩ := command_ok (hw := 0) h (v := u32 dies.toNat) hp rfl (by decide) (by decide) (k := fun _ => 0) (n := fun _ => 0)
      (w := fun dd => snapshotRelease { s with dict := dd } dies.toNat) fun dd _ => by
        show (if leNat (u32 dies.toNat) < 2 ^ 20 then applied (snapshotRelease _ (leNat (u32 dies.toNat))) else _) = _
        rw [hval]
        exact if_pos hlt
    refine ⟨_, congrArg Host.Outcome.next he, fun d hbit hd20 hst => ?_, fun d hno => ?_, hw,
      replied_only (l := [.obs]) (onlyParts_of_keeps (snapshotRelease_keeps (Keeps.refl _ _) rfl)) (by decide) (by decide) _ _ _⟩
    · rw [snapOf, reply_obs, ← snapOf]
      exact release_frees _ { s with dict := dd } (mem_maskDies.mpr ⟨hd20, hbit⟩) hst
    · rw [snapOf, reply_obs, ← snapOf]
      refine release_keeps _ { s with dict := dd } (hno.imp_left fun hb hm => ?_)
      rw [(mem_maskDies.mp hm).2] at hb
      cases hb

/-! ### Rails -/

/-- One rail takes a setpoint that the dictionary has come to want (R606). -/
def railStep (before : State) (s : State) (r : Nat) : State := if railWanted s r = railWanted before r then s else railStart s r (railWanted s r)

theorem railStart_only (s : State) (r mv : Nat) : OnlyParts [.out, .pow] s (railStart s r mv) := onlyParts_of_keeps (railStart_keeps (Keeps.refl _ s) rfl rfl)

theorem railStep_only (b s : State) (r : Nat) : OnlyParts [.out, .pow] s (railStep b s r) := by
  rw [railStep]
  split
  · exact fun p _ => by cases p <;> rfl
  · exact railStart_only _ _ _

theorem railWanted_railStep (b s : State) (r k : Nat) : railWanted (railStep b s r) k = railWanted s k :=
  setting_congr (congrArg Epochs.cur (railStep_only b s r .ep rfl)) (congrArg DictState.rw (railStep_only b s r .dict rfl)) _ _

theorem railOf_modRail_ne (s : State) {r k : Nat} (h : k ≠ r) (f : Rail → Rail) : railOf (modRail s r f) k = railOf s k := tgetD_tmod_ne _ _ _ _ h

theorem railOf_railStep_ne (b s : State) {r k : Nat} (h : k ≠ r) : railOf (railStep b s r) k = railOf s k := by
  unfold railStep railStart
  split
  · rfl
  split
  · rfl
  extract_lets u
  have hu : railOf u k = railOf s k := railOf_modRail_ne s h _
  split
  · exact hu
  · exact hu

theorem railOf_railStep_self {b s : State} {r : Nat} (hw : railWanted s r ≠ railWanted b r) (hs : (railOf s r).setpoint ≠ railWanted s r) :
    (railOf (railStep b s r) r).settle = some (railWanted s r, s.now + 2000000) := by
  rw [railStep, if_neg hw, railStart, if_neg (by simp [hs])]
  extract_lets u
  have hu : (railOf u r).settle = some (railWanted s r, s.now + 2000000) := congrArg Rail.settle (railOf_modRail_self ..)
  split
  · exact hu
  · exact hu

theorem railSteps_ne (b : State) {k : Nat} (l : List Nat) (s : State) (h : k ∉ l) : railOf (l.foldl (railStep b) s) k = railOf s k := by
  induction l generalizing s with
  | nil => rfl
  | cons r l ih =>
    rw [List.mem_cons, not_or] at h
    rw [List.foldl_cons, ih _ h.2, railOf_railStep_ne b s h.1]

theorem railSteps_settle {b : State} {k mv : Nat} (hb : mv ≠ railWanted b k) (l : List Nat) (hn : l.Nodup) (hk : k ∈ l) (s : State)
    (hw : railWanted s k = mv) (hs : (railOf s k).setpoint ≠ mv) : (railOf (l.foldl (railStep b) s) k).settle = some (mv, s.now + 2000000) := by
  induction l generalizing s with
  | nil => cases hk
  | cons r l ih =>
    obtain ⟨hr, hl⟩ := List.nodup_cons.mp hn
    rw [List.foldl_cons]
    by_cases h : k = r
    · subst h
      rw [railSteps_ne b l _ hr, railOf_railStep_self (by rw [hw]; exact hb) (by rw [hw]; exact hs), hw]
    · rw [ih hl ((List.mem_cons.mp hk).resolve_left h) _ (by rw [railWanted_railStep, hw]) (by rw [railOf_railStep_ne b s h]; exact hs),
        railStep_only b s r .now rfl]

theorem railsFollow_settle {b s : State} {k mv : Nat} (hk : k < 17) (hup : pmbusUp s = true) (hb : mv ≠ railWanted b k) (hw : railWanted s k = mv)
    (hs : (railOf s k).setpoint ≠ mv) : (railOf (railsFollow b s) k).settle = some (mv, s.now + 2000000) := by
  rw [railsFollow, hup]
  exact railSteps_settle hb _ List.nodup_range (List.mem_range.mpr hk) s hw hs

/-- The entry that holds a rail's setpoint. -/
theorem odFind_of_lookup {idx sub : Nat} {e : OdEntry} (h : odLookup idx sub = .inr e) (hsub : sub ≠ 0) (hidx : idx ≠ 0x259F) : odFind idx sub = some e := by
  unfold odLookup at h
  split at h
  · next x hx =>
    rw [if_neg (by simp [hidx])] at h
    rw [hx, Sum.inr.inj h]
  · rw [if_neg (by simp [hsub])] at h
    cases h

theorem odLookup_rail (k : RailId) (h : k.val < 17) : ∃ e, odLookup 0x9050 (k.val + 1) = .inr e ∧ e.acc = .rw ∧
    e.kind = .nat ∧ e.range = none := by
  have hall : ∀ j : Fin 17, entryIs (fun e => decide (e.acc = .rw) && decide (e.kind = .nat) && e.range.isNone) (odLookup 0x9050 (j.val + 1)) = true := by
    decide +kernel
  obtain ⟨e, he, hp⟩ := entryIs_iff.mp (hall ⟨k.val, h⟩)
  rw [Bool.and_eq_true, Bool.and_eq_true, decide_eq_true_eq, decide_eq_true_eq, Option.isNone_iff_eq_none] at hp
  exact ⟨e, he, hp.1.1, hp.1.2, hp.2⟩

/-- A value that no tint masks is in force as it is held. -/
theorem setting_held {s : State} {idx sub : Nat} {e : OdEntry} {v : Bytes} (he : odFind idx sub = some e) (hacc : e.acc ≠ .rwe)
    (hmask : overlayValue s.cfg s.tint (odKey idx sub) = none) (hv : tget s.dict.rw (odKey idx sub) = some v) : setting s idx sub = leNat v := by
  have hg : groundValue s idx sub = v := by
    rw [groundValue, he]
    refine (if_neg hacc).trans ?_
    rw [tgetD, hv]
    rfl
  rw [setting, valueInForce, hmask]
  exact congrArg leNat hg

theorem alsoDoes_rail (s : State) (sub : Nat) (v : Bytes) : alsoDoes s 0x9050 sub v = s := by
  simp [alsoDoes, inRange]

theorem groundWritten_rail (s : State) (e : OdEntry) (sub : Nat) (v : Bytes) :
    groundWritten s e 0x9050 sub v = deviceNote s (railsFollow s (groundStored s e 0x9050 sub v)) := by
  simp only [groundWritten, alsoDoes_rail, ite_self]
  rfl

theorem valueWrite_rail {s : State} {k : RailId} (hk : k.val < 17) {mv : BitVec 16} (hlo : (if k.val = 16 then 750 else 650) ≤ mv.toNat)
    (hhi : mv.toNat ≤ 900) (h5 : mv.toNat % 5 = 0) (c : Caller) : ∃ e, odLookup 0x9050 (k.val + 1) = .inr e ∧
      writeValue s c 0x9050 (k.val + 1) (u16 mv.toNat) 0 = .ok (if (overlayValue s.cfg s.tint (odKey 0x9050 (k.val + 1))).isSome then 2 else 0) 0
        (deviceNote s (railsFollow s (groundStored s e 0x9050 (k.val + 1) (u16 mv.toNat)))) := by
  obtain ⟨e, hlook, hacc, hkind, hrange⟩ := odLookup_rail k hk
  have hown : ownRules s 0x9050 (k.val + 1) (u16 mv.toNat) = none := by
    simp [ownRules, inRange, leNat_u16, hlo, hhi, h5, need]
  have hstored : storedCheck s e 0x9050 (k.val + 1) (u16 mv.toNat) = none := by
    rw [storedCheck, if_neg (by decide), valueCheck, kindOk, hkind, hrange, hown]
    rfl
  have hstate : stateCheck s e 0x9050 (k.val + 1) = none := by
    rw [stateCheck, hacc]
    rfl
  refine ⟨e, hlook, ?_⟩
  rw [writeValue, hlook]
  refine (if_neg (by rw [hacc]; decide)).trans ?_
  rw [valueWrite_ground (by rw [hacc]; decide) hstored hstate, groundWritten_rail]

/-! ### Resets -/

theorem powReport_only (s : State) (d c k x : Nat) : OnlyParts [.integ, .obs] s (powReport s d c k x) :=
  onlyParts_of_keeps (powReport_keeps (Keeps.refl _ s) rfl rfl)

/-- What a reset of a die keeps of the roles, the floor and the dies lost. -/
def ResetKeeps (s t : State) : Prop := t.pow.lost = s.pow.lost ∧ t.sec.roles = s.sec.roles ∧ t.sec.floor = s.sec.floor

theorem ResetKeeps.trans {s t u : State} (h1 : ResetKeeps s t) (h2 : ResetKeeps t u) : ResetKeeps s u := by
  obtain ⟨a, b, c⟩ := h1
  obtain ⟨x, y, z⟩ := h2
  exact ⟨x.trans a, y.trans b, z.trans c⟩

theorem ResetKeeps.of_parts {s t : State} (hpow : t.pow = s.pow) (hsec : t.sec = s.sec) : ResetKeeps s t := by
  rw [ResetKeeps, hpow, hsec]
  exact ⟨rfl, rfl, rfl⟩

theorem resetKeeps_selfTest (s : State) (k : Nat) (f : Bool) : ResetKeeps s (selfTest s k f) := by
  unfold selfTest
  extract_lets u
  split
  · exact ResetKeeps.trans (t := u) ⟨rfl, rfl, rfl⟩ (.of_parts (secReport_pow ..) (secReport_sec ..))
  · exact ⟨rfl, rfl, rfl⟩

theorem resetKeeps_burnLate (s : State) (k : Nat) : ResetKeeps s (burnLate s k) := by
  unfold burnLate clearMark
  split
  · split
    · exact ⟨rfl, rfl, rfl⟩
    · exact ⟨rfl, rfl, rfl⟩
  · exact ⟨rfl, rfl, rfl⟩

theorem resetKeeps_boot (s : State) (k : Nat) : ResetKeeps s (bootReports (bootDie s k) k (bootSlots s k)) :=
  ResetKeeps.trans (t := bootDie s k) ⟨rfl, rfl, rfl⟩ (.of_parts (bootReports_pow ..) ((bootReports_keeps (Keeps.refl (allBut .sec) _) rfl rfl).rest))

theorem resetKeeps_ledger (s : State) (k : Nat) : ResetKeeps s (ledgerMedia (ledgerPor (burnLate s k) k false) k) :=
  (resetKeeps_burnLate s k).trans (.of_parts ((ledgerMedia_keeps (ledgerPor_keeps (Keeps.refl (allBut .pow) _) rfl rfl rfl) rfl rfl rfl).rest)
    ((ledgerMedia_keeps (ledgerPor_keeps (Keeps.refl (allBut .sec) _) rfl rfl rfl) rfl rfl rfl).rest))

/-- A die that is not a deckle: its links fenced, its tiles reset, its firmware gone (R622). -/
def vatDieReset (s : State) (d : Nat) : State :=
  let edges := (tilesOf d).flatMap (fun n => ([1, 2, 3, 4].filter (isDieLink n)).map (fun p => ((neighbour n p).getD 0, opposite p)))
  let s := edges.foldl (fun s e => fenceLink s e.1 e.2) s
  let s := resetTiles s d
  let s := powReport s s.mgmtDie 0xAB 1 d
  modPow s fun w => { w with fw := tdel w.fw d }

theorem vatDieReset_only (s : State) (d : Nat) : OnlyParts [.ep, .fab, .integ, .mem, .obs, .part, .port, .pow, .time, .vs] s (vatDieReset s d) := by
  unfold vatDieReset
  extract_lets edges s1 s2 s3
  have h1 : OnlyParts [.ep, .fab, .integ, .mem, .obs, .part, .port, .pow, .time, .vs] s s1 := onlyParts_of_keeps
    (keeps_foldl (fun _ _ hu => fenceLink_keeps hu rfl rfl rfl rfl rfl rfl rfl rfl) _ (Keeps.refl _ s))
  have h2 : OnlyParts [.fab, .integ, .obs, .part, .time, .vs] s1 s2 := onlyParts_of_keeps (resetTiles_keeps (Keeps.refl _ s1) rfl rfl rfl rfl rfl rfl)
  have h4 : OnlyParts [.pow] s3 (modPow s3 fun w => { w with fw := tdel w.fw d }) := onlyParts_of_keeps (modPow_keeps (Keeps.refl _ s3) rfl)
  exact ((h1.andThen h2 (fun _ h => h) (by decide)).andThen (powReport_only s2 _ _ _ _) (fun _ h => h) (by decide)).andThen h4 (fun _ h => h) (by decide)

theorem vatDieReset_fw (s : State) (d : Nat) : tget (vatDieReset s d).pow.fw d = none := tget_tdel_self ..

theorem dieResetGo_vat {s : State} {d : Nat} (h : d < 16) (f : Bool) : dieResetGo s d f = vatDieReset s d := if_pos h

/-- A deckle's reset returns the die to service; roles and floor stay (R583, R590, R622). -/
theorem dieResetGo_deckle {s : State} {d : Nat} (h : ¬d < 16) (f : Bool) : (dieResetGo s d f).pow.lost.contains d = false ∧
    (dieResetGo s d f).sec.roles = s.sec.roles ∧ (dieResetGo s d f).sec.floor = s.sec.floor := by
  unfold dieResetGo
  extract_lets edges u1 u2 u3 u k s1 s2 s3 s4 s5 s6
  have hvat : u.sec = s.sec := vatDieReset_only s d .sec rfl
  rw [if_neg h]
  have h3 : ResetKeeps s1 s3 := ResetKeeps.trans (t := modPort s2 fun p => { p with adm := tdel p.adm k }) ⟨rfl, rfl, rfl⟩
    (.of_parts ((resetPort_keeps (Keeps.refl (allBut .pow) _) rfl rfl rfl rfl rfl).rest) ((resetPort_keeps (Keeps.refl (allBut .sec) _) rfl rfl rfl rfl rfl).rest))
  have h4 : ResetKeeps s3 s4 := by
    unfold s4
    split
    · exact ⟨rfl, rfl, rfl⟩
    split
    · exact ⟨rfl, rfl, rfl⟩
    · exact ⟨rfl, rfl, rfl⟩
  have h6 : ResetKeeps s5 s6 := by
    unfold s6
    split
    · exact resetKeeps_boot ..
    · exact ⟨rfl, rfl, rfl⟩
  obtain ⟨hl, hr, hf⟩ := (((h3.trans h4).trans (resetKeeps_selfTest s4 k f)).trans h6).trans (resetKeeps_ledger s6 k)
  have hs1 : s1.sec = s.sec := (modPow_sec ..).trans hvat
  have hl1 : s1.pow.lost = u.pow.lost.filter (· != d) := congrArg PowState.lost (modPow_pow ..)
  refine ⟨?_, ?_, ?_⟩
  · rw [hl, hl1]
    simp
  · rw [hr, hs1]
  · rw [hf, hs1]

/-! ### Firmware images -/

theorem norWrite_pow (s : State) (slotB : Bool) (m : Nor → NorImage) (fail : Nat) : (norWrite s slotB m fail).pow =
    { s.pow with nors := s.pow.nors.map (fun e =>
        let x := slotWritten (m e.2) (bitAt fail e.1)
        (e.1, if slotB then { e.2 with slotB := x } else { e.2 with slotA := x })) } := by
  have hfold (l : List Nat) (u : State) (g : State → Nat → Nat) (x : Nat → Nat) : (l.foldl (fun s n => powReport s (g s n) 0xAD 2 (x n)) u).pow = u.pow :=
    foldl_same State.pow (fun u n => powReport_pow ..) _ _
  exact hfold _ _ (fun s _ => s.mgmtDie) _

theorem norWrite_only (s : State) (slotB : Bool) (m : Nor → NorImage) (fail : Nat) : OnlyParts [.integ, .obs, .pow] s (norWrite s slotB m fail) :=
  onlyParts_of_keeps (norWrite_keeps (Keeps.refl _ s) rfl rfl rfl)

theorem fwUpdate_refused {s : State} {m : Bytes} (h : imageReason s.sec.floor m ≠ 0) (fail : Nat) : ∃ u, fwUpdate s m fail = .refused aValueOutOfRange u ∧
    OnlyParts [.integ, .obs] s u := by
  unfold fwUpdate
  extract_lets why u
  refine ⟨u, if_pos h, ?_⟩
  unfold u
  split
  · exact secReport_only _ _ _ _ _
  split
  · exact secReport_only _ _ _ _ _
  · exact fun p _ => by cases p <;> rfl

theorem bitAt_zero (n : Nat) : bitAt 0 n = false := by simp [bitAt]

theorem dieResetGo_sec (s : State) (d : Nat) (f : Bool) : (dieResetGo s d f).sec.roles = s.sec.roles ∧ (dieResetGo s d f).sec.floor = s.sec.floor := by
  by_cases h : d < 16
  · rw [dieResetGo_vat h, vatDieReset_only s d .sec rfl]
    exact ⟨rfl, rfl⟩
  · exact (dieResetGo_deckle h f).2

/-- A warm reset has been accepted: it waits for the admitted requests (R621). -/
def warmStarted (s : State) (fails : Nat) : State := modPow (powReport s s.mgmtDie 0xAA 1 0) fun w => { w with warm := 1, warmTest := fails }

theorem warmStart_starts {s : State} (h0 : s.pow.warm = 0) (hp : s.pow.pwrfail = false) (fails : Nat) : warmStart s fails = started (warmStarted s fails) := by
  rw [warmStart]
  exact if_neg (by simp [h0, hp])

theorem warmStarted_only (s : State) (fails : Nat) : OnlyParts [.integ, .obs, .pow] s (warmStarted s fails) :=
  onlyParts_of_keeps (modPow_keeps (powReport_keeps (Keeps.refl _ s) rfl rfl) rfl)

theorem warmStarted_reported (s : State) (fails : Nat) : Reported s (warmStarted s fails) 0xAA 1 :=
  (report_reported s { cause := 0xAA, cls := 1, unit := 0x17, source := serviceTile s.mgmtDie, detail := 0 }).congr rfl rfl

theorem groundStored_pow (s : State) (e : OdEntry) (idx sub : Nat) (v : Bytes) : ∃ x, (groundStored s e idx sub v).pow = { s.pow with storeDue := x } := by
  rw [groundStored]
  split
  · exact ⟨_, rfl⟩
  · exact ⟨_, rfl⟩

theorem railSetpoint_completes {s : State} {r : Req} {c : Caller} (h : Speaks s r c) {k : RailId} {mv : BitVec 16} (hk : k.val < 17)
    (hp : Permitted s c 0x9050 (k.val + 1) 2) (hlo : (if k.val = 16 then 750 else 650) ≤ mv.toNat) (hhi : mv.toNat ≤ 900) (h5 : mv.toNat % 5 = 0) :
    ∃ (t : State) (effect : Nat), exec (.railSetpoint r k mv) s = .next t ∧ Written t r 0x9050 (k.val + 1) effect 0 ∧
      tget t.dict.rw (odKey 0x9050 (k.val + 1)) = some (u16 mv.toNat) ∧ t.mem = s.mem ∧ t.integ = s.integ ∧
      (effect = 0 → pmbusUp s = true → railWanted s k.val ≠ mv.toNat → (railOf s k.val).setpoint ≠ mv.toNat →
        (railOf t k.val).settle = some (mv.toNat, s.now + 2000000)) := by
  obtain ⟨e, hlook, hacc, -⟩ := odLookup_rail k hk
  have hval : ∀ d, HeardAs s c d → writeValue { s with dict := d } c 0x9050 (k.val + 1) (u16 mv.toNat) 0 =
      .ok (if (overlayValue s.cfg s.tint (odKey 0x9050 (k.val + 1))).isSome then 2 else 0) 0
        (deviceNote { s with dict := d } (railsFollow { s with dict := d } (groundStored { s with dict := d } e 0x9050 (k.val + 1) (u16 mv.toNat)))) := by
    intro d _
    obtain ⟨e', hlook', he'⟩ := valueWrite_rail (s := { s with dict := d }) hk hlo hhi h5 c
    rwa [Sum.inr.inj (hlook.symm.trans hlook')]
  obtain ⟨d, m, hd, he, hw⟩ := write_ok (hw := 0) h (v := u16 mv.toNat) hp (by decide) (by omega) (n := fun _ => 0) hval
  have hn := deviceNote_only { s with dict := d } (railsFollow { s with dict := d } (groundStored { s with dict := d } e 0x9050 (k.val + 1) (u16 mv.toNat)))
  have hr := railsFollow_only { s with dict := d } (groundStored { s with dict := d } e 0x9050 (k.val + 1) (u16 mv.toNat))
  have hg := groundStored_only { s with dict := d } e 0x9050 (k.val + 1) (u16 mv.toNat)
  refine ⟨_, _, congrArg Host.Outcome.next he, hw, ?_, ?_, ?_, fun heff hup hwant hset => ?_⟩
  · rw [reply_rw, hn .dict rfl, hr .dict rfl, groundStored_rw]
    exact tget_tput_self ..
  · rw [reply_mem, hn .mem rfl, hr .mem rfl]
    exact hg .mem rfl
  · rw [reply_integ, hn .integ rfl, hr .integ rfl]
    exact hg .integ rfl
  · have hmask : overlayValue s.cfg s.tint (odKey 0x9050 (k.val + 1)) = none := by
      cases ho : overlayValue s.cfg s.tint (odKey 0x9050 (k.val + 1)) with
      | none => rfl
      | some x =>
        rw [ho] at heff
        cases heff
    have hep : (groundStored { s with dict := d } e 0x9050 (k.val + 1) (u16 mv.toNat)).ep = s.ep := hg .ep rfl
    have hwanted : railWanted (groundStored { s with dict := d } e 0x9050 (k.val + 1) (u16 mv.toNat)) k.val = mv.toNat := by
      refine (setting_held (odFind_of_lookup hlook (by omega) (by decide)) (by rw [hacc]; decide) ?_ ?_).trans (leNat_u16 mv)
      · rw [State.tint, State.cfg, hep]
        exact hmask
      · rw [groundStored_rw]
        exact tget_tput_self ..
    have hbefore : mv.toNat ≠ railWanted { s with dict := d } k.val := by
      rw [railWanted, setting_dict s d hd.rw_]
      exact hwant.symm
    obtain ⟨x, hpow⟩ := groundStored_pow { s with dict := d } e 0x9050 (k.val + 1) (u16 mv.toNat)
    have hup' : pmbusUp (groundStored { s with dict := d } e 0x9050 (k.val + 1) (u16 mv.toNat)) = true := by
      rw [pmbusUp, dieUp, State.cfg, hep, hpow, hg .time rfl]
      exact hup
    have hset' : (railOf (groundStored { s with dict := d } e 0x9050 (k.val + 1) (u16 mv.toNat)) k.val).setpoint ≠ mv.toNat := by
      rw [railOf, hpow]
      exact hset
    have hrail := railsFollow_settle hk hup' hbefore hwanted hset'
    obtain ⟨a, hnp⟩ := deviceNote_pow { s with dict := d } (railsFollow { s with dict := d } (groundStored { s with dict := d } e 0x9050 (k.val + 1) (u16 mv.toNat)))
    rw [railOf, reply_pow, hnp]
    refine hrail.trans ?_
    rw [hg .now rfl]

theorem dieReset_completes {s : State} {r : Req} {c : Caller} (h : Speaks s r c) {d : BitVec 8} {f : Bool} (hp : Permitted s c 0x9071 0 1)
    (hab : dieResetAbort s c.role d.toNat = none) : ∃ t, exec (.dieReset r d f) s = .next t ∧
      Written t r 0x9071 0 0 0 ∧ (d.toNat < 16 → tget t.pow.fw d.toNat = none ∧ t.led = s.led) ∧
      (16 ≤ d.toNat → t.pow.lost.contains d.toNat = false) ∧ t.sec.roles = s.sec.roles ∧ t.sec.floor = s.sec.floor := by
  obtain ⟨dd, m, hd, he, hw⟩ := command_ok (hw := bitOf f) h (v := u8 d.toNat) hp rfl (by decide) (by decide) (k := fun _ => 0) (n := fun _ => 0)
    (w := fun dd => deviceNote { s with dict := dd } (dieResetGo { s with dict := dd } d.toNat (bitOf f != 0))) fun dd _ => by
      show refuseIf (dieResetAbort { s with dict := dd } c.role (leNat (u8 d.toNat))) _
        (applied (withDevice (fun s => dieResetGo s (leNat (u8 d.toNat)) (bitOf f != 0)) _)) = _
      rw [leNat_u8, show dieResetAbort { s with dict := dd } c.role d.toNat = none from hab]
      rfl
  have hn := deviceNote_only { s with dict := dd } (dieResetGo { s with dict := dd } d.toNat (bitOf f != 0))
  obtain ⟨a, hnp⟩ := deviceNote_pow { s with dict := dd } (dieResetGo { s with dict := dd } d.toNat (bitOf f != 0))
  refine ⟨_, congrArg Host.Outcome.next he, hw, fun hlt => ⟨?_, ?_⟩, fun hge => ?_, ?_, ?_⟩
  · rw [reply_pow, hnp, dieResetGo_vat hlt]
    exact vatDieReset_fw { s with dict := dd } d.toNat
  · rw [reply_led, hn .led rfl, dieResetGo_vat hlt]
    exact vatDieReset_only _ _ .led rfl
  · rw [reply_pow, hnp]
    exact (dieResetGo_deckle (Nat.not_lt.mpr hge) _).1
  · rw [reply_sec, hn .sec rfl]
    exact (dieResetGo_sec ..).1
  · rw [reply_sec, hn .sec rfl]
    exact (dieResetGo_sec ..).2

/-- Settles O29: a setpoint through its entry, the resets and the images by their effects. -/
theorem resetAndFirmwareWritesComplete : Obligations.ResetAndFirmwareWritesComplete := by
  intro s r c h
  refine ⟨fun k mv hk hp hlo hhi h5 => ?_, fun f hp h0 hpf => ?_, fun d f hp hab => ?_, fun v hp hab => ?_, fun image f hp => ?_, fun f hp hb => ?_⟩
  · exact railSetpoint_completes h hk hp hlo hhi h5
  · obtain ⟨d, m, hd, he, hw⟩ := command_ok (hw := f.toNat) h (v := u8 1) hp rfl (by decide) (by decide) (k := fun _ => 3) (n := fun _ => 0)
      (w := fun d => warmStarted { s with dict := d } f.toNat) fun d _ => warmStart_starts (s := { s with dict := d }) h0 hpf f.toNat
    refine ⟨_, congrArg Host.Outcome.next he, ?_, ?_, hw, replied_only (warmStarted_only _ _) (by decide) (by decide) _ _ _⟩
    · rw [reply_pow]
      rfl
    · exact (warmStarted_reported { s with dict := d } f.toNat).congr rfl (reply_integ ..)
  · exact dieReset_completes h hp hab
  · obtain ⟨d, m, hd, he, hw⟩ := command_ok (hw := 0) h (v := u16 v.toNat) hp rfl (by decide) (by decide) (k := fun _ => 0) (n := fun _ => 0)
      (w := fun d => islandResetGo { s with dict := d } v.toNat) fun d _ => by
        show refuseIf (islandResetAbort { s with dict := d } c.role (leNat (u16 v.toNat))) _ (applied (islandResetGo _ (leNat (u16 v.toNat)))) = _
        rw [leNat_u16, show islandResetAbort { s with dict := d } c.role v.toNat = none from hab]
        rfl
    exact ⟨_, congrArg Host.Outcome.next he, hw, replied_only (l := [.dict, .ep, .fab, .integ, .led, .mem, .obs, .out, .port, .pow, .time, .vs])
      (onlyParts_of_keeps (islandResetGo_keeps (Keeps.refl _ _) rfl rfl rfl rfl rfl rfl rfl rfl rfl rfl rfl rfl)) (by decide) (by decide) _ _ _⟩
  · by_cases hr : imageReason s.sec.floor image = 0
    · obtain ⟨d, m, hd, he, hw⟩ := command_ok (hw := f.toNat) h hp rfl (by decide) (by decide) (k := fun _ => 3) (n := fun _ => 0)
        (w := fun d => norWrite { s with dict := d } false (fun _ => imageOf image) f.toNat) fun d _ => if_neg (Decidable.not_not.mpr hr)
      refine ⟨_, congrArg Host.Outcome.next he, ?_, fun _ => ⟨hw, fun hf n x hx => ?_, replied_only (norWrite_only _ _ _ _) (by decide) (by decide) _ _ _⟩,
        fun hne => absurd hr hne⟩
      · rw [reply_pow, norWrite_pow]
      · rw [reply_pow, norWrite_pow] at hx
        obtain ⟨e, -, hex⟩ := List.mem_map.mp hx
        obtain ⟨-, rfl⟩ := Prod.mk.inj hex
        rw [hf]
        exact congrArg (slotWritten (imageOf image)) (bitAt_zero _)
    · obtain ⟨u, hu, -⟩ := fwUpdate_refused hr f.toNat
      have hall : ∀ d, ∃ u, fwUpdate { s with dict := d } image f.toNat = .refused aValueOutOfRange u ∧ OnlyParts [.integ, .obs] { s with dict := d } u :=
        fun d => fwUpdate_refused (s := { s with dict := d }) hr f.toNat
      let w (d : DictState) : State := (hall d).choose
      have hw (d : DictState) := (hall d).choose_spec.1
      have honly (d : DictState) : OnlyParts [.integ, .obs] { s with dict := d } (w d) := (hall d).choose_spec.2
      obtain ⟨d, m, hd, he, ha⟩ := command_aborted (hw := f.toNat) h hp rfl (by decide) (by decide) (w := w) fun d _ => hw d
      refine ⟨_, congrArg Host.Outcome.next he, ?_, fun h0 => absurd h0 hr, fun _ => ⟨ha, ?_, replied_only (honly d) (by decide) (by decide) _ _ _⟩⟩
      · rw [reply_pow, honly d .pow rfl]
      · rw [reply_pow, honly d .pow rfl]
  · obtain ⟨d, m, hd, he, hw⟩ := command_ok (hw := f.toNat) h (v := u8 1) hp rfl (by decide) (by decide) (k := fun _ => 3) (n := fun _ => 0)
      (w := fun d => norWrite { s with dict := d } true (fun _ => (tgetD s.pow.nors (mgmtDeckle s / 2) {}).slotA) f.toNat) fun d _ =>
        (if_neg (Decidable.not_not.mpr hb) : fwCommitB { s with dict := d } f.toNat = _)
    refine ⟨_, congrArg Host.Outcome.next he, hw, fun hf n x hx => ?_, replied_only (norWrite_only _ _ _ _) (by decide) (by decide) _ _ _⟩
    rw [reply_pow, norWrite_pow] at hx
    obtain ⟨e, -, hex⟩ := List.mem_map.mp hx
    obtain ⟨-, rfl⟩ := Prod.mk.inj hex
    rw [hf]
    exact congrArg (slotWritten _) (bitAt_zero _)

end Sys2Proof.Machine

/-!
PROOFS. Partner ports (R319, R393 to R421, R426): queue registers and the staging window, descriptors and payloads, results, completions, resets.
-/
namespace Sys2Proof.Machine

set_option Elab.async false

/-! ### Queues -/

section
variable (s : State) (n q : Nat)

@[simp] theorem sqOf_modSq_self (f : Sq → Sq) : sqOf (modSq s n q f) n q = f (sqOf s n q) := by
  rw [sqOf, modSq, portOf_modPortOf_self]
  exact tgetD_tmod_self ..

theorem sqOf_modSq_ne {k : Nat} (h : k ≠ q) (f : Sq → Sq) : sqOf (modSq s n q f) n k = sqOf s n k := by
  rw [sqOf, modSq, portOf_modPortOf_self]
  exact tgetD_tmod_ne _ _ _ _ h

@[simp] theorem cqOf_modCq_self (f : Cq → Cq) : cqOf (modCq s n q f) n q = f (cqOf s n q) := by
  rw [cqOf, modCq, portOf_modPortOf_self]
  exact tgetD_tmod_self ..

theorem cqOf_modCq_ne {k : Nat} (h : k ≠ q) (f : Cq → Cq) : cqOf (modCq s n q f) n k = cqOf s n k := by
  rw [cqOf, modCq, portOf_modPortOf_self]
  exact tgetD_tmod_ne _ _ _ _ h

/-- An interrupt counts as sent or pending and leaves the rest of its port (R418). -/
theorem msixSend_portOf (v : Nat) : ∃ st pb, portOf (msixSend s n v) n = { portOf s n with stats := st, pba := pb } := by
  unfold msixSend
  extract_lets x e
  split
  · exact ⟨_, _, rfl⟩
  split
  · exact ⟨(portOf s n).stats, _, portOf_modPortOf_self ..⟩
  split
  · exact ⟨_, _, portOf_modPortOf_self ..⟩
  · exact ⟨_, _, rfl⟩

/-- An event sets its bit and may send its interrupt. -/
theorem portEvent_portOf (b : Nat) : ∃ ev st pb, portOf (portEvent s n b) n = { portOf s n with event := ev, stats := st, pba := pb } := by
  unfold portEvent
  extract_lets x u
  have hu : portOf u n = { portOf s n with event := (portOf s n).event + 2 ^ b } := portOf_modPortOf_self ..
  split
  · exact ⟨_, _, _, rfl⟩
  split
  · obtain ⟨st, pb, h⟩ := msixSend_portOf u n x.evtVec
    exact ⟨_, st, pb, h.trans (by rw [hu])⟩
  · exact ⟨_, _, _, hu⟩

theorem portEvent_queues (b : Nat) : (portOf (portEvent s n b) n).sqs = (portOf s n).sqs ∧ (portOf (portEvent s n b) n).cqs = (portOf s n).cqs := by
  obtain ⟨_, _, _, h⟩ := portEvent_portOf s n b
  rw [h]
  exact ⟨rfl, rfl⟩

theorem sqOf_portEvent (b k : Nat) : sqOf (portEvent s n b) n k = sqOf s n k := by rw [sqOf, (portEvent_queues s n b).1, sqOf]

theorem cqOf_portEvent (b k : Nat) : cqOf (portEvent s n b) n k = cqOf s n k := by rw [cqOf, (portEvent_queues s n b).2, cqOf]

theorem sqOf_sqError (c : Nat) : sqOf (sqError s n q c) n q = { sqOf s n q with err := true, errCode := c } := by
  rw [sqError, sqOf_portEvent, sqOf_modSq_self]

theorem cqOf_cqError : cqOf (cqError s n q) n q = { cqOf s n q with err := true } := by rw [cqError, cqOf_portEvent, cqOf_modCq_self]

theorem portOf_report (r : Report) : portOf (report s r) n = portOf s n := portOf_of_ports (congrArg PortState.ports (report_port ..)) n

theorem sqOf_badDoorbell (k : Nat) (cq : Bool) : sqOf (badDoorbell s n q cq) n k = sqOf s n k := by
  rw [sqOf, badDoorbell, portOf_report, portStat, portOf_modPortOf_self]
  rfl

theorem cqOf_badDoorbell (k : Nat) (cq : Bool) : cqOf (badDoorbell s n q cq) n k = cqOf s n k := by
  rw [cqOf, badDoorbell, portOf_report, portStat, portOf_modPortOf_self]
  rfl

theorem badDoorbell_reported (cq : Bool) : Reported s (badDoorbell s n q cq) 0x71 1 :=
  (report_reported (portStat s n 4 1) { cause := 0x71, cls := 1, unit := 0x11, source := portFrontTile n, detail := q + (if cq then 16 else 0) }).congr rfl rfl

theorem modSq_only (f : Sq → Sq) : OnlyParts [.port] s (modSq s n q f) := onlyParts_of_keeps (modSq_keeps (Keeps.refl _ s) rfl)

theorem modCq_only (f : Cq → Cq) : OnlyParts [.port] s (modCq s n q f) := onlyParts_of_keeps (modCq_keeps (Keeps.refl _ s) rfl)

/-! ### Requests that are refused -/

theorem portOf_modAdm (f : Admission → Admission) (m : Nat) : portOf (modAdm s n f) m = portOf s m := rfl

theorem portOf_refuseReq (num st d : Nat) : ∃ x, portOf (refuseReq s n num st d) n =
    { portOf s n with stats := x, reqs := (portOf s n).reqs.map fun r => if r.num = num then { r with stage := .completing, out := { status := st, detail := d } } else r } := by
  unfold refuseReq finishReq modReq portStat
  rw [portOf_modPortOf_self, portOf_modPortOf_self]
  exact ⟨_, rfl⟩

theorem reqOf_refuseReq (num st d m : Nat) : reqOf (refuseReq s n num st d) n m =
    (reqOf s n m).map fun r => if r.num = num then { r with stage := .completing, out := { status := st, detail := d } } else r := by
  rw [refuseReq, reqOf_finishReq, reqOf, portStat, portOf_modPortOf_self]
  rfl

theorem sqOf_refuseReq (num st d k : Nat) : sqOf (refuseReq s n num st d) n k = sqOf s n k := by
  obtain ⟨x, h⟩ := portOf_refuseReq s n num st d
  rw [sqOf, h, sqOf]

end

theorem reqOf_isSome_of_mem {s : State} {n : Nat} {r : Request} (h : r ∈ (portOf s n).reqs) : (reqOf s n r.num).isSome = true :=
  List.find?_isSome.mpr ⟨r, h, by simp⟩

theorem answered_refuseReq {s : State} {n num : Nat} (h : (reqOf s n num).isSome = true) (st d : Nat) : Answered (refuseReq s n num st d) n num st := by
  obtain ⟨r, hr⟩ := Option.isSome_iff_exists.mp h
  refine ⟨_, by rw [reqOf_refuseReq, hr, Option.map_some, if_pos (num_of_reqOf hr)], rfl, rfl⟩

/-- A request that has been answered with a status still is after another is refused with it. -/
theorem Answered.refuseReq {s : State} {n m st : Nat} (h : Answered s n m st) (num d : Nat) : Answered (refuseReq s n num st d) n m st := by
  obtain ⟨r, hr, hst, hout⟩ := h
  by_cases hn : r.num = num
  · exact ⟨_, by rw [reqOf_refuseReq, hr, Option.map_some, if_pos hn], rfl, rfl⟩
  · exact ⟨r, by rw [reqOf_refuseReq, hr, Option.map_some, if_neg hn], hst, hout⟩

/-- Every request of a list is refused with the same status. -/
theorem answered_foldl_refuse {n st d : Nat} (l : List Request) (s : State) {m : Nat}
    (h : Answered s n m st ∨ ((reqOf s n m).isSome = true ∧ ∃ r ∈ l, r.num = m)) :
    Answered (l.foldl (fun s r => refuseReq s n r.num st d) s) n m st := by
  induction l generalizing s with
  | nil => exact h.resolve_right (by simp)
  | cons x l ih =>
    refine ih _ ?_
    rcases h with h | ⟨hs, r, hr, rfl⟩
    · exact .inl (h.refuseReq ..)
    · rcases List.mem_cons.mp hr with rfl | hr
      · exact .inl (answered_refuseReq hs ..)
      · exact .inr ⟨by rw [reqOf_refuseReq, Option.isSome_map]; exact hs, r, hr, rfl⟩

theorem sqOf_foldl_refuse {n st d : Nat} (l : List Request) (s : State) (k : Nat) : sqOf (l.foldl (fun s r => refuseReq s n r.num st d) s) n k = sqOf s n k :=
  foldl_same (fun t => sqOf t n k) (fun t (r : Request) => sqOf_refuseReq t n r.num st d k) l s

/-- Settles O30: each register by the branch its conditions take. -/
theorem portQueueCommandsComplete : Obligations.PortQueueCommandsComplete := by
  intro s p q hup
  refine ⟨fun v hen hv => ?_, fun v hbad => ?_, fun v hv => ?_, fun v hv => ?_, fun hen hact hq => ?_, fun hen hact hq => ?_, ?_, fun hen => ?_, fun hno => ?_,
    fun off data hlen hwf => ?_⟩
  · have h : sqDoorbell s p.val q.val v.toNat = modSq s p.val q.val fun x => { x with tail := v.toNat } := by
      rw [sqDoorbell]
      exact if_neg (by simp [hen, hv])
    refine ⟨_, congrArg Host.Outcome.next ((if_pos hup).trans h), sqOf_modSq_self .., fun k hk => sqOf_modSq_ne _ _ _ hk _, modSq_only _ _ _ _⟩
  · have h : sqDoorbell s p.val q.val v.toNat = sqError (badDoorbell s p.val q.val false) p.val q.val 1 := by
      rw [sqDoorbell]
      refine if_pos ?_
      rcases hbad with h | h <;> simp [h]
    refine ⟨_, congrArg Host.Outcome.next ((if_pos hup).trans h), ?_, ?_, ?_, (badDoorbell_reported s p.val q.val false).congr rfl (portEvent_integ ..)⟩
    · rw [sqOf_sqError]
    · rw [sqOf_sqError]
    · rw [sqOf_sqError, sqOf_badDoorbell]
  · refine ⟨_, congrArg Host.Outcome.next ((if_pos hup).trans (if_neg (Nat.not_le.mpr hv))), cqOf_modCq_self .., fun k hk => cqOf_modCq_ne _ _ _ hk _,
      modCq_only _ _ _ _⟩
  · refine ⟨_, congrArg Host.Outcome.next ((if_pos hup).trans (if_pos hv)), ?_, ?_, (badDoorbell_reported s p.val q.val true).congr rfl (portEvent_integ ..)⟩
    · rw [cqOf_cqError]
    · rw [cqOf_cqError, cqOf_badDoorbell]
  · have h : sqEnable s p.val q.val = modSq s p.val q.val fun x => { x with en := true, head := 0, tail := 0 } := by
      rw [sqEnable, hen, hact, hq]
      rfl
    exact ⟨_, congrArg Host.Outcome.next ((if_pos hup).trans h), sqOf_modSq_self .., fun k hk => sqOf_modSq_ne _ _ _ hk _, modSq_only _ _ _ _⟩
  · have h : sqEnable s p.val q.val = sqError s p.val q.val 3 := by
      rw [sqEnable, hen, hact, hq]
      rfl
    refine ⟨_, congrArg Host.Outcome.next ((if_pos hup).trans h), ?_, ?_, ?_⟩
    · rw [sqOf_sqError]
      exact hen
    · rw [sqOf_sqError]
    · rw [sqOf_sqError]
  · have hsq : sqOf (sqDisable s p.val q.val) p.val q.val = { sqOf s p.val q.val with en := false } := by
      unfold sqDisable
      rw [sqOf_foldl_refuse, sqOf_modSq_self]
    have hreqs : (portOf (modSq s p.val q.val fun x => { x with en := false }) p.val).reqs = (portOf s p.val).reqs := by
      rw [modSq, portOf_modPortOf_self]
    refine ⟨_, congrArg Host.Outcome.next (if_pos hup), congrArg Sq.en hsq, (congrArg Sq.head hsq :), fun r hr hrq horph hst => ?_,
      onlyParts_of_keeps (sqDisable_keeps (Keeps.refl _ s) rfl)⟩
    refine answered_foldl_refuse _ _ (.inr ⟨reqOf_isSome_of_mem (hreqs ▸ hr), r, ?_, rfl⟩)
    rw [hreqs]
    refine List.mem_filter.mpr ⟨hr, ?_⟩
    rcases hst with h | h <;> simp [hrq, horph, h]
  · have h : cqEnable s p.val q.val = modCq s p.val q.val fun x => { x with en := true, tail := 0, phase := true, hostHead := 0, posted := 0 } := by
      rw [cqEnable, hen]
      rfl
    have hcq := cqOf_modCq_self s p.val q.val fun x => { x with en := true, tail := 0, phase := true, hostHead := 0, posted := 0 }
    exact ⟨_, congrArg Host.Outcome.next ((if_pos hup).trans h), congrArg Cq.en hcq, congrArg Cq.tail hcq, congrArg Cq.phase hcq, congrArg Cq.hostHead hcq,
      fun k hk => cqOf_modCq_ne _ _ _ hk _, modCq_only _ _ _ _⟩
  · have h : cqDisable s p.val q.val = modCq s p.val q.val fun x => { x with en := false } := by
      rw [cqDisable]
      refine if_neg ?_
      simp only [Bool.and_eq_true, List.any_eq_true, not_and, not_exists]
      intro _ e he hb
      have := List.all_eq_true.mp hno e he
      simp_all
    exact ⟨_, congrArg Host.Outcome.next ((if_pos hup).trans h), cqOf_modCq_self .., modCq_only _ _ _ _⟩
  · have hport : portOf (stagingWrite s p.val off.toNat data) p.val = { portOf s p.val with staging := memWrite (portOf s p.val).staging off.toNat data } := by
      rw [stagingWrite, portOf_modPortOf_self, List.take_of_length_le (by omega)]
    refine ⟨_, congrArg Host.Outcome.next (if_pos hup), ?_, fun a ha => ?_, (congrArg Port.sqs hport :), onlyParts_of_keeps (stagingWrite_keeps (Keeps.refl _ s) rfl)⟩
    · rw [hport]
      exact memRead_memWrite data _ _ hwf
    · rw [hport]
      exact memGet_memWrite_out a data _ _ ha

/-! ### Classification -/

/-- What classification keeps of a request: its number, and the payload that is staged and checked. -/
def Request.staged (r : Request) : Nat × Bool × Bytes × Nat := (r.num, r.ready, r.payload, r.crc)

/-- The port's requests of one number may have changed but for what is staged of them; the other requests, the submission queues and the number of the
next request have not. -/
def Reclassified (s t : State) (n num : Nat) : Prop :=
  (∃ g : Request → Request, (portOf t n).reqs = (portOf s n).reqs.map g ∧ (∀ x, (g x).staged = x.staged) ∧ ∀ x, x.num ≠ num → g x = x) ∧
    (portOf t n).sqs = (portOf s n).sqs ∧ (portOf t n).nextReq = (portOf s n).nextReq

theorem Reclassified.refl (s : State) (n num : Nat) : Reclassified s s n num :=
  ⟨⟨id, (List.map_id _).symm, fun _ => rfl, fun _ _ => rfl⟩, rfl, rfl⟩

theorem Reclassified.trans {s t u : State} {n num : Nat} (h : Reclassified s t n num) (h' : Reclassified t u n num) : Reclassified s u n num := by
  obtain ⟨⟨g, hg, hs, hn⟩, hq, hx⟩ := h
  obtain ⟨⟨g', hg', hs', hn'⟩, hq', hx'⟩ := h'
  refine ⟨⟨g' ∘ g, by rw [hg', hg, List.map_map], fun x => (hs' _).trans (hs x), fun x h => ?_⟩, hq'.trans hq, hx'.trans hx⟩
  rw [Function.comp_apply, hn x h, hn' x h]

theorem Reclassified.of_portOf {s t : State} {n : Nat} (h : portOf t n = portOf s n) (num : Nat) : Reclassified s t n num := by
  rw [Reclassified, h]
  exact Reclassified.refl s n num

theorem reclassified_modReq (s : State) (n num : Nat) {f : Request → Request} (hf : ∀ x, (f x).staged = x.staged) : Reclassified s (modReq s n num f) n num := by
  rw [Reclassified, modReq, portOf_modPortOf_self]
  refine ⟨⟨fun r => if r.num = num then f r else r, rfl, fun x => ?_, fun x h => if_neg h⟩, rfl, rfl⟩
  dsimp only
  split
  · exact hf x
  · rfl

theorem reclassified_refuseReq (s : State) (n num st d : Nat) : Reclassified s (refuseReq s n num st d) n num := by
  refine Reclassified.trans ?_ (reclassified_modReq _ n num (f := fun r => { r with stage := .completing, out := { status := st, detail := d } }) fun _ => rfl)
  rw [Reclassified, portStat, portOf_modPortOf_self]
  exact ⟨⟨id, (List.map_id _).symm, fun _ => rfl, fun _ _ => rfl⟩, rfl, rfl⟩

theorem reclassified_enterQueue (s : State) (n a : Nat) (r : Request) : Reclassified s (enterQueue s n a r) n r.num :=
  Reclassified.trans (t := aqCount (modAq s n a _) n a 0) (.of_portOf rfl _) (reclassified_modReq _ n r.num fun _ => rfl)

theorem meterReq_portOf (s : State) (n : Nat) (r : Request) (l : Nat) : portOf (meterReq s n r l).2 n = portOf s n := by
  unfold meterReq
  extract_lets w m
  split
  · rfl
  · rfl

theorem reclassified_classifyReq (s : State) (n : Nat) (r : Request) : Reclassified s (classifyReq s n r) n r.num := by
  unfold classifyReq
  extract_lets a l d u
  have hu : Reclassified s u n r.num := reclassified_modReq s n r.num fun _ => rfl
  refine hu.trans ?_
  split
  · exact (Reclassified.of_portOf rfl _).trans (reclassified_refuseReq (aqCount u n a 6) ..)
  split
  · exact (Reclassified.of_portOf rfl _).trans (reclassified_refuseReq (aqCount u n a 5) ..)
  have hm : Reclassified u (meterReq u n r l).2 n r.num := .of_portOf (meterReq_portOf ..) _
  split
  next colour v hv =>
  rw [hv] at hm
  refine hm.trans ?_
  split
  · exact (Reclassified.of_portOf rfl _).trans (reclassified_refuseReq (aqCount v n a 3) ..)
  split
  · exact (Reclassified.of_portOf rfl _).trans (reclassified_refuseReq (aqCount v n a 4) ..)
  · refine Reclassified.trans ?_ (reclassified_enterQueue _ n a r)
    exact reclassified_modReq v n r.num fun _ => rfl

theorem nextToClassify_fetched {s : State} {n q : Nat} {r : Request} (h : nextToClassify s n q = some r) : r ∈ (portOf s n).reqs ∧ r.stage = .fetched := by
  unfold nextToClassify at h
  split at h
  · next x hx =>
    split at h
    · cases h
      have := List.find?_some hx
      exact ⟨List.mem_of_find?_eq_some hx, by simp_all⟩
    · cases h
  · cases h

/-- Classification keeps the queues, and what is staged of every request. -/
theorem classifyAll_keepsQueues (f : Nat) (s : State) (n q : Nat) : (portOf (classifyAll f s n q) n).sqs = (portOf s n).sqs ∧
    (portOf (classifyAll f s n q) n).nextReq = (portOf s n).nextReq ∧
    ∀ x ∈ (portOf s n).reqs, ∃ y ∈ (portOf (classifyAll f s n q) n).reqs, y.staged = x.staged := by
  induction f generalizing s with
  | zero => exact ⟨rfl, rfl, fun x hx => ⟨x, hx, rfl⟩⟩
  | succ f ih =>
    unfold classifyAll
    split
    · exact ⟨rfl, rfl, fun x hx => ⟨x, hx, rfl⟩⟩
    · next r hr =>
      obtain ⟨⟨g, hg, hs, -⟩, hq, hn⟩ := reclassified_classifyReq s n r
      obtain ⟨iq, inx, ir⟩ := ih (classifyReq s n r)
      refine ⟨iq.trans hq, inx.trans hn, fun x hx => ?_⟩
      obtain ⟨y, hy, hys⟩ := ir (g x) (hg ▸ List.mem_map_of_mem hx)
      exact ⟨y, hy, hys.trans (hs x)⟩

/-- Every request of a number has this outcome. -/
def AllAnswered (s : State) (n num st : Nat) : Prop :=
  (∃ x ∈ (portOf s n).reqs, x.num = num) ∧ ∀ x ∈ (portOf s n).reqs, x.num = num → x.stage = .completing ∧ x.out.status = st

theorem AllAnswered.answered {s : State} {n num st : Nat} (h : AllAnswered s n num st) : Answered s n num st := by
  obtain ⟨⟨x, hx, rfl⟩, hall⟩ := h
  obtain ⟨y, hy⟩ := Option.isSome_iff_exists.mp (reqOf_isSome_of_mem hx)
  obtain ⟨hst, hout⟩ := hall y (List.mem_of_find?_eq_some hy) (num_of_reqOf hy)
  exact ⟨y, hy, hst, hout⟩

theorem allAnswered_refuseReq {s : State} {n num : Nat} (h : (reqOf s n num).isSome = true) (st d : Nat) : AllAnswered (refuseReq s n num st d) n num st := by
  obtain ⟨x, hx⟩ := portOf_refuseReq s n num st d
  obtain ⟨r, hr⟩ := Option.isSome_iff_exists.mp h
  have hnum := num_of_reqOf hr
  rw [AllAnswered, hx]
  refine ⟨⟨_, List.mem_map_of_mem (List.mem_of_find?_eq_some hr), by rw [if_pos hnum]; exact hnum⟩, fun y hy hyn => ?_⟩
  obtain ⟨z, -, rfl⟩ := List.mem_map.mp hy
  split at hyn
  · next hz =>
    rw [if_pos hz]
    exact ⟨rfl, rfl⟩
  · next hz => exact absurd hyn hz

/-- Classification leaves a request that has its outcome alone. -/
theorem AllAnswered.classifyAll {n num st : Nat} (f : Nat) {s : State} (h : AllAnswered s n num st) (q : Nat) :
    AllAnswered (classifyAll f s n q) n num st := by
  induction f generalizing s with
  | zero => exact h
  | succ f ih =>
    unfold Machine.classifyAll
    split
    · exact h
    · next r hr =>
      refine ih ?_
      obtain ⟨hmem, hfetched⟩ := nextToClassify_fetched hr
      have hne : r.num ≠ num := fun e => by
        rw [(h.2 r hmem e).1] at hfetched
        cases hfetched
      obtain ⟨⟨g, hg, hs, hother⟩, -, -⟩ := reclassified_classifyReq s n r
      have hnum (x : Request) : (g x).num = x.num := congrArg Prod.fst (hs x)
      obtain ⟨⟨x, hx, hxn⟩, hall⟩ := h
      rw [AllAnswered, hg]
      refine ⟨⟨g x, List.mem_map_of_mem hx, (hnum x).trans hxn⟩, fun y hy hyn => ?_⟩
      obtain ⟨z, hz, rfl⟩ := List.mem_map.mp hy
      have hzn : z.num = num := (hnum z).symm.trans hyn
      rw [hother z fun e => hne (e.symm.trans hzn)]
      exact hall z hz hzn

/-! ### Descriptors and payloads -/

/-- The request that a fetched descriptor makes. -/
def newRequest (s : State) (n q : Nat) (d : Bytes) : Request :=
  { num := (portOf s n).nextReq, sq := q, ordered := qcOrdered (queueConfig (portBank s n) n q), partition := qcPart (queueConfig (portBank s n) n q), desc := d }

/-- The state in which a descriptor has been fetched: HEAD advanced and the request there (R403). -/
def descriptorTaken (s : State) (n q : Nat) (d : Bytes) : State :=
  modPortOf (modSq (portStat s n 0 1) n q fun x => { x with head := (x.head + 1) % x.size }) n fun x =>
    { x with reqs := x.reqs ++ [newRequest s n q d], nextReq := (portOf s n).nextReq + 1 }

theorem descriptorTaken_portOf (s : State) (n q : Nat) (d : Bytes) : ∃ st, portOf (descriptorTaken s n q d) n =
    { portOf s n with
      stats := st, sqs := tmod (portOf s n).sqs q {} fun x => { x with head := (x.head + 1) % x.size }
      reqs := (portOf s n).reqs ++ [newRequest s n q d], nextReq := (portOf s n).nextReq + 1 } := by
  rw [descriptorTaken, portOf_modPortOf_self, modSq, portOf_modPortOf_self, portStat, portOf_modPortOf_self]
  exact ⟨_, rfl⟩

theorem descriptorTaken_only (s : State) (n q : Nat) (d : Bytes) : OnlyParts [.port] s (descriptorTaken s n q d) :=
  onlyParts_of_keeps (modPortOf_keeps (modSq_keeps (portStat_keeps (Keeps.refl _ s) rfl) rfl) (fun _ h => h) rfl)

theorem newRequest_mem (s : State) (n q : Nat) (d : Bytes) : newRequest s n q d ∈ (portOf (descriptorTaken s n q d) n).reqs := by
  obtain ⟨st, h⟩ := descriptorTaken_portOf s n q d
  rw [h]
  exact List.mem_append_right _ (List.mem_singleton_self _)

theorem reqOf_descriptorTaken (s : State) (n q : Nat) (d : Bytes) : (reqOf (descriptorTaken s n q d) n (portOf s n).nextReq).isSome = true :=
  reqOf_isSome_of_mem (newRequest_mem s n q d)

/-- What a fetch always leaves of its queue: HEAD one on, and one more request numbered (R403). -/
def FetchedOne (s t : State) (n q : Nat) : Prop :=
  (sqOf t n q).head = ((sqOf s n q).head + 1) % (sqOf s n q).size ∧ (portOf t n).nextReq = (portOf s n).nextReq + 1 ∧ t.mem = s.mem

theorem fetchedOne_of {s u t : State} {n q : Nat} {d : Bytes} (hu : u = descriptorTaken s n q d) (hq : (portOf t n).sqs = (portOf u n).sqs)
    (hn : (portOf t n).nextReq = (portOf u n).nextReq) (hm : t.mem = u.mem) : FetchedOne s t n q := by
  subst hu
  obtain ⟨st, h⟩ := descriptorTaken_portOf s n q d
  refine ⟨?_, by rw [hn, h], hm.trans (descriptorTaken_only s n q d .mem rfl)⟩
  rw [sqOf, hq, h]
  dsimp only
  rw [tgetD_tmod_self]
  rfl

theorem fetchedOne_refuse {s u : State} {n q num st x : Nat} {d : Bytes} (hu : portOf u n = portOf (descriptorTaken s n q d) n) (hm : u.mem = s.mem) :
    FetchedOne s (refuseReq u n num st x) n q := by
  obtain ⟨y, h⟩ := portOf_refuseReq u n num st x
  refine fetchedOne_of (d := d) rfl (by rw [h, hu]) (by rw [h, hu]) ?_
  exact ((refuseReq_keeps (Keeps.refl (allBut .mem) u) rfl).rest).trans (hm.trans (descriptorTaken_only s n q d .mem rfl).symm)

theorem portOf_tlpFault (s : State) (n part : Nat) (e : TlpErr) (a : Option Nat) (m : Nat) : portOf (tlpFault s n part e a) m = portOf s m := by
  refine portOf_of_ports ?_ m
  unfold tlpFault
  cases e with
  | good => rfl
  | ecrc => exact (congrArg PortState.ports (report_port (aerNote (portFault s n 2) n 19 0) _)).trans rfl
  | poisoned => exact (congrArg PortState.ports (report_port (aerNote (portFault s n 3) n 12 1) _)).trans rfl
  | completion st => exact congrArg PortState.ports (report_port ..)
  | timeout => exact congrArg PortState.ports (report_port ..)

theorem padTo_of_length {b : Bytes} {n : Nat} (h : b.length = n) : padTo b n = b := by
  rw [padTo, List.take_of_length_le (by omega), h, Nat.sub_self]
  exact List.append_nil b

theorem refuseReq_only (s : State) (n num st d : Nat) : OnlyParts [.port] s (refuseReq s n num st d) := onlyParts_of_keeps (refuseReq_keeps (Keeps.refl _ s) rfl)

/-- A good descriptor's fetch, by the first check that fails (R408, R409). -/
theorem execDescriptorFetch_good {s : State} {p : PortId} {q : QueueId} {d : Bytes} (h : canFetch s p.val q.val = true) (hlen : d.length = 128) :
    execDescriptorFetch p q .good d s = .next (
      if malformed d then refuseReq (descriptorTaken s p.val q.val d) p.val (portOf s p.val).nextReq 0x0101 0
      else if !bitAt (queueConfig (portBank s p.val) p.val q.val) ((opcodeBit (descOpcode d)).getD 0) then
        refuseReq (descriptorTaken s p.val q.val d) p.val (portOf s p.val).nextReq 0x0102 0
      else if descPart d ≠ qcPart (queueConfig (portBank s p.val) p.val q.val) then
        refuseReq (descriptorTaken s p.val q.val d) p.val (portOf s p.val).nextReq 0x0103 0
      else if fetchesPayload d then descriptorTaken s p.val q.val d
      else classifyQueue (modReq (descriptorTaken s p.val q.val d) p.val (portOf s p.val).nextReq fun r => { r with ready := true }) p.val q.val) := by
  unfold execDescriptorFetch
  extract_lets n w num d' r u v e
  rw [if_neg (by simp [n, h]), if_neg (by simp)]
  have hd : d' = d := (if_pos rfl).trans (padTo_of_length hlen)
  have hv : v = descriptorTaken s p.val q.val d := by
    unfold v u r
    rw [hd]
    rfl
  rw [hv, hd]
  split
  · rfl
  split
  · rfl
  split
  · rfl
  split
  · rfl
  · rfl

/-- A fetch that fails is refused and logged (R321, R408). -/
theorem execDescriptorFetch_bad {s : State} {p : PortId} {q : QueueId} {e : TlpErr} {d : Bytes} (h : canFetch s p.val q.val = true) (he : e ≠ .good) :
    ∃ u, execDescriptorFetch p q e d s = .next (refuseReq u p.val (portOf s p.val).nextReq 0x0101 0xFF) ∧
      portOf u p.val = portOf (descriptorTaken s p.val q.val (zeros 128)) p.val ∧ u.mem = s.mem := by
  unfold execDescriptorFetch
  extract_lets n w num d' r u v f g
  have hd : d' = zeros 128 := if_neg he
  have hv : v = descriptorTaken s p.val q.val (zeros 128) := by
    unfold v u r
    rw [hd]
    rfl
  refine ⟨g, (if_neg (by simp [n, h])).trans (if_pos he), ?_, ?_⟩
  · rw [portOf_report, portOf_tlpFault, hv]
  · rw [report_mem, (tlpFault_keeps (Keeps.refl (allBut .mem) v) rfl rfl rfl rfl).rest, hv]
    exact descriptorTaken_only s p.val q.val (zeros 128) .mem rfl

/-- The state in which a good payload has arrived: it is kept and its request classified (R319, R426). -/
def payloadKept (s : State) (n : Nat) (r : Request) (data : Bytes) : State :=
  classifyQueue (modReq s n r.num fun x => { x with payload := data, crc := crc32c data, ready := true }) n r.sq

theorem payloadArrived_good {s : State} {n : Nat} {r : Request} {data : Bytes} (h : descCrcValid r.desc = false ∨ crc32c data = descCrc r.desc) :
    payloadArrived s n r data = payloadKept s n r data := by
  rw [payloadArrived]
  refine if_neg ?_
  rcases h with h | h <;> simp [h]

theorem payloadKept_only (s : State) (n : Nat) (r : Request) (data : Bytes) : OnlyParts [.port] s (payloadKept s n r data) :=
  onlyParts_of_keeps (classifyQueue_keeps (modReq_keeps (Keeps.refl _ s) rfl) rfl)

theorem payloadKept_mem {s : State} {n num : Nat} {r : Request} (h : reqOf s n num = some r) (data : Bytes) :
    ∃ x ∈ (portOf (payloadKept s n r data) n).reqs, x.num = num ∧ x.ready = true ∧ x.payload = data ∧ x.crc = crc32c data := by
  have hnum := num_of_reqOf h
  have hmod : { r with payload := data, crc := crc32c data, ready := true } ∈
      (portOf (modReq s n r.num fun x => { x with payload := data, crc := crc32c data, ready := true }) n).reqs := by
    rw [modReq, portOf_modPortOf_self]
    exact List.mem_map.mpr ⟨r, List.mem_of_find?_eq_some h, if_pos rfl⟩
  obtain ⟨-, -, hk⟩ := classifyAll_keepsQueues 129 (modReq s n r.num fun x => { x with payload := data, crc := crc32c data, ready := true }) n r.sq
  obtain ⟨y, hy, hys⟩ := hk _ hmod
  obtain ⟨h1, h2, h3, h4⟩ : y.num = r.num ∧ y.ready = true ∧ y.payload = data ∧ y.crc = crc32c data := by simpa [Request.staged] using hys
  exact ⟨y, hy, h1.trans hnum, h2, h3, h4⟩

theorem reqOf_of_awaits {s : State} {n num : Nat} {r : Request} (h : awaitsPayload s n num = some r) : reqOf s n num = some r := by
  unfold awaitsPayload at h
  split at h
  · next x hx =>
    split at h
    · rw [hx, h]
    · cases h
  · cases h

theorem reqOf_of_portOf {s t : State} {n : Nat} (h : portOf t n = portOf s n) (num : Nat) : reqOf t n num = reqOf s n num := by rw [reqOf, h, reqOf]

/-- A payload whose CRC-32C differs is refused (R319). -/
theorem payloadArrived_bad {s : State} {n num : Nat} {r : Request} {data : Bytes} (h : reqOf s n num = some r) (hv : descCrcValid r.desc = true)
    (hc : crc32c data ≠ descCrc r.desc) : Answered (payloadArrived s n r data) n num 0x0104 := by
  unfold payloadArrived
  extract_lets c u
  rw [if_pos (by simp [hv, c, hc]), num_of_reqOf h]
  refine (AllAnswered.classifyAll 129 (allAnswered_refuseReq ?_ 0x0104 0) r.sq).answered
  rw [reqOf_of_portOf (portOf_report ..)]
  exact congrArg Option.isSome h

theorem takeScore_staged {s : State} {n num op : Nat} {r : Request} (h : awaitsPayload s n num = some r) (hs : descStaged r.desc = true)
    (hop : descOpcode r.desc = op)
    (hc : descCrcValid r.desc = false ∨ crc32c (memRead (portOf s n).staging (descInput r.desc) (descInLen r.desc)) = descCrc r.desc) :
    takeScore s n num op = payloadKept s n r (memRead (portOf s n).staging (descInput r.desc) (descInLen r.desc)) := by
  rw [takeScore, h]
  exact (if_pos (by simp [hop, hs])).trans (payloadArrived_good hc)

theorem payloadFetch_good {s : State} {p : PortId} {num : Nat} {r : Request} {data : Bytes} (h : awaitsPayload s p.val num = some r)
    (hs : descStaged r.desc = false) (hlen : data.length = descInLen r.desc) :
    execPayloadFetch p num .good data s = .next (payloadArrived s p.val r data) := by
  simp only [execPayloadFetch, h]
  rw [hs]
  exact (if_neg (by decide)).trans ((if_neg (by simp)).trans (if_pos hlen))

theorem payloadFetch_bad {s : State} {p : PortId} {num : Nat} {r : Request} {e : TlpErr} (data : Bytes) (h : awaitsPayload s p.val num = some r)
    (hs : descStaged r.desc = false) (he : e ≠ .good) : execPayloadFetch p num e data s =
      .next (classifyQueue (refuseReq (tlpFault s p.val r.partition e (some (descInput r.desc))) p.val num 0x0105 0) p.val r.sq) := by
  simp only [execPayloadFetch, h]
  rw [hs]
  exact (if_neg (by decide)).trans (if_pos he)

/-- A request without a payload is ready at once, and classified (R410). -/
def requestReady (s : State) (n q : Nat) (d : Bytes) : State :=
  classifyQueue (modReq (descriptorTaken s n q d) n (portOf s n).nextReq fun r => { r with ready := true }) n q

theorem requestReady_fetchedOne (s : State) (n q : Nat) (d : Bytes) : FetchedOne s (requestReady s n q d) n q := by
  obtain ⟨hq, hn, -⟩ := classifyAll_keepsQueues 129 (modReq (descriptorTaken s n q d) n (portOf s n).nextReq fun r => { r with ready := true }) n q
  have hmod : portOf (modReq (descriptorTaken s n q d) n (portOf s n).nextReq fun r => { r with ready := true }) n = _ := portOf_modPortOf_self ..
  refine fetchedOne_of (d := d) rfl (hq.trans ?_) (hn.trans ?_) ?_
  · rw [hmod]
  · rw [hmod]
  · exact (classifyQueue_keeps (modReq_keeps (Keeps.refl (allBut .mem) (descriptorTaken s n q d)) rfl) rfl).rest

theorem descriptorTaken_fetchedOne (s : State) (n q : Nat) (d : Bytes) : FetchedOne s (descriptorTaken s n q d) n q := fetchedOne_of rfl rfl rfl rfl

/-- A descriptor's fetch that fails in flight (R321, R408). -/
theorem descriptorFetch_bad_ends {s : State} {p : PortId} {q : QueueId} {e : TlpErr} {d : Bytes} (h : canFetch s p.val q.val = true) (he : e ≠ .good) :
    ∃ t, exec (.descriptorFetch p q e d) s = .next t ∧ FetchedOne s t p.val q.val ∧ Answered t p.val (portOf s p.val).nextReq 0x0101 := by
  obtain ⟨u, hexec, hport, hmem⟩ := execDescriptorFetch_bad (d := d) h he
  refine ⟨_, hexec, fetchedOne_refuse hport hmem, answered_refuseReq ?_ 0x0101 0xFF⟩
  rw [reqOf_of_portOf hport]
  exact reqOf_descriptorTaken ..

/-- Settles O31: a descriptor by its first failing check, a payload by its fetch and its CRC-32C. -/
theorem portRequestCommandsComplete : Obligations.PortRequestCommandsComplete := by
  intro s p
  refine ⟨fun q err desc hcan hlen => ?_, fun num r data haw hst hlen => ?_, fun num r err data haw hst herr => ?_, fun num r haw hst hcrc => ?_⟩
  · by_cases herr : err = .good
    · subst herr
      have hexec : exec (.descriptorFetch p q .good desc) s = _ := execDescriptorFetch_good hcan hlen
      have hans (st : Nat) : Answered (refuseReq (descriptorTaken s p.val q.val desc) p.val (portOf s p.val).nextReq st 0) p.val (portOf s p.val).nextReq st :=
        answered_refuseReq (reqOf_descriptorTaken ..) st 0
      have hone (st : Nat) : FetchedOne s (refuseReq (descriptorTaken s p.val q.val desc) p.val (portOf s p.val).nextReq st 0) p.val q.val :=
        fetchedOne_refuse (d := desc) rfl (descriptorTaken_only s p.val q.val desc .mem rfl)
      by_cases hmal : malformed desc = true
      · obtain ⟨h1, h2, h3⟩ := hone 0x0101
        exact ⟨_, hexec.trans (next_if_pos hmal _ _), h1, h2, h3, fun h => absurd rfl h,
          fun _ _ => ⟨hans _, (descriptorTaken_only _ _ _ _).andThen (refuseReq_only _ _ _ _ _) (by decide) (by decide)⟩,
          fun _ h => absurd hmal (by simp [h]), fun _ h => absurd hmal (by simp [h]), fun _ h => absurd hmal (by simp [h])⟩
      replace hexec := hexec.trans (next_if_neg hmal _ _)
      by_cases hbit : bitAt (queueConfig (portBank s p.val) p.val q.val) ((opcodeBit (descOpcode desc)).getD 0) = true
      · replace hexec := hexec.trans (next_if_neg (by simp [hbit]) _ _)
        by_cases hpart : descPart desc = qcPart (queueConfig (portBank s p.val) p.val q.val)
        · replace hexec := hexec.trans (next_if_neg (not_not_intro hpart) _ _)
          by_cases hpay : fetchesPayload desc = true
          · obtain ⟨h1, h2, h3⟩ := descriptorTaken_fetchedOne s p.val q.val desc
            exact ⟨_, hexec.trans (next_if_pos hpay _ _), h1, h2, h3, fun h => absurd rfl h, fun _ h => absurd h hmal, fun _ _ h => absurd hbit (by simp [h]),
              fun _ _ _ h => absurd hpart h, fun _ _ _ _ _ => ⟨_, newRequest_mem .., rfl, rfl, rfl, rfl, rfl⟩⟩
          · obtain ⟨h1, h2, h3⟩ := requestReady_fetchedOne s p.val q.val desc
            exact ⟨_, hexec.trans (next_if_neg hpay _ _), h1, h2, h3, fun h => absurd rfl h, fun _ h => absurd h hmal, fun _ _ h => absurd hbit (by simp [h]),
              fun _ _ _ h => absurd hpart h, fun _ _ _ _ h => absurd h hpay⟩
        · obtain ⟨h1, h2, h3⟩ := hone 0x0103
          exact ⟨_, hexec.trans (next_if_pos hpart _ _), h1, h2, h3, fun h => absurd rfl h, fun _ h => absurd h hmal, fun _ _ h => absurd hbit (by simp [h]),
            fun _ _ _ _ => hans _, fun _ _ _ h => absurd h hpart⟩
      · obtain ⟨h1, h2, h3⟩ := hone 0x0102
        exact ⟨_, hexec.trans (next_if_pos (by simp [hbit]) _ _), h1, h2, h3, fun h => absurd rfl h, fun _ h => absurd h hmal, fun _ _ _ => hans _,
          fun _ _ h => absurd h hbit, fun _ _ h => absurd h hbit⟩
    · obtain ⟨t, ht, ⟨h1, h2, h3⟩, hans⟩ := descriptorFetch_bad_ends (d := desc) hcan herr
      exact ⟨t, ht, h1, h2, h3, fun _ => hans, fun h => absurd h herr, fun h => absurd h herr, fun h => absurd h herr, fun h => absurd h herr⟩
  · have hr := reqOf_of_awaits haw
    refine ⟨_, payloadFetch_good haw hst hlen, (payloadArrived_keeps (Keeps.refl (allBut .mem) s) rfl rfl rfl).rest, payloadArrived_bad hr, fun hc => ?_⟩
    rw [payloadArrived_good hc]
    exact payloadKept_mem hr data
  · refine ⟨_, payloadFetch_bad data haw hst herr, (AllAnswered.classifyAll 129 (allAnswered_refuseReq ?_ 0x0105 0) r.sq).answered, ?_⟩
    · rw [reqOf_of_portOf (portOf_tlpFault ..), reqOf_of_awaits haw]
      rfl
    · exact (classifyQueue_keeps (refuseReq_keeps (tlpFault_keeps (Keeps.refl (allBut .mem) s) rfl rfl rfl rfl) rfl) rfl).rest
  · have hkept (op : Nat) (hop : descOpcode r.desc = op) : takeScore s p.val num op = _ := takeScore_staged haw hst hop hcrc
    obtain ⟨x, hx, hnum, hready, hpay, -⟩ := payloadKept_mem (reqOf_of_awaits haw) (memRead (portOf s p.val).staging (descInput r.desc) (descInLen r.desc))
    exact ⟨fun hop => ⟨_, congrArg Host.Outcome.next (hkept 1 hop), payloadKept_only _ _ _ _, x, hx, hnum, hready, hpay⟩,
      fun hop => ⟨_, congrArg Host.Outcome.next (hkept 2 hop), payloadKept_only _ _ _ _, x, hx, hnum, hready, hpay⟩⟩

end Sys2Proof.Machine

/-!
PROOFS. What a tile does with a packet that it accepts, how the context records read after a change, and results: DONE words and digest reports
(R413 to R416, R570, R572).
-/
namespace Sys2Proof.Machine

set_option Elab.async false

/-! ### Packets that a tile accepts -/

/-- A packet in sequence and intact is accepted and acted on (Table 9.1). -/
theorem rxHandle_of_inSequence {s u : State} {node : Nat} {p : Packet} (h : InSequence s node p u) (later : Bool) (perform failed : State → State) :
    rxHandle s node p later perform failed = perform (rxAccept u node p later) := by
  obtain ⟨hopen, hgood, e, he, hgen, hbroken, hseq⟩ := h
  unfold rxHandle
  rw [hopen]
  have hahead : subMod 16 p.seq.toNat e.expected = 0 := by
    rw [hseq, subMod]
    omega
  simp only [he, hgen, hbroken, hahead, hgood, bne_self_eq_false, Bool.false_eq_true, if_false, if_true]

theorem Accepts.acts {s u : State} {node : NodeId} {p : Packet} {later : Bool} (h : Accepts s node p later u) {ops : List Nat}
    (hop : ops.contains p.opcode.toNat = true) (perform failed : State → State) :
    onArrival node p ops s (fun s => rxHandle s node.toNat p later perform failed) = .next (perform u) := by
  obtain ⟨a, b, htake, hseq, rfl⟩ := h
  rw [onArrival_next htake hop, rxHandle_of_inSequence hseq]

/-- A tile that accepts a packet changes its arrivals and its receive entries alone. -/
theorem Accepts.eq {s u : State} {node : NodeId} {p : Packet} {later : Bool} (h : Accepts s node p later u) :
    ∃ l r, u = modFab s fun f => { f with arrived := l, rx := r } := by
  obtain ⟨a, b, ⟨-, -, htake⟩, ⟨hopen, -⟩, rfl⟩ := h
  obtain ⟨l, rfl⟩ := takeArrived_fab htake
  have hb : ∃ r, b = modFab s fun f => { f with arrived := l, rx := r } := by
    split at hopen
    · unfold rxOpen at hopen
      dsimp only at hopen
      split at hopen
      · cases hopen
        exact ⟨_, rfl⟩
      split at hopen
      · cases hopen
        exact ⟨_, rfl⟩
      · cases hopen
    · cases hopen
      exact ⟨s.fab.rx, rfl⟩
  obtain ⟨r, rfl⟩ := hb
  exact ⟨l, _, rfl⟩

section
variable {s u : State} {node : NodeId} {p : Packet} {later : Bool} (h : Accepts s node p later u)
include h

theorem Accepts.only : OnlyParts [.fab] s u := by
  obtain ⟨l, r, rfl⟩ := h.eq
  exact onlyParts_of_keeps (modFab_keeps (Keeps.refl _ s) rfl)

theorem Accepts.waiting : u.fab.waiting = s.fab.waiting := by
  obtain ⟨l, r, rfl⟩ := h.eq
  rfl

theorem Accepts.port : u.port = s.port := h.only .port rfl
theorem Accepts.vs : u.vs = s.vs := h.only .vs rfl
theorem Accepts.mem : u.mem = s.mem := h.only .mem rfl
theorem Accepts.now : u.now = s.now := h.only .now rfl
theorem Accepts.integ : u.integ = s.integ := h.only .integ rfl
end

/-! ### Context records -/

theorem admOf_modAdm_self (s : State) (p : Nat) (f : Admission → Admission) : admOf (modAdm s p f) p = f (admOf s p) :=
  tgetD_tmod_self s.port.adm p {} f

theorem ctxOf_modCtx_self (s : State) (p c : Nat) (f : Context → Context) : ctxOf (modCtx s p c f) p c = f (ctxOf s p c) := by
  rw [ctxOf, modCtx, admOf_modAdm_self]
  exact tgetD_tmod_self (admOf s p).ctxs c {} f

theorem admOf_of_port {s t : State} (h : t.port.adm = s.port.adm) (p : Nat) : admOf t p = admOf s p := by rw [admOf, h, admOf]

theorem ctxOf_of_port {s t : State} (h : t.port.adm = s.port.adm) (p c : Nat) : ctxOf t p c = ctxOf s p c := by rw [ctxOf, admOf_of_port h, ctxOf]

theorem reqOf_of_ports {s t : State} (h : t.port.ports = s.port.ports) (p num : Nat) : reqOf t p num = reqOf s p num := by
  rw [reqOf, portOf_of_ports h, reqOf]

theorem ctxEvent_port (s : State) (p c : Nat) : (ctxEvent s p c).port = s.port := event_port ..

theorem admOf_ctxEvent (s : State) (p c n : Nat) : admOf (ctxEvent s p c) n = admOf s n := by rw [admOf, ctxEvent_port, admOf]

theorem ctxOf_ctxEvent (s : State) (p c n k : Nat) : ctxOf (ctxEvent s p c) n k = ctxOf s n k := by rw [ctxOf, admOf_ctxEvent, ctxOf]

theorem ctxEvent_only (s : State) (p c : Nat) : OnlyParts [.obs] s (ctxEvent s p c) := onlyParts_of_keeps (ctxEvent_keeps (Keeps.refl _ s) rfl)

/-- Leaving LIVE can take back a FREEZE, and nothing else (R563). -/
theorem leaveLive_eq (s : State) (p c : Nat) : ∃ o, leaveLive s p c = modObs s fun _ => o := by
  unfold leaveLive
  extract_lets x
  split
  · exact ⟨_, rfl⟩
  · exact ⟨s.obs, rfl⟩

theorem leaveLive_only (s : State) (p c : Nat) : OnlyParts [.obs] s (leaveLive s p c) := onlyParts_of_keeps (leaveLive_keeps (Keeps.refl _ s) rfl)

theorem leaveLive_port (s : State) (p c : Nat) : (leaveLive s p c).port = s.port := leaveLive_only s p c .port rfl

theorem reqOf_portStat (s : State) (n i k num : Nat) : reqOf (portStat s n i k) n num = reqOf s n num := by
  rw [reqOf, portStat, portOf_modPortOf_self, reqOf]

theorem reqOf_of_ctxRequest {s : State} {p : Nat} {x : Context} {r : Request} (h : ctxRequest s p x = some r) : reqOf s p r.num = some r := by
  have hnum : r.num = x.req := by simpa using List.find?_some h
  rw [hnum]
  exact h

/-! ### A context that is killed -/

/-- A killed context's record: KILLING with its fault, and KILL due from every vat (R140, R143). -/
def killedCtx (s : State) (p c fault : Nat) : Context :=
  { ctxOf s p c with
    state := 3, fault := fault, kills := (partVats s.cfg (ctxOf s p c).partition).filter (dieUp s), killAt := s.now, killLast := s.now, endTick := s.now }

/-- The KILL packets of a context to these vats (R143). -/
def killsSent (s : State) (p tag part : Nat) (vats : List Nat) : State := vats.foldl (fun s d => sendKill s p tag part d) s

theorem killsSent_port (s : State) (p tag part : Nat) (vats : List Nat) : (killsSent s p tag part vats).port = s.port :=
  foldl_same State.port (fun _ _ => send_port ..) vats s

/-- A KILL for the tag waits at the port's admission tile to leave for the vat (R143). -/
def KillWaits (t : State) (p tag d : Nat) : Prop :=
  ∃ o ∈ tgetD t.fab.waiting (admissionTile p) [], o.pkt.opcode = 0x45 ∧ o.pkt.dest = BitVec.ofNat 12 (schedTile d) ∧ o.pkt.tagValid = true ∧
    o.pkt.tag.toNat = tag

theorem killWaits_sendKill (s : State) (p part d : Nat) {tag : Nat} (h : tag < 2 ^ 16) : KillWaits (sendKill s p tag part d) p tag d := by
  rw [KillWaits, sendKill, waiting_send]
  exact ⟨_, List.mem_append_right _ (List.mem_singleton_self _), rfl, rfl, rfl, Nat.mod_eq_of_lt h⟩

theorem KillWaits.sendKill {s : State} {p tag d : Nat} (h : KillWaits s p tag d) (tag' part d' : Nat) : KillWaits (sendKill s p tag' part d') p tag d := by
  obtain ⟨o, ho, hrest⟩ := h
  refine ⟨o, ?_, hrest⟩
  rw [Machine.sendKill, waiting_send]
  exact List.mem_append_left _ ho

theorem killWaits_killsSent (s : State) (p part : Nat) {tag d : Nat} {vats : List Nat} (h : tag < 2 ^ 16) (hd : d ∈ vats) :
    KillWaits (killsSent s p tag part vats) p tag d :=
  foldl_reaches (P := fun t => KillWaits t p tag d) (fun u => killWaits_sendKill u p part d h) (fun _ d' hu => hu.sendKill tag part d') hd s

theorem ctxTag_lt (p c g : Nat) : ctxTag p c g < 2 ^ 16 := by
  rw [ctxTag]
  omega

/-- The state in which a LIVE context is KILLING, before the vats that have nothing to answer are settled. -/
def killStarted (s : State) (p c fault : Nat) : State :=
  let u := modCtx (leaveLive s p c) p c fun _ => killedCtx s p c fault
  let u := if fault = 0x10 then modAdm u p fun a => { a with deadlineFaults := a.deadlineFaults + 1 } else u
  killsSent (ctxEvent u p c) p (ctxTag p c (ctxOf s p c).gen) (ctxOf s p c).partition ((partVats s.cfg (ctxOf s p c).partition).filter (dieUp s))

theorem enterKilling_live {s : State} {p c : Nat} (h : (ctxOf s p c).state = 1) (fault : Nat) :
    enterKilling s p c fault = killSettle (killStarted s p c fault) p c := by
  obtain ⟨o, ho⟩ := leaveLive_eq s p c
  unfold enterKilling killStarted
  rw [if_pos h, ho]
  rfl

theorem killStarted_port (s : State) (p c fault : Nat) : ctxOf (killStarted s p c fault) p c = killedCtx s p c fault ∧
    (admOf (killStarted s p c fault) p).deadlineFaults = (admOf s p).deadlineFaults + (if fault = 0x10 then 1 else 0) ∧
    (killStarted s p c fault).port.ports = s.port.ports := by
  obtain ⟨o, ho⟩ := leaveLive_eq s p c
  unfold killStarted
  extract_lets u v
  have hport : (killsSent (ctxEvent v p c) p (ctxTag p c (ctxOf s p c).gen) (ctxOf s p c).partition
      ((partVats s.cfg (ctxOf s p c).partition).filter (dieUp s))).port = v.port := (killsSent_port ..).trans (ctxEvent_port ..)
  have hu : ctxOf u p c = killedCtx s p c fault := ctxOf_modCtx_self ..
  have ha : (admOf u p).deadlineFaults = (admOf s p).deadlineFaults := by
    unfold u
    rw [ho, modCtx, admOf_modAdm_self]
    rfl
  have hp : u.port.ports = s.port.ports := by
    unfold u
    rw [ho]
    rfl
  have hv : ctxOf v p c = killedCtx s p c fault ∧ (admOf v p).deadlineFaults = (admOf s p).deadlineFaults + (if fault = 0x10 then 1 else 0) ∧
      v.port.ports = s.port.ports := by
    unfold v
    split
    · rw [ctxOf, admOf_modAdm_self]
      exact ⟨hu, congrArg (· + 1) ha, hp⟩
    · exact ⟨hu, ha, hp⟩
  obtain ⟨h1, h2, h3⟩ := hv
  exact ⟨(ctxOf_of_port (congrArg PortState.adm hport) p c).trans h1, (congrArg Admission.deadlineFaults (admOf_of_port (congrArg PortState.adm hport) p)).trans h2,
    (congrArg PortState.ports hport).trans h3⟩

/-- Settling a kill leaves everything of the context but its state (R140). -/
theorem killSettle_ctx {s : State} {p c : Nat} (h : (ctxOf s p c).state = 3) :
    ((ctxOf (killSettle s p c) p c).state = 3 ∨ (ctxOf (killSettle s p c) p c).state = 4) ∧
    (ctxOf (killSettle s p c) p c).fault = (ctxOf s p c).fault ∧ (admOf (killSettle s p c) p).deadlineFaults = (admOf s p).deadlineFaults ∧
    (killSettle s p c).port.ports = s.port.ports := by
  unfold killSettle
  extract_lets x
  split
  · rw [ctxOf_ctxEvent, ctxOf_modCtx_self, admOf_ctxEvent, modCtx, admOf_modAdm_self, ctxEvent_port]
    exact ⟨.inr rfl, rfl, rfl, rfl⟩
  · exact ⟨.inl h, rfl, rfl, rfl⟩

theorem killSettle_only (s : State) (p c : Nat) : OnlyParts [.obs, .port] s (killSettle s p c) :=
  onlyParts_of_keeps (killSettle_keeps (Keeps.refl _ s) rfl rfl)

/-- What a kill leaves of a LIVE context (R140, R143). -/
theorem enterKilling_ctx {s : State} {p c : Nat} (h : (ctxOf s p c).state = 1) (fault : Nat) :
    ((ctxOf (enterKilling s p c fault) p c).state = 3 ∨ (ctxOf (enterKilling s p c fault) p c).state = 4) ∧
    (ctxOf (enterKilling s p c fault) p c).fault = fault ∧
    (admOf (enterKilling s p c fault) p).deadlineFaults = (admOf s p).deadlineFaults + (if fault = 0x10 then 1 else 0) := by
  obtain ⟨h1, h2, -⟩ := killStarted_port s p c fault
  rw [enterKilling_live h]
  obtain ⟨hs, hf, hd, -⟩ := killSettle_ctx (c := c) (p := p) (s := killStarted s p c fault) (by rw [h1]; rfl)
  exact ⟨hs, by rw [hf, h1]; rfl, hd.trans h2⟩

theorem enterKilling_kills {s : State} {p c d : Nat} (h : (ctxOf s p c).state = 1) (fault : Nat) (hd : d ∈ partVats s.cfg (ctxOf s p c).partition)
    (hup : dieUp s d = true) : KillWaits (enterKilling s p c fault) p (ctxTag p c (ctxOf s p c).gen) d := by
  rw [enterKilling_live h, KillWaits, killSettle_only _ p c .fab rfl]
  exact killWaits_killsSent _ p _ (ctxTag_lt ..) (List.mem_filter.mpr ⟨hd, hup⟩)

theorem enterKilling_only (s : State) (p c fault : Nat) : OnlyParts [.fab, .obs, .port] s (enterKilling s p c fault) :=
  onlyParts_of_keeps (enterKilling_keeps (Keeps.refl _ s) rfl rfl rfl)

/-! ### DONE words and digest reports -/

theorem staleDone_ends (s : State) (n word part : Nat) : Reported s (staleDone s n word part) 0x72 1 ∧ (staleDone s n word part).port.adm = s.port.adm ∧
    OnlyParts [.integ, .obs, .port] s (staleDone s n word part) := by
  refine ⟨?_, ?_, ?_⟩
  · exact reported_of_integ (u := portStat s n 5 1) rfl rfl
  · rw [staleDone, report_port]
    rfl
  · exact onlyParts_of_keeps (staleDone_keeps (Keeps.refl _ s) rfl rfl rfl)

/-- A context that has finished: its request has its outcome, and its record is FINISHING (R413, R414). -/
def doneTaken (s : State) (n c : Nat) (r : Request) (o : Outcome) : State :=
  let x := ctxOf s n c
  let u := modReq s n r.num fun r => { r with out := o }
  let u := if o.status = 0x0204 then
      report (portStat u n 6 1)
        { cause := 0x73, cls := 1, unit := 0x11, source := portFrontTile n, partition := some x.partition
          tag := some (ctxTag n c x.gen), detail := ctxTag n c x.gen }
    else u
  let u := leaveLive u n c
  ctxEvent (modCtx u n c fun x => { x with state := 2, endTick := u.now }) n c

/-- A DONE word of a LIVE context under its tag, in its partition, with no reserved bit (R413). -/
theorem execDoneWord_live {s : State} {p : PortId} {c : CtxId} {w : BitVec 64} {part : PartId} (h1 : (ctxOf s p.val c.val).state = 1)
    (htag : bits w.toNat 63 48 = ctxTag p.val c.val (ctxOf s p.val c.val).gen) (hpart : part.val = (ctxOf s p.val c.val).partition)
    (hres : bits w.toNat 39 32 = 0) {r : Request} (hr : ctxRequest s p.val (ctxOf s p.val c.val) = some r) :
    execDoneWord p c w part s =
      if (ctxOf s p.val c.val).deadline < s.now then .next (staleDone (enterKilling s p.val c.val 0x10) p.val w.toNat part.val)
      else .next (doneTaken s p.val c.val r (doneOutcome s p.val c.val w.toNat r)) := by
  simp only [execDoneWord, h1, htag, hpart, hres, hr, decide_true, Bool.and_self, if_true]
  rfl

/-- What a finished context leaves (R413 to R416). -/
theorem doneTaken_ends {s : State} {n c : Nat} {r : Request} (hr : reqOf s n r.num = some r) (o : Outcome) :
    (ctxOf (doneTaken s n c r o) n c).state = 2 ∧ (ctxOf (doneTaken s n c r o) n c).endTick = s.now ∧
    (∃ y, reqOf (doneTaken s n c r o) n r.num = some y ∧ y.out = o) ∧ (doneTaken s n c r o).mem = s.mem ∧
    (o.status = 0 → (doneTaken s n c r o).integ = s.integ) := by
  unfold doneTaken
  extract_lets x u v w
  obtain ⟨b, hw⟩ : ∃ b, w = modObs v fun _ => b := leaveLive_eq v n c
  have hu : (∃ y, reqOf u n r.num = some y ∧ y.out = o) ∧ u.mem = s.mem ∧ u.now = s.now ∧ u.integ = s.integ := by
    refine ⟨⟨{ r with out := o }, ?_, rfl⟩, rfl, rfl, rfl⟩
    refine (reqOf_modReq s n r.num r.num (f := fun r => { r with out := o }) fun _ => rfl).trans ?_
    rw [hr]
    exact congrArg some (if_pos rfl)
  have hv : (∃ y, reqOf v n r.num = some y ∧ y.out = o) ∧ v.mem = s.mem ∧ v.now = s.now ∧ (o.status = 0 → v.integ = s.integ) := by
    obtain ⟨h1, h2, h3, h4⟩ := hu
    unfold v
    split
    · next hst => exact ⟨by rwa [reqOf_of_port (report_port _ _), reqOf_portStat], (report_mem _ _).trans h2, (report_now _ _).trans h3, fun h => absurd (h.symm.trans hst) (by decide)⟩
    · exact ⟨h1, h2, h3, fun _ => h4⟩
  obtain ⟨h1, h2, h3, h4⟩ := hv
  rw [ctxOf_ctxEvent, ctxOf_modCtx_self, reqOf_of_port (ctxEvent_port _ _ _), ctxEvent_only _ _ _ .mem rfl, ctxEvent_only _ _ _ .integ rfl, hw]
  exact ⟨rfl, h3, h1, h2, h4⟩

/-- A value put under each key of a list is found under every one of them. -/
theorem tget_foldl_tput {α : Type} (v : α) {l : List Nat} {i : Nat} {t : Table α} (h : i ∈ l ∨ tget t i = some v) :
    tget (l.foldl (fun t i => tput t i v) t) i = some v := by
  induction l generalizing t with
  | nil => exact h.resolve_left (List.not_mem_nil)
  | cons j l ih =>
    refine ih ?_
    by_cases hj : i = j
    · exact .inr (hj ▸ tget_tput_self t j v)
    · rcases h with h | h
      · exact .inl ((List.mem_cons.mp h).resolve_left hj)
      · exact .inr ((tget_tput_ne t v hj).trans h)

/-- A digest of a watched point is kept with its LIVE context (R570). -/
theorem takeDigest_watched {s : State} {n : Nat} {p : Packet} {i : Nat} (htv : p.tagValid = true) (htp : tagPort p.tag.toNat = n)
    (h1 : (ctxOf s n (tagCtx p.tag.toNat)).state = 1) (hcur : tagCurrent s p.tag.toNat = true)
    (hpart : p.partition.toNat = (ctxOf s n (tagCtx p.tag.toNat)).partition) (hi : i < 3)
    (hen : elemEn (watchElem (ctxOf s n (tagCtx p.tag.toNat)).watchRec i) = true)
    (hdie : elemDie (watchElem (ctxOf s n (tagCtx p.tag.toNat)).watchRec i) = field p.payload 81 1)
    (hpoint : elemPoint (watchElem (ctxOf s n (tagCtx p.tag.toNat)).watchRec i) = field p.payload 80 1) :
    tget (ctxOf (takeDigest s n p) n (tagCtx p.tag.toNat)).digests i = some (slice p.payload 0 32) ∧ OnlyParts [.obs, .port] s (takeDigest s n p) := by
  unfold takeDigest
  extract_lets tag c x hits u
  have hmem : i ∈ hits := List.mem_filter.mpr ⟨List.mem_range.mpr hi, by
    simp only [Bool.and_eq_true, beq_iff_eq]
    exact ⟨⟨hen, hdie⟩, hpoint⟩⟩
  have hne : hits.isEmpty = false := by
    cases hh : hits with
    | nil => rw [hh] at hmem; cases hmem
    | cons => rfl
  have hc : (p.tagValid && decide (tagPort tag = n) && decide (x.state = 1) && tagCurrent s tag && decide (p.partition.toNat = x.partition) &&
      !hits.isEmpty) = true := by
    simp only [htv, hcur, hne, tag, x, c, htp, h1, hpart, decide_true, Bool.and_self, Bool.not_false]
  rw [if_pos hc]
  refine ⟨?_, onlyParts_of_keeps (modCtx_keeps (modObs_keeps (Keeps.refl _ s) rfl) rfl)⟩
  rw [ctxOf_modCtx_self]
  exact tget_foldl_tput _ (.inl hmem)

theorem portFrontTile_inj : ∀ a < 4, ∀ b < 4, portFrontTile a = portFrontTile b → a = b := by decide

/-- Settles O32: a DONE word by its context's state and deadline; a digest report of a watched point. -/
theorem resultCommandsComplete : Obligations.ResultCommandsComplete := by
  intro s p
  refine ⟨fun c w part r h1 htag hpart hres hr => ?_, fun c w part h1 => ?_, fun node k u i hnode hop hacc htv htp h1 hcur hpart hi hen hdie hpoint => ?_⟩
  · have hexec : exec (.doneWord p c w part) s = _ := execDoneWord_live h1 htag hpart hres hr
    refine ⟨fun hin => ?_, fun hlate => ?_⟩
    · rw [if_neg (Nat.not_lt.mpr hin)] at hexec
      obtain ⟨a1, a2, a3, a4, a5⟩ := doneTaken_ends (c := c.val) (reqOf_of_ctxRequest hr) (doneOutcome s p.val c.val w.toNat r)
      exact ⟨_, hexec, a1, a2, a3, a4, a5⟩
    · rw [if_pos hlate] at hexec
      obtain ⟨hst, hf, -⟩ := enterKilling_ctx h1 0x10
      obtain ⟨hrep, hadm, -⟩ := staleDone_ends (enterKilling s p.val c.val 0x10) p.val w.toNat part.val
      refine ⟨_, hexec, ?_, ?_, hrep.congr (enterKilling_only s p.val c.val 0x10 .integ rfl).symm rfl⟩
      · rwa [ctxOf_of_port hadm]
      · rwa [ctxOf_of_port hadm]
  · have hexec : exec (.doneWord p c w part) s = .next (staleDone s p.val w.toNat part.val) := if_neg (by simp [h1])
    obtain ⟨hrep, hadm, honly⟩ := staleDone_ends s p.val w.toNat part.val
    exact ⟨_, hexec, hrep, ctxOf_of_port hadm .., honly⟩
  · have hexec : exec (.digestReport node k) s = .next (response (takeDigest u p.val k) node.toNat k 0x23 []) := by
      have hfind : (List.range 4).find? (fun n => portFrontTile n == node.toNat) = some p.val := by
        rw [List.find?_range_eq_some]
        refine ⟨by simp [hnode], List.mem_range.mpr p.isLt, fun j hj => ?_⟩
        have hne : portFrontTile j ≠ portFrontTile p.val := fun h => absurd (portFrontTile_inj j (by omega) p.val p.isLt h) (by omega)
        simp [hnode, hne]
      show execDigestReport node k s = _
      unfold execDigestReport
      rw [hfind]
      exact hacc.acts (by rw [hop]; rfl) _ _
    have hctx (n c : Nat) : ctxOf u n c = ctxOf s n c := ctxOf_of_port (congrArg PortState.adm hacc.port) n c
    rw [← hctx] at h1 hpart hen hdie hpoint
    rw [tagCurrent, ← hctx] at hcur
    obtain ⟨hdig, honly⟩ := takeDigest_watched htv htp h1 hcur hpart hi hen hdie hpoint
    obtain ⟨x, hx, hxop, hxdest, -⟩ := waiting_response (takeDigest u p.val k) node.toNat k 0x23 [] 0 false
    refine ⟨_, x, hexec, ?_, ?_, hxop, ?_, ?_⟩
    · rwa [ctxOf_of_port (congrArg PortState.adm (response_port ..))]
    · rw [hx]
      exact List.mem_append_right _ (List.mem_singleton_self _)
    · rw [hxdest, BitVec.ofNat_toNat, BitVec.setWidth_eq]
    · exact (hacc.only.andThen (n := [.fab, .obs, .port]) honly (by decide) (by decide)).andThen
        (onlyParts_of_keeps (response_keeps (Keeps.refl [Part.fab].contains (takeDigest u p.val k)) rfl)) (by decide) (by decide)

end Sys2Proof.Machine

/-!
PROOFS. Completions, the coalescing timer, and the ports' resets and links (R50, R343, R393, R394, R404 to R406, R418, R419, R421).
-/
namespace Sys2Proof.Machine

set_option Elab.async false

/-! ### Completions -/

theorem portOf_modCq (s : State) (n m : Nat) (f : Cq → Cq) : portOf (modCq s n m f) n = { portOf s n with cqs := tmod (portOf s n).cqs m {} f } :=
  portOf_modPortOf_self s n fun x => { x with cqs := tmod x.cqs m {} f }

/-- Boundary output is only added to. -/
def OutGrows (s t : State) : Prop := ∃ l, t.out = s.out ++ l

theorem OutGrows.of_eq {s t : State} (h : t.out = s.out) : OutGrows s t := ⟨[], by rw [h, List.append_nil]⟩

theorem OutGrows.trans {s t u : State} (h : OutGrows s t) (h' : OutGrows t u) : OutGrows s u := by
  obtain ⟨l, hl⟩ := h
  obtain ⟨m, hm⟩ := h'
  exact ⟨l ++ m, by rw [hm, hl, List.append_assoc]⟩

theorem msixSend_grows (s : State) (n v : Nat) : OutGrows s (msixSend s n v) := by
  unfold msixSend
  extract_lets x e
  split
  · exact .of_eq rfl
  split
  · exact .of_eq rfl
  split
  · exact ⟨_, rfl⟩
  · exact .of_eq rfl

/-- An interrupt whose vector is not masked is sent with its address and data (R418). -/
theorem msixSend_sends {s : State} {n v : Nat} (hen : (portOf s n).msixEn = true) (hf : (portOf s n).funcMask = false) (hup : portUp s n = true)
    (hv : bitAt (tgetD (portOf s n).msix v (0, 0, 1)).2.2 0 = false) :
    (msixSend s n v).out = s.out ++ [.msix n v (tgetD (portOf s n).msix v (0, 0, 1)).1 (tgetD (portOf s n).msix v (0, 0, 1)).2.1] := by
  unfold msixSend
  extract_lets x e
  rw [if_neg (by simp [x, hen]), if_neg (by simp [x, e, hf, hv]), if_pos hup]
  rfl

theorem cqOf_msixSend (s : State) (n v q : Nat) : cqOf (msixSend s n v) n q = cqOf s n q := by
  obtain ⟨st, pb, h⟩ := msixSend_portOf s n v
  rw [cqOf, h, cqOf]

theorem coalesce_tail (s : State) (n m : Nat) : (cqOf (coalesce s n m) n m).tail = (cqOf s n m).tail := by
  unfold coalesce
  extract_lets x
  split
  · rfl
  split
  · rw [cqOf_msixSend, cqOf_modCq_self]
  · rw [cqOf_modCq_self]

theorem coalesce_grows (s : State) (n m : Nat) : OutGrows s (coalesce s n m) := by
  unfold coalesce
  extract_lets x
  split
  · exact .of_eq rfl
  split
  · exact (OutGrows.of_eq (t := modCq s n m fun x => { x with posted := 0 }) rfl).trans (msixSend_grows ..)
  · exact .of_eq rfl

/-- A request that has its outcome leaves its port and nothing else changes (R406). -/
theorem dropRequest_completing {r : Request} (h : r.stage = .completing) (s : State) (n : Nat) :
    dropRequest s n r = modPortOf s n fun x => { x with reqs := x.reqs.filter (fun y => y.num != r.num) } := by
  unfold dropRequest
  rw [h]

theorem dropRequest_gone {r : Request} (h : r.stage = .completing) (s : State) (n : Nat) : reqOf (dropRequest s n r) n r.num = none := by
  rw [dropRequest_completing h, reqOf, portOf_modPortOf_self]
  refine List.find?_eq_none.mpr fun y hy => ?_
  simpa using (List.mem_filter.mp hy).2

theorem dropRequest_cqOf {r : Request} (h : r.stage = .completing) (s : State) (n m : Nat) : cqOf (dropRequest s n r) n m = cqOf s n m := by
  rw [dropRequest_completing h, cqOf, portOf_modPortOf_self, cqOf]

theorem dropRequest_out {r : Request} (h : r.stage = .completing) (s : State) (n : Nat) : (dropRequest s n r).out = s.out := by
  rw [dropRequest_completing h]
  rfl

/-- The state in which a completion is written, before it is counted towards its interrupt and its request leaves. -/
def completionWritten (s : State) (n : Nat) (r : Request) (o : Outcome) : State :=
  let m := (sqOf s n r.sq).cq
  let x := cqOf s n m
  let u := if o.output.isEmpty then s else emitOut s (.hostWrite n (descOutput r.desc) o.output)
  let u := emitOut u (.hostWrite n (x.base + 64 * x.tail) (completionBytes o (descReqId r.desc) r.sq (sqOf u n r.sq).head x.phase))
  let tail := (x.tail + 1) % x.size
  let u := modCq u n m fun y => { y with tail := tail, phase := if tail = 0 then !y.phase else y.phase }
  modPortOf (portStat u n 1 1) n fun y => { y with status := tinc y.status (statusCodes.idxOf o.status) 1 }

theorem writeCompletion_eq (s : State) (n : Nat) (r : Request) (o : Outcome) :
    writeCompletion s n r o = dropRequest (coalesce (completionWritten s n r o) n (sqOf s n r.sq).cq) n r := rfl

/-- What is written for a completion: the result, where there is one, and the completion entry (R404, R406). -/
def completionWrites (s : State) (n : Nat) (r : Request) (o : Outcome) : List Output :=
  let x := cqOf s n (sqOf s n r.sq).cq
  (if o.output.isEmpty then [] else [.hostWrite n (descOutput r.desc) o.output]) ++
    [.hostWrite n (x.base + 64 * x.tail) (completionBytes o (descReqId r.desc) r.sq (sqOf s n r.sq).head x.phase)]

theorem completionWritten_out (s : State) (n : Nat) (r : Request) (o : Outcome) :
    (completionWritten s n r o).out = s.out ++ completionWrites s n r o := by
  unfold completionWritten
  extract_lets m x u v tail w
  have hu : u.out = s.out ++ (if o.output.isEmpty then [] else [.hostWrite n (descOutput r.desc) o.output]) ∧ u.port = s.port := by
    unfold u
    split
    · exact ⟨(List.append_nil _).symm, rfl⟩
    · exact ⟨rfl, rfl⟩
  obtain ⟨ho, hp⟩ := hu
  have hhead : (sqOf u n r.sq).head = (sqOf s n r.sq).head := by rw [sqOf, portOf_of_ports (congrArg PortState.ports hp), sqOf]
  show u.out ++ [_] = _
  rw [ho, hhead, List.append_assoc]
  rfl

theorem completionWritten_tail (s : State) (n : Nat) (r : Request) (o : Outcome) :
    (cqOf (completionWritten s n r o) n (sqOf s n r.sq).cq).tail =
      ((cqOf s n (sqOf s n r.sq).cq).tail + 1) % (cqOf s n (sqOf s n r.sq).cq).size := by
  unfold completionWritten
  extract_lets m x u v tail w
  rw [cqOf, portOf_modPortOf_self, portStat, portOf_modPortOf_self]
  exact congrArg Cq.tail (cqOf_modCq_self v n m _)

theorem execCompletionPost_completing {s : State} {p : PortId} {num : Nat} {r : Request} (h : reqOf s p.val num = some r) (hst : r.stage = .completing) :
    execCompletionPost p num s =
      if r.orphan then .next (dropRequest (report (portStat s p.val 3 1)
        { cause := 0x74, cls := 2, unit := 0x11, source := portFrontTile p.val, detail := 1 }) p.val r)
      else if dieUp s (16 + p.val) && portUp s p.val && linkOk s p.val && orderOk s p.val r && cqFree (cqOf s p.val (sqOf s p.val r.sq).cq) then
        .next (writeCompletion s p.val r r.out)
      else .next s := by
  simp only [execCompletionPost, h, dueOutcome, hst]

/-- Settles O33: a due completion is written or discarded; the timer sends what the count did not. -/
theorem completionCommandsComplete : Obligations.CompletionCommandsComplete := by
  intro s p
  refine ⟨fun num r hr hst horph hdie hup hlink hord hfree => ?_, fun num r hr hst horph => ?_, fun q hen hirq hposted hcoal => ?_⟩
  · have hexec : exec (.completionPost p num) s = .next (writeCompletion s p.val r r.out) :=
      (execCompletionPost_completing hr hst).trans ((if_neg (by simp [horph])).trans (if_pos (by simp [hdie, hup, hlink, hord, hfree])))
    obtain ⟨l, hl⟩ := coalesce_grows (completionWritten s p.val r r.out) p.val (sqOf s p.val r.sq).cq
    have hnum := num_of_reqOf hr
    refine ⟨_, completionWrites s p.val r r.out ++ l, hexec, ?_, List.mem_append_left _ (List.mem_append_right _ (List.mem_singleton_self _)), fun hne => ?_, ?_, ?_, ?_⟩
    · rw [writeCompletion_eq, dropRequest_out hst, hl, completionWritten_out, List.append_assoc]
    · refine List.mem_append_left _ (List.mem_append_left _ ?_)
      rw [if_neg (by simpa using hne)]
      exact List.mem_singleton_self _
    · rw [writeCompletion_eq, dropRequest_cqOf hst, coalesce_tail, completionWritten_tail]
    · rw [writeCompletion_eq, ← hnum, dropRequest_gone hst]
    · exact onlyParts_of_keeps (writeCompletion_keeps (Keeps.refl _ s) rfl rfl rfl rfl)
  · have hexec : exec (.completionPost p num) s = _ := (execCompletionPost_completing hr hst).trans (if_pos horph)
    have hnum := num_of_reqOf hr
    refine ⟨_, hexec, ?_, ?_, ?_, ?_⟩
    · rw [← hnum, dropRequest_gone hst]
    · rw [dropRequest_completing hst]
      exact reported_of_integ (u := portStat s p.val 3 1) rfl rfl
    · rw [dropRequest_out hst, report_out]
      rfl
    · rw [dropRequest_completing hst]
      exact onlyParts_of_keeps (modPortOf_keeps (report_keeps (portStat_keeps (Keeps.refl _ s) rfl) rfl rfl) (fun _ h => h) rfl)
  · have hexec : exec (.cqInterruptTimer p q) s = .next (msixSend (modCq (timeReaches s ((cqOf s p.val q.val).firstAt + 100 * (cqOf s p.val q.val).coalTime))
        p.val q.val fun x => { x with posted := 0 }) p.val (cqOf s p.val q.val).vec) :=
      if_pos (by simp [hen, hirq, hposted, hcoal])
    refine ⟨_, hexec, ?_, ?_, ?_, fun h1 h2 h3 h4 => ?_⟩
    · rw [cqOf_msixSend, cqOf_modCq_self]
    · rw [(msixSend_keeps (Keeps.refl (allBut .now) _) rfl rfl).rest]
      exact Nat.le_max_right ..
    · exact onlyParts_of_keeps (msixSend_keeps (modCq_keeps (timeReaches_keeps (Keeps.refl _ s) rfl) rfl) rfl rfl)
    · have hport := portOf_modCq (timeReaches s ((cqOf s p.val q.val).firstAt + 100 * (cqOf s p.val q.val).coalTime)) p.val q.val fun x => { x with posted := 0 }
      have hsend := msixSend_sends (v := (cqOf s p.val q.val).vec) ((congrArg Port.msixEn hport).trans h1) ((congrArg Port.funcMask hport).trans h2)
        (by rw [portUp, hport]; exact h3) (by rw [hport]; exact h4)
      rw [hport] at hsend
      exact hsend

/-! ### Resets and links -/

/-- A port may have noted an event and sent an interrupt; the rest of it has not changed. -/
def PortKept (s t : State) (n : Nat) : Prop := ∃ ev st pb, portOf t n = { portOf s n with event := ev, stats := st, pba := pb }

theorem PortKept.of_portOf {s t : State} {n : Nat} (h : portOf t n = portOf s n) : PortKept s t n := ⟨_, _, _, h⟩

theorem PortKept.trans {s t u : State} {n : Nat} (h : PortKept s t n) (h' : PortKept t u n) : PortKept s u n := by
  obtain ⟨_, _, _, h⟩ := h
  obtain ⟨_, _, _, h'⟩ := h'
  exact ⟨_, _, _, h'.trans (by rw [h])⟩

theorem portOf_msixSend_ne (s : State) {n m : Nat} (h : m ≠ n) (v : Nat) : portOf (msixSend s n v) m = portOf s m := by
  unfold msixSend
  extract_lets x e
  split
  · rfl
  split
  · exact portOf_modPortOf_ne s h _
  split
  · exact portOf_modPortOf_ne s h _
  · rfl

theorem portOf_portEvent_ne (s : State) {n m : Nat} (h : m ≠ n) (b : Nat) : portOf (portEvent s n b) m = portOf s m := by
  unfold portEvent
  extract_lets x u
  have hu : portOf u m = portOf s m := portOf_modPortOf_ne s h _
  split
  · rfl
  split
  · exact (portOf_msixSend_ne u h _).trans hu
  · exact hu

theorem portKept_portEvent (s : State) (n b m : Nat) : PortKept s (portEvent s n b) m := by
  by_cases h : m = n
  · exact h ▸ portEvent_portOf s m b
  · exact .of_portOf (portOf_portEvent_ne s h b)

theorem portKept_deviceNote (b s : State) (n : Nat) : PortKept s (deviceNote b s) n := by
  have hloop (l : List Nat) (u : State) : PortKept u (l.foldl (fun s n => portEvent s n 1) u) n := by
    induction l generalizing u with
    | nil => exact .of_portOf rfl
    | cons k l ih => exact (portKept_portEvent u k 1 n).trans (ih _)
  unfold deviceNote
  extract_lets u
  have hu : PortKept s u n := by
    unfold u
    split
    · exact .of_portOf rfl
    · exact .of_portOf rfl
  split
  · exact hu
  · exact hu.trans (hloop _ u)

/-- The requests that outlive their port's reset (R401, R419). -/
def orphans (s : State) (n : Nat) : List Request :=
  ((portOf s n).reqs.filter fun r => !(((portOf s n).reqs.filter fun r => r.stage == .fetched || r.stage == .queued).map (·.num)).contains r.num).map
    fun r => { r with orphan := true }

theorem mem_orphans {s : State} {n : Nat} {r : Request} (h : r ∈ orphans s n) : r.orphan = true ∧ r.stage ≠ .fetched ∧ r.stage ≠ .queued := by
  obtain ⟨x, hx, rfl⟩ := List.mem_map.mp h
  obtain ⟨hmem, hkeep⟩ := List.mem_filter.mp hx
  have hnot : ¬ (x.stage == .fetched || x.stage == .queued) = true := by
    intro hgone
    have : x.num ∈ ((portOf s n).reqs.filter fun r => r.stage == .fetched || r.stage == .queued).map (·.num) :=
      List.mem_map_of_mem (List.mem_filter.mpr ⟨hmem, hgone⟩)
    rw [List.contains_iff_mem.mpr this] at hkeep
    cases hkeep
  refine ⟨rfl, fun h => hnot ?_, fun h => hnot ?_⟩
  · rw [show x.stage = Stage.fetched from h]
    rfl
  · rw [show x.stage = Stage.queued from h]
    rfl

theorem fenceIsland_port (s : State) (n r : Nat) : (fenceIsland s n r).port = s.port := (fenceIsland_keeps (Keeps.refl (allBut .port) s) rfl rfl rfl).rest

theorem fenceIsland_dict (s : State) (n r : Nat) : (fenceIsland s n r).dict = s.dict := (fenceIsland_keeps (Keeps.refl (allBut .dict) s) rfl rfl rfl).rest

/-- What a reset leaves of a port (R419). -/
theorem portOf_resetPort (s : State) (n why : Nat) : portOf (resetPort s n why) n =
    { rate := (portOf s n).rate, width := (portOf s n).width, up := (portOf s n).up && why == 1, perst := (portOf s n).perst || why == 0
      resetGen := (portOf s n).resetGen + 1, reqs := orphans s n, nextReq := (portOf s n).nextReq, hostPend := (portOf s n).hostPend
      nextHost := (portOf s n).nextHost, staging := (portOf s n).staging, stats := (portOf s n).stats, status := (portOf s n).status } := by
  unfold resetPort
  extract_lets a b c d e
  have ha : portOf a n = { portOf s n with reqs := orphans s n } := by
    unfold a orphanRequests
    extract_lets gone u
    rw [portOf_modAdm, portOf_modPortOf_self]
    rfl
  have hb : portOf b n = _ := portOf_modPortOf_self ..
  rw [portOf_report, portOf_of_ports (congrArg PortState.ports (fenceIsland_port d (portFrontTile n) 3))]
  exact hb.trans (by rw [ha])

theorem resetPort_dict (s : State) (n why : Nat) : ∀ e ∈ (resetPort s n why).dict.sessions, e.2.ep ≠ 2 + n := by
  unfold resetPort
  extract_lets a b c d e
  intro x hx
  rw [report_dict, show e.dict = d.dict from fenceIsland_dict d _ 3] at hx
  simpa using (List.mem_filter.mp hx).2

/-- What is left of a port whose reset has been told to the board and the other ports. -/
theorem withDevice_resetPort (s : State) (n why : Nat) : let t := withDevice (fun s => resetPort s n why) s
    (portOf t n).perst = ((portOf s n).perst || why == 0) ∧ (portOf t n).up = ((portOf s n).up && why == 1) ∧ (portOf t n).sqs = [] ∧ (portOf t n).cqs = [] ∧
    (portOf t n).resetGen = (portOf s n).resetGen + 1 ∧ (portOf t n).staging = (portOf s n).staging ∧ (portOf t n).reqs = orphans s n := by
  obtain ⟨ev, st, pb, h⟩ := portKept_deviceNote s (resetPort s n why) n
  rw [portOf_resetPort] at h
  intro t
  rw [show portOf t n = _ from h]
  exact ⟨rfl, rfl, rfl, rfl, rfl, rfl, rfl⟩

theorem withDevice_mem {f : State → State} {s : State} (h : (f s).mem = s.mem) : (withDevice f s).mem = s.mem := (deviceNote_only s (f s) .mem rfl).trans h

theorem resetPort_mem (s : State) (n why : Nat) : (resetPort s n why).mem = s.mem := (resetPort_keeps (Keeps.refl (allBut .mem) s) rfl rfl rfl rfl rfl).rest

theorem aliveSide_port (s : State) (k d g : Nat) : (aliveSide s k d g).port = s.port := (aliveSide_keeps (Keeps.refl (allBut .port) s) rfl rfl).rest

theorem aliveSide_mem (s : State) (k d g : Nat) : (aliveSide s k d g).mem = s.mem := (aliveSide_keeps (Keeps.refl (allBut .mem) s) rfl rfl).rest

/-- A link that has trained is up at its rate and width (R393, R421). -/
theorem execPortLinkUp_trained {s : State} {p : PortId} {rate : BitVec 3} {width : BitVec 5} (hdie : dieUp s (16 + p.val) = true)
    (hfw : (tget s.pow.fw (16 + p.val)).isSome = true) (hlo : 1 ≤ rate.toNat) (hhi : rate.toNat ≤ 5)
    (hw : width = 1 ∨ width = 2 ∨ width = 4 ∨ width = 8 ∨ width = 16) : ∃ v, execPortLinkUp p rate width s = .next (deviceNote s v) ∧
      portOf v p.val = { portOf s p.val with
        up := true, perst := false, d3hot := false, rate := Nat.min rate.toNat (setting s 0x4002 (p.val + 1)), width := width.toNat } ∧ v.mem = s.mem := by
  have hok : (width == 1 || width == 2 || width == 4 || width == 8 || width == 16) = true := by
    simpa only [Bool.or_eq_true, beq_iff_eq, or_assoc] using hw
  unfold execPortLinkUp
  extract_lets n ok
  rw [if_neg (by simp only [ok, n, hdie, hfw, hlo, hhi, hok]; decide)]
  refine ⟨_, rfl, ?_⟩
  dsimp only
  split
  · rw [portOf_modPortOf_self]
    have h := portOf_of_ports (congrArg PortState.ports (aliveSide_port s (islandKey (16 + n) 3) (16 + n) (nextGen (tgetD s.time.bounds (islandKey (16 + n) 3) {}).cgen))) n
    rw [show portOf (modTime (aliveSide s (islandKey (16 + n) 3) (16 + n) (nextGen (tgetD s.time.bounds (islandKey (16 + n) 3) {}).cgen)) _) n = _ from h]
    exact ⟨rfl, aliveSide_mem ..⟩
  · rw [portOf_modPortOf_self]
    exact ⟨rfl, rfl⟩

/-- Settles O34: each reset by what it leaves of its port; the link as it has trained. -/
theorem portResetAndLinkComplete : Obligations.PortResetAndLinkComplete := by
  intro s p hdie
  refine ⟨fun hperst => ?_, fun hup hperst => ?_, fun hup => ?_, fun rate width hfw hlo hhi hwidth => ?_, fun hup => if_pos hup, rfl⟩
  · obtain ⟨h1, h2, h3, h4, h5, h6, -⟩ := withDevice_resetPort s p.val 0
    refine ⟨_, if_neg (by simp [hperst, hdie]), h1.trans (Bool.or_true _), h2.trans (Bool.and_false _), h3, h4, h5, h6, fun e he => ?_,
      withDevice_mem (resetPort_mem ..)⟩
    rw [show (withDevice (fun s => resetPort s p.val 0) s).dict = _ from deviceNote_only s _ .dict rfl] at he
    exact resetPort_dict s p.val 0 e he
  · obtain ⟨h1, h2, h3, h4, h5, h6, h7⟩ := withDevice_resetPort s p.val 1
    exact ⟨_, if_neg (by simp [hup, hperst, hdie]), by rw [h1, hperst]; rfl, by rw [h2, hup]; rfl, h3, h4, h5, h6, fun r hr => mem_orphans (h7 ▸ hr),
      withDevice_mem (resetPort_mem ..)⟩
  · obtain ⟨h1, h2, h3, h4, h5, -⟩ := withDevice_resetPort s p.val 2
    exact ⟨_, if_neg (by simp [hup, hdie]), h2.trans (Bool.and_false _), h1.trans (Bool.or_false _), h3, h4, h5, withDevice_mem (resetPort_mem ..)⟩
  · obtain ⟨v, hv, hport, hmem⟩ := execPortLinkUp_trained hdie hfw hlo hhi hwidth
    obtain ⟨ev, st, pb, h⟩ := portKept_deviceNote s v p.val
    rw [hport] at h
    refine ⟨_, hv, ?_⟩
    rw [h]
    exact ⟨rfl, rfl, rfl, rfl, rfl, rfl, (deviceNote_only s v .mem rfl).trans hmem⟩

end Sys2Proof.Machine

/-!
PROOFS. The admission engine (R46, R48, R142, R143, R342, R347, R436 to R442, R445): the decision, deadlines and kills, windows and lists, starved heads.
-/
namespace Sys2Proof.Machine

set_option Elab.async false

/-! ### Loops and what they keep -/

/-- A relation that every pass of a loop brings about relates the loop's ends. -/
theorem foldl_related {α : Type} {R : State → State → Prop} (refl : ∀ s, R s s) (trans : ∀ {s t u}, R s t → R t u → R s u) {g : State → α → State}
    (hg : ∀ s x, R s (g s x)) (l : List α) (s : State) : R s (l.foldl g s) := by
  induction l generalizing s with
  | nil => exact refl s
  | cons x l ih => exact trans (hg s x) (ih _)

/-- The port's contexts are as they were, and its requests but for what they wait on. -/
def Noted (s t : State) (n : Nat) : Prop :=
  (admOf t n).ctxs = (admOf s n).ctxs ∧
    ∃ g : Request → Request, (portOf t n).reqs = (portOf s n).reqs.map g ∧ ∀ x, (g x).num = x.num ∧ (g x).stage = x.stage

theorem Noted.refl (s : State) (n : Nat) : Noted s s n := ⟨rfl, id, (List.map_id _).symm, fun _ => ⟨rfl, rfl⟩⟩

theorem Noted.trans {s t u : State} {n : Nat} (h : Noted s t n) (h' : Noted t u n) : Noted s u n := by
  obtain ⟨hc, g, hg, hk⟩ := h
  obtain ⟨hc', g', hg', hk'⟩ := h'
  exact ⟨hc'.trans hc, g' ∘ g, by rw [hg', hg, List.map_map], fun x => ⟨(hk' _).1.trans (hk x).1, (hk' _).2.trans (hk x).2⟩⟩

theorem noted_modReq (s : State) (n num : Nat) {f : Request → Request} (hf : ∀ x, (f x).num = x.num ∧ (f x).stage = x.stage) : Noted s (modReq s n num f) n := by
  refine ⟨rfl, fun r => if r.num = num then f r else r, by rw [modReq, portOf_modPortOf_self], fun x => ?_⟩
  dsimp only
  split
  · exact hf x
  · exact ⟨rfl, rfl⟩

theorem noted_aqCount (s : State) (n a i : Nat) : Noted s (aqCount s n a i) n :=
  ⟨by rw [aqCount, admOf_modAdm_self], id, (List.map_id _).symm, fun _ => ⟨rfl, rfl⟩⟩

theorem noted_noteWait (s : State) (n a : Nat) (r : Request) (i : Nat) : Noted s (noteWait s n a r i) n := by
  unfold noteWait
  split
  · exact .refl s n
  · exact (noted_aqCount s n a i).trans (noted_modReq _ n r.num fun _ => ⟨rfl, rfl⟩)

theorem noted_noteWaits (s : State) (n : Nat) : Noted s (noteWaits s n) n := by
  refine foldl_related (R := fun s t => Noted s t n) (fun s => .refl s n) (fun h h' => h.trans h') (fun s a => ?_) _ s
  split
  · exact .refl s n
  next r _ =>
  split
  · exact .refl s n
  · extract_lets u v
    have hu : Noted s u n := by
      unfold u
      split
      · exact (noted_noteWait s n a r _).trans (noted_modReq _ n r.num fun _ => ⟨rfl, rfl⟩)
      · exact noted_modReq s n r.num fun _ => ⟨rfl, rfl⟩
    have hv : Noted s v n := by
      unfold v
      split
      · exact hu
      · exact hu.trans (noted_noteWait u n a r 7)
    split
    · exact hv.trans (noted_noteWait v n a r 8)
    · exact hv

theorem Noted.ctxOf {s t : State} {n : Nat} (h : Noted s t n) (c : Nat) : ctxOf t n c = ctxOf s n c := by rw [Machine.ctxOf, h.1, Machine.ctxOf]

theorem Noted.mem {s t : State} {n : Nat} (h : Noted s t n) {x : Request} (hx : x ∈ (portOf s n).reqs) :
    ∃ y ∈ (portOf t n).reqs, y.num = x.num ∧ y.stage = x.stage := by
  obtain ⟨-, g, hg, hk⟩ := h
  exact ⟨g x, hg ▸ List.mem_map_of_mem hx, hk x⟩

/-! ### A request that leaves its queue -/

theorem reqOf_of_headOf {s : State} {n a : Nat} {r : Request} (h : headOf s n a = some r) : reqOf s n r.num = some r := by
  obtain ⟨num, -, hr⟩ := Option.bind_eq_some_iff.mp h
  rwa [num_of_reqOf hr]

theorem aqOf_modAq_self (s : State) (n a : Nat) (f : AdmQueue → AdmQueue) : aqOf (modAq s n a f) n a = f (aqOf s n a) := by
  rw [aqOf, modAq, admOf_modAdm_self]
  exact tgetD_tmod_self (admOf s n).queues a {} f

theorem ctxs_modAq (s : State) (n a : Nat) (f : AdmQueue → AdmQueue) : (admOf (modAq s n a f) n).ctxs = (admOf s n).ctxs := by rw [modAq, admOf_modAdm_self]

/-- A request that leaves its queue leaves the port's requests and contexts as they are (R433, R436, R438). -/
theorem dequeue_keepsPort (s : State) (n a pass : Nat) (r : Request) : (dequeue s n a pass r).port.ports = s.port.ports ∧
    (admOf (dequeue s n a pass r) n).ctxs = (admOf s n).ctxs := by
  have hm : (moveCursor s n a r).port.ports = s.port.ports ∧ (admOf (moveCursor s n a r) n).ctxs = (admOf s n).ctxs := by
    unfold moveCursor
    extract_lets l
    split
    · exact ⟨rfl, rfl⟩
    · split
      · exact ⟨rfl, rfl⟩
      · exact ⟨rfl, ctxs_modAq ..⟩
  unfold dequeue
  extract_lets u cfg k debited v
  refine ⟨hm.1, ?_⟩
  rw [aqCount, admOf_modAdm_self]
  exact (ctxs_modAq ..).trans hm.2

/-- The state in which the chosen head has left its queue. -/
def headTaken (s : State) (n a pass : Nat) (r : Request) : State :=
  modAdm (dequeue s n a pass r) n fun y => { y with decidedAt := some (dequeue s n a pass r).now }

theorem headTaken_only (s : State) (n a pass : Nat) (r : Request) : OnlyParts [.port] s (headTaken s n a pass r) :=
  onlyParts_of_keeps (modAdm_keeps (dequeue_keeps (Keeps.refl _ s) rfl) rfl)

theorem headTaken_keepsPort (s : State) (n a pass : Nat) (r : Request) : (headTaken s n a pass r).port.ports = s.port.ports ∧
    (admOf (headTaken s n a pass r) n).ctxs = (admOf s n).ctxs := by
  obtain ⟨hp, hc⟩ := dequeue_keepsPort s n a pass r
  exact ⟨hp, by rw [headTaken, admOf_modAdm_self, hc]⟩

theorem admitChosen_head {s : State} {n a : Nat} {r : Request} (h : headOf s n a = some r) (pass : Nat) : admitChosen s n a pass =
    noteWaits (if r.scoring then admitScoring (headTaken s n a pass r) n a r
      else modReq (headTaken s n a pass r) n r.num fun z => { z with stage := .executing }) n := by
  unfold admitChosen
  rw [h]
  rfl

/-- A service request executes (R410). -/
theorem admitChosen_service {s : State} {n a : Nat} {r : Request} (h : headOf s n a = some r) (hs : r.scoring = false) (pass : Nat) :
    ∃ x ∈ (portOf (admitChosen s n a pass) n).reqs, x.num = r.num ∧ x.stage = .executing := by
  rw [admitChosen_head h, if_neg (by simp [hs])]
  have hmem : { r with stage := .executing } ∈ (portOf (modReq (headTaken s n a pass r) n r.num fun z => { z with stage := .executing }) n).reqs := by
    rw [modReq, portOf_modPortOf_self, portOf_of_ports (headTaken_keepsPort s n a pass r).1]
    exact List.mem_map.mpr ⟨r, List.mem_of_find?_eq_some (reqOf_of_headOf h), if_pos rfl⟩
  exact (noted_noteWaits _ n).mem hmem

/-! ### A context's admission -/

/-- What an admission fixes of a context. -/
def Context.admission (x : Context) : Nat × Nat × Nat × Nat × Nat × Nat × Tick × Tick :=
  (x.state, x.req, x.partition, x.slot, x.requestId, x.buf, x.deadline, x.admitTick)

theorem send_foldl_port {α : Type} (node : Nat) (o : Initiator) (f : α → Packet) (l : List α) (s : State) :
    (l.foldl (fun s x => send s node o (f x)) s).port = s.port :=
  foldl_same State.port (fun _ _ => send_port ..) l s

theorem deliveryPost_admission (s : State) (p c : Nat) : (ctxOf (deliveryPost s p c) p c).admission = (ctxOf s p c).admission := by
  unfold deliveryPost
  extract_lets x len u
  rw [ctxOf_of_port (congrArg PortState.adm (send_port ..)), ctxOf_modCtx_self]
  rfl

/-- The delivery of its input leaves what its admission fixed of a context (R441, R442). -/
theorem deliverInput_admission (s : State) (p c : Nat) : (ctxOf (deliverInput s p c) p c).admission = (ctxOf s p c).admission := by
  unfold deliverInput
  extract_lets x base
  split
  · rfl
  extract_lets data cuts bad u v w
  have hu : (ctxOf u p c).admission = (ctxOf s p c).admission := by
    rw [ctxOf_modCtx_self]
    rfl
  have hv : v.port = u.port := by
    unfold v
    split
    · exact report_port ..
    · rfl
  have hw : w.port = u.port := (foldl_same State.port (fun _ _ => send_port ..) _ v).trans hv
  have hctx : (ctxOf w p c).admission = (ctxOf s p c).admission := by rw [ctxOf_of_port (congrArg PortState.adm hw), hu]
  split
  · rw [deliveryPost_admission, hctx]
  · exact hctx

theorem freeCtx_congr {s t : State} {n : Nat} (h : (admOf t n).ctxs = (admOf s n).ctxs) : freeCtx t n = freeCtx s n := by
  simp only [freeCtx, ctxOf, h]

theorem portBank_congr {s t : State} (h : t.ep = s.ep) (n : Nat) : portBank t n = portBank s n := by
  have he : tileEpoch t (admissionTile n) = tileEpoch s (admissionTile n) := by rw [tileEpoch, h, tileEpoch]
  have hb (e : Nat) : bankOfEpoch t e = bankOfEpoch s e := by
    unfold bankOfEpoch
    rw [h]
  rw [portBank, tileBank, he, hb, h, portBank, tileBank]

theorem freeBuf_congr {s t : State} {n : Nat} (h : (admOf t n).ctxs = (admOf s n).ctxs) (hep : t.ep = s.ep) (a : Nat) : freeBuf t n a = freeBuf s n a := by
  simp only [freeBuf, deliveryOf, h, portBank_congr hep]

theorem assignNumber_port (s : State) (n : Nat) : (assignNumber s n).2.2.port = s.port := (assignNumber_keeps (Keeps.refl (allBut .port) s) rfl rfl).rest
theorem assignNumber_ep (s : State) (n : Nat) : (assignNumber s n).2.2.ep = s.ep := (assignNumber_keeps (Keeps.refl (allBut .ep) s) rfl rfl).rest
theorem assignNumber_dict (s : State) (n : Nat) : (assignNumber s n).2.2.dict = s.dict := (assignNumber_keeps (Keeps.refl (allBut .dict) s) rfl rfl).rest

/-- The tick of an admission: ticks of a port rise strictly (R46). -/
def admissionTick (s : State) (n : Nat) : Tick := match (admOf s n).lastAdmit with | some l => Nat.max s.now (l + 1) | none => s.now

/-- An admitted context is LIVE with its request's identity and its deadline (R46, R440 to R442). -/
theorem admitScoring_admission {s : State} {n a c b : Nat} {r : Request} (hc : freeCtx s n = some c) (hb : freeBuf s n a = some b) :
    ∃ t : Tick, (ctxOf (admitScoring s n a r) n c).admission =
      (1, r.num, r.partition, r.slot, descReqId r.desc, b, t + 1000 * setting s 0x3460 (r.partition + 1), t) := by
  unfold admitScoring
  rw [hc, hb]
  dsimp only
  have hset := setting_congr (s := s) (t := (assignNumber (advanceTo s (admissionTick s n)) n).2.2)
    (congrArg Epochs.cur (assignNumber_ep (advanceTo s (admissionTick s n)) n))
    (congrArg DictState.rw (assignNumber_dict (advanceTo s (admissionTick s n)) n)) 0x3460 (r.partition + 1)
  refine ⟨admissionTick s n, (deliverInput_admission ..).trans ?_⟩
  rw [ctxOf_ctxEvent, ctxOf, admOf_modAdm_self]
  refine (congrArg Context.admission (ctxOf_modCtx_self ..)).trans ?_
  exact congrArg (fun v => (1, r.num, r.partition, r.slot, descReqId r.desc, b, admissionTick s n + 1000 * v, admissionTick s n)) hset

/-- What a decision leaves of the head that it admits (R440). -/
theorem decideOn_admits {s d : State} {n a pass : Nat} (h1 : (decideNow s n).1 = some (a, pass)) (h2 : (decideNow s n).2 = d) :
    decideOn s n = admitChosen d n a pass := by
  unfold decideOn
  extract_lets e
  rw [show e.1 = _ from h1, show e.2 = _ from h2]

theorem admitChosen_scoring {s : State} {n a c b : Nat} {r : Request} (h : headOf s n a = some r) (hs : r.scoring = true) (hc : freeCtx s n = some c)
    (hb : freeBuf s n a = some b) (pass : Nat) : ∃ t : Tick, (ctxOf (admitChosen s n a pass) n c).admission =
      (1, r.num, r.partition, r.slot, descReqId r.desc, b, t + 1000 * setting s 0x3460 (r.partition + 1), t) := by
  obtain ⟨-, hctxs⟩ := headTaken_keepsPort s n a pass r
  have honly := headTaken_only s n a pass r
  obtain ⟨t, ht⟩ := admitScoring_admission (a := a) (r := r) ((freeCtx_congr hctxs).trans hc) ((freeBuf_congr hctxs (honly .ep rfl) a).trans hb)
  rw [setting_congr (congrArg Epochs.cur (honly .ep rfl)) (congrArg DictState.rw (honly .dict rfl))] at ht
  rw [admitChosen_head h, if_pos hs, (noted_noteWaits _ n).ctxOf]
  exact ⟨t, ht⟩

/-! ### Kills -/

/-- A KILL that is not answered goes again (R143). -/
theorem killRepeat_ends {s : State} {p : PortId} {c : CtxId} {v : VatId} (h : (ctxOf s p.val c.val).kills.contains v.val = true) :
    ∃ t, exec (.killRepeat p c v) s = .next t ∧ (ctxOf s p.val c.val).killLast + 2000 ≤ t.now ∧ (ctxOf t p.val c.val).killLast = t.now ∧
      KillWaits t p.val (ctxTag p.val c.val (ctxOf s p.val c.val).gen) v.val ∧ OnlyParts [.fab, .now, .port] s t := by
  refine ⟨_, if_pos h, Nat.le_max_right .., ?_, killWaits_sendKill _ _ _ _ (ctxTag_lt ..),
    onlyParts_of_keeps (sendKill_keeps (modCtx_keeps (timeReaches_keeps (Keeps.refl _ s) rfl) rfl) rfl)⟩
  rw [sendKill, ctxOf_of_port (congrArg PortState.adm (send_port ..)), ctxOf_modCtx_self]
  rfl

theorem killAnswered_kills (s : State) (p c d : Nat) : (ctxOf (killAnswered s p c d) p c).kills.contains d = false := by
  unfold killAnswered
  extract_lets u x
  have hu : (ctxOf u p c).kills.contains d = false := by
    rw [ctxOf_modCtx_self]
    simp
  split
  · unfold freeContext
    extract_lets y v
    rw [ctxOf_of_port (congrArg PortState.adm (event_port ..)), ctxOf_modCtx_self]
    rfl
  · unfold killSettle
    extract_lets y
    split
    · rw [ctxOf_ctxEvent, ctxOf_modCtx_self]
      exact hu
    · exact hu

theorem killAnswered_only (s : State) (p c d : Nat) : OnlyParts [.obs, .port] s (killAnswered s p c d) :=
  onlyParts_of_keeps (killAnswered_keeps (Keeps.refl _ s) rfl rfl)

theorem report_failed (s : State) (r : Report) : (report s r).integ.failed = s.integ.failed := by
  obtain ⟨_, _, _, _, h⟩ := report_integ s r
  rw [h]

/-- A failed partition is marked, and no report is made of it (R345). -/
theorem failPartition_integ (s : State) (p c : Nat) : ∃ f, (failPartition s p c).integ = { s.integ with failed := f } := by
  unfold failPartition
  split
  · exact ⟨_, rfl⟩
  · refine ⟨tput s.integ.failed p c, ?_⟩
    exact (partitionNote_keeps (Keeps.refl (allBut .integ) (modInteg s fun g => { g with failed := tput g.failed p c })) rfl rfl).rest

theorem Reported.of_failed {s u t : State} {c k : Nat} (h : Reported u t c k) (hu : ∃ f, u.integ = { s.integ with failed := f }) : Reported s t c k := by
  obtain ⟨f, hf⟩ := hu
  simpa only [Reported, hf] using h

/-- The state in which a vat that answers no KILL is given up (R347). -/
def killGivenUp (s : State) (p c d : Nat) : State :=
  let x := ctxOf s p c
  let u := timeReaches s (x.killAt + 1000000)
  let u := failPartition u x.partition 0x62
  report u
    { cause := 0x62, cls := 3, unit := 0x12, source := admissionTile p, partition := some x.partition, detail := d, tag := some (ctxTag p c x.gen) }

theorem execKillLost_waiting {s : State} {p : PortId} {c : CtxId} {v : VatId} (h : (ctxOf s p.val c.val).kills.contains v.val = true) :
    ∃ u, execKillLost p c v s = .next (killAnswered u p.val c.val v.val) ∧ u.now = (killGivenUp s p.val c.val v.val).now ∧
      u.integ = (killGivenUp s p.val c.val v.val).integ := by
  unfold execKillLost
  extract_lets x u v w z
  refine ⟨z, if_pos h, ?_⟩
  unfold z
  split
  · exact ⟨rfl, rfl⟩
  · exact ⟨rfl, rfl⟩

theorem killGivenUp_ends (s : State) (p c d : Nat) : (ctxOf s p c).killAt + 1000000 ≤ (killGivenUp s p c d).now ∧
    ((ctxOf s p c).partition ≠ 0 → (tget (killGivenUp s p c d).integ.failed (ctxOf s p c).partition).isSome = true) ∧
    Reported s (killGivenUp s p c d) 0x62 3 := by
  unfold killGivenUp
  extract_lets x u v
  refine ⟨?_, fun h => ?_, ?_⟩
  · rw [report_now, (failPartition_keeps (Keeps.refl (allBut .now) u) rfl rfl rfl).rest]
    exact Nat.le_max_right ..
  · rw [report_failed]
    exact failPartition_failed u h 0x62
  · exact Reported.of_failed (report_reported v _) (failPartition_integ u x.partition 0x62)

/-! ### The gate list -/

/-- A loop of refusals with one status answers every request of its list. -/
theorem answered_foldl_refused {n st : Nat} {g : State → Request → State}
    (hg : ∀ s r, ∃ u d, g s r = refuseReq u n r.num st d ∧ portOf u n = portOf s n) (l : List Request) (s : State) {m : Nat}
    (h : Answered s n m st ∨ ((reqOf s n m).isSome = true ∧ ∃ r ∈ l, r.num = m)) : Answered (l.foldl g s) n m st := by
  induction l generalizing s with
  | nil => exact h.resolve_right (by simp)
  | cons x l ih =>
    refine ih _ ?_
    obtain ⟨u, d, hgx, hport⟩ := hg s x
    rw [hgx]
    rcases h with h | ⟨hs, r, hr, rfl⟩
    · refine .inl (Answered.refuseReq (s := u) ?_ x.num d)
      rwa [Answered, reqOf_of_portOf hport]
    · have hu : (reqOf u n r.num).isSome = true := by rwa [reqOf_of_portOf hport]
      rcases List.mem_cons.mp hr with rfl | hr
      · exact .inl (answered_refuseReq hu st d)
      · exact .inr ⟨by rw [reqOf_refuseReq, Option.isSome_map]; exact hu, r, hr, rfl⟩

/-- What the gate list in force at an engine rests on besides its bank. -/
def Admission.lists (x : Admission) : Option Tick × Option Bytes × Tick := (x.switchAt, x.oldList, x.listFrom)

theorem refuseReq_lists (s : State) (n num st d : Nat) : (admOf (refuseReq s n num st d) n).lists = (admOf s n).lists := by
  have h : (refuseReq s n num st d).port.adm = (modAdm s n fun x =>
    { x with queues := x.queues.map (fun e => (e.1, { e.2 with items := e.2.items.filter (· != num) })) }).port.adm := rfl
  rw [admOf_of_port h, admOf_modAdm_self]
  rfl

theorem aqCount_lists (s : State) (n a i : Nat) : (admOf (aqCount s n a i) n).lists = (admOf s n).lists := by
  rw [aqCount, admOf_modAdm_self]
  rfl

/-- The state in which the new gate list is in force (R445). -/
def listSwitched (s : State) (n : Nat) (w : Tick) : State :=
  modAdm (timeReaches s w) n fun x => { x with oldList := none, switchAt := none, listFrom := w }

/-- The queued requests that no window of the list in force lets in (R437). -/
def unadmittable (s : State) (n : Nat) : List Request :=
  (portOf s n).reqs.filter fun r => r.stage == .queued && windowRefused s n r.aq r.dur (gateList s n)

/-- They are refused. -/
def unadmittableRefused (s : State) (n : Nat) : State := (unadmittable s n).foldl (fun s r => refuseReq (aqCount s n r.aq 5) n r.num 0x0112 0) s

theorem execGateListSwitch_due {s : State} {p : PortId} {w : Tick} (h : (admOf s p.val).switchAt = some w) : ∃ t, execGateListSwitch p s = .next t ∧
    t.now = (unadmittableRefused (listSwitched s p.val w) p.val).now ∧ t.port = (unadmittableRefused (listSwitched s p.val w) p.val).port ∧
    t.ep = (unadmittableRefused (listSwitched s p.val w) p.val).ep := by
  unfold execGateListSwitch
  extract_lets n
  rw [show (admOf s n).switchAt = _ from h]
  refine ⟨_, rfl, ?_⟩
  split
  · exact ⟨rfl, rfl, rfl⟩
  · exact ⟨report_now .., report_port .., report_ep ..⟩

theorem unadmittableRefused_lists (s : State) (n : Nat) : (admOf (unadmittableRefused s n) n).lists = (admOf s n).lists := by
  have hstep (t : State) (r : Request) : (admOf (refuseReq (aqCount t n r.aq 5) n r.num 0x0112 0) n).lists = (admOf t n).lists :=
    (refuseReq_lists (aqCount t n r.aq 5) n r.num 0x0112 0).trans (aqCount_lists t n r.aq 5)
  unfold unadmittableRefused
  generalize unadmittable s n = l
  induction l generalizing s with
  | nil => rfl
  | cons r l ih => exact (ih _).trans (hstep s r)

theorem unadmittableRefused_only (s : State) (n : Nat) : OnlyParts [.port] s (unadmittableRefused s n) :=
  have hstep (u : State) (r : Request) (hu : Keeps ⟨[Part.port].contains, s⟩ u) : Keeps ⟨[Part.port].contains, s⟩ (refuseReq (aqCount u n r.aq 5) n r.num 0x0112 0) :=
    refuseReq_keeps (aqCount_keeps hu rfl) rfl
  onlyParts_of_keeps (keeps_foldl hstep _ (Keeps.refl _ s))

theorem gateList_congr {s t : State} {n : Nat} (ha : (admOf t n).lists = (admOf s n).lists) (hn : t.now = s.now) (hep : t.ep = s.ep) :
    gateList t n = gateList s n := by
  obtain ⟨h1, h2, -⟩ : (admOf t n).switchAt = (admOf s n).switchAt ∧ (admOf t n).oldList = (admOf s n).oldList ∧
    (admOf t n).listFrom = (admOf s n).listFrom := by simpa only [Admission.lists, Prod.mk.injEq] using ha
  unfold gateList
  dsimp only
  rw [h1, h2, hn, portBank_congr hep]


theorem windowRefused_congr {s t : State} (hep : t.ep = s.ep) (n a d : Nat) (l : Bytes) : windowRefused t n a d l = windowRefused s n a d l := by
  rw [windowRefused, aqConfig, portBank_congr hep, windowRefused, aqConfig]

theorem gateWindowOpen_ends {s : State} {p : PortId} {a : AqId} {w : Nat} (hw : nextOpen s p.val a.val = some w) :
    exec (.gateWindowOpen p a) s = .next (modAq (timeReaches s w) p.val a.val fun q => { q with win := some w, cur := w, first := true }) := by
  show execGateWindowOpen p a s = _
  unfold execGateWindowOpen
  rw [hw]

/-- The requests that the new list does not let in are refused at its tick (R437, R445). -/
theorem gateListSwitch_ends {s : State} {p : PortId} {w : Tick} (hw : (admOf s p.val).switchAt = some w) : ∃ t, exec (.gateListSwitch p) s = .next t ∧
    w ≤ t.now ∧ (admOf t p.val).lists = (none, none, w) ∧ ∀ r ∈ (portOf s p.val).reqs, r.stage = .queued →
      windowRefused t p.val r.aq r.dur (gateList t p.val) = true → Answered t p.val r.num 0x0112 := by
  obtain ⟨t, hexec, hnow, hport, hep⟩ := execGateListSwitch_due hw
  have honly := unadmittableRefused_only (listSwitched s p.val w) p.val
  have hnow' : t.now = (listSwitched s p.val w).now := hnow.trans (honly .now rfl)
  have hep' : t.ep = (listSwitched s p.val w).ep := hep.trans (honly .ep rfl)
  have hlists : (admOf t p.val).lists = (admOf (listSwitched s p.val w) p.val).lists := by
    rw [admOf_of_port (congrArg PortState.adm hport), unadmittableRefused_lists]
  refine ⟨t, hexec, ?_, ?_, fun r hr hq hwin => ?_⟩
  · rw [hnow']
    exact Nat.le_max_right ..
  · rw [hlists, listSwitched, admOf_modAdm_self]
    rfl
  · rw [windowRefused_congr hep', gateList_congr hlists hnow' hep'] at hwin
    have hmem : r ∈ unadmittable (listSwitched s p.val w) p.val := List.mem_filter.mpr ⟨hr, by rw [hq, hwin]; rfl⟩
    have hstep (u : State) (r : Request) : ∃ v d, refuseReq (aqCount u p.val r.aq 5) p.val r.num 0x0112 0 = refuseReq v p.val r.num 0x0112 d ∧
        portOf v p.val = portOf u p.val := ⟨aqCount u p.val r.aq 5, 0, rfl, portOf_modAdm ..⟩
    have hans : Answered (unadmittableRefused (listSwitched s p.val w) p.val) p.val r.num 0x0112 :=
      answered_foldl_refused hstep (unadmittable (listSwitched s p.val w) p.val) (listSwitched s p.val w)
        (.inr ⟨reqOf_isSome_of_mem (s := listSwitched s p.val w) hr, r, hmem, rfl⟩)
    exact hans.of_port hport

/-- The state in which a starved head is marked (R439). -/
def headMarked (s : State) (n num : Nat) (w : Tick) : State := modReq (timeReaches s (w + 1000000)) n num fun x => { x with starved := true }

theorem headStarved_ends {s : State} {p : PortId} {a : AqId} {r : Request} {w : Tick} (hr : headOf s p.val a.val = some r) (hw : r.headSince = some w)
    (hst : r.starved = false) : exec (.headStarved p a) s = .next (report (headMarked s p.val r.num w)
      { cause := 0x7A, cls := 1, unit := 0x12, source := admissionTile p.val, partition := some r.partition, detail := a.val }) := by
  show execHeadStarved p a s = _
  unfold execHeadStarved
  extract_lets n
  rw [show headOf s n a.val = some r from hr]
  dsimp only
  rw [hw]
  exact if_neg (by rw [hst]; decide)

theorem headMarked_only (s : State) (n num : Nat) (w : Tick) : OnlyParts [.now, .port] s (headMarked s n num w) :=
  onlyParts_of_keeps (modReq_keeps (timeReaches_keeps (Keeps.refl _ s) rfl) rfl)

theorem headMarked_mem {s : State} {n : Nat} {r : Request} (h : reqOf s n r.num = some r) (w : Tick) :
    ∃ x ∈ (portOf (headMarked s n r.num w) n).reqs, x.num = r.num ∧ x.starved = true := by
  rw [headMarked, modReq, portOf_modPortOf_self]
  exact ⟨{ r with starved := true }, List.mem_map.mpr ⟨r, List.mem_of_find?_eq_some h, if_pos rfl⟩, rfl, rfl⟩

theorem admissionDecision_ends {s : State} {p : PortId} {a pass : Nat} {d : State} (hadm : admitting s p.val = true) (hdie : dieUp s (16 + p.val) = true)
    (h1 : (decideNow (refuseQueued (decisionTick s p.val) p.val) p.val).1 = some (a, pass))
    (h2 : (decideNow (refuseQueued (decisionTick s p.val) p.val) p.val).2 = d) :
    exec (.admissionDecision p) s = .next (admitChosen d p.val a pass) ∧ ∀ i k, setting d i k = setting s i k := by
  constructor
  · show execAdmissionDecision p s = _
    unfold execAdmissionDecision
    extract_lets n
    rw [if_neg (by simp [n, hadm, hdie]), decideOn_admits h1 h2]
  · intro i k
    rw [← h2]
    refine setting_congr (congrArg Epochs.cur ?_) (congrArg DictState.rw ?_) i k
    · exact (decideNow_keeps (refuseQueued_keeps (decisionTick_keeps (Keeps.refl (allBut .ep) s) rfl) rfl) rfl).rest
    · exact (decideNow_keeps (refuseQueued_keeps (decisionTick_keeps (Keeps.refl (allBut .dict) s) rfl) rfl) rfl).rest

/-- Settles O35: the decision by its head, a kill by what it answers, a window, a list and a starved head by their ticks. -/
theorem admissionCommandsComplete : Obligations.AdmissionCommandsComplete := by
  intro s p
  refine ⟨fun a pass u d r hadm hdie hu h1 h2 hr => ?_, fun c h1 => ?_, fun c v hk => ⟨?_, ?_⟩, fun a w hw => ?_, fun w hw => ?_, fun a r w hr hw hst => ?_⟩
  · subst hu
    obtain ⟨hexec, hset⟩ := admissionDecision_ends hadm hdie h1 h2
    refine ⟨_, hexec, exec_same hexec .mem, fun hs => admitChosen_service hr hs pass, fun c b hs hc hb => ?_⟩
    obtain ⟨t, ht⟩ := admitChosen_scoring hr hs hc hb pass
    simp only [Context.admission, Prod.mk.injEq] at ht
    obtain ⟨e1, e2, e3, e4, e5, e6, e7, e8⟩ := ht
    exact ⟨e1, e2, e3, e4, e5, e6, by rw [e7, e8, hset]⟩
  · have hexec : exec (.contextDeadline p c) s = .next (enterKilling (timeReaches s (ctxOf s p.val c.val).deadline) p.val c.val 0x10) := if_pos h1
    obtain ⟨hst, hf, hd⟩ := enterKilling_ctx (s := timeReaches s (ctxOf s p.val c.val).deadline) h1 0x10
    refine ⟨_, hexec, ?_, hst, hf, hd, fun d hd hup => enterKilling_kills (s := timeReaches s (ctxOf s p.val c.val).deadline) h1 0x10 hd hup⟩
    rw [enterKilling_only _ _ _ _ .now rfl]
    exact Nat.le_max_right ..
  · obtain ⟨t, hexec, hnow, hlast, ⟨o, ho, hop, hdest, -⟩, honly⟩ := killRepeat_ends hk
    exact ⟨t, o, hexec, hnow, hlast, ho, hop, hdest, honly⟩
  · obtain ⟨u, hexec, hnow, hinteg⟩ := execKillLost_waiting hk
    obtain ⟨e1, e2, e3⟩ := killGivenUp_ends s p.val c.val v.val
    have honly := killAnswered_only u p.val c.val v.val
    refine ⟨_, hexec, ?_, killAnswered_kills .., fun hp => ?_, e3.congr rfl ((honly .integ rfl).trans hinteg)⟩
    · rw [honly .now rfl, hnow]
      exact e1
    · rw [honly .integ rfl, hinteg]
      exact e2 hp
  · have haq := aqOf_modAq_self (timeReaches s w) p.val a.val fun q => { q with win := some w, cur := w, first := true }
    refine ⟨_, gateWindowOpen_ends hw, Nat.le_max_right .., ?_, ?_, ?_, onlyParts_of_keeps (modAq_keeps (timeReaches_keeps (Keeps.refl _ s) rfl) rfl)⟩
    · rw [haq]
    · rw [haq]
    · rw [haq]
      rfl
  · obtain ⟨t, hexec, hnow, hlists, hans⟩ := gateListSwitch_ends hw
    obtain ⟨e1, e2, e3⟩ : (admOf t p.val).switchAt = none ∧ (admOf t p.val).oldList = none ∧ (admOf t p.val).listFrom = w := by
      simpa only [Admission.lists, Prod.mk.injEq] using hlists
    exact ⟨t, hexec, hnow, e1, e2, e3, hans, OnlyParts.widen (fun q hq => exec_same hexec q hq) (show [Part.now, .integ, .port, .obs] ⊆ [Part.integ, .now, .obs, .port] by decide)⟩
  · have hmark := headMarked_only s p.val r.num w
    refine ⟨_, headStarved_ends hr hw hst, ?_, ?_, reported_of_integ (u := headMarked s p.val r.num w) rfl (hmark .integ rfl), ?_⟩
    · rw [report_now]
      exact Nat.le_max_right ..
    · rw [portOf_report]
      exact headMarked_mem (reqOf_of_headOf hr) w
    · exact hmark.andThen (onlyParts_of_keeps (report_keeps (Keeps.refl [Part.integ, .obs].contains (headMarked s p.val r.num w)) rfl rfl)) (by decide) (by decide)

end Sys2Proof.Machine

/-!
PROOFS. The journal (R498 to R502, R508): what chaining can change of a ledger engine, records, seals and the tail page.
-/
namespace Sys2Proof.Machine

set_option Elab.async false

/-! ### What chaining can change -/

/-- The chain has gone on: what was chained stands. -/
def Chain.Grown (c d : Chain) : Prop := c.chained ≤ d.chained ∧ ∀ q < c.chained, tget d.recs q = tget c.recs q

theorem Chain.Grown.refl (c : Chain) : Chain.Grown c c := ⟨Nat.le_refl _, fun _ _ => rfl⟩

theorem Chain.Grown.trans {c d e : Chain} (h : Chain.Grown c d) (h' : Chain.Grown d e) : Chain.Grown c e :=
  ⟨Nat.le_trans h.1 h'.1, fun q hq => (h'.2 q (Nat.lt_of_lt_of_le hq h.1)).trans (h.2 q hq)⟩

/-- The engine has at most chained, queued pages and counted (R500, R502). -/
def JournalMoved (s t : State) (k : Nat) : Prop :=
  ∃ c j n, ledOf t k = { ledOf s k with chain := c, jobs := j, counts := n } ∧ Chain.Grown (ledOf s k).chain c

theorem JournalMoved.refl (s : State) (k : Nat) : JournalMoved s s k := ⟨_, _, _, rfl, .refl _⟩

theorem JournalMoved.trans {s t u : State} {k : Nat} (h : JournalMoved s t k) (h' : JournalMoved t u k) : JournalMoved s u k := by
  obtain ⟨c, j, n, hl, hg⟩ := h
  obtain ⟨c', j', n', hl', hg'⟩ := h'
  rw [hl] at hg'
  exact ⟨c', j', n', by rw [hl', hl], hg.trans hg'⟩

theorem JournalMoved.of_led {s t : State} (h : t.led = s.led) (k : Nat) : JournalMoved s t k := by
  have hl : ledOf t k = ledOf s k := by rw [ledOf, h, ledOf]
  rw [JournalMoved, hl]
  exact JournalMoved.refl s k

theorem journalMoved_modLedger (s : State) (k : Nat) {f : Ledger → Ledger}
    (hf : ∀ l, ∃ c j n, f l = { l with chain := c, jobs := j, counts := n } ∧ Chain.Grown l.chain c) : JournalMoved s (modLedger s k f) k := by
  rw [JournalMoved, ledOf_modLedger_self]
  exact hf _

theorem journalMoved_modChain (s : State) (k : Nat) {f : Chain → Chain} (hf : Chain.Grown (chainOf s k) (f (chainOf s k))) : JournalMoved s (modChain s k f) k := by
  rw [JournalMoved, modChain, ledOf_modLedger_self]
  exact ⟨_, _, _, rfl, hf⟩

theorem journalMoved_ledReport (s : State) (n c cl d k : Nat) : JournalMoved s (ledReport s n c cl d) k := .of_led (report_led ..) k

theorem journalMoved_queuePage (s : State) (k a w : Nat) : JournalMoved s (queuePage s k a w) k := by
  unfold queuePage
  extract_lets p
  split
  · exact journalMoved_modLedger s k fun _ => ⟨_, _, _, rfl, Nat.le_refl _, fun _ _ => rfl⟩
  · exact .refl ..

theorem journalMoved_queueTail (s : State) (k : Nat) : JournalMoved s (queueTail s k) k := by
  unfold queueTail
  extract_lets c p
  split
  · exact .refl ..
  · exact journalMoved_modLedger s k fun _ => ⟨_, _, _, rfl, Nat.le_refl _, fun _ _ => rfl⟩

theorem journalMoved_ledCount (s : State) (k i n : Nat) : JournalMoved s (ledCount s k i n) k :=
  journalMoved_modLedger s k fun _ => ⟨_, _, _, rfl, .refl _⟩

theorem chainOf_ledCount (s : State) (k i n : Nat) : chainOf (ledCount s k i n) k = chainOf s k := by
  rw [chainOf, ledCount, ledOf_modLedger_self, chainOf]

/-- A record that is chained stands at the number that was next (R500). -/
theorem chainPut_chain (s : State) (k : Nat) (r : Bytes) : JournalMoved s (chainPut s k r) k ∧
    tget (chainOf (chainPut s k r) k).recs (chainOf s k).chained = some r ∧
    (chainOf (chainPut s k r) k).chained = (chainOf s k).chained + recordCount r := by
  unfold chainPut
  extract_lets c w t u v x
  have hu : chainOf u k = _ := congrArg Ledger.chain (ledOf_modLedger_self ..)
  have huv : JournalMoved u v k := journalMoved_ledCount ..
  have hvx : chainOf x k = chainOf v k ∧ JournalMoved v x k := by
    unfold x
    split
    · exact ⟨chainOf_ledCount .., journalMoved_ledCount ..⟩
    split
    · exact ⟨chainOf_ledCount .., journalMoved_ledCount ..⟩
    · exact ⟨rfl, .refl ..⟩
  have hv : chainOf v k = chainOf u k := chainOf_ledCount ..
  have hput : (chainOf x k).recs = tput c.recs c.chained r ∧ (chainOf x k).chained = w := by
    rw [hvx.1, hv, hu]
    exact ⟨rfl, rfl⟩
  have hq : (chainOf (queuePage x k c.chained w) k).recs = (chainOf x k).recs ∧ (chainOf (queuePage x k c.chained w) k).chained = (chainOf x k).chained := by
    unfold queuePage
    extract_lets p
    split
    · rw [chainOf, ledOf_modLedger_self]
      exact ⟨rfl, rfl⟩
    · exact ⟨rfl, rfl⟩
  refine ⟨((JournalMoved.trans ?_ huv).trans hvx.2).trans (journalMoved_queuePage ..), ?_, hq.2.trans hput.2⟩
  · exact journalMoved_modChain s k ⟨Nat.le_add_right .., fun q hq => tget_tput_ne _ _ (Nat.ne_of_lt hq)⟩
  · rw [hq.1, hput.1]
    exact tget_tput_self ..

theorem journalMoved_chainOne {s t : State} {k : Nat} {flush : Bool} (h : chainOne s k flush = some t) : JournalMoved s t k := by
  unfold chainOne at h
  extract_lets c at h
  split at h
  · cases h
  split at h
  · cases h
    exact (journalMoved_modChain s k (Chain.Grown.refl _)).trans (chainPut_chain ..).1
  split at h
  · extract_lets r at h
    split at h
    · cases h
      exact (journalMoved_modChain s k (Chain.Grown.refl _)).trans (chainPut_chain ..).1
    · cases h
      exact journalMoved_modChain s k (Chain.Grown.refl _)
  split at h
  · cases h
    exact ((journalMoved_modChain s k (Chain.Grown.refl _)).trans (chainPut_chain ..).1).trans (journalMoved_ledReport ..)
  · cases h

theorem journalMoved_chainLoop (f : Nat) (s : State) (k : Nat) (flush : Bool) : JournalMoved s (chainLoop f s k flush) k := by
  induction f generalizing s with
  | zero => exact .refl ..
  | succ f ih =>
    unfold chainLoop
    split
    · exact .refl ..
    · next h => exact (journalMoved_chainOne h).trans (ih _)

theorem journalMoved_chainAdvance (s : State) (k : Nat) (flush : Bool) : JournalMoved s (chainAdvance s k flush) k := by
  unfold chainAdvance
  extract_lets l
  split
  · exact journalMoved_chainLoop ..
  · exact .refl ..

theorem journalMoved_runEnd (s : State) (k : Nat) : JournalMoved s (runEnd s k) k := by
  unfold runEnd
  extract_lets l c
  split
  · exact .refl ..
  split
  · exact journalMoved_modChain s k (Chain.Grown.refl _)
  · exact .refl ..

theorem journalMoved_journalGo (s : State) (k : Nat) : JournalMoved s (journalGo s k) k := (journalMoved_runEnd s k).trans (journalMoved_chainAdvance ..)

theorem JournalMoved.chain {s t : State} {k : Nat} (h : JournalMoved s t k) : Chain.Grown (chainOf s k) (chainOf t k) := by
  obtain ⟨c, j, n, hl, hg⟩ := h
  rw [chainOf, chainOf, hl]
  exact hg

/-! ### Records, seals and the tail page -/

theorem journalGo_only (s : State) (k : Nat) : OnlyParts [.integ, .led, .obs] s (journalGo s k) := onlyParts_of_keeps (journalGo_keeps (Keeps.refl _ s) rfl rfl rfl)

theorem missingDigests_port (s : State) (n c : Nat) : (missingDigests s n c).port = s.port :=
  (missingDigests_keeps (Keeps.refl (allBut .port) s) rfl rfl).rest

/-- A record that is accepted marks its context (R498, R499). -/
theorem acceptRecord_accepts {s : State} {n c : Nat} {r : Request} (h : recordAct s n (ctxOf s n c) = .accept) (hr : ctxRequest s n (ctxOf s n c) = some r) :
    ctxOf (acceptRecord s n c) n c = { ctxOf s n c with record := true } := by
  unfold acceptRecord
  extract_lets x
  rw [show recordAct s n x = _ from h, show ctxRequest s n x = _ from hr]
  dsimp only
  rw [ctxOf_of_port (congrArg PortState.adm (journalGo_only _ n .port rfl))]
  refine (ctxOf_modCtx_self (missingDigests s n c) n c fun y => { y with record := true }).trans ?_
  rw [ctxOf_of_port (congrArg PortState.adm (missingDigests_port s n c))]

/-- A record that is discarded marks its context (R499, R508). -/
theorem acceptRecord_discards {s : State} {n c : Nat} (h : recordAct s n (ctxOf s n c) = .discard) :
    ctxOf (acceptRecord s n c) n c = { ctxOf s n c with norecord := true } := by
  unfold acceptRecord
  extract_lets x
  rw [show recordAct s n x = _ from h]
  dsimp only
  have hctx : ctxOf (modCtx (missingDigests s n c) n c fun y => { y with norecord := true }) n c = { ctxOf s n c with norecord := true } := by
    refine (ctxOf_modCtx_self (missingDigests s n c) n c fun y => { y with norecord := true }).trans ?_
    rw [ctxOf_of_port (congrArg PortState.adm (missingDigests_port s n c))]
  split
  · exact hctx
  · rw [ctxOf_of_port (congrArg PortState.adm (journalGo_only _ n .port rfl))]
    exact hctx

/-- The state in which a signed seal is chained (R501). -/
def sealChained (s : State) (n q : Nat) (r : Bytes) : State :=
  chainPut (modChain s n fun c => { c with signing := none, seals := tdel c.seals q }) n
    (r.take 128 ++ padTo (deviceSign (sha384 (r.take 128 ++ r.drop 224))) 96 ++ r.drop 224)

theorem execSealSigned_up {s : State} {p : PortId} {q : Nat} {r : Bytes} (h : (chainOf s p.val).signing = some (q, r)) (hup : engineUp s p.val = true) :
    execSealSigned p s = .next (if (ledOf (sealChained s p.val q r) p.val).startSeal.isSome then queueTail (sealChained s p.val q r) p.val
      else journalGo (sealChained s p.val q r) p.val) := by
  simp only [execSealSigned, h, hup, Bool.not_true, Bool.false_eq_true, if_false]
  rfl

theorem length_signed {r sig : Bytes} (h : r.length = 256) : (r.take 128).length = 128 ∧ (r.take 128 ++ padTo sig 96).length = 224 := by
  have h1 : (r.take 128).length = 128 := by rw [List.length_take, h]; rfl
  exact ⟨h1, by rw [List.length_append, h1, length_padTo]⟩

theorem sealChained_keeps (s : State) (n q : Nat) (r : Bytes) : Keeps ⟨[Part.integ, .led, .obs].contains, s⟩ (sealChained s n q r) :=
  chainPut_keeps (modChain_keeps (Keeps.refl _ s) rfl) rfl

theorem sealChained_chain {s : State} {n q : Nat} {r : Bytes} (hfield : field r 0 1 = 2) (hlen : r.length = 256) :
    JournalMoved s (sealChained s n q r) n ∧
    tget (chainOf (sealChained s n q r) n).recs (chainOf s n).chained =
      some (r.take 128 ++ padTo (deviceSign (sha384 (r.take 128 ++ r.drop 224))) 96 ++ r.drop 224) ∧
    (chainOf (sealChained s n q r) n).chained = (chainOf s n).chained + 1 := by
  have hc : (chainOf (modChain s n fun c => { c with signing := none, seals := tdel c.seals q }) n).chained = (chainOf s n).chained := by
    rw [chainOf, modChain, ledOf_modLedger_self, chainOf]
  obtain ⟨hm, hr, hch⟩ := chainPut_chain (modChain s n fun c => { c with signing := none, seals := tdel c.seals q }) n
    (r.take 128 ++ padTo (deviceSign (sha384 (r.take 128 ++ r.drop 224))) 96 ++ r.drop 224)
  have hcount : recordCount (r.take 128 ++ padTo (deviceSign (sha384 (r.take 128 ++ r.drop 224))) 96 ++ r.drop 224) = 1 := by
    obtain ⟨h128, h224⟩ := length_signed (sig := deviceSign (sha384 (r.take 128 ++ r.drop 224))) hlen
    have hr : field (r.take 128) 0 1 = field r 0 1 := by
      rw [← field_append_left (r.take 128) (r.drop 128) (by omega), List.take_append_drop]
    unfold recordCount
    rw [field_append_left _ _ (by omega), field_append_left _ _ (by omega), hr, hfield]
    rfl
  rw [hc] at hr hch
  rw [hcount] at hch
  exact ⟨(journalMoved_modChain s n (Chain.Grown.refl _)).trans hm, hr, hch⟩

/-- The page that chaining has not completed, as it is queued (R502). -/
def tailJob (c : Chain) : PageJob :=
  { volume := 2, sectors := sectorMask c (c.chained / 64), logical := 4 * (c.chained / 64), data := pageSlots c (64 * (c.chained / 64)) 64 }

/-- Settles O36: a record by what the engine does with it; a seal at the next number; the tail page. -/
theorem journalCommandsComplete : Obligations.JournalCommandsComplete := by
  intro s p
  refine ⟨fun c r h hr => ?_, fun c h => ?_, fun q r hsign hup hfield hlen => ?_, fun d w hw hst hmask => ?_⟩
  · refine ⟨_, rfl, ?_, ?_, onlyParts_of_keeps (acceptRecord_keeps (Keeps.refl _ s) rfl rfl rfl rfl)⟩
    · rw [acceptRecord_accepts h hr]
    · rw [acceptRecord_accepts h hr]
  · refine ⟨_, rfl, ?_, ?_, onlyParts_of_keeps (acceptRecord_keeps (Keeps.refl _ s) rfl rfl rfl rfl)⟩
    · rw [acceptRecord_discards h]
    · rw [acceptRecord_discards h]
  · obtain ⟨hmoved, hrec, hchained⟩ := sealChained_chain (s := s) (n := p.val) (q := q) hfield hlen
    obtain ⟨h128, h224⟩ := length_signed (sig := deviceSign (sha384 (r.take 128 ++ r.drop 224))) hlen
    have hend : JournalMoved (sealChained s p.val q r) (if (ledOf (sealChained s p.val q r) p.val).startSeal.isSome then
        queueTail (sealChained s p.val q r) p.val else journalGo (sealChained s p.val q r) p.val) p.val := by
      split
      · exact journalMoved_queueTail ..
      · exact journalMoved_journalGo ..
    have hlt : (chainOf s p.val).chained < (chainOf (sealChained s p.val q r) p.val).chained := hchained ▸ Nat.lt_succ_self _
    obtain ⟨hle, hkeep⟩ := hend.chain
    refine ⟨_, _, execSealSigned_up hsign hup, (hkeep _ hlt).trans hrec, ?_, ?_, Nat.lt_of_lt_of_le hlt hle, ?_⟩
    · rw [List.append_assoc, List.take_append_of_le_length (Nat.le_of_eq h128.symm), List.take_take]
      rfl
    · rw [List.drop_append_of_le_length (Nat.le_of_eq h224.symm), List.drop_eq_nil_of_le (Nat.le_of_eq h224)]
      rfl
    · exact onlyParts_of_keeps (keeps_ite (queueTail_keeps (sealChained_keeps s p.val q r)  rfl) (journalGo_keeps (sealChained_keeps s p.val q r) rfl rfl rfl))
  · have hexec : exec (.tailFlush d) s = .next (queueTail (timeReaches s (w + 1000000 * setting s 0x6009 0)) d.val) := by
      show execTailFlush d s = _
      unfold execTailFlush
      extract_lets k l
      rw [show l.chain.tailSince = _ from hw]
      exact if_pos (by simpa using hst)
    have hq : queueTail (timeReaches s (w + 1000000 * setting s 0x6009 0)) d.val = modLedger (timeReaches s (w + 1000000 * setting s 0x6009 0)) d.val fun l =>
        { l with jobs := l.jobs ++ [tailJob (chainOf s d.val)], chain := { l.chain with tailSince := none } } := if_neg hmask
    rw [hq] at hexec
    refine ⟨_, tailJob (chainOf s d.val), hexec, Nat.le_max_right .., ?_, rfl, rfl, ?_, onlyParts_of_keeps (modLedger_keeps (timeReaches_keeps (Keeps.refl _ s) rfl) rfl)⟩
    · rw [ledOf_modLedger_self]
      rfl
    · rw [chainOf, ledOf_modLedger_self]

end Sys2Proof.Machine

/-!
PROOFS. The journal's and the archive's service requests (R504, R510 to R514).
-/
namespace Sys2Proof.Machine

set_option Elab.async false

/-! ### Requests that are answered -/

theorem serviceDone_only (s : State) (n num st d : Nat) (x y : Bytes) : OnlyParts [.port] s (serviceDone s n num st d x y) :=
  onlyParts_of_keeps (serviceDone_keeps (Keeps.refl _ s) rfl)

theorem reqOf_serviceDone {s : State} {n num : Nat} {r : Request} (h : reqOf s n num = some r) (st d : Nat) (x y : Bytes) :
    ∃ z, reqOf (serviceDone s n num st d x y) n num = some z ∧ z.out.output = y := by
  rw [serviceDone, reqOf_finishReq, h]
  exact ⟨_, rfl, by dsimp only; rw [if_pos (num_of_reqOf h)]⟩

section
variable {s : State} {n num op : Nat} {r : Request} (h : serviceReq s n num op = some r)
include h

/-- A service request that completes at once is answered, and the rest of the part is as it was. -/
theorem serviceReq_answered (st d : Nat) (x y : Bytes) :
    Answered (serviceDone s n num st d x y) n num st ∧ OnlyParts [.port] s (serviceDone s n num st d x y) :=
  ⟨answered_serviceDone (by rw [reqOf_of_serviceReq h]; rfl) st d x y, serviceDone_only _ _ _ _ _ _ _⟩

theorem num_of_serviceReq : r.num = num := num_of_reqOf (reqOf_of_serviceReq h)

end

/-! ### JOURNAL_READ -/

/-- The pages on NAND that a JOURNAL_READ needs (R504). -/
def journalPages (s : State) (q : Nat) (r : Request) : List Nat :=
  recordPages (ledOf s q) (recordsFrom (chainOf s q) (descArg r.desc 0) (descArg r.desc 2))

section
variable {s : State} {p : PortId} {num : Nat} {r : Request} (h : serviceReq s p.val num 0x20 = some r) (hst : r.started = false)
include h hst

/-- A JOURNAL_READ of a port that the request's partition may not read (R504). -/
theorem execJournalRead_forbidden (hown : partOwnsPort (portBank s p.val).cfg r.partition (bits (descArg r.desc 1) 1 0) = false)
    (hbit : bitAt (bankNat (portBank s p.val) 0x6007 (bits (descArg r.desc 1) 1 0 + 1)) p.val = false) :
    execJournalRead p num s = .next (ledgerError s p.val num 3) := by
  unfold execJournalRead
  extract_lets n b
  rw [show serviceReq s n num 0x20 = _ from h]
  dsimp only
  rw [if_neg (by simp [hst]), if_pos (by simp [n, b, hown, hbit])]

/-- One that its engine serves (R504). -/
theorem execJournalRead_served {q : Nat} (hq : q = bits (descArg r.desc 1) 1 0)
    (hown : partOwnsPort (portBank s p.val).cfg r.partition q = true ∨ bitAt (bankNat (portBank s p.val) 0x6007 (q + 1)) p.val = true)
    (hdie : dieUp s (16 + q) = true) (hstate : (ledOf s q).state = 2 ∨ (ledOf s q).state = 3) (hrel : (chainOf s q).release ≤ descArg r.desc 0)
    (hlost : (chainOf s q).lost = []) : execJournalRead p num s =
      if journalPages s q r = [] then .next (journalAnswer s p.val r)
      else .next (modLedger (modReq s p.val num fun x => { x with started := true, todo := (journalPages s q r).length }) q fun l =>
        { l with reads := l.reads ++ (journalPages s q r).map (fun a => (a, 0, .journal (1000000 * p.val + num))) }) := by
  unfold execJournalRead
  extract_lets n b
  rw [show serviceReq s n num 0x20 = _ from h]
  subst hq
  have hchecks : ¬ (!partOwnsPort b.cfg r.partition (bits (descArg r.desc 1) 1 0) &&
      !bitAt (bankNat b 0x6007 (bits (descArg r.desc 1) 1 0 + 1)) n) = true := by
    rcases hown with hown | hown <;> simp [b, n, hown]
  have hcond : ((recordsFrom (chainOf s (bits (descArg r.desc 1) 1 0)) (descArg r.desc 0) (descArg r.desc 2)).any (fun e =>
      recordLost (chainOf s (bits (descArg r.desc 1) 1 0)) e.1) || (journalPages s (bits (descArg r.desc 1) 1 0) r).isEmpty) =
      (journalPages s (bits (descArg r.desc 1) 1 0) r).isEmpty := by
    rw [List.any_eq_false.mpr fun e _ => by rw [recordLost, hlost]; exact Bool.false_ne_true, Bool.false_or]
  dsimp only
  rw [if_neg (by simp [hst]), if_neg hchecks, if_neg (by simp [hdie]), if_neg (by rcases hstate with e | e <;> simp [e]),
    if_neg (by rcases hstate with e | e <;> simp [e]), if_neg (by rcases hstate with e | e <;> simp [e]),
    if_neg (by rcases hstate with e | e <;> simp [e])]
  refine (if_neg (Nat.not_lt.mpr hrel)).trans ?_
  by_cases hnil : journalPages s (bits (descArg r.desc 1) 1 0) r = []
  · rw [if_pos hnil]
    exact if_pos (hcond.trans (List.isEmpty_iff.mpr hnil))
  · rw [if_neg hnil]
    exact if_neg fun hc => hnil (List.isEmpty_iff.mp (hcond.symm.trans hc))

end

/-- A JOURNAL_READ of pages that are all in SRAM is answered with its records (R504). -/
theorem journalAnswer_eq {s : State} {n q : Nat} {r : Request} (hq : q = bits (descArg r.desc 1) 1 0) (hlost : (chainOf s q).lost = []) :
    journalAnswer s n r = serviceDone s n r.num 0 0 (leBytes 4 (recordsFrom (chainOf s q) (descArg r.desc 0) (descArg r.desc 2)).length)
      ((recordsFrom (chainOf s q) (descArg r.desc 0) (descArg r.desc 2)).flatMap fun e => padTo e.2 256) := by
  subst hq
  refine if_neg ?_
  simp [recordLost, hlost]

/-! ### Volume A -/

section
variable {s : State} {p : PortId} {num : Nat} {r : Request}

theorem execArchiveWrite_refused (h : serviceReq s p.val num 0x21 = some r) {st d : Nat} (hdoor : archiveDoor s p.val = .refused st d) (hst : r.started = false) :
    execArchiveWrite p num s = .next (serviceDone s p.val num st d []) := by
  simp only [execArchiveWrite, h, hst, hdoor, Bool.false_eq_true, if_false]

theorem execArchiveRead_refused (h : serviceReq s p.val num 0x22 = some r) {st d : Nat} (hdoor : archiveDoor s p.val = .refused st d) (hst : r.started = false) :
    execArchiveRead p num s = .next (serviceDone s p.val num st d []) := by
  simp only [execArchiveRead, h, hst, hdoor, Bool.false_eq_true, if_false]

theorem execArchiveDiscard_refused (h : serviceReq s p.val num 0x23 = some r) {st d : Nat} (hdoor : archiveDoor s p.val = .refused st d) :
    execArchiveDiscard p num s = .next (serviceDone s p.val num st d []) := by
  simp only [execArchiveDiscard, h, hdoor]

/-- The page jobs of an ARCHIVE_WRITE (R510). -/
def archiveJobs (s : State) (n num : Nat) (r : Request) : List PageJob :=
  (List.range (descInLen r.desc / 16384)).map fun i =>
    { volume := 4, sectors := 15, partition := r.partition, logical := descArg r.desc 0 + i
      data := slice (requestBytes s n r) (16384 * i) 16384, req := some (1000000 * n + num, i) }

theorem execArchiveWrite_fits (h : serviceReq s p.val num 0x21 = some r) (hdoor : archiveDoor s p.val = .served) (hst : r.started = false)
    (hfit : descInLen r.desc / 16384 ≤ (freeBlocks s p.val false - stripeWidth s p.val) *
      ((s.led.fitted.filter (fun t => t.chan / 2 == p.val && targetFits t)).map (·.pages)).foldl Nat.max 0) :
    ∃ u, OnlyParts [.port] s u ∧ execArchiveWrite p num s = .next (modLedger u p.val fun l => { l with jobs := l.jobs ++ archiveJobs s p.val num r }) := by
  simp only [execArchiveWrite, h, hst, hdoor, Bool.false_eq_true, if_false]
  refine ⟨_, ?_, if_neg (Nat.not_lt.mpr hfit)⟩
  exact onlyParts_of_keeps (modReq_keeps (Keeps.refl _ s) rfl)

/-- An ARCHIVE_READ begins with the page that its first entry names (R512). -/
theorem archivePage_first (hgot : r.got = []) (h8 : 8 ≤ descInLen r.desc) : archivePage s p.val p.val r =
    (if !inVolumeA s p.val (field (requestBytes s p.val r) 0 8) then (false, serviceDone s p.val r.num 0x0305 4 (leBytes 8 0 ++ leBytes 4 0) [])
      else match tget (ledOf s p.val).pages (remapped (ledOf s p.val) (field (requestBytes s p.val r) 0 8)) with
      | none => (true, s)
      | some g =>
        if g.torn || g.md.volume != 4 then (true, s)
        else if g.md.partition != r.partition then (false, serviceDone s p.val r.num 0x0305 5 (leBytes 8 0 ++ leBytes 4 0) [])
        else if g.bad then (false, serviceDone s p.val r.num 0x0305 6 (leBytes 8 0 ++ leBytes 4 0) [])
        else (false, modLedger (modReq s p.val r.num fun x => { x with got := [], started := true }) p.val fun l =>
          { l with reads := l.reads ++ [(remapped (ledOf s p.val) (field (requestBytes s p.val r) 0 8), 0, .archive (1000000 * p.val + r.num) 0)] })) := by
  have h1 : ¬ descInLen r.desc / 8 ≤ 0 := by omega
  unfold archivePage
  rw [hgot]
  exact if_neg h1

end

theorem archiveReadOn_false {f : Nat} {s t : State} {k n : Nat} {r : Request} (h : archivePage s k n r = (false, t)) : archiveReadOn (f + 1) s k n r = t := by
  unfold archiveReadOn
  rw [h]
  rfl

theorem execArchiveRead_served {s : State} {p : PortId} {num : Nat} {r : Request} (h : serviceReq s p.val num 0x22 = some r)
    (hdoor : archiveDoor s p.val = .served) (hst : r.started = false) : execArchiveRead p num s = .next (archiveReadOn 257 s p.val p.val r) := by
  simp only [execArchiveRead, h, hst, hdoor, Bool.false_eq_true, if_false]

theorem settleRemap_blocks (s : State) (k key : Nat) : (ledOf (settleRemap s k key) k).blocks = (ledOf s k).blocks := by
  unfold settleRemap
  extract_lets l
  split
  · rw [ledOf_modLedger_self]
  · rfl

/-- A page that is discarded takes one from its block's valid count (R513). -/
def pageDiscarded (s : State) (n ppa : Nat) : State :=
  settleRemap (modBlock s n (ppaBlock (remapped (ledOf s n) ppa)) fun b => { b with valid := b.valid - 1 }) n (ppaBlock (remapped (ledOf s n) ppa))

theorem pageDiscarded_valid (s : State) (n ppa : Nat) : (blockOf (ledOf (pageDiscarded s n ppa) n) (ppaBlock (remapped (ledOf s n) ppa))).valid =
    (blockOf (ledOf s n) (ppaBlock (remapped (ledOf s n) ppa))).valid - 1 := by
  rw [pageDiscarded, blockOf, settleRemap_blocks, modBlock, ledOf_modLedger_self]
  dsimp only
  rw [tgetD_tmod_self]
  rfl

theorem pageDiscarded_only (s : State) (n ppa : Nat) : OnlyParts [.led] s (pageDiscarded s n ppa) :=
  onlyParts_of_keeps (settleRemap_keeps (modBlock_keeps (Keeps.refl _ s) rfl) rfl)

/-- An ARCHIVE_DISCARD of one page of volume A (R513). -/
theorem execArchiveDiscard_one {s : State} {p : PortId} {num : Nat} {r : Request} (h : serviceReq s p.val num 0x23 = some r)
    (hdoor : archiveDoor s p.val = .served) (hlen : descInLen r.desc = 8) (hin : inVolumeA s p.val (field (requestBytes s p.val r) 0 8) = true) :
    execArchiveDiscard p num s =
      .next (serviceDone (pageDiscarded s p.val (field (requestBytes s p.val r) 0 8)) p.val num 0 0 (leBytes 8 0 ++ leBytes 4 1)) := by
  have hlist : (List.range (descInLen r.desc / 8)).map (fun i => field (requestBytes s p.val r) (8 * i) 8) = [field (requestBytes s p.val r) 0 8] := by
    rw [hlen]
    rfl
  simp only [execArchiveDiscard, h, hdoor]
  rw [hlist, List.takeWhile_cons_of_pos hin, hlen]
  rfl

/-- A MAP_DUMP that its die serves lists the partition's pages (R514). -/
theorem execMapDump_served {s : State} {p : PortId} {num : Nat} {r : Request} (h : serviceReq s p.val num 0x24 = some r)
    (hdoor : archiveDoor s (ppaChan (descArg r.desc 0) / 2) = .served) : ∃ d x, execMapDump p num s = .next (serviceDone s p.val num 0 d x
      (((mapEntries s (ppaChan (descArg r.desc 0) / 2) r.partition (descArg r.desc 0)).take (descOutLen r.desc / 32)).flatMap mapEntryBytes)) := by
  unfold execMapDump
  extract_lets n
  rw [show serviceReq s n num 0x24 = _ from h]
  dsimp only
  rw [hdoor]
  exact ⟨0, _, rfl⟩

/-- Settles O37: each request by whether its engine serves it, and by what it finds there. -/
theorem ledgerServiceRequestsComplete : Obligations.LedgerServiceRequestsComplete := by
  intro s p num r hst
  refine ⟨fun q h hq => ⟨fun hown hbit => ?_, fun hown hdie hstate hrel hlost => ⟨fun hnil => ?_, fun hne => ?_⟩⟩, fun st x hdoor => ⟨fun h => ?_, fun h => ?_, fun h => ?_⟩,
    fun h hdoor hfit => ?_, fun h hdoor hgot hlo hhi => ⟨fun hin => ?_, fun g hin hg htorn hvol hbad hpart => ?_⟩, fun h hdoor hlen hin => ?_, fun h hdoor => ?_⟩
  · subst hq
    obtain ⟨hans, honly⟩ := serviceReq_answered h 0x0305 3 [] []
    exact ⟨_, execJournalRead_forbidden h hst hown hbit, hans, honly⟩
  · have hexec := (execJournalRead_served h hst hq hown hdie hstate hrel hlost).trans (if_pos hnil)
    rw [journalAnswer_eq hq hlost, num_of_serviceReq h] at hexec
    obtain ⟨z, hz, hout⟩ := reqOf_serviceDone (reqOf_of_serviceReq h) 0 0 (leBytes 4 (recordsFrom (chainOf s q) (descArg r.desc 0) (descArg r.desc 2)).length)
      ((recordsFrom (chainOf s q) (descArg r.desc 0) (descArg r.desc 2)).flatMap fun e => padTo e.2 256)
    obtain ⟨hans, honly⟩ := serviceReq_answered h 0 0 (leBytes 4 (recordsFrom (chainOf s q) (descArg r.desc 0) (descArg r.desc 2)).length)
      ((recordsFrom (chainOf s q) (descArg r.desc 0) (descArg r.desc 2)).flatMap fun e => padTo e.2 256)
    exact ⟨_, z, hexec, hans, hz, hout, honly⟩
  · refine ⟨_, (execJournalRead_served h hst hq hown hdie hstate hrel hlost).trans (if_neg hne),
      onlyParts_of_keeps (modLedger_keeps (modReq_keeps (Keeps.refl _ s) rfl) rfl), ?_⟩
    rw [ledOf_modLedger_self, List.length_append, List.length_map]
    rfl
  · obtain ⟨hans, honly⟩ := serviceReq_answered h st x [] []
    exact ⟨_, execArchiveWrite_refused h hdoor hst, hans, honly⟩
  · obtain ⟨hans, honly⟩ := serviceReq_answered h st x [] []
    exact ⟨_, execArchiveRead_refused h hdoor hst, hans, honly⟩
  · obtain ⟨hans, honly⟩ := serviceReq_answered h st x [] []
    exact ⟨_, execArchiveDiscard_refused h hdoor, hans, honly⟩
  · obtain ⟨u, hu, hexec⟩ := execArchiveWrite_fits h hdoor hst hfit
    refine ⟨_, archiveJobs s p.val num r, hexec, ?_, by rw [archiveJobs, List.length_map, List.length_range], fun j hj => ?_, ?_⟩
    · rw [ledOf_modLedger_self, ledOf, hu .led rfl, ledOf]
    · obtain ⟨i, -, rfl⟩ := List.mem_map.mp hj
      exact ⟨rfl, rfl⟩
    · exact hu.andThen (onlyParts_of_keeps (l := [.led]) (modLedger_keeps (Keeps.refl _ u) rfl)) (by decide) (by decide)
  · have hpage := (archivePage_first (s := s) (p := p) hgot hlo).trans (if_pos (by rw [hin]; rfl))
    rw [num_of_serviceReq h] at hpage
    obtain ⟨hans, honly⟩ := serviceReq_answered h 0x0305 4 (leBytes 8 0 ++ leBytes 4 0) []
    exact ⟨_, (execArchiveRead_served h hdoor hst).trans (congrArg _ (archiveReadOn_false hpage)), hans, honly⟩
  · have hpage := (archivePage_first (s := s) (p := p) hgot hlo).trans (if_neg (by rw [hin]; decide))
    rw [hg] at hpage
    replace hpage := hpage.trans ((if_neg (by simp [htorn, hvol])).trans ((if_neg (by simp [hpart])).trans (if_neg (by simp [hbad]))))
    rw [num_of_serviceReq h] at hpage
    refine ⟨_, (execArchiveRead_served h hdoor hst).trans (congrArg _ (archiveReadOn_false hpage)), ?_, ?_⟩
    · rw [ledOf_modLedger_self]
      rfl
    · exact onlyParts_of_keeps (modLedger_keeps (modReq_keeps (Keeps.refl _ s) rfl) rfl)
  · have honly := pageDiscarded_only s p.val (field (requestBytes s p.val r) 0 8)
    have hreq : (reqOf (pageDiscarded s p.val (field (requestBytes s p.val r) 0 8)) p.val num).isSome = true := by
      rw [reqOf_of_port (honly .port rfl), reqOf_of_serviceReq h]
      rfl
    refine ⟨_, execArchiveDiscard_one h hdoor hlen hin, answered_serviceDone hreq _ _ _ _, ?_, honly.andThen (serviceDone_only _ _ _ _ _ _ _) (by decide) (by decide)⟩
    exact pageDiscarded_valid ..
  · obtain ⟨d, x, hexec⟩ := execMapDump_served h hdoor
    obtain ⟨z, hz, hout⟩ := reqOf_serviceDone (reqOf_of_serviceReq h) 0 d x _
    obtain ⟨hans, honly⟩ := serviceReq_answered h 0 d x _
    exact ⟨_, z, hexec, hans, hz, hout, honly⟩

end Sys2Proof.Machine

/-!
PROOFS. What the NAND reports (R487, R489, R502, R510, R516 to R522, R524).
-/
namespace Sys2Proof.Machine

set_option Elab.async false

/-! ### What an engine's operations leave of its media -/

/-- The engine has at most gone on with its journal and taken the state and the warnings that its free space gives (R495, R496, R500). -/
def CapacityMoved (s t : State) (k : Nat) : Prop :=
  ∃ c j n st w, ledOf t k = { ledOf s k with chain := c, jobs := j, counts := n, state := st, warned := w }

theorem CapacityMoved.refl (s : State) (k : Nat) : CapacityMoved s s k := ⟨_, _, _, _, _, rfl⟩

theorem CapacityMoved.trans {s t u : State} {k : Nat} (h : CapacityMoved s t k) (h' : CapacityMoved t u k) : CapacityMoved s u k := by
  obtain ⟨c, j, n, st, w, hl⟩ := h
  obtain ⟨c', j', n', st', w', hl'⟩ := h'
  exact ⟨c', j', n', st', w', by rw [hl', hl]⟩

theorem JournalMoved.capacity {s t : State} {k : Nat} (h : JournalMoved s t k) : CapacityMoved s t k := by
  obtain ⟨c, j, n, hl, -⟩ := h
  exact ⟨c, j, n, _, _, hl⟩

theorem capacityMoved_modLedger (s : State) (k : Nat) {f : Ledger → Ledger}
    (hf : ∀ l, ∃ st w, f l = { l with state := st, warned := w }) : CapacityMoved s (modLedger s k f) k := by
  obtain ⟨st, w, h⟩ := hf (ledOf s k)
  exact ⟨_, _, _, st, w, by rw [ledOf_modLedger_self, h]⟩

theorem ledOf_ledReport (s : State) (n c cl d k : Nat) : ledOf (ledReport s n c cl d) k = ledOf s k := by rw [ledOf, ledReport, report_led, ledOf]

theorem ledOf_queueIndex (s : State) (k : Nat) : ledOf (queueIndex s k) k = { ledOf s k with jobs := (ledOf s k).jobs ++ [{ volume := 3 }] } :=
  ledOf_modLedger_self s k fun l => { l with jobs := l.jobs ++ [{ volume := 3 }] }

theorem ledOf_ledHealth (s : State) (k i n : Nat) : ledOf (ledHealth s k i n) k = { ledOf s k with health := bump (ledOf s k).health i n } :=
  ledOf_modLedger_self s k fun l => { l with health := bump l.health i n }

theorem ledOf_ledCount (s : State) (k i n : Nat) : ledOf (ledCount s k i n) k = { ledOf s k with counts := bump (ledOf s k).counts i n } :=
  ledOf_modLedger_self s k fun l => { l with counts := bump l.counts i n }

theorem ledOf_modBlock (s : State) (k key : Nat) (f : Block → Block) :
    ledOf (modBlock s k key f) k = { ledOf s k with blocks := tmod (ledOf s k).blocks key {} f } :=
  ledOf_modLedger_self s k fun l => { l with blocks := tmod l.blocks key {} f }

theorem capacityMoved_ledCapacity (s : State) (k : Nat) : CapacityMoved s (ledCapacity s k) k := by
  unfold ledCapacity
  extract_lets l free u warn f level
  split
  · exact .refl ..
  have hu : CapacityMoved s u k := by
    unfold u
    split
    · exact (capacityMoved_modLedger s k fun _ => ⟨3, _, rfl⟩).trans (journalMoved_ledReport ..).capacity
    split
    · exact (capacityMoved_modLedger s k fun _ => ⟨2, _, rfl⟩).trans (journalMoved_journalGo ..).capacity
    · exact .refl ..
  have hwarn (w : Option Nat) : CapacityMoved u (modLedger u k fun l => { l with warned := w }) k := capacityMoved_modLedger u k fun _ => ⟨_, w, rfl⟩
  split
  · exact hu.trans (hwarn none)
  split
  · exact (hu.trans (hwarn (some level))).trans (journalMoved_ledReport ..).capacity
  split
  · exact (hu.trans (hwarn (some level))).trans (journalMoved_ledReport ..).capacity
  · exact hu

theorem CapacityMoved.pages {s t : State} {k : Nat} (h : CapacityMoved s t k) : (ledOf t k).pages = (ledOf s k).pages := by
  obtain ⟨_, _, _, _, _, h⟩ := h
  rw [h]

theorem CapacityMoved.media {s t : State} {k : Nat} (h : CapacityMoved s t k) : (ledOf t k).pages = (ledOf s k).pages ∧
    (ledOf t k).retired = (ledOf s k).retired ∧ (ledOf t k).erasing = (ledOf s k).erasing ∧ (ledOf t k).blocks = (ledOf s k).blocks := by
  obtain ⟨_, _, _, _, _, h⟩ := h
  rw [h]
  exact ⟨rfl, rfl, rfl, rfl⟩

/-- A retired block is listed and no longer being erased; pages stay (R520). -/
theorem retireBlock_media (s : State) (k key : Nat) : (ledOf (retireBlock s k key) k).retired.contains key = true ∧
    (ledOf (retireBlock s k key) k).erasing = tdel (ledOf s k).erasing key ∧ (ledOf (retireBlock s k key) k).pages = (ledOf s k).pages := by
  unfold retireBlock
  extract_lets u v w
  have hw : ledOf w k = _ := (ledOf_ledReport ..).trans (ledOf_ledHealth ..)
  have hv : ledOf v k = _ := ledOf_modBlock ..
  have hu : ledOf u k = _ := ledOf_modLedger_self ..
  rw [ledOf_queueIndex, hw, hv, hu]
  refine ⟨?_, rfl, rfl⟩
  dsimp only
  split
  · assumption
  · simp

/-! ### Pages that are kept -/

/-- Every programmed page of the engine is as it was. -/
def PagesKept (s t : State) (k : Nat) : Prop := (ledOf t k).pages = (ledOf s k).pages

theorem PagesKept.refl (s : State) (k : Nat) : PagesKept s s k := rfl
theorem PagesKept.trans {s t u : State} {k : Nat} (h : PagesKept s t k) (h' : PagesKept t u k) : PagesKept s u k := Eq.trans h' h
theorem PagesKept.of_led {s t : State} (h : t.led = s.led) (k : Nat) : PagesKept s t k := by rw [PagesKept, ledOf, h, ledOf]
theorem pagesKept_modLedger (s : State) (k : Nat) {f : Ledger → Ledger} (hf : ∀ l, (f l).pages = l.pages) : PagesKept s (modLedger s k f) k := by
  rw [PagesKept, ledOf_modLedger_self]
  exact hf _
theorem pagesKept_modLedger_any (s : State) (k j : Nat) {f : Ledger → Ledger} (hf : ∀ l, (f l).pages = l.pages) : PagesKept s (modLedger s j f) k := by
  by_cases h : k = j
  · exact h ▸ pagesKept_modLedger s k hf
  · rw [PagesKept, ledOf_modLedger_ne s h f]
theorem pagesKept_foldl {α : Type} {k : Nat} {g : State → α → State} (hg : ∀ s x, PagesKept s (g s x) k) (l : List α) (s : State) : PagesKept s (l.foldl g s) k :=
  foldl_related (R := fun s t => PagesKept s t k) (fun s => .refl s k) (fun h h' => h.trans h') hg l s

theorem pagesKept_modBlock (s : State) (k key : Nat) (f : Block → Block) : PagesKept s (modBlock s k key f) k := pagesKept_modLedger s k fun _ => rfl

theorem pagesKept_assignSeal (s : State) (k reason : Nat) : PagesKept s (assignSeal s k reason) k := by
  unfold assignSeal
  extract_lets l
  split
  · exact pagesKept_modLedger s k fun _ => rfl
  split
  · exact .refl ..
  · exact pagesKept_modLedger s k fun _ => rfl

theorem pagesKept_leaveZeroised (s : State) (k : Nat) : PagesKept s (leaveZeroised s) k := by
  unfold leaveZeroised
  split
  · exact .of_led rfl k
  · exact .refl ..

theorem pagesKept_ledgerReady (s : State) (k : Nat) : PagesKept s (ledgerReady s k) k := by
  unfold ledgerReady
  extract_lets l
  split
  · split
    · refine PagesKept.trans ?_ (.of_led (deviceNote_only s _ .led rfl) k)
      refine PagesKept.trans ?_ (pagesKept_leaveZeroised _ k)
      refine PagesKept.trans ?_ (capacityMoved_ledCapacity _ k).pages
      refine PagesKept.trans ?_ (journalMoved_journalGo _ k).capacity.pages
      refine PagesKept.trans (t := modLedger s k _) ?_ (pagesKept_foldl (fun s r => pagesKept_assignSeal s k r) _ _)
      exact pagesKept_modLedger s k fun _ => rfl
    · exact .refl ..
  · exact .refl ..

theorem pagesKept_ledgerStopped (s : State) (k : Nat) : PagesKept s (ledgerStopped s k) k := by
  unfold ledgerStopped
  extract_lets l
  split
  · exact pagesKept_modLedger s k fun _ => rfl
  · exact .refl ..

theorem pagesKept_queueParity (s : State) (k num page : Nat) : PagesKept s (queueParity s k num page) k := by
  unfold queueParity
  extract_lets l
  split
  · exact .refl ..
  split
  · exact pagesKept_modLedger s k fun _ => rfl
  · exact .refl ..

theorem pagesKept_archivePageDone (s : State) (num i ppa k : Nat) : PagesKept s (archivePageDone s num i ppa) k :=
  .of_led ((archivePageDone_keeps (Keeps.refl (allBut .led) s) rfl).rest) k

/-- A page that has been programmed holds its job's data, and its place (R502, R510). -/
theorem programPage_page (s : State) (k ppa : Nat) (j : PageJob) : ∃ g : NandPage, tget (ledOf (programPage s k ppa j) k).pages ppa = some g ∧ g.data = j.data ∧
    g.md.volume = j.volume ∧ g.md.logical = j.logical ∧ g.torn = false ∧ g.bad = false := by
  unfold programPage
  extract_lets key l b md last s1 s2 s3 s4 s5 s6 s7 s8
  have h1 : (ledOf s1 k).pages = tput l.pages ppa { md := md, data := j.data } := congrArg Ledger.pages (ledOf_modLedger_self ..)
  have h4 : PagesKept s3 s4 k := by
    unfold s4
    split
    · exact pagesKept_modLedger _ k fun _ => rfl
    · exact .refl ..
  have h5 : PagesKept s4 s5 k := by
    unfold s5
    split
    · split
      · exact .refl ..
      · exact pagesKept_queueParity ..
    · exact .refl ..
  have h6 : PagesKept s5 s6 k := by
    unfold s6
    split
    · exact pagesKept_modLedger _ k fun _ => rfl
    · exact .refl ..
  have h7 : PagesKept s6 s7 k := by
    unfold s7
    split
    · split
      · exact (pagesKept_modBlock ..).trans (pagesKept_modLedger _ k fun _ => rfl)
      · exact .refl ..
    · exact .refl ..
  have h8 : PagesKept s7 s8 k := by
    unfold s8
    split
    · exact pagesKept_archivePageDone ..
    · exact .refl ..
  have h3 : PagesKept s1 s3 k := (pagesKept_modBlock ..).trans (pagesKept_modLedger _ k fun _ => rfl)
  have hend : PagesKept s1 (ledgerStopped (ledgerReady (ledCapacity s8 k) k) k) k :=
    ((((((((h3.trans h4).trans h5).trans h6).trans h7).trans h8).trans (capacityMoved_ledCapacity s8 k).pages).trans (pagesKept_ledgerReady ..)).trans
      (pagesKept_ledgerStopped ..))
  refine ⟨{ md := md, data := j.data }, ?_, rfl, rfl, rfl, rfl, rfl⟩
  rw [hend, h1]
  exact tget_tput_self ..

theorem programFailed_retires (s : State) (k ppa : Nat) (j : PageJob) : (ledOf (programFailed s k ppa j) k).retired.contains (ppaBlock ppa) = true := by
  unfold programFailed
  exact (retireBlock_media ..).1

/-- What the engine programs where a page of it may go there (R502, R510, R518). -/
theorem execNandProgramComplete_fits {s u : State} {d : Deckle} {ppa : BitVec 32} {i : Nat} {j : PageJob} (hcan : canProgram s d.val ppa.toNat = true)
    (hfind : (ledOf s d.val).jobs.findIdx? (jobFits s d.val ppa.toNat) = some i) (hj : (ledOf s d.val).jobs[i]? = some j)
    (hu : openBlock s d.val (ppaBlock ppa.toNat) j = some u) (pass : Bool) : ∃ v, execNandProgramComplete d ppa pass s =
      .next (if pass then programPage v d.val ppa.toNat j else programFailed v d.val ppa.toNat j) := by
  refine ⟨modLedger u d.val fun l => { l with jobs := l.jobs.eraseIdx i }, ?_⟩
  simp only [execNandProgramComplete, hcan, hfind, hj, hu, Bool.not_true, Bool.false_eq_true, if_false]

/-! ### Erases -/

/-- The state in which a block has been erased (R519, R521). -/
def blockErased (s : State) (k key : Nat) : State :=
  let e := (blockOf (ledOf s k) key).erases + 1
  let u := modLedger s k fun l => { l with erasing := tdel l.erasing key }
  let u := modLedger u k fun l => { l with pages := l.pages.filter (fun x => ppaBlock x.1 != key) }
  let u := modBlock u k key fun _ => { erases := e }
  let u := ledCount u k 5 1
  ledCapacity (if e % 16 = 0 then queueIndex u k else u) k

theorem blockErased_media (s : State) (k key : Nat) : tget (ledOf (blockErased s k key) k).erasing key = none ∧
    (∀ e ∈ (ledOf (blockErased s k key) k).pages, ppaBlock e.1 ≠ key) ∧
    blockOf (ledOf (blockErased s k key) k) key = { erases := (blockOf (ledOf s k) key).erases + 1 } := by
  unfold blockErased
  extract_lets e u1 u2 u3 u4
  have h1 : ledOf u1 k = _ := ledOf_modLedger_self ..
  have h2 : ledOf u2 k = _ := ledOf_modLedger_self ..
  have h3 : ledOf u3 k = _ := ledOf_modBlock ..
  have h4 : ledOf u4 k = _ := ledOf_ledCount ..
  have h5 : (ledOf (if e % 16 = 0 then queueIndex u4 k else u4) k).pages = (ledOf u4 k).pages ∧
      (ledOf (if e % 16 = 0 then queueIndex u4 k else u4) k).erasing = (ledOf u4 k).erasing ∧
      (ledOf (if e % 16 = 0 then queueIndex u4 k else u4) k).blocks = (ledOf u4 k).blocks := by
    split
    · rw [ledOf_queueIndex]
      exact ⟨rfl, rfl, rfl⟩
    · exact ⟨rfl, rfl, rfl⟩
  obtain ⟨hp, -, he, hb⟩ := (capacityMoved_ledCapacity (if e % 16 = 0 then queueIndex u4 k else u4) k).media
  rw [hp, he, blockOf, hb, h5.1, h5.2.1, h5.2.2, h4, h3, h2, h1]
  refine ⟨tget_tdel_self .., fun x hx => ?_, ?_⟩
  · simpa using (List.mem_filter.mp hx).2
  · dsimp only
    rw [tgetD_tmod_self]

/-- The state in which a block whose erase failed is retired (R520). -/
def eraseFailed (s : State) (k key : Nat) : State :=
  ledCapacity (retireBlock (ledReport (ledHealth (modLedger s k fun l => { l with erasing := tdel l.erasing key }) k 3 1) k 0x83 2 (key * 4096)) k key) k

theorem eraseFailed_media (s : State) (k key : Nat) : (ledOf (eraseFailed s k key) k).retired.contains key = true ∧
    tget (ledOf (eraseFailed s k key) k).erasing key = none ∧ (ledOf (eraseFailed s k key) k).pages = (ledOf s k).pages := by
  unfold eraseFailed
  obtain ⟨hp, hr, he, -⟩ := (capacityMoved_ledCapacity (retireBlock (ledReport (ledHealth (modLedger s k fun l => { l with erasing := tdel l.erasing key }) k 3 1)
    k 0x83 2 (key * 4096)) k key) k).media
  obtain ⟨r1, r2, r3⟩ := retireBlock_media (ledReport (ledHealth (modLedger s k fun l => { l with erasing := tdel l.erasing key }) k 3 1) k 0x83 2 (key * 4096)) k key
  rw [hp, hr, he, r2, r3, ledOf_ledReport, ledOf_ledHealth, ledOf_modLedger_self]
  exact ⟨r1, tget_tdel_self .., rfl⟩

theorem execNandEraseComplete_due {s : State} {d : Deckle} {ppa : BitVec 32} (he : (tget (ledOf s d.val).erasing (ppaBlock ppa.toNat)).isSome = true)
    (hst : (ledOf s d.val).state ≠ 6) (hdie : dieUp s (16 + d.val) = true) (pass : Bool) : execNandEraseComplete d ppa pass s =
      .next (if pass then blockErased s d.val (ppaBlock ppa.toNat) else eraseFailed s d.val (ppaBlock ppa.toNat)) := by
  obtain ⟨c, hc⟩ := Option.isSome_iff_exists.mp he
  unfold execNandEraseComplete
  extract_lets k key l u
  rw [if_neg (by simp [l, k, key, hc, hst, hdie])]
  cases pass <;> rfl

/-! ### Reads -/

theorem pagesKept_modReq (s : State) (n num k : Nat) (f : Request → Request) : PagesKept s (modReq s n num f) k := .of_led rfl k

theorem pagesKept_serviceDone (s : State) (n num st d k : Nat) (x y : Bytes) : PagesKept s (serviceDone s n num st d x y) k := .of_led rfl k

theorem pagesKept_archivePage (s : State) (k n : Nat) (r : Request) : PagesKept s (archivePage s k n r).2 k := by
  unfold archivePage
  extract_lets i result ppa a
  split
  · exact pagesKept_serviceDone ..
  split
  · exact pagesKept_serviceDone ..
  split
  · exact .refl ..
  split
  · exact .refl ..
  split
  · exact pagesKept_serviceDone ..
  split
  · exact pagesKept_serviceDone ..
  · exact (pagesKept_modReq ..).trans (pagesKept_modLedger _ k fun _ => rfl)

theorem led_of_keeps {s t : State} (h : Keeps ⟨allBut .led, s⟩ t) : t.led = s.led := h.rest

/-- What holds of every state with the same engines holds after a free page is drawn: its 16,384 draws are never evaluated. -/
theorem freePage_intro (s : State) (P : State → Prop) (hp : ∀ t, Keeps ⟨allBut .led, s⟩ t → P t) : P (freePage s).2 :=
  hp _ (freePage_keeps (Keeps.refl _ s) rfl)

theorem pagesKept_freePage (s : State) (k : Nat) : PagesKept s (freePage s).2 k :=
  freePage_intro s (fun t => PagesKept s t k) fun _ h => .of_led (led_of_keeps h) k

/-- What a page of a read and a free page keep, the read keeps (R512). -/
theorem archiveReadOn_intro {k n : Nat} (P : State → Prop) (hpage : ∀ s r, P s → P (archivePage s k n r).2) (hfree : ∀ s, P s → P (freePage s).2) (f : Nat)
    {s : State} (h : P s) (r : Request) : P (archiveReadOn f s k n r) := by
  induction f generalizing s r with
  | zero => exact h
  | succ f ih =>
    rw [archiveReadOn]
    split
    · exact ih (hfree _ (hpage s r h)) _
    · exact hpage s r h

theorem pagesKept_archiveReadOn (f : Nat) (s : State) (k n : Nat) (r : Request) : PagesKept s (archiveReadOn f s k n r) k :=
  archiveReadOn_intro (fun t => PagesKept s t k) (fun t r h => h.trans (pagesKept_archivePage t k n r)) (fun t h => h.trans (pagesKept_freePage t k)) f (.refl s k) r

theorem pagesKept_relocateBlock (s : State) (k key : Nat) : PagesKept s (relocateBlock s k key) k := by
  unfold relocateBlock
  extract_lets l u
  split
  · exact .refl ..
  · rw [PagesKept, ledOf_ledReport, ledOf_ledHealth, ledOf_modLedger_self]

theorem pagesKept_releaseParity (s : State) (k num : Nat) : PagesKept s (releaseParity s k num) k := by
  unfold releaseParity
  extract_lets l
  split
  · exact .refl ..
  split
  · extract_lets u v
    have hu : PagesKept s u k := pagesKept_modBlock ..
    have hv : PagesKept u v k := pagesKept_foldl (fun s b => pagesKept_modBlock s k b _) _ u
    exact (hu.trans hv).trans (pagesKept_modLedger v k fun _ => rfl)
  · exact .refl ..

theorem pagesKept_readBack (s : State) (k ppa bits : Nat) (good : Bool) : PagesKept s (readBack s k ppa bits good) k := by
  unfold readBack
  extract_lets key u
  split
  · exact pagesKept_relocateBlock ..
  split
  · exact pagesKept_modLedger s k fun _ => rfl
  · have hu : PagesKept s u k := pagesKept_modBlock ..
    split
    · exact hu.trans (pagesKept_releaseParity ..)
    · exact hu

theorem pagesKept_readDone (s : State) (k ppa : Nat) (what : ReadFor) (bits : Nat) (good : Bool) : PagesKept s (readDone s k ppa what bits good) k := by
  unfold readDone
  cases what with
  | archive num pos =>
    dsimp only
    split
    · split
      · split
        · exact pagesKept_archiveReadOn ..
        · exact pagesKept_serviceDone ..
      · exact .refl ..
    · exact .refl ..
  | journal num =>
    dsimp only
    split
    · split
      · exact .of_led ((journalAnswer_keeps (Keeps.refl (allBut .led) _) rfl).rest) k
      · exact pagesKept_modReq ..
    · exact pagesKept_modReq ..
  | readBack => exact pagesKept_readBack ..
  | patrol => exact .refl ..
  | scan => exact .refl ..

theorem pagesKept_noteCorrected (s : State) (k ppa bits : Nat) : PagesKept s (noteCorrected s k ppa bits) k := by
  unfold noteCorrected
  split
  · exact .refl ..
  · rw [PagesKept, ledOf_ledReport, ledOf_ledHealth]

/-- A page that no level decodes is bad, and its data stay (R487, R509). -/
theorem pageUncorrectable_page {s : State} {k ppa : Nat} {g : NandPage} (h : tget (ledOf s k).pages ppa = some g) :
    tget (ledOf (pageUncorrectable s k ppa) k).pages ppa = some { g with bad := true } ∧
    (ledOf (pageUncorrectable s k ppa) k).patrolled = (ledOf s k).patrolled := by
  unfold pageUncorrectable
  extract_lets u
  have hu : ledOf u k = _ := (ledOf_ledReport ..).trans (ledOf_ledHealth ..)
  have hg : tget (ledOf u k).pages ppa = some g := by rw [hu]; exact h
  split
  · next hn => exact absurd (hn.symm.trans hg) (by simp)
  next g' hg' =>
  obtain rfl : g = g' := Option.some.inj (hg.symm.trans hg')
  extract_lets cur v
  have hv : ledOf v k = { ledOf u k with pages := tput (ledOf u k).pages ppa { g with bad := true } } := ledOf_modLedger_self ..
  have hpage : tget (ledOf v k).pages ppa = some { g with bad := true } ∧ (ledOf v k).patrolled = (ledOf s k).patrolled := by
    rw [hv, hu]
    exact ⟨tget_tput_self .., rfl⟩
  split
  · unfold loseRecords
    extract_lets first w
    have hw : ledOf w k = _ := ledOf_modLedger_self ..
    rw [ledOf_ledReport, hw]
    exact hpage
  · exact hpage

/-- The reads that are still awaited when one has ended. -/
def readsLeft (s : State) (k a level : Nat) (what : ReadFor) : List (Nat × Nat × ReadFor) :=
  dropFirst (fun x => x == (a, level, what)) (ledOf (ledCount s k 4 1) k).reads

/-- The state in which a read has ended: counted, and no longer awaited (R487). -/
def readTaken (s : State) (k a level : Nat) (what : ReadFor) : State :=
  modLedger (ledCount s k 4 1) k fun l => { l with reads := readsLeft s k a level what }

theorem readTaken_pages (s : State) (k a level : Nat) (what : ReadFor) : PagesKept s (readTaken s k a level what) k := by
  rw [PagesKept, readTaken, ledOf_modLedger_self, ledOf_ledCount]

theorem retryLevels_congr {s t : State} (hep : t.ep.cur = s.ep.cur) (hrw : t.dict.rw = s.dict.rw) : retryLevels t = retryLevels s := by
  have hg : groundValue t 0x6001 0 = groundValue s 0x6001 0 := by simp only [groundValue, State.cfg, hep, hrw]
  have hv : valueInForce t 0x6001 0 = valueInForce s 0x6001 0 := by simp only [valueInForce, hg, State.tint, State.cfg, hep]
  rw [retryLevels, mediaProfile, hv, retryLevels, mediaProfile]

/-- Suspending an erase counts it, and nothing else (R489). -/
theorem suspendErase_keepsMedia {s u : State} {k ppa : Nat} (h : suspendErase s k ppa = some u) :
    ledOf u k = { ledOf s k with erasing := (ledOf u k).erasing } ∧ u.ep = s.ep ∧ u.dict = s.dict := by
  unfold suspendErase at h
  split at h
  · cases h
    exact ⟨rfl, rfl, rfl⟩
  · split at h
    · cases h
      rw [ledOf_modLedger_self]
      exact ⟨rfl, rfl, rfl⟩
    · cases h

/-- What a read's end does, by whether its page decodes and a level is left (R487). -/
theorem execNandReadComplete_awaited {s u : State} {d : Deckle} {ppa : BitVec 32} {level : BitVec 4} {what : ReadFor} {g : NandPage}
    (hst : (ledOf s d.val).state ≠ 6) (hdie : dieUp s (16 + d.val) = true) (hdown : (ledOf s d.val).down.contains (ppaChan ppa.toNat % 2) = false)
    (hread : (ledOf s d.val).reads.find? (fun e => e.1 == ppa.toNat && e.2.1 == level.toNat) = some (ppa.toNat, level.toNat, what))
    (hu : suspendErase s d.val ppa.toNat = some u) (hg : tget (ledOf s d.val).pages ppa.toNat = some g) (bits : BitVec 16) :
    execNandReadComplete d ppa level bits true s = .next (readDone (noteCorrected (modLedger (readTaken u d.val ppa.toNat level.toNat what) d.val
      fun l => { l with pages := tput l.pages ppa.toNat { g with bits := bits.toNat, level := level.toNat } }) d.val ppa.toNat bits.toNat)
        d.val ppa.toNat what bits.toNat true) ∧
    execNandReadComplete d ppa level bits false s = .next (if level.toNat < retryLevels s then
        modLedger (ledCount u d.val 4 1) d.val fun l =>
          { l with reads := readsLeft u d.val ppa.toNat level.toNat what ++ [(ppa.toNat, level.toNat + 1, what)] }
      else readDone (pageUncorrectable (readTaken u d.val ppa.toNat level.toNat what) d.val ppa.toNat) d.val ppa.toNat what 0 false) := by
  obtain ⟨huled, huep, hudict⟩ := suspendErase_keepsMedia hu
  have hlev : retryLevels (ledCount u d.val 4 1) = retryLevels s := retryLevels_congr (congrArg Epochs.cur huep) (congrArg DictState.rw hudict)
  have hpages : tget (ledOf (readTaken u d.val ppa.toNat level.toNat what) d.val).pages ppa.toNat = some g := by
    rw [readTaken_pages, huled]
    exact hg
  have hexec (good : Bool) : execNandReadComplete d ppa level bits good s = .next (
      if good then readDone (noteCorrected (match tget (ledOf (readTaken u d.val ppa.toNat level.toNat what) d.val).pages ppa.toNat with
        | some g => modLedger (readTaken u d.val ppa.toNat level.toNat what) d.val fun l =>
          { l with pages := tput l.pages ppa.toNat { g with bits := bits.toNat, level := level.toNat } }
        | none => readTaken u d.val ppa.toNat level.toNat what) d.val ppa.toNat bits.toNat) d.val ppa.toNat what bits.toNat true
      else if level.toNat < retryLevels (ledCount u d.val 4 1) then
        modLedger (ledCount u d.val 4 1) d.val fun l =>
          { l with reads := readsLeft u d.val ppa.toNat level.toNat what ++ [(ppa.toNat, level.toNat + 1, what)] }
      else readDone (pageUncorrectable (readTaken u d.val ppa.toNat level.toNat what) d.val ppa.toNat) d.val ppa.toNat what 0 false) := by
    unfold execNandReadComplete
    extract_lets k a l
    rw [if_neg (by simp only [l, k, a, hst, hdie, hdown]; decide)]
    rw [show List.find? (fun e => e.1 == a && e.2.1 == level.toNat) l.reads = _ from hread]
    dsimp only
    rw [show suspendErase s k a = _ from hu]
    cases good
    · by_cases hlt : level.toNat < retryLevels (ledCount u d.val 4 1)
      · rw [if_neg (by decide), if_pos hlt]
        exact (if_neg (by decide)).trans (if_pos hlt)
      · rw [if_neg (by decide), if_neg hlt]
        exact (if_neg (by decide)).trans (if_neg hlt)
    · rfl
  constructor
  · rw [hexec, if_pos rfl, hpages]
  · rw [hexec, if_neg (by decide), hlev]

/-! ### Patrol -/

theorem relocateBlock_patrolled (s : State) (k key : Nat) : (ledOf (relocateBlock s k key) k).patrolled = (ledOf s k).patrolled := by
  unfold relocateBlock
  extract_lets l u
  split
  · rfl
  · rw [ledOf_ledReport, ledOf_ledHealth, ledOf_modLedger_self]

theorem noteCorrected_patrolled (s : State) (k ppa bits : Nat) : (ledOf (noteCorrected s k ppa bits) k).patrolled = (ledOf s k).patrolled := by
  unfold noteCorrected
  split
  · rfl
  · rw [ledOf_ledReport, ledOf_ledHealth]

/-- The state in which patrol has read a page, before it looks whether it has read them all (R524). -/
def pagePatrolled (s : State) (k a level bits : Nat) (good : Bool) : State :=
  let u := ledCount (ledCount s k 6 1) k 4 1
  let u := modLedger u k fun l => { l with patrolled := if l.patrolled.contains a then l.patrolled else l.patrolled ++ [a] }
  let u := if good then noteCorrected u k a bits else pageUncorrectable u k a
  if good && (setting u 0x600B 0 < bits || 2 < level) then relocateBlock u k (ppaBlock a) else u

theorem pagePatrolled_media {s : State} {k a : Nat} {g : NandPage} (hg : tget (ledOf s k).pages a = some g) (level bits : Nat) (good : Bool) :
    (ledOf (pagePatrolled s k a level bits good) k).patrolled.contains a = true ∧
    (good = false → tget (ledOf (pagePatrolled s k a level bits good) k).pages a = some { g with bad := true }) ∧
    (good = true → (ledOf (pagePatrolled s k a level bits good) k).pages = (ledOf s k).pages) := by
  unfold pagePatrolled
  extract_lets u v w
  have hv : ledOf v k = _ := ledOf_modLedger_self ..
  have hvp : PagesKept s v k := by rw [PagesKept, hv, ledOf_ledCount, ledOf_ledCount]
  have hvc : (ledOf v k).patrolled.contains a = true := by
    rw [hv]
    dsimp only
    split
    · assumption
    · simp
  cases good with
  | false =>
    obtain ⟨hp, hc⟩ := pageUncorrectable_page (k := k) (s := v) (hvp ▸ hg)
    exact ⟨by rw [show w = pageUncorrectable v k a from rfl]; simpa [hc] using hvc, fun _ => hp, fun h => by cases h⟩
  | true =>
    have hwp : (ledOf w k).pages = (ledOf s k).pages := hvp.trans (pagesKept_noteCorrected v k a bits)
    have hwc : (ledOf w k).patrolled.contains a = true := by rw [show w = noteCorrected v k a bits from rfl, noteCorrected_patrolled]; exact hvc
    refine ⟨?_, nofun, fun _ => ?_⟩
    · split
      · rw [relocateBlock_patrolled]
        exact hwc
      · exact hwc
    · split
      · exact Eq.trans (pagesKept_relocateBlock w k _) hwp
      · exact hwp

theorem execPatrolRead_serving {s : State} {d : Deckle} {ppa : BitVec 32} {g : NandPage} (hst : (ledOf s d.val).state = 2 ∨ (ledOf s d.val).state = 3)
    (hdie : dieUp s (16 + d.val) = true) (hg : tget (ledOf s d.val).pages ppa.toNat = some g)
    (hret : (ledOf s d.val).retired.contains (ppaBlock ppa.toNat) = false) (hdown : (ledOf s d.val).down.contains (ppaChan ppa.toNat % 2) = false)
    (level : BitVec 4) (bits : BitVec 16) (good : Bool) : ∃ t, execPatrolRead d ppa level bits good s = .next t ∧
      (ledOf t d.val).pages = (ledOf (pagePatrolled s d.val ppa.toNat level.toNat bits.toNat good) d.val).pages ∧
      ((ledOf t d.val).patrolled = (ledOf (pagePatrolled s d.val ppa.toNat level.toNat bits.toNat good) d.val).patrolled ∨ (ledOf t d.val).patrolled = []) := by
  unfold execPatrolRead
  extract_lets k a l u v w x y
  have hst' : (l.state == 2 || l.state == 3) = true := by rcases hst with h | h <;> simp [l, k, h]
  rw [if_neg (by simp only [hst', show dieUp s (16 + k) = true from hdie, show tget l.pages a = some g from hg,
    show l.retired.contains (ppaBlock a) = false from hret, show l.down.contains (ppaChan a % 2) = false from hdown]; exact Bool.false_ne_true)]
  refine ⟨_, rfl, ?_⟩
  split
  · rw [ledOf_modLedger_self]
    exact ⟨rfl, .inr rfl⟩
  · exact ⟨rfl, .inl rfl⟩

/-! ### Garbage collection -/

theorem pagesKept_beginErase (s : State) (k key : Nat) : PagesKept s (beginErase s k key) k := pagesKept_modLedger s k fun _ => rfl

theorem beginErase_erasing (s : State) (k key : Nat) : tget (ledOf (beginErase s k key) k).erasing key = some 0 := by
  rw [beginErase, ledOf_modLedger_self]
  exact tget_tput_self ..

/-- A block that holds nothing valid is erased (R515, R521). -/
theorem execGarbageCollect_erases {s : State} {d : Deckle} {ppa : BitVec 32} (hst : (ledOf s d.val).state = 2 ∨ (ledOf s d.val).state = 3)
    (hdie : dieUp s (16 + d.val) = true) (htarget : (targetOf s d.val (ppaBlock ppa.toNat)).isSome = true)
    (hret : (ledOf s d.val).retired.contains (ppaBlock ppa.toNat) = false) (hera : tget (ledOf s d.val).erasing (ppaBlock ppa.toNat) = none)
    (hblock : (blockOf (ledOf s d.val) (ppaBlock ppa.toNat)).cls = 4 ∨ (isJ (ledOf s d.val) (ppaBlock ppa.toNat) = false ∧
        (blockOf (ledOf s d.val) (ppaBlock ppa.toNat)).cls = 1 ∧ (blockOf (ledOf s d.val) (ppaBlock ppa.toNat)).valid = 0 ∧
        (blockOf (ledOf s d.val) (ppaBlock ppa.toNat)).parity = false ∧ (blockOf (ledOf s d.val) (ppaBlock ppa.toNat)).stripe = none ∧
        tget (ledOf s d.val).remap (ppaBlock ppa.toNat) = none)) :
    execGarbageCollect d ppa s = .next (beginErase s d.val (ppaBlock ppa.toNat)) := by
  obtain ⟨x, hx⟩ := Option.isSome_iff_exists.mp htarget
  unfold execGarbageCollect
  extract_lets k key l b free on
  have hst' : (l.state == 2 || l.state == 3) = true := by rcases hst with h | h <;> simp [l, k, h]
  rw [if_neg (by simp only [hst', show dieUp s (16 + k) = true from hdie, show targetOf s k key = some x from hx,
    show l.retired.contains key = false from hret, show tget l.erasing key = none from hera]; exact Bool.false_ne_true)]
  rcases hblock with h4 | ⟨hj, h1, hv, hp, hs, hr⟩
  · exact if_pos h4
  · have h4 : ¬ b.cls = 4 := fun h => absurd (h1.symm.trans h) (by decide)
    rw [if_neg h4, if_pos (by rw [show isJ l key = false from hj]; rfl)]
    exact if_pos (by simp only [show b.cls = 1 from h1, show b.valid = 0 from hv, show b.parity = false from hp, show b.stripe = none from hs,
      show tget l.remap key = none from hr]; decide)

/-- Collecting a closed block of volume J, by the volume's free blocks (R519, R522). -/
theorem execGarbageCollect_candidate {s : State} {d : Deckle} {ppa : BitVec 32} (hst : (ledOf s d.val).state = 2 ∨ (ledOf s d.val).state = 3)
    (hdie : dieUp s (16 + d.val) = true) (htarget : (targetOf s d.val (ppaBlock ppa.toNat)).isSome = true)
    (hcand : gcCandidate (ledOf s d.val) (ppaBlock ppa.toNat) (blockOf (ledOf s d.val) (ppaBlock ppa.toNat)) = true) :
    ∃ t, execGarbageCollect d ppa s = .next t ∧ PagesKept s t d.val ∧
      (setting s 0x600C 1 ≤ freeBlocks s d.val true → setting s 0x600C 2 ≤ freeBlocks s d.val true → (ledOf t d.val).collecting = false ∧
        (ledOf t d.val).jobs = (ledOf s d.val).jobs) ∧
      (freeBlocks s d.val true < setting s 0x600C 1 → (ledOf t d.val).collecting = true ∧
        (blockValid (ledOf s d.val) (ppaBlock ppa.toNat) = 0 → copiesSafe (ledOf s d.val) (ppaBlock ppa.toNat) = true →
          tget (ledOf t d.val).erasing (ppaBlock ppa.toNat) = some 0)) := by
  obtain ⟨x, hx⟩ := Option.isSome_iff_exists.mp htarget
  obtain ⟨⟨⟨⟨⟨hj, h1⟩, hs⟩, hp⟩, hret⟩, hera⟩ : ((((isJ (ledOf s d.val) (ppaBlock ppa.toNat) = true ∧
      (blockOf (ledOf s d.val) (ppaBlock ppa.toNat)).cls = 1) ∧ (blockOf (ledOf s d.val) (ppaBlock ppa.toNat)).stripe = none) ∧
      (blockOf (ledOf s d.val) (ppaBlock ppa.toNat)).parity = false) ∧ (ledOf s d.val).retired.contains (ppaBlock ppa.toNat) = false) ∧
      tget (ledOf s d.val).erasing (ppaBlock ppa.toNat) = none := by
    simpa only [gcCandidate, Bool.and_eq_true, beq_iff_eq, Bool.not_eq_true', Option.isNone_iff_eq_none] using hcand
  unfold execGarbageCollect
  extract_lets k key l b free on u score best
  have hst' : (l.state == 2 || l.state == 3) = true := by rcases hst with h | h <;> simp [l, k, h]
  rw [if_neg (by simp only [hst', show dieUp s (16 + k) = true from hdie, show targetOf s k key = some x from hx,
    show l.retired.contains key = false from hret, show tget l.erasing key = none from hera]; exact Bool.false_ne_true),
    if_neg (show ¬ b.cls = 4 from fun h => absurd ((show b.cls = 1 from h1).symm.trans h) (by decide)),
    if_neg (by rw [show isJ l key = true from hj]; decide)]
  have hu : ledOf u k = { ledOf s k with collecting := true } := ledOf_modLedger_self ..
  by_cases hon : on = true
  · rw [if_neg (by rw [hon]; decide), if_neg (by rw [show gcCandidate l key b = true from hcand]; decide)]
    have hoff : ¬ (setting s 0x600C 1 ≤ free ∧ setting s 0x600C 2 ≤ free) := by
      intro ⟨ha, hb⟩
      simp [on, Nat.not_lt.mpr ha, Nat.not_lt.mpr hb] at hon
    by_cases hvalid : blockValid l key = 0
    · rw [if_pos hvalid]
      by_cases hsafe : copiesSafe l key = true
      · rw [if_pos hsafe]
        refine ⟨_, rfl, ?_, fun ha hb => absurd ⟨ha, hb⟩ hoff, fun _ => ⟨?_, fun _ _ => beginErase_erasing u k key⟩⟩
        · exact (show PagesKept s u k from pagesKept_modLedger s k fun _ => rfl).trans (pagesKept_beginErase u k key)
        · show (ledOf (beginErase u k key) k).collecting = true
          rw [beginErase, ledOf_modLedger_self, hu]
      · rw [if_neg hsafe]
        refine ⟨_, rfl, pagesKept_modLedger s k fun _ => rfl, fun ha hb => absurd ⟨ha, hb⟩ hoff, fun _ => ⟨by rw [hu], fun _ hs' => absurd hs' hsafe⟩⟩
    · rw [if_neg hvalid]
      have hcol : (ledOf u k).collecting = true := by rw [hu]
      split
      · refine ⟨_, rfl, ?_, fun ha hb => absurd ⟨ha, hb⟩ hoff, fun _ => ⟨?_, fun h0 => absurd h0 hvalid⟩⟩
        · exact (show PagesKept s u k from pagesKept_modLedger s k fun _ => rfl).trans (pagesKept_modLedger u k fun _ => rfl)
        · rw [ledOf_modLedger_self]
          exact hcol
      · exact ⟨_, rfl, pagesKept_modLedger s k fun _ => rfl, fun ha hb => absurd ⟨ha, hb⟩ hoff, fun _ => ⟨hcol, fun h0 => absurd h0 hvalid⟩⟩
  · rw [if_pos (by rw [Bool.not_eq_true] at hon; rw [hon]; rfl)]
    refine ⟨_, rfl, pagesKept_modLedger s k fun _ => rfl, fun _ _ => ?_, fun hlow => ?_⟩
    · rw [ledOf_modLedger_self]
      exact ⟨rfl, rfl⟩
    · exact absurd (show on = true by simp [on, show free < setting s 0x600C 1 from hlow]) hon

/-- Settles O38: each report of the NAND by what it leaves of its page or block. -/
theorem nandCommandsComplete : Obligations.NandCommandsComplete := by
  intro s d ppa
  refine ⟨fun i j u hcan hfind hj hu => ⟨?_, ?_⟩, fun hera hst hdie => ⟨?_, ?_⟩, fun level bits what u g hst hdie hdown hread hu hg => ⟨?_, ?_⟩,
    fun level bits good g hst hdie hg hret hdown => ?_, fun hst hdie htarget hret hera hblock => ?_, fun hst hdie htarget hcand => ?_⟩
  · obtain ⟨v, hexec⟩ := execNandProgramComplete_fits hcan hfind hj hu true
    obtain ⟨g, hg, h1, h2, h3, h4, h5⟩ := programPage_page v d.val ppa.toNat j
    exact ⟨_, g, hexec, hg, h1, h2, h3, h4, h5, exec_same (c := .nandProgramComplete d ppa true) hexec .mem⟩
  · obtain ⟨v, hexec⟩ := execNandProgramComplete_fits hcan hfind hj hu false
    exact ⟨_, hexec, programFailed_retires .., exec_same (c := .nandProgramComplete d ppa false) hexec .mem⟩
  · have hexec := execNandEraseComplete_due (ppa := ppa) hera hst hdie true
    obtain ⟨h1, h2, h3⟩ := blockErased_media s d.val (ppaBlock ppa.toNat)
    exact ⟨_, hexec, h1, h2, congrArg Block.erases h3, congrArg Block.cls h3, fun q hq => exec_same (c := .nandEraseComplete d ppa true) hexec q hq⟩
  · have hexec := execNandEraseComplete_due (ppa := ppa) hera hst hdie false
    obtain ⟨h1, h2, h3⟩ := eraseFailed_media s d.val (ppaBlock ppa.toNat)
    exact ⟨_, hexec, h1, h2, h3, fun q hq => exec_same (c := .nandEraseComplete d ppa false) hexec q hq⟩
  · obtain ⟨hexec, -⟩ := execNandReadComplete_awaited hst hdie hdown hread hu hg bits
    refine ⟨_, { g with bits := bits.toNat, level := level.toNat }, hexec, ?_, rfl, rfl, rfl, rfl, exec_same (c := .nandReadComplete d ppa level bits true) hexec .mem⟩
    rw [pagesKept_readDone, pagesKept_noteCorrected, ledOf_modLedger_self]
    exact tget_tput_self ..
  · obtain ⟨-, hexec⟩ := execNandReadComplete_awaited hst hdie hdown hread hu hg bits
    obtain ⟨huled, -, -⟩ := suspendErase_keepsMedia hu
    refine ⟨_, hexec, exec_same (c := .nandReadComplete d ppa level bits false) hexec .mem, fun hlt => ?_, fun hge => ?_⟩
    · rw [if_pos hlt, ledOf_modLedger_self, ledOf_ledCount, huled]
      exact ⟨List.mem_append_right _ (List.mem_singleton_self _), rfl⟩
    · rw [if_neg (Nat.not_lt.mpr hge)]
      have hpage : tget (ledOf (readTaken u d.val ppa.toNat level.toNat what) d.val).pages ppa.toNat = some g := by
        rw [readTaken_pages, huled]
        exact hg
      refine ⟨{ g with bad := true }, ?_, rfl, rfl⟩
      rw [pagesKept_readDone]
      exact (pageUncorrectable_page hpage).1
  · obtain ⟨t, hexec, hpages, hpat⟩ := execPatrolRead_serving hst hdie hg hret hdown level bits good
    obtain ⟨h1, h2, h3⟩ := pagePatrolled_media (k := d.val) hg level.toNat bits.toNat good
    refine ⟨t, hexec, hpat.imp (fun h => by rw [h]; exact h1) id, fun hb => ⟨{ g with bad := true }, hpages ▸ h2 hb, rfl⟩, fun hb => hpages.trans (h3 hb),
      fun q hq => exec_same (c := .patrolRead d ppa level bits good) hexec q hq⟩
  · have hexec := execGarbageCollect_erases hst hdie htarget hret hera hblock
    exact ⟨_, hexec, beginErase_erasing .., pagesKept_beginErase .., fun q hq => exec_same (c := .garbageCollect d ppa) hexec q hq⟩
  · obtain ⟨t, hexec, h1, h2, h3⟩ := execGarbageCollect_candidate hst hdie htarget hcand
    exact ⟨t, hexec, h1, fun q hq => exec_same (c := .garbageCollect d ppa) hexec q hq, h2, h3⟩

end Sys2Proof.Machine

/-!
PROOFS. The ledger's upkeep: scans, health, temperatures and channels (R507, R526 to R533).
-/
namespace Sys2Proof.Machine

set_option Elab.async false

/-! ### Scans -/

/-- The state in which the volume J scan has found the chain's end and logged what it must (R527, R530). -/
def chainScanned (s : State) (k : Nat) : State :=
  let l := ledOf s k
  let u := modLedger s k fun l => { l with chain := scannedChain l.chain }
  let u := if l.clean then u else ledReport u k 0x8D 2 (chainOf u k).chained
  if 0 < l.flushLate then ledReport (modLedger u k fun l => { l with flushLate := 0 }) k 0x91 2 l.flushLate else u

theorem chainScanned_chain (s : State) (k : Nat) : chainOf (chainScanned s k) k = scannedChain (chainOf s k) := by
  unfold chainScanned
  extract_lets l u v
  have hu : chainOf u k = scannedChain (chainOf s k) := congrArg Ledger.chain (ledOf_modLedger_self ..)
  have hv : chainOf v k = scannedChain (chainOf s k) := by
    unfold v
    split
    · exact hu
    · rw [chainOf, ledOf_ledReport]
      exact hu
  split
  · rw [chainOf, ledOf_ledReport, ledOf_modLedger_self]
    exact hv
  · exact hv

/-- A scan after no completed flush logs it (R527). -/
theorem chainScanned_reported {s : State} {k : Nat} (hclean : (ledOf s k).clean = false) (hlate : (ledOf s k).flushLate = 0) :
    Reported s (chainScanned s k) 0x8D 2 := by
  unfold chainScanned
  extract_lets l u v
  rw [if_neg (by rw [show l.flushLate = 0 from hlate]; decide)]
  have hv : v = ledReport u k 0x8D 2 (chainOf u k).chained := if_neg (by rw [show l.clean = false from hclean]; decide)
  rw [hv]
  exact reported_of_integ (u := u) rfl rfl

theorem execVolumeJScanEnd_scans {s : State} {d : Deckle} (hdie : dieUp s (16 + d.val) = true) (hst : (ledOf s d.val).state = 1)
    (hseal : (ledOf s d.val).startSeal = none) : ∃ r, execVolumeJScanEnd d s = .next (modLedger (chainScanned s d.val) d.val fun l =>
      { l with
        startSeal := some (scannedChain (chainOf s d.val)).chained, scanA := true
        chain := { l.chain with signing := some ((scannedChain (chainOf s d.val)).chained, r), next := (scannedChain (chainOf s d.val)).chained + 1 } }) := by
  unfold execVolumeJScanEnd
  extract_lets k l u q v w r
  rw [if_neg (by simp [l, k, hst, hseal, hdie])]
  have hq : q = (scannedChain (chainOf s k)).chained := congrArg (fun l : Ledger => l.chain.chained) (ledOf_modLedger_self ..)
  exact ⟨r, by rw [← hq]; rfl⟩

/-- The chain that the scan leaves under signature: the state, the seal and what the scan found in it (R527). -/
theorem execVolumeJScanEnd_seals {s : State} {d : Deckle} (hdie : dieUp s (16 + d.val) = true) (hst : (ledOf s d.val).state = 1)
    (hseal : (ledOf s d.val).startSeal = none) : ∃ (t : State) (x : Bytes), execVolumeJScanEnd d s = .next t ∧
      (ledOf t d.val).startSeal = some (scannedChain (chainOf s d.val)).chained ∧ (ledOf t d.val).scanA = true ∧
      (chainOf t d.val).signing = some ((scannedChain (chainOf s d.val)).chained, x) ∧
      (chainOf t d.val).next = (scannedChain (chainOf s d.val)).chained + 1 ∧ (chainOf t d.val).recs = (scannedChain (chainOf s d.val)).recs ∧
      ((ledOf s d.val).clean = false → (ledOf s d.val).flushLate = 0 → Reported s t 0x8D 2) := by
  obtain ⟨r, h⟩ := execVolumeJScanEnd_scans hdie hst hseal
  refine ⟨_, r, h, ?_⟩
  simp only [chainOf, ledOf_modLedger_self, true_and]
  exact ⟨congrArg Chain.recs (chainScanned_chain s d.val), fun hc hl => (chainScanned_reported hc hl).congr rfl rfl⟩

/-- The volume A scan takes the remaps that the pages' metadata name (R528). -/
theorem execVolumeAScanEnd_scans {s : State} {d : Deckle} (hdie : dieUp s (16 + d.val) = true) (hscan : (ledOf s d.val).scanA = true)
    (hst : (ledOf s d.val).state = 2 ∨ (ledOf s d.val).state = 3) : execVolumeAScanEnd d s = .next (modLedger s d.val fun l =>
      { l with scanA := false, blocks := scannedBlocks (ledOf s d.val), remap := scannedRemap (ledOf s d.val) }) :=
  if_pos (by simp [hdie, hscan, hst])

/-! ### Health and temperatures -/

/-- The check of one volume's spare blocks (R532). -/
def spareNoted (k : Nat) (r : Bytes) (s : State) (v : Nat) : State :=
  if field r v 1 < 10 && !(ledOf s k).spareLow.contains v then
    ledReport (modLedger s k fun l => { l with spareLow := l.spareLow ++ [v] }) k 0x90 1 v
  else s

theorem spareNoted_media (k : Nat) (r : Bytes) (s : State) (v : Nat) :
    (ledOf (spareNoted k r s v) k).report = (ledOf s k).report ∧ (ledOf (spareNoted k r s v) k).chain = (ledOf s k).chain := by
  unfold spareNoted
  split
  · rw [ledOf_ledReport, ledOf_modLedger_self]
    exact ⟨rfl, rfl⟩
  · exact ⟨rfl, rfl⟩

theorem spareNoted_ample {k : Nat} {r : Bytes} {v : Nat} (h : 10 ≤ field r v 1) (s : State) : spareNoted k r s v = s :=
  if_neg (by simp [Nat.not_lt.mpr h])

/-- The state with the health record updated (R532). -/
def healthUpdated (s : State) (k : Nat) : State := modLedger s k fun l => { l with report := healthBytes s k }

theorem execHealthUpdate_formatted {s : State} {d : Deckle} (hdie : dieUp s (16 + d.val) = true) (hf : (ledOf s d.val).formatted = true)
    (hst : (ledOf s d.val).state ≠ 6) : execHealthUpdate d s =
      .next (spareNoted d.val (healthBytes s d.val) (spareNoted d.val (healthBytes s d.val) (healthUpdated s d.val) 0) 1) := by
  unfold execHealthUpdate
  extract_lets k l r u
  rw [if_neg (by simp [l, k, hdie, hf, hst]), show List.range 2 = [0, 1] from rfl, List.foldl_cons, List.foldl_cons, List.foldl_nil]
  rfl

theorem healthUpdated_only (s : State) (k : Nat) : OnlyParts [.led] s (healthUpdated s k) := onlyParts_of_keeps (modLedger_keeps (Keeps.refl _ s) rfl)

theorem history_addReading (s : State) (src : Nat) (c : Int) : tgetD (addReading s src c).led.history src {} =
    { tgetD s.led.history src {} with
      bins := tinc (tgetD s.led.history src {}).bins (if c < -40 then 0 else Nat.min 32 ((c + 40) / 5).toNat) 1
      max := if (tgetD s.led.history src {}).bins.isEmpty || (tgetD s.led.history src {}).max < c then c else (tgetD s.led.history src {}).max
      maxAt := if (tgetD s.led.history src {}).bins.isEmpty || (tgetD s.led.history src {}).max < c then s.now else (tgetD s.led.history src {}).maxAt } := by
  unfold addReading
  extract_lets bin
  dsimp only [modLed]
  rw [tgetD_tmod_self]

theorem bin_of_reading {x : Int} (hlo : -40 ≤ x) (hhi : x < 120) : (if x < -40 then 0 else Nat.min 32 ((x + 40) / 5).toNat) = ((x + 40) / 5).toNat := by
  rw [if_neg (by omega)]
  exact Nat.min_eq_right (by omega)

theorem execTemperatureMinute_one {s : State} {d : Deckle} (hdie : dieUp s (16 + d.val) = true) (hd : d ≠ 0) (hf : (ledOf s d.val).formatted = true) (x : Int) :
    execTemperatureMinute d [x] [] s = .next (addReading s (16 + d.val) x) := by
  have hne : ¬ d.val = 0 := fun h => hd (Fin.ext h)
  unfold execTemperatureMinute
  extract_lets k srcs u
  rw [if_neg (by simp [k, hf, hdie])]
  have hs : srcs = [16 + k] := if_neg hne
  have hu : u = addReading s (16 + k) x := by
    unfold u
    rw [hs]
    rfl
  rw [hu]
  rfl

/-! ### Channels -/

/-- The state in which a channel has failed (R507). -/
def channelLost (s : State) (k c : Nat) : State :=
  let u := modLedger s k fun l => { l with down := l.down ++ [c % 2] }
  let u := ledReport u k 0x8E 2 c
  if (ledOf u k).down.length = 2 && ((ledOf s k).state = 1 || (ledOf s k).state = 2 || (ledOf s k).state = 3) then
    ledReport (modLedger u k fun l => { l with downFrom := l.state, state := 4 }) k 0x8A 2 k
  else u

theorem ledOf_withDevice (f : State → State) (s : State) (k : Nat) : ledOf (withDevice f s) k = ledOf (f s) k := by
  rw [ledOf, show (withDevice f s).led = _ from deviceNote_only s (f s) .led rfl, ledOf]

theorem Reported.withDevice {f : State → State} {s : State} {c k : Nat} (h : Reported s (f s) c k) : Reported s (withDevice f s) c k :=
  h.congr rfl (deviceNote_only s (f s) .integ rfl)

theorem channelLost_down (s : State) (k c : Nat) : (ledOf (channelLost s k c) k).down = (ledOf s k).down ++ [c % 2] := by
  unfold channelLost
  extract_lets u v
  have hv : (ledOf v k).down = (ledOf s k).down ++ [c % 2] := by
    rw [show ledOf v k = ledOf u k from ledOf_ledReport .., ledOf_modLedger_self]
  split
  · rw [ledOf_ledReport, ledOf_modLedger_self]
    exact hv
  · exact hv

/-- The first channel that fails is logged, and the engine goes on (R507). -/
theorem channelLost_first {s : State} {k : Nat} (h : (ledOf s k).down = []) (c : Nat) :
    (ledOf (channelLost s k c) k).state = (ledOf s k).state ∧ Reported s (channelLost s k c) 0x8E 2 := by
  unfold channelLost
  extract_lets u v
  have hv : ledOf v k = { ledOf s k with down := (ledOf s k).down ++ [c % 2] } := (ledOf_ledReport ..).trans (ledOf_modLedger_self ..)
  rw [if_neg (by simp [hv, h]), hv]
  exact ⟨rfl, reported_of_integ (u := u) rfl rfl⟩

/-- The second leaves a READY engine DOWN (R507). -/
theorem channelLost_second {s : State} {k x : Nat} (h : (ledOf s k).down = [x]) (hst : (ledOf s k).state = 2) (c : Nat) :
    (ledOf (channelLost s k c) k).state = 4 ∧ (ledOf (channelLost s k c) k).downFrom = 2 := by
  unfold channelLost
  extract_lets u v
  have hv : ledOf v k = { ledOf s k with down := (ledOf s k).down ++ [c % 2] } := (ledOf_ledReport ..).trans (ledOf_modLedger_self ..)
  rw [if_pos (by simp [hv, h, hst]), ledOf_ledReport, ledOf_modLedger_self]
  exact ⟨rfl, (congrArg Ledger.state hv).trans hst⟩

theorem execChannelFailed_up {s : State} {c : ChanId} {k : Nat} (hk : c.val / 2 = k) (hdie : dieUp s (16 + k) = true)
    (hup : (ledOf s k).down.contains (c.val % 2) = false) : execChannelFailed c s = .next (withDevice (fun s => channelLost s k c.val) s) := by
  unfold execChannelFailed
  rw [hk]
  extract_lets k l
  rw [if_neg (by simp only [k, l, hup, hdie]; exact Bool.false_ne_true)]
  unfold withDevice channelLost
  rfl

/-- The state in which a channel is back (R507). -/
def channelBack (s : State) (k c : Nat) : State :=
  let u := modLedger s k fun l => { l with down := l.down.filter (· != c % 2) }
  if (ledOf s k).state = 4 then
    ledCapacity (journalGo (modLedger u k fun l => { l with state := l.downFrom }) k) k
  else u

theorem CapacityMoved.down {s t : State} {k : Nat} (h : CapacityMoved s t k) : (ledOf t k).down = (ledOf s k).down := by
  obtain ⟨_, _, _, _, _, h⟩ := h
  rw [h]

theorem not_contains_filter_ne (l : List Nat) (x : Nat) : (l.filter (· != x)).contains x = false := by simp

theorem channelBack_down (s : State) (k c : Nat) : (ledOf (channelBack s k c) k).down.contains (c % 2) = false := by
  unfold channelBack
  extract_lets u
  have hu : (ledOf u k).down.contains (c % 2) = false := by
    rw [ledOf_modLedger_self]
    exact not_contains_filter_ne ..
  split
  · rw [((journalMoved_journalGo ..).capacity.trans (capacityMoved_ledCapacity ..)).down, ledOf_modLedger_self]
    exact hu
  · exact hu

theorem channelBack_state {s : State} {k : Nat} (c : Nat) :
    ((ledOf s k).state = 4 → (ledOf s k).downFrom = 2 → (ledOf (channelBack s k c) k).state = 2 ∨ (ledOf (channelBack s k c) k).state = 3) ∧
    ((ledOf s k).state ≠ 4 → (ledOf (channelBack s k c) k).state = (ledOf s k).state) := by
  unfold channelBack
  extract_lets u
  refine ⟨fun h hfrom => ?_, fun h => ?_⟩
  · rw [if_pos h]
    refine ledCapacity_state (.inl ((engineKept_journalGo ..).1.trans ?_))
    rw [ledOf_modLedger_self, ledOf_modLedger_self]
    exact hfrom
  · rw [if_neg h, ledOf_modLedger_self]

theorem execChannelReturn_down {s : State} {c : ChanId} {k : Nat} (hk : c.val / 2 = k) (hdie : dieUp s (16 + k) = true)
    (hdown : (ledOf s k).down.contains (c.val % 2) = true) : execChannelReturn c s = .next (withDevice (fun s => channelBack s k c.val) s) := by
  unfold execChannelReturn
  rw [hk]
  extract_lets k l
  rw [if_neg (by simp only [k, l, hdown, hdie]; exact Bool.false_ne_true)]
  unfold withDevice channelBack
  rfl

/-- Settles O39: each scan, record and channel by what it leaves of its engine. -/
theorem ledgerUpkeepComplete : Obligations.LedgerUpkeepComplete := by
  intro s d hdie
  refine ⟨fun hst hseal => ?_, fun hscan hst => ?_, fun hf hst => ?_, fun x hd hf hlo hhi => ?_, fun c hc hup => ?_, fun c hc hdown => ?_⟩
  · obtain ⟨t, x, hexec, h1, h2, h3, h4, h5, h6⟩ := execVolumeJScanEnd_seals hdie hst hseal
    exact ⟨t, x, hexec, h1, h2, h3, h4, h5, h6, fun q hq => exec_same (c := .volumeJScanEnd d) hexec q hq⟩
  · have hexec := execVolumeAScanEnd_scans hdie hscan hst
    refine ⟨_, hexec, ?_⟩
    rw [ledOf_modLedger_self]
    exact ⟨rfl, rfl, rfl, rfl, fun q hq => exec_same (c := .volumeAScanEnd d) hexec q hq⟩
  · have hexec := execHealthUpdate_formatted hdie hf hst
    have hu : ledOf (healthUpdated s d.val) d.val = { ledOf s d.val with report := healthBytes s d.val } := ledOf_modLedger_self ..
    obtain ⟨hr0, hc0⟩ := spareNoted_media d.val (healthBytes s d.val) (healthUpdated s d.val) 0
    obtain ⟨hr1, hc1⟩ := spareNoted_media d.val (healthBytes s d.val) (spareNoted d.val (healthBytes s d.val) (healthUpdated s d.val) 0) 1
    refine ⟨_, hexec, hr1.trans (hr0.trans (by rw [hu])), hc1.trans (hc0.trans (by rw [hu])), fun h0 h1 => ?_⟩
    rw [spareNoted_ample h1, spareNoted_ample h0]
    exact healthUpdated_only s d.val
  · have hexec := execTemperatureMinute_one hdie hd hf x
    refine ⟨_, hexec, ?_, rfl, fun q hq => exec_same (c := .temperatureMinute d [x] []) hexec q hq⟩
    rw [history_addReading, bin_of_reading hlo hhi]
    exact tgetD_tmod_self ..
  · refine ⟨_, execChannelFailed_up hc hdie hup, ?_, fun hnone => ?_, fun hone hst => ?_⟩
    · rw [ledOf_withDevice]
      exact channelLost_down ..
    · obtain ⟨h1, h2⟩ := channelLost_first hnone c.val
      exact ⟨by rw [ledOf_withDevice]; exact h1, h2.withDevice⟩
    · rw [ledOf_withDevice]
      exact channelLost_second hone hst c.val
  · obtain ⟨h1, h2⟩ := channelBack_state (s := s) (k := d.val) c.val
    refine ⟨_, execChannelReturn_down hc hdie hdown, ?_⟩
    rw [ledOf_withDevice]
    exact ⟨channelBack_down .., h1, h2⟩

end Sys2Proof.Machine

/-!
PROOFS. Sync cells: their operations, the waiters that they release and the NOTIFYs that they send (R128 to R132, Table 4.2).
-/
namespace Sys2Proof.Machine

set_option Elab.async false

/-! ### Packets that stay at their injection ports -/

/-- Every packet that waits to leave a tile in s waits there in t. -/
def StillWaits (s t : State) : Prop := ∀ n, ∀ o ∈ tgetD s.fab.waiting n [], o ∈ tgetD t.fab.waiting n []

theorem StillWaits.refl (s : State) : StillWaits s s := fun _ _ h => h
theorem StillWaits.trans {s t u : State} (h : StillWaits s t) (h' : StillWaits t u) : StillWaits s u := fun n o ho => h' n o (h n o ho)
theorem StillWaits.of_waiting {s t : State} (h : t.fab.waiting = s.fab.waiting) : StillWaits s t := fun _ _ ho => by rwa [h]
theorem StillWaits.of_fab {s t : State} (h : t.fab = s.fab) : StillWaits s t := .of_waiting (by rw [h])

theorem waiting_send_ne (s : State) {n m : Nat} (o : Initiator) (p : Packet) (h : m ≠ n) :
    tgetD (send s n o p).fab.waiting m [] = tgetD s.fab.waiting m [] := by
  dsimp only [send, modFab]
  exact tgetD_tmod_ne _ _ _ _ h

theorem stillWaits_send (s : State) (n : Nat) (o : Initiator) (p : Packet) : StillWaits s (send s n o p) := by
  intro m x hx
  by_cases h : m = n
  · rw [h, waiting_send]
    exact List.mem_append_left _ (h ▸ hx)
  · rwa [waiting_send_ne s o p h]

theorem stillWaits_foldl {α : Type} {g : State → α → State} (hg : ∀ s x, StillWaits s (g s x)) (l : List α) (s : State) : StillWaits s (l.foldl g s) :=
  foldl_related .refl .trans hg l s

theorem Sent.stays {s t : State} {n op dest : Nat} {b : Bytes} (h : Sent s n op dest b) (ht : StillWaits s t) : Sent t n op dest b := by
  obtain ⟨o, ho, hp⟩ := h
  exact ⟨o, ht n o ho, hp⟩

/-- A packet that `send` builds with `mkPacket`, whatever its AUX. -/
theorem sent_send (s : State) (n : Nat) (o : Initiator) (op dest part : Nat) (tag : Option Nat) (addr : Nat) (b : Bytes) (x : BitVec 32) :
    Sent (send s n o { mkPacket op dest part tag addr b with aux := x }) n op dest b := by
  refine ⟨{ owner := o, pkt := { { mkPacket op dest part tag addr b with aux := x } with src := BitVec.ofNat 12 n } }, ?_, rfl, rfl, rfl, rfl⟩
  rw [waiting_send]
  exact List.mem_append_right _ (List.mem_singleton_self _)

theorem sent_mkPacket (s : State) (n : Nat) (o : Initiator) (op dest part : Nat) (tag : Option Nat) (addr : Nat) (b : Bytes) :
    Sent (send s n o (mkPacket op dest part tag addr b)) n op dest b := sent_send s n o op dest part tag addr b (mkPacket op dest part tag addr b).aux

theorem sent_sendSyncRsp (s : State) (n : Nat) (w : CellWaiter) (b : Bytes) : Sent (sendSyncRsp s n w b) n 0x21 w.src b := sent_send ..

theorem stillWaits_sendSyncRsp (s : State) (n : Nat) (w : CellWaiter) (b : Bytes) : StillWaits s (sendSyncRsp s n w b) := stillWaits_send _ _ _ _

/-! ### Reading a cell after a write -/

theorem cellOf_of_vs {s t : State} (h : t.vs = s.vs) (k : Nat) : cellOf t k = cellOf s k := by rw [cellOf, h, cellOf]

theorem cellOf_of_cells {s t : State} (h : t.vs.cells = s.vs.cells) (k : Nat) : cellOf t k = cellOf s k := by rw [cellOf, h, cellOf]

theorem cellOf_modCell_self (s : State) (k : Nat) (f : Cell → Cell) : cellOf (modCell s k f) k = f (cellOf s k) := tgetD_tmod_self s.vs.cells k {} f

theorem cellOf_modCell_ne (s : State) {k j : Nat} (f : Cell → Cell) (h : j ≠ k) : cellOf (modCell s k f) j = cellOf s j := tgetD_tmod_ne _ _ _ _ h

theorem cellOf_sendSyncRsp (s : State) (n : Nat) (w : CellWaiter) (b : Bytes) (k : Nat) : cellOf (sendSyncRsp s n w b) k = cellOf s k :=
  cellOf_of_vs (send_vs ..) k

/-- What a step leaves of the cells: cell k as given, and every other cell as it was. -/
def CellBecomes (s t : State) (k : Nat) (c : Cell) : Prop := cellOf t k = c ∧ ∀ j, j ≠ k → cellOf t j = cellOf s j

theorem CellBecomes.trans {s t u : State} {k : Nat} {c c' : Cell} (h : CellBecomes s t k c) (h' : CellBecomes t u k c') : CellBecomes s u k c' :=
  ⟨h'.1, fun j hj => (h'.2 j hj).trans (h.2 j hj)⟩

theorem cellBecomes_modCell (s : State) (k : Nat) (f : Cell → Cell) : CellBecomes s (modCell s k f) k (f (cellOf s k)) :=
  ⟨cellOf_modCell_self .., fun _ hj => cellOf_modCell_ne _ _ hj⟩

theorem CellBecomes.of_vs {s t : State} (h : t.vs = s.vs) (k : Nat) : CellBecomes s t k (cellOf s k) := ⟨cellOf_of_vs h k, fun j _ => cellOf_of_vs h j⟩

/-! ### Waiters that are released, and NOTIFYs -/

/-- The releases of a list of waiters leave every cell as it was, and answer each. -/
theorem releases_send (k q : Nat) (l : List CellWaiter) (s : State) :
    (l.foldl (fun s w => sendSyncRsp s (cellTile k) w (syncRsp (cellState (cellOf s k)) q 1)) s).vs = s.vs ∧
    StillWaits s (l.foldl (fun s w => sendSyncRsp s (cellTile k) w (syncRsp (cellState (cellOf s k)) q 1)) s) ∧
    ∀ w ∈ l, Sent (l.foldl (fun s w => sendSyncRsp s (cellTile k) w (syncRsp (cellState (cellOf s k)) q 1)) s) (cellTile k) 0x21 w.src
      (syncRsp (cellState (cellOf s k)) q 1) := by
  induction l generalizing s with
  | nil => exact ⟨rfl, .refl s, nofun⟩
  | cons x l ih =>
    obtain ⟨hvs, hwait, hsent⟩ := ih (sendSyncRsp s (cellTile k) x (syncRsp (cellState (cellOf s k)) q 1))
    refine ⟨hvs.trans (send_vs ..), (stillWaits_sendSyncRsp _ _ _ _).trans hwait, fun w hw => ?_⟩
    rw [List.foldl_cons]
    rcases List.mem_cons.mp hw with rfl | hw
    · exact (sent_sendSyncRsp ..).stays hwait
    · have h := hsent w hw
      rwa [cellOf_sendSyncRsp] at h

theorem releaseWaiters_releases (s : State) (k : Nat) :
    CellBecomes s (releaseWaiters s k) k { cellOf s k with waiters := (cellOf s k).waiters.filter fun w => !(cellOf s k).holds w.cond } ∧
    StillWaits s (releaseWaiters s k) ∧
    ∀ w ∈ (cellOf s k).waiters, (cellOf s k).holds w.cond = true →
      Sent (releaseWaiters s k) (cellTile k) 0x21 w.src (syncRsp (cellState (cellOf s k)) (cellOf s k).opseq 1) := by
  unfold releaseWaiters
  extract_lets c go u
  have hu := cellBecomes_modCell s k fun c => { c with waiters := c.waiters.filter fun w => !c.holds w.cond }
  obtain ⟨hvs, hwait, hsent⟩ := releases_send k c.opseq go u
  refine ⟨hu.trans ⟨(cellOf_of_vs hvs k).trans hu.1, fun j _ => cellOf_of_vs hvs j⟩, (StillWaits.of_fab rfl).trans hwait, fun w hw hh => ?_⟩
  have h := hsent w (List.mem_filter.mpr ⟨hw, hh⟩)
  rwa [show cellOf u k = _ from hu.1] at h

theorem sendNotifies_sends (s : State) (k : Nat) : ∃ n, CellBecomes s (sendNotifies s k) k { cellOf s k with notifyAt := n } ∧ StillWaits s (sendNotifies s k) ∧
    ∀ e ∈ (cellOf s k).mask, Sent (sendNotifies s k) (cellTile k) 0x43 (notifyTile e.1) (syncRsp (cellState (cellOf s k)) (cellOf s k).opseq 0) := by
  unfold sendNotifies
  extract_lets c body u v
  split
  · next hmask =>
    refine ⟨_, .of_vs rfl k, .refl s, fun e he => ?_⟩
    rw [List.isEmpty_iff.mp hmask] at he
    cases he
  · have hvs : u.vs = s.vs := foldl_same State.vs (fun _ _ => send_vs ..) _ _
    have hv : CellBecomes s v k { cellOf s k with notifyAt := u.now } :=
      (CellBecomes.of_vs hvs k).trans (by
        have h := cellBecomes_modCell u k fun c => { c with notifyAt := u.now }
        rwa [cellOf_of_vs hvs] at h)
    refine ⟨u.now, hv.trans ⟨cellOf_of_cells rfl k |>.trans hv.1, fun j _ => cellOf_of_cells rfl j⟩, ?_, fun e he => ?_⟩
    · exact (stillWaits_foldl (fun _ _ => stillWaits_send _ _ _ _) _ _ : StillWaits s u).trans (.of_fab rfl)
    · have hsent : Sent u (cellTile k) 0x43 (notifyTile e.1) body :=
        foldl_reaches (P := fun t => Sent t (cellTile k) 0x43 (notifyTile e.1) body) (m := e) (fun _ => sent_mkPacket ..)
          (fun _ _ h => h.stays (stillWaits_send _ _ _ _)) he s
      exact hsent.stays (.of_fab rfl)

/-! ### What follows an operation at its cell -/

/-- The waiters of a cell are released, and its mask is notified where its state is no longer that of an earlier state s0. -/
def cellSettles (s0 s : State) (k : Nat) : State :=
  if (cellOf s k).count ≠ (cellOf s0 k).count || (cellOf s k).phase ≠ (cellOf s0 k).phase || (cellOf s k).mode ≠ (cellOf s0 k).mode then
    sendNotifies (releaseWaiters s k) k
  else releaseWaiters s k

theorem cellSettles_only (s0 s : State) (k : Nat) : OnlyParts [.fab, .vs] s (cellSettles s0 s k) := by
  unfold cellSettles
  split
  · exact onlyParts_of_keeps (sendNotifies_keeps (releaseWaiters_keeps (Keeps.refl _ s) rfl rfl) rfl rfl)
  · exact onlyParts_of_keeps (releaseWaiters_keeps (Keeps.refl _ s) rfl rfl)

theorem cellSettles_cell (s0 s : State) (k : Nat) : ∃ n, StillWaits s (cellSettles s0 s k) ∧ CellBecomes s (cellSettles s0 s k) k
    { cellOf s k with waiters := (cellOf s k).waiters.filter (fun w => !(cellOf s k).holds w.cond), notifyAt := n } := by
  obtain ⟨hcell, hwait, -⟩ := releaseWaiters_releases s k
  unfold cellSettles
  split
  · obtain ⟨n, hcell', hwait', -⟩ := sendNotifies_sends (releaseWaiters s k) k
    refine ⟨n, hwait.trans hwait', hcell.trans ?_⟩
    rwa [hcell.1] at hcell'
  · exact ⟨_, hwait, hcell⟩

/-- Settling a cell after an operation that has counted itself and kept the waiters (R128 to R132). -/
theorem cellSettles_settles {s0 s : State} {k : Nat} (hseq : (cellOf s k).opseq = ((cellOf s0 k).opseq + 1) % 2 ^ 32)
    (hw : ∀ w ∈ (cellOf s0 k).waiters, w ∈ (cellOf s k).waiters) (hne : ∀ j, j ≠ k → cellOf s j = cellOf s0 j) (honly : OnlyParts [.fab, .obs, .vs] s0 s) :
    CellSettled s0 (cellSettles s0 s k) k := by
  obtain ⟨n, -, ht, hj⟩ := cellSettles_cell s0 s k
  obtain ⟨hrel, hwait, hsent⟩ := releaseWaiters_releases s k
  have hreleased : ∀ w ∈ (cellOf s k).waiters, (cellOf s k).holds w.cond = true →
      Sent (cellSettles s0 s k) (cellTile k) 0x21 w.src (syncRsp (cellState (cellOf s k)) (cellOf s k).opseq 1) := by
    intro w hw hh
    unfold cellSettles
    split
    · obtain ⟨-, -, hstay, -⟩ := sendNotifies_sends (releaseWaiters s k) k
      exact (hsent w hw hh).stays hstay
    · exact hsent w hw hh
  refine ⟨(congrArg Cell.opseq ht).trans hseq, fun w hw0 => ?_, fun w hwt => ?_, fun hchg e he => ?_, fun j h => (hj j h).trans (hne j h),
    honly.andThen (cellSettles_only s0 s k) (by decide) (by decide)⟩
  · rw [ht]
    split
    · next h => exact hreleased w (hw w hw0) h
    · next h => exact List.mem_filter.mpr ⟨hw w hw0, by rw [Bool.not_eq_true] at h; rw [Bool.not_eq_true']; exact h⟩
  · rw [ht] at hwt ⊢
    exact Bool.not_eq_true' _ |>.mp (List.mem_filter.mp hwt).2
  · rw [ht] at hchg he ⊢
    unfold cellSettles
    rw [if_pos (by simp only [Bool.or_eq_true, decide_eq_true_eq, or_assoc]; exact hchg)]
    obtain ⟨m, -, -, h⟩ := sendNotifies_sends (releaseWaiters s k) k
    rw [hrel.1] at h
    exact h e he

/-! ### One operation -/

/-- What a cell keeps of the initiator of a sync operation (R130). -/
def cellWaiter (p : Packet) : CellWaiter :=
  { cond := opCond (leNat p.payload), src := p.src.toNat, stream := p.stream.toNat, sgen := p.sgen.toNat, seq := p.seq.toNat
    partition := p.partition.toNat, tag := p.tagOpt }

/-- The state in which cell k has become c and has answered, queued or parked the initiator of its operation. -/
def cellAnswered (s : State) (k : Nat) (p : Packet) (c : Cell) : CellAnswer → State
  | .now r => sendSyncRsp (modCell s k fun _ => c) (cellTile k) (cellWaiter p) (syncRsp (cellState c) (((cellOf s k).opseq + 1) % 2 ^ 32) r)
  | .queue w =>
    if c.waiters.length < 64 then
      modCell (modCell s k fun _ => c) k fun c => { c with waiters := c.waiters ++ [{ cellWaiter p with cond := w }] }
    else
      event (modCell (sendSyncRsp (modCell s k fun _ => c) (cellTile k) (cellWaiter p) (syncRsp (cellState c) (((cellOf s k).opseq + 1) % 2 ^ 32) 2)) k
        fun c => { c with mask := tput c.mask (dieOf p.src.toNat) (((cellOf s k).opseq + 1) % 2 ^ 32) })
        (cellTile k) 7 0x22 p.partition.toNat (dieOf p.src.toNat * 2 ^ 8 + k % 256)

/-- The cell as it comes to its next operation: with the OPSEQ of that operation. -/
def Cell.counted (c : Cell) : Cell := { c with opseq := (c.opseq + 1) % 2 ^ 32 }

theorem cellAnswered_only (s : State) (k : Nat) (p : Packet) (c : Cell) (a : CellAnswer) : OnlyParts [.fab, .obs, .vs] s (cellAnswered s k p c a) := by
  have hset : Keeps ⟨[Part.fab, .obs, .vs].contains, s⟩ (modCell s k fun _ => c) := modCell_keeps (Keeps.refl _ s) rfl
  unfold cellAnswered
  split
  · exact onlyParts_of_keeps (sendSyncRsp_keeps hset rfl)
  · split
    · exact onlyParts_of_keeps (modCell_keeps hset rfl)
    · exact onlyParts_of_keeps (event_keeps (modCell_keeps (sendSyncRsp_keeps hset rfl) rfl) rfl)

/-- An operation that is answered at once. -/
theorem cellAnswered_now (s : State) (k : Nat) (p : Packet) (c : Cell) (r : Nat) : CellBecomes s (cellAnswered s k p c (.now r)) k c ∧
    Sent (cellAnswered s k p c (.now r)) (cellTile k) 0x21 p.src.toNat (syncRsp (cellState c) (((cellOf s k).opseq + 1) % 2 ^ 32) r) := by
  have hset : CellBecomes s (modCell s k fun _ => c) k c := cellBecomes_modCell s k fun _ => c
  refine ⟨hset.trans ?_, sent_sendSyncRsp _ _ (cellWaiter p) _⟩
  have h := CellBecomes.of_vs (send_vs .. : (cellAnswered s k p c (.now r)).vs = (modCell s k fun _ => c).vs) k
  rwa [hset.1] at h

/-- An operation whose initiator is queued. -/
theorem cellAnswered_queue {c : Cell} (hroom : c.waiters.length < 64) (s : State) (k : Nat) (p : Packet) (w : WaitCond) :
    CellBecomes s (cellAnswered s k p c (.queue w)) k { c with waiters := c.waiters ++ [{ cellWaiter p with cond := w }] } := by
  have hset : CellBecomes s (modCell s k fun _ => c) k c := cellBecomes_modCell s k fun _ => c
  have h := cellBecomes_modCell (modCell s k fun _ => c) k fun c => { c with waiters := c.waiters ++ [{ cellWaiter p with cond := w }] }
  rw [hset.1] at h
  rw [show cellAnswered s k p c (.queue w) = _ from if_pos hroom]
  exact hset.trans h

/-- An operation whose initiator is parked (R132). -/
theorem cellAnswered_park {c : Cell} (hfull : 64 ≤ c.waiters.length) (s : State) (k : Nat) (p : Packet) (w : WaitCond) :
    CellBecomes s (cellAnswered s k p c (.queue w)) k { c with mask := tput c.mask (dieOf p.src.toNat) (((cellOf s k).opseq + 1) % 2 ^ 32) } ∧
    Sent (cellAnswered s k p c (.queue w)) (cellTile k) 0x21 p.src.toNat (syncRsp (cellState c) (((cellOf s k).opseq + 1) % 2 ^ 32) 2) := by
  obtain ⟨hset, hsent⟩ := cellAnswered_now s k p c 2
  have h := cellBecomes_modCell (cellAnswered s k p c (.now 2)) k fun c => { c with mask := tput c.mask (dieOf p.src.toNat) (((cellOf s k).opseq + 1) % 2 ^ 32) }
  rw [hset.1] at h
  rw [show cellAnswered s k p c (.queue w) = _ from if_neg (Nat.not_lt.mpr hfull)]
  refine ⟨(hset.trans h).trans ⟨(cellOf_of_vs (event_vs ..) k).trans h.1, fun j _ => cellOf_of_vs (event_vs ..) j⟩, hsent.stays ?_⟩
  exact StillWaits.of_fab ((event_fab ..).trans rfl)

theorem performSync_eq {s : State} {k off : Nat} {p : Packet} {c : Cell} {a : CellAnswer} (h : (cellOf s k).counted.perform off (leNat p.payload) = (c, a))
    (hcount : (cellOf (cellAnswered s k p c a) k).count = c.count) (hphase : (cellOf (cellAnswered s k p c a) k).phase = c.phase)
    (hmode : (cellOf (cellAnswered s k p c a) k).mode = c.mode) : performSync s k off p = cellSettles s (cellAnswered s k p c a) k := by
  unfold cellSettles
  rw [hcount, hphase, hmode]
  unfold performSync
  extract_lets v old seq
  split
  next c' a' h' =>
    obtain ⟨rfl, rfl⟩ := Prod.mk.inj (h'.symm.trans h)
    cases a' with
    | now r => rfl
    | queue w => rfl

/-- An operation that its cell answers at once (R128, Table 4.2). -/
theorem performSync_now {s : State} {k off r : Nat} {p : Packet} {c : Cell} (h : (cellOf s k).counted.perform off (leNat p.payload) = (c, .now r))
    (hseq : c.opseq = (cellOf s k).counted.opseq) (hw : c.waiters = (cellOf s k).waiters) :
    Performed s (performSync s k off p) p k c.count c.threshold c.mode c.phase r := by
  obtain ⟨⟨ha, hne⟩, hsent⟩ := cellAnswered_now s k p c r
  rw [performSync_eq h (by rw [ha]) (by rw [ha]) (by rw [ha])]
  obtain ⟨n, hwait, ht, -⟩ := cellSettles_cell s (cellAnswered s k p c (.now r)) k
  have hset := cellSettles_settles (s0 := s) (by rw [ha, hseq]; rfl) (fun w hw0 => by rw [ha, hw]; exact hw0) hne (cellAnswered_only s k p c (.now r))
  rw [ha] at ht
  have hs := hsent.stays hwait
  refine ⟨by rw [ht], by rw [ht], by rw [ht], by rw [ht], ?_, hset⟩
  rw [ht]
  exact hseq ▸ hs

/-- An operation whose initiator the cell holds (R130). -/
theorem performSync_queue {s : State} {k off : Nat} {p : Packet} {c : Cell} {w : WaitCond} (h : (cellOf s k).counted.perform off (leNat p.payload) = (c, .queue w))
    (hseq : c.opseq = (cellOf s k).counted.opseq) (hw : c.waiters = (cellOf s k).waiters) (hroom : (cellOf s k).waiters.length < 64)
    (hhold : c.holds w = false) (hth : c.threshold = (cellOf s k).threshold) (hmode : c.mode = (cellOf s k).mode) :
    Queued s (performSync s k off p) p k c.count c.phase w := by
  obtain ⟨ha, hne⟩ := cellAnswered_queue (hw ▸ hroom) s k p w
  rw [performSync_eq h (by rw [ha]) (by rw [ha]) (by rw [ha])]
  obtain ⟨n, hwait, ht, -⟩ := cellSettles_cell s (cellAnswered s k p c (.queue w)) k
  have hset := cellSettles_settles (s0 := s) (by rw [ha]; exact hseq) (fun w hw0 => by rw [ha]; exact List.mem_append_left _ (hw ▸ hw0)) hne
    (cellAnswered_only s k p c (.queue w))
  rw [ha] at ht
  refine ⟨by rw [ht], by rw [ht]; exact hth, by rw [ht]; exact hmode, by rw [ht], ⟨{ cellWaiter p with cond := w }, ?_, rfl, rfl, rfl, rfl, rfl, rfl, rfl⟩, hset⟩
  rw [ht]
  exact List.mem_filter.mpr ⟨List.mem_append_right _ (List.mem_singleton_self _), Bool.not_eq_true' _ |>.mpr hhold⟩

/-- An operation whose initiator finds 64 waiters before it (R132). -/
theorem performSync_park {s : State} {k off : Nat} {p : Packet} {c : Cell} {w : WaitCond} (h : (cellOf s k).counted.perform off (leNat p.payload) = (c, .queue w))
    (hseq : c.opseq = (cellOf s k).counted.opseq) (hw : c.waiters = (cellOf s k).waiters) (hfull : 64 ≤ (cellOf s k).waiters.length) :
    Sent (performSync s k off p) (cellTile k) 0x21 p.src.toNat (syncRsp (cellState c) (cellOf (performSync s k off p) k).opseq 2) ∧
      tget (cellOf (performSync s k off p) k).mask (dieOf p.src.toNat) = some (cellOf (performSync s k off p) k).opseq ∧
      CellSettled s (performSync s k off p) k := by
  obtain ⟨⟨ha, hne⟩, hsent⟩ := cellAnswered_park (hw ▸ hfull) s k p w
  rw [performSync_eq h (by rw [ha]) (by rw [ha]) (by rw [ha])]
  obtain ⟨n, hwait, ht, -⟩ := cellSettles_cell s (cellAnswered s k p c (.queue w)) k
  have hset := cellSettles_settles (s0 := s) (by rw [ha]; exact hseq) (fun w hw0 => by rw [ha]; exact hw ▸ hw0) hne (cellAnswered_only s k p c (.queue w))
  rw [ha] at ht
  rw [ht]
  have hs := hsent.stays hwait
  refine ⟨hseq ▸ hs, ?_, hset⟩
  exact (tget_tput_self ..).trans (congrArg some hseq.symm)

/-! ### The operations (Table 4.2) -/

section
variable {c : Cell} {v : Nat} (hclean : opClean v = true)
include hclean

theorem perform_read (h : opCode v = 0) : c.perform 0 v = (c, .now 0) := by simp [Cell.perform, hclean, h]

theorem perform_reserved (h : 6 ≤ opCode v) : c.perform 0 v = (c, .now 0x10) := by
  have hne (n : Nat) (hn : n < 6) : opCode v ≠ n := by omega
  simp [Cell.perform, hclean, hne]

theorem perform_add (h : opCode v = 1) (hm : c.mode = 0) : c.perform 0 v = ({ c with count := (c.count + opValue v) % 2 ^ 32 }, .now 0) := by
  simp [Cell.perform, hclean, h, hm]

theorem perform_add_arrives {c' : Cell} (h : opCode v = 1) (hm : c.mode = 1) (ha : c.arrive (opValue v) = some c') : c.perform 0 v = (c', .now 0) := by
  simp [Cell.perform, hclean, h, hm, ha]

theorem perform_add_misuse (h : opCode v = 1) (hm : c.mode = 1) (ha : c.arrive (opValue v) = none) : c.perform 0 v = (c, .now 0x10) := by
  simp [Cell.perform, hclean, h, hm, ha]

theorem perform_add_event (h : opCode v = 1) (hm : 2 ≤ c.mode) : c.perform 0 v = (c, .now 0x10) := by
  simp [Cell.perform, hclean, h, show c.mode ≠ 0 by omega, show c.mode ≠ 1 by omega]

theorem perform_set (h : opCode v = 2) (hm : c.mode ≠ 1) : c.perform 0 v = ({ c with count := opValue v }, .now 0) := by simp [Cell.perform, hclean, h, hm]

theorem perform_set_barrier (h : opCode v = 2) (hm : c.mode = 1) : c.perform 0 v = (c, .now 0x10) := by simp [Cell.perform, hclean, h, hm]

theorem perform_wait (h : opCode v = 3) : c.perform 0 v = (c, if c.holds (opCond v) then .now 1 else .queue (opCond v)) := by
  by_cases hh : c.holds (opCond v) = true <;> simp [Cell.perform, hclean, h, hh]

theorem perform_arriveWait {c' : Cell} (h : opCode v = 4) (hm : c.mode = 1) (ha : c.arrive (opValue v) = some c') : c.perform 0 v =
    (c', if c'.holds { opCond v with phase := c.phase } then .now 1 else .queue { opCond v with phase := c.phase }) := by
  by_cases hh : c'.holds { opCond v with phase := c.phase } = true <;> simp [Cell.perform, hclean, h, hm, ha, hh]

theorem perform_arriveWait_none (h : opCode v = 4) (hm : c.mode = 1) (ha : c.arrive (opValue v) = none) : c.perform 0 v = (c, .now 0x10) := by
  simp [Cell.perform, hclean, h, hm, ha]

theorem perform_arriveWait_misuse (h : opCode v = 4) (hm : c.mode ≠ 1) : c.perform 0 v = (c, .now 0x10) := by simp [Cell.perform, hclean, h, hm]

theorem perform_configure_misuse (h : opCode v = 5) (hm : opMode v = 3 ∨ opMode v = 1 ∧ opValue v = 0) : c.perform 0 v = (c, .now 0x10) := by
  simp [Cell.perform, hclean, h, hm]

theorem perform_configure_busy (h : opCode v = 5) (h3 : opMode v ≠ 3) (h1 : opMode v = 1 → opValue v ≠ 0) (hb : c.waiters ≠ [] ∨ c.mask ≠ []) :
    c.perform 0 v = (c, .now 0x11) := by
  have hbusy : c.waiters = [] → ¬ c.mask = [] := fun hw hm => hb.elim (· hw) (· hm)
  simpa [Cell.perform, hclean, h, h3, show ¬(opMode v = 1 ∧ opValue v = 0) from fun hx => h1 hx.1 hx.2] using hbusy

theorem perform_configure (h : opCode v = 5) (h3 : opMode v ≠ 3) (h1 : opMode v = 1 → opValue v ≠ 0) (hw : c.waiters = []) (hm : c.mask = []) :
    c.perform 0 v = ({ c with mode := opMode v, threshold := opValue v, count := 0, phase := (c.phase + 1) % 65536 }, .now 0) := by
  simpa [Cell.perform, hclean, h, h3, hw, hm] using h1
end

theorem arrive_last {c : Cell} {v : Nat} (h1 : 1 ≤ v) (h2 : v ≤ c.threshold) (h : c.threshold ≤ c.count + v) :
    c.arrive v = some { c with count := c.count + v - c.threshold, phase := (c.phase + 1) % 65536 } := by simp [Cell.arrive, h1, h2, h]

theorem arrive_early {c : Cell} {v : Nat} (h1 : 1 ≤ v) (h2 : v ≤ c.threshold) (h : c.count + v < c.threshold) :
    c.arrive v = some { c with count := c.count + v } := by simp [Cell.arrive, h1, h2, Nat.not_le.mpr h]

theorem arrive_none {c : Cell} {v : Nat} (h : v = 0 ∨ c.threshold < v) : c.arrive v = none := if_neg (by simp; omega)

/-- A barrier's waiters wait for its phase to change. -/
theorem holds_of_phase {c : Cell} {w : WaitCond} (hm : c.mode = 1) (h : c.phase ≠ w.phase) : c.holds w = true := by simp [Cell.holds, condHolds, hm, h]

theorem not_holds_of_phase {c : Cell} {w : WaitCond} (hm : c.mode = 1) (h : c.phase = w.phase) : c.holds w = false := by simp [Cell.holds, condHolds, hm, h]

/-- A sync operation in sequence at its cell's tile is performed there (R116, R129). -/
theorem syncCommand_performs {s u : State} {node : NodeId} {p : Packet} {k : Nat} (h : SyncAt s node p k u) {ok : Nat → Bool}
    (hop : ok (opCode (leNat p.payload)) = true) : syncCommand node p ok s = .next (performSync u k 0 p) := by
  obtain ⟨hacc, hopcode, -, htile, hwin, htab, d, c, haddr, rfl⟩ := h
  rw [syncCommand, if_pos hop]
  unfold syncArrive rxArrive
  refine (hacc.acts (ops := [3]) (by rw [hopcode]; rfl) _ id).trans (congrArg _ ?_)
  rw [haddr]
  dsimp only
  rw [if_neg (by rcases htab with h | h <;> simp [h]), if_neg (by simp [htile, hwin])]

/-- What is true of an operation in the state that its tile has accepted it in, is true of it from the state before. -/
theorem CellSettled.of_accepts {s u t : State} {node : NodeId} {p : Packet} {k : Nat} (hacc : Accepts s node p false u) (h : CellSettled u t k) :
    CellSettled s t k := by
  obtain ⟨h1, h2, h3, h4, h5, h6⟩ := h
  have hc (j : Nat) : cellOf u j = cellOf s j := cellOf_of_vs hacc.vs j
  simp only [hc] at h1 h2 h4 h5
  exact ⟨h1, h2, h3, h4, h5, hacc.only.andThen h6 (by decide) (by decide)⟩

section
variable {s u : State} {node : NodeId} {p : Packet} {k : Nat} (h : SyncAt s node p k u)
include h

theorem SyncAt.cell : cellOf u k = cellOf s k := cellOf_of_vs h.1.vs k

theorem SyncAt.performed {t : State} {n th m ph r : Nat} (ht : Performed u t p k n th m ph r) : Performed s t p k n th m ph r := by
  obtain ⟨h1, h2, h3, h4, h5, h6⟩ := ht
  exact ⟨h1, h2, h3, h4, h5, h6.of_accepts h.1⟩

theorem SyncAt.queued {t : State} {n ph : Nat} {c : WaitCond} (ht : Queued u t p k n ph c) : Queued s t p k n ph c := by
  obtain ⟨h1, h2, h3, h4, h5, h6⟩ := ht
  rw [h.cell] at h2 h3
  exact ⟨h1, h2, h3, h4, h5, h6.of_accepts h.1⟩

/-- An operation that its cell answers at once. -/
theorem SyncAt.answers {c : Cell} {r : Nat} (hp : (cellOf s k).counted.perform 0 (leNat p.payload) = (c, .now r))
    (hseq : c.opseq = (cellOf s k).counted.opseq) (hw : c.waiters = (cellOf s k).waiters) {ok : Nat → Bool} (hop : ok (opCode (leNat p.payload)) = true) :
    ∃ t, syncCommand node p ok s = .next t ∧ Performed s t p k c.count c.threshold c.mode c.phase r := by
  rw [← h.cell] at hp hseq hw
  exact ⟨_, syncCommand_performs h hop, h.performed (performSync_now hp hseq hw)⟩

/-- An operation whose initiator the cell holds (R130). -/
theorem SyncAt.queues {c : Cell} {w : WaitCond} (hp : (cellOf s k).counted.perform 0 (leNat p.payload) = (c, .queue w))
    (hseq : c.opseq = (cellOf s k).counted.opseq) (hw : c.waiters = (cellOf s k).waiters) (hroom : (cellOf s k).waiters.length < 64)
    (hhold : c.holds w = false) (hth : c.threshold = (cellOf s k).threshold) (hmode : c.mode = (cellOf s k).mode) {ok : Nat → Bool}
    (hop : ok (opCode (leNat p.payload)) = true) : ∃ t, syncCommand node p ok s = .next t ∧ Queued s t p k c.count c.phase w := by
  rw [← h.cell] at hp hseq hw hroom hth hmode
  exact ⟨_, syncCommand_performs h hop, h.queued (performSync_queue hp hseq hw hroom hhold hth hmode)⟩
end

/-! ### The operations at their cell -/

section
variable {s u : State} {node : NodeId} {p : Packet} {k : Nat} (h : SyncAt s node p k u)
include h

theorem SyncAt.clean : opClean (leNat p.payload) = true := h.2.2.1

/-- An operation that changes nothing of its cell but the OPSEQ. -/
theorem SyncAt.unchanged {r : Nat} (hp : (cellOf s k).counted.perform 0 (leNat p.payload) = ((cellOf s k).counted, .now r)) {ok : Nat → Bool}
    (hop : ok (opCode (leNat p.payload)) = true) : ∃ t, syncCommand node p ok s = .next t ∧
      Performed s t p k (cellOf s k).count (cellOf s k).threshold (cellOf s k).mode (cellOf s k).phase r := h.answers hp rfl rfl hop

/-- ADD in barrier mode (Table 4.2). -/
theorem SyncAt.adds_barrier (hop : opCode (leNat p.payload) = 1) (hm : (cellOf s k).mode = 1) (h1 : 1 ≤ opValue (leNat p.payload))
    (h2 : opValue (leNat p.payload) ≤ (cellOf s k).threshold) :
    ((cellOf s k).count + opValue (leNat p.payload) < (cellOf s k).threshold → ∃ t, execSyncAdd node p s = .next t ∧
      Performed s t p k ((cellOf s k).count + opValue (leNat p.payload)) (cellOf s k).threshold (cellOf s k).mode (cellOf s k).phase 0) ∧
    ((cellOf s k).threshold ≤ (cellOf s k).count + opValue (leNat p.payload) → ∃ t, execSyncAdd node p s = .next t ∧
      Performed s t p k ((cellOf s k).count + opValue (leNat p.payload) - (cellOf s k).threshold) (cellOf s k).threshold (cellOf s k).mode
        (((cellOf s k).phase + 1) % 65536) 0) := by
  refine ⟨fun hlt => ?_, fun hge => ?_⟩
  · have ha := arrive_early (c := (cellOf s k).counted) h1 h2 hlt
    exact h.answers (perform_add_arrives h.clean hop hm ha) rfl rfl (by rw [hop]; rfl)
  · have ha := arrive_last (c := (cellOf s k).counted) h1 h2 hge
    exact h.answers (perform_add_arrives h.clean hop hm ha) rfl rfl (by rw [hop]; rfl)

/-- ARRIVE_WAIT in barrier mode (Table 4.2): the last arrival goes on, and the others wait for the phase to change. -/
theorem SyncAt.arrives (hop : opCode (leNat p.payload) = 4) (hm : (cellOf s k).mode = 1) (h1 : 1 ≤ opValue (leNat p.payload))
    (h2 : opValue (leNat p.payload) ≤ (cellOf s k).threshold) :
    ((cellOf s k).threshold ≤ (cellOf s k).count + opValue (leNat p.payload) → ∃ t, execSyncArriveWait node p s = .next t ∧
      Performed s t p k ((cellOf s k).count + opValue (leNat p.payload) - (cellOf s k).threshold) (cellOf s k).threshold (cellOf s k).mode
        (((cellOf s k).phase + 1) % 65536) 1) ∧
    ((cellOf s k).count + opValue (leNat p.payload) < (cellOf s k).threshold → (cellOf s k).waiters.length < 64 →
      ∃ t, execSyncArriveWait node p s = .next t ∧ Queued s t p k ((cellOf s k).count + opValue (leNat p.payload)) (cellOf s k).phase
        { opCond (leNat p.payload) with phase := (cellOf s k).phase }) := by
  refine ⟨fun hge => ?_, fun hlt hroom => ?_⟩
  · have ha := arrive_last (c := (cellOf s k).counted) h1 h2 hge
    have hp := perform_arriveWait (c := (cellOf s k).counted) h.clean hop hm ha
    rw [if_pos (holds_of_phase (by exact hm) (by dsimp only [Cell.counted]; omega))] at hp
    exact h.answers hp rfl rfl (by rw [hop]; rfl)
  · have ha := arrive_early (c := (cellOf s k).counted) h1 h2 hlt
    have hp := perform_arriveWait (c := (cellOf s k).counted) h.clean hop hm ha
    have hhold : ({ (cellOf s k).counted with count := (cellOf s k).count + opValue (leNat p.payload) } : Cell).holds
        { opCond (leNat p.payload) with phase := (cellOf s k).phase } = false := not_holds_of_phase hm rfl
    rw [if_neg (by rw [Bool.not_eq_true]; exact hhold)] at hp
    exact h.queues hp rfl rfl hroom hhold rfl rfl (by rw [hop]; rfl)

/-- WAIT (R130, R132). -/
theorem SyncAt.waits (hop : opCode (leNat p.payload) = 3) :
    ((cellOf s k).holds (opCond (leNat p.payload)) = true → ∃ t, execSyncWait node p s = .next t ∧
      Performed s t p k (cellOf s k).count (cellOf s k).threshold (cellOf s k).mode (cellOf s k).phase 1) ∧
    ((cellOf s k).holds (opCond (leNat p.payload)) = false → (cellOf s k).waiters.length < 64 → ∃ t, execSyncWait node p s = .next t ∧
      Queued s t p k (cellOf s k).count (cellOf s k).phase (opCond (leNat p.payload))) ∧
    ((cellOf s k).holds (opCond (leNat p.payload)) = false → 64 ≤ (cellOf s k).waiters.length → ∃ t, execSyncWait node p s = .next t ∧
      Sent t (cellTile k) 0x21 p.src.toNat (syncRsp (cellState (cellOf s k)) (cellOf t k).opseq 2) ∧
      tget (cellOf t k).mask (dieOf p.src.toNat) = some (cellOf t k).opseq ∧ CellSettled s t k) := by
  have hp := perform_wait (c := (cellOf s k).counted) h.clean hop
  refine ⟨fun hh => ?_, fun hh hroom => ?_, fun hh hfull => ?_⟩
  · rw [if_pos (show (cellOf s k).counted.holds _ = true from hh)] at hp
    exact h.unchanged hp (by rw [hop]; rfl)
  · rw [if_neg (show ¬ (cellOf s k).counted.holds _ = true by rw [Bool.not_eq_true]; exact hh)] at hp
    exact h.queues hp rfl rfl hroom hh rfl rfl (by rw [hop]; rfl)
  · rw [if_neg (show ¬ (cellOf s k).counted.holds _ = true by rw [Bool.not_eq_true]; exact hh), ← h.cell] at hp
    obtain ⟨h1, h2, h3⟩ := performSync_park hp rfl rfl (by rw [h.cell]; exact hfull)
    refine ⟨_, syncCommand_performs h (by rw [hop]; rfl), ?_, h2, h3.of_accepts h.1⟩
    rw [h.cell] at h1
    exact h1
end

/-- Settles O40: each operation by what `Cell.perform` makes of its cell. -/
theorem syncOperationsComplete : Obligations.SyncOperationsComplete := by
  intro s u node p k v x h hv hx
  subst hv hx
  refine ⟨fun hop => h.unchanged (perform_read h.clean hop) (ok := fun o => o == 0 || decide (6 ≤ o)) (by rw [hop]; rfl),
    fun hop => h.unchanged (perform_reserved h.clean hop) (ok := fun o => o == 0 || decide (6 ≤ o)) (by simp [hop]),
    fun hop hmd => h.answers (perform_add h.clean hop hmd) rfl rfl (ok := (· == 1)) (by rw [hop]; rfl),
    fun hop hmd h1 h2 => h.adds_barrier hop hmd h1 h2, fun hop hmd => ?_,
    fun hop hmd => h.answers (perform_set h.clean hop hmd) rfl rfl (ok := (· == 2)) (by rw [hop]; rfl),
    fun hop hmd => h.unchanged (perform_set_barrier h.clean hop hmd) (ok := (· == 2)) (by rw [hop]; rfl),
    fun hop => (h.waits hop).1, fun hop => (h.waits hop).2.1, fun hop => (h.waits hop).2.2,
    fun hop hmd h1 h2 => h.arrives hop hmd h1 h2, fun hop hbad => ?_,
    fun hop hm => h.unchanged (perform_configure_misuse h.clean hop hm) (ok := (· == 5)) (by rw [hop]; rfl),
    fun hop h3 h1 hb => h.unchanged (perform_configure_busy h.clean hop h3 h1 hb) (ok := (· == 5)) (by rw [hop]; rfl),
    fun hop h3 h1 hwt hmk => h.answers (perform_configure h.clean hop h3 h1 hwt hmk) rfl rfl (ok := (· == 5)) (by rw [hop]; rfl)⟩
  · rcases hmd with hmd | ⟨hmd, hbad⟩
    · exact h.unchanged (perform_add_event h.clean hop hmd) (ok := (· == 1)) (by rw [hop]; rfl)
    · exact h.unchanged (perform_add_misuse h.clean hop hmd (arrive_none hbad)) (ok := (· == 1)) (by rw [hop]; rfl)
  · by_cases hmd : (cellOf s k).mode = 1
    · exact h.unchanged (perform_arriveWait_none h.clean hop hmd (arrive_none (hbad.resolve_left (absurd hmd)))) (ok := (· == 4)) (by rw [hop]; rfl)
    · exact h.unchanged (perform_arriveWait_misuse h.clean hop hmd) (ok := (· == 4)) (by rw [hop]; rfl)

end Sys2Proof.Machine

/-!
PROOFS. What the operations on a vat leave of it: waits withdrawn, a fibre that goes on or faults, a sequencer that goes on or traps
(R103 to R105, R136, R229).
-/
namespace Sys2Proof.Machine

set_option Elab.async false

/-! ### Reading a vat through its accessors -/

theorem vatOf_of_vats {s t : State} (h : t.vs.vats = s.vs.vats) (d : Nat) : vatOf t d = vatOf s d := by rw [vatOf, h, vatOf]
theorem vatOf_of_vs {s t : State} (h : t.vs = s.vs) (d : Nat) : vatOf t d = vatOf s d := vatOf_of_vats (by rw [h]) d
theorem seqOf_of_vs {s t : State} (h : t.vs = s.vs) (d : Nat) : seqOf t d = seqOf s d := congrArg Vat.seq (vatOf_of_vs h d)
theorem fibreAt_of_vat {s t : State} {d : Nat} (h : (vatOf t d).fibres = (vatOf s d).fibres) (sl st : Nat) : fibreAt t d sl st = fibreAt s d sl st := by
  rw [fibreAt, h, fibreAt]
theorem fibreAt_of_vs {s t : State} (h : t.vs = s.vs) (d sl st : Nat) : fibreAt t d sl st = fibreAt s d sl st :=
  fibreAt_of_vat (by rw [vatOf_of_vs h]) sl st

theorem vatOf_putFibre (s : State) (d sl st : Nat) (x : Fibre) :
    vatOf (putFibre s d sl st x) d = { vatOf s d with fibres := tput (vatOf s d).fibres (fibreKey sl st) x } :=
  vatOf_modVat_self s d fun v => { v with fibres := tput v.fibres (fibreKey sl st) x }

theorem fibreAt_putFibre_self (s : State) (d sl st : Nat) (x : Fibre) : fibreAt (putFibre s d sl st x) d sl st = some x := by
  rw [fibreAt, vatOf_putFibre]
  exact tget_tput_self ..

theorem vatOf_dropFibre (s : State) (d sl st : Nat) :
    vatOf (dropFibre s d sl st) d = { vatOf s d with fibres := tdel (vatOf s d).fibres (fibreKey sl st) } :=
  vatOf_modVat_self s d fun v => { v with fibres := tdel v.fibres (fibreKey sl st) }

theorem vatOf_modBatch (s : State) (d num : Nat) (f : Batch → Batch) :
    vatOf (modBatch s d num f) d = { vatOf s d with batches := (vatOf s d).batches.map fun b => if b.num = num then f b else b } :=
  vatOf_modVat_self s d fun v => { v with batches := v.batches.map fun b => if b.num = num then f b else b }

/-! ### Waits that are withdrawn -/

/-- At most the wait table, the refused waits and the kept NOTIFYs of vat d differ. -/
def WaitsMoved (s t : State) (d : Nat) : Prop := ∃ w r n, vatOf t d = { vatOf s d with waitTable := w, resend := r, notifies := n }

theorem WaitsMoved.refl (s : State) (d : Nat) : WaitsMoved s s d := ⟨_, _, _, rfl⟩

theorem WaitsMoved.trans {s t u : State} {d : Nat} (h : WaitsMoved s t d) (h' : WaitsMoved t u d) : WaitsMoved s u d := by
  obtain ⟨w, r, n, hv⟩ := h
  obtain ⟨w', r', n', hv'⟩ := h'
  exact ⟨w', r', n', by rw [hv', hv]⟩

theorem WaitsMoved.of_vat {s t : State} {d : Nat} (h : vatOf t d = vatOf s d) : WaitsMoved s t d := ⟨_, _, _, h⟩

theorem WaitsMoved.fibreAt {s t : State} {d : Nat} (h : WaitsMoved s t d) (sl st : Nat) : fibreAt t d sl st = fibreAt s d sl st := by
  obtain ⟨_, _, _, h⟩ := h
  exact fibreAt_of_vat (by rw [h]) sl st

theorem WaitsMoved.seqOf {s t : State} {d : Nat} (h : WaitsMoved s t d) : seqOf t d = seqOf s d := by
  obtain ⟨_, _, _, h⟩ := h
  rw [Machine.seqOf, h, Machine.seqOf]

/-- Whether a vat sends UNPARK: it then only forgets the NOTIFY that it kept of the cell (R133). -/
theorem unparkIfDone_cases (s : State) (d k : Nat) : unparkIfDone s d k = s ∨
    (tget (vatOf s d).parkedSeq k).isSome = true ∧ vatOf (unparkIfDone s d k) d = { vatOf s d with notifies := tdel (vatOf s d).notifies k } := by
  unfold unparkIfDone
  extract_lets v
  split
  · exact .inl rfl
  split
  · exact .inl rfl
  · next q hq =>
    refine .inr ⟨by rw [hq]; rfl, ?_⟩
    exact (vatOf_of_vs (send_vs ..) d).trans (vatOf_modVat_self s d fun v => { v with notifies := tdel v.notifies k })

theorem unparkIfDone_moves (s : State) (d k : Nat) : WaitsMoved s (unparkIfDone s d k) d := by
  rcases unparkIfDone_cases s d k with h | ⟨-, h⟩
  · exact .of_vat (by rw [h])
  · exact ⟨_, _, _, h⟩

theorem unparkIfDone_only (s : State) (d k : Nat) : OnlyParts [.fab, .vs] s (unparkIfDone s d k) :=
  onlyParts_of_keeps (unparkIfDone_keeps (Keeps.refl _ s) rfl rfl)

theorem withdrawCell_vat (s : State) (n a b c d : Nat) : vatOf (withdrawCell s n a b c) d = vatOf s d := rfl

theorem withdrawWait_moves (s : State) (d : Nat) (who : Waiter) (o : Initiator) : WaitsMoved s (withdrawWait s d who o) d := by
  unfold withdrawWait
  extract_lets node mine u u' v cells w
  have hu : vatOf u d = vatOf s d := foldl_same (vatOf · d) (fun _ _ => withdrawCell_vat ..) mine s
  have hu' : vatOf u' d = vatOf s d := hu
  have hw : WaitsMoved s w d := ⟨_, _, _, (vatOf_modVat_self u' d _).trans (by rw [hu'])⟩
  exact hw.trans (foldl_related (R := fun s t => WaitsMoved s t d) (fun s => .refl s d) .trans (fun s k => unparkIfDone_moves s d k) cells w)

/-! ### A fibre that goes on, or faults -/

/-- What a context's fault does reaches no vat (R145). -/
theorem contextFault_vs (s : State) (t : Option Nat) (c : Nat) : (contextFault s t c).vs = s.vs :=
  (contextFault_keeps (Keeps.refl (allBut .vs) s) rfl rfl rfl).rest

theorem finishOp_vat {s : State} {d sl st : Nat} {x : Fibre} (h : fibreAt s d sl st = some x) (hi : x.opIndex < 255) :
    vatOf (finishOp s d sl st) d = { vatOf s d with
      opsExecuted := (vatOf s d).opsExecuted + 1
      fibres := tput (vatOf s d).fibres (fibreKey sl st) { x with opIndex := x.opIndex + 1, state := 1, wait := none, reads := [], desc := [] } } := by
  unfold finishOp
  rw [h]
  dsimp only
  rw [if_neg (by omega), vatOf_putFibre]
  have hu : vatOf (modVat s d fun v => { v with opsExecuted := v.opsExecuted + 1 }) d = { vatOf s d with opsExecuted := (vatOf s d).opsExecuted + 1 } :=
    vatOf_modVat_self ..
  rw [show ∀ f, vatOf (modObs (modVat s d fun v => { v with opsExecuted := v.opsExecuted + 1 }) f) d = _ from fun _ => hu]

/-- The op of a fibre that is not at the last index finishes (R103). -/
theorem finishOp_resumes {s : State} {d sl st : Nat} {x : Fibre} (h : fibreAt s d sl st = some x) (hi : x.opIndex < 255) :
    Resumed (finishOp s d sl st) d sl st x x.regs := by
  rw [Resumed, fibreAt, finishOp_vat h hi]
  exact tget_tput_self ..

theorem finishOp_only {s : State} {d sl st : Nat} {x : Fibre} (h : fibreAt s d sl st = some x) (hi : x.opIndex < 255) :
    OnlyParts [.obs, .vs] s (finishOp s d sl st) := by
  unfold finishOp
  rw [h]
  dsimp only
  rw [if_neg (by omega)]
  exact onlyParts_of_keeps (putFibre_keeps (modObs_keeps (modVat_keeps (Keeps.refl _ s) rfl) rfl) rfl)

/-- What a vat's fault counters and batches, and its waits, may become when a fibre of it faults; the fibre itself is gone. -/
def FibreGone (s t : State) (d sl st : Nat) : Prop :=
  ∃ w r n b e a, vatOf t d = { vatOf s d with
    waitTable := w, resend := r, notifies := n, batches := b, encodingFaults := e, arithFaults := a
    fibreFaults := (vatOf s d).fibreFaults + 1, fibres := tdel (vatOf s d).fibres (fibreKey sl st) }

theorem faultReport_vat (s : State) (d sl b i : Nat) (tag : Option Nat) (c : Nat) : ∃ bs e a, vatOf (faultReport s d sl b i tag c) d =
    { vatOf s d with batches := bs, encodingFaults := e, arithFaults := a, fibreFaults := (vatOf s d).fibreFaults + 1 } := by
  unfold faultReport
  extract_lets u v part w x
  have hu : vatOf u d = _ := vatOf_modVat_self ..
  have hv : vatOf v d = _ := vatOf_modBatch ..
  have hx : x.vs = v.vs := (report_vs ..).trans (event_vs ..)
  exact ⟨_, _, _, (vatOf_of_vs (contextFault_vs ..) d).trans ((vatOf_of_vs hx d).trans (hv.trans (by rw [hu])))⟩

theorem fibreFault_gone {s : State} {d sl st : Nat} {x : Fibre} (h : fibreAt s d sl st = some x) (c : Nat) :
    FibreGone s (fibreFault s d sl st c) d sl st := by
  unfold fibreFault
  rw [h]
  dsimp only
  generalize hu : withdrawWait s d (.fibre sl st) (fibreOwner d sl st x) = u
  obtain ⟨w, r, n, hw⟩ : WaitsMoved s u d := hu ▸ withdrawWait_moves ..
  obtain ⟨bs, e, a, hf⟩ := faultReport_vat (modBatch (dropFibre (purgeWaiting u fun w =>
    w.owner == fibreOwner d sl st x && (w.pkt.opcode == 3 || w.pkt.opcode == 2)) d sl st) d x.batch fun b => { b with ended := b.ended + 1 })
    d sl x.batch x.index x.tag c
  exact ⟨w, r, n, bs, e, a, by
    rw [hf, vatOf_modBatch, vatOf_dropFibre, show ∀ q, vatOf (purgeWaiting u q) d = vatOf u d from fun _ => rfl, hw]⟩

theorem FibreGone.gone {s t : State} {d sl st : Nat} (h : FibreGone s t d sl st) :
    fibreAt t d sl st = none ∧ (vatOf t d).fibreFaults = (vatOf s d).fibreFaults + 1 := by
  obtain ⟨_, _, _, _, _, _, h⟩ := h
  rw [fibreAt, h]
  exact ⟨tget_tdel_self .., rfl⟩

theorem fibreFault_mem (s : State) (d sl st c : Nat) : (fibreFault s d sl st c).mem = s.mem :=
  (fibreFault_keeps (Keeps.refl (allBut .mem) s) rfl rfl rfl rfl rfl).rest

theorem fibreFault_now (s : State) (d sl st c : Nat) : (fibreFault s d sl st c).now = s.now :=
  (fibreFault_keeps (Keeps.refl (allBut .now) s) rfl rfl rfl rfl rfl).rest

/-! ### A sequencer that traps -/

theorem seqOf_seqCancelWait (s : State) (d : Nat) : seqOf (seqCancelWait s d) d = { seqOf s d with wait := none, posted := none } := by
  unfold seqCancelWait
  extract_lets u v
  have hu : WaitsMoved s u d := withdrawWait_moves ..
  rw [seqOf_modSeq_self]
  exact congrArg (fun q : Sequencer => { q with wait := none, posted := none }) (show seqOf v d = _ from hu.seqOf)

theorem seqTrap_mem (s : State) (d c a x : Nat) : (seqTrap s d c a x).mem = s.mem :=
  (seqTrap_keeps (Keeps.refl (allBut .mem) s) rfl rfl rfl rfl).rest

/-- A trap of a sequencer that does not restart (R229). -/
theorem seqTrap_seq {s : State} {d : Nat} (h : setting s 0x3115 (d + 1) ≠ 1) (c a x : Nat) : ∃ r, seqOf (seqTrap s d c a x) d =
    { seqOf s d with wait := none, posted := none, state := 5, stopping := false, trapCode := c, traps := (seqOf s d).traps + 1, trapRecord := r } := by
  unfold seqTrap
  extract_lets u q instr v w y recent
  have hq : q = { seqOf s d with wait := none, posted := none } := seqOf_seqCancelWait s d
  have hv : seqOf v d = { q with state := 5, stopping := false, trapCode := c, traps := q.traps + 1, trapRecord := trapRecord u.now a instr q.pc c x } :=
    seqOf_modSeq_self ..
  have hy : seqOf y d = seqOf v d := seqOf_of_vs ((seqEvent_vs ..).trans (report_vs ..)) d
  have hy0 : OnlyParts [.fab, .integ, .obs, .vs] s y :=
    onlyParts_of_keeps (seqEvent_keeps (report_keeps (modSeq_keeps (seqCancelWait_keeps (Keeps.refl _ s) rfl rfl) rfl) rfl rfl) rfl)
  have hset : setting y 0x3115 (d + 1) = setting s 0x3115 (d + 1) :=
    setting_congr (congrArg Epochs.cur (hy0 .ep rfl)) (congrArg DictState.rw (hy0 .dict rfl)) ..
  rw [if_neg (by simp [hset, h])]
  exact ⟨_, hy.trans (hv.trans (by rw [hq]))⟩

/-! ### A sequencer whose instruction completes -/

/-- The registers of a sequencer after an instruction that may return a value; s0 is not written (R195). -/
def retRegs (l : List Word) (ret : Option Nat) (w : Word) : List Word :=
  match ret with
  | some r => if r = 0 then l else regSet l r w
  | none => l

theorem seqSetReg_eq (r : Nat) (w : Word) (q : Sequencer) : seqSetReg r w q = { q with regs := retRegs q.regs (some r) w } := by
  by_cases h : r = 0
  · simp [seqSetReg, retRegs, h]
  · simp [seqSetReg, retRegs, h]

/-- An instruction that completes changes its sequencer alone, unless a posted failure or a STOP waits for it (R196, R199, R209). -/
theorem seqNext_ret {s : State} {d : Nat} {f : Sequencer → Sequencer} {ret : Option Nat} {w : Word}
    (hf : ∀ q, f q = { q with regs := retRegs q.regs ret w }) (hposted : (seqOf s d).posted = none) (hstop : (seqOf s d).stopping = false) :
    seqNext s d f = modSeq s d fun _ =>
      { seqOf s d with pc := ((seqOf s d).pc + 1) % 65536, state := 2, wait := none, regs := retRegs (seqOf s d).regs ret w } :=
  seqNext_eq_modSeq (hf _) rfl hposted hstop

end Sys2Proof.Machine

/-!
PROOFS. What waits see of their cells, and KILL (R124, R132 to R137, R140, R143, R144, R217, R224, R225).
-/
namespace Sys2Proof.Machine

set_option Elab.async false

/-! ### Arrivals -/

theorem Takes.vs {s u : State} {n : NodeId} {p : Packet} (h : Takes s n p u) : u.vs = s.vs := takes_only h .vs rfl
theorem Takes.mem {s u : State} {n : NodeId} {p : Packet} (h : Takes s n p u) : u.mem = s.mem := takes_only h .mem rfl

/-- The register file that a sync operation leaves (R124). -/
def syncRegs (l : List Word) (ret : Option Nat) (st : Nat) : List Word :=
  match ret with
  | some r => regSet l r (BitVec.ofNat 64 st)
  | none => l

/-- A fibre's sync operation completes (R124, R189). -/
theorem completeSync_fibre {s : State} {d sl st k op since : Nat} {x : Fibre} {cnd : WaitCond} {ret : Option Nat} (h : fibreAt s d sl st = some x)
    (hw : x.wait = some (.sync k op cnd ret since)) (hi : x.opIndex < 255) (v r : Nat) :
    Resumed (completeSync s d (.fibre sl st) v r) d sl st x (syncRegs x.regs ret v) ∧ OnlyParts [.obs, .vs] s (completeSync s d (.fibre sl st) v r) ∧
      ∃ n f, vatOf (completeSync s d (.fibre sl st) v r) d = { vatOf s d with opsExecuted := n, fibres := f } := by
  have he : completeSync s d (.fibre sl st) v r = finishOp (putFibre s d sl st { x with regs := syncRegs x.regs ret v }) d sl st := by
    unfold completeSync
    dsimp only
    rw [h]
    dsimp only
    rw [hw]
    rfl
  have hput := fibreAt_putFibre_self s d sl st { x with regs := syncRegs x.regs ret v }
  rw [he]
  refine ⟨finishOp_resumes hput hi, ?_, _, _, (finishOp_vat hput hi).trans (by rw [vatOf_putFibre])⟩
  exact (onlyParts_of_keeps (putFibre_keeps (Keeps.refl _ s) rfl) : OnlyParts [.vs] s _).andThen (finishOp_only hput hi) (by decide) (by decide)

/-! ### NOTIFY and UNPARK -/

/-- A vat has kept the NOTIFY of a cell if it still waits on the cell, and sends UNPARK if it is done with it (R133). -/
def notifyKept (s : State) (d k q st : Nat) : State :=
  unparkIfDone (if vatWaitsOn s d k then modVat s d fun x => { x with notifies := tput x.notifies k (q, st) } else s) d k

theorem notifyKept_vat (s : State) (d k q st : Nat) : ∃ n, vatOf (notifyKept s d k q st) d = { vatOf s d with notifies := n } ∧
    (vatWaitsOn s d k = true → tget n k = some (q, st) ∨ (tget (vatOf s d).parkedSeq k).isSome = true) := by
  unfold notifyKept
  split
  · next hw =>
    have hu : vatOf (modVat s d fun x => { x with notifies := tput x.notifies k (q, st) }) d = _ := vatOf_modVat_self ..
    rcases unparkIfDone_cases (modVat s d fun x => { x with notifies := tput x.notifies k (q, st) }) d k with h | ⟨hp, h⟩
    · rw [h, hu]
      exact ⟨_, rfl, fun _ => .inl (tget_tput_self ..)⟩
    · rw [hu] at h hp
      exact ⟨_, h, fun _ => .inr hp⟩
  · next hw =>
    rcases unparkIfDone_cases s d k with h | ⟨-, h⟩
    · rw [h]
      exact ⟨_, rfl, fun h => absurd h hw⟩
    · exact ⟨_, h, fun h => absurd h hw⟩

theorem notifyKept_only (s : State) (d k q st : Nat) : OnlyParts [.fab, .vs] s (notifyKept s d k q st) := by
  unfold notifyKept
  split
  · exact onlyParts_of_keeps (unparkIfDone_keeps (modVat_keeps (Keeps.refl _ s) rfl) rfl rfl)
  · exact unparkIfDone_only s d k

/-- The waits that a NOTIFY of a cell ends: parked on it before, and satisfied by the notified state (R133). -/
def notifiedWaits (s : State) (d k q st : Nat) : List Parked :=
  (vatOf s d).waitTable.filter fun w => w.cell == k && serialLt 32 w.opseq q && stateHolds s k st w.cond

/-- The state in which the waits that a NOTIFY ends have left the wait table and completed. -/
def notifyEnds (s : State) (d k q st : Nat) : State :=
  (notifiedWaits s d k q st).foldl (fun s w => completeSync s d w.who st 1)
    (modVat s d fun x => { x with waitTable := x.waitTable.filter fun w => !(notifiedWaits s d k q st).contains w })

theorem execNotify_cell {s u : State} {node : NodeId} {p : Packet} {cd c off : Nat} (h : Takes s node p u) (hop : p.opcode = 0x43)
    (haddr : decodeAddr p.addr.toNat = some (.syncCell cd c off)) : execNotify node p s =
      .next (notifyKept (notifyEnds u (dieOf node.toNat) (256 * cd + c) (bits (leNat p.payload) 39 8) (bits (leNat p.payload) 127 64))
        (dieOf node.toNat) (256 * cd + c) (bits (leNat p.payload) 39 8) (bits (leNat p.payload) 127 64)) := by
  unfold execNotify
  rw [onArrival_next h (by rw [hop]; rfl), haddr]
  rfl

theorem notifiedWaits_congr {s u : State} (h : u.vs = s.vs) (d k q st : Nat) : notifiedWaits u d k q st = notifiedWaits s d k q st := by
  simp only [notifiedWaits, vatOf_of_vs h, stateHolds, cellOf_of_vs h]

/-- A NOTIFY that ends the wait of one fibre. -/
theorem notifyEnds_fibre {s : State} {d k q st sl sk op since kc : Nat} {w : Parked} {x : Fibre} {cnd : WaitCond} {ret : Option Nat}
    (hgo : notifiedWaits s d k q st = [w]) (hwho : w.who = .fibre sl sk) (hx : fibreAt s d sl sk = some x) (hw : x.wait = some (.sync kc op cnd ret since))
    (hi : x.opIndex < 255) : ¬ w ∈ (vatOf (notifyEnds s d k q st) d).waitTable ∧ Resumed (notifyEnds s d k q st) d sl sk x (syncRegs x.regs ret st) ∧
      OnlyParts [.obs, .vs] s (notifyEnds s d k q st) := by
  unfold notifyEnds
  rw [hgo, List.foldl_cons, List.foldl_nil, hwho]
  generalize hu : modVat s d (fun x => { x with waitTable := x.waitTable.filter fun v => !([w].contains v) }) = u
  have hv : vatOf u d = { vatOf s d with waitTable := (vatOf s d).waitTable.filter fun v => !([w].contains v) } := hu ▸ vatOf_modVat_self ..
  have honly : OnlyParts [.vs] s u := hu ▸ onlyParts_of_keeps (modVat_keeps (Keeps.refl _ s) rfl)
  obtain ⟨hres, hc, n, f, hvat⟩ := completeSync_fibre (s := u) ((fibreAt_of_vat (by rw [hv]) sl sk).trans hx) hw hi st 1
  refine ⟨?_, hres, honly.andThen hc (by decide) (by decide)⟩
  rw [hvat, hv]
  simp

theorem notifyEnds_none {s : State} {d k q st : Nat} (hgo : notifiedWaits s d k q st = []) :
    vatOf (notifyEnds s d k q st) d = vatOf s d ∧ OnlyParts [.vs] s (notifyEnds s d k q st) := by
  unfold notifyEnds
  rw [hgo, List.foldl_nil]
  refine ⟨(vatOf_modVat_self ..).trans ?_, onlyParts_of_keeps (modVat_keeps (Keeps.refl _ s) rfl)⟩
  have hkeep : (vatOf s d).waitTable.filter (fun w => !([] : List Parked).contains w) = (vatOf s d).waitTable := List.filter_eq_self.mpr fun _ _ => rfl
  rw [hkeep]

theorem vatWaitsOn_congr {s t : State} {d : Nat} (h : vatOf t d = vatOf s d) (k : Nat) : vatWaitsOn t d k = vatWaitsOn s d k := by
  simp only [vatWaitsOn, h]

theorem notify_fibre {s u : State} {node : NodeId} {p : Packet} {d cd c off sl sk op since kc : Nat} {w : Parked} {x : Fibre} {cnd : WaitCond}
    {ret : Option Nat} (h : Takes s node p u) (hop : p.opcode = 0x43) (hd : d = dieOf node.toNat)
    (haddr : decodeAddr p.addr.toNat = some (.syncCell cd c off))
    (hgo : notifiedWaits s d (256 * cd + c) (bits (leNat p.payload) 39 8) (bits (leNat p.payload) 127 64) = [w]) (hwho : w.who = .fibre sl sk)
    (hx : fibreAt s d sl sk = some x) (hw : x.wait = some (.sync kc op cnd ret since)) (hi : x.opIndex < 255) :
    ∃ t, exec (.notify node p) s = .next t ∧ ¬ w ∈ (vatOf t d).waitTable ∧
      Resumed t d sl sk x (syncRegs x.regs ret (bits (leNat p.payload) 127 64)) ∧ OnlyParts [.fab, .obs, .vs] s t := by
  subst hd
  obtain ⟨h1, h2, h3⟩ := notifyEnds_fibre ((notifiedWaits_congr h.vs ..).trans hgo) hwho ((fibreAt_of_vs h.vs ..).trans hx) hw hi
  obtain ⟨n, hn, -⟩ := notifyKept_vat (notifyEnds u (dieOf node.toNat) (256 * cd + c) (bits (leNat p.payload) 39 8) (bits (leNat p.payload) 127 64))
    (dieOf node.toNat) (256 * cd + c) (bits (leNat p.payload) 39 8) (bits (leNat p.payload) 127 64)
  refine ⟨_, execNotify_cell h hop haddr, by rw [hn]; exact h1, ?_, ?_⟩
  · exact (fibreAt_of_vat (by rw [hn]) sl sk).trans h2
  · exact ((takes_only h).andThen (n := [.fab, .obs, .vs]) h3 (by decide) (by decide)).andThen (notifyKept_only _ _ _ _ _) (by decide) (by decide)

theorem notify_none {s u : State} {node : NodeId} {p : Packet} {d cd c off : Nat} (h : Takes s node p u) (hop : p.opcode = 0x43) (hd : d = dieOf node.toNat)
    (haddr : decodeAddr p.addr.toNat = some (.syncCell cd c off))
    (hgo : notifiedWaits s d (256 * cd + c) (bits (leNat p.payload) 39 8) (bits (leNat p.payload) 127 64) = []) :
    ∃ t, exec (.notify node p) s = .next t ∧ (vatOf t d).fibres = (vatOf s d).fibres ∧
        (vatOf t d).waitTable = (vatOf s d).waitTable ∧ (vatOf t d).seq = (vatOf s d).seq ∧ OnlyParts [.fab, .vs] s t ∧
        (vatWaitsOn s d (256 * cd + c) = true → tget (vatOf t d).notifies (256 * cd + c) = some (bits (leNat p.payload) 39 8, bits (leNat p.payload) 127 64) ∨
          (tget (vatOf t d).parkedSeq (256 * cd + c)).isSome = true) := by
  subst hd
  obtain ⟨h1, h2⟩ := notifyEnds_none ((notifiedWaits_congr h.vs ..).trans hgo)
  obtain ⟨n, hn, hk⟩ := notifyKept_vat (notifyEnds u (dieOf node.toNat) (256 * cd + c) (bits (leNat p.payload) 39 8) (bits (leNat p.payload) 127 64))
    (dieOf node.toNat) (256 * cd + c) (bits (leNat p.payload) 39 8) (bits (leNat p.payload) 127 64)
  have hv := h1.trans (vatOf_of_vs h.vs _)
  rw [hv] at hn hk
  refine ⟨_, execNotify_cell h hop haddr, by rw [hn], by rw [hn], by rw [hn], ?_, fun hw => ?_⟩
  · exact ((takes_only h).andThen (n := [.fab, .vs]) h2 (by decide) (by decide)).andThen (notifyKept_only _ _ _ _ _) (by decide) (by decide)
  · rw [hn]
    exact hk ((vatWaitsOn_congr hv _).trans hw)

theorem unpark_clears {s u : State} {node : NodeId} {p : Packet} {cd c off last : Nat} (h : Takes s node p u) (hop : p.opcode = 0x44)
    (haddr : decodeAddr p.addr.toNat = some (.syncCell cd c off)) (hm : tget (cellOf s (256 * cd + c)).mask (dieOf p.src.toNat) = some last) :
    ∃ t, exec (.unpark node p) s = .next t ∧ OnlyParts [.fab, .vs] s t ∧
      (serialLt 32 (bits (leNat p.payload) 39 8) last = false → tget (cellOf t (256 * cd + c)).mask (dieOf p.src.toNat) = none) ∧
      (serialLt 32 (bits (leNat p.payload) 39 8) last = true → t.vs = s.vs) := by
  have hexec : execUnpark node p s = .next (if serialLt 32 (bits (leNat p.payload) 39 8) last then u
      else modCell u (256 * cd + c) fun c => { c with mask := tdel c.mask (dieOf p.src.toNat) }) := by
    unfold execUnpark
    rw [onArrival_next h (by rw [hop]; rfl), haddr]
    dsimp only
    rw [cellOf_of_vs h.vs, hm]
  refine ⟨_, hexec, fun q hq => exec_same (c := .unpark node p) hexec q hq, fun hl => ?_, fun hl => ?_⟩
  · rw [if_neg (by rw [hl]; exact Bool.false_ne_true), cellOf_modCell_self]
    exact tget_tdel_self ..
  · rw [if_pos hl]
    exact h.vs

/-! ### Time -/

theorem sendNotifies_at {s : State} {k : Nat} (h : (cellOf s k).mask ≠ []) : (cellOf (sendNotifies s k) k).notifyAt = s.now := by
  unfold sendNotifies
  extract_lets c body u v
  have hvs : u.vs = s.vs := foldl_same State.vs (fun _ _ => send_vs ..) _ _
  have hnow : u.now = s.now := foldl_same State.now (fun _ _ => send_now ..) _ _
  rw [if_neg (by rw [Bool.not_eq_true, List.isEmpty_eq_false_iff]; exact h)]
  exact (congrArg Cell.notifyAt (cellOf_modCell_self u k fun c => { c with notifyAt := u.now })).trans hnow

theorem notifyRepeat_sends {s : State} {c : CellId} (h : (cellOf s c.val).mask ≠ []) : ∃ t, exec (.notifyRepeat c) s = .next t ∧
      t.now = Nat.max s.now ((cellOf s c.val).notifyAt + 100000) ∧ (cellOf t c.val).notifyAt = t.now ∧ (cellOf t c.val).count = (cellOf s c.val).count ∧
      (∀ e ∈ (cellOf s c.val).mask, Sent t (cellTile c.val) 0x43 (notifyTile e.1) (syncRsp (cellState (cellOf s c.val)) (cellOf s c.val).opseq 0)) ∧
      OnlyParts [.fab, .now, .vs] s t := by
  have hexec : execNotifyRepeat c s = .next (sendNotifies (timeReaches s ((cellOf s c.val).notifyAt + 100000)) c.val) :=
    if_neg (by rw [Bool.not_eq_true, List.isEmpty_eq_false_iff]; exact h)
  generalize hu : timeReaches s ((cellOf s c.val).notifyAt + 100000) = u at hexec
  have hcell : cellOf u c.val = cellOf s c.val := cellOf_of_vs (by rw [← hu]; rfl) _
  obtain ⟨n, ⟨hc, -⟩, -, hsent⟩ := sendNotifies_sends u c.val
  have hnow : (sendNotifies u c.val).now = u.now := (sendNotifies_keeps (Keeps.refl (allBut .now) u) rfl rfl).rest
  rw [hcell] at hsent hc
  refine ⟨_, hexec, hnow.trans (by rw [← hu]; rfl), (sendNotifies_at (by rw [hcell]; exact h)).trans hnow.symm, by rw [hc], hsent,
    OnlyParts.widen (fun q hq => exec_same (c := .notifyRepeat c) hexec q hq) (show [Part.now, .fab, .vs] ⊆ [.fab, .now, .vs] by decide)⟩

theorem waitResend_sends {s : State} {d : VatId} {w : Parked} {l : List Parked} {r : Region} (h : (vatOf s d.val).resend = w :: l)
    (hroom : (vatOf s d.val).waitTable.length < 4096) (hr : decodeAddr (cellAddr w.cell) = some r) : ∃ t, exec (.waitResend d) s = .next t ∧
      (vatOf t d.val).resend = l ∧ (vatOf t d.val).waitTable = (vatOf s d.val).waitTable ∧
      Sent t (match w.who with | .fibre sl _ => nodeAt d.val sl | .sequencer => seqTile d.val) 3 r.tile (leBytes 16 (waitPayload w.cond)) ∧
      OnlyParts [.fab, .vs] s t := by
  have hexec : ∃ o tag, execWaitResend d s =
      .next (sendSync (modVat s d.val fun v => { v with resend := l }) d.val w.who o tag (cellAddr w.cell) (waitPayload w.cond)) := by
    unfold execWaitResend
    extract_lets k v
    rw [show v.resend = w :: l from h]
    dsimp only
    rw [if_pos hroom]
    exact ⟨_, _, rfl⟩
  obtain ⟨o, tag, hexec⟩ := hexec
  have hv : vatOf (sendSync (modVat s d.val fun v => { v with resend := l }) d.val w.who o tag (cellAddr w.cell) (waitPayload w.cond)) d.val =
      { vatOf s d.val with resend := l } := (vatOf_of_vs (send_vs ..) _).trans (vatOf_modVat_self ..)
  refine ⟨_, hexec, by rw [hv], by rw [hv], ?_, fun q hq => exec_same (c := .waitResend d) hexec q hq⟩
  unfold sendSync
  rw [hr]
  exact sent_mkPacket ..

theorem waitLimit_fibre {s : State} {d : VatId} {sl : SliceId} {st : SlotId} {x : Fibre} {k op since : Nat} {cnd : WaitCond} {ret : Option Nat}
    (hlim : setting s 0x3404 (d.val + 1) ≠ 0) (hx : fibreAt s d.val sl.val st.val = some x) (hw : x.wait = some (.sync k op cnd ret since))
    (hop : op = 3 ∨ op = 4) : ∃ t, exec (.waitLimitExpiry d false sl st) s = .next t ∧
      t.now = Nat.max s.now (since + 1000 * setting s 0x3404 (d.val + 1)) ∧ fibreAt t d.val sl.val st.val = none ∧
      (vatOf t d.val).fibreFaults = (vatOf s d.val).fibreFaults + 1 ∧ t.mem = s.mem := by
  have hexec : execWaitLimitExpiry d false sl st s =
      .next (fibreFault (timeReaches s (since + 1000 * setting s 0x3404 (d.val + 1))) d.val sl.val st.val 5) := by
    unfold execWaitLimitExpiry
    extract_lets k limit
    rw [if_neg (by simp only [limit, k]; omega), if_neg Bool.false_ne_true, show fibreAt s k sl.val st.val = some x from hx]
    dsimp only [Option.bind]
    rw [hw]
    exact if_pos (by simpa using hop)
  obtain ⟨h1, h2⟩ := (fibreFault_gone (s := timeReaches s (since + 1000 * setting s 0x3404 (d.val + 1))) hx 5).gone
  exact ⟨_, hexec, fibreFault_now .., h1, h2, fibreFault_mem ..⟩

theorem waitLimit_sequencer {s : State} {d : VatId} {k pay ph since : Nat} {ret : Option Nat} (hlim : setting s 0x3404 (d.val + 1) ≠ 0)
    (hw : (seqOf s d.val).wait = some (.sync k pay ph ret false since)) (hop : opCode pay = 3 ∨ opCode pay = 4) (hre : setting s 0x3115 (d.val + 1) ≠ 1)
    (sl : SliceId) (st : SlotId) : ∃ t, exec (.waitLimitExpiry d true sl st) s = .next t ∧
      t.now = Nat.max s.now (since + 1000 * setting s 0x3404 (d.val + 1)) ∧ (seqOf t d.val).state = 5 ∧ (seqOf t d.val).trapCode = 7 ∧
      (seqOf t d.val).wait = none ∧ (seqOf t d.val).pc = (seqOf s d.val).pc ∧ t.mem = s.mem := by
  have hexec : execWaitLimitExpiry d true sl st s = .next (seqTrap (timeReaches s (since + 1000 * setting s 0x3404 (d.val + 1))) d.val 7) := by
    unfold execWaitLimitExpiry
    extract_lets k limit
    rw [if_neg (by simp only [limit, k]; omega), if_pos rfl, show (seqOf s k).wait = _ from hw]
    exact if_pos (by simpa using hop)
  obtain ⟨r, hq⟩ := seqTrap_seq (s := timeReaches s (since + 1000 * setting s 0x3404 (d.val + 1))) (d := d.val) hre 7 0 0
  have hnow : (seqTrap (timeReaches s (since + 1000 * setting s 0x3404 (d.val + 1))) d.val 7).now = _ :=
    (seqTrap_keeps (Keeps.refl (allBut .now) (timeReaches s (since + 1000 * setting s 0x3404 (d.val + 1)))) rfl rfl rfl rfl).rest
  refine ⟨_, hexec, hnow, by rw [hq], by rw [hq], by rw [hq], by rw [hq]; rfl, seqTrap_mem ..⟩

/-! ### SYNC_RSP -/

/-- The state in which a response has left the buffer that its request reserved, counted as delivered. -/
def responseTaken (s : State) (n : Nat) (p : Packet) (op : Nat) (e : Expect) : State := delivered (takeExpect s n p op).1 n p e

theorem responseTaken_only (s : State) (n : Nat) (p : Packet) (op : Nat) (e : Expect) : OnlyParts [.fab, .obs] s (responseTaken s n p op e) := by
  have htake : OnlyParts [.fab] s (takeExpect s n p op).1 := onlyParts_of_keeps (takeExpect_keeps (Keeps.refl _ s) rfl)
  exact htake.andThen (onlyParts_of_keeps (l := [.obs]) (delivered_keeps (Keeps.refl _ _) rfl)) (by decide) (by decide)

theorem responseTaken_vs (s : State) (n : Nat) (p : Packet) (op : Nat) (e : Expect) : (responseTaken s n p op e).vs = s.vs :=
  responseTaken_only s n p op e .vs rfl

theorem execSyncRsp_owner {s u : State} {node : NodeId} {p : Packet} {e : Expect} (h : Accepts s node p false u) (hop : p.opcode = 0x21)
    (he : (takeExpect u node.toNat p 3).2 = some e) : execSyncRsp node p s = .next (
      match e.owner with
      | .fibre d slice slot batch index _ =>
        match fibreAt (responseTaken u node.toNat p 3 e) d slice slot with
        | some x => if x.batch = batch && x.index = index then syncAnswer (responseTaken u node.toNat p 3 e) d (.fibre slice slot) (leNat p.payload)
          else responseTaken u node.toNat p 3 e
        | none => responseTaken u node.toNat p 3 e
      | .sequencer d => syncAnswer (responseTaken u node.toNat p 3 e) d .sequencer (leNat p.payload)
      | _ => responseTaken u node.toNat p 3 e) := by
  unfold execSyncRsp
  extract_lets n
  rw [h.acts (by rw [hop]; rfl)]
  have hpair : takeExpect u n p 3 = ((takeExpect u n p 3).1, some e) := Prod.ext rfl he
  rw [hpair]
  rfl

theorem syncAnswer_done {v : Nat} (h : bits v 7 0 ≤ 1) (s : State) (d : Nat) (who : Waiter) :
    syncAnswer s d who v = completeSync s d who (bits v 127 64) (bits v 7 0) := if_pos (by simp; omega)

theorem syncAnswer_failed {v : Nat} (h : 3 ≤ bits v 7 0) (s : State) (d sl sk : Nat) : syncAnswer s d (.fibre sl sk) v = fibreFault s d sl sk 4 := by
  unfold syncAnswer
  extract_lets st q r
  rw [if_neg (by simp [r]; omega), if_neg (by simp only [r]; omega)]

/-- A WAIT of a fibre that is answered PARKED enters the wait table (R133, R134). -/
theorem syncAnswer_parked {s : State} {d sl sk k since v : Nat} {x : Fibre} {cnd : WaitCond} {ret : Option Nat} (h : bits v 7 0 = 2)
    (hx : fibreAt s d sl sk = some x) (hw : x.wait = some (.sync k 3 cnd ret since)) (hroom : (vatOf s d).waitTable.length < 4096)
    (hnote : tget (vatOf s d).notifies k = none) : ∃ q, vatOf (syncAnswer s d (.fibre sl sk) v) d = { vatOf s d with
      parkedSeq := q, waitTable := (vatOf s d).waitTable ++ [{ cell := k, cond := cnd, opseq := bits v 39 8, who := .fibre sl sk }] } ∧
      OnlyParts [.vs] s (syncAnswer s d (.fibre sl sk) v) := by
  have hcell : waiterCell s d (.fibre sl sk) = some (k, cnd) := by
    unfold waiterCell
    dsimp only
    rw [hx]
    dsimp only [Option.bind]
    rw [hw]
    rfl
  have he : syncAnswer s d (.fibre sl sk) v = parkedAnswer s d k (.fibre sl sk) cnd (bits v 39 8) := by
    unfold syncAnswer
    extract_lets st q r what
    have hwhat : what = 3 := by
      unfold what
      dsimp only
      rw [hx]
      dsimp only [Option.bind]
      rw [hw]
    rw [if_neg (by simp [r, h]), if_pos h, hcell]
    dsimp only
    rw [if_neg (by rw [hwhat]; decide)]
  rw [he]
  unfold parkedAnswer
  extract_lets u later e
  have hu : vatOf u d = _ := vatOf_modVat_self ..
  have hlater : later = none := by
    unfold later
    rw [hu]
    dsimp only
    rw [hnote]
  rw [hlater]
  dsimp only
  rw [if_pos (by rw [hu]; exact hroom)]
  refine ⟨_, (vatOf_modVat_self ..).trans (by rw [hu]), onlyParts_of_keeps (modVat_keeps (modVat_keeps (Keeps.refl _ s) rfl) rfl)⟩

section
variable {s u : State} {node : NodeId} {p : Packet} {e : Expect} {d sl sk batch index k op since : Nat} {tg : Option Nat} {cnd : WaitCond} {ret : Option Nat}
  {x : Fibre} (h : Accepts s node p false u) (hop : p.opcode = 0x21) (he : (takeExpect u node.toNat p 3).2 = some e)
  (howner : e.owner = .fibre d sl sk batch index tg) (hx : fibreAt s d sl sk = some x) (hb : x.batch = batch) (hi : x.index = index)
include h hop he howner hx hb hi

theorem syncRsp_fibre : execSyncRsp node p s = .next (syncAnswer (responseTaken u node.toNat p 3 e) d (.fibre sl sk) (leNat p.payload)) ∧
    (responseTaken u node.toNat p 3 e).vs = s.vs ∧ OnlyParts [.fab, .obs] s (responseTaken u node.toNat p 3 e) := by
  have hvs : (responseTaken u node.toNat p 3 e).vs = s.vs := (responseTaken_vs ..).trans h.vs
  refine ⟨(execSyncRsp_owner h hop he).trans ?_, hvs, h.only.andThen (responseTaken_only _ _ _ _ _) (by decide) (by decide)⟩
  rw [howner]
  dsimp only
  rw [(fibreAt_of_vs hvs ..).trans hx]
  exact congrArg _ (if_pos (by simp [hb, hi]))

theorem syncRsp_done (hw : x.wait = some (.sync k op cnd ret since)) (hr : bits (leNat p.payload) 7 0 ≤ 1) (hlast : x.opIndex < 255) :
    ∃ t, exec (.syncRsp node p) s = .next t ∧ Resumed t d sl sk x (syncRegs x.regs ret (bits (leNat p.payload) 127 64)) ∧ OnlyParts [.fab, .obs, .vs] s t := by
  obtain ⟨hexec, hvs, honly⟩ := syncRsp_fibre h hop he howner hx hb hi
  obtain ⟨hres, hc, -⟩ := completeSync_fibre ((fibreAt_of_vs hvs d sl sk).trans hx) hw hlast (bits (leNat p.payload) 127 64) (bits (leNat p.payload) 7 0)
  rw [syncAnswer_done hr] at hexec
  exact ⟨_, hexec, hres, honly.andThen hc (by decide) (by decide)⟩

theorem syncRsp_parked (hw : x.wait = some (.sync k 3 cnd ret since)) (hr : bits (leNat p.payload) 7 0 = 2)
    (hroom : (vatOf s d).waitTable.length < 4096) (hnote : tget (vatOf s d).notifies k = none) : ∃ t, exec (.syncRsp node p) s = .next t ∧
      (vatOf t d).waitTable = (vatOf s d).waitTable ++ [{ cell := k, cond := cnd, opseq := bits (leNat p.payload) 39 8, who := .fibre sl sk }] ∧
      fibreAt t d sl sk = some x ∧ OnlyParts [.fab, .obs, .vs] s t := by
  obtain ⟨hexec, hvs, honly⟩ := syncRsp_fibre h hop he howner hx hb hi
  have hx' := (fibreAt_of_vs hvs d sl sk).trans hx
  have hv := vatOf_of_vs hvs d
  obtain ⟨q, hvat, hvo⟩ := syncAnswer_parked hr hx' hw (by rw [hv]; exact hroom) (by rw [hv]; exact hnote)
  rw [hv] at hvat
  exact ⟨_, hexec, by rw [hvat], (fibreAt_of_vat (by rw [hvat]) sl sk).trans hx, honly.andThen hvo (by decide) (by decide)⟩

theorem syncRsp_failed (hr : 3 ≤ bits (leNat p.payload) 7 0) : ∃ t, exec (.syncRsp node p) s = .next t ∧ fibreAt t d sl sk = none ∧
    (vatOf t d).fibreFaults = (vatOf s d).fibreFaults + 1 ∧ t.mem = s.mem := by
  obtain ⟨hexec, hvs, honly⟩ := syncRsp_fibre h hop he howner hx hb hi
  rw [syncAnswer_failed hr] at hexec
  obtain ⟨h1, h2⟩ := (fibreFault_gone ((fibreAt_of_vs hvs d sl sk).trans hx) 4).gone
  exact ⟨_, hexec, h1, h2.trans (by rw [vatOf_of_vs hvs]), (fibreFault_mem ..).trans (honly .mem rfl)⟩
end

theorem syncRsp_sequencer {s u : State} {node : NodeId} {p : Packet} {e : Expect} {d k pay ph since : Nat} {ret : Option Nat} {nl : Bool}
    (h : Accepts s node p false u) (hop : p.opcode = 0x21) (he : (takeExpect u node.toNat p 3).2 = some e) (howner : e.owner = .sequencer d)
    (hw : (seqOf s d).wait = some (.sync k pay ph ret nl since)) (hr : bits (leNat p.payload) 7 0 ≤ 1) (hposted : (seqOf s d).posted = none)
    (hstop : (seqOf s d).stopping = false) : ∃ t, exec (.syncRsp node p) s = .next t ∧
      (seqOf t d).state = 2 ∧ (seqOf t d).wait = none ∧ (seqOf t d).pc = ((seqOf s d).pc + 1) % 65536 ∧
      (∀ r, ret = some r → r ≠ 0 → regGet (seqOf t d).regs r = BitVec.ofNat 64 (bits (leNat p.payload) 127 64)) ∧ OnlyParts [.fab, .obs, .vs] s t := by
  have hvs : (responseTaken u node.toNat p 3 e).vs = s.vs := (responseTaken_vs ..).trans h.vs
  have honly : OnlyParts [.fab, .obs] s (responseTaken u node.toNat p 3 e) := h.only.andThen (responseTaken_only _ _ _ _ _) (by decide) (by decide)
  have hexec := execSyncRsp_owner h hop he
  rw [howner] at hexec
  dsimp only at hexec
  rw [syncAnswer_done hr, completeSync] at hexec
  dsimp only at hexec
  rw [seqOf_of_vs hvs, hw] at hexec
  dsimp only at hexec
  generalize hy : waitEvent (responseTaken u node.toNat p 3 e) d (opCode pay) (bits (leNat p.payload) 7 0) since (cellAddr k) = y at hexec
  have hyo : OnlyParts [.obs] (responseTaken u node.toNat p 3 e) y := hy ▸ onlyParts_of_keeps (waitEvent_keeps (Keeps.refl _ _) rfl)
  have hq : seqOf y d = seqOf s d := seqOf_of_vs ((hyo .vs rfl).trans hvs) d
  rw [seqNext_ret (ret := ret) (w := BitVec.ofNat 64 (bits (leNat p.payload) 127 64)) (fun q => ?_) (by rw [hq]; exact hposted) (by rw [hq]; exact hstop),
    hq] at hexec
  rotate_left
  · cases ret with
    | none => rfl
    | some r => exact seqSetReg_eq ..
  refine ⟨_, hexec, ?_, ?_, ?_, fun r hret hne => ?_, ?_⟩
  · rw [seqOf_modSeq_self]
  · rw [seqOf_modSeq_self]
  · rw [seqOf_modSeq_self]
  · rw [seqOf_modSeq_self, hret]
    dsimp only [retRegs]
    rw [if_neg hne, regGet_regSet, if_pos rfl]
  · exact (honly.andThen hyo (n := [.fab, .obs]) (by decide) (by decide)).andThen (onlyParts_of_keeps (l := [.vs]) (modSeq_keeps (Keeps.refl _ y) rfl)) (by decide) (by decide)

/-! ### KILL -/

theorem fst_ne_of_tget_none {α : Type} {t : Table α} {k : Nat} (h : tget t k = none) : ∀ e ∈ t, e.1 ≠ k := by
  induction t with
  | nil => exact nofun
  | cons x t ih =>
    rw [tget] at h
    split at h
    · cases h
    · next hx => exact List.forall_mem_cons.mpr ⟨hx, ih h⟩

theorem tdel_of_tget_none {α : Type} {t : Table α} {k : Nat} (h : tget t k = none) : tdel t k = t :=
  List.filter_eq_self.mpr fun e he => bne_iff_ne.mpr (fst_ne_of_tget_none h e he)

theorem mem_foldl_tdel {α : Type} {l : List Nat} {t : Table α} {e : Nat × α} (h : e ∈ l.foldl tdel t) : e ∈ t ∧ e.1 ∉ l := by
  induction l generalizing t with
  | nil => exact ⟨h, List.not_mem_nil⟩
  | cons k l ih =>
    obtain ⟨h1, h2⟩ := ih h
    obtain ⟨h3, h4⟩ := List.mem_filter.mp h1
    exact ⟨h3, List.not_mem_cons_of_ne_of_not_mem (bne_iff_ne.mp h4) h2⟩

theorem tget_foldl_tdel {α : Type} {l : List Nat} {k : Nat} (h : k ∉ l) (t : Table α) : tget (l.foldl tdel t) k = tget t k := by
  induction l generalizing t with
  | nil => rfl
  | cons j l ih =>
    rw [List.foldl_cons, ih (List.not_mem_of_not_mem_cons h), tget_tdel_ne _ (List.ne_of_not_mem_cons h)]

/-- A fault at a fibre's slot empties it, whether a fibre is there or not. -/
theorem fibreFault_fibres (s : State) (d k c : Nat) : (vatOf (fibreFault s d (k / 256) (k % 256) c) d).fibres = tdel (vatOf s d).fibres k := by
  have hkey : fibreKey (k / 256) (k % 256) = k := Nat.div_add_mod k 256
  cases h : fibreAt s d (k / 256) (k % 256) with
  | none =>
    rw [show fibreFault s d (k / 256) (k % 256) c = s by unfold fibreFault; rw [h]]
    rw [fibreAt, hkey] at h
    exact (tdel_of_tget_none h).symm
  | some x =>
    obtain ⟨w, r, n, b, e, a, hv⟩ := fibreFault_gone h c
    rw [hv, hkey]

theorem fibreFaults_fibres (d c : Nat) (l : List Nat) (s : State) :
    (vatOf (l.foldl (fun s k => fibreFault s d (k / 256) (k % 256) c) s) d).fibres = l.foldl tdel (vatOf s d).fibres := by
  induction l generalizing s with
  | nil => rfl
  | cons k l ih => rw [List.foldl_cons, ih, fibreFault_fibres, List.foldl_cons]

/-- The fibres of a tag, by their keys. -/
def taggedFibres (s : State) (d tag : Nat) : List Nat := ((vatOf s d).fibres.filter fun e => e.2.tag == some tag).map (·.1)

theorem mem_taggedFibres {s : State} {d tag k : Nat} : k ∈ taggedFibres s d tag ↔ ∃ e ∈ (vatOf s d).fibres, e.1 = k ∧ e.2.tag = some tag := by
  simp only [taggedFibres, List.mem_map, List.mem_filter, beq_iff_eq]
  exact ⟨fun ⟨e, ⟨he, ht⟩, hk⟩ => ⟨e, he, hk, ht⟩, fun ⟨e, he, hk, ht⟩ => ⟨e, ⟨he, ht⟩, hk⟩⟩

/-- What a vat holds of a killed tag (R143, R144, R211). -/
theorem vatKill_vat (s : State) (d tag : Nat) : ∃ v : Vat, vatOf (vatKill s d tag) d = v ∧ v.fibres = (taggedFibres s d tag).foldl tdel (vatOf s d).fibres ∧
    tget v.kills (tagPort tag * 256 + tagCtx tag) = some (tagGen tag) ∧ ∀ e ∈ v.queue, bits e.1 15 0 ≠ tag := by
  unfold vatKill
  extract_lets mine u w
  have hw : vatOf w d = _ := vatOf_modVat_self ..
  refine ⟨_, (vatOf_of_vs (s := w) rfl d).trans hw, fibreFaults_fibres ..,
    tget_tput_self .., fun e he => ?_⟩
  have h := (List.mem_filter.mp he).2
  simpa using h

theorem vatKill_mem (s : State) (d tag : Nat) : (vatKill s d tag).mem = s.mem :=
  (vatKill_keeps (Keeps.refl (allBut .mem) s) rfl rfl rfl rfl rfl).rest

theorem kill_ends {s u : State} {node : NodeId} {p : Packet} {d : Nat} (h : Takes s node p u) (hv : p.tagValid = true) (hd : d = dieOf node.toNat)
    (hlt : d < 16) (hop : p.opcode = 0x45) : ∃ t, exec (.kill node p) s = .next t ∧
      (∀ e ∈ (vatOf t d).fibres, e.2.tag ≠ some p.tag.toNat) ∧ (∀ e ∈ (vatOf t d).queue, bits e.1 15 0 ≠ p.tag.toNat) ∧
      (∀ k x, tget (vatOf s d).fibres k = some x → (∀ e ∈ (vatOf s d).fibres, e.1 = k → e.2.tag ≠ some p.tag.toNat) →
        tget (vatOf t d).fibres k = some x) ∧
      tget (vatOf t d).kills (tagPort p.tag.toNat * 256 + tagCtx p.tag.toNat) = some (tagGen p.tag.toNat) ∧
      Sent t (schedTile d) 0x46 (admissionTile (tagPort p.tag.toNat)) [] ∧ t.mem = s.mem := by
  have hexec : execKill node p s = .next (send (vatKill u d p.tag.toNat) (schedTile d) (.endpoint d 6)
      (mkPacket 0x46 (admissionTile (tagPort p.tag.toNat)) p.partition.toNat (some p.tag.toNat) 0 [])) := by
    unfold execKill
    extract_lets k
    rw [if_neg (by simp [hv, k, ← hd, hlt]), onArrival_next h (by rw [hop]; rfl), hd]
  obtain ⟨v, hvat, hfib, hkills, hqueue⟩ := vatKill_vat u d p.tag.toNat
  have ht : vatOf (send (vatKill u d p.tag.toNat) (schedTile d) (.endpoint d 6)
      (mkPacket 0x46 (admissionTile (tagPort p.tag.toNat)) p.partition.toNat (some p.tag.toNat) 0 [])) d = v := (vatOf_of_vs (send_vs ..) d).trans hvat
  have htag : taggedFibres u d p.tag.toNat = taggedFibres s d p.tag.toNat := by rw [taggedFibres, vatOf_of_vs h.vs, taggedFibres]
  rw [vatOf_of_vs h.vs, htag] at hfib
  refine ⟨_, hexec, fun e he htg => ?_, fun e he => ?_, fun k x hx hk => ?_, ?_, sent_mkPacket .., ?_⟩
  · rw [ht, hfib] at he
    obtain ⟨h1, h2⟩ := mem_foldl_tdel he
    exact h2 (mem_taggedFibres.mpr ⟨e, h1, rfl, htg⟩)
  · rw [ht] at he
    exact hqueue e he
  · rw [ht, hfib, tget_foldl_tdel]
    · exact hx
    · exact fun hm => by
        obtain ⟨e, he, hek, het⟩ := mem_taggedFibres.mp hm
        exact hk e he hek het
  · rw [ht]
    exact hkills
  · rw [send_mem, vatKill_mem, h.mem]

/-! ### KILL_DONE -/

theorem execKillDone_current {s u : State} {node : NodeId} {p : Packet} (h : Takes s node p u) (hv : p.tagValid = true) (hop : p.opcode = 0x46)
    (hcur : tagCurrent s p.tag.toNat = true) :
    execKillDone node p s = .next (killAnswered u (tagPort p.tag.toNat) (tagCtx p.tag.toNat) (dieOf p.src.toNat)) := by
  have hu : tagCurrent u p.tag.toNat = true := by
    rw [tagCurrent, ctxOf_of_port (congrArg PortState.adm (takes_only h .port rfl))]
    exact hcur
  unfold execKillDone
  rw [onArrival_next h (by rw [hop]; rfl)]
  exact congrArg _ (if_pos (by simp [hv, hu]))

/-- The state of a context that a vat has answered (R140, R143). -/
theorem killAnswered_state (s : State) (p c d : Nat) :
    ((ctxOf s p c).state = 3 → (ctxOf s p c).posted = false → (∀ e ∈ (ctxOf s p c).kills, e = d) → (ctxOf (killAnswered s p c d) p c).state = 4) ∧
    ((ctxOf s p c).state = 3 → (∃ e ∈ (ctxOf s p c).kills, e ≠ d) → (ctxOf (killAnswered s p c d) p c).state = 3) ∧
    ((ctxOf s p c).posted = true → (∀ e ∈ (ctxOf s p c).kills, e = d) → (ctxOf (killAnswered s p c d) p c).state = 0 ∧
      (ctxOf (killAnswered s p c d) p c).gen = ((ctxOf s p c).gen + 1) % 64) := by
  unfold killAnswered
  extract_lets u x
  have hx : x = { ctxOf s p c with kills := (ctxOf s p c).kills.filter (· != d) } := ctxOf_modCtx_self ..
  have hempty (h : ∀ e ∈ (ctxOf s p c).kills, e = d) : x.kills = [] := by
    rw [hx]
    exact List.filter_eq_nil_iff.mpr fun e he => by simp [h e he]
  refine ⟨fun hst hpost hall => ?_, fun hst hsome => ?_, fun hpost hall => ?_⟩
  · rw [if_neg (by simp [hx, hpost]), killSettle, if_pos (by rw [show (ctxOf u p c).kills = [] from hempty hall, show ctxOf u p c = _ from hx]; simp [hst])]
    rw [ctxOf_ctxEvent, ctxOf_modCtx_self]
  · obtain ⟨e, he, hne⟩ := hsome
    have hk : x.kills.isEmpty = false := by
      rw [hx, List.isEmpty_eq_false_iff]
      exact List.ne_nil_of_mem (List.mem_filter.mpr ⟨he, bne_iff_ne.mpr hne⟩)
    rw [if_neg (by rw [hk]; exact Bool.false_ne_true), killSettle, if_neg (by rw [show (ctxOf u p c).kills.isEmpty = false from hk]; simp)]
    exact (congrArg Context.state hx).trans hst
  · rw [if_pos (by rw [hempty hall, hx]; exact hpost), freeContext, ctxOf_of_port (congrArg PortState.adm (event_port ..)), ctxOf_modCtx_self]
    exact ⟨rfl, by rw [show ctxOf u p c = _ from hx]⟩

/-- Settles O41: each wait, and KILL, by what it leaves of its vat, its cell or its context. -/
theorem syncWaitsAndKillsComplete : Obligations.SyncWaitsAndKillsComplete := by
  intro s u node p v hv
  subst hv
  refine ⟨fun cd c off d sl sk k op since cnd ret w x h hop hd haddr hgo hwho hx hw hi => notify_fibre h hop hd haddr hgo hwho hx hw hi,
    fun cd c off d h hop hd haddr hgo => notify_none h hop hd haddr hgo, fun cd c off last h hop haddr hm => unpark_clears h hop haddr hm,
    fun c h => notifyRepeat_sends h, fun d w l r h hroom hr => waitResend_sends h hroom hr,
    fun d sl st x k op since cnd ret hlim hx hw hop => waitLimit_fibre hlim hx hw hop,
    fun d sl st k pay ph since ret hlim hw hop hre => waitLimit_sequencer hlim hw hop hre sl st,
    fun d sl sk b i k op since tg cnd ret e x h hop he howner hx hb hi hw => ⟨fun hr hlast => syncRsp_done h hop he howner hx hb hi hw hr hlast,
      fun hr h3 hroom hnote => syncRsp_parked h hop he howner hx hb hi (h3 ▸ hw) hr hroom hnote, fun hr => syncRsp_failed h hop he howner hx hb hi hr⟩,
    fun d k pay ph since ret nl e h hop he howner hw hr hposted hstop => syncRsp_sequencer h hop he howner hw hr hposted hstop,
    fun d h hv hd hlt hop => kill_ends h hv hd hlt hop, fun c d x h hv hop hcur hd hc hx => ?_⟩
  subst hd hc hx
  have hexec := execKillDone_current h hv hop hcur
  have hctx : ctxOf u (tagPort p.tag.toNat) (tagCtx p.tag.toNat) = ctxOf s (tagPort p.tag.toNat) (tagCtx p.tag.toNat) :=
    ctxOf_of_port (congrArg PortState.adm (takes_only h .port rfl)) ..
  obtain ⟨h1, h2, h3⟩ := killAnswered_state u (tagPort p.tag.toNat) (tagCtx p.tag.toNat) (dieOf p.src.toNat)
  rw [hctx] at h1 h2 h3
  exact ⟨_, hexec, killAnswered_kills .., h1, h2, h3, (takes_only h).andThen (killAnswered_only _ _ _ _) (by decide) (by decide)⟩

end Sys2Proof.Machine

/-!
PROOFS. Faults, traps and settling leave the fabric's packets, streams and groups alone (R229, R335).
-/
namespace Sys2Proof.Machine

set_option Elab.async false

/-! ### What a fault or a trap leaves of the fabric -/

/-- The multicast groups, at their roots and at their member agents. -/
def groupsOf (s : State) : Table McGroup × Table McAgent := (s.vs.mc, s.vs.agents)

/-- Of the fabric at most the waiting packets and the response buffers differ, no multicast group, and no count of failed packets. -/
def Quiet (s t : State) : Prop :=
  (∃ w e, t.fab = { s.fab with waiting := w, expects := e }) ∧ groupsOf t = groupsOf s ∧ t.integ.streamErrors = s.integ.streamErrors

theorem Quiet.refl (s : State) : Quiet s s := ⟨⟨_, _, rfl⟩, rfl, rfl⟩

theorem Quiet.trans {s t u : State} (h : Quiet s t) (h' : Quiet t u) : Quiet s u := by
  obtain ⟨⟨w, e, hf⟩, hm, he⟩ := h
  obtain ⟨⟨w', e', hf'⟩, hm', he'⟩ := h'
  exact ⟨⟨w', e', by rw [hf', hf]⟩, hm'.trans hm, he'.trans he⟩

theorem Quiet.net {s t : State} (h : Quiet s t) : t.fab.net = s.fab.net := by
  obtain ⟨⟨_, _, h⟩, -⟩ := h
  rw [h]

theorem Quiet.tracker {s t : State} (h : Quiet s t) (n i : Nat) : trackerOf t n i = trackerOf s n i := by
  obtain ⟨⟨_, _, h⟩, -⟩ := h
  rw [trackerOf, h, trackerOf]

theorem Quiet.trackers {s t : State} (h : Quiet s t) : t.fab.trackers = s.fab.trackers := by
  obtain ⟨⟨_, _, h⟩, -⟩ := h
  rw [h]

theorem Quiet.mc {s t : State} (h : Quiet s t) (g : Nat) : mcOf t g = mcOf s g := by
  rw [mcOf, show t.vs.mc = s.vs.mc from congrArg Prod.fst h.2.1, mcOf]

theorem Quiet.agent {s t : State} (h : Quiet s t) (g d : Nat) : agentOf t g d = agentOf s g d := by
  rw [agentOf, show t.vs.agents = s.vs.agents from congrArg Prod.snd h.2.1, agentOf]

theorem Quiet.acks {s t : State} (h : Quiet s t) : t.fab.acks = s.fab.acks := by
  obtain ⟨⟨_, _, h⟩, -⟩ := h
  rw [h]

theorem Quiet.errors {s t : State} (h : Quiet s t) : t.integ.streamErrors = s.integ.streamErrors := h.2.2

theorem Quiet.of_fab {s t : State} (h : t.fab = s.fab) (hm : groupsOf t = groupsOf s) (he : t.integ.streamErrors = s.integ.streamErrors) : Quiet s t :=
  ⟨⟨_, _, h⟩, hm, he⟩

/-- Every packet that waits at an injection port for another initiator than a sequencer still waits. -/
def OthersWait (s t : State) : Prop :=
  ∀ n, ∀ o ∈ tgetD s.fab.waiting n [], (∀ d, o.owner ≠ .sequencer d) → o ∈ tgetD t.fab.waiting n []

theorem OthersWait.refl (s : State) : OthersWait s s := fun _ _ h _ => h
theorem OthersWait.trans {s t u : State} (h : OthersWait s t) (h' : OthersWait t u) : OthersWait s u := fun n o ho hd => h' n o (h n o ho hd) hd
theorem StillWaits.others {s t : State} (h : StillWaits s t) : OthersWait s t := fun n o ho _ => h n o ho

/-- What a sequencer's own steps leave of the fabric. -/
def SeqQuiet (s t : State) : Prop := Quiet s t ∧ OthersWait s t

theorem SeqQuiet.refl (s : State) : SeqQuiet s s := ⟨.refl s, .refl s⟩
theorem SeqQuiet.trans {s t u : State} (h : SeqQuiet s t) (h' : SeqQuiet t u) : SeqQuiet s u := ⟨h.1.trans h'.1, h.2.trans h'.2⟩

theorem seqQuiet_of_fab {s t : State} (h : t.fab = s.fab) (hm : groupsOf t = groupsOf s) (he : t.integ.streamErrors = s.integ.streamErrors) : SeqQuiet s t :=
  ⟨.of_fab h hm he, (StillWaits.of_fab h).others⟩

theorem seqQuiet_of_obs {s t : State} (h : OnlyParts [.obs] s t) : SeqQuiet s t :=
  seqQuiet_of_fab (h .fab rfl) (by rw [groupsOf, show t.vs = s.vs from h .vs rfl, groupsOf]) (by rw [show t.integ = s.integ from h .integ rfl])

theorem seqQuiet_modVat (s : State) (d : Nat) (f : Vat → Vat) : SeqQuiet s (modVat s d f) := seqQuiet_of_fab rfl rfl rfl

theorem seqQuiet_send (s : State) (n : Nat) (o : Initiator) (p : Packet) : SeqQuiet s (send s n o p) :=
  ⟨⟨⟨_, _, rfl⟩, rfl, rfl⟩, (stillWaits_send s n o p).others⟩

theorem seqQuiet_report (s : State) (r : Report) : SeqQuiet s (report s r) := by
  refine seqQuiet_of_fab (report_fab ..) (by rw [groupsOf, report_vs, groupsOf]) ?_
  obtain ⟨_, _, _, _, h⟩ := report_integ s r
  rw [h]

theorem tget_map_snd {α β : Type} (t : Table α) (f : α → β) (n : Nat) : tget (t.map fun e => (e.1, f e.2)) n = (tget t n).map f := by
  induction t with
  | nil => rfl
  | cons e t ih =>
    rw [List.map_cons, tget, tget, ih]
    split <;> rfl

theorem mem_waiting_purge {s : State} {q : OutPacket → Bool} {n : Nat} {o : OutPacket} :
    o ∈ tgetD (purgeWaiting s q).fab.waiting n [] ↔ o ∈ tgetD s.fab.waiting n [] ∧ q o = false := by
  have h : tget (purgeWaiting s q).fab.waiting n = (tget s.fab.waiting n).map fun l => l.filter fun o => !q o := tget_map_snd ..
  rw [tgetD, tgetD, h]
  cases tget s.fab.waiting n with
  | none => exact ⟨nofun, nofun⟩
  | some l => simp

theorem quiet_purgeWaiting (s : State) (q : OutPacket → Bool) : Quiet s (purgeWaiting s q) := ⟨⟨_, _, rfl⟩, rfl, rfl⟩
theorem quiet_dropExpects (s : State) (q : Expect → Bool) : Quiet s (dropExpects s q) := ⟨⟨_, _, rfl⟩, rfl, rfl⟩

theorem seqQuiet_unparkIfDone (s : State) (d k : Nat) : SeqQuiet s (unparkIfDone s d k) := by
  unfold unparkIfDone
  extract_lets v
  split
  · exact .refl s
  split
  · exact .refl s
  · exact (seqQuiet_modVat ..).trans (seqQuiet_send ..)

theorem seqQuiet_withdrawCell (s : State) (n a b c : Nat) : SeqQuiet s (withdrawCell s n a b c) := seqQuiet_of_fab rfl rfl rfl

theorem seqQuiet_withdrawWait (s : State) (d : Nat) (who : Waiter) (o : Initiator) : SeqQuiet s (withdrawWait s d who o) := by
  unfold withdrawWait
  extract_lets node mine u u' v cells w
  have hu : SeqQuiet s u := by
    unfold u
    exact foldl_related (R := SeqQuiet) .refl .trans (fun s e => seqQuiet_withdrawCell ..) mine s
  have hu' : SeqQuiet u u' := ⟨quiet_dropExpects .., (StillWaits.of_waiting rfl).others⟩
  exact ((hu.trans hu').trans (seqQuiet_modVat ..)).trans (foldl_related (R := SeqQuiet) .refl .trans (fun s k => seqQuiet_unparkIfDone s d k) cells w)

/-! ### A sequencer that traps, starts or goes on -/

theorem seqQuiet_seqCancelWait (s : State) (d : Nat) : SeqQuiet s (seqCancelWait s d) := by
  unfold seqCancelWait
  extract_lets u v
  refine ((seqQuiet_withdrawWait ..).trans ⟨quiet_purgeWaiting .., fun n o ho hd => mem_waiting_purge.mpr ⟨ho, ?_⟩⟩).trans (seqQuiet_modVat ..)
  rw [show (o.owner == Initiator.sequencer d) = false from beq_eq_false_iff_ne.mpr (hd d)]
  rfl

theorem seqQuiet_seqEvent (s : State) (d t p : Nat) (e : Option Nat) : SeqQuiet s (seqEvent s d t p e) :=
  seqQuiet_of_obs (onlyParts_of_keeps (seqEvent_keeps (Keeps.refl _ s) rfl))

theorem seqQuiet_seqSettle (s : State) (d : Nat) : SeqQuiet s (seqSettle s d) := by
  unfold seqSettle
  extract_lets q
  split
  · exact seqQuiet_modVat ..
  · exact .refl s

theorem seqQuiet_seqBegin (s : State) (d : Nat) : SeqQuiet s (seqBegin s d) :=
  ((seqQuiet_modVat ..).trans (seqQuiet_modVat ..)).trans (seqQuiet_seqSettle ..)

theorem seqQuiet_seqTrap (s : State) (d c a x : Nat) : SeqQuiet s (seqTrap s d c a x) := by
  unfold seqTrap
  extract_lets u q instr v w y recent
  have hy : SeqQuiet s y := (((seqQuiet_seqCancelWait ..).trans (seqQuiet_modVat ..)).trans (seqQuiet_report ..)).trans (seqQuiet_seqEvent ..)
  split
  · exact (hy.trans (seqQuiet_modVat ..)).trans (seqQuiet_seqBegin ..)
  · exact hy

theorem seqQuiet_seqBoundary (s : State) (d : Nat) : SeqQuiet s (seqBoundary s d) := by
  unfold seqBoundary
  extract_lets q
  split
  · exact .refl s
  split
  · exact seqQuiet_seqTrap ..
  split
  · exact seqQuiet_modVat ..
  · exact .refl s

theorem seqQuiet_seqNext (s : State) (d : Nat) (f : Sequencer → Sequencer) : SeqQuiet s (seqNext s d f) :=
  (seqQuiet_modVat ..).trans (seqQuiet_seqBoundary ..)

/-- A sequencer that goes on when its packets have left changes none of the fabric but its own waiting packets. -/
theorem seqQuiet_settleSeq (s : State) (d : Nat) : SeqQuiet s (settleSeq s d) := by
  have hm : SeqQuiet s (mcastSettle s d) := by
    unfold mcastSettle
    split
    · exact seqQuiet_seqNext ..
    · exact .refl s
  exact hm.trans (seqQuiet_seqSettle ..)

/-! ### An access that fails -/

theorem quiet_modCtx (s : State) (p c : Nat) (f : Context → Context) : Quiet s (modCtx s p c f) := .of_fab rfl rfl rfl

theorem quiet_ctxEvent (s : State) (p c : Nat) : Quiet s (ctxEvent s p c) :=
  (seqQuiet_of_obs (onlyParts_of_keeps (ctxEvent_keeps (Keeps.refl _ s) rfl))).1

theorem quiet_killSettle (s : State) (p c : Nat) : Quiet s (killSettle s p c) := by
  unfold killSettle
  extract_lets x
  split
  · exact (quiet_modCtx s p c _).trans (quiet_ctxEvent ..)
  · exact .refl s

theorem quiet_enterKilling (s : State) (p c f : Nat) : Quiet s (enterKilling s p c f) := by
  unfold enterKilling
  extract_lets x u vats v w y z
  split
  · have hu : Quiet s u := (seqQuiet_of_obs (onlyParts_of_keeps (leaveLive_keeps (Keeps.refl _ s) rfl))).1
    have hv : Quiet u v := quiet_modCtx ..
    have hw : Quiet v w := by
      unfold w
      split
      · exact .of_fab rfl rfl rfl
      · exact .refl v
    have hz : Quiet y z := foldl_related .refl .trans (fun s d => (seqQuiet_send s ..).1) vats y
    have hy : Quiet w y := quiet_ctxEvent w p c
    exact ((((hu.trans hv).trans hw).trans hy).trans hz).trans (quiet_killSettle z p c)
  · exact .refl s

theorem quiet_faultReport (s : State) (d sl b i : Nat) (tag : Option Nat) (c : Nat) : Quiet s (faultReport s d sl b i tag c) := by
  unfold faultReport
  extract_lets u v part w x
  have hx : Quiet s x := ((((seqQuiet_modVat ..).trans (seqQuiet_modVat ..)).trans
    (seqQuiet_of_obs (onlyParts_of_keeps (event_keeps (Keeps.refl _ v) rfl)))).trans (seqQuiet_report ..)).1
  refine hx.trans ?_
  unfold contextFault
  split
  · exact .refl x
  split
  · exact quiet_enterKilling ..
  · exact .refl x

theorem quiet_fibreFault (s : State) (d sl st c : Nat) : Quiet s (fibreFault s d sl st c) := by
  unfold fibreFault
  split
  · exact .refl s
  · exact ((((seqQuiet_withdrawWait ..).1.trans (quiet_purgeWaiting ..)).trans (seqQuiet_modVat ..).1).trans (seqQuiet_modVat ..).1).trans (quiet_faultReport ..)

theorem quiet_deliveryPost (s : State) (p c : Nat) : Quiet s (deliveryPost s p c) := (quiet_modCtx ..).trans (seqQuiet_send ..).1

theorem quiet_portIntegrity (s : State) (k : Nat) : Quiet s (modInteg s fun g => { g with portIntegrity := tinc g.portIntegrity k 1 }) :=
  .of_fab rfl rfl rfl

theorem quiet_deliverInput (s : State) (p c : Nat) : Quiet s (deliverInput s p c) := by
  unfold deliverInput
  extract_lets x base
  split
  · exact .refl s
  · next r hr =>
    extract_lets data cuts bad u v w
    have hu : Quiet s u := quiet_modCtx ..
    have hv : Quiet u v := by
      unfold v
      split
      · exact (quiet_portIntegrity u (8 * p + 1)).trans (seqQuiet_report ..).1
      · exact .refl u
    have hw : Quiet v w := foldl_related (R := Quiet) .refl .trans (fun s e => (seqQuiet_send s ..).1) cuts.zipIdx v
    have hsw := (hu.trans hv).trans hw
    split
    · exact hsw.trans (quiet_deliveryPost ..)
    · exact hsw

theorem quiet_deliveryFailed (s : State) (p c k : Nat) : Quiet s (deliveryFailed s p c k) := by
  unfold deliveryFailed
  extract_lets x u v w
  have hu : Quiet s u := quiet_purgeWaiting ..
  split
  · split
    · have hv : Quiet u v := quiet_portIntegrity ..
      exact ((hu.trans hv).trans (quiet_modCtx v p c _)).trans (quiet_deliverInput ..)
    · exact (hu.trans (quiet_modCtx ..)).trans (seqQuiet_report ..).1
  · exact .refl s

theorem quiet_seqPosted (s : State) (d c a : Nat) : Quiet s (seqPosted s d c a) := by
  unfold seqPosted
  extract_lets q
  split
  · exact (seqQuiet_seqTrap ..).1
  split
  · split
    · exact (seqQuiet_modVat ..).1
    · exact (seqQuiet_seqTrap ..).1
  · exact .refl s

/-- A failure that reaches its initiator leaves the fabric's packets, its streams and its groups as they were (R335, R339). -/
theorem quiet_failAccess (s : State) (o : Initiator) (p : Packet) (c a : Nat) : Quiet s (failAccess s o p c a) := by
  unfold failAccess
  split
  · next d sl st b i tag =>
    extract_lets code u
    have hu : Quiet s u := quiet_purgeWaiting ..
    have hwrite : Quiet s (if isWriteOp p.opcode.toNat = true then
        if ((vatOf u d).batches.any fun x => x.num == b && x.faultedIdx.contains i) = true then u else faultReport u d sl b i tag code else u) := by
      split
      · split
        · exact hu
        · exact hu.trans (quiet_faultReport ..)
      · exact hu
    split
    · split
      · exact hu.trans (quiet_fibreFault ..)
      · exact hwrite
    · exact hwrite
  · split
    · exact quiet_seqPosted ..
    · extract_lets q
      split
      · exact (seqQuiet_seqTrap ..).1
      · exact .refl s
  · exact quiet_deliveryFailed ..
  · exact quiet_deliveryFailed ..
  · exact .of_fab rfl rfl rfl
  · exact .refl s
  · exact .refl s
  · exact .refl s
  · exact .refl s

end Sys2Proof.Machine

/-!
PROOFS. Packet injection (R236 to R269, R281, R335, R450).
-/
namespace Sys2Proof.Machine

set_option Elab.async false

/-! ### A tile at which one packet waits -/

/-- After a packet has left a vat's tile, its sequencer goes on if it waited for that (R198, R227). -/
def portSettled (s : State) (n : Nat) : State := if dieOf n < 16 then settleSeq s (dieOf n) else s

theorem seqQuiet_portSettled (s : State) (n : Nat) : SeqQuiet s (portSettled s n) := by
  unfold portSettled
  split
  · exact seqQuiet_settleSeq ..
  · exact .refl s

theorem portSettled_only (s : State) (n : Nat) : OnlyParts [.fab, .integ, .obs, .vs] s (portSettled s n) := by
  unfold portSettled
  split
  · exact onlyParts_of_keeps (settleSeq_keeps (Keeps.refl _ s) rfl rfl rfl rfl)
  · exact fun q _ => by cases q <;> rfl

theorem portSettled_mem (s : State) (n : Nat) : (portSettled s n).mem = s.mem := portSettled_only s n .mem rfl
theorem portSettled_now (s : State) (n : Nat) : (portSettled s n).now = s.now := portSettled_only s n .now rfl

theorem injectable_one (w : OutPacket) : injectable [w] = [(0, w)] := by simp [injectable]

theorem injectFirst_acts {s : State} {n : Nat} {w : OutPacket} {a : InjectAct} (h : tgetD s.fab.waiting n [] = [w]) (ha : injectAct s n w = a)
    (hw : a ≠ .wait) (ht : a ≠ .waitTracker) : injectFirst s n = portSettled (doInject s n 0 w a) n := by
  subst ha
  unfold injectFirst
  extract_lets l
  have hl : l = [(0, w)] := by rw [← injectable_one, ← h]
  rw [hl, List.find?_cons_of_pos (by simp [hw, ht])]
  rfl

theorem injectFirst_wait {s : State} {n : Nat} {w : OutPacket} (h : tgetD s.fab.waiting n [] = [w]) (ha : injectAct s n w = .wait) : injectFirst s n = s := by
  unfold injectFirst
  extract_lets l
  have hl : l = [(0, w)] := by rw [← injectable_one, ← h]
  simp [hl, ha]

theorem injectFirst_waitTracker {s : State} {n : Nat} {w : OutPacket} (h : tgetD s.fab.waiting n [] = [w]) (hc : w.counted = false)
    (ha : injectAct s n w = .waitTracker) : injectFirst s n = doInject s n 0 w .waitTracker := by
  unfold injectFirst
  extract_lets l
  have hl : l = [(0, w)] := by rw [← injectable_one, ← h]
  simp [hl, ha, hc]

theorem injectFirst_none {s : State} {n : Nat} (h : tgetD s.fab.waiting n [] = []) : injectFirst s n = s := by
  unfold injectFirst
  extract_lets l
  have hl : l = [] := by
    unfold l
    rw [h]
    rfl
  simp [hl]

/-! ### A packet that enters the fabric -/

/-- The state in which a packet has left the waiting list. -/
def waitTaken (s : State) (n i : Nat) : State := modFab s fun f => { f with waiting := tmod f.waiting n [] fun l => l.eraseIdx i }

/-- A packet that enters the router of its own tile from the local input. -/
def entered (n : Nat) (p : Packet) (relay : Option Nat := none) : Flight := { node := n, port := 0, vc := vcOf p, pkt := p, relay := relay }

theorem debit_fab (s : State) (n tc k : Nat) : ∃ b, (debit s n tc k).fab = { s.fab with buckets := b } := by
  unfold debit
  extract_lets b
  split <;> exact ⟨_, rfl⟩

theorem injected_fab (s : State) (n : Nat) (o : OutPacket) (p : Packet) (r : Option Nat) :
    ∃ b, (injected s n o p r).fab = { s.fab with buckets := b, net := s.fab.net ++ [entered n p r] } := by
  unfold injected
  extract_lets u v w
  have hu : ∃ b, u.fab = { s.fab with buckets := b } := by
    unfold u
    split
    · exact ⟨_, rfl⟩
    · exact debit_fab ..
  obtain ⟨b, hb⟩ := hu
  have hw : w.fab = u.fab := rfl
  exact ⟨b, by rw [enterNet, modFab_fab, hw, hb]; rfl⟩

theorem injected_only (s : State) (n : Nat) (o : OutPacket) (p : Packet) (r : Option Nat) : OnlyParts [.fab, .obs] s (injected s n o p r) :=
  onlyParts_of_keeps (injected_keeps (Keeps.refl _ s) rfl rfl)

/-- The packet that a stream carries (R248, R258). -/
def streamPacket (s : State) (n i : Nat) (o : OutPacket) (e : Nat) (r : Nat × Option Nat) (opening : Bool) : Packet :=
  { stampPartition s n o.owner e (stamp o.pkt e r) with
    src := BitVec.ofNat 12 n, stream := BitVec.ofNat 6 i, sgen := BitVec.ofNat 10 (trackerOf s n i).sgen
    seq := BitVec.ofNat 16 (trackerOf s n i).nextSeq, opening := opening, ackNow := wantsAckNow s n o }

/-- A partition stamp changes the partition alone. -/
theorem stampPartition_eq (s : State) (n : Nat) (o : Initiator) (e : Nat) (p : Packet) : ∃ k, stampPartition s n o e p = { p with partition := k } := by
  unfold stampPartition
  extract_lets own
  split <;> exact ⟨_, rfl⟩

theorem streamPacket_fields (s : State) (n i : Nat) (o : OutPacket) (e : Nat) (r : Nat × Option Nat) (b : Bool) :
    (streamPacket s n i o e r b).opcode = o.pkt.opcode ∧ (streamPacket s n i o e r b).payload = o.pkt.payload ∧
      (streamPacket s n i o e r b).dest = o.pkt.dest ∧ (streamPacket s n i o e r b).epoch = BitVec.ofNat 2 e := by
  obtain ⟨k, hk⟩ := stampPartition_eq s n o.owner e (stamp o.pkt e r)
  rw [streamPacket, hk]
  exact ⟨rfl, rfl, rfl, rfl⟩

/-- What the source keeps of a packet until it is acknowledged. -/
def streamKept (s : State) (n i : Nat) (o : OutPacket) (e : Nat) (r : Nat × Option Nat) (b : Bool) : Unacked :=
  { seq := (streamPacket s n i o e r b).seq.toNat, pkt := streamPacket s n i o e r b, owner := o.owner }

theorem sendOn_fab (s : State) (n i : Nat) (o : OutPacket) (e : Nat) (r : Nat × Option Nat) (b : Bool) : ∃ at_ ex bk,
    (sendOn s n i o e r b).fab = { s.fab with
      trackers := tput s.fab.trackers (64 * n + i) { trackerOf s n i with
        epoch := e, nextSeq := ((trackerOf s n i).nextSeq + 1) % 65536, opening := b, advancedAt := at_
        unacked := (trackerOf s n i).unacked ++ [streamKept s n i o e r b] }
      expects := ex, buckets := bk, net := s.fab.net ++ [entered n (streamPacket s n i o e r b)] } := by
  unfold sendOn
  extract_lets t p q t' u v w
  have hv : ∃ ex, v.fab = { u.fab with expects := ex } := by
    unfold v
    split <;> exact ⟨_, rfl⟩
  obtain ⟨ex, hv⟩ := hv
  have hw : w.fab = v.fab := by
    unfold w
    split <;> rfl
  obtain ⟨bk, hi⟩ := injected_fab w n o q none
  exact ⟨_, ex, bk, by rw [hi, hw, hv]; rfl⟩

theorem sendOn_tracker (s : State) (n i : Nat) (o : OutPacket) (e : Nat) (r : Nat × Option Nat) (b : Bool) : ∃ at_,
    trackerOf (sendOn s n i o e r b) n i = { trackerOf s n i with
      epoch := e, nextSeq := ((trackerOf s n i).nextSeq + 1) % 65536, opening := b, advancedAt := at_
      unacked := (trackerOf s n i).unacked ++ [streamKept s n i o e r b] } := by
  obtain ⟨at_, ex, bk, h⟩ := sendOn_fab s n i o e r b
  exact ⟨at_, by rw [trackerOf, h]; exact tgetD_tput_self ..⟩

theorem sendOn_only (s : State) (n i : Nat) (o : OutPacket) (e : Nat) (r : Nat × Option Nat) (b : Bool) : OnlyParts [.fab, .obs] s (sendOn s n i o e r b) :=
  onlyParts_of_keeps (sendOn_keeps (Keeps.refl _ s) rfl rfl)

/-! ### What each decision leaves -/

/-- The state in which a packet that fails at its port has left the waiting list and is counted (R335). -/
def failCounted (s : State) (n i c : Nat) : State :=
  streamError (if c = 0x24 || c = 0x25 then streamStat (waitTaken s n i) n 3 else waitTaken s n i) n 5

theorem failCounted_fab (s : State) (n i c : Nat) : (failCounted s n i c).fab.net = s.fab.net ∧
    (failCounted s n i c).integ = { s.integ with streamErrors := tinc s.integ.streamErrors (8 * dieOf n + 5) 1 } ∧ (failCounted s n i c).mem = s.mem := by
  unfold failCounted
  split
  · exact ⟨rfl, rfl, rfl⟩
  · exact ⟨rfl, rfl, rfl⟩

theorem doInject_fail (s : State) (n i : Nat) (w : OutPacket) (c k : Nat) (log : Bool) : doInject s n i w (.fail c k log) =
    failAccess (if log = true then reportPkt (failCounted s n i c) c 1 n { w.pkt with src := BitVec.ofNat 12 n } k else failCounted s n i c)
      w.owner w.pkt c := rfl

section
variable {s : State} {n : Nat} {w : OutPacket} (h : tgetD s.fab.waiting n [] = [w])
include h

/-- A packet outside the streams. -/
theorem injectFirst_plain {e : Nat} {r : Nat × Option Nat} (ha : injectAct s n w = .plain e r) :
    (injectFirst s n).fab.net = s.fab.net ++ [entered n { stamp w.pkt e r with src := BitVec.ofNat 12 n }] ∧
      (injectFirst s n).fab.trackers = s.fab.trackers ∧ (injectFirst s n).mem = s.mem ∧ (injectFirst s n).now = s.now := by
  rw [injectFirst_acts h ha nofun nofun]
  generalize ht : doInject s n 0 w (.plain e r) = t
  have hinj : t = injected (waitTaken s n 0) n w { stamp w.pkt e r with src := BitVec.ofNat 12 n } := ht.symm
  obtain ⟨b, hf⟩ := injected_fab (waitTaken s n 0) n w { stamp w.pkt e r with src := BitVec.ofNat 12 n } none
  have honly := injected_only (waitTaken s n 0) n w { stamp w.pkt e r with src := BitVec.ofNat 12 n } none
  rw [← hinj] at hf honly
  have hq := (seqQuiet_portSettled t n).1
  refine ⟨hq.net.trans ?_, hq.trackers.trans ?_, (portSettled_mem ..).trans (honly .mem rfl), (portSettled_now ..).trans (honly .now rfl)⟩
  · rw [hf]
    rfl
  · rw [hf]
    rfl

/-- A packet of the escape channel (R244). -/
theorem injectFirst_escape {d : Nat} {rel : Option Nat} (ha : injectAct s n w = .escape d rel) : ∃ q,
    (q.opcode = w.pkt.opcode ∧ q.payload = w.pkt.payload ∧ q.dest = BitVec.ofNat 12 d ∧ q.src = BitVec.ofNat 12 n) ∧
      (injectFirst s n).fab.net = s.fab.net ++ [entered n q rel] ∧ (injectFirst s n).mem = s.mem := by
  rw [injectFirst_acts h ha nofun nofun]
  refine ⟨{ stamp w.pkt (tileEpoch (waitTaken s n 0) n) (0, none) with src := BitVec.ofNat 12 n, dest := BitVec.ofNat 12 d }, ⟨rfl, rfl, rfl, rfl⟩, ?_⟩
  generalize hp : { stamp w.pkt (tileEpoch (waitTaken s n 0) n) (0, none) with src := BitVec.ofNat 12 n, dest := BitVec.ofNat 12 d } = p
  have hinj : doInject s n 0 w (.escape d rel) = injected (waitTaken s n 0) n w p rel := by rw [← hp]; rfl
  rw [hinj]
  obtain ⟨b, hf⟩ := injected_fab (waitTaken s n 0) n w p rel
  refine ⟨(seqQuiet_portSettled _ n).1.net.trans ?_, (portSettled_mem ..).trans (injected_only (waitTaken s n 0) n w p rel .mem rfl)⟩
  rw [hf]
  rfl

/-- A packet on its stream, with the next SEQ (R258). -/
theorem injectFirst_stream {i e : Nat} {r : Nat × Option Nat} (ha : injectAct s n w = .stream i e r) : ∃ q a,
    (q.opcode = w.pkt.opcode ∧ q.payload = w.pkt.payload ∧ q.dest = w.pkt.dest ∧ q.src = BitVec.ofNat 12 n ∧ q.stream = BitVec.ofNat 6 i ∧
      q.sgen = BitVec.ofNat 10 (trackerOf s n i).sgen ∧ q.seq = BitVec.ofNat 16 (trackerOf s n i).nextSeq ∧ q.opening = false ∧
      q.epoch = BitVec.ofNat 2 e) ∧ (injectFirst s n).fab.net = s.fab.net ++ [entered n q] ∧ a.pkt = q ∧ a.owner = w.owner ∧
      (trackerOf (injectFirst s n) n i).unacked = (trackerOf s n i).unacked ++ [a] ∧
      (trackerOf (injectFirst s n) n i).nextSeq = ((trackerOf s n i).nextSeq + 1) % 65536 ∧ (injectFirst s n).mem = s.mem := by
  rw [injectFirst_acts h ha nofun nofun]
  rw [show doInject s n 0 w (.stream i e r) = sendOn (waitTaken s n 0) n i w e r false from rfl]
  obtain ⟨h1, h2, h3, h4⟩ := streamPacket_fields (waitTaken s n 0) n i w e r false
  obtain ⟨at_, ex, bk, hf⟩ := sendOn_fab (waitTaken s n 0) n i w e r false
  obtain ⟨at', ht⟩ := sendOn_tracker (waitTaken s n 0) n i w e r false
  have hq := (seqQuiet_portSettled (sendOn (waitTaken s n 0) n i w e r false) n).1
  refine ⟨streamPacket (waitTaken s n 0) n i w e r false, streamKept (waitTaken s n 0) n i w e r false,
    ⟨h1, h2, h3, rfl, rfl, rfl, rfl, rfl, h4⟩, hq.net.trans ?_, rfl, rfl, ?_, ?_,
    (portSettled_mem ..).trans (sendOn_only (waitTaken s n 0) n i w e r false .mem rfl)⟩
  · rw [hf]
    rfl
  · rw [hq.tracker, ht]
    rfl
  · rw [hq.tracker, ht]
    rfl

/-- The tile whose packet waits for a tracker counts the wait once (R258). -/
theorem injectFirst_noTracker (hc : w.counted = false) (ha : injectAct s n w = .waitTracker) :
    (injectFirst s n).fab.net = s.fab.net ∧ tgetD (injectFirst s n).fab.waiting n [] = [{ w with counted := true }] ∧
      tgetD (injectFirst s n).fab.streamStats (8 * dieOf n + 4) 0 = tgetD s.fab.streamStats (8 * dieOf n + 4) 0 + 1 ∧
      OnlyParts [.fab] s (injectFirst s n) := by
  rw [injectFirst_waitTracker h hc ha]
  have hd : doInject s n 0 w .waitTracker = streamStat (modFab s fun f =>
      { f with waiting := tmod f.waiting n [] fun l => lmod l 0 fun o => { o with counted := true } }) n 4 :=
    if_neg (by rw [hc]; exact Bool.false_ne_true)
  rw [hd]
  refine ⟨rfl, ?_, tgetD_tmod_self s.fab.streamStats _ 0 (· + 1), onlyParts_of_keeps (modFab_keeps (modFab_keeps (Keeps.refl _ s) rfl) rfl)⟩
  dsimp only [streamStat, modFab]
  rw [tgetD_tmod_self, h]
  rfl

/-- A packet of a source on its group's root tile enters the relay (R281, R283). -/
theorem injectFirst_relay {g : Nat} (ha : injectAct s n w = .relay) (hg : g = bits w.pkt.aux.toNat 9 0)
    (hok : mcRefusal s n g w.pkt.partition.toNat = none) : (injectFirst s n).fab.net = s.fab.net ∧
      (mcOf (injectFirst s n) g).nextDseq = ((mcOf s g).nextDseq + 1) % 2 ^ 32 ∧ Sent (injectFirst s n) n 0x61 n w.pkt.payload ∧
      (injectFirst s n).mem = s.mem := by
  subst hg
  rw [injectFirst_acts h ha nofun nofun]
  have hd : doInject s n 0 w .relay = mcRelay (waitTaken s n 0) n (bits w.pkt.aux.toNat 9 0) w.pkt (some w.owner) := by
    show (match mcRefusal (waitTaken s n 0) n (bits w.pkt.aux.toNat 9 0) w.pkt.partition.toNat with | some _ => _ | none => _) = _
    rw [show mcRefusal (waitTaken s n 0) n (bits w.pkt.aux.toNat 9 0) w.pkt.partition.toNat = none from hok]
    rfl
  rw [hd]
  have hq := seqQuiet_portSettled (mcRelay (waitTaken s n 0) n (bits w.pkt.aux.toNat 9 0) w.pkt (some w.owner)) n
  refine ⟨hq.1.net.trans rfl, ?_, ?_, (portSettled_mem ..).trans rfl⟩
  · rw [hq.1.mc]
    unfold mcRelay
    extract_lets b r grp dseq members p pkt e u
    rw [show ∀ o p, mcOf (send u n o p) (bits w.pkt.aux.toNat 9 0) = mcOf u (bits w.pkt.aux.toNat 9 0) from fun _ _ => rfl, mcOf_modMc_self]
    rfl
  · obtain ⟨o, ho, howner, hp⟩ : ∃ o ∈ tgetD (mcRelay (waitTaken s n 0) n (bits w.pkt.aux.toNat 9 0) w.pkt (some w.owner)).fab.waiting n [],
        (∀ d, o.owner ≠ .sequencer d) ∧ o.pkt.opcode = BitVec.ofNat 8 0x61 ∧ o.pkt.dest = BitVec.ofNat 12 n ∧ o.pkt.src = BitVec.ofNat 12 n ∧
          o.pkt.payload = w.pkt.payload := by
      unfold mcRelay
      extract_lets b r grp dseq members p pkt e u
      rw [waiting_send]
      exact ⟨_, List.mem_append_right _ (List.mem_singleton_self _), nofun, rfl, rfl, rfl, rfl⟩
    exact ⟨o, hq.2 n o ho howner, hp⟩

/-- An access that fails at its injection port (R335). -/
theorem injectFirst_fails {c k : Nat} {log : Bool} (ha : injectAct s n w = .fail c k log) : (injectFirst s n).fab.net = s.fab.net ∧
    (injectFirst s n).mem = s.mem ∧
    tgetD (injectFirst s n).integ.streamErrors (8 * dieOf n + 5) 0 = tgetD s.integ.streamErrors (8 * dieOf n + 5) 0 + 1 ∧
    (log = true → (∃ d c, w.owner = .endpoint d c) → 16 ≤ dieOf n → Reported s (injectFirst s n) c 2) := by
  rw [injectFirst_acts h ha nofun nofun]
  obtain ⟨hxn, hxi, hxm⟩ := failCounted_fab s n 0 c
  generalize hx : failCounted s n 0 c = x at hxn hxi hxm
  rw [doInject_fail, hx]
  generalize hyd : (if log = true then reportPkt x c 1 n { w.pkt with src := BitVec.ofNat 12 n } k else x) = y
  have hy : Quiet x y ∧ y.mem = x.mem := by
    rw [← hyd]
    split
    · exact ⟨(seqQuiet_report ..).1, reportPkt_mem ..⟩
    · exact ⟨.refl x, rfl⟩
  have hf : Quiet x (failAccess y w.owner w.pkt c) := hy.1.trans (quiet_failAccess ..)
  have hq := (seqQuiet_portSettled (failAccess y w.owner w.pkt c) n).1
  have hm : (failAccess y w.owner w.pkt c).mem = y.mem := (failAccess_keeps (Keeps.refl (allBut .mem) y) rfl rfl rfl rfl rfl).rest
  refine ⟨hq.net.trans (hf.net.trans hxn), (portSettled_mem ..).trans (hm.trans (hy.2.trans hxm)), ?_, fun hl ⟨d, k, howner⟩ hdie => ?_⟩
  · rw [hq.2.2, hf.2.2, hxi]
    exact tgetD_tmod_self ..
  · rw [portSettled, if_neg (Nat.not_lt.mpr hdie), howner]
    have hrep : Reported x y c 2 := by
      rw [← hyd, if_pos hl]
      exact reported_of_integ (u := x) rfl rfl
    have hfa : Reported x (failAccess y (.endpoint d k) w.pkt c) c 2 := hrep
    simpa only [Reported, hxi] using hfa

end

/-! ### A stream that is opened -/

/-- A stream that the port closes leaves its tracker free (R258, R266). -/
theorem closeStream_tracker (s : State) (n i : Nat) :
    trackerOf (closeStream s n i) n i = { trackerOf s n i with inUse := false, refusals := 0, refusedAddr := none } := tgetD_tput_self ..

theorem waiting_closeStream (s : State) (n i : Nat) : ∃ o ∈ tgetD (closeStream s n i).fab.waiting n [], (∀ d, o.owner ≠ .sequencer d) ∧
    o.pkt.opcode = BitVec.ofNat 8 0x42 ∧ o.pkt.dest = BitVec.ofNat 12 (trackerOf s n i).dest ∧ o.pkt.src = BitVec.ofNat 12 n ∧ o.pkt.payload = [] := by
  have hw : tgetD (closeStream s n i).fab.waiting n [] = _ := waiting_send s n (.endpoint (dieOf n) 1) (closePacket (trackerOf s n i) i)
  rw [hw]
  exact ⟨_, List.mem_append_right _ (List.mem_singleton_self _), nofun, rfl, rfl, rfl, rfl⟩

theorem openTracker_tracker (s : State) (n i d c e : Nat) : trackerOf (openTracker s n i d c e) n i =
    { inUse := true, sgen := ((trackerOf s n i).sgen + 1) % 1024, dest := d, cls := c, epoch := e, nextSeq := 0, opening := true
      unacked := [], advancedAt := s.now, idleSince := s.now } := tgetD_tput_self ..

/-- The state in which a tracker has been closed where it is in use, for a new generation of a stream. -/
def streamOpened (s : State) (n i : Nat) (c : Bool) (d cls e : Nat) : State :=
  openTracker (if c then closeStream s n i else s) n i d cls e

theorem streamOpened_tracker (s : State) (n i : Nat) (c : Bool) (d cls e : Nat) : ∃ t : Tracker, trackerOf (streamOpened s n i c d cls e) n i = t ∧
    t.inUse = true ∧ t.sgen = ((trackerOf s n i).sgen + 1) % 1024 ∧ t.dest = d ∧ t.nextSeq = 0 ∧ t.unacked = [] := by
  refine ⟨_, openTracker_tracker .., rfl, ?_, rfl, rfl, rfl⟩
  cases c with
  | true =>
    rw [if_pos rfl, closeStream_tracker]
  | false => rfl

theorem streamOpened_net (s : State) (n i : Nat) (c : Bool) (d cls e : Nat) : (streamOpened s n i c d cls e).fab.net = s.fab.net ∧
    (streamOpened s n i c d cls e).mem = s.mem := by
  cases c with
  | true => exact ⟨rfl, rfl⟩
  | false => exact ⟨rfl, rfl⟩

/-- A packet that opens a new generation of a stream (R258, R259). -/
theorem injectFirst_opens {s : State} {n : Nat} {w : OutPacket} (h : tgetD s.fab.waiting n [] = [w]) {i e : Nat} {c : Bool} {r : Nat × Option Nat}
    (ha : injectAct s n w = .openOn i c e r) : ∃ q a, (q.opcode = w.pkt.opcode ∧ q.payload = w.pkt.payload ∧ q.dest = w.pkt.dest ∧
      q.src = BitVec.ofNat 12 n ∧ q.stream = BitVec.ofNat 6 i ∧ q.sgen = BitVec.ofNat 10 (((trackerOf s n i).sgen + 1) % 1024) ∧ q.seq = 0 ∧
      q.opening = true) ∧ (injectFirst s n).fab.net = s.fab.net ++ [entered n q] ∧ a.pkt = q ∧ a.owner = w.owner ∧
      ((trackerOf (injectFirst s n) n i).unacked = [a] ∧ (trackerOf (injectFirst s n) n i).nextSeq = 1 ∧
        (trackerOf (injectFirst s n) n i).inUse = true ∧ (trackerOf (injectFirst s n) n i).dest = w.pkt.dest.toNat ∧
        (trackerOf (injectFirst s n) n i).epoch = e) ∧
      (c = true → Sent (injectFirst s n) n 0x42 (trackerOf s n i).dest []) ∧ (injectFirst s n).mem = s.mem := by
  rw [injectFirst_acts h ha nofun nofun]
  generalize hu : streamOpened (waitTaken s n 0) n i c w.pkt.dest.toNat w.pkt.mclass.toNat e = u
  rw [show doInject s n 0 w (.openOn i c e r) = sendOn u n i w e r true by rw [← hu]; rfl]
  obtain ⟨t, ht, huse, hsgen, hdest, hnext, hunacked⟩ : ∃ t : Tracker, trackerOf u n i = t ∧ _ := hu ▸ streamOpened_tracker ..
  obtain ⟨hnet, hmem⟩ : u.fab.net = s.fab.net ∧ u.mem = s.mem := hu ▸ streamOpened_net (waitTaken s n 0) ..
  obtain ⟨h1, h2, h3, -⟩ := streamPacket_fields u n i w e r true
  obtain ⟨at_, ex, bk, hf⟩ := sendOn_fab u n i w e r true
  obtain ⟨at', hs⟩ := sendOn_tracker u n i w e r true
  have hq := seqQuiet_portSettled (sendOn u n i w e r true) n
  rw [ht] at hs
  refine ⟨streamPacket u n i w e r true, streamKept u n i w e r true, ⟨h1, h2, h3, rfl, rfl, ?_, ?_, rfl⟩, hq.1.net.trans ?_, rfl, rfl,
    ⟨?_, ?_, ?_, ?_, ?_⟩, fun hc => ?_, (portSettled_mem ..).trans ((sendOn_only u n i w e r true .mem rfl).trans hmem)⟩
  · show BitVec.ofNat 10 (trackerOf u n i).sgen = _
    rw [ht, hsgen]
    rfl
  · show BitVec.ofNat 16 (trackerOf u n i).nextSeq = _
    rw [ht, hnext]
    rfl
  · rw [hf, hnet]
  · rw [hq.1.tracker, hs, hunacked]
    rfl
  · rw [hq.1.tracker, hs, hnext]
  · rw [hq.1.tracker, hs]
    exact huse
  · rw [hq.1.tracker, hs]
    exact hdest
  · rw [hq.1.tracker, hs]
  · obtain ⟨o, ho, howner, hp⟩ := waiting_closeStream (waitTaken s n 0) n i
    refine ⟨o, hq.2 n o ?_ howner, hp⟩
    rw [hf]
    have hw : u.fab.waiting = (closeStream (waitTaken s n 0) n i).fab.waiting := by
      rw [← hu, hc]
      rfl
    exact hw ▸ ho

/-- The bucket that holds back a tile's only packet gains its token (R269). -/
theorem execRegulatorRelease_one {s : State} {node : NodeId} {w : OutPacket} (hw : tgetD s.fab.waiting node.toNat [] = [w])
    (hheld : held s node.toNat w.pkt.tc.toNat = true) :
    execRegulatorRelease node s = .next (injectFirst (timeReaches s (releaseTick s node.toNat w.pkt.tc.toNat)) node.toNat) := by
  unfold execRegulatorRelease
  extract_lets n
  have hf : (injectable (tgetD s.fab.waiting n [])).find? (fun e => held s n e.2.pkt.tc.toNat) = some (0, w) := by
    rw [show tgetD s.fab.waiting n [] = [w] from hw, injectable_one]
    exact List.find?_cons_of_pos hheld
  rw [hf]

/-- Settles O42: each decision of the injection port by what `injectFirst` leaves. -/
theorem injectionCommandsComplete : Obligations.InjectionCommandsComplete := by
  intro s node hloc
  have hexec (o : Option OutPacket) : exec (.packetInject node o) s =
      .next (injectFirst (match o with | some o => send s node.toNat o.owner o.pkt | none => s) node.toNat) :=
    if_neg (by rw [Option.isNone_iff_eq_none]; exact Option.isSome_iff_ne_none.mp hloc)
  have hnode : BitVec.ofNat 12 node.toNat = node := by simp
  refine ⟨fun hw => (hexec none).trans (congrArg _ (injectFirst_none hw)), fun o w u hnone hu hw => ?_, fun w u e r hw hheld hu ha => ?_⟩
  · have hwait : tgetD u.fab.waiting node.toNat [] = [w] := by rw [hu, waiting_send, hnone, hw, hnode, List.nil_append]
    have hrun : exec (.packetInject node (some o)) s = .next (injectFirst u node.toNat) := by rw [hexec, hu]
    have htr (i : Nat) : trackerOf u node.toNat i = trackerOf s node.toNat i := by rw [hu]; rfl
    have hnet : u.fab.net = s.fab.net := by rw [hu]; rfl
    have hmem : u.mem = s.mem := by rw [hu]; rfl
    have hpkt : w.pkt.opcode = o.pkt.opcode ∧ w.pkt.payload = o.pkt.payload ∧ w.pkt.dest = o.pkt.dest ∧ w.owner = o.owner := by
      rw [hw]
      exact ⟨rfl, rfl, rfl, rfl⟩
    obtain ⟨hop, hpay, hdest, howner⟩ := hpkt
    refine ⟨fun e r ha => ?_, fun d rel ha => ?_, fun i e r ha => ?_, fun i c e r ha => ?_, fun g ha hg hok => ?_, fun ha => ?_, fun ha => ?_,
      fun c k log ha => ?_⟩
    · obtain ⟨h1, h2, h3, -⟩ := injectFirst_plain hwait ha
      rw [hnode, hnet] at h1
      exact ⟨_, _, hrun, rfl, h1, h2.trans (by rw [hu]; rfl), h3.trans hmem⟩
    · obtain ⟨q, ⟨h1, h2, h3, h4⟩, h5, h6⟩ := injectFirst_escape hwait ha
      rw [hnet] at h5
      exact ⟨_, q, hrun, h1.trans hop, h2.trans hpay, h3, h4.trans hnode, h5, h6.trans hmem⟩
    · obtain ⟨q, a, ⟨h1, h2, h3, h4, h5, h6, h7, h8, h9⟩, h10, h11, h12, h13, h14, h15⟩ := injectFirst_stream hwait ha
      rw [htr] at h6 h7 h13 h14
      rw [hnet] at h10
      exact ⟨_, q, a, hrun, h1.trans hop, h2.trans hpay, h3.trans hdest, h4.trans hnode, h5, h6, h7, h8, h9, h10, h11, h12.trans howner, h13, h14,
        h15.trans hmem⟩
    · obtain ⟨q, a, ⟨h1, h2, h3, h4, h5, h6, h7, h8⟩, h9, h10, h11, ⟨h12, h13, h14, h15, h16⟩, h17, h18⟩ := injectFirst_opens hwait ha
      rw [htr] at h6 h17
      rw [hnet] at h9
      exact ⟨_, q, a, hrun, h1.trans hop, h2.trans hpay, h3.trans hdest, h4.trans hnode, h5, h6, h7, h8, h9, h10, h11.trans howner, h12, h13, h14,
        h15.trans (by rw [hdest]), h16, h17, h18.trans hmem⟩
    · obtain ⟨h1, h2, h3, h4⟩ := injectFirst_relay hwait ha (hg.trans (by rw [hw])) (by rw [hw]; exact hok)
      rw [hpay] at h3
      exact ⟨_, hrun, h1.trans hnet, h2.trans (by rw [hu]; rfl), h3, h4.trans hmem⟩
    · rw [hrun, injectFirst_wait hwait ha]
    · obtain ⟨h1, h2, h3, h4⟩ := injectFirst_noTracker hwait (by rw [hw]) ha
      refine ⟨_, hrun, h1.trans hnet, h2, h3.trans (by rw [hu]; rfl), ?_⟩
      exact (hu ▸ onlyParts_of_keeps (send_keeps (Keeps.refl _ s) rfl) : OnlyParts [.fab] s u).andThen h4 (by decide) (by decide)
    · obtain ⟨h1, h2, h3, h4⟩ := injectFirst_fails hwait ha
      refine ⟨_, hrun, h1.trans hnet, h2.trans hmem, h3.trans (by rw [hu]; rfl), fun hl hend hdie => ?_⟩
      exact (h4 hl (howner ▸ hend) hdie).congr (by rw [hu]; rfl) rfl
  · have hw' : tgetD u.fab.waiting node.toNat [] = [w] := by rw [hu]; exact hw
    have hrun : exec (.regulatorRelease node) s = .next (injectFirst u node.toNat) := hu ▸ execRegulatorRelease_one hw hheld
    obtain ⟨h1, -, h3, h4⟩ := injectFirst_plain hw' ha
    rw [hnode] at h1
    exact ⟨_, _, hrun, h4.trans (by rw [hu]; rfl), rfl, h1.trans (by rw [hu]; rfl), h3.trans (by rw [hu]; rfl)⟩

end Sys2Proof.Machine

/-!
PROOFS. Routers (R244 to R247, R274, R285, R322 to R326, R373, R534).
-/
namespace Sys2Proof.Machine

set_option Elab.async false

/-! ### Heads of input channels -/

theorem length_dropFirst {α : Type} {p : α → Bool} {l : List α} (h : ∃ x ∈ l, p x = true) : (dropFirst p l).length + 1 = l.length := by
  induction l with
  | nil =>
    obtain ⟨x, hx, -⟩ := h
    cases hx
  | cons y l ih =>
    rw [dropFirst]
    split
    · rfl
    · next hy =>
      obtain ⟨x, hx, hpx⟩ := h
      rw [List.length_cons, List.length_cons, ih ⟨x, (List.mem_cons.mp hx).resolve_left (fun hxy => hy (hxy ▸ hpx)), hpx⟩]

theorem length_takeFlight {s : State} {x : Flight} (h : x ∈ s.fab.net) : (takeFlight s x).fab.net.length + 1 = s.fab.net.length :=
  length_dropFirst ⟨x, h, beq_self_eq_true x⟩

/-- The state in which the packet x at the head of a channel stands there as y. -/
def headReplaced (s : State) (x y : Flight) : State := modFab s fun f => { f with net := f.net.map fun z => if z == x then y else z }

theorem length_headReplaced (s : State) (x y : Flight) : (headReplaced s x y).fab.net.length = s.fab.net.length := List.length_map ..

theorem mem_headReplaced {s : State} {x : Flight} (h : x ∈ s.fab.net) (y : Flight) : y ∈ (headReplaced s x y).fab.net :=
  List.mem_map.mpr ⟨x, h, if_pos (beq_self_eq_true x)⟩

/-- An uncorrectable word is counted (R322). -/
def uncorrected (s : State) (n : Nat) : State := modInteg s fun g => { g with ecc := tinc g.ecc (4 * dieOf n + 1) 1 }

/-- A corrected word is logged and counted (R322). -/
def corrected (s : State) (n port k : Nat) (x : Flight) : State :=
  modInteg (report s { cause := 0x01, cls := 1, unit := 1, source := n, detail := port, peer := some x.pkt.src.toNat })
    fun g => { g with ecc := tinc g.ecc (4 * dieOf n) k }

/-- The packet at the head of a channel goes on, or waits. -/
def routeOn (s : State) (y : Flight) : State := if y.pkt.opcode = 0x61 then forkDeliver s y else forwardOut s y y.pkt

/-- A packet whose payload is uncorrectable is marked by its check value (R323). -/
def stomped (p : Packet) : Packet := { p with checkValue := p.checkValue ||| stompBit }

/-- What a router does with the packet x at the head of a channel, by what its input found in it. -/
def routerActs (s : State) (n port : Nat) (x : Flight) (err : FlitErr) : State :=
  if err.ctrl && port ≠ 0 then headReplaced (failLink (uncorrected s n) n port 0x03) x { x with pkt := stomped x.pkt }
  else if (err.header || err.payload.isSome || err.ctrl) && oneFlitCtl x.pkt then
    takeFlight (reportPkt (uncorrected s n) 0x05 1 n x.pkt x.pkt.opcode.toNat) x
  else if err.header || headerBad s x.pkt then takeFlight (reportPkt (if err.header then uncorrected s n else s) 0x04 1 n x.pkt port) x
  else match err.payload with
    | some k =>
      routeOn (headReplaced (reportPkt (uncorrected s n) 0x02 1 n (atRouter n x.pkt) (port + (k / 16 % 256) * 2 ^ 8 + (k % 16) * 2 ^ 16)) x
        { x with pkt := stomped (atRouter n x.pkt) }) { x with pkt := stomped (atRouter n x.pkt) }
    | none => routeOn (headReplaced s x { x with pkt := atRouter n x.pkt }) { x with pkt := atRouter n x.pkt }

theorem execRouterForward_head {s : State} {node : NodeId} {port : InPort} {vc : BitVec 4} {err : FlitErr} {x : Flight}
    (h : s.fab.net.find? (fun z => z.node == node.toNat && z.port == port.val && z.vc == vc.toNat) = some x) :
    execRouterForward node port vc err s =
      .next (routerActs (if 0 < err.corrected then corrected s node.toNat port.val err.corrected x else s) node.toNat port.val x err) := by
  unfold execRouterForward
  extract_lets n
  split
  · next hn =>
    rw [hn] at h
    cases h
  · next x' hx =>
    obtain rfl := Option.some.inj (hx.symm.trans h)
    extract_lets u ue
    rw [show (if 0 < err.corrected then corrected s node.toNat port.val err.corrected x' else s) = u from rfl]
    clear_value u
    unfold routerActs
    split
    · rfl
    split
    · rfl
    split
    · rfl
    · cases err.payload with
      | some k => exact (apply_ite Host.Outcome.next ..).symm
      | none => exact (apply_ite Host.Outcome.next ..).symm

/-! ### What routing leaves of the error counts -/

/-- The count of corrected words of a die is as it was, and so is fabric memory. -/
def EccKept (s t : State) (n : Nat) : Prop := tgetD t.integ.ecc (4 * dieOf n) 0 = tgetD s.integ.ecc (4 * dieOf n) 0 ∧ t.mem = s.mem

theorem EccKept.refl (s : State) (n : Nat) : EccKept s s n := ⟨rfl, rfl⟩
theorem EccKept.trans {s t u : State} {n : Nat} (h : EccKept s t n) (h' : EccKept t u n) : EccKept s u n := ⟨h'.1.trans h.1, h'.2.trans h.2⟩
theorem EccKept.of_same {s t : State} (n : Nat) (h : t.integ = s.integ) (hm : t.mem = s.mem) : EccKept s t n := ⟨by rw [h], hm⟩

theorem eccKept_uncorrected (s : State) (n : Nat) : EccKept s (uncorrected s n) n := ⟨tgetD_tmod_ne s.integ.ecc 0 0 (· + 1) (by omega), rfl⟩

theorem eccKept_report (s : State) (r : Report) (n : Nat) : EccKept s (report s r) n := by
  obtain ⟨_, _, _, _, h⟩ := report_integ s r
  exact ⟨by rw [h], report_mem ..⟩

theorem forwardOut_only (s : State) (x : Flight) (p : Packet) : OnlyParts [.fab, .obs, .time] s (forwardOut s x p) :=
  onlyParts_of_keeps (forwardOut_keeps (Keeps.refl _ s) rfl rfl rfl)

/-- One output of a multicast tree takes its copy, or loses it where its link is down (R285). -/
def forkOne (x : Flight) (s : State) (o : Nat) : State :=
  if o = 0 then arrive s x.node x.pkt none
  else if linkUp s x.node o then
    match neighbour x.node o with
    | some m => modFab s fun f => { f with net := f.net ++ [{ node := m, port := opposite o, vc := x.vc, pkt := x.pkt }] }
    | none => s
  else modVs s fun v => { v with mcCounts := bump v.mcCounts 1 }

theorem forkOne_integ (x : Flight) (s : State) (o : Nat) : (forkOne x s o).integ = s.integ := by
  unfold forkOne
  split
  · rfl
  split
  · split
    · rfl
    · rfl
  · rfl

/-- A copy goes to every output that can take it, once all can (R285). -/
theorem forkDeliver_ready {s : State} {x : Flight} {b : Bank} (hb : bankOfEpoch s x.pkt.epoch.toNat = some b)
    (ht : tableBad s x.node 2 (bits x.pkt.aux.toNat 9 0) = false)
    (hr : ∀ o ∈ mcOutputs b (bits x.pkt.aux.toNat 9 0) x.node, o ≠ 0 → linkUp s x.node o = true → ∀ m, neighbour x.node o = some m →
      hasCredit s m (opposite o) x.vc x.pkt.flits = true) : forkDeliver s x =
    (mcOutputs b (bits x.pkt.aux.toNat 9 0) x.node).foldl (forkOne x) (countForward (takeFlight s x) x.node x.port x.vc x.pkt) := by
  unfold forkDeliver
  extract_lets g v w c
  split
  · next h =>
    rw [hb] at h
    cases h
  · next b' h =>
    obtain rfl := Option.some.inj (hb.symm.trans h)
    extract_lets outs ready
    have houts : outs = mcOutputs b g x.node := if_neg (by rw [ht]; exact Bool.false_ne_true)
    have hready : ready = true := by
      refine List.all_eq_true.mpr fun o ho => ?_
      rw [houts] at ho
      by_cases ho0 : o = 0
      · simp [ho0]
      · by_cases hup : linkUp s x.node o = true
        · cases hm : neighbour x.node o with
          | none => simp
          | some m => simp [hr o ho ho0 hup m hm]
        · simp [hup]
    rw [if_neg (by rw [ht]; exact Bool.false_ne_true), if_neg (by rw [hready]; exact Bool.false_ne_true), houts]
    rfl

theorem eccKept_forkDeliver (s : State) (x : Flight) (n : Nat) : EccKept s (forkDeliver s x) n := by
  refine ⟨?_, (forkDeliver_keeps (Keeps.refl (allBut .mem) s) rfl rfl rfl rfl).rest⟩
  unfold forkDeliver
  extract_lets g v w u
  split
  · rfl
  · next b hb =>
    extract_lets outs ready
    split
    · exact (eccKept_report w _ n).1
    split
    · rfl
    · have hf : (outs.foldl (forkOne x) u).integ = u.integ := foldl_same State.integ (forkOne_integ x) outs u
      exact congrArg (fun g => tgetD g.ecc (4 * dieOf n) 0) hf

theorem routeOn_eccKept (s : State) (y : Flight) (n : Nat) : EccKept s (routeOn s y) n := by
  unfold routeOn
  split
  · exact eccKept_forkDeliver ..
  · exact .of_same n (forwardOut_only s y y.pkt .integ rfl) (forwardOut_only s y y.pkt .mem rfl)

/-- A link that fails (R274, R326). -/
theorem failLink_fails (s : State) (n p c : Nat) : (failLink s n p c).fab = { s.fab with links := tput s.fab.links (linkKey n p) 5 } ∧
    Reported s (failLink s n p c) c 2 ∧ (failLink s n p c).ep.repairDue = true := by
  unfold failLink
  extract_lets u peer v w
  have hu : OnlyParts [.time] (modFab s fun f => { f with links := tput f.links (linkKey n p) 5 }) u :=
    onlyParts_of_keeps (fenceBoth_keeps (Keeps.refl _ _) rfl)
  have hw : w.integ = s.integ := (event_integ ..).trans (hu .integ rfl)
  refine ⟨?_, reported_of_integ (u := w) rfl hw, ?_⟩
  · rw [report_fab, show w.fab = v.fab from event_fab .., show v.fab = u.fab from rfl, hu .fab rfl]
    rfl
  · rw [report_ep, show w.ep = v.ep from event_ep ..]
    rfl

theorem eccKept_failLink (s : State) (n p c : Nat) : EccKept s (failLink s n p c) n := by
  refine ⟨?_, (failLink_keeps (Keeps.refl (allBut .mem) s) rfl rfl rfl rfl rfl).rest⟩
  unfold failLink
  extract_lets u peer v w
  have hu : u.integ = s.integ :=
    (fenceBoth_keeps (Keeps.refl (allBut .integ) (modFab s fun f => { f with links := tput f.links (linkKey n p) 5 })) rfl).rest
  have hw : w.integ = s.integ := (event_integ ..).trans hu
  rw [(eccKept_report w _ n).1, hw]

theorem routerActs_eccKept (s : State) (n port : Nat) (x : Flight) (err : FlitErr) : EccKept s (routerActs s n port x err) n := by
  unfold routerActs
  split
  · exact ((eccKept_uncorrected s n).trans (eccKept_failLink ..)).trans ⟨rfl, rfl⟩
  split
  · exact ((eccKept_uncorrected s n).trans (eccKept_report ..)).trans ⟨rfl, rfl⟩
  split
  · refine EccKept.trans (t := if err.header then uncorrected s n else s) ?_ ((eccKept_report ..).trans ⟨rfl, rfl⟩)
    split
    · exact eccKept_uncorrected s n
    · exact .refl s n
  · split
    · exact ((eccKept_uncorrected s n).trans (eccKept_report ..)).trans (EccKept.trans ⟨rfl, rfl⟩ (routeOn_eccKept ..))
    · exact EccKept.trans (t := headReplaced s x _) ⟨rfl, rfl⟩ (routeOn_eccKept ..)

theorem corrected_counts (s : State) (n port k : Nat) (x : Flight) :
    tgetD (corrected s n port k x).integ.ecc (4 * dieOf n) 0 = tgetD s.integ.ecc (4 * dieOf n) 0 + k ∧ (corrected s n port k x).mem = s.mem := by
  refine ⟨(tgetD_tmod_self _ _ 0 (· + k)).trans ?_, report_mem ..⟩
  rw [(eccKept_report s _ n).1]

/-! ### One hop -/

theorem noteGrant_fab (s : State) (n o v : Nat) (p : Packet) (l : List Flight) : ∃ a b, (noteGrant s n o v p l).fab = { s.fab with tc6 := a, deficits := b } := by
  unfold noteGrant
  extract_lets k w old used u
  have hu : ∃ a, u.fab = { s.fab with tc6 := a } := by
    unfold u
    split
    · exact ⟨_, rfl⟩
    · exact ⟨_, rfl⟩
  obtain ⟨a, hu⟩ := hu
  split
  · split
    · exact ⟨a, _, by rw [modFab_fab, hu]⟩
    · exact ⟨a, _, by rw [modFab_fab, hu]⟩
  · exact ⟨a, _, hu⟩

/-- The state in which a packet that is granted its output has left its channel. -/
def grantTaken (s : State) (x : Flight) (p : Packet) (out : Nat) : State :=
  noteGrant (countForward (takeFlight s x) x.node x.port x.vc p) x.node out x.vc p (rivals s x.node x.port x.vc out)

theorem grantTaken_fab (s : State) (x : Flight) (p : Packet) (out : Nat) : ∃ a b,
    (grantTaken s x p out).fab = { s.fab with tc6 := a, deficits := b, net := dropFirst (· == x) s.fab.net } := by
  obtain ⟨a, b, h⟩ := noteGrant_fab (countForward (takeFlight s x) x.node x.port x.vc p) x.node out x.vc p (rivals s x.node x.port x.vc out)
  exact ⟨a, b, by rw [grantTaken, h]; rfl⟩

theorem grantTaken_only (s : State) (x : Flight) (p : Packet) (out : Nat) : OnlyParts [.fab, .obs] s (grantTaken s x p out) :=
  onlyParts_of_keeps (noteGrant_keeps (countForward_keeps (takeFlight_keeps (Keeps.refl _ s) rfl) rfl) rfl)

theorem forwardOut_local {s : State} {x : Flight} {p : Packet} (hout : outPort x.node p = 0) (hrel : x.relay = none)
    (hg : granted s x.node 0 x.vc p (rivals s x.node x.port x.vc 0) = true) :
    forwardOut s x p = modFab (grantTaken s x p 0) fun f => { f with arrived := tmod f.arrived x.node [] (· ++ [p]) } := by
  unfold forwardOut
  rw [hout]
  dsimp only
  rw [if_pos rfl, if_pos hg, hrel]
  rfl

theorem stampTime_fab (s : State) (n : Nat) (p : Packet) : (stampTime s n p).1.fab = s.fab ∧ (stampTime s n p).2.dest = p.dest ∧
    (p.opcode ≠ 0x47 → (stampTime s n p).2 = p) ∧ OnlyParts [.time] s (stampTime s n p).1 := by
  refine ⟨?_, ?_, fun h => ?_, onlyParts_of_keeps (stampTime_keeps (Keeps.refl _ s) rfl)⟩
  · unfold stampTime
    split
    · dsimp only
      split <;> rfl
    · rfl
  · unfold stampTime
    split
    · rfl
    · rfl
  · unfold stampTime
    rw [if_neg (by rw [Bool.and_eq_true]; exact fun ⟨hop, _⟩ => h (of_decide_eq_true hop))]

theorem forwardOut_hop {s : State} {x : Flight} {p : Packet} {out m : Nat} (hout : outPort x.node p = out) (h0 : out ≠ 0)
    (hm : neighbour x.node out = some m) (hup : linkUp s x.node out = true) (hc : hasCredit s m (opposite out) (vcOf p) p.flits = true)
    (hg : granted s x.node out x.vc p (rivals s x.node x.port x.vc out) = true) :
    forwardOut s x p = modFab (stampTime (grantTaken s x p out) x.node p).1 fun f =>
      { f with net := f.net ++ [{ node := m, port := opposite out, vc := vcOf p, pkt := (stampTime (grantTaken s x p out) x.node p).2, relay := x.relay }] } := by
  have hst : linkState s x.node out = 2 ∨ linkState s x.node out = 4 := by simpa [linkUp] using hup
  unfold forwardOut
  rw [hout]
  dsimp only
  rw [if_neg h0, hm]
  dsimp only
  rw [if_neg (by rcases hst with h | h <;> simp [h]), if_neg (by rcases hst with h | h <;> simp [h]), if_neg (by simp [hc]), if_neg (by simp [hg])]
  rfl

theorem forwardOut_down {s : State} {x : Flight} {p : Packet} {out m : Nat} (hout : outPort x.node p = out) (h0 : out ≠ 0)
    (hm : neighbour x.node out = some m) (hst : linkState s x.node out = 5 ∨ linkState s x.node out = 6 ∨ linkState s x.node out = 0) :
    forwardOut s x p = takeFlight s x := by
  unfold forwardOut
  rw [hout]
  dsimp only
  rw [if_neg h0, hm]
  exact if_pos (by rcases hst with h | h | h <;> simp [h])

theorem forwardOut_noCredit {s : State} {x : Flight} {p : Packet} {out m : Nat} (hout : outPort x.node p = out) (h0 : out ≠ 0)
    (hm : neighbour x.node out = some m) (hup : linkUp s x.node out = true) (hc : hasCredit s m (opposite out) (vcOf p) p.flits = false) :
    forwardOut s x p = routerCount s x.node x.port x.vc 1 1 := by
  have hst : linkState s x.node out = 2 ∨ linkState s x.node out = 4 := by simpa [linkUp] using hup
  unfold forwardOut
  rw [hout]
  dsimp only
  rw [if_neg h0, hm]
  dsimp only
  rw [if_neg (by rcases hst with h | h <;> simp [h]), if_neg (by rcases hst with h | h <;> simp [h]), if_pos (by simp [hc])]

/-! ### The packet at the head of a channel -/

section
variable {s : State} {n port : Nat} {x : Flight} {err : FlitErr}

theorem routerActs_intact (hh : headerBad s x.pkt = false) : routerActs s n port x {} =
    routeOn (headReplaced s x { x with pkt := atRouter n x.pkt }) { x with pkt := atRouter n x.pkt } := by
  unfold routerActs
  rw [if_neg (by simp), if_neg (by simp), if_neg (by simp [hh])]

theorem routeOn_unicast {y : Flight} (h : y.pkt.opcode ≠ 0x61) : routeOn s y = forwardOut s y y.pkt := if_neg h

/-- A report behind a counted uncorrectable word is a report of the state before. -/
theorem reported_uncorrected {t : State} {c k : Nat} {r : Report} (ht : t.integ = (report (uncorrected s n) r).integ) (hc : r.cause = c := by rfl)
    (hk : r.cls = k := by rfl) : Reported s t c k :=
  show Reported (uncorrected s n) t c k from reported_of_integ ht rfl hc hk

theorem length_takeFlight_report (hx : x ∈ s.fab.net) (c u k : Nat) (p : Packet) :
    (takeFlight (reportPkt (uncorrected s n) c u n p k) x).fab.net.length + 1 = s.fab.net.length := by
  have hfab : (reportPkt (uncorrected s n) c u n p k).fab = s.fab := reportPkt_fab ..
  exact hfab ▸ length_takeFlight (by rw [hfab]; exact hx)

/-- A packet whose header cannot be corrected is dropped (R324). -/
theorem routerActs_header (hx : x ∈ s.fab.net) (hh : err.header = true) (hc : err.ctrl = false) (h1 : oneFlitCtl x.pkt = false) :
    (routerActs s n port x err).fab.net.length + 1 = s.fab.net.length ∧ Reported s (routerActs s n port x err) 0x04 2 ∧
      OnlyParts [.fab, .integ, .obs] s (routerActs s n port x err) := by
  have he : routerActs s n port x err = takeFlight (reportPkt (uncorrected s n) 0x04 1 n x.pkt port) x := by
    unfold routerActs
    rw [if_neg (by simp [hc]), if_neg (by simp [h1]), if_pos (by simp [hh]), if_pos hh]
  rw [he]
  exact ⟨length_takeFlight_report hx .., reported_uncorrected rfl, onlyParts_of_keeps
    (takeFlight_keeps (reportPkt_keeps (modInteg_keeps (Keeps.refl _ s) rfl) rfl rfl) rfl)⟩

/-- A one-flit packet that holds an uncorrectable word is dropped (R325). -/
theorem routerActs_oneFlit (hx : x ∈ s.fab.net) (hh : err.header = true ∨ err.payload.isSome = true) (hc : err.ctrl = false) (h1 : oneFlitCtl x.pkt = true) :
    (routerActs s n port x err).fab.net.length + 1 = s.fab.net.length ∧ Reported s (routerActs s n port x err) 0x05 2 ∧
      OnlyParts [.fab, .integ, .obs] s (routerActs s n port x err) := by
  have he : routerActs s n port x err = takeFlight (reportPkt (uncorrected s n) 0x05 1 n x.pkt x.pkt.opcode.toNat) x := by
    unfold routerActs
    rw [if_neg (by simp [hc]), if_pos (by rcases hh with h | h <;> simp [h, h1])]
  rw [he]
  exact ⟨length_takeFlight_report hx .., reported_uncorrected rfl, onlyParts_of_keeps
    (takeFlight_keeps (reportPkt_keeps (modInteg_keeps (Keeps.refl _ s) rfl) rfl rfl) rfl)⟩

/-- An uncorrectable payload is logged, and its packet goes on (R323). -/
theorem routerActs_payload (hh : err.header = false) (hc : err.ctrl = false) (hp : err.payload.isSome = true) (h1 : oneFlitCtl x.pkt = false)
    (hb : headerBad s x.pkt = false) (hop : x.pkt.opcode ≠ 0x61) :
    Reported s (routerActs s n port x err) 0x02 2 ∧ (routerActs s n port x err).mem = s.mem := by
  refine ⟨?_, (routerActs_eccKept ..).2⟩
  obtain ⟨k, hk⟩ := Option.isSome_iff_exists.mp hp
  have hop' : (stomped (atRouter n x.pkt)).opcode ≠ 0x61 := by
    rw [show (stomped (atRouter n x.pkt)).opcode = (atRouter n x.pkt).opcode from rfl, atRouter]
    split <;> exact hop
  unfold routerActs
  rw [if_neg (by simp [hc]), if_neg (by simp [h1]), if_neg (by simp [hh, hb]), hk]
  dsimp only
  rw [routeOn_unicast hop']
  exact reported_uncorrected (forwardOut_only _ _ _ .integ rfl)

/-- An uncorrectable control word fails the link, and the packet at the head is stomped (R326). -/
theorem routerActs_ctrl (hx : x ∈ s.fab.net) (hc : err.ctrl = true) (hp : port ≠ 0) : linkState (routerActs s n port x err) n port = 5 ∧
    Reported s (routerActs s n port x err) 0x03 2 ∧ (routerActs s n port x err).ep.repairDue = true ∧
    (routerActs s n port x err).fab.net.length = s.fab.net.length ∧ ({ x with pkt := stomped x.pkt } : Flight) ∈ (routerActs s n port x err).fab.net ∧
    (routerActs s n port x err).mem = s.mem := by
  have he : routerActs s n port x err = headReplaced (failLink (uncorrected s n) n port 0x03) x { x with pkt := stomped x.pkt } := by
    unfold routerActs
    rw [if_pos (by simp [hc, hp])]
  have hmem := (routerActs_eccKept s n port x err).2
  rw [he] at hmem ⊢
  obtain ⟨hfab, hrep, hdue⟩ := failLink_fails (uncorrected s n) n port 0x03
  have hnet : (failLink (uncorrected s n) n port 0x03).fab.net = s.fab.net := by rw [hfab]; rfl
  refine ⟨?_, hrep, hdue, ?_, mem_headReplaced (by rw [hnet]; exact hx) _, hmem⟩
  · have hl : (headReplaced (failLink (uncorrected s n) n port 0x03) x { x with pkt := stomped x.pkt }).fab.links = tput s.fab.links (linkKey n port) 5 := by
      show (failLink (uncorrected s n) n port 0x03).fab.links = _
      rw [hfab]
      rfl
    rw [linkState, hl]
    exact tgetD_tput_self ..
  · rw [length_headReplaced, hnet]
end

/-! ### The outputs of a multicast tree -/

/-- The links are as they were, and every packet is where it was. -/
def Forked (n : Nat) (s t : State) : Prop :=
  t.fab.links = s.fab.links ∧ (∀ f ∈ s.fab.net, f ∈ t.fab.net) ∧ ∀ p ∈ tgetD s.fab.arrived n [], p ∈ tgetD t.fab.arrived n []

theorem Forked.refl (n : Nat) (s : State) : Forked n s s := ⟨rfl, fun _ h => h, fun _ h => h⟩
theorem Forked.trans {n : Nat} {s t u : State} (h : Forked n s t) (h' : Forked n t u) : Forked n s u :=
  ⟨h'.1.trans h.1, fun f hf => h'.2.1 f (h.2.1 f hf), fun p hp => h'.2.2 p (h.2.2 p hp)⟩

theorem linkUp_of_links {s t : State} (h : t.fab.links = s.fab.links) (n p : Nat) : linkUp t n p = linkUp s n p := by simp only [linkUp, linkState, h]

/-- What an output's copy is to be: at the local port, or in the channel of the next hop. -/
def CopyMade (x : Flight) (s t : State) (o : Nat) : Prop :=
  (o = 0 → x.pkt ∈ tgetD t.fab.arrived x.node []) ∧
    (o ≠ 0 → linkUp s x.node o = true → ∀ m, neighbour x.node o = some m →
      ({ node := m, port := opposite o, vc := x.vc, pkt := x.pkt } : Flight) ∈ t.fab.net)

theorem forkOne_keeps (x : Flight) (o : Nat) {v s : State} (h : Keeps ⟨[Part.fab, .vs].contains, v⟩ s) :
    Keeps ⟨[Part.fab, .vs].contains, v⟩ (forkOne x s o) := by
  unfold forkOne
  split
  · exact arrive_keeps h rfl
  split
  · split
    · exact modFab_keeps h rfl
    · exact h
  · exact modVs_keeps h rfl

theorem forkOne_forks (x : Flight) (s : State) (o : Nat) : Forked x.node s (forkOne x s o) ∧ CopyMade x s (forkOne x s o) o := by
  unfold forkOne
  split
  · next h0 =>
    have ha : tgetD (arrive s x.node x.pkt none).fab.arrived x.node [] = tgetD s.fab.arrived x.node [] ++ [x.pkt] :=
      tgetD_tmod_self s.fab.arrived x.node [] (· ++ [x.pkt])
    refine ⟨⟨rfl, fun _ h => h, fun p hp => ?_⟩, fun _ => ?_, fun h => absurd h0 h⟩
    · rw [ha]
      exact List.mem_append_left _ hp
    · rw [ha]
      exact List.mem_append_right _ (List.mem_singleton_self _)
  · next h0 =>
    split
    · split
      · next m hm =>
        refine ⟨⟨rfl, fun _ h => List.mem_append_left _ h, fun _ h => h⟩, fun h => absurd h h0, fun _ _ m' hm' => ?_⟩
        obtain rfl := Option.some.inj (hm.symm.trans hm')
        exact List.mem_append_right _ (List.mem_singleton_self _)
      · next hm => exact ⟨.refl .., fun h => absurd h h0, fun _ _ m hm' => by rw [hm] at hm'; cases hm'⟩
    · next hup => exact ⟨⟨rfl, fun _ h => h, fun _ h => h⟩, fun h => absurd h h0, fun _ h => absurd h hup⟩

theorem CopyMade.stays {x : Flight} {s t u : State} {o : Nat} (h : CopyMade x s t o) (ht : Forked x.node t u) : CopyMade x s u o :=
  ⟨fun h0 => ht.2.2 _ (h.1 h0), fun h0 hup m hm => ht.2.1 _ (h.2 h0 hup m hm)⟩

theorem forkOnes_copy (x : Flight) (l : List Nat) (s : State) : ∀ o ∈ l, CopyMade x s (l.foldl (forkOne x) s) o := by
  induction l generalizing s with
  | nil => exact nofun
  | cons k l ih =>
    obtain ⟨hf, hc⟩ := forkOne_forks x s k
    have hrest : Forked x.node (forkOne x s k) (l.foldl (forkOne x) (forkOne x s k)) :=
      foldl_related (R := Forked x.node) (.refl x.node) .trans (fun s o => (forkOne_forks x s o).1) l _
    intro o ho
    rcases List.mem_cons.mp ho with rfl | ho
    · exact hc.stays hrest
    · obtain ⟨h1, h2⟩ := ih (forkOne x s k) o ho
      exact ⟨h1, fun h0 hup => h2 h0 (by rw [linkUp_of_links hf.1]; exact hup)⟩

/-! ### The command -/

section
variable {s : State} {node : NodeId} {port : InPort} {vc : BitVec 4} {err : FlitErr} {x : Flight}
  (h : s.fab.net.find? (fun z => z.node == node.toNat && z.port == port.val && z.vc == vc.toNat) = some x)
include h

theorem head_node : x.node = node.toNat := by
  have h1 := List.find?_some h
  simp only [Bool.and_eq_true, beq_iff_eq] at h1
  exact h1.1.1

theorem routerForward_uncorrected (hc : err.corrected = 0) :
    exec (.routerForward node port vc err) s = .next (routerActs s node.toNat port.val x err) :=
  (execRouterForward_head h).trans (by rw [if_neg (by omega)])

theorem routerForward_intact (hh : headerBad s x.pkt = false) : exec (.routerForward node port vc {}) s =
    .next (routeOn (headReplaced s x { x with pkt := atRouter node.toNat x.pkt }) { x with pkt := atRouter node.toNat x.pkt }) :=
  (routerForward_uncorrected h rfl).trans (by rw [routerActs_intact hh])
end

theorem headReplaced_only (s : State) (x y : Flight) : OnlyParts [.fab] s (headReplaced s x y) := onlyParts_of_keeps (modFab_keeps (Keeps.refl _ s) rfl)

theorem length_grantTaken {s : State} {y : Flight} (hy : y ∈ s.fab.net) (p : Packet) (out : Nat) :
    (grantTaken s y p out).fab.net.length + 1 = s.fab.net.length := by
  obtain ⟨a, b, h⟩ := grantTaken_fab s y p out
  rw [h]
  exact length_takeFlight hy

section
variable {s u : State} {node : NodeId} {x y : Flight} (hx : x ∈ s.fab.net) (hu : u = headReplaced s x y) (hn : y.node = node.toNat)
  (hport : y.port = x.port) (hvc : y.vc = x.vc) (hrel : y.relay = x.relay)
include hx hu

theorem headReplaced_mem : y ∈ u.fab.net := hu ▸ mem_headReplaced hx y
omit hx in
theorem headReplaced_length : u.fab.net.length = s.fab.net.length := by rw [hu, length_headReplaced]
omit hx in
theorem headReplaced_onlyFab : OnlyParts [.fab] s u := hu ▸ headReplaced_only s x y

include hn hport hvc hrel

/-- A packet at its destination's router goes to the local port (R246). -/
theorem routes_local (hout : outPort node.toNat y.pkt = 0) (hnone : x.relay = none)
    (hg : granted u node.toNat 0 x.vc y.pkt (rivals u node.toNat x.port x.vc 0) = true) :
    tgetD (forwardOut u y y.pkt).fab.arrived node.toNat [] = tgetD s.fab.arrived node.toNat [] ++ [y.pkt] ∧
      (forwardOut u y y.pkt).fab.net.length + 1 = s.fab.net.length ∧ OnlyParts [.fab, .obs] s (forwardOut u y y.pkt) := by
  rw [forwardOut_local (hn ▸ hout) (hrel.trans hnone) (by rw [hn, hport, hvc]; exact hg)]
  have hlen := length_grantTaken (headReplaced_mem hx hu) y.pkt 0
  obtain ⟨a, b, hf⟩ := grantTaken_fab u y y.pkt 0
  refine ⟨?_, hlen.trans (headReplaced_length hu), ?_⟩
  · rw [modFab_fab]
    dsimp only
    rw [hn, tgetD_tmod_self, hf, hu]
    rfl
  · exact ((headReplaced_onlyFab hu).andThen (n := [.fab, .obs]) (grantTaken_only u y y.pkt 0) (by decide) (by decide)).andThen
      (onlyParts_of_keeps (l := [.fab]) (modFab_keeps (Keeps.refl _ _) rfl)) (by decide) (by decide)

/-- A packet that is granted its output goes to the next hop (R244 to R247). -/
theorem routes_hop {out m : Nat} (hout : out = outPort node.toNat y.pkt) (h0 : out ≠ 0) (hm : neighbour node.toNat out = some m)
    (hup : linkUp s node.toNat out = true) (hc : hasCredit u m (opposite out) (vcOf y.pkt) y.pkt.flits = true)
    (hg : granted u node.toNat out x.vc y.pkt (rivals u node.toNat x.port x.vc out) = true) : ∃ q,
      (y.pkt.opcode ≠ 0x47 → q = y.pkt) ∧ q.dest = y.pkt.dest ∧
      (forwardOut u y y.pkt).fab.net.getLast? = some { node := m, port := opposite out, vc := vcOf y.pkt, pkt := q, relay := x.relay } ∧
      (forwardOut u y y.pkt).fab.net.length = s.fab.net.length ∧ OnlyParts [.fab, .obs, .time] s (forwardOut u y y.pkt) := by
  have hup' : linkUp u y.node out = true := by
    rw [linkUp_of_links (s := s) (by rw [hu]; rfl), hn]
    exact hup
  rw [forwardOut_hop (hn ▸ hout.symm) h0 (hn ▸ hm) hup' hc (by rw [hn, hport, hvc]; exact hg)]
  obtain ⟨h1, h2, h3, h4⟩ := stampTime_fab (grantTaken u y y.pkt out) y.node y.pkt
  have hlen := length_grantTaken (headReplaced_mem hx hu) y.pkt out
  refine ⟨(stampTime (grantTaken u y y.pkt out) y.node y.pkt).2, h3, h2, ?_, ?_, ?_⟩
  · rw [modFab_fab]
    dsimp only
    rw [List.getLast?_concat, hrel]
  · rw [modFab_fab]
    dsimp only
    rw [List.length_append, h1, List.length_singleton, hlen, headReplaced_length hu]
  · exact (((headReplaced_onlyFab hu).andThen (n := [.fab, .obs]) (grantTaken_only u y y.pkt out) (by decide) (by decide)).andThen
      (n := [.fab, .obs, .time]) h4 (by decide) (by decide)).andThen
      (onlyParts_of_keeps (l := [.fab]) (modFab_keeps (Keeps.refl _ _) rfl)) (by decide) (by decide)

/-- A packet for a link that is down is discarded (R373). -/
theorem routes_down {out m : Nat} (hout : out = outPort node.toNat y.pkt) (h0 : out ≠ 0) (hm : neighbour node.toNat out = some m)
    (hst : linkState s node.toNat out = 5 ∨ linkState s node.toNat out = 6 ∨ linkState s node.toNat out = 0) :
    (forwardOut u y y.pkt).fab.net.length + 1 = s.fab.net.length ∧ (forwardOut u y y.pkt).fab.arrived = s.fab.arrived ∧
      OnlyParts [.fab] s (forwardOut u y y.pkt) := by
  have hst' : linkState u y.node out = linkState s node.toNat out := by rw [hn, hu]; rfl
  rw [forwardOut_down (hn ▸ hout.symm) h0 (hn ▸ hm) (by rw [hst']; exact hst)]
  refine ⟨(length_takeFlight (headReplaced_mem hx hu)).trans (headReplaced_length hu), by rw [hu]; rfl, ?_⟩
  exact (headReplaced_onlyFab hu).andThen (onlyParts_of_keeps (l := [.fab]) (takeFlight_keeps (Keeps.refl _ u) rfl)) (by decide) (by decide)

/-- A packet whose next hop has no credit stays (R245). -/
theorem routes_noCredit {out m : Nat} (hout : out = outPort node.toNat y.pkt) (h0 : out ≠ 0) (hm : neighbour node.toNat out = some m)
    (hup : linkUp s node.toNat out = true) (hc : hasCredit u m (opposite out) (vcOf y.pkt) y.pkt.flits = false) :
    (forwardOut u y y.pkt).fab = u.fab ∧ OnlyParts [.fab, .obs] s (forwardOut u y y.pkt) := by
  have hup' : linkUp u y.node out = true := by
    rw [linkUp_of_links (s := s) (by rw [hu]; rfl), hn]
    exact hup
  rw [forwardOut_noCredit (hn ▸ hout.symm) h0 (hn ▸ hm) hup' hc]
  exact ⟨rfl, (headReplaced_onlyFab hu).andThen (onlyParts_of_keeps (l := [.obs]) (modObs_keeps (Keeps.refl _ u) rfl)) (by decide) (by decide)⟩

/-- A copy goes to every output of a multicast tree (R285). -/
theorem routes_fork {b : Bank} (hb : bankOfEpoch s y.pkt.epoch.toNat = some b) (ht : tableBad s node.toNat 2 (bits y.pkt.aux.toNat 9 0) = false)
    (hr : ∀ o ∈ mcOutputs b (bits y.pkt.aux.toNat 9 0) node.toNat, o ≠ 0 → linkUp s node.toNat o = true → ∀ m, neighbour node.toNat o = some m →
      hasCredit u m (opposite o) x.vc y.pkt.flits = true) : (∀ o ∈ mcOutputs b (bits y.pkt.aux.toNat 9 0) node.toNat,
        (o = 0 → y.pkt ∈ tgetD (forkDeliver u y).fab.arrived node.toNat []) ∧ (o ≠ 0 → linkUp s node.toNat o = true → ∀ m, neighbour node.toNat o = some m →
          ({ node := m, port := opposite o, vc := x.vc, pkt := y.pkt } : Flight) ∈ (forkDeliver u y).fab.net)) ∧
      OnlyParts [.fab, .obs, .vs] s (forkDeliver u y) := by
  have hl (o : Nat) : linkUp u node.toNat o = linkUp s node.toNat o := linkUp_of_links (by rw [hu]; rfl) ..
  have hbu : bankOfEpoch u y.pkt.epoch.toNat = some b := by rw [hu]; exact hb
  have htu : tableBad u y.node 2 (bits y.pkt.aux.toNat 9 0) = false := by rw [hu, hn]; exact ht
  rw [forkDeliver_ready hbu htu (by
    rw [hn, hvc]
    exact fun o ho h0 hup => hr o ho h0 (by rw [← hl]; exact hup)), hn]
  generalize hv : countForward (takeFlight u y) node.toNat y.port y.vc y.pkt = v
  have hvl (o : Nat) : linkUp v node.toNat o = linkUp s node.toNat o := (linkUp_of_links (by rw [← hv]; rfl) ..).trans (hl o)
  have hcopy := forkOnes_copy y (mcOutputs b (bits y.pkt.aux.toNat 9 0) node.toNat) v
  refine ⟨fun o ho => ?_, ?_⟩
  · obtain ⟨h1, h2⟩ := hcopy o ho
    rw [hn] at h1 h2
    rw [hvc] at h2
    exact ⟨h1, fun h0 hup => h2 h0 (by rw [hvl]; exact hup)⟩
  · have hvo : OnlyParts [.fab, .obs] u v := hv ▸ onlyParts_of_keeps (countForward_keeps (takeFlight_keeps (Keeps.refl _ u) rfl) rfl)
    refine ((headReplaced_onlyFab hu).andThen (n := [.fab, .obs]) hvo (by decide) (by decide)).andThen
      (n := [.fab, .obs, .vs]) (onlyParts_of_keeps (l := [.fab, .vs]) (keeps_foldl (fun _ o hk => forkOne_keeps y o hk) _ (Keeps.refl _ v))) (by decide) (by decide)
end

/-- Settles O43: the packet at the head of a channel, by what its input found in it and by the output that it takes. -/
theorem routerForwardCompletes : Obligations.RouterForwardCompletes := by
  intro s u node port vc err x y hx hy hu
  have hmem : x ∈ s.fab.net := List.mem_of_find?_eq_some hx
  have hnode : x.node = node.toNat := head_node hx
  have hu' : u = headReplaced s x y := hu
  have hyn : y.node = node.toNat := by rw [hy]; exact hnode
  have hyp : y.port = x.port := by rw [hy]
  have hyv : y.vc = x.vc := by rw [hy]
  have hyr : y.relay = x.relay := by rw [hy]
  refine ⟨fun hc => ?_, fun he hh hop => ?_, fun b g he hh hop hb hg ht hr => ?_, fun hc hh hctl h1 => ?_, fun hc hh hctl h1 => ?_,
    fun hc hh hctl hp h1 hb hop => ?_, fun hc hctl hp => ?_⟩
  · refine ⟨_, execRouterForward_head hx, ?_⟩
    rw [if_pos hc]
    obtain ⟨h1, h2⟩ := routerActs_eccKept (corrected s node.toNat port.val err.corrected x) node.toNat port.val x err
    obtain ⟨h3, h4⟩ := corrected_counts s node.toNat port.val err.corrected x
    exact ⟨h1.trans h3, h2.trans h4⟩
  · subst he
    have hexec : exec (.routerForward node port vc {}) s = .next (forwardOut u y y.pkt) := by
      rw [routerForward_intact hx hh, ← hy, ← hu', routeOn_unicast hop]
    refine ⟨fun hout hnone hg => ⟨_, hexec, routes_local hmem hu' hyn hyp hyv hyr hout hnone hg⟩, fun out m hout h0 hm hup hc hg => ?_,
      fun out m hout h0 hm hst => ⟨_, hexec, routes_down hmem hu' hyn hyp hyv hyr hout h0 hm hst⟩,
      fun out m hout h0 hm hup hc => ⟨_, hexec, routes_noCredit hmem hu' hyn hyp hyv hyr hout h0 hm hup hc⟩⟩
    obtain ⟨q, hq⟩ := routes_hop hmem hu' hyn hyp hyv hyr hout h0 hm hup hc hg
    exact ⟨_, q, hexec, hq⟩
  · subst he hg
    have hexec : exec (.routerForward node port vc {}) s = .next (forkDeliver u y) := by
      rw [routerForward_intact hx hh, ← hy, ← hu', routeOn, if_pos hop]
    refine ⟨_, hexec, routes_fork hmem hu' hyn hyp hyv hyr hb ht fun o ho h0 hup m hm => hr o ho h0 hup m hm⟩
  · exact ⟨_, routerForward_uncorrected hx hc, routerActs_header hmem hh hctl h1⟩
  · exact ⟨_, routerForward_uncorrected hx hc, routerActs_oneFlit hmem hh hctl h1⟩
  · exact ⟨_, routerForward_uncorrected hx hc, routerActs_payload hh hctl hp h1 hb hop⟩
  · obtain ⟨h1, h2, h3, h4, h5, h6⟩ := routerActs_ctrl (n := node.toNat) hmem hctl hp
    exact ⟨_, routerForward_uncorrected hx hc, h1, h2, h3, h4, h5, h6⟩

end Sys2Proof.Machine

/-!
PROOFS. READ, WRITE and their answers (R113, R116, R138, R253, R263, R318, R321, R328, R333, R339).
-/
namespace Sys2Proof.Machine

set_option Elab.async false

/-! ### Responses and refusals -/

theorem sent_response (s : State) (n : Nat) (req : Packet) (op : Nat) (b : Bytes) (high : Nat) (poison : Bool) :
    Sent (response s n req op b high poison) n op req.src.toNat b := by
  obtain ⟨x, hx, h1, h2, h3, h4, -⟩ := waiting_response s n req op b high poison
  exact ⟨x, by rw [hx]; exact List.mem_append_right _ (List.mem_singleton_self _), h1, h2, h3, h4⟩

theorem response_only (s : State) (n : Nat) (req : Packet) (op : Nat) (b : Bytes) (high : Nat) (poison : Bool) :
    OnlyParts [.fab] s (response s n req op b high poison) := onlyParts_of_keeps (response_keeps (Keeps.refl _ s) rfl)

/-- A refused request is answered and logged (R339). -/
theorem refuse_refuses (s : State) (n : Nat) (p : Packet) (c a k d : Nat) : Sent (refuse s n p c a k d) n 0x22 p.src.toNat (leBytes 16 (a % 2 ^ 48)) ∧
    Reported s (refuse s n p c a k d) c 2 ∧ OnlyParts [.fab, .integ, .obs] s (refuse s n p c a k d) := by
  unfold refuse
  extract_lets u v w x y
  refine ⟨sent_response .., ?_, ?_⟩
  · have hx : x.integ = w.integ := event_integ ..
    have hrep : Reported w y c 2 := reported_of_integ (u := x) rfl hx
    have hrep' : Reported s y c 2 := hrep
    exact hrep'.congr rfl (response_only y n p 0x22 _ c false .integ rfl)
  · exact onlyParts_of_keeps (response_keeps (reportPkt_keeps (event_keeps (modInteg_keeps (modFab_keeps (modFab_keeps (Keeps.refl _ s) rfl) rfl) rfl) rfl)
      rfl rfl) rfl)

/-- A packet that fails its window check is counted for its partition, answered and logged (R116). -/
theorem windowRefuse_refuses (s : State) (n : Nat) (p : Packet) (k : Nat) : Sent (windowRefuse s n p k) n 0x22 p.src.toNat (leBytes 16 p.addr.toNat) ∧
    Reported s (windowRefuse s n p k) 0x40 2 ∧
    tgetD (windowRefuse s n p k).vs.windowFaults p.partition.toNat 0 = tgetD s.vs.windowFaults p.partition.toNat 0 + 1 ∧
    OnlyParts [.fab, .integ, .obs, .vs] s (windowRefuse s n p k) := by
  unfold windowRefuse
  extract_lets u
  obtain ⟨h1, h2, h3⟩ := refuse_refuses u n p 0x40 p.addr.toNat k 0
  rw [Nat.mod_eq_of_lt p.addr.isLt] at h1
  refine ⟨h1, h2, ?_, (onlyParts_of_keeps (modVs_keeps (Keeps.refl _ s) rfl) : OnlyParts [.vs] s u).andThen h3 (by decide) (by decide)⟩
  rw [h3 .vs rfl]
  exact tgetD_tmod_self s.vs.windowFaults _ 0 (· + 1)

/-! ### WRITE -/

section
variable {s : State} {n : Nat} {p : Packet} {r : Region} (hr : decodeAddr p.addr.toNat = some r)
  (ht : tableBad s n 1 p.partition.toNat = false ∨ p.partition = 0)
include hr ht

theorem performWrite_refused (h : r.tile ≠ n ∨ r.isTrace = true ∨ windowOk s p p.addr.toNat p.payload.length 1 = false) :
    performWrite s n p = windowRefuse s n p (regionUnit r) := by
  unfold performWrite
  extract_lets a k
  rw [show decodeAddr a = some r from hr]
  dsimp only
  rw [if_neg (by rcases ht with h | h <;> simp [h]), if_pos (by rcases h with h | h | h <;> simp [h, a, k])]

section
variable (htile : r.tile = n) (htr : r.isTrace = false) (hwin : windowOk s p p.addr.toNat p.payload.length 1 = true)
include htile htr hwin

theorem performWrite_host {port off h : Nat} (hw : r = .hostWindow port off) (ha : hostAddr s port off p.payload.length = some h)
    (hup : portUp s port = true) : performWrite s n p = emitOut s (.hostWrite port h p.payload) := by
  unfold performWrite
  extract_lets a k
  rw [show decodeAddr a = some r from hr]
  dsimp only
  rw [if_neg (by rcases ht with h | h <;> simp [h]), if_neg (by simp [htile, htr, a, k, hwin]), hw]
  dsimp only
  rw [show hostAddr s port off k = some h from ha]
  exact if_pos hup

theorem performWrite_stores (hhost : ∀ port off, r ≠ .hostWindow port off) (hcell : ∀ d c off, r ≠ .syncCell d c off) :
    performWrite s n p = cleanRange (writeMem s p.addr.toNat p.payload) p.addr.toNat p.payload.length := by
  unfold performWrite
  extract_lets a k
  rw [show decodeAddr a = some r from hr]
  dsimp only
  rw [if_neg (by rcases ht with h | h <;> simp [h]), if_neg (by simp [htile, htr, a, k, hwin])]
  cases r with
  | syncCell d c off => exact absurd rfl (hcell d c off)
  | hostWindow port off => exact absurd rfl (hhost port off)
  | vatSram _ _ _ => rfl
  | deckleSram _ _ _ => rfl
  | hbm _ _ => rfl
end

/-! ### READ -/

theorem performRead_refused (h : r.tile ≠ n ∨ r.isTrace = true ∨ windowOk s p p.addr.toNat (bits p.aux.toNat 12 0) 0 = false) :
    performRead s n p = windowRefuse s n p (regionUnit r) := by
  unfold performRead
  extract_lets a k later
  rw [show decodeAddr a = some r from hr]
  dsimp only
  rw [if_neg (by rcases ht with h | h <;> simp [h]), if_pos (by rcases h with h | h | h <;> simp [h, a, k])]

section
variable (htile : r.tile = n) (htr : r.isTrace = false) (hwin : windowOk s p p.addr.toNat (bits p.aux.toNat 12 0) 0 = true)
include htile htr hwin

theorem performRead_cell {d c off : Nat} (hc : r = .syncCell d c off) : performRead s n p =
    response (rxPerformed s n p.src.toNat p.stream.toNat p.sgen.toNat p.seq.toNat) n p 0x20 (cellPage s (256 * d + c) off (bits p.aux.toNat 12 0)) := by
  unfold performRead
  extract_lets a k later
  rw [show decodeAddr a = some r from hr]
  dsimp only
  rw [if_neg (by rcases ht with h | h <;> simp [h]), if_neg (by simp [htile, htr, a, k, hwin]), hc]

theorem performRead_host {port off h : Nat} (hw : r = .hostWindow port off) (ha : hostAddr s port off (bits p.aux.toNat 12 0) = some h)
    (hup : portUp s port = true) : performRead s n p = emitOut (modPortOf s port fun x =>
      { x with hostPend := x.hostPend ++ [{ id := (portOf s port).nextHost, pkt := p, addr := h }], nextHost := ((portOf s port).nextHost + 1) % 65536 })
      (.hostRead port h (bits p.aux.toNat 12 0)) := by
  unfold performRead
  extract_lets a k later
  rw [show decodeAddr a = some r from hr]
  dsimp only
  rw [if_neg (by rcases ht with h | h <;> simp [h]), if_neg (by simp [htile, htr, a, k, hwin]), hw]
  dsimp only
  rw [show hostAddr s port off k = some h from ha]
  exact if_pos hup

theorem performRead_memory (hhost : ∀ port off, r ≠ .hostWindow port off) (hcell : ∀ d c off, r ≠ .syncCell d c off) : performRead s n p =
    if badRange s p.addr.toNat (bits p.aux.toNat 12 0) then
      response (rxPerformed (ueReport s r p.addr.toNat) n p.src.toNat p.stream.toNat p.sgen.toNat p.seq.toNat) n p 0x20
        (readMem s p.addr.toNat (bits p.aux.toNat 12 0)) 0 true
    else response (rxPerformed s n p.src.toNat p.stream.toNat p.sgen.toNat p.seq.toNat) n p 0x20 (readMem s p.addr.toNat (bits p.aux.toNat 12 0)) := by
  unfold performRead
  extract_lets a k later
  rw [show decodeAddr a = some r from hr]
  dsimp only
  rw [if_neg (by rcases ht with h | h <;> simp [h]), if_neg (by simp [htile, htr, a, k, hwin])]
  cases r with
  | syncCell d c off => exact absurd rfl (hcell d c off)
  | hostWindow port off => exact absurd rfl (hhost port off)
  | vatSram _ _ _ => rfl
  | deckleSram _ _ _ => rfl
  | hbm _ _ => rfl
end
end

/-- An uncorrectable word of a region that memory holds is logged (R328, R330). -/
theorem ueReport_reported (s : State) (r : Region) (a : Nat) : Reported s (ueReport s r a) (regionUe r).1 2 ∧ OnlyParts [.integ, .obs] s (ueReport s r a) := by
  refine ⟨?_, onlyParts_of_keeps (ueReport_keeps (Keeps.refl _ s) rfl rfl)⟩
  have hecc (k c : Nat) (x : Report) (hc : x.cause = c) (hk : x.cls = 2) :
      Reported s (report (modInteg s fun g => { g with ecc := tinc g.ecc k 1 }) x) c 2 :=
    (reported_of_integ (u := modInteg s fun g => { g with ecc := tinc g.ecc k 1 }) rfl rfl hc hk :
      Reported (modInteg s fun g => { g with ecc := tinc g.ecc k 1 }) _ c 2)
  cases r with
  | hbm st off =>
    exact (reported_of_integ (u := modInteg s fun g => { g with hbmEcc := tinc g.hbmEcc (2 * st + 1) 1 }) rfl rfl :
      Reported (modInteg s fun g => { g with hbmEcc := tinc g.hbmEcc (2 * st + 1) 1 }) (ueReport s (.hbm st off) a) 0x33 2)
  | vatSram _ _ _ => exact hecc _ _ _ rfl rfl
  | deckleSram _ _ _ => exact hecc _ _ _ rfl rfl
  | syncCell _ _ _ => exact hecc _ _ _ rfl rfl
  | hostWindow _ _ => exact hecc _ _ _ rfl rfl

/-! ### The commands -/

theorem Accepts.expects {s u : State} {node : NodeId} {p : Packet} {later : Bool} (h : Accepts s node p later u) : u.fab.expects = s.fab.expects := by
  obtain ⟨l, r, rfl⟩ := h.eq
  rfl

theorem Accepts.tracker {s u : State} {node : NodeId} {p : Packet} {later : Bool} (h : Accepts s node p later u) (n i : Nat) :
    trackerOf u n i = trackerOf s n i := by
  obtain ⟨l, r, rfl⟩ := h.eq
  rfl

section
variable {s u : State} {node : NodeId} {p : Packet}

theorem write_performs (h : Accepts s node p false u) (hop : p.opcode = 1) : exec (.write node p) s = .next (performWrite u node.toNat p) :=
  h.acts (by rw [hop]; rfl) (performWrite · node.toNat p) _

theorem read_performs (h : Accepts s node p true u) (hop : p.opcode = 2) : exec (.read node p) s = .next (performRead u node.toNat p) :=
  h.acts (by rw [hop]; rfl) (performRead · node.toNat p) _

theorem hostAddr_of_port {t : State} (h : t.port = s.port) (q off n : Nat) : hostAddr t q off n = hostAddr s q off n := by
  rw [hostAddr, portOf, h, hostAddr, portOf]

theorem portUp_of_port {t : State} (h : t.port = s.port) (q : Nat) : portUp t q = portUp s q := by rw [portUp, portOf, h, portUp, portOf]

/-- What a refused packet leaves, from the state before it came (R116, R339). -/
theorem accepted_refuses {later : Bool} (h : Accepts s node p later u) (k : Nat) : Sent (windowRefuse u node.toNat p k) node.toNat 0x22 p.src.toNat
      (leBytes 16 p.addr.toNat) ∧ Reported s (windowRefuse u node.toNat p k) 0x40 2 ∧
    tgetD (windowRefuse u node.toNat p k).vs.windowFaults p.partition.toNat 0 = tgetD s.vs.windowFaults p.partition.toNat 0 + 1 ∧
    OnlyParts [.fab, .integ, .obs, .vs] s (windowRefuse u node.toNat p k) := by
  obtain ⟨h1, h2, h3, h4⟩ := windowRefuse_refuses u node.toNat p k
  exact ⟨h1, h2.congr h.integ.symm rfl, h3.trans (by rw [h.vs]), h.only.andThen h4 (by decide) (by decide)⟩

theorem write_memory (h : Accepts s node p false u) (hop : p.opcode = 1)
    (hst : performWrite u node.toNat p = cleanRange (writeMem u p.addr.toNat p.payload) p.addr.toNat p.payload.length) :
    ∃ t, exec (.write node p) s = .next t ∧ (Memory.wf s.mem = true → readMem t p.addr.toNat p.payload.length = p.payload) ∧
      (∀ a, a < p.addr.toNat ∨ p.addr.toNat + p.payload.length ≤ a → memGet t.mem a = memGet s.mem a) ∧ OnlyParts [.fab, .integ, .mem] s t := by
  refine ⟨_, (write_performs h hop).trans (by rw [hst]), fun hwf => ?_, fun a ha => ?_, ?_⟩
  · exact memRead_memWrite p.payload u.mem p.addr.toNat (by rwa [h.mem])
  · exact (memGet_memWrite_out a p.payload u.mem p.addr.toNat ha).trans (by rw [h.mem])
  · exact h.only.andThen (onlyParts_of_keeps (l := [.integ, .mem]) (cleanRange_keeps (writeMem_keeps (Keeps.refl _ u) rfl) rfl)) (by decide) (by decide)

theorem readAnswered_only {t : State} {n : Nat} {b : Bytes} {pz : Bool} : OnlyParts [.fab] t
    (response (rxPerformed t n p.src.toNat p.stream.toNat p.sgen.toNat p.seq.toNat) n p 0x20 b 0 pz) :=
  onlyParts_of_keeps (response_keeps (rxPerformed_keeps (Keeps.refl _ t) rfl) rfl)

/-- A READ of memory answers with its bytes, and with POISON and a report where one of its words is uncorrectable (R138, R321, R328). -/
theorem read_memory {r : Region} (h : Accepts s node p true u) (hop : p.opcode = 2) (hst : performRead u node.toNat p =
      if badRange u p.addr.toNat (bits p.aux.toNat 12 0) then
        response (rxPerformed (ueReport u r p.addr.toNat) node.toNat p.src.toNat p.stream.toNat p.sgen.toNat p.seq.toNat) node.toNat p 0x20
          (readMem u p.addr.toNat (bits p.aux.toNat 12 0)) 0 true
      else response (rxPerformed u node.toNat p.src.toNat p.stream.toNat p.sgen.toNat p.seq.toNat) node.toNat p 0x20
        (readMem u p.addr.toNat (bits p.aux.toNat 12 0))) : ∃ t, exec (.read node p) s = .next t ∧
      Sent t node.toNat 0x20 p.src.toNat (readMem s p.addr.toNat (bits p.aux.toNat 12 0)) ∧
      (badRange s p.addr.toNat (bits p.aux.toNat 12 0) = false → OnlyParts [.fab] s t) ∧
      (badRange s p.addr.toNat (bits p.aux.toNat 12 0) = true → Reported s t (regionUe r).1 2 ∧ OnlyParts [.fab, .integ, .obs] s t) := by
  have hbytes : readMem u p.addr.toNat (bits p.aux.toNat 12 0) = readMem s p.addr.toNat (bits p.aux.toNat 12 0) := by rw [readMem, h.mem, readMem]
  have hbad : badRange u p.addr.toNat (bits p.aux.toNat 12 0) = badRange s p.addr.toNat (bits p.aux.toNat 12 0) := by
    rw [badRange, h.integ, badRange]
  rw [hbytes, hbad] at hst
  refine ⟨_, (read_performs h hop).trans (by rw [hst]), ?_, fun hb => ?_, fun hb => ?_⟩
  · split
    · exact sent_response ..
    · exact sent_response ..
  · rw [hb]
    exact h.only.andThen readAnswered_only (by decide) (by decide)
  · rw [if_pos hb]
    obtain ⟨hrep, honly⟩ := ueReport_reported u r p.addr.toNat
    exact ⟨hrep.congr h.integ.symm (readAnswered_only .integ rfl),
      (h.only.andThen honly (n := [.fab, .integ, .obs]) (by decide) (by decide)).andThen readAnswered_only (by decide) (by decide)⟩

/-! ### READ_DATA, ENDPOINT_RSP and REFUSAL -/

theorem execReadData_owner {e : Expect} (h : Accepts s node p false u) (hop : p.opcode = 0x20) (he : (takeExpect u node.toNat p 2).2 = some e) :
    execReadData node p s = .next (readReturned (responseTaken u node.toNat p 2 e) e p.payload) := by
  unfold execReadData
  extract_lets n
  rw [h.acts (by rw [hop]; rfl)]
  have hpair : takeExpect u n p 2 = ((takeExpect u n p 2).1, some e) := Prod.ext rfl he
  rw [hpair]
  rfl

theorem taken_only {e : Expect} (h : Accepts s node p false u) (op : Nat) : OnlyParts [.fab, .obs] s (responseTaken u node.toNat p op e) :=
  h.only.andThen (responseTaken_only _ _ _ _ _) (by decide) (by decide)

theorem readReturned_fibre {e : Expect} {d sl sk batch index : Nat} {tg : Option Nat} {x : Fibre} {b : Bytes}
    (howner : e.owner = .fibre d sl sk batch index tg) (hx : fibreAt s d sl sk = some x) (hb : x.batch = batch) (hi : x.index = index)
    (hreads : x.reads = [{ addr := e.addr, len := e.len }]) : readReturned s e b =
      putFibre s d sl sk { x with reads := [{ addr := e.addr, len := e.len, data := some b }], state := 1, wait := none } := by
  rw [readReturned, howner]
  dsimp only
  rw [hx]
  dsimp only
  rw [if_pos (by simp [hb, hi]), hreads]
  simp

theorem readData_fibre {e : Expect} {d sl sk batch index : Nat} {tg : Option Nat} {x : Fibre} (h : Accepts s node p false u) (hop : p.opcode = 0x20)
    (he : (takeExpect u node.toNat p 2).2 = some e) (howner : e.owner = .fibre d sl sk batch index tg) (hx : fibreAt s d sl sk = some x)
    (hb : x.batch = batch) (hi : x.index = index) (hreads : x.reads = [{ addr := e.addr, len := e.len }]) :
    ∃ t, exec (.readData node p) s = .next t ∧ fibreAt t d sl sk =
      some { x with reads := [{ addr := e.addr, len := e.len, data := some p.payload }], state := 1, wait := none } ∧ OnlyParts [.fab, .obs, .vs] s t := by
  have hvs : (responseTaken u node.toNat p 2 e).vs = s.vs := taken_only h 2 .vs rfl
  refine ⟨_, (execReadData_owner h hop he).trans (by rw [readReturned_fibre howner ((fibreAt_of_vs hvs ..).trans hx) hb hi hreads]),
    fibreAt_putFibre_self .., (taken_only h 2).andThen (onlyParts_of_keeps (l := [.vs]) (putFibre_keeps (Keeps.refl _ _) rfl)) (by decide) (by decide)⟩

theorem readData_sequencer {e : Expect} {d sd : Nat} (h : Accepts s node p false u) (hop : p.opcode = 0x20)
    (he : (takeExpect u node.toNat p 2).2 = some e) (howner : e.owner = .sequencer d) (hw : (seqOf s d).wait = some (.load e.addr sd none)) :
    ∃ t, exec (.readData node p) s = .next t ∧ (seqOf t d).wait = some (.load e.addr sd (some p.payload)) ∧ (seqOf t d).pc = (seqOf s d).pc ∧
      OnlyParts [.fab, .obs, .vs] s t := by
  have hseq : seqOf (responseTaken u node.toNat p 2 e) d = seqOf s d := seqOf_of_vs (taken_only h 2 .vs rfl) d
  have hret : readReturned (responseTaken u node.toNat p 2 e) e p.payload =
      modSeq (responseTaken u node.toNat p 2 e) d fun q => { q with wait := some (.load e.addr sd (some p.payload)) } := by
    rw [readReturned, howner]
    dsimp only
    rw [hseq, hw]
    exact if_pos rfl
  refine ⟨_, (execReadData_owner h hop he).trans (by rw [hret]), ?_, ?_,
    (taken_only h 2).andThen (onlyParts_of_keeps (l := [.vs]) (modSeq_keeps (Keeps.refl _ _) rfl)) (by decide) (by decide)⟩
  · rw [seqOf_modSeq_self]
  · rw [seqOf_modSeq_self, hseq]

theorem endpointMsg_answers (h : Accepts s node p false u) (hop : p.opcode = 6) (hport : ∀ n < 4, portFrontTile n ≠ node.toNat) :
    ∃ t, exec (.endpointMsg node p) s = .next t ∧ Sent t node.toNat 0x23 p.src.toNat [] ∧ OnlyParts [.fab] s t := by
  have hnone : (List.range 4).any (fun n => portFrontTile n == node.toNat) = false := by
    simpa using hport
  refine ⟨response u node.toNat p 0x23 [], ?_, sent_response .., h.only.andThen (response_only _ _ _ _ _ _ _) (by decide) (by decide)⟩
  exact (if_neg (by rw [hnone]; decide)).trans (h.acts (by rw [hop]; rfl) (response · node.toNat p 0x23 []) id)

theorem takeExpect_takes {n op : Nat} {e : Expect} (he : (takeExpect s n p op).2 = some e) :
    (tgetD (takeExpect s n p op).1.fab.expects n []).length + 1 = (tgetD s.fab.expects n []).length := by
  revert he
  unfold takeExpect
  extract_lets l i q hit
  split
  next => exact fun he => by cases he
  next x hx =>
    intro _
    dsimp only [modFab]
    rw [tgetD_tput_self]
    exact length_dropFirst ⟨x, List.mem_of_find?_eq_some hx, List.find?_some hx⟩

theorem endpointRsp_ends {e : Expect} (h : Accepts s node p false u) (hop : p.opcode = 0x23) (he : (takeExpect u node.toNat p 6).2 = some e) :
    ∃ t, exec (.endpointRsp node p) s = .next t ∧
      (tgetD t.fab.expects node.toNat []).length + 1 = (tgetD s.fab.expects node.toNat []).length ∧ OnlyParts [.fab, .obs] s t := by
  refine ⟨responseTaken u node.toNat p 6 e, ?_, ?_, taken_only h 6⟩
  · show execEndpointRsp node p s = _
    unfold execEndpointRsp
    extract_lets n
    rw [h.acts (by rw [hop]; rfl)]
    have hpair : takeExpect u n p 6 = ((takeExpect u n p 6).1, some e) := Prod.ext rfl he
    rw [hpair]
    rfl
  · have hfab : (responseTaken u node.toNat p 6 e).fab = (takeExpect u node.toNat p 6).1.fab :=
      onlyParts_of_keeps (l := [.obs]) (delivered_keeps (Keeps.refl _ _) rfl) .fab rfl
    rw [hfab, takeExpect_takes he, h.expects]
end

/-- The tracker entry of a stream one of whose packets is refused (R263, R339). -/
def refusalCounted (t : Tracker) (x : Unacked) (q a : Nat) : Tracker :=
  { t with
    unacked := t.unacked.filter (fun u => u.seq != q)
    opening := if x.pkt.opening then false else t.opening
    refusals := t.refusals + 1
    refusedAddr := t.refusedAddr.orElse (fun _ => some a) }

theorem seqQuiet_settleAll (s : State) : SeqQuiet s (settleAll s) := by
  unfold settleAll
  exact foldl_related (R := SeqQuiet) SeqQuiet.refl (fun h h' => h.trans h') seqQuiet_settleSeq _ s

theorem takeRefusal_tracker {s : State} {n i q : Nat} {p : Packet} {x : Unacked} (hi : i = bits p.aux.toNat 21 16) (hq : q = bits p.aux.toNat 15 0)
    (hx : (trackerOf s n i).unacked.find? (fun a => a.seq == q) = some x) :
    trackerOf (takeRefusal s n p) n i = refusalCounted (trackerOf s n i) x q (bits (field p.payload 0 6) 47 0) := by
  subst hi hq
  unfold takeRefusal
  extract_lets i q cause addr t
  rw [show t.unacked.find? (fun u => u.seq == q) = some x from hx]
  dsimp only
  rw [((seqQuiet_settleAll _).1).tracker, (quiet_failAccess ..).tracker]
  exact tgetD_tput_self s.fab.trackers (64 * n + i) _ _

theorem takeRefusal_mem (s : State) (n : Nat) (p : Packet) : (takeRefusal s n p).mem = s.mem :=
  takeRefusal_keeps (Keeps.refl (allBut .mem) s) rfl rfl rfl rfl rfl |>.rest

theorem bits_field_six (b : Bytes) : bits (field b 0 6) 47 0 = field b 0 6 := by
  have hlen : (slice b 0 6).length ≤ 6 := List.length_take_le _ _
  have hlt : field b 0 6 < 2 ^ 48 := Nat.lt_of_lt_of_le (leNat_lt _) (Nat.pow_le_pow_right (by decide) (by omega))
  exact Nat.mod_eq_of_lt hlt

theorem refusal_counts {s u : State} {node : NodeId} {p : Packet} {i q : Nat} {x : Unacked} (h : Accepts s node p false u) (hop : p.opcode = 0x22)
    (hi : i = bits p.aux.toNat 21 16) (hq : q = bits p.aux.toNat 15 0)
    (hx : (trackerOf s node.toNat i).unacked.find? (fun a => a.seq == q) = some x) : ∃ t, exec (.refusal node p) s = .next t ∧
      (∀ a ∈ (trackerOf t node.toNat i).unacked, a.seq ≠ q) ∧ (trackerOf t node.toNat i).refusals = (trackerOf s node.toNat i).refusals + 1 ∧
      ((trackerOf s node.toNat i).refusedAddr = none → (trackerOf t node.toNat i).refusedAddr = some (field p.payload 0 6)) ∧ t.mem = s.mem := by
  have htr := h.tracker node.toNat i
  have ht := takeRefusal_tracker hi hq (htr ▸ hx)
  rw [htr, bits_field_six] at ht
  refine ⟨takeRefusal u node.toNat p, h.acts (by rw [hop]; rfl) (takeRefusal · node.toNat p) id, ?_, ?_, ?_, (takeRefusal_mem ..).trans h.mem⟩
  · rw [ht]
    intro a ha
    simpa using (List.mem_filter.mp ha).2
  · rw [ht]
    rfl
  · intro hnone
    rw [ht, refusalCounted, hnone]
    rfl

/-- Settles O44: each packet is first accepted in sequence; WRITE then stores and READ answers from the region its address decodes to, and what a window
does not allow is refused. -/
theorem memoryAccessesComplete : Obligations.MemoryAccessesComplete := by
  unfold Obligations.MemoryAccessesComplete
  intro s u node p
  refine ⟨?_, ?_, ?_, ?_, ?_, ?_, ?_⟩
  · intro r h hop hr ht
    refine ⟨fun htile htr hwin => ⟨fun port off a hw ha hup => ?_, fun hhost hcell => ?_⟩, fun hbad => ?_⟩
    · have hperf := performWrite_host hr ht htile htr hwin hw ((hostAddr_of_port h.port ..).trans ha) ((portUp_of_port h.port _).trans hup)
      refine ⟨_, (write_performs h hop).trans (by rw [hperf]), congrArg (· ++ _) (h.only .out rfl), ?_⟩
      exact h.only.andThen (onlyParts_of_keeps (l := [.out]) (emitOut_keeps (Keeps.refl _ u) rfl)) (by decide) (by decide)
    · exact write_memory h hop (performWrite_stores hr ht htile htr hwin hhost hcell)
    · obtain ⟨h1, h2, h3, h4⟩ := accepted_refuses h (regionUnit r)
      exact ⟨_, (write_performs h hop).trans (by rw [performWrite_refused hr ht hbad]), h1, h2, h3, h4⟩
  · rintro r n h hop hr rfl ht
    refine ⟨fun htile htr hwin => ⟨fun d c off hc => ?_, fun port off a hw ha hup => ?_, fun hhost hcell => ?_⟩, fun hbad => ?_⟩
    · refine ⟨_, (read_performs h hop).trans (by rw [performRead_cell hr ht htile htr hwin hc]), ?_, h.only.andThen readAnswered_only (by decide) (by decide)⟩
      rw [show cellPage u (256 * d + c) off (bits p.aux.toNat 12 0) = cellPage s (256 * d + c) off (bits p.aux.toNat 12 0) by
        rw [cellPage, cellOf_of_vs h.vs, cellPage]]
      exact sent_response ..
    · have hperf := performRead_host hr ht htile htr hwin hw ((hostAddr_of_port h.port ..).trans ha) ((portUp_of_port h.port _).trans hup)
      refine ⟨_, (read_performs h hop).trans (by rw [hperf]), congrArg (· ++ _) (h.only .out rfl), ?_⟩
      exact h.only.andThen (onlyParts_of_keeps (l := [.out, .port]) (emitOut_keeps (modPortOf_keeps (Keeps.refl _ u) (fun _ hx => hx) rfl) rfl)) (by decide) (by decide)
    · exact read_memory h hop (performRead_memory hr ht htile htr hwin hhost hcell)
    · obtain ⟨h1, h2, -, h4⟩ := accepted_refuses h (regionUnit r)
      exact ⟨_, (read_performs h hop).trans (by rw [performRead_refused hr ht hbad]), h1, h2, h4⟩
  · exact fun e d sl sk batch index tg x h hop he howner hx hb hi hreads => readData_fibre h hop he howner hx hb hi hreads
  · exact fun e d sd h hop he howner hw => readData_sequencer h hop he howner hw
  · exact fun h hop hport => endpointMsg_answers h hop hport
  · exact fun e h hop he => endpointRsp_ends h hop he
  · exact fun i q x h hop hi hq hx => refusal_counts h hop hi hq hx

end Sys2Proof.Machine

/-!
PROOFS. The sequencer's arithmetic, branches and loops (R195, R196, R199, R201, R202, R204, R206).
-/
namespace Sys2Proof.Machine

set_option Elab.async false

/-! ### An instruction that writes a register -/

theorem regGet_retRegs (l : List Word) (sd r : Nat) (w : Word) :
    regGet (retRegs l (some sd) w) r = if sd ≠ 0 ∧ r = sd then w else regGet l r := by
  by_cases h : sd = 0
  · simp [retRegs, h]
  · simp [retRegs, h, regGet_regSet]

/-- All but vat d's sequencer's registers and its queues are in u as in s. -/
def VatKept (s u : State) (d : Nat) : Prop :=
  seqOf u d = seqOf s d ∧ (vatOf u d).fibres = (vatOf s d).fibres ∧ (∀ j, j ≠ d → vatOf u j = vatOf s j) ∧ u.vs.cells = s.vs.cells

theorem VatKept.of_vs {s u : State} (h : u.vs = s.vs) (d : Nat) : VatKept s u d :=
  ⟨seqOf_of_vs h d, congrArg Vat.fibres (vatOf_of_vs h d), fun j _ => vatOf_of_vs h j, by rw [h]⟩

theorem VatKept.trans_vs {s u t : State} {d : Nat} (h : VatKept s u d) (ht : t.vs = u.vs) : VatKept s t d := by
  obtain ⟨hseq, hfib, hvats, hcells⟩ := h
  exact ⟨(seqOf_of_vs ht d).trans hseq, (congrArg Vat.fibres (vatOf_of_vs ht d)).trans hfib, fun j hj => (vatOf_of_vs ht j).trans (hvats j hj),
    (by rw [ht, hcells])⟩

/-- An instruction that completes, in a state whose vats are those in which it began (R196). -/
theorem seqNext_goesOn {s u : State} {d : Nat} (hkept : VatKept s u d) {f : Sequencer → Sequencer} {q : Sequencer}
    (hq : f { seqOf s d with pc := ((seqOf s d).pc + 1) % 65536, state := 2, wait := none } = q)
    (hstate : q.state = 2) (hwait : q.wait = none) (hprog : q.prog = (seqOf s d).prog) (hposted : q.posted = none) (hstop : q.stopping = false) :
    seqNext u d f = modSeq u d (fun _ => q) ∧ GoesOn s (modSeq u d fun _ => q) d q.pc := by
  obtain ⟨hseq, hfib, hvats, hcells⟩ := hkept
  exact ⟨seqNext_eq_modSeq (by rwa [hseq]) hstate hposted hstop, goesOn_modSeq hstate hwait hprog hfib hvats hcells⟩

section
variable {s u : State} {d : Nat} (hvs : u.vs = s.vs) (hend : (seqOf s d).posted = none ∧ (seqOf s d).stopping = false)
include hvs hend

/-- An instruction that completes with a value in SD and nothing else (R195, R206). -/
theorem seqNext_writes {f : Sequencer → Sequencer} {sd : Nat} {w : Word} (hf : ∀ q, f q = { q with regs := retRegs q.regs (some sd) w }) :
    WroteSD s (seqNext u d f) d sd w ∧ OnlyParts [.vs] u (seqNext u d f) := by
  obtain ⟨hposted, hstop⟩ := hend
  obtain ⟨heq, hgo⟩ := seqNext_goesOn (.of_vs hvs d) (f := f) (hf _) rfl rfl rfl hposted hstop
  rw [heq]
  refine ⟨⟨fun r => ?_, ?_, ?_, ?_, ?_, hgo⟩, onlyParts_of_keeps (modSeq_keeps (Keeps.refl _ u) rfl)⟩
  · rw [sreg, sreg, seqOf_modSeq_self]
    dsimp only
    rw [regGet_retRegs]
    by_cases hr : r = 0
    · simp [hr]
    · by_cases hsd : r = sd
      · simp [hr, hsd ▸ hr, hsd]
      · simp [hr, hsd]
  · simp
  · simp
  · simp [vatOf_of_vs hvs]
  · simp [vatOf_of_vs hvs]
end

theorem seqWrite_writes {s u : State} {d : Nat} (hvs : u.vs = s.vs) (hend : (seqOf s d).posted = none ∧ (seqOf s d).stopping = false) (sd : Nat) (w : Word) :
    WroteSD s (seqWrite d sd w u) d sd w ∧ OnlyParts [.vs] u (seqWrite d sd w u) :=
  seqNext_writes hvs hend (seqSetReg_eq sd w)

section
variable {s : State} {d op w : Nat} (h : Executes s d op w)
include h

theorem seqStep_writes {i : Instr} {g : State → Nat → State} {sd : Nat} {x : Word} (hi : exec i s = seqStep d op g s) (hg : g s w = seqWrite d sd x s) :
    ∃ t, exec i s = .next t ∧ WroteSD s t d sd x ∧ OnlyParts [.vs] s t :=
  ⟨_, hi.trans ((seqStep_of_executes h g).trans (by rw [hg])), seqWrite_writes rfl (executes_not_ending h) sd x⟩

theorem seqR_writes {i : Instr} {f : Word → Word → Word} {a b x : Word} (hi : exec i s = seqR d op f s) (ha : a = sreg s d (fB w))
    (hb : b = sreg s d (fC w)) (hx : f a b = x) : ∃ t, exec i s = .next t ∧ WroteSD s t d (fA w) x ∧ OnlyParts [.vs] s t :=
  seqStep_writes h hi (by rw [← ha, ← hb, hx])

theorem seqI_writes {i : Instr} {f : Word → Nat → Word} {a x : Word} (hi : exec i s = seqI d op f s) (ha : a = sreg s d (fB w)) (hx : f a (fImm w) = x) :
    ∃ t, exec i s = .next t ∧ WroteSD s t d (fA w) x ∧ OnlyParts [.vs] s t :=
  seqStep_writes h hi (by rw [← ha, hx])

/-! ### Branches -/

omit h in
theorem seqBranch_vs (t : State) (b : Bool) : (seqBranch t d b).vs = t.vs :=
  onlyParts_of_keeps (l := [.obs]) (seqBranch_keeps (Keeps.refl _ t) rfl) .vs rfl

/-- A branch goes to PC + OFF where its condition holds, and to the next word where it does not (R201). -/
theorem seqBr_goes {i : Instr} {f : Word → Word → Bool} {c a : Word} {q : Nat} {P : Prop} [Decidable P] (hi : exec i s = seqBr d op f s) (hc : c = sreg s d (fA w)) (ha : a = sreg s d (fB w))
    (hq : q = (seqOf s d).pc) (hP : f c a = true ↔ P) : ∃ t, exec i s = .next t ∧ KeptRegs s t d ∧ OnlyParts [.obs, .vs] s t ∧
      GoesOn s t d (if P then (q + fImm w) % 65536 else (q + 1) % 65536) := by
  subst hc ha hq
  have hend := executes_not_ending h
  have hvs : (seqBranch s d (f (sreg s d (fA w)) (sreg s d (fB w)))).vs = s.vs := seqBranch_vs s _
  refine ⟨_, hi.trans (seqStep_of_executes h _), ?_⟩
  dsimp only
  rw [seqOf_of_vs hvs]
  by_cases hp : P
  · rw [hP.mpr hp] at hvs ⊢
    obtain ⟨heq, hgo⟩ := seqNext_goesOn (.of_vs hvs d) (f := fun q => if true then { q with pc := ((seqOf s d).pc + fImm w) % 65536 } else q)
      rfl rfl rfl rfl hend.1 hend.2
    rw [heq, if_pos hp]
    exact ⟨by simp [KeptRegs], onlyParts_of_keeps (modSeq_keeps (seqBranch_keeps (Keeps.refl _ s) rfl) rfl), hgo⟩
  · rw [eq_false_of_ne_true (mt hP.mp hp)] at hvs ⊢
    obtain ⟨heq, hgo⟩ := seqNext_goesOn (.of_vs hvs d) (f := fun q => if false then { q with pc := ((seqOf s d).pc + fImm w) % 65536 } else q)
      rfl rfl rfl rfl hend.1 hend.2
    rw [heq, if_neg hp]
    exact ⟨by simp [KeptRegs], onlyParts_of_keeps (modSeq_keeps (seqBranch_keeps (Keeps.refl _ s) rfl) rfl), hgo⟩
end

/-! ### LOOP, RESTART, HALT and STOP -/

section
variable {s : State} {v : VatId} {w : Nat}

theorem seqEvent_completes_only {t : State} (d k e : Nat) (q : Sequencer) : OnlyParts [.obs, .vs] t (modSeq (seqEvent t d k e) d fun _ => q) :=
  onlyParts_of_keeps (modSeq_keeps (seqEvent_keeps (Keeps.refl _ t) rfl) rfl)

/-- LOOP of a count that is in range begins its counter, or goes past its LEND where the count is 0 (R202). -/
theorem loop_begins (h : Executes s v.val 0x24 w) {n : Nat} (hn : n = (sreg s v.val (bits w 22 18)).toNat) (hle : n ≤ 16777215) :
    ∃ t q', exec (.seqLoop v) s = .next t ∧ t = modSeq (seqEvent s v.val 2 ((seqOf s v.val).pc % 2 ^ 16 * 2 ^ 24 + n)) v.val (fun _ => q') ∧
      GoesOn s t v.val q'.pc ∧ q' = if n = 0 then { seqOf s v.val with pc := ((seqOf s v.val).pc + fImm w + 1) % 65536, state := 2, wait := none } else
        { seqOf s v.val with
          pc := ((seqOf s v.val).pc + 1) % 65536, state := 2, wait := none
          loops := loopSet (seqOf s v.val).loops (bits w 25 23) { active := true, count := n, index := 0 } } := by
  subst hn
  have hend := executes_not_ending h
  show ∃ t q', execSeqLoop v s = .next t ∧ _
  unfold execSeqLoop
  rw [seqStep_of_executes h]
  dsimp only
  rw [if_neg (by omega)]
  by_cases h0 : (sreg s v.val (bits w 22 18)).toNat = 0
  · rw [if_pos h0]
    obtain ⟨heq, hgo⟩ := seqNext_goesOn (.of_vs (seqEvent_vs s v.val 2 ((seqOf s v.val).pc % 2 ^ 16 * 2 ^ 24 + (sreg s v.val (bits w 22 18)).toNat)) v.val)
      (f := fun q => { q with pc := ((seqOf s v.val).pc + fImm w + 1) % 65536 }) rfl rfl rfl rfl hend.1 hend.2
    exact ⟨_, _, rfl, heq, by rw [heq]; exact hgo, (if_pos h0).symm⟩
  · rw [if_neg h0]
    obtain ⟨heq, hgo⟩ := seqNext_goesOn (.of_vs (seqEvent_vs s v.val 2 ((seqOf s v.val).pc % 2 ^ 16 * 2 ^ 24 + (sreg s v.val (bits w 22 18)).toNat)) v.val)
      (f := fun q => { q with loops := loopSet q.loops (bits w 25 23) { active := true, count := (sreg s v.val (bits w 22 18)).toNat, index := 0 } }) rfl rfl rfl rfl hend.1 hend.2
    exact ⟨_, _, rfl, heq, by rw [heq]; exact hgo, (if_neg h0).symm⟩

theorem seqTrap_traps {d c a x : Nat} (h : setting s 0x3115 (d + 1) ≠ 1) : Trapped s (seqTrap s d c a x) d c := by
  obtain ⟨r, hr⟩ := seqTrap_seq h c a x
  exact ⟨by rw [hr], by rw [hr], by rw [hr], by rw [hr], seqTrap_mem ..⟩

theorem loop_traps (h : Executes s v.val 0x24 w) (hbig : 16777215 < (sreg s v.val (bits w 22 18)).toNat) (hset : setting s 0x3115 (v.val + 1) ≠ 1) :
    ∃ t, exec (.seqLoop v) s = .next t ∧ Trapped s t v.val 9 := by
  show ∃ t, execSeqLoop v s = .next t ∧ _
  unfold execSeqLoop
  rw [seqStep_of_executes h]
  dsimp only
  rw [if_pos hbig]
  exact ⟨_, rfl, seqTrap_traps hset⟩

theorem restart_goes (h : Executes s v.val 0x26 w) : ∃ t, exec (.seqRestart v) s = .next t ∧ KeptRegs s t v.val ∧ GoesOn s t v.val 0 ∧
    (seqOf t v.val).passes = ((seqOf s v.val).passes + 1) % 2 ^ 32 ∧ (∀ c ∈ (seqOf t v.val).loops, c.active = false) ∧ OnlyParts [.obs, .vs] s t := by
  have hend := executes_not_ending h
  show ∃ t, execSeqRestart v s = .next t ∧ _
  unfold execSeqRestart
  rw [seqStep_of_executes h]
  dsimp only
  obtain ⟨heq, hgo⟩ := seqNext_goesOn (.of_vs (seqEvent_vs s v.val 3 (((seqOf s v.val).passes + 1) % 2 ^ 32)) v.val)
    (f := fun q => { q with pc := 0, passes := ((seqOf s v.val).passes + 1) % 2 ^ 32, loops := q.loops.map (fun c => { c with active := false }) }) rfl rfl rfl rfl hend.1 hend.2
  refine ⟨_, rfl, ?_⟩
  rw [heq]
  refine ⟨by simp [KeptRegs], hgo, by simp, ?_, seqEvent_completes_only _ _ _ _⟩
  rw [seqOf_modSeq_self]
  simp

theorem halt_stays (h : Executes s v.val 0x27 w) : ∃ t, exec (.seqHalt v) s = .next t ∧ KeptRegs s t v.val ∧ (seqOf t v.val).state = 4 ∧
    (seqOf t v.val).pc = (seqOf s v.val).pc ∧ OnlyParts [.obs, .vs] s t := by
  have hseq : seqOf (seqEvent s v.val 4 ((seqOf s v.val).pc % 2 ^ 16)) v.val = seqOf s v.val := seqOf_of_vs (seqEvent_vs ..) _
  show ∃ t, execSeqHalt v s = .next t ∧ _
  unfold execSeqHalt
  rw [seqStep_of_executes h]
  refine ⟨_, rfl, ?_, ?_, ?_, onlyParts_of_keeps (modSeq_keeps (seqEvent_keeps (Keeps.refl _ s) rfl) rfl)⟩
  · rw [KeptRegs, seqOf_modSeq_self, hseq]
  · rw [seqOf_modSeq_self]
  · rw [seqOf_modSeq_self, hseq]

theorem mark_goes (h : Executes s v.val 0x2E w) : ∃ t, exec (.seqMark v) s = .next t ∧ WroteSD s t v.val 0 0 ∧ OnlyParts [.obs, .vs] s t := by
  obtain ⟨hw, honly⟩ := seqNext_writes (f := id) (sd := 0) (w := 0) (seqEvent_vs s v.val 0x0A (fImm w)) (executes_not_ending h) (fun _ => rfl)
  exact ⟨_, (seqStep_of_executes h _ : execSeqMark v s = _), hw, (onlyParts_of_keeps (l := [.obs]) (seqEvent_keeps (Keeps.refl _ s) rfl)).andThen honly (by decide) (by decide)⟩

/-- An accepted STOP takes effect when the instruction has completed (R199). -/
theorem nop_stops (hstate : (seqOf s v.val).state = 2) (hwait : (seqOf s v.val).wait = none) (hup : dieUp s v.val = true)
    (hgood : (seqOf s v.val).badWords.contains (seqOf s v.val).pc = false)
    (hop : bits ((seqOf s v.val).prog.getD (seqOf s v.val).pc 0).toNat 31 26 = 0x28) (hposted : (seqOf s v.val).posted = none)
    (hstop : (seqOf s v.val).stopping = true) : ∃ t, exec (.seqNop v) s = .next t ∧ (seqOf t v.val).state = 4 ∧
      (seqOf t v.val).pc = ((seqOf s v.val).pc + 1) % 65536 ∧ OnlyParts [.vs] s t := by
  have hstep : exec (.seqNop v) s = .next (seqNext s v.val) := by
    show execSeqNop v s = _
    unfold execSeqNop
    simp only [seqStep, hstate, hwait, hup, hgood, hop]
    rfl
  have hnext : seqNext s v.val = modSeq (modSeq s v.val fun q => { q with pc := (q.pc + 1) % 65536, state := 2, wait := none }) v.val
      fun q => { q with state := 4, stopping := false } := by
    unfold seqNext seqBoundary
    simp [hposted, hstop]
  refine ⟨_, hstep.trans (by rw [hnext]), by simp, by simp, onlyParts_of_keeps (modSeq_keeps (modSeq_keeps (Keeps.refl _ s) rfl) rfl)⟩
end

/-- Settles O52: an instruction that completes goes through `seqNext`, which writes SD and PC alone; branches and loops give it another PC. -/
theorem sequencerArithmeticAndFlowComplete : Obligations.SequencerArithmeticAndFlowComplete := by
  unfold Obligations.SequencerArithmeticAndFlowComplete
  rintro s v w a b i j sh q ha hb rfl rfl rfl rfl
  have hslt (a b : Word) : (if a.slt b then (1 : Word) else 0) = if a.toInt < b.toInt then 1 else 0 := by simp [BitVec.slt]
  have hult {α : Type} (a b : Word) (x y : α) : (if a.ult b then x else y) = if a.toNat < b.toNat then x else y := by simp [BitVec.ult]
  refine ⟨?_, ?_, ?_, ?_, ?_, ?_, ?_, ?_, ?_, ?_, ?_, ?_, ?_, ?_, ?_, ?_, ?_, ?_, ?_, ?_, ?_, ?_, ?_, ?_, ?_, ?_, ?_, ?_, ?_, ?_⟩
  · exact fun h => seqR_writes h (f := fun a b => a + b) rfl ha hb rfl
  · exact fun h => seqR_writes h (f := fun a b => a - b) rfl ha hb rfl
  · exact fun h => seqR_writes h (f := fun a b => a * b) rfl ha hb rfl
  · exact fun h => seqR_writes h (f := fun a b => a &&& b) rfl ha hb rfl
  · exact fun h => seqR_writes h (f := fun a b => a ||| b) rfl ha hb rfl
  · exact fun h => seqR_writes h (f := fun a b => a ^^^ b) rfl ha hb rfl
  · exact fun h => seqR_writes h (f := fun a b => a <<< (b.toNat % 64)) rfl ha hb rfl
  · exact fun h => seqR_writes h (f := fun a b => a >>> (b.toNat % 64)) rfl ha hb rfl
  · exact fun h => seqR_writes h (f := fun a b => sra a b.toNat) rfl ha hb rfl
  · exact fun h => seqR_writes h (f := fun a b => if a.slt b then 1 else 0) rfl ha hb (hslt a b)
  · exact fun h => seqR_writes h (f := fun a b => if a.ult b then 1 else 0) rfl ha hb (hult a b 1 0)
  · exact fun h => seqR_writes h (f := fun a b => if a.ult b then a else b) rfl ha hb (hult a b a b)
  · exact fun h => seqR_writes h (f := fun a b => if a.ult b then b else a) rfl ha hb (hult a b b a)
  · exact fun h => seqI_writes h (f := fun a i => a + immS i) rfl ha rfl
  · exact fun h => seqI_writes h (f := fun a i => a &&& immZ i) rfl ha rfl
  · exact fun h => seqI_writes h (f := fun a i => a ||| immZ i) rfl ha rfl
  · exact fun h => seqI_writes h (f := fun a i => a ^^^ immZ i) rfl ha rfl
  · exact fun h => seqI_writes h (f := fun a i => a <<< (i % 64)) rfl ha rfl
  · exact fun h => seqI_writes h (f := fun a i => a >>> (i % 64)) rfl ha rfl
  · exact fun h => seqI_writes h (f := fun a i => sra a i) rfl ha rfl
  · exact fun h => seqStep_writes h (g := fun s w =>
      seqWrite v.val (fA w) (BitVec.ofNat 64 (setBits (sreg s v.val (fA w)).toNat (16 * bits w 17 16 + 15) (16 * bits w 17 16) (fImm w))) s) rfl rfl
  · exact fun h => seqStep_writes h (g := fun s w =>
      seqWrite v.val (fA w) (BitVec.ofNat 64 (if (loopOf (seqOf s v.val) (bits w 20 18)).active then (loopOf (seqOf s v.val) (bits w 20 18)).index else 0)) s) rfl rfl
  · exact fun h => seqStep_writes h (g := fun s w =>
      seqWrite v.val (fA w) (BitVec.ofNat 64 s.now) s) rfl rfl
  · exact fun h => ⟨_, (seqStep_of_executes h _ : execSeqNop v s = _), seqNext_writes (f := id) rfl (executes_not_ending h) fun _ => rfl⟩
  · exact fun h => mark_goes h
  · intro c hc
    refine ⟨?_, ?_, ?_, ?_, ?_, ?_⟩
    · exact fun h => seqBr_goes h (f := fun c a => c == a) rfl hc ha rfl (by simp)
    · exact fun h => seqBr_goes h (f := fun c a => c != a) rfl hc ha rfl (by simp)
    · exact fun h => seqBr_goes h (f := fun c a => c.slt a) rfl hc ha rfl (by simp [BitVec.slt])
    · exact fun h => seqBr_goes h (f := fun c a => c.ult a) rfl hc ha rfl (by simp [BitVec.ult])
    · exact fun h => seqBr_goes h (f := fun c a => !(c.slt a)) rfl hc ha rfl (by simp [BitVec.slt])
    · exact fun h => seqBr_goes h (f := fun c a => !(c.ult a)) rfl hc ha rfl (by simp [BitVec.ult])
  · intro n h hn
    refine ⟨fun h0 => ?_, fun h1 hle => ?_, fun hbig hset => loop_traps h (hn ▸ hbig) hset⟩
    · obtain ⟨t, q', hexec, rfl, hgo, hq⟩ := loop_begins h hn (by omega)
      rw [if_pos h0] at hq
      refine ⟨_, hexec, by simp [KeptRegs, hq], by simp [hq], by simpa [hq] using hgo, seqEvent_completes_only _ _ _ _⟩
    · obtain ⟨t, q', hexec, rfl, hgo, hq⟩ := loop_begins h hn hle
      rw [if_neg (by omega)] at hq
      refine ⟨_, hexec, by simp [KeptRegs, hq], ?_, by simpa [hq] using hgo, seqEvent_completes_only _ _ _ _⟩
      rw [seqOf_modSeq_self, hq]
      show (loopSet _ _ _).getD _ {} = _
      rw [getD_loopSet, if_pos rfl]
  · exact fun h => restart_goes h
  · exact fun h => halt_stays h
  · exact fun hstate hwait hup hgood hop hposted hstop => nop_stops hstate hwait hup hgood hop hposted hstop

end Sys2Proof.Machine

/-!
PROOFS. The sequencer's accesses, batches and waits (R207, R208, R214 to R228).
-/
namespace Sys2Proof.Machine

set_option Elab.async false

/-! ### What completes and what waits -/

theorem vatKept_modVat (s : State) (d : Nat) {f : Vat → Vat} (hseq : (f (vatOf s d)).seq = seqOf s d) (hfib : (f (vatOf s d)).fibres = (vatOf s d).fibres) :
    VatKept s (modVat s d f) d :=
  ⟨(congrArg Vat.seq (vatOf_modVat_self ..)).trans hseq, (congrArg Vat.fibres (vatOf_modVat_self ..)).trans hfib, fun _ hj => vatOf_modVat_ne _ _ hj, rfl⟩

/-- An instruction that completes with a value in SD, from a state whose sequencer is that of s. -/
theorem seqWrite_completes {s u : State} {d : Nat} (hkept : VatKept s u d) (hposted : (seqOf s d).posted = none) (hstop : (seqOf s d).stopping = false)
    (sd : Nat) (w : Word) : (sd ≠ 0 → sreg (seqWrite d sd w u) d sd = w) ∧ (vatOf (seqWrite d sd w u) d).batches = (vatOf u d).batches ∧
      (vatOf (seqWrite d sd w u) d).nextBatch = (vatOf u d).nextBatch ∧ GoesOn s (seqWrite d sd w u) d (((seqOf s d).pc + 1) % 65536) ∧
      OnlyParts [.vs] u (seqWrite d sd w u) := by
  obtain ⟨heq, hgo⟩ := seqNext_goesOn hkept (f := seqSetReg sd w) (seqSetReg_eq ..) rfl rfl rfl hposted hstop
  have hw : seqWrite d sd w u = _ := heq
  rw [hw]
  refine ⟨fun hsd => ?_, by simp, by simp, hgo, onlyParts_of_keeps (modSeq_keeps (Keeps.refl _ u) rfl)⟩
  rw [sreg, if_neg hsd, seqOf_modSeq_self]
  dsimp only
  rw [regGet_retRegs, if_pos ⟨hsd, rfl⟩]

/-- An instruction that completes and writes no register. -/
theorem seqNext_completes {s u : State} {d : Nat} (hvs : u.vs = s.vs) (hend : (seqOf s d).posted = none ∧ (seqOf s d).stopping = false) :
    KeptRegs s (seqNext u d) d ∧ GoesOn s (seqNext u d) d (((seqOf s d).pc + 1) % 65536) ∧ OnlyParts [.vs] u (seqNext u d) := by
  obtain ⟨heq, hgo⟩ := seqNext_goesOn (.of_vs hvs d) (f := id) rfl rfl rfl rfl hend.1 hend.2
  rw [heq]
  exact ⟨by simp [KeptRegs], hgo, onlyParts_of_keeps (modSeq_keeps (Keeps.refl _ u) rfl)⟩

theorem send_only (s : State) (n : Nat) (o : Initiator) (p : Packet) : OnlyParts [.fab] s (send s n o p) :=
  onlyParts_of_keeps (send_keeps (Keeps.refl _ s) rfl)

theorem waitEvent_only (s : State) (d k r a x : Nat) : OnlyParts [.obs] s (waitEvent s d k r a x) :=
  onlyParts_of_keeps (seqEvent_keeps (Keeps.refl _ s) rfl)

/-! ### LD, ST, SYNC and FENCE -/

section
variable {s : State} {v : VatId} {w : Nat}

theorem ld_asks {r : Region} (h : Executes s v.val 0x18 w) (hok : memTrap (memAddr s v.val w) = none) (hr : decodeAddr (memAddr s v.val w) = some r) :
    ∃ t, exec (.seqLd v) s = .next t ∧ Sent t (seqTile v.val) 2 r.tile [] ∧ (seqOf t v.val).wait = some (.load (memAddr s v.val w) (fA w) none) ∧
      (seqOf t v.val).pc = (seqOf s v.val).pc ∧ KeptRegs s t v.val ∧ OnlyParts [.fab, .vs] s t := by
  show ∃ t, execSeqLd v s = .next t ∧ _
  unfold execSeqLd
  rw [seqStep_of_executes h]
  dsimp only
  rw [hok]
  dsimp only
  rw [hr]
  have hseq (p : Packet) : seqOf (send s (seqTile v.val) (.sequencer v.val) p) v.val = seqOf s v.val := seqOf_of_vs (send_vs ..) _
  refine ⟨_, rfl, (sent_send s _ _ 2 r.tile _ _ _ _ _).stays (.of_fab rfl), ?_, ?_, ?_,
    (send_only s _ _ _).andThen (onlyParts_of_keeps (l := [.vs]) (modSeq_keeps (Keeps.refl _ _) rfl)) (by decide) (by decide)⟩
  · rw [seqOf_modSeq_self]
  · rw [seqOf_modSeq_self, hseq]
  · rw [KeptRegs, seqOf_modSeq_self, hseq]

theorem ld_traps {c : Nat} (h : Executes s v.val 0x18 w) (hc : memTrap (memAddr s v.val w) = some c) (hset : setting s 0x3115 (v.val + 1) ≠ 1) :
    ∃ t, exec (.seqLd v) s = .next t ∧ Trapped s t v.val c := by
  show ∃ t, execSeqLd v s = .next t ∧ _
  unfold execSeqLd
  rw [seqStep_of_executes h]
  dsimp only
  rw [hc]
  exact ⟨_, rfl, seqTrap_traps hset⟩

theorem st_traps {c : Nat} (h : Executes s v.val 0x19 w) (hc : memTrap (memAddr s v.val w) = some c) (hset : setting s 0x3115 (v.val + 1) ≠ 1) :
    ∃ t, exec (.seqSt v) s = .next t ∧ Trapped s t v.val c := by
  show ∃ t, execSeqSt v s = .next t ∧ _
  unfold execSeqSt
  rw [seqStep_of_executes h]
  dsimp only
  rw [hc]
  exact ⟨_, rfl, seqTrap_traps hset⟩

theorem st_sends {r : Region} (h : Executes s v.val 0x19 w) (hok : memTrap (memAddr s v.val w) = none) (hr : decodeAddr (memAddr s v.val w) = some r)
    (hcell : ∀ d c o, r ≠ .syncCell d c o) (hroom : writesCount s (.sequencer v.val) < 32) : ∃ t, exec (.seqSt v) s = .next t ∧
      Sent t (seqTile v.val) 1 r.tile (leBytes 8 (sreg s v.val (fA w)).toNat) ∧ KeptRegs s t v.val ∧
      GoesOn s t v.val (((seqOf s v.val).pc + 1) % 65536) ∧ OnlyParts [.fab, .vs] s t := by
  show ∃ t, execSeqSt v s = .next t ∧ _
  unfold execSeqSt
  rw [seqStep_of_executes h]
  dsimp only
  rw [hok]
  dsimp only
  rw [hr]
  have hsent := sent_mkPacket s (seqTile v.val) (.sequencer v.val) 1 r.tile (vatOwner s.cfg v.val) none (memAddr s v.val w)
    (leBytes 8 (sreg s v.val (fA w)).toNat)
  obtain ⟨hregs, hgo, honly⟩ := seqNext_completes (s := s) (u := send s (seqTile v.val) (.sequencer v.val)
    (mkPacket 1 r.tile (vatOwner s.cfg v.val) none (memAddr s v.val w) (leBytes 8 (sreg s v.val (fA w)).toNat))) (d := v.val)
    (send_vs ..) (executes_not_ending h)
  split
  next d c o heq => exact absurd (Option.some.inj heq) (hcell d c o)
  next r' _ heq =>
    cases heq
    rw [if_neg (by omega)]
    exact ⟨_, rfl, hsent.stays (.of_fab (honly .fab rfl)), hregs, hgo, (send_only s _ _ _).andThen honly (by decide) (by decide)⟩
  next heq => cases heq

theorem st_cell_traps {d c o : Nat} (h : Executes s v.val 0x19 w) (hok : memTrap (memAddr s v.val w) = none)
    (hr : decodeAddr (memAddr s v.val w) = some (.syncCell d c o)) (hset : setting s 0x3115 (v.val + 1) ≠ 1) :
    ∃ t, exec (.seqSt v) s = .next t ∧ Trapped s t v.val 6 := by
  show ∃ t, execSeqSt v s = .next t ∧ _
  unfold execSeqSt
  rw [seqStep_of_executes h]
  dsimp only
  rw [hok]
  dsimp only
  rw [hr]
  exact ⟨_, rfl, seqTrap_traps hset⟩

theorem ldData_completes {a sd : Nat} {data : Bytes} (hw : (seqOf s v.val).wait = some (.load a sd (some data))) (hposted : (seqOf s v.val).posted = none)
    (hstop : (seqOf s v.val).stopping = false) : ∃ t, exec (.seqLdData v) s = .next t ∧ WroteSD s t v.val sd (BitVec.ofNat 64 (leNat data)) ∧
      OnlyParts [.vs] s t := by
  show ∃ t, execSeqLdData v s = .next t ∧ _
  unfold execSeqLdData
  extract_lets d
  rw [show (seqOf s d).wait = _ from hw]
  exact ⟨_, rfl, seqWrite_writes rfl ⟨hposted, hstop⟩ sd _⟩

theorem sync_sends {a die c off : Nat} (h : Executes s v.val 0x34 w) (ha : a = (sreg s v.val (fB w)).toNat % 2 ^ 48) (hm : mapped a = true)
    (hr : decodeAddr a = some (.syncCell die c off)) {pay ph : Nat} (hpay : pay = (sreg s v.val (fC w)).toNat)
    (hph : ph = (sreg s v.val (fC w + 1)).toNat % 2 ^ 16) :
      ∃ (t : State) (ret : Option Nat), exec (.seqSync v) s = .next t ∧ ret = (if bitAt w 10 then some (fA w) else none) ∧
        (seqOf t v.val).wait = some (.sync (256 * die + c) pay ph ret (bitAt w 9) s.now) ∧
        (seqOf t v.val).state = (if opCode pay = 3 ∨ opCode pay = 4 then 3 else 2) ∧ (seqOf t v.val).pc = (seqOf s v.val).pc ∧ KeptRegs s t v.val ∧
        Sent t (seqTile v.val) 3 (Region.syncCell die c off).tile (leBytes 16 (pay + ph * 2 ^ 64)) ∧ OnlyParts [.fab, .vs] s t := by
  subst ha hpay hph
  show ∃ t ret, execSeqSync v s = .next t ∧ _
  unfold execSeqSync
  rw [seqStep_of_executes h]
  dsimp only
  rw [if_neg (by simpa using hm), hr]
  dsimp only
  obtain ⟨x, hx, hvs, hnow, hsent, honly⟩ : ∃ x, sendSync s v.val .sequencer (.sequencer v.val) none ((sreg s v.val (fB w)).toNat % 2 ^ 48)
      ((sreg s v.val (fC w)).toNat + (sreg s v.val (fC w + 1)).toNat % 2 ^ 16 * 2 ^ 64) = x ∧ x.vs = s.vs ∧ x.now = s.now ∧
      Sent x (seqTile v.val) 3 (Region.syncCell die c off).tile
        (leBytes 16 ((sreg s v.val (fC w)).toNat + (sreg s v.val (fC w + 1)).toNat % 2 ^ 16 * 2 ^ 64)) ∧ OnlyParts [.fab] s x := by
    refine ⟨_, rfl, send_vs .., send_only s _ _ _ .now rfl, ?_, send_only s _ _ _⟩
    unfold sendSync
    rw [hr]
    exact sent_mkPacket ..
  rw [hx]
  refine ⟨_, _, rfl, rfl, ?_, ?_, ?_, ?_, hsent.stays (.of_fab rfl), honly.andThen (onlyParts_of_keeps (l := [.vs]) (modSeq_keeps (Keeps.refl _ x) rfl))
    (by decide) (by decide)⟩
  · rw [seqOf_modSeq_self, hnow]
  · rw [seqOf_modSeq_self]
    simp
  · rw [seqOf_modSeq_self, seqOf_of_vs hvs]
  · rw [KeptRegs, seqOf_modSeq_self, seqOf_of_vs hvs]

theorem fence_goes (h : Executes s v.val 0x35 w) (hout : writesOut s (· == .sequencer v.val) = false) : ∃ t, exec (.seqFence v) s = .next t ∧
    KeptRegs s t v.val ∧ GoesOn s t v.val (((seqOf s v.val).pc + 1) % 65536) ∧ OnlyParts [.vs] s t := by
  show ∃ t, execSeqFence v s = .next t ∧ _
  unfold execSeqFence
  rw [seqStep_of_executes h, if_neg (by simp [hout])]
  exact ⟨_, rfl, seqNext_completes rfl (executes_not_ending h)⟩

theorem fence_waits (h : Executes s v.val 0x35 w) (hout : writesOut s (· == .sequencer v.val) = true) : exec (.seqFence v) s = .next s := by
  show execSeqFence v s = _
  unfold execSeqFence
  rw [seqStep_of_executes h, if_pos hout]

/-! ### MCAST and MCWAIT -/

theorem memRead_length (m : List (Nat × Byte)) : ∀ (n a : Nat), (memRead m a n).length = n
  | 0, _ => rfl
  | n + 1, a => by rw [memRead, List.length_cons, memRead_length m n]

/-- Every chunk of a multicast waits to leave the tile for the root (R227, R281). -/
theorem sendMcast_sends (s : State) (n : Nat) (o : Initiator) (part : Nat) (tag : Option Nat) (g pos : Nat) (b : Bytes) (pz : Bool) :
    (∀ e ∈ mcCuts (b.length / 4096 + 2) pos b, ∃ x ∈ tgetD (sendMcast s n o part tag g pos b pz).fab.waiting n [], x.owner = o ∧ x.pkt.opcode = 0x60 ∧
      x.pkt.dest = BitVec.ofNat 12 (mcRoot (mcRecord (tileBank s n) g)) ∧ x.pkt.src = BitVec.ofNat 12 n ∧ x.pkt.payload = e.2) ∧
    OnlyParts [.fab] s (sendMcast s n o part tag g pos b pz) := by
  refine ⟨?_, onlyParts_of_keeps (sendMcast_keeps (Keeps.refl _ s) rfl)⟩
  unfold sendMcast
  extract_lets root
  generalize mcCuts (b.length / 4096 + 2) pos b = l
  induction l generalizing s with
  | nil => nofun
  | cons e l ih =>
    intro k hk
    rw [List.foldl_cons]
    rcases List.mem_cons.mp hk with rfl | hk
    · refine ⟨{ owner := o, pkt := { mkPacket 0x60 root part tag (k.1 % 2 ^ 32) k.2 with aux := BitVec.ofNat 32 g, poison := pz, src := BitVec.ofNat 12 n } },
        stillWaits_foldl (fun _ _ => stillWaits_send _ _ _ _) l _ n _ ?_, rfl, rfl, rfl, rfl, rfl⟩
      rw [waiting_send]
      exact List.mem_append_right _ (List.mem_singleton_self _)
    · exact ih (send s n o { mkPacket 0x60 root part tag (e.1 % 2 ^ 32) e.2 with aux := BitVec.ofNat 32 g, poison := pz }) k hk

theorem mcCuts_ne_nil {b : Bytes} (h : b ≠ []) (f pos : Nat) : mcCuts (f + 1) pos b ≠ [] := by
  rw [mcCuts, if_neg (by simpa using h)]
  exact List.cons_ne_nil _ _

/-- A multicast with a chunk that waits for injection holds the sequencer (R227). -/
theorem mcastSettle_waits {s : State} {d n : Nat} {x : OutPacket} (hx : x ∈ tgetD s.fab.waiting n []) (ho : x.owner = .sequencer d)
    (hop : x.pkt.opcode = 0x60) : mcastSettle s d = s := by
  have hany : s.fab.waiting.any (fun w => w.2.any (fun o => o.owner == .sequencer d && o.pkt.opcode == 0x60)) = true := by
    cases hl : tget s.fab.waiting n with
    | none =>
      rw [tgetD, hl] at hx
      cases hx
    | some l =>
      rw [tgetD, hl] at hx
      exact List.any_eq_true.mpr ⟨_, tget_mem _ _ _ hl, List.any_eq_true.mpr ⟨x, hx, by simp [ho, hop]⟩⟩
  exact if_neg (by rw [hany]; simp)

theorem writesOut_none {p : Initiator → Bool} (h : writesOut s p = false) :
    s.fab.trackers.any (fun t => t.2.unacked.any (fun u => u.pkt.opcode == 1 && p u.owner)) = false ∧
      s.fab.waiting.any (fun x => x.2.any (fun o => o.pkt.opcode == 1 && p o.owner)) = false := by
  simp only [writesOut, Bool.or_eq_false_iff] at h
  obtain ⟨⟨htr, hwt⟩, -⟩ := h
  constructor
  · rw [List.any_eq_false] at htr ⊢
    intro t ht hany
    obtain ⟨u, hu, hp⟩ := List.any_eq_true.mp hany
    obtain ⟨hop, ho⟩ := Bool.and_eq_true_iff.mp hp
    exact htr t ht (List.any_eq_true.mpr ⟨u, hu, by simp [beq_iff_eq.mp hop, ho, isWriteOp]⟩)
  · rw [List.any_eq_false] at hwt ⊢
    intro t ht hany
    obtain ⟨u, hu, hp⟩ := List.any_eq_true.mp hany
    obtain ⟨hop, ho⟩ := Bool.and_eq_true_iff.mp hp
    exact hwt t ht (List.any_eq_true.mpr ⟨u, hu, by simp [beq_iff_eq.mp hop, ho, isWriteOp]⟩)

/-- A tile's bank is read from the epochs and the partitions' state alone. -/
theorem tileBank_of_only {s t : State} {l : List Part} (h : OnlyParts l s t) (hep : l.contains .ep = false) (n : Nat) :
    tileBank t n = tileBank s n := by
  rw [tileBank, tileEpoch, bankOfEpoch, h .ep hep, tileBank, tileEpoch, bankOfEpoch]

theorem mcast_sends {a n off slice : Nat} (h : Executes s v.val 0x36 w) (ha : a = (sreg s v.val (fA w)).toNat % 2 ^ 48)
    (hn : n = bits (sreg s v.val (fB w)).toNat 31 0) (hr : decodeAddr a = some (.vatSram v.val slice off)) (hfit : off + n ≤ 0x180000) (h1 : 1 ≤ n)
    (hmax : n ≤ 1572864) (hbad : badRange s a n = false) (hout : writesOut s (· == .sequencer v.val) = false) : ∃ t, exec (.seqMcast v) s = .next t ∧
      (∀ e ∈ mcCuts (n / 4096 + 2) (bits (sreg s v.val (fB w)).toNat 63 32) (readMem s a n),
        Sent t (seqTile v.val) 0x60 (mcRoot (mcRecord (tileBank s (seqTile v.val)) (bits w 9 0))) e.2) ∧ (seqOf t v.val).wait = some .mcast ∧
      (seqOf t v.val).pc = (seqOf s v.val).pc ∧ KeptRegs s t v.val ∧ OnlyParts [.fab, .obs, .vs] s t := by
  subst ha hn
  obtain ⟨htr, hwt⟩ := writesOut_none hout
  show ∃ t, execSeqMcast v s = .next t ∧ _
  unfold execSeqMcast
  rw [seqStep_of_executes h]
  extract_lets a b n g inSlice z bad y x
  have hin : inSlice = true := by
    simp only [inSlice]
    rw [show decodeAddr a = _ from hr]
    simpa using hfit
  have hz : OnlyParts [.obs] s z := onlyParts_of_keeps (seqEvent_keeps (Keeps.refl _ s) rfl)
  have hgood : bad = false := by
    rw [show bad = badRange z a n from rfl, badRange, hz .integ rfl]
    exact hbad
  have hy : y = z := if_neg (by simp [hgood])
  have hmem : readMem y a n = readMem s a n := by rw [hy, readMem, hz .mem rfl, readMem]
  have hbank : tileBank y (seqTile v.val) = tileBank s (seqTile v.val) := by rw [hy, tileBank_of_only hz rfl]
  have hlen : (readMem s a n).length = n := memRead_length ..
  obtain ⟨hsent, honly⟩ : (∀ e ∈ mcCuts ((readMem y a n).length / 4096 + 2) (bits b 63 32) (readMem y a n), ∃ o ∈ tgetD x.fab.waiting (seqTile v.val) [],
      o.owner = .sequencer v.val ∧ o.pkt.opcode = 0x60 ∧ o.pkt.dest = BitVec.ofNat 12 (mcRoot (mcRecord (tileBank y (seqTile v.val)) g)) ∧
      o.pkt.src = BitVec.ofNat 12 (seqTile v.val) ∧ o.pkt.payload = e.2) ∧ OnlyParts [.fab] y x := sendMcast_sends ..
  rw [hmem, hlen, hbank] at hsent
  have hsx : OnlyParts [.fab, .obs] s x := (hy ▸ hz : OnlyParts [.obs] s y).andThen honly (by decide) (by decide)
  have hseq : seqOf x v.val = seqOf s v.val := seqOf_of_vs (hsx .vs rfl) v.val
  obtain ⟨e, he⟩ := List.exists_mem_of_ne_nil _ (mcCuts_ne_nil (List.ne_nil_of_length_pos (Nat.lt_of_lt_of_eq h1 hlen.symm)) (n / 4096 + 1) (bits b 63 32))
  obtain ⟨o, ho, howner, hop, -⟩ := hsent e he
  have hset : mcastSettle (modSeq x v.val fun q => { q with wait := some .mcast }) v.val = modSeq x v.val fun q => { q with wait := some .mcast } :=
    mcastSettle_waits (n := seqTile v.val) (x := o) ho howner hop
  have hrange : ¬ (decide (n = 0) || decide (1572864 < n) || !inSlice) = true := by
    have h1' : 1 ≤ n := h1
    have hmax' : n ≤ 1572864 := hmax
    simp only [hin, Bool.not_true, Bool.or_false, Bool.or_eq_true, decide_eq_true_eq]
    omega
  rw [if_neg hrange, if_neg (by rw [htr, hwt]; decide), if_neg (by simp [hout]), hset]
  refine ⟨_, rfl, fun e he => ?_, ?_, ?_, ?_, hsx.andThen (onlyParts_of_keeps (l := [.vs]) (modSeq_keeps (Keeps.refl _ x) rfl)) (by decide) (by decide)⟩
  · obtain ⟨o, ho, -, hop, hdest, hsrc, hpay⟩ := hsent e he
    exact ⟨o, ho, hop, hdest, hsrc, hpay⟩
  · rw [seqOf_modSeq_self]
  · rw [seqOf_modSeq_self, hseq]
  · rw [KeptRegs, seqOf_modSeq_self, hseq]

theorem mcwait_goes (h : Executes s v.val 0x37 w) (hdown : mcDown s (bits w 9 0) v.val = false)
    (hsat : mcSatisfied (agentOf s (bits w 9 0) v.val).bytes ((sreg s v.val (fA w)).toNat % 2 ^ 32) = true) :
    ∃ t, exec (.seqMcwait v) s = .next t ∧ KeptRegs s t v.val ∧ GoesOn s t v.val (((seqOf s v.val).pc + 1) % 65536) ∧ OnlyParts [.obs, .vs] s t := by
  show ∃ t, execSeqMcwait v s = .next t ∧ _
  unfold execSeqMcwait
  rw [seqStep_of_executes h]
  dsimp only
  rw [if_neg (by simp [hdown]), if_pos hsat]
  obtain ⟨hregs, hgo, honly⟩ := seqNext_completes (s := s) (waitEvent_only s v.val 0x11 1 s.now (bits w 9 0) .vs rfl) (executes_not_ending h)
  exact ⟨_, rfl, hregs, hgo, (waitEvent_only s _ _ _ _ _).andThen honly (by decide) (by decide)⟩

theorem mcwait_waits (h : Executes s v.val 0x37 w) (hdown : mcDown s (bits w 9 0) v.val = false)
    (hsat : mcSatisfied (agentOf s (bits w 9 0) v.val).bytes ((sreg s v.val (fA w)).toNat % 2 ^ 32) = false) :
    ∃ t, exec (.seqMcwait v) s = .next t ∧ (seqOf t v.val).state = 3 ∧
      (seqOf t v.val).wait = some (.mc (bits w 9 0) ((sreg s v.val (fA w)).toNat % 2 ^ 32) (bitAt w 15) s.now) ∧
      (seqOf t v.val).pc = (seqOf s v.val).pc ∧ OnlyParts [.vs] s t := by
  show ∃ t, execSeqMcwait v s = .next t ∧ _
  unfold execSeqMcwait
  rw [seqStep_of_executes h]
  dsimp only
  rw [if_neg (by simp [hdown]), if_neg (by rw [hsat]; decide)]
  exact ⟨_, rfl, by simp, by simp, by simp, onlyParts_of_keeps (modSeq_keeps (Keeps.refl _ s) rfl)⟩

/-! ### LAUNCH -/

theorem seqEvent_ext_vs (s : State) (d k p : Nat) (e : Option Nat) : (seqEvent s d k p e).vs = s.vs :=
  onlyParts_of_keeps (l := [.obs]) (seqEvent_keeps (Keeps.refl _ s) rfl) .vs rfl

/-- The batch that a LAUNCH enters (R216, R221). -/
def launchedBatch (s : State) (d : Nat) (a : LaunchArgs) : Batch :=
  let gen := match a.tag with
    | some _ => some (bits a.context 63 32)
    | none => slotInForce s d (bits a.context 27 24)
  { num := (vatOf s d).nextBatch, detached := a.detach, total := a.total, extX := a.extX, extY := a.extY, program := a.program, slices := a.slices
    blocked := a.place == 1, args := a.args, tag := a.tag, bank := gen.bind (bankHolding s d (bits a.context 27 24)), slot := bits a.context 27 24
    generation := gen.getD 0 }

/-- The state in which the batch has entered, with LAUNCH's trace event. -/
def batchEntered (s : State) (d : Nat) (a : LaunchArgs) : State :=
  seqEvent (modVat s d fun v =>
    { v with batches := v.batches ++ [launchedBatch s d a], nextBatch := ((vatOf s d).nextBatch + 1) % 65536, launched := v.launched + 1 }) d 6
    ((vatOf s d).nextBatch * 2 ^ 32 + (a.tag.getD 0) * 2 ^ 16 + bitOf a.tag.isSome) (some (a.total * 2 ^ 104 + a.program * 2 ^ 64))

theorem launchAccept_eq (s : State) (d : Nat) (a : LaunchArgs) :
    launchAccept s d a false = seqWrite d a.sd (BitVec.ofNat 64 (vatOf s d).nextBatch) (batchEntered s d a) := by
  unfold launchAccept batchEntered launchedBatch seqWrite
  simp only [Bool.false_and, Bool.false_eq_true, if_false] <;> rfl

theorem batchEntered_vat (s : State) (d : Nat) (a : LaunchArgs) : vatOf (batchEntered s d a) d = { vatOf s d with
    batches := (vatOf s d).batches ++ [launchedBatch s d a], nextBatch := ((vatOf s d).nextBatch + 1) % 65536, launched := (vatOf s d).launched + 1 } := by
  rw [batchEntered, vatOf_of_vs (seqEvent_ext_vs ..), vatOf_modVat_self]

theorem batchEntered_kept (s : State) (d : Nat) (a : LaunchArgs) : VatKept s (batchEntered s d a) d := by
  unfold batchEntered
  exact (vatKept_modVat s d rfl rfl).trans_vs (seqEvent_ext_vs ..)

theorem batchEntered_only (s : State) (d : Nat) (a : LaunchArgs) : OnlyParts [.obs, .vs] s (batchEntered s d a) :=
  onlyParts_of_keeps (seqEvent_keeps (modVat_keeps (Keeps.refl _ s) rfl) rfl)

theorem launchAccept_enters {d : Nat} (a : LaunchArgs) (hposted : (seqOf s d).posted = none) (hstop : (seqOf s d).stopping = false) :
    (vatOf (launchAccept s d a false) d).batches = (vatOf s d).batches ++ [launchedBatch s d a] ∧
      (vatOf (launchAccept s d a false) d).nextBatch = ((vatOf s d).nextBatch + 1) % 65536 ∧
      (a.sd ≠ 0 → sreg (launchAccept s d a false) d a.sd = BitVec.ofNat 64 (vatOf s d).nextBatch) ∧
      GoesOn s (launchAccept s d a false) d (((seqOf s d).pc + 1) % 65536) ∧ OnlyParts [.obs, .vs] s (launchAccept s d a false) := by
  obtain ⟨hreg, hb, hnext, hgo, honly⟩ := seqWrite_completes (batchEntered_kept s d a) hposted hstop a.sd (BitVec.ofNat 64 (vatOf s d).nextBatch)
  rw [launchAccept_eq]
  refine ⟨by rw [hb, batchEntered_vat], by rw [hnext, batchEntered_vat], hreg, hgo,
    (batchEntered_only s d a).andThen honly (by decide) (by decide)⟩

/-- A LAUNCH whose arguments and generation are good, and whose sequencer's writes are performed, enters a batch or waits for an entry (R214 to R221). -/
theorem launchTry_eq {d : Nat} (hinv : (launchArgs s d w).invalid = false) (htag : ∀ g, (launchArgs s d w).tag = some g → staleTag s d g = false ∧
      (bankHolding s d (bits (launchArgs s d w).context 27 24) (bits (launchArgs s d w).context 63 32)).isSome = true)
    (hout : writesOut s (· == .sequencer d) = false) : launchTry s d w =
      if 64 ≤ (vatOf s d).batches.length then modSeq s d fun q => { q with state := 3, wait := q.wait.orElse (fun _ => some (.launch s.now)) }
      else launchAccept s d (launchArgs s d w) false := by
  unfold launchTry
  extract_lets a stale
  have hstale : stale = false := by
    simp only [stale]
    cases ht : a.tag with
    | none => rfl
    | some g => exact (htag g ht).1
  have hheld : ¬ (a.tag.isSome && !stale && (bankHolding s d (bits a.context 27 24) (bits a.context 63 32)).isNone) = true := by
    cases ht : a.tag with
    | none => simp
    | some g =>
      have hb : (bankHolding s d (bits a.context 27 24) (bits a.context 63 32)).isSome = true := (htag g ht).2
      simp [Option.ne_none_iff_isSome.mpr hb]
  have hinv' : ¬ a.invalid = true := by rw [show a.invalid = false from hinv]; decide
  rw [if_neg hinv', if_neg hheld, if_neg (by simp [hout]), hstale]

/-! ### BWAIT and the completion of a batch -/

theorem bwaitDone_frees {s u : State} {d : Nat} (hkept : VatKept s u d) (hposted : (seqOf s d).posted = none) (hstop : (seqOf s d).stopping = false)
    (b : Batch) (sd since : Nat) : (sd ≠ 0 → sreg (bwaitDone u d b sd since) d sd = BitVec.ofNat 64 b.status) ∧
      (vatOf (bwaitDone u d b sd since) d).batches = (vatOf u d).batches.filter (fun y => y.num != b.num) ∧
      GoesOn s (bwaitDone u d b sd since) d (((seqOf s d).pc + 1) % 65536) ∧ OnlyParts [.obs, .vs] u (bwaitDone u d b sd since) := by
  unfold bwaitDone
  extract_lets x y
  obtain ⟨hseq, hfib, hvats, hcells⟩ := hkept
  have hx : VatKept s x d := by
    obtain ⟨hseq', hfib', hvats', hcells'⟩ := vatKept_modVat u d (f := fun v => { v with batches := v.batches.filter (fun x => x.num != b.num) }) rfl rfl
    exact ⟨hseq'.trans hseq, hfib'.trans hfib, fun j hj => (hvats' j hj).trans (hvats j hj), hcells'.trans hcells⟩
  have hyx : OnlyParts [.obs] x y := waitEvent_only _ _ _ _ _ _
  have hy : VatKept s y d := hx.trans_vs (hyx .vs rfl)
  obtain ⟨hreg, hb, -, hgo, honly⟩ := seqWrite_completes hy hposted hstop sd (BitVec.ofNat 64 b.status)
  have hux : OnlyParts [.vs] u x := onlyParts_of_keeps (modVat_keeps (Keeps.refl _ u) rfl)
  refine ⟨hreg, ?_, hgo, ((hux.andThen hyx (n := [.obs, .vs]) (by decide) (by decide))).andThen honly (by decide) (by decide)⟩
  rw [hb, vatOf_of_vs (hyx .vs rfl)]
  exact congrArg Vat.batches (vatOf_modVat_self ..)

section
variable {b : Batch} (h : Executes s v.val 0x31 w)
  (hb : (vatOf s v.val).batches.find? (fun b => b.num == (sreg s v.val (fB w)).toNat && !b.detached) = some b)
include h hb

theorem bwait_takes (hdone : b.done = true) : ∃ t, exec (.seqBwait v) s = .next t ∧ (fA w ≠ 0 → sreg t v.val (fA w) = BitVec.ofNat 64 b.status) ∧
    (vatOf t v.val).batches = (vatOf s v.val).batches.filter (fun y => y.num != b.num) ∧ GoesOn s t v.val (((seqOf s v.val).pc + 1) % 65536) ∧
    OnlyParts [.obs, .vs] s t := by
  obtain ⟨hposted, hstop⟩ := executes_not_ending h
  show ∃ t, execSeqBwait v s = .next t ∧ _
  unfold execSeqBwait
  rw [seqStep_of_executes h]
  dsimp only
  rw [hb]
  dsimp only
  rw [if_pos hdone]
  exact ⟨_, rfl, bwaitDone_frees (.of_vs rfl _) hposted hstop ..⟩

theorem bwait_polls (hdone : b.done = false) (hpoll : bitAt w 15 = true) : ∃ t, exec (.seqBwait v) s = .next t ∧
    (fA w ≠ 0 → sreg t v.val (fA w) = BitVec.ofNat 64 b.status) ∧ (vatOf t v.val).batches = (vatOf s v.val).batches ∧
    GoesOn s t v.val (((seqOf s v.val).pc + 1) % 65536) ∧ OnlyParts [.obs, .vs] s t := by
  obtain ⟨hposted, hstop⟩ := executes_not_ending h
  show ∃ t, execSeqBwait v s = .next t ∧ _
  unfold execSeqBwait
  rw [seqStep_of_executes h]
  dsimp only
  rw [hb]
  dsimp only
  rw [if_neg (by simp [hdone]), if_pos hpoll]
  have honly' := waitEvent_only s v.val 0x10 0 s.now (sreg s v.val (fB w)).toNat
  obtain ⟨hreg, hbs, -, hgo, honly⟩ := seqWrite_completes (.of_vs (honly' .vs rfl) v.val) hposted hstop (fA w) (BitVec.ofNat 64 b.status)
  exact ⟨_, rfl, hreg, hbs.trans (by rw [vatOf_of_vs (honly' .vs rfl)]), hgo, honly'.andThen honly (by decide) (by decide)⟩

theorem bwait_waits (hdone : b.done = false) (hpoll : bitAt w 15 = false) : ∃ t, exec (.seqBwait v) s = .next t ∧ (seqOf t v.val).state = 3 ∧
    (seqOf t v.val).wait = some (.batch (sreg s v.val (fB w)).toNat (fA w) (bitAt w 14) s.now) ∧ OnlyParts [.vs] s t := by
  show ∃ t, execSeqBwait v s = .next t ∧ _
  unfold execSeqBwait
  rw [seqStep_of_executes h]
  dsimp only
  rw [hb]
  dsimp only
  rw [if_neg (by simp [hdone]), if_neg (by simp [hpoll])]
  exact ⟨_, rfl, by simp, by simp, onlyParts_of_keeps (modSeq_keeps (Keeps.refl _ s) rfl)⟩
end

/-- The state in which a batch has been marked complete: gone where it is detached (R222). -/
def batchDone (s : State) (d : Nat) (b : Batch) : State :=
  let u := event s (schedTile d) 6 7 (vatOwner s.cfg d) (b.num * 2 ^ 32 + b.faulted % 2 ^ 24)
  if b.detached then modVat u d fun v => { v with batches := v.batches.filter (fun x => x.num != b.num) }
  else modBatch u d b.num (fun _ => { b with done := true })

theorem batchDone_only (s : State) (d : Nat) (b : Batch) : OnlyParts [.obs, .vs] s (batchDone s d b) := by
  unfold batchDone
  extract_lets u
  have hu : OnlyParts [.obs] s u := onlyParts_of_keeps (event_keeps (Keeps.refl _ s) rfl)
  split
  · exact hu.andThen (onlyParts_of_keeps (l := [.vs]) (modVat_keeps (Keeps.refl _ u) rfl)) (by decide) (by decide)
  · exact hu.andThen (onlyParts_of_keeps (l := [.vs]) (modBatch_keeps (Keeps.refl _ u) rfl)) (by decide) (by decide)

theorem batchDone_kept (s : State) (d : Nat) (b : Batch) : VatKept s (batchDone s d b) d := by
  unfold batchDone
  extract_lets u
  have hu : VatKept s u d := .of_vs (event_vs ..) d
  obtain ⟨hseq, hfib, hvats, hcells⟩ := hu
  split
  · obtain ⟨hseq', hfib', hvats', hcells'⟩ := vatKept_modVat u d (f := fun v => { v with batches := v.batches.filter (fun x => x.num != b.num) }) rfl rfl
    exact ⟨hseq'.trans hseq, hfib'.trans hfib, fun j hj => (hvats' j hj).trans (hvats j hj), hcells'.trans hcells⟩
  · obtain ⟨hseq', hfib', hvats', hcells'⟩ := vatKept_modVat u d
      (f := fun v => { v with batches := v.batches.map fun c => if c.num = b.num then { b with done := true } else c }) rfl rfl
    exact ⟨hseq'.trans hseq, hfib'.trans hfib, fun j hj => (hvats' j hj).trans (hvats j hj), hcells'.trans hcells⟩

theorem batchDone_detached {d : Nat} {b : Batch} (h : b.detached = true) :
    (vatOf (batchDone s d b) d).batches = (vatOf s d).batches.filter (fun y => y.num != b.num) := by
  unfold batchDone
  extract_lets u
  rw [if_pos h, vatOf_modVat_self, vatOf_of_vs (event_vs ..)]

theorem batchDone_kept_batch {d : Nat} {b : Batch} (h : b.detached = false) (hb : b ∈ (vatOf s d).batches) :
    ({ b with done := true } : Batch) ∈ (vatOf (batchDone s d b) d).batches := by
  unfold batchDone
  extract_lets u
  rw [if_neg (by simp [h]), vatOf_modBatch, vatOf_of_vs (event_vs ..)]
  exact List.mem_map.mpr ⟨b, hb, if_pos rfl⟩

section
variable {n : BitVec 16} {b : Batch} (hb : (vatOf s v.val).batches.find? (fun b => b.num == n.toNat && !b.done) = some b) (hend : b.total ≤ b.ended)
  (hout : writesOut s (fun o => match o with | .fibre d _ _ k _ _ => d == v.val && k == b.num | _ => false) = false)
include hb hend hout

theorem batchComplete_eq : execBatchComplete v n s =
    match (seqOf (batchDone s v.val b) v.val).wait with
    | some (.batch h sd _ since) =>
      if h = b.num && !b.detached then .next (bwaitDone (batchDone s v.val b) v.val { b with done := true } sd since) else .next (batchDone s v.val b)
    | _ => .next (batchDone s v.val b) := by
  unfold execBatchComplete
  extract_lets d
  rw [show (vatOf s d).batches.find? (fun b => b.num == n.toNat && !b.done) = some b from hb]
  dsimp only
  rw [if_neg]
  · rfl
  · rw [Bool.or_eq_true, not_or]
    exact ⟨by simpa using hend, by rw [Bool.not_eq_true]; exact hout⟩

theorem batchComplete_detached (hd : b.detached = true) : execBatchComplete v n s = .next (batchDone s v.val b) := by
  rw [batchComplete_eq hb hend hout]
  split
  · exact if_neg (by simp [hd])
  · rfl

theorem batchComplete_unawaited (hno : ∀ h sd nl a, (seqOf s v.val).wait ≠ some (.batch h sd nl a)) :
    execBatchComplete v n s = .next (batchDone s v.val b) := by
  rw [batchComplete_eq hb hend hout, (batchDone_kept s v.val b).1]
  split
  next h sd nl a heq => exact absurd heq (hno h sd nl a)
  next => rfl

theorem batchComplete_awaited {sd a : Nat} {nl : Bool} (hd : b.detached = false) (hw : (seqOf s v.val).wait = some (.batch b.num sd nl a)) :
    execBatchComplete v n s = .next (bwaitDone (batchDone s v.val b) v.val { b with done := true } sd a) := by
  rw [batchComplete_eq hb hend hout, (batchDone_kept s v.val b).1, hw]
  exact if_pos (by simp [hd])
end
end

/-- Settles O53: each instruction sends or enters what it asks for, and either completes through `seqNext` or leaves its wait behind. -/
theorem sequencerAccessesComplete : Obligations.SequencerAccessesComplete := by
  unfold Obligations.SequencerAccessesComplete
  intro s v w
  refine ⟨?_, ?_, ?_, ?_, ?_, ?_, ?_, ?_, ?_, ?_⟩
  · rintro a r rfl hok hr
    refine ⟨fun h => ld_asks h hok hr, fun h hcell hroom => st_sends h hok hr hcell hroom, ?_⟩
    rintro h ⟨d, c, o, rfl⟩ hset
    exact st_cell_traps h hok hr hset
  · exact fun c hc hset => ⟨fun h => ld_traps h hc hset, fun h => st_traps h hc hset⟩
  · exact fun a sd data hw hposted hstop => ldData_completes hw hposted hstop
  · exact fun a pay ph die c off h ha hpay hph hm hr => sync_sends h ha hm hr hpay hph
  · exact fun h => ⟨fence_goes h, fence_waits h⟩
  · rintro a n g off sl h ha hn rfl hr hfit h1 hmax hbad hout
    exact mcast_sends h ha hn hr hfit h1 hmax hbad hout
  · rintro g c h rfl rfl hdown
    exact ⟨fun hsat => mcwait_goes h hdown hsat, fun hsat => mcwait_waits h hdown hsat⟩
  · rintro a rfl hinv htag hout
    have htry := launchTry_eq hinv htag hout
    refine ⟨fun h hroom => ?_, fun h hfull => ?_, fun since hw hwd hposted hstop hroom => ?_⟩
    · obtain ⟨hposted, hstop⟩ := executes_not_ending h
      obtain ⟨hbs, hnext, hreg, hgo, honly⟩ := launchAccept_enters (launchArgs s v.val w) hposted hstop
      rw [if_neg (by omega)] at htry
      refine ⟨_, launchedBatch s v.val (launchArgs s v.val w),
        (seqStep_of_executes h (launchTry · v.val ·)).trans (congrArg _ htry), hbs, rfl, rfl, rfl, rfl, rfl, rfl, rfl, rfl, rfl, hnext, hreg, hgo, honly⟩
    · have hwait := h.2.1
      rw [if_pos hfull] at htry
      refine ⟨_, (seqStep_of_executes h (launchTry · v.val ·)).trans (congrArg _ htry), by simp, by simp [hwait], by simp,
        onlyParts_of_keeps (modSeq_keeps (Keeps.refl _ s) rfl)⟩
    · subst hwd
      obtain ⟨hbs, -, -, hgo, honly⟩ := launchAccept_enters (launchArgs s v.val ((seqOf s v.val).prog.getD (seqOf s v.val).pc 0).toNat) hposted hstop
      rw [if_neg (by omega)] at htry
      refine ⟨_, launchedBatch s v.val (launchArgs s v.val ((seqOf s v.val).prog.getD (seqOf s v.val).pc 0).toNat), (?_ : execLaunchResume v s = _),
        hbs, rfl, rfl, hgo, honly⟩
      unfold execLaunchResume
      extract_lets d q
      rw [show q.wait = _ from hw]
      dsimp only
      rw [if_pos hroom]
      exact congrArg _ htry
  · exact fun b h hb => ⟨fun hd => bwait_takes h hb hd, fun hd hp => bwait_polls h hb hd hp, fun hd hp => bwait_waits h hb hd hp⟩
  · intro n b hb hend hout
    refine ⟨fun hd => ⟨_, batchComplete_detached hb hend hout hd, batchDone_detached hd, batchDone_only _ _ _⟩, fun hd hno => ?_, fun sd nl a hd hw hposted hstop => ?_⟩
    · exact ⟨_, batchComplete_unawaited hb hend hout hno, batchDone_kept_batch hd (List.mem_of_find?_eq_some hb), (batchDone_kept s v.val b).1,
        batchDone_only _ _ _⟩
    · obtain ⟨hreg, -, hgo, honly⟩ := bwaitDone_frees (batchDone_kept s v.val b) hposted hstop { b with done := true } sd a
      exact ⟨_, batchComplete_awaited hb hend hout hd hw, hreg, hgo, (batchDone_only s v.val b).andThen honly (by decide) (by decide)⟩

end Sys2Proof.Machine

/-!
PROOFS. What an op does before and after its own work: the descriptor that it begins with, the rows that it stores, its end (R103, R175 to R180).
-/
namespace Sys2Proof.Machine

set_option Elab.async false

/-! ### The op begins -/

/-- The state in which an op works: its descriptor kept with the fibre. -/
def opState (s : State) (c : OpCtx) : State := putFibre s c.d c.slice c.slot c.x

theorem opState_only (s : State) (c : OpCtx) : OnlyParts [.vs] s (opState s c) := onlyParts_of_keeps (putFibre_keeps (Keeps.refl _ s) rfl)
@[simp] theorem opState_mem (s : State) (c : OpCtx) : (opState s c).mem = s.mem := rfl
@[simp] theorem opState_integ (s : State) (c : OpCtx) : (opState s c).integ = s.integ := rfl
@[simp] theorem opState_fab (s : State) (c : OpCtx) : (opState s c).fab = s.fab := rfl
@[simp] theorem opState_now (s : State) (c : OpCtx) : (opState s c).now = s.now := rfl

theorem opState_fibre (s : State) (c : OpCtx) : fibreAt (opState s c) c.d c.slice c.slot = some c.x := fibreAt_putFibre_self ..

/-- A descriptor that has been read stays with the fibre; nothing else of the fibre is touched before the op's own work. -/
theorem Begins.fibre {s : State} {x : Fibre} {c : OpCtx} (h : Begins s x c) : ∃ b, c.x = { x with desc := b } := by
  obtain ⟨-, -, -, -, -, hdesc, -⟩ := h
  rcases hdesc with ⟨-, -, hx⟩ | ⟨-, hx⟩
  · exact ⟨_, hx⟩
  · exact ⟨x.desc, hx⟩

/-- The descriptor's bytes: those in the home slice, or those read before (R103, R175). -/
theorem Begins.reads {s : State} {x : Fibre} {c : OpCtx} (h : Begins s x c) :
    (x.desc.isEmpty && badRange s (c.home + (x.program + 64 * x.opIndex)) 64) = false ∧
      { x with desc := if x.desc.isEmpty then readMem s (c.home + (x.program + 64 * x.opIndex)) 64 else x.desc } = c.x := by
  obtain ⟨-, -, -, -, -, hdesc, -⟩ := h
  rcases hdesc with ⟨hnil, hgood, hx⟩ | ⟨hcons, hx⟩
  · simp [hnil, hgood, hx]
  · simp [hcons, hx]

/-- A fibre whose op may go on, and whose descriptor passes its checks, does the op's own work (R103, R175 to R179). -/
theorem runOp_begins {s : State} {x : Fibre} {c : OpCtx} {d sl st : Nat} (h : Begins s x c) (hd : c.d = d) (hsl : c.slice = sl) (hst : c.slot = st)
    {mine : Desc → Bool} (hmine : mine c.desc = true) (f : State → OpCtx → State) :
    runOp d sl st mine f s = match c.check s with
      | some code => .next (fibreFault s d sl st code)
      | none => .next (f (opState s c) c) := by
  subst hd hsl hst
  obtain ⟨hgood, hx⟩ := h.reads
  obtain ⟨hfib, hready, hup, -, hprog, -, hraw, ha, hb, ho⟩ := h
  have hready' : (decide (x.state = 1) || (match x.wait with | some (.leaf _ _ _ _) => true | some (.watch _) => true | _ => false)) = true := by
    rcases hready with h1 | ⟨g, w, k, a, hw⟩ | ⟨a, hw⟩
    · simp [h1]
    · simp [hw]
    · simp [hw]
  unfold runOp
  split
  next hnone => exact absurd (hnone.symm.trans hfib) nofun
  next x' hx' =>
    cases hx'.symm.trans hfib
    extract_lets ready off base raw e y c'
    have hy : y = c.x := hx
    have hrawx : raw = c.x.desc := congrArg Fibre.desc hx
    have he : e = c.desc := by
      show ({ raw := leNat raw } : Desc) = c.desc
      rw [hrawx, ← hraw]
    have hc : c' = c := by
      simp only [c']
      rw [hy, he, ← ha, ← hb, ← ho]
    have hgood' : (x.desc.isEmpty && badRange s (base + off) 64) = false := hgood
    have hoff : off + 64 ≤ 0x180000 := hprog
    have hr : ready = true := hready'
    rw [if_neg (by simp [hr, hup]), if_neg (by omega), if_neg (by simp [hgood']), if_neg (by simp [he, hmine]), hc, hy]
    rfl

/-- The fibre goes on with its next op (R103). -/
theorem Begins.finishes {s w : State} {x : Fibre} {c : OpCtx} (h : Begins s x c) (hw : fibreAt w c.d c.slice c.slot = some c.x) :
    Resumed (c.finish w) c.d c.slice c.slot x x.regs ∧ OnlyParts [.obs, .vs] w (c.finish w) := by
  obtain ⟨b, hx⟩ := h.fibre
  obtain ⟨-, -, -, hidx, -⟩ := h
  rw [hx] at hw
  exact ⟨finishOp_resumes (x := { x with desc := b }) hw hidx, finishOp_only (x := { x with desc := b }) hw hidx⟩

/-! ### Rows of bytes stored -/

/-- The state in which rows of bytes have been stored from an address at a pitch. -/
def storeRows (s : State) (o stride : Nat) (rows : List Bytes) : State :=
  rows.zipIdx.foldl (fun s r => writeClean s (o + r.2 * stride) r.1) s

theorem writeClean_mem (s : State) (a : Nat) (b : Bytes) : (writeClean s a b).mem = memWrite s.mem a b := rfl

theorem foldl_writeClean_mem (f : Bytes × Nat → Nat) (l : List (Bytes × Nat)) (s : State) :
    (l.foldl (fun s r => writeClean s (f r) r.1) s).mem = l.foldl (fun m r => memWrite m (f r) r.1) s.mem := by
  induction l generalizing s with
  | nil => rfl
  | cons r l ih => rw [List.foldl_cons, List.foldl_cons, ih, writeClean_mem]

theorem memGet_foldl_memWrite (f : Bytes × Nat → Nat) (l : List (Bytes × Nat)) (a : Nat) (h : ∀ r ∈ l, a < f r ∨ f r + r.1.length ≤ a) (m : List (Nat × Byte)) :
    memGet (l.foldl (fun m r => memWrite m (f r) r.1) m) a = memGet m a := by
  induction l generalizing m with
  | nil => rfl
  | cons r l ih =>
    rw [List.foldl_cons, ih fun x hx => h x (List.mem_cons_of_mem _ hx), memGet_memWrite_out _ _ _ _ (h r List.mem_cons_self)]

theorem storeRows_stored (s : State) (o stride : Nat) (rows : List Bytes) : RowsStored s (storeRows s o stride rows) o stride rows := by
  refine ⟨foldl_writeClean_mem (fun r => o + r.2 * stride) _ s, fun a ha => ?_⟩
  rw [storeRows, foldl_writeClean_mem]
  refine memGet_foldl_memWrite _ _ _ (fun r hr => ha r.2 r.1 ?_) _
  exact List.mem_zipIdx_iff_getElem?.mp hr

theorem storeRows_only (s : State) (o stride : Nat) (rows : List Bytes) : OnlyParts [.integ, .mem] s (storeRows s o stride rows) := by
  unfold storeRows
  exact onlyParts_of_keeps (keeps_foldl (fun _ _ h => writeClean_keeps h rfl rfl) _ (Keeps.refl _ s))

/-- What has been stored is read from memory alone. -/
theorem RowsStored.congr {s s' t t' : State} {o stride : Nat} {rows : List Bytes} (h : RowsStored s t o stride rows) (hs : s'.mem = s.mem)
    (ht : t'.mem = t.mem) : RowsStored s' t' o stride rows := by
  obtain ⟨hmem, hout⟩ := h
  exact ⟨by rw [ht, hs, hmem], fun a ha => by rw [ht, hs, hout a ha]⟩

theorem foldl_congr_mem {α β : Type} {f g : β → α → β} {l : List α} (h : ∀ b, ∀ a ∈ l, f b a = g b a) {b : β} : l.foldl f b = l.foldl g b := by
  induction l generalizing b with
  | nil => rfl
  | cons a l ih => rw [List.foldl_cons, List.foldl_cons, h b a List.mem_cons_self, ih fun b x hx => h b x (List.mem_cons_of_mem _ hx)]

/-- Results of which none faults are stored as the bytes of their rows (R180). -/
theorem store_good (c : OpCtx) (u : State) {rows : List (List (Option Nat))} (hall : (rows.all fun l => l.all (·.isSome)) = true) :
    c.store u rows = c.finish (storeRows u c.o c.desc.strideOut ((rows.map fun l => l.map (·.getD 0)).map (packElems c.desc.fmtOut))) := by
  have hbad : rows.any (fun r => r.any (·.isNone)) = false := by
    rw [List.any_eq_false]
    intro l hl hany
    obtain ⟨y, hy, hnone⟩ := List.any_eq_true.mp hany
    have hsome := List.all_eq_true.mp (List.all_eq_true.mp hall l hl) y hy
    rw [Option.isNone_iff_eq_none.mp hnone] at hsome
    cases hsome
  unfold OpCtx.store storeRows
  extract_lets e bad w
  have hb : bad = false := hbad
  rw [if_neg (by simp [hb]), List.map_map, List.zipIdx_map, List.foldl_map]
  refine congrArg c.finish (foldl_congr_mem fun a r hr => ?_)
  have hmem : r.1 ∈ rows := List.fst_mem_of_mem_zipIdx hr
  have hrow : (r.1.all fun y => y.isSome) = true := List.all_eq_true.mp hall r.1 hmem
  dsimp only
  rw [if_neg (by simp [hb])]
  dsimp only
  rw [writeElems, if_pos hrow]
  rfl

/-- An op that has stored its results in a state whose memory and fibre are those in which it began (R103, R180). -/
theorem Begins.stores {s w : State} {x : Fibre} {c : OpCtx} (h : Begins s x c) (hw : OnlyParts [.vs] s w) (hx : fibreAt w c.d c.slice c.slot = some c.x)
    {rows : List (List (Option Nat))} (hall : (rows.all fun l => l.all (·.isSome)) = true) :
    Computed s (c.store w rows) x c (rows.map fun l => l.map (·.getD 0)) := by
  rw [store_good c w hall]
  have honly := storeRows_only w c.o c.desc.strideOut ((rows.map fun l => l.map (·.getD 0)).map (packElems c.desc.fmtOut))
  obtain ⟨hres, hfin⟩ := h.finishes ((fibreAt_of_vs (honly .vs rfl) ..).trans hx)
  exact ⟨(storeRows_stored ..).congr (hw .mem rfl).symm (hfin .mem rfl), hres,
    (hw.andThen honly (n := [.integ, .mem, .vs]) (by decide) (by decide)).andThen hfin (by decide) (by decide)⟩

/-! ### Compute ops -/

theorem badInput_congr (c : OpCtx) {s t : State} (h : t.integ = s.integ) : c.badInput t = c.badInput s := by
  unfold OpCtx.badInput badRange
  rw [h]

section
variable {s : State} {x : Fibre} {c : OpCtx} {d sl st : Nat} (h : Begins s x c) (hd : c.d = d) (hsl : c.slice = sl) (hst : c.slot = st)
  (hcheck : c.check s = none)
include h hd hsl hst hcheck

theorem runOp_works {mine : Desc → Bool} (hmine : mine c.desc = true) (f : State → OpCtx → State) :
    runOp d sl st mine f s = .next (f (opState s c) c) := by
  rw [runOp_begins h hd hsl hst hmine, hcheck]

/-- A compute op whose inputs are good and none of whose elements faults writes its results. -/
theorem op_computes (hbad : c.badInput s = none) {i : Instr} {mine : Desc → Bool} (hmine : mine c.desc = true)
    {f : OpCtx → State → State × List (List (Option Nat))} (hi : exec i s = runOp d sl st mine (fun s c => c.compute s (f c)) s) {w : State}
    {rows : List (List (Option Nat))} (hf : f c (opState s c) = (w, rows)) (hw : OnlyParts [.vs] (opState s c) w)
    (hx : fibreAt w c.d c.slice c.slot = some c.x) (hall : (rows.all fun l => l.all (·.isSome)) = true) :
    ∃ t, exec i s = .next t ∧ Computed s t x c (rows.map fun l => l.map (·.getD 0)) := by
  refine ⟨c.store w rows, ?_, h.stores ((opState_only s c).andThen hw (by decide) (by decide)) hx hall⟩
  rw [hi, runOp_works h hd hsl hst hcheck hmine, OpCtx.compute, badInput_congr c (opState_integ s c), hbad]
  dsimp only
  rw [hf]
end

/-! ### Rows of elements -/

theorem rowElems_length (fmt n : Nat) (b : Bytes) : (rowElems fmt n b).length = n := by
  unfold rowElems
  split <;> simp

/-- The rows of an operand are those that the statements name (R152, R153). -/
theorem rowsOf_eq {s u : State} (h : u.mem = s.mem) (a rows stride fmt n : Nat) :
    OpCtx.rowsOf u a rows stride fmt n = (List.range rows).map (operandRow s a stride fmt n) := by
  unfold OpCtx.rowsOf readRows readMem
  rw [h, List.map_map]
  rfl

/-- A row, element by element. -/
theorem operandRow_eq (s : State) (a stride fmt n i : Nat) : operandRow s a stride fmt n i = (List.range n).map (elementAt s a stride fmt n i) := by
  have hlen : (operandRow s a stride fmt n i).length = n := rowElems_length ..
  refine List.ext_getElem (by simp [hlen]) fun j hj _ => ?_
  simp [elementAt, List.getD_eq_getElem?_getD, hj]

/-- A whole row of plain results. -/
theorem all_map_some (l : List (List Nat)) : ((l.map fun r => r.map some).all fun r => r.all (·.isSome)) = true := by simp

theorem map_getD_map_some (l : List (List Nat)) : ((l.map fun r => r.map some).map fun r => r.map (·.getD 0)) = l := by
  simp [Function.comp_def]

end Sys2Proof.Machine

/-!
PROOFS. ELTWISE, element by element (R156 to R160, R166, R169, R184, R192 to R194).
-/
namespace Sys2Proof.Machine

set_option Elab.async false

/-- Two lists over the same range, place by place. -/
theorem zip_map_range {α β : Type} (n : Nat) (f : Nat → α) (g : Nat → β) :
    ((List.range n).map f).zip ((List.range n).map g) = (List.range n).map fun i => (f i, g i) := List.zip_map' ..

section
variable {s : State} {x : Fibre} {c : OpCtx} {d sl st : Nat} (h : Begins s x c) (hd : c.d = d) (hsl : c.slice = sl) (hst : c.slot = st)
  (hcheck : c.check s = none) (hop : c.desc.opcode = 6) (hbad : c.badInput s = none)
include h hd hsl hst hcheck hop hbad

omit hop in
/-- An ELTWISE of plain results, which draws nothing and counts nothing. -/
theorem eltwise_writes {i : Instr} {mine : Desc → Bool} (hmine : mine c.desc = true) {f : OpCtx → State → State × List (List (Option Nat))}
    (hi : exec i s = runOp d sl st mine (fun s c => c.compute s (f c)) s) {r : List (List (Option Nat))}
    (hf : f c (opState s c) = (opState s c, r)) (hall : (r.all fun l => l.all (·.isSome)) = true) :
    ∃ t, exec i s = .next t ∧ Computed s t x c (r.map fun l => l.map (·.getD 0)) :=
  op_computes h hd hsl hst hcheck hbad hmine hi hf (onlyParts_of_keeps (Keeps.refl _ _)) (opState_fibre s c) hall

/-- An elementwise function of A, B and the prior output, each widened to FP32 (R184). -/
theorem elementwise_writes {fn : Nat} (hfn : c.desc.func = fn) {i : Instr} {f : Desc → Nat → Nat → Nat → Nat} (hi : exec i s = eltwise d sl st fn f s)
    {g : Nat → Nat → Nat → Nat} (hg : ∀ a b p, f c.desc a b p = g a b p) : ∃ t, exec i s = .next t ∧ Computed s t x c (elementRows s c g) := by
  have hrows : c.elementwise f (opState s c) = (opState s c, (elementRows s c g).map fun r => r.map some) := by
    have hmem := opState_mem s c
    unfold OpCtx.elementwise OpCtx.prior
    dsimp only
    rw [rowsOf_eq hmem, rowsOf_eq hmem, rowsOf_eq hmem]
    refine congrArg (Prod.mk _) ?_
    by_cases hbin : isBinary c.desc.func = true
    · simp only [hbin, if_true, zip_map_range, List.map_map, elementRows, Function.comp_def, operandRow_eq, hg]
    · simp only [hbin, Bool.false_eq_true, if_false, zip_map_range, List.map_map, elementRows, Function.comp_def, operandRow_eq, hg]
  have hex := eltwise_writes h hd hsl hst hcheck hbad (mine := fun e => e.opcode == 6 && e.func == fn) (by simp [hop, hfn])
    (f := fun c => c.elementwise f) hi hrows (all_map_some _)
  rwa [map_getD_map_some] at hex

/-- Each element of A is converted by itself (R156, R166, R169). -/
theorem eltwiseMap_writes {i : Instr} {mine : Desc → Bool} (hmine : mine c.desc = true) {f : OpCtx → State → State × List (List (Option Nat))}
    (hi : exec i s = runOp d sl st mine (fun s c => c.compute s (f c)) s) {g : Nat → Option Nat} (hf : ∀ u, f c u =
      (u, (OpCtx.rowsOf u c.a c.desc.dim0 c.desc.strideA c.desc.fmtA c.desc.dim1).map fun r => r.map g))
    {r : List (List (Option Nat))} (hr : r = (List.range c.desc.dim0).map fun i => (operandRow s c.a c.desc.strideA c.desc.fmtA c.desc.dim1 i).map g)
    (hall : (r.all fun l => l.all (·.isSome)) = true) : ∃ t, exec i s = .next t ∧ Computed s t x c (r.map fun l => l.map (·.getD 0)) := by
  refine eltwise_writes h hd hsl hst hcheck hbad hmine hi ?_ hall
  rw [hf, rowsOf_eq (opState_mem s c), List.map_map, hr]
  rfl
end

/-- ELTWISE_COPY's work. -/
def copyRows (c : OpCtx) (s : State) : State × List (List (Option Nat)) :=
  (s, (OpCtx.rowsOf s c.a c.desc.dim0 c.desc.strideA c.desc.fmtA c.desc.dim1).map fun r => r.map (convertElem c.desc.fmtA c.desc.fmtOut c.desc.sat))

/-- ELTWISE_REQUANT's work. -/
def requantRows (c : OpCtx) (s : State) : State × List (List (Option Nat)) :=
  (s, (OpCtx.rowsOf s c.a c.desc.dim0 c.desc.strideA c.desc.fmtA c.desc.dim1).map fun r =>
    r.map fun y => some (requant c.desc.imm c.desc.fmtA c.desc.fmtOut y))

/-- Settles O50: each FUNC's command computes with `elementwise`, or converts or requantises each element of A. -/
theorem elementwiseOpsComplete : Obligations.ElementwiseOpsComplete := by
  unfold Obligations.ElementwiseOpsComplete
  intro s v sl st x c h hd hsl hst hcheck hop hbad
  refine ⟨?_, ?_, ?_, ?_, ?_, ?_, ?_, ?_, ?_, ?_, ?_, ?_, ?_, ?_, ?_, ?_, ?_, ?_, ?_, ?_⟩
  · intro r hfn hr hall
    exact eltwiseMap_writes h hd hsl hst hcheck hop hbad (mine := fun e => e.opcode == 6 && (e.func == 0 || eltReserved e.func)) (by simp [hop, hfn])
      (f := copyRows) rfl (fun _ => rfl) hr hall
  · exact fun hfn => elementwise_writes h hd hsl hst hcheck hop hbad hfn (f := fun _ a b _ => fp32Add a b) rfl fun _ _ _ => rfl
  · exact fun hfn => elementwise_writes h hd hsl hst hcheck hop hbad hfn (f := fun _ a b _ => fp32Sub a b) rfl fun _ _ _ => rfl
  · exact fun hfn => elementwise_writes h hd hsl hst hcheck hop hbad hfn (f := fun _ a b _ => fp32Mul a b) rfl fun _ _ _ => rfl
  · exact fun hfn => elementwise_writes h hd hsl hst hcheck hop hbad hfn (f := fun e a b p => fp32Fma a b (if e.acc then p else 0)) rfl fun _ _ _ => rfl
  · exact fun hfn => elementwise_writes h hd hsl hst hcheck hop hbad hfn (f := fun _ a b _ => fp32Min a b) rfl fun _ _ _ => rfl
  · exact fun hfn => elementwise_writes h hd hsl hst hcheck hop hbad hfn (f := fun _ a b _ => fp32Max a b) rfl fun _ _ _ => rfl
  · exact fun hfn => elementwise_writes h hd hsl hst hcheck hop hbad hfn (f := fun _ a _ _ => fp32Abs a) rfl fun _ _ _ => rfl
  · exact fun hfn => elementwise_writes h hd hsl hst hcheck hop hbad hfn (f := fun _ a _ _ => fp32Neg a) rfl fun _ _ _ => rfl
  · exact fun hfn => elementwise_writes h hd hsl hst hcheck hop hbad hfn (f := fun _ a _ _ => fp32Relu a) rfl fun _ _ _ => rfl
  · exact fun hfn => elementwise_writes h hd hsl hst hcheck hop hbad hfn
      (f := fun e a _ _ => fp32Fma a (bits e.imm 31 0) (bits e.imm 63 32)) rfl fun _ _ _ => rfl
  · intro hfn
    have hex := eltwiseMap_writes h hd hsl hst hcheck hop hbad (mine := fun e => e.opcode == 6 && e.func == 0x0B) (by simp [hop, hfn])
      (i := .eltwiseRequant v sl st) (f := requantRows) rfl (fun _ => rfl) rfl (by simp)
    simpa [Function.comp_def] using hex
  · exact fun hfn => elementwise_writes h hd hsl hst hcheck hop hbad hfn (f := fun _ a _ _ => fnEval 0x10 a) rfl fun _ _ _ => rfl
  · exact fun hfn => elementwise_writes h hd hsl hst hcheck hop hbad hfn (f := fun _ a _ _ => fnEval 0x11 a) rfl fun _ _ _ => rfl
  · exact fun hfn => elementwise_writes h hd hsl hst hcheck hop hbad hfn (f := fun _ a _ _ => fnEval 0x12 a) rfl fun _ _ _ => rfl
  · exact fun hfn => elementwise_writes h hd hsl hst hcheck hop hbad hfn (f := fun _ a _ _ => fnEval 0x13 a) rfl fun _ _ _ => rfl
  · exact fun hfn => elementwise_writes h hd hsl hst hcheck hop hbad hfn (f := fun _ a _ _ => fnEval 0x14 a) rfl fun _ _ _ => rfl
  · exact fun hfn => elementwise_writes h hd hsl hst hcheck hop hbad hfn (f := fun _ a _ _ => fnEval 0x15 a) rfl fun _ _ _ => rfl
  · exact fun hfn => elementwise_writes h hd hsl hst hcheck hop hbad hfn (f := fun _ a _ _ => fnEval 0x16 a) rfl fun _ _ _ => rfl
  · exact fun hfn => elementwise_writes h hd hsl hst hcheck hop hbad hfn (f := fun _ a _ _ => fnEval 0x17 a) rfl fun _ _ _ => rfl

end Sys2Proof.Machine

/-!
PROOFS. The ops that combine elements: MATMUL, row sums and maxima, TREE_EVAL and EMBED (R163 to R165, R167, R183 to R186).
-/
namespace Sys2Proof.Machine

set_option Elab.async false

theorem zipIdx_map_range {α : Type} (n : Nat) (f : Nat → α) : ((List.range n).map f).zipIdx = (List.range n).map fun i => (f i, i) :=
  List.ext_getElem (by simp) (by simp)

/-- What an op counts of its flags reaches no fibre (R170). -/
theorem countFlags_keeps_fibre (c : OpCtx) (u : State) (l : List ReamFlags) :
    OnlyParts [.vs] u (c.countFlags u l) ∧ fibreAt (c.countFlags u l) c.d c.slice c.slot = fibreAt u c.d c.slice c.slot :=
  ⟨onlyParts_of_keeps (modVat_keeps (Keeps.refl _ u) rfl),
    fibreAt_of_vat (show (vatOf (c.countFlags u l) c.d).fibres = (vatOf u c.d).fibres by rw [OpCtx.countFlags, vatOf_modVat_self]) ..⟩

section
variable {s : State} {x : Fibre} {c : OpCtx} {d sl st : Nat} (h : Begins s x c) (hd : c.d = d) (hsl : c.slice = sl) (hst : c.slot = st)
  (hcheck : c.check s = none)
include h hd hsl hst hcheck

/-- A compute op whose elements carry flags: the flags are counted, and the results written. -/
theorem op_flagged (hbad : c.badInput s = none) {i : Instr} {mine : Desc → Bool} (hmine : mine c.desc = true)
    {f : OpCtx → State → State × List (List (Option Nat))} (hi : exec i s = runOp d sl st mine (fun s c => c.compute s (f c)) s)
    {rows : List (List (Option Nat × ReamFlags))} (hf : f c (opState s c) = c.flagged (opState s c) rows) {r : List (List (Option Nat))}
    (hr : rows.map (fun l => l.map (·.1)) = r) (hall : (r.all fun l => l.all (·.isSome)) = true) :
    ∃ t, exec i s = .next t ∧ Computed s t x c (r.map fun l => l.map (·.getD 0)) := by
  subst hr
  obtain ⟨honly, hfib⟩ := countFlags_keeps_fibre c (opState s c) (rows.flatMap fun r => r.map (·.2))
  exact op_computes h hd hsl hst hcheck hbad hmine hi hf honly (hfib.trans (opState_fibre s c)) hall

/-! ### MATMUL -/

/-- Column j of B (R183). -/
def matmulCol (s : State) (c : OpCtx) (j : Nat) : List Nat :=
  if c.desc.transB then operandRow s c.b c.desc.strideB c.desc.fmtB c.desc.dim2 j
  else (List.range c.desc.dim2).map fun k => elementAt s c.b c.desc.strideB c.desc.fmtB c.desc.dim1 k j

omit h hd hsl hst hcheck in
theorem matmul_eq (u : State) (hmem : u.mem = s.mem) : c.matmul u = c.flagged u ((List.range c.desc.dim0).map fun i => (List.range c.desc.dim1).map fun j =>
    c.desc.matmulElem (operandRow s c.a c.desc.strideA c.desc.fmtA c.desc.dim2 i) (matmulCol s c j)
      (elementAt s c.o c.desc.strideOut c.desc.fmtOut c.desc.dim1 i j)) := by
  unfold OpCtx.matmul OpCtx.prior
  dsimp only
  have hcols : (if c.desc.transB then OpCtx.rowsOf u c.b c.desc.dim1 c.desc.strideB c.desc.fmtB c.desc.dim2
      else (List.range c.desc.dim1).map fun j =>
        (OpCtx.rowsOf u c.b c.desc.dim2 c.desc.strideB c.desc.fmtB c.desc.dim1).map fun r => r.getD j 0) = (List.range c.desc.dim1).map (matmulCol s c) := by
    by_cases htr : c.desc.transB = true
    · rw [if_pos htr, rowsOf_eq hmem]
      exact List.map_congr_left fun j _ => (if_pos htr).symm
    · rw [if_neg htr]
      refine List.map_congr_left fun j _ => ?_
      rw [matmulCol, if_neg htr, rowsOf_eq hmem, List.map_map]
      rfl
  rw [hcols, rowsOf_eq hmem, rowsOf_eq hmem, zip_map_range, zipIdx_map_range, List.map_map]
  refine congrArg (c.flagged u) (List.map_congr_left fun i _ => ?_)
  dsimp only [Function.comp_apply]
  rw [List.map_map]
  rfl

theorem matmul_computes (hop : c.desc.opcode = 5) (hbad : c.badInput s = none) {v : VatId} {slc : SliceId} {slt : SlotId} (hv : d = v.val) (hs : sl = slc.val)
    (ht : st = slt.val) {r : List (List (Option Nat))} (hr : r = (List.range c.desc.dim0).map fun i => (List.range c.desc.dim1).map fun j =>
      (c.desc.matmulElem (operandRow s c.a c.desc.strideA c.desc.fmtA c.desc.dim2 i) (matmulCol s c j)
        (elementAt s c.o c.desc.strideOut c.desc.fmtOut c.desc.dim1 i j)).1) (hall : (r.all fun l => l.all (·.isSome)) = true) :
    ∃ t, exec (.opMatmul v slc slt) s = .next t ∧ Computed s t x c (r.map fun l => l.map (·.getD 0)) := by
  subst hv hs ht
  refine op_flagged h hd hsl hst hcheck hbad (mine := fun e => e.opcode == 5) (by simp [hop]) (f := fun c => c.matmul) rfl
    (matmul_eq _ (opState_mem s c)) ?_ hall
  rw [hr, List.map_map]
  refine List.map_congr_left fun i _ => ?_
  rw [Function.comp_apply, List.map_map]
  rfl

/-! ### Rows and trees -/

/-- An op that gives one element for each row of A and the prior output of that row (R165, R167, R184, R185). -/
theorem rowOp_computes (hbad : c.badInput s = none) {i : Instr} {mine : Desc → Bool} (hmine : mine c.desc = true)
    {f : OpCtx → State → State × List (List (Option Nat))} (hi : exec i s = runOp d sl st mine (fun s c => c.compute s (f c)) s)
    {g : List Nat → Nat → Option Nat × ReamFlags} (hf : f c (opState s c) = c.flagged (opState s c)
      (((OpCtx.rowsOf (opState s c) c.a c.desc.dim0 c.desc.strideA c.desc.fmtA c.desc.dim1).zip (c.prior (opState s c) c.desc.dim0 1)).map
        fun r => [g r.1 (r.2.getD 0 0)])) {r : List (Option Nat)}
    (hr : r = (List.range c.desc.dim0).map fun i => (g (operandRow s c.a c.desc.strideA c.desc.fmtA c.desc.dim1 i)
      (elementAt s c.o c.desc.strideOut c.desc.fmtOut 1 i 0)).1) (hall : r.all (·.isSome) = true) :
    ∃ t, exec i s = .next t ∧ Computed s t x c (r.map fun y => [y.getD 0]) := by
  have hrows := hf
  rw [OpCtx.prior, rowsOf_eq (opState_mem s c), rowsOf_eq (opState_mem s c), zip_map_range, List.map_map] at hrows
  have hex := op_flagged h hd hsl hst hcheck hbad hmine hi hrows (r := r.map fun y => [y]) (by
    rw [hr, List.map_map, List.map_map]
    rfl) (by simpa using hall)
  simpa [Function.comp_def] using hex
end

/-- ELTWISE_ROW_SUM's work. -/
def rowSumRows (c : OpCtx) (s : State) : State × List (List (Option Nat)) :=
  c.flagged s (((OpCtx.rowsOf s c.a c.desc.dim0 c.desc.strideA c.desc.fmtA c.desc.dim1).zip (c.prior s c.desc.dim0 1)).map
    fun r => [c.desc.rowSum r.1 (r.2.getD 0 0)])

/-- ELTWISE_ROW_MAX's work. -/
def rowMaxRows (c : OpCtx) (s : State) : State × List (List (Option Nat)) :=
  (s, (OpCtx.rowsOf s c.a c.desc.dim0 c.desc.strideA c.desc.fmtA c.desc.dim1).map fun r =>
    [some (narrow c.desc.fmtOut c.desc.sat (((r.map (widen c.desc.fmtA)).drop 1).foldl fp32Max ((r.map (widen c.desc.fmtA)).headD 0)))])

/-- OP_TREE_EVAL's work. -/
def treeRows (c : OpCtx) (s : State) : State × List (List (Option Nat)) :=
  c.flagged s (((OpCtx.rowsOf s c.a c.desc.dim0 c.desc.strideA c.desc.fmtA c.desc.dim1).zip (c.prior s c.desc.dim0 1)).map
    fun r => [c.desc.treeSum (readRows s c.b c.desc.aux c.desc.strideB (treeBytes c.desc.dim2)) r.1 (r.2.getD 0 0)])

/-! ### EMBED -/

/-- Ranges of the home slice whose words are good are here at once (R103). -/
theorem fetch_home {c : OpCtx} {u : State} {l : List (Nat × Nat)} (h : ∀ r ∈ l, c.isHome r.1 = true ∧ badRange u r.1 r.2 = false) :
    c.fetch u l = .ready (l.map fun r => readMem u r.1 r.2) := by
  have hgood : l.find? (fun r => c.isHome r.1 && badRange u r.1 r.2) = none := by
    rw [List.find?_eq_none]
    intro r hr
    simp [(h r hr).2]
  have hhome : l.filter (fun r => !c.isHome r.1) = [] := by
    rw [List.filter_eq_nil_iff]
    intro r hr
    simp [(h r hr).1]
  unfold OpCtx.fetch
  rw [hgood]
  dsimp only
  rw [hhome]
  refine (if_pos rfl).trans (congrArg Fetch.ready (List.map_congr_left fun r hr => ?_))
  rw [if_pos (h r hr).1]

/-- One step of the walk over the indices: a row's elements from the next bytes fetched, none for index −1 (R186). -/
def lookStep (e : Desc) (acc : List (Option (List Nat)) × List Bytes) (i : Int) : List (Option (List Nat)) × List Bytes :=
  if i < 0 then (acc.1 ++ [none], acc.2) else (acc.1 ++ [some (rowElems e.fmtA e.dim1 (acc.2.headD []))], acc.2.drop 1)

theorem foldl_lookStep (e : Desc) (g : Int → Bytes) (idx : List Int) (acc : List (Option (List Nat))) (rest : List Bytes) :
    (idx.foldl (lookStep e) (acc, (idx.filter fun i => decide (0 ≤ i)).map g ++ rest)).1 =
      acc ++ idx.map fun i => if i < 0 then none else some (rowElems e.fmtA e.dim1 (g i)) := by
  induction idx generalizing acc with
  | nil => simp
  | cons i idx ih =>
    rw [List.foldl_cons, List.map_cons]
    by_cases hi : i < 0
    · rw [List.filter_cons_of_neg (by simpa using hi), lookStep, if_pos hi, if_pos hi, ih]
      simp
    · rw [List.filter_cons_of_pos (by simpa using hi), lookStep, if_neg hi, if_neg hi]
      simp only [List.map_cons, List.cons_append, List.headD_cons, List.drop_one, List.tail_cons]
      rw [ih]
      simp

/-- The state in which an EMBED has counted the missing rows. -/
def missingCounted (c : OpCtx) (u : State) (looked : List (Option (List Nat))) : State :=
  modVat u c.d fun v => { v with embedMissing := v.embedMissing + (looked.filter (·.isNone)).length }

theorem missingCounted_keeps_fibre (c : OpCtx) (u : State) (looked : List (Option (List Nat))) : OnlyParts [.vs] u (missingCounted c u looked) ∧
    fibreAt (missingCounted c u looked) c.d c.slice c.slot = fibreAt u c.d c.slice c.slot :=
  ⟨onlyParts_of_keeps (modVat_keeps (Keeps.refl _ u) rfl),
    fibreAt_of_vat (show (vatOf (missingCounted c u looked) c.d).fibres = (vatOf u c.d).fibres by rw [missingCounted, vatOf_modVat_self]) ..⟩

/-- What an EMBED makes of the rows that it has looked up. -/
def embedDone (c : OpCtx) (u : State) (looked : List (Option (List Nat))) : State :=
  let r := c.flagged (missingCounted c u looked)
    (c.desc.embed looked ((c.prior (missingCounted c u looked) 1 c.desc.dim1).headD []))
  c.store r.1 r.2

/-- The rows that an EMBED looks up (R186). -/
def lookedRows (s : State) (c : OpCtx) : List (Option (List Nat)) :=
  (c.indices s).map fun i => if i < 0 then none else some (operandRow s c.a c.desc.strideA c.desc.fmtA c.desc.dim1 i.toNat)

section
variable {s : State} {x : Fibre} {c : OpCtx} {d sl st : Nat} (h : Begins s x c) (hd : c.d = d) (hsl : c.slice = sl) (hst : c.slot = st)
  (hcheck : c.check s = none) (hop : c.desc.opcode = 8) (hbad : c.badInput s = none)
  (hidx : c.indexFault c.a c.desc.strideA (rowBytes c.desc.fmtA c.desc.dim1) (c.indices s) true = none)
  (hhome : ∀ r ∈ OpCtx.tableRanges c.a c.desc.strideA (rowBytes c.desc.fmtA c.desc.dim1) (c.indices s), c.isHome r.1 = true ∧ badRange s r.1 r.2 = false)
include h hd hsl hst hcheck hop hbad hidx hhome

/-- An EMBED whose table rows lie in the home slice writes what its FUNC makes of them and of the prior row (R186). -/
theorem embed_computes {mine : Nat → Bool} (hmine : mine c.desc.func = true) {i : Instr} (hi : exec i s = embedOp d sl st mine s)
    {r : List (List (Option Nat))}
    (hr : (c.desc.embed (lookedRows s c) (operandRow s c.o c.desc.strideOut c.desc.fmtOut c.desc.dim1 0)).map (fun l => l.map (·.1)) = r)
    (hall : (r.all fun l => l.all (·.isSome)) = true) : ∃ t, exec i s = .next t ∧ Computed s t x c (r.map fun l => l.map (·.getD 0)) := by
  subst hr
  have hind : c.indices (opState s c) = c.indices s := rfl
  have hfetch : c.fetch (opState s c) (OpCtx.tableRanges c.a c.desc.strideA (rowBytes c.desc.fmtA c.desc.dim1) (c.indices s)) =
      .ready ((OpCtx.tableRanges c.a c.desc.strideA (rowBytes c.desc.fmtA c.desc.dim1) (c.indices s)).map fun r => readMem s r.1 r.2) := fetch_home hhome
  have hlook : ((c.indices s).foldl (lookStep c.desc) ([], (OpCtx.tableRanges c.a c.desc.strideA (rowBytes c.desc.fmtA c.desc.dim1) (c.indices s)).map
      fun r => readMem s r.1 r.2)).1 = lookedRows s c := by
    rw [OpCtx.tableRanges, List.map_map]
    have hfold := foldl_lookStep c.desc (fun i => readMem s (c.a + i.toNat * c.desc.strideA) (rowBytes c.desc.fmtA c.desc.dim1)) (c.indices s) [] []
    rw [List.append_nil] at hfold
    exact hfold
  rw [hi, embedOp, runOp_works h hd hsl hst hcheck (by simp [hop, hmine])]
  dsimp only
  rw [badInput_congr c (opState_integ s c), hbad, hind, hidx]
  dsimp only
  rw [hfetch]
  show ∃ t, (.next (embedDone c (opState s c) ((c.indices s).foldl (lookStep c.desc) ([], _)).1) : Host.Outcome State Fault Refusal) = .next t ∧ _
  rw [hlook]
  obtain ⟨hu, hux⟩ := missingCounted_keeps_fibre c (opState s c) (lookedRows s c)
  have hprior : (c.prior (missingCounted c (opState s c) (lookedRows s c)) 1 c.desc.dim1).headD [] =
      operandRow s c.o c.desc.strideOut c.desc.fmtOut c.desc.dim1 0 := by
    rw [OpCtx.prior, rowsOf_eq (hu .mem rfl)]
    rfl
  obtain ⟨honly, hfib⟩ := countFlags_keeps_fibre c (missingCounted c (opState s c) (lookedRows s c))
    ((c.desc.embed (lookedRows s c) (operandRow s c.o c.desc.strideOut c.desc.fmtOut c.desc.dim1 0)).flatMap fun r => r.map (·.2))
  refine ⟨_, rfl, ?_⟩
  rw [embedDone, hprior]
  exact h.stores (((opState_only s c).andThen hu (n := [.vs]) (by decide) (by decide)).andThen honly (by decide) (by decide))
    (hfib.trans (hux.trans (opState_fibre s c))) hall

theorem embedRows_computes (hfn : c.desc.func = 0) {v : VatId} {slc : SliceId} {slt : SlotId} (hv : d = v.val) (hs : sl = slc.val) (ht : st = slt.val) :
    ∃ t, exec (.embedRows v slc slt) s = .next t ∧ Computed s t x c ((lookedRows s c).map fun r => (match r with
      | some l => l.map fun y => narrow c.desc.fmtOut c.desc.sat (widen c.desc.fmtA y)
      | none => (List.range c.desc.dim1).map fun _ => narrow c.desc.fmtOut c.desc.sat 0)) := by
  subst hv hs ht
  have hex := embed_computes h hd hsl hst hcheck hop hbad hidx hhome (mine := fun f => f == 0 || decide (3 ≤ f)) (by simp [hfn])
    (i := .embedRows v slc slt) rfl (r := ((lookedRows s c).map fun r => (match r with
      | some l => l.map fun y => narrow c.desc.fmtOut c.desc.sat (widen c.desc.fmtA y)
      | none => (List.range c.desc.dim1).map fun _ => narrow c.desc.fmtOut c.desc.sat 0)).map fun r => r.map some) ?_ (all_map_some _)
  · rwa [map_getD_map_some] at hex
  · rw [Desc.embed, if_pos hfn, plain, List.map_map, List.map_map, List.map_map]
    refine List.map_congr_left fun r _ => ?_
    cases r with
    | none => simp
    | some l => simp

theorem embedSum_computes (hfn : c.desc.func = 1) {v : VatId} {slc : SliceId} {slt : SlotId} (hv : d = v.val) (hs : sl = slc.val) (ht : st = slt.val)
    {r : List (Option Nat)} (hr : r = (List.range c.desc.dim1).map fun j => (c.desc.rowSum (((lookedRows s c).filterMap id).map fun l => l.getD j 0)
      (elementAt s c.o c.desc.strideOut c.desc.fmtOut c.desc.dim1 0 j)).1) (hall : r.all (·.isSome) = true) :
    ∃ t, exec (.embedSum v slc slt) s = .next t ∧ Computed s t x c [r.map (·.getD 0)] := by
  subst hv hs ht
  refine embed_computes h hd hsl hst hcheck hop hbad hidx hhome (mine := fun f => f == 1) (by simp [hfn]) (i := .embedSum v slc slt) rfl (r := [r]) ?_
    (by simpa using hall)
  rw [Desc.embed, if_neg (by omega), if_pos hfn, hr, List.map_singleton, List.map_map]
  rfl

theorem embedMax_computes (hfn : c.desc.func = 2) {v : VatId} {slc : SliceId} {slt : SlotId} (hv : d = v.val) (hs : sl = slc.val) (ht : st = slt.val) :
    ∃ t, exec (.embedMax v slc slt) s = .next t ∧ Computed s t x c [(List.range c.desc.dim1).map fun j => narrow c.desc.fmtOut c.desc.sat
      (match ((lookedRows s c).filterMap id).map (fun r => widen c.desc.fmtA (r.getD j 0)) with
       | [] => 0
       | a :: l => l.foldl fp32Max a)] := by
  subst hv hs ht
  have hex := embed_computes h hd hsl hst hcheck hop hbad hidx hhome (mine := fun f => f == 2) (by simp [hfn]) (i := .embedMax v slc slt) rfl
    (r := [(List.range c.desc.dim1).map fun j => narrow c.desc.fmtOut c.desc.sat
      (match ((lookedRows s c).filterMap id).map (fun r => widen c.desc.fmtA (r.getD j 0)) with
       | [] => 0
       | a :: l => l.foldl fp32Max a)].map fun r => r.map some) ?_ (all_map_some _)
  · rwa [map_getD_map_some] at hex
  · rw [Desc.embed, if_neg (by omega), if_neg (by omega)]
    simp only [plain, List.map_map, List.map_cons, List.map_nil, Function.comp_def] <;> rfl
end

/-- Settles O51: each op gathers its rows, columns, trees or looked-up rows, counts its flags, and stores its results. -/
theorem combiningOpsComplete : Obligations.CombiningOpsComplete := by
  unfold Obligations.CombiningOpsComplete
  rintro s v sl st x c e h hd hsl hst hcheck rfl
  refine ⟨?_, ?_, ?_, ?_, ?_, ?_⟩
  · intro r hop hbad hr hall
    exact matmul_computes h hd hsl hst hcheck hop hbad rfl rfl rfl hr hall
  · intro hop hfn hex hbad
    have hrow := rowOp_computes h hd hsl hst hcheck hbad (i := .eltwiseRowSum v sl st) (mine := fun e => e.opcode == 6 && e.func == 0x20) (by simp [hop, hfn])
      (f := rowSumRows) rfl (g := c.desc.rowSum) rfl rfl (by simp [Desc.rowSum, hex])
    simpa [Desc.rowSum, hex, Function.comp_def] using hrow
  · intro r hop hfn hex hbad hr hall
    exact rowOp_computes h hd hsl hst hcheck hbad (i := .eltwiseRowSum v sl st) (mine := fun e => e.opcode == 6 && e.func == 0x20) (by simp [hop, hfn])
      (f := rowSumRows) rfl (g := c.desc.rowSum) rfl (by simpa [Desc.rowSum, hex] using hr) hall
  · intro hop hfn hbad
    have hrow := op_computes h hd hsl hst hcheck hbad (i := .eltwiseRowMax v sl st) (mine := fun e => e.opcode == 6 && e.func == 0x21) (by simp [hop, hfn])
      (f := rowMaxRows) rfl (w := opState s c) (by rw [rowMaxRows, rowsOf_eq (opState_mem s c), List.map_map])
      (onlyParts_of_keeps (Keeps.refl _ _)) (opState_fibre s c) (by simp)
    simpa [Function.comp_def] using hrow
  · intro r hop hbad hr hall
    exact rowOp_computes h hd hsl hst hcheck hbad (i := .opTreeEval v sl st) (mine := fun e => e.opcode == 7) (by simp [hop]) (f := treeRows) rfl
      (g := c.desc.treeSum ((List.range c.desc.aux).map fun k => readMem s (c.b + k * c.desc.strideB) (treeBytes c.desc.dim2))) rfl hr hall
  · rintro idx rows hop rfl hbad hidx hhome rfl
    refine ⟨fun hfn => ?_, fun hfn hex => ?_, fun r hfn hex hr hall => ?_, fun hfn => ?_⟩
    · exact embedRows_computes h hd hsl hst hcheck hop hbad hidx hhome hfn rfl rfl rfl
    · have hsum := embedSum_computes h hd hsl hst hcheck hop hbad hidx hhome hfn (v := v) (slc := sl) (slt := st) rfl rfl rfl rfl (by simp [Desc.rowSum, hex])
      simpa [Desc.rowSum, hex, lookedRows, Function.comp_def] using hsum
    · refine embedSum_computes h hd hsl hst hcheck hop hbad hidx hhome hfn rfl rfl rfl (hr.trans ?_) hall
      simp [Desc.rowSum, hex, lookedRows, Function.comp_def]
    · exact embedMax_computes h hd hsl hst hcheck hop hbad hidx hhome hfn rfl rfl rfl

end Sys2Proof.Machine

/-!
PROOFS. The counterexample to the data ops' statement (R187, R298, R313). A CONTRIBUTE at the root of its group can put the group into RESYNC, which
faults the fibres that wait for a leaf context of it. The fibre that contributes is not one of them, but the statement is over every state, and a state
may list the fibre's slot twice: RESYNC then faults the second entry and frees the slot of the first.
-/
namespace Sys2Proof.Machine

set_option Elab.async false

/-- Group 0: one contributor, its tile the root, one element, one contribution a tile. -/
def rootOnlyRecord : Nat := 1 + 2 ^ 32 + 2 ^ 39 + 512 * 2 ^ 144 + nodeAt 0 0 * 2 ^ 164 + 2 ^ 176 + 2 ^ 192

/-- The contributing fibre: a CONTRIBUTE of one FP32 element at offset 0 of its slice to group 0. -/
def contributor : Fibre := { desc := leBytes 64 (9 + 8 * 2 ^ 8 + 2 ^ 304 + 2 ^ 320) }

/-- Slot 0 of slice 0 is listed twice, the second time with a wait for a leaf context; the root's first chunk is already FAULTED. -/
def slotListedTwice : State :=
  { State.reset with
    ep := { cur := { cfg := [(odKey 0x2520 1, leBytes 32 rootOnlyRecord)] } }
    vs :=
      { vats := [(0, { fibres := [(0, contributor), (0, { wait := some (.leaf 0 none 0 0) })] })]
        nodes := [(nodeAt 0 0, { ctxs := [(0, { fault := some 0x50 })] })] } }

/-- The context of the CONTRIBUTE. -/
def contributeOp : OpCtx := { d := 0, slice := 0, slot := 0, x := contributor, desc := { raw := leNat contributor.desc }, a := 0, b := 0, o := 0 }

theorem contributeOp_begins : Begins slotListedTwice contributor contributeOp :=
  ⟨by decide +kernel, .inl rfl, by decide +kernel, by decide +kernel, by decide +kernel, .inr ⟨by decide +kernel, rfl⟩, rfl, by decide +kernel,
    by decide +kernel, by decide +kernel⟩

/-- The command leaves no fibre in the slot. -/
theorem contribute_empties_slot : (match exec (.opContribute 0 0 0) slotListedTwice with
    | .next t => (fibreAt t 0 0 0).isNone
    | _ => false) = true := by decide +kernel

/-- Refutes O49: in `slotListedTwice` the contributing fibre neither goes on nor waits, because RESYNC faults the other entry of its slot. -/
theorem not_dataOpsComplete : ¬ Obligations.DataOpsComplete := by
  unfold Obligations.DataOpsComplete
  intro h
  obtain ⟨-, -, -, -, -, -, -, hcontribute⟩ := h slotListedTwice 0 0 0 contributor contributeOp contributeOp_begins rfl rfl rfl
  obtain ⟨hfree, -⟩ := hcontribute 0 (redRecord (tileBank slotListedTwice contributeOp.node) 0) (redNode slotListedTwice 0 contributeOp.node)
    (by decide +kernel) (by decide +kernel) (by decide +kernel) rfl rfl rfl rfl (by decide +kernel) (by decide +kernel) (by decide +kernel) (by decide +kernel)
  obtain ⟨t, hexec, -, hgoes, -⟩ := hfree (by decide +kernel)
  have hgone := contribute_empties_slot
  rw [hexec] at hgone
  have hnone : fibreAt t 0 0 0 = none := Option.isNone_iff_eq_none.mp hgone
  rcases hgoes with hres | ⟨k, -, hwait⟩
  · exact absurd (hres.symm.trans hnone) nofun
  · exact absurd (hwait.symm.trans hnone) nofun

end Sys2Proof.Machine

/-!
PROOFS. Fibres: becoming resident, END, SYNC, FENCE, MCAST, RECV_MC, WATCH and DIGEST (R101, R104, R124, R126, R188, R189, R215, R219, R564 to R570).
-/
namespace Sys2Proof.Machine

set_option Elab.async false

/-! ### A fibre becomes resident -/

theorem fibreResident_enters {s : State} {v : VatId} {sl : SliceId} {st : SlotId} {b : Batch} (hnone : fibreAt s v.val sl.val st.val = none)
    (hup : dieUp s v.val = true) (hb : (vatOf s v.val).batches.find? (fun b => decide (b.next < b.total) && b.home b.next == sl.val) = some b) :
    ∃ (t : State) (y : Fibre), exec (.fibreResident v sl st) s = .next t ∧ fibreAt t v.val sl.val st.val = some y ∧ y.state = 1 ∧ y.opIndex = 0 ∧
      y.regs = b.launchRegs b.next ∧ y.program = b.program ∧ y.batch = b.num ∧ y.index = b.next ∧ y.tag = b.tag ∧ y.bank = b.bank ∧ y.wait = none ∧
      (∃ z ∈ (vatOf t v.val).batches, z.num = b.num ∧ z.next = b.next + 1) ∧ OnlyParts [.vs] s t := by
  refine ⟨putFibre (modBatch s v.val b.num fun b => { b with next := b.next + 1 }) v.val sl.val st.val
      { regs := b.launchRegs b.next, program := b.program, batch := b.num, index := b.next, tag := b.tag, bank := b.bank }, _, ?_,
    fibreAt_putFibre_self .., rfl, rfl, rfl, rfl, rfl, rfl, rfl, rfl, rfl, ?_, onlyParts_of_keeps (putFibre_keeps (modBatch_keeps (Keeps.refl _ s) rfl) rfl)⟩
  · show execFibreResident v sl st s = _
    unfold execFibreResident
    extract_lets d
    rw [if_neg (by simp [d, hnone, hup]), hb]
  · refine ⟨{ b with next := b.next + 1 }, ?_, rfl, rfl⟩
    rw [vatOf_putFibre, vatOf_modBatch]
    exact List.mem_map.mpr ⟨b, List.mem_of_find?_eq_some hb, if_pos rfl⟩

/-! ### What an op that waits leaves -/

theorem park_fibre (c : OpCtx) (u : State) (w : FibreWait) : fibreAt (c.park u w) c.d c.slice c.slot = some { c.x with state := 3, wait := some w } :=
  fibreAt_putFibre_self ..

theorem park_only (c : OpCtx) (u : State) (w : FibreWait) : OnlyParts [.vs] u (c.park u w) := onlyParts_of_keeps (putFibre_keeps (Keeps.refl _ u) rfl)

theorem vatOf_opState (s : State) (c : OpCtx) : vatOf (opState s c) c.d =
    { vatOf s c.d with fibres := tput (vatOf s c.d).fibres (fibreKey c.slice c.slot) c.x } := vatOf_putFibre ..

theorem owner_opState (s : State) (c : OpCtx) (p : Initiator → Bool) : writesOut (opState s c) p = writesOut s p := rfl

theorem setting_opState (s : State) (c : OpCtx) (i k : Nat) : setting (opState s c) i k = setting s i k := rfl

section
variable {s : State} {v : VatId} {sl : SliceId} {st : SlotId} {x : Fibre} {c : OpCtx} (h : Begins s x c) (hd : c.d = v.val) (hsl : c.slice = sl.val)
  (hst : c.slot = st.val) (hcheck : c.check s = none)
include h hd hsl hst hcheck

omit hcheck in
/-- An op whose work ends in the states that follow, and whose fibre then goes on. -/
theorem op_finishes {w : State} {l n : List Part} (hw : OnlyParts l (opState s c) w) (hfib : fibreAt w c.d c.slice c.slot = some c.x)
    (hl : .vs ∈ n) (ho : .obs ∈ n) (hn : l ⊆ n) : Resumed (c.finish w) v.val sl.val st.val x x.regs ∧ OnlyParts n s (c.finish w) := by
  obtain ⟨hres, honly⟩ := h.finishes hfib
  rw [hd, hsl, hst] at hres
  refine ⟨hres, ((opState_only s c).andThen hw (n := n) ?_ hn).andThen honly (fun _ hp => hp) ?_⟩
  · simpa using hl
  · simpa using ⟨ho, hl⟩

/-! ### END -/

/-- The state in which a fibre has ended (R104, R191). -/
def ended (s : State) (c : OpCtx) : State :=
  dropFibre (modBatch (modObs (modVat s c.d fun v => { v with opsExecuted := v.opsExecuted + 1 }) fun o =>
    { o with util := tinc o.util ((c.d * 64 + c.slice) * 8 + 7) 1 }) c.d c.x.batch fun b => { b with ended := b.ended + 1 }) c.d c.slice c.slot

theorem end_frees (hop : c.desc.opcode = 0) : ∃ t, exec (.opEnd v sl st) s = .next t ∧ fibreAt t v.val sl.val st.val = none ∧
    (vatOf t v.val).opsExecuted = (vatOf s v.val).opsExecuted + 1 ∧
    (∀ b ∈ (vatOf s v.val).batches, b.num = x.batch → ({ b with ended := b.ended + 1 } : Batch) ∈ (vatOf t v.val).batches) ∧ OnlyParts [.obs, .vs] s t := by
  obtain ⟨raw, hx⟩ := h.fibre
  have hvat : vatOf (ended (opState s c) c) c.d = { vatOf (opState s c) c.d with
      opsExecuted := (vatOf (opState s c) c.d).opsExecuted + 1
      batches := (vatOf (opState s c) c.d).batches.map fun b => if b.num = c.x.batch then { b with ended := b.ended + 1 } else b
      fibres := tdel (vatOf (opState s c) c.d).fibres (fibreKey c.slice c.slot) } := by
    rw [ended, vatOf_dropFibre, vatOf_modBatch, vatOf_of_vs (t := modObs _ _) (s := modVat (opState s c) c.d fun v =>
      { v with opsExecuted := v.opsExecuted + 1 }) rfl, vatOf_modVat_self]
  show ∃ t, execOpEnd v sl st s = .next t ∧ _
  rw [execOpEnd, runOp_works h hd hsl hst hcheck (mine := fun e => e.opcode == 0 || decide (0x10 ≤ e.opcode)) (by simp [hop])]
  refine ⟨ended (opState s c) c, rfl, ?_, ?_, ?_,
    (opState_only s c).andThen (onlyParts_of_keeps (l := [.obs, .vs]) (dropFibre_keeps (modBatch_keeps (modObs_keeps (modVat_keeps (Keeps.refl _ _) rfl) rfl) rfl) rfl))
      (by decide) (by decide)⟩
  · rw [← hd, ← hsl, ← hst, fibreAt, hvat]
    exact tget_tdel_self ..
  · rw [← hd, hvat, vatOf_opState]
  · intro b hb hnum
    rw [← hd] at hb ⊢
    rw [hvat, vatOf_opState]
    exact List.mem_map.mpr ⟨b, hb, if_pos (by rw [hx, hnum])⟩

/-! ### SYNC, FENCE, MCAST and RECV_MC -/

theorem opSync_sends {die k off : Nat} (hop : c.desc.opcode = 0x0B) (hm : mapped c.a = true) (hr : decodeAddr c.a = some (.syncCell die k off)) :
    ∃ (t : State) (y : Fibre) (ret : Option Nat), exec (.opSync v sl st) s = .next t ∧ fibreAt t v.val sl.val st.val = some y ∧ y.state = 3 ∧
      y.regs = x.regs ∧ y.opIndex = x.opIndex ∧
      y.wait = some (.sync (256 * die + k) (opCode (c.desc.imm + c.desc.aux * 2 ^ 64)) (opCond (c.desc.imm + c.desc.aux * 2 ^ 64)) ret s.now) ∧
      ret = (if bitAt c.desc.func 4 then some (bits c.desc.func 3 0) else none) ∧
      Sent t c.node 3 (Region.syncCell die k off).tile (leBytes 16 (c.desc.imm + c.desc.aux * 2 ^ 64)) ∧ OnlyParts [.fab, .vs] s t := by
  obtain ⟨raw, hx⟩ := h.fibre
  obtain ⟨u, hu, hsent, hnow, honly⟩ : ∃ u, sendSync (opState s c) c.d (.fibre c.slice c.slot) c.owner c.x.tag c.a (c.desc.imm + c.desc.aux * 2 ^ 64) = u ∧
      Sent u c.node 3 (Region.syncCell die k off).tile (leBytes 16 (c.desc.imm + c.desc.aux * 2 ^ 64)) ∧ u.now = s.now ∧ OnlyParts [.fab] (opState s c) u := by
    refine ⟨_, rfl, ?_, send_only _ _ _ _ .now rfl, send_only _ _ _ _⟩
    unfold sendSync
    rw [hr]
    exact sent_mkPacket ..
  show ∃ t y ret, execOpSync v sl st s = .next t ∧ _
  rw [execOpSync, runOp_works h hd hsl hst hcheck (mine := fun e => e.opcode == 0x0B) (by simp [hop])]
  dsimp only
  rw [if_neg (by simp [hm]), hr]
  dsimp only
  rw [hu]
  refine ⟨_, _, _, rfl, by rw [← hd, ← hsl, ← hst]; exact park_fibre c u _, rfl, by rw [hx], by rw [hx], by rw [hnow], rfl, hsent.stays (.of_fab rfl),
    ((opState_only s c).andThen honly (n := [.fab, .vs]) (by decide) (by decide)).andThen (park_only c u _) (by decide) (by decide)⟩

theorem opFence_goes (hop : c.desc.opcode = 0x0C) (hout : writesOut s (· == c.owner) = false) : ∃ t, exec (.opFence v sl st) s = .next t ∧
    Resumed t v.val sl.val st.val x x.regs ∧ OnlyParts [.obs, .vs] s t := by
  show ∃ t, execOpFence v sl st s = .next t ∧ _
  rw [execOpFence, runOp_works h hd hsl hst hcheck (mine := fun e => e.opcode == 0x0C) (by simp [hop]), owner_opState, if_neg (by simp [hout])]
  exact ⟨_, rfl, op_finishes h hd hsl hst (onlyParts_of_keeps (l := []) (Keeps.refl _ _)) (opState_fibre s c) (by decide) (by decide) (by decide)⟩

theorem opFence_waits (hop : c.desc.opcode = 0x0C) (hout : writesOut s (· == c.owner) = true) : ∃ t, exec (.opFence v sl st) s = .next t ∧
    fibreAt t v.val sl.val st.val = some c.x ∧ OnlyParts [.vs] s t := by
  show ∃ t, execOpFence v sl st s = .next t ∧ _
  rw [execOpFence, runOp_works h hd hsl hst hcheck (mine := fun e => e.opcode == 0x0C) (by simp [hop]), owner_opState, if_pos hout]
  exact ⟨_, rfl, by rw [← hd, ← hsl, ← hst]; exact opState_fibre s c, opState_only s c⟩

omit h hd hsl hst hcheck in
theorem packed_opState (s : State) (c : OpCtx) : c.packed (opState s c) = c.packed s := rfl

omit h hd hsl hst hcheck in
theorem packedBad_opState (s : State) (c : OpCtx) : c.packedBad (opState s c) = c.packedBad s := rfl

theorem opMcast_sends (hop : c.desc.opcode = 0x0F) (hrel : c.desc.release = true → writesOut s (· == c.owner) = false) (hgood : c.packedBad s = false) :
    ∃ t, exec (.opMcast v sl st) s = .next t ∧ Resumed t v.val sl.val st.val x x.regs ∧
      (∀ e ∈ mcCuts ((c.packed s).length / 4096 + 2) (c.o % 2 ^ 32) (c.packed s),
        Sent t c.node 0x60 (mcRoot (mcRecord (tileBank s c.node) c.desc.aux)) e.2) ∧ OnlyParts [.fab, .obs, .vs] s t := by
  obtain ⟨hsent, honly⟩ := sendMcast_sends (opState s c) c.node c.owner (vatOwner (opState s c).cfg c.d) c.x.tag c.desc.aux (c.o % 2 ^ 32) (c.packed s) false
  obtain ⟨hres, hfin⟩ := op_finishes h hd hsl hst honly ((fibreAt_of_vs (honly .vs rfl) ..).trans (opState_fibre s c)) (n := [.fab, .obs, .vs])
    (by decide) (by decide) (by decide)
  have hstays : OnlyParts [.obs, .vs] _ (c.finish _) := (h.finishes ((fibreAt_of_vs (honly .vs rfl) ..).trans (opState_fibre s c))).2
  have hrel' : ¬ (c.desc.release && writesOut s (· == c.owner)) = true := by
    by_cases hr : c.desc.release = true
    · simp [hrel hr]
    · simp [hr]
  show ∃ t, execOpMcast v sl st s = .next t ∧ _
  rw [execOpMcast, runOp_works h hd hsl hst hcheck (mine := fun e => e.opcode == 0x0F) (by simp [hop])]
  dsimp only
  rw [owner_opState, packedBad_opState, if_neg hrel', hgood, if_neg Bool.false_ne_true]
  refine ⟨_, rfl, hres, fun e he => ?_, hfin⟩
  obtain ⟨o, ho, -, hop, hdest, hsrc, hpay⟩ := hsent e he
  exact Sent.stays ⟨o, ho, hop, hdest, hsrc, hpay⟩ (.of_fab (hstays .fab rfl))

omit h hd hsl hst hcheck in
theorem mcDown_opState (s : State) (c : OpCtx) (g d : Nat) : mcDown (opState s c) g d = mcDown s g d := rfl

omit h hd hsl hst hcheck in
theorem agentOf_opState (s : State) (c : OpCtx) (g d : Nat) : agentOf (opState s c) g d = agentOf s g d := rfl

theorem recvMc_goes (hop : c.desc.opcode = 0x0A) (hdown : mcDown s c.desc.aux v.val = false)
    (hsat : mcSatisfied (agentOf s c.desc.aux v.val).bytes c.desc.imm = true) : ∃ t, exec (.opRecvMc v sl st) s = .next t ∧
      Resumed t v.val sl.val st.val x x.regs ∧ OnlyParts [.obs, .vs] s t := by
  rw [← hd] at hdown hsat
  show ∃ t, execOpRecvMc v sl st s = .next t ∧ _
  rw [execOpRecvMc, runOp_works h hd hsl hst hcheck (mine := fun e => e.opcode == 0x0A) (by simp [hop])]
  dsimp only
  rw [mcDown_opState, hdown, agentOf_opState, hsat]
  exact ⟨_, rfl, op_finishes h hd hsl hst (onlyParts_of_keeps (l := []) (Keeps.refl _ _)) (opState_fibre s c) (by decide) (by decide) (by decide)⟩

theorem recvMc_waits (hop : c.desc.opcode = 0x0A) (hdown : mcDown s c.desc.aux v.val = false)
    (hsat : mcSatisfied (agentOf s c.desc.aux v.val).bytes c.desc.imm = false) : ∃ t, exec (.opRecvMc v sl st) s = .next t ∧
      fibreAt t v.val sl.val st.val = some { c.x with state := 3, wait := some (.mc c.desc.aux c.desc.imm s.now) } ∧ OnlyParts [.vs] s t := by
  rw [← hd] at hdown hsat
  show ∃ t, execOpRecvMc v sl st s = .next t ∧ _
  rw [execOpRecvMc, runOp_works h hd hsl hst hcheck (mine := fun e => e.opcode == 0x0A) (by simp [hop])]
  dsimp only
  rw [mcDown_opState, hdown, agentOf_opState, hsat]
  exact ⟨_, rfl, by rw [← hd, ← hsl, ← hst]; exact park_fibre .., (opState_only s c).andThen (park_only c _ _) (by decide) (by decide)⟩

omit h hd hsl hst hcheck in
theorem fault_gone {u : State} (hfib : fibreAt u c.d c.slice c.slot = some c.x) (hf : (vatOf u c.d).fibreFaults = (vatOf s c.d).fibreFaults) (code : Nat) :
    Faulted s (c.fault u code) c := by
  obtain ⟨h1, h2⟩ := (fibreFault_gone hfib code).gone
  exact ⟨h1, h2.trans (by rw [hf])⟩

theorem recvMc_faults (hop : c.desc.opcode = 0x0A) (hdown : mcDown s c.desc.aux v.val = true) : ∃ t, exec (.opRecvMc v sl st) s = .next t ∧ Faulted s t c := by
  rw [← hd] at hdown
  show ∃ t, execOpRecvMc v sl st s = .next t ∧ _
  rw [execOpRecvMc, runOp_works h hd hsl hst hcheck (mine := fun e => e.opcode == 0x0A) (by simp [hop])]
  dsimp only
  rw [mcDown_opState, hdown]
  exact ⟨_, rfl, fault_gone (s := s) (opState_fibre s c) (by rw [vatOf_opState]) 7⟩
end

/-! ### WATCH -/

/-- Leaves are numbered upwards, each once (R566). -/
theorem le_of_mem_leavesFrom : ∀ (f k : Nat) (b : Bytes) {e : Nat × Nat × Bytes}, e ∈ leavesFrom f k b → k ≤ e.1
  | 0, _, _, _, h => by cases h
  | f + 1, k, b, e, h => by
    rw [leavesFrom] at h
    split at h
    · cases h
    · rcases List.mem_cons.mp h with rfl | h
      · exact Nat.le_refl _
      · exact Nat.le_trans (Nat.le_succ k) (le_of_mem_leavesFrom f (k + 1) _ h)

theorem tget_foldl_tput_out {α : Type} (l : List (Nat × α)) {n : Nat} (h : ∀ e ∈ l, e.1 ≠ n) (t : Table α) :
    tget (l.foldl (fun t e => tput t e.1 e.2) t) n = tget t n := by
  induction l generalizing t with
  | nil => rfl
  | cons e l ih =>
    rw [List.foldl_cons, ih fun x hx => h x (List.mem_cons_of_mem _ hx), tget_tput_ne _ _ (h e List.mem_cons_self).symm]

/-- Every leaf that a WATCH feeds is in its open set afterwards (R567). -/
theorem tget_fed_leaf : ∀ (f k : Nat) (b : Bytes) (t : Table (Nat × Bytes)) {e : Nat × Nat × Bytes}, e ∈ leavesFrom f k b →
    tget ((leavesFrom f k b).foldl (fun t e => tput t e.1 e.2) t) e.1 = some e.2
  | 0, _, _, _, _, h => by cases h
  | f + 1, k, b, t, e, h => by
    rw [leavesFrom] at h ⊢
    split at h
    · cases h
    next hb =>
      rw [if_neg hb, List.foldl_cons]
      rcases List.mem_cons.mp h with rfl | h
      · rw [tget_foldl_tput_out _ fun x hx => by have := le_of_mem_leavesFrom _ _ _ hx; omega]
        exact tget_tput_self ..
      · exact tget_fed_leaf f (k + 1) _ _ h

theorem feed_some {w : WatchOpen} {window fmt y : Nat} (h : fmt = 9 → (ofMemory y).isSome = true) : ∃ z, w.feed window fmt y = some z ∧
    z.wp = w.wp ∧ z.tag = w.tag ∧ z.count = w.count + 1 ∧ z.leaves = w.leaves := by
  unfold WatchOpen.feed
  by_cases hf : fmt = 9
  · rw [if_pos hf]
    obtain ⟨m, hm⟩ := Option.isSome_iff_exists.mp (h hf)
    rw [hm]
    exact ⟨_, rfl, rfl, rfl, rfl, rfl⟩
  · rw [if_neg hf]
    exact ⟨_, rfl, rfl, rfl, rfl, rfl⟩

theorem feedAll_some {window fmt : Nat} {l : List Nat} (h : fmt = 9 → ∀ y ∈ l, (ofMemory y).isSome = true) (w : WatchOpen) :
    ∃ z, WatchOpen.feedAll window fmt l w = some z ∧ z.wp = w.wp ∧ z.tag = w.tag ∧ z.count = w.count + l.length ∧ z.leaves = w.leaves := by
  induction l generalizing w with
  | nil => exact ⟨w, rfl, rfl, rfl, rfl, rfl⟩
  | cons y l ih =>
    obtain ⟨z, hz, hwp, htag, hcount, hleaves⟩ := feed_some (w := w) (window := window) fun hf => h hf y List.mem_cons_self
    obtain ⟨z', hz', hwp', htag', hcount', hleaves'⟩ := ih (fun hf x hx => h hf x (List.mem_cons_of_mem _ hx)) z
    refine ⟨z', ?_, hwp'.trans hwp, htag'.trans htag, ?_, hleaves'.trans hleaves⟩
    · rw [WatchOpen.feedAll, hz]
      exact hz'
    · rw [hcount', hcount, List.length_cons]
      omega

@[simp] theorem watchOf_modWatch (s : State) (d : Nat) (f : List WatchOpen → List WatchOpen) : watchOf (modWatch s d f) d = f (watchOf s d) :=
  tgetD_tmod_self s.obs.watch d [] f

theorem modWatch_only (s : State) (d : Nat) (f : List WatchOpen → List WatchOpen) : OnlyParts [.obs] s (modWatch s d f) :=
  onlyParts_of_keeps (modObs_keeps (Keeps.refl _ s) rfl)

/-- An op's end leaves the open sets alone. -/
theorem watchOf_finish {c : OpCtx} {u : State} (hfib : fibreAt u c.d c.slice c.slot = some c.x) (hidx : c.x.opIndex < 255) :
    watchOf (c.finish u) c.d = watchOf u c.d := by
  unfold OpCtx.finish finishOp
  rw [hfib]
  dsimp only
  rw [if_neg (by omega)]
  rfl

section
variable {s : State} {v : VatId} {sl : SliceId} {st : SlotId} {x : Fibre} {c : OpCtx} (h : Begins s x c) (hd : c.d = v.val) (hsl : c.slice = sl.val)
  (hst : c.slot = st.val) (hcheck : c.check s = none)
include h hd hsl hst hcheck

omit hd hsl hst hcheck in
theorem Begins.opIndex_lt : c.x.opIndex < 255 := by
  obtain ⟨raw, hx⟩ := h.fibre
  rw [hx]
  exact h.2.2.2.1

omit hd hsl hst hcheck in
theorem Begins.tag_eq : c.x.tag = x.tag := by
  obtain ⟨raw, hx⟩ := h.fibre
  rw [hx]

/-- A WATCH of a watchpoint with a free place opens a set for its tensor and feeds its leaves (R190, R565 to R568). -/
theorem watch_feeds (hop : c.desc.opcode = 0x0D) (htag : x.tag = none) (hgood : c.packedBad s = false)
    (hream : c.desc.fmtA = 9 → ∀ y ∈ rowElems 9 (c.desc.dim0 * c.desc.dim1) (c.packed s), (ofMemory y).isSome = true)
    (hnew : (watchOf s v.val).find? (fun w => w.wp == c.desc.aux && w.tag == none) = none)
    (hroom : ((watchOf s v.val).filter (fun w => w.wp == c.desc.aux)).length < 8)
    (hleaves : ((watchOf s v.val).map (fun y => y.leaves.length)).sum +
      (leavesFrom ((c.packed s).length / 4096 + 2) (c.desc.imm / 4096) (c.packed s)).length ≤ 16384) :
    ∃ (t : State) (w : WatchOpen), exec (.opWatch v sl st) s = .next t ∧ Resumed t v.val sl.val st.val x x.regs ∧ w ∈ watchOf t v.val ∧
      w.wp = c.desc.aux ∧ w.tag = none ∧ w.count = c.desc.dim0 * c.desc.dim1 ∧ w.lastUse = s.now ∧
      (∀ k ∈ leavesFrom ((c.packed s).length / 4096 + 2) (c.desc.imm / 4096) (c.packed s), tget w.leaves k.1 = some k.2) ∧ OnlyParts [.obs, .vs] s t := by
  have hctag : c.x.tag = none := h.tag_eq.trans htag
  rw [← hd] at hnew hroom hleaves
  obtain ⟨z, hz, hwp, hztag, hcount, hzl⟩ := feedAll_some (window := bits (setting (opState s c) (0x7200 + c.d) (c.desc.aux + 1)) 15 0) (fmt := c.desc.fmtA)
    (l := rowElems c.desc.fmtA (c.desc.dim0 * c.desc.dim1) (c.packed s)) (fun hf => by rw [hf]; exact hream hf)
    { wp := c.desc.aux, tag := none, fmt := c.desc.fmtA, lastUse := s.now }
  rw [rowElems_length] at hcount
  let w : WatchOpen :=
    { z with
      leaves := (leavesFrom ((c.packed s).length / 4096 + 2) (c.desc.imm / 4096) (c.packed s)).foldl (fun t k => tput t k.1 k.2) z.leaves, lastUse := s.now }
  have hmerge : c.watchMerge (opState s c) { wp := c.desc.aux, tag := none, fmt := c.desc.fmtA, lastUse := s.now } =
      c.finish (modWatch (opState s c) c.d fun l => l.filter (fun y => !(y.wp == c.desc.aux && y.tag == none)) ++ [w]) := by
    unfold OpCtx.watchMerge
    extract_lets e data leaves used window
    have hno : ¬ ((leaves.any fun k => (tget ([] : Table (Nat × Bytes)) k.1).isSome) || decide (16384 < used + leaves.length)) = true := by
      simp only [Bool.or_eq_true, decide_eq_true_eq, not_or, Nat.not_lt]
      refine ⟨?_, hleaves⟩
      rw [Bool.not_eq_true, List.any_eq_false]
      exact fun _ _ => by simp [tget]
    rw [if_neg hno, show WatchOpen.feedAll window e.fmtA (rowElems e.fmtA (e.dim0 * e.dim1) data) _ = some z from hz]
    rfl
  have honly := modWatch_only (opState s c) c.d fun l => l.filter (fun y => !(y.wp == c.desc.aux && y.tag == none)) ++ [w]
  have hfib := (fibreAt_of_vs (honly .vs rfl) c.d c.slice c.slot).trans (opState_fibre s c)
  obtain ⟨hres, hfin⟩ := op_finishes h hd hsl hst honly hfib (n := [.obs, .vs]) (by decide) (by decide) (by decide)
  show ∃ t w, execOpWatch v sl st s = .next t ∧ _
  rw [execOpWatch, runOp_works h hd hsl hst hcheck (mine := fun e => e.opcode == 0x0D) (by simp [hop])]
  dsimp only
  rw [packedBad_opState, hgood, if_neg Bool.false_ne_true, hctag, watchPurge]
  rw [show (watchOf (opState s c) c.d).find? (fun w => w.wp == c.desc.aux && w.tag == none) = none from hnew]
  dsimp only
  rw [if_pos (show ((watchOf (opState s c) c.d).filter (fun w => w.wp == c.desc.aux)).length < 8 from hroom), opState_now, hmerge]
  refine ⟨_, w, rfl, hres, ?_, hwp, hztag, hcount.trans (Nat.zero_add _), rfl, fun k hk => tget_fed_leaf _ _ _ _ hk, hfin⟩
  rw [← hd, watchOf_finish hfib h.opIndex_lt, watchOf_modWatch]
  exact List.mem_append_right _ (List.mem_singleton_self _)

/-! ### DIGEST -/

omit h hd hsl hst hcheck in
theorem watchPurge_only (u : State) (d : Nat) (tag : Option Nat) : OnlyParts [.obs] u (watchPurge u d tag) :=
  onlyParts_of_keeps (watchPurge_keeps (Keeps.refl _ u) rfl)

omit h hd hsl hst hcheck in
/-- A tag's own open set is not among those that its generation discards (R565). -/
theorem find?_watchPurge {u : State} {d wp : Nat} {tag : Option Nat} {w : WatchOpen}
    (hw : (watchOf u d).find? (fun w => w.wp == wp && w.tag == tag) = some w) :
    (watchOf (watchPurge u d tag) d).find? (fun w => w.wp == wp && w.tag == tag) = some w := by
  cases tag with
  | none => exact hw
  | some t =>
    rw [watchPurge, watchOf_modWatch, List.find?_filter]
    refine Eq.trans (congrArg (fun p => List.find? p _) (funext fun y => ?_)) hw
    by_cases hy : y.tag = some t
    · simp [hy]
      rfl
    · simp [hy]

/-- The state in which a DIGEST has taken its set out of the open ones. -/
def watchClosed (s : State) (c : OpCtx) (w : WatchOpen) : State := modWatch (watchPurge s c.d c.x.tag) c.d (fun l => dropFirst (· == w) l)

/-- The state in which a DIGEST has closed its open set and written the record (R570). -/
def digested (s : State) (c : OpCtx) (w : WatchOpen) : State :=
  let u := writeClean (watchClosed s c w) c.o (watchRecord (watchClosed s c w) c.d c.desc.imm w)
  event u (schedTile c.d) 6 0x28 (vatOwner u.cfg c.d) (bitOf c.x.tag.isSome * 2 ^ 22 + c.x.tag.getD 0 * 2 ^ 6 + c.desc.aux)

/-- The state in which a tagged fibre's DIGEST has also sent its record to the port. -/
def digestReported (s : State) (c : OpCtx) (w : WatchOpen) (t : Nat) : State :=
  send (digested s c w) c.node c.owner (mkPacket 6 (portFrontTile (tagPort t)) (vatOwner (writeClean (watchClosed s c w) c.o
    (watchRecord (watchClosed s c w) c.d c.desc.imm w)).cfg c.d) (some t) 0 (watchRecord (watchClosed s c w) c.d c.desc.imm w))

omit h hd hsl hst hcheck in
theorem watchClosed_only (u : State) (c : OpCtx) (w : WatchOpen) : OnlyParts [.obs] u (watchClosed u c w) :=
  (watchPurge_only u c.d c.x.tag).andThen (modWatch_only _ _ _) (by decide) (by decide)

omit h hd hsl hst hcheck in
theorem watchRecord_watchClosed (u : State) (c : OpCtx) (w : WatchOpen) :
    watchRecord (watchClosed u c w) c.d c.desc.imm w = watchRecord u c.d c.desc.imm w := by
  unfold watchRecord
  rw [setting_congr (congrArg Epochs.cur (watchClosed_only u c w .ep rfl)) (congrArg DictState.rw (watchClosed_only u c w .dict rfl))]

omit h hd hsl hst hcheck in
theorem digested_facts (u : State) (c : OpCtx) (w : WatchOpen) : RowsStored u (digested u c w) c.o 0 [watchRecord u c.d c.desc.imm w] ∧
    OnlyParts [.integ, .mem, .obs] u (digested u c w) := by
  have hy := watchClosed_only u c w
  have hrec := watchRecord_watchClosed u c w
  rw [digested, hrec]
  let y := writeClean (watchClosed u c w) c.o (watchRecord u c.d c.desc.imm w)
  have hstore := storeRows_stored (watchClosed u c w) c.o 0 [watchRecord u c.d c.desc.imm w]
  have hwrite : OnlyParts [.integ, .mem] (watchClosed u c w) y := onlyParts_of_keeps (writeClean_keeps (Keeps.refl _ _) rfl rfl)
  have hev : OnlyParts [.obs] y (event y (schedTile c.d) 6 0x28 (vatOwner y.cfg c.d) (bitOf c.x.tag.isSome * 2 ^ 22 + c.x.tag.getD 0 * 2 ^ 6 + c.desc.aux)) :=
    onlyParts_of_keeps (event_keeps (Keeps.refl _ _) rfl)
  exact ⟨hstore.congr (hy .mem rfl).symm (hev .mem rfl),
    (hy.andThen hwrite (n := [.integ, .mem, .obs]) (by decide) (by decide)).andThen hev (by decide) (by decide)⟩

omit h hd hsl hst hcheck in
theorem watchOf_digested (u : State) (c : OpCtx) (w : WatchOpen) : watchOf (digested u c w) c.d = watchOf (watchClosed u c w) c.d := by
  unfold digested
  extract_lets y
  obtain ⟨rings, stages, snaps, hobs⟩ := event_obs y (schedTile c.d) 6 0x28 (vatOwner y.cfg c.d)
    (bitOf c.x.tag.isSome * 2 ^ 22 + c.x.tag.getD 0 * 2 ^ 6 + c.desc.aux) none
  have hwrite : y.obs = (watchClosed u c w).obs :=
    onlyParts_of_keeps (l := [.integ, .mem]) (writeClean_keeps (Keeps.refl _ _) rfl rfl) .obs rfl
  unfold watchOf
  rw [hobs, hwrite]

theorem digest_runs {w : WatchOpen} (hop : c.desc.opcode = 0x0E)
    (hw : (watchOf s v.val).find? (fun w => w.wp == c.desc.aux && w.tag == x.tag) = some w) (hcomplete : leavesComplete c.desc.imm w.leaves = true) :
    exec (.opDigest v sl st) s = .next (match c.x.tag with
      | none => c.finish (digested (opState s c) c w)
      | some t => c.park (digestReported (opState s c) c w t) .report) := by
  rw [← hd, ← h.tag_eq] at hw
  have hfind := find?_watchPurge (u := opState s c) hw
  show execOpDigest v sl st s = _
  rw [execOpDigest, runOp_works h hd hsl hst hcheck (mine := fun e => e.opcode == 0x0E) (by simp [hop])]
  dsimp only
  rw [hfind]
  dsimp only
  rw [if_neg (by simp [hcomplete])]
  rfl

omit h hsl hst hcheck in
theorem digest_stores {w : WatchOpen} : RowsStored s (digested (opState s c) c w) c.o 0 [watchRecord s v.val c.desc.imm w] ∧
    OnlyParts [.integ, .mem, .obs] (opState s c) (digested (opState s c) c w) ∧ OnlyParts [.integ, .mem, .obs, .vs] s (digested (opState s c) c w) ∧
    fibreAt (digested (opState s c) c w) c.d c.slice c.slot = some c.x := by
  obtain ⟨hrows, honly⟩ := digested_facts (opState s c) c w
  refine ⟨?_, honly, (opState_only s c).andThen honly (by decide) (by decide), (fibreAt_of_vs (honly .vs rfl) ..).trans (opState_fibre s c)⟩
  rw [← hd]
  exact hrows.congr rfl rfl

/-- An untagged fibre's DIGEST writes the record and goes on (R570). -/
theorem digest_untagged {w : WatchOpen} (hop : c.desc.opcode = 0x0E)
    (hw : (watchOf s v.val).find? (fun w => w.wp == c.desc.aux && w.tag == x.tag) = some w) (hcomplete : leavesComplete c.desc.imm w.leaves = true)
    (htag : x.tag = none) : ∃ t, exec (.opDigest v sl st) s = .next t ∧ RowsStored s t c.o 0 [watchRecord s v.val c.desc.imm w] ∧
      Resumed t v.val sl.val st.val x x.regs ∧ watchOf t v.val = dropFirst (· == w) (watchOf s v.val) ∧ OnlyParts [.integ, .mem, .obs, .vs] s t := by
  have hexec := digest_runs h hd hsl hst hcheck hop hw hcomplete
  obtain ⟨hrows, honly, -, hfib⟩ := digest_stores hd (w := w)
  obtain ⟨hres, hfin⟩ := op_finishes h hd hsl hst honly hfib (n := [.integ, .mem, .obs, .vs]) (by decide) (by decide) (by decide)
  have hfinish := (h.finishes hfib).2
  rw [h.tag_eq, htag] at hexec
  refine ⟨_, hexec, hrows.congr rfl (hfinish .mem rfl), hres, ?_, hfin⟩
  rw [← hd, watchOf_finish hfib h.opIndex_lt, watchOf_digested, watchClosed, watchOf_modWatch, h.tag_eq, htag]
  rfl

/-- A tagged fibre's DIGEST also reports the record to its port, and waits for the answer (R570). -/
theorem digest_tagged {w : WatchOpen} {g : Nat} (hop : c.desc.opcode = 0x0E)
    (hw : (watchOf s v.val).find? (fun w => w.wp == c.desc.aux && w.tag == x.tag) = some w) (hcomplete : leavesComplete c.desc.imm w.leaves = true)
    (htag : x.tag = some g) : ∃ (t : State) (y : Fibre), exec (.opDigest v sl st) s = .next t ∧ RowsStored s t c.o 0 [watchRecord s v.val c.desc.imm w] ∧
      fibreAt t v.val sl.val st.val = some y ∧ y.state = 3 ∧ y.wait = some .report ∧
      Sent t c.node 6 (portFrontTile (tagPort g)) (watchRecord s v.val c.desc.imm w) ∧ OnlyParts [.fab, .integ, .mem, .obs, .vs] s t := by
  have hexec := digest_runs h hd hsl hst hcheck hop hw hcomplete
  obtain ⟨hrows, -, hdig, -⟩ := digest_stores hd (w := w)
  have hsent : Sent (digestReported (opState s c) c w g) c.node 6 (portFrontTile (tagPort g)) (watchRecord s v.val c.desc.imm w) := by
    rw [← hd, show watchRecord s c.d c.desc.imm w = watchRecord (watchClosed (opState s c) c w) c.d c.desc.imm w from
      (watchRecord_watchClosed (opState s c) c w).symm]
    exact sent_mkPacket ..
  have hsends : OnlyParts [.fab] (digested (opState s c) c w) (digestReported (opState s c) c w g) := send_only _ _ _ _
  have hall : OnlyParts [.fab, .integ, .mem, .obs, .vs] s (digestReported (opState s c) c w g) :=
    OnlyParts.andThen (n := [.fab, .integ, .mem, .obs, .vs]) hdig hsends (by decide) (by decide)
  have hpark := park_only c (digestReported (opState s c) c w g) .report
  rw [h.tag_eq, htag] at hexec
  replace hexec : exec (.opDigest v sl st) s = .next (c.park (digestReported (opState s c) c w g) .report) := hexec
  refine ⟨_, { c.x with state := 3, wait := some .report }, hexec, ?_, ?_, rfl, rfl, ?_, ?_⟩
  · exact hrows.congr rfl ((hpark .mem rfl).trans (hsends .mem rfl))
  · rw [← hd, ← hsl, ← hst]
    exact park_fibre c _ .report
  · exact hsent.stays (.of_fab (hpark .fab rfl))
  · exact hall.andThen hpark (by decide) (by decide)
end

/-- Settles O48: each op does its own work in `opState`, and finishes, faults or parks its fibre. -/
theorem fibreCommandsComplete : Obligations.FibreCommandsComplete := by
  unfold Obligations.FibreCommandsComplete
  intro s v sl st
  refine ⟨fun b hnone hup hb => fibreResident_enters hnone hup hb, fun x c h hd hsl hst hcheck => ?_⟩
  refine ⟨?_, ?_, ?_, ?_, ?_, ?_, ?_, ?_, ?_, ?_⟩
  · exact fun hop => end_frees h hd hsl hst hcheck hop
  · exact fun die k off hop hm hr => opSync_sends h hd hsl hst hcheck hop hm hr
  · exact fun hop hout => opFence_goes h hd hsl hst hcheck hop hout
  · exact fun hop hout => opFence_waits h hd hsl hst hcheck hop hout
  · exact fun hop hrel hgood => opMcast_sends h hd hsl hst hcheck hop hrel hgood
  · exact fun hop hdown hsat => recvMc_goes h hd hsl hst hcheck hop hdown hsat
  · exact fun hop hdown hsat => recvMc_waits h hd hsl hst hcheck hop hdown hsat
  · exact fun hop hdown => recvMc_faults h hd hsl hst hcheck hop hdown
  · exact fun hop htag hgood hream hnew hroom hleaves => watch_feeds h hd hsl hst hcheck hop htag hgood hream hnew hroom hleaves
  · exact fun w hop hw hcomplete => ⟨fun htag => digest_untagged h hd hsl hst hcheck hop hw hcomplete htag,
      fun g htag => digest_tagged h hd hsl hst hcheck hop hw hcomplete htag⟩

end Sys2Proof.Machine

/-!
PROOFS. Streams: acknowledgements, NACKs, timeouts and closing at both ends, and the vat's request queue (R210, R211, R252, R258 to R267, R335, R337).
-/
namespace Sys2Proof.Machine

set_option Elab.async false

/-! ### What an acknowledged or a failed packet leaves of the streams -/

theorem quiet_finishOp (s : State) (d sl st : Nat) : Quiet s (finishOp s d sl st) := by
  unfold finishOp
  split
  · exact .refl s
  · next x hx =>
    extract_lets u v
    have hv : Quiet s v := .of_fab rfl rfl rfl
    split
    · exact hv.trans (quiet_fibreFault ..)
    · exact hv.trans (.of_fab rfl rfl rfl)

theorem quiet_deliverySignal (s : State) (p c : Nat) : Quiet s (deliverySignal s p c) := (quiet_modCtx ..).trans (seqQuiet_send ..).1

theorem quiet_deliveryAcked (s : State) (p c k : Nat) (input : Bool) (op : Nat) : Quiet s (deliveryAcked s p c k input op) := by
  unfold deliveryAcked
  extract_lets x u
  have hu : Quiet s u := quiet_modCtx ..
  split
  · split
    · split
      · split
        · exact hu.trans (quiet_deliveryPost ..)
        · exact hu
      · exact hu
    split
    · split
      · exact quiet_deliverySignal ..
      · exact .refl s
    split
    · exact quiet_modCtx ..
    · exact .refl s
  · exact .refl s

/-- An acknowledged packet's initiator is told, and the streams stay as they are (R263). -/
theorem quiet_ackOne (s : State) (n i : Nat) (x : Unacked) : Quiet s (ackOne s n i x) := by
  unfold ackOne
  extract_lets t u
  have hu : Quiet s u := by
    unfold u
    split
    · exact (seqQuiet_of_obs (onlyParts_of_keeps (latencyDone_keeps (Keeps.refl _ s) rfl))).1
    · exact .refl s
  split
  · exact hu.trans (quiet_deliveryAcked ..)
  · exact hu.trans (quiet_deliveryAcked ..)
  · split
    · split
      · exact hu.trans (quiet_finishOp ..)
      · exact hu
    · exact hu
  · exact hu

/-- Between s and t packets of tile n have failed: no tracker differs, and of the error counts at most that of failed packets. -/
def PacketsFailed (n : Nat) (s t : State) : Prop :=
  t.fab.trackers = s.fab.trackers ∧ ∀ k, k ≠ 8 * dieOf n + 5 → tgetD t.integ.streamErrors k 0 = tgetD s.integ.streamErrors k 0

theorem PacketsFailed.refl {n : Nat} (s : State) : PacketsFailed n s s := ⟨rfl, fun _ _ => rfl⟩

theorem PacketsFailed.trans {n : Nat} {s t u : State} (h : PacketsFailed n s t) (h' : PacketsFailed n t u) : PacketsFailed n s u :=
  ⟨h'.1.trans h.1, fun k hk => (h'.2 k hk).trans (h.2 k hk)⟩

theorem Quiet.failed {n : Nat} {s t : State} (h : Quiet s t) : PacketsFailed n s t := ⟨h.trackers, fun k _ => by rw [h.errors]⟩

theorem PacketsFailed.tracker {n : Nat} {s t : State} (h : PacketsFailed n s t) (m i : Nat) : trackerOf t m i = trackerOf s m i := by
  rw [trackerOf, h.1, trackerOf]

theorem streamError_failed (s : State) (n : Nat) : PacketsFailed n s (streamError s n 5) := ⟨rfl, fun _ h => tgetD_tmod_ne _ _ _ _ h⟩

theorem failOne_failed (s : State) (n i : Nat) (x : Unacked) (c : Nat) : PacketsFailed n s (failOne s n i x c) := by
  unfold failOne
  extract_lets u v w
  have hv : Quiet u v := .of_fab rfl rfl rfl
  have hw : Quiet v w := ⟨⟨_, _, rfl⟩, rfl, rfl⟩
  exact (streamError_failed s n).trans ((hv.trans hw).trans (quiet_failAccess ..)).failed

/-- The tracker of a stream whose generation has ended (R335). -/
def streamEnded (t : Tracker) : Tracker := { t with inUse := false, unacked := [], opening := false, rxFullAt := none }

/-- The source that ends a generation at one of its packets frees the tracker (R335). -/
theorem endStream_ends {s : State} {n i q : Nat} {x : Unacked} (hx : x ∈ (trackerOf s n i).unacked) (hq : x.seq = q) (c : Nat) :
    trackerOf (endStream s n i q c) n i = streamEnded (trackerOf s n i) ∧
      ∀ k, k ≠ 8 * dieOf n + 5 → tgetD (endStream s n i q c).integ.streamErrors k 0 = tgetD s.integ.streamErrors k 0 := by
  unfold endStream
  extract_lets t before rest u queued v w z
  have hrest : rest ≠ [] := by
    intro hnil
    have hprefix : before = t.unacked := (List.takeWhile_prefix _).eq_of_length_le (by simpa [rest] using hnil)
    have hall := List.all_eq_true.mp List.all_takeWhile x (hprefix ▸ hx : x ∈ before)
    simp [hq] at hall
  have hv : PacketsFailed n u v := (quiet_purgeWaiting ..).failed
  have hw : PacketsFailed n v w := by
    refine foldl_related (R := PacketsFailed n) .refl .trans (fun s y => ?_) before v
    split
    · exact .refl s
    · exact (quiet_ackOne ..).failed
  have hz : PacketsFailed n w z := by
    unfold z
    clear_value rest
    cases rest with
    | nil => exact .refl w
    | cons y later =>
      exact (failOne_failed w n i y c).trans (foldl_related (R := PacketsFailed n) .refl .trans (fun s z => failOne_failed s n i z 0x23) later _)
  have hqueued : PacketsFailed n z (queued.foldl (fun s o => failAccess (streamError s n 5) o.owner o.pkt 0x23) z) :=
    foldl_related (R := PacketsFailed n) .refl .trans (fun s o => (streamError_failed s n).trans (quiet_failAccess ..).failed) queued z
  rw [if_neg (by simpa using hrest)]
  have hall := ((hv.trans hw).trans hz).trans hqueued
  exact ⟨(hall.tracker n i).trans (tgetD_tput_self ..), hall.2⟩

theorem quiet_reportPkt (s : State) (c k n : Nat) (p : Packet) : Quiet s (reportPkt s c k n p) := (seqQuiet_report ..).1

theorem settleAll_failed (n : Nat) (s : State) : PacketsFailed n s (settleAll s) := (seqQuiet_settleAll s).1.failed

/-! ### Acknowledgement entries -/

theorem ackWord_fields (i sg q st : Nat) : bits (ackWord i sg q st) 5 0 = i % 64 ∧ bits (ackWord i sg q st) 15 6 = sg % 1024 ∧
    bits (ackWord i sg q st) 31 16 = q % 65536 ∧ bits (ackWord i sg q st) 33 32 = st % 4 ∧ ackWord i sg q st < 2 ^ 64 := by
  simp only [bits, ackWord, Nat.shiftRight_eq_div_pow]
  omega

theorem ackEntries_one {w : Nat} (h : w < 2 ^ 64) : ackEntries (leBytes 8 w) = [w] := by
  rw [ackEntries, length_leBytes]
  show [field (leBytes 8 w) 0 8] = [w]
  rw [field_leBytes _ (by decide)]
  simpa using Nat.mod_eq_of_lt h

theorem Takes.tracker {s u : State} {node : NodeId} {p : Packet} (h : Takes s node p u) (n i : Nat) : trackerOf u n i = trackerOf s n i := by
  obtain ⟨l, rfl⟩ := takeArrived_fab h.2.2
  rfl

section
variable {s : State} {n : Nat} {i : BitVec 6} {g : BitVec 10} {q : BitVec 16} {a b : List Unacked} {x : Unacked}
  (huse : (trackerOf s n i.toNat).inUse = true) (hgen : (trackerOf s n i.toNat).sgen = g.toNat) (hun : (trackerOf s n i.toNat).unacked = a ++ x :: b)
  (ha : ∀ y ∈ a, y.seq ≠ q.toNat) (hxq : x.seq = q.toNat)
include huse hgen hun ha hxq

/-- STATUS 0 frees the packets up to the SEQ, but for those refused before (R263). -/
theorem ackEntry_frees : ∃ t, trackerOf (ackEntry s n (ackWord i.toNat g.toNat q.toNat 0)) n i.toNat = t ∧
    t.unacked = (a ++ [x]).filter (·.refused) ++ b ∧ t.opening = false ∧ t.inUse = true := by
  obtain ⟨h1, h2, h3, h4, -⟩ := ackWord_fields i.toNat g.toNat q.toNat 0
  unfold ackEntry
  rw [h1, h2, h3, h4, Nat.mod_eq_of_lt i.isLt, Nat.mod_eq_of_lt g.isLt, Nat.mod_eq_of_lt q.isLt]
  extract_lets i' sg q' st t upto done rest rest' kept v
  have hup : upto = a := by
    show (trackerOf s n i.toNat).unacked.takeWhile (fun u => u.seq != q.toNat) = a
    rw [hun, List.takeWhile_append_of_pos fun y hy => by simpa using ha y hy, List.takeWhile_cons_of_neg (by simp [hxq]), List.append_nil]
  have hdone : done = a ++ [x] := by
    show (trackerOf s n i.toNat).unacked.take (upto.length + 1) = _
    rw [hup, hun, List.append_cons, List.take_left' (by simp)]
  have hrest : rest' = b := by
    show (trackerOf s n i.toNat).unacked.drop done.length = _
    rw [hdone, hun, List.append_cons a x b, List.drop_left]
  rw [if_neg (by simp [t, i', sg, huse, hgen]), if_neg (by simp [t, i', q', hun, hxq]), if_neg (show ¬ 0 % 4 = 1 by decide)]
  have hfold := (foldl_related (R := Quiet) .refl .trans (fun s y => quiet_ackOne s n i' y) (done.filter fun u => !u.refused) v).tracker n i.toNat
  exact ⟨_, hfold.trans (tgetD_tput_self ..), by rw [← hdone, ← hrest], rfl, huse⟩

omit ha in
/-- STATUS 1 ends the generation (R335). -/
theorem ackEntry_breaks : trackerOf (ackEntry s n (ackWord i.toNat g.toNat q.toNat 1)) n i.toNat = streamEnded (trackerOf s n i.toNat) := by
  obtain ⟨h1, h2, h3, h4, -⟩ := ackWord_fields i.toNat g.toNat q.toNat 1
  have hentry : ackEntry s n (ackWord i.toNat g.toNat q.toNat 1) = endStream s n i.toNat q.toNat 0x10 := by
    unfold ackEntry
    rw [h1, h2, h3, h4, Nat.mod_eq_of_lt i.isLt, Nat.mod_eq_of_lt g.isLt, Nat.mod_eq_of_lt q.isLt]
    extract_lets i' sg q' st t upto done rest rest' kept v
    rw [if_neg (by simp [t, i', sg, huse, hgen]), if_neg (by simp [t, i', q', hun, hxq]), if_pos (show 1 % 4 = 1 from rfl)]
  rw [hentry]
  exact (endStream_ends (by rw [hun]; simp) hxq 0x10).1
end

/-! ### Deliveries of a group that every member has acknowledged -/

@[simp] theorem rxPerformed_vs (s : State) (n a b c d : Nat) : (rxPerformed s n a b c d).vs = s.vs := rfl

/-- A settled group holds the deliveries that some member has still to acknowledge; nothing else of any group changes (R284). -/
theorem mcSettle_groups (s : State) (g : Nat) :
    mcOf (mcSettle s g) g = { mcOf s g with pending := (mcOf s g).pending.filter fun e => !e.waiting.isEmpty } ∧
      ∀ h d, agentOf (mcSettle s g) h d = agentOf s h d := by
  unfold mcSettle
  extract_lets root go u v
  have hv : v.vs = u.vs := foldl_same (fun s : State => s.vs) (fun y e => by split <;> rfl) go u
  have hmc : mcOf v g = { mcOf s g with pending := (mcOf s g).pending.filter fun e => !e.waiting.isEmpty } := by
    rw [mcOf, hv]
    exact mcOf_modMc_self ..
  have hag : ∀ h d, agentOf v h d = agentOf s h d := fun h d => by rw [agentOf, hv]; rfl
  split
  · exact ⟨hmc, hag⟩
  · have hq := (seqQuiet_settleAll v).1
    exact ⟨(hq.mc g).trans hmc, fun h d => (hq.agent h d).trans (hag h d)⟩

theorem mcAck_last {s : State} {g d q : Nat} {e : McPending} (hpend : (mcOf s g).pending = [e]) (hseq : e.dseq % 65536 = q) (hwait : e.waiting = [d]) :
    (mcOf (mcAck s g d q 0) g).pending = [] := by
  unfold mcAck
  rw [hpend, List.find?_cons_of_pos (by simp [hseq, hwait])]
  dsimp only
  rw [if_neg (by decide), (mcSettle_groups ..).1, mcOf_modMc_self, hpend]
  simp [hwait]

/-! ### ACK -/

section
variable {s u : State} {node : NodeId} {p : Packet} (h : Takes s node p u)
include h

theorem ack_dispatches (hop : p.opcode = 0x40) {i sg q st : Nat} (hpay : p.payload = leBytes 8 (ackWord i sg q st)) :
    exec (.ack node p) s = .next (settleAll (ackDispatch u node.toNat (dieOf p.src.toNat) (ackWord i sg q st))) := by
  show execAck node p s = _
  rw [execAck, onArrival_next h (by rw [hop]; rfl), hpay, ackEntries_one (ackWord_fields i sg q st).2.2.2.2]
  rfl

/-- An entry of a stream reaches its tracker (R263). -/
theorem ack_tracker (hop : p.opcode = 0x40) {i : BitVec 6} {g : BitVec 10} {q : BitVec 16} {st : Nat}
    (hgroup : mcGroupOf u node.toNat i.toNat q.toNat (dieOf p.src.toNat) = none) (hpay : p.payload = leBytes 8 (ackWord i.toNat g.toNat q.toNat st)) :
    ∃ t, exec (.ack node p) s = .next t ∧
      trackerOf t node.toNat i.toNat = trackerOf (ackEntry u node.toNat (ackWord i.toNat g.toNat q.toNat st)) node.toNat i.toNat ∧ t.mem = s.mem := by
  have hexec := ack_dispatches h hop hpay
  obtain ⟨h1, -, h3, -⟩ := ackWord_fields i.toNat g.toNat q.toNat st
  rw [ackDispatch, h1, h3, Nat.mod_eq_of_lt i.isLt, Nat.mod_eq_of_lt q.isLt, hgroup] at hexec
  exact ⟨_, hexec, (seqQuiet_settleAll _).1.tracker .., exec_same hexec .mem⟩

/-- The last member's entry ends a delivery of its group (R284, R287). -/
theorem ack_group {i : BitVec 6} {q : BitVec 16} {g d sg : Nat} {e : McPending} (hop : p.opcode = 0x40) (hd : d = dieOf p.src.toNat)
    (hpay : p.payload = leBytes 8 (ackWord i.toNat sg q.toNat 0)) (hgroup : mcGroupOf u node.toNat i.toNat q.toNat d = some g)
    (hpend : (mcOf s g).pending = [e]) (hseq : e.dseq % 65536 = q.toNat) (hwait : e.waiting = [d]) :
    ∃ t, exec (.ack node p) s = .next t ∧ (mcOf t g).pending = [] ∧ t.mem = s.mem := by
  subst hd
  have hexec := ack_dispatches h hop hpay
  obtain ⟨h1, -, h3, h4, -⟩ := ackWord_fields i.toNat sg q.toNat 0
  rw [ackDispatch, h1, h3, h4, Nat.mod_eq_of_lt i.isLt, Nat.mod_eq_of_lt q.isLt, hgroup] at hexec
  have hpend' : (mcOf u g).pending = [e] := by
    rw [mcOf, h.vs]
    exact hpend
  refine ⟨_, hexec, ?_, exec_same hexec .mem⟩
  rw [(seqQuiet_settleAll _).1.mc]
  exact mcAck_last hpend' hseq hwait
end

/-! ### ACK_SEND -/

section
variable {s : State} {node : NodeId} (hup : tileUp s node.toNat = true)
include hup

/-- Performed packets of a stream that nothing has acknowledged are acknowledged (R252, R264). -/
theorem ackSend_stream {e : RxEntry} (hrx : rxOf s node.toNat = [e]) (hacks : tgetD s.fab.acks node.toNat [] = []) (hbroken : e.broken = false)
    (hdue : e.due ≠ 0) : ∃ t, exec (.ackSend node) s = .next t ∧ rxOf t node.toNat = [{ e with acked := e.ackPoint, ackNow := false }] ∧
      Sent t node.toNat 0x40 e.src (leBytes 8 (ackWord e.stream e.sgen ((e.ackPoint + 65535) % 65536) 0)) ∧ OnlyParts [.fab] s t := by
  show ∃ t, execAckSend node s = .next t ∧ _
  unfold execAckSend
  extract_lets n rx explicit streams
  have hex : explicit = [] := by simp [explicit, n, hacks]
  have hst : streams = [e] := by simp [streams, rx, n, hrx, hacks, hbroken, hdue]
  rw [hex, hst, if_neg (by simp [n, hup])]
  have hself : [e].filter (fun y => y.src == e.src) = [e] := by simp
  rw [show ([].map (fun a : AckEntry => a.dest) ++ [e].map (fun y => y.src)).head? = some e.src from rfl]
  dsimp only
  rw [hself]
  refine ⟨_, rfl, ?_, sent_mkPacket .., ?_⟩
  · refine (tgetD_tmod_self s.fab.rx n [] _).trans ?_
    rw [show tgetD s.fab.rx n [] = [e] from hrx]
    simp
  · exact onlyParts_of_keeps (send_keeps (modFab_keeps (Keeps.refl _ s) rfl) rfl)

/-- A refusal or a break goes before the streams (R252, R264). -/
theorem ackSend_entry {a : AckEntry} (hrx : rxOf s node.toNat = []) (hacks : tgetD s.fab.acks node.toNat [] = [a]) :
    ∃ t, exec (.ackSend node) s = .next t ∧ tgetD t.fab.acks node.toNat [] = [] ∧
      Sent t node.toNat 0x40 a.dest (leBytes 8 (ackWord a.stream a.sgen a.seq a.status)) ∧ OnlyParts [.fab] s t := by
  show ∃ t, execAckSend node s = .next t ∧ _
  unfold execAckSend
  extract_lets n rx explicit streams
  have hex : explicit = [a] := by simp [explicit, rx, n, hrx, hacks, ackReady]
  have hst : streams = [] := by simp [streams, rx, n, hrx]
  rw [hex, hst, if_neg (by simp [n, hup])]
  have hself : [a].filter (fun y => y.dest == a.dest) = [a] := by simp
  rw [show ([a].map (fun y => y.dest) ++ [].map (fun y : RxEntry => y.src)).head? = some a.dest from rfl]
  dsimp only
  rw [hself]
  refine ⟨_, rfl, ?_, sent_mkPacket .., ?_⟩
  · refine (tgetD_tmod_self s.fab.acks n [] _).trans ?_
    rw [show tgetD s.fab.acks n [] = [a] from hacks]
    simp
  · exact onlyParts_of_keeps (send_keeps (modFab_keeps (Keeps.refl _ s) rfl) rfl)
end

/-! ### NACK -/

section
variable {s u : State} {node : NodeId} {p : Packet} {i : BitVec 6} (h : Takes s node p u) (hop : p.opcode = 0x41) (hi : p.stream = i)
  (huse : (trackerOf s node.toNat i.toNat).inUse = true) (hgen : (trackerOf s node.toNat i.toNat).sgen = p.sgen.toNat)
include h hop hi huse hgen

/-- An OPEN that found no receive entry waits to go again (R260). -/
theorem nackRxFull_waits (hpay : field p.payload 0 1 = 1) (hopen : (trackerOf s node.toNat i.toNat).opening = true) :
    ∃ t, exec (.nackRxFull node p) s = .next t ∧
      trackerOf t node.toNat i.toNat = { trackerOf s node.toNat i.toNat with rxFullAt := some s.now } ∧ OnlyParts [.fab] s t := by
  subst hi
  refine ⟨putTracker u node.toNat p.stream.toNat { trackerOf s node.toNat p.stream.toNat with rxFullAt := some s.now }, ?_, tgetD_tput_self ..,
    (takes_only h).andThen (onlyParts_of_keeps (putTracker_keeps (Keeps.refl _ u) rfl) : OnlyParts [.fab] u _) (by decide) (by decide)⟩
  show execNackRxFull node p s = _
  unfold execNackRxFull
  extract_lets n
  rw [onArrival_next h (by rw [hop]; rfl), h.tracker]
  dsimp only
  rw [if_pos (by simp [n, hpay, huse, hgen, hopen]), show u.now = s.now from takes_only h .now rfl]

/-- A packet of a stream that its target does not know ends the generation (R260, R335). -/
theorem nackNotOpen_ends {x : Unacked} (hpay : field p.payload 0 1 = 2)
    (hx : (trackerOf s node.toNat i.toNat).unacked.find? (fun a => a.seq == p.seq.toNat) = some x) : ∃ t, exec (.nackNotOpen node p) s = .next t ∧
      (trackerOf t node.toNat i.toNat).inUse = false ∧ (trackerOf t node.toNat i.toNat).unacked = [] ∧ t.mem = s.mem := by
  subst hi
  have hexec : exec (.nackNotOpen node p) s =
      .next (settleAll (endStream (reportPkt u 0x21 1 node.toNat x.pkt) node.toNat p.stream.toNat p.seq.toNat 0x21)) := by
    show execNackNotOpen node p s = _
    unfold execNackNotOpen
    extract_lets n
    rw [onArrival_next h (by rw [hop]; rfl), h.tracker]
    dsimp only
    rw [if_pos (by simp [n, hpay, huse, hgen]), hx]
  have htr : trackerOf (reportPkt u 0x21 1 node.toNat x.pkt) node.toNat p.stream.toNat = trackerOf s node.toNat p.stream.toNat :=
    ((quiet_reportPkt u 0x21 1 node.toNat x.pkt).tracker ..).trans (h.tracker ..)
  have hend := (endStream_ends (q := p.seq.toNat) (htr ▸ List.mem_of_find?_eq_some hx) (by simpa using List.find?_some hx) 0x21).1
  have hset := (seqQuiet_settleAll (endStream (reportPkt u 0x21 1 node.toNat x.pkt) node.toNat p.stream.toNat p.seq.toNat 0x21)).1.tracker
    node.toNat p.stream.toNat
  rw [hend] at hset
  exact ⟨_, hexec, by rw [hset]; rfl, by rw [hset]; rfl, exec_same hexec .mem⟩
end

/-! ### What a source does by itself -/

section
variable {s : State} {node : NodeId} {i : BitVec 6}

/-- The OPEN goes again, 1 us after the NACK (R260). -/
theorem openRetry_resends {a : Tick} {x : Unacked} {l : List Unacked} (hat : (trackerOf s node.toNat i.toNat).rxFullAt = some a)
    (hun : (trackerOf s node.toNat i.toNat).unacked = x :: l) : ∃ t, exec (.openRetry node i) s = .next t ∧ t.now = Nat.max s.now (a + 1000) ∧
      t.fab.net = s.fab.net ++ [{ node := node.toNat, port := 0, vc := vcOf x.pkt, pkt := x.pkt }] ∧
      (trackerOf t node.toNat i.toNat).rxFullAt = none ∧ (trackerOf t node.toNat i.toNat).unacked = x :: l ∧
      tgetD t.fab.streamStats (8 * dieOf node.toNat + 5) 0 = tgetD s.fab.streamStats (8 * dieOf node.toNat + 5) 0 + 1 ∧ OnlyParts [.fab, .now] s t := by
  have hexec : exec (.openRetry node i) s = .next (enterNet (streamStat (putTracker (timeReaches s (a + 1000)) node.toNat i.toNat
      { trackerOf s node.toNat i.toNat with rxFullAt := none, advancedAt := (timeReaches s (a + 1000)).now }) node.toNat 5) node.toNat x.pkt) := by
    show execOpenRetry node i s = _
    unfold execOpenRetry
    extract_lets n k t
    rw [show t.rxFullAt = some a from hat, show t.unacked = x :: l from hun]
  have htr : trackerOf (enterNet (streamStat (putTracker (timeReaches s (a + 1000)) node.toNat i.toNat
      { trackerOf s node.toNat i.toNat with rxFullAt := none, advancedAt := (timeReaches s (a + 1000)).now }) node.toNat 5) node.toNat x.pkt)
      node.toNat i.toNat = { trackerOf s node.toNat i.toNat with rxFullAt := none, advancedAt := (timeReaches s (a + 1000)).now } := tgetD_tput_self ..
  refine ⟨_, hexec, rfl, rfl, by rw [htr], by rw [htr]; exact hun, tgetD_tmod_self s.fab.streamStats _ 0 (· + 1), ?_⟩
  exact OnlyParts.widen (l := [.now, .fab]) (fun q hq => exec_same hexec q hq) (by decide)

/-- A stream whose acknowledgement is overdue ends (R337). -/
theorem streamAckTimeout_ends {x : Unacked} {l : List Unacked} (huse : (trackerOf s node.toNat i.toNat).inUse = true)
    (hun : (trackerOf s node.toNat i.toNat).unacked = x :: l) : ∃ t, exec (.streamAckTimeout node i) s = .next t ∧
      (trackerOf t node.toNat i.toNat).inUse = false ∧ (trackerOf t node.toNat i.toNat).unacked = [] ∧
      t.now = Nat.max s.now ((trackerOf s node.toNat i.toNat).advancedAt + 1000 * setting s 0x2610 0) ∧
      tgetD t.integ.streamErrors (8 * dieOf node.toNat + 4) 0 = tgetD s.integ.streamErrors (8 * dieOf node.toNat + 4) 0 + 1 ∧ t.mem = s.mem := by
  let v := streamError (timeReaches s ((trackerOf s node.toNat i.toNat).advancedAt + 1000 * setting s 0x2610 0)) node.toNat 4
  let w := endStream (reportPkt v 0x22 1 node.toNat x.pkt) node.toNat i.toNat x.seq 0x22
  have hexec : exec (.streamAckTimeout node i) s = .next (settleAll w) := by
    show execStreamAckTimeout node i s = _
    unfold execStreamAckTimeout
    extract_lets n k t
    rw [show t.inUse = true from huse, show t.unacked = x :: l from hun]
  have hrep := quiet_reportPkt v 0x22 1 node.toNat x.pkt
  have htr : trackerOf (reportPkt v 0x22 1 node.toNat x.pkt) node.toNat i.toNat = trackerOf s node.toNat i.toNat := hrep.tracker ..
  obtain ⟨hend, herr⟩ := endStream_ends (s := reportPkt v 0x22 1 node.toNat x.pkt) (n := node.toNat) (i := i.toNat) (x := x) (by rw [htr, hun]; simp) rfl 0x22
  have hset := settleAll_failed node.toNat w
  have htrack : trackerOf (settleAll w) node.toNat i.toNat = streamEnded (trackerOf s node.toNat i.toNat) := by
    rw [hset.tracker, hend, htr]
  have hnow : (settleAll w).now = v.now :=
    (settleAll_keeps (endStream_keeps (reportPkt_keeps (Keeps.refl (allBut .now) v) rfl rfl) rfl rfl rfl rfl rfl) rfl rfl rfl rfl).rest
  refine ⟨_, hexec, by rw [htrack]; rfl, by rw [htrack]; rfl, hnow, ?_, exec_same hexec .mem⟩
  rw [hset.2 _ (by omega), herr _ (by omega), hrep.errors]
  exact tgetD_tmod_self s.integ.streamErrors _ 0 (· + 1)

/-- An idle stream is closed (R258, R265). -/
theorem streamIdleClose_closes (huse : (trackerOf s node.toNat i.toNat).inUse = true) (hun : (trackerOf s node.toNat i.toNat).unacked = []) :
    ∃ t, exec (.streamIdleClose node i) s = .next t ∧
      t.now = Nat.max s.now ((trackerOf s node.toNat i.toNat).idleSince + 1000 * setting s 0x2004 0) ∧
      (trackerOf t node.toNat i.toNat).inUse = false ∧ Sent t node.toNat 0x42 (trackerOf s node.toNat i.toNat).dest [] ∧ OnlyParts [.fab, .now] s t := by
  let v := timeReaches s ((trackerOf s node.toNat i.toNat).idleSince + 1000 * setting s 0x2004 0)
  have hexec : exec (.streamIdleClose node i) s = .next (closeStream v node.toNat i.toNat) := by
    show execStreamIdleClose node i s = _
    unfold execStreamIdleClose
    extract_lets n t
    rw [if_pos (by simp [t, n, huse, hun])]
  obtain ⟨o, ho, -, h1, h2, h3, h4⟩ := waiting_closeStream v node.toNat i.toNat
  exact ⟨_, hexec, rfl, by rw [closeStream_tracker], ⟨o, ho, h1, h2, h3, h4⟩,
    OnlyParts.widen (l := [.now, .fab]) (fun q hq => exec_same hexec q hq) (by decide)⟩
end

/-! ### CLOSE and the request queue -/

theorem rxOf_takes {s u : State} {node : NodeId} {p : Packet} (h : Takes s node p u) (n : Nat) : rxOf u n = rxOf s n := by
  obtain ⟨l, rfl⟩ := takeArrived_fab h.2.2
  rfl

/-- A CLOSE frees the receive entry of its generation (R266). -/
theorem close_frees {s u : State} {node : NodeId} {p : Packet} (h : Takes s node p u) (hop : p.opcode = 0x42) : ∃ t, exec (.close node p) s = .next t ∧
    rxOf t node.toNat = (rxOf s node.toNat).filter (fun e => !(rxKey p e && e.sgen == p.sgen.toNat)) ∧ OnlyParts [.fab] s t := by
  have hexec : exec (.close node p) s = .next (modFab u fun x =>
      { x with rx := tmod x.rx node.toNat [] (fun l => l.filter (fun e => !(rxKey p e && e.sgen == p.sgen.toNat))) }) :=
    onArrival_next h (by rw [hop]; rfl)
  refine ⟨_, hexec, ?_, fun q hq => exec_same hexec q hq⟩
  rw [← rxOf_takes h]
  exact tgetD_tmod_self u.fab.rx node.toNat [] _

section
variable {s u : State} {node : NodeId} {p : Packet} {d : Nat} (hd : d = dieOf node.toNat) (h : Accepts s node p false u) (hop : p.opcode = 4) (hlt : d < 16)
include hd h hop hlt

/-- A delivery entry joins the request queue (R210). -/
theorem queuePost_joins (hroom : (vatOf s d).queue.length < 1024) : ∃ t, exec (.queuePost node p) s = .next t ∧
    (vatOf t d).queue = (vatOf s d).queue ++ [(field p.payload 0 8, field p.payload 8 8, field p.payload 16 8)] ∧ OnlyParts [.fab, .vs] s t := by
  subst hd
  refine ⟨modVat u (dieOf node.toNat) fun v => { v with queue := v.queue ++ [(field p.payload 0 8, field p.payload 8 8, field p.payload 16 8)] }, ?_, ?_,
    h.only.andThen (onlyParts_of_keeps (modVat_keeps (Keeps.refl _ u) rfl) : OnlyParts [.vs] u _) (by decide) (by decide)⟩
  · refine (h.acts (by rw [hop]; rfl) _ id).trans ?_
    rw [if_neg (by rw [vatOf_of_vs h.vs]; simp; omega)]
  · rw [vatOf_modVat_self, vatOf_of_vs h.vs]

/-- One that finds the queue full is refused with UNIT_DOWN (R211). -/
theorem queuePost_refuses (hfull : 1024 ≤ (vatOf s d).queue.length) : ∃ t, exec (.queuePost node p) s = .next t ∧ t.vs = s.vs ∧
    Sent t node.toNat 0x22 p.src.toNat (leBytes 16 p.addr.toNat) ∧ Reported s t 0x41 2 ∧ OnlyParts [.fab, .integ, .obs] s t := by
  subst hd
  obtain ⟨h1, h2, h3⟩ := refuse_refuses u node.toNat p 0x41 p.addr.toNat 5 0
  rw [Nat.mod_eq_of_lt p.addr.isLt] at h1
  refine ⟨refuse u node.toNat p 0x41 p.addr.toNat 5, ?_, (h3 .vs rfl).trans h.vs, h1, h2.congr h.integ.symm rfl,
    h.only.andThen h3 (by decide) (by decide)⟩
  refine (h.acts (by rw [hop]; rfl) _ id).trans ?_
  rw [if_pos (by rw [vatOf_of_vs h.vs]; simp; omega)]
end

/-- Settles O45: each step of a stream changes its tracker or its receive entry, and what follows (initiators told, sequencers that go on) leaves them. -/
theorem streamCommandsComplete : Obligations.StreamCommandsComplete := by
  unfold Obligations.StreamCommandsComplete
  intro s u node p i
  refine ⟨?_, ?_, ?_, ?_, ?_, ?_, ?_, ?_, ?_, ?_, ?_⟩
  · intro g q a b x h hop hgroup huse hgen hun ha hx
    refine ⟨fun hpay => ?_, fun hpay => ?_⟩
    · obtain ⟨t, hexec, htr, hmem⟩ := ack_tracker h hop hgroup hpay
      obtain ⟨k, hk, h1, h2, h3⟩ := ackEntry_frees (s := u) (n := node.toNat) (i := i) (g := g) (q := q) (a := a) (b := b) (x := x)
        (by rw [h.tracker, huse]) (by rw [h.tracker, hgen]) (by rw [h.tracker, hun]) ha hx
      rw [hk] at htr
      exact ⟨t, hexec, by rw [htr, h1], by rw [htr, h2], by rw [htr, h3], hmem⟩
    · obtain ⟨t, hexec, htr, hmem⟩ := ack_tracker h hop hgroup hpay
      rw [ackEntry_breaks (a := a) (b := b) (x := x) (by rw [h.tracker, huse]) (by rw [h.tracker, hgen]) (by rw [h.tracker, hun]) hx] at htr
      exact ⟨t, hexec, by rw [htr]; rfl, by rw [htr]; rfl, hmem⟩
  · exact fun g q d sg e h hop hd hpay hgroup hpend hseq hwait => ack_group h hop hd hpay hgroup hpend hseq hwait
  · exact fun e hup hrx hacks hbroken hdue => ackSend_stream hup hrx hacks hbroken hdue
  · exact fun a hup hrx hacks => ackSend_entry hup hrx hacks
  · exact fun h hop hi hpay huse hgen hopen => nackRxFull_waits h hop hi huse hgen hpay hopen
  · exact fun a x l hat hun => openRetry_resends hat hun
  · exact fun x h hop hi hpay huse hgen hx => nackNotOpen_ends h hop hi huse hgen hpay hx
  · exact fun x l huse hun => streamAckTimeout_ends huse hun
  · exact fun huse hun => streamIdleClose_closes huse hun
  · exact fun h hop => close_frees h hop
  · exact fun d hd h hop hlt => ⟨fun hroom => queuePost_joins hd h hop hlt hroom, fun hfull => queuePost_refuses hd h hop hlt hfull⟩

end Sys2Proof.Machine

/-!
PROOFS. Multicast: the root's relay and refusal, the receiver tiles, the member agents and pruning (R281 to R290, R308).
-/
namespace Sys2Proof.Machine

set_option Elab.async false

/-! ### The root -/

/-- A relayed packet waits at the root under the next DSEQ, and for the members (R283, R284). -/
theorem mcRelay_relays (s : State) (n g : Nat) (p : Packet) : (mcOf (mcRelay s n g p none) g).nextDseq = ((mcOf s g).nextDseq + 1) % 2 ^ 32 ∧
    Sent (mcRelay s n g p none) n 0x61 n p.payload ∧
    (∀ m, m = (mcMembers (mcRecord (tileBank s n) g)).filter (fun d => !(mcOf s g).pruned.contains d) → m ≠ [] → ∃ e : McPending,
      (mcOf (mcRelay s n g p none) g).pending = (mcOf s g).pending ++ [e] ∧ e.dseq = (mcOf s g).nextDseq ∧ e.waiting = m ∧ e.seq = p.seq.toNat ∧
      e.src = p.src.toNat) ∧ OnlyParts [.fab, .vs] s (mcRelay s n g p none) := by
  unfold mcRelay
  extract_lets b r grp dseq members base pkt e u
  have hmc : mcOf (send u n (.multicast g) pkt) g =
      { grp with nextDseq := (dseq + 1) % 2 ^ 32, pending := if members.isEmpty then grp.pending else grp.pending ++ [e] } := mcOf_modMc_self ..
  refine ⟨by rw [hmc], ?_, ?_, onlyParts_of_keeps (send_keeps (modMc_keeps (Keeps.refl _ s) rfl) rfl)⟩
  · refine ⟨{ owner := .multicast g, pkt := { pkt with src := BitVec.ofNat 12 n } }, ?_, rfl, rfl, rfl, rfl⟩
    rw [waiting_send]
    exact List.mem_append_right _ (List.mem_singleton_self _)
  · rintro m rfl hm
    refine ⟨e, ?_, rfl, rfl, rfl, rfl⟩
    rw [hmc]
    exact if_neg (by rw [List.isEmpty_iff]; exact hm)

section
variable {s u : State} {node : NodeId} {p : Packet} {g : Nat} (hg : g = bits p.aux.toNat 9 0) (h : Accepts s node p true u) (hop : p.opcode = 0x60)
include hg h hop

omit hg hop in
theorem Accepts.tileBank {n : Nat} : tileBank u n = Machine.tileBank s n := by
  unfold Machine.tileBank bankOfEpoch tileEpoch
  rw [show u.ep = s.ep from h.only .ep rfl]

omit hg in
/-- A packet that the root may relay, or refuses, is handled in sequence: the relay is performed later (R283, R284). -/
theorem mcSend_performs (hgo : (mcWindowFull s (bits p.aux.toNat 9 0) && (mcRefusal u node.toNat (bits p.aux.toNat 9 0) p.partition.toNat).isNone) = false) :
    ∃ t, exec (.mcSend node p) s = .next t ∧ match mcRefusal u node.toNat (bits p.aux.toNat 9 0) p.partition.toNat with
      | some cause => t = refuse u node.toNat p cause p.addr.toNat (rootUnit node.toNat) (bits p.aux.toNat 9 0)
      | none => t = mcRelay u node.toNat (bits p.aux.toNat 9 0) p none ∨
          t = rxPerformed (mcRelay u node.toNat (bits p.aux.toNat 9 0) p none) node.toNat p.src.toNat p.stream.toNat p.sgen.toNat p.seq.toNat := by
  have hsame : mcRefusal s node.toNat (bits p.aux.toNat 9 0) p.partition.toNat = mcRefusal u node.toNat (bits p.aux.toNat 9 0) p.partition.toNat := by
    unfold mcRefusal
    rw [h.tileBank]
  show ∃ t, execMcSend node p s = .next t ∧ _
  unfold execMcSend
  extract_lets n g
  rw [if_neg (by rw [hsame, Bool.not_eq_true]; exact hgo), h.acts (by rw [hop]; rfl)]
  refine ⟨_, rfl, ?_⟩
  cases mcRefusal u n g p.partition.toNat with
  | some cause => rfl
  | none =>
    dsimp only
    split
    · exact .inl rfl
    · exact .inr rfl

theorem mcSend_relays (hfull : mcWindowFull s g = false) (hok : mcRefusal u node.toNat g p.partition.toNat = none) : ∃ t, exec (.mcSend node p) s = .next t ∧
    (mcOf t g).nextDseq = ((mcOf s g).nextDseq + 1) % 2 ^ 32 ∧ Sent t node.toNat 0x61 node.toNat p.payload ∧
    (∀ m, m = (mcMembers (mcRecord (tileBank s node.toNat) g)).filter (fun d => !(mcOf s g).pruned.contains d) → m ≠ [] → ∃ e : McPending,
      (mcOf t g).pending = (mcOf s g).pending ++ [e] ∧ e.dseq = (mcOf s g).nextDseq ∧ e.waiting = m ∧ e.seq = p.seq.toNat ∧ e.src = p.src.toNat) ∧
    OnlyParts [.fab, .vs] s t := by
  subst hg
  obtain ⟨h1, h2, h3, h4⟩ := mcRelay_relays u node.toNat (bits p.aux.toNat 9 0) p
  have hmc : mcOf u (bits p.aux.toNat 9 0) = mcOf s (bits p.aux.toNat 9 0) := by rw [mcOf, h.vs, mcOf]
  rw [hmc] at h1 h3
  rw [h.tileBank] at h3
  have hrelay := h.only.andThen h4 (n := [.fab, .vs]) (by decide) (by decide)
  obtain ⟨t, hexec, ht⟩ := mcSend_performs h hop (by rw [hfull, Bool.false_and])
  rw [hok] at ht
  refine ⟨t, hexec, ?_⟩
  rcases ht with rfl | rfl
  · exact ⟨h1, h2, h3, hrelay⟩
  · exact ⟨h1, h2, h3, hrelay.andThen (onlyParts_of_keeps (l := [.fab]) (rxPerformed_keeps (Keeps.refl _ _) rfl)) (by decide) (by decide)⟩

/-- A packet that the root cannot relay is refused (R281). -/
theorem mcSend_refuses {cause : Nat} (hno : mcRefusal u node.toNat g p.partition.toNat = some cause) : ∃ t, exec (.mcSend node p) s = .next t ∧
    Sent t node.toNat 0x22 p.src.toNat (leBytes 16 p.addr.toNat) ∧ Reported s t cause 2 ∧ t.vs = s.vs ∧ OnlyParts [.fab, .integ, .obs] s t := by
  subst hg
  obtain ⟨h1, h2, h3⟩ := refuse_refuses u node.toNat p cause p.addr.toNat (rootUnit node.toNat) (bits p.aux.toNat 9 0)
  rw [Nat.mod_eq_of_lt p.addr.isLt] at h1
  obtain ⟨t, hexec, ht⟩ := mcSend_performs h hop (by rw [hno]; simp)
  rw [hno] at ht
  subst ht
  exact ⟨_, hexec, h1, h2.congr h.integ.symm rfl, (h3 .vs rfl).trans h.vs, h.only.andThen h3 (by decide) (by decide)⟩
end

/-! ### Waits of a vat on a group -/

theorem quiet_mcWake (s : State) (g d : Nat) : Quiet s (mcWake s g d) := by
  unfold mcWake
  extract_lets n go u
  have hu : Quiet s u := foldl_related (R := Quiet) .refl .trans (fun s e => quiet_finishOp ..) go s
  split
  · split
    · exact hu.trans ((seqQuiet_seqEvent ..).trans (seqQuiet_seqNext ..)).1
    · exact hu
  · exact hu

theorem quiet_mcFailWaits (s : State) (g d : Nat) : Quiet s (mcFailWaits s g d) := by
  unfold mcFailWaits
  extract_lets go u
  have hu : Quiet s u := foldl_related (R := Quiet) .refl .trans (fun s e => quiet_fibreFault ..) go s
  split
  · split
    · exact hu.trans (seqQuiet_seqTrap ..).1
    · exact hu
  · exact hu

/-! ### A receiver tile -/

@[simp] theorem agentOf_modAgent (s : State) (g d : Nat) (f : McAgent → McAgent) : agentOf (modAgent s g d f) g d = f (agentOf s g d) :=
  tgetD_tmod_self s.vs.agents (16 * g + d) {} f

/-- The entry by which a member agent answers its root (R287). -/
def agentEntry (b : Bank) (g sgen seq status : Nat) : AckEntry :=
  { dest := mcRoot (mcRecord b g), stream := mcTracker b (mcRoot (mcRecord b g)) g, sgen := sgen, seq := seq, status := status }

theorem agentAck_enters (s : State) (b : Bank) (g d sgen seq status : Nat) :
    agentEntry b g sgen seq status ∈ tgetD (agentAck s b g d sgen seq status).fab.acks (schedTile d) [] := by
  have h : tgetD (agentAck s b g d sgen seq status).fab.acks (schedTile d) [] = tgetD s.fab.acks (schedTile d) [] ++ [agentEntry b g sgen seq status] :=
    tgetD_tmod_self s.fab.acks (schedTile d) [] (· ++ [agentEntry b g sgen seq status])
  rw [h]
  exact List.mem_append_right _ (List.mem_singleton_self _)

/-- The state in which an agent has acknowledged the DSEQ that it waited for, and counted its bytes (R286, R287). -/
def agentCounted (s : State) (b : Bank) (g d len gen : Nat) : State :=
  modAgent (agentAck s b g d gen ((agentOf s g d).nextDseq % 65536) 0) g d fun a =>
    { a with
      bytes := (a.bytes + len) % 2 ^ 32, generation := gen, nextDseq := (a.nextDseq + 1) % 2 ^ 32
      reports := tdel a.reports a.nextDseq }

/-- An agent whose only report is of the DSEQ it waits for, from every receiver tile, advances by one. -/
theorem agentAdvance_one {s : State} {b : Bank} {g d len gen : Nat} {l : List Nat} (f : Nat)
    (hrep : (agentOf s g d).reports = [((agentOf s g d).nextDseq, l, len, gen)]) (hall : ∀ t ∈ mcTilesOf b g d, localOf t ∈ l) :
    agentAdvance (f + 2) s b g d = mcWake (agentCounted s b g d len gen) g d := by
  have hagent : (agentOf (mcWake (agentCounted s b g d len gen) g d) g d).reports = [] := by
    rw [(quiet_mcWake ..).agent, agentCounted, agentOf_modAgent]
    show tdel (agentOf s g d).reports (agentOf s g d).nextDseq = []
    rw [hrep]
    simp [tdel]
  have hstop : agentAdvance (f + 1) (mcWake (agentCounted s b g d len gen) g d) b g d = mcWake (agentCounted s b g d len gen) g d := by
    rw [agentAdvance, hagent]
    rfl
  rw [agentAdvance, hrep, show tget [((agentOf s g d).nextDseq, l, len, gen)] (agentOf s g d).nextDseq = some (l, len, gen) by simp [tget]]
  dsimp only
  rw [if_pos (by simpa using hall)]
  exact hstop

/-- Bytes that lie in the range of a tile's one entry are stored (R290). -/
theorem mcWrite_one {s : State} {b : Bank} {g n pos lo base e : Nat} {data : Bytes}
    (he : (receivers b (dieOf n)).filter (fun x => bits x 63 54 == g && bits x 53 48 == localOf n) = [e]) (hbank : bitAt e 47 = false) (hlo : lo = bits e 95 64)
    (hbase : base = bits e 20 0) (hfirst : lo ≤ pos) (hlast : pos + data.length ≤ lo + bits e 127 96) (hne : data ≠ []) :
    mcWrite s b g n pos data = writeClean s (dieOf n * 2 ^ 27 + localOf n * 2 ^ 21 + base + (pos - lo)) data := by
  subst hlo hbase
  have hlen : 0 < data.length := List.length_pos_iff.mpr hne
  unfold mcWrite
  extract_lets d l es
  rw [show es = [e] from he, List.foldl_cons, List.foldl_nil]
  extract_lets lo hi base first last a
  have hf : first = pos := Nat.max_eq_left hfirst
  have hl : last = pos + data.length := Nat.min_eq_left hlast
  have hb : base = bits e 20 0 := by simp [base, hbank]
  rw [if_pos (by omega)]
  have hdata : slice data (first - pos) (last - first) = data := by rw [slice, hf, hl, Nat.sub_self, List.drop_zero, Nat.add_sub_cancel_left, List.take_length]
  have ha : a = d * 2 ^ 27 + l * 2 ^ 21 + bits e 20 0 + (pos - lo) := by show d * 2 ^ 27 + l * 2 ^ 21 + base + (first - lo) = _; rw [hb, hf]
  rw [hdata, show last - first = data.length by omega, ha]
  rfl

/-- The state in which a receiver tile's agent has heard of a packet (R286). -/
def agentTold (s : State) (g d l next gen len : Nat) : State :=
  modAgent s g d fun a =>
    { a with tiles := tput a.tiles l (gen, (next + 1) % 2 ^ 32), reports := tmod a.reports next ([], len, gen) (fun x => (l :: x.1, x.2)) }

section
variable {s : State} {n g d : Nat} {p : Packet} {b : Bank} (hg : g = bits p.aux.toNat 9 0) (hd : d = dieOf n) (hpruned : (agentOf s g d).pruned = false)
  (hin : n ∈ mcTilesOf b g d) (hnone : tget (agentOf s g d).tiles (localOf n) = none) (hfault : packetFault p = none)
include hg hd hpruned hin hnone hfault

theorem mcReceive_fails (horder : mcInOrder (mcSequenced (mcRecord b g)) (agentOf s g d).generation (agentOf s g d).nextDseq p = false) :
    mcReceive s b n p = agentAck s b g d p.sgen.toNat p.seq.toNat 1 := by
  subst hg hd
  unfold mcReceive
  extract_lets g d r a fault v w
  have htile : tgetD a.tiles (localOf n) (a.generation, a.nextDseq) = (a.generation, a.nextDseq) := by rw [tgetD, hnone]; rfl
  rw [if_neg (by simp [a, d, g, hpruned, hin]), htile]
  dsimp only
  rw [show mcInOrder (mcSequenced r) a.generation a.nextDseq p = false from horder]
  have hw : w = s := by
    unfold w fault
    rw [hfault]
  simp [hw]
  rfl

theorem mcReceive_takes (horder : mcInOrder (mcSequenced (mcRecord b g)) (agentOf s g d).generation (agentOf s g d).nextDseq p = true)
    (hpart : p.partition.toNat = mcPart (mcRecord b g)) (hbad : tableBad s n 3 g = false) :
    mcReceive s b n p = agentAdvance 257 (agentTold (mcWrite s b g n (bits p.addr.toNat 31 0) p.payload) g d (localOf n) (agentOf s g d).nextDseq
      p.sgen.toNat p.payload.length) b g d := by
  subst hg hd
  unfold mcReceive
  extract_lets g d r a fault v w
  have htile : tgetD a.tiles (localOf n) (a.generation, a.nextDseq) = (a.generation, a.nextDseq) := by rw [tgetD, hnone]; rfl
  rw [if_neg (by simp [a, d, g, hpruned, hin]), htile]
  dsimp only
  rw [if_pos (by simp [fault, hfault, r, g, hpart, hbad, show mcInOrder (mcSequenced r) a.generation a.nextDseq p = true from horder])]
  rfl
end

section
variable {s u : State} {node : NodeId} {p : Packet} {g d l : Nat} {b : Bank} (hg : g = bits p.aux.toNat 9 0) (hup : tileUp s node.toNat = true)
  (hd : d = dieOf node.toNat) (hlt : d < 16) (hop : p.opcode = 0x61) (htake : takeArrived s node.toNat p = some u)
  (hb : bankOfEpoch s p.epoch.toNat = some b)
include hd hlt hop htake hb hup

omit hd hlt hop hb hup in
theorem arrived_only : OnlyParts [.fab] s u := by
  obtain ⟨m, rfl⟩ := takeArrived_fab htake
  exact onlyParts_of_keeps (modFab_keeps (Keeps.refl _ s) rfl)

theorem mcDeliver_receives : exec (.mcDeliver node p) s = .next (mcReceive u b node.toNat p) := by
  show execMcDeliver node p s = _
  unfold execMcDeliver
  extract_lets n
  rw [if_pos (by simp [n, hup, ← hd, hlt, hop]), htake, hb]

variable (hpruned : (agentOf s g d).pruned = false) (hfault : packetFault p = none)
include hg hpruned hfault

/-- A packet out of order is answered with a failure (R289). -/
theorem mcDeliver_fails (hin : (mcTilesOf b g d).contains node.toNat = true) (hnone : tget (agentOf s g d).tiles (localOf node.toNat) = none)
    (horder : mcInOrder (mcSequenced (mcRecord b g)) (agentOf s g d).generation (agentOf s g d).nextDseq p = false) :
    ∃ t, exec (.mcDeliver node p) s = .next t ∧ t.vs = s.vs ∧ t.mem = s.mem ∧
      (∃ a ∈ tgetD t.fab.acks (schedTile d) [], a.dest = mcRoot (mcRecord b g) ∧ a.seq = p.seq.toNat ∧ a.sgen = p.sgen.toNat ∧ a.status = 1) ∧
      OnlyParts [.fab] s t := by
  have honly := arrived_only htake
  have hag : agentOf u g d = agentOf s g d := by rw [agentOf, show u.vs = s.vs from honly .vs rfl, agentOf]
  have hrec := mcReceive_fails (s := u) (b := b) hg hd (by rw [hag, hpruned]) (by simpa using hin) (by rw [hag, hnone]) hfault (by rw [hag, horder])
  have hack : OnlyParts [.fab] u (agentAck u b g d p.sgen.toNat p.seq.toNat 1) := onlyParts_of_keeps (agentAck_keeps (Keeps.refl _ u) rfl)
  have hall := honly.andThen hack (n := [.fab]) (by decide) (by decide)
  refine ⟨_, (mcDeliver_receives hup hd hlt hop htake hb).trans (by rw [hrec]), hall .vs rfl, hall .mem rfl, ?_, hall⟩
  exact ⟨_, agentAck_enters .., rfl, rfl, rfl, rfl⟩

/-- A packet in order stores its bytes, and its agent acknowledges it (R286, R287, R290). -/
theorem mcDeliver_stores {e lo base : Nat} (hl : l = localOf node.toNat) (htiles : mcTilesOf b g d = [node.toNat])
    (hnone : tget (agentOf s g d).tiles l = none) (hreports : (agentOf s g d).reports = [])
    (horder : mcInOrder (mcSequenced (mcRecord b g)) (agentOf s g d).generation (agentOf s g d).nextDseq p = true)
    (hpart : p.partition.toNat = mcPart (mcRecord b g)) (hbad : tableBad s node.toNat 3 g = false)
    (he : (receivers b d).filter (fun x => bits x 63 54 == g && bits x 53 48 == l) = [e]) (hbank : bitAt e 47 = false) (hlo : lo = bits e 95 64)
    (hbase : base = bits e 20 0) (hfirst : lo ≤ bits p.addr.toNat 31 0) (hlast : bits p.addr.toNat 31 0 + p.payload.length ≤ lo + bits e 127 96)
    (hne : p.payload ≠ []) : ∃ t, exec (.mcDeliver node p) s = .next t ∧
      t.mem = memWrite s.mem (d * 2 ^ 27 + l * 2 ^ 21 + base + (bits p.addr.toNat 31 0 - lo)) p.payload ∧
      (agentOf t g d).bytes = ((agentOf s g d).bytes + p.payload.length) % 2 ^ 32 ∧
      (agentOf t g d).nextDseq = ((agentOf s g d).nextDseq + 1) % 2 ^ 32 ∧
      (∃ a ∈ tgetD t.fab.acks (schedTile d) [], a.dest = mcRoot (mcRecord b g) ∧ a.seq = (agentOf s g d).nextDseq % 65536 ∧ a.status = 0) := by
  subst hl
  have honly := arrived_only htake
  have hag : agentOf u g d = agentOf s g d := by rw [agentOf, show u.vs = s.vs from honly .vs rfl, agentOf]
  let v := writeClean u (d * 2 ^ 27 + localOf node.toNat * 2 ^ 21 + base + (bits p.addr.toNat 31 0 - lo)) p.payload
  let w := agentTold v g d (localOf node.toNat) (agentOf s g d).nextDseq p.sgen.toNat p.payload.length
  have hwrite : mcWrite u b g node.toNat (bits p.addr.toNat 31 0) p.payload = v := by
    rw [mcWrite_one (hd ▸ he) hbank hlo hbase hfirst hlast hne, ← hd]
  have hwag : agentOf w g d = { agentOf s g d with
      tiles := tput (agentOf s g d).tiles (localOf node.toNat) (p.sgen.toNat, ((agentOf s g d).nextDseq + 1) % 2 ^ 32)
      reports := [((agentOf s g d).nextDseq, [localOf node.toNat], p.payload.length, p.sgen.toNat)] } := by
    rw [show agentOf w g d = _ from agentOf_modAgent v g d _, show agentOf v g d = agentOf s g d from hag, hreports]
    rfl
  have hrec : mcReceive u b node.toNat p = mcWake (agentCounted w b g d p.payload.length p.sgen.toNat) g d := by
    rw [mcReceive_takes hg hd (by rw [hag, hpruned]) (by simp [htiles]) (by rw [hag, hnone]) hfault (by rw [hag, horder]) hpart
      (by rw [tableBad, show u.integ = s.integ from honly .integ rfl]; exact hbad), hwrite, hag]
    exact agentAdvance_one 255 (by rw [hwag]) (by simp [htiles])
  have hq := quiet_mcWake (agentCounted w b g d p.payload.length p.sgen.toNat) g d
  have hcounted : agentOf (agentCounted w b g d p.payload.length p.sgen.toNat) g d = _ := agentOf_modAgent ..
  have hack : agentOf (agentAck w b g d p.sgen.toNat ((agentOf w g d).nextDseq % 65536) 0) g d = agentOf w g d := rfl
  rw [hack] at hcounted
  refine ⟨_, (mcDeliver_receives hup hd hlt hop htake hb).trans (by rw [hrec]), ?_, ?_, ?_, ?_⟩
  · have hmem : (mcWake (agentCounted w b g d p.payload.length p.sgen.toNat) g d).mem = v.mem :=
      (mcWake_keeps (modAgent_keeps (agentAck_keeps (modAgent_keeps (Keeps.refl (allBut .mem) v) rfl) rfl) rfl) rfl rfl rfl rfl rfl).rest
    rw [hmem, ← show u.mem = s.mem from honly .mem rfl]
    rfl
  · rw [hq.agent, hcounted, hwag]
  · rw [hq.agent, hcounted, hwag]
  · rw [hq.acks]
    exact ⟨_, agentAck_enters w b g d p.sgen.toNat ((agentOf w g d).nextDseq % 65536) 0, rfl, by rw [hwag]; rfl, rfl⟩
end

/-! ### Pruning -/

/-- A group whose root has given a member up (R308). -/
def groupWithout (d : Nat) (x : McGroup) : McGroup :=
  { x with pruned := x.pruned ++ [d], pending := x.pending.map (fun e => { e with waiting := e.waiting.filter (· != d) }) }

/-- A member agent that its root has given up (R308). -/
def agentPruned (a : McAgent) : McAgent := { a with pruned := true, reports := [], tiles := [] }

/-- The state in which a group's root has given a member up, before the waits of its vat fail (R308). -/
def memberPruned (s : State) (g d cause : Nat) : State :=
  let r := mcRecord s.ep.cur g
  let root := mcRoot r
  let s := modMc s g (groupWithout d)
  let s := modAgent s g d agentPruned
  let s := modVs s fun v => { v with mcCounts := bump v.mcCounts 0 }
  let s := event s root (rootUnit root) 0x24 (mcPart r) (d * 2 ^ 10 + g)
  report s { cause := cause, cls := 2, unit := rootUnit root, source := root, partition := some (mcPart r), detail := d * 2 ^ 10 + g }

theorem mcPrune_eq {s : State} {g d cause : Nat} (h : (mcOf s g).pruned.contains d = false) :
    mcPrune s g d cause = mcSettle (mcFailWaits (memberPruned s g d cause) g d) g := by
  unfold mcPrune
  rw [if_neg (by rw [h]; exact Bool.false_ne_true)]
  rfl

theorem memberPruned_groups (s : State) (g d cause : Nat) :
    mcOf (memberPruned s g d cause) g = groupWithout d (mcOf s g) ∧ agentOf (memberPruned s g d cause) g d = agentPruned (agentOf s g d) := by
  unfold memberPruned
  extract_lets r root u v w x
  have hmc : mcOf w g = groupWithout d (mcOf s g) := mcOf_modMc_self s g (groupWithout d)
  have hag : agentOf w g d = agentPruned (agentOf s g d) := agentOf_modAgent u g d agentPruned
  have hvs : (report x { cause := cause, cls := 2, unit := rootUnit root, source := root, partition := some (mcPart r), detail := d * 2 ^ 10 + g }).vs = w.vs :=
    (report_vs ..).trans (event_vs ..)
  rw [mcOf, agentOf, hvs]
  exact ⟨hmc, hag⟩

/-- A pruned member is waited for no more (R308). -/
theorem mcPrune_prunes {s : State} {g d : Nat} (cause : Nat) (h : (mcOf s g).pruned.contains d = false) :
    (mcOf (mcPrune s g d cause) g).pruned = (mcOf s g).pruned ++ [d] ∧ (∀ x ∈ (mcOf (mcPrune s g d cause) g).pending, ¬ d ∈ x.waiting) ∧
      (agentOf (mcPrune s g d cause) g d).pruned = true := by
  obtain ⟨hmc, hag⟩ := memberPruned_groups s g d cause
  obtain ⟨hset, hset'⟩ := mcSettle_groups (mcFailWaits (memberPruned s g d cause) g d) g
  have hq := quiet_mcFailWaits (memberPruned s g d cause) g d
  rw [mcPrune_eq h, hset, hset', hq.mc, hq.agent, hmc, hag]
  refine ⟨rfl, fun x hx => ?_, rfl⟩
  obtain ⟨e, -, rfl⟩ := List.mem_map.mp (List.mem_filter.mp hx).1
  simp

/-- A member that has not acknowledged in time is pruned (R308). -/
theorem mcAckTimeout_prunes {s : State} {h : McGroupId} {q : BitVec 32} {e : McPending} {d : Nat}
    (he : (mcOf s h.val).pending.find? (fun e => e.dseq == q.toNat) = some e) (hwait : e.waiting = [d]) (hd : (mcOf s h.val).pruned.contains d = false) :
    ∃ t, exec (.mcAckTimeout h q) s = .next t ∧ t.now = Nat.max s.now (e.at_ + 1000 * setting s 0x2511 0) ∧
      (mcOf t h.val).pruned = (mcOf s h.val).pruned ++ [d] ∧ (∀ x ∈ (mcOf t h.val).pending, ¬ d ∈ x.waiting) ∧ (agentOf t h.val d).pruned = true ∧
      t.mem = s.mem := by
  let u := timeReaches s (e.at_ + 1000 * setting s 0x2511 0)
  have hexec : exec (.mcAckTimeout h q) s = .next (mcPrune u h.val d 0x58) := by
    show execMcAckTimeout h q s = _
    unfold execMcAckTimeout
    rw [he]
    dsimp only
    rw [hwait]
    rfl
  obtain ⟨h1, h2, h3⟩ := mcPrune_prunes (s := u) 0x58 hd
  have hnow : (mcPrune u h.val d 0x58).now = u.now := (mcPrune_keeps (Keeps.refl (allBut .now) u) rfl rfl rfl rfl rfl).rest
  exact ⟨_, hexec, hnow, h1, h2, h3, exec_same hexec .mem⟩

/-- Settles O46: the root, a receiver tile with its agent, and pruning each change the group; what the waits of a vat then do leaves every group alone. -/
theorem multicastCommandsComplete : Obligations.MulticastCommandsComplete := by
  unfold Obligations.MulticastCommandsComplete
  intro s u node p g hg
  refine ⟨?_, ?_, ?_, ?_, ?_⟩
  · exact fun h hop hfull hok => mcSend_relays hg h hop hfull hok
  · exact fun cause h hop hno => mcSend_refuses hg h hop hno
  · intro d l e lo base b hup hd hlt hop htake hb hpruned hl htiles hnone hreports horder hfault hpart hbad he hbank hlo hbase hfirst hlast hne
    obtain ⟨t, hexec, hmem, h1, h2, h3⟩ := mcDeliver_stores hg hup hd hlt hop htake hb hpruned hfault hl htiles hnone hreports horder hpart hbad he hbank hlo
      hbase hfirst hlast hne
    refine ⟨t, hexec, fun hwf => ?_, fun a ha => ?_, h1, h2, h3⟩
    · rw [readMem, hmem]
      exact memRead_memWrite _ _ _ hwf
    · rw [hmem]
      exact memGet_memWrite_out _ _ _ _ ha
  · exact fun d b hup hd hlt hop htake hb hpruned hin hnone horder hfault => mcDeliver_fails hg hup hd hlt hop htake hb hpruned hfault hin hnone horder
  · exact fun h q e d he hwait hd => mcAckTimeout_prunes he hwait hd

end Sys2Proof.Machine

/-!
PROOFS. Trace sent and appended to the capture buffers, FREEZE and snapshots (R545 to R548, R559, R560, R562).
-/
namespace Sys2Proof.Machine

set_option Elab.async false

/-! ### A tile's trace stage -/

/-- What a stage holds once it has given messages away (R545, R546). -/
def stageLeft (now : Tick) (lost : Bool) (out rest : List TraceMsg) (x : Stage512) : Stage512 :=
  let x := { x with msgs := rest, oldest := match rest with | m :: _ => m.time | [] => now }
  if lost then { x with dropped := x.dropped + out.length, droppedAt := if x.dropped = 0 then now else x.droppedAt } else x

theorem stageLeft_msgs (now : Tick) (lost : Bool) (out rest : List TraceMsg) (x : Stage512) : (stageLeft now lost out rest x).msgs = rest := by
  cases lost <;> rfl

/-- The state in which a tile's stage has given messages away. -/
def stageSent (s : State) (n : Nat) (lost : Bool) (out rest : List TraceMsg) : State :=
  modObs s fun o => { o with stages := tmod o.stages n {} (stageLeft s.now lost out rest) }

theorem stageSent_stage (s : State) (n : Nat) (lost : Bool) (out rest : List TraceMsg) :
    tgetD (stageSent s n lost out rest).obs.stages n {} = stageLeft s.now lost out rest (tgetD s.obs.stages n {}) := tgetD_tmod_self ..

theorem stageSent_only (s : State) (n : Nat) (lost : Bool) (out rest : List TraceMsg) : OnlyParts [.obs] s (stageSent s n lost out rest) :=
  onlyParts_of_keeps (modObs_keeps (Keeps.refl _ s) rfl)

section
variable {s : State} {node : NodeId} {b c : Nat} {out rest : List TraceMsg} (hup : tileUp s node.toNat = true)
  (hne : (tgetD s.obs.stages node.toNat {}).msgs ≠ []) (htake : stageTake 512 (tgetD s.obs.stages node.toNat {}).msgs = (out, rest))
  (hb : b = setting s (0x7070 + dieOf node.toNat) 0 % 16) (hc : c = bufConfig s b)
include hup hne htake hb hc

/-- The stage's messages leave for their buffer's first tile, or are lost. -/
theorem traceStageSend_takes : ∃ v, OnlyParts [.now] s v ∧ exec (.traceStageSend node) s =
    .next (if !bcEn c || !tileUp s (bufTile b c) then stageSent v node.toNat true out rest
      else send (stageSent v node.toNat false out rest) node.toNat (.trace node.toNat) (mkPacket 5 (bufTile b c) 0 none 0 (out.flatMap TraceMsg.bytes))) := by
  subst hb hc
  show ∃ v, OnlyParts [.now] s v ∧ execTraceStageSend node s = _
  unfold execTraceStageSend
  extract_lets n st v b c lost
  have hv : OnlyParts [.now] s v := by
    unfold v
    split
    · exact onlyParts_of_keeps (timeReaches_keeps (Keeps.refl _ s) rfl)
    · exact onlyParts_of_keeps (Keeps.refl _ s)
  have hset (i k : Nat) : setting v i k = setting s i k := setting_congr (congrArg Epochs.cur (hv .ep rfl)) (congrArg DictState.rw (hv .dict rfl)) i k
  have htile (m : Nat) : tileUp v m = tileUp s m := by rw [tileUp, show v.pow = s.pow from hv .pow rfl, show v.time = s.time from hv .time rfl, tileUp]
  have hb : b = setting s (0x7070 + dieOf node.toNat) 0 % 16 := congrArg (· % 16) (hset ..)
  have hc : c = bufConfig s b := hset ..
  have hlost : lost = (!bcEn c || !tileUp s (bufTile b c)) := by rw [← htile]
  refine ⟨v, hv, ?_⟩
  rw [if_neg (by simp [st, n, hne, hup]), show stageTake 512 st.msgs = (out, rest) from htake, ← hb, ← hc, ← hlost]
  dsimp only
  cases lost <;> rfl

theorem traceStageSend_sends (hen : bcEn c = true) (hbuf : tileUp s (bufTile b c) = true) : ∃ t, exec (.traceStageSend node) s = .next t ∧
    (tgetD t.obs.stages node.toNat {}).msgs = rest ∧ Sent t node.toNat 5 (bufTile b c) (out.flatMap TraceMsg.bytes) ∧
    (tgetD t.obs.stages node.toNat {}).dropped = (tgetD s.obs.stages node.toNat {}).dropped ∧ OnlyParts [.fab, .now, .obs] s t := by
  obtain ⟨v, hv, hexec⟩ := traceStageSend_takes hup hne htake hb hc
  rw [if_neg (by simp [hen, hbuf])] at hexec
  have hst := stageSent_stage v node.toNat false out rest
  rw [show v.obs = s.obs from hv .obs rfl] at hst
  refine ⟨_, hexec, (congrArg Stage512.msgs hst).trans (stageLeft_msgs ..), sent_mkPacket .., (congrArg Stage512.dropped hst).trans rfl, ?_⟩
  exact (hv.andThen (stageSent_only v node.toNat false out rest) (n := [.now, .obs]) (by decide) (by decide)).andThen (send_only _ _ _ _) (by decide) (by decide)

theorem traceStageSend_loses (hoff : bcEn c = false ∨ tileUp s (bufTile b c) = false) : ∃ t, exec (.traceStageSend node) s = .next t ∧
    (tgetD t.obs.stages node.toNat {}).msgs = rest ∧
    (tgetD t.obs.stages node.toNat {}).dropped = (tgetD s.obs.stages node.toNat {}).dropped + out.length ∧ OnlyParts [.now, .obs] s t := by
  obtain ⟨v, hv, hexec⟩ := traceStageSend_takes hup hne htake hb hc
  rw [if_pos (by rcases hoff with h | h <;> simp [h])] at hexec
  have hst := stageSent_stage v node.toNat true out rest
  rw [show v.obs = s.obs from hv .obs rfl] at hst
  exact ⟨_, hexec, (congrArg Stage512.msgs hst).trans (stageLeft_msgs ..), congrArg Stage512.dropped hst,
    hv.andThen (stageSent_only v node.toNat true out rest) (by decide) (by decide)⟩
end

/-! ### A capture buffer -/

/-- The ring never drops a message that fits it (R551). -/
theorem ringFit_last {n : Nat} {m : Bytes} (h : m.length ≤ n) : ∀ (f : Nat) (l : List Bytes), ∃ k, ringFit f n (l ++ [m]) = k ++ [m]
  | 0, l => ⟨l, rfl⟩
  | f + 1, [] => by
    refine ⟨[], ?_⟩
    rw [ringFit, if_pos (by simpa using h)]
  | f + 1, y :: l => by
    rw [ringFit]
    split
    · exact ⟨y :: l, rfl⟩
    · exact ringFit_last h f l

theorem ringAppend_last {n : Nat} {m : Bytes} (h : m.length ≤ n) (x : Capture) : ∃ k, (ringAppend n m x).ring = k ++ [m] := by
  rw [ringAppend, if_neg (by omega)]
  exact ringFit_last h 4 x.ring

/-- A message that the ring holds is its last, and the rest of the capture is as it was (R548, R549). -/
theorem putRing_last {s : State} {b : Nat} {m : Bytes} (h : m.length ≤ bcRing (bufOf s b).cfg) : ∃ k, (bufOf (putRing s b m) b).ring = k ++ [m] ∧
    (bufOf (putRing s b m) b).state = (bufOf s b).state ∧ (bufOf (putRing s b m) b).reserve = (bufOf s b).reserve := by
  rw [putRing, bufOf_modBuf_self]
  extract_lets n x
  have hx : x.state = (bufOf s b).state ∧ x.reserve = (bufOf s b).reserve := by
    unfold x
    split
    · obtain ⟨h1, -, h3⟩ := ringAppend_rest n (bufMsg s b (bufOf s b).cfg 0x31 0 (some (s.now % 2 ^ 64))) (bufOf s b)
      exact ⟨h1, h3⟩
    · exact ⟨rfl, rfl⟩
  obtain ⟨k, hk⟩ := ringAppend_last h x
  obtain ⟨h1, -, h3⟩ := ringAppend_rest n m x
  exact ⟨k, hk, h1.trans hx.1, h3.trans hx.2⟩

theorem putRing_only (s : State) (b : Nat) (m : Bytes) : OnlyParts [.obs] s (putRing s b m) := modBuf_only s b _

section
variable {s : State} {b : Nat} {m : Bytes}

theorem bufAppend_off (h : (bufOf s b).state = 0) : bufAppend b s m = s := by
  unfold bufAppend
  extract_lets x c
  rw [if_neg (by simp [x, h]), if_pos h]

theorem bufAppend_held (h : (bufOf s b).state = 3) : bufAppend b s m = modBuf s b fun x => { x with droppedAfter := x.droppedAfter + 1 } := by
  unfold bufAppend
  extract_lets x c
  rw [if_pos h]

theorem bufAppend_captures (h : (bufOf s b).state = 1) (ho : bcOwner (bufOf s b).cfg = 0) : bufAppend b s m =
    if triggers (bufOf s b).cfg m then triggerFire (putRing s b m) b (bcKind (bufOf s b).cfg) m else putRing s b m := by
  unfold bufAppend
  extract_lets x c
  rw [if_neg (by simp [x, h]), if_neg (by simp [x, h]), if_neg (by simp [c, x, ho]), if_pos h]
end

theorem refuse_buffers (s : State) (n : Nat) (p : Packet) (c a k d : Nat) : (refuse s n p c a k d).obs.buffers = s.obs.buffers := by
  unfold refuse
  extract_lets u v w x y
  have hy : y.obs.buffers = x.obs.buffers := report_buffers ..
  have hx : x.obs.buffers = w.obs.buffers := event_buffers ..
  rw [show (response y n p 0x22 (leBytes 16 (a % 2 ^ 48)) c).obs = y.obs from response_only _ _ _ _ _ _ _ .obs rfl, hy, hx]
  rfl

section
variable {s u : State} {node : NodeId} {p : Packet} (h : Accepts s node p false u) (hop : p.opcode = 5)
include h hop

omit hop in
theorem Accepts.buf {b : Nat} : bufOf u b = bufOf s b := by rw [bufOf, show u.obs = s.obs from h.only .obs rfl, bufOf]

omit hop in
theorem Accepts.bufferAt (n : Nat) : Machine.bufferAt u n = Machine.bufferAt s n := by
  have hcfg (b : Nat) : bufConfig u b = bufConfig s b := setting_congr (congrArg Epochs.cur (h.only .ep rfl)) (congrArg DictState.rw (h.only .dict rfl)) _ _
  simp only [Machine.bufferAt, hcfg]

theorem traceAppend_performs {b : Nat} {m : Bytes} (hb : bufferAt s node.toNat = some b) (hm : traceMsgs p.payload = [m]) :
    exec (.traceAppend node p) s = .next (bufAppend b u m) := by
  refine (h.acts (by rw [hop]; rfl) _ id).trans ?_
  rw [h.bufferAt, hb, hm]
  rfl

theorem traceAppend_refuses (hb : bufferAt s node.toNat = none) : ∃ t, exec (.traceAppend node p) s = .next t ∧
    Sent t node.toNat 0x22 p.src.toNat (leBytes 16 0) ∧ Reported s t 0x41 2 ∧ t.obs.buffers = s.obs.buffers ∧ OnlyParts [.fab, .integ, .obs] s t := by
  obtain ⟨h1, h2, h3⟩ := refuse_refuses u node.toNat p 0x41 0 2 0
  refine ⟨refuse u node.toNat p 0x41 0 2, (h.acts (by rw [hop]; rfl) _ id).trans (by rw [h.bufferAt, hb]), h1, h2.congr h.integ.symm rfl, ?_,
    h.only.andThen h3 (by decide) (by decide)⟩
  rw [refuse_buffers, show u.obs = s.obs from h.only .obs rfl]
end

/-! ### Snapshots -/

theorem length_tput {α : Type} (t : Table α) {n : Nat} (x : α) (h : tget t n = none) : (tput t n x).length = t.length + 1 := by
  induction t with
  | nil => rfl
  | cons e t ih =>
    obtain ⟨k, y⟩ := e
    rw [tget] at h
    split at h
    · cases h
    next hk =>
      rw [tput]
      split
      · rfl
      · rw [if_neg (by omega), List.length_cons, ih h, List.length_cons]

/-- A snapshot that has missed one event more (R543). -/
def missCounted (x : Snapshot) : Snapshot := { x with missed := x.missed + 1 }

/-- A trace message that a snapshot misses is counted there, and leaves the rest of it (R543). -/
theorem snapOf_event (s : State) (n u ty p l : Nat) (e : Option Nat) (d : Nat) : ∃ k, snapOf (event s n u ty p l e) d = { snapOf s d with missed := k } := by
  unfold event
  extract_lets m t
  have ht : ∃ k, snapOf t d = { snapOf s d with missed := k } := by
    unfold t ringPut
    split
    · by_cases hd : d = dieOf n
      · subst hd
        exact ⟨(snapOf s (dieOf n)).missed + 1, tgetD_tmod_self s.obs.snaps (dieOf n) {} missCounted⟩
      · exact ⟨(snapOf s d).missed, tgetD_tmod_ne s.obs.snaps {} {} missCounted hd⟩
    · exact ⟨_, rfl⟩
  split
  · exact ht
  · exact ht

theorem snapOf_report (s : State) (r : Report) (d : Nat) : ∃ k, snapOf (report s r) d = { snapOf s d with missed := k } := by
  unfold report
  extract_lets r' e t q
  have ht : ∃ k, snapOf t d = { snapOf s d with missed := k } := snapOf_event ..
  split
  · exact ht
  split
  · exact ht
  · exact ht

/-- The state in which a tile has its record (R560). -/
def recordTaken (s : State) (n : Nat) (late : Bool) : State :=
  modSnap (takeDraws s 1188) (dieOf n) fun x =>
    { x with records := tput x.records (localOf n) (snapRecord s n (snapOf s (dieOf n)) late s.freeCount)
             detail := tput x.detail (localOf n) s.freeCount, late := x.late + bitOf late }

theorem recordTaken_snap (s : State) (n : Nat) (late : Bool) : snapOf (recordTaken s n late) (dieOf n) = { snapOf s (dieOf n) with
    records := tput (snapOf s (dieOf n)).records (localOf n) (snapRecord s n (snapOf s (dieOf n)) late s.freeCount)
    detail := tput (snapOf s (dieOf n)).detail (localOf n) s.freeCount, late := (snapOf s (dieOf n)).late + bitOf late } := snapOf_modSnap_self ..

theorem recordTaken_only (s : State) (n : Nat) (late : Bool) : OnlyParts [.free, .obs] s (recordTaken s n late) :=
  onlyParts_of_keeps (modSnap_keeps (takeDraws_keeps (Keeps.refl _ s) rfl) rfl)

/-- A record that is not its die's last leaves the die PENDING. -/
theorem snapCapture_more {s : State} {n : Nat} {late : Bool} (h : (snapOf (recordTaken s n late) (dieOf n)).records.length ≠ 64) :
    snapCapture s n late = recordTaken s n late := if_neg h

/-- What is logged of a complete snapshot, and of records captured late (R560). -/
def snapReport (d cause detail : Nat) : Report := { cause := cause, cls := 1, unit := 0x17, source := serviceTile d, detail := detail }

/-- The state in which a die is HELD and its snapshot is logged (R560). -/
def snapHeld (s : State) (d : Nat) : State :=
  report (modSnap s d fun x => { x with state := 2 }) (snapReport d 0xD2 (2 ^ d))

theorem snapHeld_snap (s : State) (d : Nat) : ∃ k, snapOf (snapHeld s d) d = { snapOf s d with state := 2, missed := k } := by
  obtain ⟨k, hk⟩ := snapOf_report (modSnap s d fun x => { x with state := 2 }) (snapReport d 0xD2 (2 ^ d)) d
  rw [snapOf_modSnap_self] at hk
  exact ⟨k, hk⟩

/-- The last record of a die makes it HELD; records captured late are logged behind (R560). -/
theorem snapCapture_last {s : State} {n : Nat} {late : Bool} (h : (snapOf (recordTaken s n late) (dieOf n)).records.length = 64) :
    snapCapture s n late = if 0 < (snapOf (snapHeld (recordTaken s n late) (dieOf n)) (dieOf n)).late
      then report (snapHeld (recordTaken s n late) (dieOf n)) (snapReport (dieOf n) 0xD3 (snapOf (snapHeld (recordTaken s n late) (dieOf n)) (dieOf n)).late)
      else snapHeld (recordTaken s n late) (dieOf n) := if_pos h

theorem snapCapture_last_snap {s : State} {n : Nat} {late : Bool} (h : (snapOf (recordTaken s n late) (dieOf n)).records.length = 64) :
    ∃ k, snapOf (snapCapture s n late) (dieOf n) = { snapOf (recordTaken s n late) (dieOf n) with state := 2, missed := k } := by
  obtain ⟨k, hk⟩ := snapHeld_snap (recordTaken s n late) (dieOf n)
  rw [snapCapture_last h]
  split
  · obtain ⟨k', hk'⟩ := snapOf_report (snapHeld (recordTaken s n late) (dieOf n))
      (snapReport (dieOf n) 0xD3 (snapOf (snapHeld (recordTaken s n late) (dieOf n)) (dieOf n)).late) (dieOf n)
    exact ⟨k', by rw [hk', hk]⟩
  · exact ⟨k, hk⟩

theorem snapCapture_record (s : State) (n : Nat) (late : Bool) : (tget (snapOf (snapCapture s n late) (dieOf n)).records (localOf n)).isSome = true := by
  have hrec : (tget (snapOf (recordTaken s n late) (dieOf n)).records (localOf n)).isSome = true := by
    rw [recordTaken_snap, tget_tput_self]
    rfl
  by_cases h : (snapOf (recordTaken s n late) (dieOf n)).records.length = 64
  · obtain ⟨k, hk⟩ := snapCapture_last_snap h
    rw [hk]
    exact hrec
  · rw [snapCapture_more h]
    exact hrec

/-! ### FREEZE -/

/-- A snapshot that has just been asked for (R559). -/
def snapPending (f : Freeze) : Snapshot := { state := 1, tf := f.tf, reason := f.reason, seq := f.seq, tag := f.tag }

/-- The state in which a die is PENDING and one tile has latched the FREEZE (R559). -/
def freezeLatched (s : State) (n : Nat) (f : Freeze) : State :=
  modSnap (modSnap s (dieOf n) fun _ => snapPending f) (dieOf n) fun x => { x with latched := tput x.latched (localOf n) s.now }

theorem freezeLatched_snap (s : State) (n : Nat) (f : Freeze) :
    snapOf (freezeLatched s n f) (dieOf n) = { snapPending f with latched := tput [] (localOf n) s.now } := by
  rw [freezeLatched, snapOf_modSnap_self, snapOf_modSnap_self]
  rfl

theorem freezeLatched_only (s : State) (n : Nat) (f : Freeze) : OnlyParts [.obs] s (freezeLatched s n f) :=
  onlyParts_of_keeps (modSnap_keeps (modSnap_keeps (Keeps.refl _ s) rfl) rfl)

section
variable {s : State} {node : NodeId} {f : Freeze} {d : Nat} (hd : d = dieOf node.toNat) (hup : ringUp s d = true) (hsent : (snapOf s d).sent = some f)
include hd hup hsent

theorem freezeLatch_latches : exec (.freezeLatch node) s =
    .next (if f.tf < s.now then snapCapture (freezeLatched s node.toNat f) node.toNat true else freezeLatched s node.toNat f) := by
  subst hd
  show execFreezeLatch node s = _
  unfold execFreezeLatch
  extract_lets n d u x v
  have hu : u = modSnap s d fun _ => snapPending f := by
    unfold u
    rw [hsent]
    rfl
  have hx : x = snapPending f := by
    unfold x
    rw [hu]
    exact snapOf_modSnap_self ..
  have hv : v = freezeLatched s n f := by
    unfold v
    rw [hu]
    rfl
  rw [if_neg (by simp [d, n, hup]), if_neg (by simp [hx, snapPending, tget]), hv, hx]
  rfl

/-- A FREEZE that comes in time is latched (R559). -/
theorem freezeLatch_waits (htf : s.now ≤ f.tf) : ∃ t, exec (.freezeLatch node) s = .next t ∧ (snapOf t d).state = 1 ∧ (snapOf t d).tf = f.tf ∧
    (snapOf t d).reason = f.reason ∧ (snapOf t d).seq = f.seq ∧ tget (snapOf t d).latched (localOf node.toNat) = some s.now ∧ (snapOf t d).records = [] ∧
    (snapOf t d).sent = none ∧ OnlyParts [.obs] s t := by
  have hexec := freezeLatch_latches hd hup hsent
  rw [if_neg (Nat.not_lt.mpr htf)] at hexec
  refine ⟨_, hexec, ?_⟩
  rw [hd, freezeLatched_snap]
  exact ⟨rfl, rfl, rfl, rfl, tget_tput_self .., rfl, rfl, freezeLatched_only _ _ _⟩

/-- One that comes after its tick is captured at once, LATE (R560). -/
theorem freezeLatch_late (htf : f.tf < s.now) : ∃ t, exec (.freezeLatch node) s = .next t ∧ (snapOf t d).state = 1 ∧ (snapOf t d).late = 1 ∧
    (tget (snapOf t d).records (localOf node.toNat)).isSome = true ∧ OnlyParts [.free, .obs] s t := by
  have hexec := freezeLatch_latches hd hup hsent
  rw [if_pos htf] at hexec
  have hsnap := recordTaken_snap (freezeLatched s node.toNat f) node.toNat true
  rw [freezeLatched_snap] at hsnap
  have hmore : snapCapture (freezeLatched s node.toNat f) node.toNat true = recordTaken (freezeLatched s node.toNat f) node.toNat true :=
    snapCapture_more (by rw [hsnap]; simp [snapPending, tput])
  have hrec := snapCapture_record (freezeLatched s node.toNat f) node.toNat true
  rw [hmore] at hexec hrec
  refine ⟨_, hexec, ?_⟩
  rw [hd]
  exact ⟨by rw [hsnap]; rfl, by rw [hsnap]; rfl, hrec, (freezeLatched_only _ _ _).andThen (recordTaken_only _ _ _) (by decide) (by decide)⟩
end

/-- A tile that has latched the FREEZE captures its record; the last of its die makes it HELD (R560). -/
theorem snapshotCapture_captures {s : State} {node : NodeId} {d : Nat} {x : Snapshot} (hd : d = dieOf node.toNat) (hx : x = snapOf s d) (hst : x.state = 1)
    (hlat : (tget x.latched (localOf node.toNat)).isSome = true) (hnone : tget x.records (localOf node.toNat) = none)
    (hreset : s.time.dieReset.contains d = false) : ∃ t, exec (.snapshotCapture node) s = .next t ∧ t.now = Nat.max s.now x.tf ∧
      (tget (snapOf t d).records (localOf node.toNat)).isSome = true ∧
      (x.records.length = 63 → (snapOf t d).state = 2 ∧ (x.late = 0 → Reported s t 0xD2 1)) ∧
      (x.records.length < 63 → (snapOf t d).state = 1 ∧ OnlyParts [.free, .now, .obs] s t) := by
  subst hx
  let u := timeReaches s (snapOf s d).tf
  have hexec : exec (.snapshotCapture node) s = .next (snapCapture u node.toNat false) := by
    subst hd
    show execSnapshotCapture node s = _
    unfold execSnapshotCapture
    extract_lets n d x
    rw [if_neg]
    rw [Option.isSome_iff_ne_none] at hlat
    simp only [Bool.or_eq_true, not_or]
    refine ⟨⟨⟨by simpa [x, d, n] using hst, by simpa [x, d, n] using hlat⟩, ?_⟩, by simpa [d, n] using hreset⟩
    rw [show tget x.records (localOf n) = none from hnone]
    exact Bool.false_ne_true
  have hnow : (snapCapture u node.toNat false).now = u.now := (snapCapture_keeps (Keeps.refl (allBut .now) u) rfl rfl rfl).rest
  have hsnap := recordTaken_snap u node.toNat false
  have hsu : snapOf u (dieOf node.toNat) = snapOf s d := by rw [hd]; rfl
  rw [hsu] at hsnap
  have hlen : (snapOf (recordTaken u node.toNat false) (dieOf node.toNat)).records.length = (snapOf s d).records.length + 1 := by
    rw [hsnap]
    exact length_tput _ _ hnone
  refine ⟨_, hexec, hnow, ?_, fun h63 => ?_, fun h63 => ?_⟩
  · rw [hd]
    exact snapCapture_record ..
  · have h64 : (snapOf (recordTaken u node.toNat false) (dieOf node.toNat)).records.length = 64 := by rw [hlen, h63]
    obtain ⟨k, hk⟩ := snapCapture_last_snap h64
    refine ⟨by rw [hd, hk], fun hlate => ?_⟩
    obtain ⟨m, hm⟩ := snapHeld_snap (recordTaken u node.toNat false) (dieOf node.toNat)
    rw [snapCapture_last h64, if_neg (by rw [hm, hsnap]; simp [hlate, bitOf])]
    exact reported_of_integ (u := modSnap (recordTaken u node.toNat false) (dieOf node.toNat) fun x => { x with state := 2 })
      (r := snapReport (dieOf node.toNat) 0xD2 (2 ^ dieOf node.toNat)) rfl rfl
  · have hmore : snapCapture u node.toNat false = recordTaken u node.toNat false := snapCapture_more (by omega)
    have htime : OnlyParts [.now] s u := onlyParts_of_keeps (timeReaches_keeps (Keeps.refl _ s) rfl)
    rw [hmore]
    exact ⟨by rw [hd, hsnap]; exact hst, htime.andThen (recordTaken_only _ _ _) (by decide) (by decide)⟩

/-! ### A context near its deadline -/

section
variable {s : State} {p : PortId} {c : CtxId} {x : Context} {dies : List Nat} (hx : x = ctxOf s p.val c.val) (hst : x.state = 1) (hasked : x.snapAsked = false)
  (harmed : snapArmed s x.partition = true) (hdead : s.now ≤ x.deadline) (hup : dieUp s (16 + p.val) = true)
  (hdies : dies = partVats s.cfg x.partition ++ [16 + p.val])
include hx hst hasked harmed hdead hup hdies

/-- A context's request for a snapshot near its deadline, and what the managing engine makes of it (R562). -/
theorem deadlineSnapshot_asks : ∃ t, exec (.deadlineSnapshotRequest p c) s = .next t ∧ (ctxOf t p.val c.val).snapAsked = true ∧
    (ctxOf t p.val c.val).state = 1 ∧ t.now = Nat.max s.now (Nat.max x.admitTick (x.deadline - 1000 * setting s 0x70E1 0)) ∧
    (dies.any (snapBusy s) = true ∨ mgmtUp s = false → OnlyParts [.now, .port] s t) ∧
    (dies.any (snapBusy s) = false → mgmtUp s = true → tget t.dict.rw (odKey 0x70E0 x.partition) = some [0] ∧
      (∀ d ∈ dies, ringUp s d = true → (snapOf t d).sent =
        some { tf := x.deadline, reason := 2, seq := s.obs.snapSeq + 1, tag := ctxTag p.val c.val x.gen }) ∧ OnlyParts [.dict, .now, .obs, .port] s t) := by
  subst hx hdies
  let u := modCtx (timeReaches s (Nat.max (ctxOf s p.val c.val).admitTick ((ctxOf s p.val c.val).deadline - 1000 * setting s 0x70E1 0))) p.val c.val
    fun x => { x with snapAsked := true }
  let v := modDict u fun t => { t with rw := tput t.rw (odKey 0x70E0 (ctxOf s p.val c.val).partition) [0] }
  let dies := partVats s.cfg (ctxOf s p.val c.val).partition ++ [16 + p.val]
  let w := freezeSend v dies (ctxOf s p.val c.val).deadline 2 (ctxTag p.val c.val (ctxOf s p.val c.val).gen)
  have hexec : exec (.deadlineSnapshotRequest p c) s = .next (if dies.any (snapBusy s) || !mgmtUp s then u else w) := by
    show execDeadlineSnapshotRequest p c s = _
    unfold execDeadlineSnapshotRequest
    extract_lets p' c' x y z dies'
    rw [if_neg (by simp [x, p', c', hst, hasked, harmed, hup, Nat.not_lt.mpr hdead])]
    cases hcond : (dies.any (snapBusy s) || !mgmtUp s) with
    | true => exact if_pos hcond
    | false => exact if_neg (Bool.eq_false_iff.mp hcond)
  have hctx : ctxOf u p.val c.val = { ctxOf s p.val c.val with snapAsked := true } := ctxOf_modCtx_self ..
  have hu : OnlyParts [.now, .port] s u := onlyParts_of_keeps (modCtx_keeps (timeReaches_keeps (Keeps.refl _ s) rfl) rfl)
  have hw : OnlyParts [.obs] v w := onlyParts_of_keeps (freezeSend_keeps (Keeps.refl _ v) rfl)
  have hall : OnlyParts [.dict, .now, .obs, .port] s w :=
    (hu.andThen (onlyParts_of_keeps (modDict_keeps (Keeps.refl _ u) rfl) : OnlyParts [.dict] u v) (n := [.dict, .now, .port]) (by decide) (by decide)).andThen hw
      (by decide) (by decide)
  refine ⟨_, hexec, ?_⟩
  cases hcond : (dies.any (snapBusy s) || !mgmtUp s) with
  | true =>
    rw [if_pos rfl, hctx]
    refine ⟨rfl, hst, rfl, fun _ => hu, fun hfree hm => ?_⟩
    rw [hm, show dies.any (snapBusy s) = false from hfree] at hcond
    cases hcond
  | false =>
    have hctx' : ctxOf w p.val c.val = ctxOf u p.val c.val := ctxOf_of_port (congrArg PortState.adm (hw .port rfl)) ..
    rw [if_neg Bool.false_ne_true, hctx', hctx]
    refine ⟨rfl, hst, (hw .now rfl).trans rfl, fun hbusy => ?_, fun _ _ => ⟨?_, fun d hd hring => ?_, hall⟩⟩
    · rcases hbusy with h | h
      · rw [show dies.any (snapBusy s) = true from h] at hcond
        cases hcond
      · rw [h, Bool.not_false, Bool.or_true] at hcond
        cases hcond
    · rw [show w.dict = v.dict from hw .dict rfl]
      exact tget_tput_self ..
    · exact sent_foldl _ _ (.inl (List.mem_filter.mpr ⟨hd, hring⟩))
end

section
variable {s u : State} {node : NodeId} {p : Packet} {b : Nat} {m : Bytes} (h : Accepts s node p false u) (hop : p.opcode = 5)
  (hb : bufferAt s node.toNat = some b) (hm : traceMsgs p.payload = [m])
include h hop hb hm

theorem traceAppend_off (hst : (bufOf s b).state = 0) : ∃ t, exec (.traceAppend node p) s = .next t ∧ OnlyParts [.fab] s t :=
  ⟨u, (traceAppend_performs h hop hb hm).trans (by rw [bufAppend_off (by rw [h.buf, hst])]), h.only⟩

theorem traceAppend_held (hst : (bufOf s b).state = 3) : ∃ t, exec (.traceAppend node p) s = .next t ∧
    bufOf t b = { bufOf s b with droppedAfter := (bufOf s b).droppedAfter + 1 } ∧ OnlyParts [.fab, .obs] s t :=
  ⟨_, (traceAppend_performs h hop hb hm).trans (by rw [bufAppend_held (by rw [h.buf, hst])]), by rw [bufOf_modBuf_self, h.buf],
    h.only.andThen (modBuf_only _ _ _) (by decide) (by decide)⟩

section
variable (hst : (bufOf s b).state = 1) (ho : bcOwner (bufOf s b).cfg = 0) (hfits : m.length ≤ bcRing (bufOf s b).cfg)
include hst ho hfits

/-- A buffer that captures takes a message into its ring (R548, R551). -/
theorem traceAppend_captures (htrig : triggers (bufOf s b).cfg m = false) : ∃ (t : State) (l : List Bytes), exec (.traceAppend node p) s = .next t ∧
    (bufOf t b).ring = l ++ [m] ∧ (bufOf t b).state = 1 ∧ (bufOf t b).reserve = (bufOf s b).reserve ∧ OnlyParts [.fab, .obs] s t := by
  obtain ⟨l, h1, h2, h3⟩ := putRing_last (s := u) (b := b) (m := m) (by rw [h.buf]; exact hfits)
  rw [h.buf] at h2 h3
  have happ : bufAppend b u m = putRing u b m := by
    rw [bufAppend_captures (by rw [h.buf, hst]) (by rw [h.buf, ho]), h.buf, if_neg (by simp [htrig])]
  exact ⟨_, l, (traceAppend_performs h hop hb hm).trans (by rw [happ]), h1, h2.trans hst, h3, h.only.andThen (putRing_only _ _ _) (by decide) (by decide)⟩

omit hfits in
/-- A message that meets the trigger condition fires the trigger behind it (R552). -/
theorem traceAppend_triggers (htrig : triggers (bufOf s b).cfg m = true) : ∃ t, exec (.traceAppend node p) s = .next t ∧ (bufOf t b).state = 2 ∧
    (bufOf t b).trigTick = s.now ∧ Reported s t 0xD1 1 ∧ OnlyParts [.fab, .integ, .obs] s t := by
  obtain ⟨h1, h2, -⟩ := bufOf_triggerFire (putRing u b m) b (bcKind (bufOf s b).cfg) m
  have happ : bufAppend b u m = triggerFire (putRing u b m) b (bcKind (bufOf s b).cfg) m := by
    rw [bufAppend_captures (by rw [h.buf, hst]) (by rw [h.buf, ho]), h.buf, if_pos htrig]
  have hput := putRing_only u b m
  refine ⟨_, (traceAppend_performs h hop hb hm).trans (by rw [happ]), h1, h2.trans ((hput .now rfl).trans h.now),
    (triggerFire_reported (putRing u b m) b (bcKind (bufOf s b).cfg) m).congr ((hput .integ rfl).trans h.integ).symm rfl, ?_⟩
  exact (h.only.andThen hput (n := [.fab, .obs]) (by decide) (by decide)).andThen
    (onlyParts_of_keeps (triggerFire_keeps (Keeps.refl _ _) rfl rfl) : OnlyParts [.integ, .obs] _ _) (by decide) (by decide)
end
end

/-- Settles O56: each command by what it leaves of the stage, the buffer or the die's snapshot. -/
theorem observationCommandsComplete : Obligations.ObservationCommandsComplete := by
  unfold Obligations.ObservationCommandsComplete
  intro s u node
  refine ⟨?_, ?_, ?_, ?_, ?_, ?_⟩
  · exact fun b c out rest hup hne htake hb hc => ⟨fun hen hbuf => traceStageSend_sends hup hne htake hb hc hen hbuf,
      fun hoff => traceStageSend_loses hup hne htake hb hc hoff⟩
  · rintro p b m x h hop hb hm rfl
    exact ⟨fun hst => traceAppend_off h hop hb hm hst, fun hst => traceAppend_held h hop hb hm hst,
      fun hst ho htrig hfits => traceAppend_captures h hop hb hm hst ho hfits htrig,
      fun hst ho htrig _ => traceAppend_triggers h hop hb hm hst ho htrig⟩
  · exact fun p h hop hb => traceAppend_refuses h hop hb
  · exact fun d f hd hup hsent => ⟨fun htf => freezeLatch_waits hd hup hsent htf, fun htf => freezeLatch_late hd hup hsent htf⟩
  · exact fun d x hd hx hst hlat hnone hreset => snapshotCapture_captures hd hx hst hlat hnone hreset
  · exact fun p c x dies hx hst hasked harmed hdead hup hdies => deadlineSnapshot_asks hx hst hasked harmed hdead hup hdies

end Sys2Proof.Machine
